-- ==== Sys2Proof/Word.lean ====
section
/-! DEFINITION. The machine's words: device registers and general registers are 32 bits (R29, R204). -/

namespace Sys2Proof

/-- A device register, a general register, an instruction word. -/
abbrev Word := BitVec 32
/-- One byte of memory. -/
abbrev Byte := BitVec 8
/-- The 64-bit counters and pairs (R34). -/
abbrev DWord := BitVec 64
/-- An angle of a spindle's turn, in units of 1/2^32 turn (R43). -/
abbrev Phase := BitVec 32

end Sys2Proof
end

