-- ==== Sys2Proof/Machine/Bits.lean ====
section
/-! DEFINITION. Bit fields (R8), sign extension, little-endian bytes, saturation and the sorted tables that hold
sparse state. -/

namespace Sys2Proof.Machine

/-- Bit `i` of a word (R8). -/
def bitAt (w : Word) (i : Nat) : Bool := w.getLsbD i

/-- The field [h:l] of a word, as a number (R8). -/
def fieldOf (w : Word) (h l : Nat) : Nat := (w.toNat >>> l) % 2 ^ (h + 1 - l)

/-- The word with the field [h:l] replaced by the low bits of `v`. -/
def withField (w : Word) (h l v : Nat) : Word :=
  let m : Word := BitVec.ofNat 32 ((2 ^ (h + 1 - l) - 1) <<< l)
  (w &&& ~~~m) ||| (BitVec.ofNat 32 (v <<< l) &&& m)

/-- The word with bit `i` set to `b`. -/
def withBit (w : Word) (i : Nat) (b : Bool) : Word :=
  let m : Word := BitVec.ofNat 32 (1 <<< i)
  if b then w ||| m else w &&& ~~~m

/-- The word whose only set bit is `i`. -/
def oneBit (i : Nat) : Word := BitVec.ofNat 32 (1 <<< i)

/-- A number as a word, modulo 2^32. -/
abbrev toWord (n : Nat) : Word := BitVec.ofNat 32 n

/-- An integer as a word, modulo 2^32 (two's complement, R7). -/
abbrev intWord (z : Int) : Word := BitVec.ofInt 32 z

/-- 1 or 0. -/
def boolNat (b : Bool) : Nat := if b then 1 else 0

/-- The signed value of the low `n` bits of a number (R7). -/
def signedOf (n v : Nat) : Int :=
  let r := v % 2 ^ n
  if r < 2 ^ (n - 1) then (r : Int) else (r : Int) - 2 ^ n

/-- The nearest integer of the range lo to hi. -/
def clampInt (lo hi z : Int) : Int := if z < lo then lo else if hi < z then hi else z

/-- The nearest signed 32-bit value. -/
def sat32 (z : Int) : Int := clampInt (-0x80000000) 0x7FFFFFFF z

/-- A count that stops at `top`. -/
def satNat (top n : Nat) : Nat := if top < n then top else n

/-- The low and the high word of a 64-bit value. -/
def lowWord (d : DWord) : Word := d.extractLsb' 0 32
def highWord (d : DWord) : Word := d.extractLsb' 32 32

/-- The 64-bit value of a pair: high word, low word. -/
def pairOf (hi lo : Word) : DWord := hi ++ lo

/-- The `n` low bytes of a number, least significant first (R8). -/
def leBytes : Nat → Nat → List Byte
  | 0, _ => []
  | n + 1, v => BitVec.ofNat 8 v :: leBytes n (v / 256)

/-- The number that bytes spell, least significant first (R8). -/
def ofLeBytes : List Byte → Nat
  | [] => 0
  | b :: bs => b.toNat + 256 * ofLeBytes bs

/-- The entry of key `k` in a table, or the default. -/
def tabGet {α : Type} (d : α) (k : Nat) : List (Nat × α) → α
  | [] => d
  | (k', v) :: r => if k' = k then v else tabGet d k r

/-- The table without key `k`. -/
def tabErase {α : Type} (k : Nat) : List (Nat × α) → List (Nat × α)
  | [] => []
  | (k', v) :: r => if k' = k then tabErase k r else (k', v) :: tabErase k r

/-- A table with a new key put where it keeps the keys rising. -/
def tabInsert {α : Type} (k : Nat) (v : α) : List (Nat × α) → List (Nat × α)
  | [] => [(k, v)]
  | (k', v') :: r => if k < k' then (k, v) :: (k', v') :: r else (k', v') :: tabInsert k v r

/-- The table with `v` at key `k`; a default value is not listed, so equal contents are equal lists. -/
def tabSet {α : Type} [DecidableEq α] (d : α) (k : Nat) (v : α) (t : List (Nat × α)) : List (Nat × α) :=
  if v = d then tabErase k t else tabInsert k v (tabErase k t)

/-- Do the keys rise strictly, and is no default value listed? -/
def tabWf {α : Type} [DecidableEq α] (d : Nat → α) : List (Nat × α) → Bool
  | [] => true
  | [(k, v)] => decide (v ≠ d k)
  | (k, v) :: (k', v') :: r => decide (v ≠ d k) && decide (k < k') && tabWf d ((k', v') :: r)

end Sys2Proof.Machine
end

