-- ==== Sys2Proof/Syntax.lean ====
section
/-! DEFINITION. The commands of the block: one constructor of `Instr` for each row of spec/opcode_table.json, with the
operands that the row's rule names. -/

namespace Sys2Proof

/-- The requesters of a register access, in the order in which same-cycle accesses are applied (R32). -/
inductive Requester where
  | tailstock | portA | portB
  | core (n : Fin 16)
  | dma | debug
  deriving DecidableEq, Repr

/-- The two host ports. -/
inductive Port where
  | a | b
  deriving DecidableEq, Repr

/-- The two outputs of a PWM pair (R159). -/
inductive PwmSide where
  | a | b
  deriving DecidableEq, Repr

/-- What a pair's carrier position reaches (R162, R165): the slot that opens the output, the slot that closes it,
or the end of a dead time. -/
inductive PwmEdgeKind where
  | opening | closing | deadTimeEnd
  deriving DecidableEq, Repr

/-- What restarts a carrier, or ends its lock (R161): a compare event line, a group's period event, the locked spindle. -/
inductive SyncSource where
  | line (q : Fin 616)
  | group (g : Fin 24)
  | spindle
  deriving DecidableEq, Repr

/-- A restart event of a group's carrier with its source (R161). -/
structure RestartEvent where
  group : Fin 24
  source : SyncSource
  deriving DecidableEq, Repr

/-- A phase that an update carries for its update cycle t_u, with the cycles that have passed since t_u (R53, R56). -/
structure StampedPhase where
  phase : Word
  age : Word
  deriving DecidableEq, Repr

/-- A comparator with the voltage of its input in microvolts (R116). -/
structure ComparatorInput where
  comparator : Fin 72
  microvolts : Nat
  deriving DecidableEq, Repr

/-- A TRIP_IN pin with the path on which its level arrives: none the asynchronous path, else the filter of that local
zone (R170, R184). -/
structure TripPath where
  pin : Fin 12
  filter : Option (Fin 8)
  deriving DecidableEq, Repr

/-- The load points of a carrier (R160, R162): the group's period start, and the zero and the peak of one pair. -/
inductive CarrierPoint where
  | period
  | pairZero (p : Fin 4)
  | pairPeak (p : Fin 4)
  deriving DecidableEq, Repr

/-- The write that may change an ADC's route: of one sequence entry, or of ADC_CTL with its park entry (R111). -/
inductive RouteWrite where
  | seq (e : Fin 64)
  | control
  deriving DecidableEq, Repr

/-- A reply on the AUX channel (R345): acknowledged with its data, not acknowledged, or deferred. -/
inductive AuxReply where
  | ack (data : List Byte)
  | nack
  | defer
  deriving DecidableEq, Repr

/-- How a step of DRAM training ends (R285): it completes, gets no result within 1 ms, or completes the training of the
last channel with the installed size in 256 MiB units. -/
inductive TrainStep where
  | done
  | noResult
  | trained (units : Fin 129)
  deriving DecidableEq, Repr

/-- Which copies of a plate word failed detection (R96): the near-window word alone, the store's too, or both copies
in DRAM. -/
inductive PlateFault where
  | nearWord | storeWord | bothCopies
  deriving DecidableEq, Repr

/-- What a PCIe configuration request sets (R376, R381): Bus Master Enable; MSI-X enable and function mask; the
completion timeout range. -/
inductive ConfigWrite where
  | busMaster (on : Bool)
  | msix (enable mask : Bool)
  | completionTimeout (range : BitVec 4)
  deriving DecidableEq, Repr

/-- An inbound BAR0 memory request (R379): a read of `n` words, a write of words, or a read or write whose byte
enables leave part of a word out; a longer request with such a word is sent as the runs around it and the word. -/
inductive HostReq where
  | read (n : Fin 1025)
  | write (data : List Word)
  | partialRead
  | partialWrite (data : Word)
  deriving DecidableEq, Repr

/-- The queued registers of a check-value unit (R438). -/
inductive CvReg where
  | data8 | data16 | data32 | init | aliveIn | check
  deriving DecidableEq, Repr

/-- What a scrubber reads next (R432, R435): a unit of DRAM, TCM or a scratch bank, a clean or a dirty L2 line, a word of the
tailstock SRAM, a word of an entry in the plate, of a loop's state, history or coefficients, a palette, gamma or voice
word by its register offset, a pixel of the scan-out buffer, or the stored check value of a console line. -/
inductive ScrubUnit where
  | memory (addr : BitVec 40)
  | cleanL2 (addr : BitVec 40)
  | tsRam (addr : BitVec 19)
  | plate (idx : Fin 2097152) (which : PlateFault)
  | loopState (ctx : Fin 384)
  | loopHistory (ctx : Fin 384) (i : Fin 4)
  | loopBank (ctx : Fin 384)
  | mediaWord (off : BitVec 28)
  | scanBuffer (h : Fin 2) (l : Fin 8) (line x : BitVec 13)
  | lineCheck (k : Fin 512) (line : BitVec 16)
  | glyphCache
  deriving DecidableEq, Repr

/-- The PLLs of single units (R18). -/
inductive UnitPll where
  | audio | video0 | video1 | dram
  deriving DecidableEq, Repr

/-- A supply that can fall and return: GPIO bank VDDIO_G_b, PWM bank VDDIO_P_b, VDDA, VDD_CORE, the DRAM supplies (R19,
R446, R469). -/
inductive Supply where
  | gpio (b : Fin 10)
  | pwm (b : Fin 6)
  | vdda | vddCore | ddr
  deriving DecidableEq, Repr

/-- The islands that tailstock firmware switches (R19). -/
inductive Island where
  | core (n : Fin 16)
  | sector (k : Fin 6)
  | media
  deriving DecidableEq, Repr

/-- How a NOR program or erase ends (R409, R413). -/
inductive NorResult where
  | verified | failed | noAnswer
  deriving DecidableEq, Repr

/-- The kinds of tamper event, as TS_TAMPER_CAUSE names them (R424, R427). -/
inductive TamperCause where
  | mesh | supply | clock | otpParity
  deriving DecidableEq, Repr

/-- The width of a device-register access (R29). -/
inductive AccessSize where
  | byte | half | word
  deriving DecidableEq, Repr

/-- What a PCIe completion of an outbound read brings (R381): data, or an error status or poison. -/
inductive CplResult where
  | data (bytes : List Byte)
  | error
  deriving DecidableEq, Repr

/-- An inbound access to one word of BAR2 (R380): a read, or a write with its byte enables. -/
inductive MailAccess where
  | read
  | write (enables : BitVec 4) (data : Word)
  deriving DecidableEq, Repr

/-- The later port's access to the same word in one arbitration window (R283). -/
structure MailOther where
  port : Port
  acc : MailAccess
  deriving DecidableEq, Repr

/-- What an access of a core needs a translation for (R260). -/
inductive WalkKind where
  | fetch | load | store
  deriving DecidableEq, Repr

/-- The commands of the table: the rows of chapter 09 (the IvSON instructions) first, then the others, in its order. -/
inductive Instr where
  /-- ADD (R211). ADD writes ga + gb modulo 2^32 to gd. Core c; 16 is the tailstock core. -/
  | add (c : Fin 17) (gd : Fin 32) (ga : Fin 32) (gb : Fin 32)
  /-- SUB (R211). SUB writes ga - gb modulo 2^32 to gd. -/
  | sub (c : Fin 17) (gd : Fin 32) (ga : Fin 32) (gb : Fin 32)
  /-- AND (R211). AND writes the bitwise AND of ga and gb. -/
  | andOp (c : Fin 17) (gd : Fin 32) (ga : Fin 32) (gb : Fin 32)
  /-- OR (R211). OR writes the bitwise OR of ga and gb. -/
  | orOp (c : Fin 17) (gd : Fin 32) (ga : Fin 32) (gb : Fin 32)
  /-- XOR (R211). XOR writes the bitwise XOR of ga and gb. -/
  | xor (c : Fin 17) (gd : Fin 32) (ga : Fin 32) (gb : Fin 32)
  /-- ORN (R211). ORN writes ga OR NOT gb. -/
  | orn (c : Fin 17) (gd : Fin 32) (ga : Fin 32) (gb : Fin 32)
  /-- LT (R211). LT writes 1 if ga < gb signed, else 0. -/
  | lt (c : Fin 17) (gd : Fin 32) (ga : Fin 32) (gb : Fin 32)
  /-- LTU (R211). LTU writes 1 if ga < gb unsigned, else 0. -/
  | ltu (c : Fin 17) (gd : Fin 32) (ga : Fin 32) (gb : Fin 32)
  /-- EQ (R211). EQ writes 1 if ga equals gb. -/
  | eq (c : Fin 17) (gd : Fin 32) (ga : Fin 32) (gb : Fin 32)
  /-- NE (R211). NE writes 1 if ga differs from gb. -/
  | ne (c : Fin 17) (gd : Fin 32) (ga : Fin 32) (gb : Fin 32)
  /-- MIN (R211). MIN writes the signed minimum. -/
  | min (c : Fin 17) (gd : Fin 32) (ga : Fin 32) (gb : Fin 32)
  /-- MAX (R211). MAX writes the signed maximum. -/
  | max (c : Fin 17) (gd : Fin 32) (ga : Fin 32) (gb : Fin 32)
  /-- SLL (R211). SLL shifts ga left by gb[4:0]. -/
  | sll (c : Fin 17) (gd : Fin 32) (ga : Fin 32) (gb : Fin 32)
  /-- SRL (R211). SRL shifts ga right logically by gb[4:0]. -/
  | srl (c : Fin 17) (gd : Fin 32) (ga : Fin 32) (gb : Fin 32)
  /-- SRA (R211). SRA shifts ga right arithmetically by gb[4:0]. -/
  | sra (c : Fin 17) (gd : Fin 32) (ga : Fin 32) (gb : Fin 32)
  /-- ROR (R211). ROR rotates ga right by gb[4:0]. -/
  | ror (c : Fin 17) (gd : Fin 32) (ga : Fin 32) (gb : Fin 32)
  /-- SLLI (R211). SLLI shifts ga left by the gb field as a number. -/
  | slli (c : Fin 17) (gd : Fin 32) (ga : Fin 32) (n : Fin 32)
  /-- SRLI (R211). SRLI shifts ga right logically by the gb field. -/
  | srli (c : Fin 17) (gd : Fin 32) (ga : Fin 32) (n : Fin 32)
  /-- SRAI (R211). SRAI shifts ga right arithmetically by the gb field. -/
  | srai (c : Fin 17) (gd : Fin 32) (ga : Fin 32) (n : Fin 32)
  /-- RORI (R211). RORI rotates ga right by the gb field. -/
  | rori (c : Fin 17) (gd : Fin 32) (ga : Fin 32) (n : Fin 32)
  /-- MUL (R211). MUL writes the low 32 bits of ga x gb. -/
  | mul (c : Fin 17) (gd : Fin 32) (ga : Fin 32) (gb : Fin 32)
  /-- MULHI (R211). MULHI writes the high 32 bits of the signed product. -/
  | mulhi (c : Fin 17) (gd : Fin 32) (ga : Fin 32) (gb : Fin 32)
  /-- MULHIU (R211). MULHIU writes the high 32 bits of the unsigned product. -/
  | mulhiu (c : Fin 17) (gd : Fin 32) (ga : Fin 32) (gb : Fin 32)
  /-- DIV (R212). DIV writes the signed quotient rounded towards zero, with defined boundary results. -/
  | div (c : Fin 17) (gd : Fin 32) (ga : Fin 32) (gb : Fin 32)
  /-- DIVU (R212). DIVU writes the unsigned quotient. -/
  | divu (c : Fin 17) (gd : Fin 32) (ga : Fin 32) (gb : Fin 32)
  /-- MOD (R212). MOD writes the signed remainder with the sign of ga. -/
  | mod (c : Fin 17) (gd : Fin 32) (ga : Fin 32) (gb : Fin 32)
  /-- MODU (R212). MODU writes the unsigned remainder. -/
  | modu (c : Fin 17) (gd : Fin 32) (ga : Fin 32) (gb : Fin 32)
  /-- CLZ (R222). CLZ writes the number of leading zeros of ga. -/
  | clz (c : Fin 17) (gd : Fin 32) (ga : Fin 32)
  /-- JMPR (R211). JMPR jumps to ga after its delay slot. -/
  | jmpr (c : Fin 17) (ga : Fin 32)
  /-- CALLR (R211). CALLR writes the return address to gd and jumps to ga after its delay slot. -/
  | callr (c : Fin 17) (gd : Fin 32) (ga : Fin 32)
  /-- LLW (R218). LLW loads a word at L2 and sets the core's reservation on its granule. -/
  | llw (c : Fin 17) (gd : Fin 32) (ga : Fin 32)
  /-- SCW (R218). SCW stores gb only if the reservation holds, writes the status and clears the reservation. -/
  | scw (c : Fin 17) (gd : Fin 32) (ga : Fin 32) (gb : Fin 32)
  /-- XFER (R228). XFER copies memory in 16-byte units, keeping its progress in its operand registers. One
    unit. -/
  | xfer (c : Fin 17) (gd : Fin 32) (ga : Fin 32) (gb : Fin 32)
  /-- CRCB (R229). CRCB computes a check value over memory in units under CRCCFG and CRCPOLY. One unit. -/
  | crcb (c : Fin 17) (gd : Fin 32) (ga : Fin 32) (gb : Fin 32)
  /-- FENCE (R219). FENCE completes when earlier accesses complete and the store buffer has drained. -/
  | fence (c : Fin 17)
  /-- SYNC (R219). SYNC does what FENCE does and also cleans every dirty L1D line to L2. -/
  | sync (c : Fin 17)
  /-- RETX (R250). RETX restores STATUS and the exception registers from the frame and resumes at EPC. -/
  | retx (c : Fin 17)
  /-- TRAP (R211). TRAP raises the trap exception. -/
  | trap (c : Fin 17) (code : BitVec 15)
  /-- BKPT (R211). BKPT raises the breakpoint exception. -/
  | bkpt (c : Fin 17) (code : BitVec 15)
  /-- WAIT (R211). WAIT stalls until an interrupt is presented. -/
  | wait (c : Fin 17)
  /-- ADDI (R213). ADDI writes ga plus the sign-extended immediate. -/
  | addi (c : Fin 17) (gd : Fin 32) (ga : Fin 32) (imm : BitVec 16)
  /-- ANDI (R213). ANDI writes ga AND the zero-extended immediate. -/
  | andi (c : Fin 17) (gd : Fin 32) (ga : Fin 32) (imm : BitVec 16)
  /-- ORI (R213). ORI writes ga OR the zero-extended immediate. -/
  | ori (c : Fin 17) (gd : Fin 32) (ga : Fin 32) (imm : BitVec 16)
  /-- XORI (R213). XORI writes ga XOR the zero-extended immediate. -/
  | xori (c : Fin 17) (gd : Fin 32) (ga : Fin 32) (imm : BitVec 16)
  /-- LTI (R213). LTI writes 1 if ga is below the immediate, signed. -/
  | lti (c : Fin 17) (gd : Fin 32) (ga : Fin 32) (imm : BitVec 16)
  /-- LTIU (R213). LTIU writes 1 if ga is below the immediate, unsigned. -/
  | ltiu (c : Fin 17) (gd : Fin 32) (ga : Fin 32) (imm : BitVec 16)
  /-- EQI (R213). EQI writes 1 if ga equals the immediate. -/
  | eqi (c : Fin 17) (gd : Fin 32) (ga : Fin 32) (imm : BitVec 16)
  /-- NEI (R213). NEI writes 1 if ga differs from the immediate. -/
  | nei (c : Fin 17) (gd : Fin 32) (ga : Fin 32) (imm : BitVec 16)
  /-- LHI (R213). LHI writes the immediate shifted left by 16. -/
  | lhi (c : Fin 17) (gd : Fin 32) (imm : BitVec 16)
  /-- BFX (R220). BFX extracts a bit field of ga with sign or zero extension. len is one less than the length.
    -/
  | bfx (c : Fin 17) (gd : Fin 32) (ga : Fin 32) (sgn : Bool) (pos : Fin 32) (len : Fin 32)
  /-- BFI (R221). BFI inserts the low bits of ga into a field of gd. len is one less than the length. -/
  | bfi (c : Fin 17) (gd : Fin 32) (ga : Fin 32) (pos : Fin 32) (len : Fin 32)
  /-- PERM (R223). PERM builds each result byte from ga, the old gd or zero. -/
  | perm (c : Fin 17) (gd : Fin 32) (ga : Fin 32) (sel : BitVec 16)
  /-- LOOP (R224). LOOP sets up a hardware loop level with the count in ga. -/
  | loop (c : Fin 17) (level : Fin 4) (ga : Fin 32) (stop : BitVec 16)
  /-- LOOPI (R224). LOOPI sets up a hardware loop level with an immediate count. -/
  | loopi (c : Fin 17) (level : Fin 4) (count : BitVec 12) (stop : BitVec 12)
  /-- CRD (R205). CRD reads a control register into gd. -/
  | crd (c : Fin 17) (gd : Fin 32) (cr : BitVec 16)
  /-- CWR (R207). CWR writes a control register with effect from the fourth following instruction. -/
  | cwr (c : Fin 17) (cr : BitVec 16) (ga : Fin 32)
  /-- LD (R216). LD loads a byte, half-word or word, with optional base update and a load delay slot. -/
  | ld (c : Fin 17) (gt : Fin 32) (ga : Fin 32) (off : BitVec 12) (size : AccessSize) (sgn : Bool) (upd : Bool)
  /-- ST (R216). ST stores the low bytes of gt into the store buffer. -/
  | st (c : Fin 17) (gt : Fin 32) (ga : Fin 32) (off : BitVec 12) (size : AccessSize) (upd : Bool)
  /-- CACHE_CLEAN (R219). CACHE with gt 0 writes a dirty L1D line to L2. -/
  | cacheClean (c : Fin 17) (ga : Fin 32) (off : BitVec 12)
  /-- CACHE_INVALIDATE (R219). CACHE with gt 1 invalidates an L1D line without writing. -/
  | cacheInvalidate (c : Fin 17) (ga : Fin 32) (off : BitVec 12)
  /-- CACHE_CLEAN_INVALIDATE (R219). CACHE with gt 2 cleans and invalidates an L1D line. -/
  | cacheCleanInvalidate (c : Fin 17) (ga : Fin 32) (off : BitVec 12)
  /-- CACHE_INVALIDATE_I (R219). CACHE with gt 3 invalidates an L1I line. -/
  | cacheInvalidateI (c : Fin 17) (ga : Fin 32) (off : BitVec 12)
  /-- CACHE_PREFETCH (R219). CACHE with gt 4 prefetches a line into L1D without raising exceptions. -/
  | cachePrefetch (c : Fin 17) (ga : Fin 32) (off : BitVec 12)
  /-- BZ (R214). BZ branches when ga is zero, after its delay slot. -/
  | bz (c : Fin 17) (ga : Fin 32) (off : BitVec 21)
  /-- BNZ (R214). BNZ branches when ga is nonzero, after its delay slot. -/
  | bnz (c : Fin 17) (ga : Fin 32) (off : BitVec 21)
  /-- J (R214). J jumps to a PC-relative target after its delay slot. -/
  | jump (c : Fin 17) (off : BitVec 26)
  /-- CALL (R214). CALL writes the return address to gd and jumps after its delay slot. -/
  | call (c : Fin 17) (gd : Fin 32) (off : BitVec 21)
  /-- MACS (R230). MACS adds ga x gb to the accumulator with saturation. -/
  | macs (c : Fin 17) (ga : Fin 32) (gb : Fin 32)
  /-- MACZ (R230). MACZ sets the accumulator to ga x gb. -/
  | macz (c : Fin 17) (ga : Fin 32) (gb : Fin 32)
  /-- MACR (R231). MACR writes the rounded, saturated accumulator as Q1.31. -/
  | macr (c : Fin 17) (gd : Fin 32)
  /-- MULQ (R231). MULQ writes the rounded, saturated Q1.31 product. -/
  | mulq (c : Fin 17) (gd : Fin 32) (ga : Fin 32) (gb : Fin 32)
  /-- ADDS (R230). ADDS writes the signed saturating sum. -/
  | adds (c : Fin 17) (gd : Fin 32) (ga : Fin 32) (gb : Fin 32)
  /-- SUBS (R230). SUBS writes the signed saturating difference. -/
  | subs (c : Fin 17) (gd : Fin 32) (ga : Fin 32) (gb : Fin 32)
  /-- SINCOS (R232). SINCOS writes the sine and cosine of an angle in turns to gd and gd+1. -/
  | sincos (c : Fin 17) (gd : Fin 32) (ga : Fin 32)
  /-- ANGLE (R232). ANGLE writes the angle of the vector in turns. -/
  | angle (c : Fin 17) (gd : Fin 32) (ga : Fin 32) (gb : Fin 32)
  /-- MAG (R232). MAG writes the magnitude of the vector. -/
  | mag (c : Fin 17) (gd : Fin 32) (ga : Fin 32) (gb : Fin 32)
  /-- LPOLL (R147). LPOLL waits for and takes the next posted sample of a CORE context. -/
  | lpoll (c : Fin 17) (gd : Fin 32) (ga : Fin 32)
  /-- LPUT (R147). LPUT sends a value as u[0] to stage 6 of a CORE context. -/
  | lput (c : Fin 17) (ga : Fin 32) (gb : Fin 32)
  /-- PINS (R89). PINS inserts an entry image from own TCM into a hole and returns the result word. -/
  | pins (c : Fin 17) (gd : Fin 32) (ga : Fin 32) (gb : Fin 32)
  /-- PREM (R89). PREM removes the entry named by a handle and returns the result word. -/
  | prem (c : Fin 17) (gd : Fin 32) (ga : Fin 32)
  /-- INTERRUPT_LATCH (R266). A core with ie set latches the presented interrupt at the D boundary and enters
    the interrupt vector. -/
  | interruptLatch (c : Fin 17)
  /-- IMPRECISE_BUS_ERROR (R253). A bus error returned for a posted store is taken at the next instruction
    boundary. -/
  | impreciseBusError (c : Fin 17)
  /-- STORE_BUFFER_DRAIN (R241). The oldest store-buffer entry drains to TCM, L1 or its target. -/
  | storeBufferDrain (c : Fin 17)
  /-- LOAD_DATA_RETURN (R239). Data of a load that missed or waited arrives and releases the pipe held in M. -/
  | loadDataReturn (c : Fin 17)
  /-- TABLE_WALK (R259). A TLB miss walks the tables at L2 and fills the TLB or raises a translation fault. -/
  | tableWalk (c : Fin 16) (va : Word) (kind : WalkKind)
  /-- RESERVED_INSTRUCTION (R210). A core executes a word with an unlisted major opcode, func or cfunc, or a
    CP3 opcode, and raises the reserved-instruction or coprocessor-absent exception. The word executed. -/
  | reservedInstruction (c : Fin 17) (w : Word)
  /-- REGISTER_WRITE (R31). A write to a device register that has no row of its own takes effect in its block
    at the time its clock domain gives. -/
  | registerWrite (q : Requester) (off : BitVec 28) (size : AccessSize) (data : Word)
  /-- LOW_WORD_READ (R34). Reading the low word of a read-latched pair latches the high word of the same cycle
    into the requester's shadow. -/
  | lowWordRead (q : Requester) (off : BitVec 28)
  /-- SNAPSHOT_TRIGGER (R35). A trigger write to GCTL_SNAP copies the selected counters in one FCLK cycle, then
    sets done. The words of the triggers that take effect at one TCLK edge. -/
  | snapshotTrigger (values : List Word)
  /-- SCLK_WRITE_EFFECT (R37). A pending write to an SCLK register takes effect at the second SCLK edge and
    sync_busy clears when none is pending. -/
  | sclkWriteEffect (idx : Fin 4)
  /-- POWER_GOOD (R470). Power-good releases power-on reset, samples the straps and starts the boot ROM.
    SAFE_SEL_1, SAFE_SEL_0, and which clocks and supply are present. -/
  | powerGood (straps : BitVec 2) (reference : Bool) (crystal : Bool) (vdda : Bool)
  /-- SYS_PWRGD_FALL (R471). A falling SYS_PWRGD asserts power-on reset within 1 us and sends every PWM output
    to its safe level. -/
  | sysPwrgdFall
  /-- FCLK_LOST (R18). The FCLK monitor finds no edge within its window; pads force PWM outputs safe and loops,
    plate and cores stop. -/
  | fclkLost
  /-- REFERENCE_LOST (R18). The reference monitor finds no edge; TCLK switches to the RC fallback and FCLK is
    lost. -/
  | referenceLost
  /-- CRYSTAL_LOST (R18). The crystal monitor finds no edge; SCLK switches to the reference divided by 763. -/
  | crystalLost
  /-- TCLK_LOST (R18). TCLK or the tailstock PLL lock is lost; within 2 RC cycles TCLK switches to the RC
    fallback. -/
  | tclkLost
  /-- UNIT_PLL_LOST (R18). The audio, video or DRAM PLL is lost; the dependent unit stops, mutes or blanks. -/
  | unitPllLost (u : UnitPll)
  /-- ISLAND_SWITCH (R19). Tailstock firmware switches a core, sector or media island on or off. -/
  | islandSwitch (idx : Island) (on : Bool)
  /-- SPINDLE_ENABLE (R55). Writing enable 1 moves a spindle from OFF to ACQUIRE, and its decoder takes its
    reference state. Bit 31 of the written SPN_CTRL is 1. -/
  | spindleEnable (n : Fin 154) (ctrl : Word)
  /-- SPINDLE_DISABLE (R55). Writing enable 0 moves a spindle to OFF. Bit 31 of the written SPN_CTRL is 0. -/
  | spindleDisable (n : Fin 154) (ctrl : Word)
  /-- ENCODER_EDGE (R49). A filtered encoder edge updates the count, the anchor and the velocity estimate of
    each spindle using the interface. The new filtered levels of A and B. -/
  | encoderEdge (k : Fin 32) (a : Bool) (b : Bool)
  /-- HALL_CODE_CHANGE (R47). A change of the filtered Hall code is judged against the reference code and
    counts plus or minus one. -/
  | hallCodeChange (k : Fin 32) (code : Fin 8)
  /-- INDEX_PULSE (R48). An index pulse resyncs, confirms or checks the count according to index_req,
    index_check and index_correct. -/
  | indexPulse (k : Fin 32)
  /-- SPINDLE_TIMEOUT (R55). No edge for SPN_TIMEOUT cycles moves an encoder or Hall spindle to STOPPED; an
    observer or mains spindle goes to COAST. -/
  | spindleTimeout (n : Fin 154)
  /-- SPINDLE_COAST_EXPIRY (R55). After SPN_COAST cycles in COAST the spindle enters LOST. -/
  | spindleCoastExpiry (n : Fin 154)
  /-- OBSERVER_UPDATE (R53). An update from the named loop context arrives with phase, velocity and converged
    flag and may lock or resync the spindle. -/
  | observerUpdate (ctx : Fin 384) (phase : StampedPhase) (vel : Word) (converged : Bool)
  /-- MAINS_UPDATE (R56). A mains PLL update arrives with phase, frequency and rocof and is checked against
    SPN_FWIN. -/
  | mainsUpdate (ctx : Fin 384) (phase : StampedPhase) (freq : Word) (rocof : Word) (locked : Bool)
  /-- SPN_SET_PHASE (R55). A write of SPN_SET_PHASE replaces the position with the staged turns as a resync. -/
  | spnSetPhase (n : Fin 154) (value : Word)
  /-- SPN_OFFSET (R55). A write of SPN_OFFSET moves the position as a resync, or is only stored in PARTED. -/
  | spnOffset (n : Fin 154) (value : Word)
  /-- SPINDLE_SOURCE_CHANGE (R55). A write of SPN_CPT or SPN_SRC while enabled resyncs with the present
    position and uses the new source. A write of SPN_CPT, or else of SPN_SRC. -/
  | spindleSourceChange (n : Fin 154) (cpt : Bool) (value : Word)
  /-- SPN_EPOCH_LO (R58). A write of SPN_EPOCH_LO applies the staged high word and recomputes a free spindle's
    position as a resync. -/
  | spnEpochLo (n : Fin 154) (value : Word)
  /-- SPN_PERIOD (R58). A write of SPN_PERIOD recomputes a free spindle's position as a resync. -/
  | spnPeriod (n : Fin 154) (value : Word)
  /-- FREE_SPINDLE_EPOCH (R58). When time reaches the epoch a free spindle resyncs from ACQUIRE into LOCKED. -/
  | freeSpindleEpoch (n : Fin 154)
  /-- PTP_CLOCK_STEP (R59). A write of ETH_PTP_STEP_HI steps the MAC clock and resyncs the free spindles on it.
    -/
  | ptpClockStep (mac : Fin 2) (hi : Word)
  /-- MAC_CLOCK_DISABLED (R59). A disabled MAC clock sends its free spindles to COAST at the last rate. -/
  | macClockDisabled (mac : Fin 2)
  /-- COMPARE_ARM (R60). A write that changes arm from 0 to 1 arms a spindle compare, and a REACH unit may fire
    as a late catch-up. -/
  | compareArm (n : Fin 154) (idx : Fin 4) (value : Word)
  /-- COMPARE_FIRE (R60). An armed compare whose value is crossed fires, sets cmp_fired and drives its event
    line. -/
  | compareFire (n : Fin 154) (idx : Fin 4)
  /-- CAPTURE_TRIGGER (R62). A selected trigger source captures the spindle's phase and turns, with overrun
    handled by keep. -/
  | captureTrigger (trig : Fin 744)
  /-- SW_TRIGGER (R68). A write of sw_trigger captures now, whatever enable holds. -/
  | swTrigger (n : Fin 154) (value : Word)
  /-- TIMER_WRAP (R70). A general timer reaches its top or zero, wraps or reloads and sets wrap. -/
  | timerWrap (t : Fin 64)
  /-- TIMER_COMPARE (R71). A general timer's armed compare fires when its value is crossed or caught up. -/
  | timerCompare (t : Fin 64)
  /-- GT_COUNT (R72). A write of GT_COUNT sets the count, discarding a same-cycle increment. -/
  | gtCount (t : Fin 64) (value : Word)
  /-- PLATE_INSERT (R86). A read of PLATE_INSERT takes a free entry, links it into the staged hole and returns
    a handle. -/
  | plateInsert (q : Requester)
  /-- PLATE_REMOVE (R91). A read of PLATE_REMOVE unlinks and frees the entry named by the staged handle. -/
  | plateRemove (q : Requester)
  /-- PLATE_ALLOC (R86). A read of PLATE_ALLOC takes a free entry and a chain-pool slot without linking it. -/
  | plateAlloc (q : Requester)
  /-- PLATE_WRITE (R90). A read of PLATE_WRITE stores the staged words in an allocated entry or replaces target
    and data of a linked one. -/
  | plateWrite (q : Requester)
  /-- PLATE_RELEASE (R86). A read of PLATE_RELEASE frees an allocated unlinked entry and its chain-pool slot.
    -/
  | plateRelease (q : Requester)
  /-- PLATE_FETCH (R86). A read of PLATE_FETCH copies the named entry into PLATE_RD_W0 to W3. -/
  | plateFetch (q : Requester)
  /-- PLATE_PROBE (R87). A read of PLATE_PROBE returns the staged hole's count and near state. -/
  | plateProbe (q : Requester)
  /-- PLATE_STORE_WRITE_DONE (R90). An operation on a hole outside the lookahead completes its store and mirror
    writes. -/
  | plateStoreWriteDone (hole : Fin 1048576)
  /-- ENTRY_DUE (R83). A spindle crossing an entry's event phase in an allowed direction and turn makes the
    entry due. -/
  | entryDue (idx : Fin 2097152)
  /-- ENTRY_FIRE (R84). The dispatcher fires the first due entry in the order of R84 and sends its action. -/
  | entryFire
  /-- NOP (R79). A NOP action does nothing but take a dispatch slot. -/
  | nopAction
  /-- MWRITE (R80). An MWRITE action writes its data to the target register as a hardware update. -/
  | mwrite (part : Fin 154) (target : Word) (data : Word)
  /-- RADD (R80). A RADD action adds its signed data to an FCLK RW register in one block cycle. -/
  | radd (part : Fin 154) (target : Word) (data : Word)
  /-- ADCTRIG (R107). An ADCTRIG action triggers the named ADC at the given sequence entry. -/
  | adctrig (target : Word) (data : Word)
  /-- DMAKICK (R293). A DMAKICK action kicks the named DMA channel. -/
  | dmakick (target : Word) (data : Word)
  /-- DOORBELL (R264). A DOORBELL action sets the doorbell latch of a shared source. -/
  | doorbell (target : Word)
  /-- COEFSWAP (R140). A COEFSWAP action requests a coefficient bank change for the next issue of a loop
    context. -/
  | coefswap (target : Word) (data : Word)
  /-- DUTYSTEP (R167). A DUTYSTEP action steps a pair's duty table and loads the entry into the shadow or
    active compare. -/
  | dutystep (target : Word) (data : Word)
  /-- RASTER (R307). A RASTER action delivers a raster command to the context scanned on the named console
    raster. -/
  | raster (target : Word) (data : Word)
  /-- CHAIN (R82). A CHAIN action fires its chain members one per dispatch slot directly after it. -/
  | chain (part : Fin 154) (data : Word)
  /-- MARK (R79). A MARK action acts as sw_trigger of the named spindle capture unit. -/
  | mark (target : Word)
  /-- HOLE_FETCH (R94). A streamed partition's phase entering a hole starts the fetch of the hole L ahead. -/
  | holeFetch (n : Fin 154)
  /-- HOLE_FETCH_DONE (R94). A hole fetch brings its entries into the near window, where late ones follow their
    policy. -/
  | holeFetchDone (hole : Fin 1048576)
  /-- PLATE_REFETCH (R96). A word failing detection is refetched from store or mirror, or the hole is marked
    damaged. -/
  | plateRefetch (idx : Fin 2097152) (which : PlateFault)
  /-- RETIREMENT (R98). Retirement unlinks, frees and counts one dispatched entry from its queue. -/
  | retirement
  /-- PLATE_INIT (R101). A write of init starts initialising store, mirror, free list and generations. -/
  | plateInit (value : Word)
  /-- PLATE_INIT_DONE (R93). Plate initialisation completes and sets init_done. -/
  | plateInitDone
  /-- STORE_LOCK (R101). A write of store_lock locks the store and mirror bases until reset. -/
  | storeLock (value : Word)
  /-- PARTITION_CLEAR (R104). A write of clear while disabled or parted starts freeing every entry of the
    partition. -/
  | partitionClear (n : Fin 154) (value : Word)
  /-- PARTITION_CLEAR_DONE (R99). A partition clear completes; the partition becomes disabled and enable
    clears. -/
  | partitionClearDone (n : Fin 154)
  /-- ADC_SWTRIG (R107). A write of ADC_SWTRIG triggers the ADC at the given first entry. -/
  | adcSwtrig (adc : Fin 24) (value : Word)
  /-- ADC_HOLD (R108). The converter holds the input of the present entry once tracking has lasted acq cycles.
    The converted code of the held input comes with it. -/
  | adcHold (adc : Fin 24) (code : BitVec 14)
  /-- SAMPLE_WRITE (R112). A conversion result reaches its channel with flags and timestamp and is
    window-tested. -/
  | sampleWrite (adc : Fin 24)
  /-- CHANNEL_STALE (R114). A channel with no sample for stale_to x 64 cycles becomes stale. -/
  | channelStale (ch : Fin 384)
  /-- AFE_QUEUE (R115). A read of AFE_QUEUE pops the oldest logged sample word. -/
  | afeQueue (q : Requester) (sector : Fin 6)
  /-- ROUTE_CHANGE (R111). A write of ADC_SEQ or park_entry changes the crossbar route as its timing allows. -/
  | routeChange (adc : Fin 24) (which : RouteWrite) (value : Word)
  /-- COMPARATOR_ACTIVE (R486). A comparator output becoming active raises an event and starts the filter count
    toward its zones. -/
  | comparatorActive (input : ComparatorInput)
  /-- COMPARATOR_INACTIVE (R486). A comparator output becoming inactive deasserts its zone input and resets the
    count. -/
  | comparatorInactive (input : ComparatorInput)
  /-- ZONE_INPUT_ASSERT (R486). A filtered comparator output active for filt consecutive cycles asserts its
    zone input. -/
  | zoneInputAssert (k : Fin 72)
  /-- BLANKING_WINDOW_CLOSE (R117). A blanking window expires after blank_len cycles and an active input passes
    on. -/
  | blankingWindowClose (k : Fin 72)
  /-- SD_DECIMATION (R118). A sigma-delta demodulator completes osr clocks and writes a word to its channel.
    The data bits are those clocked in since the last word. -/
  | sdDecimation (j : Fin 48) (bits : List Bool)
  /-- SD_SYNC (R119). A write of SD_SYNC restarts the decimation counter. -/
  | sdSync (j : Fin 48) (value : Word)
  /-- SD_CLK_LOST (R119). No filtered clock edge for clk_to x 16 cycles holds the demodulator and sets
    clk_lost. -/
  | sdClkLost (j : Fin 48)
  /-- SD_CLK_RETURN (R119). The demodulator clock returns; integrators clear and 3 words are discarded. -/
  | sdClkReturn (j : Fin 48)
  /-- SD_OVERRANGE (R119). 32 consecutive equal data bits set overrange and sd_fault. -/
  | sdOverrange (j : Fin 48)
  /-- CAL_STEP (R120). Every step microseconds the spare converter starts calibrating. -/
  | calStep (sector : Fin 6)
  /-- CAL_DONE (R120). The spare's calibration ends and passes or marks the converter failed. -/
  | calDone (sector : Fin 6) (pass : Bool)
  /-- CAL_SWAP (R120). The calibrated spare replaces the oldest in-service converter at its first idle point.
    -/
  | calSwap (sector : Fin 6)
  /-- CAL_SKIP (R120). The outgoing ADC not idle for 1 ms skips the rotation step. -/
  | calSkip (sector : Fin 6)
  /-- ROTATE (R120). A write of rotate switches background rotation on or off. The tailstock writes
    AFE_CAL_CTL. -/
  | rotate (sector : Fin 6) (value : Word)
  /-- CAL_REQ (R120). A write of cal_req with rotation off starts a foreground calibration of cal_conv. The
    tailstock writes AFE_CAL_CTL. -/
  | calReq (sector : Fin 6) (value : Word)
  /-- LOOP_START_EVENT (R134). A loop context's start source fires and the start is taken or queued. -/
  | loopStartEvent (ctx : Fin 384)
  /-- LOOP_ISSUE (R132). A ready context issues an update in a free engine issue slot. -/
  | loopIssue (ctx : Fin 384)
  /-- PREDICTED_RUN_DONE (R141). A predicted run completes and its duty waits pending in stage 8. -/
  | predictedRunDone (ctx : Fin 384)
  /-- SAMPLE_CONFIRM (R142). The last predicted input arrives and the confirm unit confirms or discards the
    prediction. -/
  | sampleConfirm (ctx : Fin 384)
  /-- RECOMPUTE_DONE (R142). A recompute-lane run completes with duty and settled state. -/
  | recomputeDone (ctx : Fin 384)
  /-- SETTLE_DONE (R142). The state unit finishes a settle pass from the true inputs. -/
  | settleDone (ctx : Fin 384)
  /-- SAMPLE_TIMEOUT (R148). No predicted input or LPUT within sample_to cycles faults the update as no_sample.
    -/
  | sampleTimeout (ctx : Fin 384)
  /-- LOOP_BANK (R140). A write of LOOP_BANK requests a bank change effective at the next issue. -/
  | loopBank (ctx : Fin 384) (value : Word)
  /-- LOOP_ENABLE (R148). Writing LOOP_CTL.enable starts or stops a context, leaving TRIPPED or PARTED on 0
    then 1. The written LOOP_CTL. -/
  | loopEnable (ctx : Fin 384) (value : Word)
  /-- STATE_REBUILD (R149). A state word failing detection is zeroed and rebuilt by replaying sample history.
    -/
  | stateRebuild (ctx : Fin 384)
  /-- CARRIER_PERIOD (R160). The carrier position reaches per32 and a new period starts with a period event and
    load points. -/
  | carrierPeriod (g : Fin 24) (point : CarrierPoint)
  /-- PWM_EDGE (R168). A pair's position reaches an edge slot and the output changes with dead time. -/
  | pwmEdge (pair : Fin 96) (side : PwmSide) (kind : PwmEdgeKind)
  /-- SYNC_RESTART (R161). A sync source event restarts the carrier from PWM_SYNC_PHASE. -/
  | syncRestart (event : RestartEvent)
  /-- VALLEY_DETECT (R163). The valley comparator becomes active in the window and the next period starts after
    vdelay. -/
  | valleyDetect (g : Fin 24)
  /-- VALLEY_WINDOW_END (R163). The valley window ends without a valley and the period starts. -/
  | valleyWindowEnd (g : Fin 24)
  /-- PWM_CMPA (R166). A write of PWM_CMPA or PWM_CMPB goes to the shadow or, with immediate load, to the
    active compare. -/
  | pwmCmpa (pair : Fin 96) (side : PwmSide) (value : Word)
  /-- ZONE_ASSERT (R171). A trip zone asserts and each output of responding groups takes its trip action. -/
  | zoneAssert (z : Fin 48)
  /-- ZONE_RELEASE (R171). A cleared cycle-by-cycle or latched zone releases the outputs at the next zero load
    point. -/
  | zoneRelease (pair : Fin 96)
  /-- TRIP_IN_PIN (R169). A TRIP_IN pin asserts its zones through the fast or filtered path. -/
  | tripInPin (pin : TripPath) (asserted : Bool)
  /-- TZ_FORCE (R170). A write of TZ_FORCE asserts the zone. -/
  | tzForce (z : Fin 48) (value : Word)
  /-- LATCHED_CLEAR (R171). A write of 1 to latched clears a latched zone only while its inputs are inactive.
    -/
  | latchedClear (z : Fin 48) (value : Word)
  /-- TRIP_ALL_N (R172). The TRIP_ALL_N pin asserts the global trip to every armed group. -/
  | tripAllN (asserted : Bool)
  /-- GTRIP_ASSERT (R172). Tailstock firmware asserts the global trip through PWM_GTRIP. -/
  | gtripAssert
  /-- GTRIP_CLEAR (R172). Tailstock firmware clears the global trip while TRIP_ALL_N is inactive. -/
  | gtripClear
  /-- PWM_ARM_REQ (R175). A write of PWM_ARM_REQ requests arming of a group and interrupts the tailstock. -/
  | pwmArmReq (g : Fin 24) (value : Word)
  /-- ARM (R175). Tailstock firmware writes arm; the group enters ARMING or the arm is refused. -/
  | arm (g : Fin 24)
  /-- SAFE_LOCK (R183). A write of safe_lock locks PWM_SAFE and PWM_DT_MIN until core-domain reset. -/
  | safeLock (g : Fin 24)
  /-- DISARM (R177). A write of disarm sends the group to SAFE. -/
  | disarm (g : Fin 24) (value : Word)
  /-- PL_SUBMIT (R186). A read of PL_SUBMIT checks the staged declaration and adds it to the requester's
    pending set. -/
  | plSubmit (q : Requester)
  /-- PL_COMMIT (R192). A read of PL_COMMIT queues placement of the whole pending set as one operation. -/
  | plCommit (q : Requester)
  /-- PL_DISCARD (R186). A write of PL_DISCARD empties the requester's pending set. -/
  | plDiscard (q : Requester) (value : Word)
  /-- PL_WITHDRAW (R199). A read of PL_WITHDRAW queues freeing the resources of an admitted declaration. -/
  | plWithdraw (q : Requester)
  /-- PL_REPLACE (R200). A read of PL_REPLACE queues moving a loop to a new engine. -/
  | plReplace (q : Requester)
  /-- PL_QUERY (R203). A read of PL_QUERY fills PL_RES for the handle. -/
  | plQuery (q : Requester)
  /-- PLACEMENT_DONE (R201). A placement operation completes, writes its registers and sets done or fail. -/
  | placementDone
  /-- QUIET_POINT (R200). A quiet period event stops the old context and starts copying state to the new one.
    -/
  | quietPoint
  /-- QUIET_TIMEOUT (R200). No quiet point within 16 period events ends the re-placement with QUIET_TIMEOUT. -/
  | quietTimeout
  /-- REPLACE_SWITCH (R200). At p+97 the new context is enabled, issues the queued start and takes over the
    observer. -/
  | replaceSwitch
  /-- AIC_DOORBELL (R264). A write of AIC_DOORBELL sets the doorbell latch of a shared source. -/
  | aicDoorbell (value : Word)
  /-- AIC_PDOORBELL (R264). A write of AIC_PDOORBELL sets the latch of a core's private source. -/
  | aicPdoorbell (value : Word)
  /-- AIC_CLAIM (R267). A read of AIC_CLAIM returns the frozen identifier and marks the source active, or
    returns spurious. -/
  | aicClaim (q : Requester) (c : Fin 16)
  /-- AIC_EOI (R268). A write of AIC_EOI completes the top active source and pops the stack. -/
  | aicEoi (q : Requester) (c : Fin 16) (value : Word)
  /-- GROUP_HOLDOFF_END (R271). A hold-off group's interval expires and its sources become presentable again.
    -/
  | groupHoldoffEnd (g : Fin 128)
  /-- TS_CLAIM (R272). A read of TS_CLAIM claims the lowest enabled pending tailstock source. Only the
    tailstock is answered. -/
  | tsClaim
  /-- TS_EOI (R272). A write of TS_EOI completes the claimed tailstock source. Only the tailstock is answered.
    -/
  | tsEoi (value : Word)
  /-- TS_DOORBELL (R272). A write of TS_DOORBELL sets the latch of tailstock source 32-63. -/
  | tsDoorbell (value : Word)
  /-- SB_CTL (R280). A write of SB_CTL by the owner or tailstock changes a scratch bank's owner. -/
  | sbCtl (q : Requester) (b : Fin 32) (value : Word)
  /-- OWNER_CHANGE_EFFECT (R280). The owner change takes effect once the old owner's accepted accesses
    complete. -/
  | ownerChangeEffect (b : Fin 32)
  /-- BANK_RETENTION (R281). A write of ret = 1 drops an idle bank to retention. Bit 31 of the written SB_CTL
    is 1. -/
  | bankRetention (q : Requester) (b : Fin 32) (value : Word)
  /-- BANK_WAKE (R281). A write of ret = 0 wakes a bank. Bit 31 of the written SB_CTL is 0. -/
  | bankWake (q : Requester) (b : Fin 32) (value : Word)
  /-- BANK_AWAKE (R281). 3,000 cycles after a wake the bank sets awake and accepts accesses. -/
  | bankAwake (b : Fin 32)
  /-- BUSY_PIN_RELEASE (R283). The busy pin returns high 64 ns after the last collision. -/
  | busyPinRelease (port : Port)
  /-- DRAM_TRAIN_STEP (R285). A DRAM training step completes, is repeated after a 1 ms timeout, or fails the
    channel. -/
  | dramTrainStep (r : TrainStep)
  /-- DRAM_TEMP_READ (R285). Every 16 ms the temperature mode register is read and the refresh interval set.
    None: no valid code was read. -/
  | dramTempRead (code : Option (BitVec 3))
  /-- SELF_REFRESH_ENTRY (R286). With sr_en, idle for MC_SR_IDLE and enough tolerance, DRAM enters
    self-refresh. -/
  | selfRefreshEntry
  /-- SELF_REFRESH_EXIT (R286). An access wakes DRAM from self-refresh within MC_SR_EXIT. -/
  | selfRefreshExit
  /-- IOMMU_INV (R289). A write of IOMMU_INV starts an IOTLB invalidation of the given scope. -/
  | iommuInv (value : Word)
  /-- IOMMU_INV_DONE (R289). The invalidation completes and busy clears. -/
  | iommuInvDone
  /-- DMA_CH_KICK (R293). A write of DMA_CH_KICK starts an idle channel, starts a waiting descriptor or adds a
    pending kick. -/
  | dmaChKick (c : Fin 64) (value : Word)
  /-- DESCRIPTOR_FETCH_DONE (R293). A fetched descriptor starts, waits for a kick, or leaves the channel idle
    with empty. -/
  | descriptorFetchDone (c : Fin 64)
  /-- DMA_BURST (R291). A channel wins arbitration and moves one burst of beats. -/
  | dmaBurst
  /-- PACE_REQUEST (R294). A pace source's fill crosses a watermark and asserts or withdraws its request. -/
  | paceRequest (c : Fin 64)
  /-- DESCRIPTOR_COMPLETE (R278). A descriptor's last data lands, its own bit is written back and the chain
    continues or ends. -/
  | descriptorComplete (c : Fin 64)
  /-- DMA_RESUME (R296). A write of resume continues a suspended channel from the faulting element. Bit 30 of
    the written DMA_CH_CTL is 1. -/
  | dmaResume (c : Fin 64) (value : Word)
  /-- TRANSACTION_TIMEOUT (R297). A transaction with no response in 8 us stops the DMA engine. The physical
    address of the access. -/
  | transactionTimeout (addr : BitVec 40)
  /-- DMA_RESTART (R297). A write of restart resumes every enabled unparted channel. Bit 0 of the written
    DMA_ENG_CTL is 1. -/
  | dmaRestart (value : Word)
  /-- CON_CTL (R304). A write that makes a console context scanned or unscanned starts or stops its raster. -/
  | conCtl (k : Fin 512) (value : Word)
  /-- LINE_LATCH (R306). At s_L + 2 the render state is copied for line L and its render job is released. -/
  | lineLatch (k : Fin 512) (line : BitVec 16)
  /-- RENDER_JOB_START (R309). A free render pipe takes the earliest released line job. -/
  | renderJobStart
  /-- RENDER_JOB_DONE (R309). A pipe finishes a line, computes its check value and decides whether to send it.
    -/
  | renderJobDone (pipe : Fin 16)
  /-- LINE_ENTER_QUEUE (R319). A finished line's records enter its stream queue word by word as space frees. -/
  | lineEnterQueue (queue : Fin 16)
  /-- INLAY_TABLE_ARRIVED (R313). The inlay table arrives, or faults and the previous table stays. -/
  | inlayTableArrived (k : Fin 512)
  /-- CON_KICK (R308). A write of CON_KICK sets the render request. -/
  | conKick (k : Fin 512) (value : Word)
  /-- SCROLL (R307). Raster command SCROLL sets one half of a layer's scroll. -/
  | scroll (r : Fin 64) (data : Word)
  /-- SCROLL_ADD (R307). Raster command SCROLL_ADD adds to one half of a layer's scroll. -/
  | scrollAdd (r : Fin 64) (data : Word)
  /-- LAYER_EN (R307). Raster command LAYER_EN sets the layer and inlay enables. -/
  | layerEn (r : Fin 64) (data : Word)
  /-- WINDOW (R307). Raster command WINDOW sets a layer's window. -/
  | window (r : Fin 64) (data : Word)
  /-- PALETTE (R307). Raster command PALETTE sets the palette context of a layer or the inlays. -/
  | palette (r : Fin 64) (data : Word)
  /-- BACKDROP (R307). Raster command BACKDROP sets CON_BACKDROP. -/
  | backdrop (r : Fin 64) (data : Word)
  /-- RENDER (R307). Raster command RENDER sets the render request. -/
  | render (r : Fin 64) (data : Word)
  /-- CON_SQ_DATA (R319). A read of CON_SQ_DATA pops the oldest word of a stream queue. -/
  | conSqData (q : Requester) (queue : Fin 16)
  /-- STREAM_FLUSH (R320). A write of flush empties a stream queue and its backlog and marks discarded lines
    for re-render. Bit 30 of the written CON_SQ_CTL is 1. -/
  | streamFlush (queue : Fin 16) (value : Word)
  /-- HEAD_ENABLE (R338). A write of enable = 1 commits the shadows, locks the video PLL and starts the timing
    generator. Bit 31 of the written HD_CTL is 1. -/
  | headEnable (h : Fin 2) (value : Word)
  /-- HEAD_DISABLE (R338). A write of enable = 0 stops the timing generator and fetching. Bit 31 of the written
    HD_CTL is 0. -/
  | headDisable (h : Fin 2) (value : Word)
  /-- VIDEO_PLL_LOCK (R338). The video PLL locks and the timing generator starts at line 0, dot 0. -/
  | videoPllLock (h : Fin 2)
  /-- HD_COMMIT (R339). A write of commit sets pending. -/
  | hdCommit (h : Fin 2) (value : Word)
  /-- COMMIT_LATCH (R339). At line vactive, dot 0, a pending commit copies the frame-class shadows and sets
    flip. -/
  | commitLatch (h : Fin 2)
  /-- LAYER_REFILL (R340). A layer whose fill falls to refill_wm fetches until its share is full. -/
  | layerRefill (h : Fin 2) (l : Fin 8)
  /-- UNDERRUN (R341). Layer data missing when due draws HD_FILL for the rest of the line. From pixel x on. -/
  | underrun (h : Fin 2) (l : Fin 8) (line : BitVec 13) (x : BitVec 13)
  /-- LAYER_FETCH_FAULT (R341). A failed layer fetch draws the affected pixels in HD_FILL. The n pixels from x
    are affected; addr is the address fetched. -/
  | layerFetchFault (h : Fin 2) (l : Fin 8) (line : BitVec 13) (x : BitVec 13) (n : BitVec 13) (addr : Word)
  /-- WRITE_BACK_LINE (R342). In output mode 1 a blended line is written back or dropped. late: the write path
    cannot store it in time. -/
  | writeBackLine (h : Fin 2) (line : BitVec 12) (late : Bool)
  /-- PSR_EXIT (R343). A latched commit or live console line makes the head leave self-refresh and update the
    panel. -/
  | psrExit (h : Fin 2)
  /-- LINK_TRAIN (R345). A write of train runs DisplayPort link training, which succeeds or leaves the link
    untrained. The written DP_CTL, how training ends, and what the panel reports. -/
  | linkTrain (h : Fin 2) (value : Word) (ok : Bool) (psr : Bool) (su : Bool) (gran : BitVec 8)
  /-- HPD_PLUG (R345). HPD high for 2 ms is a plug. -/
  | hpdPlug (h : Fin 2)
  /-- HPD_UNPLUG (R345). HPD low for 2 ms is an unplug and disables the link. -/
  | hpdUnplug (h : Fin 2)
  /-- IRQ_HPD (R345). An HPD low pulse of 0.25-2 ms is an IRQ_HPD. -/
  | irqHpd (h : Fin 2)
  /-- DP_AUX_CMD (R346). A write of DP_AUX_CMD starts an AUX transaction. -/
  | dpAuxCmd (h : Fin 2) (value : Word)
  /-- AUX_REPLY (R345). An AUX reply ends the transaction with done, DEFER retry or NACK. -/
  | auxReply (h : Fin 2) (r : AuxReply)
  /-- AUX_TIMEOUT (R345). No AUX reply within 400 us retries, then sets aux_timeout. -/
  | auxTimeout (h : Fin 2)
  /-- MV_SUBMIT (R352). A read of MV_SUBMIT queues the staged 2D command and returns its job number. -/
  | mvSubmit (q : Requester)
  /-- COPY (R353). A COPY job starts and combines source with destination by rop. -/
  | copy
  /-- FILL (R353). A FILL job starts and combines the colour with destination by rop. -/
  | fill
  /-- BLEND (R353). A BLEND job starts and blends source over destination. -/
  | blend
  /-- KEYFILL (R353). A KEYFILL job starts and writes the colour where the destination equals the key. -/
  | keyfill
  /-- MOVER_ROW (R356). The mover checks, reads and writes one row, or suspends or stops on a fault or error.
    -/
  | moverRow
  /-- MOVER_SUSPEND (R358). A write of suspend suspends the job at the next row boundary. Bit 0 of the written
    MV_CTL is 1. -/
  | moverSuspend (value : Word)
  /-- MOVER_RESUME (R358). A write of resume continues a suspended job. Bit 1 of the written MV_CTL is 1. -/
  | moverResume (value : Word)
  /-- MOVER_RESTART (R358). A write of restart leaves the stopped state and starts the next job. Bit 2 of the
    written MV_CTL is 1. -/
  | moverRestart (value : Word)
  /-- MOVER_FLUSH (R358). A write of flush empties the queue and ends the running job at a row boundary. Bit 3
    of the written MV_CTL is 1. -/
  | moverFlush (value : Word)
  /-- DOMAIN_SAMPLE (R360). A D48 or D192 domain takes its next sample and every bus sums its routes. The
    decimated PDM values and the bits of the TDM input slots, port 16 + slot, come with it. -/
  | domainSample (d : Fin 2) (pdm : List (BitVec 24)) (tdm : List Word)
  /-- CARRIER_SAMPLE (R361). Every div-th period event of the group samples every carrier input. -/
  | carrierSample
  /-- CARRIER_LOST (R361). No qualifying event for 100 us, an out-of-range rate or a disarmed group loses the
    carrier domain. -/
  | carrierLost
  /-- CARRIER_RECOVER (R361). 16 consecutive in-range periods recover the carrier domain. -/
  | carrierRecover
  /-- KEY_ON (R363). A write of key_on restarts a voice's attack from the present level. Bit 31 of the written
    VC_CTL is 1. -/
  | keyOn (v : Fin 32) (value : Word)
  /-- KEY_OFF (R363). A write of key_off starts a voice's release. Bit 30 of the written VC_CTL is 1. -/
  | keyOff (v : Fin 32) (value : Word)
  /-- PDM_CLK_LOST (R364). No PDM clock edge for 64 us zeroes the group's inputs. -/
  | pdmClkLost (g : Fin 4)
  /-- PDM_STUCK (R364). PDM data constant for 1 ms sets pdm_stuck. -/
  | pdmStuck (m : Fin 16)
  /-- TDM_SYNC_LOST (R365). A slave port missing FS for 2 frames loses sync. -/
  | tdmSyncLost (p : Fin 4)
  /-- TDM_RESUME (R365). 4 good frames resume a slave port. -/
  | tdmResume (p : Fin 4)
  /-- TDM_SLIP (R365). A frame-rate slip drops or repeats one sample. -/
  | tdmSlip (p : Fin 4)
  /-- AUD_RT_APPLY (R368). A read of AUD_RT_APPLY applies the staged route, starting a ramp or crossfade. -/
  | audRtApply (q : Requester)
  /-- RAMP_DONE (R368). A route's gain ramp or crossfade ends and releases its fade slot or bridge. -/
  | rampDone (r : Fin 128)
  /-- AUD_CQ_DATA (R369). A read of AUD_CQ_DATA pops a capture queue. -/
  | audCqData (q : Requester) (queue : Fin 8)
  /-- PEAK_METER_READ (R370). A read of a peak meter returns the peak and restarts it from the present sample.
    out: an output's meter, else a bus's. -/
  | peakMeterRead (q : Requester) (out : Bool) (n : Fin 16)
  /-- PERST (R378). HPx_PERST_N, link down or hot reset resets one port's PCIe logic and frees its chucks. -/
  | perst (port : Port)
  /-- FUNCTION_LEVEL_RESET (R378). A function-level reset resets the port as for link down with the link kept
    up. -/
  | functionLevelReset (port : Port)
  /-- LINK_UP (R378). A host-port link comes up and the port answers. The width is 1, 2 or 4 lanes, the rate
    2.5 to 32 GT/s. -/
  | linkUp (port : Port) (width : Fin 3) (rate : Fin 5)
  /-- BAR0_REQUEST (R379). An inbound BAR0 request is carried out as aligned 32-bit accesses. -/
  | bar0Request (port : Port) (off : BitVec 28) (req : HostReq)
  /-- REGISTER_TIMEOUT (R379). A register not answering within 8 us completes with Completer Abort. -/
  | registerTimeout (port : Port)
  /-- BAR2_ACCESS (R380). An inbound BAR2 access reaches the mailbox, doorbells, chucks or MSI-X. -/
  | bar2Access (port : Port) (off : BitVec 16) (acc : MailAccess) (other : Option MailOther)
  /-- HP_HOST_DB (R382). A write of HP_HOST_DB sends MSI-X vector v through the port. -/
  | hpHostDb (port : Port) (value : Word)
  /-- CHK_ACQUIRE (R383). A read of CHK[n] acquires a free chuck or records a waiting port. The requesters
    whose reads arrive in one cycle. -/
  | chkAcquire (n : Fin 256) (qs : List Requester)
  /-- CHK_RELEASE (R383). A write of release frees a chuck held by the writer and notifies waiters. -/
  | chkRelease (q : Requester) (n : Fin 256) (value : Word)
  /-- CHK_LEASE_EXPIRY (R385). HP_SILENCE reaching CHK_LEASE frees every chuck the silent port holds. -/
  | chkLeaseExpiry (port : Port)
  /-- ABORT_LOOP_CONTEXT (R149). An abort of kind 0 parts a loop context. Through the engine of port A, port B
    or the dictionary. -/
  | abortLoopContext (e : Fin 3) (ring : Bool) (number : BitVec 16)
  /-- ABORT_PWM_GROUP (R177). An abort of kind 1 sends a PWM group to PARTED. -/
  | abortPwmGroup (e : Fin 3) (ring : Bool) (number : BitVec 16)
  /-- ABORT_SPINDLE (R55). An abort of kind 2 sends a spindle to PARTED. -/
  | abortSpindle (e : Fin 3) (ring : Bool) (number : BitVec 16)
  /-- ABORT_PLATE_PARTITION (R99). An abort of kind 3 parts a plate partition. -/
  | abortPlatePartition (e : Fin 3) (ring : Bool) (number : BitVec 16)
  /-- ABORT_CONSOLE_CONTEXT (R322). An abort of kind 4 parts a console context. -/
  | abortConsoleContext (e : Fin 3) (ring : Bool) (number : BitVec 16)
  /-- ABORT_2D_MOVER (R356). An abort of kind 5 parts the 2D mover and discards its queue. -/
  | abort2dMover (e : Fin 3) (ring : Bool) (number : BitVec 16)
  /-- ABORT_AUDIO_ROUTE (R372). An abort of kind 6 drops a route's gain to 0 and parts it. -/
  | abortAudioRoute (e : Fin 3) (ring : Bool) (number : BitVec 16)
  /-- ABORT_AUDIO_OUTPUT (R372). An abort of kind 7 makes an output send zero and parts it. -/
  | abortAudioOutput (e : Fin 3) (ring : Bool) (number : BitVec 16)
  /-- ABORT_DMA_CHANNEL (R298). An abort of kind 8 parts a DMA channel. -/
  | abortDmaChannel (e : Fin 3) (ring : Bool) (number : BitVec 16)
  /-- ABORT_DONE (R387). The aborted function has parted; done and abort_done are set and the doorbell may
    ring. -/
  | abortDone (e : Fin 3)
  /-- DICT_READ (R392). A dictionary read request returns bytes of an object from an offset. The oldest waiting
    request is served. -/
  | dictRead
  /-- DICT_WRITE (R391). A dictionary write request writes bytes of an object, taking effect at its last byte.
    The oldest waiting request is served. -/
  | dictWrite
  /-- DICT_DESCRIBE (R389). A describe request returns the 16-byte object descriptor. The oldest waiting
    request is served. -/
  | dictDescribe
  /-- DICT_DONE (R393). A host-port dictionary request completes and sets done, dict_done and the result
    registers. -/
  | dictDone
  /-- TRANSFER_ABANDON (R391). A multi-request transfer with no next request for 1 s is abandoned. -/
  | transferAbandon (index : BitVec 16) (sub : BitVec 8)
  /-- STORE_SAVE (R390). Writing save to 0x1010 stores the marked objects in the SPI NOR. Who: 0 and 1 the
    ports, 2 CAN, 3 and 4 the MACs, 5 + n core n. -/
  | storeSave (who : Fin 21) (value : Word)
  /-- RESTORE_LOAD (R390). Writing load to 0x1011 marks stored objects for default at the next power-on reset.
    -/
  | restoreLoad (who : Fin 21) (value : Word)
  /-- ARM_REQUEST_OBJECT (R176). Writing 1 to object 0x4010 requests arming of a group. -/
  | armRequestObject (who : Fin 21) (g : Fin 24) (value : Byte)
  /-- HP_TS_MSG (R397). A write of HP_TS_MSG hands a word to the tailstock. -/
  | hpTsMsg (port : Port) (value : Word)
  /-- TS_REPLY_WRITE (R400). The tailstock writes HP_TS_REPLY and sets ts_msg. -/
  | tsReplyWrite (port : Port) (value : Word)
  /-- NMT_START (R394). An NMT start command puts the CANopen node in operational. Node 0 is every node. -/
  | nmtStart (node : BitVec 8)
  /-- NMT_STOP (R394). An NMT stop command stops the node. -/
  | nmtStop (node : BitVec 8)
  /-- NMT_PRE_OPERATIONAL (R394). An NMT pre-operational command enters pre-operational. -/
  | nmtPreOperational (node : BitVec 8)
  /-- NMT_RESET_NODE (R394). An NMT reset node command resets the node. -/
  | nmtResetNode (node : BitVec 8)
  /-- NMT_RESET_COMMUNICATION (R394). An NMT reset communication applies new node-ID and bit rates. -/
  | nmtResetCommunication (node : BitVec 8)
  /-- HEARTBEAT (R394). The heartbeat producer time expires and a heartbeat is sent. -/
  | heartbeat
  /-- USDO_REQUEST (R394). A USDO request over CAN is served as a dictionary request. last: the transfer ends
    with this request. -/
  | usdoRequest (write : Bool) (index : BitVec 16) (sub : BitVec 8) (off : Word) (len : BitVec 16) (data : List Byte) (last : Bool)
  /-- TPDO (R394). An event-driven TPDO is sent subject to its inhibit time. -/
  | tpdo (n : Fin 4)
  /-- CAN_FRAME_RECEIVE (R396). A received CAN frame is filtered and stored, or dropped. A fault tells whether
    the controller was sending. -/
  | canFrameReceive (c : Fin 4) (fault : Option Bool) (ext : Bool) (id : BitVec 29) (data : List Byte)
  /-- CAN_TX_DONE (R396). A CAN transmit buffer's frame has been sent. -/
  | canTxDone (c : Fin 4) (t : Fin 16)
  /-- BUS_STUCK (R396). A bus dominant for 256 bit times stops transmission. -/
  | busStuck (c : Fin 4)
  /-- BUS_OFF (R396). The controller enters bus-off. -/
  | busOff (c : Fin 4)
  /-- BUS_OFF_RECOVER (R396). After 128 occurrences of 11 recessive bits the controller rejoins. -/
  | busOffRecover (c : Fin 4)
  /-- HORANO_DATAGRAM (R395). A Horano/UDP datagram is answered, or replayed from the kept responses. broken: a
    fragment, or a length that disagrees. -/
  | horanoDatagram (m : Fin 2) (src : Word) (port : BitVec 16) (dst : Word) (broken : Bool) (data : List Byte)
  /-- ETH_FRAME_RECEIVE (R396). A received Ethernet frame is checked and filtered or dropped. The FCS is right;
    it is an IEEE 1588 event message. -/
  | ethFrameReceive (m : Fin 2) (data : List Byte) (fcs : Bool) (event : Bool)
  /-- SGMII_SYNC_LOST (R396). SGMII without synchronisation for 10 ms takes the link down. -/
  | sgmiiSyncLost (m : Fin 2)
  /-- TSM_DICT_CMD (R405). A write of TSM_DICT_CMD sends a core's dictionary request to the tailstock. -/
  | tsmDictCmd (c : Fin 16) (value : Word)
  /-- TSM_MSG (R405). A write of TSM_MSG hands a word to tailstock firmware. -/
  | tsmMsg (c : Fin 16) (value : Word)
  /-- TSM_REPLY (R405). Tailstock firmware writes TSM_REPLY and sets the core's private source 32. -/
  | tsmReply (c : Fin 16) (value : Word)
  /-- SENSOR_SAMPLE (R406). A sensor sample is window-filtered and may enter or leave warning or alarm. -/
  | sensorSample (k : Fin 56) (value : BitVec 16)
  /-- SENSOR_INVALID (R407). A sensor with no conversion for 5 ms is marked invalid. -/
  | sensorInvalid (k : Fin 56)
  /-- JOURNAL_WRITE (R409). A page of 4 entries, or entries 100 ms old, are programmed into the journal. -/
  | journalWrite
  /-- NOR_PROGRAM_DONE (R413). A NOR program or erase completes and is verified, or fails on timeout. -/
  | norProgramDone (r : NorResult)
  /-- OTP_PROG (R428). A write of OTP_PROG go blows one OTP bit. -/
  | otpProg (value : Word)
  /-- OTP_PROG_DONE (R428). The OTP program ends and its verification result is recorded. -/
  | otpProgDone (ok : Bool)
  /-- BOOT_ROM (R416). The boot ROM chooses, verifies and starts the tailstock image or enters recovery. -/
  | bootRom
  /-- IMAGE_WRITE (R419). A write to 0x9010 programs image bytes into the inactive slot. fails: the bytes read
    back differ. -/
  | imageWrite (who : Fin 21) (core : Bool) (off : BitVec 26) (data : List Byte) (fails : Bool)
  /-- IMAGE_VERIFY (R415). A write to 0x9011 verifies an inactive slot and records the result. -/
  | imageVerify (who : Fin 21) (value : Byte)
  /-- IMAGE_ACTIVATE (R419). A write to 0x9012 makes a verified slot the trial slot for the next boot. -/
  | imageActivate (who : Fin 21) (value : Byte)
  /-- IMAGE_CONFIRM (R419). A write to 0x9013 confirms the trial, raises the counter and blows revocations. -/
  | imageConfirm (who : Fin 21) (value : Byte)
  /-- ATTESTATION_NONCE (R422). A write to 0x9020 subindex 1 stores a nonce for the writer's class. The 64
    bytes, the first least significant. -/
  | attestationNonce (who : Fin 21) (nonce : BitVec 512)
  /-- QUOTE (R422). A read of 0x9020 subindex 2 at offset 0 builds and signs a new quote. -/
  | quote (who : Fin 21) (off : BitVec 12) (len : BitVec 12)
  /-- DEBUG_CHALLENGE (R423). A read of 0x9030 subindex 1 issues a new debug challenge. -/
  | debugChallenge (who : Fin 21)
  /-- DEBUG_RESPONSE (R423). A write to 0x9030 subindex 2 checks the signature and grants the level or refuses.
    The 132 bytes, the first least significant. -/
  | debugResponse (who : Fin 21) (resp : BitVec 1056)
  /-- DEBUG_LOCK (R423). A write of 1 to 0x9030 subindex 3 locks the debug port. -/
  | debugLock (who : Fin 21) (value : Byte)
  /-- DEBUG_LEVEL (R423). A write of 1 or 2 to 0x9030 subindex 4 sets the requested level. -/
  | debugLevel (who : Fin 21) (value : Byte)
  /-- CHALLENGE_EXPIRY (R423). A debug challenge expires 60 s after issue. -/
  | challengeExpiry
  /-- TAMPER (R424). A tamper event zeroises keys and resets the device with a tamper reset. -/
  | tamper (cause : TamperCause)
  /-- MESH_CHECK (R424). Every 10 us the shield mesh is checked with a fresh pattern. -/
  | meshCheck (intact : Bool)
  /-- TRNG_HEALTH_FAIL (R425). A failed TRNG health test stops delivery and is logged. -/
  | trngHealthFail
  /-- TRNG_RECOVER (R425). 1,024 passing samples recover the TRNG. -/
  | trngRecover
  /-- TELEMETRY_REFRESH (R426). Every 10 ms telemetry objects, TPDOs and the bank 31 page are refreshed. -/
  | telemetryRefresh
  /-- MACHINE_CHECK (R434). A machine check is delivered to its owner core or the tailstock, or counted as
    lost. The oldest machine check on its way is delivered. -/
  | machineCheck
  /-- MCR_INFO (R434). Writing 1 to valid clears a core's machine-check record and lost. -/
  | mcrInfo (q : Requester) (c : Fin 16) (value : Word)
  /-- SCRUB_READ (R435). A scrubber reads the next unit of a memory and applies its recomputation route. -/
  | scrubRead (u : ScrubUnit) (fails : Bool)
  /-- CV_QUEUE_WRITE (R438). A write to a check-unit data, init, alive or check register enters its queue or
    overflows. -/
  | cvQueueWrite (u : Fin 8) (r : CvReg) (value : Word)
  /-- CV_DATA (R437). A queued data entry feeds 1, 2 or 4 bytes into the check value. -/
  | cvData (u : Fin 8)
  /-- CV_INIT (R441). A queued CV_INIT entry reloads INIT, clears the count and the alive reference. -/
  | cvInit (u : Fin 8)
  /-- CV_ALIVE_IN (R440). A queued alive counter is judged against the reference. -/
  | cvAliveIn (u : Fin 8)
  /-- CV_CHECK (R440). A queued CV_CHECK compares with the result and may reinitialise. -/
  | cvCheck (u : Fin 8)
  /-- CV_STATE_LO (R439). A write of CV_STATE_LO restores the running value with the staged high word. -/
  | cvStateLo (u : Fin 8) (value : Word)
  /-- PIN_CFG (R450). A write of PIN_CFG that changes func switches the pin's function with a keeper and new
    input. The level of the pin at the edge of the write. -/
  | pinCfg (n : Fin 160) (value : Word) (level : Bool)
  /-- KEEPER_RELEASE (R450). One PCLK after a switch the keeper ends and the new output drives. -/
  | keeperRelease (n : Fin 160)
  /-- FILTER_ACCEPT (R453). A GPIO input stable for the filter length is accepted as the new level. -/
  | filterAccept (n : Fin 160) (level : Bool)
  /-- BANK_SUPPLY_LOST (R446). A bank supply below threshold freezes the bank's inputs and sets bank_lost. -/
  | bankSupplyLost (u : Supply)
  /-- BANK_SUPPLY_RETURN (R446). A returning bank supply restarts every input filter from the pin level. high:
    3.3 V, else 1.8 V. -/
  | bankSupplyReturn (u : Supply) (high : Bool) (levels : BitVec 16)
  /-- CORE_RELEASE (R461). Setting a bit of GCTL_CORE_REL releases a core at GCTL_CORE_PC. -/
  | coreRelease (c : Fin 16)
  /-- RESET_REQUEST (R462). A write of rset or boot to 0x1F01 is answered and the reset begins 1 ms later. -/
  | resetRequest (who : Fin 21) (value : Word)
  /-- DEVICE_RESET (R458). A device reset returns everything but the kept items to reset and reruns the ROM. -/
  | deviceReset
  /-- CORE_DOMAIN_RESET (R458). A core-domain reset resets every VDD_CORE island and restarts from the fabric
    PLL step. -/
  | coreDomainReset
  /-- CORE_RESET (R458). Tailstock firmware resets one turning core and frees its chucks. -/
  | coreReset (c : Fin 16)
  /-- FABRIC_PLL_LOCK (R460). The fabric PLL locks, at start-up or when the tailstock restarts it after FCLK
    loss, and FCLK runs; the host ports move from TCLK to FCLK. -/
  | fabricPllLock
  /-- TAILSTOCK_PLL_LOCK (R18). The restarted tailstock PLL locks and TCLK switches back from the RC fallback,
    after which the CAN FD controllers rejoin the bus. -/
  | tailstockPllLock
  /-- CRYSTAL_RETURN (R38). Edges return on the crystal behind SCLK and the monitor sets crystal_ok again. -/
  | crystalReturn
  /-- COMPARATOR_HOLD_END (R486). The 16-cycle forced-inactive hold after a change of input, invert or hyst
    ends, and an active input passes on and raises an event. -/
  | comparatorHoldEnd (k : Fin 72)
  /-- PDM_CLK_RETURN (R364). A PDM clock group's input clock returns and the first 32 samples of each input are
    discarded. -/
  | pdmClkReturn (g : Fin 4)
  /-- SGMII_SYNC_GAINED (R396). SGMII regains synchronisation, the Ethernet link comes up and link_change is
    set. -/
  | sgmiiSyncGained (m : Fin 2)
  /-- BUS_RECESSIVE_RETURN (R396). The CAN bus returns to recessive after bus_stuck and the controller may
    transmit again. -/
  | busRecessiveReturn (c : Fin 4)
  /-- OUTBOUND_COMPLETION (R381). A PCIe completion arrives for an outbound DMA read, carrying data or an error
    status, or it is discarded after an abort. -/
  | outboundCompletion (port : Port) (tag : Fin 64) (result : CplResult)
  /-- COMPLETION_TIMEOUT (R381). The port's PCIe completion timeout expires for an outbound request and the
    channel suspends with cause 3, or the tag is freed after an abort. -/
  | completionTimeout (port : Port) (tag : Fin 64)
  /-- CONFIGURATION_REQUEST (R381). A PCIe configuration request from the host sets, for example, Bus Master
    Enable, MSI-X enable or the completion timeout range. -/
  | configurationRequest (port : Port) (c : ConfigWrite)
  deriving DecidableEq, Repr

end Sys2Proof
end

