-- ==== Sys2Proof/Decode.lean ====
section
/-! DEFINITION. Decoding. The bits of spec/opcode_table.json: the table gives bits to no row, so no word of it spells a
command. The words of the cores' instructions (R208 to R232): the command that each of them is. -/

namespace Sys2Proof

/-- The command that a word of `nbits` bits spells. -/
def decodeTableWord (_nbits _w : Nat) : Option Instr := none

end Sys2Proof

namespace Sys2Proof.Machine

/-! ### Words that raise an exception (R205, R209, R210, R227, R230) -/

/-- The numbers that R205 lists; the tailstock core has no ASID and PTBASE (R210), and the registers of its MPU (R404). -/
def crListed (c n : Nat) : Bool :=
  decide (n ≤ 0x0A) || decide (0x10 ≤ n ∧ n ≤ 0x12) || (decide (0x20 ≤ n ∧ n ≤ 0x21) && decide (c < 16)) ||
    decide (0x40 ≤ n ∧ n ≤ 0x42) || decide (0x44 ≤ n ∧ n ≤ 0x46) || decide (0x48 ≤ n ∧ n ≤ 0x4A) ||
    decide (0x50 ≤ n ∧ n ≤ 0x51) || decide (0x60 ≤ n ∧ n ≤ 0x62) || (decide (0x100 ≤ n ∧ n < 0x120) && decide (16 ≤ c))

/-- T-group functions: reserved unless listed, with zero in the fields named as zero. -/
def reservedT (w : Word) : Bool :=
  let gb := fieldOf w 20 16
  let ga := fieldOf w 15 11
  let gd := fieldOf w 10 6
  let f := fieldOf w 26 21
  decide (fieldOf w 31 27 ≠ 0) ||
    !(decide (f ≤ 0x1A) || (decide (f = 0x1B ∨ f = 0x21 ∨ f = 0x24) && decide (gb = 0)) ||
      decide (f = 0x20 ∧ gb = 0 ∧ gd = 0) || decide (f = 0x25) ||
      (decide (f = 0x28 ∨ f = 0x29) && decide (gd ≠ 0 ∧ ga ≠ 0 ∧ gb ≠ 0 ∧ gd ≠ ga ∧ gd ≠ gb ∧ ga ≠ gb)) ||
      decide (0x30 ≤ f ∧ f ≤ 0x35))

/-- Coprocessor words of slots 0 to 2 (R230, R232). -/
def reservedC (w : Word) : Bool :=
  let k := fieldOf w 31 21
  let gb := fieldOf w 20 16
  let ga := fieldOf w 15 11
  let gd := fieldOf w 10 6
  match fieldOf w 5 0 with
  | 0x38 => !((decide (k ≤ 1) && decide (gd = 0)) || decide (k = 2 ∧ ga = 0 ∧ gb = 0) || decide (3 ≤ k ∧ k ≤ 5))
  | 0x39 => !(decide (k = 0 ∧ gb = 0 ∧ gd % 2 = 0) || decide (k = 1 ∨ k = 2))
  | 0x3A => !decide (k = 0 ∧ gb = 0)
  | 0x3B => !decide (k = 0 ∧ gd = 0)
  | 0x3C => !decide (k = 0)
  | _ => !decide (k = 0 ∧ gb = 0)

/-- The exception that core `c` raises on the word before it has any effect: 7 reserved, 9 coprocessor absent. -/
def wordFault (c : Nat) (w : Word) : Option Nat :=
  let op := fieldOf w 5 0
  let imm := fieldOf w 31 16
  let bad (b : Bool) : Option Nat := if b then some 7 else none
  if 0x38 ≤ op then
    if 16 ≤ c then some 7 else if 0x3E ≤ op then some 9 else bad (reservedC w)
  else match op with
    | 0x00 => bad (reservedT w)
    | 0x08 => bad (decide (fieldOf w 15 11 ≠ 0))
    | 0x0A => bad (decide (imm / 2 ^ 11 ≠ 0))
    | 0x0B => bad (decide (imm / 2 ^ 10 ≠ 0))
    | 0x0D => bad (decide (fieldOf w 10 8 ≠ 0 ∨ fieldOf w 7 6 = 3 ∨ imm = 0))
    | 0x0E => bad (decide (fieldOf w 31 30 = 3 ∨ fieldOf w 17 6 = 0))
    | 0x0F => bad (decide (fieldOf w 15 11 ≠ 0) || !crListed c imm)
    | 0x10 => bad (decide (fieldOf w 10 6 ≠ 0) || !crListed c imm)
    | 0x18 => bad (decide (fieldOf w 19 18 = 3))
    | 0x19 => bad (decide (fieldOf w 19 18 = 3) || bitAt w 17)
    | 0x1A => bad (decide (fieldOf w 19 16 ≠ 8 ∨ 4 < fieldOf w 10 6))
    | _ => bad (!decide (op ≤ 0x10 ∨ (0x20 ≤ op ∧ op ≤ 0x23)))

/-! ### The fields of the formats (R208) -/

/-- gd in [10:6], ga in [15:11] and gb in [20:16]. -/
def wordGd (w : Word) : Fin 32 := Fin.ofNat 32 (fieldOf w 10 6)
def wordGa (w : Word) : Fin 32 := Fin.ofNat 32 (fieldOf w 15 11)
def wordGb (w : Word) : Fin 32 := Fin.ofNat 32 (fieldOf w 20 16)

/-- imm16 of format I, the offsets of formats M, B and J, and the code of TRAP and BKPT (R211). -/
def wordImm (w : Word) : BitVec 16 := w.extractLsb' 16 16
def wordOff12 (w : Word) : BitVec 12 := w.extractLsb' 20 12
def wordOff21 (w : Word) : BitVec 21 := w.extractLsb' 11 21
def wordOff26 (w : Word) : BitVec 26 := w.extractLsb' 6 26
def wordCode (w : Word) : BitVec 15 := w.extractLsb' 6 15

/-- The size of format M (R216); 0b11 is reserved. -/
def wordSize (w : Word) : AccessSize :=
  match fieldOf w 19 18 with
  | 0 => .byte
  | 1 => .half
  | _ => .word

/-! ### The command of a word -/

/-- The T-group (R211). -/
def commandT (c : Fin 17) (w : Word) : Instr :=
  let gd := wordGd w
  let ga := wordGa w
  let gb := wordGb w
  match fieldOf w 26 21 with
  | 0x00 => .add c gd ga gb
  | 0x01 => .sub c gd ga gb
  | 0x02 => .andOp c gd ga gb
  | 0x03 => .orOp c gd ga gb
  | 0x04 => .xor c gd ga gb
  | 0x05 => .orn c gd ga gb
  | 0x06 => .lt c gd ga gb
  | 0x07 => .ltu c gd ga gb
  | 0x08 => .eq c gd ga gb
  | 0x09 => .ne c gd ga gb
  | 0x0A => .min c gd ga gb
  | 0x0B => .max c gd ga gb
  | 0x0C => .sll c gd ga gb
  | 0x0D => .srl c gd ga gb
  | 0x0E => .sra c gd ga gb
  | 0x0F => .ror c gd ga gb
  | 0x10 => .slli c gd ga gb
  | 0x11 => .srli c gd ga gb
  | 0x12 => .srai c gd ga gb
  | 0x13 => .rori c gd ga gb
  | 0x14 => .mul c gd ga gb
  | 0x15 => .mulhi c gd ga gb
  | 0x16 => .mulhiu c gd ga gb
  | 0x17 => .div c gd ga gb
  | 0x18 => .divu c gd ga gb
  | 0x19 => .mod c gd ga gb
  | 0x1A => .modu c gd ga gb
  | 0x1B => .clz c gd ga
  | 0x20 => .jmpr c ga
  | 0x21 => .callr c gd ga
  | 0x24 => .llw c gd ga
  | 0x25 => .scw c gd ga gb
  | 0x28 => .xfer c gd ga gb
  | 0x29 => .crcb c gd ga gb
  | 0x30 => .fence c
  | 0x31 => .sync c
  | 0x32 => .retx c
  | 0x33 => .trap c (wordCode w)
  | 0x34 => .bkpt c (wordCode w)
  | 0x35 => .wait c
  | _ => .reservedInstruction c w

/-- CACHE: gt selects the operation (R219). -/
def commandCache (c : Fin 17) (w : Word) : Instr :=
  match fieldOf w 10 6 with
  | 0 => .cacheClean c (wordGa w) (wordOff12 w)
  | 1 => .cacheInvalidate c (wordGa w) (wordOff12 w)
  | 2 => .cacheCleanInvalidate c (wordGa w) (wordOff12 w)
  | 3 => .cacheInvalidateI c (wordGa w) (wordOff12 w)
  | 4 => .cachePrefetch c (wordGa w) (wordOff12 w)
  | _ => .reservedInstruction c w

/-- The coprocessors (R230). -/
def commandC (c : Fin 17) (w : Word) : Instr :=
  let gd := wordGd w
  let ga := wordGa w
  let gb := wordGb w
  match fieldOf w 5 0, fieldOf w 31 21 with
  | 0x38, 0 => .macs c ga gb
  | 0x38, 1 => .macz c ga gb
  | 0x38, 2 => .macr c gd
  | 0x38, 3 => .mulq c gd ga gb
  | 0x38, 4 => .adds c gd ga gb
  | 0x38, 5 => .subs c gd ga gb
  | 0x39, 0 => .sincos c gd ga
  | 0x39, 1 => .angle c gd ga gb
  | 0x39, 2 => .mag c gd ga gb
  | 0x3A, 0 => .lpoll c gd ga
  | 0x3B, 0 => .lput c ga gb
  | 0x3C, 0 => .pins c gd ga gb
  | 0x3D, 0 => .prem c gd ga
  | _, _ => .reservedInstruction c w

/-- The command that core `c` executes on the word `w`: by the major opcode (R209), or the exception of the word. -/
def wordCommand (c : Fin 17) (w : Word) : Instr :=
  let gd := wordGd w
  let ga := wordGa w
  let imm := wordImm w
  if (wordFault c w).isSome then .reservedInstruction c w
  else match fieldOf w 5 0 with
    | 0x00 => commandT c w
    | 0x01 => .addi c gd ga imm
    | 0x02 => .andi c gd ga imm
    | 0x03 => .ori c gd ga imm
    | 0x04 => .xori c gd ga imm
    | 0x05 => .lti c gd ga imm
    | 0x06 => .ltiu c gd ga imm
    | 0x07 => .eqi c gd ga imm
    | 0x08 => .lhi c gd imm
    | 0x09 => .nei c gd ga imm
    | 0x0A => .bfx c gd ga (bitAt w 26) (Fin.ofNat 32 (fieldOf w 25 21)) (Fin.ofNat 32 (fieldOf w 20 16))
    | 0x0B => .bfi c gd ga (Fin.ofNat 32 (fieldOf w 25 21)) (Fin.ofNat 32 (fieldOf w 20 16))
    | 0x0C => .perm c gd ga imm
    | 0x0D => .loop c (Fin.ofNat 4 (fieldOf w 7 6)) ga imm
    | 0x0E => .loopi c (Fin.ofNat 4 (fieldOf w 31 30)) (w.extractLsb' 18 12) (w.extractLsb' 6 12)
    | 0x0F => .crd c gd imm
    | 0x10 => .cwr c imm ga
    | 0x18 => .ld c gd ga (wordOff12 w) (wordSize w) (bitAt w 17) (bitAt w 16)
    | 0x19 => .st c gd ga (wordOff12 w) (wordSize w) (bitAt w 16)
    | 0x1A => commandCache c w
    | 0x20 => .bz c gd (wordOff21 w)
    | 0x21 => .bnz c gd (wordOff21 w)
    | 0x22 => .jump c (wordOff26 w)
    | 0x23 => .call c gd (wordOff21 w)
    | _ => commandC c w

end Sys2Proof.Machine
end

