-- ==== Sys2Proof/Machine/Crypto.lean ====
section
/-! DEFINITION. The hash and signature functions that spec/18 names: SHA-512 (FIPS 180-4) and ECDSA on P-521
(FIPS 186-5), as functions on bytes and numbers (R412 to R415, R421 to R423). -/

namespace Sys2Proof.Machine

/-! ### SHA-512 -/

/-- The largest number of `n` bits or less, added to `r`, whose `k`th power does not exceed `x`. -/
def rootFrom (k x : Nat) : Nat → Nat → Nat
  | 0, r => r
  | n + 1, r => rootFrom k x n (if (r + 2 ^ n) ^ k ≤ x then r + 2 ^ n else r)

/-- The first 64 bits of the fractional part of the `k`th root of `p`. -/
def rootBits (k p : Nat) : BitVec 64 := BitVec.ofNat 64 (rootFrom k (p * 2 ^ (64 * k)) 70 0)

/-- The primes below 410, of which there are 80. -/
def primesBelow410 : List Nat := (List.range 410).filter fun n => decide (2 ≤ n) && (List.range n).all fun d => decide (d < 2 ∨ n % d ≠ 0)

/-- The 80 round constants: cube roots of the first 80 primes. The initial hash value: square roots of the first 8. -/
def shaK : List (BitVec 64) := primesBelow410.map (rootBits 3)
def shaInit : List (BitVec 64) := (primesBelow410.take 8).map (rootBits 2)

/-- The `n` low bytes of a number, most significant first. -/
def beBytes (n v : Nat) : List Byte := (leBytes n v).reverse

/-- The number that bytes spell, most significant first. -/
def ofBeBytes (bs : List Byte) : Nat := ofLeBytes bs.reverse

/-- The padded message. -/
def shaPad (bs : List Byte) : List Byte :=
  bs ++ 0x80#8 :: List.replicate ((239 - bs.length % 128) % 128) 0 ++ beBytes 16 (8 * bs.length)

def shaS (a b c : Nat) (x : BitVec 64) : BitVec 64 := x.rotateRight a ^^^ x.rotateRight b ^^^ x.rotateRight c
def shaT (a b c : Nat) (x : BitVec 64) : BitVec 64 := x.rotateRight a ^^^ x.rotateRight b ^^^ (x >>> c)

/-- The message schedule: the sixteen newest words first, extended word by word. -/
def shaExtend : Nat → List (BitVec 64) → List (BitVec 64)
  | 0, w => w
  | n + 1, w =>
    shaExtend n ((shaT 19 61 6 (w.getD 1 0) + w.getD 6 0 + shaT 1 8 7 (w.getD 14 0) + w.getD 15 0) :: w)

/-- One round: the eight working variables, a first. -/
def shaRound (v : List (BitVec 64)) (kw : BitVec 64) : List (BitVec 64) :=
  let a := v.getD 0 0
  let e := v.getD 4 0
  let t1 := v.getD 7 0 + shaS 14 18 41 e + ((e &&& v.getD 5 0) ^^^ (~~~e &&& v.getD 6 0)) + kw
  let t2 := shaS 28 34 39 a + ((a &&& v.getD 1 0) ^^^ (a &&& v.getD 2 0) ^^^ (v.getD 1 0 &&& v.getD 2 0))
  [t1 + t2, a, v.getD 1 0, v.getD 2 0, v.getD 3 0 + t1, e, v.getD 5 0, v.getD 6 0]

/-- One block of 128 bytes. -/
def shaBlock (h : List (BitVec 64)) (bs : List Byte) : List (BitVec 64) :=
  let w := (List.range 16).map fun i => BitVec.ofNat 64 (ofBeBytes ((bs.drop (8 * i)).take 8))
  let ws := (shaExtend 64 w.reverse).reverse
  List.zipWith (· + ·) h ((List.zipWith (· + ·) shaK ws).foldl shaRound h)

def shaBlocks : Nat → List (BitVec 64) → List Byte → List (BitVec 64)
  | 0, h, _ => h
  | n + 1, h, bs => shaBlocks n (shaBlock h (bs.take 128)) (bs.drop 128)

/-- The 64 bytes of SHA-512. -/
def sha512 (bs : List Byte) : List Byte :=
  let m := shaPad bs
  (shaBlocks (m.length / 128) shaInit m).flatMap fun x => beBytes 8 x.toNat

/-! ### ECDSA on P-521 -/

def p521 : Nat := 2 ^ 521 - 1
def n521 : Nat :=
  0x1fffffffffffffffffffffffffffffffffffffffffffffffffffffffffffffffffa51868783bf2f966b7fcc0148f709a5d03bb5c9b8899c47aebb6fb71e91386409
def b521 : Nat :=
  0x51953eb9618e1c9a1f929a21a0b68540eea2da725b99b315f3b8b489918ef109e156193951ec7e937b1652c0bd3bb1bf073573df883d2c34f1ef451fd46b503f00
def g521 : Nat × Nat :=
  (0xc6858e06b70404e9cd9e3ecb662395b4429c648139053fb521f828af606b4d3dbaa14b5e77efe75928fe1dc127a2ffa8de3348b3c1856a429bf97e7e31c2e5bd66,
   0x11839296a789a3bc0045c8a5fb42c7d1bd998f54449579b446817afbd17273e662c97ee72995ef42640c550b9013fad0761353c7086a272c24088be94769fd16650)

/-- x ^ e modulo m, over the `fuel` low bits of e. -/
def powMod (m : Nat) : Nat → Nat → Nat → Nat
  | 0, _, _ => 1 % m
  | fuel + 1, x, e =>
    let r := powMod m fuel (x * x % m) (e / 2)
    if e % 2 = 1 then r * x % m else r

/-- The inverse modulo a prime. -/
def invMod (m x : Nat) : Nat := powMod m 521 (x % m) (m - 2)

/-- The sum of two points; none is the point at infinity. -/
def ecAdd : Option (Nat × Nat) → Option (Nat × Nat) → Option (Nat × Nat)
  | none, q => q
  | p, none => p
  | some (x1, y1), some (x2, y2) =>
    if x1 = x2 ∧ (y1 + y2) % p521 = 0 then none
    else
      let l :=
        if x1 = x2 then (3 * x1 * x1 + 3 * (p521 - 1)) % p521 * invMod p521 (2 * y1) % p521
        else (y2 + p521 - y1) * invMod p521 (x2 + p521 - x1) % p521
      let x := (l * l + 2 * p521 - x1 - x2) % p521
      some (x, (l * (x1 + p521 - x) + p521 - y1) % p521)

/-- k times a point, over the `fuel` low bits of k. -/
def ecMul : Nat → Nat → Option (Nat × Nat) → Option (Nat × Nat)
  | 0, _, _ => none
  | fuel + 1, k, p =>
    let r := ecMul fuel (k / 2) (ecAdd p p)
    if k % 2 = 1 then ecAdd r p else r

/-- Is the point on the curve? -/
def onCurve (x y : Nat) : Bool :=
  decide (x < p521 ∧ y < p521) && decide (y * y % p521 = (x * x * x + x * (p521 - 3) + b521) % p521)

/-- Does the signature (r, s) of the digest `z` verify under the public key (x, y)? -/
def ecdsaValid (x y r s z : Nat) : Bool :=
  if onCurve x y && decide (0 < r ∧ r < n521 ∧ 0 < s ∧ s < n521) then
    let w := invMod n521 s
    match ecAdd (ecMul 521 (z * w % n521) (some g521)) (ecMul 521 (r * w % n521) (some (x, y))) with
    | some p => decide (p.1 % n521 = r)
    | none => false
  else false

/-- The signature of `z` by the private key `d` with the nonce `k`. -/
def ecdsaSign (d k z : Nat) : Nat × Nat :=
  match ecMul 521 k (some g521) with
  | some p => (p.1 % n521, invMod n521 k * (z + p.1 % n521 * d) % n521)
  | none => (0, 0)

end Sys2Proof.Machine
end

