-- ==== Sys2Proof/Machine/Fp.lean ====
section
/-! DEFINITION. The arithmetic of the loop engines: IEEE 754 binary32, to nearest, ties to even, with the special cases
of R135. A value carries whether a NaN was replaced or a result saturated on its way (arith). -/

namespace Sys2Proof.Machine

/-- A binary32 value, and whether arith is to be set for it (R135). -/
structure Fp where
  v : Word
  bad : Bool := false
  deriving DecidableEq, Repr

/-- What a binary32 operand stands for: the number (-1)^neg * m * 2^e, an infinity, or no number. -/
inductive FpKind where
  | num (neg : Bool) (m : Nat) (e : Int)
  | inf (neg : Bool)
  | nan
  deriving DecidableEq, Repr

/-- The meaning of an operand; a subnormal one is zero with its sign (R135). -/
def fpKind (w : Word) : FpKind :=
  let neg := bitAt w 31
  let ex := fieldOf w 30 23
  let fr := fieldOf w 22 0
  if ex = 255 then (if fr = 0 then .inf neg else .nan)
  else if ex = 0 then .num neg 0 0
  else .num neg (2 ^ 23 + fr) ((ex : Int) - 150)

/-- The bits of sign, biased exponent and fraction. -/
def fpBits (neg : Bool) (ex fr : Nat) : Word := toWord (boolNat neg * 2 ^ 31 + ex * 2 ^ 23 + fr)

/-- A zero with its sign. -/
def fpZero (neg : Bool) : Word := fpBits neg 0 0

/-- The largest finite value with a sign (R135). -/
def fpMax (neg : Bool) : Word := fpBits neg 254 (2 ^ 23 - 1)

/-- m / 2^k to the nearest integer, ties to even. -/
def shiftEven (m k : Nat) : Nat :=
  let q := m / 2 ^ k
  let r := 2 * (m % 2 ^ k)
  if 2 ^ k < r ∨ (r = 2 ^ k ∧ q % 2 = 1) then q + 1 else q

/-- m * 2^e rounded to binary32: overflow saturates, a subnormal result is zero (R135). -/
def fpRound (neg : Bool) (m : Nat) (e : Int) (bad : Bool) : Fp :=
  if m = 0 then { v := fpZero neg, bad := bad }
  else
    let q : Int := max (e + Nat.log2 m - 23) (-149)
    let r := if q ≤ e then m * 2 ^ (e - q).toNat else shiftEven m (q - e).toNat
    let r' := if r = 2 ^ 24 then 2 ^ 23 else r
    let ex := (if r = 2 ^ 24 then q + 1 else q) + 150
    if r' < 2 ^ 23 then { v := fpZero neg, bad := bad }
    else if 255 ≤ ex then { v := fpMax neg, bad := true }
    else { v := fpBits neg ex.toNat (r' - 2 ^ 23), bad := bad }

/-- A NaN result is +0 and sets arith; an infinite one saturates (R135). -/
def fpNan : Fp := { v := 0, bad := true }
def fpInf (neg : Bool) : Fp := { v := fpMax neg, bad := true }

/-- A signed integer times 2^e. -/
def fpScaled (z : Int) (e : Int) : Fp := fpRound (decide (z < 0)) z.natAbs e false

/-- A phase in turns, in [0, 1): one that would round to 1 is the largest value below it (R135; log entry 17). -/
def fpTurns (p : Nat) : Fp := if 0xFFFFFF80 ≤ p % 2 ^ 32 then { v := 0x3F7FFFFF } else fpScaled (p % 2 ^ 32 : Nat) (-32)

/-- An integer enters the engine (R135). -/
def fpInt (z : Int) : Fp := fpScaled z 0

def fpOf (w : Word) : Fp := { v := w }

def fpNeg (a : Fp) : Fp := { a with v := a.v ^^^ 0x80000000 }
def fpAbs (a : Fp) : Fp := { a with v := a.v &&& 0x7FFFFFFF }

def fpAdd (a b : Fp) : Fp :=
  let bad := a.bad || b.bad
  match fpKind a.v, fpKind b.v with
  | .nan, _ => fpNan
  | _, .nan => fpNan
  | .inf x, .inf y => if x = y then fpInf x else fpNan
  | .inf x, _ => fpInf x
  | _, .inf y => fpInf y
  | .num n1 m1 e1, .num n2 m2 e2 =>
    let e := min e1 e2
    let z1 : Int := (m1 * 2 ^ (e1 - e).toNat : Nat)
    let z2 : Int := (m2 * 2 ^ (e2 - e).toNat : Nat)
    let z := (if n1 then -z1 else z1) + (if n2 then -z2 else z2)
    fpRound (if z = 0 then n1 && n2 else decide (z < 0)) z.natAbs e bad

def fpSub (a b : Fp) : Fp := fpAdd a (fpNeg b)

def fpMul (a b : Fp) : Fp :=
  let bad := a.bad || b.bad
  match fpKind a.v, fpKind b.v with
  | .nan, _ => fpNan
  | _, .nan => fpNan
  | .inf x, .inf y => fpInf (x != y)
  | .inf x, .num y m _ => if m = 0 then fpNan else fpInf (x != y)
  | .num x m _, .inf y => if m = 0 then fpNan else fpInf (x != y)
  | .num n1 m1 e1, .num n2 m2 e2 => fpRound (n1 != n2) (m1 * m2) (e1 + e2) bad

def fpDiv (a b : Fp) : Fp :=
  let bad := a.bad || b.bad
  match fpKind a.v, fpKind b.v with
  | .nan, _ => fpNan
  | _, .nan => fpNan
  | .inf _, .inf _ => fpNan
  | .inf x, .num y _ _ => fpInf (x != y)
  | .num x _ _, .inf y => { v := fpZero (x != y), bad := bad }
  | .num n1 m1 e1, .num n2 m2 e2 =>
    if m2 = 0 then (if m1 = 0 then fpNan else fpInf (n1 != n2))
    else
      let n := m1 * 2 ^ 60
      fpRound (n1 != n2) (2 * (n / m2) + boolNat (decide (n % m2 ≠ 0))) (e1 - e2 - 61) bad

/-- The order of two values; a NaN is in no order. -/
def fpLt (a b : Fp) : Bool :=
  match fpKind a.v, fpKind b.v with
  | .nan, _ => false
  | _, .nan => false
  | .inf x, .inf y => x && !y
  | .inf x, .num _ _ _ => x
  | .num _ _ _, .inf y => !y
  | .num n1 m1 e1, .num n2 m2 e2 =>
    let e := min e1 e2
    let z1 : Int := (m1 * 2 ^ (e1 - e).toNat : Nat)
    let z2 : Int := (m2 * 2 ^ (e2 - e).toNat : Nat)
    decide ((if n1 then -z1 else z1) < (if n2 then -z2 else z2))

/-- The order a ≤ b; a NaN is in no order. -/
def fpLe (a b : Fp) : Bool := !fpLt b a && decide (fpKind a.v ≠ .nan) && decide (fpKind b.v ≠ .nan)

/-- The one of two operands that a comparison picks, as a result: a subnormal one is a zero, an infinity saturates, and a
NaN on either side makes it +0 (R135). -/
def fpPick (a b : Fp) (first : Bool) : Fp :=
  match fpKind a.v, fpKind b.v with
  | .nan, _ => fpNan
  | _, .nan => fpNan
  | x, y =>
    let r := if first then a else b
    match (if first then x else y) with
    | .num n m _ => { v := if m = 0 then fpZero n else r.v, bad := a.bad || b.bad }
    | .inf n => fpInf n
    | .nan => fpNan

def fpMin (a b : Fp) : Fp := fpPick a b (!fpLt b a)
def fpMaxOf (a b : Fp) : Fp := fpPick a b (!fpLt a b)

/-- Is the value zero? -/
def fpIsZero (a : Fp) : Bool :=
  match fpKind a.v with
  | .num _ m _ => decide (m = 0)
  | _ => false

/-- The value times 2^k, to the nearest integer; ties away from zero, or upward (R138, R150). -/
def fpToInt (a : Fp) (k : Int) (away : Bool) : Int :=
  let dyadic (neg : Bool) (m : Nat) (e : Int) : Int :=
    if 0 ≤ e then (if neg then -((m * 2 ^ e.toNat : Nat) : Int) else ((m * 2 ^ e.toNat : Nat) : Int))
    else
      let d := 2 ^ (-e).toNat
      if neg then
        if away then -((((2 * m + d) / (2 * d)) : Nat) : Int) else (d - 2 * (m : Int)) / (2 * d)
      else (((2 * m + d) / (2 * d) : Nat) : Int)
  match fpKind a.v with
  | .num neg m e => dyadic neg m (e + k)
  | _ => 0

/-- x - floor(x). -/
def fpFrac (a : Fp) : Fp :=
  match fpKind a.v with
  | .num neg m e =>
    if 0 ≤ e then { v := 0, bad := a.bad }
    else
      let d := 2 ^ (-e).toNat
      let r := (if neg then -(m : Int) else (m : Int)) % d
      fpRound false r.toNat e a.bad
  | _ => fpNan

/-- The largest r with r * r ≤ n, for n < 4^k. -/
def sqrtFuel : Nat → Nat → Nat
  | 0, _ => 0
  | k + 1, n =>
    let r := 2 * sqrtFuel k (n / 4)
    if (r + 1) * (r + 1) ≤ n then r + 1 else r

def natSqrt (n : Nat) : Nat := sqrtFuel (Nat.log2 n / 2 + 1) n

/-- mag(a, b): the root of a^2 + b^2, rounded once (log entry 17). -/
def fpMag (a b : Fp) : Fp :=
  match fpKind a.v, fpKind b.v with
  | .num _ m1 e1, .num _ m2 e2 =>
    let e := min e1 e2
    let x := m1 * 2 ^ (e1 - e).toNat
    let y := m2 * 2 ^ (e2 - e).toNat
    let n := (x * x + y * y) * 2 ^ 80
    let r := natSqrt n
    fpRound false (2 * r + boolNat (decide (r * r ≠ n))) (e - 41) (a.bad || b.bad)
  | .nan, _ => fpNan
  | _, .nan => fpNan
  | _, _ => fpInf false

/-! ### Sine and cosine of an angle in turns -/

/-- One in the fixed point of the series, and the full circle in radians, cut off after 320 fraction bits. -/
def fixOne : Nat := 2 ^ 320
def twoPi : Nat := 0x6487ed5110b4611a62633145c06e0e68948127044533e63a0105df531d89cd9128a5043cc71a026ee

/-- x - x^3/3! + ... from the term of index k on, and its even companion: `sinSeries x2 k n t` sums n terms with
alternating signs, the first being t, each the previous one times x2 / ((k+1)(k+2)). -/
def altSeries (x2 : Nat) : Nat → Nat → Nat → Int
  | 0, _, _ => 0
  | n + 1, k, t => (t : Int) - altSeries x2 n (k + 2) (t * x2 / (fixOne * ((k + 1) * (k + 2))))

/-- Sine and cosine of m / 2^k turns, 0 ≤ m / 2^k ≤ 1/8, in the fixed point. -/
def fixSin (m k : Nat) : Nat :=
  let x := m * twoPi / 2 ^ k
  (altSeries (x * x / fixOne) 32 1 x).toNat
def fixCos (m k : Nat) : Nat :=
  let x := m * twoPi / 2 ^ k
  (altSeries (x * x / fixOne) 32 0 fixOne).toNat

/-- A fixed-point result rounded to binary32; only 0 and 1 are exact. -/
def fixRound (neg : Bool) (f : Nat) (bad : Bool) : Fp :=
  if f = 0 then { v := 0, bad := bad }
  else if f = fixOne then fpRound neg 1 0 bad
  else fpRound neg (2 * f + 1) (-321) bad

/-- The sine of m / 2^k turns, 0 ≤ m < 2^k: reduced to the first eighth. -/
def sinTurn (m k : Nat) (bad : Bool) : Fp :=
  let h := 2 ^ k / 2
  let neg : Bool := decide (h ≤ m)
  let r := m % h
  let q := if 2 ^ k < 4 * r then h - r else r
  if 2 ^ k < 8 * q then fixRound neg (fixCos (2 ^ k / 4 - q) k) bad else fixRound neg (fixSin q k) bad

/-- The position m / 2^k in the turn of a value in turns; k is at least 3. -/
def turnOf (a : Word) : Option (Nat × Nat) :=
  match fpKind a with
  | .num neg m e =>
    let k := max 3 (-e).toNat
    let z : Int := (m * 2 ^ (e + k).toNat : Nat)
    some (((if neg then -z else z) % 2 ^ k).toNat, k)
  | _ => none

/-- sin and cos of 2 pi a, correctly rounded (R135; log entry 17). -/
def fpSin (a : Fp) : Fp :=
  match turnOf a.v with
  | some (m, k) => sinTurn m k a.bad
  | none => fpNan
def fpCos (a : Fp) : Fp :=
  match turnOf a.v with
  | some (m, k) => sinTurn ((m + 2 ^ k / 4) % 2 ^ k) k a.bad
  | none => fpNan

/-- Sum of products, left to right, each product and each sum rounded (R135; log entry 17). -/
def fpDot : List (Fp × Fp) → Fp
  | [] => fpOf 0
  | (a, b) :: r => fpDotFrom (fpMul a b) r
where
  fpDotFrom : Fp → List (Fp × Fp) → Fp
    | acc, [] => acc
    | acc, (a, b) :: r => fpDotFrom (fpAdd acc (fpMul a b)) r

end Sys2Proof.Machine
end

