-- ==== Sys2Proof/Config.lean ====
section
/-! DEFINITION. The free values: constants without a body, so that nothing can be proved of what they hold
(log entry 1). -/

namespace Sys2Proof.Config

/-- The value, of any width, that the spec leaves open the `k`-th time a run meets such a case. -/
opaque freeValue (w : Nat) : Nat → BitVec w

/-- The latency tolerance in cycles that the console engine reports at a time of the device timer (R286): no rule gives it. -/
opaque consoleTolerance : BitVec 64 → BitVec 32

/-- The code, within its unit, of the log entry of an event for which the spec names none (R408, log entry 13). -/
opaque logCode : Nat → BitVec 16

end Sys2Proof.Config
end

