-- ==== Sys2Proof/Machine/Regs.lean ====
section
/-! DEFINITION. The registers of the device region (R22, R23), written out from the register tables of spec/: each
family's offset from 0x00_8000_0000, its repetition (count and stride), its reset value (R11), the bits a write
stores (RW), clears (W1C) or sets (W1S), how a read acts (R10), who may write it (R23, R38, R178, R397, R427, R444)
and whether core-domain and core resets leave it alone (R458). -/

namespace Sys2Proof.Machine

/-- How a read of the register acts beside answering a word (R10, R34). -/
inductive ReadKind where
  | plain | writeOnly | readClear | acquire | masked | byKind | latchLow | latchHigh
  deriving DecidableEq, Repr

/-- Who may use the register. `tailstockWrites`: every requester reads, only the tailstock writes (R23).
`ownCore`: the core whose window it is, and the tailstock. `tailstockOnly`: no other requester reads or writes. -/
inductive RegUsers where
  | any | tailstockWrites | ownCore | tailstockOnly
  deriving DecidableEq, Repr

/-- One register family of a register table. -/
structure RegRow where
  /-- Offset of its first instance of the family from 0x00_8000_0000. -/
  off : Nat
  /-- (count, stride) of each index, outermost first. -/
  dims : List (Nat × Nat)
  read : ReadKind
  reset : Word
  rw : Word
  w1c : Word
  w1s : Word
  users : RegUsers
  /-- One copy for each requester (R88, R186, R352, R367). -/
  perRequester : Bool
  /-- Reset by power-on, device and tamper reset only (R458). -/
  keptByCoreReset : Bool
  /-- Its Access column holds RW (R80). -/
  rwAccess : Bool
  deriving DecidableEq, Repr

namespace Reg


/-! ### Block gctl (spec/01_architecture.md) -/

abbrev DEVTIMER_LO : Nat := 0x10
abbrev DEVTIMER_HI : Nat := 0x14
abbrev GCTL_RESET_CAUSE : Nat := 0x20
abbrev GCTL_CORE_REL : Nat := 0x24
abbrev GCTL_CORE_PC (n : Nat) : Nat := 0x40 + n * 0x4
abbrev GCTL_SNAP : Nat := 0x100
abbrev GCTL_SNAP_DT_LO : Nat := 0x108
abbrev GCTL_SNAP_DT_HI : Nat := 0x10C
abbrev GCTL_SCLK_CNT_LO : Nat := 0x200
abbrev GCTL_SCLK_CNT_HI : Nat := 0x204
abbrev GCTL_SCLK_STATUS : Nat := 0x208
abbrev GCTL_KEEP (n : Nat) : Nat := 0x210 + n * 0x4

/-! ### Block spn (spec/03_spindles.md) -/

abbrev SPN_PHASE (n : Nat) : Nat := 0x100000 + n * 0x100
abbrev SPN_TURNS (n : Nat) : Nat := 0x100004 + n * 0x100
abbrev SPN_VEL (n : Nat) : Nat := 0x100008 + n * 0x100
abbrev SPN_STATUS (n : Nat) : Nat := 0x10000C + n * 0x100
abbrev SPN_CTRL (n : Nat) : Nat := 0x100010 + n * 0x100
abbrev SPN_SRC (n : Nat) : Nat := 0x100014 + n * 0x100
abbrev SPN_CPT (n : Nat) : Nat := 0x100018 + n * 0x100
abbrev SPN_OFFSET (n : Nat) : Nat := 0x10001C + n * 0x100
abbrev SPN_FILTER (n : Nat) : Nat := 0x100020 + n * 0x100
abbrev SPN_TIMEOUT (n : Nat) : Nat := 0x100024 + n * 0x100
abbrev SPN_COAST (n : Nat) : Nat := 0x100028 + n * 0x100
abbrev SPN_AMAX (n : Nat) : Nat := 0x10002C + n * 0x100
abbrev SPN_VMAX (n : Nat) : Nat := 0x100030 + n * 0x100
abbrev SPN_ERRCNT (n : Nat) : Nat := 0x100034 + n * 0x100
abbrev SPN_SET_PHASE (n : Nat) : Nat := 0x100038 + n * 0x100
abbrev SPN_SET_TURNS (n : Nat) : Nat := 0x10003C + n * 0x100
abbrev SPN_CMP_VAL (n i : Nat) : Nat := 0x100040 + n * 0x100 + i * 0x8
abbrev SPN_CMP_CTL (n i : Nat) : Nat := 0x100044 + n * 0x100 + i * 0x8
abbrev SPN_CAP_PHASE (n i : Nat) : Nat := 0x100060 + n * 0x100 + i * 0x8
abbrev SPN_CAP_TURNS (n i : Nat) : Nat := 0x100064 + n * 0x100 + i * 0x8
abbrev SPN_CAP_CTL (n : Nat) : Nat := 0x100070 + n * 0x100
abbrev SPN_IRQ_EN (n : Nat) : Nat := 0x100074 + n * 0x100
abbrev SPN_SNAP_PHASE (n : Nat) : Nat := 0x100078 + n * 0x100
abbrev SPN_SNAP_TURNS (n : Nat) : Nat := 0x10007C + n * 0x100
abbrev SPN_K80 (n : Nat) : Nat := 0x100080 + n * 0x100
abbrev SPN_K84 (n : Nat) : Nat := 0x100084 + n * 0x100
abbrev SPN_K88 (n : Nat) : Nat := 0x100088 + n * 0x100

/-! ### Block plate (spec/04_index_plate.md) -/

abbrev PLATE_CTRL : Nat := 0x200000
abbrev PLATE_STATUS : Nat := 0x200004
abbrev PLATE_STORE_BASE : Nat := 0x200008
abbrev PLATE_MIRROR_BASE : Nat := 0x20000C
abbrev PLATE_FREE : Nat := 0x200010
abbrev PLATE_NEAR_FREE : Nat := 0x200014
abbrev PLATE_CHAIN_POOL : Nat := 0x200018
abbrev PLATE_MARGIN : Nat := 0x20001C
abbrev PLATE_SLIP_LIMIT : Nat := 0x200020
abbrev PLATE_SLIP_MAX : Nat := 0x200024
abbrev PLATE_RETQ : Nat := 0x200028
abbrev PLATE_FIRES_LO : Nat := 0x200030
abbrev PLATE_FIRES_HI : Nat := 0x200034
abbrev PLATE_IRQ_EN : Nat := 0x200038
abbrev PLATE_STG_W (n : Nat) : Nat := 0x200100 + n * 0x4
abbrev PLATE_STG_HOLE : Nat := 0x200110
abbrev PLATE_STG_HANDLE : Nat := 0x200114
abbrev PLATE_INSERT : Nat := 0x200120
abbrev PLATE_REMOVE : Nat := 0x200124
abbrev PLATE_ALLOC : Nat := 0x200128
abbrev PLATE_WRITE : Nat := 0x20012C
abbrev PLATE_RELEASE : Nat := 0x200130
abbrev PLATE_FETCH : Nat := 0x200134
abbrev PLATE_PROBE : Nat := 0x200138
abbrev PLATE_RD_W (n : Nat) : Nat := 0x200140 + n * 0x4
abbrev PLATE_PART_MAP (n : Nat) : Nat := 0x201000 + n * 0x20
abbrev PLATE_PART_RES (n : Nat) : Nat := 0x201004 + n * 0x20
abbrev PLATE_PART_NEAR (n : Nat) : Nat := 0x201008 + n * 0x20
abbrev PLATE_PART_COUNT (n : Nat) : Nat := 0x20100C + n * 0x20
abbrev PLATE_PART_CTL (n : Nat) : Nat := 0x201010 + n * 0x20
abbrev PLATE_PART_STATUS (n : Nat) : Nat := 0x201014 + n * 0x20
abbrev PLATE_PART_LATE (n : Nat) : Nat := 0x201018 + n * 0x20
abbrev PLATE_PART_IRQ_EN (n : Nat) : Nat := 0x20101C + n * 0x20

/-! ### Block afe (spec/05_analog_front.md) -/

abbrev ADC_CTL (n i : Nat) : Nat := 0x300000 + n * 0x10000 + i * 0x400
abbrev ADC_STATUS (n i : Nat) : Nat := 0x300004 + n * 0x10000 + i * 0x400
abbrev ADC_SWTRIG (n i : Nat) : Nat := 0x300008 + n * 0x10000 + i * 0x400
abbrev ADC_SEQ (n i j : Nat) : Nat := 0x300100 + n * 0x10000 + i * 0x400 + j * 0x4
abbrev CH_VALUE (n i : Nat) : Nat := 0x301000 + n * 0x10000 + i * 0x10
abbrev CH_TIME (n i : Nat) : Nat := 0x301004 + n * 0x10000 + i * 0x10
abbrev CH_WIN (n i : Nat) : Nat := 0x301008 + n * 0x10000 + i * 0x10
abbrev CH_CTL (n i : Nat) : Nat := 0x30100C + n * 0x10000 + i * 0x10
abbrev CMP_CTL (n i : Nat) : Nat := 0x302000 + n * 0x10000 + i * 0x20
abbrev CMP_DAC (n i : Nat) : Nat := 0x302004 + n * 0x10000 + i * 0x20
abbrev CMP_RAMP (n i : Nat) : Nat := 0x302008 + n * 0x10000 + i * 0x20
abbrev CMP_BLANK (n i : Nat) : Nat := 0x30200C + n * 0x10000 + i * 0x20
abbrev CMP_STATUS (n i : Nat) : Nat := 0x302010 + n * 0x10000 + i * 0x20
abbrev SD_CTL (n i : Nat) : Nat := 0x303000 + n * 0x10000 + i * 0x20
abbrev SD_CLK (n i : Nat) : Nat := 0x303004 + n * 0x10000 + i * 0x20
abbrev SD_SYNC (n i : Nat) : Nat := 0x303008 + n * 0x10000 + i * 0x20
abbrev SD_STATUS (n i : Nat) : Nat := 0x30300C + n * 0x10000 + i * 0x20
abbrev AFE_STATUS (n : Nat) : Nat := 0x304000 + n * 0x10000
abbrev AFE_IRQ_EN (n : Nat) : Nat := 0x304004 + n * 0x10000
abbrev AFE_RANGE_MAP (n i : Nat) : Nat := 0x304008 + n * 0x10000 + i * 0x4
abbrev AFE_STALE_MAP (n i : Nat) : Nat := 0x304010 + n * 0x10000 + i * 0x4
abbrev AFE_TRIG_LOST (n : Nat) : Nat := 0x304018 + n * 0x10000
abbrev AFE_CAL_CTL (n : Nat) : Nat := 0x304020 + n * 0x10000
abbrev AFE_CAL_STATUS (n : Nat) : Nat := 0x304024 + n * 0x10000
abbrev AFE_QUEUE (n : Nat) : Nat := 0x304030 + n * 0x10000
abbrev AFE_QUEUE_FILL (n : Nat) : Nat := 0x304034 + n * 0x10000

/-! ### Block loop (spec/06_loop_engines.md) -/

abbrev LOOP_CTL (n : Nat) : Nat := 0x400000 + n * 0x800
abbrev LOOP_STATUS (n : Nat) : Nat := 0x400004 + n * 0x800
abbrev LOOP_IRQ_EN (n : Nat) : Nat := 0x400008 + n * 0x800
abbrev LOOP_BANK (n : Nat) : Nat := 0x40000C + n * 0x800
abbrev LOOP_IN (n i : Nat) : Nat := 0x400010 + n * 0x800 + i * 0x4
abbrev LOOP_OUT_MAP (n i : Nat) : Nat := 0x400020 + n * 0x800 + i * 0x4
abbrev LOOP_START (n : Nat) : Nat := 0x400030 + n * 0x800
abbrev LOOP_REF_SRC (n : Nat) : Nat := 0x400034 + n * 0x800
abbrev LOOP_GUARD (n : Nat) : Nat := 0x400038 + n * 0x800
abbrev LOOP_ANGLE (n : Nat) : Nat := 0x40003C + n * 0x800
abbrev LOOP_REF (n i : Nat) : Nat := 0x400040 + n * 0x800 + i * 0x4
abbrev LOOP_OUTV (n i : Nat) : Nat := 0x400050 + n * 0x800 + i * 0x4
abbrev LOOP_PENDING_DUTY (n i : Nat) : Nat := 0x400060 + n * 0x800 + i * 0x4
abbrev LOOP_UPDATES (n : Nat) : Nat := 0x400070 + n * 0x800
abbrev LOOP_SPEC_CONFIRM (n : Nat) : Nat := 0x400074 + n * 0x800
abbrev LOOP_SPEC_RECOMPUTE (n : Nat) : Nat := 0x400078 + n * 0x800
abbrev LOOP_MISSED_HORIZON (n : Nat) : Nat := 0x40007C + n * 0x800
abbrev LOOP_FAULTS (n : Nat) : Nat := 0x400080 + n * 0x800
abbrev LOOP_OBS_CTL (n : Nat) : Nat := 0x400090 + n * 0x800
abbrev LOOP_OBS_PHASE (n : Nat) : Nat := 0x400094 + n * 0x800
abbrev LOOP_OBS_VEL (n : Nat) : Nat := 0x400098 + n * 0x800
abbrev LOOP_OBS_FREQ (n : Nat) : Nat := 0x40009C + n * 0x800
abbrev LOOP_OBS_ROCOF (n : Nat) : Nat := 0x4000A0 + n * 0x800
abbrev LOOP_STATE (n i : Nat) : Nat := 0x400100 + n * 0x800 + i * 0x4
abbrev LOOP_BANK_A (n i : Nat) : Nat := 0x400200 + n * 0x800 + i * 0x4
abbrev LOOP_BANK_B (n i : Nat) : Nat := 0x400500 + n * 0x800 + i * 0x4
abbrev LE_STATUS (n : Nat) : Nat := 0x4C0000 + n * 0x100
abbrev LE_WAITS (n : Nat) : Nat := 0x4C0004 + n * 0x100

/-! ### Block pwm (spec/07_pwm_trip.md) -/

abbrev PWM_GRP_CTL (n : Nat) : Nat := 0x500000 + n * 0x1000
abbrev PWM_GRP_STATUS (n : Nat) : Nat := 0x500004 + n * 0x1000
abbrev PWM_PER (n : Nat) : Nat := 0x500008 + n * 0x1000
abbrev PWM_SYNC (n : Nat) : Nat := 0x50000C + n * 0x1000
abbrev PWM_SYNC_PHASE (n : Nat) : Nat := 0x500010 + n * 0x1000
abbrev PWM_TZ_MASK (n : Nat) : Nat := 0x500014 + n * 0x1000
abbrev PWM_IRQ_EN (n : Nat) : Nat := 0x500018 + n * 0x1000
abbrev PWM_POS (n : Nat) : Nat := 0x50001C + n * 0x1000
abbrev PWM_DT_MIN (n : Nat) : Nat := 0x500020 + n * 0x1000
abbrev PWM_SAFE (n : Nat) : Nat := 0x500024 + n * 0x1000
abbrev PWM_ARM (n : Nat) : Nat := 0x500028 + n * 0x1000
abbrev PWM_ARM_REQ (n : Nat) : Nat := 0x50002C + n * 0x1000
abbrev PWM_BURST (n : Nat) : Nat := 0x500030 + n * 0x1000
abbrev PWM_PAIR_CTL (n i : Nat) : Nat := 0x500100 + n * 0x1000 + i * 0x80
abbrev PWM_CMPA (n i : Nat) : Nat := 0x500104 + n * 0x1000 + i * 0x80
abbrev PWM_CMPB (n i : Nat) : Nat := 0x500108 + n * 0x1000 + i * 0x80
abbrev PWM_CMPA_ACT (n i : Nat) : Nat := 0x50010C + n * 0x1000 + i * 0x80
abbrev PWM_CMPB_ACT (n i : Nat) : Nat := 0x500110 + n * 0x1000 + i * 0x80
abbrev PWM_SHIFT (n i : Nat) : Nat := 0x500114 + n * 0x1000 + i * 0x80
abbrev PWM_DT_RISE (n i : Nat) : Nat := 0x500118 + n * 0x1000 + i * 0x80
abbrev PWM_DT_FALL (n i : Nat) : Nat := 0x50011C + n * 0x1000 + i * 0x80
abbrev PWM_TRIP_ACT (n i : Nat) : Nat := 0x500120 + n * 0x1000 + i * 0x80
abbrev PWM_DTAB_IDX (n i : Nat) : Nat := 0x500124 + n * 0x1000 + i * 0x80
abbrev PWM_DTAB (n i j : Nat) : Nat := 0x500140 + n * 0x1000 + i * 0x80 + j * 0x4
abbrev TZ_CTL (n : Nat) : Nat := 0x518000 + n * 0x20
abbrev TZ_STATUS (n : Nat) : Nat := 0x518004 + n * 0x20
abbrev TZ_FORCE (n : Nat) : Nat := 0x518008 + n * 0x20
abbrev PWM_GTRIP : Nat := 0x51C000

/-! ### Block pl (spec/08_placement.md) -/

abbrev PL_POOL_USED : Nat := 0x600000
abbrev PL_ENGINE_LIMIT : Nat := 0x600010
abbrev PL_L2_PIN_MAX : Nat := 0x600014
abbrev PL_BANK_POOL : Nat := 0x600018
abbrev PL_DRAM_SIZE : Nat := 0x60001C
abbrev PL_DRAM_BASE_LO : Nat := 0x600020
abbrev PL_DRAM_BASE_HI : Nat := 0x600024
abbrev PL_TCM_POOL (n : Nat) : Nat := 0x600040 + n * 0x4
abbrev PL_DECL (n : Nat) : Nat := 0x600100 + n * 0x4
abbrev PL_SUBMIT : Nat := 0x600140
abbrev PL_COMMIT : Nat := 0x600144
abbrev PL_DISCARD : Nat := 0x600148
abbrev PL_WITHDRAW : Nat := 0x60014C
abbrev PL_REPLACE : Nat := 0x600150
abbrev PL_QUERY : Nat := 0x600154
abbrev PL_HANDLE : Nat := 0x600158
abbrev PL_TARGET : Nat := 0x60015C
abbrev PL_STATUS : Nat := 0x600160
abbrev PL_RESULT : Nat := 0x600164
abbrev PL_IRQ_EN : Nat := 0x600168
abbrev PL_RES (n : Nat) : Nat := 0x600180 + n * 0x4

/-! ### Block aic (spec/11_interrupts.md) -/

abbrev AIC_SRC (n : Nat) : Nat := 0x700000 + n * 0x4
abbrev AIC_THRESH (n : Nat) : Nat := 0x708000 + n * 0x200
abbrev AIC_CLAIM (n : Nat) : Nat := 0x708004 + n * 0x200
abbrev AIC_EOI (n : Nat) : Nat := 0x708008 + n * 0x200
abbrev AIC_ACTIVE (n : Nat) : Nat := 0x70800C + n * 0x200
abbrev AIC_LATCHED (n : Nat) : Nat := 0x708010 + n * 0x200
abbrev AIC_PRIV (n i : Nat) : Nat := 0x708100 + n * 0x200 + i * 0x4
abbrev AIC_GRP (n : Nat) : Nat := 0x70A000 + n * 0x4
abbrev AIC_GRP_STAT (n : Nat) : Nat := 0x70A200 + n * 0x4
abbrev AIC_DOORBELL : Nat := 0x70F000
abbrev AIC_PDOORBELL : Nat := 0x70F004

/-! ### Block dma (spec/12_memory_dma.md) -/

abbrev DMA_CH_CTL (n : Nat) : Nat := 0x800000 + n * 0x40
abbrev DMA_CH_STATUS (n : Nat) : Nat := 0x800004 + n * 0x40
abbrev DMA_CH_IRQ_EN (n : Nat) : Nat := 0x800008 + n * 0x40
abbrev DMA_CH_KICK (n : Nat) : Nat := 0x80000C + n * 0x40
abbrev DMA_CH_DESC_LO (n : Nat) : Nat := 0x800010 + n * 0x40
abbrev DMA_CH_DESC_HI (n : Nat) : Nat := 0x800014 + n * 0x40
abbrev DMA_CH_PACE (n : Nat) : Nat := 0x800018 + n * 0x40
abbrev DMA_CH_LAT_TOL (n : Nat) : Nat := 0x80001C + n * 0x40
abbrev DMA_CH_SRC_LO (n : Nat) : Nat := 0x800020 + n * 0x40
abbrev DMA_CH_SRC_HI (n : Nat) : Nat := 0x800024 + n * 0x40
abbrev DMA_CH_DST_LO (n : Nat) : Nat := 0x800028 + n * 0x40
abbrev DMA_CH_DST_HI (n : Nat) : Nat := 0x80002C + n * 0x40
abbrev DMA_CH_REMAIN (n : Nat) : Nat := 0x800030 + n * 0x40
abbrev DMA_CH_FADDR_LO (n : Nat) : Nat := 0x800034 + n * 0x40
abbrev DMA_CH_FADDR_HI (n : Nat) : Nat := 0x800038 + n * 0x40
abbrev DMA_ENG_CTL : Nat := 0x802000
abbrev DMA_ENG_STATUS : Nat := 0x802004
abbrev DMA_ENG_ERR_LO : Nat := 0x802008
abbrev DMA_ENG_ERR_HI : Nat := 0x80200C
abbrev IOMMU_ST_CTL (n : Nat) : Nat := 0x810000 + n * 0x10
abbrev IOMMU_ST_PTBASE (n : Nat) : Nat := 0x810004 + n * 0x10
abbrev IOMMU_ST_FADDR (n : Nat) : Nat := 0x810008 + n * 0x10
abbrev IOMMU_ST_FSTAT (n : Nat) : Nat := 0x81000C + n * 0x10
abbrev IOMMU_INV : Nat := 0x811000
abbrev IOMMU_INV_ADDR : Nat := 0x811004
abbrev IOMMU_IRQ_EN : Nat := 0x811008

/-! ### Block con (spec/13_console_engine.md) -/

abbrev CON_CTL (n : Nat) : Nat := 0x900000 + n * 0x100
abbrev CON_SIZE (n : Nat) : Nat := 0x900004 + n * 0x100
abbrev CON_TOTAL (n : Nat) : Nat := 0x900008 + n * 0x100
abbrev CON_FRAME (n : Nat) : Nat := 0x90000C + n * 0x100
abbrev CON_BACKDROP (n : Nat) : Nat := 0x900010 + n * 0x100
abbrev CON_FALLBACK (n : Nat) : Nat := 0x900014 + n * 0x100
abbrev CON_INLAY_BASE (n : Nat) : Nat := 0x900018 + n * 0x100
abbrev CON_INLAY_CTL (n : Nat) : Nat := 0x90001C + n * 0x100
abbrev CON_STREAM_CTL (n : Nat) : Nat := 0x900020 + n * 0x100
abbrev CON_KICK (n : Nat) : Nat := 0x900024 + n * 0x100
abbrev CON_STATUS (n : Nat) : Nat := 0x900028 + n * 0x100
abbrev CON_IRQ_EN (n : Nat) : Nat := 0x90002C + n * 0x100
abbrev CON_FRAMES (n : Nat) : Nat := 0x900030 + n * 0x100
abbrev CON_ERR (n : Nat) : Nat := 0x900034 + n * 0x100
abbrev CON_L_CTL (n i : Nat) : Nat := 0x900040 + n * 0x100 + i * 0x10
abbrev CON_L_MAP (n i : Nat) : Nat := 0x900044 + n * 0x100 + i * 0x10
abbrev CON_L_SCROLL (n i : Nat) : Nat := 0x900048 + n * 0x100 + i * 0x10
abbrev CON_L_WIN (n i : Nat) : Nat := 0x90004C + n * 0x100 + i * 0x10
abbrev CON_GLB_CTL : Nat := 0x930000
abbrev CON_GLB_STATUS : Nat := 0x930004
abbrev CON_GLB_IRQ_EN : Nat := 0x930008
abbrev CON_ATLAS_BASE : Nat := 0x93000C
abbrev CON_ATLAS_SIZE : Nat := 0x930010
abbrev CON_PIPE_LOAD : Nat := 0x930014
abbrev CON_SQ_CTL (n : Nat) : Nat := 0x930100 + n * 0x10
abbrev CON_SQ_DATA (n : Nat) : Nat := 0x930104 + n * 0x10
abbrev CON_SQ_FILL (n : Nat) : Nat := 0x930108 + n * 0x10
abbrev CON_SQ_SEQ (n : Nat) : Nat := 0x93010C + n * 0x10
abbrev CON_PAL (n i : Nat) : Nat := 0x980000 + n * 0x400 + i * 0x4

/-! ### Block comp (spec/14_composition_scanout.md) -/

abbrev HD_CTL (n : Nat) : Nat := 0xA00000 + n * 0x1000
abbrev HD_STATUS (n : Nat) : Nat := 0xA00004 + n * 0x1000
abbrev HD_IRQ_EN (n : Nat) : Nat := 0xA00008 + n * 0x1000
abbrev HD_COMMIT (n : Nat) : Nat := 0xA0000C + n * 0x1000
abbrev HD_HTIME (n : Nat) : Nat := 0xA00010 + n * 0x1000
abbrev HD_HSYNC (n : Nat) : Nat := 0xA00014 + n * 0x1000
abbrev HD_VTIME (n : Nat) : Nat := 0xA00018 + n * 0x1000
abbrev HD_VSYNC (n : Nat) : Nat := 0xA0001C + n * 0x1000
abbrev HD_PCLK (n : Nat) : Nat := 0xA00020 + n * 0x1000
abbrev HD_BG (n : Nat) : Nat := 0xA00024 + n * 0x1000
abbrev HD_FILL (n : Nat) : Nat := 0xA00028 + n * 0x1000
abbrev HD_ORDER (n : Nat) : Nat := 0xA0002C + n * 0x1000
abbrev HD_WB_ADDR (n : Nat) : Nat := 0xA00030 + n * 0x1000
abbrev HD_WB_PITCH (n : Nat) : Nat := 0xA00034 + n * 0x1000
abbrev HD_POS (n : Nat) : Nat := 0xA00038 + n * 0x1000
abbrev HD_LAT_TOL (n : Nat) : Nat := 0xA0003C + n * 0x1000
abbrev HD_UNDERRUN (n : Nat) : Nat := 0xA00040 + n * 0x1000
abbrev HD_PSR_CTL (n : Nat) : Nat := 0xA00044 + n * 0x1000
abbrev HD_SU (n : Nat) : Nat := 0xA00048 + n * 0x1000
abbrev LY_CTL (n i : Nat) : Nat := 0xA00100 + n * 0x1000 + i * 0x80
abbrev LY_ADDR0 (n i : Nat) : Nat := 0xA00104 + n * 0x1000 + i * 0x80
abbrev LY_ADDR1 (n i : Nat) : Nat := 0xA00108 + n * 0x1000 + i * 0x80
abbrev LY_ADDR2 (n i : Nat) : Nat := 0xA0010C + n * 0x1000 + i * 0x80
abbrev LY_PITCH0 (n i : Nat) : Nat := 0xA00110 + n * 0x1000 + i * 0x80
abbrev LY_PITCH1 (n i : Nat) : Nat := 0xA00114 + n * 0x1000 + i * 0x80
abbrev LY_SRC_POS (n i : Nat) : Nat := 0xA00118 + n * 0x1000 + i * 0x80
abbrev LY_SRC_SIZE (n i : Nat) : Nat := 0xA0011C + n * 0x1000 + i * 0x80
abbrev LY_DST_POS (n i : Nat) : Nat := 0xA00120 + n * 0x1000 + i * 0x80
abbrev LY_DST_SIZE (n i : Nat) : Nat := 0xA00124 + n * 0x1000 + i * 0x80
abbrev LY_ALPHA (n i : Nat) : Nat := 0xA00128 + n * 0x1000 + i * 0x80
abbrev DP_CTL (n : Nat) : Nat := 0xA00800 + n * 0x1000
abbrev DP_STATUS (n : Nat) : Nat := 0xA00804 + n * 0x1000
abbrev DP_IRQ_EN (n : Nat) : Nat := 0xA00808 + n * 0x1000
abbrev DP_AUX_CMD (n : Nat) : Nat := 0xA00810 + n * 0x1000
abbrev DP_AUX_LEN (n : Nat) : Nat := 0xA00814 + n * 0x1000
abbrev DP_AUX_DATA (n i : Nat) : Nat := 0xA00820 + n * 0x1000 + i * 0x4
abbrev GAMMA_LY (n i j : Nat) : Nat := 0xA10000 + n * 0x2000 + i * 0x1000 + j * 0x4
abbrev GAMMA_HD (n i j : Nat) : Nat := 0xA30000 + n * 0x2000 + i * 0x1000 + j * 0x4
abbrev LY_PAL (n i : Nat) : Nat := 0xA40000 + n * 0x400 + i * 0x4

/-! ### Block mv (spec/15_2d_mover.md) -/

abbrev MV_CTL : Nat := 0xB00000
abbrev MV_STATUS : Nat := 0xB00004
abbrev MV_IRQ_EN : Nat := 0xB00008
abbrev MV_JOB : Nat := 0xB0000C
abbrev MV_ROWS : Nat := 0xB00010
abbrev MV_FADDR_LO : Nat := 0xB00014
abbrev MV_FADDR_HI : Nat := 0xB00018
abbrev MV_QUEUE_FILL : Nat := 0xB0001C
abbrev MV_CMD (n : Nat) : Nat := 0xB00100 + n * 0x4
abbrev MV_SUBMIT : Nat := 0xB00180

/-! ### Block aud (spec/16_audio.md) -/

abbrev AUD_CTL : Nat := 0xC00000
abbrev AUD_STATUS : Nat := 0xC00004
abbrev AUD_IRQ_EN : Nat := 0xC00008
abbrev AUD_SAMPLES (n : Nat) : Nat := 0xC00010 + n * 0x4
abbrev AUD_CAR_CTL : Nat := 0xC00020
abbrev AUD_CAR_RATE : Nat := 0xC00024
abbrev AUD_CAR_IN (n : Nat) : Nat := 0xC00040 + n * 0x4
abbrev AUD_PDM_STAT : Nat := 0xC00060
abbrev AUD_MTR_CTL : Nat := 0xC00070
abbrev AUD_CQ_DATA (n : Nat) : Nat := 0xC00080 + n * 0x4
abbrev AUD_CQ_FILL (n : Nat) : Nat := 0xC000A0 + n * 0x4
abbrev AUD_RT_STG0 : Nat := 0xC00100
abbrev AUD_RT_STG1 : Nat := 0xC00104
abbrev AUD_RT_APPLY : Nat := 0xC00108
abbrev AUD_RT_STATUS (n : Nat) : Nat := 0xC00200 + n * 0x4
abbrev VC_CTL (n : Nat) : Nat := 0xC01000 + n * 0x20
abbrev VC_ADDR (n : Nat) : Nat := 0xC01004 + n * 0x20
abbrev VC_LEN (n : Nat) : Nat := 0xC01008 + n * 0x20
abbrev VC_INC (n : Nat) : Nat := 0xC0100C + n * 0x20
abbrev VC_ENV (n : Nat) : Nat := 0xC01010 + n * 0x20
abbrev VC_STATUS (n : Nat) : Nat := 0xC01014 + n * 0x20
abbrev TDM_CTL (n : Nat) : Nat := 0xC03000 + n * 0x40
abbrev TDM_DIR (n : Nat) : Nat := 0xC03004 + n * 0x40
abbrev TDM_STATUS (n : Nat) : Nat := 0xC03008 + n * 0x40
abbrev TDM_SLIPS (n : Nat) : Nat := 0xC0300C + n * 0x40
abbrev AUD_BUS_CTL (n : Nat) : Nat := 0xC04000 + n * 0x10
abbrev AUD_BUS_PEAK (n : Nat) : Nat := 0xC04004 + n * 0x10
abbrev AUD_BUS_RMS (n : Nat) : Nat := 0xC04008 + n * 0x10
abbrev AUD_OUT_CTL (n : Nat) : Nat := 0xC05000 + n * 0x20
abbrev AUD_OUT_LIM (n : Nat) : Nat := 0xC05004 + n * 0x20
abbrev AUD_OUT_PEAK (n : Nat) : Nat := 0xC05008 + n * 0x20
abbrev AUD_OUT_RMS (n : Nat) : Nat := 0xC0500C + n * 0x20
abbrev AUD_VRAM (n : Nat) : Nat := 0xC10000 + n * 0x4

/-! ### Block hp (spec/17_host_ports_dictionary.md) -/

abbrev HP_PRODUCT (n : Nat) : Nat := 0xD00000 + n * 0x1000
abbrev HP_REV (n : Nat) : Nat := 0xD00004 + n * 0x1000
abbrev HP_PORT (n : Nat) : Nat := 0xD00008 + n * 0x1000
abbrev HP_LINK (n : Nat) : Nat := 0xD0000C + n * 0x1000
abbrev HP_ALERT_CAUSE (n : Nat) : Nat := 0xD00010 + n * 0x1000
abbrev HP_ALERT_EN (n : Nat) : Nat := 0xD00014 + n * 0x1000
abbrev HP_HOST_DB (n : Nat) : Nat := 0xD00018 + n * 0x1000
abbrev HP_ERRCNT (n : Nat) : Nat := 0xD0001C + n * 0x1000
abbrev HP_SILENCE (n : Nat) : Nat := 0xD00020 + n * 0x1000
abbrev HP_ABORT (n : Nat) : Nat := 0xD00030 + n * 0x1000
abbrev HP_ABORT_STATUS (n : Nat) : Nat := 0xD00034 + n * 0x1000
abbrev HP_ABORT_DB (n : Nat) : Nat := 0xD00038 + n * 0x1000
abbrev HP_DICT_CMD (n : Nat) : Nat := 0xD00040 + n * 0x1000
abbrev HP_DICT_OFF (n : Nat) : Nat := 0xD00044 + n * 0x1000
abbrev HP_DICT_LEN (n : Nat) : Nat := 0xD00048 + n * 0x1000
abbrev HP_DICT_BUF (n : Nat) : Nat := 0xD0004C + n * 0x1000
abbrev HP_DICT_STATUS (n : Nat) : Nat := 0xD00050 + n * 0x1000
abbrev HP_DICT_RESULT (n : Nat) : Nat := 0xD00054 + n * 0x1000
abbrev HP_DICT_RLEN (n : Nat) : Nat := 0xD00058 + n * 0x1000
abbrev HP_DICT_TOTAL (n : Nat) : Nat := 0xD0005C + n * 0x1000
abbrev HP_TS_MSG (n : Nat) : Nat := 0xD00060 + n * 0x1000
abbrev HP_TS_REPLY (n : Nat) : Nat := 0xD00064 + n * 0x1000
abbrev CHK_LEASE : Nat := 0xD03000
abbrev CHK_STATUS : Nat := 0xD03004
abbrev CHK (n : Nat) : Nat := 0xD04000 + n * 0x4
abbrev CHK_OWNER (n : Nat) : Nat := 0xD05000 + n * 0x4

/-! ### Block cv (spec/19_integrity.md) -/

abbrev CV_CTL (n : Nat) : Nat := 0xE00000 + n * 0x100
abbrev CV_STATUS (n : Nat) : Nat := 0xE00004 + n * 0x100
abbrev CV_IRQ_EN (n : Nat) : Nat := 0xE00008 + n * 0x100
abbrev CV_POLY_LO (n : Nat) : Nat := 0xE00010 + n * 0x100
abbrev CV_POLY_HI (n : Nat) : Nat := 0xE00014 + n * 0x100
abbrev CV_INIT_LO (n : Nat) : Nat := 0xE00018 + n * 0x100
abbrev CV_INIT_HI (n : Nat) : Nat := 0xE0001C + n * 0x100
abbrev CV_STATE_LO (n : Nat) : Nat := 0xE00020 + n * 0x100
abbrev CV_STATE_HI (n : Nat) : Nat := 0xE00024 + n * 0x100
abbrev CV_RESULT_LO (n : Nat) : Nat := 0xE00028 + n * 0x100
abbrev CV_RESULT_HI (n : Nat) : Nat := 0xE0002C + n * 0x100
abbrev CV_COUNT (n : Nat) : Nat := 0xE00030 + n * 0x100
abbrev CV_INIT (n : Nat) : Nat := 0xE00034 + n * 0x100
abbrev CV_DATA8 (n : Nat) : Nat := 0xE00040 + n * 0x100
abbrev CV_DATA16 (n : Nat) : Nat := 0xE00044 + n * 0x100
abbrev CV_DATA32 (n : Nat) : Nat := 0xE00048 + n * 0x100
abbrev CV_ALIVE_IN (n : Nat) : Nat := 0xE0004C + n * 0x100
abbrev CV_CHECK_LO (n : Nat) : Nat := 0xE00050 + n * 0x100
abbrev CV_CHECK_HI (n : Nat) : Nat := 0xE00054 + n * 0x100
abbrev CV_QUEUE_FILL (n : Nat) : Nat := 0xE00058 + n * 0x100
abbrev CV_ALIVE_STAT (n : Nat) : Nat := 0xE0005C + n * 0x100
abbrev MCR_INFO (n : Nat) : Nat := 0xE08000 + n * 0x10
abbrev MCR_ADDR_LO (n : Nat) : Nat := 0xE08004 + n * 0x10
abbrev MCR_ADDR_HI (n : Nat) : Nat := 0xE08008 + n * 0x10
abbrev INT_SCRUB (n : Nat) : Nat := 0xE09000 + n * 0x4
abbrev INT_OWNER (n : Nat) : Nat := 0xE09020 + n * 0x4
abbrev INT_DETECTS : Nat := 0xE09030
abbrev INT_POISONED : Nat := 0xE09034

/-! ### Block pin (spec/20_pins.md) -/

abbrev PIN_CFG (n : Nat) : Nat := 0xF00000 + n * 0x4
abbrev GPIO_OUT (n : Nat) : Nat := 0xF00400 + n * 0x20
abbrev GPIO_OUT_M (n : Nat) : Nat := 0xF00404 + n * 0x20
abbrev GPIO_OE (n : Nat) : Nat := 0xF00408 + n * 0x20
abbrev GPIO_OE_M (n : Nat) : Nat := 0xF0040C + n * 0x20
abbrev GPIO_IN (n : Nat) : Nat := 0xF00410 + n * 0x20
abbrev GPIO_INT_STAT (n : Nat) : Nat := 0xF00414 + n * 0x20
abbrev GPIO_INT_EN (n : Nat) : Nat := 0xF00418 + n * 0x20
abbrev PIN_BANK : Nat := 0xF00600
abbrev PIN_STRAP : Nat := 0xF00604

/-! ### Block mc (spec/12_memory_dma.md) -/

abbrev MC_CTL : Nat := 0x1000000
abbrev MC_STATUS : Nat := 0x1000004
abbrev MC_RATE : Nat := 0x1000008
abbrev MC_SIZE : Nat := 0x100000C
abbrev MC_SR_IDLE : Nat := 0x1000010
abbrev MC_SR_EXIT : Nat := 0x1000014
abbrev MC_LAT_TOL : Nat := 0x1000018
abbrev MC_IRQ_EN : Nat := 0x100001C
abbrev SB_CTL (n : Nat) : Nat := 0x1001000 + n * 0x4
abbrev SB_MBX_STATUS : Nat := 0x1001100

/-! ### Block gt (spec/03_spindles.md) -/

abbrev GT_COUNT (n : Nat) : Nat := 0x1100000 + n * 0x20
abbrev GT_TOP (n : Nat) : Nat := 0x1100004 + n * 0x20
abbrev GT_CMP (n : Nat) : Nat := 0x1100008 + n * 0x20
abbrev GT_CTL (n : Nat) : Nat := 0x110000C + n * 0x20
abbrev GT_STATUS (n : Nat) : Nat := 0x1100010 + n * 0x20
abbrev GT_IRQ_EN (n : Nat) : Nat := 0x1100014 + n * 0x20
abbrev GT_SNAP (n : Nat) : Nat := 0x1100800 + n * 0x4

/-! ### Block tsm (spec/18_tailstock_security.md) -/

abbrev TSM_DICT_CMD (n : Nat) : Nat := 0x1200000 + n * 0x40
abbrev TSM_DICT_OFF (n : Nat) : Nat := 0x1200004 + n * 0x40
abbrev TSM_DICT_LEN (n : Nat) : Nat := 0x1200008 + n * 0x40
abbrev TSM_DICT_BUF (n : Nat) : Nat := 0x120000C + n * 0x40
abbrev TSM_DICT_STATUS (n : Nat) : Nat := 0x1200010 + n * 0x40
abbrev TSM_DICT_RESULT (n : Nat) : Nat := 0x1200014 + n * 0x40
abbrev TSM_DICT_RLEN (n : Nat) : Nat := 0x1200018 + n * 0x40
abbrev TSM_DICT_TOTAL (n : Nat) : Nat := 0x120001C + n * 0x40
abbrev TSM_MSG (n : Nat) : Nat := 0x1200020 + n * 0x40
abbrev TSM_REPLY (n : Nat) : Nat := 0x1200024 + n * 0x40
abbrev TS_IRQ_EN (n : Nat) : Nat := 0x1208000 + n * 0x4
abbrev TS_IRQ_PEND (n : Nat) : Nat := 0x1208008 + n * 0x4
abbrev TS_CLAIM : Nat := 0x1208010
abbrev TS_EOI : Nat := 0x1208014
abbrev TS_DOORBELL : Nat := 0x1208018
abbrev TSN_VALUE (n : Nat) : Nat := 0x1209000 + n * 0x4
abbrev TSN_WARN (n : Nat) : Nat := 0x1209100 + n * 0x8
abbrev TSN_ALARM (n : Nat) : Nat := 0x1209104 + n * 0x8
abbrev TSN_CTL (n : Nat) : Nat := 0x1209300 + n * 0x4
abbrev TS_TAMPER_CAUSE : Nat := 0x120A000
abbrev OTP_ADDR : Nat := 0x120A004
abbrev OTP_DATA : Nat := 0x120A008
abbrev OTP_PROG : Nat := 0x120A00C
abbrev OTP_STATUS : Nat := 0x120A010

/-! ### Block can (spec/17_host_ports_dictionary.md) -/

abbrev CAN_CTL (n : Nat) : Nat := 0x1300000 + n * 0x1000
abbrev CAN_BT_NOM (n : Nat) : Nat := 0x1300004 + n * 0x1000
abbrev CAN_BT_DATA (n : Nat) : Nat := 0x1300008 + n * 0x1000
abbrev CAN_STATUS (n : Nat) : Nat := 0x130000C + n * 0x1000
abbrev CAN_IRQ_EN (n : Nat) : Nat := 0x1300010 + n * 0x1000
abbrev CAN_ERRCNT (n : Nat) : Nat := 0x1300014 + n * 0x1000
abbrev CAN_DROPS (n : Nat) : Nat := 0x1300018 + n * 0x1000
abbrev CAN_RXBUF_SIZE (n : Nat) : Nat := 0x1300020 + n * 0x1000
abbrev CAN_FILT_ID (n i : Nat) : Nat := 0x1300100 + n * 0x1000 + i * 0x8
abbrev CAN_FILT_MASK (n i : Nat) : Nat := 0x1300104 + n * 0x1000 + i * 0x8
abbrev CAN_RX_FIFO (n : Nat) : Nat := 0x1300400 + n * 0x1000
abbrev CAN_TX (n i j : Nat) : Nat := 0x1300800 + n * 0x1000 + i * 0x48 + j * 0x4
abbrev ETH_CTL (n : Nat) : Nat := 0x1308000 + n * 0x1000
abbrev ETH_ADDR_LO (n : Nat) : Nat := 0x1308004 + n * 0x1000
abbrev ETH_ADDR_HI (n : Nat) : Nat := 0x1308008 + n * 0x1000
abbrev ETH_MCAST_LO (n i : Nat) : Nat := 0x1308010 + n * 0x1000 + i * 0x8
abbrev ETH_MCAST_HI (n i : Nat) : Nat := 0x1308014 + n * 0x1000 + i * 0x8
abbrev ETH_PTP_LO (n : Nat) : Nat := 0x1308040 + n * 0x1000
abbrev ETH_PTP_HI (n : Nat) : Nat := 0x1308044 + n * 0x1000
abbrev ETH_PTP_TRIM (n : Nat) : Nat := 0x1308048 + n * 0x1000
abbrev ETH_PTP_STEP_LO (n : Nat) : Nat := 0x130804C + n * 0x1000
abbrev ETH_PTP_STEP_HI (n : Nat) : Nat := 0x1308050 + n * 0x1000
abbrev ETH_TS_RX (n : Nat) : Nat := 0x1308060 + n * 0x1000
abbrev ETH_TS_TX (n : Nat) : Nat := 0x1308064 + n * 0x1000
abbrev ETH_STATUS (n : Nat) : Nat := 0x1308070 + n * 0x1000
abbrev ETH_DROPS (n : Nat) : Nat := 0x1308074 + n * 0x1000

end Reg


/-- The register families of the block at 0x80000000. -/
def regRowsOf0 : List RegRow := [
  -- DEVTIMER_LO (R34)
  ⟨0x10, [], .latchLow, 0x0, 0x0, 0x0, 0x0, .any, false, true, false⟩,
  -- DEVTIMER_HI (R34)
  ⟨0x14, [], .latchHigh, 0x0, 0x0, 0x0, 0x0, .any, false, true, false⟩,
  -- GCTL_RESET_CAUSE (R459)
  ⟨0x20, [], .plain, 0x1, 0x0, 0x7F, 0x0, .tailstockWrites, false, true, false⟩,
  -- GCTL_CORE_REL (R459)
  ⟨0x24, [], .plain, 0x0, 0xFFFF, 0x0, 0x0, .tailstockWrites, false, true, true⟩,
  -- GCTL_CORE_PC (R459)
  ⟨0x40, [(16, 0x4)], .plain, 0x0, 0xFFFFFFFF, 0x0, 0x0, .tailstockWrites, false, true, true⟩,
  -- GCTL_SNAP (R35)
  ⟨0x100, [], .plain, 0x0, 0xE, 0x0, 0x0, .any, false, true, false⟩,
  -- GCTL_SNAP_DT_LO (R35)
  ⟨0x108, [], .latchLow, 0x0, 0x0, 0x0, 0x0, .any, false, true, false⟩,
  -- GCTL_SNAP_DT_HI (R35)
  ⟨0x10C, [], .latchHigh, 0x0, 0x0, 0x0, 0x0, .any, false, true, false⟩,
  -- GCTL_SCLK_CNT_LO (R38)
  ⟨0x200, [], .latchLow, 0x0, 0x0, 0x0, 0x0, .any, false, true, false⟩,
  -- GCTL_SCLK_CNT_HI (R38)
  ⟨0x204, [], .latchHigh, 0x0, 0x0, 0x0, 0x0, .any, false, true, false⟩,
  -- GCTL_SCLK_STATUS (R38)
  ⟨0x208, [], .plain, 0x0, 0x0, 0x0, 0x0, .any, false, true, false⟩,
  -- GCTL_KEEP (R38)
  ⟨0x210, [(4, 0x4)], .plain, 0x0, 0xFFFFFFFF, 0x0, 0x0, .tailstockWrites, false, true, true⟩]

/-- Register families of the block at 0x80100000, part 1. -/
def regRowsOf1_1 : List RegRow := [
  -- SPN_PHASE (R63)
  ⟨0x100000, [(154, 0x100)], .latchLow, 0x0, 0x0, 0x0, 0x0, .any, false, false, false⟩,
  -- SPN_TURNS (R63)
  ⟨0x100004, [(154, 0x100)], .latchHigh, 0x0, 0x0, 0x0, 0x0, .any, false, false, false⟩,
  -- SPN_VEL (R63)
  ⟨0x100008, [(154, 0x100)], .plain, 0x0, 0x0, 0x0, 0x0, .any, false, false, false⟩,
  -- SPN_STATUS (R66)
  ⟨0x10000C, [(154, 0x100)], .plain, 0x0, 0x0, 0xFFFC, 0x0, .any, false, false, false⟩,
  -- SPN_CTRL (R64)
  ⟨0x100010, [(154, 0x100)], .plain, 0x40400, 0xFC0FFF00, 0x0, 0x0, .any, false, false, true⟩,
  -- SPN_SRC (R65)
  ⟨0x100014, [(154, 0x100)], .plain, 0x0, 0x1C0001FF, 0x0, 0x0, .any, false, false, true⟩,
  -- SPN_CPT (R63)
  ⟨0x100018, [(154, 0x100)], .plain, 0x2000, 0xFFFFF, 0x0, 0x0, .any, false, false, true⟩,
  -- SPN_OFFSET (R63)
  ⟨0x10001C, [(154, 0x100)], .plain, 0x0, 0xFFFFFFFF, 0x0, 0x0, .any, false, false, true⟩,
  -- SPN_FILTER (R63)
  ⟨0x100020, [(154, 0x100)], .plain, 0xF, 0x3F, 0x0, 0x0, .any, false, false, true⟩,
  -- SPN_TIMEOUT (R63)
  ⟨0x100024, [(154, 0x100)], .plain, 0x1000000, 0xFFFFFFFF, 0x0, 0x0, .any, false, false, true⟩,
  -- SPN_COAST (R63)
  ⟨0x100028, [(154, 0x100)], .plain, 0x8F0D180, 0xFFFFFFFF, 0x0, 0x0, .any, false, false, true⟩,
  -- SPN_AMAX (R63)
  ⟨0x10002C, [(154, 0x100)], .plain, 0x0, 0xFFFFFFFF, 0x0, 0x0, .any, false, false, true⟩,
  -- SPN_VMAX (R63)
  ⟨0x100030, [(154, 0x100)], .plain, 0x0, 0xFFFFFFFF, 0x0, 0x0, .any, false, false, true⟩,
  -- SPN_ERRCNT (R63)
  ⟨0x100034, [(154, 0x100)], .readClear, 0x0, 0x0, 0x0, 0x0, .any, false, false, false⟩,
  -- SPN_SET_PHASE (R63)
  ⟨0x100038, [(154, 0x100)], .writeOnly, 0x0, 0x0, 0x0, 0x0, .any, false, false, false⟩,
  -- SPN_SET_TURNS (R63)
  ⟨0x10003C, [(154, 0x100)], .writeOnly, 0x0, 0x0, 0x0, 0x0, .any, false, false, false⟩,
  -- SPN_CMP_VAL (R63)
  ⟨0x100040, [(154, 0x100), (4, 0x8)], .plain, 0x0, 0xFFFFFFFF, 0x0, 0x0, .any, false, false, true⟩,
  -- SPN_CMP_CTL (R67)
  ⟨0x100044, [(154, 0x100), (4, 0x8)], .plain, 0x0, 0xFB000000, 0x0, 0x0, .any, false, false, true⟩,
  -- SPN_CAP_PHASE (R63)
  ⟨0x100060, [(154, 0x100), (2, 0x8)], .latchLow, 0x0, 0x0, 0x0, 0x0, .any, false, false, false⟩,
  -- SPN_CAP_TURNS (R63)
  ⟨0x100064, [(154, 0x100), (2, 0x8)], .latchHigh, 0x0, 0x0, 0x0, 0x0, .any, false, false, false⟩,
  -- SPN_CAP_CTL (R68)
  ⟨0x100070, [(154, 0x100)], .plain, 0x0, 0xFFF0FFF, 0x0, 0x0, .any, false, false, true⟩,
  -- SPN_IRQ_EN (R63)
  ⟨0x100074, [(154, 0x100)], .plain, 0x0, 0xFFFC, 0x0, 0x0, .any, false, false, true⟩,
  -- SPN_SNAP_PHASE (R63)
  ⟨0x100078, [(154, 0x100)], .plain, 0x0, 0x0, 0x0, 0x0, .any, false, false, false⟩,
  -- SPN_SNAP_TURNS (R63)
  ⟨0x10007C, [(154, 0x100)], .plain, 0x0, 0x0, 0x0, 0x0, .any, false, false, false⟩,
  -- SPN_K80 (R63)
  ⟨0x100080, [(154, 0x100)], .byKind, 0x0, 0x0, 0x0, 0x0, .any, false, false, false⟩]

/-- Register families of the block at 0x80100000, part 2. -/
def regRowsOf1_2 : List RegRow := [
  -- SPN_K84 (R63)
  ⟨0x100084, [(154, 0x100)], .byKind, 0x0, 0x0, 0x0, 0x0, .any, false, false, false⟩,
  -- SPN_K88 (R63)
  ⟨0x100088, [(154, 0x100)], .byKind, 0x0, 0x0, 0x0, 0x0, .any, false, false, false⟩]

/-- The register families of the block at 0x80100000. -/
def regRowsOf1 : List RegRow := regRowsOf1_1 ++ regRowsOf1_2

/-- Register families of the block at 0x80200000, part 1. -/
def regRowsOf2_1 : List RegRow := [
  -- PLATE_CTRL (R101)
  ⟨0x200000, [], .plain, 0x0, 0x80000000, 0x0, 0x40000000, .any, false, false, false⟩,
  -- PLATE_STATUS (R100)
  ⟨0x200004, [], .plain, 0x0, 0x0, 0x7, 0x0, .any, false, false, false⟩,
  -- PLATE_STORE_BASE (R100)
  ⟨0x200008, [], .plain, 0x0, 0x3FFF, 0x0, 0x0, .any, false, false, false⟩,
  -- PLATE_MIRROR_BASE (R100)
  ⟨0x20000C, [], .plain, 0x0, 0x3FFF, 0x0, 0x0, .any, false, false, false⟩,
  -- PLATE_FREE (R100)
  ⟨0x200010, [], .plain, 0x200000, 0x0, 0x0, 0x0, .any, false, false, false⟩,
  -- PLATE_NEAR_FREE (R100)
  ⟨0x200014, [], .plain, 0x40000, 0x0, 0x0, 0x0, .any, false, false, false⟩,
  -- PLATE_CHAIN_POOL (R100)
  ⟨0x200018, [], .plain, 0x1000, 0x7FFFF, 0x0, 0x0, .any, false, false, true⟩,
  -- PLATE_MARGIN (R100)
  ⟨0x20001C, [], .plain, 0x7D0, 0xFFFFFFFF, 0x0, 0x0, .any, false, false, true⟩,
  -- PLATE_SLIP_LIMIT (R100)
  ⟨0x200020, [], .plain, 0x5DC, 0xFFFFFFFF, 0x0, 0x0, .any, false, false, true⟩,
  -- PLATE_SLIP_MAX (R100)
  ⟨0x200024, [], .readClear, 0x0, 0x0, 0x0, 0x0, .any, false, false, false⟩,
  -- PLATE_RETQ (R100)
  ⟨0x200028, [], .plain, 0x0, 0x0, 0x0, 0x0, .any, false, false, false⟩,
  -- PLATE_FIRES_LO (R100)
  ⟨0x200030, [], .latchLow, 0x0, 0x0, 0x0, 0x0, .any, false, false, false⟩,
  -- PLATE_FIRES_HI (R100)
  ⟨0x200034, [], .latchHigh, 0x0, 0x0, 0x0, 0x0, .any, false, false, false⟩,
  -- PLATE_IRQ_EN (R100)
  ⟨0x200038, [], .plain, 0x0, 0x7, 0x0, 0x0, .any, false, false, true⟩,
  -- PLATE_STG_W (R88)
  ⟨0x200100, [(4, 0x4)], .plain, 0x0, 0xFFFFFFFF, 0x0, 0x0, .any, true, false, true⟩,
  -- PLATE_STG_HOLE (R88)
  ⟨0x200110, [], .plain, 0x0, 0xFFFFF, 0x0, 0x0, .any, true, false, true⟩,
  -- PLATE_STG_HANDLE (R88)
  ⟨0x200114, [], .plain, 0x0, 0xFFFFFFFF, 0x0, 0x0, .any, true, false, true⟩,
  -- PLATE_INSERT (R86)
  ⟨0x200120, [], .acquire, 0x0, 0x0, 0x0, 0x0, .any, false, false, false⟩,
  -- PLATE_REMOVE (R86)
  ⟨0x200124, [], .acquire, 0x0, 0x0, 0x0, 0x0, .any, false, false, false⟩,
  -- PLATE_ALLOC (R86)
  ⟨0x200128, [], .acquire, 0x0, 0x0, 0x0, 0x0, .any, false, false, false⟩,
  -- PLATE_WRITE (R86)
  ⟨0x20012C, [], .acquire, 0x0, 0x0, 0x0, 0x0, .any, false, false, false⟩,
  -- PLATE_RELEASE (R86)
  ⟨0x200130, [], .acquire, 0x0, 0x0, 0x0, 0x0, .any, false, false, false⟩,
  -- PLATE_FETCH (R86)
  ⟨0x200134, [], .acquire, 0x0, 0x0, 0x0, 0x0, .any, false, false, false⟩,
  -- PLATE_PROBE (R86)
  ⟨0x200138, [], .acquire, 0x0, 0x0, 0x0, 0x0, .any, false, false, false⟩,
  -- PLATE_RD_W (R86)
  ⟨0x200140, [(4, 0x4)], .plain, 0x0, 0x0, 0x0, 0x0, .any, true, false, false⟩]

/-- Register families of the block at 0x80200000, part 2. -/
def regRowsOf2_2 : List RegRow := [
  -- PLATE_PART_MAP (R102)
  ⟨0x201000, [(154, 0x20)], .plain, 0x0, 0x0, 0x0, 0x0, .any, false, false, false⟩,
  -- PLATE_PART_RES (R103)
  ⟨0x201004, [(154, 0x20)], .plain, 0x0, 0x0, 0x0, 0x0, .any, false, false, false⟩,
  -- PLATE_PART_NEAR (R100)
  ⟨0x201008, [(154, 0x20)], .plain, 0x0, 0x0, 0x0, 0x0, .any, false, false, false⟩,
  -- PLATE_PART_COUNT (R100)
  ⟨0x20100C, [(154, 0x20)], .plain, 0x0, 0x0, 0x0, 0x0, .any, false, false, false⟩,
  -- PLATE_PART_CTL (R104)
  ⟨0x201010, [(154, 0x20)], .plain, 0x0, 0xC0000000, 0x0, 0x0, .any, false, false, false⟩,
  -- PLATE_PART_STATUS (R105)
  ⟨0x201014, [(154, 0x20)], .plain, 0x0, 0x0, 0x1FF, 0x0, .any, false, false, false⟩,
  -- PLATE_PART_LATE (R100)
  ⟨0x201018, [(154, 0x20)], .readClear, 0x0, 0x0, 0x0, 0x0, .any, false, false, false⟩,
  -- PLATE_PART_IRQ_EN (R100)
  ⟨0x20101C, [(154, 0x20)], .plain, 0x0, 0x1FF, 0x0, 0x0, .any, false, false, true⟩]

/-- The register families of the block at 0x80200000. -/
def regRowsOf2 : List RegRow := regRowsOf2_1 ++ regRowsOf2_2

/-- Register families of the block at 0x80300000, part 1. -/
def regRowsOf3_1 : List RegRow := [
  -- ADC_CTL (R124)
  ⟨0x300000, [(6, 0x10000), (4, 0x400)], .plain, 0x0, 0xBC00003F, 0x0, 0x0, .any, false, false, true⟩,
  -- ADC_STATUS (R122)
  ⟨0x300004, [(6, 0x10000), (4, 0x400)], .plain, 0x0, 0x0, 0x0, 0x0, .any, false, false, false⟩,
  -- ADC_SWTRIG (R122)
  ⟨0x300008, [(6, 0x10000), (4, 0x400)], .writeOnly, 0x0, 0x0, 0x0, 0x0, .any, false, false, false⟩,
  -- ADC_SEQ (R123)
  ⟨0x300100, [(6, 0x10000), (4, 0x400), (64, 0x4)], .plain, 0x80D00000, 0xEFF03F0F, 0x0, 0x0, .any, false, false, true⟩,
  -- CH_VALUE (R125)
  ⟨0x301000, [(6, 0x10000), (64, 0x10)], .latchLow, 0x0, 0x0, 0x0, 0x0, .any, false, false, false⟩,
  -- CH_TIME (R122)
  ⟨0x301004, [(6, 0x10000), (64, 0x10)], .latchHigh, 0x0, 0x0, 0x0, 0x0, .any, false, false, false⟩,
  -- CH_WIN (R122)
  ⟨0x301008, [(6, 0x10000), (64, 0x10)], .plain, 0xFFFF0000, 0xFFFFFFFF, 0x0, 0x0, .any, false, false, true⟩,
  -- CH_CTL (R126)
  ⟨0x30100C, [(6, 0x10000), (64, 0x10)], .plain, 0x800, 0xFF00FFFF, 0x0, 0x0, .any, false, false, true⟩,
  -- CMP_CTL (R127)
  ⟨0x302000, [(6, 0x10000), (12, 0x20)], .plain, 0x0, 0xFFFEFF00, 0x0, 0x0, .any, false, false, true⟩,
  -- CMP_DAC (R122)
  ⟨0x302004, [(6, 0x10000), (12, 0x20)], .plain, 0x0, 0xFFF, 0x0, 0x0, .any, false, false, true⟩,
  -- CMP_RAMP (R122)
  ⟨0x302008, [(6, 0x10000), (12, 0x20)], .plain, 0x0, 0x8000FFFF, 0x0, 0x0, .any, false, false, true⟩,
  -- CMP_BLANK (R122)
  ⟨0x30200C, [(6, 0x10000), (12, 0x20)], .plain, 0x0, 0xBF0003FF, 0x0, 0x0, .any, false, false, true⟩,
  -- CMP_STATUS (R122)
  ⟨0x302010, [(6, 0x10000), (12, 0x20)], .plain, 0x0, 0x0, 0x2, 0x0, .any, false, false, false⟩,
  -- SD_CTL (R128)
  ⟨0x303000, [(6, 0x10000), (8, 0x20)], .plain, 0x0, 0xFFFFBF00, 0x0, 0x0, .any, false, false, true⟩,
  -- SD_CLK (R122)
  ⟨0x303004, [(6, 0x10000), (8, 0x20)], .plain, 0x402003C, 0xFFFF01FF, 0x0, 0x0, .any, false, false, true⟩,
  -- SD_SYNC (R122)
  ⟨0x303008, [(6, 0x10000), (8, 0x20)], .writeOnly, 0x0, 0x0, 0x0, 0x0, .any, false, false, false⟩,
  -- SD_STATUS (R122)
  ⟨0x30300C, [(6, 0x10000), (8, 0x20)], .plain, 0x0, 0x0, 0x6, 0x0, .any, false, false, false⟩,
  -- AFE_STATUS (R129)
  ⟨0x304000, [(6, 0x10000)], .plain, 0x0, 0x0, 0x1FF, 0x0, .any, false, false, false⟩,
  -- AFE_IRQ_EN (R122)
  ⟨0x304004, [(6, 0x10000)], .plain, 0x0, 0x1FF, 0x0, 0x0, .any, false, false, true⟩,
  -- AFE_RANGE_MAP (R122)
  ⟨0x304008, [(6, 0x10000), (2, 0x4)], .plain, 0x0, 0x0, 0x0, 0x0, .any, false, false, false⟩,
  -- AFE_STALE_MAP (R122)
  ⟨0x304010, [(6, 0x10000), (2, 0x4)], .plain, 0x0, 0x0, 0x0, 0x0, .any, false, false, false⟩,
  -- AFE_TRIG_LOST (R122)
  ⟨0x304018, [(6, 0x10000)], .readClear, 0x0, 0x0, 0x0, 0x0, .any, false, false, false⟩,
  -- AFE_CAL_CTL (R130)
  ⟨0x304020, [(6, 0x10000)], .plain, 0x800061A8, 0xB00FFFFF, 0x0, 0x0, .tailstockWrites, false, false, true⟩,
  -- AFE_CAL_STATUS (R122)
  ⟨0x304024, [(6, 0x10000)], .plain, 0x30000000, 0x0, 0x0, 0x0, .any, false, false, false⟩,
  -- AFE_QUEUE (R122)
  ⟨0x304030, [(6, 0x10000)], .acquire, 0x0, 0x0, 0x0, 0x0, .any, false, false, false⟩]

/-- Register families of the block at 0x80300000, part 2. -/
def regRowsOf3_2 : List RegRow := [
  -- AFE_QUEUE_FILL (R122)
  ⟨0x304034, [(6, 0x10000)], .plain, 0x0, 0x0, 0x0, 0x0, .any, false, false, false⟩]

/-- The register families of the block at 0x80300000. -/
def regRowsOf3 : List RegRow := regRowsOf3_1 ++ regRowsOf3_2

/-- Register families of the block at 0x80400000, part 1. -/
def regRowsOf4_1 : List RegRow := [
  -- LOOP_CTL (R153)
  ⟨0x400000, [(384, 0x800)], .plain, 0x2000000, 0xFFEFFC00, 0x0, 0x0, .any, false, false, true⟩,
  -- LOOP_STATUS (R157)
  ⟨0x400004, [(384, 0x800)], .plain, 0x0, 0x0, 0x3FF, 0x0, .any, false, false, false⟩,
  -- LOOP_IRQ_EN (R152)
  ⟨0x400008, [(384, 0x800)], .plain, 0x0, 0x3FF, 0x0, 0x0, .any, false, false, true⟩,
  -- LOOP_BANK (R152)
  ⟨0x40000C, [(384, 0x800)], .plain, 0x0, 0x0, 0x0, 0x0, .any, false, false, false⟩,
  -- LOOP_IN (R154)
  ⟨0x400010, [(384, 0x800), (4, 0x4)], .plain, 0x0, 0xE00301FF, 0x0, 0x0, .any, false, false, true⟩,
  -- LOOP_OUT_MAP (R156)
  ⟨0x400020, [(384, 0x800), (4, 0x4)], .plain, 0x0, 0xE000007F, 0x0, 0x0, .any, false, false, true⟩,
  -- LOOP_START (R155)
  ⟨0x400030, [(384, 0x800)], .plain, 0x0, 0xE3F003FF, 0x0, 0x0, .any, false, false, true⟩,
  -- LOOP_REF_SRC (R152)
  ⟨0x400034, [(384, 0x800)], .plain, 0x0, 0xC00301FF, 0x0, 0x0, .any, false, false, true⟩,
  -- LOOP_GUARD (R152)
  ⟨0x400038, [(384, 0x800)], .plain, 0x8007530, 0xFFFFFFFF, 0x0, 0x0, .any, false, false, true⟩,
  -- LOOP_ANGLE (R152)
  ⟨0x40003C, [(384, 0x800)], .plain, 0x1000000, 0x8F0000FF, 0x0, 0x0, .any, false, false, true⟩,
  -- LOOP_REF (R152)
  ⟨0x400040, [(384, 0x800), (2, 0x4)], .plain, 0x0, 0xFFFFFFFF, 0x0, 0x0, .any, false, false, true⟩,
  -- LOOP_OUTV (R152)
  ⟨0x400050, [(384, 0x800), (4, 0x4)], .plain, 0x0, 0x0, 0x0, 0x0, .any, false, false, false⟩,
  -- LOOP_PENDING_DUTY (R152)
  ⟨0x400060, [(384, 0x800), (4, 0x4)], .plain, 0x0, 0x0, 0x0, 0x0, .any, false, false, false⟩,
  -- LOOP_UPDATES (R152)
  ⟨0x400070, [(384, 0x800)], .plain, 0x0, 0x0, 0x0, 0x0, .any, false, false, false⟩,
  -- LOOP_SPEC_CONFIRM (R152)
  ⟨0x400074, [(384, 0x800)], .readClear, 0x0, 0x0, 0x0, 0x0, .any, false, false, false⟩,
  -- LOOP_SPEC_RECOMPUTE (R152)
  ⟨0x400078, [(384, 0x800)], .readClear, 0x0, 0x0, 0x0, 0x0, .any, false, false, false⟩,
  -- LOOP_MISSED_HORIZON (R152)
  ⟨0x40007C, [(384, 0x800)], .readClear, 0x0, 0x0, 0x0, 0x0, .any, false, false, false⟩,
  -- LOOP_FAULTS (R152)
  ⟨0x400080, [(384, 0x800)], .readClear, 0x0, 0x0, 0x0, 0x0, .any, false, false, false⟩,
  -- LOOP_OBS_CTL (R158)
  ⟨0x400090, [(384, 0x800)], .plain, 0x0, 0xF0FF0000, 0x0, 0x0, .any, false, false, true⟩,
  -- LOOP_OBS_PHASE (R152)
  ⟨0x400094, [(384, 0x800)], .plain, 0x0, 0x0, 0x0, 0x0, .any, false, false, false⟩,
  -- LOOP_OBS_VEL (R152)
  ⟨0x400098, [(384, 0x800)], .plain, 0x0, 0x0, 0x0, 0x0, .any, false, false, false⟩,
  -- LOOP_OBS_FREQ (R152)
  ⟨0x40009C, [(384, 0x800)], .plain, 0x0, 0x0, 0x0, 0x0, .any, false, false, false⟩,
  -- LOOP_OBS_ROCOF (R152)
  ⟨0x4000A0, [(384, 0x800)], .plain, 0x0, 0x0, 0x0, 0x0, .any, false, false, false⟩,
  -- LOOP_STATE (R152)
  ⟨0x400100, [(384, 0x800), (64, 0x4)], .plain, 0x0, 0xFFFFFFFF, 0x0, 0x0, .any, false, false, false⟩,
  -- LOOP_BANK_A (R152)
  ⟨0x400200, [(384, 0x800), (192, 0x4)], .plain, 0x0, 0xFFFFFFFF, 0x0, 0x0, .any, false, false, true⟩]

/-- Register families of the block at 0x80400000, part 2. -/
def regRowsOf4_2 : List RegRow := [
  -- LOOP_BANK_B (R152)
  ⟨0x400500, [(384, 0x800), (192, 0x4)], .plain, 0x0, 0xFFFFFFFF, 0x0, 0x0, .any, false, false, true⟩,
  -- LE_STATUS (R152)
  ⟨0x4C0000, [(48, 0x100)], .plain, 0x0, 0x0, 0x0, 0x0, .any, false, false, false⟩,
  -- LE_WAITS (R152)
  ⟨0x4C0004, [(48, 0x100)], .readClear, 0x0, 0x0, 0x0, 0x0, .any, false, false, false⟩]

/-- The register families of the block at 0x80400000. -/
def regRowsOf4 : List RegRow := regRowsOf4_1 ++ regRowsOf4_2

/-- Register families of the block at 0x80500000, part 1. -/
def regRowsOf5_1 : List RegRow := [
  -- PWM_GRP_CTL (R179)
  ⟨0x500000, [(24, 0x1000)], .plain, 0x0, 0xF1FFFFFF, 0x0, 0x0, .any, false, false, false⟩,
  -- PWM_GRP_STATUS (R180)
  ⟨0x500004, [(24, 0x1000)], .plain, 0x0, 0x0, 0xFE, 0x0, .any, false, false, false⟩,
  -- PWM_PER (R178)
  ⟨0x500008, [(24, 0x1000)], .plain, 0x2EE00, 0xFFFFFF, 0x0, 0x0, .any, false, false, true⟩,
  -- PWM_SYNC (R181)
  ⟨0x50000C, [(24, 0x1000)], .plain, 0x0, 0xC00003FF, 0x0, 0x0, .any, false, false, true⟩,
  -- PWM_SYNC_PHASE (R178)
  ⟨0x500010, [(24, 0x1000)], .plain, 0x0, 0xFFFFFF, 0x0, 0x0, .any, false, false, true⟩,
  -- PWM_TZ_MASK (R178)
  ⟨0x500014, [(24, 0x1000)], .plain, 0x0, 0xFF, 0x0, 0x0, .any, false, false, true⟩,
  -- PWM_IRQ_EN (R178)
  ⟨0x500018, [(24, 0x1000)], .plain, 0x0, 0xFE, 0x0, 0x0, .any, false, false, true⟩,
  -- PWM_POS (R178)
  ⟨0x50001C, [(24, 0x1000)], .plain, 0x0, 0x0, 0x0, 0x0, .any, false, false, false⟩,
  -- PWM_DT_MIN (R178)
  ⟨0x500020, [(24, 0x1000)], .plain, 0x0, 0x1FFFF, 0x0, 0x0, .tailstockWrites, false, false, false⟩,
  -- PWM_SAFE (R178)
  ⟨0x500024, [(24, 0x1000)], .plain, 0x0, 0xFFFF, 0x0, 0x0, .tailstockWrites, false, true, false⟩,
  -- PWM_ARM (R183)
  ⟨0x500028, [(24, 0x1000)], .writeOnly, 0x0, 0x0, 0x0, 0x0, .tailstockWrites, false, false, false⟩,
  -- PWM_ARM_REQ (R178)
  ⟨0x50002C, [(24, 0x1000)], .writeOnly, 0x0, 0x0, 0x0, 0x0, .any, false, false, false⟩,
  -- PWM_BURST (R178)
  ⟨0x500030, [(24, 0x1000)], .plain, 0x0, 0xFFFFFFFF, 0x0, 0x0, .any, false, false, true⟩,
  -- PWM_PAIR_CTL (R182)
  ⟨0x500100, [(24, 0x1000), (4, 0x80)], .plain, 0x40000000, 0xFC0F0000, 0x0, 0x0, .any, false, false, true⟩,
  -- PWM_CMPA (R178)
  ⟨0x500104, [(24, 0x1000), (4, 0x80)], .plain, 0x0, 0xFFFFFF, 0x0, 0x0, .any, false, false, true⟩,
  -- PWM_CMPB (R178)
  ⟨0x500108, [(24, 0x1000), (4, 0x80)], .plain, 0x0, 0xFFFFFF, 0x0, 0x0, .any, false, false, true⟩,
  -- PWM_CMPA_ACT (R178)
  ⟨0x50010C, [(24, 0x1000), (4, 0x80)], .plain, 0x0, 0x0, 0x0, 0x0, .any, false, false, false⟩,
  -- PWM_CMPB_ACT (R178)
  ⟨0x500110, [(24, 0x1000), (4, 0x80)], .plain, 0x0, 0x0, 0x0, 0x0, .any, false, false, false⟩,
  -- PWM_SHIFT (R178)
  ⟨0x500114, [(24, 0x1000), (4, 0x80)], .plain, 0x0, 0xFFFFFF, 0x0, 0x0, .any, false, false, true⟩,
  -- PWM_DT_RISE (R178)
  ⟨0x500118, [(24, 0x1000), (4, 0x80)], .plain, 0x0, 0x1FFFF, 0x0, 0x0, .any, false, false, true⟩,
  -- PWM_DT_FALL (R178)
  ⟨0x50011C, [(24, 0x1000), (4, 0x80)], .plain, 0x0, 0x1FFFF, 0x0, 0x0, .any, false, false, true⟩,
  -- PWM_TRIP_ACT (R178)
  ⟨0x500120, [(24, 0x1000), (4, 0x80)], .plain, 0x0, 0xF, 0x0, 0x0, .any, false, false, true⟩,
  -- PWM_DTAB_IDX (R178)
  ⟨0x500124, [(24, 0x1000), (4, 0x80)], .plain, 0x0, 0x0, 0x0, 0x0, .any, false, false, false⟩,
  -- PWM_DTAB (R178)
  ⟨0x500140, [(24, 0x1000), (4, 0x80), (16, 0x4)], .plain, 0x0, 0xC0FFFFFF, 0x0, 0x0, .any, false, false, true⟩,
  -- TZ_CTL (R184)
  ⟨0x518000, [(48, 0x20)], .plain, 0x0, 0xFFC00000, 0x0, 0x0, .any, false, false, true⟩]

/-- Register families of the block at 0x80500000, part 2. -/
def regRowsOf5_2 : List RegRow := [
  -- TZ_STATUS (R185)
  ⟨0x518004, [(48, 0x20)], .plain, 0x0, 0x0, 0xF, 0x0, .any, false, false, false⟩,
  -- TZ_FORCE (R178)
  ⟨0x518008, [(48, 0x20)], .writeOnly, 0x0, 0x0, 0x0, 0x0, .any, false, false, false⟩,
  -- PWM_GTRIP (R178)
  ⟨0x51C000, [], .plain, 0x0, 0x0, 0x0, 0x0, .tailstockWrites, false, false, false⟩]

/-- The register families of the block at 0x80500000. -/
def regRowsOf5 : List RegRow := regRowsOf5_1 ++ regRowsOf5_2

/-- The register families of the block at 0x80600000. -/
def regRowsOf6 : List RegRow := [
  -- PL_POOL_USED (R201)
  ⟨0x600000, [], .plain, 0x0, 0x0, 0x0, 0x0, .any, false, false, false⟩,
  -- PL_ENGINE_LIMIT (R201)
  ⟨0x600010, [], .plain, 0x16E36, 0xFFFFFFFF, 0x0, 0x0, .any, false, false, true⟩,
  -- PL_L2_PIN_MAX (R201)
  ⟨0x600014, [], .plain, 0x20, 0x7F, 0x0, 0x0, .any, false, false, true⟩,
  -- PL_BANK_POOL (R201)
  ⟨0x600018, [], .plain, 0x7FFFFFFF, 0xFFFFFFFF, 0x0, 0x0, .tailstockWrites, false, false, true⟩,
  -- PL_DRAM_SIZE (R201)
  ⟨0x60001C, [], .plain, 0x0, 0x7FFFFF, 0x0, 0x0, .any, false, false, true⟩,
  -- PL_DRAM_BASE_LO (R201)
  ⟨0x600020, [], .plain, 0x0, 0xFFFFF000, 0x0, 0x0, .any, false, false, true⟩,
  -- PL_DRAM_BASE_HI (R201)
  ⟨0x600024, [], .plain, 0x0, 0xFF, 0x0, 0x0, .any, false, false, true⟩,
  -- PL_TCM_POOL (R201)
  ⟨0x600040, [(16, 0x4)], .plain, 0x0, 0x7F, 0x0, 0x0, .any, false, false, true⟩,
  -- PL_DECL (R201)
  ⟨0x600100, [(16, 0x4)], .plain, 0x0, 0xFFFFFFFF, 0x0, 0x0, .any, true, false, true⟩,
  -- PL_SUBMIT (R201)
  ⟨0x600140, [], .acquire, 0x0, 0x0, 0x0, 0x0, .any, false, false, false⟩,
  -- PL_COMMIT (R201)
  ⟨0x600144, [], .acquire, 0x0, 0x0, 0x0, 0x0, .any, false, false, false⟩,
  -- PL_DISCARD (R201)
  ⟨0x600148, [], .writeOnly, 0x0, 0x0, 0x0, 0x0, .any, false, false, false⟩,
  -- PL_WITHDRAW (R201)
  ⟨0x60014C, [], .acquire, 0x0, 0x0, 0x0, 0x0, .any, false, false, false⟩,
  -- PL_REPLACE (R201)
  ⟨0x600150, [], .acquire, 0x0, 0x0, 0x0, 0x0, .any, false, false, false⟩,
  -- PL_QUERY (R201)
  ⟨0x600154, [], .acquire, 0x0, 0x0, 0x0, 0x0, .any, false, false, false⟩,
  -- PL_HANDLE (R201)
  ⟨0x600158, [], .plain, 0x0, 0x7FFFF, 0x0, 0x0, .any, true, false, true⟩,
  -- PL_TARGET (R201)
  ⟨0x60015C, [], .plain, 0x80000000, 0x8000003F, 0x0, 0x0, .any, true, false, true⟩,
  -- PL_STATUS (R202)
  ⟨0x600160, [], .plain, 0x0, 0x0, 0x3, 0x0, .any, true, false, false⟩,
  -- PL_RESULT (R201)
  ⟨0x600164, [], .plain, 0x0, 0x0, 0x0, 0x0, .any, true, false, false⟩,
  -- PL_IRQ_EN (R201)
  ⟨0x600168, [], .plain, 0x0, 0x1, 0x0, 0x0, .any, true, false, true⟩,
  -- PL_RES (R203)
  ⟨0x600180, [(8, 0x4)], .plain, 0x0, 0x0, 0x0, 0x0, .any, true, false, false⟩]

/-- The register families of the block at 0x80700000. -/
def regRowsOf7 : List RegRow := [
  -- AIC_SRC (R275)
  ⟨0x700000, [(4096, 0x4)], .plain, 0x0, 0x800FFF0F, 0x0, 0x0, .any, false, false, false⟩,
  -- AIC_THRESH (R274)
  ⟨0x708000, [(16, 0x200)], .plain, 0x0, 0xF, 0x0, 0x0, .any, false, false, true⟩,
  -- AIC_CLAIM (R274)
  ⟨0x708004, [(16, 0x200)], .acquire, 0x0, 0x0, 0x0, 0x0, .any, false, false, false⟩,
  -- AIC_EOI (R274)
  ⟨0x708008, [(16, 0x200)], .writeOnly, 0x0, 0x0, 0x0, 0x0, .any, false, false, false⟩,
  -- AIC_ACTIVE (R274)
  ⟨0x70800C, [(16, 0x200)], .plain, 0x0, 0x0, 0x0, 0x0, .any, false, false, false⟩,
  -- AIC_LATCHED (R274)
  ⟨0x708010, [(16, 0x200)], .plain, 0x3FFF, 0x0, 0x0, 0x0, .any, false, false, false⟩,
  -- AIC_PRIV (R274)
  ⟨0x708100, [(16, 0x200), (64, 0x4)], .plain, 0x0, 0x800FFF00, 0x0, 0x0, .any, false, false, false⟩,
  -- AIC_GRP (R274)
  ⟨0x70A000, [(128, 0x4)], .plain, 0x0, 0xFFFF, 0x0, 0x0, .any, false, false, true⟩,
  -- AIC_GRP_STAT (R274)
  ⟨0x70A200, [(128, 0x4)], .plain, 0x0, 0x0, 0x0, 0x0, .any, false, false, false⟩,
  -- AIC_DOORBELL (R274)
  ⟨0x70F000, [], .writeOnly, 0x0, 0x0, 0x0, 0x0, .any, false, false, false⟩,
  -- AIC_PDOORBELL (R274)
  ⟨0x70F004, [], .writeOnly, 0x0, 0x0, 0x0, 0x0, .any, false, false, false⟩]

/-- Register families of the block at 0x80800000, part 1. -/
def regRowsOf8_1 : List RegRow := [
  -- DMA_CH_CTL (R301)
  ⟨0x800000, [(64, 0x40)], .plain, 0x0, 0xB0000000, 0x0, 0x0, .any, false, false, false⟩,
  -- DMA_CH_STATUS (R302)
  ⟨0x800004, [(64, 0x40)], .plain, 0x0, 0x0, 0xFC, 0x0, .any, false, false, false⟩,
  -- DMA_CH_IRQ_EN (R301)
  ⟨0x800008, [(64, 0x40)], .plain, 0x0, 0xFF, 0x0, 0x0, .any, false, false, true⟩,
  -- DMA_CH_KICK (R301)
  ⟨0x80000C, [(64, 0x40)], .writeOnly, 0x0, 0x0, 0x0, 0x0, .any, false, false, false⟩,
  -- DMA_CH_DESC_LO (R301)
  ⟨0x800010, [(64, 0x40)], .plain, 0x0, 0xFFFFFFE0, 0x0, 0x0, .any, false, false, false⟩,
  -- DMA_CH_DESC_HI (R301)
  ⟨0x800014, [(64, 0x40)], .plain, 0x0, 0xFF, 0x0, 0x0, .any, false, false, false⟩,
  -- DMA_CH_PACE (R301)
  ⟨0x800018, [(64, 0x40)], .plain, 0x0, 0x3F7F7F7F, 0x0, 0x0, .any, false, false, true⟩,
  -- DMA_CH_LAT_TOL (R301)
  ⟨0x80001C, [(64, 0x40)], .plain, 0x0, 0xFFFFFFFF, 0x0, 0x0, .any, false, false, true⟩,
  -- DMA_CH_SRC_LO (R301)
  ⟨0x800020, [(64, 0x40)], .plain, 0x0, 0x0, 0x0, 0x0, .any, false, false, false⟩,
  -- DMA_CH_SRC_HI (R301)
  ⟨0x800024, [(64, 0x40)], .plain, 0x0, 0x0, 0x0, 0x0, .any, false, false, false⟩,
  -- DMA_CH_DST_LO (R301)
  ⟨0x800028, [(64, 0x40)], .plain, 0x0, 0x0, 0x0, 0x0, .any, false, false, false⟩,
  -- DMA_CH_DST_HI (R301)
  ⟨0x80002C, [(64, 0x40)], .plain, 0x0, 0x0, 0x0, 0x0, .any, false, false, false⟩,
  -- DMA_CH_REMAIN (R301)
  ⟨0x800030, [(64, 0x40)], .plain, 0x0, 0x0, 0x0, 0x0, .any, false, false, false⟩,
  -- DMA_CH_FADDR_LO (R301)
  ⟨0x800034, [(64, 0x40)], .plain, 0x0, 0x0, 0x0, 0x0, .any, false, false, false⟩,
  -- DMA_CH_FADDR_HI (R301)
  ⟨0x800038, [(64, 0x40)], .plain, 0x0, 0x0, 0x0, 0x0, .any, false, false, false⟩,
  -- DMA_ENG_CTL (R301)
  ⟨0x802000, [], .plain, 0x80000000, 0x80000000, 0x0, 0x0, .any, false, false, false⟩,
  -- DMA_ENG_STATUS (R301)
  ⟨0x802004, [], .plain, 0x0, 0x0, 0x3, 0x0, .any, false, false, false⟩,
  -- DMA_ENG_ERR_LO (R301)
  ⟨0x802008, [], .plain, 0x0, 0x0, 0x0, 0x0, .any, false, false, false⟩,
  -- DMA_ENG_ERR_HI (R301)
  ⟨0x80200C, [], .plain, 0x0, 0x0, 0x0, 0x0, .any, false, false, false⟩,
  -- IOMMU_ST_CTL (R301)
  ⟨0x810000, [(256, 0x10)], .plain, 0x0, 0xC00000FF, 0x0, 0x0, .any, false, false, true⟩,
  -- IOMMU_ST_PTBASE (R301)
  ⟨0x810004, [(256, 0x10)], .plain, 0x0, 0x7FFFFFF, 0x0, 0x0, .any, false, false, true⟩,
  -- IOMMU_ST_FADDR (R301)
  ⟨0x810008, [(256, 0x10)], .plain, 0x0, 0x0, 0x0, 0x0, .any, false, false, false⟩,
  -- IOMMU_ST_FSTAT (R301)
  ⟨0x81000C, [(256, 0x10)], .plain, 0x0, 0x0, 0x80000301, 0x0, .any, false, false, false⟩,
  -- IOMMU_INV (R301)
  ⟨0x811000, [], .plain, 0x0, 0x0, 0x0, 0x0, .any, false, false, false⟩,
  -- IOMMU_INV_ADDR (R301)
  ⟨0x811004, [], .plain, 0x0, 0xFFFFFFFF, 0x0, 0x0, .any, false, false, true⟩]

/-- Register families of the block at 0x80800000, part 2. -/
def regRowsOf8_2 : List RegRow := [
  -- IOMMU_IRQ_EN (R301)
  ⟨0x811008, [], .plain, 0x0, 0x1, 0x0, 0x0, .any, false, false, true⟩]

/-- The register families of the block at 0x80800000. -/
def regRowsOf8 : List RegRow := regRowsOf8_1 ++ regRowsOf8_2

/-- Register families of the block at 0x80900000, part 1. -/
def regRowsOf9_1 : List RegRow := [
  -- CON_CTL (R325)
  ⟨0x900000, [(512, 0x100)], .plain, 0x0, 0xFC3FFF00, 0x0, 0x0, .any, false, false, true⟩,
  -- CON_SIZE (R324)
  ⟨0x900004, [(512, 0x100)], .plain, 0x0, 0x7FF07FF, 0x0, 0x0, .any, false, false, true⟩,
  -- CON_TOTAL (R324)
  ⟨0x900008, [(512, 0x100)], .plain, 0x0, 0xFFFFFFFF, 0x0, 0x0, .any, false, false, true⟩,
  -- CON_FRAME (R324)
  ⟨0x90000C, [(512, 0x100)], .plain, 0x0, 0xFFFFFFFF, 0x0, 0x0, .any, false, false, true⟩,
  -- CON_BACKDROP (R324)
  ⟨0x900010, [(512, 0x100)], .plain, 0xFF000000, 0xFFFFFFFF, 0x0, 0x0, .any, false, false, true⟩,
  -- CON_FALLBACK (R324)
  ⟨0x900014, [(512, 0x100)], .plain, 0xFFFF00FF, 0xFFFFFFFF, 0x0, 0x0, .any, false, false, true⟩,
  -- CON_INLAY_BASE (R324)
  ⟨0x900018, [(512, 0x100)], .plain, 0x0, 0xFFFFF800, 0x0, 0x0, .any, false, false, true⟩,
  -- CON_INLAY_CTL (R324)
  ⟨0x90001C, [(512, 0x100)], .plain, 0x0, 0x800001FF, 0x0, 0x0, .any, false, false, true⟩,
  -- CON_STREAM_CTL (R327)
  ⟨0x900020, [(512, 0x100)], .plain, 0x0, 0x1F0F, 0x0, 0x0, .any, false, false, true⟩,
  -- CON_KICK (R324)
  ⟨0x900024, [(512, 0x100)], .writeOnly, 0x0, 0x0, 0x0, 0x0, .any, false, false, false⟩,
  -- CON_STATUS (R328)
  ⟨0x900028, [(512, 0x100)], .plain, 0x0, 0x0, 0xFF, 0x0, .any, false, false, false⟩,
  -- CON_IRQ_EN (R324)
  ⟨0x90002C, [(512, 0x100)], .plain, 0x0, 0xFF, 0x0, 0x0, .any, false, false, true⟩,
  -- CON_FRAMES (R324)
  ⟨0x900030, [(512, 0x100)], .plain, 0x0, 0x0, 0x0, 0x0, .any, false, false, false⟩,
  -- CON_ERR (R324)
  ⟨0x900034, [(512, 0x100)], .readClear, 0x0, 0x0, 0x0, 0x0, .any, false, false, false⟩,
  -- CON_L_CTL (R326)
  ⟨0x900040, [(512, 0x100), (4, 0x10)], .plain, 0x0, 0xFFFFF9FF, 0x0, 0x0, .any, false, false, true⟩,
  -- CON_L_MAP (R324)
  ⟨0x900044, [(512, 0x100), (4, 0x10)], .plain, 0x0, 0xFFFFFFC0, 0x0, 0x0, .any, false, false, true⟩,
  -- CON_L_SCROLL (R324)
  ⟨0x900048, [(512, 0x100), (4, 0x10)], .plain, 0x0, 0xFFFFFFFF, 0x0, 0x0, .any, false, false, true⟩,
  -- CON_L_WIN (R324)
  ⟨0x90004C, [(512, 0x100), (4, 0x10)], .plain, 0x0, 0xFFF0FFF, 0x0, 0x0, .any, false, false, true⟩,
  -- CON_GLB_CTL (R324)
  ⟨0x930000, [], .plain, 0x0, 0x80000000, 0x0, 0x0, .any, false, false, true⟩,
  -- CON_GLB_STATUS (R324)
  ⟨0x930004, [], .plain, 0x0, 0x0, 0x7, 0x0, .any, false, false, false⟩,
  -- CON_GLB_IRQ_EN (R324)
  ⟨0x930008, [], .plain, 0x0, 0x7, 0x0, 0x0, .any, false, false, true⟩,
  -- CON_ATLAS_BASE (R324)
  ⟨0x93000C, [], .plain, 0x0, 0xFFFFFFC0, 0x0, 0x0, .any, false, false, true⟩,
  -- CON_ATLAS_SIZE (R324)
  ⟨0x930010, [], .plain, 0x0, 0x3FFFFC0, 0x0, 0x0, .any, false, false, true⟩,
  -- CON_PIPE_LOAD (R324)
  ⟨0x930014, [], .plain, 0x0, 0x0, 0x0, 0x0, .any, false, false, false⟩,
  -- CON_SQ_CTL (R324)
  ⟨0x930100, [(16, 0x10)], .plain, 0x0, 0x80000000, 0x0, 0x0, .any, false, false, false⟩]

/-- Register families of the block at 0x80900000, part 2. -/
def regRowsOf9_2 : List RegRow := [
  -- CON_SQ_DATA (R324)
  ⟨0x930104, [(16, 0x10)], .acquire, 0x0, 0x0, 0x0, 0x0, .any, false, false, false⟩,
  -- CON_SQ_FILL (R324)
  ⟨0x930108, [(16, 0x10)], .plain, 0x0, 0x0, 0x0, 0x0, .any, false, false, false⟩,
  -- CON_SQ_SEQ (R324)
  ⟨0x93010C, [(16, 0x10)], .plain, 0x0, 0x0, 0x0, 0x0, .any, false, false, false⟩,
  -- CON_PAL (R324)
  ⟨0x980000, [(512, 0x400), (256, 0x4)], .plain, 0x0, 0xFFFFFFFF, 0x0, 0x0, .any, false, false, true⟩]

/-- The register families of the block at 0x80900000. -/
def regRowsOf9 : List RegRow := regRowsOf9_1 ++ regRowsOf9_2

/-- Register families of the block at 0x80A00000, part 1. -/
def regRowsOf10_1 : List RegRow := [
  -- HD_CTL (R347)
  ⟨0xA00000, [(2, 0x1000)], .plain, 0x800000, 0xFEF00000, 0x0, 0x0, .any, false, false, true⟩,
  -- HD_STATUS (R348)
  ⟨0xA00004, [(2, 0x1000)], .plain, 0x0, 0x0, 0xFE, 0x0, .any, false, false, false⟩,
  -- HD_IRQ_EN (R346)
  ⟨0xA00008, [(2, 0x1000)], .plain, 0x0, 0xFE, 0x0, 0x0, .any, false, false, true⟩,
  -- HD_COMMIT (R346)
  ⟨0xA0000C, [(2, 0x1000)], .plain, 0x0, 0x0, 0x0, 0x0, .any, false, false, false⟩,
  -- HD_HTIME (R346)
  ⟨0xA00010, [(2, 0x1000)], .plain, 0x0, 0x1FFF0FFF, 0x0, 0x0, .any, false, false, true⟩,
  -- HD_HSYNC (R346)
  ⟨0xA00014, [(2, 0x1000)], .plain, 0x0, 0xFFF0FFF, 0x0, 0x0, .any, false, false, true⟩,
  -- HD_VTIME (R346)
  ⟨0xA00018, [(2, 0x1000)], .plain, 0x0, 0xFFF0FFF, 0x0, 0x0, .any, false, false, true⟩,
  -- HD_VSYNC (R346)
  ⟨0xA0001C, [(2, 0x1000)], .plain, 0x0, 0xFFF0FFF, 0x0, 0x0, .any, false, false, true⟩,
  -- HD_PCLK (R346)
  ⟨0xA00020, [(2, 0x1000)], .plain, 0x0, 0xFFFFF, 0x0, 0x0, .any, false, false, true⟩,
  -- HD_BG (R346)
  ⟨0xA00024, [(2, 0x1000)], .plain, 0x0, 0x3FFFFFFF, 0x0, 0x0, .any, false, false, true⟩,
  -- HD_FILL (R346)
  ⟨0xA00028, [(2, 0x1000)], .plain, 0x3FF003FF, 0x3FFFFFFF, 0x0, 0x0, .any, false, false, true⟩,
  -- HD_ORDER (R346)
  ⟨0xA0002C, [(2, 0x1000)], .plain, 0xFAC688, 0x80FFFFFF, 0x0, 0x0, .any, false, false, true⟩,
  -- HD_WB_ADDR (R346)
  ⟨0xA00030, [(2, 0x1000)], .plain, 0x0, 0xFFFFFFC0, 0x0, 0x0, .any, false, false, true⟩,
  -- HD_WB_PITCH (R346)
  ⟨0xA00034, [(2, 0x1000)], .plain, 0x0, 0x3FFC0, 0x0, 0x0, .any, false, false, true⟩,
  -- HD_POS (R346)
  ⟨0xA00038, [(2, 0x1000)], .plain, 0x0, 0x0, 0x0, 0x0, .any, false, false, false⟩,
  -- HD_LAT_TOL (R346)
  ⟨0xA0003C, [(2, 0x1000)], .plain, 0xFFFFFFFF, 0x0, 0x0, 0x0, .any, false, false, false⟩,
  -- HD_UNDERRUN (R346)
  ⟨0xA00040, [(2, 0x1000)], .readClear, 0x0, 0x0, 0x0, 0x0, .any, false, false, false⟩,
  -- HD_PSR_CTL (R346)
  ⟨0xA00044, [(2, 0x1000)], .plain, 0x2, 0xC00000FF, 0x0, 0x0, .any, false, false, true⟩,
  -- HD_SU (R346)
  ⟨0xA00048, [(2, 0x1000)], .plain, 0x0, 0x0, 0x0, 0x0, .any, false, false, false⟩,
  -- LY_CTL (R349)
  ⟨0xA00100, [(2, 0x1000), (8, 0x80)], .plain, 0x0, 0xF8FF01FF, 0x0, 0x0, .any, false, false, true⟩,
  -- LY_ADDR0 (R346)
  ⟨0xA00104, [(2, 0x1000), (8, 0x80)], .plain, 0x0, 0xFFFFFFC0, 0x0, 0x0, .any, false, false, true⟩,
  -- LY_ADDR1 (R346)
  ⟨0xA00108, [(2, 0x1000), (8, 0x80)], .plain, 0x0, 0xFFFFFFC0, 0x0, 0x0, .any, false, false, true⟩,
  -- LY_ADDR2 (R346)
  ⟨0xA0010C, [(2, 0x1000), (8, 0x80)], .plain, 0x0, 0xFFFFFFC0, 0x0, 0x0, .any, false, false, true⟩,
  -- LY_PITCH0 (R346)
  ⟨0xA00110, [(2, 0x1000), (8, 0x80)], .plain, 0x0, 0x3FFC0, 0x0, 0x0, .any, false, false, true⟩,
  -- LY_PITCH1 (R346)
  ⟨0xA00114, [(2, 0x1000), (8, 0x80)], .plain, 0x0, 0x3FFC0, 0x0, 0x0, .any, false, false, true⟩]

/-- Register families of the block at 0x80A00000, part 2. -/
def regRowsOf10_2 : List RegRow := [
  -- LY_SRC_POS (R346)
  ⟨0xA00118, [(2, 0x1000), (8, 0x80)], .plain, 0x0, 0xFFF0FFF, 0x0, 0x0, .any, false, false, true⟩,
  -- LY_SRC_SIZE (R346)
  ⟨0xA0011C, [(2, 0x1000), (8, 0x80)], .plain, 0x0, 0xFFF0FFF, 0x0, 0x0, .any, false, false, true⟩,
  -- LY_DST_POS (R346)
  ⟨0xA00120, [(2, 0x1000), (8, 0x80)], .plain, 0x0, 0xFFFFFFFF, 0x0, 0x0, .any, false, false, true⟩,
  -- LY_DST_SIZE (R346)
  ⟨0xA00124, [(2, 0x1000), (8, 0x80)], .plain, 0x0, 0xFFF0FFF, 0x0, 0x0, .any, false, false, true⟩,
  -- LY_ALPHA (R346)
  ⟨0xA00128, [(2, 0x1000), (8, 0x80)], .plain, 0x3FF, 0x3FF, 0x0, 0x0, .any, false, false, true⟩,
  -- DP_CTL (R350)
  ⟨0xA00800, [(2, 0x1000)], .plain, 0x0, 0xFFC00000, 0x0, 0x0, .any, false, false, true⟩,
  -- DP_STATUS (R346)
  ⟨0xA00804, [(2, 0x1000)], .plain, 0x0, 0x0, 0x3FF, 0x0, .any, false, false, false⟩,
  -- DP_IRQ_EN (R346)
  ⟨0xA00808, [(2, 0x1000)], .plain, 0x0, 0x3FF, 0x0, 0x0, .any, false, false, true⟩,
  -- DP_AUX_CMD (R346)
  ⟨0xA00810, [(2, 0x1000)], .writeOnly, 0x0, 0x0, 0x0, 0x0, .any, false, false, false⟩,
  -- DP_AUX_LEN (R346)
  ⟨0xA00814, [(2, 0x1000)], .plain, 0x0, 0xF, 0x0, 0x0, .any, false, false, true⟩,
  -- DP_AUX_DATA (R346)
  ⟨0xA00820, [(2, 0x1000), (4, 0x4)], .plain, 0x0, 0xFFFFFFFF, 0x0, 0x0, .any, false, false, true⟩,
  -- GAMMA_LY (R346)
  ⟨0xA10000, [(16, 0x2000), (2, 0x1000), (1024, 0x4)], .plain, 0x0, 0x3FFFFFFF, 0x0, 0x0, .any, false, false, true⟩,
  -- GAMMA_HD (R346)
  ⟨0xA30000, [(2, 0x2000), (2, 0x1000), (1024, 0x4)], .plain, 0x0, 0x3FFFFFFF, 0x0, 0x0, .any, false, false, true⟩,
  -- LY_PAL (R346)
  ⟨0xA40000, [(16, 0x400), (256, 0x4)], .plain, 0x0, 0xFFFFFFFF, 0x0, 0x0, .any, false, false, true⟩]

/-- The register families of the block at 0x80A00000. -/
def regRowsOf10 : List RegRow := regRowsOf10_1 ++ regRowsOf10_2

/-- The register families of the block at 0x80B00000. -/
def regRowsOf11 : List RegRow := [
  -- MV_CTL (R358)
  ⟨0xB00000, [], .plain, 0x0, 0x80000000, 0x0, 0x0, .any, false, false, false⟩,
  -- MV_STATUS (R359)
  ⟨0xB00004, [], .plain, 0x0, 0x0, 0x1F, 0x0, .any, false, false, false⟩,
  -- MV_IRQ_EN (R357)
  ⟨0xB00008, [], .plain, 0x0, 0x1F, 0x0, 0x0, .any, false, false, true⟩,
  -- MV_JOB (R357)
  ⟨0xB0000C, [], .plain, 0x0, 0x0, 0x0, 0x0, .any, false, false, false⟩,
  -- MV_ROWS (R357)
  ⟨0xB00010, [], .plain, 0x0, 0x0, 0x0, 0x0, .any, false, false, false⟩,
  -- MV_FADDR_LO (R357)
  ⟨0xB00014, [], .plain, 0x0, 0x0, 0x0, 0x0, .any, false, false, false⟩,
  -- MV_FADDR_HI (R357)
  ⟨0xB00018, [], .plain, 0x0, 0x0, 0x0, 0x0, .any, false, false, false⟩,
  -- MV_QUEUE_FILL (R357)
  ⟨0xB0001C, [], .plain, 0x0, 0x0, 0x0, 0x0, .any, false, false, false⟩,
  -- MV_CMD (R357)
  ⟨0xB00100, [(18, 0x4)], .plain, 0x0, 0xFFFFFFFF, 0x0, 0x0, .any, true, false, true⟩,
  -- MV_SUBMIT (R357)
  ⟨0xB00180, [], .acquire, 0x0, 0x0, 0x0, 0x0, .any, false, false, false⟩]

/-- Register families of the block at 0x80C00000, part 1. -/
def regRowsOf12_1 : List RegRow := [
  -- AUD_CTL (R373)
  ⟨0xC00000, [], .plain, 0x0, 0x8000000F, 0x0, 0x0, .any, false, false, true⟩,
  -- AUD_STATUS (R375)
  ⟨0xC00004, [], .plain, 0x0, 0x0, 0x7FF, 0x0, .any, false, false, false⟩,
  -- AUD_IRQ_EN (R373)
  ⟨0xC00008, [], .plain, 0x0, 0x7FF, 0x0, 0x0, .any, false, false, true⟩,
  -- AUD_SAMPLES (R373)
  ⟨0xC00010, [(3, 0x4)], .plain, 0x0, 0x0, 0x0, 0x0, .any, false, false, false⟩,
  -- AUD_CAR_CTL (R373)
  ⟨0xC00020, [], .plain, 0x0, 0x801F000F, 0x0, 0x0, .any, false, false, true⟩,
  -- AUD_CAR_RATE (R373)
  ⟨0xC00024, [], .plain, 0x0, 0x0, 0x0, 0x0, .any, false, false, false⟩,
  -- AUD_CAR_IN (R373)
  ⟨0xC00040, [(8, 0x4)], .plain, 0x0, 0x800001FF, 0x0, 0x0, .any, false, false, true⟩,
  -- AUD_PDM_STAT (R373)
  ⟨0xC00060, [], .readClear, 0x0, 0x0, 0x0, 0x0, .any, false, false, false⟩,
  -- AUD_MTR_CTL (R373)
  ⟨0xC00070, [], .plain, 0xA01F4, 0xFFFFF, 0x0, 0x0, .any, false, false, true⟩,
  -- AUD_CQ_DATA (R373)
  ⟨0xC00080, [(8, 0x4)], .acquire, 0x0, 0x0, 0x0, 0x0, .any, false, false, false⟩,
  -- AUD_CQ_FILL (R373)
  ⟨0xC000A0, [(8, 0x4)], .plain, 0x0, 0x0, 0x0, 0x0, .any, false, false, false⟩,
  -- AUD_RT_STG0 (R374)
  ⟨0xC00100, [], .plain, 0x0, 0xF0F03F7F, 0x0, 0x0, .any, true, false, true⟩,
  -- AUD_RT_STG1 (R374)
  ⟨0xC00104, [], .plain, 0x0, 0xFFFF01FF, 0x0, 0x0, .any, true, false, true⟩,
  -- AUD_RT_APPLY (R373)
  ⟨0xC00108, [], .acquire, 0x0, 0x0, 0x0, 0x0, .any, false, false, false⟩,
  -- AUD_RT_STATUS (R373)
  ⟨0xC00200, [(128, 0x4)], .plain, 0x0, 0x0, 0x0, 0x0, .any, false, false, false⟩,
  -- VC_CTL (R373)
  ⟨0xC01000, [(32, 0x20)], .plain, 0x0, 0x20000000, 0x0, 0x0, .any, false, false, false⟩,
  -- VC_ADDR (R373)
  ⟨0xC01004, [(32, 0x20)], .plain, 0x0, 0xFFFFFFFF, 0x0, 0x0, .any, false, false, true⟩,
  -- VC_LEN (R373)
  ⟨0xC01008, [(32, 0x20)], .plain, 0x0, 0xFFFF, 0x0, 0x0, .any, false, false, true⟩,
  -- VC_INC (R373)
  ⟨0xC0100C, [(32, 0x20)], .plain, 0x1000000, 0xFFFFFFFF, 0x0, 0x0, .any, false, false, true⟩,
  -- VC_ENV (R373)
  ⟨0xC01010, [(32, 0x20)], .plain, 0xFF00, 0xFFFFFFFF, 0x0, 0x0, .any, false, false, true⟩,
  -- VC_STATUS (R373)
  ⟨0xC01014, [(32, 0x20)], .plain, 0x0, 0x0, 0x0, 0x0, .any, false, false, false⟩,
  -- TDM_CTL (R373)
  ⟨0xC03000, [(4, 0x40)], .plain, 0x0, 0xDFC00000, 0x0, 0x0, .any, false, false, true⟩,
  -- TDM_DIR (R373)
  ⟨0xC03004, [(4, 0x40)], .plain, 0x0, 0xFFFF, 0x0, 0x0, .any, false, false, true⟩,
  -- TDM_STATUS (R373)
  ⟨0xC03008, [(4, 0x40)], .plain, 0x0, 0x0, 0x7, 0x0, .any, false, false, false⟩,
  -- TDM_SLIPS (R373)
  ⟨0xC0300C, [(4, 0x40)], .readClear, 0x0, 0x0, 0x0, 0x0, .any, false, false, false⟩]

/-- Register families of the block at 0x80C00000, part 2. -/
def regRowsOf12_2 : List RegRow := [
  -- AUD_BUS_CTL (R373)
  ⟨0xC04000, [(16, 0x10)], .plain, 0x0, 0xE0000000, 0x0, 0x0, .any, false, false, true⟩,
  -- AUD_BUS_PEAK (R373)
  ⟨0xC04004, [(16, 0x10)], .readClear, 0x0, 0x0, 0x0, 0x0, .any, false, false, false⟩,
  -- AUD_BUS_RMS (R373)
  ⟨0xC04008, [(16, 0x10)], .plain, 0x0, 0x0, 0x0, 0x0, .any, false, false, false⟩,
  -- AUD_OUT_CTL (R373)
  ⟨0xC05000, [(16, 0x20)], .plain, 0x0, 0xFC7F0000, 0x0, 0x0, .any, false, false, true⟩,
  -- AUD_OUT_LIM (R373)
  ⟨0xC05004, [(16, 0x20)], .plain, 0x7FFF0032, 0xFFFFFFFF, 0x0, 0x0, .any, false, false, true⟩,
  -- AUD_OUT_PEAK (R373)
  ⟨0xC05008, [(16, 0x20)], .readClear, 0x0, 0x0, 0x0, 0x0, .any, false, false, false⟩,
  -- AUD_OUT_RMS (R373)
  ⟨0xC0500C, [(16, 0x20)], .plain, 0x0, 0x0, 0x0, 0x0, .any, false, false, false⟩,
  -- AUD_VRAM (R373)
  ⟨0xC10000, [(32768, 0x4)], .plain, 0x0, 0xFFFFFFFF, 0x0, 0x0, .any, false, false, true⟩]

/-- The register families of the block at 0x80C00000. -/
def regRowsOf12 : List RegRow := regRowsOf12_1 ++ regRowsOf12_2

/-- Register families of the block at 0x80D00000, part 1. -/
def regRowsOf13_1 : List RegRow := [
  -- HP_PRODUCT (R397)
  ⟨0xD00000, [(2, 0x1000)], .plain, 0x0, 0x0, 0x0, 0x0, .any, false, true, false⟩,
  -- HP_REV (R397)
  ⟨0xD00004, [(2, 0x1000)], .plain, 0xA1, 0x0, 0x0, 0x0, .any, false, true, false⟩,
  -- HP_PORT (R397)
  ⟨0xD00008, [(2, 0x1000)], .plain, 0x0, 0x0, 0x0, 0x0, .any, false, true, false⟩,
  -- HP_LINK (R397)
  ⟨0xD0000C, [(2, 0x1000)], .plain, 0x0, 0x0, 0x0, 0x0, .any, false, true, false⟩,
  -- HP_ALERT_CAUSE (R400)
  ⟨0xD00010, [(2, 0x1000)], .plain, 0x0, 0x0, 0xFE, 0x0, .any, false, true, false⟩,
  -- HP_ALERT_EN (R397)
  ⟨0xD00014, [(2, 0x1000)], .plain, 0x0, 0xFE, 0x0, 0x0, .any, false, true, true⟩,
  -- HP_HOST_DB (R397)
  ⟨0xD00018, [(2, 0x1000)], .writeOnly, 0x0, 0x0, 0x0, 0x0, .any, false, true, false⟩,
  -- HP_ERRCNT (R397)
  ⟨0xD0001C, [(2, 0x1000)], .readClear, 0x0, 0x0, 0x0, 0x0, .any, false, true, false⟩,
  -- HP_SILENCE (R397)
  ⟨0xD00020, [(2, 0x1000)], .plain, 0x0, 0x0, 0x0, 0x0, .any, false, true, false⟩,
  -- HP_ABORT (R402)
  ⟨0xD00030, [(2, 0x1000)], .writeOnly, 0x0, 0x0, 0x0, 0x0, .any, false, true, false⟩,
  -- HP_ABORT_STATUS (R397)
  ⟨0xD00034, [(2, 0x1000)], .plain, 0x0, 0x0, 0x60000000, 0x0, .any, false, true, false⟩,
  -- HP_ABORT_DB (R397)
  ⟨0xD00038, [(2, 0x1000)], .plain, 0x0, 0xFFF, 0x0, 0x0, .any, false, true, true⟩,
  -- HP_DICT_CMD (R397)
  ⟨0xD00040, [(2, 0x1000)], .writeOnly, 0x0, 0x0, 0x0, 0x0, .any, false, true, false⟩,
  -- HP_DICT_OFF (R397)
  ⟨0xD00044, [(2, 0x1000)], .plain, 0x0, 0xFFFFFFFF, 0x0, 0x0, .any, false, true, true⟩,
  -- HP_DICT_LEN (R397)
  ⟨0xD00048, [(2, 0x1000)], .plain, 0x0, 0xFFF, 0x0, 0x0, .any, false, true, true⟩,
  -- HP_DICT_BUF (R397)
  ⟨0xD0004C, [(2, 0x1000)], .plain, 0x0, 0xFFC0, 0x0, 0x0, .any, false, true, true⟩,
  -- HP_DICT_STATUS (R397)
  ⟨0xD00050, [(2, 0x1000)], .plain, 0x0, 0x0, 0x40000000, 0x0, .any, false, true, false⟩,
  -- HP_DICT_RESULT (R397)
  ⟨0xD00054, [(2, 0x1000)], .plain, 0x0, 0x0, 0x0, 0x0, .any, false, true, false⟩,
  -- HP_DICT_RLEN (R397)
  ⟨0xD00058, [(2, 0x1000)], .plain, 0x0, 0x0, 0x0, 0x0, .any, false, true, false⟩,
  -- HP_DICT_TOTAL (R397)
  ⟨0xD0005C, [(2, 0x1000)], .plain, 0x0, 0x0, 0x0, 0x0, .any, false, true, false⟩,
  -- HP_TS_MSG (R397)
  ⟨0xD00060, [(2, 0x1000)], .writeOnly, 0x0, 0x0, 0x0, 0x0, .any, false, true, false⟩,
  -- HP_TS_REPLY (R397)
  ⟨0xD00064, [(2, 0x1000)], .plain, 0x0, 0xFFFFFFFF, 0x0, 0x0, .tailstockWrites, false, true, false⟩,
  -- CHK_LEASE (R397)
  ⟨0xD03000, [], .plain, 0x64, 0xFFFF, 0x0, 0x0, .any, false, true, true⟩,
  -- CHK_STATUS (R397)
  ⟨0xD03004, [], .readClear, 0x0, 0x0, 0x0, 0x0, .any, false, true, false⟩,
  -- CHK (R383)
  ⟨0xD04000, [(256, 0x4)], .acquire, 0x0, 0x0, 0x0, 0x0, .any, false, true, false⟩]

/-- Register families of the block at 0x80D00000, part 2. -/
def regRowsOf13_2 : List RegRow := [
  -- CHK_OWNER (R397)
  ⟨0xD05000, [(256, 0x4)], .plain, 0x0, 0x0, 0x0, 0x0, .any, false, true, false⟩]

/-- The register families of the block at 0x80D00000. -/
def regRowsOf13 : List RegRow := regRowsOf13_1 ++ regRowsOf13_2

/-- Register families of the block at 0x80E00000, part 1. -/
def regRowsOf14_1 : List RegRow := [
  -- CV_CTL (R442)
  ⟨0xE00000, [(8, 0x100)], .plain, 0x20, 0xFCFF1F7F, 0x0, 0x0, .any, false, false, true⟩,
  -- CV_STATUS (R443)
  ⟨0xE00004, [(8, 0x100)], .plain, 0x0, 0x0, 0xFE, 0x0, .any, false, false, false⟩,
  -- CV_IRQ_EN (R441)
  ⟨0xE00008, [(8, 0x100)], .plain, 0x0, 0xFF, 0x0, 0x0, .any, false, false, true⟩,
  -- CV_POLY_LO (R441)
  ⟨0xE00010, [(8, 0x100)], .plain, 0x4C11DB7, 0xFFFFFFFF, 0x0, 0x0, .any, false, false, true⟩,
  -- CV_POLY_HI (R441)
  ⟨0xE00014, [(8, 0x100)], .plain, 0x0, 0xFFFFFFFF, 0x0, 0x0, .any, false, false, true⟩,
  -- CV_INIT_LO (R441)
  ⟨0xE00018, [(8, 0x100)], .plain, 0xFFFFFFFF, 0xFFFFFFFF, 0x0, 0x0, .any, false, false, true⟩,
  -- CV_INIT_HI (R441)
  ⟨0xE0001C, [(8, 0x100)], .plain, 0x0, 0xFFFFFFFF, 0x0, 0x0, .any, false, false, true⟩,
  -- CV_STATE_LO (R439)
  ⟨0xE00020, [(8, 0x100)], .latchLow, 0x0, 0x0, 0x0, 0x0, .any, false, false, true⟩,
  -- CV_STATE_HI (R439)
  ⟨0xE00024, [(8, 0x100)], .latchHigh, 0x0, 0x0, 0x0, 0x0, .any, false, false, true⟩,
  -- CV_RESULT_LO (R441)
  ⟨0xE00028, [(8, 0x100)], .latchLow, 0x0, 0x0, 0x0, 0x0, .any, false, false, false⟩,
  -- CV_RESULT_HI (R441)
  ⟨0xE0002C, [(8, 0x100)], .latchHigh, 0x0, 0x0, 0x0, 0x0, .any, false, false, false⟩,
  -- CV_COUNT (R441)
  ⟨0xE00030, [(8, 0x100)], .plain, 0x0, 0xFFFFFFFF, 0x0, 0x0, .any, false, false, true⟩,
  -- CV_INIT (R441)
  ⟨0xE00034, [(8, 0x100)], .writeOnly, 0x0, 0x0, 0x0, 0x0, .any, false, false, false⟩,
  -- CV_DATA8 (R441)
  ⟨0xE00040, [(8, 0x100)], .writeOnly, 0x0, 0x0, 0x0, 0x0, .any, false, false, false⟩,
  -- CV_DATA16 (R441)
  ⟨0xE00044, [(8, 0x100)], .writeOnly, 0x0, 0x0, 0x0, 0x0, .any, false, false, false⟩,
  -- CV_DATA32 (R441)
  ⟨0xE00048, [(8, 0x100)], .writeOnly, 0x0, 0x0, 0x0, 0x0, .any, false, false, false⟩,
  -- CV_ALIVE_IN (R441)
  ⟨0xE0004C, [(8, 0x100)], .writeOnly, 0x0, 0x0, 0x0, 0x0, .any, false, false, false⟩,
  -- CV_CHECK_LO (R441)
  ⟨0xE00050, [(8, 0x100)], .writeOnly, 0x0, 0x0, 0x0, 0x0, .any, false, false, false⟩,
  -- CV_CHECK_HI (R441)
  ⟨0xE00054, [(8, 0x100)], .writeOnly, 0x0, 0x0, 0x0, 0x0, .any, false, false, false⟩,
  -- CV_QUEUE_FILL (R441)
  ⟨0xE00058, [(8, 0x100)], .plain, 0x0, 0x0, 0x0, 0x0, .any, false, false, false⟩,
  -- CV_ALIVE_STAT (R441)
  ⟨0xE0005C, [(8, 0x100)], .readClear, 0x0, 0x0, 0x0, 0x0, .any, false, false, false⟩,
  -- MCR_INFO (R444)
  ⟨0xE08000, [(16, 0x10)], .plain, 0x0, 0x0, 0x0, 0x0, .ownCore, false, false, false⟩,
  -- MCR_ADDR_LO (R441)
  ⟨0xE08004, [(16, 0x10)], .plain, 0x0, 0x0, 0x0, 0x0, .ownCore, false, false, false⟩,
  -- MCR_ADDR_HI (R441)
  ⟨0xE08008, [(16, 0x10)], .plain, 0x0, 0x0, 0x0, 0x0, .ownCore, false, false, false⟩,
  -- INT_SCRUB (R441)
  ⟨0xE09000, [(5, 0x4)], .plain, 0x3E8, 0xFFFF, 0x0, 0x0, .tailstockWrites, false, false, true⟩]

/-- Register families of the block at 0x80E00000, part 2. -/
def regRowsOf14_2 : List RegRow := [
  -- INT_OWNER (R441)
  ⟨0xE09020, [(3, 0x4)], .plain, 0x0, 0x8000000F, 0x0, 0x0, .tailstockWrites, false, false, true⟩,
  -- INT_DETECTS (R441)
  ⟨0xE09030, [], .readClear, 0x0, 0x0, 0x0, 0x0, .any, false, false, false⟩,
  -- INT_POISONED (R441)
  ⟨0xE09034, [], .readClear, 0x0, 0x0, 0x0, 0x0, .any, false, false, false⟩]

/-- The register families of the block at 0x80E00000. -/
def regRowsOf14 : List RegRow := regRowsOf14_1 ++ regRowsOf14_2

/-- The register families of the block at 0x80F00000. -/
def regRowsOf15 : List RegRow := [
  -- PIN_CFG (R457)
  ⟨0xF00000, [(160, 0x4)], .plain, 0x10000000, 0xFFFFFC00, 0x0, 0x0, .any, false, false, false⟩,
  -- GPIO_OUT (R456)
  ⟨0xF00400, [(10, 0x20)], .plain, 0x0, 0xFFFF, 0x0, 0x0, .any, false, false, true⟩,
  -- GPIO_OUT_M (R456)
  ⟨0xF00404, [(10, 0x20)], .masked, 0x0, 0xFFFF, 0x0, 0x0, .any, false, false, false⟩,
  -- GPIO_OE (R456)
  ⟨0xF00408, [(10, 0x20)], .plain, 0x0, 0xFFFF, 0x0, 0x0, .any, false, false, true⟩,
  -- GPIO_OE_M (R456)
  ⟨0xF0040C, [(10, 0x20)], .masked, 0x0, 0xFFFF, 0x0, 0x0, .any, false, false, false⟩,
  -- GPIO_IN (R456)
  ⟨0xF00410, [(10, 0x20)], .plain, 0x0, 0x0, 0x0, 0x0, .any, false, false, false⟩,
  -- GPIO_INT_STAT (R456)
  ⟨0xF00414, [(10, 0x20)], .plain, 0x0, 0x0, 0xFFFF, 0x0, .any, false, false, false⟩,
  -- GPIO_INT_EN (R456)
  ⟨0xF00418, [(10, 0x20)], .plain, 0x0, 0xFFFF, 0x0, 0x0, .any, false, false, true⟩,
  -- PIN_BANK (R456)
  ⟨0xF00600, [], .plain, 0x0, 0x0, 0x3FF00000, 0x0, .any, false, false, false⟩,
  -- PIN_STRAP (R456)
  ⟨0xF00604, [], .plain, 0x0, 0x0, 0x0, 0x0, .any, false, true, false⟩]

/-- The register families of the block at 0x81000000. -/
def regRowsOf16 : List RegRow := [
  -- MC_CTL (R299)
  ⟨0x1000000, [], .plain, 0x0, 0xC0000000, 0x0, 0x0, .tailstockWrites, false, false, true⟩,
  -- MC_STATUS (R299)
  ⟨0x1000004, [], .plain, 0x0, 0x0, 0x7, 0x0, .any, false, false, false⟩,
  -- MC_RATE (R299)
  ⟨0x1000008, [], .plain, 0x3, 0x3, 0x0, 0x0, .tailstockWrites, false, false, false⟩,
  -- MC_SIZE (R299)
  ⟨0x100000C, [], .plain, 0x0, 0x0, 0x0, 0x0, .any, false, false, false⟩,
  -- MC_SR_IDLE (R299)
  ⟨0x1000010, [], .plain, 0x5DC, 0xFFFFFFFF, 0x0, 0x0, .any, false, false, true⟩,
  -- MC_SR_EXIT (R299)
  ⟨0x1000014, [], .plain, 0xBB8, 0x0, 0x0, 0x0, .any, false, false, false⟩,
  -- MC_LAT_TOL (R299)
  ⟨0x1000018, [], .plain, 0xFFFFFFFF, 0x0, 0x0, 0x0, .any, false, false, false⟩,
  -- MC_IRQ_EN (R299)
  ⟨0x100001C, [], .plain, 0x0, 0x1F, 0x0, 0x0, .any, false, false, true⟩,
  -- SB_CTL (R300)
  ⟨0x1001000, [(32, 0x4)], .plain, 0x40000100, 0x8000073F, 0x0, 0x0, .any, false, false, false⟩,
  -- SB_MBX_STATUS (R299)
  ⟨0x1001100, [], .plain, 0x0, 0x0, 0x3, 0x0, .any, false, false, false⟩]

/-- The register families of the block at 0x81100000. -/
def regRowsOf17 : List RegRow := [
  -- GT_COUNT (R72)
  ⟨0x1100000, [(64, 0x20)], .plain, 0x0, 0xFFFFFFFF, 0x0, 0x0, .any, false, false, true⟩,
  -- GT_TOP (R72)
  ⟨0x1100004, [(64, 0x20)], .plain, 0xFFFFFFFF, 0xFFFFFFFF, 0x0, 0x0, .any, false, false, true⟩,
  -- GT_CMP (R72)
  ⟨0x1100008, [(64, 0x20)], .plain, 0x0, 0xFFFFFFFF, 0x0, 0x0, .any, false, false, true⟩,
  -- GT_CTL (R73)
  ⟨0x110000C, [(64, 0x20)], .plain, 0x0, 0xFE000000, 0x0, 0x0, .any, false, false, true⟩,
  -- GT_STATUS (R72)
  ⟨0x1100010, [(64, 0x20)], .plain, 0x0, 0x0, 0x7, 0x0, .any, false, false, false⟩,
  -- GT_IRQ_EN (R72)
  ⟨0x1100014, [(64, 0x20)], .plain, 0x0, 0x7, 0x0, 0x0, .any, false, false, true⟩,
  -- GT_SNAP (R70)
  ⟨0x1100800, [(64, 0x4)], .plain, 0x0, 0x0, 0x0, 0x0, .any, false, false, false⟩]

/-- The register families of the block at 0x81200000. -/
def regRowsOf18 : List RegRow := [
  -- TSM_DICT_CMD (R427)
  ⟨0x1200000, [(16, 0x40)], .writeOnly, 0x0, 0x0, 0x0, 0x0, .ownCore, false, false, false⟩,
  -- TSM_DICT_OFF (R427)
  ⟨0x1200004, [(16, 0x40)], .plain, 0x0, 0xFFFFFFFF, 0x0, 0x0, .ownCore, false, false, true⟩,
  -- TSM_DICT_LEN (R427)
  ⟨0x1200008, [(16, 0x40)], .plain, 0x0, 0xFFF, 0x0, 0x0, .ownCore, false, false, true⟩,
  -- TSM_DICT_BUF (R427)
  ⟨0x120000C, [(16, 0x40)], .plain, 0x0, 0x3FFC0, 0x0, 0x0, .ownCore, false, false, true⟩,
  -- TSM_DICT_STATUS (R427)
  ⟨0x1200010, [(16, 0x40)], .plain, 0x0, 0x0, 0x40000000, 0x0, .ownCore, false, false, false⟩,
  -- TSM_DICT_RESULT (R427)
  ⟨0x1200014, [(16, 0x40)], .plain, 0x0, 0x0, 0x0, 0x0, .ownCore, false, false, false⟩,
  -- TSM_DICT_RLEN (R427)
  ⟨0x1200018, [(16, 0x40)], .plain, 0x0, 0x0, 0x0, 0x0, .ownCore, false, false, false⟩,
  -- TSM_DICT_TOTAL (R427)
  ⟨0x120001C, [(16, 0x40)], .plain, 0x0, 0x0, 0x0, 0x0, .ownCore, false, false, false⟩,
  -- TSM_MSG (R427)
  ⟨0x1200020, [(16, 0x40)], .writeOnly, 0x0, 0x0, 0x0, 0x0, .ownCore, false, false, false⟩,
  -- TSM_REPLY (R427)
  ⟨0x1200024, [(16, 0x40)], .plain, 0x0, 0xFFFFFFFF, 0x0, 0x0, .tailstockWrites, false, false, true⟩,
  -- TS_IRQ_EN (R274)
  ⟨0x1208000, [(2, 0x4)], .plain, 0x0, 0xFFFFFFFF, 0x0, 0x0, .tailstockOnly, false, true, true⟩,
  -- TS_IRQ_PEND (R274)
  ⟨0x1208008, [(2, 0x4)], .plain, 0x0, 0x0, 0x0, 0x0, .tailstockOnly, false, true, false⟩,
  -- TS_CLAIM (R274)
  ⟨0x1208010, [], .acquire, 0x0, 0x0, 0x0, 0x0, .tailstockOnly, false, true, false⟩,
  -- TS_EOI (R274)
  ⟨0x1208014, [], .writeOnly, 0x0, 0x0, 0x0, 0x0, .tailstockOnly, false, true, false⟩,
  -- TS_DOORBELL (R274)
  ⟨0x1208018, [], .writeOnly, 0x0, 0x0, 0x0, 0x0, .any, false, true, false⟩,
  -- TSN_VALUE (R427)
  ⟨0x1209000, [(56, 0x4)], .plain, 0x0, 0x0, 0x0, 0x0, .tailstockOnly, false, true, false⟩,
  -- TSN_WARN (R427)
  ⟨0x1209100, [(56, 0x8)], .plain, 0x7FFF8000, 0xFFFFFFFF, 0x0, 0x0, .tailstockOnly, false, true, true⟩,
  -- TSN_ALARM (R427)
  ⟨0x1209104, [(56, 0x8)], .plain, 0x7FFF8000, 0xFFFFFFFF, 0x0, 0x0, .tailstockOnly, false, true, true⟩,
  -- TSN_CTL (R428)
  ⟨0x1209300, [(56, 0x4)], .plain, 0x80000004, 0xE00000FF, 0x0, 0x0, .tailstockOnly, false, true, false⟩,
  -- TS_TAMPER_CAUSE (R427)
  ⟨0x120A000, [], .plain, 0x0, 0x0, 0xF, 0x0, .tailstockOnly, false, true, false⟩,
  -- OTP_ADDR (R427)
  ⟨0x120A004, [], .plain, 0x0, 0xFF, 0x0, 0x0, .tailstockOnly, false, true, true⟩,
  -- OTP_DATA (R427)
  ⟨0x120A008, [], .plain, 0x0, 0x0, 0x0, 0x0, .tailstockOnly, false, true, false⟩,
  -- OTP_PROG (R427)
  ⟨0x120A00C, [], .writeOnly, 0x0, 0x0, 0x0, 0x0, .tailstockOnly, false, true, false⟩,
  -- OTP_STATUS (R427)
  ⟨0x120A010, [], .plain, 0x0, 0x0, 0x0, 0x0, .tailstockOnly, false, true, false⟩]

/-- Register families of the block at 0x81300000, part 1. -/
def regRowsOf19_1 : List RegRow := [
  -- CAN_CTL (R398)
  ⟨0x1300000, [(4, 0x1000)], .plain, 0x40000000, 0xF0000000, 0x0, 0x0, .any, false, false, true⟩,
  -- CAN_BT_NOM (R398)
  ⟨0x1300004, [(4, 0x1000)], .plain, 0x0, 0xFFFF7FFF, 0x0, 0x0, .any, false, false, true⟩,
  -- CAN_BT_DATA (R398)
  ⟨0x1300008, [(4, 0x1000)], .plain, 0x0, 0xFFFF7FFF, 0x0, 0x0, .any, false, false, true⟩,
  -- CAN_STATUS (R398)
  ⟨0x130000C, [(4, 0x1000)], .plain, 0x0, 0x0, 0x3F, 0x0, .any, false, false, false⟩,
  -- CAN_IRQ_EN (R398)
  ⟨0x1300010, [(4, 0x1000)], .plain, 0x0, 0x3F, 0x0, 0x0, .any, false, false, true⟩,
  -- CAN_ERRCNT (R398)
  ⟨0x1300014, [(4, 0x1000)], .plain, 0x0, 0x0, 0x0, 0x0, .any, false, false, false⟩,
  -- CAN_DROPS (R398)
  ⟨0x1300018, [(4, 0x1000)], .readClear, 0x0, 0x0, 0x0, 0x0, .any, false, false, false⟩,
  -- CAN_RXBUF_SIZE (R398)
  ⟨0x1300020, [(4, 0x1000)], .plain, 0x3, 0x3, 0x0, 0x0, .any, false, false, true⟩,
  -- CAN_FILT_ID (R398)
  ⟨0x1300100, [(4, 0x1000), (32, 0x8)], .plain, 0x0, 0xDFFFFFFF, 0x0, 0x0, .any, false, false, true⟩,
  -- CAN_FILT_MASK (R398)
  ⟨0x1300104, [(4, 0x1000), (32, 0x8)], .plain, 0x0, 0xDFFFFFFF, 0x0, 0x0, .any, false, false, true⟩,
  -- CAN_RX_FIFO (R398)
  ⟨0x1300400, [(4, 0x1000)], .acquire, 0x0, 0x0, 0x0, 0x0, .any, false, false, false⟩,
  -- CAN_TX (R398)
  ⟨0x1300800, [(4, 0x1000), (16, 0x48), (18, 0x4)], .plain, 0x0, 0xFFFFFFFF, 0x0, 0x0, .any, false, false, true⟩,
  -- ETH_CTL (R398)
  ⟨0x1308000, [(2, 0x1000)], .plain, 0x0, 0xE0000000, 0x0, 0x0, .any, false, false, true⟩,
  -- ETH_ADDR_LO (R398)
  ⟨0x1308004, [(2, 0x1000)], .plain, 0x0, 0xFFFFFFFF, 0x0, 0x0, .any, false, false, true⟩,
  -- ETH_ADDR_HI (R398)
  ⟨0x1308008, [(2, 0x1000)], .plain, 0x0, 0xFFFF, 0x0, 0x0, .any, false, false, true⟩,
  -- ETH_MCAST_LO (R398)
  ⟨0x1308010, [(2, 0x1000), (4, 0x8)], .plain, 0x0, 0xFFFFFFFF, 0x0, 0x0, .any, false, false, true⟩,
  -- ETH_MCAST_HI (R398)
  ⟨0x1308014, [(2, 0x1000), (4, 0x8)], .plain, 0x0, 0xFFFF, 0x0, 0x0, .any, false, false, true⟩,
  -- ETH_PTP_LO (R398)
  ⟨0x1308040, [(2, 0x1000)], .latchLow, 0x0, 0x0, 0x0, 0x0, .any, false, false, false⟩,
  -- ETH_PTP_HI (R398)
  ⟨0x1308044, [(2, 0x1000)], .latchHigh, 0x0, 0x0, 0x0, 0x0, .any, false, false, false⟩,
  -- ETH_PTP_TRIM (R398)
  ⟨0x1308048, [(2, 0x1000)], .plain, 0x0, 0xFFFFFFFF, 0x0, 0x0, .any, false, false, true⟩,
  -- ETH_PTP_STEP_LO (R398)
  ⟨0x130804C, [(2, 0x1000)], .writeOnly, 0x0, 0x0, 0x0, 0x0, .any, false, false, false⟩,
  -- ETH_PTP_STEP_HI (R398)
  ⟨0x1308050, [(2, 0x1000)], .writeOnly, 0x0, 0x0, 0x0, 0x0, .any, false, false, false⟩,
  -- ETH_TS_RX (R398)
  ⟨0x1308060, [(2, 0x1000)], .plain, 0x0, 0x0, 0x0, 0x0, .any, false, false, false⟩,
  -- ETH_TS_TX (R398)
  ⟨0x1308064, [(2, 0x1000)], .plain, 0x0, 0x0, 0x0, 0x0, .any, false, false, false⟩,
  -- ETH_STATUS (R398)
  ⟨0x1308070, [(2, 0x1000)], .plain, 0x0, 0x0, 0x7, 0x0, .any, false, false, false⟩]

/-- Register families of the block at 0x81300000, part 2. -/
def regRowsOf19_2 : List RegRow := [
  -- ETH_DROPS (R398)
  ⟨0x1308074, [(2, 0x1000)], .readClear, 0x0, 0x0, 0x0, 0x0, .any, false, false, false⟩]

/-- The register families of the block at 0x81300000. -/
def regRowsOf19 : List RegRow := regRowsOf19_1 ++ regRowsOf19_2

/-- The register families of 1 MiB block `b` of the device region (R23); none where the block lists none. -/
def regRows (b : Nat) : List RegRow :=
  match b with
  | 0 => regRowsOf0
  | 1 => regRowsOf1
  | 2 => regRowsOf2
  | 3 => regRowsOf3
  | 4 => regRowsOf4
  | 5 => regRowsOf5
  | 6 => regRowsOf6
  | 7 => regRowsOf7
  | 8 => regRowsOf8
  | 9 => regRowsOf9
  | 10 => regRowsOf10
  | 11 => regRowsOf11
  | 12 => regRowsOf12
  | 13 => regRowsOf13
  | 14 => regRowsOf14
  | 15 => regRowsOf15
  | 16 => regRowsOf16
  | 17 => regRowsOf17
  | 18 => regRowsOf18
  | 19 => regRowsOf19
  | _ => []

/-- Does distance `d` from the family's first register fall on one of its registers? -/
def onDims (d : Nat) : List (Nat × Nat) → Bool
  | [] => d == 0
  | (c, st) :: ds => d / st < c && onDims (d % st) ds

/-- The family that lists the register at offset `off`, if one does. -/
def regRow? (off : Nat) : Option RegRow :=
  (regRows (off / 0x100000)).find? fun r => r.off ≤ off && onDims (off - r.off) r.dims

/-- Reset values that differ within one family: SPN_SRC shows the spindle's kind (R12, R65), the registers at 0x80 and
0x88 of a spindle are a free spindle's period and a mains spindle's window (R56, R63), INT_SCRUB's first period is 720
minutes and its second 10,000 ms (R435, R441), and scratch bank 31 is the mailbox (R279, R300). -/
def specialReset? (off : Nat) : Option Word :=
  if 0x100000 ≤ off ∧ off < 0x100000 + 154 * 0x100 ∧ off % 0x100 = 0x14 then
    let n := (off - 0x100000) / 0x100
    some (if n < 64 then 0 else if n < 72 then 0x20000000 else if n < 136 then 0x40000000
      else if n < 138 then 0x60000000 else 0x80000000)
  else if 0x100000 + 138 * 0x100 ≤ off ∧ off < 0x100000 + 154 * 0x100 ∧ off % 0x100 = 0x80 then some 0x0016E360
  else if 0x100000 + 64 * 0x100 ≤ off ∧ off < 0x100000 + 72 * 0x100 ∧ off % 0x100 = 0x88 then some 0x42002D00
  else if off = Reg.INT_SCRUB 0 then some 720
  else if off = Reg.INT_SCRUB 1 then some 10000
  else if off = Reg.SB_CTL 31 then some 0x40000500
  else none

/-- The reset value of the register at offset `off` (R11); an offset that no family lists reads zero (R24). -/
def resetOf (off : Nat) : Word :=
  match specialReset? off with
  | some w => w
  | none => match regRow? off with
    | some r => r.reset
    | none => 0

end Sys2Proof.Machine
end

