-- ==== Sys2Proof/Machine/State.lean ====
section
/-! DEFINITION. The state of the block as plain data: every register of the device region in one table keyed by its
offset from 0x00_8000_0000 (`regs`), the memories, and one record for each kind of state that no register shows.
Each field's default is its value at reset; `State.reset` is those defaults. -/

namespace Sys2Proof.Machine

/-- A sparse table, keys rising, no default value listed (`tabWf` of Machine/Bits.lean). -/
abbrev Tab (α : Type) := List (Nat × α)

/-- The two parts of the family (R1, R2). -/
inductive Variant where
  | vl8860 | vl8830
  deriving DecidableEq, Repr, Inhabited

/-- The states in which a function of the chip stands after the steps of R460: nothing answers before power-good,
the boot ROM and then the tailstock image run, then the core domain has FCLK. -/
inductive BootPhase where
  | off | bootRom | recovery | firmware
  deriving DecidableEq, Repr, Inhabited

/-- Clocks, power and start-up (R17 to R21, R36 to R38, R458 to R463). -/
structure Sys where
  /-- The part (R2). A device is one or the other for good. -/
  variant : Variant := .vl8860
  /-- Power-good has released power-on reset (R470). -/
  powerGood : Bool := false
  phase : BootPhase := .off
  /-- VDDA, VDD_CORE and the DRAM supplies are present (R19, R470), and the supplies of the PWM banks VDDIO_P_0 to
  VDDIO_P_5, bit n of bank n (R20). -/
  vdda : Bool := true
  vddCore : Bool := true
  ddr : Bool := true
  pwmBanks : BitVec 6 := 0
  /-- The clocks that their monitors have declared lost and not seen return (R18): bit 0 the reference, 1 the crystal,
  2 TCLK, 3 FCLK, 4 the audio PLL, 5 and 6 the video PLLs, 7 the memory-controller PLL. -/
  clocksLost : BitVec 8 := 0
  /-- FCLK runs from the locked fabric PLL (R17, R460). -/
  fclk : Bool := false
  /-- The reference, the crystal and the tailstock PLL are present (R18). -/
  reference : Bool := true
  crystal : Bool := true
  /-- TCLK runs from the RC fallback, unmultiplied (R18). -/
  tclkOnRc : Bool := false
  /-- The unit PLLs are locked (R18): audio, video of head 0 and 1, DRAM. -/
  audioPll : Bool := false
  videoPll0 : Bool := false
  videoPll1 : Bool := false
  dramPll : Bool := false
  /-- Switched islands (R19), bit n is island n. -/
  coreIslands : BitVec 16 := 0
  sectorIslands : BitVec 6 := 0
  mediaIsland : Bool := false
  /-- The core domain is held in reset: bit 0 thermal shutdown (R407), bit 1 sensor action 2 (R406). -/
  held : BitVec 2 := 0
  /-- The strap pins as POWER_GOOD sampled them (R455, R458). -/
  strap : BitVec 2 := 0
  /-- FCLK has been lost since it last started (R459). -/
  fclkLost : Bool := false
  /-- A core-domain reset is under way, which ends as FCLK starts (R460, R465). -/
  domainReset : Bool := false
  /-- SCLK: fraction of the next edge, in 1 / (1.5 GHz x 763) units, and edges counted (R38). -/
  sclkAcc : Nat := 0
  sclkCount : DWord := 0
  /-- The keep words behind their copies, and the writes that wait for their second SCLK edge (R36, R37). -/
  keep : Tab Word := []
  keepWaiting : Tab (Option Word) := []
  /-- A reset requested through object 0x1F01 waits for its 1 ms (R462): 1 core domain, 2 device. -/
  resetWaiting : Nat := 0
  deriving DecidableEq, Repr, Inhabited

/-- One entry of the event log (R408) without its check value, which is computed when it is read. -/
structure LogEntry where
  seq : Word
  cls : Nat
  unit : Nat
  code : Nat
  time : DWord
  boot : Word
  rep : Word
  payload : List Byte
  deriving DecidableEq, Repr, Inhabited

/-- The event log's ring and journal (R408 to R411). -/
structure EventLog where
  /-- Oldest first, at most 1,024. -/
  ring : List LogEntry := []
  /-- How many of the newest entries the journal does not hold yet. -/
  unwritten : Nat := 0
  /-- Entries discarded since power-on reset, and those not reported by a loss entry yet. -/
  discarded : Word := 0
  lossWaiting : Nat := 0
  nextSeq : Word := 0
  bootCount : Word := 0
  /-- The cycle at which the newest entry last rose (R409). -/
  lastAt : Nat := 0
  /-- The journal (R409, R410): entries held with their block, oldest first; the write point's block and place; the
  program under way, as a number of entries; blocks marked bad. -/
  journal : List (Nat × LogEntry) := []
  block : Nat := 0
  place : Nat := 0
  programming : Option Nat := none
  badBlocks : List Nat := []
  deriving DecidableEq, Repr, Inhabited

/-- What a spindle holds beside its registers (R43 to R62). -/
structure Spindle where
  /-- The 64-bit position, phase in the low word (R43), and the position one cycle, or one resync, before (R45). -/
  pos : DWord := 0
  prev : DWord := 0
  /-- Compares that have been evaluated and have fired in this cycle (R60). -/
  fired : BitVec 4 := 0
  /-- The filtered levels that the decoder has taken: A + 2 B + 4 I (R46). -/
  seen : Nat := 0
  /-- Encoder and Hall count (R47). -/
  count : Nat := 0
  /-- The intervals of the last edges, newest first, and how many there are (R49). -/
  intervals : List Nat := []
  /-- The timestamp of the last edge (R49). -/
  tsPrev : Int := 0
  /-- The target at a cycle from which the phase is extrapolated, and that cycle: the last edge or update, or a preset of
  the position (R49, R53). -/
  anchor : Int := 0
  origin : Int := 0
  /-- An edge has been taken since enable, so that the next one measures an interval. -/
  tsValid : Bool := false
  /-- Velocity in Q16.16 units per cycle (R49, R53). -/
  vel : Int := 0
  /-- Illegal transitions counted toward err_limit (R47). -/
  tally : Nat := 0
  /-- Edges still to be taken with m = 1 after a failed acceleration check (R51). -/
  fastEdges : Nat := 0
  /-- The last valid Hall code (R47). -/
  hallRef : Option Nat := none
  /-- SPN_EPOCH_HI, staged (R58). -/
  epochHi : Word := 0
  /-- Position added to the formula of R58 since a write of SPN_SET_PHASE. -/
  adjust : DWord := 0
  /-- Levels of the four compare event lines (R60). -/
  lines : BitVec 4 := 0
  /-- A raster's start cycle, frame period, totals, and whether it runs (R57). -/
  rasterStart : Nat := 0
  rasterFrame : Nat := 0
  /-- The frame period is rasterFrame / rasterDen cycles. -/
  rasterDen : Nat := 1
  rasterDots : Nat := 0
  rasterLines : Nat := 0
  rasterRuns : Bool := false
  /-- The cycle at which the raster stopped (R57). -/
  rasterEnd : Nat := 0
  deriving DecidableEq, Repr, Inhabited

/-- What a general timer holds beside its registers: this cycle's count has been taken, an arming waits for its first
evaluation, and the count has come to its value in this cycle and is not evaluated yet (R33, R71). -/
structure GenTimer where
  counted : Bool := false
  fresh : Bool := false
  moved : Bool := false
  deriving DecidableEq, Repr, Inhabited

/-- An edge slot of the present period or half (R168): its edge is owed, placed, or missed. -/
inductive Slot where
  | owed | placed | missed
  deriving DecidableEq, Repr, Inhabited

/-- The two slots of one output, and its level before pads and polarity (R162, R165). -/
structure PwmOut where
  /-- The modulated level before dead time; in complementary operation B's is the inverse of A's and is not held here. -/
  want : Bool := false
  level : Bool := false
  /-- A rising edge waits for the end of its dead time. -/
  rising : Bool := false
  opening : Slot := .owed
  closing : Slot := .owed
  /-- The trip action `active` has passed its dead time (R171). -/
  tripActive : Bool := false
  deriving DecidableEq, Repr, Inhabited

/-- A channel pair beside its registers (R159 to R168). -/
structure PwmPair where
  a : PwmOut := {}
  b : PwmOut := {}
  /-- The trip action is applied (R171). -/
  tripped : Bool := false
  /-- The shift in effect since the pair's last zero load point (R162). -/
  shift : Nat := 0
  /-- Fine steps left until x_p reaches 0 in the longer pair period that a raised shift begins (R162). -/
  lead : Nat := 0
  /-- out_mode in effect, and the one that waits in the shadow with its compare (R167). -/
  outMode : Nat := 0
  shadowMode : Nat := 0
  /-- The loop context whose port owns compare A, compare B or the shift (R166). -/
  ownerA : Option Nat := none
  ownerB : Option Nat := none
  ownerShift : Option Nat := none
  /-- A loop's duty that waits for the edge it came too late for (R144). -/
  late : Option Nat := none
  deriving DecidableEq, Repr, Inhabited

/-- A PWM group beside its registers. -/
structure PwmGroup where
  /-- Internal trips: by a loop engine (R148), by a lost lock (R161). -/
  softTrip : Bool := false
  lockTrip : Bool := false
  /-- enable has been written 0 since the group was parted or lost its lock. -/
  sawDisable : Bool := false
  /-- An arming request waits for the tailstock (R175). -/
  armRequest : Bool := false
  /-- PWM_SAFE and PWM_DT_MIN are locked (R183). -/
  safeLock : Bool := false
  /-- Periods since burst was written, and whether the outputs are held (R164). -/
  burstCount : Nat := 0
  burstOff : Bool := false
  /-- The valley window is open (R163). -/
  valleyOpen : Bool := false
  /-- The position has reached per32 and the period start has not been carried out (R160). -/
  due : Bool := false
  deriving DecidableEq, Repr, Inhabited

/-- What drives one pin of a pair. -/
inductive Pad where
  | low | high | highZ
  deriving DecidableEq, Repr, Inhabited

/-- An ADC beside its registers (R106 to R111). -/
structure Adc where
  /-- The converter that serves it. -/
  conv : Nat := 0
  /-- It runs a sequence; the entry in flight and the fields latched for it. -/
  running : Bool := false
  entry : Nat := 0
  word : Word := 0
  /-- Conversions of the entry held so far, the sum of their codes, and the time of the first hold. -/
  held : Nat := 0
  sum : Nat := 0
  firstHold : Word := 0
  /-- Fields changed while in flight; first conversion after a swap (R111, R120). -/
  routeChanged : Bool := false
  swapped : Bool := false
  /-- Queued triggers' first entries, oldest first (R110). -/
  queue : List Nat := []
  /-- The cycle from which the converter has tracked its present input (R108). -/
  trackedSince : Nat := 0
  /-- Refuses new triggers until its foreground calibration ends (R120). -/
  calibrating : Bool := false
  deriving DecidableEq, Repr, Inhabited

/-- A result channel beside its registers (R112 to R114). -/
structure Channel where
  /-- Out-of-window samples in a row. -/
  outRun : Nat := 0
  lastAt : Nat := 0
  /-- The last in-window value (R113). -/
  lastIn : Nat := 0
  deriving DecidableEq, Repr, Inhabited

/-- A comparator beside its registers (R116, R117, R486). -/
structure Comparator where
  /-- The input is beyond the threshold. -/
  raw : Bool := false
  /-- The output, after blanking and hold, and since when it is active. -/
  out : Bool := false
  activeSince : Nat := 0
  blanked : Bool := false
  held : Bool := false
  /-- The input that its trip zones see. -/
  zoneIn : Bool := false
  /-- The DAC's code, in UQ12.12, while a ramp runs (R117). -/
  dac : Nat := 0
  ramping : Bool := false
  deriving DecidableEq, Repr, Inhabited

/-- A sigma-delta demodulator beside its registers (R118, R119). -/
structure SigmaDelta where
  /-- Integrators and the combs' last values of the sinc3 filter. -/
  i1 : Int := 0
  i2 : Int := 0
  i3 : Int := 0
  c1 : Int := 0
  c2 : Int := 0
  c3 : Int := 0
  /-- Words still to be discarded. -/
  discard : Nat := 0
  clkLost : Bool := false
  /-- The cycle from which the decimation counter counts: the last word, or SD_SYNC. -/
  counterFrom : Nat := 0
  /-- osr, shift and channel as the last decimation used them. -/
  used : Option Word := none
  deriving DecidableEq, Repr, Inhabited

/-- A sector's front end beside its registers (R115, R120). -/
structure Sector where
  queue : List Word := []
  /-- When converters 0 to 3 were last calibrated, as numbers that rise with each calibration. -/
  calAge : List Nat := [0, 0, 0, 0]
  calCount : Nat := 0
  /-- A foreground calibration waits for, or runs on, this converter (R120). -/
  foreground : Option Nat := none
  deriving DecidableEq, Repr, Inhabited

/-- Where the update in flight of a loop context stands (R132, R133, R142, R147, R149). -/
inductive LoopStage where
  /-- Nothing is in flight. -/
  | idle
  /-- The predicted inputs are awaited. -/
  | waiting
  /-- A CORE context's sample is posted (R147). -/
  | posted
  /-- In the recompute lane. -/
  | lane
  /-- In the settle pass. -/
  | settling
  /-- The state is being replayed from history (R149). -/
  | rebuilding
  /-- The context takes over a loop, or has given it up, in a re-placement (R200). -/
  | arriving
  | leaving
  deriving DecidableEq, Repr, Inhabited

/-- A loop context beside its registers (spec/06). -/
structure LoopCtx where
  stage : LoopStage := .idle
  /-- The starts that wait, oldest first: the device timer's low word and the model's time at each (R132). -/
  queued : List (Word × Nat) := []
  /-- The cycle after the last issue, 0 before the first (R132). -/
  issuedAt : Nat := 0
  /-- The start of the update in flight, and that of the update before (R141). -/
  start : Word := 0
  startAt : Nat := 0
  prevStart : Word := 0
  /-- What stage 1 latched (R133, R134): the bank, the references, the inputs' raw values, and the angle spindle's
  phase and velocity with the cycle of the fetch. -/
  bank : Bool := false
  ref0 : Word := 0
  ref1 : Word := 0
  raw : List Word := []
  angPhase : Word := 0
  angVel : Int := 0
  fetched : Word := 0
  /-- The hold time of input 0's latched sample; the fetch where input 0 is no channel (R134, R150). -/
  time0 : Word := 0
  /-- The prediction: predicted inputs after scaling, and, once stage 8 holds them, outputs, and duties as port and
  value: 4 k + 1 is compare A of pair k, 4 k + 3 its shift. -/
  predicted : Bool := false
  predY : List Word := []
  pend : Option (List Word × List (Nat × Nat)) := none
  predBad : Bool := false
  /-- The voltage vector of the duties confirmed last (R151). -/
  volA : Word := 0
  volB : Word := 0
  predVol : Word × Word := (0, 0)
  /-- Samples of inputs 0 to 3 taken since enable, newest first, at most 32: hold time and raw value (R141, R149). -/
  hist : List (List (Word × Word)) := [[], [], [], []]
  /-- Faulted updates in a row (R148). -/
  faultRun : Nat := 0
  /-- A posted sample and the cores that have taken it (R147). -/
  post : Word := 0
  taken : List Nat := []
  /-- The cycle of the last confirmation, for the confirm unit's waits (R146). -/
  confirmAt : Nat := 0
  /-- A bank change requested for the next issue (R140). -/
  bankWanted : Option Bool := none
  /-- Updates in a row that met, or failed, the observer's condition (R151). -/
  met : Nat := 0
  failed : Nat := 0
  /-- enable has been 0 since TRIPPED or PARTED was entered. -/
  sawDisable : Bool := false
  /-- A use that gives undefined results for the loop has happened since enable (R131, R140, R147). -/
  spoiled : Bool := false
  /-- The last bank request was 0b11 (R140). -/
  bankBad : Bool := false
  deriving DecidableEq, Repr, Inhabited

/-- What an entry of the plate is: free, taken with PLATE_ALLOC, linked into a hole, removed while it was due and not
fired yet, or dispatched and on its way through retirement (R84, R86, R98). -/
inductive EntryKind where
  | free | alloc | linked | leaving | retiring
  deriving DecidableEq, Repr, Inhabited

/-- One of the 2,097,152 event entries (R77, R86). -/
structure PlateEntry where
  w0 : Word := 0
  w1 : Word := 0
  w2 : Word := 0
  w3 : Word := 0
  gen : Nat := 0
  kind : EntryKind := .free
  hole : Nat := 0
  /-- Insertion order (R76, R84). -/
  order : Nat := 0
  /-- The cycle in which it last became due, plus 1 (R83). -/
  dueAt : Nat := 0
  deriving DecidableEq, Repr, Inhabited

/-- An entry that is due and has not fired (R83, R84): its partition, its due cycle, and how far its phase lies along
the step's path. -/
structure DueEntry where
  idx : Nat
  part : Nat
  cycle : Nat
  path : Nat
  order : Nat
  deriving DecidableEq, Repr, Inhabited

/-- The index plate beside its registers (spec/04). -/
structure Plate where
  entries : Tab PlateEntry := []
  nextOrder : Nat := 0
  due : List DueEntry := []
  /-- The chain member to fire next and how many are left, and the partition of the CHAIN entry (R82). -/
  chain : Option (Nat × Nat) := none
  chainPart : Nat := 0
  /-- The retirement queue (R98), oldest first. -/
  retq : List Nat := []
  /-- The cycles of the last dispatch and of the last retirement, plus 1 (R84, R98). -/
  firedAt : Nat := 0
  retiredAt : Nat := 0
  /-- The cycles in which the operations of the last 12 cycles arrived (R87, R90). -/
  ops : List Nat := []
  /-- Holes whose fetch waits (R90, R94, R97). -/
  wanted : List Nat := []
  /-- Holes whose fetch runs, holes of streamed partitions held in the near window, holes with a store write pending,
  damaged holes (R90, R94, R96). -/
  fetching : List Nat := []
  near : List Nat := []
  writing : List Nat := []
  damaged : List Nat := []
  /-- Chain entries of which both copies failed (R96). -/
  lostChain : List Nat := []
  /-- Partitions whose results are undefined (R40). -/
  spoiled : List Nat := []
  /-- Initialisation runs (R93, R101). -/
  initialising : Bool := false
  /-- The core that owns the declaration of partition n's spindle or console, if it is a core (R433). -/
  owners : Tab (Option Nat) := []
  /-- The action the dispatcher sent last: code, target, data (R79). -/
  sent : Option (Nat × Word × Word) := none
  deriving DecidableEq, Repr, Inhabited

/-- A machine check on its way to its owner: a core, or the tailstock (R433, R434). -/
structure MachineCheck where
  owner : Option Nat
  detail : Nat
  addr : Nat
  precise : Bool := false
  deriving DecidableEq, Repr, Inhabited

/-- A declaration that waits in a requester's pending set (R186). -/
structure PlDecl where
  req : Nat
  w : List Word
  deriving DecidableEq, Repr, Inhabited

/-- An admitted declaration and where it was placed (R186 to R197). -/
structure Admitted where
  kind : Nat
  key : Nat
  owner : Nat
  w : List Word
  /-- The spindle, loop context, console raster, or memory tier. -/
  place : Nat := 0
  quota : Nat := 0
  /-- Where a data region lies: its parts as tier, address and size; a region in the L2 may have several (R197). -/
  mem : List (Nat × Nat × Nat) := []
  /-- A loop's ADC and channel for each input, the sequence entries it uses, and whether a channel is its own. -/
  adcs : List (Option Nat) := []
  chans : List (Option Nat) := []
  ownChans : List Nat := []
  entries : List (Nat × Nat) := []
  gangAdc : Option Nat := none
  crossings : Nat := 0
  figure : Nat := 0
  trigger : Option Nat := none
  /-- The key of a value loop's partner in its commit (R192, R194). -/
  partner : Option Nat := none
  deriving DecidableEq, Repr, Inhabited

/-- An operation of the placement unit (R192, R199, R200): 1 commit, 2 withdraw, 3 re-place. -/
structure PlOp where
  req : Nat
  op : Nat
  decls : List PlDecl := []
  handle : Word := 0
  target : Word := 0
  deriving DecidableEq, Repr, Inhabited

/-- A loop on its way from context `old` to context `new`, and whether the quiet point has passed (R200). -/
structure PlMove where
  key : Nat
  old : Nat
  new : Nat
  quiet : Bool := false
  deriving DecidableEq, Repr, Inhabited

/-- The placement unit beside its registers (spec/08). Requesters are numbered as in R32; 21 is the field network. -/
structure Placement where
  pending : List PlDecl := []
  admitted : List Admitted := []
  ops : List PlOp := []
  move : Option PlMove := none
  deriving DecidableEq, Repr, Inhabited

/-- Memory types of an access (R258, R260). -/
inductive MemType where
  | cached | uncached | device
  deriving DecidableEq, Repr, Inhabited

/-- An entry of the store buffer: bytes by physical address, rising (R241). -/
structure StoreEntry where
  cells : List (Nat × Byte)
  mtype : MemType
  /-- The virtual address of its first store, which an imprecise bus error reports (R253). -/
  va : Word
  deriving DecidableEq, Repr, Inhabited

/-- A line of an L1 data cache (R240). -/
structure L1Line where
  addr : Nat
  data : List Byte
  dirty : Bool := false
  /-- The 8-byte words that fail detection (R432). -/
  bad : BitVec 8 := 0
  deriving DecidableEq, Repr, Inhabited

/-- A TLB entry: a page or a section of one address space, with its descriptor (R258, R259). -/
structure TlbEntry where
  va : Nat
  section_ : Bool
  asid : Nat
  desc : DWord
  deriving DecidableEq, Repr, Inhabited

/-- A load held in M until its data returns (R234, R239). -/
structure HeldLoad where
  dest : Nat
  size : Nat
  signed : Bool
  /-- Physical parts of the access, low bytes first: address, length, type. -/
  parts : List (Nat × Nat × MemType)
  /-- Its virtual address, and the base register's update (R216). -/
  va : Word
  update : Option (Nat × Word)
  /-- Set by LLW: the load sets the reservation (R218). -/
  reserve : Bool := false
  deriving DecidableEq, Repr, Inhabited

/-- A CWR on its way: instructions left in its shadow, register, value (R207). -/
structure CwrPending where
  left : Nat
  cr : Nat
  value : Word
  deriving DecidableEq, Repr, Inhabited

/-- A core: turning cores 0 to 15, and 16, the tailstock core (spec/09, spec/10). Register values that differ from
their reset value are listed. -/
structure Core where
  g : Tab Word := []
  cr : Tab Word := []
  /-- The next instruction's address, and that of the one after it. -/
  pc : Word := 0
  npc : Word := 4
  /-- The next instruction is a delay slot (R214). -/
  slot : Bool := false
  halted : Bool := false
  /-- WAIT stalls (R211). -/
  waiting : Bool := false
  /-- A loaded value that its register takes after the next instruction (R217). -/
  load : Option (Nat × Word) := none
  /-- Registers written by the instruction in progress. -/
  wrote : List Nat := []
  held : Option HeldLoad := none
  shadow : List CwrPending := []
  /-- The reserved granule (R218). -/
  resv : Option Nat := none
  sb : List StoreEntry := []
  l1d : List L1Line := []
  l1i : List Nat := []
  tlb : List TlbEntry := []
  /-- The device timer at core reset, and the shadow of CYCLE_HI (R205). -/
  cycle0 : DWord := 0
  cycleHi : Word := 0
  /-- The addresses of posted stores whose bus error has not returned yet, oldest first (R253). -/
  busErrors : List Word := []
  deriving DecidableEq, Repr, Inhabited

/-- What the interrupt controller holds for a turning core beside its registers (R266 to R268): the identifier that
waits for a claim, and the active stack, top first, as level, kind and number. -/
structure AicCore where
  frozen : Option Word := none
  stack : List (Nat × Nat × Nat) := []
  /-- Was a source presented at the end of the last cycle, and of the one before (R266)? -/
  shown : Bool := false
  shownBefore : Bool := false
  deriving DecidableEq, Repr, Inhabited

/-- A DMA channel beside its registers (R290 to R298). -/
structure DmaCh where
  /-- The eight words of the descriptor being run. -/
  desc : List Word := []
  /-- Bytes of it moved so far. -/
  moved : Nat := 0
  /-- Data read into the engine's buffer and not written yet. -/
  buf : List Byte := []
  /-- A descriptor fetch is under way. -/
  fetching : Bool := false
  /-- The pace request is asserted (R294). -/
  request : Bool := false
  /-- The outbound read whose completion is awaited: port and tag (R381). -/
  awaits : Option (Nat × Nat) := none
  /-- The state in which an engine stop found the channel (R297). -/
  stoppedIn : Nat := 0
  /-- enable has been written 0 since the channel was parted. -/
  sawDisable : Bool := false
  deriving DecidableEq, Repr, Inhabited

/-- An outbound read that a host port has accepted (R381); an abort takes its channel away. -/
structure Outbound where
  port : Nat
  tag : Nat
  chan : Option Nat
  len : Nat
  deriving DecidableEq, Repr, Inhabited

/-- A line job of the console engine (R306, R309): the context's render state as latched for it. -/
structure ConJob where
  ctx : Nat
  raster : Nat
  line : Nat
  /-- The latch cycle and the deadline. -/
  latch : Nat
  deadline : Nat
  frame : Word
  forced : Bool
  marked : Bool
  /-- CON_L_CTL, CON_L_MAP, CON_L_SCROLL, CON_L_WIN of layers 0 to 3, then CON_BACKDROP and CON_INLAY_CTL. -/
  regs : List Word
  /-- The frame's inlay table; none before the first has arrived. -/
  table : List Word
  deriving DecidableEq, Repr, Inhabited

/-- A finished line on its way into its stream queue (R317 to R319): its records, each without its sequence number,
which H0 receives as its first word enters. -/
structure ConLine where
  ctx : Nat
  line : Nat
  check : Word
  records : List (List Word)
  deriving DecidableEq, Repr, Inhabited

/-- A console context beside its registers (spec/13). -/
structure Console where
  /-- A render request waits (R308); this frame's visible lines are rendered. -/
  request : Bool := false
  render : Bool := false
  /-- Line 0 has been latched since the raster started. -/
  begun : Bool := false
  /-- Lines marked for re-render, and the check value last sent of each line (R316). -/
  marks : List Nat := []
  stored : Tab (Option Word) := []
  /-- The frame's inlay table, the one that has arrived for the next, and whether a fetch runs (R313). -/
  table : List Word := []
  next : Option (List Word) := none
  fetching : Bool := false
  /-- A misuse since enable gives undefined results (R303, R307). -/
  spoiled : Bool := false
  sawDisable : Bool := false
  deriving DecidableEq, Repr, Inhabited

/-- A stream queue (R319, R320): its words, what is left of the line that is entering with the words of the present
record first, and the backlog. -/
structure StreamQ where
  words : List Word := []
  entering : Option ConLine := none
  /-- Words of the present record still to enter; none before its first word. -/
  record : Option (List Word) := none
  backlog : List ConLine := []
  deriving DecidableEq, Repr, Inhabited

/-- An abort engine (R387, R402). -/
structure AbortEngine where
  busy : Bool := false
  kind : Nat := 0
  number : Nat := 0
  ring : Bool := false
  /-- HP_ABORT_STATUS of the dictionary's engine: done and refused. -/
  done : Bool := false
  refused : Bool := false
  deriving DecidableEq, Repr, Inhabited

/-- A host port beside its registers (R376 to R382). -/
structure HostPort where
  /-- The cycle of the last inbound request (R385). -/
  lastAt : Nat := 0
  /-- The completion of the last inbound request (the model's own): status 0 successful, 1 Unsupported Request,
  4 Completer Abort, and the words that were read. -/
  reply : Option (Nat × List Word) := none
  /-- The MSI-X table by word (an unlisted vector control word is masked), the pending bits, the function mask, and the
  vectors sent, newest first (the model's own). -/
  table : Tab Word := []
  pba : BitVec 32 := 0
  fmask : Bool := false
  vectors : List Nat := []
  /-- The PCIe Completion Timeout range (R381). -/
  timeout : Nat := 0
  deriving DecidableEq, Repr, Inhabited

/-- A dictionary request that a window has handed to the tailstock (R391, R393, R405): who (0 and 1 the ports, 2 CAN,
3 and 4 the MACs, 5 + c core c), the command word, and the offset, length and buffer as they stood at the write. -/
structure DictReq where
  who : Nat
  cmd : Word
  off : Nat
  len : Nat
  buf : Nat
  /-- Over CAN and Ethernet: the bytes carried; over CAN whether the transfer ends here; over Ethernet the peer's
  address and port, and the sequence number (R394, R395). -/
  data : List Byte := []
  last : Bool := false
  peer : Nat × Nat := (0, 0)
  seq : Nat := 0
  /-- When it arrived: requests that arrive together are served in the order of `who` (R391). -/
  time : Nat := 0
  /-- Its core has written the buffer while busy = 1 (R405). -/
  spoiled : Bool := false
  deriving DecidableEq, Repr, Inhabited

/-- A transfer that moves an object in more than one request (R391): who, index and subindex, the bytes so far. -/
structure Transfer where
  who : Nat
  index : Nat
  sub : Nat
  data : List Byte
  deriving DecidableEq, Repr, Inhabited

/-- The answer to a dictionary request: code, bytes returned, how many bytes moved, present length (R392, R393). -/
structure DictReply where
  code : Nat := 0
  bytes : List Byte := []
  moved : Nat := 0
  total : Nat := 0
  deriving DecidableEq, Repr, Inhabited

/-- The dictionary (R388 to R395). -/
structure Dict where
  /-- Requests not served yet, in order of arrival; those of ports and cores served, with their answers, and not yet
  completed (R391, R393). -/
  queue : List DictReq := []
  answered : List (DictReq × DictReply) := []
  transfers : List Transfer := []
  /-- The answer that a requester's last request given as a single command got (the model's own). -/
  replies : Tab DictReply := []
  /-- Objects that hold a value of their own and differ from their defaults, by index x 256 + subindex. -/
  vals : Tab (Option (List Byte)) := []
  /-- What the SPI NOR holds of them (R390), and whether the defaults return at the next power-on reset. -/
  stored : Tab (Option (List Byte)) := []
  loadMarked : Bool := false
  /-- The words HP_TS_MSG and TSM_MSG handed over, oldest first: 0 and 1 the ports, 5 + c core c. -/
  messages : List (Nat × Word) := []
  deriving DecidableEq, Repr, Inhabited

/-- The CANopen node (R394): NMT state, and the settings in effect. -/
structure CanNode where
  /-- 0 pre-operational, 1 operational, 2 stopped. -/
  nmt : Nat := 0
  nodeId : Nat := 32
  nominal : Nat := 500000
  dataRate : Nat := 2000000
  /-- What the node has sent, newest first (the model's own): kind (0 heartbeat, 1 EMCY, 2 TPDO, 3 USDO answer,
  4 boot-up) and content. -/
  sent : List (Nat × List Byte) := []
  /-- The cycle of each TPDO's last transmission (R394). -/
  tpdoAt : Tab Nat := []
  deriving DecidableEq, Repr, Inhabited

/-- A CAN FD controller beside its registers (R396): frames of the receive FIFO as their words, the transmit buffers
waiting, and whether the bus is stuck. -/
structure CanCtl where
  fifo : List (List Word) := []
  stuck : Bool := false
  deriving DecidableEq, Repr, Inhabited

/-- A MAC beside its registers: the responses kept per peer address and port (R395), newest first, as sequence number
and datagram; and the requests of the present second. -/
structure Mac where
  kept : List ((Nat × Nat) × List (Nat × List Byte)) := []
  second : Nat := 0
  count : Nat := 0
  /-- The datagrams sent, newest first (the model's own). -/
  sent : List (List Byte) := []
  deriving DecidableEq, Repr, Inhabited

/-- The 2D mover beside its registers (spec/15): jobs as number and 18 words. -/
structure Mover where
  queue : List (Nat × List Word) := []
  job : Option (Nat × List Word) := none
  nextNumber : Nat := 0
  sawDisable : Bool := false
  /-- Source bytes of the running job that an overlapping write of it has replaced: address and byte before (R355). -/
  kept : List (Nat × Byte) := []
  deriving DecidableEq, Repr, Inhabited

/-- A layer's part of the scan-out buffer (R340): bytes in it at a time, and its share. -/
structure LayerBuf where
  fill : Nat := 0
  filledAt : Nat := 0
  share : Nat := 0
  deriving DecidableEq, Repr, Inhabited

/-- A display head beside its registers (spec/14). -/
structure Head where
  /-- enable has been written; the video PLL is locking. -/
  locking : Bool := false
  /-- Frames in a row without a reason to leave, or not to enter, self-refresh (R343). -/
  idleFrames : Nat := 0
  /-- A commit has been latched since self-refresh was entered: the panel is updated whole (R343). -/
  wholeUpdate : Bool := false
  /-- The panel's capabilities, as link training found them: PSR, selective update, its line granularity. -/
  psrCap : Bool := false
  suCap : Bool := false
  suGran : Nat := 1
  /-- The AUX transaction in flight, and its retries (R345, R346). -/
  aux : Option Word := none
  auxTries : Nat := 0
  auxDefers : Nat := 0
  bufs : Tab LayerBuf := []
  /-- Pixels of the present frame drawn in HD_FILL: layer, line, first, end (R341). -/
  fills : List (Nat × Nat × Nat × Nat) := []
  deriving DecidableEq, Repr, Inhabited

/-- A voice beside its registers (R363): stage as VC_STATUS has it, place in the sample in 2^-24 samples from its start,
envelope level in 2^-24, and the envelope segment: its first and last level, its length and how far it has come. -/
structure Voice where
  stage : Nat := 0
  place : Nat := 0
  level : Nat := 0
  first : Nat := 0
  last : Nat := 0
  len : Nat := 0
  done : Nat := 0
  /-- Its last sample, in Q9.23. -/
  out : Int := 0
  deriving DecidableEq, Repr, Inhabited

/-- A route's instance (R367, R368): source, bus, and a linear gain ramp of `len` samples in UQ4.12. -/
structure RtInst where
  kind : Nat
  src : Nat
  bus : Nat
  first : Nat
  last : Nat
  len : Nat
  done : Nat := 0
  deriving DecidableEq, Repr, Inhabited

/-- A route (R367, R368, R372): its instance, the one that fades out, and whether it is on its way to being released. -/
structure Route where
  inst : Option RtInst := none
  fade : Option RtInst := none
  releasing : Bool := false
  parted : Bool := false
  sawDisable : Bool := false
  deriving DecidableEq, Repr, Inhabited

/-- A meter (R370): samples since the peak rose, and the running window of the mean square. -/
structure Meter where
  age : Nat := 0
  sum : Nat := 0
  count : Nat := 0
  deriving DecidableEq, Repr, Inhabited

/-- An output beside its registers (R369, R372). -/
structure AudOut where
  /-- The last samples of its bus, newest first, at most 33. -/
  line : List Int := []
  /-- Samples until the limiter's gain is back at 1. -/
  hot : Nat := 0
  /-- The present sample, and the one before, which its TDM slot sends (R371). -/
  value : Int := 0
  before : Int := 0
  meter : Meter := {}
  parted : Bool := false
  sawDisable : Bool := false
  deriving DecidableEq, Repr, Inhabited

/-- A bus beside its registers: the present sum and its meter (R369, R370). -/
structure AudBus where
  sum : Int := 0
  meter : Meter := {}
  deriving DecidableEq, Repr, Inhabited

/-- The audio block beside its registers (spec/16). -/
structure Audio where
  voices : Tab Voice := []
  /-- PDM samples, the two stages of a TDM input slot (port 16 + slot), and carrier samples, in Q9.23. -/
  pdm : Tab Int := []
  tdm1 : Tab Int := []
  tdm2 : Tab Int := []
  carrier : Tab Int := []
  /-- A PDM clock group is lost; samples of it still to be discarded (R364). -/
  pdmLost : BitVec 4 := 0
  pdmDiscard : Tab Nat := []
  /-- A slave TDM port has lost its frame (R365). -/
  tdmLost : BitVec 4 := 0
  routes : Tab Route := []
  buses : Tab AudBus := []
  outs : Tab AudOut := []
  queues : Tab (List Word) := []
  /-- The carrier domain is lost; in-range periods in a row; the last qualifying event (R361). -/
  carLost : Bool := false
  good : Nat := 0
  lastEvent : Option Nat := none
  /-- Samples by which the bridges out of the carrier domain stand below full, per destination domain (R361). -/
  duck : Tab Nat := []
  deriving DecidableEq, Repr, Inhabited

/-- A check-value unit beside its registers (R437 to R440): queued entries as kind (0, 1 and 2 the data words of 1, 2
and 4 bytes, 3 CV_INIT, 4 CV_ALIVE_IN, 5 CV_CHECK) with low and high word; the staged high words; the alive
reference. -/
structure CvUnit where
  queue : List (Nat × Word × Word) := []
  checkHi : Word := 0
  stateHi : Option Word := none
  ref : Option Nat := none
  deriving DecidableEq, Repr, Inhabited

/-- One copy of the boot record (R413): the active slots (0 A, 1 B), the trial (0 none, 1 tailstock, 2 core), its
attempts, the last confirmed security version. -/
structure BootRec where
  seq : Nat := 0
  tsSlot : Nat := 0
  coreSlot : Nat := 0
  trial : Nat := 0
  attempts : Nat := 0
  version : Nat := 0
  deriving DecidableEq, Repr, Inhabited

/-- A sensor beside its registers (R406, R407): samples in a row outside and inside its warning and its alarm window,
at or above 125 degrees, and below 115 degrees; whether it stands in warning and in alarm. -/
structure Sensor where
  warnOut : Nat := 0
  warnIn : Nat := 0
  alarmOut : Nat := 0
  alarmIn : Nat := 0
  hot : Nat := 0
  cool : Nat := 0
  warn : Bool := false
  alarm : Bool := false
  /-- It holds the core domain by action 2 (R406); it has delivered a conversion and is not marked invalid (R407). -/
  holds : Bool := false
  seen : Bool := false
  deriving DecidableEq, Repr, Inhabited

/-- The tailstock's own state (spec/18). -/
structure Sec where
  /-- OTP words (R412), and the bit that is being blown (R428). -/
  otp : Tab Word := []
  otpTarget : Option (Nat × Nat) := none
  /-- The two copies of the boot record (R413). -/
  record0 : Option BootRec := none
  record1 : Option BootRec := none
  /-- The SPI NOR does not answer (R413). -/
  norAbsent : Bool := false
  /-- Result of the last verification of a slot since its last write (0, 1 tailstock A, B; 2, 3 core A, B), the last
  result, and the blocks of a slot that a transfer has erased (R418, R419). -/
  verified : Tab (Option Nat) := []
  lastResult : Nat := 0
  erased : List Nat := []
  /-- The tailstock slot that runs, and the core slot that has been released (R416, R461). -/
  runSlot : Nat := 0
  coreRun : Option Nat := none
  /-- Security version and body digest of the tailstock image that runs and of the core image released last (R418,
  R421). -/
  tsImage : Option (Nat × List Byte) := none
  coreImage : Option (Nat × List Byte) := none
  /-- Why the ROM is in recovery (R417): 1 lifecycle, 2 slots, 3 tamper, 4 no NOR. -/
  recovery : Nat := 0
  /-- The times of the last tamper resets (R417). -/
  tampers : List Nat := []
  /-- A TRNG test fails, and samples passed since (R425). -/
  trngBad : Bool := false
  /-- The keys in the engines (R424). -/
  keys : Bool := false
  /-- Nonce and last quote of each requester class (R422). -/
  nonces : Tab (List Byte) := []
  quotes : Tab (List Byte) := []
  /-- The debug challenge, how many have been issued, the requested level and the unlock level (R423). -/
  challenge : Option (List Byte) := none
  challenges : Word := 0
  wanted : Nat := 1
  unlock : Nat := 0
  sensors : Tab Sensor := []
  /-- The telemetry page's counter (R426), and the values of the last refresh by sensor. -/
  telemetry : Word := 0
  values : Tab Word := []
  deriving DecidableEq, Repr, Inhabited

/-- Why a run stops for good. -/
inductive Fault where
  /-- Raised by no meaning: every case the spec leaves without an effect is one command's refusal (safe). -/
  | impossible
  deriving DecidableEq, Repr, Inhabited

/-- Why a command is turned away. -/
inductive Refusal where
  /-- Raised by an arm of `exec` whose command has no meaning yet (safe). -/
  | notModelled (mnemonic : String)
  deriving DecidableEq, Repr, Inhabited

/-- What the model notes of the present FCLK cycle, for the rules of R33 about a software access and a hardware update of
one field in one cycle; a tick empties it (the model's own). -/
structure CycleNotes where
  /-- By register: status bits that hardware has set in this cycle. -/
  hwSet : Tab Word := []
  /-- By read-clear register that hardware has raised in this cycle: its value before, and what it would hold had it
  stood at zero. -/
  raised : Tab (Option (Word × Word)) := []
  /-- By register that software has written in this cycle: the value before. -/
  wrote : Tab (Option Word) := []
  deriving DecidableEq, Repr, Inhabited

structure State where
  /-- The commands that wait, first in, first out. -/
  pending : List Instr := []
  /-- The model's own: how many free values have been taken (the reset value is a design choice). -/
  freeCtr : Nat := 0
  cyc : CycleNotes := {}
  /-- By source of a trigger, the cycle of its last event plus 1: compare event line q at q, the period event of group g
  at 0x400 + g, comparator k becoming active at 0x800 + k, the index of encoder interface k at 0xC00 + k (R60, R62,
  R161; the model's own). -/
  pulses : Tab Nat := []
  /-- The model's own: the time since reset in periods of 1/1.5 GHz. -/
  now : Nat := 0
  /-- The device timer (R34). -/
  devTimer : DWord := 0
  /-- Every register of the device region, keyed by its offset; a copy per requester is keyed above 2^32. -/
  regs : Tab Word := []
  /-- The word that each requester's last read returned, keyed by requester (the model's own). -/
  resp : Tab Word := []
  /-- The read-latch shadows, keyed by requester and block (R34). -/
  shadow : Tab Word := []
  sys : Sys := {}
  log : EventLog := {}
  spindles : Tab Spindle := []
  /-- Filtered levels of encoder interface k: A + 2 B + 4 I (R46, R47). -/
  encoders : Tab Nat := []
  /-- By input 3 k + i of encoder interface k, the cycle in which its level last changed, plus 1 (R46). -/
  encSince : Tab Nat := []
  timers : Tab GenTimer := []
  /-- The IEEE 1588 clock of MAC m in units of 2^-32/3 ns, and at 2 j + m its value j cycles before (R58, R59, R396). -/
  ptp : Tab Nat := []
  adcs : Tab Adc := []
  channels : Tab Channel := []
  comparators : Tab Comparator := []
  demods : Tab SigmaDelta := []
  sectors : Tab Sector := []
  pairs : Tab PwmPair := []
  groups : Tab PwmGroup := []
  /-- TRIP_IN pins asserted past their path (R169), and TRIP_ALL_N (R172). -/
  tripPins : BitVec 12 := 0
  /-- Levels past the path of a zone with pin_filt = k: bit 2 z + i for zone z and pin 2 s + i of its sector (R170). -/
  zonePins : BitVec 96 := 0
  tripAll : Bool := false
  plate : Plate := {}
  loops : Tab LoopCtx := []
  place : Placement := {}
  cores : Tab Core := []
  aic : Tab AicCore := []
  dma : Tab DmaCh := []
  /-- The channel served last (R291), and the outbound reads in flight (R381). -/
  dmaLast : Nat := 63
  outbound : List Outbound := []
  /-- What the last posted write of host port p carried out of the chip: address and bytes (R290). -/
  posted : Tab (Nat × List Byte) := []
  consoles : Tab Console := []
  /-- Released line jobs that no pipe has started, and the job in each of the 16 pipes (R309). -/
  conJobs : List ConJob := []
  pipes : Tab (Option ConJob) := []
  streams : Tab StreamQ := []
  /-- Head lines on which live-console lines were written since the head's last latch (R343). -/
  liveLines : List (Nat × Nat) := []
  /-- The composer's active copies of frame-class and mode registers, by offset (R330). -/
  active : Tab Word := []
  mover : Mover := {}
  heads : Tab Head := []
  audio : Audio := {}
  /-- The detected supply of each bank (R445), two bits a bank, absent at reset. -/
  bankSupply : Word := 0
  /-- The level that a pin's keeper holds after a switch (R450). -/
  keepers : Tab (Option Bool) := []
  sec : Sec := {}
  cvs : Tab CvUnit := []
  hosts : Tab HostPort := []
  dict : Dict := {}
  canNode : CanNode := {}
  cans : Tab CanCtl := []
  macs : Tab Mac := []
  /-- The abort engines: port A, port B, the dictionary (R387). -/
  aborts : Tab AbortEngine := []
  /-- The IOTLB: stream and entry, oldest first (R288). -/
  iotlb : List (Nat × TlbEntry) := []
  /-- The owner that a scratch bank still serves while its change waits (R280). -/
  sbOld : Tab (Option (Nat × Nat)) := []
  /-- Repeats of the present DRAM training step (R285), and whether the refresh runs at four times its rate. -/
  trainTries : Nat := 0
  refreshFast : Bool := false
  /-- The temperature code read last (R285). -/
  dramTemp : Nat := 0
  /-- The words in the receive queue (2 m) and the transmit queue (2 m + 1) of MAC m (R396). -/
  macQueues : Tab (List Word) := []
  /-- HPA_BUSY_N and HPB_BUSY_N are driven low (R283). -/
  busyPins : BitVec 2 := 0
  /-- The tailstock source claimed and not completed (R272). -/
  tsClaimed : Option Nat := none
  /-- Memory by physical address, with the tailstock's own view above 2^40 (R22): addresses rise, no zero byte is
  listed; a byte that nothing has written reads as zero (a design choice). -/
  mem : List Host.Cell := []
  /-- The SPI NOR, by its address; an unlisted byte is erased, 0xFF (R413). -/
  nor : List Host.Cell := []
  /-- First addresses of the poisoned units of memory (R431). -/
  poison : List Nat := []
  /-- Machine checks not delivered yet, oldest first (R434). -/
  checks : List MachineCheck := []
  deriving DecidableEq, Repr, Inhabited

/-- The machine right after reset: every field at the default its declaration gives. -/
def State.reset : State := {}

end Sys2Proof.Machine
end

