-- ==== Sys2Proof/Machine/Ops.lean ====
section
/-! DEFINITION. The named operations that the meanings share: reading and writing registers, free values, powered
islands, interrupt sources and the event log. -/

namespace Sys2Proof.Machine

/-- What a command answers. -/
abbrev Out := Host.Outcome State Fault Refusal

/-! ### Registers -/

/-- A requester's place in the order of R32. -/
def reqIdx : Requester → Nat
  | .tailstock => 0
  | .portA => 1
  | .portB => 2
  | .core n => 3 + n.val
  | .dma => 19
  | .debug => 20

/-- The key of requester `q`'s own copy of the register at `a` (R88, R186, R352, R367). -/
def ownKey (q : Requester) (a : Nat) : Nat := a + (reqIdx q + 1) * 0x100000000

/-- The reset value of the register under a key. -/
def resetKey (k : Nat) : Word := resetOf (k % 0x100000000)

/-- The value a register holds. -/
def State.reg (s : State) (a : Nat) : Word := tabGet (resetKey a) a s.regs

/-- The state with a register holding `v`. -/
def State.setReg (s : State) (a : Nat) (v : Word) : State := { s with regs := tabSet (resetKey a) a v s.regs }

/-- The field [h:l] of a register. -/
def State.fld (s : State) (a h l : Nat) : Nat := fieldOf (s.reg a) h l

/-- Bit `i` of a register. -/
def State.bit (s : State) (a i : Nat) : Bool := bitAt (s.reg a) i

/-- The state with the field [h:l] of a register replaced. -/
def State.setFld (s : State) (a h l v : Nat) : State := s.setReg a (withField (s.reg a) h l v)

/-- The state with bit `i` of a register set to `b`. -/
def State.setBit (s : State) (a i : Nat) (b : Bool) : State := s.setReg a (withBit (s.reg a) i b)

/-- The state in which requester `q`'s read has returned `v`. -/
def answer (q : Requester) (v : Word) (s : State) : State := { s with resp := tabSet 0 (reqIdx q) v s.resp }

/-- A read of a register that acts answers the word of the action. -/
def answerWith (q : Requester) (r : Word × State) : State := answer q r.1 r.2

/-- The word that requester `q`'s last read returned. -/
def State.answered (s : State) (q : Requester) : Word := tabGet 0 (reqIdx q) s.resp

/-- A counter register raised by `k`, stopping at `top`. -/
def countUp (a k top : Nat) (s : State) : State := s.setReg a (toWord (satNat top ((s.reg a).toNat + k)))

/-- A counter field [h:l] raised by one, stopping at its largest value. -/
def countUpFld (a h l : Nat) (s : State) : State := s.setFld a h l (satNat (2 ^ (h + 1 - l) - 1) (s.fld a h l + 1))

/-- Hardware raises a read-clear register from `now` to `next`, which would be `fresh` had it stood at zero: the cycle's
notes keep what a read in this cycle returns, and what it leaves (R33). -/
def rcNote (a : Nat) (next : Word) (fresh : Word → Word) (s : State) : State :=
  let old := (tabGet none a s.cyc.raised).getD (s.reg a, 0)
  { s with cyc := { s.cyc with raised := tabSet none a (some (old.1, fresh old.2)) s.cyc.raised } }.setReg a next

/-- A read-clear counter raised by `k`, stopping at `top` (R33). -/
def rcUp (a k top : Nat) (s : State) : State :=
  let up : Word → Word := fun w => toWord (satNat top (w.toNat + k))
  rcNote a (up (s.reg a)) up s

/-- A field [h:l] of a read-clear register raised by `k`, stopping at its largest value (R33). -/
def rcUpFld (a h l k : Nat) (s : State) : State :=
  let up : Word → Word := fun w => withField w h l (satNat (2 ^ (h + 1 - l) - 1) (fieldOf w h l + k))
  rcNote a (up (s.reg a)) up s

/-- Bits of a read-clear register set (R33). -/
def rcSet (a : Nat) (bits : Word) (s : State) : State := rcNote a (s.reg a ||| bits) (fun w => w ||| bits) s

/-- A read-clear register raised to at least `v` (R33, R83). -/
def rcMax (a : Nat) (v : Word) (s : State) : State :=
  let up : Word → Word := fun w => if w.toNat < v.toNat then v else w
  rcNote a (up (s.reg a)) up s

/-- A read that clears: it returns the value, or, where hardware has raised the register in this cycle, the value before,
and what hardware raised stays (R10, R33). -/
def rcRead (a : Nat) (s : State) : Word × State :=
  match tabGet none a s.cyc.raised with
  | some o => (o.1, { s with cyc := { s.cyc with raised := tabSet none a (some (0, o.2)) s.cyc.raised } }.setReg a o.2)
  | none => (s.reg a, s.setReg a 0)

/-- Software has written the register at `a` in this cycle: a load point of the same cycle takes the value before (R33). -/
def noteWrote (a : Nat) (s : State) : State :=
  let old := (tabGet none a s.cyc.wrote).getD (s.reg a)
  { s with cyc := { s.cyc with wrote := tabSet none a (some old) s.cyc.wrote } }

/-- The value of a register that a load point in this cycle takes (R33). -/
def State.loaded (s : State) (a : Nat) : Word := (tabGet none a s.cyc.wrote).getD (s.reg a)

/-- Has software written the register in this cycle? -/
def State.wroteNow (s : State) (a : Nat) : Bool := (tabGet none a s.cyc.wrote).isSome

/-- The bits of a status register that hardware has set in this cycle, which a W1C write leaves set (R33). -/
def State.setNow (s : State) (a : Nat) : Word := tabGet 0 a s.cyc.hwSet

/-- Hardware sets status bits: a W1C write of the same cycle does not clear them (R33). -/
def noteSet (a : Nat) (bits : Word) (s : State) : State :=
  { s with cyc := { s.cyc with hwSet := tabSet 0 a (s.setNow a ||| bits) s.cyc.hwSet } }

/-- An event sets one such bit. -/
def setEvent (a b : Nat) (s : State) : State := noteSet a (oneBit b) (s.setBit a b true)

/-- The source `k` of triggers has an event in this cycle (R60, R62, R161). -/
def notePulse (k : Nat) (s : State) : State := { s with pulses := tabSet 0 k (s.now + 1) s.pulses }

/-- Has source `k` had an event in this cycle or in one of the `n` before it? -/
def State.pulsed (s : State) (k n : Nat) : Bool :=
  let t := tabGet 0 k s.pulses
  decide (t ≠ 0) && decide (s.now < t + n)

/-- The keys of `pulses`: a compare event line, a group's period event, a comparator that becomes active, an index,
a trigger that ADC `n` starts or queues from entry `e`. -/
def linePulse (q : Nat) : Nat := q
def periodPulse (g : Nat) : Nat := 0x400 + g
def comparatorPulse (k : Nat) : Nat := 0x800 + k
def indexPulse (k : Nat) : Nat := 0xC00 + k
def adcPulse (n e : Nat) : Nat := 0x1000 + 64 * n + e

/-- A register raised by `k` modulo 2^32. -/
def countWrap (a k : Nat) (s : State) : State := s.setReg a (s.reg a + toWord k)

/-! ### Free values -/

/-- A value the spec leaves open, and the state that has used it (log entry 1). -/
def takeFree (w : Nat) (s : State) : BitVec w × State :=
  (Config.freeValue w s.freeCtr, { s with freeCtr := s.freeCtr + 1 })

/-- A register left at a value the spec leaves open. -/
def freeReg (a : Nat) (s : State) : State := (takeFree 32 s).2.setReg a (takeFree 32 s).1

/-- A state of which nothing is known: the source of a unit's state whose results are undefined (R40, log entry 1). -/
opaque Config.freeState : Nat → State

/-- Such a state, and the state that has used it. -/
def takeState (s : State) : State × State := (Config.freeState s.freeCtr, { s with freeCtr := s.freeCtr + 1 })

/-- A table whose entries at the keys that `p` picks are those of `u`, in place of its own. -/
def tabMix {α : Type} [DecidableEq α] (d : Nat → α) (p : Nat → Bool) (t u : Tab α) : Tab α :=
  (u.filter fun x => p x.1).foldl (fun r x => tabSet (d x.1) x.1 x.2 r) (t.filter fun x => !p x.1)

/-- The keys lo to hi - 1. -/
def keysIn (lo hi k : Nat) : Bool := decide (lo ≤ k) && decide (k < hi)

/-- May undefined results show in the register under key `k`: does it hold what hardware writes, not what software has
stored there (R39, R40)? -/
def resultReg (k : Nat) : Bool :=
  match regRow? (k % 0x100000000) with
  | some row => decide (row.rw = 0)
  | none => false

/-- Undefined results in the registers that `p` picks, from the state `u`. -/
def spoilRegs (p : Nat → Bool) (u s : State) : State :=
  { s with regs := tabMix resetKey (fun k => p k && resultReg k) s.regs u.regs }

/-! ### What is present and powered (R2, R3, R14, R19, R24) -/

/-- Does FCLK run, so that the core domain works (R18, R460)? -/
def State.fclkOn (s : State) : Bool := s.sys.powerGood && s.sys.fclk

/-- Sectors of the part (R2). -/
def sectorCount : Variant → Nat
  | .vl8860 => 6
  | .vl8830 => 3

/-- Turning cores of the part (R2). -/
def coreCount : Variant → Nat
  | .vl8860 => 16
  | .vl8830 => 8

/-- Does sector `k` work: present, its island on, FCLK running? -/
def State.sectorOn (s : State) (k : Nat) : Bool :=
  s.fclkOn && decide (k < sectorCount s.sys.variant) && s.sys.sectorIslands.getLsbD k

/-- Does the media island work? -/
def State.mediaOn (s : State) : Bool := s.fclkOn && s.sys.mediaIsland

/-- Does core `n`'s island work? -/
def State.coreOn (s : State) (n : Nat) : Bool :=
  s.fclkOn && decide (n < coreCount s.sys.variant) && s.sys.coreIslands.getLsbD n

/-- Is the composer with its display heads present and powered (R2)? -/
def State.composerOn (s : State) : Bool := s.mediaOn && decide (s.sys.variant = .vl8860)

/-- Does the tailstock's firmware run? -/
def State.firmwareOn (s : State) : Bool := s.sys.powerGood && decide (s.sys.phase = .firmware)

/-- Does DRAM serve: supplied, its PLL locked, trained (R18, R19, R285)? -/
def State.dramOn (s : State) : Bool := s.fclkOn && s.sys.ddr && s.sys.dramPll && s.bit Reg.MC_STATUS 31

/-- The identity mirror, the clock-monitor status (bit n set: clock n is lost) and the power-island status of the global
control block (R23), and its island-off bits: cores in [15:0], sectors in [21:16], the media island in [22] (R24). The
spec gives these registers no offset, so no read reaches them (log entry 11). -/
def State.identityMirror (s : State) : Word := if s.sys.variant = .vl8860 then 0x8860 else 0x8830
def State.clockStatus (s : State) : BitVec 8 := s.sys.clocksLost
def State.islandStatus (s : State) : BitVec 23 := BitVec.ofBool s.sys.mediaIsland ++ s.sys.sectorIslands ++ s.sys.coreIslands
def State.islandOff (s : State) : BitVec 23 := ~~~s.islandStatus

/-- Does an abort of this function run (R387, R465)? -/
def State.aborting (s : State) (kind number : Nat) : Bool :=
  s.aborts.any fun x => x.2.busy && decide (x.2.kind = kind) && decide (x.2.number = number)

/-- A write of a function's control register while its abort runs leaves the enable bit as it is (R465). -/
def State.keepEnable (s : State) (kind number a : Nat) (v : Word) : Word :=
  if s.aborting kind number then withBit v 31 (s.bit a 31) else v

/-! ### OTP (R412) -/

/-- The words that the maker has blown: the product code (R4, R412, log entry 9). -/
def State.otpMade (s : State) (w : Nat) : Word := if w = 1 then s.identityMirror else 0

/-- A word of the OTP. -/
def State.otpWord (s : State) (w : Nat) : Word := tabGet (s.otpMade w) w s.sec.otp

/-! ### Pin functions (R446 to R450, R484) -/

/-- PIN_CFG.func of pin `n` (R447). -/
def State.pinFunc (s : State) (n : Nat) : Nat := s.fld (Reg.PIN_CFG n) 31 29

/-- Does a peripheral take its input from pin `n` through this function: selected, its bank supplied, no conflict? -/
def State.inputLive (s : State) (n func : Nat) : Bool :=
  decide (s.pinFunc n = func) && decide (fieldOf s.bankSupply (2 * (n / 16) + 1) (2 * (n / 16)) ≠ 0) &&
    !s.bit (Reg.PIN_CFG n) 9

/-! ### Memory (R8, R22, R431) -/

/-- The byte at a physical address. -/
def State.byte (s : State) (a : Nat) : Byte := tabGet 0 a s.mem

/-- The state with one byte of memory written; the memory keeps its one form. -/
def State.setByte (s : State) (a : Nat) (v : Byte) : State := { s with mem := tabSet 0 a v s.mem }

/-- The address from which the tailstock's own SRAM and boot ROM are held (R22). -/
def tsBase : Nat := 0x10000000000

/-- Does the memory keep its one form: addresses rising, no byte listed that an unlisted address reads as? -/
abbrev Memory.wf (m : List Host.Cell) : Prop := tabWf (fun _ => (0 : Byte)) m = true

/-- The size of the unit that carries one detection code: a 64-byte line of DRAM, 8 bytes of an SRAM (R429 to R431). -/
def unitSize (a : Nat) : Nat := if 0x0800000000 ≤ a ∧ a < 0x1000000000 then 64 else 8

/-- The first address of the unit that holds `a`. -/
def unitOf (a : Nat) : Nat := a / unitSize a * unitSize a

/-- Is the unit that holds `a` poisoned (R431)? -/
def State.poisoned (s : State) (a : Nat) : Bool := s.poison.contains (unitOf a)

/-- The units that an access to `n` bytes from `a` touches. -/
def unitsTouched (a n : Nat) : List Nat := ((List.range n).map fun i => unitOf (a + i)).dedup

/-- Does any unit of the access fail detection? -/
def State.readsPoison (s : State) (a n : Nat) : Bool := (unitsTouched a n).any s.poison.contains

/-- Bytes from address `a` on. -/
def State.bytes (s : State) (a : Nat) : Nat → List Byte
  | 0 => []
  | n + 1 => s.byte a :: s.bytes (a + 1) n

/-- Bytes written from address `a` on, without regard to poison. -/
def State.putBytes (s : State) (a : Nat) : List Byte → State
  | [] => s
  | b :: bs => (s.setByte a b).putBytes (a + 1) bs

/-- A write of bytes: a poisoned unit that the write covers entirely is whole again; a partial write leaves it
poisoned (R431). -/
def State.store (s : State) (a : Nat) (bs : List Byte) : State :=
  let s1 := s.putBytes a bs
  { s1 with poison := s1.poison.filter fun u => !(decide (a ≤ u) && decide (u + unitSize u ≤ a + bs.length)) }

/-- The little-endian number in `n` bytes at `a` (R8). -/
def State.load (s : State) (a n : Nat) : Nat := ofLeBytes (s.bytes a n)

/-- The word at `a` (R8). -/
def State.word (s : State) (a : Nat) : Word := toWord (s.load a 4)

/-- A unit is poisoned (R431). -/
def poisonUnit (a : Nat) (s : State) : State :=
  { s with poison := if s.poison.contains (unitOf a) then s.poison else unitOf a :: s.poison }

/-- A byte of the SPI NOR; erased bytes read 0xFF. -/
def State.norByte (s : State) (a : Nat) : Byte := tabGet 0xFF a s.nor
def State.setNorByte (s : State) (a : Nat) (v : Byte) : State := { s with nor := tabSet 0xFF a v s.nor }

def State.norBytes (s : State) (a : Nat) : Nat → List Byte
  | 0 => []
  | n + 1 => s.norByte a :: s.norBytes (a + 1) n

/-- Programming clears bits: a programmed byte is the AND of what stood there and what is written. -/
def State.norProgram (s : State) (a : Nat) : List Byte → State
  | [] => s
  | b :: bs => (s.setNorByte a (s.norByte a &&& b)).norProgram (a + 1) bs

/-- Erase a block: its bytes are unlisted. -/
def State.norErase (s : State) (a n : Nat) : State :=
  { s with nor := s.nor.filter fun c => !(decide (a ≤ c.1) && decide (c.1 < a + n)) }

/-- A machine check is on its way to its owner (R433, R434). -/
def postCheck (owner : Option Nat) (detail addr : Nat) (s : State) : State :=
  { s with checks := s.checks ++ [{ owner := owner, detail := detail, addr := addr }] }

/-- A failure handled without a machine check is counted (R441). -/
def countDetect (s : State) : State := rcUp Reg.INT_DETECTS 1 0xFFFFFFFF s

/-- A read of a poisoned unit is counted (R431, R441). -/
def countPoisoned (s : State) : State := rcUp Reg.INT_POISONED 1 0xFFFFFFFF s

/-! ### Interrupt sources (R262 to R264, R271 to R273) -/

/-- A shared source has become pending or been rung: if its group is held, the group counts it (R271). -/
def noteDeferred (src : Nat) (s : State) : State :=
  let g := s.fld (Reg.AIC_SRC src) 14 8
  if s.bit (Reg.AIC_SRC src) 15 && s.bit (Reg.AIC_GRP_STAT g) 31 then countUpFld (Reg.AIC_GRP_STAT g) 7 0 s else s

/-- The same for private source `p` of core `c`. -/
def noteDeferredPriv (c p : Nat) (s : State) : State :=
  let a := Reg.AIC_PRIV c p
  let g := s.fld a 14 8
  if s.bit a 15 && s.bit (Reg.AIC_GRP_STAT g) 31 then countUpFld (Reg.AIC_GRP_STAT g) 7 0 s else s

/-- Ring shared source `src`: its doorbell latch is set; a claim in the same cycle does not clear it (R264, R270). -/
def ringShared (src : Nat) (s : State) : State :=
  noteDeferred src (noteSet (Reg.AIC_SRC src) (oneBit 29) (s.setBit (Reg.AIC_SRC src) 29 true))

/-- Ring private source `p` of core `c` (R264). -/
def ringPrivate (c p : Nat) (s : State) : State :=
  noteDeferredPriv c p (noteSet (Reg.AIC_PRIV c p) (oneBit 29) (s.setBit (Reg.AIC_PRIV c p) 29 true))

/-- Raise tailstock source `k` (R272, R273). -/
def raiseTs (k : Nat) (s : State) : State := s.setBit (Reg.TS_IRQ_PEND (k / 32)) (k % 32) true

/-- Events set `bits` of the status register at `st`, whose line of shared source `src` is enabled by the register
at `en`: the line is the level of their AND (R263), and a rising line is a source that becomes pending (R271). -/
def raiseStatus (st en src : Nat) (bits : Word) (s : State) : State :=
  let old := s.reg st
  let s1 := noteSet st bits (s.setReg st (old ||| bits))
  if old &&& s.reg en = 0 ∧ (old ||| bits) &&& s.reg en ≠ 0 then noteDeferred src s1 else s1

/-! ### The event log (R408, R409) -/

/-- Keep the newest 1,024 entries; where all of them are unwritten, the oldest unwritten one is lost (R409). -/
def ringPush (e : LogEntry) (l : EventLog) : EventLog :=
  let lost : Bool := decide (1024 ≤ l.unwritten)
  { l with
    ring := (l.ring ++ [e]).drop (l.ring.length + 1 - 1024)
    unwritten := if lost then l.unwritten else l.unwritten + 1
    discarded := if lost then l.discarded + 1 else l.discarded
    lossWaiting := if lost then l.lossWaiting + 1 else l.lossWaiting
    nextSeq := l.nextSeq + 1 }

/-- One second in periods of 1/1.5 GHz. -/
def second : Nat := 1500000000

/-- Is the newest entry one of this unit and code that arrived within the last second (R409)? -/
def logRepeats (unit code : Nat) (s : State) : Bool :=
  match s.log.ring.getLast? with
  | some e => decide (e.unit = unit ∧ e.code = code ∧ s.now < s.log.lastAt + second)
  | none => false

/-- The newest entry with its repeat count raised, stopping at 0xFFFF_FFFF (R409). -/
def repeatLast : List LogEntry → List LogEntry
  | [] => []
  | [e] => [{ e with rep := toWord (satNat 0xFFFFFFFF (e.rep.toNat + 1)) }]
  | e :: e' :: r => e :: repeatLast (e' :: r)

/-- May CAN controller 0 send: enabled, not in bus-off, its bus not stuck, TCLK from its PLL (R396)? -/
def State.canSends (s : State) (c : Nat) : Bool :=
  s.sys.powerGood && !s.sys.tclkOnRc && s.bit (Reg.CAN_CTL c) 31 && decide (s.fld (Reg.CAN_STATUS c) 31 30 ≠ 2) &&
    !(tabGet {} c s.cans).stuck

/-- What the CANopen node sends: kind and content. -/
def nodeSend (kind : Nat) (bs : List Byte) (s : State) : State :=
  { s with canNode := { s.canNode with sent := (kind, bs) :: s.canNode.sent } }

/-- An error-class log entry produces an EMCY message, whose content is open (R394). -/
def emcy (cls : Nat) (s : State) : State :=
  if decide (cls = 2) && s.canSends 0 && decide (s.canNode.nmt ≠ 2) then
    let f := takeFree 64 s
    nodeSend 1 (leBytes 8 f.1.toNat) f.2
  else s

/-- An event writes a log entry, or raises the newest entry's repeat count; above 768 unwritten entries tailstock
source 26 is raised (R408, R409). -/
def logEvent (cls unit code : Nat) (payload : List Byte) (s : State) : State :=
  if logRepeats unit code s then
    { s with log := { s.log with ring := repeatLast s.log.ring, lastAt := s.now } }
  else
    let e : LogEntry :=
      { seq := s.log.nextSeq, cls := cls, unit := unit, code := code
        time := if s.fclkOn then s.devTimer else 0
        boot := s.log.bootCount, rep := 1, payload := payload }
    let l := ringPush e s.log
    let s1 := emcy cls { s with log := { l with lastAt := s.now } }
    if 768 < l.unwritten then raiseTs 26 s1 else s1

/-- The events whose log entries have no code in the spec. -/
def evGlobalTrip : Nat := 1
def evCalFailure : Nat := 2
def evTraining : Nat := 3
def evClock : Nat := 4
def evStartUp : Nat := 6
def evSensor : Nat := 7
def evTamper : Nat := 8
def evTrng : Nat := 9
def evImage : Nat := 10
def evJournal : Nat := 11
def evDebug : Nat := 12
def evMachineCheck : Nat := 13

/-- A log entry of class `cls` of a unit for such an event (log entry 13). -/
def logOpen (cls unit ev : Nat) (payload : List Byte) (s : State) : State :=
  logEvent cls unit (Config.logCode ev).toNat payload s

end Sys2Proof.Machine
end

