-- ==== Sys2Proof/Machine/TripOps.lean ====
section
/-! DEFINITION. Trip zones, trip actions, safe states and the level each PWM pin shows (R169 to R174), shared by the
comparators, the loop engines, the spindles and the clock monitors. -/

namespace Sys2Proof.Machine

/-! ### Access to the records -/

def State.pair (s : State) (k : Nat) : PwmPair := tabGet {} k s.pairs
def State.setPair (s : State) (k : Nat) (p : PwmPair) : State := { s with pairs := tabSet {} k p s.pairs }
def State.group (s : State) (g : Nat) : PwmGroup := tabGet {} g s.groups
def State.setGroup (s : State) (g : Nat) (p : PwmGroup) : State := { s with groups := tabSet {} g p s.groups }
def State.comparator (s : State) (k : Nat) : Comparator := tabGet {} k s.comparators
def State.setComparator (s : State) (k : Nat) (c : Comparator) : State :=
  { s with comparators := tabSet {} k c s.comparators }

/-- PWM group states (R180). -/
def pwmSafe : Nat := 0
def pwmArming : Nat := 1
def pwmArmed : Nat := 2
def pwmParted : Nat := 3

/-- A group's state, PWM_GRP_STATUS.state (R180). -/
def State.pwmState (s : State) (g : Nat) : Nat := s.fld (Reg.PWM_GRP_STATUS g) 31 30

/-- Events of group `g` in PWM_GRP_STATUS (R178, R180). -/
def pwmEvent (g : Nat) (bits : Word) (s : State) : State :=
  raiseStatus (Reg.PWM_GRP_STATUS g) (Reg.PWM_IRQ_EN g) (1280 + g) bits s

/-- One output of a pair. -/
def PwmPair.side (p : PwmPair) : PwmSide → PwmOut
  | .a => p.a
  | .b => p.b

/-- The pair with one output replaced. -/
def PwmPair.setSide (p : PwmPair) (x : PwmSide) (o : PwmOut) : PwmPair :=
  match x with
  | .a => { p with a := o }
  | .b => { p with b := o }

def sideBit : PwmSide → Nat
  | .a => 0
  | .b => 1

/-! ### Pads (R165, R171, R173, R174) -/

/-- The pad level of a code of PWM_SAFE: 0b11 acts as 0b00 (R178). -/
def safePad (code : Nat) : Pad := if code = 1 then .high else if code = 2 then .highZ else .low

/-- The safe level of output `x` of local pair `p` of group `g` (R173, R178). -/
def State.safeLevel (s : State) (g p : Nat) (x : PwmSide) : Pad :=
  let o := 2 * p + sideBit x
  safePad (s.fld (Reg.PWM_SAFE g) (2 * o + 1) (2 * o))

/-- The pin level of an output that is active or not: pol inverts it and nothing else (R165). -/
def State.drivenLevel (s : State) (g p : Nat) (x : PwmSide) (active : Bool) : Pad :=
  let inverted := s.bit (Reg.PWM_PAIR_CTL g p) (27 - sideBit x)
  if active != inverted then .high else .low

/-- The level under the trip action of PWM_TRIP_ACT (R171, R178). -/
def State.tripLevel (s : State) (g p : Nat) (x : PwmSide) (o : PwmOut) : Pad :=
  match s.fld (Reg.PWM_TRIP_ACT g p) (2 * sideBit x + 1) (2 * sideBit x) with
  | 0 => s.drivenLevel g p x false
  | 1 => s.drivenLevel g p x o.tripActive
  | 2 => .highZ
  | _ => s.safeLevel g p x

/-- Is output `k` of the part driven: its pair is present (R3), and the supply of its bank VDDIO_P_s (R20)? -/
def State.padSupplied (s : State) (k : Nat) : Bool :=
  decide (k / 16 < sectorCount s.sys.variant) && s.sys.pwmBanks.getLsbD (k / 16)

/-- What drives output `x` of pair `k`: nothing without its bank's supply (R20), its safe level unless the group is armed
and its sector works (R174), the trip action while tripped (R171), the modulated level otherwise. -/
def State.padOf (s : State) (k : Nat) (x : PwmSide) : Pad :=
  let g := k / 4
  let p := k % 4
  if !s.padSupplied k then .highZ
  else if s.pwmState g = pwmArmed ∧ s.sectorOn (g / 4) then
    if (s.pair k).tripped then s.tripLevel g p x ((s.pair k).side x)
    else s.drivenLevel g p x ((s.pair k).side x).level
  else s.safeLevel g p x

/-! ### Group states -/

/-- An output inactive, with no edge pending; its carrier keeps its slots and what it modulates. -/
def PwmOut.rest (o : PwmOut) : PwmOut := { o with level := false, rising := false, tripActive := false }

/-- The outputs of a pair at rest. -/
def PwmPair.rest (p : PwmPair) : PwmPair := { p with a := p.a.rest, b := p.b.rest, tripped := false }

/-- Apply an operation to each listed key. -/
def forEach (ks : List Nat) (f : Nat → State → State) (s : State) : State := ks.foldl (fun s k => f k s) s

/-- The pairs of group `g` (R159). -/
def pairsOf (g : Nat) : List Nat := [4 * g, 4 * g + 1, 4 * g + 2, 4 * g + 3]

/-- Group `g` takes state `st`; on leaving ARMED its outputs are at rest and, but for an abort, disarmed is set
(R177, R180). -/
def leaveArmed (g st : Nat) (s : State) : State :=
  let was := s.pwmState g
  let s1 := s.setFld (Reg.PWM_GRP_STATUS g) 31 30 st
  let s2 := forEach (pairsOf g) (fun k s => s.setPair k (s.pair k).rest) s1
  if was = pwmArmed ∧ st = pwmSafe then pwmEvent g (oneBit 5) s2 else s2

/-- The group goes to SAFE (R174, R177), wherever it stands but PARTED. -/
def toSafe (g : Nat) (s : State) : State := if s.pwmState g = pwmParted then s else leaveArmed g pwmSafe s

/-- FCLK or a sector is lost: every group of the list is in SAFE with disarmed set (R18, R174). -/
def safeAll (gs : List Nat) (s : State) : State :=
  forEach gs (fun g s => pwmEvent g (oneBit 5) (leaveArmed g pwmSafe s)) s

/-! ### Zones (R169 to R172) -/

/-- The global trip is asserted: by tailstock firmware, or by the pin, now or since the last clear (R172). -/
def State.globalTrip (s : State) : Bool := s.bit Reg.PWM_GTRIP 0 || s.bit Reg.PWM_GTRIP 1 || s.tripAll

/-- Does an enabled comparator of zone `z`'s sector that selects it assert it (R127, R169)? -/
def State.zoneComparator (s : State) (z : Nat) : Bool :=
  (List.range 12).any fun i =>
    let k := z / 8 * 12 + i
    (s.comparator k).zoneIn && s.bit (Reg.CMP_CTL (z / 8) i) (8 + z % 8)

/-- TRIP_IN pin 2 s + `i` as zone `z` of sector s sees it: past the asynchronous path, or past the zone's own filter of
pin_filt cycles (R170, R184). -/
def State.pinAt (s : State) (z i : Nat) : Bool :=
  if s.fld (Reg.TZ_CTL z) 29 24 = 0 then s.tripPins.getLsbD (2 * (z / 8) + i) else s.zonePins.getLsbD (2 * z + i)

/-- Does a selected TRIP_IN pin assert zone `z` (R169, R184)? -/
def State.zonePin (s : State) (z : Nat) : Bool :=
  let m := s.fld (Reg.TZ_CTL z) 23 22
  (m.testBit 0 && s.pinAt z 0) || (m.testBit 1 && s.pinAt z 1)

/-- Is zone `z` enabled (R184)? -/
def State.zoneEnabled (s : State) (z : Nat) : Bool := s.bit (Reg.TZ_CTL z) 31

/-- Is an input of the zone asserted now? Without enable only the global trip counts (R184). -/
def State.zoneInput (s : State) (z : Nat) : Bool :=
  (s.zoneEnabled z && (s.zoneComparator z || s.zonePin z)) || s.globalTrip

/-- Does the zone trip its groups: an input is asserted, or the latch holds (R169)? -/
def State.zoneTrips (s : State) (z : Nat) : Bool := s.bit (Reg.TZ_STATUS z) 31 || s.bit (Reg.TZ_STATUS z) 30

/-- Zone `z` is one that group `g` responds to (R169). -/
def State.groupSelects (s : State) (g z : Nat) : Bool :=
  decide (z / 8 = g / 4) && s.bit (Reg.PWM_TZ_MASK g) (z % 8)

/-- Is the group held tripped: by a zone of its mask, an internal trip or the global trip (R169, R171)? -/
def State.groupHeld (s : State) (g : Nat) : Bool :=
  (s.group g).softTrip || (s.group g).lockTrip || s.globalTrip ||
    (List.range 8).any fun i => s.groupSelects g (8 * (g / 4) + i) && s.zoneTrips (8 * (g / 4) + i)

/-- The outputs of a pair that is not tripped yet take their trip actions: a pending dead-time edge is discarded; a pair
already tripped goes on with its action (R171). -/
def PwmPair.trip (p : PwmPair) : PwmPair := if p.tripped then p else { p.rest with tripped := true }

/-- An armed group's outputs take their trip actions, which sets trip where one of them enters them (R171, R180); a group
in SAFE or ARMING is safe already. -/
def tripGroup (g : Nat) (s : State) : State :=
  if s.pwmState g = pwmArmed ∧ (pairsOf g).any (fun k => !(s.pair k).tripped) = true then
    pwmEvent g (oneBit 2) <|
      forEach (pairsOf g) (fun k s => s.setPair k (s.pair k).trip) s
  else s

/-- The sources of a zone assertion, as the cause bits of TZ_STATUS name them (R185). -/
def State.zoneCauses (s : State) (z : Nat) (forced : Bool) : Word :=
  let en := s.zoneEnabled z
  (if en && forced then oneBit 0 else 0) ||| (if en && s.zoneComparator z then oneBit 1 else 0) |||
    (if en && s.zonePin z then oneBit 2 else 0) ||| (if s.globalTrip then oneBit 3 else 0)

/-- The zone's level follows its inputs; at assertion its causes and, in latched mode or under the global trip, its
latch are set (R169, R172, R185), source 1312 + z becomes pending (R178) and the groups that respond to it trip
(R171). `forced` is a write of TZ_FORCE. -/
def zoneRefresh (forced : Bool) (z : Nat) (s : State) : State :=
  let a := Reg.TZ_STATUS z
  let now := s.zoneInput z || (forced && s.zoneEnabled z)
  if now then
    let old := s.reg a
    let latch : Bool := s.bit (Reg.TZ_CTL z) 30 || s.globalTrip
    let w := withBit (old ||| s.zoneCauses z forced) 31 true
    let s1 := noteSet a (s.zoneCauses z forced ||| (if latch then oneBit 30 else 0))
      (s.setReg a (if latch then withBit w 30 true else w))
    let s2 := if bitAt old 31 || bitAt old 30 then s1 else noteDeferred (1312 + z) s1
    let gs := (List.range 4).map (4 * (z / 8) + ·)
    forEach gs (fun g s => if s.groupSelects g z || s.globalTrip then tripGroup g s else s) s2
  else s.setBit a 31 false

/-- Every zone of sector `k` follows its inputs. -/
def zonesRefresh (k : Nat) (s : State) : State :=
  forEach ((List.range 8).map (8 * k + ·)) (zoneRefresh false) s

/-- Every zone of the sectors that are present and powered follows its inputs (R2, R172). -/
def allZonesRefresh (s : State) : State :=
  forEach ((List.range (sectorCount s.sys.variant)).filter fun k => s.sys.sectorIslands.getLsbD k) zonesRefresh s

/-- A write of TZ_FORCE: the zone asserts, and its level falls again at once where no input holds it (log entry 12). -/
def zoneForce (z : Nat) (s : State) : State :=
  if s.zoneEnabled z then zoneRefresh false z (zoneRefresh true z s) else s

/-- The tailstock logs the global trip and raises source 19 (R172, R273). -/
def logGlobalTrip (s : State) : State := raiseTs 19 (logOpen 2 5 evGlobalTrip [] s)

/-- Assert the global trip with the cause of PWM_GTRIP bit `i` (R172). -/
def assertGlobalTrip (i : Nat) (s : State) : State :=
  logGlobalTrip (allZonesRefresh (s.setBit Reg.PWM_GTRIP i true))

/-- An internal trip of group `g`: by a loop engine (R148). It stands until enable 0 and then 1, as a lost lock does
(log entry 24). -/
def softTripGroup (g : Nat) (s : State) : State :=
  let q := s.group g
  tripGroup g (s.setGroup g { q with
    softTrip := true, sawDisable := q.sawDisable && decide (s.pwmState g = pwmParted) })

/-- Group `g` has lost the spindle it is locked to (R161). -/
def loseLock (g : Nat) (s : State) : State :=
  tripGroup g (pwmEvent g (oneBit 7) (s.setGroup g { s.group g with lockTrip := true, sawDisable := false }))

/-- Spindle `n` has left LOCKED and COAST, or taken a backward step: the running groups locked to it lose their
lock (R161). -/
def spindleUnusable (n : Nat) (s : State) : State :=
  forEach (List.range 24) (fun g s =>
    if s.bit (Reg.PWM_GRP_CTL g) 31 && decide (s.fld (Reg.PWM_SYNC g) 31 30 = 3) &&
        decide (s.fld (Reg.PWM_SYNC g) 9 0 = n) then loseLock g s else s) s

end Sys2Proof.Machine
end

