-- ==== Sys2Proof/Machine/Afe.lean ====
section
/-! DEFINITION. The sampling front end (spec/05): triggers, sequences and conversions, result channels, comparators,
sigma-delta demodulators and calibration. -/

namespace Sys2Proof.Machine

/-- At reset ADC 4s + a is served by converter a, and converter 3 is the spare (R106, R120). -/
def adcReset (n : Nat) : Adc := { conv := n % 4 }

def State.adc (s : State) (n : Nat) : Adc := tabGet (adcReset n) n s.adcs
def State.setAdc (s : State) (n : Nat) (a : Adc) : State := { s with adcs := tabSet (adcReset n) n a s.adcs }
def State.chan (s : State) (n : Nat) : Channel := tabGet {} n s.channels
def State.setChan (s : State) (n : Nat) (c : Channel) : State := { s with channels := tabSet {} n c s.channels }
def State.demod (s : State) (n : Nat) : SigmaDelta := tabGet {} n s.demods
def State.setDemod (s : State) (n : Nat) (d : SigmaDelta) : State := { s with demods := tabSet {} n d s.demods }
def State.sector (s : State) (n : Nat) : Sector := tabGet {} n s.sectors
def State.setSector (s : State) (n : Nat) (x : Sector) : State := { s with sectors := tabSet {} n x s.sectors }

/-- Events of sector `k` in AFE_STATUS (R122, R129). -/
def afeEvent (k : Nat) (bits : Word) (s : State) : State :=
  raiseStatus (Reg.AFE_STATUS k) (Reg.AFE_IRQ_EN k) (832 + k) bits s

/-! ### Triggers and conversions (R106 to R112) -/

def State.rotating (s : State) (k : Nat) : Bool := s.bit (Reg.AFE_CAL_CTL k) 31

/-- Has converter `c` of sector `k` been marked failed (R120)? -/
def State.convFailed (s : State) (k c : Nat) : Bool := s.bit (Reg.AFE_CAL_STATUS k) (24 + c)

/-- May ADC `n` take triggers: it has a converter, and no foreground calibration holds it (R106, R110, R120)? -/
def State.adcAvailable (s : State) (n : Nat) : Bool :=
  !(s.rotating (n / 4) && decide (n % 4 = 3)) && !s.convFailed (n / 4) (s.adc n).conv && !(s.adc n).calibrating

/-- ADC_STATUS as it reads: busy, queued triggers, converter, entry in flight (R122). -/
def State.adcStatus (s : State) (n : Nat) : Word :=
  let a := s.adc n
  toWord (boolNat a.running * 2 ^ 31 + min 7 a.queue.length * 2 ^ 28 + a.conv % 4 * 2 ^ 24 +
    (if a.running then a.entry % 64 else 0))

def State.adcEnabled (s : State) (n : Nat) : Bool := s.bit (Reg.ADC_CTL (n / 4) (n % 4)) 31

/-- Conversions that an entry averages: 1, 2, 4 or 8 (R123). -/
def entryRepeat (w : Word) : Nat := 2 ^ fieldOf w 30 29

/-- The entry an idle ADC tracks (R124). -/
def State.parkWord (s : State) (n : Nat) : Word :=
  s.reg (Reg.ADC_SEQ (n / 4) (n % 4) (s.fld (Reg.ADC_CTL (n / 4) (n % 4)) 5 0))

/-- The input of an entry (R123). -/
def entryInput (w : Word) : Nat := fieldOf w 3 0

/-- ADC `n` starts entry `e`, whose input its converter tracks from cycle `since`: its fields are latched (R107, R108,
R111). -/
def adcStart (n e since : Nat) (s : State) : State :=
  s.setAdc n { s.adc n with
    running := true, entry := e, word := s.reg (Reg.ADC_SEQ (n / 4) (n % 4) e), held := 0, sum := 0, routeChanged := false
    trackedSince := since }

/-- The cycle from which an idle ADC that receives a trigger now tracks entry `e`: as it did where its park entry has that
input, else from the next cycle (R108). -/
def State.trackFrom (s : State) (n e : Nat) : Nat :=
  if entryInput (s.reg (Reg.ADC_SEQ (n / 4) (n % 4) e)) = entryInput (s.parkWord n) then (s.adc n).trackedSince else s.now + 1

/-- A trigger that is ignored and counted (R110). -/
def trigUnavailable (k : Nat) (s : State) : State :=
  rcUpFld (Reg.AFE_TRIG_LOST k) 31 16 1 (afeEvent k (oneBit 3) s)

/-- A trigger naming first entry `e` is received by ADC `n` (R110). -/
def adcReceive (n e : Nat) (s : State) : State :=
  if !s.adcEnabled n then s
  else if !s.adcAvailable n || decide (64 ≤ e) then trigUnavailable (n / 4) s
  else if !(s.adc n).running then notePulse (adcPulse n e) (adcStart n e (s.trackFrom n e) s)
  else if (s.adc n).queue.length < 4 then
    notePulse (adcPulse n e) (s.setAdc n { s.adc n with queue := (s.adc n).queue ++ [e] })
  else rcUpFld (Reg.AFE_TRIG_LOST (n / 4)) 15 0 1 (afeEvent (n / 4) (oneBit 2) s)

/-- A trigger reaches ADC `n`, and from an enabled ADC the other ADCs of its gang mask (R107, R109). -/
def adcTrigger (n e : Nat) (s : State) : State :=
  if s.adcEnabled n then
    let gang := s.fld (Reg.ADC_CTL (n / 4) (n % 4)) 29 26
    forEach ((List.range 4).filter fun i => gang.testBit i && decide (i ≠ n % 4))
      (fun i s => adcReceive (4 * (n / 4) + i) e s) (adcReceive n e s)
  else s

/-- An ADCTRIG action; an ADC number beyond the part's does nothing (R79). -/
def execAdctrig (target data : Word) (s : State) : Out :=
  .next (if s.sectorOn (fieldOf target 4 0 / 4) then adcTrigger (fieldOf target 4 0) (fieldOf data 7 0) s else s)

def execAdcSwtrig (adc : Fin 24) (value : Word) (s : State) : Out :=
  .next (if s.sectorOn (adc.val / 4) then adcTrigger adc (fieldOf value 7 0) s else s)

/-- One conversion of the entry in flight is held; the first hold stamps the sample, and after each the converter tracks
anew from h + 24 (R108). -/
def adcHoldEff (n code : Nat) (s : State) : State :=
  let a := s.adc n
  if a.running && decide (a.held < entryRepeat a.word) then
    s.setAdc n { a with
      held := a.held + 1, sum := a.sum + code, trackedSince := s.now + 24
      firstHold := if a.held = 0 then lowWord s.devTimer else a.firstHold }
  else s

def execAdcHold (adc : Fin 24) (code : BitVec 14) (s : State) : Out :=
  .next (if s.sectorOn (adc.val / 4) then adcHoldEff adc code.toNat s else s)

/-! ### Result channels (R112 to R115) -/

/-- Does a 16-bit value lie in the window of CH_WIN, read as signed where CH_CTL says so (R113)? -/
def inWindow (win ctl : Word) (v : Nat) : Bool :=
  if bitAt ctl 31 then
    decide (signedOf 16 (fieldOf win 15 0) ≤ signedOf 16 v ∧ signedOf 16 v ≤ signedOf 16 (fieldOf win 31 16))
  else decide (fieldOf win 15 0 ≤ v ∧ v ≤ fieldOf win 31 16)

/-- The result queue takes one more word, or sets queue_overflow (R115). -/
def afePush (k : Nat) (w : Word) (s : State) : State :=
  let x := s.sector k
  if x.queue.length < 64 then
    (s.setSector k { x with queue := x.queue ++ [w] }).setReg (Reg.AFE_QUEUE_FILL k) (toWord (x.queue.length + 1))
  else afeEvent k (oneBit 5) s

/-- The register of a 64-channel map that holds channel `c`'s bit. -/
def setMapBit (a : Nat → Nat) (c : Nat) (b : Bool) (s : State) : State := s.setBit (a (c / 32)) (c % 32) b

/-- A sample reaches channel `c` of sector `k`: `src` holds the flag bits of its source (R125), `v` its 16-bit value
(R112, R113, R115). -/
def channelWrite (k c v : Nat) (src time : Word) (s : State) : State :=
  let ch := s.chan (64 * k + c)
  let ctl := s.reg (Reg.CH_CTL k c)
  let ok := inWindow (s.reg (Reg.CH_WIN k c)) ctl v
  let shown := if ok || !bitAt ctl 30 then v else ch.lastIn
  let run := if ok then 0 else ch.outRun + 1
  let seq := (fieldOf (s.reg (Reg.CH_VALUE k c)) 23 16 + 1) % 256
  let w := withBit (withBit (withField (withField src 15 0 shown) 23 16 seq) 29 (!ok)) 31 true
  let s1 := (s.setReg (Reg.CH_VALUE k c) w).setReg (Reg.CH_TIME k c) time
  let s2 := s1.setChan (64 * k + c) { outRun := run, lastAt := s.now, lastIn := if ok then v else ch.lastIn }
  let s3 := setMapBit (Reg.AFE_STALE_MAP k) c false s2
  let s4 := if ok then setMapBit (Reg.AFE_RANGE_MAP k) c false s3
    else if fieldOf ctl 28 24 < run then
      (if s3.bit (Reg.AFE_RANGE_MAP k (c / 32)) (c % 32) then s3
      else afeEvent k (oneBit 0) (setMapBit (Reg.AFE_RANGE_MAP k) c true s3))
    else s3
  if bitAt ctl 29 then afePush k w s4 else s4

/-- AFE_CAL_STATUS.phase (R122). -/
def State.calPhase (s : State) (k : Nat) : Nat := s.fld (Reg.AFE_CAL_STATUS k) 31 30
def setCalPhase (k p : Nat) (s : State) : State := s.setFld (Reg.AFE_CAL_STATUS k) 31 30 p

/-- What an ADC does after an entry: the next entry of the sequence, the next queued trigger, or park, each tracked from
the last conversion's h + 24 (R107, R108, R110); a foreground calibration that waited for its converter starts (R120). -/
def adcAdvance (n : Nat) (s : State) : State :=
  let a := s.adc n
  if !bitAt a.word 31 && decide (a.entry < 63) then adcStart n (a.entry + 1) a.trackedSince s
  else match a.queue with
    | e :: q => adcStart n e a.trackedSince (s.setAdc n { a with queue := q })
    | [] =>
      let s1 := s.setAdc n { a with running := false, held := 0 }
      if a.calibrating then setCalPhase (n / 4) 1 s1 else s1

/-- The mean of `n` codes, rounded (R108). -/
def meanCode (sum n : Nat) : Nat := (sum + n / 2) / n

/-- The result of ADC `n`'s entry reaches its channel once all its conversions are held (R108, R112). -/
def sampleWriteEff (n : Nat) (s : State) : State :=
  let a := s.adc n
  if a.running && decide (a.held = entryRepeat a.word) then
    let src := withBit (withBit (withField 0 25 24 a.conv) 27 a.swapped) 28 a.routeChanged
    adcAdvance n <|
      (channelWrite (n / 4) (fieldOf a.word 13 8) (meanCode a.sum a.held) src a.firstHold s).setAdc n
        { a with swapped := false }
  else s

def execSampleWrite (adc : Fin 24) (s : State) : Out :=
  .next (if s.sectorOn (adc.val / 4) then sampleWriteEff adc s else s)

/-- The staleness timeout of channel `c` of sector `k` expires; a channel never written is not stale (R114). -/
def channelStaleEff (k c : Nat) (s : State) : State :=
  let v := s.reg (Reg.CH_VALUE k c)
  if bitAt v 31 && !bitAt v 30 && decide (s.fld (Reg.CH_CTL k c) 15 0 ≠ 0) then
    afeEvent k (oneBit 1) (setMapBit (Reg.AFE_STALE_MAP k) c true (s.setReg (Reg.CH_VALUE k c) (withBit v 30 true)))
  else s

def execChannelStale (ch : Fin 384) (s : State) : Out :=
  .next (if s.sectorOn (ch.val / 64) then channelStaleEff (ch.val / 64) (ch.val % 64) s else s)

/-- A write of CH_CTL; stale_to = 0 ends the stale state (R114, R126). -/
def chCtlWrite (k c : Nat) (w : Word) (s : State) : State :=
  let s1 := s.setReg (Reg.CH_CTL k c) w
  if fieldOf w 15 0 = 0 then
    setMapBit (Reg.AFE_STALE_MAP k) c false (s1.setBit (Reg.CH_VALUE k c) 30 false)
  else s1

/-- A read of AFE_QUEUE: the oldest word, or zero from an empty queue (R115). -/
def afePop (k : Nat) (s : State) : Word × State :=
  let x := s.sector k
  match x.queue with
  | [] => (0, s)
  | w :: q => (w, (s.setSector k { x with queue := q }).setReg (Reg.AFE_QUEUE_FILL k) (toWord q.length))

def execAfeQueue (q : Requester) (sector : Fin 6) (s : State) : Out :=
  .next (if s.sectorOn sector then answer q (afePop sector s).1 (afePop sector s).2 else answer q 0 s)

/-! ### Route changes (R111) -/

/-- The fields of ADC_SEQ and of ADC_CTL that exist (R123, R124). -/
def seqMask : Word := 0xEFF03F0F
def adcCtlMask : Word := 0xBC00003F

/-- A write of ADC_SEQ[e] or of ADC_CTL: an entry in flight keeps its latched fields, and its result says that the
route changed; an idle ADC whose parked input changes starts to track the new one (R111). -/
def routeWrite (n : Nat) (which : RouteWrite) (v : Word) (s : State) : State :=
  let a := s.adc n
  let parked := entryInput (s.parkWord n)
  let s1 := match which with
    | .seq e => s.setReg (Reg.ADC_SEQ (n / 4) (n % 4) e) (v &&& seqMask)
    | .control => s.setReg (Reg.ADC_CTL (n / 4) (n % 4)) (v &&& adcCtlMask)
  if a.running then
    match which with
    | .seq e =>
      if a.entry = e.val ∧ (v ^^^ a.word) &&& 0x6FF03F0F ≠ 0 then s1.setAdc n { a with routeChanged := true } else s1
    | .control => s1
  else if entryInput (s1.parkWord n) ≠ parked then s1.setAdc n { a with trackedSince := s.now } else s1

def execRouteChange (adc : Fin 24) (which : RouteWrite) (value : Word) (s : State) : Out :=
  .next (if s.sectorOn (adc.val / 4) then routeWrite adc which value s else s)

/-! ### Comparators (R116, R117, R486) -/

/-- The trip filter of comparator `k`, CMP_CTL.filt (R127). -/
def State.cmpFilt (s : State) (k : Nat) : Nat := s.fld (Reg.CMP_CTL (k / 12) (k % 12)) 23 18

/-- The output that the input, the enable, blanking and the hold allow (R116, R117). -/
def State.cmpWanted (s : State) (k : Nat) : Bool :=
  let c := s.comparator k
  s.bit (Reg.CMP_CTL (k / 12) (k % 12)) 31 && c.raw && !c.blanked && !c.held

/-- The output of comparator `k` follows: becoming active is an event, for the capture triggers too, and starts the
filter's count; becoming inactive drops its zone input (R486). -/
def cmpFollow (k : Nat) (s : State) : State :=
  let c := s.comparator k
  let a := Reg.CMP_STATUS (k / 12) (k % 12)
  if s.cmpWanted k then
    if c.out then s else
      let s1 := notePulse (comparatorPulse k) (noteSet a 2 (s.setReg a (s.reg a ||| 3)))
      let s2 := if s.bit (Reg.CMP_CTL (k / 12) (k % 12)) 17 then afeEvent (k / 12) (oneBit 8) s1 else s1
      zonesRefresh (k / 12) <|
        s2.setComparator k { c with out := true, activeSince := s.now, zoneIn := decide (s.cmpFilt k = 0) }
  else
    zonesRefresh (k / 12) <| (s.setBit a 0 false).setComparator k { c with out := false, zoneIn := false }

/-- The code at comparator `k`'s DAC: the ramp's while it runs, CMP_DAC otherwise (R117). -/
def State.dacCode (s : State) (k : Nat) : Nat :=
  let c := s.comparator k
  if c.ramping && s.bit (Reg.CMP_RAMP (k / 12) (k % 12)) 31 then c.dac / 4096
  else s.fld (Reg.CMP_DAC (k / 12) (k % 12)) 11 0

/-- Voltages in units of 1 µV / 4,096: the threshold code x 1.5 V / 4,096, and the hysteresis of 0, 10, 20 or 40 mV (R116,
R121, R127). -/
def State.cmpThreshold (s : State) (k : Nat) : Int := s.dacCode k * 1500000
def State.cmpHyst (s : State) (k : Nat) : Int :=
  match s.fld (Reg.CMP_CTL (k / 12) (k % 12)) 29 28 with
  | 0 => 0
  | 1 => 10000 * 4096
  | 2 => 20000 * 4096
  | _ => 40000 * 4096

/-- Does an input of `uv` µV make the output active, or inactive again: the hysteresis lies on the release side (R116)? -/
def State.cmpActivates (s : State) (k uv : Nat) : Bool :=
  if s.bit (Reg.CMP_CTL (k / 12) (k % 12)) 30 then decide ((uv * 4096 : Int) < s.cmpThreshold k)
  else decide (s.cmpThreshold k < (uv * 4096 : Int))
def State.cmpReleases (s : State) (k uv : Nat) : Bool :=
  if s.bit (Reg.CMP_CTL (k / 12) (k % 12)) 30 then decide (s.cmpThreshold k + s.cmpHyst k < (uv * 4096 : Int))
  else decide ((uv * 4096 : Int) < s.cmpThreshold k - s.cmpHyst k)

/-- The input of a comparator passes its threshold. -/
def execComparatorActive (input : ComparatorInput) (s : State) : Out :=
  .next (if s.sectorOn (input.comparator.val / 12) && s.cmpActivates input.comparator input.microvolts then
      cmpFollow input.comparator (s.setComparator input.comparator { s.comparator input.comparator with raw := true })
    else s)

def execComparatorInactive (input : ComparatorInput) (s : State) : Out :=
  .next (if s.sectorOn (input.comparator.val / 12) && s.cmpReleases input.comparator input.microvolts then
      cmpFollow input.comparator (s.setComparator input.comparator { s.comparator input.comparator with raw := false })
    else s)

/-- The output has been active for filt cycles: the zone input asserts (R486). -/
def zoneInputAssertEff (k : Nat) (s : State) : State :=
  if (s.comparator k).out then zonesRefresh (k / 12) (s.setComparator k { s.comparator k with zoneIn := true }) else s

def execZoneInputAssert (k : Fin 72) (s : State) : Out :=
  .next (if s.sectorOn (k.val / 12) then zoneInputAssertEff k s else s)

def execBlankingWindowClose (k : Fin 72) (s : State) : Out :=
  .next (if s.sectorOn (k.val / 12) then cmpFollow k (s.setComparator k { s.comparator k with blanked := false }) else s)

def execComparatorHoldEnd (k : Fin 72) (s : State) : Out :=
  .next (if s.sectorOn (k.val / 12) then cmpFollow k (s.setComparator k { s.comparator k with held := false }) else s)

/-- A write of CMP_CTL: a change of input, invert or hyst holds the output inactive; a new filt is compared with the
count reached; a new zone_mask shows the present zone input (R116, R486). -/
def cmpCtlWrite (k : Nat) (w : Word) (s : State) : State :=
  let a := Reg.CMP_CTL (k / 12) (k % 12)
  let c := s.comparator k
  let hold : Bool := decide ((w ^^^ s.reg a) &&& 0x7F000000 ≠ 0)
  let filt := fieldOf w 23 18
  let asserted := c.out && (c.zoneIn || decide (filt ≤ s.now - c.activeSince))
  let s1 := (s.setReg a w).setComparator k { c with held := c.held || hold, zoneIn := asserted }
  zonesRefresh (k / 12) (cmpFollow k s1)

/-- An edge of a pair's output opens, or restarts, the blanking windows that select it (R117): `edge` is 0 A rising,
1 A falling, 2 B rising, 3 B falling. -/
def blankOpen (pair edge : Nat) (s : State) : State :=
  let sec := pair / 16
  forEach (List.range 12) (fun i s =>
    let w := s.reg (Reg.CMP_BLANK sec i)
    if bitAt w 31 && decide (fieldOf w 29 28 = edge) && decide (fieldOf w 27 24 = pair % 16) &&
        decide (fieldOf w 9 0 ≠ 0) then
      cmpFollow (12 * sec + i) (s.setComparator (12 * sec + i) { s.comparator (12 * sec + i) with blanked := true })
    else s) s

/-- A period event of group `g` restarts the DAC ramps of the comparators whose blanking pair it holds (R117). -/
def dacRampRestart (g : Nat) (s : State) : State :=
  let sec := g / 4
  forEach (List.range 12) (fun i s =>
    if s.bit (Reg.CMP_RAMP sec i) 31 && decide (s.fld (Reg.CMP_BLANK sec i) 27 24 / 4 = g % 4) then
      let k := 12 * sec + i
      s.setComparator k { s.comparator k with ramping := true, dac := s.fld (Reg.CMP_DAC sec i) 11 0 * 4096 }
    else s) s

/-- One cycle of every running ramp: the DAC falls by step and stops at 0 (R117). -/
def dacRampTick (s : State) : State :=
  forEach (s.comparators.map (·.1)) (fun k s =>
    if (s.comparator k).ramping && s.bit (Reg.CMP_RAMP (k / 12) (k % 12)) 31 then
      s.setComparator k { s.comparator k with dac := (s.comparator k).dac - s.fld (Reg.CMP_RAMP (k / 12) (k % 12)) 15 0 }
    else s) s

/-- A write of CMP_RAMP: ramp_en 0 ends the ramp, and the DAC shows CMP_DAC again until a period event starts the next
(R117). -/
def cmpRampWrite (k : Nat) (w : Word) (s : State) : State :=
  let s1 := s.setReg (Reg.CMP_RAMP (k / 12) (k % 12)) w
  if bitAt w 31 then s1 else s1.setComparator k { s1.comparator k with ramping := false }

/-! ### Sigma-delta demodulators (R118, R119) -/

/-- One data bit into the three integrators: a 1 counts +1, a 0 counts -1 (R118). -/
def sdIntegrate (d : SigmaDelta) (b : Bool) : SigmaDelta :=
  let i1 := d.i1 + (if b then 1 else -1)
  let i2 := d.i2 + i1
  { d with i1 := i1, i2 := i2, i3 := d.i3 + i2 }

/-- The raw output at a decimation: three differences of the integrators (R118). -/
def sdComb (d : SigmaDelta) : Int × SigmaDelta :=
  let d1 := d.i3 - d.c1
  let d2 := d1 - d.c2
  (d2 - d.c3, { d with c1 := d.i3, c2 := d1, c3 := d2 })

/-- Integrators and differences at zero, and the next three words discarded (R119). -/
def sdClear (d : SigmaDelta) : SigmaDelta := { used := d.used, clkLost := d.clkLost, discard := 3 }

/-- sat16(raw >> shift), as 16 bits (R118). -/
def sdWord (raw : Int) (shift : Nat) : Nat :=
  (BitVec.ofInt 16 (clampInt (-0x8000) 0x7FFF (raw / 2 ^ shift))).toNat

/-- Is a value of the demodulator in use that gives undefined results: osr outside 16 to 256, a shift above 24, div outside
60 to 511 with a driven clock (R39, R118, R128)? -/
def State.sdMisused (s : State) (j : Nat) (used : Word) : Bool :=
  decide (fieldOf used 28 20 < 16) || decide (256 < fieldOf used 28 20) || decide (24 < fieldOf used 19 15) ||
    (bitAt used 30 && decide (s.fld (Reg.SD_CLK (j / 8) (j % 8)) 8 0 < 60))

/-- Undefined results for demodulator `j`: what it holds, its status and the word that it sends are open (R40). -/
def spoilDemod (j : Nat) (used : Word) (s0 : State) : State :=
  let u := (takeState s0).1
  let s := (takeState s0).2
  let a := Reg.SD_STATUS (j / 8) (j % 8)
  channelWrite (j / 8) (fieldOf used 13 8) (fieldOf (u.reg a) 31 16) (oneBit 26) (lowWord s.devTimer)
    ((s.setDemod j (u.demod j)).setReg a (u.reg a &&& 7))

/-- A decimation instant of demodulator `j`: the word goes to its channel, unless it is to be discarded; a changed
osr, shift or channel takes effect here (R118, R119). -/
def sdDecimate (j : Nat) (bits : List Bool) (s : State) : State :=
  let k := j / 8
  let ctl := s.reg (Reg.SD_CTL k (j % 8))
  if bitAt ctl 31 && !(s.demod j).clkLost then
    let d0 := bits.foldl sdIntegrate (s.demod j)
    let rd := sdComb { d0 with counterFrom := s.now }
    let used := d0.used.getD ctl
    let v := sdWord rd.1 (fieldOf used 19 15)
    let changed : Bool := decide ((used ^^^ ctl) &&& 0x1FFFBF00 ≠ 0)
    let d1 := { rd.2 with used := some ctl }
    if s.sdMisused j used then spoilDemod j used s
    else if 0 < d0.discard then
      s.setDemod j (if changed then sdClear d1 else { d1 with discard := d0.discard - 1 })
    else
      let s2 := (s.setDemod j (if changed then sdClear d1 else d1)).setBit (Reg.SD_STATUS k (j % 8)) 0 true
      channelWrite k (fieldOf used 13 8) v (oneBit 26) (lowWord s.devTimer) s2
  else s

/-- A write of SD_CTL. While the demodulator is enabled, osr, shift and channel stay in use as they are until the next
decimation instant (R119); a demodulator that is enabled starts with integrators at zero, and one that is disabled does
not run (R128). -/
def sdCtlWrite (j : Nat) (w : Word) (s : State) : State :=
  let a := Reg.SD_CTL (j / 8) (j % 8)
  let s1 := s.setReg a w
  if bitAt w 31 then
    if s.bit a 31 then s1.setDemod j { s1.demod j with used := some ((s1.demod j).used.getD (s.reg a)) }
    else s1.setDemod j { used := some w, counterFrom := s.now }
  else (s1.setDemod j { s1.demod j with used := none }).setBit (Reg.SD_STATUS (j / 8) (j % 8)) 0 false

def execSdDecimation (j : Fin 48) (bits : List Bool) (s : State) : Out :=
  .next (if s.sectorOn (j.val / 8) && (s.bit (Reg.SD_CTL (j.val / 8) (j.val % 8)) 30 || s.inputLive (2 * j.val + 1) 3) then
      sdDecimate j bits s else s)

/-- A write of 1 restarts the decimation counter; the integrators keep running (R119). -/
def execSdSync (j : Fin 48) (value : Word) (s : State) : Out :=
  .next (if s.sectorOn (j.val / 8) && bitAt value 0 then s.setDemod j { s.demod j with counterFrom := s.now } else s)

/-- The demodulator's clock is lost: it holds, and sd_fault is set (R119). -/
def sdClkLostEff (j : Nat) (s : State) : State :=
  let a := Reg.SD_STATUS (j / 8) (j % 8)
  afeEvent (j / 8) (oneBit 4) <|
    (noteSet a (oneBit 2) (s.setReg a (withBit (s.reg a) 0 false ||| oneBit 2))).setDemod j { s.demod j with clkLost := true }

def execSdClkLost (j : Fin 48) (s : State) : Out :=
  .next (if s.sectorOn (j.val / 8) && s.bit (Reg.SD_CTL (j.val / 8) (j.val % 8)) 31 then sdClkLostEff j s else s)

def execSdClkReturn (j : Fin 48) (s : State) : Out :=
  .next (if s.sectorOn (j.val / 8) && (s.demod j).clkLost then s.setDemod j { sdClear (s.demod j) with clkLost := false }
    else s)

def execSdOverrange (j : Fin 48) (s : State) : Out :=
  .next (if s.sectorOn (j.val / 8) && s.bit (Reg.SD_CTL (j.val / 8) (j.val % 8)) 31 then
    afeEvent (j.val / 8) (oneBit 4) (noteSet (Reg.SD_STATUS (j.val / 8) (j.val % 8)) (oneBit 1)
      (s.setReg (Reg.SD_STATUS (j.val / 8) (j.val % 8)) (s.reg (Reg.SD_STATUS (j.val / 8) (j.val % 8)) ||| oneBit 1))) else s)

/-! ### Calibration (R120) -/

def State.spareConv (s : State) (k : Nat) : Nat := s.fld (Reg.AFE_CAL_STATUS k) 29 28

/-- A rotation step begins: the spare calibrates, unless a converter has failed and rotation has stopped (R120). -/
def calStepEff (k : Nat) (s : State) : State :=
  if s.rotating k && decide (s.calPhase k = 0) && decide (s.fld (Reg.AFE_CAL_STATUS k) 27 24 = 0) then
    setCalPhase k 1 s
  else s

def execCalStep (sector : Fin 6) (s : State) : Out :=
  .next (if s.sectorOn sector then calStepEff sector s else s)

/-- The ADC of sector `k` that converter `c` serves, if one does. -/
def State.adcOfConv (s : State) (k c : Nat) : Option Nat :=
  ((List.range 4).find? fun a => (s.adc (4 * k + a)).conv = c).map (4 * k + ·)

/-- Converter `c` is as newly calibrated as any. -/
def stampCal (k c : Nat) (s : State) : State :=
  let x := s.sector k
  s.setSector k { x with calAge := x.calAge.set c (x.calCount + 1), calCount := x.calCount + 1 }

/-- A converter fails its calibration: it is kept out, and the tailstock logs it (R120). -/
def calFailed (k c : Nat) (s : State) : State :=
  raiseTs 30 <| logOpen 2 10 evCalFailure [] <|
    afeEvent k (oneBit 7) (s.setBit (Reg.AFE_CAL_STATUS k) (24 + c) true)

/-- A calibration ends: of the spare in rotation, which then awaits its swap, or of the converter that a foreground
request named, whose ADC accepts triggers again (R120). -/
def calDoneEff (k : Nat) (pass : Bool) (s : State) : State :=
  match (s.sector k).foreground with
  | some c =>
    let idle : Bool := match s.adcOfConv k c with
      | some n => !(s.adc n).running
      | none => true
    if idle && decide (s.calPhase k = 1) then
      let s1 := setCalPhase k 0 (s.setSector k { s.sector k with foreground := none })
      let s2 := match s.adcOfConv k c with
        | some n => s1.setAdc n { s.adc n with calibrating := false }
        | none => s1
      if pass then stampCal k c s2 else calFailed k c s2
    else s
  | none =>
    if s.calPhase k = 1 then
      if pass then setCalPhase k 2 s
      else setCalPhase k 0 (calFailed k (s.spareConv k) s)
    else s

def execCalDone (sector : Fin 6) (pass : Bool) (s : State) : Out :=
  .next (if s.sectorOn sector then calDoneEff sector pass s else s)

/-- The local ADC 0 to 2 whose converter's calibration is oldest, the lower converter number first (R120). -/
def State.outgoing (s : State) (k : Nat) : Nat :=
  let key (a : Nat) : Nat := (s.sector k).calAge.getD (s.adc (4 * k + a)).conv 0 * 4 + (s.adc (4 * k + a)).conv
  if key 0 ≤ key 1 ∧ key 0 ≤ key 2 then 0 else if key 1 ≤ key 2 then 1 else 2

/-- The spare replaces the converter of the outgoing ADC, which must have no entry in flight; its new calibration counts
from here, since a swap that is abandoned leaves it the one before (R120). -/
def calSwapEff (k : Nat) (s : State) : State :=
  let n := 4 * k + s.outgoing k
  let a := s.adc n
  if s.calPhase k = 2 ∧ ¬ a.running then
    setCalPhase k 0 <| stampCal k (s.spareConv k) <|
      (s.setFld (Reg.AFE_CAL_STATUS k) 29 28 a.conv).setAdc n { a with conv := s.spareConv k, swapped := true }
  else s

def execCalSwap (sector : Fin 6) (s : State) : Out :=
  .next (if s.sectorOn sector then calSwapEff sector s else s)

def execCalSkip (sector : Fin 6) (s : State) : Out :=
  .next (if s.sectorOn sector && decide (s.calPhase sector = 2) then
    afeEvent sector (oneBit 6) (setCalPhase sector 0 s) else s)

/-- The writable fields of AFE_CAL_CTL (R130). -/
def calCtlMask : Word := 0xB00FFFFF

/-- A foreground calibration of converter `c` is requested: its ADC refuses new triggers from now on, and calibration
starts once it runs no sequence and has no trigger queued (R120). -/
def calRequest (k c : Nat) (s : State) : State :=
  let s1 := s.setSector k { s.sector k with foreground := some c }
  match s1.adcOfConv k c with
  | some m =>
    let s2 := s1.setAdc m { s1.adc m with calibrating := true }
    if (s1.adc m).running then s2 else setCalPhase k 1 s2
  | none => setCalPhase k 1 s1

/-- A write of AFE_CAL_CTL by the tailstock. Rotation off: the spare serves ADC 4s + 3, and a calibration in progress
or a swap awaiting its point is abandoned. Rotation on: the converter of ADC 4s + 3 is the spare, the conversion in
flight is its last, and its queued triggers are dropped. With rotation off, cal_req starts a foreground calibration
of cal_conv (R106, R110, R120, R130). -/
def calCtlWrite (k : Nat) (v : Word) (s : State) : State :=
  let was := s.rotating k
  let s1 := s.setReg (Reg.AFE_CAL_CTL k) (v &&& calCtlMask)
  let n := 4 * k + 3
  let a := s.adc n
  if bitAt v 31 then
    if was then s1
    else
      let s2 := (s1.setFld (Reg.AFE_CAL_STATUS k) 29 28 a.conv).setAdc n
        { a with queue := [], word := if a.running then withBit a.word 31 true else a.word }
      forEach (List.range a.queue.length) (fun _ s => trigUnavailable k s) s2
  else
    let s2 := if was then setCalPhase k 0 (s1.setAdc n { a with conv := s.spareConv k }) else s1
    if bitAt v 30 && (s.sector k).foreground.isNone then calRequest k (fieldOf v 29 28) s2 else s2

def execRotate (sector : Fin 6) (value : Word) (s : State) : Out :=
  .next (if s.sectorOn sector then calCtlWrite sector (value &&& ~~~oneBit 30) s else s)

def execCalReq (sector : Fin 6) (value : Word) (s : State) : Out :=
  .next (if s.sectorOn sector then calCtlWrite sector (value ||| oneBit 30) s else s)

end Sys2Proof.Machine
end

