-- ==== Sys2Proof/Machine/Pwm.lean ====
section
/-! DEFINITION. The pulse-width modulators (spec/07): carriers, compare loads, edges with dead time, trips, arming. -/

namespace Sys2Proof.Machine

def State.grpCtl (s : State) (g : Nat) : Word := s.reg (Reg.PWM_GRP_CTL g)
def State.pairCtl (s : State) (k : Nat) : Word := s.reg (Reg.PWM_PAIR_CTL (k / 4) (k % 4))

/-- The carrier mode: 0 edge-aligned, 1 centre-aligned, 2 valley switching (R179). -/
def State.carrierMode (s : State) (g : Nat) : Nat := fieldOf (s.grpCtl g) 30 29
def State.centred (s : State) (g : Nat) : Bool := decide (s.carrierMode g = 1)

/-- per32 (R160). -/
def State.per32 (s : State) (g : Nat) : Nat := s.fld (Reg.PWM_PER g) 23 0

/-- Does the group's carrier run? -/
def State.carrierRuns (s : State) (g : Nat) : Bool :=
  s.sectorOn (g / 4) && bitAt (s.grpCtl g) 31 && decide (s.pwmState g ≠ pwmParted)

/-- The pair's own position x_p = (x - shift) mod per32; in the longer period that a raised shift begins it counts up to
0 first (R162). -/
def State.pairPos (s : State) (k : Nat) : Int :=
  let per := s.per32 (k / 4)
  let x := s.fld (Reg.PWM_POS (k / 4)) 23 0
  if (s.pair k).lead = 0 then ((x + per - (s.pair k).shift % per) % per : Nat) else -((s.pair k).lead : Int)

/-! ### Edges and dead time (R162, R165) -/

/-- Is the pair independent (R182)? -/
def State.indep (s : State) (k : Nat) : Bool := bitAt (s.pairCtl k) 31

/-- The blanking edge code of a change of output `x` (R122). -/
def edgeCode (x : PwmSide) (rise : Bool) : Nat := 2 * sideBit x + (if rise then 0 else 1)

/-- The level that modulation asks of output `x`, before dead time: in complementary operation B is the inverse of A
(R165). -/
def State.wants (s : State) (k : Nat) : PwmSide → Bool
  | .a => (s.pair k).a.want
  | .b => if s.indep k then (s.pair k).b.want else !(s.pair k).a.want

/-- The dead time of a rising edge of output `x`; independent outputs have none (R165). -/
def State.deadTime (s : State) (k : Nat) (x : PwmSide) : Nat :=
  if s.indep k then 0
  else match x with
    | .a => s.fld (Reg.PWM_DT_RISE (k / 4) (k % 4)) 16 0
    | .b => s.fld (Reg.PWM_DT_FALL (k / 4) (k % 4)) 16 0

/-- Output `x` takes a level at once; its comparators' blanking windows see the edge (R117). -/
def outputNow (k : Nat) (x : PwmSide) (active : Bool) (s : State) : State :=
  let p := s.pair k
  let o := p.side x
  let s1 := s.setPair k (p.setSide x { o with level := active, rising := false })
  if o.level = active then s1 else blankOpen k (edgeCode x active) s1

/-- Output `x` is to rise once its dead time has passed; without dead time it rises at once (R165). -/
def outputRise (k : Nat) (x : PwmSide) (s : State) : State :=
  let p := s.pair k
  if (p.side x).level then s
  else if s.deadTime k x = 0 then outputNow k x true s
  else s.setPair k (p.setSide x { p.side x with rising := true })

/-- Both outputs go to the levels (`a`, `b`): falling edges at once, rising edges after their dead times (R165). -/
def drivePair (k : Nat) (a b : Bool) (s : State) : State :=
  let s1 := if a then s else outputNow k .a false s
  let s2 := if b then s1 else outputNow k .b false s1
  let s3 := if a then outputRise k .a s2 else s2
  if b then outputRise k .b s3 else s3

/-- The outputs follow the out_mode in effect, unless a trip or a burst pause holds them (R164, R167, R171). -/
def resumePair (k : Nat) (s : State) : State :=
  if (s.pair k).tripped || (s.group (k / 4)).burstOff then s
  else match (s.pair k).outMode with
    | 1 => drivePair k false false s
    | 2 => drivePair k false true s
    | 3 => drivePair k true false s
    | _ => drivePair k (s.wants k .a) (s.wants k .b) s

/-- Are output edges let through: normal modulation, no trip and no burst pause (R164, R167, R171)? -/
def State.modulating (s : State) (k : Nat) : Bool :=
  decide ((s.pair k).outMode = 0) && !(s.pair k).tripped && !(s.group (k / 4)).burstOff

/-- An edge of output `x` is placed: modulation asks for the new level, and the outputs follow where they may. -/
def placeEdge (k : Nat) (x : PwmSide) (active : Bool) (s : State) : State :=
  let p := s.pair k
  let s1 := s.setPair k (p.setSide x { p.side x with want := active })
  if s.modulating k then
    if s.indep k then (if active then outputRise k x s1 else outputNow k x false s1)
    else if x = .a then drivePair k active (!active) s1
    else s1
  else s1

/-- The active compare of output `x`; in complementary operation both outputs follow compare A (R162, R165). -/
def State.activeCompare (s : State) (k : Nat) : PwmSide → Nat
  | .a => s.fld (Reg.PWM_CMPA_ACT (k / 4) (k % 4)) 23 0
  | .b => s.fld (Reg.PWM_CMPB_ACT (k / 4) (k % 4)) 23 0

/-- The positions of the closing and the opening slot for compare `c` (R162). -/
def slotPositions (centred : Bool) (per c : Nat) : Nat × Nat :=
  if centred then (c / 2, per - (c + 1) / 2) else (c, 0)

/-- May the trip action "active" of output `x` drive it now: its partner is inactive (R171)? -/
def State.partnerInactive (s : State) (k : Nat) (x : PwmSide) : Bool :=
  let y : PwmSide := if x = .a then .b else .a
  !(decide (s.fld (Reg.PWM_TRIP_ACT (k / 4) (k % 4)) (2 * sideBit y + 1) (2 * sideBit y) = 1) && ((s.pair k).side y).tripActive)

/-- PWM_EDGE: the pair's position reaches a slot whose edge is still owed, or the end of a dead time (R162, R165,
R168). Compare 0 has no opening, and a compare of per32 or more no closing edge. -/
def pwmEdgeEff (k : Nat) (x : PwmSide) (e : PwmEdgeKind) (s : State) : State :=
  let p := s.pair k
  let o := p.side x
  let c := s.activeCompare k x
  match e with
  | .opening =>
    if o.opening = .owed ∧ c ≠ 0 then
      placeEdge k x true (s.setPair k (p.setSide x { o with opening := .placed }))
    else s
  | .closing =>
    if o.closing = .owed ∧ c < s.per32 (k / 4) then
      placeEdge k x false (s.setPair k (p.setSide x { o with closing := .placed }))
    else s
  | .deadTimeEnd =>
    if p.tripped then
      if s.partnerInactive k x then s.setPair k (p.setSide x { o with tripActive := true }) else s
    else if o.rising then outputNow k x true s
    else s

/-! ### Compare loads (R166, R168) -/

/-- A slot that a new compare reaches too late: mode REACH places the edge now (late_edge), mode CROSS misses it
(missed_edge) (R168). `active` tells the opening slot from the closing one. -/
def lateSlot (k : Nat) (x : PwmSide) (active : Bool) (s : State) : State :=
  let p := s.pair k
  let o := p.side x
  if bitAt (s.pairCtl k) 30 then
    let o' := if active then { o with opening := .placed } else { o with closing := .placed }
    pwmEvent (k / 4) (oneBit 4) (placeEdge k x active (s.setPair k (p.setSide x o')))
  else
    let o' := if active then { o with opening := .missed } else { o with closing := .missed }
    pwmEvent (k / 4) (oneBit 3) (s.setPair k (p.setSide x o'))

/-- The register that shows the active compare of output `x`. -/
def actReg (k : Nat) : PwmSide → Nat
  | .a => Reg.PWM_CMPA_ACT (k / 4) (k % 4)
  | .b => Reg.PWM_CMPB_ACT (k / 4) (k % 4)

/-- The register that holds the shadow compare of output `x`. -/
def cmpReg (k : Nat) : PwmSide → Nat
  | .a => Reg.PWM_CMPA (k / 4) (k % 4)
  | .b => Reg.PWM_CMPB (k / 4) (k % 4)

/-- The slots of compare `c` in the present period, in centre-aligned mode in the present half, with their positions; the
opening slot is marked true. Compare 0 has no edge but, in edge-aligned mode, a closing one at 0 (R162, R168). -/
def slotsOf (centred second : Bool) (per c : Nat) : List (Bool × Int) :=
  if per ≤ c then []
  else if centred then
    if second then (if c = 0 then [] else [(true, ((slotPositions true per c).2 : Int))]) else [(false, ((c / 2 : Nat) : Int))]
  else (if c = 0 then [] else [(true, 0)]) ++ [(false, (c : Int))]

/-- Is position `pos` of a pair in the second half of its period? -/
def secondHalf (per : Nat) (pos : Int) : Bool := decide ((per / 2 : Nat) ≤ pos)

/-- The slots still owed that compare `c` would reach too late, in effect at position `pos`: less than two cycles ahead of
it, and not about to be placed by the compare that governs them until then (R168). -/
def State.lateSlots (s : State) (k : Nat) (x : PwmSide) (c : Nat) (pos : Int) (second : Bool) : List Bool :=
  let g := k / 4
  let old := s.activeCompare k x
  let before := if old = 0 then [] else slotsOf (s.centred g) second (s.per32 g) old
  let o := (s.pair k).side x
  ((slotsOf (s.centred g) second (s.per32 g) c).filter fun q =>
    decide ((if q.1 then o.opening else o.closing) = .owed) && decide (q.2 - pos < 64) &&
      !before.any fun b => b.1 == q.1 && decide (0 ≤ b.2 - pos) && decide (b.2 - pos < 64)).map (·.1)

/-- A compare of per32 or more holds its output active with no edges (R162). -/
def holdFull (k : Nat) (x : PwmSide) (c : Nat) (s : State) : State :=
  if s.per32 (k / 4) ≤ c ∧ s.wants k x = false then placeEdge k x true s else s

/-- Does compare `x` of the pair act on a running carrier: A, and B in independent operation (R162, R165)? -/
def State.comparing (s : State) (k : Nat) (x : PwmSide) : Bool :=
  s.carrierRuns (k / 4) && (decide (x = .a) || s.indep k)

/-- Compare `c` reaches the active compare of output `x` in the cycle that begins at position `pos`; on a running carrier
each slot is judged by R168. -/
def activeLoadAt (k : Nat) (x : PwmSide) (c : Nat) (pos : Int) (second : Bool) (s : State) : State :=
  let s1 := s.setReg (actReg k x) (toWord (c % 2 ^ 24))
  if s.comparing k x then
    (s.lateSlots k x c pos second).foldl (fun s active => lateSlot k x active s) (holdFull k x c s1)
  else s1

/-- The same at the pair's present position. -/
def activeLoad (k : Nat) (x : PwmSide) (c : Nat) (s : State) : State :=
  activeLoadAt k x c (s.pairPos k) (secondHalf (s.per32 (k / 4)) (s.pairPos k)) s

/-- Does a loop port own compare `x` of the pair (R166)? -/
def State.loopOwns (s : State) (k : Nat) (x : PwmSide) : Bool :=
  match x with
  | .a => (s.pair k).ownerA.isSome
  | .b => (s.pair k).ownerB.isSome

/-- out_mode `m` takes effect with its compare (R167). -/
def takeMode (k m : Nat) (s : State) : State := resumePair k (s.setPair k { s.pair k with outMode := m })

/-- The shadow load of output `x` in the cycle that begins at `pos`, unless a loop port owns it (R166): the shadow as it
stood before a write of this cycle (R33). -/
def shadowLoad (k : Nat) (x : PwmSide) (pos : Int) (second : Bool) (s : State) : State :=
  if s.loopOwns k x then s
  else activeLoadAt k x (fieldOf (s.loaded (cmpReg k x)) 23 0) pos second s

/-- A load point of a pair: `zero` or the period point, as load_sel chooses (R162, R166). The load-point cycle is the one
before the position's present value. -/
def loadPoint (k : Nat) (zero period : Bool) (s : State) : State :=
  let sel := fieldOf (s.pairCtl k) 29 28
  let pos := s.pairPos k - 32
  if (sel = 0 ∧ zero) ∨ (sel = 1 ∧ period) ∨ (sel = 2 ∧ (zero || period)) then
    takeMode k (s.pair k).shadowMode (shadowLoad k .b pos (!zero) (shadowLoad k .a pos (!zero) s))
  else s

/-- A loop's duty that waits where no edge of the old compare will come governs from the next period on (R144). -/
def lateRelease (k : Nat) (s : State) : State :=
  match (s.pair k).late with
  | none => s
  | some c => holdFull k .a c ((s.setPair k { s.pair k with late := none }).setReg (actReg k .a) (toWord (c % 2 ^ 24)))

/-- The zero load point of a pair: every slot of the new period is owed (in centre-aligned mode the closing slots),
a changed shift takes effect, and the shadows load (R162, R166). In edge-aligned mode it is the period point too. A
raised shift begins a pair period that is longer by the difference. -/
def pairZero (k : Nat) (s : State) : State :=
  let g := k / 4
  let p := s.pair k
  let renew (o : PwmOut) : PwmOut :=
    if s.centred g then { o with closing := .owed } else { o with closing := .owed, opening := .owed }
  let shift := fieldOf (s.loaded (Reg.PWM_SHIFT g (k % 4))) 23 0
  let c := s.activeCompare k .a
  let s1 := s.setPair k { p with a := renew p.a, b := renew p.b, shift := shift, lead := shift - p.shift }
  let s2 := if c = 0 ∨ s.per32 g ≤ c then lateRelease k s1 else s1
  loadPoint k true (!s.centred g) s2

/-- The peak of a pair in centre-aligned mode: its opening slots are owed, and the period load point is there. -/
def pairPeak (k : Nat) (s : State) : State :=
  let p := s.pair k
  if s.centred (k / 4) then
    loadPoint k false true
      (s.setPair k { p with a := { p.a with opening := .owed }, b := { p.b with opening := .owed } })
  else s

/-- After a restart the slots before the position of two cycles on are behind the count (R161, R168). -/
def restartSlots (k : Nat) (s0 : State) : State :=
  let per := s0.per32 (k / 4)
  let pos := s0.pairPos k
  let second := s0.centred (k / 4) && secondHalf per pos
  let p := s0.pair k
  let s := if second then s0.setPair k { p with a := { p.a with opening := .owed }, b := { p.b with opening := .owed } } else s0
  forEach [0, 1] (fun j s =>
    let x : PwmSide := if j = 0 then .a else .b
    if s.comparing k x then
      let c := s.activeCompare k x
      let slots := (if second then slotsOf true false per c else []) ++ slotsOf (s.centred (k / 4)) second per c
      (slots.filter fun q => decide (q.2 < pos + 64) &&
        decide ((if q.1 then ((s.pair k).side x).opening else ((s.pair k).side x).closing) = .owed)).foldl
          (fun s q => lateSlot k x q.1 s) s
    else s) s

/-! ### Periods (R160, R161, R163, R164, R175) -/

/-- Arming hand-over at a period start: the pads leave safe logic with every output inactive, and an output due to be
active goes active after its dead time (R175); while a zone of the mask or another trip holds the group, its outputs take
their trip actions (R171). -/
def armHandover (g : Nat) (s : State) : State :=
  if s.pwmState g = pwmArming then
    let s1 := forEach (pairsOf g) (fun k s => s.setPair k (s.pair k).rest)
      (s.setFld (Reg.PWM_GRP_STATUS g) 31 30 pwmArmed)
    if s1.groupHeld g then tripGroup g s1 else forEach (pairsOf g) resumePair s1
  else s

/-- The burst pattern at a period start: burst_on periods pass, burst_off periods hold every output inactive
(R164); a count of 0 acts as 1 (log entry 15). At the end of a hold the outputs due to be active rise with dead time. -/
def burstStep (g : Nat) (s : State) : State :=
  let q := s.group g
  if bitAt (s.grpCtl g) 28 then
    let on := max 1 (s.fld (Reg.PWM_BURST g) 15 0)
    let off := max 1 (s.fld (Reg.PWM_BURST g) 31 16)
    let hold : Bool := decide (on ≤ q.burstCount % (on + off))
    let s1 := s.setGroup g { q with burstCount := (q.burstCount + 1) % (on + off), burstOff := hold }
    if hold then forEach (pairsOf g) (fun k s => drivePair k false false s) s1
    else if q.burstOff then forEach (pairsOf g) resumePair s1
    else s1
  else
    let s1 := s.setGroup g { q with burstCount := 0, burstOff := false }
    if q.burstOff then forEach (pairsOf g) resumePair s1 else s1

/-- The carrier position a period starts from in lock mode: floor(phase * per32 / 2^32) (R161). -/
def State.lockPos (s : State) (g : Nat) : Nat :=
  let n := s.fld (Reg.PWM_SYNC g) 9 0
  (tabGet ({} : Spindle) n s.spindles).pos.toNat % 2 ^ 32 * s.per32 g / 2 ^ 32

/-- A period of group `g` starts at position `x`: the period event, arming hand-over, the burst pattern, the DAC
ramps, and the zero load point of every pair without a shift; after a restart, of every pair (R160, R161). -/
def periodStart (g x : Nat) (restart : Bool) (s : State) : State :=
  let s1 := s.setReg (Reg.PWM_POS g) (toWord x)
  let s2 := notePulse (periodPulse g) (s1.setGroup g { s1.group g with valleyOpen := false, due := false })
  let s3 := dacRampRestart g (burstStep g (armHandover g (pwmEvent g (oneBit 1) s2)))
  forEach (pairsOf g) (fun k s =>
    if restart then restartSlots k (pairZero k (s.setPair k { s.pair k with lead := 0 }))
    else if (s.pair k).shift = 0 then pairZero k s
    else s) s3

/-- A valid per32 (R160). -/
def perValid (p : Nat) : Bool := decide (2048 ≤ p)

/-- Does the group use a value that gives undefined results: per32 out of range, carrier 0b11, vcmp 12 to 15, a PWM_SYNC
number that its kind does not list (R39, R160, R179, R181)? -/
def State.groupMisused (s : State) (g : Nat) : Bool :=
  let n := s.fld (Reg.PWM_SYNC g) 9 0
  let kind := s.fld (Reg.PWM_SYNC g) 31 30
  !perValid (s.per32 g) || decide (s.carrierMode g = 3) || decide (12 ≤ fieldOf (s.grpCtl g) 19 16) ||
    (decide (kind = 1) && decide (616 ≤ n)) || (decide (kind = 2) && decide (4 * sectorCount s.sys.variant ≤ n)) ||
    (decide (kind = 3) && decide (154 ≤ n))

/-- The pair `p` with what its carrier makes of it taken from `u`; trips, and who owns its compares, stand. -/
def PwmPair.spoil (p u : PwmPair) : PwmPair :=
  { u with tripped := p.tripped, ownerA := p.ownerA, ownerB := p.ownerB, ownerShift := p.ownerShift
           a := { u.a with tripActive := p.a.tripActive }, b := { u.b with tripActive := p.b.tripActive } }

/-- Undefined results for group `g` (R40): its position, levels, compares, table indexes and events are open; its state and
its trips stand, so that its outputs keep their safe or armed behaviour. -/
def spoilGroup (g : Nat) (s0 : State) : State :=
  let u := (takeState s0).1
  let s1 := spoilRegs (keysIn (Reg.PWM_GRP_CTL g + 8) (Reg.PWM_GRP_CTL g + 0x1000)) u (takeState s0).2
  let s2 := s1.setReg (Reg.PWM_GRP_STATUS g) ((s1.reg (Reg.PWM_GRP_STATUS g) &&& 0xF8000000) ||| (u.reg (Reg.PWM_GRP_STATUS g) &&& 0xFE))
  let s3 := forEach (pairsOf g) (fun k s => s.setPair k ((s.pair k).spoil (u.pair k))) s2
  s3.setGroup g { s3.group g with
    burstCount := (u.group g).burstCount, burstOff := (u.group g).burstOff, valleyOpen := (u.group g).valleyOpen
    due := (u.group g).due }

/-- CARRIER_PERIOD: the position has reached per32 and the remainder carries into the next period; in lock mode the
phase crosses 0; in valley switching a window of vwin cycles opens instead (R160 to R163). The pair points are the load
points of shifted pairs and the peaks. -/
def carrierPeriodEff (g : Nat) (pt : CarrierPoint) (s : State) : State :=
  if s.groupMisused g then spoilGroup g s
  else match pt with
  | .period =>
    if s.carrierMode g = 2 ∧ fieldOf (s.grpCtl g) 15 0 ≠ 0 then
      (s.setReg (Reg.PWM_POS g) (toWord (s.per32 g))).setGroup g { s.group g with valleyOpen := true, due := false }
    else if s.fld (Reg.PWM_SYNC g) 31 30 = 3 then periodStart g (s.lockPos g) false s
    else periodStart g (if (s.group g).due then s.fld (Reg.PWM_POS g) 23 0 else 0) false s
  | .pairZero p => if (s.pair (4 * g + p)).shift = 0 then s else pairZero (4 * g + p) s
  | .pairPeak p => pairPeak (4 * g + p) s

def execCarrierPeriod (g : Fin 24) (point : CarrierPoint) (s : State) : Out :=
  .next (if s.carrierRuns g then carrierPeriodEff g point s else s)

/-- Is the restart's source the one that PWM_SYNC names, and has it had its event in the last two cycles (R161)? -/
def State.syncNamed (s : State) (g : Nat) (src : SyncSource) : Bool :=
  let n := s.fld (Reg.PWM_SYNC g) 9 0
  match src with
  | .line q => decide (s.fld (Reg.PWM_SYNC g) 31 30 = 1) && decide (n = q.val) && s.pulsed (linePulse q) 2
  | .group h => decide (s.fld (Reg.PWM_SYNC g) 31 30 = 2) && decide (n = h.val) && s.pulsed (periodPulse h) 2
  | .spindle => decide (s.fld (Reg.PWM_SYNC g) 31 30 = 3)

/-- SYNC_RESTART: the group starts a new period from PWM_SYNC_PHASE at the event that PWM_SYNC names (R161); in lock mode
the event is a lost lock. -/
def syncRestartEff (g : Nat) (src : SyncSource) (s : State) : State :=
  if s.groupMisused g then spoilGroup g s
  else if s.syncNamed g src then
    match src with
    | .spindle =>
      let st := s.fld (Reg.SPN_STATUS (s.fld (Reg.PWM_SYNC g) 9 0)) 31 29
      if st = 2 ∨ st = 4 then s else loseLock g s
    | _ => periodStart g (s.fld (Reg.PWM_SYNC_PHASE g) 23 0 % max 1 (s.per32 g)) true s
  else s

def execSyncRestart (event : RestartEvent) (s : State) : Out :=
  .next (if s.carrierRuns event.group then syncRestartEff event.group event.source s else s)

/-- The comparator vcmp of the group's sector is active, blanking and hold allowing (R117, R163). -/
def State.valleySeen (s : State) (g : Nat) : Bool := (s.comparator (12 * (g / 4) + fieldOf (s.grpCtl g) 19 16)).out

/-- The valley comparator vcmp becomes active in the open window: the period starts (R163). -/
def execValleyDetect (g : Fin 24) (s : State) : Out :=
  .next (if s.carrierRuns g && (s.group g).valleyOpen then
      (if s.groupMisused g then spoilGroup g s else if s.valleySeen g then periodStart g 0 false s else s)
    else s)

/-- The valley window ends: the period starts (R163). -/
def execValleyWindowEnd (g : Fin 24) (s : State) : Out :=
  .next (if s.carrierRuns g && (s.group g).valleyOpen then periodStart g 0 false s else s)

/-- The pairs whose longer period has not begun at 0 yet come nearer by `d` steps (R162). -/
def leadTick (g d : Nat) (s : State) : State :=
  forEach (pairsOf g) (fun k s =>
    if (s.pair k).lead = 0 then s else s.setPair k { s.pair k with lead := (s.pair k).lead - d }) s

/-- One cycle of a running carrier: 32 fine steps, or the locked spindle's phase; where the position reaches per32 the
remainder carries, in valley switching it holds (R160, R161, R163). -/
def carrierTick (g : Nat) (s : State) : State :=
  if !s.carrierRuns g then s
  else if s.groupMisused g then spoilGroup g s
  else
    let x := s.fld (Reg.PWM_POS g) 23 0
    let per := s.per32 g
    let valley : Bool := decide (s.carrierMode g = 2) && decide (fieldOf (s.grpCtl g) 15 0 ≠ 0)
    if s.fld (Reg.PWM_SYNC g) 31 30 = 3 then
      leadTick g ((s.lockPos g + per - x % per) % per) (s.setReg (Reg.PWM_POS g) (toWord (s.lockPos g)))
    else if (s.group g).valleyOpen || (valley && (s.group g).due) then s
    else if x + 32 < per then leadTick g 32 (s.setFld (Reg.PWM_POS g) 23 0 (x + 32))
    else
      leadTick g 32 ((s.setFld (Reg.PWM_POS g) 23 0 (if valley then per else (x + 32 - per) % per)).setGroup g
        { s.group g with due := true })

/-! ### Writes of compares, duty steps and loop duties (R166, R167, R144) -/

/-- A write of PWM_CMPA or PWM_CMPB goes to the shadow, with load_sel immediate to the active compare too (R166). -/
def cmpWrite (k : Nat) (x : PwmSide) (v : Word) (s : State) : State :=
  let s1 := (noteWrote (cmpReg k x) s).setReg (cmpReg k x) (v &&& 0xFFFFFF)
  if fieldOf (s.pairCtl k) 29 28 = 3 && !s.loopOwns k x then activeLoad k x (v.toNat % 2 ^ 24) s1 else s1

def execPwmCmpa (pair : Fin 96) (side : PwmSide) (value : Word) (s : State) : Out :=
  .next (if s.sectorOn (pair.val / 16) then cmpWrite pair side value s else s)

/-- The table index a DUTYSTEP reaches (R167). -/
def dtabNext (idx len : Nat) (data : Word) : Nat :=
  if bitAt data 30 then fieldOf data 3 0
  else (((idx : Int) + signedOf 5 data.toNat) % (len : Int)).toNat

/-- DUTYSTEP: the table entry's compare goes to the shadow or, with immediate, to the active compare, its out_mode
with it, unless a loop port owns the compare (R166, R167). A shadow that software has written in this cycle keeps its
value (R33). Bits [29:5] set give undefined results for the group. -/
def dutyStepEff (k : Nat) (data : Word) (s : State) : State :=
  if fieldOf data 29 5 ≠ 0 ∨ s.groupMisused (k / 4) then spoilGroup (k / 4) s
  else
  let g := k / 4
  let p := k % 4
  let len := fieldOf (s.pairCtl k) 19 16 + 1
  let idx := dtabNext (s.fld (Reg.PWM_DTAB_IDX g p) 3 0) len data
  let e := s.reg (Reg.PWM_DTAB g p idx)
  let c := fieldOf e 23 0
  let s1 := s.setReg (Reg.PWM_DTAB_IDX g p) (toWord idx)
  if s.loopOwns k .a then s1
  else if bitAt data 31 then takeMode k (fieldOf e 31 30) (activeLoad k .a c s1)
  else
    let s2 := (if s1.wroteNow (cmpReg k .a) then s1 else s1.setReg (cmpReg k .a) (toWord c)).setPair k
      { s1.pair k with shadowMode := fieldOf e 31 30 }
    if fieldOf (s.pairCtl k) 29 28 = 3 then takeMode k (fieldOf e 31 30) (activeLoad k .a (s2.fld (cmpReg k .a) 23 0) s2) else s2

/-- A DUTYSTEP action; a pair number beyond the part's does nothing (R79). -/
def execDutystep (target data : Word) (s : State) : Out :=
  .next (if s.sectorOn (fieldOf target 6 0 / 16) then dutyStepEff (fieldOf target 6 0) data s else s)

/-- A loop's duty reaches the active compare it owns (R144, R166); R144 has held back a value too late for its edge. -/
def loopDuty (k : Nat) (x : PwmSide) (c : Nat) (s : State) : State :=
  let s1 := s.setReg (actReg k x) (toWord (c % 2 ^ 24))
  if s.comparing k x then holdFull k x c s1 else s1

/-- A loop's duty that came too late for an edge governs the later ones (R144). -/
def lateDuty (k : Nat) (s : State) : State :=
  match (s.pair k).late with
  | none => s
  | some c => loopDuty k .a c (s.setPair k { s.pair k with late := none })

/-- Is it an edge of A whose position the compare decides: the opening of edge-aligned mode is fixed (R144, R162)? -/
def State.decidedEdge (s : State) (k : Nat) (x : PwmSide) (e : PwmEdgeKind) : Bool :=
  decide (x = .a) && (decide (e = .closing) || (decide (e = .opening) && s.centred (k / 4)))

def execPwmEdge (pair : Fin 96) (side : PwmSide) (kind : PwmEdgeKind) (s : State) : Out :=
  .next (if s.carrierRuns (pair.val / 4) then
    (if s.groupMisused (pair.val / 4) then spoilGroup (pair.val / 4) s
    else
      let s1 := pwmEdgeEff pair side kind s
      if s.decidedEdge pair side kind then lateDuty pair s1 else s1)
  else s)

/-- A loop's phase-shift port reaches PWM_SHIFT; it takes effect at the next zero load point (R162, R166). -/
def loopShift (k c : Nat) (s : State) : State :=
  if s.wroteNow (Reg.PWM_SHIFT (k / 4) (k % 4)) then s else s.setReg (Reg.PWM_SHIFT (k / 4) (k % 4)) (toWord (c % 2 ^ 24))

/-- A write of PWM_SHIFT, which a loop port may own (R166). -/
def shiftWrite (k : Nat) (v : Word) (s : State) : State :=
  let a := Reg.PWM_SHIFT (k / 4) (k % 4)
  if (s.pair k).ownerShift.isSome then s else (noteWrote a s).setReg a (v &&& 0xFFFFFF)

/-! ### Zone commands (R169 to R172) -/

def execZoneAssert (z : Fin 48) (s : State) : Out :=
  .next (if s.sectorOn (z.val / 8) then zoneRefresh false z s else s)

/-- Is the pin of output `x` active under its trip action (R171)? -/
def State.trippedActive (s : State) (k : Nat) (x : PwmSide) : Bool :=
  decide (s.fld (Reg.PWM_TRIP_ACT (k / 4) (k % 4)) (2 * sideBit x + 1) (2 * sideBit x) = 1) && ((s.pair k).side x).tripActive

/-- ZONE_RELEASE: at the pair's zero load point, once nothing holds its group tripped, its outputs resume their
modulated levels, with dead time on any output going active (R171). -/
def zoneReleaseEff (k : Nat) (s : State) : State :=
  if (s.pair k).tripped && !s.groupHeld (k / 4) then
    let p := s.pair k
    resumePair k (s.setPair k { p with
      tripped := false, a := { p.a.rest with level := s.trippedActive k .a }, b := { p.b.rest with level := s.trippedActive k .b } })
  else s

def execZoneRelease (pair : Fin 96) (s : State) : Out :=
  .next (if s.sectorOn (pair.val / 16) then zoneReleaseEff pair s else s)

/-- A level of TRIP_IN pin `m` has passed the asynchronous path, which the zones with pin_filt 0 see (R169, R170). -/
def tripPinNow (m : Nat) (asserted : Bool) (s : State) : State :=
  zonesRefresh (m / 2)
    { s with tripPins := if asserted then s.tripPins ||| (1#12 <<< m) else s.tripPins &&& ~~~(1#12 <<< m) }

/-- A level of TRIP_IN pin `m` has been stable for the pin_filt cycles of local zone `i` of its sector (R170, R184). -/
def tripPinFiltered (m i : Nat) (asserted : Bool) (s : State) : State :=
  let b := 2 * (8 * (m / 2) + i) + m % 2
  zonesRefresh (m / 2)
    { s with zonePins := if asserted then s.zonePins ||| (1#96 <<< b) else s.zonePins &&& ~~~(1#96 <<< b) }

/-- Every path of pin `m` starts at a level (R450). -/
def tripPinLevel (m : Nat) (asserted : Bool) (s : State) : State :=
  forEach (List.range 8) (fun i s => tripPinFiltered m i asserted s) (tripPinNow m asserted s)

/-- An input that no live pin carries stays as it is (R446, R450). -/
def execTripInPin (pin : TripPath) (asserted : Bool) (s : State) : Out :=
  .next (if s.inputLive (66 + pin.pin.val) 2 || s.inputLive (148 + pin.pin.val) 6 then
      (match pin.filter with
      | none => tripPinNow pin.pin asserted s
      | some i => tripPinFiltered pin.pin i asserted s)
    else s)

def execTzForce (z : Fin 48) (value : Word) (s : State) : Out :=
  .next (if s.sectorOn (z.val / 8) && bitAt value 0 then zoneForce z s else s)

/-- A write of TZ_STATUS: the causes clear at 1, latched only with every input inactive (R171, R185). -/
def tzStatusWrite (z : Nat) (v : Word) (s : State) : State :=
  let a := Reg.TZ_STATUS z
  let w := s.reg a &&& ~~~(v &&& 0xF &&& ~~~s.setNow a)
  s.setReg a (if bitAt v 30 && !s.zoneInput z && !bitAt (s.setNow a) 30 then withBit w 30 false else w)

def execLatchedClear (z : Fin 48) (value : Word) (s : State) : Out :=
  .next (if s.sectorOn (z.val / 8) then tzStatusWrite z (value ||| oneBit 30) s else s)

/-- The TRIP_ALL_N pin: asserted, it is a cause of the global trip; released, the trip stays until cleared (R172). -/
def execTripAllN (asserted : Bool) (s : State) : Out :=
  .next (if asserted then assertGlobalTrip 1 { s with tripAll := true } else { s with tripAll := false })

/-- Tailstock firmware asserts the global trip through PWM_GTRIP.assert, which reads 1 until the trip is cleared (R10,
R172, R178). -/
def gtripAssertEff (s : State) : State := assertGlobalTrip 0 (s.setBit Reg.PWM_GTRIP 31 true)

def execGtripAssert (s : State) : Out := .next (gtripAssertEff s)

/-- Tailstock firmware clears the global trip, only while TRIP_ALL_N is inactive (R172). -/
def gtripClearEff (s : State) : State :=
  if s.tripAll then s else allZonesRefresh (s.setReg Reg.PWM_GTRIP 0)

def execGtripClear (s : State) : Out := .next (gtripClearEff s)

/-! ### Arming (R175 to R177, R183) -/

/-- An arming request interrupts the tailstock (R175, R273). -/
def armRequest (g : Nat) (s : State) : State := raiseTs 18 (s.setGroup g { s.group g with armRequest := true })

def execPwmArmReq (g : Fin 24) (value : Word) (s : State) : Out :=
  .next (if s.sectorOn (g.val / 4) && bitAt value 0 then armRequest g s else s)

/-- The reason for which the hardware refuses to arm group `g`, as arm_code, 0 if none (R175, R180). -/
def State.armCode (s : State) (g : Nat) : Nat :=
  if ¬ bitAt (s.grpCtl g) 31 then 1
  else if ¬ s.sectorOn (g / 4) then 2
  else if (List.range 8).any (fun i => s.groupSelects g (8 * (g / 4) + i) && s.bit (Reg.TZ_STATUS (8 * (g / 4) + i)) 30)
    then 3
  else if (List.range 4).any (fun p =>
      decide (s.fld (Reg.PWM_DT_RISE g p) 16 0 < s.fld (Reg.PWM_DT_MIN g) 16 0) ||
      decide (s.fld (Reg.PWM_DT_FALL g p) 16 0 < s.fld (Reg.PWM_DT_MIN g) 16 0)) then 4
  else 0

/-- The tailstock writes arm: a group in SAFE enters ARMING, or the arm is refused (R175). -/
def armEff (g : Nat) (s : State) : State :=
  let s0 := s.setGroup g { s.group g with armRequest := false }
  if s.pwmState g = pwmSafe then
    let c := s.armCode g
    let s1 := s0.setFld (Reg.PWM_GRP_STATUS g) 29 27 c
    if c = 0 then s1.setFld (Reg.PWM_GRP_STATUS g) 31 30 pwmArming else pwmEvent g (oneBit 6) s1
  else s0

/-- Is a sensor in alarm (R406, R428)? Tailstock firmware then refuses arming requests (R426). -/
def State.sensorAlarm (s : State) : Bool := (List.range 56).any fun k => decide (s.fld (Reg.TSN_CTL k) 17 16 = 2)

def execArm (g : Fin 24) (s : State) : Out :=
  .next (if s.fclkOn then
      (if s.sensorAlarm then s.setGroup g { s.group g with armRequest := false } else armEff g s)
    else s)

def execSafeLock (g : Fin 24) (s : State) : Out :=
  .next (if s.sectorOn (g.val / 4) then s.setGroup g { s.group g with safeLock := true } else s)

/-- A pair whose carrier starts: nothing modulated, every slot owed. -/
def PwmPair.fresh (p : PwmPair) : PwmPair :=
  { p with a := { p.a with want := false, opening := .owed, closing := .owed }
           b := { p.b with want := false, opening := .owed, closing := .owed }, lead := 0 }

/-- A write of PWM_GRP_CTL: the burst pattern starts again (R164); disarm sends the group to SAFE; enable 0 and then 1 ends PARTED, a lost lock and a software
trip, and the carrier starts from 0 (R160, R161, R177, R179; the start is log entry 16). -/
def grpCtlWrite (g : Nat) (v0 : Word) (s : State) : State :=
  let v := s.keepEnable 1 g (Reg.PWM_GRP_CTL g) v0
  let was := bitAt (s.grpCtl g) 31
  let s0 := (s.setReg (Reg.PWM_GRP_CTL g) (v &&& 0xF1FFFFFF))
  let s1 := s0.setGroup g { s0.group g with burstCount := 0 }
  let q := s1.group g
  let s2 := if ¬ bitAt v 31 then s1.setGroup g { q with sawDisable := true }
    else if was then s1
    else
      let s' := s1.setGroup g { q with
        softTrip := q.softTrip && !q.sawDisable, lockTrip := q.lockTrip && !q.sawDisable
        burstCount := 0, burstOff := false, valleyOpen := false, due := false }
      let s'' := forEach (pairsOf g) (fun k s => s.setPair k (s.pair k).fresh) (s'.setReg (Reg.PWM_POS g) 0)
      if s.pwmState g = pwmParted ∧ q.sawDisable then s''.setFld (Reg.PWM_GRP_STATUS g) 31 30 pwmSafe else s''
  if bitAt v 27 then toSafe g s2 else s2

def execDisarm (g : Fin 24) (value : Word) (s : State) : Out :=
  .next (if s.sectorOn (g.val / 4) then grpCtlWrite g (value ||| oneBit 27) s else s)

/-- An abort parts the group: its pads turn safe and its counter stops (R177). -/
def partGroup (g : Nat) (s : State) : State :=
  (leaveArmed g pwmParted s).setGroup g { s.group g with sawDisable := false }

end Sys2Proof.Machine
end

