-- ==== Sys2Proof/Machine/Window.lean ====
section
/-! DEFINITION. Entries and holes of the index plate, and the near window that a streamed partition's spindle sweeps
(spec/04). -/

namespace Sys2Proof.Machine

def State.spn (s : State) (n : Nat) : Spindle := tabGet {} n s.spindles
def State.setSpn (s : State) (n : Nat) (x : Spindle) : State := { s with spindles := tabSet {} n x s.spindles }

/-! ### Entries and holes (R74 to R78) -/

def State.entry (s : State) (i : Nat) : PlateEntry := tabGet {} i s.plate.entries
def State.setPlate (s : State) (p : Plate) : State := { s with plate := p }
def State.setEntry (s : State) (i : Nat) (e : PlateEntry) : State :=
  s.setPlate { s.plate with entries := tabSet {} i e s.plate.entries }

/-- The number of entries (R93). -/
def plateEntries : Nat := 2097152

def State.partValid (s : State) (n : Nat) : Bool := s.bit (Reg.PLATE_PART_MAP n) 31
/-- d of partition `n`, its first hole, and its holes per turn (R74, R102). -/
def State.partLog (s : State) (n : Nat) : Nat := s.fld (Reg.PLATE_PART_MAP n) 28 24
def State.partBase (s : State) (n : Nat) : Nat := s.fld (Reg.PLATE_PART_MAP n) 19 0
def State.streamed (s : State) (n : Nat) : Bool := s.bit (Reg.PLATE_PART_RES n) 31

/-- The partition that holds hole `h` (R74). -/
def State.partOf (s : State) (h : Nat) : Option Nat :=
  (List.range 154).find? fun n =>
    s.partValid n && decide (s.partBase n ≤ h ∧ h < s.partBase n + 2 ^ s.partLog n)

/-- Partition states (R105). -/
def partDisabled : Nat := 0
def partRunning : Nat := 1
def partParted : Nat := 2
def partClearing : Nat := 3
def State.partState (s : State) (n : Nat) : Nat := s.fld (Reg.PLATE_PART_STATUS n) 31 30

/-- Events of partition `n` drive source 640 + n (R100, R105). -/
def partEvent (n : Nat) (bits : Word) (s : State) : State :=
  raiseStatus (Reg.PLATE_PART_STATUS n) (Reg.PLATE_PART_IRQ_EN n) (640 + n) bits s

/-- Events of the plate drive source 800 (R100). -/
def plateEvent (bits : Word) (s : State) : State := raiseStatus Reg.PLATE_STATUS Reg.PLATE_IRQ_EN 800 bits s

/-- The plate block answers on FCLK (R93). -/
def State.plateOn (s : State) : Bool := s.fclkOn

/-- Dispatch and fetch run, for which store and mirror must be there (R19, R28, R101). -/
def State.dispatchOn (s : State) : Bool := s.dramOn && s.bit Reg.PLATE_CTRL 31

/-- Fields of an entry (R77, R78). -/
def PlateEntry.fine (e : PlateEntry) : Nat := fieldOf e.w0 31 16
def PlateEntry.action (e : PlateEntry) : Nat := fieldOf e.w0 7 0
def PlateEntry.periodic (e : PlateEntry) : Bool := bitAt e.w0 15
def PlateEntry.latePolicy (e : PlateEntry) : Nat := fieldOf e.w0 14 13
def PlateEntry.dir (e : PlateEntry) : Nat := fieldOf e.w0 12 11
def PlateEntry.notify (e : PlateEntry) : Bool := bitAt e.w0 10

/-- The event phase of an entry of partition `n` (R75). -/
def State.eventPhase (s : State) (n : Nat) (e : PlateEntry) : Word :=
  let d := s.partLog n
  toWord ((e.hole - s.partBase n) * 2 ^ (32 - d) + e.fine * 2 ^ (16 - d))

/-- Does turn `t` pass the entry's filter (R81)? -/
def turnPasses (w3 : Word) (t : Nat) : Bool :=
  decide ((t ^^^ fieldOf w3 28 21) % 2 ^ fieldOf w3 31 29 = 0)

/-- Keys in the order of a hole: fine offset, then insertion (R76). -/
def entryBefore (a b : Nat × PlateEntry) : Bool :=
  decide (a.2.fine < b.2.fine) || (decide (a.2.fine = b.2.fine) && decide (a.2.order < b.2.order))

def insertSorted (x : Nat × PlateEntry) : List (Nat × PlateEntry) → List (Nat × PlateEntry)
  | [] => [x]
  | y :: ys => if entryBefore x y then x :: y :: ys else y :: insertSorted x ys

/-- The linked entries of hole `h`, in its order (R76). -/
def State.holeEntries (s : State) (h : Nat) : List (Nat × PlateEntry) :=
  (s.plate.entries.filter fun x => decide (x.2.kind = .linked) && decide (x.2.hole = h)).foldr insertSorted []

/-! ### Near window (R90, R94, R97) -/

/-- Is hole `h` of partition `n` in the near window (R90, R94)? -/
def State.holeNear (s : State) (n h : Nat) : Bool := !s.streamed n || s.plate.near.contains h

/-- The hole of partition `n` that its spindle's phase lies in (R75). -/
def State.presentHole (s : State) (n : Nat) : Nat :=
  s.partBase n + (lowWord (s.spn n).pos).toNat / 2 ^ (32 - s.partLog n)

/-- The hole `k` places ahead of the present one in the direction of motion, `k` negative for those behind (R94). -/
def State.holeAhead (s : State) (n : Nat) (k : Int) : Nat :=
  let d := 2 ^ s.partLog n
  let r := (s.presentHole n - s.partBase n : Nat)
  s.partBase n + (((r : Int) + (if s.bit (Reg.SPN_STATUS n) 28 then -k else k)) % (d : Int)).toNat

/-- The holes a streamed partition keeps: the one just left, the present one and the L ahead (R94). -/
def State.windowHoles (s : State) (n : Nat) : List Nat :=
  (List.range (s.fld (Reg.PLATE_PART_RES n) 23 16 + 2)).map fun k => s.holeAhead n ((k : Int) - 1)

/-- The holes a streamed partition sweeps next: the present one and the L ahead (R94). -/
def State.sweptHoles (s : State) (n : Nat) : List Nat :=
  ((List.range (s.fld (Reg.PLATE_PART_RES n) 23 16 + 1)).map fun k => s.holeAhead n (k : Int)).dedup

/-- Entries that the near window holds or has room kept for, of partition `n`. -/
def State.nearFill (s : State) (n : Nat) : Nat :=
  (s.plate.entries.filter fun x =>
    decide (x.2.kind = .linked) && decide (s.partOf x.2.hole = some n) &&
      (s.plate.near.contains x.2.hole || s.plate.fetching.contains x.2.hole)).length

/-- A wanted hole's fetch starts once fewer than 32 run, no write to the hole is pending and the quota has room; the
partition's near window starves while it has none (R90, R94, R97). -/
def startFetch (h : Nat) (s : State) : State :=
  let rest := s.plate.wanted.filter (· ≠ h)
  match s.partOf h with
  | none => s.setPlate { s.plate with wanted := rest }
  | some n =>
    if 32 ≤ s.plate.fetching.length ∨ s.plate.writing.contains h then s
    else if s.fld (Reg.PLATE_PART_NEAR n) 18 0 < s.nearFill n + (s.holeEntries h).length then partEvent n (oneBit 7) s
    else s.setPlate { s.plate with wanted := rest, fetching := s.plate.fetching ++ [h] }

/-- The fetches that wait, in the order in which they were wanted. -/
def startFetches (s : State) : State := forEach s.plate.wanted startFetch s

/-- The near window follows the spindle: holes left behind are released, and the fetch of every hole to be swept that the
window lacks is wanted (R94). -/
def sweep (n : Nat) (s : State) : State :=
  let keep (h : Nat) : Bool := decide (s.partOf h ≠ some n) || (s.windowHoles n).contains h
  let near := s.plate.near.filter keep
  let more := (s.sweptHoles n).filter fun h =>
    !near.contains h && !s.plate.fetching.contains h && !s.plate.wanted.contains h
  startFetches (s.setPlate { s.plate with near := near, wanted := s.plate.wanted.filter keep ++ more })

/-- A streamed partition that runs fetches around its spindle's phase: at enable, and after a resync or a reversal (R85,
R94). -/
def refetch (n : Nat) (s : State) : State :=
  if s.streamed n && s.dispatchOn && decide (s.partState n = partRunning) then sweep n s else s

end Sys2Proof.Machine
end

