-- ==== Sys2Proof/Machine/Spindles.lean ====
section
/-! DEFINITION. Spindles and general timers (spec/03): positions, decoders, observers, mains, raster and free
timebases, compares, captures. -/

namespace Sys2Proof.Machine

/-- Spindle state codes (R54). -/
def spnOff : Nat := 0
def spnAcquire : Nat := 1
def spnLocked : Nat := 2
def spnStopped : Nat := 3
def spnCoast : Nat := 4
def spnLost : Nat := 5
def spnParted : Nat := 6

/-- SPN_STATUS.state (R54, R66). -/
def State.spnState (s : State) (n : Nat) : Nat := s.fld (Reg.SPN_STATUS n) 31 29

/-- Is spindle `n` present: the VL-8830 has no physical raster spindles (R2, R12)? -/
def State.spnPresent (s : State) (n : Nat) : Bool :=
  s.fclkOn && !(decide (n = 136 ∨ n = 137) && decide (s.sys.variant = .vl8830))

/-- SPN_SRC.src (R65). -/
def State.spnSrc (s : State) (n : Nat) : Nat := s.fld (Reg.SPN_SRC n) 28 26
/-- SPN_SRC.sel (R65). -/
def State.spnSel (s : State) (n : Nat) : Nat := s.fld (Reg.SPN_SRC n) 8 0

/-- Kinds of spindles (R12): shaft with encoder, Hall or observer source, mains, raster, free. -/
def State.isEncoder (s : State) (n : Nat) : Bool := decide (n < 64) && decide (s.spnSrc n = 0)
def State.isHall (s : State) (n : Nat) : Bool := decide (n < 64) && decide (s.spnSrc n = 1)
def State.isObserver (s : State) (n : Nat) : Bool := decide (n < 64) && decide (s.spnSrc n = 2)
def isMains (n : Nat) : Bool := decide (64 ≤ n ∧ n < 72)
def isRaster (n : Nat) : Bool := decide (72 ≤ n ∧ n < 138)
def isFree (n : Nat) : Bool := decide (138 ≤ n ∧ n < 154)
def State.counts (s : State) (n : Nat) : Bool := s.isEncoder n || s.isHall n

def State.spnEnabled (s : State) (n : Nat) : Bool := s.bit (Reg.SPN_CTRL n) 31

/-- Counts per turn; 0 to 3 act as 4 (R47). -/
def State.cpt (s : State) (n : Nat) : Nat := max 4 (s.fld (Reg.SPN_CPT n) 19 0)

def State.spnOffset (s : State) (n : Nat) : Int := (s.reg (Reg.SPN_OFFSET n)).toNat

/-- The backward hold limit in phase units (R53, R64). -/
def State.backHold (s : State) (n : Nat) : Nat := s.fld (Reg.SPN_CTRL n) 15 8 * 2 ^ 24

/-- Moving backward (R66). -/
def State.spnBackward (s : State) (n : Nat) : Bool := s.bit (Reg.SPN_STATUS n) 28
def setBackward (n : Nat) (b : Bool) (s : State) : State :=
  if s.spnBackward n = b then s else refetch n (s.setBit (Reg.SPN_STATUS n) 28 b)
def setVelValid (n : Nat) (b : Bool) (s : State) : State := s.setBit (Reg.SPN_STATUS n) 27 b
def setUncertain (n : Nat) (b : Bool) (s : State) : State := s.setBit (Reg.SPN_STATUS n) 26 b
def State.velValid (s : State) (n : Nat) : Bool := s.bit (Reg.SPN_STATUS n) 27

/-- Events of spindle `n` in SPN_STATUS drive source 256 + n (R66, R69). -/
def spnEvent (n : Nat) (bits : Word) (s : State) : State :=
  raiseStatus (Reg.SPN_STATUS n) (Reg.SPN_IRQ_EN n) (256 + n) bits s

def spnErr (n : Nat) (s : State) : State := spnEvent n (oneBit 11) s

/-- The velocity the spindle shows and extrapolates with (R49, R63). -/
def setVel (n : Nat) (v : Int) (s : State) : State :=
  (s.setSpn n { s.spn n with vel := v }).setReg (Reg.SPN_VEL n) (intWord v)

/-! ### Positions (R43, R45) -/

/-- The signed difference of two phases. -/
def phaseDiff (a b : Int) : Int := signedOf 32 ((a - b) % 2 ^ 32).toNat

/-- A step: the signed change is added to the 64-bit position (R43). The phase of the cycle before stays, however many
movements one cycle holds (R45). -/
def stepTo (n : Nat) (phase : Int) (s : State) : State :=
  let x := s.spn n
  s.setSpn n { x with pos := x.pos + BitVec.ofInt 64 (phaseDiff phase (lowWord x.pos).toNat) }

/-- A resync replaces the position and crosses nothing, and the plate fetches around the new phase (R43, R45, R85). -/
def resyncTo (n : Nat) (p : DWord) (s : State) : State :=
  refetch n (spnEvent n (oneBit 15) (s.setSpn n { s.spn n with pos := p, prev := p }))

/-- The position with phase `phase` that lies nearest the present one (R55). -/
def nearPosition (pos : DWord) (phase : Int) : DWord :=
  pos + BitVec.ofInt 64 (phaseDiff phase (lowWord pos).toNat)

/-- Disarm the compares and disable the captures of a parted spindle (R54). -/
def disarmSpindle (n : Nat) (s : State) : State :=
  let s1 := forEach (List.range 4) (fun i s => s.setBit (Reg.SPN_CMP_CTL n i) 31 false) s
  s1.setReg (Reg.SPN_CAP_CTL n) (s1.reg (Reg.SPN_CAP_CTL n) &&& 0xF7FFF7FF)

/-- The spindle takes state `st`: state_change, vel_valid where the state fixes it, velocity 0 in STOPPED and LOST,
compares disarmed in PARTED; the PWM groups locked to it lose their lock outside LOCKED and COAST (R54, R55, R66,
R161). -/
def setSpnState (n st : Nat) (s : State) : State :=
  if s.spnState n = st then s
  else
    let s1 := spnEvent n (oneBit 10) (s.setFld (Reg.SPN_STATUS n) 31 29 st)
    let vv := if s.counts n then s.velValid n && decide (st = spnLocked)
      else if s.isObserver n || isMains n then decide (st = spnLocked ∨ st = spnCoast)
      else decide (st = spnLocked)
    let s2 := setVelValid n vv s1
    let s3 := if st = spnStopped ∨ st = spnLost then setVel n 0 s2 else s2
    let s4 := if st = spnParted then disarmSpindle n s3 else s3
    if st = spnLocked ∨ st = spnCoast then s4 else spindleUnusable n s4

/-- Into COAST: the phase runs on from where it is at the last valid velocity (R54, R55). -/
def toCoast (n : Nat) (s : State) : State :=
  let x := s.spn n
  setSpnState n spnCoast <| spnErr n <|
    s.setSpn n { x with anchor := (lowWord x.pos).toNat - s.spnOffset n, origin := s.now, tsValid := false }

/-- Into LOCKED with target `t`: a resync, except from STOPPED, and from COAST by a movement below back_hold (R55). The
turn count is the one nearest the present position, which R55 says of observer and mains updates; of an encoder or Hall
spindle's first lock and of an index it says nothing, and they take the same (DESIGN CHOICE, log entry 71). -/
def lockAt (n : Nat) (t : Int) (s : State) : State :=
  let x := s.spn n
  let phase := t + s.spnOffset n
  let st := s.spnState n
  let small : Bool := decide ((phaseDiff phase (lowWord x.pos).toNat).natAbs < s.backHold n)
  let s1 := s.setSpn n { x with anchor := t, origin := s.now, tally := 0 }
  let s2 := setSpnState n spnLocked s1
  if st = spnStopped ∨ (st = spnCoast ∧ small) then stepTo n phase s2
  else resyncTo n (nearPosition x.pos phase) s2

/-! ### Encoder and Hall decoders (R46 to R52) -/

/-- The position of count `c` of `cpt` in phase units; base(cpt) = 2^32 (R49). -/
def base (cpt c : Nat) : Int := ((c * 2 ^ 32 / cpt : Nat) : Int)

/-- The boundary just crossed (R49). -/
def State.countAnchor (s : State) (n : Nat) : Int :=
  let c := (s.spn n).count
  if s.spnBackward n then base (s.cpt n) (c + 1) - 1 else base (s.cpt n) c

/-- Clear the velocity and the measured intervals (R49, R52). -/
def clearVel (n : Nat) (s : State) : State :=
  setVel n 0 (setVelValid n false (s.setSpn n { s.spn n with intervals := [] }))

/-- Into LOCKED from the count; the count keeps its value (R55). -/
def lockFromCount (n : Nat) (s : State) : State :=
  let s1 := clearVel n s
  lockAt n (s1.countAnchor n) s1

/-- An illegal transition (R47): at err_limit a decoder in LOCKED or STOPPED coasts at its last valid velocity (R54,
R55). In COAST and PARTED the source is ignored (R54). -/
def illegalTransition (n : Nat) (s : State) : State :=
  let x := s.spn n
  let st := s.spnState n
  if st = spnCoast ∨ st = spnParted then s
  else
    let s1 := spnErr n (setUncertain n true (rcUpFld (Reg.SPN_ERRCNT n) 15 0 1
      (s.setSpn n { x with tally := x.tally + 1 })))
    if (st = spnLocked ∨ st = spnStopped) ∧ s.fld (Reg.SPN_CTRL n) 19 16 ≤ x.tally + 1 then toCoast n s1 else s1

/-- Edges averaged: m = 2^vel_avg (R49, R64). -/
def State.velAvg (s : State) (n : Nat) : Nat := 2 ^ s.fld (Reg.SPN_CTRL n) 27 26

/-- |v_k - v_(k-1)| > 2 |a_max| D_k + 4 |v_k| / D_k with v = 2^32 / (cpt D), in whole numbers (R51). -/
def accelFails (amax cpt dk dk1 : Nat) : Bool :=
  decide (amax ≠ 0) &&
    decide (2 * amax * cpt * dk ^ 3 * dk1 + 2 ^ 66 * dk1 < 2 ^ 64 * dk * ((dk1 : Int) - dk).natAbs)

/-- The velocity from the last `m` intervals, in Q16.16 (R49). -/
def velocityOf (cpt m : Nat) (back : Bool) (ivs : List Nat) : Int :=
  let v : Int := ((m * 2 ^ 48 / (cpt * max 1 (ivs.take m).sum) : Nat) : Int)
  if back then -v else v

/-- The interval that an edge ends, and the acceleration check on it (R49, R51). -/
def noteInterval (n : Nat) (ts : Int) (s : State) : State :=
  let x := s.spn n
  if x.tsValid then
    let iv := (ts - x.tsPrev).toNat
    let s1 := s.setSpn n { x with intervals := (iv :: x.intervals).take 8 }
    match x.intervals with
    | prev :: _ =>
      if accelFails (s.reg (Reg.SPN_AMAX n)).toNat (s.cpt n) iv prev then
        spnEvent n (oneBit 14) (s1.setSpn n { s1.spn n with fastEdges := 8 })
      else s1
    | [] => s1
  else s

/-- The velocity at an edge, m = 1 while a failed check asks for it; overspeed (R49, R51). -/
def edgeVelocity (n : Nat) (s : State) : State :=
  let x := s.spn n
  let m := if 0 < x.fastEdges then 1 else s.velAvg n
  let s1 := s.setSpn n { x with fastEdges := x.fastEdges - 1 }
  if m ≤ x.intervals.length then
    let v := velocityOf (s.cpt n) m (s.spnBackward n) x.intervals
    let s2 := setVelValid n true (setVel n v s1)
    let vmax := (s.reg (Reg.SPN_VMAX n)).toNat
    if vmax ≠ 0 ∧ vmax < v.natAbs then spnEvent n (oneBit 12) s2 else s2
  else s1

/-- The count moves one along `back` (R47). -/
def moveCount (n : Nat) (back : Bool) (s : State) : State :=
  let x := s.spn n
  let c := s.cpt n
  s.setSpn n { x with count := (x.count + (if back then c - 1 else 1)) % c }

/-- A counted edge of a decoder, `back` its direction and `ts` its timestamp (R48, R49, R52, R55). The edge that locks a
spindle in ACQUIRE is itself counted before it (DESIGN CHOICE, log entry 71). An edge takes its place among the 8 of R51
whether it measures an interval or reverses. -/
def countEdge (n : Nat) (back : Bool) (ts : Int) (s : State) : State :=
  let st := s.spnState n
  if st = spnAcquire then
    let s1 := moveCount n back (setBackward n back s)
    if s.isEncoder n && s.bit (Reg.SPN_CTRL n) 30 then s1
    else
      let s2 := lockFromCount n s1
      s2.setSpn n { s2.spn n with tsPrev := ts, origin := ts, tsValid := true }
  else if st = spnLocked ∨ st = spnStopped then
    let s0 := if st = spnStopped then
        let c := clearVel n s
        c.setSpn n { c.spn n with tsValid := false, tally := 0 }
      else s
    let reversed : Bool := s.spnBackward n != back
    let s1 := if reversed then clearVel n (setBackward n back s0) else noteInterval n ts s0
    let s2 := moveCount n back (s1.setSpn n { s1.spn n with tsPrev := ts, origin := ts, tsValid := true })
    let s3 := if reversed then s2.setSpn n { s2.spn n with fastEdges := (s2.spn n).fastEdges - 1 } else edgeVelocity n s2
    let t := s3.countAnchor n
    let s4 := setSpnState n spnLocked (stepTo n (t + s.spnOffset n) (s3.setSpn n { s3.spn n with anchor := t }))
    if reversed then spindleUnusable n s4 else s4
  else s

/-- The place of the levels (A, B) in the forward order (0,0), (1,0), (1,1), (0,1) (R47). -/
def quadPlace (a b : Bool) : Nat := if a then (if b then 2 else 1) else (if b then 3 else 0)

/-- The place of a Hall code in the forward sequence 1, 3, 2, 6, 4, 5; none for 0 and 7 (R47). -/
def hallPlace : Nat → Option Nat
  | 1 => some 0 | 3 => some 1 | 2 => some 2 | 6 => some 3 | 4 => some 4 | 5 => some 5
  | _ => none

/-- The timestamp of a filtered edge (R46). -/
def State.edgeTime (s : State) (n : Nat) : Int := (s.now : Int) - (s.fld (Reg.SPN_FILTER n) 5 0 + 2 : Nat)

/-- May spindle `n`'s filter pass new levels `code` of its interface: has every level that changes stood for enc_filt
cycles since it last changed (R46)? -/
def State.filterPasses (s : State) (n k code : Nat) : Bool :=
  [0, 1, 2].all fun i =>
    let t := tabGet 0 (3 * k + i) s.encSince
    decide ((s.spn n).seen.testBit i = code.testBit i) || decide (t = 0) ||
      decide (t + s.fld (Reg.SPN_FILTER n) 5 0 ≤ s.now + 1)

/-- New filtered levels A, B at an encoder-mode spindle (R47). -/
def encoderAt (n : Nat) (a0 b0 a b : Bool) (s : State) : State :=
  match (quadPlace a b + 4 - quadPlace a0 b0) % 4 with
  | 1 => countEdge n false (s.edgeTime n) s
  | 3 => countEdge n true (s.edgeTime n) s
  | 2 => illegalTransition n s
  | _ => s

/-- A new filtered code at a Hall-mode spindle (R47). -/
def hallAt (n code : Nat) (s : State) : State :=
  match hallPlace code with
  | none => illegalTransition n s
  | some p =>
    let x := s.spn n
    let s1 := s.setSpn n { x with hallRef := some code }
    match x.hallRef.bind hallPlace with
    | none => if s.spnState n = spnAcquire then lockFromCount n s1 else s1
    | some p0 =>
      match (p + 6 - p0) % 6 with
      | 0 => s1
      | 1 => countEdge n false (s.edgeTime n) s1
      | 5 => countEdge n true (s.edgeTime n) s1
      | _ => illegalTransition n s1

/-- The spindles that use encoder interface `k` (R46). -/
def State.usersOf (s : State) (k : Nat) : List Nat :=
  (List.range 64).filter fun n => s.spnEnabled n && s.counts n && decide (s.spnSel n = k)

/-- The filtered levels of interface `k`: A + 2 B + 4 I. -/
def State.levels (s : State) (k : Nat) : Nat := tabGet 0 k s.encoders

/-- Interface `k` shows new levels, and every level that changes notes the cycle (R46). -/
def setLevels (k code : Nat) (s : State) : State :=
  let since := [0, 1, 2].foldl (fun t i =>
    if (s.levels k).testBit i = code.testBit i then t else tabSet 0 (3 * k + i) (s.now + 1) t) s.encSince
  { s with encoders := tabSet 0 k code s.encoders, encSince := since }

/-- New filtered levels of interface `k` reach every spindle that uses it and whose filter passes them (R46, R47). -/
def interfaceChange (k code : Nat) (s : State) : State :=
  forEach ((s.usersOf k).filter fun n => s.filterPasses n k code) (fun n s =>
    let old := (s.spn n).seen
    let s1 := s.setSpn n { s.spn n with seen := code }
    if old = code then s1
    else if s.isEncoder n then encoderAt n (old.testBit 0) (old.testBit 1) (code.testBit 0) (code.testBit 1) s1
    else hallAt n code s1) (setLevels k code s)

/-- Levels of the pins of interface `k`. While FCLK is off they are what the filters are seeded with (R46). -/
def encoderPins (k code : Nat) (s : State) : State :=
  if s.fclkOn then interfaceChange k code s else setLevels k code s

/-- The code that reaches the decoders: an input that no live pin carries stays as it is (R446, R450, R484). -/
def State.liveCode (s : State) (k code : Nat) : Nat :=
  let bit (i : Nat) : Nat := if s.inputLive (3 * k + i) 1 then code / 2 ^ i % 2 else s.levels k / 2 ^ i % 2
  bit 0 + 2 * bit 1 + 4 * bit 2

def execEncoderEdge (k : Fin 32) (a b : Bool) (s : State) : Out :=
  .next (encoderPins k (s.liveCode k (boolNat a + 2 * boolNat b + s.levels k / 4 * 4)) s)

def execHallCodeChange (k : Fin 32) (code : Fin 8) (s : State) : Out :=
  .next (encoderPins k (s.liveCode k code) s)

/-- The count set to 0 by an index (R48). -/
def zeroCount (n : Nat) (s : State) : State := s.setSpn n { s.spn n with count := 0 }

/-- The index pulse at an encoder-mode spindle, row by row of R48. -/
def indexAt (n : Nat) (s : State) : State :=
  let ctrl := s.reg (Reg.SPN_CTRL n)
  let st := s.spnState n
  if st = spnAcquire ∧ bitAt ctrl 30 then lockFromCount n (zeroCount n s)
  else if ¬ bitAt ctrl 29 then s
  else if st = spnLocked then
    if (s.spn n).count = 0 then setUncertain n false (s.setSpn n { s.spn n with tally := 0 })
    else
      let s1 := rcUpFld (Reg.SPN_ERRCNT n) 31 16 1 s
      if bitAt ctrl 28 then
        let s2 := setUncertain n false (zeroCount n s1)
        let t := s2.countAnchor n
        resyncTo n (nearPosition (s2.spn n).pos (t + s.spnOffset n))
          (s2.setSpn n { s2.spn n with anchor := t, origin := s.now })
      else toCoast n (setUncertain n true s1)
  else if st = spnCoast ∨ st = spnLost then lockFromCount n (zeroCount n s)
  else s

/-- INDEX_PULSE: a rising edge of ENC_I, which the capture triggers see; a Hall-mode spindle sees a code with I set (R47,
R48, R62). -/
def indexPulseEff (k : Nat) (s : State) : State :=
  let code := s.levels k % 4 + 4
  forEach ((s.usersOf k).filter fun n => s.filterPasses n k code) (fun n s =>
    let old := (s.spn n).seen
    let s1 := s.setSpn n { s.spn n with seen := code }
    if s.isEncoder n then indexAt n s1 else if old = code then s1 else hallAt n code s1)
    (notePulse (indexPulse k) (setLevels k code s))

def execIndexPulse (k : Fin 32) (s : State) : Out :=
  .next (if s.fclkOn && s.inputLive (3 * k.val + 2) 1 then indexPulseEff k s else s)

/-! ### Free and raster timebases (R57 to R59) -/

/-- Units of a MAC clock's accumulator in one nanosecond. -/
def ptpUnit : Nat := 3 * 2 ^ 32

/-- The nanosecond clock of MAC `m` (R59, R398). -/
def State.ptpNs (s : State) (m : Nat) : Nat := tabGet 0 m s.ptp / ptpUnit % 2 ^ 64

/-- The nanosecond clock of MAC `m` as a free spindle sees it, 4 cycles late (R58). -/
def State.ptpLate (s : State) (m : Nat) : Nat := tabGet 0 (8 + m) s.ptp / ptpUnit % 2 ^ 64

/-- The time source of a free spindle (R58). -/
def State.freeTime (s : State) (n : Nat) : Nat :=
  if s.spnSrc n = 0 then s.devTimer.toNat else s.ptpLate (s.spnSrc n - 1)

/-- The epoch in effect and the period of a free spindle; a period of 0 to 63 acts as 64 (R58). -/
def State.epoch (s : State) (n : Nat) : Nat := (pairOf (s.reg (Reg.SPN_K88 n)) (s.reg (Reg.SPN_K84 n))).toNat
def State.freePeriod (s : State) (n : Nat) : Nat := max 64 (s.reg (Reg.SPN_K80 n)).toNat

/-- Phase and turns after `t` units of a period `tp` (R58). -/
def turnsAt (t tp : Nat) : DWord := BitVec.ofNat 64 (t / tp * 2 ^ 32 + t % tp * 2 ^ 32 / tp)

/-- A free spindle's position by the formula, SPN_OFFSET and what SPN_SET_PHASE has moved it by (R58). -/
def State.freePos (s : State) (n : Nat) : DWord :=
  turnsAt (s.freeTime n - s.epoch n) (s.freePeriod n) + BitVec.ofNat 64 (s.reg (Reg.SPN_OFFSET n)).toNat +
    (s.spn n).adjust

/-- A raster spindle's position: one turn per frame from the raster's start (R57). -/
def State.rasterPos (s : State) (n : Nat) : DWord :=
  let x := s.spn n
  turnsAt ((s.now - x.rasterStart) * x.rasterDen) (max 1 x.rasterFrame) + BitVec.ofNat 64 (s.reg (Reg.SPN_OFFSET n)).toNat + x.adjust

/-- The rate of a free spindle, in Q16.16 units per cycle, rounded down: its period counts cycles, or nanoseconds of the
MAC's clock, which runs 2/3 ns in a cycle at the trimmed rate (R59). -/
def State.freeRate (s : State) (n : Nat) : Int :=
  if s.spnSrc n = 0 then ((2 ^ 48 / s.freePeriod n : Nat) : Int)
  else 2 ^ 17 * (2 ^ 32 + (s.reg (Reg.ETH_PTP_TRIM (s.spnSrc n - 1))).toInt) / (3 * s.freePeriod n)

/-- The rate of a raster spindle, in Q16.16 units per cycle, rounded down: one turn in a frame (R57). -/
def State.rasterRate (s : State) (n : Nat) : Int :=
  ((2 ^ 48 * (s.spn n).rasterDen / max 1 (s.spn n).rasterFrame : Nat) : Int)

/-- A free spindle's position by its formula: in ACQUIRE at 0 before the epoch, a resync to LOCKED from it on (R58). -/
def freeResync (n : Nat) (s : State) : State :=
  if s.freeTime n < s.epoch n then setSpnState n spnAcquire (resyncTo n 0 s)
  else resyncTo n (s.freePos n) (setVel n (s.freeRate n) (setSpnState n spnLocked s))

/-- A free spindle recomputes its position, and what SPN_SET_PHASE has moved it by is gone (R58). -/
def freeRecompute (n : Nat) (s : State) : State := freeResync n (s.setSpn n { s.spn n with adjust := 0 })

/-- Does the spindle run: neither OFF nor PARTED? -/
def State.spnRuns (s : State) (n : Nat) : Bool :=
  decide (s.spnState n ≠ spnOff ∧ s.spnState n ≠ spnParted)

def execFreeSpindleEpoch (n : Fin 154) (s : State) : Out :=
  .next (if s.spnPresent n && isFree n && decide (s.spnState n = spnAcquire) && decide (s.epoch n ≤ s.freeTime n) then
    freeResync n s else s)

/-- A write of SPN_EPOCH_LO applies the staged high word and recomputes (R58). -/
def epochWrite (n : Nat) (v : Word) (s : State) : State :=
  let s1 := (s.setReg (Reg.SPN_K88 n) (s.spn n).epochHi).setReg (Reg.SPN_K84 n) v
  if s.spnRuns n then freeRecompute n s1 else s1

def execSpnEpochLo (n : Fin 154) (value : Word) (s : State) : Out :=
  .next (if s.fclkOn && isFree n then epochWrite n value s else s)

/-- A write of SPN_PERIOD recomputes (R58). -/
def periodWrite (n : Nat) (v : Word) (s : State) : State :=
  let s1 := s.setReg (Reg.SPN_K80 n) v
  if s.spnRuns n then freeRecompute n s1 else s1

def execSpnPeriod (n : Fin 154) (value : Word) (s : State) : Out :=
  .next (if s.fclkOn && isFree n then periodWrite n value s else s)

/-- The free spindles that run on MAC `m`'s clock (R58, R65). -/
def State.macUsers (s : State) (m : Nat) : List Nat :=
  ((List.range 16).map (138 + ·)).filter fun n => s.spnRuns n && decide (s.spnSrc n = m + 1)

/-- A write of ETH_PTP_STEP_HI steps the MAC clock by the signed 64-bit step and resyncs its spindles (R59, R398). They see
the step at once, not 4 cycles late (log entry 5). -/
def ptpStepEff (m : Nat) (hi : Word) (s : State) : State :=
  let step := (pairOf hi (s.reg (Reg.ETH_PTP_STEP_LO m))).toInt
  let moved (k : Nat) : Nat := ((((tabGet 0 k s.ptp : Nat) : Int) + step * ptpUnit) % (2 ^ 64 * ptpUnit)).toNat
  let s1 := { s with ptp := (List.range 5).foldl (fun t j => tabSet 0 (2 * j + m) (moved (2 * j + m)) t) s.ptp }
  forEach (s.macUsers m) freeResync s1

def execPtpClockStep (mac : Fin 2) (hi : Word) (s : State) : Out :=
  .next (if s.fclkOn then ptpStepEff mac hi s else s)

/-- The MAC clock is disabled: its spindles coast at the last rate (R59). -/
def macDisabledEff (m : Nat) (s : State) : State :=
  forEach (s.macUsers m) (fun n s => if s.spnState n = spnLocked then toCoast n (setVel n (s.freeRate n) s) else s) s

def execMacClockDisabled (mac : Fin 2) (s : State) : Out :=
  .next (if s.fclkOn then macDisabledEff mac (s.setBit (Reg.ETH_CTL mac) 31 false) else s)

/-! ### Enable, disable, presets, source changes (R55, R58, R63 to R65) -/

/-- Is a running spindle's register at an encoding that the spec does not list: err_limit 0, an unlisted src, a compare's
dir or output 0b11, a reserved trig (R39, R62, R64, R65, R67, R467)? -/
def State.spnMisused (s : State) (n : Nat) : Bool :=
  s.spnEnabled n && decide (s.spnState n ≠ spnParted) &&
    (decide (s.fld (Reg.SPN_CTRL n) 19 16 = 0) || ((decide (n < 64) || isFree n) && decide (2 < s.spnSrc n)) ||
      (List.range 4).any (fun i => decide (s.fld (Reg.SPN_CMP_CTL n i) 29 28 = 3 ∨ s.fld (Reg.SPN_CMP_CTL n i) 25 24 = 3)) ||
      decide (744 ≤ s.fld (Reg.SPN_CAP_CTL n) 9 0 ∨ 744 ≤ s.fld (Reg.SPN_CAP_CTL n) 25 16))

/-- Undefined results of a spindle: what it holds, publishes and drives comes from a state of which nothing is known, but
that it is enabled and not parted (R40, log entry 1). -/
def spoilSpindle (n : Nat) (s0 : State) : State :=
  let u := (takeState s0).1
  let s1 := spoilRegs (keysIn (0x100000 + n * 0x100) (0x100100 + n * 0x100)) u ((takeState s0).2.setSpn n (u.spn n))
  let s2 := forEach (List.range 4) (fun i s =>
    let a := Reg.SPN_CMP_CTL n i
    let t := if u.pulsed (linePulse (4 * n + i)) 0 then notePulse (linePulse (4 * n + i)) s else s
    t.setReg a ((s.reg a &&& 0x7BFFFFFF) ||| (u.reg a &&& 0x84000000))) s1
  let st := s2.spnState n
  let s3 := if st = spnOff ∨ spnParted ≤ st then s2.setFld (Reg.SPN_STATUS n) 31 29 spnAcquire else s2
  if st = spnLocked ∨ st = spnCoast then s3 else spindleUnusable n s3

/-- enable takes effect in OFF (R46, R55, R57, R58). -/
def startSpindle (n : Nat) (s : State) : State :=
  let x := s.spn n
  let s1 := clearVel n (s.setSpn n { x with
    tally := 0, fastEdges := 0, tsValid := false, hallRef := none, seen := s.levels (s.spnSel n) })
  let s2 := setSpnState n spnAcquire s1
  if s.isHall n then
    let code := s.levels (s.spnSel n)
    if (hallPlace code).isSome then lockFromCount n (s2.setSpn n { s2.spn n with hallRef := some code }) else s2
  else if isFree n then freeRecompute n s2
  else if isRaster n && x.rasterRuns then resyncTo n (s2.rasterPos n) (setVel n (s2.rasterRate n) (setSpnState n spnLocked s2))
  else s2

/-- After a write that took state `s` to `t`: results are undefined while a register is misused, and valid contents restore
defined behaviour (R40), for which the spindle acquires its source again (DESIGN CHOICE, log entry 71). -/
def settleSpindle (n : Nat) (s t : State) : State :=
  if t.spnMisused n then spoilSpindle n t else if s.spnMisused n then startSpindle n t else t

/-- The bits of SPN_CTRL that exist (R64). -/
def spnCtrlMask : Word := 0xFC0FFF00

/-- A write of SPN_CTRL (R55, R64). -/
def spnCtrlWrite (n : Nat) (v0 : Word) (s : State) : State :=
  let v := s.keepEnable 2 n (Reg.SPN_CTRL n) v0
  let s1 := s.setReg (Reg.SPN_CTRL n) (v &&& spnCtrlMask)
  if ¬ bitAt v 31 then setSpnState n spnOff s1
  else if s.spnState n = spnOff then settleSpindle n s1 (startSpindle n s1)
  else settleSpindle n s s1

def execSpindleEnable (n : Fin 154) (ctrl : Word) (s : State) : Out :=
  .next (if s.spnPresent n then spnCtrlWrite n (withBit ctrl 31 true) s else s)

def execSpindleDisable (n : Fin 154) (ctrl : Word) (s : State) : Out :=
  .next (if s.spnPresent n then spnCtrlWrite n (withBit ctrl 31 false) s else s)

/-- The count of a phase: floor((phase - offset) * cpt / 2^32) (R63). -/
def State.countOfPhase (s : State) (n : Nat) (phase : Word) : Nat :=
  (phase - s.reg (Reg.SPN_OFFSET n)).toNat * s.cpt n / 2 ^ 32

/-- The target that stands for the present phase, from this cycle on. -/
def rebase (n : Nat) (s : State) : State :=
  let x := s.spn n
  s.setSpn n { x with anchor := ((lowWord x.pos - s.reg (Reg.SPN_OFFSET n)).toNat : Int), origin := s.now }

/-- A write of SPN_SET_PHASE: the position is replaced by the staged turns and this phase, and a count with it; a free
spindle runs on from it (R55, R58, R63). -/
def setPhaseWrite (n : Nat) (v : Word) (s : State) : State :=
  if s.spnState n = spnParted then s
  else
    let p := pairOf (s.reg (Reg.SPN_SET_TURNS n)) v
    let x := s.spn n
    let adj := if isFree n then x.adjust + (p - s.freePos n)
      else if isRaster n then x.adjust + (p - s.rasterPos n) else x.adjust
    let count := if s.counts n then s.countOfPhase n v else x.count
    rebase n (resyncTo n p (s.setSpn n { x with adjust := adj, count := count }))

def execSpnSetPhase (n : Fin 154) (value : Word) (s : State) : Out :=
  .next (if s.spnPresent n then setPhaseWrite n value s else s)

/-- A write of SPN_OFFSET moves the position by its change, as a resync; in PARTED it is only stored. On a free or raster
spindle the offset is added with carry into turns (R55, R57, R58). -/
def offsetWrite (n : Nat) (v : Word) (s : State) : State :=
  let old := s.reg (Reg.SPN_OFFSET n)
  let s1 := s.setReg (Reg.SPN_OFFSET n) v
  if s.spnState n = spnParted then s1
  else
    let d : DWord := if isFree n || isRaster n then BitVec.ofNat 64 v.toNat - BitVec.ofNat 64 old.toNat
      else BitVec.ofInt 64 (phaseDiff v.toNat old.toNat)
    resyncTo n ((s.spn n).pos + d) s1

def execSpnOffset (n : Fin 154) (value : Word) (s : State) : Out :=
  .next (if s.spnPresent n then offsetWrite n value s else s)

/-- What a spindle's kind lets a write of SPN_SRC change (R65). -/
def srcMask (n : Nat) : Word := if n < 64 then 0x1C0001FF else if n < 72 then 0x1FF else if n < 138 then 0 else 0x1C000000

/-- The position is kept, as a resync, and the target starts from it (R55). -/
def keepPosition (n : Nat) (s : State) : State := rebase n (resyncTo n (s.spn n).pos s)

/-- An enabled shaft spindle goes over to changed counts per turn or a changed source, keeping its position; vel_valid is
cleared, but of an observer it is what R66 says of its state (R55). -/
def takeSource (n : Nat) (s : State) : State :=
  let s1 := clearVel n s
  let x := s1.spn n
  let code := s.levels (s.spnSel n)
  let s2 := keepPosition n (s1.setSpn n { x with
    count := s.countOfPhase n (lowWord x.pos), tsValid := false, seen := code
    hallRef := if s.isHall n && (hallPlace code).isSome then some code else none })
  if s.isObserver n then setVelValid n (decide (s.spnState n = spnLocked ∨ s.spnState n = spnCoast)) s2 else s2

/-- A write of SPN_CPT or SPN_SRC (R55): an observer or mains source that only names another context is not a
resync. -/
def sourceWrite (n : Nat) (cpt : Bool) (v : Word) (s : State) : State :=
  if cpt then
    let s1 := s.setReg (Reg.SPN_CPT n) (v &&& 0xFFFFF)
    if !(s.spnEnabled n && s.spnRuns n) then s1
    else if s.counts n then takeSource n s1
    else if isFree n || isRaster n then resyncTo n (s1.spn n).pos s1
    else keepPosition n s1
  else
    let old := s.reg (Reg.SPN_SRC n)
    let w := (old &&& ~~~srcMask n) ||| (v &&& srcMask n)
    let s1 := s.setReg (Reg.SPN_SRC n) w
    let srcChanged : Bool := decide (fieldOf old 28 26 ≠ fieldOf w 28 26)
    let selChanged : Bool := decide (fieldOf old 8 0 ≠ fieldOf w 8 0)
    if s.spnEnabled n && s.spnRuns n && (srcChanged || (selChanged && s1.counts n)) then
      settleSpindle n s (if isFree n then freeRecompute n s1 else takeSource n s1)
    else s1

def execSpindleSourceChange (n : Fin 154) (cpt : Bool) (value : Word) (s : State) : Out :=
  .next (if s.spnPresent n then sourceWrite n cpt value s else s)

/-! ### Loss (R55) -/

/-- No edge, or no update, for SPN_TIMEOUT cycles; 0 disables the timeout (R55, R63). In STOPPED the phase holds where the
last edge put it (R54). -/
def timeoutEff (n : Nat) (s : State) : State :=
  if s.spnState n = spnLocked ∧ s.reg (Reg.SPN_TIMEOUT n) ≠ 0 then
    if s.counts n then setSpnState n spnStopped (clearVel n (stepTo n ((s.spn n).anchor + s.spnOffset n) s))
    else if s.isObserver n || isMains n then toCoast n s
    else s
  else s

def execSpindleTimeout (n : Fin 154) (s : State) : Out :=
  .next (if s.spnPresent n then timeoutEff n s else s)

def execSpindleCoastExpiry (n : Fin 154) (s : State) : Out :=
  .next (if s.spnPresent n && decide (s.spnState n = spnCoast) then setSpnState n spnLost s else s)

/-- An abort parts the spindle (R55). -/
def partSpindle (n : Nat) (s : State) : State := setSpnState n spnParted s

/-! ### Observer and mains updates (R53, R56) -/

/-- A target against the present phase: along dir it is a step; against it by less than back_hold the phase holds, by
more dir reverses and the step is taken (R53). -/
def observerMove (n : Nat) (t : Int) (s : State) : State :=
  let x := s.spn n
  let d := phaseDiff (t + s.spnOffset n) (lowWord x.pos).toNat
  let along : Bool := if s.spnBackward n then decide (d ≤ 0) else decide (0 ≤ d)
  if along then stepTo n (t + s.spnOffset n) s
  else if d.natAbs < s.backHold n then s
  else stepTo n (t + s.spnOffset n) (setBackward n (!s.spnBackward n) s)

/-- A velocity magnitude above SPN_VMAX sets overspeed (R51). -/
def noteOverspeed (n : Nat) (v : Int) (s : State) : State :=
  let vmax := (s.reg (Reg.SPN_VMAX n)).toNat
  if vmax ≠ 0 ∧ vmax < v.natAbs then spnEvent n (oneBit 12) s else s

/-- The target after `t - t_u` cycles at velocity v (Q16.16), rounded down, of which the spec says nothing (R49, R53;
DESIGN CHOICE, log entry 71). -/
def State.extrapolated (s : State) (n : Nat) : Int :=
  let x := s.spn n
  x.anchor + (x.vel * ((s.now : Int) - x.origin)) / 2 ^ 16

/-- An update with phase `p` and velocity `v`, both of the cycle `t`, at a spindle that follows a loop context; `ok` is its
converged or in-window lock flag. A spindle that locks takes the update's phase (R53, R55, R56). -/
def updateAt (n : Nat) (p : Word) (v : Int) (ok : Bool) (t : Int) (s : State) : State :=
  let st := s.spnState n
  if st = spnLocked then
    if ok then
      let s1 := setVelValid n true (noteOverspeed n v (setVel n v s))
      let s2 := s1.setSpn n { s1.spn n with anchor := p.toNat, origin := t }
      if isMains n then stepTo n (s2.extrapolated n + s.spnOffset n) s2 else observerMove n (s2.extrapolated n) s2
    else toCoast n s
  else if (st = spnAcquire ∨ st = spnCoast ∨ st = spnLost) ∧ ok then
    let s1 := lockAt n p.toNat (noteOverspeed n v (setVel n v s))
    s1.setSpn n { s1.spn n with origin := t }
  else s

/-- The shaft spindles fed by loop context `c` (R53), and the mains spindles fed by it (R56). -/
def State.observersOf (s : State) (c : Nat) : List Nat :=
  (List.range 64).filter fun n => s.spnEnabled n && s.isObserver n && decide (s.spnSel n = c)
def State.mainsOf (s : State) (c : Nat) : List Nat :=
  ((List.range 8).map (64 + ·)).filter fun n => s.spnEnabled n && decide (s.spnSel n = c)

/-- An observer update from context `c`, whose cycle t_u was `age` cycles ago, reaches the shaft spindles that name it
(R53). -/
def observerUpdateEff (c : Nat) (p v : Word) (conv : Bool) (age : Word) (s : State) : State :=
  forEach (s.observersOf c) (fun n s => updateAt n p v.toInt conv ((s.now : Int) - age.toNat) s) s

def execObserverUpdate (ctx : Fin 384) (phase : StampedPhase) (vel : Word) (converged : Bool) (s : State) : Out :=
  .next (if s.fclkOn then observerUpdateEff ctx phase.phase vel converged phase.age s else s)

/-- Is a UQ16.16 frequency inside SPN_FWIN, which cannot be wider than 45 to 66 Hz (R56)? -/
def State.inFreqWindow (s : State) (n : Nat) (f : Word) : Bool :=
  let w := s.reg (Reg.SPN_K88 n)
  decide (max (fieldOf w 15 0) (45 * 256) * 256 ≤ f.toNat ∧ f.toNat ≤ min (fieldOf w 31 16) (66 * 256) * 256)

/-- f * 2^32 / (1.5 * 10^9) units per cycle, in Q16.16, rounded down, of which the spec says nothing (R56; DESIGN CHOICE,
log entry 71). -/
def mainsVelocity (f : Word) : Int := ((f.toNat * 2 ^ 32 / second : Nat) : Int)

/-- A mains PLL update from context `c` of `age` cycles ago reaches the mains spindles that name it (R56). A locked update
outside SPN_FWIN leaves a spindle in ACQUIRE there: one row of R55 locks it, another sends a spindle to COAST (DESIGN
CHOICE, log entry 71). -/
def mainsUpdateEff (c : Nat) (p f r : Word) (locked : Bool) (age : Word) (s : State) : State :=
  forEach (s.mainsOf c) (fun n s =>
    let ok := locked && s.inFreqWindow n f
    let s1 := (s.setReg (Reg.SPN_K80 n) f).setReg (Reg.SPN_K84 n) r
    updateAt n p (mainsVelocity f) ok ((s.now : Int) - age.toNat) s1) s

def execMainsUpdate (ctx : Fin 384) (phase : StampedPhase) (freq rocof : Word) (locked : Bool) (s : State) : Out :=
  .next (if s.fclkOn then mainsUpdateEff ctx phase.phase freq rocof locked phase.age s else s)

/-! ### One cycle (R49, R53, R55 to R58) -/

/-- One cycle of a counting spindle in LOCKED with a valid velocity: extrapolation, held at the clamp (R49). -/
def extrapolateTick (n : Nat) (s : State) : State :=
  let t := s.extrapolated n
  let c := (s.spn n).count
  let lim := if s.spnBackward n then base (s.cpt n) c else base (s.cpt n) (c + 1) - 1
  let held : Bool := if s.spnBackward n then decide (t < lim) else decide (lim < t)
  let s1 := stepTo n ((if held then lim else t) + s.spnOffset n) s
  if held then spnEvent n (oneBit 13) s1 else s1

/-- A spindle's position in the next cycle. -/
def spindleTick (n : Nat) (s0 : State) : State :=
  let x := s0.spn n
  let s := s0.setSpn n { x with prev := x.pos, fired := 0 }
  if s0.spnMisused n then spoilSpindle n s
  else
    let st := s0.spnState n
    if st = spnCoast then stepTo n (s.extrapolated n + s.spnOffset n) s
    else if st = spnLocked then
      if s.counts n then if s.velValid n then extrapolateTick n s else s
      else if s.isObserver n then observerMove n (s.extrapolated n) s
      else if isMains n then stepTo n (s.extrapolated n + s.spnOffset n) s
      else if isFree n then
        let s1 := s.setSpn n { s.spn n with pos := s.freePos n }
        if x.vel = s.freeRate n then s1 else setVel n (s.freeRate n) s1
      else if isRaster n then s.setSpn n { s.spn n with pos := s.rasterPos n }
      else s
    else s

/-! ### Compares (R45, R60, R61) -/

/-- Is phase `c` crossed from `p0` to `p`, forward or backward (R45)? -/
def crossedForward (p0 p c : Word) : Bool := decide ((p0 - c).toInt < 0 ∧ 0 ≤ (p - c).toInt)
def crossedBackward (p0 p c : Word) : Bool := decide (0 < (p0 - c).toInt ∧ (p - c).toInt ≤ 0)

/-- Is phase `c` crossed in a direction that code `d` allows: forward, backward, either (R60, R67, R83)? -/
def crossedIn (d : Nat) (p0 p c : Word) : Bool :=
  match d with
  | 0 => crossedForward p0 p c
  | 1 => crossedBackward p0 p c
  | _ => crossedForward p0 p c || crossedBackward p0 p c

/-- A compare fires, once in a cycle: cmp_fired, its late bit, its event line by output, and a one-shot unit disarms (R60,
R67). -/
def compareFires (n i : Nat) (late : Bool) (s : State) : State :=
  let a := Reg.SPN_CMP_CTL n i
  let w := s.reg a
  let s1 := spnEvent n (oneBit (6 + i)) (s.setReg a (withBit (withBit w 31 (bitAt w 27)) 26 late))
  let x := { s1.spn n with fired := (s1.spn n).fired ||| (1#4 <<< i) }
  match fieldOf w 25 24 with
  | 1 => notePulse (linePulse (4 * n + i)) (s1.setSpn n x)
  | 2 => notePulse (linePulse (4 * n + i)) (s1.setSpn n { x with lines := x.lines ^^^ (1#4 <<< i) })
  | _ => s1.setSpn n x

/-- Is the value already reached in a direction the unit allows (R60)? -/
def reachedIn (d : Nat) (backward : Bool) (p c : Word) : Bool :=
  let f := decide (0 ≤ (p - c).toInt)
  let b := decide ((p - c).toInt ≤ 0)
  match d with
  | 0 => f
  | 1 => b
  | _ => if backward then b else f

/-- A write of SPN_CMP_CTL; an arming of a REACH unit whose value is reached but not crossed is a late fire (R60). -/
def cmpCtlWriteSpn (n i : Nat) (v : Word) (s : State) : State :=
  let a := Reg.SPN_CMP_CTL n i
  let old := s.reg a
  let s1 := s.setReg a ((v &&& 0xFB000000) ||| (old &&& 0x04000000))
  let x := s.spn n
  let c := s.reg (Reg.SPN_CMP_VAL n i)
  let st := s.spnState n
  if s1.spnMisused n || s.spnMisused n then settleSpindle n s s1
  else if bitAt v 31 && !bitAt old 31 && bitAt v 30 && decide (st = spnLocked ∨ st = spnStopped ∨ st = spnCoast) &&
      reachedIn (fieldOf v 29 28) (s.spnBackward n) (lowWord x.pos) c &&
      !crossedIn (fieldOf v 29 28) (lowWord x.prev) (lowWord x.pos) c then
    compareFires n i true s1
  else s1

def execCompareArm (n : Fin 154) (i : Fin 4) (value : Word) (s : State) : Out :=
  .next (if s.spnPresent n then cmpCtlWriteSpn n i value s else s)

/-- COMPARE_FIRE: an armed compare whose value this cycle's movement crosses fires, in LOCKED and COAST (R54, R60). -/
def compareFireEff (n i : Nat) (s : State) : State :=
  let w := s.reg (Reg.SPN_CMP_CTL n i)
  let x := s.spn n
  let st := s.spnState n
  let c := s.reg (Reg.SPN_CMP_VAL n i)
  if s.spnMisused n then spoilSpindle n s
  else if bitAt w 31 && decide (st = spnLocked ∨ st = spnCoast) && !x.fired.getLsbD i &&
      crossedIn (fieldOf w 29 28) (lowWord x.prev) (lowWord x.pos) c then
    compareFires n i false s
  else s

def execCompareFire (n : Fin 154) (i : Fin 4) (s : State) : Out :=
  .next (if s.spnPresent n then compareFireEff n i s else s)

/-! ### Captures (R62, R68) -/

/-- Capture unit `j` of spindle `n` records phase and turns; on overrun keep decides (R62). A parted spindle's captures are
disabled (R54). -/
def capture (n j : Nat) (s : State) : State :=
  if s.spnState n = spnParted then s
  else
  let done := s.bit (Reg.SPN_STATUS n) (4 + j)
  let keep := s.bit (Reg.SPN_CAP_CTL n) (16 * j + 10)
  let s1 := if done && keep then s else
    (s.setReg (Reg.SPN_CAP_PHASE n j) (lowWord (s.spn n).pos)).setReg (Reg.SPN_CAP_TURNS n j) (highWord (s.spn n).pos)
  spnEvent n (if done then oneBit (4 + j) ||| oneBit (2 + j) else oneBit (4 + j)) s1

/-- Has the source that `trig` selects had its event, which reaches the captures so many cycles later: an index, a
comparator that becomes active, a group's period event, a compare event line (R62)? -/
def State.trigCame (s : State) (trig : Nat) : Bool :=
  if trig < 32 then s.pulsed (indexPulse trig) 0
  else if trig < 104 then s.pulsed (comparatorPulse (trig - 32)) 2
  else if trig < 128 then s.pulsed (periodPulse (trig - 104)) 1
  else s.pulsed (linePulse (trig - 128)) 1

/-- A trigger source has fired: every enabled capture unit that selects it captures (R62). -/
def captureTriggerEff (trig : Nat) (s : State) : State :=
  if s.trigCame trig then
    forEach (List.range 154) (fun n s =>
      forEach [0, 1] (fun j s =>
        if s.bit (Reg.SPN_CAP_CTL n) (16 * j + 11) && decide (s.fld (Reg.SPN_CAP_CTL n) (16 * j + 9) (16 * j) = trig) then
          capture n j s else s) s) s
  else s

def execCaptureTrigger (trig : Fin 744) (s : State) : Out :=
  .next (if s.fclkOn then captureTriggerEff trig s else s)

/-- A write of SPN_CAP_CTL; each sw_trigger bit captures now, whatever enable holds (R62, R68). -/
def capCtlWrite (n : Nat) (v : Word) (s : State) : State :=
  let s1 := settleSpindle n s (s.setReg (Reg.SPN_CAP_CTL n) (v &&& 0x0FFF0FFF))
  let s2 := if bitAt v 12 then capture n 0 s1 else s1
  if bitAt v 28 then capture n 1 s2 else s2

def execSwTrigger (n : Fin 154) (value : Word) (s : State) : Out :=
  .next (if s.spnPresent n then capCtlWrite n value s else s)

/-! ### General timers (R70 to R73) -/

def State.timer (s : State) (t : Nat) : GenTimer := tabGet {} t s.timers
def State.setTimer (s : State) (t : Nat) (x : GenTimer) : State := { s with timers := tabSet {} t x s.timers }

/-- Events of timer `t` in GT_STATUS drive source 512 + t (R70, R72). -/
def gtEvent (t : Nat) (bits : Word) (s : State) : State :=
  raiseStatus (Reg.GT_STATUS t) (Reg.GT_IRQ_EN t) (512 + t) bits s

/-- Is the timer at the count from which it wraps: its top, or 0xFFFF_FFFF beyond it, or 0 counting down (R70)? -/
def State.gtAtWrap (s : State) (t : Nat) : Bool :=
  let c := s.reg (Reg.GT_COUNT t)
  if s.bit (Reg.GT_CTL t) 29 then decide (c = 0)
  else decide (c = s.reg (Reg.GT_TOP t)) || decide (c = 0xFFFFFFFF)

/-- The timer comes to another count in this cycle. -/
def noteMoved (t : Nat) (s : State) : State := s.setTimer t { s.timer t with moved := true }

/-- The timer wraps or reloads, sets wrap, and a one-shot timer stops (R70). -/
def gtWrap (t : Nat) (s : State) : State :=
  let ctl := s.reg (Reg.GT_CTL t)
  let s1 := noteMoved t (s.setReg (Reg.GT_COUNT t) (if bitAt ctl 29 then s.reg (Reg.GT_TOP t) else 0))
  let s2 := if bitAt ctl 28 then s1.setBit (Reg.GT_CTL t) 31 false else s1
  gtEvent t (oneBit 0) s2

/-- One count of a timer. -/
def gtStep (t : Nat) (s : State) : State :=
  if s.gtAtWrap t then gtWrap t s
  else noteMoved t (s.setReg (Reg.GT_COUNT t)
    (if s.bit (Reg.GT_CTL t) 29 then s.reg (Reg.GT_COUNT t) - 1 else s.reg (Reg.GT_COUNT t) + 1))

/-- Does odd timer `t` count the wraps of the timer below (R70, R73)? -/
def State.gtCascaded (s : State) (t : Nat) : Bool := decide (t % 2 = 1) && s.bit (Reg.GT_CTL t) 30

/-- TIMER_WRAP: an enabled timer at its wrap point wraps, unless this cycle's count has been taken; a cascaded odd timer
above counts it in the same cycle, and moves in no other (R33, R70). -/
def timerWrapEff (t : Nat) (s : State) : State :=
  if s.bit (Reg.GT_CTL t) 31 && s.gtAtWrap t && !s.gtCascaded t && !(s.timer t).counted then
    let s1 := gtWrap t s
    let s2 := s1.setTimer t { s1.timer t with counted := true }
    if t % 2 = 0 ∧ s.gtCascaded (t + 1) ∧ s.bit (Reg.GT_CTL (t + 1)) 31 ∧ (s.timer (t + 1)).counted = false then
      gtStep (t + 1) s2
    else s2
  else s

def execTimerWrap (t : Fin 64) (s : State) : Out := .next (if s.fclkOn then timerWrapEff t s else s)

/-- Has the compare value been passed in the present period, in the counting direction (R71)? -/
def State.gtPassed (s : State) (t : Nat) : Bool :=
  let c := s.reg (Reg.GT_COUNT t)
  let v := s.reg (Reg.GT_CMP t)
  decide (v ≤ s.reg (Reg.GT_TOP t)) && (if s.bit (Reg.GT_CTL t) 29 then decide (c < v) else decide (v < c))

/-- The timer's compare fires: cmp, with late for a catch-up; disarmed unless cmp_periodic (R71, R73). -/
def gtFire (t : Nat) (late : Bool) (s : State) : State :=
  let ctl := s.reg (Reg.GT_CTL t)
  gtEvent t (if late then 6 else 2) (s.setReg (Reg.GT_CTL t) (withBit ctl 27 (bitAt ctl 25)))

/-- TIMER_COMPARE: an armed compare fires when the count has come to its value in this cycle, or in REACH mode at its first
evaluation when the value is passed while the timer counts (R71). A value above GT_TOP never fires. -/
def timerCompareEff (t : Nat) (s : State) : State :=
  let ctl := s.reg (Reg.GT_CTL t)
  let v := s.reg (Reg.GT_CMP t)
  if bitAt ctl 27 then
    if s.reg (Reg.GT_COUNT t) = v ∧ v ≤ s.reg (Reg.GT_TOP t) ∧ (s.timer t).moved then
      gtFire t false (s.setTimer t { s.timer t with moved := false })
    else if bitAt ctl 31 && bitAt ctl 26 && (s.timer t).fresh && s.gtPassed t then
      gtFire t true (s.setTimer t { s.timer t with fresh := false })
    else s
  else s

def execTimerCompare (t : Fin 64) (s : State) : Out := .next (if s.fclkOn then timerCompareEff t s else s)

/-- A write of GT_COUNT sets the count and discards this cycle's (R33, R72). The count has not crossed the value written,
as a resync crosses nothing (R45; DESIGN CHOICE, log entry 71). -/
def gtCountWrite (t : Nat) (v : Word) (s : State) : State :=
  (s.setReg (Reg.GT_COUNT t) v).setTimer t { s.timer t with counted := true, moved := false }

def execGtCount (t : Fin 64) (value : Word) (s : State) : Out := .next (if s.fclkOn then gtCountWrite t value s else s)

/-- A write of GT_CTL; a change of cmp_arm from 0 to 1 is an arming (R60, R71, R73). -/
def gtCtlWrite (t : Nat) (v : Word) (s : State) : State :=
  let old := s.reg (Reg.GT_CTL t)
  let w := v &&& (if t % 2 = 1 then 0xFE000000 else 0xBE000000)
  let s1 := s.setReg (Reg.GT_CTL t) w
  if bitAt w 27 && !bitAt old 27 then s1.setTimer t { s.timer t with fresh := true } else s1

/-- One cycle of a timer: it counts unless it counts another's wraps, its count of this cycle has been taken, or it
waits at its wrap point for TIMER_WRAP (log entry 5). -/
def timerTick (t : Nat) (s : State) : State :=
  let x := s.timer t
  let steps := s.bit (Reg.GT_CTL t) 31 && !s.gtCascaded t && !x.counted && !s.gtAtWrap t
  (if steps then gtStep t s else s).setTimer t { moved := steps || (x.moved && x.counted) }

end Sys2Proof.Machine
end

