-- ==== Sys2Proof/Machine/Plate.lean ====
section
/-! DEFINITION. The index plate (spec/04): partitions, entries, operations, late entries, dispatch, near window,
retirement, abort. -/

namespace Sys2Proof.Machine

/-! ### The store and its mirror (R76, R93) -/

def State.storeBase (s : State) : Nat := s.fld Reg.PLATE_STORE_BASE 13 0 * 2 ^ 26
def State.mirrorBase (s : State) : Nat := s.fld Reg.PLATE_MIRROR_BASE 13 0 * 2 ^ 26

/-- Write bytes at one offset of both regions. -/
def writeBoth (off : Nat) (bs : List Byte) (s : State) : State :=
  (s.store (s.storeBase + off) bs).store (s.mirrorBase + off) bs

/-- The 16 bytes of an entry (R77). -/
def entryBytes (e : PlateEntry) : List Byte :=
  leBytes 4 e.w0.toNat ++ leBytes 4 e.w1.toNat ++ leBytes 4 e.w2.toNat ++ leBytes 4 e.w3.toNat

/-- The next fields along a hole's list. -/
def linkNext : List (Nat × PlateEntry) → State → State
  | [], s => s
  | [(i, e)], s => writeBoth (16 * i) (entryBytes e) s
  | (i, e) :: (j, e') :: r, s =>
    let e1 := { e with w3 := withField e.w3 20 0 j }
    linkNext ((j, e') :: r) (writeBoth (16 * i) (entryBytes e1) (s.setEntry i e1))

/-- Hole `h`'s word and its entries as both regions hold them (R76, R93). -/
def syncHole (h : Nat) (s : State) : State :=
  let l := s.holeEntries h
  let first := match l with
    | (i, _) :: _ => i
    | [] => 0
  linkNext l (writeBoth (0x2000000 + 4 * h) (leBytes 4 (l.length * 2 ^ 21 + first)) s)

/-- A change to hole `h` reaches store and mirror: at once for a near hole, else by PLATE_STORE_WRITE_DONE (R90). -/
def writeHole (n h : Nat) (s : State) : State :=
  if s.holeNear n h then syncHole h s
  else s.setPlate { s.plate with writing := if s.plate.writing.contains h then s.plate.writing else s.plate.writing ++ [h] }

def execPlateStoreWriteDone (hole : Fin 1048576) (s : State) : Out :=
  .next (if s.dramOn && s.plate.writing.contains hole.val then
    let s1 := syncHole hole s
    startFetches (s1.setPlate { s1.plate with writing := s1.plate.writing.filter (· ≠ hole.val) }) else s)

/-! ### Undefined results (R40, R78 to R80, R82, R93) -/

/-- Undefined results of partition `n`: what its linked entries hold, which of them are due, its events and counts come
from a state of which nothing is known (log entry 1). -/
def spoilPartition (n : Nat) (s0 : State) : State :=
  let u := (takeState s0).1
  let s := (takeState s0).2
  let mine (e : PlateEntry) : Bool := decide (e.kind = .linked) && decide (s.partOf e.hole = some n)
  let open_ (i : Nat) (e : PlateEntry) : PlateEntry :=
    let o := u.entry i
    { e with w0 := o.w0, w1 := o.w1, w2 := o.w2, w3 := o.w3, order := o.order }
  let due := (u.plate.due.filter fun d => mine (s.entry d.idx)).map fun d => { d with part := n }
  let s1 := s.setPlate { s.plate with
    entries := s.plate.entries.map fun x => if mine x.2 then (x.1, open_ x.1 x.2) else x
    due := s.plate.due.filter (fun d => decide (d.part ≠ n)) ++ due }
  let st := Reg.PLATE_PART_STATUS n
  ((s1.setReg st ((s1.reg st &&& 0xFFFFFE00) ||| (u.reg st &&& 0x1FF))).setReg (Reg.PLATE_PART_COUNT n)
    (u.reg (Reg.PLATE_PART_COUNT n) &&& 0x3FFFFF)).setReg (Reg.PLATE_PART_LATE n) (u.reg (Reg.PLATE_PART_LATE n) &&& 0x3FFFFFFF)

/-- Partition `n`'s results are undefined from here on, until an abort, a clear or an initialisation (R40). -/
def partUndefined (n : Nat) (s : State) : State :=
  spoilPartition n (s.setPlate { s.plate with
    spoiled := if s.plate.spoiled.contains n then s.plate.spoiled else s.plate.spoiled ++ [n] })

/-- Partition `n`'s results are defined again. -/
def partDefined (n : Nat) (s : State) : State :=
  s.setPlate { s.plate with spoiled := s.plate.spoiled.filter (· ≠ n) }

/-- A write by another requester that reaches the store or the mirror leaves every partition's results undefined (R93). -/
def storeTouched (a n : Nat) (s : State) : State :=
  let hits (b : Nat) : Bool := decide (a < b + 0x2400000) && decide (b < a + n)
  if s.bit Reg.PLATE_CTRL 28 && (hits s.storeBase || hits s.mirrorBase) then
    forEach ((List.range 154).filter s.partValid) partUndefined s
  else s

/-! ### Late entries (R83, R92) -/

/-- The turn in which phase `c` was last reached, moving forward or backward (R83). -/
def crossingTurn (forward : Bool) (pos : DWord) (c : Word) : Nat :=
  let p := (lowWord pos).toNat
  let t := highWord pos
  (if forward then (if p < c.toNat then t - 1 else t) else (if c.toNat < p then t + 1 else t)).toNat

/-- Is an entry of partition `n` late now (R92)? -/
def State.isLate (s : State) (n : Nat) (e : PlateEntry) : Bool :=
  let st := s.spnState n
  let pos := (s.spn n).pos
  let c := s.eventPhase n e
  let back := s.spnBackward n
  let allowed := match e.dir with
    | 0 => !back
    | 1 => back
    | _ => true
  let reached := if back then decide ((lowWord pos - c).toInt ≤ 0) else decide (0 ≤ (lowWord pos - c).toInt)
  decide (st = spnLocked ∨ st = spnStopped ∨ st = spnCoast) && allowed && reached &&
    turnPasses e.w3 (crossingTurn (!back) pos c)

/-- Entry `i` of partition `n` is due from this cycle on (R83); `path` orders one cycle's entries (R84). -/
def makeDue (i n path : Nat) (s : State) : State :=
  let s1 := s.setEntry i { s.entry i with dueAt := s.now + 1 }
  s1.setPlate { s1.plate with
    due := s1.plate.due ++ [{ idx := i, part := n, cycle := s.now, path := path, order := (s.entry i).order }] }

/-- One of PLATE_PART_LATE's counts (R100). -/
def countLate (n h l : Nat) (s : State) : State := rcUpFld (Reg.PLATE_PART_LATE n) h l 1 s

/-- The entry goes: its generation advances, and it is free (R86). -/
def freeEntry (i : Nat) (s : State) : State :=
  let e := s.entry i
  countWrap Reg.PLATE_FREE 1 (s.setEntry i { gen := (e.gen + 1) % 16 })

/-- Unlink entry `i` of partition `n` and free it (R86, R91). One that is due and has not fired is never dropped: it fires
unlinked, and is free after that (R84). -/
def unlinkFree (i n : Nat) (s : State) : State :=
  let e := s.entry i
  let s1 := if s.plate.due.any (·.idx = i) then s.setEntry i { e with kind := .leaving, gen := (e.gen + 1) % 16 }
    else freeEntry i s
  writeHole n e.hole (s1.setReg (Reg.PLATE_PART_COUNT n) (s1.reg (Reg.PLATE_PART_COUNT n) - 1))

/-- A late entry by its policy: fire now, defer, or drop (R92). Answers whether the entry was freed. -/
def latePolicyEff (i n : Nat) (s : State) : Bool × State :=
  let e := s.entry i
  match e.latePolicy with
  | 0 => (false, makeDue i n 0 (countLate n 9 0 (partEvent n (oneBit 1) s)))
  | 1 => (false, countLate n 19 10 (partEvent n (oneBit 1) s))
  | _ =>
    let s1 := countLate n 29 20 (partEvent n (oneBit 2) s)
    if e.periodic then (false, s1) else (true, unlinkFree i n s1)

/-! ### Operations (R86 to R91) -/

/-- Result codes (R87). -/
def plateFail (code : Nat) : Word := toWord (0x80000000 + code)

/-- A free entry: which one is left open (R86). None when all are in use. -/
def pickFree (s : State) : Option Nat × State :=
  if s.plate.entries.length < plateEntries ∨ (s.plate.entries.any fun x => decide (x.2.kind = .free)) then
    let fv := takeFree 21 s
    ((List.range (s.plate.entries.length + 1)).map (fun k => (fv.1.toNat + k) % plateEntries) |>.find?
      fun i => decide ((s.entry i).kind = .free), fv.2)
  else (none, s)

/-- The handle of entry `i` (R86). -/
def handleOf (s : State) (i : Nat) : Word := toWord ((s.entry i).gen * 2 ^ 21 + i)

/-- The entry that a handle names, unless its generation is another or it is neither linked nor taken (R86). -/
def State.byHandle (s : State) (h : Word) : Option Nat :=
  let i := fieldOf h 20 0
  let e := s.entry i
  if ¬ bitAt h 31 ∧ e.gen = fieldOf h 24 21 ∧ (e.kind = .linked ∨ e.kind = .alloc) then some i else none

/-- Linked entries and taken chain entries. -/
def State.allocated (s : State) : Nat := (s.plate.entries.filter fun x => decide (x.2.kind = .alloc)).length

/-- The reason for which an insert into hole `h` fails, and its partition (R87, R97). -/
def State.insertCheck (s : State) (h : Nat) : Nat ⊕ Nat :=
  match s.partOf h with
  | none => .inl 0x02
  | some n =>
    if s.partState n ≠ partRunning then .inl 0x03
    else if s.plate.damaged.contains h then .inl 0x0A
    else if 2047 ≤ (s.holeEntries h).length then .inl 0x04
    else if ¬ s.streamed n ∧ s.fld (Reg.PLATE_PART_NEAR n) 18 0 ≤ s.fld (Reg.PLATE_PART_COUNT n) 21 0 then .inl 0x06
    else .inr n

/-- A free entry takes W0 to W2 and turn_filter and is linked into hole `h` of partition `n`, if there is one (R86, R90). -/
def linkNew (w0 w1 w2 w3 : Word) (h n : Nat) (s : State) : Option Nat × State :=
  match pickFree s with
  | (none, s0) => (none, s0)
  | (some i, s0) =>
    let e : PlateEntry := { w0 := w0, w1 := w1, w2 := w2, w3 := w3 &&& 0xFFE00000, gen := (s0.entry i).gen
                            kind := .linked, hole := h, order := s0.plate.nextOrder }
    let s1 := s0.setEntry i e
    let s2 := s1.setPlate { s1.plate with nextOrder := s1.plate.nextOrder + 1 }
    let s3 := (s2.setReg Reg.PLATE_FREE (s2.reg Reg.PLATE_FREE - 1)).setReg (Reg.PLATE_PART_COUNT n)
      (s2.reg (Reg.PLATE_PART_COUNT n) + 1)
    let s4 := if s3.streamed n ∧ s3.fld (Reg.PLATE_PART_RES n) 10 0 < (s3.holeEntries h).length then
      partEvent n (oneBit 8) s3 else s3
    (some i, writeHole n h s4)

/-- Insert (R86, R90, R92): a free entry is linked; found late in a near hole, it follows its policy. late_policy or dir
0b11 leave the partition's results undefined (R78). -/
def plateInsertOp (w0 w1 w2 w3 : Word) (h : Nat) (s : State) : Word × State :=
  match s.insertCheck h with
  | .inl c => (plateFail c, s)
  | .inr n =>
    match linkNew w0 w1 w2 w3 h n s with
    | (none, s0) => (plateFail 0x01, s0)
    | (some i, s5) =>
      let e := s5.entry i
      if e.latePolicy = 3 ∨ e.dir = 3 then takeFree 32 (partUndefined n s5)
      else if s5.holeNear n h && s5.isLate n e then
        let r := latePolicyEff i n s5
        if r.1 then (plateFail 0x07, r.2) else (handleOf r.2 i, r.2)
      else (handleOf s5 i, s5)

/-- Remove (R86, R91). -/
def plateRemoveOp (h : Word) (s : State) : Word × State :=
  match s.byHandle h with
  | none => (plateFail 0x05, s)
  | some i =>
    let e := s.entry i
    if e.kind ≠ .linked then (plateFail 0x08, s)
    else if s.plate.damaged.contains e.hole then (plateFail 0x0A, s)
    else match s.partOf e.hole with
      | none => (plateFail 0x02, s)
      | some n => (0, unlinkFree i n s)

/-- Alloc: an entry and a slot of the chain pool (R86, R97). -/
def plateAllocOp (s : State) : Word × State :=
  if s.fld Reg.PLATE_CHAIN_POOL 18 0 ≤ s.allocated then (plateFail 0x06, s)
  else match pickFree s with
    | (none, s0) => (plateFail 0x01, s0)
    | (some i, s0) =>
      let s1 := s0.setEntry i { gen := (s0.entry i).gen, kind := .alloc }
      (handleOf s1 i, s1.setReg Reg.PLATE_FREE (s1.reg Reg.PLATE_FREE - 1))

/-- Write: all four words of an allocated entry, target and data of a linked one (R86, R90). -/
def plateWriteOp (h w0 w1 w2 w3 : Word) (s : State) : Word × State :=
  match s.byHandle h with
  | none => (plateFail 0x05, s)
  | some i =>
    let e := s.entry i
    if s.plate.lostChain.contains i then (plateFail 0x0A, s)
    else if e.kind = .alloc then
      let e1 := { e with w0 := w0, w1 := w1, w2 := w2, w3 := w3 }
      (0, writeBoth (16 * i) (entryBytes e1) (s.setEntry i e1))
    else if s.plate.damaged.contains e.hole then (plateFail 0x0A, s)
    else
      let s1 := s.setEntry i { e with w1 := w1, w2 := w2 }
      match s.partOf e.hole with
      | none => (0, s1)
      | some n => (0, writeHole n e.hole s1)

/-- Release of an allocated entry and its slot (R86). -/
def plateReleaseOp (h : Word) (s : State) : Word × State :=
  match s.byHandle h with
  | none => (plateFail 0x05, s)
  | some i =>
    if s.plate.lostChain.contains i then (plateFail 0x0A, s)
    else if (s.entry i).kind = .alloc then (0, freeEntry i s) else (plateFail 0x08, s)

/-- Fetch: the entry's words in the requester's PLATE_RD_W0 to W3 (R86, R88). -/
def plateFetchOp (q : Requester) (h : Word) (s : State) : Word × State :=
  match s.byHandle h with
  | none => (plateFail 0x05, s)
  | some i =>
    let e := s.entry i
    if (e.kind = .linked ∧ s.plate.damaged.contains e.hole) ∨ s.plate.lostChain.contains i then (plateFail 0x0A, s)
    else
      (0, (((s.setReg (ownKey q (Reg.PLATE_RD_W 0)) e.w0).setReg (ownKey q (Reg.PLATE_RD_W 1)) e.w1).setReg
        (ownKey q (Reg.PLATE_RD_W 2)) e.w2).setReg (ownKey q (Reg.PLATE_RD_W 3)) e.w3)

/-- Probe: near state and count of a hole (R86, R87). -/
def plateProbeOp (h : Nat) (s : State) : Word :=
  match s.partOf h with
  | none => plateFail 0x02
  | some n =>
    if s.plate.damaged.contains h then plateFail 0x0A
    else withBit (toWord (s.holeEntries h).length) 30 (s.holeNear n h)

def plateProbeRead (h : Nat) (s : State) : Word × State := (plateProbeOp h s, s)

/-- A staged word of requester `q` (R88). -/
def State.staged (s : State) (q : Requester) (i : Nat) : Word := s.reg (ownKey q (Reg.PLATE_STG_W i))
def State.stagedHandle (s : State) (q : Requester) : Word := s.reg (ownKey q Reg.PLATE_STG_HANDLE)
def State.stagedHole (s : State) (q : Requester) : Nat := s.fld (ownKey q Reg.PLATE_STG_HOLE) 19 0

/-- May another operation enter the queue of 64? Its places of the last 12 cycles count; how early in them a place is free
again is open (R87, R90, log entry 72). -/
def plateAdmit (s : State) : Bool × State :=
  let ops := s.plate.ops.filter fun t => decide (s.now < t + 12)
  let s1 := s.setPlate { s.plate with ops := ops ++ [s.now] }
  if ops.length < 64 then (true, s1)
  else if (takeFree 1 s).1 = 1 then (true, (takeFree 1 s1).2)
  else (false, (takeFree 1 s).2)

/-- An operation that the plate has taken. Without DRAM the plate store is unavailable (R19, R28): an operation that would
succeed changes nothing, and what it returns is open (log entry 72). -/
def plateRun (r : State → Word × State) (s : State) : Word × State :=
  if s.dramOn || bitAt (r s).1 31 then r s else takeFree 32 s

/-- An operation through a register: BUSY while the queue is full (R87, R97). -/
def plateOp (r : State → Word × State) (s : State) : Word × State :=
  if (plateAdmit s).1 then plateRun r (plateAdmit s).2 else (plateFail 0x09, (plateAdmit s).2)

/-- A read of an operation register answers the operation's result word (R88). -/
def answerOp (q : Requester) (r : State → Word × State) (s : State) : State := answer q (plateOp r s).1 (plateOp r s).2

def insertStaged (q : Requester) (s : State) : Word × State :=
  plateInsertOp (s.staged q 0) (s.staged q 1) (s.staged q 2) (s.staged q 3) (s.stagedHole q) s

def writeStaged (q : Requester) (s : State) : Word × State :=
  plateWriteOp (s.stagedHandle q) (s.staged q 0) (s.staged q 1) (s.staged q 2) (s.staged q 3) s

def execPlateInsert (q : Requester) (s : State) : Out :=
  .next (if s.plateOn then answerOp q (insertStaged q) s else answer q 0 s)

def execPlateRemove (q : Requester) (s : State) : Out :=
  .next (if s.plateOn then answerOp q (plateRemoveOp (s.stagedHandle q)) s else answer q 0 s)

def execPlateAlloc (q : Requester) (s : State) : Out :=
  .next (if s.plateOn then answerOp q plateAllocOp s else answer q 0 s)

def execPlateWrite (q : Requester) (s : State) : Out :=
  .next (if s.plateOn then answerOp q (writeStaged q) s else answer q 0 s)

def execPlateRelease (q : Requester) (s : State) : Out :=
  .next (if s.plateOn then answerOp q (plateReleaseOp (s.stagedHandle q)) s else answer q 0 s)

def execPlateFetch (q : Requester) (s : State) : Out :=
  .next (if s.plateOn then answerOp q (plateFetchOp q (s.stagedHandle q)) s else answer q 0 s)

def execPlateProbe (q : Requester) (s : State) : Out :=
  .next (if s.plateOn then answerOp q (plateProbeRead (s.stagedHole q)) s else answer q 0 s)

/-! ### Due and dispatch (R82 to R84, R98) -/

/-- How far phase `c` lies from P_prev along the step (R84). -/
def pathOf (x : Spindle) (forward : Bool) (c : Word) : Nat :=
  (if forward then c - lowWord x.prev else lowWord x.prev - c).toNat

/-- ENTRY_DUE: this cycle's movement of spindle n crosses a near entry's event phase in an allowed direction, on a turn
that passes its filter, while its partition runs (R83); due already, a periodic entry overruns (R84). -/
def entryDueEff (i : Nat) (s : State) : State :=
  let e := s.entry i
  match s.partOf e.hole with
  | none => s
  | some n =>
    let x := s.spn n
    let c := s.eventPhase n e
    let fwd := crossedForward (lowWord x.prev) (lowWord x.pos) c
    let st := s.spnState n
    if decide (e.kind = .linked) && decide (e.dueAt ≠ s.now + 1) && decide (s.partState n = partRunning) && s.holeNear n e.hole &&
        !s.plate.damaged.contains e.hole && decide (st = spnLocked ∨ st = spnCoast) &&
        crossedIn e.dir (lowWord x.prev) (lowWord x.pos) c && turnPasses e.w3 (crossingTurn fwd x.pos c) then
      if s.plate.due.any (·.idx = i) then
        if e.periodic then partEvent n (oneBit 5) (s.setEntry i { e with dueAt := s.now + 1 }) else s
      else makeDue i n (pathOf x fwd c) s
    else s

def execEntryDue (idx : Fin 2097152) (s : State) : Out := .next (if s.dramOn then entryDueEff idx s else s)

/-- The order of R84 among due entries. -/
def State.firesBefore (s : State) (a b : DueEntry) : Bool :=
  let pa := s.bit (Reg.PLATE_PART_CTL a.part) 30
  let pb := s.bit (Reg.PLATE_PART_CTL b.part) 30
  if pa != pb then pa
  else if a.cycle ≠ b.cycle then decide (a.cycle < b.cycle)
  else if a.part ≠ b.part then decide (a.part < b.part)
  else if a.path ≠ b.path then decide (a.path < b.path)
  else decide (a.order < b.order)

/-- The first due entry in the order of R84. -/
def State.firstDue (s : State) : List DueEntry → Option DueEntry
  | [] => none
  | d :: ds => match s.firstDue ds with
    | none => some d
    | some d' => if s.firesBefore d' d then some d' else some d

/-- Every dispatch: counted, sent to its destination, and in the retirement queue (R79, R98). -/
def sendAction (i : Nat) (s : State) : State :=
  let e := s.entry i
  let f := pairOf (s.reg Reg.PLATE_FIRES_HI) (s.reg Reg.PLATE_FIRES_LO) + 1
  let s1 := (s.setReg Reg.PLATE_FIRES_LO (lowWord f)).setReg Reg.PLATE_FIRES_HI (highWord f)
  let s2 := s1.setPlate { s1.plate with retq := s1.plate.retq ++ [i], sent := some (e.action, e.w1, e.w2) }
  s2.setReg Reg.PLATE_RETQ (toWord s2.plate.retq.length)

/-- Does the table of R79 list the action code, with no stray target bit? -/
def actionListed (e : PlateEntry) : Bool :=
  match e.action with
  | 0 => decide (e.w1 = 0)
  | 1 | 2 => decide (e.w1 &&& 0xF0000003 = 0)
  | 3 => decide (e.w1 &&& ~~~0x1F = 0)
  | 4 => decide (e.w1 &&& ~~~0x3F = 0)
  | 5 => decide (e.w1 &&& ~~~0xFFF = 0)
  | 6 => decide (e.w1 &&& ~~~0x1FF = 0)
  | 7 => decide (e.w1 &&& ~~~0x7F = 0)
  | 8 => decide (e.w1 &&& ~~~0xFF3F = 0)
  | 9 => decide (e.w1 = 0)
  | 10 => decide (e.w1 &&& ~~~0x1FF = 0)
  | _ => false

/-- The next of `left` chain members fires, and the chain goes on along its next field; a CHAIN among them acts as NOP and
sets chain_error; one that is not taken leaves the partition's results undefined and ends the chain, as an action that
R79 does not list leaves them; the chain ends at one that cannot be read (R79, R82, R96). -/
def fireMember (i left : Nat) (s : State) : State :=
  let e := s.entry i
  let n := s.plate.chainPart
  let s0 := s.setPlate { s.plate with chain := if left ≤ 1 then none else some (fieldOf e.w3 20 0, left - 1) }
  if e.kind ≠ .alloc then partUndefined n (s0.setPlate { s0.plate with chain := none })
  else if s.plate.lostChain.contains i then s0.setPlate { s0.plate with chain := none }
  else if e.action = 9 then
    let s1 := partEvent n (oneBit 3) (sendAction i s0)
    s1.setPlate { s1.plate with sent := some (0, 0, 0) }
  else if actionListed e then sendAction i s0
  else partUndefined n (sendAction i s0)

/-- A CHAIN of partition `part` names its first member and its length: the members fire directly after it (R82). -/
def loadChain (part : Nat) (data : Word) (s : State) : State :=
  s.setPlate { s.plate with chain := some (fieldOf data 20 0, fieldOf data 26 21 + 1), chainPart := part }

/-- The slip of a fire: the largest is kept, and above PLATE_SLIP_LIMIT slip and overload are set (R84, R98). -/
def noteSlip (n slip : Nat) (s : State) : State :=
  let s1 := rcMax Reg.PLATE_SLIP_MAX (toWord (satNat 0xFFFFFFFF slip)) s
  if (s.reg Reg.PLATE_SLIP_LIMIT).toNat < slip then plateEvent (oneBit 2) (partEvent n (oneBit 6) s1) else s1

/-- A one-shot entry is unlinked at dispatch and its generation advances; retirement frees it (R91, R98). One that was
removed while due is unlinked already. -/
def dispatchOneShot (i n : Nat) (s : State) : State :=
  let e := s.entry i
  if e.kind = .leaving then s.setEntry i { e with kind := .retiring }
  else
  let s1 := s.setEntry i { e with kind := .retiring, gen := (e.gen + 1) % 16 }
  writeHole n e.hole (s1.setReg (Reg.PLATE_PART_COUNT n) (s1.reg (Reg.PLATE_PART_COUNT n) - 1))

/-- A due entry fires (R78, R79, R84). -/
def fireEntry (d : DueEntry) (s : State) : State :=
  let e := s.entry d.idx
  let s1 := sendAction d.idx (s.setPlate { s.plate with due := s.plate.due.filter (·.idx ≠ d.idx) })
  let s2 := noteSlip d.part (s.now - d.cycle) s1
  let s3 := if e.notify then partEvent d.part (oneBit 0) s2 else s2
  let s4 := if e.action = 9 then loadChain d.part e.w2 s3 else s3
  let s5 := if e.periodic ∧ e.kind ≠ .leaving then s4 else dispatchOneShot d.idx d.part s4
  if actionListed e then s5 else partUndefined d.part s5

/-- ENTRY_FIRE: the one dispatch slot of a cycle. Chain members stand first; with the retirement queue full the dispatcher
waits (R82, R84, R98). -/
def entryFireEff (s : State) : State :=
  if s.plate.firedAt = s.now + 1 then s
  else if 8192 ≤ s.plate.retq.length then plateEvent (oneBit 0) s
  else
    let s1 := s.setPlate { s.plate with firedAt := s.now + 1 }
    match s.plate.chain with
    | some (i, left) => fireMember i left s1
    | none => match s.firstDue s.plate.due with
      | some d => fireEntry d s1
      | none => s

def execEntryFire (s : State) : Out := .next (if s.dispatchOn then entryFireEff s else s)

/-- RETIREMENT: the oldest dispatched entry leaves the queue, one in 2 cycles; a one-shot entry is free from then on
(R98). -/
def retirementEff (s : State) : State :=
  match s.plate.retq with
  | [] => s
  | i :: q =>
    if s.plate.retiredAt ≠ 0 ∧ s.now < s.plate.retiredAt + 1 then s
    else
    let s1 := (s.setPlate { s.plate with retq := q, retiredAt := s.now + 1 }).setReg Reg.PLATE_RETQ (toWord q.length)
    if (s.entry i).kind = .retiring then
      countWrap Reg.PLATE_FREE 1 (s1.setEntry i { gen := (s.entry i).gen })
    else s1

def execRetirement (s : State) : Out := .next (if s.plateOn then retirementEff s else s)

/-! ### Actions that the plate carries out itself (R79, R82) -/

/-- NOP does nothing at a destination (R79). -/
def execNopAction (s : State) : Out := .next s

/-- CHAIN: its members fire one per dispatch slot directly after it (R82). The dispatch of a CHAIN entry has loaded its
chain itself, and the action it has sent has no further effect. -/
def execChain (part : Fin 154) (data : Word) (s : State) : Out :=
  .next (if !s.dramOn then s
    else match s.plate.sent with
      | some (9, _, d) => if d = data then s.setPlate { s.plate with sent := none } else loadChain part data s
      | _ => loadChain part data s)

/-- MARK captures as sw_trigger does; a spindle that does not exist does nothing (R68, R79). -/
def execMark (target : Word) (s : State) : Out :=
  .next (if s.spnPresent (fieldOf target 7 0) && decide (fieldOf target 7 0 < 154) then
    capture (fieldOf target 7 0) (fieldOf target 8 8) s else s)

/-! ### Fetches and failed words (R94 to R96) -/

/-- HOLE_FETCH: the phase of a streamed partition enters a hole (R94). -/
def execHoleFetch (n : Fin 154) (s : State) : Out :=
  .next (if s.dispatchOn && s.streamed n && decide (s.partState n = partRunning) then sweep n s else s)

/-- HOLE_FETCH_DONE: the hole's entries are in the near window; those found late follow their policy and set
near_starved; more than k_max of them set overfill (R92, R94, R95). -/
def holeFetchDoneEff (h : Nat) (s : State) : State :=
  if s.plate.fetching.contains h then
    let s1 := s.setPlate { s.plate with
      fetching := s.plate.fetching.filter (· ≠ h), near := s.plate.near ++ [h] }
    match s.partOf h with
    | none => s1
    | some n =>
      let l := s.holeEntries h
      let s2 := if s.fld (Reg.PLATE_PART_RES n) 10 0 < l.length then partEvent n (oneBit 8) s1 else s1
      startFetches (forEach (l.map (·.1)) (fun i s =>
        if s.isLate n (s.entry i) then (latePolicyEff i n (partEvent n (oneBit 7) s)).2 else s) s2)
  else s

def execHoleFetchDone (hole : Fin 1048576) (s : State) : Out :=
  .next (if s.dispatchOn then holeFetchDoneEff hole s else s)

/-- A word of chain entry `i` fails detection: it is counted in the partition that fires the chain. Without a good copy the
entry is lost, which raises what a damaged hole does (R96). -/
def chainRefetch (i : Nat) (which : PlateFault) (s : State) : State :=
  let n := s.plate.chainPart
  let s1 := partEvent n (oneBit 4) s
  match which with
  | .nearWord => countDetect s1
  | .storeWord => countDetect (writeBoth (16 * i) (entryBytes (s.entry i)) s1)
  | .bothCopies =>
    let s2 := s1.setPlate { s1.plate with
      lostChain := if s1.plate.lostChain.contains i then s1.plate.lostChain else s1.plate.lostChain ++ [i] }
    postCheck (tabGet none n s.plate.owners) 6 (s.storeBase + 16 * i) (raiseTs 27 (plateEvent (oneBit 1) s2))

/-- PLATE_REFETCH: a word fails detection (R96). One good copy in DRAM restores it; with none the hole is damaged,
detect_double and tailstock source 27 are raised, and a machine check goes to the partition's owner. -/
def plateRefetchEff (i : Nat) (which : PlateFault) (s : State) : State :=
  let h := (s.entry i).hole
  if (s.entry i).kind = .alloc then chainRefetch i which s
  else match s.partOf h with
  | none => s
  | some n =>
    let s1 := partEvent n (oneBit 4) s
    match which with
    | .nearWord => countDetect s1
    | .storeWord => countDetect (syncHole h s1)
    | .bothCopies =>
      let s2 := s1.setPlate { s1.plate with
        damaged := if s1.plate.damaged.contains h then s1.plate.damaged else s1.plate.damaged ++ [h]
        due := s1.plate.due.filter fun d => decide ((s1.entry d.idx).hole ≠ h) }
      postCheck (tabGet none n s.plate.owners) 6 (s.storeBase + 16 * i) (raiseTs 27 (plateEvent (oneBit 1) s2))

def execPlateRefetch (idx : Fin 2097152) (which : PlateFault) (s : State) : Out :=
  .next (if s.dramOn && decide ((s.entry idx).kind = .linked ∨ (s.entry idx).kind = .alloc) then plateRefetchEff idx which s
    else s)

/-! ### Control (R93, R99, R101, R104) -/

/-- A write of PLATE_CTRL: enable, store_lock (set by 1), and init while enable = 0 (R101). -/
def plateCtrlWrite (v : Word) (s : State) : State :=
  let old := s.reg Reg.PLATE_CTRL
  let w := (old &&& 0x50000000) ||| (v &&& 0xC0000000)
  let s1 := s.setReg Reg.PLATE_CTRL w
  if bitAt v 29 && !bitAt w 31 then
    (s1.setBit Reg.PLATE_CTRL 28 false).setPlate { s1.plate with initialising := true }
  else s1

def execPlateInit (value : Word) (s : State) : Out :=
  .next (if s.plateOn then plateCtrlWrite (value ||| oneBit 29) s else s)

def execStoreLock (value : Word) (s : State) : Out :=
  .next (if s.plateOn then plateCtrlWrite ((value ||| oneBit 30) &&& ~~~oneBit 29) s else s)

/-- The 36 MiB of one region read as zero. -/
def clearRegion (b : Nat) (s : State) : State :=
  { s with mem := s.mem.filter fun c => !(decide (b ≤ c.1) && decide (c.1 < b + 0x2400000)) }

/-- PLATE_INIT_DONE: store, mirror, free list and generations are initialised (R93, R101). -/
def plateInitDoneEff (s : State) : State :=
  if s.plate.initialising then
    let s1 := clearRegion s.mirrorBase (clearRegion s.storeBase s)
    let s2 := s1.setPlate { owners := s1.plate.owners }
    let s3 := forEach (List.range 154) (fun n s => s.setReg (Reg.PLATE_PART_COUNT n) 0) (s2.setReg Reg.PLATE_RETQ 0)
    (s3.setReg Reg.PLATE_FREE (toWord plateEntries)).setBit Reg.PLATE_CTRL 28 true
  else s

def execPlateInitDone (s : State) : Out := .next (if s.dramOn then plateInitDoneEff s else s)

/-- A partition leaves the running state: its due entries that have not fired never fire, one that was removed while due is
free, and its fetches stop (R84, R99). -/
def stopPartition (n : Nat) (s : State) : State :=
  let gone := (s.plate.due.filter fun d => decide (d.part = n) && decide ((s.entry d.idx).kind = .leaving)).map (·.idx)
  let s1 := forEach gone (fun i s => countWrap Reg.PLATE_FREE 1 (s.setEntry i { gen := (s.entry i).gen })) s
  let other (h : Nat) : Bool := decide (s.partOf h ≠ some n)
  s1.setPlate { s1.plate with
    due := s1.plate.due.filter (·.part ≠ n)
    fetching := s1.plate.fetching.filter other, wanted := s1.plate.wanted.filter other }

def setPartState (n st : Nat) (s : State) : State := s.setFld (Reg.PLATE_PART_STATUS n) 31 30 st

/-- A partition with enable set runs, and its near window fills (R94, R104). -/
def runPartition (n : Nat) (s : State) : State := refetch n (setPartState n partRunning s)

/-- A write of PLATE_PART_CTL (R99, R104): clear is honoured with enable 0 after the write, or in the parted state. -/
def partCtlWrite (n : Nat) (v0 : Word) (s : State) : State :=
  let v := s.keepEnable 3 n (Reg.PLATE_PART_CTL n) v0
  let s1 := s.setReg (Reg.PLATE_PART_CTL n) (v &&& 0xC0000000)
  let st := s.partState n
  if bitAt v 29 && (!bitAt v 31 || decide (st = partParted)) then
    setPartState n partClearing (stopPartition n s1)
  else if st = partRunning ∧ ¬ bitAt v 31 then setPartState n partDisabled (stopPartition n s1)
  else if st = partDisabled ∧ bitAt v 31 ∧ s.partValid n then runPartition n s1
  else s1

def execPartitionClear (n : Fin 154) (value : Word) (s : State) : Out :=
  .next (if s.plateOn then partCtlWrite n (value ||| oneBit 29) s else s)

/-- PARTITION_CLEAR_DONE: every entry of the partition is free, damaged holes are whole, and the partition is disabled
with enable clear (R96, R99). -/
def partitionClearDoneEff (n : Nat) (s : State) : State :=
  if s.partState n = partClearing then
    let mine := s.plate.entries.filter fun x => decide (x.2.kind = .linked) && decide (s.partOf x.2.hole = some n)
    let s1 := forEach (mine.map (·.1)) (fun i s => unlinkFree i n s) s
    let s2 := s1.setPlate { s1.plate with damaged := s1.plate.damaged.filter fun h => decide (s.partOf h ≠ some n) }
    setPartState n partDisabled (partDefined n
      ((s2.setReg (Reg.PLATE_PART_COUNT n) 0).setBit (Reg.PLATE_PART_CTL n) 31 false))
  else s

def execPartitionClearDone (n : Fin 154) (s : State) : Out :=
  .next (if s.dramOn then partitionClearDoneEff n s else s)

/-- An abort parts an allocated partition; one that is not allocated has nothing to part (R99). -/
def partPartition (n : Nat) (s : State) : State :=
  if s.partValid n then setPartState n partParted (stopPartition n (partDefined n s)) else s

end Sys2Proof.Machine
end

