-- ==== Sys2Proof/Machine/LoopLaw.lean ====
section
/-! DEFINITION. What one run of a loop engine computes: scaling, frame transform, control law, limiter, modulator and
observer (R133 to R139, R151), as functions of the context's registers and of what stage 1 latched. -/

namespace Sys2Proof.Machine

def State.ctx (s : State) (k : Nat) : LoopCtx := tabGet {} k s.loops
def State.setCtx (s : State) (k : Nat) (c : LoopCtx) : State := { s with loops := tabSet {} k c s.loops }

/-! ### LOOP_CTL (R153) -/

def State.loopCtl (s : State) (k : Nat) : Word := s.reg (Reg.LOOP_CTL k)
def State.loopEnabled (s : State) (k : Nat) : Bool := bitAt (s.loopCtl k) 31
def State.loopType (s : State) (k : Nat) : Nat := fieldOf (s.loopCtl k) 30 28
def State.loopPredictor (s : State) (k : Nat) : Nat := fieldOf (s.loopCtl k) 27 26
def State.loopAw (s : State) (k : Nat) : Nat := fieldOf (s.loopCtl k) 23 22
def State.loopAxes (s : State) (k : Nat) : Nat := fieldOf (s.loopCtl k) 21 21 + 1
def State.loopOrder (s : State) (k : Nat) : Nat := fieldOf (s.loopCtl k) 19 16
def State.loopNout (s : State) (k : Nat) : Nat := fieldOf (s.loopCtl k) 15 14 + 1
def State.loopNin (s : State) (k : Nat) : Nat := fieldOf (s.loopCtl k) 13 12 + 1
def State.loopTransform (s : State) (k : Nat) : Nat := fieldOf (s.loopCtl k) 11 10
def State.loopMap (s : State) (k o : Nat) : Word := s.reg (Reg.LOOP_OUT_MAP k o)
def State.loopIn (s : State) (k i : Nat) : Word := s.reg (Reg.LOOP_IN k i)
def State.obsMode (s : State) (k : Nat) : Nat := s.fld (Reg.LOOP_OBS_CTL k) 30 28
def mapMod (w : Word) : Nat := fieldOf w 30 29
def mapPair (w : Word) : Nat := fieldOf w 6 0

/-- The context's state: 0 disabled, 1 running, 2 faulted, 3 tripped, 4 parted, 5 rebuilding (R157). -/
def State.loopState (s : State) (k : Nat) : Nat := s.fld (Reg.LOOP_STATUS k) 31 29
def setLoopState (k st : Nat) (s : State) : State := s.setFld (Reg.LOOP_STATUS k) 31 29 st

/-- Events of a context (R152, R157). -/
def loopEvent (k : Nat) (bits : Word) (s : State) : State :=
  raiseStatus (Reg.LOOP_STATUS k) (Reg.LOOP_IRQ_EN k) (896 + k) bits s

/-- Does input `i` name a channel, spindle or context that its source does not list (R154)? -/
def State.inUnlisted (s : State) (k i : Nat) : Bool :=
  let w := s.loopIn k i
  let n := fieldOf w 8 0
  match fieldOf w 30 29 with
  | 0 => decide (384 ≤ n)
  | 3 => decide (384 ≤ n)
  | _ => decide (154 ≤ n)

/-- Does the start source name a number that its kind does not list (R155)? -/
def State.startUnlisted (s : State) (k : Nat) : Bool :=
  let w := s.reg (Reg.LOOP_START k)
  let n := fieldOf w 9 0
  bitAt w 31 && (match fieldOf w 30 29 with
    | 0 => decide (24 ≤ n)
    | 1 => decide (616 ≤ n)
    | 2 => decide (24 ≤ n)
    | _ => false)

/-- Does LOOP_OUT_MAP[o] hold a use of the modulator that the spec calls undefined (R138, R156)? -/
def State.mapUnlisted (s : State) (k o : Nat) : Bool :=
  let w := s.loopMap k o
  bitAt w 31 && (decide (mapMod w = 3) || decide (96 ≤ mapPair w) ||
    (decide (mapMod w = 1) && (decide (o ≠ 0) || bitAt (s.loopMap k 1) 31 ||
      decide (mapPair w / 4 ≠ (mapPair w + 2) / 4))))

/-- Do the context's registers hold a value that gives undefined results for the loop (R39, R138, R152 to R158)? -/
def State.loopUnlisted (s : State) (k : Nat) : Bool :=
  let t := s.loopType k
  let n := s.loopOrder k
  let rs := s.reg (Reg.LOOP_REF_SRC k)
  let an := s.reg (Reg.LOOP_ANGLE k)
  decide (4 < t) || decide (fieldOf (s.loopCtl k) 25 24 = 3) || decide (s.loopAw k = 3) ||
  decide (s.loopTransform k = 3) || (decide (t = 2) && !decide (1 ≤ n ∧ n ≤ 4)) ||
  (decide (t = 3) && !decide (1 ≤ n ∧ n ≤ 8)) || decide (fieldOf an 27 24 = 0) ||
  (bitAt an 31 && decide (154 ≤ fieldOf an 7 0)) || (bitAt rs 31 && decide (384 ≤ fieldOf rs 8 0)) ||
  decide (3 < s.obsMode k) || (decide (s.obsMode k ≠ 0) && decide (s.fld (Reg.LOOP_OBS_CTL k) 23 16 = 0)) ||
  s.startUnlisted k || (List.range (s.loopNin k)).any (s.inUnlisted k) || (List.range 4).any (s.mapUnlisted k)

/-- Are the results of the loop undefined: it is enabled, not parted, and misused (R40, R131, R140, R147)? -/
def State.loopMisused (s : State) (k : Nat) : Bool :=
  s.loopEnabled k && decide (s.loopState k ≠ 4) &&
    ((s.ctx k).spoiled || (s.ctx k).bankBad || s.loopUnlisted k)

/-! ### Coefficients and state (R139) -/

/-- Word `w` of bank A or B (`b`) of context `k`. -/
def State.coef (s : State) (k : Nat) (b : Bool) (w : Nat) : Fp :=
  fpOf (s.reg (if b then Reg.LOOP_BANK_B k w else Reg.LOOP_BANK_A k w))

/-- State word `w` of context `k`. -/
def State.lst (s : State) (k w : Nat) : Fp := fpOf (s.reg (Reg.LOOP_STATE k w))

/-- The `i`-th value of a list of inputs or outputs; an absent one is +0. -/
def fpGet (l : List Fp) (i : Nat) : Fp := l.getD i (fpOf 0)

/-! ### Stages 2 and 4 (R133, R134, R138, R153) -/

/-- The angle in turns: mult times the phase that the latched one had at hold time `h` (R134, R135). -/
def loopPhase (c : LoopCtx) (h : Word) : Fp :=
  let dt := (c.fetched - h).toInt
  let p : Int := ((c.angPhase.toNat * 2 ^ 16 : Nat) : Int) - c.angVel * dt
  fpTurns (p / 2 ^ 16 % 2 ^ 32).toNat

def State.loopMult (s : State) (k : Nat) : Fp := fpInt (s.fld (Reg.LOOP_ANGLE k) 27 24)

/-- y after stage 4: none, or Clarke and Park of two or three phases at angle `th` in turns (R153; the Park transform
is the inverse of R138's, log entry 18). -/
def frameTransform (mode : Nat) (th : Fp) (y : List Fp) : List Fp :=
  let y0 := fpGet y 0
  let y1 := fpGet y 1
  let y2 := fpGet y 2
  let al := if mode = 1 then y0 else fpDiv (fpSub (fpSub (fpMul (fpInt 2) y0) y1) y2) (fpInt 3)
  let be := if mode = 1 then fpMul (fpAdd y0 (fpMul (fpInt 2) y1)) (fpOf 0x3F13CD3B)
    else fpMul (fpSub y1 y2) (fpOf 0x3F13CD3B)
  if mode = 0 then y
  else fpAdd (fpMul al (fpCos th)) (fpMul be (fpSin th)) ::
    fpSub (fpMul be (fpCos th)) (fpMul al (fpSin th)) :: y.drop 2

/-- Stage 2: scale and offset of raw input `i` (R133). -/
def State.scaleIn (s : State) (k : Nat) (b : Bool) (i : Nat) (raw : Word) : Fp :=
  fpAdd (fpMul (s.coef k b i) (fpOf raw)) (s.coef k b (4 + i))

/-! ### Stage 5 (R136) and stage 6 (R137) -/

/-- Outputs after the limiter, and the new state words, as index and value. -/
structure LawResult where
  us : List Fp
  next : List (Nat × Fp)

/-- Stage 6 for output `o`: umin, umax, rate limit (R137). -/
def State.limitOut (s : State) (k : Nat) (b : Bool) (o : Nat) (u : Fp) : Fp :=
  let v := fpMin (fpMaxOf u (s.coef k b (12 + o))) (s.coef k b (16 + o))
  let d := s.coef k b (20 + o)
  if fpIsZero d then v
  else
    let p := s.lst k (24 + o)
    fpMin (fpMaxOf v (fpSub p d)) (fpAdd p d)

/-- Is u - us of the sign of the step, so that the step drives further into the limit (log entry 19)? -/
def drivesFurther (u us step : Fp) : Bool :=
  (fpLt us u && fpLt (fpOf 0) step) || (fpLt u us && fpLt step (fpOf 0))

/-- Two values that differ (a comparison with !=). -/
def fpNe (a b : Fp) : Bool := fpLt a b || fpLt b a

/-- PI and PID on axis `a`: limited output, new integrator, new derivative filter. -/
def State.pidAxis (s : State) (k : Nat) (b pid : Bool) (ref : List Word) (y : List Fp) (a : Nat) :
    Fp × Fp × Fp :=
  let e := fpSub (fpOf (ref.getD a 0)) (fpGet y a)
  let i := s.lst k a
  let u0 := fpAdd (fpMul (s.coef k b (32 + 8 * a)) e) i
  let d1 := fpSub (fpMul (s.coef k b (34 + 8 * a)) (s.lst k (2 + a)))
    (fpMul (s.coef k b (35 + 8 * a)) (fpSub (fpGet y a) (s.lst k (4 + a))))
  let u := if pid then fpAdd u0 d1 else u0
  let us := s.limitOut k b a u
  let step := fpMul (s.coef k b (33 + 8 * a)) e
  let i1 := fpAdd i step
  let i2 := if s.loopAw k = 1 ∧ fpNe us u ∧ drivesFurther u us step then i
    else if s.loopAw k = 2 then fpAdd i1 (fpMul (s.coef k b 28) (fpSub us u)) else i1
  (us, i2, if pid then d1 else s.lst k (2 + a))

def State.lawPid (s : State) (k : Nat) (b pid : Bool) (ref : List Word) (y : List Fp) : LawResult :=
  let rs := (List.range (s.loopAxes k)).map (s.pidAxis k b pid ref y)
  { us := rs.map (·.1)
    next := (rs.zipIdx.map fun r => (r.2, r.1.2.1)) ++ rs.zipIdx.map fun r => (2 + r.2, r.1.2.2) }

/-- PR: one axis, `nh` resonators. -/
def State.lawPr (s : State) (k : Nat) (b : Bool) (ref : List Word) (y : List Fp) : LawResult :=
  let e := fpSub (fpOf (ref.getD 0 0)) (fpGet y 0)
  let rs := (List.range (s.loopOrder k)).map fun h =>
    let w := 33 + 5 * h
    let r := fpAdd (fpMul (s.coef k b w) e) (s.lst k (8 + 2 * h))
    let s1 := fpAdd (fpSub (fpMul (s.coef k b (w + 1)) e) (fpMul (s.coef k b (w + 3)) r)) (s.lst k (9 + 2 * h))
    let s2 := fpSub (fpMul (s.coef k b (w + 2)) e) (fpMul (s.coef k b (w + 4)) r)
    (h, r, s1, s2)
  let u := rs.foldl (fun u r => fpAdd u r.2.1) (fpMul (s.coef k b 32) e)
  let us := s.limitOut k b 0 u
  let held : Bool := decide (s.loopAw k = 1) && fpNe us u
  let back (v : Fp) : Fp := if s.loopAw k = 2 then fpAdd v (fpMul (s.coef k b 28) (fpSub us u)) else v
  { us := [us]
    next := if held then [] else rs.flatMap fun r => [(8 + 2 * r.1, back r.2.2.1), (9 + 2 * r.1, r.2.2.2)] }

/-- State-space: n states, nin inputs, nout outputs. -/
def State.lawSs (s : State) (k : Nat) (b : Bool) (ref : List Word) (y : List Fp) : LawResult :=
  let n := s.loopOrder k
  let nin := s.loopNin k
  let v := fpSub (fpOf (ref.getD 0 0)) (fpGet y 0) :: (y.drop 1)
  let x := (List.range n).map fun j => s.lst k (16 + j)
  let row (cx cv : Nat) : Fp :=
    fpAdd (fpDot ((List.range n).map fun j => (s.coef k b (cx + j), fpGet x j)))
      (fpDot ((List.range nin).map fun q => (s.coef k b (cv + q), fpGet v q)))
  let us := (List.range (s.loopNout k)).map fun o =>
    let u := row (128 + 8 * o) (160 + 4 * o)
    (u, s.limitOut k b o u)
  let held : Bool := decide (s.loopAw k = 1) && us.any fun p => fpNe p.2 p.1
  let du := match us with
    | p :: _ => fpSub p.2 p.1
    | [] => fpOf 0
  let back (j : Nat) (w : Fp) : Fp := if s.loopAw k = 2 then fpAdd w (fpMul (s.coef k b (176 + j)) du) else w
  { us := us.map (·.2)
    next := if held then [] else (List.range n).map fun j => (16 + j, back j (row (32 + 8 * j) (96 + 4 * j))) }

/-- Stages 5 and 6 of a run with inputs `y` after stage 4. -/
def State.law (s : State) (k : Nat) (b : Bool) (ref : List Word) (y : List Fp) : LawResult :=
  match s.loopType k with
  | 0 => s.lawPid k b false ref y
  | 1 => s.lawPid k b true ref y
  | 2 => s.lawPr k b ref y
  | _ => s.lawSs k b ref y

/-! ### Stage 7 (R138) -/

def fpClamp (lo hi : Word) (a : Fp) : Fp := fpMin (fpMaxOf a (fpOf lo)) (fpOf hi)

/-- The clamped duty of pair `p` times per32, still to be rounded. -/
def State.dutyOf (s : State) (p : Nat) (d : Fp) : Fp := fpMul (fpClamp 0 0x3F800000 d) (fpInt (s.per32 (p / 4)))

/-- The voltage vector of a three-phase entry at angle `th`. -/
def voltage (us : List Fp) (th : Fp) : Fp × Fp :=
  (fpSub (fpMul (fpGet us 0) (fpCos th)) (fpMul (fpGet us 1) (fpSin th)),
   fpAdd (fpMul (fpGet us 0) (fpSin th)) (fpMul (fpGet us 1) (fpCos th)))

/-- The three duties with min-max injection (R138). -/
def threePhase (va vb : Fp) : List Fp :=
  let h := fpMul (fpOf 0xBF000000) va
  let q := fpMul (fpOf 0x3F5DB3D7) vb
  let ph := [va, fpAdd h q, fpSub h q]
  let hi := fpMaxOf (fpMaxOf (fpGet ph 0) (fpGet ph 1)) (fpGet ph 2)
  let lo := fpMin (fpMin (fpGet ph 0) (fpGet ph 1)) (fpGet ph 2)
  let off := fpSub (fpOf 0x3F000000) (fpDiv (fpAdd hi lo) (fpInt 2))
  ph.map fun x => fpAdd x off

/-- The angle of the modulator: mult * (phase + velocity * c[29]) in turns (R138). -/
def State.modAngle (s : State) (k : Nat) (c : LoopCtx) (h : Word) : Fp :=
  fpMul (s.loopMult k) (fpAdd (loopPhase c h) (fpMul (fpScaled c.angVel (-48)) (s.coef k c.bank 29)))

/-- The ports that the enabled maps drive, in order, with the products that stage 7 rounds: port 4 p + 1 is compare A of
pair p, 4 p + 3 its phase shift (R138, R156). -/
def State.modProducts (s : State) (k : Nat) (th : Fp) (us : List Fp) : List (Nat × Fp) :=
  (List.range 4).flatMap fun o =>
    let w := s.loopMap k o
    let p := mapPair w
    if !bitAt w 31 then []
    else match mapMod w with
      | 0 => [(4 * p + 1, s.dutyOf p (fpGet us o))]
      | 1 =>
        let v := voltage us th
        (threePhase v.1 v.2).zipIdx.map fun d => (4 * (p + d.2) + 1, s.dutyOf (p + d.2) d.1)
      | 2 => [(4 * p + 3, fpMul (fpClamp 0xBF000000 0x3F000000 (fpGet us o)) (fpInt (s.per32 (p / 4))))]
      | _ => []

/-- The ports with their values: a compare, or a shift, which acts modulo per32 (R138, R162). -/
def State.modulate (s : State) (k : Nat) (th : Fp) (us : List Fp) : List (Nat × Nat) :=
  (s.modProducts k th us).map fun d =>
    let z := fpToInt d.2 0 true
    (d.1, if d.1 % 4 = 3 then (z % (max 1 (s.per32 (d.1 / 16)) : Nat)).toNat else z.toNat)

/-- Does any enabled map use the three-phase modulator? -/
def State.threePhaseMap (s : State) (k : Nat) : Bool :=
  bitAt (s.loopMap k 0) 31 && decide (mapMod (s.loopMap k 0) = 1)

/-! ### The observer (R151) -/

/-- New observer words, 28 on, with what judges the flag. -/
structure ObsResult where
  words : List (Nat × Fp)
  err : Fp
  amp : Fp
  w : Fp
  th : Fp

/-- One advance of the observer of context `k` on scaled inputs `y`, `ts` seconds after the last. -/
def State.observe (s : State) (k : Nat) (c : LoopCtx) (y : List Fp) (ts : Fp) : ObsResult :=
  let b (i : Nat) := s.coef k c.bank (184 + i)
  let y0 := fpGet y 0
  let y1 := fpGet y 1
  let y2 := fpGet y 2
  let th := s.lst k 28
  let w := s.lst k 29
  let tiny := fpOf 0x358637BD
  let co := fpCos th
  let si := fpSin th
  let mode := s.obsMode k
  let r : Fp × Fp × List (Nat × Fp) :=
    if mode = 1 then
      let ia := y0
      let ib := fpMul (fpAdd y0 (fpMul (fpInt 2) y1)) (fpOf 0x3F13CD3B)
      let iah := s.lst k 30
      let ibh := s.lst k 31
      let ra := fpSub ia iah
      let rb := fpSub ib ibh
      let stepOf (v i e r : Fp) : Fp :=
        fpAdd (fpMul (fpMul ts (b 4)) (fpSub (fpSub v (fpMul (b 3) i)) e)) (fpMul (b 2) r)
      let iah' := fpAdd iah (stepOf (fpMul (fpOf c.volA) y2) iah (s.lst k 32) ra)
      let ibh' := fpAdd ibh (stepOf (fpMul (fpOf c.volB) y2) ibh (s.lst k 33) rb)
      let ea := fpMul (fpNeg (b 7)) ra
      let eb := fpMul (fpNeg (b 7)) rb
      let err := fpDiv (fpSub (fpMul (fpNeg ea) co) (fpMul eb si)) (fpMaxOf (fpMag ea eb) tiny)
      (err, fpOf 0, [(30, iah'), (31, ibh'), (32, ea), (33, eb)])
    else if mode = 2 then (fpSub (fpMul y0 co) (fpMul y1 si), fpMag y0 y1, [])
    else
      let al := fpDiv (fpSub (fpSub (fpMul (fpInt 2) y0) y1) y2) (fpInt 3)
      let be := fpMul (fpSub y1 y2) (fpOf 0x3F13CD3B)
      let vd := fpAdd (fpMul al co) (fpMul be si)
      (fpDiv (fpAdd (fpMul (fpNeg al) si) (fpMul be co)) (fpMaxOf (fpAbs vd) tiny), fpOf 0, [])
  let w' := fpAdd w (fpMul (b 1) r.1)
  let th' := fpFrac (fpAdd th (fpMul (fpAdd w' (fpMul (b 0) r.1)) ts))
  let mains : List (Nat × Fp) :=
    if mode = 3 then
      let rc := s.lst k 35
      [(34, w'), (35, fpAdd rc (fpMul (b 7) (fpSub (fpDiv (fpSub w' (s.lst k 34)) ts) rc)))]
    else []
  { words := (28, th') :: (29, w') :: r.2.2 ++ mains, err := r.1, amp := r.2.1, w := w', th := th' }

/-- The condition of the flag, and its immediate loss (R151). -/
def State.obsCond (s : State) (k : Nat) (c : LoopCtx) (o : ObsResult) : Bool × Bool :=
  let small := fpLe (fpAbs o.err) (s.coef k c.bank 189)
  let vmin := s.coef k c.bank 190
  match s.obsMode k with
  | 1 => (small && fpLe vmin (fpAbs o.w), fpLt (fpAbs o.w) (fpDiv vmin (fpInt 2)))
  | 2 => (small && fpLe (fpOf 0x3F4CCCCD) o.amp && fpLe o.amp (fpOf 0x3F99999A),
      fpLt o.amp (fpOf 0x3F000000) || fpLt (fpOf 0x3FC00000) o.amp)
  | _ => (small, false)

end Sys2Proof.Machine
end

