-- ==== Sys2Proof/Machine/Loops.lean ====
section
/-! DEFINITION. The loop engines' events (spec/06): starts, issue, prediction, confirmation, recompute and settle, faults,
coefficient banks, enable, abort and rebuild. -/

namespace Sys2Proof.Machine

/-- The low word of the device timer. -/
def State.tick32 (s : State) : Word := lowWord s.devTimer

/-- Is input `i` of the context a result channel (R154)? -/
def State.isChannelIn (s : State) (k i : Nat) : Bool := decide (fieldOf (s.loopIn k i) 30 29 = 0)

/-- Inputs of the context (R153). -/
def State.inputs (s : State) (k : Nat) : List Nat := List.range (s.loopNin k)

/-- Is input `i` one whose sample an update awaits: a predicted channel input, and no start of kind 3, whose update
cannot be predicted (R134)? -/
def State.awaited (s : State) (k i : Nat) : Bool :=
  bitAt (s.loopIn k i) 31 && s.isChannelIn k i && decide (s.fld (Reg.LOOP_START k) 30 29 ≠ 3)
def State.awaitedInputs (s : State) (k : Nat) : List Nat := (s.inputs k).filter (s.awaited k)

/-- The channel of input `i`, and its registers. -/
def State.inNumber (s : State) (k i : Nat) : Nat := fieldOf (s.loopIn k i) 8 0
def State.chValue (s : State) (n : Nat) : Word := s.reg (Reg.CH_VALUE (n / 64) (n % 64))
def State.chTime (s : State) (n : Nat) : Word := s.reg (Reg.CH_TIME (n / 64) (n % 64))

/-- A channel's code as the engine takes it: signed for a sigma-delta word (R125, R135). -/
def codeOf (w : Word) : Word := (fpInt (if bitAt w 26 then signedOf 16 w.toNat else (fieldOf w 15 0 : Int))).v

/-- The raw value of input `i`: code, phase in turns, Q16.16 velocity, or confirmed output (R134, R135). -/
def State.rawIn (s : State) (k i : Nat) : Word :=
  let n := s.inNumber k i
  match fieldOf (s.loopIn k i) 30 29 with
  | 0 => codeOf (s.chValue n)
  | 1 => (fpTurns (lowWord (s.spn n).pos).toNat).v
  | 2 => (fpInt (s.reg (Reg.SPN_VEL n)).toInt).v
  | _ => s.reg (Reg.LOOP_OUTV n (fieldOf (s.loopIn k i) 17 16))

/-- A spindle state that faults an update that reads the spindle (R148). -/
def State.spnBad (s : State) (n : Nat) : Bool :=
  !decide (s.spnState n = spnLocked ∨ s.spnState n = spnStopped)

/-- A context whose output cannot be used: TRIPPED or PARTED (R148). -/
def State.ctxBad (s : State) (n : Nat) : Bool := decide (s.loopState n = 3 ∨ s.loopState n = 4)

/-- Stale and out-of-range faults of input `i`, as bits of LOOP_STATUS (R148). -/
def State.inFault (s : State) (k i : Nat) : Word :=
  let n := s.inNumber k i
  match fieldOf (s.loopIn k i) 30 29 with
  | 0 =>
    let v := s.chValue n
    (if !bitAt v 31 || bitAt v 30 then oneBit 3 else 0) ||| (if bitAt v 29 then oneBit 2 else 0)
  | 3 => if s.ctxBad n then oneBit 3 else 0
  | _ => if s.spnBad n then oneBit 3 else 0

/-- The faults that stage 3 finds without the predicted inputs: the other inputs, the angle spindle, the reference
source (R133, R148). -/
def State.issueFault (s : State) (k : Nat) : Word :=
  let ins := ((s.inputs k).filter fun i => !s.awaited k i).foldl (fun w i => w ||| s.inFault k i) 0
  let ang := if s.bit (Reg.LOOP_ANGLE k) 31 && s.spnBad (s.fld (Reg.LOOP_ANGLE k) 7 0) then oneBit 3 else 0
  let ref := if s.bit (Reg.LOOP_REF_SRC k) 31 && s.ctxBad (s.fld (Reg.LOOP_REF_SRC k) 8 0) then oneBit 3 else 0
  ins ||| ang ||| ref

/-! ### Commit (R142, R144) -/

/-- Whether the edge that a new duty of pair `p` would move comes before c + 6, and whether it has passed: the first
edge at or after the hold, under the compare active now (R144). -/
def State.horizon (s : State) (p : Nat) (h : Word) : Bool × Bool :=
  let g := p / 4
  let per := s.per32 g
  let c := s.activeCompare p .a
  let since : Int := (s.tick32 - h).toInt
  let slots := slotPositions (s.centred g) per c
  let at1 (x : Nat) : Int := ((x : Int) - s.pairPos p + 32 * since) % (per : Int) / 32 - since
  if !s.carrierRuns g || decide (per = 0 ∨ per ≤ c ∨ (c = 0 ∧ s.centred g = true)) then (false, false)
  else
    let e := if s.centred g then min (at1 slots.1) (at1 slots.2) else at1 slots.1
    (decide (e < 6), decide (e ≤ 0))

/-- Would the edge of duty `c` itself, in effect at c + 4, be too late: less than two cycles ahead of the count then, or
behind it? R168 keeps loop values from the missed slots: such a value is held back too (log entry 29). -/
def State.newTooLate (s : State) (p c : Nat) : Bool :=
  let g := p / 4
  let per := s.per32 g
  let x := s.pairPos p
  let wraps : Bool := decide ((per : Int) ≤ x + 128)
  let pos := if wraps then x + 128 - per else x + 128
  let second := s.centred g && secondHalf per pos
  s.carrierRuns g &&
    (if wraps || (second && !secondHalf per x) then
      (slotsOf (s.centred g) second per c).any fun q => (s.centred g || !q.1) && decide (q.2 - pos < 64)
    else decide (s.lateSlots p .a c pos second ≠ []))

/-- Does a duty of pair `p` miss the horizon (R144, R168)? -/
def State.missesHorizon (s : State) (p : Nat) (h : Word) (c : Nat) : Bool := (s.horizon p h).1 || s.newTooLate p c

/-- One port takes its value; a duty too late for the edge ahead waits for it (R138, R144). -/
def commitPort (h : Word) (d : Nat × Nat) (s : State) : State :=
  let p := d.1 / 4
  if d.1 % 4 = 3 then loopShift p d.2 s
  else if ((s.horizon p h).1 && !(s.horizon p h).2) || s.newTooLate p d.2 then
    s.setPair p { s.pair p with late := some d.2 }
  else loopDuty p .a d.2 s

/-- Outputs and duties are handed over: LOOP_OUTV, the ports, missed_horizon once (R142, R144). -/
def commitDuties (k : Nat) (h : Word) (us : List Word) (ds : List (Nat × Nat)) (s : State) : State :=
  let missed : Bool := ds.any fun d => decide (d.1 % 4 = 1) && s.missesHorizon (d.1 / 4) h d.2
  let s1 := forEach (List.range us.length) (fun o s => s.setReg (Reg.LOOP_OUTV k o) (us.getD o 0)) s
  let s2 := ds.foldl (fun s d => commitPort h d s) s1
  if missed then loopEvent k (oneBit 7) (rcUp (Reg.LOOP_MISSED_HORIZON k) 1 0xFFFFFFFF s2) else s2

/-- No prediction is pending any more (R143, R157). -/
def clearPending (k : Nat) (s : State) : State :=
  let s1 := s.setCtx k { s.ctx k with pend := none, predicted := false }
  forEach (List.range 4) (fun m s => s.setReg (Reg.LOOP_PENDING_DUTY k m) 0) (s1.setBit (Reg.LOOP_STATUS k) 28 false)

/-! ### Faults (R148) -/

/-- The pairs whose ports a map drives, among the 96 (R156): pair, and whether the port is the shift. -/
def mapPorts (w : Word) : List (Nat × Bool) :=
  if !bitAt w 31 then []
  else (match mapMod w with
    | 0 => [(mapPair w, false)]
    | 1 => [(mapPair w, false), (mapPair w + 1, false), (mapPair w + 2, false)]
    | 2 => [(mapPair w, true)]
    | _ => []).filter fun x => decide (x.1 < 96)

/-- The ports that the context's enabled maps drive. -/
def State.ports (s : State) (k : Nat) : List (Nat × Bool) := (List.range 4).flatMap fun o => mapPorts (s.loopMap k o)

/-- A software trip to every group that holds a pair mapped by the context. -/
def tripMapped (k : Nat) (s : State) : State := forEach ((s.ports k).map fun x => x.1 / 4).dedup softTripGroup s

/-- Fallback outputs of the bank latched at issue, treated as confirmed. -/
def fallback (k : Nat) (s : State) : State :=
  let c := s.ctx k
  let us := (List.range (s.loopNout k)).map fun o => s.coef k c.bank (24 + o)
  let th := s.modAngle k c c.fetched
  let v := voltage us th
  let s1 := commitDuties k s.tick32 (us.map (·.v)) (s.modulate k th us) s
  if s.threePhaseMap k then s1.setCtx k { s1.ctx k with volA := v.1.v, volB := v.2.v } else s1

/-- fault_action (R153). -/
def faultAction (k act : Nat) (s : State) : State :=
  match act with
  | 1 => fallback k s
  | 2 => if s.ports k = [] then s else loopEvent k (oneBit 6) (tripMapped k s)
  | _ => s

def State.faultActionOf (s : State) (k : Nat) : Nat := fieldOf (s.loopCtl k) 25 24

/-- Count the faults of one update in LOOP_FAULTS: range_in, stale_in, no_sample (R152). -/
def countFaults (k : Nat) (bits : Word) (s : State) : State :=
  let a := Reg.LOOP_FAULTS k
  let s1 := if bitAt bits 2 then rcUpFld a 31 24 1 s else s
  let s2 := if bitAt bits 3 then rcUpFld a 23 16 1 s1 else s1
  if bitAt bits 4 then rcUpFld a 15 8 1 s2 else s2

/-- An update is faulted with the events `bits`; it advances no state. `act` is the action (R148). -/
def updateFault (k : Nat) (bits : Word) (act : Nat) (s : State) : State :=
  let s1 := loopEvent k bits (countFaults k bits (clearPending k s))
  let c := s1.ctx k
  let run := c.faultRun + 1
  let limit := s.fld (Reg.LOOP_GUARD k) 31 24
  let s2 := s1.setCtx k { c with stage := .idle, faultRun := run, prevStart := c.start }
  if limit ≠ 0 ∧ limit ≤ run then
    let s3 := loopEvent k (oneBit 6) (tripMapped k s2)
    setLoopState k 3 (s3.setCtx k { s3.ctx k with queued := [], sawDisable := false })
  else faultAction k act (setLoopState k 2 s2)

/-! ### Misused loops (R40, R131, R138 to R140, R147, R152 to R158) -/

def State.loopOn (s : State) (k : Nat) : Bool := s.sectorOn (k / 64)

/-- What u's context holds, but for what the model itself keeps of re-placement and misuse. -/
def LoopCtx.spoil (c u : LoopCtx) : LoopCtx :=
  { u with
    stage := if c.stage = .arriving ∨ c.stage = .leaving then c.stage else u.stage
    spoiled := c.spoiled, bankBad := c.bankBad, sawDisable := c.sawDisable, issuedAt := c.issuedAt }

/-- The state that a misused loop shows: any of running, faulted, tripped, rebuilding. -/
def spoiltState (was free : Nat) : Nat := if free = 1 ∨ free = 2 ∨ free = 3 ∨ free = 5 then free else was

/-- A port of a misused loop receives an open value (R40). -/
def spoilPort (x : Nat × Bool) (s : State) : State :=
  let f := takeFree 24 s
  if x.2 then loopShift x.1 f.1.toNat f.2 else loopDuty x.1 .a f.1.toNat f.2

/-- What a misused loop may send: a trip to the groups of its pairs, an update to the spindles that name it (R148, R150). -/
def spoilSent (k : Nat) (s : State) : State :=
  let f := takeFree 2 s
  let p := takeFree 32 f.2
  let v := takeFree 32 p.2
  let a := takeFree 32 v.2
  let s1 := if f.1.getLsbD 0 then tripMapped k a.2 else a.2
  if s1.bit (Reg.LOOP_OBS_CTL k) 31 then observerUpdateEff k p.1 v.1 (f.1.getLsbD 1) a.1 s1 else s1

/-- Undefined results for loop `k` (R40): its results, its stage and its events are open, and so are its duties; no state
of another owner changes but what the loop's ports reach. -/
def spoilLoop (k : Nat) (s0 : State) : State :=
  let u := (takeState s0).1
  let s1 := spoilRegs (keysIn (Reg.LOOP_CTL k) (Reg.LOOP_CTL k + 0x800)) u (takeState s0).2
  let s2 := setLoopState k (spoiltState (s0.loopState k) (u.loopState k)) s1
  let s3 := forEach (List.range 36) (fun w s => s.setReg (Reg.LOOP_STATE k w) (u.reg (Reg.LOOP_STATE k w))) s2
  let s4 := s3.setBit (Reg.LOOP_OBS_CTL k) 27 (u.bit (Reg.LOOP_OBS_CTL k) 27)
  let s5 := s4.setCtx k ((s0.ctx k).spoil (u.ctx k))
  spoilSent k ((s0.ports k).foldl (fun s x => spoilPort x s) s5)

/-- The enabled contexts, as the registers list them. -/
def State.enabledLoops (s : State) : List Nat :=
  (s.regs.filter fun x => keysIn 0x400000 0x4C0000 x.1 && decide (x.1 % 0x800 = 0) && bitAt x.2 31).map
    fun x => (x.1 - 0x400000) / 0x800

/-- In each cycle the misused loops do what nobody knows. -/
def loopsTick (s : State) : State :=
  forEach (s.enabledLoops.filter fun k => s.loopOn k && s.loopMisused k) spoilLoop s

/-- An event of context `k`: nothing while its sector is off, anything while it is misused. -/
def onLoop (k : Nat) (f : State → State) (s : State) : State :=
  if !s.loopOn k then s else if s.loopMisused k then spoilLoop k s else f s

/-! ### Starts and issue (R132, R134) -/

/-- Does the context take starts: enabled, running, faulted or rebuilding, LOOP_START enabled (R131, R148, R155)? In a
re-placement the new context takes them from the quiet point on (R200). -/
def State.takesStarts (s : State) (k : Nat) : Bool :=
  s.bit (Reg.LOOP_START k) 31 && (decide ((s.ctx k).stage = .arriving) ||
    (s.loopEnabled k && decide (s.loopState k = 1 ∨ s.loopState k = 2 ∨ s.loopState k = 5) &&
      decide ((s.ctx k).stage ≠ .leaving)))

/-- The cycles that an event of sector `a` takes to reach sector `b` (R16, R134). -/
def hop (a b : Nat) : Nat := if a = b then 0 else 4

/-- Has the start source that LOOP_START names had its event: a trigger that its ADC has started or queued, a compare event
line, a period event, a sample on input 0 (R134)? -/
def State.startCame (s : State) (k : Nat) : Bool :=
  let w := s.reg (Reg.LOOP_START k)
  let n := fieldOf w 9 0
  match fieldOf w 30 29 with
  | 0 => s.pulsed (adcPulse n (fieldOf w 25 20)) (hop (n / 4) (k / 64))
  | 1 => s.pulsed (linePulse n) 1
  | 2 => s.pulsed (periodPulse n) 1
  | _ =>
    let c := s.inNumber k 0
    s.isChannelIn k 0 && decide (s.chValue c ≠ resetOf (Reg.CH_VALUE (c / 64) (c % 64))) &&
      decide (s.now ≤ (s.chan c).lastAt + hop (c / 64) (k / 64))

/-- An overrun (R132, R148). -/
def loopOverrun (k : Nat) (s : State) : State := loopEvent k (oneBit 5) (rcUpFld (Reg.LOOP_FAULTS k) 7 0 1 s)


/-- Append one sample to an input's history, 32 at most (R149). -/
def histPush (h : List (List (Word × Word))) (i : Nat) (x : Word × Word) : List (List (Word × Word)) :=
  h.zipIdx.map fun r => if r.2 = i then (x :: r.1).take 32 else r.1

/-- Has every awaited input a sample before this update, so that it can be predicted (R141)? -/
def State.hasHistory (s : State) (k : Nat) : Bool :=
  (s.awaitedInputs k).all fun i => decide ((s.ctx k).hist.getD i [] ≠ [])

/-- The awaited inputs whose last sample came after an update that was faulted before it: it joins their histories, which
hold the last samples of each input (R141, R149; log entry 29). -/
def joinMissed (k : Nat) (s : State) : State :=
  let c := s.ctx k
  let late (i : Nat) : Bool :=
    let n := s.inNumber k i
    decide (c.startAt ≤ (s.chan n).lastAt) && decide (((c.hist.getD i []).head?.map (·.1)) ≠ some (s.chTime n))
  if c.faultRun = 0 then s
  else s.setCtx k { c with
    hist := ((s.awaitedInputs k).filter late).foldl (fun h i => histPush h i (s.chTime (s.inNumber k i), s.rawIn k i)) c.hist }

/-- The time that the sample of input `i` carries: its hold, or the fetch of an input that is no channel (R134, R149). -/
def State.inTime (s : State) (k i : Nat) : Word := if s.isChannelIn k i then s.chTime (s.inNumber k i) else s.tick32

/-- The samples of inputs `is` are latched and join the history (R134, R149). -/
def takeSamples (k : Nat) (is : List Nat) (s : State) : State :=
  let c := s.ctx k
  s.setCtx k { c with
    raw := (s.inputs k).map fun i => if is.contains i then s.rawIn k i else c.raw.getD i 0
    hist := is.foldl (fun h i => histPush h i (s.inTime k i, s.rawIn k i)) c.hist
    time0 := if is.contains 0 then s.inTime k 0 else c.time0 }

/-- Stage 1: the bank requested takes effect, everything that is not predicted is latched (R133, R134, R140). -/
def latchUpdate (k : Nat) (start : Word × Nat) (s0 : State) : State :=
  let s := joinMissed k s0
  let c := s.ctx k
  let bank := c.bankWanted.getD (s.bit (Reg.LOOP_BANK k) 8)
  let rs := s.reg (Reg.LOOP_REF_SRC k)
  let src := s.reg (Reg.LOOP_OUTV (fieldOf rs 8 0) (fieldOf rs 17 16))
  let ref (a : Nat) : Word := if bitAt rs 31 && decide (fieldOf rs 30 30 = a) then src else s.reg (Reg.LOOP_REF k a)
  let n := s.fld (Reg.LOOP_ANGLE k) 7 0
  let angled := s.bit (Reg.LOOP_ANGLE k) 31
  let needs := !angled && (decide (s.loopTransform k ≠ 0) || s.threePhaseMap k)
  let f := takeFree 32 s
  let s1 := if needs then f.2 else s
  let pred := decide (s.loopPredictor k ≠ 0) && decide (s.awaitedInputs k ≠ []) && s.hasHistory k &&
    decide (s.loopType k ≠ 4)
  let s2 := s1.setCtx k { c with
    stage := .waiting, queued := c.queued.drop 1, issuedAt := s.now + 1, start := start.1, startAt := start.2, bank := bank, bankWanted := none
    ref0 := ref 0, ref1 := ref 1, raw := (s.inputs k).map (s.rawIn k), fetched := s.tick32, time0 := s.inTime k 0
    angPhase := if angled then lowWord (s.spn n).pos else if needs then f.1 else 0
    angVel := if angled then (s.reg (Reg.SPN_VEL n)).toInt else 0
    predicted := pred, pend := none }
  let s3 := takeSamples k ((s.inputs k).filter fun i => !s.awaited k i) s2
  countWrap (Reg.LOOP_UPDATES k) 1 (s3.setBit (Reg.LOOP_BANK k) 8 bank)

/-- A CORE context posts y[0]; a sample that no core has taken is replaced, which counts as an overrun (R147). -/
def postSample (k : Nat) (s : State) : State :=
  let c := s.ctx k
  let lost : Bool := decide (c.stage = .posted ∧ c.taken = [])
  let s1 := s.setCtx k { c with
    stage := .posted, post := (s.scaleIn k c.bank 0 (c.raw.getD 0 0)).v, taken := [] }
  if lost then loopOverrun k s1 else s1

/-- A start fires: it is queued, or dropped as an overrun where the update in flight and one start, or two starts before
the first issues, hold both places (R132). A sample that arrives for a CORE context started by arrival replaces one that
no core has taken (R147). -/
def loopStartEff (k : Nat) (s : State) : State :=
  let c := s.ctx k
  if !(s.takesStarts k && s.startCame k) then s
  else if s.loopType k = 4 ∧ s.fld (Reg.LOOP_START k) 30 29 = 3 ∧ c.stage = .posted ∧ c.taken = [] then
    postSample k (takeSamples k (s.inputs k) s)
  else if (if c.stage = .idle then 2 else 1) ≤ c.queued.length then loopOverrun k s
  else s.setCtx k { c with queued := c.queued ++ [(s.tick32, s.now)] }

def execLoopStartEvent (ctx : Fin 384) (s : State) : Out := .next (onLoop ctx (loopStartEff ctx) s)

/-- The inputs are all true samples: the update is posted to a core, or enters the recompute lane, counted as recomputed
with a predictor; a lane already busy in the engine counts a wait (R133, R142, R146, R147). -/
def enterLane (k : Nat) (s0 : State) : State :=
  if s0.loopType k = 4 then postSample k s0
  else
    let s := if s0.loopPredictor k = 0 then s0 else rcUp (Reg.LOOP_SPEC_RECOMPUTE k) 1 0xFFFFFFFF s0
    let e := k / 8
    let busy := (List.range 8).any fun j => decide (8 * e + j ≠ k ∧ (s.ctx (8 * e + j)).stage = .lane)
    let s1 := s.setCtx k { s.ctx k with stage := .lane }
    if busy then rcUpFld (Reg.LE_WAITS e) 15 0 1 s1 else s1

/-- The start with which the context would issue: nothing is in flight, and 64 cycles have passed since its last issue
(R132). -/
def State.readyStart (s : State) (k : Nat) : Option (Word × Nat) :=
  let c := s.ctx k
  if c.stage = .idle ∧ s.takesStarts k = true ∧ s.loopOn k = true ∧ (c.issuedAt = 0 ∨ c.issuedAt + 64 ≤ s.now + 1) then
    c.queued.head?
  else none

/-- Is the engine's issue slot the context's: 8 cycles after the engine's last issue, and no ready context of the engine
with an earlier start, or with as early a start and a lower number (R132)? -/
def State.slotFor (s : State) (k : Nat) (start : Word × Nat) : Bool :=
  (List.range 8).all fun j =>
    let m := 8 * (k / 8) + j
    (decide ((s.ctx m).issuedAt = 0) || decide ((s.ctx m).issuedAt + 8 ≤ s.now + 1)) &&
      (match s.readyStart m with
      | none => true
      | some x => decide (start.2 < x.2) || (decide (start.2 = x.2) && decide (k ≤ m)))

/-- The context issues its update with `start`: stage 1 latches, stage 3 may fault, an update that awaits nothing goes
on. -/
def issueWith (k : Nat) (start : Word × Nat) (s : State) : State :=
  let s1 := latchUpdate k start s
  let bad := s1.issueFault k
  if bad ≠ 0 then updateFault k bad (s.faultActionOf k) s1
  else if s1.awaitedInputs k = [] then enterLane k s1
  else s1

/-- LOOP_ISSUE: a ready context takes its engine's slot. -/
def loopIssueEff (k : Nat) (s : State) : State :=
  match s.readyStart k with
  | none => s
  | some start => if s.slotFor k start then issueWith k start s else s

def execLoopIssue (ctx : Fin 384) (s : State) : Out := .next (onLoop ctx (loopIssueEff ctx) s)

/-! ### Runs (R136 to R142) -/

/-- The hold time of input 0's sample; the fetch where input 0 is no channel. -/
def State.hold0 (s : State) (k : Nat) : Word := (s.ctx k).time0

/-- Scaled true inputs of the update in flight (stage 2). -/
def State.scaled (s : State) (k : Nat) : List Fp :=
  (s.inputs k).map fun i => s.scaleIn k (s.ctx k).bank i ((s.ctx k).raw.getD i 0)

/-- The expected hold: start + (t1 - start of the previous update) (R141). -/
def State.expectedHold (s : State) (k i : Nat) : Word :=
  let c := s.ctx k
  match c.hist.getD i [] with
  | (t1, _) :: _ => c.start + (t1 - c.prevStart)
  | [] => c.start

/-- The predicted value of input `i` (R141). -/
def State.predict (s : State) (k i : Nat) : Fp :=
  let c := s.ctx k
  let sc (r : Word) := s.scaleIn k c.bank i r
  let tp := s.expectedHold k i
  match s.loopPredictor k, c.hist.getD i [] with
  | 2, (t1, r1) :: (t2, r2) :: _ =>
    fpAdd (sc r1) (fpDiv (fpMul (fpSub (sc r1) (sc r2)) (fpInt (tp - t1).toInt)) (fpInt (t1 - t2).toInt))
  | 3, (t1, r1) :: _ =>
    fpAdd (sc r1) (fpMul (fpInt (tp - t1).toInt)
      (fpSub (fpMul (s.coef k c.bank 30) (s.lst k 24)) (fpMul (s.coef k c.bank 31) (sc r1))))
  | _, (_, r1) :: _ => sc r1
  | _, [] => fpOf 0

/-- What a run yields: outputs, duties, new state, the voltage vector, the inputs the law used, and arith. -/
structure RunResult where
  us : List Word
  duties : List (Nat × Nat)
  next : List (Nat × Word)
  vol : Word × Word
  y : List Fp
  bad : Bool

/-- Stages 4 to 7 on scaled inputs `y` held at `h`. -/
def State.run (s : State) (k : Nat) (y : List Fp) (h : Word) : RunResult :=
  let c := s.ctx k
  let y4 := frameTransform (s.loopTransform k) (fpMul (s.loopMult k) (loopPhase c h)) y
  let r := s.law k c.bank [c.ref0, c.ref1] y4
  let th := s.modAngle k c h
  let v := voltage r.us th
  { us := r.us.map (·.v), duties := s.modulate k th r.us
    next := r.next.map (fun x => (x.1, x.2.v)) ++ (y4.take 4).zipIdx.map (fun x => (4 + x.2, x.1.v)) ++
      r.us.zipIdx.map fun x => (24 + x.2, x.1.v)
    vol := (v.1.v, v.2.v), y := y4
    bad := r.us.any (·.bad) || r.next.any (·.2.bad) || y4.any (·.bad) ||
      (s.modProducts k th r.us).any (·.2.bad) }

/-- A predicted run is done: its duty waits in stage 8 (R133, R141, R143). -/
def predictedRunEff (k : Nat) (s : State) : State :=
  let c := s.ctx k
  if c.stage = .waiting ∧ c.predicted = true ∧ c.pend = none then
    let y := (s.inputs k).map fun i =>
      if s.awaited k i then s.predict k i else s.scaleIn k c.bank i (c.raw.getD i 0)
    let h := if s.awaited k 0 then s.expectedHold k 0 else s.hold0 k
    let r := s.run k y h
    let s1 := s.setCtx k { c with
      predY := y.map (·.v), pend := some (r.us, r.duties), predBad := r.bad, predVol := r.vol }
    let s2 := s1.setBit (Reg.LOOP_STATUS k) 28 true
    ((r.duties.take 4).zipIdx).foldl
      (fun s d => s.setReg (Reg.LOOP_PENDING_DUTY k d.2) (toWord (0x80000000 + d.1.2 % 2 ^ 24))) s2
  else s

def execPredictedRunDone (ctx : Fin 384) (s : State) : Out := .next (onLoop ctx (predictedRunEff ctx) s)

/-- Is every predicted input within tol of its prediction (R142)? -/
def State.confirms (s : State) (k : Nat) : Bool :=
  let c := s.ctx k
  (s.awaitedInputs k).all fun i =>
    fpLe (fpAbs (fpSub (s.scaleIn k c.bank i (c.raw.getD i 0)) (fpOf (c.predY.getD i 0))))
      (s.coef k c.bank (8 + i))

/-- Another confirmation of the same engine in this cycle makes this one wait (R146). -/
def countConfirmWait (k : Nat) (s : State) : State :=
  let e := k / 8
  let others := (List.range 8).any fun j => decide (8 * e + j ≠ k ∧ (s.ctx (8 * e + j)).confirmAt = s.now + 1)
  let s1 := s.setCtx k { s.ctx k with confirmAt := s.now + 1 }
  if others then rcUpFld (Reg.LE_WAITS e) 31 16 1 s1 else s1

/-- Has every awaited input arrived since the start; in a CORE context that has posted, anew since then (R142, R147)? -/
def State.arrived (s : State) (k : Nat) : Bool :=
  let c := s.ctx k
  (s.awaitedInputs k).all fun i =>
    let n := s.inNumber k i
    decide (c.startAt ≤ (s.chan n).lastAt) &&
      (decide (c.stage ≠ .posted) || decide (((c.hist.getD i []).head?.map (·.1)) ≠ some (s.chTime n)))

/-- The last predicted input has arrived: its flags may fault the update; the prediction is confirmed and handed
over, or discarded for the recompute lane (R142, R146, R148). -/
def sampleConfirmEff (k : Nat) (s : State) : State :=
  let c := s.ctx k
  if (c.stage = .waiting ∨ c.stage = .posted) ∧ s.awaitedInputs k ≠ [] ∧ s.arrived k = true then
    let bad := (s.awaitedInputs k).foldl (fun w i => w ||| s.inFault k i) 0
    let s1 := takeSamples k (s.awaitedInputs k) s
    if bad ≠ 0 then updateFault k bad (s.faultActionOf k) s1
    else
      if c.stage = .posted then postSample k s1
      else match c.predicted, c.pend with
        | true, some (us, ds) =>
          let s2 := countConfirmWait k s1
          if s2.confirms k then
            let s3 := commitDuties k (s2.hold0 k) us ds (clearPending k s2)
            let s4 := s3.setCtx k { s3.ctx k with stage := .settling, volA := c.predVol.1, volB := c.predVol.2 }
            let s5 := loopEvent k (if c.predBad then oneBit 0 ||| oneBit 9 else oneBit 0) s4
            rcUp (Reg.LOOP_SPEC_CONFIRM k) 1 0xFFFFFFFF s5
          else enterLane k (clearPending k s2)
        | _, _ => enterLane k (clearPending k s1)
  else s

def execSampleConfirm (ctx : Fin 384) (s : State) : Out := .next (onLoop ctx (sampleConfirmEff ctx) s)

/-! ### State, observer, end of an update (R142, R149 to R151) -/

/-- Write settled state words. -/
def writeState (k : Nat) (ws : List (Nat × Word)) (s : State) : State :=
  ws.foldl (fun s w => s.setReg (Reg.LOOP_STATE k w.1) w.2) s

/-- The new converged or lock flag, with its counts (R151). -/
def nextFlag (count : Nat) (was cond lost : Bool) (met failed : Nat) : Bool × Nat × Nat :=
  let m := if cond then met + 1 else 0
  let f := if cond then 0 else failed + 1
  if lost then (false, 0, f)
  else if was then (!decide (count ≤ f), m, f)
  else (decide (count ≤ m), m, f)

/-- The observer advances on the scaled true inputs and, with out_en, sends its update to the spindle (R150, R151).
Ts is open while input 0 has one sample only. -/
def observeEff (k : Nat) (send : Bool) (s : State) : State :=
  if s.obsMode k = 0 then s
  else
    let c := s.ctx k
    let f := takeFree 32 s
    let ts : Fp × State :=
      match c.hist.getD 0 [] with
      | (t1, _) :: (t2, _) :: _ => (fpDiv (fpInt (t1 - t2).toInt) (fpInt 1500000000), s)
      | _ => (fpOf f.1, f.2)
    let o := s.observe k c (s.scaled k) ts.1
    let cond := s.obsCond k c o
    let a := Reg.LOOP_OBS_CTL k
    let was := s.bit a 27
    let n := nextFlag (s.fld a 23 16) was cond.1 cond.2 c.met c.failed
    let s1 := writeState k (o.words.map fun x => (x.1, x.2.v)) ts.2
    let s2 := (s1.setBit a 27 n.1).setCtx k { s1.ctx k with met := n.2.1, failed := n.2.2 }
    let bits := (if n.1 = was then 0 else oneBit 1) ||| (if o.words.any (·.2.bad) then oneBit 9 else 0)
    let s3 := loopEvent k bits s2
    if send && s.bit a 31 then
      let mains := s.obsMode k = 3
      let pu := intWord (fpToInt (if mains then fpFrac (fpAdd o.th (fpOf 0x3E800000)) else o.th) 32 false)
      let age := s3.tick32 - s3.hold0 k
      let s4 := s3.setReg (Reg.LOOP_OBS_PHASE k) pu
      if mains then
        let fr := intWord (fpToInt (s3.lst k 34) 16 false)
        let rc := intWord (fpToInt (s3.lst k 35) 16 false)
        let s5 := ((s4.setReg (Reg.LOOP_OBS_VEL k) (intWord (mainsVelocity fr))).setReg (Reg.LOOP_OBS_FREQ k) fr)
        mainsUpdateEff k pu fr rc n.1 age (s5.setReg (Reg.LOOP_OBS_ROCOF k) rc)
      else
        let vu := intWord (velocityUnits o.w)
        observerUpdateEff k pu vu n.1 age (s4.setReg (Reg.LOOP_OBS_VEL k) vu)
    else s3
where
  /-- omega * 2^32 / (1.5 * 10^9) in Q16.16, to the nearest, ties up (R150). -/
  velocityUnits (w : Fp) : Int := (2 * fpToInt w 80 false / 2 ^ 32 + 1500000000) / (2 * 1500000000)

/-- The update ends: the context is idle and running, and a queued start may issue. -/
def endUpdate (k : Nat) (s : State) : State :=
  let c := s.ctx k
  let s1 := s.setCtx k { c with stage := .idle, faultRun := 0, prevStart := c.start }
  if s.loopState k = 2 then setLoopState k 1 s1 else s1

/-- The recompute lane is done: duty and settled state (R142). -/
def recomputeDoneEff (k : Nat) (s : State) : State :=
  if (s.ctx k).stage = .lane then
    let r := s.run k (s.scaled k) (s.hold0 k)
    let s1 := commitDuties k (s.hold0 k) r.us r.duties s
    let s2 := observeEff k true s1
    let s3 := writeState k r.next s2
    let s4 := if s.threePhaseMap k then s3.setCtx k { s3.ctx k with volA := r.vol.1, volB := r.vol.2 } else s3
    endUpdate k (loopEvent k (if r.bad then oneBit 0 ||| oneBit 9 else oneBit 0) s4)
  else s

def execRecomputeDone (ctx : Fin 384) (s : State) : Out := .next (onLoop ctx (recomputeDoneEff ctx) s)

/-- One settle pass on the values latched in the context. -/
def settlePass (k : Nat) (send : Bool) (s : State) : State :=
  let r := s.run k (s.scaled k) (s.hold0 k)
  let s1 := writeState k r.next (observeEff k send s)
  loopEvent k (if r.bad then oneBit 0 ||| oneBit 9 else oneBit 0) s1

/-- Replay of the oldest of `n` kept samples of each input onward (R149). -/
def replay (k : Nat) (hist : List (List (Word × Word))) : Nat → State → State
  | 0, s => s
  | n + 1, s =>
    let c := s.ctx k
    let cut := hist.map fun h => h.drop n
    let raw := (List.range (s.loopNin k)).map fun i =>
      match cut.getD i [] with
      | (_, r) :: _ => r
      | [] => c.raw.getD i 0
    let time := match cut.getD 0 [] with
      | (t, _) :: _ => t
      | [] => c.time0
    replay k hist n (settlePass k false (s.setCtx k { c with raw := raw, hist := cut, time0 := time }))

/-- A settle pass is done: the state follows the true samples; in a rebuild the history is replayed and the context
runs again with rebuilt set (R142, R149). -/
def settleDoneEff (k : Nat) (s : State) : State :=
  let c := s.ctx k
  match c.stage with
  | .settling => endUpdate k (settlePass k true s)
  | .rebuilding =>
    let n := c.hist.foldl (fun m h => max m h.length) 0
    let s1 := replay k c.hist n s
    let s2 := s1.setCtx k { s1.ctx k with stage := .idle, hist := c.hist }
    loopEvent k (oneBit 8) (setLoopState k 1 s2)
  | _ => s

def execSettleDone (ctx : Fin 384) (s : State) : Out := .next (onLoop ctx (settleDoneEff ctx) s)

/-- No predicted input, or no LPUT, within sample_to cycles: the update is faulted as no_sample (R147, R148). -/
def sampleTimeoutEff (k : Nat) (s : State) : State :=
  let c := s.ctx k
  if (c.stage = .waiting ∨ c.stage = .posted) ∧ s.fld (Reg.LOOP_GUARD k) 23 0 ≠ 0 then
    updateFault k (oneBit 4) (s.faultActionOf k) s
  else s

def execSampleTimeout (ctx : Fin 384) (s : State) : Out := .next (onLoop ctx (sampleTimeoutEff ctx) s)

/-- A state word fails detection at fetch: the update is faulted with hold, the state zeroed, and the replay begins
(R149). -/
def stateRebuildEff (k : Nat) (s0 : State) : State :=
  let s := countDetect s0
  if s.loopEnabled k ∧ (s.loopState k = 1 ∨ s.loopState k = 2) then
    let s1 := updateFault k 0 0 s
    let s2 := forEach (List.range 36) (fun w s => s.setReg (Reg.LOOP_STATE k w) 0) s1
    if s1.loopState k = 3 then s2
    else setLoopState k 5 (s2.setCtx k { s2.ctx k with stage := .rebuilding })
  else s

def execStateRebuild (ctx : Fin 384) (s : State) : Out := .next (onLoop ctx (stateRebuildEff ctx) s)

/-- A bank word fails detection: the update is faulted with fault_action; the check goes to the owner (R149). -/
def bankFault (k : Nat) (s : State) : State :=
  if s.loopEnabled k ∧ (s.loopState k = 1 ∨ s.loopState k = 2) then updateFault k 0 (s.faultActionOf k) s else s

/-! ### Banks, enable, abort (R131, R140, R148, R149) -/

/-- A bank change request; 0b11 leaves the loop undefined; a toggle turns over the change still pending, if there is
one (R140; log entry 20). -/
def bankRequest (k v : Nat) (s : State) : State :=
  let c := s.ctx k
  let cur := c.bankWanted.getD (s.bit (Reg.LOOP_BANK k) 8)
  match v % 4 with
  | 0 => s.setCtx k { c with bankWanted := some false, bankBad := false }
  | 1 => s.setCtx k { c with bankWanted := some true, bankBad := false }
  | 2 => s.setCtx k { c with bankWanted := some !cur, bankBad := false }
  | _ => s.setCtx k { c with bankBad := true }

def execLoopBank (ctx : Fin 384) (value : Word) (s : State) : Out :=
  .next (if s.loopOn ctx then bankRequest ctx (fieldOf value 1 0) s else s)

/-- A COEFSWAP action; a context beyond the part's does nothing (R79, R140). -/
def execCoefswap (target data : Word) (s : State) : Out :=
  .next (if fieldOf target 8 0 < 384 ∧ s.loopOn (fieldOf target 8 0) = true then
    bankRequest (fieldOf target 8 0) (fieldOf data 1 0) s else s)

def loopCtlMask : Word := 0xFFEFFC00

/-- The context with an enabled map that names port `x`: the first, as the registers list them (R166). -/
def State.portOwner (s : State) (x : Nat × Bool) : Option Nat :=
  (s.regs.find? fun r => keysIn 0x400000 0x4C0000 r.1 && keysIn 0x20 0x30 (r.1 % 0x800) && (mapPorts r.2).contains x).map
    fun r => (r.1 - 0x400000) / 0x800

/-- The pair knows who owns port `x` (R166). -/
def setOwner (x : Nat × Bool) (s : State) : State :=
  let p := s.pair x.1
  s.setPair x.1 (if x.2 then { p with ownerShift := s.portOwner x } else { p with ownerA := s.portOwner x })

/-- Every pair knows who owns its ports. -/
def setOwners (s : State) : State := forEach (List.range 96) (fun p s => setOwner (p, true) (setOwner (p, false) s)) s

/-- LOOP_OUT_MAP[o] takes value `w`: the ports it names are owned; those it named are free unless another enabled map
names them (R166). -/
def outMapWrite (k o : Nat) (w : Word) (s : State) : State :=
  (mapPorts (s.loopMap k o) ++ mapPorts w).foldl (fun s x => setOwner x s) (s.setReg (Reg.LOOP_OUT_MAP k o) w)

/-- A write of LOOP_CTL: enable 1 after 0 starts the context without sample history, leaving TRIPPED and PARTED;
enable 0 stops it (R131, R148, R149). -/
def loopCtlWrite (k : Nat) (v0 : Word) (s : State) : State :=
  let v := s.keepEnable 0 k (Reg.LOOP_CTL k) v0
  let was := s.loopEnabled k
  let old := s.loopCtl k
  let w := v &&& loopCtlMask
  let s1 := s.setReg (Reg.LOOP_CTL k) w
  let c := s1.ctx k
  if bitAt v 31 then
    if was then
      if (old ^^^ w) &&& 0x7CFFFC00 ≠ 0 then s1.setCtx k { c with spoiled := true } else s1
    else if (s.loopState k = 3 ∨ s.loopState k = 4) ∧ c.sawDisable = false then s1
    else
      setLoopState k 1 (s1.setCtx k { c with
        stage := .idle, queued := [], hist := [[], [], [], []], faultRun := 0, spoiled := false
        taken := [], met := 0, failed := 0, sawDisable := false })
  else
    let s2 := clearPending k s1
    let s3 := s2.setCtx k { s2.ctx k with stage := .idle, queued := [], sawDisable := true }
    if s.loopState k = 3 ∨ s.loopState k = 4 then s3 else setLoopState k 0 s3

def execLoopEnable (ctx : Fin 384) (value : Word) (s : State) : Out :=
  .next (if s.loopOn ctx then loopCtlWrite ctx value s else s)

/-- Any other write to a context: undefined for the loop while it is enabled, but for the references, LOOP_REF_SRC
and the inactive bank; LOOP_STATE is read-only then (R131, R139, R140). -/
def loopConfigWrite (k a : Nat) (v : Word) (s : State) : State :=
  let s1 := s.setReg a v
  if s.loopEnabled k then s1.setCtx k { s1.ctx k with spoiled := true } else s1

def loopBankWordWrite (k : Nat) (b : Bool) (a : Nat) (v : Word) (s : State) : State :=
  if s.bit (Reg.LOOP_BANK k) 8 = b then (s.setReg a v).setCtx k { s.ctx k with spoiled := true } else s.setReg a v

/-- LOOP_STATE is read-only while the context is enabled; its words 36 to 63 read zero (R139). -/
def loopStateWrite (k a : Nat) (v : Word) (s : State) : State :=
  if s.loopEnabled k || decide (Reg.LOOP_STATE k 36 ≤ a) then s else s.setReg a v

/-- LOOP_OBS_CTL, whose converged bit is read-only (R158). -/
def obsCtlWrite (k : Nat) (v : Word) (s : State) : State :=
  let a := Reg.LOOP_OBS_CTL k
  loopConfigWrite k a (withBit v 27 (s.bit a 27)) s

/-- An abort parts the context: fault_action once for a running one, no more issues, its spindles coast (R149). -/
def partLoop (k : Nat) (s : State) : State :=
  let running : Bool := decide (s.loopState k = 1 ∨ s.loopState k = 2 ∨ s.loopState k = 5)
  let s1 := clearPending k s
  let s2 := if running then faultAction k (s.faultActionOf k) s1 else s1
  setLoopState k 4 (s2.setCtx k { s2.ctx k with stage := .idle, queued := [], sawDisable := false })

/-- LE_STATUS: the sector's island, and which contexts are enabled (R152). -/
def State.leStatus (s : State) (e : Nat) : Word :=
  let bits := (List.range 8).foldl (fun n j => n + boolNat (s.loopEnabled (8 * e + j)) * 2 ^ j) 0
  toWord (boolNat (s.loopOn (8 * e)) * 2 ^ 31 + bits)

/-! ### Core-closed loops (R147) -/

/-- Undefined use of LPOLL or LPUT: the context is not of type CORE or not enabled. -/
def State.coreLoop (s : State) (k : Nat) : Bool :=
  decide (k < 384) && s.loopOn k && s.loopEnabled k && decide (s.loopType k = 4)

/-- The sample that context `k` has posted and core `n` has not taken. -/
def State.postedFor (s : State) (k n : Nat) : Option Word :=
  let c := s.ctx k
  if c.stage = .posted ∧ ¬ n ∈ c.taken then some c.post else none

/-- Core `n` takes the posted sample. -/
def takePosted (k n : Nat) (s : State) : State := s.setCtx k { s.ctx k with taken := n :: (s.ctx k).taken }

/-- LPUT sends `u` as u[0] to stage 6; stages 6 to 8 and hand-over follow as for a recompute. -/
def lputEff (k : Nat) (u : Word) (s : State) : State :=
  let c := s.ctx k
  if s.loopMisused k then spoilLoop k s
  else if c.stage = .posted then
    let us := s.limitOut k c.bank 0 (fpOf u)
    let th := s.modAngle k c (s.hold0 k)
    let s1 := commitDuties k (s.hold0 k) [us.v] (s.modulate k th [us]) s
    let s2 := writeState k [(24, us.v), (4, (s.scaleIn k c.bank 0 (c.raw.getD 0 0)).v)] s1
    let bad := us.bad || (s.modProducts k th [us]).any (·.2.bad)
    endUpdate k (loopEvent k (if bad then oneBit 0 ||| oneBit 9 else oneBit 0) s2)
  else s

end Sys2Proof.Machine
end

