-- ==== Sys2Proof/Machine/Placement.lean ====
section
/-! DEFINITION. The placement unit (spec/08): declarations, admission, withdrawal and re-placement. -/

namespace Sys2Proof.Machine

/-- Requester `r` of the placement unit's own copy of a register (R186). -/
def plReg (r a : Nat) : Nat := a + (r + 1) * 0x100000000

/-- Who owns what requester `r` declares: 0 tailstock, 1 the host pair, 21 the field network, else the requester
(R199). -/
def plOwner (r : Nat) : Nat := if r = 2 then 1 else r

/-! ### Declaration fields (R187 to R191) -/

def PlDecl.word (d : PlDecl) (i : Nat) : Word := d.w.getD i 0
def PlDecl.kind (d : PlDecl) : Nat := fieldOf (d.word 0) 31 29
def PlDecl.cls (d : PlDecl) : Nat := fieldOf (d.word 0) 27 24
def PlDecl.key (d : PlDecl) : Nat := fieldOf (d.word 0) 15 0
def Admitted.word (d : Admitted) (i : Nat) : Word := d.w.getD i 0

/-- A refusal (R198). -/
def plFail (kind key code : Nat) : Word := toWord (2 ^ 31 + kind * 2 ^ 28 + key * 2 ^ 8 + code)

/-- Has the word no bit outside `mask`? -/
def inMask (w mask : Word) : Bool := decide (w &&& ~~~mask = 0)

/-- Are the words from `i` on zero? -/
def restZero (w : List Word) (i : Nat) : Bool := (w.drop i).all fun x => decide (x = 0)

/-- The field checks of a spindle declaration (R187, R188). -/
def spindleFieldsOk (d : PlDecl) : Bool :=
  let w := d.word
  let n := fieldOf (w 1) 7 0
  let dv := fieldOf (w 1) 20 16
  let src := fieldOf (w 2) 28 26
  let sel := fieldOf (w 2) 8 0
  inMask (w 0) 0xEF00FFFF && inMask (w 1) 0xE01F00FF && decide (fieldOf (w 1) 31 30 ≠ 3) &&
  decide (4 ≤ dv ∧ dv ≤ 16) && decide (n < 72 ∨ (136 ≤ n ∧ n < 154)) && inMask (w 3) 0xFFFFF &&
  (decide (64 ≤ n) || decide (4 ≤ fieldOf (w 3) 19 0)) &&
  (decide (64 ≤ n) || decide (src ≤ 2 ∧ sel < (if src = 2 then 384 else 32))) &&
  (!isMains n || decide (sel < 384)) && (!isFree n || decide (src ≤ 2)) &&
  inMask (w 6) 0x7FF && decide (w 6 ≠ 0) && inMask (w 7) 0x3FFFFF && restZero d.w 8

/-- The field checks of a loop declaration (R187, R189). -/
def loopFieldsOk (d : PlDecl) : Bool :=
  let w := d.word
  let c := w 1
  let t := fieldOf c 30 28
  let n := fieldOf c 19 16
  let nin := fieldOf c 13 12 + 1
  let inputOk (x : Word) : Bool :=
    inMask x 0xFFFCFFFF && (match fieldOf x 30 29 with
      | 0 => decide (fieldOf x 15 0 < 144)
      | 3 => true
      | _ => decide (fieldOf x 15 0 < 154))
  let mapOk (o : Nat) : Bool :=
    let x := w (7 + o)
    let p := fieldOf x 6 0
    inMask x 0xE000007F && decide (p < 96) && (!bitAt x 31 || (decide (mapMod x ≠ 3) &&
      (decide (mapMod x ≠ 1) || (decide (o = 0) && !bitAt (w 8) 31 && decide (p / 4 = (p + 2) / 4)))))
  let startOk : Bool := match fieldOf (w 11) 31 30 with
    | 0 => decide (fieldOf (w 11) 9 0 < 154)
    | 1 => decide (fieldOf (w 11) 9 0 < 616)
    | 2 => decide (fieldOf (w 11) 9 0 < 24)
    | _ => true
  inMask (w 0) 0xEF00FFFF && inMask c 0xFFEFFFFF && decide (t ≤ 4) && decide (fieldOf c 25 24 ≠ 3) &&
  decide (fieldOf c 23 22 ≠ 3) && decide (fieldOf c 11 10 ≠ 3) && (decide (t ≠ 2) || decide (1 ≤ n ∧ n ≤ 4)) &&
  (decide (t ≠ 3) || decide (1 ≤ n ∧ n ≤ 8)) && decide (fieldOf c 8 0 < 384) && inMask (w 2) 0xC003FFFF &&
  (List.range nin).all (fun i => inputOk (w (3 + i))) && (List.range 4).all mapOk &&
  inMask (w 11) 0xC00003FF && startOk && decide (fieldOf (w 13) 31 16 ≤ 23437) &&
  inMask (w 14) 0x8F0000FF && decide (fieldOf (w 14) 7 0 < 154) &&
  (!bitAt (w 14) 31 || decide (fieldOf (w 14) 27 24 ≠ 0)) && inMask (w 15) 0xF00000FF &&
  decide (fieldOf (w 15) 30 28 ≤ 3) && (!bitAt (w 15) 31 || decide (fieldOf (w 15) 7 0 < 72))

/-- The field checks of a console declaration (R187, R190). -/
def consoleFieldsOk (d : PlDecl) : Bool :=
  let w := d.word
  inMask (w 0) 0xEF00FFFF && inMask (w 1) 0x803F01FF && inMask (w 2) 0xE01F07FF &&
  decide (fieldOf (w 2) 31 30 ≠ 3) && decide (4 ≤ fieldOf (w 2) 20 16 ∧ fieldOf (w 2) 20 16 ≤ 16) &&
  decide (fieldOf (w 2) 10 0 ≠ 0) && restZero d.w 5

/-- The field checks of a data region declaration (R187, R191). -/
def dataFieldsOk (d : PlDecl) : Bool :=
  let w := d.word
  let ok := fieldOf (w 2) 22 20
  let n := fieldOf (w 2) 15 0
  inMask (w 0) 0xEF00FFFF && inMask (w 1) 0xFFFFFF && decide (w 1 ≠ 0) && inMask (w 2) 0xFF70FFFF &&
  decide (fieldOf (w 2) 31 28 ≤ 2) && decide (fieldOf (w 2) 27 24 ≤ 2) &&
  (decide (ok = 0 ∧ n < 16) || decide (ok = 2 ∧ n < 64) || decide (ok = 3 ∧ n < 512) || decide (ok = 4)) &&
  inMask (w 3) 0x80000007 && decide (fieldOf (w 3) 2 0 ≤ 3) && restZero d.w 4

def PlDecl.fieldsOk (d : PlDecl) : Bool :=
  match d.kind with
  | 1 => spindleFieldsOk d
  | 2 => loopFieldsOk d
  | 3 => consoleFieldsOk d
  | 4 => dataFieldsOk d
  | _ => false

/-- Does the declaration name a unit that the part does not have (R2, R3)? -/
def State.namesAbsent (s : State) (d : PlDecl) : Bool :=
  let w := d.word
  let k := sectorCount s.sys.variant
  match d.kind with
  | 1 =>
    let n := fieldOf (w 1) 7 0
    (decide (s.sys.variant = .vl8830) && decide (136 ≤ n ∧ n < 138)) ||
      ((isMains n || (decide (n < 64) && decide (fieldOf (w 2) 28 26 = 2))) && decide (64 * k ≤ fieldOf (w 2) 8 0))
  | 2 =>
    let inputAbsent (x : Word) : Bool :=
      let n := fieldOf x 15 0
      match fieldOf x 30 29 with
      | 0 => decide ((n < 96 ∧ 16 * k ≤ n) ∨ (96 ≤ n ∧ 8 * k ≤ n - 96))
      | 3 => false
      | _ => decide (s.sys.variant = .vl8830 ∧ 136 ≤ n ∧ n < 138)
    let spindleAbsent (n : Nat) : Bool := decide (s.sys.variant = .vl8830) && decide (136 ≤ n ∧ n < 138)
    (bitAt (w 1) 9 && decide (64 * k ≤ fieldOf (w 1) 8 0)) ||
    (bitAt (w 14) 31 && spindleAbsent (fieldOf (w 14) 7 0)) ||
    (decide (fieldOf (w 11) 31 30 = 0) && spindleAbsent (fieldOf (w 11) 9 0)) ||
    (decide (fieldOf (w 11) 31 30 = 1) && spindleAbsent (fieldOf (w 11) 9 0 / 4)) ||
    (List.range (fieldOf (w 1) 13 12 + 1)).any (fun i => inputAbsent (w (3 + i))) ||
    (List.range 4).any (fun o => bitAt (w (7 + o)) 31 && decide (16 * k ≤ fieldOf (w (7 + o)) 6 0)) ||
    decide (fieldOf (w 11) 31 30 = 2 ∧ 4 * k ≤ fieldOf (w 11) 9 0)
  | 4 => decide (fieldOf (w 2) 22 20 = 0 ∧ coreCount s.sys.variant ≤ fieldOf (w 2) 15 0)
  | _ => false

/-! ### Submit, discard (R186, R187, R198) -/

def State.pendingOf (s : State) (r : Nat) : List PlDecl := s.place.pending.filter fun d => decide (d.req = r)

/-- A result word reaches PL_RESULT of its requester (R201). -/
def plResult (r : Nat) (v : Word) (s : State) : Word × State := (v, s.setReg (plReg r Reg.PL_RESULT) v)

def poolUsed (s : State) : State := s.setReg Reg.PL_POOL_USED (toWord s.place.pending.length)

/-- The pending count of requester `r`, as a result word (R198). -/
def State.plOk (s : State) (r : Nat) : Word := toWord ((s.pendingOf r).length % 512)

def State.admittedAs (s : State) (kind key : Nat) : Option Admitted :=
  s.place.admitted.find? fun a => decide (a.kind = kind ∧ a.key = key)

/-- Submit a declaration: the first fault in the order of R198, or the pending set grows. -/
def plSubmitOp (d : PlDecl) (s : State) : Word × State :=
  let known : Bool := (s.admittedAs d.kind d.key).isSome ||
    s.place.pending.any fun x => decide (x.kind = d.kind ∧ x.key = d.key)
  let code := if !d.fieldsOk then 0x02 else if s.namesAbsent d then 0x01 else if known then 0x03
    else if 256 ≤ s.place.pending.length then 0x11 else 0
  if code ≠ 0 then plResult d.req (plFail d.kind d.key code) s
  else
    let s1 := poolUsed { s with place := { s.place with pending := s.place.pending ++ [d] } }
    plResult d.req (s1.plOk d.req) s1

/-- The staged declaration of requester `q`. -/
def State.stagedDecl (s : State) (q : Requester) : PlDecl :=
  { req := reqIdx q, w := (List.range 16).map fun i => s.reg (ownKey q (Reg.PL_DECL i)) }

def plSubmitStaged (q : Requester) (s : State) : Word × State := plSubmitOp (s.stagedDecl q) s

def execPlSubmit (q : Requester) (s : State) : Out := .next (if s.fclkOn then answerWith q (plSubmitStaged q s) else s)

/-- PL_DISCARD: the requester's set is empty. -/
def plDiscard (r : Nat) (s : State) : State :=
  poolUsed { s with place := { s.place with pending := s.place.pending.filter fun d => decide (d.req ≠ r) } }

def execPlDiscard (q : Requester) (value : Word) (s : State) : Out :=
  .next (if s.fclkOn && bitAt value 0 then plDiscard (reqIdx q) s else s)

/-! ### Operations: acceptance (R192, R193, R199 to R202) -/

def State.plBusy (s : State) (r : Nat) : Bool := s.place.ops.any fun o => decide (o.req = r)

/-- Queue an operation: PL_STATUS shows it busy. -/
def plQueue (o : PlOp) (s : State) : Word × State :=
  let a := plReg o.req Reg.PL_STATUS
  let s1 := (s.setBit a 31 true).setFld a 30 29 o.op
  let s2 := { s1 with place := { s1.place with ops := s1.place.ops ++ [o] } }
  plResult o.req (s2.plOk o.req) s2

def plCommitOp (r : Nat) (s : State) : Word × State :=
  if s.plBusy r then plResult r (plFail 0 0 0x17) s
  else if s.pendingOf r = [] then plResult r (plFail 0 0 0x18) s
  else plQueue { req := r, op := 1, decls := s.pendingOf r } s

def plHandleOp (r op : Nat) (s : State) : Word × State :=
  if s.plBusy r then plResult r (plFail 0 0 0x17) s
  else plQueue { req := r, op := op, handle := s.reg (plReg r Reg.PL_HANDLE), target := s.reg (plReg r Reg.PL_TARGET) } s

def execPlCommit (q : Requester) (s : State) : Out := .next (if s.fclkOn then answerWith q (plCommitOp (reqIdx q) s) else s)
def execPlWithdraw (q : Requester) (s : State) : Out := .next (if s.fclkOn then answerWith q (plHandleOp (reqIdx q) 2 s) else s)
def execPlReplace (q : Requester) (s : State) : Out := .next (if s.fclkOn then answerWith q (plHandleOp (reqIdx q) 3 s) else s)

/-! ### Partitions (R190, R196, R95) -/

/-- The smallest of a list of candidates by a measure, the first of equals. -/
def leastBy {α : Type} (f : α → List Nat) : List α → Option α
  | [] => none
  | x :: xs =>
    match leastBy f xs with
    | none => some x
    | some y => if lexLt (f y) (f x) then some y else some x
where
  lexLt : List Nat → List Nat → Bool
    | a :: as, b :: bs => decide (a < b) || (decide (a = b) && lexLt as bs)
    | [], _ :: _ => true
    | _, [] => false

/-- The spindle or raster is declared already (R198). -/
def State.spindleDeclared (s : State) (n : Nat) : Bool :=
  s.place.admitted.any fun a => decide ((a.kind = 1 ∧ a.place = n) ∨ (a.kind = 3 ∧ a.place + 72 = n))

/-- ceil(a / b), at least 1; 1 where b is 0. -/
def lookahead (a b : Nat) : Nat := if b = 0 then 1 else max 1 ((a + b - 1) / b)

/-- Residency of a partition (R95, R196): streamed, L and quota, from the residency asked for, k_max, the number of
entries it will hold, and L. -/
def residency (want kmax most l : Nat) : Bool × Nat × Nat :=
  let sq := (l + 2) * kmax
  let streamed : Bool := match want with
    | 0 => !decide (most ≤ sq ∨ 255 < l)
    | 1 => false
    | _ => decide (l ≤ 255)
  if streamed then (true, l, sq) else (false, 0, most)

/-- Reserve partition `n`'s near slots and write its residency; its holes are allocated later (R196). -/
def reservePart (n prio kmax : Nat) (r : Bool × Nat × Nat) (owner : Nat) (s : State) : Except Nat State :=
  let free := s.fld Reg.PLATE_NEAR_FREE 18 0
  if free < r.2.2 + s.fld Reg.PLATE_CHAIN_POOL 18 0 then .error 0x0F
  else
    let s1 := s.setReg Reg.PLATE_NEAR_FREE (toWord (free - r.2.2))
    let s2 := s1.setReg (Reg.PLATE_PART_RES n) (toWord (boolNat r.1 * 2 ^ 31 + r.2.1 * 2 ^ 16 + kmax))
    let s3 := (s2.setReg (Reg.PLATE_PART_NEAR n) (toWord r.2.2)).setFld (Reg.PLATE_PART_CTL n) 30 30 prio
    let core := if 3 ≤ owner ∧ owner < 19 then some (owner - 3) else none
    .ok (s3.setPlate { s3.plate with owners := tabSet none n core s3.plate.owners })

/-- A spindle declaration: registers, residency and quota (R188, R196). -/
def placeSpindle (d : PlDecl) (s : State) : Except Nat State :=
  let w := d.word
  let n := fieldOf (w 1) 7 0
  let kmax := fieldOf (w 6) 10 0
  let most := fieldOf (w 7) 21 0
  let dv := fieldOf (w 1) 20 16
  if s.spindleDeclared n then .error 0x09
  else
    let l := lookahead ((400 * (kmax + 1) + (s.reg Reg.PLATE_MARGIN).toNat) * (w 4).toNat * 2 ^ dv) (256 * second)
    let r := residency (fieldOf (w 1) 31 30) kmax most l
    match reservePart n (fieldOf (w 1) 29 29) kmax r (plOwner d.req) s with
    | .error c => .error c
    | .ok s1 =>
      let s2 := sourceWrite n false (w 2) s1
      let s3 := if n < 64 then
          let vmax := ((w 4).toNat * 2 ^ 41 + second) / (2 * second)
          let amax := ((w 5).toNat * 2 ^ 57 + second * second) / (2 * (second * second))
          ((sourceWrite n true (w 3) s2).setReg (Reg.SPN_VMAX n) (toWord (min vmax 0x7FFFFFFF))).setReg
            (Reg.SPN_AMAX n) (toWord (min amax 0xFFFFFFFF))
        else s2
      .ok { s3 with place := { s3.place with admitted := s3.place.admitted ++
        [{ kind := 1, key := d.key, owner := plOwner d.req, w := d.w, place := n, quota := r.2.2 }] } }

/-- A console declaration: its raster, its binding, its partition's residency (R190, R303; a resident partition may
hold k_max entries in every hole: log entry 21). -/
def placeConsole (d : PlDecl) (s : State) : Except Nat State :=
  let w := d.word
  let fixed := bitAt (w 1) 31
  let raster := if fixed then (if s.spindleDeclared (72 + fieldOf (w 1) 21 16) then none else some (fieldOf (w 1) 21 16))
    else (List.range 64).find? fun r => !s.spindleDeclared (72 + r)
  match raster with
  | none => .error 0x09
  | some r =>
    let kmax := fieldOf (w 2) 10 0
    let dv := fieldOf (w 2) 20 16
    let l := lookahead ((400 * (kmax + 1) + (s.reg Reg.PLATE_MARGIN).toNat) * 2 ^ dv) (w 4).toNat
    let rs := residency (fieldOf (w 2) 31 30) kmax (kmax * 2 ^ dv) l
    match reservePart (72 + r) (fieldOf (w 2) 29 29) kmax rs (plOwner d.req) s with
    | .error c => .error c
    | .ok s1 =>
      let k := fieldOf (w 1) 8 0
      let s2 := ((s1.setBit (Reg.CON_CTL k) 26 true).setFld (Reg.CON_CTL k) 21 16 r).setReg (Reg.CON_TOTAL k) (w 3)
      let s3 := s2.setReg (Reg.CON_FRAME k) (w 4)
      .ok { s3 with place := { s3.place with admitted := s3.place.admitted ++
        [{ kind := 3, key := d.key, owner := plOwner d.req, w := d.w, place := r, quota := rs.2.2 }] } }

/-- The spindle and log2 of the division of a spindle or console declaration. -/
def Admitted.part (a : Admitted) : Nat × Nat :=
  if a.kind = 1 then (a.place, fieldOf (a.word 1) 20 16) else (72 + a.place, fieldOf (a.word 2) 20 16)

/-- The lowest aligned block of 2^d holes that no partition holds (R74, R196). -/
def State.freeBlock (s : State) (d : Nat) : Option Nat :=
  let occ := ((List.range 154).filter s.partValid).map fun n => (s.partBase n, s.partBase n + 2 ^ s.partLog n)
  let cand := 0 :: occ.map fun o => (o.2 + 2 ^ d - 1) / 2 ^ d * 2 ^ d
  leastBy (fun x => [x]) <| cand.filter fun c =>
    decide (c + 2 ^ d ≤ 1048576) && occ.all fun o => decide (o.2 ≤ c ∨ c + 2 ^ d ≤ o.1)

/-- Allocate the holes of one declared partition; it runs if it is enabled (R104). -/
def placeHoles (a : Admitted) (s : State) : Except Nat State :=
  match s.freeBlock a.part.2 with
  | none => .error 0x0E
  | some b =>
    let n := a.part.1
    let s1 := s.setReg (Reg.PLATE_PART_MAP n) (toWord (2 ^ 31 + a.part.2 * 2 ^ 24 + b))
    .ok (if s1.bit (Reg.PLATE_PART_CTL n) 31 && decide (s1.partState n = partDisabled) then runPartition n s1 else s1)

/-! ### Loops (R189, R194, R195) -/

/-- The loops admitted. -/
def State.loopsAdmitted (s : State) : List Admitted := s.place.admitted.filter fun a => decide (a.kind = 2)

/-- Declared load of engine `e`, kHz. -/
def State.engineLoad (s : State) (e : Nat) : Nat :=
  (s.loopsAdmitted.filter fun a => decide (a.place / 8 = e)).foldl (fun n a => n + fieldOf (a.word 13) 31 16) 0

def State.contextTaken (s : State) (k : Nat) : Bool := s.loopsAdmitted.any fun a => decide (a.place = k)

/-- Sector of converter input `i`: an analog input, or demodulator i - 96. -/
def inputSector (i : Nat) : Nat := if i < 96 then i / 16 else (i - 96) / 8

/-- The inputs of a loop declaration with src 0b00: index and number. -/
def converterInputs (w : Nat → Word) : List (Nat × Nat) :=
  ((List.range (fieldOf (w 1) 13 12 + 1)).filter fun i => decide (fieldOf (w (3 + i)) 30 29 = 0)).map
    fun i => (i, fieldOf (w (3 + i)) 15 0)

/-- The pairs that a loop's enabled maps drive. -/
def mappedPairs (w : Nat → Word) : List Nat :=
  (List.range 4).flatMap fun o => (mapPorts (w (7 + o))).map (·.1)

/-- A value loop: no converter input, no enabled output (R192). -/
def noPorts (w : Nat → Word) : Bool := (converterInputs w).isEmpty && (mappedPairs w).isEmpty

/-- The loop keys that a declaration names: its reference, its src 0b11 inputs. -/
def keysNamed (w : Nat → Word) : List Nat :=
  (if bitAt (w 2) 31 then [fieldOf (w 2) 15 0] else []) ++
    ((List.range (fieldOf (w 1) 13 12 + 1)).filter fun i => decide (fieldOf (w (3 + i)) 30 29 = 3)).map
      fun i => fieldOf (w (3 + i)) 15 0

/-- The spindles that a loop declaration names (R189). -/
def spindlesNamed (w : Nat → Word) : List Nat :=
  ((List.range (fieldOf (w 1) 13 12 + 1)).filter fun i =>
      decide (fieldOf (w (3 + i)) 30 29 = 1 ∨ fieldOf (w (3 + i)) 30 29 = 2)).map (fun i => fieldOf (w (3 + i)) 15 0) ++
    (if bitAt (w 14) 31 then [fieldOf (w 14) 7 0] else []) ++
    (if fieldOf (w 11) 31 30 = 0 then [fieldOf (w 11) 9 0] else []) ++
    (if bitAt (w 15) 31 then [fieldOf (w 15) 7 0] else [])

/-- The partner of a value loop: the first loop of the commit, in the order of R192, that it names or that names it. -/
def partnerOf (ds : List PlDecl) (d : PlDecl) : Option Nat :=
  if noPorts d.word then
    ((ds.filter fun x => decide (x.kind = 2 ∧ x.key ≠ d.key) &&
        ((keysNamed d.word).contains x.key || (keysNamed x.word).contains d.key)).map (·.key)).head?
  else none

/-- Crossings of an engine in sector `e` (R194). -/
def crossingsAt (w : Nat → Word) (partner : Option Nat) (e : Nat) : Nat :=
  match partner with
  | some p => boolNat (decide (p / 8 ≠ e / 8))
  | none =>
    boolNat ((converterInputs w).any fun i => decide (inputSector i.2 ≠ e / 8)) +
      boolNat ((mappedPairs w).any fun p => decide (p / 16 ≠ e / 8))

/-- The figure of R145 for the loop's path; a sigma-delta input 0 makes it 23 cycles shorter. -/
def latencyFigure (w : Nat → Word) (crossings : Nat) : Nat :=
  let c := w 1
  let n := fieldOf c 19 16
  let base := if fieldOf c 30 28 = 4 then 150
    else if fieldOf c 27 26 ≠ 0 then 32
    else match fieldOf c 30 28 with
      | 2 => if n ≤ 2 then 49 else 51
      | 3 => 48 + n
      | _ => 49
  let sd : Bool := decide (fieldOf (w 3) 30 29 = 0 ∧ 96 ≤ fieldOf (w 3) 15 0)
  base + 4 * crossings - (if sd then 23 else 0)

/-- Choose the engine and context of a loop among engines `es` (R194): the code of the test that removed the last
candidate, or context and crossings. -/
def State.chooseEngine (s : State) (w : Nat → Word) (fixed : Option Nat) (partner : Option Nat) (es : List Nat) :
    Except Nat (Nat × Nat) :=
  let freeIn (e : Nat) : Option Nat := match fixed with
    | some c => if c / 8 = e ∧ s.contextTaken c = false then some c else none
    | none => ((List.range 8).map (8 * e + ·)).find? fun c => !s.contextTaken c
  let rate := fieldOf (w 13) 31 16
  let budget := fieldOf (w 13) 15 0
  let c1 := es.filter fun e => s.sectorOn (e / 8)
  let c2 := c1.filter fun e => (freeIn e).isSome
  let c3 := c2.filter fun e => decide (s.engineLoad e + rate ≤ (s.reg Reg.PL_ENGINE_LIMIT).toNat)
  let c4 := c3.filter fun e => decide (budget = 0 ∨ latencyFigure w (crossingsAt w partner e) ≤ budget)
  if c1 = [] then .error 0x0A
  else if c2 = [] then .error 0x0B
  else if c3 = [] then .error 0x0C
  else
    match leastBy (fun e => [crossingsAt w partner e, boolNat (decide (partner ≠ none ∧ partner ≠ some e)),
        s.engineLoad e, e]) c4 with
    | none => .error 0x0D
    | some e => .ok ((freeIn e).getD 0, crossingsAt w partner e)

/-- Sequence entries of ADC `n` that admitted loops use. -/
def State.entriesOf (s : State) (n : Nat) : List Nat :=
  s.loopsAdmitted.flatMap fun a => (a.entries.filter fun x => decide (x.1 = n)).map (·.2)

def State.chanTaken (s : State) (c : Nat) : Bool := s.loopsAdmitted.any fun a => a.ownChans.contains c

/-- The ADC and channel that an admitted loop gave converter input `i`, and the first sequence entry of the run that
converts it (R195). -/
def State.inputChannel (s : State) (i : Nat) : Option (Option Nat × Nat × Nat) :=
  s.loopsAdmitted.findSome? fun a =>
    (converterInputs a.word).findSome? fun x =>
      if x.2 = i then (a.chans.getD x.1 none).bind fun c => if a.ownChans.contains c then
        let adc := a.adcs.getD x.1 none
        some (adc, c, ((a.entries.filter fun y => decide (some y.1 = adc)).map (·.2)).headD 0) else none else none

/-- An ADC that a loop may use: available, without a gang mask; one of a gang carries no other entries. -/
def State.adcFits (s : State) (n : Nat) (gang : Bool) : Bool :=
  s.adcAvailable n && decide (s.fld (Reg.ADC_CTL (n / 4) (n % 4)) 29 26 = 0) && (!gang || (s.entriesOf n).isEmpty)

/-- The ADC of sector `k` with the fewest entries in use, not yet chosen. -/
def State.pickAdc (s : State) (k : Nat) (gang : Bool) (chosen : List Nat) : Option Nat :=
  leastBy (fun n => [(s.entriesOf n).length, n]) <|
    ((List.range 4).map (4 * k + ·)).filter fun n => s.adcFits n gang && !chosen.contains n

/-- Further ADCs for the simultaneous inputs. -/
def State.pickGang (s : State) (k : Nat) : Nat → List Nat → Option (List Nat)
  | 0, chosen => some chosen
  | n + 1, chosen =>
    match s.pickAdc k true chosen with
    | none => none
    | some a => s.pickGang k n (chosen ++ [a])

/-- What the inputs of a loop have been given, by input index; `start` is the ADC of input 0 with its first sequence
entry (R189). -/
structure InputPlan where
  start : Option (Nat × Nat) := none
  adcs : List (Option Nat) := [none, none, none, none]
  chans : List (Option Nat) := [none, none, none, none]
  own : List Nat := []
  entries : List (Nat × Nat) := []
  gangAdc : Option Nat := none
  /-- ADC, entry and sequence word. -/
  writes : List (Nat × Nat × Word) := []
  /-- Demodulator and channel. -/
  demods : List (Nat × Nat) := []

/-- A free channel of sector `k`, from 0 up or from 63 down. -/
def State.pickChan (s : State) (k : Nat) (up : Bool) (own : List Nat) : Option Nat :=
  let cs := (List.range 64).map (64 * k + ·)
  (if up then cs else cs.reverse).find? fun c => !s.chanTaken c && !own.contains c

/-- Give input `x` (index, number) a channel; an ADC input its entry too (R195). -/
def State.planInput (s : State) (w : Nat → Word) (prim : Nat) (gangs : List Nat) (e : Nat) (p : InputPlan)
    (x : Nat × Nat) : Except Nat InputPlan :=
  match s.inputChannel x.2 with
  | some (a, c, f) =>
    if bitAt (w (3 + x.1)) 31 || bitAt (w (3 + x.1)) 28 then .error 0x07
    else .ok { p with adcs := p.adcs.set x.1 a, chans := p.chans.set x.1 (some c)
                      start := if x.1 = 0 then a.map fun n => (n, f) else p.start }
  | none =>
    let up := decide (x.2 < 96)
    match s.pickChan (inputSector x.2) up p.own with
    | none => .error 0x06
    | some c =>
      let p1 := { p with chans := p.chans.set x.1 (some c), own := p.own ++ [c] }
      if 96 ≤ x.2 then .ok { p1 with demods := p1.demods ++ [(x.2 - 96, c)] }
      else
        let acq := fieldOf (w (3 + x.1)) 27 20
        let seqWord (last : Bool) : Word :=
          toWord (boolNat last * 2 ^ 31 + acq * 2 ^ 20 + c % 64 * 2 ^ 8 + x.2 % 16)
        if bitAt (w (3 + x.1)) 28 && decide (x.1 ≠ 0) then
          let used := (p.entries.filter fun y => gangs.contains y.1).length
          let a := gangs.getD used prim
          .ok { p1 with
            adcs := p1.adcs.set x.1 (some a), entries := p1.entries ++ [(a, e)], writes := p1.writes ++ [(a, e, seqWord true)] }
        else
          let mine := (p.entries.filter fun y => decide (y.1 = prim)).length
          .ok { p1 with
            adcs := p1.adcs.set x.1 (some prim), entries := p1.entries ++ [(prim, e + mine)]
            start := if x.1 = 0 then some (prim, e) else p1.start
            writes := p1.writes ++ [(prim, e + mine, seqWord false)] }

/-- `last` on the final entry of the primary ADC. -/
def markLast (prim : Nat) (ws : List (Nat × Nat × Word)) : List (Nat × Nat × Word) :=
  let top := (ws.filter fun x => decide (x.1 = prim)).foldl (fun m x => max m x.2.1) 0
  ws.map fun x => if x.1 = prim ∧ x.2.1 = top then (x.1, x.2.1, withBit x.2.2 31 true) else x

/-- The ADC in whose sequence the inputs without simultaneous lie: that of input 0, chosen anew or shared with the loop
that brought it; where input 0 has none, the choice that input 0 would have, for the first input that needs one (R195; log
entry 31). An ADC with a gang mask serves no later loop. -/
def State.primaryAdc (s : State) (ins : List (Nat × Nat)) (k : Nat) (gang : Bool) : Option Nat :=
  match (ins.find? fun x => decide (x.1 = 0)).bind fun x => (s.inputChannel x.2).bind (·.1) with
  | some n => if decide (n / 4 = k) && s.adcFits n false && !gang then some n else none
  | none => s.pickAdc k gang []

/-- Plan every converter input of a loop (R195). A simultaneous input needs an ADC of input 0 that no other loop uses. -/
def State.planInputs (s : State) (w : Nat → Word) : Except Nat InputPlan :=
  let ins := converterInputs w
  let nums := ins.map (·.2)
  if nums.dedup ≠ nums then .error 0x07
  else
    let fresh := ins.filter fun x => decide (x.2 < 96) && (s.inputChannel x.2).isNone
    match fresh with
    | [] => ins.foldlM (s.planInput w 0 [] 0) {}
    | x :: xs =>
      let k := inputSector x.2
      let gangN := (fresh.filter fun y => bitAt (w (3 + y.1)) 28 && decide (y.1 ≠ 0)).length
      if (xs.any fun y => decide (inputSector y.2 ≠ k)) || (decide (0 < gangN) && decide (x.1 ≠ 0)) then .error 0x05
      else
        match s.primaryAdc ins k (decide (0 < gangN)) with
        | none => .error 0x05
        | some prim =>
          match s.pickGang k gangN [prim] with
          | none => .error 0x05
          | some all =>
            let gangs := all.drop 1
            let np := fresh.length - gangN
            let free (e : Nat) : Bool :=
              (List.range np).all (fun i => !(s.entriesOf prim).contains (e + i)) && decide (e + np ≤ 64)
            match (List.range 64).find? free with
            | none => .error 0x06
            | some e =>
              match ins.foldlM (s.planInput w prim gangs e) {} with
              | .error c => .error c
              | .ok p => .ok { p with
                  writes := markLast prim p.writes, gangAdc := if gangs = [] then none else some prim }

/-- Write the converter registers of a plan: sequence entries, park entry of an idle ADC, gang mask, SD_CTL.channel
(R195). -/
def writePlan (p : InputPlan) (idle : List Nat) (s : State) : State :=
  let s1 := p.writes.foldl (fun s x => routeWrite x.1 (.seq (Fin.ofNat 64 x.2.1)) x.2.2 s) s
  let parked := (p.entries.map (·.1)).dedup.filter idle.contains
  let s2 := forEach parked (fun n s =>
    let e := ((p.entries.filter fun x => decide (x.1 = n)).map (·.2)).headD 0
    routeWrite n .control (withField (s.reg (Reg.ADC_CTL (n / 4) (n % 4))) 5 0 e) s) s1
  let s3 := match p.gangAdc with
    | none => s2
    | some n =>
      let mask := ((p.entries.map (·.1)).dedup.filter (· ≠ n)).foldl (fun m a => m + 2 ^ (a % 4)) 0
      routeWrite n .control (withField (s2.reg (Reg.ADC_CTL (n / 4) (n % 4))) 29 26 mask) s2
  p.demods.foldl (fun s x => s.setFld (Reg.SD_CTL (x.1 / 8) (x.1 % 8)) 13 8 (x.2 % 64)) s3

/-- Link the trigger entry of a loop: periodic, forward, deferred when late, ADCTRIG; it needs a near slot of a resident
partition's quota (R189, R97). -/
def plantTrigger (n : Nat) (phase : Word) (adc e : Nat) (s : State) : Option Nat × State :=
  let d := s.partLog n
  let h := s.partBase n + phase.toNat / 2 ^ (32 - d)
  let fine := phase.toNat / 2 ^ (16 - d) % 65536
  if !s.streamed n && decide (s.fld (Reg.PLATE_PART_NEAR n) 18 0 ≤ s.fld (Reg.PLATE_PART_COUNT n) 21 0) then (none, s)
  else
    let z := linkNew (toWord (fine * 65536 + 0xA003)) (toWord adc) (toWord e) 0 h n s
    match z.1 with
    | none => z
    | some i =>
      if z.2.holeNear n h && z.2.isLate n (z.2.entry i) then (some i, (latePolicyEff i n z.2).2) else z

/-- LOOP_IN of input `i`, without the context of a src 0b11 input, which is resolved later (R189). -/
def loopInWord (w : Nat → Word) (p : InputPlan) (i : Nat) : Word :=
  let x := w (3 + i)
  let src := fieldOf x 30 29
  let n := match src with
    | 0 => (p.chans.getD i none).getD 0
    | 3 => fieldOf x 19 18 * 2 ^ 16
    | _ => fieldOf x 15 0
  toWord (boolNat (bitAt x 31) * 2 ^ 31 + src * 2 ^ 29 + n)

/-- The ADC and first entry that a plate trigger of the loop names; where input 0 has no ADC they are open (R189; log
entry 31). -/
def triggerTarget (p : InputPlan) (s : State) : (Nat × Nat) × State :=
  match p.start with
  | some x => (x, s)
  | none =>
    let f := takeFree 11 s
    (((f.1.extractLsb' 0 5).toNat % 24, (f.1.extractLsb' 5 6).toNat), f.2)

/-- Write a context's registers from its declaration; a plate trigger names target `x` (R131, R189). -/
def writeContext (k : Nat) (w : Nat → Word) (p : InputPlan) (x : Nat × Nat) (s : State) : State :=
  let s1 := loopCtlWrite k (w 1 &&& 0x7FEFFC00) s
  let s2 := forEach (List.range (fieldOf (w 1) 13 12 + 1)) (fun i s => s.setReg (Reg.LOOP_IN k i) (loopInWord w p i)) s1
  let s3 := forEach (List.range 4) (fun o s => outMapWrite k o (w (7 + o)) s) s2
  let s4 := s3.setReg (Reg.LOOP_ANGLE k) (w 14)
  let kind := fieldOf (w 11) 31 30
  let st := if kind = 0 then 2 ^ 31 + x.2 * 2 ^ 20 + x.1 else 2 ^ 31 + kind * 2 ^ 29 + fieldOf (w 11) 9 0
  let s5 := s4.setReg (Reg.LOOP_START k) (toWord st)
  let s6 := s5.setFld (Reg.LOOP_OBS_CTL k) 30 28 (fieldOf (w 15) 30 28)
  if bitAt (w 15) 31 then
    let n := fieldOf (w 15) 7 0
    sourceWrite n false (withField (s6.reg (Reg.SPN_SRC n)) 8 0 k) (s6.setBit (Reg.LOOP_OBS_CTL k) 31 true)
  else s6

/-- Place one loop of commit `ds` (R194, R195). -/
def placeLoop (ds : List PlDecl) (d : PlDecl) (s : State) : Except Nat State :=
  let w := d.word
  if (spindlesNamed w).any fun n => !s.spindleDeclared n then .error 0x04
  else
    let fixed := if bitAt (w 1) 9 then some (fieldOf (w 1) 8 0) else none
    let key := partnerOf ds d
    let partner := key.bind fun k => (s.admittedAs 2 k).map fun a => a.place / 8
    match s.chooseEngine w fixed partner (List.range (8 * sectorCount s.sys.variant)) with
    | .error c => .error c
    | .ok (ctx, cr) =>
      match s.planInputs w with
      | .error c => .error c
      | .ok p =>
        if (mappedPairs w).any fun x => s.loopsAdmitted.any fun a => (mappedPairs a.word).contains x then .error 0x08
        else
          let idle := (List.range 24).filter fun n => (s.entriesOf n).isEmpty
          let t := triggerTarget p (writePlan p idle s)
          let s1 := writeContext ctx w p t.1 t.2
          let a : Admitted :=
            { kind := 2, key := d.key, owner := plOwner d.req, w := d.w, place := ctx, adcs := p.adcs, chans := p.chans
              ownChans := p.own, entries := p.entries, gangAdc := p.gangAdc, crossings := cr, partner := key
              figure := latencyFigure w cr }
          let put (a : Admitted) (s : State) : State :=
            { s with place := { s.place with admitted := s.place.admitted ++ [a] } }
          if fieldOf (w 11) 31 30 = 0 then
            let z := plantTrigger (fieldOf (w 11) 9 0) (w 12) t.1.1 t.1.2 s1
            match z.1 with
            | none => .error 0x0F
            | some i => .ok (put { a with trigger := some i } z.2)
          else .ok (put a s1)

/-- References to loop keys are resolved once every loop is placed (R192). -/
def resolveLoop (d : PlDecl) (s : State) : Except Nat State :=
  let w := d.word
  match s.admittedAs 2 d.key with
  | none => .ok s
  | some a =>
    if (keysNamed w).any fun k => (s.admittedAs 2 k).isNone then .error 0x04
    else
      let ctx (key : Nat) : Nat := ((s.admittedAs 2 key).map (·.place)).getD 0
      let ref := if bitAt (w 2) 31 then toWord (fieldOf (w 2) 31 16 * 2 ^ 16 + ctx (fieldOf (w 2) 15 0)) else 0
      let s1 := s.setReg (Reg.LOOP_REF_SRC a.place) ref
      .ok (forEach ((List.range (fieldOf (w 1) 13 12 + 1)).filter fun i => decide (fieldOf (w (3 + i)) 30 29 = 3))
        (fun i s => s.setFld (Reg.LOOP_IN a.place i) 8 0 (ctx (fieldOf (w (3 + i)) 15 0))) s1)

/-! ### Data regions (R191, R197) -/

/-- First addresses and ends of the placed regions that lie in memory of a tier. -/
def State.regions (s : State) : List (Nat × Nat) :=
  s.place.admitted.flatMap fun a => a.mem.map fun m => (m.2.1, m.2.1 + m.2.2)

def overlaps (rs : List (Nat × Nat)) (b n : Nat) : Bool := rs.any fun r => decide (r.1 < b + n ∧ b < r.2)

/-- A run of `n` 4 KiB units at the top of core `c`'s pool (R197). -/
def State.placeTcm (s : State) (c n : Nat) : Option Nat :=
  let pool := min 64 (s.fld (Reg.PL_TCM_POOL c) 6 0)
  let base := 0x20000000 + c * 0x100000
  (((List.range pool).map fun i => base + (63 - i) * 4096).filter fun b =>
    decide (b + n * 4096 ≤ base + 0x40000 ∧ base + (64 - pool) * 4096 ≤ b)).find? fun b => !overlaps s.regions b (n * 4096)

/-- Whole consecutive banks, lowest first; never bank 31 (R197). -/
def State.placeScratch (s : State) (n : Nat) : Option Nat :=
  let m := (n + 127) / 128
  let ok (b : Nat) : Bool := s.bit Reg.PL_BANK_POOL b && decide (b < 31) &&
    !overlaps s.regions (0x40000000 + b * 0x80000) 0x80000
  ((List.range 31).find? fun b => decide (b + m ≤ 31) && (List.range m).all fun i => ok (b + i)).map
    fun b => 0x40000000 + b * 0x80000

/-- The DRAM pool: base and end (R201). -/
def State.dramPool (s : State) : Nat × Nat :=
  let b := s.fld Reg.PL_DRAM_BASE_HI 7 0 * 2 ^ 32 + s.fld Reg.PL_DRAM_BASE_LO 31 12 * 4096
  (b, b + s.fld Reg.PL_DRAM_SIZE 22 0 * 4096)

/-- First fit in the pool for `n` bytes aligned to `al`, under a further test. -/
def State.firstFit (s : State) (n al : Nat) (ok : Nat → Bool) : Option Nat :=
  let p := s.dramPool
  let up (x : Nat) : Nat := (x + al - 1) / al * al
  let cand := up p.1 :: s.regions.map fun r => up r.2
  leastBy (fun x => [x]) <| cand.filter fun b =>
    decide (p.1 ≤ b ∧ b + n ≤ p.2) && !overlaps s.regions b n && ok b

/-- The backing addresses of the pinned granules: tier 2. -/
def State.pinned (s : State) : List Nat :=
  s.place.admitted.flatMap fun a => (a.mem.filter fun m => decide (m.1 = 2)).map (·.2.1)

/-- Does one more granule at `b` leave at most 8 pinned lines in every L2 set? Each granule takes one way of every set of
the eighth of the sets that address bits [18:16] select (R240). -/
def pinFits (ps : List Nat) (b : Nat) : Bool :=
  decide ((ps.filter fun p => decide (p / 65536 % 8 = b / 65536 % 8)).length < 8)

/-- The lowest backing address in the pool for one more granule, beside regions `rs` and granules `ps`: the first granules
after each region, eight for the eighths of the sets (R197). -/
def State.pickGranule (s : State) (rs : List (Nat × Nat)) (ps : List Nat) : Option Nat :=
  let p := s.dramPool
  let starts := (p.1 :: rs.map (·.2)).map fun x => (x + 65535) / 65536 * 65536
  leastBy (fun x => [x]) <| (starts.flatMap fun x => (List.range 8).map fun i => x + i * 65536).filter fun b =>
    decide (p.1 ≤ b ∧ b + 65536 ≤ p.2) && !overlaps rs b 65536 && pinFits ps b

/-- The granules that find a place, `m` at most, lowest address first. -/
def State.pickGranules (s : State) : Nat → List (Nat × Nat) → List Nat → List Nat
  | 0, _, _ => []
  | m + 1, rs, ps =>
    match s.pickGranule rs ps with
    | none => []
    | some b => b :: s.pickGranules m ((b, b + 65536) :: rs) (b :: ps)

/-- L2-pinned: 64 KiB granules within PL_L2_PIN_MAX, at most 8 ways of any set (R197, R240). -/
def State.placePinned (s : State) (n : Nat) : List Nat :=
  let m := (n + 15) / 16
  if min 64 (s.fld Reg.PL_L2_PIN_MAX 6 0) < s.pinned.length + m then []
  else s.pickGranules m s.regions s.pinned

/-- Where a region of `n` units goes among tiers `ts`, for a core owner, as tier, address and size of its parts: the first
tier that fits; the granules that the L2 cannot pin go on to the next tier (R197; log entry 31). -/
def State.findMem (s : State) (core : Option Nat) (n : Nat) : List Nat → Option (List (Nat × Nat × Nat))
  | [] => none
  | t :: ts =>
    let one : Option (Nat × Nat) := match t with
      | 0 => core.bind fun c => (s.placeTcm c n).map fun b => (b, n * 4096)
      | 1 => (s.placeScratch n).map fun b => (b, (n + 127) / 128 * 0x80000)
      | 2 => none
      | _ => (s.firstFit (n * 4096) 4096 fun _ => true).map fun b => (b, n * 4096)
    let pins := if t = 2 then (s.placePinned n).map fun b => (2, b, 65536) else []
    if t = 2 ∧ (n + 15) / 16 ≤ pins.length then some pins
    else if t = 2 then
      let s1 := { s with place := { s.place with
        admitted := s.place.admitted ++ [({ kind := 4, key := 0, owner := 0, w := [], mem := pins } : Admitted)] } }
      (s1.findMem core (n - 16 * pins.length) ts).map fun r => pins ++ r
    else match one with
      | some x => some [(t, x.1, x.2)]
      | none => s.findMem core n ts

/-- The tiers tried, in order (R197). -/
def tiersOf (cls pattern : Nat) : List Nat :=
  match cls, pattern with
  | 0, _ => [0, 1, 2]
  | 1, 0 => [1, 2, 3]
  | 1, 2 => [2, 1, 3]
  | 1, _ => [1, 3]
  | _, _ => [3]

/-- The owner fields of SB_CTL for a declared owner (R191, R300). -/
def bankOwner (kind num : Nat) : Nat × Nat :=
  match kind with
  | 0 => (0, num)
  | 2 => (2, num)
  | 3 => (3, 0)
  | _ => (1, 0)

/-- The owner that bank `b` serves, as kind and number (R300): until a change takes effect, the old one (R280). -/
def State.bankOwner (s : State) (b : Nat) : Nat × Nat :=
  (tabGet none b s.sbOld).getD (s.fld (Reg.SB_CTL b) 10 8, s.fld (Reg.SB_CTL b) 5 0)

/-- The owner part of a write of SB_CTL: accesses of the old owner are served until the change takes effect (R280).
Owner kinds 6 and 7 leave the owner open (R300); bank 31's owner is fixed (R279). -/
def ownerWrite (b : Nat) (v : Word) (s : State) : State :=
  if b = 31 then s
  else
    let old := s.bankOwner b
    let s1 :=
      if 6 ≤ fieldOf v 10 8 then
        let f := takeFree 9 s
        (f.2.setFld (Reg.SB_CTL b) 10 8 (f.1.extractLsb' 0 3).toNat).setFld (Reg.SB_CTL b) 5 0 (f.1.extractLsb' 3 6).toNat
      else (s.setFld (Reg.SB_CTL b) 10 8 (fieldOf v 10 8)).setFld (Reg.SB_CTL b) 5 0 (fieldOf v 5 0)
    if (s1.fld (Reg.SB_CTL b) 10 8, s1.fld (Reg.SB_CTL b) 5 0) = old then { s1 with sbOld := tabSet none b none s1.sbOld }
    else { s1 with sbOld := tabSet none b (some old) s1.sbOld }

/-- Hand the scratch banks of a region to an owner by writes of SB_CTL in the tailstock's name (R279, R280). -/
def handBanks (mem : List (Nat × Nat × Nat)) (o : Nat × Nat) (s : State) : State :=
  forEach (mem.flatMap fun m =>
      if m.1 = 1 then (List.range (m.2.2 / 0x80000)).map fun i => (m.2.1 - 0x40000000) / 0x80000 + i else [])
    (fun b s => ownerWrite b (toWord (o.1 * 256 + o.2)) s) s

def placeData (d : PlDecl) (s : State) : Except Nat State :=
  let w := d.word
  let n := fieldOf (w 1) 23 0
  let ok := fieldOf (w 2) 22 20
  let num := fieldOf (w 2) 15 0
  let tiers := if bitAt (w 3) 31 then [fieldOf (w 3) 2 0] else tiersOf (fieldOf (w 2) 27 24) (fieldOf (w 2) 31 28)
  let core := if ok = 0 then some num else none
  match s.findMem core n tiers with
  | none => .error 0x10
  | some mem =>
    let s1 := handBanks mem (bankOwner ok num) s
    .ok { s1 with place := { s1.place with admitted := s1.place.admitted ++
      [{ kind := 4, key := d.key, owner := plOwner d.req, w := d.w, place := (mem.map (·.1)).headD 0, mem := mem }] } }

/-! ### Commit (R192) -/

/-- Declarations in an order given by a measure; equal ones keep their places. -/
def sortBy {α : Type} (f : α → List Nat) (l : List α) : List α :=
  l.foldr ins []
where
  ins (x : α) : List α → List α
    | [] => [x]
    | y :: ys => if leastBy.lexLt (f y) (f x) then y :: ins x ys else x :: y :: ys

/-- One step for each declaration; the first refusal names its declaration. -/
def placeEach (f : PlDecl → State → Except Nat State) : List PlDecl → State → Except Word State
  | [], s => .ok s
  | d :: ds, s =>
    match f d s with
    | .error c => .error (plFail d.kind d.key c)
    | .ok s1 => placeEach f ds s1

/-- The whole set, in the order of R192: spindles, consoles, their holes with larger d first, loops with value loops
last, references, data regions. -/
def placeAll (ds : List PlDecl) (s : State) : Except Word State :=
  let of (k : Nat) := sortBy (fun d : PlDecl => [d.cls, d.key]) (ds.filter fun d => decide (d.kind = k))
  let parts := of 1 ++ of 3
  let logOf (d : PlDecl) : Nat := if d.kind = 1 then fieldOf (d.word 1) 20 16 else fieldOf (d.word 2) 20 16
  let byD := sortBy (fun d : PlDecl => [16 - logOf d]) parts
  let holes (d : PlDecl) (s : State) : Except Nat State :=
    match s.admittedAs d.kind d.key with
    | none => .ok s
    | some a => placeHoles a s
  let loops := of 2
  let late (d : PlDecl) : Bool := (partnerOf loops d).isSome
  match placeEach (fun d s => if d.kind = 1 then placeSpindle d s else placeConsole d s) parts s with
  | .error r => .error r
  | .ok s1 =>
    match placeEach holes byD s1 with
    | .error r => .error r
    | .ok s2 =>
      match placeEach (placeLoop loops) ((loops.filter fun d => !late d) ++ loops.filter late) s2 with
      | .error r => .error r
      | .ok s3 =>
        match placeEach resolveLoop loops s3 with
        | .error r => .error r
        | .ok s4 => placeEach placeData (of 4) s4

/-- The operation ends: result, PL_STATUS, source 1376 (R201, R202). -/
def plFinish (o : PlOp) (res : Word) (s : State) : State :=
  let s1 := { s with place := { s.place with ops := s.place.ops.drop 1 } }
  let a := plReg o.req Reg.PL_STATUS
  let s2 := ((s1.setBit a 31 false).setBit a 0 true).setReg (plReg o.req Reg.PL_RESULT) res
  let s3 := if bitAt res 31 then s2.setBit a 1 true else s2
  if s3.bit (plReg o.req Reg.PL_IRQ_EN) 0 then ringShared 1376 s3 else s3

/-- A commit: all or nothing (R192). -/
def plCommitDone (o : PlOp) (s : State) : State :=
  match placeAll o.decls s with
  | .error r => plFinish o r s
  | .ok s1 =>
    let s2 := poolUsed { s1 with place := { s1.place with pending := s1.place.pending.filter fun d => !o.decls.contains d } }
    plFinish o (s2.plOk o.req) s2

/-! ### Withdrawal (R199) -/

/-- The declaration that a handle names. -/
def State.byPlHandle (s : State) (h : Word) : Option Admitted := s.admittedAs (fieldOf h 18 16) (fieldOf h 15 0)

/-- Is the declaration still in use (R199)? -/
def State.inUse (s : State) (a : Admitted) : Bool :=
  let others := s.loopsAdmitted.filter fun x => decide (x ≠ a)
  match a.kind with
  | 2 => (s.loopEnabled a.place && decide (s.loopState a.place ≠ 4)) || others.any fun x => (keysNamed x.word).contains a.key
  | 4 => false
  | _ => decide (s.fld (Reg.PLATE_PART_COUNT a.part.1) 21 0 ≠ 0) ||
      others.any fun x => (spindlesNamed x.word).contains a.part.1

/-- Free what an admitted declaration holds. -/
def freeAdmitted (a : Admitted) (s : State) : State :=
  let s0 := { s with place := { s.place with admitted := s.place.admitted.filter fun x => decide (x ≠ a) } }
  match a.kind with
  | 2 =>
    let s1 := match a.gangAdc with
      | none => s0
      | some n => routeWrite n .control (withField (s0.reg (Reg.ADC_CTL (n / 4) (n % 4))) 29 26 0) s0
    match a.trigger with
    | none => s1
    | some i => if (s1.entry i).kind = .linked then unlinkFree i (fieldOf (a.word 11) 9 0) s1 else s1
  | 4 => handBanks a.mem (1, 0) s0
  | _ =>
    let n := a.part.1
    let s1 := s0.setReg Reg.PLATE_NEAR_FREE (s0.reg Reg.PLATE_NEAR_FREE + toWord a.quota)
    let s2 := if s1.partState n = partRunning then setPartState n partDisabled (stopPartition n s1) else s1
    ((s2.setReg (Reg.PLATE_PART_MAP n) 0).setReg (Reg.PLATE_PART_RES n) 0).setReg (Reg.PLATE_PART_NEAR n) 0

/-- The refusal of an operation on a handle: not found, or owned by another (R198, R199). -/
def State.handleFault (s : State) (o : PlOp) : Nat :=
  match s.byPlHandle o.handle with
  | none => 0x14
  | some a => if o.req ≠ 0 ∧ plOwner o.req ≠ a.owner then 0x12 else 0

def plHandleFail (o : PlOp) (code : Nat) (s : State) : State :=
  plFinish o (plFail (fieldOf o.handle 18 16) (fieldOf o.handle 15 0) code) s

def plWithdrawDone (o : PlOp) (s : State) : State :=
  let c := s.handleFault o
  match s.byPlHandle o.handle with
  | none => plHandleFail o 0x14 s
  | some a =>
    if c ≠ 0 then plHandleFail o c s
    else if s.inUse a then plHandleFail o 0x13 s
    else
      let s1 := freeAdmitted a s
      plFinish o (s1.plOk o.req) s1

/-! ### Re-placement (R200) -/

/-- The registers of a context, as offsets in its window. -/
def contextRegs (k : Nat) : List Nat :=
  [Reg.LOOP_IRQ_EN k, Reg.LOOP_BANK k] ++ (List.range 4).map (Reg.LOOP_IN k) ++
    [Reg.LOOP_START k, Reg.LOOP_REF_SRC k, Reg.LOOP_GUARD k, Reg.LOOP_ANGLE k, Reg.LOOP_REF k 0, Reg.LOOP_REF k 1,
     Reg.LOOP_OBS_CTL k] ++ (List.range 192).map (Reg.LOOP_BANK_A k) ++ (List.range 192).map (Reg.LOOP_BANK_B k)

/-- Copy the configuration and the banks of context `a` to `b`. -/
def copyConfig (a b : Nat) (s : State) : State :=
  ((contextRegs a).zip (contextRegs b)).foldl (fun s x => s.setReg x.2 (s.reg x.1)) s

/-- Copy the settled state, the registers but for the banks, which have been written twice, with the events and counters, and
the maps with the ports they own (R200). -/
def copyLoopState (a b : Nat) (s : State) : State :=
  let rs (k : Nat) := (contextRegs k).take 13 ++ (List.range 36).map (Reg.LOOP_STATE k) ++
    (List.range 4).map (Reg.LOOP_OUTV k) ++ (List.range 4).map (Reg.LOOP_OUT_MAP k) ++
    [Reg.LOOP_OBS_PHASE k, Reg.LOOP_OBS_VEL k, Reg.LOOP_OBS_FREQ k, Reg.LOOP_OBS_ROCOF k, Reg.LOOP_STATUS k,
     Reg.LOOP_UPDATES k, Reg.LOOP_SPEC_CONFIRM k, Reg.LOOP_SPEC_RECOMPUTE k, Reg.LOOP_MISSED_HORIZON k, Reg.LOOP_FAULTS k]
  ((rs a).zip (rs b)).foldl (fun s x => s.setReg x.2 (s.reg x.1)) s

/-- The registers of a context at their reset values; its interrupt events go with them. -/
def clearContext (k : Nat) (s : State) : State :=
  let all := contextRegs k ++ (List.range 36).map (Reg.LOOP_STATE k) ++ (List.range 4).map (Reg.LOOP_OUTV k) ++
    (List.range 4).map (Reg.LOOP_PENDING_DUTY k) ++ (List.range 4).map (Reg.LOOP_OUT_MAP k) ++
    [Reg.LOOP_CTL k, Reg.LOOP_STATUS k, Reg.LOOP_UPDATES k, Reg.LOOP_SPEC_CONFIRM k, Reg.LOOP_SPEC_RECOMPUTE k,
     Reg.LOOP_MISSED_HORIZON k, Reg.LOOP_FAULTS k, Reg.LOOP_OBS_PHASE k, Reg.LOOP_OBS_VEL k, Reg.LOOP_OBS_FREQ k,
     Reg.LOOP_OBS_ROCOF k]
  (forEach all (fun a s => s.setReg a (resetOf a)) s).setCtx k {}

/-- The context of a loop's declaration becomes `k`, and loops that refer to it follow. -/
def retarget (key old new : Nat) (s : State) : State :=
  let adm := s.place.admitted.map fun a => if a.kind = 2 ∧ a.key = key then { a with place := new } else a
  let s1 := { s with place := { s.place with admitted := adm } }
  forEach (List.range 384) (fun k s =>
    let s2 := if s.bit (Reg.LOOP_REF_SRC k) 31 ∧ s.fld (Reg.LOOP_REF_SRC k) 8 0 = old then
      s.setFld (Reg.LOOP_REF_SRC k) 8 0 new else s
    forEach (List.range 4) (fun i s =>
      if fieldOf (s.loopIn k i) 30 29 = 3 ∧ fieldOf (s.loopIn k i) 8 0 = old then s.setFld (Reg.LOOP_IN k i) 8 0 new
      else s) s2) s1

/-- The spindle fed by the loop's observer follows the new context (R200). -/
def moveObserver (a : Admitted) (new : Nat) (s : State) : State :=
  if bitAt (a.word 15) 31 then
    let n := fieldOf (a.word 15) 7 0
    sourceWrite n false (withField (s.reg (Reg.SPN_SRC n)) 8 0 new) s
  else s

/-- The loop now runs, or rests, in context `new`, with what the old one held at the last; the old one is reset and free. -/
def finishMove (a : Admitted) (old new : Nat) (s : State) : State :=
  let s1 := copyLoopState old new (s.setReg (Reg.LOOP_CTL new) (s.loopCtl old))
  let s2 := setOwners (clearContext old s1)
  retarget a.key old new (moveObserver a new s2)

/-- The engines a re-placement may take: the one of PL_TARGET, or all but the present one (R200). -/
def State.replaceEngines (s : State) (o : PlOp) (a : Admitted) : List Nat :=
  let all := List.range (8 * sectorCount s.sys.variant)
  if bitAt o.target 31 then all.filter fun e => decide (e ≠ a.place / 8)
  else all.filter fun e => decide (e = fieldOf o.target 5 0)

/-- The engine of a value loop's partner, as it stands (R194). -/
def State.partnerEngine (s : State) (a : Admitted) : Option Nat :=
  a.partner.bind fun k => (s.admittedAs 2 k).map fun p => p.place / 8

/-- The refusal of a target engine: one that no part has, or that this part does not have (R2, R198). -/
def State.targetFault (s : State) (o : PlOp) : Nat :=
  if bitAt o.target 31 then 0
  else if 48 ≤ fieldOf o.target 5 0 then 0x02
  else if 8 * sectorCount s.sys.variant ≤ fieldOf o.target 5 0 then 0x01
  else 0

/-- PLACEMENT_DONE of a re-placement: a disabled context moves at once, an enabled one starts to wait for its quiet
point with its configuration copied (R200). -/
def plReplaceDone (o : PlOp) (s : State) : State :=
  let c := s.handleFault o
  match s.byPlHandle o.handle with
  | none => plHandleFail o 0x14 s
  | some a =>
    if c ≠ 0 then plHandleFail o c s
    else if a.kind ≠ 2 then plHandleFail o 0x02 s
    else if s.targetFault o ≠ 0 then plHandleFail o (s.targetFault o) s
    else
      match s.chooseEngine a.word none (s.partnerEngine a) (s.replaceEngines o a) with
      | .error c => plHandleFail o c s
      | .ok (new, cr) =>
        let adm := s.place.admitted.map fun x => if x = a then { a with crossings := cr, figure := latencyFigure a.word cr } else x
        let s0 := copyConfig a.place new s
        if s.loopEnabled a.place then
          { s0 with place := { s0.place with move := some { key := a.key, old := a.place, new := new } } }
        else
          let s1 := { s0 with place := { s0.place with admitted := adm } }
          let s2 := finishMove a a.place new (s1.setCtx new (s1.ctx a.place))
          plFinish o (s2.plOk o.req) s2

/-- The operation at the front of the queue completes (R193, R201). -/
def placementDoneEff (s : State) : State :=
  match s.place.ops with
  | [] => s
  | o :: _ =>
    if s.place.move.isSome then s
    else match o.op with
      | 1 => plCommitDone o s
      | 2 => plWithdrawDone o s
      | _ => plReplaceDone o s

def execPlacementDone (s : State) : Out := .next (if s.fclkOn then placementDoneEff s else s)

/-- Is this a cycle in which the context may be quiet: the period event of the group of its first pair, or any cycle
without pairs (R200)? -/
def State.quietCycle (s : State) (k : Nat) : Bool :=
  match s.ports k with
  | [] => true
  | x :: _ => s.pulsed (periodPulse (x.1 / 4)) 0

/-- A quiet point: the old context has nothing in flight and nothing queued; it stops issuing, the new one takes the
starts (R200). -/
def quietPointEff (s : State) : State :=
  match s.place.move with
  | none => s
  | some m =>
    let c := s.ctx m.old
    if m.quiet = false ∧ s.quietCycle m.old = true ∧ c.stage = .idle ∧ c.queued = [] then
      let s1 := copyLoopState m.old m.new s
      let s2 := (s1.setCtx m.old { c with stage := .leaving }).setCtx m.new { c with stage := .arriving }
      { s2 with place := { s2.place with move := some { m with quiet := true } } }
    else s

def execQuietPoint (s : State) : Out := .next (if s.fclkOn then quietPointEff s else s)

/-- The end of a move that does not happen: nothing has moved (R200). -/
def dropMove (code : Nat) (s : State) : State :=
  match s.place.move, s.place.ops with
  | some m, o :: _ => plHandleFail o code { setOwners (clearContext m.new s) with place := { s.place with move := none } }
  | _, _ => s

/-- 16 period events without a quiet point (R200). -/
def execQuietTimeout (s : State) : Out :=
  .next (match s.place.move with
    | some m => if s.fclkOn && !m.quiet then dropMove 0x15 s else s
    | none => s)

/-- The move ends, and the admitted loop takes the new engine's crossings and latency figure. -/
def endMove (m : PlMove) (a : Admitted) (s : State) : State :=
  let cr := crossingsAt a.word (s.partnerEngine a) (m.new / 8)
  let adm := s.place.admitted.map fun x => if x = a then { a with crossings := cr, figure := latencyFigure a.word cr } else x
  { s with place := { s.place with move := none, admitted := adm } }

/-- The start that waits in context `k` is issued. -/
def issueQueued (k : Nat) (s : State) : State :=
  match (s.ctx k).queued with
  | [] => s
  | start :: _ => issueWith k start s

/-- The switch of a move at its quiet point: the admitted loop takes the new engine's crossings, the new context the
queued start, bank request and misuse of the old one (R200). -/
def switchMove (m : PlMove) (o : PlOp) (a : Admitted) (s : State) : State :=
  let s1 := endMove m a s
  let c := s1.ctx m.old
  let s2 := finishMove a m.old m.new (s1.setCtx m.new { s1.ctx m.new with
    stage := .idle, bankWanted := c.bankWanted, spoiled := c.spoiled, bankBad := c.bankBad })
  plFinish o (s2.plOk o.req) (issueQueued m.new s2)

/-- At p + 97 the new context is enabled and issues the queued start; the observer and the duties follow (R200). -/
def replaceSwitchEff (s : State) : State :=
  match s.place.move, s.place.ops with
  | some m, o :: _ =>
    match m.quiet, s.admittedAs 2 m.key with
    | true, some a => switchMove m o a s
    | _, _ => s
  | _, _ => s

def execReplaceSwitch (s : State) : Out := .next (if s.fclkOn then replaceSwitchEff s else s)

/-- An abort of context `k`: a move of its loop ends with ABORTED, and the context that holds the loop parts (R200). -/
def abortLoop (k : Nat) (s : State) : State :=
  match s.place.move with
  | some m => if k = m.old ∨ k = m.new then partLoop m.old (dropMove 0x16 s) else partLoop k s
  | none => partLoop k s

/-! ### Query (R203) -/

def optNat (d : Nat) (o : Option Nat) : Nat := o.getD d

/-- PL_RES for an admitted declaration. -/
def State.plResWords (s : State) (a : Admitted) : List Word :=
  match a.kind with
  | 1 => [s.reg (Reg.PLATE_PART_MAP a.place), s.reg (Reg.PLATE_PART_RES a.place), toWord (a.quota % 2 ^ 19), 0, 0, 0, 0, 0]
  | 2 =>
    let adc := (List.range 4).foldl (fun n i => n + optNat 0x1F (a.adcs.getD i none) * 2 ^ (8 * i)) 0
    let ch (i : Nat) := optNat 0 (a.chans.getD i none)
    [toWord a.place, toWord (a.place / 64 * 256 + a.place / 8), toWord adc, toWord (ch 0 * 65536 + ch 1),
     toWord (ch 2 * 65536 + ch 3), toWord (a.crossings * 256 + a.figure),
     (match a.trigger with | some i => handleOf s i | none => 0), 0]
  | 3 => [toWord a.place, toWord (72 + a.place), s.reg (Reg.PLATE_PART_MAP (72 + a.place)),
          s.reg (Reg.PLATE_PART_RES (72 + a.place)), 0, 0, 0, 0]
  | _ =>
    let base := (a.mem.map (·.2.1)).headD 0
    [toWord base, toWord (a.place * 256 + base / 2 ^ 32), toWord (a.mem.foldl (fun n m => n + m.2.2 / 4096) 0), 0, 0, 0, 0, 0]

def plQueryOp (r : Nat) (h : Word) (s : State) : Word × State :=
  match s.byPlHandle h with
  | none => plResult r (plFail (fieldOf h 18 16) (fieldOf h 15 0) 0x14) s
  | some a =>
    let ws := s.plResWords a
    let s1 := forEach (List.range 8) (fun i s => s.setReg (plReg r (Reg.PL_RES i)) (ws.getD i 0)) s
    plResult r (s1.plOk r) s1

def execPlQuery (q : Requester) (s : State) : Out :=
  .next (if s.fclkOn then answerWith q (plQueryOp (reqIdx q) (s.reg (ownKey q Reg.PL_HANDLE)) s) else s)

end Sys2Proof.Machine
end

