-- ==== Sys2Proof/Machine/CoreBase.lean ====
section
/-! DEFINITION. The cores' registers (spec/09), the memory map (R22, R24), translation (R257 to R261), the L1 data caches
and store buffers (R240 to R243), as operations that need no device register. -/

namespace Sys2Proof.Machine

/-- The tailstock core's number among the cores. -/
def tsCore : Nat := 16

def State.core (s : State) (c : Nat) : Core := tabGet {} c s.cores
def State.setCore (s : State) (c : Nat) (x : Core) : State := { s with cores := tabSet {} c x s.cores }

/-- The requester that core `c` is (R32). -/
def coreRequester (c : Nat) : Requester := if c < 16 then .core (Fin.ofNat 16 c) else .tailstock

/-- Does core `c` execute: present, powered, released and not halted; the tailstock core out of power-on reset
(R2, R19, R256, R459)? -/
def State.coreRuns (s : State) (c : Nat) : Bool :=
  !(s.core c).halted &&
    (if c < 16 then s.coreOn c && s.bit Reg.GCTL_CORE_REL c else s.sys.powerGood && decide (s.sys.phase ≠ .off))

/-! ### General and control registers (R204 to R207) -/

/-- General register `r`; g0 reads zero (R204). -/
def State.greg (s : State) (c r : Nat) : Word := if r = 0 then 0 else tabGet 0 r (s.core c).g

/-- Write general register `r`; a write to g0 is discarded (R204). -/
def setGreg (c r : Nat) (v : Word) (s : State) : State :=
  if r = 0 then s
  else s.setCore c { s.core c with g := tabSet 0 r v (s.core c).g, wrote := r :: (s.core c).wrote }

/-- Control registers (R205). -/
def crSTATUS : Nat := 0x00
def crESTATUS : Nat := 0x01
def crEPC : Nat := 0x02
def crECAUSE : Nat := 0x03
def crEADDR : Nat := 0x04
def crENPC : Nat := 0x05
def crVBASE : Nat := 0x06
def crSTKLIM : Nat := 0x07
def crESTK : Nat := 0x08
def crCYCLE_LO : Nat := 0x11
def crCYCLE_HI : Nat := 0x12
def crASID : Nat := 0x20
def crPTBASE : Nat := 0x21
def crLSTART (i : Nat) : Nat := 0x40 + i
def crLEND (i : Nat) : Nat := 0x44 + i
def crLCOUNT (i : Nat) : Nat := 0x48 + i
def crCRCPOLY : Nat := 0x50
def crCRCCFG : Nat := 0x51
def crMACC_LO : Nat := 0x60
def crMACC_HI : Nat := 0x61
def crCP0_FLAGS : Nat := 0x62

/-- Registers for supervisor mode only (R205). -/
def crSupervisor (n : Nat) : Bool := decide (n ≤ 0x0A) || decide (0x20 ≤ n ∧ n ≤ 0x21) || decide (0x100 ≤ n)

/-- The bits of a control register that a write reaches (R205, R206, R247, R261); 0 for a read-only one. -/
def crMask (n : Nat) : Word :=
  match n with
  | 0x00 => 0x0000F01F
  | 0x01 => 0x0000F01F
  | 0x03 => 0x00FFFFFF
  | 0x10 => 0
  | 0x11 => 0
  | 0x12 => 0
  | 0x20 => 0x000000FF
  | 0x21 => 0x07FFFFFF
  | 0x62 => 0x00000001
  | _ => if n < 0x100 then 0xFFFFFFFF else if n % 2 = 0 then 0xFFFFF000 else 0xFFFFF01F

/-- A control register's value at core reset (R205). -/
def crReset (n : Nat) : Word := if n = 0 then 0x9 else 0

/-- The value held by a control register. -/
def State.cr (s : State) (c n : Nat) : Word := tabGet (crReset n) n (s.core c).cr
def setCr (c n : Nat) (v : Word) (s : State) : State :=
  s.setCore c { s.core c with cr := tabSet (crReset n) n v (s.core c).cr }

/-- FCLK cycles since core reset (R205). -/
def State.coreCycles (s : State) (c : Nat) : DWord := s.devTimer - (s.core c).cycle0

/-- What CRD returns; CYCLE is a read-latched pair (R34, R205). -/
def readCr (c n : Nat) (s : State) : Word × State :=
  if n = 0x10 then (if c < 16 then toWord c else 0x80000000, s)
  else if n = crCYCLE_LO then
    (lowWord (s.coreCycles c), s.setCore c { s.core c with cycleHi := highWord (s.coreCycles c) })
  else if n = crCYCLE_HI then ((s.core c).cycleHi, s)
  else (s.cr c n, s)

/-- The control registers that a write reaches (R205, R404). -/
def crNumbers (c : Nat) : List Nat :=
  (List.range 0x120).filter fun n => crListed c n && decide (crMask n ≠ 0)

/-- Undefined results for the core (R215, R226, R259): its general and control registers, and where it goes on, are open. -/
def spoilCore (c : Nat) (s : State) : State :=
  let s1 := forEach (List.range 31) (fun i s => setGreg c (i + 1) (takeFree 32 s).1 (takeFree 32 s).2) s
  let s2 := forEach (crNumbers c) (fun n s => setCr c n ((takeFree 32 s).1 &&& crMask n) (takeFree 32 s).2) s1
  let a := takeFree 32 s2
  let b := takeFree 32 a.2
  let d := takeFree 1 b.2
  d.2.setCore c { d.2.core c with pc := a.1, npc := b.1, slot := d.1.getLsbD 0, load := none, wrote := [] }

/-- Mode and enables (R206). -/
def State.supervisor (s : State) (c : Nat) : Bool := bitAt (s.cr c crSTATUS) 0
def State.intEnabled (s : State) (c : Nat) : Bool := bitAt (s.cr c crSTATUS) 1
def State.translating (s : State) (c : Nat) : Bool := bitAt (s.cr c crSTATUS) 2
def State.loopBack (s : State) (c : Nat) : Bool := bitAt (s.cr c crSTATUS) 3
def State.copUser (s : State) (c : Nat) : Bool := bitAt (s.cr c crSTATUS) 4
def State.asid (s : State) (c : Nat) : Nat := fieldOf (s.cr c crASID) 7 0

/-! ### The memory map (R22, R24) -/

/-- What stands at a physical address, with the key of its first byte in `State.mem`. -/
inductive Region where
  | tcm (n : Nat) | scratch (b : Nat) | device | dram | tsRam | rom | none
  deriving DecidableEq, Repr

/-- Installed DRAM in 256 MiB units, and the first byte after the mapped part (R284, R430). -/
def State.dramUnits (s : State) : Nat := s.fld Reg.MC_SIZE 7 0
def State.dramEnd (s : State) : Nat := 0x0800000000 + s.dramUnits * 0x10000000 / 32 * 31

/-- The region of a physical address seen by core `c`, or by a device master (`none`), and the address in memory. -/
def State.region (s : State) (c : Option Nat) (pa : Nat) : Region × Nat :=
  if c = some tsCore ∧ pa < 0x20000 then (.rom, tsBase + pa)
  else if c = some tsCore ∧ 0x10000000 ≤ pa ∧ pa < 0x10080000 then (.tsRam, tsBase + pa)
  else if 0x10000000 ≤ pa ∧ pa < 0x10040000 ∧ c ≠ some tsCore then
    match c with
    | some n => (.tcm n, 0x20000000 + n * 0x100000 + (pa - 0x10000000))
    | Option.none => (.none, pa)
  else if 0x20000000 ≤ pa ∧ pa < 0x21000000 then
    let n := (pa - 0x20000000) / 0x100000
    if pa % 0x100000 < 0x40000 ∧ s.coreOn n = true then (.tcm n, pa) else (.none, pa)
  else if 0x40000000 ≤ pa ∧ pa < 0x41000000 then (.scratch ((pa - 0x40000000) / 0x80000), pa)
  else if 0x80000000 ≤ pa ∧ pa < 0x81400000 then (.device, pa)
  else if 0x0800000000 ≤ pa ∧ pa < s.dramEnd then (.dram, pa)
  else (.none, pa)

/-- Is the address in the device region, mapped or not (R22)? -/
def inDevice (pa : Nat) : Bool := decide (0x80000000 ≤ pa ∧ pa < 0x90000000)

def State.bankAwake (s : State) (b : Nat) : Bool := s.bit (Reg.SB_CTL b) 30

/-- Does bank `b` accept an access of core `c` (R280)? -/
def State.bankAccepts (s : State) (b c : Nat) : Bool :=
  s.bankAwake b && (decide (c = tsCore) || decide (s.bankOwner b = (0, c)))

/-- Does bank `b` accept an access of a master with this owner kind and number (R280)? -/
def State.bankAcceptsFrom (s : State) (b kind num : Nat) : Bool :=
  s.bankAwake b && decide ((s.bankOwner b).1 = kind) && (decide (2 < kind) || decide ((s.bankOwner b).2 = num))

/-- A write to memory by another requester takes the reservations of its granules away (R218). -/
def dropReservations (who : Option Nat) (a n : Nat) (s : State) : State :=
  { s with cores := s.cores.map fun x =>
      match x.2.resv with
      | some g => if some x.1 ≠ who ∧ decide (a / 64 ≤ g ∧ g ≤ (a + n - 1) / 64) then (x.1, { x.2 with resv := none }) else x
      | none => x }

/-- Does request `r` of core `c` use a byte of the `n` at `a` in the core's own TCM? -/
def DictReq.uses (r : DictReq) (c a n : Nat) : Bool :=
  let b := 0x20000000 + c * 0x100000 + r.buf
  decide (r.who = 5 + c) && decide (a < b + r.len) && decide (b < a + n)

/-- A core that writes the buffer of its dictionary request while busy = 1 misuses it (R405). -/
def requestTouched (who : Option Nat) (a n : Nat) (s : State) : State :=
  match who with
  | none => s
  | some c =>
    if s.bit (Reg.TSM_DICT_STATUS c) 31 && decide (c < 16) then
      let mark (r : DictReq) : DictReq := if r.uses c a n then { r with spoiled := true } else r
      { s with dict := { s.dict with queue := s.dict.queue.map mark, answered := s.dict.answered.map fun x => (mark x.1, x.2) } }
    else s

/-- Does the address in memory lie in the tailstock's boot ROM, which no write changes (R22)? -/
def inBootRom (a : Nat) : Bool := decide (tsBase ≤ a ∧ a < tsBase + 0x20000)

/-- Bytes reach memory at L2 or in their bank: the point of coherence (R277). The boot ROM keeps what it holds (R22); the
plate's store and mirror are not to be written (R93), nor is the buffer of a core's request (R405). -/
def memWrite (who : Option Nat) (a : Nat) (bs : List Byte) (s : State) : State :=
  if inBootRom a then s
  else requestTouched who a bs.length (storeTouched a bs.length (dropReservations who a bs.length (s.store a bs)))

/-! ### Translation (R257 to R260) -/

/-- The rights of an access (R260). -/
inductive Access where
  | fetch | load | store
  deriving DecidableEq, Repr

/-- The reserved bits and type of a descriptor (R258): the detail of its fault, if any. -/
def descBad (d : DWord) (leafLevel2 : Bool) : Option Nat :=
  let n := d.toNat
  if n % 2 = 0 then some 0
  else if 2 ^ 40 ≤ n ∨ n / 2 ^ 9 % 8 ≠ 0 then some 2
  else if leafLevel2 then
    if n / 2 % 2 = 0 ∨ n / 2 ^ 7 % 4 = 3 then some 2 else none
  else if n / 2 % 2 = 1 then (if n / 2 ^ 12 % 2 ^ 10 ≠ 0 ∨ n / 2 ^ 7 % 4 = 3 then some 2 else none)
  else if n / 2 ^ 12 % 2 = 1 then some 2 else none

/-- The 8 bytes of a descriptor as the walker reads them at L2 (R259). -/
def State.descAt (s : State) (a : Nat) : DWord := BitVec.ofNat 64 (s.load a 8)

/-- Does the walker, which sees L2 and DRAM only, find a descriptor at the address (R18, R24, R259)? -/
def State.walkReads (s : State) (a : Nat) : Bool := s.dramOn && decide ((s.region none a).1 = .dram)

/-- In place of a detail: the walk ends in a bus error, and so does one that reads data that fails detection (log entry 35). -/
def walkBus : Nat := 16

/-- Walk the two levels from the table at `base` (R258): the detail of the fault, or the leaf, and whether it is a
section. -/
def State.walk (s : State) (base va : Nat) : Except Nat (DWord × Bool) :=
  let a1 := base + va / 2 ^ 22 * 8
  let d1 := s.descAt a1
  if !s.walkReads a1 then .error walkBus
  else match descBad d1 false with
  | some k => .error k
  | none =>
    if d1.toNat / 2 % 2 = 1 then .ok (d1, true)
    else
      let a2 := d1.toNat / 2 ^ 13 % 2 ^ 27 * 2 ^ 13 + va / 2 ^ 12 % 2 ^ 10 * 8
      let d2 := s.descAt a2
      if !s.walkReads a2 then .error walkBus
      else match descBad d2 true with
      | some k => .error k
      | none => .ok (d2, false)

/-- The descriptor at which a walk meets data that fails detection (R432). -/
def State.walkPoison (s : State) (base va : Nat) : Option Nat :=
  let a1 := base + va / 2 ^ 22 * 8
  let d1 := (s.descAt a1).toNat
  let a2 := d1 / 2 ^ 13 % 2 ^ 27 * 2 ^ 13 + va / 2 ^ 12 % 2 ^ 10 * 8
  if !s.walkReads a1 then none
  else if s.readsPoison a1 8 then some a1
  else if d1 % 4 = 1 ∧ s.walkReads a2 = true ∧ s.readsPoison a2 8 = true then some a2
  else none

/-- A machine check to the tailstock for what a walk finds failing (R432). -/
def walkCheck (base va : Nat) (s : State) : State :=
  match s.walkPoison base va with
  | some a => postCheck none 3 (unitOf a) (countPoisoned s)
  | none => s

/-- The address that a leaf gives (R258). -/
def descPa (d : DWord) (section_ : Bool) (va : Nat) : Nat :=
  if section_ then d.toNat / 2 ^ 22 % 2 ^ 18 * 2 ^ 22 + va % 2 ^ 22 else d.toNat / 2 ^ 12 % 2 ^ 28 * 2 ^ 12 + va % 2 ^ 12

/-- The memory type of a leaf. -/
def descType (d : DWord) : MemType :=
  match d.toNat / 2 ^ 7 % 4 with
  | 0 => .cached
  | 1 => .uncached
  | _ => .device

/-- The rights of a leaf (R260): the detail of the fault, if any. -/
def descRights (d : DWord) (user : Bool) (acc : Access) : Option Nat :=
  let n := d.toNat
  let right : Bool := match acc with
    | .fetch => decide (n / 16 % 2 = 1)
    | .load => decide (n / 4 % 2 = 1)
    | .store => decide (n / 8 % 2 = 1)
  if !right || (user && decide (n / 32 % 2 = 0)) || (decide (acc = .fetch) && decide (n / 2 ^ 7 % 4 = 2)) then some 1
  else none

/-- Does a TLB entry match the address in the present address space (R259)? -/
def tlbMatches (asid va : Nat) (e : TlbEntry) : Bool :=
  (decide (e.asid = asid) || decide (e.desc.toNat / 64 % 2 = 1)) &&
    (if e.section_ then decide (e.va = va / 2 ^ 22) else decide (e.va = va / 2 ^ 12))

/-- Put an entry into the TLB; a full one loses an entry that is left open (R259). -/
def tlbInsert (c : Nat) (e : TlbEntry) (s : State) : State :=
  let x := s.core c
  if x.tlb.length < 64 then s.setCore c { x with tlb := x.tlb ++ [e] }
  else
    let f := takeFree 6 s
    f.2.setCore c { x with tlb := x.tlb.eraseIdx f.1.toNat ++ [e] }

/-- The result of a translation: a fault's detail, or physical address and type. -/
abbrev Translated := Except Nat (Nat × MemType)

/-- The tailstock's MPU (R404): the rights of the lowest-numbered enabled region that contains the address; without one,
none in user mode and every one in supervisor mode. -/
def State.mpuRights (s : State) (va : Nat) (acc : Access) : Bool :=
  let attr (i : Nat) : Word := s.cr tsCore (0x101 + 2 * i)
  let covers (i : Nat) : Bool :=
    bitAt (attr i) 0 && decide (fieldOf (s.cr tsCore (0x100 + 2 * i)) 31 12 ≤ va / 4096 ∧ va / 4096 ≤ fieldOf (attr i) 31 12)
  let user := !s.supervisor tsCore
  match (List.range 16).find? covers with
  | none => !user
  | some i =>
    (match acc with
      | .fetch => bitAt (attr i) 4
      | .load => bitAt (attr i) 2
      | .store => bitAt (attr i) 3) && (!user || bitAt (attr i) 1)

/-- Translate `va` for core `c` (R257, R259, R260): through the TLB, or by a walk that fills it. Two matching entries give
undefined results for the core, and the address is open. The tailstock core has no page tables (R404): its 32-bit
addresses reach no DRAM, which lies above them (R22; log entry 68). -/
def translate (c : Nat) (va : Word) (acc : Access) (s : State) : Translated × State :=
  let v := va.toNat
  if !s.translating c then (.ok (v, .cached), s)
  else if 16 ≤ c then (if s.mpuRights v acc then .ok (v, .cached) else .error 1, s)
  else
    let user := !s.supervisor c
    match (s.core c).tlb.filter (tlbMatches (s.asid c) v) with
    | [e] =>
      (match descRights e.desc user acc with
        | some k => (.error k, s)
        | none => (.ok (descPa e.desc e.section_ v, descType e.desc), s))
    | [] =>
      let base := fieldOf (s.cr c crPTBASE) 26 0 * 2 ^ 13
      (match (if (s.walkPoison base v).isSome then .error walkBus else s.walk base v) with
        | .error k => (.error k, walkCheck base v s)
        | .ok (d, sec) =>
          match descRights d user acc with
          | some k => (.error k, s)
          | none =>
            (.ok (descPa d sec v, descType d),
             tlbInsert c { va := if sec then v / 2 ^ 22 else v / 2 ^ 12, section_ := sec, asid := s.asid c, desc := d } s))
    | _ =>
      let f := takeFree 40 (spoilCore c s)
      (.ok (f.1.toNat, .uncached), f.2)

/-- The type that governs the access: the region decides over the descriptor (R260). -/
def typeAt (r : Region) (t : MemType) : MemType :=
  match r with
  | .device => .device
  | .dram => t
  | _ => .uncached

/-! ### Checks before an access (R243, R247, R248, R253) -/

/-- An exception to be taken: code, detail, upper half, address (R246, R247). -/
structure Exc where
  code : Nat
  detail : Nat := 0
  upper : Bool := false
  eaddr : Word := 0
  deriving DecidableEq, Repr

/-- The parts into which a core splits `n` bytes at `va`: at the next 8-byte boundary (R243). -/
def splitParts (va : Word) (n : Nat) : List (Word × Nat) :=
  if va.toNat % 8 + n ≤ 8 then [(va, n)]
  else [(va, 8 - va.toNat % 8), (va + toWord (8 - va.toNat % 8), n - (8 - va.toNat % 8))]

/-- Does a part of an access end in a precise bus error (R24, R253)? A scratch bank, or DRAM without its
PLL (R18), refuses a load precisely. -/
def State.busFault (s : State) (c : Nat) (acc : Access) (pa : Nat) : Bool :=
  match (s.region (some c) pa).1 with
  | .none => true
  | .scratch b => decide (acc ≠ .store) && !s.bankAccepts b c
  | .dram => decide (acc ≠ .store) && !s.dramOn
  | _ => false

/-- Translate every part, keeping each result. -/
def translateParts (c : Nat) (acc : Access) : List (Word × Nat) → State → List (Word × Nat × Translated) × State
  | [], s => ([], s)
  | (va, n) :: r, s =>
    let t := translate c va acc s
    let u := translateParts c acc r t.2
    ((va, n, t.1) :: u.1, u.2)

/-- The code of a translation fault (R246). -/
def faultCode : Access → Nat
  | .fetch => 2
  | .load => 3
  | .store => 4

/-- The exception of a translation that fails with detail `k` at `va` (R246); a walk that ends in a bus error raises
that (R18, R24). -/
def faultExc (acc : Access) (k : Nat) (up : Bool) (va : Word) : Exc :=
  if k = walkBus then { code := 6, upper := up, eaddr := va } else { code := faultCode acc, detail := k, upper := up, eaddr := va }

/-- The first translation fault of the parts, lower half first. -/
def firstFault (acc : Access) : List (Word × Nat × Translated) → Bool → Option Exc
  | [], _ => none
  | (va, _, .error k) :: _, up => some (faultExc acc k up va)
  | _ :: r, _ => firstFault acc r true

/-- The first bus error of the parts. -/
def State.firstBusFault (s : State) (c : Nat) (acc : Access) : List (Word × Nat × Translated) → Bool → Option Exc
  | [], _ => none
  | (va, _, .ok (pa, _)) :: r, up =>
    if s.busFault c acc pa then some { code := 6, upper := up, eaddr := va } else s.firstBusFault c acc r true
  | _ :: r, _ => s.firstBusFault c acc r true

/-- The parts as the memory takes them: virtual address, address in memory, length, type. -/
def State.resolved (s : State) (c : Nat) (ps : List (Word × Nat × Translated)) : List (Word × Nat × Nat × MemType) :=
  ps.filterMap fun p =>
    match p.2.2 with
    | .ok (pa, t) => some (p.1, (s.region (some c) pa).2, p.2.1, typeAt (s.region (some c) pa).1 t)
    | .error _ => none

/-- Check an access of `n` bytes at `va`: alignment in the device region, translation, bus error, in that order
(R243, R248). -/
def checkAccess (c : Nat) (va : Word) (n : Nat) (acc : Access) (s : State) :
    Except Exc (List (Word × Nat × Nat × MemType)) × State :=
  let ts := translateParts c acc (splitParts va n) s
  let dev := ts.1.any fun p => match p.2.2 with
    | .ok (pa, _) => inDevice pa
    | .error _ => false
  if va.toNat % n ≠ 0 ∧ dev ∧ acc ≠ .fetch then (.error { code := 5, eaddr := va }, ts.2)
  else
    match firstFault acc ts.1 false with
    | some e => (.error e, ts.2)
    | none =>
      match ts.2.firstBusFault c acc ts.1 false with
      | some e => (.error e, ts.2)
      | none => (.ok (ts.2.resolved c ts.1), ts.2)

/-! ### The L1 data cache (R239, R240) -/

/-- The line of core `c` that holds address `a`. -/
def State.l1Line (s : State) (c a : Nat) : Option L1Line := (s.core c).l1d.find? fun l => decide (l.addr = a / 64 * 64)

/-- Write a dirty line to L2 (R219, R277); what fails detection in it stays failing (R431). -/
def writeBack (c : Nat) (l : L1Line) (s : State) : State :=
  if !l.dirty then s
  else
    let s1 := memWrite (some c) l.addr l.data s
    if l.bad = 0 then s1 else poisonUnit l.addr s1

/-- Remove core `c`'s line of address `a`. -/
def dropLine (c a : Nat) (s : State) : State :=
  s.setCore c { s.core c with l1d := (s.core c).l1d.filter fun l => decide (l.addr ≠ a / 64 * 64) }

/-- Put a line into the cache. -/
def putLine (c : Nat) (l : L1Line) (s : State) : State :=
  let s1 := dropLine c l.addr s
  s1.setCore c { s1.core c with l1d := l :: (s1.core c).l1d }

/-- Make the line of `a` present: a set of four full ways gives up a line that is left open, written back if dirty
(R240). -/
def l1Fill (c a : Nat) (s : State) : State :=
  if (s.l1Line c a).isSome then s
  else
    let mine := (s.core c).l1d.filter fun l => decide (l.addr / 64 % 128 = a / 64 % 128)
    let f := takeFree 2 s
    let s1 := if mine.length < 4 then s
      else match mine[f.1.toNat]? with
        | some l => dropLine c l.addr (writeBack c l f.2)
        | none => f.2
    putLine c { addr := a / 64 * 64, data := s1.bytes (a / 64 * 64) 64
                bad := if s1.readsPoison (a / 64 * 64) 64 then 0xFF else 0 } s1

/-- Store the bytes of one 8-byte word into the line of `a`, filling it first (R239): a poisoned line that the fill reads is
a machine check to the core, and eight bytes make their word whole (R431, R432). -/
def l1Store (c a : Nat) (cells : List (Nat × Byte)) (s : State) : State :=
  let fresh : Bool := (s.l1Line c a).isNone
  let s1 := l1Fill c a s
  match s1.l1Line c a with
  | none => s1
  | some l =>
    let s2 := if fresh && decide (l.bad ≠ 0) then postCheck (some c) 3 (a / 64 * 64) (countPoisoned s1) else s1
    let bad := if cells.length = 8 then l.bad &&& ~~~(BitVec.ofNat 8 (1 <<< (a % 64 / 8))) else l.bad
    putLine c { l with data := cells.foldl (fun d x => d.set (x.1 % 64) x.2) l.data, dirty := true, bad := bad } s2

/-- Clean a line, clean every line (R219). -/
def l1Clean (c a : Nat) (s : State) : State :=
  match s.l1Line c a with
  | none => s
  | some l => putLine c { l with dirty := false } (writeBack c l s)

def l1CleanAll (c : Nat) (s : State) : State :=
  ((s.core c).l1d.map (·.addr)).foldl (fun s a => l1Clean c a s) s

/-! ### The store buffer (R241, R242) -/

/-- Bytes from an address on, as cells. -/
def cellsFrom (a : Nat) : List Byte → List (Nat × Byte)
  | [] => []
  | b :: bs => (a, b) :: cellsFrom (a + 1) bs

/-- Does an entry hold the byte at `a`? -/
def StoreEntry.holds (e : StoreEntry) (a : Nat) : Bool := e.cells.any fun x => decide (x.1 = a)

/-- Do `n` bytes at `a` overlap an entry? -/
def StoreEntry.overlaps (e : StoreEntry) (a n : Nat) : Bool := (List.range n).any fun i => e.holds (a + i)

/-- Does an entry hold all `n` bytes at `a`? -/
def StoreEntry.covers (e : StoreEntry) (a n : Nat) : Bool := (List.range n).all fun i => e.holds (a + i)

/-- May a store merge into the newest entry: the same 8-byte granule of normal cacheable memory (R241)? -/
def StoreEntry.merges (e : StoreEntry) (a n : Nat) (t : MemType) : Bool :=
  decide (e.mtype = .cached ∧ t = .cached) && decide ((a + n - 1) / 8 = a / 8) &&
    e.cells.all fun x => decide (x.1 / 8 = a / 8)

/-- The merged entry: the newer bytes stand. -/
def StoreEntry.merge (e : StoreEntry) (a : Nat) (bs : List Byte) : StoreEntry :=
  { e with cells := (cellsFrom a bs).foldl (fun cs x => tabInsert x.1 x.2 (tabErase x.1 cs)) e.cells }

/-- Does the buffer have room for `k` more entries (R241)? -/
def State.sbRoom (s : State) (c k : Nat) : Bool := decide ((s.core c).sb.length + k ≤ 8)

/-- Put a store into the buffer: merged into the newest entry, or a new one (R241). -/
def sbPush (c : Nat) (a : Nat) (bs : List Byte) (t : MemType) (va : Word) (s : State) : State :=
  let x := s.core c
  match x.sb.getLast? with
  | some e =>
    if e.merges a bs.length t then s.setCore c { x with sb := x.sb.dropLast ++ [e.merge a bs] }
    else s.setCore c { x with sb := x.sb ++ [{ cells := cellsFrom a bs, mtype := t, va := va }] }
  | none => s.setCore c { x with sb := [{ cells := cellsFrom a bs, mtype := t, va := va }] }

/-- How many of the oldest entries must drain before a load of `n` bytes at `a` (R242): none where the newest
overlapping entry holds all of it. -/
def sbMustDrain (sb : List StoreEntry) (a n : Nat) : Nat :=
  match (sb.zipIdx.filter fun e => e.1.overlaps a n).getLast? with
  | none => 0
  | some e => if e.1.covers a n then 0 else e.2 + 1

/-- The bytes forwarded from the newest overlapping entry that holds all of them (R242). -/
def sbForward (sb : List StoreEntry) (a n : Nat) : Option (List Byte) :=
  match (sb.filter fun e => e.overlaps a n).getLast? with
  | some e => if e.covers a n then some ((List.range n).map fun i => tabGet 0 (a + i) e.cells) else none
  | none => none

/-- The bytes that the core sees at `a` beyond its store buffer: L1 for cached memory, else the target. -/
def State.coreBytes (s : State) (c a n : Nat) (t : MemType) : List Byte :=
  match t, s.l1Line c a with
  | .cached, some l =>
    if a % 64 + n ≤ 64 then (l.data.drop (a % 64)).take n else s.bytes a n
  | _, _ => s.bytes a n

end Sys2Proof.Machine
end

