-- ==== Sys2Proof/Machine/Aic.lean ====
section
/-! DEFINITION. Interrupt delivery (spec/11): source lines, presentation, claim, completion, hold-off groups, and the
tailstock's controller. -/

namespace Sys2Proof.Machine

def State.aicCore (s : State) (c : Nat) : AicCore := tabGet {} c s.aic
def State.setAicCore (s : State) (c : Nat) (x : AicCore) : State := { s with aic := tabSet {} c x s.aic }

/-! ### Source lines (R262, R263) -/

/-- Is an enabled bit of a status register set? -/
def State.lineOf (s : State) (st en : Nat) : Bool := decide (s.reg st &&& s.reg en ≠ 0)

/-- The memory controller's line: MC_STATUS under MC_IRQ_EN[2:0], or a mailbox event under MC_IRQ_EN[4:3] (R299). -/
def State.mcLine (s : State) : Bool :=
  decide (s.fld Reg.MC_STATUS 2 0 &&& s.fld Reg.MC_IRQ_EN 2 0 ≠ 0) ||
    decide (s.fld Reg.SB_MBX_STATUS 1 0 &&& s.fld Reg.MC_IRQ_EN 4 3 ≠ 0)

/-- The hardware line of shared source `n`; a number without one has none (R262). -/
def State.sharedLine (s : State) (n : Nat) : Bool :=
  if 256 ≤ n ∧ n < 410 then s.lineOf (Reg.SPN_STATUS (n - 256)) (Reg.SPN_IRQ_EN (n - 256))
  else if 512 ≤ n ∧ n < 576 then s.lineOf (Reg.GT_STATUS (n - 512)) (Reg.GT_IRQ_EN (n - 512))
  else if 640 ≤ n ∧ n < 794 then s.lineOf (Reg.PLATE_PART_STATUS (n - 640)) (Reg.PLATE_PART_IRQ_EN (n - 640))
  else if n = 800 then s.lineOf Reg.PLATE_STATUS Reg.PLATE_IRQ_EN
  else if 832 ≤ n ∧ n < 838 then s.lineOf (Reg.AFE_STATUS (n - 832)) (Reg.AFE_IRQ_EN (n - 832))
  else if 896 ≤ n ∧ n < 1280 then s.lineOf (Reg.LOOP_STATUS (n - 896)) (Reg.LOOP_IRQ_EN (n - 896))
  else if 1280 ≤ n ∧ n < 1304 then s.lineOf (Reg.PWM_GRP_STATUS (n - 1280)) (Reg.PWM_IRQ_EN (n - 1280))
  else if 1312 ≤ n ∧ n < 1360 then decide (n - 1312 < 8 * sectorCount s.sys.variant) && s.zoneTrips (n - 1312)
  else if 1408 ≤ n ∧ n < 1472 then s.lineOf (Reg.DMA_CH_STATUS (n - 1408)) (Reg.DMA_CH_IRQ_EN (n - 1408))
  else if n = 1472 then decide (s.fld Reg.DMA_ENG_STATUS 1 0 ≠ 0)
  else if n = 1473 then s.bit Reg.IOMMU_IRQ_EN 0 && (List.range 256).any fun k => s.bit (Reg.IOMMU_ST_FSTAT k) 31
  else if 1536 ≤ n ∧ n < 2048 then s.lineOf (Reg.CON_STATUS (n - 1536)) (Reg.CON_IRQ_EN (n - 1536))
  else if n = 2048 then s.lineOf Reg.CON_GLB_STATUS Reg.CON_GLB_IRQ_EN
  else if n = 2056 ∨ n = 2057 then s.lineOf (Reg.HD_STATUS (n - 2056)) (Reg.HD_IRQ_EN (n - 2056))
  else if n = 2058 then s.lineOf (Reg.DP_STATUS 0) (Reg.DP_IRQ_EN 0) || s.lineOf (Reg.DP_STATUS 1) (Reg.DP_IRQ_EN 1)
  else if n = 2064 then s.lineOf Reg.MV_STATUS Reg.MV_IRQ_EN
  else if n = 2080 then s.lineOf Reg.AUD_STATUS Reg.AUD_IRQ_EN
  else if 2081 ≤ n ∧ n < 2085 then decide (s.reg (Reg.TDM_STATUS (n - 2081)) ≠ 0)
  else if n = 2112 ∨ n = 2113 then s.lineOf (Reg.HP_ALERT_CAUSE (n - 2112)) (Reg.HP_ALERT_EN (n - 2112))
  else if 2128 ≤ n ∧ n < 2136 then s.lineOf (Reg.CV_STATUS (n - 2128)) (Reg.CV_IRQ_EN (n - 2128))
  else if 2144 ≤ n ∧ n < 2304 then
    decide ((s.reg (Reg.GPIO_INT_STAT ((n - 2144) / 16)) &&& s.reg (Reg.GPIO_INT_EN ((n - 2144) / 16))).getLsbD
      ((n - 2144) % 16) = true)
  else if n = 2304 then s.mcLine
  else if 2320 ≤ n ∧ n < 2324 then s.lineOf (Reg.CAN_STATUS (n - 2320)) (Reg.CAN_IRQ_EN (n - 2320))
  else if n = 2324 ∨ n = 2325 then decide (s.fld (Reg.ETH_STATUS (n - 2324)) 2 0 ≠ 0)
  else false

/-! ### Presentation (R264 to R266) -/

/-- A source by its claim-word kind and number (R276): 0 shared, 1 private of core `c`. -/
def srcReg (c kind n : Nat) : Nat := if kind = 1 then Reg.AIC_PRIV c n else Reg.AIC_SRC n

/-- Is the source pending (R264)? -/
def State.srcPending (s : State) (c kind n : Nat) : Bool :=
  s.bit (srcReg c kind n) 29 || (decide (kind = 0) && s.sharedLine n)

/-- The cores that can be presented anything: present, powered, not halted (R266). -/
def State.targetUsable (s : State) (c : Nat) : Bool := s.coreOn c && !(s.core c).halted

/-- A shared source whose target is absent, powered off or halted (R266). -/
def State.srcStuck (s : State) (n : Nat) : Bool :=
  s.srcPending 0 0 n && !s.targetUsable (s.fld (Reg.AIC_SRC n) 3 0)

/-- The word of AIC_SRC or AIC_PRIV with its live bits (R275). -/
def State.srcWord (s : State) (c kind n : Nat) : Word :=
  withBit (withBit (s.reg (srcReg c kind n)) 30 (s.srcPending c kind n)) 27 (decide (kind = 0) && s.srcStuck n)

/-- Is the group of the source held (R271)? -/
def State.srcHeld (s : State) (a : Nat) : Bool := s.bit a 15 && s.bit (Reg.AIC_GRP_STAT (s.fld a 14 8)) 31

/-- May the source be presented to core `c` (R265)? -/
def State.presentable (s : State) (c kind n : Nat) : Bool :=
  let a := srcReg c kind n
  let lvl := s.fld a 19 16
  s.bit a 31 && !s.bit a 28 && (decide (kind = 1) || decide (s.fld a 3 0 = c)) && !s.srcHeld a &&
    decide (s.fld (Reg.AIC_THRESH c) 3 0 ≤ lvl) &&
    (match (s.aicCore c).stack with
     | [] => true
     | t :: _ => decide (t.1 < lvl)) &&
    s.srcPending c kind n

/-- The claim word of a source (R276). -/
def claimWord (lvl kind n : Nat) : Word := toWord (lvl * 2 ^ 16 + kind * 2 ^ 12 + n)
def spuriousWord : Word := 0x3FFF

/-- The sources that the registers list as enabled, as kind and number: private ones first, numbers rising. -/
def State.enabledSources (s : State) (c : Nat) : List (Nat × Nat) :=
  let from_ (base n kind : Nat) : List (Nat × Nat) :=
    (s.regs.filter fun x => keysIn base (base + 4 * n) x.1 && bitAt x.2 31).map fun x => (kind, (x.1 - base) / 4)
  from_ (Reg.AIC_PRIV c 0) 64 1 ++ from_ (Reg.AIC_SRC 0) 4096 0

/-- The best of the sources, in their order where levels are equal: level, kind, number (R265). -/
def bestOf : List (Nat × Nat × Nat) → Option (Nat × Nat × Nat)
  | [] => none
  | x :: r =>
    match bestOf r with
    | none => some x
    | some y => if x.1 < y.1 then some y else some x

/-- The source presented to turning core `c` (R265, R266). -/
def State.presented (s : State) (c : Nat) : Option (Nat × Nat × Nat) :=
  if s.targetUsable c then
    bestOf (((s.enabledSources c).filter fun x => s.presentable c x.1 x.2).map
      fun x => (s.fld (srcReg c x.1 x.2) 19 16, x.1, x.2))
  else none

/-- The tailstock source presented: the lowest enabled pending one, and none between a claim and its completion
(R272). -/
def State.tsPresented (s : State) : Option Nat :=
  if s.tsClaimed.isSome then none
  else (List.range 64).find? fun k => s.bit (Reg.TS_IRQ_EN (k / 32)) (k % 32) && s.bit (Reg.TS_IRQ_PEND (k / 32)) (k % 32)

/-- Does core `c`, the tailstock core being 16, see an interrupt: a turning core the presentation of two cycles before
(R211, R266, R269, R272)? -/
def State.interruptPresented (s : State) (c : Nat) : Bool :=
  if c < 16 then (s.aicCore c).shownBefore else s.tsPresented.isSome

/-- In each cycle the cores see what the controller presented two cycles before (R266). -/
def aicTick (s : State) : State :=
  (List.range 16).foldl (fun s c =>
    let x := s.aicCore c
    let p := (s.presented c).isSome
    if x.shown = p ∧ x.shownBefore = x.shown then s else s.setAicCore c { x with shownBefore := x.shown, shown := p }) s

/-- The controller freezes the presented identifier for core `c` (R266); a presentation already withdrawn freezes nothing
(R269). -/
def freeze (c : Nat) (s : State) : State :=
  match s.presented c with
  | none => s.setAicCore c { s.aicCore c with frozen := none }
  | some x =>
    let w := claimWord x.1 x.2.1 x.2.2
    (s.setAicCore c { s.aicCore c with frozen := some w }).setReg (Reg.AIC_LATCHED c) w

/-! ### Doorbells (R264) -/

def doorbellEff (n : Nat) (s : State) : State := ringShared n s

def execAicDoorbell (value : Word) (s : State) : Out :=
  .next (if s.fclkOn then doorbellEff (fieldOf value 11 0) s else s)

def execAicPdoorbell (value : Word) (s : State) : Out :=
  .next (if s.fclkOn then ringPrivate (fieldOf value 19 16) (fieldOf value 5 0) s else s)

/-! ### Claim and completion (R267 to R270) -/

/-- May this requester claim and complete for core `c` (R267, R268)? -/
def servesCore (q : Requester) (c : Nat) : Bool :=
  match q with
  | .tailstock => true
  | .core n => decide (n.val = c)
  | _ => false

/-- A claim of any source of a group holds it, unless its hold-off is zero (R271). -/
def startHoldoff (a : Nat) (s : State) : State :=
  if s.bit a 15 ∧ s.fld (Reg.AIC_GRP (s.fld a 14 8)) 15 0 ≠ 0 then s.setBit (Reg.AIC_GRP_STAT (s.fld a 14 8)) 31 true
  else s

/-- The claim of the frozen identifier `w` (R267); a doorbell of the same cycle sets the latch again (R270). -/
def claimEff (c : Nat) (w : Word) (s : State) : State :=
  let kind := fieldOf w 13 12
  let n := fieldOf w 11 0
  let a := srcReg c kind n
  let s1 := (s.setBit a 29 (bitAt (s.setNow a) 29)).setBit a 28 true
  let s2 := s1.setAicCore c { s1.aicCore c with frozen := none, stack := (fieldOf w 19 16, kind, n) :: (s1.aicCore c).stack }
  startHoldoff a s2

/-- A read of AIC_CLAIM in core `c`'s window (R267). -/
def claimOp (q : Requester) (c : Nat) (s : State) : Word × State :=
  match (s.aicCore c).frozen with
  | some w => if servesCore q c then (w, claimEff c w s) else (spuriousWord, s)
  | none => (spuriousWord, s)

def execAicClaim (q : Requester) (c : Fin 16) (s : State) : Out :=
  .next (if s.fclkOn then answerWith q (claimOp q c s) else s)

/-- An active stack that the spec leaves open (R268): each level is on it or not, with an open source. -/
def freeStack : Nat → State → List (Nat × Nat × Nat) × State
  | 0, s => ([], s)
  | n + 1, s =>
    let f := takeFree 14 s
    let r := freeStack n f.2
    (if f.1.getLsbD 0 then (n, (f.1.extractLsb' 13 1).toNat, (f.1.extractLsb' 1 12).toNat) :: r.1 else r.1, r.2)

/-- An EOI that names a source other than the top one: core `c`'s delivery is open (R268): its stack, its frozen
identifier, and the named source's latch and active mark. -/
def eoiUndefined (c kind n : Nat) (s : State) : State :=
  let st := freeStack 16 s
  let f := takeFree 21 st.2
  let s1 := f.2.setAicCore c
    { s.aicCore c with stack := st.1, frozen := if f.1.getLsbD 20 then some ((f.1.extractLsb' 0 20).zeroExtend 32) else none }
  let a := srcReg c kind n
  let g := takeFree 2 s1
  (g.2.setBit a 28 (g.1.getLsbD 0)).setBit a 29 (g.1.getLsbD 1)

/-- A write of AIC_EOI in core `c`'s window (R268). -/
def eoiEff (c : Nat) (v : Word) (s : State) : State :=
  let kind := fieldOf v 13 12
  let n := fieldOf v 11 0
  if fieldOf v 13 0 = 0x3FFF then s
  else
    match (s.aicCore c).stack with
    | t :: r =>
      if t.2.1 = kind ∧ t.2.2 = n then
        (s.setAicCore c { s.aicCore c with stack := r }).setBit (srcReg c kind n) 28 false
      else eoiUndefined c kind n s
    | [] => eoiUndefined c kind n s

def execAicEoi (q : Requester) (c : Fin 16) (value : Word) (s : State) : Out :=
  .next (if s.fclkOn && servesCore q c then eoiEff c value s else s)

/-- AIC_ACTIVE as it reads (R274). -/
def State.aicActive (s : State) (c : Nat) : Word :=
  match (s.aicCore c).stack with
  | [] => 0
  | t :: r => toWord (t.1 * 2 ^ 28 + (r.length + 1) * 2 ^ 16) |||
      (t :: r).foldl (fun w x => w ||| oneBit x.1) 0

/-- Writes of AIC_SRC and AIC_PRIV keep the latch and the active mark (R275); a source that becomes presentable or
not is judged at the next presentation (R269, R270). -/
def srcWrite (a : Nat) (v : Word) (s : State) : State :=
  s.setReg a ((s.reg a &&& 0x30000000) ||| (v &&& (if a < Reg.AIC_SRC 4096 then 0x800FFF0F else 0x800FFF00)))

def execGroupHoldoffEnd (g : Fin 128) (s : State) : Out :=
  .next (if s.fclkOn then s.setBit (Reg.AIC_GRP_STAT g) 31 false else s)

/-! ### The tailstock's controller (R272, R273) -/

def tsSpurious : Word := 0xFFF

/-- A read of TS_CLAIM by the tailstock (R272). -/
def tsClaimOp (s : State) : Word × State :=
  match s.tsPresented with
  | none => (tsSpurious, s)
  | some k => (toWord k, { s.setBit (Reg.TS_IRQ_PEND (k / 32)) (k % 32) false with tsClaimed := some k })

def execTsClaim (s : State) : Out :=
  .next (if s.sys.powerGood then answerWith .tailstock (tsClaimOp s) else s)

/-- A write of TS_EOI by the tailstock: the claimed source is complete; any other word leaves the controller's
delivery open (R268, R272). -/
def tsEoiEff (v : Word) (s : State) : State :=
  if fieldOf v 11 0 = 0xFFF then s
  else if s.tsClaimed = some (fieldOf v 5 0) then { s with tsClaimed := none }
  else
    let f := takeFree 7 s
    freeReg (Reg.TS_IRQ_PEND 0) (freeReg (Reg.TS_IRQ_PEND 1)
      { f.2 with tsClaimed := if f.1.getLsbD 6 then some (f.1.extractLsb' 0 6).toNat else none })

def execTsEoi (value : Word) (s : State) : Out := .next (if s.sys.powerGood then tsEoiEff value s else s)

def execTsDoorbell (value : Word) (s : State) : Out :=
  .next (if s.sys.powerGood && decide (32 ≤ fieldOf value 5 0) then raiseTs (fieldOf value 5 0) s else s)

end Sys2Proof.Machine
end

