-- ==== Sys2Proof/Machine/Mem.lean ====
section
/-! DEFINITION. Scratch banks, the IOMMU, and the DMA channels' starting, pacing, stopping and resuming (spec/12); the
moves themselves, which reach device registers, are in DmaMove.lean. -/

namespace Sys2Proof.Machine

/-! ### Scratch banks (R279 to R283, R300) -/

/-- Is the requester the bank's present owner, or the tailstock (R280)? A DMA access names its channel elsewhere. -/
def State.ownsBank (s : State) (q : Requester) (b : Nat) : Bool :=
  match q with
  | .tailstock => true
  | .core n => decide (s.bankOwner b = (0, n.val))
  | .portA | .portB => decide ((s.bankOwner b).1 = 5)
  | _ => false

/-- The retention part: ret = 1 drops the bank to retention, awake reads 0 (R281). -/
def retWrite (b : Nat) (ret : Bool) (s : State) : State :=
  let s1 := s.setBit (Reg.SB_CTL b) 31 ret
  if ret then s1.setBit (Reg.SB_CTL b) 30 false else s1

/-- A write of SB_CTL[b], accepted from the owner and the tailstock only (R280). -/
def sbCtlWrite (q : Requester) (b : Nat) (v : Word) (s : State) : State :=
  if s.ownsBank q b then retWrite b (bitAt v 31) (ownerWrite b v s) else s

def execSbCtl (q : Requester) (b : Fin 32) (value : Word) (s : State) : Out :=
  .next (if s.fclkOn then sbCtlWrite q b value s else s)

def execBankRetention (q : Requester) (b : Fin 32) (value : Word) (s : State) : Out :=
  .next (if s.fclkOn then sbCtlWrite q b (withBit value 31 true) s else s)

def execBankWake (q : Requester) (b : Fin 32) (value : Word) (s : State) : Out :=
  .next (if s.fclkOn then sbCtlWrite q b (withBit value 31 false) s else s)

def execOwnerChangeEffect (b : Fin 32) (s : State) : Out :=
  .next (if s.fclkOn then { s with sbOld := tabSet none b.val none s.sbOld } else s)

/-- 3,000 cycles after the wake (R281). -/
def bankAwakeEff (b : Nat) (s : State) : State :=
  if s.bit (Reg.SB_CTL b) 31 then s else s.setBit (Reg.SB_CTL b) 30 true

def execBankAwake (b : Fin 32) (s : State) : Out := .next (if s.fclkOn then bankAwakeEff b s else s)

def execBusyPinRelease (port : Port) (s : State) : Out :=
  .next (match port with
    | .a => { s with busyPins := s.busyPins &&& 2 }
    | .b => { s with busyPins := s.busyPins &&& 1 })

/-! ### The IOMMU (R287 to R289) -/

/-- A master's address is refused: cause as DMA_CH_STATUS names it (R302), and whether the engine cannot attribute
it (R297): 1 bus error, 2 detection. -/
inductive MasterFault where
  | translation | refused | bus | detection
  deriving DecidableEq, Repr

/-- A fault of stream `st` is recorded, and source 1473 raised where enabled (R289). -/
def iommuFault (st va : Nat) (write : Bool) (detail : Nat) (s : State) : State :=
  let s1 := (s.setReg (Reg.IOMMU_ST_FADDR st) (toWord va)).setReg (Reg.IOMMU_ST_FSTAT st)
    (toWord (2 ^ 31 + detail * 2 ^ 8 + boolNat write))
  if s.bit Reg.IOMMU_IRQ_EN 0 ∧ ¬ s.sharedLine 1473 = true then noteDeferred 1473 s1 else s1

/-- Put an entry into the IOTLB of 256 entries; a full one loses an entry that is left open (R288). -/
def iotlbInsert (st : Nat) (e : TlbEntry) (s : State) : State :=
  if s.iotlb.length < 256 then { s with iotlb := s.iotlb ++ [(st, e)] }
  else
    let f := takeFree 8 s
    { f.2 with iotlb := s.iotlb.eraseIdx f.1.toNat ++ [(st, e)] }

/-- A leaf as a stream may use it: its user bit and x are ignored, a device page faults (R288). -/
def iommuLeaf (st va : Nat) (write : Bool) (d : DWord) (sec : Bool) (s : State) : Except MasterFault Nat × State :=
  match descRights d false (if write then .store else .load) with
  | some k => (.error .translation, iommuFault st va write k s)
  | none =>
    if descType d = .device then (.error .translation, iommuFault st va write 1 s)
    else (.ok (descPa d sec va), s)

/-- Translate an address of stream `st` (R288). -/
def iommu (st a : Nat) (write : Bool) (s : State) : Except MasterFault Nat × State :=
  let ctl := s.reg (Reg.IOMMU_ST_CTL st)
  if !bitAt ctl 31 then (.error .refused, s)
  else if !bitAt ctl 30 then (.ok (a % 2 ^ 40), s)
  else
    let va := a % 2 ^ 32
    match s.iotlb.find? fun x => decide (x.1 = st) && tlbMatches (fieldOf ctl 7 0) va x.2 with
    | some x => iommuLeaf st va write x.2.desc x.2.section_ s
    | none =>
      let base := s.fld (Reg.IOMMU_ST_PTBASE st) 26 0 * 2 ^ 13
      match (if (s.walkPoison base va).isSome then .error walkBus else s.walk base va) with
      | .error k => if k = walkBus then (.error .bus, walkCheck base va s) else (.error .translation, iommuFault st va write k s)
      | .ok (d, sec) =>
        iommuLeaf st va write d sec
          (iotlbInsert st { va := if sec then va / 2 ^ 22 else va / 2 ^ 12, section_ := sec, asid := fieldOf ctl 7 0, desc := d } s)

/-- May a master with this owner kind and number reach the physical address (R280, R288, R296)? -/
def State.masterReaches (s : State) (kind num pa : Nat) : Option MasterFault :=
  match (s.region none pa).1 with
  | .tcm _ => none
  | .scratch b => if s.bankAcceptsFrom b kind num then none else some .refused
  | .dram => if s.dramOn then none else some .bus
  | _ => some .refused

/-- A read of `n` bytes, within one 16-byte beat, by a master through its stream (R277). -/
def masterRead (st kind num a n : Nat) (s : State) : Except (MasterFault × Nat) (List Byte) × State :=
  match iommu st a false s with
  | (.error f, s1) => (.error (f, a), s1)
  | (.ok pa, s1) =>
    match s1.masterReaches kind num pa with
    | some f => (.error (f, if f = .bus then pa else a), s1)
    | none => if s1.readsPoison pa n then (.error (.detection, pa), s1) else (.ok (s1.bytes pa n), s1)

/-- The same for a write (R277). -/
def masterWrite (st kind num a : Nat) (bs : List Byte) (s : State) : Option (MasterFault × Nat) × State :=
  match iommu st a true s with
  | (.error f, s1) => (some (f, a), s1)
  | (.ok pa, s1) =>
    match s1.masterReaches kind num pa with
    | some f => (some (f, if f = .bus then pa else a), s1)
    | none => (none, memWrite none pa bs s1)

/-- A detection failure that a device master without a route of its own meets: a machine check by where the data
lies (R432, R433). -/
def detectCheck (pa : Nat) (s : State) : State :=
  match (s.region none pa).1 with
  | .tcm n => postCheck (some n) 1 (unitOf pa) (countPoisoned s)
  | .scratch b => postCheck (if (s.bankOwner b).1 = 0 then some (s.bankOwner b).2 else none) 4 (unitOf pa) (countPoisoned s)
  | _ => postCheck none 3 (unitOf pa) (countPoisoned s)

/-- A read that may have failed detection: `own` is the reader's own route for a line of DRAM, which ends without a machine
check; other memory, and a reader without a route, meet one (R432). -/
def fetchCheck (own : Bool) (f : MasterFault × Nat) (s : State) : State :=
  if f.1 = .detection then
    (if own && decide ((s.region none f.2).1 = .dram) then countPoisoned (countDetect s) else detectCheck f.2 s)
  else s

/-- The pieces of `n` bytes from `a`, each within one 16-byte beat: address and length. -/
def beatsOf (a : Nat) : Nat → Nat → List (Nat × Nat)
  | _, 0 => []
  | 0, _ => []
  | fuel + 1, n =>
    let k := min n (16 - a % 16)
    (a, k) :: beatsOf (a + k) fuel (n - k)

/-- Read a run of bytes beat by beat; the first fault ends it. -/
def masterReadAll (st kind num : Nat) : List (Nat × Nat) → State → Except (MasterFault × Nat) (List Byte) × State
  | [], s => (.ok [], s)
  | (a, n) :: r, s =>
    match masterRead st kind num a n s with
    | (.error f, s1) => (.error f, s1)
    | (.ok bs, s1) =>
      match masterReadAll st kind num r s1 with
      | (.error f, s2) => (.error f, s2)
      | (.ok bs', s2) => (.ok (bs ++ bs'), s2)

def masterReadRun (st kind num a n : Nat) (s : State) : Except (MasterFault × Nat) (List Byte) × State :=
  masterReadAll st kind num (beatsOf a (n + 1) n) s

/-- Write a run of bytes beat by beat; the first fault ends it. -/
def masterWriteAll (st kind num : Nat) : List (Nat × Nat) → List Byte → State → Option (MasterFault × Nat) × State
  | [], _, s => (none, s)
  | (a, n) :: r, bs, s =>
    match masterWrite st kind num a (bs.take n) s with
    | (some f, s1) => (some f, s1)
    | (none, s1) => masterWriteAll st kind num r (bs.drop n) s1

def masterWriteRun (st kind num a : Nat) (bs : List Byte) (s : State) : Option (MasterFault × Nat) × State :=
  masterWriteAll st kind num (beatsOf a (bs.length + 1) bs.length) bs s

/-- The entries that an invalidation of this scope takes away (R301). -/
def invalidates (scope st va : Nat) (x : Nat × TlbEntry) : Bool :=
  match scope with
  | 0 => true
  | 1 => decide (x.1 = st)
  | _ => decide (x.1 = st) && (if x.2.section_ then decide (x.2.va = va / 2 ^ 22) else decide (x.2.va = va / 2 ^ 12))

def iommuInvDoneEff (s : State) : State :=
  let w := s.reg Reg.IOMMU_INV
  if bitAt w 31 then
    { s with iotlb := s.iotlb.filter fun x => !invalidates (fieldOf w 30 29) (fieldOf w 7 0) (s.reg Reg.IOMMU_INV_ADDR).toNat x }.setReg
      Reg.IOMMU_INV 0
  else s

/-- A write of IOMMU_INV (R289, R301): scope 0b11 is ignored. The scope is kept behind busy until it completes; an
invalidation still busy then completes first (log entry 38). -/
def iommuInvWrite (v : Word) (s : State) : State :=
  if fieldOf v 30 29 = 3 then s else (iommuInvDoneEff s).setReg Reg.IOMMU_INV ((v &&& 0x600000FF) ||| 0x80000000)

def execIommuInv (value : Word) (s : State) : Out := .next (if s.fclkOn then iommuInvWrite value s else s)

def execIommuInvDone (s : State) : Out := .next (if s.fclkOn then iommuInvDoneEff s else s)

/-! ### DMA channels (R290 to R298, R301, R302) -/

def State.dmaCh (s : State) (c : Nat) : DmaCh := tabGet {} c s.dma
def State.setDmaCh (s : State) (c : Nat) (x : DmaCh) : State := { s with dma := tabSet {} c x s.dma }

def dmaIdle : Nat := 0
def dmaRunning : Nat := 1
def dmaWaiting : Nat := 2
def dmaPaced : Nat := 3
def dmaSuspended : Nat := 4
def dmaStopped : Nat := 5
def dmaParted : Nat := 6

def State.dmaState (s : State) (c : Nat) : Nat := s.fld (Reg.DMA_CH_STATUS c) 31 29
def setDmaState (c st : Nat) (s : State) : State := s.setFld (Reg.DMA_CH_STATUS c) 31 29 st
def setDmaCause (c k : Nat) (s : State) : State := s.setFld (Reg.DMA_CH_STATUS c) 28 26 k
def dmaEvent (c : Nat) (bits : Word) (s : State) : State :=
  raiseStatus (Reg.DMA_CH_STATUS c) (Reg.DMA_CH_IRQ_EN c) (1408 + c) bits s
def State.dmaEnabled (s : State) (c : Nat) : Bool := s.bit (Reg.DMA_CH_CTL c) 31
def State.dmaPending (s : State) (c : Nat) : Nat := s.fld (Reg.DMA_CH_STATUS c) 23 16
def State.dmaOn (s : State) : Bool := s.fclkOn
def State.dmaEngineOn (s : State) : Bool := s.bit Reg.DMA_ENG_CTL 31 && !s.bit Reg.DMA_ENG_STATUS 31

/-- Words of the descriptor in hand (R290). -/
def DmaCh.word (x : DmaCh) (i : Nat) : Word := x.desc.getD i 0
def DmaCh.length (x : DmaCh) : Nat := if fieldOf (x.word 0) 23 0 = 0 then 2 ^ 24 else fieldOf (x.word 0) 23 0
def DmaCh.srcSpace (x : DmaCh) : Nat := fieldOf (x.word 1) 31 30
def DmaCh.dstSpace (x : DmaCh) : Nat := fieldOf (x.word 1) 29 28
def DmaCh.srcCirc (x : DmaCh) : Bool := bitAt (x.word 1) 27
def DmaCh.dstCirc (x : DmaCh) : Bool := bitAt (x.word 1) 26
def DmaCh.wrap (x : DmaCh) : Nat := fieldOf (x.word 1) 25 21
def DmaCh.paced (x : DmaCh) : Bool := bitAt (x.word 1) 20
def DmaCh.burst (x : DmaCh) : Nat := fieldOf (x.word 1) 19 16 + 1
def DmaCh.src (x : DmaCh) : Nat := (pairOf (x.word 3) (x.word 2)).toNat
def DmaCh.dst (x : DmaCh) : Nat := (pairOf (x.word 5) (x.word 4)).toNat
def DmaCh.next (x : DmaCh) : Nat := fieldOf (x.word 7) 7 0 * 2 ^ 32 + fieldOf (x.word 6) 31 5 * 32

/-- The address of byte `k` on a side (R292): a peripheral side stays at its register. -/
def sideAddr (space : Nat) (circ : Bool) (wrap base k : Nat) : Nat :=
  if space = 3 then base
  else if circ then base / 2 ^ wrap * 2 ^ wrap + (base + k) % 2 ^ wrap
  else base + k

def DmaCh.srcAt (x : DmaCh) (k : Nat) : Nat := sideAddr x.srcSpace x.srcCirc x.wrap x.src k
def DmaCh.dstAt (x : DmaCh) (k : Nat) : Nat := sideAddr x.dstSpace x.dstCirc x.wrap x.dst k

/-- The descriptor's cases of undefined results for the channel: bits not named (R290), and a length or a wrap out of
range (R292). -/
def DmaCh.undefined (x : DmaCh) : Bool :=
  decide (x.word 0 &&& 0x07000000 ≠ 0) || decide (x.word 1 &&& 0x0000FFFF ≠ 0) || decide (x.word 6 &&& 0x1F ≠ 0) ||
    decide (x.word 7 &&& 0xFFFFFF00 ≠ 0) ||
    ((decide (x.srcSpace = 3) || decide (x.dstSpace = 3)) && decide (x.length % 4 ≠ 0)) ||
    (((x.srcCirc && decide (x.srcSpace ≠ 3)) || (x.dstCirc && decide (x.dstSpace ≠ 3))) &&
      decide (x.wrap < 6 ∨ 24 < x.wrap))

/-- Undefined results for a channel: its status and progress are open (R40). -/
def dmaUndefined (c : Nat) (s : State) : State :=
  let f := takeFree 32 (s.setDmaCh c {})
  let s1 := f.2.setReg (Reg.DMA_CH_STATUS c) (f.1 &&& 0xFCFF00FC)
  freeReg (Reg.DMA_CH_SRC_LO c) (freeReg (Reg.DMA_CH_SRC_HI c) (freeReg (Reg.DMA_CH_DST_LO c)
    (freeReg (Reg.DMA_CH_DST_HI c) (freeReg (Reg.DMA_CH_REMAIN c) s1))))

/-- The progress registers show the element at the channel's present point (R301). -/
def dmaProgress (c : Nat) (s : State) : State :=
  let x := s.dmaCh c
  let a := x.srcAt x.moved
  let b := x.dstAt x.moved
  ((((s.setReg (Reg.DMA_CH_SRC_LO c) (toWord a)).setReg (Reg.DMA_CH_SRC_HI c) (toWord (a / 2 ^ 32))).setReg
    (Reg.DMA_CH_DST_LO c) (toWord b)).setReg (Reg.DMA_CH_DST_HI c) (toWord (b / 2 ^ 32))).setReg
    (Reg.DMA_CH_REMAIN c) (toWord (x.length - x.moved))

/-- A fault attributed to the channel suspends it (R296). -/
def dmaSuspend (c cause addr : Nat) (s : State) : State :=
  dmaEvent c (oneBit 6) (setDmaCause c cause (setDmaState c dmaSuspended
    ((s.setReg (Reg.DMA_CH_FADDR_LO c) (toWord addr)).setReg (Reg.DMA_CH_FADDR_HI c) (toWord (addr / 2 ^ 32)))))

/-- An engine stop reaches one channel (R297). -/
def dmaStopChannel (c : Nat) (s : State) : State :=
  let st := s.dmaState c
  if st = dmaRunning ∨ st = dmaWaiting ∨ st = dmaPaced then
    dmaEvent c (oneBit 5) (setDmaState c dmaStopped (s.setDmaCh c { s.dmaCh c with stoppedIn := st }))
  else s

/-- An error that the engine cannot attribute stops every channel (R297): cause 1 bus error, 2 detection, 3 timeout. -/
def engineStop (cause addr : Nat) (s : State) : State :=
  let s1 := forEach (List.range 64) dmaStopChannel s
  let s2 := ((s1.setReg Reg.DMA_ENG_ERR_LO (toWord addr)).setReg Reg.DMA_ENG_ERR_HI (toWord (addr / 2 ^ 32))).setReg
    Reg.DMA_ENG_STATUS (toWord (2 ^ 31 + cause))
  raiseTs 28 (if s.fld Reg.DMA_ENG_STATUS 1 0 = 0 then noteDeferred 1472 s2 else s2)

/-- A failed access of channel `c`: suspended, or the engine stopped (R296, R297). -/
def dmaFailed (c : Nat) (f : MasterFault × Nat) (fetch : Bool) (s : State) : State :=
  match f.1 with
  | .translation => dmaSuspend c (if fetch then 4 else 1) f.2 s
  | .refused => dmaSuspend c (if fetch then 4 else 2) f.2 s
  | .bus => engineStop 1 f.2 s
  | .detection => engineStop 2 f.2 (fetchCheck true f s)

/-- A kick of channel `c` (R293). -/
def dmaKick (c : Nat) (s : State) : State :=
  let st := s.dmaState c
  if !s.dmaEnabled c ∨ st = dmaParted then s
  else if st = dmaIdle then setDmaState c dmaRunning (s.setDmaCh c { s.dmaCh c with fetching := true })
  else if st = dmaWaiting then dmaProgress c (setDmaState c (if (s.dmaCh c).paced ∧ ¬ (s.dmaCh c).request = true then dmaPaced else dmaRunning) s)
  else s.setFld (Reg.DMA_CH_STATUS c) 23 16 (satNat 255 (s.dmaPending c + 1))

def execDmaChKick (c : Fin 64) (value : Word) (s : State) : Out :=
  .next (if s.dmaOn && bitAt value 0 then dmaKick c s else s)

/-- The plate's DMAKICK (R79, R293): a data word other than 1 gives undefined results for the channel. -/
def execDmakick (target data : Word) (s : State) : Out :=
  .next (if s.dmaOn then
      (if data = 1 then dmaKick (fieldOf target 5 0) s else dmaUndefined (fieldOf target 5 0) s)
    else s)

/-- The state in which a channel takes up its descriptor's data (R294, R302). -/
def DmaCh.runState (x : DmaCh) : Nat := if x.paced ∧ ¬ x.request = true then dmaPaced else dmaRunning

/-- The words of 32 bytes. -/
def wordsOf (bs : List Byte) : List Word := (List.range (bs.length / 4)).map fun i => toWord (ofLeBytes ((bs.drop (4 * i)).take 4))

/-- The address of the channel's descriptor. -/
def State.descAddr (s : State) (c : Nat) : Nat := s.fld (Reg.DMA_CH_DESC_HI c) 7 0 * 2 ^ 32 + s.fld (Reg.DMA_CH_DESC_LO c) 31 5 * 32

/-- A fetched descriptor with own = 1 starts, or waits for a kick (R293). -/
def descStart (c : Nat) (x : DmaCh) (s : State) : State :=
  let s1 := s.setDmaCh c x
  if bitAt (x.word 0) 28 then
    if s.dmaPending c = 0 then setDmaState c dmaWaiting s1
    else dmaProgress c (setDmaState c x.runState (s1.setFld (Reg.DMA_CH_STATUS c) 23 16 (s.dmaPending c - 1)))
  else dmaProgress c (setDmaState c x.runState s1)

/-- A descriptor fetch ends (R290, R293, R296). -/
def descriptorFetchEff (c : Nat) (s : State) : State :=
  let x := s.dmaCh c
  if !x.fetching ∨ s.dmaState c ≠ dmaRunning ∨ !s.dmaEngineOn then s
  else
    match masterReadRun c 2 c (s.descAddr c) 32 s with
    | (.error f, s1) => dmaFailed c f true s1
    | (.ok bs, s1) =>
      let x1 : DmaCh := { x with desc := wordsOf bs, moved := 0, buf := [], fetching := false }
      if !bitAt (x1.word 0) 31 then dmaEvent c (oneBit 7) (setDmaState c dmaIdle (s1.setDmaCh c { x1 with desc := [] }))
      else if x1.undefined then dmaUndefined c s1
      else descStart c x1 s1

def execDescriptorFetchDone (c : Fin 64) (s : State) : Out := .next (if s.dmaOn then descriptorFetchEff c s else s)

/-- The fill of a MAC's queue (R396). -/
def State.macFill (s : State) (k : Nat) : Nat := (tabGet [] k s.macQueues).length

/-- The fill of a pace source (R294): front-end result queues 0 to 5, stream queues 8 + q, check units 24 + u, capture
queues 32 + q, and the receive and transmit FIFOs of MAC m, 48 + 2 m and 49 + 2 m. -/
def State.paceFill (s : State) (k : Nat) : Nat :=
  if k < 6 then (s.reg (Reg.AFE_QUEUE_FILL k)).toNat
  else if 8 ≤ k ∧ k < 24 then (s.reg (Reg.CON_SQ_FILL (k - 8))).toNat
  else if 24 ≤ k ∧ k < 32 then (s.reg (Reg.CV_QUEUE_FILL (k - 24))).toNat
  else if 32 ≤ k ∧ k < 40 then (s.reg (Reg.AUD_CQ_FILL (k - 32))).toNat
  else if 48 ≤ k ∧ k < 52 then s.macFill (k - 48)
  else 0

/-- The pace request with its hysteresis (R294). -/
def State.paceRequest (s : State) (c : Nat) : Bool :=
  let w := s.reg (Reg.DMA_CH_PACE c)
  let fill := s.paceFill (fieldOf w 29 24)
  let was := (s.dmaCh c).request
  if (s.dmaCh c).srcSpace = 3 then
    if fieldOf w 14 8 ≤ fill then true else if fill ≤ fieldOf w 6 0 then false else was
  else
    if fill ≤ fieldOf w 6 0 then true else if fieldOf w 14 8 ≤ fill then false else was

/-- Has a burst of the channel started and not ended: a host port's data is awaited, or data waits to be written? -/
def DmaCh.inBurst (x : DmaCh) : Bool := x.awaits.isSome || !x.buf.isEmpty

/-- The request is asserted or withdrawn; at a burst boundary a paced channel runs, or waits, accordingly (R294, R295). -/
def paceEff (c : Nat) (s : State) : State :=
  let x := s.dmaCh c
  if !x.paced then s
  else
    let x1 := { x with request := s.paceRequest c }
    let s1 := s.setDmaCh c x1
    if !x.fetching ∧ !x.inBurst ∧ (s.dmaState c = dmaRunning ∨ s.dmaState c = dmaPaced) then setDmaState c x1.runState s1 else s1

def execPaceRequest (c : Fin 64) (s : State) : Out := .next (if s.dmaOn then paceEff c s else s)

/-- A write of resume continues a suspended channel from the faulting element (R296). -/
def dmaResume (c : Nat) (s : State) : State :=
  if s.dmaState c ≠ dmaSuspended then s
  else
    let s1 := setDmaCause c 0 s
    if (s.dmaCh c).fetching then setDmaState c dmaRunning s1 else setDmaState c (s.dmaCh c).runState s1

/-- A write of DMA_CH_CTL (R301): enable 0 then 1 leaves PARTED (R298). -/
def dmaCtlWrite (c : Nat) (v0 : Word) (s : State) : State :=
  let v := s.keepEnable 8 c (Reg.DMA_CH_CTL c) v0
  let x := s.dmaCh c
  let s1 := s.setReg (Reg.DMA_CH_CTL c) (v &&& 0xB0000000)
  let s2 :=
    if s.dmaState c = dmaParted then
      if !bitAt v 31 then s1.setDmaCh c { x with sawDisable := true }
      else if x.sawDisable then setDmaState c dmaIdle (s1.setDmaCh c {})
      else s1
    else s1
  if bitAt v 30 then dmaResume c s2 else s2

def execDmaResume (c : Fin 64) (value : Word) (s : State) : Out :=
  .next (if s.dmaOn then dmaCtlWrite c (withBit value 30 true) s else s)

def execTransactionTimeout (addr : BitVec 40) (s : State) : Out :=
  .next (if s.dmaOn then engineStop 3 addr.toNat s else s)

/-- One channel after a restart (R297). -/
def dmaRestartChannel (c : Nat) (s : State) : State :=
  if s.dmaEnabled c ∧ s.dmaState c = dmaStopped then setDmaState c (s.dmaCh c).stoppedIn s else s

/-- A write of DMA_ENG_CTL (R297, R301). -/
def dmaEngWrite (v : Word) (s : State) : State :=
  let s1 := s.setReg Reg.DMA_ENG_CTL (v &&& 0x80000000)
  if bitAt v 0 then forEach (List.range 64) dmaRestartChannel (s1.setBit Reg.DMA_ENG_STATUS 31 false) else s1

def execDmaRestart (value : Word) (s : State) : Out :=
  .next (if s.dmaOn then dmaEngWrite (withBit value 0 true) s else s)

/-- An aborted channel parts: buffered data is dropped, and the port releases its outstanding reads (R298, R381). -/
def partDma (c : Nat) (s : State) : State :=
  let s1 := { s.setDmaCh c {} with
    outbound := s.outbound.map fun o => if o.chan = some c then { o with chan := none } else o }
  dmaEvent c (oneBit 4) (setDmaCause c 0 (setDmaState c dmaParted s1))

end Sys2Proof.Machine
end

