-- ==== Sys2Proof/Machine/Console.lean ====
section
/-! DEFINITION. The console engine (spec/13): rasters, line latches, raster commands, rendering, records and stream
queues. -/

namespace Sys2Proof.Machine

def State.con (s : State) (k : Nat) : Console := tabGet {} k s.consoles
def State.setCon (s : State) (k : Nat) (x : Console) : State := { s with consoles := tabSet {} k x s.consoles }
def State.stream (s : State) (q : Nat) : StreamQ := tabGet {} q s.streams
def State.setStream (s : State) (q : Nat) (x : StreamQ) : State :=
  { s with streams := tabSet {} q x s.streams }.setReg (Reg.CON_SQ_FILL q) (toWord x.words.length)

def conDisabled : Nat := 0
def conIdle : Nat := 1
def conScanning : Nat := 2
def conParted : Nat := 3
def State.conState (s : State) (k : Nat) : Nat := s.fld (Reg.CON_STATUS k) 31 30
def setConState (k st : Nat) (s : State) : State := s.setFld (Reg.CON_STATUS k) 31 30 st
def conEvent (k : Nat) (bits : Word) (s : State) : State := raiseStatus (Reg.CON_STATUS k) (Reg.CON_IRQ_EN k) (1536 + k) bits s
def conGlobal (bits : Word) (s : State) : State := raiseStatus Reg.CON_GLB_STATUS Reg.CON_GLB_IRQ_EN 2048 bits s
def State.conRaster (s : State) (k : Nat) : Nat := s.fld (Reg.CON_CTL k) 21 16
def State.conVactive (s : State) (k : Nat) : Nat := s.fld (Reg.CON_SIZE k) 26 16
def State.conHactive (s : State) (k : Nat) : Nat := s.fld (Reg.CON_SIZE k) 10 0
def State.conVtotal (s : State) (k : Nat) : Nat := s.fld (Reg.CON_TOTAL k) 31 16
def State.conHtotal (s : State) (k : Nat) : Nat := s.fld (Reg.CON_TOTAL k) 15 0
def State.conFmt (s : State) (k : Nat) : Nat := s.fld (Reg.CON_CTL k) 29 28
def State.conEngineOn (s : State) : Bool := s.mediaOn && s.bit Reg.CON_GLB_CTL 31

/-- Does the console keep to the limits of R305 and to listed formats and shapes (R325, R326)? -/
def State.conLegal (s : State) (k : Nat) : Bool :=
  let h := s.conHactive k
  let v := s.conVactive k
  let f := (s.reg (Reg.CON_FRAME k)).toNat
  decide (8 ≤ h ∧ h ≤ 1920 ∧ 1 ≤ v ∧ v ≤ 1200 ∧ h + 16 ≤ s.conHtotal k ∧ v + 1 ≤ s.conVtotal k) &&
    decide (25000000 ≤ f ∧ 2 * (h + 48) * s.conVtotal k ≤ f) && decide (s.conFmt k ≠ 3) &&
    (List.range 4).all fun l => !s.bit (Reg.CON_L_CTL k l) 31 || decide (s.fld (Reg.CON_L_CTL k l) 29 28 ≠ 3)

/-- The console's results are undefined from here on, until its registers are rewritten with valid values, or it is
aborted or started again (R40, R303, R307). -/
def spoilConsole (k : Nat) (s : State) : State := s.setCon k { s.con k with spoiled := true }

/-! ### Rasters (R303, R304) -/

/-- A raster of `frame` / `den` cycles starts at phase 0; its spindle resyncs into LOCKED (R304, R338). -/
def rasterStart (n htotal vtotal frame den : Nat) (s : State) : State :=
  let s1 := s.setSpn n { s.spn n with
    rasterStart := s.now, rasterFrame := frame, rasterDen := den, rasterDots := htotal, rasterLines := vtotal, rasterRuns := true }
  if s.spnEnabled n ∧ s.spnState n ≠ spnParted then resyncTo n (s1.rasterPos n) (setVel n (s1.rasterRate n) (setSpnState n spnLocked s1)) else s1

/-- A raster stops: its spindle is STOPPED (R54, R304). -/
def rasterStop (n : Nat) (s : State) : State :=
  let s1 := s.setSpn n { s.spn n with rasterRuns := false, rasterEnd := s.now }
  if s.spnEnabled n ∧ s.spnState n ≠ spnParted then setSpnState n spnStopped s1 else s1

/-- The context becomes scanned: a render request stands, and nothing else of an earlier run (R304, R308, R313, R316). -/
def conStart (k : Nat) (s : State) : State :=
  rasterStart (72 + s.conRaster k) (s.conHtotal k) (s.conVtotal k) (s.reg (Reg.CON_FRAME k)).toNat 1
    ((setConState k conScanning (s.setCon k { request := (s.con k).request })).setReg (Reg.CON_FRAMES k) 0)

/-- The other enabled contexts that name the same valid raster (R303). -/
def State.sharesRaster (s : State) (k : Nat) : List Nat :=
  (List.range 512).filter fun j => decide (j ≠ k) && s.bit (Reg.CON_CTL j) 31 && s.bit (Reg.CON_CTL j) 26 &&
    decide (s.conRaster j = s.conRaster k)

/-- A write leaves the context with valid values: a misuse ends (R40). -/
def conValid (k : Nat) (s : State) : State :=
  if (s.con k).spoiled && s.conLegal k && (s.sharesRaster k).isEmpty then s.setCon k { s.con k with spoiled := false } else s

/-- A write of a register that may change while the context is enabled (R306). -/
def conPlainWrite (k a : Nat) (v : Word) (s : State) : State := conValid k (s.setReg a v)

/-- The context comes to name its raster: it is scanned, and where another enabled context names the same raster, all of
them are misused (R303, R304). -/
def conScan (k : Nat) (s : State) : State :=
  let others := s.sharesRaster k
  let s1 := conStart k (forEach others spoilConsole s)
  if others = [] then s1 else spoilConsole k s1

/-- A write of CON_CTL (R303, R304, R322): a change of raster or raster_valid while enabled, and a second context on
one raster, are misuses; an abort under way ignores the write's enable (R465). -/
def conCtlWrite (k : Nat) (v0 : Word) (s : State) : State :=
  let old := s.reg (Reg.CON_CTL k)
  let v := s.keepEnable 4 k (Reg.CON_CTL k) v0 &&& 0xFC3FFF00
  let st := s.conState k
  let s1 := s.setReg (Reg.CON_CTL k) v
  let moved : Bool := bitAt old 31 && decide ((old ^^^ v) &&& 0x043F0000 ≠ 0)
  let s2 := if moved then spoilConsole k s1 else conValid k s1
  if !bitAt v 31 then
    if st = conParted then s2.setCon k { s2.con k with sawDisable := true }
    else setConState k conDisabled (if st = conScanning then rasterStop (72 + fieldOf old 21 16) s2 else s2)
  else if st = conParted ∧ (s.con k).sawDisable = false then s2
  else if st = conScanning then
    if bitAt v 26 then s2 else setConState k conIdle (rasterStop (72 + fieldOf old 21 16) s2)
  else if bitAt v 26 then conScan k s2
  else setConState k conIdle (if st = conParted then s2.setCon k {} else s2)

def execConCtl (k : Fin 512) (value : Word) (s : State) : Out :=
  .next (if s.mediaOn then conCtlWrite k value s else s)

/-- A write of CON_TOTAL or CON_FRAME while enabled is a misuse (R303). -/
def conTimingWrite (k a : Nat) (v : Word) (s : State) : State :=
  let s1 := s.setReg a v
  if s.bit (Reg.CON_CTL k) 31 then spoilConsole k s1 else s1

/-- A render request (R308); a parted context ignores it (R322). -/
def renderRequest (k : Nat) (s : State) : State :=
  if s.conState k = conParted then s else s.setCon k { s.con k with request := true }

def execConKick (k : Fin 512) (value : Word) (s : State) : Out :=
  .next (if s.mediaOn && bitAt value 0 then renderRequest k s else s)

/-! ### Raster commands (R307) -/

/-- The scanned context bound to a raster. -/
def State.boundTo (s : State) (r : Nat) : Option Nat :=
  (List.range 512).find? fun k => decide (s.conState k = conScanning) && decide (s.conRaster k = r)

/-- Does a parted context hold the raster? -/
def State.partedOn (s : State) (r : Nat) : Bool :=
  (List.range 512).any fun k => decide (s.conState k = conParted) && s.bit (Reg.CON_CTL k) 26 && decide (s.conRaster k = r)

/-- A command with data bits inside `mask` takes effect `f` on the bound context; other data is a misuse; without a
bound context it is ignored and noted, unless a parted one holds the raster (R307). -/
def rasterCommand (r : Nat) (data mask : Word) (f : Nat → State → State) (s : State) : State :=
  match s.boundTo r with
  | some k => if data &&& ~~~mask = 0 then f k s else spoilConsole k s
  | none => if s.partedOn r then s else conGlobal (oneBit 2) s

def layerOf (data : Word) : Nat := fieldOf data 31 30
/-- The half of CON_L_SCROLL that a scroll command names: y above, x below. -/
def scrollHalf (data : Word) : Nat := if bitAt data 29 then 16 else 0

def scrollEff (data : Word) (k : Nat) (s : State) : State :=
  s.setFld (Reg.CON_L_SCROLL k (layerOf data)) (scrollHalf data + 15) (scrollHalf data) (fieldOf data 15 0)

def scrollAddEff (data : Word) (k : Nat) (s : State) : State :=
  let a := Reg.CON_L_SCROLL k (layerOf data)
  s.setFld a (scrollHalf data + 15) (scrollHalf data) ((s.fld a (scrollHalf data + 15) (scrollHalf data) + fieldOf data 15 0) % 65536)

def layerEnEff (data : Word) (k : Nat) (s : State) : State :=
  forEach (List.range 4) (fun l s => s.setBit (Reg.CON_L_CTL k l) 31 (bitAt data l))
    (s.setBit (Reg.CON_INLAY_CTL k) 31 (bitAt data 4))

def windowEff (data : Word) (k : Nat) (s : State) : State :=
  (s.setReg (Reg.CON_L_WIN k (layerOf data)) (data &&& 0x0FFF0FFF)).setBit (Reg.CON_L_CTL k (layerOf data)) 30 (bitAt data 29)

def paletteEff (data : Word) (k : Nat) (s : State) : State :=
  if fieldOf data 31 29 < 4 then s.setFld (Reg.CON_L_CTL k (fieldOf data 31 29)) 8 0 (fieldOf data 8 0)
  else if fieldOf data 31 29 = 4 then s.setFld (Reg.CON_INLAY_CTL k) 8 0 (fieldOf data 8 0)
  else spoilConsole k s

def backdropEff (data : Word) (k : Nat) (s : State) : State := s.setReg (Reg.CON_BACKDROP k) (0xFF000000 ||| data)

def execScroll (r : Fin 64) (data : Word) (s : State) : Out :=
  .next (if s.mediaOn then rasterCommand r data 0xE000FFFF (scrollEff data) s else s)
def execScrollAdd (r : Fin 64) (data : Word) (s : State) : Out :=
  .next (if s.mediaOn then rasterCommand r data 0xE000FFFF (scrollAddEff data) s else s)
def execLayerEn (r : Fin 64) (data : Word) (s : State) : Out :=
  .next (if s.mediaOn then rasterCommand r data 0x1F (layerEnEff data) s else s)
def execWindow (r : Fin 64) (data : Word) (s : State) : Out :=
  .next (if s.mediaOn then rasterCommand r data 0xEFFF0FFF (windowEff data) s else s)
def execPalette (r : Fin 64) (data : Word) (s : State) : Out :=
  .next (if s.mediaOn then rasterCommand r data 0xE00001FF (paletteEff data) s else s)
def execBackdrop (r : Fin 64) (data : Word) (s : State) : Out :=
  .next (if s.mediaOn then rasterCommand r data 0xFFFFFF (backdropEff data) s else s)
def execRender (r : Fin 64) (data : Word) (s : State) : Out :=
  .next (if s.mediaOn then rasterCommand r data 0 renderRequest s else s)

/-- The plate's RASTER action (R79, R307). -/
def rasterAction (target data : Word) (s : State) : State :=
  let r := fieldOf target 5 0
  match fieldOf target 15 8 with
  | 1 => rasterCommand r data 0xE000FFFF (scrollEff data) s
  | 2 => rasterCommand r data 0xE000FFFF (scrollAddEff data) s
  | 3 => rasterCommand r data 0x1F (layerEnEff data) s
  | 4 => rasterCommand r data 0xEFFF0FFF (windowEff data) s
  | 5 => rasterCommand r data 0xE00001FF (paletteEff data) s
  | 6 => rasterCommand r data 0xFFFFFF (backdropEff data) s
  | 7 => rasterCommand r data 0 renderRequest s
  | _ => rasterCommand r 0 0 spoilConsole s

def execRaster (target data : Word) (s : State) : Out := .next (if s.mediaOn then rasterAction target data s else s)

/-! ### Line latch (R306, R308, R313, R316) -/

/-- The registers of the render state. -/
def State.renderState (s : State) (k : Nat) : List Word :=
  (List.range 4).flatMap (fun l =>
    [s.reg (Reg.CON_L_CTL k l), s.reg (Reg.CON_L_MAP k l), s.reg (Reg.CON_L_SCROLL k l), s.reg (Reg.CON_L_WIN k l)]) ++
    [s.reg (Reg.CON_BACKDROP k), s.reg (Reg.CON_INLAY_CTL k)]

/-- The latch of line 0: a new frame, its render request and its inlay table (R304, R308, R313). -/
def frameLatch (k : Nat) (s : State) : State :=
  let x := s.con k
  let demand := s.bit (Reg.CON_CTL k) 30
  let s1 := if x.begun then countWrap (Reg.CON_FRAMES k) 1 s else s
  let late : Bool := x.begun && x.next.isNone
  let s2 := s1.setCon k { x with
    begun := true
    render := !demand || x.request
    request := if demand then false else x.request
    table := x.next.getD x.table
    next := none }
  conEvent k (if late then 0x5 else 0x1) s2

/-- Is line `l` due for forced refresh in the present frame (R316)? -/
def State.forcedDue (s : State) (k l : Nat) : Bool :=
  let n := s.fld (Reg.CON_CTL k) 15 8
  decide (n ≠ 0) && decide (((s.reg (Reg.CON_FRAMES k)).toNat + l) % n = 0)

/-- The cycle in which the raster of context `k` reaches line `l` of its present frame, or of the next (R304). -/
def State.lineStart (s : State) (k l : Nat) : Nat :=
  let x := s.spn (72 + s.conRaster k)
  let tp := max 1 x.rasterFrame
  let vt := max 1 (s.conVtotal k)
  let f := (s.now - x.rasterStart) / tp + l / vt
  x.rasterStart + f * tp + (l % vt * 2 ^ 32 / vt * tp + 2 ^ 32 - 1) / 2 ^ 32

/-- The latch of line `l` (R306, R308): its job is released if it is to be rendered. -/
def lineLatchEff (k l : Nat) (s : State) : State :=
  if s.conState k ≠ conScanning ∨ s.conVtotal k ≤ l then s
  else
    let s1 := if l = 0 then frameLatch k s else s
    let s2 := if l = s1.conVactive k ∧ s1.conEngineOn = true then s1.setCon k { s1.con k with fetching := true, next := none } else s1
    let x := s2.con k
    let forced := s2.forcedDue k l
    let marked := x.marks.contains l
    if l < s2.conVactive k ∧ s2.conEngineOn = true ∧ (x.render || forced || marked) = true then
      let j : ConJob :=
        { ctx := k, raster := s2.conRaster k, line := l, latch := s2.now, deadline := s2.lineStart k (l + 2)
          frame := s2.reg (Reg.CON_FRAMES k), forced := forced, marked := marked
          regs := s2.renderState k, table := x.table }
      { s2.setCon k { x with marks := x.marks.filter fun m => decide (m ≠ l) } with conJobs := s2.conJobs ++ [j] }
    else s2

def execLineLatch (k : Fin 512) (line : BitVec 16) (s : State) : Out :=
  .next (if s.mediaOn then lineLatchEff k line.toNat s else s)

/-- The inlay table arrives through stream 64, or faults and the previous one stays (R313, R321). -/
def inlayTableEff (k : Nat) (s : State) : State :=
  let x := s.con k
  if !x.fetching then s
  else
    match masterReadRun 64 3 0 (s.reg (Reg.CON_INLAY_BASE k)).toNat 2048 s with
    | (.ok bs, s1) => s1.setCon k { x with fetching := false, next := some (wordsOf bs) }
    | (.error e, s1) => conEvent k (oneBit 2) ((fetchCheck false e s1).setCon k { x with fetching := false, next := none })

def execInlayTableArrived (k : Fin 512) (s : State) : Out :=
  .next (if s.conEngineOn then inlayTableEff k s else s)

/-! ### Pipes (R309) -/

/-- Is job `a` before `b`: the earlier latch, then the lower raster (R309)? -/
def ConJob.before (a b : ConJob) : Bool :=
  decide (a.latch < b.latch) || (decide (a.latch = b.latch) && decide (a.raster < b.raster))

def firstJob : List ConJob → Option ConJob
  | [] => none
  | j :: r =>
    match firstJob r with
    | none => some j
    | some i => if i.before j then some i else some j

def State.pipe (s : State) (p : Nat) : Option ConJob := tabGet none p s.pipes
def State.setPipe (s : State) (p : Nat) (j : Option ConJob) : State := { s with pipes := tabSet none p j s.pipes }

/-- A free pipe takes the released job with the earliest latch cycle (R309). -/
def renderStartEff (s : State) : State :=
  match (List.range 16).find? fun p => (s.pipe p).isNone, firstJob s.conJobs with
  | some p, some j => { s.setPipe p (some j) with conJobs := s.conJobs.erase j }
  | _, _ => s

def execRenderJobStart (s : State) : Out := .next (if s.conEngineOn then renderStartEff s else s)

/-! ### Pixels (R310 to R315) -/

/-- What the rendering of a line has met. -/
structure Fetch where
  st : State
  fault : Bool := false
  range : Bool := false
  fallback : Bool := false

/-- A pixel chosen: an entry of a palette, the backdrop, or the fallback colour. -/
inductive Pix where
  | pal (ctx i : Nat)
  | backdrop
  | fallback
  deriving DecidableEq, Repr

/-- Bytes read through stream 64; a fault strikes the line (R321). -/
def fetchBytes (a n : Nat) (f : Fetch) : Nat × Fetch :=
  match masterReadRun 64 3 0 (a % 2 ^ 32) n f.st with
  | (.ok bs, s) => (ofLeBytes bs, { f with st := s })
  | (.error e, s) => (0, { f with st := fetchCheck true e s, fault := true })

def shapeW (shape : Nat) : Nat := if shape = 2 then 16 else 8
def shapeH (shape : Nat) : Nat := match shape with
  | 0 => 8
  | 1 => 16
  | _ => 32

/-- The value of pixel (x, y) of glyph `g`, or none where the glyph is out of range (R310). -/
def glyphPixel (shape bpp g x y : Nat) (f : Fetch) : Option Nat × Fetch :=
  let b := 2 ^ bpp
  let size := shapeW shape * shapeH shape * b / 8
  if (f.st.reg Reg.CON_ATLAS_SIZE).toNat < (g + 1) * size then (none, { f with range := true })
  else
    let bit := (y * shapeW shape + x) * b
    let r := fetchBytes ((f.st.reg Reg.CON_ATLAS_BASE).toNat + g * size + bit / 8) 1 f
    (some (r.1 / 2 ^ (bit % 8) % 2 ^ b), r.2)

/-- The palette index of a set pixel (R312, R313). -/
def colourIndex (bpp fg row p : Nat) : Nat := if bpp = 0 then fg else if bpp = 3 then p else row * 16 + p

/-- A layer's pixel, none where it is clear, and whether its cell stands in front of the inlays (R312). -/
def layerPixel (ctl map scroll win : Word) (x y : Nat) (f : Fetch) : (Option Pix × Bool) × Fetch :=
  if !bitAt ctl 31 || (bitAt ctl 30 && !(decide (fieldOf win 11 0 ≤ x) && decide (x < fieldOf win 27 16))) then
    ((none, false), f)
  else
    let shape := fieldOf ctl 29 28
    let bpp := fieldOf ctl 27 26
    let mw := fieldOf ctl 25 18 + 1
    let cw := shapeW shape
    let ch := shapeH shape
    let px := (x + fieldOf scroll 15 0) % (mw * cw)
    let py := (y + fieldOf scroll 31 16) % ((fieldOf ctl 17 11 + 1) * ch)
    let r := fetchBytes (map.toNat + (py / ch * mw + px / cw) * 8) 8 f
    let e := r.1
    let gx := if e / 2 ^ 36 % 2 = 1 then cw - 1 - px % cw else px % cw
    let gy := if e / 2 ^ 37 % 2 = 1 then ch - 1 - py % ch else py % ch
    let prio : Bool := decide (e / 2 ^ 38 % 2 = 1)
    let p := glyphPixel shape bpp (e % 65536) gx gy r.2
    match p.1 with
    | none => ((some .fallback, prio), p.2)
    | some 0 =>
      ((if e / 2 ^ 39 % 2 = 1 then none else some (.pal (fieldOf ctl 8 0) (e / 2 ^ 24 % 256)), prio), p.2)
    | some v => ((some (.pal (fieldOf ctl 8 0) (colourIndex bpp (e / 2 ^ 16 % 256) (e / 2 ^ 32 % 16) v % 256)), prio), p.2)

/-- An inlay's entry of the table, words I0 to I2 (R313). -/
structure Inlay where
  i0 : Word
  i1 : Word
  i2 : Word

def Inlay.shape (i : Inlay) : Nat := fieldOf i.i0 27 26
def Inlay.width (i : Inlay) : Nat := (fieldOf i.i0 19 18 + 1) * shapeW i.shape
def Inlay.height (i : Inlay) : Nat := (fieldOf i.i0 17 16 + 1) * shapeH i.shape
def Inlay.x (i : Inlay) : Int := signedOf 12 (fieldOf i.i1 11 0)
def Inlay.y (i : Inlay) : Int := signedOf 12 (fieldOf i.i1 27 16)

/-- Does the inlay lie on line `y` (R314)? -/
def Inlay.onLine (i : Inlay) (y : Nat) : Bool :=
  bitAt i.i0 31 && decide (i.shape ≠ 3) && decide (i.y ≤ y) && decide ((y : Int) < i.y + i.height)

/-- The inlays of a table. -/
def inlaysOf (t : List Word) : List Inlay :=
  (List.range (t.length / 4)).map fun n => { i0 := t.getD (4 * n) 0, i1 := t.getD (4 * n + 1) 0, i2 := t.getD (4 * n + 2) 0 }

/-- An inlay's pixel at (x, y) (R313): value 0 is transparent. -/
def inlayPixel (pal : Nat) (i : Inlay) (x y : Nat) (f : Fetch) : Option Pix × Fetch :=
  if (x : Int) < i.x ∨ i.x + i.width ≤ x then (none, f)
  else
    let dx := ((x : Int) - i.x).toNat
    let dy := ((y : Int) - i.y).toNat
    let ux := if bitAt i.i0 30 then i.width - 1 - dx else dx
    let uy := if bitAt i.i0 29 then i.height - 1 - dy else dy
    let cw := shapeW i.shape
    let ch := shapeH i.shape
    let bpp := fieldOf i.i0 25 24
    let p := glyphPixel i.shape bpp (fieldOf i.i0 15 0 + uy / ch * (fieldOf i.i0 19 18 + 1) + ux / cw) (ux % cw) (uy % ch) f
    match p.1 with
    | none => (some .fallback, p.2)
    | some 0 => (none, p.2)
    | some v => (some (.pal pal (colourIndex bpp (fieldOf i.i2 7 0) (fieldOf i.i0 23 20) v % 256)), p.2)

/-- The front-most inlay's pixel (R314, R315). -/
def inlaysPixel (pal : Nat) : List Inlay → Nat → Nat → Fetch → Option Pix × Fetch
  | [], _, _, f => (none, f)
  | i :: r, x, y, f =>
    match inlayPixel pal i x y f with
    | (some p, f1) => (some p, f1)
    | (none, f1) => inlaysPixel pal r x y f1

/-- The four layers' pixels, layer 0 first. -/
def layersPixel (regs : List Word) (x y : Nat) : List Nat → Fetch → List (Option Pix × Bool) × Fetch
  | [], f => ([], f)
  | l :: r, f =>
    let p := layerPixel (regs.getD (4 * l) 0) (regs.getD (4 * l + 1) 0) (regs.getD (4 * l + 2) 0) (regs.getD (4 * l + 3) 0) x y f
    let q := layersPixel regs x y r p.2
    (p.1 :: q.1, q.2)

/-- The first pixel that is not clear. -/
def firstPix : List (Option Pix) → Option Pix
  | [] => none
  | some p :: _ => some p
  | none :: r => firstPix r

/-- The composed pixel (R315): layers in front, inlays, layers behind, backdrop. -/
def composePixel (j : ConJob) (kept : List Inlay) (x : Nat) (f : Fetch) : Pix × Fetch :=
  let ls := layersPixel j.regs x j.line [0, 1, 2, 3] f
  let ip := inlaysPixel (fieldOf (j.regs.getD 17 0) 8 0) kept x j.line ls.2
  let front := ls.1.map fun p => if p.2 then p.1 else none
  let back := ls.1.map fun p => if p.2 then none else p.1
  ((firstPix (front ++ [ip.1] ++ back)).getD .backdrop, ip.2)

/-- The physical place of a register word that a detection code guards (R429). -/
def regUnit (a : Nat) : Nat := 0x80000000 + a

/-- The core that INT_OWNER names for a media block: 0 console, 1 composer, 2 audio (R433). -/
def State.mediaOwner (s : State) (m : Nat) : Option Nat :=
  if s.bit (Reg.INT_OWNER m) 31 then some (s.fld (Reg.INT_OWNER m) 3 0) else none

/-- The pixel's index and colour; a palette word that fails detection gives the fallback colour and a machine check
(R315, R321, R432). -/
def pixColour (fallback backdrop : Word) (p : Pix) (f : Fetch) : (Nat × Word) × Fetch :=
  match p with
  | .backdrop => ((0, backdrop), f)
  | .fallback => ((0, fallback), { f with fallback := true })
  | .pal c i =>
    if f.st.poisoned (regUnit (Reg.CON_PAL c i)) then
      ((0, fallback), { f with fallback := true,
                               st := countPoisoned (postCheck (f.st.mediaOwner 0) 7 (unitOf (regUnit (Reg.CON_PAL c i))) f.st) })
    else ((i, f.st.reg (Reg.CON_PAL c i)), f)

/-- The pixels of a line as index and colour, `n` from `x` on. -/
def linePixels (j : ConJob) (kept : List Inlay) (fallback : Word) : Nat → Nat → Fetch → List (Nat × Word) × Fetch
  | 0, _, f => ([], f)
  | n + 1, x, f =>
    let p := composePixel j kept x f
    let c := pixColour fallback (j.regs.getD 16 0) p.1 p.2
    let r := linePixels j kept fallback n (x + 1) c.2
    (c.1 :: r.1, r.2)

/-- A pixel's bytes in the stream format (R315). -/
def pixelBytes (fmt : Nat) (p : Nat × Word) : List Byte :=
  match fmt with
  | 0 => leBytes 1 p.1
  | 1 => leBytes 2 (fieldOf p.2 23 19 * 2048 + fieldOf p.2 15 10 * 32 + fieldOf p.2 7 3)
  | _ => leBytes 4 p.2.toNat

/-! ### Check values and records (R316 to R318) -/

/-- One bit of the reflected CRC-32 (R316). -/
def crc32Bit (c : Word) : Word := if bitAt c 0 then (c >>> 1) ^^^ 0xEDB88320 else c >>> 1
def crc32Byte (c : Word) (b : Byte) : Word :=
  let x := c ^^^ b.zeroExtend 32
  crc32Bit (crc32Bit (crc32Bit (crc32Bit (crc32Bit (crc32Bit (crc32Bit (crc32Bit x)))))))

/-- The IEEE 802.3 check value of bytes (R316). -/
def crc32 (bs : List Byte) : Word := bs.foldl crc32Byte 0xFFFFFFFF ^^^ 0xFFFFFFFF

/-- Bytes padded with zero to a multiple of 4 (R317). -/
def padded (bs : List Byte) : List Byte := bs ++ List.replicate ((4 - bs.length % 4) % 4) 0

/-- A list cut into pieces of `n`. -/
def cutEvery {α : Type} (n : Nat) : Nat → List α → List (List α)
  | 0, _ => []
  | _, [] => []
  | fuel + 1, l => l.take n :: cutEvery n fuel (l.drop n)

/-- A record without its sequence number (R317). -/
def recordOf (k line x fmt : Nat) (forced fallback : Bool) (frame : Word) (n : Nat) (payload : List Byte) : List Word :=
  [toWord k, toWord (line * 2 ^ 16 + x),
   toWord (n * 2 ^ 16 + fmt * 2 ^ 14 + boolNat forced * 2 ^ 13 + boolNat fallback * 2 ^ 12 + fieldOf frame 11 0), crc32 payload] ++
    wordsOf payload

/-- The records of a line: slices of `len` pixels with their first pixels (R317, R318). -/
def recordsOf (k line fmt len : Nat) (forced fallback : Bool) (frame : Word) :
    Nat → List (List (Nat × Word)) → List (List Word)
  | _, [] => []
  | x, sl :: r =>
    recordOf k line x fmt forced fallback frame sl.length (padded (sl.flatMap (pixelBytes fmt))) ::
      recordsOf k line fmt len forced fallback frame (x + sl.length) r

/-- A line that is dropped at a full backlog (R320). -/
def overrunLine (k l : Nat) (s : State) : State :=
  conGlobal (oneBit 0) (conEvent k (oneBit 7) (rcUpFld (Reg.CON_ERR k) 7 0 1 (s.setCon k { s.con k with marks := l :: (s.con k).marks })))

/-- A finished line begins to enter its queue, waits in the backlog, or is dropped (R319, R320). -/
def queueLine (q : Nat) (x : ConLine) (s : State) : State :=
  let st := s.stream q
  if st.entering.isNone then s.setStream q { st with entering := some x, record := none }
  else if st.backlog.length < 64 then s.setStream q { st with backlog := st.backlog ++ [x] }
  else overrunLine x.ctx x.line s

/-! ### A finished line (R309, R316, R320, R321, R333) -/

/-- The live-console layers that show context `k`: head and layer (R333). -/
def State.liveLayers (s : State) (k : Nat) : List (Nat × Nat) :=
  ((List.range 2).flatMap fun h => (List.range 6).map fun l => (h, l + 2)).filter fun x =>
    let w := tabGet 0 (Reg.LY_CTL x.1 x.2) s.active
    s.composerOn && s.bit (Reg.HD_CTL x.1) 31 && bitAt w 31 && decide (fieldOf w 23 20 = 8) && decide (fieldOf w 8 0 = k)

/-- The head line that shows line `l` of a live-console layer's plane. -/
def State.liveTop (s : State) (x : Nat × Nat) (l : Nat) : Nat :=
  (signedOf 16 (fieldOf (tabGet 0 (Reg.LY_DST_POS x.1 x.2) s.active) 31 16) + l -
    fieldOf (tabGet 0 (Reg.LY_SRC_POS x.1 x.2) s.active) 27 16).toNat

/-- A head in panel self-refresh begins to leave it (R343, R348). -/
def leaveSelfRefresh (h : Nat) (s : State) : State :=
  if s.fld (Reg.HD_STATUS h) 31 30 = 2 then s.setFld (Reg.HD_STATUS h) 31 30 3 else s

/-- The line reaches plane 0 of a live-console layer through its stream; a write that faults is dropped and the line
marked (R333). -/
def liveWrite (k l : Nat) (px : List (Nat × Word)) (x : Nat × Nat) (s : State) : State :=
  let a := (tabGet 0 (Reg.LY_ADDR0 x.1 x.2) s.active).toNat + l * (tabGet 0 (Reg.LY_PITCH0 x.1 x.2) s.active).toNat
  match masterWriteRun (65 + 8 * x.1 + x.2) 9 0 a (px.flatMap (pixelBytes 2)) s with
  | (none, s1) => leaveSelfRefresh x.1 { s1 with liveLines := (x.1, s.liveTop x l) :: s1.liveLines }
  | (some _, s1) => s1.setCon k { s1.con k with marks := l :: (s1.con k).marks }

/-- The pixels of a job's line: composed, or fallback throughout where a fetch failed (R312 to R315, R321). -/
def renderLine (j : ConJob) (s : State) : List (Nat × Word) × Fetch × Bool :=
  let k := j.ctx
  let n := s.conHactive k
  let inl := if bitAt (j.regs.getD 17 0) 31 then (inlaysOf j.table).filter fun i => i.onLine j.line else []
  let fb := s.reg (Reg.CON_FALLBACK k)
  let r := linePixels j (inl.take 32) fb n 0 { st := s }
  (if r.2.fault then List.replicate n (0, fb) else r.1, r.2, decide (32 < inl.length))

/-- Free pixels of a console whose results are undefined (R40). -/
def freePixels : Nat → State → List (Nat × Word) × State
  | 0, s => ([], s)
  | n + 1, s =>
    let f := takeFree 32 s
    let r := freePixels n f.2
    ((f.1.toNat % 256, f.1) :: r.1, r.2)

/-- The flags and counts that a rendered line leaves (R309, R314, R321). -/
def lineFlags (j : ConJob) (fault range drop : Bool) (s : State) : State :=
  let k := j.ctx
  let s1 := if fault then conEvent k (oneBit 3) (rcUpFld (Reg.CON_ERR k) 31 24 1 (s.setCon k { s.con k with marks := j.line :: (s.con k).marks })) else s
  let s2 := if range then conEvent k (oneBit 4) s1 else s1
  let s3 := if drop then conEvent k (oneBit 5) (rcUpFld (Reg.CON_ERR k) 23 16 1 s2) else s2
  if j.deadline < s3.now then conGlobal (oneBit 1) (conEvent k (oneBit 6) (rcUpFld (Reg.CON_ERR k) 15 8 1 s3)) else s3

/-- Is the line sent (R316)? A stored value that fails detection counts as differing. -/
def State.lineSent (s : State) (j : ConJob) (check : Word) (fallback : Bool) : Bool :=
  s.bit (Reg.CON_CTL j.ctx) 27 &&
    (decide (tabGet none j.line (s.con j.ctx).stored ≠ some check) || j.forced || fallback || j.marked)

/-- Stream the finished line, and pass it to the live layers (R316 to R320, R333). -/
def finishLine (j : ConJob) (px : List (Nat × Word)) (fallback : Bool) (s : State) : State :=
  let k := j.ctx
  let fmt := s.conFmt k
  let s1 := (s.liveLayers k).foldl (fun s x => liveWrite k j.line px x s) s
  let check := crc32 (padded (px.flatMap (pixelBytes fmt)))
  if s1.lineSent j check fallback then
    let slice := s.fld (Reg.CON_STREAM_CTL k) 12 8
    let len := (if slice = 0 then 32 else slice) * 64
    queueLine (s.fld (Reg.CON_STREAM_CTL k) 3 0)
      { ctx := k, line := j.line, check := check
        records := recordsOf k j.line fmt len j.forced fallback j.frame 0 (cutEvery len (px.length + 1) px) } s1
  else s1

/-- A pipe finishes its line (R309). -/
def renderDoneEff (p : Nat) (s : State) : State :=
  match s.pipe p with
  | none => s
  | some j =>
    let s0 := s.setPipe p none
    if (s0.con j.ctx).spoiled || !s0.conLegal j.ctx then
      let f := freePixels (s0.conHactive j.ctx) s0
      let g := takeFree 7 f.2
      finishLine j f.1 (g.1.getLsbD 0) (conEvent j.ctx ((g.1.zeroExtend 32) &&& 0x7C) g.2)
    else
      let r := renderLine j s0
      let f := r.2.1
      finishLine j r.1 (f.fault || f.fallback) (lineFlags j f.fault f.range r.2.2 f.st)

def execRenderJobDone (pipe : Fin 16) (s : State) : Out := .next (if s.conEngineOn then renderDoneEff pipe s else s)

/-! ### Stream queues (R319, R320) -/

/-- The line has entered: its check value is the last one sent (R316). -/
def lineEntered (x : ConLine) (s : State) : State :=
  s.setCon x.ctx { s.con x.ctx with stored := tabSet none x.line (some x.check) (s.con x.ctx).stored }

/-- One word of the entering line enters the queue; the first word of a record takes the next sequence number. -/
def enterWord (q : Nat) (s : State) : State :=
  let st := s.stream q
  match st.entering with
  | none => s
  | some x =>
    match st.record, x.records with
    | some (w :: r), _ => s.setStream q { st with words := st.words ++ [w], record := some r }
    | some [], [] =>
      lineEntered x (s.setStream q { st with entering := st.backlog.head?, record := none, backlog := st.backlog.tail })
    | _, rec :: more =>
      let seq := s.fld (Reg.CON_SQ_SEQ q) 15 0
      (s.setStream q { st with
        words := st.words ++ [withField (rec.headD 0) 31 16 seq]
        record := some rec.tail
        entering := some { x with records := more } }).setReg (Reg.CON_SQ_SEQ q) (toWord ((seq + 1) % 65536))
    | _, [] => s.setStream q { st with entering := st.backlog.head?, record := none, backlog := st.backlog.tail }

/-- The entering line moves on while the queue has space, to its end at most (R319). -/
def enterWords (q : Nat) : Nat → State → State
  | 0, s => s
  | n + 1, s =>
    let st := s.stream q
    match st.entering, st.record with
    | none, _ => s
    | some x, some [] => if x.records = [] then enterWord q s else if st.words.length < 128 then enterWords q n (enterWord q s) else s
    | some _, _ => if st.words.length < 128 then enterWords q n (enterWord q s) else s

def execLineEnterQueue (queue : Fin 16) (s : State) : Out :=
  .next (if s.mediaOn && s.bit (Reg.CON_SQ_CTL queue) 31 then enterWords queue 130 s else s)

/-- A read of CON_SQ_DATA pops the oldest word; an empty queue reads zero (R319). -/
def streamPop (q : Nat) (s : State) : Word × State :=
  let st := s.stream q
  match st.words with
  | [] => (0, s)
  | w :: r => (w, s.setStream q { st with words := r })

def execConSqData (q : Requester) (queue : Fin 16) (s : State) : Out :=
  .next (if s.mediaOn then answerWith q (streamPop queue s) else s)

/-- Lines discarded are marked for re-render (R320). -/
def discardLines (xs : List ConLine) (s : State) : State :=
  xs.foldl (fun s x => s.setCon x.ctx { s.con x.ctx with marks := x.line :: (s.con x.ctx).marks }) s

/-- Flush: the queue, the line entering it and the backlog are discarded (R320). -/
def streamFlush (q : Nat) (s : State) : State :=
  let st := s.stream q
  discardLines (st.entering.toList ++ st.backlog) (s.setStream q {})

/-- A write of CON_SQ_CTL: numbering starts at 0 as the queue is enabled (R319, R320). -/
def streamCtlWrite (q : Nat) (v : Word) (s : State) : State :=
  let s1 := s.setReg (Reg.CON_SQ_CTL q) (v &&& 0x80000000)
  let s2 := if bitAt v 31 ∧ ¬ s.bit (Reg.CON_SQ_CTL q) 31 = true then s1.setReg (Reg.CON_SQ_SEQ q) 0 else s1
  if bitAt v 30 then streamFlush q s2 else s2

def execStreamFlush (queue : Fin 16) (value : Word) (s : State) : Out :=
  .next (if s.mediaOn then streamCtlWrite queue (withBit value 30 true) s else s)

/-! ### Abort (R322) -/

/-- A line of context `k` in a queue is discarded unless its first word has entered. -/
def dropQueued (k : Nat) (st : StreamQ) : StreamQ :=
  let back := st.backlog.filter fun x => decide (x.ctx ≠ k)
  match st.entering with
  | some x =>
    if x.ctx = k ∧ st.record.isNone = true then { st with entering := back.head?, backlog := back.tail }
    else { st with backlog := back }
  | none => { st with backlog := back }

/-- An aborted context parts (R322). -/
def partConsole (k : Nat) (s : State) : State :=
  let s1 := if s.conState k = conScanning then rasterStop (72 + s.conRaster k) s else s
  let s2 := { s1 with
    conJobs := s1.conJobs.filter fun j => decide (j.ctx ≠ k)
    pipes := s1.pipes.filter fun p => match p.2 with
      | some j => decide (j.ctx ≠ k)
      | none => false }
  let s3 := forEach (List.range 16) (fun q s => s.setStream q (dropQueued k (s.stream q))) s2
  conEvent k (oneBit 1) (setConState k conParted (s3.setCon k {}))

end Sys2Proof.Machine
end

