-- ==== Sys2Proof/Machine/Mover.lean ====
section
/-! DEFINITION. The 2D mover (spec/15). -/

namespace Sys2Proof.Machine

def mvIdle : Nat := 0
def mvRunning : Nat := 1
def mvSuspended : Nat := 2
def mvStopped : Nat := 3
def mvParted : Nat := 4
def State.mvState (s : State) : Nat := s.fld Reg.MV_STATUS 31 29
def setMvState (st : Nat) (s : State) : State := s.setFld Reg.MV_STATUS 31 29 st
def mvEvent (bits : Word) (s : State) : State := raiseStatus Reg.MV_STATUS Reg.MV_IRQ_EN 2064 bits s
def State.setMover (s : State) (m : Mover) : State := { s with mover := m }.setReg Reg.MV_QUEUE_FILL (toWord m.queue.length)
def State.moverOn (s : State) : Bool := s.mediaOn && s.bit Reg.MV_CTL 31

/-! ### Commands (R351, R352) -/

/-- A read of MV_SUBMIT queues the staged command (R352). -/
def mvSubmit (w : List Word) (s : State) : Word × State :=
  if s.mvState = mvParted then (0x80000002, s)
  else if 16 ≤ s.mover.queue.length then (0x80000001, s)
  else
    let n := s.mover.nextNumber
    (toWord n, s.setMover { s.mover with queue := s.mover.queue ++ [(n, w)], nextNumber := (n + 1) % 65536 })

/-- The words that a requester has staged (R352). -/
def State.stagedMove (s : State) (q : Requester) : List Word := (List.range 18).map fun w => s.reg (ownKey q (Reg.MV_CMD w))

def execMvSubmit (q : Requester) (s : State) : Out :=
  .next (if s.mediaOn then answerWith q (mvSubmit (s.stagedMove q) s) else s)

/-- A job's fields (R352). -/
structure MvJob where
  w : List Word

def MvJob.word (j : MvJob) (i : Nat) : Word := j.w.getD i 0
def MvJob.op (j : MvJob) : Nat := fieldOf (j.word 0) 31 28
def MvJob.rop (j : MvJob) : Nat := fieldOf (j.word 0) 27 24
def MvJob.fmt (j : MvJob) : Nat := fieldOf (j.word 0) 23 22
def MvJob.bpp (j : MvJob) : Nat := match j.fmt with
  | 0 => 1
  | 1 => 2
  | _ => 4
def MvJob.xDesc (j : MvJob) : Bool := bitAt (j.word 0) 21
def MvJob.yDesc (j : MvJob) : Bool := bitAt (j.word 0) 20
def MvJob.dstBase (j : MvJob) : Nat := fieldOf (j.word 3) 23 16 * 2 ^ 32 + (j.word 1).toNat
def MvJob.srcBase (j : MvJob) : Nat := fieldOf (j.word 3) 31 24 * 2 ^ 32 + (j.word 2).toNat
def pitchOf (v : Nat) : Nat := (if v = 0 then 4096 else v) * 64
def MvJob.dstPitch (j : MvJob) : Nat := pitchOf (fieldOf (j.word 4) 28 16)
def MvJob.srcPitch (j : MvJob) : Nat := pitchOf (fieldOf (j.word 4) 12 0)
def MvJob.dstX (j : MvJob) : Nat := fieldOf (j.word 5) 13 0
def MvJob.dstY (j : MvJob) : Nat := fieldOf (j.word 5) 29 16
def MvJob.srcX (j : MvJob) : Nat := fieldOf (j.word 6) 13 0
def MvJob.srcY (j : MvJob) : Nat := fieldOf (j.word 6) 29 16
def MvJob.width (j : MvJob) : Nat := fieldOf (j.word 7) 13 0 + 1
def MvJob.height (j : MvJob) : Nat := fieldOf (j.word 7) 29 16 + 1

/-- COPY and BLEND have a source (R352). -/
def MvJob.usesSource (j : MvJob) : Bool := decide (j.op = 0 ∨ j.op = 2)

/-- Does the job read its destination (R353)? -/
def MvJob.readsDst (j : MvJob) : Bool :=
  decide (2 ≤ j.op) || !(decide (j.rop = 0) || decide (j.rop = 3) || decide (j.rop = 0xC) || decide (j.rop = 0xF))

/-- The cases of undefined results for the job (R351): with them an unlisted op, a pitch beyond its range, and bits that must
be zero (R352). -/
def MvJob.undefined (j : MvJob) : Bool :=
  decide (4 ≤ j.op) || decide (fieldOf (j.word 0) 14 8 ≠ 0) || decide (262144 < j.dstPitch) ||
    (j.usesSource && decide (262144 < j.srcPitch)) || decide (j.dstBase % j.bpp ≠ 0) || (j.usesSource && decide (j.srcBase % j.bpp ≠ 0)) ||
    decide (j.dstPitch < (j.dstX + j.width) * j.bpp) || (j.usesSource && decide (j.srcPitch < (j.srcX + j.width) * j.bpp)) ||
    (decide (j.op = 2) && decide (j.fmt < 2))

/-! ### Pixels (R353, R354) -/

/-- Is the destination pixel inside an enabled clip rectangle (R354)? -/
def MvJob.drawn (j : MvJob) (x y : Nat) : Bool :=
  decide (fieldOf (j.word 0) 19 16 = 0) || (List.range 4).any fun i =>
    let a := j.word (10 + 2 * i)
    let b := j.word (11 + 2 * i)
    bitAt (j.word 0) (16 + i) && decide (fieldOf a 13 0 ≤ x ∧ x ≤ fieldOf b 13 0) &&
      decide (fieldOf a 29 16 ≤ y ∧ y ≤ fieldOf b 29 16)

/-- A raster operation on `n` bits: each result bit is rop bit 2 s + d (R353). -/
def ropBits (rop s d : Nat) : Nat → Nat
  | 0 => 0
  | n + 1 => rop / 2 ^ (2 * (s % 2) + d % 2) % 2 + 2 * ropBits rop (s / 2) (d / 2) n

/-- A blended component with weight num / den, rounded to the nearest code (R353). -/
def blendComp (s d num den : Nat) : Nat := (2 * (s * num + d * (den - num)) + den) / (2 * den)

/-- BLEND of ARGB8888 or ARGB2101010 (R353). -/
def blendPixel (fmt galpha s d : Nat) : Nat :=
  let cw := if fmt = 2 then 8 else 10
  let am := if fmt = 2 then 255 else 3
  let num := s / 2 ^ (3 * cw) * galpha
  let den := am * 255
  let f := fun k => blendComp (s / 2 ^ (k * cw) % 2 ^ cw) (d / 2 ^ (k * cw) % 2 ^ cw) num den * 2 ^ (k * cw)
  f 0 + f 1 + f 2 + blendComp am (d / 2 ^ (3 * cw)) num den * 2 ^ (3 * cw)

/-- The new destination pixel (R353). -/
def MvJob.pixel (j : MvJob) (s d : Nat) : Nat :=
  let m := 256 ^ j.bpp
  match j.op with
  | 0 => ropBits j.rop s d (8 * j.bpp)
  | 1 => ropBits j.rop ((j.word 8).toNat % m) d (8 * j.bpp)
  | 2 => blendPixel j.fmt (fieldOf (j.word 0) 7 0) s d
  | _ => if d = (j.word 9).toNat % m then (j.word 8).toNat % m else d

/-! ### Overlap (R355) -/

/-- Do source and destination rectangles overlap as rectangles of one surface? -/
def MvJob.oneSurface (j : MvJob) : Bool := decide (j.dstBase = j.srcBase) && decide (j.dstPitch = j.srcPitch)

/-- Does the pixel (x, y) of the destination lie in the source rectangle? -/
def MvJob.inSource (j : MvJob) (x y : Nat) : Bool :=
  decide (j.srcX ≤ x ∧ x < j.srcX + j.width ∧ j.srcY ≤ y ∧ y < j.srcY + j.height)

/-- Does the table of R355 allow the job's directions? -/
def MvJob.directionOk (j : MvJob) : Bool :=
  if j.dstY < j.srcY then !j.yDesc
  else if j.srcY < j.dstY then j.yDesc
  else if j.dstX < j.srcX then !j.xDesc
  else if j.srcX < j.dstX then j.xDesc
  else true

/-- Do the bytes of a destination pixel at address `a` meet bytes of the source rectangle? -/
def MvJob.meetsSource (j : MvJob) (a : Nat) : Bool :=
  (List.range j.height).any fun r =>
    let b := j.srcBase + (j.srcY + r) * j.srcPitch + j.srcX * j.bpp
    decide (b < a + j.bpp ∧ a < b + j.width * j.bpp)

/-- Is the result of a pixel left open by an overlap (R355)? -/
def MvJob.openPixel (j : MvJob) (x y a : Nat) : Bool :=
  j.usesSource && (if j.oneSurface then !j.directionOk && j.inSource x y else j.meetsSource a)

/-! ### Rows (R355, R356) -/

/-- The row's y within the rectangle: rows run in the order of y_dir. -/
def MvJob.rowAt (j : MvJob) (i : Nat) : Nat := if j.yDesc then j.height - 1 - i else i

/-- The columns of a row that are drawn, ascending. -/
def MvJob.columns (j : MvJob) (r : Nat) : List Nat :=
  (List.range j.width).filter fun c => j.drawn (j.dstX + c) (j.dstY + r)

def MvJob.dstAddr (j : MvJob) (r c : Nat) : Nat := j.dstBase + (j.dstY + r) * j.dstPitch + (j.dstX + c) * j.bpp
def MvJob.srcAddr (j : MvJob) (r c : Nat) : Nat := j.srcBase + (j.srcY + r) * j.srcPitch + (j.srcX + c) * j.bpp

/-- One check of a row: the address translates and may be reached (R356). -/
def mvCheck (a : Nat) (write : Bool) (s : State) : Option (MasterFault × Nat) × State :=
  match iommu 81 a write s with
  | (.error f, s1) => (some (f, a), s1)
  | (.ok pa, s1) => ((s1.masterReaches 4 0 pa).map fun f => (f, a), s1)

/-- The checks of a row, before any byte of it is written (R356). -/
def MvJob.checks (j : MvJob) (r : Nat) : List Nat → State → Option (MasterFault × Nat) × State
  | [], s => (none, s)
  | c :: cs, s =>
    let a := if j.usesSource then mvCheck (j.srcAddr r c) false s else (none, s)
    match a.1 with
    | some f => (some f, a.2)
    | none =>
      let b := if j.readsDst then mvCheck (j.dstAddr r c) false a.2 else (none, a.2)
      match b.1 with
      | some f => (some f, b.2)
      | none =>
        let d := mvCheck (j.dstAddr r c) true b.2
        match d.1 with
        | some f => (some f, d.2)
        | none => j.checks r cs d.2

/-- A pixel read through stream 81. -/
def mvRead (bpp a : Nat) (need : Bool) (s : State) : Except (MasterFault × Nat) Nat × State :=
  if !need then (.ok 0, s)
  else
    match masterReadRun 81 4 0 a bpp s with
    | (.ok bs, s1) => (.ok (ofLeBytes bs), s1)
    | (.error f, s1) => (.error f, s1)

/-- Bytes read at `a`, with those that the job has overwritten since it began as they were then (R355). -/
def keptOver (kept : List (Nat × Byte)) : Nat → List Byte → List Byte
  | _, [] => []
  | a, b :: r => ((kept.find? fun x => decide (x.1 = a)).map (·.2)).getD b :: keptOver kept (a + 1) r

/-- The value before the job of a pixel of the source rectangle that reads `v` now (R355). -/
def MvJob.sourceValue (j : MvJob) (r c v : Nat) (s : State) : Nat :=
  ofLeBytes (keptOver s.mover.kept (j.srcAddr r c) (leBytes j.bpp v))

/-- Read a segment: each column with its source and destination pixel, or the error. -/
def MvJob.readSegment (j : MvJob) (r : Nat) : List Nat → State → Except (MasterFault × Nat) (List (Nat × Nat × Nat)) × State
  | [], s => (.ok [], s)
  | c :: cs, s =>
    match mvRead j.bpp (j.srcAddr r c) j.usesSource s with
    | (.error f, s1) => (.error f, s1)
    | (.ok sp, s1) =>
      match mvRead j.bpp (j.dstAddr r c) j.readsDst s1 with
      | (.error f, s2) => (.error f, s2)
      | (.ok dp, s2) =>
        match j.readSegment r cs s2 with
        | (.error f, s3) => (.error f, s3)
        | (.ok l, s3) => (.ok ((c, j.sourceValue r c sp s, dp) :: l), s3)

/-- Bytes about to be overwritten, kept unless an earlier write of the job has kept them (R355). -/
def keepBytes : Nat → List Byte → List (Nat × Byte) → List (Nat × Byte)
  | _, [], l => l
  | a, b :: r, l => keepBytes (a + 1) r (if l.any fun x => decide (x.1 = a) then l else (a, b) :: l)

/-- The job keeps the bytes of a source pixel before it writes on them (R355). -/
def MvJob.keepPixel (j : MvJob) (a : Nat) (s : State) : State :=
  match masterReadRun 81 4 0 a j.bpp s with
  | (.ok bs, s1) => { s1 with mover := { s1.mover with kept := keepBytes a bs s1.mover.kept } }
  | (.error _, s1) => s1

/-- Write a segment's pixels; an open one takes a free value, and what it overwrites of the source is kept (R355). -/
def MvJob.writeSegment (j : MvJob) (r : Nat) (bad : Bool) (l : List (Nat × Nat × Nat)) (s : State) : State :=
  l.foldl (fun s x =>
    let a := j.dstAddr r x.1
    if bad then
      let f := takeFree 32 s
      (masterWriteRun 81 4 0 a (leBytes j.bpp f.1.toNat) f.2).2
    else if j.openPixel (j.dstX + x.1) (j.dstY + r) a then
      let f := takeFree 32 (j.keepPixel a s)
      (masterWriteRun 81 4 0 a (leBytes j.bpp f.1.toNat) f.2).2
    else (masterWriteRun 81 4 0 a (leBytes j.bpp (j.pixel x.2.1 x.2.2)) s).2) s

/-- The segments of a row in the order of x_dir (R355). -/
def MvJob.segments (j : MvJob) (r : Nat) : List (List Nat) :=
  let cs := j.columns r
  if j.xDesc then cutEvery (2048 / j.bpp) (cs.length + 1) cs.reverse else cutEvery (2048 / j.bpp) (cs.length + 1) cs

/-- Move the segments of a row: the error that ends it, if any. -/
def MvJob.moveRow (j : MvJob) (r : Nat) : List (List Nat) → State → Option (MasterFault × Nat) × State
  | [], s => (none, s)
  | g :: gs, s =>
    match j.readSegment r g s with
    | (.error f, s1) => (some f, s1)
    | (.ok l, s1) => j.moveRow r gs (j.writeSegment r j.undefined l s1)

def mvFaddr (a : Nat) (s : State) : State :=
  (s.setReg Reg.MV_FADDR_LO (toWord a)).setReg Reg.MV_FADDR_HI (toWord (a / 2 ^ 32 % 256))

/-- A job ends on an error, with job_done where it has irq; the failing row is open; the queue holds (R352, R356, R359). -/
def MvJob.fail (j : MvJob) (r : Nat) (f : MasterFault × Nat) (s : State) : State :=
  let s1 := j.writeSegment r true ((j.columns r).map fun c => (c, 0, 0)) s
  let s2 := fetchCheck false f s1
  mvEvent (if bitAt (j.word 0) 15 then 0x9 else 0x8) (setMvState mvStopped (mvFaddr f.2 (s2.setMover { s2.mover with job := none, kept := [] })))

/-- A row is done; the last one ends the job (R352, R356). -/
def MvJob.rowDone (j : MvJob) (i : Nat) (s : State) : State :=
  let s1 := s.setReg Reg.MV_ROWS (toWord (i + 1))
  if i + 1 = j.height then
    let s2 := setMvState mvIdle (s1.setMover { s1.mover with job := none, kept := [] })
    if bitAt (j.word 0) 15 then mvEvent (oneBit 0) s2 else s2
  else s1

/-- The mover checks, reads and writes one row (R356). -/
def moverRowEff (s : State) : State :=
  match s.mover.job with
  | none => s
  | some x =>
    if s.mvState ≠ mvRunning then s
    else
      let j : MvJob := { w := x.2 }
      let i := (s.reg Reg.MV_ROWS).toNat
      let r := j.rowAt i
      match j.checks r (j.columns r) s with
      | (some (.bus, a), s1) => j.fail r (.bus, a) s1
      | (some f, s1) => mvEvent (oneBit 2) (setMvState mvSuspended (mvFaddr f.2 s1))
      | (none, s1) =>
        match j.moveRow r (j.segments r) s1 with
        | (some f, s2) => j.fail r f s2
        | (none, s2) => j.rowDone i s2

def execMoverRow (s : State) : Out := .next (if s.moverOn then moverRowEff s else s)

/-! ### Jobs (R352, R356, R358) -/

/-- The next queued job starts if it is of this op, or of an unlisted one, whose results are undefined (R351 to R353). -/
def startJob (op : Nat) (s : State) : State :=
  if s.mvState ≠ mvIdle then s
  else
    match s.mover.queue with
    | [] => s
    | x :: r =>
      if MvJob.op { w := x.2 } = op ∨ 4 ≤ MvJob.op { w := x.2 } then
        setMvState mvRunning (((s.setMover { s.mover with queue := r, job := some x, kept := [] }).setReg Reg.MV_JOB (toWord x.1)).setReg
          Reg.MV_ROWS 0)
      else s

def execCopy (s : State) : Out := .next (if s.moverOn then startJob 0 s else s)
def execFill (s : State) : Out := .next (if s.moverOn then startJob 1 s else s)
def execBlend (s : State) : Out := .next (if s.moverOn then startJob 2 s else s)
def execKeyfill (s : State) : Out := .next (if s.moverOn then startJob 3 s else s)

def mvSuspend (s : State) : State := if s.mvState = mvRunning then mvEvent (oneBit 1) (setMvState mvSuspended s) else s
def mvResume (s : State) : State := if s.mvState = mvSuspended then setMvState mvRunning s else s
def mvRestart (s : State) : State := if s.mvState = mvStopped then setMvState mvIdle s else s
def mvFlush (s : State) : State :=
  let s1 := s.setMover { s.mover with queue := [], job := none, kept := [] }
  if s.mvState = mvRunning ∨ s.mvState = mvSuspended then setMvState mvIdle s1 else s1

/-- A write of MV_CTL (R356, R358): enabling restarts job numbers; PARTED is left by enable 0 then 1. -/
def mvCtlWrite (v0 : Word) (s : State) : State :=
  let v := s.keepEnable 5 0 Reg.MV_CTL v0
  let was := s.bit Reg.MV_CTL 31
  let s1 := s.setReg Reg.MV_CTL (v &&& 0x80000000)
  let s2 := if bitAt v 31 ∧ ¬ was = true then s1.setMover { s1.mover with nextNumber := 0 } else s1
  let s3 :=
    if s.mvState = mvParted then
      if !bitAt v 31 then s2.setMover { s2.mover with sawDisable := true }
      else if s.mover.sawDisable then setMvState mvIdle (s2.setMover {}) else s2
    else s2
  let s4 := if bitAt v 0 then mvSuspend s3 else s3
  let s5 := if bitAt v 1 then mvResume s4 else s4
  let s6 := if bitAt v 2 then mvRestart s5 else s5
  if bitAt v 3 then mvFlush s6 else s6

def execMoverSuspend (value : Word) (s : State) : Out :=
  .next (if s.mediaOn then mvCtlWrite (withBit value 0 true) s else s)
def execMoverResume (value : Word) (s : State) : Out :=
  .next (if s.mediaOn then mvCtlWrite (withBit value 1 true) s else s)
def execMoverRestart (value : Word) (s : State) : Out :=
  .next (if s.mediaOn then mvCtlWrite (withBit value 2 true) s else s)
def execMoverFlush (value : Word) (s : State) : Out :=
  .next (if s.mediaOn then mvCtlWrite (withBit value 3 true) s else s)

/-- The aborted mover parts; its queue is discarded (R356). -/
def partMover (s : State) : State :=
  mvEvent (oneBit 4) (setMvState mvParted (s.setMover { nextNumber := s.mover.nextNumber }))

end Sys2Proof.Machine
end

