-- ==== Sys2Proof/Machine/Display.lean ====
section
/-! DEFINITION. The composer and the display heads (spec/14). -/

namespace Sys2Proof.Machine

def State.head (s : State) (h : Nat) : Head := tabGet {} h s.heads
def State.setHead (s : State) (h : Nat) (x : Head) : State := { s with heads := tabSet {} h x s.heads }

/-- The active copy of a frame-class or mode register (R330). -/
def State.act (s : State) (a : Nat) : Word := tabGet (resetKey a) a s.active
def State.afld (s : State) (a h l : Nat) : Nat := fieldOf (s.act a) h l
def State.abit (s : State) (a i : Nat) : Bool := bitAt (s.act a) i

def hdOff : Nat := 0
def hdRunning : Nat := 1
def hdPsr : Nat := 2
def hdLeaving : Nat := 3
def State.hdState (s : State) (h : Nat) : Nat := s.fld (Reg.HD_STATUS h) 31 30
def setHdState (h st : Nat) (s : State) : State := s.setFld (Reg.HD_STATUS h) 31 30 st
def hdEvent (h : Nat) (bits : Word) (s : State) : State := raiseStatus (Reg.HD_STATUS h) (Reg.HD_IRQ_EN h) (2056 + h) bits s
def dpEvent (h : Nat) (bits : Word) (s : State) : State := raiseStatus (Reg.DP_STATUS h) (Reg.DP_IRQ_EN h) 2058 bits s

/-! ### Shadows and active copies (R330, R338, R339) -/

/-- The frame-class registers of a head and its layers (R346). -/
def frameRegs (h : Nat) : List Nat :=
  [Reg.HD_CTL h, Reg.HD_BG h, Reg.HD_FILL h, Reg.HD_ORDER h, Reg.HD_WB_ADDR h, Reg.HD_WB_PITCH h, Reg.HD_PSR_CTL h] ++
    (List.range 8).flatMap fun l =>
      [Reg.LY_CTL h l, Reg.LY_ADDR0 h l, Reg.LY_ADDR1 h l, Reg.LY_ADDR2 h l, Reg.LY_PITCH0 h l, Reg.LY_PITCH1 h l,
       Reg.LY_SRC_POS h l, Reg.LY_SRC_SIZE h l, Reg.LY_DST_POS h l, Reg.LY_DST_SIZE h l, Reg.LY_ALPHA h l]

/-- The mode registers (R330). -/
def modeRegs (h : Nat) : List Nat := [Reg.HD_HTIME h, Reg.HD_HSYNC h, Reg.HD_VTIME h, Reg.HD_VSYNC h, Reg.HD_PCLK h]

/-- Shadows reach their active copies. -/
def activate (as : List Nat) (s : State) : State :=
  { s with active := as.foldl (fun t a => tabSet (resetKey a) a (s.reg a) t) s.active }

/-! ### Timing (R338) -/

def State.hdHactive (s : State) (h : Nat) : Nat := s.afld (Reg.HD_HTIME h) 11 0
def State.hdHtotal (s : State) (h : Nat) : Nat := s.afld (Reg.HD_HTIME h) 28 16
def State.hdVactive (s : State) (h : Nat) : Nat := s.afld (Reg.HD_VTIME h) 11 0
def State.hdVtotal (s : State) (h : Nat) : Nat := s.afld (Reg.HD_VTIME h) 27 16
def State.hdPclk (s : State) (h : Nat) : Nat := s.afld (Reg.HD_PCLK h) 19 0

/-- The limits of R338. -/
def State.timingOk (s : State) (h : Nat) : Bool :=
  let ha := s.hdHactive h
  let va := s.hdVactive h
  decide (64 ≤ ha ∧ ha ≤ 3840 ∧ 64 ≤ va ∧ va ≤ 2160) &&
    decide (ha + s.afld (Reg.HD_HSYNC h) 11 0 + s.afld (Reg.HD_HSYNC h) 27 16 + 16 ≤ s.hdHtotal h ∧ s.hdHtotal h ≤ 8192) &&
    decide (va + s.afld (Reg.HD_VSYNC h) 11 0 + s.afld (Reg.HD_VSYNC h) 27 16 + 1 ≤ s.hdVtotal h ∧ s.hdVtotal h ≤ 4096) &&
    decide (25000 ≤ s.hdPclk h ∧ s.hdPclk h ≤ 600000)

/-! ### Layers (R331, R334, R337, R349, R350) -/

def State.lyOn (s : State) (h l : Nat) : Bool := s.abit (Reg.LY_CTL h l) 31
def State.lyFmt (s : State) (h l : Nat) : Nat := s.afld (Reg.LY_CTL h l) 23 20

/-- Step of an axis in UQ4.16, rounded down (R334). -/
def stepOf (src dst : Nat) : Nat := src * 65536 / max 1 dst

def evenPair (w : Word) (both : Bool) : Bool := decide (fieldOf w 11 0 % 2 = 0) && (!both || decide (fieldOf w 27 16 % 2 = 0))

/-- Does an enabled layer keep to the rules of its format, size and pitch (R331, R334, R349)? -/
def State.layerOk (s : State) (h l : Nat) : Bool :=
  let fmt := s.lyFmt h l
  let video : Bool := decide (l < 2)
  let src := s.act (Reg.LY_SRC_SIZE h l)
  let dst := s.act (Reg.LY_DST_SIZE h l)
  let pos := s.act (Reg.LY_SRC_POS h l)
  let pitchOk : Nat → Bool := fun a => decide (64 ≤ (s.act a).toNat)
  let sx := stepOf (fieldOf src 11 0) (fieldOf dst 11 0)
  let sy := stepOf (fieldOf src 27 16) (fieldOf dst 27 16)
  (match fmt with
    | 0 | 8 => !video
    | 1 | 2 | 3 => true
    | 4 | 5 | 6 | 7 => video
    | _ => false) &&
  pitchOk (Reg.LY_PITCH0 h l) && (decide (fmt < 4) || decide (7 < fmt) || pitchOk (Reg.LY_PITCH1 h l)) &&
  (match fmt with
    | 4 | 6 => evenPair pos true && evenPair src true
    | 5 => evenPair pos false && evenPair src false
    | _ => true) &&
  (if video then decide (8192 ≤ sx ∧ sx ≤ 262144 ∧ 8192 ≤ sy ∧ sy ≤ 262144) else decide (src = dst)) &&
  decide (s.afld (Reg.LY_CTL h l) 18 17 ≠ 3)

/-- The layer at blend position `p` (R337). -/
def State.layerAt (s : State) (h p : Nat) : Nat :=
  if s.abit (Reg.HD_ORDER h) 31 then s.afld (Reg.HD_ORDER h) (3 * p + 2) (3 * p) else p

def State.orderOk (s : State) (h : Nat) : Bool :=
  (List.range 8).all fun l => (List.range 8).any fun p => decide (s.layerAt h p = l)

/-- Lanes, and the link rate in units of 10 Mbit/s (R350). -/
def dpLanes (w : Word) : Nat := 2 ^ fieldOf w 29 28
def dpRate (w : Word) : Nat := [162, 270, 540, 810, 216, 243, 324, 432].getD (fieldOf w 27 24) 0
def dpBpc (w : Word) : Nat := 6 + 2 * fieldOf w 23 22

/-- Listed encodings of DP_CTL (R350). -/
def dpListed (w : Word) : Bool :=
  decide (fieldOf w 29 28 ≠ 3) && decide (fieldOf w 23 22 ≠ 3) &&
    decide (fieldOf w 27 24 < 4 ∨ (fieldOf w 27 24 < 8 ∧ bitAt w 30 = true))

/-- Are the head's results undefined: timing, layers, order, link, and the frames before self-refresh (R331, R334, R337,
R338, R346, R349, R350)? -/
def State.headBad (s : State) (h : Nat) : Bool :=
  !s.timingOk h || !s.orderOk h || !dpListed (s.reg (Reg.DP_CTL h)) ||
    (s.abit (Reg.HD_PSR_CTL h) 31 && decide (s.afld (Reg.HD_PSR_CTL h) 7 0 = 0)) ||
    (List.range 8).any fun l => s.lyOn h l && !s.layerOk h l

/-- Undefined results for the head: its events and counts are open (R40). -/
def headUndefined (h : Nat) (s : State) : State :=
  let f := takeFree 32 s
  let g := takeFree 32 f.2
  let e := takeFree 32 g.2
  ((e.2.setReg (Reg.HD_STATUS h) ((s.reg (Reg.HD_STATUS h) &&& 0xC0000000) ||| (f.1 &&& 0xFE))).setReg (Reg.HD_UNDERRUN h) g.1).setReg
    (Reg.HD_SU h) (e.1 &&& 0x0FFF0FFF)

/-! ### Starting and stopping (R338, R344) -/

def State.linkTrained (s : State) (h : Nat) : Bool := s.bit (Reg.DP_STATUS h) 30

/-- Does the pixel rate fit the link (R344): kHz x 3 bpc against lanes x rate x 0.8? -/
def State.linkFits (s : State) (h : Nat) : Bool :=
  let w := s.reg (Reg.DP_CTL h)
  decide (s.fld (Reg.HD_PCLK h) 19 0 * 3 * dpBpc w ≤ dpLanes w * dpRate w * 8000)

/-- Does the head refuse to start (R344)? Where DP_CTL holds an unlisted encoding that is open (R350). -/
def State.headRefuses (s : State) (h : Nat) : Bool × State :=
  let f := takeFree 1 s
  if !s.linkTrained h then (true, s)
  else if dpListed (s.reg (Reg.DP_CTL h)) then (!s.linkFits h, s)
  else (f.1.getLsbD 0, f.2)

/-- A write of enable = 1 to a head that is off: an implicit commit, and the video PLL starts to lock; or the head refuses
(R338, R344). -/
def headEnable (h : Nat) (s0 : State) : State :=
  let s := (s0.headRefuses h).2
  if (s0.headRefuses h).1 then dpEvent h (oneBit 8) (s.setBit (Reg.HD_CTL h) 31 false)
  else
    (activate (frameRegs h ++ modeRegs h) (s.setBit (Reg.HD_COMMIT h) 31 false)).setHead h
      { s.head h with locking := true, idleFrames := 0, wholeUpdate := false, bufs := [], fills := [] }

/-- A write of enable = 0 (R338, R339). -/
def headDisable (h : Nat) (s : State) : State :=
  setHdState h hdOff (rasterStop (136 + h)
    ((s.setBit (Reg.HD_COMMIT h) 31 false).setHead h { s.head h with locking := false, idleFrames := 0, bufs := [], fills := [] }))

/-- A write of HD_CTL (R330, R338, R347). -/
def hdCtlWrite (h : Nat) (v : Word) (s : State) : State :=
  let was := s.bit (Reg.HD_CTL h) 31
  let s1 := s.setReg (Reg.HD_CTL h) (v &&& 0xFEF00000)
  if bitAt v 31 ∧ ¬ was = true then headEnable h s1
  else if ¬ bitAt v 31 = true ∧ was = true then headDisable h s1
  else s1

def execHeadEnable (h : Fin 2) (value : Word) (s : State) : Out :=
  .next (if s.composerOn then hdCtlWrite h (withBit value 31 true) s else s)
def execHeadDisable (h : Fin 2) (value : Word) (s : State) : Out :=
  .next (if s.composerOn then hdCtlWrite h (withBit value 31 false) s else s)

def setVideoPll (h : Nat) (b : Bool) (s : State) : State :=
  if h = 0 then { s with sys := { s.sys with videoPll0 := b } } else { s with sys := { s.sys with videoPll1 := b } }

/-- The half bytes that a layer's pixel takes (R331). -/
def fmtHalves (fmt : Nat) : Nat := match fmt with
  | 0 => 2
  | 1 => 4
  | 4 => 3
  | 5 => 4
  | 6 => 6
  | 7 => 6
  | _ => 8

/-- The cycles in which a layer's drain is a whole number of bytes (R340): FCLK in kHz, steps of 2^-16, half bytes. -/
def drainCycles : Nat := 1500000 * 65536 * 2

/-- A layer's drain: bytes per `drainCycles` (R340). -/
def State.drainOf (s : State) (h l : Nat) : Nat :=
  let step := if l < 2 then stepOf (s.afld (Reg.LY_SRC_SIZE h l) 11 0) (s.afld (Reg.LY_DST_SIZE h l) 11 0) else 65536
  fmtHalves (s.lyFmt h l) * step * s.hdPclk h

def State.enabledLayers (s : State) (h : Nat) : List Nat := (List.range 8).filter fun l => s.lyOn h l

/-- At each latch the 256 KiB buffer is divided in proportion to the layers' drain (R340). -/
def divideBuffer (h : Nat) (s : State) : State :=
  let ls := s.enabledLayers h
  let total := (ls.map fun l => s.drainOf h l).sum
  s.setHead h { s.head h with
    bufs := ls.map fun l => (l, { fill := 0, filledAt := s.now, share := 262144 * s.drainOf h l / max 1 total }) }

/-- The video PLL locks: the timing generator starts at line 0, dot 0 (R338). -/
def videoLockEff (h : Nat) (s : State) : State :=
  if !(s.head h).locking then s
  else
    let s1 := setVideoPll h true (s.setHead h { s.head h with locking := false })
    let s2 := rasterStart (136 + h) (s.hdHtotal h) (s.hdVtotal h) (s.hdHtotal h * s.hdVtotal h * 1500000) (max 1 (s.hdPclk h)) s1
    let s3 := divideBuffer h (setHdState h hdRunning s2)
    if s3.headBad h then headUndefined h s3 else s3

def execVideoPllLock (h : Fin 2) (s : State) : Out := .next (if s.composerOn then videoLockEff h s else s)

/-- The video PLL is lost: the head blanks, its spindle is LOST (R18, R57, R338). -/
def headPllLost (h : Nat) (s : State) : State :=
  let s1 := setVideoPll h false s
  let n := 136 + h
  if s.hdState h = hdOff then s1
  else
    let s2 := setHdState h hdOff (s1.setSpn n { s1.spn n with rasterRuns := false, rasterEnd := s.now })
    if s2.spnEnabled n ∧ s2.spnState n ≠ spnParted then setSpnState n spnLost s2 else s2

/-! ### Commits (R339) and self-refresh (R343) -/

def commitWrite (h : Nat) (v : Word) (s : State) : State := if bitAt v 0 then s.setBit (Reg.HD_COMMIT h) 31 true else s

def execHdCommit (h : Fin 2) (value : Word) (s : State) : Out := .next (if s.composerOn then commitWrite h value s else s)

/-- Has a live-console layer of the head been written since the last latch? -/
def State.liveWritten (s : State) (h : Nat) : Bool := s.liveLines.any fun x => decide (x.1 = h)
def dropLive (h : Nat) (s : State) : State := { s with liveLines := s.liveLines.filter fun x => decide (x.1 ≠ h) }

/-- May the head use self-refresh (R343)? -/
def State.psrWanted (s : State) (h : Nat) : Bool := s.abit (Reg.HD_PSR_CTL h) 31 && s.bit (Reg.DP_CTL h) 30

/-- The latch at the end of a frame enters self-refresh after psr_frames idle frames; a commit latched in self-refresh, or
write-back, makes the head leave it with a whole update (R343). -/
def psrLatch (h : Nat) (whole busy : Bool) (s : State) : State :=
  let n := if busy then 0 else (s.head h).idleFrames + 1
  let s1 := s.setHead h { s.head h with idleFrames := n }
  if s.hdState h = hdRunning ∧ s.psrWanted h = true ∧ 1 ≤ s.afld (Reg.HD_PSR_CTL h) 7 0 ∧ s.afld (Reg.HD_PSR_CTL h) 7 0 ≤ n then
    (if (s.head h).psrCap then hdEvent h (oneBit 4) (setHdState h hdPsr (s1.setHead h { s1.head h with wholeUpdate := false }))
     else dpEvent h (oneBit 9) s1)
  else if (s.hdState h = hdPsr ∨ s.hdState h = hdLeaving) ∧ whole = true then
    setHdState h hdLeaving (s1.setHead h { s1.head h with wholeUpdate := true })
  else s1

/-- The commit latch, at line vactive, dot 0 (R339). -/
def commitLatchEff (h : Nat) (s : State) : State :=
  if s.hdState h = hdOff then s
  else
    let pend := s.bit (Reg.HD_COMMIT h) 31
    let s1 := if pend then activate (frameRegs h) (s.setBit (Reg.HD_COMMIT h) 31 false) else s
    let s2 := hdEvent h (if pend then 0x6 else 0x2) s1
    let whole := pend || s.abit (Reg.HD_CTL h) 30
    let s3 := psrLatch h whole (whole || s.liveWritten h) s2
    let s4 := if s.hdState h = hdRunning then dropLive h s3 else s3
    let s5 := divideBuffer h (s4.setHead h { s4.head h with fills := [] })
    if s5.headBad h then headUndefined h s5 else s5

def execCommitLatch (h : Fin 2) (s : State) : Out := .next (if s.composerOn then commitLatchEff h s else s)

/-- The smallest and the largest of the head lines written. -/
def State.liveSpan (s : State) (h : Nat) : Option (Nat × Nat) :=
  let ls := (s.liveLines.filter fun x => decide (x.1 = h)).map (·.2)
  match ls with
  | [] => none
  | a :: r => some (r.foldl min a, r.foldl max a)

/-- The head leaves self-refresh and updates the panel: whole, or, with psr2 and a change from live lines only, the
region of the lines written, widened to the panel's granularity (R343). -/
def psrExitEff (h : Nat) (s : State) : State :=
  let st := s.hdState h
  if st ≠ hdLeaving then s
  else
    let s1 := hdEvent h (oneBit 4) (setHdState h hdRunning (dropLive h (s.setHead h { s.head h with idleFrames := 0 })))
    if s.abit (Reg.HD_PSR_CTL h) 30 ∧ ¬ (s.head h).wholeUpdate = true then
      (if !(s.head h).suCap then dpEvent h (oneBit 9) s1
       else
         match s.liveSpan h with
         | some (a, b) =>
           let g := max 1 (s.head h).suGran
           s1.setReg (Reg.HD_SU h) (toWord (a / g * g % 4096 * 2 ^ 16 + ((b / g + 1) * g - 1) % 4096))
         | none => s1)
    else s1

def execPsrExit (h : Fin 2) (s : State) : Out := .next (if s.composerOn then psrExitEff h s else s)

/-! ### The scan-out buffer (R340, R341) -/

/-- Bytes of a layer in the buffer now: what its last refill left, less its drain since (R340). -/
def State.fillNow (s : State) (h l : Nat) : Nat :=
  let b := tabGet {} l (s.head h).bufs
  b.fill - (s.now - b.filledAt) * s.drainOf h l / drainCycles

/-- The tolerance a head reports (R340). -/
def State.headTol (s : State) (h : Nat) : Nat :=
  if s.hdState h = hdRunning ∨ s.hdState h = hdLeaving then
    (s.enabledLayers h).foldl (fun t l => min t (s.fillNow h l * drainCycles / max 1 (s.drainOf h l))) 0xFFFFFFFF
  else 0xFFFFFFFF

/-- A layer at or below its refill level fetches until its share is full (R340). -/
def layerRefillEff (h l : Nat) (s : State) : State :=
  let b := tabGet {} l (s.head h).bufs
  let wm := max 1 (s.afld (Reg.HD_CTL h) 23 20)
  if s.hdState h = hdRunning ∧ s.lyOn h l = true ∧ s.fillNow h l * 16 ≤ wm * b.share then
    s.setHead h { s.head h with bufs := tabSet {} l { b with fill := b.share, filledAt := s.now } (s.head h).bufs }
  else s

def execLayerRefill (h : Fin 2) (l : Fin 8) (s : State) : Out := .next (if s.composerOn then layerRefillEff h l s else s)

/-- Pixels of a line are drawn in HD_FILL (R341). -/
def fillPixels (h l line x n : Nat) (s : State) : State :=
  s.setHead h { s.head h with fills := (l, line, x, x + n) :: (s.head h).fills }

/-- Layer data is missing when due: the rest of the line is drawn in HD_FILL (R341). -/
def underrunEff (h l line x : Nat) (s : State) : State :=
  if s.hdState h = hdRunning ∧ s.lyOn h l = true then
    hdEvent h (oneBit 5) (rcUp (Reg.HD_UNDERRUN h) 1 0xFFFFFFFF (fillPixels h l line x (s.hdHactive h - x) s))
  else s

def execUnderrun (h : Fin 2) (l : Fin 8) (line x : BitVec 13) (s : State) : Out :=
  .next (if s.composerOn then underrunEff h l line.toNat x.toNat s else s)

/-- A fetch of `n` pixels fails at an address: a translation fault is recorded, the pixels are drawn in HD_FILL (R341). -/
def layerFaultEff (h l line x n : Nat) (addr : Word) (s : State) : State :=
  if s.hdState h = hdRunning ∧ s.lyOn h l = true then
    hdEvent h (oneBit 6) (fillPixels h l line x n (iommu (65 + 8 * h + l) addr.toNat false s).2)
  else s

def execLayerFetchFault (h : Fin 2) (l : Fin 8) (line x n : BitVec 13) (addr : Word) (s : State) : Out :=
  .next (if s.composerOn then layerFaultEff h l line.toNat x.toNat n.toNat addr s else s)

/-! ### Composition of a line (R331 to R337) and write-back (R342) -/

/-- Four 10-bit components: A, R, G, B (R332). -/
structure Argb where
  a : Nat
  r : Nat
  g : Nat
  b : Nat
  deriving DecidableEq, Repr

/-- Widen a component by replicating its top bits (R332). -/
def widen8 (c : Nat) : Nat := c * 4 + c / 64
def widen5 (c : Nat) : Nat := c * 32 + c
def widen6 (c : Nat) : Nat := c * 16 + c / 4

def argb8888 (v : Nat) : Argb :=
  { a := widen8 (v / 2 ^ 24 % 256), r := widen8 (v / 2 ^ 16 % 256), g := widen8 (v / 256 % 256), b := widen8 (v % 256) }
def argb2101010 (v : Nat) : Argb :=
  { a := v / 2 ^ 30 % 4 * 341, r := v / 2 ^ 20 % 1024, g := v / 2 ^ 10 % 1024, b := v % 1024 }
def rgb565 (v : Nat) : Argb := { a := 1023, r := widen5 (v / 2 ^ 11 % 32), g := widen6 (v / 32 % 64), b := widen5 (v % 32) }
def rgb30 (w : Word) (a : Nat) : Argb := { a := a, r := fieldOf w 29 20, g := fieldOf w 19 10, b := fieldOf w 9 0 }

/-- A pixel whose value the spec gives no formula for: YUV matrices and filter coefficients (log entry 22). -/
def freeArgb (s : State) : Argb × State :=
  let f := takeFree 30 s
  (rgb30 ((f.1.zeroExtend 32) &&& 0x3FFFFFFF) 1023, f.2)

/-- HD_FILL, as opaque (R341). -/
def State.fillColour (s : State) (h : Nat) : Argb := rgb30 (s.act (Reg.HD_FILL h)) 1023

/-- A gamma word of the three that a colour uses fails detection: the first of them (R341, R432). -/
def State.gammaBad (s : State) (table : Nat → Nat) (c : Argb) : Option Nat :=
  [table c.r, table c.g, table c.b].find? fun k => s.poisoned (regUnit k)

/-- Each component through the same component of its entry (R336). -/
def State.gammaOf (s : State) (table : Nat → Nat) (c : Argb) : Argb :=
  { c with r := s.fld (table c.r) 29 20, g := s.fld (table c.g) 19 10, b := s.fld (table c.b) 9 0 }

/-- A colour through a gamma table: HD_FILL, and a machine check, where a word fails detection (R336, R341, R432). -/
def throughGamma (h : Nat) (table : Nat → Nat) (c : Argb) (s : State) : Argb × State :=
  match s.gammaBad table c with
  | some k => (s.fillColour h, countPoisoned (postCheck (s.mediaOwner 1) 8 (unitOf (regUnit k)) s))
  | none => (s.gammaOf table c, s)

/-- A layer's fetched colour with its opacity and its gamma (R335, R336). -/
def gammaLayer (h l : Nat) (c : Argb) (s : State) : Option Argb × State :=
  let w := s.act (Reg.LY_CTL h l)
  let c1 : Argb := if bitAt w 30 then { c with a := 1023 } else c
  if bitAt w 28 then
    let g := throughGamma h (Reg.GAMMA_LY (8 * h + l) (boolNat (bitAt w 27))) c1 s
    (some g.1, g.2)
  else (some c1, s)

/-- Read a pixel of a packed format; none where a failed fetch, or a palette word that fails detection, leaves it to be
drawn in HD_FILL (R331, R332, R341). -/
def layerFetch (h l x y : Nat) (s : State) : Option Argb × State :=
  let fmt := s.lyFmt h l
  let n := fmtHalves fmt / 2
  let a := (s.act (Reg.LY_ADDR0 h l)).toNat + y * (s.act (Reg.LY_PITCH0 h l)).toNat + x * n
  if 4 ≤ fmt ∧ fmt ≤ 7 then (some (freeArgb s).1, (freeArgb s).2)
  else
    match masterReadRun (65 + 8 * h + l) 9 0 a n s with
    | (.error f, s1) => (none, hdEvent h (oneBit 6) (fetchCheck false f s1))
    | (.ok bs, s1) =>
      let v := ofLeBytes bs
      match fmt with
      | 0 =>
        if s1.poisoned (regUnit (Reg.LY_PAL (8 * h + l) v)) then
          (none, countPoisoned (postCheck (s1.mediaOwner 1) 8 (unitOf (regUnit (Reg.LY_PAL (8 * h + l) v))) s1))
        else (some (argb8888 (s1.reg (Reg.LY_PAL (8 * h + l) v)).toNat), s1)
      | 1 => (some (rgb565 v), s1)
      | 3 => (some (argb2101010 v), s1)
      | _ => (some (argb8888 v), s1)

/-- The source position that a destination offset samples with the nearest filter (R334). -/
def nearest (step off size : Nat) : Nat := min (size - 1) ((2 * off + 1) * step / 131072)

/-- A layer's colour at head pixel (x, y) before blending, none outside its rectangle (R334, R336, R341). -/
def layerColour (h l x y : Nat) (s : State) : Option Argb × State :=
  let dst := s.act (Reg.LY_DST_POS h l)
  let size := s.act (Reg.LY_DST_SIZE h l)
  let dx := (x : Int) - signedOf 16 (fieldOf dst 15 0)
  let dy := (y : Int) - signedOf 16 (fieldOf dst 31 16)
  if dx < 0 ∨ dy < 0 ∨ fieldOf size 11 0 ≤ dx ∨ fieldOf size 27 16 ≤ dy then (none, s)
  else if (s.head h).fills.any fun f => decide (f.1 = l ∧ f.2.1 = y ∧ f.2.2.1 ≤ x ∧ x < f.2.2.2) then
    (some (s.fillColour h), s)
  else
    let src := s.act (Reg.LY_SRC_SIZE h l)
    let pos := s.act (Reg.LY_SRC_POS h l)
    let sx := fieldOf pos 11 0 + nearest (stepOf (fieldOf src 11 0) (fieldOf size 11 0)) dx.toNat (fieldOf src 11 0)
    let sy := fieldOf pos 27 16 + nearest (stepOf (fieldOf src 27 16) (fieldOf size 27 16)) dy.toNat (fieldOf src 27 16)
    let p := if l < 2 ∧ ¬ s.abit (Reg.LY_CTL h l) 19 = true then (some (freeArgb s).1, (freeArgb s).2) else layerFetch h l sx sy s
    match p.1 with
    | none => (some (s.fillColour h), p.2)
    | some c0 => gammaLayer h l c0 p.2

/-- A product in 1,023rds, rounded to the nearest value (R337). -/
def mul1023 (x y : Nat) : Nat := (2 * x * y + 1023) / 2046

/-- Blend one covered pixel (R337). -/
def blendOver (premult : Bool) (alpha : Nat) (src dst : Argb) : Argb :=
  let a := mul1023 src.a alpha
  let f := fun s d => min 1023 ((if premult then s else mul1023 s a) + mul1023 d (1023 - a))
  { a := 1023, r := f src.r dst.r, g := f src.g dst.g, b := f src.b dst.b }

/-- Does the layer hide everything below it at its pixels (R335)? -/
def State.hides (s : State) (h l : Nat) : Bool := s.abit (Reg.LY_CTL h l) 30 && decide (s.afld (Reg.LY_ALPHA h l) 9 0 = 1023)

/-- Compose a pixel from the layers of the blend positions, the topmost first: what an opaque layer hides is not
fetched (R335, R337). -/
def composeHead (h x y : Nat) : List Nat → State → Argb × State
  | [], s => (rgb30 (s.act (Reg.HD_BG h)) 1023, s)
  | p :: r, s =>
    let l := s.layerAt h p
    if !s.lyOn h l then composeHead h x y r s
    else
      match layerColour h l x y s with
      | (none, s1) => composeHead h x y r s1
      | (some c, s1) =>
        if s1.hides h l then (blendOver false 1023 { c with a := 1023 } c, s1)
        else
          let d := composeHead h x y r s1
          (blendOver (d.2.abit (Reg.LY_CTL h l) 29) (d.2.afld (Reg.LY_ALPHA h l) 9 0) c d.1, d.2)

/-- A component rounded to `n` bits. -/
def narrowTo (n c : Nat) : Nat := (2 * c * (2 ^ n - 1) + 1023) / 2046

/-- What the head sends for pixel (x, y): the blended colour through the head gamma, rounded to the link's bits per
component (R336, R337). -/
def linkPixel (h x y : Nat) (s : State) : (Nat × Nat × Nat) × State :=
  let c := composeHead h x y [7, 6, 5, 4, 3, 2, 1, 0] s
  let w := s.act (Reg.HD_CTL h)
  let g := if bitAt w 28 then throughGamma h (Reg.GAMMA_HD h (boolNat (bitAt w 27))) c.1 c.2 else c
  let n := dpBpc (s.reg (Reg.DP_CTL h))
  ((narrowTo n g.1.r, narrowTo n g.1.g, narrowTo n g.1.b), g.2)

/-- A pixel as it is written back (R342). -/
def wbPixel (fmt30 : Bool) (c : Argb) : List Byte :=
  if fmt30 then leBytes 4 (3 * 2 ^ 30 + c.r * 2 ^ 20 + c.g * 2 ^ 10 + c.b)
  else leBytes 4 (255 * 2 ^ 24 + narrowTo 8 c.r * 2 ^ 16 + narrowTo 8 c.g * 256 + narrowTo 8 c.b)

/-- The bytes of a head line from pixel `x` on; free where the head's results are undefined (R40). -/
def headLine (h y : Nat) (bad fmt30 : Bool) : Nat → Nat → State → List Byte × State
  | 0, _, s => ([], s)
  | n + 1, x, s =>
    let c := if bad then freeArgb s else composeHead h x y [7, 6, 5, 4, 3, 2, 1, 0] s
    let r := headLine h y bad fmt30 n (x + 1) c.2
    (wbPixel fmt30 c.1 ++ r.1, r.2)

/-- In output mode 1 a blended line is written through the stream of layer 0, or dropped (R342). -/
def writeBackEff (h y : Nat) (late : Bool) (s : State) : State :=
  if s.hdState h = hdOff ∨ ¬ s.abit (Reg.HD_CTL h) 30 = true ∨ s.hdVactive h ≤ y then s
  else
    let w := headLine h y (s.headBad h) (s.abit (Reg.HD_CTL h) 29) (s.hdHactive h) 0 s
    let a := (w.2.act (Reg.HD_WB_ADDR h)).toNat + y * (w.2.act (Reg.HD_WB_PITCH h)).toNat
    let s1 :=
      if late then hdEvent h (oneBit 7) w.2
      else
        match masterWriteRun (65 + 8 * h) 9 0 a w.1 w.2 with
        | (none, s2) => s2
        | (some _, s2) => hdEvent h (oneBit 7) s2
    if y + 1 = s.hdVactive h then hdEvent h (oneBit 3) s1 else s1

def execWriteBackLine (h : Fin 2) (line : BitVec 12) (late : Bool) (s : State) : Out :=
  .next (if s.composerOn then writeBackEff h line.toNat late s else s)

/-! ### The link (R344, R345, R346, R350) -/

/-- A write of DP_CTL (R350); without link_en the link is not trained. -/
def dpCtlWrite (h : Nat) (v : Word) (s : State) : State :=
  let s1 := s.setReg (Reg.DP_CTL h) (v &&& 0xFFC00000)
  if bitAt v 31 then s1 else s1.setBit (Reg.DP_STATUS h) 30 false

/-- A write of DP_CTL with train: training ends, and the link is trained, or left untrained (R345, R350). -/
def trainEff (h : Nat) (value : Word) (ok psr su : Bool) (gran : Nat) (s : State) : State :=
  let s1 := dpCtlWrite h value s
  if ¬ (bitAt value 31 = true ∧ bitAt value 0 = true) then s1
  else if ok then
    (s1.setBit (Reg.DP_STATUS h) 30 true).setHead h { s1.head h with psrCap := psr, suCap := su, suGran := gran }
  else dpEvent h (oneBit 7) (s1.setBit (Reg.DP_STATUS h) 30 false)

def execLinkTrain (h : Fin 2) (value : Word) (ok psr su : Bool) (gran : BitVec 8) (s : State) : Out :=
  .next (if s.composerOn then trainEff h value ok psr su gran.toNat s else s)

def execHpdPlug (h : Fin 2) (s : State) : Out :=
  .next (if s.composerOn then dpEvent h (oneBit 0) (s.setBit (Reg.DP_STATUS h) 31 true) else s)

/-- An unplug disables the link; the head's timing keeps running (R345). -/
def unplugEff (h : Nat) (s : State) : State :=
  dpEvent h (oneBit 1) (((s.setBit (Reg.DP_STATUS h) 31 false).setBit (Reg.DP_CTL h) 31 false).setBit (Reg.DP_STATUS h) 30 false)

def execHpdUnplug (h : Fin 2) (s : State) : Out := .next (if s.composerOn then unplugEff h s else s)

def execIrqHpd (h : Fin 2) (s : State) : Out := .next (if s.composerOn then dpEvent h (oneBit 2) s else s)

/-- A write of DP_AUX_CMD starts a transaction; one that runs goes on (R346). -/
def auxStart (h : Nat) (v : Word) (s : State) : State :=
  if (s.head h).aux.isSome then s
  else s.setHead h { s.head h with aux := some (v &&& 0xF00FFFFF), auxTries := 0, auxDefers := 0 }

def execDpAuxCmd (h : Fin 2) (value : Word) (s : State) : Out := .next (if s.composerOn then auxStart h value s else s)

/-- Received bytes stand in DP_AUX_DATA from byte 0 upward. -/
def auxBytes (h : Nat) : Nat → List Byte → State → State
  | _, [], s => s
  | i, b :: r, s => auxBytes h (i + 1) r (s.setFld (Reg.DP_AUX_DATA h (i / 4)) (i % 4 * 8 + 7) (i % 4 * 8) b.toNat)

def auxEnd (h ev : Nat) (s : State) : State := dpEvent h (oneBit ev) (s.setHead h { s.head h with aux := none })

/-- An AUX reply (R345): a read request has bit 28 of DP_AUX_CMD set. -/
def auxReplyEff (h : Nat) (r : AuxReply) (s : State) : State :=
  match (s.head h).aux with
  | none => s
  | some w =>
    match r with
    | .ack data =>
      let n := s.fld (Reg.DP_AUX_LEN h) 3 0 + 1
      auxEnd h 3 (if bitAt w 28 then auxBytes h 0 (data.take n) s else s)
    | .nack => auxEnd h 6 s
    | .defer =>
      if (s.head h).auxDefers < 7 then s.setHead h { s.head h with auxDefers := (s.head h).auxDefers + 1 } else auxEnd h 5 s

def execAuxReply (h : Fin 2) (r : AuxReply) (s : State) : Out := .next (if s.composerOn then auxReplyEff h r s else s)

def auxTimeoutEff (h : Nat) (s : State) : State :=
  if (s.head h).aux.isNone then s
  else if (s.head h).auxTries < 3 then s.setHead h { s.head h with auxTries := (s.head h).auxTries + 1 }
  else auxEnd h 4 s

def execAuxTimeout (h : Fin 2) (s : State) : Out := .next (if s.composerOn then auxTimeoutEff h s else s)

/-- HD_POS as it reads: line and dot (R346). -/
def State.hdPos (s : State) (h : Nat) : Word :=
  let x := s.spn (136 + h)
  if !x.rasterRuns then 0
  else
    let dots := (s.now - x.rasterStart) * x.rasterDen / 1500000 % max 1 (x.rasterDots * x.rasterLines)
    toWord (dots / max 1 x.rasterDots * 2 ^ 16 + dots % max 1 x.rasterDots)

end Sys2Proof.Machine
end

