-- ==== Sys2Proof/Machine/Dram.lean ====
section
/-! DEFINITION. The DRAM controller: training, temperature, latency tolerance, self-refresh (R284 to R286, R299). -/

namespace Sys2Proof.Machine

/-- DRAM is trained and its PLL runs, so that its controller works (R18, R285). -/
def State.dramTrained (s : State) : Bool := s.bit Reg.MC_STATUS 31 && s.sys.dramPll && s.sys.ddr
def mcEvent (bits : Word) (s : State) : State := raiseStatus Reg.MC_STATUS Reg.MC_IRQ_EN 2304 bits s

/-- A training step completes, is repeated after 1 ms without a result up to 3 times, or fails: DRAM is then not
enabled at all (R285). -/
def trainStepEff (r : TrainStep) (s : State) : State :=
  if s.dramTrained then s
  else
    match r with
    | .done => { s with trainTries := 0 }
    | .noResult =>
      if s.trainTries < 3 then { s with trainTries := s.trainTries + 1 }
      else logOpen 2 6 evTraining [] (mcEvent (oneBit 1) ({ s with trainTries := 0 }.setBit Reg.MC_CTL 31 false))
    | .trained n =>
      ({ s with trainTries := 0, sys := { s.sys with dramPll := true, clocksLost := s.sys.clocksLost &&& ~~~0x80 } }.setReg Reg.MC_SIZE (toWord n)).setBit Reg.MC_STATUS
        31 true

def execDramTrainStep (r : TrainStep) (s : State) : Out := .next (if s.fclkOn && s.sys.ddr then trainStepEff r s else s)

/-- The temperature mode register is read every 16 ms; without a valid code refresh runs at four times its rate
(R285). -/
def tempReadEff (code : Option (BitVec 3)) (s : State) : State :=
  if !s.dramTrained then s
  else
    match code with
    | some c => { s with dramTemp := c.toNat, refreshFast := false }
    | none => mcEvent (oneBit 2) { s with refreshFast := true }

def execDramTempRead (code : Option (BitVec 3)) (s : State) : Out := .next (if s.fclkOn then tempReadEff code s else s)

/-- The slack L t_h - t_f(k_max) of a streamed partition in whole cycles (R95), from its declaration. -/
def State.plateSlack (s : State) (a : Admitted) : Option Nat :=
  let n := a.part.1
  if (a.kind = 1 ∨ a.kind = 3) ∧ s.streamed n = true then
    let l := s.fld (Reg.PLATE_PART_RES n) 23 16
    let k := s.fld (Reg.PLATE_PART_RES n) 10 0
    let swept := if a.kind = 1 then l * 256 * second / max 1 ((a.word 4).toNat * 2 ^ a.part.2)
      else l * (a.word 4).toNat / 2 ^ a.part.2
    some (swept - 400 * (k + 1))
  else none

/-- MC_LAT_TOL as it reads: the smallest tolerance of the heads, the plate, the console engine while it scans a context
(open, log entry 40), and the running DMA channels that report one (R286). -/
def State.latTol (s : State) : Nat :=
  let heads := (List.range 2).map s.headTol
  let plate := s.place.admitted.filterMap s.plateSlack
  let dma := ((List.range 64).filter fun c =>
    (decide (s.dmaState c = dmaRunning) || decide (s.dmaState c = dmaPaced)) && decide (s.reg (Reg.DMA_CH_LAT_TOL c) ≠ 0)).map
      fun c => (s.reg (Reg.DMA_CH_LAT_TOL c)).toNat
  let console := if s.conEngineOn && (List.range 512).any fun k => decide (s.conState k = conScanning) then
      [(Config.consoleTolerance s.devTimer).toNat] else []
  (heads ++ plate ++ console ++ dma).foldl min 0xFFFFFFFF

/-- Self-refresh is entered with sr_en, when the tolerance allows the exit (R286). -/
def srEntryEff (s : State) : State :=
  if s.dramTrained ∧ s.bit Reg.MC_CTL 30 = true ∧ (s.reg Reg.MC_SR_EXIT).toNat ≤ s.latTol then s.setBit Reg.MC_STATUS 30 true
  else s

def execSelfRefreshEntry (s : State) : Out := .next (if s.fclkOn then srEntryEff s else s)

/-- An access wakes the DRAM (R286, R299). -/
def srExitEff (s : State) : State :=
  if s.bit Reg.MC_STATUS 30 then mcEvent (oneBit 0) (s.setBit Reg.MC_STATUS 30 false) else s

def execSelfRefreshExit (s : State) : Out := .next (if s.fclkOn then srExitEff s else s)

end Sys2Proof.Machine
end

