-- ==== Sys2Proof/Machine/Audio.lean ====
section
/-! DEFINITION. Audio and acoustic paths (spec/16). -/

namespace Sys2Proof.Machine

def State.setAudio (s : State) (a : Audio) : State := { s with audio := a }
def State.voice (s : State) (v : Nat) : Voice := tabGet {} v s.audio.voices
def State.setVoice (s : State) (v : Nat) (x : Voice) : State := s.setAudio { s.audio with voices := tabSet {} v x s.audio.voices }
def State.route (s : State) (r : Nat) : Route := tabGet {} r s.audio.routes
def State.setRoute (s : State) (r : Nat) (x : Route) : State := s.setAudio { s.audio with routes := tabSet {} r x s.audio.routes }
def State.bus (s : State) (b : Nat) : AudBus := tabGet {} b s.audio.buses
def State.setBus (s : State) (b : Nat) (x : AudBus) : State := s.setAudio { s.audio with buses := tabSet {} b x s.audio.buses }
def State.audOut (s : State) (o : Nat) : AudOut := tabGet {} o s.audio.outs
def State.setAudOut (s : State) (o : Nat) (x : AudOut) : State := s.setAudio { s.audio with outs := tabSet {} o x s.audio.outs }

def audEvent (bits : Word) (s : State) : State := raiseStatus Reg.AUD_STATUS Reg.AUD_IRQ_EN 2080 bits s
def tdmEvent (p : Nat) (bits : Word) (s : State) : State :=
  let s1 := noteSet (Reg.TDM_STATUS p) bits (s.setReg (Reg.TDM_STATUS p) (s.reg (Reg.TDM_STATUS p) ||| bits))
  if s.reg (Reg.TDM_STATUS p) = 0 then noteDeferred (2081 + p) s1 else s1

/-- The block runs: island, audio PLL, enable (R360, R372). -/
def State.audioOn (s : State) : Bool := s.mediaOn && s.sys.audioPll && s.bit Reg.AUD_CTL 31

/-- Samples in `ms` milliseconds of a domain; the carrier's measured rate counts (R360, R368). -/
def State.samplesIn (s : State) (d ms : Nat) : Nat :=
  match d with
  | 0 => 48 * ms
  | 1 => 192 * ms
  | _ => (s.reg Reg.AUD_CAR_RATE).toNat * ms / 256000

/-- A quotient whose rounding the spec leaves open: either neighbour of an inexact one (log entry 23). -/
def roundOpen (num : Int) (den : Nat) (s : State) : Int × State :=
  let q := num / (den : Int)
  if num % (den : Int) = 0 then (q, s)
  else
    let f := takeFree 1 s
    (q + f.1.toNat, f.2)

/-! ### Voices (R362, R363) -/

/-- Sample `i` of the voice RAM; one whose word fails detection reads as zero (R363, R432). -/
def vramSample (i : Nat) (s : State) : Int × State :=
  let a := Reg.AUD_VRAM (i % 65536 / 2)
  if s.poisoned (regUnit a) then (0, countPoisoned (postCheck (s.mediaOwner 2) 9 (unitOf (regUnit a)) s))
  else (signedOf 16 (fieldOf (s.reg a) (i % 2 * 16 + 15) (i % 2 * 16)), s)

/-- Enter an envelope segment from the present level to `last` over `n` samples. -/
def Voice.segment (x : Voice) (stage last n : Nat) : Voice :=
  { x with stage := stage, first := x.level, last := last, len := n, done := 0, level := if n = 0 then last else x.level }

def envMs (w : Word) (h l : Nat) : Nat := 48 * fieldOf w h l
def sustainLevel (w : Word) : Nat := fieldOf w 15 8 * 2 ^ 24 / 255

/-- key_on and key_off (R363): key_on from the present level, at the sample's start. -/
def keyOn (v : Nat) (s : State) : State :=
  s.setVoice v { (s.voice v).segment 1 (2 ^ 24) (envMs (s.reg (Reg.VC_ENV v)) 31 24) with place := 0 }
def keyOff (v : Nat) (s : State) : State :=
  if (s.voice v).stage = 0 ∨ (s.voice v).stage = 4 then s
  else s.setVoice v ((s.voice v).segment 4 0 (envMs (s.reg (Reg.VC_ENV v)) 7 0))

/-- A write of VC_CTL (R363, R373): both keys together act as key_on. -/
def vcCtlWrite (v : Nat) (w : Word) (s : State) : State :=
  let s1 := s.setReg (Reg.VC_CTL v) (w &&& 0x20000000)
  if bitAt w 31 then keyOn v s1 else if bitAt w 30 then keyOff v s1 else s1

def execKeyOn (v : Fin 32) (value : Word) (s : State) : Out :=
  .next (if s.mediaOn then vcCtlWrite v (withBit value 31 true) s else s)
def execKeyOff (v : Fin 32) (value : Word) (s : State) : Out :=
  .next (if s.mediaOn then vcCtlWrite v (withBit value 30 true) s else s)

def voiceIdle (v : Nat) (s : State) : State :=
  audEvent (oneBit 0) (s.setVoice v { s.voice v with stage := 0, level := 0, out := 0 })

/-- The envelope moves one sample on; a finished segment enters the next stage (R363). -/
def envStep (v : Nat) (s : State) : State :=
  let x := s.voice v
  let w := s.reg (Reg.VC_ENV v)
  let k := x.done + 1
  let lv := if x.len ≤ k then x.last
    else ((x.first : Int) + ((x.last : Int) - x.first) * k / (x.len : Int)).toNat
  let y : Voice := { x with done := k, level := lv }
  if x.len ≤ k then
    match x.stage with
    | 1 => s.setVoice v (y.segment 2 (sustainLevel w) (envMs w 23 16))
    | 2 => s.setVoice v { y with stage := 3 }
    | 4 => voiceIdle v (s.setVoice v y)
    | _ => s
  else s.setVoice v y

/-- The length of a voice's sample, and its loop point relative to its start. -/
def State.voiceLen (s : State) (v : Nat) : Nat := if s.fld (Reg.VC_LEN v) 15 0 = 0 then 65536 else s.fld (Reg.VC_LEN v) 15 0
def State.voiceLoop (s : State) (v : Nat) : Nat :=
  (s.fld (Reg.VC_ADDR v) 31 16 + 65536 - s.fld (Reg.VC_ADDR v) 15 0) % 65536

/-- A voice gives its sample: linear interpolation between neighbours, the envelope, Q9.23 (R362, R363). Past the last
sample the neighbour is open. -/
def voiceSample (v : Nat) (s : State) : State :=
  let x := s.voice v
  if x.stage = 0 then s
  else
    let i := x.place / 2 ^ 24
    let f : Nat := x.place % 2 ^ 24
    let start := s.fld (Reg.VC_ADDR v) 15 0
    let a := vramSample (start + i) s
    let b := if f = 0 then a else if i + 1 < s.voiceLen v then vramSample (start + i + 1) a.2
      else ((takeFree 16 a.2).1.toInt, (takeFree 16 a.2).2)
    let r := roundOpen ((a.1 * (2 ^ 24 - (f : Int)) + b.1 * (f : Int)) * (x.level : Int)) (2 ^ 40) b.2
    r.2.setVoice v { r.2.voice v with out := r.1 }

/-- A voice's place moves on by VC_INC; at the end it loops or becomes idle (R363). -/
def voiceMove (v : Nat) (s : State) : State :=
  let x := s.voice v
  if x.stage = 0 then s
  else
    let p := x.place + (s.reg (Reg.VC_INC v)).toNat
    let top := s.voiceLen v * 2 ^ 24
    if p < top then envStep v (s.setVoice v { x with place := p })
    else if s.bit (Reg.VC_CTL v) 29 then
      let l := s.voiceLoop v * 2 ^ 24
      envStep v (s.setVoice v { x with place := if l < top then l + (p - top) % (top - l) else l })
    else voiceIdle v s

def voicesStep (s : State) : State :=
  forEach (List.range 32) (fun v s => voiceMove v (voiceSample v s)) s

/-- VC_STATUS as it reads (R373). -/
def State.vcStatus (s : State) (v : Nat) : Word :=
  let x := s.voice v
  toWord (x.stage * 2 ^ 29 + (s.fld (Reg.VC_ADDR v) 15 0 + x.place / 2 ^ 24) % 65536)

/-! ### Routes (R367, R368) -/

def State.busDomain (s : State) (b : Nat) : Nat := s.fld (Reg.AUD_BUS_CTL b) 30 29

/-- The domain of a source (R360, R363 to R367). -/
def State.srcDomain (s : State) (kind src : Nat) : Nat :=
  match kind with
  | 0 => 0
  | 1 => 1
  | 2 => boolNat (s.bit (Reg.TDM_CTL (src / 16 % 4)) 28)
  | 3 => 2
  | _ => s.busDomain (src % 16)

/-- Does the instance name a kind or a number of source that is not listed (R367, R374)? -/
def RtInst.unlisted (i : RtInst) : Bool :=
  match i.kind with
  | 0 => decide (32 ≤ i.src)
  | 1 => decide (16 ≤ i.src)
  | 2 => decide (64 ≤ i.src)
  | 3 => decide (8 ≤ i.src)
  | 4 => decide (16 ≤ i.src)
  | _ => true

/-- The bridge that an instance passes: source and destination domain; none within one domain (R367). -/
def State.bridgeOf (s : State) (i : RtInst) : Option (Nat × Nat × Nat) :=
  if i.unlisted ∨ s.srcDomain i.kind i.src = s.busDomain i.bus then none else some (i.kind, i.src, s.busDomain i.bus)

/-- The bridges in use, each once. -/
def State.bridges (s : State) : List (Nat × Nat × Nat) :=
  ((s.audio.routes.flatMap fun r => r.2.inst.toList ++ r.2.fade.toList).filterMap s.bridgeOf).dedup

/-- The numerator of an instance's present gain over 4,096 len; its ramp is linear (R368). -/
def RtInst.gainNum (i : RtInst) : Nat :=
  if i.len = 0 then i.last else ((i.first : Int) * i.len + ((i.last : Int) - i.first) * (min i.done i.len : Nat)).toNat
def RtInst.gainDen (i : RtInst) : Nat := max 1 i.len

/-- The present gain in UQ4.12. -/
def RtInst.gain (i : RtInst) : Nat := i.gainNum / i.gainDen
def RtInst.settled (i : RtInst) : Bool := decide (i.len ≤ i.done)
def RtInst.rampTo (i : RtInst) (g n : Nat) : RtInst := { i with first := i.gain, last := g, len := n, done := 0 }

/-- Would the instance find a bridge, with `used` in use (R367, R368)? -/
def State.bridgeFree (s : State) (used : List (Nat × Nat × Nat)) (i : RtInst) : Bool :=
  match s.bridgeOf i with
  | none => true
  | some b => used.contains b || decide (used.length < 16)

/-- Apply a staged route (R368): the result word. -/
def routeApply (g0 g1 : Word) (s : State) : Word × State :=
  let r := fieldOf g0 6 0
  let x := s.route r
  let on := bitAt g0 31
  let kind := fieldOf g0 30 28
  let src := fieldOf g0 13 8
  let bus := fieldOf g0 23 20
  let n := max 1 (s.samplesIn (s.busDomain bus) (fieldOf g1 8 0 + 1))
  let fresh : RtInst := { kind := kind, src := src, bus := bus, first := 0, last := fieldOf g1 31 16, len := n }
  let start : Route → Word × State := fun y =>
    if s.bridgeFree s.bridges fresh then (0, s.setRoute r { y with inst := some fresh, releasing := false, parted := false, sawDisable := false })
    else (0x80000001, s)
  if x.parted then
    if !on then (0, s.setRoute r { x with sawDisable := true })
    else if x.sawDisable then start {}
    else (0x80000003, s)
  else
    match x.inst with
    | none => if on then start x else (0, s)
    | some i =>
      if !on then
        (0, s.setRoute r { x with inst := some (i.rampTo 0 n), releasing := true })
      else if i.kind = kind ∧ i.src = src ∧ i.bus = bus then
        (0, s.setRoute r { x with inst := some (i.rampTo (fieldOf g1 31 16) n), releasing := false })
      else if !s.bridgeFree (s.setRoute r { x with fade := none }).bridges fresh then (0x80000001, s)
      else if x.fade.isNone ∧ 32 ≤ (s.audio.routes.filter fun y => y.2.fade.isSome).length then (0x80000002, s)
      else
        let s1 := s.setRoute r { x with inst := some fresh, fade := some (i.rampTo 0 n), releasing := false }
        (0, if x.fade.isSome then audEvent (oneBit 5) s1 else s1)

def execAudRtApply (q : Requester) (s : State) : Out :=
  .next (if s.mediaOn then
      answerWith q (routeApply (s.reg (ownKey q Reg.AUD_RT_STG0)) (s.reg (ownKey q Reg.AUD_RT_STG1)) s)
    else s)

/-- A ramp or crossfade has ended: its fade slot or its bridge is released (R368). -/
def rampDoneEff (r : Nat) (s : State) : State :=
  let x := s.route r
  let y : Route := match x.fade with
    | some f => if f.settled then { x with fade := none } else x
    | none => x
  match y.inst with
  | some i => if y.releasing && i.settled then s.setRoute r { y with inst := none, releasing := false } else s.setRoute r y
  | none => s.setRoute r y

def execRampDone (r : Fin 128) (s : State) : Out := .next (if s.mediaOn then rampDoneEff r s else s)

/-- AUD_RT_STATUS as it reads (R373). -/
def State.rtStatus (s : State) (r : Nat) : Word :=
  let x := s.route r
  let g := match x.inst with
    | some i => i.gain
    | none => 0
  withBit (withBit (withBit (toWord (g % 65536)) 31 (x.inst.isSome && !x.releasing)) 30 (x.fade.isSome || x.releasing)) 29 x.parted

/-! ### Sums, meters, outputs (R361, R362, R367 to R370) -/

def satQ923 (z : Int) : Int := clampInt (-0x80000000) 0x7FFFFFFF z
def satFull (z : Int) : Int := clampInt (-0x800000) 0x7FFFFF z

/-- A source's value within its own domain (R362 to R367). -/
def State.srcValue (s : State) (kind src : Nat) : Int :=
  match kind with
  | 0 => (s.voice (src % 32)).out
  | 1 => tabGet 0 (src % 16) s.audio.pdm
  | 2 => tabGet 0 src s.audio.tdm2
  | 3 => tabGet 0 (src % 8) s.audio.carrier
  | _ => (s.bus (src % 16)).sum

/-- What comes out of the bridges into domain `d` in this sample: converters whose response the spec leaves open,
ducked while the carrier domain is lost (R361, R367). -/
def bridgeValues (d : Nat) : List (Nat × Nat × Nat) → State → List ((Nat × Nat × Nat) × Int) × State
  | [], s => ([], s)
  | b :: r, s =>
    if b.2.2 ≠ d then bridgeValues d r s
    else
      let f := takeFree 32 s
      let full := max 1 (s.samplesIn d 1)
      let left := if s.srcDomain b.1 b.2.1 = 2 then full - min full (tabGet 0 d s.audio.duck) else full
      let v := roundOpen (f.1.toInt * left) full f.2
      let t := bridgeValues d r v.2
      ((b, v.1) :: t.1, t.2)

/-- An instance's contribution to its bus. -/
def contribution (br : List ((Nat × Nat × Nat) × Int)) (old : State) (i : RtInst) (s : State) : Int × State :=
  if i.unlisted then
    let f := takeFree 32 s
    (f.1.toInt, f.2)
  else
    let v := match old.bridgeOf i with
      | none => old.srcValue i.kind i.src
      | some b => ((br.find? fun x => decide (x.1 = b)).map (·.2)).getD 0
    roundOpen (v * i.gainNum) (4096 * i.gainDen) s

/-- The sum of a list of instances. -/
def sumOf (br : List ((Nat × Nat × Nat) × Int)) (old : State) : List RtInst → State → Int × State
  | [], s => (0, s)
  | i :: r, s =>
    let a := contribution br old i s
    let b := sumOf br old r a.2
    (a.1 + b.1, b.2)

/-- A meter takes a sample of magnitude `m`: peak with hold, and root mean square over its window, which is open where
rms_log2 is below its range (R370). -/
def meterStep (d peakReg rmsReg m : Nat) (x : Meter) (s : State) : Meter × State :=
  let hold := s.samplesIn d (s.fld Reg.AUD_MTR_CTL 15 0)
  let log2 := s.fld Reg.AUD_MTR_CTL 19 16
  let up : Bool := decide ((s.reg peakReg).toNat ≤ m) || decide (hold ≤ x.age + 1)
  let s1 := if up then s.setReg peakReg (toWord m) else s
  let sum := x.sum + m * m
  if log2 < 6 then ({ age := if up then 0 else x.age + 1 }, freeReg rmsReg s1)
  else
  let cnt := x.count + 1
  if 2 ^ log2 ≤ cnt then
    let mean := sum / 2 ^ log2
    let root := natSqrt mean
    let f := takeFree 1 s1
    ({ age := if up then 0 else x.age + 1 },
     if root * root * 2 ^ log2 = sum then s1.setReg rmsReg (toWord root) else f.2.setReg rmsReg (toWord (root + f.1.toNat)))
  else ({ age := if up then 0 else x.age + 1, sum := sum, count := cnt }, s1)

/-- The new sum of one bus (R362, R369); a bus of an unlisted domain is open. -/
def busStep (d : Nat) (br : List ((Nat × Nat × Nat) × Int)) (old : State) (b : Nat) (s : State) : State :=
  if s.bit (Reg.AUD_BUS_CTL b) 31 && decide (s.busDomain b = 3) then
    (takeFree 32 s).2.setBus b { s.bus b with sum := (takeFree 32 s).1.toInt }
  else if !s.bit (Reg.AUD_BUS_CTL b) 31 ∨ s.busDomain b ≠ d then s
  else
    let is := (s.audio.routes.flatMap fun r => r.2.inst.toList ++ r.2.fade.toList).filter fun i => decide (i.bus = b)
    let t := sumOf br old is s
    let v := satQ923 t.1
    let s1 := if v ≠ t.1 then audEvent (oneBit 4) t.2 else t.2
    let m := meterStep d (Reg.AUD_BUS_PEAK b) (Reg.AUD_BUS_RMS b) v.natAbs (s1.bus b).meter s1
    m.2.setBus b { sum := v, meter := m.1 }

/-- The ramps of the instances into a domain's buses move one sample on (R368). -/
def rampsStep (d : Nat) (s : State) : State :=
  let go : RtInst → RtInst := fun i => if s.busDomain i.bus = d then { i with done := min i.len (i.done + 1) } else i
  s.setAudio { s.audio with routes := s.audio.routes.map fun r => (r.1, { r.2 with inst := r.2.inst.map go, fade := r.2.fade.map go }) }

/-- Is the output misrouted: its TDM port does not belong to its bus's domain, or its capture queue is not listed
(R369)? -/
def State.outBad (s : State) (o : Nat) : Bool :=
  let w := s.reg (Reg.AUD_OUT_CTL o)
  if bitAt w 22 then decide (8 ≤ fieldOf w 21 16)
  else decide (boolNat (s.bit (Reg.TDM_CTL (fieldOf w 21 16 / 16)) 28) ≠ s.busDomain (fieldOf w 29 26))

/-- A word pushed into a capture queue (R369). -/
def capturePush (q : Nat) (v : Int) (s : State) : State :=
  let l := tabGet [] q s.audio.queues
  if 64 ≤ l.length then audEvent (oneBit 2) s
  else
    (s.setAudio { s.audio with queues := tabSet [] q (l ++ [intWord v]) s.audio.queues }).setReg (Reg.AUD_CQ_FILL q)
      (toWord (l.length + 1))

/-- The limiter (R369): delayed by 32 samples; where it has to act, what it makes of the sample is open below the
threshold. -/
def limited (o d : Nat) (x : AudOut) (s : State) : Int × Nat × State :=
  let thr : Int := s.fld (Reg.AUD_OUT_LIM o) 31 16 * 256
  let newest := (x.line.headD 0).natAbs
  let hot := if thr < newest then 33 + s.samplesIn d (s.fld (Reg.AUD_OUT_LIM o) 15 0) else x.hot - 1
  if hot = 0 then ((x.line.getD 32 0), 0, s)
  else
    let f := takeFree 32 s
    (clampInt (-thr) thr f.1.toInt, hot, f.2)

/-- One output takes its bus's previous sample (R369 to R371). -/
def outStep (d : Nat) (old : State) (o : Nat) (s : State) : State :=
  let w := s.reg (Reg.AUD_OUT_CTL o)
  let b := fieldOf w 29 26
  if !bitAt w 31 ∨ s.busDomain b ≠ d then s
  else
    let x := s.audOut o
    let line := ((old.bus b).sum :: x.line).take 33
    let y : AudOut := { x with line := line }
    let r : Int × Nat × State :=
      if x.parted then (0, 0, s)
      else if s.outBad o then ((takeFree 24 s).1.toInt, 0, (takeFree 24 s).2)
      else if bitAt w 30 then limited o d y s
      else (line.headD 0, 0, s)
    let v := satFull r.1
    let s1 := if v ≠ r.1 then audEvent (oneBit 3) r.2.2 else r.2.2
    let m := meterStep d (Reg.AUD_OUT_PEAK o) (Reg.AUD_OUT_RMS o) v.natAbs x.meter s1
    let s2 := m.2.setAudOut o { y with hot := r.2.1, value := v, before := x.value, meter := m.1 }
    if bitAt w 22 && !x.parted then capturePush (fieldOf w 18 16) v s2 else s2

/-- The bridges out of the carrier domain into `d` ramp down while it is lost, and up again after (R361). -/
def duckStep (d : Nat) (s : State) : State :=
  let full := s.samplesIn d 1
  let k := tabGet 0 d s.audio.duck
  s.setAudio { s.audio with duck := tabSet 0 d (if s.audio.carLost then min full (k + 1) else k - 1) s.audio.duck }

/-- A domain's sample: buses sum what their sources gave before, outputs take their bus's previous sum, ramps move on
(R360, R367 to R371). -/
def domainStep (d : Nat) (s : State) : State :=
  let old := duckStep d s
  let br := bridgeValues d old.bridges old
  let s1 := forEach (List.range 16) (busStep d br.1 old) br.2
  let s2 := forEach (List.range 16) (outStep d old) s1
  countWrap (Reg.AUD_SAMPLES d) 1 (rampsStep d s2)

/-- The PDM inputs take their samples; a lost group gives zero, and 32 samples after its return are dropped (R364). -/
def pdmStep (vs : List (BitVec 24)) (s : State) : State :=
  let a := s.audio
  s.setAudio { a with
    pdm := (List.range 16).foldl (fun t m =>
      let g := m / 4
      tabSet 0 m (if a.pdmLost.getLsbD g || decide (0 < tabGet 0 g a.pdmDiscard) then 0 else (vs.getD m 0).toInt) t) a.pdm
    pdmDiscard := a.pdmDiscard.filterMap fun x => if x.2 ≤ 1 then none else some (x.1, x.2 - 1) }

/-- The bits of a slot of a TDM port (R373). -/
def tdmWidth (w : Word) : Nat := 16 + 8 * fieldOf w 23 22

/-- Are the port's results open: an unlisted width, or more than 24.576 MHz (R365, R373)? -/
def tdmOpen (w : Word) : Bool :=
  decide (fieldOf w 23 22 = 3) ||
    decide (24576 < (if bitAt w 28 then 192 else 48) * (fieldOf w 27 24 + 1) * tdmWidth w)

/-- Does slot `i % 16` of port `i / 16` move data in this direction: the port runs in synchrony, and has the slot (R365)? -/
def State.tdmMoves (s : State) (i : Nat) (out : Bool) : Bool :=
  let w := s.reg (Reg.TDM_CTL (i / 16))
  bitAt w 31 && !s.audio.tdmLost.getLsbD (i / 16) && decide (i % 16 ≤ fieldOf w 27 24) &&
    decide (s.bit (Reg.TDM_DIR (i / 16)) (i % 16) = out)

/-- A slot's bits as Q1.23: left-justified, the low 8 of 32 bits dropped (R362, R365). -/
def tdmIn (w bits : Word) : Int := signedOf 24 (bits.toNat % 2 ^ tdmWidth w * 2 ^ 24 / 2 ^ tdmWidth w)

/-- The TDM input slots of a domain's ports take their samples, two samples from their bus (R365, R371). -/
def tdmStep (d : Nat) (vs : List Word) (s : State) : State :=
  (List.range 64).foldl (fun s i =>
    let w := s.reg (Reg.TDM_CTL (i / 16))
    if boolNat (bitAt w 28) ≠ d then s
    else
      let x : Int × State :=
        if !s.tdmMoves i false then (0, s)
        else if tdmOpen w then ((takeFree 24 s).1.toInt, (takeFree 24 s).2)
        else (tdmIn w (vs.getD i 0), s)
      x.2.setAudio { x.2.audio with
        tdm2 := tabSet 0 i (tabGet 0 i x.2.audio.tdm1) x.2.audio.tdm2
        tdm1 := tabSet 0 i x.1 x.2.audio.tdm1 }) s

/-- The bits that output slot `i % 16` of port `i / 16` sends: the last sample but one of the output that names the slot,
zeros below 24 bits of a wider slot, and zero where the port or the output does not run (R365, R369, R371, R372). -/
def State.tdmSlot (s : State) (i : Nat) : Word :=
  let w := s.reg (Reg.TDM_CTL (i / 16))
  let from_ := (List.range 16).find? fun o =>
    let c := s.reg (Reg.AUD_OUT_CTL o)
    bitAt c 31 && !bitAt c 22 && decide (fieldOf c 21 16 = i) && !(s.audOut o).parted
  match from_ with
  | some o =>
    if s.audioOn && s.tdmMoves i true then
      toWord ((intWord (s.audOut o).before).toNat % 2 ^ 24 * 2 ^ tdmWidth w / 2 ^ 24)
    else 0
  | none => 0

/-- D48 or D192 takes its next sample (R360). The values of PDM inputs, whose decimator the spec leaves open, and of TDM
input slots come with the command. -/
def domainSampleEff (d : Nat) (pdm : List (BitVec 24)) (tdm : List Word) (s : State) : State :=
  let s1 := tdmStep d tdm (domainStep d s)
  if d = 0 then voicesStep s1 else pdmStep pdm s1

def execDomainSample (d : Fin 2) (pdm : List (BitVec 24)) (tdm : List Word) (s : State) : Out :=
  .next (if s.audioOn then domainSampleEff d pdm tdm s else s)

/-! ### The carrier domain (R361, R366) -/

/-- A carrier input takes its channel's value (R362, R366); one that names no channel, or a group that is not listed, is
open. -/
def carrierInput (s : State) (i : Nat) : State :=
  let w := s.reg (Reg.AUD_CAR_IN i)
  if !bitAt w 31 then s.setAudio { s.audio with carrier := tabSet 0 i 0 s.audio.carrier }
  else if 384 ≤ fieldOf w 8 0 ∨ 24 ≤ s.fld Reg.AUD_CAR_CTL 20 16 then
    (takeFree 24 s).2.setAudio { s.audio with carrier := tabSet 0 i (takeFree 24 s).1.toInt s.audio.carrier }
  else
    let v := s.chValue (fieldOf w 8 0)
    let bad : Bool := !bitAt v 31 || bitAt v 30 || bitAt v 29
    let x : Int := if bad then 0 else if bitAt v 26 then signedOf 16 v.toNat * 256 else ((fieldOf v 15 0 : Int) - 8192) * 1024
    let s1 := s.setAudio { s.audio with carrier := tabSet 0 i x s.audio.carrier }
    if bad then audEvent (oneBit 8) s1 else s1

/-- Is the group of the carrier domain armed (R361)? Of an unlisted group nothing is said. -/
def State.carArmed (s : State) : Bool := decide (24 ≤ s.fld Reg.AUD_CAR_CTL 20 16) || decide (s.pwmState (s.fld Reg.AUD_CAR_CTL 20 16) = pwmArmed)

/-- Is a period of this many cycles within 20 to 200 kHz (R361)? -/
def carInRange (cycles : Nat) : Bool := decide (7500 ≤ cycles ∧ cycles ≤ 75000)

/-- A lost carrier domain produces zero samples: its inputs, buses and outputs hold zero (R361). -/
def carrierLostEff (s : State) : State :=
  let s1 := s.setAudio { s.audio with carLost := true, good := 0, carrier := [] }
  let s2 := forEach (List.range 16)
    (fun b s => if s.busDomain b = 2 then s.setBus b { s.bus b with sum := 0 } else s) s1
  let s3 := forEach (List.range 16) (fun o s =>
    if s.busDomain (s.fld (Reg.AUD_OUT_CTL o) 29 26) = 2 then s.setAudOut o { s.audOut o with value := 0, line := [], hot := 0 }
    else s) s2
  audEvent (oneBit 9) s3

/-- A qualifying period event (R361): the rate is measured; a group that is not armed, or a rate out of range, loses the
domain; the inputs are sampled unless it is lost. -/
def carrierSampleEff (s : State) : State :=
  let dt := match s.audio.lastEvent with
    | some t => s.now - t
    | none => 0
  let s1 := s.setAudio { s.audio with
    lastEvent := some s.now
    good := if carInRange dt && s.carArmed then s.audio.good + 1 else 0 }
  let s2 := if dt = 0 then s1 else s1.setReg Reg.AUD_CAR_RATE (toWord (second * 256 / dt))
  if s.audio.carLost then s2.setAudio { s2.audio with carrier := [] }
  else if !s.carArmed || (s.audio.lastEvent.isSome && !carInRange dt) then carrierLostEff s2
  else (List.range 8).foldl carrierInput (domainStep 2 s2)

def execCarrierSample (s : State) : Out :=
  .next (if s.audioOn && s.bit Reg.AUD_CAR_CTL 31 then carrierSampleEff s else s)

def execCarrierLost (s : State) : Out :=
  .next (if s.audioOn && s.bit Reg.AUD_CAR_CTL 31 then carrierLostEff s else s)

def execCarrierRecover (s : State) : Out :=
  .next (if s.audioOn && decide (16 ≤ s.audio.good) then s.setAudio { s.audio with carLost := false } else s)

/-! ### The wire (R364, R365) -/

def execPdmClkLost (g : Fin 4) (s : State) : Out :=
  .next (if s.audioOn && s.bit Reg.AUD_CTL g then
      audEvent (oneBit 7) (rcSet Reg.AUD_PDM_STAT (oneBit g) (s.setAudio { s.audio with pdmLost := s.audio.pdmLost ||| BitVec.ofNat 4 (2 ^ g.val) }))
    else s)

def execPdmClkReturn (g : Fin 4) (s : State) : Out :=
  .next (if s.audioOn && s.audio.pdmLost.getLsbD g then
      s.setAudio { s.audio with
        pdmLost := s.audio.pdmLost &&& ~~~BitVec.ofNat 4 (2 ^ g.val)
        pdmDiscard := tabSet 0 g.val 32 s.audio.pdmDiscard }
    else s)

def execPdmStuck (m : Fin 16) (s : State) : Out :=
  .next (if s.audioOn then audEvent (oneBit 6) (rcSet Reg.AUD_PDM_STAT (oneBit (16 + m)) s) else s)

/-- A slave port that is enabled (R365). -/
def State.tdmSlave (s : State) (p : Nat) : Bool :=
  s.audioOn && s.bit (Reg.TDM_CTL p) 31 && !s.bit (Reg.TDM_CTL p) 30

def execTdmSyncLost (p : Fin 4) (s : State) : Out :=
  .next (if s.tdmSlave p then
      tdmEvent p (oneBit 1) (s.setAudio { s.audio with tdmLost := s.audio.tdmLost ||| BitVec.ofNat 4 (2 ^ p.val) })
    else s)

def execTdmResume (p : Fin 4) (s : State) : Out :=
  .next (if s.tdmSlave p && s.audio.tdmLost.getLsbD p then
      tdmEvent p (oneBit 0) (s.setAudio { s.audio with tdmLost := s.audio.tdmLost &&& ~~~BitVec.ofNat 4 (2 ^ p.val) })
    else s)

def execTdmSlip (p : Fin 4) (s : State) : Out :=
  .next (if s.tdmSlave p then tdmEvent p (oneBit 2) (rcUp (Reg.TDM_SLIPS p) 1 0xFFFFFFFF s) else s)

/-! ### Reads, control, abort (R369, R370, R372) -/

/-- A read of AUD_CQ_DATA pops a capture queue; an empty one reads zero. -/
def capturePop (q : Nat) (s : State) : Word × State :=
  match tabGet [] q s.audio.queues with
  | [] => (0, s)
  | w :: r => (w, (s.setAudio { s.audio with queues := tabSet [] q r s.audio.queues }).setReg (Reg.AUD_CQ_FILL q) (toWord r.length))

def execAudCqData (q : Requester) (queue : Fin 8) (s : State) : Out :=
  .next (if s.mediaOn then answerWith q (capturePop queue s) else s)

/-- A read of a peak meter returns the peak and restarts it from the present sample (R370). -/
def peakRead (out : Bool) (n : Nat) (s : State) : Word × State :=
  if out then
    (s.reg (Reg.AUD_OUT_PEAK n), (s.setReg (Reg.AUD_OUT_PEAK n) (toWord (s.audOut n).value.natAbs)).setAudOut n
      { s.audOut n with meter := { (s.audOut n).meter with age := 0 } })
  else
    (s.reg (Reg.AUD_BUS_PEAK n), (s.setReg (Reg.AUD_BUS_PEAK n) (toWord (s.bus n).sum.natAbs)).setBus n
      { s.bus n with meter := { (s.bus n).meter with age := 0 } })

def execPeakMeterRead (q : Requester) (out : Bool) (n : Fin 16) (s : State) : Out :=
  .next (if s.mediaOn then answerWith q (peakRead out n s) else s)

/-- A write of AUD_OUT_CTL; a parted output is left by enable 0 then 1 (R372). -/
def outCtlWrite (o : Nat) (v0 : Word) (s : State) : State :=
  let v := s.keepEnable 7 o (Reg.AUD_OUT_CTL o) v0
  let x := s.audOut o
  let s1 := s.setReg (Reg.AUD_OUT_CTL o) (v &&& 0xFC7F0000)
  if !x.parted then s1
  else if !bitAt v 31 then s1.setAudOut o { x with sawDisable := true }
  else if x.sawDisable then s1.setAudOut o {}
  else s1

/-- An aborted route: its gain is 0 at once, its fade slot and bridge are released (R372). -/
def partRoute (r : Nat) (s : State) : State := audEvent (oneBit 1) (s.setRoute r { parted := true })

/-- An aborted output sends zero at once (R372). -/
def partOutput (o : Nat) (s : State) : State :=
  audEvent (oneBit 1) (s.setAudOut o { s.audOut o with parted := true, sawDisable := false, value := 0, line := [], hot := 0 })

/-- The audio PLL is lost (R18, R372). -/
def audioPllLost (s : State) : State :=
  if s.mediaOn then audEvent (oneBit 10) { s with sys := { s.sys with audioPll := false } }
  else { s with sys := { s.sys with audioPll := false } }

end Sys2Proof.Machine
end

