-- ==== Sys2Proof/Machine/Host.lean ====
section
/-! DEFINITION. Host ports, alerts, chucks and the abort engines (spec/17). What reaches device registers through the
ports is in HostBus.lean; the dictionary is in Dict.lean. -/

namespace Sys2Proof.Machine

/-! ### Ports (R376 to R382) -/

def portIdx : Port → Nat
  | .a => 0
  | .b => 1

def portRequester (p : Nat) : Requester := if p = 0 then .portA else .portB

def State.host (s : State) (p : Nat) : HostPort := tabGet {} p s.hosts
def State.setHost (s : State) (p : Nat) (x : HostPort) : State := { s with hosts := tabSet {} p x s.hosts }

def State.linkUp (s : State) (p : Nat) : Bool := s.bit (Reg.HP_LINK p) 31
def State.busMaster (s : State) (p : Nat) : Bool := s.linkUp p && s.bit (Reg.HP_LINK p) 30
def State.msixOn (s : State) (p : Nat) : Bool := s.bit (Reg.HP_LINK p) 29

/-- An MSI-X table word; a vector is masked until its control word is written. -/
def State.msixWord (s : State) (p i : Nat) : Word := tabGet (if i % 4 = 3 then 1 else 0) i (s.host p).table

/-- Vector `v` leaves through the port, or sets its pending bit while masked (R382). -/
def sendVector (p v : Nat) (s : State) : State :=
  let x := s.host p
  if !s.msixOn p then s
  else if x.fmask || bitAt (s.msixWord p (4 * v + 3)) 0 then s.setHost p { x with pba := x.pba ||| BitVec.ofNat 32 (1 <<< v) }
  else s.setHost p { x with vectors := v :: x.vectors }

/-- Pending vectors that are no longer masked leave. -/
def flushVectors (p : Nat) (s : State) : State :=
  if !s.msixOn p || (s.host p).fmask then s
  else forEach (List.range 32) (fun v s =>
    let x := s.host p
    if x.pba.getLsbD v && !bitAt (s.msixWord p (4 * v + 3)) 0 then
      s.setHost p { x with pba := x.pba &&& ~~~(BitVec.ofNat 32 (1 <<< v)), vectors := v :: x.vectors }
    else s) s

/-- Is HPx_ALERT_N driven low (R382)? -/
def State.alertOn (s : State) (p : Nat) : Bool := s.lineOf (Reg.HP_ALERT_CAUSE p) (Reg.HP_ALERT_EN p)

/-- A change of the enabled alerts from none to some sends vector 0 (R382). -/
def alertEdge (p : Nat) (old : Bool) (s : State) : State := if !old && s.alertOn p then sendVector p 0 s else s

/-- Events set bits of HP_ALERT_CAUSE (R382, R400). -/
def alertSet (p : Nat) (bits : Word) (s : State) : State :=
  alertEdge p (s.alertOn p) (raiseStatus (Reg.HP_ALERT_CAUSE p) (Reg.HP_ALERT_EN p) (2112 + p) bits s)

/-- A write of HP_ALERT_EN. -/
def alertEnWrite (p : Nat) (v : Word) (s : State) : State :=
  alertEdge p (s.alertOn p) (s.setReg (Reg.HP_ALERT_EN p) (v &&& 0xFE))

/-- The counts of HP_ERRCNT (R397). -/
def inboundError (p : Nat) (s : State) : State := rcUpFld (Reg.HP_ERRCNT p) 31 16 1 s
def outboundError (p : Nat) (s : State) : State := rcUpFld (Reg.HP_ERRCNT p) 15 0 1 s

/-- A write of HP_HOST_DB (R382). -/
def hostDoorbell (p : Nat) (v : Word) (s : State) : State :=
  if fieldOf v 4 0 = 0 ∨ s.msixOn p = false then outboundError p s else sendVector p (fieldOf v 4 0) s

def execHpHostDb (port : Port) (value : Word) (s : State) : Out :=
  .next (if s.sys.powerGood then hostDoorbell (portIdx port) value s else s)

/-- The milliseconds of HP_SILENCE (R385, R397). -/
def State.silence (s : State) (p : Nat) : Nat := satNat 0xFFFF ((s.now - (s.host p).lastAt) / 1500000)

/-! ### Chucks (R383 to R386) -/

/-- The code by which CHK_OWNER names a requester; DMA and the debug port hold no chuck (R383, R401). -/
def chuckCode : Requester → Option Nat
  | .portA => some 1
  | .portB => some 2
  | .tailstock => some 3
  | .core n => some (0x10 + n.val)
  | .dma | .debug => none

/-- The waiter bit of a port. -/
def waiterBit : Requester → Option Nat
  | .portA => some 16
  | .portB => some 17
  | _ => none

/-- The acquisition by a read of CHK[n]: its result word (R383, R401). -/
def chkAcquireOp (q : Requester) (n : Nat) (s : State) : Word × State :=
  let a := Reg.CHK_OWNER n
  let owner := s.fld a 5 0
  match chuckCode q with
  | none => (0, s)
  | some k =>
    if owner = 0 then (toWord (2 ^ 31 + k), s.setFld a 5 0 k)
    else if owner = k then (toWord (2 ^ 31 + 2 ^ 30 + k), s)
    else match waiterBit q with
      | some b => (toWord owner, s.setBit a b true)
      | none => (toWord owner, s)

/-- The order in which acquisitions of chuck `n` that arrive in one cycle are served (R384). -/
def chuckRank (n : Nat) : Requester → Nat
  | .tailstock => 0
  | .portA => if n % 2 = 0 then 1 else 2
  | .portB => if n % 2 = 0 then 2 else 1
  | .core c => 3 + c.val
  | .dma => 19
  | .debug => 20

/-- The requesters in the order in which they are served. -/
def chuckOrder (n : Nat) (qs : List Requester) : List Requester := sortBy (fun q => [chuckRank n q]) qs

def execChkAcquire (n : Fin 256) (qs : List Requester) (s : State) : Out :=
  .next (if s.sys.powerGood then
      (chuckOrder n qs).foldl (fun s q => answerWith q (chkAcquireOp q n s)) s
    else s)

/-- Chuck `n` is free: waiting ports are told, source 2114 rings (R383, R397). -/
def chuckFree (n : Nat) (s : State) : State :=
  let w := s.reg (Reg.CHK_OWNER n)
  let s1 := s.setReg (Reg.CHK_OWNER n) 0
  let s2 := if bitAt w 16 then alertSet 0 (oneBit 5) s1 else s1
  let s3 := if bitAt w 17 then alertSet 1 (oneBit 5) s2 else s2
  ringShared 2114 s3

/-- A write of CHK[n] (R383). -/
def chkReleaseOp (q : Requester) (n : Nat) (v : Word) (s : State) : State :=
  let owner := s.fld (Reg.CHK_OWNER n) 5 0
  if !bitAt v 0 then s
  else if owner ≠ 0 ∧ (chuckCode q = some owner ∨ q = .tailstock) then chuckFree n s
  else if q = .tailstock then s
  else rcUpFld Reg.CHK_STATUS 31 16 1 s

def execChkRelease (q : Requester) (n : Fin 256) (value : Word) (s : State) : Out :=
  .next (if s.sys.powerGood then chkReleaseOp q n value s else s)

/-- The chucks with this owner code. -/
def State.chucksOf (s : State) (code : Nat) : List Nat :=
  (List.range 256).filter fun n => decide (s.fld (Reg.CHK_OWNER n) 5 0 = code)

/-- A core's chucks are freed (R385). -/
def freeCoreChucks (c : Nat) (s : State) : State := forEach (s.chucksOf (0x10 + c)) chuckFree s

/-- A port's chucks are freed by silence or an event of R378 (R385). -/
def freePortChucks (p : Nat) (s : State) : State :=
  let ns := s.chucksOf (1 + p)
  let s1 := forEach ns (fun n s => rcUpFld Reg.CHK_STATUS 15 0 1 (chuckFree n s)) s
  if ns = [] then s1 else alertSet (1 - p) (oneBit 4) s1

def chkLeaseExpiryEff (p : Nat) (s : State) : State :=
  let lease := s.fld Reg.CHK_LEASE 15 0
  if lease = 0 ∨ s.silence p < lease then s else freePortChucks p s

def execChkLeaseExpiry (port : Port) (s : State) : Out :=
  .next (if s.sys.powerGood then chkLeaseExpiryEff (portIdx port) s else s)

/-! ### Port resets (R378) -/

/-- The channel of an outbound read ends with a host-port error (R378, R381). -/
def outboundFail (o : Outbound) (s : State) : State :=
  match o.chan with
  | some c =>
    let x := s.dmaCh c
    if s.dmaState c = dmaParted then s
    else dmaSuspend c 3 (x.srcAt (x.moved + x.buf.length)) (s.setDmaCh c { x with awaits := none })
  | none => s

/-- Outbound requests through port `p` end. -/
def outboundEnd (p : Nat) (s : State) : State :=
  let mine := s.outbound.filter fun o => decide (o.port = p)
  mine.foldl (fun s o => outboundFail o s) { s with outbound := s.outbound.filter fun o => decide (o.port ≠ p) }

/-- The port's PCIe logic resets; `keep` is what HP_LINK holds on to (R378). -/
def portReset (p : Nat) (keep : Word) (s : State) : State :=
  let s1 := s.setReg (Reg.HP_LINK p) (s.reg (Reg.HP_LINK p) &&& keep)
  let s2 := s1.setHost p { (s1.host p) with reply := none, table := [], pba := 0, fmask := false, timeout := 0 }
  alertSet (1 - p) (oneBit 3) (freePortChucks p (outboundEnd p s2))

def execPerst (port : Port) (s : State) : Out :=
  .next (if s.sys.powerGood then portReset (portIdx port) 0 s else s)

def execFunctionLevelReset (port : Port) (s : State) : Out :=
  .next (if s.sys.powerGood && s.linkUp (portIdx port) then portReset (portIdx port) 0x80000077 s else s)

/-- The link comes up with this width and rate (R376, R378). -/
def execLinkUp (port : Port) (width : Fin 3) (rate : Fin 5) (s : State) : Out :=
  .next (if s.sys.powerGood && s.sys.vdda then
      s.setReg (Reg.HP_LINK (portIdx port)) (toWord (2 ^ 31 + 2 ^ width.val * 16 + rate.val + 1))
    else s)

/-- A configuration request of the host (R376, R381). -/
def configure (p : Nat) (c : ConfigWrite) (s : State) : State :=
  match c with
  | .busMaster b => s.setBit (Reg.HP_LINK p) 30 b
  | .msix en mask =>
    let s1 := (s.setBit (Reg.HP_LINK p) 29 en).setHost p { s.host p with fmask := mask }
    flushVectors p s1
  | .completionTimeout r => s.setHost p { s.host p with timeout := r.toNat }

def execConfigurationRequest (port : Port) (c : ConfigWrite) (s : State) : Out :=
  .next (if s.sys.powerGood && s.linkUp (portIdx port) then
      configure (portIdx port) c (s.setHost (portIdx port) { s.host (portIdx port) with lastAt := s.now })
    else s)

/-! ### Abort engines (R387, R402, R464, R465) -/

/-- Engine 2 is the dictionary's. -/
def State.abortEngine (s : State) (e : Nat) : AbortEngine := tabGet {} e s.aborts
def State.setAbortEngine (s : State) (e : Nat) (x : AbortEngine) : State := { s with aborts := tabSet {} e x s.aborts }

/-- How many functions a kind has on this part (R2, R402). -/
def State.abortCount (s : State) : Nat → Nat
  | 0 => 64 * sectorCount s.sys.variant
  | 1 => 4 * sectorCount s.sys.variant
  | 2 => 154
  | 3 => 154
  | 4 => 512
  | 5 => 1
  | 6 => 128
  | 7 => 16
  | 8 => 64
  | _ => 0

/-- Does the function exist (R3, R387)? The VL-8830 has no physical raster spindles. -/
def State.abortable (s : State) (kind n : Nat) : Bool :=
  decide (n < s.abortCount kind) && !((decide (kind = 2) || decide (kind = 3)) && decide (n = 136 ∨ n = 137) &&
    decide (s.sys.variant = .vl8830))

/-- The function's island is on (R465). -/
def State.abortPowered (s : State) (kind n : Nat) : Bool :=
  match kind with
  | 0 => s.sectorOn (n / 64)
  | 1 => s.sectorOn (n / 4)
  | 4 | 5 | 6 | 7 => s.mediaOn
  | _ => s.fclkOn

/-- Has the function parted, or is there nothing to part (R387, R465)? -/
def State.isParted (s : State) (kind n : Nat) : Bool :=
  if !s.abortPowered kind n then true
  else match kind with
    | 0 => decide (s.loopState n = 4)
    | 1 => decide (s.pwmState n = pwmParted)
    | 2 => decide (s.spnState n = spnParted)
    | 3 => !s.partValid n || decide (s.partState n = partParted)
    | 4 => decide (s.conState n = conParted)
    | 5 => decide (s.mvState = mvParted)
    | 6 => (s.route n).parted
    | 7 => (s.audOut n).parted
    | _ => decide (s.dmaState n = dmaParted)

/-- The function parts (R55, R99, R149, R177, R298, R322, R356, R372). -/
def partFunction (kind n : Nat) (s : State) : State :=
  match kind with
  | 0 => abortLoop n s
  | 1 => partGroup n s
  | 2 => partSpindle n s
  | 3 => partPartition n s
  | 4 => partConsole n s
  | 5 => partMover s
  | 6 => partRoute n s
  | 7 => partOutput n s
  | _ => partDma n s

/-- HP_ABORT_STATUS of a port's engine follows the engine. -/
def showAbort (e : Nat) (s : State) : State :=
  let x := s.abortEngine e
  if 2 ≤ e then s
  else s.setReg (Reg.HP_ABORT_STATUS e) (toWord (boolNat x.busy * 2 ^ 31 + boolNat x.done * 2 ^ 30 +
    boolNat x.refused * 2 ^ 29 + x.kind % 16 * 2 ^ 20 + x.number % 65536))

/-- The engine sets bit `b` of a port's HP_ABORT_STATUS (R33). -/
def noteAbort (e b : Nat) (s : State) : State := if 2 ≤ e then s else noteSet (Reg.HP_ABORT_STATUS e) (oneBit b) s

/-- Engine `e` has completed: done, the port's alert, the rung source, and source 2115 (R387, R397). -/
def abortComplete (e : Nat) (s : State) : State :=
  let x := s.abortEngine e
  let s1 := showAbort e (noteAbort e 30 (s.setAbortEngine e { x with busy := false, done := true }))
  let s2 := if e < 2 then alertSet e (oneBit 7) s1 else s1
  let s3 := if x.ring ∧ e < 2 then ringShared (s.fld (Reg.HP_ABORT_DB e) 11 0) s2 else s2
  ringShared 2115 s3

/-- A request to engine `e`; a refusal names the refused function. -/
def abortRefuse (e kind n : Nat) (s : State) : State :=
  let x := s.abortEngine e
  showAbort e (noteAbort e 29 <| s.setAbortEngine e
    (if x.busy then { x with refused := true } else { x with kind := kind, number := n, refused := true }))

/-- An abort of a function through engine `e` (R387). The function parts; ABORT_DONE completes the engine, at once where nothing had to part. -/
def abortStart (e kind n : Nat) (ring : Bool) (s : State) : State :=
  if (s.abortEngine e).busy ∨ s.abortable kind n = false then abortRefuse e kind n s
  else
    let x := s.abortEngine e
    let s1 := showAbort e (s.setAbortEngine e { x with busy := true, kind := kind, number := n, ring := ring })
    if s.isParted kind n then abortComplete e s1 else partFunction kind n s1

/-- A request to an engine; those of the ports reach the tailstock as well (R273). -/
def abortRequest (e kind n : Nat) (ring : Bool) (s : State) : State :=
  let s1 := abortStart e kind n ring s
  if e < 2 then raiseTs (20 + e) s1 else s1

/-- A write of HP_ABORT, or of object 0x1F00 subindex 1 for engine 2 (R402). -/
def abortWord (e : Nat) (v : Word) (s : State) : State :=
  abortRequest e (fieldOf v 31 28) (fieldOf v 15 0) (bitAt v 27) s

/-- The engine takes a request while the host-port block answers. -/
def abortCmd (e kind n : Nat) (ring : Bool) (s : State) : State :=
  if s.sys.powerGood then abortRequest e kind n ring s else s

def execAbortLoopContext (e : Fin 3) (ring : Bool) (number : BitVec 16) (s : State) : Out :=
  .next (abortCmd e 0 number.toNat ring s)
def execAbortPwmGroup (e : Fin 3) (ring : Bool) (number : BitVec 16) (s : State) : Out :=
  .next (abortCmd e 1 number.toNat ring s)
def execAbortSpindle (e : Fin 3) (ring : Bool) (number : BitVec 16) (s : State) : Out :=
  .next (abortCmd e 2 number.toNat ring s)
def execAbortPlatePartition (e : Fin 3) (ring : Bool) (number : BitVec 16) (s : State) : Out :=
  .next (abortCmd e 3 number.toNat ring s)
def execAbortConsoleContext (e : Fin 3) (ring : Bool) (number : BitVec 16) (s : State) : Out :=
  .next (abortCmd e 4 number.toNat ring s)
def execAbort2dMover (e : Fin 3) (ring : Bool) (number : BitVec 16) (s : State) : Out :=
  .next (abortCmd e 5 number.toNat ring s)
def execAbortAudioRoute (e : Fin 3) (ring : Bool) (number : BitVec 16) (s : State) : Out :=
  .next (abortCmd e 6 number.toNat ring s)
def execAbortAudioOutput (e : Fin 3) (ring : Bool) (number : BitVec 16) (s : State) : Out :=
  .next (abortCmd e 7 number.toNat ring s)
def execAbortDmaChannel (e : Fin 3) (ring : Bool) (number : BitVec 16) (s : State) : Out :=
  .next (abortCmd e 8 number.toNat ring s)

/-- The aborted function has parted, or left reset disabled (R387, R465). -/
def abortDoneEff (e : Nat) (s : State) : State :=
  let x := s.abortEngine e
  if x.busy then abortComplete e s else s

def execAbortDone (e : Fin 3) (s : State) : Out := .next (abortDoneEff e s)

/-- A W1C write of HP_ABORT_STATUS; bits set in this cycle stay (R33). -/
def abortStatusWrite (e : Nat) (v0 : Word) (s : State) : State :=
  let x := s.abortEngine e
  let v := v0 &&& ~~~s.setNow (Reg.HP_ABORT_STATUS e)
  showAbort e (s.setAbortEngine e { x with done := x.done && !bitAt v 30, refused := x.refused && !bitAt v 29 })

/-! ### Words to and from the tailstock (R397, R400, R405) -/

/-- A word handed to the tailstock: `who` as the dictionary numbers requesters. -/
def tsMessage (who : Nat) (v : Word) (s : State) : State :=
  { s with dict := { s.dict with messages := s.dict.messages ++ [(who, v)] } }

def hpTsMsg (p : Nat) (v : Word) (s : State) : State := raiseTs (20 + p) (tsMessage p v s)

def execHpTsMsg (port : Port) (value : Word) (s : State) : Out :=
  .next (if s.sys.powerGood then hpTsMsg (portIdx port) value s else s)

def tsReply (p : Nat) (v : Word) (s : State) : State := alertSet p (oneBit 1) (s.setReg (Reg.HP_TS_REPLY p) v)

def execTsReplyWrite (port : Port) (value : Word) (s : State) : Out :=
  .next (if s.sys.powerGood then tsReply (portIdx port) value s else s)

def tsmMsg (c : Nat) (v : Word) (s : State) : State := raiseTs (48 + c) (tsMessage (5 + c) v s)

def execTsmMsg (c : Fin 16) (value : Word) (s : State) : Out :=
  .next (if s.sys.powerGood then tsmMsg c value s else s)

def tsmReply (c : Nat) (v : Word) (s : State) : State := ringPrivate c 32 (s.setReg (Reg.TSM_REPLY c) v)

def execTsmReply (c : Fin 16) (value : Word) (s : State) : Out :=
  .next (if s.sys.powerGood then tsmReply c value s else s)

/-! ### Handing over a dictionary request (R393, R405) -/

/-- A request joins the queue: in order of arrival, and with those of its own cycle in the order host port A, host port B,
CAN, the MACs, the cores (R391). -/
def dictQueue (r0 : DictReq) (s : State) : State :=
  let r := { r0 with time := s.now }
  let later (x : DictReq) : Bool := decide (x.time = s.now ∧ r.who < x.who)
  { s with dict := { s.dict with
      queue := (s.dict.queue.filter fun x => !later x) ++ r :: s.dict.queue.filter later } }

/-- A write of HP_DICT_CMD; ignored while busy. -/
def hpDictCmd (p : Nat) (v : Word) (s : State) : State :=
  if s.bit (Reg.HP_DICT_STATUS p) 31 then s
  else
    let r : DictReq := { who := p, cmd := v, off := (s.reg (Reg.HP_DICT_OFF p)).toNat, len := s.fld (Reg.HP_DICT_LEN p) 11 0
                         buf := s.fld (Reg.HP_DICT_BUF p) 15 6 * 64 }
    raiseTs (20 + p) ((dictQueue r s).setBit (Reg.HP_DICT_STATUS p) 31 true)

/-- A write of TSM_DICT_CMD; ignored while busy. -/
def tsmDictCmd (c : Nat) (v : Word) (s : State) : State :=
  if s.bit (Reg.TSM_DICT_STATUS c) 31 then s
  else
    let r : DictReq := { who := 5 + c, cmd := v, off := (s.reg (Reg.TSM_DICT_OFF c)).toNat, len := s.fld (Reg.TSM_DICT_LEN c) 11 0
                         buf := s.fld (Reg.TSM_DICT_BUF c) 17 6 * 64 }
    raiseTs (32 + c) ((dictQueue r s).setBit (Reg.TSM_DICT_STATUS c) 31 true)

def execTsmDictCmd (c : Fin 16) (value : Word) (s : State) : Out :=
  .next (if s.sys.powerGood then tsmDictCmd c value s else s)

end Sys2Proof.Machine
end

