-- ==== Sys2Proof/Machine/Cv.lean ====
section
/-! DEFINITION. The check-value units, the machine-check records and the scrubbers (spec/19). Delivering a machine
check, which enters a core's handler, is in Isa.lean. -/

namespace Sys2Proof.Machine

/-! ### Check-value units (R437 to R440) -/

def State.cv (s : State) (u : Nat) : CvUnit := tabGet {} u s.cvs
def State.setCv (s : State) (u : Nat) (x : CvUnit) : State := { s with cvs := tabSet {} u x s.cvs }

/-- Turn the low `n` bits of a number end for end. -/
def reflectBits : Nat → Nat → Nat
  | 0, _ => 0
  | n + 1, x => x % 2 * 2 ^ n + reflectBits n (x / 2)

/-- One bit of the division (R437). -/
def cvBit (w poly v bit : Nat) : Nat :=
  let top := (v / 2 ^ (w - 1) + bit) % 2
  Nat.xor (v * 2 % 2 ^ w) (if top = 1 then poly % 2 ^ w else 0)

/-- One byte, most significant bit first (R437). -/
def cvByte (w poly : Nat) (refin : Bool) (v : Nat) (b : Byte) : Nat :=
  let x := if refin then reflectBits 8 b.toNat else b.toNat
  [7, 6, 5, 4, 3, 2, 1, 0].foldl (fun v k => cvBit w poly v (x / 2 ^ k % 2)) v

def State.cvWidth (s : State) (u : Nat) : Nat := s.fld (Reg.CV_CTL u) 6 0
def State.cvValid (s : State) (u : Nat) : Bool := decide (3 ≤ s.cvWidth u ∧ s.cvWidth u ≤ 64)
def State.cvPair (s : State) (lo hi : Nat) : Nat := (s.reg lo).toNat + (s.reg hi).toNat * 2 ^ 32

/-- The running value v; bits above the width read zero (R437). -/
def State.cvValue (s : State) (u : Nat) : Nat := s.cvPair (Reg.CV_STATE_LO u) (Reg.CV_STATE_HI u) % 2 ^ s.cvWidth u

def setCvValue (u v : Nat) (s : State) : State :=
  (s.setReg (Reg.CV_STATE_LO u) (toWord v)).setReg (Reg.CV_STATE_HI u) (toWord (v / 2 ^ 32))

/-- CV_RESULT (R437). -/
def State.cvResult (s : State) (u : Nat) : Nat :=
  let w := s.cvWidth u
  let v := s.cvValue u
  Nat.xor (if s.bit (Reg.CV_CTL u) 29 then reflectBits w v else v) (if s.bit (Reg.CV_CTL u) 28 then 2 ^ w - 1 else 0)

def cvEvent (u : Nat) (bits : Word) (s : State) : State :=
  raiseStatus (Reg.CV_STATUS u) (Reg.CV_IRQ_EN u) (2128 + u) bits s

/-- Undefined results for the unit (R40, R438, R442): what it has computed is open. -/
def cvUndefined (u : Nat) (s : State) : State :=
  let f := takeFree 17 (freeReg (Reg.CV_STATE_LO u) (freeReg (Reg.CV_STATE_HI u) (freeReg (Reg.CV_COUNT u)
    (freeReg (Reg.CV_ALIVE_STAT u) s))))
  let g := takeFree 8 (f.2.setCv u { f.2.cv u with ref := if f.1.getLsbD 16 then some (f.1.toNat % 2 ^ 16) else none })
  g.2.setReg (Reg.CV_STATUS u) ((g.1.zeroExtend 32) &&& 0xFE)

/-- The initial value and a cleared count (R437). -/
def cvReload (u : Nat) (s : State) : State :=
  (setCvValue u (s.cvPair (Reg.CV_INIT_LO u) (Reg.CV_INIT_HI u) % 2 ^ s.cvWidth u) s).setReg (Reg.CV_COUNT u) 0

/-- Bytes are fed (R437). -/
def cvFeed (u : Nat) (bs : List Byte) (s : State) : State :=
  let poly := s.cvPair (Reg.CV_POLY_LO u) (Reg.CV_POLY_HI u)
  let v := bs.foldl (cvByte (s.cvWidth u) poly (s.bit (Reg.CV_CTL u) 30)) (s.cvValue u)
  countWrap (Reg.CV_COUNT u) bs.length (setCvValue u v s)

/-- CV_INIT: bit 0 reloads, and clears the alive reference (R441). -/
def cvInitEntry (u : Nat) (v : Word) (s : State) : State :=
  if bitAt v 0 then cvReload u (s.setCv u { s.cv u with ref := none }) else s

/-- A counter is judged (R440). -/
def cvAlive (u : Nat) (v : Word) (s : State) : State :=
  if !s.bit (Reg.CV_CTL u) 27 then s
  else
    let n := s.fld (Reg.CV_CTL u) 12 8
    if n < 4 ∨ 16 < n then cvUndefined u s
    else
      let c := fieldOf v 15 0
      let take := s.setCv u { s.cv u with ref := some c }
      let a := Reg.CV_ALIVE_STAT u
      match (s.cv u).ref with
      | none => take
      | some r =>
        let d := (c + 2 ^ 16 - r) % 2 ^ n
        if d = 1 then cvEvent u (oneBit 3) take
        else if d = 0 then cvEvent u (oneBit 4) (rcUpFld a 7 0 1 s)
        else if d ≤ s.fld (Reg.CV_CTL u) 23 16 + 1 ∧ s.fld (Reg.CV_CTL u) 23 16 ≠ 0 then
          cvEvent u (oneBit 5) (rcUpFld a 23 8 (d - 1) take)
        else cvEvent u (oneBit 6) (rcUpFld a 31 24 1 take)

/-- A received value is compared with the result (R440). -/
def cvCheck (u : Nat) (lo hi : Word) (s : State) : State :=
  let ok : Bool := decide (lo.toNat + hi.toNat * 2 ^ 32 = s.cvResult u)
  let s1 := cvEvent u (oneBit (if ok then 1 else 2)) s
  if s.bit (Reg.CV_CTL u) 26 then cvReload u s1 else s1

/-- The effect of one queued entry; a width out of range leaves the unit's results open (R442). -/
def cvEntry (u kind : Nat) (lo hi : Word) (s : State) : State :=
  if !s.cvValid u then cvUndefined u s
  else match kind with
    | 0 => cvFeed u (leBytes 1 lo.toNat) s
    | 1 => cvFeed u (leBytes 2 lo.toNat) s
    | 2 => cvFeed u (leBytes 4 lo.toNat) s
    | 3 => cvInitEntry u lo s
    | 4 => cvAlive u lo s
    | _ => cvCheck u lo hi s

/-- The unit's queue, with its fill register. -/
def setCvQueue (u : Nat) (q : List (Nat × Word × Word)) (s : State) : State :=
  (s.setCv u { s.cv u with queue := q }).setReg (Reg.CV_QUEUE_FILL u) (toWord q.length)

/-- The unit consumes the entry at the front (R438), if it is of one of these kinds. -/
def cvConsume (u : Nat) (kinds : List Nat) (s : State) : State :=
  match (s.cv u).queue with
  | [] => s
  | e :: r => if kinds.contains e.1 then cvEntry u e.1 e.2.1 e.2.2 (setCvQueue u r s) else s

/-- Every queued entry acts: a read of the value waits for that (R438). -/
def cvDrain (u : Nat) (s : State) : State :=
  (s.cv u).queue.foldl (fun s e => cvEntry u e.1 e.2.1 e.2.2 s) (setCvQueue u [] s)

def cvRegKind : CvReg → Nat
  | .data8 => 0
  | .data16 => 1
  | .data32 => 2
  | .init => 3
  | .aliveIn => 4
  | .check => 5

/-- A write of a queued register (R438, R442): ignored while disabled, discarded by a full queue. -/
def cvQueueWrite (u kind : Nat) (v : Word) (s : State) : State :=
  let x := s.cv u
  if !s.bit (Reg.CV_CTL u) 31 then s
  else if 16 ≤ x.queue.length then cvEvent u (oneBit 7) s
  else if kind = 5 then setCvQueue u (x.queue ++ [(5, v, x.checkHi)]) (s.setCv u { x with checkHi := 0 })
  else setCvQueue u (x.queue ++ [(kind, v, 0)]) s

def execCvQueueWrite (u : Fin 8) (r : CvReg) (value : Word) (s : State) : Out :=
  .next (if s.fclkOn then cvQueueWrite u (cvRegKind r) value s else s)

def execCvData (u : Fin 8) (s : State) : Out := .next (if s.fclkOn then cvConsume u [0, 1, 2] s else s)
def execCvInit (u : Fin 8) (s : State) : Out := .next (if s.fclkOn then cvConsume u [3] s else s)
def execCvAliveIn (u : Fin 8) (s : State) : Out := .next (if s.fclkOn then cvConsume u [4] s else s)
def execCvCheck (u : Fin 8) (s : State) : Out := .next (if s.fclkOn then cvConsume u [5] s else s)

/-- A write of CV_STATE_LO, with the high word where one has been staged (R439); bits above the width read zero. -/
def cvStateLo (u : Nat) (v : Word) (s : State) : State :=
  let hi := (s.cv u).stateHi.getD (s.reg (Reg.CV_STATE_HI u))
  if !s.cvValid u then cvUndefined u s
  else setCvValue u ((v.toNat + hi.toNat * 2 ^ 32) % 2 ^ s.cvWidth u) (s.setCv u { s.cv u with stateHi := none })

def execCvStateLo (u : Fin 8) (value : Word) (s : State) : Out :=
  .next (if s.fclkOn then cvStateLo u value s else s)

/-- A write of CV_CTL, CV_POLY or CV_INIT's value (R438, R442): with entries queued, or with a width out of range, the
unit's results are open. Enabling forgets the alive reference (R440). -/
def cvConfigWrite (u a : Nat) (mask v : Word) (s : State) : State :=
  let on : Bool := decide (a = Reg.CV_CTL u) && ((bitAt v 31 && !s.bit a 31) || (bitAt v 27 && !s.bit a 27))
  let s1 := s.setReg a (v &&& mask)
  let s2 := if on then s1.setCv u { s1.cv u with ref := none } else s1
  if (s.cv u).queue = [] ∧ s2.cvValid u = true then s2 else cvUndefined u s2

/-! ### Machine-check records (R434, R444) -/

/-- A write of MCR_INFO: 1 in valid clears the record with lost. -/
def mcrInfoWrite (c : Nat) (v : Word) (s : State) : State :=
  if bitAt v 31 then ((s.setReg (Reg.MCR_INFO c) 0).setReg (Reg.MCR_ADDR_LO c) 0).setReg (Reg.MCR_ADDR_HI c) 0 else s

def execMcrInfo (q : Requester) (c : Fin 16) (value : Word) (s : State) : Out :=
  .next (if s.fclkOn && servesCore q c then mcrInfoWrite c value s else s)

/-- The next machine check is put before another one of the same owner. -/
def State.mcrFree (s : State) (c : Nat) : Bool := !s.bit (Reg.MCR_INFO c) 31

/-- A machine check recorded for turning core `c` (R434). -/
def mcrRecord (c : Nat) (m : MachineCheck) (s : State) : State :=
  ((s.setReg (Reg.MCR_INFO c) (toWord (2 ^ 31 + boolNat m.precise * 2 ^ 30 + m.detail % 256 * 256))).setReg
    (Reg.MCR_ADDR_LO c) (toWord m.addr)).setReg (Reg.MCR_ADDR_HI c) (toWord (m.addr / 2 ^ 32 % 256))

/-! ### Scrubbing (R432, R435, R436) -/

/-- The core that owns the declaration of the loop in context `k` (R433). -/
def State.loopOwner (s : State) (k : Nat) : Option Nat :=
  match s.loopsAdmitted.find? fun a => decide (a.place = k) with
  | some a => if 3 ≤ a.owner ∧ a.owner < 19 then some (a.owner - 3) else none
  | none => none

/-- A unit of memory fails detection with no source of truth: it is poisoned, and the check goes to its owner. A unit
that is poisoned already is counted, not reported again (R436). -/
def scrubMemory (a : Nat) (s : State) : State :=
  if s.poisoned a then countPoisoned s
  else
    let s1 := poisonUnit a s
    match (s.region none a).1 with
    | .tcm n => postCheck (some n) 1 (unitOf a) s1
    | .scratch b => postCheck (if (s.bankOwner b).1 = 0 then some (s.bankOwner b).2 else none) 4 (unitOf a) s1
    | _ => postCheck none 3 (unitOf a) s1

/-- May the scrubber read this address: DRAM awake and trained, banks out of retention, memories powered (R435, R436)? -/
def State.scrubReaches (s : State) (a : Nat) : Bool :=
  match (s.region none a).1 with
  | .dram => s.dramOn && !s.bit Reg.MC_STATUS 30
  | .scratch b => s.bankAwake b
  | .tcm _ => true
  | _ => false

/-- A word of a media memory, by its register offset. -/
def scrubMedia (a : Nat) (s : State) : State :=
  if s.poisoned (regUnit a) then countPoisoned s
  else
    let detail := if a < 0xA00000 then 7 else if a < 0xB00000 then 8 else 9
    let m := if a < 0xA00000 then 0 else if a < 0xB00000 then 1 else 2
    postCheck (s.mediaOwner m) detail (unitOf (regUnit a)) (poisonUnit (regUnit a) s)

/-- A scrubber's read fails detection: the route of R432. -/
def scrubFail (u : ScrubUnit) (s : State) : State :=
  match u with
  | .memory a => if s.scrubReaches a.toNat then scrubMemory a.toNat s else s
  | .cleanL2 _ => countDetect s
  | .tsRam a =>
    let k := tsBase + 0x10000000 + a.toNat
    if s.poisoned k then countPoisoned s else postCheck (some tsCore) 0xA (unitOf k) (poisonUnit k s)
  | .plate i which => if s.dramOn && decide ((s.entry i.val).kind = .linked ∨ (s.entry i.val).kind = .alloc) then plateRefetchEff i which s else s
  | .loopState k => if s.sectorOn (k.val / 64) then stateRebuildEff k s else s
  | .loopHistory k i =>
    if s.sectorOn (k.val / 64) then
      countDetect (s.setCtx k { s.ctx k with hist := (s.ctx k).hist.set i [] })
    else s
  | .loopBank k =>
    if s.sectorOn (k.val / 64) then postCheck (s.loopOwner k) 5 (0x80400000 + k.val * 0x800) (bankFault k s) else s
  | .mediaWord off => if s.mediaOn then scrubMedia off.toNat s else s
  | .scanBuffer h l line x =>
    if s.composerOn then underrunEff h l line.toNat x.toNat (countDetect s) else s
  | .lineCheck k line =>
    if s.mediaOn then
      countDetect (s.setCon k { s.con k with stored := tabErase line.toNat (s.con k).stored })
    else s
  | .glyphCache => if s.mediaOn then countDetect s else s

/-- A scrub read; one that passes detection changes nothing. The tailstock's own memory is scrubbed without FCLK. -/
def scrubEff (u : ScrubUnit) (fails : Bool) (s : State) : State :=
  let on : Bool := match u with
    | .tsRam _ => s.sys.powerGood
    | _ => s.fclkOn
  if fails && on then scrubFail u s else s

def execScrubRead (u : ScrubUnit) (fails : Bool) (s : State) : Out := .next (scrubEff u fails s)

end Sys2Proof.Machine
end

