-- ==== Sys2Proof/Machine/Pins.lean ====
section
/-! DEFINITION. Pins: functions, keepers, GPIO, filters, interrupts, bank supplies (spec/20). -/

namespace Sys2Proof.Machine

/-! ### Functions (R447 to R450, R484) -/

/-- The TRIP_IN input that pin `n` carries in this function (R484). -/
def tripOf (n func : Nat) : Option Nat :=
  if func = 2 ∧ 66 ≤ n ∧ n < 78 then some (n - 66)
  else if func = 6 ∧ 148 ≤ n ∧ n < 160 then some (n - 148)
  else none

/-- Does the alternate function drive the pad (R118, R365, R484)? -/
def State.altDrives (s : State) (n func : Nat) : Bool :=
  match func with
  | 2 => decide (96 ≤ n ∧ n < 102 ∧ n % 2 = 0)
  | 3 => decide (n < 96 ∧ n % 2 = 1) && s.bit (Reg.SD_CTL (n / 2 / 8) (n / 2 % 8)) 30
  | 4 => decide (112 ≤ n ∧ n < 128) && (decide (n % 4 = 3) || (decide (n % 4 < 2) && s.bit (Reg.TDM_CTL ((n - 112) / 4)) 30))
  | 5 => decide (144 ≤ n ∧ n < 149)
  | _ => false

def State.gpioOut (s : State) (n : Nat) : Bool := s.bit (Reg.GPIO_OUT (n / 16)) (n % 16)
def State.gpioOe (s : State) (n : Nat) : Bool := s.bit (Reg.GPIO_OE (n / 16)) (n % 16)

/-- Is the bank's supply detected (R445, R446)? -/
def State.bankSupplied (s : State) (b : Nat) : Bool := decide (fieldOf s.bankSupply (2 * b + 1) (2 * b) ≠ 0)

/-- Does the pin's present function drive the pad: a GPIO output, low only with od = 1 (R451)? -/
def State.padDriven (s : State) (n : Nat) : Bool :=
  if s.pinFunc n = 0 then s.gpioOe n && !(s.bit (Reg.PIN_CFG n) 26 && s.gpioOut n)
  else s.altDrives n (s.pinFunc n)

def State.intMode (s : State) (n : Nat) : Nat := s.fld (Reg.PIN_CFG n) 22 20

/-- Does the pin's configuration leave its results undefined: int_mode 6 or 7 (R454), filt_mode 3 (R457)? -/
def State.pinOpen (s : State) (n : Nat) : Bool := decide (6 ≤ s.intMode n) || decide (s.fld (Reg.PIN_CFG n) 19 18 = 3)

/-- What a GPIO pin's pad shows to the board: the keeper first (R450), then its output (R451). An alternate function's
level belongs to its peripheral. The pad of a pin whose results are undefined is open (R40, log entry 1). -/
def State.gpioPad (s : State) (n : Nat) : Pad :=
  if !s.bankSupplied (n / 16) then .highZ
  else if s.pinOpen n then
    match (Config.freeValue 2 (s.freeCtr + n)).toNat with
    | 0 => .low
    | 1 => .high
    | _ => .highZ
  else match tabGet none n s.keepers with
    | some v => if v then .high else .low
    | none => if s.pinFunc n = 0 ∧ s.padDriven n = true then (if s.gpioOut n then .high else .low) else .highZ

/-- A filtered level of pin `n` shows in GPIO_IN. -/
def setGpioIn (n : Nat) (level : Bool) (s : State) : State := s.setBit (Reg.GPIO_IN (n / 16)) (n % 16) level

/-- The pin's event bit, and its source 2144 + n (R454). -/
def setPinStat (n : Nat) (b : Bool) (s : State) : State :=
  if b then
    let a := Reg.GPIO_INT_STAT (n / 16)
    let s1 := noteSet a (oneBit (n % 16)) (s.setBit a (n % 16) true)
    if !s.bit a (n % 16) && s.bit (Reg.GPIO_INT_EN (n / 16)) (n % 16) then noteDeferred (2144 + n) s1 else s1
  else s.setBit (Reg.GPIO_INT_STAT (n / 16)) (n % 16) false

/-- The pin's level condition holds (R454). -/
def State.levelHolds (s : State) (n : Nat) : Bool :=
  (decide (s.intMode n = 4) && s.bit (Reg.GPIO_IN (n / 16)) (n % 16)) ||
    (decide (s.intMode n = 5) && !s.bit (Reg.GPIO_IN (n / 16)) (n % 16))

/-- The pin event of a filtered sample (R454). -/
def pinEvent (n : Nat) (old new : Bool) (s : State) : State :=
  match s.intMode n with
  | 1 => if !old && new then setPinStat n true s else s
  | 2 => if old && !new then setPinStat n true s else s
  | 3 => if old != new then setPinStat n true s else s
  | 4 => setPinStat n new s
  | 5 => setPinStat n (!new) s
  | _ => s

/-- A level stable for the filter length is accepted (R453); level and event are open where the pin's results are
undefined (R454, R457). -/
def filterAcceptEff (n : Nat) (level : Bool) (s : State) : State :=
  if s.pinFunc n ≠ 0 ∨ s.bankSupplied (n / 16) = false then s
  else
    let old := s.bit (Reg.GPIO_IN (n / 16)) (n % 16)
    if s.pinOpen n then
      let f := takeFree 2 s
      setPinStat n (f.1.getLsbD 0) (setGpioIn n (f.1.getLsbD 1) f.2)
    else pinEvent n old level (setGpioIn n level s)

def execFilterAccept (n : Fin 160) (level : Bool) (s : State) : Out :=
  .next (if s.fclkOn then filterAcceptEff n level s else s)

/-- conflict: the higher of the two pins that select one trip input (R449, R484). -/
def conflictBits (s : State) : State :=
  forEach (List.range 12) (fun m s =>
    s.setBit (Reg.PIN_CFG (148 + m)) 9 (decide (s.pinFunc (148 + m) = 6 ∧ s.pinFunc (66 + m) = 2))) s

/-- An encoder input starts at a level, which is no edge for the spindles that use it (R46, R450). -/
def seedEncoder (n : Nat) (level : Bool) (s : State) : State :=
  let put (code : Nat) : Nat := if code.testBit (n % 3) = level then code else if level then code + 2 ^ (n % 3) else code - 2 ^ (n % 3)
  forEach (s.usersOf (n / 3)) (fun k s => s.setSpn k { s.spn k with seen := put (s.spn k).seen })
    (setLevels (n / 3) (put (s.levels (n / 3))) s)

/-- The new function's input starts at the sampled level (R450): GPIO_IN and an encoder input without an event, a trip
input at once. -/
def seedInput (n : Nat) (level : Bool) (s : State) : State :=
  if s.bankSupplied (n / 16) = false then s
  else if s.pinFunc n = 0 then setGpioIn n level s
  else if s.pinFunc n = 1 ∧ n < 96 then seedEncoder n level s
  else match tripOf n (s.pinFunc n) with
    | some m => if s.bit (Reg.PIN_CFG n) 9 then s else tripPinLevel m (!level) s
    | none => s

/-- A write of PIN_CFG[n] with the pin level sampled at its edge (R450, R453, R454). -/
def pinCfgWrite (n : Nat) (v : Word) (level : Bool) (s : State) : State :=
  let a := Reg.PIN_CFG n
  let old := s.reg a
  let switch : Bool := decide (fieldOf old 31 29 ≠ fieldOf v 31 29)
  let f := takeFree 1 s
  let s1 :=
    if switch && s.padDriven n then
      if s.pinFunc n = 0 then { s with keepers := tabSet none n (some (s.gpioOut n)) s.keepers }
      else { f.2 with keepers := tabSet none n (some (f.1.getLsbD 0)) f.2.keepers }
    else s
  let s2 := conflictBits (s1.setReg a (v &&& 0xFFFFFC00))
  let s3 := if fieldOf old 22 20 ≠ fieldOf v 22 20 then setPinStat n false s2 else s2
  if switch || (decide (fieldOf v 31 29 = 0) && decide (fieldOf old 19 10 ≠ fieldOf v 19 10)) then seedInput n level s3 else s3

def execPinCfg (n : Fin 160) (value : Word) (level : Bool) (s : State) : Out :=
  .next (if s.fclkOn then pinCfgWrite n value level s else s)

/-- One PCLK after the switch (R450). -/
def execKeeperRelease (n : Fin 160) (s : State) : Out :=
  .next (if s.fclkOn then { s with keepers := tabSet none n.val none s.keepers } else s)

/-- A W1C write of GPIO_INT_STAT: a level condition that holds, and an edge of this cycle, keep the bit (R33, R454). -/
def gpioStatWrite (b : Nat) (v0 : Word) (s : State) : State :=
  let v := v0 &&& ~~~s.setNow (Reg.GPIO_INT_STAT b)
  forEach (List.range 16) (fun i s =>
    if bitAt v i && !s.levelHolds (16 * b + i) then setPinStat (16 * b + i) false s else s) s

/-- The filtered samples of pins in a level mode, whose bits follow the condition (R454); log entry 64 names when. -/
def pinsTick (s : State) : State :=
  forEach ((List.range 160).filter fun n =>
      decide (s.pinFunc n = 0) && s.bankSupplied (n / 16) && !s.pinOpen n && s.levelHolds n &&
        !s.bit (Reg.GPIO_INT_STAT (n / 16)) (n % 16)) (fun n s => setPinStat n true s) s

/-! ### Bank supplies (R445, R446) -/

def setSupply (b v : Nat) (s : State) : State := { s with bankSupply := withField s.bankSupply (2 * b + 1) (2 * b) v }

/-- A bank supply falls below its threshold: the bank's inputs are frozen and bank_lost is set (R446). -/
def bankLost (b : Nat) (s : State) : State :=
  let s1 := setSupply b 0 s
  if s.fclkOn then setEvent Reg.PIN_BANK (20 + b) s1 else s1

/-- The supply returns, at 1.8 V (1) or 3.3 V (2), with the present level of each pin of the bank. -/
def bankReturn (b v : Nat) (levels : BitVec 16) (s : State) : State :=
  forEach (List.range 16) (fun i s => seedInput (16 * b + i) (levels.getLsbD i) s) (setSupply b v s)

/-- PIN_BANK as it reads (R456). -/
def State.pinBank (s : State) : Word := (s.reg Reg.PIN_BANK &&& 0x3FF00000) ||| (s.bankSupply &&& 0xFFFFF)

end Sys2Proof.Machine
end

