-- ==== Sys2Proof/Machine/Reset.lean ====
section
/-! DEFINITION. Resets, clocks, power and islands (R17 to R21, R36 to R38, R455, R458 to R462, R470, R471). -/

namespace Sys2Proof.Machine

/-! ### Straps and registers -/

/-- PWM_SAFE under the straps (R173, R178). -/
def strapSafe (strap : BitVec 2) : Word :=
  if strap = 0 then 0 else if strap = 1 then 0xAAAA else if strap = 2 then 0x5555 else 0x4444

/-- The registers loaded from outside take their values: PWM_SAFE and PIN_STRAP the sampled straps (R455, R458),
HP_PRODUCT the product code of OTP word 1 (R11, R397, R412). -/
def loadStraps (s : State) : State :=
  forEach [0, 1] (fun p s => s.setReg (Reg.HP_PRODUCT p) (s.otpWord 1)) <|
  forEach (List.range 24) (fun g s => s.setReg (Reg.PWM_SAFE g) (strapSafe s.sys.strap))
    (s.setReg Reg.PIN_STRAP (s.sys.strap.zeroExtend 32))

/-- Does core-domain reset leave the register alone (R398, R458)? -/
def keptReg (key : Nat) : Bool :=
  let off := key % 0x100000000
  decide (0x1300000 ≤ off ∧ off < 0x1301000) ||
    (match regRow? off with
     | some r => r.keptByCoreReset
     | none => false)

/-- Memory that core-domain reset leaves alone: DRAM and the tailstock's own (R458). -/
def keptMem (a : Nat) : Bool := decide (0x0800000000 ≤ a)

/-! ### Resets (R458) -/

/-- The global trip that TRIP_ALL_N holds is asserted after a reset too (R172). -/
def holdTrip (s : State) : State := if s.tripAll then s.setBit Reg.PWM_GTRIP 1 true else s

/-- A core-domain reset: every VDD_CORE island returns to its reset values; the always-on domain and DRAM are kept. The
read-latch shadows stay, of which the spec says nothing (DESIGN CHOICE, log entry 68). -/
def coreDomainReset (s : State) : State := holdTrip
  { pending := s.pending, freeCtr := s.freeCtr, now := s.now, devTimer := s.devTimer, resp := s.resp
    regs := s.regs.filter fun x => keptReg x.1
    shadow := s.shadow
    sys := { s.sys with fclk := false, audioPll := false, videoPll0 := false, videoPll1 := false, dramPll := false
                        coreIslands := 0, sectorIslands := 0, mediaIsland := false, domainReset := true }
    log := s.log, sec := { s.sec with coreRun := none, coreImage := none }
    encoders := s.encoders, encSince := s.encSince, tripAll := s.tripAll, bankSupply := s.bankSupply
    hosts := s.hosts, aborts := s.aborts, busyPins := s.busyPins
    dict := { s.dict with queue := s.dict.queue.filter fun r => decide (r.who < 3)
                          answered := s.dict.answered.filter fun r => decide (r.1.who < 3) }
    canNode := s.canNode, cans := s.cans.filter fun x => decide (x.1 = 0)
    tsClaimed := s.tsClaimed
    cores := s.cores.filter fun x => decide (x.1 = 16)
    checks := s.checks.filter fun m => decide (m.owner = none)
    mem := s.mem.filter fun c => keptMem c.1, nor := s.nor
    poison := s.poison.filter fun a => keptMem a }

/-- The value that a dictionary object holds, by index and subindex: its own, else its default (R390). -/
def State.objOwn (s : State) (index sub : Nat) (dflt : List Byte) : List Byte :=
  (tabGet none (index * 256 + sub) s.dict.vals).getD dflt

/-- The CANopen node's communication starts again: pre-operational, with the node-ID and bit rates that its objects hold
(R394). -/
def nodeRestart (s : State) : State :=
  { s with canNode :=
      { s.canNode with
        nmt := 0, tpdoAt := []
        nodeId := ofLeBytes (s.objOwn 0x1FF0 1 (leBytes 1 32))
        nominal := ofLeBytes (s.objOwn 0x1FF0 2 (leBytes 4 500000))
        dataRate := ofLeBytes (s.objOwn 0x1FF0 3 (leBytes 4 2000000)) } }

/-- A device reset: everything but OTP, NOR, log ring, GCTL_RESET_CAUSE and straps returns to reset; the boot ROM runs
again. -/
def deviceReset (s : State) : State :=
  let s1 : State :=
    { pending := s.pending, freeCtr := s.freeCtr, now := s.now, resp := s.resp
      sys := { variant := s.sys.variant, powerGood := s.sys.powerGood, phase := .bootRom, vdda := s.sys.vdda
               vddCore := s.sys.vddCore, ddr := s.sys.ddr, pwmBanks := s.sys.pwmBanks, clocksLost := s.sys.clocksLost
               reference := s.sys.reference, crystal := s.sys.crystal, tclkOnRc := s.sys.tclkOnRc, strap := s.sys.strap }
      log := s.log
      sec := { otp := s.sec.otp, record0 := s.sec.record0, record1 := s.sec.record1, norAbsent := s.sec.norAbsent
               tampers := s.sec.tampers, challenges := s.sec.challenges, unlock := s.sec.unlock }
      encoders := s.encoders, encSince := s.encSince, tripAll := s.tripAll, bankSupply := s.bankSupply
      dict := { vals := s.dict.stored, stored := s.dict.stored, loadMarked := s.dict.loadMarked }
      nor := s.nor }
  (loadStraps (nodeRestart (holdTrip s1))).setReg Reg.GCTL_RESET_CAUSE (s.reg Reg.GCTL_RESET_CAUSE)

/-- Power-on reset: the log ring is lost, its numbers go on; a marked return to defaults takes place (R390, R409). -/
def powerOnReset (s : State) : State :=
  let st := if s.dict.loadMarked then [] else s.dict.stored
  holdTrip
  { pending := s.pending, freeCtr := s.freeCtr, now := s.now, resp := s.resp
    sys := { variant := s.sys.variant, vdda := s.sys.vdda, ddr := s.sys.ddr, pwmBanks := s.sys.pwmBanks }
    log := { nextSeq := s.log.nextSeq, bootCount := s.log.bootCount, journal := s.log.journal, block := s.log.block
             place := s.log.place, badBlocks := s.log.badBlocks }
    sec := { otp := s.sec.otp, record0 := s.sec.record0, record1 := s.sec.record1 }
    encoders := s.encoders, encSince := s.encSince, tripAll := s.tripAll, bankSupply := s.bankSupply
    dict := { vals := st, stored := st }
    nor := s.nor }

/-- Power-good (R470): the straps are sampled, the boot ROM runs. What supplies and clocks it finds comes with it. -/
def execPowerGood (straps : BitVec 2) (reference crystal vdda : Bool) (s : State) : Out :=
  .next (if s.sys.powerGood then s
    else
      let s1 := nodeRestart (powerOnReset s)
      loadStraps { s1 with sys := { s1.sys with
        powerGood := true, phase := .bootRom, strap := straps, reference := reference, crystal := crystal, vdda := vdda
        tclkOnRc := !reference } })

/-- A falling SYS_PWRGD asserts power-on reset (R471). -/
def execSysPwrgdFall (s : State) : Out := .next (powerOnReset s)

def execDeviceReset (s : State) : Out :=
  .next (if s.sys.powerGood && decide (s.sys.resetWaiting = 2) then
      (deviceReset s).setBit Reg.GCTL_RESET_CAUSE 1 true
    else s)

/-- A core-domain reset by request, or by tailstock firmware (R458, R462). -/
def execCoreDomainReset (s : State) : Out :=
  .next (if s.sys.powerGood then
      let s1 := coreDomainReset { s with sys := { s.sys with resetWaiting := 0 } }
      if s.sys.resetWaiting = 1 then s1.setBit Reg.GCTL_RESET_CAUSE 3 true else s1
    else s)

/-- A core as it leaves its reset, at address `pc` (R205, R461). -/
def resetCore (c : Nat) (pc : Word) (s : State) : State :=
  s.setCore c { pc := pc, npc := pc + 4, cycle0 := s.devTimer }

/-- A core reset (R385, R458): held until its bit of GCTL_CORE_REL is set again. -/
def coreReset (c : Nat) (s : State) : State :=
  freeCoreChucks c (resetCore c 0 (s.setBit Reg.GCTL_CORE_REL c false))

def execCoreReset (c : Fin 16) (s : State) : Out := .next (if s.firmwareOn then coreReset c s else s)

/-- A write of GCTL_CORE_REL: a bit that rises starts its core at GCTL_CORE_PC, a bit that falls resets it (R459, R461). -/
def coreRelWrite (v : Word) (s : State) : State :=
  let old := s.reg Reg.GCTL_CORE_REL
  forEach (List.range (coreCount s.sys.variant)) (fun c s =>
    if bitAt v c && !bitAt old c then resetCore c (s.reg (Reg.GCTL_CORE_PC c)) (s.setBit Reg.GCTL_CORE_REL c true)
    else if !bitAt v c && bitAt old c then coreReset c s
    else s) s

/-! ### Clocks (R18, R460, R463) -/

/-- Clock `k` of the monitors is lost: its status, a log entry that names it, and tailstock source 16 (R18). -/
def clockLogged (k : Nat) (s : State) : State :=
  let s1 := { s with sys := { s.sys with clocksLost := s.sys.clocksLost ||| (1#8 <<< k) } }
  raiseTs 16 (logOpen 2 2 (evClock + 16 * k) [BitVec.ofNat 8 k] s1)

/-- The monitor of clock `k` sees its edges again. -/
def clockSeen (k : Nat) (s : State) : State :=
  { s with sys := { s.sys with clocksLost := s.sys.clocksLost &&& ~~~(1#8 <<< k) } }

/-- FCLK is lost: every group is in SAFE with disarmed set; loops, plate and cores stop. -/
def fclkLostEff (s : State) : State :=
  if s.sys.fclk then
    let s1 := safeAll (List.range (4 * sectorCount s.sys.variant)) s
    clockLogged 3 { s1 with sys := { s1.sys with fclk := false, fclkLost := true } }
  else s

def execFclkLost (s : State) : Out := .next (fclkLostEff s)

def execReferenceLost (s : State) : Out :=
  .next (if s.sys.powerGood && s.sys.reference then
      let s1 := fclkLostEff s
      clockLogged 0 { s1 with sys := { s1.sys with reference := false, tclkOnRc := true } }
    else s)

def execCrystalLost (s : State) : Out :=
  .next (if s.sys.powerGood && s.sys.crystal then clockLogged 1 { s with sys := { s.sys with crystal := false } } else s)

def execCrystalReturn (s : State) : Out :=
  .next (if s.sys.powerGood then clockSeen 1 { s with sys := { s.sys with crystal := true } } else s)

def execTclkLost (s : State) : Out :=
  .next (if s.sys.powerGood && s.sys.reference && !s.sys.tclkOnRc then
      clockLogged 2 { s with sys := { s.sys with tclkOnRc := true } } else s)

def execTailstockPllLock (s : State) : Out :=
  .next (if s.sys.powerGood && s.sys.reference then
      clockSeen 2 { s with sys := { s.sys with tclkOnRc := false } } else s)

/-- The dependent unit stops, mutes or blanks (R18). -/
def unitPllLost (u : UnitPll) (s : State) : State :=
  match u with
  | .audio => audioPllLost s
  | .video0 => if s.composerOn then headPllLost 0 s else s
  | .video1 => if s.composerOn then headPllLost 1 s else s
  | .dram => { s with sys := { s.sys with dramPll := false } }

/-- The monitor of a unit's PLL (R18). -/
def unitClock : UnitPll → Nat
  | .audio => 4
  | .video0 => 5
  | .video1 => 6
  | .dram => 7

def execUnitPllLost (u : UnitPll) (s : State) : Out :=
  .next (if s.fclkOn then clockLogged (unitClock u) (unitPllLost u s) else s)

/-- Abort engines whose function a core-domain reset has reset complete at its end (R465). -/
def abortsEnd (s : State) : State :=
  forEach [0, 1, 2] (fun e s => if (s.abortEngine e).busy then abortComplete e s else s) s

/-- The fabric PLL locks and FCLK runs; after a loss of FCLK, clock_loss is set (R18, R459, R460). The spec gives the audio
PLL's lock no moment of its own: it locks here (DESIGN CHOICE, log entry 68). -/
def fabricLock (s0 : State) : State :=
  let s := clockSeen 4 (clockSeen 3 s0)
  let s1 := { s with sys := { s.sys with fclk := true, audioPll := true, fclkLost := false, domainReset := false } }
  let s2 := if s.sys.fclkLost then setEvent Reg.GCTL_RESET_CAUSE 6 s1 else s1
  if s.sys.domainReset then abortsEnd s2 else s2

def execFabricPllLock (s : State) : Out :=
  .next (if s.firmwareOn && s.sys.reference && s.sys.vdda && s.sys.vddCore && decide (s.sys.held = 0) && !s.sys.fclk then fabricLock s
    else s)

/-! ### Islands (R19, R21) -/

/-- Registers outside a range of offsets. -/
def dropRegs (lo hi : Nat) (s : State) : State :=
  { s with regs := s.regs.filter fun x => !(decide (lo ≤ x.1 % 0x100000000) && decide (x.1 % 0x100000000 < hi)) ||
      keptReg x.1 }

/-- Table entries outside a range of keys. -/
def tabDrop {α : Type} (lo hi : Nat) (t : Tab α) : Tab α := t.filter fun x => !(decide (lo ≤ x.1) && decide (x.1 < hi))

/-- Memory outside a range of addresses. -/
def dropMem (lo hi : Nat) (s : State) : State :=
  { s with mem := tabDrop lo hi s.mem, poison := s.poison.filter fun a => !(decide (lo ≤ a) && decide (a < hi)) }

/-- Core `c` loses its power: its TCM and its state are lost. -/
def coreOff (c : Nat) (s : State) : State :=
  let s1 := dropMem (0x20000000 + c * 0x100000) (0x20000000 + (c + 1) * 0x100000) (freeCoreChucks c s)
  { s1 with cores := tabDrop c (c + 1) s1.cores, sys := { s1.sys with coreIslands := s1.sys.coreIslands &&& ~~~(1#16 <<< c) } }

/-- Sector `k` loses its power: PWM outputs safe with disarmed set, its state lost. -/
def sectorOff (k : Nat) (s : State) : State :=
  let gs := [4 * k, 4 * k + 1, 4 * k + 2, 4 * k + 3]
  let s1 := dropRegs (0x300000 + k * 0x10000) (0x310000 + k * 0x10000) s
  let s2 := dropRegs (0x400000 + k * 0x20000) (0x420000 + k * 0x20000) s1
  let s3 := dropRegs (0x4C0000 + k * 0x800) (0x4C0800 + k * 0x800) s2
  let s4 := dropRegs (0x500000 + k * 0x4000) (0x504000 + k * 0x4000) s3
  let s5 := dropRegs (0x518000 + k * 0x100) (0x518100 + k * 0x100) s4
  let s6 := { s5 with
    adcs := tabDrop (4 * k) (4 * k + 4) s5.adcs, channels := tabDrop (64 * k) (64 * k + 64) s5.channels
    comparators := tabDrop (12 * k) (12 * k + 12) s5.comparators, demods := tabDrop (8 * k) (8 * k + 8) s5.demods
    sectors := tabDrop k (k + 1) s5.sectors, pairs := tabDrop (16 * k) (16 * k + 16) s5.pairs
    groups := s5.groups.filterMap fun (x : Nat × PwmGroup) =>
      if keysIn (4 * k) (4 * k + 4) x.1 then (if x.2.safeLock then some (x.1, { safeLock := true }) else none) else some x
    loops := tabDrop (64 * k) (64 * k + 64) s5.loops
    sys := { s5.sys with sectorIslands := s5.sys.sectorIslands &&& ~~~(1#6 <<< k) } }
  let s7 := forEach (List.range 64) (fun c s => s.setReg (Reg.CH_VALUE k c) 0x40000000)
    ((s6.setReg (Reg.AFE_STALE_MAP k 0) 0xFFFFFFFF).setReg (Reg.AFE_STALE_MAP k 1) 0xFFFFFFFF)
  safeAll gs (setOwners s7)

/-- The media island loses its power: consoles parted, heads blanked, audio muted. -/
def mediaOff (s : State) : State :=
  let s1 := forEach (List.range 512) (fun k s => if s.conState k = conScanning then rasterStop (72 + s.conRaster k) s else s) s
  let s2 := forEach [0, 1] (fun h s => if s.hdState h = hdOff then s else headPllLost h s) s1
  let s3 := dropRegs 0x900000 0xD00000 s2
  { s3 with consoles := [], conJobs := [], pipes := [], streams := [], liveLines := [], active := [], mover := {}
            heads := [], audio := {}, sys := { s3.sys with mediaIsland := false } }

/-! An island switched off while in use leaves undefined results in that island only (R21): what the model holds of it
comes from a state of which nothing is known (log entry 1), and its PWM outputs are in their safe state, which is one of
the two that R40 leaves them. -/

def spoilCoreIsland (c : Nat) (s0 : State) : State :=
  let u := (takeState s0).1
  let s := (takeState s0).2
  { s with cores := tabMix (fun _ => {}) (keysIn c (c + 1)) s.cores u.cores
           aic := tabMix (fun _ => {}) (keysIn c (c + 1)) s.aic u.aic
           mem := tabMix (fun _ => 0) (keysIn (0x20000000 + c * 0x100000) (0x20040000 + c * 0x100000)) s.mem u.mem }

/-- The register offsets of sector `k`. -/
def sectorReg (k off : Nat) : Bool :=
  keysIn (0x300000 + k * 0x10000) (0x310000 + k * 0x10000) off || keysIn (0x400000 + k * 0x20000) (0x420000 + k * 0x20000) off ||
    keysIn (0x4C0000 + k * 0x800) (0x4C0800 + k * 0x800) off || keysIn (0x518000 + k * 0x100) (0x518100 + k * 0x100) off

def spoilSector (k : Nat) (s0 : State) : State :=
  let u := (takeState s0).1
  let s := (takeState s0).2
  { s with regs := tabMix resetKey (sectorReg k) s.regs u.regs
           adcs := tabMix (fun _ => {}) (keysIn (4 * k) (4 * k + 4)) s.adcs u.adcs
           channels := tabMix (fun _ => {}) (keysIn (64 * k) (64 * k + 64)) s.channels u.channels
           comparators := tabMix (fun _ => {}) (keysIn (12 * k) (12 * k + 12)) s.comparators u.comparators
           demods := tabMix (fun _ => {}) (keysIn (8 * k) (8 * k + 8)) s.demods u.demods
           sectors := tabMix (fun _ => {}) (keysIn k (k + 1)) s.sectors u.sectors
           loops := tabMix (fun _ => {}) (keysIn (64 * k) (64 * k + 64)) s.loops u.loops }

def spoilMedia (s0 : State) : State :=
  let u := (takeState s0).1
  let s := (takeState s0).2
  { s with regs := tabMix resetKey (keysIn 0x900000 0xD00000) s.regs u.regs
           consoles := u.consoles, conJobs := u.conJobs, pipes := u.pipes, streams := u.streams, liveLines := u.liveLines
           active := u.active, mover := u.mover, heads := u.heads, audio := u.audio }

/-- Is the island in use, so that switching it off is misuse (R21)? -/
def State.islandUsed (s : State) : Island → Bool
  | .core c => s.bit Reg.GCTL_CORE_REL c || (List.range 32).any fun b => decide (s.bankOwner b = (0, c.val))
  | .sector k => (List.range 4).any fun i => decide (s.pwmState (4 * k + i) = pwmArmed)
  | .media => (List.range 16).any fun i => s.bit (Reg.CON_SQ_CTL i) 31

/-- Tailstock firmware switches an island (R19); an absent unit has none (R3). -/
def islandSwitch (i : Island) (on : Bool) (s : State) : State :=
  match i with
  | .core c =>
    if coreCount s.sys.variant ≤ c.val ∨ on = s.sys.coreIslands.getLsbD c then s
    else if on then
      resetCore c (s.reg (Reg.GCTL_CORE_PC c)) { s with sys := { s.sys with coreIslands := s.sys.coreIslands ||| (1#16 <<< c.val) } }
    else if s.islandUsed i then spoilCoreIsland c (coreOff c s)
    else coreOff c s
  | .sector k =>
    if sectorCount s.sys.variant ≤ k.val ∨ on = s.sys.sectorIslands.getLsbD k then s
    else if on then zonesRefresh k { s with sys := { s.sys with sectorIslands := s.sys.sectorIslands ||| (1#6 <<< k.val) } }
    else if s.islandUsed i then spoilSector k (sectorOff k s)
    else sectorOff k s
  | .media =>
    if on = s.sys.mediaIsland then s
    else if on then { s with sys := { s.sys with mediaIsland := true } }
    else if s.islandUsed i then spoilMedia (mediaOff s)
    else mediaOff s

def execIslandSwitch (i : Island) (on : Bool) (s : State) : Out :=
  .next (if s.firmwareOn && s.sys.fclk then islandSwitch i on s else s)

/-! ### SCLK registers (R36 to R38) -/

/-- A write of GCTL_KEEP[i]: it waits for its second SCLK edge; a later one replaces it (R37). -/
def keepWrite (i : Nat) (v : Word) (s : State) : State :=
  { s with sys := { s.sys with keepWaiting := tabSet none i (some v) s.sys.keepWaiting } }

/-- The pending write of keep word `i` takes effect (R37). -/
def sclkWriteEff (i : Nat) (s : State) : State :=
  match tabGet none i s.sys.keepWaiting with
  | some v =>
    { s with sys := { s.sys with keep := tabSet 0 i v s.sys.keep, keepWaiting := tabSet none i none s.sys.keepWaiting } }
  | none => s

def execSclkWriteEffect (i : Fin 4) (s : State) : Out := .next (if s.sys.powerGood then sclkWriteEff i s else s)

/-- src and crystal_ok in SCLK logic (R38). -/
def State.sclkSource (s : State) : Word := if s.sys.crystal then 1 else 2

/-- GCTL_SCLK_STATUS as it reads: sync_busy from the arrival of a write, the other fields from the copy (R36 to R38). -/
def State.sclkStatus (s : State) : Word :=
  withBit (s.reg Reg.GCTL_SCLK_STATUS) 31 (decide (s.sys.keepWaiting ≠ []))

/-- One edge of SCLK: it is counted, and the copies that software reads are refreshed (R36, R38). -/
def sclkEdge (s : State) : State :=
  let n := s.sys.sclkCount + 1
  let s1 := { s with sys := { s.sys with sclkCount := n } }
  let s2 := ((s1.setReg Reg.GCTL_SCLK_CNT_LO (lowWord n)).setReg Reg.GCTL_SCLK_CNT_HI (highWord n)).setReg
    Reg.GCTL_SCLK_STATUS s.sclkSource
  forEach [0, 1, 2, 3] (fun i s => s.setReg (Reg.GCTL_KEEP i) (tabGet 0 i s.sys.keep)) s2

/-! ### The snapshot (R35, R44, R70) -/

/-- The counters that the word selects are copied; done. -/
def snapshotEff (v : Word) (s : State) : State :=
  let s1 := s.setReg Reg.GCTL_SNAP ((v &&& 0xE) ||| 0x80000000)
  let s2 := if bitAt v 1 then (s1.setReg Reg.GCTL_SNAP_DT_LO (lowWord s.devTimer)).setReg Reg.GCTL_SNAP_DT_HI (highWord s.devTimer)
    else s1
  let s3 := if bitAt v 2 then
      forEach (List.range 154) (fun n s =>
        (s.setReg (Reg.SPN_SNAP_PHASE n) (lowWord (s.spn n).pos)).setReg (Reg.SPN_SNAP_TURNS n) (highWord (s.spn n).pos)) s2
    else s2
  if bitAt v 3 then forEach (List.range 64) (fun t s => s.setReg (Reg.GT_SNAP t) (s.reg (Reg.GT_COUNT t))) s3 else s3

/-- A write of GCTL_SNAP: the selection is stored, a trigger takes the snapshot, which needs FCLK. -/
def snapWrite (v : Word) (s : State) : State :=
  if bitAt v 0 then
    if s.sys.fclk then snapshotEff v s else s.setReg Reg.GCTL_SNAP (v &&& 0xE)
  else s.setReg Reg.GCTL_SNAP ((s.reg Reg.GCTL_SNAP &&& 0x80000000) ||| (v &&& 0xE))

/-- Triggers that take effect together take one snapshot of the union of their selections; that GCTL_SNAP[3:1] then holds
that union is the model's choice (DESIGN CHOICE, log entry 68). -/
def execSnapshotTrigger (values : List Word) (s : State) : Out :=
  .next (if s.sys.powerGood then snapWrite (withBit (values.foldl (· ||| ·) 0) 0 true) s else s)

end Sys2Proof.Machine
end

