-- ==== Sys2Proof/Machine/Sec.lean ====
section
/-! DEFINITION. The tailstock: sensors, log and journal, OTP, images and boot, tamper, random source, telemetry, core
release (spec/18, R461). The dictionary's objects are in Dict.lean. -/

namespace Sys2Proof.Machine

/-! ### Log and journal (R408 to R411) -/

/-- The first 60 bytes of a log entry (R408). -/
def LogEntry.head (e : LogEntry) : List Byte :=
  leBytes 4 e.seq.toNat ++ leBytes 1 e.cls ++ leBytes 1 e.unit ++ leBytes 2 e.code ++ leBytes 8 e.time.toNat ++
    leBytes 4 e.boot.toNat ++ leBytes 4 e.rep.toNat ++ (e.payload ++ List.replicate 36 0).take 36

/-- Its 64 bytes, with the check value (R408). -/
def LogEntry.encode (e : LogEntry) : List Byte := e.head ++ leBytes 4 (crc32 e.head).toNat

/-- The entry that stands at position `i` of object 0x8001 (R411): the ring's, else the journal's. -/
def State.logAt (s : State) (i : Nat) : Option LogEntry :=
  match s.log.ring.find? fun e => decide (e.seq.toNat % 2 ^ 20 = i) with
  | some e => some e
  | none => (s.log.journal.reverse.find? fun x => decide (x.2.seq.toNat % 2 ^ 20 = i)).map (·.2)

/-- The next block of the circle that is not marked bad. -/
def EventLog.nextBlock (l : EventLog) (b : Nat) : Nat :=
  ((List.range 1024).map fun i => (b + 1 + i) % 1024).find? (fun x => !l.badBlocks.contains x) |>.getD b

/-- The write point enters block `b`: the next block is erased, and its entries are dropped (R410). -/
def EventLog.enter (l : EventLog) (b : Nat) : EventLog :=
  { l with block := b, place := 0, journal := l.journal.filter fun x => decide (x.1 ≠ l.nextBlock b ∨ l.nextBlock b = b) }

/-- The oldest `n` unwritten entries. -/
def EventLog.oldest (l : EventLog) (n : Nat) : List LogEntry := (l.ring.drop (l.ring.length - l.unwritten)).take n

/-- `n` entries stand in the journal. -/
def EventLog.written (l : EventLog) (n : Nat) : EventLog :=
  let l1 := { l with journal := l.journal ++ (l.oldest n).map (fun e => (l.block, e)), unwritten := l.unwritten - n
                     place := l.place + n, programming := none }
  if 1024 ≤ l1.place then l1.enter (l1.nextBlock l1.block) else l1

/-- Once the journal has caught up, a loss entry tells of discarded entries (R409). -/
def lossEntry (s : State) : State :=
  if s.log.unwritten = 0 ∧ s.log.lossWaiting ≠ 0 then
    logEvent 2 0 1 (leBytes 4 s.log.lossWaiting) { s with log := { s.log with lossWaiting := 0 } }
  else s

/-- A page of entries goes to the journal (R409): at most 4, within one block. -/
def journalWriteEff (s : State) : State :=
  if s.log.programming.isSome ∨ s.log.unwritten = 0 ∨ s.sec.norAbsent then s
  else { s with log := { s.log with programming := some (min (min 4 s.log.unwritten) (1024 - s.log.place)) } }

def execJournalWrite (s : State) : Out := .next (if s.sys.powerGood then journalWriteEff s else s)

/-- A NOR program ends (R409, R413): verified; failed, which marks the block bad; or the device does not answer. -/
def norProgramDoneEff (r : NorResult) (s : State) : State :=
  match r with
  | .noAnswer => raiseTs 23 { s with sec := { s.sec with norAbsent := true }, log := { s.log with programming := none } }
  | .verified =>
    match s.log.programming with
    | some n => lossEntry { s with log := s.log.written n }
    | none => s
  | .failed =>
    match s.log.programming with
    | some _ =>
      let l := { s.log with programming := none, badBlocks := s.log.block :: s.log.badBlocks }
      logOpen 2 0 evJournal [] { s with log := l.enter (l.nextBlock l.block) }
    | none => s

def execNorProgramDone (r : NorResult) (s : State) : Out := .next (if s.sys.powerGood then norProgramDoneEff r s else s)

/-- Write every unwritten entry to the journal, page by page. -/
def journalFlush : Nat → State → State
  | 0, s => s
  | n + 1, s =>
    if s.log.unwritten = 0 ∨ s.sec.norAbsent then s
    else journalFlush n { s with log := s.log.written (min (min 4 s.log.unwritten) (1024 - s.log.place)) }

/-- A security-class entry, in the journal before the event it records is acknowledged (R409). -/
def logSecurity (unit ev : Nat) (payload : List Byte) (s : State) : State :=
  lossEntry (journalFlush 1024 (logOpen 3 unit ev payload s))

/-! ### OTP (R412, R428) -/

def setOtp (w : Nat) (v : Word) (s : State) : State := { s with sec := { s.sec with otp := tabSet (s.otpMade w) w v s.sec.otp } }
def blowBit (w b : Nat) (s : State) : State := setOtp w (s.otpWord w ||| oneBit b) s

/-- OTP_DATA: unreadable and reserved words return zero (R412). -/
def State.otpRead (s : State) (w : Nat) : Word :=
  if w ≤ 10 ∨ (16 ≤ w ∧ w < 80) ∨ (112 ≤ w ∧ w < 144) then s.otpWord w else 0

/-- The anti-rollback counter: set bits of words 6 to 9 (R412). -/
def popCount (w : Word) : Nat := ((List.range 32).filter fun i => bitAt w i).length
def State.counter (s : State) : Nat :=
  popCount (s.otpWord 6) + popCount (s.otpWord 7) + popCount (s.otpWord 8) + popCount (s.otpWord 9)

/-- Raise the counter to `v`, bits blown from bit 0 upward. -/
def raiseCounter (v : Nat) (s : State) : State :=
  forEach (List.range (min v 128)) (fun i s => blowBit (6 + i / 32) (i % 32) s) s

def State.lifecycle (s : State) : Nat := fieldOf (s.otpWord 0) 1 0

/-- A write of OTP_PROG by the tailstock. -/
def otpProg (v : Word) (s : State) : State :=
  if bitAt v 31 ∧ s.bit Reg.OTP_STATUS 31 = false then
    { s with sec := { s.sec with otpTarget := some (s.fld Reg.OTP_ADDR 7 0, fieldOf v 4 0) } }.setBit Reg.OTP_STATUS 31
      true
  else s

def execOtpProg (value : Word) (s : State) : Out := .next (if s.sys.powerGood then otpProg value s else s)

/-- The program ends; a bit that failed verification is open. -/
def otpProgDone (ok : Bool) (s : State) : State :=
  match s.sec.otpTarget with
  | none => s
  | some (w, b) =>
    let s1 := { s with sec := { s.sec with otpTarget := none } }.setReg Reg.OTP_STATUS (if ok then 0 else 1)
    if ok then blowBit w b s1
    else
      let f := takeFree 1 s1
      if f.1.getLsbD 0 then blowBit w b f.2 else f.2

def execOtpProgDone (ok : Bool) (s : State) : Out := .next (if s.sys.powerGood then otpProgDone ok s else s)

/-! ### Images (R413 to R415, R418, R419) -/

/-- Slots: 0 and 1 the tailstock's A and B, 2 and 3 the core image's. -/
def slotBase : Nat → Nat
  | 0 => 0
  | 1 => 0x100000
  | 2 => 0x1000000
  | _ => 0x2000000

/-- The largest image of a slot: header and body (R414, R418). -/
def slotMax (slot : Nat) : Nat := if slot < 2 then 459264 else 16777216

def State.hdr (s : State) (slot off n : Nat) : Nat := ofLeBytes (s.norBytes (slotBase slot + off) n)
def State.hdrBig (s : State) (slot off n : Nat) : Nat := ofBeBytes (s.norBytes (slotBase slot + off) n)
def State.imgVersion (s : State) (slot : Nat) : Nat := s.hdr slot 8 4
def State.imgLength (s : State) (slot : Nat) : Nat := s.hdr slot 0xC 4
def State.imgBody (s : State) (slot : Nat) : List Byte := s.norBytes (slotBase slot + 512) (s.imgLength slot)

/-- Bytes of the header that stand zero (R414). -/
def State.hdrZero (s : State) (slot off n : Nat) : Bool := (s.norBytes (slotBase slot + off) n).all fun b => decide (b = 0)

/-- The hash of key slot `k` as its bytes (R412). -/
def State.keyHash (s : State) (k : Nat) : List Byte :=
  (List.range 16).flatMap fun i => leBytes 4 (s.otpWord (16 + 16 * k + i)).toNat

/-- The result of R415's checks in their order: 0 passed, else the first that fails. -/
def State.imageCheck (s : State) (slot : Nat) : Nat :=
  let kind := if slot < 2 then 1 else 2
  let len := s.imgLength slot
  let load := s.hdr slot 0x10 8
  let k := s.hdr slot 0x20 4
  let xy := s.norBytes (slotBase slot + 0x80) 132
  if s.sec.norAbsent then 8
  else if !(decide (s.hdr slot 0 4 = 0x4D494C56) && decide (s.hdr slot 4 2 = 1) && decide (s.hdr slot 0x24 4 < 16) &&
      s.hdrZero slot 0x28 0x18 && s.hdrZero slot 0x104 4 && s.hdrZero slot 0x18C 0x74) then 1
  else if s.hdr slot 6 2 ≠ kind then 2
  else if !(decide (len % 64 = 0) &&
      (if slot < 2 then decide (len ≤ 458752) && decide (0x10000000 ≤ load ∧ load + len ≤ 0x10080000)
       else decide (len ≤ 16776704) && decide (0x0800000000 ≤ load ∧ load + len ≤ s.dramEnd))) then 3
  else if !(decide (k < 3) && !bitAt (s.otpWord 10) k && decide (sha512 xy = s.keyHash k)) then 4
  else if s.imgVersion slot < s.counter then 5
  else if sha512 (s.imgBody slot) ≠ s.norBytes (slotBase slot + 0x40) 64 then 6
  else if !ecdsaValid (s.hdrBig slot 0x80 66) (s.hdrBig slot 0xC2 66) (s.hdrBig slot 0x108 66) (s.hdrBig slot 0x14A 66)
      (ofBeBytes (sha512 (s.norBytes (slotBase slot) 0x108))) then 7
  else 0

/-- The boot record that stands: the valid copy with the higher sequence number (R413). -/
def State.bootRec (s : State) : BootRec :=
  match s.sec.record0, s.sec.record1 with
  | some a, some b => if a.seq < b.seq then b else a
  | some a, none => a
  | none, some b => b
  | none, none => {}

/-- An update of the boot record goes to the other copy (R413, R426). -/
def setBootRec (r : BootRec) (s : State) : State :=
  let r1 := { r with seq := s.bootRec.seq + 1 }
  let first : Bool := match s.sec.record0, s.sec.record1 with
    | some a, some b => decide (a.seq < b.seq)
    | none, _ => true
    | some _, none => false
  if first then { s with sec := { s.sec with record0 := some r1 } } else { s with sec := { s.sec with record1 := some r1 } }

/-- The slot of a kind (1 tailstock, 2 core) that the boot record makes active, and its trial slot (R416). -/
def BootRec.active (r : BootRec) (kind : Nat) : Nat := if kind = 1 then r.tsSlot else 2 + r.coreSlot
def BootRec.other (r : BootRec) (kind : Nat) : Nat := if kind = 1 then 1 - r.tsSlot else 2 + (1 - r.coreSlot)

/-- The slot that a boot chooses: the trial's while one runs. -/
def BootRec.chosen (r : BootRec) (kind : Nat) : Nat := if r.trial = kind then r.other kind else r.active kind

/-- A slot of the same kind. -/
def twinSlot (slot : Nat) : Nat := if slot % 2 = 0 then slot + 1 else slot - 1

/-- A slot of this kind that verifies: the chosen one, else the other, tried once (R416, R461). -/
def State.goodSlot (s : State) (kind : Nat) : Option Nat :=
  let a := s.bootRec.chosen kind
  if s.imageCheck a = 0 then some a
  else if s.imageCheck (twinSlot a) = 0 then some (twinSlot a)
  else none

/-! ### Boot (R416, R417) -/

/-- The ROM enters recovery. -/
def enterRecovery (why : Nat) (s : State) : State :=
  logOpen 2 4 evStartUp [] { s with sys := { s.sys with phase := .recovery }, sec := { s.sec with recovery := why } }

/-- A trial whose attempts have reached 3 reverts, which is logged. -/
def revertTrial (s : State) : State :=
  let r := s.bootRec
  if r.trial ≠ 0 ∧ 3 ≤ r.attempts then logOpen 1 4 evImage [] (setBootRec { r with trial := 0, attempts := 0 } s) else s

/-- The attempt count of a running trial rises. -/
def countAttempt (s : State) : State :=
  let r := s.bootRec
  if r.trial = 0 then s else setBootRec { r with attempts := r.attempts + 1 } s

/-- The verified image starts: its body in SRAM, the core at its entry (R416). -/
def startImage (slot : Nat) (s : State) : State :=
  let s1 := countAttempt (s.store (tsBase + s.hdr slot 0x10 8) (s.imgBody slot))
  let s2 := logOpen 0 4 evStartUp (leBytes 4 s1.bootRec.attempts)
    { s1 with
      sys := { s1.sys with phase := .firmware }
      sec :=
        { s1.sec with
          runSlot := slot, recovery := 0, keys := true
          tsImage := some (s.imgVersion slot, s.norBytes (slotBase slot + 0x40) 64) } }
  resetCore tsCore (toWord (s.hdr slot 0x18 8)) s2

/-- Tamper resets of the last 10 s (R417). -/
def State.recentTampers (s : State) : Nat := (s.sec.tampers.filter fun t => decide (s.now < t + 10 * second)).length

/-- The cause of a tamper reset goes into a security entry and is cleared (R424). -/
def tamperLogged (s : State) : State :=
  if s.reg Reg.TS_TAMPER_CAUSE = 0 then s
  else (logSecurity 3 evTamper (leBytes 4 (s.reg Reg.TS_TAMPER_CAUSE).toNat) s).setReg Reg.TS_TAMPER_CAUSE 0

/-- The image of a slot that verifies starts; without one the ROM enters recovery (R416, R417). -/
def startFrom (o : Option Nat) (s : State) : State :=
  match o with
  | some slot => startImage slot s
  | none => enterRecovery 2 s

/-- The boot ROM's sequence (R416). -/
def bootRomEff (s : State) : State :=
  let s1 := tamperLogged { s with log := { s.log with bootCount := s.log.bootCount + 1 }, sec := { s.sec with keys := true } }
  if s1.sec.norAbsent then enterRecovery 4 s1
  else if s1.lifecycle = 0 then enterRecovery 1 s1
  else if 8 ≤ s1.recentTampers then enterRecovery 3 s1
  else
    let s2 := revertTrial s1
    let s3 := if s2.counter < s2.bootRec.version then raiseCounter s2.bootRec.version s2 else s2
    startFrom (s3.goodSlot 1) s3

def execBootRom (s : State) : Out :=
  .next (if s.sys.powerGood && decide (s.sys.phase = .bootRom) then bootRomEff s else s)

/-- The first 64 KiB of an image's body reach core `c`'s TCM (R461). -/
def copyImage (c slot : Nat) (s : State) : State :=
  memWrite none (0x20000000 + c * 0x100000) ((s.imgBody slot).take 65536) s

/-- The image of this slot is the one that the cores run. -/
def noteCoreImage (slot : Nat) (s : State) : State :=
  { s with sec :=
      { s.sec with coreRun := some slot, coreImage := some (s.imgVersion slot, s.norBytes (slotBase slot + 0x40) 64) } }

/-- Core `c` starts on the image of a slot that verifies (R461); an entry outside the copied range, or no such slot, releases
nothing and is logged. -/
def releaseFrom (c : Nat) (o : Option Nat) (s : State) : State :=
  match o with
  | none => logOpen 2 4 evImage [] s
  | some slot =>
    let entry := s.hdr slot 0x18 8
    if entry < 0x10000000 ∨ 0x10010000 ≤ entry then logEvent 2 4 0x10 [] s
    else
      let s1 := noteCoreImage slot (copyImage c slot s)
      resetCore c (toWord entry) ((s1.setReg (Reg.GCTL_CORE_PC c) (toWord entry)).setBit Reg.GCTL_CORE_REL c true)

def coreReleaseEff (c : Nat) (s : State) : State := releaseFrom c (s.goodSlot 2) s

/-- A core is released once DRAM is trained, for the image is loaded there (R416, R460, R461). -/
def execCoreRelease (c : Fin 16) (s : State) : Out :=
  .next (if s.firmwareOn && s.coreOn c && s.dramTrained && !s.bit Reg.GCTL_CORE_REL c then coreReleaseEff c s else s)

/-! ### Sensors (R406, R407) -/

def State.sensor (s : State) (k : Nat) : Sensor := tabGet {} k s.sec.sensors
def State.setSensor (s : State) (k : Nat) (x : Sensor) : State :=
  { s with sec := { s.sec with sensors := tabSet {} k x s.sec.sensors } }

/-- Is a value inside a window register's limits? -/
def insideWindow (w : Word) (v : Int) : Bool :=
  decide (signedOf 16 (fieldOf w 15 0) ≤ v) && decide (v ≤ signedOf 16 (fieldOf w 31 16))

/-- TSN_CTL.state follows the sensor (R428). -/
def showSensor (k : Nat) (s : State) : State :=
  s.setFld (Reg.TSN_CTL k) 17 16 (if (s.sensor k).alarm then 2 else if (s.sensor k).warn then 1 else 0)

/-- Is a sensor still in the alarm on whose entry action 2 held the core domain? -/
def State.alarmHolds (s : State) : Bool := (List.range 56).any fun k => (s.sensor k).alarm && (s.sensor k).holds

/-- The core domain's holds that have ended are taken away (R406, R407). -/
def releaseHolds (s : State) : State :=
  let hot := (List.range 32).any fun k => (s.sensor k).seen && decide ((s.sensor k).cool < 4)
  let h0 := s.sys.held.getLsbD 0 && hot
  let h1 := s.sys.held.getLsbD 1 && s.alarmHolds
  { s with sys := { s.sys with held := BitVec.ofNat 2 (boolNat h0 + 2 * boolNat h1) } }

/-- The core domain is held in reset under the global trip (R406, R407): hold `i`, cause bit `b`. -/
def holdCoreDomain (i b : Nat) (s : State) : State :=
  let s1 := coreDomainReset s
  assertGlobalTrip 0 ({ s1 with sys := { s1.sys with held := s1.sys.held ||| BitVec.ofNat 2 (1 <<< i) } }.setBit
    Reg.GCTL_RESET_CAUSE b true)

/-- What a sensor's action does on entry into alarm (R406). -/
def alarmAction (k : Nat) (s : State) : State :=
  match s.fld (Reg.TSN_CTL k) 30 29 with
  | 0 => s
  | 1 => assertGlobalTrip 0 s
  | 2 =>
    let s1 := s.setSensor k { s.sensor k with holds := true }
    if s.sys.held.getLsbD 1 then assertGlobalTrip 0 s1 else holdCoreDomain 1 5 s1
  | _ =>
    let u := takeState s
    let f := takeFree 2 (freeReg (Reg.TSN_VALUE k) (u.2.setSensor k (u.1.sensor k)))
    f.2.setFld (Reg.TSN_CTL k) 17 16 f.1.toNat

def sensorEvent (cls : Nat) (s : State) : State := logOpen cls 1 evSensor [] s
def sensorRaise (k : Nat) (s : State) : State := raiseTs (if k < 32 then 24 else 25) s

/-- Consecutive samples, counted up or started again. -/
def runOf' (b : Bool) (n : Nat) : Nat := if b then n + 1 else 0

/-- One latch: entered after `f` samples outside in a row, left after `f` inside. -/
def latchStep (was : Bool) (f out inn : Nat) : Bool := if was then decide (inn < f) else decide (f ≤ out)

/-- Entries and exits of one state are logged; an entry raises the tailstock's source. -/
def latchEvents (k cls : Nat) (was now : Bool) (s : State) : State :=
  if !was && now then sensorRaise k (sensorEvent cls s)
  else if was && !now then sensorEvent cls s
  else s

/-- Thermal shutdown (R407). -/
def thermalCheck (k : Nat) (s : State) : State :=
  if decide (k < 32) && decide (4 ≤ (s.sensor k).hot) && !s.sys.held.getLsbD 0 then
    logOpen 2 1 evSensor [] (holdCoreDomain 0 4 s)
  else s

/-- What a conversion of `v` adds to the count of hot and of cool ones (R407): 125 and 115 degrees in sixteenths. -/
def Sensor.converted (x : Sensor) (v : Int) : Sensor :=
  { x with seen := true, hot := runOf' (decide (2000 ≤ v)) x.hot, cool := runOf' (decide (v < 1840)) x.cool }

/-- A conversion: of an enabled sensor a sample (R406); for the thermal shutdown it counts whatever the sensor's settings
(R407). -/
def sensorSampleEff (k : Nat) (raw : Nat) (s : State) : State :=
  let v := signedOf 16 raw
  if !s.bit (Reg.TSN_CTL k) 31 then releaseHolds (thermalCheck k (s.setSensor k ((s.sensor k).converted v)))
  else
    let x := (s.sensor k).converted v
    let f := max 1 (s.fld (Reg.TSN_CTL k) 7 0)
    let inW := insideWindow (s.reg (Reg.TSN_WARN k)) v
    let inA := insideWindow (s.reg (Reg.TSN_ALARM k)) v
    let x1 : Sensor :=
      { x with
        warnOut := runOf' (!inW) x.warnOut, warnIn := runOf' inW x.warnIn
        alarmOut := runOf' (!inA) x.alarmOut, alarmIn := runOf' inA x.alarmIn }
    let x2 : Sensor :=
      { x1 with
        warn := latchStep x.warn f x1.warnOut x1.warnIn, alarm := latchStep x.alarm f x1.alarmOut x1.alarmIn
        holds := x.holds && latchStep x.alarm f x1.alarmOut x1.alarmIn }
    let s1 := showSensor k ((s.setReg (Reg.TSN_VALUE k) (toWord (2 ^ 31 + raw % 65536))).setSensor k x2)
    let s2 := latchEvents k 2 x.alarm x2.alarm (latchEvents k 1 x.warn x2.warn s1)
    let s3 := if !x.alarm && x2.alarm then alarmAction k s2 else s2
    releaseHolds (thermalCheck k s3)

def execSensorSample (k : Fin 56) (value : BitVec 16) (s : State) : Out :=
  .next (if s.sys.powerGood then sensorSampleEff k value.toNat s else s)

/-- A sensor without a conversion for 5 ms is invalid (R407). -/
def sensorInvalidEff (k : Nat) (s : State) : State :=
  let s1 := showSensor k ((s.setBit (Reg.TSN_VALUE k) 31 false).setSensor k { warn := (s.sensor k).warn })
  releaseHolds (logOpen 2 1 evSensor [] s1)

def execSensorInvalid (k : Fin 56) (s : State) : Out :=
  .next (if s.sys.powerGood && (s.sensor k).seen then sensorInvalidEff k s else s)

/-! ### Tamper and the random source (R424, R425) -/

/-- A tamper event of this cause: keys zeroised, the device reset, TS_TAMPER_CAUSE kept. -/
def tamperEff (cause : Nat) (s : State) : State :=
  let w := s.reg Reg.TS_TAMPER_CAUSE ||| oneBit cause
  let s1 := deviceReset s
  let s2 := { s1 with sec := { s1.sec with tampers := (s.now :: s.sec.tampers).take 8, keys := false, unlock := 0 } }
  raiseTs 17 ((s2.setReg Reg.TS_TAMPER_CAUSE w).setBit Reg.GCTL_RESET_CAUSE 2 true)

def execTamper (cause : TamperCause) (s : State) : Out :=
  .next (if s.sys.powerGood then
      tamperEff (match cause with
        | .mesh => 0
        | .supply => 1
        | .clock => 2
        | .otpParity => 3) s
    else s)

/-- The shield mesh is checked with a fresh pattern, or a fixed one while the TRNG fails (R424, R425). -/
def execMeshCheck (intact : Bool) (s : State) : Out :=
  .next (if s.sys.powerGood then (if intact then s else tamperEff 0 s) else s)

def execTrngHealthFail (s : State) : Out :=
  .next (if s.sys.powerGood then
      logOpen 2 0 evTrng [] { s with sec := { s.sec with trngBad := true } } else s)

def execTrngRecover (s : State) : Out :=
  .next (if s.sys.powerGood then { s with sec := { s.sec with trngBad := false } } else s)

/-- `n` bytes of the random source. -/
def trngBytes (n : Nat) (s : State) : List Byte × State :=
  ((leBytes n (takeFree (8 * n) s).1.toNat), (takeFree (8 * n) s).2)

/-- A debug challenge expires (R423). -/
def execChallengeExpiry (s : State) : Out :=
  .next (if s.sys.powerGood then { s with sec := { s.sec with challenge := none } } else s)

/-! ### Telemetry (R426) -/

/-- Mailbox bytes of bank 31. -/
def bank31 : Nat := 0x40F80000

/-- The objects take the sensors' present values; the page in bank 31 takes the counter and the readings between, whose
layout is open. -/
def telemetryEff (s : State) : State :=
  let n := s.sec.telemetry + 1
  let s1 := forEach (List.range 56) (fun k s =>
    { s with sec := { s.sec with values := tabSet 0 k (s.reg (Reg.TSN_VALUE k)) s.sec.values } }) s
  let s2 := { s1 with sec := { s1.sec with telemetry := n } }
  let f := takeFree (8 * 0x3F8) s2
  memWrite none (bank31 + 0xE000) (leBytes 4 n.toNat ++ leBytes 0x3F8 f.1.toNat ++ leBytes 4 n.toNat) f.2

def execTelemetryRefresh (s : State) : Out := .next (if s.firmwareOn then telemetryEff s else s)

end Sys2Proof.Machine
end

