-- ==== Sys2Proof/Machine/Bus.lean ====
section
/-! DEFINITION. Reading and writing any register of the device region by its offset from 0x00_8000_0000 (R10, R22 to
R24, R29 to R34): which block answers, who may use the register, the generic access kinds, and for every register that
acts beside storing, the operation its chapter gives. -/

namespace Sys2Proof.Machine

/-! ### Which block answers (R2, R3, R19, R23, R24) -/

/-- The offset behind the host block's window at 0x2000, which shows a port its own window (R397). -/
def busAlias (q : Option Requester) (off : Nat) : Option Nat :=
  if 0xD02000 ≤ off ∧ off < 0xD03000 then
    match q with
    | some .portA => some (off - 0x2000)
    | some .portB => some (off - 0x1000)
    | _ => none
  else some off

/-- Does the block of this offset answer: powered, clocked, and its unit part of the device? Blocks 0 (global
control), 13 (host ports), 18 (tailstock mailbox) and CAN controller 0 do not need FCLK (R27, R31). -/
def State.blockOn (s : State) (a : Nat) : Bool :=
  let r := a % 0x100000
  match a / 0x100000 with
  | 0 => s.sys.powerGood && !(decide (0x40 + 4 * coreCount s.sys.variant ≤ r) && decide (r < 0x80))
  | 13 => s.sys.powerGood && s.sys.vddCore
  | 1 => s.fclkOn && s.spnPresent (r / 0x100)
  | 3 => s.sectorOn (r / 0x10000)
  | 4 => if r < 0xC0000 then s.sectorOn (r / 0x800 / 64) else s.sectorOn ((r - 0xC0000) / 0x100 / 8)
  | 5 =>
    if r < 0x18000 then s.sectorOn (r / 0x1000 / 4)
    else if r < 0x1C000 then s.sectorOn ((r - 0x18000) / 0x20 / 8)
    else s.fclkOn
  | 7 => s.fclkOn && !(decide (0x8000 + coreCount s.sys.variant * 0x200 ≤ r) && decide (r < 0xA000))
  | 9 | 11 | 12 => s.mediaOn
  | 10 => s.composerOn
  | 14 => s.fclkOn && !(decide (0x8000 + coreCount s.sys.variant * 0x10 ≤ r) && decide (r < 0x9000))
  | 18 => s.sys.powerGood && !(decide (coreCount s.sys.variant * 0x40 ≤ r) && decide (r < 0x8000))
  | 19 => if r < 0x1000 then s.sys.powerGood && s.sys.vddCore else s.fclkOn
  | _ => s.fclkOn

/-- May requester `q` use the register (R23, R38, R178, R397, R427, R444)? `none` is the index plate. -/
def mayUse (row : RegRow) (q : Option Requester) (a : Nat) (write : Bool) : Bool :=
  match row.users with
  | .any => true
  | .tailstockWrites => !write || decide (q = some .tailstock)
  | .tailstockOnly => decide (q = some .tailstock)
  | .ownCore =>
    match q with
    | some .tailstock => true
    | some (.core n) =>
      if 0x1200000 ≤ a ∧ a < 0x1208000 then decide (n.val = (a - 0x1200000) / 0x40) else decide (n.val = (a - 0xE08000) / 0x10)
    | _ => false

/-- The key of the register's copy that `q` uses; the plate holds no copy of its own. -/
def regKey (row : RegRow) (q : Option Requester) (a : Nat) : Option Nat :=
  if row.perRequester then q.map fun x => ownKey x a else some a

/-! ### Reads -/

/-- What is line and dot of a raster spindle, held where the raster stopped, and its totals (R57, R63). -/
def State.rasterWord (s : State) (n r : Nat) : Word :=
  let x := s.spn n
  if r = 0x84 then toWord (x.rasterLines * 2 ^ 16 + x.rasterDots)
  else
    let i := ((if x.rasterRuns then s.now else x.rasterEnd) - x.rasterStart) * x.rasterDen % max 1 x.rasterFrame * (x.rasterDots * x.rasterLines) / max 1 x.rasterFrame
    toWord (i / max 1 x.rasterDots * 2 ^ 16 + i % max 1 x.rasterDots)

/-- Registers that show what stands elsewhere in the state. -/
def State.liveRead (s : State) (a : Nat) : Option Word :=
  let r := a % 0x100000
  match a / 0x100000 with
  | 0 => if r = 0x208 then some s.sclkStatus else none
  | 1 => if isRaster (r / 0x100) ∧ (r % 0x100 = 0x80 ∨ r % 0x100 = 0x84) then some (s.rasterWord (r / 0x100) (r % 0x100)) else none
  | 3 =>
    if r % 0x10000 < 0x1000 ∧ r % 0x400 = 4 then
      some (s.adcStatus (4 * (r / 0x10000) + r % 0x10000 / 0x400)) else none
  | 4 => if 0xC0000 ≤ r ∧ r % 0x100 = 0 then some (s.leStatus ((r - 0xC0000) / 0x100)) else none
  | 7 =>
    if r < 0x4000 then some (s.srcWord 0 0 (r / 4))
    else if 0x8000 ≤ r ∧ r < 0xA000 then
      if 0x100 ≤ r % 0x200 then some (s.srcWord ((r - 0x8000) / 0x200) 1 ((r % 0x200 - 0x100) / 4))
      else if r % 0x200 = 0xC then some (s.aicActive ((r - 0x8000) / 0x200)) else none
    else none
  | 10 =>
    if r < 0x2000 ∧ r % 0x1000 = 0x38 then some (s.hdPos (r / 0x1000))
    else if r < 0x2000 ∧ r % 0x1000 = 0x3C then some (toWord (s.headTol (r / 0x1000))) else none
  | 12 =>
    if 0x200 ≤ r ∧ r < 0x400 then some (s.rtStatus ((r - 0x200) / 4))
    else if 0x1000 ≤ r ∧ r < 0x1400 ∧ r % 0x20 = 0x14 then some (s.vcStatus ((r - 0x1000) / 0x20)) else none
  | 13 =>
    if r < 0x2000 then
      match r % 0x1000 with
      | 0x8 => some (toWord (r / 0x1000))
      | 0x20 => some (toWord (s.silence (r / 0x1000)))
      | _ => none
    else none
  | 15 => if r = 0x600 then some s.pinBank else none
  | 16 => if r = 0x18 then some (toWord s.latTol) else none
  | 18 => if r = 0xA008 then some (s.otpRead (s.fld Reg.OTP_ADDR 7 0)) else none
  | _ => none

/-- Both words of the read-latched pair whose low word is at `a`, from one cycle (R34). -/
def State.pairRead (s : State) (a : Nat) : Word × Word :=
  let r := a % 0x100000
  let wide (n : Nat) : Word × Word := (toWord n, toWord (n / 2 ^ 32))
  if a = Reg.DEVTIMER_LO then (lowWord s.devTimer, highWord s.devTimer)
  else match a / 0x100000 with
    | 1 => if r % 0x100 = 0 then (lowWord (s.spn (r / 0x100)).pos, highWord (s.spn (r / 0x100)).pos) else (s.reg a, s.reg (a + 4))
    | 14 => if r % 0x100 = 0x28 then wide (s.cvResult (r / 0x100)) else wide (s.cvValue (r / 0x100))
    | 19 => if 0x8000 ≤ r then wide (s.ptpNs ((r - 0x8000) / 0x1000)) else (s.reg a, s.reg (a + 4))
    | _ => (s.reg a, s.reg (a + 4))

/-- Requester `q`'s read-latch shadow of a block (R34). -/
def shadowKey (q : Requester) (a : Nat) : Nat := reqIdx q * 64 + a / 0x100000

/-- A read of CAN_RX_FIFO: the next word of the oldest frame (R398); an empty FIFO reads zero. -/
def canPop (c : Nat) (s : State) : Word × State :=
  let x : CanCtl := tabGet {} c s.cans
  match x.fifo with
  | (w :: ws) :: r =>
    (w, { s with cans := tabSet {} c { x with fifo := if ws = [] then r else ws :: r } s.cans })
  | [] :: r => (0, { s with cans := tabSet {} c { x with fifo := r } s.cans })
  | [] => (0, s)

/-- A read that performs the acquisition of its register (R10). -/
def acquireRead (q : Requester) (a : Nat) (s : State) : Word × State :=
  let r := a % 0x100000
  match a / 0x100000 with
  | 2 =>
    match r with
    | 0x120 => plateOp (insertStaged q) s
    | 0x124 => plateOp (plateRemoveOp (s.stagedHandle q)) s
    | 0x128 => plateOp plateAllocOp s
    | 0x12C => plateOp (writeStaged q) s
    | 0x130 => plateOp (plateReleaseOp (s.stagedHandle q)) s
    | 0x134 => plateOp (plateFetchOp q (s.stagedHandle q)) s
    | _ => plateOp (plateProbeRead (s.stagedHole q)) s
  | 3 => afePop (r / 0x10000) s
  | 6 =>
    match r with
    | 0x140 => plSubmitStaged q s
    | 0x144 => plCommitOp (reqIdx q) s
    | 0x14C => plHandleOp (reqIdx q) 2 s
    | 0x150 => plHandleOp (reqIdx q) 3 s
    | _ => plQueryOp (reqIdx q) (s.reg (ownKey q Reg.PL_HANDLE)) s
  | 7 => claimOp q ((r - 0x8000) / 0x200) s
  | 9 => streamPop ((r - 0x30100) / 0x10) s
  | 11 => mvSubmit (s.stagedMove q) s
  | 12 => if r = 0x108 then routeApply (s.reg (ownKey q Reg.AUD_RT_STG0)) (s.reg (ownKey q Reg.AUD_RT_STG1)) s else capturePop ((r - 0x80) / 4) s
  | 13 => chkAcquireOp q ((r - 0x4000) / 4) s
  | 18 => tsClaimOp s
  | _ => canPop (r / 0x1000) s

/-- A read that returns the value and clears it (R10, R33); a peak meter restarts (R370). -/
def clearRead (a : Nat) (s : State) : Word × State :=
  let r := a % 0x100000
  if a / 0x100000 = 12 ∧ 0x4000 ≤ r ∧ r < 0x5000 then peakRead false ((r - 0x4000) / 0x10) s
  else if a / 0x100000 = 12 ∧ 0x5000 ≤ r ∧ r < 0x6000 then peakRead true ((r - 0x5000) / 0x20) s
  else rcRead a s

/-- A read of a check-value unit's value, result or count waits for its queue (R438). -/
def readDrain (a : Nat) (s : State) : State :=
  if 0xE00000 ≤ a ∧ a < 0xE00800 ∧ 0x20 ≤ a % 0x100 ∧ a % 0x100 ≤ 0x30 then cvDrain ((a - 0xE00000) / 0x100) s else s

/-- A read that answers and has no other effect, but for the load of the rendering pipes, which is left open, and the
deferred count of a group, which the read clears (R274, R324). -/
def plainRead (a key : Nat) (s : State) : Word × State :=
  if a = Reg.CON_PIPE_LOAD then (toWord ((takeFree 8 s).1.toNat % 101), (takeFree 8 s).2)
  else if Reg.AIC_GRP_STAT 0 ≤ a ∧ a < Reg.AIC_GRP_STAT 128 then (s.reg a, s.setFld a 7 0 0)
  else match s.liveRead a with
    | some w => (w, s)
    | none => (s.reg key, s)

/-- Which half of a cascaded timer pair's read-latched pair the register at `a` is: low (false) or high (true) (R70). -/
def State.gtPairHalf (s : State) (a : Nat) : Option Bool :=
  let r := a % 0x100000
  if a / 0x100000 = 17 ∧ r < 0x800 ∧ r % 0x20 = 0 ∧ s.gtCascaded (r / 0x40 * 2 + 1) then some (decide (r % 0x40 = 0x20)) else none

/-- Requester `q` reads the register at offset `off` (R10, R24, R34): a register that is absent, off, or not the
requester's reads zero. -/
def busRead (q : Requester) (off : Nat) (s : State) : Word × State :=
  match busAlias (some q) off with
  | none => (0, s)
  | some a =>
    match regRow? a with
    | none => (0, s)
    | some row =>
      if !s.blockOn a || !mayUse row (some q) a false then (0, s)
      else
        let s0 := readDrain a s
        match row.read with
        | .plain | .byKind =>
          match s0.gtPairHalf a with
          | some false => (s0.reg a, { s0 with shadow := tabSet 0 (shadowKey q a) (s0.reg (a + 0x20)) s0.shadow })
          | some true => (tabGet 0 (shadowKey q a) s.shadow, s)
          | none => plainRead a ((regKey row (some q) a).getD a) s0
        | .writeOnly => (0, s)
        | .readClear => clearRead a s0
        | .acquire => acquireRead q a s0
        | .masked => (s0.reg (a - 4), s0)
        | .latchLow =>
          let p := s0.pairRead a
          (p.1, { s0 with shadow := tabSet 0 (shadowKey q a) p.2 s0.shadow })
        | .latchHigh => (tabGet 0 (shadowKey q a) s.shadow, s)

/-! ### Writes -/

/-- The value a register holds after a write of `v`: stored bits, bits cleared by 1 but for those that hardware has set in
this cycle, bits set by 1 (R10, R33). -/
def rowWrite (row : RegRow) (setNow old v : Word) : Word :=
  ((old &&& ~~~row.rw) ||| (v &&& row.rw)) &&& ~~~(v &&& row.w1c &&& ~~~setNow) ||| (v &&& row.w1s)

/-- The registers of the loop context that takes over in a re-placement, which holds the same banks (R200): a write to
the old context's banks reaches both. -/
def moveTwin (k : Nat) (s : State) : Option Nat :=
  match s.place.move with
  | some m => if m.old = k then some m.new else none
  | none => none

/-- Writes to spindle registers that act (R55, R58, R60, R62 to R68). -/
def spnWrite (n r : Nat) (v : Word) (s : State) : Option State :=
  match r with
  | 0x10 => some (spnCtrlWrite n v s)
  | 0x14 => some (sourceWrite n false v s)
  | 0x18 => some (sourceWrite n true v s)
  | 0x1C => some (offsetWrite n v s)
  | 0x38 => some (setPhaseWrite n v s)
  | 0x3C => some (if s.spnState n = spnParted then s else s.setReg (Reg.SPN_SET_TURNS n) v)
  | 0x44 => some (cmpCtlWriteSpn n 0 v s)
  | 0x4C => some (cmpCtlWriteSpn n 1 v s)
  | 0x54 => some (cmpCtlWriteSpn n 2 v s)
  | 0x5C => some (cmpCtlWriteSpn n 3 v s)
  | 0x70 => some (capCtlWrite n v s)
  | 0x80 => some (if isFree n then periodWrite n v s else s)
  | 0x84 => some (if isFree n then epochWrite n v s else s)
  | 0x88 =>
    some (if isFree n then s.setSpn n { s.spn n with epochHi := v }
      else if isMains n then s.setReg (Reg.SPN_K88 n) v else s)
  | _ => none

/-- Writes to the index plate's registers that act (R93, R99 to R101). -/
def plateWrite (r : Nat) (v : Word) (s : State) : Option State :=
  if r = 0 then some (plateCtrlWrite v s)
  else if r = 8 ∨ r = 0xC then if s.bit Reg.PLATE_CTRL 30 then some s else none
  else if 0x1000 ≤ r ∧ r % 0x20 = 0x10 then some (partCtlWrite ((r - 0x1000) / 0x20) v s)
  else none

/-- Writes to the front end of sector `k` that act (R110 to R120). -/
def afeWrite (k r : Nat) (mask v : Word) (s : State) : Option State :=
  if r < 0x1000 then
    let n := 4 * k + r / 0x400
    let x := r % 0x400
    if x = 0 then some (routeWrite n .control v s)
    else if x = 8 then some (adcTrigger n (fieldOf v 7 0) s)
    else if 0x100 ≤ x ∧ x < 0x200 then some (routeWrite n (.seq (Fin.ofNat 64 ((x - 0x100) / 4))) v s)
    else none
  else if r < 0x2000 then if r % 0x10 = 0xC then some (chCtlWrite k ((r - 0x1000) / 0x10) (v &&& mask) s) else none
  else if r < 0x3000 then
    if r % 0x20 = 0 then some (cmpCtlWrite (12 * k + (r - 0x2000) / 0x20) (v &&& mask) s)
    else if r % 0x20 = 8 then some (cmpRampWrite (12 * k + (r - 0x2000) / 0x20) (v &&& mask) s)
    else none
  else if r < 0x4000 then
    let j := 8 * k + (r - 0x3000) / 0x20
    if r % 0x20 = 0 then some (sdCtlWrite j (v &&& mask) s)
    else if r % 0x20 = 8 then
      some (if bitAt v 0 then s.setDemod j { s.demod j with counterFrom := s.now } else s)
    else none
  else if r = 0x4020 then some (calCtlWrite k v s)
  else none

/-- Writes to loop context `k` that act (R131, R139, R140, R166). -/
def loopWrite (k r : Nat) (mask v : Word) (s : State) : Option State :=
  let a := Reg.LOOP_CTL k + r
  if r = 0 then some (loopCtlWrite k v s)
  else if r = 8 then some (loopConfigWrite k a (v &&& mask) s)
  else if r = 0xC then some (bankRequest k (fieldOf v 1 0) s)
  else if 0x10 ≤ r ∧ r < 0x20 then some (loopConfigWrite k a (v &&& mask) s)
  else if 0x20 ≤ r ∧ r < 0x30 then
    let s1 := outMapWrite k ((r - 0x20) / 4) (v &&& mask) s
    some (if s.loopEnabled k then s1.setCtx k { s1.ctx k with spoiled := true } else s1)
  else if r = 0x90 then some (obsCtlWrite k (v &&& mask) s)
  else if r = 0x30 ∨ r = 0x38 ∨ r = 0x3C then some (loopConfigWrite k a (v &&& mask) s)
  else if 0x100 ≤ r ∧ r < 0x200 then some (loopStateWrite k a v s)
  else if 0x200 ≤ r then
    let b : Bool := decide (0x500 ≤ r)
    let s1 := loopBankWordWrite k b a v s
    some (match moveTwin k s with
      | some n => loopBankWordWrite n b (Reg.LOOP_CTL n + r) v s1
      | none => s1)
  else none

/-- Writes to PWM group `g` that act (R162, R166, R175 to R183). -/
def groupWrite (g r : Nat) (v : Word) (s : State) : Option State :=
  if r = 0 then some (grpCtlWrite g v s)
  else if r = 0x14 then
    let s1 := s.setReg (Reg.PWM_TZ_MASK g) (v &&& 0xFF)
    some (if s1.groupHeld g then tripGroup g s1 else s1)
  else if r = 0x20 ∨ r = 0x24 then if (s.group g).safeLock then some s else none
  else if r = 0x28 then
    let s1 := if bitAt v 31 then
        (if s.sensorAlarm then s.setGroup g { s.group g with armRequest := false } else armEff g s) else s
    some (if bitAt v 30 then s1.setGroup g { s1.group g with safeLock := true } else s1)
  else if r = 0x2C then some (if bitAt v 0 then armRequest g s else s)
  else if 0x100 ≤ r ∧ r < 0x300 then
    let k := 4 * g + (r - 0x100) / 0x80
    match (r - 0x100) % 0x80 with
    | 0x04 => some (cmpWrite k .a v s)
    | 0x08 => some (cmpWrite k .b v s)
    | 0x14 => some (shiftWrite k v s)
    | _ => none
  else none

/-- Writes to a trip zone or to PWM_GTRIP (R169, R171, R172, R178). -/
def tripWrite (r : Nat) (v : Word) (s : State) : Option State :=
  if r = 0x1C000 then
    let s1 := if bitAt v 30 then gtripClearEff s else s
    some (if bitAt v 31 then gtripAssertEff s1 else s1)
  else
    let z := (r - 0x18000) / 0x20
    match (r - 0x18000) % 0x20 with
    | 0 => some (zoneRefresh false z (s.setReg (Reg.TZ_CTL z) (v &&& 0xFFC00000)))
    | 4 => some (tzStatusWrite z v s)
    | _ => some (if bitAt v 0 then zoneForce z s else s)

/-- Writes to the interrupt controller that act (R264, R268, R275). -/
def aicWrite (q : Option Requester) (r : Nat) (v : Word) (s : State) : Option State :=
  if r < 0x4000 then some (srcWrite (0x700000 + r) v s)
  else if 0x8000 ≤ r ∧ r < 0xA000 then
    let c := (r - 0x8000) / 0x200
    if 0x100 ≤ r % 0x200 then some (srcWrite (0x700000 + r) v s)
    else if r % 0x200 = 8 then
      some (match q with
        | some x => if servesCore x c then eoiEff c v s else s
        | none => s)
    else none
  else if r = 0xF000 then some (doorbellEff (fieldOf v 11 0) s)
  else if r = 0xF004 then some (ringPrivate (fieldOf v 19 16) (fieldOf v 5 0) s)
  else none

/-- Writes to the DMA and the IOMMU that act (R288 to R298). -/
def dmaWrite (r : Nat) (v : Word) (s : State) : Option State :=
  if r < 0x1000 then
    let c := r / 0x40
    match r % 0x40 with
    | 0x00 => some (dmaCtlWrite c v s)
    | 0x0C => some (if bitAt v 0 then dmaKick c s else s)
    | 0x10 | 0x14 => if s.dmaState c = dmaRunning then some s else none
    | _ => none
  else if r = 0x2000 then some (dmaEngWrite v s)
  else if r = 0x11000 then some (iommuInvWrite v s)
  else none

/-- Writes to the console engine that act (R303, R308, R320). -/
def consoleWrite (r : Nat) (mask v : Word) (s : State) : Option State :=
  if r < 0x20000 then
    let k := r / 0x100
    match r % 0x100 with
    | 0x00 => some (conCtlWrite k v s)
    | 0x08 | 0x0C => some (conTimingWrite k (0x900000 + r) (v &&& mask) s)
    | 0x24 => some (if bitAt v 0 then renderRequest k s else s)
    | 0x04 | 0x10 | 0x14 | 0x18 | 0x1C | 0x20 => some (conPlainWrite k (0x900000 + r) (v &&& mask) s)
    | j => if 0x40 ≤ j ∧ j < 0x80 then some (conPlainWrite k (0x900000 + r) (v &&& mask) s) else none
  else if 0x30100 ≤ r ∧ r < 0x30200 ∧ r % 0x10 = 0 then some (streamCtlWrite ((r - 0x30100) / 0x10) v s)
  else none

/-- Writes to the composer that act (R330, R346). -/
def composerWrite (r : Nat) (v : Word) (s : State) : Option State :=
  if r < 0x2000 then
    let h := r / 0x1000
    match r % 0x1000 with
    | 0x00 => some (hdCtlWrite h v s)
    | 0x0C => some (commitWrite h v s)
    | 0x800 => some (dpCtlWrite h v s)
    | 0x810 => some (auxStart h v s)
    | _ => none
  else none

/-- Writes to the audio block that act (R363, R372). -/
def audioWrite (r : Nat) (v : Word) (s : State) : Option State :=
  if 0x1000 ≤ r ∧ r < 0x1400 ∧ r % 0x20 = 0 then some (vcCtlWrite ((r - 0x1000) / 0x20) v s)
  else if 0x5000 ≤ r ∧ r < 0x5200 ∧ r % 0x20 = 0 then some (outCtlWrite ((r - 0x5000) / 0x20) v s)
  else none

/-- Writes to the host-port block that act (R381 to R405). -/
def hostWrite (q : Option Requester) (r : Nat) (v : Word) (s : State) : Option State :=
  if r < 0x2000 then
    let p := r / 0x1000
    match r % 0x1000 with
    | 0x14 => some (alertEnWrite p v s)
    | 0x18 => some (hostDoorbell p v s)
    | 0x30 => some (abortWord p v s)
    | 0x34 => some (abortStatusWrite p v s)
    | 0x40 => some (hpDictCmd p v s)
    | 0x60 => some (hpTsMsg p v s)
    | 0x64 => some (tsReply p v s)
    | _ => none
  else if 0x4000 ≤ r ∧ r < 0x4400 then
    some (match q with
      | some x => chkReleaseOp x ((r - 0x4000) / 4) v s
      | none => s)
  else none

/-- Writes to the check units that act (R438 to R442, R444). -/
def checkWrite (r : Nat) (mask v : Word) (s : State) : Option State :=
  if r < 0x800 then
    let u := r / 0x100
    match r % 0x100 with
    | 0x00 | 0x10 | 0x14 | 0x18 | 0x1C => some (cvConfigWrite u (0xE00000 + r) mask v s)
    | 0x20 => some (cvStateLo u v s)
    | 0x24 => some (s.setCv u { s.cv u with stateHi := some v })
    | 0x34 => some (cvQueueWrite u 3 v s)
    | 0x40 => some (cvQueueWrite u 0 v s)
    | 0x44 => some (cvQueueWrite u 1 v s)
    | 0x48 => some (cvQueueWrite u 2 v s)
    | 0x4C => some (cvQueueWrite u 4 v s)
    | 0x50 => some (cvQueueWrite u 5 v s)
    | 0x54 => some (s.setCv u { s.cv u with checkHi := v })
    | _ => none
  else if 0x8000 ≤ r ∧ r < 0x9000 then if r % 0x10 = 0 then some (mcrInfoWrite ((r - 0x8000) / 0x10) v s) else none
  else none

/-- Writes to the pin block that act (R32, R450, R454); a pin's level at the write's edge is left open. -/
def pinWrite (r : Nat) (v : Word) (s : State) : Option State :=
  if r < 0x280 then some (pinCfgWrite (r / 4) v ((takeFree 1 s).1.getLsbD 0) (takeFree 1 s).2)
  else if 0x400 ≤ r ∧ r < 0x540 then
    let a := 0xF00000 + r
    match r % 0x20 with
    | 0x04 | 0x0C => some (s.setReg (a - 4) ((s.reg (a - 4) &&& ~~~(v >>> 16)) ||| (v &&& (v >>> 16) &&& 0xFFFF)))
    | 0x14 => some (gpioStatWrite ((r - 0x400) / 0x20) v s)
    | _ => none
  else none

/-- Writes to the tailstock mailbox block that act (R272, R393, R405, R428). -/
def tailstockWrite (q : Option Requester) (r : Nat) (v : Word) (s : State) : Option State :=
  if r < 0x400 then
    let c := r / 0x40
    match r % 0x40 with
    | 0x00 => some (tsmDictCmd c v s)
    | 0x20 => some (tsmMsg c v s)
    | 0x24 => some (if q = some .tailstock then tsmReply c v s else s)
    | _ => none
  else match r with
    | 0x8014 => some (tsEoiEff v s)
    | 0x8018 => some (if 32 ≤ fieldOf v 5 0 then raiseTs (fieldOf v 5 0) s else s)
    | 0xA00C => some (otpProg v s)
    | _ => none

/-- Writes to the field-network block that act: controller 0 takes the tailstock's only (R59, R396, R398). A MAC
disabled is a clock disabled. -/
def fieldWrite (q : Option Requester) (r : Nat) (v : Word) (s : State) : Option State :=
  if r < 0x1000 then if q = some .tailstock then none else some s
  else if 0x8000 ≤ r then
    let m := (r - 0x8000) / 0x1000
    match r % 0x1000 with
    | 0x00 =>
      let s1 := s.setReg (Reg.ETH_CTL m) (v &&& 0xE0000000)
      some (if s.bit (Reg.ETH_CTL m) 31 && !bitAt v 31 then macDisabledEff m s1 else s1)
    | 0x4C => some (s.setReg (Reg.ETH_PTP_STEP_LO m) v)
    | 0x50 => some (ptpStepEff m v s)
    | _ => none
  else none

/-- The operation that a write of the register at `a` performs, where it does more than store (R10). -/
def actWrite (q : Option Requester) (a : Nat) (mask v : Word) (s : State) : Option State :=
  let r := a % 0x100000
  match a / 0x100000 with
  | 0 =>
    if r = 0x24 then some (coreRelWrite v s)
    else if r = 0x100 then some (snapWrite v s)
    else if 0x210 ≤ r ∧ r < 0x220 then some (keepWrite ((r - 0x210) / 4) v s)
    else none
  | 1 => spnWrite (r / 0x100) (r % 0x100) v s
  | 2 => plateWrite r v s
  | 3 => afeWrite (r / 0x10000) (r % 0x10000) mask v s
  | 4 => if r < 0xC0000 then loopWrite (r / 0x800) (r % 0x800) mask v s else none
  | 5 => if r < 0x18000 then groupWrite (r / 0x1000) (r % 0x1000) v s else tripWrite r v s
  | 6 =>
    if r = 0x148 then
      some (match q with
        | some x => if bitAt v 0 then plDiscard (reqIdx x) s else s
        | none => s)
    else none
  | 7 => aicWrite q r v s
  | 8 => dmaWrite r v s
  | 9 => consoleWrite r mask v s
  | 10 => composerWrite r v s
  | 11 => if r = 0 then some (mvCtlWrite v s) else none
  | 12 => audioWrite r v s
  | 13 => hostWrite q r v s
  | 14 => checkWrite r mask v s
  | 15 => pinWrite r v s
  | 16 =>
    if r = 8 ∧ s.bit Reg.MC_STATUS 31 = true then some s
    else if 0x1000 ≤ r ∧ r < 0x1080 then
      some (match q with
        | some x => sbCtlWrite x ((r - 0x1000) / 4) v s
        | none => s)
    else none
  | 17 =>
    if r < 0x800 then
      match r % 0x20 with
      | 0x00 => some (gtCountWrite (r / 0x20) v s)
      | 0x0C => some (gtCtlWrite (r / 0x20) v s)
      | _ => none
    else none
  | 18 => tailstockWrite q r v s
  | 19 => fieldWrite q r v s
  | _ => none

/-- The shared source whose line the enable register at `a` gates (R262, R263). -/
def lineOfEnable (a : Nat) : Option Nat :=
  let r := a % 0x100000
  match a / 0x100000 with
  | 1 => if r % 0x100 = 0x74 then some (256 + r / 0x100) else none
  | 2 => if r = 0x38 then some 800 else if 0x1000 ≤ r ∧ r % 0x20 = 0x1C then some (640 + (r - 0x1000) / 0x20) else none
  | 3 => if r % 0x10000 = 0x4004 then some (832 + r / 0x10000) else none
  | 4 => if r < 0xC0000 ∧ r % 0x800 = 8 then some (896 + r / 0x800) else none
  | 5 => if r < 0x18000 ∧ r % 0x1000 = 0x18 then some (1280 + r / 0x1000) else none
  | 8 => if r < 0x1000 ∧ r % 0x40 = 8 then some (1408 + r / 0x40) else if r = 0x11008 then some 1473 else none
  | 9 => if r < 0x20000 ∧ r % 0x100 = 0x2C then some (1536 + r / 0x100) else if r = 0x30008 then some 2048 else none
  | 10 => if r < 0x2000 ∧ r % 0x1000 = 8 then some (2056 + r / 0x1000) else if r < 0x2000 ∧ r % 0x1000 = 0x808 then some 2058 else none
  | 11 => if r = 8 then some 2064 else none
  | 12 => if r = 8 then some 2080 else none
  | 13 => if r < 0x2000 ∧ r % 0x1000 = 0x14 then some (2112 + r / 0x1000) else none
  | 14 => if r < 0x800 ∧ r % 0x100 = 8 then some (2128 + r / 0x100) else none
  | 16 => if r = 0x1C then some 2304 else none
  | 17 => if r < 0x800 ∧ r % 0x20 = 0x14 then some (512 + r / 0x20) else none
  | 19 => if r < 0x4000 ∧ r % 0x1000 = 0x10 then some (2320 + r / 0x1000) else none
  | _ => none

/-- An enable that raises a line makes its source pending (R263, R271). -/
def noteEnable (a : Nat) (old : State) (s : State) : State :=
  match lineOfEnable a with
  | some n => if !old.sharedLine n && s.sharedLine n then noteDeferred n s else s
  | none => s

/-- Requester `q`, or the index plate (`none`), writes the register at offset `off` (R10, R24, R30 to R33): a register
that is absent, off, or not the requester's ignores the write. -/
def busWrite (q : Option Requester) (off : Nat) (v : Word) (s : State) : State :=
  match busAlias q off with
  | none => s
  | some a =>
    match regRow? a with
    | none => s
    | some row =>
      if !s.blockOn a || !mayUse row q a true then s
      else
        match actWrite q a row.rw v s with
        | some t => noteEnable a s t
        | none =>
          match regKey row q a with
          | some k => noteEnable a s (s.setReg k (rowWrite row (s.setNow k) (s.reg k) v))
          | none => s

/-- The register at `a` takes the value `f` where the state holds it elsewhere than in the register table. -/
def homeSet (a : Nat) (f : Word) (s : State) : State :=
  let r := a % 0x100000
  if a = Reg.DEVTIMER_LO then { s with devTimer := pairOf (highWord s.devTimer) f }
  else if a = Reg.DEVTIMER_HI then { s with devTimer := pairOf f (lowWord s.devTimer) }
  else match a / 0x100000 with
    | 0 => if 0x210 ≤ r ∧ r < 0x220 then { s with sys := { s.sys with keep := tabSet 0 ((r - 0x210) / 4) f s.sys.keep } } else s
    | 1 =>
      let x := s.spn (r / 0x100)
      match r % 0x100 with
      | 0x00 => s.setSpn (r / 0x100) { x with pos := pairOf (highWord x.pos) f }
      | 0x04 => s.setSpn (r / 0x100) { x with pos := pairOf f (lowWord x.pos) }
      | 0x88 => s.setSpn (r / 0x100) { x with epochHi := f }
      | _ => s
    | 14 =>
      let x := s.cv (r / 0x100)
      if r < 0x800 ∧ r % 0x100 = 0x24 then s.setCv (r / 0x100) { x with stateHi := some f }
      else if r < 0x800 ∧ r % 0x100 = 0x54 then s.setCv (r / 0x100) { x with checkHi := f }
      else s
    | 15 => if 0x400 ≤ r ∧ r < 0x540 ∧ (r % 0x20 = 4 ∨ r % 0x20 = 0xC) then s.setReg (a - 4) (f &&& 0xFFFF) else s
    | 19 =>
      let m := (r - 0x8000) / 0x1000
      if 0x8000 ≤ r ∧ 0x40 ≤ r % 0x1000 ∧ r % 0x1000 < 0x48 then { s with ptp := tabSet 0 m (3 * f.toNat * 2 ^ 32) s.ptp } else s
    | _ => s

/-- An access of 8 or 16 bits leaves the register at a value that is open (R29). -/
def busNarrow (q : Option Requester) (off0 : Nat) (s : State) : State :=
  let off := off0 / 4 * 4
  match busAlias q off with
  | none => s
  | some a =>
    match regRow? a with
    | none => s
    | some row =>
      if !s.blockOn a || !mayUse row q a true then s
      else match regKey row q a with
        | some k => homeSet a (takeFree 32 (freeReg k s)).1 (takeFree 32 (freeReg k s)).2
        | none => s

/-! ### Register commands (R29 to R34) -/

/-- While the device is locked, the debug port offers IDCODE and BYPASS only (R423). -/
def State.mayAccess (s : State) (q : Requester) : Bool := decide (q ≠ .debug ∨ s.sec.unlock ≠ 0)

/-- REGISTER_WRITE: requester `q` writes a register (R29 to R33). -/
def execRegisterWrite (q : Requester) (off : BitVec 28) (size : AccessSize) (data : Word) (s : State) : Out :=
  .next (if !s.mayAccess q then s
    else match size with
      | .word => busWrite (some q) off.toNat data s
      | _ => busNarrow (some q) off.toNat s)

/-- LOW_WORD_READ: requester `q` reads a register; the low word of a pair latches the high one (R34). -/
def execLowWordRead (q : Requester) (off : BitVec 28) (s : State) : Out :=
  .next (if s.mayAccess q then answerWith q (busRead q off.toNat s) else s)

/-! ### The plate's register actions (R79, R80) -/

/-- The byte offset that a target names (R79). -/
def targetOff (target : Word) : Nat := (target &&& 0x0FFFFFFC).toNat

/-- Blocks whose registers FCLK does not clock: composer, audio, pins (R31, R330, R456). -/
def slowBlock (off : Nat) : Bool := decide (off / 0x100000 = 10 ∨ off / 0x100000 = 12 ∨ off / 0x100000 = 15)

/-- Does a plate write to this offset do nothing: the global control block, CAN controller 0, and what is unmapped? -/
def plateIgnored (off : Nat) : Bool :=
  decide (off < 0x100000 ∨ 0x1400000 ≤ off ∨ (0x1300000 ≤ off ∧ off < 0x1301000))

/-- Is it the index plate or the tailstock mailbox, which leaves the partition's results open? -/
def plateForbidden (off : Nat) : Bool := decide (off / 0x100000 = 2 ∨ off / 0x100000 = 18)

/-- MWRITE of partition `part`. -/
def mwriteEff (part : Nat) (target data : Word) (s : State) : State :=
  let off := targetOff target
  if plateForbidden off then partUndefined part s
  else if plateIgnored off then s
  else busWrite none off data s

def execMwrite (part : Fin 154) (target data : Word) (s : State) : Out :=
  .next (if s.dramOn then mwriteEff part target data s else s)

/-- May RADD act on the register: is its access RW? The registers at 0x80 to 0x88 of a spindle follow its kind. -/
def raddActs (off : Nat) : Bool :=
  match regRow? off with
  | some row =>
    row.rwAccess || (decide (row.read = .byKind) && (isFree ((off - 0x100000) / 0x100) ||
      (isMains ((off - 0x100000) / 0x100) && decide (off % 0x100 = 0x88))))
  | none => false

/-- RADD of partition `part`: read, add and write in one block cycle. -/
def raddEff (part : Nat) (target data : Word) (s : State) : State :=
  let off := targetOff target
  if plateForbidden off || slowBlock off then partUndefined part s
  else if plateIgnored off || !raddActs off then s
  else busWrite none off (s.reg off + data) s

def execRadd (part : Fin 154) (target data : Word) (s : State) : Out :=
  .next (if s.dramOn then raddEff part target data s else s)

/-- DOORBELL (R79, R264). -/
def execDoorbell (target : Word) (s : State) : Out :=
  .next (if s.dramOn then doorbellEff (fieldOf target 11 0) s else s)

end Sys2Proof.Machine
end

