-- ==== Sys2Proof/Machine/DmaMove.lean ====
section
/-! DEFINITION. The DMA's moves: arbitration, bursts between the four spaces, completion of a descriptor, and the
completions of outbound reads (R278, R290 to R297, R381). -/

namespace Sys2Proof.Machine

/-! ### Arbitration (R291) -/

/-- Has the channel something to move: running with a descriptor whose bytes are not all moved, and no outbound read
that it waits for? -/
def State.dmaReady (s : State) (c : Nat) : Bool :=
  let x := s.dmaCh c
  s.dmaEnabled c && decide (s.dmaState c = dmaRunning) && !x.fetching && !x.desc.isEmpty && decide (x.moved < x.length) &&
    x.awaits.isNone

/-- A channel's rank: higher priority first, then round-robin after the channel served last. -/
def State.dmaRank (s : State) (c : Nat) : List Nat := [3 - s.fld (Reg.DMA_CH_CTL c) 29 28, (c + 63 - s.dmaLast) % 64]

/-- The channel that wins. -/
def State.dmaWinner (s : State) : Option Nat := leastBy s.dmaRank ((List.range 64).filter s.dmaReady)

/-! ### The length of a burst (R291, R292, R294) -/

/-- How far a side lets a burst run from its byte `k`: to the next 256-byte boundary, and to a circular wrap. -/
def sideRoom (space : Nat) (circ : Bool) (wrap a : Nat) : Nat :=
  if space = 3 then 2 ^ 24
  else min (256 - a % 256) (if circ then 2 ^ wrap - a % 2 ^ wrap else 256)

/-- Bytes of the next burst: the beats of the descriptor, 16 bytes each up to a 16-byte boundary of the memory side,
or the paced elements of 4 bytes. -/
def DmaCh.burstBytes (x : DmaCh) (paceBurst : Nat) : Nat :=
  let lead := if x.srcSpace ≠ 3 then x.srcAt x.moved % 16 else if x.dstSpace ≠ 3 then x.dstAt x.moved % 16 else 0
  let want := if x.paced then 4 * paceBurst else x.burst * 16 - lead
  min (x.length - x.moved) (min want
    (min (sideRoom x.srcSpace x.srcCirc x.wrap (x.srcAt x.moved)) (sideRoom x.dstSpace x.dstCirc x.wrap (x.dstAt x.moved))))

/-! ### Sides -/

/-- What an access of the engine meets: a fault as R296 and R297 sort them, or a host port that refuses (R381). -/
inductive DmaStop where
  | fault (f : MasterFault × Nat)
  | host (addr : Nat)
  deriving DecidableEq, Repr

/-- Read pieces element by element through the channel's stream: what was read, and the fault that ended it. -/
def dmaReadLocal (c : Nat) : List (Nat × Nat) → State → (List Byte × Option DmaStop) × State
  | [], s => (([], none), s)
  | (a, n) :: r, s =>
    match masterRead c 2 c a n s with
    | (.error f, s1) => (([], some (.fault f)), s1)
    | (.ok bs, s1) =>
      let t := dmaReadLocal c r s1
      ((bs ++ t.1.1, t.1.2), t.2)

/-- Write pieces element by element: how many bytes are written, and the fault that ended it. -/
def dmaWriteLocal (c : Nat) : List (Nat × Nat) → List Byte → State → (Nat × Option DmaStop) × State
  | [], _, s => ((0, none), s)
  | (a, n) :: r, bs, s =>
    match masterWrite c 2 c a (bs.take n) s with
    | (some f, s1) => ((0, some (.fault f)), s1)
    | (none, s1) =>
      let t := dmaWriteLocal c r (bs.drop n) s1
      ((n + t.1.1, t.1.2), t.2)

/-- Is the address a register that a peripheral side may name (R290)? -/
def peripheralOk (a : Nat) : Bool := decide (0x80000000 ≤ a ∧ a < 0x81400000)

/-- Read `n` elements from a peripheral register (R290, R295). -/
def dmaReadReg (a : Nat) : Nat → State → List Byte × State
  | 0, s => ([], s)
  | n + 1, s =>
    let r := busRead .dma (a - 0x80000000) s
    let t := dmaReadReg a n r.2
    (leBytes 4 r.1.toNat ++ t.1, t.2)

/-- Write words to a peripheral register. -/
def dmaWriteReg (a : Nat) (bs : List Byte) (s : State) : State :=
  (wordsOf bs).foldl (fun s w => busWrite (some .dma) (a - 0x80000000) w s) s

/-- The host port of a space. -/
def spacePort (space : Nat) : Nat := space - 1

/-- A tag that port `p` has free, of its 64 (R376, R381). -/
def State.freeTag (s : State) (p : Nat) : Option Nat :=
  (List.range 64).find? fun t => !(s.outbound.any fun o => decide (o.port = p ∧ o.tag = t))

/-- Read up to `n` bytes of the source into the channel's buffer. A host port takes a read request, whose data arrives
later; without a free tag the channel waits. -/
def dmaReadSide (c n : Nat) (s : State) : Option DmaStop × State :=
  let x := s.dmaCh c
  let a := x.srcAt (x.moved + x.buf.length)
  match x.srcSpace with
  | 0 =>
    let r := dmaReadLocal c (beatsOf a (n + 1) n) s
    (r.1.2, r.2.setDmaCh c { x with buf := x.buf ++ r.1.1 })
  | 3 =>
    if peripheralOk a then
      let r := dmaReadReg a (n / 4) s
      (none, r.2.setDmaCh c { r.2.dmaCh c with buf := x.buf ++ r.1 })
    else (some (.fault (.refused, a)), s)
  | sp =>
    let p := spacePort sp
    if !s.busMaster p then (some (.host a), s)
    else match s.freeTag p with
      | some t =>
        (none, { s.setDmaCh c { x with awaits := some (p, t) } with
          outbound := s.outbound ++ [{ port := p, tag := t, chan := some c, len := n }] })
      | none => (none, s)

/-- Write the first `n` buffered bytes to the destination: how many are written, and what stopped it. -/
def dmaWriteSide (c n : Nat) (s : State) : (Nat × Option DmaStop) × State :=
  let x := s.dmaCh c
  let a := x.dstAt x.moved
  let bs := x.buf.take n
  match x.dstSpace with
  | 0 => dmaWriteLocal c (beatsOf a (bs.length + 1) bs.length) bs s
  | 3 => if peripheralOk a then ((bs.length, none), dmaWriteReg a bs s) else ((0, some (.fault (.refused, a))), s)
  | sp =>
    let p := spacePort sp
    if s.busMaster p then ((bs.length, none), { s with posted := tabSet (0, []) p (a, bs) s.posted })
    else ((0, some (.host a)), s)

/-- The stop reaches the channel, or the engine (R296, R297, R381). -/
def dmaStopped' (c : Nat) (x : Option DmaStop) (s : State) : State :=
  match x with
  | none => s
  | some (.fault f) => dmaFailed c f false s
  | some (.host a) => dmaSuspend c 3 a s

/-! ### DMA_BURST -/

/-- The bytes written leave the buffer and count as moved; the progress registers follow. -/
def dmaMoved (c n : Nat) (s : State) : State :=
  let x := s.dmaCh c
  dmaProgress c (s.setDmaCh c { x with moved := x.moved + n, buf := x.buf.drop n })

/-- Must the element sides be aligned, and pace_burst listed (R290, R294, R39)? -/
def State.burstUndefined (s : State) (c : Nat) : Bool :=
  let x := s.dmaCh c
  (decide (x.srcSpace = 3) && decide (x.src % 4 ≠ 0)) || (decide (x.dstSpace = 3) && decide (x.dst % 4 ≠ 0)) ||
    (x.paced && !(decide (1 ≤ s.fld (Reg.DMA_CH_PACE c) 22 16) && decide (s.fld (Reg.DMA_CH_PACE c) 22 16 ≤ 64)))

/-- One burst of channel `c`: fill the buffer, write it out, then judge the pace request again (R291, R295). -/
def burstEff (c : Nat) (s : State) : State :=
  let n := (s.dmaCh c).burstBytes (s.fld (Reg.DMA_CH_PACE c) 22 16)
  let r := if (s.dmaCh c).buf.length < n then dmaReadSide c (n - (s.dmaCh c).buf.length) s else (none, s)
  let w := dmaWriteSide c n r.2
  let s1 := dmaMoved c w.1.1 w.2
  let s2 := dmaStopped' c (w.1.2.orElse fun _ => r.1) s1
  if (s2.dmaCh c).moved < (s2.dmaCh c).length then paceEff c s2 else s2

def dmaBurstEff (s : State) : State :=
  match s.dmaWinner with
  | some c =>
    let s1 := { s with dmaLast := c }
    if s.burstUndefined c then dmaUndefined c s1 else burstEff c s1
  | none => s

def execDmaBurst (s : State) : Out := .next (if s.dmaOn && s.dmaEngineOn then dmaBurstEff s else s)

/-! ### DESCRIPTOR_COMPLETE (R278, R290, R293) -/

/-- The chain goes on to the next descriptor, or ends. -/
def descriptorEnd (c : Nat) (x : DmaCh) (s : State) : State :=
  let s1 := (s.setReg (Reg.DMA_CH_DESC_LO c) (x.word 6 &&& 0xFFFFFFE0)).setReg (Reg.DMA_CH_DESC_HI c) (x.word 7 &&& 0xFF)
  let s2 := if bitAt (x.word 0) 30 then dmaEvent c (oneBit 3) s1 else s1
  if bitAt (x.word 0) 29 then
    dmaEvent c (oneBit 2) (setDmaState c dmaIdle (s2.setDmaCh c { request := x.request }))
  else setDmaState c dmaRunning (s2.setDmaCh c { request := x.request, fetching := true })

/-- Every byte has been moved: own is written back as 0 unless keep stands. -/
def descriptorCompleteEff (c : Nat) (s : State) : State :=
  let x := s.dmaCh c
  let st := s.dmaState c
  if s.dmaEnabled c && decide (st = dmaRunning ∨ st = dmaPaced) && !x.fetching && !x.desc.isEmpty && decide (x.moved = x.length) then
    if bitAt (x.word 0) 27 then descriptorEnd c x s
    else
      match masterWriteRun c 2 c (s.descAddr c) (leBytes 4 (withBit (x.word 0) 31 false).toNat) s with
      | (some f, s1) => dmaFailed c f false s1
      | (none, s1) => descriptorEnd c x s1
  else s

def execDescriptorComplete (c : Fin 64) (s : State) : Out :=
  .next (if s.dmaOn && s.dmaEngineOn then descriptorCompleteEff c s else s)

/-! ### Outbound reads (R381) -/

/-- The completion of port `p`'s request `tag`: its data joins the channel's buffer, an error suspends the channel, and
one whose channel was aborted is discarded. -/
def outboundDoneEff (p tag : Nat) (r : CplResult) (s : State) : State :=
  match s.outbound.find? fun o => decide (o.port = p ∧ o.tag = tag) with
  | none => s
  | some o =>
    let s1 := { s with outbound := s.outbound.filter fun x => !decide (x.port = p ∧ x.tag = tag) }
    match o.chan, r with
    | none, _ => s1
    | some c, .data bs =>
      if bs.length = o.len then s1.setDmaCh c { s1.dmaCh c with awaits := none, buf := (s1.dmaCh c).buf ++ bs }
      else outboundFail o (outboundError p s1)
    | some _, .error => outboundFail o (outboundError p s1)

def execOutboundCompletion (port : Port) (tag : Fin 64) (result : CplResult) (s : State) : Out :=
  .next (if s.sys.powerGood then outboundDoneEff (portIdx port) tag result s else s)

/-- The port's completion timeout expires for an outbound request. -/
def execCompletionTimeout (port : Port) (tag : Fin 64) (s : State) : Out :=
  .next (if s.sys.powerGood then outboundDoneEff (portIdx port) tag .error s else s)

end Sys2Proof.Machine
end

