-- ==== Sys2Proof/Machine/HostBus.lean ====
section
/-! DEFINITION. Inbound requests of the host ports: BAR0 to the device region, BAR2 to the mailbox, doorbells, chucks and
MSI-X (R283, R379, R380, R399). -/

namespace Sys2Proof.Machine

/-- A request has arrived through port `p`: its silence starts again, and its completion is what follows (R385). -/
def inbound (p : Nat) (s : State) : State := s.setHost p { s.host p with lastAt := s.now, reply := none }

/-- The completion that port `p` sends. -/
def complete (p status : Nat) (ws : List Word) (s : State) : State := s.setHost p { s.host p with reply := some (status, ws) }

/-! ### BAR0 (R379) -/

/-- The offset from which BAR0 is unmapped (R23). -/
def bar0End : Nat := 0x1400000

/-- Read `n` registers in ascending order. -/
def busReadRun (q : Requester) (off : Nat) : Nat → State → List Word × State
  | 0, s => ([], s)
  | n + 1, s =>
    let r := busRead q off s
    let t := busReadRun q (off + 4) n r.2
    (r.1 :: t.1, t.2)

/-- Write registers in ascending order. -/
def busWriteRun (q : Requester) (off : Nat) : List Word → State → State
  | [], s => s
  | w :: ws, s => busWriteRun q (off + 4) ws (busWrite (some q) off w s)

/-- A BAR0 request: an unmapped read completes as an Unsupported Request, an unmapped write is dropped and counted
(R24). -/
def bar0Eff (p off : Nat) (r : HostReq) (s : State) : State :=
  let q := portRequester p
  match r with
  | .read n =>
    if bar0End < off + 4 * n.val then complete p 1 [] s
    else
      let t := busReadRun q off n s
      complete p 0 t.1 t.2
  | .write ws => if bar0End < off + 4 * ws.length then inboundError p s else busWriteRun q off ws s
  | .partialRead =>
    if bar0End ≤ off then complete p 1 [] s
    else
      let s1 := busNarrow (some q) off s
      complete p 0 [(takeFree 32 s1).1] (takeFree 32 s1).2
  | .partialWrite _ => if bar0End ≤ off then inboundError p s else busNarrow (some q) off s

def execBar0Request (port : Port) (off : BitVec 28) (req : HostReq) (s : State) : Out :=
  .next (if s.sys.powerGood && s.linkUp (portIdx port) then
      bar0Eff (portIdx port) (off.toNat / 4 * 4) req (inbound (portIdx port) s)
    else s)

/-- REGISTER_TIMEOUT: a register has not answered within 8 us (R379). -/
def execRegisterTimeout (port : Port) (s : State) : Out :=
  .next (if s.sys.powerGood && s.linkUp (portIdx port) then
      complete (portIdx port) 4 [] (inboundError (portIdx port) (inbound (portIdx port) s))
    else s)

/-! ### BAR2 (R283, R380) -/

/-- The bytes that enables select take the new word's. -/
def mergeBytes (old v : Word) (en : BitVec 4) : Word :=
  let m (i : Nat) : Word := if en.getLsbD i then BitVec.ofNat 32 (0xFF <<< (8 * i)) else 0
  let mask := m 0 ||| m 1 ||| m 2 ||| m 3
  (old &&& ~~~mask) ||| (v &&& mask)

/-- The bytes of a masked write, each at its address. -/
def maskedStore (a : Nat) (v : Word) (en : BitVec 4) (s : State) : State :=
  if en = 15 then memWrite none a (leBytes 4 v.toNat) s
  else forEach [0, 1, 2, 3] (fun i s =>
    if en.getLsbD i then memWrite none (a + i) (leBytes 1 (v.toNat / 2 ^ (8 * i))) s else s) s

/-- Does bank 31 accept accesses (R280, R281)? -/
def State.mailboxOn (s : State) : Bool := s.bankAwake 31

/-- An access that the bank refuses: a read completes with an error whose kind is open. -/
def mailRefused (p : Nat) (acc : MailAccess) (s : State) : State :=
  match acc with
  | .read => complete p (if (takeFree 1 s).1 = 1 then 4 else 1) [] (takeFree 1 s).2
  | .write _ _ => s

/-- One port's access to a word of the mailbox. A unit that fails detection reads an open value, and its machine check
goes to the bank's owner (R432, R433). -/
def mailAccess (p off : Nat) (acc : MailAccess) (s : State) : State :=
  if !s.mailboxOn then mailRefused p acc s
  else match acc with
    | .read =>
      if s.readsPoison (bank31 + off) 4 then
        let s1 := detectCheck (bank31 + off) s
        complete p 0 [(takeFree 32 s1).1] (takeFree 32 s1).2
      else complete p 0 [s.word (bank31 + off)] s
    | .write en v => maskedStore (bank31 + off) v en s

/-- A read that meets a write of the other port in one window returns an open value (R283). -/
def mailSpoiled (p : Nat) (s : State) : State := complete p 0 [(takeFree 32 s).1] (takeFree 32 s).2

/-- The collision shows at the later port: its bit, the word, its busy pin, its alert (R283, R299, R400). -/
def mailCollision (p off : Nat) (s : State) : State :=
  let s1 := (setEvent Reg.SB_MBX_STATUS p s).setFld Reg.SB_MBX_STATUS 29 16 (off / 4)
  let s2 := if s.fclkOn then (if !s.mcLine && s1.mcLine then noteDeferred 2304 s1 else s1) else s
  alertSet p (oneBit 2) { s2 with busyPins := s2.busyPins ||| BitVec.ofNat 2 (1 <<< p) }

/-- Does the access read? -/
def accReads : MailAccess → Bool
  | .read => true
  | .write _ _ => false

/-- Two accesses in one window on the same word: `p` is the earlier port (R283). -/
def mailPair (p off : Nat) (a b : MailAccess) (s : State) : State :=
  let q := 1 - p
  if !s.mailboxOn then mailRefused q b (mailRefused p a s)
  else if accReads a = accReads b then
    if accReads a || decide (p = 0) then mailAccess q off b (mailAccess p off a s) else mailAccess p off a (mailAccess q off b s)
  else if accReads a then mailCollision q off (mailSpoiled p (mailAccess q off b s))
  else mailCollision q off (mailSpoiled q (mailAccess p off a s))

/-- A doorbell's word where byte enables leave part of it out is open (R29). -/
def enabledWord (en : BitVec 4) (v : Word) (s : State) : Word × State := if en = 15 then (v, s) else takeFree 32 s

/-- An access above the mailbox: doorbells, the port's alert causes, chucks, MSI-X. -/
def bar2High (p off : Nat) (acc : MailAccess) (s : State) : State :=
  let q := portRequester p
  match acc with
  | .read =>
    if off = 0xF010 then complete p 0 [s.reg (Reg.HP_ALERT_CAUSE p)] s
    else if 0xF400 ≤ off ∧ off < 0xF800 then
      let r := chkAcquireOp q ((off - 0xF400) / 4) s
      complete p 0 [r.1] r.2
    else if 0xF800 ≤ off ∧ off < 0xFA00 then complete p 0 [s.msixWord p ((off - 0xF800) / 4)] s
    else if off = 0xFA00 then complete p 0 [(s.host p).pba] s
    else complete p 0 [0] s
  | .write en v0 =>
    let e := enabledWord en v0 s
    if off = 0xF000 then busWrite (some q) 0x70F000 e.1 e.2
    else if off = 0xF004 then busWrite (some q) 0x70F004 e.1 e.2
    else if off = 0xF008 then busWrite (some q) 0x1208018 e.1 e.2
    else if off = 0xF010 then busWrite (some q) (Reg.HP_ALERT_CAUSE p) e.1 e.2
    else if 0xF400 ≤ off ∧ off < 0xF800 then chkReleaseOp q ((off - 0xF400) / 4) e.1 e.2
    else if 0xF800 ≤ off ∧ off < 0xFA00 then
      let i := (off - 0xF800) / 4
      let old := s.msixWord p i
      flushVectors p (s.setHost p { s.host p with
        table := tabSet (if i % 4 = 3 then 1 else 0) i (mergeBytes old v0 en) (s.host p).table })
    else s

/-- An inbound BAR2 access, and the other port's to the same word in the same window, if there is one. -/
def bar2Eff (p off : Nat) (acc : MailAccess) (other : Option MailOther) (s : State) : State :=
  let one (p : Nat) (acc : MailAccess) (s : State) : State :=
    if off < 0xF000 then mailAccess p off acc s else bar2High p off acc s
  match other with
  | some o =>
    if portIdx o.port = p ∨ s.linkUp (portIdx o.port) = false then one p acc s
    else
      let s1 := inbound (portIdx o.port) s
      if off < 0xF000 then mailPair p off acc o.acc s1
      else if p = 0 then one 1 o.acc (one 0 acc s1) else one 1 acc (one 0 o.acc s1)
  | none => one p acc s

def execBar2Access (port : Port) (off : BitVec 16) (acc : MailAccess) (other : Option MailOther) (s : State) : Out :=
  .next (if s.sys.powerGood && s.linkUp (portIdx port) then
      bar2Eff (portIdx port) (off.toNat / 4 * 4) acc other (inbound (portIdx port) s)
    else s)

end Sys2Proof.Machine
end

