-- ==== Sys2Proof/Machine/Dict.lean ====
section
/-! DEFINITION. The Horano dictionary: objects, rights, transfers and results (R25, R388 to R393), and the objects of
update, attestation, debug and reset (R418 to R423, R462). -/

namespace Sys2Proof.Machine

/-! ### Requesters (R389, R391) -/

/-- The class of a requester: 0 port A, 1 port B, 2 CAN, 3 Ethernet, 4 cores. -/
def dictClass (who : Nat) : Nat := if who < 3 then who else if who < 5 then 3 else 4

/-- The requester as device registers know it; the tailstock acts for the field network. -/
def dictRequester (who : Nat) : Requester :=
  if who = 0 then .portA else if who = 1 then .portB
  else if who < 5 then .tailstock else .core (Fin.ofNat 16 (who - 5))

/-- The requester as placement numbers it: 21 is the field network (R199). -/
def dictPlacer (who : Nat) : Nat := if who < 2 then who + 1 else if who < 5 then 21 else who - 2

/-- Does the tailstock serve requests of this requester (R26, R28, R417)? -/
def State.dictServes (s : State) (who : Nat) : Bool :=
  (s.firmwareOn && (decide (who < 3) || (if who < 5 then s.fclkOn else s.coreOn (who - 5)))) ||
    (s.sys.powerGood && decide (s.sys.phase = .recovery) && decide (who < 3))

/-! ### The objects (R25, R388) -/

/-- An object: type code, rights (two bits a class), maximum length, whether it is stored, its default (R388 to R390). -/
structure Obj where
  type : Nat
  rights : Nat
  max : Nat
  stored : Bool := false
  dflt : List Byte := []
  deriving DecidableEq, Repr

/-- Read for every class. -/
def rAll : Nat := 0x155
/-- Read-write for ports A and B and CAN, read for the others. -/
def rSet : Nat := 0x17F
/-- Write for ports A and B and CAN. -/
def rCmd : Nat := 0x2A
/-- Write for ports A and B and CAN, read for the others (R418). -/
def rUpd : Nat := 0x16A
/-- Write for every class; read-write for every class. -/
def rPut : Nat := 0x2AA
def rFree : Nat := 0x3FF
/-- Read-write for ports A and B and the cores, read for the others (spec/20). -/
def rPin : Nat := 0x35F

def objU8 (r : Nat) : Obj := { type := 5, rights := r, max := 1 }
def objU16 (r : Nat) : Obj := { type := 6, rights := r, max := 2 }
def objU32 (r : Nat) : Obj := { type := 7, rights := r, max := 4 }
def objI16 (r : Nat) : Obj := { type := 3, rights := r, max := 2 }
def objDomain (r n : Nat) : Obj := { type := 0xF, rights := r, max := n }

/-- A stored setting with its default (R390, log entry 60). -/
def Obj.kept (o : Obj) (v : Nat) : Obj := { o with stored := true, dflt := leBytes o.max v }

def pick (b : Bool) (o : Obj) : Option Obj := if b then some o else none

/-- Identity and communication (R4, R387, R390, R394, R395, R462). -/
def objLow (index sub : Nat) : Option Obj :=
  match index with
  | 0x1010 | 0x1011 | 0x1F01 => pick (decide (sub = 1)) (objU32 rCmd)
  | 0x1017 => pick (decide (sub = 0)) ((objU16 rSet).kept 1000)
  | 0x1018 => pick (decide (sub = 2 ∨ sub = 3)) (objU32 rAll)
  | 0x1800 | 0x1801 | 0x1802 | 0x1803 => pick (decide (sub = 3)) ((objU16 rSet).kept 0)
  | 0x1F00 => if sub = 2 then some (objU32 rAll) else pick (decide (sub = 1)) (objU32 rCmd)
  | 0x1FE0 => if sub = 2 then some (objDomain rAll 16) else pick (decide (sub = 1)) (objU32 rPut)
  | 0x1FF0 =>
    match sub with
    | 1 => some ((objU8 rSet).kept 32)
    | 2 => some ((objU32 rSet).kept 500000)
    | 3 => some ((objU32 rSet).kept 2000000)
    | _ => none
  | 0x1FF1 => pick (decide (1 ≤ sub ∧ sub < 3)) ((objU32 rSet).kept 0)
  | 0x1FF2 => pick (decide (1 ≤ sub ∧ sub < 9)) ((objU32 rSet).kept 0)
  | _ => none

/-- PWM, placement, log and telemetry, pins (R176, R186, R201, R411, R426, spec/20). -/
def State.objMid (s : State) (index sub : Nat) : Option Obj :=
  let groups := 4 * sectorCount s.sys.variant
  match index with
  | 0x4010 => if sub = 0 then some (objU8 rAll) else pick (decide (sub ≤ groups)) (objU8 rSet)
  | 0x4011 => pick (decide (sub ≤ groups)) (objU8 rAll)
  | 0x7000 =>
    match sub with
    | 1 => some (objDomain rPut 64)
    | 2 => some (objU8 rPut)
    | 3 => some (objU32 rAll)
    | _ => none
  | 0x7001 => if sub = 1 then some (objU32 rFree) else pick (decide (2 ≤ sub ∧ sub < 10)) (objU32 rAll)
  | 0x8000 => if sub = 5 then some (objU16 rAll) else pick (decide (1 ≤ sub ∧ sub < 5)) (objU32 rAll)
  | 0x8001 => pick (decide (sub = 1)) (objDomain rAll (2 ^ 26))
  | 0x8100 => pick (decide (1 ≤ sub ∧ sub < 33)) (objI16 rAll)
  | 0x8200 => pick (decide (1 ≤ sub ∧ sub < 25)) (objU16 rAll)
  | 0xA000 => pick (decide (1 ≤ sub ∧ sub < 161)) (objU32 rPin)
  | 0xA001 => pick (decide (1 ≤ sub ∧ sub < 11)) (objU16 rAll)
  | _ => none

/-- Update, attestation, debug (R418, R422, R423). -/
def objHigh (index sub : Nat) : Option Obj :=
  match index with
  | 0x9000 => pick (decide (1 ≤ sub ∧ sub < 8)) (objU8 rAll)
  | 0x9010 => if sub = 1 then some (objDomain rUpd 459264) else pick (decide (sub = 2)) (objDomain rUpd 16777216)
  | 0x9011 => if sub = 2 then some (objU32 rAll) else pick (decide (sub = 1)) (objU8 rUpd)
  | 0x9012 | 0x9013 => pick (decide (sub = 1)) (objU8 rUpd)
  | 0x9020 =>
    match sub with
    | 1 => some (objDomain rPut 64)
    | 2 => some (objDomain rAll 388)
    | 3 => some (objDomain rAll 132)
    | _ => none
  | 0x9030 =>
    match sub with
    | 1 => some (objDomain rAll 64)
    | 2 => some (objDomain rSet 132)
    | 3 | 4 => some (objU8 rSet)
    | _ => none
  | _ => none

/-- Does the ROM serve this index in recovery (R417)? -/
def servedInRecovery (index : Nat) : Bool :=
  [0x1018, 0x1F01, 0x8000, 0x8001, 0x9000, 0x9010, 0x9011, 0x9012, 0x9013].contains index

/-- The object of an index and subindex, in the present phase. -/
def State.obj? (s : State) (index sub : Nat) : Option Obj :=
  if decide (s.sys.phase = .recovery) && !servedInRecovery index then none
  else match objLow index sub with
    | some o => some o
    | none => match s.objMid index sub with
      | some o => some o
      | none => objHigh index sub

/-- Does the index hold any object (R25)? -/
def State.indexHolds (s : State) (index : Nat) : Bool := (List.range 161).any fun sub => (s.obj? index sub).isSome

/-- The right of a class: bit 0 read, bit 1 write. -/
def Obj.may (o : Obj) (cls : Nat) (write : Bool) : Bool := (o.rights >>> (2 * cls + boolNat write)) % 2 = 1

/-- Does any class have the right? -/
def Obj.some_ (o : Obj) (write : Bool) : Bool := (List.range 5).any fun c => o.may c write

/-! ### Results (R391, R392) -/

def eAbandon : Nat := 0x05040000
def eRight : Nat := 0x06010000
def eWriteOnly : Nat := 0x06010001
def eReadOnly : Nat := 0x06010002
def eIndex : Nat := 0x06020000
def eSub : Nat := 0x06090011
def eLength : Nat := 0x06070010
def eBeyond : Nat := 0x06070012
def eRange : Nat := 0x06090030
def eStore : Nat := 0x08000020
def eLocked : Nat := 0x08000022

/-- The object that a request reaches, or why it does not: it exists, and its class has the right (R389, R392). -/
def State.dictReach (s : State) (who index sub : Nat) (write : Bool) : Except Nat Obj :=
  match s.obj? index sub with
  | none => .error (if s.indexHolds index then eSub else eIndex)
  | some o =>
    if o.may (dictClass who) write then .ok o
    else .error (if o.some_ write then eRight else if write then eReadOnly else eWriteOnly)

def refuseDict (code : Nat) (s : State) : DictReply × State := ({ code := code }, s)

/-- A read of a value: at most `len` bytes from `off` (R392). -/
def sliceReply (bs : List Byte) (off len : Nat) : DictReply :=
  if bs.length < off then { code := eBeyond, total := bs.length }
  else
    let r := (bs.drop off).take len
    { code := 0, bytes := r, moved := r.length, total := bs.length }

/-! ### Values of the objects -/

/-- The numbers that the log's entries carry, newest and oldest still held (R411); without an entry there is none. -/
def State.logNumbers (s : State) : Option (Word × Word) :=
  match (s.log.journal.map (·.2) ++ s.log.ring).head? with
  | some e => some (s.log.nextSeq - 1, e.seq)
  | none => none

/-- Bytes of object 0x8001 (R411). -/
def State.logBytes (s : State) (off : Nat) : Nat → List Byte
  | 0 => []
  | n + 1 =>
    (match s.logAt (off / 64 % 2 ^ 20) with
     | some e => e.encode.getD (off % 64) 0
     | none => 0) :: s.logBytes (off + 1) n

/-- The device serial: OTP words 2 to 5 (R412). -/
def State.serial (s : State) : List Byte := (List.range 4).flatMap fun i => leBytes 4 (s.otpWord (2 + i)).toNat

/-- The product code (R4). -/
def State.productCode (s : State) : Nat := match s.sys.variant with | .vl8860 => 0x8860 | .vl8830 => 0x8830

/-- The status word of the dictionary's abort engine (R387). -/
def State.abortStatus (s : State) (e : Nat) : Word :=
  let x := s.abortEngine e
  toWord (boolNat x.busy * 2 ^ 31 + boolNat x.done * 2 ^ 30 + boolNat x.refused * 2 ^ 29 + x.kind % 16 * 2 ^ 20 +
    x.number % 65536)

/-- The attestation key: OTP words 80 to 96 (R412). -/
def State.attestKey (s : State) : Nat := ofLeBytes ((List.range 17).flatMap fun i => leBytes 4 (s.otpWord (80 + i)).toNat)

/-- Its public key, X then Y (R422). -/
def State.attestPublic (s : State) : List Byte :=
  match ecMul 521 (s.attestKey % n521) (some g521) with
  | some p => beBytes 66 p.1 ++ beBytes 66 p.2
  | none => List.replicate 132 0

/-- Descriptor of an object (R389): what it differs from its default in is known of objects that hold a value. -/
def Obj.describe (o : Obj) (present : Nat) (differs : Bool) : List Byte :=
  leBytes 2 o.type ++ leBytes 2 o.rights ++ leBytes 4 o.max ++ leBytes 4 present ++
    leBytes 1 (boolNat differs + 2 * boolNat o.stored) ++ [0, 0, 0]

/-- Bytes of an image in the NOR, as its header gives their number; none without a header. -/
def State.imagePresent (s : State) (slot : Nat) : Nat :=
  if s.hdr slot 0 4 = 0x4D494C56 then min (slotMax slot) (512 + s.imgLength slot) else 0

/-- The slot that updates of a kind (1 tailstock, 2 core) write: the inactive one (R418). -/
def State.updateSlot (s : State) (kind : Nat) : Nat := s.bootRec.other kind

/-- The present length of an object (R389). -/
def State.presentLen (s : State) (who index sub : Nat) (o : Obj) : Nat :=
  if o.type ≠ 0xF then o.max
  else match index, sub with
    | 0x9010, k => s.imagePresent (s.updateSlot k)
    | 0x9020, 1 => (tabGet [] (dictClass who) s.sec.nonces).length
    | 0x9020, 2 => (tabGet [] (dictClass who) s.sec.quotes).length
    | 0x9030, 1 => match s.sec.challenge with | some b => b.length | none => 0
    | 0x9030, _ => 0
    | 0x7000, _ => 0
    | _, _ => o.max

/-- The descriptor of an existing object, whatever the rights, or why there is none (R389). -/
def State.describe (s : State) (who index sub : Nat) : Except Nat (List Byte) :=
  match s.obj? index sub with
  | none => .error (if s.indexHolds index then eSub else eIndex)
  | some o =>
    .ok (o.describe (s.presentLen who index sub o) (o.stored && decide (s.objOwn index sub o.dflt ≠ o.dflt)))

/-- A value that the spec gives none for. -/
def freeBytes (n : Nat) (s : State) : List Byte × State := (leBytes n (takeFree (8 * n) s).1.toNat, (takeFree (8 * n) s).2)

/-- The values of 0x9000 (R418). -/
def updateValue (sub : Nat) (s : State) : List Byte × State :=
  match sub with
  | 1 => (leBytes 1 s.lifecycle, s)
  | 2 => (leBytes 1 s.counter, s)
  | 3 => (leBytes 1 s.bootRec.tsSlot, s)
  | 4 => (leBytes 1 s.bootRec.coreSlot, s)
  | 5 => (leBytes 1 s.bootRec.trial, s)
  | 6 => match s.sec.tsImage with | some x => (leBytes 1 x.1, s) | none => freeBytes 1 s
  | _ => match s.sec.coreImage with | some x => (leBytes 1 x.1, s) | none => freeBytes 1 s

/-- The value that a read of an object returns to a requester, for the objects that a list of bytes holds. -/
def objValue (who index sub : Nat) (o : Obj) (s : State) : List Byte × State :=
  let word (w : Word) : List Byte × State := (leBytes o.max w.toNat, s)
  match index with
  | 0x1018 => word (toWord (if sub = 2 then s.productCode else 0xA1))
  | 0x1F00 => word (s.abortStatus 2)
  | 0x1FE0 =>
    let t := ofLeBytes (s.objOwn 0x1FE0 1 [])
    ((s.describe who (t % 65536) (t / 65536 % 256)).toOption.getD [], s)
  | 0x4010 =>
    if sub = 0 then word (toWord (4 * sectorCount s.sys.variant))
    else word (toWord (s.fld (Reg.PWM_GRP_STATUS (sub - 1)) 31 30))
  | 0x4011 =>
    if sub = 0 then word (toWord (4 * sectorCount s.sys.variant))
    else word (toWord (s.fld (Reg.PWM_GRP_STATUS (sub - 1)) 29 27))
  | 0x7000 => word (s.reg (plReg (dictPlacer who) Reg.PL_RESULT))
  | 0x7001 =>
    if sub = 1 then word (s.reg (plReg (dictPlacer who) Reg.PL_HANDLE))
    else
      let s1 := (plQueryOp (dictPlacer who) (s.reg (plReg (dictPlacer who) Reg.PL_HANDLE)) s).2
      (leBytes 4 (s1.reg (plReg (dictPlacer who) (Reg.PL_RES (sub - 2)))).toNat, s1)
  | 0x8000 =>
    match sub, s.logNumbers with
    | 1, some x => word x.1
    | 2, some x => word x.2
    | 3, _ => word s.log.discarded
    | 4, _ => word s.log.bootCount
    | 5, _ => word (toWord s.log.badBlocks.length)
    | _, none => freeBytes 4 s
    | _, _ => word 0
  | 0x8100 => word (tabGet 0 (sub - 1) s.sec.values)
  | 0x8200 => word (tabGet 0 (sub + 31) s.sec.values)
  | 0x9000 => updateValue sub s
  | 0x9011 => if sub = 2 then word (toWord s.sec.lastResult) else freeBytes o.max s
  | 0x9012 | 0x9013 => freeBytes o.max s
  | 0x9020 => (s.attestPublic, s)
  | 0x9030 => if sub = 4 then word (toWord s.sec.wanted) else if sub = 3 then freeBytes 1 s else ([], s)
  | 0xA000 =>
    let r := busRead (dictRequester who) (Reg.PIN_CFG (sub - 1)) s
    (leBytes 4 r.1.toNat, r.2)
  | 0xA001 =>
    let r := busRead (dictRequester who) (Reg.GPIO_IN (sub - 1)) s
    (leBytes 2 r.1.toNat, r.2)
  | _ => (s.objOwn index sub o.dflt, s)

/-! ### Attestation (R421, R422) -/

/-- A digest, or zeros. -/
def digestOf (x : Option (Nat × List Byte)) : List Byte :=
  match x with
  | some y => y.2
  | none => List.replicate 64 0

/-- The security version of an image, zero without one. -/
def versionOf (x : Option (Nat × List Byte)) : Nat := match x with | some y => y.1 | none => 0

/-- The 256 bytes of a quote over a nonce, with the number of the newest log entry (R421). -/
def State.quoteBody (s : State) (nonce : List Byte) (newest : Word) : List Byte :=
  let r := s.bootRec
  leBytes 4 0x51414C56 ++ leBytes 4 1 ++ leBytes 4 s.productCode ++ leBytes 4 0xA1 ++ s.serial ++
    (nonce ++ List.replicate 64 0).take 64 ++ digestOf s.sec.tsImage ++
    (if s.reg Reg.GCTL_CORE_REL = 0 then List.replicate 64 0 else digestOf s.sec.coreImage) ++
    leBytes 2 (versionOf s.sec.tsImage) ++ leBytes 2 (versionOf s.sec.coreImage) ++ leBytes 2 s.counter ++
    leBytes 2 (r.tsSlot + 2 * r.coreSlot + 4 * r.trial + 16 * s.sec.unlock + 64 * s.lifecycle) ++
    leBytes 4 newest.toNat ++ leBytes 4 (s.reg Reg.GCTL_RESET_CAUSE).toNat ++
    leBytes 8 (if s.fclkOn then s.devTimer.toNat else 0) ++ List.replicate 8 0

/-- A new quote over the class's nonce: body and signature. The nonce of the signature draws on the random source. -/
def buildQuote (cls : Nat) (s : State) : State :=
  let f := takeFree 521 s
  let n := match s.logNumbers with
    | some x => (x.1, f.2)
    | none => ((takeFree 32 f.2).1, (takeFree 32 f.2).2)
  let body := s.quoteBody (tabGet [] cls s.sec.nonces) n.1
  let sig := ecdsaSign (s.attestKey % n521) (f.1.toNat % (n521 - 1) + 1) (ofBeBytes (sha512 body))
  { n.2 with sec := { n.2.sec with
      quotes := tabSet [] cls (body ++ beBytes 66 sig.1 ++ beBytes 66 sig.2) n.2.sec.quotes } }

/-- A read of the quote; at offset 0 it is built anew (R422). -/
def quoteRead (who off len : Nat) (s : State) : DictReply × State :=
  let cls := dictClass who
  if s.lifecycle = 3 ∨ s.sec.trngBad then refuseDict eLocked s
  else
    let s1 := if off = 0 then buildQuote cls s else s
    (sliceReply (tabGet [] cls s1.sec.quotes) off len, s1)

/-! ### Debug (R423) -/

/-- A new challenge, which replaces the one before. -/
def issueChallenge (s : State) : State :=
  let t := trngBytes 32 s
  let n := s.sec.challenges + 1
  let b := s.serial ++ t.1 ++ leBytes 1 s.sec.wanted ++ [0, 0, 0] ++ leBytes 4 s.log.bootCount.toNat ++
    leBytes 4 n.toNat ++ [0, 0, 0, 0]
  { t.2 with sec := { t.2.sec with challenge := some b, challenges := n } }

/-- A read of the challenge; at offset 0 a new one is issued. -/
def challengeRead (off len : Nat) (s : State) : DictReply × State :=
  if s.sec.trngBad then refuseDict eLocked s
  else
    let s1 := if off = 0 then issueChallenge s else s
    (sliceReply (s1.sec.challenge.getD []) off len, s1)

/-- The points whose x is `x`. -/
def pointsAt (x : Nat) : List (Nat × Nat) :=
  let y := powMod p521 521 (x * x * x + x * (p521 - 3) + b521) ((p521 + 1) / 4)
  if onCurve x y then [(x, y), (x, p521 - y)] else []

/-- The public keys under which (r, s) can be a signature of `z`. -/
def signers (r s z : Nat) : List (Nat × Nat) :=
  let ri := invMod n521 r
  ([r, r + n521].flatMap pointsAt).filterMap fun p =>
    ecAdd (ecMul 521 (s * ri % n521) (some p)) (ecMul 521 ((n521 - z * ri % n521) % n521) (some g521))

/-- Is the response the signature of the challenge by key slot 3? -/
def State.responseValid (s : State) (challenge resp : List Byte) : Bool :=
  let r := ofBeBytes (resp.take 66)
  let t := ofBeBytes (resp.drop 66)
  let z := ofBeBytes (sha512 challenge)
  !bitAt (s.otpWord 10) 3 &&
    (signers r t z).any fun q =>
      ecdsaValid q.1 q.2 r t z && decide (sha512 (beBytes 66 q.1 ++ beBytes 66 q.2) = s.keyHash 3)

/-- A response consumes the challenge; a valid one grants the challenge's level. -/
def debugResponse (resp : List Byte) (s : State) : Nat × State :=
  let s1 := { s with sec := { s.sec with challenge := none } }
  match s.sec.challenge with
  | none => (eRange, logSecurity 0 evDebug [] s1)
  | some c =>
    if s.responseValid c resp then
      (0, logSecurity 0 evDebug [] { s1 with sec := { s1.sec with unlock := (c.getD 0x30 0).toNat } })
    else (eRange, logSecurity 0 evDebug [] s1)

/-! ### Update (R418, R419) -/

/-- Does a trial run, unconfirmed? It has been activated and has booted. -/
def State.trialRuns (s : State) : Bool := decide (s.bootRec.trial ≠ 0 ∧ s.bootRec.attempts ≠ 0)

/-- Erase the blocks of a slot that a request is the first to reach. -/
def eraseReached (slot off len : Nat) (s : State) : State :=
  forEach ((List.range (slotMax slot / 65536 + 1)).filter fun b =>
      decide (b * 65536 < off + len ∧ off < (b + 1) * 65536) && !s.sec.erased.contains (slot * 1024 + b))
    (fun b s =>
      let s1 := s.norErase (slotBase slot + b * 65536) 65536
      { s1 with sec := { s1.sec with erased := (slot * 1024 + b) :: s1.sec.erased } }) s

/-- The length of the whole image, once its header has arrived. -/
def State.imageEnds (s : State) (slot off len : Nat) : Bool :=
  decide (512 ≤ off + len) && decide (512 + s.imgLength slot ≤ off + len)

def State.transferOf (s : State) (index sub : Nat) : Option Transfer :=
  s.dict.transfers.find? fun t => decide (t.index = index ∧ t.sub = sub)

def endTransfer (index sub : Nat) (s : State) : State :=
  { s with dict := { s.dict with transfers := s.dict.transfers.filter fun t => !decide (t.index = index ∧ t.sub = sub) } }

def keepTransfer (who index sub : Nat) (data : List Byte) (s : State) : State :=
  let s1 := endTransfer index sub s
  { s1 with dict := { s1.dict with transfers := { who := who, index := index, sub := sub, data := data } :: s1.dict.transfers } }

/-- A write of object 0x9010: erase, program, read back. `fails`: the read-back differs. -/
def imageWrite (who kind off : Nat) (data : List Byte) (last fails : Bool) (s : State) : DictReply × State :=
  let slot := s.updateSlot kind
  if s.trialRuns then refuseDict eLocked s
  else if s.sec.norAbsent then refuseDict eStore s
  else
    let s1 := if (s.transferOf 0x9010 kind).isSome then s
      else { s with sec := { s.sec with erased := s.sec.erased.filter fun b => decide (b / 1024 ≠ slot) } }
    let s2 := { s1 with sec := { s1.sec with verified := tabSet none slot none s1.sec.verified } }
    let s3 := (eraseReached slot off data.length s2).norProgram (slotBase slot + off) data
    if fails || decide (s3.norBytes (slotBase slot + off) data.length ≠ data) then refuseDict eStore (endTransfer 0x9010 kind s3)
    else
      let s4 := if last || s3.imageEnds slot off data.length then endTransfer 0x9010 kind s3 else keepTransfer who 0x9010 kind [] s3
      ({ code := 0, moved := data.length, total := off + data.length }, s4)

/-- Verify the inactive slot of a kind (R415). -/
def imageVerify (kind : Nat) (s : State) : Nat × State :=
  let slot := s.updateSlot kind
  let r := s.imageCheck slot
  (0, { s with sec := { s.sec with verified := tabSet none slot (some r) s.sec.verified, lastResult := r } })

/-- Make the inactive slot of a kind the trial slot for the next boot. -/
def imageActivate (kind : Nat) (s : State) : Nat × State :=
  if tabGet none (s.updateSlot kind) s.sec.verified = some 0 then
    (0, setBootRec { s.bootRec with trial := kind, attempts := 0 } s)
  else (eLocked, s)

/-- Has the trial image run? -/
def State.trialHasRun (s : State) : Bool :=
  let r := s.bootRec
  let slot := r.other r.trial
  if r.trial = 1 then decide (s.sec.runSlot = slot) && s.sec.tsImage.isSome && decide (r.attempts ≠ 0)
  else decide (r.trial = 2) && decide (s.sec.coreRun = some slot)

/-- Blow the revocation bits of a confirmed image's header, its own slot's apart. -/
def blowRevocations (slot : Nat) (s : State) : State :=
  forEach (List.range 4) (fun k s =>
    if (s.hdr slot 0x24 4 >>> k) % 2 = 1 ∧ s.hdr slot 0x20 4 ≠ k then blowBit 10 k s else s) s

/-- Confirm the running trial. -/
def imageConfirm (s : State) : Nat × State :=
  let r := s.bootRec
  if !s.trialHasRun then (eLocked, s)
  else
    let slot := r.other r.trial
    let v := s.imgVersion slot
    let r1 := if r.trial = 1 then { r with tsSlot := slot } else { r with coreSlot := slot - 2 }
    (0, blowRevocations slot (raiseCounter v (setBootRec { r1 with trial := 0, attempts := 0, version := v } s)))

/-! ### Resets, storage, placement, arming -/

/-- A write of 0x1F01 (R417, R462): which reset waits. -/
def resetRequest (v : Nat) (s : State) : Nat × State :=
  if v ≠ 0x74657372 ∧ v ≠ 0x746F6F62 then (eRange, s)
  else if s.sys.phase = .recovery ∧ s.sec.recovery = 3 then (eLocked, s)
  else
    let k := if v = 0x746F6F62 ∨ s.sys.phase = .recovery then 2 else 1
    (0, { s with sys := { s.sys with resetWaiting := max k s.sys.resetWaiting } })

/-- A write of 0x1010 (R390). -/
def storeSave (v : Nat) (s : State) : Nat × State :=
  if v ≠ 0x65766173 ∨ s.sec.norAbsent then (eStore, s)
  else (0, { s with dict := { s.dict with stored := s.dict.vals.filter fun x =>
      (match s.obj? (x.1 / 256) (x.1 % 256) with | some o => o.stored | none => false) } })

/-- A write of 0x1011 (R390). -/
def restoreLoad (v : Nat) (s : State) : Nat × State :=
  if v ≠ 0x64616F6C then (eStore, s) else (0, { s with dict := { s.dict with loadMarked := true } })

/-- A write of 0x4010 (R176). -/
def armObject (g v : Nat) (s : State) : Nat × State := if v = 1 then (0, armRequest g s) else (eRange, s)

/-- A write of the placement objects (R186, R201), while placement answers. -/
def placeObject (who index sub : Nat) (bs : List Byte) (s : State) : Nat × State :=
  let r := dictPlacer who
  if !s.fclkOn then (eLocked, s)
  else if index = 0x7001 then (0, s.setReg (plReg r Reg.PL_HANDLE) (toWord (ofLeBytes bs) &&& 0x7FFFF))
  else if sub = 1 then
    (0, (plSubmitOp { req := r, w := (List.range 16).map fun i => toWord (ofLeBytes ((bs.drop (4 * i)).take 4)) } s).2)
  else if ofLeBytes bs = 1 then (0, (plCommitOp r s).2)
  else (eRange, s)

/-- The range of the settings (R394). -/
def settingOk (index sub v : Nat) : Bool :=
  match index, sub with
  | 0x1FF0, 1 => decide (1 ≤ v ∧ v ≤ 127)
  | 0x1FF0, 2 => decide (125000 ≤ v ∧ v ≤ 1000000)
  | 0x1FF0, 3 => decide (1 ≤ v ∧ v ≤ 8000000)
  | _, _ => true

/-- An object that holds its value takes a new one. -/
def setOwn (index sub : Nat) (o : Obj) (bs : List Byte) (s : State) : Nat × State :=
  if !settingOk index sub (ofLeBytes bs) then (eRange, s)
  else
    let v : Option (List Byte) := if bs = o.dflt then none else some bs
    (0, { s with dict := { s.dict with vals := tabSet none (index * 256 + sub) v s.dict.vals } })

/-- A write that is complete takes effect: its code and the state (R391). -/
def objApply (who index sub : Nat) (o : Obj) (bs : List Byte) (s : State) : Nat × State :=
  let v := ofLeBytes bs
  match index with
  | 0x1010 => storeSave v s
  | 0x1011 => restoreLoad v s
  | 0x1F00 => if (s.abortEngine 2).busy then (eLocked, s) else (0, abortWord 2 (toWord v) s)
  | 0x1F01 => resetRequest v s
  | 0x4010 => armObject (sub - 1) v s
  | 0x7000 | 0x7001 => placeObject who index sub bs s
  | 0x9011 => if v = 1 ∨ v = 2 then imageVerify v s else (eRange, s)
  | 0x9012 => if v = 1 ∨ v = 2 then imageActivate v s else (eRange, s)
  | 0x9013 => if v = 1 then imageConfirm s else (eRange, s)
  | 0x9020 => (0, { s with sec := { s.sec with nonces := tabSet [] (dictClass who) bs s.sec.nonces } })
  | 0x9030 =>
    match sub with
    | 2 => debugResponse bs s
    | 3 => if v = 1 then (0, { s with sec := { s.sec with unlock := 0 } }) else (eRange, s)
    | _ => if v = 1 ∨ v = 2 then (0, { s with sec := { s.sec with wanted := v } }) else (eRange, s)
  | 0xA000 => (0, busWrite (some (dictRequester who)) (Reg.PIN_CFG (sub - 1)) (toWord v) s)
  | _ => setOwn index sub o bs s

/-! ### Requests (R391, R392) -/

/-- A read request. -/
def dictReadOp (who index sub off len : Nat) (s : State) : DictReply × State :=
  match s.dictReach who index sub false with
  | .error c => refuseDict c s
  | .ok o =>
    match index, sub with
    | 0x8001, _ =>
      if 2 ^ 26 < off then ({ code := eBeyond, total := 2 ^ 26 }, s)
      else
        let bs := s.logBytes off (min len (2 ^ 26 - off))
        ({ code := 0, bytes := bs, moved := bs.length, total := 2 ^ 26 }, s)
    | 0x9010, k =>
      let n := s.imagePresent (s.updateSlot k)
      if n < off then ({ code := eBeyond, total := n }, s)
      else
        let bs := s.norBytes (slotBase (s.updateSlot k) + off) (min len (n - off))
        ({ code := 0, bytes := bs, moved := bs.length, total := n }, s)
    | 0x9020, 2 => quoteRead who off len s
    | 0x9020, 1 => (sliceReply (tabGet [] (dictClass who) s.sec.nonces) off len, s)
    | 0x9030, 1 => challengeRead off len s
    | _, _ => (sliceReply (objValue who index sub o s).1 off len, (objValue who index sub o s).2)

/-- Bytes put at an offset of a transfer; bytes that no request has brought are open. -/
def spliceData (old data : List Byte) (off : Nat) (s : State) : List Byte × State :=
  if old.length < off then
    let f := freeBytes (off - old.length) s
    (old ++ f.1 ++ data, f.2)
  else (old.take off ++ data ++ old.drop (off + data.length), s)

/-- A write takes effect, and its transfer ends. -/
def dictApply (who index sub : Nat) (o : Obj) (bs : List Byte) (n : Nat) (s : State) : DictReply × State :=
  let r := objApply who index sub o bs (endTransfer index sub s)
  if r.1 = 0 then ({ code := 0, moved := n, total := bs.length }, r.2) else refuseDict r.1 r.2

/-- A write request; `last`: the transport says that the transfer ends here; `fails`: a program of the NOR fails. -/
def dictWriteOp (who index sub off : Nat) (data : List Byte) (last fails : Bool) (s : State) : DictReply × State :=
  match s.dictReach who index sub true with
  | .error c => refuseDict c s
  | .ok o =>
    let t := s.transferOf index sub
    let locked : Bool := match t with | some t => decide (t.who ≠ who) | none => false
    if locked then refuseDict eLocked s
    else if o.type ≠ 0xF then
      if data.length ≠ o.max then refuseDict eLength s
      else if off ≠ 0 then refuseDict eBeyond s
      else dictApply who index sub o data data.length s
    else if o.max < off + data.length then refuseDict eBeyond s
    else if index = 0x9010 then imageWrite who sub off data last fails s
    else
      let old : List Byte := match t with | some t => t.data | none => []
      let p := spliceData old data off s
      if o.max ≤ off + data.length then dictApply who index sub o p.1 data.length p.2
      else if last then refuseDict eLength (endTransfer index sub p.2)
      else ({ code := 0, moved := data.length, total := p.1.length }, keepTransfer who index sub p.1 p.2)

/-- A describe request. -/
def dictDescribeOp (who index sub : Nat) (s : State) : DictReply × State :=
  match s.describe who index sub with
  | .error c => refuseDict c s
  | .ok bs => ({ code := 0, bytes := bs, moved := 16, total := ofLeBytes ((bs.drop 8).take 4) }, s)

/-! ### Transports (R393 to R395, R405) -/

/-- Where the buffer of a port's or a core's request lies: whether its place is allowed, and its address. -/
def bufferOk (r : DictReq) : Bool :=
  decide (r.len ≤ 2048) && (if r.who < 2 then decide (r.buf ≤ 0xEFC0 ∧ r.buf + r.len ≤ 0xF000) else decide (r.buf + r.len ≤ 0x40000))

def bufferAt (r : DictReq) : Nat := if r.who < 2 then bank31 + r.buf else 0x20000000 + (r.who - 5) * 0x100000 + r.buf

def DictReq.index (r : DictReq) : Nat := fieldOf r.cmd 23 8
def DictReq.sub (r : DictReq) : Nat := fieldOf r.cmd 7 0
def DictReq.op (r : DictReq) : Nat := fieldOf r.cmd 31 30

/-- Does the request come through a buffer? -/
def DictReq.buffered (r : DictReq) : Bool := decide (r.who < 2 ∨ 5 ≤ r.who)

/-- The bytes that a write request carries; those of a poisoned buffer, or of one that its core has written meanwhile
(R405), are open. -/
def carried (r : DictReq) (s : State) : List Byte × State :=
  if !r.buffered then (r.data, s)
  else if s.readsPoison (bufferAt r) r.len then freeBytes r.len (countPoisoned s)
  else if r.spoiled then freeBytes r.len s
  else (s.bytes (bufferAt r) r.len, s)

/-- The request is carried out: op 1 read, 2 write, 3 describe; for op 0, and for a buffer out of its limits, the answer is
open. -/
def dictPerform (r : DictReq) (s : State) : DictReply × State :=
  if r.op = 0 || (r.buffered && !bufferOk r) then
    let f := takeFree 32 s
    ({ code := f.1.toNat }, f.2)
  else if r.op = 1 then dictReadOp r.who r.index r.sub r.off r.len s
  else if r.op = 2 then
    let d := carried r s
    dictWriteOp r.who r.index r.sub r.off d.1 r.last false d.2
  else dictDescribeOp r.who r.index r.sub s

/-- The response datagram (R395). -/
def horanoResponse (r : DictReq) (a : DictReply) : List Byte :=
  [1, BitVec.ofNat 8 (r.op + 0x80)] ++ leBytes 2 r.seq ++ leBytes 2 r.index ++ leBytes 1 r.sub ++ [0] ++ leBytes 4 a.code ++
    leBytes 2 a.bytes.length ++ [0, 0] ++ leBytes 4 a.total ++ a.bytes

/-- The response leaves, and is kept among the last 8 of its peer (R395). -/
def horanoAnswer (r : DictReq) (a : DictReply) (s : State) : State :=
  let m := r.who - 3
  let x : Mac := tabGet {} m s.macs
  let d := horanoResponse r a
  let old := (x.kept.find? fun k => decide (k.1 = r.peer)).map (·.2) |>.getD []
  let x1 := { x with sent := d :: x.sent
                     kept := (r.peer, ((r.seq, d) :: old).take 8) :: x.kept.filter fun k => decide (k.1 ≠ r.peer) }
  { s with macs := tabSet {} m x1 s.macs }

/-- The answer goes to its transport: a buffer and a completion to come, an answer on the bus, or a datagram. -/
def dictDeliver (r : DictReq) (a : DictReply) (s : State) : State :=
  if r.buffered then
    let d := if r.spoiled then freeBytes a.bytes.length s else (a.bytes, s)
    let s1 := if a.bytes = [] then s else memWrite none (bufferAt r) (d.1.take r.len) d.2
    { s1 with dict := { s1.dict with answered := s1.dict.answered ++ [(r, a)] } }
  else if r.who = 2 then nodeSend 3 (leBytes 4 a.code ++ a.bytes) s
  else horanoAnswer r a s

/-- The oldest request, if it is of this operation, is served (R391); one whose code is none of the three is served as
the first. -/
def dictServe (op : Nat) (s : State) : State :=
  match s.dict.queue with
  | [] => s
  | r :: rest =>
    if (r.op = op ∨ (op = 1 ∧ r.op = 0)) ∧ s.dictServes r.who then
      let a := dictPerform r { s with dict := { s.dict with queue := rest } }
      dictDeliver r a.1 a.2
    else s

def execDictRead (s : State) : Out := .next (dictServe 1 s)
def execDictWrite (s : State) : Out := .next (dictServe 2 s)
def execDictDescribe (s : State) : Out := .next (dictServe 3 s)

/-- What the completion shows: code, bytes moved, present length; open after misuse of the buffer (R405). -/
def shownReply (r : DictReq) (a : DictReply) (s : State) : (Word × Word × Word) × State :=
  if r.spoiled then
    let f := takeFree 96 s
    ((f.1.extractLsb' 0 32, f.1.extractLsb' 32 32, f.1.extractLsb' 64 32), f.2)
  else ((toWord a.code, toWord a.moved, toWord a.total), s)

/-- The oldest served request of a port or a core completes (R393, R405). -/
def dictDoneEff (s : State) : State :=
  match s.dict.answered with
  | [] => s
  | (r, a) :: rest =>
    let w := (shownReply r a s).1
    let s0 := { (shownReply r a s).2 with dict := { (shownReply r a s).2.dict with answered := rest } }
    if r.who < 2 then
      let p := r.who
      let s1 := setEvent (Reg.HP_DICT_STATUS p) 30 (s0.setBit (Reg.HP_DICT_STATUS p) 31 false)
      let s2 := ((s1.setReg (Reg.HP_DICT_RESULT p) w.1).setReg (Reg.HP_DICT_RLEN p) w.2.1).setReg (Reg.HP_DICT_TOTAL p) w.2.2
      alertSet p (oneBit 6) s2
    else
      let c := r.who - 5
      let s1 := setEvent (Reg.TSM_DICT_STATUS c) 30 (s0.setBit (Reg.TSM_DICT_STATUS c) 31 false)
      let s2 := ((s1.setReg (Reg.TSM_DICT_RESULT c) w.1).setReg (Reg.TSM_DICT_RLEN c) w.2.1).setReg (Reg.TSM_DICT_TOTAL c) w.2.2
      ringPrivate c 32 s2

def execDictDone (s : State) : Out := .next (if s.sys.powerGood then dictDoneEff s else s)

/-- The word that tells a requester that its transfer has been abandoned (R391). -/
def tellAbandoned (who : Nat) (s : State) : State :=
  if who < 2 then s.setReg (Reg.HP_DICT_RESULT who) (toWord eAbandon)
  else if who = 2 then nodeSend 3 (leBytes 4 eAbandon) s
  else if who < 5 then s
  else s.setReg (Reg.TSM_DICT_RESULT (who - 5)) (toWord eAbandon)

def transferAbandonEff (index sub : Nat) (s : State) : State :=
  match s.transferOf index sub with
  | none => s
  | some t => tellAbandoned t.who (endTransfer index sub s)

def execTransferAbandon (index : BitVec 16) (sub : BitVec 8) (s : State) : Out :=
  .next (if s.sys.powerGood then transferAbandonEff index.toNat sub.toNat s else s)

/-! ### Requests given as single commands -/

/-- The answer to a request that came as one command. -/
def reply (who : Nat) (r : DictReply × State) : State :=
  { r.2 with dict := { r.2.dict with replies := tabSet {} who r.1 r.2.dict.replies } }

/-- A request to one object that came as one command: nothing happens while the dictionary does not serve its sender. -/
def directWrite (who index sub off : Nat) (data : List Byte) (fails : Bool) (s : State) : State :=
  if s.dictServes who then reply who (dictWriteOp who index sub off data true fails s) else s

def directRead (who index sub off len : Nat) (s : State) : State :=
  if s.dictServes who then reply who (dictReadOp who index sub off len s) else s

def execStoreSave (who : Fin 21) (value : Word) (s : State) : Out :=
  .next (directWrite who 0x1010 1 0 (leBytes 4 value.toNat) false s)

def execRestoreLoad (who : Fin 21) (value : Word) (s : State) : Out :=
  .next (directWrite who 0x1011 1 0 (leBytes 4 value.toNat) false s)

def execArmRequestObject (who : Fin 21) (g : Fin 24) (value : Byte) (s : State) : Out :=
  .next (directWrite who 0x4010 (g.val + 1) 0 [value] false s)

/-- An image goes out in requests of its own; the transfer ends where its header says. -/
def execImageWrite (who : Fin 21) (core : Bool) (off : BitVec 26) (data : List Byte) (fails : Bool) (s : State) : Out :=
  .next (if s.dictServes who then
      reply who (dictWriteOp who 0x9010 (if core then 2 else 1) off.toNat data false fails s)
    else s)

def execImageVerify (who : Fin 21) (value : Byte) (s : State) : Out := .next (directWrite who 0x9011 1 0 [value] false s)
def execImageActivate (who : Fin 21) (value : Byte) (s : State) : Out := .next (directWrite who 0x9012 1 0 [value] false s)
def execImageConfirm (who : Fin 21) (value : Byte) (s : State) : Out := .next (directWrite who 0x9013 1 0 [value] false s)

def execAttestationNonce (who : Fin 21) (nonce : BitVec 512) (s : State) : Out :=
  .next (directWrite who 0x9020 1 0 (leBytes 64 nonce.toNat) false s)

def execQuote (who : Fin 21) (off len : BitVec 12) (s : State) : Out :=
  .next (directRead who 0x9020 2 off.toNat len.toNat s)

def execDebugChallenge (who : Fin 21) (s : State) : Out := .next (directRead who 0x9030 1 0 64 s)

def execDebugResponse (who : Fin 21) (resp : BitVec 1056) (s : State) : Out :=
  .next (directWrite who 0x9030 2 0 (leBytes 132 resp.toNat) false s)

def execDebugLock (who : Fin 21) (value : Byte) (s : State) : Out := .next (directWrite who 0x9030 3 0 [value] false s)
def execDebugLevel (who : Fin 21) (value : Byte) (s : State) : Out := .next (directWrite who 0x9030 4 0 [value] false s)

def execResetRequest (who : Fin 21) (value : Word) (s : State) : Out :=
  .next (directWrite who 0x1F01 1 0 (leBytes 4 value.toNat) false s)

end Sys2Proof.Machine
end

