-- ==== Sys2Proof/Machine/Field.lean ====
section
/-! DEFINITION. The field network: the CANopen node, the CAN FD controllers, the MACs and the Horano transport (R394 to
R398). -/

namespace Sys2Proof.Machine

/-! ### The CANopen node (R394) -/

/-- May controller `c` receive: clocked, enabled, TCLK from its PLL, not in bus-off, its bus not stuck (R396, R398)? -/
def State.canHears (s : State) (c : Nat) : Bool := (decide (c = 0) || s.fclkOn) && s.canSends c

/-- Does the node live: the tailstock serves it and its controller is on the bus? -/
def State.nodeLives (s : State) : Bool := s.dictServes 2 && s.canHears 0

/-- Is an NMT command, to all nodes or to one, meant for this node? -/
def State.nmtMine (s : State) (node : BitVec 8) : Bool := s.nodeLives && (decide (node = 0) || decide (node.toNat = s.canNode.nodeId))

/-- The node's NMT state changes: 0 pre-operational, 1 operational, 2 stopped. -/
def nmtTo (k : Nat) (s : State) : State := { s with canNode := { s.canNode with nmt := k } }

def execNmtStart (node : BitVec 8) (s : State) : Out := .next (if s.nmtMine node then nmtTo 1 s else s)
def execNmtStop (node : BitVec 8) (s : State) : Out := .next (if s.nmtMine node then nmtTo 2 s else s)
def execNmtPreOperational (node : BitVec 8) (s : State) : Out := .next (if s.nmtMine node then nmtTo 0 s else s)

/-- The node communicates anew and sends its boot-up message. -/
def nodeBoot (s : State) : State := nodeSend 4 [0] (nodeRestart s)

/-- Reset node: its objects return to their power-on values as well. -/
def execNmtResetNode (node : BitVec 8) (s : State) : Out :=
  .next (if s.nmtMine node then nodeBoot { s with dict := { s.dict with vals := s.dict.stored } } else s)

def execNmtResetCommunication (node : BitVec 8) (s : State) : Out := .next (if s.nmtMine node then nodeBoot s else s)

/-- The state byte of a heartbeat. -/
def heartbeatByte (nmt : Nat) : Byte := if nmt = 1 then 0x05 else if nmt = 2 then 0x04 else 0x7F

/-- The producer time of 0x1017 in ms; 0 sends none. -/
def State.heartbeatTime (s : State) : Nat := ofLeBytes (s.objOwn 0x1017 0 (leBytes 2 1000))

def execHeartbeat (s : State) : Out :=
  .next (if s.nodeLives && decide (s.heartbeatTime ≠ 0) then nodeSend 0 [heartbeatByte s.canNode.nmt] s else s)

/-- The inhibit time of TPDO `n`, in the unit of `now` (log entry 61). -/
def State.inhibit (s : State) (n : Nat) : Nat := ofLeBytes (s.objOwn (0x1800 + n) 3 [0, 0]) * 150000

/-- TPDO `n` may go out: operational, and its inhibit time has passed since the last one. -/
def State.tpdoFree (s : State) (n : Nat) : Bool :=
  let t := tabGet 0 n s.canNode.tpdoAt
  s.nodeLives && decide (s.canNode.nmt = 1) && (decide (t = 0) || decide (t - 1 + s.inhibit n ≤ s.now))

/-- A TPDO goes out; what its fixed mapping holds is open. -/
def tpdoEff (n : Nat) (s : State) : State :=
  let f := freeBytes 8 s
  nodeSend 2 f.1 { f.2 with canNode := { f.2.canNode with tpdoAt := tabSet 0 n (s.now + 1) f.2.canNode.tpdoAt } }

def execTpdo (n : Fin 4) (s : State) : Out := .next (if s.tpdoFree n then tpdoEff n s else s)

/-- A USDO request waits its turn; while a session is open, a request to another object is refused (R391, R394). -/
def usdoEff (r : DictReq) (s : State) : State :=
  if s.dict.transfers.any fun t => decide (t.who = 2 ∧ ¬ (t.index = r.index ∧ t.sub = r.sub)) then
    nodeSend 3 (leBytes 4 eLocked) s
  else dictQueue r s

/-- The command word of a request (R393). -/
def dictCmd (op : Nat) (index : BitVec 16) (sub : BitVec 8) : Word := toWord (op * 2 ^ 30 + index.toNat * 256 + sub.toNat)

def execUsdoRequest (write : Bool) (index : BitVec 16) (sub : BitVec 8) (off : Word) (len : BitVec 16) (data : List Byte)
    (last : Bool) (s : State) : Out :=
  .next (if s.nodeLives && decide (s.canNode.nmt ≠ 2) then
      usdoEff { who := 2, cmd := dictCmd (if write then 2 else 1) index sub, off := off.toNat
                len := len.toNat, buf := 0, data := data, last := last } s
    else s)

/-! ### CAN FD controllers (R396, R398) -/

/-- Events of controller `c`; controller 0 has a line to the tailstock as well (R273). -/
def canEvent (c : Nat) (bits : Word) (s : State) : State :=
  let s1 := raiseStatus (Reg.CAN_STATUS c) (Reg.CAN_IRQ_EN c) (2320 + c) bits s
  if c = 0 ∧ s.lineOf (Reg.CAN_STATUS 0) (Reg.CAN_IRQ_EN 0) = false ∧ s1.lineOf (Reg.CAN_STATUS 0) (Reg.CAN_IRQ_EN 0) = true then
    raiseTs 22 s1
  else s1

/-- Bus-off (R396). -/
def canBusOff (c : Nat) (s : State) : State := canEvent c (oneBit 4) (s.setFld (Reg.CAN_STATUS c) 31 30 2)

/-- Error counters, and the passive state that they give (ISO 11898-1, log entry 62); bus-off stays. -/
def canCounters (c rec tec : Nat) (s : State) : State :=
  let s1 := s.setReg (Reg.CAN_ERRCNT c) (toWord (satNat 255 rec * 256 + satNat 255 tec))
  if s1.fld (Reg.CAN_STATUS c) 31 30 = 2 then s1
  else s1.setFld (Reg.CAN_STATUS c) 31 30 (if 128 ≤ rec ∨ 128 ≤ tec then 1 else 0)

def State.canRec (s : State) (c : Nat) : Nat := s.fld (Reg.CAN_ERRCNT c) 15 8
def State.canTec (s : State) (c : Nat) : Nat := s.fld (Reg.CAN_ERRCNT c) 7 0

/-- A frame received well lowers the receive counter; above 127 it falls to a value of 119 to 127. -/
def canGood (c : Nat) (s : State) : State :=
  if 127 < s.canRec c then
    let f := takeFree 8 s
    canCounters c (119 + f.1.toNat % 9) (s.canTec c) f.2
  else canCounters c (s.canRec c - 1) (s.canTec c) s

/-- Does filter `i` of controller `c` accept the frame (R398)? -/
def State.canFilter (s : State) (c i : Nat) (ext : Bool) (id : BitVec 29) : Bool :=
  let f := s.reg (Reg.CAN_FILT_ID c i)
  let m := s.reg (Reg.CAN_FILT_MASK c i)
  bitAt f 31 && decide (bitAt f 30 = ext) && decide ((f ^^^ id.zeroExtend 32) &&& m &&& 0x1FFFFFFF = 0)

/-- The words of a frame in the FIFO: a header, whose layout is open, and the data. -/
def canWords (data : List Byte) (s : State) : List Word × State :=
  let f := takeFree 32 s
  (f.1 :: (List.range ((data.length + 3) / 4)).map (fun i => toWord (ofLeBytes ((data.drop (4 * i)).take 4))), f.2)

def State.can (s : State) (c : Nat) : CanCtl := tabGet {} c s.cans
def setCan (c : Nat) (x : CanCtl) (s : State) : State := { s with cans := tabSet {} c x s.cans }

/-- A frame without error: filtered, too long for its buffer, FIFO full, or stored. -/
def canFrame (c : Nat) (ext : Bool) (id : BitVec 29) (data : List Byte) (s : State) : State :=
  let s1 := canGood c s
  if !(List.range 32).any (fun i => s1.canFilter c i ext id) then rcUpFld (Reg.CAN_DROPS c) 15 0 1 s1
  else if 8 * 2 ^ s1.fld (Reg.CAN_RXBUF_SIZE c) 1 0 < data.length then canEvent c (oneBit 2) s1
  else if 64 ≤ (s1.can c).fifo.length then canEvent c (oneBit 3) s1
  else
    let w := canWords data s1
    canEvent c (oneBit 0) (setCan c { w.2.can c with fifo := (w.2.can c).fifo ++ [w.1] } w.2)

/-- A frame with an error counts; `sent`: the controller was sending it, and beyond 255 it leaves the bus (log entry 62). -/
def canBad (c : Nat) (sent : Bool) (s : State) : State :=
  if sent then
    let s1 := canCounters c (s.canRec c) (s.canTec c + 8) s
    if 255 < s.canTec c + 8 then canBusOff c s1 else s1
  else canCounters c (s.canRec c + 1) (s.canTec c) s

def execCanFrameReceive (c : Fin 4) (fault : Option Bool) (ext : Bool) (id : BitVec 29) (data : List Byte) (s : State) : Out :=
  .next (if s.canHears c then
      (match fault with
        | some sent => canBad c sent s
        | none => canFrame c ext id data s)
    else s)

/-- A transmitted frame lowers the transmit counter. -/
def execCanTxDone (c : Fin 4) (_t : Fin 16) (s : State) : Out :=
  .next (if s.canHears c then canEvent c (oneBit 1) (canCounters c (s.canRec c) (s.canTec c - 1) s) else s)

def execBusStuck (c : Fin 4) (s : State) : Out :=
  .next (if s.canHears c then canEvent c (oneBit 5) (setCan c { s.can c with stuck := true } s) else s)

def execBusRecessiveReturn (c : Fin 4) (s : State) : Out :=
  .next (if s.sys.powerGood then setCan c { s.can c with stuck := false } s else s)

def execBusOff (c : Fin 4) (s : State) : Out :=
  .next (if s.canHears c then canBusOff c s else s)

/-- The controller rejoins, with auto_recover = 1 (R396). -/
def execBusOffRecover (c : Fin 4) (s : State) : Out :=
  .next (if s.sys.powerGood && s.bit (Reg.CAN_CTL c) 31 && s.bit (Reg.CAN_CTL c) 30 && !s.sys.tclkOnRc &&
        decide (s.fld (Reg.CAN_STATUS c) 31 30 = 2) then
      (s.setFld (Reg.CAN_STATUS c) 31 30 0).setReg (Reg.CAN_ERRCNT c) 0
    else s)

/-! ### MACs (R396, R398) -/

/-- Does MAC `m` receive: clocked, enabled, its link up? -/
def State.macHears (s : State) (m : Nat) : Bool := s.fclkOn && s.bit (Reg.ETH_CTL m) 31 && s.bit (Reg.ETH_STATUS m) 31

/-- Events of MAC `m`: its source is the level of its status, which has no enable register of its own. -/
def ethEvent (m : Nat) (bits : Word) (s : State) : State :=
  let s1 := noteSet (Reg.ETH_STATUS m) bits (s.setReg (Reg.ETH_STATUS m) (s.reg (Reg.ETH_STATUS m) ||| bits))
  if s.fld (Reg.ETH_STATUS m) 2 0 = 0 then raiseTs 31 (noteDeferred (2324 + m) s1) else s1

/-- A 48-bit address of a register pair. -/
def State.addr48 (s : State) (lo hi : Nat) : Nat := (s.reg lo).toNat + s.fld hi 15 0 * 2 ^ 32

/-- Does MAC `m` take frames to this address? -/
def State.macAccepts (s : State) (m dst : Nat) : Bool :=
  decide (dst = s.addr48 (Reg.ETH_ADDR_LO m) (Reg.ETH_ADDR_HI m)) || decide (dst = 0xFFFFFFFFFFFF) ||
    decide (dst = 0x011B19000000) || decide (dst = 0x0180C200000E) ||
    (List.range 4).any fun g => decide (dst = s.addr48 (Reg.ETH_MCAST_LO m g) (Reg.ETH_MCAST_HI m g))

/-- The words of a frame in the receive queue. -/
def frameWords (data : List Byte) : List Word :=
  (List.range ((data.length + 3) / 4)).map fun i => toWord (ofLeBytes ((data.drop (4 * i)).take 4))

/-- A received frame, its FCS among its bytes: dropped and counted, or queued; an event message is time-stamped. -/
def ethFrame (m : Nat) (data : List Byte) (fcs event : Bool) (s : State) : State :=
  if !fcs || decide (data.length < 64 ∨ 1522 < data.length) then rcUpFld (Reg.ETH_DROPS m) 31 20 1 s
  else if !s.macAccepts m (ofBeBytes (data.take 6)) then rcUpFld (Reg.ETH_DROPS m) 19 8 1 s
  else
    let s1 := { s with macQueues := tabSet [] (2 * m) (tabGet [] (2 * m) s.macQueues ++ frameWords data) s.macQueues }
    if event then ethEvent m (oneBit 1) (s1.setReg (Reg.ETH_TS_RX m) (s1.pairRead (Reg.ETH_PTP_LO m)).1) else s1

def execEthFrameReceive (m : Fin 2) (data : List Byte) (fcs event : Bool) (s : State) : Out :=
  .next (if s.macHears m then ethFrame m data fcs event s else s)

/-- The link goes down or comes up. -/
def linkTo (m : Nat) (up : Bool) (s : State) : State :=
  if s.bit (Reg.ETH_STATUS m) 31 = up then s else ethEvent m (oneBit 0) (s.setBit (Reg.ETH_STATUS m) 31 up)

def execSgmiiSyncLost (m : Fin 2) (s : State) : Out :=
  .next (if s.fclkOn && s.bit (Reg.ETH_CTL m) 31 then linkTo m false s else s)
def execSgmiiSyncGained (m : Fin 2) (s : State) : Out :=
  .next (if s.fclkOn && s.bit (Reg.ETH_CTL m) 31 then linkTo m true s else s)

/-! ### Horano over UDP (R395, R396) -/

/-- A datagram to UDP port 47710: who sent it, to which address, whether it is a fragment or its length disagrees, and
what it carries. -/
structure Datagram where
  src : Word
  port : BitVec 16
  dst : Word
  broken : Bool
  data : List Byte

def Datagram.field (d : Datagram) (i n : Nat) : Nat := ofLeBytes ((d.data.drop i).take n)

/-- Is the header of the version and operations that exist, and does a write carry the length it tells? -/
def Datagram.sound (d : Datagram) : Bool :=
  decide (20 ≤ d.data.length ∧ d.data.length ≤ 1044) && decide (d.field 0 1 = 1) &&
    decide (1 ≤ d.field 1 1 ∧ d.field 1 1 ≤ 3) && (decide (d.field 1 1 ≠ 2) || decide (d.field 12 2 = d.data.length - 20))

/-- The request of a datagram; a response carries at most 1,024 bytes (R395). -/
def Datagram.request (d : Datagram) (m : Nat) : DictReq :=
  { who := 3 + m, cmd := dictCmd (d.field 1 1) (BitVec.ofNat 16 (d.field 4 2)) (BitVec.ofNat 8 (d.field 6 1))
    off := d.field 8 4, len := min 1024 (d.field 12 2), buf := 0, data := d.data.drop 20
    peer := (d.src.toNat, d.port.toNat), seq := d.field 2 2 }

/-- Is the sender in the peer list (R395)? -/
def State.isPeer (s : State) (a : Word) : Bool :=
  (List.range 8).any fun i =>
    decide (a ≠ 0) && decide (toWord (ofLeBytes (s.objOwn 0x1FF2 (i + 1) (leBytes 4 0))) = a)

def State.mac (s : State) (m : Nat) : Mac := tabGet {} m s.macs
def setMac (m : Nat) (x : Mac) (s : State) : State := { s with macs := tabSet {} m x s.macs }

/-- Requests of the present second, this one among them. -/
def countRequest (m : Nat) (s : State) : State :=
  let x := s.mac m
  let t := s.now / second
  setMac m (if x.second = t then { x with count := x.count + 1 } else { x with second := t, count := 1 }) s

/-- The response kept for this sequence number of the peer. -/
def State.keptResponse (s : State) (m : Nat) (d : Datagram) : Option (List Byte) :=
  match (s.mac m).kept.find? fun k => decide (k.1 = (d.src.toNat, d.port.toNat)) with
  | some k => (k.2.find? fun x => decide (x.1 = d.field 2 2)).map (·.2)
  | none => none

/-- Does the request with this sequence number of the peer wait already? Its one response is still to come (DEDUCED, log
entry 62). -/
def State.asked (s : State) (r : DictReq) : Bool :=
  s.dict.queue.any fun x => decide (x.who = r.who ∧ x.peer = r.peer ∧ x.seq = r.seq)

/-- A datagram is dropped, answered again, or waits its turn. -/
def horanoEff (m : Nat) (d : Datagram) (s : State) : State :=
  if d.broken || !s.isPeer d.src then rcUpFld (Reg.ETH_DROPS m) 7 0 1 s
  else
    let s1 := countRequest m s
    if 2000 < (s1.mac m).count then rcUpFld (Reg.ETH_DROPS m) 7 0 1 s1
    else if !d.sound then s1
    else match s1.keptResponse m d with
      | some r => setMac m { s1.mac m with sent := r :: (s1.mac m).sent } s1
      | none => if s1.asked (d.request m) then s1 else dictQueue (d.request m) s1

/-- The datagram counts for this transport if its MAC takes Horano and has the address that it goes to. -/
def execHoranoDatagram (m : Fin 2) (src : Word) (port : BitVec 16) (dst : Word) (broken : Bool) (data : List Byte)
    (s : State) : Out :=
  .next (if s.macHears m && s.bit (Reg.ETH_CTL m) 29 && s.firmwareOn && decide (dst ≠ 0) &&
        decide (toWord (ofLeBytes (s.objOwn 0x1FF1 (m.val + 1) (leBytes 4 0))) = dst) then
      horanoEff m { src := src, port := port, dst := dst, broken := broken, data := data } s
    else s)

end Sys2Proof.Machine
end

