-- ==== Sys2Proof/Machine/Pipe.lean ====
section
/-! DEFINITION. How a core executes one instruction: store buffer, loads, exception entry, delay slots, loop-back and the
shadow of CWR (R207, R214, R217, R224 to R226, R239 to R256). -/

namespace Sys2Proof.Machine

/-! ### Draining the store buffer (R241, R244, R253) -/

/-- A posted store ends in a bus error, which has still to return (R253). -/
def lateBusError (c : Nat) (va : Word) (s : State) : State :=
  s.setCore c { s.core c with busErrors := (s.core c).busErrors ++ [va] }

/-- A device store reaches its register (R29, R244). -/
def deviceStore (c a : Nat) (bs : List Byte) (s : State) : State :=
  if bs.length = 4 then busWrite (some (coreRequester c)) (a - 0x80000000) (toWord (ofLeBytes bs)) s
  else busNarrow (some (coreRequester c)) (a - 0x80000000) s

/-- An entry reaches its target: a register, the L1 line of cached memory, or memory. -/
def performStore (c : Nat) (e : StoreEntry) (s : State) : State :=
  match e.cells with
  | [] => s
  | (a, b) :: r =>
    let bs := b :: r.map (·.2)
    let dram : Bool := decide (0x0800000000 ≤ a ∧ a < 0x1000000000)
    if inDevice a then deviceStore c a bs s
    else if dram && !s.dramOn then lateBusError c e.va s
    else if e.mtype = .cached then l1Store c a e.cells s
    else if decide (0x40000000 ≤ a ∧ a < 0x41000000) && !s.bankAccepts ((a - 0x40000000) / 0x80000) c then lateBusError c e.va s
    else memWrite (some c) a bs s

/-- The oldest entry drains. -/
def drainOne (c : Nat) (s : State) : State :=
  match (s.core c).sb with
  | [] => s
  | e :: r => performStore c e (s.setCore c { s.core c with sb := r })

/-- The oldest `k` entries drain. -/
def drain (c : Nat) : Nat → State → State
  | 0, s => s
  | k + 1, s => drain c k (drainOne c s)

def drainAll (c : Nat) (s : State) : State := drain c (s.core c).sb.length s

/-- Drain until `k` entries have room. -/
def makeRoom (c k : Nat) (s : State) : State := drain c ((s.core c).sb.length + k - 8) s

/-- Drain every entry that overlaps `n` bytes at `a`, and what is older. -/
def drainOverlap (c a n : Nat) (s : State) : State :=
  match ((s.core c).sb.zipIdx.filter fun e => e.1.overlaps a n).getLast? with
  | none => s
  | some e => drain c (e.2 + 1) s

/-- A checked store enters the buffer, part by part; it merges, or waits for room for all its parts (R241, R243). -/
def pushParts (c : Nat) : List (Word × Nat × Nat × MemType) → List Byte → State → State
  | [], _, s => s
  | (va, a, n, t) :: r, bs, s => pushParts c r (bs.drop n) (sbPush c a (bs.take n) t va s)

def storeParts (c : Nat) (ps : List (Word × Nat × Nat × MemType)) (bs : List Byte) (s : State) : State :=
  let merges : Bool := match ps, (s.core c).sb.getLast? with
    | [(_, a, n, t)], some e => e.merges a n t
    | _, _ => false
  pushParts c ps bs (if merges then s else makeRoom c ps.length s)

/-! ### What a load reads (R239, R242, R432) -/

/-- Does a part of a load fail detection: the owner of the data (none: the tailstock) and the detail (R432, R433)? -/
def State.loadCheck (s : State) (c a n : Nat) (t : MemType) : Option (Option Nat × Nat) :=
  if t = .cached then
    match s.l1Line c a with
    | some l => if l.bad.getLsbD (a % 64 / 8) then some (some c, 2) else none
    | none => if s.readsPoison (a / 64 * 64) 64 then some (some c, 3) else none
  else if !s.readsPoison a n then none
  else match (s.region none a).1 with
    | .tcm k => some (some k, 1)
    | .scratch b => some ((if (s.bankOwner b).1 = 0 then some (s.bankOwner b).2 else none), 4)
    | .dram => some (some c, 3)
    | _ => some (none, 0xA)

/-- What a load finds: bytes, or data that fails detection, with its owner, detail and address. -/
inductive Found where
  | bytes (bs : List Byte)
  | fails (owner : Option Nat) (detail addr : Nat)

/-- The offset of an address of the device region in the register map (R22). -/
def deviceOffset (a : Nat) : Nat := a - 0x80000000

/-- The low n bytes of a word that was read. -/
def foundWord (n : Nat) (x : Word × State) : Found × State := (.bytes (leBytes n x.1.toNat), x.2)

/-- A load of n bytes from the device region: 32 bits read the register; any other width is open (R29). -/
def readDevice (c a n : Nat) (s : State) : Found × State :=
  foundWord n (if n = 4 then busRead (coreRequester c) (deviceOffset a) s
    else takeFree 32 (busNarrow (some (coreRequester c)) (deviceOffset a) s))

/-- One part: a register, the store buffer, or memory through L1 (R242, R244). -/
def readPart (c a n : Nat) (t : MemType) (s : State) : Found × State :=
  if inDevice a then readDevice c a n s
  else match sbForward (s.core c).sb a n with
    | some bs => (.bytes bs, s)
    | none =>
      match s.loadCheck c a n t with
      | some x => (.fails x.1 x.2 a, countPoisoned s)
      | none =>
        let s1 := if t = .cached then l1Fill c a s else s
        (.bytes (s1.coreBytes c a n t), s1)

/-- The parts of a load, low bytes first; the first failure stands. -/
def readParts (c : Nat) : List (Nat × Nat × MemType) → State → Found × State
  | [], s => (.bytes [], s)
  | (a, n, t) :: r, s =>
    let x := readPart c a n t s
    match x.1 with
    | .fails o d k => (.fails o d k, x.2)
    | .bytes bs =>
      let y := readParts c r x.2
      match y.1 with
      | .bytes cs => (.bytes (bs ++ cs), y.2)
      | .fails o d k => (.fails o d k, y.2)

/-- Is a part at hand without a wait: forwarded, in a TCM or the tailstock's own memory, or in L1 (R239)? -/
def State.quick (s : State) (c a n : Nat) (t : MemType) : Bool :=
  (sbForward (s.core c).sb a n).isSome ||
    (if t = .cached then (s.l1Line c a).isSome else decide (0x20000000 ≤ a ∧ a < 0x21000000) || decide (tsBase ≤ a))

/-- Has a part lost its target since it was checked: its bank, or DRAM (R18, R280)? -/
def State.partLost (s : State) (c a : Nat) : Bool :=
  (decide (0x40000000 ≤ a ∧ a < 0x41000000) && !s.bankAccepts ((a - 0x40000000) / 0x80000) c) ||
    (decide (0x0800000000 ≤ a ∧ a < 0x1000000000) && !s.dramOn)

/-! ### Machine checks (R433, R434) -/

/-- The log entry of a machine check. -/
def logCheck (detail addr : Nat) (s : State) : State :=
  logOpen 2 9 evMachineCheck (leBytes 4 detail ++ leBytes 8 addr) s

/-! ### Completing an instruction -/

/-- How the execution of an instruction ends: completed; completed with a loaded value on its way; a branch, taken or
not; a jump without a delay slot; an exception; not completed; a return; undefined results for the core. -/
inductive Res where
  | next (s : State)
  | loaded (d : Nat) (v : Word) (s : State)
  | branch (target : Option Word) (s : State)
  | goto (target : Word) (s : State)
  | raise (e : Exc) (s : State)
  | stay (s : State)
  | resume (pc npc : Word) (slot : Bool) (s : State)
  | lost (s : State)

/-- The loaded value of the instruction before reaches its register, unless that was written since (R217). -/
def commitLoad (c : Nat) (s : State) : State :=
  let x := s.core c
  match x.load with
  | none => s
  | some (d, v) =>
    if d = 0 ∨ x.wrote.contains d = true then s.setCore c { x with load := none }
    else s.setCore c { x with load := none, g := tabSet 0 d v x.g }

/-- The instruction's registers are settled, and its own loaded value is on its way. -/
def retire (c : Nat) (new : Option (Nat × Word)) (s : State) : State :=
  let s1 := commitLoad c s
  s1.setCore c { s1.core c with load := new, wrote := [] }

/-- An invalidation by a write of ASID (R261). -/
def tlbInvalidate (c : Nat) (v : Word) (s : State) : State :=
  let x := s.core c
  let keep (e : TlbEntry) : Bool :=
    match fieldOf v 30 29 with
    | 0 => false
    | 1 => decide (e.desc.toNat / 64 % 2 = 1) || decide (e.asid ≠ fieldOf v 7 0)
    | 2 => !tlbMatches (s.asid c) (s.cr c crEADDR).toNat e
    | _ => true
  s.setCore c { x with tlb := x.tlb.filter keep }

/-- A CWR takes effect (R205, R207, R261). -/
def applyCwr (c : Nat) (s : State) (p : CwrPending) : State :=
  if p.cr = crASID ∧ bitAt p.value 31 = true then tlbInvalidate c p.value s
  else setCr c p.cr ((s.cr c p.cr &&& ~~~crMask p.cr) ||| (p.value &&& crMask p.cr)) s

/-- One instruction of every shadow has passed; what is due takes effect (R207). -/
def tickShadow (c : Nat) (s : State) : State :=
  let xs := (s.core c).shadow.map fun p => { p with left := p.left - 1 }
  (xs.filter fun p => decide (p.left = 0)).foldl (applyCwr c)
    (s.setCore c { s.core c with shadow := xs.filter fun p => decide (p.left ≠ 0) })

/-- Every older CWR completes (R249, R251). -/
def completeShadow (c : Nat) (s : State) : State :=
  (s.core c).shadow.foldl (applyCwr c) (s.setCore c { s.core c with shadow := [] })

/-- Loop-back after the instruction at `a`, from the innermost level (R225). -/
def loopStep (c : Nat) (a : Word) : List Nat → State → Option Word × State
  | [], s => (none, s)
  | i :: r, s =>
    if s.cr c (crLCOUNT i) ≠ 0 ∧ s.cr c (crLEND i) = a then
      if 1 < (s.cr c (crLCOUNT i)).toNat then
        (some (s.cr c (crLSTART i)), setCr c (crLCOUNT i) (s.cr c (crLCOUNT i) - 1) s)
      else loopStep c a r (setCr c (crLCOUNT i) 0 s)
    else loopStep c a r s

/-- Where execution goes on. -/
def setPc (c : Nat) (pc npc : Word) (slot : Bool) (s : State) : State :=
  s.setCore c { s.core c with pc := pc, npc := npc, slot := slot }

/-- On to the next instruction, with loop-back (R225). -/
def advance (c : Nat) (s : State) : State :=
  let x := s.core c
  let r := if s.loopBack c then loopStep c x.pc [2, 1, 0] s else (none, s)
  match r.1 with
  | some t => setPc c t (t + 4) false r.2
  | none => setPc c x.npc (x.npc + 4) false r.2

/-- On to the delay slot, and from there to the target (R214). -/
def branchTo (c : Nat) (t : Option Word) (s : State) : State :=
  let x := s.core c
  setPc c x.npc (t.getD (x.npc + 4)) true s

/-! ### Exception entry (R246 to R256) -/

/-- The bit of STATUS that masks a code's class (R206, R246). -/
def maskBit (code : Nat) : Option Nat :=
  if 2 ≤ code ∧ code ≤ 4 then some 12
  else if code = 5 then some 13
  else if code = 6 then some 14
  else if 7 ≤ code ∧ code ≤ 9 then some 15
  else none

/-- Is the fault's class masked? -/
def State.faultMasked (s : State) (c code : Nat) : Bool :=
  match maskBit code with
  | some b => bitAt (s.cr c crSTATUS) b
  | none => false

/-- A core halts (R256, R385). -/
def haltCore (c : Nat) (s : State) : State :=
  let s1 := s.setCore c { s.core c with halted := true, waiting := false }
  if c < 16 then freeCoreChucks c (raiseTs c s1) else s1

/-- Is the address in the core's own local memory (R22, R254)? -/
def State.ownLocal (s : State) (c pa : Nat) : Bool :=
  match (s.region (some c) pa).1 with
  | .tcm n => decide (n = c)
  | .tsRam => decide (c = tsCore)
  | _ => false

/-- Check every part of a frame of four 8-byte stores at `sp` (R249). -/
def frameParts (c : Nat) (sp : Word) : Nat → State → Option (List (Word × Nat × Nat × MemType)) × State
  | 0, s => (some [], s)
  | k + 1, s =>
    let x := checkAccess c sp 8 .store s
    match x.1 with
    | .error _ => (none, x.2)
    | .ok ps =>
      if ps.any fun p => decide (p.2.2.2 = .device) then (none, x.2)
      else
        let y := frameParts c (sp + 8) k x.2
        match y.1 with
        | some qs => (some (ps ++ qs), y.2)
        | none => (none, y.2)

/-- Push a frame at `sp`; none where a write of it faults. -/
def pushFrame (c : Nat) (sp : Word) (frame : List Word) (s : State) : Option State :=
  let x := frameParts c sp 4 s
  match x.1 with
  | none => none
  | some ps =>
    some (ps.foldl (fun (t : List Byte × State) p => (t.1.drop p.2.2.1, storeParts c [p] (t.1.take p.2.2.1) t.2))
      (frame.flatMap fun w => leBytes 4 w.toNat, x.2)).2

/-- May the emergency stack be used: aligned, its 512 bytes in the core's own local memory (R254)? -/
def State.estkOk (s : State) (c : Nat) : Bool :=
  let e := (s.cr c crESTK).toNat
  let at_ (a : Nat) : Bool := match (translate c (toWord a) .store s).1 with
    | .ok (pa, _) => s.ownLocal c pa
    | .error _ => false
  decide (e % 32 = 0) && decide (512 ≤ e) && at_ (e - 512) && at_ (e - 1)

/-- Where the frame goes: its address, and whether the stack was exhausted, with the state that has it pushed (R254);
none halts the core. -/
def chooseStack (c : Nat) (sp : Word) (frame : List Word) (s : State) : Option (Word × Bool) × State :=
  let e := s.cr c crESTK
  let emergency : Bool := decide (e.toNat ≤ sp.toNat + 512 ∧ sp.toNat < e.toNat)
  let low := sp - 32
  if emergency then
    if e.toNat ≤ sp.toNat + 480 then
      match pushFrame c low frame s with
      | some t => (some (low, false), t)
      | none => (none, s)
    else (none, s)
  else
    let fits : Bool := decide (32 ≤ sp.toNat) && decide ((s.cr c crSTKLIM).toNat ≤ low.toNat)
    match if fits then pushFrame c low frame s else none with
    | some t => (some (low, false), t)
    | none =>
      if s.estkOk c then
        match pushFrame c (e - 32) frame s with
        | some t => (some (e - 32, true), t)
        | none => (none, s)
      else (none, s)

/-- The five registers that an entry saves and writes. -/
def State.excRegs (s : State) (c : Nat) : List Word :=
  [s.cr c crEPC, s.cr c crENPC, s.cr c crESTATUS, s.cr c crECAUSE, s.cr c crEADDR]

/-- ECAUSE (R247). -/
def causeWord (e : Exc) (slot : Bool) (code orig : Nat) : Word :=
  toWord (orig * 2 ^ 16 + e.detail % 256 * 2 ^ 8 + boolNat slot * 2 ^ 7 + boolNat e.upper * 2 ^ 6 + code)

/-- STATUS after entry: supervisor, no interrupts, no loop-back (R249). -/
def entryStatus (st : Word) : Word := withBit (withBit (withBit st 0 true) 1 false) 3 false

/-- Taking an exception at the present instruction: the frame on the stack, the registers of this exception, STATUS, and
on at the vector; or the core halts (R249, R254 to R256). -/
def enterExc (c : Nat) (e : Exc) (s : State) : State :=
  let masked := s.faultMasked c e.code
  let code := if masked then 0x0D else e.code
  let orig := if masked then e.code else 0
  let s1 := completeShadow c (retire c none (commitLoad c s))
  let x := s1.core c
  let st := s1.cr c crSTATUS
  let sp := s1.greg c 30
  let s2 := setCr c crSTATUS (entryStatus st) s1
  let z := chooseStack c sp (s1.excRegs c ++ [sp, 0, 0]) s2
  match z.1 with
  | none => haltCore c s2
  | some (low, exhausted) =>
    let code1 := if exhausted then 0x0C else code
    let orig1 := if exhausted then code else orig
    let t1 := setCr c crEPC x.pc (setCr c crENPC x.npc (setCr c crESTATUS st
      (setCr c crECAUSE (causeWord e x.slot code1 orig1) (setCr c crEADDR e.eaddr z.2))))
    let v := (t1.cr c crVBASE &&& 0xFFFFF000) + toWord (code1 * 0x40)
    let t2 := retire c none (setGreg c 30 low t1)
    setPc c v (v + 4) false (t2.setCore c { t2.core c with resv := none, waiting := false })

/-! ### Executing -/

/-- What has become of the instruction. -/
def settle (c : Nat) (r : Res) : State :=
  match r with
  | .next s => tickShadow c (advance c (retire c none s))
  | .loaded d v s => tickShadow c (advance c (retire c (some (d, v)) s))
  | .branch t s => tickShadow c (branchTo c t (retire c none s))
  | .goto t s => tickShadow c (setPc c t (t + 4) false (retire c none s))
  | .raise e s => enterExc c e s
  | .stay s => s
  | .resume pc npc slot s => tickShadow c (setPc c pc npc slot (retire c none s))
  | .lost s => spoilCore c s

/-- Where an instruction may not stand (R215, R226). -/
inductive Shape where
  | plain | branch | ret | wait | loop
  deriving DecidableEq, Repr

/-- Does an active loop end at the present instruction (R225)? -/
def State.atLend (s : State) (c : Nat) : Bool :=
  s.loopBack c && [0, 1, 2].any fun i => decide (s.cr c (crLCOUNT i) ≠ 0 ∧ s.cr c (crLEND i) = (s.core c).pc)

/-- Is the instruction in a forbidden place (R215, R226)? -/
def State.misplaced (s : State) (c : Nat) (k : Shape) : Bool :=
  ((s.core c).slot && decide (k ≠ .plain)) ||
    (s.atLend c && ((s.core c).slot || decide (k = .branch ∨ k = .ret ∨ k = .loop)))

/-- May the core execute now: it runs, no load holds the pipe, and a WAIT has ended (R211, R234)? -/
def State.coreReady (s : State) (c : Nat) : Bool :=
  s.coreRuns c && (s.core c).held.isNone && (!(s.core c).waiting || s.interruptPresented c)

/-- Execute the instruction at the core's pc: fetch rights, its place, its own effect, and what follows. -/
def issue (c : Nat) (k : Shape) (body : State → Res) (s : State) : State :=
  if !s.coreReady c then s
  else
    let s0 := s.setCore c { s.core c with waiting := false }
    let f := checkAccess c (s0.core c).pc 4 .fetch s0
    match f.1 with
    | .error e => enterExc c e f.2
    | .ok _ => if f.2.misplaced c k then spoilCore c f.2 else settle c (body f.2)

/-- A privileged instruction in user mode raises its exception (R205, R233). -/
def privileged (c : Nat) (body : State → Res) (s : State) : Res :=
  if s.supervisor c then body s else .raise { code := 8 } s

/-- The reserved-instruction exception (R210). -/
def reserved (s : State) : Res := .raise { code := 7 } s

/-! ### Loads (R216, R217, R239, R242) -/

/-- The value of a load (R216). -/
def loadValue (n : Nat) (sgn : Bool) (bs : List Byte) : Word :=
  if sgn then intWord (signedOf (8 * n) (ofLeBytes bs)) else toWord (ofLeBytes bs)

/-- The base register's update (R216). -/
def updateBase (c : Nat) (u : Option (Nat × Word)) (s : State) : State :=
  match u with
  | some (r, v) => setGreg c r v s
  | none => s

/-- A load ends: its value on the way; a bus error; or data that fails detection, which is a precise machine check to the
core whose data it is, and open to another reader (R253, R432 to R434). -/
def loadEnd (c : Nat) (h : HeldLoad) (s : State) : Res :=
  if h.parts.any fun p => s.partLost c p.1 then .raise { code := 6, eaddr := h.va } s
  else
    let r := readParts c h.parts s
    let done (v : Word) (t : State) : Res :=
      let t1 := updateBase c h.update t
      .loaded h.dest v (if h.reserve then
        t1.setCore c { t1.core c with resv := h.parts.head?.map fun p => p.1 / 64 } else t1)
    match r.1 with
    | .bytes bs => done (loadValue h.size h.signed bs) r.2
    | .fails o d a =>
      let t := logCheck d a r.2
      let f := takeFree 32 r.2
      if o = some c ∧ c < 16 then
        if r.2.mcrFree c then
          .raise { code := 0x0E, detail := d } (mcrRecord c { owner := o, detail := d, addr := a, precise := true } t)
        else done f.1 (logCheck d a (countUpFld (Reg.MCR_INFO c) 23 16 f.2))
      else done f.1 (postCheck o d a f.2)

/-- A checked load: entries that it needs drain, a load of type device waits for all of them, in DRAM too (R260); what is
at hand ends at once, and any other holds the pipe (R239, R242, R244). -/
def loadStart (c : Nat) (h : HeldLoad) (s : State) : Res :=
  let dev := h.parts.any fun p => decide (p.2.2 = .device)
  let k := h.parts.foldl (fun k p => max k (sbMustDrain (s.core c).sb p.1 p.2.1)) 0
  let s1 := if dev then drainAll c s else drain c k s
  if !dev && h.parts.all fun p => s1.quick c p.1 p.2.1 p.2.2 then loadEnd c h s1
  else .stay (s1.setCore c { s1.core c with held := some h })

/-- The parts of a checked access without their virtual addresses. -/
def physParts (ps : List (Word × Nat × Nat × MemType)) : List (Nat × Nat × MemType) := ps.map (·.2)

/-- The data of the held load arrives (R239). -/
def loadReturn (c : Nat) (s : State) : State :=
  match (s.core c).held with
  | none => s
  | some h => settle c (loadEnd c h (s.setCore c { s.core c with held := none }))

/-! ### Events (R241, R249, R253, R259, R266, R434) -/

/-- An interrupt is latched in front of the present instruction; the controller freezes what it presents (R266). -/
def interruptEff (c : Nat) (s : State) : State :=
  if s.coreRuns c && (s.core c).held.isNone && s.intEnabled c && s.interruptPresented c then
    enterExc c { code := 1 } (freeze c s)
  else s

def execInterruptLatch (c : Fin 17) (s : State) : Out :=
  .next (if c.val < 16 then interruptEff c s
    else if s.coreRuns tsCore && (s.core tsCore).held.isNone && s.intEnabled tsCore && s.interruptPresented tsCore then
      enterExc tsCore { code := 1 } s
    else s)

/-- The oldest bus error of a posted store has returned, and is taken at the next instruction boundary (R253). -/
def lateErrorEff (c : Nat) (s : State) : State :=
  match (s.core c).busErrors with
  | [] => s
  | va :: r =>
    if s.coreRuns c && (s.core c).held.isNone then
      enterExc c { code := 6, detail := 1, eaddr := va } (s.setCore c { s.core c with busErrors := r })
    else s

def execImpreciseBusError (c : Fin 17) (s : State) : Out := .next (lateErrorEff c s)

def execStoreBufferDrain (c : Fin 17) (s : State) : Out :=
  .next (if s.coreRuns c || (s.core c).halted then drainOne c s else s)

def execLoadDataReturn (c : Fin 17) (s : State) : Out := .next (if s.coreRuns c then loadReturn c s else s)

def walkAccess : WalkKind → Access
  | .fetch => .fetch
  | .load => .load
  | .store => .store

/-- A walk on behalf of the present instruction, for an address that no TLB entry matches (R259). -/
def tableWalkEff (c : Nat) (va : Word) (k : WalkKind) (s : State) : State :=
  if s.translating c && ((s.core c).tlb.filter (tlbMatches (s.asid c) va.toNat)).isEmpty then
    let t := translate c va (walkAccess k) s
    match t.1 with
    | .error d => enterExc c (faultExc (walkAccess k) d false va) t.2
    | .ok _ => t.2
  else s

def execTableWalk (c : Fin 16) (va : Word) (kind : WalkKind) (s : State) : Out :=
  .next (if s.coreReady c then tableWalkEff c va kind s else s)

/-- A machine check reaches core `n`, is counted as lost there, or goes to the tailstock (R433, R434). -/
def deliverCheck (m : MachineCheck) (s : State) : State :=
  let s1 := logCheck m.detail m.addr s
  match m.owner with
  | some n =>
    if n < 16 && s.coreRuns n then
      if s.mcrFree n then enterExc n { code := 0x0E, detail := m.detail } (mcrRecord n m s1)
      else countUpFld (Reg.MCR_INFO n) 23 16 s1
    else raiseTs 29 s1
  | none => raiseTs 29 s1

/-- The oldest machine check on its way; one to a core whose pipe a load holds waits. -/
def machineCheckEff (s : State) : State :=
  match s.checks with
  | [] => s
  | m :: r =>
    let held : Bool := match m.owner with | some n => (s.core n).held.isSome | none => false
    if held then s else deliverCheck m { s with checks := r }

def execMachineCheck (s : State) : Out := .next (if s.sys.powerGood then machineCheckEff s else s)

end Sys2Proof.Machine
end

