-- ==== Sys2Proof/Machine/Isa.lean ====
section
/-! DEFINITION. Ivson: arithmetic, logic, bit fields, program flow, hardware loops, control registers, exceptions raised on
purpose and reserved words (R204 to R226, R233). -/

namespace Sys2Proof.Machine

/-! ### Arithmetic, logic and conditions (R211 to R213) -/

/-- gd = f ga gb. -/
def alu (c gd ga gb : Nat) (f : Word → Word → Word) (s : State) : State :=
  issue c .plain (fun s => .next (setGreg c gd (f (s.greg c ga) (s.greg c gb)) s)) s

/-- gd = f ga v, v from the instruction. -/
def aluImm (c gd ga : Nat) (f : Word → Word) (s : State) : State :=
  issue c .plain (fun s => .next (setGreg c gd (f (s.greg c ga)) s)) s

/-- A condition as a value (R211). -/
def condWord (b : Bool) : Word := if b then 1 else 0

/-- The quotient and remainder of R212. -/
def divWord (a b : Word) : Word := if b = 0 then 0xFFFFFFFF else intWord (a.toInt.tdiv b.toInt)
def divuWord (a b : Word) : Word := if b = 0 then 0xFFFFFFFF else toWord (a.toNat / b.toNat)
def modWord (a b : Word) : Word := if b = 0 then a else intWord (a.toInt.tmod b.toInt)
def moduWord (a b : Word) : Word := if b = 0 then a else toWord (a.toNat % b.toNat)

/-- Zero bits above the highest set bit (R222). -/
def clzWord (a : Word) : Word := toWord (((List.range 32).find? fun i => bitAt a (31 - i)).getD 32)

def sext16 (v : BitVec 16) : Word := v.signExtend 32
def zext16 (v : BitVec 16) : Word := v.zeroExtend 32

def execAdd (c : Fin 17) (gd ga gb : Fin 32) (s : State) : Out := .next (alu c gd ga gb (fun a b => a + b) s)
def execSub (c : Fin 17) (gd ga gb : Fin 32) (s : State) : Out := .next (alu c gd ga gb (fun a b => a - b) s)
def execAndOp (c : Fin 17) (gd ga gb : Fin 32) (s : State) : Out := .next (alu c gd ga gb (fun a b => a &&& b) s)
def execOrOp (c : Fin 17) (gd ga gb : Fin 32) (s : State) : Out := .next (alu c gd ga gb (fun a b => a ||| b) s)
def execXor (c : Fin 17) (gd ga gb : Fin 32) (s : State) : Out := .next (alu c gd ga gb (fun a b => a ^^^ b) s)
def execOrn (c : Fin 17) (gd ga gb : Fin 32) (s : State) : Out := .next (alu c gd ga gb (fun a b => a ||| ~~~b) s)
def execLt (c : Fin 17) (gd ga gb : Fin 32) (s : State) : Out := .next (alu c gd ga gb (fun a b => condWord (a.slt b)) s)
def execLtu (c : Fin 17) (gd ga gb : Fin 32) (s : State) : Out := .next (alu c gd ga gb (fun a b => condWord (a.ult b)) s)
def execEq (c : Fin 17) (gd ga gb : Fin 32) (s : State) : Out := .next (alu c gd ga gb (fun a b => condWord (a == b)) s)
def execNe (c : Fin 17) (gd ga gb : Fin 32) (s : State) : Out := .next (alu c gd ga gb (fun a b => condWord (a != b)) s)
def execMin (c : Fin 17) (gd ga gb : Fin 32) (s : State) : Out :=
  .next (alu c gd ga gb (fun a b => if a.slt b then a else b) s)
def execMax (c : Fin 17) (gd ga gb : Fin 32) (s : State) : Out :=
  .next (alu c gd ga gb (fun a b => if a.slt b then b else a) s)
def execSll (c : Fin 17) (gd ga gb : Fin 32) (s : State) : Out :=
  .next (alu c gd ga gb (fun a b => a <<< (b.toNat % 32)) s)
def execSrl (c : Fin 17) (gd ga gb : Fin 32) (s : State) : Out :=
  .next (alu c gd ga gb (fun a b => a >>> (b.toNat % 32)) s)
def execSra (c : Fin 17) (gd ga gb : Fin 32) (s : State) : Out :=
  .next (alu c gd ga gb (fun a b => a.sshiftRight (b.toNat % 32)) s)
def execRor (c : Fin 17) (gd ga gb : Fin 32) (s : State) : Out :=
  .next (alu c gd ga gb (fun a b => a.rotateRight (b.toNat % 32)) s)
def execSlli (c : Fin 17) (gd ga n : Fin 32) (s : State) : Out := .next (aluImm c gd ga (fun a => a <<< n.val) s)
def execSrli (c : Fin 17) (gd ga n : Fin 32) (s : State) : Out := .next (aluImm c gd ga (fun a => a >>> n.val) s)
def execSrai (c : Fin 17) (gd ga n : Fin 32) (s : State) : Out := .next (aluImm c gd ga (fun a => a.sshiftRight n.val) s)
def execRori (c : Fin 17) (gd ga n : Fin 32) (s : State) : Out := .next (aluImm c gd ga (fun a => a.rotateRight n.val) s)
def execMul (c : Fin 17) (gd ga gb : Fin 32) (s : State) : Out := .next (alu c gd ga gb (fun a b => a * b) s)
def execMulhi (c : Fin 17) (gd ga gb : Fin 32) (s : State) : Out :=
  .next (alu c gd ga gb (fun a b => intWord (a.toInt * b.toInt / 2 ^ 32)) s)
def execMulhiu (c : Fin 17) (gd ga gb : Fin 32) (s : State) : Out :=
  .next (alu c gd ga gb (fun a b => toWord (a.toNat * b.toNat / 2 ^ 32)) s)
def execDiv (c : Fin 17) (gd ga gb : Fin 32) (s : State) : Out := .next (alu c gd ga gb divWord s)
def execDivu (c : Fin 17) (gd ga gb : Fin 32) (s : State) : Out := .next (alu c gd ga gb divuWord s)
def execMod (c : Fin 17) (gd ga gb : Fin 32) (s : State) : Out := .next (alu c gd ga gb modWord s)
def execModu (c : Fin 17) (gd ga gb : Fin 32) (s : State) : Out := .next (alu c gd ga gb moduWord s)
def execClz (c : Fin 17) (gd ga : Fin 32) (s : State) : Out := .next (aluImm c gd ga clzWord s)

def execAddi (c : Fin 17) (gd ga : Fin 32) (imm : BitVec 16) (s : State) : Out :=
  .next (aluImm c gd ga (fun a => a + sext16 imm) s)
def execAndi (c : Fin 17) (gd ga : Fin 32) (imm : BitVec 16) (s : State) : Out :=
  .next (aluImm c gd ga (fun a => a &&& zext16 imm) s)
def execOri (c : Fin 17) (gd ga : Fin 32) (imm : BitVec 16) (s : State) : Out :=
  .next (aluImm c gd ga (fun a => a ||| zext16 imm) s)
def execXori (c : Fin 17) (gd ga : Fin 32) (imm : BitVec 16) (s : State) : Out :=
  .next (aluImm c gd ga (fun a => a ^^^ zext16 imm) s)
def execLti (c : Fin 17) (gd ga : Fin 32) (imm : BitVec 16) (s : State) : Out :=
  .next (aluImm c gd ga (fun a => condWord (a.slt (sext16 imm))) s)
def execLtiu (c : Fin 17) (gd ga : Fin 32) (imm : BitVec 16) (s : State) : Out :=
  .next (aluImm c gd ga (fun a => condWord (a.ult (sext16 imm))) s)
def execEqi (c : Fin 17) (gd ga : Fin 32) (imm : BitVec 16) (s : State) : Out :=
  .next (aluImm c gd ga (fun a => condWord (a == sext16 imm)) s)
def execNei (c : Fin 17) (gd ga : Fin 32) (imm : BitVec 16) (s : State) : Out :=
  .next (aluImm c gd ga (fun a => condWord (a != sext16 imm)) s)
def execLhi (c : Fin 17) (gd : Fin 32) (imm : BitVec 16) (s : State) : Out :=
  .next (aluImm c gd 0 (fun _ => zext16 imm <<< 16) s)

/-! ### Bit fields and permutes (R220, R221, R223) -/

/-- The width of the field: `len + 1` bits from `pos`, cut at bit 31. -/
def fieldWidth (pos len : Nat) : Nat := min (len + 1) (32 - pos)

def bfxWord (sgn : Bool) (pos len : Nat) (a : Word) : Word :=
  let w := fieldWidth pos len
  let v := a.toNat / 2 ^ pos % 2 ^ w
  if sgn then intWord (signedOf w v) else toWord v

def bfiWord (pos len : Nat) (a d : Word) : Word :=
  let m : Word := toWord ((2 ^ fieldWidth pos len - 1) * 2 ^ pos)
  (d &&& ~~~m) ||| ((a <<< pos) &&& m)

/-- Byte `i` of PERM's result. -/
def permByte (sel : BitVec 16) (a d : Word) (i : Nat) : Nat :=
  let n := sel.toNat / 2 ^ (4 * i) % 16
  if 8 ≤ n then 0
  else if n < 4 then a.toNat / 2 ^ (8 * n) % 256
  else d.toNat / 2 ^ (8 * (n - 4)) % 256

def permWord (sel : BitVec 16) (a d : Word) : Word :=
  toWord (permByte sel a d 0 + permByte sel a d 1 * 2 ^ 8 + permByte sel a d 2 * 2 ^ 16 + permByte sel a d 3 * 2 ^ 24)

def execBfx (c : Fin 17) (gd ga : Fin 32) (sgn : Bool) (pos len : Fin 32) (s : State) : Out :=
  .next (aluImm c gd ga (bfxWord sgn pos len) s)
def execBfi (c : Fin 17) (gd ga : Fin 32) (pos len : Fin 32) (s : State) : Out :=
  .next (alu c gd ga gd (bfiWord pos len) s)
def execPerm (c : Fin 17) (gd ga : Fin 32) (sel : BitVec 16) (s : State) : Out := .next (alu c gd ga gd (permWord sel) s)

/-! ### Program flow (R211, R214) -/

/-- The target of a relative branch at `pc`: pc + 4 + 4 sext(off). -/
def relTarget (pc off : Word) : Word := pc + 4 + 4 * off

/-- The address after the delay slot of the present instruction. -/
def State.linkAddr (s : State) (c : Nat) : Word := (s.core c).pc + 8

def branchIf (c ga : Nat) (off : BitVec 21) (zero : Bool) (s : State) : State :=
  issue c .branch (fun s =>
    .branch (if decide (s.greg c ga = 0) = zero then some (relTarget (s.core c).pc (off.signExtend 32)) else none) s) s

def execBz (c : Fin 17) (ga : Fin 32) (off : BitVec 21) (s : State) : Out := .next (branchIf c ga off true s)
def execBnz (c : Fin 17) (ga : Fin 32) (off : BitVec 21) (s : State) : Out := .next (branchIf c ga off false s)

def execJump (c : Fin 17) (off : BitVec 26) (s : State) : Out :=
  .next (issue c .branch (fun s => .branch (some (relTarget (s.core c).pc (off.signExtend 32))) s) s)

def execCall (c : Fin 17) (gd : Fin 32) (off : BitVec 21) (s : State) : Out :=
  .next (issue c .branch (fun s =>
    .branch (some (relTarget (s.core c).pc (off.signExtend 32))) (setGreg c gd (s.linkAddr c) s)) s)

def execJmpr (c : Fin 17) (ga : Fin 32) (s : State) : Out :=
  .next (issue c .branch (fun s => .branch (some (s.greg c ga)) s) s)

def execCallr (c : Fin 17) (gd ga : Fin 32) (s : State) : Out :=
  .next (issue c .branch (fun s => .branch (some (s.greg c ga)) (setGreg c gd (s.linkAddr c) s)) s)

/-! ### Hardware loops (R224, R226) -/

/-- Does the loop to be set up nest an active level inside itself with an LEND beyond the present one (R226)? -/
def State.badNest (s : State) (c level : Nat) (lend : Word) : Bool :=
  let pc := (s.core c).pc
  s.loopBack c && decide (s.cr c (crLCOUNT level) ≠ 0 ∧ (s.cr c (crLSTART level)).toNat ≤ pc.toNat ∧
    pc.toNat ≤ (s.cr c (crLEND level)).toNat ∧ (s.cr c (crLEND level)).toNat < lend.toNat)

/-- Set up a level: `stop` words on, `count` passes; level 3 and stop 0 are reserved. -/
def loopSetUp (c level stop : Nat) (count : Word) (s : State) : Res :=
  let pc := (s.core c).pc
  let lend := pc + toWord (4 * stop)
  if level = 3 ∨ stop = 0 then reserved s
  else if s.badNest c level lend then .lost s
  else
    let s1 := setCr c (crLSTART level) (pc + 4) (setCr c (crLEND level) lend (setCr c (crLCOUNT level) count s))
    if count = 0 then .goto (lend + 4) s1 else .next s1

def execLoop (c : Fin 17) (level : Fin 4) (ga : Fin 32) (stop : BitVec 16) (s : State) : Out :=
  .next (issue c .loop (fun s => loopSetUp c level stop.toNat (s.greg c ga) s) s)

def execLoopi (c : Fin 17) (level : Fin 4) (count stop : BitVec 12) (s : State) : Out :=
  .next (issue c .loop (fun s => loopSetUp c level stop.toNat (count.zeroExtend 32) s) s)

/-! ### Control registers (R205, R207) -/

/-- A control register by its number: unlisted ones are reserved, S registers privileged. -/
def withCr (c n : Nat) (body : State → Res) (s : State) : Res :=
  if !crListed c n then reserved s
  else if crSupervisor n && !s.supervisor c then .raise { code := 8 } s
  else body s

def execCrd (c : Fin 17) (gd : Fin 32) (cr : BitVec 16) (s : State) : Out :=
  .next (issue c .plain (fun s =>
    withCr c cr.toNat (fun s => .next (setGreg c gd (readCr c cr.toNat s).1 (readCr c cr.toNat s).2)) s) s)

/-- A write enters the shadow: it takes effect for the fourth instruction after it. -/
def cwrBody (c n ga : Nat) (s : State) : Res :=
  .next (s.setCore c { s.core c with shadow := (s.core c).shadow ++ [{ left := 4, cr := n, value := s.greg c ga }] })

def execCwr (c : Fin 17) (cr : BitVec 16) (ga : Fin 32) (s : State) : Out :=
  .next (issue c .plain (fun s => withCr c cr.toNat (cwrBody c cr.toNat ga) s) s)

/-! ### Exceptions on purpose, waiting (R211) -/

def execTrap (c : Fin 17) (_code : BitVec 15) (s : State) : Out :=
  .next (issue c .plain (fun s => .raise { code := 0x0A } s) s)
def execBkpt (c : Fin 17) (_code : BitVec 15) (s : State) : Out :=
  .next (issue c .plain (fun s => .raise { code := 0x0B } s) s)

/-- WAIT completes, and the core executes nothing more until an interrupt is presented. -/
def waitBody (c : Nat) (s : State) : Res :=
  .next (s.setCore c { s.core c with waiting := !s.interruptPresented c })

def execWait (c : Fin 17) (s : State) : Out := .next (issue c .wait (privileged c (waitBody c)) s)

/-! ### Return from exception (R250) -/

/-- The parts of 24 bytes of the frame, as loads. -/
def frameLoads (c : Nat) (sp : Word) : Nat → State → Except Exc (List (Nat × Nat × MemType)) × State
  | 0, s => (.ok [], s)
  | k + 1, s =>
    let x := checkAccess c sp 8 .load s
    match x.1 with
    | .error e => (.error e, x.2)
    | .ok ps =>
      let y := frameLoads c (sp + 8) k x.2
      match y.1 with
      | .ok qs => (.ok (physParts ps ++ qs), y.2)
      | .error e => (.error e, y.2)

/-- Word `i` of the frame's bytes. -/
def wordAt (bs : List Byte) (i : Nat) : Word := toWord (ofLeBytes ((bs.drop (4 * i)).take 4))

/-- STATUS from ESTATUS, on at EPC and then ENPC, the exception registers and g30 from the frame. -/
def retxWith (c : Nat) (bs : List Byte) (s : State) : Res :=
  let pc := s.cr c crEPC
  let npc := s.cr c crENPC
  let slot := bitAt (s.cr c crECAUSE) 7
  let s1 := setCr c crSTATUS (s.cr c crESTATUS) s
  let s2 := setCr c crEPC (wordAt bs 0) (setCr c crENPC (wordAt bs 1) (setCr c crESTATUS (wordAt bs 2 &&& crMask crESTATUS)
    (setCr c crECAUSE (wordAt bs 3 &&& crMask crECAUSE) (setCr c crEADDR (wordAt bs 4) s1))))
  .resume pc npc slot (setGreg c 30 (wordAt bs 5) s2)

def retxBody (c : Nat) (s : State) : Res :=
  let x := frameLoads c (s.greg c 30) 3 s
  match x.1 with
  | .error e => .raise e x.2
  | .ok ps =>
    let s1 := ps.foldl (fun s p => drainOverlap c p.1 p.2.1 s) x.2
    let r := readParts c ps s1
    match r.1 with
    | .bytes bs => retxWith c bs r.2
    | .fails o d a =>
      let f := takeFree 192 r.2
      if o = some c ∧ c < 16 then
        if r.2.mcrFree c then
          .raise { code := 0x0E, detail := d }
            (mcrRecord c { owner := o, detail := d, addr := a, precise := true } (logCheck d a r.2))
        else retxWith c (leBytes 24 f.1.toNat) (logCheck d a (countUpFld (Reg.MCR_INFO c) 23 16 f.2))
      else retxWith c (leBytes 24 f.1.toNat) (postCheck o d a f.2)

def execRetx (c : Fin 17) (s : State) : Out := .next (issue c .ret (privileged c (retxBody c)) s)

/-! ### Reserved words (R208 to R210, R227, R230) -/

/-- A reserved word raises its exception; a word that is none stands for another command, and nothing happens here. -/
def execReservedInstruction (c : Fin 17) (w : Word) (s : State) : Out :=
  .next (match wordFault c w with
    | some k => issue c .plain (fun s => .raise { code := k } s) s
    | none => s)

end Sys2Proof.Machine
end

