-- ==== Sys2Proof/Machine/IsaMem.lean ====
section
/-! DEFINITION. Ivson: loads and stores, reservations, cache operations, barriers, the long instructions and the
coprocessors (R89, R147, R216 to R219, R227 to R232). -/

namespace Sys2Proof.Machine

/-! ### LD and ST (R216) -/

def sizeBytes : AccessSize → Nat
  | .byte => 1
  | .half => 2
  | .word => 4

/-- The address of an access, and what its base becomes. -/
def accessVa (base : Word) (off : BitVec 12) (upd : Bool) : Word := if upd then base else base + off.signExtend 32

def ldBody (c gt ga : Nat) (off : BitVec 12) (size : AccessSize) (sgn upd : Bool) (s : State) : Res :=
  let base := s.greg c ga
  let va := accessVa base off upd
  let x := checkAccess c va (sizeBytes size) .load s
  match x.1 with
  | .error e => .raise e x.2
  | .ok ps =>
    loadStart c
      { dest := gt, size := sizeBytes size, signed := sgn, parts := physParts ps, va := va
        update := if upd && decide (gt ≠ ga) then some (ga, base + off.signExtend 32) else none } x.2

def execLd (c : Fin 17) (gt ga : Fin 32) (off : BitVec 12) (size : AccessSize) (sgn upd : Bool) (s : State) : Out :=
  .next (issue c .plain (ldBody c gt ga off size sgn upd) s)

def stBody (c gt ga : Nat) (off : BitVec 12) (size : AccessSize) (upd : Bool) (s : State) : Res :=
  let base := s.greg c ga
  let va := accessVa base off upd
  let x := checkAccess c va (sizeBytes size) .store s
  match x.1 with
  | .error e => .raise e x.2
  | .ok ps =>
    let s1 := storeParts c ps (leBytes (sizeBytes size) (s.greg c gt).toNat) x.2
    .next (if upd then setGreg c ga (base + off.signExtend 32) s1 else s1)

def execSt (c : Fin 17) (gt ga : Fin 32) (off : BitVec 12) (size : AccessSize) (upd : Bool) (s : State) : Out :=
  .next (issue c .plain (stBody c gt ga off size upd) s)

/-! ### LLW and SCW (R218) -/

/-- The checks that both share: alignment in any region, translation, the device region and other bus errors. -/
def reservedCheck (c : Nat) (va : Word) (acc : Access) (s : State) : Except Exc (Nat × MemType) × State :=
  if va.toNat % 4 ≠ 0 then (.error { code := 5, eaddr := va }, s)
  else
    let x := checkAccess c va 4 acc s
    match x.1 with
    | .error e => (.error e, x.2)
    | .ok ps =>
      match ps with
      | (_, a, _, t) :: _ =>
        if decide (t = .device) && inDevice a || x.2.partLost c a then (.error { code := 6, eaddr := va }, x.2)
        else (.ok (a, t), x.2)
      | [] => (.error { code := 6, eaddr := va }, x.2)

/-- The reserved load acts at L2, past L1; a later one takes the earlier reservation. -/
def llwBody (c gd ga : Nat) (s : State) : Res :=
  let va := s.greg c ga
  let x := reservedCheck c va .load s
  match x.1 with
  | .error e => .raise e x.2
  | .ok (a, _) =>
    let s1 := drainOverlap c a 4 (x.2.setCore c { x.2.core c with resv := none })
    loadStart c { dest := gd, size := 4, signed := false, parts := [(a, 4, .uncached)], va := va, update := none
                  reserve := true } s1

def execLlw (c : Fin 17) (gd ga : Fin 32) (s : State) : Out := .next (issue c .plain (llwBody c gd ga) s)

/-- The conditional store: 1 and the store where the reservation is held, whatever its granule, else 0; the reservation is
cleared either way (R218). -/
def scwBody (c gd ga gb : Nat) (s : State) : Res :=
  let va := s.greg c ga
  let x := reservedCheck c va .store s
  match x.1 with
  | .error e => .raise e x.2
  | .ok (a, _) =>
    let s1 := drainOverlap c a 4 x.2
    let held : Bool := (s1.core c).resv.isSome
    let s2 := s1.setCore c { s1.core c with resv := none }
    .next (if held then setGreg c gd 1 (memWrite (some c) a (leBytes 4 (s.greg c gb).toNat) s2) else setGreg c gd 0 s2)

def execScw (c : Fin 17) (gd ga gb : Fin 32) (s : State) : Out := .next (issue c .plain (scwBody c gd ga gb) s)

/-! ### CACHE, FENCE, SYNC (R219) -/

/-- A cache operation on the line of an address that translates; older stores to the line reach it first. -/
def cacheOp (c ga : Nat) (off : BitVec 12) (f : Nat → State → State) (s : State) : Res :=
  let va := s.greg c ga + off.signExtend 32
  let x := checkAccess c va 1 .load s
  match x.1 with
  | .error e => .raise e x.2
  | .ok ps =>
    match ps with
    | (_, a, _, _) :: _ => .next (f a (drainOverlap c (a / 64 * 64) 64 x.2))
    | [] => .next x.2

def execCacheClean (c : Fin 17) (ga : Fin 32) (off : BitVec 12) (s : State) : Out :=
  .next (issue c .plain (cacheOp c ga off (l1Clean c)) s)

def execCacheInvalidate (c : Fin 17) (ga : Fin 32) (off : BitVec 12) (s : State) : Out :=
  .next (issue c .plain (privileged c (cacheOp c ga off (dropLine c))) s)

def execCacheCleanInvalidate (c : Fin 17) (ga : Fin 32) (off : BitVec 12) (s : State) : Out :=
  .next (issue c .plain (cacheOp c ga off (fun a s => dropLine c a (l1Clean c a s))) s)

/-- The instruction line is dropped. -/
def dropInstrLine (c a : Nat) (s : State) : State :=
  s.setCore c { s.core c with l1i := (s.core c).l1i.filter fun x => decide (x ≠ a / 64 * 64) }

def execCacheInvalidateI (c : Fin 17) (ga : Fin 32) (off : BitVec 12) (s : State) : Out :=
  .next (issue c .plain (cacheOp c ga off (dropInstrLine c)) s)

/-- Prefetch: cached memory that translates and reads well is filled; anything else is dropped without an exception. -/
def prefetchBody (c ga : Nat) (off : BitVec 12) (s : State) : Res :=
  let x := checkAccess c (s.greg c ga + off.signExtend 32) 1 .load s
  match x.1 with
  | .ok ((_, a, _, t) :: _) =>
    .next (if decide (t = .cached) && !x.2.readsPoison (a / 64 * 64) 64 then l1Fill c a x.2 else x.2)
  | .ok [] => .next x.2
  | .error _ => .next x.2

def execCachePrefetch (c : Fin 17) (ga : Fin 32) (off : BitVec 12) (s : State) : Out :=
  .next (issue c .plain (prefetchBody c ga off) s)

def execFence (c : Fin 17) (s : State) : Out := .next (issue c .plain (fun s => .next (drainAll c s)) s)

def execSync (c : Fin 17) (s : State) : Out :=
  .next (issue c .plain (fun s => .next (l1CleanAll c (drainAll c s))) s)

/-! ### XFER and CRCB (R227 to R229) -/

/-- The parts of a unit: cut at 8-byte boundaries. -/
def unitParts : Nat → Word → Nat → List (Word × Nat)
  | 0, _, _ => []
  | k + 1, va, n =>
    if n = 0 then []
    else
      let m := min n (8 - va.toNat % 8)
      (va, m) :: unitParts k (va + toWord m) (n - m)

/-- Check an operand's unit: a translation fault, then the device region or another bus error; each names the unit's
lowest byte (R228, R247). -/
def unitTranslate (c : Nat) (va : Word) (n : Nat) (acc : Access) (s : State) :
    Except Exc (List (Word × Nat × Translated)) × State :=
  let ts := translateParts c acc (unitParts 3 va n) s
  match firstFault acc ts.1 false with
  | some e => (.error { e with upper := false, eaddr := va }, ts.2)
  | none => (.ok ts.1, ts.2)

def State.unitBus (s : State) (c : Nat) (va : Word) (acc : Access) (ps : List (Word × Nat × Translated)) : Option Exc :=
  let dev := ps.any fun p => match p.2.2 with
    | .ok (pa, _) => inDevice pa
    | .error _ => false
  if dev || (s.firstBusFault c acc ps false).isSome then some { code := 6, eaddr := va } else none

/-- What a unit reads, older stores to it having drained. -/
def readUnit (c : Nat) (ps : List (Nat × Nat × MemType)) (s : State) : Found × State :=
  readParts c ps (ps.foldl (fun s p => drainOverlap c p.1 p.2.1 s) s)

/-- The addresses of a unit's bytes. -/
def unitAddrs (ps : List (Nat × Nat × MemType)) : List Nat := ps.flatMap fun p => (List.range p.2.1).map (p.1 + ·)

/-- The bytes that a byte-by-byte copy in ascending order brings, where source and destination overlap: `done` holds the
bytes written so far by address. -/
def copyBytes : List Nat → List Nat → List Byte → List (Nat × Byte) → List Byte
  | a :: as, d :: ds, b :: bs, done =>
    let v := match done.find? fun x => decide (x.1 = a) with
      | some x => x.2
      | none => b
    v :: copyBytes as ds bs ((d, v) :: done)
  | _, _, _, _ => []

/-- A unit that fails detection: a precise machine check to the core whose data it is, else open bytes. -/
def unitFails (c : Nat) (o : Option Nat) (d a n : Nat) (go : List Byte → State → Res) (s : State) : Res :=
  let f := takeFree (8 * n) s
  if o = some c ∧ c < 16 then
    if s.mcrFree c then
      .raise { code := 0x0E, detail := d }
        (mcrRecord c { owner := o, detail := d, addr := a, precise := true } (logCheck d a s))
    else go (leBytes n f.1.toNat) (logCheck d a (countUpFld (Reg.MCR_INFO c) 23 16 f.2))
  else go (leBytes n f.1.toNat) (postCheck o d a f.2)

/-- The bytes of a unit: to the next 16-byte boundary after `a`, to the last of the bytes left, or to a multiple of 4,096
of them, where an execution ends (R228; the last of the three is read from its 4,096 bytes at most, log entry 34). -/
def unitBytes (a left : Word) : Nat :=
  min (min left.toNat (16 - a.toNat % 16)) (if left.toNat % 4096 = 0 then 4096 else left.toNat % 4096)

/-- An execution ends where the bytes left are none or a multiple of 4,096 (R228). -/
def unitEnd (left : Word) (s : State) : Res := if left.toNat % 4096 = 0 then .next s else .stay s

/-- Do the three register fields satisfy R227? -/
def distinct3 (gd ga gb : Nat) : Bool := decide (gd ≠ 0 ∧ ga ≠ 0 ∧ gb ≠ 0 ∧ gd ≠ ga ∧ gd ≠ gb ∧ ga ≠ gb)

/-- One unit of XFER. -/
def xferBody (c gd ga gb : Nat) (s : State) : Res :=
  let d := s.greg c gd
  let a := s.greg c ga
  let left := s.greg c gb
  let n := unitBytes d left
  if !distinct3 gd ga gb then reserved s
  else if left = 0 then .next s
  else
    let x := unitTranslate c a n .load s
    match x.1 with
    | .error e => .raise e x.2
    | .ok src =>
      let y := unitTranslate c d n .store x.2
      match y.1 with
      | .error e => .raise e y.2
      | .ok dst =>
        match y.2.unitBus c a .load src with
        | some e => .raise e y.2
        | none =>
          match y.2.unitBus c d .store dst with
          | some e => .raise e y.2
          | none =>
            let sp := physParts (y.2.resolved c src)
            let dp := y.2.resolved c dst
            let go (bs : List Byte) (s : State) : Res :=
              let out := copyBytes (unitAddrs sp) (unitAddrs (physParts dp)) bs []
              let s1 := storeParts c dp out s
              unitEnd (left - toWord n)
                (setGreg c gb (left - toWord n) (setGreg c ga (a + toWord n) (setGreg c gd (d + toWord n) s1)))
            let r := readUnit c sp y.2
            match r.1 with
            | .bytes bs => go bs r.2
            | .fails o dt k => unitFails c o dt k n go r.2

def execXfer (c : Fin 17) (gd ga gb : Fin 32) (s : State) : Out := .next (issue c .plain (xferBody c gd ga gb) s)

/-- A number's `w` low bits in reverse order. -/
def reflect (w v : Nat) : Nat := (List.range w).foldl (fun r i => r + v / 2 ^ i % 2 * 2 ^ (w - 1 - i)) 0

/-- One byte of CRCB (R229). -/
def crcbByte (w : Nat) (refl : Bool) (poly : Nat) (v : Nat) (b : Byte) : Nat :=
  if refl then
    (List.range 8).foldl (fun v _ => if v % 2 = 1 then (v / 2) ^^^ reflect w poly else v / 2) (v ^^^ b.toNat)
  else
    (List.range 8).foldl (fun v k =>
      let top := (v / 2 ^ (w - 1) + b.toNat / 2 ^ (7 - k)) % 2
      (v * 2 % 2 ^ w) ^^^ (if top = 1 then poly else 0)) v

/-- The check value over bytes; a configuration that is not valid leaves it open (R229). -/
def crcbValue (c : Nat) (v : Word) (bs : List Byte) (s : State) : Word × State :=
  let cfg := s.cr c crCRCCFG
  let w := fieldOf cfg 5 0
  if w < 3 ∨ 32 < w ∨ cfg &&& 0xFFFFFEC0 ≠ 0 then takeFree 32 s
  else
    let poly := (s.cr c crCRCPOLY).toNat % 2 ^ w
    (toWord (bs.foldl (crcbByte w (bitAt cfg 8) poly) (v.toNat % 2 ^ w) % 2 ^ w), s)

/-- One unit of CRCB. -/
def crcbBody (c gd ga gb : Nat) (s : State) : Res :=
  let a := s.greg c ga
  let left := s.greg c gb
  let n := unitBytes a left
  if !distinct3 gd ga gb then reserved s
  else if left = 0 then .next s
  else
    let x := unitTranslate c a n .load s
    match x.1 with
    | .error e => .raise e x.2
    | .ok src =>
      match x.2.unitBus c a .load src with
      | some e => .raise e x.2
      | none =>
        let go (bs : List Byte) (s : State) : Res :=
          let v := crcbValue c (s.greg c gd) bs s
          unitEnd (left - toWord n)
            (setGreg c gb (left - toWord n) (setGreg c ga (a + toWord n) (setGreg c gd v.1 v.2)))
        let r := readUnit c (physParts (x.2.resolved c src)) x.2
        match r.1 with
        | .bytes bs => go bs r.2
        | .fails o dt k => unitFails c o dt k n go r.2

def execCrcb (c : Fin 17) (gd ga gb : Fin 32) (s : State) : Out := .next (issue c .plain (crcbBody c gd ga gb) s)

/-! ### Coprocessor 0 (R230 to R232) -/

/-- The tailstock core has no coprocessors (R210); CP1 and CP2 in user mode need STATUS.cpu (R230). -/
def cop (c : Nat) (open_ : Bool) (body : State → Res) (s : State) : Res :=
  if 16 ≤ c then reserved s
  else if !open_ && !s.supervisor c && !s.copUser c then .raise { code := 8 } s
  else body s

/-- The accumulator (R231). -/
def State.acc (s : State) (c : Nat) : Int := (pairOf (s.cr c crMACC_HI) (s.cr c crMACC_LO)).toInt
def setAcc (c : Nat) (z : Int) (s : State) : State :=
  let d : DWord := BitVec.ofInt 64 z
  setCr c crMACC_LO (lowWord d) (setCr c crMACC_HI (highWord d) s)

/-- CP0_FLAGS.sat is set where a result saturated. -/
def noteSat (c : Nat) (b : Bool) (s : State) : State := if b then setCr c crCP0_FLAGS 1 s else s

/-- Half an LSB added, cut off at 2^31, saturated to 32 bits. -/
def roundQ31 (z : Int) : Int := (z + 2 ^ 30) / 2 ^ 31

/-- gd takes a saturated value. -/
def satResult (c gd : Nat) (z : Int) (s : State) : State :=
  noteSat c (decide (sat32 z ≠ z)) (setGreg c gd (intWord (sat32 z)) s)

def execMacs (c : Fin 17) (ga gb : Fin 32) (s : State) : Out :=
  .next (issue c .plain (cop c true fun s =>
    let z := s.acc c + (s.greg c ga).toInt * (s.greg c gb).toInt
    let r := clampInt (-(2 ^ 63)) (2 ^ 63 - 1) z
    .next (noteSat c (decide (r ≠ z)) (setAcc c r s))) s)

def execMacz (c : Fin 17) (ga gb : Fin 32) (s : State) : Out :=
  .next (issue c .plain (cop c true fun s => .next (setAcc c ((s.greg c ga).toInt * (s.greg c gb).toInt) s)) s)

def execMacr (c : Fin 17) (gd : Fin 32) (s : State) : Out :=
  .next (issue c .plain (cop c true fun s => .next (satResult c gd (roundQ31 (s.acc c)) s)) s)

def execMulq (c : Fin 17) (gd ga gb : Fin 32) (s : State) : Out :=
  .next (issue c .plain (cop c true fun s =>
    .next (satResult c gd (roundQ31 ((s.greg c ga).toInt * (s.greg c gb).toInt)) s)) s)

def execAdds (c : Fin 17) (gd ga gb : Fin 32) (s : State) : Out :=
  .next (issue c .plain (cop c true fun s =>
    .next (satResult c gd ((s.greg c ga).toInt + (s.greg c gb).toInt) s)) s)

def execSubs (c : Fin 17) (gd ga gb : Fin 32) (s : State) : Out :=
  .next (issue c .plain (cop c true fun s =>
    .next (satResult c gd ((s.greg c ga).toInt - (s.greg c gb).toInt) s)) s)

/-- The sine of `a` / 2^32 turns in units of 2^-320, from the fixed-point series. -/
def sinFix (a : Nat) : Int :=
  let m := a % 2 ^ 32
  let r := m % 2 ^ 31
  let q := if 2 ^ 30 < r then 2 ^ 31 - r else r
  let v := if 2 ^ 29 < q then fixCos (2 ^ 30 - q) 32 else fixSin q 32
  if 2 ^ 31 ≤ m then -(v : Int) else (v : Int)

/-- The sine in units of 2^-31, rounded down. -/
def sinQ31 (a : Nat) : Int := sinFix a / 2 ^ 289

/-- An integer within four units of a real number that is `z` (`exact`), or lies between `z` and `z + 1`: which one is
open (R232). -/
def nearValue (z : Int) (exact : Bool) (s : State) : Int × State :=
  let f := (takeFree 8 s).1.toNat
  (if exact then z - 4 + (f % 9 : Nat) else z - 3 + (f % 8 : Nat), (takeFree 8 s).2)

/-- A sine in Q1.31, kept within the format; it is a whole number of units at the quarter turns only. -/
def nearSin (a : Nat) (s : State) : Word × State :=
  let v := nearValue (sinQ31 a) (decide (a % 2 ^ 30 = 0)) s
  (intWord (sat32 v.1), v.2)

/-- Sine and cosine: gd must be even. -/
def sincosBody (c gd ga : Nat) (s : State) : Res :=
  let a := (s.greg c ga).toNat
  if gd % 2 = 1 then reserved s
  else
    let x := nearSin a s
    let y := nearSin (a + 2 ^ 30) x.2
    .next (setGreg c (gd + 1) y.1 (setGreg c gd x.1 y.2))

def execSincos (c : Fin 17) (gd ga : Fin 32) (s : State) : Out :=
  .next (issue c .plain (cop c true (sincosBody c gd ga)) s)

/-- Does the direction of angle `t` / 2^32 turns lie at or before that of (x, y), both within one half turn: is the cross
product of (cos t, sin t) with (x, y) not negative? -/
def notPast (t : Nat) (x y : Int) : Bool := decide (0 ≤ sinFix (t + 2 ^ 30) * y - sinFix t * x)

/-- The angle of (x, y), y not negative, in units of 2^-32 turn, rounded down: found bit by bit from the top. -/
def halfAngle (x y : Int) : Nat → Nat → Nat
  | 0, t => t
  | k + 1, t => halfAngle x y k (if notPast (t + 2 ^ k) x y then t + 2 ^ k else t)

/-- The angle of (x, y), rounded down (R232). -/
def angleOf (x y : Int) : Nat := if 0 ≤ y then halfAngle x y 31 0 else 2 ^ 31 + halfAngle (-x) (-y) 31 0

/-- The directions whose angle is a whole number of units: multiples of an eighth of a turn. -/
def eighthTurn (x y : Int) : Option Nat :=
  let e (k : Nat) : Option Nat := some (k * 2 ^ 29)
  if y = 0 then (if 0 < x then e 0 else e 4)
  else if x = 0 then (if 0 < y then e 2 else e 6)
  else if x = y then (if 0 < x then e 1 else e 5)
  else if x = -y then (if 0 < y then e 3 else e 7)
  else none

/-- ANGLE: (0, 0) gives 0; elsewhere a value within 2^10 units, which is open. -/
def angleBody (c gd ga gb : Nat) (s : State) : Res :=
  let x := (s.greg c ga).toInt
  let y := (s.greg c gb).toInt
  if x = 0 ∧ y = 0 then .next (setGreg c gd 0 s)
  else
    let f := takeFree 16 s
    let v : Int := match eighthTurn x y with
      | some t => (t : Int) - 1024 + ((f.1.toNat % 2049 : Nat) : Int)
      | none => (angleOf x y : Int) - 1023 + ((f.1.toNat % 2048 : Nat) : Int)
    .next (setGreg c gd (intWord v) f.2)

def execAngle (c : Fin 17) (gd ga gb : Fin 32) (s : State) : Out :=
  .next (issue c .plain (cop c true (angleBody c gd ga gb)) s)

/-- MAG: the root of the sum of squares to within four units, which is open. -/
def magBody (c gd ga gb : Nat) (s : State) : Res :=
  let x := (s.greg c ga).toInt
  let y := (s.greg c gb).toInt
  let n := (x * x + y * y).toNat
  let r := natSqrt n
  let v := nearValue r (decide (r * r = n)) s
  .next (setGreg c gd (intWord (clampInt 0 0xFFFFFFFF v.1)) v.2)

def execMag (c : Fin 17) (gd ga gb : Fin 32) (s : State) : Out := .next (issue c .plain (cop c true (magBody c gd ga gb)) s)

/-! ### Coprocessors 1 and 2 (R89, R147, R230) -/

/-- Undefined use of a context: its results are open, and so is gd (R147). -/
def strayLoop (c gd k : Nat) (s : State) : State :=
  let s0 := if k < 384 then s.setCtx k { s.ctx k with spoiled := true } else s
  let s1 := if s.loopOn k && s.loopEnabled k then spoilLoop k s0 else s0
  setGreg c gd (takeFree 32 s1).1 (takeFree 32 s1).2

/-- LPOLL waits until context ga has posted a sample that this core has not taken. -/
def lpollBody (c gd ga : Nat) (s : State) : Res :=
  let k := (s.greg c ga).toNat
  if !s.coreLoop k then .next (strayLoop c gd k s)
  else match s.postedFor k c with
    | some v => .next (setGreg c gd v (takePosted k c s))
    | none => .stay s

def execLpoll (c : Fin 17) (gd ga : Fin 32) (s : State) : Out := .next (issue c .plain (cop c false (lpollBody c gd ga)) s)

/-- LPUT sends u[0] of context ga. -/
def lputBody (c ga gb : Nat) (s : State) : Res :=
  let k := (s.greg c ga).toNat
  if !s.coreLoop k then .next (strayLoop c 0 k s) else .next (lputEff k (s.greg c gb) s)

def execLput (c : Fin 17) (ga gb : Fin 32) (s : State) : Out := .next (issue c .plain (cop c false (lputBody c ga gb)) s)

/-- An operation of CP2: while the operation queue is full the instruction does not issue and is executed again (R89). -/
def cp2 (c gd : Nat) (r : State → Word × State) (s : State) : Res :=
  if (plateAdmit s).1 then
    let x := plateRun r (plateAdmit s).2
    .next (setGreg c gd x.1 x.2)
  else .stay (plateAdmit s).2

/-- PINS: the image at ga in the core's own TCM goes into hole gb. -/
def pinsBody (c gd ga gb : Nat) (s : State) : Res :=
  let va := s.greg c ga
  if va.toNat % 16 ≠ 0 then .raise { code := 5, eaddr := va } s
  else
    let x := translate c va .load s
    match x.1 with
    | .error d => .raise (faultExc .load d false va) x.2
    | .ok (pa, _) =>
      if !x.2.ownLocal c pa then .raise { code := 6, eaddr := va } x.2
      else
        let a := (x.2.region (some c) pa).2
        let go (bs : List Byte) (s : State) : Res :=
          cp2 c gd (plateInsertOp (wordAt bs 0) (wordAt bs 1) (wordAt bs 2) (wordAt bs 3) (s.greg c gb).toNat) s
        let r := readUnit c [(a, 8, .uncached), (a + 8, 8, .uncached)] x.2
        match r.1 with
        | .bytes bs => go bs r.2
        | .fails o d k => unitFails c o d k 16 go r.2

def execPins (c : Fin 17) (gd ga gb : Fin 32) (s : State) : Out :=
  .next (issue c .plain (cop c false (pinsBody c gd ga gb)) s)

/-- PREM: the entry that handle ga names is removed. -/
def premBody (c gd ga : Nat) (s : State) : Res :=
  cp2 c gd (plateRemoveOp (s.greg c ga)) s

def execPrem (c : Fin 17) (gd ga : Fin 32) (s : State) : Out := .next (issue c .plain (cop c false (premBody c gd ga)) s)

end Sys2Proof.Machine
end

