-- ==== Sys2Proof/Machine/Clock.lean ====
section
/-! DEFINITION. One cycle of the clocks, which is what a step does on an empty queue (R15, R34 to R38, R43, R59, R160;
log entry 5). Whatever falls due in time happens by its own command. -/

namespace Sys2Proof.Machine

/-- The 1588 clock of MAC `m` in the next FCLK cycle, in units of 2^-32/3 ns: 2/3 ns at the trimmed rate (R59). Its values
of the last cycles move one on, for the free spindles see it 4 cycles late (R58). -/
def ptpTick (m : Nat) (s : State) : State :=
  let now : Nat := tabGet 0 m s.ptp
  let late := [4, 3, 2, 1].foldl (fun t j => tabSet 0 (2 * j + m) (tabGet 0 (2 * j - 2 + m) t) t) s.ptp
  let rate : Int := if s.bit (Reg.ETH_CTL m) 31 then 2 * (2 ^ 32 + (s.reg (Reg.ETH_PTP_TRIM m)).toInt) else 0
  { s with ptp := tabSet 0 m ((now + rate) % (3 * 2 ^ 96)).toNat late }

/-- What counts on FCLK. -/
def fclkTick (s : State) : State :=
  let s1 := { s with devTimer := s.devTimer + 1 }
  let s2 := forEach s.plate.spoiled spoilPartition (forEach (List.range 64) timerTick s1)
  let s3 := loopsTick (forEach (List.range 154) spindleTick (forEach [0, 1] ptpTick s2))
  aicTick (pinsTick (dacRampTick (forEach (List.range 24) carrierTick s3)))

/-- The SCLK accumulator's share of one cycle, and the whole that is one edge: 32,768 Hz from the crystal, else the 25 MHz
reference divided by 763 (R17); with neither it stands, of which the spec says nothing (DESIGN CHOICE, log entry 68). -/
def State.sclkShare (s : State) : Nat :=
  if s.sys.crystal then 32768 * 763 else if s.sys.reference then 25000000 else 0
def sclkWhole : Nat := 1500000000 * 763

/-- The slow clock, which runs while the always-on domain is powered. -/
def sclkTick (s : State) : State :=
  if !s.sys.powerGood then s
  else
    let n := s.sys.sclkAcc + s.sclkShare
    if n < sclkWhole then { s with sys := { s.sys with sclkAcc := n } }
    else sclkEdge { s with sys := { s.sys with sclkAcc := n - sclkWhole } }

/-- One cycle. -/
def tick (s : State) : State :=
  let s1 := { s with now := s.now + 1, cyc := {} }
  sclkTick (if s1.fclkOn then fclkTick s1 else s1)

end Sys2Proof.Machine
end

