-- ==== Sys2Proof/Machine/Supplies.lean ====
section
/-! DEFINITION. Supplies that fall and return: the banks of R446, and, since R19, R20 and R470 name them and no row of
their own changes them, the PWM banks, VDDA, VDD_CORE and the DRAM supplies (log entry 69). -/

namespace Sys2Proof.Machine

/-- VDDA is lost: every PLL but the tailstock's stops, and no host-port, SGMII or DisplayPort link is up (R19). -/
def vddaLost (s : State) : State :=
  let s1 := forEach [0, 1] (fun p s => if s.linkUp p then portReset p 0 s else s) { s with sys := { s.sys with vdda := false } }
  let s2 := if s1.fclkOn then
      forEach [0, 1] (fun m s => if s.bit (Reg.ETH_CTL m) 31 then linkTo m false s else s)
        (unitPllLost .dram (unitPllLost .video1 (unitPllLost .video0 (unitPllLost .audio s1))))
    else s1
  fclkLostEff s2

/-- A supply is lost. -/
def supplyLost (u : Supply) (s : State) : State :=
  match u with
  | .gpio b => bankLost b s
  | .pwm b => { s with sys := { s.sys with pwmBanks := s.sys.pwmBanks &&& ~~~(1#6 <<< b.val) } }
  | .vdda => vddaLost s
  | .vddCore => coreDomainReset { s with sys := { s.sys with vddCore := false } }
  | .ddr => { s with sys := { s.sys with ddr := false } }

/-- A supply returns: `high` and `levels` are a GPIO bank's voltage and pin levels. -/
def supplyReturn (u : Supply) (high : Bool) (levels : BitVec 16) (s : State) : State :=
  let v := if high then 2 else 1
  match u with
  | .gpio b => if s.fclkOn then bankReturn b v levels s else setSupply b v s
  | .pwm b => { s with sys := { s.sys with pwmBanks := s.sys.pwmBanks ||| (1#6 <<< b.val) } }
  | .vdda => { s with sys := { s.sys with vdda := true } }
  | .vddCore => { s with sys := { s.sys with vddCore := true } }
  | .ddr => { s with sys := { s.sys with ddr := true } }

def execBankSupplyLost (u : Supply) (s : State) : Out := .next (if s.sys.powerGood then supplyLost u s else s)

def execBankSupplyReturn (u : Supply) (high : Bool) (levels : BitVec 16) (s : State) : Out :=
  .next (if s.sys.powerGood then supplyReturn u high levels s else s)

end Sys2Proof.Machine
end

