-- ==== Sys2Proof/Machine/Dispatch.lean ====
section
/-! DEFINITION. The one dispatch: each command of `Instr` to its meaning. -/

namespace Sys2Proof.Machine

/-- The effect of a command on everything but the queue. -/
def exec (i : Instr) (s : State) : Host.Outcome State Fault Refusal :=
  match i with
  | .registerWrite q off size data => Sys2Proof.Machine.execRegisterWrite q off size data s
  | .lowWordRead q off => Sys2Proof.Machine.execLowWordRead q off s
  | .snapshotTrigger values => Sys2Proof.Machine.execSnapshotTrigger values s
  | .sclkWriteEffect idx => Sys2Proof.Machine.execSclkWriteEffect idx s
  | .powerGood straps reference crystal vdda => Sys2Proof.Machine.execPowerGood straps reference crystal vdda s
  | .sysPwrgdFall => Sys2Proof.Machine.execSysPwrgdFall s
  | .fclkLost => Sys2Proof.Machine.execFclkLost s
  | .referenceLost => Sys2Proof.Machine.execReferenceLost s
  | .crystalLost => Sys2Proof.Machine.execCrystalLost s
  | .tclkLost => Sys2Proof.Machine.execTclkLost s
  | .unitPllLost u => Sys2Proof.Machine.execUnitPllLost u s
  | .islandSwitch idx on => Sys2Proof.Machine.execIslandSwitch idx on s
  | .spindleEnable n ctrl => Sys2Proof.Machine.execSpindleEnable n ctrl s
  | .spindleDisable n ctrl => Sys2Proof.Machine.execSpindleDisable n ctrl s
  | .encoderEdge k a b => Sys2Proof.Machine.execEncoderEdge k a b s
  | .hallCodeChange k code => Sys2Proof.Machine.execHallCodeChange k code s
  | .indexPulse k => Sys2Proof.Machine.execIndexPulse k s
  | .spindleTimeout n => Sys2Proof.Machine.execSpindleTimeout n s
  | .spindleCoastExpiry n => Sys2Proof.Machine.execSpindleCoastExpiry n s
  | .observerUpdate ctx phase vel converged => Sys2Proof.Machine.execObserverUpdate ctx phase vel converged s
  | .mainsUpdate ctx phase freq rocof locked => Sys2Proof.Machine.execMainsUpdate ctx phase freq rocof locked s
  | .spnSetPhase n value => Sys2Proof.Machine.execSpnSetPhase n value s
  | .spnOffset n value => Sys2Proof.Machine.execSpnOffset n value s
  | .spindleSourceChange n cpt value => Sys2Proof.Machine.execSpindleSourceChange n cpt value s
  | .spnEpochLo n value => Sys2Proof.Machine.execSpnEpochLo n value s
  | .spnPeriod n value => Sys2Proof.Machine.execSpnPeriod n value s
  | .freeSpindleEpoch n => Sys2Proof.Machine.execFreeSpindleEpoch n s
  | .ptpClockStep mac hi => Sys2Proof.Machine.execPtpClockStep mac hi s
  | .macClockDisabled mac => Sys2Proof.Machine.execMacClockDisabled mac s
  | .compareArm n idx value => Sys2Proof.Machine.execCompareArm n idx value s
  | .compareFire n idx => Sys2Proof.Machine.execCompareFire n idx s
  | .captureTrigger trig => Sys2Proof.Machine.execCaptureTrigger trig s
  | .swTrigger n value => Sys2Proof.Machine.execSwTrigger n value s
  | .timerWrap t => Sys2Proof.Machine.execTimerWrap t s
  | .timerCompare t => Sys2Proof.Machine.execTimerCompare t s
  | .gtCount t value => Sys2Proof.Machine.execGtCount t value s
  | .plateInsert q => Sys2Proof.Machine.execPlateInsert q s
  | .plateRemove q => Sys2Proof.Machine.execPlateRemove q s
  | .plateAlloc q => Sys2Proof.Machine.execPlateAlloc q s
  | .plateWrite q => Sys2Proof.Machine.execPlateWrite q s
  | .plateRelease q => Sys2Proof.Machine.execPlateRelease q s
  | .plateFetch q => Sys2Proof.Machine.execPlateFetch q s
  | .plateProbe q => Sys2Proof.Machine.execPlateProbe q s
  | .plateStoreWriteDone hole => Sys2Proof.Machine.execPlateStoreWriteDone hole s
  | .entryDue idx => Sys2Proof.Machine.execEntryDue idx s
  | .entryFire => Sys2Proof.Machine.execEntryFire s
  | .nopAction => Sys2Proof.Machine.execNopAction s
  | .mwrite part target data => Sys2Proof.Machine.execMwrite part target data s
  | .radd part target data => Sys2Proof.Machine.execRadd part target data s
  | .adctrig target data => Sys2Proof.Machine.execAdctrig target data s
  | .dmakick target data => Sys2Proof.Machine.execDmakick target data s
  | .doorbell target => Sys2Proof.Machine.execDoorbell target s
  | .coefswap target data => Sys2Proof.Machine.execCoefswap target data s
  | .dutystep target data => Sys2Proof.Machine.execDutystep target data s
  | .raster target data => Sys2Proof.Machine.execRaster target data s
  | .chain part data => Sys2Proof.Machine.execChain part data s
  | .mark target => Sys2Proof.Machine.execMark target s
  | .holeFetch n => Sys2Proof.Machine.execHoleFetch n s
  | .holeFetchDone hole => Sys2Proof.Machine.execHoleFetchDone hole s
  | .plateRefetch idx which => Sys2Proof.Machine.execPlateRefetch idx which s
  | .retirement => Sys2Proof.Machine.execRetirement s
  | .plateInit value => Sys2Proof.Machine.execPlateInit value s
  | .plateInitDone => Sys2Proof.Machine.execPlateInitDone s
  | .storeLock value => Sys2Proof.Machine.execStoreLock value s
  | .partitionClear n value => Sys2Proof.Machine.execPartitionClear n value s
  | .partitionClearDone n => Sys2Proof.Machine.execPartitionClearDone n s
  | .adcSwtrig adc value => Sys2Proof.Machine.execAdcSwtrig adc value s
  | .adcHold adc code => Sys2Proof.Machine.execAdcHold adc code s
  | .sampleWrite adc => Sys2Proof.Machine.execSampleWrite adc s
  | .channelStale ch => Sys2Proof.Machine.execChannelStale ch s
  | .afeQueue q sector => Sys2Proof.Machine.execAfeQueue q sector s
  | .routeChange adc which value => Sys2Proof.Machine.execRouteChange adc which value s
  | .comparatorActive input => Sys2Proof.Machine.execComparatorActive input s
  | .comparatorInactive input => Sys2Proof.Machine.execComparatorInactive input s
  | .zoneInputAssert k => Sys2Proof.Machine.execZoneInputAssert k s
  | .blankingWindowClose k => Sys2Proof.Machine.execBlankingWindowClose k s
  | .sdDecimation j bits => Sys2Proof.Machine.execSdDecimation j bits s
  | .sdSync j value => Sys2Proof.Machine.execSdSync j value s
  | .sdClkLost j => Sys2Proof.Machine.execSdClkLost j s
  | .sdClkReturn j => Sys2Proof.Machine.execSdClkReturn j s
  | .sdOverrange j => Sys2Proof.Machine.execSdOverrange j s
  | .calStep sector => Sys2Proof.Machine.execCalStep sector s
  | .calDone sector pass => Sys2Proof.Machine.execCalDone sector pass s
  | .calSwap sector => Sys2Proof.Machine.execCalSwap sector s
  | .calSkip sector => Sys2Proof.Machine.execCalSkip sector s
  | .rotate sector value => Sys2Proof.Machine.execRotate sector value s
  | .calReq sector value => Sys2Proof.Machine.execCalReq sector value s
  | .loopStartEvent ctx => Sys2Proof.Machine.execLoopStartEvent ctx s
  | .loopIssue ctx => Sys2Proof.Machine.execLoopIssue ctx s
  | .predictedRunDone ctx => Sys2Proof.Machine.execPredictedRunDone ctx s
  | .sampleConfirm ctx => Sys2Proof.Machine.execSampleConfirm ctx s
  | .recomputeDone ctx => Sys2Proof.Machine.execRecomputeDone ctx s
  | .settleDone ctx => Sys2Proof.Machine.execSettleDone ctx s
  | .sampleTimeout ctx => Sys2Proof.Machine.execSampleTimeout ctx s
  | .loopBank ctx value => Sys2Proof.Machine.execLoopBank ctx value s
  | .loopEnable ctx value => Sys2Proof.Machine.execLoopEnable ctx value s
  | .stateRebuild ctx => Sys2Proof.Machine.execStateRebuild ctx s
  | .carrierPeriod g point => Sys2Proof.Machine.execCarrierPeriod g point s
  | .pwmEdge pair side kind => Sys2Proof.Machine.execPwmEdge pair side kind s
  | .syncRestart event => Sys2Proof.Machine.execSyncRestart event s
  | .valleyDetect g => Sys2Proof.Machine.execValleyDetect g s
  | .valleyWindowEnd g => Sys2Proof.Machine.execValleyWindowEnd g s
  | .pwmCmpa pair side value => Sys2Proof.Machine.execPwmCmpa pair side value s
  | .zoneAssert z => Sys2Proof.Machine.execZoneAssert z s
  | .zoneRelease pair => Sys2Proof.Machine.execZoneRelease pair s
  | .tripInPin pin asserted => Sys2Proof.Machine.execTripInPin pin asserted s
  | .tzForce z value => Sys2Proof.Machine.execTzForce z value s
  | .latchedClear z value => Sys2Proof.Machine.execLatchedClear z value s
  | .tripAllN asserted => Sys2Proof.Machine.execTripAllN asserted s
  | .gtripAssert => Sys2Proof.Machine.execGtripAssert s
  | .gtripClear => Sys2Proof.Machine.execGtripClear s
  | .pwmArmReq g value => Sys2Proof.Machine.execPwmArmReq g value s
  | .arm g => Sys2Proof.Machine.execArm g s
  | .safeLock g => Sys2Proof.Machine.execSafeLock g s
  | .disarm g value => Sys2Proof.Machine.execDisarm g value s
  | .plSubmit q => Sys2Proof.Machine.execPlSubmit q s
  | .plCommit q => Sys2Proof.Machine.execPlCommit q s
  | .plDiscard q value => Sys2Proof.Machine.execPlDiscard q value s
  | .plWithdraw q => Sys2Proof.Machine.execPlWithdraw q s
  | .plReplace q => Sys2Proof.Machine.execPlReplace q s
  | .plQuery q => Sys2Proof.Machine.execPlQuery q s
  | .placementDone => Sys2Proof.Machine.execPlacementDone s
  | .quietPoint => Sys2Proof.Machine.execQuietPoint s
  | .quietTimeout => Sys2Proof.Machine.execQuietTimeout s
  | .replaceSwitch => Sys2Proof.Machine.execReplaceSwitch s
  | .add c gd ga gb => Sys2Proof.Machine.execAdd c gd ga gb s
  | .sub c gd ga gb => Sys2Proof.Machine.execSub c gd ga gb s
  | .andOp c gd ga gb => Sys2Proof.Machine.execAndOp c gd ga gb s
  | .orOp c gd ga gb => Sys2Proof.Machine.execOrOp c gd ga gb s
  | .xor c gd ga gb => Sys2Proof.Machine.execXor c gd ga gb s
  | .orn c gd ga gb => Sys2Proof.Machine.execOrn c gd ga gb s
  | .lt c gd ga gb => Sys2Proof.Machine.execLt c gd ga gb s
  | .ltu c gd ga gb => Sys2Proof.Machine.execLtu c gd ga gb s
  | .eq c gd ga gb => Sys2Proof.Machine.execEq c gd ga gb s
  | .ne c gd ga gb => Sys2Proof.Machine.execNe c gd ga gb s
  | .min c gd ga gb => Sys2Proof.Machine.execMin c gd ga gb s
  | .max c gd ga gb => Sys2Proof.Machine.execMax c gd ga gb s
  | .sll c gd ga gb => Sys2Proof.Machine.execSll c gd ga gb s
  | .srl c gd ga gb => Sys2Proof.Machine.execSrl c gd ga gb s
  | .sra c gd ga gb => Sys2Proof.Machine.execSra c gd ga gb s
  | .ror c gd ga gb => Sys2Proof.Machine.execRor c gd ga gb s
  | .slli c gd ga n => Sys2Proof.Machine.execSlli c gd ga n s
  | .srli c gd ga n => Sys2Proof.Machine.execSrli c gd ga n s
  | .srai c gd ga n => Sys2Proof.Machine.execSrai c gd ga n s
  | .rori c gd ga n => Sys2Proof.Machine.execRori c gd ga n s
  | .mul c gd ga gb => Sys2Proof.Machine.execMul c gd ga gb s
  | .mulhi c gd ga gb => Sys2Proof.Machine.execMulhi c gd ga gb s
  | .mulhiu c gd ga gb => Sys2Proof.Machine.execMulhiu c gd ga gb s
  | .div c gd ga gb => Sys2Proof.Machine.execDiv c gd ga gb s
  | .divu c gd ga gb => Sys2Proof.Machine.execDivu c gd ga gb s
  | .mod c gd ga gb => Sys2Proof.Machine.execMod c gd ga gb s
  | .modu c gd ga gb => Sys2Proof.Machine.execModu c gd ga gb s
  | .clz c gd ga => Sys2Proof.Machine.execClz c gd ga s
  | .jmpr c ga => Sys2Proof.Machine.execJmpr c ga s
  | .callr c gd ga => Sys2Proof.Machine.execCallr c gd ga s
  | .llw c gd ga => Sys2Proof.Machine.execLlw c gd ga s
  | .scw c gd ga gb => Sys2Proof.Machine.execScw c gd ga gb s
  | .xfer c gd ga gb => Sys2Proof.Machine.execXfer c gd ga gb s
  | .crcb c gd ga gb => Sys2Proof.Machine.execCrcb c gd ga gb s
  | .fence c => Sys2Proof.Machine.execFence c s
  | .sync c => Sys2Proof.Machine.execSync c s
  | .retx c => Sys2Proof.Machine.execRetx c s
  | .trap c code => Sys2Proof.Machine.execTrap c code s
  | .bkpt c code => Sys2Proof.Machine.execBkpt c code s
  | .wait c => Sys2Proof.Machine.execWait c s
  | .addi c gd ga imm => Sys2Proof.Machine.execAddi c gd ga imm s
  | .andi c gd ga imm => Sys2Proof.Machine.execAndi c gd ga imm s
  | .ori c gd ga imm => Sys2Proof.Machine.execOri c gd ga imm s
  | .xori c gd ga imm => Sys2Proof.Machine.execXori c gd ga imm s
  | .lti c gd ga imm => Sys2Proof.Machine.execLti c gd ga imm s
  | .ltiu c gd ga imm => Sys2Proof.Machine.execLtiu c gd ga imm s
  | .eqi c gd ga imm => Sys2Proof.Machine.execEqi c gd ga imm s
  | .nei c gd ga imm => Sys2Proof.Machine.execNei c gd ga imm s
  | .lhi c gd imm => Sys2Proof.Machine.execLhi c gd imm s
  | .bfx c gd ga sgn pos len => Sys2Proof.Machine.execBfx c gd ga sgn pos len s
  | .bfi c gd ga pos len => Sys2Proof.Machine.execBfi c gd ga pos len s
  | .perm c gd ga sel => Sys2Proof.Machine.execPerm c gd ga sel s
  | .loop c level ga stop => Sys2Proof.Machine.execLoop c level ga stop s
  | .loopi c level count stop => Sys2Proof.Machine.execLoopi c level count stop s
  | .crd c gd cr => Sys2Proof.Machine.execCrd c gd cr s
  | .cwr c cr ga => Sys2Proof.Machine.execCwr c cr ga s
  | .ld c gt ga off size sgn upd => Sys2Proof.Machine.execLd c gt ga off size sgn upd s
  | .st c gt ga off size upd => Sys2Proof.Machine.execSt c gt ga off size upd s
  | .cacheClean c ga off => Sys2Proof.Machine.execCacheClean c ga off s
  | .cacheInvalidate c ga off => Sys2Proof.Machine.execCacheInvalidate c ga off s
  | .cacheCleanInvalidate c ga off => Sys2Proof.Machine.execCacheCleanInvalidate c ga off s
  | .cacheInvalidateI c ga off => Sys2Proof.Machine.execCacheInvalidateI c ga off s
  | .cachePrefetch c ga off => Sys2Proof.Machine.execCachePrefetch c ga off s
  | .bz c ga off => Sys2Proof.Machine.execBz c ga off s
  | .bnz c ga off => Sys2Proof.Machine.execBnz c ga off s
  | .jump c off => Sys2Proof.Machine.execJump c off s
  | .call c gd off => Sys2Proof.Machine.execCall c gd off s
  | .macs c ga gb => Sys2Proof.Machine.execMacs c ga gb s
  | .macz c ga gb => Sys2Proof.Machine.execMacz c ga gb s
  | .macr c gd => Sys2Proof.Machine.execMacr c gd s
  | .mulq c gd ga gb => Sys2Proof.Machine.execMulq c gd ga gb s
  | .adds c gd ga gb => Sys2Proof.Machine.execAdds c gd ga gb s
  | .subs c gd ga gb => Sys2Proof.Machine.execSubs c gd ga gb s
  | .sincos c gd ga => Sys2Proof.Machine.execSincos c gd ga s
  | .angle c gd ga gb => Sys2Proof.Machine.execAngle c gd ga gb s
  | .mag c gd ga gb => Sys2Proof.Machine.execMag c gd ga gb s
  | .lpoll c gd ga => Sys2Proof.Machine.execLpoll c gd ga s
  | .lput c ga gb => Sys2Proof.Machine.execLput c ga gb s
  | .pins c gd ga gb => Sys2Proof.Machine.execPins c gd ga gb s
  | .prem c gd ga => Sys2Proof.Machine.execPrem c gd ga s
  | .interruptLatch c => Sys2Proof.Machine.execInterruptLatch c s
  | .impreciseBusError c => Sys2Proof.Machine.execImpreciseBusError c s
  | .storeBufferDrain c => Sys2Proof.Machine.execStoreBufferDrain c s
  | .loadDataReturn c => Sys2Proof.Machine.execLoadDataReturn c s
  | .tableWalk c va kind => Sys2Proof.Machine.execTableWalk c va kind s
  | .aicDoorbell value => Sys2Proof.Machine.execAicDoorbell value s
  | .aicPdoorbell value => Sys2Proof.Machine.execAicPdoorbell value s
  | .aicClaim q c => Sys2Proof.Machine.execAicClaim q c s
  | .aicEoi q c value => Sys2Proof.Machine.execAicEoi q c value s
  | .groupHoldoffEnd g => Sys2Proof.Machine.execGroupHoldoffEnd g s
  | .tsClaim => Sys2Proof.Machine.execTsClaim s
  | .tsEoi value => Sys2Proof.Machine.execTsEoi value s
  | .tsDoorbell value => Sys2Proof.Machine.execTsDoorbell value s
  | .sbCtl q b value => Sys2Proof.Machine.execSbCtl q b value s
  | .ownerChangeEffect b => Sys2Proof.Machine.execOwnerChangeEffect b s
  | .bankRetention q b value => Sys2Proof.Machine.execBankRetention q b value s
  | .bankWake q b value => Sys2Proof.Machine.execBankWake q b value s
  | .bankAwake b => Sys2Proof.Machine.execBankAwake b s
  | .busyPinRelease port => Sys2Proof.Machine.execBusyPinRelease port s
  | .dramTrainStep r => Sys2Proof.Machine.execDramTrainStep r s
  | .dramTempRead code => Sys2Proof.Machine.execDramTempRead code s
  | .selfRefreshEntry => Sys2Proof.Machine.execSelfRefreshEntry s
  | .selfRefreshExit => Sys2Proof.Machine.execSelfRefreshExit s
  | .iommuInv value => Sys2Proof.Machine.execIommuInv value s
  | .iommuInvDone => Sys2Proof.Machine.execIommuInvDone s
  | .dmaChKick c value => Sys2Proof.Machine.execDmaChKick c value s
  | .descriptorFetchDone c => Sys2Proof.Machine.execDescriptorFetchDone c s
  | .dmaBurst => Sys2Proof.Machine.execDmaBurst s
  | .paceRequest c => Sys2Proof.Machine.execPaceRequest c s
  | .descriptorComplete c => Sys2Proof.Machine.execDescriptorComplete c s
  | .dmaResume c value => Sys2Proof.Machine.execDmaResume c value s
  | .transactionTimeout addr => Sys2Proof.Machine.execTransactionTimeout addr s
  | .dmaRestart value => Sys2Proof.Machine.execDmaRestart value s
  | .conCtl k value => Sys2Proof.Machine.execConCtl k value s
  | .lineLatch k line => Sys2Proof.Machine.execLineLatch k line s
  | .renderJobStart => Sys2Proof.Machine.execRenderJobStart s
  | .renderJobDone pipe => Sys2Proof.Machine.execRenderJobDone pipe s
  | .lineEnterQueue queue => Sys2Proof.Machine.execLineEnterQueue queue s
  | .inlayTableArrived k => Sys2Proof.Machine.execInlayTableArrived k s
  | .conKick k value => Sys2Proof.Machine.execConKick k value s
  | .scroll r data => Sys2Proof.Machine.execScroll r data s
  | .scrollAdd r data => Sys2Proof.Machine.execScrollAdd r data s
  | .layerEn r data => Sys2Proof.Machine.execLayerEn r data s
  | .window r data => Sys2Proof.Machine.execWindow r data s
  | .palette r data => Sys2Proof.Machine.execPalette r data s
  | .backdrop r data => Sys2Proof.Machine.execBackdrop r data s
  | .render r data => Sys2Proof.Machine.execRender r data s
  | .conSqData q queue => Sys2Proof.Machine.execConSqData q queue s
  | .streamFlush queue value => Sys2Proof.Machine.execStreamFlush queue value s
  | .headEnable h value => Sys2Proof.Machine.execHeadEnable h value s
  | .headDisable h value => Sys2Proof.Machine.execHeadDisable h value s
  | .videoPllLock h => Sys2Proof.Machine.execVideoPllLock h s
  | .hdCommit h value => Sys2Proof.Machine.execHdCommit h value s
  | .commitLatch h => Sys2Proof.Machine.execCommitLatch h s
  | .layerRefill h l => Sys2Proof.Machine.execLayerRefill h l s
  | .underrun h l line x => Sys2Proof.Machine.execUnderrun h l line x s
  | .layerFetchFault h l line x n addr => Sys2Proof.Machine.execLayerFetchFault h l line x n addr s
  | .writeBackLine h line late => Sys2Proof.Machine.execWriteBackLine h line late s
  | .psrExit h => Sys2Proof.Machine.execPsrExit h s
  | .linkTrain h value ok psr su gran => Sys2Proof.Machine.execLinkTrain h value ok psr su gran s
  | .hpdPlug h => Sys2Proof.Machine.execHpdPlug h s
  | .hpdUnplug h => Sys2Proof.Machine.execHpdUnplug h s
  | .irqHpd h => Sys2Proof.Machine.execIrqHpd h s
  | .dpAuxCmd h value => Sys2Proof.Machine.execDpAuxCmd h value s
  | .auxReply h r => Sys2Proof.Machine.execAuxReply h r s
  | .auxTimeout h => Sys2Proof.Machine.execAuxTimeout h s
  | .mvSubmit q => Sys2Proof.Machine.execMvSubmit q s
  | .copy => Sys2Proof.Machine.execCopy s
  | .fill => Sys2Proof.Machine.execFill s
  | .blend => Sys2Proof.Machine.execBlend s
  | .keyfill => Sys2Proof.Machine.execKeyfill s
  | .moverRow => Sys2Proof.Machine.execMoverRow s
  | .moverSuspend value => Sys2Proof.Machine.execMoverSuspend value s
  | .moverResume value => Sys2Proof.Machine.execMoverResume value s
  | .moverRestart value => Sys2Proof.Machine.execMoverRestart value s
  | .moverFlush value => Sys2Proof.Machine.execMoverFlush value s
  | .domainSample d pdm tdm => Sys2Proof.Machine.execDomainSample d pdm tdm s
  | .carrierSample => Sys2Proof.Machine.execCarrierSample s
  | .carrierLost => Sys2Proof.Machine.execCarrierLost s
  | .carrierRecover => Sys2Proof.Machine.execCarrierRecover s
  | .keyOn v value => Sys2Proof.Machine.execKeyOn v value s
  | .keyOff v value => Sys2Proof.Machine.execKeyOff v value s
  | .pdmClkLost g => Sys2Proof.Machine.execPdmClkLost g s
  | .pdmStuck m => Sys2Proof.Machine.execPdmStuck m s
  | .tdmSyncLost p => Sys2Proof.Machine.execTdmSyncLost p s
  | .tdmResume p => Sys2Proof.Machine.execTdmResume p s
  | .tdmSlip p => Sys2Proof.Machine.execTdmSlip p s
  | .audRtApply q => Sys2Proof.Machine.execAudRtApply q s
  | .rampDone r => Sys2Proof.Machine.execRampDone r s
  | .audCqData q queue => Sys2Proof.Machine.execAudCqData q queue s
  | .peakMeterRead q out n => Sys2Proof.Machine.execPeakMeterRead q out n s
  | .perst port => Sys2Proof.Machine.execPerst port s
  | .functionLevelReset port => Sys2Proof.Machine.execFunctionLevelReset port s
  | .linkUp port width rate => Sys2Proof.Machine.execLinkUp port width rate s
  | .bar0Request port off req => Sys2Proof.Machine.execBar0Request port off req s
  | .registerTimeout port => Sys2Proof.Machine.execRegisterTimeout port s
  | .bar2Access port off acc other => Sys2Proof.Machine.execBar2Access port off acc other s
  | .hpHostDb port value => Sys2Proof.Machine.execHpHostDb port value s
  | .chkAcquire n qs => Sys2Proof.Machine.execChkAcquire n qs s
  | .chkRelease q n value => Sys2Proof.Machine.execChkRelease q n value s
  | .chkLeaseExpiry port => Sys2Proof.Machine.execChkLeaseExpiry port s
  | .abortLoopContext e ring number => Sys2Proof.Machine.execAbortLoopContext e ring number s
  | .abortPwmGroup e ring number => Sys2Proof.Machine.execAbortPwmGroup e ring number s
  | .abortSpindle e ring number => Sys2Proof.Machine.execAbortSpindle e ring number s
  | .abortPlatePartition e ring number => Sys2Proof.Machine.execAbortPlatePartition e ring number s
  | .abortConsoleContext e ring number => Sys2Proof.Machine.execAbortConsoleContext e ring number s
  | .abort2dMover e ring number => Sys2Proof.Machine.execAbort2dMover e ring number s
  | .abortAudioRoute e ring number => Sys2Proof.Machine.execAbortAudioRoute e ring number s
  | .abortAudioOutput e ring number => Sys2Proof.Machine.execAbortAudioOutput e ring number s
  | .abortDmaChannel e ring number => Sys2Proof.Machine.execAbortDmaChannel e ring number s
  | .abortDone e => Sys2Proof.Machine.execAbortDone e s
  | .dictRead => Sys2Proof.Machine.execDictRead s
  | .dictWrite => Sys2Proof.Machine.execDictWrite s
  | .dictDescribe => Sys2Proof.Machine.execDictDescribe s
  | .dictDone => Sys2Proof.Machine.execDictDone s
  | .transferAbandon index sub => Sys2Proof.Machine.execTransferAbandon index sub s
  | .storeSave who value => Sys2Proof.Machine.execStoreSave who value s
  | .restoreLoad who value => Sys2Proof.Machine.execRestoreLoad who value s
  | .armRequestObject who g value => Sys2Proof.Machine.execArmRequestObject who g value s
  | .hpTsMsg port value => Sys2Proof.Machine.execHpTsMsg port value s
  | .tsReplyWrite port value => Sys2Proof.Machine.execTsReplyWrite port value s
  | .nmtStart node => Sys2Proof.Machine.execNmtStart node s
  | .nmtStop node => Sys2Proof.Machine.execNmtStop node s
  | .nmtPreOperational node => Sys2Proof.Machine.execNmtPreOperational node s
  | .nmtResetNode node => Sys2Proof.Machine.execNmtResetNode node s
  | .nmtResetCommunication node => Sys2Proof.Machine.execNmtResetCommunication node s
  | .heartbeat => Sys2Proof.Machine.execHeartbeat s
  | .usdoRequest write index sub off len data last => Sys2Proof.Machine.execUsdoRequest write index sub off len data last s
  | .tpdo n => Sys2Proof.Machine.execTpdo n s
  | .canFrameReceive c fault ext id data => Sys2Proof.Machine.execCanFrameReceive c fault ext id data s
  | .canTxDone c t => Sys2Proof.Machine.execCanTxDone c t s
  | .busStuck c => Sys2Proof.Machine.execBusStuck c s
  | .busOff c => Sys2Proof.Machine.execBusOff c s
  | .busOffRecover c => Sys2Proof.Machine.execBusOffRecover c s
  | .horanoDatagram m src port dst broken data => Sys2Proof.Machine.execHoranoDatagram m src port dst broken data s
  | .ethFrameReceive m data fcs event => Sys2Proof.Machine.execEthFrameReceive m data fcs event s
  | .sgmiiSyncLost m => Sys2Proof.Machine.execSgmiiSyncLost m s
  | .tsmDictCmd c value => Sys2Proof.Machine.execTsmDictCmd c value s
  | .tsmMsg c value => Sys2Proof.Machine.execTsmMsg c value s
  | .tsmReply c value => Sys2Proof.Machine.execTsmReply c value s
  | .sensorSample k value => Sys2Proof.Machine.execSensorSample k value s
  | .sensorInvalid k => Sys2Proof.Machine.execSensorInvalid k s
  | .journalWrite => Sys2Proof.Machine.execJournalWrite s
  | .norProgramDone r => Sys2Proof.Machine.execNorProgramDone r s
  | .otpProg value => Sys2Proof.Machine.execOtpProg value s
  | .otpProgDone ok => Sys2Proof.Machine.execOtpProgDone ok s
  | .bootRom => Sys2Proof.Machine.execBootRom s
  | .imageWrite who core off data fails => Sys2Proof.Machine.execImageWrite who core off data fails s
  | .imageVerify who value => Sys2Proof.Machine.execImageVerify who value s
  | .imageActivate who value => Sys2Proof.Machine.execImageActivate who value s
  | .imageConfirm who value => Sys2Proof.Machine.execImageConfirm who value s
  | .attestationNonce who nonce => Sys2Proof.Machine.execAttestationNonce who nonce s
  | .quote who off len => Sys2Proof.Machine.execQuote who off len s
  | .debugChallenge who => Sys2Proof.Machine.execDebugChallenge who s
  | .debugResponse who resp => Sys2Proof.Machine.execDebugResponse who resp s
  | .debugLock who value => Sys2Proof.Machine.execDebugLock who value s
  | .debugLevel who value => Sys2Proof.Machine.execDebugLevel who value s
  | .challengeExpiry => Sys2Proof.Machine.execChallengeExpiry s
  | .tamper cause => Sys2Proof.Machine.execTamper cause s
  | .meshCheck intact => Sys2Proof.Machine.execMeshCheck intact s
  | .trngHealthFail => Sys2Proof.Machine.execTrngHealthFail s
  | .trngRecover => Sys2Proof.Machine.execTrngRecover s
  | .telemetryRefresh => Sys2Proof.Machine.execTelemetryRefresh s
  | .machineCheck => Sys2Proof.Machine.execMachineCheck s
  | .mcrInfo q c value => Sys2Proof.Machine.execMcrInfo q c value s
  | .scrubRead u fails => Sys2Proof.Machine.execScrubRead u fails s
  | .cvQueueWrite u r value => Sys2Proof.Machine.execCvQueueWrite u r value s
  | .cvData u => Sys2Proof.Machine.execCvData u s
  | .cvInit u => Sys2Proof.Machine.execCvInit u s
  | .cvAliveIn u => Sys2Proof.Machine.execCvAliveIn u s
  | .cvCheck u => Sys2Proof.Machine.execCvCheck u s
  | .cvStateLo u value => Sys2Proof.Machine.execCvStateLo u value s
  | .pinCfg n value level => Sys2Proof.Machine.execPinCfg n value level s
  | .keeperRelease n => Sys2Proof.Machine.execKeeperRelease n s
  | .filterAccept n level => Sys2Proof.Machine.execFilterAccept n level s
  | .bankSupplyLost u => Sys2Proof.Machine.execBankSupplyLost u s
  | .bankSupplyReturn u high levels => Sys2Proof.Machine.execBankSupplyReturn u high levels s
  | .coreRelease c => Sys2Proof.Machine.execCoreRelease c s
  | .resetRequest who value => Sys2Proof.Machine.execResetRequest who value s
  | .deviceReset => Sys2Proof.Machine.execDeviceReset s
  | .coreDomainReset => Sys2Proof.Machine.execCoreDomainReset s
  | .coreReset c => Sys2Proof.Machine.execCoreReset c s
  | .fabricPllLock => Sys2Proof.Machine.execFabricPllLock s
  | .tailstockPllLock => Sys2Proof.Machine.execTailstockPllLock s
  | .crystalReturn => Sys2Proof.Machine.execCrystalReturn s
  | .comparatorHoldEnd k => Sys2Proof.Machine.execComparatorHoldEnd k s
  | .reservedInstruction c w => Sys2Proof.Machine.execReservedInstruction c w s
  | .pdmClkReturn g => Sys2Proof.Machine.execPdmClkReturn g s
  | .sgmiiSyncGained m => Sys2Proof.Machine.execSgmiiSyncGained m s
  | .busRecessiveReturn c => Sys2Proof.Machine.execBusRecessiveReturn c s
  | .outboundCompletion port tag result => Sys2Proof.Machine.execOutboundCompletion port tag result s
  | .completionTimeout port tag => Sys2Proof.Machine.execCompletionTimeout port tag s
  | .configurationRequest port c => Sys2Proof.Machine.execConfigurationRequest port c s

end Sys2Proof.Machine
end

