-- ==== Sys2Proof/Safety.lean ====
section
/-! DEFINITION. What claims about the block are stated with: a command that completes, the parts of the state that a
command leaves alone, and the one form of the state's tables. -/

namespace Sys2Proof.Machine

/-- Command `c` completes from state `s` in a next state of which `P` holds. -/
def Does (c : Instr) (s : State) (P : State → Prop) : Prop := ∃ t, exec c s = .next t ∧ P t

/-- The parts of the state: the fields of `State`, and three parts within them that the spec's rules name: the part's
variant (R2), the OTP words (R412), and the debug unlock level (R423). -/
inductive Part where
  | pending | freeCtr | cyc | pulses | now | devTimer | regs | resp | shadow | sys | log | spindles | encoders | encSince
  | timers | ptp
  | adcs | channels | comparators | demods | sectors | pairs | groups | tripPins | zonePins | tripAll | plate | loops |
  place | cores | aic | dma | dmaLast | outbound | posted | consoles | conJobs | pipes | streams | liveLines |
  active | mover | heads | audio | bankSupply | keepers | sec | cvs | hosts | dict | canNode | cans | macs |
  aborts | iotlb | sbOld | trainTries | refreshFast | dramTemp | macQueues | busyPins | tsClaimed | mem | nor
  | poison | checks | variant | otp | unlock
  deriving DecidableEq, Repr

/-- Does `t` hold in this part what `s` holds? -/
def SameAt (s t : State) : Part → Prop
  | .pending => t.pending = s.pending
  | .freeCtr => t.freeCtr = s.freeCtr
  | .cyc => t.cyc = s.cyc
  | .pulses => t.pulses = s.pulses
  | .now => t.now = s.now
  | .devTimer => t.devTimer = s.devTimer
  | .regs => t.regs = s.regs
  | .resp => t.resp = s.resp
  | .shadow => t.shadow = s.shadow
  | .sys => t.sys = s.sys
  | .log => t.log = s.log
  | .spindles => t.spindles = s.spindles
  | .encoders => t.encoders = s.encoders
  | .encSince => t.encSince = s.encSince
  | .timers => t.timers = s.timers
  | .ptp => t.ptp = s.ptp
  | .adcs => t.adcs = s.adcs
  | .channels => t.channels = s.channels
  | .comparators => t.comparators = s.comparators
  | .demods => t.demods = s.demods
  | .sectors => t.sectors = s.sectors
  | .pairs => t.pairs = s.pairs
  | .groups => t.groups = s.groups
  | .tripPins => t.tripPins = s.tripPins
  | .zonePins => t.zonePins = s.zonePins
  | .tripAll => t.tripAll = s.tripAll
  | .plate => t.plate = s.plate
  | .loops => t.loops = s.loops
  | .place => t.place = s.place
  | .cores => t.cores = s.cores
  | .aic => t.aic = s.aic
  | .dma => t.dma = s.dma
  | .dmaLast => t.dmaLast = s.dmaLast
  | .outbound => t.outbound = s.outbound
  | .posted => t.posted = s.posted
  | .consoles => t.consoles = s.consoles
  | .conJobs => t.conJobs = s.conJobs
  | .pipes => t.pipes = s.pipes
  | .streams => t.streams = s.streams
  | .liveLines => t.liveLines = s.liveLines
  | .active => t.active = s.active
  | .mover => t.mover = s.mover
  | .heads => t.heads = s.heads
  | .audio => t.audio = s.audio
  | .bankSupply => t.bankSupply = s.bankSupply
  | .keepers => t.keepers = s.keepers
  | .sec => t.sec = s.sec
  | .cvs => t.cvs = s.cvs
  | .hosts => t.hosts = s.hosts
  | .dict => t.dict = s.dict
  | .canNode => t.canNode = s.canNode
  | .cans => t.cans = s.cans
  | .macs => t.macs = s.macs
  | .aborts => t.aborts = s.aborts
  | .iotlb => t.iotlb = s.iotlb
  | .sbOld => t.sbOld = s.sbOld
  | .trainTries => t.trainTries = s.trainTries
  | .refreshFast => t.refreshFast = s.refreshFast
  | .dramTemp => t.dramTemp = s.dramTemp
  | .macQueues => t.macQueues = s.macQueues
  | .busyPins => t.busyPins = s.busyPins
  | .tsClaimed => t.tsClaimed = s.tsClaimed
  | .mem => t.mem = s.mem
  | .nor => t.nor = s.nor
  | .poison => t.poison = s.poison
  | .checks => t.checks = s.checks
  | .variant => t.sys.variant = s.sys.variant
  | .otp => t.sec.otp = s.sec.otp
  | .unlock => t.sec.unlock = s.sec.unlock

/-- `t` differs from `s` in the listed parts at most. -/
def Touches (ps : List Part) (s t : State) : Prop := ∀ p, p ∉ ps → SameAt s t p

end Sys2Proof.Machine
end

