-- ==== Sys2Proof/Certificates/Slice0/Obligations.lean ====
section
/-! DEFINITION. The statements for the provers. Each command has a claim of its own in the namespace `Sys2Proof.Claim`,
which says when it completes, what its next state holds, and what it leaves alone; the obligations group the claims by
the chapters of spec/. A claim ranges over every state, also those no run reaches. -/

open Sys2Proof Sys2Proof.Machine

namespace Sys2Proof.Claim

/-- Every register but the listed ones reads in `t` as in `s`. -/
def Keeps (s t : State) (as : List Nat) : Prop := ∀ a, a ∉ as → t.reg a = s.reg a

/-- The status word of the interrupt group of shared source `src`, which counts deferred interrupts (R271). -/
def groupReg (s : State) (src : Nat) : Nat := Reg.AIC_GRP_STAT (s.fld (Reg.AIC_SRC src) 14 8)

/-- Command `c` changes nothing. -/
def Idle (c : Instr) (s : State) : Prop := exec c s = .next s

/-! ### spec/03: spindles -/

/-- Every spindle but `n` stands in `t` as in `s`, its registers included. -/
def otherSpindles (s t : State) (n : Nat) : Prop := ∀ m < 154, m ≠ n → t.spn m = s.spn m ∧
  t.reg (Reg.SPN_STATUS m) = s.reg (Reg.SPN_STATUS m) ∧ t.reg (Reg.SPN_VEL m) = s.reg (Reg.SPN_VEL m) ∧
  t.reg (Reg.SPN_CTRL m) = s.reg (Reg.SPN_CTRL m)

/-- In `t` spindle `n` is in state `st`, which it was not in `s`: state_change is set, and outside LOCKED and COAST the
running PWM groups locked to it have lost their lock (R54, R66, R161). -/
def spindleEnters (s t : State) (n st : Nat) : Prop :=
  t.fld (Reg.SPN_STATUS n) 31 29 = st ∧ t.bit (Reg.SPN_STATUS n) 10 = true ∧
  (st ≠ 2 → st ≠ 4 → ∀ g < 24, s.bit (Reg.PWM_GRP_CTL g) 31 = true → s.fld (Reg.PWM_SYNC g) 31 30 = 3 →
    s.fld (Reg.PWM_SYNC g) 9 0 = n → t.bit (Reg.PWM_GRP_STATUS g) 7 = true ∧ (t.group g).lockTrip = true)

/-- The position that `t` holds is that of `s` moved by the signed phase difference to phase `p` (R43). -/
def movedTo (s t : State) (n : Nat) (p : Word) : Prop :=
  (t.spn n).pos = (s.spn n).pos + BitVec.ofInt 64 (p - lowWord (s.spn n).pos).toInt ∧
  lowWord (t.spn n).pos = p

/-- The position of a free spindle by R58, for a source of R65. -/
def freePosition (s : State) (n : Nat) : DWord :=
  let tp := s.freePeriod n
  let e := s.freeTime n - s.epoch n
  BitVec.ofNat 64 (e / tp * 2 ^ 32 + e % tp * 2 ^ 32 / tp) + BitVec.ofNat 64 (s.reg (Reg.SPN_OFFSET n)).toNat

/-- In `t` free spindle `n` has been recomputed: LOCKED at the formula's position from the epoch on, ACQUIRE at 0 before
it, a resync in either case (R58). -/
def freeRecomputed (s t : State) (n : Nat) : Prop :=
  (s.epoch n ≤ s.freeTime n → t.fld (Reg.SPN_STATUS n) 31 29 = 2 ∧ (t.spn n).pos = freePosition s n) ∧
  (s.freeTime n < s.epoch n → t.fld (Reg.SPN_STATUS n) 31 29 = 1 ∧ (t.spn n).pos = 0) ∧
  t.bit (Reg.SPN_STATUS n) 15 = true

/-- With SPN_CTRL at `ctrl` every field of spindle `n`'s registers has a value that the spec lists: err_limit is not 0, src
of a shaft or free spindle at most 2, no compare has dir or output 0b11, no capture a reserved trig (R62, R64, R65, R67). -/
def legal (s : State) (n : Nat) (ctrl : Word) : Prop :=
  fieldOf ctrl 19 16 ≠ 0 ∧ (n < 64 ∨ 138 ≤ n → s.fld (Reg.SPN_SRC n) 28 26 ≤ 2) ∧
  (∀ i < 4, s.fld (Reg.SPN_CMP_CTL n i) 29 28 ≠ 3 ∧ s.fld (Reg.SPN_CMP_CTL n i) 25 24 ≠ 3) ∧
  s.fld (Reg.SPN_CAP_CTL n) 9 0 < 744 ∧ s.fld (Reg.SPN_CAP_CTL n) 25 16 < 744

/-- The plate and its partitions' events stay where spindle `n`'s partition is not streamed, so that nothing is fetched
around a new phase (R85, R94). -/
def plateStays (s t : State) (n : Nat) (regs : List Nat) : Prop :=
  s.bit (Reg.PLATE_PART_RES n) 31 = false → t.plate = s.plate ∧ Keeps s t regs

/-- SPN_CTRL with enable 1 from OFF: an encoder spindle acquires, a free one takes its formula; from any other state only
the register changes. With a field at a value that is not listed the spindle's results are open, and no other spindle's
(R39, R40, R46, R55, R58, R64). -/
def spindleEnable : Prop := ∀ (n : Fin 154) (v : Word) (s : State), s.spnPresent n → s.aborting 2 n = false →
  let ctrl := Reg.SPN_CTRL n
  let w := withBit v 31 true &&& 0xFC0FFF00
  (¬ legal s n w → Does (.spindleEnable n v) s fun t => t.reg ctrl = w ∧ otherSpindles s t n) ∧
  (legal s n w → legal s n (s.reg ctrl) → s.spnState n ≠ 0 → exec (.spindleEnable n v) s = .next (s.setReg ctrl w)) ∧
  (legal s n w → s.spnState n = 0 → s.isEncoder n ∨ s.isObserver n ∨ isMains n → Does (.spindleEnable n v) s fun t =>
    spindleEnters s t n 1 ∧ t.reg ctrl = w ∧ t.reg (Reg.SPN_VEL n) = 0 ∧ t.bit (Reg.SPN_STATUS n) 27 = false ∧
    (t.spn n).pos = (s.spn n).pos ∧ otherSpindles s t n ∧ Touches [.regs, .spindles, .pairs, .groups, .cyc, .pulses] s t) ∧
  (legal s n w → s.spnState n = 0 → isFree n → Does (.spindleEnable n v) s fun t =>
    freeRecomputed s t n ∧ t.reg ctrl = w ∧ otherSpindles s t n ∧
    Touches [.regs, .spindles, .pairs, .groups, .plate, .cyc, .pulses] s t) ∧
  (legal s n w → s.spnState n = 0 → isRaster n → (s.spn n).rasterRuns = false → Does (.spindleEnable n v) s fun t =>
    spindleEnters s t n 1 ∧ t.reg ctrl = w ∧ otherSpindles s t n) ∧
  (legal s n w → s.spnState n = 0 → isRaster n → (s.spn n).rasterRuns = true → Does (.spindleEnable n v) s fun t =>
    t.fld (Reg.SPN_STATUS n) 31 29 = 2 ∧ t.reg ctrl = w ∧ otherSpindles s t n)

/-- A Hall spindle with a valid code locks at once from the count (R55). -/
def spindleEnableHall : Prop := ∀ (n : Fin 154) (v : Word) (s : State), s.spnPresent n → s.aborting 2 n = false →
  legal s n (withBit v 31 true) → s.spnState n = 0 → s.isHall n → (hallPlace (s.levels (s.spnSel n))).isSome → Does (.spindleEnable n v) s fun t =>
    t.fld (Reg.SPN_STATUS n) 31 29 = 2 ∧ t.bit (Reg.SPN_STATUS n) 15 = true ∧ (t.spn n).count = (s.spn n).count ∧
    (t.spn n).hallRef = some (s.levels (s.spnSel n)) ∧ otherSpindles s t n

/-- SPN_CTRL with enable 0: the spindle is in OFF (R54, R55). -/
def spindleDisable : Prop := ∀ (n : Fin 154) (v : Word) (s : State), s.spnPresent n → s.aborting 2 n = false →
  let ctrl := Reg.SPN_CTRL n
  let w := withBit v 31 false &&& 0xFC0FFF00
  (s.spnState n = 0 → exec (.spindleDisable n v) s = .next (s.setReg ctrl w)) ∧
  (s.spnState n ≠ 0 → Does (.spindleDisable n v) s fun t =>
    spindleEnters s t n 0 ∧ t.reg ctrl = w ∧ t.spindles = s.spindles ∧ otherSpindles s t n ∧
    Touches [.regs, .pairs, .groups, .cyc, .pulses] s t)

/-- In `t` the decoder of spindle `n`, forward (`back` false) or backward, has counted one edge: the count moves by one
modulo cpt, and the phase is the boundary just crossed (R47, R49). -/
def counted (s t : State) (n : Nat) (back : Bool) : Prop :=
  let cpt := max 4 (s.fld (Reg.SPN_CPT n) 19 0)
  let c := ((s.spn n).count + (if back then cpt - 1 else 1)) % cpt
  let target : Int := if back then ((c + 1) * 2 ^ 32 / cpt : Nat) - 1 else (c * 2 ^ 32 / cpt : Nat)
  (t.spn n).count = c ∧ t.fld (Reg.SPN_STATUS n) 31 29 = 2 ∧ t.bit (Reg.SPN_STATUS n) 28 = back ∧
  movedTo s t n (intWord (target + (s.reg (Reg.SPN_OFFSET n)).toNat))

/-- In `t` spindle `n` has taken an illegal transition: the counts, the flags, and at err_limit the fall into COAST at the
velocity it had. In COAST and PARTED, where the source is ignored, nothing happens (R47, R54, R55, R64). -/
def illegal (s t : State) (n : Nat) : Prop :=
  let limit := s.fld (Reg.SPN_CTRL n) 19 16
  let st := s.fld (Reg.SPN_STATUS n) 31 29
  (t.spn n).pos = (s.spn n).pos ∧ t.reg (Reg.SPN_VEL n) = s.reg (Reg.SPN_VEL n) ∧
  (st = 4 ∨ st = 6 → t.reg (Reg.SPN_STATUS n) = s.reg (Reg.SPN_STATUS n) ∧
    t.reg (Reg.SPN_ERRCNT n) = s.reg (Reg.SPN_ERRCNT n)) ∧
  (st ≠ 4 → st ≠ 6 → t.fld (Reg.SPN_ERRCNT n) 15 0 = min 65535 (s.fld (Reg.SPN_ERRCNT n) 15 0 + 1) ∧
    t.bit (Reg.SPN_STATUS n) 26 = true ∧ t.bit (Reg.SPN_STATUS n) 11 = true ∧
    (limit ≠ 0 → st = 2 ∨ st = 3 → limit ≤ (s.spn n).tally + 1 → t.fld (Reg.SPN_STATUS n) 31 29 = 4) ∧
    (limit ≠ 0 → (s.spn n).tally + 1 < limit →
      t.fld (Reg.SPN_STATUS n) 31 29 = st ∧ (t.spn n).tally = (s.spn n).tally + 1))

/-- Input `i` of interface `k` has stood for the spindle's enc_filt cycles (R46). -/
def stood (s : State) (n k i : Nat) : Prop :=
  tabGet 0 (3 * k + i) s.encSince = 0 ∨ tabGet 0 (3 * k + i) s.encSince + s.fld (Reg.SPN_FILTER n) 5 0 ≤ s.now + 1

/-- Spindle `n` takes the inputs of interface `k`, has taken their levels, and its filter passes their changes. -/
def follows (s : State) (n k : Nat) : Prop :=
  s.spnEnabled n ∧ s.spnSel n = k ∧ (s.spn n).seen = s.levels k ∧ ∀ i < 3, stood s n k i

/-- A filtered change of A and B at every encoder spindle of the interface: in LOCKED a step along (0,0), (1,0), (1,1),
(0,1) counts up, one against it counts down, and a change of both is illegal. A spindle whose filter has not let the
change pass takes nothing (R46, R47). -/
def encoderEdge : Prop := ∀ (k : Fin 32) (a b : Bool) (s : State), s.fclkOn → s.inputLive (3 * k.val) 1 →
  s.inputLive (3 * k.val + 1) 1 → s.levels k < 8 →
  let a0 := (s.levels k).testBit 0
  let b0 := (s.levels k).testBit 1
  let place (x y : Bool) : Nat := if x then (if y then 2 else 1) else (if y then 3 else 0)
  let d := (place a b + 4 - place a0 b0) % 4
  Does (.encoderEdge k a b) s fun t =>
    (t.levels k).testBit 0 = a ∧ (t.levels k).testBit 1 = b ∧ (t.levels k).testBit 2 = (s.levels k).testBit 2 ∧
    (∀ n < 64, s.isEncoder n → follows s n k →
      (d = 1 → s.spnState n = 2 → counted s t n false) ∧ (d = 3 → s.spnState n = 2 → counted s t n true) ∧
      (d = 2 → illegal s t n) ∧ (d = 0 → t.spn n = s.spn n)) ∧
    (∀ n < 64, (s.spn n).seen.testBit 0 ≠ a → ¬ stood s n k 0 → t.spn n = s.spn n) ∧
    (∀ n, n ∉ s.usersOf k → t.spn n = s.spn n) ∧
    Touches [.regs, .spindles, .encoders, .encSince, .pairs, .groups, .plate, .cyc] s t

/-- A new Hall code at every Hall spindle of the interface: a neighbour in the sequence 1, 3, 2, 6, 4, 5 counts, codes 0
and 7 and every other change are illegal (R47). -/
def hallCodeChange : Prop := ∀ (k : Fin 32) (code : Fin 8) (s : State), s.fclkOn → s.inputLive (3 * k.val) 1 →
  s.inputLive (3 * k.val + 1) 1 → s.inputLive (3 * k.val + 2) 1 → s.levels k ≠ code.val →
  Does (.hallCodeChange k code) s fun t =>
    t.levels k = code.val ∧
    (∀ n < 64, s.isHall n → follows s n k →
      (code.val = 0 ∨ code.val = 7 → illegal s t n) ∧
      (∀ r p p0, hallPlace code.val = some p → (s.spn n).hallRef = some r → hallPlace r = some p0 →
        s.spnState n = 2 →
        ((p + 6 - p0) % 6 = 1 → counted s t n false ∧ (t.spn n).hallRef = some code.val) ∧
        ((p + 6 - p0) % 6 = 5 → counted s t n true ∧ (t.spn n).hallRef = some code.val) ∧
        (2 ≤ (p + 6 - p0) % 6 → (p + 6 - p0) % 6 ≤ 4 → illegal s t n))) ∧
    (∀ n, n ∉ s.usersOf k → t.spn n = s.spn n) ∧
    Touches [.regs, .spindles, .encoders, .encSince, .pairs, .groups, .plate, .cyc] s t

/-- An index pulse at every encoder spindle of the interface, row by row of R48. -/
def indexPulse : Prop := ∀ (k : Fin 32) (s : State), s.fclkOn → s.inputLive (3 * k.val + 2) 1 →
  Does (.indexPulse k) s fun t =>
    (∀ n < 64, s.isEncoder n → follows s n k →
      let ctrl := s.reg (Reg.SPN_CTRL n)
      let st := Reg.SPN_STATUS n
      (s.spnState n = 1 → bitAt ctrl 30 = true → t.fld st 31 29 = 2 ∧ (t.spn n).count = 0 ∧ t.bit st 15 = true) ∧
      (s.spnState n = 2 → bitAt ctrl 29 = true → (s.spn n).count = 0 →
        t.fld st 31 29 = 2 ∧ t.bit st 26 = false ∧ (t.spn n).tally = 0 ∧ (t.spn n).pos = (s.spn n).pos) ∧
      (s.spnState n = 2 → bitAt ctrl 29 = true → (s.spn n).count ≠ 0 →
        t.fld (Reg.SPN_ERRCNT n) 31 16 = min 65535 (s.fld (Reg.SPN_ERRCNT n) 31 16 + 1) ∧
        (bitAt ctrl 28 = true → t.fld st 31 29 = 2 ∧ (t.spn n).count = 0 ∧ t.bit st 15 = true ∧ t.bit st 26 = false) ∧
        (bitAt ctrl 28 = false → t.fld st 31 29 = 4 ∧ t.bit st 26 = true ∧ t.bit st 11 = true)) ∧
      (s.spnState n = 4 ∨ s.spnState n = 5 → bitAt ctrl 29 = true → t.fld st 31 29 = 2 ∧ (t.spn n).count = 0) ∧
      (bitAt ctrl 29 = false → (s.spnState n ≠ 1 ∨ bitAt ctrl 30 = false) →
        t.spn n = { s.spn n with seen := (t.spn n).seen })) ∧
    (∀ n, n ∉ s.usersOf k → t.spn n = s.spn n) ∧
    Touches [.regs, .spindles, .encoders, .encSince, .pairs, .groups, .plate, .pulses, .cyc] s t

/-- The timeout: a counting spindle stops at its last edge with velocity 0, an observer or mains spindle coasts; 0 disables
it (R54, R55, R63). -/
def spindleTimeout : Prop := ∀ (n : Fin 154) (s : State), s.spnPresent n →
  let may := s.spnState n = 2 ∧ s.reg (Reg.SPN_TIMEOUT n) ≠ 0
  (may → s.counts n → Does (.spindleTimeout n) s fun t =>
    spindleEnters s t n 3 ∧ t.reg (Reg.SPN_VEL n) = 0 ∧ t.bit (Reg.SPN_STATUS n) 27 = false ∧
    movedTo s t n (intWord ((s.spn n).anchor + (s.reg (Reg.SPN_OFFSET n)).toNat)) ∧ otherSpindles s t n ∧ Touches [.regs, .spindles, .pairs, .groups, .cyc] s t) ∧
  (may → s.isObserver n ∨ isMains n → Does (.spindleTimeout n) s fun t =>
    spindleEnters s t n 4 ∧ t.bit (Reg.SPN_STATUS n) 11 = true ∧ t.reg (Reg.SPN_VEL n) = s.reg (Reg.SPN_VEL n) ∧
    (t.spn n).pos = (s.spn n).pos ∧ otherSpindles s t n ∧ Touches [.regs, .spindles, .pairs, .groups, .cyc] s t) ∧
  (¬ may → Idle (.spindleTimeout n) s)

/-- Coasting ends in LOST with velocity 0 (R54, R55). -/
def spindleCoastExpiry : Prop := ∀ (n : Fin 154) (s : State), s.spnPresent n →
  (s.spnState n = 4 → Does (.spindleCoastExpiry n) s fun t =>
    spindleEnters s t n 5 ∧ t.reg (Reg.SPN_VEL n) = 0 ∧ (t.spn n).pos = (s.spn n).pos ∧ otherSpindles s t n ∧
    Touches [.regs, .spindles, .pairs, .groups, .cyc] s t) ∧
  (s.spnState n ≠ 4 → Idle (.spindleCoastExpiry n) s)

/-- An observer's update of `age` cycles ago: in LOCKED a converged one moves the phase to the target along the direction
of motion and gives the velocity, one that is not converged lets the spindle coast; from ACQUIRE a converged one locks.
The target is the update's phase moved on at its velocity, rounded down (R53, R55, log entry 71). -/
def observerUpdate : Prop := ∀ (c : Fin 384) (p v age : Word) (conv : Bool) (s : State), s.fclkOn →
  Does (.observerUpdate c ⟨p, age⟩ v conv) s fun t =>
    (∀ n < 64, s.spnEnabled n → s.isObserver n → s.spnSel n = c.val →
      let off : Int := (s.reg (Reg.SPN_OFFSET n)).toNat
      let target := intWord (p.toNat + v.toInt * age.toNat / 2 ^ 16 + off)
      let d := (target - lowWord (s.spn n).pos).toInt
      let st := Reg.SPN_STATUS n
      (s.spnState n = 2 → conv = true → t.fld st 31 29 = 2 ∧ t.reg (Reg.SPN_VEL n) = v ∧
        (s.bit st 28 = false → 0 ≤ d → movedTo s t n target ∧ t.bit st 28 = false) ∧
        (s.bit st 28 = true → d ≤ 0 → movedTo s t n target ∧ t.bit st 28 = true) ∧
        (s.bit st 28 = false → d < 0 → d.natAbs < s.fld (Reg.SPN_CTRL n) 15 8 * 2 ^ 24 →
          (t.spn n).pos = (s.spn n).pos) ∧
        (s.bit st 28 = false → d < 0 → s.fld (Reg.SPN_CTRL n) 15 8 * 2 ^ 24 ≤ d.natAbs →
          movedTo s t n target ∧ t.bit st 28 = true)) ∧
      (s.spnState n = 2 → conv = false → spindleEnters s t n 4 ∧ t.bit st 11 = true) ∧
      (s.spnState n = 1 → conv = true → spindleEnters s t n 2 ∧ t.bit st 15 = true ∧
        lowWord (t.spn n).pos = intWord (p.toNat + off))) ∧
    (∀ n, n ∉ s.observersOf c → t.spn n = s.spn n) ∧ Touches [.regs, .spindles, .pairs, .groups, .plate, .cyc] s t

/-- A mains update: frequency and rate are shown; in LOCKED, locked and inside the frequency window it moves the phase,
otherwise the spindle coasts; from ACQUIRE it locks (R55, R56, log entry 71). -/
def mainsUpdate : Prop := ∀ (c : Fin 384) (p f r age : Word) (locked : Bool) (s : State), s.fclkOn →
  Does (.mainsUpdate c ⟨p, age⟩ f r locked) s fun t =>
    (∀ n, 64 ≤ n → n < 72 → s.spnEnabled n → s.spnSel n = c.val →
      let off : Int := (s.reg (Reg.SPN_OFFSET n)).toNat
      let v : Nat := f.toNat * 2 ^ 32 / 1500000000
      let target := intWord (p.toNat + v * age.toNat / 2 ^ 16 + off)
      let low := max (s.fld (Reg.SPN_K88 n) 15 0) (45 * 256) * 256
      let high := min (s.fld (Reg.SPN_K88 n) 31 16) (66 * 256) * 256
      let ok := locked = true ∧ low ≤ f.toNat ∧ f.toNat ≤ high
      t.reg (Reg.SPN_K80 n) = f ∧ t.reg (Reg.SPN_K84 n) = r ∧
      (s.spnState n = 2 → ok → t.fld (Reg.SPN_STATUS n) 31 29 = 2 ∧ movedTo s t n target ∧
        t.reg (Reg.SPN_VEL n) = toWord v) ∧
      (s.spnState n = 2 → ¬ ok → spindleEnters s t n 4) ∧
      (s.spnState n = 1 → ok → spindleEnters s t n 2 ∧ lowWord (t.spn n).pos = intWord (p.toNat + off)) ∧
      (s.spnState n = 1 → ¬ ok → t.spn n = s.spn n)) ∧
    (∀ n, n ∉ s.mainsOf c → t.spn n = s.spn n) ∧ Touches [.regs, .spindles, .pairs, .groups, .plate, .cyc] s t

/-- SPN_SET_PHASE replaces the position by the staged turns and the phase, as a resync; in PARTED it is ignored (R55,
R63). -/
def spnSetPhase : Prop := ∀ (n : Fin 154) (v : Word) (s : State), s.spnPresent n →
  (s.spnState n = 6 → Idle (.spnSetPhase n v) s) ∧
  (s.spnState n ≠ 6 → Does (.spnSetPhase n v) s fun t =>
    (t.spn n).pos = s.reg (Reg.SPN_SET_TURNS n) ++ v ∧ (t.spn n).prev = (t.spn n).pos ∧
    t.bit (Reg.SPN_STATUS n) 15 = true ∧ t.fld (Reg.SPN_STATUS n) 31 29 = s.fld (Reg.SPN_STATUS n) 31 29 ∧
    (s.counts n → (t.spn n).count =
      (v - s.reg (Reg.SPN_OFFSET n)).toNat * max 4 (s.fld (Reg.SPN_CPT n) 19 0) / 2 ^ 32) ∧
    (∀ m, m ≠ n.val → t.spn m = s.spn m) ∧
    Touches [.regs, .spindles, .plate, .cyc] s t ∧ plateStays s t n [Reg.SPN_STATUS n, groupReg s (256 + n.val)])

/-- SPN_OFFSET moves the position by the change of the offset, as a resync, of a raster or free spindle with carry into
turns; in PARTED it is only stored (R55, R57, R58). -/
def spnOffset : Prop := ∀ (n : Fin 154) (v : Word) (s : State), s.spnPresent n →
  let a := Reg.SPN_OFFSET n
  (s.spnState n = 6 → exec (.spnOffset n v) s = .next (s.setReg a v)) ∧
  (s.spnState n ≠ 6 → Does (.spnOffset n v) s fun t =>
    t.reg a = v ∧ t.bit (Reg.SPN_STATUS n) 15 = true ∧
    (n.val < 72 → (t.spn n).pos = (s.spn n).pos + BitVec.ofInt 64 (v - s.reg a).toInt) ∧
    (72 ≤ n.val → (t.spn n).pos = (s.spn n).pos + BitVec.ofNat 64 v.toNat - BitVec.ofNat 64 (s.reg a).toNat) ∧
    (∀ m, m ≠ n.val → t.spn m = s.spn m) ∧
    Touches [.regs, .spindles, .plate, .cyc] s t ∧ plateStays s t n [a, Reg.SPN_STATUS n, groupReg s (256 + n.val)])

/-- SPN_CPT of a running spindle: the position stays, as a resync, and a decoder's count is recomputed from it; of one that
does not run only the register changes (R55, R63). -/
def spindleSourceCpt : Prop := ∀ (n : Fin 154) (v : Word) (s : State), s.spnPresent n →
  let runs := s.spnEnabled n = true ∧ s.spnState n ≠ 0 ∧ s.spnState n ≠ 6
  let w := v &&& 0xFFFFF
  (runs → Does (.spindleSourceChange n true v) s fun t =>
    t.reg (Reg.SPN_CPT n) = w ∧ (t.spn n).pos = (s.spn n).pos ∧ t.bit (Reg.SPN_STATUS n) 15 = true ∧
    (s.counts n = true → t.reg (Reg.SPN_VEL n) = 0 ∧ (t.spn n).count =
      (lowWord (s.spn n).pos - s.reg (Reg.SPN_OFFSET n)).toNat * max 4 (fieldOf w 19 0) / 2 ^ 32) ∧
    otherSpindles s t n ∧ Touches [.regs, .spindles, .plate, .cyc, .pulses] s t) ∧
  (¬ runs → exec (.spindleSourceChange n true v) s = .next (s.setReg (Reg.SPN_CPT n) w))

/-- SPN_SRC of an observer or mains spindle that names another context, or of a spindle that is OFF, changes only the
register, in the fields its kind has (R55, R65). -/
def spindleSourceSel : Prop := ∀ (n : Fin 154) (v : Word) (s : State), s.spnPresent n →
  let a := Reg.SPN_SRC n
  let mask : Word := if n.val < 64 then 0x1C0001FF else if n.val < 72 then 0x1FF else if n.val < 138 then 0 else 0x1C000000
  let w := (s.reg a &&& ~~~mask) ||| (v &&& mask)
  (s.spnEnabled n = false ∨ s.spnState n = 0 ∨ s.spnState n = 6 ∨
    (fieldOf (s.reg a) 28 26 = fieldOf w 28 26 ∧ s.counts n = false)) →
  exec (.spindleSourceChange n false v) s = .next (s.setReg a w)

/-- SPN_EPOCH_LO applies the staged high word, and a running free spindle recomputes (R58). -/
def spnEpochLo : Prop := ∀ (n : Fin 154) (v : Word) (s : State), s.fclkOn → isFree n →
  let s1 := (s.setReg (Reg.SPN_K88 n) (s.spn n).epochHi).setReg (Reg.SPN_K84 n) v
  (s.spnState n = 0 ∨ s.spnState n = 6 → exec (.spnEpochLo n v) s = .next s1) ∧
  (s.spnState n ≠ 0 → s.spnState n ≠ 6 → s.spnSrc n ≤ 2 → Does (.spnEpochLo n v) s fun t =>
    t.reg (Reg.SPN_K84 n) = v ∧ t.reg (Reg.SPN_K88 n) = (s.spn n).epochHi ∧ freeRecomputed s1 t n ∧
    otherSpindles s t n ∧ Touches [.regs, .spindles, .pairs, .groups, .plate, .cyc] s t)

/-- SPN_PERIOD: a running free spindle recomputes (R58). -/
def spnPeriod : Prop := ∀ (n : Fin 154) (v : Word) (s : State), s.fclkOn → isFree n →
  let s1 := s.setReg (Reg.SPN_K80 n) v
  (s.spnState n = 0 ∨ s.spnState n = 6 → exec (.spnPeriod n v) s = .next s1) ∧
  (s.spnState n ≠ 0 → s.spnState n ≠ 6 → s.spnSrc n ≤ 2 → Does (.spnPeriod n v) s fun t =>
    t.reg (Reg.SPN_K80 n) = v ∧ freeRecomputed s1 t n ∧ otherSpindles s t n ∧
    Touches [.regs, .spindles, .pairs, .groups, .plate, .cyc] s t)

/-- A free spindle in ACQUIRE reaches its epoch (R58). -/
def freeSpindleEpoch : Prop := ∀ (n : Fin 154) (s : State), s.spnPresent n → isFree n →
  let comes := s.spnState n = 1 ∧ s.epoch n ≤ s.freeTime n
  (comes → Does (.freeSpindleEpoch n) s fun t =>
    spindleEnters s t n 2 ∧ (t.spn n).pos = freePosition s n + (s.spn n).adjust ∧ t.bit (Reg.SPN_STATUS n) 15 = true ∧
    otherSpindles s t n ∧ Touches [.regs, .spindles, .pairs, .groups, .plate, .cyc] s t) ∧
  (¬ comes → Idle (.freeSpindleEpoch n) s)

/-- A step of a MAC's clock moves its nanoseconds by the signed step, and its spindles resync (R59, R398). -/
def ptpClockStep : Prop := ∀ (m : Fin 2) (hi : Word) (s : State), s.fclkOn →
  Does (.ptpClockStep m hi) s fun t =>
    (t.ptpNs m : Int) = ((s.ptpNs m : Int) + (pairOf hi (s.reg (Reg.ETH_PTP_STEP_LO m))).toInt) % 2 ^ 64 ∧
    (∀ k < 2, k ≠ m.val → t.ptpNs k = s.ptpNs k) ∧
    (∀ n, n ∈ s.macUsers m → t.bit (Reg.SPN_STATUS n) 15 = true ∧
      (s.epoch n ≤ t.freeTime n → t.fld (Reg.SPN_STATUS n) 31 29 = 2 ∧ (t.spn n).pos = t.freePos n) ∧
      (t.freeTime n < s.epoch n → t.fld (Reg.SPN_STATUS n) 31 29 = 1 ∧ (t.spn n).pos = 0)) ∧
    (∀ n, n ∉ s.macUsers m → t.spn n = s.spn n) ∧ Touches [.regs, .spindles, .ptp, .pairs, .groups, .plate, .cyc] s t

/-- A disabled MAC clock lets its locked spindles coast at their last rate (R59). -/
def macClockDisabled : Prop := ∀ (m : Fin 2) (s : State), s.fclkOn → Does (.macClockDisabled m) s fun t =>
  t.bit (Reg.ETH_CTL m) 31 = false ∧
  (∀ n, n ∈ s.macUsers m → s.spnState n = 2 → spindleEnters s t n 4 ∧ t.bit (Reg.SPN_STATUS n) 11 = true ∧
    t.reg (Reg.SPN_VEL n) = intWord (s.freeRate n)) ∧
  (∀ n, n ∉ s.macUsers m → t.spn n = s.spn n) ∧ Touches [.regs, .spindles, .pairs, .groups, .cyc] s t

/-! ### spec/03: compares, captures, timers -/

/-- Compare unit `i` of spindle `n` has fired: cmp_fired, its late bit, armed only if periodic, its event line pulsed with
output 0b01 and toggled with 0b10 (R60, R66, R67). -/
def fired (s t : State) (n i : Nat) (ctl : Word) (late : Bool) : Prop :=
  let a := Reg.SPN_CMP_CTL n i
  t.bit (Reg.SPN_STATUS n) (6 + i) = true ∧ t.reg a = withBit (withBit ctl 31 (bitAt ctl 27)) 26 late ∧
  (fieldOf ctl 25 24 = 2 → (t.spn n).lines = (s.spn n).lines ^^^ (1#4 <<< i)) ∧
  (fieldOf ctl 25 24 < 2 → (t.spn n).lines = (s.spn n).lines) ∧
  (fieldOf ctl 25 24 = 1 ∨ fieldOf ctl 25 24 = 2 → t.pulsed (linePulse (4 * n + i)) 1 = true) ∧
  (t.spn n).pos = (s.spn n).pos ∧ (∀ m, m ≠ n → t.spn m = s.spn m) ∧
  Keeps s t [a, Reg.SPN_STATUS n, groupReg s (256 + n)]

/-- Does the movement of this cycle cross phase `c` forward (R45)? -/
def forward (p0 p c : Word) : Prop := (p0 - c).toInt < 0 ∧ 0 ≤ (p - c).toInt
def backward (p0 p c : Word) : Prop := 0 < (p0 - c).toInt ∧ (p - c).toInt ≤ 0

/-- An armed compare whose value this cycle's movement crosses in its direction fires, once in the cycle; one not crossed
does not (R45, R60). -/
def compareFire : Prop := ∀ (n : Fin 154) (i : Fin 4) (s : State), s.spnPresent n →
  let w := s.reg (Reg.SPN_CMP_CTL n i)
  let c := s.reg (Reg.SPN_CMP_VAL n i)
  let p0 := lowWord (s.spn n).prev
  let p := lowWord (s.spn n).pos
  let ready := bitAt w 31 = true ∧ (s.spnState n = 2 ∨ s.spnState n = 4) ∧ (s.spn n).fired.getLsbD i = false
  let crossed := (fieldOf w 29 28 = 0 ∧ forward p0 p c) ∨ (fieldOf w 29 28 = 1 ∧ backward p0 p c) ∨
    (fieldOf w 29 28 = 2 ∧ (forward p0 p c ∨ backward p0 p c))
  legal s n (s.reg (Reg.SPN_CTRL n)) →
  (ready → crossed → Does (.compareFire n i) s fun t =>
    fired s t n i w false ∧ Touches [.regs, .spindles, .pulses, .cyc] s t) ∧
  (¬ ready ∨ ¬ crossed → Idle (.compareFire n i) s)

/-- Arming a forward compare: in REACH mode a value already reached but not crossed fires late at once; otherwise the
word is stored (R60, R67). -/
def compareArm : Prop := ∀ (n : Fin 154) (i : Fin 4) (v : Word) (s : State), s.spnPresent n →
  let a := Reg.SPN_CMP_CTL n i
  let c := s.reg (Reg.SPN_CMP_VAL n i)
  let p0 := lowWord (s.spn n).prev
  let p := lowWord (s.spn n).pos
  let w := (v &&& 0xFB000000) ||| (s.reg a &&& 0x04000000)
  let arming := bitAt v 31 = true ∧ s.bit a 31 = false ∧ bitAt v 30 = true ∧
    (s.spnState n = 2 ∨ s.spnState n = 3 ∨ s.spnState n = 4)
  let ctrl := s.reg (Reg.SPN_CTRL n)
  legal s n ctrl → legal (s.setReg a w) n ctrl →
  (fieldOf v 29 28 = 0 → arming → 0 ≤ (p - c).toInt → ¬ forward p0 p c →
    Does (.compareArm n i v) s fun t =>
      fired (s.setReg a w) t n i w true ∧ Touches [.regs, .spindles, .pulses, .cyc] s t) ∧
  (¬ arming ∨ (fieldOf v 29 28 = 0 ∧ (p - c).toInt < 0) →
    exec (.compareArm n i v) s = .next (s.setReg a w))

/-- In `t` capture unit `j` of spindle `n` has recorded the position; an overrun keeps or replaces the old one (R62). -/
def captured (s t : State) (n j : Nat) : Prop :=
  let full := s.bit (Reg.SPN_STATUS n) (4 + j) = true
  let kept := s.bit (Reg.SPN_CAP_CTL n) (16 * j + 10) = true
  t.bit (Reg.SPN_STATUS n) (4 + j) = true ∧ (full → t.bit (Reg.SPN_STATUS n) (2 + j) = true) ∧
  (full → kept → t.reg (Reg.SPN_CAP_PHASE n j) = s.reg (Reg.SPN_CAP_PHASE n j) ∧
    t.reg (Reg.SPN_CAP_TURNS n j) = s.reg (Reg.SPN_CAP_TURNS n j)) ∧
  (¬ full ∨ ¬ kept → t.reg (Reg.SPN_CAP_PHASE n j) = lowWord (s.spn n).pos ∧
    t.reg (Reg.SPN_CAP_TURNS n j) = highWord (s.spn n).pos)

/-- A trigger source that has had its event: every enabled unit that selects it captures, and no other, but for the units
of a parted spindle; without its event nothing is captured (R54, R62). -/
def captureTrigger : Prop := ∀ (trig : Fin 744) (s : State), s.fclkOn →
  (s.trigCame trig = false → Idle (.captureTrigger trig) s) ∧
  (s.trigCame trig = true → Does (.captureTrigger trig) s fun t =>
  (∀ n < 154, s.spnState n ≠ 6 → ∀ j < 2,
    let selects := s.bit (Reg.SPN_CAP_CTL n) (16 * j + 11) = true ∧
      s.fld (Reg.SPN_CAP_CTL n) (16 * j + 9) (16 * j) = trig.val
    (selects → captured s t n j) ∧
    (¬ selects → t.reg (Reg.SPN_CAP_PHASE n j) = s.reg (Reg.SPN_CAP_PHASE n j) ∧
      t.reg (Reg.SPN_CAP_TURNS n j) = s.reg (Reg.SPN_CAP_TURNS n j))) ∧
  Touches [.regs, .cyc] s t)

/-- A write of SPN_CAP_CTL: each sw_trigger bit captures, whatever enable holds (R62, R68). -/
def swTrigger : Prop := ∀ (n : Fin 154) (v : Word) (s : State), s.spnPresent n →
  let a := Reg.SPN_CAP_CTL n
  let s1 := s.setReg a (v &&& 0x0FFF0FFF)
  legal s n (s.reg (Reg.SPN_CTRL n)) → legal s1 n (s.reg (Reg.SPN_CTRL n)) →
  (bitAt v 12 = false → bitAt v 28 = false → exec (.swTrigger n v) s = .next s1) ∧
  (∀ j < 2, bitAt v (12 + 16 * j) = true → s.spnState n ≠ 6 → Does (.swTrigger n v) s fun t =>
    captured s1 t n j ∧ t.reg a = v &&& 0x0FFF0FFF ∧ Touches [.regs, .cyc, .pulses] s t)

/-- An enabled timer at its wrap point wraps or reloads and sets wrap; a one-shot timer stops, and an enabled cascaded
timer above counts one, unless software has written its count in the cycle. A cascaded timer wraps in no other way
(R33, R70). -/
def timerWrap : Prop := ∀ (k : Fin 64) (s : State), s.fclkOn →
  let ctl := s.reg (Reg.GT_CTL k)
  let count := s.reg (Reg.GT_COUNT k)
  let atWrap := if bitAt ctl 29 then count = 0 else count = s.reg (Reg.GT_TOP k) ∨ count = 0xFFFFFFFF
  let up := k.val + 1
  let cascades := k.val % 2 = 0 ∧ s.bit (Reg.GT_CTL up) 30 = true ∧ s.bit (Reg.GT_CTL up) 31 = true ∧
    (s.timer up).counted = false
  let free := (k.val % 2 = 1 → bitAt ctl 30 = false) ∧ (s.timer k).counted = false
  (bitAt ctl 31 = true → free → atWrap → Does (.timerWrap k) s fun t =>
    t.reg (Reg.GT_COUNT k) = (if bitAt ctl 29 then s.reg (Reg.GT_TOP k) else 0) ∧
    t.bit (Reg.GT_STATUS k) 0 = true ∧ t.reg (Reg.GT_CTL k) = (if bitAt ctl 28 then withBit ctl 31 false else ctl) ∧
    (cascades → s.gtAtWrap up = false → t.reg (Reg.GT_COUNT up) =
      if s.bit (Reg.GT_CTL up) 29 then s.reg (Reg.GT_COUNT up) - 1 else s.reg (Reg.GT_COUNT up) + 1) ∧
    (cascades → s.gtAtWrap up = true → t.bit (Reg.GT_STATUS up) 0 = true) ∧
    (¬ cascades → Keeps s t [Reg.GT_COUNT k, Reg.GT_STATUS k, Reg.GT_CTL k, groupReg s (512 + k.val)]) ∧
    Touches [.regs, .timers, .cyc] s t) ∧
  (bitAt ctl 31 = false ∨ ¬ free ∨ ¬ atWrap → Idle (.timerWrap k) s)

/-- A timer's compare fires when the count has come to its value; in REACH mode its first evaluation after arming fires
late where the value of a counting timer has been passed; a value above GT_TOP never fires (R71, R73). -/
def timerCompare : Prop := ∀ (k : Fin 64) (s : State), s.fclkOn →
  let ctl := s.reg (Reg.GT_CTL k)
  let count := s.reg (Reg.GT_COUNT k)
  let v := s.reg (Reg.GT_CMP k)
  let status := Reg.GT_STATUS k
  let disarmed := withBit ctl 27 (bitAt ctl 25)
  let passed := if bitAt ctl 29 then count < v else v < count
  (bitAt ctl 27 = true → v ≤ s.reg (Reg.GT_TOP k) → count = v → (s.timer k).moved = true → Does (.timerCompare k) s fun t =>
    t.reg status = s.reg status ||| 2 ∧ t.reg (Reg.GT_CTL k) = disarmed ∧
    Touches [.regs, .timers, .cyc] s t ∧ Keeps s t [status, Reg.GT_CTL k, groupReg s (512 + k.val)]) ∧
  (bitAt ctl 27 = true → v ≤ s.reg (Reg.GT_TOP k) → bitAt ctl 31 = true → bitAt ctl 26 = true →
      (s.timer k).fresh = true → passed →
    Does (.timerCompare k) s fun t =>
      t.reg status = s.reg status ||| 6 ∧ t.reg (Reg.GT_CTL k) = disarmed ∧ (t.timer k).fresh = false ∧
      Touches [.regs, .timers, .cyc] s t ∧ Keeps s t [status, Reg.GT_CTL k, groupReg s (512 + k.val)]) ∧
  (bitAt ctl 27 = false ∨ s.reg (Reg.GT_TOP k) < v ∨
    ((count ≠ v ∨ (s.timer k).moved = false) ∧ (bitAt ctl 26 = false ∨ bitAt ctl 31 = false)) → Idle (.timerCompare k) s)

/-- A write of GT_COUNT sets the count and discards this cycle's (R33, R72). -/
def gtCount : Prop := ∀ (k : Fin 64) (v : Word) (s : State), s.fclkOn →
  exec (.gtCount k v) s = 
    .next ((s.setReg (Reg.GT_COUNT k) v).setTimer k { s.timer k with counted := true, moved := false })


/-! ### spec/04: the index plate -/

/-- The plate's table of entries has its one form, within the 2,097,152 entries (R93). -/
def plateInv (s : State) : Prop :=
  tabWf (fun _ => ({} : PlateEntry)) s.plate.entries = true ∧ ∀ x ∈ s.plate.entries, x.1 < 2097152

/-- Two states of one entry agree but for the next field, which the plate maintains (R76, R77). -/
def sameEntry (a b : PlateEntry) : Prop :=
  a.w0 = b.w0 ∧ a.w1 = b.w1 ∧ a.w2 = b.w2 ∧ fieldOf a.w3 31 21 = fieldOf b.w3 31 21 ∧ a.kind = b.kind ∧ a.gen = b.gen ∧
  a.hole = b.hole ∧ a.order = b.order

/-- Every entry but `i` is in `t` what it was in `s`. -/
def otherEntries (s t : State) (i : Nat) : Prop := ∀ j, j ≠ i → sameEntry (s.entry j) (t.entry j)

/-- Address `a` lies in hole `h`'s word, or in an entry linked into that hole, of the store or of the mirror (R93). -/
def ofHole (s : State) (h a : Nat) : Prop :=
  ∃ b ∈ [s.fld Reg.PLATE_STORE_BASE 13 0 * 2 ^ 26, s.fld Reg.PLATE_MIRROR_BASE 13 0 * 2 ^ 26],
    (b + 0x2000000 + 4 * h ≤ a ∧ a < b + 0x2000000 + 4 * h + 4) ∨
    ∃ j, (s.entry j).kind = .linked ∧ (s.entry j).hole = h ∧ b + 16 * j ≤ a ∧ a < b + 16 * j + 16

/-- Memory outside hole `h`'s words reads in `t` as in `s`. -/
def holeBytesOnly (s t : State) (h : Nat) : Prop := ∀ a, ¬ ofHole t h a → t.byte a = s.byte a

/-- The plate is clocked, its table has its form, and hole `h` lies in partition `n` (R74, R76). -/
def holeOf (s : State) (h n : Nat) : Prop := s.plateOn ∧ plateInv s ∧ s.partOf h = some n

/-- The number of entries linked into hole `h`, and whether it is whole (R76, R96). -/
def holeCount (s : State) (h : Nat) : Nat := (s.holeEntries h).length
def whole (s : State) (h : Nat) : Prop := h ∉ s.plate.damaged

/-- The handle with which requester `q` has staged an operation names entry `i` in its present generation (R86). -/
def names (s : State) (q : Requester) (i : Nat) : Prop :=
  bitAt (s.stagedHandle q) 31 = false ∧ fieldOf (s.stagedHandle q) 20 0 = i ∧
  fieldOf (s.stagedHandle q) 24 21 = (s.entry i).gen ∧ ((s.entry i).kind = .linked ∨ (s.entry i).kind = .alloc)

/-- The handle staged by `q` names no entry that is in use (R86, R87). -/
def stale (s : State) (q : Requester) : Prop := ∀ i, ¬ names s q i

/-- The plate takes requester operations: clocked, and with fewer than 64 of them in the last 12 cycles (R87, R90). -/
def admits (s : State) : Prop := s.plateOn ∧ (s.plate.ops.filter fun t => decide (s.now < t + 12)).length < 64

/-- The plate and its store serve: it admits operations, DRAM serves, its table has its form (R19, R28, R93). -/
def plateServes (s : State) : Prop := admits s ∧ s.dramOn ∧ plateInv s

/-- Some entry is free (R86). -/
def someFree (s : State) : Prop := s.plate.entries.length < 2097152

/-- Operation `c` of requester `q` fails with result word `w` and changes nothing else (R87). -/
def failsWith (c : Instr) (q : Requester) (s : State) (w : Word) : Prop := Does c s fun t =>
  t.answered q = w ∧ t.plate = { s.plate with ops := t.plate.ops } ∧ Touches [.resp, .plate] s t

/-- Insert answers a handle of a free entry that now holds the staged W0 to W2 and turn_filter and stands in the hole,
where it is not found late (R86, R87). dir and late_policy 0b11 have undefined results (R78). -/
def plateInsert : Prop := ∀ (q : Requester) (s : State) (n : Nat),
  let h := s.stagedHole q
  let e : PlateEntry := { w0 := s.staged q 0, w1 := s.staged q 1, w2 := s.staged q 2,
                          w3 := s.staged q 3 &&& 0xFFE00000, hole := h }
  plateServes s → s.partOf h = some n → s.fld (Reg.PLATE_PART_STATUS n) 31 30 = 1 → whole s h → holeCount s h < 2047 →
  (s.bit (Reg.PLATE_PART_RES n) 31 = true ∨ s.fld (Reg.PLATE_PART_COUNT n) 21 0 < s.fld (Reg.PLATE_PART_NEAR n) 18 0) →
  someFree s → e.dir ≠ 3 → e.latePolicy ≠ 3 → s.holeNear n h = false ∨ s.isLate n e = false →
  Does (.plateInsert q) s fun t => ∃ i < 2097152, (s.entry i).kind = .free ∧
    t.answered q = toWord ((s.entry i).gen * 2 ^ 21 + i) ∧
    (t.entry i).kind = .linked ∧ (t.entry i).hole = h ∧ (t.entry i).gen = (s.entry i).gen ∧ (t.entry i).w0 = e.w0 ∧
    (t.entry i).w1 = e.w1 ∧ (t.entry i).w2 = e.w2 ∧ fieldOf (t.entry i).w3 31 21 = fieldOf e.w3 31 21 ∧
    otherEntries s t i ∧ t.reg Reg.PLATE_FREE = s.reg Reg.PLATE_FREE - 1 ∧
    t.reg (Reg.PLATE_PART_COUNT n) = s.reg (Reg.PLATE_PART_COUNT n) + 1 ∧ holeBytesOnly s t h ∧
    Touches [.freeCtr, .regs, .resp, .plate, .mem, .poison, .cyc] s t ∧
    Keeps s t [Reg.PLATE_FREE, Reg.PLATE_PART_COUNT n, Reg.PLATE_PART_STATUS n, groupReg s (640 + n)]

/-- The failures of Insert change nothing: a hole of no partition, a partition that does not run, a full hole, a resident
partition at its quota, a damaged hole, each where no other cause holds (R87, R97). -/
def plateInsertFails : Prop := ∀ (q : Requester) (s : State), admits s →
  let h := s.stagedHole q
  (s.partOf h = none → failsWith (.plateInsert q) q s 0x80000002) ∧
  ∀ n, s.partOf h = some n →
    (s.fld (Reg.PLATE_PART_STATUS n) 31 30 ≠ 1 → failsWith (.plateInsert q) q s 0x80000003) ∧
    (s.fld (Reg.PLATE_PART_STATUS n) 31 30 = 1 → ¬ whole s h → failsWith (.plateInsert q) q s 0x8000000A) ∧
    (s.fld (Reg.PLATE_PART_STATUS n) 31 30 = 1 → whole s h → 2047 ≤ holeCount s h →
      failsWith (.plateInsert q) q s 0x80000004) ∧
    (s.fld (Reg.PLATE_PART_STATUS n) 31 30 = 1 → whole s h → holeCount s h < 2047 →
      s.bit (Reg.PLATE_PART_RES n) 31 = false → s.fld (Reg.PLATE_PART_NEAR n) 18 0 ≤ s.fld (Reg.PLATE_PART_COUNT n) 21 0 →
      failsWith (.plateInsert q) q s 0x80000006)

/-- With 64 operations taken in the last 12 cycles an operation answers BUSY and changes nothing, unless a place is free
again, which the spec leaves open (R87, log entry 72). -/
def plateBusy : Prop := ∀ (q : Requester) (s : State), s.plateOn →
  64 ≤ (s.plate.ops.filter fun t => decide (s.now < t + 12)).length →
  ∀ c ∈ [Instr.plateInsert q, .plateRemove q, .plateAlloc q, .plateWrite q, .plateRelease q, .plateFetch q, .plateProbe q],
    Does c s fun t => (takeFree 1 s).1 = 0 → t.answered q = 0x80000009 ∧ t.plate = { s.plate with ops := t.plate.ops } ∧
      Touches [.freeCtr, .resp, .plate, .cyc] s t

/-- Remove unlinks and frees the entry: its generation advances modulo 16, so the handle is stale from then on. One that
is due still fires, and is free after that. Of a stale handle and of an unlinked entry nothing changes (R84, R86, R87,
R91). -/
def plateRemove : Prop := ∀ (q : Requester) (s : State), admits s →
  (stale s q → failsWith (.plateRemove q) q s 0x80000005) ∧
  (∀ i, names s q i → (s.entry i).kind = .alloc → failsWith (.plateRemove q) q s 0x80000008) ∧
  ∀ i, names s q i → (s.entry i).kind = .linked →
    (¬ whole s (s.entry i).hole → failsWith (.plateRemove q) q s 0x8000000A) ∧
    ∀ n, s.dramOn → plateInv s → whole s (s.entry i).hole → s.partOf (s.entry i).hole = some n →
      Does (.plateRemove q) s fun t =>
        let due := ∃ d ∈ s.plate.due, d.idx = i
        t.answered q = 0 ∧ (t.entry i).kind ≠ .linked ∧ (t.entry i).gen = ((s.entry i).gen + 1) % 16 ∧
        (¬ due → (t.entry i).kind = .free ∧ t.reg Reg.PLATE_FREE = s.reg Reg.PLATE_FREE + 1) ∧
        (due → (t.entry i).w1 = (s.entry i).w1 ∧ t.reg Reg.PLATE_FREE = s.reg Reg.PLATE_FREE) ∧
        t.plate.due = s.plate.due ∧ otherEntries s t i ∧
        t.reg (Reg.PLATE_PART_COUNT n) = s.reg (Reg.PLATE_PART_COUNT n) - 1 ∧ holeBytesOnly s t (s.entry i).hole ∧
        Touches [.regs, .resp, .plate, .mem, .poison] s t ∧ Keeps s t [Reg.PLATE_FREE, Reg.PLATE_PART_COUNT n]

/-- Alloc takes a free entry for chains, while the chain pool has a slot (R86, R97). -/
def plateAlloc : Prop := ∀ (q : Requester) (s : State), admits s →
  let taken := (s.plate.entries.filter fun x => decide (x.2.kind = .alloc)).length
  (s.fld Reg.PLATE_CHAIN_POOL 18 0 ≤ taken → failsWith (.plateAlloc q) q s 0x80000006) ∧
  (taken < s.fld Reg.PLATE_CHAIN_POOL 18 0 → s.dramOn → plateInv s → someFree s → Does (.plateAlloc q) s fun t =>
    ∃ i < 2097152, (s.entry i).kind = .free ∧ t.answered q = toWord ((s.entry i).gen * 2 ^ 21 + i) ∧
      (t.entry i).kind = .alloc ∧ (t.entry i).gen = (s.entry i).gen ∧ (∀ j, j ≠ i → t.entry j = s.entry j) ∧
      t.reg Reg.PLATE_FREE = s.reg Reg.PLATE_FREE - 1 ∧ Touches [.freeCtr, .regs, .resp, .plate] s t ∧
      Keeps s t [Reg.PLATE_FREE])

/-- Write stores all four words of an allocated entry and its 16 bytes in store and mirror; of a linked entry it
replaces target and data only (R86, R90, R93). -/
def plateWrite : Prop := ∀ (q : Requester) (s : State), admits s →
  (stale s q → failsWith (.plateWrite q) q s 0x80000005) ∧
  (∀ i, names s q i → i ∉ s.plate.lostChain → s.dramOn → plateInv s → (s.entry i).kind = .alloc →
    Does (.plateWrite q) s fun t => t.answered q = 0 ∧
      t.entry i = { s.entry i with w0 := s.staged q 0, w1 := s.staged q 1, w2 := s.staged q 2, w3 := s.staged q 3 } ∧
      (∀ j, j ≠ i → t.entry j = s.entry j) ∧
      (∀ a, (∀ b ∈ [s.fld Reg.PLATE_STORE_BASE 13 0 * 2 ^ 26, s.fld Reg.PLATE_MIRROR_BASE 13 0 * 2 ^ 26],
        a < b + 16 * i ∨ b + 16 * i + 16 ≤ a) → t.byte a = s.byte a) ∧
      t.word (s.fld Reg.PLATE_MIRROR_BASE 13 0 * 2 ^ 26 + 16 * i + 4) = s.staged q 1 ∧
      Touches [.resp, .plate, .mem, .poison] s t) ∧
  ∀ i, names s q i → i ∉ s.plate.lostChain → (s.entry i).kind = .linked →
    (¬ whole s (s.entry i).hole → failsWith (.plateWrite q) q s 0x8000000A) ∧
    (whole s (s.entry i).hole → s.dramOn → plateInv s → Does (.plateWrite q) s fun t => t.answered q = 0 ∧
      sameEntry { s.entry i with w1 := s.staged q 1, w2 := s.staged q 2 } (t.entry i) ∧ otherEntries s t i ∧
      holeBytesOnly s t (s.entry i).hole ∧ Touches [.resp, .plate, .mem, .poison] s t)

/-- Release frees an allocated entry; a linked one keeps standing (R86, R87). -/
def plateRelease : Prop := ∀ (q : Requester) (s : State), admits s →
  (stale s q → failsWith (.plateRelease q) q s 0x80000005) ∧
  ∀ i, names s q i → i ∉ s.plate.lostChain →
    ((s.entry i).kind = .linked → failsWith (.plateRelease q) q s 0x80000008) ∧
    ((s.entry i).kind = .alloc → s.dramOn → Does (.plateRelease q) s fun t => t.answered q = 0 ∧
      (t.entry i).kind = .free ∧ (t.entry i).gen = ((s.entry i).gen + 1) % 16 ∧ (∀ j, j ≠ i → t.entry j = s.entry j) ∧
      t.reg Reg.PLATE_FREE = s.reg Reg.PLATE_FREE + 1 ∧ Touches [.regs, .resp, .plate] s t ∧ Keeps s t [Reg.PLATE_FREE])

/-- Fetch copies the entry to the requester's own PLATE_RD_W0 to W3; a damaged hole's entry and a lost chain entry fail
(R86, R88, R96). -/
def plateFetch : Prop := ∀ (q : Requester) (s : State), admits s →
  (stale s q → failsWith (.plateFetch q) q s 0x80000005) ∧
  ∀ i, names s q i →
    let lost := ((s.entry i).kind = .linked ∧ ¬ whole s (s.entry i).hole) ∨ i ∈ s.plate.lostChain
    (lost → failsWith (.plateFetch q) q s 0x8000000A) ∧
    (¬ lost → s.dramOn → Does (.plateFetch q) s fun t => t.answered q = 0 ∧
      t.reg (ownKey q (Reg.PLATE_RD_W 0)) = (s.entry i).w0 ∧ t.reg (ownKey q (Reg.PLATE_RD_W 1)) = (s.entry i).w1 ∧
      t.reg (ownKey q (Reg.PLATE_RD_W 2)) = (s.entry i).w2 ∧ t.reg (ownKey q (Reg.PLATE_RD_W 3)) = (s.entry i).w3 ∧
      t.plate = { s.plate with ops := t.plate.ops } ∧
      Touches [.regs, .resp, .plate] s t ∧ Keeps s t ((List.range 4).map fun k => ownKey q (Reg.PLATE_RD_W k)))

/-- Probe answers the hole's count in [10:0] and its near state in [30]; a hole of no partition and a damaged one fail
(R86, R87). -/
def plateProbe : Prop := ∀ (q : Requester) (s : State), admits s →
  let h := s.stagedHole q
  (s.partOf h = none → failsWith (.plateProbe q) q s 0x80000002) ∧
  ∀ n, s.partOf h = some n →
    (¬ whole s h → failsWith (.plateProbe q) q s 0x8000000A) ∧
    (whole s h → holeCount s h < 2048 → s.dramOn → Does (.plateProbe q) s fun t =>
      fieldOf (t.answered q) 10 0 = holeCount s h ∧ bitAt (t.answered q) 31 = false ∧
      bitAt (t.answered q) 30 = s.holeNear n h ∧ t.plate = { s.plate with ops := t.plate.ops } ∧
      Touches [.resp, .plate] s t)

/-- A store write that is due reaches store and mirror: the hole's word holds its count, and a fetch that waited for it
may start (R76, R90, R93). -/
def plateStoreWriteDone : Prop := ∀ (h : Fin 1048576) (s : State), s.dramOn → plateInv s →
  let base := s.fld Reg.PLATE_MIRROR_BASE 13 0 * 2 ^ 26
  (h.val ∉ s.plate.writing → Idle (.plateStoreWriteDone h) s) ∧
  (h.val ∈ s.plate.writing → holeCount s h < 2048 → Does (.plateStoreWriteDone h) s fun t => h.val ∉ t.plate.writing ∧
    fieldOf (t.word (base + 0x2000000 + 4 * h)) 31 21 = holeCount s h ∧
    (∀ j, sameEntry (s.entry j) (t.entry j)) ∧ holeBytesOnly s t h ∧ (s.plate.wanted = [] → t.regs = s.regs) ∧
    Touches [.regs, .plate, .mem, .poison, .cyc] s t)

/-- What makes entry `i` of partition `n` due: a linked entry of a near, whole hole of a running partition, whose spindle
is in LOCKED or COAST and crosses its phase in an allowed direction, on a turn that passes its filter, and that has not
become due in this cycle already (R83, R94). -/
def crosses (s : State) (i n : Nat) : Prop :=
  let e := s.entry i
  let p0 := lowWord (s.spn n).prev
  let p := lowWord (s.spn n).pos
  let c := s.eventPhase n e
  let fwd : Bool := decide ((p0 - c).toInt < 0 ∧ 0 ≤ (p - c).toInt)
  let bwd : Bool := decide (0 < (p0 - c).toInt ∧ (p - c).toInt ≤ 0)
  e.kind = .linked ∧ e.dueAt ≠ s.now + 1 ∧ s.fld (Reg.PLATE_PART_STATUS n) 31 30 = 1 ∧ s.holeNear n e.hole = true ∧ whole s e.hole ∧
  (s.fld (Reg.SPN_STATUS n) 31 29 = 2 ∨ s.fld (Reg.SPN_STATUS n) 31 29 = 4) ∧
  (e.dir = 0 ∧ fwd = true ∨ e.dir = 1 ∧ bwd = true ∨ e.dir = 2 ∧ (fwd || bwd) = true) ∧
  (((crossingTurn fwd (s.spn n).pos c) ^^^ fieldOf e.w3 28 21) % 2 ^ fieldOf e.w3 31 29 = 0)

/-- An entry that its spindle crosses is due from this cycle on; a periodic one that is still due overruns (R83, R84). -/
def entryDue : Prop := ∀ (i : Fin 2097152) (s : State) (n : Nat), s.dramOn → s.partOf (s.entry i).hole = some n →
  ((s.entry i).dir ≠ 3 → ¬ crosses s i n → Idle (.entryDue i) s) ∧
  (crosses s i n → (∀ d ∈ s.plate.due, d.idx ≠ i.val) → Does (.entryDue i) s fun t =>
    (∃ d, t.plate.due = s.plate.due ++ [d] ∧ d.idx = i.val ∧ d.part = n ∧ d.cycle = s.now) ∧
    (∀ j, sameEntry (s.entry j) (t.entry j)) ∧ Touches [.plate, .cyc] s t) ∧
  (crosses s i n → (∃ d ∈ s.plate.due, d.idx = i.val) →
    ((s.entry i).periodic = false → Idle (.entryDue i) s) ∧
    ((s.entry i).periodic = true → Does (.entryDue i) s fun t => t.bit (Reg.PLATE_PART_STATUS n) 5 = true ∧
      t.plate.due = s.plate.due ∧ (∀ j, sameEntry (s.entry j) (t.entry j)) ∧
      Touches [.regs, .plate, .cyc] s t ∧ Keeps s t [Reg.PLATE_PART_STATUS n, groupReg s (640 + n)]))

/-- A dispatch of entry `i` is counted, passes retirement, and is what the dispatcher has sent (R79, R98). -/
def dispatched (s t : State) (i : Nat) : Prop :=
  pairOf (t.reg Reg.PLATE_FIRES_HI) (t.reg Reg.PLATE_FIRES_LO) =
    pairOf (s.reg Reg.PLATE_FIRES_HI) (s.reg Reg.PLATE_FIRES_LO) + 1 ∧
  t.plate.retq = s.plate.retq ++ [i] ∧ t.reg Reg.PLATE_RETQ = toWord (s.plate.retq.length + 1)

/-- The dispatcher has this cycle's slot, and the retirement queue room (R84, R98). -/
def mayFire (s : State) : Prop := s.dispatchOn ∧ s.plate.firedAt ≠ s.now + 1 ∧ s.plate.retq.length < 8192

/-- With dispatch enabled and room in the retirement queue, one entry fires: of those due, one that no other stands
before. A periodic entry stays linked; a one-shot is unlinked, and its generation advances; a CHAIN entry's members come
next (R78, R82, R84, R91, R98). -/
def entryFire : Prop := ∀ (s : State) (d : DueEntry), mayFire s → s.plate.chain = none →
  s.plate.due ≠ [] → plateInv s → d ∈ s.plate.due → (∀ x ∈ s.plate.due, x ≠ d → s.firesBefore d x = true) →
  (∀ x ∈ s.plate.due, x.part < 154) → actionListed (s.entry d.idx) = true →
  let e := s.entry d.idx
  let slip := s.now - d.cycle
  e.kind = .linked ∨ e.kind = .leaving →
  Does .entryFire s fun t => dispatched s t d.idx ∧ t.plate.sent = some (e.action, e.w1, e.w2) ∧
    t.plate.due = s.plate.due.filter (·.idx ≠ d.idx) ∧
    (e.notify = true → t.bit (Reg.PLATE_PART_STATUS d.part) 0 = true) ∧
    ((s.reg Reg.PLATE_SLIP_LIMIT).toNat < slip → t.bit (Reg.PLATE_PART_STATUS d.part) 6 = true ∧
      t.bit Reg.PLATE_STATUS 2 = true) ∧
    (slip < 2 ^ 32 → (t.reg Reg.PLATE_SLIP_MAX).toNat = max (s.reg Reg.PLATE_SLIP_MAX).toNat slip) ∧
    (e.kind = .linked → e.periodic = true → t.plate.entries = s.plate.entries ∧ t.mem = s.mem) ∧
    (e.kind = .linked → e.periodic = false → (t.entry d.idx).kind = .retiring ∧ (t.entry d.idx).gen = (e.gen + 1) % 16 ∧
      t.reg (Reg.PLATE_PART_COUNT d.part) = s.reg (Reg.PLATE_PART_COUNT d.part) - 1 ∧ holeBytesOnly s t e.hole) ∧
    (e.kind = .leaving → (t.entry d.idx).kind = .retiring ∧ (t.entry d.idx).gen = e.gen ∧ t.mem = s.mem) ∧
    (e.action = 9 → t.plate.chain = some (fieldOf e.w2 20 0, fieldOf e.w2 26 21 + 1) ∧ t.plate.chainPart = d.part) ∧
    (e.action ≠ 9 → t.plate.chain = none) ∧
    otherEntries s t d.idx ∧ Touches [.regs, .plate, .mem, .poison, .cyc] s t

/-- Chain members fire before any other entry; a CHAIN among them acts as NOP and sets chain_error. With dispatch off, the
cycle's slot used or nothing due nothing fires, and a full retirement queue is noted (R82, R84, R98, R101). -/
def entryFireChain : Prop := ∀ (s : State),
  (s.bit Reg.PLATE_CTRL 31 = false ∨ s.plate.firedAt = s.now + 1 → Idle .entryFire s) ∧
  (s.dispatchOn → s.plate.firedAt ≠ s.now + 1 → 8192 ≤ s.plate.retq.length → Does .entryFire s fun t =>
    t.bit Reg.PLATE_STATUS 0 = true ∧ Touches [.regs, .cyc] s t ∧ Keeps s t [Reg.PLATE_STATUS, groupReg s 800]) ∧
  (mayFire s → s.plate.chain = none → s.plate.due = [] → Idle .entryFire s) ∧
  ∀ i left, mayFire s → s.plate.chain = some (i, left) → (s.entry i).kind = .alloc → i ∉ s.plate.lostChain →
    actionListed (s.entry i) = true ∨ (s.entry i).action = 9 →
    s.plate.chainPart < 154 → Does .entryFire s fun t => dispatched s t i ∧
      t.plate.chain = (if left ≤ 1 then none else some (fieldOf (s.entry i).w3 20 0, left - 1)) ∧
      t.plate.due = s.plate.due ∧ t.plate.entries = s.plate.entries ∧
      ((s.entry i).action ≠ 9 → t.plate.sent = some ((s.entry i).action, (s.entry i).w1, (s.entry i).w2)) ∧
      ((s.entry i).action = 9 → t.bit (Reg.PLATE_PART_STATUS s.plate.chainPart) 3 = true) ∧ Touches [.regs, .plate, .cyc] s t

/-- Retirement takes the oldest dispatched entry, one in 2 cycles; a fired one-shot is free from then on, a periodic one
stays linked (R98). -/
def retirement : Prop := ∀ (s : State), s.plateOn →
  let turn := s.plate.retiredAt = 0 ∨ s.plate.retiredAt + 1 ≤ s.now
  (s.plate.retq = [] ∨ ¬ turn → Idle .retirement s) ∧
  ∀ i q, turn → s.plate.retq = i :: q → Does .retirement s fun t => t.plate.retq = q ∧
    t.reg Reg.PLATE_RETQ = toWord q.length ∧ (∀ j, j ≠ i → t.entry j = s.entry j) ∧
    ((s.entry i).kind = .retiring → (t.entry i).kind = .free ∧ (t.entry i).gen = (s.entry i).gen ∧
      t.reg Reg.PLATE_FREE = s.reg Reg.PLATE_FREE + 1) ∧
    ((s.entry i).kind ≠ .retiring → t.entry i = s.entry i ∧ t.reg Reg.PLATE_FREE = s.reg Reg.PLATE_FREE) ∧
    Touches [.regs, .plate] s t ∧ Keeps s t [Reg.PLATE_RETQ, Reg.PLATE_FREE]

/-- NOP does nothing beside its dispatch (R79). -/
def nopAction : Prop := ∀ s : State, Idle .nopAction s

/-- MWRITE reaches the register at target AND 0x0FFF_FFFC; the global control block, CAN controller 0 and what is
unmapped are left alone (R79, R80). -/
def mwrite : Prop := ∀ (part : Fin 154) (target data : Word) (s : State), s.dramOn →
  let off := (target &&& 0x0FFFFFFC).toNat
  (off < 0x100000 ∨ 0x1400000 ≤ off → Idle (.mwrite part target data) s) ∧
  (0x1300000 ≤ off → off < 0x1301000 → Idle (.mwrite part target data) s) ∧
  ∀ n : Fin 154, s.spnPresent n →
    (off = Reg.SPN_FILTER n → exec (.mwrite part target data) s =
      .next (s.setReg (Reg.SPN_FILTER n) ((s.reg (Reg.SPN_FILTER n) &&& 0xFFFFFFC0) ||| (data &&& 0x3F)))) ∧
    (off = Reg.SPN_TIMEOUT n → exec (.mwrite part target data) s = .next (s.setReg (Reg.SPN_TIMEOUT n) data))

/-- RADD adds to an FCLK-clocked RW register modulo 2^32; a register that is not RW is neither read nor written (R79,
R80). -/
def radd : Prop := ∀ (part : Fin 154) (target data : Word) (s : State), s.dramOn →
  let off := (target &&& 0x0FFFFFFC).toNat
  (off < 0x100000 ∨ 0x1400000 ≤ off → Idle (.radd part target data) s) ∧
  ∀ n : Fin 154, s.spnPresent n →
    (off = Reg.SPN_STATUS n ∨ off = Reg.SPN_VEL n ∨ off = Reg.SPN_ERRCNT n → Idle (.radd part target data) s) ∧
    (off = Reg.SPN_TIMEOUT n →
      exec (.radd part target data) s = .next (s.setReg (Reg.SPN_TIMEOUT n) (s.reg (Reg.SPN_TIMEOUT n) + data)))

/-- A plate write to the plate's or the mailbox's block leaves the partition's results undefined: what its linked entries
hold, which of them are due, its events and counts. Every other entry stays (R40, R80). -/
def plateForbids : Prop := ∀ (part : Fin 154) (target data : Word) (s : State), s.dramOn →
  let off := (target &&& 0x0FFFFFFC).toNat
  off / 0x100000 = 2 ∨ off / 0x100000 = 18 →
  ∀ c ∈ [Instr.mwrite part target data, .radd part target data], Does c s fun t => part.val ∈ t.plate.spoiled ∧
    (∀ j, (s.entry j).kind ≠ .linked ∨ s.partOf (s.entry j).hole ≠ some part.val → t.entry j = s.entry j) ∧
    (∀ j, (t.entry j).kind = (s.entry j).kind ∧ (t.entry j).hole = (s.entry j).hole) ∧
    Touches [.freeCtr, .regs, .plate, .cyc, .pulses, .encSince, .zonePins] s t ∧
    Keeps s t [Reg.PLATE_PART_STATUS part, Reg.PLATE_PART_COUNT part, Reg.PLATE_PART_LATE part]

/-- DOORBELL rings shared source target[11:0], and only it (R79, R264). -/
def doorbell : Prop := ∀ (target : Word) (s : State), s.dramOn →
  Does (.doorbell target) s fun t => t.bit (Reg.AIC_SRC (fieldOf target 11 0)) 29 = true ∧ Touches [.regs, .cyc] s t ∧
    Keeps s t [Reg.AIC_SRC (fieldOf target 11 0), groupReg s (fieldOf target 11 0)]

/-- A CHAIN entry's members are the entries from data[20:0] on along their next fields, data[26:21] + 1 of them. The
dispatch of a CHAIN entry has named them already, and its action then does no more (R82). -/
def chain : Prop := ∀ (part : Fin 154) (data : Word) (s : State), s.dramOn → Does (.chain part data) s fun t =>
  ((∃ x, s.plate.sent = some (9, x, data)) → t.plate = { s.plate with sent := none }) ∧
  ((¬ ∃ x, s.plate.sent = some (9, x, data)) →
    t.plate = { s.plate with chain := some (fieldOf data 20 0, fieldOf data 26 21 + 1), chainPart := part }) ∧
  Touches [.plate] s t

/-- HOLE_FETCH: the holes behind leave the near window; the present hole and those ahead are near, in fetch, or wanted. A
wanted one waits only while 32 fetches run, a write of it is pending, or its partition's quota has no room, which sets
near_starved (R90, R94, R97). -/
def holeFetch : Prop := ∀ (n : Fin 154) (s : State), s.dispatchOn → s.bit (Reg.PLATE_PART_RES n) 31 = true →
  s.fld (Reg.PLATE_PART_STATUS n) 31 30 = 1 →
  Does (.holeFetch n) s fun t =>
    (∀ x ∈ t.plate.near, x ∈ s.plate.near ∧ (s.partOf x = some n.val → x ∈ s.windowHoles n)) ∧
    (∀ x ∈ s.plate.near, s.partOf x ≠ some n.val → x ∈ t.plate.near) ∧
    (∀ h ∈ s.sweptHoles n, s.partOf h ≠ none → h ∈ t.plate.near ∨ h ∈ t.plate.fetching ∨ h ∈ t.plate.wanted) ∧
    (∀ h ∈ t.plate.wanted, ∀ m, s.partOf h = some m → 32 ≤ t.plate.fetching.length ∨ h ∈ s.plate.writing ∨
      (s.fld (Reg.PLATE_PART_NEAR m) 18 0 < t.nearFill m + holeCount s h ∧ t.bit (Reg.PLATE_PART_STATUS m) 7 = true)) ∧
    (∀ h ∈ s.plate.fetching, h ∈ t.plate.fetching) ∧
    t.plate.entries = s.plate.entries ∧ Touches [.regs, .plate, .cyc] s t

/-- A partition that is resident, disabled or parted fetches nothing (R94, R99). -/
def holeFetchIdle : Prop := ∀ (n : Fin 154) (s : State),
  s.bit (Reg.PLATE_PART_RES n) 31 = false ∨ s.fld (Reg.PLATE_PART_STATUS n) 31 30 ≠ 1 ∨ s.bit Reg.PLATE_CTRL 31 = false →
  Idle (.holeFetch n) s

/-- HOLE_FETCH_DONE brings the hole into the near window; none of its entries being late, no entry changes; above k_max
of them overfill is set (R94, R95). -/
def holeFetchDone : Prop := ∀ (h : Fin 1048576) (s : State), s.dispatchOn →
  (h.val ∉ s.plate.fetching → Idle (.holeFetchDone h) s) ∧
  ∀ n, h.val ∈ s.plate.fetching → s.partOf h = some n → plateInv s →
    h.val ∉ s.plate.wanted →
    (∀ i, (s.entry i).kind = .linked → (s.entry i).hole = h → (s.entry i).dir ≠ 3 ∧ s.isLate n (s.entry i) = false) →
    Does (.holeFetchDone h) s fun t => h.val ∉ t.plate.fetching ∧ h.val ∈ t.plate.near ∧
      (s.fld (Reg.PLATE_PART_RES n) 10 0 < holeCount s h → t.bit (Reg.PLATE_PART_STATUS n) 8 = true) ∧
      t.plate.entries = s.plate.entries ∧ t.plate.due = s.plate.due ∧ Touches [.regs, .plate, .cyc] s t ∧
      (s.plate.wanted = [] → Keeps s t [Reg.PLATE_PART_STATUS n, groupReg s (640 + n)])

/-- A failed word with a good copy in DRAM is restored and counted; with both copies failed the hole is damaged, its due
entries do not fire, and detect, detect_double and tailstock source 27 are raised with a machine check. A chain entry's
word is noted in the partition that fires chains, and with both copies failed the entry is lost (R96, R433). -/
def plateRefetch : Prop := ∀ (i : Fin 2097152) (s : State), s.dramOn → plateInv s →
  let counted (t : State) : Prop := (t.reg Reg.INT_DETECTS).toNat = min 0xFFFFFFFF ((s.reg Reg.INT_DETECTS).toNat + 1)
  (∀ n, (s.entry i).kind = .linked → s.partOf (s.entry i).hole = some n →
    (Does (.plateRefetch i .nearWord) s fun t => t.bit (Reg.PLATE_PART_STATUS n) 4 = true ∧ t.plate = s.plate ∧
      counted t ∧ Touches [.regs, .cyc] s t) ∧
    (Does (.plateRefetch i .storeWord) s fun t => t.bit (Reg.PLATE_PART_STATUS n) 4 = true ∧ counted t ∧
      holeBytesOnly s t (s.entry i).hole ∧ (∀ j, sameEntry (s.entry j) (t.entry j)) ∧
      Touches [.regs, .plate, .mem, .poison, .cyc] s t) ∧
    (Does (.plateRefetch i .bothCopies) s fun t => t.bit (Reg.PLATE_PART_STATUS n) 4 = true ∧
      t.bit Reg.PLATE_STATUS 1 = true ∧ t.bit (Reg.TS_IRQ_PEND 0) 27 = true ∧ (s.entry i).hole ∈ t.plate.damaged ∧
      (∀ d ∈ t.plate.due, (s.entry d.idx).hole ≠ (s.entry i).hole) ∧
      (∃ c, t.checks = s.checks ++ [c] ∧ c.owner = tabGet none n s.plate.owners ∧ c.detail = 6) ∧
      t.plate.entries = s.plate.entries ∧ Touches [.regs, .plate, .checks, .cyc] s t)) ∧
  (∀ n, (s.entry i).kind = .alloc → s.plate.chainPart = n → n < 154 →
    (Does (.plateRefetch i .nearWord) s fun t => t.bit (Reg.PLATE_PART_STATUS n) 4 = true ∧ t.plate = s.plate ∧
      counted t ∧ Touches [.regs, .cyc] s t) ∧
    (Does (.plateRefetch i .storeWord) s fun t => t.bit (Reg.PLATE_PART_STATUS n) 4 = true ∧ t.plate = s.plate ∧
      counted t ∧ t.word (s.fld Reg.PLATE_MIRROR_BASE 13 0 * 2 ^ 26 + 16 * i + 4) = (s.entry i).w1 ∧
      Touches [.regs, .mem, .poison, .cyc] s t) ∧
    (Does (.plateRefetch i .bothCopies) s fun t => t.bit (Reg.PLATE_PART_STATUS n) 4 = true ∧
      t.bit Reg.PLATE_STATUS 1 = true ∧ t.bit (Reg.TS_IRQ_PEND 0) 27 = true ∧ i.val ∈ t.plate.lostChain ∧
      t.plate.entries = s.plate.entries ∧ t.plate.due = s.plate.due ∧ Touches [.regs, .plate, .checks, .cyc] s t)) ∧
  ((s.entry i).kind ≠ .linked → (s.entry i).kind ≠ .alloc → ∀ f, Idle (.plateRefetch i f) s)

/-- init is honoured only while enable is 0; the store lock is set by 1 and stays (R93, R101). -/
def plateControl : Prop := ∀ (v : Word) (s : State), s.plateOn →
  let ctrl := Reg.PLATE_CTRL
  (bitAt v 31 = true → Does (.plateInit v) s fun t => t.plate = s.plate ∧ t.bit ctrl 31 = true ∧
    t.bit ctrl 28 = s.bit ctrl 28 ∧ Touches [.regs] s t ∧ Keeps s t [ctrl]) ∧
  (bitAt v 31 = false → Does (.plateInit v) s fun t => t.plate.initialising = true ∧ t.bit ctrl 31 = false ∧
    t.bit ctrl 28 = false ∧ t.plate.entries = s.plate.entries ∧ Touches [.regs, .plate] s t ∧ Keeps s t [ctrl]) ∧
  (Does (.storeLock v) s fun t => t.bit ctrl 30 = true ∧ t.bit ctrl 31 = bitAt v 31 ∧ t.bit ctrl 28 = s.bit ctrl 28 ∧
    t.plate = s.plate ∧ Touches [.regs] s t ∧ Keeps s t [ctrl])

/-- When initialisation completes, no entry is in use, store and mirror read zero, the counts of linked entries and of the
retirement queue are 0, and init_done is set (R93, R100, R101). -/
def plateInitDone : Prop := ∀ s : State, s.dramOn → (s.plate.initialising = false → Idle .plateInitDone s) ∧
  (s.plate.initialising = true → Does .plateInitDone s fun t => t.plate.entries = [] ∧ t.plate.due = [] ∧
    t.bit Reg.PLATE_CTRL 28 = true ∧ t.reg Reg.PLATE_FREE = 2097152 ∧ t.plate.initialising = false ∧
    t.reg Reg.PLATE_RETQ = 0 ∧ (∀ n < 154, t.reg (Reg.PLATE_PART_COUNT n) = 0) ∧
    (∀ b ∈ [s.fld Reg.PLATE_STORE_BASE 13 0 * 2 ^ 26, s.fld Reg.PLATE_MIRROR_BASE 13 0 * 2 ^ 26],
      ∀ k < 0x2400000, t.byte (b + k) = 0) ∧
    (∀ a, (∀ b ∈ [s.fld Reg.PLATE_STORE_BASE 13 0 * 2 ^ 26, s.fld Reg.PLATE_MIRROR_BASE 13 0 * 2 ^ 26],
      a < b ∨ b + 0x2400000 ≤ a) → t.byte a = s.byte a) ∧
    Touches [.regs, .plate, .mem] s t ∧ Keeps s t (Reg.PLATE_CTRL :: Reg.PLATE_FREE :: Reg.PLATE_RETQ ::
      (List.range 154).map fun n => Reg.PLATE_PART_COUNT n))

/-- clear acts with enable 0 after the write, or in the parted state: nothing of the partition stays due or in fetch.
Otherwise it is ignored (R99, R104). -/
def partitionClear : Prop := ∀ (n : Fin 154) (v : Word) (s : State), s.plateOn → s.aborting 3 n = false →
  let ctl := Reg.PLATE_PART_CTL n
  (bitAt v 31 = false ∨ s.fld (Reg.PLATE_PART_STATUS n) 31 30 = 2 →
    Does (.partitionClear n v) s fun t => t.fld (Reg.PLATE_PART_STATUS n) 31 30 = 3 ∧ t.bit ctl 31 = bitAt v 31 ∧
      t.bit ctl 30 = bitAt v 30 ∧ (∀ d ∈ t.plate.due, d ∈ s.plate.due ∧ d.part ≠ n.val) ∧
      (∀ h ∈ t.plate.fetching, s.partOf h ≠ some n.val) ∧
      (∀ j, (s.entry j).kind ≠ .leaving → t.entry j = s.entry j) ∧
      Touches [.regs, .plate, .cyc] s t ∧ Keeps s t [ctl, Reg.PLATE_PART_STATUS n, Reg.PLATE_FREE]) ∧
  (bitAt v 31 = true → s.fld (Reg.PLATE_PART_STATUS n) 31 30 = 1 →
    exec (.partitionClear n v) s = .next (s.setReg ctl (v &&& 0xC0000000)))

/-- The clear's end frees every entry of the partition and leaves it disabled with enable clear (R99). -/
def partitionClearDone : Prop := ∀ (n : Fin 154) (s : State), s.dramOn → plateInv s →
  (s.fld (Reg.PLATE_PART_STATUS n) 31 30 ≠ 3 → Idle (.partitionClearDone n) s) ∧
  (s.fld (Reg.PLATE_PART_STATUS n) 31 30 = 3 → Does (.partitionClearDone n) s fun t =>
    t.fld (Reg.PLATE_PART_STATUS n) 31 30 = 0 ∧ t.bit (Reg.PLATE_PART_CTL n) 31 = false ∧
    n.val ∉ t.plate.spoiled ∧
    (∀ i, (s.entry i).kind = .linked → s.partOf (s.entry i).hole = some n.val → (∀ d ∈ s.plate.due, d.idx ≠ i) →
      (t.entry i).kind = .free ∧ (t.entry i).gen = ((s.entry i).gen + 1) % 16) ∧
    (∀ i, (s.entry i).kind ≠ .linked ∨ s.partOf (s.entry i).hole ≠ some n.val → sameEntry (s.entry i) (t.entry i)) ∧
    (∀ h ∈ t.plate.damaged, s.partOf h ≠ some n.val) ∧ Touches [.regs, .plate, .mem, .poison] s t ∧
    Keeps s t [Reg.PLATE_PART_STATUS n, Reg.PLATE_PART_CTL n, Reg.PLATE_PART_COUNT n, Reg.PLATE_FREE])

/-- MARK captures as sw_trigger does; a spindle that the part does not have, and one that is parted, captures nothing (R54,
R68, R79). -/
def mark : Prop := ∀ (target : Word) (s : State),
  let n := fieldOf target 7 0
  let j := fieldOf target 8 8
  (n < 154 → s.spnPresent n = true → s.spnState n ≠ 6 → Does (.mark target) s fun t => captured s t n j ∧
    t.bit (Reg.SPN_STATUS n) (4 + j) = true ∧ Touches [.regs, .cyc] s t) ∧
  (154 ≤ n ∨ s.spnPresent n = false ∨ s.spnState n = 6 → Idle (.mark target) s)

/-! ### spec/05: the sampling front end -/

/-- Where ADC `n` stands once it has started entry `e`, having tracked the input `input` (R107, R108, R111). -/
def started (s : State) (n e input : Nat) : Adc :=
  let w := s.reg (Reg.ADC_SEQ (n / 4) (n % 4) e)
  { s.adc n with
    running := true, entry := e, word := w, held := 0, sum := 0, routeChanged := false
    trackedSince := if fieldOf w 3 0 = input then (s.adc n).trackedSince else s.now + 1 }

/-- Command `c` brings ADC `n` a trigger that names entry `e` (R107, R109, R110, R124). -/
def trigger (c : Instr) (n e : Nat) : Prop := ∀ s : State, s.sectorOn (n / 4) →
  let ctl := s.reg (Reg.ADC_CTL (n / 4) (n % 4))
  let status := Reg.AFE_STATUS (n / 4)
  let lost := Reg.AFE_TRIG_LOST (n / 4)
  let park := fieldOf (s.parkWord n) 3 0
  let free := s.adcAvailable n ∧ e < 64
  -- a disabled ADC ignores it without count
  (bitAt ctl 31 = false → Idle c s) ∧
  (bitAt ctl 31 = true →
    -- alone, with no other ADC in its gang
    ((∀ i < 4, i ≠ n % 4 → bitAt ctl (26 + i) = false) →
      (free → (s.adc n).running = false → exec c s =
        .next (notePulse (adcPulse n e) (s.setAdc n (started s n e park)))) ∧
      (free → (s.adc n).running = true → (s.adc n).queue.length < 4 →
        exec c s = .next (notePulse (adcPulse n e) (s.setAdc n { s.adc n with queue := (s.adc n).queue ++ [e] }))) ∧
      (free → (s.adc n).running = true → 4 ≤ (s.adc n).queue.length → Does c s fun t =>
        t.reg status = s.reg status ||| 4 ∧ t.fld lost 15 0 = min 65535 (s.fld lost 15 0 + 1) ∧
        t.fld lost 31 16 = s.fld lost 31 16 ∧
        Touches [.cyc, .regs] s t ∧ Keeps s t [status, lost, groupReg s (832 + n / 4)]) ∧
      (¬ free → Does c s fun t =>
        t.reg status = s.reg status ||| 8 ∧ t.fld lost 31 16 = min 65535 (s.fld lost 31 16 + 1) ∧
        t.fld lost 15 0 = s.fld lost 15 0 ∧
        Touches [.cyc, .regs] s t ∧ Keeps s t [status, lost, groupReg s (832 + n / 4)])) ∧
    -- every enabled, available, idle ADC of its gang starts the same entry
    (free → (s.adc n).running = false → Does c s fun t =>
      t.adc n = started s n e park ∧
      (∀ m, m / 4 = n / 4 → m ≠ n → bitAt ctl (26 + m % 4) = true → s.adcEnabled m → s.adcAvailable m →
        (s.adc m).running = false →
        t.adc m = started s m e (fieldOf (s.parkWord m) 3 0)) ∧
      (∀ m, m ≠ n → ¬ (m / 4 = n / 4 ∧ bitAt ctl (26 + m % 4) = true) → t.adc m = s.adc m) ∧
      Touches [.cyc, .regs, .adcs, .pulses] s t))

/-- ADCTRIG: bits [4:0] of the target name the ADC, bits [7:0] of the data the entry (R79, R107). -/
def adctrig : Prop := ∀ target data : Word, fieldOf target 4 0 < 24 →
  trigger (.adctrig target data) (fieldOf target 4 0) (fieldOf data 7 0)

/-- A write of ADC_SWTRIG (R107). -/
def adcSwtrig : Prop := ∀ (n : Fin 24) (v : Word), trigger (.adcSwtrig n v) n (fieldOf v 7 0)

/-- A hold adds its code, and the converter tracks anew from 24 cycles after it; the first hold of the entry stamps the
sample (R108). -/
def adcHold : Prop := ∀ (n : Fin 24) (code : BitVec 14) (s : State), s.sectorOn (n.val / 4) → (s.adc n).running →
  (s.adc n).held < 2 ^ fieldOf (s.adc n).word 30 29 →
  exec (.adcHold n code) s = .next (s.setAdc n { s.adc n with
    held := (s.adc n).held + 1, sum := (s.adc n).sum + code.toNat, trackedSince := s.now + 24
    firstHold := if (s.adc n).held = 0 then lowWord s.devTimer else (s.adc n).firstHold })

/-- A sample `v` with source flags `src` and time `time` stands in channel `c` of sector `k` in `t`, written from `s`, where
the registers `also` may change beside the channel's (R112 to R115, R125). -/
def channelHas (s t : State) (k c v : Nat) (src : Word → Prop) (time : Word) (also : List Nat) : Prop :=
  let ch := s.chan (64 * k + c)
  let ctl := s.reg (Reg.CH_CTL k c)
  let win := s.reg (Reg.CH_WIN k c)
  let w := t.reg (Reg.CH_VALUE k c)
  let ok : Prop := if bitAt ctl 31
    then signedOf 16 (fieldOf win 15 0) ≤ signedOf 16 v ∧ signedOf 16 v ≤ signedOf 16 (fieldOf win 31 16)
    else fieldOf win 15 0 ≤ v ∧ v ≤ fieldOf win 31 16
  let map := Reg.AFE_RANGE_MAP k (c / 32)
  -- the word: valid, not stale, its sequence number, the source's flags
  bitAt w 31 = true ∧ bitAt w 30 = false ∧ fieldOf w 23 16 = (s.fld (Reg.CH_VALUE k c) 23 16 + 1) % 256 ∧ src w ∧
  t.reg (Reg.CH_TIME k c) = time ∧
  t.bit (Reg.AFE_STALE_MAP k (c / 32)) (c % 32) = false ∧
  -- the window
  (ok → bitAt w 29 = false ∧ fieldOf w 15 0 = v % 65536 ∧ t.bit map (c % 32) = false ∧
    t.chan (64 * k + c) = { outRun := 0, lastAt := s.now, lastIn := v }) ∧
  (¬ ok → bitAt w 29 = true ∧ fieldOf w 15 0 = (if bitAt ctl 30 then ch.lastIn else v) % 65536 ∧
    t.chan (64 * k + c) = { outRun := ch.outRun + 1, lastAt := s.now, lastIn := ch.lastIn } ∧
    (fieldOf ctl 28 24 < ch.outRun + 1 → t.bit map (c % 32) = true ∧
      (s.bit map (c % 32) = false → t.bit (Reg.AFE_STATUS k) 0 = true)) ∧
    (ch.outRun + 1 ≤ fieldOf ctl 28 24 → t.bit map (c % 32) = s.bit map (c % 32))) ∧
  -- the result queue
  (bitAt ctl 29 = true → (s.sector k).queue.length < 64 →
    (t.sector k).queue = (s.sector k).queue ++ [w] ∧
    t.reg (Reg.AFE_QUEUE_FILL k) = toWord ((s.sector k).queue.length + 1)) ∧
  (bitAt ctl 29 = true → 64 ≤ (s.sector k).queue.length →
    (t.sector k).queue = (s.sector k).queue ∧ t.bit (Reg.AFE_STATUS k) 5 = true) ∧
  (bitAt ctl 29 = false → (t.sector k).queue = (s.sector k).queue) ∧
  -- every other channel
  (∀ d, d ≠ 64 * k + c → t.chan d = s.chan d) ∧
  Keeps s t ([Reg.CH_VALUE k c, Reg.CH_TIME k c, Reg.AFE_STALE_MAP k (c / 32), map, Reg.AFE_STATUS k,
    Reg.AFE_QUEUE_FILL k, groupReg s (832 + k)] ++ also)

/-- The result of an entry reaches its channel: the rounded mean of its conversions, at the time of the first hold; the
ADC goes on with the next entry, the next queued trigger, or its park entry, where a foreground calibration that waited
for it starts (R107, R108, R110, R120). -/
def sampleWrite : Prop := ∀ (n : Fin 24) (s : State), s.sectorOn (n.val / 4) →
  let a := s.adc n
  let mean := (a.sum + a.held / 2) / a.held
  let next (e : Nat) : Adc := { started s n e 0 with swapped := false, trackedSince := a.trackedSince }
  a.running → a.held = 2 ^ fieldOf a.word 30 29 →
  Does (.sampleWrite n) s fun t =>
    channelHas s t (n.val / 4) (fieldOf a.word 13 8) mean
      (fun w => bitAt w 28 = a.routeChanged ∧ bitAt w 27 = a.swapped ∧ bitAt w 26 = false ∧
        fieldOf w 25 24 = a.conv % 4) a.firstHold [Reg.AFE_CAL_STATUS (n.val / 4)] ∧
    (a.calibrating = false → t.reg (Reg.AFE_CAL_STATUS (n.val / 4)) = s.reg (Reg.AFE_CAL_STATUS (n.val / 4))) ∧
    (bitAt a.word 31 = false → a.entry < 63 → t.adc n = next (a.entry + 1)) ∧
    (∀ e q, bitAt a.word 31 = true ∨ 63 ≤ a.entry → a.queue = e :: q → t.adc n = { next e with queue := q }) ∧
    (bitAt a.word 31 = true ∨ 63 ≤ a.entry → a.queue = [] →
      t.adc n = { a with running := false, held := 0, swapped := false } ∧
      (a.calibrating = true → t.fld (Reg.AFE_CAL_STATUS (n.val / 4)) 31 30 = 1)) ∧
    (∀ m, m ≠ n.val → t.adc m = s.adc m) ∧
    Touches [.regs, .adcs, .channels, .sectors, .cyc] s t

/-- A written channel becomes stale (R114). -/
def channelStale : Prop := ∀ (ch : Fin 384) (s : State), s.sectorOn (ch.val / 64) →
  let k := ch.val / 64
  let c := ch.val % 64
  let v := Reg.CH_VALUE k c
  (s.bit v 31 = true → s.bit v 30 = false → s.fld (Reg.CH_CTL k c) 15 0 ≠ 0 → Does (.channelStale ch) s fun t =>
    t.reg v = withBit (s.reg v) 30 true ∧ t.bit (Reg.AFE_STALE_MAP k (c / 32)) (c % 32) = true ∧
    t.reg (Reg.AFE_STATUS k) = s.reg (Reg.AFE_STATUS k) ||| 2 ∧
    Touches [.regs, .cyc] s t ∧ Keeps s t [v, Reg.AFE_STALE_MAP k (c / 32), Reg.AFE_STATUS k, groupReg s (832 + k)]) ∧
  -- a channel never written, or without a timeout, does not
  (s.bit v 31 = false ∨ s.fld (Reg.CH_CTL k c) 15 0 = 0 → Idle (.channelStale ch) s)

/-- A read of AFE_QUEUE pops the oldest word; an empty queue reads zero (R115). -/
def afeQueue : Prop := ∀ (q : Requester) (k : Fin 6) (s : State), s.sectorOn k →
  ((s.sector k).queue = [] → exec (.afeQueue q k) s = .next (answer q 0 s)) ∧
  (∀ w r, (s.sector k).queue = w :: r → Does (.afeQueue q k) s fun t =>
    t.answered q = w ∧ (t.sector k).queue = r ∧ t.reg (Reg.AFE_QUEUE_FILL k) = toWord r.length ∧
    Touches [.regs, .resp, .sectors] s t ∧ Keeps s t [Reg.AFE_QUEUE_FILL k])

/-- A write of a sequence entry: the entry in flight keeps its latched fields and its result says that the route
changed; an idle ADC whose parked input changes tracks the new one from now on (R111, R123). -/
def routeSeq : Prop := ∀ (n : Fin 24) (e : Fin 64) (v : Word) (s : State), s.sectorOn (n.val / 4) →
  let a := s.adc n
  let s1 := s.setReg (Reg.ADC_SEQ (n.val / 4) (n.val % 4) e) (v &&& 0xEFF03F0F)
  let differs := (v ^^^ a.word) &&& 0x6FF03F0F ≠ 0
  let c := Instr.routeChange n (.seq e) v
  (a.running → a.entry = e.val → differs → exec c s = .next (s1.setAdc n { a with routeChanged := true })) ∧
  (a.running → ¬ (a.entry = e.val ∧ differs) → exec c s = .next s1) ∧
  (a.running = false → fieldOf (s1.parkWord n) 3 0 = fieldOf (s.parkWord n) 3 0 → exec c s = .next s1) ∧
  (a.running = false → fieldOf (s1.parkWord n) 3 0 ≠ fieldOf (s.parkWord n) 3 0 →
    exec c s = .next (s1.setAdc n { a with trackedSince := s.now }))

/-- A write of ADC_CTL: it changes no entry in flight; a new park input is tracked from now on (R111, R124). -/
def routeControl : Prop := ∀ (n : Fin 24) (v : Word) (s : State), s.sectorOn (n.val / 4) →
  let a := s.adc n
  let s1 := s.setReg (Reg.ADC_CTL (n.val / 4) (n.val % 4)) (v &&& 0xBC00003F)
  let c := Instr.routeChange n .control v
  (a.running ∨ fieldOf (s1.parkWord n) 3 0 = fieldOf (s.parkWord n) 3 0 → exec c s = .next s1) ∧
  (a.running = false → fieldOf (s1.parkWord n) 3 0 ≠ fieldOf (s.parkWord n) 3 0 →
    exec c s = .next (s1.setAdc n { a with trackedSince := s.now }))

/-- Command `c` gives comparator `k` the record `f` makes of its present one; then the output follows the input, the
enable, the blanking window and the hold, and the sector's trip zones follow their inputs (R116, R117, R127, R486). -/
def comparatorFollows (c : Instr) (k : Nat) (s : State) (f : Comparator → Comparator) : Prop :=
  let ctl := s.reg (Reg.CMP_CTL (k / 12) (k % 12))
  let status := Reg.CMP_STATUS (k / 12) (k % 12)
  let events := Reg.AFE_STATUS (k / 12)
  let x := f (s.comparator k)
  let on := bitAt ctl 31 = true ∧ x.raw = true ∧ x.blanked = false ∧ x.held = false
  -- it becomes active: one event, and without a filter its zones assert
  (on → x.out = false → Does c s fun t =>
    t.comparator k = { x with out := true, activeSince := s.now, zoneIn := decide (fieldOf ctl 23 18 = 0) } ∧
    t.reg status = s.reg status ||| 3 ∧
    t.reg events = (if bitAt ctl 17 then s.reg events ||| 256 else s.reg events) ∧
    (∀ z, z / 8 = k / 12 → t.bit (Reg.TZ_STATUS z) 31 = t.zoneInput z) ∧
    (fieldOf ctl 23 18 = 0 → ∀ i < 8, bitAt ctl (8 + i) = true → s.bit (Reg.TZ_CTL (8 * (k / 12) + i)) 31 = true →
      t.bit (Reg.TZ_STATUS (8 * (k / 12) + i)) 31 = true) ∧
    (∀ j, j ≠ k → t.comparator j = s.comparator j) ∧ t.pulsed (comparatorPulse k) 1 = true ∧
    Touches [.cyc, .regs, .comparators, .pairs, .pulses] s t) ∧
  -- it stays active: no further event
  (on → x.out = true → exec c s = .next (s.setComparator k x)) ∧
  -- it is or becomes inactive: no event, and its zone input falls
  (¬ on → Does c s fun t =>
    t.comparator k = { x with out := false, zoneIn := false } ∧
    t.reg status = withBit (s.reg status) 0 false ∧ t.reg events = s.reg events ∧
    (∀ z, z / 8 = k / 12 → t.bit (Reg.TZ_STATUS z) 31 = t.zoneInput z) ∧
    (∀ j, j ≠ k → t.comparator j = s.comparator j) ∧ Touches [.cyc, .regs, .comparators, .pairs] s t)

/-- An input of `uv` µV beyond the threshold, above it or with invert below it, makes the comparator's input active: the
output, the blanking and the hold, and the zones of its sector follow. Any other voltage does nothing (R116, R117, R127). -/
def comparatorActive : Prop := ∀ (k : Fin 72) (uv : Nat) (s : State), s.sectorOn (k.val / 12) →
  let ctl := Reg.CMP_CTL (k.val / 12) (k.val % 12)
  let beyond := if s.bit ctl 30 then uv * 4096 < s.dacCode k * 1500000 else s.dacCode k * 1500000 < uv * 4096
  (beyond → comparatorFollows (.comparatorActive ⟨k, uv⟩) k s fun x => { x with raw := true }) ∧
  (¬ beyond → Idle (.comparatorActive ⟨k, uv⟩) s)

/-- The input falls inactive once it lies back of the threshold by the hysteresis of 0, 10, 20 or 40 mV (R116, R117,
R127). -/
def comparatorInactive : Prop := ∀ (k : Fin 72) (uv : Nat) (s : State), s.sectorOn (k.val / 12) →
  let ctl := Reg.CMP_CTL (k.val / 12) (k.val % 12)
  let h := s.fld ctl 29 28
  let hyst := if h = 0 then 0 else if h = 1 then 10000 else if h = 2 then 20000 else 40000
  let back := if s.bit ctl 30 then s.dacCode k * 1500000 + hyst * 4096 < uv * 4096
    else uv * 4096 + hyst * 4096 < s.dacCode k * 1500000
  (back → comparatorFollows (.comparatorInactive ⟨k, uv⟩) k s fun x => { x with raw := false }) ∧
  (¬ back → Idle (.comparatorInactive ⟨k, uv⟩) s)

/-- The end of a blanking window lets the comparator follow its input again (R117). -/
def blankingWindowClose : Prop := ∀ (k : Fin 72) (s : State), s.sectorOn (k.val / 12) →
  comparatorFollows (.blankingWindowClose k) k s fun x => { x with blanked := false }
/-- The end of the hold lets the comparator follow its input again (R486). -/
def comparatorHoldEnd : Prop := ∀ (k : Fin 72) (s : State), s.sectorOn (k.val / 12) →
  comparatorFollows (.comparatorHoldEnd k) k s fun x => { x with held := false }

/-- An output that has been active for filt cycles asserts its zone input, and with it the zones it selects (R486). -/
def zoneInputAssert : Prop := ∀ (k : Fin 72) (s : State), s.sectorOn (k.val / 12) →
  ((s.comparator k).out = true → Does (.zoneInputAssert k) s fun t =>
    t.comparator k = { s.comparator k with zoneIn := true } ∧
    (∀ i < 8, s.bit (Reg.CMP_CTL (k.val / 12) (k.val % 12)) (8 + i) = true →
      s.bit (Reg.TZ_CTL (8 * (k.val / 12) + i)) 31 = true →
      t.bit (Reg.TZ_STATUS (8 * (k.val / 12) + i)) 31 = true) ∧
    (∀ j, j ≠ k.val → t.comparator j = s.comparator j) ∧ Touches [.regs, .comparators, .pairs, .cyc] s t) ∧
  ((s.comparator k).out = false → Idle (.zoneInputAssert k) s)

/-- At a decimation instant a demodulator that neither discards nor changes its settings writes sat16(raw >> shift) to
its channel with sd = 1 (R118, R125). -/
def sdDecimation : Prop := ∀ (j : Fin 48) (bits : List Bool) (s : State), s.sectorOn (j.val / 8) →
  let ctl := s.reg (Reg.SD_CTL (j.val / 8) (j.val % 8))
  let d := bits.foldl sdIntegrate (s.demod j)
  let raw := d.i3 - d.c1 - d.c2 - d.c3
  bitAt ctl 31 = true → (bitAt ctl 30 = true ∨ s.inputLive (2 * j.val + 1) 3) →
  (s.demod j).clkLost = false → 16 ≤ fieldOf ctl 28 20 → fieldOf ctl 28 20 ≤ 256 → fieldOf ctl 19 15 ≤ 24 →
  (bitAt ctl 30 = true → 60 ≤ s.fld (Reg.SD_CLK (j.val / 8) (j.val % 8)) 8 0) →
  ((s.demod j).used = none ∨ (s.demod j).used = some ctl) →
  Does (.sdDecimation j bits) s fun t =>
    (d.discard = 0 →
      channelHas s t (j.val / 8) (fieldOf ctl 13 8)
        (BitVec.ofInt 16 (clampInt (-32768) 32767 (raw / 2 ^ fieldOf ctl 19 15))).toNat
        (fun w => bitAt w 28 = false ∧ bitAt w 27 = false ∧ bitAt w 26 = true ∧ fieldOf w 25 24 = 0)
        (lowWord s.devTimer) [Reg.SD_STATUS (j.val / 8) (j.val % 8)] ∧
      t.bit (Reg.SD_STATUS (j.val / 8) (j.val % 8)) 0 = true) ∧
    (0 < d.discard → (t.demod j).discard = d.discard - 1 ∧ t.channels = s.channels ∧ t.regs = s.regs) ∧
    (t.demod j).i1 = d.i1 ∧ (t.demod j).i2 = d.i2 ∧ (t.demod j).i3 = d.i3 ∧ (t.demod j).counterFrom = s.now ∧
    (∀ m, m ≠ j.val → t.demod m = s.demod m) ∧ Touches [.regs, .channels, .demods, .sectors, .cyc] s t

/-- A one integrates as +1, a zero as -1, in a chain of three integrators (R118). -/
def sdIntegrator : Prop := ∀ (d : SigmaDelta) (b : Bool),
  let x : Int := if b then 1 else -1
  sdIntegrate d b = { d with i1 := d.i1 + x, i2 := d.i2 + d.i1 + x, i3 := d.i3 + d.i2 + d.i1 + x }

/-- SD_SYNC restarts the decimation counter and nothing else (R119). -/
def sdSync : Prop := ∀ (j : Fin 48) (v : Word) (s : State), s.sectorOn (j.val / 8) →
  (bitAt v 0 = true → exec (.sdSync j v) s = .next (s.setDemod j { s.demod j with counterFrom := s.now })) ∧
  (bitAt v 0 = false → Idle (.sdSync j v) s)

/-- A lost clock holds the demodulator (R119). -/
def sdClkLost : Prop := ∀ (j : Fin 48) (s : State), s.sectorOn (j.val / 8) →
  let status := Reg.SD_STATUS (j.val / 8) (j.val % 8)
  let events := Reg.AFE_STATUS (j.val / 8)
  s.bit (Reg.SD_CTL (j.val / 8) (j.val % 8)) 31 = true → Does (.sdClkLost j) s fun t =>
    t.demod j = { s.demod j with clkLost := true } ∧ t.bit status 0 = false ∧ t.bit status 2 = true ∧
    t.bit status 1 = s.bit status 1 ∧ t.reg events = s.reg events ||| 16 ∧
    (∀ m, m ≠ j.val → t.demod m = s.demod m) ∧
    Touches [.regs, .demods, .cyc] s t ∧ Keeps s t [status, events, groupReg s (832 + j.val / 8)]

/-- A returning clock clears the integrators, and the first three words are discarded; a clock that was not lost does not
return (R119). -/
def sdClkReturn : Prop := ∀ (j : Fin 48) (s : State), s.sectorOn (j.val / 8) →
  ((s.demod j).clkLost = true →
    exec (.sdClkReturn j) s = .next (s.setDemod j { used := (s.demod j).used, discard := 3 })) ∧
  ((s.demod j).clkLost = false → Idle (.sdClkReturn j) s)

/-- 32 equal data bits: overrange and sd_fault; words continue (R119). -/
def sdOverrange : Prop := ∀ (j : Fin 48) (s : State), s.sectorOn (j.val / 8) →
  let status := Reg.SD_STATUS (j.val / 8) (j.val % 8)
  let events := Reg.AFE_STATUS (j.val / 8)
  s.bit (Reg.SD_CTL (j.val / 8) (j.val % 8)) 31 = true → Does (.sdOverrange j) s fun t =>
    t.reg status = s.reg status ||| 2 ∧ t.reg events = s.reg events ||| 16 ∧
    Touches [.regs, .cyc] s t ∧ Keeps s t [status, events, groupReg s (832 + j.val / 8)]

/-- A rotation step starts the spare's calibration while no converter has failed (R120). -/
def calStep : Prop := ∀ (k : Fin 6) (s : State), s.sectorOn k →
  let st := Reg.AFE_CAL_STATUS k
  let may := s.bit (Reg.AFE_CAL_CTL k) 31 = true ∧ s.fld st 31 30 = 0 ∧ s.fld st 27 24 = 0
  (may → exec (.calStep k) s = .next (s.setReg st (withField (s.reg st) 31 30 1))) ∧ (¬ may → Idle (.calStep k) s)

/-- A calibration of the spare ends: it awaits its swap, or the converter is marked failed and kept out, which the
tailstock logs (R120). -/
def calDone : Prop := ∀ (k : Fin 6) (s : State), s.sectorOn k →
  let st := Reg.AFE_CAL_STATUS k
  let spare := s.fld st 29 28
  (s.sector k).foreground = none → s.fld st 31 30 = 1 →
  exec (.calDone k true) s = .next (s.setReg st (withField (s.reg st) 31 30 2)) ∧
  (Does (.calDone k false) s fun t =>
    t.fld st 31 30 = 0 ∧ t.bit st (24 + spare) = true ∧ t.fld st 29 28 = spare ∧
    t.reg (Reg.AFE_STATUS k) = s.reg (Reg.AFE_STATUS k) ||| 128 ∧ t.bit (Reg.TS_IRQ_PEND 0) 30 = true ∧
    (logRepeats 10 (Config.logCode evCalFailure).toNat s = false → t.log.nextSeq = s.log.nextSeq + 1) ∧
    Touches [.freeCtr, .regs, .log, .canNode, .cyc] s t ∧
    Keeps s t [st, Reg.AFE_STATUS k, Reg.TS_IRQ_PEND 0, groupReg s (832 + k)])

/-- A foreground calibration ends: the converter's ADC accepts triggers again (R120). -/
def calDoneForeground : Prop := ∀ (k : Fin 6) (s : State) (c n : Nat), s.sectorOn k →
  (s.sector k).foreground = some c → s.adcOfConv k c = some n → (s.adc n).running = false →
  s.fld (Reg.AFE_CAL_STATUS k) 31 30 = 1 →
  Does (.calDone k true) s fun t =>
    t.adc n = { s.adc n with calibrating := false } ∧ (t.sector k).foreground = none ∧
    t.fld (Reg.AFE_CAL_STATUS k) 31 30 = 0 ∧
    (∀ m, m ≠ n → t.adc m = s.adc m) ∧
    Touches [.regs, .adcs, .sectors, .cyc] s t ∧ Keeps s t [Reg.AFE_CAL_STATUS k]

/-- The swap: the spare serves the idle ADC whose converter's calibration is oldest (equally old: the lower converter
number), the released converter is the spare, and the new one's calibration is the newest (R120). -/
def calSwap : Prop := ∀ (k : Fin 6) (s : State) (a : Nat), s.sectorOn k →
  let st := Reg.AFE_CAL_STATUS k
  let conv i := (s.adc (4 * k.val + i)).conv
  let age i := (s.sector k).calAge.getD (conv i) 0
  s.fld st 31 30 = 2 → a < 3 → (∀ i < 4, conv i < 4) →
  (∀ b < 3, b ≠ a → age a < age b ∨ age a = age b ∧ conv a < conv b) →
  ((s.adc (4 * k.val + a)).running = false → Does (.calSwap k) s fun t =>
    t.adc (4 * k.val + a) = { s.adc (4 * k.val + a) with conv := s.fld st 29 28, swapped := true } ∧
    t.fld st 29 28 = conv a ∧ t.fld st 31 30 = 0 ∧ t.fld st 27 24 = s.fld st 27 24 ∧
    t.sector k = { s.sector k with
      calAge := (s.sector k).calAge.set (s.fld st 29 28) ((s.sector k).calCount + 1)
      calCount := (s.sector k).calCount + 1 } ∧
    (∀ m, m ≠ 4 * k.val + a → t.adc m = s.adc m) ∧ Touches [.regs, .adcs, .sectors] s t ∧ Keeps s t [st]) ∧
  ((s.adc (4 * k.val + a)).running = true → Idle (.calSwap k) s)

/-- An outgoing ADC that was never idle: the step is skipped with the same spare (R120). -/
def calSkip : Prop := ∀ (k : Fin 6) (s : State), s.sectorOn k →
  let st := Reg.AFE_CAL_STATUS k
  s.fld st 31 30 = 2 → Does (.calSkip k) s fun t =>
    t.fld st 31 30 = 0 ∧ t.fld st 29 24 = s.fld st 29 24 ∧
    t.reg (Reg.AFE_STATUS k) = s.reg (Reg.AFE_STATUS k) ||| 64 ∧
    Touches [.regs, .cyc] s t ∧ Keeps s t [st, Reg.AFE_STATUS k, groupReg s (832 + k)]

/-- The tailstock switches rotation off: the spare serves ADC 4s + 3 and a calibration of it is abandoned; on: the
converter of ADC 4s + 3 is the spare, and its queued triggers are dropped (R106, R110, R120). -/
def rotate : Prop := ∀ (k : Fin 6) (v : Word) (s : State), s.sectorOn k →
  let st := Reg.AFE_CAL_STATUS k
  let ctl := Reg.AFE_CAL_CTL k
  let n := 4 * k.val + 3
  (s.bit ctl 31 = true → bitAt v 31 = false → Does (.rotate k v) s fun t =>
    t.adc n = { s.adc n with conv := s.fld st 29 28 } ∧ t.fld st 31 30 = 0 ∧ t.fld st 29 24 = s.fld st 29 24 ∧
    t.reg ctl = v &&& 0xB00FFFFF ∧ (∀ m, m ≠ n → t.adc m = s.adc m) ∧
    Touches [.regs, .adcs, .cyc] s t ∧ Keeps s t [st, ctl]) ∧
  (s.bit ctl 31 = false → bitAt v 31 = true → Does (.rotate k v) s fun t =>
    t.fld st 29 28 = (s.adc n).conv % 4 ∧ (t.adc n).queue = [] ∧ (t.adc n).running = (s.adc n).running ∧
    ((s.adc n).running → bitAt (t.adc n).word 31 = true) ∧ t.reg ctl = v &&& 0xB00FFFFF ∧
    t.fld (Reg.AFE_TRIG_LOST k) 31 16 =
      min 65535 (s.fld (Reg.AFE_TRIG_LOST k) 31 16 + (s.adc n).queue.length) ∧
    (∀ m, m ≠ n → t.adc m = s.adc m) ∧ Touches [.regs, .adcs, .cyc] s t) ∧
  (s.bit ctl 31 = bitAt v 31 → exec (.rotate k v) s = .next (s.setReg ctl (v &&& 0xB00FFFFF)))

/-- With rotation off, cal_req holds the ADC of cal_conv for a calibration, which starts once the ADC is idle; with it on,
cal_req is ignored (R120, R130). -/
def calReq : Prop := ∀ (k : Fin 6) (v : Word) (s : State), s.sectorOn k →
  let ctl := Reg.AFE_CAL_CTL k
  (s.bit ctl 31 = false → bitAt v 31 = false → (s.sector k).foreground = none →
    ∀ n, s.adcOfConv k (fieldOf v 29 28) = some n → Does (.calReq k v) s fun t =>
      t.adc n = { s.adc n with calibrating := true } ∧ (t.sector k).foreground = some (fieldOf v 29 28) ∧
      ((s.adc n).running = false → t.fld (Reg.AFE_CAL_STATUS k) 31 30 = 1) ∧
      ((s.adc n).running = true → t.reg (Reg.AFE_CAL_STATUS k) = s.reg (Reg.AFE_CAL_STATUS k)) ∧ t.reg ctl = v &&& 0xB00FFFFF ∧
      (∀ m, m ≠ n → t.adc m = s.adc m) ∧
      Touches [.regs, .adcs, .sectors, .cyc] s t ∧ Keeps s t [Reg.AFE_CAL_STATUS k, ctl]) ∧
  (s.bit ctl 31 = true → bitAt v 31 = true → exec (.calReq k v) s = .next (s.setReg ctl (v &&& 0xB00FFFFF)))


/-! ### spec/06: the loop engines -/

/-- Every context but `k` stands in `t` as in `s`. -/
def otherLoops (s t : State) (k : Nat) : Prop := ∀ j, j ≠ k → t.ctx j = s.ctx j

/-- In `t` an update of context `k` is faulted with the events `bits` (R148, R149): nothing is pending, the state does not
advance, and at fault_limit the context is TRIPPED. -/
def loopFaulted (s t : State) (k : Nat) (bits : List Nat) : Prop :=
  let limit := s.fld (Reg.LOOP_GUARD k) 31 24
  let run := (s.ctx k).faultRun + 1
  (∀ b ∈ bits, t.bit (Reg.LOOP_STATUS k) b = true) ∧ t.bit (Reg.LOOP_STATUS k) 28 = false ∧
  (t.ctx k).pend = none ∧ (t.ctx k).stage = .idle ∧
  (∀ w < 64, t.reg (Reg.LOOP_STATE k w) = s.reg (Reg.LOOP_STATE k w)) ∧
  (limit = 0 ∨ run < limit → t.fld (Reg.LOOP_STATUS k) 31 29 = 2 ∧ (t.ctx k).faultRun = run) ∧
  (limit ≠ 0 → limit ≤ run → t.fld (Reg.LOOP_STATUS k) 31 29 = 3 ∧ t.bit (Reg.LOOP_STATUS k) 6 = true ∧
    (t.ctx k).queued = []) ∧ otherLoops s t k

/-- Context `k` is powered and used as the spec defines it: an enabled context is parted, or free of writes and settings
that leave its results undefined (R131, R140, R153 to R158). -/
def loopServes (s : State) (k : Nat) : Prop := s.loopOn k ∧ s.loopMisused k = false

/-- A misused context's event leaves its own results open, and no other context's (R40). -/
def loopMisuse : Prop := ∀ (k : Fin 384) (s : State), s.loopOn k → s.loopMisused k = true →
  ∀ c ∈ [Instr.loopStartEvent k, .loopIssue k, .predictedRunDone k, .sampleConfirm k, .recomputeDone k, .settleDone k,
    .sampleTimeout k, .stateRebuild k],
    Does c s fun t => otherLoops s t k ∧ t.mem = s.mem ∧ t.cores = s.cores

/-- A start whose source has had its event is queued while the update in flight and the starts before it leave room, and
dropped as an overrun otherwise; an arrival at a CORE context replaces a sample that no core has taken, as an overrun. A
context that takes no starts, or whose source has had no event, ignores it (R131, R132, R134, R147, R155). -/
def loopStartEvent : Prop := ∀ (k : Fin 384) (s : State), loopServes s k →
  let c := s.ctx k
  let st := s.fld (Reg.LOOP_STATUS k) 31 29
  let came := s.startCame k = true
  let open' := s.bit (Reg.LOOP_START k) 31 = true ∧ s.bit (Reg.LOOP_CTL k) 31 = true ∧ (st = 1 ∨ st = 2 ∨ st = 5) ∧
    c.stage ≠ .leaving ∧ c.stage ≠ .arriving
  let posts := s.loopType k = 4 ∧ s.fld (Reg.LOOP_START k) 30 29 = 3 ∧ c.stage = .posted ∧ c.taken = []
  let room := c.queued.length < (if c.stage = .idle then 2 else 1)
  let overrun (t : State) : Prop := t.bit (Reg.LOOP_STATUS k) 5 = true ∧
    t.fld (Reg.LOOP_FAULTS k) 7 0 = min 255 (s.fld (Reg.LOOP_FAULTS k) 7 0 + 1) ∧
    Keeps s t [Reg.LOOP_STATUS k, Reg.LOOP_FAULTS k, groupReg s (896 + k)]
  (open' → came → ¬ posts → room → exec (.loopStartEvent k) s =
    .next (s.setCtx k { c with queued := c.queued ++ [(lowWord s.devTimer, s.now)] })) ∧
  (open' → came → ¬ posts → ¬ room → Does (.loopStartEvent k) s fun t => t.loops = s.loops ∧ overrun t ∧
    Touches [.regs, .cyc, .pulses] s t) ∧
  (open' → came → posts → Does (.loopStartEvent k) s fun t => overrun t ∧ (t.ctx k).stage = .posted ∧
    (t.ctx k).taken = [] ∧ (0 < s.loopNin k → (t.ctx k).post = (s.scaleIn k c.bank 0 (s.rawIn k 0)).v) ∧
    otherLoops s t k ∧ Touches [.regs, .loops, .cyc, .pulses] s t) ∧
  (c.stage ≠ .arriving → ¬ open' ∨ ¬ came → Idle (.loopStartEvent k) s)

/-- Context `k` has a start, nothing in flight, and its last issue lies 64 cycles back (R132). -/
def ready (s : State) (k : Nat) (st : Word × Nat) : Prop := (s.ctx k).queued.head? = some st ∧ (s.ctx k).stage = .idle ∧
  s.takesStarts k = true ∧ ((s.ctx k).issuedAt = 0 ∨ (s.ctx k).issuedAt + 64 ≤ s.now + 1)

/-- The engine's slot is context `k`'s: 8 cycles after the last issue of each of its contexts, and no ready one with an
earlier start, or with as early a start and a lower number (R132). -/
def mayIssue (s : State) (k : Nat) (st : Word × Nat) : Prop := ∀ i < 8,
  let m := k / 8 * 8 + i
  ((s.ctx m).issuedAt = 0 ∨ (s.ctx m).issuedAt + 8 ≤ s.now + 1) ∧
  ∀ x ∈ (s.ctx m).queued.head?, ready s m x → st.2 < x.2 ∨ (st.2 = x.2 ∧ k ≤ m)

/-- An issue takes the queued start, latches references, inputs and the bank requested, and counts; the update then awaits
its predicted inputs, or, with none, goes on in the lane, or is posted to a core (R133, R134, R140, R147). A context that
is not ready, or whose turn it is not, issues nothing (R132). -/
def loopIssue : Prop := ∀ (k : Fin 384) (s : State), loopServes s k →
  let rs := s.reg (Reg.LOOP_REF_SRC k)
  let ref (a : Nat) : Word := if bitAt rs 31 = true ∧ fieldOf rs 30 30 = a then
    s.reg (Reg.LOOP_OUTV (fieldOf rs 8 0) (fieldOf rs 17 16)) else s.reg (Reg.LOOP_REF k a)
  let bank := ((s.ctx k).bankWanted).getD (s.bit (Reg.LOOP_BANK k) 8)
  ((∀ st, ¬ (ready s k st ∧ mayIssue s k st)) → Idle (.loopIssue k) s) ∧
  ∀ st, ready s k st → mayIssue s k st → s.issueFault k = 0 →
    let direct := s.awaitedInputs k = []
    Does (.loopIssue k) s fun t =>
      (t.ctx k).queued = (s.ctx k).queued.tail ∧ (t.ctx k).start = st.1 ∧ (t.ctx k).ref0 = ref 0 ∧
      (t.ctx k).ref1 = ref 1 ∧ (t.ctx k).issuedAt = s.now + 1 ∧
      (t.ctx k).bank = bank ∧ t.bit (Reg.LOOP_BANK k) 8 = bank ∧
      t.reg (Reg.LOOP_UPDATES k) = s.reg (Reg.LOOP_UPDATES k) + 1 ∧
      (¬ direct → (t.ctx k).stage = .waiting ∧ (t.ctx k).raw = (s.inputs k).map (s.rawIn k)) ∧
      (direct → s.loopType k ≠ 4 → (t.ctx k).stage = .lane) ∧
      (direct → s.loopType k = 4 → (t.ctx k).stage = .posted) ∧
      (∀ w < 64, t.reg (Reg.LOOP_STATE k w) = s.reg (Reg.LOOP_STATE k w)) ∧ otherLoops s t k ∧
      Touches [.freeCtr, .regs, .loops, .cyc, .pulses] s t

/-- An issue that reads an input, an angle spindle or a reference source that cannot be used is faulted (R148). -/
def loopIssueFault : Prop := ∀ (k : Fin 384) (s : State) (st : Word × Nat), loopServes s k → ready s k st →
  mayIssue s k st → s.issueFault k ≠ 0 →
  Does (.loopIssue k) s fun t => loopFaulted s t k ((List.range 4).filter fun b => bitAt (s.issueFault k) b) ∧
    Touches [.freeCtr, .regs, .comparators, .pairs, .groups, .loops, .cyc, .pulses] s t

/-- A predicted duty waits in stage 8 and shows in LOOP_PENDING_DUTY and in pending only: no pair, no confirmed output, no
settled state and no other context sees it (R141, R143). -/
def predictedRunDone : Prop := ∀ (k : Fin 384) (s : State), loopServes s k →
  ((s.ctx k).stage ≠ .waiting ∨ (s.ctx k).predicted = false ∨ (s.ctx k).pend ≠ none → Idle (.predictedRunDone k) s) ∧
  ((s.ctx k).stage = .waiting → (s.ctx k).predicted = true → (s.ctx k).pend = none →
    Does (.predictedRunDone k) s fun t => t.bit (Reg.LOOP_STATUS k) 28 = true ∧
      (∃ us ds, (t.ctx k).pend = some (us, ds) ∧
        ∀ m < 4, ∀ d, ds[m]? = some d → t.reg (Reg.LOOP_PENDING_DUTY k m) = toWord (0x80000000 + d.2 % 2 ^ 24)) ∧
      otherLoops s t k ∧ Touches [.regs, .loops, .cyc, .pulses] s t ∧
      Keeps s t (Reg.LOOP_STATUS k :: (List.range 4).map (Reg.LOOP_PENDING_DUTY k)))

/-- Every predicted input lies within tol of its prediction (R142). -/
def withinTol (s : State) (k : Nat) : Prop := ∀ i ∈ s.awaitedInputs k,
  fpLt (s.coef k (s.ctx k).bank (8 + i))
    (fpAbs (fpSub (s.scaleIn k (s.ctx k).bank i (s.rawIn k i)) (fpOf ((s.ctx k).predY.getD i 0)))) = false

/-- No prediction of context `k` shows (R143). -/
def nothingPending (t : State) (k : Nat) : Prop := (t.ctx k).pend = none ∧ t.bit (Reg.LOOP_STATUS k) 28 = false ∧
  ∀ m < 4, t.reg (Reg.LOOP_PENDING_DUTY k m) = 0

/-- The predicted inputs have arrived, valid and in range: within tolerance the pending outputs are confirmed, outside it
the prediction is discarded without a trace but in the counter, and the update recomputes. The state has not moved yet
(R142, R143). -/
def sampleConfirm : Prop := ∀ (k : Fin 384) (s : State) (us : List Word) (ds : List (Nat × Nat)), loopServes s k →
  (s.ctx k).stage = .waiting → s.awaitedInputs k ≠ [] → s.arrived k = true →
  (∀ i ∈ s.awaitedInputs k, s.inFault k i = 0) → (s.ctx k).predicted = true → (s.ctx k).pend = some (us, ds) →
  us.length ≤ 4 → (∀ d ∈ ds, d.1 / 4 < 96) → s.loopType k ≠ 4 → s.loopPredictor k ≠ 0 →
  (withinTol s k → Does (.sampleConfirm k) s fun t => nothingPending t k ∧ (t.ctx k).stage = .settling ∧
    (∀ o, (h : o < us.length) → t.reg (Reg.LOOP_OUTV k o) = us[o]) ∧ t.bit (Reg.LOOP_STATUS k) 0 = true ∧
    (t.reg (Reg.LOOP_SPEC_CONFIRM k)).toNat = min 0xFFFFFFFF ((s.reg (Reg.LOOP_SPEC_CONFIRM k)).toNat + 1) ∧
    (∀ w < 64, t.reg (Reg.LOOP_STATE k w) = s.reg (Reg.LOOP_STATE k w)) ∧ otherLoops s t k ∧
    Touches [.regs, .comparators, .pairs, .groups, .loops, .cyc, .pulses] s t) ∧
  (¬ withinTol s k → Does (.sampleConfirm k) s fun t => nothingPending t k ∧ (t.ctx k).stage = .lane ∧
    (t.reg (Reg.LOOP_SPEC_RECOMPUTE k)).toNat = min 0xFFFFFFFF ((s.reg (Reg.LOOP_SPEC_RECOMPUTE k)).toNat + 1) ∧
    (∀ o < 4, t.reg (Reg.LOOP_OUTV k o) = s.reg (Reg.LOOP_OUTV k o)) ∧
    (∀ w < 64, t.reg (Reg.LOOP_STATE k w) = s.reg (Reg.LOOP_STATE k w)) ∧ otherLoops s t k ∧
    Touches [.regs, .loops, .cyc, .pulses] s t)

/-- A context that awaits nothing, or whose last predicted input has not arrived, does not confirm; a sample that is
stale, invalid or out of range faults the update (R142, R148). -/
def sampleConfirmElse : Prop := ∀ (k : Fin 384) (s : State), loopServes s k →
  ((s.ctx k).stage ≠ .waiting → (s.ctx k).stage ≠ .posted → Idle (.sampleConfirm k) s) ∧
  (s.arrived k = false ∨ s.awaitedInputs k = [] → Idle (.sampleConfirm k) s) ∧
  ∀ i b, (s.ctx k).stage = .waiting → i ∈ s.awaitedInputs k → s.arrived k = true → b < 4 →
    bitAt (s.inFault k i) b = true → Does (.sampleConfirm k) s fun t => loopFaulted s t k [b] ∧
      Touches [.freeCtr, .regs, .comparators, .pairs, .groups, .loops, .cyc, .pulses] s t

/-- What a PI law of one axis and one input gives context `k`, with the bank and the reference latched at issue: the scaled
input, the limited output, the integrator (R133, R136, R137). -/
def piY (s : State) (k : Nat) : Fp :=
  let c := s.coef k (s.ctx k).bank
  fpAdd (fpMul (c 0) (fpOf ((s.ctx k).raw.getD 0 0))) (c 4)
def piE (s : State) (k : Nat) : Fp := fpSub (fpOf (s.ctx k).ref0) (piY s k)
def piOut (s : State) (k : Nat) : Fp :=
  let c := s.coef k (s.ctx k).bank
  fpMin (fpMaxOf (fpAdd (fpMul (c 32) (piE s k)) (s.lst k 0)) (c 12)) (c 16)
def piInt (s : State) (k : Nat) : Fp := fpAdd (s.lst k 0) (fpMul (s.coef k (s.ctx k).bank 33) (piE s k))

/-- Context `k` is a PI loop of one axis and one input, without transform, anti-windup, rate limit and observer, and with
no settings that the spec calls undefined (R139, R153, R158). -/
def plainPi (s : State) (k : Nat) : Prop :=
  s.fld (Reg.LOOP_CTL k) 30 28 = 0 ∧ s.bit (Reg.LOOP_CTL k) 21 = false ∧ s.fld (Reg.LOOP_CTL k) 13 12 = 0 ∧
  s.fld (Reg.LOOP_CTL k) 11 10 = 0 ∧ s.fld (Reg.LOOP_CTL k) 23 22 = 0 ∧
  fpIsZero (s.coef k (s.ctx k).bank 20) = true ∧ s.fld (Reg.LOOP_OBS_CTL k) 30 28 = 0 ∧ s.loopMisused k = false

/-- In `t` an update of context `k` has ended: nothing is in flight, the context runs, and update is set (R132, R157). -/
def updateEnded (s t : State) (k : Nat) : Prop :=
  (t.ctx k).stage = .idle ∧ (t.ctx k).faultRun = 0 ∧ (t.ctx k).queued = (s.ctx k).queued ∧
  t.bit (Reg.LOOP_STATUS k) 0 = true ∧
  t.fld (Reg.LOOP_STATUS k) 31 29 = (if s.fld (Reg.LOOP_STATUS k) 31 29 = 2 then 1 else s.fld (Reg.LOOP_STATUS k) 31 29)

/-- The recompute lane gives output and state by the law; a PI loop in full (R133, R136, R137, R142). -/
def recomputeDone : Prop := ∀ (k : Fin 384) (s : State), loopServes s k →
  ((s.ctx k).stage ≠ .lane → Idle (.recomputeDone k) s) ∧
  ((s.ctx k).stage = .lane → s.obsMode k = 0 → Does (.recomputeDone k) s fun t =>
    updateEnded s t k ∧ otherLoops s t k ∧ Touches [.regs, .comparators, .pairs, .groups, .loops, .cyc, .pulses] s t) ∧
  ((s.ctx k).stage = .lane → plainPi s k → Does (.recomputeDone k) s fun t =>
    t.reg (Reg.LOOP_OUTV k 0) = (piOut s k).v ∧ t.reg (Reg.LOOP_STATE k 0) = (piInt s k).v ∧
    t.reg (Reg.LOOP_STATE k 4) = (piY s k).v ∧ t.reg (Reg.LOOP_STATE k 24) = (piOut s k).v ∧
    ∀ w < 64, w ∉ [0, 2, 4, 24] → t.reg (Reg.LOOP_STATE k w) = s.reg (Reg.LOOP_STATE k w))

/-- A settle pass moves the state by the true samples, and no output; a rebuild's replay leaves the context running with
rebuilt set (R142, R149). -/
def settleDone : Prop := ∀ (k : Fin 384) (s : State), loopServes s k →
  ((s.ctx k).stage ≠ .settling → (s.ctx k).stage ≠ .rebuilding → Idle (.settleDone k) s) ∧
  ((s.ctx k).stage = .settling → s.obsMode k = 0 → Does (.settleDone k) s fun t =>
    updateEnded s t k ∧ (∀ o < 4, t.reg (Reg.LOOP_OUTV k o) = s.reg (Reg.LOOP_OUTV k o)) ∧ otherLoops s t k ∧
    Touches [.regs, .loops, .cyc, .pulses] s t) ∧
  ((s.ctx k).stage = .settling → plainPi s k → Does (.settleDone k) s fun t =>
    t.reg (Reg.LOOP_STATE k 0) = (piInt s k).v ∧ t.reg (Reg.LOOP_STATE k 4) = (piY s k).v ∧
    t.reg (Reg.LOOP_STATE k 24) = (piOut s k).v) ∧
  ((s.ctx k).stage = .rebuilding → s.obsMode k = 0 → Does (.settleDone k) s fun t =>
    (t.ctx k).stage = .idle ∧ (t.ctx k).hist = (s.ctx k).hist ∧ t.fld (Reg.LOOP_STATUS k) 31 29 = 1 ∧
    t.bit (Reg.LOOP_STATUS k) 8 = true ∧ (∀ o < 4, t.reg (Reg.LOOP_OUTV k o) = s.reg (Reg.LOOP_OUTV k o)) ∧
    otherLoops s t k ∧ Touches [.regs, .loops, .cyc, .pulses] s t)

/-- No sample, or no LPUT, within sample_to: the update is faulted as no_sample and counted; with sample_to 0, or nothing
awaited, nothing happens (R147, R148, R152). -/
def sampleTimeout : Prop := ∀ (k : Fin 384) (s : State), loopServes s k →
  let awaits := (s.ctx k).stage = .waiting ∨ (s.ctx k).stage = .posted
  (awaits → s.fld (Reg.LOOP_GUARD k) 23 0 ≠ 0 → Does (.sampleTimeout k) s fun t => loopFaulted s t k [4] ∧
    t.fld (Reg.LOOP_FAULTS k) 15 8 = min 255 (s.fld (Reg.LOOP_FAULTS k) 15 8 + 1) ∧
    Touches [.freeCtr, .regs, .comparators, .pairs, .groups, .loops, .cyc, .pulses] s t) ∧
  (¬ awaits ∨ s.fld (Reg.LOOP_GUARD k) 23 0 = 0 → Idle (.sampleTimeout k) s)

/-- A state word that fails detection: it is counted, the state is zeroed, the outputs hold, and the context rebuilds,
unless fault_limit trips it (R148, R149). -/
def stateRebuild : Prop := ∀ (k : Fin 384) (s : State), loopServes s k → s.bit (Reg.LOOP_CTL k) 31 = true →
  s.fld (Reg.LOOP_STATUS k) 31 29 = 1 ∨ s.fld (Reg.LOOP_STATUS k) 31 29 = 2 →
  let limit := s.fld (Reg.LOOP_GUARD k) 31 24
  Does (.stateRebuild k) s fun t => (∀ w < 36, t.reg (Reg.LOOP_STATE k w) = 0) ∧
    (t.reg Reg.INT_DETECTS).toNat = min 0xFFFFFFFF ((s.reg Reg.INT_DETECTS).toNat + 1) ∧ nothingPending t k ∧
    (∀ o < 4, t.reg (Reg.LOOP_OUTV k o) = s.reg (Reg.LOOP_OUTV k o)) ∧
    (limit = 0 ∨ (s.ctx k).faultRun + 1 < limit → t.fld (Reg.LOOP_STATUS k) 31 29 = 5 ∧
      (t.ctx k).stage = .rebuilding ∧ t.pairs = s.pairs) ∧
    (limit ≠ 0 → limit ≤ (s.ctx k).faultRun + 1 → t.fld (Reg.LOOP_STATUS k) 31 29 = 3) ∧ otherLoops s t k

/-- What a bank request with selection `v` leaves of context `k`; 0b10 turns over the bank to come (the model's reading,
log entry 20), 0b11 has undefined results for the loop (R140). -/
def bankAsked (s : State) (k v : Nat) : State :=
  let c := s.ctx k
  if v = 0 then s.setCtx k { c with bankWanted := some false, bankBad := false }
  else if v = 1 then s.setCtx k { c with bankWanted := some true, bankBad := false }
  else if v = 2 then
    s.setCtx k { c with bankWanted := some !(c.bankWanted.getD (s.bit (Reg.LOOP_BANK k) 8)), bankBad := false }
  else s.setCtx k { c with bankBad := true }

/-- LOOP_BANK and COEFSWAP request a bank for the next issue; COEFSWAP on a context that does not exist does nothing
(R79, R140). -/
def loopBank : Prop := ∀ (k : Fin 384) (v target data : Word) (s : State),
  (s.loopOn k → exec (.loopBank k v) s = .next (bankAsked s k (fieldOf v 1 0))) ∧
  (fieldOf target 8 0 < 384 → s.loopOn (fieldOf target 8 0) →
    exec (.coefswap target data) s = .next (bankAsked s (fieldOf target 8 0) (fieldOf data 1 0))) ∧
  (384 ≤ fieldOf target 8 0 → Idle (.coefswap target data) s)

/-- A write of LOOP_CTL: enable 1 starts a disabled context without history, enable 0 stops it and discards what is
pending; TRIPPED and PARTED are left only by enable 0 and then 1 (R131, R148, R149). -/
def loopEnable : Prop := ∀ (k : Fin 384) (v : Word) (s : State), s.loopOn k → s.aborting 0 k = false →
  let st := s.fld (Reg.LOOP_STATUS k) 31 29
  let held := st = 3 ∨ st = 4
  let ctl := Reg.LOOP_CTL k
  (bitAt v 31 = true → s.bit ctl 31 = false → ¬ held ∨ (s.ctx k).sawDisable = true → Does (.loopEnable k v) s fun t =>
    t.reg ctl = v &&& 0xFFEFFC00 ∧ t.fld (Reg.LOOP_STATUS k) 31 29 = 1 ∧ (t.ctx k).stage = .idle ∧
    (t.ctx k).hist = [[], [], [], []] ∧ (t.ctx k).queued = [] ∧ (t.ctx k).faultRun = 0 ∧ otherLoops s t k ∧
    Touches [.regs, .loops] s t ∧ Keeps s t [ctl, Reg.LOOP_STATUS k]) ∧
  (bitAt v 31 = true → s.bit ctl 31 = false → held → (s.ctx k).sawDisable = false →
    exec (.loopEnable k v) s = .next (s.setReg ctl (v &&& 0xFFEFFC00))) ∧
  (bitAt v 31 = true → s.bit ctl 31 = true → (s.reg ctl ^^^ (v &&& 0xFFEFFC00)) &&& 0x7CFFFC00 = 0 →
    exec (.loopEnable k v) s = .next (s.setReg ctl (v &&& 0xFFEFFC00))) ∧
  (bitAt v 31 = false → Does (.loopEnable k v) s fun t => t.reg ctl = v &&& 0xFFEFFC00 ∧ nothingPending t k ∧
    (t.ctx k).stage = .idle ∧ (t.ctx k).queued = [] ∧ (t.ctx k).sawDisable = true ∧
    t.fld (Reg.LOOP_STATUS k) 31 29 = (if held then st else 0) ∧ otherLoops s t k ∧ Touches [.regs, .loops] s t ∧
    Keeps s t (ctl :: Reg.LOOP_STATUS k :: (List.range 4).map (Reg.LOOP_PENDING_DUTY k)))

/-! ### spec/07: the pulse-width modulators -/

/-- Group `g`'s carrier runs with settings that the spec lists: per32 from 2,048 on, a listed carrier mode and vcmp, a
PWM_SYNC number of its kind (R39, R160, R179, R181). -/
def carrierServes (s : State) (g : Nat) : Prop := s.carrierRuns g ∧ s.groupMisused g = false

/-- In `t` group `g` has started a period at position `x`: the period event, the end of the valley window, the hand-over
of an arming group, and the shadow load of every unshifted pair that loads at the zero point, from the shadow as it stood
before a write of this cycle (R33, R160, R166, R175). -/
def periodStarted (s t : State) (g x : Nat) (every : Bool) : Prop :=
  let st := Reg.PWM_GRP_STATUS g
  t.reg (Reg.PWM_POS g) = toWord x ∧ t.bit st 1 = true ∧ (t.group g).valleyOpen = false ∧
  t.pulsed (periodPulse g) 1 = true ∧
  t.fld st 31 30 = (if s.fld st 31 30 = 1 then 2 else s.fld st 31 30) ∧
  (∀ p < 4, every = true ∨ (s.pair (4 * g + p)).shift = 0 → s.fld (Reg.PWM_PAIR_CTL g p) 29 28 = 0 →
    (s.pair (4 * g + p)).ownerA = none →
    t.reg (Reg.PWM_CMPA_ACT g p) = toWord (fieldOf (s.loaded (Reg.PWM_CMPA g p)) 23 0) ∧
    (t.pair (4 * g + p)).shift = fieldOf (s.loaded (Reg.PWM_SHIFT g p)) 23 0) ∧
  (∀ h, h ≠ g → t.group h = s.group h) ∧ Touches [.cyc, .regs, .comparators, .pairs, .groups, .pulses] s t

/-- The carrier reaches per32, and the remainder carries into the next period; one that has not reached it starts at 0
(R160, R162). With a setting that is not listed the group's own results are open (R40). -/
def carrierPeriod : Prop := ∀ (g : Fin 24) (s : State), s.carrierRuns g →
  (s.groupMisused g = false → s.carrierMode g < 2 → s.fld (Reg.PWM_SYNC g) 31 30 ≠ 3 →
    Does (.carrierPeriod g .period) s fun t =>
      periodStarted s t g (if (s.group g).due then s.fld (Reg.PWM_POS g) 23 0 else 0) false) ∧
  (s.groupMisused g = true → Does (.carrierPeriod g .period) s fun t =>
    (∀ h, h ≠ g.val → t.group h = s.group h) ∧ (∀ k, k / 4 ≠ g.val → t.pair k = s.pair k) ∧
    t.pwmState g = s.pwmState g ∧ Touches [.freeCtr, .regs, .pairs, .groups, .cyc, .pulses] s t)

/-- In lock mode the period starts at floor(phase x per32 / 2^32) of the spindle (R161). -/
def carrierPeriodLocked : Prop := ∀ (g : Fin 24) (s : State), carrierServes s g → s.carrierMode g < 2 →
  let n := s.fld (Reg.PWM_SYNC g) 9 0
  let pos := (tabGet ({} : Spindle) n s.spindles).pos
  s.fld (Reg.PWM_SYNC g) 31 30 = 3 →
  Does (.carrierPeriod g .period) s fun t =>
    periodStarted s t g ((lowWord pos).toNat * s.per32 g / 2 ^ 32) false

/-- In valley switching the position holds and the valley window opens (R163). -/
def carrierPeriodValley : Prop := ∀ (g : Fin 24) (s : State), carrierServes s g → s.carrierMode g = 2 →
  fieldOf (s.grpCtl g) 15 0 ≠ 0 →
  exec (.carrierPeriod g .period) s = .next
    ((s.setReg (Reg.PWM_POS g) (toWord (s.per32 g))).setGroup g { s.group g with valleyOpen := true, due := false })

/-- The comparator vcmp of the sector, active inside the window, starts the period; without a window, and while it is
inactive, nothing happens (R163). -/
def valleyDetect : Prop := ∀ (g : Fin 24) (s : State), carrierServes s g →
  let seen := (s.comparator (12 * (g.val / 4) + fieldOf (s.grpCtl g) 19 16)).out
  ((s.group g).valleyOpen = true → seen = true → Does (.valleyDetect g) s fun t => periodStarted s t g 0 false) ∧
  ((s.group g).valleyOpen = false ∨ seen = false → Idle (.valleyDetect g) s)

/-- The end of the valley window starts the period if no valley came; without a window nothing happens (R163). -/
def valleyWindowEnd : Prop := ∀ (g : Fin 24) (s : State), s.carrierRuns g →
  ((s.group g).valleyOpen = true → Does (.valleyWindowEnd g) s fun t => periodStarted s t g 0 false) ∧
  ((s.group g).valleyOpen = false → Idle (.valleyWindowEnd g) s)

/-- In `t` group `g`, if it was armed in `s`, has taken its trip actions (R171). -/
def tripped (s t : State) (g : Nat) : Prop := s.pwmState g = 2 →
  ((∃ p < 4, (s.pair (4 * g + p)).tripped = false) → t.bit (Reg.PWM_GRP_STATUS g) 2 = true) ∧
  ∀ p < 4, (t.pair (4 * g + p)).tripped = true ∧ ((s.pair (4 * g + p)).tripped = false →
    (t.pair (4 * g + p)).a.rising = false ∧ (t.pair (4 * g + p)).b.rising = false)

/-- The event line, or the period event of the group, that PWM_SYNC names has come in the last two cycles: the group
restarts at PWM_SYNC_PHASE, a zero load point of every pair. In lock mode a spindle outside LOCKED and COAST is a lost
lock, which trips an armed group. A source that PWM_SYNC does not name, or that has had no event, does nothing (R161,
R181). -/
def syncRestart : Prop := ∀ (g : Fin 24) (src : SyncSource) (s : State), carrierServes s g →
  let kind := s.fld (Reg.PWM_SYNC g) 31 30
  let n := s.fld (Reg.PWM_SYNC g) 9 0
  let spindle := s.fld (Reg.SPN_STATUS n) 31 29
  let came := (∃ q, src = .line q ∧ kind = 1 ∧ n = q.val ∧ s.pulsed (linePulse q) 2 = true) ∨
    (∃ h, src = .group h ∧ kind = 2 ∧ n = h.val ∧ s.pulsed (periodPulse h) 2 = true)
  (came → s.fld (Reg.PWM_SYNC_PHASE g) 23 0 < s.per32 g →
    Does (.syncRestart ⟨g, src⟩) s fun t => periodStarted s t g (s.fld (Reg.PWM_SYNC_PHASE g) 23 0) true) ∧
  (¬ came → src ≠ .spindle → Idle (.syncRestart ⟨g, src⟩) s) ∧
  (src = .spindle → kind ≠ 3 ∨ spindle = 2 ∨ spindle = 4 → Idle (.syncRestart ⟨g, src⟩) s) ∧
  (src = .spindle → kind = 3 → spindle ≠ 2 → spindle ≠ 4 → Does (.syncRestart ⟨g, src⟩) s fun t =>
    t.bit (Reg.PWM_GRP_STATUS g) 7 = true ∧ (t.group g).lockTrip = true ∧ tripped s t g ∧
    (s.pwmState g ≠ 2 → t.pairs = s.pairs) ∧
    Touches [.regs, .pairs, .groups, .cyc, .pulses] s t ∧ Keeps s t [Reg.PWM_GRP_STATUS g, groupReg s (1280 + g)])

/-- No zone of sector `k` has an input asserted, so that no trip comes between (R169). -/
def quietZones (s : State) (k : Nat) : Prop := ∀ i < 8, s.zoneInput (8 * k + i) = false

/-- Pair `k`'s carrier serves, its outputs modulate, no trip comes between, and no loop's duty waits (R144, R164, R171). -/
def edgesFlow (s : State) (k : Nat) : Prop := carrierServes s (k / 4) ∧ s.modulating k ∧ quietZones s (k / 16) ∧
  (s.pair k).late = none

/-- An owed opening slot with a nonzero compare raises an independent output, and A of a complementary pair once its
dead time has passed, B falling first (R162, R165). -/
def pwmOpening : Prop := ∀ (k : Fin 96) (x : PwmSide) (s : State), edgesFlow s k →
  ((s.pair k).side x).opening = .owed → s.activeCompare k x ≠ 0 →
  (s.indep k → Does (.pwmEdge k x .opening) s fun t =>
    ((t.pair k).side x).level = true ∧ ((t.pair k).side x).opening = .placed ∧
    Touches [.regs, .comparators, .pairs, .cyc, .pulses] s t) ∧
  (s.indep k = false → x = .a → (s.pair k).a.level = false → Does (.pwmEdge k x .opening) s fun t =>
    (t.pair k).b.level = false ∧ (t.pair k).a.opening = .placed ∧
    (s.fld (Reg.PWM_DT_RISE (k.val / 4) (k.val % 4)) 16 0 = 0 → (t.pair k).a.level = true) ∧
    (s.fld (Reg.PWM_DT_RISE (k.val / 4) (k.val % 4)) 16 0 ≠ 0 →
      (t.pair k).a.level = false ∧ (t.pair k).a.rising = true) ∧
    Touches [.regs, .comparators, .pairs, .cyc, .pulses] s t)

/-- An owed closing slot below per32 lowers an independent output, and A of a complementary pair at once, B rising after
its dead time (R162, R165). -/
def pwmClosing : Prop := ∀ (k : Fin 96) (x : PwmSide) (s : State), edgesFlow s k →
  ((s.pair k).side x).closing = .owed → s.activeCompare k x < s.per32 (k.val / 4) →
  (s.indep k → Does (.pwmEdge k x .closing) s fun t =>
    ((t.pair k).side x).level = false ∧ ((t.pair k).side x).closing = .placed ∧
    Touches [.regs, .comparators, .pairs, .cyc, .pulses] s t) ∧
  (s.indep k = false → x = .a → (s.pair k).b.level = false → Does (.pwmEdge k x .closing) s fun t =>
    (t.pair k).a.level = false ∧ (t.pair k).a.closing = .placed ∧
    (s.fld (Reg.PWM_DT_FALL (k.val / 4) (k.val % 4)) 16 0 = 0 → (t.pair k).b.level = true) ∧
    (s.fld (Reg.PWM_DT_FALL (k.val / 4) (k.val % 4)) 16 0 ≠ 0 →
      (t.pair k).b.level = false ∧ (t.pair k).b.rising = true) ∧
    Touches [.regs, .comparators, .pairs, .cyc, .pulses] s t)

/-- A slot whose edge has been placed or missed, compare 0's opening, and a closing slot at or beyond per32 place no
edge (R162, R168). -/
def pwmNoEdge : Prop := ∀ (k : Fin 96) (x : PwmSide) (s : State), carrierServes s (k.val / 4) → (s.pair k).late = none →
  (((s.pair k).side x).opening ≠ .owed ∨ s.activeCompare k x = 0 → Idle (.pwmEdge k x .opening) s) ∧
  (((s.pair k).side x).closing ≠ .owed ∨ s.per32 (k.val / 4) ≤ s.activeCompare k x → Idle (.pwmEdge k x .closing) s)

/-- The end of a dead time: the delayed output rises, or, on a tripped pair, takes its active trip action, unless the
partner does (R165, R171). -/
def pwmDeadTimeEnd : Prop := ∀ (k : Fin 96) (x : PwmSide) (s : State), carrierServes s (k.val / 4) →
  let o := (s.pair k).side x
  let y : PwmSide := if x = .a then .b else .a
  let code := s.fld (Reg.PWM_TRIP_ACT (k.val / 4) (k.val % 4)) (if x = .a then 3 else 1) (if x = .a then 2 else 0)
  let partner := code = 1 ∧ ((s.pair k).side y).tripActive = true
  ((s.pair k).tripped = false → o.rising = true → quietZones s (k.val / 16) → Does (.pwmEdge k x .deadTimeEnd) s fun t =>
    ((t.pair k).side x).level = true ∧ ((t.pair k).side x).rising = false ∧
    Touches [.regs, .comparators, .pairs, .cyc, .pulses] s t) ∧
  ((s.pair k).tripped = true → ¬ partner → exec (.pwmEdge k x .deadTimeEnd) s =
    .next (s.setPair k ((s.pair k).setSide x { o with tripActive := true }))) ∧
  ((s.pair k).tripped = true → partner → Idle (.pwmEdge k x .deadTimeEnd) s) ∧
  ((s.pair k).tripped = false → o.rising = false → Idle (.pwmEdge k x .deadTimeEnd) s)

/-- A write of a compare goes to the shadow; with load_sel immediate to the active compare too, unless a loop port owns
it. A load point of the same cycle does not see it (R33, R166). -/
def pwmCmpa : Prop := ∀ (k : Fin 96) (x : PwmSide) (v : Word) (s : State), s.sectorOn (k.val / 16) →
  let sel := s.fld (Reg.PWM_PAIR_CTL (k.val / 4) (k.val % 4)) 29 28
  let a := cmpReg k x
  (sel ≠ 3 ∨ s.loopOwns k x → exec (.pwmCmpa k x v) s = .next ((noteWrote a s).setReg a (v &&& 0xFFFFFF))) ∧
  (sel = 3 → s.loopOwns k x = false → Does (.pwmCmpa k x v) s fun t =>
    t.reg a = v &&& 0xFFFFFF ∧ t.reg (actReg k x) = v &&& 0xFFFFFF ∧ t.loaded a = s.loaded a ∧
    Touches [.regs, .comparators, .pairs, .cyc, .pulses] s t)

/-- A value in effect less than two cycles before its closing edge, or behind it, on an edge-aligned pair whose old compare
has no such edge: REACH places the edge and sets late_edge, CROSS misses it and sets missed_edge (R168). -/
def pwmLate : Prop := ∀ (k : Fin 96) (v : Word) (s : State), s.carrierRuns (k.val / 4) → quietZones s (k.val / 16) →
  let c := fieldOf v 23 0
  let old : Int := s.activeCompare k .a
  s.fld (Reg.PWM_PAIR_CTL (k.val / 4) (k.val % 4)) 29 28 = 3 → s.loopOwns k .a = false →
  s.centred (k.val / 4) = false → s.indep k → s.modulating k → (s.pair k).a.closing = .owed →
  c < s.per32 (k.val / 4) → (c : Int) < s.pairPos k + 64 → old < s.pairPos k ∨ s.pairPos k + 64 ≤ old →
  (s.bit (Reg.PWM_PAIR_CTL (k.val / 4) (k.val % 4)) 30 = true → Does (.pwmCmpa k .a v) s fun t =>
    (t.pair k).a.level = false ∧ (t.pair k).a.closing = .placed ∧ t.bit (Reg.PWM_GRP_STATUS (k.val / 4)) 4 = true) ∧
  (s.bit (Reg.PWM_PAIR_CTL (k.val / 4) (k.val % 4)) 30 = false → Does (.pwmCmpa k .a v) s fun t =>
    (t.pair k).a.level = (s.pair k).a.level ∧ (t.pair k).a.closing = .missed ∧
    t.bit (Reg.PWM_GRP_STATUS (k.val / 4)) 3 = true)

/-- DUTYSTEP: the index moves by the signed step modulo the table's length, or to the absolute step; the entry's compare
goes to the shadow, or with immediate to the active compare, unless a loop port owns the compare, or software has written
the shadow in the cycle. Bits [29:5] leave the group's results undefined (R33, R166, R167). -/
def dutystep : Prop := ∀ (target data : Word) (s : State),
  let k := fieldOf target 6 0
  let g := k / 4
  let p := k % 4
  let len := s.fld (Reg.PWM_PAIR_CTL g p) 19 16 + 1
  let idx := if bitAt data 30 then fieldOf data 3 0
    else (((s.fld (Reg.PWM_DTAB_IDX g p) 3 0 : Int) + signedOf 5 (fieldOf data 4 0)) % (len : Int)).toNat
  let entry := s.reg (Reg.PWM_DTAB g p idx)
  k < 96 → s.sectorOn (k / 16) → s.groupMisused g = false →
  (fieldOf data 29 5 ≠ 0 → Does (.dutystep target data) s fun t => (∀ h, h ≠ g → t.group h = s.group h) ∧
    (∀ j, j / 4 ≠ g → t.pair j = s.pair j) ∧ t.pwmState g = s.pwmState g ∧
    Touches [.freeCtr, .regs, .pairs, .groups, .cyc, .pulses] s t) ∧
  (fieldOf data 29 5 = 0 →
  (s.loopOwns k .a → exec (.dutystep target data) s = .next (s.setReg (Reg.PWM_DTAB_IDX g p) (toWord idx))) ∧
  (s.loopOwns k .a = false → bitAt data 31 = true → Does (.dutystep target data) s fun t =>
    t.reg (Reg.PWM_DTAB_IDX g p) = toWord idx ∧ t.reg (Reg.PWM_CMPA_ACT g p) = toWord (fieldOf entry 23 0) ∧
    (t.pair k).outMode = fieldOf entry 31 30 ∧ Touches [.regs, .comparators, .pairs, .cyc, .pulses] s t) ∧
  (s.loopOwns k .a = false → bitAt data 31 = false → s.fld (Reg.PWM_PAIR_CTL g p) 29 28 ≠ 3 →
    s.wroteNow (Reg.PWM_CMPA g p) = false → Does (.dutystep target data) s fun t =>
      t.reg (Reg.PWM_DTAB_IDX g p) = toWord idx ∧ t.reg (Reg.PWM_CMPA g p) = toWord (fieldOf entry 23 0) ∧
      t.pair k = { s.pair k with shadowMode := fieldOf entry 31 30 } ∧
      (∀ j, j ≠ k → t.pair j = s.pair j) ∧ Touches [.regs, .pairs, .cyc, .pulses] s t ∧
      Keeps s t [Reg.PWM_DTAB_IDX g p, Reg.PWM_CMPA g p]))

/-! ### spec/07: trip zones and arming -/

/-- A zone with an input asserted shows its level, keeps its latch in latched mode, and trips the armed groups of its
sector that select it; with none its level falls (R169, R171, R185). -/
def zoneAssert : Prop := ∀ (z : Fin 48) (s : State), s.sectorOn (z.val / 8) →
  let st := Reg.TZ_STATUS z
  (s.zoneInput z = true → Does (.zoneAssert z) s fun t =>
    t.bit st 31 = true ∧
    t.bit st 30 = (s.bit st 30 || s.bit (Reg.TZ_CTL z) 30 || s.globalTrip) ∧
    (s.bit (Reg.TZ_CTL z) 31 = true → s.zoneComparator z → t.bit st 1 = true) ∧
    (s.bit (Reg.TZ_CTL z) 31 = true → s.zonePin z → t.bit st 2 = true) ∧
    (s.globalTrip → t.bit st 3 = true) ∧
    (∀ i < 4, s.bit (Reg.PWM_TZ_MASK (4 * (z.val / 8) + i)) (z.val % 8) = true ∨ s.globalTrip →
      tripped s t (4 * (z.val / 8) + i)) ∧
    (∀ k, k / 16 ≠ z.val / 8 → t.pair k = s.pair k) ∧ Touches [.regs, .pairs, .cyc] s t) ∧
  (s.zoneInput z = false → exec (.zoneAssert z) s = .next (s.setReg st (withBit (s.reg st) 31 false)))

/-- At the pair's zero load point, with nothing holding its group tripped, the outputs resume their modulated levels: an
output that is to be active and was not so under its trip action rises after its dead time (R171). -/
def zoneRelease : Prop := ∀ (k : Fin 96) (s : State), s.sectorOn (k.val / 16) →
  ((s.pair k).tripped = true → s.groupHeld (k.val / 4) = false → (s.pair k).outMode = 0 →
    (s.group (k.val / 4)).burstOff = false → quietZones s (k.val / 16) → Does (.zoneRelease k) s fun t =>
      (t.pair k).tripped = false ∧ ∀ x, let o := (t.pair k).side x
        (s.wants k x = false → o.level = false ∧ o.rising = false) ∧
        (s.wants k x = true → s.trippedActive k x = true → o.level = true) ∧
        (s.wants k x = true → s.trippedActive k x = false → s.deadTime k x = 0 → o.level = true) ∧
        (s.wants k x = true → s.trippedActive k x = false → s.deadTime k x ≠ 0 → o.level = false ∧ o.rising = true)) ∧
  ((s.pair k).tripped = true → s.groupHeld (k.val / 4) = false → Does (.zoneRelease k) s fun t =>
    (∀ g, t.group g = s.group g) ∧ Touches [.regs, .comparators, .pairs, .cyc, .pulses] s t) ∧
  ((s.pair k).tripped = false ∨ s.groupHeld (k.val / 4) = true → Idle (.zoneRelease k) s)

/-- A level of a TRIP_IN pin past its asynchronous path, or past the filter of one zone: the zones of its sector follow
their inputs, those with pin_filt 0 by the one, the others by the other. A pin that carries no such input is without effect
(R169, R170, R184, R446, R450). -/
def tripInPin : Prop := ∀ (m : Fin 12) (path : Option (Fin 8)) (b : Bool) (s : State),
  let live := s.inputLive (66 + m.val) 2 = true ∨ s.inputLive (148 + m.val) 6 = true
  let zone (i : Fin 8) : Nat := 8 * (m.val / 2) + i.val
  (live → Does (.tripInPin ⟨m, path⟩ b) s fun t =>
    (path = none → (∀ i, t.tripPins.getLsbD i = if i = m.val then b else s.tripPins.getLsbD i) ∧
      t.zonePins = s.zonePins) ∧
    (∀ i, path = some i → t.tripPins = s.tripPins ∧ ∀ j, t.zonePins.getLsbD j =
      if j = 2 * zone i + m.val % 2 then b else s.zonePins.getLsbD j) ∧
    (∀ z < 48, z / 8 = m.val / 2 → t.bit (Reg.TZ_STATUS z) 31 = t.zoneInput z) ∧
    (b = true → ∀ i : Fin 8, s.bit (Reg.TZ_CTL (zone i)) 31 = true →
      s.bit (Reg.TZ_CTL (zone i)) (22 + m.val % 2) = true →
      path = some i ∧ s.fld (Reg.TZ_CTL (zone i)) 29 24 ≠ 0 ∨ path = none ∧ s.fld (Reg.TZ_CTL (zone i)) 29 24 = 0 →
      t.bit (Reg.TZ_STATUS (zone i)) 31 = true) ∧
    Touches [.regs, .pairs, .tripPins, .zonePins, .cyc] s t) ∧
  (¬ live → Idle (.tripInPin ⟨m, path⟩ b) s)

/-- A write of 1 to TZ_FORCE asserts an enabled zone: its cause, its latch in latched mode, and the trip of the armed
groups that select it. That the level falls again at once is the model's choice (R169, R185, log entry 12). -/
def tzForce : Prop := ∀ (z : Fin 48) (v : Word) (s : State), s.sectorOn (z.val / 8) →
  let st := Reg.TZ_STATUS z
  (bitAt v 0 = true → s.bit (Reg.TZ_CTL z) 31 = true → Does (.tzForce z v) s fun t =>
    t.bit st 0 = true ∧ (s.bit (Reg.TZ_CTL z) 30 = true → t.bit st 30 = true) ∧ t.bit st 31 = s.zoneInput z ∧
    (∀ i < 4, s.bit (Reg.PWM_TZ_MASK (4 * (z.val / 8) + i)) (z.val % 8) = true →
      tripped s t (4 * (z.val / 8) + i)) ∧
    Touches [.regs, .pairs, .cyc] s t) ∧
  (bitAt v 0 = false ∨ s.bit (Reg.TZ_CTL z) 31 = false → Idle (.tzForce z v) s)

/-- latched written 1 clears only while the zone's inputs are inactive; causes written 1 clear; what hardware has set in
this cycle stays (R33, R171, R185). -/
def latchedClear : Prop := ∀ (z : Fin 48) (v : Word) (s : State), s.sectorOn (z.val / 8) →
  let st := Reg.TZ_STATUS z
  let w := s.reg st &&& ~~~(v &&& 0xF &&& ~~~s.setNow st)
  exec (.latchedClear z v) s =
    .next (s.setReg st (if s.zoneInput z = true ∨ bitAt (s.setNow st) 30 = true then w else withBit w 30 false))

/-- Sector `k` is present and its island powered (R2, R14). -/
def sectorStands (s : State) (k : Nat) : Prop := k < sectorCount s.sys.variant ∧ s.sys.sectorIslands.getLsbD k = true

/-- The global trip with PWM_GTRIP at `w`: every zone that stands asserts and latches, every armed group trips, and the
tailstock logs it (R2, R172). -/
def globallyTripped (s t : State) (w : Word) : Prop :=
  t.reg Reg.PWM_GTRIP = w ∧
  (∀ z < 48, sectorStands s (z / 8) →
    t.bit (Reg.TZ_STATUS z) 31 = true ∧ t.bit (Reg.TZ_STATUS z) 30 = true ∧ t.bit (Reg.TZ_STATUS z) 3 = true) ∧
  (∀ g < 24, sectorStands s (g / 4) → tripped s t g) ∧ t.bit (Reg.TS_IRQ_PEND 0) 19 = true ∧
  (logRepeats 5 (Config.logCode evGlobalTrip).toNat s = false → t.log.nextSeq = s.log.nextSeq + 1)

/-- An active TRIP_ALL_N asserts the global trip; an inactive one changes only the pin (R172). -/
def tripAllN : Prop := ∀ s : State,
  (Does (.tripAllN true) s fun t => globallyTripped s t (withBit (s.reg Reg.PWM_GTRIP) 1 true) ∧ t.tripAll = true ∧
    Touches [.freeCtr, .regs, .log, .pairs, .tripAll, .canNode, .cyc] s t) ∧
  exec (.tripAllN false) s = .next { s with tripAll := false }

/-- The tailstock's assertion of the global trip, which assert in bit 31 shows (R172, R178). -/
def gtripAssert : Prop := ∀ s : State, Does .gtripAssert s fun t =>
  globallyTripped s t (withBit (withBit (s.reg Reg.PWM_GTRIP) 31 true) 0 true) ∧
  Touches [.freeCtr, .regs, .log, .pairs, .canNode, .cyc] s t

/-- The tailstock's clear takes effect only while TRIP_ALL_N is inactive; the zones then follow their own inputs
(R172). -/
def gtripClear : Prop := ∀ s : State,
  (s.tripAll = true → Idle .gtripClear s) ∧
  (s.tripAll = false → Does .gtripClear s fun t =>
    t.reg Reg.PWM_GTRIP = 0 ∧
    (∀ z < 48, sectorStands s (z / 8) → t.bit (Reg.TZ_STATUS z) 31 = t.zoneInput z) ∧ Touches [.regs, .pairs, .cyc] s t)

/-- A request for arming interrupts the tailstock (R175, R273). -/
def pwmArmReq : Prop := ∀ (g : Fin 24) (v : Word) (s : State), s.sectorOn (g.val / 4) →
  let pend := Reg.TS_IRQ_PEND 0
  (bitAt v 0 = true → exec (.pwmArmReq g v) s =
    .next ((s.setGroup g { s.group g with armRequest := true }).setReg pend (withBit (s.reg pend) 18 true))) ∧
  (bitAt v 0 = false → Idle (.pwmArmReq g v) s)

/-- The tailstock arms a group in SAFE: ARMING if it is enabled, its sector on, no zone of its mask latched, and no dead
time below the minimum; otherwise it stays in SAFE with arm_refused and the reason (R175, R180). -/
def arm : Prop := ∀ (g : Fin 24) (s : State), s.fclkOn → s.sensorAlarm = false → s.pwmState g = 0 →
  let st := Reg.PWM_GRP_STATUS g
  let enabled := s.bit (Reg.PWM_GRP_CTL g) 31 = true
  let on := s.sectorOn (g.val / 4) = true
  let latched := ∃ i < 8, s.bit (Reg.PWM_TZ_MASK g) i = true ∧ s.bit (Reg.TZ_STATUS (8 * (g.val / 4) + i)) 30 = true
  let short := ∃ p < 4, s.fld (Reg.PWM_DT_RISE g p) 16 0 < s.fld (Reg.PWM_DT_MIN g) 16 0 ∨
    s.fld (Reg.PWM_DT_FALL g p) 16 0 < s.fld (Reg.PWM_DT_MIN g) 16 0
  let refused (code : Nat) := Does (.arm g) s fun t =>
    t.fld st 31 30 = 0 ∧ t.fld st 29 27 = code ∧ t.bit st 6 = true ∧ t.pairs = s.pairs ∧
    Touches [.regs, .groups, .cyc] s t ∧ Keeps s t [st, groupReg s (1280 + g)]
  (enabled → on → ¬ latched → ¬ short → Does (.arm g) s fun t =>
    t.fld st 31 30 = 1 ∧ t.fld st 29 27 = 0 ∧ t.bit st 6 = s.bit st 6 ∧ (t.group g).armRequest = false ∧
    (∀ h, h ≠ g.val → t.group h = s.group h) ∧ Touches [.regs, .groups, .cyc] s t ∧ Keeps s t [st]) ∧
  (¬ enabled → refused 1) ∧ (enabled → ¬ on → refused 2) ∧ (enabled → on → latched → refused 3) ∧
  (enabled → on → ¬ latched → short → refused 4)

/-- safe_lock locks PWM_SAFE and PWM_DT_MIN (R183). -/
def safeLock : Prop := ∀ (g : Fin 24) (s : State), s.sectorOn (g.val / 4) →
  exec (.safeLock g) s = .next (s.setGroup g { s.group g with safeLock := true })

/-- Disarm sends the group to SAFE, where every supplied pad shows its safe level, and out of ARMED sets disarmed; the write
stores the control word (R20, R174, R177, R179, R180). -/
def disarm : Prop := ∀ (g : Fin 24) (v : Word) (s : State), s.sectorOn (g.val / 4) → s.pwmState g ≠ 3 →
  s.aborting 1 g = false →
  let st := Reg.PWM_GRP_STATUS g
  Does (.disarm g v) s fun t =>
    t.fld st 31 30 = 0 ∧ t.bit st 5 = (s.bit st 5 || decide (s.pwmState g = 2)) ∧
    t.reg (Reg.PWM_GRP_CTL g) = v &&& 0xF1FFFFFF ∧
    (∀ p < 4, ∀ x, (t.pair (4 * g.val + p)).tripped = false ∧ ((t.pair (4 * g.val + p)).side x).level = false ∧
      (s.padSupplied (4 * g.val + p) = true → t.padOf (4 * g.val + p) x = s.safeLevel g p x)) ∧
    (∀ k, k / 4 ≠ g.val → t.pair k = s.pair k) ∧ (∀ h, h ≠ g.val → t.group h = s.group h) ∧
    Touches [.regs, .pairs, .groups, .cyc] s t ∧
    Keeps s t [st, Reg.PWM_GRP_CTL g, Reg.PWM_POS g, groupReg s (1280 + g)]


/-! ### spec/08: the placement unit -/

/-- Requester `q`'s own PL_RESULT and PL_STATUS (R186, R201). -/
def plResultReg (q : Requester) : Nat := ownKey q Reg.PL_RESULT
def plStatusReg (q : Requester) : Nat := ownKey q Reg.PL_STATUS

/-- `q`'s read answers `v`, which its PL_RESULT holds from then on, and nothing else has happened (R198, R201). -/
def plRefused (c : Instr) (q : Requester) (v : Word) (s : State) : Prop := Does c s fun t =>
  t.answered q = v ∧ t.reg (plResultReg q) = v ∧ Touches [.regs, .resp] s t ∧ Keeps s t [plResultReg q]

/-- The number of declarations that wait in `q`'s pending set (R186). -/
def pendingCount (s : State) (q : Requester) : Nat := (s.pendingOf (reqIdx q)).length

/-- A submit adds the staged declaration to the requester's pending set; a field fault, a nonzero word that the kind does
not list among them, a known key and a full pool are refused in that order and change nothing (R186, R187, R198). -/
def plSubmit : Prop := ∀ (q : Requester) (s : State), s.fclkOn →
  let d := s.stagedDecl q
  let fail (code : Nat) : Word := toWord (2 ^ 31 + d.kind * 2 ^ 28 + d.key * 2 ^ 8 + code)
  let known := (∃ a ∈ s.place.admitted, a.kind = d.kind ∧ a.key = d.key) ∨
    ∃ x ∈ s.place.pending, x.kind = d.kind ∧ x.key = d.key
  (d.fieldsOk = false → plRefused (.plSubmit q) q (fail 0x02) s) ∧
  ((d.kind = 0 ∨ 4 < d.kind) → plRefused (.plSubmit q) q (fail 0x02) s) ∧
  (∀ i, 8 ≤ i → i < 16 → d.kind = 1 → s.reg (ownKey q (Reg.PL_DECL i)) ≠ 0 → plRefused (.plSubmit q) q (fail 0x02) s) ∧
  (d.fieldsOk = true → s.namesAbsent d = true → plRefused (.plSubmit q) q (fail 0x01) s) ∧
  (d.fieldsOk = true → s.namesAbsent d = false → known → plRefused (.plSubmit q) q (fail 0x03) s) ∧
  (d.fieldsOk = true → s.namesAbsent d = false → ¬ known → 256 ≤ s.place.pending.length →
    plRefused (.plSubmit q) q (fail 0x11) s) ∧
  (d.fieldsOk = true → s.namesAbsent d = false → ¬ known → s.place.pending.length < 256 → Does (.plSubmit q) s fun t =>
    t.place.pending = s.place.pending ++ [d] ∧ t.place.admitted = s.place.admitted ∧ t.place.ops = s.place.ops ∧
    bitAt (t.answered q) 31 = false ∧ fieldOf (t.answered q) 8 0 = pendingCount s q + 1 ∧
    t.reg (plResultReg q) = t.answered q ∧ t.reg Reg.PL_POOL_USED = toWord (s.place.pending.length + 1) ∧
    Touches [.regs, .resp, .place] s t ∧ Keeps s t [plResultReg q, Reg.PL_POOL_USED])

/-- PL_DISCARD empties the requester's set and no other's (R186). -/
def plDiscard : Prop := ∀ (q : Requester) (v : Word) (s : State), s.fclkOn →
  (bitAt v 0 = true → Does (.plDiscard q v) s fun t =>
    t.place = { s.place with pending := s.place.pending.filter fun d => decide (d.req ≠ reqIdx q) } ∧
    t.reg Reg.PL_POOL_USED = toWord t.place.pending.length ∧ Touches [.regs, .place] s t ∧
    Keeps s t [Reg.PL_POOL_USED]) ∧
  (bitAt v 0 = false → Idle (.plDiscard q v) s)

/-- In `t` operation `o` of `q` waits behind those queued before it, and PL_STATUS shows it busy (R193, R202). -/
def plQueued (s t : State) (q : Requester) (o : PlOp) : Prop :=
  t.place = { s.place with ops := s.place.ops ++ [o] } ∧ t.bit (plStatusReg q) 31 = true ∧
  t.fld (plStatusReg q) 30 29 = o.op ∧ bitAt (t.answered q) 31 = false ∧ t.reg (plResultReg q) = t.answered q ∧
  Touches [.regs, .resp, .place] s t ∧ Keeps s t [plStatusReg q, plResultReg q]

/-- A commit of a pending set, a withdrawal and a re-placement are queued, one at a time for each requester (R192, R198,
R199, R200). -/
def plOperations : Prop := ∀ (q : Requester) (s : State), s.fclkOn →
  let busy := ∃ o ∈ s.place.ops, o.req = reqIdx q
  let op (n : Nat) : PlOp :=
    { req := reqIdx q, op := n, handle := s.reg (ownKey q Reg.PL_HANDLE), target := s.reg (ownKey q Reg.PL_TARGET) }
  (busy → plRefused (.plCommit q) q 0x80000017 s ∧ plRefused (.plWithdraw q) q 0x80000017 s ∧
    plRefused (.plReplace q) q 0x80000017 s) ∧
  (¬ busy → s.pendingOf (reqIdx q) = [] → plRefused (.plCommit q) q 0x80000018 s) ∧
  (¬ busy → s.pendingOf (reqIdx q) ≠ [] → Does (.plCommit q) s fun t =>
    plQueued s t q { req := reqIdx q, op := 1, decls := s.pendingOf (reqIdx q) }) ∧
  (¬ busy → Does (.plWithdraw q) s fun t => plQueued s t q (op 2)) ∧
  (¬ busy → Does (.plReplace q) s fun t => plQueued s t q (op 3))

/-- The admitted declaration that handle `h` names is `a`: kind in [18:16], key in [15:0] (R187). -/
def plNames (s : State) (h : Word) (a : Admitted) : Prop :=
  s.place.admitted.find? (fun x => decide (x.kind = fieldOf h 18 16 ∧ x.key = fieldOf h 15 0)) = some a

/-- A query fills PL_RES: a loop's context, sector, engine and figure, a data region's address, tier and size (R203). -/
def plQuery : Prop := ∀ (q : Requester) (s : State), s.fclkOn →
  let h := s.reg (ownKey q Reg.PL_HANDLE)
  let res (t : State) (w : Nat) : Word := t.reg (ownKey q (Reg.PL_RES w))
  ((∀ a, ¬ plNames s h a) →
    plRefused (.plQuery q) q (toWord (2 ^ 31 + fieldOf h 18 16 * 2 ^ 28 + fieldOf h 15 0 * 2 ^ 8 + 0x14)) s) ∧
  ∀ a, plNames s h a → Does (.plQuery q) s fun t =>
    bitAt (t.answered q) 31 = false ∧ t.reg (plResultReg q) = t.answered q ∧ res t 7 = 0 ∧
    (a.kind = 1 → res t 0 = s.reg (Reg.PLATE_PART_MAP a.place) ∧ res t 1 = s.reg (Reg.PLATE_PART_RES a.place) ∧
      fieldOf (res t 2) 18 0 = a.quota % 2 ^ 19 ∧ res t 3 = 0) ∧
    (a.kind = 2 → a.place < 384 → a.figure < 256 → a.crossings < 256 → fieldOf (res t 0) 8 0 = a.place ∧
      fieldOf (res t 1) 10 8 = a.place / 64 ∧ fieldOf (res t 1) 5 0 = a.place / 8 ∧ fieldOf (res t 5) 7 0 = a.figure ∧
      fieldOf (res t 5) 15 8 = a.crossings) ∧
    (a.kind = 3 → res t 0 = toWord a.place ∧ res t 2 = s.reg (Reg.PLATE_PART_MAP (72 + a.place))) ∧
    (∀ tier b n, a.kind = 4 → a.mem = [(tier, b, n)] → res t 0 = toWord b ∧ res t 2 = toWord (n / 4096)) ∧
    Touches [.regs, .resp] s t ∧ Keeps s t (plResultReg q :: (List.range 8).map fun w => ownKey q (Reg.PL_RES w))

/-- In `t` the first operation, of `q`, has ended with result `v`: done, fail where it was refused, and source 1376 where
the requester asked for it (R201, R202). -/
def plEnded (s t : State) (q : Requester) (v : Word) : Prop :=
  t.place.ops = s.place.ops.drop 1 ∧ t.reg (plResultReg q) = v ∧ t.bit (plStatusReg q) 31 = false ∧
  t.bit (plStatusReg q) 0 = true ∧ (bitAt v 31 = true → t.bit (plStatusReg q) 1 = true) ∧
  (s.bit (ownKey q Reg.PL_IRQ_EN) 0 = true → t.bit (Reg.AIC_SRC 1376) 29 = true)

/-- What an operation of `q` that ends by a refusal may write (R192). -/
def plEndRegs (s : State) (q : Requester) : List Nat :=
  [plResultReg q, plStatusReg q, Reg.AIC_SRC 1376, groupReg s 1376]

/-- A commit is all or nothing: refused, it leaves the placement and the pending sets as they are; admitted, it empties
the requester's set of what it placed, and every declaration of it is admitted (R192). -/
def placementCommit : Prop := ∀ (q : Requester) (o : PlOp) (rest : List PlOp) (s : State), s.fclkOn →
  s.place.ops = o :: rest → s.place.move = none → o.req = reqIdx q → o.op = 1 →
  (∀ r, placeAll o.decls s = .error r → Does .placementDone s fun t => plEnded s t q r ∧
    t.place.pending = s.place.pending ∧ t.place.admitted = s.place.admitted ∧ Touches [.regs, .place, .cyc, .pulses] s t ∧
    Keeps s t (plEndRegs s q)) ∧
  (∀ u, placeAll o.decls s = .ok u → Does .placementDone s fun t => (∃ v, plEnded s t q v ∧ bitAt v 31 = false) ∧
    (∀ d ∈ o.decls, d ∉ t.place.pending) ∧ (∀ d ∈ s.place.pending, d ∉ o.decls → d ∈ t.place.pending) ∧
    t.place.admitted = u.place.admitted) ∧
  (∀ d, o.decls = [d] → d.kind = 1 → s.spindleDeclared (fieldOf (d.word 1) 7 0) = true → Does .placementDone s fun t =>
    plEnded s t q (toWord (2 ^ 31 + 2 ^ 28 + d.key * 2 ^ 8 + 0x09)) ∧ t.place.admitted = s.place.admitted)

/-- A data region of tier DRAM alone is placed at the lowest fitting 4 KiB-aligned address of the pool, or refused with
NO_MEMORY (R191, R197). -/
def placementDram : Prop := ∀ (q : Requester) (d : PlDecl) (rest : List PlOp) (s : State), s.fclkOn →
  s.place.ops = { req := reqIdx q, op := 1, decls := [d] } :: rest → s.place.move = none →
  d.kind = 4 → bitAt (d.word 3) 31 = true → fieldOf (d.word 3) 2 0 = 3 →
  let n := fieldOf (d.word 1) 23 0 * 4096
  let base := s.fld Reg.PL_DRAM_BASE_HI 7 0 * 2 ^ 32 + s.fld Reg.PL_DRAM_BASE_LO 31 12 * 4096
  let top := base + s.fld Reg.PL_DRAM_SIZE 22 0 * 4096
  let fits (b : Nat) : Prop := base ≤ b ∧ b + n ≤ top ∧ b % 4096 = 0 ∧
    ∀ a ∈ s.place.admitted, ∀ m ∈ a.mem, m.2.1 + m.2.2 ≤ b ∨ b + n ≤ m.2.1
  0 < n →
  (∀ b, fits b → (∀ c, fits c → b ≤ c) → Does .placementDone s fun t => (∃ v, plEnded s t q v ∧ bitAt v 31 = false) ∧
    (∃ a, t.place.admitted = s.place.admitted ++ [a] ∧ a.kind = 4 ∧ a.key = d.key ∧ a.mem = [(3, b, n)] ∧
      a.place = 3) ∧ t.mem = s.mem ∧ Touches [.regs, .place, .cyc, .pulses] s t) ∧
  ((∀ b, ¬ fits b) → Does .placementDone s fun t =>
    plEnded s t q (toWord (2 ^ 31 + 4 * 2 ^ 28 + d.key * 2 ^ 8 + 0x10)) ∧ t.place.admitted = s.place.admitted)

/-- A withdrawal frees an unused declaration of the requester's; one that it does not own, that does not exist or that is
in use is refused and stays (R198, R199). -/
def placementWithdraw : Prop := ∀ (q : Requester) (o : PlOp) (rest : List PlOp) (s : State), s.fclkOn →
  s.place.ops = o :: rest → s.place.move = none → o.req = reqIdx q → o.op = 2 →
  let fail (code : Nat) : Word := toWord (2 ^ 31 + fieldOf o.handle 18 16 * 2 ^ 28 + fieldOf o.handle 15 0 * 2 ^ 8 + code)
  let mine (a : Admitted) : Prop := q = .tailstock ∨ (if q = .portB then 1 else reqIdx q) = a.owner
  let refused (code : Nat) : Prop := Does .placementDone s fun t => plEnded s t q (fail code) ∧
    t.place.admitted = s.place.admitted ∧ Touches [.regs, .place, .cyc, .pulses] s t ∧ Keeps s t (plEndRegs s q)
  ((∀ a, ¬ plNames s o.handle a) → refused 0x14) ∧
  ∀ a, plNames s o.handle a → (¬ mine a → refused 0x12) ∧
    (mine a → a.kind = 2 → s.bit (Reg.LOOP_CTL a.place) 31 = true → s.fld (Reg.LOOP_STATUS a.place) 31 29 ≠ 4 →
      refused 0x13) ∧
    (mine a → a.kind = 1 → s.fld (Reg.PLATE_PART_COUNT a.place) 21 0 ≠ 0 → refused 0x13) ∧
    (mine a → s.inUse a = false → Does .placementDone s fun t => (∃ v, plEnded s t q v ∧ bitAt v 31 = false) ∧
      t.place.admitted = s.place.admitted.filter (fun x => decide (x ≠ a)) ∧ t.place.pending = s.place.pending ∧
      (a.kind = 1 → a.place < 154 → t.reg (Reg.PLATE_PART_MAP a.place) = 0 ∧ t.reg (Reg.PLATE_PART_NEAR a.place) = 0 ∧
        t.reg Reg.PLATE_NEAR_FREE = s.reg Reg.PLATE_NEAR_FREE + toWord a.quota))

/-- Nothing queued, or a re-placement that waits for its quiet point: PLACEMENT_DONE does nothing (R193, R200). -/
def placementIdle : Prop := ∀ s : State, s.place.ops = [] ∨ s.place.move ≠ none → Idle .placementDone s

/-- A re-placement of a disabled context is done at once: banks and registers stand in the new context, the old one is
reset. An enabled one has its banks copied and waits. Another kind and an engine that no part has are refused with
BAD_FIELD, an engine that this part lacks with ABSENT_UNIT (R2, R198, R200). -/
def placementReplace : Prop := ∀ (q : Requester) (o : PlOp) (rest : List PlOp) (a : Admitted) (s : State), s.fclkOn →
  s.place.ops = o :: rest → s.place.move = none → o.req = reqIdx q → o.op = 3 → plNames s o.handle a →
  q = .tailstock ∨ (if q = .portB then 1 else reqIdx q) = a.owner →
  let refused (code : Nat) : Prop := Does .placementDone s fun t =>
    plEnded s t q (toWord (2 ^ 31 + fieldOf o.handle 18 16 * 2 ^ 28 + fieldOf o.handle 15 0 * 2 ^ 8 + code)) ∧
    t.place.admitted = s.place.admitted
  let engine := fieldOf o.target 5 0
  let fixed := bitAt o.target 31 = false
  (a.kind ≠ 2 → refused 0x02) ∧
  (a.kind = 2 → fixed → 48 ≤ engine → refused 0x02) ∧
  (a.kind = 2 → fixed → 8 * sectorCount s.sys.variant ≤ engine → engine < 48 → refused 0x01) ∧
  (∀ code, a.kind = 2 → (fixed → engine < 8 * sectorCount s.sys.variant) →
    s.chooseEngine a.word none (s.partnerEngine a) (s.replaceEngines o a) = .error code → refused code) ∧
  ∀ new cr, a.kind = 2 → a.place < 384 → new < 384 → (fixed → engine < 8 * sectorCount s.sys.variant) →
    s.chooseEngine a.word none (s.partnerEngine a) (s.replaceEngines o a) = .ok (new, cr) →
    let copied (t : State) : Prop := ∀ w < 192, t.reg (Reg.LOOP_BANK_A new w) = s.reg (Reg.LOOP_BANK_A a.place w) ∧
      t.reg (Reg.LOOP_BANK_B new w) = s.reg (Reg.LOOP_BANK_B a.place w)
    (s.bit (Reg.LOOP_CTL a.place) 31 = false → Does .placementDone s fun t => copied t ∧
      (∃ v, plEnded s t q v ∧ bitAt v 31 = false) ∧ t.reg (Reg.LOOP_CTL new) = s.reg (Reg.LOOP_CTL a.place) ∧
      t.reg (Reg.LOOP_CTL a.place) = 0x02000000 ∧ t.place.move = none) ∧
    (s.bit (Reg.LOOP_CTL a.place) 31 = true → Does .placementDone s fun t => copied t ∧ t.place.ops = s.place.ops ∧
      t.place.move = some { key := a.key, old := a.place, new := new } ∧
      t.reg (Reg.LOOP_CTL a.place) = s.reg (Reg.LOOP_CTL a.place) ∧ t.ctx a.place = s.ctx a.place ∧
      Touches [.regs, .place, .cyc, .pulses] s t)

/-- The quiet point, at the period event of the first mapped pair's group where there is one: the old context stops
issuing, and its settled state stands in the new one, which takes the starts; while an update is in flight or queued it
is no quiet point (R200). -/
def quietPoint : Prop := ∀ (s : State) (m : PlMove), s.fclkOn → s.place.move = some m → m.old ≠ m.new → m.old < 384 →
  m.new < 384 →
  let quiet := m.quiet = false ∧ s.quietCycle m.old = true ∧ (s.ctx m.old).stage = .idle ∧ (s.ctx m.old).queued = []
  (¬ quiet → Idle .quietPoint s) ∧
  (quiet → Does .quietPoint s fun t => t.place.move = some { m with quiet := true } ∧
    (t.ctx m.old).stage = .leaving ∧ (t.ctx m.new).stage = .arriving ∧ (t.ctx m.new).hist = (s.ctx m.old).hist ∧
    (∀ w < 36, t.reg (Reg.LOOP_STATE m.new w) = s.reg (Reg.LOOP_STATE m.old w)) ∧
    (∀ w < 36, t.reg (Reg.LOOP_STATE m.old w) = s.reg (Reg.LOOP_STATE m.old w)) ∧ Touches [.regs, .loops, .place] s t)

/-- 16 period events without a quiet point: QUIET_TIMEOUT, and nothing has moved (R198, R200). -/
def quietTimeout : Prop := ∀ (s : State) (m : PlMove) (q : Requester) (o : PlOp) (rest : List PlOp), s.fclkOn →
  s.place.move = some m → s.place.ops = o :: rest → o.req = reqIdx q → m.old ≠ m.new → m.old < 384 → m.new < 384 →
  (m.quiet = true → Idle .quietTimeout s) ∧
  (m.quiet = false → Does .quietTimeout s fun t =>
    plEnded s t q (toWord (2 ^ 31 + fieldOf o.handle 18 16 * 2 ^ 28 + fieldOf o.handle 15 0 * 2 ^ 8 + 0x15)) ∧
    t.place.move = none ∧ t.place.admitted = s.place.admitted ∧ t.ctx m.old = s.ctx m.old ∧
    t.reg (Reg.LOOP_CTL m.old) = s.reg (Reg.LOOP_CTL m.old) ∧ Touches [.regs, .loops, .place, .pairs, .cyc] s t)

/-- The switch: the new context is enabled and holds the state that the old one held last, until the start that waits
there is issued; the old one is reset and free, and the operation ends (R200). -/
def replaceSwitch : Prop := ∀ (s : State) (m : PlMove) (q : Requester) (o : PlOp) (rest : List PlOp) (a : Admitted),
  s.fclkOn → s.place.move = some m → s.place.ops = o :: rest → o.req = reqIdx q → m.old ≠ m.new → m.old < 384 →
  m.new < 384 → s.place.admitted.find? (fun x => decide (x.kind = 2 ∧ x.key = m.key)) = some a →
  (m.quiet = false → Idle .replaceSwitch s) ∧
  (m.quiet = true → Does .replaceSwitch s fun t => (∃ v, plEnded s t q v ∧ bitAt v 31 = false) ∧ t.place.move = none ∧
    t.reg (Reg.LOOP_CTL m.new) = s.reg (Reg.LOOP_CTL m.old) ∧ t.reg (Reg.LOOP_CTL m.old) = 0x02000000 ∧
    t.fld (Reg.LOOP_STATUS m.old) 31 29 = 0 ∧
    ((s.ctx m.new).queued = [] → (t.ctx m.new).stage = .idle ∧
      ∀ w < 36, t.reg (Reg.LOOP_STATE m.new w) = s.reg (Reg.LOOP_STATE m.old w)))


/-! ### spec/09 and spec/10: executing on a core -/

/-- The fetch of the instruction at core `c`'s pc, the core having left WAIT; it may fill the TLB (R211, R248, R259). -/
def fetched (s : State) (c : Nat) : Except Exc (List (Word × Nat × Nat × MemType)) × State :=
  checkAccess c (s.core c).pc 4 .fetch (s.setCore c { s.core c with waiting := false })

/-- Two or more TLB entries of core `c` match an address that is translated, which makes its results undefined (R259). -/
def twofold (s : State) (c : Nat) (va : Word) : Prop :=
  s.translating c = true ∧ 1 < ((s.core c).tlb.filter (tlbMatches (s.asid c) va.toNat)).length

/-- The fetch faults not; with translation the pc is word-aligned and at most one TLB entry matches it (R248, R259). -/
def fetches (s : State) (c : Nat) : Prop :=
  (∃ ps, (fetched s c).1 = .ok ps) ∧ ¬ twofold s c (s.core c).pc ∧
  (s.translating c = true → (s.core c).pc.toNat % 4 = 0)

/-- May core `c` execute an instruction of shape `k` at its pc: it runs and waits for nothing, the fetch faults not, and
the place is allowed (R211, R215, R226, R248)? -/
def canRun (s : State) (c : Nat) (k : Shape) : Prop :=
  s.coreReady c = true ∧ fetches s c ∧ s.misplaced c k = false

/-- General register `r` of core `c` after the present instruction, if that does not write it: a loaded value on its way
has arrived (R217). -/
def settled (s : State) (c r : Nat) : Word :=
  match (s.core c).load with
  | some (d, v) => if r = d ∧ r ≠ 0 ∧ d ∉ (s.core c).wrote then v else s.greg c r
  | none => s.greg c r

/-- No CWR waits in core `c`'s shadow, and no active hardware loop ends at the present instruction (R207, R225). -/
def quiet (s : State) (c : Nat) : Prop := (s.core c).shadow = [] ∧ s.atLend c = false

/-- What the core holds beside its registers and its pc. -/
def sameBeside (s t : State) (c : Nat) : Prop :=
  (t.core c).halted = (s.core c).halted ∧ (t.core c).held = (s.core c).held ∧ (t.core c).l1i = (s.core c).l1i ∧
  (t.core c).busErrors = (s.core c).busErrors ∧ (t.core c).cycle0 = (s.core c).cycle0 ∧
  (s.translating c = false → (s.core c).shadow = [] → (t.core c).tlb = (s.core c).tlb) ∧
  (∀ d, d ≠ c → t.core d = s.core d)

/-- Its reservation, store buffer and data cache. -/
def sameMemory (s t : State) (c : Nat) : Prop :=
  (t.core c).resv = (s.core c).resv ∧ (t.core c).sb = (s.core c).sb ∧ (t.core c).l1d = (s.core c).l1d

/-- In `t` core `c` goes on at `pc`, then `npc`. -/
def goesTo (t : State) (c : Nat) (pc npc : Word) (slot : Bool) : Prop :=
  (t.core c).pc = pc ∧ (t.core c).npc = npc ∧ (t.core c).slot = slot

/-- The instruction has completed, and the one after it is next; control registers stay. -/
def onward (s t : State) (c : Nat) : Prop :=
  (quiet s c → goesTo t c (s.core c).npc ((s.core c).npc + 4) false ∧ ∀ n, t.cr c n = s.cr c n)

/-- General register `gd` of core `c` takes `v`, g0 discards it, and every other holds its settled value (R204, R217). -/
def gains (s t : State) (c gd : Nat) (v : Word) : Prop :=
  (∀ r, t.greg c r = if r = gd ∧ gd ≠ 0 then v else settled s c r) ∧ (t.core c).load = none

/-- An instruction that writes `v` to `gd` and does nothing else. -/
def gained (s t : State) (c gd : Nat) (v : Word) : Prop :=
  gains s t c gd v ∧ onward s t c ∧ sameBeside s t c ∧ sameMemory s t c ∧ Touches [.freeCtr, .cores] s t

/-- An instruction of coprocessor 0: it may also write the accumulator and the flags. -/
def copGained (s t : State) (c gd : Nat) (v : Word) : Prop :=
  gains s t c gd v ∧ sameBeside s t c ∧ sameMemory s t c ∧ Touches [.freeCtr, .cores] s t ∧
  (quiet s c → goesTo t c (s.core c).npc ((s.core c).npc + 4) false ∧ ∀ n, n ∉ [0x60, 0x61, 0x62] → t.cr c n = s.cr c n)

/-- What the instructions of R211 to R213 and R220 to R223 write, from the registers `g`: their core, their destination
and its value. -/
def aluRule : Instr → Option (Fin 17 × Fin 32 × ((Fin 32 → Word) → Word))
  | .add c d a b => some (c, d, fun g => g a + g b)
  | .sub c d a b => some (c, d, fun g => g a - g b)
  | .andOp c d a b => some (c, d, fun g => g a &&& g b)
  | .orOp c d a b => some (c, d, fun g => g a ||| g b)
  | .xor c d a b => some (c, d, fun g => g a ^^^ g b)
  | .orn c d a b => some (c, d, fun g => g a ||| ~~~(g b))
  | .lt c d a b => some (c, d, fun g => if (g a).toInt < (g b).toInt then 1 else 0)
  | .ltu c d a b => some (c, d, fun g => if (g a).toNat < (g b).toNat then 1 else 0)
  | .eq c d a b => some (c, d, fun g => if g a = g b then 1 else 0)
  | .ne c d a b => some (c, d, fun g => if g a = g b then 0 else 1)
  | .min c d a b => some (c, d, fun g => BitVec.ofInt 32 (min (g a).toInt (g b).toInt))
  | .max c d a b => some (c, d, fun g => BitVec.ofInt 32 (max (g a).toInt (g b).toInt))
  | .sll c d a b => some (c, d, fun g => BitVec.ofNat 32 ((g a).toNat * 2 ^ ((g b).toNat % 32)))
  | .srl c d a b => some (c, d, fun g => BitVec.ofNat 32 ((g a).toNat / 2 ^ ((g b).toNat % 32)))
  | .sra c d a b => some (c, d, fun g => BitVec.ofInt 32 ((g a).toInt / 2 ^ ((g b).toNat % 32)))
  | .ror c d a b => some (c, d, fun g => (g a).rotateRight ((g b).toNat % 32))
  | .slli c d a n => some (c, d, fun g => BitVec.ofNat 32 ((g a).toNat * 2 ^ n.val))
  | .srli c d a n => some (c, d, fun g => BitVec.ofNat 32 ((g a).toNat / 2 ^ n.val))
  | .srai c d a n => some (c, d, fun g => BitVec.ofInt 32 ((g a).toInt / 2 ^ n.val))
  | .rori c d a n => some (c, d, fun g => (g a).rotateRight n.val)
  | .mul c d a b => some (c, d, fun g => BitVec.ofNat 32 ((g a).toNat * (g b).toNat))
  | .mulhi c d a b => some (c, d, fun g => BitVec.ofInt 32 ((g a).toInt * (g b).toInt / 2 ^ 32))
  | .mulhiu c d a b => some (c, d, fun g => BitVec.ofNat 32 ((g a).toNat * (g b).toNat / 2 ^ 32))
  | .div c d a b => some (c, d, fun g =>
      if g b = 0 then 0xFFFFFFFF else BitVec.ofInt 32 ((g a).toInt.tdiv (g b).toInt))
  | .divu c d a b => some (c, d, fun g => if g b = 0 then 0xFFFFFFFF else BitVec.ofNat 32 ((g a).toNat / (g b).toNat))
  | .mod c d a b => some (c, d, fun g => if g b = 0 then g a else BitVec.ofInt 32 ((g a).toInt.tmod (g b).toInt))
  | .modu c d a b => some (c, d, fun g => if g b = 0 then g a else BitVec.ofNat 32 ((g a).toNat % (g b).toNat))
  | .clz c d a => some (c, d, fun g => BitVec.ofNat 32 (if (g a).toNat = 0 then 32 else 31 - Nat.log2 (g a).toNat))
  | .addi c d a v => some (c, d, fun g => BitVec.ofInt 32 ((g a).toInt + v.toInt))
  | .andi c d a v => some (c, d, fun g => g a &&& BitVec.ofNat 32 v.toNat)
  | .ori c d a v => some (c, d, fun g => g a ||| BitVec.ofNat 32 v.toNat)
  | .xori c d a v => some (c, d, fun g => g a ^^^ BitVec.ofNat 32 v.toNat)
  | .lti c d a v => some (c, d, fun g => if (g a).toInt < v.toInt then 1 else 0)
  | .ltiu c d a v => some (c, d, fun g => if (g a).toNat < (BitVec.ofInt 32 v.toInt).toNat then 1 else 0)
  | .eqi c d a v => some (c, d, fun g => if (g a).toInt = v.toInt then 1 else 0)
  | .nei c d a v => some (c, d, fun g => if (g a).toInt = v.toInt then 0 else 1)
  | .lhi c d v => some (c, d, fun _ => BitVec.ofNat 32 (v.toNat * 65536))
  | .bfx c d a sgn pos len => some (c, d, fun g =>
      let w := min (len.val + 1) (32 - pos.val)
      let v := (g a).toNat / 2 ^ pos.val % 2 ^ w
      if sgn = true ∧ 2 ^ (w - 1) ≤ v then BitVec.ofInt 32 ((v : Int) - 2 ^ w) else BitVec.ofNat 32 v)
  | .bfi c d a pos len => some (c, d, fun g =>
      let top := min 31 (pos.val + len.val)
      let v := (g d).toNat
      BitVec.ofNat 32 (v % 2 ^ pos.val + (g a).toNat % 2 ^ (top + 1 - pos.val) * 2 ^ pos.val +
        v / 2 ^ (top + 1) * 2 ^ (top + 1)))
  | .perm c d a sel => some (c, d, fun g =>
      let byte (i : Nat) : Nat :=
        let n := sel.toNat / 16 ^ i % 16
        if n < 4 then (g a).toNat / 256 ^ n % 256 else if n < 8 then (g d).toNat / 256 ^ (n - 4) % 256 else 0
      BitVec.ofNat 32 (byte 0 + 256 * byte 1 + 65536 * byte 2 + 16777216 * byte 3))
  | _ => none

/-- The arithmetic, logic, shift, immediate and field instructions write their result, and nothing else (R204, R211 to
R213, R217, R220 to R223). -/
def alu : Prop := ∀ (i : Instr) (c : Fin 17) (d : Fin 32) (f : (Fin 32 → Word) → Word) (s : State),
  aluRule i = some (c, d, f) → canRun s c .plain → Does i s fun t => gained s t c d (f fun r => s.greg c r)

/-- After such an instruction at the LEND of active loops, with nothing in the shadow: the innermost level with passes
left goes back to its LSTART, and every level inside it that had its last pass is at 0 (R225). -/
def loopBack : Prop := ∀ (i : Instr) (c : Fin 17) (d : Fin 32) (f : (Fin 32 → Word) → Word) (s : State),
  aluRule i = some (c, d, f) → canRun s c .plain → s.loopBack c = true → (s.core c).shadow = [] →
  let active (l : Nat) : Prop := s.cr c (crLCOUNT l) ≠ 0 ∧ s.cr c (crLEND l) = (s.core c).pc
  let last (l : Nat) : Prop := active l → s.cr c (crLCOUNT l) = 1
  (∀ l < 3, active l → 1 < (s.cr c (crLCOUNT l)).toNat → (∀ j < 3, l < j → last j) →
    Does i s fun t => goesTo t c (s.cr c (crLSTART l)) (s.cr c (crLSTART l) + 4) false ∧
      t.cr c (crLCOUNT l) = s.cr c (crLCOUNT l) - 1 ∧
      (∀ j < 3, l < j → active j → t.cr c (crLCOUNT j) = 0) ∧
      (∀ n, n < 0x48 ∨ 0x4A < n → t.cr c n = s.cr c n) ∧ (∀ j < l, t.cr c (crLCOUNT j) = s.cr c (crLCOUNT j))) ∧
  ((∀ j < 3, last j) → Does i s fun t => goesTo t c (s.core c).npc ((s.core c).npc + 4) false ∧
    (∀ j < 3, active j → t.cr c (crLCOUNT j) = 0) ∧ (∀ n, n < 0x48 ∨ 0x4A < n → t.cr c n = s.cr c n))

/-- What waits in the shadow of a CWR counts down with every instruction and takes effect at 0, later ones of one
register last, on the register's defined bits (R205, R207). -/
def shadowTick : Prop := ∀ (i : Instr) (c : Fin 17) (d : Fin 32) (f : (Fin 32 → Word) → Word) (s : State) (p : CwrPending),
  aluRule i = some (c, d, f) → canRun s c .plain → s.atLend c = false → (s.core c).shadow = [p] →
  ¬ (p.cr = crASID ∧ bitAt p.value 31 = true) →
  (p.left ≤ 1 → Does i s fun t => (t.core c).shadow = [] ∧
    t.cr c p.cr = (s.cr c p.cr &&& ~~~crMask p.cr) ||| (p.value &&& crMask p.cr) ∧
    (∀ n, n ≠ p.cr → t.cr c n = s.cr c n)) ∧
  (1 < p.left → Does i s fun t => (t.core c).shadow = [{ p with left := p.left - 1 }] ∧ ∀ n, t.cr c n = s.cr c n)

/-! ### Program flow (R211, R214) -/

/-- In `t` the branch at the pc has been taken (`some target`) or not: the delay slot is next, then the target; `gd` holds
`v` where it links. -/
def branched (s t : State) (c gd : Nat) (v : Word) (target : Option Word) : Prop :=
  gains s t c gd v ∧ goesTo t c (s.core c).npc (target.getD ((s.core c).npc + 4)) true ∧
  ((s.core c).shadow = [] → ∀ n, t.cr c n = s.cr c n) ∧ sameBeside s t c ∧ sameMemory s t c ∧
  Touches [.freeCtr, .cores] s t

/-- BZ, BNZ, J, CALL, JMPR and CALLR (R211, R214). -/
def branches : Prop := ∀ (c : Fin 17) (s : State), canRun s c .branch →
  let pc := (s.core c).pc
  let dest (off : Int) : Word := BitVec.ofInt 32 ((pc.toNat : Int) + 4 + 4 * off)
  (∀ (ga : Fin 32) (off : BitVec 21), Does (.bz c ga off) s fun t =>
    branched s t c 0 0 (if s.greg c ga = 0 then some (dest off.toInt) else none)) ∧
  (∀ (ga : Fin 32) (off : BitVec 21), Does (.bnz c ga off) s fun t =>
    branched s t c 0 0 (if s.greg c ga = 0 then none else some (dest off.toInt))) ∧
  (∀ off : BitVec 26, Does (.jump c off) s fun t => branched s t c 0 0 (some (dest off.toInt))) ∧
  (∀ (gd : Fin 32) (off : BitVec 21), Does (.call c gd off) s fun t =>
    branched s t c gd (pc + 8) (some (dest off.toInt))) ∧
  (∀ ga : Fin 32, Does (.jmpr c ga) s fun t => branched s t c 0 0 (some (s.greg c ga))) ∧
  (∀ gd ga : Fin 32, Does (.callr c gd ga) s fun t => branched s t c gd (pc + 8) (some (s.greg c ga)))

/-- LOOP and LOOPI set up a level: LSTART is the next instruction, LEND lies `stop` words on, and a count of zero skips
the body (R224); a level active around the present instruction whose LEND would move outwards is misuse (R226). -/
def loops : Prop := ∀ (c : Fin 17) (level : Fin 4) (s : State), canRun s c .loop → level.val < 3 →
  (s.core c).shadow = [] →
  let pc := (s.core c).pc
  let lend (stop : Nat) : Word := pc + BitVec.ofNat 32 (4 * stop)
  let misuse (stop : Nat) : Prop := s.loopBack c = true ∧ s.cr c (crLCOUNT level) ≠ 0 ∧
    s.cr c (crLSTART level) ≤ pc ∧ pc ≤ s.cr c (crLEND level) ∧ s.cr c (crLEND level) < lend stop
  let set (stop : Nat) (count : Word) (t : State) : Prop :=
    t.cr c (crLSTART level) = pc + 4 ∧ t.cr c (crLEND level) = lend stop ∧ t.cr c (crLCOUNT level) = count ∧
    (∀ n, n ≠ crLSTART level → n ≠ crLEND level → n ≠ crLCOUNT level → t.cr c n = s.cr c n) ∧
    (count ≠ 0 → goesTo t c (s.core c).npc ((s.core c).npc + 4) false) ∧
    (count = 0 → goesTo t c (lend stop + 4) (lend stop + 8) false) ∧
    gains s t c 0 0 ∧ sameBeside s t c ∧ sameMemory s t c ∧ Touches [.freeCtr, .cores] s t
  (∀ (ga : Fin 32) (stop : BitVec 16), stop ≠ 0 → ¬ misuse stop.toNat →
    Does (.loop c level ga stop) s (set stop.toNat (s.greg c ga))) ∧
  (∀ count stop : BitVec 12, stop ≠ 0 → ¬ misuse stop.toNat →
    Does (.loopi c level count stop) s (set stop.toNat (BitVec.ofNat 32 count.toNat)))

/-! ### Exception entry (R246 to R255) -/

/-- Bytes of core `c`'s own local memory, and the address at which the memory holds them (R22). -/
def localSize (c : Nat) : Nat := if c < 16 then 0x40000 else 0x80000
def localKey (c off : Nat) : Nat := (if c < 16 then 0x20000000 + c * 0x100000 else tsBase + 0x10000000) + off

/-- Core `c` can push a frame below its stack pointer, which stands at `off` in its own local memory: no translation,
no limit reached, outside the emergency range, nothing in the shadow, and room in the store buffer (R249, R254). -/
def frameRoom (s : State) (c off : Nat) : Prop :=
  let sp := (settled s c 30).toNat
  let e := (s.cr c crESTK).toNat
  s.translating c = false ∧ (s.core c).shadow = [] ∧ (s.core c).sb.length ≤ 4 ∧
  sp = 0x10000000 + off ∧ off % 8 = 0 ∧ 32 ≤ off ∧ off ≤ localSize c ∧
  (sp + 512 < e ∨ e ≤ sp) ∧ (s.cr c crSTKLIM).toNat ≤ sp - 32

/-- The frame as entries of the store buffer (R249). -/
def frameEntries (s : State) (c off : Nat) : List StoreEntry :=
  let entry (k : Nat) (lo hi : Word) : StoreEntry :=
    { cells := cellsFrom (localKey c (off - 32 + 8 * k)) (leBytes 4 lo.toNat ++ leBytes 4 hi.toNat), mtype := .uncached
      va := BitVec.ofNat 32 (0x10000000 + off - 32 + 8 * k) }
  [entry 0 (s.cr c crEPC) (s.cr c crENPC), entry 1 (s.cr c crESTATUS) (s.cr c crECAUSE),
    entry 2 (s.cr c crEADDR) (settled s c 30), entry 3 0 0]

/-- Is the class of exception `code` masked by STATUS.fmask (R206)? -/
def classMasked (s : State) (c code : Nat) : Prop :=
  (2 ≤ code ∧ code ≤ 4 ∧ (s.cr c crSTATUS).getLsbD 12 = true) ∨ (code = 5 ∧ (s.cr c crSTATUS).getLsbD 13 = true) ∨
  (code = 6 ∧ (s.cr c crSTATUS).getLsbD 14 = true) ∨ (7 ≤ code ∧ code ≤ 9 ∧ (s.cr c crSTATUS).getLsbD 15 = true)

/-- Core `c` stands in `t` at the vector of `code`, as the entry for an exception at its pc leaves it (R246 to R249). -/
def entered (s t : State) (c off code orig detail : Nat) (upper : Bool) (eaddr : Word) : Prop :=
  let st := s.cr c crSTATUS
  let v := (s.cr c crVBASE &&& 0xFFFFF000) + BitVec.ofNat 32 (0x40 * code)
  goesTo t c v (v + 4) false ∧
  t.cr c crEPC = (s.core c).pc ∧ t.cr c crENPC = (s.core c).npc ∧ t.cr c crESTATUS = st ∧
  t.cr c crECAUSE = BitVec.ofNat 32 (orig * 65536 + detail % 256 * 256 + (if (s.core c).slot then 128 else 0) +
    (if upper then 64 else 0) + code) ∧
  t.cr c crEADDR = eaddr ∧
  (∀ i < 32, (t.cr c crSTATUS).getLsbD i = if i = 0 then true else if i = 1 ∨ i = 3 then false else st.getLsbD i) ∧
  (∀ n, 5 < n → t.cr c n = s.cr c n) ∧
  (∀ r, t.greg c r = if r = 30 then BitVec.ofNat 32 (0x10000000 + off - 32) else settled s c r) ∧
  (t.core c).load = none ∧ (t.core c).resv = none ∧ (t.core c).waiting = false ∧
  (t.core c).sb = (s.core c).sb ++ frameEntries s c off ∧ (t.core c).l1d = (s.core c).l1d ∧
  (t.core c).halted = (s.core c).halted ∧ (t.core c).held = (s.core c).held ∧ (∀ d, d ≠ c → t.core d = s.core d)

/-- The entry for `code`, or, with its class masked, the masked-fault entry with the code as orig (R206, R246). -/
def enteredFor (s t : State) (c off code detail : Nat) (upper : Bool) (eaddr : Word) : Prop :=
  (classMasked s c code → entered s t c off 0x0D code detail upper eaddr) ∧
  (¬ classMasked s c code → entered s t c off code 0 detail upper eaddr)

/-- TRAP and BKPT raise their exceptions (R211, R246); a reserved or absent-coprocessor word its own (R210). -/
def raised : Prop := ∀ (c : Fin 17) (off : Nat) (s : State), canRun s c .plain → frameRoom s c off →
  (∀ k : BitVec 15, Does (.trap c k) s fun t => entered s t c off 0x0A 0 0 false 0 ∧ Touches [.freeCtr, .cores] s t) ∧
  (∀ k : BitVec 15, Does (.bkpt c k) s fun t => entered s t c off 0x0B 0 0 false 0 ∧ Touches [.freeCtr, .cores] s t) ∧
  (∀ (w : Word) (k : Nat), wordFault c w = some k → Does (.reservedInstruction c w) s fun t =>
    enteredFor s t c off k 0 false 0 ∧ Touches [.freeCtr, .cores] s t)

/-- Which words are reserved: an opcode that no group lists, a function of the T group beyond those of R211 and R218,
coprocessor words on the tailstock core, and slots 6 and 7, whose coprocessors are absent (R208 to R210, R227, R230). -/
def reservedWords : Prop := ∀ (c : Fin 17) (w : Word),
  (0x10 < fieldOf w 5 0 → fieldOf w 5 0 < 0x18 → wordFault c w = some 7) ∧
  (0x1B ≤ fieldOf w 5 0 → fieldOf w 5 0 < 0x20 → wordFault c w = some 7) ∧
  (0x24 ≤ fieldOf w 5 0 → fieldOf w 5 0 < 0x38 → wordFault c w = some 7) ∧
  (fieldOf w 5 0 = 0 → 0x35 < fieldOf w 26 21 → wordFault c w = some 7) ∧
  (c.val = 16 → 0x38 ≤ fieldOf w 5 0 → wordFault c w = some 7) ∧
  (c.val < 16 → 0x3E ≤ fieldOf w 5 0 → wordFault c w = some 9) ∧
  (fieldOf w 5 0 = 0 → fieldOf w 31 27 = 0 → fieldOf w 26 21 ≤ 0x1A → wordFault c w = none) ∧
  (1 ≤ fieldOf w 5 0 → fieldOf w 5 0 ≤ 7 → wordFault c w = none) ∧
  (0x20 ≤ fieldOf w 5 0 → fieldOf w 5 0 ≤ 0x23 → wordFault c w = none)

/-- Each word of R208's formats spells its instruction with every operand at every value: the function of the T-group, the
immediate group, fields and permutations, hardware loops, control registers, memory, cache, branches and coprocessors
(R208, R209, R211, R213, R214, R216, R218 to R220, R224, R230). -/
def wordsDecode : Prop := ∀ (c : Fin 17) (gd ga gb n : Fin 32) (lvl : Fin 4) (imm : BitVec 16) (off cnt last : BitVec 12)
    (far : BitVec 21) (jmp : BitVec 26) (code : BitVec 15) (sgn upd : Bool),
  let t (f : Nat) (d a b : Fin 32) : Word := toWord (f * 2 ^ 21 + b.val * 2 ^ 16 + a.val * 2 ^ 11 + d.val * 2 ^ 6)
  let i (op : Nat) (d a : Fin 32) : Word := toWord (imm.toNat * 2 ^ 16 + a.val * 2 ^ 11 + d.val * 2 ^ 6 + op)
  let m (op size : Nat) (d : Fin 32) (sg up : Bool) : Word := toWord (off.toNat * 2 ^ 20 + size * 2 ^ 18 + sg.toNat * 2 ^ 17 +
    up.toNat * 2 ^ 16 + ga.val * 2 ^ 11 + d.val * 2 ^ 6 + op)
  let b (op : Nat) : Word := toWord (far.toNat * 2 ^ 11 + gd.val * 2 ^ 6 + op)
  let cop (op f : Nat) (d a b : Fin 32) : Word := t f d a b + toWord op
  let spells (w : Word) (x : Instr) : Prop := wordCommand c w = x
  (∀ x ∈ [(0x00, Instr.add c gd ga gb), (0x01, .sub c gd ga gb), (0x02, .andOp c gd ga gb), (0x03, .orOp c gd ga gb),
      (0x04, .xor c gd ga gb), (0x05, .orn c gd ga gb), (0x06, .lt c gd ga gb), (0x07, .ltu c gd ga gb), (0x08, .eq c gd ga gb),
      (0x09, .ne c gd ga gb), (0x0A, .min c gd ga gb), (0x0B, .max c gd ga gb), (0x0C, .sll c gd ga gb), (0x0D, .srl c gd ga gb),
      (0x0E, .sra c gd ga gb), (0x0F, .ror c gd ga gb), (0x10, .slli c gd ga gb), (0x11, .srli c gd ga gb),
      (0x12, .srai c gd ga gb), (0x13, .rori c gd ga gb), (0x14, .mul c gd ga gb), (0x15, .mulhi c gd ga gb),
      (0x16, .mulhiu c gd ga gb), (0x17, .div c gd ga gb), (0x18, .divu c gd ga gb), (0x19, .mod c gd ga gb),
      (0x1A, .modu c gd ga gb), (0x25, .scw c gd ga gb)],
    spells (t x.1 gd ga gb) x.2) ∧
  (distinct3 gd ga gb = true → spells (t 0x28 gd ga gb) (.xfer c gd ga gb) ∧ spells (t 0x29 gd ga gb) (.crcb c gd ga gb)) ∧
  spells (t 0x1B gd ga 0) (.clz c gd ga) ∧ spells (t 0x20 0 ga 0) (.jmpr c ga) ∧ spells (t 0x21 gd ga 0) (.callr c gd ga) ∧
  spells (t 0x24 gd ga 0) (.llw c gd ga) ∧ spells (t 0x30 0 0 0) (.fence c) ∧ spells (t 0x31 0 0 0) (.sync c) ∧
  spells (t 0x32 0 0 0) (.retx c) ∧ spells (t 0x33 0 0 0 + toWord (code.toNat * 64)) (.trap c code) ∧
  spells (t 0x34 0 0 0 + toWord (code.toNat * 64)) (.bkpt c code) ∧ spells (t 0x35 0 0 0) (.wait c) ∧
  (∀ x ∈ [(0x01, Instr.addi c gd ga imm), (0x02, .andi c gd ga imm), (0x03, .ori c gd ga imm), (0x04, .xori c gd ga imm),
      (0x05, .lti c gd ga imm), (0x06, .ltiu c gd ga imm), (0x07, .eqi c gd ga imm), (0x09, .nei c gd ga imm),
      (0x0C, .perm c gd ga imm)], spells (i x.1 gd ga) x.2) ∧
  spells (i 0x08 gd 0) (.lhi c gd imm) ∧
  (crListed c imm.toNat = true → spells (i 0x0F gd 0) (.crd c gd imm) ∧ spells (i 0x10 0 ga) (.cwr c imm ga)) ∧
  spells (toWord (sgn.toNat * 2 ^ 26 + gb.val * 2 ^ 21 + n.val * 2 ^ 16 + ga.val * 2 ^ 11 + gd.val * 2 ^ 6 + 0x0A)) (.bfx c gd ga sgn gb n) ∧
  spells (toWord (gb.val * 2 ^ 21 + n.val * 2 ^ 16 + ga.val * 2 ^ 11 + gd.val * 2 ^ 6 + 0x0B)) (.bfi c gd ga gb n) ∧
  (lvl.val < 3 → imm ≠ 0 → spells (toWord (imm.toNat * 2 ^ 16 + ga.val * 2 ^ 11 + lvl.val * 2 ^ 6 + 0x0D)) (.loop c lvl ga imm)) ∧
  (lvl.val < 3 → last ≠ 0 → spells (toWord (lvl.val * 2 ^ 30 + cnt.toNat * 2 ^ 18 + last.toNat * 2 ^ 6 + 0x0E)) (.loopi c lvl cnt last)) ∧
  (∀ x ∈ [(0, AccessSize.byte), (1, .half), (2, .word)], spells (m 0x18 x.1 gd sgn upd) (.ld c gd ga off x.2 sgn upd) ∧
    spells (m 0x19 x.1 gd false upd) (.st c gd ga off x.2 upd)) ∧
  (∀ x ∈ [((0 : Fin 32), Instr.cacheClean c ga off), (1, .cacheInvalidate c ga off), (2, .cacheCleanInvalidate c ga off),
      (3, .cacheInvalidateI c ga off), (4, .cachePrefetch c ga off)], spells (m 0x1A 2 x.1 false false) x.2) ∧
  spells (b 0x20) (.bz c gd far) ∧ spells (b 0x21) (.bnz c gd far) ∧ spells (toWord (jmp.toNat * 2 ^ 6 + 0x22)) (.jump c jmp) ∧
  spells (b 0x23) (.call c gd far) ∧
  (c.val < 16 → spells (cop 0x38 0 0 ga gb) (.macs c ga gb) ∧ spells (cop 0x38 1 0 ga gb) (.macz c ga gb) ∧
    spells (cop 0x38 2 gd 0 0) (.macr c gd) ∧ spells (cop 0x38 3 gd ga gb) (.mulq c gd ga gb) ∧
    spells (cop 0x38 4 gd ga gb) (.adds c gd ga gb) ∧ spells (cop 0x38 5 gd ga gb) (.subs c gd ga gb) ∧
    (gd.val % 2 = 0 → spells (cop 0x39 0 gd ga 0) (.sincos c gd ga)) ∧ spells (cop 0x39 1 gd ga gb) (.angle c gd ga gb) ∧
    spells (cop 0x39 2 gd ga gb) (.mag c gd ga gb) ∧ spells (cop 0x3A 0 gd ga 0) (.lpoll c gd ga) ∧
    spells (cop 0x3B 0 0 ga gb) (.lput c ga gb) ∧ spells (cop 0x3C 0 gd ga gb) (.pins c gd ga gb) ∧
    spells (cop 0x3D 0 gd ga 0) (.prem c gd ga))

/-- The instructions that a core executes at its pc, with their core and the shape of their place. -/
def isaRule : Instr → Option (Fin 17 × Shape)
  | .bz c _ _ | .bnz c _ _ | .jump c _ | .call c _ _ | .jmpr c _ | .callr c _ _ => some (c, .branch)
  | .loop c _ _ _ | .loopi c _ _ _ => some (c, .loop)
  | .crd c _ _ | .cwr c _ _ | .trap c _ | .bkpt c _ => some (c, .plain)
  | .wait c => some (c, .wait)
  | .retx c => some (c, .ret)
  | .ld c _ _ _ _ _ _ | .st c _ _ _ _ _ | .llw c _ _ | .scw c _ _ _ => some (c, .plain)
  | .cacheClean c _ _ | .cacheInvalidate c _ _ | .cacheCleanInvalidate c _ _ | .cacheInvalidateI c _ _
  | .cachePrefetch c _ _ | .fence c | .sync c | .xfer c _ _ _ | .crcb c _ _ _ => some (c, .plain)
  | .macs c _ _ | .macz c _ _ | .macr c _ | .mulq c _ _ _ | .adds c _ _ _ | .subs c _ _ _ | .sincos c _ _
  | .angle c _ _ _ | .mag c _ _ _ | .lpoll c _ _ | .lput c _ _ | .pins c _ _ _ | .prem c _ _ => some (c, .plain)
  | i => (aluRule i).map fun x => (x.1, .plain)

/-- An instruction for a core that does not run, or waits for a load or an interrupt, does nothing (R211, R234, R239);
one whose fetch faults raises that exception (R246 to R248); one in a place where R215 or R226 forbids it leaves the
core's general and control registers and its pc open, and nothing beyond them changes (log entry 1). -/
def notExecuted : Prop := ∀ (i : Instr) (c : Fin 17) (k : Shape) (s : State), isaRule i = some (c, k) →
  (s.coreReady c = false → Idle i s) ∧
  (∀ (e : Exc) (off : Nat), s.coreReady c = true → (fetched s c).1 = .error e → frameRoom s c off →
    Does i s fun t => enteredFor s t c off e.code e.detail e.upper e.eaddr ∧ Touches [.freeCtr, .cores] s t) ∧
  (s.coreReady c = true → fetches s c → s.misplaced c k = true →
    Does i s fun t => sameBeside s t c ∧ sameMemory s t c ∧ (t.core c).shadow = (s.core c).shadow ∧
      (∀ n, crListed c n = false ∨ crMask n = 0 → t.cr c n = s.cr c n) ∧ Touches [.freeCtr, .cores] s t)

/-- A fetch without translation faults only where nothing is mapped, as a bus error at the pc; in the own local memory it
never faults (R24, R247, R248). -/
def fetchMap : Prop := ∀ (c : Fin 17) (s : State), s.translating c = false → (s.core c).pc.toNat % 8 ≤ 4 →
  let pc := (s.core c).pc.toNat
  (∀ off, off < localSize c → pc = 0x10000000 + off →
    (fetched s c).1 = .ok [((s.core c).pc, localKey c off, 4, .uncached)]) ∧
  (0x30000000 ≤ pc → pc < 0x40000000 → (fetched s c).1 = .error { code := 6, eaddr := (s.core c).pc }) ∧
  (0x90000000 ≤ pc → (fetched s c).1 = .error { code := 6, eaddr := (s.core c).pc })

/-- In user mode WAIT, RETX, CACHE with gt 1, and CRD and CWR of an S register raise the privilege exception; a register
number that R205 does not list is a reserved instruction, as are level 3 and stop 0 of the loops, and odd gd of SINCOS
(R205, R210, R219, R224, R232, R233). -/
def privilege : Prop := ∀ (c : Fin 17) (off : Nat) (s : State), canRun s c .plain → frameRoom s c off →
  let faults (i : Instr) (code : Nat) : Prop :=
    Does i s fun t => enteredFor s t c off code 0 false 0 ∧ Touches [.freeCtr, .cores] s t
  (s.supervisor c = false →
    ((s.core c).slot = false → faults (.wait c) 8) ∧
    ((s.core c).slot = false → s.atLend c = false → faults (.retx c) 8) ∧
    (∀ (ga : Fin 32) (o : BitVec 12), faults (.cacheInvalidate c ga o) 8) ∧
    (∀ (gd : Fin 32) (n : BitVec 16), crListed c n.toNat = true → crSupervisor n.toNat = true →
      faults (.crd c gd n) 8 ∧ faults (.cwr c n gd) 8)) ∧
  (∀ (gd : Fin 32) (n : BitVec 16), crListed c n.toNat = false → faults (.crd c gd n) 7 ∧ faults (.cwr c n gd) 7) ∧
  ((s.core c).slot = false → s.atLend c = false →
    (∀ (ga : Fin 32) (stop : BitVec 16), faults (.loop c 3 ga stop) 7) ∧
    (∀ (l : Fin 4) (ga : Fin 32), faults (.loop c l ga 0) 7) ∧
    (∀ (l : Fin 4) (n : BitVec 12), faults (.loopi c l n 0) 7) ∧ ∀ n m : BitVec 12, faults (.loopi c 3 n m) 7) ∧
  (c.val < 16 → ∀ gd ga : Fin 32, gd.val % 2 = 1 → faults (.sincos c gd ga) 7)

/-- CRD reads a control register; the identity and CYCLE are computed, and CYCLE_LO latches CYCLE_HI (R34, R205). -/
def crd : Prop := ∀ (c : Fin 17) (gd : Fin 32) (n : BitVec 16) (s : State), canRun s c .plain →
  crListed c n.toNat = true → (crSupervisor n.toNat = true → s.supervisor c = true) →
  (n.toNat ∉ [0x10, 0x11, 0x12] → Does (.crd c gd n) s fun t => gained s t c gd (s.cr c n.toNat)) ∧
  (n = 0x10 → Does (.crd c gd n) s fun t => gained s t c gd (if c.val < 16 then BitVec.ofNat 32 c else 0x80000000)) ∧
  (n = 0x11 → Does (.crd c gd n) s fun t => gained s t c gd (lowWord (s.devTimer - (s.core c).cycle0)) ∧
    (t.core c).cycleHi = highWord (s.devTimer - (s.core c).cycle0)) ∧
  (n = 0x12 → Does (.crd c gd n) s fun t => gained s t c gd (s.core c).cycleHi ∧ (t.core c).cycleHi = (s.core c).cycleHi)

/-- CWR puts the value into the shadow, for the fourth instruction after it (R207). -/
def cwr : Prop := ∀ (c : Fin 17) (n : BitVec 16) (ga : Fin 32) (s : State), canRun s c .plain → quiet s c →
  crListed c n.toNat = true → (crSupervisor n.toNat = true → s.supervisor c = true) →
  Does (.cwr c n ga) s fun t => gained s t c 0 0 ∧
    (t.core c).shadow = [{ left := 3, cr := n.toNat, value := s.greg c ga }]

/-- WAIT completes, and the core then executes nothing until an interrupt is presented (R211). -/
def wait : Prop := ∀ (c : Fin 17) (s : State), canRun s c .wait → s.supervisor c = true → quiet s c →
  Does (.wait c) s fun t => gained s t c 0 0 ∧ (t.core c).waiting = !s.interruptPresented c

/-- RETX resumes at EPC and ENPC with STATUS from ESTATUS, and takes the exception registers and g30 from the frame at
g30, which stands at `off` in the own local memory (R250). -/
def retx : Prop := ∀ (c : Fin 17) (off : Nat) (s : State), canRun s c .ret → s.supervisor c = true →
  s.translating c = false → (s.core c).shadow = [] → (s.core c).sb = [] →
  (s.greg c 30).toNat = 0x10000000 + off → off % 8 = 0 → off + 24 ≤ localSize c →
  s.readsPoison (localKey c off) 8 = false → s.readsPoison (localKey c (off + 8)) 8 = false →
  s.readsPoison (localKey c (off + 16)) 8 = false →
  let f (k : Nat) : Word := s.word (localKey c (off + 4 * k))
  Does (.retx c) s fun t =>
    goesTo t c (s.cr c crEPC) (s.cr c crENPC) (bitAt (s.cr c crECAUSE) 7) ∧ t.cr c crSTATUS = s.cr c crESTATUS ∧
    t.cr c crEPC = f 0 ∧ t.cr c crENPC = f 1 ∧ t.cr c crESTATUS = f 2 &&& crMask crESTATUS ∧
    t.cr c crECAUSE = f 3 &&& crMask crECAUSE ∧ t.cr c crEADDR = f 4 ∧ (∀ n, 5 < n → t.cr c n = s.cr c n) ∧
    gains s t c 30 (f 5) ∧ sameBeside s t c ∧ sameMemory s t c ∧ Touches [.freeCtr, .cores] s t

/-! ### Exhausted stacks (R254 to R256) -/

/-- g30 below the limit, outside the emergency range: the frame goes to the emergency stack at `off` in the own local
memory, and the entry is that of stack exhausted with the code as orig; in the emergency range without room the core
halts, and a turning core tells the tailstock (R254 to R256). -/
def stackChecks : Prop := ∀ (c : Fin 17) (k : BitVec 15) (s : State), canRun s c .plain → s.translating c = false →
  (s.core c).shadow = [] → (s.core c).sb.length ≤ 4 →
  let sp := (settled s c 30).toNat
  let e := (s.cr c crESTK).toNat
  (∀ off, (sp + 512 < e ∨ e ≤ sp) → (sp < 32 ∨ sp - 32 < (s.cr c crSTKLIM).toNat) →
    e = 0x10000000 + off → off % 32 = 0 → 512 ≤ off → off ≤ localSize c → Does (.trap c k) s fun t =>
      entered s t c off 0x0C 0x0A 0 false 0 ∧ Touches [.freeCtr, .cores] s t) ∧
  (e ≤ sp + 512 → sp < e → sp + 480 < e → Does (.trap c k) s fun t =>
    (t.core c).halted = true ∧ (t.core c).sb = (s.core c).sb ∧
    (c.val < 16 → t.bit (Reg.TS_IRQ_PEND 0) c = true ∧ t.chucksOf (0x10 + c.val) = []))

/-! ### Loads and stores (R216, R217, R239 to R244) -/

def sizeOf (x : AccessSize) : Nat := match x with | .byte => 1 | .half => 2 | .word => 4

/-- The address of an access, and what an update leaves in its base (R216). -/
def vaOf (s : State) (c ga : Nat) (off : BitVec 12) (upd : Bool) : Word :=
  if upd then s.greg c ga else BitVec.ofInt 32 ((s.greg c ga).toInt + off.toInt)
def baseAfter (s : State) (c ga : Nat) (off : BitVec 12) : Word := BitVec.ofInt 32 ((s.greg c ga).toInt + off.toInt)

/-- The value of a load of `n` bytes with content `x` (R216). -/
def extended (n : Nat) (sgn : Bool) (x : Nat) : Word :=
  if sgn = true ∧ 2 ^ (8 * n - 1) ≤ x then BitVec.ofInt 32 ((x : Int) - 2 ^ (8 * n)) else BitVec.ofNat 32 x

/-- In `t` a load has brought `v`, which register `d` takes after the next instruction; the base has been updated to
`b` where `u` says so. -/
def loaded (s t : State) (c d : Nat) (v : Word) (u : Bool) (ga : Nat) (b : Word) : Prop :=
  (t.core c).load = some (d, v) ∧ (t.core c).wrote = [] ∧
  (∀ r, t.greg c r = if u = true ∧ d ≠ ga ∧ r = ga ∧ ga ≠ 0 then b else settled s c r) ∧ onward s t c

/-- Where an access of `n` bytes within 8 aligned bytes goes without translation: the own local memory, another present
core's TCM, the device region, an awake scratch bank of this core; elsewhere it is a bus error (R22, R24, R253, R280). -/
def accessMap : Prop := ∀ (c : Fin 17) (va : Word) (n : Nat) (acc : Access) (s : State), s.translating c = false →
  0 < n → va.toNat % 8 + n ≤ 8 → acc ≠ .fetch →
  let a := va.toNat
  (∀ off, off < localSize c → a = 0x10000000 + off →
    checkAccess c va n acc s = (.ok [(va, localKey c off, n, .uncached)], s)) ∧
  (∀ k off, k < 16 → off < 0x40000 → a = 0x20000000 + k * 0x100000 + off →
    (s.coreOn k = true → checkAccess c va n acc s = (.ok [(va, a, n, .uncached)], s)) ∧
    (s.coreOn k = false → checkAccess c va n acc s = (.error { code := 6, eaddr := va }, s))) ∧
  (0x80000000 ≤ a → a < 0x81400000 →
    (a % n = 0 → checkAccess c va n acc s = (.ok [(va, a, n, .device)], s)) ∧
    (a % n ≠ 0 → checkAccess c va n acc s = (.error { code := 5, eaddr := va }, s))) ∧
  (0x40000000 ≤ a → a < 0x41000000 →
    (acc = .store ∨ s.bankAccepts ((a - 0x40000000) / 0x80000) c = true →
      checkAccess c va n acc s = (.ok [(va, a, n, .uncached)], s)) ∧
    (acc = .load → s.bankAccepts ((a - 0x40000000) / 0x80000) c = false →
      checkAccess c va n acc s = (.error { code := 6, eaddr := va }, s))) ∧
  (0x30000000 ≤ a → a < 0x40000000 → checkAccess c va n acc s = (.error { code := 6, eaddr := va }, s)) ∧
  (0x90000000 ≤ a → checkAccess c va n acc s = (.error { code := 6, eaddr := va }, s))

/-- An access that a check turns away raises that exception, and changes no register and no memory (R243, R248). -/
def accessFaults : Prop := ∀ (c : Fin 17) (gt ga : Fin 32) (off : BitVec 12) (size : AccessSize) (sgn upd : Bool)
    (e : Exc) (k : Nat) (s s' : State), canRun s c .plain → frameRoom s c k →
  (checkAccess c (vaOf s c ga off upd) (sizeOf size) .load (fetched s c).2 = (.error e, s') →
    Does (.ld c gt ga off size sgn upd) s fun t =>
      enteredFor s t c k e.code e.detail e.upper e.eaddr ∧ Touches [.freeCtr, .cores] s t) ∧
  (checkAccess c (vaOf s c ga off upd) (sizeOf size) .store (fetched s c).2 = (.error e, s') →
    Does (.st c gt ga off size upd) s fun t =>
      enteredFor s t c k e.code e.detail e.upper e.eaddr ∧ Touches [.freeCtr, .cores] s t)

/-- A load from the own local memory, of any alignment, that no buffered store overlaps (R216, R217, R239, R243). -/
def loadLocal : Prop := ∀ (c : Fin 17) (gt ga : Fin 32) (off : BitVec 12) (size : AccessSize) (sgn upd : Bool)
    (o : Nat) (s : State), canRun s c .plain → s.translating c = false →
  let n := sizeOf size
  let a := localKey c o
  (vaOf s c ga off upd).toNat = 0x10000000 + o → o + n ≤ localSize c →
  s.readsPoison a n = false → (∀ e ∈ (s.core c).sb, e.overlaps a n = false) →
  Does (.ld c gt ga off size sgn upd) s fun t =>
    loaded s t c gt (extended n sgn (s.load a n)) upd ga (baseAfter s c ga off) ∧ sameBeside s t c ∧ sameMemory s t c ∧
    Touches [.freeCtr, .cores] s t

/-- A load whose bytes all lie in the newest overlapping entry of the store buffer takes them from it (R242). -/
def loadForward : Prop := ∀ (c : Fin 17) (gt ga : Fin 32) (off : BitVec 12) (size : AccessSize) (sgn upd : Bool)
    (va : Word) (a : Nat) (ty : MemType) (older newer : List StoreEntry) (e : StoreEntry) (s s' : State),
  canRun s c .plain →
  let n := sizeOf size
  ¬ twofold (fetched s c).2 c (vaOf s c ga off upd) →
  checkAccess c (vaOf s c ga off upd) n .load (fetched s c).2 = (.ok [(va, a, n, ty)], s') → inDevice a = false →
  s'.partLost c a = false → (s.core c).sb = older ++ e :: newer → (∀ x ∈ newer, x.overlaps a n = false) →
  (∀ i < n, e.holds (a + i) = true) →
  Does (.ld c gt ga off size sgn upd) s fun t =>
    loaded s t c gt (extended n sgn (ofLeBytes ((List.range n).map fun i => tabGet 0 (a + i) e.cells))) upd ga
      (baseAfter s c ga off) ∧ sameMemory s t c ∧ Touches [.freeCtr, .cores] s t

/-- Every other core in `t` stands as in `s`, but for a reservation of the granules of `n` bytes at `a` (R218). -/
def othersLose (s t : State) (c a n : Nat) : Prop := ∀ d, d ≠ c → t.core d =
  match (s.core d).resv with
  | some g => if a / 64 ≤ g ∧ g ≤ (a + n - 1) / 64 then { s.core d with resv := none } else s.core d
  | none => s.core d

/-- Memory in `t` is that of `s` with `bs` at `a`. -/
def wroteBytes (s t : State) (a : Nat) (bs : List Byte) : Prop :=
  ∀ x, t.byte x = if a ≤ x ∧ x < a + bs.length then bs.getD (x - a) 0 else s.byte x

/-- A write of `n` bytes at `a` meets neither the boot ROM nor the plate's store and mirror once they are laid out
(R22, R93). -/
def mayWrite (s : State) (a n : Nat) : Prop :=
  (a + n ≤ tsBase ∨ tsBase + 0x20000 ≤ a) ∧
  (s.bit Reg.PLATE_CTRL 28 = true →
    (a + n ≤ s.storeBase ∨ s.storeBase + 0x2400000 ≤ a) ∧ (a + n ≤ s.mirrorBase ∨ s.mirrorBase + 0x2400000 ≤ a))

/-- Core `c` has written `bs` at `a`: memory holds them, another core's reservation there is gone, and the dictionary's
requests stand unless one of the core's own is under way (R218, R405). -/
def coreWrote (s t : State) (c a : Nat) (bs : List Byte) : Prop :=
  wroteBytes s t a bs ∧ othersLose s t c a bs.length ∧ (s.bit (Reg.TSM_DICT_STATUS c) 31 = false → t.dict = s.dict)

/-- A load that overlaps a buffered store without lying in it has that entry and all older ones drained (R242). -/
def loadOverlap : Prop := ∀ (c : Fin 17) (gt ga : Fin 32) (off : BitVec 12) (size : AccessSize) (sgn upd : Bool)
    (o b : Nat) (e : StoreEntry) (bs : List Byte) (s : State), canRun s c .plain → s.translating c = false →
  let n := sizeOf size
  let a := localKey c o
  (vaOf s c ga off upd).toNat = 0x10000000 + o → o % 8 + n ≤ 8 → o + n ≤ localSize c →
  (s.core c).sb = [e] → e.cells = cellsFrom (localKey c b) bs → e.mtype = .uncached → bs ≠ [] →
  b + bs.length ≤ localSize c → e.overlaps a n = true → e.covers a n = false → s.poison = [] →
  mayWrite s (localKey c b) bs.length →
  Does (.ld c gt ga off size sgn upd) s fun t =>
    loaded s t c gt (extended n sgn (t.load a n)) upd ga (baseAfter s c ga off) ∧ (t.core c).sb = [] ∧
    coreWrote s t c (localKey c b) bs ∧ Touches [.freeCtr, .cores, .dict, .mem, .poison] s t

/-- A load that must wait, for the device region or for L2, holds the pipe: nothing else has changed (R239, R244). -/
def loadHolds : Prop := ∀ (c : Fin 17) (gt ga : Fin 32) (off : BitVec 12) (size : AccessSize) (sgn upd : Bool)
    (va : Word) (a : Nat) (ty : MemType) (s s' : State), canRun s c .plain → (s.core c).sb = [] →
  let n := sizeOf size
  checkAccess c (vaOf s c ga off upd) n .load (fetched s c).2 = (.ok [(va, a, n, ty)], s') →
  inDevice a = true ∨ (ty = .cached ∧ s'.l1Line c a = none) ∨
    (ty ≠ .cached ∧ (a < 0x20000000 ∨ 0x21000000 ≤ a) ∧ a < tsBase) →
  exec (.ld c gt ga off size sgn upd) s = .next (s'.setCore c { s'.core c with
    held := some { dest := gt, size := n, signed := sgn, parts := [(a, n, ty)], va := vaOf s c ga off upd
                   update := if upd = true ∧ gt ≠ ga then some (ga.val, baseAfter s c ga off) else none } })

/-- Core `c` when its held load is taken up. -/
def unheld (s : State) (c : Nat) : State := s.setCore c { s.core c with held := none }

/-- The held load's data arrives: from uncached memory; from a register, with the read's effect; or as a bus error where
the bank or DRAM has gone. Without a held load, or on a core that does not run, nothing happens (R239, R244, R253). -/
def loadDataReturn : Prop := ∀ (c : Fin 17) (h : HeldLoad) (a n : Nat) (s : State),
  ((s.core c).held = none ∨ s.coreRuns c = false → Idle (.loadDataReturn c) s) ∧
  (s.coreRuns c = true → (s.core c).held = some h → h.parts = [(a, n, .uncached)] → h.size = n →
    0 < n → h.update = none → inDevice a = false → s.partLost c a = false → (∀ e ∈ (s.core c).sb, e.overlaps a n = false) →
    s.readsPoison a n = false → Does (.loadDataReturn c) s fun t =>
      loaded (unheld s c) t c h.dest (extended n h.signed (s.load a n)) false 0 0 ∧ (t.core c).held = none ∧
      (t.core c).resv = (if h.reserve then some (a / 64) else (s.core c).resv) ∧ Touches [.freeCtr, .cores] s t) ∧
  (s.coreRuns c = true → (s.core c).held = some h → h.parts = [(a, 4, .device)] → h.size = 4 → h.update = none →
    h.reserve = false → inDevice a = true →
    let r := busRead (coreRequester c) (a - 0x80000000) (unheld s c)
    r.2.cores = (unheld s c).cores →
    Does (.loadDataReturn c) s fun t => loaded (unheld s c) t c h.dest r.1 false 0 0 ∧ (t.core c).held = none ∧
      Touches [.cores] r.2 t) ∧
  (∀ k, s.coreRuns c = true → (s.core c).held = some h → h.parts = [(a, n, .uncached)] → s.partLost c a = true →
    frameRoom s c k → Does (.loadDataReturn c) s fun t => enteredFor (unheld s c) t c k 6 0 false h.va)

/-- A store enters the buffer; a cached one to the 8 bytes of the newest entry merges; into a full buffer it goes when the
oldest entry has drained (R216, R241). -/
def store : Prop := ∀ (c : Fin 17) (gt ga : Fin 32) (off : BitVec 12) (size : AccessSize) (upd : Bool)
    (va : Word) (a : Nat) (ty : MemType) (s s' : State), canRun s c .plain →
  let n := sizeOf size
  let bs := leBytes n (s.greg c gt).toNat
  let sb := (s.core c).sb
  let new : StoreEntry := { cells := cellsFrom a bs, mtype := ty, va := va }
  let written (t : State) : Prop := gains s t c (if upd then ga.val else 0) (baseAfter s c ga off) ∧ onward s t c ∧
    (t.core c).l1d = (s.core c).l1d ∧ (t.core c).resv = (s.core c).resv
  ¬ twofold (fetched s c).2 c (vaOf s c ga off upd) →
  checkAccess c (vaOf s c ga off upd) n .store (fetched s c).2 = (.ok [(va, a, n, ty)], s') →
  ((∀ e, sb.getLast? = some e → e.merges a n ty = false) → sb.length < 8 → Does (.st c gt ga off size upd) s fun t =>
    written t ∧ (t.core c).sb = sb ++ [new] ∧ sameBeside s t c ∧ Touches [.freeCtr, .cores] s t) ∧
  (∀ older e, sb = older ++ [e] → e.mtype = .cached → ty = .cached → (∀ x ∈ e.cells, x.1 / 8 = a / 8) →
    (a + n - 1) / 8 = a / 8 → Does (.st c gt ga off size upd) s fun t =>
      written t ∧ (∃ e', (t.core c).sb = older ++ [e'] ∧ e'.mtype = .cached ∧ e'.va = e.va ∧
        ∀ x, tabGet 0 x e'.cells = if a ≤ x ∧ x < a + n then bs.getD (x - a) 0 else tabGet 0 x e.cells) ∧
      sameBeside s t c ∧ Touches [.freeCtr, .cores] s t) ∧
  (∀ oldest b os newer, sb = oldest :: newer → sb.length = 8 → oldest.mtype = .uncached →
    oldest.cells = cellsFrom b os → os ≠ [] → 0x20000000 ≤ b → b + os.length ≤ 0x21000000 → ty ≠ .cached →
    mayWrite s b os.length →
    Does (.st c gt ga off size upd) s fun t => written t ∧ (t.core c).sb = newer ++ [new] ∧ coreWrote s t c b os ∧
      Touches [.freeCtr, .cores, .dict, .mem, .poison] s t)

/-- The oldest entry drains, on a halted core too: into a TCM, into its line of L1, into its register; a scratch bank
that does not accept it, and DRAM that does not serve, is a bus error still to return (R18, R241, R244, R253, R256). -/
def storeBufferDrain : Prop := ∀ (c : Fin 17) (e : StoreEntry) (r : List StoreEntry) (a : Nat) (bs : List Byte) (s : State),
  let run := s.coreRuns c = true ∨ (s.core c).halted = true
  let popped := s.setCore c { s.core c with sb := r }
  (¬ run ∨ (s.core c).sb = [] → Idle (.storeBufferDrain c) s) ∧
  (run → (s.core c).sb = e :: r → e.cells = cellsFrom a bs → bs ≠ [] → e.mtype = .uncached →
    0x20000000 ≤ a → a + bs.length ≤ 0x21000000 → mayWrite s a bs.length → Does (.storeBufferDrain c) s fun t =>
      t.core c = { s.core c with sb := r } ∧ coreWrote s t c a bs ∧ Touches [.cores, .dict, .mem, .poison] s t) ∧
  (∀ l, run → (s.core c).sb = e :: r → e.cells = cellsFrom a bs → bs ≠ [] → a % 64 + bs.length ≤ 64 → e.mtype = .cached →
    0x0800000000 ≤ a → a < 0x1000000000 → s.dramOn → s.l1Line c a = some l → l.data.length = 64 →
    Does (.storeBufferDrain c) s fun t => (t.core c).sb = r ∧
      (∃ l', t.l1Line c a = some l' ∧ l'.dirty = true ∧
        ∀ i < 64, l'.data.getD i 0 = if a % 64 ≤ i ∧ i < a % 64 + bs.length then bs.getD (i - a % 64) 0
          else l.data.getD i 0) ∧
      (∀ b, b / 64 ≠ a / 64 → t.l1Line c b = s.l1Line c b) ∧ (∀ d, d ≠ c → t.core d = s.core d) ∧
      Touches [.cores] s t) ∧
  (run → (s.core c).sb = e :: r → e.cells = cellsFrom a bs → bs.length = 4 → inDevice a = true →
    exec (.storeBufferDrain c) s = .next (busWrite (some (coreRequester c)) (a - 0x80000000)
      (BitVec.ofNat 32 (ofLeBytes bs)) popped)) ∧
  (run → (s.core c).sb = e :: r → e.cells = cellsFrom a bs → bs ≠ [] → e.mtype = .uncached →
    0x40000000 ≤ a → a < 0x41000000 → s.bankAccepts ((a - 0x40000000) / 0x80000) c = false →
    exec (.storeBufferDrain c) s = .next (s.setCore c
      { s.core c with sb := r, busErrors := (s.core c).busErrors ++ [e.va] })) ∧
  (run → (s.core c).sb = e :: r → e.cells = cellsFrom a bs → bs ≠ [] → 0x0800000000 ≤ a → a < 0x1000000000 → ¬ s.dramOn →
    exec (.storeBufferDrain c) s = .next (s.setCore c
      { s.core c with sb := r, busErrors := (s.core c).busErrors ++ [e.va] }))

/-! ### Reservations, cache operations and barriers (R218, R219) -/

/-- LLW in the own local memory loads the word and reserves its granule; elsewhere it holds the pipe with the earlier
reservation gone (R218). -/
def llw : Prop := ∀ (c : Fin 17) (gd ga : Fin 32) (s : State), canRun s c .plain → s.translating c = false →
  (s.core c).sb = [] → (s.greg c ga).toNat % 4 = 0 →
  (∀ o, (s.greg c ga).toNat = 0x10000000 + o → o + 4 ≤ localSize c → s.readsPoison (localKey c o) 4 = false →
    Does (.llw c gd ga) s fun t => loaded s t c gd (s.word (localKey c o)) false 0 0 ∧
      (t.core c).resv = some (localKey c o / 64) ∧ sameBeside s t c ∧ Touches [.freeCtr, .cores] s t) ∧
  (∀ b, 0x40000000 ≤ (s.greg c ga).toNat → (s.greg c ga).toNat < 0x41000000 →
    b = ((s.greg c ga).toNat - 0x40000000) / 0x80000 → s.bankAccepts b c = true → Does (.llw c gd ga) s fun t =>
      (t.core c).resv = none ∧ (t.core c).pc = (s.core c).pc ∧ (∀ r, t.greg c r = s.greg c r) ∧
      (t.core c).held = some { dest := gd, size := 4, signed := false, parts := [((s.greg c ga).toNat, 4, .uncached)]
                               va := s.greg c ga, update := none, reserve := true } ∧ Touches [.freeCtr, .cores] s t)

/-- SCW stores and answers 1 where the reservation is held, and else answers 0; either way the reservation is gone
(R218). -/
def scw : Prop := ∀ (c : Fin 17) (gd ga gb : Fin 32) (o : Nat) (s : State), canRun s c .plain →
  s.translating c = false → (∀ e ∈ (s.core c).sb, e.overlaps (localKey c o) 4 = false) →
  (s.greg c ga).toNat = 0x10000000 + o → o % 4 = 0 → o + 4 ≤ localSize c →
  let a := localKey c o
  let rest (t : State) : Prop := onward s t c ∧ (t.core c).resv = none ∧ (t.core c).sb = (s.core c).sb ∧
    (t.core c).l1d = (s.core c).l1d
  ((s.core c).resv ≠ none → mayWrite s a 4 → Does (.scw c gd ga gb) s fun t => gains s t c gd 1 ∧ rest t ∧
    coreWrote s t c a (leBytes 4 (s.greg c gb).toNat) ∧ Touches [.freeCtr, .cores, .dict, .mem, .poison] s t) ∧
  ((s.core c).resv = none → Does (.scw c gd ga gb) s fun t => gains s t c gd 0 ∧ rest t ∧ sameBeside s t c ∧
    Touches [.freeCtr, .cores] s t)

/-- LLW and SCW at an address that is not word-aligned raise the alignment fault, in the device region a bus error
(R218). -/
def reservedFaults : Prop := ∀ (c : Fin 17) (gd ga gb : Fin 32) (k : Nat) (s : State), canRun s c .plain →
  frameRoom s c k →
  let va := s.greg c ga
  let faults (code : Nat) : Prop :=
    (Does (.llw c gd ga) s fun t => enteredFor s t c k code 0 false va ∧ Touches [.freeCtr, .cores] s t) ∧
    (Does (.scw c gd ga gb) s fun t => enteredFor s t c k code 0 false va ∧ Touches [.freeCtr, .cores] s t)
  (va.toNat % 4 ≠ 0 → faults 5) ∧
  (va.toNat % 4 = 0 → 0x80000000 ≤ va.toNat → va.toNat < 0x81400000 → faults 6)

/-- The cache operations act on the line of an address whose check let it through: clean writes a dirty line to memory,
invalidate drops it unwritten, clean and invalidate does both, and each leaves every other line (R219). -/
def cacheOps : Prop := ∀ (c : Fin 17) (ga : Fin 32) (off : BitVec 12) (va : Word) (a : Nat) (ty : MemType) (s s' : State),
  canRun s c .plain → (s.core c).sb = [] → ¬ twofold (fetched s c).2 c (baseAfter s c ga off) →
  checkAccess c (baseAfter s c ga off) 1 .load (fetched s c).2 = (.ok [(va, a, 1, ty)], s') →
  let rest (t : State) : Prop := gains s t c 0 0 ∧ onward s t c ∧ (t.core c).sb = [] ∧
    ∀ b, b / 64 ≠ a / 64 → t.l1Line c b = s.l1Line c b
  let onlyCore (t : State) : Prop := Touches [.freeCtr, .cores] s t ∧ ∀ d, d ≠ c → t.core d = s.core d
  (∀ l, s.l1Line c a = some l → l.dirty = true → l.bad = 0 → l.data.length = 64 → mayWrite s (a / 64 * 64) 64 →
    (Does (.cacheClean c ga off) s fun t => rest t ∧ t.l1Line c a = some { l with dirty := false } ∧
      coreWrote s t c (a / 64 * 64) l.data ∧ Touches [.freeCtr, .cores, .dict, .mem, .poison] s t) ∧
    (Does (.cacheCleanInvalidate c ga off) s fun t => rest t ∧ t.l1Line c a = none ∧
      coreWrote s t c (a / 64 * 64) l.data ∧ Touches [.freeCtr, .cores, .dict, .mem, .poison] s t)) ∧
  (∀ l, s.l1Line c a = some l → l.dirty = false →
    (Does (.cacheClean c ga off) s fun t => rest t ∧ t.l1Line c a = some l ∧ onlyCore t) ∧
    (Does (.cacheCleanInvalidate c ga off) s fun t => rest t ∧ t.l1Line c a = none ∧ onlyCore t)) ∧
  (s.l1Line c a = none →
    (Does (.cacheClean c ga off) s fun t => rest t ∧ (t.core c).l1d = (s.core c).l1d ∧ onlyCore t) ∧
    (Does (.cacheCleanInvalidate c ga off) s fun t => rest t ∧ t.l1Line c a = none ∧ onlyCore t)) ∧
  (s.supervisor c = true → Does (.cacheInvalidate c ga off) s fun t => rest t ∧ t.l1Line c a = none ∧ onlyCore t) ∧
  (Does (.cacheInvalidateI c ga off) s fun t => gains s t c 0 0 ∧ onward s t c ∧ sameMemory s t c ∧
    (t.core c).l1i = (s.core c).l1i.filter (fun x => decide (x ≠ a / 64 * 64)) ∧ onlyCore t) ∧
  (ty = .cached → s'.readsPoison (a / 64 * 64) 64 = false →
    (((s.core c).l1d.filter fun l => decide (l.addr / 64 % 128 = a / 64 % 128)).length < 4 → s.l1Line c a = none →
      Does (.cachePrefetch c ga off) s fun t => rest t ∧
        t.l1Line c a = some { addr := a / 64 * 64, data := s.bytes (a / 64 * 64) 64 } ∧ onlyCore t) ∧
    (s.l1Line c a ≠ none → Does (.cachePrefetch c ga off) s fun t => rest t ∧ (t.core c).l1d = (s.core c).l1d ∧
      onlyCore t)) ∧
  (ty ≠ .cached → Does (.cachePrefetch c ga off) s fun t => rest t ∧ (t.core c).l1d = (s.core c).l1d ∧ onlyCore t)

/-- A cache operation whose address faults raises that exception; a prefetch raises none (R219, R243). -/
def cacheFaults : Prop := ∀ (c : Fin 17) (ga : Fin 32) (off : BitVec 12) (k : Nat) (e : Exc) (s s' : State),
  canRun s c .plain →
  checkAccess c (baseAfter s c ga off) 1 .load (fetched s c).2 = (.error e, s') →
  let faults (i : Instr) : Prop := Does i s fun t =>
    enteredFor s t c k e.code e.detail e.upper e.eaddr ∧ Touches [.freeCtr, .cores] s t
  (frameRoom s c k → faults (.cacheClean c ga off) ∧ faults (.cacheCleanInvalidate c ga off) ∧
    faults (.cacheInvalidateI c ga off) ∧ (s.supervisor c = true → faults (.cacheInvalidate c ga off))) ∧
  (Does (.cachePrefetch c ga off) s fun t => gains s t c 0 0 ∧ onward s t c ∧ sameMemory s t c ∧
    Touches [.freeCtr, .cores] s t)

/-- FENCE leaves no store in the buffer; SYNC leaves no dirty line besides, and what the lines held stands in memory
(R219). -/
def barriers : Prop := ∀ (c : Fin 17) (s : State), canRun s c .plain →
  (∀ e ∈ (s.core c).sb, ∀ x ∈ e.cells, inDevice x.1 = false) →
  (Does (.fence c) s fun t => gains s t c 0 0 ∧ onward s t c ∧ (t.core c).sb = [] ∧ (t.core c).resv = (s.core c).resv) ∧
  ((s.core c).sb = [] → Does (.fence c) s fun t => gained s t c 0 0) ∧
  (∀ e a bs, (s.core c).sb = [e] → e.mtype = .uncached → e.cells = cellsFrom a bs → 0x20000000 ≤ a →
    a + bs.length ≤ 0x21000000 → Does (.fence c) s fun t => wroteBytes s t a bs) ∧
  ((∀ l ∈ (s.core c).l1d, l.addr % 64 = 0) → Does (.sync c) s fun t => gains s t c 0 0 ∧ onward s t c ∧
    (t.core c).sb = [] ∧ (∀ l ∈ (t.core c).l1d, l.dirty = false) ∧
    ((s.core c).sb = [] → (∀ l ∈ (s.core c).l1d, l.data.length = 64 ∧ l.bad = 0 ∧ inBootRom l.addr = false ∧
        ∀ m ∈ (s.core c).l1d, m.addr = l.addr → m = l) →
      (∀ l ∈ (s.core c).l1d, l.dirty = true → ∀ i < 64, t.byte (l.addr + i) = l.data.getD i 0) ∧
      (∀ x, (∀ l ∈ (s.core c).l1d, l.dirty = true → x / 64 * 64 ≠ l.addr) → t.byte x = s.byte x)))

/-! ### XFER and CRCB (R227 to R229) -/

/-- The byte at `x` that core `c` sees: from the newest store in its buffer, else from memory. -/
def seen (s : State) (c x : Nat) : Byte :=
  match ((s.core c).sb.filter fun e => e.holds x).getLast? with
  | some e => tabGet 0 x e.cells
  | none => s.byte x

/-- After one unit of a long instruction: where the bytes left are none or a multiple of 4,096 it has completed, else it
is still the present instruction. -/
def unitDone (s t : State) (c : Nat) (left : Word) : Prop :=
  (left.toNat % 4096 = 0 → onward s t c) ∧
  (left.toNat % 4096 ≠ 0 → goesTo t c (s.core c).pc (s.core c).npc (s.core c).slot ∧
    (t.core c).shadow = (s.core c).shadow ∧ ∀ n, t.cr c n = s.cr c n)

/-- The bytes of a unit at `a` with `left` bytes to go: to the next 16-byte boundary, and not past a multiple of 4,096
bytes left, where an execution ends (R228; log entry 34). -/
def unitOf (a left : Word) : Nat :=
  min (min left.toNat (16 - a.toNat % 16)) (if left.toNat % 4096 = 0 then 4096 else left.toNat % 4096)

/-- XFER with operands in the own local memory copies up to the destination's next 16-byte boundary, as if byte by byte
in ascending order, and moves its registers on; with nothing left it completes (R227, R228). -/
def xfer : Prop := ∀ (c : Fin 17) (gd ga gb : Fin 32) (o p : Nat) (s : State), canRun s c .plain →
  distinct3 gd ga gb = true →
  (s.greg c gb = 0 → Does (.xfer c gd ga gb) s fun t => gained s t c 0 0) ∧
  (s.greg c gb ≠ 0 → s.translating c = false → (s.core c).sb = [] → s.poison = [] →
    (s.greg c ga).toNat = 0x10000000 + o → (s.greg c gd).toNat = 0x10000000 + p →
    let n := unitOf (s.greg c gd) (s.greg c gb)
    let left := s.greg c gb - BitVec.ofNat 32 n
    o + n ≤ localSize c → p + n ≤ localSize c → Does (.xfer c gd ga gb) s fun t =>
      (∀ i < n, seen t c (localKey c (p + i)) =
        if o < p ∧ p ≤ o + i then seen t c (localKey c (o + i)) else s.byte (localKey c (o + i))) ∧
      (∀ x, (∀ i < n, x ≠ localKey c (p + i)) → seen t c x = s.byte x) ∧
      t.greg c gd = s.greg c gd + BitVec.ofNat 32 n ∧ t.greg c ga = s.greg c ga + BitVec.ofNat 32 n ∧
      t.greg c gb = left ∧
      (∀ r, r ∉ [gd.val, ga.val, gb.val] →
        t.greg c r = if left.toNat % 4096 = 0 then settled s c r else s.greg c r) ∧
      unitDone s t c left ∧ sameBeside s t c ∧ Touches [.freeCtr, .cores] s t)

/-- CRCB takes the bytes up to the source's next 16-byte boundary into the check value of gd; a configuration that is not
valid leaves gd open (R227 to R229). -/
def crcb : Prop := ∀ (c : Fin 17) (gd ga gb : Fin 32) (o : Nat) (s : State), canRun s c .plain →
  distinct3 gd ga gb = true →
  (s.greg c gb = 0 → Does (.crcb c gd ga gb) s fun t => gained s t c 0 0) ∧
  (s.greg c gb ≠ 0 → s.translating c = false → (s.core c).sb = [] → s.poison = [] →
    (s.greg c ga).toNat = 0x10000000 + o →
    let n := unitOf (s.greg c ga) (s.greg c gb)
    let left := s.greg c gb - BitVec.ofNat 32 n
    let cfg := s.cr c crCRCCFG
    let w := cfg.toNat % 64
    let poly := (s.cr c crCRCPOLY).toNat % 2 ^ w
    let valid := 3 ≤ w ∧ w ≤ 32 ∧ ∀ i < 32, 6 ≤ i → i ≠ 8 → cfg.getLsbD i = false
    o + n ≤ localSize c → Does (.crcb c gd ga gb) s fun t =>
      (valid → t.greg c gd = BitVec.ofNat 32
        ((s.bytes (localKey c o) n).foldl (crcbByte w (cfg.getLsbD 8) poly) ((s.greg c gd).toNat % 2 ^ w) % 2 ^ w)) ∧
      t.greg c ga = s.greg c ga + BitVec.ofNat 32 n ∧ t.greg c gb = left ∧
      (∀ r, r ∉ [gd.val, ga.val, gb.val] →
        t.greg c r = if left.toNat % 4096 = 0 then settled s c r else s.greg c r) ∧
      unitDone s t c left ∧ sameBeside s t c ∧ sameMemory s t c ∧ Touches [.freeCtr, .cores] s t)

/-- The long instructions in the device region, or with fields that are not distinct (R227, R228). -/
def longFaults : Prop := ∀ (c : Fin 17) (gd ga gb : Fin 32) (k : Nat) (s : State), canRun s c .plain → frameRoom s c k →
  let faults (i : Instr) (code : Nat) (ea : Word) : Prop := Does i s fun t =>
    enteredFor s t c k code 0 false ea ∧ Touches [.freeCtr, .cores] s t
  (distinct3 gd ga gb = false → faults (.xfer c gd ga gb) 7 0 ∧ faults (.crcb c gd ga gb) 7 0) ∧
  (distinct3 gd ga gb = true → s.greg c gb ≠ 0 → 0x80000000 ≤ (s.greg c ga).toNat → (s.greg c ga).toNat < 0x81000000 →
    faults (.xfer c gd ga gb) 6 (s.greg c ga) ∧ faults (.crcb c gd ga gb) 6 (s.greg c ga))

/-! ### Coprocessors (R87, R89, R147, R230 to R232) -/

/-- The accumulator as a signed number (R231). -/
def accOf (s : State) (c : Nat) : Int := (s.cr c crMACC_HI ++ s.cr c crMACC_LO).toInt

/-- A number cut to the range of `w` bits, signed. -/
def cut (w : Nat) (z : Int) : Int := max (-(2 ^ (w - 1))) (min (2 ^ (w - 1) - 1) z)

/-- The saturating instructions: MACS and MACZ leave the accumulator, the others a 32-bit result, cut to its range with
CP0_FLAGS.sat set where it was; MACR and MULQ round half up at bit 30 (R231, R232). -/
def saturating : Prop := ∀ (c : Fin 17) (gd ga gb : Fin 32) (s : State), canRun s c .plain → c.val < 16 → quiet s c →
  let x := (s.greg c ga).toInt
  let y := (s.greg c gb).toInt
  let flags (t : State) (z : Int) (w : Nat) : Prop := t.cr c crCP0_FLAGS = if cut w z = z then s.cr c crCP0_FLAGS else 1
  let result (i : Instr) (z : Int) : Prop := Does i s fun t => copGained s t c gd (BitVec.ofInt 32 (cut 32 z)) ∧
    flags t z 32 ∧ accOf t c = accOf s c
  (Does (.macs c ga gb) s fun t => copGained s t c 0 0 ∧ accOf t c = cut 64 (accOf s c + x * y) ∧
    flags t (accOf s c + x * y) 64) ∧
  (Does (.macz c ga gb) s fun t => copGained s t c 0 0 ∧ accOf t c = x * y ∧ t.cr c crCP0_FLAGS = s.cr c crCP0_FLAGS) ∧
  result (.macr c gd) ((accOf s c + 2 ^ 30) / 2 ^ 31) ∧ result (.mulq c gd ga gb) ((x * y + 2 ^ 30) / 2 ^ 31) ∧
  result (.adds c gd ga gb) (x + y) ∧ result (.subs c gd ga gb) (x - y)

/-- `v` is a number of 32 bits within four units of the real number that is `z`, or lies between `z` and `z + 1`. -/
def near (z : Int) (v : Word) : Prop := ∃ e : Int, -3 ≤ e ∧ e ≤ 4 ∧ v = BitVec.ofInt 32 (cut 32 (z + e))

/-- SINCOS, ANGLE and MAG within the bounds of R232; which value is open (log entry 1). The sine is that of the model's
fixed-point series (log entry 17). -/
def cordic : Prop := ∀ (c : Fin 17) (gd ga gb : Fin 32) (s : State), canRun s c .plain → c.val < 16 → quiet s c →
  let x := (s.greg c ga).toInt
  let y := (s.greg c gb).toInt
  let a := (s.greg c ga).toNat
  (gd.val % 2 = 0 → a % 2 ^ 30 ≠ 0 → Does (.sincos c gd ga) s fun t =>
    (∃ v w, near (sinQ31 a) v ∧ near (sinQ31 (a + 2 ^ 30)) w ∧ (gd ≠ 0 → t.greg c gd = v) ∧ t.greg c (gd.val + 1) = w) ∧
    (∀ r, r ≠ gd → r ≠ gd.val + 1 → t.greg c r = settled s c r) ∧ onward s t c ∧ sameBeside s t c ∧ sameMemory s t c ∧
    Touches [.freeCtr, .cores] s t) ∧
  (x = 0 → y = 0 → Does (.angle c gd ga gb) s fun t => gained s t c gd 0) ∧
  (0 < x → y = 0 → Does (.angle c gd ga gb) s fun t => ∃ e : Int, -1024 ≤ e ∧ e ≤ 1024 ∧
    gained s t c gd (BitVec.ofInt 32 e)) ∧
  (x = 0 → 0 < y → Does (.angle c gd ga gb) s fun t => ∃ e : Int, -1024 ≤ e ∧ e ≤ 1024 ∧
    gained s t c gd (BitVec.ofInt 32 (2 ^ 30 + e))) ∧
  (x ≠ 0 → y ≠ 0 → x ≠ y → x ≠ -y → Does (.angle c gd ga gb) s fun t => ∃ e : Int, -1023 ≤ e ∧ e ≤ 1024 ∧
    gained s t c gd (BitVec.ofInt 32 (angleOf x y + e))) ∧
  (∀ r : Nat, r * r ≤ (x * x + y * y).toNat → (x * x + y * y).toNat < (r + 1) * (r + 1) →
    Does (.mag c gd ga gb) s fun t => ∃ z : Int, r - 4 ≤ z ∧ z ≤ r + 4 ∧
      gained s t c gd (BitVec.ofInt 32 (max 0 (min 0xFFFFFFFF z))))

/-- May core `c` use coprocessors 1 and 2 (R230)? -/
def mayCop (s : State) (c : Nat) : Prop := c < 16 ∧ (s.supervisor c = true ∨ s.copUser c = true)

/-- LPOLL takes the sample that a CORE context has posted, once per core, and waits without one; LPUT without a posted
sample has no effect (R147). -/
def lpoll : Prop := ∀ (c : Fin 17) (gd ga gb : Fin 32) (s : State), canRun s c .plain → mayCop s c →
  let k := (s.greg c ga).toNat
  k < 384 → s.loopOn k → s.loopEnabled k = true → s.loopType k = 4 →
  ((s.ctx k).stage = .posted → c.val ∉ (s.ctx k).taken → Does (.lpoll c gd ga) s fun t =>
    gains s t c gd (s.ctx k).post ∧ onward s t c ∧ sameBeside s t c ∧ sameMemory s t c ∧
    t.ctx k = { s.ctx k with taken := c.val :: (s.ctx k).taken } ∧ otherLoops s t k ∧
    Touches [.freeCtr, .cores, .loops] s t) ∧
  ((s.ctx k).stage ≠ .posted ∨ c.val ∈ (s.ctx k).taken → exec (.lpoll c gd ga) s = .next (fetched s c).2) ∧
  ((s.ctx k).stage ≠ .posted → s.loopMisused k = false → Does (.lput c ga gb) s fun t => gained s t c 0 0)

/-- LPUT sends u[0] through stages 6 to 8: the limits of output 0 (R137, R147), and the update has ended. -/
def lput : Prop := ∀ (c : Fin 17) (ga gb : Fin 32) (s : State), canRun s c .plain → mayCop s c →
  let k := (s.greg c ga).toNat
  k < 384 → s.loopOn k → s.loopEnabled k = true → s.loopType k = 4 → (s.ctx k).stage = .posted →
  s.loopMisused k = false → s.fld (Reg.LOOP_CTL k) 23 22 = 0 → s.fld (Reg.LOOP_CTL k) 13 12 = 0 → fpIsZero (s.coef k (s.ctx k).bank 20) = true →
  let u := fpMin (fpMaxOf (fpOf (s.greg c gb)) (s.coef k (s.ctx k).bank 12)) (s.coef k (s.ctx k).bank 16)
  Does (.lput c ga gb) s fun t => t.reg (Reg.LOOP_OUTV k 0) = u.v ∧ updateEnded s t k ∧
    gains s t c 0 0 ∧ onward s t c ∧ sameBeside s t c ∧ sameMemory s t c ∧ otherLoops s t k ∧
    Touches [.freeCtr, .regs, .comparators, .pairs, .groups, .loops, .cores, .cyc] s t

/-- PINS inserts the 16-byte image in the own local memory into hole gb, PREM removes the entry of handle ga, each by the
plate's own operation, with its answer in gd at once; where the operation queue may be full, PREM completes or is the
present instruction still (R87, R89; log entry 72). -/
def plateInstructions : Prop := ∀ (c : Fin 17) (gd ga gb : Fin 32) (o : Nat) (s : State), canRun s c .plain → mayCop s c →
  let done (t : State) (op : State → Word × State) : Prop :=
    let r := plateRun op (plateAdmit (fetched s c).2).2
    gains s t c gd r.1 ∧ onward s t c ∧ sameMemory s t c ∧ Touches [.cores] r.2 t
  let room := (s.plate.ops.filter fun t => decide (s.now < t + 12)).length < 64
  (room → s.translating c = false → (s.core c).sb = [] → s.poison = [] → (s.greg c ga).toNat = 0x10000000 + o → o % 16 = 0 →
    o + 16 ≤ localSize c →
    let w (i : Nat) : Word := s.word (localKey c (o + 4 * i))
    Does (.pins c gd ga gb) s fun t =>
      done t (plateInsertOp (w 0) (w 1) (w 2) (w 3) (s.greg c gb).toNat)) ∧
  (room → Does (.prem c gd ga) s fun t => done t (plateRemoveOp (s.greg c ga))) ∧
  (¬ room → Does (.prem c gd ga) s fun t => done t (plateRemoveOp (s.greg c ga)) ∨
    (t.core c = (fetched s c).2.core c ∧ Touches [.freeCtr, .cores, .plate] s t)) ∧
  (∀ k, frameRoom s c k → (s.greg c ga).toNat % 16 ≠ 0 → Does (.pins c gd ga gb) s fun t =>
    enteredFor s t c k 5 0 false (s.greg c ga)) ∧
  (∀ k, frameRoom s c k → (s.greg c ga).toNat % 16 = 0 → 0x20000000 + 16 * 0x100000 ≤ (s.greg c ga).toNat →
    Does (.pins c gd ga gb) s fun t => enteredFor s t c k 6 0 false (s.greg c ga))

/-- A coprocessor instruction on the tailstock core is reserved; CP1 and CP2 in user mode without STATUS.cpu are
privileged (R210, R230). -/
def copFaults : Prop := ∀ (c : Fin 17) (gd ga gb : Fin 32) (k : Nat) (s : State), canRun s c .plain → frameRoom s c k →
  let faults (i : Instr) (code : Nat) : Prop := Does i s fun t =>
    enteredFor s t c k code 0 false 0 ∧ Touches [.freeCtr, .cores] s t
  (c.val = 16 → ∀ i ∈ [Instr.macs c ga gb, .macz c ga gb, .macr c gd, .mulq c gd ga gb, .adds c gd ga gb,
    .subs c gd ga gb, .sincos c gd ga, .angle c gd ga gb, .mag c gd ga gb, .lpoll c gd ga, .lput c ga gb,
    .pins c gd ga gb, .prem c gd ga], faults i 7) ∧
  (c.val < 16 → s.supervisor c = false → s.copUser c = false →
    ∀ i ∈ [Instr.lpoll c gd ga, .lput c ga gb, .pins c gd ga gb, .prem c gd ga], faults i 8)

/-! ### Interrupts, late errors, table walks and machine checks (R249, R253, R257 to R261, R266, R433, R434) -/

/-- An interrupt presented to a core that lets interrupts in is latched in front of the present instruction, and its
identifier is frozen, one withdrawn meanwhile as the spurious one; masked, it stays outside (R249, R266, R269, R272). -/
def interruptLatch : Prop := ∀ (c : Fin 17) (k : Nat) (s : State),
  (s.coreRuns c = false ∨ (s.core c).held ≠ none ∨ s.intEnabled c = false ∨ s.interruptPresented c = false →
    Idle (.interruptLatch c) s) ∧
  (s.coreRuns c = true → (s.core c).held = none → s.intEnabled c = true → frameRoom s c k →
    (c.val < 16 → s.interruptPresented c = true → s.presented c = none → Does (.interruptLatch c) s fun t =>
      entered s t c k 1 0 0 false 0 ∧ t.aicCore c = { s.aicCore c with frozen := none } ∧ Touches [.cores, .aic] s t) ∧
    (c.val < 16 → s.interruptPresented c = true → ∀ x, s.presented c = some x →
      Does (.interruptLatch c) s fun t => entered s t c k 1 0 0 false 0 ∧
      t.reg (Reg.AIC_LATCHED c) = claimWord x.1 x.2.1 x.2.2 ∧
      t.aicCore c = { s.aicCore c with frozen := some (claimWord x.1 x.2.1 x.2.2) } ∧
      (∀ d, d ≠ c → t.aicCore d = s.aicCore d) ∧ Touches [.cores, .aic, .regs] s t ∧ Keeps s t [Reg.AIC_LATCHED c]) ∧
    (c.val = 16 → s.tsPresented ≠ none → Does (.interruptLatch c) s fun t => entered s t c k 1 0 0 false 0 ∧
      Touches [.cores] s t))

/-- The oldest bus error of a posted store is taken at the next instruction boundary, with detail 1 and the store's
address (R253). -/
def impreciseBusError : Prop := ∀ (c : Fin 17) (k : Nat) (va : Word) (r : List Word) (s : State),
  ((s.core c).busErrors = [] ∨ s.coreRuns c = false ∨ (s.core c).held ≠ none → Idle (.impreciseBusError c) s) ∧
  ((s.core c).busErrors = va :: r → s.coreRuns c = true → (s.core c).held = none → frameRoom s c k →
    Does (.impreciseBusError c) s fun t => enteredFor s t c k 6 1 false va ∧ (t.core c).busErrors = r ∧
      Touches [.cores] s t)

/-- The oldest machine check: to its core as an exception recorded in MCR_INFO and MCR_ADDR, counted there where one is
recorded already, and to the tailstock where no core has it (R433, R434). -/
def machineCheck : Prop := ∀ (m : MachineCheck) (r : List MachineCheck) (k : Nat) (s : State),
  (s.sys.powerGood = false ∨ s.checks = [] → Idle .machineCheck s) ∧
  (s.sys.powerGood = true → s.checks = m :: r → m.owner = none → Does .machineCheck s fun t =>
    t.checks = r ∧ t.bit (Reg.TS_IRQ_PEND 0) 29 = true ∧ t.cores = s.cores) ∧
  (∀ c, s.sys.powerGood = true → s.checks = m :: r → m.owner = some c → c < 16 → s.coreRuns c = true →
    (s.core c).held = none →
    (s.bit (Reg.MCR_INFO c) 31 = false → frameRoom s c k → Does .machineCheck s fun t =>
      t.checks = r ∧ entered s t c k 0x0E 0 m.detail false 0 ∧
      t.reg (Reg.MCR_INFO c) = BitVec.ofNat 32 (2 ^ 31 + (if m.precise then 2 ^ 30 else 0) + m.detail % 256 * 256) ∧
      t.reg (Reg.MCR_ADDR_LO c) = BitVec.ofNat 32 m.addr ∧
      t.reg (Reg.MCR_ADDR_HI c) = BitVec.ofNat 32 (m.addr / 2 ^ 32 % 256)) ∧
    (s.bit (Reg.MCR_INFO c) 31 = true → Does .machineCheck s fun t => t.checks = r ∧ t.cores = s.cores ∧
      t.fld (Reg.MCR_INFO c) 23 16 = min 255 (s.fld (Reg.MCR_INFO c) 23 16 + 1)))

/-- A walk for an address without a TLB entry reads the first-level descriptor of va[31:22] in DRAM, and for a pointer the
second of va[21:12]; a leaf that grants the access enters the TLB of less than 64 entries. With an entry, or without
translation, there is no walk (R257 to R260). -/
def tableWalk : Prop := ∀ (c : Fin 16) (va : Word) (w : WalkKind) (s : State), s.coreReady c = true →
  let user := s.supervisor c = false
  let a1 := (s.cr c crPTBASE).toNat % 2 ^ 27 * 2 ^ 13 + va.toNat / 2 ^ 22 * 8
  let d1 := s.load a1 8
  let a2 := d1 / 2 ^ 13 % 2 ^ 27 * 2 ^ 13 + va.toNat / 2 ^ 12 % 2 ^ 10 * 8
  let d2 := s.load a2 8
  let reads (a : Nat) : Prop := s.walkReads a = true ∧ s.readsPoison a 8 = false
  let grants (d : Nat) : Prop := (user → d.testBit 5 = true) ∧ (match w with
    | .fetch => d.testBit 4 = true ∧ d / 128 % 4 ≠ 2
    | .load => d.testBit 2 = true
    | .store => d.testBit 3 = true)
  let fine (d : Nat) : Prop := d.testBit 0 = true ∧ d.testBit 1 = true ∧ d < 2 ^ 40 ∧ d / 512 % 8 = 0 ∧ d / 128 % 4 ≠ 3
  let filled (e : TlbEntry) : Prop := exec (.tableWalk c va w) s =
    .next (s.setCore c { s.core c with tlb := (s.core c).tlb ++ [e] })
  (s.translating c = false ∨ (∃ e ∈ (s.core c).tlb, tlbMatches (s.asid c) va.toNat e = true) →
    Idle (.tableWalk c va w) s) ∧
  (s.translating c = true → (∀ e ∈ (s.core c).tlb, tlbMatches (s.asid c) va.toNat e = false) →
    (s.core c).tlb.length < 64 → reads a1 →
    (fine d1 → d1 / 2 ^ 12 % 2 ^ 10 = 0 → grants d1 → filled
      { va := va.toNat / 2 ^ 22, section_ := true, asid := s.asid c, desc := BitVec.ofNat 64 d1 }) ∧
    (d1.testBit 0 = true → d1.testBit 1 = false → d1 < 2 ^ 40 → d1 / 512 % 8 = 0 → d1.testBit 12 = false →
      reads a2 → fine d2 → grants d2 → filled
        { va := va.toNat / 2 ^ 12, section_ := false, asid := s.asid c, desc := BitVec.ofNat 64 d2 }))

/-- Translation by the one TLB entry that matches: the address of its leaf and its type, or a permission fault, detail 1.
A walk's faults are: no valid descriptor 0, reserved bits 2, and a bus error, number 16 here, where the table is not in
DRAM that serves or fails detection. Two entries that match leave the core's results open, and nothing else (R18, R24, R247,
R258 to R260, R432). -/
def translation : Prop := ∀ (c : Fin 16) (va : Word) (acc : Access) (s : State), s.translating c = true →
  let user := s.supervisor c = false
  let grants (d : Nat) : Prop := (user → d.testBit 5 = true) ∧ (match acc with
    | .fetch => d.testBit 4 = true ∧ d / 128 % 4 ≠ 2
    | .load => d.testBit 2 = true
    | .store => d.testBit 3 = true)
  (∀ e, (s.core c).tlb.filter (tlbMatches (s.asid c) va.toNat) = [e] →
    (grants e.desc.toNat → translate c va acc s = (.ok
      (if e.section_ then e.desc.toNat / 2 ^ 22 % 2 ^ 18 * 2 ^ 22 + va.toNat % 2 ^ 22
        else e.desc.toNat / 2 ^ 12 % 2 ^ 28 * 2 ^ 12 + va.toNat % 2 ^ 12, descType e.desc), s)) ∧
    (¬ grants e.desc.toNat → translate c va acc s = (.error 1, s))) ∧
  ((s.core c).tlb.filter (tlbMatches (s.asid c) va.toNat) = [] →
    let a1 := (s.cr c crPTBASE).toNat % 2 ^ 27 * 2 ^ 13 + va.toNat / 2 ^ 22 * 8
    let d1 := s.load a1 8
    let reads := s.walkReads a1 = true ∧ s.readsPoison a1 8 = false
    (reads → d1.testBit 0 = false → translate c va acc s = (.error 0, s)) ∧
    (reads → d1.testBit 0 = true → d1 / 512 % 8 ≠ 0 → translate c va acc s = (.error 2, s)) ∧
    (s.walkReads a1 = false → translate c va acc s = (.error walkBus, s)) ∧
    (s.walkReads a1 = true → s.readsPoison a1 8 = true → (translate c va acc s).1 = .error walkBus ∧
      Touches [.cyc, .regs, .checks] s (translate c va acc s).2)) ∧
  (twofold s c va → (∃ pa, (translate c va acc s).1 = .ok (pa, .uncached)) ∧
    sameBeside s (translate c va acc s).2 c ∧ sameMemory s (translate c va acc s).2 c ∧
    Touches [.freeCtr, .cores] s (translate c va acc s).2)

/-- The tailstock core's protection unit: the lowest-numbered enabled region over the address decides; without one, only
supervisor mode may access (R404). -/
def protection : Prop := ∀ (va : Word) (acc : Access) (s : State), s.translating tsCore = true →
  let attr (i : Nat) : Word := s.cr tsCore (0x101 + 2 * i)
  let spans (i : Nat) : Prop := (attr i).getLsbD 0 = true ∧
    (s.cr tsCore (0x100 + 2 * i)).toNat / 4096 ≤ va.toNat / 4096 ∧ va.toNat / 4096 ≤ (attr i).toNat / 4096
  let bit := match acc with | .load => 2 | .store => 3 | .fetch => 4
  ((∀ i < 16, ¬ spans i) → (translate tsCore va acc s).1 =
    if s.supervisor tsCore then .ok (va.toNat, .cached) else .error 1) ∧
  (∀ i < 16, spans i → (∀ j < i, ¬ spans j) → (translate tsCore va acc s).1 =
    if (attr i).getLsbD bit = true ∧ (s.supervisor tsCore = true ∨ (attr i).getLsbD 1 = true) then .ok (va.toNat, .cached)
    else .error 1)


/-! ### spec/11: interrupt delivery -/

/-- The register of a source by its kind, 0 shared, 1 private of core `c` (R274, R276). -/
def aicReg (c kind n : Nat) : Nat := if kind = 1 then Reg.AIC_PRIV c n else Reg.AIC_SRC n

/-- The source register `a` belongs to group `g` (R271, R275). -/
def inGroup (s : State) (a g : Nat) : Prop := s.bit a 15 = true ∧ s.fld a 14 8 = g

/-- Rung, the source at `a` has its latch set, and its group, if it has one that is held, counts it (R264, R271). -/
def rung (s t : State) (a : Nat) : Prop :=
  let g := s.fld a 14 8
  let counts := s.bit a 15 = true ∧ s.bit (Reg.AIC_GRP_STAT g) 31 = true
  t.bit a 29 = true ∧ (∀ i < 32, i ≠ 29 → t.bit a i = s.bit a i) ∧
  (counts → t.fld (Reg.AIC_GRP_STAT g) 7 0 = min 255 (s.fld (Reg.AIC_GRP_STAT g) 7 0 + 1) ∧
    t.bit (Reg.AIC_GRP_STAT g) 31 = true ∧ Keeps s t [a, Reg.AIC_GRP_STAT g]) ∧
  (¬ counts → Keeps s t [a]) ∧ Touches [.regs, .cyc] s t

/-- Doorbells ring a shared source, or a private one of a core (R264, R271, R274). -/
def aicDoorbells : Prop := ∀ (v : Word) (s : State), s.fclkOn →
  (Does (.aicDoorbell v) s fun t => rung s t (Reg.AIC_SRC (fieldOf v 11 0))) ∧
  (Does (.aicPdoorbell v) s fun t => rung s t (Reg.AIC_PRIV (fieldOf v 19 16) (fieldOf v 5 0)))

/-- What makes a source presentable to core `c`: enabled, pending, not active, targeted, its group not held, its level at
the threshold at least and above the top of the active stack (R264, R265, R271). -/
def mayPresent (s : State) (c kind n : Nat) : Prop :=
  let a := aicReg c kind n
  s.bit a 31 = true ∧ s.bit a 28 = false ∧ (s.bit a 29 = true ∨ (kind = 0 ∧ s.sharedLine n = true)) ∧
  (kind = 0 → s.fld a 3 0 = c) ∧ ¬ (s.bit a 15 = true ∧ s.bit (Reg.AIC_GRP_STAT (s.fld a 14 8)) 31 = true) ∧
  s.fld (Reg.AIC_THRESH c) 3 0 ≤ s.fld a 19 16 ∧
  (∀ x, (s.aicCore c).stack.head? = some x → x.1 < s.fld a 19 16)

/-- The best presentable source is presented: the higher level, then private before shared, then the lower number; a core
that is absent, off or halted is presented nothing (R265, R266). -/
def presentedBest : Prop := ∀ (c : Fin 16) (s : State),
  let real (kind n : Nat) : Prop := (kind = 0 ∧ n < 4096) ∨ (kind = 1 ∧ n < 64)
  let level (kind n : Nat) : Nat := s.fld (aicReg c kind n) 19 16
  (s.coreOn c = false ∨ (s.core c).halted = true → s.presented c = none) ∧
  (s.coreOn c = true → (s.core c).halted = false →
    (s.presented c = none → ∀ kind n, real kind n → ¬ mayPresent s c kind n) ∧
    ∀ l kind n, s.presented c = some (l, kind, n) → real kind n ∧ mayPresent s c kind n ∧ l = level kind n ∧
      ∀ k m, real k m → mayPresent s c k m → (k, m) ≠ (kind, n) →
        level k m < l ∨ (level k m = l ∧ (k < kind ∨ (k = kind ∧ n < m))))

/-- A read of AIC_CLAIM by its core or the tailstock consumes the frozen identifier: the latch falls, unless a ring of the
same cycle sets it again, the source is active, its level is on the stack, and its group is held if it has a hold-off.
Without one, or for another requester, the read returns the spurious word and changes nothing (R267, R270, R271). -/
def aicClaim : Prop := ∀ (q : Requester) (c : Fin 16) (s : State), s.fclkOn →
  let mine := q = .tailstock ∨ q = .core c
  ((s.aicCore c).frozen = none ∨ ¬ mine → exec (.aicClaim q c) s = .next (answer q 0x3FFF s)) ∧
  ∀ w, (s.aicCore c).frozen = some w → mine →
    let kind := fieldOf w 13 12
    let n := fieldOf w 11 0
    let a := aicReg c kind n
    let g := s.fld a 14 8
    kind < 2 → (kind = 1 → n < 64) → Does (.aicClaim q c) s fun t =>
      t.answered q = w ∧ t.bit a 29 = bitAt (s.setNow a) 29 ∧ t.bit a 28 = true ∧ (∀ i < 32, i ≠ 28 → i ≠ 29 → t.bit a i = s.bit a i) ∧
      t.aicCore c = { stack := (fieldOf w 19 16, kind, n) :: (s.aicCore c).stack, frozen := none } ∧
      (∀ d, d ≠ c → t.aicCore d = s.aicCore d) ∧ (∀ r, r ≠ reqIdx q → tabGet 0 r t.resp = tabGet 0 r s.resp) ∧
      (s.bit a 15 = true → s.fld (Reg.AIC_GRP g) 15 0 ≠ 0 → t.bit (Reg.AIC_GRP_STAT g) 31 = true ∧
        t.fld (Reg.AIC_GRP_STAT g) 7 0 = s.fld (Reg.AIC_GRP_STAT g) 7 0 ∧ Keeps s t [a, Reg.AIC_GRP_STAT g]) ∧
      (s.bit a 15 = false ∨ s.fld (Reg.AIC_GRP g) 15 0 = 0 → Keeps s t [a]) ∧ Touches [.regs, .aic, .resp] s t

/-- A write of AIC_EOI with the claim word of the top of the stack completes that source, even with another level field;
the spurious word and other requesters' writes do nothing; any other source leaves this core's delivery open, and only
that (R268; log entry 1). -/
def aicEoi : Prop := ∀ (q : Requester) (c : Fin 16) (v : Word) (s : State), s.fclkOn →
  let mine := q = .tailstock ∨ q = .core c
  let kind := fieldOf v 13 12
  let n := fieldOf v 11 0
  (¬ mine ∨ (kind = 3 ∧ n = 0xFFF) → Idle (.aicEoi q c v) s) ∧
  (mine → ∀ l r, (s.aicCore c).stack = (l, kind, n) :: r → ¬ (kind = 3 ∧ n = 0xFFF) → Does (.aicEoi q c v) s fun t =>
    t.aicCore c = { s.aicCore c with stack := r } ∧ t.bit (aicReg c kind n) 28 = false ∧
    (∀ i < 32, i ≠ 28 → t.bit (aicReg c kind n) i = s.bit (aicReg c kind n) i) ∧
    (∀ d, d ≠ c → t.aicCore d = s.aicCore d) ∧ Keeps s t [aicReg c kind n] ∧ Touches [.regs, .aic] s t) ∧
  (mine → ¬ (kind = 3 ∧ n = 0xFFF) → (∀ l r, (s.aicCore c).stack ≠ (l, kind, n) :: r) → Does (.aicEoi q c v) s fun t =>
    (∀ i < 32, i ≠ 28 → i ≠ 29 → t.bit (aicReg c kind n) i = s.bit (aicReg c kind n) i) ∧
    (∀ d, d ≠ c → t.aicCore d = s.aicCore d) ∧ Keeps s t [aicReg c kind n] ∧ Touches [.freeCtr, .regs, .aic] s t)

/-- The end of a hold-off releases the group (R271). -/
def holdoffEnd : Prop := ∀ (g : Fin 128) (s : State), s.fclkOn → Does (.groupHoldoffEnd g) s fun t =>
  t.bit (Reg.AIC_GRP_STAT g) 31 = false ∧ t.fld (Reg.AIC_GRP_STAT g) 7 0 = s.fld (Reg.AIC_GRP_STAT g) 7 0 ∧
  Keeps s t [Reg.AIC_GRP_STAT g] ∧ Touches [.regs] s t

/-- The tailstock's controller: a claim takes the lowest enabled pending source, and until its TS_EOI another claim is
spurious; TS_DOORBELL rings sources 32 to 63 only (R272). That the claim judges at its read is the model's choice. -/
def tailstockController : Prop := ∀ (v : Word) (s : State), s.sys.powerGood = true →
  let ready (k : Nat) : Prop := s.bit (Reg.TS_IRQ_EN (k / 32)) (k % 32) = true ∧ s.bit (Reg.TS_IRQ_PEND (k / 32)) (k % 32) = true
  (s.tsClaimed ≠ none ∨ (∀ k < 64, ¬ ready k) → exec .tsClaim s = .next (answer .tailstock 0xFFF s)) ∧
  (∀ k < 64, s.tsClaimed = none → ready k → (∀ j < k, ¬ ready j) → Does .tsClaim s fun t =>
    t.answered .tailstock = BitVec.ofNat 32 k ∧ t.tsClaimed = some k ∧
    t.bit (Reg.TS_IRQ_PEND (k / 32)) (k % 32) = false ∧
    (∀ j < 64, j ≠ k → t.bit (Reg.TS_IRQ_PEND (j / 32)) (j % 32) = s.bit (Reg.TS_IRQ_PEND (j / 32)) (j % 32)) ∧
    Keeps s t [Reg.TS_IRQ_PEND (k / 32)] ∧ Touches [.regs, .resp, .tsClaimed] s t) ∧
  (fieldOf v 11 0 = 0xFFF → Idle (.tsEoi v) s) ∧
  (fieldOf v 11 0 ≠ 0xFFF → s.tsClaimed = some (fieldOf v 5 0) → exec (.tsEoi v) s = .next { s with tsClaimed := none }) ∧
  (fieldOf v 5 0 < 32 → Idle (.tsDoorbell v) s) ∧
  (32 ≤ fieldOf v 5 0 → Does (.tsDoorbell v) s fun t => t.bit (Reg.TS_IRQ_PEND 1) (fieldOf v 5 0 - 32) = true ∧
    (∀ j < 32, j ≠ fieldOf v 5 0 - 32 → t.bit (Reg.TS_IRQ_PEND 1) j = s.bit (Reg.TS_IRQ_PEND 1) j) ∧
    Keeps s t [Reg.TS_IRQ_PEND 1] ∧ Touches [.regs] s t)


/-! ### spec/12: scratch banks, the IOMMU, DRAM -/

/-- Does requester `q` serve bank `b`: its owner as kind and number, or the tailstock (R280, R300)? -/
def servesBank (s : State) (q : Requester) (b : Nat) : Prop :=
  q = .tailstock ∨ (∃ n, q = .core n ∧ s.bankOwner b = (0, n.val)) ∨
  ((q = .portA ∨ q = .portB) ∧ (s.bankOwner b).1 = 5)

/-- A write of SB_CTL by the owner or the tailstock: the new owner shows, and the old one is served until the change takes
effect; ret = 1 drops the bank to retention, ret = 0 leaves awake to BANK_AWAKE; owner kinds 6 and 7 leave the new owner
open (log entry 1); bank 31 keeps its owner. Anybody else's write is ignored. That the register shows the new owner at once is the model's choice (R279 to R281, R300). -/
def bankWrites : Prop := ∀ (q : Requester) (b : Fin 32) (v : Word) (s : State), s.fclkOn →
  let ctl := Reg.SB_CTL b
  let new := (fieldOf v 10 8, fieldOf v 5 0)
  let writes (i : Instr) (ret : Bool) : Prop :=
    (¬ servesBank s q b → Idle i s) ∧
    (servesBank s q b → b.val < 31 → fieldOf v 10 8 < 6 → Does i s fun t =>
      (t.fld ctl 10 8, t.fld ctl 5 0) = new ∧ t.bankOwner b = s.bankOwner b ∧ t.bit ctl 31 = ret ∧
      t.bit ctl 30 = (if ret then false else s.bit ctl 30) ∧ (∀ c, c ≠ b → t.bankOwner c = s.bankOwner c) ∧
      Keeps s t [ctl] ∧ Touches [.regs, .sbOld] s t) ∧
    (servesBank s q b → b.val < 31 → 6 ≤ fieldOf v 10 8 → Does i s fun t => t.bankOwner b = s.bankOwner b ∧
      t.bit ctl 31 = ret ∧ Keeps s t [ctl] ∧ Touches [.freeCtr, .regs, .sbOld] s t) ∧
    (servesBank s q b → b.val = 31 → Does i s fun t => t.bankOwner 31 = s.bankOwner 31 ∧ t.bit ctl 31 = ret ∧
      t.bit ctl 30 = (if ret then false else s.bit ctl 30) ∧ Keeps s t [ctl] ∧ Touches [.regs] s t)
  writes (.sbCtl q b v) (bitAt v 31) ∧ writes (.bankRetention q b v) true ∧ writes (.bankWake q b v) false

/-- The change of owner takes effect: the bank serves whom SB_CTL names (R280). -/
def ownerEffect : Prop := ∀ (b : Fin 32) (s : State), s.fclkOn → Does (.ownerChangeEffect b) s fun t =>
  t.bankOwner b = (s.fld (Reg.SB_CTL b) 10 8, s.fld (Reg.SB_CTL b) 5 0) ∧
  (∀ c, c ≠ b → t.bankOwner c = s.bankOwner c) ∧ Touches [.sbOld] s t

/-- A woken bank is awake; one put back to retention meanwhile is not (R281). -/
def bankAwakes : Prop := ∀ (b : Fin 32) (s : State), s.fclkOn →
  (s.bit (Reg.SB_CTL b) 31 = false → Does (.bankAwake b) s fun t => t.bit (Reg.SB_CTL b) 30 = true ∧
    (∀ i < 32, i ≠ 30 → t.bit (Reg.SB_CTL b) i = s.bit (Reg.SB_CTL b) i) ∧ Keeps s t [Reg.SB_CTL b] ∧ Touches [.regs] s t) ∧
  (s.bit (Reg.SB_CTL b) 31 = true → Idle (.bankAwake b) s)

/-- The end of 64 ns releases the port's busy pin, and only that (R283). -/
def busyRelease : Prop := ∀ s : State,
  (Does (.busyPinRelease .a) s fun t => t.busyPins = s.busyPins &&& 2 ∧ Touches [.busyPins] s t) ∧
  (Does (.busyPinRelease .b) s fun t => t.busyPins = s.busyPins &&& 1 ∧ Touches [.busyPins] s t)

/-- An invalidation of the IOTLB shows busy until it is done; it takes away everything, a stream's entries, or a stream's
entries for one address, and no others; scope 0b11 is ignored (R289, R301). One still busy is done before the next (log
entry 38). -/
def invalidation : Prop := ∀ (v : Word) (s : State), s.fclkOn →
  let st := s.fld Reg.IOMMU_INV 7 0
  let va := (s.reg Reg.IOMMU_INV_ADDR).toNat
  let hit (x : Nat × TlbEntry) : Prop := match s.fld Reg.IOMMU_INV 30 29 with
    | 0 => True
    | 1 => x.1 = st
    | _ => x.1 = st ∧ x.2.va = (if x.2.section_ then va / 2 ^ 22 else va / 2 ^ 12)
  (fieldOf v 30 29 = 3 → Idle (.iommuInv v) s) ∧
  (fieldOf v 30 29 ≠ 3 → Does (.iommuInv v) s fun t => t.bit Reg.IOMMU_INV 31 = true ∧
    t.fld Reg.IOMMU_INV 30 29 = fieldOf v 30 29 ∧ t.fld Reg.IOMMU_INV 7 0 = fieldOf v 7 0 ∧
    (s.bit Reg.IOMMU_INV 31 = false → t.iotlb = s.iotlb) ∧
    (s.bit Reg.IOMMU_INV 31 = true → ∀ x, x ∈ t.iotlb ↔ x ∈ s.iotlb ∧ ¬ hit x) ∧
    Keeps s t [Reg.IOMMU_INV] ∧ Touches [.regs, .iotlb] s t) ∧
  (s.bit Reg.IOMMU_INV 31 = false → Idle .iommuInvDone s) ∧
  (s.bit Reg.IOMMU_INV 31 = true → Does .iommuInvDone s fun t => t.reg Reg.IOMMU_INV = 0 ∧
    (∀ x, x ∈ t.iotlb ↔ x ∈ s.iotlb ∧ ¬ hit x) ∧ Keeps s t [Reg.IOMMU_INV] ∧ Touches [.regs, .iotlb] s t)

/-- Training: a step without a result is repeated up to three times, then DRAM is not enabled and train_fail is set; a
trained controller reports its size; without the DRAM supply there is no step. That a failure clears MC_CTL.enable is the
model's reading (R19, R285, R299). -/
def training : Prop := ∀ s : State, s.fclkOn → s.bit Reg.MC_STATUS 31 = false →
  (s.sys.ddr = false → ∀ x, Idle (.dramTrainStep x) s) ∧
  (s.sys.ddr = true →
  (exec (.dramTrainStep .done) s = .next { s with trainTries := 0 }) ∧
  (s.trainTries < 3 → exec (.dramTrainStep .noResult) s = .next { s with trainTries := s.trainTries + 1 }) ∧
  (3 ≤ s.trainTries → Does (.dramTrainStep .noResult) s fun t => t.trainTries = 0 ∧ t.bit Reg.MC_STATUS 1 = true ∧
    t.bit Reg.MC_STATUS 31 = false ∧ t.bit Reg.MC_CTL 31 = false ∧ t.sys = s.sys) ∧
  (∀ n : Fin 129, Does (.dramTrainStep (.trained n)) s fun t => t.reg Reg.MC_SIZE = BitVec.ofNat 32 n ∧
    t.bit Reg.MC_STATUS 31 = true ∧ t.dramOn ∧ Keeps s t [Reg.MC_SIZE, Reg.MC_STATUS]))

/-- Once trained, no further step does anything; a valid temperature code sets the refresh, none raises refresh_fault and
four times the rate (R285). -/
def temperature : Prop := ∀ (r : TrainStep) (c : BitVec 3) (s : State), s.fclkOn →
  (s.dramTrained = true → Idle (.dramTrainStep r) s ∧
    exec (.dramTempRead (some c)) s = .next { s with dramTemp := c.toNat, refreshFast := false } ∧
    (Does (.dramTempRead none) s fun t => t.refreshFast = true ∧ t.bit Reg.MC_STATUS 2 = true ∧ t.dramTemp = s.dramTemp ∧
      Touches [.regs, .refreshFast, .cyc] s t ∧ Keeps s t [Reg.MC_STATUS, groupReg s 2304])) ∧
  (s.dramTrained = false → Idle (.dramTempRead (some c)) s ∧ Idle (.dramTempRead none) s)

/-- Self-refresh is entered where sr_en lets it and every reported tolerance covers the exit, and left by an access,
which sets sr_exit (R286, R299). -/
def selfRefresh : Prop := ∀ s : State, s.fclkOn →
  let may := s.dramTrained = true ∧ s.bit Reg.MC_CTL 30 = true ∧ (s.reg Reg.MC_SR_EXIT).toNat ≤ s.latTol
  (may → Does .selfRefreshEntry s fun t => t.bit Reg.MC_STATUS 30 = true ∧ Keeps s t [Reg.MC_STATUS] ∧ Touches [.regs] s t) ∧
  (¬ may → Idle .selfRefreshEntry s) ∧
  (s.bit Reg.MC_STATUS 30 = true → Does .selfRefreshExit s fun t => t.bit Reg.MC_STATUS 30 = false ∧
    t.bit Reg.MC_STATUS 0 = true ∧ Keeps s t [Reg.MC_STATUS, groupReg s 2304] ∧ Touches [.regs, .cyc] s t) ∧
  (s.bit Reg.MC_STATUS 30 = false → Idle .selfRefreshExit s)

/-- A running DMA channel that reports a tolerance bounds MC_LAT_TOL; one that reports none does not run it down
(R286). -/
def tolerance : Prop := ∀ (c : Fin 64) (s : State),
  (s.fld (Reg.DMA_CH_STATUS c) 31 29 = 1 ∨ s.fld (Reg.DMA_CH_STATUS c) 31 29 = 3) →
  s.reg (Reg.DMA_CH_LAT_TOL c) ≠ 0 → s.latTol ≤ (s.reg (Reg.DMA_CH_LAT_TOL c)).toNat

/-! ### spec/12: DMA -/

/-- Every channel but `c` stands in `t` as in `s`. -/
def otherChannels (s t : State) (c : Nat) : Prop := ∀ d, d ≠ c → t.dmaCh d = s.dmaCh d ∧
  (d < 64 → t.reg (Reg.DMA_CH_STATUS d) = s.reg (Reg.DMA_CH_STATUS d))

/-- The progress registers of channel `c` show this source, destination and remainder (R301). -/
def progressShows (t : State) (c src dst remain : Nat) : Prop :=
  t.reg (Reg.DMA_CH_SRC_LO c) = BitVec.ofNat 32 src ∧ t.reg (Reg.DMA_CH_SRC_HI c) = BitVec.ofNat 32 (src / 2 ^ 32) ∧
  t.reg (Reg.DMA_CH_DST_LO c) = BitVec.ofNat 32 dst ∧ t.reg (Reg.DMA_CH_DST_HI c) = BitVec.ofNat 32 (dst / 2 ^ 32) ∧
  t.reg (Reg.DMA_CH_REMAIN c) = BitVec.ofNat 32 remain

/-- In `t` channel `c` is suspended for `cause` at address `a` (R296, R302). -/
def suspendedFor (s t : State) (c cause a : Nat) : Prop :=
  t.fld (Reg.DMA_CH_STATUS c) 31 29 = 4 ∧ t.fld (Reg.DMA_CH_STATUS c) 28 26 = cause ∧
  t.bit (Reg.DMA_CH_STATUS c) 6 = true ∧ t.reg (Reg.DMA_CH_FADDR_LO c) = BitVec.ofNat 32 a ∧
  t.reg (Reg.DMA_CH_FADDR_HI c) = BitVec.ofNat 32 (a / 2 ^ 32) ∧ otherChannels s t c

/-- A descriptor's state of running, given the pace request: running, or paced (R294, R302). -/
def runsAs (x : DmaCh) : Nat := if bitAt (x.desc.getD 1 0) 20 = true ∧ x.request = false then 3 else 1

/-- A kick by register or by the plate: a disabled or parted channel ignores it, an idle one fetches its descriptor, a
waiting one starts, and any other counts it; a DMAKICK whose data is not 1 leaves the channel open (R79, R293). -/
def kicks : Prop := ∀ (c : Fin 64) (v target data : Word) (s : State), s.fclkOn →
  let st := s.fld (Reg.DMA_CH_STATUS c) 31 29
  let on := s.bit (Reg.DMA_CH_CTL c) 31 = true
  let kicked (i : Instr) : Prop :=
    (¬ on ∨ st = 6 → Idle i s) ∧
    (on → st = 0 → Does i s fun t => t.fld (Reg.DMA_CH_STATUS c) 31 29 = 1 ∧
      t.dmaCh c = { s.dmaCh c with fetching := true } ∧ otherChannels s t c ∧ Keeps s t [Reg.DMA_CH_STATUS c] ∧
      Touches [.regs, .dma] s t) ∧
    (on → st = 2 → Does i s fun t => t.fld (Reg.DMA_CH_STATUS c) 31 29 = runsAs (s.dmaCh c) ∧
      t.fld (Reg.DMA_CH_STATUS c) 23 16 = s.fld (Reg.DMA_CH_STATUS c) 23 16 ∧ t.dmaCh c = s.dmaCh c ∧
      otherChannels s t c ∧ Touches [.regs] s t) ∧
    (on → st ≠ 0 → st ≠ 2 → st ≠ 6 → Does i s fun t =>
      t.fld (Reg.DMA_CH_STATUS c) 23 16 = min 255 (s.fld (Reg.DMA_CH_STATUS c) 23 16 + 1) ∧
      t.fld (Reg.DMA_CH_STATUS c) 31 24 = s.fld (Reg.DMA_CH_STATUS c) 31 24 ∧ Keeps s t [Reg.DMA_CH_STATUS c] ∧
      Touches [.regs] s t)
  (bitAt v 0 = true → kicked (.dmaChKick c v)) ∧ (bitAt v 0 = false → Idle (.dmaChKick c v) s) ∧
  (fieldOf target 5 0 = c → (data = 1 → kicked (.dmakick target data)) ∧
    (data ≠ 1 → Does (.dmakick target data) s fun t => otherChannels s t c ∧ t.mem = s.mem ∧
      Touches [.freeCtr, .regs, .dma] s t))

/-- Where channel `c` finds its descriptor (R290, R301). -/
def descriptorAt (s : State) (c : Nat) : Nat :=
  s.fld (Reg.DMA_CH_DESC_HI c) 7 0 * 2 ^ 32 + s.fld (Reg.DMA_CH_DESC_LO c) 31 5 * 32

/-- `n` bytes at `a` lie in the TCM of a powered core and detect well, and channel `c`'s stream reaches them
untranslated (R277, R287, R288). -/
def plainLocal (s : State) (c a n : Nat) : Prop :=
  s.bit (Reg.IOMMU_ST_CTL c) 31 = true ∧ s.bit (Reg.IOMMU_ST_CTL c) 30 = false ∧ s.poison = [] ∧
  ∃ k < 16, s.coreOn k = true ∧ 0x20000000 + k * 0x100000 ≤ a ∧ a + n ≤ 0x20000000 + k * 0x100000 + 0x40000

/-- The descriptor `d` breaks no rule of R290 and R292 for its channel. -/
def lawful (d : List Word) : Prop :=
  let w (i : Nat) : Word := d.getD i 0
  let peripheral := fieldOf (w 1) 31 30 = 3 ∨ fieldOf (w 1) 29 28 = 3
  let wrapped := (bitAt (w 1) 27 = true ∧ fieldOf (w 1) 31 30 ≠ 3) ∨ (bitAt (w 1) 26 = true ∧ fieldOf (w 1) 29 28 ≠ 3)
  fieldOf (w 0) 26 24 = 0 ∧ fieldOf (w 1) 15 0 = 0 ∧ fieldOf (w 6) 4 0 = 0 ∧ fieldOf (w 7) 31 8 = 0 ∧
  (peripheral → fieldOf (w 0) 23 0 % 4 = 0) ∧ (wrapped → 6 ≤ fieldOf (w 1) 25 21 ∧ fieldOf (w 1) 25 21 ≤ 24)

/-- A descriptor fetch: own = 0 leaves the channel idle with empty set and its address kept; own = 1 runs, or waits for a
kick, or takes a pending one; an unlawful one leaves the channel open; a stream that is off suspends it with cause
descriptor fetch (R290, R292, R293, R296). -/
def descriptorFetch : Prop := ∀ (c : Fin 64) (s : State), s.fclkOn →
  let st := Reg.DMA_CH_STATUS c
  let a := descriptorAt s c
  let d := (List.range 8).map fun i => s.word (a + 4 * i)
  let src := s.load (a + 8) 8
  let dst := s.load (a + 16) 8
  let len := if fieldOf (d.getD 0 0) 23 0 = 0 then 2 ^ 24 else fieldOf (d.getD 0 0) 23 0
  let x : DmaCh := { s.dmaCh c with desc := d, moved := 0, buf := [], fetching := false }
  let live := (s.dmaCh c).fetching = true ∧ s.fld st 31 29 = 1 ∧ s.bit Reg.DMA_ENG_CTL 31 = true ∧
    s.bit Reg.DMA_ENG_STATUS 31 = false
  (¬ live → Idle (.descriptorFetchDone c) s) ∧
  (live → plainLocal s c a 32 → bitAt (d.getD 0 0) 31 = false → Does (.descriptorFetchDone c) s fun t =>
    t.fld st 31 29 = 0 ∧ t.bit st 7 = true ∧ descriptorAt t c = a ∧ (t.dmaCh c).fetching = false ∧ otherChannels s t c ∧
    Touches [.regs, .dma, .cyc] s t) ∧
  (live → plainLocal s c a 32 → bitAt (d.getD 0 0) 31 = true → lawful d →
    (bitAt (d.getD 0 0) 28 = false → Does (.descriptorFetchDone c) s fun t => t.fld st 31 29 = runsAs x ∧ t.dmaCh c = x ∧
      progressShows t c src dst len ∧ otherChannels s t c ∧ Touches [.regs, .dma, .cyc] s t) ∧
    (bitAt (d.getD 0 0) 28 = true → s.fld st 23 16 = 0 → Does (.descriptorFetchDone c) s fun t => t.fld st 31 29 = 2 ∧
      t.dmaCh c = x ∧ otherChannels s t c ∧ Touches [.regs, .dma, .cyc] s t) ∧
    (bitAt (d.getD 0 0) 28 = true → s.fld st 23 16 ≠ 0 → Does (.descriptorFetchDone c) s fun t => t.fld st 31 29 = runsAs x ∧
      t.fld st 23 16 = s.fld st 23 16 - 1 ∧ t.dmaCh c = x ∧ progressShows t c src dst len ∧ otherChannels s t c ∧
      Touches [.regs, .dma, .cyc] s t)) ∧
  (live → plainLocal s c a 32 → bitAt (d.getD 0 0) 31 = true → ¬ lawful d → Does (.descriptorFetchDone c) s fun t =>
    otherChannels s t c ∧ Touches [.freeCtr, .regs, .dma, .cyc] s t) ∧
  (live → s.bit (Reg.IOMMU_ST_CTL c) 31 = false → Does (.descriptorFetchDone c) s fun t => suspendedFor s t c 4 a ∧
    descriptorAt t c = a ∧ t.dmaCh c = s.dmaCh c ∧ Touches [.regs, .cyc] s t)

/-- The pace request follows the queue's fill with hysteresis, and a channel with its descriptor at hand runs or is paced
by it; a descriptor without pace is left alone (R294, R295). -/
def pacing : Prop := ∀ (c : Fin 64) (s : State), s.fclkOn →
  let x := s.dmaCh c
  let p := s.reg (Reg.DMA_CH_PACE c)
  let fill := s.paceFill (fieldOf p 29 24)
  let hi := fieldOf p 14 8
  let lo := fieldOf p 6 0
  let st := s.fld (Reg.DMA_CH_STATUS c) 31 29
  let result (r : Bool) : Prop := Does (.paceRequest c) s fun t => t.dmaCh c = { x with request := r } ∧
    t.fld (Reg.DMA_CH_STATUS c) 31 29 =
      (if x.fetching = false ∧ (st = 1 ∨ st = 3) then (if r then 1 else 3) else st) ∧
    otherChannels s t c ∧ Keeps s t [Reg.DMA_CH_STATUS c] ∧ Touches [.regs, .dma] s t
  (bitAt (x.desc.getD 1 0) 20 = false → Idle (.paceRequest c) s) ∧
  (bitAt (x.desc.getD 1 0) 20 = true → fieldOf (x.desc.getD 1 0) 31 30 = 3 →
    (hi ≤ fill → result true) ∧ (fill < hi → fill ≤ lo → result false) ∧ (fill < hi → lo < fill → result x.request)) ∧
  (bitAt (x.desc.getD 1 0) 20 = true → fieldOf (x.desc.getD 1 0) 31 30 ≠ 3 →
    (fill ≤ lo → result true) ∧ (lo < fill → hi ≤ fill → result false) ∧ (lo < fill → fill < hi → result x.request))

/-- What makes channel `c` ready for a burst (R291). -/
def readyToMove (s : State) (c : Nat) : Prop :=
  let x := s.dmaCh c
  let len := if fieldOf (x.desc.getD 0 0) 23 0 = 0 then 2 ^ 24 else fieldOf (x.desc.getD 0 0) 23 0
  s.bit (Reg.DMA_CH_CTL c) 31 = true ∧ s.fld (Reg.DMA_CH_STATUS c) 31 29 = 1 ∧ x.fetching = false ∧ x.desc ≠ [] ∧
  x.moved < len ∧ x.awaits = none

/-- The channel that gets the turn: the highest priority, and within one the next after the channel served last
(R291). -/
def turn : Prop := ∀ (s : State),
  let prio (c : Nat) : Nat := s.fld (Reg.DMA_CH_CTL c) 29 28
  let after (c : Nat) : Nat := (c + 63 - s.dmaLast) % 64
  (s.dmaWinner = none → ∀ c < 64, ¬ readyToMove s c) ∧
  ∀ c, s.dmaWinner = some c → c < 64 ∧ readyToMove s c ∧ ∀ d < 64, readyToMove s d → d ≠ c →
    prio d < prio c ∨ (prio d = prio c ∧ after c ≤ after d)

/-- A burst between two local sides copies up to the descriptor's beats, to the next 256-byte boundary of either side and
to the descriptor's end, and the progress registers follow (R290 to R292, R301). -/
def burstLocal : Prop := ∀ (c : Nat) (s : State), s.fclkOn → s.bit Reg.DMA_ENG_CTL 31 = true →
  s.bit Reg.DMA_ENG_STATUS 31 = false → s.dmaWinner = some c →
  let x := s.dmaCh c
  let w (i : Nat) : Word := x.desc.getD i 0
  let len := if fieldOf (w 0) 23 0 = 0 then 2 ^ 24 else fieldOf (w 0) 23 0
  let src := (w 3).toNat * 2 ^ 32 + (w 2).toNat + x.moved
  let dst := (w 5).toNat * 2 ^ 32 + (w 4).toNat + x.moved
  let n := min (len - x.moved) (min ((fieldOf (w 1) 19 16 + 1) * 16 - src % 16) (min (256 - src % 256) (256 - dst % 256)))
  fieldOf (w 1) 31 26 = 0 → bitAt (w 1) 20 = false → x.buf = [] →
  plainLocal s c src n → plainLocal s c dst n → mayWrite s dst n → Does .dmaBurst s fun t =>
    (∀ a, t.byte a = if dst ≤ a ∧ a < dst + n then s.byte (src + (a - dst)) else s.byte a) ∧
    t.dmaCh c = { x with moved := x.moved + n } ∧ t.dmaLast = c ∧ progressShows t c (src + n) (dst + n) (len - x.moved - n) ∧
    t.reg (Reg.DMA_CH_STATUS c) = s.reg (Reg.DMA_CH_STATUS c) ∧ otherChannels s t c ∧
    Touches [.regs, .dma, .dmaLast, .mem, .poison, .cores, .cyc, .pulses, .encSince, .zonePins] s t

/-- A paced burst from a device register into memory reads the register once for each word, and puts the words in order
(R290, R294, R295). -/
def burstPeripheral : Prop := ∀ (c : Nat) (v : Word) (s r : State), s.fclkOn → s.bit Reg.DMA_ENG_CTL 31 = true →
  s.bit Reg.DMA_ENG_STATUS 31 = false → s.dmaWinner = some c →
  let x := s.dmaCh c
  let w (i : Nat) : Word := x.desc.getD i 0
  let src := (w 3).toNat * 2 ^ 32 + (w 2).toNat
  let dst := (w 5).toNat * 2 ^ 32 + (w 4).toNat + x.moved
  fieldOf (w 1) 31 26 = 0x30 → bitAt (w 1) 20 = true → s.fld (Reg.DMA_CH_PACE c) 22 16 = 1 → x.buf = [] →
  fieldOf (w 0) 23 0 = x.moved + 4 → 0x80000000 ≤ src → src < 0x81400000 → src % 4 = 0 → dst % 4 = 0 →
  busRead .dma (src - 0x80000000) { s with dmaLast := c } = (v, r) →
  r.dmaCh c = x → (∀ a, r.reg (Reg.IOMMU_ST_CTL a) = s.reg (Reg.IOMMU_ST_CTL a)) → plainLocal r c dst 4 →
  Does .dmaBurst s fun t => t.word dst = v ∧ (∀ a, a < dst ∨ dst + 4 ≤ a → t.byte a = r.byte a) ∧
    (t.dmaCh c).moved = x.moved + 4 ∧ progressShows t c src (dst + 4) 0

/-- A burst whose source is refused moves nothing and suspends the channel at that element (R296). -/
def burstRefused : Prop := ∀ (c : Nat) (s : State), s.fclkOn → s.bit Reg.DMA_ENG_CTL 31 = true →
  s.bit Reg.DMA_ENG_STATUS 31 = false →
  (s.dmaWinner = none → Idle .dmaBurst s) ∧
  (s.dmaWinner = some c →
    let x := s.dmaCh c
    let src := ((x.desc.getD 3 0).toNat * 2 ^ 32 + (x.desc.getD 2 0).toNat) + x.moved
    fieldOf (x.desc.getD 1 0) 31 26 = 0 → bitAt (x.desc.getD 1 0) 20 = false → x.buf = [] →
    s.bit (Reg.IOMMU_ST_CTL c) 31 = false → Does .dmaBurst s fun t => suspendedFor s t c 2 src ∧ t.mem = s.mem ∧
      t.dmaCh c = x ∧ Touches [.regs, .dma, .dmaLast, .cyc, .pulses, .encSince, .zonePins] s t)

/-- A completed descriptor: own goes to 0 in memory unless keep stands, the channel's address moves to next, irq sets
desc_done, and last ends the chain, while any other descriptor goes on to fetch the next (R278, R290, R293). -/
def descriptorDone : Prop := ∀ (c : Fin 64) (s : State), s.fclkOn → s.bit Reg.DMA_ENG_CTL 31 = true →
  s.bit Reg.DMA_ENG_STATUS 31 = false →
  let st := Reg.DMA_CH_STATUS c
  let x := s.dmaCh c
  let w (i : Nat) : Word := x.desc.getD i 0
  let len := if fieldOf (w 0) 23 0 = 0 then 2 ^ 24 else fieldOf (w 0) 23 0
  let done := s.bit (Reg.DMA_CH_CTL c) 31 = true ∧ (s.fld st 31 29 = 1 ∨ s.fld st 31 29 = 3) ∧ x.fetching = false ∧
    x.desc ≠ [] ∧ x.moved = len
  let goesOn (t : State) : Prop :=
    t.reg (Reg.DMA_CH_DESC_LO c) = w 6 &&& 0xFFFFFFE0 ∧ t.reg (Reg.DMA_CH_DESC_HI c) = w 7 &&& 0xFF ∧
    (bitAt (w 0) 30 = true → t.bit st 3 = true) ∧ (bitAt (w 0) 30 = false → t.bit st 3 = s.bit st 3) ∧
    (bitAt (w 0) 29 = true → t.fld st 31 29 = 0 ∧ t.bit st 2 = true ∧ (t.dmaCh c).fetching = false) ∧
    (bitAt (w 0) 29 = false → t.fld st 31 29 = 1 ∧ t.bit st 2 = s.bit st 2 ∧ (t.dmaCh c).fetching = true) ∧
    (t.dmaCh c).desc = [] ∧ (t.dmaCh c).moved = 0 ∧ otherChannels s t c
  (¬ done → Idle (.descriptorComplete c) s) ∧
  (done → bitAt (w 0) 27 = true → Does (.descriptorComplete c) s fun t => goesOn t ∧ Touches [.regs, .dma, .cyc] s t) ∧
  (done → bitAt (w 0) 27 = false → plainLocal s c (descriptorAt s c) 4 →
    mayWrite s (descriptorAt s c) 4 → Does (.descriptorComplete c) s fun t =>
    goesOn t ∧ t.word (descriptorAt s c) = w 0 &&& 0x7FFFFFFF ∧
    (∀ a, a < descriptorAt s c ∨ descriptorAt s c + 4 ≤ a → t.byte a = s.byte a) ∧
    Touches [.regs, .dma, .mem, .poison, .cores, .cyc] s t)

/-- A write of resume continues a suspended channel where it stands; enable 0 and then 1 leaves PARTED, which one write
does not (R296, R298, R301). -/
def resume : Prop := ∀ (c : Fin 64) (v : Word) (s : State), s.fclkOn → s.aborting 8 c = false →
  let st := s.fld (Reg.DMA_CH_STATUS c) 31 29
  let ctl (t : State) : Prop := t.reg (Reg.DMA_CH_CTL c) = v &&& 0xB0000000
  (st = 4 → Does (.dmaResume c v) s fun t => ctl t ∧ t.fld (Reg.DMA_CH_STATUS c) 28 26 = 0 ∧
    t.fld (Reg.DMA_CH_STATUS c) 31 29 = (if (s.dmaCh c).fetching then 1 else runsAs (s.dmaCh c)) ∧ t.dmaCh c = s.dmaCh c ∧
    otherChannels s t c ∧ Keeps s t [Reg.DMA_CH_CTL c, Reg.DMA_CH_STATUS c] ∧ Touches [.regs] s t) ∧
  (st ≠ 4 → st ≠ 6 → Does (.dmaResume c v) s fun t => ctl t ∧ Keeps s t [Reg.DMA_CH_CTL c] ∧ Touches [.regs] s t) ∧
  (st = 6 → bitAt v 31 = false → Does (.dmaResume c v) s fun t => ctl t ∧
    t.dmaCh c = { s.dmaCh c with sawDisable := true } ∧ Keeps s t [Reg.DMA_CH_CTL c] ∧ Touches [.regs, .dma] s t) ∧
  (st = 6 → bitAt v 31 = true → (s.dmaCh c).sawDisable = true → Does (.dmaResume c v) s fun t => ctl t ∧
    t.fld (Reg.DMA_CH_STATUS c) 31 29 = 0 ∧ t.dmaCh c = {} ∧ otherChannels s t c ∧
    Keeps s t [Reg.DMA_CH_CTL c, Reg.DMA_CH_STATUS c] ∧ Touches [.regs, .dma] s t) ∧
  (st = 6 → bitAt v 31 = true → (s.dmaCh c).sawDisable = false → Does (.dmaResume c v) s fun t => ctl t ∧
    Keeps s t [Reg.DMA_CH_CTL c] ∧ Touches [.regs] s t)

/-- A transaction without a response stops the engine: every running, waiting or paced channel is stopped with its progress
kept, the address stands in DMA_ENG_ERR, and the tailstock hears of it; a restart lets the enabled ones go on (R297). -/
def engineStops : Prop := ∀ (a : BitVec 40) (v : Word) (s : State), s.fclkOn →
  let st (x : State) (c : Nat) : Nat := x.fld (Reg.DMA_CH_STATUS c) 31 29
  (Does (.transactionTimeout a) s fun t =>
    t.reg Reg.DMA_ENG_STATUS = 0x80000003 ∧ t.reg Reg.DMA_ENG_ERR_LO = BitVec.ofNat 32 a.toNat ∧
    t.reg Reg.DMA_ENG_ERR_HI = BitVec.ofNat 32 (a.toNat / 2 ^ 32) ∧ t.bit (Reg.TS_IRQ_PEND 0) 28 = true ∧
    (∀ c < 64, st s c = 1 ∨ st s c = 2 ∨ st s c = 3 → st t c = 5 ∧ t.bit (Reg.DMA_CH_STATUS c) 5 = true ∧
      t.dmaCh c = { s.dmaCh c with stoppedIn := st s c }) ∧
    (∀ c < 64, st s c = 0 ∨ 4 ≤ st s c → st t c = st s c ∧ t.dmaCh c = s.dmaCh c) ∧
    (∀ c < 64, t.reg (Reg.DMA_CH_SRC_LO c) = s.reg (Reg.DMA_CH_SRC_LO c) ∧
      t.reg (Reg.DMA_CH_REMAIN c) = s.reg (Reg.DMA_CH_REMAIN c)) ∧ Touches [.regs, .dma, .cyc] s t) ∧
  (Does (.dmaRestart v) s fun t => t.reg Reg.DMA_ENG_CTL = v &&& 0x80000000 ∧ t.bit Reg.DMA_ENG_STATUS 31 = false ∧
    (∀ c < 64, st s c = 5 → s.bit (Reg.DMA_CH_CTL c) 31 = true → st t c = (s.dmaCh c).stoppedIn % 8) ∧
    (∀ c < 64, st s c ≠ 5 ∨ s.bit (Reg.DMA_CH_CTL c) 31 = false → st t c = st s c) ∧ Touches [.regs] s t)

/-- The completion of an outbound read: its data joins the buffer of its channel; an error, a timeout, or data of the wrong
length suspends the channel with cause host port error and counts at the port; one whose channel has been parted is
discarded; an unknown tag is nothing (R296, R298, R381). -/
def outboundCompletes : Prop := ∀ (p : Port) (tag : Fin 64) (bs : List Byte) (o : Outbound) (s : State),
  s.sys.powerGood = true →
  let n := if p = .a then 0 else 1
  let mine (x : Outbound) : Prop := x.port = n ∧ x.tag = tag.val
  let gone (t : State) : Prop := t.outbound = s.outbound.filter fun x => !decide (x.port = n ∧ x.tag = tag.val)
  let fails (i : Instr) (c : Nat) : Prop := Does i s fun t => gone t ∧
    suspendedFor s t c 3 ((s.dmaCh c).srcAt ((s.dmaCh c).moved + (s.dmaCh c).buf.length)) ∧
    t.dmaCh c = { s.dmaCh c with awaits := none } ∧
    t.fld (Reg.HP_ERRCNT n) 15 0 = min 65535 (s.fld (Reg.HP_ERRCNT n) 15 0 + 1) ∧ Touches [.regs, .dma, .outbound, .cyc] s t
  ((∀ x ∈ s.outbound, ¬ mine x) → Idle (.outboundCompletion p tag (.data bs)) s ∧ Idle (.completionTimeout p tag) s) ∧
  (s.outbound.find? (fun x => decide (x.port = n ∧ x.tag = tag.val)) = some o →
    (∀ c, o.chan = some c → bs.length = o.len → Does (.outboundCompletion p tag (.data bs)) s fun t => gone t ∧
      t.dmaCh c = { s.dmaCh c with awaits := none, buf := (s.dmaCh c).buf ++ bs } ∧ otherChannels s t c ∧
      Touches [.dma, .outbound, .cyc] s t) ∧
    (o.chan = none → Does (.outboundCompletion p tag (.data bs)) s fun t => gone t ∧ Touches [.outbound, .cyc] s t) ∧
    (∀ c, o.chan = some c → c < 64 → s.fld (Reg.DMA_CH_STATUS c) 31 29 ≠ 6 →
      fails (.outboundCompletion p tag .error) c ∧ fails (.completionTimeout p tag) c ∧
      (bs.length ≠ o.len → fails (.outboundCompletion p tag (.data bs)) c)))


/-! ### spec/13: the console engine -/

/-- Every console context but `k` stands in `t` as in `s`. -/
def otherConsoles (s t : State) (k : Nat) : Prop := ∀ j, j ≠ k → t.con j = s.con j

/-- Is context `k` the only enabled one that names its raster as valid (R303)? -/
def aloneOnRaster (s : State) (k : Nat) (v : Word) : Prop := ∀ j < 512, j ≠ k →
  ¬ (s.bit (Reg.CON_CTL j) 31 = true ∧ s.bit (Reg.CON_CTL j) 26 = true ∧ s.fld (Reg.CON_CTL j) 21 16 = fieldOf v 21 16)

/-- In `t` context `k` has begun to be scanned on raster `r`: a fresh frame count, no stored check value, a render request
that stood before, and its spindle LOCKED at phase 0 where it is enabled (R303, R304, R308, R316). -/
def scanStarted (s t : State) (k r : Nat) : Prop :=
  t.fld (Reg.CON_STATUS k) 31 30 = 2 ∧ t.con k = { request := (s.con k).request } ∧ t.reg (Reg.CON_FRAMES k) = 0 ∧
  (t.spn (72 + r)).rasterRuns = true ∧ (t.spn (72 + r)).rasterStart = s.now ∧
  (t.spn (72 + r)).rasterFrame = (s.reg (Reg.CON_FRAME k)).toNat ∧ (t.spn (72 + r)).rasterLines = s.fld (Reg.CON_TOTAL k) 31 16 ∧
  (s.bit (Reg.SPN_CTRL (72 + r)) 31 = true → s.fld (Reg.SPN_STATUS (72 + r)) 31 29 ≠ 6 →
    t.fld (Reg.SPN_STATUS (72 + r)) 31 29 = 2)

/-- In `t` the contexts stand as in `s`, but that a misuse of context `k` may have ended (R40). -/
def sameConsole (s t : State) (k : Nat) : Prop := otherConsoles s t k ∧
  t.con k = { s.con k with spoiled := (t.con k).spoiled } ∧ ((s.con k).spoiled = false → (t.con k).spoiled = false)

/-- A write of CON_CTL starts, stops or parts with a scan: enable with a valid raster scans, enable without one idles,
enable 0 stops the raster, and a parted context leaves that state by enable 0 and then 1 only. A new raster while enabled,
or a second context on one raster, spoils the consoles concerned, until valid values stand (R40, R303, R304, R322,
R325). -/
def conCtl : Prop := ∀ (k : Fin 512) (v : Word) (s : State), s.mediaOn → s.aborting 4 k = false →
  let ctl := Reg.CON_CTL k
  let st := s.fld (Reg.CON_STATUS k) 31 30
  let written (t : State) : Prop := t.reg ctl = v &&& 0xFC3FFF00
  let moved := bitAt (s.reg ctl) 31 = true ∧ (bitAt (s.reg ctl) 26 ≠ bitAt v 26 ∨ s.fld ctl 21 16 ≠ fieldOf v 21 16)
  (st < 2 → bitAt v 31 = true → bitAt v 26 = true → ¬ moved → aloneOnRaster s k v → Does (.conCtl k v) s fun t =>
    written t ∧ scanStarted s t k (fieldOf v 21 16) ∧ otherConsoles s t k) ∧
  (st < 2 → bitAt v 31 = true → bitAt v 26 = false → ¬ moved → Does (.conCtl k v) s fun t =>
    written t ∧ t.fld (Reg.CON_STATUS k) 31 30 = 1 ∧ sameConsole s t k ∧ t.spindles = s.spindles ∧
    Keeps s t [ctl, Reg.CON_STATUS k]) ∧
  (st = 2 → bitAt v 31 = true → bitAt v 26 = true → ¬ moved → Does (.conCtl k v) s fun t =>
    written t ∧ sameConsole s t k ∧ (t.conLegal k = true → aloneOnRaster t k v → (t.con k).spoiled = false) ∧
    Keeps s t [ctl] ∧ Touches [.regs, .consoles, .cyc] s t) ∧
  (st = 2 → bitAt v 31 = false → Does (.conCtl k v) s fun t => written t ∧ t.fld (Reg.CON_STATUS k) 31 30 = 0 ∧
    (t.spn (72 + s.fld ctl 21 16)).rasterRuns = false ∧ otherConsoles s t k ∧
    (s.bit (Reg.SPN_CTRL (72 + s.fld ctl 21 16)) 31 = true → s.fld (Reg.SPN_STATUS (72 + s.fld ctl 21 16)) 31 29 ≠ 6 →
      t.fld (Reg.SPN_STATUS (72 + s.fld ctl 21 16)) 31 29 = 3)) ∧
  (st = 3 → bitAt v 31 = false → Does (.conCtl k v) s fun t => written t ∧ (t.con k).sawDisable = true ∧
    t.fld (Reg.CON_STATUS k) 31 30 = 3) ∧
  (st = 3 → bitAt v 31 = true → (s.con k).sawDisable = false → ¬ moved → Does (.conCtl k v) s fun t => written t ∧
    sameConsole s t k ∧ Keeps s t [ctl] ∧ Touches [.regs, .consoles, .cyc] s t) ∧
  (st = 3 → bitAt v 31 = true → bitAt v 26 = true → (s.con k).sawDisable = true → aloneOnRaster s k v →
    Does (.conCtl k v) s fun t => written t ∧ scanStarted s t k (fieldOf v 21 16)) ∧
  (bitAt v 31 = true → moved → st = 2 → bitAt v 26 = true → Does (.conCtl k v) s fun t =>
    written t ∧ (t.con k).spoiled = true) ∧
  (st < 2 ∨ (st = 3 ∧ (s.con k).sawDisable = true) → bitAt v 31 = true → bitAt v 26 = true →
    ∀ j : Fin 512, j ≠ k → s.bit (Reg.CON_CTL j) 31 = true →
    s.bit (Reg.CON_CTL j) 26 = true → s.fld (Reg.CON_CTL j) 21 16 = fieldOf v 21 16 → Does (.conCtl k v) s fun t =>
      (t.con k).spoiled = true ∧ (t.con j).spoiled = true)

/-- A render request waits for the latch of line 0; a parted context takes none (R308, R322). -/
def conKick : Prop := ∀ (k : Fin 512) (v : Word) (s : State), s.mediaOn →
  (bitAt v 0 = true → s.fld (Reg.CON_STATUS k) 31 30 ≠ 3 → exec (.conKick k v) s =
    .next (s.setCon k { s.con k with request := true })) ∧
  (bitAt v 0 = false ∨ s.fld (Reg.CON_STATUS k) 31 30 = 3 → Idle (.conKick k v) s)

/-- The scanned context bound to raster `r` is `k`, and it is the only one (R307). -/
def boundOnly (s : State) (r k : Nat) : Prop :=
  k < 512 ∧ s.fld (Reg.CON_STATUS k) 31 30 = 2 ∧ s.fld (Reg.CON_CTL k) 21 16 = r ∧
  ∀ j < 512, s.fld (Reg.CON_STATUS j) 31 30 = 2 → s.fld (Reg.CON_CTL j) 21 16 = r → j = k

/-- What the raster commands do to the registers of context `k` (R307); the result is asked only of a lawful data word. -/
def rasterResult (s t : State) (k cmd : Nat) (d : Word) : Prop :=
  let scroll := Reg.CON_L_SCROLL k (fieldOf d 31 30)
  let lo := if bitAt d 29 then 16 else 0
  let lctl (l : Nat) := Reg.CON_L_CTL k l
  (cmd = 1 → t.fld scroll (lo + 15) lo = fieldOf d 15 0 ∧ t.fld scroll (31 - lo) (16 - lo) = s.fld scroll (31 - lo) (16 - lo) ∧
    Keeps s t [scroll] ∧ Touches [.cyc, .regs] s t) ∧
  (cmd = 2 → t.fld scroll (lo + 15) lo = (s.fld scroll (lo + 15) lo + fieldOf d 15 0) % 65536 ∧
    t.fld scroll (31 - lo) (16 - lo) = s.fld scroll (31 - lo) (16 - lo) ∧ Keeps s t [scroll] ∧ Touches [.cyc, .regs] s t) ∧
  (cmd = 3 → (∀ l < 4, t.bit (lctl l) 31 = bitAt d l ∧ t.fld (lctl l) 30 0 = s.fld (lctl l) 30 0) ∧
    t.bit (Reg.CON_INLAY_CTL k) 31 = bitAt d 4 ∧ t.fld (Reg.CON_INLAY_CTL k) 8 0 = s.fld (Reg.CON_INLAY_CTL k) 8 0 ∧
    Keeps s t [lctl 0, lctl 1, lctl 2, lctl 3, Reg.CON_INLAY_CTL k] ∧ Touches [.cyc, .regs] s t) ∧
  (cmd = 4 → t.fld (Reg.CON_L_WIN k (fieldOf d 31 30)) 27 16 = fieldOf d 27 16 ∧
    t.fld (Reg.CON_L_WIN k (fieldOf d 31 30)) 11 0 = fieldOf d 11 0 ∧ t.bit (lctl (fieldOf d 31 30)) 30 = bitAt d 29 ∧
    Keeps s t [Reg.CON_L_WIN k (fieldOf d 31 30), lctl (fieldOf d 31 30)] ∧ Touches [.cyc, .regs] s t) ∧
  (cmd = 5 → fieldOf d 31 29 < 4 → t.fld (lctl (fieldOf d 31 29)) 8 0 = fieldOf d 8 0 ∧
    t.fld (lctl (fieldOf d 31 29)) 31 9 = s.fld (lctl (fieldOf d 31 29)) 31 9 ∧ Keeps s t [lctl (fieldOf d 31 29)] ∧
    Touches [.cyc, .regs] s t) ∧
  (cmd = 5 → fieldOf d 31 29 = 4 → t.fld (Reg.CON_INLAY_CTL k) 8 0 = fieldOf d 8 0 ∧
    t.bit (Reg.CON_INLAY_CTL k) 31 = s.bit (Reg.CON_INLAY_CTL k) 31 ∧ Keeps s t [Reg.CON_INLAY_CTL k] ∧ Touches [.cyc, .regs] s t) ∧
  (cmd = 6 → t.reg (Reg.CON_BACKDROP k) = 0xFF000000 ||| d ∧ Keeps s t [Reg.CON_BACKDROP k] ∧ Touches [.cyc, .regs] s t) ∧
  (cmd = 7 → t.con k = { s.con k with request := true } ∧ otherConsoles s t k ∧ Touches [.consoles] s t)

/-- The data bits that raster command `cmd` names (R307). -/
def rasterBits (cmd : Nat) : Word :=
  match cmd with
  | 1 | 2 => 0xE000FFFF
  | 3 => 0x1F
  | 4 => 0xEFFF0FFF
  | 5 => 0xE00001FF
  | 6 => 0xFFFFFF
  | _ => 0

/-- The raster commands, from the plate's RASTER action and under their own names: each changes its registers of the bound
context alone; data outside the named fields, 5 to 7 as palette, and an unlisted command leave the console's results
undefined; without a bound context the command is ignored and noted, unless a parted context holds the raster (R79,
R307, R322). -/
def rasterCommands : Prop := ∀ (r : Fin 64) (target d : Word) (cmd : Nat) (i : Instr) (s : State), s.mediaOn →
  (cmd, i) ∈ [(1, Instr.scroll r d), (2, .scrollAdd r d), (3, .layerEn r d), (4, .window r d), (5, .palette r d),
    (6, .backdrop r d), (7, .render r d)] ∨
    (i = .raster target d ∧ cmd = fieldOf target 15 8 ∧ r.val = fieldOf target 5 0) →
  let listed := 1 ≤ cmd ∧ cmd ≤ 7 ∧ d &&& ~~~rasterBits cmd = 0 ∧ (cmd = 5 → fieldOf d 31 29 ≤ 4)
  (∀ k, boundOnly s r k → listed → Does i s fun t => rasterResult s t k cmd d) ∧
  (∀ k, boundOnly s r k → ¬ listed → Does i s fun t => t.con k = { s.con k with spoiled := true } ∧ otherConsoles s t k ∧
    Touches [.consoles, .cyc] s t) ∧
  ((∀ j < 512, s.fld (Reg.CON_STATUS j) 31 30 = 2 → s.fld (Reg.CON_CTL j) 21 16 ≠ r) →
    ((∃ j < 512, s.fld (Reg.CON_STATUS j) 31 30 = 3 ∧ s.bit (Reg.CON_CTL j) 26 = true ∧ s.fld (Reg.CON_CTL j) 21 16 = r) →
      Idle i s) ∧
    ((∀ j < 512, s.fld (Reg.CON_STATUS j) 31 30 = 3 → s.bit (Reg.CON_CTL j) 26 = true → s.fld (Reg.CON_CTL j) 21 16 ≠ r) →
      Does i s fun t => t.bit Reg.CON_GLB_STATUS 2 = true ∧ t.consoles = s.consoles ∧
        Keeps s t [Reg.CON_GLB_STATUS, groupReg s 2048] ∧ Touches [.regs, .cyc] s t))

/-- The latch of a visible line releases its job with the registers of this moment, where the frame is rendered, or the
line is marked or due for forced refresh; else nothing is released. A latch that starts no frame changes nothing but
this (R306, R308, R316). -/
def lineLatch : Prop := ∀ (k : Fin 512) (l : BitVec 16) (s : State), s.mediaOn →
  let L := l.toNat
  let n := s.fld (Reg.CON_CTL k) 15 8
  let forced := decide (n ≠ 0 ∧ ((s.reg (Reg.CON_FRAMES k)).toNat + L) % n = 0)
  let marked := decide (L ∈ (s.con k).marks)
  (s.fld (Reg.CON_STATUS k) 31 30 ≠ 2 ∨ s.fld (Reg.CON_TOTAL k) 31 16 ≤ L → Idle (.lineLatch k l) s) ∧
  (s.fld (Reg.CON_STATUS k) 31 30 = 2 → L < s.fld (Reg.CON_TOTAL k) 31 16 → L ≠ 0 → L < s.fld (Reg.CON_SIZE k) 26 16 →
    s.bit Reg.CON_GLB_CTL 31 = true →
    ((s.con k).render = true ∨ forced = true ∨ marked = true → Does (.lineLatch k l) s fun t =>
      (∃ j, t.conJobs = s.conJobs ++ [j] ∧ j.ctx = k.val ∧ j.raster = s.fld (Reg.CON_CTL k) 21 16 ∧ j.line = L ∧ j.latch = s.now ∧
        j.frame = s.reg (Reg.CON_FRAMES k) ∧ j.forced = forced ∧ j.marked = marked ∧ j.table = (s.con k).table ∧
        j.regs.length = 18 ∧ (∀ i < 4, j.regs.getD (4 * i) 0 = s.reg (Reg.CON_L_CTL k i) ∧
          j.regs.getD (4 * i + 1) 0 = s.reg (Reg.CON_L_MAP k i) ∧ j.regs.getD (4 * i + 2) 0 = s.reg (Reg.CON_L_SCROLL k i) ∧
          j.regs.getD (4 * i + 3) 0 = s.reg (Reg.CON_L_WIN k i)) ∧
        j.regs.getD 16 0 = s.reg (Reg.CON_BACKDROP k) ∧ j.regs.getD 17 0 = s.reg (Reg.CON_INLAY_CTL k)) ∧
      t.con k = { s.con k with marks := (s.con k).marks.filter fun m => decide (m ≠ L) } ∧ otherConsoles s t k ∧
      Touches [.consoles, .conJobs, .cyc] s t) ∧
    ((s.con k).render = false → forced = false → marked = false → Idle (.lineLatch k l) s))

/-- The latch of line 0 begins a frame: it is counted after the first, on-demand mode consumes the request, and the inlay
table that has arrived takes over, or the old one stays with inlay_fault. The latch of line vactive starts the fetch of
the next table (R304, R308, R313). -/
def frameLatches : Prop := ∀ (k : Fin 512) (l : BitVec 16) (s : State), s.mediaOn →
  s.fld (Reg.CON_STATUS k) 31 30 = 2 →
  let x := s.con k
  let demand := s.bit (Reg.CON_CTL k) 30
  (0 < s.fld (Reg.CON_TOTAL k) 31 16 → s.fld (Reg.CON_SIZE k) 26 16 ≠ 0 → Does (.lineLatch k 0) s fun t =>
    (t.con k).begun = true ∧ (t.con k).render = (!demand || x.request) ∧
    (t.con k).request = (if demand then false else x.request) ∧ (t.con k).table = x.next.getD x.table ∧
    (t.con k).next = none ∧ t.bit (Reg.CON_STATUS k) 0 = true ∧
    t.reg (Reg.CON_FRAMES k) = (if x.begun then s.reg (Reg.CON_FRAMES k) + 1 else s.reg (Reg.CON_FRAMES k)) ∧
    (x.begun = true → x.next = none → t.bit (Reg.CON_STATUS k) 2 = true) ∧ otherConsoles s t k ∧
    Touches [.regs, .consoles, .conJobs, .cyc] s t) ∧
  (l.toNat ≠ 0 → l.toNat = s.fld (Reg.CON_SIZE k) 26 16 → l.toNat < s.fld (Reg.CON_TOTAL k) 31 16 →
    s.bit Reg.CON_GLB_CTL 31 = true → exec (.lineLatch k l) s =
      .next (s.setCon k { x with fetching := true, next := none }))

/-- The inlay table arrives through stream 64 as it stands in memory; a refused fetch leaves the previous one and sets
inlay_fault (R313, R321). -/
def inlayTable : Prop := ∀ (k : Fin 512) (s : State), s.mediaOn → s.bit Reg.CON_GLB_CTL 31 = true →
  let a := (s.reg (Reg.CON_INLAY_BASE k)).toNat
  ((s.con k).fetching = false → Idle (.inlayTableArrived k) s) ∧
  ((s.con k).fetching = true → plainLocal s 64 a 2048 → exec (.inlayTableArrived k) s =
    .next (s.setCon k { s.con k with fetching := false
                                     next := some ((List.range 512).map fun i => s.word (a + 4 * i)) })) ∧
  ((s.con k).fetching = true → s.bit (Reg.IOMMU_ST_CTL 64) 31 = false → Does (.inlayTableArrived k) s fun t =>
    t.con k = { s.con k with fetching := false, next := none } ∧ t.bit (Reg.CON_STATUS k) 2 = true ∧ otherConsoles s t k ∧
    Keeps s t [Reg.CON_STATUS k, groupReg s (1536 + k)] ∧ Touches [.regs, .consoles, .cyc] s t)

/-- A free pipe takes the released job with the earliest latch, the lower raster on a tie; with no free pipe or no job
nothing starts (R309). -/
def renderJobStart : Prop := ∀ (s : State), s.mediaOn → s.bit Reg.CON_GLB_CTL 31 = true →
  let first (j : ConJob) : Prop := j ∈ s.conJobs ∧ ∀ i ∈ s.conJobs, j.latch < i.latch ∨ (j.latch = i.latch ∧ j.raster ≤ i.raster)
  (s.conJobs = [] ∨ (∀ p < 16, s.pipe p ≠ none) → Idle .renderJobStart s) ∧
  (s.conJobs ≠ [] → (∃ p < 16, s.pipe p = none) → Does .renderJobStart s fun t => ∃ p j, p < 16 ∧ s.pipe p = none ∧
    first j ∧ t.pipe p = some j ∧ (∀ r, r ≠ p → t.pipe r = s.pipe r) ∧ t.conJobs = s.conJobs.erase j ∧
    Touches [.conJobs, .pipes] s t)

/-- The payload of pixels of one colour and index, padded (R315, R317). -/
def flatPayload (fmt n index : Nat) (argb : Word) : List Byte :=
  let one : List Byte := match fmt with
    | 0 => [BitVec.ofNat 8 index]
    | 1 => leBytes 2 (argb.toNat / 2 ^ 19 % 32 * 2048 + argb.toNat / 2 ^ 10 % 64 * 32 + argb.toNat / 8 % 32)
    | _ => leBytes 4 argb.toNat
  let bs := (List.replicate n one).flatten
  bs ++ List.replicate ((4 - bs.length % 4) % 4) 0

/-- The one record of a line whose slice holds it whole, its sequence number still zero (R317). -/
def wholeRecord (j : ConJob) (fmt n : Nat) (fallback : Bool) (payload : List Byte) : List Word :=
  [BitVec.ofNat 32 j.ctx, BitVec.ofNat 32 (j.line * 65536),
    BitVec.ofNat 32 (n * 65536 + fmt * 16384 + (if j.forced then 8192 else 0) + (if fallback then 4096 else 0) +
      j.frame.toNat % 4096), crc32 payload] ++ wordsOf payload

/-- Pipe `p` is about to finish job `j` of a console that keeps the limits of R305, in time, with no live layer and with
slices that hold the line whole. -/
def jobReady (s : State) (p : Nat) (j : ConJob) : Prop :=
  s.mediaOn ∧ s.bit Reg.CON_GLB_CTL 31 = true ∧ s.pipe p = some j ∧ (s.con j.ctx).spoiled = false ∧
  s.conLegal j.ctx = true ∧ j.ctx < 512 ∧ s.liveLayers j.ctx = [] ∧
  (let slice := s.fld (Reg.CON_STREAM_CTL j.ctx) 12 8
   s.fld (Reg.CON_SIZE j.ctx) 10 0 ≤ (if slice = 0 then 32 else slice) * 64)

/-- The line `x` begins to enter its queue `q`, waits in its backlog, or is dropped at a full one, marked and counted
(R319, R320). -/
def lineQueued (s t : State) (q : Nat) (x : ConLine) : Prop :=
  ((s.stream q).entering = none → t.stream q = { s.stream q with entering := some x, record := none }) ∧
  ((s.stream q).entering ≠ none → (s.stream q).backlog.length < 64 →
    t.stream q = { s.stream q with backlog := (s.stream q).backlog ++ [x] }) ∧
  ((s.stream q).entering ≠ none → 64 ≤ (s.stream q).backlog.length → t.stream q = s.stream q ∧
    x.line ∈ (t.con x.ctx).marks ∧ t.bit (Reg.CON_STATUS x.ctx) 7 = true ∧ t.bit Reg.CON_GLB_STATUS 0 = true ∧
    t.fld (Reg.CON_ERR x.ctx) 7 0 = min 255 (s.fld (Reg.CON_ERR x.ctx) 7 0 + 1)) ∧
  ∀ r, r ≠ q → t.stream r = s.stream r

/-- A line without a layer and without inlays shows the backdrop throughout. It is sent, as one record with its check value,
where that differs from the stored one, or the line is forced or marked; else only the pipe is free again (R315 to
R318). -/
def blankLine : Prop := ∀ (p : Fin 16) (j : ConJob) (s : State), jobReady s p j → s.now ≤ j.deadline →
  (∀ l < 4, bitAt (j.regs.getD (4 * l) 0) 31 = false) → bitAt (j.regs.getD 17 0) 31 = false →
  let n := s.fld (Reg.CON_SIZE j.ctx) 10 0
  let fmt := s.fld (Reg.CON_CTL j.ctx) 29 28
  let payload := flatPayload fmt n 0 (j.regs.getD 16 0)
  let sent := s.bit (Reg.CON_CTL j.ctx) 27 = true ∧
    (tabGet none j.line (s.con j.ctx).stored ≠ some (crc32 payload) ∨ j.forced = true ∨ j.marked = true)
  (¬ sent → Does (.renderJobDone p) s fun t => t.pipe p = none ∧ (∀ r, r ≠ p.val → t.pipe r = s.pipe r) ∧
    Touches [.pipes, .cyc] s t) ∧
  (sent → Does (.renderJobDone p) s fun t => t.pipe p = none ∧
    lineQueued s t (s.fld (Reg.CON_STREAM_CTL j.ctx) 3 0)
      { ctx := j.ctx, line := j.line, check := crc32 payload, records := [wholeRecord j fmt n false payload] } ∧
    otherConsoles s t j.ctx ∧ Touches [.regs, .consoles, .pipes, .streams, .cyc] s t)

/-- A line whose map fetch is refused is drawn in the fallback colour throughout, flagged so, marked for re-render and
counted (R321); a line finished after its deadline is streamed all the same, and counted late (R309); more than 32
inlays on it are counted as a drop (R314). A pipe without a job finishes nothing. -/
def troubledLine : Prop := ∀ (p : Fin 16) (j : ConJob) (s : State),
  (s.pipe p = none → s.mediaOn → s.bit Reg.CON_GLB_CTL 31 = true → Idle (.renderJobDone p) s) ∧
  (jobReady s p j →
    (s.now ≤ j.deadline → s.bit (Reg.IOMMU_ST_CTL 64) 31 = false → bitAt (j.regs.getD 17 0) 31 = false →
      bitAt (j.regs.getD 0 0) 31 = true → bitAt (j.regs.getD 0 0) 30 = false → s.bit (Reg.CON_CTL j.ctx) 27 = true →
      let n := s.fld (Reg.CON_SIZE j.ctx) 10 0
      let fmt := s.fld (Reg.CON_CTL j.ctx) 29 28
      let payload := flatPayload fmt n 0 (s.reg (Reg.CON_FALLBACK j.ctx))
      (s.stream (s.fld (Reg.CON_STREAM_CTL j.ctx) 3 0)).entering = none →
      Does (.renderJobDone p) s fun t => j.line ∈ (t.con j.ctx).marks ∧ t.bit (Reg.CON_STATUS j.ctx) 3 = true ∧
        t.fld (Reg.CON_ERR j.ctx) 31 24 = min 255 (s.fld (Reg.CON_ERR j.ctx) 31 24 + 1) ∧
        (t.stream (s.fld (Reg.CON_STREAM_CTL j.ctx) 3 0)).entering = some
          { ctx := j.ctx, line := j.line, check := crc32 payload, records := [wholeRecord j fmt n true payload] }) ∧
    (j.deadline < s.now → Does (.renderJobDone p) s fun t => t.bit (Reg.CON_STATUS j.ctx) 6 = true ∧
      t.bit Reg.CON_GLB_STATUS 1 = true) ∧
    (bitAt (j.regs.getD 17 0) 31 = true → 32 < ((inlaysOf j.table).filter fun i => i.onLine j.line).length →
      Does (.renderJobDone p) s fun t => t.bit (Reg.CON_STATUS j.ctx) 5 = true))

/-- An inlay lies on a line when it is enabled, its shape is valid, and the line falls within its rows (R313, R314). -/
def inlayOnLine : Prop := ∀ (i : Inlay) (y : Nat),
  let shape := i.i0.toNat / 2 ^ 26 % 4
  let top : Int := if 2048 ≤ i.i1.toNat / 65536 % 4096 then (i.i1.toNat / 65536 % 4096 : Nat) - 4096
    else (i.i1.toNat / 65536 % 4096 : Nat)
  let rows : Int := ((i.i0.toNat / 65536 % 4 + 1) * (if shape = 0 then 8 else if shape = 1 then 16 else 32) : Nat)
  i.onLine y = true ↔ (i.i0.getLsbD 31 = true ∧ shape ≠ 3 ∧ top ≤ y ∧ (y : Int) < top + rows)

/-- The pixel of an enabled layer, its map and its glyph in memory that stream 64 reaches: the cell under the scrolled
point, wrapped to the map; the glyph's bits at the point, mirrored as the cell says; value 0 the cell's bg or clear, any
other its colour (R310 to R312). -/
def layerPixels : Prop := ∀ (ctl map scroll win : Word) (x y : Nat) (s : State),
  ctl.getLsbD 31 = true →
  (ctl.getLsbD 30 = true → win.toNat % 4096 ≤ x ∧ x < win.toNat / 65536 % 4096) →
  let shape := fieldOf ctl 29 28
  let cw := if shape = 2 then 16 else 8
  let ch := if shape = 0 then 8 else if shape = 1 then 16 else 32
  let b := 2 ^ fieldOf ctl 27 26
  let mw := fieldOf ctl 25 18 + 1
  let px := (x + scroll.toNat % 65536) % (mw * cw)
  let py := (y + scroll.toNat / 65536) % ((fieldOf ctl 17 11 + 1) * ch)
  let cell := map.toNat + (py / ch * mw + px / cw) * 8
  let e := s.load cell 8
  let gx := if e.testBit 36 then cw - 1 - px % cw else px % cw
  let gy := if e.testBit 37 then ch - 1 - py % ch else py % ch
  let size := cw * ch * b / 8
  let at_ := (gy * cw + gx) * b
  let glyph := (s.reg Reg.CON_ATLAS_BASE).toNat + e % 65536 * size
  let v := (s.byte (glyph + at_ / 8)).toNat / 2 ^ (at_ % 8) % 2 ^ b
  let colour := if b = 1 then e / 65536 % 256 else if b = 8 then v else (e / 2 ^ 32 % 16 * 16 + v) % 256
  shape ≠ 3 → cell % 8 = 0 → plainLocal s 64 cell 8 →
  ((s.reg Reg.CON_ATLAS_SIZE).toNat < (e % 65536 + 1) * size →
    (layerPixel ctl map scroll win x y { st := s }).1 = (some .fallback, e.testBit 38)) ∧
  ((e % 65536 + 1) * size ≤ (s.reg Reg.CON_ATLAS_SIZE).toNat → plainLocal s 64 (glyph + at_ / 8) 1 →
    (v = 0 → (layerPixel ctl map scroll win x y { st := s }).1 =
      (if e.testBit 39 then none else some (.pal (fieldOf ctl 8 0) (e / 2 ^ 24 % 256)), e.testBit 38)) ∧
    (v ≠ 0 → (layerPixel ctl map scroll win x y { st := s }).1 =
      (some (.pal (fieldOf ctl 8 0) colour), e.testBit 38)))

/-- A line enters its queue while there is room: its record takes the next sequence number, its last word stores the check
value as sent, and the next line of the backlog is up; a full queue or an idle one takes nothing (R316, R317, R319). -/
def lineEnters : Prop := ∀ (q : Fin 16) (x : ConLine) (h : Word) (r : List Word) (s : State), s.mediaOn →
  s.bit (Reg.CON_SQ_CTL q) 31 = true →
  let st := s.stream q
  let seq := s.fld (Reg.CON_SQ_SEQ q) 15 0
  (st.entering = none → Idle (.lineEnterQueue q) s) ∧
  (∀ w ws, st.entering = some x → st.record = some (w :: ws) → 128 ≤ st.words.length → Idle (.lineEnterQueue q) s) ∧
  (st.entering = some x → st.record = none → x.records = [h :: r] → st.words.length + r.length < 128 →
    Does (.lineEnterQueue q) s fun t =>
      t.stream q = { words := st.words ++ BitVec.ofNat 32 (seq * 65536 + h.toNat % 65536) :: r
                     entering := st.backlog.head?, record := none, backlog := st.backlog.tail } ∧
      t.reg (Reg.CON_SQ_SEQ q) = BitVec.ofNat 32 ((seq + 1) % 65536) ∧
      t.reg (Reg.CON_SQ_FILL q) = BitVec.ofNat 32 (st.words.length + r.length + 1) ∧
      tabGet none x.line (t.con x.ctx).stored = some x.check ∧
      (∀ l, l ≠ x.line → tabGet none l (t.con x.ctx).stored = tabGet none l (s.con x.ctx).stored) ∧
      (∀ j, j ≠ q.val → t.stream j = s.stream j) ∧ otherConsoles s t x.ctx ∧
      Keeps s t [Reg.CON_SQ_SEQ q, Reg.CON_SQ_FILL q] ∧ Touches [.regs, .consoles, .streams] s t)

/-- A read pops the oldest word, or zero from an empty queue (R319). -/
def conSqData : Prop := ∀ (w : Requester) (q : Fin 16) (s : State), s.mediaOn →
  ((s.stream q).words = [] → exec (.conSqData w q) s = .next (answer w 0 s)) ∧
  ∀ v r, (s.stream q).words = v :: r → Does (.conSqData w q) s fun t => t.answered w = v ∧
    t.stream q = { s.stream q with words := r } ∧ t.reg (Reg.CON_SQ_FILL q) = BitVec.ofNat 32 r.length ∧
    (∀ j, j ≠ q.val → t.stream j = s.stream j) ∧ Keeps s t [Reg.CON_SQ_FILL q] ∧ Touches [.regs, .streams, .resp] s t

/-- A flush empties the queue and its backlog and marks every line that it discards; the next record takes the next
sequence number, or 0 where the write enables the queue (R319, R320). -/
def streamFlush : Prop := ∀ (q : Fin 16) (v : Word) (s : State), s.mediaOn → Does (.streamFlush q v) s fun t =>
  let st := s.stream q
  t.stream q = {} ∧ t.reg (Reg.CON_SQ_FILL q) = 0 ∧ t.reg (Reg.CON_SQ_CTL q) = v &&& 0x80000000 ∧
  t.reg (Reg.CON_SQ_SEQ q) =
    (if bitAt v 31 = true ∧ s.bit (Reg.CON_SQ_CTL q) 31 = false then 0 else s.reg (Reg.CON_SQ_SEQ q)) ∧
  (∀ x ∈ st.entering.toList ++ st.backlog, x.line ∈ (t.con x.ctx).marks) ∧
  (∀ k l, l ∈ (t.con k).marks → l ∈ (s.con k).marks ∨ ∃ x ∈ st.entering.toList ++ st.backlog, x.ctx = k ∧ x.line = l) ∧
  (∀ j, j ≠ q.val → t.stream j = s.stream j) ∧ Keeps s t [Reg.CON_SQ_CTL q, Reg.CON_SQ_FILL q, Reg.CON_SQ_SEQ q] ∧
  Touches [.regs, .consoles, .streams] s t


/-! ### spec/14: the composer and the display heads -/

/-- The other display head stands in `t` as in `s`. -/
def otherHead (s t : State) (h : Nat) : Prop := ∀ j, j ≠ h → t.head j = s.head j

/-- The registers of R330's frame class and mode class, head `h` with its layers. -/
def latched (h : Nat) (a : Nat) : Prop := a ∈ frameRegs h ∨ a ∈ modeRegs h

/-- A link that is trained and carries the head's pixel rate (R344, R350). -/
def linkCarries (s : State) (h : Nat) : Prop :=
  let w := s.reg (Reg.DP_CTL h)
  let rate := [162, 270, 540, 810, 216, 243, 324, 432].getD (fieldOf w 27 24) 0
  s.bit (Reg.DP_STATUS h) 30 = true ∧
    s.fld (Reg.HD_PCLK h) 19 0 * 3 * (6 + 2 * fieldOf w 23 22) ≤ 2 ^ fieldOf w 29 28 * rate * 8000

/-- A write of enable = 1 copies every shadow to its active copy, clears a pending commit, and starts the video PLL's lock;
without a trained link that carries the pixel rate the head stays disabled with link_err. With enable already 1 only the
register is written. Both need encodings of DP_CTL that the spec lists (R338, R344, R346, R350). -/
def headEnable : Prop := ∀ (h : Fin 2) (v : Word) (s : State), s.composerOn = true →
  let ctl := Reg.HD_CTL h
  let w := (v &&& 0xFEF00000) ||| 0x80000000
  (s.bit ctl 31 = true → Does (.headEnable h v) s fun t => t.reg ctl = w ∧ Keeps s t [ctl] ∧ Touches [.regs, .cyc] s t) ∧
  (s.bit ctl 31 = false → dpListed (s.reg (Reg.DP_CTL h)) = true → linkCarries s h → Does (.headEnable h v) s fun t =>
    t.reg ctl = w ∧ t.bit (Reg.HD_COMMIT h) 31 = false ∧ (∀ a, latched h a → t.act a = t.reg a) ∧
    (∀ a, ¬ latched h a → t.act a = s.act a) ∧ (t.head h).locking = true ∧ otherHead s t h ∧
    Keeps s t [ctl, Reg.HD_COMMIT h] ∧ Touches [.regs, .active, .heads, .cyc] s t) ∧
  (s.bit ctl 31 = false → s.bit (Reg.DP_STATUS h) 30 = false ∨
      (dpListed (s.reg (Reg.DP_CTL h)) = true ∧ ¬ linkCarries s h) → Does (.headEnable h v) s fun t =>
    t.reg ctl = w &&& 0x7FFFFFFF ∧ t.bit (Reg.DP_STATUS h) 8 = true ∧
    Keeps s t [ctl, Reg.DP_STATUS h, groupReg s 2058] ∧ Touches [.regs, .cyc] s t)

/-- A write of enable = 0 stops the head at once, and its spindle is STOPPED; a pending commit is cleared (R338, R339). -/
def headDisable : Prop := ∀ (h : Fin 2) (v : Word) (s : State), s.composerOn = true →
  let ctl := Reg.HD_CTL h
  let n := 136 + h.val
  (s.bit ctl 31 = false → Does (.headDisable h v) s fun t =>
    t.reg ctl = v &&& 0x7EF00000 ∧ Keeps s t [ctl] ∧ Touches [.regs, .cyc] s t) ∧
  (s.bit ctl 31 = true → Does (.headDisable h v) s fun t =>
    t.reg ctl = v &&& 0x7EF00000 ∧ t.fld (Reg.HD_STATUS h) 31 30 = 0 ∧ t.bit (Reg.HD_COMMIT h) 31 = false ∧
    (t.head h).locking = false ∧ (t.spn n).rasterRuns = false ∧
    (s.bit (Reg.SPN_CTRL n) 31 = true → s.fld (Reg.SPN_STATUS n) 31 29 ≠ 6 → t.fld (Reg.SPN_STATUS n) 31 29 = 3) ∧
    otherHead s t h ∧ Touches [.regs, .spindles, .pairs, .groups, .heads, .cyc] s t)

/-- The video PLL's lock starts the timing generator at line 0, dot 0, and the head's spindle resyncs into LOCKED; without
an enable that waits for it nothing starts (R338). -/
def videoPllLock : Prop := ∀ (h : Fin 2) (s : State), s.composerOn = true →
  let n := 136 + h.val
  ((s.head h).locking = false → Idle (.videoPllLock h) s) ∧
  ((s.head h).locking = true → Does (.videoPllLock h) s fun t =>
    (t.head h).locking = false ∧ t.fld (Reg.HD_STATUS h) 31 30 = 1 ∧ (t.spn n).rasterRuns = true ∧
    (t.spn n).rasterStart = s.now ∧ (t.spn n).rasterDots = fieldOf (s.act (Reg.HD_HTIME h)) 28 16 ∧
    (t.spn n).rasterLines = fieldOf (s.act (Reg.HD_VTIME h)) 27 16 ∧
    (s.bit (Reg.SPN_CTRL n) 31 = true → s.fld (Reg.SPN_STATUS n) 31 29 ≠ 6 → t.fld (Reg.SPN_STATUS n) 31 29 = 2) ∧
    otherHead s t h ∧ Touches [.freeCtr, .regs, .sys, .spindles, .pairs, .groups, .heads, .cyc] s t)

/-- commit = 1 sets pending, and is absorbed while pending (R339). -/
def hdCommit : Prop := ∀ (h : Fin 2) (v : Word) (s : State), s.composerOn = true →
  (bitAt v 0 = true → Does (.hdCommit h v) s fun t => t.bit (Reg.HD_COMMIT h) 31 = true ∧ Keeps s t [Reg.HD_COMMIT h] ∧
    Touches [.regs] s t) ∧
  (bitAt v 0 = false → Idle (.hdCommit h v) s)

/-- Did the frame that this latch ends hold a commit, a live line, or write-back (R343)? -/
def frameBusy (s : State) (h : Nat) : Prop :=
  s.bit (Reg.HD_COMMIT h) 31 = true ∨ (∃ x ∈ s.liveLines, x.1 = h) ∨ bitAt (s.act (Reg.HD_CTL h)) 30 = true

/-- The commit latch of a running head: vblank; and where a commit is pending, flip, and every frame-class shadow becomes
active, while mode registers keep their active copies. Nothing else becomes active (R330, R339). Where no frame that
could enter self-refresh is asked for, the head's state stays. A head that is off has no latch. The events and counts of
a head whose registers are not valid are open (R40, R338). -/
def commitLatch : Prop := ∀ (h : Fin 2) (s : State), s.composerOn = true →
  let st := s.fld (Reg.HD_STATUS h) 31 30
  let pend := s.bit (Reg.HD_COMMIT h) 31
  (st = 0 → Idle (.commitLatch h) s) ∧
  (st ≠ 0 → Does (.commitLatch h) s fun t =>
    (t.headBad h = false → t.bit (Reg.HD_STATUS h) 1 = true ∧
      t.bit (Reg.HD_STATUS h) 2 = (s.bit (Reg.HD_STATUS h) 2 || pend) ∧
      t.reg (Reg.HD_UNDERRUN h) = s.reg (Reg.HD_UNDERRUN h) ∧ t.reg (Reg.HD_SU h) = s.reg (Reg.HD_SU h)) ∧
    t.bit (Reg.HD_COMMIT h) 31 = false ∧
    (pend = true → ∀ a ∈ frameRegs h, t.act a = s.reg a) ∧ (∀ a, pend = false ∨ a ∉ frameRegs h → t.act a = s.act a) ∧
    (∀ x, x.1 ≠ h.val → (x ∈ t.liveLines ↔ x ∈ s.liveLines)) ∧ otherHead s t h ∧
    Keeps s t [Reg.HD_STATUS h, Reg.HD_COMMIT h, Reg.DP_STATUS h, Reg.HD_UNDERRUN h, Reg.HD_SU h,
      groupReg s (2056 + h), groupReg s 2058] ∧
    Touches [.freeCtr, .regs, .liveLines, .active, .heads, .cyc] s t) ∧
  (st = 1 → s.bit (Reg.DP_CTL h) 30 = false → Does (.commitLatch h) s fun t => t.fld (Reg.HD_STATUS h) 31 30 = 1)

/-- Self-refresh: with psr_en active on an eDP link, a latch that ends psr_frames frames without a reason to stay enters it,
with psr_change, or, where the panel reports no such capability, sets psr_refused and stays running. A latch with a commit
or with write-back makes the head leave it with a whole update; the exit ends it, with psr_change and the count of frames
begun anew, and after live lines alone the update region of psr2 (R343). -/
def selfRefreshPanel : Prop := ∀ (h : Fin 2) (s : State), s.composerOn = true →
  let st := s.fld (Reg.HD_STATUS h) 31 30
  let pend := s.bit (Reg.HD_COMMIT h) 31
  let psr (t : State) : Word := if pend then t.reg (Reg.HD_PSR_CTL h) else t.act (Reg.HD_PSR_CTL h)
  let lines := (s.liveLines.filter fun x => decide (x.1 = h.val)).map (·.2)
  (st = 1 → s.bit (Reg.DP_CTL h) 30 = true → bitAt (psr s) 31 = true → fieldOf (psr s) 7 0 ≠ 0 → ¬ frameBusy s h →
    fieldOf (psr s) 7 0 ≤ (s.head h).idleFrames + 1 →
    ((s.head h).psrCap = true → Does (.commitLatch h) s fun t => t.fld (Reg.HD_STATUS h) 31 30 = 2 ∧
      (t.headBad h = false → t.bit (Reg.HD_STATUS h) 4 = true) ∧ (t.head h).wholeUpdate = false) ∧
    ((s.head h).psrCap = false → Does (.commitLatch h) s fun t => t.fld (Reg.HD_STATUS h) 31 30 = 1 ∧
      t.bit (Reg.DP_STATUS h) 9 = true)) ∧
  (st = 1 → frameBusy s h → fieldOf (psr s) 7 0 ≠ 0 → Does (.commitLatch h) s fun t =>
    t.fld (Reg.HD_STATUS h) 31 30 = 1 ∧ (t.head h).idleFrames = 0) ∧
  (st = 2 ∨ st = 3 → pend = true ∨ bitAt (s.act (Reg.HD_CTL h)) 30 = true → Does (.commitLatch h) s fun t =>
    t.fld (Reg.HD_STATUS h) 31 30 = 3 ∧ (t.head h).wholeUpdate = true) ∧
  (st ≠ 3 → Idle (.psrExit h) s) ∧
  (st = 3 → Does (.psrExit h) s fun t =>
    t.fld (Reg.HD_STATUS h) 31 30 = 1 ∧ t.bit (Reg.HD_STATUS h) 4 = true ∧ (t.head h).idleFrames = 0 ∧
    (∀ x ∈ t.liveLines, x.1 ≠ h.val) ∧ otherHead s t h ∧
    (bitAt (s.act (Reg.HD_PSR_CTL h)) 30 = true → (s.head h).wholeUpdate = false → lines ≠ [] →
      (s.head h).suCap = true → 0 < (s.head h).suGran → (∀ y ∈ lines, y < 4096 - (s.head h).suGran) →
      let g := (s.head h).suGran
      let su := t.reg (Reg.HD_SU h)
      fieldOf su 27 16 % g = 0 ∧ (fieldOf su 11 0 + 1) % g = 0 ∧
      (∀ y ∈ lines, fieldOf su 27 16 ≤ y ∧ y ≤ fieldOf su 11 0) ∧
      (∃ y ∈ lines, y < fieldOf su 27 16 + g) ∧ (∃ y ∈ lines, fieldOf su 11 0 < y + g)) ∧
    (bitAt (s.act (Reg.HD_PSR_CTL h)) 30 = true → (s.head h).wholeUpdate = false → (s.head h).suCap = false →
      t.bit (Reg.DP_STATUS h) 9 = true) ∧
    ((s.head h).wholeUpdate = true ∨ bitAt (s.act (Reg.HD_PSR_CTL h)) 30 = false →
      t.reg (Reg.HD_SU h) = s.reg (Reg.HD_SU h)) ∧
    Keeps s t [Reg.HD_STATUS h, Reg.DP_STATUS h, Reg.HD_SU h, groupReg s (2056 + h), groupReg s 2058] ∧
    Touches [.regs, .liveLines, .heads, .cyc] s t)

/-- The fill of layer `l`'s share: what its last refill left, less what its drain took since (R340). -/
def shareFill (s : State) (h l : Nat) : Nat :=
  let b := tabGet {} l (s.head h).bufs
  b.fill - (s.now - b.filledAt) * s.drainOf h l / drainCycles

/-- A layer of a running head at or below refill_wm sixteenths of its share fetches until the share is full (R340). -/
def layerRefill : Prop := ∀ (h : Fin 2) (l : Fin 8) (s : State), s.composerOn = true →
  let b := tabGet {} l.val (s.head h).bufs
  let w := fieldOf (s.act (Reg.HD_CTL h)) 23 20
  let due := s.fld (Reg.HD_STATUS h) 31 30 = 1 ∧ bitAt (s.act (Reg.LY_CTL h l)) 31 = true ∧
    shareFill s h l * 16 ≤ (if w = 0 then 1 else w) * b.share
  (due → Does (.layerRefill h l) s fun t => shareFill t h l = b.share ∧
    (∀ m, m ≠ l.val → tabGet {} m (t.head h).bufs = tabGet {} m (s.head h).bufs) ∧
    t.head h = { s.head h with bufs := (t.head h).bufs } ∧ otherHead s t h ∧ Touches [.heads] s t) ∧
  (¬ due → Idle (.layerRefill h l) s)

/-- An underrun draws the rest of the line in HD_FILL and is counted; a failed fetch draws the affected pixels so, with
fetch_fault and, for a stream that is off, its fault record. A head that does not run, or a disabled layer, has neither
(R289, R341). -/
def layerTrouble : Prop := ∀ (h : Fin 2) (l : Fin 8) (y x n : BitVec 13) (addr : Word) (s : State), s.composerOn = true →
  let runs := s.fld (Reg.HD_STATUS h) 31 30 = 1 ∧ bitAt (s.act (Reg.LY_CTL h l)) 31 = true
  let drawn (m : Nat) : Head := { s.head h with fills := (l.val, y.toNat, x.toNat, m) :: (s.head h).fills }
  (¬ runs → Idle (.underrun h l y x) s ∧ Idle (.layerFetchFault h l y x n addr) s) ∧
  (runs → Does (.underrun h l y x) s fun t =>
    t.bit (Reg.HD_STATUS h) 5 = true ∧ t.head h = drawn (x.toNat + (fieldOf (s.act (Reg.HD_HTIME h)) 11 0 - x.toNat)) ∧
    (t.reg (Reg.HD_UNDERRUN h)).toNat = min 0xFFFFFFFF ((s.reg (Reg.HD_UNDERRUN h)).toNat + 1) ∧ otherHead s t h ∧
    Keeps s t [Reg.HD_STATUS h, Reg.HD_UNDERRUN h, groupReg s (2056 + h)] ∧ Touches [.regs, .heads, .cyc] s t) ∧
  (runs → Does (.layerFetchFault h l y x n addr) s fun t =>
    t.bit (Reg.HD_STATUS h) 6 = true ∧ t.head h = drawn (x.toNat + n.toNat) ∧ otherHead s t h ∧
    t.reg (Reg.HD_UNDERRUN h) = s.reg (Reg.HD_UNDERRUN h) ∧ Touches [.freeCtr, .regs, .heads, .iotlb, .cyc] s t)

/-- A write-back line in which no layer shows is HD_BG in the chosen format, at HD_WB_ADDR + line · HD_WB_PITCH, and no
other byte changes; the line before the blanking sets wb_done. A line that is late, or whose stream is off, is dropped
with wb_drop. Without output_mode 1, or for a line that is not active, nothing is written (R337, R342). -/
def writeBackLine : Prop := ∀ (h : Fin 2) (y : BitVec 12) (s : State), s.composerOn = true →
  let ctl := s.act (Reg.HD_CTL h)
  let n := fieldOf (s.act (Reg.HD_HTIME h)) 11 0
  let a := (s.act (Reg.HD_WB_ADDR h)).toNat + y.toNat * (s.act (Reg.HD_WB_PITCH h)).toNat
  let bg := s.act (Reg.HD_BG h)
  let eight (c : Nat) : Nat := (2 * c * 255 + 1023) / 2046
  let pixel : Word := if bitAt ctl 29 then (bg &&& 0x3FFFFFFF) ||| 0xC0000000
    else toWord (0xFF000000 + eight (fieldOf bg 29 20) * 65536 + eight (fieldOf bg 19 10) * 256 + eight (fieldOf bg 9 0))
  let active := s.fld (Reg.HD_STATUS h) 31 30 ≠ 0 ∧ bitAt ctl 30 = true ∧ y.toNat < fieldOf (s.act (Reg.HD_VTIME h)) 11 0
  let plain := s.headBad h = false ∧ ∀ l < 8, bitAt (s.act (Reg.LY_CTL h l)) 31 = false
  let done (t : State) : Prop :=
    t.bit (Reg.HD_STATUS h) 3 = (s.bit (Reg.HD_STATUS h) 3 || decide (y.toNat + 1 = fieldOf (s.act (Reg.HD_VTIME h)) 11 0))
  (∀ late, ¬ active → Idle (.writeBackLine h y late) s) ∧
  (active → plain → plainLocal s (65 + 8 * h) a (4 * n) → mayWrite s a (4 * n) → a % 4 = 0 → Does (.writeBackLine h y false) s fun t =>
    (∀ x < n, t.word (a + 4 * x) = pixel) ∧ (∀ b, b < a ∨ a + 4 * n ≤ b → t.byte b = s.byte b) ∧ done t ∧
    t.bit (Reg.HD_STATUS h) 7 = s.bit (Reg.HD_STATUS h) 7 ∧ Keeps s t [Reg.HD_STATUS h, groupReg s (2056 + h)] ∧
    Touches [.regs, .cores, .mem, .cyc] s t) ∧
  (active → plain → Does (.writeBackLine h y true) s fun t => t.bit (Reg.HD_STATUS h) 7 = true ∧ done t ∧
    Keeps s t [Reg.HD_STATUS h, groupReg s (2056 + h)] ∧ Touches [.regs, .cyc] s t) ∧
  (active → plain → n ≠ 0 → s.bit (Reg.IOMMU_ST_CTL (65 + 8 * h)) 31 = false → Does (.writeBackLine h y false) s fun t =>
    t.bit (Reg.HD_STATUS h) 7 = true ∧ done t ∧ (∀ b, t.byte b = s.byte b)) ∧
  (∀ late, active → ∃ t, exec (.writeBackLine h y late) s = .next t ∧
    Touches [.freeCtr, .regs, .plate, .cores, .iotlb, .mem, .poison, .checks, .cyc] s t)

/-- Each product of the blend is rounded to the nearest value and each result clamped to 1023 (R337). -/
def blending : Prop := ∀ (premult : Bool) (alpha : Nat) (src dst : Argb), alpha ≤ 1023 →
  src.a ≤ 1023 → src.r ≤ 1023 → src.g ≤ 1023 → src.b ≤ 1023 → dst.r ≤ 1023 → dst.g ≤ 1023 → dst.b ≤ 1023 →
  let near (x y p : Nat) : Prop := 2 * x * y ≤ 2046 * p + 1023 ∧ 2046 * p ≤ 2 * x * y + 1023
  let t := blendOver premult alpha src dst
  ∃ a, near src.a alpha a ∧ ∀ c ∈ [(src.r, dst.r, t.r), (src.g, dst.g, t.g), (src.b, dst.b, t.b)],
    ∃ p q, (premult = true → p = c.1) ∧ (premult = false → near c.1 a p) ∧ near c.2.1 (1023 - a) q ∧ c.2.2 = min 1023 (p + q)

/-- An 8-bit component widens by its own top bits, and so do 5 and 6 bits (R332). -/
def widening : Prop := ∀ c < 256, widen8 c = ((c <<< 2) ||| (c >>> 6)) ∧ (c < 32 → widen5 c = ((c <<< 5) ||| c)) ∧
  (c < 64 → widen6 c = ((c <<< 4) ||| (c >>> 2)))

/-- DP_CTL with train: the link is trained, its panel's abilities kept, or train_fail leaves it untrained; without link_en
or without train nothing is trained (R345, R350). -/
def linkTrain : Prop := ∀ (h : Fin 2) (v : Word) (psr su : Bool) (g : BitVec 8) (s : State), s.composerOn = true →
  let dp := Reg.DP_STATUS h
  (bitAt v 31 = true → bitAt v 0 = true → Does (.linkTrain h v true psr su g) s fun t =>
    t.reg (Reg.DP_CTL h) = v &&& 0xFFC00000 ∧ t.bit dp 30 = true ∧ t.fld dp 29 0 = s.fld dp 29 0 ∧ t.bit dp 31 = s.bit dp 31 ∧
    t.head h = { s.head h with psrCap := psr, suCap := su, suGran := g.toNat } ∧ otherHead s t h ∧
    Keeps s t [Reg.DP_CTL h, dp] ∧ Touches [.regs, .heads, .cyc] s t) ∧
  (bitAt v 31 = true → bitAt v 0 = true → Does (.linkTrain h v false psr su g) s fun t =>
    t.reg (Reg.DP_CTL h) = v &&& 0xFFC00000 ∧ t.bit dp 30 = false ∧ t.bit dp 7 = true ∧ t.bit dp 31 = s.bit dp 31 ∧
    Keeps s t [Reg.DP_CTL h, dp, groupReg s 2058] ∧ Touches [.regs, .cyc] s t) ∧
  (∀ ok, bitAt v 31 = false → Does (.linkTrain h v ok psr su g) s fun t =>
    t.reg (Reg.DP_CTL h) = v &&& 0xFFC00000 ∧ t.bit dp 30 = false ∧ t.fld dp 29 0 = s.fld dp 29 0 ∧
    Keeps s t [Reg.DP_CTL h, dp] ∧ Touches [.regs, .cyc] s t) ∧
  (∀ ok, bitAt v 31 = true → bitAt v 0 = false → Does (.linkTrain h v ok psr su g) s fun t =>
    t.reg (Reg.DP_CTL h) = v &&& 0xFFC00000 ∧ Keeps s t [Reg.DP_CTL h] ∧ Touches [.regs, .cyc] s t)

/-- The hot-plug wire: a plug, an unplug that disables the link while the head runs on, and an interrupt pulse (R345). -/
def hotPlug : Prop := ∀ (h : Fin 2) (s : State), s.composerOn = true →
  let dp := Reg.DP_STATUS h
  let beside (t : State) : Prop := Keeps s t [dp, groupReg s 2058] ∧ Touches [.regs, .cyc] s t
  (Does (.hpdPlug h) s fun t => t.reg dp = s.reg dp ||| 0x80000001 ∧ beside t) ∧
  (Does (.hpdUnplug h) s fun t => t.bit dp 31 = false ∧ t.bit dp 30 = false ∧ t.bit dp 1 = true ∧
    t.bit (Reg.DP_CTL h) 31 = false ∧ t.fld (Reg.DP_CTL h) 30 0 = s.fld (Reg.DP_CTL h) 30 0 ∧
    Keeps s t [dp, Reg.DP_CTL h, groupReg s 2058] ∧ Touches [.regs, .cyc] s t) ∧
  (Does (.irqHpd h) s fun t => t.reg dp = s.reg dp ||| 4 ∧ beside t)

/-- An AUX transaction: the command starts one unless one runs; its reply ends it with aux_done and a read's bytes in
DP_AUX_DATA, a NACK at once, a DEFER or a timeout after 7 and 3 retries (R345, R346). Which commands read is the model's
choice of bit 28, since the spec leaves the coding to the standard (log entry 22). -/
def auxTransaction : Prop := ∀ (h : Fin 2) (v : Word) (bs : List Byte) (s : State), s.composerOn = true →
  let x := s.head h
  let dp := Reg.DP_STATUS h
  let ended (t : State) (ev : Nat) : Prop := t.head h = { x with aux := none } ∧ t.bit dp ev = true ∧ otherHead s t h
  let beside (t : State) : Prop := Keeps s t [dp, groupReg s 2058] ∧ Touches [.regs, .heads, .cyc] s t
  (x.aux = none → exec (.dpAuxCmd h v) s =
    .next (s.setHead h { x with aux := some (v &&& 0xF00FFFFF), auxTries := 0, auxDefers := 0 })) ∧
  (x.aux ≠ none → Idle (.dpAuxCmd h v) s) ∧
  (x.aux = none → ∀ r, Idle (.auxReply h r) s ∧ Idle (.auxTimeout h) s) ∧
  (∀ w, x.aux = some w →
    (Does (.auxReply h (.ack bs)) s fun t => ended t 3 ∧
      (bitAt w 28 = false → beside t) ∧
      (bitAt w 28 = true → bs.length = s.fld (Reg.DP_AUX_LEN h) 3 0 + 1 →
        (∀ i (b : Byte), bs[i]? = some b → t.fld (Reg.DP_AUX_DATA h (i / 4)) (i % 4 * 8 + 7) (i % 4 * 8) = b.toNat) ∧
        (∀ i, bs.length ≤ i → i < 16 → t.fld (Reg.DP_AUX_DATA h (i / 4)) (i % 4 * 8 + 7) (i % 4 * 8) =
          s.fld (Reg.DP_AUX_DATA h (i / 4)) (i % 4 * 8 + 7) (i % 4 * 8)) ∧
        Keeps s t [dp, groupReg s 2058, Reg.DP_AUX_DATA h 0, Reg.DP_AUX_DATA h 1, Reg.DP_AUX_DATA h 2, Reg.DP_AUX_DATA h 3] ∧
        Touches [.regs, .heads, .cyc] s t)) ∧
    (Does (.auxReply h .nack) s fun t => ended t 6 ∧ beside t) ∧
    (x.auxDefers < 7 → exec (.auxReply h .defer) s = .next (s.setHead h { x with auxDefers := x.auxDefers + 1 })) ∧
    (7 ≤ x.auxDefers → Does (.auxReply h .defer) s fun t => ended t 5 ∧ beside t) ∧
    (x.auxTries < 3 → exec (.auxTimeout h) s = .next (s.setHead h { x with auxTries := x.auxTries + 1 })) ∧
    (3 ≤ x.auxTries → Does (.auxTimeout h) s fun t => ended t 4 ∧ beside t))


/-! ### spec/15: the 2D mover -/

/-- A read of MV_SUBMIT queues the requester's staged command and returns its number, or fails with PARTED or QUEUE_FULL
and queues nothing (R352). -/
def mvSubmit : Prop := ∀ (q : Requester) (s : State), s.mediaOn →
  let st := s.fld Reg.MV_STATUS 31 29
  let n := s.mover.nextNumber
  (st = 4 → exec (.mvSubmit q) s = .next (answer q 0x80000002 s)) ∧
  (st ≠ 4 → 16 ≤ s.mover.queue.length → exec (.mvSubmit q) s = .next (answer q 0x80000001 s)) ∧
  (st ≠ 4 → s.mover.queue.length < 16 → n < 65536 → Does (.mvSubmit q) s fun t =>
    t.answered q = toWord n ∧ (t.mover.nextNumber = if n = 65535 then 0 else n + 1) ∧
    (∃ w, t.mover.queue = s.mover.queue ++ [(n, w)] ∧ w.length = 18 ∧ ∀ i < 18, w[i]? = some (s.reg (ownKey q (Reg.MV_CMD i)))) ∧
    t.mover.job = s.mover.job ∧ (t.reg Reg.MV_QUEUE_FILL).toNat = s.mover.queue.length + 1 ∧ Keeps s t [Reg.MV_QUEUE_FILL] ∧
    Touches [.regs, .resp, .mover] s t)

/-- The command that starts a job of each op. -/
def startOf (op : Nat) (i : Instr) : Prop := (op, i) ∈ [(0, Instr.copy), (1, .fill), (2, .blend), (3, .keyfill)]

/-- An idle mover starts the first queued job, under the command of the job's op; while a job runs, waits or has stopped
the mover, or where the first job has another op, nothing starts (R352, R356). A queued job with an unlisted op, whose
results are undefined, starts under any of the commands: the model's choice (log entry 42). -/
def moverJobs : Prop := ∀ (op : Nat) (i : Instr) (s : State), startOf op i → s.mediaOn → s.bit Reg.MV_CTL 31 = true →
  let st := s.fld Reg.MV_STATUS 31 29
  (st ≠ 0 → Idle i s) ∧
  (st = 0 → ∀ n w r, s.mover.queue = (n, w) :: r →
    (fieldOf (w.getD 0 0) 31 28 = op ∨ 4 ≤ fieldOf (w.getD 0 0) 31 28 → n < 65536 → Does i s fun t =>
      t.fld Reg.MV_STATUS 31 29 = 1 ∧ t.mover = { s.mover with queue := r, job := some (n, w), kept := [] } ∧
      (t.reg Reg.MV_JOB).toNat = n ∧ t.reg Reg.MV_ROWS = 0 ∧ (t.reg Reg.MV_QUEUE_FILL) = toWord r.length ∧
      Keeps s t [Reg.MV_STATUS, Reg.MV_JOB, Reg.MV_ROWS, Reg.MV_QUEUE_FILL] ∧ Touches [.regs, .mover] s t) ∧
    (fieldOf (w.getD 0 0) 31 28 < 4 → fieldOf (w.getD 0 0) 31 28 ≠ op → Idle i s)) ∧
  (s.mover.queue = [] → Idle i s)

/-- The bytes of a pixel in the job's format (R351). -/
def pixelBytes (w : List Word) : Nat := [1, 2, 4, 4].getD (fieldOf (w.getD 0 0) 23 22) 4

/-- The address of column `c` of row `r` of the destination, and of the source (R351, R352). -/
def dstPixel (w : List Word) (r c : Nat) : Nat :=
  let f := fieldOf (w.getD 4 0) 28 16
  fieldOf (w.getD 3 0) 23 16 * 2 ^ 32 + (w.getD 1 0).toNat + (fieldOf (w.getD 5 0) 29 16 + r) * ((if f = 0 then 4096 else f) * 64) +
    (fieldOf (w.getD 5 0) 13 0 + c) * pixelBytes w
def srcPixel (w : List Word) (r c : Nat) : Nat :=
  let f := fieldOf (w.getD 4 0) 12 0
  fieldOf (w.getD 3 0) 31 24 * 2 ^ 32 + (w.getD 2 0).toNat + (fieldOf (w.getD 6 0) 29 16 + r) * ((if f = 0 then 4096 else f) * 64) +
    (fieldOf (w.getD 6 0) 13 0 + c) * pixelBytes w

/-- The size of the job's rectangle, and the row of its step `i` (R352, R355). -/
def wide (w : List Word) : Nat := fieldOf (w.getD 7 0) 13 0 + 1
def high (w : List Word) : Nat := fieldOf (w.getD 7 0) 29 16 + 1
def rowOf (w : List Word) (i : Nat) : Nat := if bitAt (w.getD 0 0) 20 then high w - 1 - i else i

/-- COPY and BLEND read a source (R352). -/
def hasSource (w : List Word) : Prop := fieldOf (w.getD 0 0) 31 28 = 0 ∨ fieldOf (w.getD 0 0) 31 28 = 2

/-- The destination pixel in column `c` of row `r` passes the clip rectangles (R354). -/
def passes (w : List Word) (r c : Nat) : Prop :=
  let x := fieldOf (w.getD 5 0) 13 0 + c
  let y := fieldOf (w.getD 5 0) 29 16 + r
  fieldOf (w.getD 0 0) 19 16 = 0 ∨ ∃ i < 4, bitAt (w.getD 0 0) (16 + i) = true ∧
    fieldOf (w.getD (10 + 2 * i) 0) 13 0 ≤ x ∧ x ≤ fieldOf (w.getD (11 + 2 * i) 0) 13 0 ∧
    fieldOf (w.getD (10 + 2 * i) 0) 29 16 ≤ y ∧ y ≤ fieldOf (w.getD (11 + 2 * i) 0) 29 16

/-- The job breaks no rule of R351 and R352. -/
def soundJob (w : List Word) : Prop :=
  let bpp := pixelBytes w
  let pitch (f : Nat) : Nat := (if f = 0 then 4096 else f) * 64
  fieldOf (w.getD 0 0) 31 28 < 4 ∧ fieldOf (w.getD 0 0) 14 8 = 0 ∧ (w.getD 1 0).toNat % bpp = 0 ∧
    pitch (fieldOf (w.getD 4 0) 28 16) ≤ 262144 ∧ (hasSource w → pitch (fieldOf (w.getD 4 0) 12 0) ≤ 262144) ∧
    (fieldOf (w.getD 5 0) 13 0 + wide w) * bpp ≤ pitch (fieldOf (w.getD 4 0) 28 16) ∧
    (hasSource w → (w.getD 2 0).toNat % bpp = 0 ∧ (fieldOf (w.getD 6 0) 13 0 + wide w) * bpp ≤ pitch (fieldOf (w.getD 4 0) 12 0)) ∧
    (fieldOf (w.getD 0 0) 31 28 = 2 → 2 ≤ fieldOf (w.getD 0 0) 23 22)

/-- R355 leaves the destination pixel in column `c` of row `r` open: on one surface with a direction against the table,
where it lies in the source rectangle; on two, where its bytes meet the source's. -/
def leftOpen (w : List Word) (r c : Nat) : Prop :=
  let dx := fieldOf (w.getD 5 0) 13 0
  let dy := fieldOf (w.getD 5 0) 29 16
  let sx := fieldOf (w.getD 6 0) 13 0
  let sy := fieldOf (w.getD 6 0) 29 16
  let a := dstPixel w r c
  let one := w.getD 1 0 = w.getD 2 0 ∧ fieldOf (w.getD 3 0) 23 16 = fieldOf (w.getD 3 0) 31 24 ∧
    (fieldOf (w.getD 4 0) 28 16 = fieldOf (w.getD 4 0) 12 0 ∨
      (fieldOf (w.getD 4 0) 28 16 % 4096 = 0 ∧ fieldOf (w.getD 4 0) 12 0 % 4096 = 0))
  let yDesc := bitAt (w.getD 0 0) 20
  let xDesc := bitAt (w.getD 0 0) 21
  let allowed := (dy < sy → yDesc = false) ∧ (sy < dy → yDesc = true) ∧
    (dy = sy → (dx < sx → xDesc = false) ∧ (sx < dx → xDesc = true))
  hasSource w ∧
    ((one ∧ ¬ allowed ∧ sx ≤ dx + c ∧ dx + c < sx + wide w ∧ sy ≤ dy + r ∧ dy + r < sy + high w) ∨
     (¬ one ∧ ∃ y < high w, srcPixel w y 0 < a + pixelBytes w ∧ a < srcPixel w y 0 + wide w * pixelBytes w))

/-- The byte at `a` before the running job wrote there, where the job overwrites its own source; else as it is. -/
def beforeJob (s : State) (a : Nat) : Byte := ((s.mover.kept.find? fun x => decide (x.1 = a)).map (·.2)).getD (s.byte a)

/-- The pixel that the bytes of `f` from `a` on spell. -/
def pixelAt (f : Nat → Byte) (n a : Nat) : Nat := ofLeBytes ((List.range n).map fun i => f (a + i))

/-- `p` is the new value of a destination pixel `d` under source pixel `v` (R353). -/
def becomes (w : List Word) (v d p : Nat) : Prop :=
  let w0 := w.getD 0 0
  let op := fieldOf w0 31 28
  let rop := fieldOf w0 27 24
  let n := 8 * pixelBytes w
  let colour := (w.getD 8 0).toNat % 2 ^ n
  let bits (x : Nat) : Prop := p < 2 ^ n ∧ ∀ k < n, p.testBit k = rop.testBit (2 * (x.testBit k).toNat + (d.testBit k).toNat)
  let cw := if fieldOf w0 23 22 = 2 then 8 else 10
  let am := if fieldOf w0 23 22 = 2 then 255 else 3
  let num := v / 2 ^ (3 * cw) * fieldOf w0 7 0
  let nearest (sc dc out : Nat) : Prop := 2 * (sc * num + dc * (am * 255 - num)) ≤ 2 * (am * 255) * out + am * 255 ∧
    2 * (am * 255) * out ≤ 2 * (sc * num + dc * (am * 255 - num)) + am * 255
  (op = 0 → bits v) ∧ (op = 1 → bits colour) ∧
  (op = 2 → p < 2 ^ 32 ∧ nearest am (d / 2 ^ (3 * cw)) (p / 2 ^ (3 * cw)) ∧
    ∀ k < 3, nearest (v / 2 ^ (k * cw) % 2 ^ cw) (d / 2 ^ (k * cw) % 2 ^ cw) (p / 2 ^ (k * cw) % 2 ^ cw)) ∧
  (op = 3 → p = if d = (w.getD 9 0).toNat % 2 ^ n then colour else d)

/-- The job's rows of this step lie in core memory that stream 81 reaches untranslated. -/
def rowLocal (s : State) (w : List Word) (r : Nat) : Prop :=
  plainLocal s 81 (dstPixel w r 0) (wide w * pixelBytes w) ∧ (hasSource w → plainLocal s 81 (srcPixel w r 0) (wide w * pixelBytes w))

/-- One row of a running job: each drawn pixel takes the value that R353 gives it from the source and the destination
before the job, but for the pixels that R355 leaves open; nothing else in memory changes; the source as it was before
the job stays known to it; MV_ROWS counts the row, and the last one ends the job, with job_done where it has irq (R351 to
R356, R359). -/
def moverRow : Prop := ∀ (s : State) (n : Nat) (w : List Word), s.mediaOn → s.bit Reg.MV_CTL 31 = true →
  s.fld Reg.MV_STATUS 31 29 = 1 → s.mover.job = some (n, w) →
  let i := (s.reg Reg.MV_ROWS).toNat
  let r := rowOf w i
  let bpp := pixelBytes w
  i < high w → soundJob w → rowLocal s w r → mayWrite s (dstPixel w r 0) (wide w * bpp) → Does .moverRow s fun t =>
    (∀ c < wide w, passes w r c → ¬ leftOpen w r c →
      becomes w (pixelAt (beforeJob s) bpp (srcPixel w r c)) (pixelAt s.byte bpp (dstPixel w r c)) (pixelAt t.byte bpp (dstPixel w r c))) ∧
    (∀ a, (∀ c < wide w, passes w r c → a < dstPixel w r c ∨ dstPixel w r c + bpp ≤ a) → t.byte a = s.byte a) ∧
    (t.reg Reg.MV_ROWS).toNat = i + 1 ∧
    (i + 1 < high w → t.fld Reg.MV_STATUS 31 29 = 1 ∧ t.mover.job = some (n, w) ∧
      (hasSource w → ∀ y < high w, ∀ b < wide w * bpp, beforeJob t (srcPixel w y 0 + b) = beforeJob s (srcPixel w y 0 + b)) ∧
      Keeps s t [Reg.MV_ROWS]) ∧
    (i + 1 = high w → t.fld Reg.MV_STATUS 31 29 = 0 ∧ t.mover.job = none ∧
      t.bit Reg.MV_STATUS 0 = (s.bit Reg.MV_STATUS 0 || bitAt (w.getD 0 0) 15) ∧
      Keeps s t [Reg.MV_ROWS, Reg.MV_STATUS, Reg.MV_QUEUE_FILL, groupReg s 2064]) ∧
    t.mover.queue = s.mover.queue ∧ t.mover.nextNumber = s.mover.nextNumber ∧
    Touches [.freeCtr, .regs, .cores, .mover, .mem, .cyc] s t

/-- A row that fails: a refused access of its checks suspends the job before the row, with fault and the address, and
writes nothing; a bus error ends the job with error, stopped, the queue held and, with irq, job_done. No job, or a mover
that does not run, moves nothing (R356, R359). -/
def moverRowFails : Prop := ∀ (s : State), s.mediaOn → s.bit Reg.MV_CTL 31 = true →
  (s.mover.job = none ∨ s.fld Reg.MV_STATUS 31 29 ≠ 1 → Idle .moverRow s) ∧
  ∀ (n : Nat) (w : List Word) (c : Nat), s.fld Reg.MV_STATUS 31 29 = 1 → s.mover.job = some (n, w) →
    let r := rowOf w (s.reg Reg.MV_ROWS).toNat
    c < wide w → passes w r c → (∀ d < c, ¬ passes w r d) →
    (s.bit (Reg.IOMMU_ST_CTL 81) 31 = false →
      let a := if fieldOf (w.getD 0 0) 31 28 = 0 ∨ fieldOf (w.getD 0 0) 31 28 = 2 then srcPixel w r c else dstPixel w r c
      Does .moverRow s fun t => t.fld Reg.MV_STATUS 31 29 = 2 ∧ t.bit Reg.MV_STATUS 2 = true ∧ t.mover = s.mover ∧
        t.reg Reg.MV_FADDR_LO = toWord a ∧ (t.reg Reg.MV_FADDR_HI).toNat = a / 2 ^ 32 % 256 ∧
        Keeps s t [Reg.MV_STATUS, Reg.MV_FADDR_LO, Reg.MV_FADDR_HI, groupReg s 2064] ∧ Touches [.regs, .cyc] s t) ∧
    (s.bit (Reg.IOMMU_ST_CTL 81) 31 = true → s.bit (Reg.IOMMU_ST_CTL 81) 30 = false → ¬ s.dramOn →
      fieldOf (w.getD 0 0) 31 28 = 1 → fieldOf (w.getD 0 0) 27 24 = 0xC →
      (∀ d < wide w, ∀ b < pixelBytes w, (s.region none (dstPixel w r d + b)).1 = .dram) →
      dstPixel w r (wide w) ≤ 2 ^ 40 → Does .moverRow s fun t =>
        t.fld Reg.MV_STATUS 31 29 = 3 ∧ t.bit Reg.MV_STATUS 3 = true ∧
        t.bit Reg.MV_STATUS 0 = (s.bit Reg.MV_STATUS 0 || bitAt (w.getD 0 0) 15) ∧ t.mover.job = none ∧
        t.mover.queue = s.mover.queue ∧ t.mem = s.mem ∧ t.reg Reg.MV_ROWS = s.reg Reg.MV_ROWS ∧
        t.reg Reg.MV_FADDR_LO = toWord (dstPixel w r c))

/-- The strobes of MV_CTL: suspend stops a running job at this row boundary, resume continues it after MV_ROWS, restart
leaves the stopped state, flush empties the queue and ends the job without job_done; each does nothing in another state
(R356, R358). -/
def moverStrobes : Prop := ∀ (v : Word) (s : State), s.mediaOn → s.aborting 5 0 = false →
  let st := s.fld Reg.MV_STATUS 31 29
  let w := v &&& 0xFFFFFFF0
  let ctl (t : State) : Prop := t.reg Reg.MV_CTL = v &&& 0x80000000
  let same := s.bit Reg.MV_CTL 31 = true ∧ bitAt v 31 = true
  same → st ≠ 4 →
  (Does (.moverSuspend w) s fun t => ctl t ∧ t.mover = s.mover ∧ t.fld Reg.MV_STATUS 31 29 = (if st = 1 then 2 else st) ∧
    t.bit Reg.MV_STATUS 1 = (s.bit Reg.MV_STATUS 1 || decide (st = 1)) ∧
    Keeps s t [Reg.MV_CTL, Reg.MV_STATUS, groupReg s 2064] ∧ Touches [.regs, .cyc] s t) ∧
  (Does (.moverResume w) s fun t => ctl t ∧ t.mover = s.mover ∧ t.fld Reg.MV_STATUS 31 29 = (if st = 2 then 1 else st) ∧
    t.fld Reg.MV_STATUS 28 0 = s.fld Reg.MV_STATUS 28 0 ∧ Keeps s t [Reg.MV_CTL, Reg.MV_STATUS] ∧ Touches [.regs, .cyc] s t) ∧
  (Does (.moverRestart w) s fun t => ctl t ∧ t.mover = s.mover ∧ t.fld Reg.MV_STATUS 31 29 = (if st = 3 then 0 else st) ∧
    t.fld Reg.MV_STATUS 28 0 = s.fld Reg.MV_STATUS 28 0 ∧ Keeps s t [Reg.MV_CTL, Reg.MV_STATUS] ∧ Touches [.regs, .cyc] s t) ∧
  (Does (.moverFlush w) s fun t => ctl t ∧ t.mover = { s.mover with queue := [], job := none, kept := [] } ∧
    t.fld Reg.MV_STATUS 31 29 = (if st = 1 ∨ st = 2 then 0 else st) ∧ t.fld Reg.MV_STATUS 28 0 = s.fld Reg.MV_STATUS 28 0 ∧
    t.reg Reg.MV_QUEUE_FILL = 0 ∧ Keeps s t [Reg.MV_CTL, Reg.MV_STATUS, Reg.MV_QUEUE_FILL] ∧ Touches [.regs, .mover, .cyc] s t)

/-- Enabling restarts the job numbers at 0; a parted mover is left by enable 0 and then 1, with an empty queue (R356,
R358). -/
def moverEnable : Prop := ∀ (v : Word) (s : State), s.mediaOn → s.aborting 5 0 = false →
  let st := s.fld Reg.MV_STATUS 31 29
  let w := v &&& 0xFFFFFFF0
  (st = 0 → s.bit Reg.MV_CTL 31 = false → bitAt v 31 = true → Does (.moverResume w) s fun t =>
    t.bit Reg.MV_CTL 31 = true ∧ t.mover = { s.mover with nextNumber := 0 } ∧ t.fld Reg.MV_STATUS 31 29 = 0) ∧
  (st = 4 → bitAt v 31 = false → Does (.moverResume w) s fun t => t.bit Reg.MV_CTL 31 = false ∧
    t.mover.sawDisable = true ∧ t.fld Reg.MV_STATUS 31 29 = 4) ∧
  (st = 4 → bitAt v 31 = true → s.mover.sawDisable = false → Does (.moverRestart w) s fun t =>
    t.fld Reg.MV_STATUS 31 29 = 4) ∧
  (st = 4 → bitAt v 31 = true → s.mover.sawDisable = true → Does (.moverRestart w) s fun t =>
    t.fld Reg.MV_STATUS 31 29 = 0 ∧ t.mover = {} ∧ t.bit Reg.MV_CTL 31 = true)


/-! ### spec/16: audio and acoustic paths -/

/-- The block runs: media island, audio PLL, enable (R360, R372). -/
def audioRuns (s : State) : Prop := s.mediaOn ∧ s.sys.audioPll = true ∧ s.bit Reg.AUD_CTL 31 = true

/-- The instances that feed bus `b`, each with its linear gain ramp (R367, R368). -/
def feeds (s : State) (b : Nat) : List RtInst :=
  (s.audio.routes.flatMap fun r => r.2.inst.toList ++ r.2.fade.toList).filter fun i => decide (i.bus = b)

/-- The source's sample within its own domain; a bus gives its sum of the previous sample (R362 to R367). -/
def sourceSample (s : State) (i : RtInst) : Int :=
  match i.kind with
  | 0 => (s.voice (i.src % 32)).out
  | 1 => tabGet 0 (i.src % 16) s.audio.pdm
  | 2 => tabGet 0 i.src s.audio.tdm2
  | 3 => tabGet 0 (i.src % 8) s.audio.carrier
  | _ => (s.bus (i.src % 16)).sum

/-- `z` is a product with the instance's present gain, the linear ramp between first and last in units of 1 / 4,096, to
either neighbour of an inexact value; the spec gives no rounding (R367, R368, log entry 23). -/
def ramped (i : RtInst) (v z : Int) : Prop :=
  let len : Int := i.len
  let num : Int := if i.len = 0 then i.last else i.first * len + ((i.last : Int) - i.first) * (min i.done i.len : Nat)
  let den : Int := if i.len = 0 then 1 else len
  z * (4096 * den) - v * num < 4096 * den ∧ v * num - z * (4096 * den) < 4096 * den

/-- A listed source in the bus's own domain, with ramp ends in range: its share needs no bridge (R367, R374). -/
def unbridged (s : State) (i : RtInst) : Prop :=
  i.src < [32, 16, 64, 8, 16].getD i.kind 0 ∧ s.srcDomain i.kind i.src = s.fld (Reg.AUD_BUS_CTL i.bus) 30 29 ∧ i.done ≤ i.len

/-- A sample of D48 or D192: the domain counts it; every enabled bus of the domain sums its routes' previous source
samples, each by its present gain, and saturates with bus_clip; every ramp into the domain moves one sample on; no other
domain's bus or counter moves, but for a bus of the unlisted domain 3, which is open; without the block's clock or enable
nothing happens (R360, R362, R367 to R369). -/
def busSums : Prop := ∀ (d : Fin 2) (pdm : List (BitVec 24)) (tdm : List Word) (s : State),
  (¬ audioRuns s → Idle (.domainSample d pdm tdm) s) ∧
  (audioRuns s → Does (.domainSample d pdm tdm) s fun t =>
    t.reg (Reg.AUD_SAMPLES d) = s.reg (Reg.AUD_SAMPLES d) + 1 ∧
    (∀ e, e ≠ d.val → e < 3 → t.reg (Reg.AUD_SAMPLES e) = s.reg (Reg.AUD_SAMPLES e)) ∧
    (∀ b < 16, s.bit (Reg.AUD_BUS_CTL b) 31 = true → s.fld (Reg.AUD_BUS_CTL b) 30 29 = d.val →
      (∀ i ∈ feeds s b, unbridged s i) → ∃ zs, List.Forall₂ (fun i z => ramped i (sourceSample s i) z) (feeds s b) zs ∧
        (t.bus b).sum = max (-2 ^ 31) (min (2 ^ 31 - 1) zs.sum) ∧ ((t.bus b).sum ≠ zs.sum → t.bit Reg.AUD_STATUS 4 = true)) ∧
    (∀ b < 16, s.bit (Reg.AUD_BUS_CTL b) 31 = false ∨ s.fld (Reg.AUD_BUS_CTL b) 30 29 ∉ [d.val, 3] → t.bus b = s.bus b ∧
      t.reg (Reg.AUD_BUS_PEAK b) = s.reg (Reg.AUD_BUS_PEAK b) ∧ t.reg (Reg.AUD_BUS_RMS b) = s.reg (Reg.AUD_BUS_RMS b)) ∧
    (∀ r, (t.route r).inst = (s.route r).inst.map (fun i =>
      if s.fld (Reg.AUD_BUS_CTL i.bus) 30 29 = d.val then { i with done := min i.len (i.done + 1) } else i)) ∧
    Touches [.freeCtr, .regs, .audio, .checks, .cyc] s t)

/-- The bus meters: the peak rises at once and, without a read, falls to the present magnitude when the hold time ends;
the root mean square of a listed window stands at the window's end, rounded to a neighbour (R370, log entry 23). -/
def busMeters : Prop := ∀ (d : Fin 2) (pdm : List (BitVec 24)) (tdm : List Word) (s : State), audioRuns s →
  ∀ b < 16, s.bit (Reg.AUD_BUS_CTL b) 31 = true → s.fld (Reg.AUD_BUS_CTL b) 30 29 = d.val →
  let x := (s.bus b).meter
  let old := (s.reg (Reg.AUD_BUS_PEAK b)).toNat
  let hold := (if d.val = 0 then 48 else 192) * s.fld Reg.AUD_MTR_CTL 15 0
  let n := 2 ^ s.fld Reg.AUD_MTR_CTL 19 16
  Does (.domainSample d pdm tdm) s fun t =>
    let m := (t.bus b).sum.natAbs
    (t.reg (Reg.AUD_BUS_PEAK b)).toNat = (if old ≤ m ∨ hold ≤ x.age + 1 then m else old) ∧
    (6 ≤ s.fld Reg.AUD_MTR_CTL 19 16 → x.count + 1 < n → t.reg (Reg.AUD_BUS_RMS b) = s.reg (Reg.AUD_BUS_RMS b) ∧ (t.bus b).meter.sum = x.sum + m * m ∧
      (t.bus b).meter.count = x.count + 1) ∧
    (6 ≤ s.fld Reg.AUD_MTR_CTL 19 16 → x.count + 1 = n → x.sum + m * m < n * 2 ^ 62 → (t.bus b).meter.sum = 0 ∧ (t.bus b).meter.count = 0 ∧
      (let r := (t.reg (Reg.AUD_BUS_RMS b)).toNat
       ∃ u v : Nat, u ≤ r ∧ r ≤ v ∧ v ≤ u + 1 ∧ u * u * n ≤ x.sum + m * m ∧ x.sum + m * m ≤ v * v * n))

/-- Output `o` is the only enabled one of its domain that feeds capture queue `q`. -/
def ownsQueue (s : State) (o q : Nat) : Prop := ∀ p < 16, p ≠ o → s.bit (Reg.AUD_OUT_CTL p) 31 = true →
  s.bit (Reg.AUD_OUT_CTL p) 22 = true → s.fld (Reg.AUD_OUT_CTL p) 18 16 ≠ q

/-- An enabled output takes its bus's previous sum, saturated to full scale with out_clip, and with its limiter off passes
it on, a sample after its last one; a capture queue takes the word, or drops it with cq_overflow when it holds 64; a parted output sends zero and
captures nothing; a limiter that has nothing to lower gives the sum of 32 samples before (R369, R371, R372). -/
def outputs : Prop := ∀ (d : Fin 2) (pdm : List (BitVec 24)) (tdm : List Word) (o : Nat) (s : State), audioRuns s → o < 16 →
  let w := s.reg (Reg.AUD_OUT_CTL o)
  let b := fieldOf w 29 26
  let x := s.audOut o
  let q := fieldOf w 18 16
  let l := tabGet [] q s.audio.queues
  let full (z : Int) : Int := max (-2 ^ 23) (min (2 ^ 23 - 1) z)
  let misrouted := if bitAt w 22 = true then 8 ≤ fieldOf w 21 16
    else (s.bit (Reg.TDM_CTL (fieldOf w 21 16 / 16)) 28).toNat ≠ s.fld (Reg.AUD_BUS_CTL b) 30 29
  (bitAt w 31 = false ∨ s.fld (Reg.AUD_BUS_CTL b) 30 29 ≠ d.val → Does (.domainSample d pdm tdm) s fun t => t.audOut o = x) ∧
  (bitAt w 31 = true → s.fld (Reg.AUD_BUS_CTL b) 30 29 = d.val → x.parted = false → ¬ misrouted → bitAt w 30 = false →
    Does (.domainSample d pdm tdm) s fun t => (t.audOut o).value = full (s.bus b).sum ∧ (t.audOut o).before = x.value ∧
      (full (s.bus b).sum ≠ (s.bus b).sum → t.bit Reg.AUD_STATUS 3 = true) ∧
      (bitAt w 22 = true → ownsQueue s o q → l.length < 64 →
        tabGet [] q t.audio.queues = l ++ [intWord (full (s.bus b).sum)] ∧ (t.reg (Reg.AUD_CQ_FILL q)).toNat = l.length + 1) ∧
      (bitAt w 22 = true → ownsQueue s o q → 64 ≤ l.length → tabGet [] q t.audio.queues = l ∧ t.bit Reg.AUD_STATUS 2 = true)) ∧
  (bitAt w 31 = true → s.fld (Reg.AUD_BUS_CTL b) 30 29 = d.val → x.parted = true → Does (.domainSample d pdm tdm) s fun t =>
    (t.audOut o).value = 0 ∧ (ownsQueue s o q → tabGet [] q t.audio.queues = l)) ∧
  (bitAt w 31 = true → s.fld (Reg.AUD_BUS_CTL b) 30 29 = d.val → x.parted = false → ¬ misrouted → bitAt w 30 = true →
    Does (.domainSample d pdm tdm) s fun t =>
      let thr : Int := s.fld (Reg.AUD_OUT_LIM o) 31 16 * 256
      ((s.bus b).sum.natAbs ≤ thr → x.hot ≤ 1 → (t.audOut o).value = full (x.line.getD 31 0)) ∧
      (thr < (s.bus b).sum.natAbs → -thr ≤ (t.audOut o).value ∧ (t.audOut o).value ≤ thr))

/-- The pickups: a PDM input gives its decimated sample, or zero while its clock group is lost and for 32 samples after; a
TDM input slot of an enabled, synchronous port of the domain, left-justified to 24 bits, reaches the second stage one
sample later (R362, R364, R365, R371). -/
def pickups : Prop := ∀ (pdm : List (BitVec 24)) (tdm : List Word) (s : State), audioRuns s → pdm.length = 16 → tdm.length = 64 →
  (Does (.domainSample 1 pdm tdm) s fun t => ∀ m : Fin 16, tabGet 0 m.val t.audio.pdm =
    if s.audio.pdmLost.getLsbD (m / 4) = true ∨ tabGet 0 (m.val / 4) s.audio.pdmDiscard ≠ 0 then 0 else (pdm.getD m 0).toInt) ∧
  ∀ (d : Fin 2) (i : Nat), i < 64 →
    let p := i / 16
    let w := s.reg (Reg.TDM_CTL p)
    let width := 16 + 8 * fieldOf w 23 22
    let moves := bitAt w 31 = true ∧ s.audio.tdmLost.getLsbD p = false ∧ i % 16 ≤ fieldOf w 27 24 ∧
      s.bit (Reg.TDM_DIR p) (i % 16) = false
    Does (.domainSample d pdm tdm) s fun t =>
      ((bitAt w 28).toNat ≠ d.val → tabGet 0 i t.audio.tdm1 = tabGet 0 i s.audio.tdm1 ∧ tabGet 0 i t.audio.tdm2 = tabGet 0 i s.audio.tdm2) ∧
      ((bitAt w 28).toNat = d.val → tabGet 0 i t.audio.tdm2 = tabGet 0 i s.audio.tdm1 ∧
        (¬ moves → tabGet 0 i t.audio.tdm1 = 0) ∧
        (moves → width ≤ 32 → (if bitAt w 28 then 192 else 48) * (fieldOf w 27 24 + 1) * width ≤ 24576 →
          tabGet 0 i t.audio.tdm1 = signedOf 24 ((tdm.getD i 0).toNat % 2 ^ width * 2 ^ 24 / 2 ^ width)))

/-- A voice's 16-bit sample `i` in the voice RAM. -/
def ramSample (s : State) (i : Nat) : Int := signedOf 16 (fieldOf (s.reg (Reg.AUD_VRAM (i % 65536 / 2))) (i % 2 * 16 + 15) (i % 2 * 16))

/-- A voice that plays: it gives the interpolated sample by its envelope in Q9.23, to either neighbour, and moves on by
VC_INC; past the end it stays within its loop, or becomes idle with voice_end. An idle voice gives nothing (R362, R363,
log entry 23). -/
def voices : Prop := ∀ (pdm : List (BitVec 24)) (tdm : List Word) (v : Nat) (s : State), audioRuns s → v < 32 →
  let x := s.voice v
  let len := if s.fld (Reg.VC_LEN v) 15 0 = 0 then 65536 else s.fld (Reg.VC_LEN v) 15 0
  let start := s.fld (Reg.VC_ADDR v) 15 0
  let i := x.place / 2 ^ 24
  let f : Int := (x.place % 2 ^ 24 : Nat)
  let next := x.place + (s.reg (Reg.VC_INC v)).toNat
  (x.stage = 0 → Does (.domainSample 0 pdm tdm) s fun t => t.voice v = x) ∧
  (x.stage ≠ 0 → i + 1 < len → s.poison = [] → next < len * 2 ^ 24 → x.done + 1 < x.len →
    Does (.domainSample 0 pdm tdm) s fun t =>
      (let num := (ramSample s (start + i) * (2 ^ 24 - f) + ramSample s (start + i + 1) * f) * (x.level : Int)
       let out := (t.voice v).out
       out * 2 ^ 40 - num < 2 ^ 40 ∧ num - out * 2 ^ 40 < 2 ^ 40) ∧
      (t.voice v).place = next ∧ (t.voice v).stage = x.stage ∧ (t.voice v).done = x.done + 1 ∧
      ((x.first : Int) ≤ x.last → x.first ≤ (t.voice v).level ∧ (t.voice v).level ≤ x.last) ∧
      ((x.last : Int) ≤ x.first → x.last ≤ (t.voice v).level ∧ (t.voice v).level ≤ x.first)) ∧
  (x.stage ≠ 0 → len * 2 ^ 24 ≤ next → s.bit (Reg.VC_CTL v) 29 = false → Does (.domainSample 0 pdm tdm) s fun t =>
    (t.voice v).stage = 0 ∧ t.bit Reg.AUD_STATUS 0 = true) ∧
  (x.stage ≠ 0 → len * 2 ^ 24 ≤ next → s.bit (Reg.VC_CTL v) 29 = true → x.done + 1 < x.len →
    (s.fld (Reg.VC_ADDR v) 31 16 + 65536 - start) % 65536 < len → Does (.domainSample 0 pdm tdm) s fun t =>
      (t.voice v).stage = x.stage ∧ (s.fld (Reg.VC_ADDR v) 31 16 + 65536 - start) % 65536 * 2 ^ 24 ≤ (t.voice v).place ∧
      (t.voice v).place < len * 2 ^ 24)

/-- The envelope's stages: attack ends at 1 and enters decay, decay ends at sustain / 255 and holds, release ends at 0 and
ends the voice with voice_end (R363, R373). -/
def envelope : Prop := ∀ (pdm : List (BitVec 24)) (tdm : List Word) (v : Nat) (s : State), audioRuns s → v < 32 →
  let x := s.voice v
  let len := if s.fld (Reg.VC_LEN v) 15 0 = 0 then 65536 else s.fld (Reg.VC_LEN v) 15 0
  let sustain := s.fld (Reg.VC_ENV v) 15 8 * 2 ^ 24 / 255
  x.place + (s.reg (Reg.VC_INC v)).toNat < len * 2 ^ 24 → x.len ≤ x.done + 1 →
  (x.stage = 1 → Does (.domainSample 0 pdm tdm) s fun t => (t.voice v).stage = 2 ∧ (t.voice v).last = sustain ∧
    (t.voice v).first = x.last ∧ (t.voice v).len = 48 * s.fld (Reg.VC_ENV v) 23 16 ∧ (t.voice v).done = 0) ∧
  (x.stage = 2 → Does (.domainSample 0 pdm tdm) s fun t => (t.voice v).stage = 3 ∧ (t.voice v).level = x.last) ∧
  (x.stage = 3 → Does (.domainSample 0 pdm tdm) s fun t => (t.voice v).stage = 3 ∧ (t.voice v).level = x.level) ∧
  (x.stage = 4 → Does (.domainSample 0 pdm tdm) s fun t => (t.voice v).stage = 0 ∧ (t.voice v).out = 0 ∧
    t.bit Reg.AUD_STATUS 0 = true)

/-- Keys: key_on restarts the attack from the present level, key_off starts release from it, both together act as key_on
(R363). That key_on restarts at the sample's start is the model's reading. -/
def keys : Prop := ∀ (v : Fin 32) (w : Word) (s : State), s.mediaOn →
  let x := s.voice v
  let env := s.reg (Reg.VC_ENV v)
  let attack : Voice := { x with
    stage := 1, place := 0, first := x.level, last := 2 ^ 24, len := 48 * fieldOf env 31 24, done := 0
    level := if fieldOf env 31 24 = 0 then 2 ^ 24 else x.level }
  let release : Voice := { x with
    stage := 4, first := x.level, last := 0, len := 48 * fieldOf env 7 0, done := 0
    level := if fieldOf env 7 0 = 0 then 0 else x.level }
  let others (t : State) : Prop := t.reg (Reg.VC_CTL v) = w &&& 0x20000000 ∧ (∀ u, u ≠ v.val → t.voice u = s.voice u) ∧
    Keeps s t [Reg.VC_CTL v] ∧ Touches [.regs, .audio] s t
  (Does (.keyOn v w) s fun t => t.voice v = attack ∧ others t) ∧
  (bitAt w 31 = true → Does (.keyOff v w) s fun t => t.voice v = attack ∧ others t) ∧
  (bitAt w 31 = false → x.stage ≠ 0 → x.stage ≠ 4 → Does (.keyOff v w) s fun t => t.voice v = release ∧ others t) ∧
  (bitAt w 31 = false → x.stage = 0 ∨ x.stage = 4 → Does (.keyOff v w) s fun t => t.voice v = x ∧ others t)

/-- A qualifying period event: the rate is measured, good periods of an armed group are counted; a group that is not armed,
or a period out of range, loses the domain; unless it is lost it takes a sample, of which each carrier input takes its
channel's value, zero with car_in_bad for a bad one (R360 to R362, R366). -/
def carrierSamples : Prop := ∀ (s : State),
  let on := audioRuns s ∧ s.bit Reg.AUD_CAR_CTL 31 = true
  let g := s.fld Reg.AUD_CAR_CTL 20 16
  let fails := s.fld (Reg.PWM_GRP_STATUS g) 31 30 ≠ 2 ∨
    ∃ u, s.audio.lastEvent = some u ∧ (s.now - u < 7500 ∨ 75000 < s.now - u)
  (¬ on → Idle .carrierSample s) ∧
  (on → Does .carrierSample s fun t => t.audio.lastEvent = some s.now ∧
    (∀ u, s.audio.lastEvent = some u → u < s.now →
      (1500000000 * 256 / (s.now - u) < 2 ^ 32 → (t.reg Reg.AUD_CAR_RATE).toNat = 1500000000 * 256 / (s.now - u)) ∧
      (7500 ≤ s.now - u → s.now - u ≤ 75000 → s.fld (Reg.PWM_GRP_STATUS g) 31 30 = 2 → t.audio.good = s.audio.good + 1)) ∧
    (g < 24 → fails → t.audio.good = 0) ∧ Touches [.freeCtr, .regs, .audio, .cyc] s t) ∧
  (on → s.audio.carLost = true → Does .carrierSample s fun t => (∀ i, tabGet 0 i t.audio.carrier = 0) ∧
    t.audio.carLost = true ∧ t.reg (Reg.AUD_SAMPLES 2) = s.reg (Reg.AUD_SAMPLES 2)) ∧
  (on → s.audio.carLost = false → g < 24 → fails → Does .carrierSample s fun t => t.audio.carLost = true ∧
    t.bit Reg.AUD_STATUS 9 = true ∧ (∀ i, tabGet 0 i t.audio.carrier = 0) ∧
    t.reg (Reg.AUD_SAMPLES 2) = s.reg (Reg.AUD_SAMPLES 2)) ∧
  (on → s.audio.carLost = false → g < 24 → ¬ fails → Does .carrierSample s fun t => t.audio.carLost = false ∧
    t.reg (Reg.AUD_SAMPLES 2) = s.reg (Reg.AUD_SAMPLES 2) + 1 ∧ ∀ i < 8,
      let w := s.reg (Reg.AUD_CAR_IN i)
      let c := fieldOf w 8 0
      let v := s.reg (Reg.CH_VALUE (c / 64) (c % 64))
      (bitAt w 31 = false → tabGet 0 i t.audio.carrier = 0) ∧
      (bitAt w 31 = true → c < 384 → bitAt v 31 = true → bitAt v 30 = false → bitAt v 29 = false →
        tabGet 0 i t.audio.carrier = if bitAt v 26 then signedOf 16 v.toNat * 256 else ((fieldOf v 15 0 : Int) - 8192) * 1024) ∧
      (bitAt w 31 = true → c < 384 → bitAt v 31 = false ∨ bitAt v 30 = true ∨ bitAt v 29 = true →
        tabGet 0 i t.audio.carrier = 0 ∧ t.bit Reg.AUD_STATUS 8 = true))

/-- The carrier domain's loss sets car_lost and leaves zeros on its inputs, buses and outputs; it recovers after 16 good
periods (R361, R375). -/
def carrierLoss : Prop := ∀ (s : State), audioRuns s →
  (s.bit Reg.AUD_CAR_CTL 31 = false → Idle .carrierLost s) ∧
  (s.bit Reg.AUD_CAR_CTL 31 = true → Does .carrierLost s fun t => t.audio.carLost = true ∧ t.audio.good = 0 ∧
    t.bit Reg.AUD_STATUS 9 = true ∧ (∀ i, tabGet 0 i t.audio.carrier = 0) ∧
    (∀ b < 16, (t.bus b).sum = if s.fld (Reg.AUD_BUS_CTL b) 30 29 = 2 then 0 else (s.bus b).sum) ∧
    t.audio.routes = s.audio.routes ∧ t.audio.voices = s.audio.voices ∧
    Keeps s t [Reg.AUD_STATUS, groupReg s 2080] ∧ Touches [.regs, .audio, .cyc] s t) ∧
  (16 ≤ s.audio.good → exec .carrierRecover s = .next { s with audio := { s.audio with carLost := false } }) ∧
  (s.audio.good < 16 → Idle .carrierRecover s)

/-- The PDM wire: a lost input clock silences its group, with pdm_clk_lost, until it returns and 32 samples have been
discarded; a group that the device clocks cannot lose it; a constant input is flagged (R364, R373, R375). -/
def pdmWire : Prop := ∀ (g : Fin 4) (m : Fin 16) (s : State), audioRuns s →
  (s.bit Reg.AUD_CTL g = false → Idle (.pdmClkLost g) s) ∧
  (s.bit Reg.AUD_CTL g = true → Does (.pdmClkLost g) s fun t => (∀ j < 4, t.audio.pdmLost.getLsbD j =
      (s.audio.pdmLost.getLsbD j || decide (j = g.val))) ∧ t.bit Reg.AUD_PDM_STAT g = true ∧ t.bit Reg.AUD_STATUS 7 = true ∧
    Keeps s t [Reg.AUD_PDM_STAT, Reg.AUD_STATUS, groupReg s 2080] ∧ Touches [.regs, .audio, .cyc] s t) ∧
  (s.audio.pdmLost.getLsbD g = false → Idle (.pdmClkReturn g) s) ∧
  (s.audio.pdmLost.getLsbD g = true → Does (.pdmClkReturn g) s fun t => (∀ j < 4, t.audio.pdmLost.getLsbD j =
      (s.audio.pdmLost.getLsbD j && decide (j ≠ g.val))) ∧ tabGet 0 g.val t.audio.pdmDiscard = 32 ∧
    (∀ j, j ≠ g.val → tabGet 0 j t.audio.pdmDiscard = tabGet 0 j s.audio.pdmDiscard) ∧ Touches [.audio] s t) ∧
  (Does (.pdmStuck m) s fun t => t.bit Reg.AUD_PDM_STAT (16 + m) = true ∧ t.bit Reg.AUD_STATUS 6 = true ∧
    Keeps s t [Reg.AUD_PDM_STAT, Reg.AUD_STATUS, groupReg s 2080] ∧ Touches [.regs, .cyc] s t)

/-- A slave TDM port loses its frame, resumes, and slips; a master port or a disabled one has none of these (R365, R373). -/
def tdmWire : Prop := ∀ (p : Fin 4) (s : State),
  let slave := audioRuns s ∧ s.bit (Reg.TDM_CTL p) 31 = true ∧ s.bit (Reg.TDM_CTL p) 30 = false
  let st := Reg.TDM_STATUS p
  (¬ slave → Idle (.tdmSyncLost p) s ∧ Idle (.tdmResume p) s ∧ Idle (.tdmSlip p) s) ∧
  (slave → Does (.tdmSyncLost p) s fun t => (∀ j < 4, t.audio.tdmLost.getLsbD j = (s.audio.tdmLost.getLsbD j || decide (j = p.val))) ∧
    t.reg st = s.reg st ||| 2 ∧ Keeps s t [st, groupReg s (2081 + p)] ∧ Touches [.regs, .audio, .cyc] s t) ∧
  (slave → s.audio.tdmLost.getLsbD p = false → Idle (.tdmResume p) s) ∧
  (slave → s.audio.tdmLost.getLsbD p = true → Does (.tdmResume p) s fun t =>
    (∀ j < 4, t.audio.tdmLost.getLsbD j = (s.audio.tdmLost.getLsbD j && decide (j ≠ p.val))) ∧ t.reg st = s.reg st ||| 1 ∧
    Keeps s t [st, groupReg s (2081 + p)] ∧ Touches [.regs, .audio, .cyc] s t) ∧
  (slave → Does (.tdmSlip p) s fun t => t.reg st = s.reg st ||| 4 ∧
    (t.reg (Reg.TDM_SLIPS p)).toNat = min 0xFFFFFFFF ((s.reg (Reg.TDM_SLIPS p)).toNat + 1) ∧
    Keeps s t [st, Reg.TDM_SLIPS p, groupReg s (2081 + p)] ∧ Touches [.regs, .cyc] s t)

/-- The bridges in use: one for each source that some route carries into another domain (R367). -/
def bridgesInUse (s : State) : List (Nat × Nat × Nat) := s.bridges

/-- A read of AUD_RT_APPLY applies the requester's staged route by the table of R368: a gain change ramps from the present
gain; a route switched on ramps up from 0; one switched off ramps down to be released; a changed source or bus crossfades,
a crossfade under way is cut with xfade_cut, and its bridge is free to the new one; without a bridge or a fade slot, or on a parted route, nothing changes and
the code says why (R367, R368, R372, R374). -/
def routeApply : Prop := ∀ (q : Requester) (s : State), s.mediaOn →
  let g0 := s.reg (ownKey q Reg.AUD_RT_STG0)
  let g1 := s.reg (ownKey q Reg.AUD_RT_STG1)
  let r := fieldOf g0 6 0
  let x := s.route r
  let bus := fieldOf g0 23 20
  let rate := [48, 192].getD (s.fld (Reg.AUD_BUS_CTL bus) 30 29) 0
  let n := if s.fld (Reg.AUD_BUS_CTL bus) 30 29 < 2 then rate * (fieldOf g1 8 0 + 1)
    else max 1 ((s.reg Reg.AUD_CAR_RATE).toNat * (fieldOf g1 8 0 + 1) / 256000)
  let fresh : RtInst := { kind := fieldOf g0 30 28, src := fieldOf g0 13 8, bus := bus, first := 0, last := fieldOf g1 31 16, len := n }
  let moved (i : RtInst) (g : Nat) : RtInst := { i with first := i.gain, last := g, len := n, done := 0 }
  let applied (y : Route) : Prop := exec (.audRtApply q) s = .next (answer q 0 (s.setRoute r y))
  let refused (v : Word) : Prop := exec (.audRtApply q) s = .next (answer q v s)
  let fitsBeside (u : State) := s.bridgeOf fresh = none ∨ (∃ b ∈ bridgesInUse u, s.bridgeOf fresh = some b) ∨
    (bridgesInUse u).length < 16
  let fits := fitsBeside s
  let uncut := s.setRoute r { x with fade := none }
  let slots := (s.audio.routes.filter fun y => y.2.fade.isSome).length
  (x.parted = false → x.inst = none → bitAt g0 31 = true → fits → applied { x with inst := some fresh, releasing := false, sawDisable := false }) ∧
  (x.parted = false → x.inst = none → bitAt g0 31 = true → ¬ fits → refused 0x80000001) ∧
  (x.parted = false → x.inst = none → bitAt g0 31 = false → refused 0) ∧
  (∀ i, x.parted = false → x.inst = some i →
    (bitAt g0 31 = false → applied { x with inst := some (moved i 0), releasing := true }) ∧
    (bitAt g0 31 = true → i.kind = fresh.kind → i.src = fresh.src → i.bus = bus →
      applied { x with inst := some (moved i (fieldOf g1 31 16)), releasing := false }) ∧
    (bitAt g0 31 = true → ¬ (i.kind = fresh.kind ∧ i.src = fresh.src ∧ i.bus = bus) →
      (¬ fitsBeside uncut → refused 0x80000001) ∧
      (fitsBeside uncut → x.fade = none → 32 ≤ slots → refused 0x80000002) ∧
      (fitsBeside uncut → x.fade = none → slots < 32 → applied { x with inst := some fresh, fade := some (moved i 0), releasing := false }) ∧
      (fitsBeside uncut → x.fade ≠ none → Does (.audRtApply q) s fun t => t.answered q = 0 ∧ t.bit Reg.AUD_STATUS 5 = true ∧
        t.route r = { x with inst := some fresh, fade := some (moved i 0), releasing := false } ∧
        (∀ p, p ≠ r → t.route p = s.route p) ∧ Keeps s t [Reg.AUD_STATUS, groupReg s 2080]))) ∧
  (x.parted = true → bitAt g0 31 = false → applied { x with sawDisable := true }) ∧
  (x.parted = true → bitAt g0 31 = true → x.sawDisable = false → refused 0x80000003) ∧
  (x.parted = true → bitAt g0 31 = true → x.sawDisable = true → fits → applied { inst := some fresh })

/-- The end of a ramp frees the fade slot of an ended crossfade and releases a route that has faded out; a ramp that still
runs frees nothing (R368). -/
def rampDone : Prop := ∀ (r : Fin 128) (s : State), s.mediaOn → Does (.rampDone r) s fun t =>
  let x := s.route r
  let y := t.route r
  (∀ f, x.fade = some f → y.fade = if f.len ≤ f.done then none else some f) ∧ (x.fade = none → y.fade = none) ∧
  (∀ i, x.inst = some i → x.releasing = true → i.len ≤ i.done → y.inst = none ∧ y.releasing = false) ∧
  (x.releasing = false ∨ (∀ i, x.inst = some i → i.done < i.len) → y.inst = x.inst ∧ y.releasing = x.releasing) ∧
  y.parted = x.parted ∧ (∀ p, p ≠ r.val → t.route p = s.route p) ∧ Touches [.audio] s t

/-- Reads with an effect: AUD_CQ_DATA pops its queue, zero from an empty one; a peak meter gives its peak and restarts from
the present sample (R369, R370, R373). -/
def audioReads : Prop := ∀ (q : Requester) (k : Fin 8) (n : Fin 16) (s : State), s.mediaOn →
  (tabGet [] k.val s.audio.queues = [] → exec (.audCqData q k) s = .next (answer q 0 s)) ∧
  (∀ w r, tabGet [] k.val s.audio.queues = w :: r → Does (.audCqData q k) s fun t => t.answered q = w ∧
    tabGet [] k.val t.audio.queues = r ∧ (∀ j, j ≠ k.val → tabGet [] j t.audio.queues = tabGet [] j s.audio.queues) ∧
    t.reg (Reg.AUD_CQ_FILL k) = toWord r.length ∧ Keeps s t [Reg.AUD_CQ_FILL k] ∧ Touches [.regs, .resp, .audio] s t) ∧
  (Does (.peakMeterRead q false n) s fun t => t.answered q = s.reg (Reg.AUD_BUS_PEAK n) ∧
    t.reg (Reg.AUD_BUS_PEAK n) = toWord (s.bus n).sum.natAbs ∧ (t.bus n).sum = (s.bus n).sum ∧ (t.bus n).meter.age = 0 ∧
    Keeps s t [Reg.AUD_BUS_PEAK n] ∧ Touches [.regs, .resp, .audio] s t) ∧
  (Does (.peakMeterRead q true n) s fun t => t.answered q = s.reg (Reg.AUD_OUT_PEAK n) ∧
    t.reg (Reg.AUD_OUT_PEAK n) = toWord (s.audOut n).value.natAbs ∧ (t.audOut n).value = (s.audOut n).value ∧
    Keeps s t [Reg.AUD_OUT_PEAK n] ∧ Touches [.regs, .resp, .audio] s t)


/-! ### spec/17: host ports, chucks and the abort engines -/

/-- The owner codes of R401. -/
def ownerCode (q : Requester) : Option Nat :=
  match q with
  | .portA => some 1
  | .portB => some 2
  | .tailstock => some 3
  | .core n => some (16 + n.val)
  | .dma | .debug => none

/-- A requester's place among acquisitions of chuck `n` in one cycle (R384). -/
def servedBefore (n : Nat) (q r : Requester) : Prop :=
  let own : Requester := if n % 2 = 0 then .portA else .portB
  let other : Requester := if n % 2 = 0 then .portB else .portA
  (q = .tailstock ∧ r ≠ .tailstock) ∨ (q = own ∧ r ≠ .tailstock ∧ r ≠ own) ∨
    (q = other ∧ r ≠ .tailstock ∧ r ≠ own ∧ r ≠ other) ∨
    (∃ c d : Fin 16, q = .core c ∧ r = .core d ∧ c < d) ∨ (∃ c : Fin 16, q = .core c ∧ ownerCode r = none)

/-- A read of CHK[n] acquires a free chuck; the owner's read changes nothing; another's tells the owner, and a port becomes
a waiter; a requester that cannot hold a chuck reads 0 and changes nothing (R383, R401). -/
def chuckAcquire : Prop := ∀ (n : Fin 256) (q : Requester) (s : State), s.sys.powerGood = true →
  let a := Reg.CHK_OWNER n
  let owner := s.fld a 5 0
  (ownerCode q = none → exec (.chkAcquire n [q]) s = .next (answer q 0 s)) ∧
  (∀ k, ownerCode q = some k →
    (owner = 0 → Does (.chkAcquire n [q]) s fun t => t.answered q = toWord (2 ^ 31 + k) ∧ t.fld a 5 0 = k ∧
      t.fld a 31 6 = s.fld a 31 6 ∧ Keeps s t [a] ∧ Touches [.regs, .resp] s t) ∧
    (owner = k → exec (.chkAcquire n [q]) s = .next (answer q (toWord (2 ^ 31 + 2 ^ 30 + k)) s)) ∧
    (owner ≠ 0 → owner ≠ k → Does (.chkAcquire n [q]) s fun t => t.answered q = toWord owner ∧ t.fld a 5 0 = owner ∧
      t.bit a 16 = (s.bit a 16 || decide (q = .portA)) ∧ t.bit a 17 = (s.bit a 17 || decide (q = .portB)) ∧
      Keeps s t [a] ∧ Touches [.regs, .resp] s t))

/-- Among acquisitions of a free chuck in one cycle the first in the order of R384 becomes the owner, and the others read
its code (R384). -/
def chuckTie : Prop := ∀ (n : Fin 256) (qs : List Requester) (q : Requester) (k : Nat) (s : State), s.sys.powerGood = true →
  qs.Nodup → q ∈ qs → ownerCode q = some k → (∀ r ∈ qs, r ≠ q → servedBefore n q r) → s.fld (Reg.CHK_OWNER n) 5 0 = 0 →
  Does (.chkAcquire n qs) s fun t => t.fld (Reg.CHK_OWNER n) 5 0 = k ∧ t.answered q = toWord (2 ^ 31 + k) ∧
    (∀ r ∈ qs, r ≠ q → ownerCode r ≠ none → t.answered r = toWord k) ∧
    (.portA ∈ qs → q ≠ .portA → t.bit (Reg.CHK_OWNER n) 16 = true) ∧
    (.portB ∈ qs → q ≠ .portB → t.bit (Reg.CHK_OWNER n) 17 = true) ∧
    Keeps s t [Reg.CHK_OWNER n] ∧ Touches [.regs, .resp] s t

/-- The source 2114 rings at each release or freeing (R397). -/
def chuckRings (t : State) : Prop := t.bit (Reg.AIC_SRC 2114) 29 = true

/-- What a freed chuck may change beside its own word: the ports' alert causes, and source 2114 with the groups (R271,
R383, R397). -/
def chuckBeside (s : State) : List Nat :=
  [Reg.HP_ALERT_CAUSE 0, Reg.HP_ALERT_CAUSE 1, Reg.AIC_SRC 2114, groupReg s 2112, groupReg s 2113, groupReg s 2114]

/-- A write of CHK[n] with release frees the chuck for its owner and for the tailstock, and tells the waiting ports; any
other release is ignored and counted, and a write without release does nothing (R383). A tailstock release of a free
chuck changes nothing: the model's reading. -/
def chuckRelease : Prop := ∀ (q : Requester) (n : Fin 256) (v : Word) (s : State), s.sys.powerGood = true →
  let a := Reg.CHK_OWNER n
  let owner := s.fld a 5 0
  let mine := ownerCode q = some owner ∨ q = .tailstock
  (bitAt v 0 = false → Idle (.chkRelease q n v) s) ∧
  (bitAt v 0 = true → owner ≠ 0 → mine → Does (.chkRelease q n v) s fun t => t.reg a = 0 ∧ chuckRings t ∧
    (s.bit a 16 = true → t.bit (Reg.HP_ALERT_CAUSE 0) 5 = true) ∧ (s.bit a 17 = true → t.bit (Reg.HP_ALERT_CAUSE 1) 5 = true) ∧
    (s.bit a 16 = false → t.reg (Reg.HP_ALERT_CAUSE 0) = s.reg (Reg.HP_ALERT_CAUSE 0)) ∧
    (s.bit a 17 = false → t.reg (Reg.HP_ALERT_CAUSE 1) = s.reg (Reg.HP_ALERT_CAUSE 1)) ∧
    Keeps s t (a :: chuckBeside s) ∧ Touches [.regs, .hosts, .cyc] s t) ∧
  (bitAt v 0 = true → owner = 0 → q = .tailstock → Idle (.chkRelease q n v) s) ∧
  (bitAt v 0 = true → owner ≠ 0 → ¬ mine → Does (.chkRelease q n v) s fun t =>
    t.fld Reg.CHK_STATUS 31 16 = min 0xFFFF (s.fld Reg.CHK_STATUS 31 16 + 1) ∧
    t.fld Reg.CHK_STATUS 15 0 = s.fld Reg.CHK_STATUS 15 0 ∧ Keeps s t [Reg.CHK_STATUS] ∧ Touches [.regs, .cyc] s t)

/-- Every chuck of port `p` is free in `t`: the waiters and the other port are told, the freeings counted, and no other
chuck is touched (R385). -/
def portFreed (s t : State) (p : Nat) : Prop :=
  let held (n : Nat) : Prop := s.fld (Reg.CHK_OWNER n) 5 0 = 1 + p
  let ns := (List.range 256).filter fun n => decide (s.fld (Reg.CHK_OWNER n) 5 0 = 1 + p)
  (∀ n < 256, held n → t.reg (Reg.CHK_OWNER n) = 0) ∧ (∀ n < 256, ¬ held n → t.reg (Reg.CHK_OWNER n) = s.reg (Reg.CHK_OWNER n)) ∧
  t.fld Reg.CHK_STATUS 15 0 = min 0xFFFF (s.fld Reg.CHK_STATUS 15 0 + ns.length) ∧
  (ns ≠ [] → t.bit (Reg.HP_ALERT_CAUSE (1 - p)) 4 = true ∧ chuckRings t) ∧
  (∀ n ∈ ns, (s.bit (Reg.CHK_OWNER n) 16 = true → t.bit (Reg.HP_ALERT_CAUSE 0) 5 = true) ∧
    (s.bit (Reg.CHK_OWNER n) 17 = true → t.bit (Reg.HP_ALERT_CAUSE 1) 5 = true))

/-- The lease: a port silent for CHK_LEASE milliseconds loses its chucks; with lease 0, or short of it, nothing happens
(R385). -/
def chuckLease : Prop := ∀ (port : Port) (s : State), s.sys.powerGood = true →
  let p := portIdx port
  let lease := s.fld Reg.CHK_LEASE 15 0
  let silent := min 0xFFFF ((s.now - (s.host p).lastAt) / 1500000)
  (lease = 0 ∨ silent < lease → Idle (.chkLeaseExpiry port) s) ∧
  (lease ≠ 0 → lease ≤ silent → Does (.chkLeaseExpiry port) s fun t => portFreed s t p ∧ Touches [.regs, .hosts, .cyc] s t ∧
    (∀ a, a ∉ chuckBeside s → a ≠ Reg.CHK_STATUS → (∀ n < 256, a ≠ Reg.CHK_OWNER n) → t.reg a = s.reg a))

/-- PERST and a lost link, and a function-level reset, reset one port's PCIe logic: its link registers, MSI-X table and
pending bits; a function-level reset keeps the link with its width and rate. Its chucks are freed, the other port sees
peer_down, and every outbound request through the port ends, its reading channel suspended with a host-port error. The
window registers, the abort engines and the dictionary's requests stay (R378, R381, R385, R397). -/
def portResets : Prop := ∀ (port : Port) (s : State), s.sys.powerGood = true →
  let p := portIdx port
  let done (t : State) : Prop := portFreed s t p ∧ (t.host p).table = [] ∧ (t.host p).pba = 0 ∧
    t.bit (Reg.HP_ALERT_CAUSE (1 - p)) 3 = true ∧ (∀ o, o ∈ t.outbound ↔ o ∈ s.outbound ∧ o.port ≠ p) ∧
    (∀ o ∈ s.outbound, o.port = p → ∀ c, o.chan = some c → c < 64 → s.fld (Reg.DMA_CH_STATUS c) 31 29 ≠ 6 →
      t.fld (Reg.DMA_CH_STATUS c) 31 29 = 4 ∧ t.fld (Reg.DMA_CH_STATUS c) 28 26 = 3) ∧
    (∀ a ∈ [Reg.HP_ALERT_EN p, Reg.HP_SILENCE p, Reg.HP_ABORT_STATUS p, Reg.HP_ABORT_DB p, Reg.HP_DICT_OFF p, Reg.HP_DICT_LEN p,
      Reg.HP_DICT_BUF p, Reg.HP_DICT_STATUS p, Reg.HP_DICT_RESULT p, Reg.HP_ERRCNT p, Reg.HP_LINK (1 - p)], t.reg a = s.reg a) ∧
    Touches [.regs, .dma, .outbound, .hosts, .cyc] s t
  (Does (.perst port) s fun t => done t ∧ t.reg (Reg.HP_LINK p) = 0) ∧
  (s.bit (Reg.HP_LINK p) 31 = true → Does (.functionLevelReset port) s fun t => done t ∧
    t.reg (Reg.HP_LINK p) = s.reg (Reg.HP_LINK p) &&& 0x80000077) ∧
  (s.bit (Reg.HP_LINK p) 31 = false → Idle (.functionLevelReset port) s)

/-- The link comes up with its width and rate; the host's configuration requests set bus mastering, MSI-X and the
completion timeout of their port (R376, R378, R381, R397). -/
def linkAndConfiguration : Prop := ∀ (port : Port) (w : Fin 3) (r : Fin 5) (en mask : Bool) (range : BitVec 4) (s : State),
  s.sys.powerGood = true →
  let p := portIdx port
  let link := Reg.HP_LINK p
  (s.sys.vdda = true → Does (.linkUp port w r) s fun t => t.bit link 31 = true ∧ t.bit link 30 = false ∧ t.bit link 29 = false ∧
    t.fld link 6 4 = 2 ^ w.val ∧ t.fld link 2 0 = r.val + 1 ∧ Keeps s t [link] ∧ Touches [.regs] s t) ∧
  (s.bit link 31 = false → ∀ c, Idle (.configurationRequest port c) s) ∧
  (s.bit link 31 = true → Does (.configurationRequest port (.busMaster en)) s fun t => t.bit link 30 = en ∧
    t.fld link 29 0 = s.fld link 29 0 ∧ t.bit link 31 = true ∧ Keeps s t [link] ∧ Touches [.regs, .hosts] s t) ∧
  (s.bit link 31 = true → Does (.configurationRequest port (.msix en mask)) s fun t => t.bit link 29 = en ∧
    (t.host p).fmask = mask ∧ (t.host p).table = (s.host p).table ∧ Keeps s t [link] ∧ Touches [.regs, .hosts] s t ∧
    ((en = false ∨ mask = true) → (t.host p).pba = (s.host p).pba ∧ (t.host p).vectors = (s.host p).vectors)) ∧
  (s.bit link 31 = true → exec (.configurationRequest port (.completionTimeout range)) s =
    .next (s.setHost p { s.host p with lastAt := s.now, timeout := range.toNat }))

/-- A host doorbell sends its MSI-X vector, or pends it while masked; vector 0, or MSI-X disabled, drops and counts it
(R382, R397). -/
def hostDoorbells : Prop := ∀ (port : Port) (v : Word) (s : State), s.sys.powerGood = true →
  let p := portIdx port
  let n := fieldOf v 4 0
  let x := s.host p
  let masked := x.fmask = true ∨ bitAt (tabGet 1 (4 * n + 3) x.table) 0 = true
  (n = 0 ∨ s.bit (Reg.HP_LINK p) 29 = false → Does (.hpHostDb port v) s fun t =>
    t.fld (Reg.HP_ERRCNT p) 15 0 = min 0xFFFF (s.fld (Reg.HP_ERRCNT p) 15 0 + 1) ∧
    t.fld (Reg.HP_ERRCNT p) 31 16 = s.fld (Reg.HP_ERRCNT p) 31 16 ∧ Keeps s t [Reg.HP_ERRCNT p] ∧ Touches [.regs, .cyc] s t) ∧
  (n ≠ 0 → s.bit (Reg.HP_LINK p) 29 = true → masked → Does (.hpHostDb port v) s fun t =>
    (t.host p).pba.getLsbD n = true ∧ (t.host p).vectors = x.vectors ∧ Touches [.hosts, .cyc] s t) ∧
  (n ≠ 0 → s.bit (Reg.HP_LINK p) 29 = true → ¬ masked → exec (.hpHostDb port v) s =
    .next (s.setHost p { x with vectors := n :: x.vectors }))

/-- The commands that ask engine `e` for an abort of function `n` of kind `k` (R402). -/
def abortCommand (e : Fin 3) (ring : Bool) (n : BitVec 16) (k : Nat) (i : Instr) : Prop :=
  (k, i) ∈ [(0, Instr.abortLoopContext e ring n), (1, .abortPwmGroup e ring n), (2, .abortSpindle e ring n),
    (3, .abortPlatePartition e ring n), (4, .abortConsoleContext e ring n), (5, .abort2dMover e ring n),
    (6, .abortAudioRoute e ring n), (7, .abortAudioOutput e ring n), (8, .abortDmaChannel e ring n)]

/-- Function `n` of kind `k` exists on this part (R2, R3, R12, R402). -/
def functionExists (s : State) (k n : Nat) : Prop :=
  let sectors := if s.sys.variant = .vl8860 then 6 else 3
  n < [64 * sectors, 4 * sectors, 154, 154, 512, 1, 128, 16, 64].getD k 0 ∧
    (s.sys.variant = .vl8830 → k = 2 ∨ k = 3 → n ≠ 136 ∧ n ≠ 137)

/-- The function's island has power (R465). -/
def functionPowered (s : State) (k n : Nat) : Prop :=
  match k with
  | 0 => s.sectorOn (n / 64) = true
  | 1 => s.sectorOn (n / 4) = true
  | 4 | 5 | 6 | 7 => s.mediaOn
  | _ => s.fclkOn

/-- The function is parted (R55, R99, R149, R177, R298, R322, R356, R372). -/
def functionParted (s : State) (k n : Nat) : Prop :=
  match k with
  | 0 => s.fld (Reg.LOOP_STATUS n) 31 29 = 4
  | 1 => s.fld (Reg.PWM_GRP_STATUS n) 31 30 = 3
  | 2 => s.fld (Reg.SPN_STATUS n) 31 29 = 6
  | 3 => s.fld (Reg.PLATE_PART_STATUS n) 31 30 = 2
  | 4 => s.fld (Reg.CON_STATUS n) 31 30 = 3
  | 5 => s.fld Reg.MV_STATUS 31 29 = 4
  | 6 => (s.route n).parted = true
  | 7 => (s.audOut n).parted = true
  | _ => s.fld (Reg.DMA_CH_STATUS n) 31 29 = 6

/-- Nothing is left to part: already parted, without power, or a partition that nothing has allocated (R99, R387, R465). -/
def nothingParts (s : State) (k n : Nat) : Prop :=
  functionParted s k n ∨ ¬ functionPowered s k n ∨ (k = 3 ∧ s.bit (Reg.PLATE_PART_MAP n) 31 = false)

/-- What becomes of the function in the parted state. -/
def partedState (s t : State) (k n : Nat) : Prop :=
  match k with
  | 0 => (t.ctx n).pend = none ∧ (t.ctx n).stage = .idle ∧ (t.ctx n).queued = []
  | 1 => ∀ p ∈ pairsOf n, t.pair p = (s.pair p).rest
  | 2 => t.bit (Reg.SPN_STATUS n) 10 = true
  | 3 => (∀ d, d ∈ t.plate.due ↔ d ∈ s.plate.due ∧ d.part ≠ n) ∧ t.plate.entries = s.plate.entries
  | 4 => (∀ j ∈ t.conJobs, j.ctx ≠ n) ∧ (∀ p j, t.pipe p = some j → j.ctx ≠ n) ∧ t.con n = {} ∧
      (∀ q < 16, ∀ x ∈ (t.stream q).backlog, x.ctx ≠ n) ∧
      (s.fld (Reg.CON_STATUS n) 31 30 = 2 → (t.spn (72 + s.fld (Reg.CON_CTL n) 21 16)).rasterRuns = false)
  | 5 => t.mover.queue = [] ∧ t.mover.job = none ∧ t.bit Reg.MV_STATUS 4 = true
  | 6 => t.route n = { parted := true } ∧ t.bit Reg.AUD_STATUS 1 = true
  | 7 => (t.audOut n).value = 0 ∧ t.bit Reg.AUD_STATUS 1 = true
  | _ => t.dmaCh n = {} ∧ t.bit (Reg.DMA_CH_STATUS n) 4 = true ∧ (∀ o ∈ t.outbound, o.chan ≠ some n)

/-- The parts of the state that parting a function of each kind may change, beside the registers. -/
def partingTouches (k : Nat) : List Part :=
  match k with
  | 0 => [.pulses, .comparators, .pairs, .groups, .loops, .place]
  | 1 => [.pairs, .groups]
  | 2 => [.spindles, .pairs, .groups]
  | 3 => [.plate]
  | 4 => [.spindles, .pairs, .groups, .consoles, .conJobs, .pipes, .streams]
  | 5 => [.mover]
  | 6 | 7 => [.audio]
  | _ => [.dma, .outbound]

/-- Engine `e` is finished in `t`: done, the port's abort_done, source 2115, and with ring the port's rung source (R387,
R397, R464). -/
def abortFinished (s t : State) (e : Nat) (ring : Bool) : Prop :=
  (t.abortEngine e).busy = false ∧ (t.abortEngine e).done = true ∧ t.bit (Reg.AIC_SRC 2115) 29 = true ∧
  (e < 2 → t.bit (Reg.HP_ABORT_STATUS e) 31 = false ∧ t.bit (Reg.HP_ABORT_STATUS e) 30 = true ∧
    t.bit (Reg.HP_ALERT_CAUSE e) 7 = true ∧ (ring = true → t.bit (Reg.AIC_SRC (s.fld (Reg.HP_ABORT_DB e) 11 0)) 29 = true)) ∧
  (∀ d, d ≠ e → t.abortEngine d = s.abortEngine d)

/-- An abort request: refused by a busy engine, whose abort goes on, and for a function that does not exist; done at once
where nothing is left to part; else the function parts, and the engine stays busy until it is told that the parting is
complete. A port's request also reaches the tailstock (R273, R387, R402, R464, R465). That the parting stands at the
request, with done reported by its own command, is the model's form. -/
def aborts : Prop := ∀ (e : Fin 3) (ring : Bool) (n : BitVec 16) (k : Nat) (i : Instr) (s : State),
  abortCommand e ring n k i →
  let x := s.abortEngine e
  let m := n.toNat
  let tells (t : State) : Prop := e.val < 2 → t.bit (Reg.TS_IRQ_PEND 0) (20 + e) = true
  (s.sys.powerGood = false → Idle i s) ∧
  (s.sys.powerGood = true → x.busy = true → Does i s fun t => t.abortEngine e = { x with refused := true } ∧ tells t ∧
    (e.val < 2 → t.bit (Reg.HP_ABORT_STATUS e) 29 = true) ∧ (∀ d, d ≠ e.val → t.abortEngine d = s.abortEngine d) ∧
    Keeps s t [Reg.HP_ABORT_STATUS e, Reg.TS_IRQ_PEND 0] ∧ Touches [.cyc, .regs, .aborts] s t) ∧
  (s.sys.powerGood = true → x.busy = false → ¬ functionExists s k m → Does i s fun t =>
    t.abortEngine e = { x with kind := k, number := m, refused := true } ∧ tells t ∧
    (e.val < 2 → t.bit (Reg.HP_ABORT_STATUS e) 29 = true ∧ t.bit (Reg.HP_ABORT_STATUS e) 31 = false ∧
      t.fld (Reg.HP_ABORT_STATUS e) 23 20 = k ∧ t.fld (Reg.HP_ABORT_STATUS e) 15 0 = m) ∧
    Keeps s t [Reg.HP_ABORT_STATUS e, Reg.TS_IRQ_PEND 0] ∧ Touches [.cyc, .regs, .aborts] s t) ∧
  (s.sys.powerGood = true → x.busy = false → functionExists s k m → nothingParts s k m → Does i s fun t =>
    abortFinished s t e ring ∧ tells t ∧ Touches [.cyc, .regs, .hosts, .aborts] s t) ∧
  (s.sys.powerGood = true → x.busy = false → functionExists s k m → ¬ nothingParts s k m → s.place.move = none →
    Does i s fun t => t.abortEngine e = { x with busy := true, kind := k, number := m, ring := ring } ∧
      (∀ d, d ≠ e.val → t.abortEngine d = s.abortEngine d) ∧ functionParted t k m ∧ partedState s t k m ∧ tells t ∧
      (e.val < 2 → t.bit (Reg.HP_ABORT_STATUS e) 31 = true ∧ t.fld (Reg.HP_ABORT_STATUS e) 23 20 = k ∧
        t.fld (Reg.HP_ABORT_STATUS e) 15 0 = m) ∧ Touches (.cyc :: .regs :: .aborts :: partingTouches k) s t)

/-- The end of an abort; without one under way nothing happens (R387, R464). -/
def abortEnds : Prop := ∀ (e : Fin 3) (s : State),
  ((s.abortEngine e).busy = false → Idle (.abortDone e) s) ∧
  ((s.abortEngine e).busy = true → Does (.abortDone e) s fun t => abortFinished s t e (s.abortEngine e).ring ∧
    Touches [.regs, .hosts, .aborts, .cyc] s t)

/-- Words between the tailstock and the ports and cores: a message waits for the tailstock and raises its source; a reply
stands in its register and tells the port with ts_msg, or rings private source 32 of the core (R273, R276, R397, R400,
R405). -/
def tailstockWords : Prop := ∀ (port : Port) (c : Fin 16) (v : Word) (s : State), s.sys.powerGood = true →
  let p := portIdx port
  (Does (.hpTsMsg port v) s fun t => t.dict = { s.dict with messages := s.dict.messages ++ [(p, v)] } ∧
    t.bit (Reg.TS_IRQ_PEND 0) (20 + p) = true ∧ Keeps s t [Reg.TS_IRQ_PEND 0] ∧ Touches [.regs, .dict] s t) ∧
  (Does (.tsReplyWrite port v) s fun t => t.reg (Reg.HP_TS_REPLY p) = v ∧ t.bit (Reg.HP_ALERT_CAUSE p) 1 = true ∧
    Keeps s t [Reg.HP_TS_REPLY p, Reg.HP_ALERT_CAUSE p, groupReg s (2112 + p)] ∧ Touches [.regs, .hosts, .cyc] s t) ∧
  (Does (.tsmMsg c v) s fun t => t.dict = { s.dict with messages := s.dict.messages ++ [(5 + c.val, v)] } ∧
    t.bit (Reg.TS_IRQ_PEND 1) (16 + c) = true ∧ Keeps s t [Reg.TS_IRQ_PEND 1] ∧ Touches [.regs, .dict] s t) ∧
  (Does (.tsmReply c v) s fun t => t.reg (Reg.TSM_REPLY c) = v ∧ t.bit (Reg.AIC_PRIV c 32) 29 = true ∧ Touches [.regs, .cyc] s t)

/-- The queue of requests with `r` behind those of other cycles, and behind those of its own whose requesters do not come
after its own (R391). -/
def queuedWith (s : State) (r : DictReq) : List DictReq :=
  let later (x : DictReq) : Bool := decide (x.time = s.now ∧ r.who < x.who)
  (s.dict.queue.filter fun x => !later x) ++ r :: s.dict.queue.filter later

/-- A core hands a dictionary request over, behind those of other cycles and of requesters that come before it in its own;
a busy window ignores it (R391, R393, R405). -/
def coreDictionary : Prop := ∀ (c : Fin 16) (v : Word) (s : State), s.sys.powerGood = true →
  let st := Reg.TSM_DICT_STATUS c
  (s.bit st 31 = true → Idle (.tsmDictCmd c v) s) ∧
  (s.bit st 31 = false → Does (.tsmDictCmd c v) s fun t =>
    (∃ r : DictReq, t.dict = { s.dict with queue := queuedWith s r } ∧
      r.who = 5 + c.val ∧ r.cmd = v ∧ r.time = s.now ∧ r.spoiled = false ∧
      r.off = (s.reg (Reg.TSM_DICT_OFF c)).toNat ∧ r.len = s.fld (Reg.TSM_DICT_LEN c) 11 0 ∧
      r.buf = s.fld (Reg.TSM_DICT_BUF c) 17 6 * 64) ∧
    t.bit st 31 = true ∧ t.bit (Reg.TS_IRQ_PEND 1) c = true ∧ Keeps s t [st, Reg.TS_IRQ_PEND 1] ∧ Touches [.regs, .dict] s t)

/-- A port's link is up. -/
def linked (s : State) (p : Nat) : Prop := s.sys.powerGood = true ∧ s.bit (Reg.HP_LINK p) 31 = true

/-- Port `p` has just sent a request, and awaits its completion (R385). -/
def requested (s : State) (p : Nat) : State := s.setHost p { s.host p with lastAt := s.now, reply := none }

/-- A BAR0 request reads or writes its registers in ascending order as the port, and completes; beyond the device region a
read is an Unsupported Request and a write is dropped and counted; a read or a write that leaves part of a word out leaves
its register's result open; without a link no request arrives (R23, R24, R29, R379, R385, R397). -/
def bar0 : Prop := ∀ (port : Port) (off : BitVec 28) (n : Fin 1025) (ws : List Word) (d : Word) (s : State),
  let p := portIdx port
  let q : Requester := match port with | .a => .portA | .b => .portB
  let a := off.toNat / 4 * 4
  let dropped (t : State) : Prop := t.fld (Reg.HP_ERRCNT p) 31 16 = min 0xFFFF (s.fld (Reg.HP_ERRCNT p) 31 16 + 1) ∧
    (t.host p).lastAt = s.now ∧ Keeps s t [Reg.HP_ERRCNT p] ∧ Touches [.regs, .hosts, .cyc, .pulses, .encSince, .zonePins] s t
  (¬ linked s p → ∀ r, Idle (.bar0Request port off r) s) ∧
  (linked s p → a + 4 * n ≤ 0x1400000 → Does (.bar0Request port off (.read n)) s fun t =>
    let run := (List.range n).foldl (fun x i => (x.1 ++ [(busRead q (a + 4 * i) x.2).1], (busRead q (a + 4 * i) x.2).2))
      (([] : List Word), requested s p)
    t = run.2.setHost p { run.2.host p with reply := some (0, run.1) }) ∧
  (linked s p → 0x1400000 < a + 4 * n → exec (.bar0Request port off (.read n)) s =
    .next (s.setHost p { s.host p with lastAt := s.now, reply := some (1, []) })) ∧
  (linked s p → a + 4 * ws.length ≤ 0x1400000 → exec (.bar0Request port off (.write ws)) s =
    .next ((List.range ws.length).foldl (fun x i => busWrite (some q) (a + 4 * i) (ws.getD i 0) x) (requested s p))) ∧
  (linked s p → 0x1400000 < a + 4 * ws.length → Does (.bar0Request port off (.write ws)) s dropped) ∧
  (linked s p → a < 0x1400000 → ∃ t, exec (.bar0Request port off (.partialWrite d)) s = .next t) ∧
  (linked s p → a < 0x1400000 → Does (.bar0Request port off .partialRead) s fun t => ∃ x, (t.host p).reply = some (0, [x])) ∧
  (linked s p → 0x1400000 ≤ a → exec (.bar0Request port off .partialRead) s =
    .next (s.setHost p { s.host p with lastAt := s.now, reply := some (1, []) })) ∧
  (linked s p → 0x1400000 ≤ a → Does (.bar0Request port off (.partialWrite d)) s dropped)

/-- A register that does not answer in time: Completer Abort, counted (R379). -/
def registerTimeouts : Prop := ∀ (port : Port) (s : State),
  let p := portIdx port
  (¬ linked s p → Idle (.registerTimeout port) s) ∧
  (linked s p → Does (.registerTimeout port) s fun t => (t.host p).reply = some (4, []) ∧ (t.host p).lastAt = s.now ∧
    t.fld (Reg.HP_ERRCNT p) 31 16 = min 0xFFFF (s.fld (Reg.HP_ERRCNT p) 31 16 + 1) ∧
    Keeps s t [Reg.HP_ERRCNT p] ∧ Touches [.regs, .hosts, .cyc] s t)

/-- The mailbox is awake, and memory detects well (R281, R432). -/
def mailPlain (s : State) : Prop := s.fclkOn ∧ s.bit (Reg.SB_CTL 31) 31 = false ∧ s.bit (Reg.SB_CTL 31) 30 = true ∧ s.poison = []

/-- The address of the mailbox's byte `off` (R279). -/
def mailByte (off : Nat) : Nat := bank31 + off

/-- One port's BAR2 access to the mailbox reads its word or stores the enabled bytes, and nothing else in memory changes
(R283, R380). -/
def mailbox : Prop := ∀ (port : Port) (off : BitVec 16) (en : BitVec 4) (v : Word) (s : State),
  let p := portIdx port
  let a := off.toNat / 4 * 4
  linked s p → a < 0xF000 → mailPlain s →
  (Does (.bar2Access port off .read none) s fun t => (t.host p).reply = some (0, [s.word (mailByte a)]) ∧
    (t.host p).lastAt = s.now ∧ Touches [.hosts, .cyc, .pulses, .encSince, .zonePins] s t) ∧
  (mayWrite s (mailByte a) 4 → Does (.bar2Access port off (.write en v) none) s fun t =>
    (∀ i < 4, t.byte (mailByte a + i) = if en.getLsbD i then BitVec.ofNat 8 (v.toNat / 2 ^ (8 * i)) else s.byte (mailByte a + i)) ∧
    (∀ b, b < mailByte a ∨ mailByte a + 4 ≤ b → t.byte b = s.byte b) ∧ (t.host p).lastAt = s.now ∧ (t.host p).reply = none ∧
    Touches [.hosts, .mem, .poison, .cores, .cyc, .pulses, .encSince, .zonePins] s t)

/-- Two ports' accesses to one mailbox word in one window: two reads both give the word; two writes both land, port A's
first; a read that meets a write gives an open value, the write lands, and the later port sees the collision: its coll
bit, the word, its busy pin and mbx_coll (R283, R299, R400). -/
def mailboxCollision : Prop := ∀ (port : Port) (off : BitVec 16) (v w : Word) (s : State),
  let p := portIdx port
  let o := 1 - p
  let other : Port := match port with | .a => .b | .b => .a
  let a := off.toNat / 4 * 4
  let stores (t : State) (x : Word) : Prop := t.word (mailByte a) = x ∧ (∀ b, b < mailByte a ∨ mailByte a + 4 ≤ b → t.byte b = s.byte b)
  let noted (t : State) : Prop := t.bit Reg.SB_MBX_STATUS o = true ∧ t.fld Reg.SB_MBX_STATUS 29 16 = a / 4 ∧
    t.busyPins.getLsbD o = true ∧ t.bit (Reg.HP_ALERT_CAUSE o) 2 = true
  linked s p → linked s o → a < 0xF000 → mailPlain s →
  (Does (.bar2Access port off .read (some { port := other, acc := .read })) s fun t =>
    (t.host p).reply = some (0, [s.word (mailByte a)]) ∧ (t.host o).reply = some (0, [s.word (mailByte a)]) ∧ Touches [.hosts, .cyc, .pulses, .encSince, .zonePins] s t) ∧
  (mayWrite s (mailByte a) 4 → Does (.bar2Access port off (.write 15 v) (some { port := other, acc := .write 15 w })) s fun t =>
    stores t (if p = 0 then w else v)) ∧
  (mayWrite s (mailByte a) 4 → Does (.bar2Access port off (.write 15 v) (some { port := other, acc := .read })) s fun t =>
    stores t v ∧ noted t ∧ ∃ x, (t.host o).reply = some (0, [x])) ∧
  (mayWrite s (mailByte a) 4 → Does (.bar2Access port off .read (some { port := other, acc := .write 15 w })) s fun t =>
    stores t w ∧ noted t ∧ ∃ x, (t.host p).reply = some (0, [x]))

/-- Above the mailbox: the doorbells act as the registers they stand for, 0xF010 is the port's own alert causes, CHK[n] is
acquired and released by the port, and the MSI-X table and pending bits read and write as words; other offsets read zero
and drop writes (R380). -/
def bar2High : Prop := ∀ (port : Port) (off : BitVec 16) (v : Word) (s : State),
  let p := portIdx port
  let q : Requester := match port with | .a => .portA | .b => .portB
  let a := off.toNat / 4 * 4
  let r := requested s p
  let replies (x : State) (w : Word) : Prop := exec (.bar2Access port off .read none) s =
    .next (x.setHost p { x.host p with reply := some (0, [w]) })
  let writes (x : State) : Prop := exec (.bar2Access port off (.write 15 v) none) s = .next x
  linked s p →
  (a = 0xF000 → writes (busWrite (some q) 0x70F000 v r)) ∧ (a = 0xF004 → writes (busWrite (some q) 0x70F004 v r)) ∧
  (a = 0xF008 → writes (busWrite (some q) 0x1208018 v r)) ∧ (a = 0xF010 → writes (busWrite (some q) (Reg.HP_ALERT_CAUSE p) v r)) ∧
  (a = 0xF010 → replies r (s.reg (Reg.HP_ALERT_CAUSE p))) ∧
  (∀ n : Fin 256, a = 0xF400 + 4 * n → ∀ t, exec (.chkAcquire n [q]) r = .next t →
    replies { t with resp := s.resp } (t.answered q)) ∧
  (∀ n : Fin 256, a = 0xF400 + 4 * n → exec (.bar2Access port off (.write 15 v) none) s = exec (.chkRelease q n v) r) ∧
  (∀ i < 128, a = 0xF800 + 4 * i → replies r (tabGet (if i % 4 = 3 then 1 else 0) i (s.host p).table)) ∧
  (∀ i < 128, a = 0xF800 + 4 * i → s.bit (Reg.HP_LINK p) 29 = false → Does (.bar2Access port off (.write 15 v) none) s fun t =>
    tabGet (if i % 4 = 3 then 1 else 0) i (t.host p).table = v ∧ Touches [.hosts, .cyc, .pulses, .encSince, .zonePins] s t) ∧
  (a = 0xFA00 → replies r (s.host p).pba) ∧
  (0xF014 ≤ a → a < 0xF400 ∨ 0xFA04 ≤ a → replies r 0 ∧ writes r)


/-! ### spec/17, spec/18: the dictionary and its objects -/

/-- Tailstock firmware runs and serves requester `who`: 0 and 1 the ports, 2 CAN, 3 and 4 Ethernet, 5 + c core c (R26,
R391). -/
def served (s : State) (who : Nat) : Prop :=
  s.firmwareOn = true ∧ (who < 3 ∨ (3 ≤ who ∧ who < 5 ∧ s.fclkOn) ∨ (5 ≤ who ∧ s.coreOn (who - 5) = true))

/-- `s` with the answer `r` to the last single command of requester `who`. -/
def told (s : State) (who : Nat) (r : DictReply) : State :=
  { s with dict := { s.dict with replies := tabSet {} who r s.dict.replies } }

/-- No transfer of requests in more than one part runs on the object (R391). -/
def untouchedObject (s : State) (index sub : Nat) : Prop := ∀ t ∈ s.dict.transfers, ¬ (t.index = index ∧ t.sub = sub)

/-- The commands that write an object, with their requester, index and subindex (R176, R390, R418, R422, R423, R462). -/
def writesObject (who : Fin 21) (i : Instr) (index sub : Nat) : Prop :=
  (∃ v, (i, index, sub) ∈ [(Instr.storeSave who v, 0x1010, 1), (.restoreLoad who v, 0x1011, 1), (.resetRequest who v, 0x1F01, 1)]) ∨
  (∃ b, (i, index, sub) ∈ [(Instr.imageVerify who b, 0x9011, 1), (.imageActivate who b, 0x9012, 1), (.imageConfirm who b, 0x9013, 1),
    (.debugLock who b, 0x9030, 3), (.debugLevel who b, 0x9030, 4)]) ∨
  (∃ n, i = .attestationNonce who n ∧ index = 0x9020 ∧ sub = 1) ∨ (∃ r, i = .debugResponse who r ∧ index = 0x9030 ∧ sub = 2) ∨
  (∃ c off d f, i = .imageWrite who c off d f ∧ index = 0x9010 ∧ sub = if c then 2 else 1) ∨
  (∃ g v, i = .armRequestObject who g v ∧ index = 0x4010 ∧ sub = g.val + 1)

/-- A write that does not reach its object changes nothing but its answer: an unserved requester gets none; Ethernet and
cores, which may not write these objects, get 0x0601_0000, the nonce apart; an object that another requester's transfer
holds answers 0x0800_0022; a group that the part lacks answers 0x0609_0011 (R389, R391, R392). The rights of objects for
which the spec gives none are the model's choice (log entry 60). -/
def objectGuards : Prop := ∀ (who : Fin 21) (i : Instr) (index sub : Nat) (s : State), writesObject who i index sub →
  (s.sys.phase = .firmware ∨ who.val ≥ 3 → ¬ served s who → Idle i s) ∧
  (served s who → 3 ≤ who.val → index ≠ 0x9020 → (index = 0x4010 → sub ≤ 4 * sectorCount s.sys.variant) →
    exec i s = .next (told s who { code := 0x06010000 })) ∧
  (served s who → who.val < 3 ∨ index = 0x9020 → (index = 0x4010 → sub ≤ 4 * sectorCount s.sys.variant) →
    (∃ t, s.transferOf index sub = some t ∧ t.who ≠ who) → exec i s = .next (told s who { code := 0x08000022 })) ∧
  (served s who → index = 0x4010 → 4 * sectorCount s.sys.variant < sub → exec i s = .next (told s who { code := 0x06090011 }))

/-- The answer to a write of `n` bytes that took effect. -/
def wrote (n : Nat) : DictReply := { code := 0, moved := n, total := n }

/-- Storing and returning to defaults: "save" puts the stored objects' present values into the NOR, "load" marks the return
at the next power-on reset; another value, or no NOR, answers 0x0800_0020 and changes nothing (R390, R392). -/
def storeAndLoad : Prop := ∀ (who : Fin 21) (v : Word) (s : State), served s who → who.val < 3 →
  (untouchedObject s 0x1010 1 → v = 0x65766173 → s.sec.norAbsent = false → Does (.storeSave who v) s fun t =>
    (∀ k, tabGet none k t.dict.stored =
      if (s.obj? (k / 256) (k % 256)).any (·.stored) = true then tabGet none k s.dict.vals else none) ∧
    t = told { s with dict := { s.dict with stored := t.dict.stored } } who (wrote 4)) ∧
  (untouchedObject s 0x1010 1 → v ≠ 0x65766173 ∨ s.sec.norAbsent = true →
    exec (.storeSave who v) s = .next (told s who { code := 0x08000020 })) ∧
  (untouchedObject s 0x1011 1 → v = 0x64616F6C →
    exec (.restoreLoad who v) s = .next (told { s with dict := { s.dict with loadMarked := true } } who (wrote 4))) ∧
  (untouchedObject s 0x1011 1 → v ≠ 0x64616F6C → exec (.restoreLoad who v) s = .next (told s who { code := 0x08000020 }))

/-- A reset request waits for the tailstock, the stronger one where two wait; another value is out of range (R462). -/
def resetRequests : Prop := ∀ (who : Fin 21) (v : Word) (s : State), served s who → who.val < 3 → untouchedObject s 0x1F01 1 →
  let waits (k : Nat) : Prop := exec (.resetRequest who v) s =
    .next (told { s with sys := { s.sys with resetWaiting := max k s.sys.resetWaiting } } who (wrote 4))
  (v = 0x746F6F62 → waits 2) ∧ (v = 0x74657372 → waits 1) ∧
  (v ≠ 0x746F6F62 → v ≠ 0x74657372 → exec (.resetRequest who v) s = .next (told s who { code := 0x06090030 }))

/-- A write of 1 to an arming object asks the tailstock to arm the group, as PWM_ARM_REQ does; another value is out of
range (R175, R176, R273). -/
def armObjects : Prop := ∀ (who : Fin 21) (g : Fin 24) (v : Byte) (s : State), served s who → who.val < 3 →
  g.val < 4 * sectorCount s.sys.variant → untouchedObject s 0x4010 (g + 1) →
  (v = 1 → Does (.armRequestObject who g v) s fun t => (t.group g).armRequest = true ∧
    (∀ h, h ≠ g.val → t.group h = s.group h) ∧ t.bit (Reg.TS_IRQ_PEND 0) 18 = true ∧ Keeps s t [Reg.TS_IRQ_PEND 0] ∧
    Touches [.regs, .groups, .dict, .cyc, .pulses, .encSince, .zonePins] s t ∧ tabGet {} who.val t.dict.replies = wrote 1) ∧
  (v ≠ 1 → exec (.armRequestObject who g v) s = .next (told s who { code := 0x06090030 }))

/-- The checks of R415, in their order. -/
def imageChecks (s : State) (slot : Nat) : List Prop :=
  let len := s.hdr slot 0xC 4
  let load := s.hdr slot 0x10 8
  let key := s.hdr slot 0x20 4
  let bytes (off n : Nat) : List Byte := s.norBytes (slotBase slot + off) n
  let big (off n : Nat) : Nat := ofBeBytes (bytes off n)
  [s.hdr slot 0 4 = 0x4D494C56 ∧ s.hdr slot 4 2 = 1 ∧ s.hdr slot 0x24 4 < 16 ∧
      (∀ b ∈ bytes 0x28 0x18 ++ bytes 0x104 4 ++ bytes 0x18C 0x74, b = 0),
    s.hdr slot 6 2 = if slot < 2 then 1 else 2,
    len % 64 = 0 ∧ (slot < 2 → len ≤ 458752 ∧ 0x10000000 ≤ load ∧ load + len ≤ 0x10080000) ∧
      (2 ≤ slot → len ≤ 16776704 ∧ 0x800000000 ≤ load ∧ load + len ≤ s.dramEnd),
    key < 3 ∧ bitAt (s.otpWord 10) key = false ∧ sha512 (bytes 0x80 132) = s.keyHash key,
    s.counter ≤ s.hdr slot 8 4,
    sha512 (bytes 512 len) = bytes 0x40 64,
    ecdsaValid (big 0x80 66) (big 0xC2 66) (big 0x108 66) (big 0x14A 66) (ofBeBytes (sha512 (bytes 0 0x108))) = true]

/-- Verification passes an image exactly when every check passes, and otherwise names the first that fails; 8 without an
answering NOR (R415). -/
def verification : Prop := ∀ (s : State) (slot : Nat), slot < 4 →
  (s.sec.norAbsent = true → s.imageCheck slot = 8) ∧
  (s.sec.norAbsent = false → (s.imageCheck slot = 0 ↔ ∀ c ∈ imageChecks s slot, c) ∧
    ∀ k < 7, s.imageCheck slot = k + 1 ↔ (¬ (imageChecks s slot).getD k True ∧ ∀ j < k, (imageChecks s slot).getD j True))

/-- The inactive slot of an image kind, and whether a trial runs unconfirmed (R413, R418, R419). -/
def inactiveSlot (s : State) (kind : Nat) : Nat := if kind = 1 then 1 - s.bootRec.tsSlot else 3 - s.bootRec.coreSlot

/-- A write of an image goes into the inactive slot: the first request to reach a 64 KiB block of it erases the block, the
bytes are programmed and read back, and the slot's verification is cleared. Nothing outside the slot changes. While a trial
runs the write is refused; a read-back mismatch ends the transfer with 0x0800_0020 (R413, R418, R419). -/
def imageWrites : Prop := ∀ (who : Fin 21) (core : Bool) (off : BitVec 26) (d : List Byte) (fails : Bool) (s : State),
  served s who → who.val < 3 →
  let kind := if core then 2 else 1
  let slot := inactiveSlot s kind
  let a := off.toNat
  let max := if core then 16777216 else 459264
  let i : Instr := .imageWrite who core off d fails
  let trial := s.bootRec.trial ≠ 0 ∧ s.bootRec.attempts ≠ 0
  let base := slotBase slot
  let fresh (b : Nat) : Prop := (slot * 1024 + b) ∉ s.sec.erased ∨ untouchedObject s 0x9010 kind
  let reached (b : Nat) : Prop := b * 65536 < a + d.length ∧ a < (b + 1) * 65536
  s.bootRec.tsSlot < 2 → s.bootRec.coreSlot < 2 →
  (max < a + d.length → untouchedObject s 0x9010 kind → exec i s = .next (told s who { code := 0x06070012 })) ∧
  (a + d.length ≤ max → untouchedObject s 0x9010 kind → trial → exec i s = .next (told s who { code := 0x08000022 })) ∧
  (a + d.length ≤ max → untouchedObject s 0x9010 kind → ¬ trial → s.sec.norAbsent = true →
    exec i s = .next (told s who { code := 0x08000020 })) ∧
  (a + d.length ≤ max → (∀ t ∈ s.dict.transfers, t.index = 0x9010 → t.sub = kind → t.who = who) → ¬ trial →
    s.sec.norAbsent = false → Does i s fun t =>
      tabGet none slot t.sec.verified = none ∧ (∀ b, b < base ∨ base + 16 * 1048576 ≤ b → t.norByte b = s.norByte b) ∧
      (∀ b, reached b → fresh b → ∀ x, b * 65536 ≤ x → x < (b + 1) * 65536 → x < a ∨ a + d.length ≤ x → t.norByte (base + x) = 0xFF) ∧
      (∀ b, ¬ reached b → ∀ x, b * 65536 ≤ x → x < (b + 1) * 65536 → t.norByte (base + x) = s.norByte (base + x)) ∧
      (fails = true → tabGet {} who.val t.dict.replies = { code := 0x08000020 } ∧ untouchedObject t 0x9010 kind) ∧
      (fails = false → (∀ b, reached b → fresh b ∨ ∀ x, a ≤ x → x < a + d.length → s.norByte (base + x) = 0xFF) →
        (∀ k (v : Byte), d[k]? = some v → t.norByte (base + a + k) = v) ∧
        tabGet {} who.val t.dict.replies = { code := 0, moved := d.length, total := a + d.length }) ∧
      Touches [.sec, .nor, .dict, .cyc, .pulses, .encSince, .zonePins] s t)

/-- Verify, activate and confirm: verification stands for the slot until its next write; only a slot verified with result 0
becomes the trial slot for the next boot; only a trial that has run is confirmed, which makes its slot active, stores its
version and raises the counter to it (R415, R418, R419). -/
def imageControl : Prop := ∀ (who : Fin 21) (b : Byte) (s : State), served s who → who.val < 3 →
  let k := b.toNat
  let slot := inactiveSlot s k
  s.bootRec.tsSlot < 2 → s.bootRec.coreSlot < 2 →
  (untouchedObject s 0x9011 1 → k = 1 ∨ k = 2 → exec (.imageVerify who b) s = .next (told { s with sec :=
    { s.sec with verified := tabSet none slot (some (s.imageCheck slot)) s.sec.verified, lastResult := s.imageCheck slot } } who (wrote 1))) ∧
  (untouchedObject s 0x9011 1 → k ≠ 1 → k ≠ 2 → exec (.imageVerify who b) s = .next (told s who { code := 0x06090030 })) ∧
  (untouchedObject s 0x9012 1 → k = 1 ∨ k = 2 → tabGet none slot s.sec.verified = some 0 → Does (.imageActivate who b) s fun t =>
    t.bootRec = { s.bootRec with trial := k, attempts := 0, seq := s.bootRec.seq + 1 } ∧
    tabGet {} who.val t.dict.replies = wrote 1 ∧ Touches [.sec, .dict, .cyc, .pulses, .encSince, .zonePins] s t) ∧
  (untouchedObject s 0x9012 1 → k = 1 ∨ k = 2 → tabGet none slot s.sec.verified ≠ some 0 →
    exec (.imageActivate who b) s = .next (told s who { code := 0x08000022 })) ∧
  (let r := s.bootRec
   let trialSlot := inactiveSlot s r.trial
   let ran := (r.trial = 1 ∧ s.sec.runSlot = trialSlot ∧ s.sec.tsImage ≠ none ∧ r.attempts ≠ 0) ∨
     (r.trial = 2 ∧ s.sec.coreRun = some trialSlot)
   untouchedObject s 0x9013 1 → k = 1 →
   (¬ ran → exec (.imageConfirm who b) s = .next (told s who { code := 0x08000022 })) ∧
   (ran → s.hdr trialSlot 8 4 ≤ 128 → Does (.imageConfirm who b) s fun t =>
     t.bootRec.trial = 0 ∧ t.bootRec.version = s.hdr trialSlot 8 4 ∧
     (r.trial = 1 → t.bootRec.tsSlot = trialSlot ∧ t.bootRec.coreSlot = r.coreSlot) ∧
     (r.trial = 2 → t.bootRec.coreSlot = trialSlot - 2 ∧ t.bootRec.tsSlot = r.tsSlot) ∧
     s.hdr trialSlot 8 4 ≤ t.counter ∧ (∀ w i, bitAt (s.otpWord w) i = true → bitAt (t.otpWord w) i = true) ∧
     (∀ j < 4, bitAt (t.otpWord 10) j = true ↔ (bitAt (s.otpWord 10) j = true ∨
       (s.hdr trialSlot 0x24 4).testBit j = true ∧ s.hdr trialSlot 0x20 4 ≠ j)) ∧
     tabGet {} who.val t.dict.replies = wrote 1 ∧ Touches [.sec, .dict, .otp, .cyc, .pulses, .encSince, .zonePins] s t))

/-- The bytes `b` of a read of `n` bytes with offset, and its answer (R392). -/
def sliced (b : List Byte) (off n : Nat) : DictReply :=
  if b.length < off then { code := 0x06070012, total := b.length }
  else { code := 0, bytes := (b.drop off).take n, moved := min n (b.length - off), total := b.length }

/-- The little-endian field of `n` bytes with offset `i` in `b`. -/
def fieldIn (b : List Byte) (i n : Nat) : Nat := ofLeBytes ((b.drop i).take n)

/-- The class of a requester: ports, CAN, Ethernet, cores (R389). -/
def classOf (who : Nat) : Nat := if who < 3 then who else if who < 5 then 3 else 4

/-- Attestation: a nonce is kept for the writer's class; a quote read with offset 0 builds the 388 bytes anew over that
class's nonce, of R421's layout and with its signature in bytes 256 to 387; other offsets read the same quote; without a
healthy TRNG, or in DECOMMISSIONED, the read is refused (R421, R422). The signature's k is a free value (log entry 1). -/
def attestation : Prop := ∀ (who : Fin 21) (nonce : BitVec 512) (off len : BitVec 12) (s : State), served s who →
  let c := classOf who
  let refused := s.lifecycle = 3 ∨ s.sec.trngBad = true
  (untouchedObject s 0x9020 1 → exec (.attestationNonce who nonce) s = .next (told { s with sec :=
    { s.sec with nonces := tabSet [] c (leBytes 64 nonce.toNat) s.sec.nonces } } who (wrote 64))) ∧
  (refused → exec (.quote who off len) s = .next (told s who { code := 0x08000022 })) ∧
  (¬ refused → off ≠ 0 → exec (.quote who off len) s = .next (told s who (sliced (tabGet [] c s.sec.quotes) off.toNat len.toNat))) ∧
  (¬ refused → off = 0 → (tabGet [] c s.sec.nonces).length = 64 → (∀ x, s.sec.tsImage = some x → x.2.length = 64) →
    (∀ x, s.sec.coreImage = some x → x.2.length = 64) → s.log.ring ≠ [] → Does (.quote who off len) s fun t =>
      let b := tabGet [] c t.sec.quotes
      tabGet {} who.val t.dict.replies = sliced b 0 len.toNat ∧ b.length = 388 ∧
      fieldIn b 0 4 = 0x51414C56 ∧ fieldIn b 4 4 = 1 ∧ fieldIn b 8 4 = (if s.sys.variant = .vl8860 then 0x8860 else 0x8830) ∧
      fieldIn b 0xC 4 = 0xA1 ∧ (∀ i < 4, fieldIn b (0x10 + 4 * i) 4 = (s.otpWord (2 + i)).toNat) ∧
      (b.drop 0x20).take 64 = tabGet [] c s.sec.nonces ∧
      (∀ x, s.sec.tsImage = some x → (b.drop 0x60).take 64 = x.2 ∧ fieldIn b 0xE0 2 = x.1 % 65536) ∧
      (s.reg Reg.GCTL_CORE_REL = 0 → (b.drop 0xA0).take 64 = List.replicate 64 0) ∧
      fieldIn b 0xE4 2 = s.counter % 65536 ∧ fieldIn b 0xE8 4 = (s.log.nextSeq - 1).toNat ∧
      fieldIn b 0xEC 4 = (s.reg Reg.GCTL_RESET_CAUSE).toNat ∧
      fieldIn b 0xF0 8 = (if s.fclkOn then s.devTimer.toNat else 0) ∧ fieldIn b 0xF8 8 = 0 ∧
      (∃ k, 0 < k ∧ k < n521 ∧ (b.drop 256) = (let sg := ecdsaSign (s.attestKey % n521) k (ofBeBytes (sha512 (b.take 256)))
        beBytes 66 sg.1 ++ beBytes 66 sg.2)) ∧
      (∀ d, d ≠ c → tabGet [] d t.sec.quotes = tabGet [] d s.sec.quotes) ∧ Touches [.freeCtr, .sec, .dict, .cyc] s t)

/-- Debug unlock: a challenge of R423's layout replaces the one before, its 32 TRNG bytes free values; a response consumes
it either way, is logged, and only a valid one grants the challenge's level; lock and level take their values (R423). -/
def debugUnlock : Prop := ∀ (who : Fin 21) (b : Byte) (resp : BitVec 1056) (s : State), served s who →
  (s.sec.trngBad = true → exec (.debugChallenge who) s = .next (told s who { code := 0x08000022 })) ∧
  (s.sec.trngBad = false → Does (.debugChallenge who) s fun t => ∃ c, t.sec.challenge = some c ∧ c.length = 64 ∧
    tabGet {} who.val t.dict.replies = { code := 0, bytes := c, moved := 64, total := 64 } ∧
    (∀ i < 4, fieldIn c (4 * i) 4 = (s.otpWord (2 + i)).toNat) ∧ fieldIn c 0x30 1 = s.sec.wanted % 256 ∧ fieldIn c 0x31 3 = 0 ∧
    fieldIn c 0x34 4 = s.log.bootCount.toNat ∧ fieldIn c 0x38 4 = (s.sec.challenges + 1).toNat ∧ fieldIn c 0x3C 4 = 0 ∧
    t.sec.challenges = s.sec.challenges + 1 ∧ t.sec.unlock = s.sec.unlock ∧ Touches [.freeCtr, .sec, .dict, .cyc] s t) ∧
  (who.val < 3 → untouchedObject s 0x9030 2 → Does (.debugResponse who resp) s fun t => t.sec.challenge = none ∧
    (∀ c, s.sec.challenge = some c → s.responseValid c (leBytes 132 resp.toNat) = true →
      t.sec.unlock = (c.getD 0x30 0).toNat ∧ (tabGet {} who.val t.dict.replies).code = 0) ∧
    (s.sec.challenge = none ∨ (∃ c, s.sec.challenge = some c ∧ s.responseValid c (leBytes 132 resp.toNat) = false) →
      t.sec.unlock = s.sec.unlock ∧ (tabGet {} who.val t.dict.replies).code = 0x06090030) ∧
    t.sec.otp = s.sec.otp ∧ Touches [.freeCtr, .regs, .sec, .log, .dict, .canNode, .unlock, .cyc, .pulses, .encSince, .zonePins] s t) ∧
  (who.val < 3 → untouchedObject s 0x9030 3 → b = 1 →
    exec (.debugLock who b) s = .next (told { s with sec := { s.sec with unlock := 0 } } who (wrote 1))) ∧
  (who.val < 3 → untouchedObject s 0x9030 3 → b ≠ 1 → exec (.debugLock who b) s = .next (told s who { code := 0x06090030 })) ∧
  (who.val < 3 → untouchedObject s 0x9030 4 → b = 1 ∨ b = 2 →
    exec (.debugLevel who b) s = .next (told { s with sec := { s.sec with wanted := b.toNat } } who (wrote 1))) ∧
  (who.val < 3 → untouchedObject s 0x9030 4 → b ≠ 1 → b ≠ 2 → exec (.debugLevel who b) s = .next (told s who { code := 0x06090030 }))

/-- A response is invalid where key slot 3 is revoked, and where no key with that slot's hash has signed the challenge so
(R412, R423). -/
def responseChecks : Prop := ∀ (s : State) (c resp : List Byte),
  (bitAt (s.otpWord 10) 3 = true → s.responseValid c resp = false) ∧
  ((∀ x y, ecdsaValid x y (ofBeBytes (resp.take 66)) (ofBeBytes (resp.drop 66)) (ofBeBytes (sha512 c)) = true →
    sha512 (beBytes 66 x ++ beBytes 66 y) ≠ s.keyHash 3) → s.responseValid c resp = false)

/-- The oldest request of a port with a lawful buffer, or of CAN, whose operation is `op`. -/
def nextRequest (s : State) (op : Nat) (r : DictReq) (rest : List DictReq) : Prop :=
  s.dict.queue = r :: rest ∧ fieldOf r.cmd 31 30 = op ∧ served s r.who ∧ r.who < 2 ∧ r.spoiled = false ∧ r.len ≤ 2048 ∧ r.buf ≤ 0xEFC0 ∧
    r.buf + r.len ≤ 0xF000

/-- The request leaves the queue for the answered ones with answer `a`, and the bytes read stand in its buffer; nothing else
in memory changes (R391, R393). -/
def answeredWith (s t : State) (r : DictReq) (rest : List DictReq) (a : DictReply) : Prop :=
  t.dict.queue = rest ∧ t.dict.answered = s.dict.answered ++ [(r, a)] ∧
  (∀ i (v : Byte), (a.bytes.take r.len)[i]? = some v → t.byte (bank31 + r.buf + i) = v) ∧
  (∀ b, b < bank31 + r.buf ∨ bank31 + r.buf + min r.len a.bytes.length ≤ b → t.byte b = s.byte b)

/-- The values that a port reads: identity, abort status, arming state, log numbers, update state (R4, R176, R387, R411,
R418). -/
def objectHolds (s : State) (index sub n v : Nat) : Prop :=
  (index, sub, n, v) ∈ [(0x1018, 2, 4, if s.sys.variant = .vl8860 then 0x8860 else 0x8830), (0x1018, 3, 4, 0xA1),
    (0x1F00, 2, 4, (s.abortStatus 2).toNat), (0x8000, 3, 4, s.log.discarded.toNat), (0x8000, 4, 4, s.log.bootCount.toNat),
    (0x9000, 1, 1, s.lifecycle), (0x9000, 2, 1, s.counter % 256), (0x9000, 3, 1, s.bootRec.tsSlot % 256),
    (0x9000, 4, 1, s.bootRec.coreSlot % 256), (0x9000, 5, 1, s.bootRec.trial % 256), (0x9011, 2, 4, s.sec.lastResult % 2 ^ 32)] ∨
  (index = 0x4010 ∧ 1 ≤ sub ∧ sub ≤ 4 * sectorCount s.sys.variant ∧ n = 1 ∧ v = s.fld (Reg.PWM_GRP_STATUS (sub - 1)) 31 30) ∨
  (index = 0x4011 ∧ 1 ≤ sub ∧ sub ≤ 4 * sectorCount s.sys.variant ∧ n = 1 ∧ v = s.fld (Reg.PWM_GRP_STATUS (sub - 1)) 29 27)

/-- A read gives the object's little-endian bytes within the length and offset asked for; what does not exist, and what
the class may not read, is refused with its code; requests are served oldest first, each by the command of its operation
(R388, R389, R391, R392, R393). -/
def dictReads : Prop := ∀ (s : State) (r : DictReq) (rest : List DictReq),
  (s.dict.queue = [] → Idle .dictRead s ∧ Idle .dictWrite s ∧ Idle .dictDescribe s) ∧
  (nextRequest s 1 r rest → Idle .dictWrite s ∧ Idle .dictDescribe s) ∧ (nextRequest s 2 r rest → Idle .dictRead s ∧ Idle .dictDescribe s) ∧
  (nextRequest s 1 r rest → s.bankAwake 31 = true → mayWrite s (bank31 + r.buf) r.len →
    let index := fieldOf r.cmd 23 8
    let sub := fieldOf r.cmd 7 0
    (∀ n v, objectHolds s index sub n v → Does .dictRead s fun t => answeredWith s t r rest (sliced (leBytes n v) r.off r.len)) ∧
    (∀ o, s.obj? index sub = some o → o.may (classOf r.who) false = false → Does .dictRead s fun t =>
      answeredWith s t r rest { code := if (List.range 5).any (fun c => o.may c false) then 0x06010000 else 0x06010001 }) ∧
    (s.obj? index sub = none → Does .dictRead s fun t => answeredWith s t r rest
      { code := if (List.range 161).any (fun k => (s.obj? index k).isSome) then 0x06090011 else 0x06020000 }))

/-- A write through a port's buffer: a setting takes its bytes; a length other than the type's is refused with 0x0607_0010,
an offset beyond its one place with 0x0607_0012, a read-only object with 0x0601_0002, and an object locked by another's transfer with 0x0800_0022; a refused write changes
no object (R388, R389, R391, R392, R394). -/
def dictWrites : Prop := ∀ (s : State) (r : DictReq) (rest : List DictReq), nextRequest s 2 r rest → s.poison = [] →
  let index := fieldOf r.cmd 23 8
  let sub := fieldOf r.cmd 7 0
  let data := s.bytes (bank31 + r.buf) r.len
  let refuses (code : Nat) : Prop := Does .dictWrite s fun t => answeredWith s t r rest { code := code } ∧
    t.dict.vals = s.dict.vals ∧ Touches [.dict, .cyc, .pulses, .encSince, .zonePins] s t
  (index = 0x1017 → sub = 0 → r.off = 0 → r.len = 2 → untouchedObject s index sub → Does .dictWrite s fun t =>
    answeredWith s t r rest (wrote 2) ∧ t.objOwn 0x1017 0 (leBytes 2 1000) = data ∧
    (∀ k, k ≠ 0x101700 → tabGet none k t.dict.vals = tabGet none k s.dict.vals) ∧ Touches [.dict, .cyc, .pulses, .encSince, .zonePins] s t) ∧
  (index = 0x1FF0 → sub = 1 → r.off = 0 → r.len = 1 → untouchedObject s index sub →
    (1 ≤ ofLeBytes data → ofLeBytes data ≤ 127 → Does .dictWrite s fun t => answeredWith s t r rest (wrote 1) ∧
      t.objOwn 0x1FF0 1 [32] = data ∧ t.canNode = s.canNode ∧ Touches [.dict, .cyc, .pulses, .encSince, .zonePins] s t) ∧
    (ofLeBytes data = 0 ∨ 127 < ofLeBytes data → refuses 0x06090030)) ∧
  (index = 0x1017 → sub = 0 → r.len ≠ 2 → untouchedObject s index sub → refuses 0x06070010) ∧
  (index = 0x1017 → sub = 0 → r.len = 2 → r.off ≠ 0 → untouchedObject s index sub → refuses 0x06070012) ∧
  (index = 0x1018 → sub = 2 → refuses 0x06010002) ∧
  (index = 0x1017 → sub = 0 → (∃ t, s.transferOf index sub = some t ∧ t.who ≠ r.who) → refuses 0x08000022) ∧
  (index = 0x9020 → sub = 1 → 64 < r.off + r.len → untouchedObject s index sub → refuses 0x06070012)

/-- A describe request gives the 16-byte descriptor of any existing object, whatever the rights (R389). -/
def dictDescribes : Prop := ∀ (s : State) (r : DictReq) (rest : List DictReq), nextRequest s 3 r rest → s.bankAwake 31 = true →
  mayWrite s (bank31 + r.buf) (min r.len 16) →
  let index := fieldOf r.cmd 23 8
  let sub := fieldOf r.cmd 7 0
  (∀ o, s.obj? index sub = some o → Does .dictDescribe s fun t => ∃ b, b.length = 16 ∧
    answeredWith s t r rest { code := 0, bytes := b, moved := 16, total := fieldIn b 8 4 } ∧
    fieldIn b 0 2 = o.type % 65536 ∧ fieldIn b 2 2 = o.rights % 65536 ∧ fieldIn b 4 4 = o.max % 2 ^ 32 ∧
    fieldIn b 12 1 = (decide (o.stored = true ∧ s.objOwn index sub o.dflt ≠ o.dflt)).toNat + 2 * o.stored.toNat ∧ fieldIn b 13 3 = 0) ∧
  (s.obj? index sub = none → Does .dictDescribe s fun t => ∃ code, answeredWith s t r rest { code := code } ∧
    (code = 0x06020000 ∨ code = 0x06090011))

/-- Completion: the oldest answered request of a port shows its code, bytes moved and present length, with done and
dict_done; a core's rings its private source 32; after misuse of the buffer what shows is open; with none nothing happens
(R393, R405). -/
def dictCompletes : Prop := ∀ (s : State), s.sys.powerGood = true →
  (s.dict.answered = [] → Idle .dictDone s) ∧
  ∀ r a rest, s.dict.answered = (r, a) :: rest →
    (r.spoiled = true → r.who < 21 → Does .dictDone s fun t => t.dict = { s.dict with answered := rest } ∧
      (5 ≤ r.who → t.bit (Reg.TSM_DICT_STATUS (r.who - 5)) 31 = false ∧ t.bit (Reg.TSM_DICT_STATUS (r.who - 5)) 30 = true) ∧
      Touches [.freeCtr, .regs, .hosts, .dict, .cyc] s t) ∧
    (r.spoiled = false → r.who < 2 → Does .dictDone s fun t => t.dict = { s.dict with answered := rest } ∧
      t.bit (Reg.HP_DICT_STATUS r.who) 31 = false ∧
      t.bit (Reg.HP_DICT_STATUS r.who) 30 = true ∧ t.reg (Reg.HP_DICT_RESULT r.who) = toWord a.code ∧
      t.reg (Reg.HP_DICT_RLEN r.who) = toWord a.moved ∧ t.reg (Reg.HP_DICT_TOTAL r.who) = toWord a.total ∧
      t.bit (Reg.HP_ALERT_CAUSE r.who) 6 = true ∧ Touches [.regs, .hosts, .dict, .cyc] s t) ∧
    (r.spoiled = false → 5 ≤ r.who → r.who < 21 → Does .dictDone s fun t => t.dict = { s.dict with answered := rest } ∧
      t.bit (Reg.TSM_DICT_STATUS (r.who - 5)) 31 = false ∧ t.bit (Reg.TSM_DICT_STATUS (r.who - 5)) 30 = true ∧
      t.reg (Reg.TSM_DICT_RESULT (r.who - 5)) = toWord a.code ∧ t.reg (Reg.TSM_DICT_RLEN (r.who - 5)) = toWord a.moved ∧
      t.reg (Reg.TSM_DICT_TOTAL (r.who - 5)) = toWord a.total ∧ t.bit (Reg.AIC_PRIV (r.who - 5) 32) 29 = true ∧
      Touches [.regs, .dict, .cyc] s t)

/-- An abandoned transfer ends, its requester learns 0x0504_0000, and the object keeps its old value; without one nothing
happens (R391, R392). How the requester learns it is the model's form. -/
def transferEnds : Prop := ∀ (index : BitVec 16) (sub : BitVec 8) (s : State), s.sys.powerGood = true →
  (s.transferOf index.toNat sub.toNat = none → Idle (.transferAbandon index sub) s) ∧
  (∀ x, s.transferOf index.toNat sub.toNat = some x → Does (.transferAbandon index sub) s fun t =>
    untouchedObject t index.toNat sub.toNat ∧ t.dict.vals = s.dict.vals ∧ t.nor = s.nor ∧
    (x.who < 2 → t.reg (Reg.HP_DICT_RESULT x.who) = 0x05040000 ∧ Keeps s t [Reg.HP_DICT_RESULT x.who]) ∧
    (5 ≤ x.who → x.who < 21 → t.reg (Reg.TSM_DICT_RESULT (x.who - 5)) = 0x05040000) ∧ Touches [.regs, .dict, .canNode] s t)


/-! ### spec/17: the field network -/

/-- Controller `c` is on the bus: clocked by its window's clock, enabled, TCLK on its PLL, neither bus-off nor stuck
(R396, R398). -/
def canHears (s : State) (c : Nat) : Prop :=
  (c = 0 ∨ s.fclkOn) ∧ s.sys.powerGood = true ∧ s.sys.tclkOnRc = false ∧ s.bit (Reg.CAN_CTL c) 31 = true ∧
    s.fld (Reg.CAN_STATUS c) 31 30 ≠ 2 ∧ (s.can c).stuck = false

/-- The CANopen node answers: the tailstock serves CAN and controller 0 is on the bus (R394, R417). -/
def nodeLives (s : State) : Prop :=
  (s.firmwareOn = true ∨ (s.sys.powerGood = true ∧ s.sys.phase = .recovery)) ∧ canHears s 0

/-- NMT commands for this node or for all change its state; the resets return it to pre-operational with the node-ID and
rates that its objects hold, and reset node returns every object to its stored value; one for another node, or without a
live node, changes nothing (R394). That a reset sends a boot-up message is CiA's (log entry 62). -/
def nmt : Prop := ∀ (node : BitVec 8) (s : State),
  let mine := nodeLives s ∧ (node = 0 ∨ node.toNat = s.canNode.nodeId)
  let becomes (k : Nat) : State := { s with canNode := { s.canNode with nmt := k } }
  let restarted (t : State) : Prop := t.canNode.nmt = 0 ∧ t.canNode.nodeId = ofLeBytes (t.objOwn 0x1FF0 1 [32]) ∧
    t.canNode.nominal = ofLeBytes (t.objOwn 0x1FF0 2 (leBytes 4 500000)) ∧
    t.canNode.dataRate = ofLeBytes (t.objOwn 0x1FF0 3 (leBytes 4 2000000)) ∧ t.canNode.sent = (4, [0]) :: s.canNode.sent
  (mine → exec (.nmtStart node) s = .next (becomes 1) ∧ exec (.nmtStop node) s = .next (becomes 2) ∧
    exec (.nmtPreOperational node) s = .next (becomes 0)) ∧
  (mine → Does (.nmtResetCommunication node) s fun t => restarted t ∧ Touches [.canNode] s t) ∧
  (mine → Does (.nmtResetNode node) s fun t => restarted t ∧ t.dict = { s.dict with vals := s.dict.stored } ∧
    Touches [.canNode, .dict] s t) ∧
  (¬ mine → ∀ i ∈ [Instr.nmtStart node, .nmtStop node, .nmtPreOperational node, .nmtResetCommunication node, .nmtResetNode node],
    Idle i s)

/-- The node's own messages: a heartbeat with the NMT state unless its time is 0, and a TPDO, when operational and past its
inhibit time, whose content is open (R394, log entry 61). -/
def nodeMessages : Prop := ∀ (n : Fin 4) (s : State),
  let time := ofLeBytes (s.objOwn 0x1017 0 (leBytes 2 1000))
  let state : Byte := if s.canNode.nmt = 1 then 0x05 else if s.canNode.nmt = 2 then 0x04 else 0x7F
  let last := tabGet 0 n.val s.canNode.tpdoAt
  let free := nodeLives s ∧ s.canNode.nmt = 1 ∧
    (last = 0 ∨ last - 1 + ofLeBytes (s.objOwn (0x1800 + n) 3 [0, 0]) * 150000 ≤ s.now)
  (nodeLives s → time ≠ 0 → exec .heartbeat s =
    .next { s with canNode := { s.canNode with sent := (0, [state]) :: s.canNode.sent } }) ∧
  (¬ nodeLives s ∨ time = 0 → Idle .heartbeat s) ∧
  (free → Does (.tpdo n) s fun t => (∃ b, b.length = 8 ∧ t.canNode.sent = (2, b) :: s.canNode.sent) ∧
    tabGet 0 n.val t.canNode.tpdoAt = s.now + 1 ∧ t.canNode.nmt = 1 ∧ Touches [.freeCtr, .canNode] s t) ∧
  (¬ free → Idle (.tpdo n) s)

/-- A USDO request waits its turn as CAN's; while a session on another object is open it is refused with 0x0800_0022; a
stopped node takes none (R391, R394). -/
def usdo : Prop := ∀ (w : Bool) (index : BitVec 16) (sub : BitVec 8) (off : Word) (len : BitVec 16) (d : List Byte) (last : Bool)
    (s : State),
  let live := nodeLives s ∧ s.canNode.nmt ≠ 2
  let open' := ∃ t ∈ s.dict.transfers, t.who = 2 ∧ ¬ (t.index = index.toNat ∧ t.sub = sub.toNat)
  let r : DictReq := { who := 2, cmd := toWord ((if w then 2 else 1) * 2 ^ 30 + index.toNat * 256 + sub.toNat), off := off.toNat
                       len := len.toNat, buf := 0, data := d, last := last, time := s.now }
  (¬ live → Idle (.usdoRequest w index sub off len d last) s) ∧
  (live → open' → exec (.usdoRequest w index sub off len d last) s =
    .next { s with canNode := { s.canNode with sent := (3, [0x22, 0, 0, 0x08]) :: s.canNode.sent } }) ∧
  (live → ¬ open' → exec (.usdoRequest w index sub off len d last) s =
    .next { s with dict := { s.dict with queue := queuedWith s r } })

/-- A filter of controller `c` accepts the frame: enabled, of its kind, and equal where the mask is set (R396, R398). -/
def filterTakes (s : State) (c : Nat) (ext : Bool) (id : BitVec 29) : Prop :=
  ∃ i < 32, s.bit (Reg.CAN_FILT_ID c i) 31 = true ∧ s.bit (Reg.CAN_FILT_ID c i) 30 = ext ∧
    ∀ b < 29, s.bit (Reg.CAN_FILT_MASK c i) b = true → s.bit (Reg.CAN_FILT_ID c i) b = id.getLsbD b

/-- What a CAN event may change beside its own registers. -/
def canBeside (s : State) (c : Nat) : List Nat :=
  [Reg.CAN_STATUS c, Reg.CAN_ERRCNT c, Reg.TS_IRQ_PEND 0, groupReg s (2320 + c)]

/-- A good frame: dropped and counted without an accepting filter, dropped with rx_too_long beyond the buffer size, dropped
with rx_overrun into a full FIFO, else stored with rx, its data in order behind a header word that the spec leaves open
(R396, R398, log entry 1). -/
def canReceive : Prop := ∀ (c : Fin 4) (ext : Bool) (id : BitVec 29) (d : List Byte) (s : State),
  let i : Instr := .canFrameReceive c none ext id d
  let st := Reg.CAN_STATUS c
  let long := 8 * 2 ^ s.fld (Reg.CAN_RXBUF_SIZE c) 1 0 < d.length
  (¬ canHears s c → ∀ f, Idle (.canFrameReceive c f ext id d) s) ∧
  (canHears s c → ¬ filterTakes s c ext id → Does i s fun t => t.cans = s.cans ∧
    t.fld (Reg.CAN_DROPS c) 15 0 = min 0xFFFF (s.fld (Reg.CAN_DROPS c) 15 0 + 1) ∧
    Keeps s t [Reg.CAN_DROPS c, st, Reg.CAN_ERRCNT c] ∧ Touches [.freeCtr, .regs, .cyc] s t) ∧
  (canHears s c → filterTakes s c ext id → long → Does i s fun t => t.cans = s.cans ∧ t.bit st 2 = true ∧
    Keeps s t (canBeside s c) ∧ Touches [.freeCtr, .regs, .cyc] s t) ∧
  (canHears s c → filterTakes s c ext id → ¬ long → 64 ≤ (s.can c).fifo.length → Does i s fun t => t.cans = s.cans ∧
    t.bit st 3 = true ∧ Keeps s t (canBeside s c) ∧ Touches [.freeCtr, .regs, .cyc] s t) ∧
  (canHears s c → filterTakes s c ext id → ¬ long → (s.can c).fifo.length < 64 → Does i s fun t => t.bit st 0 = true ∧
    (∃ h ws, (t.can c).fifo = (s.can c).fifo ++ [h :: ws] ∧ ws.length = (d.length + 3) / 4 ∧
      ∀ k (b : Byte), d[k]? = some b → fieldOf (ws.getD (k / 4) 0) (k % 4 * 8 + 7) (k % 4 * 8) = b.toNat) ∧
    (∀ j, j ≠ c.val → t.can j = s.can j) ∧ Keeps s t (canBeside s c) ∧ Touches [.freeCtr, .regs, .cans, .cyc] s t)

/-- Error counting: a bad frame raises the counter of its direction, a good one lowers it, either counter from 128 up makes
the controller passive, and a transmit counter beyond 255 takes it off the bus; the steps are ISO 11898-1's (R396, log
entry 62). -/
def canErrors : Prop := ∀ (c : Fin 4) (n : Fin 16) (ext : Bool) (id : BitVec 29) (d : List Byte) (s : State), canHears s c →
  let e := Reg.CAN_ERRCNT c
  let rec' := s.fld e 15 8
  let tec := s.fld e 7 0
  let counts (t : State) (r x : Nat) : Prop := t.fld e 15 8 = min 255 r ∧ t.fld e 7 0 = min 255 x ∧
    t.fld (Reg.CAN_STATUS c) 31 30 = if 128 ≤ r ∨ 128 ≤ x then 1 else 0
  (tec + 8 ≤ 255 → Does (.canFrameReceive c (some true) ext id d) s fun t => counts t rec' (tec + 8) ∧
    Keeps s t [e, Reg.CAN_STATUS c] ∧ Touches [.regs, .cyc] s t) ∧
  (255 < tec + 8 → Does (.canFrameReceive c (some true) ext id d) s fun t => t.fld e 15 8 = rec' ∧ t.fld e 7 0 = 255 ∧
    t.fld (Reg.CAN_STATUS c) 31 30 = 2 ∧ t.bit (Reg.CAN_STATUS c) 4 = true ∧ Keeps s t (canBeside s c) ∧ Touches [.regs, .cyc] s t) ∧
  (Does (.canFrameReceive c (some false) ext id d) s fun t => counts t (rec' + 1) tec ∧ Keeps s t [e, Reg.CAN_STATUS c] ∧
    Touches [.regs, .cyc] s t) ∧
  (rec' ≤ 127 → Does (.canFrameReceive c none ext id d) s fun t => counts t (rec' - 1) tec) ∧
  (127 < rec' → Does (.canFrameReceive c none ext id d) s fun t => 119 ≤ t.fld e 15 8 ∧ t.fld e 15 8 ≤ 127 ∧ t.fld e 7 0 = tec) ∧
  (Does (.canTxDone c n) s fun t => counts t rec' (tec - 1) ∧ t.bit (Reg.CAN_STATUS c) 1 = true ∧ Keeps s t (canBeside s c) ∧
    Touches [.regs, .cyc] s t)

/-- The bus held dominant stops the controller until recessive returns; bus-off sets its state and event, and with
auto_recover the controller rejoins with its counters at 0; without it, or without TCLK's PLL, it waits (R396, R398). -/
def canBus : Prop := ∀ (c : Fin 4) (s : State),
  let st := Reg.CAN_STATUS c
  let rejoins := s.sys.powerGood = true ∧ s.bit (Reg.CAN_CTL c) 31 = true ∧ s.bit (Reg.CAN_CTL c) 30 = true ∧
    s.sys.tclkOnRc = false ∧ s.fld st 31 30 = 2
  (¬ canHears s c → Idle (.busStuck c) s ∧ Idle (.busOff c) s ∧ ∀ n, Idle (.canTxDone c n) s) ∧
  (canHears s c → Does (.busStuck c) s fun t => (t.can c).stuck = true ∧ ¬ canHears t c ∧ t.bit st 5 = true ∧
    (t.can c).fifo = (s.can c).fifo ∧ (∀ j, j ≠ c.val → t.can j = s.can j) ∧ Keeps s t (canBeside s c) ∧ Touches [.regs, .cans, .cyc] s t) ∧
  (s.sys.powerGood = true → exec (.busRecessiveReturn c) s =
    .next { s with cans := tabSet {} c.val { s.can c with stuck := false } s.cans }) ∧
  (canHears s c → Does (.busOff c) s fun t => t.fld st 31 30 = 2 ∧ t.bit st 4 = true ∧ ¬ canHears t c ∧
    Keeps s t (canBeside s c) ∧ Touches [.regs, .cyc] s t) ∧
  (rejoins → Does (.busOffRecover c) s fun t => t.fld st 31 30 = 0 ∧ t.fld st 29 0 = s.fld st 29 0 ∧
    t.reg (Reg.CAN_ERRCNT c) = 0 ∧ Keeps s t [st, Reg.CAN_ERRCNT c] ∧ Touches [.regs] s t) ∧
  (¬ rejoins → Idle (.busOffRecover c) s)

/-- MAC `m` hears: clocked, enabled, link up (R396, R398). -/
def macHears (s : State) (m : Nat) : Prop := s.fclkOn ∧ s.bit (Reg.ETH_CTL m) 31 = true ∧ s.bit (Reg.ETH_STATUS m) 31 = true

/-- The 48-bit address of a register pair (R398). -/
def macAddress (s : State) (lo hi : Nat) : Nat := (s.reg lo).toNat + s.fld hi 15 0 * 2 ^ 32

/-- The addresses that MAC `m` takes (R396). -/
def macTakes (s : State) (m dst : Nat) : Prop :=
  dst = macAddress s (Reg.ETH_ADDR_LO m) (Reg.ETH_ADDR_HI m) ∨ dst ∈ [0xFFFFFFFFFFFF, 0x011B19000000, 0x0180C200000E] ∨
    ∃ g < 4, dst = macAddress s (Reg.ETH_MCAST_LO m g) (Reg.ETH_MCAST_HI m g)

/-- An Ethernet frame with an FCS error or a length out of bounds, or for another address, is dropped and counted; any
other joins the receive queue, and an event message is time-stamped with ts_rx (R396, R398). -/
def ethReceive : Prop := ∀ (m : Fin 2) (d : List Byte) (fcs event : Bool) (s : State),
  let i : Instr := .ethFrameReceive m d fcs event
  let dst := (d.take 6).foldl (fun n b => n * 256 + b.toNat) 0
  let bad := fcs = false ∨ d.length < 64 ∨ 1522 < d.length
  let drops := Reg.ETH_DROPS m
  let counted (t : State) (h l : Nat) : Prop := t.fld drops h l = min (2 ^ (h + 1 - l) - 1) (s.fld drops h l + 1) ∧
    t.macQueues = s.macQueues ∧ Keeps s t [drops] ∧ Touches [.regs, .cyc] s t
  (¬ macHears s m → Idle i s) ∧
  (macHears s m → bad → Does i s fun t => counted t 31 20) ∧
  (macHears s m → ¬ bad → ¬ macTakes s m dst → Does i s fun t => counted t 19 8) ∧
  (macHears s m → ¬ bad → macTakes s m dst → Does i s fun t =>
    (∃ ws, tabGet [] (2 * m.val) t.macQueues = tabGet [] (2 * m.val) s.macQueues ++ ws ∧ ws.length = (d.length + 3) / 4 ∧
      ∀ k (b : Byte), d[k]? = some b → fieldOf (ws.getD (k / 4) 0) (k % 4 * 8 + 7) (k % 4 * 8) = b.toNat) ∧
    (∀ j, j ≠ 2 * m.val → tabGet [] j t.macQueues = tabGet [] j s.macQueues) ∧
    (event = false → Keeps s t []) ∧
    (event = true → t.bit (Reg.ETH_STATUS m) 1 = true ∧
      Keeps s t [Reg.ETH_STATUS m, Reg.ETH_TS_RX m, Reg.TS_IRQ_PEND 0, groupReg s (2324 + m)]) ∧
    Touches [.regs, .macQueues, .cyc] s t)

/-- SGMII synchronisation lost takes the link down, gained brings it up, each change with link_change (R396, R398). -/
def sgmii : Prop := ∀ (m : Fin 2) (s : State), s.fclkOn → s.bit (Reg.ETH_CTL m) 31 = true →
  let st := Reg.ETH_STATUS m
  let changed (t : State) (up : Bool) : Prop := t.bit st 31 = up ∧ t.bit st 0 = true ∧
    Keeps s t [st, Reg.TS_IRQ_PEND 0, groupReg s (2324 + m)] ∧ Touches [.regs, .cyc] s t
  (s.bit st 31 = true → (Does (.sgmiiSyncLost m) s fun t => changed t false) ∧ Idle (.sgmiiSyncGained m) s) ∧
  (s.bit st 31 = false → (Does (.sgmiiSyncGained m) s fun t => changed t true) ∧ Idle (.sgmiiSyncLost m) s)

/-- The field of a datagram: `n` little-endian bytes with offset `i`. -/
def datagramField (d : List Byte) (i n : Nat) : Nat := ofLeBytes ((d.drop i).take n)

/-- Horano datagrams: a fragment, a wrong length, a sender not in the peer list and the 2,001st request of a second are
dropped and counted; a repeated sequence number gets the kept response and is not carried out again, nor is it while the
request of that number still waits; any other sound request waits its turn with its index, offset and data, for at most
1,024 bytes (R391, R395, R396). A datagram whose header breaks R395's table is ignored:
the model's reading. -/
def horano : Prop := ∀ (m : Fin 2) (src : Word) (port : BitVec 16) (dst : Word) (broken : Bool) (d : List Byte) (s : State),
  let i : Instr := .horanoDatagram m src port dst broken d
  let hears := macHears s m ∧ s.bit (Reg.ETH_CTL m) 29 = true ∧ s.firmwareOn = true ∧ dst ≠ 0 ∧
    toWord (ofLeBytes (s.objOwn 0x1FF1 (m.val + 1) (leBytes 4 0))) = dst
  let peer := src ≠ 0 ∧ ∃ k < 8, toWord (ofLeBytes (s.objOwn 0x1FF2 (k + 1) (leBytes 4 0))) = src
  let x := s.mac m
  let used := if x.second = s.now / 1500000000 then x.count else 0
  let sound := 20 ≤ d.length ∧ d.length ≤ 1044 ∧ datagramField d 0 1 = 1 ∧ 1 ≤ datagramField d 1 1 ∧ datagramField d 1 1 ≤ 3 ∧
    (datagramField d 1 1 = 2 → datagramField d 12 2 = d.length - 20)
  let kept := ((x.kept.find? fun k => decide (k.1 = (src.toNat, port.toNat))).map (·.2)).getD []
  let waits := ∃ y ∈ s.dict.queue, y.who = 3 + m.val ∧ y.peer = (src.toNat, port.toNat) ∧ y.seq = datagramField d 2 2
  let dropped (t : State) : Prop := t.fld (Reg.ETH_DROPS m) 7 0 = min 255 (s.fld (Reg.ETH_DROPS m) 7 0 + 1) ∧
    t.dict = s.dict ∧ (t.mac m).sent = x.sent ∧ Keeps s t [Reg.ETH_DROPS m] ∧ Touches [.regs, .macs, .cyc, .pulses, .encSince, .zonePins] s t
  (¬ hears → Idle i s) ∧
  (hears → broken = true ∨ ¬ peer → Does i s dropped) ∧
  (hears → broken = false → peer → 2000 ≤ used → Does i s dropped) ∧
  (hears → broken = false → peer → used < 2000 → sound → Does i s fun t =>
    (t.mac m).second = s.now / 1500000000 ∧ (t.mac m).count = used + 1 ∧ Touches [.dict, .macs, .cyc] s t ∧
    (∀ r, (kept.find? fun y => decide (y.1 = datagramField d 2 2)).map (·.2) = some r →
      (t.mac m).sent = r :: x.sent ∧ t.dict = s.dict) ∧
    ((kept.find? fun y => decide (y.1 = datagramField d 2 2)) = none → waits → t.dict = s.dict ∧ (t.mac m).sent = x.sent) ∧
    ((kept.find? fun y => decide (y.1 = datagramField d 2 2)) = none → ¬ waits → (t.mac m).sent = x.sent ∧
      ∃ r : DictReq, t.dict = { s.dict with queue := queuedWith s r } ∧ r.time = s.now ∧ r.who = 3 + m.val ∧ fieldOf r.cmd 31 30 = datagramField d 1 1 ∧ fieldOf r.cmd 23 8 = datagramField d 4 2 ∧
      fieldOf r.cmd 7 0 = datagramField d 6 1 ∧ r.off = datagramField d 8 4 ∧ r.len = min 1024 (datagramField d 12 2) ∧ r.data = d.drop 20 ∧
      r.peer = (src.toNat, port.toNat) ∧ r.seq = datagramField d 2 2)) ∧
  (hears → broken = false → peer → used < 2000 → ¬ sound → Does i s fun t => t.dict = s.dict ∧ (t.mac m).sent = x.sent ∧
    Touches [.macs, .cyc] s t)

/-- A Horano request that is served answers its peer with R395's header, and the answer is kept among the peer's last 8
(R391, R395). -/
def horanoAnswers : Prop := ∀ (s : State) (r : DictReq) (rest : List DictReq) (m : Fin 2), s.dict.queue = r :: rest →
  r.who = 3 + m.val → served s r.who → fieldOf r.cmd 31 30 = 1 → fieldOf r.cmd 23 8 = 0x1018 → fieldOf r.cmd 7 0 = 2 → r.off = 0 →
  4 ≤ r.len → r.seq < 65536 → Does .dictRead s fun t =>
    let d : List Byte := [1, 0x81] ++ leBytes 2 r.seq ++ [0x18, 0x10, 2, 0] ++ leBytes 4 0 ++ leBytes 2 4 ++ [0, 0] ++ leBytes 4 4 ++
      leBytes 4 (if s.sys.variant = .vl8860 then 0x8860 else 0x8830)
    t.dict.queue = rest ∧ (t.mac m).sent = d :: (s.mac m).sent ∧
    (∃ l, (t.mac m).kept.head? = some (r.peer, (r.seq, d) :: l) ∧ l.length ≤ 7)


/-! ### spec/18: sensors, log and journal, OTP, boot, tamper, random source, telemetry, core release -/

/-- An event of this class, unit and code has been logged: where the newest entry is of the same unit and code and rose less
than 1 s ago, its repeat count is raised, stopping at the top; otherwise a new entry stands at the ring's end with the next
number, the boot count, and the device timer or 0 without FCLK. A full ring gives up its oldest entry, which is lost where
all are unwritten; above 768 unwritten ones tailstock source 26 is raised; a new error entry sends an EMCY message, whose
content is open (R394, R408, R409). -/
def logged (s t : State) (cls unit code : Nat) : Prop :=
  (∀ e, s.log.ring.getLast? = some e → e.unit = unit → e.code = code → s.now < s.log.lastAt + 1500000000 →
    t.log = { s.log with
      ring := s.log.ring.dropLast ++ [{ e with rep := if e.rep = 0xFFFFFFFF then e.rep else e.rep + 1 }]
      lastAt := s.now }) ∧
  ((∀ e, s.log.ring.getLast? = some e → ¬ (e.unit = unit ∧ e.code = code ∧ s.now < s.log.lastAt + 1500000000)) →
    (∃ e : LogEntry, t.log.ring = (s.log.ring ++ [e]).drop (s.log.ring.length - 1023) ∧ e.seq = s.log.nextSeq ∧ e.cls = cls ∧
      e.unit = unit ∧ e.code = code ∧ e.rep = 1 ∧ e.boot = s.log.bootCount ∧ e.time = if s.fclkOn then s.devTimer else 0) ∧
    t.log.nextSeq = s.log.nextSeq + 1 ∧ t.log.lastAt = s.now ∧ t.log.journal = s.log.journal ∧
    (s.log.unwritten < 1024 → t.log.unwritten = s.log.unwritten + 1 ∧ t.log.discarded = s.log.discarded) ∧
    (1024 ≤ s.log.unwritten → t.log.unwritten = s.log.unwritten ∧ t.log.discarded = s.log.discarded + 1 ∧
      t.log.lossWaiting = s.log.lossWaiting + 1) ∧
    (768 ≤ s.log.unwritten → t.bit (Reg.TS_IRQ_PEND 0) 26 = true) ∧
    (cls = 2 → canHears s 0 → s.canNode.nmt ≠ 2 → ∃ b, b.length = 8 ∧ t.canNode.sent = (1, b) :: s.canNode.sent))

/-- The holds on the core domain: a hold that stood or has been taken stands until, for the thermal one, every temperature
sensor that converts has read below 115 degrees 4 times running, and for the other, no sensor is still in an alarm on whose
entry action 2 held the domain (R406, R407). -/
def holdsStand (s t : State) (hot alarm : Prop) : Prop :=
  (t.sys.held.getLsbD 0 = true ↔ (s.sys.held.getLsbD 0 = true ∨ hot) ∧
    ∃ j < 32, (t.sensor j).seen = true ∧ (t.sensor j).cool < 4) ∧
  (t.sys.held.getLsbD 1 = true ↔ (s.sys.held.getLsbD 1 = true ∨ alarm) ∧
    ∃ j < 56, (t.sensor j).alarm = true ∧ (t.sensor j).holds = true)

/-- The core domain goes into reset under the global trip, with bit `b` of the reset cause: FCLK stops, its islands are off,
its units stand as after reset; the always-on domain's memory and DRAM keep their contents (R406, R407, R458). -/
def coreDomainHeld (s t : State) (b : Nat) : Prop :=
  t.sys.fclk = false ∧ t.sys.coreIslands = 0 ∧ t.sys.sectorIslands = 0 ∧ t.sys.mediaIsland = false ∧
    t.bit Reg.GCTL_RESET_CAUSE b = true ∧ t.bit Reg.PWM_GTRIP 0 = true ∧ t.loops = [] ∧ t.groups = [] ∧
    t.spindles = [] ∧ (∀ c < 16, t.core c = {}) ∧ (∀ g < 24, t.pwmState g = 0) ∧
    (∀ g < 24, t.reg (Reg.PWM_SAFE g) = s.reg (Reg.PWM_SAFE g)) ∧ t.sys.phase = s.sys.phase ∧ t.nor = s.nor ∧
    t.sec.otp = s.sec.otp ∧ (∀ a, 0x0800000000 ≤ a → t.byte a = s.byte a)

/-- A sample of an enabled sensor shows its value with valid. Warning and alarm are entered after filt samples in a row
outside their window, limits inside, and left after filt samples inside; each entry and exit is logged, an entry raises
source 24 or 25. Entry into alarm with action 1 asserts the global trip, with action 2 it also holds the core domain in
reset; action 3 leaves that sensor's results open (log entry 1). Four readings in a row of 125 degrees shut down in
hardware whatever the settings are, so a conversion of a disabled sensor counts for that alone (R406, R407, R428). The
classes of these log entries are the model's (log entry 13). -/
def sensorSamples : Prop := ∀ (k : Fin 56) (raw : BitVec 16) (s : State),
  let c : Instr := .sensorSample k raw
  let ctl := Reg.TSN_CTL k
  let takes := s.sys.powerGood = true ∧ s.bit ctl 31 = true
  let counts := s.sys.powerGood = true ∧ s.bit ctl 31 = false
  let inside (w : Word) : Bool := decide (signedOf 16 (fieldOf w 15 0) ≤ raw.toInt) && decide (raw.toInt ≤ signedOf 16 (fieldOf w 31 16))
  let w := inside (s.reg (Reg.TSN_WARN k))
  let a := inside (s.reg (Reg.TSN_ALARM k))
  let filt := max 1 (s.fld ctl 7 0)
  let x := s.sensor k
  let warn : Bool := if x.warn then !(w && decide (filt ≤ x.warnIn + 1)) else !w && decide (filt ≤ x.warnOut + 1)
  let alarm : Bool := if x.alarm then !(a && decide (filt ≤ x.alarmIn + 1)) else !a && decide (filt ≤ x.alarmOut + 1)
  let entersAlarm := x.alarm = false ∧ alarm = true
  let action := s.fld ctl 30 29
  let hot := k.val < 32 ∧ 2000 ≤ raw.toInt ∧ 4 ≤ x.hot + 1 ∧ s.sys.held.getLsbD 0 = false
  let hold := entersAlarm ∧ action = 2 ∧ s.sys.held.getLsbD 1 = false
  let trips := entersAlarm ∧ (action = 1 ∨ action = 2 ∧ s.sys.held.getLsbD 1 = true)
  let free := entersAlarm ∧ action = 3
  let calm := ¬ hot ∧ ¬ (entersAlarm ∧ action ≠ 0)
  let pend := Reg.TS_IRQ_PEND 0
  let src := if k.val < 32 then 24 else 25
  (s.sys.powerGood = false → Idle c s) ∧
  (takes ∨ counts → Does c s fun t => ∀ j, j ≠ k.val → t.sensor j = s.sensor j) ∧
  (counts → Does c s fun t => t.sensor k = { x with
      seen := true, hot := if 2000 ≤ raw.toInt then x.hot + 1 else 0, cool := if raw.toInt < 1840 then x.cool + 1 else 0 } ∧
    holdsStand s t hot False ∧ (hot → coreDomainHeld s t 4) ∧
    (¬ hot → t.sys = { s.sys with held := t.sys.held } ∧ t.sec = { s.sec with sensors := t.sec.sensors } ∧
      Touches [.sys, .sec, .cyc, .pulses, .zonePins] s t)) ∧
  (takes → ¬ free → Does c s fun t =>
    t.sensor k = { seen := true, warn := warn, alarm := alarm
                   holds := alarm && (x.holds || decide (x.alarm = false ∧ action = 2))
                   warnIn := if w then x.warnIn + 1 else 0, warnOut := if w then 0 else x.warnOut + 1
                   alarmIn := if a then x.alarmIn + 1 else 0, alarmOut := if a then 0 else x.alarmOut + 1
                   hot := if 2000 ≤ raw.toInt then x.hot + 1 else 0, cool := if raw.toInt < 1840 then x.cool + 1 else 0 } ∧
    holdsStand s t hot hold ∧ t.reg (Reg.TSN_VALUE k) = 0x80000000#32 ||| raw.zeroExtend 32 ∧
    t.fld ctl 17 16 = (if alarm then 2 else if warn then 1 else 0) ∧ (∀ b < 32, b ≠ 16 → b ≠ 17 → t.bit ctl b = s.bit ctl b)) ∧
  (takes → free → 32 ≤ k.val ∨ s.sys.held.getLsbD 0 = true → Does c s fun t => t.sys = { s.sys with held := t.sys.held } ∧
    Keeps s t [Reg.TSN_VALUE k, ctl, pend] ∧ Touches [.freeCtr, .regs, .sys, .log, .sec, .canNode, .cyc, .pulses, .zonePins] s t) ∧
  (takes → (x.warn = false ∧ warn = true) ∨ entersAlarm → Does c s fun t => t.bit pend src = true) ∧
  (takes → calm → warn = x.warn → alarm = x.alarm → Does c s fun t => t.sys = { s.sys with held := t.sys.held } ∧
    t.sec = { s.sec with sensors := t.sec.sensors } ∧ Keeps s t [Reg.TSN_VALUE k, ctl] ∧ Touches [.regs, .sys, .sec, .cyc, .pulses, .zonePins] s t) ∧
  (takes → calm → (warn ≠ x.warn ∧ alarm = x.alarm) ∨ (warn = x.warn ∧ alarm ≠ x.alarm) → Does c s fun t =>
    logged s t (if warn = x.warn then 2 else 1) 1 (Config.logCode evSensor).toNat ∧ Keeps s t [Reg.TSN_VALUE k, ctl, pend] ∧
    t.sys = { s.sys with held := t.sys.held } ∧ t.sec = { s.sec with sensors := t.sec.sensors } ∧
    Touches [.freeCtr, .regs, .sys, .log, .sec, .canNode, .cyc, .pulses, .zonePins] s t) ∧
  (takes → ¬ hot → trips → Does c s fun t => t.reg Reg.PWM_GTRIP = withBit (s.reg Reg.PWM_GTRIP) 0 true ∧
    (∀ g < 24, tripped s t g) ∧ t.sys = { s.sys with held := t.sys.held } ∧
    Touches [.freeCtr, .regs, .sys, .log, .pairs, .sec, .canNode, .cyc, .pulses, .zonePins] s t) ∧
  (takes → hold → Does c s fun t => coreDomainHeld s t 5 ∧ t.sys.held.getLsbD 1 = true) ∧
  (takes → ¬ free → hot → Does c s fun t => coreDomainHeld s t 4 ∧ t.sys.held.getLsbD 0 = true)

/-- A sensor that has converted and then has no conversion for 5 ms is invalid, which is logged, and is left out of the shutdown and of its own alarm
(R407). -/
def sensorFails : Prop := ∀ (k : Fin 56) (s : State),
  let val := Reg.TSN_VALUE k
  let ctl := Reg.TSN_CTL k
  let counts := s.sys.powerGood = true ∧ (s.sensor k).seen = true
  (counts → Does (.sensorInvalid k) s fun t => t.bit val 31 = false ∧ (∀ b < 31, t.bit val b = s.bit val b) ∧
    t.sensor k = { warn := (s.sensor k).warn } ∧ (∀ j, j ≠ k.val → t.sensor j = s.sensor j) ∧
    t.fld ctl 17 16 = (if (s.sensor k).warn then 1 else 0) ∧ (∀ b < 32, b ≠ 16 → b ≠ 17 → t.bit ctl b = s.bit ctl b) ∧
    logged s t 2 1 (Config.logCode evSensor).toNat ∧ holdsStand s t False False ∧ t.sys = { s.sys with held := t.sys.held } ∧
    Keeps s t [val, ctl, Reg.TS_IRQ_PEND 0] ∧ Touches [.freeCtr, .regs, .sys, .log, .sec, .canNode] s t) ∧
  (¬ counts → Idle (.sensorInvalid k) s)

/-- The entries of the next journal page: the oldest unwritten ones, 4 at most, within one block (R409, R410). -/
def nextPage (s : State) : Nat := min (min 4 s.log.unwritten) (1024 - s.log.place)

/-- Block `c` is the next one of the circle after `b` that is not marked bad (R409, R410). -/
def aheadOf (bad : List Nat) (b c : Nat) : Prop :=
  ∃ i < 1024, c = (b + 1 + i) % 1024 ∧ c ∉ bad ∧ ∀ j < i, (b + 1 + j) % 1024 ∈ bad

/-- The write point enters block `b`, whose next block `c` is erased with its entries (R410). -/
def entersBlock (t : State) (l : List (Nat × LogEntry)) (b : Nat) : Prop :=
  t.log.block = b ∧ t.log.place = 0 ∧
    ∀ c, aheadOf t.log.badBlocks b c → c ≠ b → t.log.journal = l.filter fun x => decide (x.1 ≠ c)

/-- A journal page is programmed from the oldest unwritten entries and stands there once it has been verified; a full block
leads to the next; once the journal has caught up, a loss entry tells how many entries were discarded; a failed program
marks the block bad and skips it, which is logged; a NOR that does not answer is absent, with source 23 (R409, R410, R413). -/
def journal : Prop := ∀ (n b : Nat) (s : State), s.sys.powerGood = true →
  let l := s.log
  let done (r : NorResult) : Instr := .norProgramDone r
  let page := ((l.ring.drop (l.ring.length - l.unwritten)).take n).map fun e => (l.block, e)
  let caughtUp := l.unwritten = n ∧ l.lossWaiting ≠ 0
  (l.programming = none → l.unwritten ≠ 0 → s.sec.norAbsent = false →
    exec .journalWrite s = .next { s with log := { l with programming := some (nextPage s) } }) ∧
  (l.programming ≠ none ∨ l.unwritten = 0 ∨ s.sec.norAbsent = true → Idle .journalWrite s) ∧
  (l.programming = none → Idle (done .verified) s ∧ Idle (done .failed) s) ∧
  (Does (done .noAnswer) s fun t => t.sec = { s.sec with norAbsent := true } ∧ t.log = { l with programming := none } ∧
    t.bit (Reg.TS_IRQ_PEND 0) 23 = true ∧ Keeps s t [Reg.TS_IRQ_PEND 0] ∧ Touches [.regs, .log, .sec] s t) ∧
  (l.programming = some n → n ≤ l.unwritten → ¬ caughtUp → l.place + n < 1024 → exec (done .verified) s =
    .next { s with log := { l with
      journal := l.journal ++ page, unwritten := l.unwritten - n, place := l.place + n, programming := none } }) ∧
  (l.programming = some n → n ≤ l.unwritten → ¬ caughtUp → 1024 ≤ l.place + n → aheadOf l.badBlocks l.block b →
    Does (done .verified) s fun t => entersBlock t (l.journal ++ page) b ∧ t.log.unwritten = l.unwritten - n ∧
      t.log.programming = none ∧ t.log.ring = l.ring ∧ t.log.badBlocks = l.badBlocks ∧ Touches [.log] s t) ∧
  (l.programming = some n → caughtUp → logRepeats 0 1 s = false → Does (done .verified) s fun t => t.log.lossWaiting = 0 ∧
    t.log.nextSeq = l.nextSeq + 1 ∧ ∃ e, t.log.ring.getLast? = some e ∧ e.cls = 2 ∧ e.unit = 0 ∧ e.code = 1 ∧
      e.payload = leBytes 4 l.lossWaiting) ∧
  (l.programming = some n → aheadOf (l.block :: l.badBlocks) l.block b → Does (done .failed) s fun t =>
    t.log.badBlocks = l.block :: l.badBlocks ∧ entersBlock t l.journal b ∧ t.log.programming = none ∧
    t.log.unwritten = (if logRepeats 0 (Config.logCode evJournal).toNat s = true ∨ 1024 ≤ l.unwritten then l.unwritten
      else l.unwritten + 1) ∧
    Touches [.freeCtr, .regs, .log, .canNode] s t)

/-- Blowing an OTP bit: go with busy clear takes the word of OTP_ADDR and the bit and sets busy; at its end busy falls, the
bit is set and every other one stands; a bit that failed its verification shows in OTP_STATUS and may or may not be set (log
entry 1) (R412, R427). -/
def otpProgram : Prop := ∀ (v : Word) (w b : Nat) (s : State), s.sys.powerGood = true →
  let st := Reg.OTP_STATUS
  let go := bitAt v 31 = true ∧ s.bit st 31 = false
  (go → Does (.otpProg v) s fun t => t.sec = { s.sec with otpTarget := some (s.fld Reg.OTP_ADDR 7 0, fieldOf v 4 0) } ∧
    t.reg st = withBit (s.reg st) 31 true ∧ Keeps s t [st] ∧ Touches [.regs, .sec] s t) ∧
  (¬ go → Idle (.otpProg v) s) ∧
  (s.sec.otpTarget = none → ∀ ok, Idle (.otpProgDone ok) s) ∧
  (s.sec.otpTarget = some (w, b) → ∀ ok, Does (.otpProgDone ok) s fun t => t.reg st = (if ok then 0 else 1) ∧
    t.sec.otpTarget = none ∧ (t.otpWord w = s.otpWord w ||| (1#32 <<< b) ∨ ok = false ∧ t.otpWord w = s.otpWord w) ∧
    (∀ x, x ≠ w → t.otpWord x = s.otpWord x) ∧ Keeps s t [st] ∧ Touches [.freeCtr, .regs, .sec, .otp] s t)

/-- The boot ROM's start: the boot count rises, the keys are loaded, a tamper cause goes into a security entry and is
cleared. Without a NOR, in PROVISION, or after 8 tamper resets within 10 s the ROM enters recovery (R416, R417, R424, R463). -/
def bootStarts : Prop := ∀ s : State,
  let boots := s.sys.powerGood = true ∧ s.sys.phase = .bootRom
  let recent := (s.sec.tampers.filter fun t => decide (s.now < t + 15000000000)).length
  let recovers (why : Nat) : Prop := Does .bootRom s fun t => t.sys = { s.sys with phase := .recovery } ∧ t.sec.recovery = why ∧
    t.sec.otp = s.sec.otp ∧ t.mem = s.mem ∧ t.cores = s.cores
  (¬ boots → Idle .bootRom s) ∧
  (boots → Does .bootRom s fun t => t.log.bootCount = s.log.bootCount + 1 ∧ t.sec.keys = true ∧ t.reg Reg.TS_TAMPER_CAUSE = 0 ∧
    t.nor = s.nor ∧ Keeps s t [Reg.TS_TAMPER_CAUSE, Reg.TS_IRQ_PEND 0] ∧
    Touches [.freeCtr, .regs, .sys, .log, .cores, .sec, .canNode, .mem, .poison, .otp] s t) ∧
  (boots → s.reg Reg.TS_TAMPER_CAUSE ≠ 0 → logRepeats 3 (Config.logCode evTamper).toNat s = false → s.sec.norAbsent = false →
    s.log.badBlocks = [] → s.log.place < 1024 → s.log.unwritten ≤ s.log.ring.length → s.log.unwritten < 1024 →
    Does .bootRom s fun t => ∃ b e, (b, e) ∈ t.log.journal ∧ e.cls = 3 ∧ e.unit = 3 ∧ e.seq = s.log.nextSeq ∧
      e.payload = leBytes 4 (s.reg Reg.TS_TAMPER_CAUSE).toNat) ∧
  (boots → s.sec.norAbsent = true → recovers 4) ∧
  (boots → s.sec.norAbsent = false → fieldOf (s.otpWord 0) 1 0 = 0 → recovers 1) ∧
  (boots → s.sec.norAbsent = false → fieldOf (s.otpWord 0) 1 0 ≠ 0 → 8 ≤ recent → recovers 3)

/-- The slot whose image the ROM tries first: the active one, or the other while a trial runs (R416). -/
def firstSlot (r : BootRec) : Nat := if r.trial = 1 then 1 - r.tsSlot else r.tsSlot

/-- The rest of the boot: a trial of 3 attempts reverts; a counter below the confirmed version is raised to it, blown from
bit 0 upward; the chosen slot's image, or the other slot's where it does not verify, is copied to SRAM and started at its
entry address, after a trial's attempt count has risen and a boot entry has been logged; where neither verifies the ROM
enters recovery (R416, R417). -/
def bootImage : Prop := ∀ (slot : Nat) (s : State),
  let boots := s.sys.powerGood = true ∧ s.sys.phase = .bootRom ∧ s.reg Reg.TS_TAMPER_CAUSE = 0 ∧ s.sec.norAbsent = false ∧
    fieldOf (s.otpWord 0) 1 0 ≠ 0 ∧ (s.sec.tampers.filter fun t => decide (s.now < t + 15000000000)).length < 8
  let r := s.bootRec
  let plain := boots ∧ (r.trial = 0 ∨ r.attempts < 3) ∧ r.version ≤ s.counter ∧ r.tsSlot ≤ 1
  let a := firstSlot r
  let picks := (slot = a ∧ s.imageCheck a = 0) ∨ (slot = 1 - a ∧ s.imageCheck a ≠ 0 ∧ s.imageCheck (1 - a) = 0)
  (boots → r.trial ≠ 0 → 3 ≤ r.attempts → Does .bootRom s fun t => t.bootRec.trial = 0 ∧ t.bootRec.attempts = 0 ∧
    t.bootRec.tsSlot = r.tsSlot ∧ t.bootRec.coreSlot = r.coreSlot ∧ t.bootRec.version = r.version) ∧
  (boots → Does .bootRom s fun t =>
    (s.counter < r.version → ∀ i < min r.version 128, bitAt (t.otpWord (6 + i / 32)) (i % 32) = true) ∧
    (r.version ≤ s.counter → t.sec.otp = s.sec.otp) ∧ (∀ w, w < 6 ∨ 10 ≤ w → t.otpWord w = s.otpWord w)) ∧
  (plain → picks → Does .bootRom s fun t => t.sys = { s.sys with phase := .firmware } ∧ t.sec.runSlot = slot ∧
    t.sec.recovery = 0 ∧ t.core 16 = { pc := toWord (s.hdr slot 0x18 8), npc := toWord (s.hdr slot 0x18 8) + 4,
                                       cycle0 := s.devTimer } ∧
    wroteBytes s t (tsBase + s.hdr slot 0x10 8) (s.norBytes (slotBase slot + 512) (s.hdr slot 0xC 4)) ∧
    t.bootRec.attempts = (if r.trial = 0 then r.attempts else r.attempts + 1) ∧ t.bootRec.trial = r.trial ∧
    (logRepeats 4 (Config.logCode evStartUp).toNat s = false → t.log.nextSeq = s.log.nextSeq + 1)) ∧
  (plain → s.imageCheck a ≠ 0 → s.imageCheck (1 - a) ≠ 0 → Does .bootRom s fun t =>
    t.sys = { s.sys with phase := .recovery } ∧ t.sec.recovery = 2 ∧ t.mem = s.mem ∧ t.cores = s.cores)

/-- The debug challenge expires (R423). -/
def challengeExpires : Prop := ∀ s : State,
  (s.sys.powerGood = true → exec .challengeExpiry s = .next { s with sec := { s.sec with challenge := none } }) ∧
  (s.sys.powerGood = false → Idle .challengeExpiry s)

/-- Everything but what a device reset keeps stands as after reset, the boot ROM's turn apart: registers but the listed ones
and those loaded from straps and fuses, units, islands and clocks of the core domain, memory; a TRIP_ALL_N that is active
trips at once (R11, R172, R458). -/
def returned (s t : State) (as : List Nat) : Prop :=
  (∀ a, a ∉ as → a ∉ [Reg.PWM_GTRIP, Reg.HP_PRODUCT 0, Reg.HP_PRODUCT 1] → (∀ g < 24, a ≠ Reg.PWM_SAFE g) →
      t.reg a = State.reset.reg a) ∧
    t.reg Reg.PWM_GTRIP = (if s.tripAll then 2 else 0) ∧ (∀ p < 2, t.reg (Reg.HP_PRODUCT p) = s.otpWord 1) ∧
    (∀ g < 24, t.reg (Reg.PWM_SAFE g) = [0x0000, 0xAAAA, 0x5555, 0x4444].getD s.sys.strap.toNat 0) ∧
    t.reg Reg.PIN_STRAP = s.sys.strap.zeroExtend 32 ∧ t.sys.strap = s.sys.strap ∧ t.sys.variant = s.sys.variant ∧
    t.sys.phase = .bootRom ∧ t.sys.powerGood = s.sys.powerGood ∧ t.sys.fclk = false ∧ t.sys.coreIslands = 0 ∧
    t.sys.sectorIslands = 0 ∧ t.sys.mediaIsland = false ∧ t.sys.held = 0 ∧ t.spindles = [] ∧ t.groups = [] ∧ t.pairs = [] ∧
    t.loops = [] ∧ t.plate = {} ∧ t.cores = [] ∧ t.dma = [] ∧ t.consoles = [] ∧ t.heads = [] ∧ t.cvs = [] ∧ t.iotlb = [] ∧
    t.mem = [] ∧ t.devTimer = 0 ∧ t.log = s.log ∧ t.nor = s.nor ∧ t.sec.otp = s.sec.otp ∧ t.dict.stored = s.dict.stored ∧ t.encoders = s.encoders ∧
    t.dict.vals = s.dict.stored ∧ t.bankSupply = s.bankSupply ∧ t.tripAll = s.tripAll ∧ t.pending = s.pending ∧ t.now = s.now

/-- A tamper event zeroises keys, challenge and unlock level and resets the device with its tamper bit; TS_TAMPER_CAUSE
gains the cause; the mesh check is such an event where the pattern does not match (R424, R425, R458). -/
def tampers : Prop := ∀ (k : Fin 4) (cause : TamperCause) (s : State),
  (k.val, cause) ∈ [(0, TamperCause.mesh), (1, .supply), (2, .clock), (3, .otpParity)] →
  let gains (c : Instr) (k : Nat) : Prop := Does c s fun t =>
    returned s t [Reg.PIN_STRAP, Reg.TS_TAMPER_CAUSE, Reg.GCTL_RESET_CAUSE, Reg.TS_IRQ_PEND 0] ∧
    t.reg Reg.TS_TAMPER_CAUSE = withBit (s.reg Reg.TS_TAMPER_CAUSE) k true ∧
    t.reg Reg.GCTL_RESET_CAUSE = withBit (s.reg Reg.GCTL_RESET_CAUSE) 2 true ∧ t.reg (Reg.TS_IRQ_PEND 0) = 1#32 <<< 17 ∧
    t.sec.keys = false ∧ t.sec.unlock = 0 ∧ t.sec.challenge = none ∧ t.sec.tampers = (s.now :: s.sec.tampers).take 8
  (s.sys.powerGood = true → gains (.tamper cause) k ∧ gains (.meshCheck false) 0 ∧ Idle (.meshCheck true) s) ∧
  (s.sys.powerGood = false → Idle (.tamper cause) s ∧ ∀ i, Idle (.meshCheck i) s)

/-- A failing test of the random source stops it and is logged; 1,024 passing samples bring it back (R425). -/
def randomSource : Prop := ∀ s : State,
  (s.sys.powerGood = true → (Does .trngHealthFail s fun t => t.sec = { s.sec with trngBad := true } ∧
      logged s t 2 0 (Config.logCode evTrng).toNat ∧ Keeps s t [Reg.TS_IRQ_PEND 0] ∧
      Touches [.freeCtr, .regs, .log, .sec, .canNode] s t) ∧
    exec .trngRecover s = .next { s with sec := { s.sec with trngBad := false } }) ∧
  (s.sys.powerGood = false → Idle .trngHealthFail s ∧ Idle .trngRecover s)

/-- Telemetry: the objects take every sensor's present value, and the page in bank 31 carries the raised counter at its first
and its last word around the readings; no other byte changes (R426). The layout between is open (log entry 1). -/
def telemetry : Prop := ∀ s : State,
  (s.firmwareOn = true → mayWrite s 0x40F8E000 0x400 → Does .telemetryRefresh s fun t => t.sec.telemetry = s.sec.telemetry + 1 ∧
    (∀ k < 56, tabGet 0 k t.sec.values = s.reg (Reg.TSN_VALUE k)) ∧
    t.bytes 0x40F8E000 4 = leBytes 4 (s.sec.telemetry + 1).toNat ∧ t.bytes 0x40F8E3FC 4 = leBytes 4 (s.sec.telemetry + 1).toNat ∧
    (∀ a, a < 0x40F8E000 ∨ 0x40F8E400 ≤ a → t.byte a = s.byte a) ∧ Touches [.freeCtr, .cores, .sec, .mem, .poison] s t) ∧
  (s.firmwareOn = false → Idle .telemetryRefresh s)

/-- Core release: the first 64 KiB of the verified core image stand in the core's TCM, GCTL_CORE_PC holds its entry address,
and the core starts there with STATUS 9 and general registers of 0; an entry address outside the first 64 KiB of TCM, or no
slot that verifies, releases nothing and is logged (R416, R461). -/
def coreReleases : Prop := ∀ (c : Fin 16) (slot : Nat) (s : State),
  let i : Instr := .coreRelease c
  let may := s.firmwareOn = true ∧ s.coreOn c = true ∧ s.dramTrained = true ∧ s.bit Reg.GCTL_CORE_REL c = false
  let r := s.bootRec
  let a := if r.trial = 2 then 3 - r.coreSlot else 2 + r.coreSlot
  let picks := (slot = a ∧ s.imageCheck a = 0) ∨ (slot = 5 - a ∧ s.imageCheck a ≠ 0 ∧ s.imageCheck (5 - a) = 0)
  let entry := s.hdr slot 0x18 8
  let inTcm := 0x10000000 ≤ entry ∧ entry ≤ 0x1000FFFF
  let unreleased (code : Nat) : Prop := Does i s fun t => logged s t 2 4 code ∧ t.core c = s.core c ∧
    Keeps s t [Reg.TS_IRQ_PEND 0] ∧ Touches [.freeCtr, .regs, .log, .canNode] s t
  (¬ may → Idle i s) ∧
  (may → r.coreSlot ≤ 1 → picks → inTcm → mayWrite s (0x20000000 + c * 0x100000) 65536 → Does i s fun t =>
    wroteBytes s t (0x20000000 + c * 0x100000) ((s.norBytes (slotBase slot + 512) (s.hdr slot 0xC 4)).take 65536) ∧
    t.reg (Reg.GCTL_CORE_PC c) = toWord entry ∧ t.reg Reg.GCTL_CORE_REL = withBit (s.reg Reg.GCTL_CORE_REL) c true ∧
    (t.core c).pc = toWord entry ∧ (t.core c).npc = toWord entry + 4 ∧ t.cr c crSTATUS = 9 ∧ (∀ g, t.greg c g = 0) ∧
    t.sec.coreRun = some slot ∧ Keeps s t [Reg.GCTL_CORE_PC c, Reg.GCTL_CORE_REL] ∧
    Touches [.regs, .cores, .sec, .mem, .poison] s t) ∧
  (may → r.coreSlot ≤ 1 → picks → ¬ inTcm → unreleased 0x10) ∧
  (may → r.coreSlot ≤ 1 → s.imageCheck a ≠ 0 → s.imageCheck (5 - a) ≠ 0 → unreleased (Config.logCode evImage).toNat)


/-! ### spec/19: machine-check records, scrubbing, check-value units -/

/-- valid written 1 clears the record of core `c` with lost and its address; nobody but the core and the tailstock reaches
it (R434, R444). -/
def recordClears : Prop := ∀ (q : Requester) (c : Fin 16) (v : Word) (s : State),
  let reaches := s.fclkOn ∧ (q = .core c ∨ q = .tailstock)
  let as := [Reg.MCR_INFO c, Reg.MCR_ADDR_LO c, Reg.MCR_ADDR_HI c]
  (reaches → bitAt v 31 = true → Does (.mcrInfo q c v) s fun t => (∀ a ∈ as, t.reg a = 0) ∧ Keeps s t as ∧ Touches [.regs] s t) ∧
  (¬ reaches ∨ bitAt v 31 = false → Idle (.mcrInfo q c v) s)

/-- One more failure handled without a machine check (R441). -/
def detectCounted (s t : State) : Prop :=
  (t.reg Reg.INT_DETECTS).toNat = min 0xFFFFFFFF ((s.reg Reg.INT_DETECTS).toNat + 1)

/-- The unit with address `a` of a memory is poisoned in `t`, and a machine check with this detail and address is on its way
to `owner` (R431 to R434). -/
def poisonedFor (s t : State) (a : Nat) (owner : Option Nat) (detail : Nat) : Prop :=
  a ∈ t.poison ∧ (∀ u, u ≠ a → (u ∈ t.poison ↔ u ∈ s.poison)) ∧
    (∃ m, t.checks = s.checks ++ [m] ∧ m.owner = owner ∧ m.detail = detail ∧ m.addr = a) ∧ Touches [.poison, .checks] s t

/-- A scrubber's read of a memory unit that passes changes nothing. One that fails with no source of truth is poisoned, and
the machine check goes to the owner: a TCM's core, the core that owns the scratch bank, the tailstock for DRAM and for its
own SRAM. A unit poisoned already is counted and not reported again. Banks in retention and DRAM in self-refresh, or not
trained, supplied and clocked, are skipped (R431 to R433, R435, R436). -/
def scrubbedMemory : Prop := ∀ (a : BitVec 40) (b : BitVec 19) (s : State),
  let n := a.toNat
  let tcm := 0x20000000 ≤ n ∧ n < 0x21000000 ∧ n % 0x100000 < 0x40000 ∧ s.coreOn ((n - 0x20000000) / 0x100000) = true
  let bank := (n - 0x40000000) / 0x80000
  let scratch := 0x40000000 ≤ n ∧ n < 0x41000000 ∧ s.bit (Reg.SB_CTL bank) 30 = true
  let dram := 0x0800000000 ≤ n ∧ n < s.dramEnd ∧ s.dramEnd ≤ 0x1000000000 ∧ s.dramOn ∧
    s.bit Reg.MC_STATUS 30 = false
  let unit := if 0x0800000000 ≤ n then n / 64 * 64 else n / 8 * 8
  let own := tsBase + 0x10000000 + b.toNat / 8 * 8
  let c : Instr := .scrubRead (.memory a) true
  let counted (t : State) : Prop := (t.reg Reg.INT_POISONED).toNat = min 0xFFFFFFFF ((s.reg Reg.INT_POISONED).toNat + 1) ∧
    Keeps s t [Reg.INT_POISONED] ∧ Touches [.regs, .cyc, .pulses] s t
  (∀ u, Idle (.scrubRead u false) s) ∧
  (¬ s.fclkOn → Idle c s) ∧
  (s.fclkOn → tcm ∨ scratch ∨ dram → unit ∈ s.poison → Does c s counted) ∧
  (s.fclkOn → unit ∉ s.poison → (tcm → Does c s fun t => poisonedFor s t unit (some ((n - 0x20000000) / 0x100000)) 1) ∧
    (scratch → Does c s fun t => poisonedFor s t unit
      (if (s.bankOwner bank).1 = 0 then some (s.bankOwner bank).2 else none) 4) ∧
    (dram → Does c s fun t => poisonedFor s t unit none 3)) ∧
  (0x40000000 ≤ n → n < 0x41000000 → s.bit (Reg.SB_CTL bank) 30 = false → Idle c s) ∧
  (0x0800000000 ≤ n → ¬ s.dramOn ∨ s.bit Reg.MC_STATUS 30 = true → Idle c s) ∧
  (s.sys.powerGood = true → (own ∈ s.poison → Does (.scrubRead (.tsRam b) true) s counted) ∧
    (own ∉ s.poison → Does (.scrubRead (.tsRam b) true) s fun t => poisonedFor s t own (some 16) 10)) ∧
  (s.sys.powerGood = false → Idle (.scrubRead (.tsRam b) true) s)

/-- A scrubber's failing read of the other memories takes its reader's route: a clean L2 line is refetched; plate words and a
loop's state go the ways of the plate and of the loop engine; a loop history is discarded; a bank word faults the loop and
its declaration's owner gets the check; a console, composer or audio word is poisoned with a check to INT_OWNER's core; a
scan-out word makes its layer underrun; a cached glyph is fetched anew; a stored line check value counts as differing
(R432, R433, R435). -/
def scrubbedUnits : Prop := ∀ (i : Fin 2097152) (w : PlateFault) (k : Fin 384) (j : Fin 4) (off : BitVec 28) (h : Fin 2) (l : Fin 8)
    (y x : BitVec 13) (n : Fin 512) (line : BitVec 16) (a : BitVec 40) (s : State),
  let c (u : ScrubUnit) : Instr := .scrubRead u true
  let sector := s.sectorOn (k.val / 64) = true
  let runs := s.bit (Reg.LOOP_CTL k) 31 = true ∧ (s.fld (Reg.LOOP_STATUS k) 31 29 = 1 ∨ s.fld (Reg.LOOP_STATUS k) 31 29 = 2)
  let m := if off.toNat < 0xA00000 then 0 else if off.toNat < 0xB00000 then 1 else 2
  let unit := (0x80000000 + off.toNat) / 8 * 8
  (¬ s.fclkOn → ∀ u, (∀ b, u ≠ .tsRam b) → Idle (c u) s) ∧
  (s.mediaOn → Does (c .glyphCache) s fun t => detectCounted s t ∧ Keeps s t [Reg.INT_DETECTS] ∧ Touches [.regs, .cyc, .pulses] s t) ∧
  (s.fclkOn → Does (c (.cleanL2 a)) s fun t => detectCounted s t ∧ Keeps s t [Reg.INT_DETECTS] ∧ Touches [.regs, .cyc, .pulses] s t) ∧
  (s.fclkOn → exec (c (.plate i w)) s = exec (.plateRefetch i w) s) ∧
  (s.fclkOn → sector → s.loopMisused k = false → exec (c (.loopState k)) s = exec (.stateRebuild k) s) ∧
  (s.fclkOn → sector → Does (c (.loopHistory k j)) s fun t => (t.ctx k).hist = (s.ctx k).hist.set j [] ∧ detectCounted s t ∧
    (∀ o, o ≠ k.val → t.ctx o = s.ctx o) ∧ Keeps s t [Reg.INT_DETECTS] ∧ Touches [.regs, .loops, .cyc, .pulses] s t) ∧
  (s.fclkOn → sector → Does (c (.loopBank k)) s fun t =>
    (∃ q, t.checks = s.checks ++ [q] ∧ q.owner = s.loopOwner k ∧ q.detail = 5) ∧
    (runs → (t.ctx k).faultRun = (s.ctx k).faultRun + 1 ∧ ∀ o, o ≠ k.val → t.ctx o = s.ctx o) ∧
    (¬ runs → Touches [.checks, .cyc, .pulses] s t)) ∧
  (s.fclkOn → ¬ sector → ∀ u ∈ [ScrubUnit.loopState k, .loopHistory k j, .loopBank k], Idle (c u) s) ∧
  (s.mediaOn → unit ∉ s.poison → Does (c (.mediaWord off)) s fun t => poisonedFor s t unit
    (if s.bit (Reg.INT_OWNER m) 31 then some (s.fld (Reg.INT_OWNER m) 3 0) else none) (7 + m)) ∧
  (s.composerOn → s.hdState h = 1 → s.lyOn h l = true → Does (c (.scanBuffer h l y x)) s fun t => detectCounted s t ∧
    t.bit (Reg.HD_STATUS h) 5 = true ∧
    (t.reg (Reg.HD_UNDERRUN h)).toNat = min 0xFFFFFFFF ((s.reg (Reg.HD_UNDERRUN h)).toNat + 1)) ∧
  (s.mediaOn → Does (c (.lineCheck n line)) s fun t => detectCounted s t ∧
    (t.con n).stored.find? (fun z => decide (z.1 = line.toNat)) = none ∧
    (∀ z, z.1 ≠ line.toNat → (z ∈ (t.con n).stored ↔ z ∈ (s.con n).stored)) ∧
    (∀ o, o ≠ n.val → t.con o = s.con o) ∧ Keeps s t [Reg.INT_DETECTS] ∧ Touches [.regs, .consoles, .cyc, .pulses] s t)

/-- A write of a queued register joins the unit's queue of 16, CV_CHECK with its staged high word; a full queue discards it
and sets overflow; a disabled unit ignores it (R438, R440, R442). -/
def cvQueues : Prop := ∀ (u : Fin 8) (r : CvReg) (k : Nat) (v : Word) (s : State),
  (k, r) ∈ [(0, CvReg.data8), (1, .data16), (2, .data32), (3, .init), (4, .aliveIn), (5, .check)] →
  let c : Instr := .cvQueueWrite u r v
  let x := s.cv u
  let on := s.fclkOn ∧ s.bit (Reg.CV_CTL u) 31 = true
  (¬ on → Idle c s) ∧
  (on → x.queue.length < 16 → Does c s fun t =>
    t.cv u = { x with queue := x.queue ++ [(k, v, if k = 5 then x.checkHi else 0)]
                      checkHi := if k = 5 then 0 else x.checkHi } ∧
    (t.reg (Reg.CV_QUEUE_FILL u)).toNat = x.queue.length + 1 ∧ (∀ o, o ≠ u.val → t.cv o = s.cv o) ∧
    Keeps s t [Reg.CV_QUEUE_FILL u] ∧ Touches [.regs, .cvs, .cyc] s t) ∧
  (on → 16 ≤ x.queue.length → Does c s fun t => t.cvs = s.cvs ∧ t.bit (Reg.CV_STATUS u) 7 = true ∧
    (∀ b < 32, b ≠ 7 → t.bit (Reg.CV_STATUS u) b = s.bit (Reg.CV_STATUS u) b) ∧
    Keeps s t [Reg.CV_STATUS u, groupReg s (2128 + u)] ∧ Touches [.regs, .cyc] s t)

/-- The entry at the front of the unit's queue is of one of these kinds, and the unit is clocked. -/
def cvFront (s : State) (u : Nat) (ks : List Nat) (k : Nat) (lo hi : Word) (r : List (Nat × Word × Word)) : Prop :=
  s.fclkOn ∧ (s.cv u).queue = (k, lo, hi) :: r ∧ k ∈ ks

/-- The unit has popped its front entry. -/
def cvPopped (s t : State) (u : Nat) (r : List (Nat × Word × Word)) : Prop :=
  (t.cv u).queue = r ∧ (t.cv u).checkHi = (s.cv u).checkHi ∧ (t.cv u).stateHi = (s.cv u).stateHi ∧
    t.reg (Reg.CV_QUEUE_FILL u) = toWord r.length ∧ ∀ o, o ≠ u → t.cv o = s.cv o

/-- A width that the unit has (R442). -/
def cvSound (s : State) (u : Nat) : Prop := 3 ≤ s.fld (Reg.CV_CTL u) 6 0 ∧ s.fld (Reg.CV_CTL u) 6 0 ≤ 64

/-- One bit of R437's loop: `w` the width, `v` the running value, `k` the bit of byte `b`. -/
def crcStep (w poly b v k : Nat) : Nat :=
  let mask := 2 ^ w - 1
  let top := ((v >>> (w - 1)) ^^^ (b >>> k)) &&& 1
  ((v <<< 1) &&& mask) ^^^ (if top = 1 then poly &&& mask else 0)

/-- One byte of it, reflected first where refin asks for that. -/
def crcByte (w poly : Nat) (refin : Bool) (v : Nat) (b : Byte) : Nat :=
  let x := if refin then (List.range 8).foldl (fun n i => n + (b.toNat >>> i) % 2 * 2 ^ (7 - i)) 0 else b.toNat
  (List.range 8).foldl (fun v i => crcStep w poly x v (7 - i)) v

/-- The queued commands other than the front's, and any while the queue is empty or unclocked, change nothing (R438). -/
def cvWaits : Prop := ∀ (u : Fin 8) (i : Instr) (ks : List Nat) (s : State),
  (i, ks) ∈ [(Instr.cvData u, [0, 1, 2]), (.cvInit u, [3]), (.cvAliveIn u, [4]), (.cvCheck u, [5])] →
  ((¬ ∃ k lo hi r, cvFront s u ks k lo hi r) → Idle i s) ∧
  (∀ k lo hi r, cvFront s u ks k lo hi r → ¬ cvSound s u → Does i s fun t => cvPopped s t u r ∧
    Keeps s t [Reg.CV_QUEUE_FILL u, Reg.CV_STATE_LO u, Reg.CV_STATE_HI u, Reg.CV_COUNT u, Reg.CV_ALIVE_STAT u, Reg.CV_STATUS u] ∧
    Touches [.freeCtr, .regs, .cvs, .cyc] s t)

/-- Data bytes are fed in ascending order through R437's division, and counted (R437, R438). -/
def cvFeeds : Prop := ∀ (u : Fin 8) (k : Nat) (lo hi : Word) (r : List (Nat × Word × Word)) (s : State),
  cvFront s u [0, 1, 2] k lo hi r → cvSound s u → Does (.cvData u) s fun t =>
    let bs : List Byte := (leBytes 4 lo.toNat).take (2 ^ k)
    let w := s.fld (Reg.CV_CTL u) 6 0
    let poly := (s.reg (Reg.CV_POLY_LO u)).toNat + (s.reg (Reg.CV_POLY_HI u)).toNat * 2 ^ 32
    t.cvValue u = bs.foldl (crcByte w poly (s.bit (Reg.CV_CTL u) 30)) (s.cvValue u) ∧
    t.reg (Reg.CV_COUNT u) = s.reg (Reg.CV_COUNT u) + toWord (2 ^ k) ∧ cvPopped s t u r ∧ (t.cv u).ref = (s.cv u).ref ∧
    Keeps s t [Reg.CV_QUEUE_FILL u, Reg.CV_STATE_LO u, Reg.CV_STATE_HI u, Reg.CV_COUNT u] ∧ Touches [.regs, .cvs, .cyc] s t

/-- INIT is reloaded within the width, the count is 0 (R437). -/
def cvReloaded (s t : State) (u : Nat) : Prop :=
  t.cvValue u = ((s.reg (Reg.CV_INIT_LO u)).toNat + (s.reg (Reg.CV_INIT_HI u)).toNat * 2 ^ 32) % 2 ^ s.fld (Reg.CV_CTL u) 6 0 ∧
    t.reg (Reg.CV_COUNT u) = 0

/-- CV_INIT with bit 0 reloads and forgets the alive reference; without it nothing but the queue moves (R437, R441). -/
def cvInits : Prop := ∀ (u : Fin 8) (lo hi : Word) (r : List (Nat × Word × Word)) (s : State),
  cvFront s u [3] 3 lo hi r → cvSound s u →
  (bitAt lo 0 = true → Does (.cvInit u) s fun t => cvReloaded s t u ∧ cvPopped s t u r ∧ (t.cv u).ref = none ∧
    Keeps s t [Reg.CV_QUEUE_FILL u, Reg.CV_STATE_LO u, Reg.CV_STATE_HI u, Reg.CV_COUNT u] ∧ Touches [.regs, .cvs, .cyc] s t) ∧
  (bitAt lo 0 = false → Does (.cvInit u) s fun t => cvPopped s t u r ∧ (t.cv u).ref = (s.cv u).ref ∧
    Keeps s t [Reg.CV_QUEUE_FILL u] ∧ Touches [.regs, .cvs, .cyc] s t)

/-- An alive counter is judged by its distance from the reference modulo its width: the first is taken, then alive_ok, repeat,
skip or jump with their counts; nothing is judged with alive_en 0, and a width outside 4 to 16 leaves the unit open (log
entry 1) (R440, R442). -/
def cvAlives : Prop := ∀ (u : Fin 8) (lo hi : Word) (r : List (Nat × Word × Word)) (s : State),
  cvFront s u [4] 4 lo hi r → cvSound s u →
  let n := s.fld (Reg.CV_CTL u) 12 8
  let skip := s.fld (Reg.CV_CTL u) 23 16
  let en := s.bit (Reg.CV_CTL u) 27 = true
  let lawful := 4 ≤ n ∧ n ≤ 16
  let c := fieldOf lo 15 0
  let st := Reg.CV_ALIVE_STAT u
  let ends (bit : Nat) (t : State) (ref : Nat) (repeats lost jumps : Nat) : Prop := cvPopped s t u r ∧ (t.cv u).ref = some ref ∧
    t.bit (Reg.CV_STATUS u) bit = true ∧ t.fld st 7 0 = min 255 (s.fld st 7 0 + repeats) ∧
    t.fld st 23 8 = min 65535 (s.fld st 23 8 + lost) ∧ t.fld st 31 24 = min 255 (s.fld st 31 24 + jumps) ∧
    (∀ b < 32, b ≠ bit → t.bit (Reg.CV_STATUS u) b = s.bit (Reg.CV_STATUS u) b) ∧
    Keeps s t [Reg.CV_QUEUE_FILL u, Reg.CV_STATUS u, st, groupReg s (2128 + u)] ∧ Touches [.regs, .cvs, .cyc] s t
  (¬ en → Does (.cvAliveIn u) s fun t => cvPopped s t u r ∧ (t.cv u).ref = (s.cv u).ref ∧ Keeps s t [Reg.CV_QUEUE_FILL u] ∧
    Touches [.regs, .cvs, .cyc] s t) ∧
  (en → ¬ lawful → Does (.cvAliveIn u) s fun t => cvPopped s t u r ∧ Touches [.freeCtr, .regs, .cvs, .cyc] s t) ∧
  (en → lawful → (s.cv u).ref = none → Does (.cvAliveIn u) s fun t => cvPopped s t u r ∧ (t.cv u).ref = some c ∧
    Keeps s t [Reg.CV_QUEUE_FILL u] ∧ Touches [.regs, .cvs, .cyc] s t) ∧
  (∀ ref, en → lawful → (s.cv u).ref = some ref → ref < 65536 →
    let d := ((c : Int) - ref) % 2 ^ n
    (d = 1 → Does (.cvAliveIn u) s fun t => ends 3 t c 0 0 0) ∧
    (d = 0 → Does (.cvAliveIn u) s fun t => ends 4 t ref 1 0 0) ∧
    (2 ≤ d → d ≤ skip + 1 → Does (.cvAliveIn u) s fun t => ends 5 t c 0 (d.toNat - 1) 0) ∧
    (2 ≤ d → skip + 1 < d → Does (.cvAliveIn u) s fun t => ends 6 t c 0 0 1))

/-- A check compares the received value with the result, which is the running value, reflected with refout and inverted with
final_inv; with auto_init the unit then starts again (R437, R440). -/
def cvChecks : Prop := ∀ (u : Fin 8) (lo hi : Word) (r : List (Nat × Word × Word)) (s : State),
  cvFront s u [5] 5 lo hi r → cvSound s u →
  let w := s.fld (Reg.CV_CTL u) 6 0
  let v := s.cvValue u
  let turned := if s.bit (Reg.CV_CTL u) 29 then (List.range w).foldl (fun n i => n + (v >>> i) % 2 * 2 ^ (w - 1 - i)) 0 else v
  let result := turned ^^^ (if s.bit (Reg.CV_CTL u) 28 then 2 ^ w - 1 else 0)
  let bit := if lo.toNat + hi.toNat * 2 ^ 32 = result then 1 else 2
  Does (.cvCheck u) s fun t => cvPopped s t u r ∧ t.bit (Reg.CV_STATUS u) bit = true ∧ (t.cv u).ref = (s.cv u).ref ∧
    (∀ b < 32, b ≠ bit → t.bit (Reg.CV_STATUS u) b = s.bit (Reg.CV_STATUS u) b) ∧
    (s.bit (Reg.CV_CTL u) 26 = true → cvReloaded s t u) ∧
    (s.bit (Reg.CV_CTL u) 26 = false → t.cvValue u = v ∧ t.reg (Reg.CV_COUNT u) = s.reg (Reg.CV_COUNT u)) ∧
    Keeps s t [Reg.CV_QUEUE_FILL u, Reg.CV_STATUS u, Reg.CV_STATE_LO u, Reg.CV_STATE_HI u, Reg.CV_COUNT u, groupReg s (2128 + u)] ∧
    Touches [.regs, .cvs, .cyc] s t

/-- A write of CV_STATE_LO sets the running value with the high word that is staged, or else with the present one; bits above
the width read zero, and a width that the unit does not have leaves its results open (R437, R439, R442). -/
def cvRestores : Prop := ∀ (u : Fin 8) (v : Word) (s : State),
  let hi := ((s.cv u).stateHi.getD (s.reg (Reg.CV_STATE_HI u))).toNat
  (¬ s.fclkOn → Idle (.cvStateLo u v) s) ∧
  (s.fclkOn → ¬ cvSound s u → Does (.cvStateLo u v) s fun t => (∀ o, o ≠ u.val → t.cv o = s.cv o) ∧
    Keeps s t [Reg.CV_STATE_LO u, Reg.CV_STATE_HI u, Reg.CV_COUNT u, Reg.CV_ALIVE_STAT u, Reg.CV_STATUS u] ∧
    Touches [.freeCtr, .regs, .cvs] s t) ∧
  (s.fclkOn → cvSound s u → Does (.cvStateLo u v) s fun t =>
    t.cvValue u = (v.toNat + hi * 2 ^ 32) % 2 ^ s.fld (Reg.CV_CTL u) 6 0 ∧ t.cv u = { s.cv u with stateHi := none } ∧
    (∀ o, o ≠ u.val → t.cv o = s.cv o) ∧ Keeps s t [Reg.CV_STATE_LO u, Reg.CV_STATE_HI u] ∧ Touches [.regs, .cvs] s t)


/-! ### spec/20: pins -/

/-- A write of PIN_CFG stores its fields. A change of func starts a keeper with the last driven level where the old function
drove the pad, and the new function's input starts at the sampled level: GPIO_IN without an event, an encoder's input
without an edge, a trip input at once;
the old function's input stays as it was, as every input does on a bank without supply. A change of the filter restarts it
likewise; a change of int_mode clears the event bit. conflict shows on the higher pin of two that select one trip input
(R46, R446 to R450, R453, R454, R457, R484). What level an alternate function drove is open (log entry 1). -/
def pinConfigures : Prop := ∀ (n : Fin 160) (v : Word) (level : Bool) (s : State),
  let c : Instr := .pinCfg n v level
  let cfg := Reg.PIN_CFG n
  let old := s.fld cfg 31 29
  let new := fieldOf v 31 29
  let switch := old ≠ new
  let word := n.val / 16
  let bit := n.val % 16
  let fed := s.bankSupplied word = true
  let gpioDrives := old = 0 ∧ s.bit (Reg.GPIO_OE word) bit = true ∧
    ¬ (s.bit cfg 26 = true ∧ s.bit (Reg.GPIO_OUT word) bit = true)
  let altDrives := old ≠ 0 ∧ s.altDrives n old = true
  let restarts := new = 0 ∧ (switch ∨ s.fld cfg 19 10 ≠ fieldOf v 19 10)
  let encodes := switch ∧ fed ∧ new = 1 ∧ n.val < 96
  let pinIn (t : State) : Bool := t.bit (Reg.GPIO_IN word) bit
  (¬ s.fclkOn → Idle c s) ∧
  (s.fclkOn → Does c s fun t =>
    (∀ b, 10 ≤ b → b < 32 → t.bit cfg b = bitAt v b) ∧ t.fld cfg 8 0 = 0 ∧
    (∀ m < 12, t.bit (Reg.PIN_CFG (148 + m)) 9 = decide (t.pinFunc (148 + m) = 6 ∧ t.pinFunc (66 + m) = 2)) ∧
    (∀ k, k ≠ n.val → tabGet none k t.keepers = tabGet none k s.keepers) ∧
    (switch → gpioDrives → tabGet none n.val t.keepers = some (s.bit (Reg.GPIO_OUT word) bit)) ∧
    (switch → altDrives → (tabGet none n.val t.keepers).isSome = true) ∧
    (¬ switch ∨ (¬ gpioDrives ∧ ¬ altDrives) → t.keepers = s.keepers) ∧
    (restarts → fed → pinIn t = level) ∧ (¬ restarts ∨ ¬ fed → pinIn t = pinIn s) ∧
    t.bit (Reg.GPIO_INT_STAT word) bit = (s.bit (Reg.GPIO_INT_STAT word) bit && decide (s.fld cfg 22 20 = fieldOf v 22 20)) ∧
    (∀ m < 12, switch → fed → (n.val = 66 + m ∧ new = 2) ∨ (n.val = 148 + m ∧ new = 6 ∧ s.pinFunc (66 + m) ≠ 2) →
      t.tripPins.getLsbD m = !level) ∧
    (∀ m < 12, ¬ switch ∨ ¬ fed ∨ ¬ ((n.val = 66 + m ∧ new = 2) ∨ (n.val = 148 + m ∧ new = 6 ∧ s.pinFunc (66 + m) ≠ 2)) →
      t.tripPins.getLsbD m = s.tripPins.getLsbD m) ∧
    (∀ k < 160, k ≠ n.val → ∀ b < 32, b ≠ 9 → t.bit (Reg.PIN_CFG k) b = s.bit (Reg.PIN_CFG k) b) ∧
    (encodes → (t.levels (n / 3)).testBit (n % 3) = level ∧ (∀ k, k ≠ n.val / 3 → t.levels k = s.levels k) ∧
      ∀ k, (t.spn k).pos = (s.spn k).pos) ∧
    (¬ encodes → t.encoders = s.encoders ∧ t.spindles = s.spindles) ∧
    Touches [.freeCtr, .regs, .spindles, .encoders, .pairs, .tripPins, .keepers, .cyc, .encSince, .zonePins] s t)

/-- A keeper holds for one PCLK and lets go (R450). -/
def keeperLetsGo : Prop := ∀ (n : Fin 160) (s : State),
  (s.fclkOn → Does (.keeperRelease n) s fun t => tabGet none n.val t.keepers = none ∧
    (∀ k, k ≠ n.val → tabGet none k t.keepers = tabGet none k s.keepers) ∧ Touches [.keepers] s t) ∧
  (¬ s.fclkOn → Idle (.keeperRelease n) s)

/-- A GPIO pin's accepted level shows in GPIO_IN, and its event by int_mode: an edge of the selected kind sets the bit, a level
mode lets it follow, mode 0 leaves it. Another function's pin, and one without a bank supply, is not followed; filt_mode 3
and int_mode 6 and 7 leave the pin's level and event open (log entry 1) (R446, R448, R452 to R454, R457). -/
def pinFollows : Prop := ∀ (n : Fin 160) (level : Bool) (s : State),
  let c : Instr := .filterAccept n level
  let word := n.val / 16
  let bit := n.val % 16
  let stat := Reg.GPIO_INT_STAT word
  let input := Reg.GPIO_IN word
  let live := s.fclkOn ∧ s.fld (Reg.PIN_CFG n) 31 29 = 0 ∧ s.bankSupplied word = true
  let mode := s.fld (Reg.PIN_CFG n) 22 20
  let opens := 6 ≤ mode ∨ s.fld (Reg.PIN_CFG n) 19 18 = 3
  let was := s.bit input bit
  let event : Bool := match mode with
    | 1 => !was && level
    | 2 => was && !level
    | 3 => was != level
    | _ => false
  (¬ live → Idle c s) ∧
  (live → ¬ opens → Does c s fun t => t.bit input bit = level ∧
    (mode < 4 → t.bit stat bit = (s.bit stat bit || event)) ∧ (mode = 4 → t.bit stat bit = level) ∧
    (mode = 5 → t.bit stat bit = !level) ∧
    (∀ b < 32, b ≠ bit → t.bit input b = s.bit input b ∧ t.bit stat b = s.bit stat b) ∧
    Keeps s t [input, stat, groupReg s (2144 + n)] ∧ Touches [.freeCtr, .regs, .cyc] s t) ∧
  (live → opens → Does c s fun t =>
    (∀ b < 32, b ≠ bit → t.bit input b = s.bit input b ∧ t.bit stat b = s.bit stat b) ∧
    Keeps s t [input, stat, groupReg s (2144 + n)] ∧ Touches [.freeCtr, .regs, .cyc] s t)

/-- A bank's supply is lost: PIN_BANK shows it absent with bank_lost, and nothing else changes, so its inputs stay frozen
(R446, R456). -/
def supplyLost : Prop := ∀ (b : Fin 10) (s : State),
  (s.sys.powerGood = false → ∀ u, Idle (.bankSupplyLost u) s) ∧
  (s.sys.powerGood = true → Does (.bankSupplyLost (.gpio b)) s fun t => t.bankSupplied b = false ∧
    (∀ o, o ≠ b.val → o < 10 → t.bankSupplied o = s.bankSupplied o) ∧
    (s.fclkOn → t.reg Reg.PIN_BANK = withBit (s.reg Reg.PIN_BANK) (20 + b) true) ∧ (¬ s.fclkOn → Keeps s t []) ∧
    Keeps s t [Reg.PIN_BANK] ∧ Touches [.regs, .bankSupply, .cyc, .pulses, .zonePins] s t)

/-- The supply returns: PIN_BANK shows 1.8 V or 3.3 V, and every input of the bank starts at the present level of its pin:
GPIO_IN without an event, trip inputs at once (R446, R456). -/
def supplyReturns : Prop := ∀ (b : Fin 10) (high : Bool) (levels : BitVec 16) (s : State),
  let c : Instr := .bankSupplyReturn (.gpio b) high levels
  let a := Reg.GPIO_IN b
  (s.sys.powerGood = false → ∀ u, Idle (.bankSupplyReturn u high levels) s) ∧
  (s.sys.powerGood = true → Does c s fun t => fieldOf t.bankSupply (2 * b + 1) (2 * b) = (if high then 2 else 1) ∧
    (∀ i < 32, i ≠ 2 * b → i ≠ 2 * b + 1 → bitAt t.bankSupply i = bitAt s.bankSupply i) ∧
    (s.fclkOn → ∀ i < 16, t.bit a i = if s.pinFunc (16 * b + i) = 0 then levels.getLsbD i else s.bit a i) ∧
    (s.fclkOn → ∀ m < 12, ∀ i < 16, (16 * b.val + i = 66 + m ∧ s.pinFunc (66 + m) = 2 ∧ s.bit (Reg.PIN_CFG (66 + m)) 9 = false) ∨
      (16 * b.val + i = 148 + m ∧ s.pinFunc (148 + m) = 6 ∧ s.bit (Reg.PIN_CFG (148 + m)) 9 = false) →
      t.tripPins.getLsbD m = !levels.getLsbD i) ∧
    (¬ s.fclkOn → Keeps s t []) ∧ (∀ w < 10, t.reg (Reg.GPIO_INT_STAT w) = s.reg (Reg.GPIO_INT_STAT w)) ∧
    Touches [.regs, .spindles, .encoders, .pairs, .tripPins, .bankSupply, .cyc, .encSince, .zonePins] s t)

/-- The other supplies: a PWM bank is supplied or not, and with it whether its outputs are driven; without VDDA no PLL but the
tailstock's runs and no link is up; without VDD_CORE the core domain has lost its state, and DRAM keeps its own; without the
DRAM's supplies DRAM does not serve. A supply that returns by itself starts nothing (R18 to R20, R28). -/
def otherSupplies : Prop := ∀ (b : Fin 6) (high : Bool) (levels : BitVec 16) (s : State), s.sys.powerGood = true →
  let lost (u : Supply) : Instr := .bankSupplyLost u
  let back (u : Supply) := exec (.bankSupplyReturn u high levels) s
  let fed (t : State) (on : Bool) : Prop := t.sys = { s.sys with pwmBanks := t.sys.pwmBanks } ∧
    (∀ k < 6, t.sys.pwmBanks.getLsbD k = if k = b.val then on else s.sys.pwmBanks.getLsbD k) ∧ Touches [.sys, .cyc, .pulses, .encSince, .zonePins] s t
  (Does (lost (.pwm b)) s fun t => fed t false) ∧ (Does (.bankSupplyReturn (.pwm b) high levels) s fun t => fed t true) ∧
  (Does (lost .vdda) s fun t => t.sys.vdda = false ∧ t.sys.fclk = false ∧ (∀ p < 2, t.bit (Reg.HP_LINK p) 31 = false) ∧
    (s.fclkOn → t.sys.audioPll = false ∧ t.sys.dramPll = false ∧
      (∀ m < 2, s.bit (Reg.ETH_CTL m) 31 = true → t.bit (Reg.ETH_STATUS m) 31 = false) ∧
      ∀ g < 4 * sectorCount s.sys.variant, t.pwmState g = 0 ∧ t.bit (Reg.PWM_GRP_STATUS g) 5 = true)) ∧
  (Does (lost .vddCore) s fun t => t.sys.vddCore = false ∧ t.sys.fclk = false ∧ t.sys.coreIslands = 0 ∧ t.sys.sectorIslands = 0 ∧
    t.sys.mediaIsland = false ∧ t.spindles = [] ∧ t.groups = [] ∧ t.loops = [] ∧ t.plate = {} ∧ t.consoles = [] ∧
    (∀ c < 16, t.core c = {}) ∧ t.core 16 = s.core 16 ∧ ∀ a, 0x0800000000 ≤ a → t.byte a = s.byte a) ∧
  (Does (lost .ddr) s fun t => t = { s with sys := { s.sys with ddr := false } } ∧ ¬ t.dramOn) ∧
  back .vdda = .next { s with sys := { s.sys with vdda := true } } ∧
  back .vddCore = .next { s with sys := { s.sys with vddCore := true } } ∧
  back .ddr = .next { s with sys := { s.sys with ddr := true } }


/-! ### spec/01, spec/02, spec/21: registers, snapshots, slow clock, power, resets, clocks, islands -/

/-- Requester `q` does not reach a register at offset `off`: no power; a block on FCLK without it; an unmapped or unlisted
offset; a sector, the media island or a core window that is absent or off; another's own window (R3, R19, R23, R24, R397,
R405, R427, R444). -/
def unreachable (s : State) (q : Requester) (off : Nat) : Prop :=
  s.sys.powerGood = false ∨
  (¬ s.fclkOn ∧ off / 0x100000 ∉ [0, 13, 18] ∧ ¬ (0x1300000 ≤ off ∧ off < 0x1301000)) ∨
  0x1400000 ≤ off ∨ (∀ a, busAlias (some q) (off / 4 * 4) = some a → regRow? a = none) ∨
  (∃ k < 6, s.sectorOn k = false ∧ ((0x300000 + k * 0x10000 ≤ off ∧ off < 0x310000 + k * 0x10000) ∨
    (0x400000 + k * 0x20000 ≤ off ∧ off < 0x420000 + k * 0x20000) ∨ (0x500000 + k * 0x4000 ≤ off ∧ off < 0x504000 + k * 0x4000) ∨
    (0x518000 + k * 0x100 ≤ off ∧ off < 0x518100 + k * 0x100))) ∨
  (s.mediaOn = false ∧ 0x900000 ≤ off ∧ off < 0xD00000) ∨
  (s.sys.variant = .vl8830 ∧ 0xA00000 ≤ off ∧ off < 0xB00000) ∨
  (∃ c : Fin 16, (coreCount s.sys.variant ≤ c ∨ (q ≠ .tailstock ∧ q ≠ .core c)) ∧
    ((0x1200000 + c * 0x40 ≤ off ∧ off < 0x1200040 + c * 0x40) ∨ (0xE08000 + c * 0x10 ≤ off ∧ off < 0xE08010 + c * 0x10))) ∨
  (q ≠ .tailstock ∧ 0x1209000 ≤ off ∧ off < 0x120B000) ∨ (q ≠ .portA ∧ q ≠ .portB ∧ 0xD02000 ≤ off ∧ off < 0xD03000)

/-- Requester `q` may send accesses at all: the debug port only once it has been unlocked (R423). -/
def allowed (s : State) (q : Requester) : Prop := q ≠ .debug ∨ s.sec.unlock ≠ 0

/-- What is out of reach reads zero and ignores every write, and the locked debug port has no access (R10, R24, R423). -/
def busGuards : Prop := ∀ (q : Requester) (off : BitVec 28) (s : State),
  (¬ allowed s q → (∀ size v, Idle (.registerWrite q off size v) s) ∧ Idle (.lowWordRead q off) s) ∧
  (unreachable s q off.toNat → (∀ size v, Idle (.registerWrite q off size v) s) ∧
    (allowed s q → exec (.lowWordRead q off) s = .next (answer q 0 s)))

/-- Access kinds, each on a register of its own: RW stores its bits, masked writes merge, W1C clears bits but those that
hardware sets in the same cycle, RO ignores, and the global control block takes the tailstock's writes only; a narrow access
to any byte of a register leaves its value open (log entry 1) (R10, R23, R29, R32, R33, R38, R427, R441, R456, R459). -/
def registerWrites : Prop := ∀ (q : Requester) (b : Fin 10) (u : Fin 8) (n : Fin 16) (k : Fin 56) (v : Word) (s : State),
  let write (a : Nat) : Instr := .registerWrite q (BitVec.ofNat 28 a) .word v
  let stores (a : Nat) (w : Word) (also : List Nat) : Prop := Does (write a) s fun t => t.reg a = w ∧ Keeps s t (a :: also) ∧
    Touches [.regs, .cyc, .pulses, .encSince, .zonePins] s t
  let out := Reg.GPIO_OUT b
  let clears (a : Nat) (mask : Word) : Prop := stores a (s.reg a &&& ~~~(v &&& mask &&& ~~~s.setNow a)) []
  (s.fclkOn → allowed s q → stores out ((s.reg out &&& 0xFFFF0000) ||| (v &&& 0xFFFF)) [] ∧
    (Does (write (out + 4)) s fun t => Keeps s t [out] ∧ Touches [.regs, .cyc, .pulses, .encSince, .zonePins] s t ∧
      ∀ i < 32, t.bit out i = if i < 16 ∧ bitAt v (i + 16) = true then bitAt v i else s.bit out i) ∧
    stores (Reg.CV_IRQ_EN u) ((s.reg (Reg.CV_IRQ_EN u) &&& 0xFFFFFF00) ||| (v &&& 0xFF)) [groupReg s (2128 + u)] ∧
    clears (Reg.CV_STATUS u) 0xFE ∧
    (∀ a ∈ [Reg.CV_QUEUE_FILL u, Reg.GPIO_IN b], Does (write a) s fun t => Keeps s t [] ∧ Touches [.regs, .cyc, .pulses, .encSince, .zonePins] s t) ∧
    (∀ size, size ≠ .word → ∀ i < 4, Does (.registerWrite q (BitVec.ofNat 28 (out + i)) size v) s fun t => Keeps s t [out] ∧
      Touches [.freeCtr, .regs, .cyc, .pulses, .encSince, .zonePins] s t)) ∧
  (s.sys.powerGood = true → q = .tailstock → (n.val < coreCount s.sys.variant → stores (Reg.GCTL_CORE_PC n) v []) ∧
    stores (Reg.TSN_WARN k) v [] ∧ clears Reg.GCTL_RESET_CAUSE 0x7F) ∧
  (coreCount s.sys.variant ≤ n.val → Idle (write (Reg.GCTL_CORE_PC n)) s) ∧
  (q ≠ .tailstock → Idle (write (Reg.GCTL_CORE_PC n)) s ∧ Idle (write Reg.GCTL_RESET_CAUSE) s ∧ Idle (write Reg.GCTL_CORE_REL) s ∧
    ∀ i < 4, Idle (write (Reg.GCTL_KEEP i)) s)

/-- A write of a register that acts is the command of that register (R10, R35, R169, R383, R405, R412, R438, R444). -/
def registerActs : Prop := ∀ (q : Requester) (u : Fin 8) (z : Fin 48) (c : Fin 16) (n : Fin 256) (v : Word) (s : State),
  let write (q : Requester) (a : Nat) := exec (.registerWrite q (BitVec.ofNat 28 a) .word v) s
  let w := 0xE00000 + u.val * 0x100
  allowed s q →
  (bitAt v 0 = true → write q 0x100 = exec (.snapshotTrigger [v]) s) ∧
  (∀ x ∈ [(0x34, CvReg.init), (0x40, .data8), (0x44, .data16), (0x48, .data32), (0x4C, .aliveIn), (0x50, .check)],
    write q (w + x.1) = exec (.cvQueueWrite u x.2 v) s) ∧
  (write q (w + 0x20) = exec (.cvStateLo u v) s) ∧
  (s.fclkOn → Does (.registerWrite q (BitVec.ofNat 28 (w + 0x24)) .word v) s fun t =>
    t.cv u = { s.cv u with stateHi := some v } ∧ Touches [.cvs, .cyc, .pulses, .encSince, .zonePins] s t) ∧
  (s.fclkOn → Does (.registerWrite q (BitVec.ofNat 28 (w + 0x54)) .word v) s fun t =>
    t.cv u = { s.cv u with checkHi := v } ∧ Touches [.cvs, .cyc, .pulses, .encSince, .zonePins] s t) ∧
  (write q (0x518008 + z * 0x20) = exec (.tzForce z v) s) ∧
  (write q (0xD04000 + n * 4) = exec (.chkRelease q n v) s) ∧
  (write .tailstock 0x120A00C = exec (.otpProg v) s) ∧
  (c.val < coreCount s.sys.variant → write (.core c) (0x1200020 + c * 0x40) = exec (.tsmMsg c v) s ∧
    write (.core c) (0xE08000 + c * 0x10) = exec (.mcrInfo (.core c) c v) s)

/-- Reads: the low word of a read-latched pair latches the high word of the same cycle for its requester and block alone, and
the high word's read returns that; a plain read answers the value and changes nothing else; an RC read clears, but for what
hardware has added in its cycle; a check unit's result is read behind its queue, the slow clock's status from its copy (R10,
R30, R33, R34, R36 to R38, R438). -/
def registerReads : Prop := ∀ (q : Requester) (n : Fin 154) (b : Fin 10) (u : Fin 8) (s : State),
  let read (a : Nat) : Instr := .lowWordRead q (BitVec.ofNat 28 a)
  let pair (a : Nat) (w : DWord) : Prop := Does (read a) s fun t => t.answered q = w.setWidth 32 ∧
    (∀ r, r ≠ q → t.answered r = s.answered r) ∧ (∀ x, x / 64 ≠ reqIdx q → tabGet 0 x t.shadow = tabGet 0 x s.shadow) ∧
    Touches [.resp, .shadow, .cyc] s t ∧
    ∀ t' : State, t'.shadow = t.shadow → t'.sys = s.sys →
      t'.sec = s.sec → exec (read (a + 4)) t' = .next (answer q ((w >>> 32).setWidth 32) t')
  allowed s q →
  (s.sys.powerGood = true → pair Reg.DEVTIMER_LO s.devTimer) ∧
  (s.fclkOn → s.spnPresent n = true → pair (Reg.SPN_PHASE n) (s.spn n).pos) ∧
  (s.fclkOn → exec (read (Reg.GPIO_OUT b)) s = .next (answer q (s.reg (Reg.GPIO_OUT b)) s) ∧
    exec (read (Reg.GPIO_OUT b + 4)) s = .next (answer q (s.reg (Reg.GPIO_OUT b)) s)) ∧
  (s.fclkOn → Does (read (Reg.CV_ALIVE_STAT u)) s fun t =>
    (match tabGet none (Reg.CV_ALIVE_STAT u) s.cyc.raised with
      | some x => t.answered q = x.1 ∧ t.reg (Reg.CV_ALIVE_STAT u) = x.2
      | none => t.answered q = s.reg (Reg.CV_ALIVE_STAT u) ∧ t.reg (Reg.CV_ALIVE_STAT u) = 0) ∧ Keeps s t [Reg.CV_ALIVE_STAT u] ∧ Touches [.regs, .resp, .cyc] s t) ∧
  (s.fclkOn → Does (read (Reg.CV_RESULT_LO u)) s fun t => (t.cv u).queue = [] ∧ t.answered q = toWord (t.cvResult u) ∧
    ((s.cv u).queue = [] → t.cvResult u = s.cvResult u)) ∧
  (s.sys.powerGood = true → Does (read Reg.GCTL_SCLK_STATUS) s fun t =>
    bitAt (t.answered q) 31 = decide (s.sys.keepWaiting ≠ []) ∧
    fieldOf (t.answered q) 30 0 = s.fld Reg.GCTL_SCLK_STATUS 30 0 ∧ Touches [.resp, .cyc] s t)

/-- Triggers that take effect together copy, in one cycle, the union of their selections: the device timer, phase and turns of
all spindles, the general timers; done shows it. Without FCLK nothing is copied and done stays 0 (R35, R44, R70). -/
def snapshots : Prop := ∀ (vs : List Word) (s : State),
  let c : Instr := .snapshotTrigger vs
  let sel (i : Nat) : Prop := ∃ v ∈ vs, bitAt v i = true
  let snap := Reg.GCTL_SNAP
  (s.sys.powerGood = false → Idle c s) ∧
  (s.sys.powerGood = true → Does c s fun t => Touches [.regs] s t ∧ t.bit snap 31 = s.sys.fclk ∧
    (∀ i < 31, t.bit snap i = true ↔ 1 ≤ i ∧ i ≤ 3 ∧ sel i) ∧
    (s.sys.fclk = true → sel 1 → t.reg Reg.GCTL_SNAP_DT_LO = s.devTimer.setWidth 32 ∧
      t.reg Reg.GCTL_SNAP_DT_HI = (s.devTimer >>> 32).setWidth 32) ∧
    (s.sys.fclk = true → sel 2 → ∀ n < 154, t.reg (Reg.SPN_SNAP_PHASE n) = ((s.spn n).pos).setWidth 32 ∧
      t.reg (Reg.SPN_SNAP_TURNS n) = ((s.spn n).pos >>> 32).setWidth 32) ∧
    (s.sys.fclk = true → sel 3 → ∀ n < 64, t.reg (Reg.GT_SNAP n) = s.reg (Reg.GT_COUNT n)) ∧
    (s.sys.fclk = false ∨ ¬ sel 1 → t.reg Reg.GCTL_SNAP_DT_LO = s.reg Reg.GCTL_SNAP_DT_LO ∧
      t.reg Reg.GCTL_SNAP_DT_HI = s.reg Reg.GCTL_SNAP_DT_HI) ∧
    (s.sys.fclk = false ∨ ¬ sel 2 → ∀ n < 154, t.reg (Reg.SPN_SNAP_PHASE n) = s.reg (Reg.SPN_SNAP_PHASE n)) ∧
    (s.sys.fclk = false ∨ ¬ sel 3 → ∀ n < 64, t.reg (Reg.GT_SNAP n) = s.reg (Reg.GT_SNAP n)))

/-- A write of a keep word waits with sync_busy, a later one replaces it, and at its second edge it takes effect; the copy
that software reads follows at an SCLK edge (R36 to R38). -/
def keepWords : Prop := ∀ (i : Fin 4) (v : Word) (s : State), s.sys.powerGood = true →
  let waiting (t : State) (j : Nat) : Option Word := tabGet none j t.sys.keepWaiting
  (Does (.registerWrite .tailstock (BitVec.ofNat 28 (Reg.GCTL_KEEP i)) .word v) s fun t => waiting t i = some v ∧
    (∀ j, j ≠ i.val → waiting t j = waiting s j) ∧ t.sys = { s.sys with keepWaiting := t.sys.keepWaiting } ∧ Touches [.sys, .cyc, .pulses, .encSince, .zonePins] s t) ∧
  (∀ w, waiting s i = some w → Does (.sclkWriteEffect i) s fun t => tabGet 0 i.val t.sys.keep = w ∧ waiting t i = none ∧
    (∀ j, j ≠ i.val → waiting t j = waiting s j ∧ tabGet 0 j t.sys.keep = tabGet 0 j s.sys.keep) ∧
    t.sys = { s.sys with keep := t.sys.keep, keepWaiting := t.sys.keepWaiting } ∧ Touches [.sys] s t) ∧
  (waiting s i = none → Idle (.sclkWriteEffect i) s)

/-- What power-on reset leaves of `s`: OTP, the NOR with its boot records and stored objects, the log's numbers and journal,
the supplies and the pins' levels; the ring is lost, and a marked return to defaults takes place (R46, R390, R408, R409,
R458). -/
def powerLost (s t : State) : Prop :=
  t.sec.otp = s.sec.otp ∧ t.nor = s.nor ∧ t.sec.record0 = s.sec.record0 ∧ t.sec.record1 = s.sec.record1 ∧
    t.log.ring = [] ∧ t.log.unwritten = 0 ∧ t.log.nextSeq = s.log.nextSeq ∧ t.log.bootCount = s.log.bootCount ∧
    t.log.journal = s.log.journal ∧ t.sys.variant = s.sys.variant ∧ t.bankSupply = s.bankSupply ∧
    t.encoders = s.encoders ∧ t.reg Reg.PWM_GTRIP = (if s.tripAll then 2 else 0) ∧ t.dict.stored = (if s.dict.loadMarked then [] else s.dict.stored) ∧ t.dict.vals = t.dict.stored ∧ t.sec.unlock = 0 ∧
    t.spindles = [] ∧ t.groups = [] ∧ t.loops = [] ∧ t.plate = {} ∧ t.cores = [] ∧ t.dma = [] ∧ t.consoles = [] ∧ t.mem = [] ∧
    t.devTimer = 0 ∧ t.sys.fclk = false ∧ t.pending = s.pending

/-- A falling SYS_PWRGD asserts power-on reset; power-good samples the straps and starts the boot ROM, and every register but
those of straps and fuses stands at its reset value; a TRIP_ALL_N that is active trips at once (R11, R172, R455, R458, R460,
R470, R471). -/
def powers : Prop := ∀ (straps : BitVec 2) (r c v : Bool) (s : State),
  (Does .sysPwrgdFall s fun t => powerLost s t ∧ t.sys = { variant := s.sys.variant, vdda := s.sys.vdda,
                                                                      ddr := s.sys.ddr, pwmBanks := s.sys.pwmBanks } ∧
    ∀ a, a ≠ Reg.PWM_GTRIP → t.reg a = State.reset.reg a) ∧
  (s.sys.powerGood = true → Idle (.powerGood straps r c v) s) ∧
  (s.sys.powerGood = false → Does (.powerGood straps r c v) s fun t => powerLost s t ∧
    t.sys = { variant := s.sys.variant, powerGood := true, phase := .bootRom, strap := straps, reference := r, crystal := c,
              vdda := v, ddr := s.sys.ddr, pwmBanks := s.sys.pwmBanks, tclkOnRc := !r } ∧
    (∀ p < 2, t.reg (Reg.HP_PRODUCT p) = s.otpWord 1) ∧ t.reg Reg.PIN_STRAP = straps.zeroExtend 32 ∧
    (∀ g < 24, t.reg (Reg.PWM_SAFE g) = [0x0000, 0xAAAA, 0x5555, 0x4444].getD straps.toNat 0) ∧
    ∀ a, a ∉ [Reg.PIN_STRAP, Reg.PWM_GTRIP, Reg.HP_PRODUCT 0, Reg.HP_PRODUCT 1] → (∀ g < 24, a ≠ Reg.PWM_SAFE g) → t.reg a = State.reset.reg a)

/-- A requested device reset returns everything but OTP, NOR, log, reset cause and straps, and sets the device bit (R458,
R462). -/
def deviceResets : Prop := ∀ s : State,
  (s.sys.powerGood = true → s.sys.resetWaiting = 2 → Does .deviceReset s fun t =>
    returned s t [Reg.PIN_STRAP, Reg.GCTL_RESET_CAUSE] ∧
    t.reg Reg.GCTL_RESET_CAUSE = withBit (s.reg Reg.GCTL_RESET_CAUSE) 1 true ∧ t.sys.resetWaiting = 0) ∧
  (s.sys.powerGood = false ∨ s.sys.resetWaiting ≠ 2 → Idle .deviceReset s)

/-- A core-domain reset, by request or by tailstock firmware, returns every island of VDD_CORE; the always-on domain, its
registers and memory, and DRAM are kept; a request shows in the reset cause (R458, R459, R462). -/
def coreDomainResets : Prop := ∀ s : State,
  (s.sys.powerGood = false → Idle .coreDomainReset s) ∧
  (s.sys.powerGood = true → Does .coreDomainReset s fun t =>
    t.sys.fclk = false ∧ t.sys.coreIslands = 0 ∧ t.sys.sectorIslands = 0 ∧ t.sys.mediaIsland = false ∧ t.sys.resetWaiting = 0 ∧
    t.sys.phase = s.sys.phase ∧ t.spindles = [] ∧ t.groups = [] ∧ t.pairs = [] ∧ t.loops = [] ∧ t.plate = {} ∧ t.dma = [] ∧
    t.consoles = [] ∧ t.heads = [] ∧ t.cvs = [] ∧ (∀ c < 16, t.core c = {}) ∧ t.core 16 = s.core 16 ∧
    t.reg Reg.GCTL_RESET_CAUSE = (if s.sys.resetWaiting = 1 then withBit (s.reg Reg.GCTL_RESET_CAUSE) 3 true
      else s.reg Reg.GCTL_RESET_CAUSE) ∧
    (∀ g < 24, t.pwmState g = 0 ∧ t.reg (Reg.PWM_SAFE g) = s.reg (Reg.PWM_SAFE g)) ∧
    (∀ k < 56, t.reg (Reg.TSN_VALUE k) = s.reg (Reg.TSN_VALUE k) ∧ t.reg (Reg.TSN_CTL k) = s.reg (Reg.TSN_CTL k)) ∧
    (∀ n < 256, t.reg (Reg.CHK_OWNER n) = s.reg (Reg.CHK_OWNER n)) ∧ (∀ i < 4, t.reg (Reg.GCTL_KEEP i) = s.reg (Reg.GCTL_KEEP i)) ∧
    (∀ u < 8, t.reg (Reg.CV_CTL u) = 0x20) ∧ (∀ n < 160, t.reg (Reg.PIN_CFG n) = 0x10000000) ∧
    (∀ a, 0x0800000000 ≤ a → t.byte a = s.byte a) ∧ (∀ a, a < 0x0800000000 → t.byte a = 0) ∧
    t.log = s.log ∧ t.nor = s.nor ∧ t.sec.otp = s.sec.otp ∧ t.sec.sensors = s.sec.sensors ∧ t.dict.vals = s.dict.vals ∧
    t.sys.keep = s.sys.keep ∧ t.sys.sclkCount = s.sys.sclkCount)

/-- What freed chucks of a core may change: their words, the ports' alerts and source 2114 (R383, R385). -/
def chucksFreed (s t : State) (c : Nat) : Prop :=
  ∀ n < 256, t.reg (Reg.CHK_OWNER n) = if s.fld (Reg.CHK_OWNER n) 5 0 = 16 + c then 0 else s.reg (Reg.CHK_OWNER n)

/-- A core reset holds the core until its bit of GCTL_CORE_REL is set again; its chucks are freed; its TCM and its scratch
banks stay (R385, R458, R459). -/
def coreResets : Prop := ∀ (c : Fin 16) (s : State),
  (s.firmwareOn = false → Idle (.coreReset c) s) ∧
  (s.firmwareOn = true → Does (.coreReset c) s fun t => t.bit Reg.GCTL_CORE_REL c = false ∧
    (∀ b < 32, b ≠ c.val → t.bit Reg.GCTL_CORE_REL b = s.bit Reg.GCTL_CORE_REL b) ∧ chucksFreed s t c ∧
    (∀ g, t.greg c g = 0) ∧ t.cr c crSTATUS = 9 ∧ (t.core c).sb = [] ∧ (t.core c).resv = none ∧
    (∀ d, d ≠ c.val → t.core d = s.core d) ∧ (∀ b < 32, t.bankOwner b = s.bankOwner b) ∧ Touches [.regs, .cores, .hosts, .cyc] s t)

/-- The code of the log entry that names lost clock `k`: 0 the reference, 1 the crystal, 2 TCLK, 3 FCLK, 4 the audio PLL, 5
and 6 the video PLLs, 7 the DRAM PLL (R18, log entry 13). -/
def lossCode (k : Nat) : Nat := (Config.logCode (evClock + 16 * k)).toNat

/-- `s` without FCLK. -/
def unclocked (s : State) : State := { s with sys := { s.sys with fclk := false } }

/-- A lost FCLK puts every group of the part into SAFE with disarmed set and its outputs at rest; it is logged with time 0 and
raises source 16; everything on FCLK stops until the tailstock starts it again (R18, R174, R408). -/
def fclkLoss : Prop := ∀ s : State,
  (s.sys.fclk = false → Idle .fclkLost s) ∧
  (s.sys.fclk = true → Does .fclkLost s fun t =>
    t.sys = { s.sys with fclk := false, fclkLost := true, clocksLost := s.sys.clocksLost ||| 8 } ∧ ¬ t.fclkOn ∧
    (∀ g < 4 * sectorCount s.sys.variant, t.pwmState g = 0 ∧ t.bit (Reg.PWM_GRP_STATUS g) 5 = true ∧
      ∀ k, k / 4 = g → t.pair k = (s.pair k).rest) ∧
    logged (unclocked s) t 2 2 (lossCode 3) ∧ t.bit (Reg.TS_IRQ_PEND 0) 16 = true ∧
    Touches [.freeCtr, .regs, .sys, .log, .pairs, .canNode, .cyc] s t)

/-- A clock monitor's event: logged with the clock's name, with source 16; whether CAN can still tell it depends on the clock
that is left. -/
def clockTold (s t : State) (k : Nat) : Prop :=
  logged { s with sys := t.sys } t 2 2 (lossCode k) ∧
    (logRepeats 2 (lossCode k) s = false → ∃ e, t.log.ring.getLast? = some e ∧ e.payload = [BitVec.ofNat 8 k]) ∧ t.bit (Reg.TS_IRQ_PEND 0) 16 = true ∧ Keeps s t [Reg.TS_IRQ_PEND 0] ∧
    Touches [.freeCtr, .regs, .sys, .log, .canNode] s t

/-- Other clocks: a lost reference puts TCLK on the RC fallback and takes FCLK away; a lost crystal puts SCLK on the reference
divided by 763; a lost TCLK goes to the fallback with FCLK untouched, until the tailstock's PLL locks again. Each loss is
logged, and shows in the monitors' status until the clock is seen again (R18, R23, R36, R38). -/
def clocks : Prop := ∀ s : State,
  let ref := s.sys.powerGood = true ∧ s.sys.reference = true
  (¬ ref → Idle .referenceLost s ∧ Idle .tclkLost s ∧ Idle .tailstockPllLock s) ∧
  (ref → Does .referenceLost s fun t =>
    t.sys = { s.sys with fclk := false, fclkLost := s.sys.fclkLost || s.sys.fclk, reference := false, tclkOnRc := true,
                           clocksLost := s.sys.clocksLost ||| (if s.sys.fclk then 9 else 1) } ∧
    t.bit (Reg.TS_IRQ_PEND 0) 16 = true ∧ (s.sys.fclk = true → ∀ g < 4 * sectorCount s.sys.variant,
      t.pwmState g = 0 ∧ t.bit (Reg.PWM_GRP_STATUS g) 5 = true) ∧ (s.sys.fclk = false → clockTold s t 0)) ∧
  (ref → s.sys.tclkOnRc = false → Does .tclkLost s fun t =>
    t.sys = { s.sys with tclkOnRc := true, clocksLost := s.sys.clocksLost ||| 4 } ∧ clockTold s t 2) ∧
  (s.sys.tclkOnRc = true → Idle .tclkLost s) ∧
  (ref → exec .tailstockPllLock s =
    .next { s with sys := { s.sys with tclkOnRc := false, clocksLost := s.sys.clocksLost &&& ~~~4 } }) ∧
  (s.sys.powerGood = true → s.sys.crystal = true → Does .crystalLost s fun t =>
    t.sys = { s.sys with crystal := false, clocksLost := s.sys.clocksLost ||| 2 } ∧ clockTold s t 1) ∧
  (s.sys.powerGood = false ∨ s.sys.crystal = false → Idle .crystalLost s) ∧
  (s.sys.powerGood = true → exec .crystalReturn s =
    .next { s with sys := { s.sys with crystal := true, clocksLost := s.sys.clocksLost &&& ~~~2 } }) ∧
  (s.sys.powerGood = false → Idle .crystalReturn s)

/-- A unit's PLL is lost: audio shows it and is muted, a head goes off and its raster spindle is LOST, DRAM no longer serves;
each is logged and shows in the monitors' status (R18, R23, R57, R338, R372). -/
def unitPlls : Prop := ∀ s : State,
  let told (t : State) (k : Nat) : Prop := logged s t 2 2 (lossCode k) ∧
    t.sys.clocksLost = s.sys.clocksLost ||| (1#8 <<< k) ∧ t.bit (Reg.TS_IRQ_PEND 0) 16 = true
  (¬ s.fclkOn → ∀ u, Idle (.unitPllLost u) s) ∧
  (s.fclkOn → (Does (.unitPllLost .audio) s fun t => 
      t.sys = { s.sys with audioPll := false, clocksLost := t.sys.clocksLost } ∧ told t 4 ∧
      (s.mediaOn → t.bit Reg.AUD_STATUS 10 = true) ∧
      Keeps s t [Reg.AUD_STATUS, Reg.TS_IRQ_PEND 0, groupReg s 2080] ∧ Touches [.freeCtr, .regs, .sys, .log, .canNode, .cyc] s t) ∧
    (Does (.unitPllLost .dram) s fun t => t.sys = { s.sys with dramPll := false, clocksLost := t.sys.clocksLost } ∧
      ¬ t.dramOn ∧ told t 7 ∧ Keeps s t [Reg.TS_IRQ_PEND 0] ∧ Touches [.freeCtr, .regs, .sys, .log, .canNode, .cyc] s t) ∧
    (∀ h u, (h, u) ∈ [(0, UnitPll.video0), (1, .video1)] → Does (.unitPllLost u) s fun t => told t (5 + h) ∧
      (s.composerOn → t.fld (Reg.HD_STATUS h) 31 30 = 0 ∧ (if h = 0 then t.sys.videoPll0 else t.sys.videoPll1) = false ∧
        (s.hdState h ≠ 0 → (t.spn (136 + h)).rasterRuns = false ∧
          (s.bit (Reg.SPN_CTRL (136 + h)) 31 = true → s.spnState (136 + h) ≠ 6 → t.spnState (136 + h) = 5)))))

/-- The fabric PLL locks only for running firmware, with its reference, VDDA and VDD_CORE and no hold on the core domain. FCLK then runs;
clock_loss is set where FCLK had been lost; groups stay as they are; abort engines left by a core-domain reset are done
(R18, R459, R460, R463, R465). -/
def fabricLocks : Prop := ∀ s : State,
  let may := s.firmwareOn = true ∧ s.sys.reference = true ∧ s.sys.vdda = true ∧ s.sys.vddCore = true ∧
    s.sys.held = 0 ∧ s.sys.fclk = false
  (¬ may → Idle .fabricPllLock s) ∧
  (may → Does .fabricPllLock s fun t =>
    t.sys = { s.sys with fclk := true, audioPll := true, fclkLost := false, domainReset := false
                         clocksLost := s.sys.clocksLost &&& ~~~0x18 } ∧
    (s.sys.fclkLost = true → t.reg Reg.GCTL_RESET_CAUSE = withBit (s.reg Reg.GCTL_RESET_CAUSE) 6 true) ∧
    (s.sys.fclkLost = false → t.reg Reg.GCTL_RESET_CAUSE = s.reg Reg.GCTL_RESET_CAUSE) ∧
    (s.sys.domainReset = true → ∀ e < 3, (t.abortEngine e).busy = false ∧
      ((s.abortEngine e).busy = true → (t.abortEngine e).done = true)) ∧
    (s.sys.domainReset = false → t.aborts = s.aborts ∧ Keeps s t [Reg.GCTL_RESET_CAUSE]) ∧
    Touches [.regs, .sys, .hosts, .aborts, .cyc] s t)

/-- The island is part of the device (R2, R3). -/
def hasIsland (s : State) (i : Island) : Prop :=
  match i with
  | .core c => c.val < coreCount s.sys.variant
  | .sector k => k.val < sectorCount s.sys.variant
  | .media => True

/-- The island is on. -/
def islandOn (s : State) (i : Island) : Bool :=
  match i with
  | .core c => s.sys.coreIslands.getLsbD c
  | .sector k => s.sys.sectorIslands.getLsbD k
  | .media => s.sys.mediaIsland

/-- The island is in use: a released core or one that owns a scratch bank, a sector with an armed group, a media island with
an enabled status queue (R21). -/
def inUse (s : State) (i : Island) : Prop :=
  match i with
  | .core c => s.bit Reg.GCTL_CORE_REL c = true ∨ ∃ b < 32, s.bankOwner b = (0, c.val)
  | .sector k => ∃ g, g / 4 = k.val ∧ s.pwmState g = 2
  | .media => ∃ q < 16, s.bit (Reg.CON_SQ_CTL q) 31 = true

/-- Switching an island: only running firmware with FCLK does; an absent one and one that stands so already do not change. A
core off loses its TCM and its state, and on again starts at GCTL_CORE_PC; a sector off has its groups in SAFE with disarmed
set, its loops and samples gone and its channels stale; the media island off has no consoles, heads or voices. An island that
is switched off while it is in use leaves results open within itself only (R3, R19, R21, log entry 1). -/
def islandSwitches : Prop := ∀ (i : Island) (on : Bool) (s : State),
  let may := s.firmwareOn = true ∧ s.sys.fclk = true ∧ hasIsland s i ∧ islandOn s i ≠ on
  (¬ may → Idle (.islandSwitch i on) s) ∧
  (may → Does (.islandSwitch i on) s fun t => islandOn t i = on ∧ (∀ j, j ≠ i → islandOn t j = islandOn s j) ∧
    t.sys.fclk = true ∧ t.sys.variant = s.sys.variant ∧
    (∀ c : Fin 16, i = .core c → (on = true → t.core c = { pc := s.reg (Reg.GCTL_CORE_PC c), npc := s.reg (Reg.GCTL_CORE_PC c) + 4
                                                           cycle0 := s.devTimer } ∧ t.mem = s.mem) ∧
      (on = false → chucksFreed s t c ∧ (¬ inUse s i → t.core c = {}) ∧
        (∀ a, a < 0x20000000 + c * 0x100000 ∨ 0x20100000 + c * 0x100000 ≤ a → t.byte a = s.byte a) ∧
        (¬ inUse s i → ∀ a, 0x20000000 + c * 0x100000 ≤ a → a < 0x20100000 + c * 0x100000 → t.byte a = 0)) ∧
      (∀ d, d ≠ c.val → t.core d = s.core d) ∧ Touches [.freeCtr, .regs, .sys, .cores, .aic, .hosts, .mem, .poison, .cyc] s t) ∧
    (∀ k : Fin 6, i = .sector k → (on = true → Touches [.regs, .sys, .pairs, .cyc] s t) ∧
      (on = false → (∀ g, g / 4 = k.val → t.pwmState g = 0 ∧ t.bit (Reg.PWM_GRP_STATUS g) 5 = true ∧
          t.reg (Reg.PWM_SAFE g) = s.reg (Reg.PWM_SAFE g) ∧ (t.group g).safeLock = (s.group g).safeLock) ∧
        (¬ inUse s i → (∀ l, l / 64 = k.val → t.ctx l = {} ∧ t.reg (Reg.LOOP_CTL l) = 0x02000000) ∧
          ∀ c < 64, t.bit (Reg.CH_VALUE k c) 30 = true) ∧
        (∀ l, l / 64 ≠ k.val → t.ctx l = s.ctx l) ∧ t.mem = s.mem ∧ t.cores = s.cores)) ∧
    (i = .media → (on = true → Touches [.sys, .cyc] s t) ∧
      (on = false → (¬ inUse s i → t.consoles = [] ∧ t.heads = [] ∧ t.streams = [] ∧ t.mover = {} ∧ t.audio = {} ∧
          ∀ h < 2, t.fld (Reg.HD_STATUS h) 31 30 = 0) ∧ t.cores = s.cores ∧ t.loops = s.loops ∧ t.mem = s.mem)))


/-! ### The whole machine -/

/-- Every part of the state. -/
def allParts : List Part := [.pending, .freeCtr, .cyc, .pulses, .now, .devTimer, .regs, .resp, .shadow, .sys, .log,
  .spindles, .encoders, .encSince, .timers, .ptp, .adcs, .channels, .comparators, .demods, .sectors, .pairs, .groups,
  .tripPins, .zonePins, .tripAll, .plate, .loops, .place, .cores, .aic, .dma, .dmaLast, .outbound, .posted, .consoles,
  .conJobs, .pipes, .streams, .liveLines, .active, .mover, .heads, .audio, .bankSupply, .keepers, .sec, .cvs, .hosts,
  .dict, .canNode, .cans, .macs, .aborts, .iotlb, .sbOld, .trainTries, .refreshFast, .dramTemp, .macQueues, .busyPins,
  .tsClaimed, .mem, .nor, .poison, .checks, .variant, .otp, .unlock]

/-- Every part but the listed ones. -/
def allBut (ps : List Part) : List Part := allParts.filter fun p => decide (p ∉ ps)

/-- The parts of the state that a command may change: the registers and units that its rules name, and what an exception or
an interrupt of a core, an answered bus access or a freed chuck brings with it. No command changes the queue, the time or the
part's identity (R2, R10, R40). -/
def touched : Instr → List Part
| .registerWrite .. => allBut [.pending, .now, .resp, .shadow, .channels, .tripAll, .dmaLast, .posted, .liveLines,
    .bankSupply, .cans, .macs, .trainTries, .refreshFast, .dramTemp, .macQueues, .busyPins, .mem, .nor, .poison,
    .checks, .variant, .otp, .unlock]
| .lowWordRead .. => [.freeCtr, .cyc, .regs, .resp, .shadow, .sectors, .plate, .place, .aic, .streams, .mover, .audio,
    .cvs, .cans, .tsClaimed, .mem, .poison]
| .snapshotTrigger .. | .calStep .. | .latchedClear .. | .groupHoldoffEnd .. | .tsDoorbell .. | .bankAwake .. |
    .selfRefreshEntry | .dmaRestart .. | .hdCommit .. | .linkUp .. | .busOffRecover .. | .mcrInfo .. => [.regs]
| .sclkWriteEffect .. | .tailstockPllLock | .crystalReturn => [.sys]
| .powerGood .. | .sysPwrgdFall => allBut [.pending, .freeCtr, .now, .resp, .encoders, .encSince, .tripAll,
    .bankSupply, .nor, .variant, .otp]
| .fclkLost | .referenceLost => [.freeCtr, .cyc, .regs, .sys, .log, .pairs, .canNode]
| .crystalLost | .tclkLost => [.freeCtr, .regs, .sys, .log, .canNode]
| .unitPllLost .. => [.freeCtr, .cyc, .regs, .sys, .log, .spindles, .pairs, .groups, .canNode]
| .islandSwitch .. => [.freeCtr, .cyc, .regs, .sys, .spindles, .adcs, .channels, .comparators, .demods, .sectors,
    .pairs, .groups, .loops, .cores, .aic, .consoles, .conJobs, .pipes, .streams, .liveLines, .active, .mover, .heads,
    .audio, .hosts, .mem, .poison]
| .spindleEnable .. | .spindleDisable .. | .spindleSourceChange .. | .compareArm .. | .swTrigger .. => [.freeCtr,
    .cyc, .pulses, .regs, .spindles, .pairs, .groups, .plate]
| .encoderEdge .. | .hallCodeChange .. => [.cyc, .regs, .spindles, .encoders, .encSince, .pairs, .groups, .plate]
| .indexPulse .. => [.cyc, .pulses, .regs, .spindles, .encoders, .encSince, .pairs, .groups, .plate]
| .spindleTimeout .. | .spindleCoastExpiry .. | .macClockDisabled .. => [.cyc, .regs, .spindles, .pairs, .groups]
| .observerUpdate .. | .mainsUpdate .. | .spnEpochLo .. | .spnPeriod .. | .freeSpindleEpoch .. => [.cyc, .regs,
    .spindles, .pairs, .groups, .plate]
| .spnSetPhase .. | .spnOffset .. => [.cyc, .regs, .spindles, .plate]
| .ptpClockStep .. => [.cyc, .regs, .spindles, .ptp, .pairs, .groups, .plate]
| .compareFire .. => [.freeCtr, .cyc, .pulses, .regs, .spindles, .pairs, .groups]
| .captureTrigger .. | .doorbell .. | .mark .. | .channelStale .. | .sdOverrange .. | .calSkip .. | .aicDoorbell .. |
    .aicPdoorbell .. | .selfRefreshExit | .hpdPlug .. | .hpdUnplug .. | .irqHpd .. | .pdmStuck .. | .tdmSlip .. |
    .canTxDone .. | .busOff .. | .sgmiiSyncLost .. | .tsmReply .. | .sgmiiSyncGained .. => [.cyc, .regs]
| .timerWrap .. | .timerCompare .. => [.cyc, .regs, .timers]
| .gtCount .. => [.regs, .timers]
| .plateInsert .. => [.freeCtr, .cyc, .regs, .resp, .plate, .mem, .poison]
| .plateRemove .. => [.freeCtr, .regs, .resp, .plate, .mem, .poison]
| .plateAlloc .. | .plateRelease .. | .plateFetch .. => [.freeCtr, .regs, .resp, .plate]
| .plateWrite .. => [.freeCtr, .resp, .plate, .mem, .poison]
| .plateProbe .. => [.freeCtr, .resp, .plate]
| .plateStoreWriteDone .. | .holeFetchDone .. => [.cyc, .regs, .plate, .mem, .poison]
| .entryDue .. | .holeFetch .. | .partitionClear .. => [.cyc, .regs, .plate]
| .entryFire => [.freeCtr, .cyc, .regs, .plate, .mem, .poison]
| .nopAction => []
| .mwrite .. | .radd .. => allBut [.pending, .now, .devTimer, .resp, .shadow, .channels, .tripAll, .dmaLast, .posted,
    .liveLines, .bankSupply, .cans, .macs, .trainTries, .refreshFast, .dramTemp, .macQueues, .busyPins, .mem, .nor,
    .poison, .checks, .variant, .otp, .unlock]
| .adctrig .. | .adcSwtrig .. => [.cyc, .pulses, .regs, .adcs]
| .dmakick .. => [.freeCtr, .regs, .dma]
| .coefswap .. | .loopBank .. => [.loops]
| .dutystep .. | .carrierPeriod .. | .pwmEdge .. | .syncRestart .. | .valleyDetect .. => [.freeCtr, .cyc, .pulses,
    .regs, .comparators, .pairs, .groups]
| .raster .. | .scroll .. | .scrollAdd .. | .layerEn .. | .window .. | .palette .. | .backdrop .. | .render .. =>
    [.cyc, .regs, .consoles]
| .chain .. => [.plate]
| .plateRefetch .. => [.cyc, .regs, .plate, .mem, .poison, .checks]
| .retirement | .plateInit .. | .storeLock .. => [.regs, .plate]
| .plateInitDone => [.regs, .plate, .mem]
| .partitionClearDone .. => [.regs, .plate, .mem, .poison]
| .adcHold .. => [.adcs]
| .sampleWrite .. => [.cyc, .regs, .adcs, .channels, .sectors]
| .afeQueue .. => [.regs, .resp, .sectors]
| .routeChange .. => [.regs, .adcs]
| .comparatorActive .. | .comparatorInactive .. | .blankingWindowClose .. | .pwmCmpa .. | .zoneRelease .. |
    .comparatorHoldEnd .. => [.cyc, .pulses, .regs, .comparators, .pairs]
| .zoneInputAssert .. => [.cyc, .regs, .comparators, .pairs]
| .sdDecimation .. => [.freeCtr, .cyc, .regs, .channels, .demods, .sectors]
| .sdSync .. | .sdClkReturn .. => [.demods]
| .sdClkLost .. => [.cyc, .regs, .demods]
| .calDone .. => [.freeCtr, .cyc, .regs, .log, .adcs, .sectors, .canNode]
| .calSwap .. => [.regs, .adcs, .sectors]
| .rotate .. | .calReq .. => [.cyc, .regs, .adcs, .sectors]
| .loopStartEvent .. | .loopIssue .. | .predictedRunDone .. | .sampleConfirm .. | .recomputeDone .. | .settleDone .. |
    .sampleTimeout .. | .stateRebuild .. => [.freeCtr, .cyc, .pulses, .regs, .spindles, .comparators, .pairs, .groups,
    .plate, .loops]
| .loopEnable .. => [.regs, .loops]
| .valleyWindowEnd .. => [.cyc, .pulses, .regs, .comparators, .pairs, .groups]
| .zoneAssert .. | .tzForce .. | .gtripClear => [.cyc, .regs, .pairs]
| .tripInPin .. => [.cyc, .regs, .pairs, .tripPins, .zonePins]
| .tripAllN .. => [.freeCtr, .cyc, .regs, .log, .pairs, .tripAll, .canNode]
| .gtripAssert => [.freeCtr, .cyc, .regs, .log, .pairs, .canNode]
| .pwmArmReq .. => [.regs, .groups]
| .arm .. => [.cyc, .regs, .groups]
| .safeLock .. => [.groups]
| .disarm .. => [.cyc, .regs, .pairs, .groups]
| .plSubmit .. | .plCommit .. | .plWithdraw .. | .plReplace .. => [.regs, .resp, .place]
| .plDiscard .. => [.regs, .place]
| .plQuery .. | .chkAcquire .. => [.regs, .resp]
| .placementDone => [.freeCtr, .cyc, .pulses, .regs, .spindles, .adcs, .pairs, .groups, .plate, .loops, .place,
    .sbOld, .mem, .poison]
| .quietPoint => [.regs, .loops, .place]
| .quietTimeout => [.cyc, .regs, .pairs, .loops, .place]
| .replaceSwitch => [.freeCtr, .cyc, .pulses, .regs, .spindles, .comparators, .pairs, .groups, .plate, .loops, .place]
| .add .. | .sub .. | .andOp .. | .orOp .. | .xor .. | .orn .. | .lt .. | .ltu .. | .eq .. | .ne .. | .min .. | .max
    .. | .sll .. | .srl .. | .sra .. | .ror .. | .slli .. | .srli .. | .srai .. | .rori .. | .mul .. | .mulhi .. |
    .mulhiu .. | .div .. | .divu .. | .mod .. | .modu .. | .clz .. | .jmpr .. | .callr .. | .scw .. | .fence .. |
    .sync .. | .trap .. | .bkpt .. | .wait .. | .addi .. | .andi .. | .ori .. | .xori .. | .lti .. | .ltiu .. | .eqi
    .. | .nei .. | .lhi .. | .bfx .. | .bfi .. | .perm .. | .loop .. | .loopi .. | .crd .. | .cwr .. | .st .. |
    .cacheClean .. | .cacheInvalidate .. | .cacheCleanInvalidate .. | .cacheInvalidateI .. | .cachePrefetch .. | .bz
    .. | .bnz .. | .jump .. | .call .. | .macs .. | .macz .. | .macr .. | .mulq .. | .adds .. | .subs .. | .sincos ..
    | .angle .. | .mag .. | .lpoll .. | .lput .. | .prem .. | .interruptLatch .. | .impreciseBusError .. |
    .storeBufferDrain .. | .tableWalk .. | .machineCheck | .reservedInstruction .. => allBut [.pending, .now, .resp,
    .shadow, .channels, .tripAll, .dmaLast, .posted, .liveLines, .bankSupply, .cans, .macs, .trainTries, .refreshFast,
    .dramTemp, .macQueues, .busyPins, .nor, .variant, .otp, .unlock]
| .llw .. | .xfer .. | .crcb .. | .retx .. | .ld .. | .pins .. | .loadDataReturn .. => allBut [.pending, .now, .resp,
    .channels, .tripAll, .dmaLast, .posted, .liveLines, .bankSupply, .macs, .trainTries, .refreshFast, .dramTemp,
    .macQueues, .busyPins, .nor, .variant, .otp, .unlock]
| .aicClaim .. => [.regs, .resp, .aic]
| .aicEoi .. => [.freeCtr, .regs, .aic]
| .tsClaim => [.regs, .resp, .tsClaimed]
| .tsEoi .. => [.freeCtr, .regs, .tsClaimed]
| .sbCtl .. | .bankRetention .. | .bankWake .. => [.freeCtr, .regs, .sbOld]
| .ownerChangeEffect .. => [.sbOld]
| .busyPinRelease .. => [.busyPins]
| .dramTrainStep .. => [.freeCtr, .cyc, .regs, .sys, .log, .canNode, .trainTries]
| .dramTempRead .. => [.cyc, .regs, .refreshFast, .dramTemp]
| .iommuInv .. | .iommuInvDone => [.regs, .iotlb]
| .dmaChKick .. | .paceRequest .. | .dmaResume .. => [.regs, .dma]
| .descriptorFetchDone .. => [.freeCtr, .cyc, .regs, .dma, .iotlb, .checks]
| .dmaBurst => allBut [.pending, .now, .devTimer, .resp, .channels, .tripAll, .liveLines, .bankSupply, .macs,
    .trainTries, .refreshFast, .dramTemp, .macQueues, .busyPins, .nor, .variant, .otp, .unlock]
| .descriptorComplete .. => [.freeCtr, .cyc, .regs, .plate, .cores, .dma, .dict, .iotlb, .mem, .poison, .checks]
| .transactionTimeout .. => [.cyc, .regs, .dma]
| .conCtl .. => [.cyc, .regs, .spindles, .pairs, .groups, .plate, .consoles]
| .lineLatch .. => [.cyc, .regs, .consoles, .conJobs]
| .renderJobStart => [.conJobs, .pipes]
| .renderJobDone .. => [.freeCtr, .cyc, .regs, .plate, .cores, .consoles, .pipes, .streams, .liveLines, .dict, .iotlb,
    .mem, .poison, .checks]
| .lineEnterQueue .. | .streamFlush .. => [.regs, .consoles, .streams]
| .inlayTableArrived .. => [.freeCtr, .cyc, .regs, .consoles, .iotlb, .checks]
| .conKick .. => [.consoles]
| .conSqData .. => [.regs, .resp, .streams]
| .headEnable .. | .headDisable .. => [.freeCtr, .cyc, .regs, .spindles, .pairs, .groups, .active, .heads]
| .videoPllLock .. => [.freeCtr, .cyc, .regs, .sys, .spindles, .pairs, .groups, .plate, .heads]
| .commitLatch .. => [.freeCtr, .cyc, .regs, .liveLines, .active, .heads]
| .layerRefill .. | .dpAuxCmd .. => [.heads]
| .underrun .. | .linkTrain .. | .auxReply .. | .auxTimeout .. => [.cyc, .regs, .heads]
| .layerFetchFault .. => [.freeCtr, .cyc, .regs, .heads, .iotlb, .checks]
| .writeBackLine .. => [.freeCtr, .cyc, .regs, .plate, .cores, .dict, .iotlb, .mem, .poison, .checks]
| .psrExit .. => [.cyc, .regs, .liveLines, .heads]
| .mvSubmit .. => [.regs, .resp, .mover]
| .copy | .fill | .blend | .keyfill => [.regs, .mover]
| .moverRow => [.freeCtr, .cyc, .regs, .plate, .cores, .mover, .dict, .iotlb, .mem, .poison, .checks]
| .moverSuspend .. | .moverResume .. | .moverRestart .. | .moverFlush .. => [.cyc, .regs, .mover]
| .domainSample .. => [.freeCtr, .cyc, .regs, .audio, .checks]
| .carrierSample => [.freeCtr, .cyc, .regs, .audio]
| .carrierLost | .pdmClkLost .. | .tdmSyncLost .. | .tdmResume .. => [.cyc, .regs, .audio]
| .carrierRecover | .rampDone .. | .pdmClkReturn .. => [.audio]
| .keyOn .. | .keyOff .. => [.regs, .audio]
| .audRtApply .. => [.cyc, .regs, .resp, .audio]
| .audCqData .. | .peakMeterRead .. => [.regs, .resp, .audio]
| .perst .. | .functionLevelReset .. => [.cyc, .regs, .dma, .outbound, .hosts]
| .bar0Request .. => allBut [.pending, .now, .resp, .channels, .tripAll, .dmaLast, .posted, .liveLines, .bankSupply,
    .macs, .trainTries, .refreshFast, .dramTemp, .macQueues, .busyPins, .nor, .checks, .variant, .otp, .unlock]
| .registerTimeout .. | .hpHostDb .. | .chkRelease .. | .chkLeaseExpiry .. | .tsReplyWrite .. => [.cyc, .regs, .hosts]
| .bar2Access .. => allBut [.pending, .now, .devTimer, .resp, .shadow, .channels, .tripAll, .dmaLast, .posted,
    .liveLines, .bankSupply, .cans, .macs, .trainTries, .refreshFast, .dramTemp, .macQueues, .nor, .variant, .otp,
    .unlock]
| .abortLoopContext .. | .abortPwmGroup .. | .abortSpindle .. | .abortPlatePartition .. | .abortConsoleContext .. |
    .abort2dMover .. | .abortAudioRoute .. | .abortAudioOutput .. | .abortDmaChannel .. => [.cyc, .pulses, .regs,
    .spindles, .comparators, .pairs, .groups, .plate, .loops, .place, .dma, .outbound, .consoles, .conJobs, .pipes,
    .streams, .mover, .audio, .hosts, .aborts]
| .abortDone .. => [.cyc, .regs, .hosts, .aborts]
| .dictRead | .dictWrite | .dictDescribe => allBut [.pending, .now, .devTimer, .resp, .channels, .tripAll, .dmaLast,
    .posted, .liveLines, .bankSupply, .trainTries, .refreshFast, .dramTemp, .macQueues, .busyPins, .checks, .variant]
| .dictDone => [.freeCtr, .cyc, .regs, .hosts, .dict]
| .transferAbandon .. => [.regs, .dict, .canNode]
| .storeSave .. | .restoreLoad .. | .armRequestObject .. | .imageWrite .. | .imageVerify .. | .imageActivate .. |
    .imageConfirm .. | .attestationNonce .. | .debugResponse .. | .debugLock .. | .debugLevel .. | .resetRequest .. =>
    allBut [.pending, .now, .devTimer, .resp, .shadow, .channels, .tripAll, .dmaLast, .posted, .liveLines,
    .bankSupply, .cans, .macs, .trainTries, .refreshFast, .dramTemp, .macQueues, .busyPins, .mem, .poison, .checks,
    .variant]
| .hpTsMsg .. | .tsmDictCmd .. | .tsmMsg .. => [.regs, .dict]
| .nmtStart .. | .nmtStop .. | .nmtPreOperational .. | .nmtResetCommunication .. | .heartbeat => [.canNode]
| .nmtResetNode .. | .usdoRequest .. => [.dict, .canNode]
| .tpdo .. => [.freeCtr, .canNode]
| .canFrameReceive .. => [.freeCtr, .cyc, .regs, .cans]
| .busStuck .. => [.cyc, .regs, .cans]
| .horanoDatagram .. => [.cyc, .regs, .dict, .macs]
| .ethFrameReceive .. => [.cyc, .regs, .macQueues]
| .sensorSample .. => allBut [.pending, .now, .devTimer, .resp, .shadow, .encoders, .encSince, .tripAll, .bankSupply,
    .hosts, .aborts, .busyPins, .tsClaimed, .nor, .variant, .otp, .unlock]
| .sensorInvalid .. => [.freeCtr, .regs, .sys, .log, .sec, .canNode]
| .journalWrite => [.log]
| .norProgramDone .. | .trngHealthFail => [.freeCtr, .regs, .log, .sec, .canNode]
| .otpProg .. => [.regs, .sec]
| .otpProgDone .. => [.freeCtr, .regs, .sec, .otp]
| .bootRom => [.freeCtr, .regs, .sys, .log, .cores, .sec, .canNode, .mem, .poison, .otp]
| .quote .. | .debugChallenge .. => [.freeCtr, .cyc, .regs, .shadow, .sectors, .plate, .place, .aic, .streams, .mover,
    .audio, .sec, .cvs, .dict, .cans, .tsClaimed, .mem, .poison]
| .challengeExpiry | .trngRecover => [.sec]
| .tamper .. | .meshCheck .. => allBut [.pending, .freeCtr, .now, .resp, .log, .encoders, .encSince, .tripAll,
    .bankSupply, .nor, .variant, .otp]
| .telemetryRefresh => [.freeCtr, .regs, .plate, .cores, .sec, .dict, .mem, .poison]
| .scrubRead .. => [.cyc, .pulses, .regs, .comparators, .pairs, .groups, .plate, .loops, .consoles, .heads, .mem,
    .poison, .checks]
| .cvQueueWrite .. => [.cyc, .regs, .cvs]
| .cvData .. | .cvInit .. | .cvAliveIn .. | .cvCheck .. => [.freeCtr, .cyc, .regs, .cvs]
| .cvStateLo .. => [.freeCtr, .regs, .cvs]
| .pinCfg .. => [.freeCtr, .cyc, .regs, .spindles, .encoders, .encSince, .pairs, .tripPins, .zonePins, .keepers]
| .keeperRelease .. => [.keepers]
| .filterAccept .. => [.freeCtr, .cyc, .regs]
| .bankSupplyLost .. => allBut [.pending, .now, .devTimer, .resp, .shadow, .encoders, .encSince, .tripAll, .aborts,
    .busyPins, .tsClaimed, .nor, .variant, .otp, .unlock]
| .bankSupplyReturn .. => [.cyc, .regs, .sys, .spindles, .encoders, .encSince, .pairs, .tripPins, .zonePins,
    .bankSupply]
| .coreRelease .. => [.freeCtr, .regs, .log, .plate, .cores, .sec, .dict, .canNode, .mem, .poison]
| .deviceReset => allBut [.pending, .freeCtr, .now, .resp, .log, .encoders, .encSince, .tripAll, .bankSupply, .nor,
    .variant, .otp, .unlock]
| .coreDomainReset => allBut [.pending, .freeCtr, .now, .devTimer, .resp, .shadow, .log, .encoders, .encSince,
    .tripAll, .bankSupply, .hosts, .canNode, .aborts, .busyPins, .tsClaimed, .nor, .variant, .otp, .unlock]
| .coreReset .. => [.cyc, .regs, .cores, .hosts]
| .fabricPllLock => [.cyc, .regs, .sys, .hosts, .aborts]
| .busRecessiveReturn .. => [.cans]
| .outboundCompletion .. | .completionTimeout .. => [.cyc, .regs, .dma, .outbound]
| .configurationRequest .. => [.regs, .hosts]

/-- Every command completes in every state, and changes no part of it but those listed for it. -/
def completes : Prop := ∀ (c : Instr) (s : State), ∃ t, exec c s = .next t ∧ Touches (touched c) s t

/-- A step with command `c` at the front of the queue is `exec c` with the queue's rest. -/
def stepRuns : Prop := ∀ (c : Instr) (r : List Instr) (s : State), s.pending = c :: r → step s = exec c { s with pending := r }

/-- Every step answers a next state, whose queue has lost its front and nothing else. -/
def stepTakes : Prop := ∀ s : State, ∃ t, step s = .next t ∧ t.pending = s.pending.tail

/-- On an empty queue one cycle passes: the time rises, the device timer with it while FCLK runs, and SCLK's edges are counted
from the crystal's 32,768 Hz, or from the reference divided by 763, with the copies that software reads; what hardware and
software did in the cycle before is no longer of the same cycle. That a cycle passes on an empty queue, and that what falls
due with a command of its own waits for it, is the model's choice (R15, R33, R34, R36 to R38, log entry 5). -/
def stepIdles : Prop := ∀ s : State, s.pending = [] → ∃ t, step s = .next t ∧
  let share := if s.sys.crystal then 32768 * 763 else if s.sys.reference then 25000000 else 0
  let whole := 1500000000 * 763
  let due := s.sys.powerGood = true ∧ whole ≤ s.sys.sclkAcc + share
  t.now = s.now + 1 ∧ t.devTimer = (if s.fclkOn then s.devTimer + 1 else s.devTimer) ∧
  (due → t.sys = { s.sys with sclkAcc := s.sys.sclkAcc + share - whole, sclkCount := s.sys.sclkCount + 1 } ∧
    t.reg Reg.GCTL_SCLK_CNT_LO = (s.sys.sclkCount + 1).setWidth 32 ∧
    t.reg Reg.GCTL_SCLK_CNT_HI = ((s.sys.sclkCount + 1) >>> 32).setWidth 32 ∧
    t.reg Reg.GCTL_SCLK_STATUS = (if s.sys.crystal then 1 else 2) ∧
    ∀ i < 4, t.reg (Reg.GCTL_KEEP i) = tabGet 0 i s.sys.keep) ∧
  (¬ due → t.sys = { s.sys with sclkAcc := t.sys.sclkAcc } ∧
    (s.sys.powerGood = true → t.sys.sclkAcc = s.sys.sclkAcc + share) ∧
    (s.sys.powerGood = false → t.sys.sclkAcc = s.sys.sclkAcc)) ∧
  (s.fclkOn = false → t.cyc = {} ∧ Touches [.now, .cyc, .regs, .sys] s t) ∧
  Touches [.now, .devTimer, .freeCtr, .cyc, .pulses, .regs, .sys, .spindles, .timers, .ptp, .comparators, .pairs, .groups,
    .plate, .loops, .aic] s t

/-- The machine right after reset: nothing powered up or queued, no unit with state of its own, and registers at the values of
their tables; memory lists nothing. Where the spec gives no value the model's stands (log entry 2). -/
def resetState : Prop :=
  let s := State.reset
  s.pending = [] ∧ s.sys.powerGood = false ∧ s.sys.phase = .off ∧ s.fclkOn = false ∧ s.mem = [] ∧ s.nor = [] ∧ s.poison = [] ∧
  s.sys.coreIslands = 0 ∧ s.sys.sectorIslands = 0 ∧ s.sys.mediaIsland = false ∧ s.sys.held = 0 ∧ s.log.ring = [] ∧
  s.devTimer = 0 ∧ (∀ c, s.cr c crSTATUS = 9) ∧ (∀ c g, s.greg c g = 0) ∧
  s.reg Reg.GCTL_RESET_CAUSE = 1 ∧ s.reg Reg.GCTL_CORE_REL = 0 ∧ (∀ k < 384, s.reg (Reg.LOOP_CTL k) = 0x02000000) ∧
  (∀ n < 160, s.reg (Reg.PIN_CFG n) = 0x10000000) ∧ (∀ k < 56, s.reg (Reg.TSN_CTL k) = 0x80000004) ∧
  (∀ u < 8, s.reg (Reg.CV_CTL u) = 0x20 ∧ s.reg (Reg.CV_POLY_LO u) = 0x04C11DB7 ∧ s.reg (Reg.CV_INIT_LO u) = 0xFFFFFFFF) ∧
  s.reg Reg.CHK_LEASE = 0x64 ∧ s.reg (Reg.INT_SCRUB 0) = 720 ∧ s.reg (Reg.INT_SCRUB 1) = 10000 ∧ s.reg (Reg.INT_SCRUB 2) = 1000 ∧
  (∀ g < 24, s.pwmState g = 0 ∧ s.reg (Reg.PWM_GRP_CTL g) = State.reset.reg (Reg.PWM_GRP_CTL g))

/-- At reset the tables have their one form. -/
def resetForm : Prop := Memory.wf State.reset.mem ∧ tabWf (fun _ => (0xFF : Byte)) State.reset.nor = true ∧ plateInv State.reset

/-- Every step keeps memory and the NOR in their one form: addresses rising, and nothing listed that an unlisted address reads
as. -/
def memoryForm : Prop := ∀ s t : State, Memory.wf s.mem → tabWf (fun _ => (0xFF : Byte)) s.nor = true → step s = .next t →
  Memory.wf t.mem ∧ tabWf (fun _ => (0xFF : Byte)) t.nor = true

/-- Every step keeps the plate's table of entries in its one form and within the store (R93). -/
def plateForm : Prop := ∀ s t : State, plateInv s → step s = .next t → plateInv t

/-- What no command may do, whatever the state: a blown OTP bit stays set, the part stays the part it is, and nothing but a
response to a debug challenge unlocks the debug port further (R2, R412, R423). -/
def promises : Prop := ∀ (c : Instr) (s t : State), exec c s = .next t →
  t.sys.variant = s.sys.variant ∧ (∀ w b, bitAt (s.otpWord w) b = true → bitAt (t.otpWord w) b = true) ∧
  ((∀ who r, c ≠ .debugResponse who r) → c ≠ .dictWrite → t.sec.unlock = s.sec.unlock ∨ t.sec.unlock = 0)

/-- CLZ counts the zero bits above the highest set bit (R222). -/
def leadingZeros : Prop := ∀ (c : Fin 17) (d a : Fin 32) (s : State), canRun s c .plain →
  Does (.clz c d a) s fun t => ∃ n : Word, gains s t c d n ∧ (s.greg c a = 0 → n = 32) ∧
    (s.greg c a ≠ 0 → n.toNat ≤ 31 ∧ s.greg c a >>> (31 - n.toNat) = 1) ∧ (s.greg c a = 0x80000000 → n = 0)


/-! ### Every command completes: what it needs, and the mark of its own effect -/

/-- Commands of the plate's rows complete: each operation where the plate serves it, each event where its engine has one
(R79, R82 to R86, R88, R90, R93, R94, R96, R98, R99, R101). -/
def plateCompletes : Prop := ∀ (q : Requester) (h : Fin 1048576) (i : Fin 2097152) (part : Fin 154) (v target data : Word)
    (s : State), plateServes s →
  let hole := s.stagedHole q
  let e : PlateEntry := { w0 := s.staged q 0, w1 := s.staged q 1, w2 := s.staged q 2,
                          w3 := s.staged q 3 &&& 0xFFE00000, hole := hole }
  (∀ n, s.partOf hole = some n → s.fld (Reg.PLATE_PART_STATUS n) 31 30 = 1 → whole s hole → holeCount s hole < 2047 →
    s.bit (Reg.PLATE_PART_RES n) 31 = true → someFree s → e.dir ≠ 3 → e.latePolicy ≠ 3 → s.holeNear n hole = false →
    Does (.plateInsert q) s fun t => bitAt (t.answered q) 31 = false) ∧
  (∀ j n, names s q j → (s.entry j).kind = .linked → whole s (s.entry j).hole → s.partOf (s.entry j).hole = some n →
    Does (.plateRemove q) s fun t => t.answered q = 0 ∧ (t.entry j).kind ≠ .linked) ∧
  ((s.plate.entries.filter fun x => decide (x.2.kind = .alloc)).length < s.fld Reg.PLATE_CHAIN_POOL 18 0 → someFree s →
    Does (.plateAlloc q) s fun t => bitAt (t.answered q) 31 = false) ∧
  (∀ j, names s q j → (s.entry j).kind = .alloc → j ∉ s.plate.lostChain →
    Does (.plateWrite q) s (fun t => t.answered q = 0 ∧ (t.entry j).w1 = s.staged q 1) ∧
    Does (.plateRelease q) s (fun t => t.answered q = 0 ∧ (t.entry j).kind = .free) ∧
    Does (.plateFetch q) s fun t => t.answered q = 0 ∧ t.reg (ownKey q (Reg.PLATE_RD_W 1)) = (s.entry j).w1) ∧
  (s.partOf hole ≠ none → whole s hole → holeCount s hole < 2048 →
    Does (.plateProbe q) s fun t => fieldOf (t.answered q) 10 0 = holeCount s hole ∧ bitAt (t.answered q) 31 = false) ∧
  (h.val ∈ s.plate.writing → Does (.plateStoreWriteDone h) s fun t => h.val ∉ t.plate.writing) ∧
  (∀ n, s.partOf (s.entry i).hole = some n → crosses s i n → (∀ d ∈ s.plate.due, d.idx ≠ i.val) →
    Does (.entryDue i) s fun t => ∃ d ∈ t.plate.due, d.idx = i.val ∧ d.part = n) ∧
  (∀ d, mayFire s → s.plate.chain = none → d ∈ s.plate.due →
    (∀ x ∈ s.plate.due, x.part < 154 ∧ (x ≠ d → s.firesBefore d x = true)) → actionListed (s.entry d.idx) = true →
    (s.entry d.idx).kind = .linked → Does .entryFire s fun t => t.plate.retq = s.plate.retq ++ [d.idx]) ∧
  exec .nopAction s = .next s ∧
  (∀ n : Fin 154, s.spnPresent n → (target &&& 0x0FFFFFFC).toNat = Reg.SPN_TIMEOUT n →
    Does (.mwrite part target data) s (fun t => t.reg (Reg.SPN_TIMEOUT n) = data) ∧
    Does (.radd part target data) s fun t => t.reg (Reg.SPN_TIMEOUT n) = s.reg (Reg.SPN_TIMEOUT n) + data) ∧
  Does (.doorbell target) s (fun t => t.bit (Reg.AIC_SRC (fieldOf target 11 0)) 29 = true) ∧
  (s.plate.sent = none → Does (.chain part data) s fun t =>
    t.plate.chain = some (fieldOf data 20 0, fieldOf data 26 21 + 1) ∧ t.plate.chainPart = part) ∧
  (fieldOf target 7 0 < 154 → s.spnPresent (fieldOf target 7 0) = true → s.spnState (fieldOf target 7 0) ≠ 6 →
    Does (.mark target) s fun t => t.bit (Reg.SPN_STATUS (fieldOf target 7 0)) (4 + fieldOf target 8 8) = true) ∧
  (s.dispatchOn → s.bit (Reg.PLATE_PART_RES part) 31 = true → s.fld (Reg.PLATE_PART_STATUS part) 31 30 = 1 →
    Does (.holeFetch part) s fun t =>
      ∀ x ∈ s.sweptHoles part, s.partOf x ≠ none → x ∈ t.plate.near ∨ x ∈ t.plate.fetching ∨ x ∈ t.plate.wanted) ∧
  (s.dispatchOn → h.val ∈ s.plate.fetching → h.val ∉ s.plate.wanted → s.partOf h ≠ none →
    Does (.holeFetchDone h) s fun t => h.val ∈ t.plate.near) ∧
  (∀ n, (s.entry i).kind = .linked → s.partOf (s.entry i).hole = some n →
    Does (.plateRefetch i .nearWord) s fun t => t.bit (Reg.PLATE_PART_STATUS n) 4 = true) ∧
  (∀ j r, s.plate.retiredAt = 0 → s.plate.retq = j :: r → Does .retirement s fun t => t.plate.retq = r) ∧
  (bitAt v 31 = false → Does (.plateInit v) s fun t => t.plate.initialising = true) ∧
  (s.plate.initialising = true → Does .plateInitDone s fun t => t.plate.entries = [] ∧ t.bit Reg.PLATE_CTRL 28 = true) ∧
  Does (.storeLock v) s (fun t => t.bit Reg.PLATE_CTRL 30 = true) ∧
  (bitAt v 31 = false → s.aborting 3 part = false →
    Does (.partitionClear part v) s fun t => t.fld (Reg.PLATE_PART_STATUS part) 31 30 = 3) ∧
  (s.fld (Reg.PLATE_PART_STATUS part) 31 30 = 3 →
    Does (.partitionClearDone part) s fun t => t.fld (Reg.PLATE_PART_STATUS part) 31 30 = 0)

/-- Commands of the sampling front end complete in a powered sector (R107, R108, R111, R114 to R120, R486). -/
def samplingCompletes : Prop := ∀ (n : Fin 24) (ch : Fin 384) (c : Fin 72) (j : Fin 48) (k : Fin 6) (q : Requester)
    (code : BitVec 14) (e : Fin 64) (bits : List Bool) (uv : Nat) (v target data : Word) (s : State),
  (∀ m < 6, s.sectorOn m = true) →
  let a := s.adc n
  let alone (m : Nat) : Prop := s.adcEnabled m = true ∧ s.adcAvailable m = true ∧ (s.adc m).running = false ∧
    ∀ i < 4, i ≠ m % 4 → s.bit (Reg.ADC_CTL (m / 4) (m % 4)) (26 + i) = false
  let cmp := Reg.CMP_CTL (c.val / 12) (c.val % 12)
  let sd := Reg.SD_CTL (j.val / 8) (j.val % 8)
  let cal := Reg.AFE_CAL_STATUS k
  let runs (t : State) (m x : Nat) : Prop := (t.adc m).running = true ∧ (t.adc m).entry = x
  (fieldOf target 4 0 < 24 → fieldOf data 7 0 < 64 → alone (fieldOf target 4 0) →
    Does (.adctrig target data) s fun t => runs t (fieldOf target 4 0) (fieldOf data 7 0)) ∧
  (fieldOf v 7 0 < 64 → alone n → Does (.adcSwtrig n v) s fun t => runs t n (fieldOf v 7 0)) ∧
  (a.running = true → a.held < 2 ^ fieldOf a.word 30 29 →
    Does (.adcHold n code) s fun t => (t.adc n).held = a.held + 1 ∧ (t.adc n).sum = a.sum + code.toNat) ∧
  (a.running = true → a.held = 2 ^ fieldOf a.word 30 29 → Does (.sampleWrite n) s fun t =>
    t.reg (Reg.CH_TIME (n.val / 4) (fieldOf a.word 13 8)) = a.firstHold) ∧
  (s.bit (Reg.CH_VALUE (ch.val / 64) (ch.val % 64)) 31 = true → s.bit (Reg.CH_VALUE (ch.val / 64) (ch.val % 64)) 30 = false →
    s.fld (Reg.CH_CTL (ch.val / 64) (ch.val % 64)) 15 0 ≠ 0 →
    Does (.channelStale ch) s fun t => t.bit (Reg.CH_VALUE (ch.val / 64) (ch.val % 64)) 30 = true) ∧
  (∀ w r, (s.sector k).queue = w :: r → Does (.afeQueue q k) s fun t => t.answered q = w ∧ (t.sector k).queue = r) ∧
  (a.running = true → Does (.routeChange n (.seq e) v) s fun t =>
    t.reg (Reg.ADC_SEQ (n.val / 4) (n.val % 4) e) = v &&& 0xEFF03F0F) ∧
  (s.bit cmp 30 = false → s.dacCode c * 1500000 < uv * 4096 →
    Does (.comparatorActive ⟨c, uv⟩) s fun t => (t.comparator c).raw = true) ∧
  (s.bit cmp 30 = true → s.dacCode c * 1500000 + 40000 * 4096 < uv * 4096 →
    Does (.comparatorInactive ⟨c, uv⟩) s fun t => (t.comparator c).raw = false) ∧
  ((s.comparator c).out = true → Does (.zoneInputAssert c) s fun t => (t.comparator c).zoneIn = true) ∧
  Does (.blankingWindowClose c) s (fun t => (t.comparator c).blanked = false) ∧
  Does (.comparatorHoldEnd c) s (fun t => (t.comparator c).held = false) ∧
  (s.bit sd 31 = true → s.bit sd 30 = true → 60 ≤ s.fld (Reg.SD_CLK (j.val / 8) (j.val % 8)) 8 0 →
    (s.demod j).clkLost = false → 16 ≤ s.fld sd 28 20 → s.fld sd 28 20 ≤ 256 → s.fld sd 19 15 ≤ 24 →
    (s.demod j).used = none → Does (.sdDecimation j bits) s fun t => (t.demod j).counterFrom = s.now) ∧
  (bitAt v 0 = true → Does (.sdSync j v) s fun t => (t.demod j).counterFrom = s.now) ∧
  (s.bit sd 31 = true → Does (.sdClkLost j) s (fun t => (t.demod j).clkLost = true) ∧
    Does (.sdOverrange j) s fun t => t.bit (Reg.SD_STATUS (j.val / 8) (j.val % 8)) 1 = true) ∧
  ((s.demod j).clkLost = true → Does (.sdClkReturn j) s fun t => (t.demod j).clkLost = false ∧ (t.demod j).discard = 3) ∧
  (s.bit (Reg.AFE_CAL_CTL k) 31 = true → s.fld cal 31 30 = 0 → s.fld cal 27 24 = 0 →
    Does (.calStep k) s fun t => t.fld cal 31 30 = 1) ∧
  ((s.sector k).foreground = none → s.fld cal 31 30 = 1 → Does (.calDone k true) s fun t => t.fld cal 31 30 = 2) ∧
  (s.fld cal 31 30 = 2 → (∀ i < 3, (s.adc (4 * k.val + i)).conv = i ∧ (s.adc (4 * k.val + i)).running = false) →
    Does (.calSwap k) s fun t => t.fld cal 31 30 = 0 ∧ t.fld cal 29 28 < 3) ∧
  (s.fld cal 31 30 = 2 → Does (.calSkip k) s fun t => t.fld cal 31 30 = 0 ∧ t.fld cal 29 28 = s.fld cal 29 28) ∧
  (s.bit (Reg.AFE_CAL_CTL k) 31 = true → bitAt v 31 = false →
    Does (.rotate k v) s fun t => t.fld cal 31 30 = 0 ∧ t.bit (Reg.AFE_CAL_CTL k) 31 = false) ∧
  (s.bit (Reg.AFE_CAL_CTL k) 31 = false → bitAt v 31 = false → (s.sector k).foreground = none →
    s.adcOfConv k (fieldOf v 29 28) ≠ none →
    Does (.calReq k v) s fun t => (t.sector k).foreground = some (fieldOf v 29 28))

/-- Commands of the loop engines complete on a context that serves (R79, R131, R132, R140, R142, R147 to R149). -/
def loopsComplete : Prop := ∀ (k : Fin 384) (v target data : Word) (s : State), loopServes s k →
  let c := s.ctx k
  let st := Reg.LOOP_STATUS k
  let runs := s.bit (Reg.LOOP_CTL k) 31 = true ∧ s.fld st 31 29 = 1
  (runs → s.bit (Reg.LOOP_START k) 31 = true → s.startCame k = true → c.stage = .idle → c.queued = [] →
    Does (.loopStartEvent k) s fun t => (t.ctx k).queued = [(lowWord s.devTimer, s.now)]) ∧
  (∀ x, ready s k x → mayIssue s k x → s.issueFault k = 0 →
    Does (.loopIssue k) s fun t => t.reg (Reg.LOOP_UPDATES k) = s.reg (Reg.LOOP_UPDATES k) + 1) ∧
  (c.stage = .waiting → c.predicted = true → c.pend = none →
    Does (.predictedRunDone k) s fun t => t.bit st 28 = true ∧ (t.ctx k).pend ≠ none) ∧
  (∀ us ds, c.stage = .waiting → s.awaitedInputs k ≠ [] → s.arrived k = true →
    (∀ i ∈ s.awaitedInputs k, s.inFault k i = 0) → c.predicted = true → c.pend = some (us, ds) → us.length ≤ 4 →
    (∀ d ∈ ds, d.1 / 4 < 96) → s.loopType k ≠ 4 → s.loopPredictor k ≠ 0 →
    Does (.sampleConfirm k) s fun t => (t.ctx k).pend = none ∧ t.bit st 28 = false) ∧
  (c.stage = .lane → s.obsMode k = 0 → Does (.recomputeDone k) s fun t => (t.ctx k).stage = .idle ∧ t.bit st 0 = true) ∧
  (c.stage = .settling → s.obsMode k = 0 → Does (.settleDone k) s fun t => (t.ctx k).stage = .idle ∧ t.bit st 0 = true) ∧
  (c.stage = .waiting → s.fld (Reg.LOOP_GUARD k) 23 0 ≠ 0 → Does (.sampleTimeout k) s fun t => t.bit st 4 = true) ∧
  (fieldOf v 1 0 = 1 → Does (.loopBank k v) s fun t => (t.ctx k).bankWanted = some true) ∧
  (fieldOf target 8 0 = k.val → fieldOf data 1 0 = 1 →
    Does (.coefswap target data) s fun t => (t.ctx k).bankWanted = some true) ∧
  (bitAt v 31 = false → s.aborting 0 k = false → Does (.loopEnable k v) s fun t =>
    t.reg (Reg.LOOP_CTL k) = v &&& 0xFFEFFC00 ∧ (t.ctx k).stage = .idle) ∧
  (runs → Does (.stateRebuild k) s fun t => ∀ w < 36, t.reg (Reg.LOOP_STATE k w) = 0)

/-- Commands of the PWM carriers, edges, trip zones and arming complete in a powered sector (R160 to R165, R167, R169 to R172,
R174, R175, R177, R183, R185). -/
def pwmCompletes : Prop := ∀ (g : Fin 24) (p : Fin 96) (x : PwmSide) (z : Fin 48) (m : Fin 12) (b : Bool) (h : Fin 24)
    (v target data : Word) (s : State), (∀ k < 6, s.sectorOn k = true) →
  let st := Reg.PWM_GRP_STATUS g
  (carrierServes s g → s.carrierMode g < 2 → s.fld (Reg.PWM_SYNC g) 31 30 ≠ 3 →
    Does (.carrierPeriod g .period) s fun t => t.bit st 1 = true) ∧
  (edgesFlow s p → ((s.pair p).side x).opening = .owed → s.activeCompare p x ≠ 0 → s.indep p = true →
    Does (.pwmEdge p x .opening) s fun t => ((t.pair p).side x).level = true) ∧
  (carrierServes s g → s.fld (Reg.PWM_SYNC g) 31 30 = 2 → s.fld (Reg.PWM_SYNC g) 9 0 = h.val →
    s.pulsed (periodPulse h) 2 = true → s.fld (Reg.PWM_SYNC_PHASE g) 23 0 < s.per32 g →
    Does (.syncRestart ⟨g, .group h⟩) s fun t => t.bit st 1 = true ∧ t.reg (Reg.PWM_POS g) = toWord (s.fld (Reg.PWM_SYNC_PHASE g) 23 0)) ∧
  (carrierServes s g → (s.group g).valleyOpen = true →
    (s.comparator (12 * (g.val / 4) + fieldOf (s.grpCtl g) 19 16)).out = true →
    Does (.valleyDetect g) s fun t => t.bit st 1 = true ∧ (t.group g).valleyOpen = false) ∧
  (carrierServes s g → (s.group g).valleyOpen = true →
    Does (.valleyWindowEnd g) s fun t => t.bit st 1 = true ∧ (t.group g).valleyOpen = false) ∧
  Does (.pwmCmpa p x v) s (fun t => t.reg (cmpReg p x) = v &&& 0xFFFFFF) ∧
  (fieldOf target 6 0 < 96 → s.groupMisused (fieldOf target 6 0 / 4) = false → fieldOf data 30 5 = 2 ^ 25 →
    Does (.dutystep target data) s fun t =>
      t.reg (Reg.PWM_DTAB_IDX (fieldOf target 6 0 / 4) (fieldOf target 6 0 % 4)) = toWord (fieldOf data 3 0)) ∧
  (s.zoneInput z = true → Does (.zoneAssert z) s fun t => t.bit (Reg.TZ_STATUS z) 31 = true) ∧
  ((s.pair p).tripped = true → s.groupHeld (p.val / 4) = false → (s.pair p).outMode = 0 →
    (s.group (p.val / 4)).burstOff = false → quietZones s (p.val / 16) →
    Does (.zoneRelease p) s fun t => (t.pair p).tripped = false) ∧
  (s.inputLive (66 + m.val) 2 = true → Does (.tripInPin ⟨m, none⟩ b) s fun t => t.tripPins.getLsbD m = b) ∧
  (bitAt v 0 = true → s.bit (Reg.TZ_CTL z) 31 = true → Does (.tzForce z v) s fun t => t.bit (Reg.TZ_STATUS z) 0 = true) ∧
  (bitAt v 30 = true → s.zoneInput z = false → bitAt (s.setNow (Reg.TZ_STATUS z)) 30 = false →
    Does (.latchedClear z v) s fun t => t.bit (Reg.TZ_STATUS z) 30 = false) ∧
  Does (.tripAllN b) s (fun t => t.tripAll = b) ∧
  Does .gtripAssert s (fun t => t.bit Reg.PWM_GTRIP 31 = true) ∧
  (s.tripAll = false → Does .gtripClear s fun t => t.reg Reg.PWM_GTRIP = 0) ∧
  (bitAt v 0 = true → Does (.pwmArmReq g v) s fun t => (t.group g).armRequest = true ∧ t.bit (Reg.TS_IRQ_PEND 0) 18 = true) ∧
  (s.sensorAlarm = false → s.pwmState g = 0 → s.bit (Reg.PWM_GRP_CTL g) 31 = true → s.fld (Reg.PWM_TZ_MASK g) 7 0 = 0 →
    s.fld (Reg.PWM_DT_MIN g) 16 0 = 0 → Does (.arm g) s fun t => t.fld st 31 30 = 1) ∧
  Does (.safeLock g) s (fun t => (t.group g).safeLock = true) ∧
  (s.pwmState g ≠ 3 → s.aborting 1 g = false → Does (.disarm g v) s fun t => t.fld st 31 30 = 0)

/-- Commands of the placement unit complete (R186, R187, R192, R193, R199, R200, R203). -/
def placementCompletes : Prop := ∀ (q r : Requester) (o : PlOp) (rest : List PlOp) (a : Admitted) (m : PlMove) (v : Word)
    (s : State), s.fclkOn →
  let d := s.stagedDecl q
  let free := ∀ x ∈ s.place.ops, x.req ≠ reqIdx q
  let queued (t : State) (op : Nat) : Prop := bitAt (t.answered q) 31 = false ∧ t.bit (plStatusReg q) 31 = true ∧
    ∃ x, t.place.ops = s.place.ops ++ [x] ∧ x.req = reqIdx q ∧ x.op = op
  let ends (t : State) : Prop := t.place.ops = rest ∧ t.bit (plStatusReg r) 0 = true
  (d.fieldsOk = true → s.namesAbsent d = false →
    (∀ x ∈ s.place.admitted, x.kind ≠ d.kind ∨ x.key ≠ d.key) → (∀ x ∈ s.place.pending, x.kind ≠ d.kind ∨ x.key ≠ d.key) →
    s.place.pending.length < 256 → Does (.plSubmit q) s fun t => t.place.pending = s.place.pending ++ [d]) ∧
  (free → s.pendingOf (reqIdx q) ≠ [] → Does (.plCommit q) s fun t => queued t 1) ∧
  (bitAt v 0 = true → Does (.plDiscard q v) s fun t => ∀ x ∈ t.place.pending, x.req ≠ reqIdx q) ∧
  (free → Does (.plWithdraw q) s (fun t => queued t 2) ∧ Does (.plReplace q) s fun t => queued t 3) ∧
  (plNames s (s.reg (ownKey q Reg.PL_HANDLE)) a → Does (.plQuery q) s fun t =>
    bitAt (t.answered q) 31 = false ∧ t.reg (plResultReg q) = t.answered q) ∧
  (s.place.ops = o :: rest → o.req = reqIdx r →
    (s.place.move = none → o.op = 1 → ∀ u, placeAll o.decls s = .ok u →
      Does .placementDone s fun t => ends t ∧ t.place.admitted = u.place.admitted) ∧
    (s.place.move = none → o.op = 2 → plNames s o.handle a → s.inUse a = false →
      (r = .tailstock ∨ (if r = .portB then 1 else reqIdx r) = a.owner) →
      Does .placementDone s fun t => ends t ∧ a ∉ t.place.admitted) ∧
    (s.place.move = some m → m.old ≠ m.new → m.old < 384 → m.new < 384 →
      (m.quiet = false → s.quietCycle m.old = true → (s.ctx m.old).stage = .idle → (s.ctx m.old).queued = [] →
        Does .quietPoint s fun t => t.place.move = some { m with quiet := true }) ∧
      (m.quiet = false → Does .quietTimeout s fun t => ends t ∧ t.place.move = none ∧ t.bit (plStatusReg r) 1 = true) ∧
      (s.place.admitted.find? (fun x => decide (x.kind = 2 ∧ x.key = m.key)) = some a → m.quiet = true →
        Does .replaceSwitch s fun t => ends t ∧ t.place.move = none ∧
          t.reg (Reg.LOOP_CTL m.new) = s.reg (Reg.LOOP_CTL m.old))))

/-- Commands of the interrupt controllers, the scratch banks, the mailbox's busy pins and the IOMMU's cache, and the kicks
of a DMA channel, complete (R264, R267, R268, R271, R272, R280, R281, R283, R289, R293). -/
def deliveryCompletes : Prop := ∀ (q : Requester) (c : Fin 16) (b : Fin 32) (g : Fin 128) (d : Fin 64) (l n : Nat)
    (v w target : Word) (s : State), s.fclkOn → s.sys.powerGood = true →
  let ctl := Reg.SB_CTL b
  let gives (i : Instr) (ret : Bool) : Prop := Does i s fun t =>
    t.fld ctl 10 8 = fieldOf v 10 8 ∧ t.fld ctl 5 0 = fieldOf v 5 0 ∧ t.bit ctl 31 = ret
  Does (.aicDoorbell v) s (fun t => t.bit (Reg.AIC_SRC (fieldOf v 11 0)) 29 = true) ∧
  Does (.aicPdoorbell v) s (fun t => t.bit (Reg.AIC_PRIV (fieldOf v 19 16) (fieldOf v 5 0)) 29 = true) ∧
  ((s.aicCore c).frozen = some w → fieldOf w 13 12 = 0 → q = .tailstock ∨ q = .core c → Does (.aicClaim q c) s fun t =>
    t.answered q = w ∧ t.bit (Reg.AIC_SRC (fieldOf w 11 0)) 28 = true) ∧
  ((s.aicCore c).stack.head? = some (l, 0, fieldOf v 11 0) → fieldOf v 13 12 = 0 → q = .tailstock ∨ q = .core c →
    Does (.aicEoi q c v) s fun t =>
      (t.aicCore c).stack = (s.aicCore c).stack.tail ∧ t.bit (Reg.AIC_SRC (fieldOf v 11 0)) 28 = false) ∧
  Does (.groupHoldoffEnd g) s (fun t => t.bit (Reg.AIC_GRP_STAT g) 31 = false) ∧
  (n < 64 → s.tsClaimed = none →
    s.bit (Reg.TS_IRQ_EN (n / 32)) (n % 32) = true → s.bit (Reg.TS_IRQ_PEND (n / 32)) (n % 32) = true →
    (∀ k < n, (s.bit (Reg.TS_IRQ_EN (k / 32)) (k % 32) && s.bit (Reg.TS_IRQ_PEND (k / 32)) (k % 32)) = false) →
    Does .tsClaim s fun t => t.answered .tailstock = toWord n ∧ t.tsClaimed = some n) ∧
  (fieldOf v 11 0 ≠ 0xFFF → s.tsClaimed = some (fieldOf v 5 0) → Does (.tsEoi v) s fun t => t.tsClaimed = none) ∧
  (32 ≤ fieldOf v 5 0 → Does (.tsDoorbell v) s fun t => t.bit (Reg.TS_IRQ_PEND 1) (fieldOf v 5 0 - 32) = true) ∧
  (b.val < 31 → fieldOf v 10 8 < 6 → servesBank s q b →
    gives (.sbCtl q b v) (bitAt v 31) ∧ gives (.bankRetention q b v) true ∧ gives (.bankWake q b v) false) ∧
  (b.val < 31 → Does (.ownerChangeEffect b) s fun t => t.bankOwner b = (s.fld ctl 10 8, s.fld ctl 5 0)) ∧
  (s.bit ctl 31 = false → Does (.bankAwake b) s fun t => t.bit ctl 30 = true) ∧
  Does (.busyPinRelease .a) s (fun t => t.busyPins = s.busyPins &&& 2) ∧
  Does (.busyPinRelease .b) s (fun t => t.busyPins = s.busyPins &&& 1) ∧
  (fieldOf v 30 29 ≠ 3 → Does (.iommuInv v) s fun t => t.bit Reg.IOMMU_INV 31 = true) ∧
  (s.bit Reg.IOMMU_INV 31 = true → s.fld Reg.IOMMU_INV 30 29 = 0 → Does .iommuInvDone s fun t =>
    t.reg Reg.IOMMU_INV = 0 ∧ t.iotlb = []) ∧
  (s.bit (Reg.DMA_CH_CTL d) 31 = true → s.fld (Reg.DMA_CH_STATUS d) 31 29 = 0 →
    (bitAt v 0 = true → Does (.dmaChKick d v) s fun t => t.fld (Reg.DMA_CH_STATUS d) 31 29 = 1) ∧
    (fieldOf target 5 0 = d.val → Does (.dmakick target 1) s fun t => t.fld (Reg.DMA_CH_STATUS d) 31 29 = 1))

/-- Commands of DRAM and of the DMA channels complete (R285, R286, R290 to R297, R381). -/
def memoryCompletes : Prop := ∀ (c : Fin 64) (p : Port) (tag : Fin 64) (bs : List Byte) (o : Outbound) (code : BitVec 3)
    (size : Fin 129) (a : BitVec 40) (v : Word) (s : State), s.fclkOn → s.sys.powerGood = true →
  let st := Reg.DMA_CH_STATUS c
  let x := s.dmaCh c
  let w (i : Nat) : Word := x.desc.getD i 0
  let len := if fieldOf (w 0) 23 0 = 0 then 2 ^ 24 else fieldOf (w 0) 23 0
  let src := (w 3).toNat * 2 ^ 32 + (w 2).toNat + x.moved
  let dst := (w 5).toNat * 2 ^ 32 + (w 4).toNat + x.moved
  let engine := s.bit Reg.DMA_ENG_CTL 31 = true ∧ s.bit Reg.DMA_ENG_STATUS 31 = false
  (s.bit Reg.MC_STATUS 31 = false → s.sys.ddr = true →
    Does (.dramTrainStep (.trained size)) s fun t => t.bit Reg.MC_STATUS 31 = true ∧ t.reg Reg.MC_SIZE = toWord size) ∧
  (s.dramTrained = true → Does (.dramTempRead (some code)) s fun t => t.dramTemp = code.toNat) ∧
  (s.dramTrained = true → s.bit Reg.MC_CTL 30 = true → (s.reg Reg.MC_SR_EXIT).toNat ≤ s.latTol →
    Does .selfRefreshEntry s fun t => t.bit Reg.MC_STATUS 30 = true) ∧
  (s.bit Reg.MC_STATUS 30 = true → Does .selfRefreshExit s fun t => t.bit Reg.MC_STATUS 30 = false) ∧
  (x.fetching = true → s.fld st 31 29 = 1 → engine → plainLocal s c (descriptorAt s c) 32 →
    bitAt (s.word (descriptorAt s c)) 31 = false → Does (.descriptorFetchDone c) s fun t => t.fld st 31 29 = 0 ∧ t.bit st 7 = true) ∧
  (engine → s.dmaWinner = some c.val → fieldOf (w 1) 31 26 = 0 → bitAt (w 1) 20 = false → x.buf = [] →
    plainLocal s c src 256 → plainLocal s c dst 256 → mayWrite s dst 256 →
    Does .dmaBurst s fun t => x.moved < (t.dmaCh c).moved ∧ t.dmaLast = c) ∧
  (bitAt (w 1) 20 = true → fieldOf (w 1) 31 30 = 3 → fieldOf (s.reg (Reg.DMA_CH_PACE c)) 14 8 ≤
    s.paceFill (fieldOf (s.reg (Reg.DMA_CH_PACE c)) 29 24) → Does (.paceRequest c) s fun t => (t.dmaCh c).request = true) ∧
  (engine → s.bit (Reg.DMA_CH_CTL c) 31 = true → s.fld st 31 29 = 1 → x.fetching = false → x.desc ≠ [] → x.moved = len →
    bitAt (w 0) 27 = true → Does (.descriptorComplete c) s fun t => (t.dmaCh c).desc = [] ∧ (bitAt (w 0) 29 = true → t.bit st 2 = true)) ∧
  (s.aborting 8 c = false → s.fld st 31 29 = 4 → x.fetching = true →
    Does (.dmaResume c v) s fun t => t.fld st 31 29 = 1 ∧ t.fld st 28 26 = 0) ∧
  Does (.transactionTimeout a) s (fun t => t.bit Reg.DMA_ENG_STATUS 31 = true ∧ t.bit (Reg.TS_IRQ_PEND 0) 28 = true) ∧
  Does (.dmaRestart v) s (fun t => t.bit Reg.DMA_ENG_STATUS 31 = false) ∧
  (s.outbound.find? (fun y => decide (y.port = portIdx p ∧ y.tag = tag.val)) = some o → o.chan = some c.val →
    s.fld st 31 29 ≠ 6 →
    (bs.length = o.len → Does (.outboundCompletion p tag (.data bs)) s fun t => (t.dmaCh c).buf = x.buf ++ bs) ∧
    Does (.completionTimeout p tag) s fun t => t.fld st 31 29 = 4 ∧ t.fld st 28 26 = 3)

/-- Commands of the console engine complete (R303, R304, R307 to R309, R313, R315 to R320). -/
def consoleCompletes : Prop := ∀ (k : Fin 512) (r : Fin 64) (l : BitVec 16) (p : Fin 16) (q : Requester) (v d target : Word)
    (j : ConJob) (x : ConLine) (h : Word) (rest ws : List Word) (s : State), s.mediaOn →
  let con := s.con k
  let runs := s.fld (Reg.CON_STATUS k) 31 30 = 2
  let st := s.stream p
  let listed (cmd : Nat) : Prop := d &&& ~~~rasterBits cmd = 0 ∧ (cmd = 5 → fieldOf d 31 29 < 4)
  (s.aborting 4 k = false → s.fld (Reg.CON_STATUS k) 31 30 = 2 → s.fld (Reg.CON_CTL k) 31 31 = 1 → bitAt v 31 = false →
    Does (.conCtl k v) s fun t => t.fld (Reg.CON_STATUS k) 31 30 = 0) ∧
  (runs → l.toNat < s.fld (Reg.CON_TOTAL k) 31 16 → l ≠ 0 → l.toNat < s.fld (Reg.CON_SIZE k) 26 16 →
    s.bit Reg.CON_GLB_CTL 31 = true → con.render = true →
    Does (.lineLatch k l) s fun t => ∃ i, t.conJobs = s.conJobs ++ [i] ∧ i.ctx = k.val ∧ i.line = l.toNat) ∧
  (s.bit Reg.CON_GLB_CTL 31 = true → s.conJobs = [j] → (∀ i < 16, s.pipe i = none) →
    Does .renderJobStart s fun t => t.conJobs = [] ∧ ∃ i < 16, t.pipe i = some j) ∧
  (jobReady s p j → s.now ≤ j.deadline → (∀ i < 4, bitAt (j.regs.getD (4 * i) 0) 31 = false) →
    bitAt (j.regs.getD 17 0) 31 = false → s.bit (Reg.CON_CTL j.ctx) 27 = false → Does (.renderJobDone p) s fun t => t.pipe p = none) ∧
  (s.bit (Reg.CON_SQ_CTL p) 31 = true → st.entering = some x → st.record = none → x.records = [h :: rest] →
    st.words.length + rest.length < 128 → Does (.lineEnterQueue p) s fun t =>
      (t.stream p).words.length = st.words.length + rest.length + 1 ∧ (t.stream p).entering = st.backlog.head?) ∧
  (s.bit Reg.CON_GLB_CTL 31 = true → con.fetching = true → plainLocal s 64 (s.reg (Reg.CON_INLAY_BASE k)).toNat 2048 →
    Does (.inlayTableArrived k) s fun t => (t.con k).fetching = false ∧ (t.con k).next ≠ none) ∧
  (bitAt v 0 = true → s.fld (Reg.CON_STATUS k) 31 30 ≠ 3 → Does (.conKick k v) s fun t => (t.con k).request = true) ∧
  (boundOnly s r k →
    (listed 1 → Does (.scroll r d) s fun t => rasterResult s t k 1 d) ∧
    (listed 2 → Does (.scrollAdd r d) s fun t => rasterResult s t k 2 d) ∧
    (listed 3 → Does (.layerEn r d) s fun t => rasterResult s t k 3 d) ∧
    (listed 4 → Does (.window r d) s fun t => rasterResult s t k 4 d) ∧
    (listed 5 → Does (.palette r d) s fun t => rasterResult s t k 5 d) ∧
    (listed 6 → Does (.backdrop r d) s fun t => rasterResult s t k 6 d) ∧
    (listed 7 → Does (.render r d) s fun t => rasterResult s t k 7 d) ∧
    (fieldOf target 15 8 = 6 → fieldOf target 5 0 = r.val → listed 6 → Does (.raster target d) s fun t => rasterResult s t k 6 d)) ∧
  (st.words = h :: ws → Does (.conSqData q p) s fun t => t.answered q = h ∧ (t.stream p).words = ws) ∧
  Does (.streamFlush p v) s (fun t => t.stream p = {} ∧ t.reg (Reg.CON_SQ_FILL p) = 0)

/-- Commands of the display heads and of their links complete (R330, R338 to R346). -/
def displayCompletes : Prop := ∀ (h : Fin 2) (l : Fin 8) (y x n : BitVec 13) (addr v w : Word) (line : BitVec 12) (psr su : Bool)
    (g : BitVec 8) (s : State), s.composerOn = true →
  let ctl := Reg.HD_CTL h
  let dp := Reg.DP_STATUS h
  let st := s.fld (Reg.HD_STATUS h) 31 30
  let b := tabGet {} l.val (s.head h).bufs
  let shows := st = 1 ∧ bitAt (s.act (Reg.LY_CTL h l)) 31 = true
  (s.bit ctl 31 = false → dpListed (s.reg (Reg.DP_CTL h)) = true → linkCarries s h →
    Does (.headEnable h v) s fun t => t.bit ctl 31 = true ∧ (t.head h).locking = true) ∧
  (s.bit ctl 31 = true → Does (.headDisable h v) s fun t => t.bit ctl 31 = false ∧ t.fld (Reg.HD_STATUS h) 31 30 = 0) ∧
  ((s.head h).locking = true → Does (.videoPllLock h) s fun t => t.fld (Reg.HD_STATUS h) 31 30 = 1 ∧ (t.spn (136 + h)).rasterRuns = true) ∧
  (bitAt v 0 = true → Does (.hdCommit h v) s fun t => t.bit (Reg.HD_COMMIT h) 31 = true) ∧
  (st ≠ 0 → s.bit (Reg.HD_COMMIT h) 31 = true →
    Does (.commitLatch h) s fun t => t.bit (Reg.HD_COMMIT h) 31 = false ∧ ∀ a ∈ frameRegs h, t.act a = s.reg a) ∧
  (shows → shareFill s h l = 0 → 0 < b.share → Does (.layerRefill h l) s fun t => shareFill t h l = b.share) ∧
  (shows → Does (.underrun h l y x) s fun t => t.bit (Reg.HD_STATUS h) 5 = true ∧
    (t.reg (Reg.HD_UNDERRUN h)).toNat = min 0xFFFFFFFF ((s.reg (Reg.HD_UNDERRUN h)).toNat + 1)) ∧
  (shows → Does (.layerFetchFault h l y x n addr) s fun t => t.bit (Reg.HD_STATUS h) 6 = true ∧ (t.head h).fills ≠ []) ∧
  (st ≠ 0 → bitAt (s.act ctl) 30 = true → line.toNat < fieldOf (s.act (Reg.HD_VTIME h)) 11 0 → s.headBad h = false →
    (∀ m < 8, bitAt (s.act (Reg.LY_CTL h m)) 31 = false) →
    let a := (s.act (Reg.HD_WB_ADDR h)).toNat + line.toNat * (s.act (Reg.HD_WB_PITCH h)).toNat
    let k := fieldOf (s.act (Reg.HD_HTIME h)) 11 0
    plainLocal s (65 + 8 * h) a (4 * k) → mayWrite s a (4 * k) → a % 4 = 0 → bitAt (s.act ctl) 29 = true →
    Does (.writeBackLine h line false) s fun t =>
      ∀ i < k, t.word (a + 4 * i) = (s.act (Reg.HD_BG h) &&& 0x3FFFFFFF) ||| 0xC0000000) ∧
  (st = 3 → Does (.psrExit h) s fun t => t.fld (Reg.HD_STATUS h) 31 30 = 1 ∧ t.bit (Reg.HD_STATUS h) 4 = true) ∧
  (bitAt v 31 = true → bitAt v 0 = true → Does (.linkTrain h v true psr su g) s fun t => t.bit dp 30 = true) ∧
  Does (.hpdPlug h) s (fun t => t.bit dp 31 = true) ∧
  Does (.hpdUnplug h) s (fun t => t.bit dp 31 = false ∧ t.bit dp 1 = true) ∧
  Does (.irqHpd h) s (fun t => t.bit dp 2 = true) ∧
  ((s.head h).aux = none → Does (.dpAuxCmd h v) s fun t => (t.head h).aux = some (v &&& 0xF00FFFFF)) ∧
  ((s.head h).aux = some w →
    Does (.auxReply h .nack) s (fun t => (t.head h).aux = none ∧ t.bit dp 6 = true) ∧
    ((s.head h).auxTries < 3 → Does (.auxTimeout h) s fun t => (t.head h).auxTries = (s.head h).auxTries + 1))

/-- Commands of the 2D mover complete (R352, R353, R356). -/
def moverCompletes : Prop := ∀ (q : Requester) (n : Nat) (w : List Word) (r : List (Nat × List Word)) (v : Word) (s : State),
    s.mediaOn →
  let st := s.fld Reg.MV_STATUS 31 29
  let on := s.bit Reg.MV_CTL 31 = true
  let set := v ||| 0x80000000
  (st ≠ 4 → s.mover.queue.length < 16 → s.mover.nextNumber < 65536 → Does (.mvSubmit q) s fun t =>
    t.answered q = toWord s.mover.nextNumber ∧ t.mover.queue.length = s.mover.queue.length + 1) ∧
  (on → st = 0 → n < 65536 → s.mover.queue = (n, w) :: r →
    (fieldOf (w.getD 0 0) 31 28 = 0 → Does .copy s fun t => t.mover.job = some (n, w)) ∧
    (fieldOf (w.getD 0 0) 31 28 = 1 → Does .fill s fun t => t.mover.job = some (n, w)) ∧
    (fieldOf (w.getD 0 0) 31 28 = 2 → Does .blend s fun t => t.mover.job = some (n, w)) ∧
    (fieldOf (w.getD 0 0) 31 28 = 3 → Does .keyfill s fun t => t.mover.job = some (n, w))) ∧
  (on → st = 1 → s.mover.job = some (n, w) → (s.reg Reg.MV_ROWS).toNat < high w → soundJob w →
    rowLocal s w (rowOf w (s.reg Reg.MV_ROWS).toNat) →
    mayWrite s (dstPixel w (rowOf w (s.reg Reg.MV_ROWS).toNat) 0) (wide w * pixelBytes w) →
    Does .moverRow s fun t => (t.reg Reg.MV_ROWS).toNat = (s.reg Reg.MV_ROWS).toNat + 1) ∧
  (on → s.aborting 5 0 = false →
    (st = 1 → Does (.moverSuspend (set &&& 0xFFFFFFF0)) s fun t => t.fld Reg.MV_STATUS 31 29 = 2) ∧
    (st = 2 → Does (.moverResume (set &&& 0xFFFFFFF0)) s fun t => t.fld Reg.MV_STATUS 31 29 = 1) ∧
    (st = 3 → Does (.moverRestart (set &&& 0xFFFFFFF0)) s fun t => t.fld Reg.MV_STATUS 31 29 = 0) ∧
    (st < 4 → Does (.moverFlush (set &&& 0xFFFFFFF0)) s fun t => t.mover.queue = [] ∧ t.mover.job = none))

/-- Commands of the audio block complete (R360 to R366, R368 to R373). -/
def audioCompletes : Prop := ∀ (d : Fin 2) (pdm : List (BitVec 24)) (tdm : List Word) (u : Fin 32) (g : Fin 4) (m : Fin 16)
    (n : Fin 128) (k : Fin 8) (q : Requester) (v w : Word) (r : List Word) (s : State), s.mediaOn → audioRuns s →
  let car := s.bit Reg.AUD_CAR_CTL 31 = true
  let slave := s.bit (Reg.TDM_CTL g) 31 = true ∧ s.bit (Reg.TDM_CTL g) 30 = false
  let g0 := s.reg (ownKey q Reg.AUD_RT_STG0)
  Does (.domainSample d pdm tdm) s (fun t => t.reg (Reg.AUD_SAMPLES d) = s.reg (Reg.AUD_SAMPLES d) + 1) ∧
  (car → Does .carrierSample s fun t => t.audio.lastEvent = some s.now) ∧
  (car → Does .carrierLost s fun t => t.audio.carLost = true ∧ t.bit Reg.AUD_STATUS 9 = true) ∧
  (16 ≤ s.audio.good → Does .carrierRecover s fun t => t.audio.carLost = false) ∧
  Does (.keyOn u v) s (fun t => (t.voice u).stage = 1) ∧
  (bitAt v 31 = false → (s.voice u).stage = 3 → Does (.keyOff u v) s fun t => (t.voice u).stage = 4) ∧
  (s.bit Reg.AUD_CTL g = true → Does (.pdmClkLost g) s fun t => t.audio.pdmLost.getLsbD g = true ∧ t.bit Reg.AUD_STATUS 7 = true) ∧
  (s.audio.pdmLost.getLsbD g = true → Does (.pdmClkReturn g) s fun t => t.audio.pdmLost.getLsbD g = false) ∧
  Does (.pdmStuck m) s (fun t => t.bit Reg.AUD_PDM_STAT (16 + m) = true) ∧
  (slave → Does (.tdmSyncLost g) s (fun t => t.audio.tdmLost.getLsbD g = true) ∧
    (s.audio.tdmLost.getLsbD g = true → Does (.tdmResume g) s fun t => t.audio.tdmLost.getLsbD g = false) ∧
    Does (.tdmSlip g) s fun t => t.bit (Reg.TDM_STATUS g) 2 = true) ∧
  ((s.route (fieldOf g0 6 0)).parted = false → (s.route (fieldOf g0 6 0)).inst ≠ none → bitAt g0 31 = false →
    Does (.audRtApply q) s fun t => t.answered q = 0 ∧ (t.route (fieldOf g0 6 0)).releasing = true) ∧
  (∀ i, (s.route n).inst = some i → (s.route n).releasing = true → i.len ≤ i.done →
    Does (.rampDone n) s fun t => (t.route n).inst = none) ∧
  (tabGet [] k.val s.audio.queues = w :: r → Does (.audCqData q k) s fun t => t.answered q = w ∧ tabGet [] k.val t.audio.queues = r) ∧
  Does (.peakMeterRead q false m) s (fun t => t.answered q = s.reg (Reg.AUD_BUS_PEAK m) ∧
    t.reg (Reg.AUD_BUS_PEAK m) = toWord (s.bus m).sum.natAbs)

/-- Commands of the host ports, the chucks and the abort engines complete (R378 to R385, R387, R397, R400, R401). -/
def hostCompletes : Prop := ∀ (port : Port) (wd : Fin 3) (rate : Fin 5) (range : BitVec 4) (off : BitVec 28) (box : BitVec 16)
    (n : Fin 256) (q : Requester) (e : Fin 3) (ring : Bool) (num : BitVec 16) (c : Fin 16) (v : Word) (s : State),
    s.sys.powerGood = true →
  let p := portIdx port
  let link := Reg.HP_LINK p
  let chk := Reg.CHK_OWNER n
  let silent := min 0xFFFF ((s.now - (s.host p).lastAt) / 1500000)
  let parts (k : Nat) (i : Instr) : Prop := functionExists s k num.toNat → ¬ nothingParts s k num.toNat →
    Does i s fun t => (t.abortEngine e).busy = true ∧ functionParted t k num.toNat
  Does (.perst port) s (fun t => t.reg link = 0) ∧
  (s.bit link 31 = true → Does (.functionLevelReset port) s fun t => t.bit link 31 = true ∧ t.bit link 30 = false) ∧
  (s.sys.vdda = true → Does (.linkUp port wd rate) s fun t => t.bit link 31 = true) ∧
  (linked s p → off.toNat / 4 * 4 < 0x1400000 → Does (.bar0Request port off .partialRead) s fun t =>
    ∃ x, (t.host p).reply = some (0, [x])) ∧
  (linked s p → Does (.registerTimeout port) s fun t => (t.host p).reply = some (4, [])) ∧
  (linked s p → box.toNat / 4 * 4 < 0xF000 → mailPlain s → Does (.bar2Access port box .read none) s fun t =>
    (t.host p).reply = some (0, [s.word (mailByte (box.toNat / 4 * 4))])) ∧
  (s.bit link 31 = true → Does (.configurationRequest port (.completionTimeout range)) s fun t => (t.host p).timeout = range.toNat) ∧
  (fieldOf v 4 0 ≠ 0 → s.bit link 29 = true → (s.host p).fmask = true →
    Does (.hpHostDb port v) s fun t => (t.host p).pba.getLsbD (fieldOf v 4 0) = true) ∧
  (∀ k, ownerCode q = some k → s.fld chk 5 0 = 0 → Does (.chkAcquire n [q]) s fun t => t.fld chk 5 0 = k) ∧
  (bitAt v 0 = true → s.fld chk 5 0 ≠ 0 → ownerCode q = some (s.fld chk 5 0) → Does (.chkRelease q n v) s fun t => t.reg chk = 0) ∧
  (s.fld Reg.CHK_LEASE 15 0 ≠ 0 → s.fld Reg.CHK_LEASE 15 0 ≤ silent → s.fld chk 5 0 = 1 + p →
    Does (.chkLeaseExpiry port) s fun t => t.reg chk = 0) ∧
  ((s.abortEngine e).busy = false → s.place.move = none →
    parts 0 (.abortLoopContext e ring num) ∧ parts 1 (.abortPwmGroup e ring num) ∧ parts 2 (.abortSpindle e ring num) ∧
    parts 3 (.abortPlatePartition e ring num) ∧ parts 4 (.abortConsoleContext e ring num) ∧ parts 5 (.abort2dMover e ring num) ∧
    parts 6 (.abortAudioRoute e ring num) ∧ parts 7 (.abortAudioOutput e ring num) ∧ parts 8 (.abortDmaChannel e ring num)) ∧
  ((s.abortEngine e).busy = true → Does (.abortDone e) s fun t => (t.abortEngine e).busy = false ∧ (t.abortEngine e).done = true) ∧
  Does (.hpTsMsg port v) s (fun t => t.dict.messages = s.dict.messages ++ [(p, v)]) ∧
  Does (.tsReplyWrite port v) s (fun t => t.reg (Reg.HP_TS_REPLY p) = v) ∧
  Does (.tsmMsg c v) s (fun t => t.dict.messages = s.dict.messages ++ [(5 + c.val, v)]) ∧
  Does (.tsmReply c v) s (fun t => t.reg (Reg.TSM_REPLY c) = v) ∧
  (s.bit (Reg.TSM_DICT_STATUS c) 31 = false → Does (.tsmDictCmd c v) s fun t => t.bit (Reg.TSM_DICT_STATUS c) 31 = true)

/-- Commands of the dictionary and of its objects complete (R175, R390 to R393, R415, R418, R419, R421 to R423, R462). -/
def dictionaryCompletes : Prop := ∀ (who : Fin 21) (r : DictReq) (a : DictReply) (rest : List DictReq)
    (more : List (DictReq × DictReply)) (index : BitVec 16) (sub : BitVec 8) (x : Transfer) (g : Fin 24) (core : Bool)
    (off : BitVec 26) (d : List Byte) (b : Byte) (nonce : BitVec 512) (qo ql : BitVec 12) (resp : BitVec 1056) (s : State),
    s.sys.powerGood = true →
  let may := served s who ∧ who.val < 3 ∧ s.dict.transfers = []
  let code (t : State) : Nat := (tabGet {} who.val t.dict.replies).code
  let slot := inactiveSlot s b.toNat
  let named := s.bootRec.tsSlot < 2 ∧ s.bootRec.coreSlot < 2 ∧ (b = 1 ∨ b = 2)
  (nextRequest s 1 r rest → s.bankAwake 31 = true → mayWrite s (bank31 + r.buf) r.len → fieldOf r.cmd 23 8 = 0x1018 →
    fieldOf r.cmd 7 0 = 3 → Does .dictRead s fun t => answeredWith s t r rest (sliced (leBytes 4 0xA1) r.off r.len)) ∧
  (nextRequest s 2 r rest → s.poison = [] → fieldOf r.cmd 23 8 = 0x1017 → fieldOf r.cmd 7 0 = 0 → r.off = 0 → r.len = 2 →
    s.dict.transfers = [] → Does .dictWrite s fun t => answeredWith s t r rest (wrote 2) ∧
      t.objOwn 0x1017 0 (leBytes 2 1000) = s.bytes (bank31 + r.buf) r.len) ∧
  (nextRequest s 3 r rest → s.bankAwake 31 = true → mayWrite s (bank31 + r.buf) (min r.len 16) → fieldOf r.cmd 23 8 = 0x1018 →
    fieldOf r.cmd 7 0 = 3 → Does .dictDescribe s fun t => t.dict.queue = rest ∧ t.dict.answered ≠ s.dict.answered) ∧
  (s.dict.answered = (r, a) :: more → r.spoiled = false → r.who < 2 → Does .dictDone s fun t =>
    t.dict.answered = more ∧ t.bit (Reg.HP_DICT_STATUS r.who) 30 = true) ∧
  (s.transferOf index.toNat sub.toNat = some x → Does (.transferAbandon index sub) s fun t => untouchedObject t index.toNat sub.toNat) ∧
  (may → s.sec.norAbsent = false → Does (.storeSave who 0x65766173) s fun t => code t = 0) ∧
  (may → Does (.restoreLoad who 0x64616F6C) s (fun t => t.dict.loadMarked = true) ∧
    (Does (.resetRequest who 0x746F6F62) s fun t => t.sys.resetWaiting = max 2 s.sys.resetWaiting) ∧
    (g.val < 4 * sectorCount s.sys.variant → Does (.armRequestObject who g 1) s fun t => (t.group g).armRequest = true) ∧
    (Does (.attestationNonce who nonce) s fun t => tabGet [] (classOf who) t.sec.nonces = leBytes 64 nonce.toNat) ∧
    (Does (.debugResponse who resp) s fun t => t.sec.challenge = none) ∧
    Does (.debugLock who 1) s (fun t => t.sec.unlock = 0) ∧ Does (.debugLevel who 2) s fun t => t.sec.wanted = 2) ∧
  (may → named → s.sec.norAbsent = false → s.bootRec.trial = 0 → off.toNat + d.length ≤ 459264 →
    Does (.imageWrite who core off d false) s fun t => code t = 0 ∧
      (tabGet {} who.val t.dict.replies).moved = d.length) ∧
  (may → named → Does (.imageVerify who b) s fun t => tabGet none slot t.sec.verified = some (s.imageCheck slot)) ∧
  (may → named → tabGet none slot s.sec.verified = some 0 → Does (.imageActivate who b) s fun t => t.bootRec.trial = b.toNat) ∧
  (may → named → b = 1 → s.bootRec.trial = 1 → s.bootRec.attempts ≠ 0 → s.sec.tsImage ≠ none → s.sec.runSlot = slot →
    s.hdr slot 8 4 ≤ 128 → Does (.imageConfirm who b) s fun t => t.bootRec.trial = 0 ∧ t.bootRec.tsSlot = slot) ∧
  (served s who → s.lifecycle ≠ 3 → s.sec.trngBad = false → qo ≠ 0 → Does (.quote who qo ql) s fun t =>
    tabGet {} who.val t.dict.replies = sliced (tabGet [] (classOf who) s.sec.quotes) qo.toNat ql.toNat) ∧
  (served s who → s.sec.trngBad = false → Does (.debugChallenge who) s fun t => ∃ c, t.sec.challenge = some c ∧ c.length = 64)

/-- Commands of the field network complete (R394 to R396, R398). -/
def fieldCompletes : Prop := ∀ (node : BitVec 8) (w last event : Bool) (index : BitVec 16) (sub : BitVec 8) (v src dst : Word)
    (port : BitVec 16) (len : BitVec 16) (n c : Fin 4) (k : Fin 16) (m : Fin 2) (id : BitVec 29) (d : List Byte) (s : State),
  let st := Reg.CAN_STATUS c
  let eth := Reg.ETH_STATUS m
  let mac := s.fclkOn ∧ s.bit (Reg.ETH_CTL m) 31 = true
  (nodeLives s → node = 0 ∨ node.toNat = s.canNode.nodeId →
    Does (.nmtStart node) s (fun t => t.canNode.nmt = 1) ∧ Does (.nmtStop node) s (fun t => t.canNode.nmt = 2) ∧
    Does (.nmtPreOperational node) s (fun t => t.canNode.nmt = 0) ∧
    Does (.nmtResetNode node) s (fun t => t.canNode.nmt = 0 ∧ t.dict.vals = s.dict.stored) ∧
    Does (.nmtResetCommunication node) s fun t => t.canNode.nmt = 0 ∧ t.canNode.sent = (4, [0]) :: s.canNode.sent) ∧
  (nodeLives s → s.canNode.nmt = 1 →
    (ofLeBytes (s.objOwn 0x1017 0 (leBytes 2 1000)) ≠ 0 → Does .heartbeat s fun t => t.canNode.sent = (0, [5]) :: s.canNode.sent) ∧
    (tabGet 0 n.val s.canNode.tpdoAt = 0 → Does (.tpdo n) s fun t => t.canNode.sent.length = s.canNode.sent.length + 1) ∧
    (s.dict.transfers = [] → s.dict.queue = [] → Does (.usdoRequest w index sub v len d last) s fun t => t.dict.queue.length = 1)) ∧
  (canHears s c → filterTakes s c event id → d.length ≤ 8 → (s.can c).fifo.length < 64 →
    Does (.canFrameReceive c none event id d) s fun t => (t.can c).fifo.length = (s.can c).fifo.length + 1 ∧ t.bit st 0 = true) ∧
  (canHears s c → Does (.canTxDone c k) s (fun t => t.bit st 1 = true) ∧
    Does (.busStuck c) s (fun t => (t.can c).stuck = true ∧ t.bit st 5 = true) ∧
    Does (.busOff c) s fun t => t.fld st 31 30 = 2 ∧ t.bit st 4 = true) ∧
  (s.sys.powerGood = true → Does (.busRecessiveReturn c) s fun t => (t.can c).stuck = false) ∧
  (s.sys.powerGood = true → s.bit (Reg.CAN_CTL c) 31 = true → s.bit (Reg.CAN_CTL c) 30 = true → s.sys.tclkOnRc = false →
    s.fld st 31 30 = 2 → Does (.busOffRecover c) s fun t => t.fld st 31 30 = 0) ∧
  (mac → s.bit eth 31 = true → 64 ≤ d.length → d.length ≤ 1522 → macTakes s m ((d.take 6).foldl (fun n b => n * 256 + b.toNat) 0) →
    Does (.ethFrameReceive m d true event) s fun t =>
      (tabGet [] (2 * m.val) t.macQueues).length = (tabGet [] (2 * m.val) s.macQueues).length + (d.length + 3) / 4) ∧
  (mac → s.bit eth 31 = true → Does (.sgmiiSyncLost m) s fun t => t.bit eth 31 = false ∧ t.bit eth 0 = true) ∧
  (mac → s.bit eth 31 = false → Does (.sgmiiSyncGained m) s fun t => t.bit eth 31 = true ∧ t.bit eth 0 = true) ∧
  (macHears s m → s.bit (Reg.ETH_CTL m) 29 = true → s.firmwareOn = true → dst ≠ 0 → src ≠ 0 →
    toWord (ofLeBytes (s.objOwn 0x1FF1 (m.val + 1) (leBytes 4 0))) = dst →
    toWord (ofLeBytes (s.objOwn 0x1FF2 1 (leBytes 4 0))) = src → s.macs = [] → s.dict.queue = [] → d.length = 20 →
    datagramField d 0 2 = 0x101 → Does (.horanoDatagram m src port dst false d) s fun t =>
      t.dict.queue.length = 1 ∧ (t.mac m).count = 1)

/-- Commands of the tailstock complete (R26, R406, R407, R409, R410, R412, R416, R417, R423 to R427, R461). -/
def tailstockCompletes : Prop := ∀ (k : Fin 56) (raw : BitVec 16) (c : Fin 16) (cause : TamperCause) (slot w b : Nat) (v : Word)
    (s : State), s.sys.powerGood = true →
  let r := s.bootRec
  (s.bit (Reg.TSN_CTL k) 31 = true → s.fld (Reg.TSN_CTL k) 30 29 ≠ 3 →
    Does (.sensorSample k raw) s fun t => t.reg (Reg.TSN_VALUE k) = 0x80000000#32 ||| raw.zeroExtend 32) ∧
  ((s.sensor k).seen = true → Does (.sensorInvalid k) s fun t => t.bit (Reg.TSN_VALUE k) 31 = false) ∧
  (s.log.programming = none → s.log.unwritten ≠ 0 → s.sec.norAbsent = false →
    Does .journalWrite s fun t => t.log.programming = some (nextPage s)) ∧
  (s.log.programming = some w → w < s.log.unwritten → s.log.place + w < 1024 →
    Does (.norProgramDone .verified) s fun t => t.log.programming = none ∧ t.log.unwritten = s.log.unwritten - w) ∧
  (bitAt v 31 = true → s.bit Reg.OTP_STATUS 31 = false →
    Does (.otpProg v) s fun t => t.sec.otpTarget = some (s.fld Reg.OTP_ADDR 7 0, fieldOf v 4 0)) ∧
  (s.sec.otpTarget = some (w, b) → Does (.otpProgDone true) s fun t => t.otpWord w = s.otpWord w ||| (1#32 <<< b)) ∧
  (s.sys.phase = .bootRom → s.reg Reg.TS_TAMPER_CAUSE = 0 → s.sec.norAbsent = false → fieldOf (s.otpWord 0) 1 0 ≠ 0 →
    s.sec.tampers = [] → r.trial = 0 → r.version ≤ s.counter → r.tsSlot = 0 → s.imageCheck 0 = 0 → Does .bootRom s fun t =>
      t.sys.phase = .firmware ∧ (t.core 16).pc = toWord (s.hdr 0 0x18 8) ∧ t.log.bootCount = s.log.bootCount + 1) ∧
  Does .challengeExpiry s (fun t => t.sec.challenge = none) ∧
  Does (.tamper cause) s (fun t => t.sec.keys = false ∧ t.sys.phase = .bootRom ∧ t.bit Reg.GCTL_RESET_CAUSE 2 = true) ∧
  Does (.meshCheck true) s (fun t => t = s) ∧
  Does (.meshCheck false) s (fun t => t.sec.keys = false ∧ t.bit Reg.TS_TAMPER_CAUSE 0 = true) ∧
  Does .trngHealthFail s (fun t => t.sec.trngBad = true) ∧ Does .trngRecover s (fun t => t.sec.trngBad = false) ∧
  (s.firmwareOn = true → mayWrite s 0x40F8E000 0x400 → Does .telemetryRefresh s fun t => t.sec.telemetry = s.sec.telemetry + 1) ∧
  (s.firmwareOn = true → s.coreOn c = true → s.dramTrained = true → s.bit Reg.GCTL_CORE_REL c = false → r.trial ≠ 2 →
    slot = 2 + r.coreSlot → r.coreSlot ≤ 1 → s.imageCheck slot = 0 → 0x10000000 ≤ s.hdr slot 0x18 8 → s.hdr slot 0x18 8 ≤ 0x1000FFFF →
    mayWrite s (0x20000000 + c * 0x100000) 65536 →
    Does (.coreRelease c) s fun t => (t.core c).pc = toWord (s.hdr slot 0x18 8) ∧ t.bit Reg.GCTL_CORE_REL c = true)

/-- Commands of the machine-check records, the scrubbers, the check units and the pins complete (R432 to R440, R446 to R450,
R454, R456). -/
def integrityCompletes : Prop := ∀ (q : Requester) (c : Fin 16) (b : BitVec 19) (u : Fin 8) (v lo hi : Word)
    (r : List (Nat × Word × Word)) (n : Fin 160) (bank : Fin 10) (high level : Bool) (levels : BitVec 16) (s : State),
    s.fclkOn → s.sys.powerGood = true →
  let x := s.cv u
  let own := tsBase + 0x10000000 + b.toNat / 8 * 8
  (q = .core c ∨ q = .tailstock → bitAt v 31 = true → Does (.mcrInfo q c v) s fun t => t.reg (Reg.MCR_INFO c) = 0) ∧
  (own ∉ s.poison → Does (.scrubRead (.tsRam b) true) s fun t => own ∈ t.poison ∧ t.checks.length = s.checks.length + 1) ∧
  (s.bit (Reg.CV_CTL u) 31 = true → x.queue.length < 16 →
    Does (.cvQueueWrite u .data32 v) s fun t => (t.cv u).queue = x.queue ++ [(2, v, 0)]) ∧
  (cvSound s u →
    (x.queue = (2, lo, hi) :: r → Does (.cvData u) s fun t => (t.cv u).queue = r ∧ t.reg (Reg.CV_COUNT u) = s.reg (Reg.CV_COUNT u) + 4) ∧
    (x.queue = (3, lo, hi) :: r → bitAt lo 0 = true → Does (.cvInit u) s fun t => (t.cv u).queue = r ∧ t.reg (Reg.CV_COUNT u) = 0) ∧
    (x.queue = (4, lo, hi) :: r → s.fld (Reg.CV_CTL u) 12 8 = 8 → s.bit (Reg.CV_CTL u) 27 = true → x.ref = none →
      Does (.cvAliveIn u) s fun t => (t.cv u).ref = some (fieldOf lo 15 0)) ∧
    (x.queue = (5, lo, hi) :: r →
      Does (.cvCheck u) s fun t => (t.cv u).queue = r ∧ (t.bit (Reg.CV_STATUS u) 1 = true ∨ t.bit (Reg.CV_STATUS u) 2 = true)) ∧
    Does (.cvStateLo u v) s fun t => (t.cv u).stateHi = none) ∧
  Does (.pinCfg n v level) s (fun t => t.fld (Reg.PIN_CFG n) 31 29 = fieldOf v 31 29) ∧
  Does (.keeperRelease n) s (fun t => tabGet none n.val t.keepers = none) ∧
  (s.pinFunc n = 0 → s.bankSupplied (n / 16) = true → s.fld (Reg.PIN_CFG n) 22 20 < 6 → s.fld (Reg.PIN_CFG n) 19 18 ≠ 3 →
    Does (.filterAccept n level) s fun t => t.bit (Reg.GPIO_IN (n / 16)) (n % 16) = level) ∧
  Does (.bankSupplyLost (.gpio bank)) s (fun t => t.bankSupplied bank = false) ∧
  Does (.bankSupplyReturn (.gpio bank) high levels) s (fun t => fieldOf t.bankSupply (2 * bank + 1) (2 * bank) = if high then 2 else 1)

/-- Commands that reset the device, a domain or a core, and those that bring clocks back, complete (R18, R458, R459, R463). -/
def resetsComplete : Prop := ∀ (c : Fin 16) (s : State), s.sys.powerGood = true →
  (s.sys.resetWaiting = 2 → Does .deviceReset s fun t => t.sys.resetWaiting = 0 ∧ t.bit Reg.GCTL_RESET_CAUSE 1 = true) ∧
  (Does .coreDomainReset s fun t => t.sys.fclk = false ∧ t.sys.coreIslands = 0 ∧ t.loops = []) ∧
  (s.firmwareOn = true → Does (.coreReset c) s fun t => t.bit Reg.GCTL_CORE_REL c = false ∧ ∀ g, t.greg c g = 0) ∧
  (s.firmwareOn = true → s.sys.reference = true → s.sys.vdda = true → s.sys.vddCore = true → s.sys.held = 0 → s.sys.fclk = false →
    Does .fabricPllLock s fun t => t.sys.fclk = true) ∧
  (s.sys.reference = true → Does .tailstockPllLock s fun t => t.sys.tclkOnRc = false) ∧
  Does .crystalReturn s fun t => t.sys.crystal = true

/-- Core instructions that reach memory, caches, loops and the plate complete, on a core that translates nothing, has its store
buffer empty, and addresses its own local memory (R87, R147, R218, R219, R227 to R229, R237, R241). -/
def coreCompletes : Prop := ∀ (c : Fin 17) (gd ga gb : Fin 32) (o p : Nat) (s : State), canRun s c .plain →
  s.translating c = false → (s.core c).sb = [] → s.poison = [] → (s.greg c ga).toNat = 0x10000000 + o → o % 16 = 0 →
  o + 16 ≤ localSize c → quiet s c →
  let a := localKey c o
  let on (t : State) : Prop := (t.core c).pc = (s.core c).npc
  let k := (s.greg c gb).toNat
  let cops := c.val < 16 ∧ s.supervisor c = true
  let loops := cops ∧ k < 384 ∧ s.loopOn k ∧ s.loopEnabled k = true ∧ s.loopType k = 4 ∧ (s.ctx k).stage = .posted ∧
    s.loopMisused k = false
  let long := distinct3 gd ga gb = true ∧ k = 16
  Does (.ld c gd ga 0 .word false false) s (fun t => on t ∧ (gd ≠ 0 → settled t c gd = s.word a)) ∧
  Does (.st c gb ga 0 .word false) s (fun t => on t ∧ ∃ e, (t.core c).sb = [e] ∧ e.cells = cellsFrom a (leBytes 4 k)) ∧
  Does (.llw c gd ga) s (fun t => on t ∧ (t.core c).resv = some (a / 64)) ∧
  ((s.core c).resv ≠ none → mayWrite s a 4 → Does (.scw c gd ga gb) s fun t => on t ∧ wroteBytes s t a (leBytes 4 k)) ∧
  Does (.fence c) s on ∧
  ((s.core c).l1d = [] → Does (.sync c) s on) ∧
  (long → (s.greg c gd).toNat = 0x10000000 + p → p % 16 = 0 → p + 16 ≤ localSize c →
    Does (.xfer c gd ga gb) s fun t => on t ∧ ∀ i < 16, seen t c (localKey c (p + i)) = s.byte (a + i)) ∧
  (long → Does (.crcb c gd ga gb) s fun t => on t ∧ t.greg c gb = 0 ∧ (t.greg c ga).toNat = 0x10000010 + o) ∧
  ((s.core c).l1d = [] → (s.core c).l1i = [] → c.val < 16 → Does (.cacheClean c ga 0) s on ∧ Does (.cacheCleanInvalidate c ga 0) s on ∧
    Does (.cacheInvalidateI c ga 0) s on ∧ Does (.cachePrefetch c ga 0) s on ∧
    (s.supervisor c = true → Does (.cacheInvalidate c ga 0) s on)) ∧
  (loops → c.val ∉ (s.ctx k).taken → Does (.lpoll c gd gb) s fun t => on t ∧ c.val ∈ (t.ctx k).taken ∧
    (gd ≠ 0 → t.greg c gd = (s.ctx k).post)) ∧
  (loops → s.fld (Reg.LOOP_CTL k) 23 22 = 0 → s.fld (Reg.LOOP_CTL k) 13 12 = 0 →
    fpIsZero (s.coef k (s.ctx k).bank 20) = true → Does (.lput c gb ga) s fun t => on t ∧ updateEnded s t k) ∧
  (cops → s.plate.ops = [] → Does (.pins c gd ga gb) s on ∧ Does (.prem c gd gb) s on)


end Sys2Proof.Claim

open Sys2Proof

/-- A step runs the command at the front of the queue with the queue's rest. -/
def Obligations.StepRunsTheFront : Prop :=
  Claim.stepRuns

/-- A step on an empty queue is one cycle of the clocks (the model's choice, log entry 5). -/
def Obligations.EmptyQueueIsOneCycle : Prop :=
  Claim.stepIdles

/-- What the machine holds right after reset, memory, NOR and the plate's table in their one form; open values are the model's (log entry 2). -/
def Obligations.ResetState : Prop :=
  Claim.resetState ∧ Claim.resetForm

/-- Every step answers a next state whose queue has lost its front and nothing else. -/
def Obligations.StepsTakeTheFront : Prop :=
  Claim.stepTakes

/-- Every command completes in every state and changes no part of it but those listed for it. -/
def Obligations.CommandsCompleteWithinTheirParts : Prop :=
  Claim.completes

/-- Every step keeps memory and the NOR in their one form. -/
def Obligations.MemoryKeepsItsForm : Prop :=
  Claim.memoryForm

/-- Every step keeps the index plate's table of entries in its one form within the store. -/
def Obligations.PlateKeepsItsForm : Prop :=
  Claim.plateForm

/-- No command clears a blown OTP bit, changes the part, or unlocks the debug port but by a response. -/
def Obligations.PromisesOfEveryCommand : Prop :=
  Claim.promises

/-- Acquisitions of one free chuck in one cycle are served in the order of R384. -/
def Obligations.ChuckTies : Prop :=
  Claim.chuckTie

/-- The result word of a chuck's read: got, mine and the owner. -/
def Obligations.ChuckResultWord : Prop :=
  Claim.chuckAcquire

/-- CLZ returns the number of zero bits above the highest set bit. -/
def Obligations.LeadingZeros : Prop :=
  Claim.leadingZeros

/-- Spindles: enabling, edges, index, timeouts. -/
def Obligations.SpindleEvents : Prop :=
  Claim.spindleEnable ∧ Claim.spindleEnableHall ∧ Claim.spindleDisable ∧ Claim.encoderEdge ∧ Claim.hallCodeChange ∧
    Claim.indexPulse ∧ Claim.spindleTimeout ∧ Claim.spindleCoastExpiry

/-- Spindles: observer, mains and configuration writes; free spindles and their clocks. -/
def Obligations.SpindleSources : Prop :=
  Claim.observerUpdate ∧ Claim.mainsUpdate ∧ Claim.spnSetPhase ∧ Claim.spnOffset ∧ Claim.spindleSourceCpt ∧
    Claim.spindleSourceSel ∧ Claim.spnEpochLo ∧ Claim.spnPeriod ∧ Claim.freeSpindleEpoch ∧ Claim.ptpClockStep ∧
    Claim.macClockDisabled

/-- Spindle compares and captures, general timers. -/
def Obligations.ComparesAndTimers : Prop :=
  Claim.compareFire ∧ Claim.compareArm ∧ Claim.captureTrigger ∧ Claim.swTrigger ∧ Claim.timerWrap ∧
    Claim.timerCompare ∧ Claim.gtCount

/-- The index plate's operations on entries. -/
def Obligations.PlateOperations : Prop :=
  Claim.plateInsert ∧ Claim.plateInsertFails ∧ Claim.plateBusy ∧ Claim.plateRemove ∧ Claim.plateAlloc ∧
    Claim.plateWrite ∧ Claim.plateRelease ∧ Claim.plateFetch ∧ Claim.plateProbe ∧ Claim.plateStoreWriteDone

/-- Due entries, firing, actions and chains. -/
def Obligations.PlateEvents : Prop :=
  Claim.entryDue ∧ Claim.entryFire ∧ Claim.entryFireChain ∧ Claim.retirement ∧ Claim.nopAction ∧ Claim.mwrite ∧
    Claim.radd ∧ Claim.plateForbids ∧ Claim.doorbell ∧ Claim.chain

/-- Holes near and far, failing words, control and partitions of the plate. -/
def Obligations.PlateHoles : Prop :=
  Claim.holeFetch ∧ Claim.holeFetchIdle ∧ Claim.holeFetchDone ∧ Claim.plateRefetch ∧ Claim.plateControl ∧
    Claim.plateInitDone ∧ Claim.partitionClear ∧ Claim.partitionClearDone ∧ Claim.mark

/-- ADC triggers, samples, stale channels, result queue and routes. -/
def Obligations.Conversions : Prop :=
  Claim.adctrig ∧ Claim.adcSwtrig ∧ Claim.adcHold ∧ Claim.sampleWrite ∧ Claim.channelStale ∧ Claim.afeQueue ∧
    Claim.routeSeq ∧ Claim.routeControl

/-- Comparators, blanking, sigma-delta demodulators; calibration of the ADCs. -/
def Obligations.ComparatorsAndDemodulators : Prop :=
  Claim.comparatorActive ∧ Claim.comparatorInactive ∧ Claim.blankingWindowClose ∧ Claim.comparatorHoldEnd ∧
    Claim.zoneInputAssert ∧ Claim.sdDecimation ∧ Claim.sdIntegrator ∧ Claim.sdSync ∧ Claim.sdClkLost ∧
    Claim.sdClkReturn ∧ Claim.sdOverrange ∧ Claim.calStep ∧ Claim.calDone ∧ Claim.calDoneForeground ∧ Claim.calSwap
    ∧ Claim.calSkip ∧ Claim.rotate ∧ Claim.calReq

/-- Loop updates: start, issue, prediction, confirmation, recomputation, settling; timeouts, rebuilding, banks, enables. -/
def Obligations.LoopUpdates : Prop :=
  Claim.loopMisuse ∧ Claim.loopStartEvent ∧ Claim.loopIssue ∧ Claim.loopIssueFault ∧ Claim.predictedRunDone ∧
    Claim.sampleConfirm ∧ Claim.sampleConfirmElse ∧ Claim.recomputeDone ∧ Claim.settleDone ∧ Claim.sampleTimeout ∧
    Claim.stateRebuild ∧ Claim.loopBank ∧ Claim.loopEnable

/-- PWM carriers: periods, valleys, restarts; edges, dead time and compare writes. -/
def Obligations.Carriers : Prop :=
  Claim.carrierPeriod ∧ Claim.carrierPeriodLocked ∧ Claim.carrierPeriodValley ∧ Claim.valleyDetect ∧
    Claim.valleyWindowEnd ∧ Claim.syncRestart ∧ Claim.pwmOpening ∧ Claim.pwmClosing ∧ Claim.pwmNoEdge ∧
    Claim.pwmDeadTimeEnd ∧ Claim.pwmCmpa ∧ Claim.pwmLate ∧ Claim.dutystep

/-- Trip zones, the global trip, arming and disarming. -/
def Obligations.TripsAndArming : Prop :=
  Claim.zoneAssert ∧ Claim.zoneRelease ∧ Claim.tripInPin ∧ Claim.tzForce ∧ Claim.latchedClear ∧ Claim.tripAllN ∧
    Claim.gtripAssert ∧ Claim.gtripClear ∧ Claim.pwmArmReq ∧ Claim.arm ∧ Claim.safeLock ∧ Claim.disarm

/-- Placement: submitting, committing, querying, withdrawing; re-placement of a running loop. -/
def Obligations.PlacementAdmission : Prop :=
  Claim.plSubmit ∧ Claim.plDiscard ∧ Claim.plOperations ∧ Claim.plQuery ∧ Claim.placementCommit ∧
    Claim.placementDram ∧ Claim.placementWithdraw ∧ Claim.placementIdle ∧ Claim.placementReplace ∧ Claim.quietPoint
    ∧ Claim.quietTimeout ∧ Claim.replaceSwitch

/-- Every word of the instruction formats spells its instruction, with every operand at every value. -/
def Obligations.WordsDecode : Prop :=
  Claim.wordsDecode

/-- LD, ST, LLW, SCW, FENCE, SYNC, XFER, CRCB, cache operations, LPOLL, LPUT, PINS, PREM complete. -/
def Obligations.CoreMemoryCompletes : Prop :=
  Claim.coreCompletes

/-- Every command of the index plate, every plate action, and every command of the front end completes with its own effect. -/
def Obligations.PlateAndSamplingComplete : Prop :=
  Claim.plateCompletes ∧ Claim.samplingCompletes

/-- Every command of the loop engines, of the PWM carriers, edges, zones, trips and arming completes with its own effect. -/
def Obligations.LoopsAndPwmComplete : Prop :=
  Claim.loopsComplete ∧ Claim.pwmCompletes

/-- Every command of placement, of the interrupt controllers, scratch banks, mailbox pins and IOMMU completes with its own effect. -/
def Obligations.PlacementAndDeliveryComplete : Prop :=
  Claim.placementCompletes ∧ Claim.deliveryCompletes

/-- Every command of DRAM, of the DMA channels and of the console engine completes with its own effect. -/
def Obligations.MemoryAndConsoleComplete : Prop :=
  Claim.memoryCompletes ∧ Claim.consoleCompletes

/-- Every command of the display heads, the 2D mover and the audio block completes with its own effect. -/
def Obligations.MediaCompletes : Prop :=
  Claim.displayCompletes ∧ Claim.moverCompletes ∧ Claim.audioCompletes

/-- Every command of the host ports, chucks, abort engines and the dictionary completes with its own effect. -/
def Obligations.HostAndDictionaryComplete : Prop :=
  Claim.hostCompletes ∧ Claim.dictionaryCompletes

/-- Every command of the field network, the tailstock, integrity, pins and resets completes with its own effect. -/
def Obligations.ControlDomainCompletes : Prop :=
  Claim.fieldCompletes ∧ Claim.tailstockCompletes ∧ Claim.integrityCompletes ∧ Claim.resetsComplete

/-- Core instructions that compute and branch. -/
def Obligations.CoreArithmetic : Prop :=
  Claim.alu ∧ Claim.loopBack ∧ Claim.shadowTick ∧ Claim.branches ∧ Claim.loops ∧ Claim.reservedWords ∧
    Claim.notExecuted ∧ Claim.fetchMap ∧ Claim.saturating ∧ Claim.cordic

/-- Exceptions, interrupts, control registers and waiting of a core. -/
def Obligations.CoreExceptions : Prop :=
  Claim.raised ∧ Claim.privilege ∧ Claim.crd ∧ Claim.cwr ∧ Claim.wait ∧ Claim.retx ∧ Claim.stackChecks ∧
    Claim.interruptLatch ∧ Claim.impreciseBusError ∧ Claim.machineCheck

/-- Addresses, faults and loads of a core. -/
def Obligations.CoreLoads : Prop :=
  Claim.accessMap ∧ Claim.accessFaults ∧ Claim.loadLocal ∧ Claim.loadForward ∧ Claim.loadOverlap ∧ Claim.loadHolds ∧
    Claim.loadDataReturn

/-- Stores, the store buffer, reservations, barriers and block instructions of a core. -/
def Obligations.CoreStores : Prop :=
  Claim.store ∧ Claim.storeBufferDrain ∧ Claim.llw ∧ Claim.scw ∧ Claim.reservedFaults ∧ Claim.barriers ∧ Claim.xfer
    ∧ Claim.crcb ∧ Claim.longFaults

/-- Caches, translation and protection of a core. -/
def Obligations.CoreCachesAndTranslation : Prop :=
  Claim.cacheOps ∧ Claim.cacheFaults ∧ Claim.tableWalk ∧ Claim.translation ∧ Claim.protection

/-- Loop and plate instructions of a core. -/
def Obligations.CoreCoprocessors : Prop :=
  Claim.lpoll ∧ Claim.lput ∧ Claim.plateInstructions ∧ Claim.copFaults

/-- The interrupt controllers: doorbells, presentation, claim and end. -/
def Obligations.Interrupts : Prop :=
  Claim.aicDoorbells ∧ Claim.presentedBest ∧ Claim.aicClaim ∧ Claim.aicEoi ∧ Claim.holdoffEnd ∧
    Claim.tailstockController

/-- Scratch banks, the mailbox pins, the IOMMU's cache; DRAM training, refresh and latency tolerance. -/
def Obligations.ScratchBanks : Prop :=
  Claim.bankWrites ∧ Claim.ownerEffect ∧ Claim.bankAwakes ∧ Claim.busyRelease ∧ Claim.invalidation ∧ Claim.training
    ∧ Claim.temperature ∧ Claim.selfRefresh ∧ Claim.tolerance

/-- DMA channels and the outbound path. -/
def Obligations.DmaChannels : Prop :=
  Claim.kicks ∧ Claim.descriptorFetch ∧ Claim.pacing ∧ Claim.turn ∧ Claim.burstLocal ∧ Claim.burstPeripheral ∧
    Claim.burstRefused ∧ Claim.descriptorDone ∧ Claim.resume ∧ Claim.engineStops ∧ Claim.outboundCompletes

/-- Console contexts: control, rasters, latches, inlay table. -/
def Obligations.ConsoleContexts : Prop :=
  Claim.conCtl ∧ Claim.conKick ∧ Claim.rasterCommands ∧ Claim.lineLatch ∧ Claim.frameLatches ∧ Claim.inlayTable ∧
    Claim.conSqData ∧ Claim.streamFlush

/-- Console rendering of lines and records. -/
def Obligations.ConsoleRendering : Prop :=
  Claim.renderJobStart ∧ Claim.blankLine ∧ Claim.troubledLine ∧ Claim.inlayOnLine ∧ Claim.layerPixels ∧
    Claim.lineEnters

/-- Display heads: enabling, commits, self-refresh, links. -/
def Obligations.DisplayHeads : Prop :=
  Claim.headEnable ∧ Claim.headDisable ∧ Claim.videoPllLock ∧ Claim.hdCommit ∧ Claim.commitLatch ∧
    Claim.selfRefreshPanel ∧ Claim.linkTrain ∧ Claim.hotPlug ∧ Claim.auxTransaction

/-- Layers: refill, trouble, write-back, blending. -/
def Obligations.DisplayLayers : Prop :=
  Claim.layerRefill ∧ Claim.layerTrouble ∧ Claim.writeBackLine ∧ Claim.blending ∧ Claim.widening

/-- The 2D mover. -/
def Obligations.Mover : Prop :=
  Claim.mvSubmit ∧ Claim.moverJobs ∧ Claim.moverRow ∧ Claim.moverRowFails ∧ Claim.moverStrobes ∧ Claim.moverEnable

/-- Audio buses, meters, outputs, pickups, voices and envelopes. -/
def Obligations.AudioMixing : Prop :=
  Claim.busSums ∧ Claim.busMeters ∧ Claim.outputs ∧ Claim.pickups ∧ Claim.voices ∧ Claim.envelope ∧ Claim.keys

/-- Audio carrier domains, wires, routes and reads. -/
def Obligations.AudioDomains : Prop :=
  Claim.carrierSamples ∧ Claim.carrierLoss ∧ Claim.pdmWire ∧ Claim.tdmWire ∧ Claim.routeApply ∧ Claim.rampDone ∧
    Claim.audioReads

/-- Chucks released and leased, port resets, configuration, doorbells. -/
def Obligations.ChucksAndPorts : Prop :=
  Claim.chuckRelease ∧ Claim.chuckLease ∧ Claim.portResets ∧ Claim.linkAndConfiguration ∧ Claim.hostDoorbells ∧
    Claim.tailstockWords ∧ Claim.coreDictionary

/-- Abort engines, BAR0 and BAR2, the mailbox. -/
def Obligations.AbortsAndWindows : Prop :=
  Claim.aborts ∧ Claim.abortEnds ∧ Claim.bar0 ∧ Claim.registerTimeouts ∧ Claim.mailbox ∧ Claim.mailboxCollision ∧
    Claim.bar2High

/-- Dictionary objects: guards, storing, resets, arming, update. -/
def Obligations.DictionaryObjects : Prop :=
  Claim.objectGuards ∧ Claim.storeAndLoad ∧ Claim.resetRequests ∧ Claim.armObjects ∧ Claim.verification ∧
    Claim.imageWrites ∧ Claim.imageControl

/-- Attestation, debug unlock and dictionary requests. -/
def Obligations.DictionaryRequests : Prop :=
  Claim.attestation ∧ Claim.debugUnlock ∧ Claim.responseChecks ∧ Claim.dictReads ∧ Claim.dictWrites ∧
    Claim.dictDescribes ∧ Claim.dictCompletes ∧ Claim.transferEnds

/-- The CANopen node and the CAN controllers; Ethernet frames, links and Horano datagrams. -/
def Obligations.CanNode : Prop :=
  Claim.nmt ∧ Claim.nodeMessages ∧ Claim.usdo ∧ Claim.canReceive ∧ Claim.canErrors ∧ Claim.canBus ∧ Claim.ethReceive
    ∧ Claim.sgmii ∧ Claim.horano ∧ Claim.horanoAnswers

/-- Sensors, log and journal, OTP, random source, telemetry. -/
def Obligations.SensorsAndLog : Prop :=
  Claim.sensorSamples ∧ Claim.sensorFails ∧ Claim.journal ∧ Claim.otpProgram ∧ Claim.challengeExpires ∧
    Claim.randomSource ∧ Claim.telemetry

/-- Boot, images, tamper and core release. -/
def Obligations.Boot : Prop :=
  Claim.bootStarts ∧ Claim.bootImage ∧ Claim.tampers ∧ Claim.coreReleases

/-- Machine-check records and scrubbing. -/
def Obligations.Scrubbing : Prop :=
  Claim.recordClears ∧ Claim.scrubbedMemory ∧ Claim.scrubbedUnits

/-- The check-value units. -/
def Obligations.CheckValueUnits : Prop :=
  Claim.cvQueues ∧ Claim.cvWaits ∧ Claim.cvFeeds ∧ Claim.cvInits ∧ Claim.cvAlives ∧ Claim.cvChecks ∧
    Claim.cvRestores

/-- Pins: functions, keepers, inputs, bank supplies. -/
def Obligations.Pins : Prop :=
  Claim.pinConfigures ∧ Claim.keeperLetsGo ∧ Claim.pinFollows ∧ Claim.supplyLost ∧ Claim.supplyReturns ∧
    Claim.otherSupplies

/-- Registers: who reaches them, access kinds, pairs, snapshots, keep words. -/
def Obligations.RegisterAccess : Prop :=
  Claim.busGuards ∧ Claim.registerWrites ∧ Claim.registerActs ∧ Claim.registerReads ∧ Claim.snapshots ∧
    Claim.keepWords

/-- Power, device, core-domain and core resets; clocks lost and found, islands. -/
def Obligations.PowerAndResets : Prop :=
  Claim.powers ∧ Claim.deviceResets ∧ Claim.coreDomainResets ∧ Claim.coreResets ∧ Claim.fclkLoss ∧ Claim.clocks ∧
    Claim.unitPlls ∧ Claim.fabricLocks ∧ Claim.islandSwitches
end

