-- ==== Sys2Proof/Laws/Bits.lean ====
section
/-! SUPPORT. Bits and fields of words after an update, bit by bit and field by field (R8). -/

namespace Sys2Proof.Machine

theorem bitAt_def (w : Word) (i : Nat) : bitAt w i = w.getLsbD i := rfl

theorem getLsbD_oneBit (i j : Nat) : (oneBit i).getLsbD j = (decide (j < 32) && decide (j = i)) := by
  unfold oneBit
  rw [BitVec.getLsbD_ofNat, Nat.shiftLeft_eq, Nat.one_mul, Nat.testBit_two_pow]
  congr 1
  exact decide_eq_decide.2 eq_comm

theorem getLsbD_withBit (w : Word) (i : Nat) (b : Bool) (j : Nat) :
    (withBit w i b).getLsbD j = if j = i ∧ j < 32 then b else w.getLsbD j := by
  have e : (BitVec.ofNat 32 (1 <<< i)) = oneBit i := rfl
  unfold withBit
  simp only [e]
  by_cases h : j < 32
  · by_cases g : j = i
    · subst g
      cases b <;> simp only [Bool.false_eq_true, if_false, if_true, BitVec.getLsbD_and, BitVec.getLsbD_or,
        BitVec.getLsbD_not, getLsbD_oneBit, h, decide_true, and_self, Bool.and_false, Bool.or_true, Bool.not_true,
        Bool.and_true]
    · cases b <;> simp only [Bool.false_eq_true, if_false, if_true, BitVec.getLsbD_and, BitVec.getLsbD_or,
        BitVec.getLsbD_not, getLsbD_oneBit, h, g, decide_true, decide_false, false_and, Bool.and_false, Bool.or_false,
        Bool.not_false, Bool.and_true]
  · cases b <;> simp [getLsbD_oneBit, h, BitVec.getLsbD_of_ge w j (by omega)]

theorem getLsbD_withField (w : Word) (h l v j : Nat) :
    (withField w h l v).getLsbD j = if l ≤ j ∧ j ≤ h ∧ j < 32 then v.testBit (j - l) else w.getLsbD j := by
  unfold withField
  simp only [BitVec.getLsbD_or, BitVec.getLsbD_and, BitVec.getLsbD_not, BitVec.getLsbD_ofNat, Nat.testBit_shiftLeft,
    Nat.testBit_two_pow_sub_one]
  by_cases a : j < 32
  · by_cases b : l ≤ j
    · by_cases c : j ≤ h
      · have : j - l < h + 1 - l := by omega
        simp [a, b, c, this]
      · have : ¬ j - l < h + 1 - l := by omega
        simp [a, b, c, this]
    · simp [a, b]
  · simp [a, BitVec.getLsbD_of_ge w j (by omega)]

theorem testBit_fieldOf (w : Word) (h l i : Nat) :
    (fieldOf w h l).testBit i = (decide (i < h + 1 - l) && w.getLsbD (l + i)) := by
  unfold fieldOf
  rw [Nat.testBit_mod_two_pow, Nat.testBit_shiftRight]
  rfl

theorem bitAt_withBit_same (w : Word) {i : Nat} (h : i < 32) (b : Bool) : bitAt (withBit w i b) i = b := by
  rw [bitAt, getLsbD_withBit, if_pos ⟨rfl, h⟩]

theorem bitAt_withBit_ne (w : Word) {i j : Nat} (h : j ≠ i) (b : Bool) : bitAt (withBit w i b) j = bitAt w j := by
  rw [bitAt, getLsbD_withBit, if_neg fun c => h c.1, bitAt]

theorem bitAt_withField_out (w : Word) {h l j : Nat} (v : Nat) (o : j < l ∨ h < j) :
    bitAt (withField w h l v) j = bitAt w j := by
  have : ¬ (l ≤ j ∧ j ≤ h ∧ j < 32) := by omega
  simp [bitAt, getLsbD_withField, this]

theorem fieldOf_withField_same (w : Word) {h l : Nat} (v : Nat) (a : h < 32) :
    fieldOf (withField w h l v) h l = v % 2 ^ (h + 1 - l) := by
  apply Nat.eq_of_testBit_eq
  intro i
  rw [testBit_fieldOf, getLsbD_withField, Nat.testBit_mod_two_pow]
  by_cases b : i < h + 1 - l
  · have : l ≤ l + i ∧ l + i ≤ h ∧ l + i < 32 := by omega
    simp [b, this]
  · simp [b]

theorem fieldOf_withField_out (w : Word) {h l h' l' : Nat} (v : Nat) (o : h < l' ∨ h' < l) :
    fieldOf (withField w h' l' v) h l = fieldOf w h l := by
  apply Nat.eq_of_testBit_eq
  intro i
  rw [testBit_fieldOf, testBit_fieldOf, getLsbD_withField]
  by_cases b : i < h + 1 - l
  · have : ¬ (l' ≤ l + i ∧ l + i ≤ h' ∧ l + i < 32) := by omega
    simp [this]
  · simp [b]

theorem fieldOf_withBit_out (w : Word) {h l i : Nat} (b : Bool) (o : h < i ∨ i < l) :
    fieldOf (withBit w i b) h l = fieldOf w h l := by
  apply Nat.eq_of_testBit_eq
  intro j
  rw [testBit_fieldOf, testBit_fieldOf, getLsbD_withBit]
  by_cases c : j < h + 1 - l
  · have : ¬ (l + j = i ∧ l + j < 32) := by omega
    simp [this]
  · simp [c]

theorem fieldOf_or (v w : Word) (h l : Nat) : fieldOf (v ||| w) h l = fieldOf v h l ||| fieldOf w h l := by
  apply Nat.eq_of_testBit_eq
  intro i
  rw [Nat.testBit_or, testBit_fieldOf, testBit_fieldOf, testBit_fieldOf, BitVec.getLsbD_or]
  cases decide (i < h + 1 - l) <;> simp

theorem fieldOf_oneBit_out {h l i : Nat} (o : h < i ∨ i < l) : fieldOf (oneBit i) h l = 0 := by
  apply Nat.eq_of_testBit_eq
  intro j
  rw [testBit_fieldOf, getLsbD_oneBit, Nat.zero_testBit]
  by_cases c : j < h + 1 - l
  · have : ¬ l + j = i := by omega
    simp [this]
  · simp [c]

theorem bitAt_or (v w : Word) (i : Nat) : bitAt (v ||| w) i = (bitAt v i || bitAt w i) := BitVec.getLsbD_or

theorem bitAt_and (v w : Word) (i : Nat) : bitAt (v &&& w) i = (bitAt v i && bitAt w i) := BitVec.getLsbD_and

theorem bitAt_oneBit (i j : Nat) : bitAt (oneBit i) j = (decide (j < 32) && decide (j = i)) := getLsbD_oneBit i j

/-- A field is smaller than its range. -/
theorem fieldOf_lt (w : Word) (h l : Nat) : fieldOf w h l < 2 ^ (h + 1 - l) := Nat.mod_lt _ (Nat.two_pow_pos _)

/-- The whole word as a field. -/
theorem fieldOf_all (w : Word) : fieldOf w 31 0 = w.toNat := by
  unfold fieldOf
  rw [Nat.shiftRight_zero, Nat.mod_eq_of_lt w.isLt]

end Sys2Proof.Machine
end

