-- ==== Sys2Proof/Laws/Tables.lean ====
section
/-! SUPPORT. Reads after writes of the sorted tables, and their one form. -/

namespace Sys2Proof.Machine

variable {α : Type}

theorem tabGet_erase_same (d : α) (k : Nat) (t : List (Nat × α)) : tabGet d k (tabErase k t) = d := by
  induction t with
  | nil => rfl
  | cons p r ih =>
    obtain ⟨k', v⟩ := p
    by_cases h : k' = k
    · simp [tabErase, h, ih]
    · simp [tabErase, tabGet, h, ih]

theorem tabGet_erase_ne (d : α) {k j : Nat} (h : j ≠ k) (t : List (Nat × α)) :
    tabGet d j (tabErase k t) = tabGet d j t := by
  induction t with
  | nil => rfl
  | cons p r ih =>
    obtain ⟨k', v⟩ := p
    by_cases e : k' = k
    · subst e; simp [tabErase, tabGet, ih, Ne.symm h]
    · simp [tabErase, tabGet, e, ih]

theorem tabGet_insert_ne (d : α) {k j : Nat} (h : j ≠ k) (v : α) (t : List (Nat × α)) :
    tabGet d j (tabInsert k v t) = tabGet d j t := by
  induction t with
  | nil => simp [tabInsert, tabGet, Ne.symm h]
  | cons p r ih =>
    obtain ⟨k', v'⟩ := p
    by_cases e : k < k'
    · simp [tabInsert, tabGet, e, Ne.symm h]
    · simp [tabInsert, tabGet, e, ih]

theorem tabGet_insert_erase (d : α) (k : Nat) (v : α) (t : List (Nat × α)) :
    tabGet d k (tabInsert k v (tabErase k t)) = v := by
  induction t with
  | nil => simp [tabErase, tabInsert, tabGet]
  | cons p r ih =>
    obtain ⟨k', v'⟩ := p
    by_cases e : k' = k
    · simp [tabErase, e, ih]
    · by_cases l : k < k'
      · simp [tabErase, tabInsert, tabGet, e, l]
      · simp [tabErase, tabInsert, tabGet, e, l, ih]

/-- A table answers what was set. -/
@[simp] theorem tabGet_set_same [DecidableEq α] (d : α) (k : Nat) (v : α) (t : List (Nat × α)) :
    tabGet d k (tabSet d k v t) = v := by
  unfold tabSet
  split
  · next h => rw [tabGet_erase_same, h]
  · exact tabGet_insert_erase d k v t

/-- A write leaves every other key alone. -/
@[simp] theorem tabGet_set_ne [DecidableEq α] (d d' : α) {k j : Nat} (h : j ≠ k) (v : α) (t : List (Nat × α)) :
    tabGet d j (tabSet d' k v t) = tabGet d j t := by
  unfold tabSet
  split
  · exact tabGet_erase_ne d h t
  · rw [tabGet_insert_ne d h, tabGet_erase_ne d h]

/-! ### The one form -/

variable [DecidableEq α] {d : Nat → α}

theorem tabWf_tail {p : Nat × α} {t : List (Nat × α)} (h : tabWf d (p :: t) = true) : tabWf d t = true := by
  obtain ⟨k, v⟩ := p
  cases t with
  | nil => rfl
  | cons q r => obtain ⟨k', v'⟩ := q; simp [tabWf] at h; simpa using h.2

/-- Every key of the tail lies above the head's, and no default value is listed. -/
theorem tabWf_cons {k : Nat} {v : α} {t : List (Nat × α)} :
    tabWf d ((k, v) :: t) = true ↔ v ≠ d k ∧ (∀ p ∈ t, k < p.1) ∧ tabWf d t = true := by
  induction t generalizing k v with
  | nil => simp [tabWf]
  | cons q r ih =>
    obtain ⟨k', v'⟩ := q
    simp only [tabWf, Bool.and_eq_true, decide_eq_true_eq, List.mem_cons, forall_eq_or_imp]
    constructor
    · rintro ⟨⟨h1, h2⟩, h3⟩
      exact ⟨h1, ⟨h2, fun p hp => Nat.lt_trans h2 ((ih.1 h3).2.1 p hp)⟩, h3⟩
    · rintro ⟨h1, ⟨h2, -⟩, h3⟩
      exact ⟨⟨h1, h2⟩, h3⟩

omit [DecidableEq α] in
theorem mem_tabErase {k : Nat} {p : Nat × α} {t : List (Nat × α)} (h : p ∈ tabErase k t) : p ∈ t ∧ p.1 ≠ k := by
  induction t with
  | nil => simp [tabErase] at h
  | cons q r ih =>
    obtain ⟨k', v⟩ := q
    by_cases e : k' = k
    · simp only [tabErase, e, if_true] at h
      exact ⟨List.mem_cons_of_mem _ (ih h).1, (ih h).2⟩
    · simp only [tabErase, e, if_false, List.mem_cons] at h
      rcases h with rfl | h
      · exact ⟨List.mem_cons_self, e⟩
      · exact ⟨List.mem_cons_of_mem _ (ih h).1, (ih h).2⟩

omit [DecidableEq α] in
theorem mem_tabInsert {k : Nat} {v : α} {p : Nat × α} {t : List (Nat × α)} (h : p ∈ tabInsert k v t) :
    p = (k, v) ∨ p ∈ t := by
  induction t with
  | nil => simpa [tabInsert] using h
  | cons q r ih =>
    obtain ⟨k', v'⟩ := q
    by_cases e : k < k'
    · simpa [tabInsert, e] using h
    · simp only [tabInsert, e, if_false, List.mem_cons] at h
      rcases h with rfl | h
      · simp
      · rcases ih h with h | h <;> simp [h]

theorem tabWf_erase (k : Nat) {t : List (Nat × α)} (h : tabWf d t = true) : tabWf d (tabErase k t) = true := by
  induction t with
  | nil => rfl
  | cons q r ih =>
    obtain ⟨k', v⟩ := q
    rw [tabWf_cons] at h
    by_cases e : k' = k
    · simpa [tabErase, e] using ih h.2.2
    · simp only [tabErase, e, if_false]
      exact tabWf_cons.2 ⟨h.1, fun p hp => h.2.1 p (mem_tabErase hp).1, ih h.2.2⟩

theorem tabWf_insert {k : Nat} {v : α} (hv : v ≠ d k) {t : List (Nat × α)} (h : tabWf d t = true)
    (hk : ∀ p ∈ t, p.1 ≠ k) : tabWf d (tabInsert k v t) = true := by
  induction t with
  | nil => simp [tabInsert, tabWf, hv]
  | cons q r ih =>
    obtain ⟨k', v'⟩ := q
    rw [tabWf_cons] at h
    have hne : k' ≠ k := hk (k', v') List.mem_cons_self
    by_cases e : k < k'
    · simp only [tabInsert, e, if_true]
      exact tabWf_cons.2 ⟨hv, by
        intro p hp
        rcases List.mem_cons.1 hp with rfl | hp
        · exact e
        · exact Nat.lt_trans e (h.2.1 p hp), tabWf_cons.2 h⟩
    · simp only [tabInsert, e, if_false]
      refine tabWf_cons.2 ⟨h.1, ?_, ih h.2.2 fun p hp => hk p (List.mem_cons_of_mem _ hp)⟩
      intro p hp
      rcases mem_tabInsert hp with rfl | hp
      · simp only []; omega
      · exact h.2.1 p hp

/-- A write keeps a table's one form. -/
theorem tabWf_set (k : Nat) (v : α) {t : List (Nat × α)} (h : tabWf d t = true) :
    tabWf d (tabSet (d k) k v t) = true := by
  unfold tabSet
  split
  · exact tabWf_erase k h
  · next hv => exact tabWf_insert hv (tabWf_erase k h) fun p hp => (mem_tabErase hp).2

/-- Dropping entries keeps a table's one form. -/
theorem tabWf_filter (f : Nat × α → Bool) {t : List (Nat × α)} (h : tabWf d t = true) :
    tabWf d (t.filter f) = true := by
  induction t with
  | nil => rfl
  | cons q r ih =>
    obtain ⟨k, v⟩ := q
    rw [tabWf_cons] at h
    by_cases e : f (k, v) = true
    · rw [List.filter_cons_of_pos e]
      exact tabWf_cons.2 ⟨h.1, fun p hp => h.2.1 p (List.mem_filter.1 hp).1, ih h.2.2⟩
    · rw [List.filter_cons_of_neg e]; exact ih h.2.2

end Sys2Proof.Machine
end

