-- ==== Sys2Proof/Laws/State.lean ====
section
/-! SUPPORT. What the named updates of State leave alone, field by field and reader by reader, and what they read back.
Written by a script from the declarations of State and its updates. -/

namespace Sys2Proof.Machine

variable (s : State)

/-! ### Reads back -/

@[simp] theorem State.reg_setReg_same (a : Nat) (v : Word) : (s.setReg a v).reg a = v := tabGet_set_same _ _ _ _
theorem State.reg_setReg_ne {a b : Nat} (h : b ≠ a) (v : Word) : (s.setReg a v).reg b = s.reg b := tabGet_set_ne _ _ h _ _
theorem State.reg_setReg (a b : Nat) (v : Word) : (s.setReg a v).reg b = if b = a then v else s.reg b := by
  split
  · next h => rw [h, State.reg_setReg_same]
  · next h => exact s.reg_setReg_ne h v
@[simp] theorem State.reg_setFld_same (a h l v : Nat) : (s.setFld a h l v).reg a = withField (s.reg a) h l v :=
  s.reg_setReg_same _ _
theorem State.reg_setFld_ne {a b : Nat} (e : b ≠ a) (h l v : Nat) : (s.setFld a h l v).reg b = s.reg b :=
  s.reg_setReg_ne e _
@[simp] theorem State.reg_setBit_same (a i : Nat) (b : Bool) : (s.setBit a i b).reg a = withBit (s.reg a) i b :=
  s.reg_setReg_same _ _
theorem State.reg_setBit_ne {a c : Nat} (e : c ≠ a) (i : Nat) (b : Bool) : (s.setBit a i b).reg c = s.reg c :=
  s.reg_setReg_ne e _
@[simp] theorem State.byte_setByte_same (a : Nat) (v : Byte) : (s.setByte a v).byte a = v := tabGet_set_same _ _ _ _
theorem State.byte_setByte_ne {a b : Nat} (h : b ≠ a) (v : Byte) : (s.setByte a v).byte b = s.byte b :=
  tabGet_set_ne _ _ h _ _
@[simp] theorem State.norByte_setNorByte_same (a : Nat) (v : Byte) : (s.setNorByte a v).norByte a = v :=
  tabGet_set_same _ _ _ _
theorem State.norByte_setNorByte_ne {a b : Nat} (h : b ≠ a) (v : Byte) : (s.setNorByte a v).norByte b = s.norByte b :=
  tabGet_set_ne _ _ h _ _

@[simp] theorem State.adc_setAdc_same (n : Nat) (x : Adc) : (s.setAdc n x).adc n = x := tabGet_set_same _ _ _ _
theorem State.adc_setAdc_ne {n j : Nat} (h : j ≠ n) (x : Adc) : (s.setAdc n x).adc j = s.adc j :=
  tabGet_set_ne _ _ h _ _
@[simp] theorem State.chan_setChan_same (n : Nat) (x : Channel) : (s.setChan n x).chan n = x := tabGet_set_same _ _ _ _
theorem State.chan_setChan_ne {n j : Nat} (h : j ≠ n) (x : Channel) : (s.setChan n x).chan j = s.chan j :=
  tabGet_set_ne _ _ h _ _
@[simp] theorem State.demod_setDemod_same (n : Nat) (x : SigmaDelta) : (s.setDemod n x).demod n = x := tabGet_set_same _ _ _ _
theorem State.demod_setDemod_ne {n j : Nat} (h : j ≠ n) (x : SigmaDelta) : (s.setDemod n x).demod j = s.demod j :=
  tabGet_set_ne _ _ h _ _
@[simp] theorem State.sector_setSector_same (n : Nat) (x : Sector) : (s.setSector n x).sector n = x := tabGet_set_same _ _ _ _
theorem State.sector_setSector_ne {n j : Nat} (h : j ≠ n) (x : Sector) : (s.setSector n x).sector j = s.sector j :=
  tabGet_set_ne _ _ h _ _
@[simp] theorem State.aicCore_setAicCore_same (n : Nat) (x : AicCore) : (s.setAicCore n x).aicCore n = x := tabGet_set_same _ _ _ _
theorem State.aicCore_setAicCore_ne {n j : Nat} (h : j ≠ n) (x : AicCore) : (s.setAicCore n x).aicCore j = s.aicCore j :=
  tabGet_set_ne _ _ h _ _
@[simp] theorem State.con_setCon_same (n : Nat) (x : Console) : (s.setCon n x).con n = x := tabGet_set_same _ _ _ _
theorem State.con_setCon_ne {n j : Nat} (h : j ≠ n) (x : Console) : (s.setCon n x).con j = s.con j :=
  tabGet_set_ne _ _ h _ _
@[simp] theorem State.stream_setStream_same (n : Nat) (x : StreamQ) : (s.setStream n x).stream n = x := tabGet_set_same _ _ _ _
theorem State.stream_setStream_ne {n j : Nat} (h : j ≠ n) (x : StreamQ) : (s.setStream n x).stream j = s.stream j :=
  tabGet_set_ne _ _ h _ _
@[simp] theorem State.core_setCore_same (n : Nat) (x : Core) : (s.setCore n x).core n = x := tabGet_set_same _ _ _ _
theorem State.core_setCore_ne {n j : Nat} (h : j ≠ n) (x : Core) : (s.setCore n x).core j = s.core j :=
  tabGet_set_ne _ _ h _ _
@[simp] theorem State.cv_setCv_same (n : Nat) (x : CvUnit) : (s.setCv n x).cv n = x := tabGet_set_same _ _ _ _
theorem State.cv_setCv_ne {n j : Nat} (h : j ≠ n) (x : CvUnit) : (s.setCv n x).cv j = s.cv j :=
  tabGet_set_ne _ _ h _ _
@[simp] theorem State.head_setHead_same (n : Nat) (x : Head) : (s.setHead n x).head n = x := tabGet_set_same _ _ _ _
theorem State.head_setHead_ne {n j : Nat} (h : j ≠ n) (x : Head) : (s.setHead n x).head j = s.head j :=
  tabGet_set_ne _ _ h _ _
@[simp] theorem State.host_setHost_same (n : Nat) (x : HostPort) : (s.setHost n x).host n = x := tabGet_set_same _ _ _ _
theorem State.host_setHost_ne {n j : Nat} (h : j ≠ n) (x : HostPort) : (s.setHost n x).host j = s.host j :=
  tabGet_set_ne _ _ h _ _
@[simp] theorem State.abortEngine_setAbortEngine_same (n : Nat) (x : AbortEngine) : (s.setAbortEngine n x).abortEngine n = x := tabGet_set_same _ _ _ _
theorem State.abortEngine_setAbortEngine_ne {n j : Nat} (h : j ≠ n) (x : AbortEngine) : (s.setAbortEngine n x).abortEngine j = s.abortEngine j :=
  tabGet_set_ne _ _ h _ _
@[simp] theorem State.ctx_setCtx_same (n : Nat) (x : LoopCtx) : (s.setCtx n x).ctx n = x := tabGet_set_same _ _ _ _
theorem State.ctx_setCtx_ne {n j : Nat} (h : j ≠ n) (x : LoopCtx) : (s.setCtx n x).ctx j = s.ctx j :=
  tabGet_set_ne _ _ h _ _
@[simp] theorem State.dmaCh_setDmaCh_same (n : Nat) (x : DmaCh) : (s.setDmaCh n x).dmaCh n = x := tabGet_set_same _ _ _ _
theorem State.dmaCh_setDmaCh_ne {n j : Nat} (h : j ≠ n) (x : DmaCh) : (s.setDmaCh n x).dmaCh j = s.dmaCh j :=
  tabGet_set_ne _ _ h _ _
@[simp] theorem State.spn_setSpn_same (n : Nat) (x : Spindle) : (s.setSpn n x).spn n = x := tabGet_set_same _ _ _ _
theorem State.spn_setSpn_ne {n j : Nat} (h : j ≠ n) (x : Spindle) : (s.setSpn n x).spn j = s.spn j :=
  tabGet_set_ne _ _ h _ _
@[simp] theorem State.timer_setTimer_same (n : Nat) (x : GenTimer) : (s.setTimer n x).timer n = x := tabGet_set_same _ _ _ _
theorem State.timer_setTimer_ne {n j : Nat} (h : j ≠ n) (x : GenTimer) : (s.setTimer n x).timer j = s.timer j :=
  tabGet_set_ne _ _ h _ _
@[simp] theorem State.pair_setPair_same (n : Nat) (x : PwmPair) : (s.setPair n x).pair n = x := tabGet_set_same _ _ _ _
theorem State.pair_setPair_ne {n j : Nat} (h : j ≠ n) (x : PwmPair) : (s.setPair n x).pair j = s.pair j :=
  tabGet_set_ne _ _ h _ _
@[simp] theorem State.group_setGroup_same (n : Nat) (x : PwmGroup) : (s.setGroup n x).group n = x := tabGet_set_same _ _ _ _
theorem State.group_setGroup_ne {n j : Nat} (h : j ≠ n) (x : PwmGroup) : (s.setGroup n x).group j = s.group j :=
  tabGet_set_ne _ _ h _ _
@[simp] theorem State.comparator_setComparator_same (n : Nat) (x : Comparator) : (s.setComparator n x).comparator n = x := tabGet_set_same _ _ _ _
theorem State.comparator_setComparator_ne {n j : Nat} (h : j ≠ n) (x : Comparator) : (s.setComparator n x).comparator j = s.comparator j :=
  tabGet_set_ne _ _ h _ _

/-! ### setReg -/

@[simp] theorem State.setReg_pending (a : Nat) (v : Word) : (s.setReg a v).pending = s.pending := rfl
@[simp] theorem State.setReg_freeCtr (a : Nat) (v : Word) : (s.setReg a v).freeCtr = s.freeCtr := rfl
@[simp] theorem State.setReg_cyc (a : Nat) (v : Word) : (s.setReg a v).cyc = s.cyc := rfl
@[simp] theorem State.setReg_pulses (a : Nat) (v : Word) : (s.setReg a v).pulses = s.pulses := rfl
@[simp] theorem State.setReg_now (a : Nat) (v : Word) : (s.setReg a v).now = s.now := rfl
@[simp] theorem State.setReg_devTimer (a : Nat) (v : Word) : (s.setReg a v).devTimer = s.devTimer := rfl
@[simp] theorem State.setReg_resp (a : Nat) (v : Word) : (s.setReg a v).resp = s.resp := rfl
@[simp] theorem State.setReg_shadow (a : Nat) (v : Word) : (s.setReg a v).shadow = s.shadow := rfl
@[simp] theorem State.setReg_sys (a : Nat) (v : Word) : (s.setReg a v).sys = s.sys := rfl
@[simp] theorem State.setReg_log (a : Nat) (v : Word) : (s.setReg a v).log = s.log := rfl
@[simp] theorem State.setReg_spindles (a : Nat) (v : Word) : (s.setReg a v).spindles = s.spindles := rfl
@[simp] theorem State.setReg_encoders (a : Nat) (v : Word) : (s.setReg a v).encoders = s.encoders := rfl
@[simp] theorem State.setReg_encSince (a : Nat) (v : Word) : (s.setReg a v).encSince = s.encSince := rfl
@[simp] theorem State.setReg_timers (a : Nat) (v : Word) : (s.setReg a v).timers = s.timers := rfl
@[simp] theorem State.setReg_ptp (a : Nat) (v : Word) : (s.setReg a v).ptp = s.ptp := rfl
@[simp] theorem State.setReg_adcs (a : Nat) (v : Word) : (s.setReg a v).adcs = s.adcs := rfl
@[simp] theorem State.setReg_channels (a : Nat) (v : Word) : (s.setReg a v).channels = s.channels := rfl
@[simp] theorem State.setReg_comparators (a : Nat) (v : Word) : (s.setReg a v).comparators = s.comparators := rfl
@[simp] theorem State.setReg_demods (a : Nat) (v : Word) : (s.setReg a v).demods = s.demods := rfl
@[simp] theorem State.setReg_sectors (a : Nat) (v : Word) : (s.setReg a v).sectors = s.sectors := rfl
@[simp] theorem State.setReg_pairs (a : Nat) (v : Word) : (s.setReg a v).pairs = s.pairs := rfl
@[simp] theorem State.setReg_groups (a : Nat) (v : Word) : (s.setReg a v).groups = s.groups := rfl
@[simp] theorem State.setReg_tripPins (a : Nat) (v : Word) : (s.setReg a v).tripPins = s.tripPins := rfl
@[simp] theorem State.setReg_zonePins (a : Nat) (v : Word) : (s.setReg a v).zonePins = s.zonePins := rfl
@[simp] theorem State.setReg_tripAll (a : Nat) (v : Word) : (s.setReg a v).tripAll = s.tripAll := rfl
@[simp] theorem State.setReg_plate (a : Nat) (v : Word) : (s.setReg a v).plate = s.plate := rfl
@[simp] theorem State.setReg_loops (a : Nat) (v : Word) : (s.setReg a v).loops = s.loops := rfl
@[simp] theorem State.setReg_place (a : Nat) (v : Word) : (s.setReg a v).place = s.place := rfl
@[simp] theorem State.setReg_cores (a : Nat) (v : Word) : (s.setReg a v).cores = s.cores := rfl
@[simp] theorem State.setReg_aic (a : Nat) (v : Word) : (s.setReg a v).aic = s.aic := rfl
@[simp] theorem State.setReg_dma (a : Nat) (v : Word) : (s.setReg a v).dma = s.dma := rfl
@[simp] theorem State.setReg_dmaLast (a : Nat) (v : Word) : (s.setReg a v).dmaLast = s.dmaLast := rfl
@[simp] theorem State.setReg_outbound (a : Nat) (v : Word) : (s.setReg a v).outbound = s.outbound := rfl
@[simp] theorem State.setReg_posted (a : Nat) (v : Word) : (s.setReg a v).posted = s.posted := rfl
@[simp] theorem State.setReg_consoles (a : Nat) (v : Word) : (s.setReg a v).consoles = s.consoles := rfl
@[simp] theorem State.setReg_conJobs (a : Nat) (v : Word) : (s.setReg a v).conJobs = s.conJobs := rfl
@[simp] theorem State.setReg_pipes (a : Nat) (v : Word) : (s.setReg a v).pipes = s.pipes := rfl
@[simp] theorem State.setReg_streams (a : Nat) (v : Word) : (s.setReg a v).streams = s.streams := rfl
@[simp] theorem State.setReg_liveLines (a : Nat) (v : Word) : (s.setReg a v).liveLines = s.liveLines := rfl
@[simp] theorem State.setReg_active (a : Nat) (v : Word) : (s.setReg a v).active = s.active := rfl
@[simp] theorem State.setReg_mover (a : Nat) (v : Word) : (s.setReg a v).mover = s.mover := rfl
@[simp] theorem State.setReg_heads (a : Nat) (v : Word) : (s.setReg a v).heads = s.heads := rfl
@[simp] theorem State.setReg_audio (a : Nat) (v : Word) : (s.setReg a v).audio = s.audio := rfl
@[simp] theorem State.setReg_bankSupply (a : Nat) (v : Word) : (s.setReg a v).bankSupply = s.bankSupply := rfl
@[simp] theorem State.setReg_keepers (a : Nat) (v : Word) : (s.setReg a v).keepers = s.keepers := rfl
@[simp] theorem State.setReg_sec (a : Nat) (v : Word) : (s.setReg a v).sec = s.sec := rfl
@[simp] theorem State.setReg_cvs (a : Nat) (v : Word) : (s.setReg a v).cvs = s.cvs := rfl
@[simp] theorem State.setReg_hosts (a : Nat) (v : Word) : (s.setReg a v).hosts = s.hosts := rfl
@[simp] theorem State.setReg_dict (a : Nat) (v : Word) : (s.setReg a v).dict = s.dict := rfl
@[simp] theorem State.setReg_canNode (a : Nat) (v : Word) : (s.setReg a v).canNode = s.canNode := rfl
@[simp] theorem State.setReg_cans (a : Nat) (v : Word) : (s.setReg a v).cans = s.cans := rfl
@[simp] theorem State.setReg_macs (a : Nat) (v : Word) : (s.setReg a v).macs = s.macs := rfl
@[simp] theorem State.setReg_aborts (a : Nat) (v : Word) : (s.setReg a v).aborts = s.aborts := rfl
@[simp] theorem State.setReg_iotlb (a : Nat) (v : Word) : (s.setReg a v).iotlb = s.iotlb := rfl
@[simp] theorem State.setReg_sbOld (a : Nat) (v : Word) : (s.setReg a v).sbOld = s.sbOld := rfl
@[simp] theorem State.setReg_trainTries (a : Nat) (v : Word) : (s.setReg a v).trainTries = s.trainTries := rfl
@[simp] theorem State.setReg_refreshFast (a : Nat) (v : Word) : (s.setReg a v).refreshFast = s.refreshFast := rfl
@[simp] theorem State.setReg_dramTemp (a : Nat) (v : Word) : (s.setReg a v).dramTemp = s.dramTemp := rfl
@[simp] theorem State.setReg_macQueues (a : Nat) (v : Word) : (s.setReg a v).macQueues = s.macQueues := rfl
@[simp] theorem State.setReg_busyPins (a : Nat) (v : Word) : (s.setReg a v).busyPins = s.busyPins := rfl
@[simp] theorem State.setReg_tsClaimed (a : Nat) (v : Word) : (s.setReg a v).tsClaimed = s.tsClaimed := rfl
@[simp] theorem State.setReg_mem (a : Nat) (v : Word) : (s.setReg a v).mem = s.mem := rfl
@[simp] theorem State.setReg_nor (a : Nat) (v : Word) : (s.setReg a v).nor = s.nor := rfl
@[simp] theorem State.setReg_poison (a : Nat) (v : Word) : (s.setReg a v).poison = s.poison := rfl
@[simp] theorem State.setReg_checks (a : Nat) (v : Word) : (s.setReg a v).checks = s.checks := rfl
@[simp] theorem State.byte_setReg (a : Nat) (v : Word) (a0 : Nat) : (s.setReg a v).byte a0 = s.byte a0 := rfl
@[simp] theorem State.norByte_setReg (a : Nat) (v : Word) (a0 : Nat) : (s.setReg a v).norByte a0 = s.norByte a0 := rfl
@[simp] theorem State.adc_setReg (a : Nat) (v : Word) (j : Nat) : (s.setReg a v).adc j = s.adc j := rfl
@[simp] theorem State.chan_setReg (a : Nat) (v : Word) (j : Nat) : (s.setReg a v).chan j = s.chan j := rfl
@[simp] theorem State.demod_setReg (a : Nat) (v : Word) (j : Nat) : (s.setReg a v).demod j = s.demod j := rfl
@[simp] theorem State.sector_setReg (a : Nat) (v : Word) (j : Nat) : (s.setReg a v).sector j = s.sector j := rfl
@[simp] theorem State.aicCore_setReg (a : Nat) (v : Word) (j : Nat) : (s.setReg a v).aicCore j = s.aicCore j := rfl
@[simp] theorem State.con_setReg (a : Nat) (v : Word) (j : Nat) : (s.setReg a v).con j = s.con j := rfl
@[simp] theorem State.stream_setReg (a : Nat) (v : Word) (j : Nat) : (s.setReg a v).stream j = s.stream j := rfl
@[simp] theorem State.core_setReg (a : Nat) (v : Word) (j : Nat) : (s.setReg a v).core j = s.core j := rfl
@[simp] theorem State.greg_setReg (a : Nat) (v : Word) (j : Nat) (r : Nat) : (s.setReg a v).greg j r = s.greg j r := rfl
@[simp] theorem State.cv_setReg (a : Nat) (v : Word) (j : Nat) : (s.setReg a v).cv j = s.cv j := rfl
@[simp] theorem State.head_setReg (a : Nat) (v : Word) (j : Nat) : (s.setReg a v).head j = s.head j := rfl
@[simp] theorem State.host_setReg (a : Nat) (v : Word) (j : Nat) : (s.setReg a v).host j = s.host j := rfl
@[simp] theorem State.abortEngine_setReg (a : Nat) (v : Word) (j : Nat) : (s.setReg a v).abortEngine j = s.abortEngine j := rfl
@[simp] theorem State.ctx_setReg (a : Nat) (v : Word) (j : Nat) : (s.setReg a v).ctx j = s.ctx j := rfl
@[simp] theorem State.dmaCh_setReg (a : Nat) (v : Word) (j : Nat) : (s.setReg a v).dmaCh j = s.dmaCh j := rfl
@[simp] theorem State.entry_setReg (a : Nat) (v : Word) (j : Nat) : (s.setReg a v).entry j = s.entry j := rfl
@[simp] theorem State.spn_setReg (a : Nat) (v : Word) (j : Nat) : (s.setReg a v).spn j = s.spn j := rfl
@[simp] theorem State.timer_setReg (a : Nat) (v : Word) (j : Nat) : (s.setReg a v).timer j = s.timer j := rfl
@[simp] theorem State.pair_setReg (a : Nat) (v : Word) (j : Nat) : (s.setReg a v).pair j = s.pair j := rfl
@[simp] theorem State.group_setReg (a : Nat) (v : Word) (j : Nat) : (s.setReg a v).group j = s.group j := rfl
@[simp] theorem State.comparator_setReg (a : Nat) (v : Word) (j : Nat) : (s.setReg a v).comparator j = s.comparator j := rfl
@[simp] theorem State.fclkOn_setReg (a : Nat) (v : Word) : (s.setReg a v).fclkOn = s.fclkOn := rfl
@[simp] theorem State.mediaOn_setReg (a : Nat) (v : Word) : (s.setReg a v).mediaOn = s.mediaOn := rfl
@[simp] theorem State.sectorOn_setReg (a : Nat) (v : Word) (j : Nat) : (s.setReg a v).sectorOn j = s.sectorOn j := rfl
@[simp] theorem State.coreOn_setReg (a : Nat) (v : Word) (j : Nat) : (s.setReg a v).coreOn j = s.coreOn j := rfl
@[simp] theorem State.firmwareOn_setReg (a : Nat) (v : Word) : (s.setReg a v).firmwareOn = s.firmwareOn := rfl
@[simp] theorem State.composerOn_setReg (a : Nat) (v : Word) : (s.setReg a v).composerOn = s.composerOn := rfl

/-! ### setFld -/

@[simp] theorem State.setFld_pending (a h l v : Nat) : (s.setFld a h l v).pending = s.pending := rfl
@[simp] theorem State.setFld_freeCtr (a h l v : Nat) : (s.setFld a h l v).freeCtr = s.freeCtr := rfl
@[simp] theorem State.setFld_cyc (a h l v : Nat) : (s.setFld a h l v).cyc = s.cyc := rfl
@[simp] theorem State.setFld_pulses (a h l v : Nat) : (s.setFld a h l v).pulses = s.pulses := rfl
@[simp] theorem State.setFld_now (a h l v : Nat) : (s.setFld a h l v).now = s.now := rfl
@[simp] theorem State.setFld_devTimer (a h l v : Nat) : (s.setFld a h l v).devTimer = s.devTimer := rfl
@[simp] theorem State.setFld_resp (a h l v : Nat) : (s.setFld a h l v).resp = s.resp := rfl
@[simp] theorem State.setFld_shadow (a h l v : Nat) : (s.setFld a h l v).shadow = s.shadow := rfl
@[simp] theorem State.setFld_sys (a h l v : Nat) : (s.setFld a h l v).sys = s.sys := rfl
@[simp] theorem State.setFld_log (a h l v : Nat) : (s.setFld a h l v).log = s.log := rfl
@[simp] theorem State.setFld_spindles (a h l v : Nat) : (s.setFld a h l v).spindles = s.spindles := rfl
@[simp] theorem State.setFld_encoders (a h l v : Nat) : (s.setFld a h l v).encoders = s.encoders := rfl
@[simp] theorem State.setFld_encSince (a h l v : Nat) : (s.setFld a h l v).encSince = s.encSince := rfl
@[simp] theorem State.setFld_timers (a h l v : Nat) : (s.setFld a h l v).timers = s.timers := rfl
@[simp] theorem State.setFld_ptp (a h l v : Nat) : (s.setFld a h l v).ptp = s.ptp := rfl
@[simp] theorem State.setFld_adcs (a h l v : Nat) : (s.setFld a h l v).adcs = s.adcs := rfl
@[simp] theorem State.setFld_channels (a h l v : Nat) : (s.setFld a h l v).channels = s.channels := rfl
@[simp] theorem State.setFld_comparators (a h l v : Nat) : (s.setFld a h l v).comparators = s.comparators := rfl
@[simp] theorem State.setFld_demods (a h l v : Nat) : (s.setFld a h l v).demods = s.demods := rfl
@[simp] theorem State.setFld_sectors (a h l v : Nat) : (s.setFld a h l v).sectors = s.sectors := rfl
@[simp] theorem State.setFld_pairs (a h l v : Nat) : (s.setFld a h l v).pairs = s.pairs := rfl
@[simp] theorem State.setFld_groups (a h l v : Nat) : (s.setFld a h l v).groups = s.groups := rfl
@[simp] theorem State.setFld_tripPins (a h l v : Nat) : (s.setFld a h l v).tripPins = s.tripPins := rfl
@[simp] theorem State.setFld_zonePins (a h l v : Nat) : (s.setFld a h l v).zonePins = s.zonePins := rfl
@[simp] theorem State.setFld_tripAll (a h l v : Nat) : (s.setFld a h l v).tripAll = s.tripAll := rfl
@[simp] theorem State.setFld_plate (a h l v : Nat) : (s.setFld a h l v).plate = s.plate := rfl
@[simp] theorem State.setFld_loops (a h l v : Nat) : (s.setFld a h l v).loops = s.loops := rfl
@[simp] theorem State.setFld_place (a h l v : Nat) : (s.setFld a h l v).place = s.place := rfl
@[simp] theorem State.setFld_cores (a h l v : Nat) : (s.setFld a h l v).cores = s.cores := rfl
@[simp] theorem State.setFld_aic (a h l v : Nat) : (s.setFld a h l v).aic = s.aic := rfl
@[simp] theorem State.setFld_dma (a h l v : Nat) : (s.setFld a h l v).dma = s.dma := rfl
@[simp] theorem State.setFld_dmaLast (a h l v : Nat) : (s.setFld a h l v).dmaLast = s.dmaLast := rfl
@[simp] theorem State.setFld_outbound (a h l v : Nat) : (s.setFld a h l v).outbound = s.outbound := rfl
@[simp] theorem State.setFld_posted (a h l v : Nat) : (s.setFld a h l v).posted = s.posted := rfl
@[simp] theorem State.setFld_consoles (a h l v : Nat) : (s.setFld a h l v).consoles = s.consoles := rfl
@[simp] theorem State.setFld_conJobs (a h l v : Nat) : (s.setFld a h l v).conJobs = s.conJobs := rfl
@[simp] theorem State.setFld_pipes (a h l v : Nat) : (s.setFld a h l v).pipes = s.pipes := rfl
@[simp] theorem State.setFld_streams (a h l v : Nat) : (s.setFld a h l v).streams = s.streams := rfl
@[simp] theorem State.setFld_liveLines (a h l v : Nat) : (s.setFld a h l v).liveLines = s.liveLines := rfl
@[simp] theorem State.setFld_active (a h l v : Nat) : (s.setFld a h l v).active = s.active := rfl
@[simp] theorem State.setFld_mover (a h l v : Nat) : (s.setFld a h l v).mover = s.mover := rfl
@[simp] theorem State.setFld_heads (a h l v : Nat) : (s.setFld a h l v).heads = s.heads := rfl
@[simp] theorem State.setFld_audio (a h l v : Nat) : (s.setFld a h l v).audio = s.audio := rfl
@[simp] theorem State.setFld_bankSupply (a h l v : Nat) : (s.setFld a h l v).bankSupply = s.bankSupply := rfl
@[simp] theorem State.setFld_keepers (a h l v : Nat) : (s.setFld a h l v).keepers = s.keepers := rfl
@[simp] theorem State.setFld_sec (a h l v : Nat) : (s.setFld a h l v).sec = s.sec := rfl
@[simp] theorem State.setFld_cvs (a h l v : Nat) : (s.setFld a h l v).cvs = s.cvs := rfl
@[simp] theorem State.setFld_hosts (a h l v : Nat) : (s.setFld a h l v).hosts = s.hosts := rfl
@[simp] theorem State.setFld_dict (a h l v : Nat) : (s.setFld a h l v).dict = s.dict := rfl
@[simp] theorem State.setFld_canNode (a h l v : Nat) : (s.setFld a h l v).canNode = s.canNode := rfl
@[simp] theorem State.setFld_cans (a h l v : Nat) : (s.setFld a h l v).cans = s.cans := rfl
@[simp] theorem State.setFld_macs (a h l v : Nat) : (s.setFld a h l v).macs = s.macs := rfl
@[simp] theorem State.setFld_aborts (a h l v : Nat) : (s.setFld a h l v).aborts = s.aborts := rfl
@[simp] theorem State.setFld_iotlb (a h l v : Nat) : (s.setFld a h l v).iotlb = s.iotlb := rfl
@[simp] theorem State.setFld_sbOld (a h l v : Nat) : (s.setFld a h l v).sbOld = s.sbOld := rfl
@[simp] theorem State.setFld_trainTries (a h l v : Nat) : (s.setFld a h l v).trainTries = s.trainTries := rfl
@[simp] theorem State.setFld_refreshFast (a h l v : Nat) : (s.setFld a h l v).refreshFast = s.refreshFast := rfl
@[simp] theorem State.setFld_dramTemp (a h l v : Nat) : (s.setFld a h l v).dramTemp = s.dramTemp := rfl
@[simp] theorem State.setFld_macQueues (a h l v : Nat) : (s.setFld a h l v).macQueues = s.macQueues := rfl
@[simp] theorem State.setFld_busyPins (a h l v : Nat) : (s.setFld a h l v).busyPins = s.busyPins := rfl
@[simp] theorem State.setFld_tsClaimed (a h l v : Nat) : (s.setFld a h l v).tsClaimed = s.tsClaimed := rfl
@[simp] theorem State.setFld_mem (a h l v : Nat) : (s.setFld a h l v).mem = s.mem := rfl
@[simp] theorem State.setFld_nor (a h l v : Nat) : (s.setFld a h l v).nor = s.nor := rfl
@[simp] theorem State.setFld_poison (a h l v : Nat) : (s.setFld a h l v).poison = s.poison := rfl
@[simp] theorem State.setFld_checks (a h l v : Nat) : (s.setFld a h l v).checks = s.checks := rfl
@[simp] theorem State.byte_setFld (a h l v : Nat) (a0 : Nat) : (s.setFld a h l v).byte a0 = s.byte a0 := rfl
@[simp] theorem State.norByte_setFld (a h l v : Nat) (a0 : Nat) : (s.setFld a h l v).norByte a0 = s.norByte a0 := rfl
@[simp] theorem State.adc_setFld (a h l v : Nat) (j : Nat) : (s.setFld a h l v).adc j = s.adc j := rfl
@[simp] theorem State.chan_setFld (a h l v : Nat) (j : Nat) : (s.setFld a h l v).chan j = s.chan j := rfl
@[simp] theorem State.demod_setFld (a h l v : Nat) (j : Nat) : (s.setFld a h l v).demod j = s.demod j := rfl
@[simp] theorem State.sector_setFld (a h l v : Nat) (j : Nat) : (s.setFld a h l v).sector j = s.sector j := rfl
@[simp] theorem State.aicCore_setFld (a h l v : Nat) (j : Nat) : (s.setFld a h l v).aicCore j = s.aicCore j := rfl
@[simp] theorem State.con_setFld (a h l v : Nat) (j : Nat) : (s.setFld a h l v).con j = s.con j := rfl
@[simp] theorem State.stream_setFld (a h l v : Nat) (j : Nat) : (s.setFld a h l v).stream j = s.stream j := rfl
@[simp] theorem State.core_setFld (a h l v : Nat) (j : Nat) : (s.setFld a h l v).core j = s.core j := rfl
@[simp] theorem State.greg_setFld (a h l v : Nat) (j : Nat) (r : Nat) : (s.setFld a h l v).greg j r = s.greg j r := rfl
@[simp] theorem State.cv_setFld (a h l v : Nat) (j : Nat) : (s.setFld a h l v).cv j = s.cv j := rfl
@[simp] theorem State.head_setFld (a h l v : Nat) (j : Nat) : (s.setFld a h l v).head j = s.head j := rfl
@[simp] theorem State.host_setFld (a h l v : Nat) (j : Nat) : (s.setFld a h l v).host j = s.host j := rfl
@[simp] theorem State.abortEngine_setFld (a h l v : Nat) (j : Nat) : (s.setFld a h l v).abortEngine j = s.abortEngine j := rfl
@[simp] theorem State.ctx_setFld (a h l v : Nat) (j : Nat) : (s.setFld a h l v).ctx j = s.ctx j := rfl
@[simp] theorem State.dmaCh_setFld (a h l v : Nat) (j : Nat) : (s.setFld a h l v).dmaCh j = s.dmaCh j := rfl
@[simp] theorem State.entry_setFld (a h l v : Nat) (j : Nat) : (s.setFld a h l v).entry j = s.entry j := rfl
@[simp] theorem State.spn_setFld (a h l v : Nat) (j : Nat) : (s.setFld a h l v).spn j = s.spn j := rfl
@[simp] theorem State.timer_setFld (a h l v : Nat) (j : Nat) : (s.setFld a h l v).timer j = s.timer j := rfl
@[simp] theorem State.pair_setFld (a h l v : Nat) (j : Nat) : (s.setFld a h l v).pair j = s.pair j := rfl
@[simp] theorem State.group_setFld (a h l v : Nat) (j : Nat) : (s.setFld a h l v).group j = s.group j := rfl
@[simp] theorem State.comparator_setFld (a h l v : Nat) (j : Nat) : (s.setFld a h l v).comparator j = s.comparator j := rfl
@[simp] theorem State.fclkOn_setFld (a h l v : Nat) : (s.setFld a h l v).fclkOn = s.fclkOn := rfl
@[simp] theorem State.mediaOn_setFld (a h l v : Nat) : (s.setFld a h l v).mediaOn = s.mediaOn := rfl
@[simp] theorem State.sectorOn_setFld (a h l v : Nat) (j : Nat) : (s.setFld a h l v).sectorOn j = s.sectorOn j := rfl
@[simp] theorem State.coreOn_setFld (a h l v : Nat) (j : Nat) : (s.setFld a h l v).coreOn j = s.coreOn j := rfl
@[simp] theorem State.firmwareOn_setFld (a h l v : Nat) : (s.setFld a h l v).firmwareOn = s.firmwareOn := rfl
@[simp] theorem State.composerOn_setFld (a h l v : Nat) : (s.setFld a h l v).composerOn = s.composerOn := rfl

/-! ### setBit -/

@[simp] theorem State.setBit_pending (a i : Nat) (b : Bool) : (s.setBit a i b).pending = s.pending := rfl
@[simp] theorem State.setBit_freeCtr (a i : Nat) (b : Bool) : (s.setBit a i b).freeCtr = s.freeCtr := rfl
@[simp] theorem State.setBit_cyc (a i : Nat) (b : Bool) : (s.setBit a i b).cyc = s.cyc := rfl
@[simp] theorem State.setBit_pulses (a i : Nat) (b : Bool) : (s.setBit a i b).pulses = s.pulses := rfl
@[simp] theorem State.setBit_now (a i : Nat) (b : Bool) : (s.setBit a i b).now = s.now := rfl
@[simp] theorem State.setBit_devTimer (a i : Nat) (b : Bool) : (s.setBit a i b).devTimer = s.devTimer := rfl
@[simp] theorem State.setBit_resp (a i : Nat) (b : Bool) : (s.setBit a i b).resp = s.resp := rfl
@[simp] theorem State.setBit_shadow (a i : Nat) (b : Bool) : (s.setBit a i b).shadow = s.shadow := rfl
@[simp] theorem State.setBit_sys (a i : Nat) (b : Bool) : (s.setBit a i b).sys = s.sys := rfl
@[simp] theorem State.setBit_log (a i : Nat) (b : Bool) : (s.setBit a i b).log = s.log := rfl
@[simp] theorem State.setBit_spindles (a i : Nat) (b : Bool) : (s.setBit a i b).spindles = s.spindles := rfl
@[simp] theorem State.setBit_encoders (a i : Nat) (b : Bool) : (s.setBit a i b).encoders = s.encoders := rfl
@[simp] theorem State.setBit_encSince (a i : Nat) (b : Bool) : (s.setBit a i b).encSince = s.encSince := rfl
@[simp] theorem State.setBit_timers (a i : Nat) (b : Bool) : (s.setBit a i b).timers = s.timers := rfl
@[simp] theorem State.setBit_ptp (a i : Nat) (b : Bool) : (s.setBit a i b).ptp = s.ptp := rfl
@[simp] theorem State.setBit_adcs (a i : Nat) (b : Bool) : (s.setBit a i b).adcs = s.adcs := rfl
@[simp] theorem State.setBit_channels (a i : Nat) (b : Bool) : (s.setBit a i b).channels = s.channels := rfl
@[simp] theorem State.setBit_comparators (a i : Nat) (b : Bool) : (s.setBit a i b).comparators = s.comparators := rfl
@[simp] theorem State.setBit_demods (a i : Nat) (b : Bool) : (s.setBit a i b).demods = s.demods := rfl
@[simp] theorem State.setBit_sectors (a i : Nat) (b : Bool) : (s.setBit a i b).sectors = s.sectors := rfl
@[simp] theorem State.setBit_pairs (a i : Nat) (b : Bool) : (s.setBit a i b).pairs = s.pairs := rfl
@[simp] theorem State.setBit_groups (a i : Nat) (b : Bool) : (s.setBit a i b).groups = s.groups := rfl
@[simp] theorem State.setBit_tripPins (a i : Nat) (b : Bool) : (s.setBit a i b).tripPins = s.tripPins := rfl
@[simp] theorem State.setBit_zonePins (a i : Nat) (b : Bool) : (s.setBit a i b).zonePins = s.zonePins := rfl
@[simp] theorem State.setBit_tripAll (a i : Nat) (b : Bool) : (s.setBit a i b).tripAll = s.tripAll := rfl
@[simp] theorem State.setBit_plate (a i : Nat) (b : Bool) : (s.setBit a i b).plate = s.plate := rfl
@[simp] theorem State.setBit_loops (a i : Nat) (b : Bool) : (s.setBit a i b).loops = s.loops := rfl
@[simp] theorem State.setBit_place (a i : Nat) (b : Bool) : (s.setBit a i b).place = s.place := rfl
@[simp] theorem State.setBit_cores (a i : Nat) (b : Bool) : (s.setBit a i b).cores = s.cores := rfl
@[simp] theorem State.setBit_aic (a i : Nat) (b : Bool) : (s.setBit a i b).aic = s.aic := rfl
@[simp] theorem State.setBit_dma (a i : Nat) (b : Bool) : (s.setBit a i b).dma = s.dma := rfl
@[simp] theorem State.setBit_dmaLast (a i : Nat) (b : Bool) : (s.setBit a i b).dmaLast = s.dmaLast := rfl
@[simp] theorem State.setBit_outbound (a i : Nat) (b : Bool) : (s.setBit a i b).outbound = s.outbound := rfl
@[simp] theorem State.setBit_posted (a i : Nat) (b : Bool) : (s.setBit a i b).posted = s.posted := rfl
@[simp] theorem State.setBit_consoles (a i : Nat) (b : Bool) : (s.setBit a i b).consoles = s.consoles := rfl
@[simp] theorem State.setBit_conJobs (a i : Nat) (b : Bool) : (s.setBit a i b).conJobs = s.conJobs := rfl
@[simp] theorem State.setBit_pipes (a i : Nat) (b : Bool) : (s.setBit a i b).pipes = s.pipes := rfl
@[simp] theorem State.setBit_streams (a i : Nat) (b : Bool) : (s.setBit a i b).streams = s.streams := rfl
@[simp] theorem State.setBit_liveLines (a i : Nat) (b : Bool) : (s.setBit a i b).liveLines = s.liveLines := rfl
@[simp] theorem State.setBit_active (a i : Nat) (b : Bool) : (s.setBit a i b).active = s.active := rfl
@[simp] theorem State.setBit_mover (a i : Nat) (b : Bool) : (s.setBit a i b).mover = s.mover := rfl
@[simp] theorem State.setBit_heads (a i : Nat) (b : Bool) : (s.setBit a i b).heads = s.heads := rfl
@[simp] theorem State.setBit_audio (a i : Nat) (b : Bool) : (s.setBit a i b).audio = s.audio := rfl
@[simp] theorem State.setBit_bankSupply (a i : Nat) (b : Bool) : (s.setBit a i b).bankSupply = s.bankSupply := rfl
@[simp] theorem State.setBit_keepers (a i : Nat) (b : Bool) : (s.setBit a i b).keepers = s.keepers := rfl
@[simp] theorem State.setBit_sec (a i : Nat) (b : Bool) : (s.setBit a i b).sec = s.sec := rfl
@[simp] theorem State.setBit_cvs (a i : Nat) (b : Bool) : (s.setBit a i b).cvs = s.cvs := rfl
@[simp] theorem State.setBit_hosts (a i : Nat) (b : Bool) : (s.setBit a i b).hosts = s.hosts := rfl
@[simp] theorem State.setBit_dict (a i : Nat) (b : Bool) : (s.setBit a i b).dict = s.dict := rfl
@[simp] theorem State.setBit_canNode (a i : Nat) (b : Bool) : (s.setBit a i b).canNode = s.canNode := rfl
@[simp] theorem State.setBit_cans (a i : Nat) (b : Bool) : (s.setBit a i b).cans = s.cans := rfl
@[simp] theorem State.setBit_macs (a i : Nat) (b : Bool) : (s.setBit a i b).macs = s.macs := rfl
@[simp] theorem State.setBit_aborts (a i : Nat) (b : Bool) : (s.setBit a i b).aborts = s.aborts := rfl
@[simp] theorem State.setBit_iotlb (a i : Nat) (b : Bool) : (s.setBit a i b).iotlb = s.iotlb := rfl
@[simp] theorem State.setBit_sbOld (a i : Nat) (b : Bool) : (s.setBit a i b).sbOld = s.sbOld := rfl
@[simp] theorem State.setBit_trainTries (a i : Nat) (b : Bool) : (s.setBit a i b).trainTries = s.trainTries := rfl
@[simp] theorem State.setBit_refreshFast (a i : Nat) (b : Bool) : (s.setBit a i b).refreshFast = s.refreshFast := rfl
@[simp] theorem State.setBit_dramTemp (a i : Nat) (b : Bool) : (s.setBit a i b).dramTemp = s.dramTemp := rfl
@[simp] theorem State.setBit_macQueues (a i : Nat) (b : Bool) : (s.setBit a i b).macQueues = s.macQueues := rfl
@[simp] theorem State.setBit_busyPins (a i : Nat) (b : Bool) : (s.setBit a i b).busyPins = s.busyPins := rfl
@[simp] theorem State.setBit_tsClaimed (a i : Nat) (b : Bool) : (s.setBit a i b).tsClaimed = s.tsClaimed := rfl
@[simp] theorem State.setBit_mem (a i : Nat) (b : Bool) : (s.setBit a i b).mem = s.mem := rfl
@[simp] theorem State.setBit_nor (a i : Nat) (b : Bool) : (s.setBit a i b).nor = s.nor := rfl
@[simp] theorem State.setBit_poison (a i : Nat) (b : Bool) : (s.setBit a i b).poison = s.poison := rfl
@[simp] theorem State.setBit_checks (a i : Nat) (b : Bool) : (s.setBit a i b).checks = s.checks := rfl
@[simp] theorem State.byte_setBit (a i : Nat) (b : Bool) (a0 : Nat) : (s.setBit a i b).byte a0 = s.byte a0 := rfl
@[simp] theorem State.norByte_setBit (a i : Nat) (b : Bool) (a0 : Nat) : (s.setBit a i b).norByte a0 = s.norByte a0 := rfl
@[simp] theorem State.adc_setBit (a i : Nat) (b : Bool) (j : Nat) : (s.setBit a i b).adc j = s.adc j := rfl
@[simp] theorem State.chan_setBit (a i : Nat) (b : Bool) (j : Nat) : (s.setBit a i b).chan j = s.chan j := rfl
@[simp] theorem State.demod_setBit (a i : Nat) (b : Bool) (j : Nat) : (s.setBit a i b).demod j = s.demod j := rfl
@[simp] theorem State.sector_setBit (a i : Nat) (b : Bool) (j : Nat) : (s.setBit a i b).sector j = s.sector j := rfl
@[simp] theorem State.aicCore_setBit (a i : Nat) (b : Bool) (j : Nat) : (s.setBit a i b).aicCore j = s.aicCore j := rfl
@[simp] theorem State.con_setBit (a i : Nat) (b : Bool) (j : Nat) : (s.setBit a i b).con j = s.con j := rfl
@[simp] theorem State.stream_setBit (a i : Nat) (b : Bool) (j : Nat) : (s.setBit a i b).stream j = s.stream j := rfl
@[simp] theorem State.core_setBit (a i : Nat) (b : Bool) (j : Nat) : (s.setBit a i b).core j = s.core j := rfl
@[simp] theorem State.greg_setBit (a i : Nat) (b : Bool) (j : Nat) (r : Nat) : (s.setBit a i b).greg j r = s.greg j r := rfl
@[simp] theorem State.cv_setBit (a i : Nat) (b : Bool) (j : Nat) : (s.setBit a i b).cv j = s.cv j := rfl
@[simp] theorem State.head_setBit (a i : Nat) (b : Bool) (j : Nat) : (s.setBit a i b).head j = s.head j := rfl
@[simp] theorem State.host_setBit (a i : Nat) (b : Bool) (j : Nat) : (s.setBit a i b).host j = s.host j := rfl
@[simp] theorem State.abortEngine_setBit (a i : Nat) (b : Bool) (j : Nat) : (s.setBit a i b).abortEngine j = s.abortEngine j := rfl
@[simp] theorem State.ctx_setBit (a i : Nat) (b : Bool) (j : Nat) : (s.setBit a i b).ctx j = s.ctx j := rfl
@[simp] theorem State.dmaCh_setBit (a i : Nat) (b : Bool) (j : Nat) : (s.setBit a i b).dmaCh j = s.dmaCh j := rfl
@[simp] theorem State.entry_setBit (a i : Nat) (b : Bool) (j : Nat) : (s.setBit a i b).entry j = s.entry j := rfl
@[simp] theorem State.spn_setBit (a i : Nat) (b : Bool) (j : Nat) : (s.setBit a i b).spn j = s.spn j := rfl
@[simp] theorem State.timer_setBit (a i : Nat) (b : Bool) (j : Nat) : (s.setBit a i b).timer j = s.timer j := rfl
@[simp] theorem State.pair_setBit (a i : Nat) (b : Bool) (j : Nat) : (s.setBit a i b).pair j = s.pair j := rfl
@[simp] theorem State.group_setBit (a i : Nat) (b : Bool) (j : Nat) : (s.setBit a i b).group j = s.group j := rfl
@[simp] theorem State.comparator_setBit (a i : Nat) (b : Bool) (j : Nat) : (s.setBit a i b).comparator j = s.comparator j := rfl
@[simp] theorem State.fclkOn_setBit (a i : Nat) (b : Bool) : (s.setBit a i b).fclkOn = s.fclkOn := rfl
@[simp] theorem State.mediaOn_setBit (a i : Nat) (b : Bool) : (s.setBit a i b).mediaOn = s.mediaOn := rfl
@[simp] theorem State.sectorOn_setBit (a i : Nat) (b : Bool) (j : Nat) : (s.setBit a i b).sectorOn j = s.sectorOn j := rfl
@[simp] theorem State.coreOn_setBit (a i : Nat) (b : Bool) (j : Nat) : (s.setBit a i b).coreOn j = s.coreOn j := rfl
@[simp] theorem State.firmwareOn_setBit (a i : Nat) (b : Bool) : (s.setBit a i b).firmwareOn = s.firmwareOn := rfl
@[simp] theorem State.composerOn_setBit (a i : Nat) (b : Bool) : (s.setBit a i b).composerOn = s.composerOn := rfl

/-! ### setByte -/

@[simp] theorem State.setByte_pending (a : Nat) (v : Byte) : (s.setByte a v).pending = s.pending := rfl
@[simp] theorem State.setByte_freeCtr (a : Nat) (v : Byte) : (s.setByte a v).freeCtr = s.freeCtr := rfl
@[simp] theorem State.setByte_cyc (a : Nat) (v : Byte) : (s.setByte a v).cyc = s.cyc := rfl
@[simp] theorem State.setByte_pulses (a : Nat) (v : Byte) : (s.setByte a v).pulses = s.pulses := rfl
@[simp] theorem State.setByte_now (a : Nat) (v : Byte) : (s.setByte a v).now = s.now := rfl
@[simp] theorem State.setByte_devTimer (a : Nat) (v : Byte) : (s.setByte a v).devTimer = s.devTimer := rfl
@[simp] theorem State.setByte_regs (a : Nat) (v : Byte) : (s.setByte a v).regs = s.regs := rfl
@[simp] theorem State.setByte_resp (a : Nat) (v : Byte) : (s.setByte a v).resp = s.resp := rfl
@[simp] theorem State.setByte_shadow (a : Nat) (v : Byte) : (s.setByte a v).shadow = s.shadow := rfl
@[simp] theorem State.setByte_sys (a : Nat) (v : Byte) : (s.setByte a v).sys = s.sys := rfl
@[simp] theorem State.setByte_log (a : Nat) (v : Byte) : (s.setByte a v).log = s.log := rfl
@[simp] theorem State.setByte_spindles (a : Nat) (v : Byte) : (s.setByte a v).spindles = s.spindles := rfl
@[simp] theorem State.setByte_encoders (a : Nat) (v : Byte) : (s.setByte a v).encoders = s.encoders := rfl
@[simp] theorem State.setByte_encSince (a : Nat) (v : Byte) : (s.setByte a v).encSince = s.encSince := rfl
@[simp] theorem State.setByte_timers (a : Nat) (v : Byte) : (s.setByte a v).timers = s.timers := rfl
@[simp] theorem State.setByte_ptp (a : Nat) (v : Byte) : (s.setByte a v).ptp = s.ptp := rfl
@[simp] theorem State.setByte_adcs (a : Nat) (v : Byte) : (s.setByte a v).adcs = s.adcs := rfl
@[simp] theorem State.setByte_channels (a : Nat) (v : Byte) : (s.setByte a v).channels = s.channels := rfl
@[simp] theorem State.setByte_comparators (a : Nat) (v : Byte) : (s.setByte a v).comparators = s.comparators := rfl
@[simp] theorem State.setByte_demods (a : Nat) (v : Byte) : (s.setByte a v).demods = s.demods := rfl
@[simp] theorem State.setByte_sectors (a : Nat) (v : Byte) : (s.setByte a v).sectors = s.sectors := rfl
@[simp] theorem State.setByte_pairs (a : Nat) (v : Byte) : (s.setByte a v).pairs = s.pairs := rfl
@[simp] theorem State.setByte_groups (a : Nat) (v : Byte) : (s.setByte a v).groups = s.groups := rfl
@[simp] theorem State.setByte_tripPins (a : Nat) (v : Byte) : (s.setByte a v).tripPins = s.tripPins := rfl
@[simp] theorem State.setByte_zonePins (a : Nat) (v : Byte) : (s.setByte a v).zonePins = s.zonePins := rfl
@[simp] theorem State.setByte_tripAll (a : Nat) (v : Byte) : (s.setByte a v).tripAll = s.tripAll := rfl
@[simp] theorem State.setByte_plate (a : Nat) (v : Byte) : (s.setByte a v).plate = s.plate := rfl
@[simp] theorem State.setByte_loops (a : Nat) (v : Byte) : (s.setByte a v).loops = s.loops := rfl
@[simp] theorem State.setByte_place (a : Nat) (v : Byte) : (s.setByte a v).place = s.place := rfl
@[simp] theorem State.setByte_cores (a : Nat) (v : Byte) : (s.setByte a v).cores = s.cores := rfl
@[simp] theorem State.setByte_aic (a : Nat) (v : Byte) : (s.setByte a v).aic = s.aic := rfl
@[simp] theorem State.setByte_dma (a : Nat) (v : Byte) : (s.setByte a v).dma = s.dma := rfl
@[simp] theorem State.setByte_dmaLast (a : Nat) (v : Byte) : (s.setByte a v).dmaLast = s.dmaLast := rfl
@[simp] theorem State.setByte_outbound (a : Nat) (v : Byte) : (s.setByte a v).outbound = s.outbound := rfl
@[simp] theorem State.setByte_posted (a : Nat) (v : Byte) : (s.setByte a v).posted = s.posted := rfl
@[simp] theorem State.setByte_consoles (a : Nat) (v : Byte) : (s.setByte a v).consoles = s.consoles := rfl
@[simp] theorem State.setByte_conJobs (a : Nat) (v : Byte) : (s.setByte a v).conJobs = s.conJobs := rfl
@[simp] theorem State.setByte_pipes (a : Nat) (v : Byte) : (s.setByte a v).pipes = s.pipes := rfl
@[simp] theorem State.setByte_streams (a : Nat) (v : Byte) : (s.setByte a v).streams = s.streams := rfl
@[simp] theorem State.setByte_liveLines (a : Nat) (v : Byte) : (s.setByte a v).liveLines = s.liveLines := rfl
@[simp] theorem State.setByte_active (a : Nat) (v : Byte) : (s.setByte a v).active = s.active := rfl
@[simp] theorem State.setByte_mover (a : Nat) (v : Byte) : (s.setByte a v).mover = s.mover := rfl
@[simp] theorem State.setByte_heads (a : Nat) (v : Byte) : (s.setByte a v).heads = s.heads := rfl
@[simp] theorem State.setByte_audio (a : Nat) (v : Byte) : (s.setByte a v).audio = s.audio := rfl
@[simp] theorem State.setByte_bankSupply (a : Nat) (v : Byte) : (s.setByte a v).bankSupply = s.bankSupply := rfl
@[simp] theorem State.setByte_keepers (a : Nat) (v : Byte) : (s.setByte a v).keepers = s.keepers := rfl
@[simp] theorem State.setByte_sec (a : Nat) (v : Byte) : (s.setByte a v).sec = s.sec := rfl
@[simp] theorem State.setByte_cvs (a : Nat) (v : Byte) : (s.setByte a v).cvs = s.cvs := rfl
@[simp] theorem State.setByte_hosts (a : Nat) (v : Byte) : (s.setByte a v).hosts = s.hosts := rfl
@[simp] theorem State.setByte_dict (a : Nat) (v : Byte) : (s.setByte a v).dict = s.dict := rfl
@[simp] theorem State.setByte_canNode (a : Nat) (v : Byte) : (s.setByte a v).canNode = s.canNode := rfl
@[simp] theorem State.setByte_cans (a : Nat) (v : Byte) : (s.setByte a v).cans = s.cans := rfl
@[simp] theorem State.setByte_macs (a : Nat) (v : Byte) : (s.setByte a v).macs = s.macs := rfl
@[simp] theorem State.setByte_aborts (a : Nat) (v : Byte) : (s.setByte a v).aborts = s.aborts := rfl
@[simp] theorem State.setByte_iotlb (a : Nat) (v : Byte) : (s.setByte a v).iotlb = s.iotlb := rfl
@[simp] theorem State.setByte_sbOld (a : Nat) (v : Byte) : (s.setByte a v).sbOld = s.sbOld := rfl
@[simp] theorem State.setByte_trainTries (a : Nat) (v : Byte) : (s.setByte a v).trainTries = s.trainTries := rfl
@[simp] theorem State.setByte_refreshFast (a : Nat) (v : Byte) : (s.setByte a v).refreshFast = s.refreshFast := rfl
@[simp] theorem State.setByte_dramTemp (a : Nat) (v : Byte) : (s.setByte a v).dramTemp = s.dramTemp := rfl
@[simp] theorem State.setByte_macQueues (a : Nat) (v : Byte) : (s.setByte a v).macQueues = s.macQueues := rfl
@[simp] theorem State.setByte_busyPins (a : Nat) (v : Byte) : (s.setByte a v).busyPins = s.busyPins := rfl
@[simp] theorem State.setByte_tsClaimed (a : Nat) (v : Byte) : (s.setByte a v).tsClaimed = s.tsClaimed := rfl
@[simp] theorem State.setByte_nor (a : Nat) (v : Byte) : (s.setByte a v).nor = s.nor := rfl
@[simp] theorem State.setByte_poison (a : Nat) (v : Byte) : (s.setByte a v).poison = s.poison := rfl
@[simp] theorem State.setByte_checks (a : Nat) (v : Byte) : (s.setByte a v).checks = s.checks := rfl
@[simp] theorem State.reg_setByte (a : Nat) (v : Byte) (a0 : Nat) : (s.setByte a v).reg a0 = s.reg a0 := rfl
@[simp] theorem State.fld_setByte (a : Nat) (v : Byte) (a0 : Nat) (h0 : Nat) (l0 : Nat) : (s.setByte a v).fld a0 h0 l0 = s.fld a0 h0 l0 := rfl
@[simp] theorem State.bit_setByte (a : Nat) (v : Byte) (a0 : Nat) (i0 : Nat) : (s.setByte a v).bit a0 i0 = s.bit a0 i0 := rfl
@[simp] theorem State.norByte_setByte (a : Nat) (v : Byte) (a0 : Nat) : (s.setByte a v).norByte a0 = s.norByte a0 := rfl
@[simp] theorem State.adc_setByte (a : Nat) (v : Byte) (j : Nat) : (s.setByte a v).adc j = s.adc j := rfl
@[simp] theorem State.chan_setByte (a : Nat) (v : Byte) (j : Nat) : (s.setByte a v).chan j = s.chan j := rfl
@[simp] theorem State.demod_setByte (a : Nat) (v : Byte) (j : Nat) : (s.setByte a v).demod j = s.demod j := rfl
@[simp] theorem State.sector_setByte (a : Nat) (v : Byte) (j : Nat) : (s.setByte a v).sector j = s.sector j := rfl
@[simp] theorem State.aicCore_setByte (a : Nat) (v : Byte) (j : Nat) : (s.setByte a v).aicCore j = s.aicCore j := rfl
@[simp] theorem State.con_setByte (a : Nat) (v : Byte) (j : Nat) : (s.setByte a v).con j = s.con j := rfl
@[simp] theorem State.stream_setByte (a : Nat) (v : Byte) (j : Nat) : (s.setByte a v).stream j = s.stream j := rfl
@[simp] theorem State.core_setByte (a : Nat) (v : Byte) (j : Nat) : (s.setByte a v).core j = s.core j := rfl
@[simp] theorem State.greg_setByte (a : Nat) (v : Byte) (j : Nat) (r : Nat) : (s.setByte a v).greg j r = s.greg j r := rfl
@[simp] theorem State.cv_setByte (a : Nat) (v : Byte) (j : Nat) : (s.setByte a v).cv j = s.cv j := rfl
@[simp] theorem State.head_setByte (a : Nat) (v : Byte) (j : Nat) : (s.setByte a v).head j = s.head j := rfl
@[simp] theorem State.host_setByte (a : Nat) (v : Byte) (j : Nat) : (s.setByte a v).host j = s.host j := rfl
@[simp] theorem State.abortEngine_setByte (a : Nat) (v : Byte) (j : Nat) : (s.setByte a v).abortEngine j = s.abortEngine j := rfl
@[simp] theorem State.ctx_setByte (a : Nat) (v : Byte) (j : Nat) : (s.setByte a v).ctx j = s.ctx j := rfl
@[simp] theorem State.dmaCh_setByte (a : Nat) (v : Byte) (j : Nat) : (s.setByte a v).dmaCh j = s.dmaCh j := rfl
@[simp] theorem State.entry_setByte (a : Nat) (v : Byte) (j : Nat) : (s.setByte a v).entry j = s.entry j := rfl
@[simp] theorem State.spn_setByte (a : Nat) (v : Byte) (j : Nat) : (s.setByte a v).spn j = s.spn j := rfl
@[simp] theorem State.timer_setByte (a : Nat) (v : Byte) (j : Nat) : (s.setByte a v).timer j = s.timer j := rfl
@[simp] theorem State.pair_setByte (a : Nat) (v : Byte) (j : Nat) : (s.setByte a v).pair j = s.pair j := rfl
@[simp] theorem State.group_setByte (a : Nat) (v : Byte) (j : Nat) : (s.setByte a v).group j = s.group j := rfl
@[simp] theorem State.comparator_setByte (a : Nat) (v : Byte) (j : Nat) : (s.setByte a v).comparator j = s.comparator j := rfl
@[simp] theorem State.fclkOn_setByte (a : Nat) (v : Byte) : (s.setByte a v).fclkOn = s.fclkOn := rfl
@[simp] theorem State.mediaOn_setByte (a : Nat) (v : Byte) : (s.setByte a v).mediaOn = s.mediaOn := rfl
@[simp] theorem State.sectorOn_setByte (a : Nat) (v : Byte) (j : Nat) : (s.setByte a v).sectorOn j = s.sectorOn j := rfl
@[simp] theorem State.coreOn_setByte (a : Nat) (v : Byte) (j : Nat) : (s.setByte a v).coreOn j = s.coreOn j := rfl
@[simp] theorem State.firmwareOn_setByte (a : Nat) (v : Byte) : (s.setByte a v).firmwareOn = s.firmwareOn := rfl
@[simp] theorem State.composerOn_setByte (a : Nat) (v : Byte) : (s.setByte a v).composerOn = s.composerOn := rfl

/-! ### setNorByte -/

@[simp] theorem State.setNorByte_pending (a : Nat) (v : Byte) : (s.setNorByte a v).pending = s.pending := rfl
@[simp] theorem State.setNorByte_freeCtr (a : Nat) (v : Byte) : (s.setNorByte a v).freeCtr = s.freeCtr := rfl
@[simp] theorem State.setNorByte_cyc (a : Nat) (v : Byte) : (s.setNorByte a v).cyc = s.cyc := rfl
@[simp] theorem State.setNorByte_pulses (a : Nat) (v : Byte) : (s.setNorByte a v).pulses = s.pulses := rfl
@[simp] theorem State.setNorByte_now (a : Nat) (v : Byte) : (s.setNorByte a v).now = s.now := rfl
@[simp] theorem State.setNorByte_devTimer (a : Nat) (v : Byte) : (s.setNorByte a v).devTimer = s.devTimer := rfl
@[simp] theorem State.setNorByte_regs (a : Nat) (v : Byte) : (s.setNorByte a v).regs = s.regs := rfl
@[simp] theorem State.setNorByte_resp (a : Nat) (v : Byte) : (s.setNorByte a v).resp = s.resp := rfl
@[simp] theorem State.setNorByte_shadow (a : Nat) (v : Byte) : (s.setNorByte a v).shadow = s.shadow := rfl
@[simp] theorem State.setNorByte_sys (a : Nat) (v : Byte) : (s.setNorByte a v).sys = s.sys := rfl
@[simp] theorem State.setNorByte_log (a : Nat) (v : Byte) : (s.setNorByte a v).log = s.log := rfl
@[simp] theorem State.setNorByte_spindles (a : Nat) (v : Byte) : (s.setNorByte a v).spindles = s.spindles := rfl
@[simp] theorem State.setNorByte_encoders (a : Nat) (v : Byte) : (s.setNorByte a v).encoders = s.encoders := rfl
@[simp] theorem State.setNorByte_encSince (a : Nat) (v : Byte) : (s.setNorByte a v).encSince = s.encSince := rfl
@[simp] theorem State.setNorByte_timers (a : Nat) (v : Byte) : (s.setNorByte a v).timers = s.timers := rfl
@[simp] theorem State.setNorByte_ptp (a : Nat) (v : Byte) : (s.setNorByte a v).ptp = s.ptp := rfl
@[simp] theorem State.setNorByte_adcs (a : Nat) (v : Byte) : (s.setNorByte a v).adcs = s.adcs := rfl
@[simp] theorem State.setNorByte_channels (a : Nat) (v : Byte) : (s.setNorByte a v).channels = s.channels := rfl
@[simp] theorem State.setNorByte_comparators (a : Nat) (v : Byte) : (s.setNorByte a v).comparators = s.comparators := rfl
@[simp] theorem State.setNorByte_demods (a : Nat) (v : Byte) : (s.setNorByte a v).demods = s.demods := rfl
@[simp] theorem State.setNorByte_sectors (a : Nat) (v : Byte) : (s.setNorByte a v).sectors = s.sectors := rfl
@[simp] theorem State.setNorByte_pairs (a : Nat) (v : Byte) : (s.setNorByte a v).pairs = s.pairs := rfl
@[simp] theorem State.setNorByte_groups (a : Nat) (v : Byte) : (s.setNorByte a v).groups = s.groups := rfl
@[simp] theorem State.setNorByte_tripPins (a : Nat) (v : Byte) : (s.setNorByte a v).tripPins = s.tripPins := rfl
@[simp] theorem State.setNorByte_zonePins (a : Nat) (v : Byte) : (s.setNorByte a v).zonePins = s.zonePins := rfl
@[simp] theorem State.setNorByte_tripAll (a : Nat) (v : Byte) : (s.setNorByte a v).tripAll = s.tripAll := rfl
@[simp] theorem State.setNorByte_plate (a : Nat) (v : Byte) : (s.setNorByte a v).plate = s.plate := rfl
@[simp] theorem State.setNorByte_loops (a : Nat) (v : Byte) : (s.setNorByte a v).loops = s.loops := rfl
@[simp] theorem State.setNorByte_place (a : Nat) (v : Byte) : (s.setNorByte a v).place = s.place := rfl
@[simp] theorem State.setNorByte_cores (a : Nat) (v : Byte) : (s.setNorByte a v).cores = s.cores := rfl
@[simp] theorem State.setNorByte_aic (a : Nat) (v : Byte) : (s.setNorByte a v).aic = s.aic := rfl
@[simp] theorem State.setNorByte_dma (a : Nat) (v : Byte) : (s.setNorByte a v).dma = s.dma := rfl
@[simp] theorem State.setNorByte_dmaLast (a : Nat) (v : Byte) : (s.setNorByte a v).dmaLast = s.dmaLast := rfl
@[simp] theorem State.setNorByte_outbound (a : Nat) (v : Byte) : (s.setNorByte a v).outbound = s.outbound := rfl
@[simp] theorem State.setNorByte_posted (a : Nat) (v : Byte) : (s.setNorByte a v).posted = s.posted := rfl
@[simp] theorem State.setNorByte_consoles (a : Nat) (v : Byte) : (s.setNorByte a v).consoles = s.consoles := rfl
@[simp] theorem State.setNorByte_conJobs (a : Nat) (v : Byte) : (s.setNorByte a v).conJobs = s.conJobs := rfl
@[simp] theorem State.setNorByte_pipes (a : Nat) (v : Byte) : (s.setNorByte a v).pipes = s.pipes := rfl
@[simp] theorem State.setNorByte_streams (a : Nat) (v : Byte) : (s.setNorByte a v).streams = s.streams := rfl
@[simp] theorem State.setNorByte_liveLines (a : Nat) (v : Byte) : (s.setNorByte a v).liveLines = s.liveLines := rfl
@[simp] theorem State.setNorByte_active (a : Nat) (v : Byte) : (s.setNorByte a v).active = s.active := rfl
@[simp] theorem State.setNorByte_mover (a : Nat) (v : Byte) : (s.setNorByte a v).mover = s.mover := rfl
@[simp] theorem State.setNorByte_heads (a : Nat) (v : Byte) : (s.setNorByte a v).heads = s.heads := rfl
@[simp] theorem State.setNorByte_audio (a : Nat) (v : Byte) : (s.setNorByte a v).audio = s.audio := rfl
@[simp] theorem State.setNorByte_bankSupply (a : Nat) (v : Byte) : (s.setNorByte a v).bankSupply = s.bankSupply := rfl
@[simp] theorem State.setNorByte_keepers (a : Nat) (v : Byte) : (s.setNorByte a v).keepers = s.keepers := rfl
@[simp] theorem State.setNorByte_sec (a : Nat) (v : Byte) : (s.setNorByte a v).sec = s.sec := rfl
@[simp] theorem State.setNorByte_cvs (a : Nat) (v : Byte) : (s.setNorByte a v).cvs = s.cvs := rfl
@[simp] theorem State.setNorByte_hosts (a : Nat) (v : Byte) : (s.setNorByte a v).hosts = s.hosts := rfl
@[simp] theorem State.setNorByte_dict (a : Nat) (v : Byte) : (s.setNorByte a v).dict = s.dict := rfl
@[simp] theorem State.setNorByte_canNode (a : Nat) (v : Byte) : (s.setNorByte a v).canNode = s.canNode := rfl
@[simp] theorem State.setNorByte_cans (a : Nat) (v : Byte) : (s.setNorByte a v).cans = s.cans := rfl
@[simp] theorem State.setNorByte_macs (a : Nat) (v : Byte) : (s.setNorByte a v).macs = s.macs := rfl
@[simp] theorem State.setNorByte_aborts (a : Nat) (v : Byte) : (s.setNorByte a v).aborts = s.aborts := rfl
@[simp] theorem State.setNorByte_iotlb (a : Nat) (v : Byte) : (s.setNorByte a v).iotlb = s.iotlb := rfl
@[simp] theorem State.setNorByte_sbOld (a : Nat) (v : Byte) : (s.setNorByte a v).sbOld = s.sbOld := rfl
@[simp] theorem State.setNorByte_trainTries (a : Nat) (v : Byte) : (s.setNorByte a v).trainTries = s.trainTries := rfl
@[simp] theorem State.setNorByte_refreshFast (a : Nat) (v : Byte) : (s.setNorByte a v).refreshFast = s.refreshFast := rfl
@[simp] theorem State.setNorByte_dramTemp (a : Nat) (v : Byte) : (s.setNorByte a v).dramTemp = s.dramTemp := rfl
@[simp] theorem State.setNorByte_macQueues (a : Nat) (v : Byte) : (s.setNorByte a v).macQueues = s.macQueues := rfl
@[simp] theorem State.setNorByte_busyPins (a : Nat) (v : Byte) : (s.setNorByte a v).busyPins = s.busyPins := rfl
@[simp] theorem State.setNorByte_tsClaimed (a : Nat) (v : Byte) : (s.setNorByte a v).tsClaimed = s.tsClaimed := rfl
@[simp] theorem State.setNorByte_mem (a : Nat) (v : Byte) : (s.setNorByte a v).mem = s.mem := rfl
@[simp] theorem State.setNorByte_poison (a : Nat) (v : Byte) : (s.setNorByte a v).poison = s.poison := rfl
@[simp] theorem State.setNorByte_checks (a : Nat) (v : Byte) : (s.setNorByte a v).checks = s.checks := rfl
@[simp] theorem State.reg_setNorByte (a : Nat) (v : Byte) (a0 : Nat) : (s.setNorByte a v).reg a0 = s.reg a0 := rfl
@[simp] theorem State.fld_setNorByte (a : Nat) (v : Byte) (a0 : Nat) (h0 : Nat) (l0 : Nat) : (s.setNorByte a v).fld a0 h0 l0 = s.fld a0 h0 l0 := rfl
@[simp] theorem State.bit_setNorByte (a : Nat) (v : Byte) (a0 : Nat) (i0 : Nat) : (s.setNorByte a v).bit a0 i0 = s.bit a0 i0 := rfl
@[simp] theorem State.byte_setNorByte (a : Nat) (v : Byte) (a0 : Nat) : (s.setNorByte a v).byte a0 = s.byte a0 := rfl
@[simp] theorem State.adc_setNorByte (a : Nat) (v : Byte) (j : Nat) : (s.setNorByte a v).adc j = s.adc j := rfl
@[simp] theorem State.chan_setNorByte (a : Nat) (v : Byte) (j : Nat) : (s.setNorByte a v).chan j = s.chan j := rfl
@[simp] theorem State.demod_setNorByte (a : Nat) (v : Byte) (j : Nat) : (s.setNorByte a v).demod j = s.demod j := rfl
@[simp] theorem State.sector_setNorByte (a : Nat) (v : Byte) (j : Nat) : (s.setNorByte a v).sector j = s.sector j := rfl
@[simp] theorem State.aicCore_setNorByte (a : Nat) (v : Byte) (j : Nat) : (s.setNorByte a v).aicCore j = s.aicCore j := rfl
@[simp] theorem State.con_setNorByte (a : Nat) (v : Byte) (j : Nat) : (s.setNorByte a v).con j = s.con j := rfl
@[simp] theorem State.stream_setNorByte (a : Nat) (v : Byte) (j : Nat) : (s.setNorByte a v).stream j = s.stream j := rfl
@[simp] theorem State.core_setNorByte (a : Nat) (v : Byte) (j : Nat) : (s.setNorByte a v).core j = s.core j := rfl
@[simp] theorem State.greg_setNorByte (a : Nat) (v : Byte) (j : Nat) (r : Nat) : (s.setNorByte a v).greg j r = s.greg j r := rfl
@[simp] theorem State.cv_setNorByte (a : Nat) (v : Byte) (j : Nat) : (s.setNorByte a v).cv j = s.cv j := rfl
@[simp] theorem State.head_setNorByte (a : Nat) (v : Byte) (j : Nat) : (s.setNorByte a v).head j = s.head j := rfl
@[simp] theorem State.host_setNorByte (a : Nat) (v : Byte) (j : Nat) : (s.setNorByte a v).host j = s.host j := rfl
@[simp] theorem State.abortEngine_setNorByte (a : Nat) (v : Byte) (j : Nat) : (s.setNorByte a v).abortEngine j = s.abortEngine j := rfl
@[simp] theorem State.ctx_setNorByte (a : Nat) (v : Byte) (j : Nat) : (s.setNorByte a v).ctx j = s.ctx j := rfl
@[simp] theorem State.dmaCh_setNorByte (a : Nat) (v : Byte) (j : Nat) : (s.setNorByte a v).dmaCh j = s.dmaCh j := rfl
@[simp] theorem State.entry_setNorByte (a : Nat) (v : Byte) (j : Nat) : (s.setNorByte a v).entry j = s.entry j := rfl
@[simp] theorem State.spn_setNorByte (a : Nat) (v : Byte) (j : Nat) : (s.setNorByte a v).spn j = s.spn j := rfl
@[simp] theorem State.timer_setNorByte (a : Nat) (v : Byte) (j : Nat) : (s.setNorByte a v).timer j = s.timer j := rfl
@[simp] theorem State.pair_setNorByte (a : Nat) (v : Byte) (j : Nat) : (s.setNorByte a v).pair j = s.pair j := rfl
@[simp] theorem State.group_setNorByte (a : Nat) (v : Byte) (j : Nat) : (s.setNorByte a v).group j = s.group j := rfl
@[simp] theorem State.comparator_setNorByte (a : Nat) (v : Byte) (j : Nat) : (s.setNorByte a v).comparator j = s.comparator j := rfl
@[simp] theorem State.fclkOn_setNorByte (a : Nat) (v : Byte) : (s.setNorByte a v).fclkOn = s.fclkOn := rfl
@[simp] theorem State.mediaOn_setNorByte (a : Nat) (v : Byte) : (s.setNorByte a v).mediaOn = s.mediaOn := rfl
@[simp] theorem State.sectorOn_setNorByte (a : Nat) (v : Byte) (j : Nat) : (s.setNorByte a v).sectorOn j = s.sectorOn j := rfl
@[simp] theorem State.coreOn_setNorByte (a : Nat) (v : Byte) (j : Nat) : (s.setNorByte a v).coreOn j = s.coreOn j := rfl
@[simp] theorem State.firmwareOn_setNorByte (a : Nat) (v : Byte) : (s.setNorByte a v).firmwareOn = s.firmwareOn := rfl
@[simp] theorem State.composerOn_setNorByte (a : Nat) (v : Byte) : (s.setNorByte a v).composerOn = s.composerOn := rfl

/-! ### setAdc -/

@[simp] theorem State.setAdc_pending (n : Nat) (x : Adc) : (s.setAdc n x).pending = s.pending := rfl
@[simp] theorem State.setAdc_freeCtr (n : Nat) (x : Adc) : (s.setAdc n x).freeCtr = s.freeCtr := rfl
@[simp] theorem State.setAdc_cyc (n : Nat) (x : Adc) : (s.setAdc n x).cyc = s.cyc := rfl
@[simp] theorem State.setAdc_pulses (n : Nat) (x : Adc) : (s.setAdc n x).pulses = s.pulses := rfl
@[simp] theorem State.setAdc_now (n : Nat) (x : Adc) : (s.setAdc n x).now = s.now := rfl
@[simp] theorem State.setAdc_devTimer (n : Nat) (x : Adc) : (s.setAdc n x).devTimer = s.devTimer := rfl
@[simp] theorem State.setAdc_regs (n : Nat) (x : Adc) : (s.setAdc n x).regs = s.regs := rfl
@[simp] theorem State.setAdc_resp (n : Nat) (x : Adc) : (s.setAdc n x).resp = s.resp := rfl
@[simp] theorem State.setAdc_shadow (n : Nat) (x : Adc) : (s.setAdc n x).shadow = s.shadow := rfl
@[simp] theorem State.setAdc_sys (n : Nat) (x : Adc) : (s.setAdc n x).sys = s.sys := rfl
@[simp] theorem State.setAdc_log (n : Nat) (x : Adc) : (s.setAdc n x).log = s.log := rfl
@[simp] theorem State.setAdc_spindles (n : Nat) (x : Adc) : (s.setAdc n x).spindles = s.spindles := rfl
@[simp] theorem State.setAdc_encoders (n : Nat) (x : Adc) : (s.setAdc n x).encoders = s.encoders := rfl
@[simp] theorem State.setAdc_encSince (n : Nat) (x : Adc) : (s.setAdc n x).encSince = s.encSince := rfl
@[simp] theorem State.setAdc_timers (n : Nat) (x : Adc) : (s.setAdc n x).timers = s.timers := rfl
@[simp] theorem State.setAdc_ptp (n : Nat) (x : Adc) : (s.setAdc n x).ptp = s.ptp := rfl
@[simp] theorem State.setAdc_channels (n : Nat) (x : Adc) : (s.setAdc n x).channels = s.channels := rfl
@[simp] theorem State.setAdc_comparators (n : Nat) (x : Adc) : (s.setAdc n x).comparators = s.comparators := rfl
@[simp] theorem State.setAdc_demods (n : Nat) (x : Adc) : (s.setAdc n x).demods = s.demods := rfl
@[simp] theorem State.setAdc_sectors (n : Nat) (x : Adc) : (s.setAdc n x).sectors = s.sectors := rfl
@[simp] theorem State.setAdc_pairs (n : Nat) (x : Adc) : (s.setAdc n x).pairs = s.pairs := rfl
@[simp] theorem State.setAdc_groups (n : Nat) (x : Adc) : (s.setAdc n x).groups = s.groups := rfl
@[simp] theorem State.setAdc_tripPins (n : Nat) (x : Adc) : (s.setAdc n x).tripPins = s.tripPins := rfl
@[simp] theorem State.setAdc_zonePins (n : Nat) (x : Adc) : (s.setAdc n x).zonePins = s.zonePins := rfl
@[simp] theorem State.setAdc_tripAll (n : Nat) (x : Adc) : (s.setAdc n x).tripAll = s.tripAll := rfl
@[simp] theorem State.setAdc_plate (n : Nat) (x : Adc) : (s.setAdc n x).plate = s.plate := rfl
@[simp] theorem State.setAdc_loops (n : Nat) (x : Adc) : (s.setAdc n x).loops = s.loops := rfl
@[simp] theorem State.setAdc_place (n : Nat) (x : Adc) : (s.setAdc n x).place = s.place := rfl
@[simp] theorem State.setAdc_cores (n : Nat) (x : Adc) : (s.setAdc n x).cores = s.cores := rfl
@[simp] theorem State.setAdc_aic (n : Nat) (x : Adc) : (s.setAdc n x).aic = s.aic := rfl
@[simp] theorem State.setAdc_dma (n : Nat) (x : Adc) : (s.setAdc n x).dma = s.dma := rfl
@[simp] theorem State.setAdc_dmaLast (n : Nat) (x : Adc) : (s.setAdc n x).dmaLast = s.dmaLast := rfl
@[simp] theorem State.setAdc_outbound (n : Nat) (x : Adc) : (s.setAdc n x).outbound = s.outbound := rfl
@[simp] theorem State.setAdc_posted (n : Nat) (x : Adc) : (s.setAdc n x).posted = s.posted := rfl
@[simp] theorem State.setAdc_consoles (n : Nat) (x : Adc) : (s.setAdc n x).consoles = s.consoles := rfl
@[simp] theorem State.setAdc_conJobs (n : Nat) (x : Adc) : (s.setAdc n x).conJobs = s.conJobs := rfl
@[simp] theorem State.setAdc_pipes (n : Nat) (x : Adc) : (s.setAdc n x).pipes = s.pipes := rfl
@[simp] theorem State.setAdc_streams (n : Nat) (x : Adc) : (s.setAdc n x).streams = s.streams := rfl
@[simp] theorem State.setAdc_liveLines (n : Nat) (x : Adc) : (s.setAdc n x).liveLines = s.liveLines := rfl
@[simp] theorem State.setAdc_active (n : Nat) (x : Adc) : (s.setAdc n x).active = s.active := rfl
@[simp] theorem State.setAdc_mover (n : Nat) (x : Adc) : (s.setAdc n x).mover = s.mover := rfl
@[simp] theorem State.setAdc_heads (n : Nat) (x : Adc) : (s.setAdc n x).heads = s.heads := rfl
@[simp] theorem State.setAdc_audio (n : Nat) (x : Adc) : (s.setAdc n x).audio = s.audio := rfl
@[simp] theorem State.setAdc_bankSupply (n : Nat) (x : Adc) : (s.setAdc n x).bankSupply = s.bankSupply := rfl
@[simp] theorem State.setAdc_keepers (n : Nat) (x : Adc) : (s.setAdc n x).keepers = s.keepers := rfl
@[simp] theorem State.setAdc_sec (n : Nat) (x : Adc) : (s.setAdc n x).sec = s.sec := rfl
@[simp] theorem State.setAdc_cvs (n : Nat) (x : Adc) : (s.setAdc n x).cvs = s.cvs := rfl
@[simp] theorem State.setAdc_hosts (n : Nat) (x : Adc) : (s.setAdc n x).hosts = s.hosts := rfl
@[simp] theorem State.setAdc_dict (n : Nat) (x : Adc) : (s.setAdc n x).dict = s.dict := rfl
@[simp] theorem State.setAdc_canNode (n : Nat) (x : Adc) : (s.setAdc n x).canNode = s.canNode := rfl
@[simp] theorem State.setAdc_cans (n : Nat) (x : Adc) : (s.setAdc n x).cans = s.cans := rfl
@[simp] theorem State.setAdc_macs (n : Nat) (x : Adc) : (s.setAdc n x).macs = s.macs := rfl
@[simp] theorem State.setAdc_aborts (n : Nat) (x : Adc) : (s.setAdc n x).aborts = s.aborts := rfl
@[simp] theorem State.setAdc_iotlb (n : Nat) (x : Adc) : (s.setAdc n x).iotlb = s.iotlb := rfl
@[simp] theorem State.setAdc_sbOld (n : Nat) (x : Adc) : (s.setAdc n x).sbOld = s.sbOld := rfl
@[simp] theorem State.setAdc_trainTries (n : Nat) (x : Adc) : (s.setAdc n x).trainTries = s.trainTries := rfl
@[simp] theorem State.setAdc_refreshFast (n : Nat) (x : Adc) : (s.setAdc n x).refreshFast = s.refreshFast := rfl
@[simp] theorem State.setAdc_dramTemp (n : Nat) (x : Adc) : (s.setAdc n x).dramTemp = s.dramTemp := rfl
@[simp] theorem State.setAdc_macQueues (n : Nat) (x : Adc) : (s.setAdc n x).macQueues = s.macQueues := rfl
@[simp] theorem State.setAdc_busyPins (n : Nat) (x : Adc) : (s.setAdc n x).busyPins = s.busyPins := rfl
@[simp] theorem State.setAdc_tsClaimed (n : Nat) (x : Adc) : (s.setAdc n x).tsClaimed = s.tsClaimed := rfl
@[simp] theorem State.setAdc_mem (n : Nat) (x : Adc) : (s.setAdc n x).mem = s.mem := rfl
@[simp] theorem State.setAdc_nor (n : Nat) (x : Adc) : (s.setAdc n x).nor = s.nor := rfl
@[simp] theorem State.setAdc_poison (n : Nat) (x : Adc) : (s.setAdc n x).poison = s.poison := rfl
@[simp] theorem State.setAdc_checks (n : Nat) (x : Adc) : (s.setAdc n x).checks = s.checks := rfl
@[simp] theorem State.reg_setAdc (n : Nat) (x : Adc) (a0 : Nat) : (s.setAdc n x).reg a0 = s.reg a0 := rfl
@[simp] theorem State.fld_setAdc (n : Nat) (x : Adc) (a0 : Nat) (h0 : Nat) (l0 : Nat) : (s.setAdc n x).fld a0 h0 l0 = s.fld a0 h0 l0 := rfl
@[simp] theorem State.bit_setAdc (n : Nat) (x : Adc) (a0 : Nat) (i0 : Nat) : (s.setAdc n x).bit a0 i0 = s.bit a0 i0 := rfl
@[simp] theorem State.byte_setAdc (n : Nat) (x : Adc) (a0 : Nat) : (s.setAdc n x).byte a0 = s.byte a0 := rfl
@[simp] theorem State.norByte_setAdc (n : Nat) (x : Adc) (a0 : Nat) : (s.setAdc n x).norByte a0 = s.norByte a0 := rfl
@[simp] theorem State.chan_setAdc (n : Nat) (x : Adc) (j : Nat) : (s.setAdc n x).chan j = s.chan j := rfl
@[simp] theorem State.demod_setAdc (n : Nat) (x : Adc) (j : Nat) : (s.setAdc n x).demod j = s.demod j := rfl
@[simp] theorem State.sector_setAdc (n : Nat) (x : Adc) (j : Nat) : (s.setAdc n x).sector j = s.sector j := rfl
@[simp] theorem State.aicCore_setAdc (n : Nat) (x : Adc) (j : Nat) : (s.setAdc n x).aicCore j = s.aicCore j := rfl
@[simp] theorem State.con_setAdc (n : Nat) (x : Adc) (j : Nat) : (s.setAdc n x).con j = s.con j := rfl
@[simp] theorem State.stream_setAdc (n : Nat) (x : Adc) (j : Nat) : (s.setAdc n x).stream j = s.stream j := rfl
@[simp] theorem State.core_setAdc (n : Nat) (x : Adc) (j : Nat) : (s.setAdc n x).core j = s.core j := rfl
@[simp] theorem State.greg_setAdc (n : Nat) (x : Adc) (j : Nat) (r : Nat) : (s.setAdc n x).greg j r = s.greg j r := rfl
@[simp] theorem State.cv_setAdc (n : Nat) (x : Adc) (j : Nat) : (s.setAdc n x).cv j = s.cv j := rfl
@[simp] theorem State.head_setAdc (n : Nat) (x : Adc) (j : Nat) : (s.setAdc n x).head j = s.head j := rfl
@[simp] theorem State.host_setAdc (n : Nat) (x : Adc) (j : Nat) : (s.setAdc n x).host j = s.host j := rfl
@[simp] theorem State.abortEngine_setAdc (n : Nat) (x : Adc) (j : Nat) : (s.setAdc n x).abortEngine j = s.abortEngine j := rfl
@[simp] theorem State.ctx_setAdc (n : Nat) (x : Adc) (j : Nat) : (s.setAdc n x).ctx j = s.ctx j := rfl
@[simp] theorem State.dmaCh_setAdc (n : Nat) (x : Adc) (j : Nat) : (s.setAdc n x).dmaCh j = s.dmaCh j := rfl
@[simp] theorem State.entry_setAdc (n : Nat) (x : Adc) (j : Nat) : (s.setAdc n x).entry j = s.entry j := rfl
@[simp] theorem State.spn_setAdc (n : Nat) (x : Adc) (j : Nat) : (s.setAdc n x).spn j = s.spn j := rfl
@[simp] theorem State.timer_setAdc (n : Nat) (x : Adc) (j : Nat) : (s.setAdc n x).timer j = s.timer j := rfl
@[simp] theorem State.pair_setAdc (n : Nat) (x : Adc) (j : Nat) : (s.setAdc n x).pair j = s.pair j := rfl
@[simp] theorem State.group_setAdc (n : Nat) (x : Adc) (j : Nat) : (s.setAdc n x).group j = s.group j := rfl
@[simp] theorem State.comparator_setAdc (n : Nat) (x : Adc) (j : Nat) : (s.setAdc n x).comparator j = s.comparator j := rfl
@[simp] theorem State.fclkOn_setAdc (n : Nat) (x : Adc) : (s.setAdc n x).fclkOn = s.fclkOn := rfl
@[simp] theorem State.mediaOn_setAdc (n : Nat) (x : Adc) : (s.setAdc n x).mediaOn = s.mediaOn := rfl
@[simp] theorem State.sectorOn_setAdc (n : Nat) (x : Adc) (j : Nat) : (s.setAdc n x).sectorOn j = s.sectorOn j := rfl
@[simp] theorem State.coreOn_setAdc (n : Nat) (x : Adc) (j : Nat) : (s.setAdc n x).coreOn j = s.coreOn j := rfl
@[simp] theorem State.firmwareOn_setAdc (n : Nat) (x : Adc) : (s.setAdc n x).firmwareOn = s.firmwareOn := rfl
@[simp] theorem State.composerOn_setAdc (n : Nat) (x : Adc) : (s.setAdc n x).composerOn = s.composerOn := rfl

/-! ### setChan -/

@[simp] theorem State.setChan_pending (n : Nat) (x : Channel) : (s.setChan n x).pending = s.pending := rfl
@[simp] theorem State.setChan_freeCtr (n : Nat) (x : Channel) : (s.setChan n x).freeCtr = s.freeCtr := rfl
@[simp] theorem State.setChan_cyc (n : Nat) (x : Channel) : (s.setChan n x).cyc = s.cyc := rfl
@[simp] theorem State.setChan_pulses (n : Nat) (x : Channel) : (s.setChan n x).pulses = s.pulses := rfl
@[simp] theorem State.setChan_now (n : Nat) (x : Channel) : (s.setChan n x).now = s.now := rfl
@[simp] theorem State.setChan_devTimer (n : Nat) (x : Channel) : (s.setChan n x).devTimer = s.devTimer := rfl
@[simp] theorem State.setChan_regs (n : Nat) (x : Channel) : (s.setChan n x).regs = s.regs := rfl
@[simp] theorem State.setChan_resp (n : Nat) (x : Channel) : (s.setChan n x).resp = s.resp := rfl
@[simp] theorem State.setChan_shadow (n : Nat) (x : Channel) : (s.setChan n x).shadow = s.shadow := rfl
@[simp] theorem State.setChan_sys (n : Nat) (x : Channel) : (s.setChan n x).sys = s.sys := rfl
@[simp] theorem State.setChan_log (n : Nat) (x : Channel) : (s.setChan n x).log = s.log := rfl
@[simp] theorem State.setChan_spindles (n : Nat) (x : Channel) : (s.setChan n x).spindles = s.spindles := rfl
@[simp] theorem State.setChan_encoders (n : Nat) (x : Channel) : (s.setChan n x).encoders = s.encoders := rfl
@[simp] theorem State.setChan_encSince (n : Nat) (x : Channel) : (s.setChan n x).encSince = s.encSince := rfl
@[simp] theorem State.setChan_timers (n : Nat) (x : Channel) : (s.setChan n x).timers = s.timers := rfl
@[simp] theorem State.setChan_ptp (n : Nat) (x : Channel) : (s.setChan n x).ptp = s.ptp := rfl
@[simp] theorem State.setChan_adcs (n : Nat) (x : Channel) : (s.setChan n x).adcs = s.adcs := rfl
@[simp] theorem State.setChan_comparators (n : Nat) (x : Channel) : (s.setChan n x).comparators = s.comparators := rfl
@[simp] theorem State.setChan_demods (n : Nat) (x : Channel) : (s.setChan n x).demods = s.demods := rfl
@[simp] theorem State.setChan_sectors (n : Nat) (x : Channel) : (s.setChan n x).sectors = s.sectors := rfl
@[simp] theorem State.setChan_pairs (n : Nat) (x : Channel) : (s.setChan n x).pairs = s.pairs := rfl
@[simp] theorem State.setChan_groups (n : Nat) (x : Channel) : (s.setChan n x).groups = s.groups := rfl
@[simp] theorem State.setChan_tripPins (n : Nat) (x : Channel) : (s.setChan n x).tripPins = s.tripPins := rfl
@[simp] theorem State.setChan_zonePins (n : Nat) (x : Channel) : (s.setChan n x).zonePins = s.zonePins := rfl
@[simp] theorem State.setChan_tripAll (n : Nat) (x : Channel) : (s.setChan n x).tripAll = s.tripAll := rfl
@[simp] theorem State.setChan_plate (n : Nat) (x : Channel) : (s.setChan n x).plate = s.plate := rfl
@[simp] theorem State.setChan_loops (n : Nat) (x : Channel) : (s.setChan n x).loops = s.loops := rfl
@[simp] theorem State.setChan_place (n : Nat) (x : Channel) : (s.setChan n x).place = s.place := rfl
@[simp] theorem State.setChan_cores (n : Nat) (x : Channel) : (s.setChan n x).cores = s.cores := rfl
@[simp] theorem State.setChan_aic (n : Nat) (x : Channel) : (s.setChan n x).aic = s.aic := rfl
@[simp] theorem State.setChan_dma (n : Nat) (x : Channel) : (s.setChan n x).dma = s.dma := rfl
@[simp] theorem State.setChan_dmaLast (n : Nat) (x : Channel) : (s.setChan n x).dmaLast = s.dmaLast := rfl
@[simp] theorem State.setChan_outbound (n : Nat) (x : Channel) : (s.setChan n x).outbound = s.outbound := rfl
@[simp] theorem State.setChan_posted (n : Nat) (x : Channel) : (s.setChan n x).posted = s.posted := rfl
@[simp] theorem State.setChan_consoles (n : Nat) (x : Channel) : (s.setChan n x).consoles = s.consoles := rfl
@[simp] theorem State.setChan_conJobs (n : Nat) (x : Channel) : (s.setChan n x).conJobs = s.conJobs := rfl
@[simp] theorem State.setChan_pipes (n : Nat) (x : Channel) : (s.setChan n x).pipes = s.pipes := rfl
@[simp] theorem State.setChan_streams (n : Nat) (x : Channel) : (s.setChan n x).streams = s.streams := rfl
@[simp] theorem State.setChan_liveLines (n : Nat) (x : Channel) : (s.setChan n x).liveLines = s.liveLines := rfl
@[simp] theorem State.setChan_active (n : Nat) (x : Channel) : (s.setChan n x).active = s.active := rfl
@[simp] theorem State.setChan_mover (n : Nat) (x : Channel) : (s.setChan n x).mover = s.mover := rfl
@[simp] theorem State.setChan_heads (n : Nat) (x : Channel) : (s.setChan n x).heads = s.heads := rfl
@[simp] theorem State.setChan_audio (n : Nat) (x : Channel) : (s.setChan n x).audio = s.audio := rfl
@[simp] theorem State.setChan_bankSupply (n : Nat) (x : Channel) : (s.setChan n x).bankSupply = s.bankSupply := rfl
@[simp] theorem State.setChan_keepers (n : Nat) (x : Channel) : (s.setChan n x).keepers = s.keepers := rfl
@[simp] theorem State.setChan_sec (n : Nat) (x : Channel) : (s.setChan n x).sec = s.sec := rfl
@[simp] theorem State.setChan_cvs (n : Nat) (x : Channel) : (s.setChan n x).cvs = s.cvs := rfl
@[simp] theorem State.setChan_hosts (n : Nat) (x : Channel) : (s.setChan n x).hosts = s.hosts := rfl
@[simp] theorem State.setChan_dict (n : Nat) (x : Channel) : (s.setChan n x).dict = s.dict := rfl
@[simp] theorem State.setChan_canNode (n : Nat) (x : Channel) : (s.setChan n x).canNode = s.canNode := rfl
@[simp] theorem State.setChan_cans (n : Nat) (x : Channel) : (s.setChan n x).cans = s.cans := rfl
@[simp] theorem State.setChan_macs (n : Nat) (x : Channel) : (s.setChan n x).macs = s.macs := rfl
@[simp] theorem State.setChan_aborts (n : Nat) (x : Channel) : (s.setChan n x).aborts = s.aborts := rfl
@[simp] theorem State.setChan_iotlb (n : Nat) (x : Channel) : (s.setChan n x).iotlb = s.iotlb := rfl
@[simp] theorem State.setChan_sbOld (n : Nat) (x : Channel) : (s.setChan n x).sbOld = s.sbOld := rfl
@[simp] theorem State.setChan_trainTries (n : Nat) (x : Channel) : (s.setChan n x).trainTries = s.trainTries := rfl
@[simp] theorem State.setChan_refreshFast (n : Nat) (x : Channel) : (s.setChan n x).refreshFast = s.refreshFast := rfl
@[simp] theorem State.setChan_dramTemp (n : Nat) (x : Channel) : (s.setChan n x).dramTemp = s.dramTemp := rfl
@[simp] theorem State.setChan_macQueues (n : Nat) (x : Channel) : (s.setChan n x).macQueues = s.macQueues := rfl
@[simp] theorem State.setChan_busyPins (n : Nat) (x : Channel) : (s.setChan n x).busyPins = s.busyPins := rfl
@[simp] theorem State.setChan_tsClaimed (n : Nat) (x : Channel) : (s.setChan n x).tsClaimed = s.tsClaimed := rfl
@[simp] theorem State.setChan_mem (n : Nat) (x : Channel) : (s.setChan n x).mem = s.mem := rfl
@[simp] theorem State.setChan_nor (n : Nat) (x : Channel) : (s.setChan n x).nor = s.nor := rfl
@[simp] theorem State.setChan_poison (n : Nat) (x : Channel) : (s.setChan n x).poison = s.poison := rfl
@[simp] theorem State.setChan_checks (n : Nat) (x : Channel) : (s.setChan n x).checks = s.checks := rfl
@[simp] theorem State.reg_setChan (n : Nat) (x : Channel) (a0 : Nat) : (s.setChan n x).reg a0 = s.reg a0 := rfl
@[simp] theorem State.fld_setChan (n : Nat) (x : Channel) (a0 : Nat) (h0 : Nat) (l0 : Nat) : (s.setChan n x).fld a0 h0 l0 = s.fld a0 h0 l0 := rfl
@[simp] theorem State.bit_setChan (n : Nat) (x : Channel) (a0 : Nat) (i0 : Nat) : (s.setChan n x).bit a0 i0 = s.bit a0 i0 := rfl
@[simp] theorem State.byte_setChan (n : Nat) (x : Channel) (a0 : Nat) : (s.setChan n x).byte a0 = s.byte a0 := rfl
@[simp] theorem State.norByte_setChan (n : Nat) (x : Channel) (a0 : Nat) : (s.setChan n x).norByte a0 = s.norByte a0 := rfl
@[simp] theorem State.adc_setChan (n : Nat) (x : Channel) (j : Nat) : (s.setChan n x).adc j = s.adc j := rfl
@[simp] theorem State.demod_setChan (n : Nat) (x : Channel) (j : Nat) : (s.setChan n x).demod j = s.demod j := rfl
@[simp] theorem State.sector_setChan (n : Nat) (x : Channel) (j : Nat) : (s.setChan n x).sector j = s.sector j := rfl
@[simp] theorem State.aicCore_setChan (n : Nat) (x : Channel) (j : Nat) : (s.setChan n x).aicCore j = s.aicCore j := rfl
@[simp] theorem State.con_setChan (n : Nat) (x : Channel) (j : Nat) : (s.setChan n x).con j = s.con j := rfl
@[simp] theorem State.stream_setChan (n : Nat) (x : Channel) (j : Nat) : (s.setChan n x).stream j = s.stream j := rfl
@[simp] theorem State.core_setChan (n : Nat) (x : Channel) (j : Nat) : (s.setChan n x).core j = s.core j := rfl
@[simp] theorem State.greg_setChan (n : Nat) (x : Channel) (j : Nat) (r : Nat) : (s.setChan n x).greg j r = s.greg j r := rfl
@[simp] theorem State.cv_setChan (n : Nat) (x : Channel) (j : Nat) : (s.setChan n x).cv j = s.cv j := rfl
@[simp] theorem State.head_setChan (n : Nat) (x : Channel) (j : Nat) : (s.setChan n x).head j = s.head j := rfl
@[simp] theorem State.host_setChan (n : Nat) (x : Channel) (j : Nat) : (s.setChan n x).host j = s.host j := rfl
@[simp] theorem State.abortEngine_setChan (n : Nat) (x : Channel) (j : Nat) : (s.setChan n x).abortEngine j = s.abortEngine j := rfl
@[simp] theorem State.ctx_setChan (n : Nat) (x : Channel) (j : Nat) : (s.setChan n x).ctx j = s.ctx j := rfl
@[simp] theorem State.dmaCh_setChan (n : Nat) (x : Channel) (j : Nat) : (s.setChan n x).dmaCh j = s.dmaCh j := rfl
@[simp] theorem State.entry_setChan (n : Nat) (x : Channel) (j : Nat) : (s.setChan n x).entry j = s.entry j := rfl
@[simp] theorem State.spn_setChan (n : Nat) (x : Channel) (j : Nat) : (s.setChan n x).spn j = s.spn j := rfl
@[simp] theorem State.timer_setChan (n : Nat) (x : Channel) (j : Nat) : (s.setChan n x).timer j = s.timer j := rfl
@[simp] theorem State.pair_setChan (n : Nat) (x : Channel) (j : Nat) : (s.setChan n x).pair j = s.pair j := rfl
@[simp] theorem State.group_setChan (n : Nat) (x : Channel) (j : Nat) : (s.setChan n x).group j = s.group j := rfl
@[simp] theorem State.comparator_setChan (n : Nat) (x : Channel) (j : Nat) : (s.setChan n x).comparator j = s.comparator j := rfl
@[simp] theorem State.fclkOn_setChan (n : Nat) (x : Channel) : (s.setChan n x).fclkOn = s.fclkOn := rfl
@[simp] theorem State.mediaOn_setChan (n : Nat) (x : Channel) : (s.setChan n x).mediaOn = s.mediaOn := rfl
@[simp] theorem State.sectorOn_setChan (n : Nat) (x : Channel) (j : Nat) : (s.setChan n x).sectorOn j = s.sectorOn j := rfl
@[simp] theorem State.coreOn_setChan (n : Nat) (x : Channel) (j : Nat) : (s.setChan n x).coreOn j = s.coreOn j := rfl
@[simp] theorem State.firmwareOn_setChan (n : Nat) (x : Channel) : (s.setChan n x).firmwareOn = s.firmwareOn := rfl
@[simp] theorem State.composerOn_setChan (n : Nat) (x : Channel) : (s.setChan n x).composerOn = s.composerOn := rfl

/-! ### setDemod -/

@[simp] theorem State.setDemod_pending (n : Nat) (x : SigmaDelta) : (s.setDemod n x).pending = s.pending := rfl
@[simp] theorem State.setDemod_freeCtr (n : Nat) (x : SigmaDelta) : (s.setDemod n x).freeCtr = s.freeCtr := rfl
@[simp] theorem State.setDemod_cyc (n : Nat) (x : SigmaDelta) : (s.setDemod n x).cyc = s.cyc := rfl
@[simp] theorem State.setDemod_pulses (n : Nat) (x : SigmaDelta) : (s.setDemod n x).pulses = s.pulses := rfl
@[simp] theorem State.setDemod_now (n : Nat) (x : SigmaDelta) : (s.setDemod n x).now = s.now := rfl
@[simp] theorem State.setDemod_devTimer (n : Nat) (x : SigmaDelta) : (s.setDemod n x).devTimer = s.devTimer := rfl
@[simp] theorem State.setDemod_regs (n : Nat) (x : SigmaDelta) : (s.setDemod n x).regs = s.regs := rfl
@[simp] theorem State.setDemod_resp (n : Nat) (x : SigmaDelta) : (s.setDemod n x).resp = s.resp := rfl
@[simp] theorem State.setDemod_shadow (n : Nat) (x : SigmaDelta) : (s.setDemod n x).shadow = s.shadow := rfl
@[simp] theorem State.setDemod_sys (n : Nat) (x : SigmaDelta) : (s.setDemod n x).sys = s.sys := rfl
@[simp] theorem State.setDemod_log (n : Nat) (x : SigmaDelta) : (s.setDemod n x).log = s.log := rfl
@[simp] theorem State.setDemod_spindles (n : Nat) (x : SigmaDelta) : (s.setDemod n x).spindles = s.spindles := rfl
@[simp] theorem State.setDemod_encoders (n : Nat) (x : SigmaDelta) : (s.setDemod n x).encoders = s.encoders := rfl
@[simp] theorem State.setDemod_encSince (n : Nat) (x : SigmaDelta) : (s.setDemod n x).encSince = s.encSince := rfl
@[simp] theorem State.setDemod_timers (n : Nat) (x : SigmaDelta) : (s.setDemod n x).timers = s.timers := rfl
@[simp] theorem State.setDemod_ptp (n : Nat) (x : SigmaDelta) : (s.setDemod n x).ptp = s.ptp := rfl
@[simp] theorem State.setDemod_adcs (n : Nat) (x : SigmaDelta) : (s.setDemod n x).adcs = s.adcs := rfl
@[simp] theorem State.setDemod_channels (n : Nat) (x : SigmaDelta) : (s.setDemod n x).channels = s.channels := rfl
@[simp] theorem State.setDemod_comparators (n : Nat) (x : SigmaDelta) : (s.setDemod n x).comparators = s.comparators := rfl
@[simp] theorem State.setDemod_sectors (n : Nat) (x : SigmaDelta) : (s.setDemod n x).sectors = s.sectors := rfl
@[simp] theorem State.setDemod_pairs (n : Nat) (x : SigmaDelta) : (s.setDemod n x).pairs = s.pairs := rfl
@[simp] theorem State.setDemod_groups (n : Nat) (x : SigmaDelta) : (s.setDemod n x).groups = s.groups := rfl
@[simp] theorem State.setDemod_tripPins (n : Nat) (x : SigmaDelta) : (s.setDemod n x).tripPins = s.tripPins := rfl
@[simp] theorem State.setDemod_zonePins (n : Nat) (x : SigmaDelta) : (s.setDemod n x).zonePins = s.zonePins := rfl
@[simp] theorem State.setDemod_tripAll (n : Nat) (x : SigmaDelta) : (s.setDemod n x).tripAll = s.tripAll := rfl
@[simp] theorem State.setDemod_plate (n : Nat) (x : SigmaDelta) : (s.setDemod n x).plate = s.plate := rfl
@[simp] theorem State.setDemod_loops (n : Nat) (x : SigmaDelta) : (s.setDemod n x).loops = s.loops := rfl
@[simp] theorem State.setDemod_place (n : Nat) (x : SigmaDelta) : (s.setDemod n x).place = s.place := rfl
@[simp] theorem State.setDemod_cores (n : Nat) (x : SigmaDelta) : (s.setDemod n x).cores = s.cores := rfl
@[simp] theorem State.setDemod_aic (n : Nat) (x : SigmaDelta) : (s.setDemod n x).aic = s.aic := rfl
@[simp] theorem State.setDemod_dma (n : Nat) (x : SigmaDelta) : (s.setDemod n x).dma = s.dma := rfl
@[simp] theorem State.setDemod_dmaLast (n : Nat) (x : SigmaDelta) : (s.setDemod n x).dmaLast = s.dmaLast := rfl
@[simp] theorem State.setDemod_outbound (n : Nat) (x : SigmaDelta) : (s.setDemod n x).outbound = s.outbound := rfl
@[simp] theorem State.setDemod_posted (n : Nat) (x : SigmaDelta) : (s.setDemod n x).posted = s.posted := rfl
@[simp] theorem State.setDemod_consoles (n : Nat) (x : SigmaDelta) : (s.setDemod n x).consoles = s.consoles := rfl
@[simp] theorem State.setDemod_conJobs (n : Nat) (x : SigmaDelta) : (s.setDemod n x).conJobs = s.conJobs := rfl
@[simp] theorem State.setDemod_pipes (n : Nat) (x : SigmaDelta) : (s.setDemod n x).pipes = s.pipes := rfl
@[simp] theorem State.setDemod_streams (n : Nat) (x : SigmaDelta) : (s.setDemod n x).streams = s.streams := rfl
@[simp] theorem State.setDemod_liveLines (n : Nat) (x : SigmaDelta) : (s.setDemod n x).liveLines = s.liveLines := rfl
@[simp] theorem State.setDemod_active (n : Nat) (x : SigmaDelta) : (s.setDemod n x).active = s.active := rfl
@[simp] theorem State.setDemod_mover (n : Nat) (x : SigmaDelta) : (s.setDemod n x).mover = s.mover := rfl
@[simp] theorem State.setDemod_heads (n : Nat) (x : SigmaDelta) : (s.setDemod n x).heads = s.heads := rfl
@[simp] theorem State.setDemod_audio (n : Nat) (x : SigmaDelta) : (s.setDemod n x).audio = s.audio := rfl
@[simp] theorem State.setDemod_bankSupply (n : Nat) (x : SigmaDelta) : (s.setDemod n x).bankSupply = s.bankSupply := rfl
@[simp] theorem State.setDemod_keepers (n : Nat) (x : SigmaDelta) : (s.setDemod n x).keepers = s.keepers := rfl
@[simp] theorem State.setDemod_sec (n : Nat) (x : SigmaDelta) : (s.setDemod n x).sec = s.sec := rfl
@[simp] theorem State.setDemod_cvs (n : Nat) (x : SigmaDelta) : (s.setDemod n x).cvs = s.cvs := rfl
@[simp] theorem State.setDemod_hosts (n : Nat) (x : SigmaDelta) : (s.setDemod n x).hosts = s.hosts := rfl
@[simp] theorem State.setDemod_dict (n : Nat) (x : SigmaDelta) : (s.setDemod n x).dict = s.dict := rfl
@[simp] theorem State.setDemod_canNode (n : Nat) (x : SigmaDelta) : (s.setDemod n x).canNode = s.canNode := rfl
@[simp] theorem State.setDemod_cans (n : Nat) (x : SigmaDelta) : (s.setDemod n x).cans = s.cans := rfl
@[simp] theorem State.setDemod_macs (n : Nat) (x : SigmaDelta) : (s.setDemod n x).macs = s.macs := rfl
@[simp] theorem State.setDemod_aborts (n : Nat) (x : SigmaDelta) : (s.setDemod n x).aborts = s.aborts := rfl
@[simp] theorem State.setDemod_iotlb (n : Nat) (x : SigmaDelta) : (s.setDemod n x).iotlb = s.iotlb := rfl
@[simp] theorem State.setDemod_sbOld (n : Nat) (x : SigmaDelta) : (s.setDemod n x).sbOld = s.sbOld := rfl
@[simp] theorem State.setDemod_trainTries (n : Nat) (x : SigmaDelta) : (s.setDemod n x).trainTries = s.trainTries := rfl
@[simp] theorem State.setDemod_refreshFast (n : Nat) (x : SigmaDelta) : (s.setDemod n x).refreshFast = s.refreshFast := rfl
@[simp] theorem State.setDemod_dramTemp (n : Nat) (x : SigmaDelta) : (s.setDemod n x).dramTemp = s.dramTemp := rfl
@[simp] theorem State.setDemod_macQueues (n : Nat) (x : SigmaDelta) : (s.setDemod n x).macQueues = s.macQueues := rfl
@[simp] theorem State.setDemod_busyPins (n : Nat) (x : SigmaDelta) : (s.setDemod n x).busyPins = s.busyPins := rfl
@[simp] theorem State.setDemod_tsClaimed (n : Nat) (x : SigmaDelta) : (s.setDemod n x).tsClaimed = s.tsClaimed := rfl
@[simp] theorem State.setDemod_mem (n : Nat) (x : SigmaDelta) : (s.setDemod n x).mem = s.mem := rfl
@[simp] theorem State.setDemod_nor (n : Nat) (x : SigmaDelta) : (s.setDemod n x).nor = s.nor := rfl
@[simp] theorem State.setDemod_poison (n : Nat) (x : SigmaDelta) : (s.setDemod n x).poison = s.poison := rfl
@[simp] theorem State.setDemod_checks (n : Nat) (x : SigmaDelta) : (s.setDemod n x).checks = s.checks := rfl
@[simp] theorem State.reg_setDemod (n : Nat) (x : SigmaDelta) (a0 : Nat) : (s.setDemod n x).reg a0 = s.reg a0 := rfl
@[simp] theorem State.fld_setDemod (n : Nat) (x : SigmaDelta) (a0 : Nat) (h0 : Nat) (l0 : Nat) : (s.setDemod n x).fld a0 h0 l0 = s.fld a0 h0 l0 := rfl
@[simp] theorem State.bit_setDemod (n : Nat) (x : SigmaDelta) (a0 : Nat) (i0 : Nat) : (s.setDemod n x).bit a0 i0 = s.bit a0 i0 := rfl
@[simp] theorem State.byte_setDemod (n : Nat) (x : SigmaDelta) (a0 : Nat) : (s.setDemod n x).byte a0 = s.byte a0 := rfl
@[simp] theorem State.norByte_setDemod (n : Nat) (x : SigmaDelta) (a0 : Nat) : (s.setDemod n x).norByte a0 = s.norByte a0 := rfl
@[simp] theorem State.adc_setDemod (n : Nat) (x : SigmaDelta) (j : Nat) : (s.setDemod n x).adc j = s.adc j := rfl
@[simp] theorem State.chan_setDemod (n : Nat) (x : SigmaDelta) (j : Nat) : (s.setDemod n x).chan j = s.chan j := rfl
@[simp] theorem State.sector_setDemod (n : Nat) (x : SigmaDelta) (j : Nat) : (s.setDemod n x).sector j = s.sector j := rfl
@[simp] theorem State.aicCore_setDemod (n : Nat) (x : SigmaDelta) (j : Nat) : (s.setDemod n x).aicCore j = s.aicCore j := rfl
@[simp] theorem State.con_setDemod (n : Nat) (x : SigmaDelta) (j : Nat) : (s.setDemod n x).con j = s.con j := rfl
@[simp] theorem State.stream_setDemod (n : Nat) (x : SigmaDelta) (j : Nat) : (s.setDemod n x).stream j = s.stream j := rfl
@[simp] theorem State.core_setDemod (n : Nat) (x : SigmaDelta) (j : Nat) : (s.setDemod n x).core j = s.core j := rfl
@[simp] theorem State.greg_setDemod (n : Nat) (x : SigmaDelta) (j : Nat) (r : Nat) : (s.setDemod n x).greg j r = s.greg j r := rfl
@[simp] theorem State.cv_setDemod (n : Nat) (x : SigmaDelta) (j : Nat) : (s.setDemod n x).cv j = s.cv j := rfl
@[simp] theorem State.head_setDemod (n : Nat) (x : SigmaDelta) (j : Nat) : (s.setDemod n x).head j = s.head j := rfl
@[simp] theorem State.host_setDemod (n : Nat) (x : SigmaDelta) (j : Nat) : (s.setDemod n x).host j = s.host j := rfl
@[simp] theorem State.abortEngine_setDemod (n : Nat) (x : SigmaDelta) (j : Nat) : (s.setDemod n x).abortEngine j = s.abortEngine j := rfl
@[simp] theorem State.ctx_setDemod (n : Nat) (x : SigmaDelta) (j : Nat) : (s.setDemod n x).ctx j = s.ctx j := rfl
@[simp] theorem State.dmaCh_setDemod (n : Nat) (x : SigmaDelta) (j : Nat) : (s.setDemod n x).dmaCh j = s.dmaCh j := rfl
@[simp] theorem State.entry_setDemod (n : Nat) (x : SigmaDelta) (j : Nat) : (s.setDemod n x).entry j = s.entry j := rfl
@[simp] theorem State.spn_setDemod (n : Nat) (x : SigmaDelta) (j : Nat) : (s.setDemod n x).spn j = s.spn j := rfl
@[simp] theorem State.timer_setDemod (n : Nat) (x : SigmaDelta) (j : Nat) : (s.setDemod n x).timer j = s.timer j := rfl
@[simp] theorem State.pair_setDemod (n : Nat) (x : SigmaDelta) (j : Nat) : (s.setDemod n x).pair j = s.pair j := rfl
@[simp] theorem State.group_setDemod (n : Nat) (x : SigmaDelta) (j : Nat) : (s.setDemod n x).group j = s.group j := rfl
@[simp] theorem State.comparator_setDemod (n : Nat) (x : SigmaDelta) (j : Nat) : (s.setDemod n x).comparator j = s.comparator j := rfl
@[simp] theorem State.fclkOn_setDemod (n : Nat) (x : SigmaDelta) : (s.setDemod n x).fclkOn = s.fclkOn := rfl
@[simp] theorem State.mediaOn_setDemod (n : Nat) (x : SigmaDelta) : (s.setDemod n x).mediaOn = s.mediaOn := rfl
@[simp] theorem State.sectorOn_setDemod (n : Nat) (x : SigmaDelta) (j : Nat) : (s.setDemod n x).sectorOn j = s.sectorOn j := rfl
@[simp] theorem State.coreOn_setDemod (n : Nat) (x : SigmaDelta) (j : Nat) : (s.setDemod n x).coreOn j = s.coreOn j := rfl
@[simp] theorem State.firmwareOn_setDemod (n : Nat) (x : SigmaDelta) : (s.setDemod n x).firmwareOn = s.firmwareOn := rfl
@[simp] theorem State.composerOn_setDemod (n : Nat) (x : SigmaDelta) : (s.setDemod n x).composerOn = s.composerOn := rfl

/-! ### setSector -/

@[simp] theorem State.setSector_pending (n : Nat) (x : Sector) : (s.setSector n x).pending = s.pending := rfl
@[simp] theorem State.setSector_freeCtr (n : Nat) (x : Sector) : (s.setSector n x).freeCtr = s.freeCtr := rfl
@[simp] theorem State.setSector_cyc (n : Nat) (x : Sector) : (s.setSector n x).cyc = s.cyc := rfl
@[simp] theorem State.setSector_pulses (n : Nat) (x : Sector) : (s.setSector n x).pulses = s.pulses := rfl
@[simp] theorem State.setSector_now (n : Nat) (x : Sector) : (s.setSector n x).now = s.now := rfl
@[simp] theorem State.setSector_devTimer (n : Nat) (x : Sector) : (s.setSector n x).devTimer = s.devTimer := rfl
@[simp] theorem State.setSector_regs (n : Nat) (x : Sector) : (s.setSector n x).regs = s.regs := rfl
@[simp] theorem State.setSector_resp (n : Nat) (x : Sector) : (s.setSector n x).resp = s.resp := rfl
@[simp] theorem State.setSector_shadow (n : Nat) (x : Sector) : (s.setSector n x).shadow = s.shadow := rfl
@[simp] theorem State.setSector_sys (n : Nat) (x : Sector) : (s.setSector n x).sys = s.sys := rfl
@[simp] theorem State.setSector_log (n : Nat) (x : Sector) : (s.setSector n x).log = s.log := rfl
@[simp] theorem State.setSector_spindles (n : Nat) (x : Sector) : (s.setSector n x).spindles = s.spindles := rfl
@[simp] theorem State.setSector_encoders (n : Nat) (x : Sector) : (s.setSector n x).encoders = s.encoders := rfl
@[simp] theorem State.setSector_encSince (n : Nat) (x : Sector) : (s.setSector n x).encSince = s.encSince := rfl
@[simp] theorem State.setSector_timers (n : Nat) (x : Sector) : (s.setSector n x).timers = s.timers := rfl
@[simp] theorem State.setSector_ptp (n : Nat) (x : Sector) : (s.setSector n x).ptp = s.ptp := rfl
@[simp] theorem State.setSector_adcs (n : Nat) (x : Sector) : (s.setSector n x).adcs = s.adcs := rfl
@[simp] theorem State.setSector_channels (n : Nat) (x : Sector) : (s.setSector n x).channels = s.channels := rfl
@[simp] theorem State.setSector_comparators (n : Nat) (x : Sector) : (s.setSector n x).comparators = s.comparators := rfl
@[simp] theorem State.setSector_demods (n : Nat) (x : Sector) : (s.setSector n x).demods = s.demods := rfl
@[simp] theorem State.setSector_pairs (n : Nat) (x : Sector) : (s.setSector n x).pairs = s.pairs := rfl
@[simp] theorem State.setSector_groups (n : Nat) (x : Sector) : (s.setSector n x).groups = s.groups := rfl
@[simp] theorem State.setSector_tripPins (n : Nat) (x : Sector) : (s.setSector n x).tripPins = s.tripPins := rfl
@[simp] theorem State.setSector_zonePins (n : Nat) (x : Sector) : (s.setSector n x).zonePins = s.zonePins := rfl
@[simp] theorem State.setSector_tripAll (n : Nat) (x : Sector) : (s.setSector n x).tripAll = s.tripAll := rfl
@[simp] theorem State.setSector_plate (n : Nat) (x : Sector) : (s.setSector n x).plate = s.plate := rfl
@[simp] theorem State.setSector_loops (n : Nat) (x : Sector) : (s.setSector n x).loops = s.loops := rfl
@[simp] theorem State.setSector_place (n : Nat) (x : Sector) : (s.setSector n x).place = s.place := rfl
@[simp] theorem State.setSector_cores (n : Nat) (x : Sector) : (s.setSector n x).cores = s.cores := rfl
@[simp] theorem State.setSector_aic (n : Nat) (x : Sector) : (s.setSector n x).aic = s.aic := rfl
@[simp] theorem State.setSector_dma (n : Nat) (x : Sector) : (s.setSector n x).dma = s.dma := rfl
@[simp] theorem State.setSector_dmaLast (n : Nat) (x : Sector) : (s.setSector n x).dmaLast = s.dmaLast := rfl
@[simp] theorem State.setSector_outbound (n : Nat) (x : Sector) : (s.setSector n x).outbound = s.outbound := rfl
@[simp] theorem State.setSector_posted (n : Nat) (x : Sector) : (s.setSector n x).posted = s.posted := rfl
@[simp] theorem State.setSector_consoles (n : Nat) (x : Sector) : (s.setSector n x).consoles = s.consoles := rfl
@[simp] theorem State.setSector_conJobs (n : Nat) (x : Sector) : (s.setSector n x).conJobs = s.conJobs := rfl
@[simp] theorem State.setSector_pipes (n : Nat) (x : Sector) : (s.setSector n x).pipes = s.pipes := rfl
@[simp] theorem State.setSector_streams (n : Nat) (x : Sector) : (s.setSector n x).streams = s.streams := rfl
@[simp] theorem State.setSector_liveLines (n : Nat) (x : Sector) : (s.setSector n x).liveLines = s.liveLines := rfl
@[simp] theorem State.setSector_active (n : Nat) (x : Sector) : (s.setSector n x).active = s.active := rfl
@[simp] theorem State.setSector_mover (n : Nat) (x : Sector) : (s.setSector n x).mover = s.mover := rfl
@[simp] theorem State.setSector_heads (n : Nat) (x : Sector) : (s.setSector n x).heads = s.heads := rfl
@[simp] theorem State.setSector_audio (n : Nat) (x : Sector) : (s.setSector n x).audio = s.audio := rfl
@[simp] theorem State.setSector_bankSupply (n : Nat) (x : Sector) : (s.setSector n x).bankSupply = s.bankSupply := rfl
@[simp] theorem State.setSector_keepers (n : Nat) (x : Sector) : (s.setSector n x).keepers = s.keepers := rfl
@[simp] theorem State.setSector_sec (n : Nat) (x : Sector) : (s.setSector n x).sec = s.sec := rfl
@[simp] theorem State.setSector_cvs (n : Nat) (x : Sector) : (s.setSector n x).cvs = s.cvs := rfl
@[simp] theorem State.setSector_hosts (n : Nat) (x : Sector) : (s.setSector n x).hosts = s.hosts := rfl
@[simp] theorem State.setSector_dict (n : Nat) (x : Sector) : (s.setSector n x).dict = s.dict := rfl
@[simp] theorem State.setSector_canNode (n : Nat) (x : Sector) : (s.setSector n x).canNode = s.canNode := rfl
@[simp] theorem State.setSector_cans (n : Nat) (x : Sector) : (s.setSector n x).cans = s.cans := rfl
@[simp] theorem State.setSector_macs (n : Nat) (x : Sector) : (s.setSector n x).macs = s.macs := rfl
@[simp] theorem State.setSector_aborts (n : Nat) (x : Sector) : (s.setSector n x).aborts = s.aborts := rfl
@[simp] theorem State.setSector_iotlb (n : Nat) (x : Sector) : (s.setSector n x).iotlb = s.iotlb := rfl
@[simp] theorem State.setSector_sbOld (n : Nat) (x : Sector) : (s.setSector n x).sbOld = s.sbOld := rfl
@[simp] theorem State.setSector_trainTries (n : Nat) (x : Sector) : (s.setSector n x).trainTries = s.trainTries := rfl
@[simp] theorem State.setSector_refreshFast (n : Nat) (x : Sector) : (s.setSector n x).refreshFast = s.refreshFast := rfl
@[simp] theorem State.setSector_dramTemp (n : Nat) (x : Sector) : (s.setSector n x).dramTemp = s.dramTemp := rfl
@[simp] theorem State.setSector_macQueues (n : Nat) (x : Sector) : (s.setSector n x).macQueues = s.macQueues := rfl
@[simp] theorem State.setSector_busyPins (n : Nat) (x : Sector) : (s.setSector n x).busyPins = s.busyPins := rfl
@[simp] theorem State.setSector_tsClaimed (n : Nat) (x : Sector) : (s.setSector n x).tsClaimed = s.tsClaimed := rfl
@[simp] theorem State.setSector_mem (n : Nat) (x : Sector) : (s.setSector n x).mem = s.mem := rfl
@[simp] theorem State.setSector_nor (n : Nat) (x : Sector) : (s.setSector n x).nor = s.nor := rfl
@[simp] theorem State.setSector_poison (n : Nat) (x : Sector) : (s.setSector n x).poison = s.poison := rfl
@[simp] theorem State.setSector_checks (n : Nat) (x : Sector) : (s.setSector n x).checks = s.checks := rfl
@[simp] theorem State.reg_setSector (n : Nat) (x : Sector) (a0 : Nat) : (s.setSector n x).reg a0 = s.reg a0 := rfl
@[simp] theorem State.fld_setSector (n : Nat) (x : Sector) (a0 : Nat) (h0 : Nat) (l0 : Nat) : (s.setSector n x).fld a0 h0 l0 = s.fld a0 h0 l0 := rfl
@[simp] theorem State.bit_setSector (n : Nat) (x : Sector) (a0 : Nat) (i0 : Nat) : (s.setSector n x).bit a0 i0 = s.bit a0 i0 := rfl
@[simp] theorem State.byte_setSector (n : Nat) (x : Sector) (a0 : Nat) : (s.setSector n x).byte a0 = s.byte a0 := rfl
@[simp] theorem State.norByte_setSector (n : Nat) (x : Sector) (a0 : Nat) : (s.setSector n x).norByte a0 = s.norByte a0 := rfl
@[simp] theorem State.adc_setSector (n : Nat) (x : Sector) (j : Nat) : (s.setSector n x).adc j = s.adc j := rfl
@[simp] theorem State.chan_setSector (n : Nat) (x : Sector) (j : Nat) : (s.setSector n x).chan j = s.chan j := rfl
@[simp] theorem State.demod_setSector (n : Nat) (x : Sector) (j : Nat) : (s.setSector n x).demod j = s.demod j := rfl
@[simp] theorem State.aicCore_setSector (n : Nat) (x : Sector) (j : Nat) : (s.setSector n x).aicCore j = s.aicCore j := rfl
@[simp] theorem State.con_setSector (n : Nat) (x : Sector) (j : Nat) : (s.setSector n x).con j = s.con j := rfl
@[simp] theorem State.stream_setSector (n : Nat) (x : Sector) (j : Nat) : (s.setSector n x).stream j = s.stream j := rfl
@[simp] theorem State.core_setSector (n : Nat) (x : Sector) (j : Nat) : (s.setSector n x).core j = s.core j := rfl
@[simp] theorem State.greg_setSector (n : Nat) (x : Sector) (j : Nat) (r : Nat) : (s.setSector n x).greg j r = s.greg j r := rfl
@[simp] theorem State.cv_setSector (n : Nat) (x : Sector) (j : Nat) : (s.setSector n x).cv j = s.cv j := rfl
@[simp] theorem State.head_setSector (n : Nat) (x : Sector) (j : Nat) : (s.setSector n x).head j = s.head j := rfl
@[simp] theorem State.host_setSector (n : Nat) (x : Sector) (j : Nat) : (s.setSector n x).host j = s.host j := rfl
@[simp] theorem State.abortEngine_setSector (n : Nat) (x : Sector) (j : Nat) : (s.setSector n x).abortEngine j = s.abortEngine j := rfl
@[simp] theorem State.ctx_setSector (n : Nat) (x : Sector) (j : Nat) : (s.setSector n x).ctx j = s.ctx j := rfl
@[simp] theorem State.dmaCh_setSector (n : Nat) (x : Sector) (j : Nat) : (s.setSector n x).dmaCh j = s.dmaCh j := rfl
@[simp] theorem State.entry_setSector (n : Nat) (x : Sector) (j : Nat) : (s.setSector n x).entry j = s.entry j := rfl
@[simp] theorem State.spn_setSector (n : Nat) (x : Sector) (j : Nat) : (s.setSector n x).spn j = s.spn j := rfl
@[simp] theorem State.timer_setSector (n : Nat) (x : Sector) (j : Nat) : (s.setSector n x).timer j = s.timer j := rfl
@[simp] theorem State.pair_setSector (n : Nat) (x : Sector) (j : Nat) : (s.setSector n x).pair j = s.pair j := rfl
@[simp] theorem State.group_setSector (n : Nat) (x : Sector) (j : Nat) : (s.setSector n x).group j = s.group j := rfl
@[simp] theorem State.comparator_setSector (n : Nat) (x : Sector) (j : Nat) : (s.setSector n x).comparator j = s.comparator j := rfl
@[simp] theorem State.fclkOn_setSector (n : Nat) (x : Sector) : (s.setSector n x).fclkOn = s.fclkOn := rfl
@[simp] theorem State.mediaOn_setSector (n : Nat) (x : Sector) : (s.setSector n x).mediaOn = s.mediaOn := rfl
@[simp] theorem State.sectorOn_setSector (n : Nat) (x : Sector) (j : Nat) : (s.setSector n x).sectorOn j = s.sectorOn j := rfl
@[simp] theorem State.coreOn_setSector (n : Nat) (x : Sector) (j : Nat) : (s.setSector n x).coreOn j = s.coreOn j := rfl
@[simp] theorem State.firmwareOn_setSector (n : Nat) (x : Sector) : (s.setSector n x).firmwareOn = s.firmwareOn := rfl
@[simp] theorem State.composerOn_setSector (n : Nat) (x : Sector) : (s.setSector n x).composerOn = s.composerOn := rfl

/-! ### setAicCore -/

@[simp] theorem State.setAicCore_pending (n : Nat) (x : AicCore) : (s.setAicCore n x).pending = s.pending := rfl
@[simp] theorem State.setAicCore_freeCtr (n : Nat) (x : AicCore) : (s.setAicCore n x).freeCtr = s.freeCtr := rfl
@[simp] theorem State.setAicCore_cyc (n : Nat) (x : AicCore) : (s.setAicCore n x).cyc = s.cyc := rfl
@[simp] theorem State.setAicCore_pulses (n : Nat) (x : AicCore) : (s.setAicCore n x).pulses = s.pulses := rfl
@[simp] theorem State.setAicCore_now (n : Nat) (x : AicCore) : (s.setAicCore n x).now = s.now := rfl
@[simp] theorem State.setAicCore_devTimer (n : Nat) (x : AicCore) : (s.setAicCore n x).devTimer = s.devTimer := rfl
@[simp] theorem State.setAicCore_regs (n : Nat) (x : AicCore) : (s.setAicCore n x).regs = s.regs := rfl
@[simp] theorem State.setAicCore_resp (n : Nat) (x : AicCore) : (s.setAicCore n x).resp = s.resp := rfl
@[simp] theorem State.setAicCore_shadow (n : Nat) (x : AicCore) : (s.setAicCore n x).shadow = s.shadow := rfl
@[simp] theorem State.setAicCore_sys (n : Nat) (x : AicCore) : (s.setAicCore n x).sys = s.sys := rfl
@[simp] theorem State.setAicCore_log (n : Nat) (x : AicCore) : (s.setAicCore n x).log = s.log := rfl
@[simp] theorem State.setAicCore_spindles (n : Nat) (x : AicCore) : (s.setAicCore n x).spindles = s.spindles := rfl
@[simp] theorem State.setAicCore_encoders (n : Nat) (x : AicCore) : (s.setAicCore n x).encoders = s.encoders := rfl
@[simp] theorem State.setAicCore_encSince (n : Nat) (x : AicCore) : (s.setAicCore n x).encSince = s.encSince := rfl
@[simp] theorem State.setAicCore_timers (n : Nat) (x : AicCore) : (s.setAicCore n x).timers = s.timers := rfl
@[simp] theorem State.setAicCore_ptp (n : Nat) (x : AicCore) : (s.setAicCore n x).ptp = s.ptp := rfl
@[simp] theorem State.setAicCore_adcs (n : Nat) (x : AicCore) : (s.setAicCore n x).adcs = s.adcs := rfl
@[simp] theorem State.setAicCore_channels (n : Nat) (x : AicCore) : (s.setAicCore n x).channels = s.channels := rfl
@[simp] theorem State.setAicCore_comparators (n : Nat) (x : AicCore) : (s.setAicCore n x).comparators = s.comparators := rfl
@[simp] theorem State.setAicCore_demods (n : Nat) (x : AicCore) : (s.setAicCore n x).demods = s.demods := rfl
@[simp] theorem State.setAicCore_sectors (n : Nat) (x : AicCore) : (s.setAicCore n x).sectors = s.sectors := rfl
@[simp] theorem State.setAicCore_pairs (n : Nat) (x : AicCore) : (s.setAicCore n x).pairs = s.pairs := rfl
@[simp] theorem State.setAicCore_groups (n : Nat) (x : AicCore) : (s.setAicCore n x).groups = s.groups := rfl
@[simp] theorem State.setAicCore_tripPins (n : Nat) (x : AicCore) : (s.setAicCore n x).tripPins = s.tripPins := rfl
@[simp] theorem State.setAicCore_zonePins (n : Nat) (x : AicCore) : (s.setAicCore n x).zonePins = s.zonePins := rfl
@[simp] theorem State.setAicCore_tripAll (n : Nat) (x : AicCore) : (s.setAicCore n x).tripAll = s.tripAll := rfl
@[simp] theorem State.setAicCore_plate (n : Nat) (x : AicCore) : (s.setAicCore n x).plate = s.plate := rfl
@[simp] theorem State.setAicCore_loops (n : Nat) (x : AicCore) : (s.setAicCore n x).loops = s.loops := rfl
@[simp] theorem State.setAicCore_place (n : Nat) (x : AicCore) : (s.setAicCore n x).place = s.place := rfl
@[simp] theorem State.setAicCore_cores (n : Nat) (x : AicCore) : (s.setAicCore n x).cores = s.cores := rfl
@[simp] theorem State.setAicCore_dma (n : Nat) (x : AicCore) : (s.setAicCore n x).dma = s.dma := rfl
@[simp] theorem State.setAicCore_dmaLast (n : Nat) (x : AicCore) : (s.setAicCore n x).dmaLast = s.dmaLast := rfl
@[simp] theorem State.setAicCore_outbound (n : Nat) (x : AicCore) : (s.setAicCore n x).outbound = s.outbound := rfl
@[simp] theorem State.setAicCore_posted (n : Nat) (x : AicCore) : (s.setAicCore n x).posted = s.posted := rfl
@[simp] theorem State.setAicCore_consoles (n : Nat) (x : AicCore) : (s.setAicCore n x).consoles = s.consoles := rfl
@[simp] theorem State.setAicCore_conJobs (n : Nat) (x : AicCore) : (s.setAicCore n x).conJobs = s.conJobs := rfl
@[simp] theorem State.setAicCore_pipes (n : Nat) (x : AicCore) : (s.setAicCore n x).pipes = s.pipes := rfl
@[simp] theorem State.setAicCore_streams (n : Nat) (x : AicCore) : (s.setAicCore n x).streams = s.streams := rfl
@[simp] theorem State.setAicCore_liveLines (n : Nat) (x : AicCore) : (s.setAicCore n x).liveLines = s.liveLines := rfl
@[simp] theorem State.setAicCore_active (n : Nat) (x : AicCore) : (s.setAicCore n x).active = s.active := rfl
@[simp] theorem State.setAicCore_mover (n : Nat) (x : AicCore) : (s.setAicCore n x).mover = s.mover := rfl
@[simp] theorem State.setAicCore_heads (n : Nat) (x : AicCore) : (s.setAicCore n x).heads = s.heads := rfl
@[simp] theorem State.setAicCore_audio (n : Nat) (x : AicCore) : (s.setAicCore n x).audio = s.audio := rfl
@[simp] theorem State.setAicCore_bankSupply (n : Nat) (x : AicCore) : (s.setAicCore n x).bankSupply = s.bankSupply := rfl
@[simp] theorem State.setAicCore_keepers (n : Nat) (x : AicCore) : (s.setAicCore n x).keepers = s.keepers := rfl
@[simp] theorem State.setAicCore_sec (n : Nat) (x : AicCore) : (s.setAicCore n x).sec = s.sec := rfl
@[simp] theorem State.setAicCore_cvs (n : Nat) (x : AicCore) : (s.setAicCore n x).cvs = s.cvs := rfl
@[simp] theorem State.setAicCore_hosts (n : Nat) (x : AicCore) : (s.setAicCore n x).hosts = s.hosts := rfl
@[simp] theorem State.setAicCore_dict (n : Nat) (x : AicCore) : (s.setAicCore n x).dict = s.dict := rfl
@[simp] theorem State.setAicCore_canNode (n : Nat) (x : AicCore) : (s.setAicCore n x).canNode = s.canNode := rfl
@[simp] theorem State.setAicCore_cans (n : Nat) (x : AicCore) : (s.setAicCore n x).cans = s.cans := rfl
@[simp] theorem State.setAicCore_macs (n : Nat) (x : AicCore) : (s.setAicCore n x).macs = s.macs := rfl
@[simp] theorem State.setAicCore_aborts (n : Nat) (x : AicCore) : (s.setAicCore n x).aborts = s.aborts := rfl
@[simp] theorem State.setAicCore_iotlb (n : Nat) (x : AicCore) : (s.setAicCore n x).iotlb = s.iotlb := rfl
@[simp] theorem State.setAicCore_sbOld (n : Nat) (x : AicCore) : (s.setAicCore n x).sbOld = s.sbOld := rfl
@[simp] theorem State.setAicCore_trainTries (n : Nat) (x : AicCore) : (s.setAicCore n x).trainTries = s.trainTries := rfl
@[simp] theorem State.setAicCore_refreshFast (n : Nat) (x : AicCore) : (s.setAicCore n x).refreshFast = s.refreshFast := rfl
@[simp] theorem State.setAicCore_dramTemp (n : Nat) (x : AicCore) : (s.setAicCore n x).dramTemp = s.dramTemp := rfl
@[simp] theorem State.setAicCore_macQueues (n : Nat) (x : AicCore) : (s.setAicCore n x).macQueues = s.macQueues := rfl
@[simp] theorem State.setAicCore_busyPins (n : Nat) (x : AicCore) : (s.setAicCore n x).busyPins = s.busyPins := rfl
@[simp] theorem State.setAicCore_tsClaimed (n : Nat) (x : AicCore) : (s.setAicCore n x).tsClaimed = s.tsClaimed := rfl
@[simp] theorem State.setAicCore_mem (n : Nat) (x : AicCore) : (s.setAicCore n x).mem = s.mem := rfl
@[simp] theorem State.setAicCore_nor (n : Nat) (x : AicCore) : (s.setAicCore n x).nor = s.nor := rfl
@[simp] theorem State.setAicCore_poison (n : Nat) (x : AicCore) : (s.setAicCore n x).poison = s.poison := rfl
@[simp] theorem State.setAicCore_checks (n : Nat) (x : AicCore) : (s.setAicCore n x).checks = s.checks := rfl
@[simp] theorem State.reg_setAicCore (n : Nat) (x : AicCore) (a0 : Nat) : (s.setAicCore n x).reg a0 = s.reg a0 := rfl
@[simp] theorem State.fld_setAicCore (n : Nat) (x : AicCore) (a0 : Nat) (h0 : Nat) (l0 : Nat) : (s.setAicCore n x).fld a0 h0 l0 = s.fld a0 h0 l0 := rfl
@[simp] theorem State.bit_setAicCore (n : Nat) (x : AicCore) (a0 : Nat) (i0 : Nat) : (s.setAicCore n x).bit a0 i0 = s.bit a0 i0 := rfl
@[simp] theorem State.byte_setAicCore (n : Nat) (x : AicCore) (a0 : Nat) : (s.setAicCore n x).byte a0 = s.byte a0 := rfl
@[simp] theorem State.norByte_setAicCore (n : Nat) (x : AicCore) (a0 : Nat) : (s.setAicCore n x).norByte a0 = s.norByte a0 := rfl
@[simp] theorem State.adc_setAicCore (n : Nat) (x : AicCore) (j : Nat) : (s.setAicCore n x).adc j = s.adc j := rfl
@[simp] theorem State.chan_setAicCore (n : Nat) (x : AicCore) (j : Nat) : (s.setAicCore n x).chan j = s.chan j := rfl
@[simp] theorem State.demod_setAicCore (n : Nat) (x : AicCore) (j : Nat) : (s.setAicCore n x).demod j = s.demod j := rfl
@[simp] theorem State.sector_setAicCore (n : Nat) (x : AicCore) (j : Nat) : (s.setAicCore n x).sector j = s.sector j := rfl
@[simp] theorem State.con_setAicCore (n : Nat) (x : AicCore) (j : Nat) : (s.setAicCore n x).con j = s.con j := rfl
@[simp] theorem State.stream_setAicCore (n : Nat) (x : AicCore) (j : Nat) : (s.setAicCore n x).stream j = s.stream j := rfl
@[simp] theorem State.core_setAicCore (n : Nat) (x : AicCore) (j : Nat) : (s.setAicCore n x).core j = s.core j := rfl
@[simp] theorem State.greg_setAicCore (n : Nat) (x : AicCore) (j : Nat) (r : Nat) : (s.setAicCore n x).greg j r = s.greg j r := rfl
@[simp] theorem State.cv_setAicCore (n : Nat) (x : AicCore) (j : Nat) : (s.setAicCore n x).cv j = s.cv j := rfl
@[simp] theorem State.head_setAicCore (n : Nat) (x : AicCore) (j : Nat) : (s.setAicCore n x).head j = s.head j := rfl
@[simp] theorem State.host_setAicCore (n : Nat) (x : AicCore) (j : Nat) : (s.setAicCore n x).host j = s.host j := rfl
@[simp] theorem State.abortEngine_setAicCore (n : Nat) (x : AicCore) (j : Nat) : (s.setAicCore n x).abortEngine j = s.abortEngine j := rfl
@[simp] theorem State.ctx_setAicCore (n : Nat) (x : AicCore) (j : Nat) : (s.setAicCore n x).ctx j = s.ctx j := rfl
@[simp] theorem State.dmaCh_setAicCore (n : Nat) (x : AicCore) (j : Nat) : (s.setAicCore n x).dmaCh j = s.dmaCh j := rfl
@[simp] theorem State.entry_setAicCore (n : Nat) (x : AicCore) (j : Nat) : (s.setAicCore n x).entry j = s.entry j := rfl
@[simp] theorem State.spn_setAicCore (n : Nat) (x : AicCore) (j : Nat) : (s.setAicCore n x).spn j = s.spn j := rfl
@[simp] theorem State.timer_setAicCore (n : Nat) (x : AicCore) (j : Nat) : (s.setAicCore n x).timer j = s.timer j := rfl
@[simp] theorem State.pair_setAicCore (n : Nat) (x : AicCore) (j : Nat) : (s.setAicCore n x).pair j = s.pair j := rfl
@[simp] theorem State.group_setAicCore (n : Nat) (x : AicCore) (j : Nat) : (s.setAicCore n x).group j = s.group j := rfl
@[simp] theorem State.comparator_setAicCore (n : Nat) (x : AicCore) (j : Nat) : (s.setAicCore n x).comparator j = s.comparator j := rfl
@[simp] theorem State.fclkOn_setAicCore (n : Nat) (x : AicCore) : (s.setAicCore n x).fclkOn = s.fclkOn := rfl
@[simp] theorem State.mediaOn_setAicCore (n : Nat) (x : AicCore) : (s.setAicCore n x).mediaOn = s.mediaOn := rfl
@[simp] theorem State.sectorOn_setAicCore (n : Nat) (x : AicCore) (j : Nat) : (s.setAicCore n x).sectorOn j = s.sectorOn j := rfl
@[simp] theorem State.coreOn_setAicCore (n : Nat) (x : AicCore) (j : Nat) : (s.setAicCore n x).coreOn j = s.coreOn j := rfl
@[simp] theorem State.firmwareOn_setAicCore (n : Nat) (x : AicCore) : (s.setAicCore n x).firmwareOn = s.firmwareOn := rfl
@[simp] theorem State.composerOn_setAicCore (n : Nat) (x : AicCore) : (s.setAicCore n x).composerOn = s.composerOn := rfl

/-! ### setAudio -/

@[simp] theorem State.setAudio_pending (x : Audio) : (s.setAudio x).pending = s.pending := rfl
@[simp] theorem State.setAudio_freeCtr (x : Audio) : (s.setAudio x).freeCtr = s.freeCtr := rfl
@[simp] theorem State.setAudio_cyc (x : Audio) : (s.setAudio x).cyc = s.cyc := rfl
@[simp] theorem State.setAudio_pulses (x : Audio) : (s.setAudio x).pulses = s.pulses := rfl
@[simp] theorem State.setAudio_now (x : Audio) : (s.setAudio x).now = s.now := rfl
@[simp] theorem State.setAudio_devTimer (x : Audio) : (s.setAudio x).devTimer = s.devTimer := rfl
@[simp] theorem State.setAudio_regs (x : Audio) : (s.setAudio x).regs = s.regs := rfl
@[simp] theorem State.setAudio_resp (x : Audio) : (s.setAudio x).resp = s.resp := rfl
@[simp] theorem State.setAudio_shadow (x : Audio) : (s.setAudio x).shadow = s.shadow := rfl
@[simp] theorem State.setAudio_sys (x : Audio) : (s.setAudio x).sys = s.sys := rfl
@[simp] theorem State.setAudio_log (x : Audio) : (s.setAudio x).log = s.log := rfl
@[simp] theorem State.setAudio_spindles (x : Audio) : (s.setAudio x).spindles = s.spindles := rfl
@[simp] theorem State.setAudio_encoders (x : Audio) : (s.setAudio x).encoders = s.encoders := rfl
@[simp] theorem State.setAudio_encSince (x : Audio) : (s.setAudio x).encSince = s.encSince := rfl
@[simp] theorem State.setAudio_timers (x : Audio) : (s.setAudio x).timers = s.timers := rfl
@[simp] theorem State.setAudio_ptp (x : Audio) : (s.setAudio x).ptp = s.ptp := rfl
@[simp] theorem State.setAudio_adcs (x : Audio) : (s.setAudio x).adcs = s.adcs := rfl
@[simp] theorem State.setAudio_channels (x : Audio) : (s.setAudio x).channels = s.channels := rfl
@[simp] theorem State.setAudio_comparators (x : Audio) : (s.setAudio x).comparators = s.comparators := rfl
@[simp] theorem State.setAudio_demods (x : Audio) : (s.setAudio x).demods = s.demods := rfl
@[simp] theorem State.setAudio_sectors (x : Audio) : (s.setAudio x).sectors = s.sectors := rfl
@[simp] theorem State.setAudio_pairs (x : Audio) : (s.setAudio x).pairs = s.pairs := rfl
@[simp] theorem State.setAudio_groups (x : Audio) : (s.setAudio x).groups = s.groups := rfl
@[simp] theorem State.setAudio_tripPins (x : Audio) : (s.setAudio x).tripPins = s.tripPins := rfl
@[simp] theorem State.setAudio_zonePins (x : Audio) : (s.setAudio x).zonePins = s.zonePins := rfl
@[simp] theorem State.setAudio_tripAll (x : Audio) : (s.setAudio x).tripAll = s.tripAll := rfl
@[simp] theorem State.setAudio_plate (x : Audio) : (s.setAudio x).plate = s.plate := rfl
@[simp] theorem State.setAudio_loops (x : Audio) : (s.setAudio x).loops = s.loops := rfl
@[simp] theorem State.setAudio_place (x : Audio) : (s.setAudio x).place = s.place := rfl
@[simp] theorem State.setAudio_cores (x : Audio) : (s.setAudio x).cores = s.cores := rfl
@[simp] theorem State.setAudio_aic (x : Audio) : (s.setAudio x).aic = s.aic := rfl
@[simp] theorem State.setAudio_dma (x : Audio) : (s.setAudio x).dma = s.dma := rfl
@[simp] theorem State.setAudio_dmaLast (x : Audio) : (s.setAudio x).dmaLast = s.dmaLast := rfl
@[simp] theorem State.setAudio_outbound (x : Audio) : (s.setAudio x).outbound = s.outbound := rfl
@[simp] theorem State.setAudio_posted (x : Audio) : (s.setAudio x).posted = s.posted := rfl
@[simp] theorem State.setAudio_consoles (x : Audio) : (s.setAudio x).consoles = s.consoles := rfl
@[simp] theorem State.setAudio_conJobs (x : Audio) : (s.setAudio x).conJobs = s.conJobs := rfl
@[simp] theorem State.setAudio_pipes (x : Audio) : (s.setAudio x).pipes = s.pipes := rfl
@[simp] theorem State.setAudio_streams (x : Audio) : (s.setAudio x).streams = s.streams := rfl
@[simp] theorem State.setAudio_liveLines (x : Audio) : (s.setAudio x).liveLines = s.liveLines := rfl
@[simp] theorem State.setAudio_active (x : Audio) : (s.setAudio x).active = s.active := rfl
@[simp] theorem State.setAudio_mover (x : Audio) : (s.setAudio x).mover = s.mover := rfl
@[simp] theorem State.setAudio_heads (x : Audio) : (s.setAudio x).heads = s.heads := rfl
@[simp] theorem State.setAudio_bankSupply (x : Audio) : (s.setAudio x).bankSupply = s.bankSupply := rfl
@[simp] theorem State.setAudio_keepers (x : Audio) : (s.setAudio x).keepers = s.keepers := rfl
@[simp] theorem State.setAudio_sec (x : Audio) : (s.setAudio x).sec = s.sec := rfl
@[simp] theorem State.setAudio_cvs (x : Audio) : (s.setAudio x).cvs = s.cvs := rfl
@[simp] theorem State.setAudio_hosts (x : Audio) : (s.setAudio x).hosts = s.hosts := rfl
@[simp] theorem State.setAudio_dict (x : Audio) : (s.setAudio x).dict = s.dict := rfl
@[simp] theorem State.setAudio_canNode (x : Audio) : (s.setAudio x).canNode = s.canNode := rfl
@[simp] theorem State.setAudio_cans (x : Audio) : (s.setAudio x).cans = s.cans := rfl
@[simp] theorem State.setAudio_macs (x : Audio) : (s.setAudio x).macs = s.macs := rfl
@[simp] theorem State.setAudio_aborts (x : Audio) : (s.setAudio x).aborts = s.aborts := rfl
@[simp] theorem State.setAudio_iotlb (x : Audio) : (s.setAudio x).iotlb = s.iotlb := rfl
@[simp] theorem State.setAudio_sbOld (x : Audio) : (s.setAudio x).sbOld = s.sbOld := rfl
@[simp] theorem State.setAudio_trainTries (x : Audio) : (s.setAudio x).trainTries = s.trainTries := rfl
@[simp] theorem State.setAudio_refreshFast (x : Audio) : (s.setAudio x).refreshFast = s.refreshFast := rfl
@[simp] theorem State.setAudio_dramTemp (x : Audio) : (s.setAudio x).dramTemp = s.dramTemp := rfl
@[simp] theorem State.setAudio_macQueues (x : Audio) : (s.setAudio x).macQueues = s.macQueues := rfl
@[simp] theorem State.setAudio_busyPins (x : Audio) : (s.setAudio x).busyPins = s.busyPins := rfl
@[simp] theorem State.setAudio_tsClaimed (x : Audio) : (s.setAudio x).tsClaimed = s.tsClaimed := rfl
@[simp] theorem State.setAudio_mem (x : Audio) : (s.setAudio x).mem = s.mem := rfl
@[simp] theorem State.setAudio_nor (x : Audio) : (s.setAudio x).nor = s.nor := rfl
@[simp] theorem State.setAudio_poison (x : Audio) : (s.setAudio x).poison = s.poison := rfl
@[simp] theorem State.setAudio_checks (x : Audio) : (s.setAudio x).checks = s.checks := rfl
@[simp] theorem State.reg_setAudio (x : Audio) (a0 : Nat) : (s.setAudio x).reg a0 = s.reg a0 := rfl
@[simp] theorem State.fld_setAudio (x : Audio) (a0 : Nat) (h0 : Nat) (l0 : Nat) : (s.setAudio x).fld a0 h0 l0 = s.fld a0 h0 l0 := rfl
@[simp] theorem State.bit_setAudio (x : Audio) (a0 : Nat) (i0 : Nat) : (s.setAudio x).bit a0 i0 = s.bit a0 i0 := rfl
@[simp] theorem State.byte_setAudio (x : Audio) (a0 : Nat) : (s.setAudio x).byte a0 = s.byte a0 := rfl
@[simp] theorem State.norByte_setAudio (x : Audio) (a0 : Nat) : (s.setAudio x).norByte a0 = s.norByte a0 := rfl
@[simp] theorem State.adc_setAudio (x : Audio) (j : Nat) : (s.setAudio x).adc j = s.adc j := rfl
@[simp] theorem State.chan_setAudio (x : Audio) (j : Nat) : (s.setAudio x).chan j = s.chan j := rfl
@[simp] theorem State.demod_setAudio (x : Audio) (j : Nat) : (s.setAudio x).demod j = s.demod j := rfl
@[simp] theorem State.sector_setAudio (x : Audio) (j : Nat) : (s.setAudio x).sector j = s.sector j := rfl
@[simp] theorem State.aicCore_setAudio (x : Audio) (j : Nat) : (s.setAudio x).aicCore j = s.aicCore j := rfl
@[simp] theorem State.con_setAudio (x : Audio) (j : Nat) : (s.setAudio x).con j = s.con j := rfl
@[simp] theorem State.stream_setAudio (x : Audio) (j : Nat) : (s.setAudio x).stream j = s.stream j := rfl
@[simp] theorem State.core_setAudio (x : Audio) (j : Nat) : (s.setAudio x).core j = s.core j := rfl
@[simp] theorem State.greg_setAudio (x : Audio) (j : Nat) (r : Nat) : (s.setAudio x).greg j r = s.greg j r := rfl
@[simp] theorem State.cv_setAudio (x : Audio) (j : Nat) : (s.setAudio x).cv j = s.cv j := rfl
@[simp] theorem State.head_setAudio (x : Audio) (j : Nat) : (s.setAudio x).head j = s.head j := rfl
@[simp] theorem State.host_setAudio (x : Audio) (j : Nat) : (s.setAudio x).host j = s.host j := rfl
@[simp] theorem State.abortEngine_setAudio (x : Audio) (j : Nat) : (s.setAudio x).abortEngine j = s.abortEngine j := rfl
@[simp] theorem State.ctx_setAudio (x : Audio) (j : Nat) : (s.setAudio x).ctx j = s.ctx j := rfl
@[simp] theorem State.dmaCh_setAudio (x : Audio) (j : Nat) : (s.setAudio x).dmaCh j = s.dmaCh j := rfl
@[simp] theorem State.entry_setAudio (x : Audio) (j : Nat) : (s.setAudio x).entry j = s.entry j := rfl
@[simp] theorem State.spn_setAudio (x : Audio) (j : Nat) : (s.setAudio x).spn j = s.spn j := rfl
@[simp] theorem State.timer_setAudio (x : Audio) (j : Nat) : (s.setAudio x).timer j = s.timer j := rfl
@[simp] theorem State.pair_setAudio (x : Audio) (j : Nat) : (s.setAudio x).pair j = s.pair j := rfl
@[simp] theorem State.group_setAudio (x : Audio) (j : Nat) : (s.setAudio x).group j = s.group j := rfl
@[simp] theorem State.comparator_setAudio (x : Audio) (j : Nat) : (s.setAudio x).comparator j = s.comparator j := rfl
@[simp] theorem State.fclkOn_setAudio (x : Audio) : (s.setAudio x).fclkOn = s.fclkOn := rfl
@[simp] theorem State.mediaOn_setAudio (x : Audio) : (s.setAudio x).mediaOn = s.mediaOn := rfl
@[simp] theorem State.sectorOn_setAudio (x : Audio) (j : Nat) : (s.setAudio x).sectorOn j = s.sectorOn j := rfl
@[simp] theorem State.coreOn_setAudio (x : Audio) (j : Nat) : (s.setAudio x).coreOn j = s.coreOn j := rfl
@[simp] theorem State.firmwareOn_setAudio (x : Audio) : (s.setAudio x).firmwareOn = s.firmwareOn := rfl
@[simp] theorem State.composerOn_setAudio (x : Audio) : (s.setAudio x).composerOn = s.composerOn := rfl

/-! ### setCon -/

@[simp] theorem State.setCon_pending (n : Nat) (x : Console) : (s.setCon n x).pending = s.pending := rfl
@[simp] theorem State.setCon_freeCtr (n : Nat) (x : Console) : (s.setCon n x).freeCtr = s.freeCtr := rfl
@[simp] theorem State.setCon_cyc (n : Nat) (x : Console) : (s.setCon n x).cyc = s.cyc := rfl
@[simp] theorem State.setCon_pulses (n : Nat) (x : Console) : (s.setCon n x).pulses = s.pulses := rfl
@[simp] theorem State.setCon_now (n : Nat) (x : Console) : (s.setCon n x).now = s.now := rfl
@[simp] theorem State.setCon_devTimer (n : Nat) (x : Console) : (s.setCon n x).devTimer = s.devTimer := rfl
@[simp] theorem State.setCon_regs (n : Nat) (x : Console) : (s.setCon n x).regs = s.regs := rfl
@[simp] theorem State.setCon_resp (n : Nat) (x : Console) : (s.setCon n x).resp = s.resp := rfl
@[simp] theorem State.setCon_shadow (n : Nat) (x : Console) : (s.setCon n x).shadow = s.shadow := rfl
@[simp] theorem State.setCon_sys (n : Nat) (x : Console) : (s.setCon n x).sys = s.sys := rfl
@[simp] theorem State.setCon_log (n : Nat) (x : Console) : (s.setCon n x).log = s.log := rfl
@[simp] theorem State.setCon_spindles (n : Nat) (x : Console) : (s.setCon n x).spindles = s.spindles := rfl
@[simp] theorem State.setCon_encoders (n : Nat) (x : Console) : (s.setCon n x).encoders = s.encoders := rfl
@[simp] theorem State.setCon_encSince (n : Nat) (x : Console) : (s.setCon n x).encSince = s.encSince := rfl
@[simp] theorem State.setCon_timers (n : Nat) (x : Console) : (s.setCon n x).timers = s.timers := rfl
@[simp] theorem State.setCon_ptp (n : Nat) (x : Console) : (s.setCon n x).ptp = s.ptp := rfl
@[simp] theorem State.setCon_adcs (n : Nat) (x : Console) : (s.setCon n x).adcs = s.adcs := rfl
@[simp] theorem State.setCon_channels (n : Nat) (x : Console) : (s.setCon n x).channels = s.channels := rfl
@[simp] theorem State.setCon_comparators (n : Nat) (x : Console) : (s.setCon n x).comparators = s.comparators := rfl
@[simp] theorem State.setCon_demods (n : Nat) (x : Console) : (s.setCon n x).demods = s.demods := rfl
@[simp] theorem State.setCon_sectors (n : Nat) (x : Console) : (s.setCon n x).sectors = s.sectors := rfl
@[simp] theorem State.setCon_pairs (n : Nat) (x : Console) : (s.setCon n x).pairs = s.pairs := rfl
@[simp] theorem State.setCon_groups (n : Nat) (x : Console) : (s.setCon n x).groups = s.groups := rfl
@[simp] theorem State.setCon_tripPins (n : Nat) (x : Console) : (s.setCon n x).tripPins = s.tripPins := rfl
@[simp] theorem State.setCon_zonePins (n : Nat) (x : Console) : (s.setCon n x).zonePins = s.zonePins := rfl
@[simp] theorem State.setCon_tripAll (n : Nat) (x : Console) : (s.setCon n x).tripAll = s.tripAll := rfl
@[simp] theorem State.setCon_plate (n : Nat) (x : Console) : (s.setCon n x).plate = s.plate := rfl
@[simp] theorem State.setCon_loops (n : Nat) (x : Console) : (s.setCon n x).loops = s.loops := rfl
@[simp] theorem State.setCon_place (n : Nat) (x : Console) : (s.setCon n x).place = s.place := rfl
@[simp] theorem State.setCon_cores (n : Nat) (x : Console) : (s.setCon n x).cores = s.cores := rfl
@[simp] theorem State.setCon_aic (n : Nat) (x : Console) : (s.setCon n x).aic = s.aic := rfl
@[simp] theorem State.setCon_dma (n : Nat) (x : Console) : (s.setCon n x).dma = s.dma := rfl
@[simp] theorem State.setCon_dmaLast (n : Nat) (x : Console) : (s.setCon n x).dmaLast = s.dmaLast := rfl
@[simp] theorem State.setCon_outbound (n : Nat) (x : Console) : (s.setCon n x).outbound = s.outbound := rfl
@[simp] theorem State.setCon_posted (n : Nat) (x : Console) : (s.setCon n x).posted = s.posted := rfl
@[simp] theorem State.setCon_conJobs (n : Nat) (x : Console) : (s.setCon n x).conJobs = s.conJobs := rfl
@[simp] theorem State.setCon_pipes (n : Nat) (x : Console) : (s.setCon n x).pipes = s.pipes := rfl
@[simp] theorem State.setCon_streams (n : Nat) (x : Console) : (s.setCon n x).streams = s.streams := rfl
@[simp] theorem State.setCon_liveLines (n : Nat) (x : Console) : (s.setCon n x).liveLines = s.liveLines := rfl
@[simp] theorem State.setCon_active (n : Nat) (x : Console) : (s.setCon n x).active = s.active := rfl
@[simp] theorem State.setCon_mover (n : Nat) (x : Console) : (s.setCon n x).mover = s.mover := rfl
@[simp] theorem State.setCon_heads (n : Nat) (x : Console) : (s.setCon n x).heads = s.heads := rfl
@[simp] theorem State.setCon_audio (n : Nat) (x : Console) : (s.setCon n x).audio = s.audio := rfl
@[simp] theorem State.setCon_bankSupply (n : Nat) (x : Console) : (s.setCon n x).bankSupply = s.bankSupply := rfl
@[simp] theorem State.setCon_keepers (n : Nat) (x : Console) : (s.setCon n x).keepers = s.keepers := rfl
@[simp] theorem State.setCon_sec (n : Nat) (x : Console) : (s.setCon n x).sec = s.sec := rfl
@[simp] theorem State.setCon_cvs (n : Nat) (x : Console) : (s.setCon n x).cvs = s.cvs := rfl
@[simp] theorem State.setCon_hosts (n : Nat) (x : Console) : (s.setCon n x).hosts = s.hosts := rfl
@[simp] theorem State.setCon_dict (n : Nat) (x : Console) : (s.setCon n x).dict = s.dict := rfl
@[simp] theorem State.setCon_canNode (n : Nat) (x : Console) : (s.setCon n x).canNode = s.canNode := rfl
@[simp] theorem State.setCon_cans (n : Nat) (x : Console) : (s.setCon n x).cans = s.cans := rfl
@[simp] theorem State.setCon_macs (n : Nat) (x : Console) : (s.setCon n x).macs = s.macs := rfl
@[simp] theorem State.setCon_aborts (n : Nat) (x : Console) : (s.setCon n x).aborts = s.aborts := rfl
@[simp] theorem State.setCon_iotlb (n : Nat) (x : Console) : (s.setCon n x).iotlb = s.iotlb := rfl
@[simp] theorem State.setCon_sbOld (n : Nat) (x : Console) : (s.setCon n x).sbOld = s.sbOld := rfl
@[simp] theorem State.setCon_trainTries (n : Nat) (x : Console) : (s.setCon n x).trainTries = s.trainTries := rfl
@[simp] theorem State.setCon_refreshFast (n : Nat) (x : Console) : (s.setCon n x).refreshFast = s.refreshFast := rfl
@[simp] theorem State.setCon_dramTemp (n : Nat) (x : Console) : (s.setCon n x).dramTemp = s.dramTemp := rfl
@[simp] theorem State.setCon_macQueues (n : Nat) (x : Console) : (s.setCon n x).macQueues = s.macQueues := rfl
@[simp] theorem State.setCon_busyPins (n : Nat) (x : Console) : (s.setCon n x).busyPins = s.busyPins := rfl
@[simp] theorem State.setCon_tsClaimed (n : Nat) (x : Console) : (s.setCon n x).tsClaimed = s.tsClaimed := rfl
@[simp] theorem State.setCon_mem (n : Nat) (x : Console) : (s.setCon n x).mem = s.mem := rfl
@[simp] theorem State.setCon_nor (n : Nat) (x : Console) : (s.setCon n x).nor = s.nor := rfl
@[simp] theorem State.setCon_poison (n : Nat) (x : Console) : (s.setCon n x).poison = s.poison := rfl
@[simp] theorem State.setCon_checks (n : Nat) (x : Console) : (s.setCon n x).checks = s.checks := rfl
@[simp] theorem State.reg_setCon (n : Nat) (x : Console) (a0 : Nat) : (s.setCon n x).reg a0 = s.reg a0 := rfl
@[simp] theorem State.fld_setCon (n : Nat) (x : Console) (a0 : Nat) (h0 : Nat) (l0 : Nat) : (s.setCon n x).fld a0 h0 l0 = s.fld a0 h0 l0 := rfl
@[simp] theorem State.bit_setCon (n : Nat) (x : Console) (a0 : Nat) (i0 : Nat) : (s.setCon n x).bit a0 i0 = s.bit a0 i0 := rfl
@[simp] theorem State.byte_setCon (n : Nat) (x : Console) (a0 : Nat) : (s.setCon n x).byte a0 = s.byte a0 := rfl
@[simp] theorem State.norByte_setCon (n : Nat) (x : Console) (a0 : Nat) : (s.setCon n x).norByte a0 = s.norByte a0 := rfl
@[simp] theorem State.adc_setCon (n : Nat) (x : Console) (j : Nat) : (s.setCon n x).adc j = s.adc j := rfl
@[simp] theorem State.chan_setCon (n : Nat) (x : Console) (j : Nat) : (s.setCon n x).chan j = s.chan j := rfl
@[simp] theorem State.demod_setCon (n : Nat) (x : Console) (j : Nat) : (s.setCon n x).demod j = s.demod j := rfl
@[simp] theorem State.sector_setCon (n : Nat) (x : Console) (j : Nat) : (s.setCon n x).sector j = s.sector j := rfl
@[simp] theorem State.aicCore_setCon (n : Nat) (x : Console) (j : Nat) : (s.setCon n x).aicCore j = s.aicCore j := rfl
@[simp] theorem State.stream_setCon (n : Nat) (x : Console) (j : Nat) : (s.setCon n x).stream j = s.stream j := rfl
@[simp] theorem State.core_setCon (n : Nat) (x : Console) (j : Nat) : (s.setCon n x).core j = s.core j := rfl
@[simp] theorem State.greg_setCon (n : Nat) (x : Console) (j : Nat) (r : Nat) : (s.setCon n x).greg j r = s.greg j r := rfl
@[simp] theorem State.cv_setCon (n : Nat) (x : Console) (j : Nat) : (s.setCon n x).cv j = s.cv j := rfl
@[simp] theorem State.head_setCon (n : Nat) (x : Console) (j : Nat) : (s.setCon n x).head j = s.head j := rfl
@[simp] theorem State.host_setCon (n : Nat) (x : Console) (j : Nat) : (s.setCon n x).host j = s.host j := rfl
@[simp] theorem State.abortEngine_setCon (n : Nat) (x : Console) (j : Nat) : (s.setCon n x).abortEngine j = s.abortEngine j := rfl
@[simp] theorem State.ctx_setCon (n : Nat) (x : Console) (j : Nat) : (s.setCon n x).ctx j = s.ctx j := rfl
@[simp] theorem State.dmaCh_setCon (n : Nat) (x : Console) (j : Nat) : (s.setCon n x).dmaCh j = s.dmaCh j := rfl
@[simp] theorem State.entry_setCon (n : Nat) (x : Console) (j : Nat) : (s.setCon n x).entry j = s.entry j := rfl
@[simp] theorem State.spn_setCon (n : Nat) (x : Console) (j : Nat) : (s.setCon n x).spn j = s.spn j := rfl
@[simp] theorem State.timer_setCon (n : Nat) (x : Console) (j : Nat) : (s.setCon n x).timer j = s.timer j := rfl
@[simp] theorem State.pair_setCon (n : Nat) (x : Console) (j : Nat) : (s.setCon n x).pair j = s.pair j := rfl
@[simp] theorem State.group_setCon (n : Nat) (x : Console) (j : Nat) : (s.setCon n x).group j = s.group j := rfl
@[simp] theorem State.comparator_setCon (n : Nat) (x : Console) (j : Nat) : (s.setCon n x).comparator j = s.comparator j := rfl
@[simp] theorem State.fclkOn_setCon (n : Nat) (x : Console) : (s.setCon n x).fclkOn = s.fclkOn := rfl
@[simp] theorem State.mediaOn_setCon (n : Nat) (x : Console) : (s.setCon n x).mediaOn = s.mediaOn := rfl
@[simp] theorem State.sectorOn_setCon (n : Nat) (x : Console) (j : Nat) : (s.setCon n x).sectorOn j = s.sectorOn j := rfl
@[simp] theorem State.coreOn_setCon (n : Nat) (x : Console) (j : Nat) : (s.setCon n x).coreOn j = s.coreOn j := rfl
@[simp] theorem State.firmwareOn_setCon (n : Nat) (x : Console) : (s.setCon n x).firmwareOn = s.firmwareOn := rfl
@[simp] theorem State.composerOn_setCon (n : Nat) (x : Console) : (s.setCon n x).composerOn = s.composerOn := rfl

/-! ### setStream -/

@[simp] theorem State.setStream_pending (n : Nat) (x : StreamQ) : (s.setStream n x).pending = s.pending := rfl
@[simp] theorem State.setStream_freeCtr (n : Nat) (x : StreamQ) : (s.setStream n x).freeCtr = s.freeCtr := rfl
@[simp] theorem State.setStream_cyc (n : Nat) (x : StreamQ) : (s.setStream n x).cyc = s.cyc := rfl
@[simp] theorem State.setStream_pulses (n : Nat) (x : StreamQ) : (s.setStream n x).pulses = s.pulses := rfl
@[simp] theorem State.setStream_now (n : Nat) (x : StreamQ) : (s.setStream n x).now = s.now := rfl
@[simp] theorem State.setStream_devTimer (n : Nat) (x : StreamQ) : (s.setStream n x).devTimer = s.devTimer := rfl
@[simp] theorem State.setStream_resp (n : Nat) (x : StreamQ) : (s.setStream n x).resp = s.resp := rfl
@[simp] theorem State.setStream_shadow (n : Nat) (x : StreamQ) : (s.setStream n x).shadow = s.shadow := rfl
@[simp] theorem State.setStream_sys (n : Nat) (x : StreamQ) : (s.setStream n x).sys = s.sys := rfl
@[simp] theorem State.setStream_log (n : Nat) (x : StreamQ) : (s.setStream n x).log = s.log := rfl
@[simp] theorem State.setStream_spindles (n : Nat) (x : StreamQ) : (s.setStream n x).spindles = s.spindles := rfl
@[simp] theorem State.setStream_encoders (n : Nat) (x : StreamQ) : (s.setStream n x).encoders = s.encoders := rfl
@[simp] theorem State.setStream_encSince (n : Nat) (x : StreamQ) : (s.setStream n x).encSince = s.encSince := rfl
@[simp] theorem State.setStream_timers (n : Nat) (x : StreamQ) : (s.setStream n x).timers = s.timers := rfl
@[simp] theorem State.setStream_ptp (n : Nat) (x : StreamQ) : (s.setStream n x).ptp = s.ptp := rfl
@[simp] theorem State.setStream_adcs (n : Nat) (x : StreamQ) : (s.setStream n x).adcs = s.adcs := rfl
@[simp] theorem State.setStream_channels (n : Nat) (x : StreamQ) : (s.setStream n x).channels = s.channels := rfl
@[simp] theorem State.setStream_comparators (n : Nat) (x : StreamQ) : (s.setStream n x).comparators = s.comparators := rfl
@[simp] theorem State.setStream_demods (n : Nat) (x : StreamQ) : (s.setStream n x).demods = s.demods := rfl
@[simp] theorem State.setStream_sectors (n : Nat) (x : StreamQ) : (s.setStream n x).sectors = s.sectors := rfl
@[simp] theorem State.setStream_pairs (n : Nat) (x : StreamQ) : (s.setStream n x).pairs = s.pairs := rfl
@[simp] theorem State.setStream_groups (n : Nat) (x : StreamQ) : (s.setStream n x).groups = s.groups := rfl
@[simp] theorem State.setStream_tripPins (n : Nat) (x : StreamQ) : (s.setStream n x).tripPins = s.tripPins := rfl
@[simp] theorem State.setStream_zonePins (n : Nat) (x : StreamQ) : (s.setStream n x).zonePins = s.zonePins := rfl
@[simp] theorem State.setStream_tripAll (n : Nat) (x : StreamQ) : (s.setStream n x).tripAll = s.tripAll := rfl
@[simp] theorem State.setStream_plate (n : Nat) (x : StreamQ) : (s.setStream n x).plate = s.plate := rfl
@[simp] theorem State.setStream_loops (n : Nat) (x : StreamQ) : (s.setStream n x).loops = s.loops := rfl
@[simp] theorem State.setStream_place (n : Nat) (x : StreamQ) : (s.setStream n x).place = s.place := rfl
@[simp] theorem State.setStream_cores (n : Nat) (x : StreamQ) : (s.setStream n x).cores = s.cores := rfl
@[simp] theorem State.setStream_aic (n : Nat) (x : StreamQ) : (s.setStream n x).aic = s.aic := rfl
@[simp] theorem State.setStream_dma (n : Nat) (x : StreamQ) : (s.setStream n x).dma = s.dma := rfl
@[simp] theorem State.setStream_dmaLast (n : Nat) (x : StreamQ) : (s.setStream n x).dmaLast = s.dmaLast := rfl
@[simp] theorem State.setStream_outbound (n : Nat) (x : StreamQ) : (s.setStream n x).outbound = s.outbound := rfl
@[simp] theorem State.setStream_posted (n : Nat) (x : StreamQ) : (s.setStream n x).posted = s.posted := rfl
@[simp] theorem State.setStream_consoles (n : Nat) (x : StreamQ) : (s.setStream n x).consoles = s.consoles := rfl
@[simp] theorem State.setStream_conJobs (n : Nat) (x : StreamQ) : (s.setStream n x).conJobs = s.conJobs := rfl
@[simp] theorem State.setStream_pipes (n : Nat) (x : StreamQ) : (s.setStream n x).pipes = s.pipes := rfl
@[simp] theorem State.setStream_liveLines (n : Nat) (x : StreamQ) : (s.setStream n x).liveLines = s.liveLines := rfl
@[simp] theorem State.setStream_active (n : Nat) (x : StreamQ) : (s.setStream n x).active = s.active := rfl
@[simp] theorem State.setStream_mover (n : Nat) (x : StreamQ) : (s.setStream n x).mover = s.mover := rfl
@[simp] theorem State.setStream_heads (n : Nat) (x : StreamQ) : (s.setStream n x).heads = s.heads := rfl
@[simp] theorem State.setStream_audio (n : Nat) (x : StreamQ) : (s.setStream n x).audio = s.audio := rfl
@[simp] theorem State.setStream_bankSupply (n : Nat) (x : StreamQ) : (s.setStream n x).bankSupply = s.bankSupply := rfl
@[simp] theorem State.setStream_keepers (n : Nat) (x : StreamQ) : (s.setStream n x).keepers = s.keepers := rfl
@[simp] theorem State.setStream_sec (n : Nat) (x : StreamQ) : (s.setStream n x).sec = s.sec := rfl
@[simp] theorem State.setStream_cvs (n : Nat) (x : StreamQ) : (s.setStream n x).cvs = s.cvs := rfl
@[simp] theorem State.setStream_hosts (n : Nat) (x : StreamQ) : (s.setStream n x).hosts = s.hosts := rfl
@[simp] theorem State.setStream_dict (n : Nat) (x : StreamQ) : (s.setStream n x).dict = s.dict := rfl
@[simp] theorem State.setStream_canNode (n : Nat) (x : StreamQ) : (s.setStream n x).canNode = s.canNode := rfl
@[simp] theorem State.setStream_cans (n : Nat) (x : StreamQ) : (s.setStream n x).cans = s.cans := rfl
@[simp] theorem State.setStream_macs (n : Nat) (x : StreamQ) : (s.setStream n x).macs = s.macs := rfl
@[simp] theorem State.setStream_aborts (n : Nat) (x : StreamQ) : (s.setStream n x).aborts = s.aborts := rfl
@[simp] theorem State.setStream_iotlb (n : Nat) (x : StreamQ) : (s.setStream n x).iotlb = s.iotlb := rfl
@[simp] theorem State.setStream_sbOld (n : Nat) (x : StreamQ) : (s.setStream n x).sbOld = s.sbOld := rfl
@[simp] theorem State.setStream_trainTries (n : Nat) (x : StreamQ) : (s.setStream n x).trainTries = s.trainTries := rfl
@[simp] theorem State.setStream_refreshFast (n : Nat) (x : StreamQ) : (s.setStream n x).refreshFast = s.refreshFast := rfl
@[simp] theorem State.setStream_dramTemp (n : Nat) (x : StreamQ) : (s.setStream n x).dramTemp = s.dramTemp := rfl
@[simp] theorem State.setStream_macQueues (n : Nat) (x : StreamQ) : (s.setStream n x).macQueues = s.macQueues := rfl
@[simp] theorem State.setStream_busyPins (n : Nat) (x : StreamQ) : (s.setStream n x).busyPins = s.busyPins := rfl
@[simp] theorem State.setStream_tsClaimed (n : Nat) (x : StreamQ) : (s.setStream n x).tsClaimed = s.tsClaimed := rfl
@[simp] theorem State.setStream_mem (n : Nat) (x : StreamQ) : (s.setStream n x).mem = s.mem := rfl
@[simp] theorem State.setStream_nor (n : Nat) (x : StreamQ) : (s.setStream n x).nor = s.nor := rfl
@[simp] theorem State.setStream_poison (n : Nat) (x : StreamQ) : (s.setStream n x).poison = s.poison := rfl
@[simp] theorem State.setStream_checks (n : Nat) (x : StreamQ) : (s.setStream n x).checks = s.checks := rfl
@[simp] theorem State.byte_setStream (n : Nat) (x : StreamQ) (a0 : Nat) : (s.setStream n x).byte a0 = s.byte a0 := rfl
@[simp] theorem State.norByte_setStream (n : Nat) (x : StreamQ) (a0 : Nat) : (s.setStream n x).norByte a0 = s.norByte a0 := rfl
@[simp] theorem State.adc_setStream (n : Nat) (x : StreamQ) (j : Nat) : (s.setStream n x).adc j = s.adc j := rfl
@[simp] theorem State.chan_setStream (n : Nat) (x : StreamQ) (j : Nat) : (s.setStream n x).chan j = s.chan j := rfl
@[simp] theorem State.demod_setStream (n : Nat) (x : StreamQ) (j : Nat) : (s.setStream n x).demod j = s.demod j := rfl
@[simp] theorem State.sector_setStream (n : Nat) (x : StreamQ) (j : Nat) : (s.setStream n x).sector j = s.sector j := rfl
@[simp] theorem State.aicCore_setStream (n : Nat) (x : StreamQ) (j : Nat) : (s.setStream n x).aicCore j = s.aicCore j := rfl
@[simp] theorem State.con_setStream (n : Nat) (x : StreamQ) (j : Nat) : (s.setStream n x).con j = s.con j := rfl
@[simp] theorem State.core_setStream (n : Nat) (x : StreamQ) (j : Nat) : (s.setStream n x).core j = s.core j := rfl
@[simp] theorem State.greg_setStream (n : Nat) (x : StreamQ) (j : Nat) (r : Nat) : (s.setStream n x).greg j r = s.greg j r := rfl
@[simp] theorem State.cv_setStream (n : Nat) (x : StreamQ) (j : Nat) : (s.setStream n x).cv j = s.cv j := rfl
@[simp] theorem State.head_setStream (n : Nat) (x : StreamQ) (j : Nat) : (s.setStream n x).head j = s.head j := rfl
@[simp] theorem State.host_setStream (n : Nat) (x : StreamQ) (j : Nat) : (s.setStream n x).host j = s.host j := rfl
@[simp] theorem State.abortEngine_setStream (n : Nat) (x : StreamQ) (j : Nat) : (s.setStream n x).abortEngine j = s.abortEngine j := rfl
@[simp] theorem State.ctx_setStream (n : Nat) (x : StreamQ) (j : Nat) : (s.setStream n x).ctx j = s.ctx j := rfl
@[simp] theorem State.dmaCh_setStream (n : Nat) (x : StreamQ) (j : Nat) : (s.setStream n x).dmaCh j = s.dmaCh j := rfl
@[simp] theorem State.entry_setStream (n : Nat) (x : StreamQ) (j : Nat) : (s.setStream n x).entry j = s.entry j := rfl
@[simp] theorem State.spn_setStream (n : Nat) (x : StreamQ) (j : Nat) : (s.setStream n x).spn j = s.spn j := rfl
@[simp] theorem State.timer_setStream (n : Nat) (x : StreamQ) (j : Nat) : (s.setStream n x).timer j = s.timer j := rfl
@[simp] theorem State.pair_setStream (n : Nat) (x : StreamQ) (j : Nat) : (s.setStream n x).pair j = s.pair j := rfl
@[simp] theorem State.group_setStream (n : Nat) (x : StreamQ) (j : Nat) : (s.setStream n x).group j = s.group j := rfl
@[simp] theorem State.comparator_setStream (n : Nat) (x : StreamQ) (j : Nat) : (s.setStream n x).comparator j = s.comparator j := rfl
@[simp] theorem State.fclkOn_setStream (n : Nat) (x : StreamQ) : (s.setStream n x).fclkOn = s.fclkOn := rfl
@[simp] theorem State.mediaOn_setStream (n : Nat) (x : StreamQ) : (s.setStream n x).mediaOn = s.mediaOn := rfl
@[simp] theorem State.sectorOn_setStream (n : Nat) (x : StreamQ) (j : Nat) : (s.setStream n x).sectorOn j = s.sectorOn j := rfl
@[simp] theorem State.coreOn_setStream (n : Nat) (x : StreamQ) (j : Nat) : (s.setStream n x).coreOn j = s.coreOn j := rfl
@[simp] theorem State.firmwareOn_setStream (n : Nat) (x : StreamQ) : (s.setStream n x).firmwareOn = s.firmwareOn := rfl
@[simp] theorem State.composerOn_setStream (n : Nat) (x : StreamQ) : (s.setStream n x).composerOn = s.composerOn := rfl

/-! ### setPipe -/

@[simp] theorem State.setPipe_pending (n : Nat) (x : Option ConJob) : (s.setPipe n x).pending = s.pending := rfl
@[simp] theorem State.setPipe_freeCtr (n : Nat) (x : Option ConJob) : (s.setPipe n x).freeCtr = s.freeCtr := rfl
@[simp] theorem State.setPipe_cyc (n : Nat) (x : Option ConJob) : (s.setPipe n x).cyc = s.cyc := rfl
@[simp] theorem State.setPipe_pulses (n : Nat) (x : Option ConJob) : (s.setPipe n x).pulses = s.pulses := rfl
@[simp] theorem State.setPipe_now (n : Nat) (x : Option ConJob) : (s.setPipe n x).now = s.now := rfl
@[simp] theorem State.setPipe_devTimer (n : Nat) (x : Option ConJob) : (s.setPipe n x).devTimer = s.devTimer := rfl
@[simp] theorem State.setPipe_regs (n : Nat) (x : Option ConJob) : (s.setPipe n x).regs = s.regs := rfl
@[simp] theorem State.setPipe_resp (n : Nat) (x : Option ConJob) : (s.setPipe n x).resp = s.resp := rfl
@[simp] theorem State.setPipe_shadow (n : Nat) (x : Option ConJob) : (s.setPipe n x).shadow = s.shadow := rfl
@[simp] theorem State.setPipe_sys (n : Nat) (x : Option ConJob) : (s.setPipe n x).sys = s.sys := rfl
@[simp] theorem State.setPipe_log (n : Nat) (x : Option ConJob) : (s.setPipe n x).log = s.log := rfl
@[simp] theorem State.setPipe_spindles (n : Nat) (x : Option ConJob) : (s.setPipe n x).spindles = s.spindles := rfl
@[simp] theorem State.setPipe_encoders (n : Nat) (x : Option ConJob) : (s.setPipe n x).encoders = s.encoders := rfl
@[simp] theorem State.setPipe_encSince (n : Nat) (x : Option ConJob) : (s.setPipe n x).encSince = s.encSince := rfl
@[simp] theorem State.setPipe_timers (n : Nat) (x : Option ConJob) : (s.setPipe n x).timers = s.timers := rfl
@[simp] theorem State.setPipe_ptp (n : Nat) (x : Option ConJob) : (s.setPipe n x).ptp = s.ptp := rfl
@[simp] theorem State.setPipe_adcs (n : Nat) (x : Option ConJob) : (s.setPipe n x).adcs = s.adcs := rfl
@[simp] theorem State.setPipe_channels (n : Nat) (x : Option ConJob) : (s.setPipe n x).channels = s.channels := rfl
@[simp] theorem State.setPipe_comparators (n : Nat) (x : Option ConJob) : (s.setPipe n x).comparators = s.comparators := rfl
@[simp] theorem State.setPipe_demods (n : Nat) (x : Option ConJob) : (s.setPipe n x).demods = s.demods := rfl
@[simp] theorem State.setPipe_sectors (n : Nat) (x : Option ConJob) : (s.setPipe n x).sectors = s.sectors := rfl
@[simp] theorem State.setPipe_pairs (n : Nat) (x : Option ConJob) : (s.setPipe n x).pairs = s.pairs := rfl
@[simp] theorem State.setPipe_groups (n : Nat) (x : Option ConJob) : (s.setPipe n x).groups = s.groups := rfl
@[simp] theorem State.setPipe_tripPins (n : Nat) (x : Option ConJob) : (s.setPipe n x).tripPins = s.tripPins := rfl
@[simp] theorem State.setPipe_zonePins (n : Nat) (x : Option ConJob) : (s.setPipe n x).zonePins = s.zonePins := rfl
@[simp] theorem State.setPipe_tripAll (n : Nat) (x : Option ConJob) : (s.setPipe n x).tripAll = s.tripAll := rfl
@[simp] theorem State.setPipe_plate (n : Nat) (x : Option ConJob) : (s.setPipe n x).plate = s.plate := rfl
@[simp] theorem State.setPipe_loops (n : Nat) (x : Option ConJob) : (s.setPipe n x).loops = s.loops := rfl
@[simp] theorem State.setPipe_place (n : Nat) (x : Option ConJob) : (s.setPipe n x).place = s.place := rfl
@[simp] theorem State.setPipe_cores (n : Nat) (x : Option ConJob) : (s.setPipe n x).cores = s.cores := rfl
@[simp] theorem State.setPipe_aic (n : Nat) (x : Option ConJob) : (s.setPipe n x).aic = s.aic := rfl
@[simp] theorem State.setPipe_dma (n : Nat) (x : Option ConJob) : (s.setPipe n x).dma = s.dma := rfl
@[simp] theorem State.setPipe_dmaLast (n : Nat) (x : Option ConJob) : (s.setPipe n x).dmaLast = s.dmaLast := rfl
@[simp] theorem State.setPipe_outbound (n : Nat) (x : Option ConJob) : (s.setPipe n x).outbound = s.outbound := rfl
@[simp] theorem State.setPipe_posted (n : Nat) (x : Option ConJob) : (s.setPipe n x).posted = s.posted := rfl
@[simp] theorem State.setPipe_consoles (n : Nat) (x : Option ConJob) : (s.setPipe n x).consoles = s.consoles := rfl
@[simp] theorem State.setPipe_conJobs (n : Nat) (x : Option ConJob) : (s.setPipe n x).conJobs = s.conJobs := rfl
@[simp] theorem State.setPipe_streams (n : Nat) (x : Option ConJob) : (s.setPipe n x).streams = s.streams := rfl
@[simp] theorem State.setPipe_liveLines (n : Nat) (x : Option ConJob) : (s.setPipe n x).liveLines = s.liveLines := rfl
@[simp] theorem State.setPipe_active (n : Nat) (x : Option ConJob) : (s.setPipe n x).active = s.active := rfl
@[simp] theorem State.setPipe_mover (n : Nat) (x : Option ConJob) : (s.setPipe n x).mover = s.mover := rfl
@[simp] theorem State.setPipe_heads (n : Nat) (x : Option ConJob) : (s.setPipe n x).heads = s.heads := rfl
@[simp] theorem State.setPipe_audio (n : Nat) (x : Option ConJob) : (s.setPipe n x).audio = s.audio := rfl
@[simp] theorem State.setPipe_bankSupply (n : Nat) (x : Option ConJob) : (s.setPipe n x).bankSupply = s.bankSupply := rfl
@[simp] theorem State.setPipe_keepers (n : Nat) (x : Option ConJob) : (s.setPipe n x).keepers = s.keepers := rfl
@[simp] theorem State.setPipe_sec (n : Nat) (x : Option ConJob) : (s.setPipe n x).sec = s.sec := rfl
@[simp] theorem State.setPipe_cvs (n : Nat) (x : Option ConJob) : (s.setPipe n x).cvs = s.cvs := rfl
@[simp] theorem State.setPipe_hosts (n : Nat) (x : Option ConJob) : (s.setPipe n x).hosts = s.hosts := rfl
@[simp] theorem State.setPipe_dict (n : Nat) (x : Option ConJob) : (s.setPipe n x).dict = s.dict := rfl
@[simp] theorem State.setPipe_canNode (n : Nat) (x : Option ConJob) : (s.setPipe n x).canNode = s.canNode := rfl
@[simp] theorem State.setPipe_cans (n : Nat) (x : Option ConJob) : (s.setPipe n x).cans = s.cans := rfl
@[simp] theorem State.setPipe_macs (n : Nat) (x : Option ConJob) : (s.setPipe n x).macs = s.macs := rfl
@[simp] theorem State.setPipe_aborts (n : Nat) (x : Option ConJob) : (s.setPipe n x).aborts = s.aborts := rfl
@[simp] theorem State.setPipe_iotlb (n : Nat) (x : Option ConJob) : (s.setPipe n x).iotlb = s.iotlb := rfl
@[simp] theorem State.setPipe_sbOld (n : Nat) (x : Option ConJob) : (s.setPipe n x).sbOld = s.sbOld := rfl
@[simp] theorem State.setPipe_trainTries (n : Nat) (x : Option ConJob) : (s.setPipe n x).trainTries = s.trainTries := rfl
@[simp] theorem State.setPipe_refreshFast (n : Nat) (x : Option ConJob) : (s.setPipe n x).refreshFast = s.refreshFast := rfl
@[simp] theorem State.setPipe_dramTemp (n : Nat) (x : Option ConJob) : (s.setPipe n x).dramTemp = s.dramTemp := rfl
@[simp] theorem State.setPipe_macQueues (n : Nat) (x : Option ConJob) : (s.setPipe n x).macQueues = s.macQueues := rfl
@[simp] theorem State.setPipe_busyPins (n : Nat) (x : Option ConJob) : (s.setPipe n x).busyPins = s.busyPins := rfl
@[simp] theorem State.setPipe_tsClaimed (n : Nat) (x : Option ConJob) : (s.setPipe n x).tsClaimed = s.tsClaimed := rfl
@[simp] theorem State.setPipe_mem (n : Nat) (x : Option ConJob) : (s.setPipe n x).mem = s.mem := rfl
@[simp] theorem State.setPipe_nor (n : Nat) (x : Option ConJob) : (s.setPipe n x).nor = s.nor := rfl
@[simp] theorem State.setPipe_poison (n : Nat) (x : Option ConJob) : (s.setPipe n x).poison = s.poison := rfl
@[simp] theorem State.setPipe_checks (n : Nat) (x : Option ConJob) : (s.setPipe n x).checks = s.checks := rfl
@[simp] theorem State.reg_setPipe (n : Nat) (x : Option ConJob) (a0 : Nat) : (s.setPipe n x).reg a0 = s.reg a0 := rfl
@[simp] theorem State.fld_setPipe (n : Nat) (x : Option ConJob) (a0 : Nat) (h0 : Nat) (l0 : Nat) : (s.setPipe n x).fld a0 h0 l0 = s.fld a0 h0 l0 := rfl
@[simp] theorem State.bit_setPipe (n : Nat) (x : Option ConJob) (a0 : Nat) (i0 : Nat) : (s.setPipe n x).bit a0 i0 = s.bit a0 i0 := rfl
@[simp] theorem State.byte_setPipe (n : Nat) (x : Option ConJob) (a0 : Nat) : (s.setPipe n x).byte a0 = s.byte a0 := rfl
@[simp] theorem State.norByte_setPipe (n : Nat) (x : Option ConJob) (a0 : Nat) : (s.setPipe n x).norByte a0 = s.norByte a0 := rfl
@[simp] theorem State.adc_setPipe (n : Nat) (x : Option ConJob) (j : Nat) : (s.setPipe n x).adc j = s.adc j := rfl
@[simp] theorem State.chan_setPipe (n : Nat) (x : Option ConJob) (j : Nat) : (s.setPipe n x).chan j = s.chan j := rfl
@[simp] theorem State.demod_setPipe (n : Nat) (x : Option ConJob) (j : Nat) : (s.setPipe n x).demod j = s.demod j := rfl
@[simp] theorem State.sector_setPipe (n : Nat) (x : Option ConJob) (j : Nat) : (s.setPipe n x).sector j = s.sector j := rfl
@[simp] theorem State.aicCore_setPipe (n : Nat) (x : Option ConJob) (j : Nat) : (s.setPipe n x).aicCore j = s.aicCore j := rfl
@[simp] theorem State.con_setPipe (n : Nat) (x : Option ConJob) (j : Nat) : (s.setPipe n x).con j = s.con j := rfl
@[simp] theorem State.stream_setPipe (n : Nat) (x : Option ConJob) (j : Nat) : (s.setPipe n x).stream j = s.stream j := rfl
@[simp] theorem State.core_setPipe (n : Nat) (x : Option ConJob) (j : Nat) : (s.setPipe n x).core j = s.core j := rfl
@[simp] theorem State.greg_setPipe (n : Nat) (x : Option ConJob) (j : Nat) (r : Nat) : (s.setPipe n x).greg j r = s.greg j r := rfl
@[simp] theorem State.cv_setPipe (n : Nat) (x : Option ConJob) (j : Nat) : (s.setPipe n x).cv j = s.cv j := rfl
@[simp] theorem State.head_setPipe (n : Nat) (x : Option ConJob) (j : Nat) : (s.setPipe n x).head j = s.head j := rfl
@[simp] theorem State.host_setPipe (n : Nat) (x : Option ConJob) (j : Nat) : (s.setPipe n x).host j = s.host j := rfl
@[simp] theorem State.abortEngine_setPipe (n : Nat) (x : Option ConJob) (j : Nat) : (s.setPipe n x).abortEngine j = s.abortEngine j := rfl
@[simp] theorem State.ctx_setPipe (n : Nat) (x : Option ConJob) (j : Nat) : (s.setPipe n x).ctx j = s.ctx j := rfl
@[simp] theorem State.dmaCh_setPipe (n : Nat) (x : Option ConJob) (j : Nat) : (s.setPipe n x).dmaCh j = s.dmaCh j := rfl
@[simp] theorem State.entry_setPipe (n : Nat) (x : Option ConJob) (j : Nat) : (s.setPipe n x).entry j = s.entry j := rfl
@[simp] theorem State.spn_setPipe (n : Nat) (x : Option ConJob) (j : Nat) : (s.setPipe n x).spn j = s.spn j := rfl
@[simp] theorem State.timer_setPipe (n : Nat) (x : Option ConJob) (j : Nat) : (s.setPipe n x).timer j = s.timer j := rfl
@[simp] theorem State.pair_setPipe (n : Nat) (x : Option ConJob) (j : Nat) : (s.setPipe n x).pair j = s.pair j := rfl
@[simp] theorem State.group_setPipe (n : Nat) (x : Option ConJob) (j : Nat) : (s.setPipe n x).group j = s.group j := rfl
@[simp] theorem State.comparator_setPipe (n : Nat) (x : Option ConJob) (j : Nat) : (s.setPipe n x).comparator j = s.comparator j := rfl
@[simp] theorem State.fclkOn_setPipe (n : Nat) (x : Option ConJob) : (s.setPipe n x).fclkOn = s.fclkOn := rfl
@[simp] theorem State.mediaOn_setPipe (n : Nat) (x : Option ConJob) : (s.setPipe n x).mediaOn = s.mediaOn := rfl
@[simp] theorem State.sectorOn_setPipe (n : Nat) (x : Option ConJob) (j : Nat) : (s.setPipe n x).sectorOn j = s.sectorOn j := rfl
@[simp] theorem State.coreOn_setPipe (n : Nat) (x : Option ConJob) (j : Nat) : (s.setPipe n x).coreOn j = s.coreOn j := rfl
@[simp] theorem State.firmwareOn_setPipe (n : Nat) (x : Option ConJob) : (s.setPipe n x).firmwareOn = s.firmwareOn := rfl
@[simp] theorem State.composerOn_setPipe (n : Nat) (x : Option ConJob) : (s.setPipe n x).composerOn = s.composerOn := rfl

/-! ### setCore -/

@[simp] theorem State.setCore_pending (n : Nat) (x : Core) : (s.setCore n x).pending = s.pending := rfl
@[simp] theorem State.setCore_freeCtr (n : Nat) (x : Core) : (s.setCore n x).freeCtr = s.freeCtr := rfl
@[simp] theorem State.setCore_cyc (n : Nat) (x : Core) : (s.setCore n x).cyc = s.cyc := rfl
@[simp] theorem State.setCore_pulses (n : Nat) (x : Core) : (s.setCore n x).pulses = s.pulses := rfl
@[simp] theorem State.setCore_now (n : Nat) (x : Core) : (s.setCore n x).now = s.now := rfl
@[simp] theorem State.setCore_devTimer (n : Nat) (x : Core) : (s.setCore n x).devTimer = s.devTimer := rfl
@[simp] theorem State.setCore_regs (n : Nat) (x : Core) : (s.setCore n x).regs = s.regs := rfl
@[simp] theorem State.setCore_resp (n : Nat) (x : Core) : (s.setCore n x).resp = s.resp := rfl
@[simp] theorem State.setCore_shadow (n : Nat) (x : Core) : (s.setCore n x).shadow = s.shadow := rfl
@[simp] theorem State.setCore_sys (n : Nat) (x : Core) : (s.setCore n x).sys = s.sys := rfl
@[simp] theorem State.setCore_log (n : Nat) (x : Core) : (s.setCore n x).log = s.log := rfl
@[simp] theorem State.setCore_spindles (n : Nat) (x : Core) : (s.setCore n x).spindles = s.spindles := rfl
@[simp] theorem State.setCore_encoders (n : Nat) (x : Core) : (s.setCore n x).encoders = s.encoders := rfl
@[simp] theorem State.setCore_encSince (n : Nat) (x : Core) : (s.setCore n x).encSince = s.encSince := rfl
@[simp] theorem State.setCore_timers (n : Nat) (x : Core) : (s.setCore n x).timers = s.timers := rfl
@[simp] theorem State.setCore_ptp (n : Nat) (x : Core) : (s.setCore n x).ptp = s.ptp := rfl
@[simp] theorem State.setCore_adcs (n : Nat) (x : Core) : (s.setCore n x).adcs = s.adcs := rfl
@[simp] theorem State.setCore_channels (n : Nat) (x : Core) : (s.setCore n x).channels = s.channels := rfl
@[simp] theorem State.setCore_comparators (n : Nat) (x : Core) : (s.setCore n x).comparators = s.comparators := rfl
@[simp] theorem State.setCore_demods (n : Nat) (x : Core) : (s.setCore n x).demods = s.demods := rfl
@[simp] theorem State.setCore_sectors (n : Nat) (x : Core) : (s.setCore n x).sectors = s.sectors := rfl
@[simp] theorem State.setCore_pairs (n : Nat) (x : Core) : (s.setCore n x).pairs = s.pairs := rfl
@[simp] theorem State.setCore_groups (n : Nat) (x : Core) : (s.setCore n x).groups = s.groups := rfl
@[simp] theorem State.setCore_tripPins (n : Nat) (x : Core) : (s.setCore n x).tripPins = s.tripPins := rfl
@[simp] theorem State.setCore_zonePins (n : Nat) (x : Core) : (s.setCore n x).zonePins = s.zonePins := rfl
@[simp] theorem State.setCore_tripAll (n : Nat) (x : Core) : (s.setCore n x).tripAll = s.tripAll := rfl
@[simp] theorem State.setCore_plate (n : Nat) (x : Core) : (s.setCore n x).plate = s.plate := rfl
@[simp] theorem State.setCore_loops (n : Nat) (x : Core) : (s.setCore n x).loops = s.loops := rfl
@[simp] theorem State.setCore_place (n : Nat) (x : Core) : (s.setCore n x).place = s.place := rfl
@[simp] theorem State.setCore_aic (n : Nat) (x : Core) : (s.setCore n x).aic = s.aic := rfl
@[simp] theorem State.setCore_dma (n : Nat) (x : Core) : (s.setCore n x).dma = s.dma := rfl
@[simp] theorem State.setCore_dmaLast (n : Nat) (x : Core) : (s.setCore n x).dmaLast = s.dmaLast := rfl
@[simp] theorem State.setCore_outbound (n : Nat) (x : Core) : (s.setCore n x).outbound = s.outbound := rfl
@[simp] theorem State.setCore_posted (n : Nat) (x : Core) : (s.setCore n x).posted = s.posted := rfl
@[simp] theorem State.setCore_consoles (n : Nat) (x : Core) : (s.setCore n x).consoles = s.consoles := rfl
@[simp] theorem State.setCore_conJobs (n : Nat) (x : Core) : (s.setCore n x).conJobs = s.conJobs := rfl
@[simp] theorem State.setCore_pipes (n : Nat) (x : Core) : (s.setCore n x).pipes = s.pipes := rfl
@[simp] theorem State.setCore_streams (n : Nat) (x : Core) : (s.setCore n x).streams = s.streams := rfl
@[simp] theorem State.setCore_liveLines (n : Nat) (x : Core) : (s.setCore n x).liveLines = s.liveLines := rfl
@[simp] theorem State.setCore_active (n : Nat) (x : Core) : (s.setCore n x).active = s.active := rfl
@[simp] theorem State.setCore_mover (n : Nat) (x : Core) : (s.setCore n x).mover = s.mover := rfl
@[simp] theorem State.setCore_heads (n : Nat) (x : Core) : (s.setCore n x).heads = s.heads := rfl
@[simp] theorem State.setCore_audio (n : Nat) (x : Core) : (s.setCore n x).audio = s.audio := rfl
@[simp] theorem State.setCore_bankSupply (n : Nat) (x : Core) : (s.setCore n x).bankSupply = s.bankSupply := rfl
@[simp] theorem State.setCore_keepers (n : Nat) (x : Core) : (s.setCore n x).keepers = s.keepers := rfl
@[simp] theorem State.setCore_sec (n : Nat) (x : Core) : (s.setCore n x).sec = s.sec := rfl
@[simp] theorem State.setCore_cvs (n : Nat) (x : Core) : (s.setCore n x).cvs = s.cvs := rfl
@[simp] theorem State.setCore_hosts (n : Nat) (x : Core) : (s.setCore n x).hosts = s.hosts := rfl
@[simp] theorem State.setCore_dict (n : Nat) (x : Core) : (s.setCore n x).dict = s.dict := rfl
@[simp] theorem State.setCore_canNode (n : Nat) (x : Core) : (s.setCore n x).canNode = s.canNode := rfl
@[simp] theorem State.setCore_cans (n : Nat) (x : Core) : (s.setCore n x).cans = s.cans := rfl
@[simp] theorem State.setCore_macs (n : Nat) (x : Core) : (s.setCore n x).macs = s.macs := rfl
@[simp] theorem State.setCore_aborts (n : Nat) (x : Core) : (s.setCore n x).aborts = s.aborts := rfl
@[simp] theorem State.setCore_iotlb (n : Nat) (x : Core) : (s.setCore n x).iotlb = s.iotlb := rfl
@[simp] theorem State.setCore_sbOld (n : Nat) (x : Core) : (s.setCore n x).sbOld = s.sbOld := rfl
@[simp] theorem State.setCore_trainTries (n : Nat) (x : Core) : (s.setCore n x).trainTries = s.trainTries := rfl
@[simp] theorem State.setCore_refreshFast (n : Nat) (x : Core) : (s.setCore n x).refreshFast = s.refreshFast := rfl
@[simp] theorem State.setCore_dramTemp (n : Nat) (x : Core) : (s.setCore n x).dramTemp = s.dramTemp := rfl
@[simp] theorem State.setCore_macQueues (n : Nat) (x : Core) : (s.setCore n x).macQueues = s.macQueues := rfl
@[simp] theorem State.setCore_busyPins (n : Nat) (x : Core) : (s.setCore n x).busyPins = s.busyPins := rfl
@[simp] theorem State.setCore_tsClaimed (n : Nat) (x : Core) : (s.setCore n x).tsClaimed = s.tsClaimed := rfl
@[simp] theorem State.setCore_mem (n : Nat) (x : Core) : (s.setCore n x).mem = s.mem := rfl
@[simp] theorem State.setCore_nor (n : Nat) (x : Core) : (s.setCore n x).nor = s.nor := rfl
@[simp] theorem State.setCore_poison (n : Nat) (x : Core) : (s.setCore n x).poison = s.poison := rfl
@[simp] theorem State.setCore_checks (n : Nat) (x : Core) : (s.setCore n x).checks = s.checks := rfl
@[simp] theorem State.reg_setCore (n : Nat) (x : Core) (a0 : Nat) : (s.setCore n x).reg a0 = s.reg a0 := rfl
@[simp] theorem State.fld_setCore (n : Nat) (x : Core) (a0 : Nat) (h0 : Nat) (l0 : Nat) : (s.setCore n x).fld a0 h0 l0 = s.fld a0 h0 l0 := rfl
@[simp] theorem State.bit_setCore (n : Nat) (x : Core) (a0 : Nat) (i0 : Nat) : (s.setCore n x).bit a0 i0 = s.bit a0 i0 := rfl
@[simp] theorem State.byte_setCore (n : Nat) (x : Core) (a0 : Nat) : (s.setCore n x).byte a0 = s.byte a0 := rfl
@[simp] theorem State.norByte_setCore (n : Nat) (x : Core) (a0 : Nat) : (s.setCore n x).norByte a0 = s.norByte a0 := rfl
@[simp] theorem State.adc_setCore (n : Nat) (x : Core) (j : Nat) : (s.setCore n x).adc j = s.adc j := rfl
@[simp] theorem State.chan_setCore (n : Nat) (x : Core) (j : Nat) : (s.setCore n x).chan j = s.chan j := rfl
@[simp] theorem State.demod_setCore (n : Nat) (x : Core) (j : Nat) : (s.setCore n x).demod j = s.demod j := rfl
@[simp] theorem State.sector_setCore (n : Nat) (x : Core) (j : Nat) : (s.setCore n x).sector j = s.sector j := rfl
@[simp] theorem State.aicCore_setCore (n : Nat) (x : Core) (j : Nat) : (s.setCore n x).aicCore j = s.aicCore j := rfl
@[simp] theorem State.con_setCore (n : Nat) (x : Core) (j : Nat) : (s.setCore n x).con j = s.con j := rfl
@[simp] theorem State.stream_setCore (n : Nat) (x : Core) (j : Nat) : (s.setCore n x).stream j = s.stream j := rfl
@[simp] theorem State.cv_setCore (n : Nat) (x : Core) (j : Nat) : (s.setCore n x).cv j = s.cv j := rfl
@[simp] theorem State.head_setCore (n : Nat) (x : Core) (j : Nat) : (s.setCore n x).head j = s.head j := rfl
@[simp] theorem State.host_setCore (n : Nat) (x : Core) (j : Nat) : (s.setCore n x).host j = s.host j := rfl
@[simp] theorem State.abortEngine_setCore (n : Nat) (x : Core) (j : Nat) : (s.setCore n x).abortEngine j = s.abortEngine j := rfl
@[simp] theorem State.ctx_setCore (n : Nat) (x : Core) (j : Nat) : (s.setCore n x).ctx j = s.ctx j := rfl
@[simp] theorem State.dmaCh_setCore (n : Nat) (x : Core) (j : Nat) : (s.setCore n x).dmaCh j = s.dmaCh j := rfl
@[simp] theorem State.entry_setCore (n : Nat) (x : Core) (j : Nat) : (s.setCore n x).entry j = s.entry j := rfl
@[simp] theorem State.spn_setCore (n : Nat) (x : Core) (j : Nat) : (s.setCore n x).spn j = s.spn j := rfl
@[simp] theorem State.timer_setCore (n : Nat) (x : Core) (j : Nat) : (s.setCore n x).timer j = s.timer j := rfl
@[simp] theorem State.pair_setCore (n : Nat) (x : Core) (j : Nat) : (s.setCore n x).pair j = s.pair j := rfl
@[simp] theorem State.group_setCore (n : Nat) (x : Core) (j : Nat) : (s.setCore n x).group j = s.group j := rfl
@[simp] theorem State.comparator_setCore (n : Nat) (x : Core) (j : Nat) : (s.setCore n x).comparator j = s.comparator j := rfl
@[simp] theorem State.fclkOn_setCore (n : Nat) (x : Core) : (s.setCore n x).fclkOn = s.fclkOn := rfl
@[simp] theorem State.mediaOn_setCore (n : Nat) (x : Core) : (s.setCore n x).mediaOn = s.mediaOn := rfl
@[simp] theorem State.sectorOn_setCore (n : Nat) (x : Core) (j : Nat) : (s.setCore n x).sectorOn j = s.sectorOn j := rfl
@[simp] theorem State.coreOn_setCore (n : Nat) (x : Core) (j : Nat) : (s.setCore n x).coreOn j = s.coreOn j := rfl
@[simp] theorem State.firmwareOn_setCore (n : Nat) (x : Core) : (s.setCore n x).firmwareOn = s.firmwareOn := rfl
@[simp] theorem State.composerOn_setCore (n : Nat) (x : Core) : (s.setCore n x).composerOn = s.composerOn := rfl

/-! ### setCv -/

@[simp] theorem State.setCv_pending (n : Nat) (x : CvUnit) : (s.setCv n x).pending = s.pending := rfl
@[simp] theorem State.setCv_freeCtr (n : Nat) (x : CvUnit) : (s.setCv n x).freeCtr = s.freeCtr := rfl
@[simp] theorem State.setCv_cyc (n : Nat) (x : CvUnit) : (s.setCv n x).cyc = s.cyc := rfl
@[simp] theorem State.setCv_pulses (n : Nat) (x : CvUnit) : (s.setCv n x).pulses = s.pulses := rfl
@[simp] theorem State.setCv_now (n : Nat) (x : CvUnit) : (s.setCv n x).now = s.now := rfl
@[simp] theorem State.setCv_devTimer (n : Nat) (x : CvUnit) : (s.setCv n x).devTimer = s.devTimer := rfl
@[simp] theorem State.setCv_regs (n : Nat) (x : CvUnit) : (s.setCv n x).regs = s.regs := rfl
@[simp] theorem State.setCv_resp (n : Nat) (x : CvUnit) : (s.setCv n x).resp = s.resp := rfl
@[simp] theorem State.setCv_shadow (n : Nat) (x : CvUnit) : (s.setCv n x).shadow = s.shadow := rfl
@[simp] theorem State.setCv_sys (n : Nat) (x : CvUnit) : (s.setCv n x).sys = s.sys := rfl
@[simp] theorem State.setCv_log (n : Nat) (x : CvUnit) : (s.setCv n x).log = s.log := rfl
@[simp] theorem State.setCv_spindles (n : Nat) (x : CvUnit) : (s.setCv n x).spindles = s.spindles := rfl
@[simp] theorem State.setCv_encoders (n : Nat) (x : CvUnit) : (s.setCv n x).encoders = s.encoders := rfl
@[simp] theorem State.setCv_encSince (n : Nat) (x : CvUnit) : (s.setCv n x).encSince = s.encSince := rfl
@[simp] theorem State.setCv_timers (n : Nat) (x : CvUnit) : (s.setCv n x).timers = s.timers := rfl
@[simp] theorem State.setCv_ptp (n : Nat) (x : CvUnit) : (s.setCv n x).ptp = s.ptp := rfl
@[simp] theorem State.setCv_adcs (n : Nat) (x : CvUnit) : (s.setCv n x).adcs = s.adcs := rfl
@[simp] theorem State.setCv_channels (n : Nat) (x : CvUnit) : (s.setCv n x).channels = s.channels := rfl
@[simp] theorem State.setCv_comparators (n : Nat) (x : CvUnit) : (s.setCv n x).comparators = s.comparators := rfl
@[simp] theorem State.setCv_demods (n : Nat) (x : CvUnit) : (s.setCv n x).demods = s.demods := rfl
@[simp] theorem State.setCv_sectors (n : Nat) (x : CvUnit) : (s.setCv n x).sectors = s.sectors := rfl
@[simp] theorem State.setCv_pairs (n : Nat) (x : CvUnit) : (s.setCv n x).pairs = s.pairs := rfl
@[simp] theorem State.setCv_groups (n : Nat) (x : CvUnit) : (s.setCv n x).groups = s.groups := rfl
@[simp] theorem State.setCv_tripPins (n : Nat) (x : CvUnit) : (s.setCv n x).tripPins = s.tripPins := rfl
@[simp] theorem State.setCv_zonePins (n : Nat) (x : CvUnit) : (s.setCv n x).zonePins = s.zonePins := rfl
@[simp] theorem State.setCv_tripAll (n : Nat) (x : CvUnit) : (s.setCv n x).tripAll = s.tripAll := rfl
@[simp] theorem State.setCv_plate (n : Nat) (x : CvUnit) : (s.setCv n x).plate = s.plate := rfl
@[simp] theorem State.setCv_loops (n : Nat) (x : CvUnit) : (s.setCv n x).loops = s.loops := rfl
@[simp] theorem State.setCv_place (n : Nat) (x : CvUnit) : (s.setCv n x).place = s.place := rfl
@[simp] theorem State.setCv_cores (n : Nat) (x : CvUnit) : (s.setCv n x).cores = s.cores := rfl
@[simp] theorem State.setCv_aic (n : Nat) (x : CvUnit) : (s.setCv n x).aic = s.aic := rfl
@[simp] theorem State.setCv_dma (n : Nat) (x : CvUnit) : (s.setCv n x).dma = s.dma := rfl
@[simp] theorem State.setCv_dmaLast (n : Nat) (x : CvUnit) : (s.setCv n x).dmaLast = s.dmaLast := rfl
@[simp] theorem State.setCv_outbound (n : Nat) (x : CvUnit) : (s.setCv n x).outbound = s.outbound := rfl
@[simp] theorem State.setCv_posted (n : Nat) (x : CvUnit) : (s.setCv n x).posted = s.posted := rfl
@[simp] theorem State.setCv_consoles (n : Nat) (x : CvUnit) : (s.setCv n x).consoles = s.consoles := rfl
@[simp] theorem State.setCv_conJobs (n : Nat) (x : CvUnit) : (s.setCv n x).conJobs = s.conJobs := rfl
@[simp] theorem State.setCv_pipes (n : Nat) (x : CvUnit) : (s.setCv n x).pipes = s.pipes := rfl
@[simp] theorem State.setCv_streams (n : Nat) (x : CvUnit) : (s.setCv n x).streams = s.streams := rfl
@[simp] theorem State.setCv_liveLines (n : Nat) (x : CvUnit) : (s.setCv n x).liveLines = s.liveLines := rfl
@[simp] theorem State.setCv_active (n : Nat) (x : CvUnit) : (s.setCv n x).active = s.active := rfl
@[simp] theorem State.setCv_mover (n : Nat) (x : CvUnit) : (s.setCv n x).mover = s.mover := rfl
@[simp] theorem State.setCv_heads (n : Nat) (x : CvUnit) : (s.setCv n x).heads = s.heads := rfl
@[simp] theorem State.setCv_audio (n : Nat) (x : CvUnit) : (s.setCv n x).audio = s.audio := rfl
@[simp] theorem State.setCv_bankSupply (n : Nat) (x : CvUnit) : (s.setCv n x).bankSupply = s.bankSupply := rfl
@[simp] theorem State.setCv_keepers (n : Nat) (x : CvUnit) : (s.setCv n x).keepers = s.keepers := rfl
@[simp] theorem State.setCv_sec (n : Nat) (x : CvUnit) : (s.setCv n x).sec = s.sec := rfl
@[simp] theorem State.setCv_hosts (n : Nat) (x : CvUnit) : (s.setCv n x).hosts = s.hosts := rfl
@[simp] theorem State.setCv_dict (n : Nat) (x : CvUnit) : (s.setCv n x).dict = s.dict := rfl
@[simp] theorem State.setCv_canNode (n : Nat) (x : CvUnit) : (s.setCv n x).canNode = s.canNode := rfl
@[simp] theorem State.setCv_cans (n : Nat) (x : CvUnit) : (s.setCv n x).cans = s.cans := rfl
@[simp] theorem State.setCv_macs (n : Nat) (x : CvUnit) : (s.setCv n x).macs = s.macs := rfl
@[simp] theorem State.setCv_aborts (n : Nat) (x : CvUnit) : (s.setCv n x).aborts = s.aborts := rfl
@[simp] theorem State.setCv_iotlb (n : Nat) (x : CvUnit) : (s.setCv n x).iotlb = s.iotlb := rfl
@[simp] theorem State.setCv_sbOld (n : Nat) (x : CvUnit) : (s.setCv n x).sbOld = s.sbOld := rfl
@[simp] theorem State.setCv_trainTries (n : Nat) (x : CvUnit) : (s.setCv n x).trainTries = s.trainTries := rfl
@[simp] theorem State.setCv_refreshFast (n : Nat) (x : CvUnit) : (s.setCv n x).refreshFast = s.refreshFast := rfl
@[simp] theorem State.setCv_dramTemp (n : Nat) (x : CvUnit) : (s.setCv n x).dramTemp = s.dramTemp := rfl
@[simp] theorem State.setCv_macQueues (n : Nat) (x : CvUnit) : (s.setCv n x).macQueues = s.macQueues := rfl
@[simp] theorem State.setCv_busyPins (n : Nat) (x : CvUnit) : (s.setCv n x).busyPins = s.busyPins := rfl
@[simp] theorem State.setCv_tsClaimed (n : Nat) (x : CvUnit) : (s.setCv n x).tsClaimed = s.tsClaimed := rfl
@[simp] theorem State.setCv_mem (n : Nat) (x : CvUnit) : (s.setCv n x).mem = s.mem := rfl
@[simp] theorem State.setCv_nor (n : Nat) (x : CvUnit) : (s.setCv n x).nor = s.nor := rfl
@[simp] theorem State.setCv_poison (n : Nat) (x : CvUnit) : (s.setCv n x).poison = s.poison := rfl
@[simp] theorem State.setCv_checks (n : Nat) (x : CvUnit) : (s.setCv n x).checks = s.checks := rfl
@[simp] theorem State.reg_setCv (n : Nat) (x : CvUnit) (a0 : Nat) : (s.setCv n x).reg a0 = s.reg a0 := rfl
@[simp] theorem State.fld_setCv (n : Nat) (x : CvUnit) (a0 : Nat) (h0 : Nat) (l0 : Nat) : (s.setCv n x).fld a0 h0 l0 = s.fld a0 h0 l0 := rfl
@[simp] theorem State.bit_setCv (n : Nat) (x : CvUnit) (a0 : Nat) (i0 : Nat) : (s.setCv n x).bit a0 i0 = s.bit a0 i0 := rfl
@[simp] theorem State.byte_setCv (n : Nat) (x : CvUnit) (a0 : Nat) : (s.setCv n x).byte a0 = s.byte a0 := rfl
@[simp] theorem State.norByte_setCv (n : Nat) (x : CvUnit) (a0 : Nat) : (s.setCv n x).norByte a0 = s.norByte a0 := rfl
@[simp] theorem State.adc_setCv (n : Nat) (x : CvUnit) (j : Nat) : (s.setCv n x).adc j = s.adc j := rfl
@[simp] theorem State.chan_setCv (n : Nat) (x : CvUnit) (j : Nat) : (s.setCv n x).chan j = s.chan j := rfl
@[simp] theorem State.demod_setCv (n : Nat) (x : CvUnit) (j : Nat) : (s.setCv n x).demod j = s.demod j := rfl
@[simp] theorem State.sector_setCv (n : Nat) (x : CvUnit) (j : Nat) : (s.setCv n x).sector j = s.sector j := rfl
@[simp] theorem State.aicCore_setCv (n : Nat) (x : CvUnit) (j : Nat) : (s.setCv n x).aicCore j = s.aicCore j := rfl
@[simp] theorem State.con_setCv (n : Nat) (x : CvUnit) (j : Nat) : (s.setCv n x).con j = s.con j := rfl
@[simp] theorem State.stream_setCv (n : Nat) (x : CvUnit) (j : Nat) : (s.setCv n x).stream j = s.stream j := rfl
@[simp] theorem State.core_setCv (n : Nat) (x : CvUnit) (j : Nat) : (s.setCv n x).core j = s.core j := rfl
@[simp] theorem State.greg_setCv (n : Nat) (x : CvUnit) (j : Nat) (r : Nat) : (s.setCv n x).greg j r = s.greg j r := rfl
@[simp] theorem State.head_setCv (n : Nat) (x : CvUnit) (j : Nat) : (s.setCv n x).head j = s.head j := rfl
@[simp] theorem State.host_setCv (n : Nat) (x : CvUnit) (j : Nat) : (s.setCv n x).host j = s.host j := rfl
@[simp] theorem State.abortEngine_setCv (n : Nat) (x : CvUnit) (j : Nat) : (s.setCv n x).abortEngine j = s.abortEngine j := rfl
@[simp] theorem State.ctx_setCv (n : Nat) (x : CvUnit) (j : Nat) : (s.setCv n x).ctx j = s.ctx j := rfl
@[simp] theorem State.dmaCh_setCv (n : Nat) (x : CvUnit) (j : Nat) : (s.setCv n x).dmaCh j = s.dmaCh j := rfl
@[simp] theorem State.entry_setCv (n : Nat) (x : CvUnit) (j : Nat) : (s.setCv n x).entry j = s.entry j := rfl
@[simp] theorem State.spn_setCv (n : Nat) (x : CvUnit) (j : Nat) : (s.setCv n x).spn j = s.spn j := rfl
@[simp] theorem State.timer_setCv (n : Nat) (x : CvUnit) (j : Nat) : (s.setCv n x).timer j = s.timer j := rfl
@[simp] theorem State.pair_setCv (n : Nat) (x : CvUnit) (j : Nat) : (s.setCv n x).pair j = s.pair j := rfl
@[simp] theorem State.group_setCv (n : Nat) (x : CvUnit) (j : Nat) : (s.setCv n x).group j = s.group j := rfl
@[simp] theorem State.comparator_setCv (n : Nat) (x : CvUnit) (j : Nat) : (s.setCv n x).comparator j = s.comparator j := rfl
@[simp] theorem State.fclkOn_setCv (n : Nat) (x : CvUnit) : (s.setCv n x).fclkOn = s.fclkOn := rfl
@[simp] theorem State.mediaOn_setCv (n : Nat) (x : CvUnit) : (s.setCv n x).mediaOn = s.mediaOn := rfl
@[simp] theorem State.sectorOn_setCv (n : Nat) (x : CvUnit) (j : Nat) : (s.setCv n x).sectorOn j = s.sectorOn j := rfl
@[simp] theorem State.coreOn_setCv (n : Nat) (x : CvUnit) (j : Nat) : (s.setCv n x).coreOn j = s.coreOn j := rfl
@[simp] theorem State.firmwareOn_setCv (n : Nat) (x : CvUnit) : (s.setCv n x).firmwareOn = s.firmwareOn := rfl
@[simp] theorem State.composerOn_setCv (n : Nat) (x : CvUnit) : (s.setCv n x).composerOn = s.composerOn := rfl

/-! ### setHead -/

@[simp] theorem State.setHead_pending (n : Nat) (x : Head) : (s.setHead n x).pending = s.pending := rfl
@[simp] theorem State.setHead_freeCtr (n : Nat) (x : Head) : (s.setHead n x).freeCtr = s.freeCtr := rfl
@[simp] theorem State.setHead_cyc (n : Nat) (x : Head) : (s.setHead n x).cyc = s.cyc := rfl
@[simp] theorem State.setHead_pulses (n : Nat) (x : Head) : (s.setHead n x).pulses = s.pulses := rfl
@[simp] theorem State.setHead_now (n : Nat) (x : Head) : (s.setHead n x).now = s.now := rfl
@[simp] theorem State.setHead_devTimer (n : Nat) (x : Head) : (s.setHead n x).devTimer = s.devTimer := rfl
@[simp] theorem State.setHead_regs (n : Nat) (x : Head) : (s.setHead n x).regs = s.regs := rfl
@[simp] theorem State.setHead_resp (n : Nat) (x : Head) : (s.setHead n x).resp = s.resp := rfl
@[simp] theorem State.setHead_shadow (n : Nat) (x : Head) : (s.setHead n x).shadow = s.shadow := rfl
@[simp] theorem State.setHead_sys (n : Nat) (x : Head) : (s.setHead n x).sys = s.sys := rfl
@[simp] theorem State.setHead_log (n : Nat) (x : Head) : (s.setHead n x).log = s.log := rfl
@[simp] theorem State.setHead_spindles (n : Nat) (x : Head) : (s.setHead n x).spindles = s.spindles := rfl
@[simp] theorem State.setHead_encoders (n : Nat) (x : Head) : (s.setHead n x).encoders = s.encoders := rfl
@[simp] theorem State.setHead_encSince (n : Nat) (x : Head) : (s.setHead n x).encSince = s.encSince := rfl
@[simp] theorem State.setHead_timers (n : Nat) (x : Head) : (s.setHead n x).timers = s.timers := rfl
@[simp] theorem State.setHead_ptp (n : Nat) (x : Head) : (s.setHead n x).ptp = s.ptp := rfl
@[simp] theorem State.setHead_adcs (n : Nat) (x : Head) : (s.setHead n x).adcs = s.adcs := rfl
@[simp] theorem State.setHead_channels (n : Nat) (x : Head) : (s.setHead n x).channels = s.channels := rfl
@[simp] theorem State.setHead_comparators (n : Nat) (x : Head) : (s.setHead n x).comparators = s.comparators := rfl
@[simp] theorem State.setHead_demods (n : Nat) (x : Head) : (s.setHead n x).demods = s.demods := rfl
@[simp] theorem State.setHead_sectors (n : Nat) (x : Head) : (s.setHead n x).sectors = s.sectors := rfl
@[simp] theorem State.setHead_pairs (n : Nat) (x : Head) : (s.setHead n x).pairs = s.pairs := rfl
@[simp] theorem State.setHead_groups (n : Nat) (x : Head) : (s.setHead n x).groups = s.groups := rfl
@[simp] theorem State.setHead_tripPins (n : Nat) (x : Head) : (s.setHead n x).tripPins = s.tripPins := rfl
@[simp] theorem State.setHead_zonePins (n : Nat) (x : Head) : (s.setHead n x).zonePins = s.zonePins := rfl
@[simp] theorem State.setHead_tripAll (n : Nat) (x : Head) : (s.setHead n x).tripAll = s.tripAll := rfl
@[simp] theorem State.setHead_plate (n : Nat) (x : Head) : (s.setHead n x).plate = s.plate := rfl
@[simp] theorem State.setHead_loops (n : Nat) (x : Head) : (s.setHead n x).loops = s.loops := rfl
@[simp] theorem State.setHead_place (n : Nat) (x : Head) : (s.setHead n x).place = s.place := rfl
@[simp] theorem State.setHead_cores (n : Nat) (x : Head) : (s.setHead n x).cores = s.cores := rfl
@[simp] theorem State.setHead_aic (n : Nat) (x : Head) : (s.setHead n x).aic = s.aic := rfl
@[simp] theorem State.setHead_dma (n : Nat) (x : Head) : (s.setHead n x).dma = s.dma := rfl
@[simp] theorem State.setHead_dmaLast (n : Nat) (x : Head) : (s.setHead n x).dmaLast = s.dmaLast := rfl
@[simp] theorem State.setHead_outbound (n : Nat) (x : Head) : (s.setHead n x).outbound = s.outbound := rfl
@[simp] theorem State.setHead_posted (n : Nat) (x : Head) : (s.setHead n x).posted = s.posted := rfl
@[simp] theorem State.setHead_consoles (n : Nat) (x : Head) : (s.setHead n x).consoles = s.consoles := rfl
@[simp] theorem State.setHead_conJobs (n : Nat) (x : Head) : (s.setHead n x).conJobs = s.conJobs := rfl
@[simp] theorem State.setHead_pipes (n : Nat) (x : Head) : (s.setHead n x).pipes = s.pipes := rfl
@[simp] theorem State.setHead_streams (n : Nat) (x : Head) : (s.setHead n x).streams = s.streams := rfl
@[simp] theorem State.setHead_liveLines (n : Nat) (x : Head) : (s.setHead n x).liveLines = s.liveLines := rfl
@[simp] theorem State.setHead_active (n : Nat) (x : Head) : (s.setHead n x).active = s.active := rfl
@[simp] theorem State.setHead_mover (n : Nat) (x : Head) : (s.setHead n x).mover = s.mover := rfl
@[simp] theorem State.setHead_audio (n : Nat) (x : Head) : (s.setHead n x).audio = s.audio := rfl
@[simp] theorem State.setHead_bankSupply (n : Nat) (x : Head) : (s.setHead n x).bankSupply = s.bankSupply := rfl
@[simp] theorem State.setHead_keepers (n : Nat) (x : Head) : (s.setHead n x).keepers = s.keepers := rfl
@[simp] theorem State.setHead_sec (n : Nat) (x : Head) : (s.setHead n x).sec = s.sec := rfl
@[simp] theorem State.setHead_cvs (n : Nat) (x : Head) : (s.setHead n x).cvs = s.cvs := rfl
@[simp] theorem State.setHead_hosts (n : Nat) (x : Head) : (s.setHead n x).hosts = s.hosts := rfl
@[simp] theorem State.setHead_dict (n : Nat) (x : Head) : (s.setHead n x).dict = s.dict := rfl
@[simp] theorem State.setHead_canNode (n : Nat) (x : Head) : (s.setHead n x).canNode = s.canNode := rfl
@[simp] theorem State.setHead_cans (n : Nat) (x : Head) : (s.setHead n x).cans = s.cans := rfl
@[simp] theorem State.setHead_macs (n : Nat) (x : Head) : (s.setHead n x).macs = s.macs := rfl
@[simp] theorem State.setHead_aborts (n : Nat) (x : Head) : (s.setHead n x).aborts = s.aborts := rfl
@[simp] theorem State.setHead_iotlb (n : Nat) (x : Head) : (s.setHead n x).iotlb = s.iotlb := rfl
@[simp] theorem State.setHead_sbOld (n : Nat) (x : Head) : (s.setHead n x).sbOld = s.sbOld := rfl
@[simp] theorem State.setHead_trainTries (n : Nat) (x : Head) : (s.setHead n x).trainTries = s.trainTries := rfl
@[simp] theorem State.setHead_refreshFast (n : Nat) (x : Head) : (s.setHead n x).refreshFast = s.refreshFast := rfl
@[simp] theorem State.setHead_dramTemp (n : Nat) (x : Head) : (s.setHead n x).dramTemp = s.dramTemp := rfl
@[simp] theorem State.setHead_macQueues (n : Nat) (x : Head) : (s.setHead n x).macQueues = s.macQueues := rfl
@[simp] theorem State.setHead_busyPins (n : Nat) (x : Head) : (s.setHead n x).busyPins = s.busyPins := rfl
@[simp] theorem State.setHead_tsClaimed (n : Nat) (x : Head) : (s.setHead n x).tsClaimed = s.tsClaimed := rfl
@[simp] theorem State.setHead_mem (n : Nat) (x : Head) : (s.setHead n x).mem = s.mem := rfl
@[simp] theorem State.setHead_nor (n : Nat) (x : Head) : (s.setHead n x).nor = s.nor := rfl
@[simp] theorem State.setHead_poison (n : Nat) (x : Head) : (s.setHead n x).poison = s.poison := rfl
@[simp] theorem State.setHead_checks (n : Nat) (x : Head) : (s.setHead n x).checks = s.checks := rfl
@[simp] theorem State.reg_setHead (n : Nat) (x : Head) (a0 : Nat) : (s.setHead n x).reg a0 = s.reg a0 := rfl
@[simp] theorem State.fld_setHead (n : Nat) (x : Head) (a0 : Nat) (h0 : Nat) (l0 : Nat) : (s.setHead n x).fld a0 h0 l0 = s.fld a0 h0 l0 := rfl
@[simp] theorem State.bit_setHead (n : Nat) (x : Head) (a0 : Nat) (i0 : Nat) : (s.setHead n x).bit a0 i0 = s.bit a0 i0 := rfl
@[simp] theorem State.byte_setHead (n : Nat) (x : Head) (a0 : Nat) : (s.setHead n x).byte a0 = s.byte a0 := rfl
@[simp] theorem State.norByte_setHead (n : Nat) (x : Head) (a0 : Nat) : (s.setHead n x).norByte a0 = s.norByte a0 := rfl
@[simp] theorem State.adc_setHead (n : Nat) (x : Head) (j : Nat) : (s.setHead n x).adc j = s.adc j := rfl
@[simp] theorem State.chan_setHead (n : Nat) (x : Head) (j : Nat) : (s.setHead n x).chan j = s.chan j := rfl
@[simp] theorem State.demod_setHead (n : Nat) (x : Head) (j : Nat) : (s.setHead n x).demod j = s.demod j := rfl
@[simp] theorem State.sector_setHead (n : Nat) (x : Head) (j : Nat) : (s.setHead n x).sector j = s.sector j := rfl
@[simp] theorem State.aicCore_setHead (n : Nat) (x : Head) (j : Nat) : (s.setHead n x).aicCore j = s.aicCore j := rfl
@[simp] theorem State.con_setHead (n : Nat) (x : Head) (j : Nat) : (s.setHead n x).con j = s.con j := rfl
@[simp] theorem State.stream_setHead (n : Nat) (x : Head) (j : Nat) : (s.setHead n x).stream j = s.stream j := rfl
@[simp] theorem State.core_setHead (n : Nat) (x : Head) (j : Nat) : (s.setHead n x).core j = s.core j := rfl
@[simp] theorem State.greg_setHead (n : Nat) (x : Head) (j : Nat) (r : Nat) : (s.setHead n x).greg j r = s.greg j r := rfl
@[simp] theorem State.cv_setHead (n : Nat) (x : Head) (j : Nat) : (s.setHead n x).cv j = s.cv j := rfl
@[simp] theorem State.host_setHead (n : Nat) (x : Head) (j : Nat) : (s.setHead n x).host j = s.host j := rfl
@[simp] theorem State.abortEngine_setHead (n : Nat) (x : Head) (j : Nat) : (s.setHead n x).abortEngine j = s.abortEngine j := rfl
@[simp] theorem State.ctx_setHead (n : Nat) (x : Head) (j : Nat) : (s.setHead n x).ctx j = s.ctx j := rfl
@[simp] theorem State.dmaCh_setHead (n : Nat) (x : Head) (j : Nat) : (s.setHead n x).dmaCh j = s.dmaCh j := rfl
@[simp] theorem State.entry_setHead (n : Nat) (x : Head) (j : Nat) : (s.setHead n x).entry j = s.entry j := rfl
@[simp] theorem State.spn_setHead (n : Nat) (x : Head) (j : Nat) : (s.setHead n x).spn j = s.spn j := rfl
@[simp] theorem State.timer_setHead (n : Nat) (x : Head) (j : Nat) : (s.setHead n x).timer j = s.timer j := rfl
@[simp] theorem State.pair_setHead (n : Nat) (x : Head) (j : Nat) : (s.setHead n x).pair j = s.pair j := rfl
@[simp] theorem State.group_setHead (n : Nat) (x : Head) (j : Nat) : (s.setHead n x).group j = s.group j := rfl
@[simp] theorem State.comparator_setHead (n : Nat) (x : Head) (j : Nat) : (s.setHead n x).comparator j = s.comparator j := rfl
@[simp] theorem State.fclkOn_setHead (n : Nat) (x : Head) : (s.setHead n x).fclkOn = s.fclkOn := rfl
@[simp] theorem State.mediaOn_setHead (n : Nat) (x : Head) : (s.setHead n x).mediaOn = s.mediaOn := rfl
@[simp] theorem State.sectorOn_setHead (n : Nat) (x : Head) (j : Nat) : (s.setHead n x).sectorOn j = s.sectorOn j := rfl
@[simp] theorem State.coreOn_setHead (n : Nat) (x : Head) (j : Nat) : (s.setHead n x).coreOn j = s.coreOn j := rfl
@[simp] theorem State.firmwareOn_setHead (n : Nat) (x : Head) : (s.setHead n x).firmwareOn = s.firmwareOn := rfl
@[simp] theorem State.composerOn_setHead (n : Nat) (x : Head) : (s.setHead n x).composerOn = s.composerOn := rfl

/-! ### setHost -/

@[simp] theorem State.setHost_pending (n : Nat) (x : HostPort) : (s.setHost n x).pending = s.pending := rfl
@[simp] theorem State.setHost_freeCtr (n : Nat) (x : HostPort) : (s.setHost n x).freeCtr = s.freeCtr := rfl
@[simp] theorem State.setHost_cyc (n : Nat) (x : HostPort) : (s.setHost n x).cyc = s.cyc := rfl
@[simp] theorem State.setHost_pulses (n : Nat) (x : HostPort) : (s.setHost n x).pulses = s.pulses := rfl
@[simp] theorem State.setHost_now (n : Nat) (x : HostPort) : (s.setHost n x).now = s.now := rfl
@[simp] theorem State.setHost_devTimer (n : Nat) (x : HostPort) : (s.setHost n x).devTimer = s.devTimer := rfl
@[simp] theorem State.setHost_regs (n : Nat) (x : HostPort) : (s.setHost n x).regs = s.regs := rfl
@[simp] theorem State.setHost_resp (n : Nat) (x : HostPort) : (s.setHost n x).resp = s.resp := rfl
@[simp] theorem State.setHost_shadow (n : Nat) (x : HostPort) : (s.setHost n x).shadow = s.shadow := rfl
@[simp] theorem State.setHost_sys (n : Nat) (x : HostPort) : (s.setHost n x).sys = s.sys := rfl
@[simp] theorem State.setHost_log (n : Nat) (x : HostPort) : (s.setHost n x).log = s.log := rfl
@[simp] theorem State.setHost_spindles (n : Nat) (x : HostPort) : (s.setHost n x).spindles = s.spindles := rfl
@[simp] theorem State.setHost_encoders (n : Nat) (x : HostPort) : (s.setHost n x).encoders = s.encoders := rfl
@[simp] theorem State.setHost_encSince (n : Nat) (x : HostPort) : (s.setHost n x).encSince = s.encSince := rfl
@[simp] theorem State.setHost_timers (n : Nat) (x : HostPort) : (s.setHost n x).timers = s.timers := rfl
@[simp] theorem State.setHost_ptp (n : Nat) (x : HostPort) : (s.setHost n x).ptp = s.ptp := rfl
@[simp] theorem State.setHost_adcs (n : Nat) (x : HostPort) : (s.setHost n x).adcs = s.adcs := rfl
@[simp] theorem State.setHost_channels (n : Nat) (x : HostPort) : (s.setHost n x).channels = s.channels := rfl
@[simp] theorem State.setHost_comparators (n : Nat) (x : HostPort) : (s.setHost n x).comparators = s.comparators := rfl
@[simp] theorem State.setHost_demods (n : Nat) (x : HostPort) : (s.setHost n x).demods = s.demods := rfl
@[simp] theorem State.setHost_sectors (n : Nat) (x : HostPort) : (s.setHost n x).sectors = s.sectors := rfl
@[simp] theorem State.setHost_pairs (n : Nat) (x : HostPort) : (s.setHost n x).pairs = s.pairs := rfl
@[simp] theorem State.setHost_groups (n : Nat) (x : HostPort) : (s.setHost n x).groups = s.groups := rfl
@[simp] theorem State.setHost_tripPins (n : Nat) (x : HostPort) : (s.setHost n x).tripPins = s.tripPins := rfl
@[simp] theorem State.setHost_zonePins (n : Nat) (x : HostPort) : (s.setHost n x).zonePins = s.zonePins := rfl
@[simp] theorem State.setHost_tripAll (n : Nat) (x : HostPort) : (s.setHost n x).tripAll = s.tripAll := rfl
@[simp] theorem State.setHost_plate (n : Nat) (x : HostPort) : (s.setHost n x).plate = s.plate := rfl
@[simp] theorem State.setHost_loops (n : Nat) (x : HostPort) : (s.setHost n x).loops = s.loops := rfl
@[simp] theorem State.setHost_place (n : Nat) (x : HostPort) : (s.setHost n x).place = s.place := rfl
@[simp] theorem State.setHost_cores (n : Nat) (x : HostPort) : (s.setHost n x).cores = s.cores := rfl
@[simp] theorem State.setHost_aic (n : Nat) (x : HostPort) : (s.setHost n x).aic = s.aic := rfl
@[simp] theorem State.setHost_dma (n : Nat) (x : HostPort) : (s.setHost n x).dma = s.dma := rfl
@[simp] theorem State.setHost_dmaLast (n : Nat) (x : HostPort) : (s.setHost n x).dmaLast = s.dmaLast := rfl
@[simp] theorem State.setHost_outbound (n : Nat) (x : HostPort) : (s.setHost n x).outbound = s.outbound := rfl
@[simp] theorem State.setHost_posted (n : Nat) (x : HostPort) : (s.setHost n x).posted = s.posted := rfl
@[simp] theorem State.setHost_consoles (n : Nat) (x : HostPort) : (s.setHost n x).consoles = s.consoles := rfl
@[simp] theorem State.setHost_conJobs (n : Nat) (x : HostPort) : (s.setHost n x).conJobs = s.conJobs := rfl
@[simp] theorem State.setHost_pipes (n : Nat) (x : HostPort) : (s.setHost n x).pipes = s.pipes := rfl
@[simp] theorem State.setHost_streams (n : Nat) (x : HostPort) : (s.setHost n x).streams = s.streams := rfl
@[simp] theorem State.setHost_liveLines (n : Nat) (x : HostPort) : (s.setHost n x).liveLines = s.liveLines := rfl
@[simp] theorem State.setHost_active (n : Nat) (x : HostPort) : (s.setHost n x).active = s.active := rfl
@[simp] theorem State.setHost_mover (n : Nat) (x : HostPort) : (s.setHost n x).mover = s.mover := rfl
@[simp] theorem State.setHost_heads (n : Nat) (x : HostPort) : (s.setHost n x).heads = s.heads := rfl
@[simp] theorem State.setHost_audio (n : Nat) (x : HostPort) : (s.setHost n x).audio = s.audio := rfl
@[simp] theorem State.setHost_bankSupply (n : Nat) (x : HostPort) : (s.setHost n x).bankSupply = s.bankSupply := rfl
@[simp] theorem State.setHost_keepers (n : Nat) (x : HostPort) : (s.setHost n x).keepers = s.keepers := rfl
@[simp] theorem State.setHost_sec (n : Nat) (x : HostPort) : (s.setHost n x).sec = s.sec := rfl
@[simp] theorem State.setHost_cvs (n : Nat) (x : HostPort) : (s.setHost n x).cvs = s.cvs := rfl
@[simp] theorem State.setHost_dict (n : Nat) (x : HostPort) : (s.setHost n x).dict = s.dict := rfl
@[simp] theorem State.setHost_canNode (n : Nat) (x : HostPort) : (s.setHost n x).canNode = s.canNode := rfl
@[simp] theorem State.setHost_cans (n : Nat) (x : HostPort) : (s.setHost n x).cans = s.cans := rfl
@[simp] theorem State.setHost_macs (n : Nat) (x : HostPort) : (s.setHost n x).macs = s.macs := rfl
@[simp] theorem State.setHost_aborts (n : Nat) (x : HostPort) : (s.setHost n x).aborts = s.aborts := rfl
@[simp] theorem State.setHost_iotlb (n : Nat) (x : HostPort) : (s.setHost n x).iotlb = s.iotlb := rfl
@[simp] theorem State.setHost_sbOld (n : Nat) (x : HostPort) : (s.setHost n x).sbOld = s.sbOld := rfl
@[simp] theorem State.setHost_trainTries (n : Nat) (x : HostPort) : (s.setHost n x).trainTries = s.trainTries := rfl
@[simp] theorem State.setHost_refreshFast (n : Nat) (x : HostPort) : (s.setHost n x).refreshFast = s.refreshFast := rfl
@[simp] theorem State.setHost_dramTemp (n : Nat) (x : HostPort) : (s.setHost n x).dramTemp = s.dramTemp := rfl
@[simp] theorem State.setHost_macQueues (n : Nat) (x : HostPort) : (s.setHost n x).macQueues = s.macQueues := rfl
@[simp] theorem State.setHost_busyPins (n : Nat) (x : HostPort) : (s.setHost n x).busyPins = s.busyPins := rfl
@[simp] theorem State.setHost_tsClaimed (n : Nat) (x : HostPort) : (s.setHost n x).tsClaimed = s.tsClaimed := rfl
@[simp] theorem State.setHost_mem (n : Nat) (x : HostPort) : (s.setHost n x).mem = s.mem := rfl
@[simp] theorem State.setHost_nor (n : Nat) (x : HostPort) : (s.setHost n x).nor = s.nor := rfl
@[simp] theorem State.setHost_poison (n : Nat) (x : HostPort) : (s.setHost n x).poison = s.poison := rfl
@[simp] theorem State.setHost_checks (n : Nat) (x : HostPort) : (s.setHost n x).checks = s.checks := rfl
@[simp] theorem State.reg_setHost (n : Nat) (x : HostPort) (a0 : Nat) : (s.setHost n x).reg a0 = s.reg a0 := rfl
@[simp] theorem State.fld_setHost (n : Nat) (x : HostPort) (a0 : Nat) (h0 : Nat) (l0 : Nat) : (s.setHost n x).fld a0 h0 l0 = s.fld a0 h0 l0 := rfl
@[simp] theorem State.bit_setHost (n : Nat) (x : HostPort) (a0 : Nat) (i0 : Nat) : (s.setHost n x).bit a0 i0 = s.bit a0 i0 := rfl
@[simp] theorem State.byte_setHost (n : Nat) (x : HostPort) (a0 : Nat) : (s.setHost n x).byte a0 = s.byte a0 := rfl
@[simp] theorem State.norByte_setHost (n : Nat) (x : HostPort) (a0 : Nat) : (s.setHost n x).norByte a0 = s.norByte a0 := rfl
@[simp] theorem State.adc_setHost (n : Nat) (x : HostPort) (j : Nat) : (s.setHost n x).adc j = s.adc j := rfl
@[simp] theorem State.chan_setHost (n : Nat) (x : HostPort) (j : Nat) : (s.setHost n x).chan j = s.chan j := rfl
@[simp] theorem State.demod_setHost (n : Nat) (x : HostPort) (j : Nat) : (s.setHost n x).demod j = s.demod j := rfl
@[simp] theorem State.sector_setHost (n : Nat) (x : HostPort) (j : Nat) : (s.setHost n x).sector j = s.sector j := rfl
@[simp] theorem State.aicCore_setHost (n : Nat) (x : HostPort) (j : Nat) : (s.setHost n x).aicCore j = s.aicCore j := rfl
@[simp] theorem State.con_setHost (n : Nat) (x : HostPort) (j : Nat) : (s.setHost n x).con j = s.con j := rfl
@[simp] theorem State.stream_setHost (n : Nat) (x : HostPort) (j : Nat) : (s.setHost n x).stream j = s.stream j := rfl
@[simp] theorem State.core_setHost (n : Nat) (x : HostPort) (j : Nat) : (s.setHost n x).core j = s.core j := rfl
@[simp] theorem State.greg_setHost (n : Nat) (x : HostPort) (j : Nat) (r : Nat) : (s.setHost n x).greg j r = s.greg j r := rfl
@[simp] theorem State.cv_setHost (n : Nat) (x : HostPort) (j : Nat) : (s.setHost n x).cv j = s.cv j := rfl
@[simp] theorem State.head_setHost (n : Nat) (x : HostPort) (j : Nat) : (s.setHost n x).head j = s.head j := rfl
@[simp] theorem State.abortEngine_setHost (n : Nat) (x : HostPort) (j : Nat) : (s.setHost n x).abortEngine j = s.abortEngine j := rfl
@[simp] theorem State.ctx_setHost (n : Nat) (x : HostPort) (j : Nat) : (s.setHost n x).ctx j = s.ctx j := rfl
@[simp] theorem State.dmaCh_setHost (n : Nat) (x : HostPort) (j : Nat) : (s.setHost n x).dmaCh j = s.dmaCh j := rfl
@[simp] theorem State.entry_setHost (n : Nat) (x : HostPort) (j : Nat) : (s.setHost n x).entry j = s.entry j := rfl
@[simp] theorem State.spn_setHost (n : Nat) (x : HostPort) (j : Nat) : (s.setHost n x).spn j = s.spn j := rfl
@[simp] theorem State.timer_setHost (n : Nat) (x : HostPort) (j : Nat) : (s.setHost n x).timer j = s.timer j := rfl
@[simp] theorem State.pair_setHost (n : Nat) (x : HostPort) (j : Nat) : (s.setHost n x).pair j = s.pair j := rfl
@[simp] theorem State.group_setHost (n : Nat) (x : HostPort) (j : Nat) : (s.setHost n x).group j = s.group j := rfl
@[simp] theorem State.comparator_setHost (n : Nat) (x : HostPort) (j : Nat) : (s.setHost n x).comparator j = s.comparator j := rfl
@[simp] theorem State.fclkOn_setHost (n : Nat) (x : HostPort) : (s.setHost n x).fclkOn = s.fclkOn := rfl
@[simp] theorem State.mediaOn_setHost (n : Nat) (x : HostPort) : (s.setHost n x).mediaOn = s.mediaOn := rfl
@[simp] theorem State.sectorOn_setHost (n : Nat) (x : HostPort) (j : Nat) : (s.setHost n x).sectorOn j = s.sectorOn j := rfl
@[simp] theorem State.coreOn_setHost (n : Nat) (x : HostPort) (j : Nat) : (s.setHost n x).coreOn j = s.coreOn j := rfl
@[simp] theorem State.firmwareOn_setHost (n : Nat) (x : HostPort) : (s.setHost n x).firmwareOn = s.firmwareOn := rfl
@[simp] theorem State.composerOn_setHost (n : Nat) (x : HostPort) : (s.setHost n x).composerOn = s.composerOn := rfl

/-! ### setAbortEngine -/

@[simp] theorem State.setAbortEngine_pending (n : Nat) (x : AbortEngine) : (s.setAbortEngine n x).pending = s.pending := rfl
@[simp] theorem State.setAbortEngine_freeCtr (n : Nat) (x : AbortEngine) : (s.setAbortEngine n x).freeCtr = s.freeCtr := rfl
@[simp] theorem State.setAbortEngine_cyc (n : Nat) (x : AbortEngine) : (s.setAbortEngine n x).cyc = s.cyc := rfl
@[simp] theorem State.setAbortEngine_pulses (n : Nat) (x : AbortEngine) : (s.setAbortEngine n x).pulses = s.pulses := rfl
@[simp] theorem State.setAbortEngine_now (n : Nat) (x : AbortEngine) : (s.setAbortEngine n x).now = s.now := rfl
@[simp] theorem State.setAbortEngine_devTimer (n : Nat) (x : AbortEngine) : (s.setAbortEngine n x).devTimer = s.devTimer := rfl
@[simp] theorem State.setAbortEngine_regs (n : Nat) (x : AbortEngine) : (s.setAbortEngine n x).regs = s.regs := rfl
@[simp] theorem State.setAbortEngine_resp (n : Nat) (x : AbortEngine) : (s.setAbortEngine n x).resp = s.resp := rfl
@[simp] theorem State.setAbortEngine_shadow (n : Nat) (x : AbortEngine) : (s.setAbortEngine n x).shadow = s.shadow := rfl
@[simp] theorem State.setAbortEngine_sys (n : Nat) (x : AbortEngine) : (s.setAbortEngine n x).sys = s.sys := rfl
@[simp] theorem State.setAbortEngine_log (n : Nat) (x : AbortEngine) : (s.setAbortEngine n x).log = s.log := rfl
@[simp] theorem State.setAbortEngine_spindles (n : Nat) (x : AbortEngine) : (s.setAbortEngine n x).spindles = s.spindles := rfl
@[simp] theorem State.setAbortEngine_encoders (n : Nat) (x : AbortEngine) : (s.setAbortEngine n x).encoders = s.encoders := rfl
@[simp] theorem State.setAbortEngine_encSince (n : Nat) (x : AbortEngine) : (s.setAbortEngine n x).encSince = s.encSince := rfl
@[simp] theorem State.setAbortEngine_timers (n : Nat) (x : AbortEngine) : (s.setAbortEngine n x).timers = s.timers := rfl
@[simp] theorem State.setAbortEngine_ptp (n : Nat) (x : AbortEngine) : (s.setAbortEngine n x).ptp = s.ptp := rfl
@[simp] theorem State.setAbortEngine_adcs (n : Nat) (x : AbortEngine) : (s.setAbortEngine n x).adcs = s.adcs := rfl
@[simp] theorem State.setAbortEngine_channels (n : Nat) (x : AbortEngine) : (s.setAbortEngine n x).channels = s.channels := rfl
@[simp] theorem State.setAbortEngine_comparators (n : Nat) (x : AbortEngine) : (s.setAbortEngine n x).comparators = s.comparators := rfl
@[simp] theorem State.setAbortEngine_demods (n : Nat) (x : AbortEngine) : (s.setAbortEngine n x).demods = s.demods := rfl
@[simp] theorem State.setAbortEngine_sectors (n : Nat) (x : AbortEngine) : (s.setAbortEngine n x).sectors = s.sectors := rfl
@[simp] theorem State.setAbortEngine_pairs (n : Nat) (x : AbortEngine) : (s.setAbortEngine n x).pairs = s.pairs := rfl
@[simp] theorem State.setAbortEngine_groups (n : Nat) (x : AbortEngine) : (s.setAbortEngine n x).groups = s.groups := rfl
@[simp] theorem State.setAbortEngine_tripPins (n : Nat) (x : AbortEngine) : (s.setAbortEngine n x).tripPins = s.tripPins := rfl
@[simp] theorem State.setAbortEngine_zonePins (n : Nat) (x : AbortEngine) : (s.setAbortEngine n x).zonePins = s.zonePins := rfl
@[simp] theorem State.setAbortEngine_tripAll (n : Nat) (x : AbortEngine) : (s.setAbortEngine n x).tripAll = s.tripAll := rfl
@[simp] theorem State.setAbortEngine_plate (n : Nat) (x : AbortEngine) : (s.setAbortEngine n x).plate = s.plate := rfl
@[simp] theorem State.setAbortEngine_loops (n : Nat) (x : AbortEngine) : (s.setAbortEngine n x).loops = s.loops := rfl
@[simp] theorem State.setAbortEngine_place (n : Nat) (x : AbortEngine) : (s.setAbortEngine n x).place = s.place := rfl
@[simp] theorem State.setAbortEngine_cores (n : Nat) (x : AbortEngine) : (s.setAbortEngine n x).cores = s.cores := rfl
@[simp] theorem State.setAbortEngine_aic (n : Nat) (x : AbortEngine) : (s.setAbortEngine n x).aic = s.aic := rfl
@[simp] theorem State.setAbortEngine_dma (n : Nat) (x : AbortEngine) : (s.setAbortEngine n x).dma = s.dma := rfl
@[simp] theorem State.setAbortEngine_dmaLast (n : Nat) (x : AbortEngine) : (s.setAbortEngine n x).dmaLast = s.dmaLast := rfl
@[simp] theorem State.setAbortEngine_outbound (n : Nat) (x : AbortEngine) : (s.setAbortEngine n x).outbound = s.outbound := rfl
@[simp] theorem State.setAbortEngine_posted (n : Nat) (x : AbortEngine) : (s.setAbortEngine n x).posted = s.posted := rfl
@[simp] theorem State.setAbortEngine_consoles (n : Nat) (x : AbortEngine) : (s.setAbortEngine n x).consoles = s.consoles := rfl
@[simp] theorem State.setAbortEngine_conJobs (n : Nat) (x : AbortEngine) : (s.setAbortEngine n x).conJobs = s.conJobs := rfl
@[simp] theorem State.setAbortEngine_pipes (n : Nat) (x : AbortEngine) : (s.setAbortEngine n x).pipes = s.pipes := rfl
@[simp] theorem State.setAbortEngine_streams (n : Nat) (x : AbortEngine) : (s.setAbortEngine n x).streams = s.streams := rfl
@[simp] theorem State.setAbortEngine_liveLines (n : Nat) (x : AbortEngine) : (s.setAbortEngine n x).liveLines = s.liveLines := rfl
@[simp] theorem State.setAbortEngine_active (n : Nat) (x : AbortEngine) : (s.setAbortEngine n x).active = s.active := rfl
@[simp] theorem State.setAbortEngine_mover (n : Nat) (x : AbortEngine) : (s.setAbortEngine n x).mover = s.mover := rfl
@[simp] theorem State.setAbortEngine_heads (n : Nat) (x : AbortEngine) : (s.setAbortEngine n x).heads = s.heads := rfl
@[simp] theorem State.setAbortEngine_audio (n : Nat) (x : AbortEngine) : (s.setAbortEngine n x).audio = s.audio := rfl
@[simp] theorem State.setAbortEngine_bankSupply (n : Nat) (x : AbortEngine) : (s.setAbortEngine n x).bankSupply = s.bankSupply := rfl
@[simp] theorem State.setAbortEngine_keepers (n : Nat) (x : AbortEngine) : (s.setAbortEngine n x).keepers = s.keepers := rfl
@[simp] theorem State.setAbortEngine_sec (n : Nat) (x : AbortEngine) : (s.setAbortEngine n x).sec = s.sec := rfl
@[simp] theorem State.setAbortEngine_cvs (n : Nat) (x : AbortEngine) : (s.setAbortEngine n x).cvs = s.cvs := rfl
@[simp] theorem State.setAbortEngine_hosts (n : Nat) (x : AbortEngine) : (s.setAbortEngine n x).hosts = s.hosts := rfl
@[simp] theorem State.setAbortEngine_dict (n : Nat) (x : AbortEngine) : (s.setAbortEngine n x).dict = s.dict := rfl
@[simp] theorem State.setAbortEngine_canNode (n : Nat) (x : AbortEngine) : (s.setAbortEngine n x).canNode = s.canNode := rfl
@[simp] theorem State.setAbortEngine_cans (n : Nat) (x : AbortEngine) : (s.setAbortEngine n x).cans = s.cans := rfl
@[simp] theorem State.setAbortEngine_macs (n : Nat) (x : AbortEngine) : (s.setAbortEngine n x).macs = s.macs := rfl
@[simp] theorem State.setAbortEngine_iotlb (n : Nat) (x : AbortEngine) : (s.setAbortEngine n x).iotlb = s.iotlb := rfl
@[simp] theorem State.setAbortEngine_sbOld (n : Nat) (x : AbortEngine) : (s.setAbortEngine n x).sbOld = s.sbOld := rfl
@[simp] theorem State.setAbortEngine_trainTries (n : Nat) (x : AbortEngine) : (s.setAbortEngine n x).trainTries = s.trainTries := rfl
@[simp] theorem State.setAbortEngine_refreshFast (n : Nat) (x : AbortEngine) : (s.setAbortEngine n x).refreshFast = s.refreshFast := rfl
@[simp] theorem State.setAbortEngine_dramTemp (n : Nat) (x : AbortEngine) : (s.setAbortEngine n x).dramTemp = s.dramTemp := rfl
@[simp] theorem State.setAbortEngine_macQueues (n : Nat) (x : AbortEngine) : (s.setAbortEngine n x).macQueues = s.macQueues := rfl
@[simp] theorem State.setAbortEngine_busyPins (n : Nat) (x : AbortEngine) : (s.setAbortEngine n x).busyPins = s.busyPins := rfl
@[simp] theorem State.setAbortEngine_tsClaimed (n : Nat) (x : AbortEngine) : (s.setAbortEngine n x).tsClaimed = s.tsClaimed := rfl
@[simp] theorem State.setAbortEngine_mem (n : Nat) (x : AbortEngine) : (s.setAbortEngine n x).mem = s.mem := rfl
@[simp] theorem State.setAbortEngine_nor (n : Nat) (x : AbortEngine) : (s.setAbortEngine n x).nor = s.nor := rfl
@[simp] theorem State.setAbortEngine_poison (n : Nat) (x : AbortEngine) : (s.setAbortEngine n x).poison = s.poison := rfl
@[simp] theorem State.setAbortEngine_checks (n : Nat) (x : AbortEngine) : (s.setAbortEngine n x).checks = s.checks := rfl
@[simp] theorem State.reg_setAbortEngine (n : Nat) (x : AbortEngine) (a0 : Nat) : (s.setAbortEngine n x).reg a0 = s.reg a0 := rfl
@[simp] theorem State.fld_setAbortEngine (n : Nat) (x : AbortEngine) (a0 : Nat) (h0 : Nat) (l0 : Nat) : (s.setAbortEngine n x).fld a0 h0 l0 = s.fld a0 h0 l0 := rfl
@[simp] theorem State.bit_setAbortEngine (n : Nat) (x : AbortEngine) (a0 : Nat) (i0 : Nat) : (s.setAbortEngine n x).bit a0 i0 = s.bit a0 i0 := rfl
@[simp] theorem State.byte_setAbortEngine (n : Nat) (x : AbortEngine) (a0 : Nat) : (s.setAbortEngine n x).byte a0 = s.byte a0 := rfl
@[simp] theorem State.norByte_setAbortEngine (n : Nat) (x : AbortEngine) (a0 : Nat) : (s.setAbortEngine n x).norByte a0 = s.norByte a0 := rfl
@[simp] theorem State.adc_setAbortEngine (n : Nat) (x : AbortEngine) (j : Nat) : (s.setAbortEngine n x).adc j = s.adc j := rfl
@[simp] theorem State.chan_setAbortEngine (n : Nat) (x : AbortEngine) (j : Nat) : (s.setAbortEngine n x).chan j = s.chan j := rfl
@[simp] theorem State.demod_setAbortEngine (n : Nat) (x : AbortEngine) (j : Nat) : (s.setAbortEngine n x).demod j = s.demod j := rfl
@[simp] theorem State.sector_setAbortEngine (n : Nat) (x : AbortEngine) (j : Nat) : (s.setAbortEngine n x).sector j = s.sector j := rfl
@[simp] theorem State.aicCore_setAbortEngine (n : Nat) (x : AbortEngine) (j : Nat) : (s.setAbortEngine n x).aicCore j = s.aicCore j := rfl
@[simp] theorem State.con_setAbortEngine (n : Nat) (x : AbortEngine) (j : Nat) : (s.setAbortEngine n x).con j = s.con j := rfl
@[simp] theorem State.stream_setAbortEngine (n : Nat) (x : AbortEngine) (j : Nat) : (s.setAbortEngine n x).stream j = s.stream j := rfl
@[simp] theorem State.core_setAbortEngine (n : Nat) (x : AbortEngine) (j : Nat) : (s.setAbortEngine n x).core j = s.core j := rfl
@[simp] theorem State.greg_setAbortEngine (n : Nat) (x : AbortEngine) (j : Nat) (r : Nat) : (s.setAbortEngine n x).greg j r = s.greg j r := rfl
@[simp] theorem State.cv_setAbortEngine (n : Nat) (x : AbortEngine) (j : Nat) : (s.setAbortEngine n x).cv j = s.cv j := rfl
@[simp] theorem State.head_setAbortEngine (n : Nat) (x : AbortEngine) (j : Nat) : (s.setAbortEngine n x).head j = s.head j := rfl
@[simp] theorem State.host_setAbortEngine (n : Nat) (x : AbortEngine) (j : Nat) : (s.setAbortEngine n x).host j = s.host j := rfl
@[simp] theorem State.ctx_setAbortEngine (n : Nat) (x : AbortEngine) (j : Nat) : (s.setAbortEngine n x).ctx j = s.ctx j := rfl
@[simp] theorem State.dmaCh_setAbortEngine (n : Nat) (x : AbortEngine) (j : Nat) : (s.setAbortEngine n x).dmaCh j = s.dmaCh j := rfl
@[simp] theorem State.entry_setAbortEngine (n : Nat) (x : AbortEngine) (j : Nat) : (s.setAbortEngine n x).entry j = s.entry j := rfl
@[simp] theorem State.spn_setAbortEngine (n : Nat) (x : AbortEngine) (j : Nat) : (s.setAbortEngine n x).spn j = s.spn j := rfl
@[simp] theorem State.timer_setAbortEngine (n : Nat) (x : AbortEngine) (j : Nat) : (s.setAbortEngine n x).timer j = s.timer j := rfl
@[simp] theorem State.pair_setAbortEngine (n : Nat) (x : AbortEngine) (j : Nat) : (s.setAbortEngine n x).pair j = s.pair j := rfl
@[simp] theorem State.group_setAbortEngine (n : Nat) (x : AbortEngine) (j : Nat) : (s.setAbortEngine n x).group j = s.group j := rfl
@[simp] theorem State.comparator_setAbortEngine (n : Nat) (x : AbortEngine) (j : Nat) : (s.setAbortEngine n x).comparator j = s.comparator j := rfl
@[simp] theorem State.fclkOn_setAbortEngine (n : Nat) (x : AbortEngine) : (s.setAbortEngine n x).fclkOn = s.fclkOn := rfl
@[simp] theorem State.mediaOn_setAbortEngine (n : Nat) (x : AbortEngine) : (s.setAbortEngine n x).mediaOn = s.mediaOn := rfl
@[simp] theorem State.sectorOn_setAbortEngine (n : Nat) (x : AbortEngine) (j : Nat) : (s.setAbortEngine n x).sectorOn j = s.sectorOn j := rfl
@[simp] theorem State.coreOn_setAbortEngine (n : Nat) (x : AbortEngine) (j : Nat) : (s.setAbortEngine n x).coreOn j = s.coreOn j := rfl
@[simp] theorem State.firmwareOn_setAbortEngine (n : Nat) (x : AbortEngine) : (s.setAbortEngine n x).firmwareOn = s.firmwareOn := rfl
@[simp] theorem State.composerOn_setAbortEngine (n : Nat) (x : AbortEngine) : (s.setAbortEngine n x).composerOn = s.composerOn := rfl

/-! ### setCtx -/

@[simp] theorem State.setCtx_pending (n : Nat) (x : LoopCtx) : (s.setCtx n x).pending = s.pending := rfl
@[simp] theorem State.setCtx_freeCtr (n : Nat) (x : LoopCtx) : (s.setCtx n x).freeCtr = s.freeCtr := rfl
@[simp] theorem State.setCtx_cyc (n : Nat) (x : LoopCtx) : (s.setCtx n x).cyc = s.cyc := rfl
@[simp] theorem State.setCtx_pulses (n : Nat) (x : LoopCtx) : (s.setCtx n x).pulses = s.pulses := rfl
@[simp] theorem State.setCtx_now (n : Nat) (x : LoopCtx) : (s.setCtx n x).now = s.now := rfl
@[simp] theorem State.setCtx_devTimer (n : Nat) (x : LoopCtx) : (s.setCtx n x).devTimer = s.devTimer := rfl
@[simp] theorem State.setCtx_regs (n : Nat) (x : LoopCtx) : (s.setCtx n x).regs = s.regs := rfl
@[simp] theorem State.setCtx_resp (n : Nat) (x : LoopCtx) : (s.setCtx n x).resp = s.resp := rfl
@[simp] theorem State.setCtx_shadow (n : Nat) (x : LoopCtx) : (s.setCtx n x).shadow = s.shadow := rfl
@[simp] theorem State.setCtx_sys (n : Nat) (x : LoopCtx) : (s.setCtx n x).sys = s.sys := rfl
@[simp] theorem State.setCtx_log (n : Nat) (x : LoopCtx) : (s.setCtx n x).log = s.log := rfl
@[simp] theorem State.setCtx_spindles (n : Nat) (x : LoopCtx) : (s.setCtx n x).spindles = s.spindles := rfl
@[simp] theorem State.setCtx_encoders (n : Nat) (x : LoopCtx) : (s.setCtx n x).encoders = s.encoders := rfl
@[simp] theorem State.setCtx_encSince (n : Nat) (x : LoopCtx) : (s.setCtx n x).encSince = s.encSince := rfl
@[simp] theorem State.setCtx_timers (n : Nat) (x : LoopCtx) : (s.setCtx n x).timers = s.timers := rfl
@[simp] theorem State.setCtx_ptp (n : Nat) (x : LoopCtx) : (s.setCtx n x).ptp = s.ptp := rfl
@[simp] theorem State.setCtx_adcs (n : Nat) (x : LoopCtx) : (s.setCtx n x).adcs = s.adcs := rfl
@[simp] theorem State.setCtx_channels (n : Nat) (x : LoopCtx) : (s.setCtx n x).channels = s.channels := rfl
@[simp] theorem State.setCtx_comparators (n : Nat) (x : LoopCtx) : (s.setCtx n x).comparators = s.comparators := rfl
@[simp] theorem State.setCtx_demods (n : Nat) (x : LoopCtx) : (s.setCtx n x).demods = s.demods := rfl
@[simp] theorem State.setCtx_sectors (n : Nat) (x : LoopCtx) : (s.setCtx n x).sectors = s.sectors := rfl
@[simp] theorem State.setCtx_pairs (n : Nat) (x : LoopCtx) : (s.setCtx n x).pairs = s.pairs := rfl
@[simp] theorem State.setCtx_groups (n : Nat) (x : LoopCtx) : (s.setCtx n x).groups = s.groups := rfl
@[simp] theorem State.setCtx_tripPins (n : Nat) (x : LoopCtx) : (s.setCtx n x).tripPins = s.tripPins := rfl
@[simp] theorem State.setCtx_zonePins (n : Nat) (x : LoopCtx) : (s.setCtx n x).zonePins = s.zonePins := rfl
@[simp] theorem State.setCtx_tripAll (n : Nat) (x : LoopCtx) : (s.setCtx n x).tripAll = s.tripAll := rfl
@[simp] theorem State.setCtx_plate (n : Nat) (x : LoopCtx) : (s.setCtx n x).plate = s.plate := rfl
@[simp] theorem State.setCtx_place (n : Nat) (x : LoopCtx) : (s.setCtx n x).place = s.place := rfl
@[simp] theorem State.setCtx_cores (n : Nat) (x : LoopCtx) : (s.setCtx n x).cores = s.cores := rfl
@[simp] theorem State.setCtx_aic (n : Nat) (x : LoopCtx) : (s.setCtx n x).aic = s.aic := rfl
@[simp] theorem State.setCtx_dma (n : Nat) (x : LoopCtx) : (s.setCtx n x).dma = s.dma := rfl
@[simp] theorem State.setCtx_dmaLast (n : Nat) (x : LoopCtx) : (s.setCtx n x).dmaLast = s.dmaLast := rfl
@[simp] theorem State.setCtx_outbound (n : Nat) (x : LoopCtx) : (s.setCtx n x).outbound = s.outbound := rfl
@[simp] theorem State.setCtx_posted (n : Nat) (x : LoopCtx) : (s.setCtx n x).posted = s.posted := rfl
@[simp] theorem State.setCtx_consoles (n : Nat) (x : LoopCtx) : (s.setCtx n x).consoles = s.consoles := rfl
@[simp] theorem State.setCtx_conJobs (n : Nat) (x : LoopCtx) : (s.setCtx n x).conJobs = s.conJobs := rfl
@[simp] theorem State.setCtx_pipes (n : Nat) (x : LoopCtx) : (s.setCtx n x).pipes = s.pipes := rfl
@[simp] theorem State.setCtx_streams (n : Nat) (x : LoopCtx) : (s.setCtx n x).streams = s.streams := rfl
@[simp] theorem State.setCtx_liveLines (n : Nat) (x : LoopCtx) : (s.setCtx n x).liveLines = s.liveLines := rfl
@[simp] theorem State.setCtx_active (n : Nat) (x : LoopCtx) : (s.setCtx n x).active = s.active := rfl
@[simp] theorem State.setCtx_mover (n : Nat) (x : LoopCtx) : (s.setCtx n x).mover = s.mover := rfl
@[simp] theorem State.setCtx_heads (n : Nat) (x : LoopCtx) : (s.setCtx n x).heads = s.heads := rfl
@[simp] theorem State.setCtx_audio (n : Nat) (x : LoopCtx) : (s.setCtx n x).audio = s.audio := rfl
@[simp] theorem State.setCtx_bankSupply (n : Nat) (x : LoopCtx) : (s.setCtx n x).bankSupply = s.bankSupply := rfl
@[simp] theorem State.setCtx_keepers (n : Nat) (x : LoopCtx) : (s.setCtx n x).keepers = s.keepers := rfl
@[simp] theorem State.setCtx_sec (n : Nat) (x : LoopCtx) : (s.setCtx n x).sec = s.sec := rfl
@[simp] theorem State.setCtx_cvs (n : Nat) (x : LoopCtx) : (s.setCtx n x).cvs = s.cvs := rfl
@[simp] theorem State.setCtx_hosts (n : Nat) (x : LoopCtx) : (s.setCtx n x).hosts = s.hosts := rfl
@[simp] theorem State.setCtx_dict (n : Nat) (x : LoopCtx) : (s.setCtx n x).dict = s.dict := rfl
@[simp] theorem State.setCtx_canNode (n : Nat) (x : LoopCtx) : (s.setCtx n x).canNode = s.canNode := rfl
@[simp] theorem State.setCtx_cans (n : Nat) (x : LoopCtx) : (s.setCtx n x).cans = s.cans := rfl
@[simp] theorem State.setCtx_macs (n : Nat) (x : LoopCtx) : (s.setCtx n x).macs = s.macs := rfl
@[simp] theorem State.setCtx_aborts (n : Nat) (x : LoopCtx) : (s.setCtx n x).aborts = s.aborts := rfl
@[simp] theorem State.setCtx_iotlb (n : Nat) (x : LoopCtx) : (s.setCtx n x).iotlb = s.iotlb := rfl
@[simp] theorem State.setCtx_sbOld (n : Nat) (x : LoopCtx) : (s.setCtx n x).sbOld = s.sbOld := rfl
@[simp] theorem State.setCtx_trainTries (n : Nat) (x : LoopCtx) : (s.setCtx n x).trainTries = s.trainTries := rfl
@[simp] theorem State.setCtx_refreshFast (n : Nat) (x : LoopCtx) : (s.setCtx n x).refreshFast = s.refreshFast := rfl
@[simp] theorem State.setCtx_dramTemp (n : Nat) (x : LoopCtx) : (s.setCtx n x).dramTemp = s.dramTemp := rfl
@[simp] theorem State.setCtx_macQueues (n : Nat) (x : LoopCtx) : (s.setCtx n x).macQueues = s.macQueues := rfl
@[simp] theorem State.setCtx_busyPins (n : Nat) (x : LoopCtx) : (s.setCtx n x).busyPins = s.busyPins := rfl
@[simp] theorem State.setCtx_tsClaimed (n : Nat) (x : LoopCtx) : (s.setCtx n x).tsClaimed = s.tsClaimed := rfl
@[simp] theorem State.setCtx_mem (n : Nat) (x : LoopCtx) : (s.setCtx n x).mem = s.mem := rfl
@[simp] theorem State.setCtx_nor (n : Nat) (x : LoopCtx) : (s.setCtx n x).nor = s.nor := rfl
@[simp] theorem State.setCtx_poison (n : Nat) (x : LoopCtx) : (s.setCtx n x).poison = s.poison := rfl
@[simp] theorem State.setCtx_checks (n : Nat) (x : LoopCtx) : (s.setCtx n x).checks = s.checks := rfl
@[simp] theorem State.reg_setCtx (n : Nat) (x : LoopCtx) (a0 : Nat) : (s.setCtx n x).reg a0 = s.reg a0 := rfl
@[simp] theorem State.fld_setCtx (n : Nat) (x : LoopCtx) (a0 : Nat) (h0 : Nat) (l0 : Nat) : (s.setCtx n x).fld a0 h0 l0 = s.fld a0 h0 l0 := rfl
@[simp] theorem State.bit_setCtx (n : Nat) (x : LoopCtx) (a0 : Nat) (i0 : Nat) : (s.setCtx n x).bit a0 i0 = s.bit a0 i0 := rfl
@[simp] theorem State.byte_setCtx (n : Nat) (x : LoopCtx) (a0 : Nat) : (s.setCtx n x).byte a0 = s.byte a0 := rfl
@[simp] theorem State.norByte_setCtx (n : Nat) (x : LoopCtx) (a0 : Nat) : (s.setCtx n x).norByte a0 = s.norByte a0 := rfl
@[simp] theorem State.adc_setCtx (n : Nat) (x : LoopCtx) (j : Nat) : (s.setCtx n x).adc j = s.adc j := rfl
@[simp] theorem State.chan_setCtx (n : Nat) (x : LoopCtx) (j : Nat) : (s.setCtx n x).chan j = s.chan j := rfl
@[simp] theorem State.demod_setCtx (n : Nat) (x : LoopCtx) (j : Nat) : (s.setCtx n x).demod j = s.demod j := rfl
@[simp] theorem State.sector_setCtx (n : Nat) (x : LoopCtx) (j : Nat) : (s.setCtx n x).sector j = s.sector j := rfl
@[simp] theorem State.aicCore_setCtx (n : Nat) (x : LoopCtx) (j : Nat) : (s.setCtx n x).aicCore j = s.aicCore j := rfl
@[simp] theorem State.con_setCtx (n : Nat) (x : LoopCtx) (j : Nat) : (s.setCtx n x).con j = s.con j := rfl
@[simp] theorem State.stream_setCtx (n : Nat) (x : LoopCtx) (j : Nat) : (s.setCtx n x).stream j = s.stream j := rfl
@[simp] theorem State.core_setCtx (n : Nat) (x : LoopCtx) (j : Nat) : (s.setCtx n x).core j = s.core j := rfl
@[simp] theorem State.greg_setCtx (n : Nat) (x : LoopCtx) (j : Nat) (r : Nat) : (s.setCtx n x).greg j r = s.greg j r := rfl
@[simp] theorem State.cv_setCtx (n : Nat) (x : LoopCtx) (j : Nat) : (s.setCtx n x).cv j = s.cv j := rfl
@[simp] theorem State.head_setCtx (n : Nat) (x : LoopCtx) (j : Nat) : (s.setCtx n x).head j = s.head j := rfl
@[simp] theorem State.host_setCtx (n : Nat) (x : LoopCtx) (j : Nat) : (s.setCtx n x).host j = s.host j := rfl
@[simp] theorem State.abortEngine_setCtx (n : Nat) (x : LoopCtx) (j : Nat) : (s.setCtx n x).abortEngine j = s.abortEngine j := rfl
@[simp] theorem State.dmaCh_setCtx (n : Nat) (x : LoopCtx) (j : Nat) : (s.setCtx n x).dmaCh j = s.dmaCh j := rfl
@[simp] theorem State.entry_setCtx (n : Nat) (x : LoopCtx) (j : Nat) : (s.setCtx n x).entry j = s.entry j := rfl
@[simp] theorem State.spn_setCtx (n : Nat) (x : LoopCtx) (j : Nat) : (s.setCtx n x).spn j = s.spn j := rfl
@[simp] theorem State.timer_setCtx (n : Nat) (x : LoopCtx) (j : Nat) : (s.setCtx n x).timer j = s.timer j := rfl
@[simp] theorem State.pair_setCtx (n : Nat) (x : LoopCtx) (j : Nat) : (s.setCtx n x).pair j = s.pair j := rfl
@[simp] theorem State.group_setCtx (n : Nat) (x : LoopCtx) (j : Nat) : (s.setCtx n x).group j = s.group j := rfl
@[simp] theorem State.comparator_setCtx (n : Nat) (x : LoopCtx) (j : Nat) : (s.setCtx n x).comparator j = s.comparator j := rfl
@[simp] theorem State.fclkOn_setCtx (n : Nat) (x : LoopCtx) : (s.setCtx n x).fclkOn = s.fclkOn := rfl
@[simp] theorem State.mediaOn_setCtx (n : Nat) (x : LoopCtx) : (s.setCtx n x).mediaOn = s.mediaOn := rfl
@[simp] theorem State.sectorOn_setCtx (n : Nat) (x : LoopCtx) (j : Nat) : (s.setCtx n x).sectorOn j = s.sectorOn j := rfl
@[simp] theorem State.coreOn_setCtx (n : Nat) (x : LoopCtx) (j : Nat) : (s.setCtx n x).coreOn j = s.coreOn j := rfl
@[simp] theorem State.firmwareOn_setCtx (n : Nat) (x : LoopCtx) : (s.setCtx n x).firmwareOn = s.firmwareOn := rfl
@[simp] theorem State.composerOn_setCtx (n : Nat) (x : LoopCtx) : (s.setCtx n x).composerOn = s.composerOn := rfl

/-! ### setDmaCh -/

@[simp] theorem State.setDmaCh_pending (n : Nat) (x : DmaCh) : (s.setDmaCh n x).pending = s.pending := rfl
@[simp] theorem State.setDmaCh_freeCtr (n : Nat) (x : DmaCh) : (s.setDmaCh n x).freeCtr = s.freeCtr := rfl
@[simp] theorem State.setDmaCh_cyc (n : Nat) (x : DmaCh) : (s.setDmaCh n x).cyc = s.cyc := rfl
@[simp] theorem State.setDmaCh_pulses (n : Nat) (x : DmaCh) : (s.setDmaCh n x).pulses = s.pulses := rfl
@[simp] theorem State.setDmaCh_now (n : Nat) (x : DmaCh) : (s.setDmaCh n x).now = s.now := rfl
@[simp] theorem State.setDmaCh_devTimer (n : Nat) (x : DmaCh) : (s.setDmaCh n x).devTimer = s.devTimer := rfl
@[simp] theorem State.setDmaCh_regs (n : Nat) (x : DmaCh) : (s.setDmaCh n x).regs = s.regs := rfl
@[simp] theorem State.setDmaCh_resp (n : Nat) (x : DmaCh) : (s.setDmaCh n x).resp = s.resp := rfl
@[simp] theorem State.setDmaCh_shadow (n : Nat) (x : DmaCh) : (s.setDmaCh n x).shadow = s.shadow := rfl
@[simp] theorem State.setDmaCh_sys (n : Nat) (x : DmaCh) : (s.setDmaCh n x).sys = s.sys := rfl
@[simp] theorem State.setDmaCh_log (n : Nat) (x : DmaCh) : (s.setDmaCh n x).log = s.log := rfl
@[simp] theorem State.setDmaCh_spindles (n : Nat) (x : DmaCh) : (s.setDmaCh n x).spindles = s.spindles := rfl
@[simp] theorem State.setDmaCh_encoders (n : Nat) (x : DmaCh) : (s.setDmaCh n x).encoders = s.encoders := rfl
@[simp] theorem State.setDmaCh_encSince (n : Nat) (x : DmaCh) : (s.setDmaCh n x).encSince = s.encSince := rfl
@[simp] theorem State.setDmaCh_timers (n : Nat) (x : DmaCh) : (s.setDmaCh n x).timers = s.timers := rfl
@[simp] theorem State.setDmaCh_ptp (n : Nat) (x : DmaCh) : (s.setDmaCh n x).ptp = s.ptp := rfl
@[simp] theorem State.setDmaCh_adcs (n : Nat) (x : DmaCh) : (s.setDmaCh n x).adcs = s.adcs := rfl
@[simp] theorem State.setDmaCh_channels (n : Nat) (x : DmaCh) : (s.setDmaCh n x).channels = s.channels := rfl
@[simp] theorem State.setDmaCh_comparators (n : Nat) (x : DmaCh) : (s.setDmaCh n x).comparators = s.comparators := rfl
@[simp] theorem State.setDmaCh_demods (n : Nat) (x : DmaCh) : (s.setDmaCh n x).demods = s.demods := rfl
@[simp] theorem State.setDmaCh_sectors (n : Nat) (x : DmaCh) : (s.setDmaCh n x).sectors = s.sectors := rfl
@[simp] theorem State.setDmaCh_pairs (n : Nat) (x : DmaCh) : (s.setDmaCh n x).pairs = s.pairs := rfl
@[simp] theorem State.setDmaCh_groups (n : Nat) (x : DmaCh) : (s.setDmaCh n x).groups = s.groups := rfl
@[simp] theorem State.setDmaCh_tripPins (n : Nat) (x : DmaCh) : (s.setDmaCh n x).tripPins = s.tripPins := rfl
@[simp] theorem State.setDmaCh_zonePins (n : Nat) (x : DmaCh) : (s.setDmaCh n x).zonePins = s.zonePins := rfl
@[simp] theorem State.setDmaCh_tripAll (n : Nat) (x : DmaCh) : (s.setDmaCh n x).tripAll = s.tripAll := rfl
@[simp] theorem State.setDmaCh_plate (n : Nat) (x : DmaCh) : (s.setDmaCh n x).plate = s.plate := rfl
@[simp] theorem State.setDmaCh_loops (n : Nat) (x : DmaCh) : (s.setDmaCh n x).loops = s.loops := rfl
@[simp] theorem State.setDmaCh_place (n : Nat) (x : DmaCh) : (s.setDmaCh n x).place = s.place := rfl
@[simp] theorem State.setDmaCh_cores (n : Nat) (x : DmaCh) : (s.setDmaCh n x).cores = s.cores := rfl
@[simp] theorem State.setDmaCh_aic (n : Nat) (x : DmaCh) : (s.setDmaCh n x).aic = s.aic := rfl
@[simp] theorem State.setDmaCh_dmaLast (n : Nat) (x : DmaCh) : (s.setDmaCh n x).dmaLast = s.dmaLast := rfl
@[simp] theorem State.setDmaCh_outbound (n : Nat) (x : DmaCh) : (s.setDmaCh n x).outbound = s.outbound := rfl
@[simp] theorem State.setDmaCh_posted (n : Nat) (x : DmaCh) : (s.setDmaCh n x).posted = s.posted := rfl
@[simp] theorem State.setDmaCh_consoles (n : Nat) (x : DmaCh) : (s.setDmaCh n x).consoles = s.consoles := rfl
@[simp] theorem State.setDmaCh_conJobs (n : Nat) (x : DmaCh) : (s.setDmaCh n x).conJobs = s.conJobs := rfl
@[simp] theorem State.setDmaCh_pipes (n : Nat) (x : DmaCh) : (s.setDmaCh n x).pipes = s.pipes := rfl
@[simp] theorem State.setDmaCh_streams (n : Nat) (x : DmaCh) : (s.setDmaCh n x).streams = s.streams := rfl
@[simp] theorem State.setDmaCh_liveLines (n : Nat) (x : DmaCh) : (s.setDmaCh n x).liveLines = s.liveLines := rfl
@[simp] theorem State.setDmaCh_active (n : Nat) (x : DmaCh) : (s.setDmaCh n x).active = s.active := rfl
@[simp] theorem State.setDmaCh_mover (n : Nat) (x : DmaCh) : (s.setDmaCh n x).mover = s.mover := rfl
@[simp] theorem State.setDmaCh_heads (n : Nat) (x : DmaCh) : (s.setDmaCh n x).heads = s.heads := rfl
@[simp] theorem State.setDmaCh_audio (n : Nat) (x : DmaCh) : (s.setDmaCh n x).audio = s.audio := rfl
@[simp] theorem State.setDmaCh_bankSupply (n : Nat) (x : DmaCh) : (s.setDmaCh n x).bankSupply = s.bankSupply := rfl
@[simp] theorem State.setDmaCh_keepers (n : Nat) (x : DmaCh) : (s.setDmaCh n x).keepers = s.keepers := rfl
@[simp] theorem State.setDmaCh_sec (n : Nat) (x : DmaCh) : (s.setDmaCh n x).sec = s.sec := rfl
@[simp] theorem State.setDmaCh_cvs (n : Nat) (x : DmaCh) : (s.setDmaCh n x).cvs = s.cvs := rfl
@[simp] theorem State.setDmaCh_hosts (n : Nat) (x : DmaCh) : (s.setDmaCh n x).hosts = s.hosts := rfl
@[simp] theorem State.setDmaCh_dict (n : Nat) (x : DmaCh) : (s.setDmaCh n x).dict = s.dict := rfl
@[simp] theorem State.setDmaCh_canNode (n : Nat) (x : DmaCh) : (s.setDmaCh n x).canNode = s.canNode := rfl
@[simp] theorem State.setDmaCh_cans (n : Nat) (x : DmaCh) : (s.setDmaCh n x).cans = s.cans := rfl
@[simp] theorem State.setDmaCh_macs (n : Nat) (x : DmaCh) : (s.setDmaCh n x).macs = s.macs := rfl
@[simp] theorem State.setDmaCh_aborts (n : Nat) (x : DmaCh) : (s.setDmaCh n x).aborts = s.aborts := rfl
@[simp] theorem State.setDmaCh_iotlb (n : Nat) (x : DmaCh) : (s.setDmaCh n x).iotlb = s.iotlb := rfl
@[simp] theorem State.setDmaCh_sbOld (n : Nat) (x : DmaCh) : (s.setDmaCh n x).sbOld = s.sbOld := rfl
@[simp] theorem State.setDmaCh_trainTries (n : Nat) (x : DmaCh) : (s.setDmaCh n x).trainTries = s.trainTries := rfl
@[simp] theorem State.setDmaCh_refreshFast (n : Nat) (x : DmaCh) : (s.setDmaCh n x).refreshFast = s.refreshFast := rfl
@[simp] theorem State.setDmaCh_dramTemp (n : Nat) (x : DmaCh) : (s.setDmaCh n x).dramTemp = s.dramTemp := rfl
@[simp] theorem State.setDmaCh_macQueues (n : Nat) (x : DmaCh) : (s.setDmaCh n x).macQueues = s.macQueues := rfl
@[simp] theorem State.setDmaCh_busyPins (n : Nat) (x : DmaCh) : (s.setDmaCh n x).busyPins = s.busyPins := rfl
@[simp] theorem State.setDmaCh_tsClaimed (n : Nat) (x : DmaCh) : (s.setDmaCh n x).tsClaimed = s.tsClaimed := rfl
@[simp] theorem State.setDmaCh_mem (n : Nat) (x : DmaCh) : (s.setDmaCh n x).mem = s.mem := rfl
@[simp] theorem State.setDmaCh_nor (n : Nat) (x : DmaCh) : (s.setDmaCh n x).nor = s.nor := rfl
@[simp] theorem State.setDmaCh_poison (n : Nat) (x : DmaCh) : (s.setDmaCh n x).poison = s.poison := rfl
@[simp] theorem State.setDmaCh_checks (n : Nat) (x : DmaCh) : (s.setDmaCh n x).checks = s.checks := rfl
@[simp] theorem State.reg_setDmaCh (n : Nat) (x : DmaCh) (a0 : Nat) : (s.setDmaCh n x).reg a0 = s.reg a0 := rfl
@[simp] theorem State.fld_setDmaCh (n : Nat) (x : DmaCh) (a0 : Nat) (h0 : Nat) (l0 : Nat) : (s.setDmaCh n x).fld a0 h0 l0 = s.fld a0 h0 l0 := rfl
@[simp] theorem State.bit_setDmaCh (n : Nat) (x : DmaCh) (a0 : Nat) (i0 : Nat) : (s.setDmaCh n x).bit a0 i0 = s.bit a0 i0 := rfl
@[simp] theorem State.byte_setDmaCh (n : Nat) (x : DmaCh) (a0 : Nat) : (s.setDmaCh n x).byte a0 = s.byte a0 := rfl
@[simp] theorem State.norByte_setDmaCh (n : Nat) (x : DmaCh) (a0 : Nat) : (s.setDmaCh n x).norByte a0 = s.norByte a0 := rfl
@[simp] theorem State.adc_setDmaCh (n : Nat) (x : DmaCh) (j : Nat) : (s.setDmaCh n x).adc j = s.adc j := rfl
@[simp] theorem State.chan_setDmaCh (n : Nat) (x : DmaCh) (j : Nat) : (s.setDmaCh n x).chan j = s.chan j := rfl
@[simp] theorem State.demod_setDmaCh (n : Nat) (x : DmaCh) (j : Nat) : (s.setDmaCh n x).demod j = s.demod j := rfl
@[simp] theorem State.sector_setDmaCh (n : Nat) (x : DmaCh) (j : Nat) : (s.setDmaCh n x).sector j = s.sector j := rfl
@[simp] theorem State.aicCore_setDmaCh (n : Nat) (x : DmaCh) (j : Nat) : (s.setDmaCh n x).aicCore j = s.aicCore j := rfl
@[simp] theorem State.con_setDmaCh (n : Nat) (x : DmaCh) (j : Nat) : (s.setDmaCh n x).con j = s.con j := rfl
@[simp] theorem State.stream_setDmaCh (n : Nat) (x : DmaCh) (j : Nat) : (s.setDmaCh n x).stream j = s.stream j := rfl
@[simp] theorem State.core_setDmaCh (n : Nat) (x : DmaCh) (j : Nat) : (s.setDmaCh n x).core j = s.core j := rfl
@[simp] theorem State.greg_setDmaCh (n : Nat) (x : DmaCh) (j : Nat) (r : Nat) : (s.setDmaCh n x).greg j r = s.greg j r := rfl
@[simp] theorem State.cv_setDmaCh (n : Nat) (x : DmaCh) (j : Nat) : (s.setDmaCh n x).cv j = s.cv j := rfl
@[simp] theorem State.head_setDmaCh (n : Nat) (x : DmaCh) (j : Nat) : (s.setDmaCh n x).head j = s.head j := rfl
@[simp] theorem State.host_setDmaCh (n : Nat) (x : DmaCh) (j : Nat) : (s.setDmaCh n x).host j = s.host j := rfl
@[simp] theorem State.abortEngine_setDmaCh (n : Nat) (x : DmaCh) (j : Nat) : (s.setDmaCh n x).abortEngine j = s.abortEngine j := rfl
@[simp] theorem State.ctx_setDmaCh (n : Nat) (x : DmaCh) (j : Nat) : (s.setDmaCh n x).ctx j = s.ctx j := rfl
@[simp] theorem State.entry_setDmaCh (n : Nat) (x : DmaCh) (j : Nat) : (s.setDmaCh n x).entry j = s.entry j := rfl
@[simp] theorem State.spn_setDmaCh (n : Nat) (x : DmaCh) (j : Nat) : (s.setDmaCh n x).spn j = s.spn j := rfl
@[simp] theorem State.timer_setDmaCh (n : Nat) (x : DmaCh) (j : Nat) : (s.setDmaCh n x).timer j = s.timer j := rfl
@[simp] theorem State.pair_setDmaCh (n : Nat) (x : DmaCh) (j : Nat) : (s.setDmaCh n x).pair j = s.pair j := rfl
@[simp] theorem State.group_setDmaCh (n : Nat) (x : DmaCh) (j : Nat) : (s.setDmaCh n x).group j = s.group j := rfl
@[simp] theorem State.comparator_setDmaCh (n : Nat) (x : DmaCh) (j : Nat) : (s.setDmaCh n x).comparator j = s.comparator j := rfl
@[simp] theorem State.fclkOn_setDmaCh (n : Nat) (x : DmaCh) : (s.setDmaCh n x).fclkOn = s.fclkOn := rfl
@[simp] theorem State.mediaOn_setDmaCh (n : Nat) (x : DmaCh) : (s.setDmaCh n x).mediaOn = s.mediaOn := rfl
@[simp] theorem State.sectorOn_setDmaCh (n : Nat) (x : DmaCh) (j : Nat) : (s.setDmaCh n x).sectorOn j = s.sectorOn j := rfl
@[simp] theorem State.coreOn_setDmaCh (n : Nat) (x : DmaCh) (j : Nat) : (s.setDmaCh n x).coreOn j = s.coreOn j := rfl
@[simp] theorem State.firmwareOn_setDmaCh (n : Nat) (x : DmaCh) : (s.setDmaCh n x).firmwareOn = s.firmwareOn := rfl
@[simp] theorem State.composerOn_setDmaCh (n : Nat) (x : DmaCh) : (s.setDmaCh n x).composerOn = s.composerOn := rfl

/-! ### setPlate -/

@[simp] theorem State.setPlate_pending (x : Plate) : (s.setPlate x).pending = s.pending := rfl
@[simp] theorem State.setPlate_freeCtr (x : Plate) : (s.setPlate x).freeCtr = s.freeCtr := rfl
@[simp] theorem State.setPlate_cyc (x : Plate) : (s.setPlate x).cyc = s.cyc := rfl
@[simp] theorem State.setPlate_pulses (x : Plate) : (s.setPlate x).pulses = s.pulses := rfl
@[simp] theorem State.setPlate_now (x : Plate) : (s.setPlate x).now = s.now := rfl
@[simp] theorem State.setPlate_devTimer (x : Plate) : (s.setPlate x).devTimer = s.devTimer := rfl
@[simp] theorem State.setPlate_regs (x : Plate) : (s.setPlate x).regs = s.regs := rfl
@[simp] theorem State.setPlate_resp (x : Plate) : (s.setPlate x).resp = s.resp := rfl
@[simp] theorem State.setPlate_shadow (x : Plate) : (s.setPlate x).shadow = s.shadow := rfl
@[simp] theorem State.setPlate_sys (x : Plate) : (s.setPlate x).sys = s.sys := rfl
@[simp] theorem State.setPlate_log (x : Plate) : (s.setPlate x).log = s.log := rfl
@[simp] theorem State.setPlate_spindles (x : Plate) : (s.setPlate x).spindles = s.spindles := rfl
@[simp] theorem State.setPlate_encoders (x : Plate) : (s.setPlate x).encoders = s.encoders := rfl
@[simp] theorem State.setPlate_encSince (x : Plate) : (s.setPlate x).encSince = s.encSince := rfl
@[simp] theorem State.setPlate_timers (x : Plate) : (s.setPlate x).timers = s.timers := rfl
@[simp] theorem State.setPlate_ptp (x : Plate) : (s.setPlate x).ptp = s.ptp := rfl
@[simp] theorem State.setPlate_adcs (x : Plate) : (s.setPlate x).adcs = s.adcs := rfl
@[simp] theorem State.setPlate_channels (x : Plate) : (s.setPlate x).channels = s.channels := rfl
@[simp] theorem State.setPlate_comparators (x : Plate) : (s.setPlate x).comparators = s.comparators := rfl
@[simp] theorem State.setPlate_demods (x : Plate) : (s.setPlate x).demods = s.demods := rfl
@[simp] theorem State.setPlate_sectors (x : Plate) : (s.setPlate x).sectors = s.sectors := rfl
@[simp] theorem State.setPlate_pairs (x : Plate) : (s.setPlate x).pairs = s.pairs := rfl
@[simp] theorem State.setPlate_groups (x : Plate) : (s.setPlate x).groups = s.groups := rfl
@[simp] theorem State.setPlate_tripPins (x : Plate) : (s.setPlate x).tripPins = s.tripPins := rfl
@[simp] theorem State.setPlate_zonePins (x : Plate) : (s.setPlate x).zonePins = s.zonePins := rfl
@[simp] theorem State.setPlate_tripAll (x : Plate) : (s.setPlate x).tripAll = s.tripAll := rfl
@[simp] theorem State.setPlate_loops (x : Plate) : (s.setPlate x).loops = s.loops := rfl
@[simp] theorem State.setPlate_place (x : Plate) : (s.setPlate x).place = s.place := rfl
@[simp] theorem State.setPlate_cores (x : Plate) : (s.setPlate x).cores = s.cores := rfl
@[simp] theorem State.setPlate_aic (x : Plate) : (s.setPlate x).aic = s.aic := rfl
@[simp] theorem State.setPlate_dma (x : Plate) : (s.setPlate x).dma = s.dma := rfl
@[simp] theorem State.setPlate_dmaLast (x : Plate) : (s.setPlate x).dmaLast = s.dmaLast := rfl
@[simp] theorem State.setPlate_outbound (x : Plate) : (s.setPlate x).outbound = s.outbound := rfl
@[simp] theorem State.setPlate_posted (x : Plate) : (s.setPlate x).posted = s.posted := rfl
@[simp] theorem State.setPlate_consoles (x : Plate) : (s.setPlate x).consoles = s.consoles := rfl
@[simp] theorem State.setPlate_conJobs (x : Plate) : (s.setPlate x).conJobs = s.conJobs := rfl
@[simp] theorem State.setPlate_pipes (x : Plate) : (s.setPlate x).pipes = s.pipes := rfl
@[simp] theorem State.setPlate_streams (x : Plate) : (s.setPlate x).streams = s.streams := rfl
@[simp] theorem State.setPlate_liveLines (x : Plate) : (s.setPlate x).liveLines = s.liveLines := rfl
@[simp] theorem State.setPlate_active (x : Plate) : (s.setPlate x).active = s.active := rfl
@[simp] theorem State.setPlate_mover (x : Plate) : (s.setPlate x).mover = s.mover := rfl
@[simp] theorem State.setPlate_heads (x : Plate) : (s.setPlate x).heads = s.heads := rfl
@[simp] theorem State.setPlate_audio (x : Plate) : (s.setPlate x).audio = s.audio := rfl
@[simp] theorem State.setPlate_bankSupply (x : Plate) : (s.setPlate x).bankSupply = s.bankSupply := rfl
@[simp] theorem State.setPlate_keepers (x : Plate) : (s.setPlate x).keepers = s.keepers := rfl
@[simp] theorem State.setPlate_sec (x : Plate) : (s.setPlate x).sec = s.sec := rfl
@[simp] theorem State.setPlate_cvs (x : Plate) : (s.setPlate x).cvs = s.cvs := rfl
@[simp] theorem State.setPlate_hosts (x : Plate) : (s.setPlate x).hosts = s.hosts := rfl
@[simp] theorem State.setPlate_dict (x : Plate) : (s.setPlate x).dict = s.dict := rfl
@[simp] theorem State.setPlate_canNode (x : Plate) : (s.setPlate x).canNode = s.canNode := rfl
@[simp] theorem State.setPlate_cans (x : Plate) : (s.setPlate x).cans = s.cans := rfl
@[simp] theorem State.setPlate_macs (x : Plate) : (s.setPlate x).macs = s.macs := rfl
@[simp] theorem State.setPlate_aborts (x : Plate) : (s.setPlate x).aborts = s.aborts := rfl
@[simp] theorem State.setPlate_iotlb (x : Plate) : (s.setPlate x).iotlb = s.iotlb := rfl
@[simp] theorem State.setPlate_sbOld (x : Plate) : (s.setPlate x).sbOld = s.sbOld := rfl
@[simp] theorem State.setPlate_trainTries (x : Plate) : (s.setPlate x).trainTries = s.trainTries := rfl
@[simp] theorem State.setPlate_refreshFast (x : Plate) : (s.setPlate x).refreshFast = s.refreshFast := rfl
@[simp] theorem State.setPlate_dramTemp (x : Plate) : (s.setPlate x).dramTemp = s.dramTemp := rfl
@[simp] theorem State.setPlate_macQueues (x : Plate) : (s.setPlate x).macQueues = s.macQueues := rfl
@[simp] theorem State.setPlate_busyPins (x : Plate) : (s.setPlate x).busyPins = s.busyPins := rfl
@[simp] theorem State.setPlate_tsClaimed (x : Plate) : (s.setPlate x).tsClaimed = s.tsClaimed := rfl
@[simp] theorem State.setPlate_mem (x : Plate) : (s.setPlate x).mem = s.mem := rfl
@[simp] theorem State.setPlate_nor (x : Plate) : (s.setPlate x).nor = s.nor := rfl
@[simp] theorem State.setPlate_poison (x : Plate) : (s.setPlate x).poison = s.poison := rfl
@[simp] theorem State.setPlate_checks (x : Plate) : (s.setPlate x).checks = s.checks := rfl
@[simp] theorem State.reg_setPlate (x : Plate) (a0 : Nat) : (s.setPlate x).reg a0 = s.reg a0 := rfl
@[simp] theorem State.fld_setPlate (x : Plate) (a0 : Nat) (h0 : Nat) (l0 : Nat) : (s.setPlate x).fld a0 h0 l0 = s.fld a0 h0 l0 := rfl
@[simp] theorem State.bit_setPlate (x : Plate) (a0 : Nat) (i0 : Nat) : (s.setPlate x).bit a0 i0 = s.bit a0 i0 := rfl
@[simp] theorem State.byte_setPlate (x : Plate) (a0 : Nat) : (s.setPlate x).byte a0 = s.byte a0 := rfl
@[simp] theorem State.norByte_setPlate (x : Plate) (a0 : Nat) : (s.setPlate x).norByte a0 = s.norByte a0 := rfl
@[simp] theorem State.adc_setPlate (x : Plate) (j : Nat) : (s.setPlate x).adc j = s.adc j := rfl
@[simp] theorem State.chan_setPlate (x : Plate) (j : Nat) : (s.setPlate x).chan j = s.chan j := rfl
@[simp] theorem State.demod_setPlate (x : Plate) (j : Nat) : (s.setPlate x).demod j = s.demod j := rfl
@[simp] theorem State.sector_setPlate (x : Plate) (j : Nat) : (s.setPlate x).sector j = s.sector j := rfl
@[simp] theorem State.aicCore_setPlate (x : Plate) (j : Nat) : (s.setPlate x).aicCore j = s.aicCore j := rfl
@[simp] theorem State.con_setPlate (x : Plate) (j : Nat) : (s.setPlate x).con j = s.con j := rfl
@[simp] theorem State.stream_setPlate (x : Plate) (j : Nat) : (s.setPlate x).stream j = s.stream j := rfl
@[simp] theorem State.core_setPlate (x : Plate) (j : Nat) : (s.setPlate x).core j = s.core j := rfl
@[simp] theorem State.greg_setPlate (x : Plate) (j : Nat) (r : Nat) : (s.setPlate x).greg j r = s.greg j r := rfl
@[simp] theorem State.cv_setPlate (x : Plate) (j : Nat) : (s.setPlate x).cv j = s.cv j := rfl
@[simp] theorem State.head_setPlate (x : Plate) (j : Nat) : (s.setPlate x).head j = s.head j := rfl
@[simp] theorem State.host_setPlate (x : Plate) (j : Nat) : (s.setPlate x).host j = s.host j := rfl
@[simp] theorem State.abortEngine_setPlate (x : Plate) (j : Nat) : (s.setPlate x).abortEngine j = s.abortEngine j := rfl
@[simp] theorem State.ctx_setPlate (x : Plate) (j : Nat) : (s.setPlate x).ctx j = s.ctx j := rfl
@[simp] theorem State.dmaCh_setPlate (x : Plate) (j : Nat) : (s.setPlate x).dmaCh j = s.dmaCh j := rfl
@[simp] theorem State.spn_setPlate (x : Plate) (j : Nat) : (s.setPlate x).spn j = s.spn j := rfl
@[simp] theorem State.timer_setPlate (x : Plate) (j : Nat) : (s.setPlate x).timer j = s.timer j := rfl
@[simp] theorem State.pair_setPlate (x : Plate) (j : Nat) : (s.setPlate x).pair j = s.pair j := rfl
@[simp] theorem State.group_setPlate (x : Plate) (j : Nat) : (s.setPlate x).group j = s.group j := rfl
@[simp] theorem State.comparator_setPlate (x : Plate) (j : Nat) : (s.setPlate x).comparator j = s.comparator j := rfl
@[simp] theorem State.fclkOn_setPlate (x : Plate) : (s.setPlate x).fclkOn = s.fclkOn := rfl
@[simp] theorem State.mediaOn_setPlate (x : Plate) : (s.setPlate x).mediaOn = s.mediaOn := rfl
@[simp] theorem State.sectorOn_setPlate (x : Plate) (j : Nat) : (s.setPlate x).sectorOn j = s.sectorOn j := rfl
@[simp] theorem State.coreOn_setPlate (x : Plate) (j : Nat) : (s.setPlate x).coreOn j = s.coreOn j := rfl
@[simp] theorem State.firmwareOn_setPlate (x : Plate) : (s.setPlate x).firmwareOn = s.firmwareOn := rfl
@[simp] theorem State.composerOn_setPlate (x : Plate) : (s.setPlate x).composerOn = s.composerOn := rfl

/-! ### setSpn -/

@[simp] theorem State.setSpn_pending (n : Nat) (x : Spindle) : (s.setSpn n x).pending = s.pending := rfl
@[simp] theorem State.setSpn_freeCtr (n : Nat) (x : Spindle) : (s.setSpn n x).freeCtr = s.freeCtr := rfl
@[simp] theorem State.setSpn_cyc (n : Nat) (x : Spindle) : (s.setSpn n x).cyc = s.cyc := rfl
@[simp] theorem State.setSpn_pulses (n : Nat) (x : Spindle) : (s.setSpn n x).pulses = s.pulses := rfl
@[simp] theorem State.setSpn_now (n : Nat) (x : Spindle) : (s.setSpn n x).now = s.now := rfl
@[simp] theorem State.setSpn_devTimer (n : Nat) (x : Spindle) : (s.setSpn n x).devTimer = s.devTimer := rfl
@[simp] theorem State.setSpn_regs (n : Nat) (x : Spindle) : (s.setSpn n x).regs = s.regs := rfl
@[simp] theorem State.setSpn_resp (n : Nat) (x : Spindle) : (s.setSpn n x).resp = s.resp := rfl
@[simp] theorem State.setSpn_shadow (n : Nat) (x : Spindle) : (s.setSpn n x).shadow = s.shadow := rfl
@[simp] theorem State.setSpn_sys (n : Nat) (x : Spindle) : (s.setSpn n x).sys = s.sys := rfl
@[simp] theorem State.setSpn_log (n : Nat) (x : Spindle) : (s.setSpn n x).log = s.log := rfl
@[simp] theorem State.setSpn_encoders (n : Nat) (x : Spindle) : (s.setSpn n x).encoders = s.encoders := rfl
@[simp] theorem State.setSpn_encSince (n : Nat) (x : Spindle) : (s.setSpn n x).encSince = s.encSince := rfl
@[simp] theorem State.setSpn_timers (n : Nat) (x : Spindle) : (s.setSpn n x).timers = s.timers := rfl
@[simp] theorem State.setSpn_ptp (n : Nat) (x : Spindle) : (s.setSpn n x).ptp = s.ptp := rfl
@[simp] theorem State.setSpn_adcs (n : Nat) (x : Spindle) : (s.setSpn n x).adcs = s.adcs := rfl
@[simp] theorem State.setSpn_channels (n : Nat) (x : Spindle) : (s.setSpn n x).channels = s.channels := rfl
@[simp] theorem State.setSpn_comparators (n : Nat) (x : Spindle) : (s.setSpn n x).comparators = s.comparators := rfl
@[simp] theorem State.setSpn_demods (n : Nat) (x : Spindle) : (s.setSpn n x).demods = s.demods := rfl
@[simp] theorem State.setSpn_sectors (n : Nat) (x : Spindle) : (s.setSpn n x).sectors = s.sectors := rfl
@[simp] theorem State.setSpn_pairs (n : Nat) (x : Spindle) : (s.setSpn n x).pairs = s.pairs := rfl
@[simp] theorem State.setSpn_groups (n : Nat) (x : Spindle) : (s.setSpn n x).groups = s.groups := rfl
@[simp] theorem State.setSpn_tripPins (n : Nat) (x : Spindle) : (s.setSpn n x).tripPins = s.tripPins := rfl
@[simp] theorem State.setSpn_zonePins (n : Nat) (x : Spindle) : (s.setSpn n x).zonePins = s.zonePins := rfl
@[simp] theorem State.setSpn_tripAll (n : Nat) (x : Spindle) : (s.setSpn n x).tripAll = s.tripAll := rfl
@[simp] theorem State.setSpn_plate (n : Nat) (x : Spindle) : (s.setSpn n x).plate = s.plate := rfl
@[simp] theorem State.setSpn_loops (n : Nat) (x : Spindle) : (s.setSpn n x).loops = s.loops := rfl
@[simp] theorem State.setSpn_place (n : Nat) (x : Spindle) : (s.setSpn n x).place = s.place := rfl
@[simp] theorem State.setSpn_cores (n : Nat) (x : Spindle) : (s.setSpn n x).cores = s.cores := rfl
@[simp] theorem State.setSpn_aic (n : Nat) (x : Spindle) : (s.setSpn n x).aic = s.aic := rfl
@[simp] theorem State.setSpn_dma (n : Nat) (x : Spindle) : (s.setSpn n x).dma = s.dma := rfl
@[simp] theorem State.setSpn_dmaLast (n : Nat) (x : Spindle) : (s.setSpn n x).dmaLast = s.dmaLast := rfl
@[simp] theorem State.setSpn_outbound (n : Nat) (x : Spindle) : (s.setSpn n x).outbound = s.outbound := rfl
@[simp] theorem State.setSpn_posted (n : Nat) (x : Spindle) : (s.setSpn n x).posted = s.posted := rfl
@[simp] theorem State.setSpn_consoles (n : Nat) (x : Spindle) : (s.setSpn n x).consoles = s.consoles := rfl
@[simp] theorem State.setSpn_conJobs (n : Nat) (x : Spindle) : (s.setSpn n x).conJobs = s.conJobs := rfl
@[simp] theorem State.setSpn_pipes (n : Nat) (x : Spindle) : (s.setSpn n x).pipes = s.pipes := rfl
@[simp] theorem State.setSpn_streams (n : Nat) (x : Spindle) : (s.setSpn n x).streams = s.streams := rfl
@[simp] theorem State.setSpn_liveLines (n : Nat) (x : Spindle) : (s.setSpn n x).liveLines = s.liveLines := rfl
@[simp] theorem State.setSpn_active (n : Nat) (x : Spindle) : (s.setSpn n x).active = s.active := rfl
@[simp] theorem State.setSpn_mover (n : Nat) (x : Spindle) : (s.setSpn n x).mover = s.mover := rfl
@[simp] theorem State.setSpn_heads (n : Nat) (x : Spindle) : (s.setSpn n x).heads = s.heads := rfl
@[simp] theorem State.setSpn_audio (n : Nat) (x : Spindle) : (s.setSpn n x).audio = s.audio := rfl
@[simp] theorem State.setSpn_bankSupply (n : Nat) (x : Spindle) : (s.setSpn n x).bankSupply = s.bankSupply := rfl
@[simp] theorem State.setSpn_keepers (n : Nat) (x : Spindle) : (s.setSpn n x).keepers = s.keepers := rfl
@[simp] theorem State.setSpn_sec (n : Nat) (x : Spindle) : (s.setSpn n x).sec = s.sec := rfl
@[simp] theorem State.setSpn_cvs (n : Nat) (x : Spindle) : (s.setSpn n x).cvs = s.cvs := rfl
@[simp] theorem State.setSpn_hosts (n : Nat) (x : Spindle) : (s.setSpn n x).hosts = s.hosts := rfl
@[simp] theorem State.setSpn_dict (n : Nat) (x : Spindle) : (s.setSpn n x).dict = s.dict := rfl
@[simp] theorem State.setSpn_canNode (n : Nat) (x : Spindle) : (s.setSpn n x).canNode = s.canNode := rfl
@[simp] theorem State.setSpn_cans (n : Nat) (x : Spindle) : (s.setSpn n x).cans = s.cans := rfl
@[simp] theorem State.setSpn_macs (n : Nat) (x : Spindle) : (s.setSpn n x).macs = s.macs := rfl
@[simp] theorem State.setSpn_aborts (n : Nat) (x : Spindle) : (s.setSpn n x).aborts = s.aborts := rfl
@[simp] theorem State.setSpn_iotlb (n : Nat) (x : Spindle) : (s.setSpn n x).iotlb = s.iotlb := rfl
@[simp] theorem State.setSpn_sbOld (n : Nat) (x : Spindle) : (s.setSpn n x).sbOld = s.sbOld := rfl
@[simp] theorem State.setSpn_trainTries (n : Nat) (x : Spindle) : (s.setSpn n x).trainTries = s.trainTries := rfl
@[simp] theorem State.setSpn_refreshFast (n : Nat) (x : Spindle) : (s.setSpn n x).refreshFast = s.refreshFast := rfl
@[simp] theorem State.setSpn_dramTemp (n : Nat) (x : Spindle) : (s.setSpn n x).dramTemp = s.dramTemp := rfl
@[simp] theorem State.setSpn_macQueues (n : Nat) (x : Spindle) : (s.setSpn n x).macQueues = s.macQueues := rfl
@[simp] theorem State.setSpn_busyPins (n : Nat) (x : Spindle) : (s.setSpn n x).busyPins = s.busyPins := rfl
@[simp] theorem State.setSpn_tsClaimed (n : Nat) (x : Spindle) : (s.setSpn n x).tsClaimed = s.tsClaimed := rfl
@[simp] theorem State.setSpn_mem (n : Nat) (x : Spindle) : (s.setSpn n x).mem = s.mem := rfl
@[simp] theorem State.setSpn_nor (n : Nat) (x : Spindle) : (s.setSpn n x).nor = s.nor := rfl
@[simp] theorem State.setSpn_poison (n : Nat) (x : Spindle) : (s.setSpn n x).poison = s.poison := rfl
@[simp] theorem State.setSpn_checks (n : Nat) (x : Spindle) : (s.setSpn n x).checks = s.checks := rfl
@[simp] theorem State.reg_setSpn (n : Nat) (x : Spindle) (a0 : Nat) : (s.setSpn n x).reg a0 = s.reg a0 := rfl
@[simp] theorem State.fld_setSpn (n : Nat) (x : Spindle) (a0 : Nat) (h0 : Nat) (l0 : Nat) : (s.setSpn n x).fld a0 h0 l0 = s.fld a0 h0 l0 := rfl
@[simp] theorem State.bit_setSpn (n : Nat) (x : Spindle) (a0 : Nat) (i0 : Nat) : (s.setSpn n x).bit a0 i0 = s.bit a0 i0 := rfl
@[simp] theorem State.byte_setSpn (n : Nat) (x : Spindle) (a0 : Nat) : (s.setSpn n x).byte a0 = s.byte a0 := rfl
@[simp] theorem State.norByte_setSpn (n : Nat) (x : Spindle) (a0 : Nat) : (s.setSpn n x).norByte a0 = s.norByte a0 := rfl
@[simp] theorem State.adc_setSpn (n : Nat) (x : Spindle) (j : Nat) : (s.setSpn n x).adc j = s.adc j := rfl
@[simp] theorem State.chan_setSpn (n : Nat) (x : Spindle) (j : Nat) : (s.setSpn n x).chan j = s.chan j := rfl
@[simp] theorem State.demod_setSpn (n : Nat) (x : Spindle) (j : Nat) : (s.setSpn n x).demod j = s.demod j := rfl
@[simp] theorem State.sector_setSpn (n : Nat) (x : Spindle) (j : Nat) : (s.setSpn n x).sector j = s.sector j := rfl
@[simp] theorem State.aicCore_setSpn (n : Nat) (x : Spindle) (j : Nat) : (s.setSpn n x).aicCore j = s.aicCore j := rfl
@[simp] theorem State.con_setSpn (n : Nat) (x : Spindle) (j : Nat) : (s.setSpn n x).con j = s.con j := rfl
@[simp] theorem State.stream_setSpn (n : Nat) (x : Spindle) (j : Nat) : (s.setSpn n x).stream j = s.stream j := rfl
@[simp] theorem State.core_setSpn (n : Nat) (x : Spindle) (j : Nat) : (s.setSpn n x).core j = s.core j := rfl
@[simp] theorem State.greg_setSpn (n : Nat) (x : Spindle) (j : Nat) (r : Nat) : (s.setSpn n x).greg j r = s.greg j r := rfl
@[simp] theorem State.cv_setSpn (n : Nat) (x : Spindle) (j : Nat) : (s.setSpn n x).cv j = s.cv j := rfl
@[simp] theorem State.head_setSpn (n : Nat) (x : Spindle) (j : Nat) : (s.setSpn n x).head j = s.head j := rfl
@[simp] theorem State.host_setSpn (n : Nat) (x : Spindle) (j : Nat) : (s.setSpn n x).host j = s.host j := rfl
@[simp] theorem State.abortEngine_setSpn (n : Nat) (x : Spindle) (j : Nat) : (s.setSpn n x).abortEngine j = s.abortEngine j := rfl
@[simp] theorem State.ctx_setSpn (n : Nat) (x : Spindle) (j : Nat) : (s.setSpn n x).ctx j = s.ctx j := rfl
@[simp] theorem State.dmaCh_setSpn (n : Nat) (x : Spindle) (j : Nat) : (s.setSpn n x).dmaCh j = s.dmaCh j := rfl
@[simp] theorem State.entry_setSpn (n : Nat) (x : Spindle) (j : Nat) : (s.setSpn n x).entry j = s.entry j := rfl
@[simp] theorem State.timer_setSpn (n : Nat) (x : Spindle) (j : Nat) : (s.setSpn n x).timer j = s.timer j := rfl
@[simp] theorem State.pair_setSpn (n : Nat) (x : Spindle) (j : Nat) : (s.setSpn n x).pair j = s.pair j := rfl
@[simp] theorem State.group_setSpn (n : Nat) (x : Spindle) (j : Nat) : (s.setSpn n x).group j = s.group j := rfl
@[simp] theorem State.comparator_setSpn (n : Nat) (x : Spindle) (j : Nat) : (s.setSpn n x).comparator j = s.comparator j := rfl
@[simp] theorem State.fclkOn_setSpn (n : Nat) (x : Spindle) : (s.setSpn n x).fclkOn = s.fclkOn := rfl
@[simp] theorem State.mediaOn_setSpn (n : Nat) (x : Spindle) : (s.setSpn n x).mediaOn = s.mediaOn := rfl
@[simp] theorem State.sectorOn_setSpn (n : Nat) (x : Spindle) (j : Nat) : (s.setSpn n x).sectorOn j = s.sectorOn j := rfl
@[simp] theorem State.coreOn_setSpn (n : Nat) (x : Spindle) (j : Nat) : (s.setSpn n x).coreOn j = s.coreOn j := rfl
@[simp] theorem State.firmwareOn_setSpn (n : Nat) (x : Spindle) : (s.setSpn n x).firmwareOn = s.firmwareOn := rfl
@[simp] theorem State.composerOn_setSpn (n : Nat) (x : Spindle) : (s.setSpn n x).composerOn = s.composerOn := rfl

/-! ### setTimer -/

@[simp] theorem State.setTimer_pending (n : Nat) (x : GenTimer) : (s.setTimer n x).pending = s.pending := rfl
@[simp] theorem State.setTimer_freeCtr (n : Nat) (x : GenTimer) : (s.setTimer n x).freeCtr = s.freeCtr := rfl
@[simp] theorem State.setTimer_cyc (n : Nat) (x : GenTimer) : (s.setTimer n x).cyc = s.cyc := rfl
@[simp] theorem State.setTimer_pulses (n : Nat) (x : GenTimer) : (s.setTimer n x).pulses = s.pulses := rfl
@[simp] theorem State.setTimer_now (n : Nat) (x : GenTimer) : (s.setTimer n x).now = s.now := rfl
@[simp] theorem State.setTimer_devTimer (n : Nat) (x : GenTimer) : (s.setTimer n x).devTimer = s.devTimer := rfl
@[simp] theorem State.setTimer_regs (n : Nat) (x : GenTimer) : (s.setTimer n x).regs = s.regs := rfl
@[simp] theorem State.setTimer_resp (n : Nat) (x : GenTimer) : (s.setTimer n x).resp = s.resp := rfl
@[simp] theorem State.setTimer_shadow (n : Nat) (x : GenTimer) : (s.setTimer n x).shadow = s.shadow := rfl
@[simp] theorem State.setTimer_sys (n : Nat) (x : GenTimer) : (s.setTimer n x).sys = s.sys := rfl
@[simp] theorem State.setTimer_log (n : Nat) (x : GenTimer) : (s.setTimer n x).log = s.log := rfl
@[simp] theorem State.setTimer_spindles (n : Nat) (x : GenTimer) : (s.setTimer n x).spindles = s.spindles := rfl
@[simp] theorem State.setTimer_encoders (n : Nat) (x : GenTimer) : (s.setTimer n x).encoders = s.encoders := rfl
@[simp] theorem State.setTimer_encSince (n : Nat) (x : GenTimer) : (s.setTimer n x).encSince = s.encSince := rfl
@[simp] theorem State.setTimer_ptp (n : Nat) (x : GenTimer) : (s.setTimer n x).ptp = s.ptp := rfl
@[simp] theorem State.setTimer_adcs (n : Nat) (x : GenTimer) : (s.setTimer n x).adcs = s.adcs := rfl
@[simp] theorem State.setTimer_channels (n : Nat) (x : GenTimer) : (s.setTimer n x).channels = s.channels := rfl
@[simp] theorem State.setTimer_comparators (n : Nat) (x : GenTimer) : (s.setTimer n x).comparators = s.comparators := rfl
@[simp] theorem State.setTimer_demods (n : Nat) (x : GenTimer) : (s.setTimer n x).demods = s.demods := rfl
@[simp] theorem State.setTimer_sectors (n : Nat) (x : GenTimer) : (s.setTimer n x).sectors = s.sectors := rfl
@[simp] theorem State.setTimer_pairs (n : Nat) (x : GenTimer) : (s.setTimer n x).pairs = s.pairs := rfl
@[simp] theorem State.setTimer_groups (n : Nat) (x : GenTimer) : (s.setTimer n x).groups = s.groups := rfl
@[simp] theorem State.setTimer_tripPins (n : Nat) (x : GenTimer) : (s.setTimer n x).tripPins = s.tripPins := rfl
@[simp] theorem State.setTimer_zonePins (n : Nat) (x : GenTimer) : (s.setTimer n x).zonePins = s.zonePins := rfl
@[simp] theorem State.setTimer_tripAll (n : Nat) (x : GenTimer) : (s.setTimer n x).tripAll = s.tripAll := rfl
@[simp] theorem State.setTimer_plate (n : Nat) (x : GenTimer) : (s.setTimer n x).plate = s.plate := rfl
@[simp] theorem State.setTimer_loops (n : Nat) (x : GenTimer) : (s.setTimer n x).loops = s.loops := rfl
@[simp] theorem State.setTimer_place (n : Nat) (x : GenTimer) : (s.setTimer n x).place = s.place := rfl
@[simp] theorem State.setTimer_cores (n : Nat) (x : GenTimer) : (s.setTimer n x).cores = s.cores := rfl
@[simp] theorem State.setTimer_aic (n : Nat) (x : GenTimer) : (s.setTimer n x).aic = s.aic := rfl
@[simp] theorem State.setTimer_dma (n : Nat) (x : GenTimer) : (s.setTimer n x).dma = s.dma := rfl
@[simp] theorem State.setTimer_dmaLast (n : Nat) (x : GenTimer) : (s.setTimer n x).dmaLast = s.dmaLast := rfl
@[simp] theorem State.setTimer_outbound (n : Nat) (x : GenTimer) : (s.setTimer n x).outbound = s.outbound := rfl
@[simp] theorem State.setTimer_posted (n : Nat) (x : GenTimer) : (s.setTimer n x).posted = s.posted := rfl
@[simp] theorem State.setTimer_consoles (n : Nat) (x : GenTimer) : (s.setTimer n x).consoles = s.consoles := rfl
@[simp] theorem State.setTimer_conJobs (n : Nat) (x : GenTimer) : (s.setTimer n x).conJobs = s.conJobs := rfl
@[simp] theorem State.setTimer_pipes (n : Nat) (x : GenTimer) : (s.setTimer n x).pipes = s.pipes := rfl
@[simp] theorem State.setTimer_streams (n : Nat) (x : GenTimer) : (s.setTimer n x).streams = s.streams := rfl
@[simp] theorem State.setTimer_liveLines (n : Nat) (x : GenTimer) : (s.setTimer n x).liveLines = s.liveLines := rfl
@[simp] theorem State.setTimer_active (n : Nat) (x : GenTimer) : (s.setTimer n x).active = s.active := rfl
@[simp] theorem State.setTimer_mover (n : Nat) (x : GenTimer) : (s.setTimer n x).mover = s.mover := rfl
@[simp] theorem State.setTimer_heads (n : Nat) (x : GenTimer) : (s.setTimer n x).heads = s.heads := rfl
@[simp] theorem State.setTimer_audio (n : Nat) (x : GenTimer) : (s.setTimer n x).audio = s.audio := rfl
@[simp] theorem State.setTimer_bankSupply (n : Nat) (x : GenTimer) : (s.setTimer n x).bankSupply = s.bankSupply := rfl
@[simp] theorem State.setTimer_keepers (n : Nat) (x : GenTimer) : (s.setTimer n x).keepers = s.keepers := rfl
@[simp] theorem State.setTimer_sec (n : Nat) (x : GenTimer) : (s.setTimer n x).sec = s.sec := rfl
@[simp] theorem State.setTimer_cvs (n : Nat) (x : GenTimer) : (s.setTimer n x).cvs = s.cvs := rfl
@[simp] theorem State.setTimer_hosts (n : Nat) (x : GenTimer) : (s.setTimer n x).hosts = s.hosts := rfl
@[simp] theorem State.setTimer_dict (n : Nat) (x : GenTimer) : (s.setTimer n x).dict = s.dict := rfl
@[simp] theorem State.setTimer_canNode (n : Nat) (x : GenTimer) : (s.setTimer n x).canNode = s.canNode := rfl
@[simp] theorem State.setTimer_cans (n : Nat) (x : GenTimer) : (s.setTimer n x).cans = s.cans := rfl
@[simp] theorem State.setTimer_macs (n : Nat) (x : GenTimer) : (s.setTimer n x).macs = s.macs := rfl
@[simp] theorem State.setTimer_aborts (n : Nat) (x : GenTimer) : (s.setTimer n x).aborts = s.aborts := rfl
@[simp] theorem State.setTimer_iotlb (n : Nat) (x : GenTimer) : (s.setTimer n x).iotlb = s.iotlb := rfl
@[simp] theorem State.setTimer_sbOld (n : Nat) (x : GenTimer) : (s.setTimer n x).sbOld = s.sbOld := rfl
@[simp] theorem State.setTimer_trainTries (n : Nat) (x : GenTimer) : (s.setTimer n x).trainTries = s.trainTries := rfl
@[simp] theorem State.setTimer_refreshFast (n : Nat) (x : GenTimer) : (s.setTimer n x).refreshFast = s.refreshFast := rfl
@[simp] theorem State.setTimer_dramTemp (n : Nat) (x : GenTimer) : (s.setTimer n x).dramTemp = s.dramTemp := rfl
@[simp] theorem State.setTimer_macQueues (n : Nat) (x : GenTimer) : (s.setTimer n x).macQueues = s.macQueues := rfl
@[simp] theorem State.setTimer_busyPins (n : Nat) (x : GenTimer) : (s.setTimer n x).busyPins = s.busyPins := rfl
@[simp] theorem State.setTimer_tsClaimed (n : Nat) (x : GenTimer) : (s.setTimer n x).tsClaimed = s.tsClaimed := rfl
@[simp] theorem State.setTimer_mem (n : Nat) (x : GenTimer) : (s.setTimer n x).mem = s.mem := rfl
@[simp] theorem State.setTimer_nor (n : Nat) (x : GenTimer) : (s.setTimer n x).nor = s.nor := rfl
@[simp] theorem State.setTimer_poison (n : Nat) (x : GenTimer) : (s.setTimer n x).poison = s.poison := rfl
@[simp] theorem State.setTimer_checks (n : Nat) (x : GenTimer) : (s.setTimer n x).checks = s.checks := rfl
@[simp] theorem State.reg_setTimer (n : Nat) (x : GenTimer) (a0 : Nat) : (s.setTimer n x).reg a0 = s.reg a0 := rfl
@[simp] theorem State.fld_setTimer (n : Nat) (x : GenTimer) (a0 : Nat) (h0 : Nat) (l0 : Nat) : (s.setTimer n x).fld a0 h0 l0 = s.fld a0 h0 l0 := rfl
@[simp] theorem State.bit_setTimer (n : Nat) (x : GenTimer) (a0 : Nat) (i0 : Nat) : (s.setTimer n x).bit a0 i0 = s.bit a0 i0 := rfl
@[simp] theorem State.byte_setTimer (n : Nat) (x : GenTimer) (a0 : Nat) : (s.setTimer n x).byte a0 = s.byte a0 := rfl
@[simp] theorem State.norByte_setTimer (n : Nat) (x : GenTimer) (a0 : Nat) : (s.setTimer n x).norByte a0 = s.norByte a0 := rfl
@[simp] theorem State.adc_setTimer (n : Nat) (x : GenTimer) (j : Nat) : (s.setTimer n x).adc j = s.adc j := rfl
@[simp] theorem State.chan_setTimer (n : Nat) (x : GenTimer) (j : Nat) : (s.setTimer n x).chan j = s.chan j := rfl
@[simp] theorem State.demod_setTimer (n : Nat) (x : GenTimer) (j : Nat) : (s.setTimer n x).demod j = s.demod j := rfl
@[simp] theorem State.sector_setTimer (n : Nat) (x : GenTimer) (j : Nat) : (s.setTimer n x).sector j = s.sector j := rfl
@[simp] theorem State.aicCore_setTimer (n : Nat) (x : GenTimer) (j : Nat) : (s.setTimer n x).aicCore j = s.aicCore j := rfl
@[simp] theorem State.con_setTimer (n : Nat) (x : GenTimer) (j : Nat) : (s.setTimer n x).con j = s.con j := rfl
@[simp] theorem State.stream_setTimer (n : Nat) (x : GenTimer) (j : Nat) : (s.setTimer n x).stream j = s.stream j := rfl
@[simp] theorem State.core_setTimer (n : Nat) (x : GenTimer) (j : Nat) : (s.setTimer n x).core j = s.core j := rfl
@[simp] theorem State.greg_setTimer (n : Nat) (x : GenTimer) (j : Nat) (r : Nat) : (s.setTimer n x).greg j r = s.greg j r := rfl
@[simp] theorem State.cv_setTimer (n : Nat) (x : GenTimer) (j : Nat) : (s.setTimer n x).cv j = s.cv j := rfl
@[simp] theorem State.head_setTimer (n : Nat) (x : GenTimer) (j : Nat) : (s.setTimer n x).head j = s.head j := rfl
@[simp] theorem State.host_setTimer (n : Nat) (x : GenTimer) (j : Nat) : (s.setTimer n x).host j = s.host j := rfl
@[simp] theorem State.abortEngine_setTimer (n : Nat) (x : GenTimer) (j : Nat) : (s.setTimer n x).abortEngine j = s.abortEngine j := rfl
@[simp] theorem State.ctx_setTimer (n : Nat) (x : GenTimer) (j : Nat) : (s.setTimer n x).ctx j = s.ctx j := rfl
@[simp] theorem State.dmaCh_setTimer (n : Nat) (x : GenTimer) (j : Nat) : (s.setTimer n x).dmaCh j = s.dmaCh j := rfl
@[simp] theorem State.entry_setTimer (n : Nat) (x : GenTimer) (j : Nat) : (s.setTimer n x).entry j = s.entry j := rfl
@[simp] theorem State.spn_setTimer (n : Nat) (x : GenTimer) (j : Nat) : (s.setTimer n x).spn j = s.spn j := rfl
@[simp] theorem State.pair_setTimer (n : Nat) (x : GenTimer) (j : Nat) : (s.setTimer n x).pair j = s.pair j := rfl
@[simp] theorem State.group_setTimer (n : Nat) (x : GenTimer) (j : Nat) : (s.setTimer n x).group j = s.group j := rfl
@[simp] theorem State.comparator_setTimer (n : Nat) (x : GenTimer) (j : Nat) : (s.setTimer n x).comparator j = s.comparator j := rfl
@[simp] theorem State.fclkOn_setTimer (n : Nat) (x : GenTimer) : (s.setTimer n x).fclkOn = s.fclkOn := rfl
@[simp] theorem State.mediaOn_setTimer (n : Nat) (x : GenTimer) : (s.setTimer n x).mediaOn = s.mediaOn := rfl
@[simp] theorem State.sectorOn_setTimer (n : Nat) (x : GenTimer) (j : Nat) : (s.setTimer n x).sectorOn j = s.sectorOn j := rfl
@[simp] theorem State.coreOn_setTimer (n : Nat) (x : GenTimer) (j : Nat) : (s.setTimer n x).coreOn j = s.coreOn j := rfl
@[simp] theorem State.firmwareOn_setTimer (n : Nat) (x : GenTimer) : (s.setTimer n x).firmwareOn = s.firmwareOn := rfl
@[simp] theorem State.composerOn_setTimer (n : Nat) (x : GenTimer) : (s.setTimer n x).composerOn = s.composerOn := rfl

/-! ### setPair -/

@[simp] theorem State.setPair_pending (n : Nat) (x : PwmPair) : (s.setPair n x).pending = s.pending := rfl
@[simp] theorem State.setPair_freeCtr (n : Nat) (x : PwmPair) : (s.setPair n x).freeCtr = s.freeCtr := rfl
@[simp] theorem State.setPair_cyc (n : Nat) (x : PwmPair) : (s.setPair n x).cyc = s.cyc := rfl
@[simp] theorem State.setPair_pulses (n : Nat) (x : PwmPair) : (s.setPair n x).pulses = s.pulses := rfl
@[simp] theorem State.setPair_now (n : Nat) (x : PwmPair) : (s.setPair n x).now = s.now := rfl
@[simp] theorem State.setPair_devTimer (n : Nat) (x : PwmPair) : (s.setPair n x).devTimer = s.devTimer := rfl
@[simp] theorem State.setPair_regs (n : Nat) (x : PwmPair) : (s.setPair n x).regs = s.regs := rfl
@[simp] theorem State.setPair_resp (n : Nat) (x : PwmPair) : (s.setPair n x).resp = s.resp := rfl
@[simp] theorem State.setPair_shadow (n : Nat) (x : PwmPair) : (s.setPair n x).shadow = s.shadow := rfl
@[simp] theorem State.setPair_sys (n : Nat) (x : PwmPair) : (s.setPair n x).sys = s.sys := rfl
@[simp] theorem State.setPair_log (n : Nat) (x : PwmPair) : (s.setPair n x).log = s.log := rfl
@[simp] theorem State.setPair_spindles (n : Nat) (x : PwmPair) : (s.setPair n x).spindles = s.spindles := rfl
@[simp] theorem State.setPair_encoders (n : Nat) (x : PwmPair) : (s.setPair n x).encoders = s.encoders := rfl
@[simp] theorem State.setPair_encSince (n : Nat) (x : PwmPair) : (s.setPair n x).encSince = s.encSince := rfl
@[simp] theorem State.setPair_timers (n : Nat) (x : PwmPair) : (s.setPair n x).timers = s.timers := rfl
@[simp] theorem State.setPair_ptp (n : Nat) (x : PwmPair) : (s.setPair n x).ptp = s.ptp := rfl
@[simp] theorem State.setPair_adcs (n : Nat) (x : PwmPair) : (s.setPair n x).adcs = s.adcs := rfl
@[simp] theorem State.setPair_channels (n : Nat) (x : PwmPair) : (s.setPair n x).channels = s.channels := rfl
@[simp] theorem State.setPair_comparators (n : Nat) (x : PwmPair) : (s.setPair n x).comparators = s.comparators := rfl
@[simp] theorem State.setPair_demods (n : Nat) (x : PwmPair) : (s.setPair n x).demods = s.demods := rfl
@[simp] theorem State.setPair_sectors (n : Nat) (x : PwmPair) : (s.setPair n x).sectors = s.sectors := rfl
@[simp] theorem State.setPair_groups (n : Nat) (x : PwmPair) : (s.setPair n x).groups = s.groups := rfl
@[simp] theorem State.setPair_tripPins (n : Nat) (x : PwmPair) : (s.setPair n x).tripPins = s.tripPins := rfl
@[simp] theorem State.setPair_zonePins (n : Nat) (x : PwmPair) : (s.setPair n x).zonePins = s.zonePins := rfl
@[simp] theorem State.setPair_tripAll (n : Nat) (x : PwmPair) : (s.setPair n x).tripAll = s.tripAll := rfl
@[simp] theorem State.setPair_plate (n : Nat) (x : PwmPair) : (s.setPair n x).plate = s.plate := rfl
@[simp] theorem State.setPair_loops (n : Nat) (x : PwmPair) : (s.setPair n x).loops = s.loops := rfl
@[simp] theorem State.setPair_place (n : Nat) (x : PwmPair) : (s.setPair n x).place = s.place := rfl
@[simp] theorem State.setPair_cores (n : Nat) (x : PwmPair) : (s.setPair n x).cores = s.cores := rfl
@[simp] theorem State.setPair_aic (n : Nat) (x : PwmPair) : (s.setPair n x).aic = s.aic := rfl
@[simp] theorem State.setPair_dma (n : Nat) (x : PwmPair) : (s.setPair n x).dma = s.dma := rfl
@[simp] theorem State.setPair_dmaLast (n : Nat) (x : PwmPair) : (s.setPair n x).dmaLast = s.dmaLast := rfl
@[simp] theorem State.setPair_outbound (n : Nat) (x : PwmPair) : (s.setPair n x).outbound = s.outbound := rfl
@[simp] theorem State.setPair_posted (n : Nat) (x : PwmPair) : (s.setPair n x).posted = s.posted := rfl
@[simp] theorem State.setPair_consoles (n : Nat) (x : PwmPair) : (s.setPair n x).consoles = s.consoles := rfl
@[simp] theorem State.setPair_conJobs (n : Nat) (x : PwmPair) : (s.setPair n x).conJobs = s.conJobs := rfl
@[simp] theorem State.setPair_pipes (n : Nat) (x : PwmPair) : (s.setPair n x).pipes = s.pipes := rfl
@[simp] theorem State.setPair_streams (n : Nat) (x : PwmPair) : (s.setPair n x).streams = s.streams := rfl
@[simp] theorem State.setPair_liveLines (n : Nat) (x : PwmPair) : (s.setPair n x).liveLines = s.liveLines := rfl
@[simp] theorem State.setPair_active (n : Nat) (x : PwmPair) : (s.setPair n x).active = s.active := rfl
@[simp] theorem State.setPair_mover (n : Nat) (x : PwmPair) : (s.setPair n x).mover = s.mover := rfl
@[simp] theorem State.setPair_heads (n : Nat) (x : PwmPair) : (s.setPair n x).heads = s.heads := rfl
@[simp] theorem State.setPair_audio (n : Nat) (x : PwmPair) : (s.setPair n x).audio = s.audio := rfl
@[simp] theorem State.setPair_bankSupply (n : Nat) (x : PwmPair) : (s.setPair n x).bankSupply = s.bankSupply := rfl
@[simp] theorem State.setPair_keepers (n : Nat) (x : PwmPair) : (s.setPair n x).keepers = s.keepers := rfl
@[simp] theorem State.setPair_sec (n : Nat) (x : PwmPair) : (s.setPair n x).sec = s.sec := rfl
@[simp] theorem State.setPair_cvs (n : Nat) (x : PwmPair) : (s.setPair n x).cvs = s.cvs := rfl
@[simp] theorem State.setPair_hosts (n : Nat) (x : PwmPair) : (s.setPair n x).hosts = s.hosts := rfl
@[simp] theorem State.setPair_dict (n : Nat) (x : PwmPair) : (s.setPair n x).dict = s.dict := rfl
@[simp] theorem State.setPair_canNode (n : Nat) (x : PwmPair) : (s.setPair n x).canNode = s.canNode := rfl
@[simp] theorem State.setPair_cans (n : Nat) (x : PwmPair) : (s.setPair n x).cans = s.cans := rfl
@[simp] theorem State.setPair_macs (n : Nat) (x : PwmPair) : (s.setPair n x).macs = s.macs := rfl
@[simp] theorem State.setPair_aborts (n : Nat) (x : PwmPair) : (s.setPair n x).aborts = s.aborts := rfl
@[simp] theorem State.setPair_iotlb (n : Nat) (x : PwmPair) : (s.setPair n x).iotlb = s.iotlb := rfl
@[simp] theorem State.setPair_sbOld (n : Nat) (x : PwmPair) : (s.setPair n x).sbOld = s.sbOld := rfl
@[simp] theorem State.setPair_trainTries (n : Nat) (x : PwmPair) : (s.setPair n x).trainTries = s.trainTries := rfl
@[simp] theorem State.setPair_refreshFast (n : Nat) (x : PwmPair) : (s.setPair n x).refreshFast = s.refreshFast := rfl
@[simp] theorem State.setPair_dramTemp (n : Nat) (x : PwmPair) : (s.setPair n x).dramTemp = s.dramTemp := rfl
@[simp] theorem State.setPair_macQueues (n : Nat) (x : PwmPair) : (s.setPair n x).macQueues = s.macQueues := rfl
@[simp] theorem State.setPair_busyPins (n : Nat) (x : PwmPair) : (s.setPair n x).busyPins = s.busyPins := rfl
@[simp] theorem State.setPair_tsClaimed (n : Nat) (x : PwmPair) : (s.setPair n x).tsClaimed = s.tsClaimed := rfl
@[simp] theorem State.setPair_mem (n : Nat) (x : PwmPair) : (s.setPair n x).mem = s.mem := rfl
@[simp] theorem State.setPair_nor (n : Nat) (x : PwmPair) : (s.setPair n x).nor = s.nor := rfl
@[simp] theorem State.setPair_poison (n : Nat) (x : PwmPair) : (s.setPair n x).poison = s.poison := rfl
@[simp] theorem State.setPair_checks (n : Nat) (x : PwmPair) : (s.setPair n x).checks = s.checks := rfl
@[simp] theorem State.reg_setPair (n : Nat) (x : PwmPair) (a0 : Nat) : (s.setPair n x).reg a0 = s.reg a0 := rfl
@[simp] theorem State.fld_setPair (n : Nat) (x : PwmPair) (a0 : Nat) (h0 : Nat) (l0 : Nat) : (s.setPair n x).fld a0 h0 l0 = s.fld a0 h0 l0 := rfl
@[simp] theorem State.bit_setPair (n : Nat) (x : PwmPair) (a0 : Nat) (i0 : Nat) : (s.setPair n x).bit a0 i0 = s.bit a0 i0 := rfl
@[simp] theorem State.byte_setPair (n : Nat) (x : PwmPair) (a0 : Nat) : (s.setPair n x).byte a0 = s.byte a0 := rfl
@[simp] theorem State.norByte_setPair (n : Nat) (x : PwmPair) (a0 : Nat) : (s.setPair n x).norByte a0 = s.norByte a0 := rfl
@[simp] theorem State.adc_setPair (n : Nat) (x : PwmPair) (j : Nat) : (s.setPair n x).adc j = s.adc j := rfl
@[simp] theorem State.chan_setPair (n : Nat) (x : PwmPair) (j : Nat) : (s.setPair n x).chan j = s.chan j := rfl
@[simp] theorem State.demod_setPair (n : Nat) (x : PwmPair) (j : Nat) : (s.setPair n x).demod j = s.demod j := rfl
@[simp] theorem State.sector_setPair (n : Nat) (x : PwmPair) (j : Nat) : (s.setPair n x).sector j = s.sector j := rfl
@[simp] theorem State.aicCore_setPair (n : Nat) (x : PwmPair) (j : Nat) : (s.setPair n x).aicCore j = s.aicCore j := rfl
@[simp] theorem State.con_setPair (n : Nat) (x : PwmPair) (j : Nat) : (s.setPair n x).con j = s.con j := rfl
@[simp] theorem State.stream_setPair (n : Nat) (x : PwmPair) (j : Nat) : (s.setPair n x).stream j = s.stream j := rfl
@[simp] theorem State.core_setPair (n : Nat) (x : PwmPair) (j : Nat) : (s.setPair n x).core j = s.core j := rfl
@[simp] theorem State.greg_setPair (n : Nat) (x : PwmPair) (j : Nat) (r : Nat) : (s.setPair n x).greg j r = s.greg j r := rfl
@[simp] theorem State.cv_setPair (n : Nat) (x : PwmPair) (j : Nat) : (s.setPair n x).cv j = s.cv j := rfl
@[simp] theorem State.head_setPair (n : Nat) (x : PwmPair) (j : Nat) : (s.setPair n x).head j = s.head j := rfl
@[simp] theorem State.host_setPair (n : Nat) (x : PwmPair) (j : Nat) : (s.setPair n x).host j = s.host j := rfl
@[simp] theorem State.abortEngine_setPair (n : Nat) (x : PwmPair) (j : Nat) : (s.setPair n x).abortEngine j = s.abortEngine j := rfl
@[simp] theorem State.ctx_setPair (n : Nat) (x : PwmPair) (j : Nat) : (s.setPair n x).ctx j = s.ctx j := rfl
@[simp] theorem State.dmaCh_setPair (n : Nat) (x : PwmPair) (j : Nat) : (s.setPair n x).dmaCh j = s.dmaCh j := rfl
@[simp] theorem State.entry_setPair (n : Nat) (x : PwmPair) (j : Nat) : (s.setPair n x).entry j = s.entry j := rfl
@[simp] theorem State.spn_setPair (n : Nat) (x : PwmPair) (j : Nat) : (s.setPair n x).spn j = s.spn j := rfl
@[simp] theorem State.timer_setPair (n : Nat) (x : PwmPair) (j : Nat) : (s.setPair n x).timer j = s.timer j := rfl
@[simp] theorem State.group_setPair (n : Nat) (x : PwmPair) (j : Nat) : (s.setPair n x).group j = s.group j := rfl
@[simp] theorem State.comparator_setPair (n : Nat) (x : PwmPair) (j : Nat) : (s.setPair n x).comparator j = s.comparator j := rfl
@[simp] theorem State.fclkOn_setPair (n : Nat) (x : PwmPair) : (s.setPair n x).fclkOn = s.fclkOn := rfl
@[simp] theorem State.mediaOn_setPair (n : Nat) (x : PwmPair) : (s.setPair n x).mediaOn = s.mediaOn := rfl
@[simp] theorem State.sectorOn_setPair (n : Nat) (x : PwmPair) (j : Nat) : (s.setPair n x).sectorOn j = s.sectorOn j := rfl
@[simp] theorem State.coreOn_setPair (n : Nat) (x : PwmPair) (j : Nat) : (s.setPair n x).coreOn j = s.coreOn j := rfl
@[simp] theorem State.firmwareOn_setPair (n : Nat) (x : PwmPair) : (s.setPair n x).firmwareOn = s.firmwareOn := rfl
@[simp] theorem State.composerOn_setPair (n : Nat) (x : PwmPair) : (s.setPair n x).composerOn = s.composerOn := rfl

/-! ### setGroup -/

@[simp] theorem State.setGroup_pending (n : Nat) (x : PwmGroup) : (s.setGroup n x).pending = s.pending := rfl
@[simp] theorem State.setGroup_freeCtr (n : Nat) (x : PwmGroup) : (s.setGroup n x).freeCtr = s.freeCtr := rfl
@[simp] theorem State.setGroup_cyc (n : Nat) (x : PwmGroup) : (s.setGroup n x).cyc = s.cyc := rfl
@[simp] theorem State.setGroup_pulses (n : Nat) (x : PwmGroup) : (s.setGroup n x).pulses = s.pulses := rfl
@[simp] theorem State.setGroup_now (n : Nat) (x : PwmGroup) : (s.setGroup n x).now = s.now := rfl
@[simp] theorem State.setGroup_devTimer (n : Nat) (x : PwmGroup) : (s.setGroup n x).devTimer = s.devTimer := rfl
@[simp] theorem State.setGroup_regs (n : Nat) (x : PwmGroup) : (s.setGroup n x).regs = s.regs := rfl
@[simp] theorem State.setGroup_resp (n : Nat) (x : PwmGroup) : (s.setGroup n x).resp = s.resp := rfl
@[simp] theorem State.setGroup_shadow (n : Nat) (x : PwmGroup) : (s.setGroup n x).shadow = s.shadow := rfl
@[simp] theorem State.setGroup_sys (n : Nat) (x : PwmGroup) : (s.setGroup n x).sys = s.sys := rfl
@[simp] theorem State.setGroup_log (n : Nat) (x : PwmGroup) : (s.setGroup n x).log = s.log := rfl
@[simp] theorem State.setGroup_spindles (n : Nat) (x : PwmGroup) : (s.setGroup n x).spindles = s.spindles := rfl
@[simp] theorem State.setGroup_encoders (n : Nat) (x : PwmGroup) : (s.setGroup n x).encoders = s.encoders := rfl
@[simp] theorem State.setGroup_encSince (n : Nat) (x : PwmGroup) : (s.setGroup n x).encSince = s.encSince := rfl
@[simp] theorem State.setGroup_timers (n : Nat) (x : PwmGroup) : (s.setGroup n x).timers = s.timers := rfl
@[simp] theorem State.setGroup_ptp (n : Nat) (x : PwmGroup) : (s.setGroup n x).ptp = s.ptp := rfl
@[simp] theorem State.setGroup_adcs (n : Nat) (x : PwmGroup) : (s.setGroup n x).adcs = s.adcs := rfl
@[simp] theorem State.setGroup_channels (n : Nat) (x : PwmGroup) : (s.setGroup n x).channels = s.channels := rfl
@[simp] theorem State.setGroup_comparators (n : Nat) (x : PwmGroup) : (s.setGroup n x).comparators = s.comparators := rfl
@[simp] theorem State.setGroup_demods (n : Nat) (x : PwmGroup) : (s.setGroup n x).demods = s.demods := rfl
@[simp] theorem State.setGroup_sectors (n : Nat) (x : PwmGroup) : (s.setGroup n x).sectors = s.sectors := rfl
@[simp] theorem State.setGroup_pairs (n : Nat) (x : PwmGroup) : (s.setGroup n x).pairs = s.pairs := rfl
@[simp] theorem State.setGroup_tripPins (n : Nat) (x : PwmGroup) : (s.setGroup n x).tripPins = s.tripPins := rfl
@[simp] theorem State.setGroup_zonePins (n : Nat) (x : PwmGroup) : (s.setGroup n x).zonePins = s.zonePins := rfl
@[simp] theorem State.setGroup_tripAll (n : Nat) (x : PwmGroup) : (s.setGroup n x).tripAll = s.tripAll := rfl
@[simp] theorem State.setGroup_plate (n : Nat) (x : PwmGroup) : (s.setGroup n x).plate = s.plate := rfl
@[simp] theorem State.setGroup_loops (n : Nat) (x : PwmGroup) : (s.setGroup n x).loops = s.loops := rfl
@[simp] theorem State.setGroup_place (n : Nat) (x : PwmGroup) : (s.setGroup n x).place = s.place := rfl
@[simp] theorem State.setGroup_cores (n : Nat) (x : PwmGroup) : (s.setGroup n x).cores = s.cores := rfl
@[simp] theorem State.setGroup_aic (n : Nat) (x : PwmGroup) : (s.setGroup n x).aic = s.aic := rfl
@[simp] theorem State.setGroup_dma (n : Nat) (x : PwmGroup) : (s.setGroup n x).dma = s.dma := rfl
@[simp] theorem State.setGroup_dmaLast (n : Nat) (x : PwmGroup) : (s.setGroup n x).dmaLast = s.dmaLast := rfl
@[simp] theorem State.setGroup_outbound (n : Nat) (x : PwmGroup) : (s.setGroup n x).outbound = s.outbound := rfl
@[simp] theorem State.setGroup_posted (n : Nat) (x : PwmGroup) : (s.setGroup n x).posted = s.posted := rfl
@[simp] theorem State.setGroup_consoles (n : Nat) (x : PwmGroup) : (s.setGroup n x).consoles = s.consoles := rfl
@[simp] theorem State.setGroup_conJobs (n : Nat) (x : PwmGroup) : (s.setGroup n x).conJobs = s.conJobs := rfl
@[simp] theorem State.setGroup_pipes (n : Nat) (x : PwmGroup) : (s.setGroup n x).pipes = s.pipes := rfl
@[simp] theorem State.setGroup_streams (n : Nat) (x : PwmGroup) : (s.setGroup n x).streams = s.streams := rfl
@[simp] theorem State.setGroup_liveLines (n : Nat) (x : PwmGroup) : (s.setGroup n x).liveLines = s.liveLines := rfl
@[simp] theorem State.setGroup_active (n : Nat) (x : PwmGroup) : (s.setGroup n x).active = s.active := rfl
@[simp] theorem State.setGroup_mover (n : Nat) (x : PwmGroup) : (s.setGroup n x).mover = s.mover := rfl
@[simp] theorem State.setGroup_heads (n : Nat) (x : PwmGroup) : (s.setGroup n x).heads = s.heads := rfl
@[simp] theorem State.setGroup_audio (n : Nat) (x : PwmGroup) : (s.setGroup n x).audio = s.audio := rfl
@[simp] theorem State.setGroup_bankSupply (n : Nat) (x : PwmGroup) : (s.setGroup n x).bankSupply = s.bankSupply := rfl
@[simp] theorem State.setGroup_keepers (n : Nat) (x : PwmGroup) : (s.setGroup n x).keepers = s.keepers := rfl
@[simp] theorem State.setGroup_sec (n : Nat) (x : PwmGroup) : (s.setGroup n x).sec = s.sec := rfl
@[simp] theorem State.setGroup_cvs (n : Nat) (x : PwmGroup) : (s.setGroup n x).cvs = s.cvs := rfl
@[simp] theorem State.setGroup_hosts (n : Nat) (x : PwmGroup) : (s.setGroup n x).hosts = s.hosts := rfl
@[simp] theorem State.setGroup_dict (n : Nat) (x : PwmGroup) : (s.setGroup n x).dict = s.dict := rfl
@[simp] theorem State.setGroup_canNode (n : Nat) (x : PwmGroup) : (s.setGroup n x).canNode = s.canNode := rfl
@[simp] theorem State.setGroup_cans (n : Nat) (x : PwmGroup) : (s.setGroup n x).cans = s.cans := rfl
@[simp] theorem State.setGroup_macs (n : Nat) (x : PwmGroup) : (s.setGroup n x).macs = s.macs := rfl
@[simp] theorem State.setGroup_aborts (n : Nat) (x : PwmGroup) : (s.setGroup n x).aborts = s.aborts := rfl
@[simp] theorem State.setGroup_iotlb (n : Nat) (x : PwmGroup) : (s.setGroup n x).iotlb = s.iotlb := rfl
@[simp] theorem State.setGroup_sbOld (n : Nat) (x : PwmGroup) : (s.setGroup n x).sbOld = s.sbOld := rfl
@[simp] theorem State.setGroup_trainTries (n : Nat) (x : PwmGroup) : (s.setGroup n x).trainTries = s.trainTries := rfl
@[simp] theorem State.setGroup_refreshFast (n : Nat) (x : PwmGroup) : (s.setGroup n x).refreshFast = s.refreshFast := rfl
@[simp] theorem State.setGroup_dramTemp (n : Nat) (x : PwmGroup) : (s.setGroup n x).dramTemp = s.dramTemp := rfl
@[simp] theorem State.setGroup_macQueues (n : Nat) (x : PwmGroup) : (s.setGroup n x).macQueues = s.macQueues := rfl
@[simp] theorem State.setGroup_busyPins (n : Nat) (x : PwmGroup) : (s.setGroup n x).busyPins = s.busyPins := rfl
@[simp] theorem State.setGroup_tsClaimed (n : Nat) (x : PwmGroup) : (s.setGroup n x).tsClaimed = s.tsClaimed := rfl
@[simp] theorem State.setGroup_mem (n : Nat) (x : PwmGroup) : (s.setGroup n x).mem = s.mem := rfl
@[simp] theorem State.setGroup_nor (n : Nat) (x : PwmGroup) : (s.setGroup n x).nor = s.nor := rfl
@[simp] theorem State.setGroup_poison (n : Nat) (x : PwmGroup) : (s.setGroup n x).poison = s.poison := rfl
@[simp] theorem State.setGroup_checks (n : Nat) (x : PwmGroup) : (s.setGroup n x).checks = s.checks := rfl
@[simp] theorem State.reg_setGroup (n : Nat) (x : PwmGroup) (a0 : Nat) : (s.setGroup n x).reg a0 = s.reg a0 := rfl
@[simp] theorem State.fld_setGroup (n : Nat) (x : PwmGroup) (a0 : Nat) (h0 : Nat) (l0 : Nat) : (s.setGroup n x).fld a0 h0 l0 = s.fld a0 h0 l0 := rfl
@[simp] theorem State.bit_setGroup (n : Nat) (x : PwmGroup) (a0 : Nat) (i0 : Nat) : (s.setGroup n x).bit a0 i0 = s.bit a0 i0 := rfl
@[simp] theorem State.byte_setGroup (n : Nat) (x : PwmGroup) (a0 : Nat) : (s.setGroup n x).byte a0 = s.byte a0 := rfl
@[simp] theorem State.norByte_setGroup (n : Nat) (x : PwmGroup) (a0 : Nat) : (s.setGroup n x).norByte a0 = s.norByte a0 := rfl
@[simp] theorem State.adc_setGroup (n : Nat) (x : PwmGroup) (j : Nat) : (s.setGroup n x).adc j = s.adc j := rfl
@[simp] theorem State.chan_setGroup (n : Nat) (x : PwmGroup) (j : Nat) : (s.setGroup n x).chan j = s.chan j := rfl
@[simp] theorem State.demod_setGroup (n : Nat) (x : PwmGroup) (j : Nat) : (s.setGroup n x).demod j = s.demod j := rfl
@[simp] theorem State.sector_setGroup (n : Nat) (x : PwmGroup) (j : Nat) : (s.setGroup n x).sector j = s.sector j := rfl
@[simp] theorem State.aicCore_setGroup (n : Nat) (x : PwmGroup) (j : Nat) : (s.setGroup n x).aicCore j = s.aicCore j := rfl
@[simp] theorem State.con_setGroup (n : Nat) (x : PwmGroup) (j : Nat) : (s.setGroup n x).con j = s.con j := rfl
@[simp] theorem State.stream_setGroup (n : Nat) (x : PwmGroup) (j : Nat) : (s.setGroup n x).stream j = s.stream j := rfl
@[simp] theorem State.core_setGroup (n : Nat) (x : PwmGroup) (j : Nat) : (s.setGroup n x).core j = s.core j := rfl
@[simp] theorem State.greg_setGroup (n : Nat) (x : PwmGroup) (j : Nat) (r : Nat) : (s.setGroup n x).greg j r = s.greg j r := rfl
@[simp] theorem State.cv_setGroup (n : Nat) (x : PwmGroup) (j : Nat) : (s.setGroup n x).cv j = s.cv j := rfl
@[simp] theorem State.head_setGroup (n : Nat) (x : PwmGroup) (j : Nat) : (s.setGroup n x).head j = s.head j := rfl
@[simp] theorem State.host_setGroup (n : Nat) (x : PwmGroup) (j : Nat) : (s.setGroup n x).host j = s.host j := rfl
@[simp] theorem State.abortEngine_setGroup (n : Nat) (x : PwmGroup) (j : Nat) : (s.setGroup n x).abortEngine j = s.abortEngine j := rfl
@[simp] theorem State.ctx_setGroup (n : Nat) (x : PwmGroup) (j : Nat) : (s.setGroup n x).ctx j = s.ctx j := rfl
@[simp] theorem State.dmaCh_setGroup (n : Nat) (x : PwmGroup) (j : Nat) : (s.setGroup n x).dmaCh j = s.dmaCh j := rfl
@[simp] theorem State.entry_setGroup (n : Nat) (x : PwmGroup) (j : Nat) : (s.setGroup n x).entry j = s.entry j := rfl
@[simp] theorem State.spn_setGroup (n : Nat) (x : PwmGroup) (j : Nat) : (s.setGroup n x).spn j = s.spn j := rfl
@[simp] theorem State.timer_setGroup (n : Nat) (x : PwmGroup) (j : Nat) : (s.setGroup n x).timer j = s.timer j := rfl
@[simp] theorem State.pair_setGroup (n : Nat) (x : PwmGroup) (j : Nat) : (s.setGroup n x).pair j = s.pair j := rfl
@[simp] theorem State.comparator_setGroup (n : Nat) (x : PwmGroup) (j : Nat) : (s.setGroup n x).comparator j = s.comparator j := rfl
@[simp] theorem State.fclkOn_setGroup (n : Nat) (x : PwmGroup) : (s.setGroup n x).fclkOn = s.fclkOn := rfl
@[simp] theorem State.mediaOn_setGroup (n : Nat) (x : PwmGroup) : (s.setGroup n x).mediaOn = s.mediaOn := rfl
@[simp] theorem State.sectorOn_setGroup (n : Nat) (x : PwmGroup) (j : Nat) : (s.setGroup n x).sectorOn j = s.sectorOn j := rfl
@[simp] theorem State.coreOn_setGroup (n : Nat) (x : PwmGroup) (j : Nat) : (s.setGroup n x).coreOn j = s.coreOn j := rfl
@[simp] theorem State.firmwareOn_setGroup (n : Nat) (x : PwmGroup) : (s.setGroup n x).firmwareOn = s.firmwareOn := rfl
@[simp] theorem State.composerOn_setGroup (n : Nat) (x : PwmGroup) : (s.setGroup n x).composerOn = s.composerOn := rfl

/-! ### setComparator -/

@[simp] theorem State.setComparator_pending (n : Nat) (x : Comparator) : (s.setComparator n x).pending = s.pending := rfl
@[simp] theorem State.setComparator_freeCtr (n : Nat) (x : Comparator) : (s.setComparator n x).freeCtr = s.freeCtr := rfl
@[simp] theorem State.setComparator_cyc (n : Nat) (x : Comparator) : (s.setComparator n x).cyc = s.cyc := rfl
@[simp] theorem State.setComparator_pulses (n : Nat) (x : Comparator) : (s.setComparator n x).pulses = s.pulses := rfl
@[simp] theorem State.setComparator_now (n : Nat) (x : Comparator) : (s.setComparator n x).now = s.now := rfl
@[simp] theorem State.setComparator_devTimer (n : Nat) (x : Comparator) : (s.setComparator n x).devTimer = s.devTimer := rfl
@[simp] theorem State.setComparator_regs (n : Nat) (x : Comparator) : (s.setComparator n x).regs = s.regs := rfl
@[simp] theorem State.setComparator_resp (n : Nat) (x : Comparator) : (s.setComparator n x).resp = s.resp := rfl
@[simp] theorem State.setComparator_shadow (n : Nat) (x : Comparator) : (s.setComparator n x).shadow = s.shadow := rfl
@[simp] theorem State.setComparator_sys (n : Nat) (x : Comparator) : (s.setComparator n x).sys = s.sys := rfl
@[simp] theorem State.setComparator_log (n : Nat) (x : Comparator) : (s.setComparator n x).log = s.log := rfl
@[simp] theorem State.setComparator_spindles (n : Nat) (x : Comparator) : (s.setComparator n x).spindles = s.spindles := rfl
@[simp] theorem State.setComparator_encoders (n : Nat) (x : Comparator) : (s.setComparator n x).encoders = s.encoders := rfl
@[simp] theorem State.setComparator_encSince (n : Nat) (x : Comparator) : (s.setComparator n x).encSince = s.encSince := rfl
@[simp] theorem State.setComparator_timers (n : Nat) (x : Comparator) : (s.setComparator n x).timers = s.timers := rfl
@[simp] theorem State.setComparator_ptp (n : Nat) (x : Comparator) : (s.setComparator n x).ptp = s.ptp := rfl
@[simp] theorem State.setComparator_adcs (n : Nat) (x : Comparator) : (s.setComparator n x).adcs = s.adcs := rfl
@[simp] theorem State.setComparator_channels (n : Nat) (x : Comparator) : (s.setComparator n x).channels = s.channels := rfl
@[simp] theorem State.setComparator_demods (n : Nat) (x : Comparator) : (s.setComparator n x).demods = s.demods := rfl
@[simp] theorem State.setComparator_sectors (n : Nat) (x : Comparator) : (s.setComparator n x).sectors = s.sectors := rfl
@[simp] theorem State.setComparator_pairs (n : Nat) (x : Comparator) : (s.setComparator n x).pairs = s.pairs := rfl
@[simp] theorem State.setComparator_groups (n : Nat) (x : Comparator) : (s.setComparator n x).groups = s.groups := rfl
@[simp] theorem State.setComparator_tripPins (n : Nat) (x : Comparator) : (s.setComparator n x).tripPins = s.tripPins := rfl
@[simp] theorem State.setComparator_zonePins (n : Nat) (x : Comparator) : (s.setComparator n x).zonePins = s.zonePins := rfl
@[simp] theorem State.setComparator_tripAll (n : Nat) (x : Comparator) : (s.setComparator n x).tripAll = s.tripAll := rfl
@[simp] theorem State.setComparator_plate (n : Nat) (x : Comparator) : (s.setComparator n x).plate = s.plate := rfl
@[simp] theorem State.setComparator_loops (n : Nat) (x : Comparator) : (s.setComparator n x).loops = s.loops := rfl
@[simp] theorem State.setComparator_place (n : Nat) (x : Comparator) : (s.setComparator n x).place = s.place := rfl
@[simp] theorem State.setComparator_cores (n : Nat) (x : Comparator) : (s.setComparator n x).cores = s.cores := rfl
@[simp] theorem State.setComparator_aic (n : Nat) (x : Comparator) : (s.setComparator n x).aic = s.aic := rfl
@[simp] theorem State.setComparator_dma (n : Nat) (x : Comparator) : (s.setComparator n x).dma = s.dma := rfl
@[simp] theorem State.setComparator_dmaLast (n : Nat) (x : Comparator) : (s.setComparator n x).dmaLast = s.dmaLast := rfl
@[simp] theorem State.setComparator_outbound (n : Nat) (x : Comparator) : (s.setComparator n x).outbound = s.outbound := rfl
@[simp] theorem State.setComparator_posted (n : Nat) (x : Comparator) : (s.setComparator n x).posted = s.posted := rfl
@[simp] theorem State.setComparator_consoles (n : Nat) (x : Comparator) : (s.setComparator n x).consoles = s.consoles := rfl
@[simp] theorem State.setComparator_conJobs (n : Nat) (x : Comparator) : (s.setComparator n x).conJobs = s.conJobs := rfl
@[simp] theorem State.setComparator_pipes (n : Nat) (x : Comparator) : (s.setComparator n x).pipes = s.pipes := rfl
@[simp] theorem State.setComparator_streams (n : Nat) (x : Comparator) : (s.setComparator n x).streams = s.streams := rfl
@[simp] theorem State.setComparator_liveLines (n : Nat) (x : Comparator) : (s.setComparator n x).liveLines = s.liveLines := rfl
@[simp] theorem State.setComparator_active (n : Nat) (x : Comparator) : (s.setComparator n x).active = s.active := rfl
@[simp] theorem State.setComparator_mover (n : Nat) (x : Comparator) : (s.setComparator n x).mover = s.mover := rfl
@[simp] theorem State.setComparator_heads (n : Nat) (x : Comparator) : (s.setComparator n x).heads = s.heads := rfl
@[simp] theorem State.setComparator_audio (n : Nat) (x : Comparator) : (s.setComparator n x).audio = s.audio := rfl
@[simp] theorem State.setComparator_bankSupply (n : Nat) (x : Comparator) : (s.setComparator n x).bankSupply = s.bankSupply := rfl
@[simp] theorem State.setComparator_keepers (n : Nat) (x : Comparator) : (s.setComparator n x).keepers = s.keepers := rfl
@[simp] theorem State.setComparator_sec (n : Nat) (x : Comparator) : (s.setComparator n x).sec = s.sec := rfl
@[simp] theorem State.setComparator_cvs (n : Nat) (x : Comparator) : (s.setComparator n x).cvs = s.cvs := rfl
@[simp] theorem State.setComparator_hosts (n : Nat) (x : Comparator) : (s.setComparator n x).hosts = s.hosts := rfl
@[simp] theorem State.setComparator_dict (n : Nat) (x : Comparator) : (s.setComparator n x).dict = s.dict := rfl
@[simp] theorem State.setComparator_canNode (n : Nat) (x : Comparator) : (s.setComparator n x).canNode = s.canNode := rfl
@[simp] theorem State.setComparator_cans (n : Nat) (x : Comparator) : (s.setComparator n x).cans = s.cans := rfl
@[simp] theorem State.setComparator_macs (n : Nat) (x : Comparator) : (s.setComparator n x).macs = s.macs := rfl
@[simp] theorem State.setComparator_aborts (n : Nat) (x : Comparator) : (s.setComparator n x).aborts = s.aborts := rfl
@[simp] theorem State.setComparator_iotlb (n : Nat) (x : Comparator) : (s.setComparator n x).iotlb = s.iotlb := rfl
@[simp] theorem State.setComparator_sbOld (n : Nat) (x : Comparator) : (s.setComparator n x).sbOld = s.sbOld := rfl
@[simp] theorem State.setComparator_trainTries (n : Nat) (x : Comparator) : (s.setComparator n x).trainTries = s.trainTries := rfl
@[simp] theorem State.setComparator_refreshFast (n : Nat) (x : Comparator) : (s.setComparator n x).refreshFast = s.refreshFast := rfl
@[simp] theorem State.setComparator_dramTemp (n : Nat) (x : Comparator) : (s.setComparator n x).dramTemp = s.dramTemp := rfl
@[simp] theorem State.setComparator_macQueues (n : Nat) (x : Comparator) : (s.setComparator n x).macQueues = s.macQueues := rfl
@[simp] theorem State.setComparator_busyPins (n : Nat) (x : Comparator) : (s.setComparator n x).busyPins = s.busyPins := rfl
@[simp] theorem State.setComparator_tsClaimed (n : Nat) (x : Comparator) : (s.setComparator n x).tsClaimed = s.tsClaimed := rfl
@[simp] theorem State.setComparator_mem (n : Nat) (x : Comparator) : (s.setComparator n x).mem = s.mem := rfl
@[simp] theorem State.setComparator_nor (n : Nat) (x : Comparator) : (s.setComparator n x).nor = s.nor := rfl
@[simp] theorem State.setComparator_poison (n : Nat) (x : Comparator) : (s.setComparator n x).poison = s.poison := rfl
@[simp] theorem State.setComparator_checks (n : Nat) (x : Comparator) : (s.setComparator n x).checks = s.checks := rfl
@[simp] theorem State.reg_setComparator (n : Nat) (x : Comparator) (a0 : Nat) : (s.setComparator n x).reg a0 = s.reg a0 := rfl
@[simp] theorem State.fld_setComparator (n : Nat) (x : Comparator) (a0 : Nat) (h0 : Nat) (l0 : Nat) : (s.setComparator n x).fld a0 h0 l0 = s.fld a0 h0 l0 := rfl
@[simp] theorem State.bit_setComparator (n : Nat) (x : Comparator) (a0 : Nat) (i0 : Nat) : (s.setComparator n x).bit a0 i0 = s.bit a0 i0 := rfl
@[simp] theorem State.byte_setComparator (n : Nat) (x : Comparator) (a0 : Nat) : (s.setComparator n x).byte a0 = s.byte a0 := rfl
@[simp] theorem State.norByte_setComparator (n : Nat) (x : Comparator) (a0 : Nat) : (s.setComparator n x).norByte a0 = s.norByte a0 := rfl
@[simp] theorem State.adc_setComparator (n : Nat) (x : Comparator) (j : Nat) : (s.setComparator n x).adc j = s.adc j := rfl
@[simp] theorem State.chan_setComparator (n : Nat) (x : Comparator) (j : Nat) : (s.setComparator n x).chan j = s.chan j := rfl
@[simp] theorem State.demod_setComparator (n : Nat) (x : Comparator) (j : Nat) : (s.setComparator n x).demod j = s.demod j := rfl
@[simp] theorem State.sector_setComparator (n : Nat) (x : Comparator) (j : Nat) : (s.setComparator n x).sector j = s.sector j := rfl
@[simp] theorem State.aicCore_setComparator (n : Nat) (x : Comparator) (j : Nat) : (s.setComparator n x).aicCore j = s.aicCore j := rfl
@[simp] theorem State.con_setComparator (n : Nat) (x : Comparator) (j : Nat) : (s.setComparator n x).con j = s.con j := rfl
@[simp] theorem State.stream_setComparator (n : Nat) (x : Comparator) (j : Nat) : (s.setComparator n x).stream j = s.stream j := rfl
@[simp] theorem State.core_setComparator (n : Nat) (x : Comparator) (j : Nat) : (s.setComparator n x).core j = s.core j := rfl
@[simp] theorem State.greg_setComparator (n : Nat) (x : Comparator) (j : Nat) (r : Nat) : (s.setComparator n x).greg j r = s.greg j r := rfl
@[simp] theorem State.cv_setComparator (n : Nat) (x : Comparator) (j : Nat) : (s.setComparator n x).cv j = s.cv j := rfl
@[simp] theorem State.head_setComparator (n : Nat) (x : Comparator) (j : Nat) : (s.setComparator n x).head j = s.head j := rfl
@[simp] theorem State.host_setComparator (n : Nat) (x : Comparator) (j : Nat) : (s.setComparator n x).host j = s.host j := rfl
@[simp] theorem State.abortEngine_setComparator (n : Nat) (x : Comparator) (j : Nat) : (s.setComparator n x).abortEngine j = s.abortEngine j := rfl
@[simp] theorem State.ctx_setComparator (n : Nat) (x : Comparator) (j : Nat) : (s.setComparator n x).ctx j = s.ctx j := rfl
@[simp] theorem State.dmaCh_setComparator (n : Nat) (x : Comparator) (j : Nat) : (s.setComparator n x).dmaCh j = s.dmaCh j := rfl
@[simp] theorem State.entry_setComparator (n : Nat) (x : Comparator) (j : Nat) : (s.setComparator n x).entry j = s.entry j := rfl
@[simp] theorem State.spn_setComparator (n : Nat) (x : Comparator) (j : Nat) : (s.setComparator n x).spn j = s.spn j := rfl
@[simp] theorem State.timer_setComparator (n : Nat) (x : Comparator) (j : Nat) : (s.setComparator n x).timer j = s.timer j := rfl
@[simp] theorem State.pair_setComparator (n : Nat) (x : Comparator) (j : Nat) : (s.setComparator n x).pair j = s.pair j := rfl
@[simp] theorem State.group_setComparator (n : Nat) (x : Comparator) (j : Nat) : (s.setComparator n x).group j = s.group j := rfl
@[simp] theorem State.fclkOn_setComparator (n : Nat) (x : Comparator) : (s.setComparator n x).fclkOn = s.fclkOn := rfl
@[simp] theorem State.mediaOn_setComparator (n : Nat) (x : Comparator) : (s.setComparator n x).mediaOn = s.mediaOn := rfl
@[simp] theorem State.sectorOn_setComparator (n : Nat) (x : Comparator) (j : Nat) : (s.setComparator n x).sectorOn j = s.sectorOn j := rfl
@[simp] theorem State.coreOn_setComparator (n : Nat) (x : Comparator) (j : Nat) : (s.setComparator n x).coreOn j = s.coreOn j := rfl
@[simp] theorem State.firmwareOn_setComparator (n : Nat) (x : Comparator) : (s.setComparator n x).firmwareOn = s.firmwareOn := rfl
@[simp] theorem State.composerOn_setComparator (n : Nat) (x : Comparator) : (s.setComparator n x).composerOn = s.composerOn := rfl

end Sys2Proof.Machine
end

