-- ==== Sys2Proof/Laws/Touches.lean ====
section
/-! SUPPORT. The relation `Touches`: it is reflexive, it composes, and what one update of a field touches. -/

namespace Sys2Proof.Machine

theorem touches_refl (F : List Part) (s : State) : Touches F s s := fun p _ => by cases p <;> rfl

theorem Touches.trans {F : List Part} {s t u : State} (h : Touches F s t) (k : Touches F t u) : Touches F s u := by
  intro p hp
  have a := h p hp
  have b := k p hp
  cases p <;> exact Eq.trans b a

theorem Touches.mono {F G : List Part} {s t : State} (h : Touches G s t) (hs : ∀ p ∈ G, p ∈ F) : Touches F s t :=
  fun p hp => h p fun hq => hp (hs p hq)

/-- A step that touches `G` after steps within `F`. -/
theorem touches_after {F G : List Part} {s t u : State} (h : Touches F s t) (k : Touches G t u)
    (hs : ∀ p ∈ G, p ∈ F) : Touches F s u := h.trans (k.mono hs)

theorem touches_cut {F : List Part} {s t : State} (x : State) (h : Touches F s x) (k : Touches F s x → Touches F s t) :
    Touches F s t := k h
theorem touches_cut_snd {α : Type} {F : List Part} {s t : State} (x : α × State) (h : Touches F s x.2)
    (k : Touches F s x.2 → Touches F s t) : Touches F s t := k h
theorem touches_ite {F : List Part} {s t u : State} {c : Prop} [Decidable c] (h : Touches F s t) (k : Touches F s u) :
    Touches F s (if c then t else u) := by split <;> assumption
theorem touches_dite {F : List Part} {s : State} {c : Prop} [Decidable c] {t : c → State} {u : ¬ c → State}
    (h : ∀ x, Touches F s (t x)) (k : ∀ x, Touches F s (u x)) : Touches F s (if x : c then t x else u x) := by
  split
  · exact h _
  · exact k _
theorem touches_ite_snd {α : Type} {F : List Part} {s : State} {t u : α × State} {c : Prop} [Decidable c]
    (h : Touches F s t.2) (k : Touches F s u.2) : Touches F s (if c then t else u).2 := by split <;> assumption
theorem touches_ite_fst {α : Type} {F : List Part} {s : State} {t u : State × α} {c : Prop} [Decidable c]
    (h : Touches F s t.1) (k : Touches F s u.1) : Touches F s (if c then t else u).1 := by split <;> assumption

theorem touches_cut_fst {α : Type} {F : List Part} {s t : State} (x : State × α) (h : Touches F s x.1)
    (k : Touches F s x.1 → Touches F s t) : Touches F s t := k h
theorem touches_answerWith {F : List Part} {s : State} {q : Requester} {p : Word × State} (h : Part.resp ∈ F)
    (k : Touches F s p.2) : Touches F s (answerWith q p) :=
  k.trans fun x hx => by cases x <;> first | rfl | exact absurd h hx
/-- The same of an answer that may be missing, and of one that may be an error. -/
def TouchesO (F : List Part) (s : State) (o : Option State) : Prop := ∀ t, o = some t → Touches F s t
def TouchesE {ε : Type} (F : List Part) (s : State) (o : Except ε State) : Prop := ∀ t, o = .ok t → Touches F s t

/-- What has become of an instruction holds the state that it leaves. -/
def Res.st : Res → State
  | .next s => s
  | .loaded _ _ s => s
  | .branch _ s => s
  | .goto _ s => s
  | .raise _ s => s
  | .stay s => s
  | .resume _ _ _ s => s
  | .lost s => s
def TouchesR (F : List Part) (s : State) (r : Res) : Prop := Touches F s r.st
theorem touchesR_trans {F : List Part} {s t : State} {r : Res} (h : Touches F s t) (k : TouchesR F t r) :
    TouchesR F s r := Touches.trans h k
theorem touchesR_ite {F : List Part} {s : State} {t u : Res} {c : Prop} [Decidable c] (h : TouchesR F s t)
    (k : TouchesR F s u) : TouchesR F s (if c then t else u) := by split <;> assumption
theorem touchesR_after {F G : List Part} {s t : State} {r : Res} (h : Touches F s t) (k : TouchesR G t r)
    (hs : ∀ p ∈ G, p ∈ F) : TouchesR F s r := touches_after h k hs
theorem touches_cut_of {α : Type} {F : List Part} {s t : State} (x : α) (π : α → State) (h : Touches F s (π x))
    (k : Touches F s (π x) → Touches F s t) : Touches F s t := k h
theorem touches_cut_ofO {α : Type} {F : List Part} {s : State} {o : Option State} (x : α) (π : α → State)
    (h : Touches F s (π x)) (k : Touches F s (π x) → TouchesO F s o) : TouchesO F s o := k h
theorem touches_cut_ofE {α ε : Type} {F : List Part} {s : State} {o : Except ε State} (x : α) (π : α → State)
    (h : Touches F s (π x)) (k : Touches F s (π x) → TouchesE F s o) : TouchesE F s o := k h
theorem touches_cut_ofR {α : Type} {F : List Part} {s : State} {o : Res} (x : α) (π : α → State)
    (h : Touches F s (π x)) (k : Touches F s (π x) → TouchesR F s o) : TouchesR F s o := k h

theorem touchesO_some {F : List Part} {s t : State} (h : Touches F s t) : TouchesO F s (some t) := by
  intro u e; cases e; exact h
theorem touchesO_none {F : List Part} {s : State} : TouchesO F s none := by intro u e; cases e
theorem touchesE_some {ε : Type} {F : List Part} {s t : State} (h : Touches F s t) :
    TouchesE F s (Except.ok t : Except ε State) := by
  intro u e; cases e; exact h
theorem touchesE_none {ε : Type} {F : List Part} {s : State} {x : ε} : TouchesE F s (Except.error x) := by
  intro u e; cases e
theorem touchesO_ite {F : List Part} {s : State} {t u : Option State} {c : Prop} [Decidable c] (h : TouchesO F s t)
    (k : TouchesO F s u) : TouchesO F s (if c then t else u) := by split <;> assumption
theorem touchesE_ite {ε : Type} {F : List Part} {s : State} {t u : Except ε State} {c : Prop} [Decidable c]
    (h : TouchesE F s t) (k : TouchesE F s u) : TouchesE F s (if c then t else u) := by split <;> assumption
theorem touchesO_after {F G : List Part} {s t : State} {o : Option State} (h : Touches F s t) (k : TouchesO G t o)
    (hs : ∀ p ∈ G, p ∈ F) : TouchesO F s o := fun u e => touches_after h (k u e) hs
theorem touchesE_after {ε : Type} {F G : List Part} {s t : State} {o : Except ε State} (h : Touches F s t)
    (k : TouchesE G t o) (hs : ∀ p ∈ G, p ∈ F) : TouchesE F s o := fun u e => touches_after h (k u e) hs
theorem touches_ofO {F G : List Part} {s t u : State} {o : Option State} (h : Touches F s t) (k : TouchesO G t o)
    (e : o = some u) (hs : ∀ p ∈ G, p ∈ F) : Touches F s u := touches_after h (k u e) hs
theorem touches_ofE {ε : Type} {F G : List Part} {s t u : State} {o : Except ε State} (h : Touches F s t)
    (k : TouchesE G t o) (e : o = .ok u) (hs : ∀ p ∈ G, p ∈ F) : Touches F s u := touches_after h (k u e) hs
theorem touches_cutO {F : List Part} {s : State} {o : Option State} (x : State) (h : Touches F s x)
    (k : Touches F s x → TouchesO F s o) : TouchesO F s o := k h
theorem touches_cutE {ε : Type} {F : List Part} {s : State} {o : Except ε State} (x : State) (h : Touches F s x)
    (k : Touches F s x → TouchesE F s o) : TouchesE F s o := k h
theorem touches_cut_sndO {α : Type} {F : List Part} {s : State} {o : Option State} (x : α × State)
    (h : Touches F s x.2) (k : Touches F s x.2 → TouchesO F s o) : TouchesO F s o := k h
theorem touches_cut_sndE {α ε : Type} {F : List Part} {s : State} {o : Except ε State} (x : α × State)
    (h : Touches F s x.2) (k : Touches F s x.2 → TouchesE F s o) : TouchesE F s o := k h
theorem touches_of_eq_snd {α : Type} {F : List Part} {s t : State} {p : α × State} {a : α} (h : p = (a, t))
    (k : Touches F s p.2) : Touches F s t := by subst h; exact k
theorem touches_of_eq_fst {α : Type} {F : List Part} {s t : State} {p : State × α} {a : α} (h : p = (t, a))
    (k : Touches F s p.1) : Touches F s t := by subst h; exact k

theorem touches_foldl {α : Type} {F : List Part} {s : State} {f : State → α → State} {l : List α} {t : State}
    (h : ∀ a u, Touches F s u → Touches F s (f u a)) (k : Touches F s t) : Touches F s (l.foldl f t) := by
  induction l generalizing t with
  | nil => exact k
  | cons a l ih => exact ih (h a t k)
theorem touches_foldl_snd {α β : Type} {F : List Part} {s : State} {f : β × State → α → β × State} {l : List α}
    {t : β × State} (h : ∀ a u, Touches F s u.2 → Touches F s (f u a).2) (k : Touches F s t.2) :
    Touches F s (l.foldl f t).2 := by
  induction l generalizing t with
  | nil => exact k
  | cons a l ih => exact ih (h a t k)
theorem touches_foldr {α : Type} {F : List Part} {s : State} {f : α → State → State} {l : List α} {t : State}
    (h : ∀ a u, Touches F s u → Touches F s (f a u)) (k : Touches F s t) : Touches F s (l.foldr f t) := by
  induction l with
  | nil => exact k
  | cons a l ih => exact h a _ ih
theorem touches_forEach {F : List Part} {s : State} {f : Nat → State → State} {l : List Nat} {t : State}
    (h : ∀ a u, Touches F s u → Touches F s (f a u)) (k : Touches F s t) : Touches F s (forEach l f t) :=
  touches_foldl (fun a u hu => h a u hu) k

theorem touch_aborts (s : State) {v_aborts : Tab AbortEngine} :
    Touches [.aborts] s { s with aborts := v_aborts } := by
  intro p hp; cases p <;> first | rfl | assumption | exact absurd (by decide) hp

theorem touch_active (s : State) {v_active : Tab Word} :
    Touches [.active] s { s with active := v_active } := by
  intro p hp; cases p <;> first | rfl | assumption | exact absurd (by decide) hp

theorem touch_adcs (s : State) {v_adcs : Tab Adc} :
    Touches [.adcs] s { s with adcs := v_adcs } := by
  intro p hp; cases p <;> first | rfl | assumption | exact absurd (by decide) hp

theorem touch_aic (s : State) {v_aic : Tab AicCore} :
    Touches [.aic] s { s with aic := v_aic } := by
  intro p hp; cases p <;> first | rfl | assumption | exact absurd (by decide) hp

theorem touch_audio (s : State) {v_audio : Audio} :
    Touches [.audio] s { s with audio := v_audio } := by
  intro p hp; cases p <;> first | rfl | assumption | exact absurd (by decide) hp

theorem touch_bankSupply (s : State) {v_bankSupply : Word} :
    Touches [.bankSupply] s { s with bankSupply := v_bankSupply } := by
  intro p hp; cases p <;> first | rfl | assumption | exact absurd (by decide) hp

theorem touch_busyPins (s : State) {v_busyPins : BitVec 2} :
    Touches [.busyPins] s { s with busyPins := v_busyPins } := by
  intro p hp; cases p <;> first | rfl | assumption | exact absurd (by decide) hp

theorem touch_canNode (s : State) {v_canNode : CanNode} :
    Touches [.canNode] s { s with canNode := v_canNode } := by
  intro p hp; cases p <;> first | rfl | assumption | exact absurd (by decide) hp

theorem touch_cans (s : State) {v_cans : Tab CanCtl} :
    Touches [.cans] s { s with cans := v_cans } := by
  intro p hp; cases p <;> first | rfl | assumption | exact absurd (by decide) hp

theorem touch_channels (s : State) {v_channels : Tab Channel} :
    Touches [.channels] s { s with channels := v_channels } := by
  intro p hp; cases p <;> first | rfl | assumption | exact absurd (by decide) hp

theorem touch_checks (s : State) {v_checks : List MachineCheck} :
    Touches [.checks] s { s with checks := v_checks } := by
  intro p hp; cases p <;> first | rfl | assumption | exact absurd (by decide) hp

theorem touch_comparators (s : State) {v_comparators : Tab Comparator} :
    Touches [.comparators] s { s with comparators := v_comparators } := by
  intro p hp; cases p <;> first | rfl | assumption | exact absurd (by decide) hp

theorem touch_conJobs (s : State) {v_conJobs : List ConJob} :
    Touches [.conJobs] s { s with conJobs := v_conJobs } := by
  intro p hp; cases p <;> first | rfl | assumption | exact absurd (by decide) hp

theorem touch_conJobs_pipes (s : State) {v_conJobs : List ConJob} {v_pipes : Tab (Option ConJob)} :
    Touches [.conJobs, .pipes] s { s with conJobs := v_conJobs, pipes := v_pipes } := by
  intro p hp; cases p <;> first | rfl | assumption | exact absurd (by decide) hp

theorem touch_consoles (s : State) {v_consoles : Tab Console} :
    Touches [.consoles] s { s with consoles := v_consoles } := by
  intro p hp; cases p <;> first | rfl | assumption | exact absurd (by decide) hp

theorem touch_cores (s : State) {v_cores : Tab Core} :
    Touches [.cores] s { s with cores := v_cores } := by
  intro p hp; cases p <;> first | rfl | assumption | exact absurd (by decide) hp

theorem touch_cores_aic_mem (s : State) {v_cores : Tab Core} {v_aic : Tab AicCore} {v_mem : List Host.Cell} :
    Touches [.cores, .aic, .mem] s { s with cores := v_cores, aic := v_aic, mem := v_mem } := by
  intro p hp; cases p <;> first | rfl | assumption | exact absurd (by decide) hp

theorem touch_cvs (s : State) {v_cvs : Tab CvUnit} :
    Touches [.cvs] s { s with cvs := v_cvs } := by
  intro p hp; cases p <;> first | rfl | assumption | exact absurd (by decide) hp

theorem touch_cyc (s : State) {v_cyc : CycleNotes} :
    Touches [.cyc] s { s with cyc := v_cyc } := by
  intro p hp; cases p <;> first | rfl | assumption | exact absurd (by decide) hp

theorem touch_cyc_now (s : State) {v_cyc : CycleNotes} {v_now : Nat} :
    Touches [.cyc, .now] s { s with cyc := v_cyc, now := v_now } := by
  intro p hp; cases p <;> first | rfl | assumption | exact absurd (by decide) hp

theorem touch_cyc_pulses_devTimer_regs_shadow_sys_log_spindles_timers_ptp_adcs_channels_comparators_demods_sectors_pairs_groups_tripPins_zonePins_plate_loops_place_cores_aic_dma_dmaLast_outbound_posted_consoles_conJobs_pipes_streams_liveLines_active_mover_heads_audio_keepers_sec_cvs_hosts_dict_canNode_cans_macs_aborts_iotlb_sbOld_trainTries_refreshFast_dramTemp_macQueues_busyPins_tsClaimed_mem_poison_checks_unlock (s : State) {v_cyc : CycleNotes} {v_pulses : Tab Nat} {v_devTimer : DWord} {v_regs : Tab Word} {v_shadow : Tab Word} {v_sys : Sys} {v_log : EventLog} {v_spindles : Tab Spindle} {v_timers : Tab GenTimer} {v_ptp : Tab Nat} {v_adcs : Tab Adc} {v_channels : Tab Channel} {v_comparators : Tab Comparator} {v_demods : Tab SigmaDelta} {v_sectors : Tab Sector} {v_pairs : Tab PwmPair} {v_groups : Tab PwmGroup} {v_tripPins : BitVec 12} {v_zonePins : BitVec 96} {v_plate : Plate} {v_loops : Tab LoopCtx} {v_place : Placement} {v_cores : Tab Core} {v_aic : Tab AicCore} {v_dma : Tab DmaCh} {v_dmaLast : Nat} {v_outbound : List Outbound} {v_posted : Tab (Nat × List Byte)} {v_consoles : Tab Console} {v_conJobs : List ConJob} {v_pipes : Tab (Option ConJob)} {v_streams : Tab StreamQ} {v_liveLines : List (Nat × Nat)} {v_active : Tab Word} {v_mover : Mover} {v_heads : Tab Head} {v_audio : Audio} {v_keepers : Tab (Option Bool)} {v_sec : Sec} {v_cvs : Tab CvUnit} {v_hosts : Tab HostPort} {v_dict : Dict} {v_canNode : CanNode} {v_cans : Tab CanCtl} {v_macs : Tab Mac} {v_aborts : Tab AbortEngine} {v_iotlb : List (Nat × TlbEntry)} {v_sbOld : Tab (Option (Nat × Nat))} {v_trainTries : Nat} {v_refreshFast : Bool} {v_dramTemp : Nat} {v_macQueues : Tab (List Word)} {v_busyPins : BitVec 2} {v_tsClaimed : Option Nat} {v_mem : List Host.Cell} {v_poison : List Nat} {v_checks : List MachineCheck} (h0 : v_sys.variant = s.sys.variant) (h1 : v_sec.otp = s.sec.otp) :
    Touches (.cyc :: .pulses :: .devTimer :: .regs :: .shadow :: .sys :: .log :: .spindles :: .timers :: .ptp :: .adcs :: .channels :: .comparators :: .demods :: .sectors :: .pairs :: .groups :: .tripPins :: .zonePins :: .plate :: .loops :: .place :: .cores :: .aic :: .dma :: .dmaLast :: .outbound :: .posted :: .consoles :: .conJobs :: .pipes :: .streams :: .liveLines :: .active :: .mover :: .heads :: .audio :: .keepers :: .sec :: .cvs :: .hosts :: .dict :: .canNode :: .cans :: .macs :: .aborts :: .iotlb :: .sbOld :: .trainTries :: .refreshFast :: .dramTemp :: .macQueues :: .busyPins :: .tsClaimed :: .mem :: .poison :: .checks :: .unlock :: []) s { s with cyc := v_cyc, pulses := v_pulses, devTimer := v_devTimer, regs := v_regs, shadow := v_shadow, sys := v_sys, log := v_log, spindles := v_spindles, timers := v_timers, ptp := v_ptp, adcs := v_adcs, channels := v_channels, comparators := v_comparators, demods := v_demods, sectors := v_sectors, pairs := v_pairs, groups := v_groups, tripPins := v_tripPins, zonePins := v_zonePins, plate := v_plate, loops := v_loops, place := v_place, cores := v_cores, aic := v_aic, dma := v_dma, dmaLast := v_dmaLast, outbound := v_outbound, posted := v_posted, consoles := v_consoles, conJobs := v_conJobs, pipes := v_pipes, streams := v_streams, liveLines := v_liveLines, active := v_active, mover := v_mover, heads := v_heads, audio := v_audio, keepers := v_keepers, sec := v_sec, cvs := v_cvs, hosts := v_hosts, dict := v_dict, canNode := v_canNode, cans := v_cans, macs := v_macs, aborts := v_aborts, iotlb := v_iotlb, sbOld := v_sbOld, trainTries := v_trainTries, refreshFast := v_refreshFast, dramTemp := v_dramTemp, macQueues := v_macQueues, busyPins := v_busyPins, tsClaimed := v_tsClaimed, mem := v_mem, poison := v_poison, checks := v_checks } := by
  intro p hp; cases p <;> first | rfl | assumption | exact absurd (by decide) hp

theorem touch_cyc_pulses_devTimer_regs_shadow_sys_spindles_timers_ptp_adcs_channels_comparators_demods_sectors_pairs_groups_tripPins_zonePins_plate_loops_place_cores_aic_dma_dmaLast_outbound_posted_consoles_conJobs_pipes_streams_liveLines_active_mover_heads_audio_keepers_sec_cvs_hosts_dict_canNode_cans_macs_aborts_iotlb_sbOld_trainTries_refreshFast_dramTemp_macQueues_busyPins_tsClaimed_mem_poison_checks (s : State) {v_cyc : CycleNotes} {v_pulses : Tab Nat} {v_devTimer : DWord} {v_regs : Tab Word} {v_shadow : Tab Word} {v_sys : Sys} {v_spindles : Tab Spindle} {v_timers : Tab GenTimer} {v_ptp : Tab Nat} {v_adcs : Tab Adc} {v_channels : Tab Channel} {v_comparators : Tab Comparator} {v_demods : Tab SigmaDelta} {v_sectors : Tab Sector} {v_pairs : Tab PwmPair} {v_groups : Tab PwmGroup} {v_tripPins : BitVec 12} {v_zonePins : BitVec 96} {v_plate : Plate} {v_loops : Tab LoopCtx} {v_place : Placement} {v_cores : Tab Core} {v_aic : Tab AicCore} {v_dma : Tab DmaCh} {v_dmaLast : Nat} {v_outbound : List Outbound} {v_posted : Tab (Nat × List Byte)} {v_consoles : Tab Console} {v_conJobs : List ConJob} {v_pipes : Tab (Option ConJob)} {v_streams : Tab StreamQ} {v_liveLines : List (Nat × Nat)} {v_active : Tab Word} {v_mover : Mover} {v_heads : Tab Head} {v_audio : Audio} {v_keepers : Tab (Option Bool)} {v_sec : Sec} {v_cvs : Tab CvUnit} {v_hosts : Tab HostPort} {v_dict : Dict} {v_canNode : CanNode} {v_cans : Tab CanCtl} {v_macs : Tab Mac} {v_aborts : Tab AbortEngine} {v_iotlb : List (Nat × TlbEntry)} {v_sbOld : Tab (Option (Nat × Nat))} {v_trainTries : Nat} {v_refreshFast : Bool} {v_dramTemp : Nat} {v_macQueues : Tab (List Word)} {v_busyPins : BitVec 2} {v_tsClaimed : Option Nat} {v_mem : List Host.Cell} {v_poison : List Nat} {v_checks : List MachineCheck} (h0 : v_sys.variant = s.sys.variant) (h1 : v_sec.otp = s.sec.otp) (h2 : v_sec.unlock = s.sec.unlock) :
    Touches (.cyc :: .pulses :: .devTimer :: .regs :: .shadow :: .sys :: .spindles :: .timers :: .ptp :: .adcs :: .channels :: .comparators :: .demods :: .sectors :: .pairs :: .groups :: .tripPins :: .zonePins :: .plate :: .loops :: .place :: .cores :: .aic :: .dma :: .dmaLast :: .outbound :: .posted :: .consoles :: .conJobs :: .pipes :: .streams :: .liveLines :: .active :: .mover :: .heads :: .audio :: .keepers :: .sec :: .cvs :: .hosts :: .dict :: .canNode :: .cans :: .macs :: .aborts :: .iotlb :: .sbOld :: .trainTries :: .refreshFast :: .dramTemp :: .macQueues :: .busyPins :: .tsClaimed :: .mem :: .poison :: .checks :: []) s { s with cyc := v_cyc, pulses := v_pulses, devTimer := v_devTimer, regs := v_regs, shadow := v_shadow, sys := v_sys, spindles := v_spindles, timers := v_timers, ptp := v_ptp, adcs := v_adcs, channels := v_channels, comparators := v_comparators, demods := v_demods, sectors := v_sectors, pairs := v_pairs, groups := v_groups, tripPins := v_tripPins, zonePins := v_zonePins, plate := v_plate, loops := v_loops, place := v_place, cores := v_cores, aic := v_aic, dma := v_dma, dmaLast := v_dmaLast, outbound := v_outbound, posted := v_posted, consoles := v_consoles, conJobs := v_conJobs, pipes := v_pipes, streams := v_streams, liveLines := v_liveLines, active := v_active, mover := v_mover, heads := v_heads, audio := v_audio, keepers := v_keepers, sec := v_sec, cvs := v_cvs, hosts := v_hosts, dict := v_dict, canNode := v_canNode, cans := v_cans, macs := v_macs, aborts := v_aborts, iotlb := v_iotlb, sbOld := v_sbOld, trainTries := v_trainTries, refreshFast := v_refreshFast, dramTemp := v_dramTemp, macQueues := v_macQueues, busyPins := v_busyPins, tsClaimed := v_tsClaimed, mem := v_mem, poison := v_poison, checks := v_checks } := by
  intro p hp; cases p <;> first | rfl | assumption | exact absurd (by decide) hp

theorem touch_cyc_pulses_regs_sys_spindles_timers_ptp_adcs_channels_comparators_demods_sectors_pairs_groups_tripPins_zonePins_plate_loops_place_cores_aic_dma_dmaLast_outbound_posted_consoles_conJobs_pipes_streams_liveLines_active_mover_heads_audio_keepers_sec_cvs_dict_cans_macs_iotlb_sbOld_trainTries_refreshFast_dramTemp_macQueues_mem_poison_checks (s : State) {v_cyc : CycleNotes} {v_pulses : Tab Nat} {v_regs : Tab Word} {v_sys : Sys} {v_spindles : Tab Spindle} {v_timers : Tab GenTimer} {v_ptp : Tab Nat} {v_adcs : Tab Adc} {v_channels : Tab Channel} {v_comparators : Tab Comparator} {v_demods : Tab SigmaDelta} {v_sectors : Tab Sector} {v_pairs : Tab PwmPair} {v_groups : Tab PwmGroup} {v_tripPins : BitVec 12} {v_zonePins : BitVec 96} {v_plate : Plate} {v_loops : Tab LoopCtx} {v_place : Placement} {v_cores : Tab Core} {v_aic : Tab AicCore} {v_dma : Tab DmaCh} {v_dmaLast : Nat} {v_outbound : List Outbound} {v_posted : Tab (Nat × List Byte)} {v_consoles : Tab Console} {v_conJobs : List ConJob} {v_pipes : Tab (Option ConJob)} {v_streams : Tab StreamQ} {v_liveLines : List (Nat × Nat)} {v_active : Tab Word} {v_mover : Mover} {v_heads : Tab Head} {v_audio : Audio} {v_keepers : Tab (Option Bool)} {v_sec : Sec} {v_cvs : Tab CvUnit} {v_dict : Dict} {v_cans : Tab CanCtl} {v_macs : Tab Mac} {v_iotlb : List (Nat × TlbEntry)} {v_sbOld : Tab (Option (Nat × Nat))} {v_trainTries : Nat} {v_refreshFast : Bool} {v_dramTemp : Nat} {v_macQueues : Tab (List Word)} {v_mem : List Host.Cell} {v_poison : List Nat} {v_checks : List MachineCheck} (h0 : v_sys.variant = s.sys.variant) (h1 : v_sec.otp = s.sec.otp) (h2 : v_sec.unlock = s.sec.unlock) :
    Touches (.cyc :: .pulses :: .regs :: .sys :: .spindles :: .timers :: .ptp :: .adcs :: .channels :: .comparators :: .demods :: .sectors :: .pairs :: .groups :: .tripPins :: .zonePins :: .plate :: .loops :: .place :: .cores :: .aic :: .dma :: .dmaLast :: .outbound :: .posted :: .consoles :: .conJobs :: .pipes :: .streams :: .liveLines :: .active :: .mover :: .heads :: .audio :: .keepers :: .sec :: .cvs :: .dict :: .cans :: .macs :: .iotlb :: .sbOld :: .trainTries :: .refreshFast :: .dramTemp :: .macQueues :: .mem :: .poison :: .checks :: []) s { s with cyc := v_cyc, pulses := v_pulses, regs := v_regs, sys := v_sys, spindles := v_spindles, timers := v_timers, ptp := v_ptp, adcs := v_adcs, channels := v_channels, comparators := v_comparators, demods := v_demods, sectors := v_sectors, pairs := v_pairs, groups := v_groups, tripPins := v_tripPins, zonePins := v_zonePins, plate := v_plate, loops := v_loops, place := v_place, cores := v_cores, aic := v_aic, dma := v_dma, dmaLast := v_dmaLast, outbound := v_outbound, posted := v_posted, consoles := v_consoles, conJobs := v_conJobs, pipes := v_pipes, streams := v_streams, liveLines := v_liveLines, active := v_active, mover := v_mover, heads := v_heads, audio := v_audio, keepers := v_keepers, sec := v_sec, cvs := v_cvs, dict := v_dict, cans := v_cans, macs := v_macs, iotlb := v_iotlb, sbOld := v_sbOld, trainTries := v_trainTries, refreshFast := v_refreshFast, dramTemp := v_dramTemp, macQueues := v_macQueues, mem := v_mem, poison := v_poison, checks := v_checks } := by
  intro p hp; cases p <;> first | rfl | assumption | exact absurd (by decide) hp

theorem touch_demods (s : State) {v_demods : Tab SigmaDelta} :
    Touches [.demods] s { s with demods := v_demods } := by
  intro p hp; cases p <;> first | rfl | assumption | exact absurd (by decide) hp

theorem touch_devTimer (s : State) {v_devTimer : DWord} :
    Touches [.devTimer] s { s with devTimer := v_devTimer } := by
  intro p hp; cases p <;> first | rfl | assumption | exact absurd (by decide) hp

theorem touch_dict (s : State) {v_dict : Dict} :
    Touches [.dict] s { s with dict := v_dict } := by
  intro p hp; cases p <;> first | rfl | assumption | exact absurd (by decide) hp

theorem touch_dma (s : State) {v_dma : Tab DmaCh} :
    Touches [.dma] s { s with dma := v_dma } := by
  intro p hp; cases p <;> first | rfl | assumption | exact absurd (by decide) hp

theorem touch_dmaLast (s : State) {v_dmaLast : Nat} :
    Touches [.dmaLast] s { s with dmaLast := v_dmaLast } := by
  intro p hp; cases p <;> first | rfl | assumption | exact absurd (by decide) hp

theorem touch_encoders_encSince (s : State) {v_encoders : Tab Nat} {v_encSince : Tab Nat} :
    Touches [.encoders, .encSince] s { s with encoders := v_encoders, encSince := v_encSince } := by
  intro p hp; cases p <;> first | rfl | assumption | exact absurd (by decide) hp

theorem touch_freeCtr (s : State) {v_freeCtr : Nat} :
    Touches [.freeCtr] s { s with freeCtr := v_freeCtr } := by
  intro p hp; cases p <;> first | rfl | assumption | exact absurd (by decide) hp

theorem touch_groups (s : State) {v_groups : Tab PwmGroup} :
    Touches [.groups] s { s with groups := v_groups } := by
  intro p hp; cases p <;> first | rfl | assumption | exact absurd (by decide) hp

theorem touch_heads (s : State) {v_heads : Tab Head} :
    Touches [.heads] s { s with heads := v_heads } := by
  intro p hp; cases p <;> first | rfl | assumption | exact absurd (by decide) hp

theorem touch_hosts (s : State) {v_hosts : Tab HostPort} :
    Touches [.hosts] s { s with hosts := v_hosts } := by
  intro p hp; cases p <;> first | rfl | assumption | exact absurd (by decide) hp

theorem touch_iotlb (s : State) {v_iotlb : List (Nat × TlbEntry)} :
    Touches [.iotlb] s { s with iotlb := v_iotlb } := by
  intro p hp; cases p <;> first | rfl | assumption | exact absurd (by decide) hp

theorem touch_keepers (s : State) {v_keepers : Tab (Option Bool)} :
    Touches [.keepers] s { s with keepers := v_keepers } := by
  intro p hp; cases p <;> first | rfl | assumption | exact absurd (by decide) hp

theorem touch_liveLines (s : State) {v_liveLines : List (Nat × Nat)} :
    Touches [.liveLines] s { s with liveLines := v_liveLines } := by
  intro p hp; cases p <;> first | rfl | assumption | exact absurd (by decide) hp

theorem touch_log (s : State) {v_log : EventLog} :
    Touches [.log] s { s with log := v_log } := by
  intro p hp; cases p <;> first | rfl | assumption | exact absurd (by decide) hp

theorem touch_log_sec (s : State) {v_log : EventLog} {v_sec : Sec} (h1 : v_sec.otp = s.sec.otp) (h2 : v_sec.unlock = s.sec.unlock) :
    Touches [.log, .sec] s { s with log := v_log, sec := v_sec } := by
  intro p hp; cases p <;> first | rfl | assumption | exact absurd (by decide) hp

theorem touch_loops (s : State) {v_loops : Tab LoopCtx} :
    Touches [.loops] s { s with loops := v_loops } := by
  intro p hp; cases p <;> first | rfl | assumption | exact absurd (by decide) hp

theorem touch_macQueues (s : State) {v_macQueues : Tab (List Word)} :
    Touches [.macQueues] s { s with macQueues := v_macQueues } := by
  intro p hp; cases p <;> first | rfl | assumption | exact absurd (by decide) hp

theorem touch_macs (s : State) {v_macs : Tab Mac} :
    Touches [.macs] s { s with macs := v_macs } := by
  intro p hp; cases p <;> first | rfl | assumption | exact absurd (by decide) hp

theorem touch_mem (s : State) {v_mem : List Host.Cell} :
    Touches [.mem] s { s with mem := v_mem } := by
  intro p hp; cases p <;> first | rfl | assumption | exact absurd (by decide) hp

theorem touch_mem_poison (s : State) {v_mem : List Host.Cell} {v_poison : List Nat} :
    Touches [.mem, .poison] s { s with mem := v_mem, poison := v_poison } := by
  intro p hp; cases p <;> first | rfl | assumption | exact absurd (by decide) hp

theorem touch_mover (s : State) {v_mover : Mover} :
    Touches [.mover] s { s with mover := v_mover } := by
  intro p hp; cases p <;> first | rfl | assumption | exact absurd (by decide) hp

theorem touch_nor (s : State) {v_nor : List Host.Cell} :
    Touches [.nor] s { s with nor := v_nor } := by
  intro p hp; cases p <;> first | rfl | assumption | exact absurd (by decide) hp

theorem touch_outbound (s : State) {v_outbound : List Outbound} :
    Touches [.outbound] s { s with outbound := v_outbound } := by
  intro p hp; cases p <;> first | rfl | assumption | exact absurd (by decide) hp

theorem touch_pairs (s : State) {v_pairs : Tab PwmPair} :
    Touches [.pairs] s { s with pairs := v_pairs } := by
  intro p hp; cases p <;> first | rfl | assumption | exact absurd (by decide) hp

theorem touch_pending (s : State) {v_pending : List Instr} :
    Touches [.pending] s { s with pending := v_pending } := by
  intro p hp; cases p <;> first | rfl | assumption | exact absurd (by decide) hp

theorem touch_pending_freeCtr (s : State) {v_pending : List Instr} {v_freeCtr : Nat} :
    Touches [.pending, .freeCtr] s { s with pending := v_pending, freeCtr := v_freeCtr } := by
  intro p hp; cases p <;> first | rfl | assumption | exact absurd (by decide) hp

theorem touch_pipes (s : State) {v_pipes : Tab (Option ConJob)} :
    Touches [.pipes] s { s with pipes := v_pipes } := by
  intro p hp; cases p <;> first | rfl | assumption | exact absurd (by decide) hp

theorem touch_place (s : State) {v_place : Placement} :
    Touches [.place] s { s with place := v_place } := by
  intro p hp; cases p <;> first | rfl | assumption | exact absurd (by decide) hp

theorem touch_plate (s : State) {v_plate : Plate} :
    Touches [.plate] s { s with plate := v_plate } := by
  intro p hp; cases p <;> first | rfl | assumption | exact absurd (by decide) hp

theorem touch_poison (s : State) {v_poison : List Nat} :
    Touches [.poison] s { s with poison := v_poison } := by
  intro p hp; cases p <;> first | rfl | assumption | exact absurd (by decide) hp

theorem touch_posted (s : State) {v_posted : Tab (Nat × List Byte)} :
    Touches [.posted] s { s with posted := v_posted } := by
  intro p hp; cases p <;> first | rfl | assumption | exact absurd (by decide) hp

theorem touch_ptp (s : State) {v_ptp : Tab Nat} :
    Touches [.ptp] s { s with ptp := v_ptp } := by
  intro p hp; cases p <;> first | rfl | assumption | exact absurd (by decide) hp

theorem touch_pulses (s : State) {v_pulses : Tab Nat} :
    Touches [.pulses] s { s with pulses := v_pulses } := by
  intro p hp; cases p <;> first | rfl | assumption | exact absurd (by decide) hp

theorem touch_refreshFast (s : State) {v_refreshFast : Bool} :
    Touches [.refreshFast] s { s with refreshFast := v_refreshFast } := by
  intro p hp; cases p <;> first | rfl | assumption | exact absurd (by decide) hp

theorem touch_refreshFast_dramTemp (s : State) {v_refreshFast : Bool} {v_dramTemp : Nat} :
    Touches [.refreshFast, .dramTemp] s { s with refreshFast := v_refreshFast, dramTemp := v_dramTemp } := by
  intro p hp; cases p <;> first | rfl | assumption | exact absurd (by decide) hp

theorem touch_regs (s : State) {v_regs : Tab Word} :
    Touches [.regs] s { s with regs := v_regs } := by
  intro p hp; cases p <;> first | rfl | assumption | exact absurd (by decide) hp

theorem touch_regs_adcs_channels_comparators_demods_sectors_loops (s : State) {v_regs : Tab Word} {v_adcs : Tab Adc} {v_channels : Tab Channel} {v_comparators : Tab Comparator} {v_demods : Tab SigmaDelta} {v_sectors : Tab Sector} {v_loops : Tab LoopCtx} :
    Touches [.regs, .adcs, .channels, .comparators, .demods, .sectors, .loops] s { s with regs := v_regs, adcs := v_adcs, channels := v_channels, comparators := v_comparators, demods := v_demods, sectors := v_sectors, loops := v_loops } := by
  intro p hp; cases p <;> first | rfl | assumption | exact absurd (by decide) hp

theorem touch_regs_consoles_conJobs_pipes_streams_liveLines_active_mover_heads_audio (s : State) {v_regs : Tab Word} {v_consoles : Tab Console} {v_conJobs : List ConJob} {v_pipes : Tab (Option ConJob)} {v_streams : Tab StreamQ} {v_liveLines : List (Nat × Nat)} {v_active : Tab Word} {v_mover : Mover} {v_heads : Tab Head} {v_audio : Audio} :
    Touches (.regs :: .consoles :: .conJobs :: .pipes :: .streams :: .liveLines :: .active :: .mover :: .heads :: .audio :: []) s { s with regs := v_regs, consoles := v_consoles, conJobs := v_conJobs, pipes := v_pipes, streams := v_streams, liveLines := v_liveLines, active := v_active, mover := v_mover, heads := v_heads, audio := v_audio } := by
  intro p hp; cases p <;> first | rfl | assumption | exact absurd (by decide) hp

theorem touch_resp (s : State) {v_resp : Tab Word} :
    Touches [.resp] s { s with resp := v_resp } := by
  intro p hp; cases p <;> first | rfl | assumption | exact absurd (by decide) hp

theorem touch_sbOld (s : State) {v_sbOld : Tab (Option (Nat × Nat))} :
    Touches [.sbOld] s { s with sbOld := v_sbOld } := by
  intro p hp; cases p <;> first | rfl | assumption | exact absurd (by decide) hp

theorem touch_sec (s : State) {v_sec : Sec} (h1 : v_sec.otp = s.sec.otp) (h2 : v_sec.unlock = s.sec.unlock) :
    Touches [.sec] s { s with sec := v_sec } := by
  intro p hp; cases p <;> first | rfl | assumption | exact absurd (by decide) hp

theorem touch_sec_otp (s : State) {v_sec : Sec} (h2 : v_sec.unlock = s.sec.unlock) :
    Touches [.sec, .otp] s { s with sec := v_sec } := by
  intro p hp; cases p <;> first | rfl | assumption | exact absurd (by decide) hp

theorem touch_sec_unlock (s : State) {v_sec : Sec} (h1 : v_sec.otp = s.sec.otp) :
    Touches [.sec, .unlock] s { s with sec := v_sec } := by
  intro p hp; cases p <;> first | rfl | assumption | exact absurd (by decide) hp

theorem touch_sectors (s : State) {v_sectors : Tab Sector} :
    Touches [.sectors] s { s with sectors := v_sectors } := by
  intro p hp; cases p <;> first | rfl | assumption | exact absurd (by decide) hp

theorem touch_shadow (s : State) {v_shadow : Tab Word} :
    Touches [.shadow] s { s with shadow := v_shadow } := by
  intro p hp; cases p <;> first | rfl | assumption | exact absurd (by decide) hp

theorem touch_spindles (s : State) {v_spindles : Tab Spindle} :
    Touches [.spindles] s { s with spindles := v_spindles } := by
  intro p hp; cases p <;> first | rfl | assumption | exact absurd (by decide) hp

theorem touch_streams (s : State) {v_streams : Tab StreamQ} :
    Touches [.streams] s { s with streams := v_streams } := by
  intro p hp; cases p <;> first | rfl | assumption | exact absurd (by decide) hp

theorem touch_sys (s : State) {v_sys : Sys} (h0 : v_sys.variant = s.sys.variant) :
    Touches [.sys] s { s with sys := v_sys } := by
  intro p hp; cases p <;> first | rfl | assumption | exact absurd (by decide) hp

theorem touch_sys_adcs_channels_comparators_demods_sectors_pairs_groups_loops (s : State) {v_sys : Sys} {v_adcs : Tab Adc} {v_channels : Tab Channel} {v_comparators : Tab Comparator} {v_demods : Tab SigmaDelta} {v_sectors : Tab Sector} {v_pairs : Tab PwmPair} {v_groups : Tab PwmGroup} {v_loops : Tab LoopCtx} (h0 : v_sys.variant = s.sys.variant) :
    Touches (.sys :: .adcs :: .channels :: .comparators :: .demods :: .sectors :: .pairs :: .groups :: .loops :: []) s { s with sys := v_sys, adcs := v_adcs, channels := v_channels, comparators := v_comparators, demods := v_demods, sectors := v_sectors, pairs := v_pairs, groups := v_groups, loops := v_loops } := by
  intro p hp; cases p <;> first | rfl | assumption | exact absurd (by decide) hp

theorem touch_sys_consoles_conJobs_pipes_streams_liveLines_active_mover_heads_audio (s : State) {v_sys : Sys} {v_consoles : Tab Console} {v_conJobs : List ConJob} {v_pipes : Tab (Option ConJob)} {v_streams : Tab StreamQ} {v_liveLines : List (Nat × Nat)} {v_active : Tab Word} {v_mover : Mover} {v_heads : Tab Head} {v_audio : Audio} (h0 : v_sys.variant = s.sys.variant) :
    Touches (.sys :: .consoles :: .conJobs :: .pipes :: .streams :: .liveLines :: .active :: .mover :: .heads :: .audio :: []) s { s with sys := v_sys, consoles := v_consoles, conJobs := v_conJobs, pipes := v_pipes, streams := v_streams, liveLines := v_liveLines, active := v_active, mover := v_mover, heads := v_heads, audio := v_audio } := by
  intro p hp; cases p <;> first | rfl | assumption | exact absurd (by decide) hp

theorem touch_sys_cores (s : State) {v_sys : Sys} {v_cores : Tab Core} (h0 : v_sys.variant = s.sys.variant) :
    Touches [.sys, .cores] s { s with sys := v_sys, cores := v_cores } := by
  intro p hp; cases p <;> first | rfl | assumption | exact absurd (by decide) hp

theorem touch_sys_sec (s : State) {v_sys : Sys} {v_sec : Sec} (h0 : v_sys.variant = s.sys.variant) (h1 : v_sec.otp = s.sec.otp) (h2 : v_sec.unlock = s.sec.unlock) :
    Touches [.sys, .sec] s { s with sys := v_sys, sec := v_sec } := by
  intro p hp; cases p <;> first | rfl | assumption | exact absurd (by decide) hp

theorem touch_sys_trainTries (s : State) {v_sys : Sys} {v_trainTries : Nat} (h0 : v_sys.variant = s.sys.variant) :
    Touches [.sys, .trainTries] s { s with sys := v_sys, trainTries := v_trainTries } := by
  intro p hp; cases p <;> first | rfl | assumption | exact absurd (by decide) hp

theorem touch_timers (s : State) {v_timers : Tab GenTimer} :
    Touches [.timers] s { s with timers := v_timers } := by
  intro p hp; cases p <;> first | rfl | assumption | exact absurd (by decide) hp

theorem touch_trainTries (s : State) {v_trainTries : Nat} :
    Touches [.trainTries] s { s with trainTries := v_trainTries } := by
  intro p hp; cases p <;> first | rfl | assumption | exact absurd (by decide) hp

theorem touch_tripAll (s : State) {v_tripAll : Bool} :
    Touches [.tripAll] s { s with tripAll := v_tripAll } := by
  intro p hp; cases p <;> first | rfl | assumption | exact absurd (by decide) hp

theorem touch_tripPins (s : State) {v_tripPins : BitVec 12} :
    Touches [.tripPins] s { s with tripPins := v_tripPins } := by
  intro p hp; cases p <;> first | rfl | assumption | exact absurd (by decide) hp

theorem touch_tsClaimed (s : State) {v_tsClaimed : Option Nat} :
    Touches [.tsClaimed] s { s with tsClaimed := v_tsClaimed } := by
  intro p hp; cases p <;> first | rfl | assumption | exact absurd (by decide) hp

theorem touch_zonePins (s : State) {v_zonePins : BitVec 96} :
    Touches [.zonePins] s { s with zonePins := v_zonePins } := by
  intro p hp; cases p <;> first | rfl | assumption | exact absurd (by decide) hp

end Sys2Proof.Machine
end

