-- ==== Sys2Proof/Laws/TouchOps.lean ====
section
/-! SUPPORT. Which parts of the state the definitions of Machine/Ops.lean touch: one lemma for each, the proofs written by a
script from their shape. -/

namespace Sys2Proof.Machine

theorem State.setReg_touches : ∀ a0 a1 a2,
    Touches [.regs] a0 (State.setReg a0 a1 a2) := by
  intro a0 a1 a2
  unfold State.setReg
  refine touches_after ?_ (touch_regs _) (by decide)
  exact touches_refl _ _

theorem State.setFld_touches : ∀ a0 a1 a2 a3 a4,
    Touches [.regs] a0 (State.setFld a0 a1 a2 a3 a4) := by
  intro a0 a1 a2 a3 a4
  unfold State.setFld
  refine touches_after ?_ (State.setReg_touches _ _ _) (by decide)
  exact touches_refl _ _

theorem State.setBit_touches : ∀ a0 a1 a2 a3,
    Touches [.regs] a0 (State.setBit a0 a1 a2 a3) := by
  intro a0 a1 a2 a3
  unfold State.setBit
  refine touches_after ?_ (State.setReg_touches _ _ _) (by decide)
  exact touches_refl _ _

theorem answer_touches : ∀ a0 a1 a2,
    Touches [.resp] a2 (answer a0 a1 a2) := by
  intro a0 a1 a2
  unfold answer
  refine touches_after ?_ (touch_resp _) (by decide)
  exact touches_refl _ _

theorem countUp_touches : ∀ a0 a1 a2 a3,
    Touches [.regs] a3 (countUp a0 a1 a2 a3) := by
  intro a0 a1 a2 a3
  unfold countUp
  refine touches_after ?_ (State.setReg_touches _ _ _) (by decide)
  exact touches_refl _ _

theorem countUpFld_touches : ∀ a0 a1 a2 a3,
    Touches [.regs] a3 (countUpFld a0 a1 a2 a3) := by
  intro a0 a1 a2 a3
  unfold countUpFld
  refine touches_after ?_ (State.setFld_touches _ _ _ _ _) (by decide)
  exact touches_refl _ _

theorem rcNote_touches : ∀ a0 a1 a2 a3,
    Touches [.cyc, .regs] a3 (rcNote a0 a1 a2 a3) := by
  intro a0 a1 a2 a3
  unfold rcNote
  extract_lets +onlyGivenNames x0
  clear_value x0
  refine touches_after ?_ (State.setReg_touches _ _ _) (by decide)
  refine touches_after ?_ (touch_cyc _) (by decide)
  exact touches_refl _ _

theorem rcUp_touches : ∀ a0 a1 a2 a3,
    Touches [.cyc, .regs] a3 (rcUp a0 a1 a2 a3) := by
  intro a0 a1 a2 a3
  unfold rcUp
  extract_lets +onlyGivenNames x0
  unfold x0
  clear x0
  refine touches_after ?_ (rcNote_touches _ _ _ _) (by decide)
  exact touches_refl _ _

theorem rcUpFld_touches : ∀ a0 a1 a2 a3 a4,
    Touches [.cyc, .regs] a4 (rcUpFld a0 a1 a2 a3 a4) := by
  intro a0 a1 a2 a3 a4
  unfold rcUpFld
  extract_lets +onlyGivenNames x0
  unfold x0
  clear x0
  refine touches_after ?_ (rcNote_touches _ _ _ _) (by decide)
  exact touches_refl _ _

theorem rcSet_touches : ∀ a0 a1 a2,
    Touches [.cyc, .regs] a2 (rcSet a0 a1 a2) := by
  intro a0 a1 a2
  unfold rcSet
  refine touches_after ?_ (rcNote_touches _ _ _ _) (by decide)
  exact touches_refl _ _

theorem rcMax_touches : ∀ a0 a1 a2,
    Touches [.cyc, .regs] a2 (rcMax a0 a1 a2) := by
  intro a0 a1 a2
  unfold rcMax
  extract_lets +onlyGivenNames x0
  unfold x0
  clear x0
  refine touches_after ?_ (rcNote_touches _ _ _ _) (by decide)
  exact touches_refl _ _

theorem rcRead_touches : ∀ a0 a1,
    Touches [.cyc, .regs] a1 (rcRead a0 a1).2 := by
  intro a0 a1
  unfold rcRead
  split
  · dsimp only
    refine touches_after ?_ (State.setReg_touches _ _ _) (by decide)
    refine touches_after ?_ (touch_cyc _) (by decide)
    exact touches_refl _ _
  · dsimp only
    refine touches_after ?_ (State.setReg_touches _ _ _) (by decide)
    exact touches_refl _ _

theorem noteWrote_touches : ∀ a0 a1,
    Touches [.cyc] a1 (noteWrote a0 a1) := by
  intro a0 a1
  unfold noteWrote
  extract_lets +onlyGivenNames x0
  clear_value x0
  refine touches_after ?_ (touch_cyc _) (by decide)
  exact touches_refl _ _

theorem noteSet_touches : ∀ a0 a1 a2,
    Touches [.cyc] a2 (noteSet a0 a1 a2) := by
  intro a0 a1 a2
  unfold noteSet
  refine touches_after ?_ (touch_cyc _) (by decide)
  exact touches_refl _ _

theorem setEvent_touches : ∀ a0 a1 a2,
    Touches [.cyc, .regs] a2 (setEvent a0 a1 a2) := by
  intro a0 a1 a2
  unfold setEvent
  refine touches_after ?_ (noteSet_touches _ _ _) (by decide)
  refine touches_after ?_ (State.setBit_touches _ _ _ _) (by decide)
  exact touches_refl _ _

theorem notePulse_touches : ∀ a0 a1,
    Touches [.pulses] a1 (notePulse a0 a1) := by
  intro a0 a1
  unfold notePulse
  refine touches_after ?_ (touch_pulses _) (by decide)
  exact touches_refl _ _

theorem countWrap_touches : ∀ a0 a1 a2,
    Touches [.regs] a2 (countWrap a0 a1 a2) := by
  intro a0 a1 a2
  unfold countWrap
  refine touches_after ?_ (State.setReg_touches _ _ _) (by decide)
  exact touches_refl _ _

theorem takeFree_touches : ∀ a0 a1,
    Touches [.freeCtr] a1 (takeFree a0 a1).2 := by
  intro a0 a1
  unfold takeFree
  dsimp only
  refine touches_after ?_ (touch_freeCtr _) (by decide)
  exact touches_refl _ _

theorem freeReg_touches : ∀ a0 a1,
    Touches [.freeCtr, .regs] a1 (freeReg a0 a1) := by
  intro a0 a1
  unfold freeReg
  refine touches_after ?_ (State.setReg_touches _ _ _) (by decide)
  refine touches_after ?_ (takeFree_touches _ _) (by decide)
  exact touches_refl _ _

theorem takeState_touches : ∀ a0,
    Touches [.freeCtr] a0 (takeState a0).2 := by
  intro a0
  unfold takeState
  dsimp only
  refine touches_after ?_ (touch_freeCtr _) (by decide)
  exact touches_refl _ _

theorem spoilRegs_touches : ∀ a0 a1 a2,
    Touches [.regs] a2 (spoilRegs a0 a1 a2) := by
  intro a0 a1 a2
  unfold spoilRegs
  refine touches_after ?_ (touch_regs _) (by decide)
  exact touches_refl _ _

theorem State.setByte_touches : ∀ a0 a1 a2,
    Touches [.mem] a0 (State.setByte a0 a1 a2) := by
  intro a0 a1 a2
  unfold State.setByte
  refine touches_after ?_ (touch_mem _) (by decide)
  exact touches_refl _ _

theorem State.putBytes_touches : ∀ a0 a1 a2,
    Touches [.mem] a0 (State.putBytes a0 a1 a2) := by
  intro a0 a1 a2
  fun_induction State.putBytes a0 a1 a2
  · exact touches_refl _ _
  · refine touches_after ?_ ‹_› (fun _ h => h)
    refine touches_after ?_ (State.setByte_touches _ _ _) (by decide)
    exact touches_refl _ _

theorem State.store_touches : ∀ a0 a1 a2,
    Touches [.mem, .poison] a0 (State.store a0 a1 a2) := by
  intro a0 a1 a2
  unfold State.store
  extract_lets +onlyGivenNames x0
  refine touches_cut x0 ?_ (fun h0 => ?_)
  · unfold x0
    refine touches_after ?_ (State.putBytes_touches _ _ _) (by decide)
    exact touches_refl _ _
  clear_value x0
  refine touches_after ?_ (touch_poison _) (by decide)
  assumption

theorem poisonUnit_touches : ∀ a0 a1,
    Touches [.poison] a1 (poisonUnit a0 a1) := by
  intro a0 a1
  unfold poisonUnit
  refine touches_after ?_ (touch_poison _) (by decide)
  exact touches_refl _ _

theorem State.setNorByte_touches : ∀ a0 a1 a2,
    Touches [.nor] a0 (State.setNorByte a0 a1 a2) := by
  intro a0 a1 a2
  unfold State.setNorByte
  refine touches_after ?_ (touch_nor _) (by decide)
  exact touches_refl _ _

theorem State.norProgram_touches : ∀ a0 a1 a2,
    Touches [.nor] a0 (State.norProgram a0 a1 a2) := by
  intro a0 a1 a2
  fun_induction State.norProgram a0 a1 a2
  · exact touches_refl _ _
  · refine touches_after ?_ ‹_› (fun _ h => h)
    refine touches_after ?_ (State.setNorByte_touches _ _ _) (by decide)
    exact touches_refl _ _

theorem State.norErase_touches : ∀ a0 a1 a2,
    Touches [.nor] a0 (State.norErase a0 a1 a2) := by
  intro a0 a1 a2
  unfold State.norErase
  refine touches_after ?_ (touch_nor _) (by decide)
  exact touches_refl _ _

theorem postCheck_touches : ∀ a0 a1 a2 a3,
    Touches [.checks] a3 (postCheck a0 a1 a2 a3) := by
  intro a0 a1 a2 a3
  unfold postCheck
  refine touches_after ?_ (touch_checks _) (by decide)
  exact touches_refl _ _

theorem countDetect_touches : ∀ a0,
    Touches [.cyc, .regs] a0 (countDetect a0) := by
  intro a0
  unfold countDetect
  refine touches_after ?_ (rcUp_touches _ _ _ _) (by decide)
  exact touches_refl _ _

theorem countPoisoned_touches : ∀ a0,
    Touches [.cyc, .regs] a0 (countPoisoned a0) := by
  intro a0
  unfold countPoisoned
  refine touches_after ?_ (rcUp_touches _ _ _ _) (by decide)
  exact touches_refl _ _

theorem noteDeferred_touches : ∀ a0 a1,
    Touches [.regs] a1 (noteDeferred a0 a1) := by
  intro a0 a1
  unfold noteDeferred
  extract_lets +onlyGivenNames x0
  clear_value x0
  refine touches_ite ?_ ?_
  · refine touches_after ?_ (countUpFld_touches _ _ _ _) (by decide)
    exact touches_refl _ _
  · exact touches_refl _ _

theorem noteDeferredPriv_touches : ∀ a0 a1 a2,
    Touches [.regs] a2 (noteDeferredPriv a0 a1 a2) := by
  intro a0 a1 a2
  unfold noteDeferredPriv
  extract_lets +onlyGivenNames x0
  clear_value x0
  extract_lets +onlyGivenNames x1
  clear_value x1
  refine touches_ite ?_ ?_
  · refine touches_after ?_ (countUpFld_touches _ _ _ _) (by decide)
    exact touches_refl _ _
  · exact touches_refl _ _

theorem ringShared_touches : ∀ a0 a1,
    Touches [.cyc, .regs] a1 (ringShared a0 a1) := by
  intro a0 a1
  unfold ringShared
  refine touches_after ?_ (noteDeferred_touches _ _) (by decide)
  refine touches_after ?_ (noteSet_touches _ _ _) (by decide)
  refine touches_after ?_ (State.setBit_touches _ _ _ _) (by decide)
  exact touches_refl _ _

theorem ringPrivate_touches : ∀ a0 a1 a2,
    Touches [.cyc, .regs] a2 (ringPrivate a0 a1 a2) := by
  intro a0 a1 a2
  unfold ringPrivate
  refine touches_after ?_ (noteDeferredPriv_touches _ _ _) (by decide)
  refine touches_after ?_ (noteSet_touches _ _ _) (by decide)
  refine touches_after ?_ (State.setBit_touches _ _ _ _) (by decide)
  exact touches_refl _ _

theorem raiseTs_touches : ∀ a0 a1,
    Touches [.regs] a1 (raiseTs a0 a1) := by
  intro a0 a1
  unfold raiseTs
  refine touches_after ?_ (State.setBit_touches _ _ _ _) (by decide)
  exact touches_refl _ _

theorem raiseStatus_touches : ∀ a0 a1 a2 a3 a4,
    Touches [.cyc, .regs] a4 (raiseStatus a0 a1 a2 a3 a4) := by
  intro a0 a1 a2 a3 a4
  unfold raiseStatus
  extract_lets +onlyGivenNames x0
  clear_value x0
  extract_lets +onlyGivenNames x1
  refine touches_cut x1 ?_ (fun h1 => ?_)
  · unfold x1
    refine touches_after ?_ (noteSet_touches _ _ _) (by decide)
    refine touches_after ?_ (State.setReg_touches _ _ _) (by decide)
    exact touches_refl _ _
  clear_value x1
  refine touches_ite ?_ ?_
  · refine touches_after ?_ (noteDeferred_touches _ _) (by decide)
    assumption
  · assumption

theorem nodeSend_touches : ∀ a0 a1 a2,
    Touches [.canNode] a2 (nodeSend a0 a1 a2) := by
  intro a0 a1 a2
  unfold nodeSend
  refine touches_after ?_ (touch_canNode _) (by decide)
  exact touches_refl _ _

theorem emcy_touches : ∀ a0 a1,
    Touches [.freeCtr, .canNode] a1 (emcy a0 a1) := by
  intro a0 a1
  unfold emcy
  refine touches_ite ?_ ?_
  · extract_lets +onlyGivenNames x0
    refine touches_cut_snd x0 ?_ (fun h0 => ?_)
    · unfold x0
      refine touches_after ?_ (takeFree_touches _ _) (by decide)
      exact touches_refl _ _
    clear_value x0
    refine touches_after ?_ (nodeSend_touches _ _ _) (by decide)
    assumption
  · exact touches_refl _ _

theorem logEvent_touches : ∀ a0 a1 a2 a3 a4,
    Touches [.freeCtr, .regs, .log, .canNode] a4 (logEvent a0 a1 a2 a3 a4) := by
  intro a0 a1 a2 a3 a4
  unfold logEvent
  refine touches_ite ?_ ?_
  · refine touches_after ?_ (touch_log _) (by decide)
    exact touches_refl _ _
  · extract_lets +onlyGivenNames x0
    clear_value x0
    extract_lets +onlyGivenNames x1
    clear_value x1
    extract_lets +onlyGivenNames x2
    refine touches_cut x2 ?_ (fun h2 => ?_)
    · unfold x2
      refine touches_after ?_ (emcy_touches _ _) (by decide)
      refine touches_after ?_ (touch_log _) (by decide)
      exact touches_refl _ _
    clear_value x2
    refine touches_ite ?_ ?_
    · refine touches_after ?_ (raiseTs_touches _ _) (by decide)
      assumption
    · assumption

theorem logOpen_touches : ∀ a0 a1 a2 a3 a4,
    Touches [.freeCtr, .regs, .log, .canNode] a4 (logOpen a0 a1 a2 a3 a4) := by
  intro a0 a1 a2 a3 a4
  unfold logOpen
  refine touches_after ?_ (logEvent_touches _ _ _ _ _) (by decide)
  exact touches_refl _ _

end Sys2Proof.Machine
end

