-- ==== Sys2Proof/Laws/TouchTripOps.lean ====
section
/-! SUPPORT. Which parts of the state the definitions of Machine/TripOps.lean touch: one lemma for each, the proofs written by a
script from their shape. -/

namespace Sys2Proof.Machine

theorem State.setPair_touches : ∀ a0 a1 a2,
    Touches [.pairs] a0 (State.setPair a0 a1 a2) := by
  intro a0 a1 a2
  unfold State.setPair
  refine touches_after ?_ (touch_pairs _) (by decide)
  exact touches_refl _ _

theorem State.setGroup_touches : ∀ a0 a1 a2,
    Touches [.groups] a0 (State.setGroup a0 a1 a2) := by
  intro a0 a1 a2
  unfold State.setGroup
  refine touches_after ?_ (touch_groups _) (by decide)
  exact touches_refl _ _

theorem State.setComparator_touches : ∀ a0 a1 a2,
    Touches [.comparators] a0 (State.setComparator a0 a1 a2) := by
  intro a0 a1 a2
  unfold State.setComparator
  refine touches_after ?_ (touch_comparators _) (by decide)
  exact touches_refl _ _

theorem pwmEvent_touches : ∀ a0 a1 a2,
    Touches [.cyc, .regs] a2 (pwmEvent a0 a1 a2) := by
  intro a0 a1 a2
  unfold pwmEvent
  refine touches_after ?_ (raiseStatus_touches _ _ _ _ _) (by decide)
  exact touches_refl _ _

theorem leaveArmed_touches : ∀ a0 a1 a2,
    Touches [.cyc, .regs, .pairs] a2 (leaveArmed a0 a1 a2) := by
  intro a0 a1 a2
  unfold leaveArmed
  extract_lets +onlyGivenNames x0
  clear_value x0
  extract_lets +onlyGivenNames x1
  refine touches_cut x1 ?_ (fun h1 => ?_)
  · unfold x1
    refine touches_after ?_ (State.setFld_touches _ _ _ _ _) (by decide)
    exact touches_refl _ _
  clear_value x1
  extract_lets +onlyGivenNames x2
  refine touches_cut x2 ?_ (fun h2 => ?_)
  · unfold x2
    refine touches_forEach (fun _ _ _ => ?_) ?_
    · refine touches_after ?_ (State.setPair_touches _ _ _) (by decide)
      assumption
    · assumption
  clear_value x2
  refine touches_ite ?_ ?_
  · refine touches_after ?_ (pwmEvent_touches _ _ _) (by decide)
    assumption
  · assumption

theorem toSafe_touches : ∀ a0 a1,
    Touches [.cyc, .regs, .pairs] a1 (toSafe a0 a1) := by
  intro a0 a1
  unfold toSafe
  refine touches_ite ?_ ?_
  · exact touches_refl _ _
  · refine touches_after ?_ (leaveArmed_touches _ _ _) (by decide)
    exact touches_refl _ _

theorem safeAll_touches : ∀ a0 a1,
    Touches [.cyc, .regs, .pairs] a1 (safeAll a0 a1) := by
  intro a0 a1
  unfold safeAll
  refine touches_forEach (fun _ _ _ => ?_) ?_
  · refine touches_after ?_ (pwmEvent_touches _ _ _) (by decide)
    refine touches_after ?_ (leaveArmed_touches _ _ _) (by decide)
    assumption
  · exact touches_refl _ _

theorem tripGroup_touches : ∀ a0 a1,
    Touches [.cyc, .regs, .pairs] a1 (tripGroup a0 a1) := by
  intro a0 a1
  unfold tripGroup
  refine touches_ite ?_ ?_
  · refine touches_after ?_ (pwmEvent_touches _ _ _) (by decide)
    refine touches_forEach (fun _ _ _ => ?_) ?_
    · refine touches_after ?_ (State.setPair_touches _ _ _) (by decide)
      assumption
    · exact touches_refl _ _
  · exact touches_refl _ _

theorem zoneRefresh_touches : ∀ a0 a1 a2,
    Touches [.cyc, .regs, .pairs] a2 (zoneRefresh a0 a1 a2) := by
  intro a0 a1 a2
  unfold zoneRefresh
  extract_lets +onlyGivenNames x0
  clear_value x0
  extract_lets +onlyGivenNames x1
  clear_value x1
  refine touches_ite ?_ ?_
  · extract_lets +onlyGivenNames x2
    clear_value x2
    extract_lets +onlyGivenNames x3
    clear_value x3
    extract_lets +onlyGivenNames x4
    clear_value x4
    extract_lets +onlyGivenNames x5
    refine touches_cut x5 ?_ (fun h5 => ?_)
    · unfold x5
      refine touches_after ?_ (noteSet_touches _ _ _) (by decide)
      refine touches_after ?_ (State.setReg_touches _ _ _) (by decide)
      exact touches_refl _ _
    clear_value x5
    extract_lets +onlyGivenNames x6
    refine touches_cut x6 ?_ (fun h6 => ?_)
    · unfold x6
      refine touches_ite ?_ ?_
      · assumption
      · refine touches_after ?_ (noteDeferred_touches _ _) (by decide)
        assumption
    clear_value x6
    extract_lets +onlyGivenNames x7
    clear_value x7
    refine touches_forEach (fun _ _ _ => ?_) ?_
    · refine touches_ite ?_ ?_
      · refine touches_after ?_ (tripGroup_touches _ _) (by decide)
        assumption
      · assumption
    · assumption
  · refine touches_after ?_ (State.setBit_touches _ _ _ _) (by decide)
    exact touches_refl _ _

theorem zonesRefresh_touches : ∀ a0 a1,
    Touches [.cyc, .regs, .pairs] a1 (zonesRefresh a0 a1) := by
  intro a0 a1
  unfold zonesRefresh
  refine touches_forEach (fun _ _ _ => ?_) ?_
  · refine touches_after ?_ (zoneRefresh_touches _ _ _) (by decide)
    assumption
  · exact touches_refl _ _

theorem allZonesRefresh_touches : ∀ a0,
    Touches [.cyc, .regs, .pairs] a0 (allZonesRefresh a0) := by
  intro a0
  unfold allZonesRefresh
  refine touches_forEach (fun _ _ _ => ?_) ?_
  · refine touches_after ?_ (zonesRefresh_touches _ _) (by decide)
    assumption
  · exact touches_refl _ _

theorem zoneForce_touches : ∀ a0 a1,
    Touches [.cyc, .regs, .pairs] a1 (zoneForce a0 a1) := by
  intro a0 a1
  unfold zoneForce
  refine touches_ite ?_ ?_
  · refine touches_after ?_ (zoneRefresh_touches _ _ _) (by decide)
    refine touches_after ?_ (zoneRefresh_touches _ _ _) (by decide)
    exact touches_refl _ _
  · exact touches_refl _ _

theorem logGlobalTrip_touches : ∀ a0,
    Touches [.freeCtr, .regs, .log, .canNode] a0 (logGlobalTrip a0) := by
  intro a0
  unfold logGlobalTrip
  refine touches_after ?_ (raiseTs_touches _ _) (by decide)
  refine touches_after ?_ (logOpen_touches _ _ _ _ _) (by decide)
  exact touches_refl _ _

theorem assertGlobalTrip_touches : ∀ a0 a1,
    Touches [.freeCtr, .cyc, .regs, .log, .pairs, .canNode] a1 (assertGlobalTrip a0 a1) := by
  intro a0 a1
  unfold assertGlobalTrip
  refine touches_after ?_ (logGlobalTrip_touches _) (by decide)
  refine touches_after ?_ (allZonesRefresh_touches _) (by decide)
  refine touches_after ?_ (State.setBit_touches _ _ _ _) (by decide)
  exact touches_refl _ _

theorem softTripGroup_touches : ∀ a0 a1,
    Touches [.cyc, .regs, .pairs, .groups] a1 (softTripGroup a0 a1) := by
  intro a0 a1
  unfold softTripGroup
  extract_lets +onlyGivenNames x0
  clear_value x0
  refine touches_after ?_ (tripGroup_touches _ _) (by decide)
  refine touches_after ?_ (State.setGroup_touches _ _ _) (by decide)
  exact touches_refl _ _

theorem loseLock_touches : ∀ a0 a1,
    Touches [.cyc, .regs, .pairs, .groups] a1 (loseLock a0 a1) := by
  intro a0 a1
  unfold loseLock
  refine touches_after ?_ (tripGroup_touches _ _) (by decide)
  refine touches_after ?_ (pwmEvent_touches _ _ _) (by decide)
  refine touches_after ?_ (State.setGroup_touches _ _ _) (by decide)
  exact touches_refl _ _

theorem spindleUnusable_touches : ∀ a0 a1,
    Touches [.cyc, .regs, .pairs, .groups] a1 (spindleUnusable a0 a1) := by
  intro a0 a1
  unfold spindleUnusable
  refine touches_forEach (fun _ _ _ => ?_) ?_
  · refine touches_ite ?_ ?_
    · refine touches_after ?_ (loseLock_touches _ _) (by decide)
      assumption
    · assumption
  · exact touches_refl _ _

end Sys2Proof.Machine
end

