-- ==== Sys2Proof/Laws/TouchAfe.lean ====
section
/-! SUPPORT. Which parts of the state the definitions of Machine/Afe.lean touch: one lemma for each, the proofs written by a
script from their shape. -/

namespace Sys2Proof.Machine

theorem State.setAdc_touches : ∀ a0 a1 a2,
    Touches [.adcs] a0 (State.setAdc a0 a1 a2) := by
  intro a0 a1 a2
  unfold State.setAdc
  refine touches_after ?_ (touch_adcs _) (by decide)
  exact touches_refl _ _

theorem State.setChan_touches : ∀ a0 a1 a2,
    Touches [.channels] a0 (State.setChan a0 a1 a2) := by
  intro a0 a1 a2
  unfold State.setChan
  refine touches_after ?_ (touch_channels _) (by decide)
  exact touches_refl _ _

theorem State.setDemod_touches : ∀ a0 a1 a2,
    Touches [.demods] a0 (State.setDemod a0 a1 a2) := by
  intro a0 a1 a2
  unfold State.setDemod
  refine touches_after ?_ (touch_demods _) (by decide)
  exact touches_refl _ _

theorem State.setSector_touches : ∀ a0 a1 a2,
    Touches [.sectors] a0 (State.setSector a0 a1 a2) := by
  intro a0 a1 a2
  unfold State.setSector
  refine touches_after ?_ (touch_sectors _) (by decide)
  exact touches_refl _ _

theorem afeEvent_touches : ∀ a0 a1 a2,
    Touches [.cyc, .regs] a2 (afeEvent a0 a1 a2) := by
  intro a0 a1 a2
  unfold afeEvent
  refine touches_after ?_ (raiseStatus_touches _ _ _ _ _) (by decide)
  exact touches_refl _ _

theorem adcStart_touches : ∀ a0 a1 a2 a3,
    Touches [.adcs] a3 (adcStart a0 a1 a2 a3) := by
  intro a0 a1 a2 a3
  unfold adcStart
  refine touches_after ?_ (State.setAdc_touches _ _ _) (by decide)
  exact touches_refl _ _

theorem trigUnavailable_touches : ∀ a0 a1,
    Touches [.cyc, .regs] a1 (trigUnavailable a0 a1) := by
  intro a0 a1
  unfold trigUnavailable
  refine touches_after ?_ (rcUpFld_touches _ _ _ _ _) (by decide)
  refine touches_after ?_ (afeEvent_touches _ _ _) (by decide)
  exact touches_refl _ _

theorem adcReceive_touches : ∀ a0 a1 a2,
    Touches [.cyc, .pulses, .regs, .adcs] a2 (adcReceive a0 a1 a2) := by
  intro a0 a1 a2
  unfold adcReceive
  refine touches_ite ?_ ?_
  · exact touches_refl _ _
  · refine touches_ite ?_ ?_
    · refine touches_after ?_ (trigUnavailable_touches _ _) (by decide)
      exact touches_refl _ _
    · refine touches_ite ?_ ?_
      · refine touches_after ?_ (notePulse_touches _ _) (by decide)
        refine touches_after ?_ (adcStart_touches _ _ _ _) (by decide)
        exact touches_refl _ _
      · refine touches_ite ?_ ?_
        · refine touches_after ?_ (notePulse_touches _ _) (by decide)
          refine touches_after ?_ (State.setAdc_touches _ _ _) (by decide)
          exact touches_refl _ _
        · refine touches_after ?_ (rcUpFld_touches _ _ _ _ _) (by decide)
          refine touches_after ?_ (afeEvent_touches _ _ _) (by decide)
          exact touches_refl _ _

theorem adcTrigger_touches : ∀ a0 a1 a2,
    Touches [.cyc, .pulses, .regs, .adcs] a2 (adcTrigger a0 a1 a2) := by
  intro a0 a1 a2
  unfold adcTrigger
  refine touches_ite ?_ ?_
  · extract_lets +onlyGivenNames x0
    clear_value x0
    refine touches_forEach (fun _ _ _ => ?_) ?_
    · refine touches_after ?_ (adcReceive_touches _ _ _) (by decide)
      assumption
    · refine touches_after ?_ (adcReceive_touches _ _ _) (by decide)
      exact touches_refl _ _
  · exact touches_refl _ _

theorem execAdctrig_touches : ∀ a0 a1 a2,
    ∃ t, execAdctrig a0 a1 a2 = .next t ∧ Touches [.cyc, .pulses, .regs, .adcs] a2 t := by
  intro a0 a1 a2
  unfold execAdctrig
  refine ⟨_, rfl, ?_⟩
  refine touches_ite ?_ ?_
  · refine touches_after ?_ (adcTrigger_touches _ _ _) (by decide)
    exact touches_refl _ _
  · exact touches_refl _ _

theorem execAdcSwtrig_touches : ∀ a0 a1 a2,
    ∃ t, execAdcSwtrig a0 a1 a2 = .next t ∧ Touches [.cyc, .pulses, .regs, .adcs] a2 t := by
  intro a0 a1 a2
  unfold execAdcSwtrig
  refine ⟨_, rfl, ?_⟩
  refine touches_ite ?_ ?_
  · refine touches_after ?_ (adcTrigger_touches _ _ _) (by decide)
    exact touches_refl _ _
  · exact touches_refl _ _

theorem adcHoldEff_touches : ∀ a0 a1 a2,
    Touches [.adcs] a2 (adcHoldEff a0 a1 a2) := by
  intro a0 a1 a2
  unfold adcHoldEff
  extract_lets +onlyGivenNames x0
  clear_value x0
  refine touches_ite ?_ ?_
  · refine touches_after ?_ (State.setAdc_touches _ _ _) (by decide)
    exact touches_refl _ _
  · exact touches_refl _ _

theorem execAdcHold_touches : ∀ a0 a1 a2,
    ∃ t, execAdcHold a0 a1 a2 = .next t ∧ Touches [.adcs] a2 t := by
  intro a0 a1 a2
  unfold execAdcHold
  refine ⟨_, rfl, ?_⟩
  refine touches_ite ?_ ?_
  · refine touches_after ?_ (adcHoldEff_touches _ _ _) (by decide)
    exact touches_refl _ _
  · exact touches_refl _ _

theorem afePush_touches : ∀ a0 a1 a2,
    Touches [.cyc, .regs, .sectors] a2 (afePush a0 a1 a2) := by
  intro a0 a1 a2
  unfold afePush
  extract_lets +onlyGivenNames x0
  clear_value x0
  refine touches_ite ?_ ?_
  · refine touches_after ?_ (State.setReg_touches _ _ _) (by decide)
    refine touches_after ?_ (State.setSector_touches _ _ _) (by decide)
    exact touches_refl _ _
  · refine touches_after ?_ (afeEvent_touches _ _ _) (by decide)
    exact touches_refl _ _

theorem setMapBit_touches : ∀ a0 a1 a2 a3,
    Touches [.regs] a3 (setMapBit a0 a1 a2 a3) := by
  intro a0 a1 a2 a3
  unfold setMapBit
  refine touches_after ?_ (State.setBit_touches _ _ _ _) (by decide)
  exact touches_refl _ _

theorem channelWrite_touches : ∀ a0 a1 a2 a3 a4 a5,
    Touches [.cyc, .regs, .channels, .sectors] a5 (channelWrite a0 a1 a2 a3 a4 a5) := by
  intro a0 a1 a2 a3 a4 a5
  unfold channelWrite
  extract_lets +onlyGivenNames x0
  clear_value x0
  extract_lets +onlyGivenNames x1
  clear_value x1
  extract_lets +onlyGivenNames x2
  clear_value x2
  extract_lets +onlyGivenNames x3
  clear_value x3
  extract_lets +onlyGivenNames x4
  clear_value x4
  extract_lets +onlyGivenNames x5
  clear_value x5
  extract_lets +onlyGivenNames x6
  clear_value x6
  extract_lets +onlyGivenNames x7
  refine touches_cut x7 ?_ (fun h7 => ?_)
  · unfold x7
    refine touches_after ?_ (State.setReg_touches _ _ _) (by decide)
    refine touches_after ?_ (State.setReg_touches _ _ _) (by decide)
    exact touches_refl _ _
  clear_value x7
  extract_lets +onlyGivenNames x8
  refine touches_cut x8 ?_ (fun h8 => ?_)
  · unfold x8
    refine touches_after ?_ (State.setChan_touches _ _ _) (by decide)
    assumption
  clear_value x8
  extract_lets +onlyGivenNames x9
  refine touches_cut x9 ?_ (fun h9 => ?_)
  · unfold x9
    refine touches_after ?_ (setMapBit_touches _ _ _ _) (by decide)
    assumption
  clear_value x9
  extract_lets +onlyGivenNames x10
  refine touches_cut x10 ?_ (fun h10 => ?_)
  · unfold x10
    refine touches_ite ?_ ?_
    · refine touches_after ?_ (setMapBit_touches _ _ _ _) (by decide)
      assumption
    · refine touches_ite ?_ ?_
      · refine touches_ite ?_ ?_
        · assumption
        · refine touches_after ?_ (afeEvent_touches _ _ _) (by decide)
          refine touches_after ?_ (setMapBit_touches _ _ _ _) (by decide)
          assumption
      · assumption
  clear_value x10
  refine touches_ite ?_ ?_
  · refine touches_after ?_ (afePush_touches _ _ _) (by decide)
    assumption
  · assumption

theorem setCalPhase_touches : ∀ a0 a1 a2,
    Touches [.regs] a2 (setCalPhase a0 a1 a2) := by
  intro a0 a1 a2
  unfold setCalPhase
  refine touches_after ?_ (State.setFld_touches _ _ _ _ _) (by decide)
  exact touches_refl _ _

theorem adcAdvance_touches : ∀ a0 a1,
    Touches [.regs, .adcs] a1 (adcAdvance a0 a1) := by
  intro a0 a1
  unfold adcAdvance
  extract_lets +onlyGivenNames x0
  clear_value x0
  refine touches_ite ?_ ?_
  · refine touches_after ?_ (adcStart_touches _ _ _ _) (by decide)
    exact touches_refl _ _
  · split
    · refine touches_after ?_ (adcStart_touches _ _ _ _) (by decide)
      refine touches_after ?_ (State.setAdc_touches _ _ _) (by decide)
      exact touches_refl _ _
    · extract_lets +onlyGivenNames x1
      refine touches_cut x1 ?_ (fun h1 => ?_)
      · unfold x1
        refine touches_after ?_ (State.setAdc_touches _ _ _) (by decide)
        exact touches_refl _ _
      clear_value x1
      refine touches_ite ?_ ?_
      · refine touches_after ?_ (setCalPhase_touches _ _ _) (by decide)
        assumption
      · assumption

theorem sampleWriteEff_touches : ∀ a0 a1,
    Touches [.cyc, .regs, .adcs, .channels, .sectors] a1 (sampleWriteEff a0 a1) := by
  intro a0 a1
  unfold sampleWriteEff
  extract_lets +onlyGivenNames x0
  clear_value x0
  refine touches_ite ?_ ?_
  · extract_lets +onlyGivenNames x1
    clear_value x1
    refine touches_after ?_ (adcAdvance_touches _ _) (by decide)
    refine touches_after ?_ (State.setAdc_touches _ _ _) (by decide)
    refine touches_after ?_ (channelWrite_touches _ _ _ _ _ _) (by decide)
    exact touches_refl _ _
  · exact touches_refl _ _

theorem execSampleWrite_touches : ∀ a0 a1,
    ∃ t, execSampleWrite a0 a1 = .next t ∧ Touches [.cyc, .regs, .adcs, .channels, .sectors] a1 t := by
  intro a0 a1
  unfold execSampleWrite
  refine ⟨_, rfl, ?_⟩
  refine touches_ite ?_ ?_
  · refine touches_after ?_ (sampleWriteEff_touches _ _) (by decide)
    exact touches_refl _ _
  · exact touches_refl _ _

theorem channelStaleEff_touches : ∀ a0 a1 a2,
    Touches [.cyc, .regs] a2 (channelStaleEff a0 a1 a2) := by
  intro a0 a1 a2
  unfold channelStaleEff
  extract_lets +onlyGivenNames x0
  clear_value x0
  refine touches_ite ?_ ?_
  · refine touches_after ?_ (afeEvent_touches _ _ _) (by decide)
    refine touches_after ?_ (setMapBit_touches _ _ _ _) (by decide)
    refine touches_after ?_ (State.setReg_touches _ _ _) (by decide)
    exact touches_refl _ _
  · exact touches_refl _ _

theorem execChannelStale_touches : ∀ a0 a1,
    ∃ t, execChannelStale a0 a1 = .next t ∧ Touches [.cyc, .regs] a1 t := by
  intro a0 a1
  unfold execChannelStale
  refine ⟨_, rfl, ?_⟩
  refine touches_ite ?_ ?_
  · refine touches_after ?_ (channelStaleEff_touches _ _ _) (by decide)
    exact touches_refl _ _
  · exact touches_refl _ _

theorem chCtlWrite_touches : ∀ a0 a1 a2 a3,
    Touches [.regs] a3 (chCtlWrite a0 a1 a2 a3) := by
  intro a0 a1 a2 a3
  unfold chCtlWrite
  extract_lets +onlyGivenNames x0
  refine touches_cut x0 ?_ (fun h0 => ?_)
  · unfold x0
    refine touches_after ?_ (State.setReg_touches _ _ _) (by decide)
    exact touches_refl _ _
  clear_value x0
  refine touches_ite ?_ ?_
  · refine touches_after ?_ (setMapBit_touches _ _ _ _) (by decide)
    refine touches_after ?_ (State.setBit_touches _ _ _ _) (by decide)
    assumption
  · assumption

theorem afePop_touches : ∀ a0 a1,
    Touches [.regs, .sectors] a1 (afePop a0 a1).2 := by
  intro a0 a1
  unfold afePop
  extract_lets +onlyGivenNames x0
  clear_value x0
  split
  · dsimp only
    exact touches_refl _ _
  · dsimp only
    refine touches_after ?_ (State.setReg_touches _ _ _) (by decide)
    refine touches_after ?_ (State.setSector_touches _ _ _) (by decide)
    exact touches_refl _ _

theorem execAfeQueue_touches : ∀ a0 a1 a2,
    ∃ t, execAfeQueue a0 a1 a2 = .next t ∧ Touches [.regs, .resp, .sectors] a2 t := by
  intro a0 a1 a2
  unfold execAfeQueue
  refine ⟨_, rfl, ?_⟩
  refine touches_ite ?_ ?_
  · refine touches_after ?_ (answer_touches _ _ _) (by decide)
    refine touches_after ?_ (afePop_touches _ _) (by decide)
    exact touches_refl _ _
  · refine touches_after ?_ (answer_touches _ _ _) (by decide)
    exact touches_refl _ _

theorem routeWrite_touches : ∀ a0 a1 a2 a3,
    Touches [.regs, .adcs] a3 (routeWrite a0 a1 a2 a3) := by
  intro a0 a1 a2 a3
  unfold routeWrite
  extract_lets +onlyGivenNames x0
  clear_value x0
  extract_lets +onlyGivenNames x1
  clear_value x1
  extract_lets +onlyGivenNames x2
  refine touches_cut x2 ?_ (fun h2 => ?_)
  · unfold x2
    split
    · refine touches_after ?_ (State.setReg_touches _ _ _) (by decide)
      exact touches_refl _ _
    · refine touches_after ?_ (State.setReg_touches _ _ _) (by decide)
      exact touches_refl _ _
  clear_value x2
  refine touches_ite ?_ ?_
  · split
    · refine touches_ite ?_ ?_
      · refine touches_after ?_ (State.setAdc_touches _ _ _) (by decide)
        assumption
      · assumption
    · assumption
  · refine touches_ite ?_ ?_
    · refine touches_after ?_ (State.setAdc_touches _ _ _) (by decide)
      assumption
    · assumption

theorem execRouteChange_touches : ∀ a0 a1 a2 a3,
    ∃ t, execRouteChange a0 a1 a2 a3 = .next t ∧ Touches [.regs, .adcs] a3 t := by
  intro a0 a1 a2 a3
  unfold execRouteChange
  refine ⟨_, rfl, ?_⟩
  refine touches_ite ?_ ?_
  · refine touches_after ?_ (routeWrite_touches _ _ _ _) (by decide)
    exact touches_refl _ _
  · exact touches_refl _ _

theorem cmpFollow_touches : ∀ a0 a1,
    Touches [.cyc, .pulses, .regs, .comparators, .pairs] a1 (cmpFollow a0 a1) := by
  intro a0 a1
  unfold cmpFollow
  extract_lets +onlyGivenNames x0
  clear_value x0
  extract_lets +onlyGivenNames x1
  clear_value x1
  refine touches_ite ?_ ?_
  · refine touches_ite ?_ ?_
    · exact touches_refl _ _
    · extract_lets +onlyGivenNames x2
      refine touches_cut x2 ?_ (fun h2 => ?_)
      · unfold x2
        refine touches_after ?_ (notePulse_touches _ _) (by decide)
        refine touches_after ?_ (noteSet_touches _ _ _) (by decide)
        refine touches_after ?_ (State.setReg_touches _ _ _) (by decide)
        exact touches_refl _ _
      clear_value x2
      extract_lets +onlyGivenNames x3
      refine touches_cut x3 ?_ (fun h3 => ?_)
      · unfold x3
        refine touches_ite ?_ ?_
        · refine touches_after ?_ (afeEvent_touches _ _ _) (by decide)
          assumption
        · assumption
      clear_value x3
      refine touches_after ?_ (zonesRefresh_touches _ _) (by decide)
      refine touches_after ?_ (State.setComparator_touches _ _ _) (by decide)
      assumption
  · refine touches_after ?_ (zonesRefresh_touches _ _) (by decide)
    refine touches_after ?_ (State.setComparator_touches _ _ _) (by decide)
    refine touches_after ?_ (State.setBit_touches _ _ _ _) (by decide)
    exact touches_refl _ _

theorem execComparatorActive_touches : ∀ a0 a1,
    ∃ t, execComparatorActive a0 a1 = .next t ∧ Touches [.cyc, .pulses, .regs, .comparators, .pairs] a1 t := by
  intro a0 a1
  unfold execComparatorActive
  refine ⟨_, rfl, ?_⟩
  refine touches_ite ?_ ?_
  · refine touches_after ?_ (cmpFollow_touches _ _) (by decide)
    refine touches_after ?_ (State.setComparator_touches _ _ _) (by decide)
    exact touches_refl _ _
  · exact touches_refl _ _

theorem execComparatorInactive_touches : ∀ a0 a1,
    ∃ t, execComparatorInactive a0 a1 = .next t ∧ Touches [.cyc, .pulses, .regs, .comparators, .pairs] a1 t := by
  intro a0 a1
  unfold execComparatorInactive
  refine ⟨_, rfl, ?_⟩
  refine touches_ite ?_ ?_
  · refine touches_after ?_ (cmpFollow_touches _ _) (by decide)
    refine touches_after ?_ (State.setComparator_touches _ _ _) (by decide)
    exact touches_refl _ _
  · exact touches_refl _ _

theorem zoneInputAssertEff_touches : ∀ a0 a1,
    Touches [.cyc, .regs, .comparators, .pairs] a1 (zoneInputAssertEff a0 a1) := by
  intro a0 a1
  unfold zoneInputAssertEff
  refine touches_ite ?_ ?_
  · refine touches_after ?_ (zonesRefresh_touches _ _) (by decide)
    refine touches_after ?_ (State.setComparator_touches _ _ _) (by decide)
    exact touches_refl _ _
  · exact touches_refl _ _

theorem execZoneInputAssert_touches : ∀ a0 a1,
    ∃ t, execZoneInputAssert a0 a1 = .next t ∧ Touches [.cyc, .regs, .comparators, .pairs] a1 t := by
  intro a0 a1
  unfold execZoneInputAssert
  refine ⟨_, rfl, ?_⟩
  refine touches_ite ?_ ?_
  · refine touches_after ?_ (zoneInputAssertEff_touches _ _) (by decide)
    exact touches_refl _ _
  · exact touches_refl _ _

theorem execBlankingWindowClose_touches : ∀ a0 a1,
    ∃ t, execBlankingWindowClose a0 a1 = .next t ∧ Touches [.cyc, .pulses, .regs, .comparators, .pairs] a1 t := by
  intro a0 a1
  unfold execBlankingWindowClose
  refine ⟨_, rfl, ?_⟩
  refine touches_ite ?_ ?_
  · refine touches_after ?_ (cmpFollow_touches _ _) (by decide)
    refine touches_after ?_ (State.setComparator_touches _ _ _) (by decide)
    exact touches_refl _ _
  · exact touches_refl _ _

theorem execComparatorHoldEnd_touches : ∀ a0 a1,
    ∃ t, execComparatorHoldEnd a0 a1 = .next t ∧ Touches [.cyc, .pulses, .regs, .comparators, .pairs] a1 t := by
  intro a0 a1
  unfold execComparatorHoldEnd
  refine ⟨_, rfl, ?_⟩
  refine touches_ite ?_ ?_
  · refine touches_after ?_ (cmpFollow_touches _ _) (by decide)
    refine touches_after ?_ (State.setComparator_touches _ _ _) (by decide)
    exact touches_refl _ _
  · exact touches_refl _ _

theorem cmpCtlWrite_touches : ∀ a0 a1 a2,
    Touches [.cyc, .pulses, .regs, .comparators, .pairs] a2 (cmpCtlWrite a0 a1 a2) := by
  intro a0 a1 a2
  unfold cmpCtlWrite
  extract_lets +onlyGivenNames x0
  clear_value x0
  extract_lets +onlyGivenNames x1
  clear_value x1
  extract_lets +onlyGivenNames x2
  clear_value x2
  extract_lets +onlyGivenNames x3
  clear_value x3
  extract_lets +onlyGivenNames x4
  clear_value x4
  extract_lets +onlyGivenNames x5
  refine touches_cut x5 ?_ (fun h5 => ?_)
  · unfold x5
    refine touches_after ?_ (State.setComparator_touches _ _ _) (by decide)
    refine touches_after ?_ (State.setReg_touches _ _ _) (by decide)
    exact touches_refl _ _
  clear_value x5
  refine touches_after ?_ (zonesRefresh_touches _ _) (by decide)
  refine touches_after ?_ (cmpFollow_touches _ _) (by decide)
  assumption

theorem blankOpen_touches : ∀ a0 a1 a2,
    Touches [.cyc, .pulses, .regs, .comparators, .pairs] a2 (blankOpen a0 a1 a2) := by
  intro a0 a1 a2
  unfold blankOpen
  extract_lets +onlyGivenNames x0
  clear_value x0
  refine touches_forEach (fun _ _ _ => ?_) ?_
  · extract_lets +onlyGivenNames x1
    clear_value x1
    refine touches_ite ?_ ?_
    · refine touches_after ?_ (cmpFollow_touches _ _) (by decide)
      refine touches_after ?_ (State.setComparator_touches _ _ _) (by decide)
      assumption
    · assumption
  · exact touches_refl _ _

theorem dacRampRestart_touches : ∀ a0 a1,
    Touches [.comparators] a1 (dacRampRestart a0 a1) := by
  intro a0 a1
  unfold dacRampRestart
  extract_lets +onlyGivenNames x0
  clear_value x0
  refine touches_forEach (fun _ _ _ => ?_) ?_
  · refine touches_ite ?_ ?_
    · extract_lets +onlyGivenNames x1
      clear_value x1
      refine touches_after ?_ (State.setComparator_touches _ _ _) (by decide)
      assumption
    · assumption
  · exact touches_refl _ _

theorem dacRampTick_touches : ∀ a0,
    Touches [.comparators] a0 (dacRampTick a0) := by
  intro a0
  unfold dacRampTick
  refine touches_forEach (fun _ _ _ => ?_) ?_
  · refine touches_ite ?_ ?_
    · refine touches_after ?_ (State.setComparator_touches _ _ _) (by decide)
      assumption
    · assumption
  · exact touches_refl _ _

theorem cmpRampWrite_touches : ∀ a0 a1 a2,
    Touches [.regs, .comparators] a2 (cmpRampWrite a0 a1 a2) := by
  intro a0 a1 a2
  unfold cmpRampWrite
  extract_lets +onlyGivenNames x0
  refine touches_cut x0 ?_ (fun h0 => ?_)
  · unfold x0
    refine touches_after ?_ (State.setReg_touches _ _ _) (by decide)
    exact touches_refl _ _
  clear_value x0
  refine touches_ite ?_ ?_
  · assumption
  · refine touches_after ?_ (State.setComparator_touches _ _ _) (by decide)
    assumption

theorem spoilDemod_touches : ∀ a0 a1 a2,
    Touches [.freeCtr, .cyc, .regs, .channels, .demods, .sectors] a2 (spoilDemod a0 a1 a2) := by
  intro a0 a1 a2
  unfold spoilDemod
  extract_lets +onlyGivenNames x0
  clear_value x0
  extract_lets +onlyGivenNames x1
  refine touches_cut x1 ?_ (fun h1 => ?_)
  · unfold x1
    refine touches_after ?_ (takeState_touches _) (by decide)
    exact touches_refl _ _
  clear_value x1
  extract_lets +onlyGivenNames x2
  clear_value x2
  refine touches_after ?_ (channelWrite_touches _ _ _ _ _ _) (by decide)
  refine touches_after ?_ (State.setReg_touches _ _ _) (by decide)
  refine touches_after ?_ (State.setDemod_touches _ _ _) (by decide)
  assumption

theorem sdDecimate_touches : ∀ a0 a1 a2,
    Touches [.freeCtr, .cyc, .regs, .channels, .demods, .sectors] a2 (sdDecimate a0 a1 a2) := by
  intro a0 a1 a2
  unfold sdDecimate
  extract_lets +onlyGivenNames x0
  clear_value x0
  extract_lets +onlyGivenNames x1
  clear_value x1
  refine touches_ite ?_ ?_
  · extract_lets +onlyGivenNames x2
    clear_value x2
    extract_lets +onlyGivenNames x3
    clear_value x3
    extract_lets +onlyGivenNames x4
    clear_value x4
    extract_lets +onlyGivenNames x5
    clear_value x5
    extract_lets +onlyGivenNames x6
    clear_value x6
    extract_lets +onlyGivenNames x7
    clear_value x7
    extract_lets +onlyGivenNames x8
    clear_value x8
    refine touches_ite ?_ ?_
    · refine touches_after ?_ (spoilDemod_touches _ _ _) (by decide)
      exact touches_refl _ _
    · refine touches_ite ?_ ?_
      · refine touches_after ?_ (State.setDemod_touches _ _ _) (by decide)
        exact touches_refl _ _
      · extract_lets +onlyGivenNames x9
        refine touches_cut x9 ?_ (fun h9 => ?_)
        · unfold x9
          refine touches_after ?_ (State.setBit_touches _ _ _ _) (by decide)
          refine touches_after ?_ (State.setDemod_touches _ _ _) (by decide)
          exact touches_refl _ _
        clear_value x9
        refine touches_after ?_ (channelWrite_touches _ _ _ _ _ _) (by decide)
        assumption
  · exact touches_refl _ _

theorem sdCtlWrite_touches : ∀ a0 a1 a2,
    Touches [.regs, .demods] a2 (sdCtlWrite a0 a1 a2) := by
  intro a0 a1 a2
  unfold sdCtlWrite
  extract_lets +onlyGivenNames x0
  clear_value x0
  extract_lets +onlyGivenNames x1
  refine touches_cut x1 ?_ (fun h1 => ?_)
  · unfold x1
    refine touches_after ?_ (State.setReg_touches _ _ _) (by decide)
    exact touches_refl _ _
  clear_value x1
  refine touches_ite ?_ ?_
  · refine touches_ite ?_ ?_
    · refine touches_after ?_ (State.setDemod_touches _ _ _) (by decide)
      assumption
    · refine touches_after ?_ (State.setDemod_touches _ _ _) (by decide)
      assumption
  · refine touches_after ?_ (State.setBit_touches _ _ _ _) (by decide)
    refine touches_after ?_ (State.setDemod_touches _ _ _) (by decide)
    assumption

theorem execSdDecimation_touches : ∀ a0 a1 a2,
    ∃ t, execSdDecimation a0 a1 a2 = .next t ∧ Touches [.freeCtr, .cyc, .regs, .channels, .demods, .sectors] a2 t := by
  intro a0 a1 a2
  unfold execSdDecimation
  refine ⟨_, rfl, ?_⟩
  refine touches_ite ?_ ?_
  · refine touches_after ?_ (sdDecimate_touches _ _ _) (by decide)
    exact touches_refl _ _
  · exact touches_refl _ _

theorem execSdSync_touches : ∀ a0 a1 a2,
    ∃ t, execSdSync a0 a1 a2 = .next t ∧ Touches [.demods] a2 t := by
  intro a0 a1 a2
  unfold execSdSync
  refine ⟨_, rfl, ?_⟩
  refine touches_ite ?_ ?_
  · refine touches_after ?_ (State.setDemod_touches _ _ _) (by decide)
    exact touches_refl _ _
  · exact touches_refl _ _

theorem sdClkLostEff_touches : ∀ a0 a1,
    Touches [.cyc, .regs, .demods] a1 (sdClkLostEff a0 a1) := by
  intro a0 a1
  unfold sdClkLostEff
  extract_lets +onlyGivenNames x0
  clear_value x0
  refine touches_after ?_ (afeEvent_touches _ _ _) (by decide)
  refine touches_after ?_ (State.setDemod_touches _ _ _) (by decide)
  refine touches_after ?_ (noteSet_touches _ _ _) (by decide)
  refine touches_after ?_ (State.setReg_touches _ _ _) (by decide)
  exact touches_refl _ _

theorem execSdClkLost_touches : ∀ a0 a1,
    ∃ t, execSdClkLost a0 a1 = .next t ∧ Touches [.cyc, .regs, .demods] a1 t := by
  intro a0 a1
  unfold execSdClkLost
  refine ⟨_, rfl, ?_⟩
  refine touches_ite ?_ ?_
  · refine touches_after ?_ (sdClkLostEff_touches _ _) (by decide)
    exact touches_refl _ _
  · exact touches_refl _ _

theorem execSdClkReturn_touches : ∀ a0 a1,
    ∃ t, execSdClkReturn a0 a1 = .next t ∧ Touches [.demods] a1 t := by
  intro a0 a1
  unfold execSdClkReturn
  refine ⟨_, rfl, ?_⟩
  refine touches_ite ?_ ?_
  · refine touches_after ?_ (State.setDemod_touches _ _ _) (by decide)
    exact touches_refl _ _
  · exact touches_refl _ _

theorem execSdOverrange_touches : ∀ a0 a1,
    ∃ t, execSdOverrange a0 a1 = .next t ∧ Touches [.cyc, .regs] a1 t := by
  intro a0 a1
  unfold execSdOverrange
  refine ⟨_, rfl, ?_⟩
  refine touches_ite ?_ ?_
  · refine touches_after ?_ (afeEvent_touches _ _ _) (by decide)
    refine touches_after ?_ (noteSet_touches _ _ _) (by decide)
    refine touches_after ?_ (State.setReg_touches _ _ _) (by decide)
    exact touches_refl _ _
  · exact touches_refl _ _

theorem calStepEff_touches : ∀ a0 a1,
    Touches [.regs] a1 (calStepEff a0 a1) := by
  intro a0 a1
  unfold calStepEff
  refine touches_ite ?_ ?_
  · refine touches_after ?_ (setCalPhase_touches _ _ _) (by decide)
    exact touches_refl _ _
  · exact touches_refl _ _

theorem execCalStep_touches : ∀ a0 a1,
    ∃ t, execCalStep a0 a1 = .next t ∧ Touches [.regs] a1 t := by
  intro a0 a1
  unfold execCalStep
  refine ⟨_, rfl, ?_⟩
  refine touches_ite ?_ ?_
  · refine touches_after ?_ (calStepEff_touches _ _) (by decide)
    exact touches_refl _ _
  · exact touches_refl _ _

theorem stampCal_touches : ∀ a0 a1 a2,
    Touches [.sectors] a2 (stampCal a0 a1 a2) := by
  intro a0 a1 a2
  unfold stampCal
  extract_lets +onlyGivenNames x0
  clear_value x0
  refine touches_after ?_ (State.setSector_touches _ _ _) (by decide)
  exact touches_refl _ _

theorem calFailed_touches : ∀ a0 a1 a2,
    Touches [.freeCtr, .cyc, .regs, .log, .canNode] a2 (calFailed a0 a1 a2) := by
  intro a0 a1 a2
  unfold calFailed
  refine touches_after ?_ (raiseTs_touches _ _) (by decide)
  refine touches_after ?_ (logOpen_touches _ _ _ _ _) (by decide)
  refine touches_after ?_ (afeEvent_touches _ _ _) (by decide)
  refine touches_after ?_ (State.setBit_touches _ _ _ _) (by decide)
  exact touches_refl _ _

theorem calDoneEff_touches : ∀ a0 a1 a2,
    Touches [.freeCtr, .cyc, .regs, .log, .adcs, .sectors, .canNode] a2 (calDoneEff a0 a1 a2) := by
  intro a0 a1 a2
  unfold calDoneEff
  split
  · extract_lets +onlyGivenNames x0
    clear_value x0
    refine touches_ite ?_ ?_
    · extract_lets +onlyGivenNames x1
      clear_value x1
      extract_lets +onlyGivenNames x2
      refine touches_cut x2 ?_ (fun h2 => ?_)
      · unfold x2
        refine touches_after ?_ (setCalPhase_touches _ _ _) (by decide)
        refine touches_after ?_ (State.setSector_touches _ _ _) (by decide)
        exact touches_refl _ _
      clear_value x2
      extract_lets +onlyGivenNames x3
      refine touches_cut x3 ?_ (fun h3 => ?_)
      · unfold x3
        split
        · refine touches_after ?_ (State.setAdc_touches _ _ _) (by decide)
          assumption
        · assumption
      clear_value x3
      refine touches_ite ?_ ?_
      · refine touches_after ?_ (stampCal_touches _ _ _) (by decide)
        assumption
      · refine touches_after ?_ (calFailed_touches _ _ _) (by decide)
        assumption
    · exact touches_refl _ _
  · refine touches_ite ?_ ?_
    · refine touches_ite ?_ ?_
      · refine touches_after ?_ (setCalPhase_touches _ _ _) (by decide)
        exact touches_refl _ _
      · refine touches_after ?_ (setCalPhase_touches _ _ _) (by decide)
        refine touches_after ?_ (calFailed_touches _ _ _) (by decide)
        exact touches_refl _ _
    · exact touches_refl _ _

theorem execCalDone_touches : ∀ a0 a1 a2,
    ∃ t, execCalDone a0 a1 a2 = .next t ∧ Touches [.freeCtr, .cyc, .regs, .log, .adcs, .sectors, .canNode] a2 t := by
  intro a0 a1 a2
  unfold execCalDone
  refine ⟨_, rfl, ?_⟩
  refine touches_ite ?_ ?_
  · refine touches_after ?_ (calDoneEff_touches _ _ _) (by decide)
    exact touches_refl _ _
  · exact touches_refl _ _

theorem calSwapEff_touches : ∀ a0 a1,
    Touches [.regs, .adcs, .sectors] a1 (calSwapEff a0 a1) := by
  intro a0 a1
  unfold calSwapEff
  extract_lets +onlyGivenNames x0
  clear_value x0
  extract_lets +onlyGivenNames x1
  clear_value x1
  refine touches_ite ?_ ?_
  · refine touches_after ?_ (setCalPhase_touches _ _ _) (by decide)
    refine touches_after ?_ (stampCal_touches _ _ _) (by decide)
    refine touches_after ?_ (State.setAdc_touches _ _ _) (by decide)
    refine touches_after ?_ (State.setFld_touches _ _ _ _ _) (by decide)
    exact touches_refl _ _
  · exact touches_refl _ _

theorem execCalSwap_touches : ∀ a0 a1,
    ∃ t, execCalSwap a0 a1 = .next t ∧ Touches [.regs, .adcs, .sectors] a1 t := by
  intro a0 a1
  unfold execCalSwap
  refine ⟨_, rfl, ?_⟩
  refine touches_ite ?_ ?_
  · refine touches_after ?_ (calSwapEff_touches _ _) (by decide)
    exact touches_refl _ _
  · exact touches_refl _ _

theorem execCalSkip_touches : ∀ a0 a1,
    ∃ t, execCalSkip a0 a1 = .next t ∧ Touches [.cyc, .regs] a1 t := by
  intro a0 a1
  unfold execCalSkip
  refine ⟨_, rfl, ?_⟩
  refine touches_ite ?_ ?_
  · refine touches_after ?_ (afeEvent_touches _ _ _) (by decide)
    refine touches_after ?_ (setCalPhase_touches _ _ _) (by decide)
    exact touches_refl _ _
  · exact touches_refl _ _

theorem calRequest_touches : ∀ a0 a1 a2,
    Touches [.regs, .adcs, .sectors] a2 (calRequest a0 a1 a2) := by
  intro a0 a1 a2
  unfold calRequest
  extract_lets +onlyGivenNames x0
  clear_value x0
  extract_lets +onlyGivenNames x1
  refine touches_cut x1 ?_ (fun h1 => ?_)
  · unfold x1
    refine touches_after ?_ (State.setSector_touches _ _ _) (by decide)
    exact touches_refl _ _
  clear_value x1
  split
  · extract_lets +onlyGivenNames x2
    clear_value x2
    extract_lets +onlyGivenNames x3
    refine touches_cut x3 ?_ (fun h3 => ?_)
    · unfold x3
      refine touches_after ?_ (State.setAdc_touches _ _ _) (by decide)
      assumption
    clear_value x3
    refine touches_ite ?_ ?_
    · assumption
    · refine touches_after ?_ (setCalPhase_touches _ _ _) (by decide)
      assumption
  · refine touches_after ?_ (setCalPhase_touches _ _ _) (by decide)
    assumption

theorem calCtlWrite_touches : ∀ a0 a1 a2,
    Touches [.cyc, .regs, .adcs, .sectors] a2 (calCtlWrite a0 a1 a2) := by
  intro a0 a1 a2
  unfold calCtlWrite
  extract_lets +onlyGivenNames x0
  clear_value x0
  extract_lets +onlyGivenNames x1
  refine touches_cut x1 ?_ (fun h1 => ?_)
  · unfold x1
    refine touches_after ?_ (State.setReg_touches _ _ _) (by decide)
    exact touches_refl _ _
  clear_value x1
  extract_lets +onlyGivenNames x2
  clear_value x2
  extract_lets +onlyGivenNames x3
  clear_value x3
  refine touches_ite ?_ ?_
  · refine touches_ite ?_ ?_
    · assumption
    · extract_lets +onlyGivenNames x4
      refine touches_cut x4 ?_ (fun h4 => ?_)
      · unfold x4
        refine touches_after ?_ (State.setAdc_touches _ _ _) (by decide)
        refine touches_after ?_ (State.setFld_touches _ _ _ _ _) (by decide)
        assumption
      clear_value x4
      refine touches_forEach (fun _ _ _ => ?_) ?_
      · refine touches_after ?_ (trigUnavailable_touches _ _) (by decide)
        assumption
      · assumption
  · extract_lets +onlyGivenNames x5
    refine touches_cut x5 ?_ (fun h5 => ?_)
    · unfold x5
      refine touches_ite ?_ ?_
      · refine touches_after ?_ (setCalPhase_touches _ _ _) (by decide)
        refine touches_after ?_ (State.setAdc_touches _ _ _) (by decide)
        assumption
      · assumption
    clear_value x5
    refine touches_ite ?_ ?_
    · refine touches_after ?_ (calRequest_touches _ _ _) (by decide)
      assumption
    · assumption

theorem execRotate_touches : ∀ a0 a1 a2,
    ∃ t, execRotate a0 a1 a2 = .next t ∧ Touches [.cyc, .regs, .adcs, .sectors] a2 t := by
  intro a0 a1 a2
  unfold execRotate
  refine ⟨_, rfl, ?_⟩
  refine touches_ite ?_ ?_
  · refine touches_after ?_ (calCtlWrite_touches _ _ _) (by decide)
    exact touches_refl _ _
  · exact touches_refl _ _

theorem execCalReq_touches : ∀ a0 a1 a2,
    ∃ t, execCalReq a0 a1 a2 = .next t ∧ Touches [.cyc, .regs, .adcs, .sectors] a2 t := by
  intro a0 a1 a2
  unfold execCalReq
  refine ⟨_, rfl, ?_⟩
  refine touches_ite ?_ ?_
  · refine touches_after ?_ (calCtlWrite_touches _ _ _) (by decide)
    exact touches_refl _ _
  · exact touches_refl _ _

end Sys2Proof.Machine
end

