-- ==== Sys2Proof/Laws/TouchPwm.lean ====
section
/-! SUPPORT. Which parts of the state the definitions of Machine/Pwm.lean touch: one lemma for each, the proofs written by a
script from their shape. -/

namespace Sys2Proof.Machine

theorem outputNow_touches : ∀ a0 a1 a2 a3,
    Touches [.cyc, .pulses, .regs, .comparators, .pairs] a3 (outputNow a0 a1 a2 a3) := by
  intro a0 a1 a2 a3
  unfold outputNow
  extract_lets +onlyGivenNames x0
  clear_value x0
  extract_lets +onlyGivenNames x1
  clear_value x1
  extract_lets +onlyGivenNames x2
  refine touches_cut x2 ?_ (fun h2 => ?_)
  · unfold x2
    refine touches_after ?_ (State.setPair_touches _ _ _) (by decide)
    exact touches_refl _ _
  clear_value x2
  refine touches_ite ?_ ?_
  · assumption
  · refine touches_after ?_ (blankOpen_touches _ _ _) (by decide)
    assumption

theorem outputRise_touches : ∀ a0 a1 a2,
    Touches [.cyc, .pulses, .regs, .comparators, .pairs] a2 (outputRise a0 a1 a2) := by
  intro a0 a1 a2
  unfold outputRise
  extract_lets +onlyGivenNames x0
  clear_value x0
  refine touches_ite ?_ ?_
  · exact touches_refl _ _
  · refine touches_ite ?_ ?_
    · refine touches_after ?_ (outputNow_touches _ _ _ _) (by decide)
      exact touches_refl _ _
    · refine touches_after ?_ (State.setPair_touches _ _ _) (by decide)
      exact touches_refl _ _

theorem drivePair_touches : ∀ a0 a1 a2 a3,
    Touches [.cyc, .pulses, .regs, .comparators, .pairs] a3 (drivePair a0 a1 a2 a3) := by
  intro a0 a1 a2 a3
  unfold drivePair
  extract_lets +onlyGivenNames x0
  refine touches_cut x0 ?_ (fun h0 => ?_)
  · unfold x0
    refine touches_ite ?_ ?_
    · exact touches_refl _ _
    · refine touches_after ?_ (outputNow_touches _ _ _ _) (by decide)
      exact touches_refl _ _
  clear_value x0
  extract_lets +onlyGivenNames x1
  refine touches_cut x1 ?_ (fun h1 => ?_)
  · unfold x1
    refine touches_ite ?_ ?_
    · assumption
    · refine touches_after ?_ (outputNow_touches _ _ _ _) (by decide)
      assumption
  clear_value x1
  extract_lets +onlyGivenNames x2
  refine touches_cut x2 ?_ (fun h2 => ?_)
  · unfold x2
    refine touches_ite ?_ ?_
    · refine touches_after ?_ (outputRise_touches _ _ _) (by decide)
      assumption
    · assumption
  clear_value x2
  refine touches_ite ?_ ?_
  · refine touches_after ?_ (outputRise_touches _ _ _) (by decide)
    assumption
  · assumption

theorem resumePair_touches : ∀ a0 a1,
    Touches [.cyc, .pulses, .regs, .comparators, .pairs] a1 (resumePair a0 a1) := by
  intro a0 a1
  unfold resumePair
  refine touches_ite ?_ ?_
  · exact touches_refl _ _
  · split
    · refine touches_after ?_ (drivePair_touches _ _ _ _) (by decide)
      exact touches_refl _ _
    · refine touches_after ?_ (drivePair_touches _ _ _ _) (by decide)
      exact touches_refl _ _
    · refine touches_after ?_ (drivePair_touches _ _ _ _) (by decide)
      exact touches_refl _ _
    · refine touches_after ?_ (drivePair_touches _ _ _ _) (by decide)
      exact touches_refl _ _

theorem placeEdge_touches : ∀ a0 a1 a2 a3,
    Touches [.cyc, .pulses, .regs, .comparators, .pairs] a3 (placeEdge a0 a1 a2 a3) := by
  intro a0 a1 a2 a3
  unfold placeEdge
  extract_lets +onlyGivenNames x0
  clear_value x0
  extract_lets +onlyGivenNames x1
  clear_value x1
  extract_lets +onlyGivenNames x2
  refine touches_cut x2 ?_ (fun h2 => ?_)
  · unfold x2
    refine touches_after ?_ (State.setPair_touches _ _ _) (by decide)
    exact touches_refl _ _
  clear_value x2
  refine touches_ite ?_ ?_
  · refine touches_ite ?_ ?_
    · refine touches_ite ?_ ?_
      · refine touches_after ?_ (outputRise_touches _ _ _) (by decide)
        assumption
      · refine touches_after ?_ (outputNow_touches _ _ _ _) (by decide)
        assumption
    · refine touches_ite ?_ ?_
      · refine touches_after ?_ (drivePair_touches _ _ _ _) (by decide)
        assumption
      · assumption
  · assumption

theorem pwmEdgeEff_touches : ∀ a0 a1 a2 a3,
    Touches [.cyc, .pulses, .regs, .comparators, .pairs] a3 (pwmEdgeEff a0 a1 a2 a3) := by
  intro a0 a1 a2 a3
  unfold pwmEdgeEff
  extract_lets +onlyGivenNames x0
  clear_value x0
  extract_lets +onlyGivenNames x1
  clear_value x1
  extract_lets +onlyGivenNames x2
  clear_value x2
  split
  · refine touches_ite ?_ ?_
    · refine touches_after ?_ (placeEdge_touches _ _ _ _) (by decide)
      refine touches_after ?_ (State.setPair_touches _ _ _) (by decide)
      exact touches_refl _ _
    · exact touches_refl _ _
  · refine touches_ite ?_ ?_
    · refine touches_after ?_ (placeEdge_touches _ _ _ _) (by decide)
      refine touches_after ?_ (State.setPair_touches _ _ _) (by decide)
      exact touches_refl _ _
    · exact touches_refl _ _
  · refine touches_ite ?_ ?_
    · refine touches_ite ?_ ?_
      · refine touches_after ?_ (State.setPair_touches _ _ _) (by decide)
        exact touches_refl _ _
      · exact touches_refl _ _
    · refine touches_ite ?_ ?_
      · refine touches_after ?_ (outputNow_touches _ _ _ _) (by decide)
        exact touches_refl _ _
      · exact touches_refl _ _

theorem lateSlot_touches : ∀ a0 a1 a2 a3,
    Touches [.cyc, .pulses, .regs, .comparators, .pairs] a3 (lateSlot a0 a1 a2 a3) := by
  intro a0 a1 a2 a3
  unfold lateSlot
  extract_lets +onlyGivenNames x0
  clear_value x0
  extract_lets +onlyGivenNames x1
  clear_value x1
  refine touches_ite ?_ ?_
  · extract_lets +onlyGivenNames x2
    clear_value x2
    refine touches_after ?_ (pwmEvent_touches _ _ _) (by decide)
    refine touches_after ?_ (placeEdge_touches _ _ _ _) (by decide)
    refine touches_after ?_ (State.setPair_touches _ _ _) (by decide)
    exact touches_refl _ _
  · extract_lets +onlyGivenNames x3
    clear_value x3
    refine touches_after ?_ (pwmEvent_touches _ _ _) (by decide)
    refine touches_after ?_ (State.setPair_touches _ _ _) (by decide)
    exact touches_refl _ _

theorem holdFull_touches : ∀ a0 a1 a2 a3,
    Touches [.cyc, .pulses, .regs, .comparators, .pairs] a3 (holdFull a0 a1 a2 a3) := by
  intro a0 a1 a2 a3
  unfold holdFull
  refine touches_ite ?_ ?_
  · refine touches_after ?_ (placeEdge_touches _ _ _ _) (by decide)
    exact touches_refl _ _
  · exact touches_refl _ _

theorem activeLoadAt_touches : ∀ a0 a1 a2 a3 a4 a5,
    Touches [.cyc, .pulses, .regs, .comparators, .pairs] a5 (activeLoadAt a0 a1 a2 a3 a4 a5) := by
  intro a0 a1 a2 a3 a4 a5
  unfold activeLoadAt
  extract_lets +onlyGivenNames x0
  refine touches_cut x0 ?_ (fun h0 => ?_)
  · unfold x0
    refine touches_after ?_ (State.setReg_touches _ _ _) (by decide)
    exact touches_refl _ _
  clear_value x0
  refine touches_ite ?_ ?_
  · refine touches_foldl (fun _ _ _ => ?_) ?_
    · refine touches_after ?_ (lateSlot_touches _ _ _ _) (by decide)
      assumption
    · refine touches_after ?_ (holdFull_touches _ _ _ _) (by decide)
      assumption
  · assumption

theorem activeLoad_touches : ∀ a0 a1 a2 a3,
    Touches [.cyc, .pulses, .regs, .comparators, .pairs] a3 (activeLoad a0 a1 a2 a3) := by
  intro a0 a1 a2 a3
  unfold activeLoad
  refine touches_after ?_ (activeLoadAt_touches _ _ _ _ _ _) (by decide)
  exact touches_refl _ _

theorem takeMode_touches : ∀ a0 a1 a2,
    Touches [.cyc, .pulses, .regs, .comparators, .pairs] a2 (takeMode a0 a1 a2) := by
  intro a0 a1 a2
  unfold takeMode
  refine touches_after ?_ (resumePair_touches _ _) (by decide)
  refine touches_after ?_ (State.setPair_touches _ _ _) (by decide)
  exact touches_refl _ _

theorem shadowLoad_touches : ∀ a0 a1 a2 a3 a4,
    Touches [.cyc, .pulses, .regs, .comparators, .pairs] a4 (shadowLoad a0 a1 a2 a3 a4) := by
  intro a0 a1 a2 a3 a4
  unfold shadowLoad
  refine touches_ite ?_ ?_
  · exact touches_refl _ _
  · refine touches_after ?_ (activeLoadAt_touches _ _ _ _ _ _) (by decide)
    exact touches_refl _ _

theorem loadPoint_touches : ∀ a0 a1 a2 a3,
    Touches [.cyc, .pulses, .regs, .comparators, .pairs] a3 (loadPoint a0 a1 a2 a3) := by
  intro a0 a1 a2 a3
  unfold loadPoint
  extract_lets +onlyGivenNames x0
  clear_value x0
  extract_lets +onlyGivenNames x1
  clear_value x1
  refine touches_ite ?_ ?_
  · refine touches_after ?_ (takeMode_touches _ _ _) (by decide)
    refine touches_after ?_ (shadowLoad_touches _ _ _ _ _) (by decide)
    refine touches_after ?_ (shadowLoad_touches _ _ _ _ _) (by decide)
    exact touches_refl _ _
  · exact touches_refl _ _

theorem lateRelease_touches : ∀ a0 a1,
    Touches [.cyc, .pulses, .regs, .comparators, .pairs] a1 (lateRelease a0 a1) := by
  intro a0 a1
  unfold lateRelease
  split
  · exact touches_refl _ _
  · refine touches_after ?_ (holdFull_touches _ _ _ _) (by decide)
    refine touches_after ?_ (State.setReg_touches _ _ _) (by decide)
    refine touches_after ?_ (State.setPair_touches _ _ _) (by decide)
    exact touches_refl _ _

theorem pairZero_touches : ∀ a0 a1,
    Touches [.cyc, .pulses, .regs, .comparators, .pairs] a1 (pairZero a0 a1) := by
  intro a0 a1
  unfold pairZero
  extract_lets +onlyGivenNames x0
  clear_value x0
  extract_lets +onlyGivenNames x1
  clear_value x1
  extract_lets +onlyGivenNames x2
  unfold x2
  clear x2
  extract_lets +onlyGivenNames x3
  clear_value x3
  extract_lets +onlyGivenNames x4
  clear_value x4
  extract_lets +onlyGivenNames x5
  refine touches_cut x5 ?_ (fun h5 => ?_)
  · unfold x5
    refine touches_after ?_ (State.setPair_touches _ _ _) (by decide)
    exact touches_refl _ _
  clear_value x5
  extract_lets +onlyGivenNames x6
  refine touches_cut x6 ?_ (fun h6 => ?_)
  · unfold x6
    refine touches_ite ?_ ?_
    · refine touches_after ?_ (lateRelease_touches _ _) (by decide)
      assumption
    · assumption
  clear_value x6
  refine touches_after ?_ (loadPoint_touches _ _ _ _) (by decide)
  assumption

theorem pairPeak_touches : ∀ a0 a1,
    Touches [.cyc, .pulses, .regs, .comparators, .pairs] a1 (pairPeak a0 a1) := by
  intro a0 a1
  unfold pairPeak
  extract_lets +onlyGivenNames x0
  clear_value x0
  refine touches_ite ?_ ?_
  · refine touches_after ?_ (loadPoint_touches _ _ _ _) (by decide)
    refine touches_after ?_ (State.setPair_touches _ _ _) (by decide)
    exact touches_refl _ _
  · exact touches_refl _ _

theorem restartSlots_touches : ∀ a0 a1,
    Touches [.cyc, .pulses, .regs, .comparators, .pairs] a1 (restartSlots a0 a1) := by
  intro a0 a1
  unfold restartSlots
  extract_lets +onlyGivenNames x0
  clear_value x0
  extract_lets +onlyGivenNames x1
  clear_value x1
  extract_lets +onlyGivenNames x2
  clear_value x2
  extract_lets +onlyGivenNames x3
  clear_value x3
  extract_lets +onlyGivenNames x4
  clear_value x4
  extract_lets +onlyGivenNames x5
  clear_value x5
  extract_lets +onlyGivenNames x6
  refine touches_cut x6 ?_ (fun h6 => ?_)
  · unfold x6
    refine touches_ite ?_ ?_
    · refine touches_after ?_ (State.setPair_touches _ _ _) (by decide)
      exact touches_refl _ _
    · exact touches_refl _ _
  clear_value x6
  refine touches_forEach (fun _ _ _ => ?_) ?_
  · extract_lets +onlyGivenNames x7
    refine touches_ite ?_ ?_
    · extract_lets +onlyGivenNames x8
      clear_value x8
      extract_lets +onlyGivenNames x9
      clear_value x9
      refine touches_foldl (fun _ _ _ => ?_) ?_
      · refine touches_after ?_ (lateSlot_touches _ _ _ _) (by decide)
        assumption
      · assumption
    · assumption
  · assumption

theorem armHandover_touches : ∀ a0 a1,
    Touches [.cyc, .pulses, .regs, .comparators, .pairs] a1 (armHandover a0 a1) := by
  intro a0 a1
  unfold armHandover
  refine touches_ite ?_ ?_
  · extract_lets +onlyGivenNames x0
    refine touches_cut x0 ?_ (fun h0 => ?_)
    · unfold x0
      refine touches_forEach (fun _ _ _ => ?_) ?_
      · refine touches_after ?_ (State.setPair_touches _ _ _) (by decide)
        assumption
      · refine touches_after ?_ (State.setFld_touches _ _ _ _ _) (by decide)
        exact touches_refl _ _
    clear_value x0
    refine touches_ite ?_ ?_
    · refine touches_after ?_ (tripGroup_touches _ _) (by decide)
      assumption
    · refine touches_forEach (fun _ _ _ => ?_) ?_
      · refine touches_after ?_ (resumePair_touches _ _) (by decide)
        assumption
      · assumption
  · exact touches_refl _ _

theorem burstStep_touches : ∀ a0 a1,
    Touches [.cyc, .pulses, .regs, .comparators, .pairs, .groups] a1 (burstStep a0 a1) := by
  intro a0 a1
  unfold burstStep
  extract_lets +onlyGivenNames x0
  clear_value x0
  refine touches_ite ?_ ?_
  · extract_lets +onlyGivenNames x1
    clear_value x1
    extract_lets +onlyGivenNames x2
    clear_value x2
    extract_lets +onlyGivenNames x3
    clear_value x3
    extract_lets +onlyGivenNames x4
    refine touches_cut x4 ?_ (fun h4 => ?_)
    · unfold x4
      refine touches_after ?_ (State.setGroup_touches _ _ _) (by decide)
      exact touches_refl _ _
    clear_value x4
    refine touches_ite ?_ ?_
    · refine touches_forEach (fun _ _ _ => ?_) ?_
      · refine touches_after ?_ (drivePair_touches _ _ _ _) (by decide)
        assumption
      · assumption
    · refine touches_ite ?_ ?_
      · refine touches_forEach (fun _ _ _ => ?_) ?_
        · refine touches_after ?_ (resumePair_touches _ _) (by decide)
          assumption
        · assumption
      · assumption
  · extract_lets +onlyGivenNames x5
    refine touches_cut x5 ?_ (fun h5 => ?_)
    · unfold x5
      refine touches_after ?_ (State.setGroup_touches _ _ _) (by decide)
      exact touches_refl _ _
    clear_value x5
    refine touches_ite ?_ ?_
    · refine touches_forEach (fun _ _ _ => ?_) ?_
      · refine touches_after ?_ (resumePair_touches _ _) (by decide)
        assumption
      · assumption
    · assumption

theorem periodStart_touches : ∀ a0 a1 a2 a3,
    Touches [.cyc, .pulses, .regs, .comparators, .pairs, .groups] a3 (periodStart a0 a1 a2 a3) := by
  intro a0 a1 a2 a3
  unfold periodStart
  extract_lets +onlyGivenNames x0
  refine touches_cut x0 ?_ (fun h0 => ?_)
  · unfold x0
    refine touches_after ?_ (State.setReg_touches _ _ _) (by decide)
    exact touches_refl _ _
  clear_value x0
  extract_lets +onlyGivenNames x1
  clear_value x1
  extract_lets +onlyGivenNames x2
  refine touches_cut x2 ?_ (fun h2 => ?_)
  · unfold x2
    refine touches_after ?_ (notePulse_touches _ _) (by decide)
    refine touches_after ?_ (State.setGroup_touches _ _ _) (by decide)
    assumption
  clear_value x2
  extract_lets +onlyGivenNames x3
  refine touches_cut x3 ?_ (fun h3 => ?_)
  · unfold x3
    refine touches_after ?_ (dacRampRestart_touches _ _) (by decide)
    refine touches_after ?_ (burstStep_touches _ _) (by decide)
    refine touches_after ?_ (armHandover_touches _ _) (by decide)
    refine touches_after ?_ (pwmEvent_touches _ _ _) (by decide)
    assumption
  clear_value x3
  refine touches_forEach (fun _ _ _ => ?_) ?_
  · refine touches_ite ?_ ?_
    · refine touches_after ?_ (restartSlots_touches _ _) (by decide)
      refine touches_after ?_ (pairZero_touches _ _) (by decide)
      refine touches_after ?_ (State.setPair_touches _ _ _) (by decide)
      assumption
    · refine touches_ite ?_ ?_
      · refine touches_after ?_ (pairZero_touches _ _) (by decide)
        assumption
      · assumption
  · assumption

theorem spoilGroup_touches : ∀ a0 a1,
    Touches [.freeCtr, .regs, .pairs, .groups] a1 (spoilGroup a0 a1) := by
  intro a0 a1
  unfold spoilGroup
  extract_lets +onlyGivenNames x0
  clear_value x0
  extract_lets +onlyGivenNames x1
  refine touches_cut x1 ?_ (fun h1 => ?_)
  · unfold x1
    refine touches_after ?_ (spoilRegs_touches _ _ _) (by decide)
    refine touches_after ?_ (takeState_touches _) (by decide)
    exact touches_refl _ _
  clear_value x1
  extract_lets +onlyGivenNames x2
  refine touches_cut x2 ?_ (fun h2 => ?_)
  · unfold x2
    refine touches_after ?_ (State.setReg_touches _ _ _) (by decide)
    assumption
  clear_value x2
  extract_lets +onlyGivenNames x3
  refine touches_cut x3 ?_ (fun h3 => ?_)
  · unfold x3
    refine touches_forEach (fun _ _ _ => ?_) ?_
    · refine touches_after ?_ (State.setPair_touches _ _ _) (by decide)
      assumption
    · assumption
  clear_value x3
  refine touches_after ?_ (State.setGroup_touches _ _ _) (by decide)
  assumption

theorem carrierPeriodEff_touches : ∀ a0 a1 a2,
    Touches [.freeCtr, .cyc, .pulses, .regs, .comparators, .pairs, .groups] a2 (carrierPeriodEff a0 a1 a2) := by
  intro a0 a1 a2
  unfold carrierPeriodEff
  refine touches_ite ?_ ?_
  · refine touches_after ?_ (spoilGroup_touches _ _) (by decide)
    exact touches_refl _ _
  · split
    · refine touches_ite ?_ ?_
      · refine touches_after ?_ (State.setGroup_touches _ _ _) (by decide)
        refine touches_after ?_ (State.setReg_touches _ _ _) (by decide)
        exact touches_refl _ _
      · refine touches_ite ?_ ?_
        · refine touches_after ?_ (periodStart_touches _ _ _ _) (by decide)
          exact touches_refl _ _
        · refine touches_after ?_ (periodStart_touches _ _ _ _) (by decide)
          exact touches_refl _ _
    · refine touches_ite ?_ ?_
      · exact touches_refl _ _
      · refine touches_after ?_ (pairZero_touches _ _) (by decide)
        exact touches_refl _ _
    · refine touches_after ?_ (pairPeak_touches _ _) (by decide)
      exact touches_refl _ _

theorem execCarrierPeriod_touches : ∀ a0 a1 a2,
    ∃ t, execCarrierPeriod a0 a1 a2 = .next t ∧ Touches [.freeCtr, .cyc, .pulses, .regs, .comparators, .pairs, .groups] a2 t := by
  intro a0 a1 a2
  unfold execCarrierPeriod
  refine ⟨_, rfl, ?_⟩
  refine touches_ite ?_ ?_
  · refine touches_after ?_ (carrierPeriodEff_touches _ _ _) (by decide)
    exact touches_refl _ _
  · exact touches_refl _ _

theorem syncRestartEff_touches : ∀ a0 a1 a2,
    Touches [.freeCtr, .cyc, .pulses, .regs, .comparators, .pairs, .groups] a2 (syncRestartEff a0 a1 a2) := by
  intro a0 a1 a2
  unfold syncRestartEff
  refine touches_ite ?_ ?_
  · refine touches_after ?_ (spoilGroup_touches _ _) (by decide)
    exact touches_refl _ _
  · refine touches_ite ?_ ?_
    · split
      · extract_lets +onlyGivenNames x0
        clear_value x0
        refine touches_ite ?_ ?_
        · exact touches_refl _ _
        · refine touches_after ?_ (loseLock_touches _ _) (by decide)
          exact touches_refl _ _
      · refine touches_after ?_ (periodStart_touches _ _ _ _) (by decide)
        exact touches_refl _ _
    · exact touches_refl _ _

theorem execSyncRestart_touches : ∀ a0 a1,
    ∃ t, execSyncRestart a0 a1 = .next t ∧ Touches [.freeCtr, .cyc, .pulses, .regs, .comparators, .pairs, .groups] a1 t := by
  intro a0 a1
  unfold execSyncRestart
  refine ⟨_, rfl, ?_⟩
  refine touches_ite ?_ ?_
  · refine touches_after ?_ (syncRestartEff_touches _ _ _) (by decide)
    exact touches_refl _ _
  · exact touches_refl _ _

theorem execValleyDetect_touches : ∀ a0 a1,
    ∃ t, execValleyDetect a0 a1 = .next t ∧ Touches [.freeCtr, .cyc, .pulses, .regs, .comparators, .pairs, .groups] a1 t := by
  intro a0 a1
  unfold execValleyDetect
  refine ⟨_, rfl, ?_⟩
  refine touches_ite ?_ ?_
  · refine touches_ite ?_ ?_
    · refine touches_after ?_ (spoilGroup_touches _ _) (by decide)
      exact touches_refl _ _
    · refine touches_ite ?_ ?_
      · refine touches_after ?_ (periodStart_touches _ _ _ _) (by decide)
        exact touches_refl _ _
      · exact touches_refl _ _
  · exact touches_refl _ _

theorem execValleyWindowEnd_touches : ∀ a0 a1,
    ∃ t, execValleyWindowEnd a0 a1 = .next t ∧ Touches [.cyc, .pulses, .regs, .comparators, .pairs, .groups] a1 t := by
  intro a0 a1
  unfold execValleyWindowEnd
  refine ⟨_, rfl, ?_⟩
  refine touches_ite ?_ ?_
  · refine touches_after ?_ (periodStart_touches _ _ _ _) (by decide)
    exact touches_refl _ _
  · exact touches_refl _ _

theorem leadTick_touches : ∀ a0 a1 a2,
    Touches [.pairs] a2 (leadTick a0 a1 a2) := by
  intro a0 a1 a2
  unfold leadTick
  refine touches_forEach (fun _ _ _ => ?_) ?_
  · refine touches_ite ?_ ?_
    · assumption
    · refine touches_after ?_ (State.setPair_touches _ _ _) (by decide)
      assumption
  · exact touches_refl _ _

theorem carrierTick_touches : ∀ a0 a1,
    Touches [.freeCtr, .regs, .pairs, .groups] a1 (carrierTick a0 a1) := by
  intro a0 a1
  unfold carrierTick
  refine touches_ite ?_ ?_
  · exact touches_refl _ _
  · refine touches_ite ?_ ?_
    · refine touches_after ?_ (spoilGroup_touches _ _) (by decide)
      exact touches_refl _ _
    · extract_lets +onlyGivenNames x0
      clear_value x0
      extract_lets +onlyGivenNames x1
      clear_value x1
      extract_lets +onlyGivenNames x2
      clear_value x2
      refine touches_ite ?_ ?_
      · refine touches_after ?_ (leadTick_touches _ _ _) (by decide)
        refine touches_after ?_ (State.setReg_touches _ _ _) (by decide)
        exact touches_refl _ _
      · refine touches_ite ?_ ?_
        · exact touches_refl _ _
        · refine touches_ite ?_ ?_
          · refine touches_after ?_ (leadTick_touches _ _ _) (by decide)
            refine touches_after ?_ (State.setFld_touches _ _ _ _ _) (by decide)
            exact touches_refl _ _
          · refine touches_after ?_ (leadTick_touches _ _ _) (by decide)
            refine touches_after ?_ (State.setGroup_touches _ _ _) (by decide)
            refine touches_after ?_ (State.setFld_touches _ _ _ _ _) (by decide)
            exact touches_refl _ _

theorem cmpWrite_touches : ∀ a0 a1 a2 a3,
    Touches [.cyc, .pulses, .regs, .comparators, .pairs] a3 (cmpWrite a0 a1 a2 a3) := by
  intro a0 a1 a2 a3
  unfold cmpWrite
  extract_lets +onlyGivenNames x0
  refine touches_cut x0 ?_ (fun h0 => ?_)
  · unfold x0
    refine touches_after ?_ (State.setReg_touches _ _ _) (by decide)
    refine touches_after ?_ (noteWrote_touches _ _) (by decide)
    exact touches_refl _ _
  clear_value x0
  refine touches_ite ?_ ?_
  · refine touches_after ?_ (activeLoad_touches _ _ _ _) (by decide)
    assumption
  · assumption

theorem execPwmCmpa_touches : ∀ a0 a1 a2 a3,
    ∃ t, execPwmCmpa a0 a1 a2 a3 = .next t ∧ Touches [.cyc, .pulses, .regs, .comparators, .pairs] a3 t := by
  intro a0 a1 a2 a3
  unfold execPwmCmpa
  refine ⟨_, rfl, ?_⟩
  refine touches_ite ?_ ?_
  · refine touches_after ?_ (cmpWrite_touches _ _ _ _) (by decide)
    exact touches_refl _ _
  · exact touches_refl _ _

theorem dutyStepEff_touches : ∀ a0 a1 a2,
    Touches [.freeCtr, .cyc, .pulses, .regs, .comparators, .pairs, .groups] a2 (dutyStepEff a0 a1 a2) := by
  intro a0 a1 a2
  unfold dutyStepEff
  refine touches_ite ?_ ?_
  · refine touches_after ?_ (spoilGroup_touches _ _) (by decide)
    exact touches_refl _ _
  · extract_lets +onlyGivenNames x0
    clear_value x0
    extract_lets +onlyGivenNames x1
    clear_value x1
    extract_lets +onlyGivenNames x2
    clear_value x2
    extract_lets +onlyGivenNames x3
    clear_value x3
    extract_lets +onlyGivenNames x4
    clear_value x4
    extract_lets +onlyGivenNames x5
    clear_value x5
    extract_lets +onlyGivenNames x6
    refine touches_cut x6 ?_ (fun h6 => ?_)
    · unfold x6
      refine touches_after ?_ (State.setReg_touches _ _ _) (by decide)
      exact touches_refl _ _
    clear_value x6
    refine touches_ite ?_ ?_
    · assumption
    · refine touches_ite ?_ ?_
      · refine touches_after ?_ (takeMode_touches _ _ _) (by decide)
        refine touches_after ?_ (activeLoad_touches _ _ _ _) (by decide)
        assumption
      · extract_lets +onlyGivenNames x7
        clear_value x7
        extract_lets +onlyGivenNames x8
        refine touches_cut x8 ?_ (fun h8 => ?_)
        · unfold x8
          refine touches_after ?_ (State.setPair_touches _ _ _) (by decide)
          refine touches_ite ?_ ?_
          · assumption
          · refine touches_after ?_ (State.setReg_touches _ _ _) (by decide)
            assumption
        clear_value x8
        refine touches_ite ?_ ?_
        · refine touches_after ?_ (takeMode_touches _ _ _) (by decide)
          refine touches_after ?_ (activeLoad_touches _ _ _ _) (by decide)
          assumption
        · assumption

theorem execDutystep_touches : ∀ a0 a1 a2,
    ∃ t, execDutystep a0 a1 a2 = .next t ∧ Touches [.freeCtr, .cyc, .pulses, .regs, .comparators, .pairs, .groups] a2 t := by
  intro a0 a1 a2
  unfold execDutystep
  refine ⟨_, rfl, ?_⟩
  refine touches_ite ?_ ?_
  · refine touches_after ?_ (dutyStepEff_touches _ _ _) (by decide)
    exact touches_refl _ _
  · exact touches_refl _ _

theorem loopDuty_touches : ∀ a0 a1 a2 a3,
    Touches [.cyc, .pulses, .regs, .comparators, .pairs] a3 (loopDuty a0 a1 a2 a3) := by
  intro a0 a1 a2 a3
  unfold loopDuty
  extract_lets +onlyGivenNames x0
  refine touches_cut x0 ?_ (fun h0 => ?_)
  · unfold x0
    refine touches_after ?_ (State.setReg_touches _ _ _) (by decide)
    exact touches_refl _ _
  clear_value x0
  refine touches_ite ?_ ?_
  · refine touches_after ?_ (holdFull_touches _ _ _ _) (by decide)
    assumption
  · assumption

theorem lateDuty_touches : ∀ a0 a1,
    Touches [.cyc, .pulses, .regs, .comparators, .pairs] a1 (lateDuty a0 a1) := by
  intro a0 a1
  unfold lateDuty
  split
  · exact touches_refl _ _
  · refine touches_after ?_ (loopDuty_touches _ _ _ _) (by decide)
    refine touches_after ?_ (State.setPair_touches _ _ _) (by decide)
    exact touches_refl _ _

theorem execPwmEdge_touches : ∀ a0 a1 a2 a3,
    ∃ t, execPwmEdge a0 a1 a2 a3 = .next t ∧ Touches [.freeCtr, .cyc, .pulses, .regs, .comparators, .pairs, .groups] a3 t := by
  intro a0 a1 a2 a3
  unfold execPwmEdge
  refine ⟨_, rfl, ?_⟩
  refine touches_ite ?_ ?_
  · refine touches_ite ?_ ?_
    · refine touches_after ?_ (spoilGroup_touches _ _) (by decide)
      exact touches_refl _ _
    · extract_lets +onlyGivenNames x0
      refine touches_cut x0 ?_ (fun h0 => ?_)
      · unfold x0
        refine touches_after ?_ (pwmEdgeEff_touches _ _ _ _) (by decide)
        exact touches_refl _ _
      clear_value x0
      refine touches_ite ?_ ?_
      · refine touches_after ?_ (lateDuty_touches _ _) (by decide)
        assumption
      · assumption
  · exact touches_refl _ _

theorem loopShift_touches : ∀ a0 a1 a2,
    Touches [.regs] a2 (loopShift a0 a1 a2) := by
  intro a0 a1 a2
  unfold loopShift
  refine touches_ite ?_ ?_
  · exact touches_refl _ _
  · refine touches_after ?_ (State.setReg_touches _ _ _) (by decide)
    exact touches_refl _ _

theorem shiftWrite_touches : ∀ a0 a1 a2,
    Touches [.cyc, .regs] a2 (shiftWrite a0 a1 a2) := by
  intro a0 a1 a2
  unfold shiftWrite
  extract_lets +onlyGivenNames x0
  clear_value x0
  refine touches_ite ?_ ?_
  · exact touches_refl _ _
  · refine touches_after ?_ (State.setReg_touches _ _ _) (by decide)
    refine touches_after ?_ (noteWrote_touches _ _) (by decide)
    exact touches_refl _ _

theorem execZoneAssert_touches : ∀ a0 a1,
    ∃ t, execZoneAssert a0 a1 = .next t ∧ Touches [.cyc, .regs, .pairs] a1 t := by
  intro a0 a1
  unfold execZoneAssert
  refine ⟨_, rfl, ?_⟩
  refine touches_ite ?_ ?_
  · refine touches_after ?_ (zoneRefresh_touches _ _ _) (by decide)
    exact touches_refl _ _
  · exact touches_refl _ _

theorem zoneReleaseEff_touches : ∀ a0 a1,
    Touches [.cyc, .pulses, .regs, .comparators, .pairs] a1 (zoneReleaseEff a0 a1) := by
  intro a0 a1
  unfold zoneReleaseEff
  refine touches_ite ?_ ?_
  · extract_lets +onlyGivenNames x0
    clear_value x0
    refine touches_after ?_ (resumePair_touches _ _) (by decide)
    refine touches_after ?_ (State.setPair_touches _ _ _) (by decide)
    exact touches_refl _ _
  · exact touches_refl _ _

theorem execZoneRelease_touches : ∀ a0 a1,
    ∃ t, execZoneRelease a0 a1 = .next t ∧ Touches [.cyc, .pulses, .regs, .comparators, .pairs] a1 t := by
  intro a0 a1
  unfold execZoneRelease
  refine ⟨_, rfl, ?_⟩
  refine touches_ite ?_ ?_
  · refine touches_after ?_ (zoneReleaseEff_touches _ _) (by decide)
    exact touches_refl _ _
  · exact touches_refl _ _

theorem tripPinNow_touches : ∀ a0 a1 a2,
    Touches [.cyc, .regs, .pairs, .tripPins] a2 (tripPinNow a0 a1 a2) := by
  intro a0 a1 a2
  unfold tripPinNow
  refine touches_after ?_ (zonesRefresh_touches _ _) (by decide)
  refine touches_after ?_ (touch_tripPins _) (by decide)
  exact touches_refl _ _

theorem tripPinFiltered_touches : ∀ a0 a1 a2 a3,
    Touches [.cyc, .regs, .pairs, .zonePins] a3 (tripPinFiltered a0 a1 a2 a3) := by
  intro a0 a1 a2 a3
  unfold tripPinFiltered
  extract_lets +onlyGivenNames x0
  clear_value x0
  refine touches_after ?_ (zonesRefresh_touches _ _) (by decide)
  refine touches_after ?_ (touch_zonePins _) (by decide)
  exact touches_refl _ _

theorem tripPinLevel_touches : ∀ a0 a1 a2,
    Touches [.cyc, .regs, .pairs, .tripPins, .zonePins] a2 (tripPinLevel a0 a1 a2) := by
  intro a0 a1 a2
  unfold tripPinLevel
  refine touches_forEach (fun _ _ _ => ?_) ?_
  · refine touches_after ?_ (tripPinFiltered_touches _ _ _ _) (by decide)
    assumption
  · refine touches_after ?_ (tripPinNow_touches _ _ _) (by decide)
    exact touches_refl _ _

theorem execTripInPin_touches : ∀ a0 a1 a2,
    ∃ t, execTripInPin a0 a1 a2 = .next t ∧ Touches [.cyc, .regs, .pairs, .tripPins, .zonePins] a2 t := by
  intro a0 a1 a2
  unfold execTripInPin
  refine ⟨_, rfl, ?_⟩
  refine touches_ite ?_ ?_
  · split
    · refine touches_after ?_ (tripPinNow_touches _ _ _) (by decide)
      exact touches_refl _ _
    · refine touches_after ?_ (tripPinFiltered_touches _ _ _ _) (by decide)
      exact touches_refl _ _
  · exact touches_refl _ _

theorem execTzForce_touches : ∀ a0 a1 a2,
    ∃ t, execTzForce a0 a1 a2 = .next t ∧ Touches [.cyc, .regs, .pairs] a2 t := by
  intro a0 a1 a2
  unfold execTzForce
  refine ⟨_, rfl, ?_⟩
  refine touches_ite ?_ ?_
  · refine touches_after ?_ (zoneForce_touches _ _) (by decide)
    exact touches_refl _ _
  · exact touches_refl _ _

theorem tzStatusWrite_touches : ∀ a0 a1 a2,
    Touches [.regs] a2 (tzStatusWrite a0 a1 a2) := by
  intro a0 a1 a2
  unfold tzStatusWrite
  extract_lets +onlyGivenNames x0
  clear_value x0
  extract_lets +onlyGivenNames x1
  clear_value x1
  refine touches_after ?_ (State.setReg_touches _ _ _) (by decide)
  exact touches_refl _ _

theorem execLatchedClear_touches : ∀ a0 a1 a2,
    ∃ t, execLatchedClear a0 a1 a2 = .next t ∧ Touches [.regs] a2 t := by
  intro a0 a1 a2
  unfold execLatchedClear
  refine ⟨_, rfl, ?_⟩
  refine touches_ite ?_ ?_
  · refine touches_after ?_ (tzStatusWrite_touches _ _ _) (by decide)
    exact touches_refl _ _
  · exact touches_refl _ _

theorem execTripAllN_touches : ∀ a0 a1,
    ∃ t, execTripAllN a0 a1 = .next t ∧ Touches [.freeCtr, .cyc, .regs, .log, .pairs, .tripAll, .canNode] a1 t := by
  intro a0 a1
  unfold execTripAllN
  refine ⟨_, rfl, ?_⟩
  refine touches_ite ?_ ?_
  · refine touches_after ?_ (assertGlobalTrip_touches _ _) (by decide)
    refine touches_after ?_ (touch_tripAll _) (by decide)
    exact touches_refl _ _
  · refine touches_after ?_ (touch_tripAll _) (by decide)
    exact touches_refl _ _

theorem gtripAssertEff_touches : ∀ a0,
    Touches [.freeCtr, .cyc, .regs, .log, .pairs, .canNode] a0 (gtripAssertEff a0) := by
  intro a0
  unfold gtripAssertEff
  refine touches_after ?_ (assertGlobalTrip_touches _ _) (by decide)
  refine touches_after ?_ (State.setBit_touches _ _ _ _) (by decide)
  exact touches_refl _ _

theorem execGtripAssert_touches : ∀ a0,
    ∃ t, execGtripAssert a0 = .next t ∧ Touches [.freeCtr, .cyc, .regs, .log, .pairs, .canNode] a0 t := by
  intro a0
  unfold execGtripAssert
  refine ⟨_, rfl, ?_⟩
  refine touches_after ?_ (gtripAssertEff_touches _) (by decide)
  exact touches_refl _ _

theorem gtripClearEff_touches : ∀ a0,
    Touches [.cyc, .regs, .pairs] a0 (gtripClearEff a0) := by
  intro a0
  unfold gtripClearEff
  refine touches_ite ?_ ?_
  · exact touches_refl _ _
  · refine touches_after ?_ (allZonesRefresh_touches _) (by decide)
    refine touches_after ?_ (State.setReg_touches _ _ _) (by decide)
    exact touches_refl _ _

theorem execGtripClear_touches : ∀ a0,
    ∃ t, execGtripClear a0 = .next t ∧ Touches [.cyc, .regs, .pairs] a0 t := by
  intro a0
  unfold execGtripClear
  refine ⟨_, rfl, ?_⟩
  refine touches_after ?_ (gtripClearEff_touches _) (by decide)
  exact touches_refl _ _

theorem armRequest_touches : ∀ a0 a1,
    Touches [.regs, .groups] a1 (armRequest a0 a1) := by
  intro a0 a1
  unfold armRequest
  refine touches_after ?_ (raiseTs_touches _ _) (by decide)
  refine touches_after ?_ (State.setGroup_touches _ _ _) (by decide)
  exact touches_refl _ _

theorem execPwmArmReq_touches : ∀ a0 a1 a2,
    ∃ t, execPwmArmReq a0 a1 a2 = .next t ∧ Touches [.regs, .groups] a2 t := by
  intro a0 a1 a2
  unfold execPwmArmReq
  refine ⟨_, rfl, ?_⟩
  refine touches_ite ?_ ?_
  · refine touches_after ?_ (armRequest_touches _ _) (by decide)
    exact touches_refl _ _
  · exact touches_refl _ _

theorem armEff_touches : ∀ a0 a1,
    Touches [.cyc, .regs, .groups] a1 (armEff a0 a1) := by
  intro a0 a1
  unfold armEff
  extract_lets +onlyGivenNames x0
  clear_value x0
  extract_lets +onlyGivenNames x1
  refine touches_cut x1 ?_ (fun h1 => ?_)
  · unfold x1
    refine touches_after ?_ (State.setGroup_touches _ _ _) (by decide)
    exact touches_refl _ _
  clear_value x1
  refine touches_ite ?_ ?_
  · extract_lets +onlyGivenNames x2
    clear_value x2
    extract_lets +onlyGivenNames x3
    refine touches_cut x3 ?_ (fun h3 => ?_)
    · unfold x3
      refine touches_after ?_ (State.setFld_touches _ _ _ _ _) (by decide)
      assumption
    clear_value x3
    refine touches_ite ?_ ?_
    · refine touches_after ?_ (State.setFld_touches _ _ _ _ _) (by decide)
      assumption
    · refine touches_after ?_ (pwmEvent_touches _ _ _) (by decide)
      assumption
  · assumption

theorem execArm_touches : ∀ a0 a1,
    ∃ t, execArm a0 a1 = .next t ∧ Touches [.cyc, .regs, .groups] a1 t := by
  intro a0 a1
  unfold execArm
  refine ⟨_, rfl, ?_⟩
  refine touches_ite ?_ ?_
  · refine touches_ite ?_ ?_
    · refine touches_after ?_ (State.setGroup_touches _ _ _) (by decide)
      exact touches_refl _ _
    · refine touches_after ?_ (armEff_touches _ _) (by decide)
      exact touches_refl _ _
  · exact touches_refl _ _

theorem execSafeLock_touches : ∀ a0 a1,
    ∃ t, execSafeLock a0 a1 = .next t ∧ Touches [.groups] a1 t := by
  intro a0 a1
  unfold execSafeLock
  refine ⟨_, rfl, ?_⟩
  refine touches_ite ?_ ?_
  · refine touches_after ?_ (State.setGroup_touches _ _ _) (by decide)
    exact touches_refl _ _
  · exact touches_refl _ _

theorem grpCtlWrite_touches : ∀ a0 a1 a2,
    Touches [.cyc, .regs, .pairs, .groups] a2 (grpCtlWrite a0 a1 a2) := by
  intro a0 a1 a2
  unfold grpCtlWrite
  extract_lets +onlyGivenNames x0
  clear_value x0
  extract_lets +onlyGivenNames x1
  clear_value x1
  extract_lets +onlyGivenNames x2
  refine touches_cut x2 ?_ (fun h2 => ?_)
  · unfold x2
    refine touches_after ?_ (State.setReg_touches _ _ _) (by decide)
    exact touches_refl _ _
  clear_value x2
  extract_lets +onlyGivenNames x3
  clear_value x3
  extract_lets +onlyGivenNames x4
  refine touches_cut x4 ?_ (fun h4 => ?_)
  · unfold x4
    refine touches_after ?_ (State.setGroup_touches _ _ _) (by decide)
    assumption
  clear_value x4
  extract_lets +onlyGivenNames x5
  clear_value x5
  extract_lets +onlyGivenNames x6
  refine touches_cut x6 ?_ (fun h6 => ?_)
  · unfold x6
    refine touches_after ?_ (State.setGroup_touches _ _ _) (by decide)
    assumption
  clear_value x6
  extract_lets +onlyGivenNames x7
  refine touches_cut x7 ?_ (fun h7 => ?_)
  · unfold x7
    refine touches_forEach (fun _ _ _ => ?_) ?_
    · refine touches_after ?_ (State.setPair_touches _ _ _) (by decide)
      assumption
    · refine touches_after ?_ (State.setReg_touches _ _ _) (by decide)
      assumption
  clear_value x7
  extract_lets +onlyGivenNames x8
  refine touches_cut x8 ?_ (fun h8 => ?_)
  · unfold x8
    refine touches_ite ?_ ?_
    · refine touches_after ?_ (State.setGroup_touches _ _ _) (by decide)
      assumption
    · refine touches_ite ?_ ?_
      · assumption
      · refine touches_ite ?_ ?_
        · refine touches_after ?_ (State.setFld_touches _ _ _ _ _) (by decide)
          assumption
        · assumption
  clear_value x8
  refine touches_ite ?_ ?_
  · refine touches_after ?_ (toSafe_touches _ _) (by decide)
    assumption
  · assumption

theorem execDisarm_touches : ∀ a0 a1 a2,
    ∃ t, execDisarm a0 a1 a2 = .next t ∧ Touches [.cyc, .regs, .pairs, .groups] a2 t := by
  intro a0 a1 a2
  unfold execDisarm
  refine ⟨_, rfl, ?_⟩
  refine touches_ite ?_ ?_
  · refine touches_after ?_ (grpCtlWrite_touches _ _ _) (by decide)
    exact touches_refl _ _
  · exact touches_refl _ _

theorem partGroup_touches : ∀ a0 a1,
    Touches [.cyc, .regs, .pairs, .groups] a1 (partGroup a0 a1) := by
  intro a0 a1
  unfold partGroup
  refine touches_after ?_ (State.setGroup_touches _ _ _) (by decide)
  refine touches_after ?_ (leaveArmed_touches _ _ _) (by decide)
  exact touches_refl _ _

end Sys2Proof.Machine
end

