-- ==== Sys2Proof/Laws/TouchWindow.lean ====
section
/-! SUPPORT. Which parts of the state the definitions of Machine/Window.lean touch: one lemma for each, the proofs written by a
script from their shape. -/

namespace Sys2Proof.Machine

theorem State.setSpn_touches : ∀ a0 a1 a2,
    Touches [.spindles] a0 (State.setSpn a0 a1 a2) := by
  intro a0 a1 a2
  unfold State.setSpn
  refine touches_after ?_ (touch_spindles _) (by decide)
  exact touches_refl _ _

theorem State.setPlate_touches : ∀ a0 a1,
    Touches [.plate] a0 (State.setPlate a0 a1) := by
  intro a0 a1
  unfold State.setPlate
  refine touches_after ?_ (touch_plate _) (by decide)
  exact touches_refl _ _

theorem State.setEntry_touches : ∀ a0 a1 a2,
    Touches [.plate] a0 (State.setEntry a0 a1 a2) := by
  intro a0 a1 a2
  unfold State.setEntry
  refine touches_after ?_ (State.setPlate_touches _ _) (by decide)
  exact touches_refl _ _

theorem partEvent_touches : ∀ a0 a1 a2,
    Touches [.cyc, .regs] a2 (partEvent a0 a1 a2) := by
  intro a0 a1 a2
  unfold partEvent
  refine touches_after ?_ (raiseStatus_touches _ _ _ _ _) (by decide)
  exact touches_refl _ _

theorem plateEvent_touches : ∀ a0 a1,
    Touches [.cyc, .regs] a1 (plateEvent a0 a1) := by
  intro a0 a1
  unfold plateEvent
  refine touches_after ?_ (raiseStatus_touches _ _ _ _ _) (by decide)
  exact touches_refl _ _

theorem startFetch_touches : ∀ a0 a1,
    Touches [.cyc, .regs, .plate] a1 (startFetch a0 a1) := by
  intro a0 a1
  unfold startFetch
  extract_lets +onlyGivenNames x0
  clear_value x0
  split
  · refine touches_after ?_ (State.setPlate_touches _ _) (by decide)
    exact touches_refl _ _
  · refine touches_ite ?_ ?_
    · exact touches_refl _ _
    · refine touches_ite ?_ ?_
      · refine touches_after ?_ (partEvent_touches _ _ _) (by decide)
        exact touches_refl _ _
      · refine touches_after ?_ (State.setPlate_touches _ _) (by decide)
        exact touches_refl _ _

theorem startFetches_touches : ∀ a0,
    Touches [.cyc, .regs, .plate] a0 (startFetches a0) := by
  intro a0
  unfold startFetches
  refine touches_forEach (fun _ _ _ => ?_) ?_
  · refine touches_after ?_ (startFetch_touches _ _) (by decide)
    assumption
  · exact touches_refl _ _

theorem sweep_touches : ∀ a0 a1,
    Touches [.cyc, .regs, .plate] a1 (sweep a0 a1) := by
  intro a0 a1
  unfold sweep
  extract_lets +onlyGivenNames x0
  unfold x0
  clear x0
  extract_lets +onlyGivenNames x1
  clear_value x1
  extract_lets +onlyGivenNames x2
  clear_value x2
  refine touches_after ?_ (startFetches_touches _) (by decide)
  refine touches_after ?_ (State.setPlate_touches _ _) (by decide)
  exact touches_refl _ _

theorem refetch_touches : ∀ a0 a1,
    Touches [.cyc, .regs, .plate] a1 (refetch a0 a1) := by
  intro a0 a1
  unfold refetch
  refine touches_ite ?_ ?_
  · refine touches_after ?_ (sweep_touches _ _) (by decide)
    exact touches_refl _ _
  · exact touches_refl _ _

end Sys2Proof.Machine
end

