-- ==== Sys2Proof/Laws/TouchSpindles.lean ====
section
/-! SUPPORT. Which parts of the state the definitions of Machine/Spindles.lean touch: one lemma for each, the proofs written by a
script from their shape. -/

namespace Sys2Proof.Machine

theorem setBackward_touches : ∀ a0 a1 a2,
    Touches [.cyc, .regs, .plate] a2 (setBackward a0 a1 a2) := by
  intro a0 a1 a2
  unfold setBackward
  refine touches_ite ?_ ?_
  · exact touches_refl _ _
  · refine touches_after ?_ (refetch_touches _ _) (by decide)
    refine touches_after ?_ (State.setBit_touches _ _ _ _) (by decide)
    exact touches_refl _ _

theorem setVelValid_touches : ∀ a0 a1 a2,
    Touches [.regs] a2 (setVelValid a0 a1 a2) := by
  intro a0 a1 a2
  unfold setVelValid
  refine touches_after ?_ (State.setBit_touches _ _ _ _) (by decide)
  exact touches_refl _ _

theorem setUncertain_touches : ∀ a0 a1 a2,
    Touches [.regs] a2 (setUncertain a0 a1 a2) := by
  intro a0 a1 a2
  unfold setUncertain
  refine touches_after ?_ (State.setBit_touches _ _ _ _) (by decide)
  exact touches_refl _ _

theorem spnEvent_touches : ∀ a0 a1 a2,
    Touches [.cyc, .regs] a2 (spnEvent a0 a1 a2) := by
  intro a0 a1 a2
  unfold spnEvent
  refine touches_after ?_ (raiseStatus_touches _ _ _ _ _) (by decide)
  exact touches_refl _ _

theorem spnErr_touches : ∀ a0 a1,
    Touches [.cyc, .regs] a1 (spnErr a0 a1) := by
  intro a0 a1
  unfold spnErr
  refine touches_after ?_ (spnEvent_touches _ _ _) (by decide)
  exact touches_refl _ _

theorem setVel_touches : ∀ a0 a1 a2,
    Touches [.regs, .spindles] a2 (setVel a0 a1 a2) := by
  intro a0 a1 a2
  unfold setVel
  refine touches_after ?_ (State.setReg_touches _ _ _) (by decide)
  refine touches_after ?_ (State.setSpn_touches _ _ _) (by decide)
  exact touches_refl _ _

theorem stepTo_touches : ∀ a0 a1 a2,
    Touches [.spindles] a2 (stepTo a0 a1 a2) := by
  intro a0 a1 a2
  unfold stepTo
  extract_lets +onlyGivenNames x0
  clear_value x0
  refine touches_after ?_ (State.setSpn_touches _ _ _) (by decide)
  exact touches_refl _ _

theorem resyncTo_touches : ∀ a0 a1 a2,
    Touches [.cyc, .regs, .spindles, .plate] a2 (resyncTo a0 a1 a2) := by
  intro a0 a1 a2
  unfold resyncTo
  refine touches_after ?_ (refetch_touches _ _) (by decide)
  refine touches_after ?_ (spnEvent_touches _ _ _) (by decide)
  refine touches_after ?_ (State.setSpn_touches _ _ _) (by decide)
  exact touches_refl _ _

theorem disarmSpindle_touches : ∀ a0 a1,
    Touches [.regs] a1 (disarmSpindle a0 a1) := by
  intro a0 a1
  unfold disarmSpindle
  extract_lets +onlyGivenNames x0
  refine touches_cut x0 ?_ (fun h0 => ?_)
  · unfold x0
    refine touches_forEach (fun _ _ _ => ?_) ?_
    · refine touches_after ?_ (State.setBit_touches _ _ _ _) (by decide)
      assumption
    · exact touches_refl _ _
  clear_value x0
  refine touches_after ?_ (State.setReg_touches _ _ _) (by decide)
  assumption

theorem setSpnState_touches : ∀ a0 a1 a2,
    Touches [.cyc, .regs, .spindles, .pairs, .groups] a2 (setSpnState a0 a1 a2) := by
  intro a0 a1 a2
  unfold setSpnState
  refine touches_ite ?_ ?_
  · exact touches_refl _ _
  · extract_lets +onlyGivenNames x0
    refine touches_cut x0 ?_ (fun h0 => ?_)
    · unfold x0
      refine touches_after ?_ (spnEvent_touches _ _ _) (by decide)
      refine touches_after ?_ (State.setFld_touches _ _ _ _ _) (by decide)
      exact touches_refl _ _
    clear_value x0
    extract_lets +onlyGivenNames x1
    clear_value x1
    extract_lets +onlyGivenNames x2
    refine touches_cut x2 ?_ (fun h2 => ?_)
    · unfold x2
      refine touches_after ?_ (setVelValid_touches _ _ _) (by decide)
      assumption
    clear_value x2
    extract_lets +onlyGivenNames x3
    refine touches_cut x3 ?_ (fun h3 => ?_)
    · unfold x3
      refine touches_ite ?_ ?_
      · refine touches_after ?_ (setVel_touches _ _ _) (by decide)
        assumption
      · assumption
    clear_value x3
    extract_lets +onlyGivenNames x4
    refine touches_cut x4 ?_ (fun h4 => ?_)
    · unfold x4
      refine touches_ite ?_ ?_
      · refine touches_after ?_ (disarmSpindle_touches _ _) (by decide)
        assumption
      · assumption
    clear_value x4
    refine touches_ite ?_ ?_
    · assumption
    · refine touches_after ?_ (spindleUnusable_touches _ _) (by decide)
      assumption

theorem toCoast_touches : ∀ a0 a1,
    Touches [.cyc, .regs, .spindles, .pairs, .groups] a1 (toCoast a0 a1) := by
  intro a0 a1
  unfold toCoast
  extract_lets +onlyGivenNames x0
  clear_value x0
  refine touches_after ?_ (setSpnState_touches _ _ _) (by decide)
  refine touches_after ?_ (spnErr_touches _ _) (by decide)
  refine touches_after ?_ (State.setSpn_touches _ _ _) (by decide)
  exact touches_refl _ _

theorem lockAt_touches : ∀ a0 a1 a2,
    Touches [.cyc, .regs, .spindles, .pairs, .groups, .plate] a2 (lockAt a0 a1 a2) := by
  intro a0 a1 a2
  unfold lockAt
  extract_lets +onlyGivenNames x0
  clear_value x0
  extract_lets +onlyGivenNames x1
  clear_value x1
  extract_lets +onlyGivenNames x2
  clear_value x2
  extract_lets +onlyGivenNames x3
  clear_value x3
  extract_lets +onlyGivenNames x4
  refine touches_cut x4 ?_ (fun h4 => ?_)
  · unfold x4
    refine touches_after ?_ (State.setSpn_touches _ _ _) (by decide)
    exact touches_refl _ _
  clear_value x4
  extract_lets +onlyGivenNames x5
  refine touches_cut x5 ?_ (fun h5 => ?_)
  · unfold x5
    refine touches_after ?_ (setSpnState_touches _ _ _) (by decide)
    assumption
  clear_value x5
  refine touches_ite ?_ ?_
  · refine touches_after ?_ (stepTo_touches _ _ _) (by decide)
    assumption
  · refine touches_after ?_ (resyncTo_touches _ _ _) (by decide)
    assumption

theorem clearVel_touches : ∀ a0 a1,
    Touches [.regs, .spindles] a1 (clearVel a0 a1) := by
  intro a0 a1
  unfold clearVel
  refine touches_after ?_ (setVel_touches _ _ _) (by decide)
  refine touches_after ?_ (setVelValid_touches _ _ _) (by decide)
  refine touches_after ?_ (State.setSpn_touches _ _ _) (by decide)
  exact touches_refl _ _

theorem lockFromCount_touches : ∀ a0 a1,
    Touches [.cyc, .regs, .spindles, .pairs, .groups, .plate] a1 (lockFromCount a0 a1) := by
  intro a0 a1
  unfold lockFromCount
  extract_lets +onlyGivenNames x0
  refine touches_cut x0 ?_ (fun h0 => ?_)
  · unfold x0
    refine touches_after ?_ (clearVel_touches _ _) (by decide)
    exact touches_refl _ _
  clear_value x0
  refine touches_after ?_ (lockAt_touches _ _ _) (by decide)
  assumption

theorem illegalTransition_touches : ∀ a0 a1,
    Touches [.cyc, .regs, .spindles, .pairs, .groups] a1 (illegalTransition a0 a1) := by
  intro a0 a1
  unfold illegalTransition
  extract_lets +onlyGivenNames x0
  clear_value x0
  extract_lets +onlyGivenNames x1
  clear_value x1
  refine touches_ite ?_ ?_
  · exact touches_refl _ _
  · extract_lets +onlyGivenNames x2
    refine touches_cut x2 ?_ (fun h2 => ?_)
    · unfold x2
      refine touches_after ?_ (spnErr_touches _ _) (by decide)
      refine touches_after ?_ (setUncertain_touches _ _ _) (by decide)
      refine touches_after ?_ (rcUpFld_touches _ _ _ _ _) (by decide)
      refine touches_after ?_ (State.setSpn_touches _ _ _) (by decide)
      exact touches_refl _ _
    clear_value x2
    refine touches_ite ?_ ?_
    · refine touches_after ?_ (toCoast_touches _ _) (by decide)
      assumption
    · assumption

theorem noteInterval_touches : ∀ a0 a1 a2,
    Touches [.cyc, .regs, .spindles] a2 (noteInterval a0 a1 a2) := by
  intro a0 a1 a2
  unfold noteInterval
  extract_lets +onlyGivenNames x0
  clear_value x0
  refine touches_ite ?_ ?_
  · extract_lets +onlyGivenNames x1
    clear_value x1
    extract_lets +onlyGivenNames x2
    refine touches_cut x2 ?_ (fun h2 => ?_)
    · unfold x2
      refine touches_after ?_ (State.setSpn_touches _ _ _) (by decide)
      exact touches_refl _ _
    clear_value x2
    split
    · refine touches_ite ?_ ?_
      · refine touches_after ?_ (spnEvent_touches _ _ _) (by decide)
        refine touches_after ?_ (State.setSpn_touches _ _ _) (by decide)
        assumption
      · assumption
    · assumption
  · exact touches_refl _ _

theorem edgeVelocity_touches : ∀ a0 a1,
    Touches [.cyc, .regs, .spindles] a1 (edgeVelocity a0 a1) := by
  intro a0 a1
  unfold edgeVelocity
  extract_lets +onlyGivenNames x0
  clear_value x0
  extract_lets +onlyGivenNames x1
  clear_value x1
  extract_lets +onlyGivenNames x2
  refine touches_cut x2 ?_ (fun h2 => ?_)
  · unfold x2
    refine touches_after ?_ (State.setSpn_touches _ _ _) (by decide)
    exact touches_refl _ _
  clear_value x2
  refine touches_ite ?_ ?_
  · extract_lets +onlyGivenNames x3
    clear_value x3
    extract_lets +onlyGivenNames x4
    refine touches_cut x4 ?_ (fun h4 => ?_)
    · unfold x4
      refine touches_after ?_ (setVelValid_touches _ _ _) (by decide)
      refine touches_after ?_ (setVel_touches _ _ _) (by decide)
      assumption
    clear_value x4
    extract_lets +onlyGivenNames x5
    clear_value x5
    refine touches_ite ?_ ?_
    · refine touches_after ?_ (spnEvent_touches _ _ _) (by decide)
      assumption
    · assumption
  · assumption

theorem moveCount_touches : ∀ a0 a1 a2,
    Touches [.spindles] a2 (moveCount a0 a1 a2) := by
  intro a0 a1 a2
  unfold moveCount
  extract_lets +onlyGivenNames x0
  clear_value x0
  extract_lets +onlyGivenNames x1
  clear_value x1
  refine touches_after ?_ (State.setSpn_touches _ _ _) (by decide)
  exact touches_refl _ _

theorem countEdge_touches : ∀ a0 a1 a2 a3,
    Touches [.cyc, .regs, .spindles, .pairs, .groups, .plate] a3 (countEdge a0 a1 a2 a3) := by
  intro a0 a1 a2 a3
  unfold countEdge
  extract_lets +onlyGivenNames x0
  clear_value x0
  refine touches_ite ?_ ?_
  · extract_lets +onlyGivenNames x1
    refine touches_cut x1 ?_ (fun h1 => ?_)
    · unfold x1
      refine touches_after ?_ (moveCount_touches _ _ _) (by decide)
      refine touches_after ?_ (setBackward_touches _ _ _) (by decide)
      exact touches_refl _ _
    clear_value x1
    refine touches_ite ?_ ?_
    · assumption
    · extract_lets +onlyGivenNames x2
      refine touches_cut x2 ?_ (fun h2 => ?_)
      · unfold x2
        refine touches_after ?_ (lockFromCount_touches _ _) (by decide)
        assumption
      clear_value x2
      refine touches_after ?_ (State.setSpn_touches _ _ _) (by decide)
      assumption
  · refine touches_ite ?_ ?_
    · extract_lets +onlyGivenNames x3
      refine touches_cut x3 ?_ (fun h3 => ?_)
      · unfold x3
        refine touches_after ?_ (clearVel_touches _ _) (by decide)
        exact touches_refl _ _
      clear_value x3
      extract_lets +onlyGivenNames x4
      clear_value x4
      extract_lets +onlyGivenNames x5
      refine touches_cut x5 ?_ (fun h5 => ?_)
      · unfold x5
        refine touches_ite ?_ ?_
        · refine touches_after ?_ (State.setSpn_touches _ _ _) (by decide)
          assumption
        · exact touches_refl _ _
      clear_value x5
      extract_lets +onlyGivenNames x6
      clear_value x6
      extract_lets +onlyGivenNames x7
      refine touches_cut x7 ?_ (fun h7 => ?_)
      · unfold x7
        refine touches_ite ?_ ?_
        · refine touches_after ?_ (clearVel_touches _ _) (by decide)
          refine touches_after ?_ (setBackward_touches _ _ _) (by decide)
          assumption
        · refine touches_after ?_ (noteInterval_touches _ _ _) (by decide)
          assumption
      clear_value x7
      extract_lets +onlyGivenNames x8
      clear_value x8
      extract_lets +onlyGivenNames x9
      refine touches_cut x9 ?_ (fun h9 => ?_)
      · unfold x9
        refine touches_after ?_ (moveCount_touches _ _ _) (by decide)
        refine touches_after ?_ (State.setSpn_touches _ _ _) (by decide)
        assumption
      clear_value x9
      extract_lets +onlyGivenNames x10
      clear_value x10
      extract_lets +onlyGivenNames x11
      refine touches_cut x11 ?_ (fun h11 => ?_)
      · unfold x11
        refine touches_ite ?_ ?_
        · refine touches_after ?_ (State.setSpn_touches _ _ _) (by decide)
          assumption
        · refine touches_after ?_ (edgeVelocity_touches _ _) (by decide)
          assumption
      clear_value x11
      extract_lets +onlyGivenNames x12
      clear_value x12
      extract_lets +onlyGivenNames x13
      clear_value x13
      extract_lets +onlyGivenNames x14
      refine touches_cut x14 ?_ (fun h14 => ?_)
      · unfold x14
        refine touches_after ?_ (setSpnState_touches _ _ _) (by decide)
        refine touches_after ?_ (stepTo_touches _ _ _) (by decide)
        refine touches_after ?_ (State.setSpn_touches _ _ _) (by decide)
        assumption
      clear_value x14
      refine touches_ite ?_ ?_
      · refine touches_after ?_ (spindleUnusable_touches _ _) (by decide)
        assumption
      · assumption
    · exact touches_refl _ _

theorem encoderAt_touches : ∀ a0 a1 a2 a3 a4 a5,
    Touches [.cyc, .regs, .spindles, .pairs, .groups, .plate] a5 (encoderAt a0 a1 a2 a3 a4 a5) := by
  intro a0 a1 a2 a3 a4 a5
  unfold encoderAt
  split
  · refine touches_after ?_ (countEdge_touches _ _ _ _) (by decide)
    exact touches_refl _ _
  · refine touches_after ?_ (countEdge_touches _ _ _ _) (by decide)
    exact touches_refl _ _
  · refine touches_after ?_ (illegalTransition_touches _ _) (by decide)
    exact touches_refl _ _
  · exact touches_refl _ _

theorem hallAt_touches : ∀ a0 a1 a2,
    Touches [.cyc, .regs, .spindles, .pairs, .groups, .plate] a2 (hallAt a0 a1 a2) := by
  intro a0 a1 a2
  unfold hallAt
  split
  · refine touches_after ?_ (illegalTransition_touches _ _) (by decide)
    exact touches_refl _ _
  · extract_lets +onlyGivenNames x0
    clear_value x0
    extract_lets +onlyGivenNames x1
    refine touches_cut x1 ?_ (fun h1 => ?_)
    · unfold x1
      refine touches_after ?_ (State.setSpn_touches _ _ _) (by decide)
      exact touches_refl _ _
    clear_value x1
    split
    · refine touches_ite ?_ ?_
      · refine touches_after ?_ (lockFromCount_touches _ _) (by decide)
        assumption
      · assumption
    · split
      · assumption
      · refine touches_after ?_ (countEdge_touches _ _ _ _) (by decide)
        assumption
      · refine touches_after ?_ (countEdge_touches _ _ _ _) (by decide)
        assumption
      · refine touches_after ?_ (illegalTransition_touches _ _) (by decide)
        assumption

theorem setLevels_touches : ∀ a0 a1 a2,
    Touches [.encoders, .encSince] a2 (setLevels a0 a1 a2) := by
  intro a0 a1 a2
  unfold setLevels
  extract_lets +onlyGivenNames x0
  clear_value x0
  refine touches_after ?_ (touch_encoders_encSince _) (by decide)
  exact touches_refl _ _

theorem interfaceChange_touches : ∀ a0 a1 a2,
    Touches (.cyc :: .regs :: .spindles :: .encoders :: .encSince :: .pairs :: .groups :: .plate :: []) a2 (interfaceChange a0 a1 a2) := by
  intro a0 a1 a2
  unfold interfaceChange
  refine touches_forEach (fun _ _ _ => ?_) ?_
  · extract_lets +onlyGivenNames x0
    clear_value x0
    extract_lets +onlyGivenNames x1
    clear_value x1
    extract_lets +onlyGivenNames x2
    refine touches_cut x2 ?_ (fun h2 => ?_)
    · unfold x2
      refine touches_after ?_ (State.setSpn_touches _ _ _) (by decide)
      assumption
    clear_value x2
    refine touches_ite ?_ ?_
    · assumption
    · refine touches_ite ?_ ?_
      · refine touches_after ?_ (encoderAt_touches _ _ _ _ _ _) (by decide)
        assumption
      · refine touches_after ?_ (hallAt_touches _ _ _) (by decide)
        assumption
  · refine touches_after ?_ (setLevels_touches _ _ _) (by decide)
    exact touches_refl _ _

theorem encoderPins_touches : ∀ a0 a1 a2,
    Touches (.cyc :: .regs :: .spindles :: .encoders :: .encSince :: .pairs :: .groups :: .plate :: []) a2 (encoderPins a0 a1 a2) := by
  intro a0 a1 a2
  unfold encoderPins
  refine touches_ite ?_ ?_
  · refine touches_after ?_ (interfaceChange_touches _ _ _) (by decide)
    exact touches_refl _ _
  · refine touches_after ?_ (setLevels_touches _ _ _) (by decide)
    exact touches_refl _ _

theorem execEncoderEdge_touches : ∀ a0 a1 a2 a3,
    ∃ t, execEncoderEdge a0 a1 a2 a3 = .next t ∧ Touches (.cyc :: .regs :: .spindles :: .encoders :: .encSince :: .pairs :: .groups :: .plate :: []) a3 t := by
  intro a0 a1 a2 a3
  unfold execEncoderEdge
  refine ⟨_, rfl, ?_⟩
  refine touches_after ?_ (encoderPins_touches _ _ _) (by decide)
  exact touches_refl _ _

theorem execHallCodeChange_touches : ∀ a0 a1 a2,
    ∃ t, execHallCodeChange a0 a1 a2 = .next t ∧ Touches (.cyc :: .regs :: .spindles :: .encoders :: .encSince :: .pairs :: .groups :: .plate :: []) a2 t := by
  intro a0 a1 a2
  unfold execHallCodeChange
  refine ⟨_, rfl, ?_⟩
  refine touches_after ?_ (encoderPins_touches _ _ _) (by decide)
  exact touches_refl _ _

theorem zeroCount_touches : ∀ a0 a1,
    Touches [.spindles] a1 (zeroCount a0 a1) := by
  intro a0 a1
  unfold zeroCount
  refine touches_after ?_ (State.setSpn_touches _ _ _) (by decide)
  exact touches_refl _ _

theorem indexAt_touches : ∀ a0 a1,
    Touches [.cyc, .regs, .spindles, .pairs, .groups, .plate] a1 (indexAt a0 a1) := by
  intro a0 a1
  unfold indexAt
  extract_lets +onlyGivenNames x0
  clear_value x0
  extract_lets +onlyGivenNames x1
  clear_value x1
  refine touches_ite ?_ ?_
  · refine touches_after ?_ (lockFromCount_touches _ _) (by decide)
    refine touches_after ?_ (zeroCount_touches _ _) (by decide)
    exact touches_refl _ _
  · refine touches_ite ?_ ?_
    · exact touches_refl _ _
    · refine touches_ite ?_ ?_
      · refine touches_ite ?_ ?_
        · refine touches_after ?_ (setUncertain_touches _ _ _) (by decide)
          refine touches_after ?_ (State.setSpn_touches _ _ _) (by decide)
          exact touches_refl _ _
        · extract_lets +onlyGivenNames x2
          refine touches_cut x2 ?_ (fun h2 => ?_)
          · unfold x2
            refine touches_after ?_ (rcUpFld_touches _ _ _ _ _) (by decide)
            exact touches_refl _ _
          clear_value x2
          refine touches_ite ?_ ?_
          · extract_lets +onlyGivenNames x3
            refine touches_cut x3 ?_ (fun h3 => ?_)
            · unfold x3
              refine touches_after ?_ (setUncertain_touches _ _ _) (by decide)
              refine touches_after ?_ (zeroCount_touches _ _) (by decide)
              assumption
            clear_value x3
            extract_lets +onlyGivenNames x4
            clear_value x4
            refine touches_after ?_ (resyncTo_touches _ _ _) (by decide)
            refine touches_after ?_ (State.setSpn_touches _ _ _) (by decide)
            assumption
          · refine touches_after ?_ (toCoast_touches _ _) (by decide)
            refine touches_after ?_ (setUncertain_touches _ _ _) (by decide)
            assumption
      · refine touches_ite ?_ ?_
        · refine touches_after ?_ (lockFromCount_touches _ _) (by decide)
          refine touches_after ?_ (zeroCount_touches _ _) (by decide)
          exact touches_refl _ _
        · exact touches_refl _ _

theorem indexPulseEff_touches : ∀ a0 a1,
    Touches (.cyc :: .pulses :: .regs :: .spindles :: .encoders :: .encSince :: .pairs :: .groups :: .plate :: []) a1 (indexPulseEff a0 a1) := by
  intro a0 a1
  unfold indexPulseEff
  extract_lets +onlyGivenNames x0
  clear_value x0
  refine touches_forEach (fun _ _ _ => ?_) ?_
  · extract_lets +onlyGivenNames x1
    clear_value x1
    extract_lets +onlyGivenNames x2
    clear_value x2
    extract_lets +onlyGivenNames x3
    refine touches_cut x3 ?_ (fun h3 => ?_)
    · unfold x3
      refine touches_after ?_ (State.setSpn_touches _ _ _) (by decide)
      assumption
    clear_value x3
    refine touches_ite ?_ ?_
    · refine touches_after ?_ (indexAt_touches _ _) (by decide)
      assumption
    · refine touches_ite ?_ ?_
      · assumption
      · refine touches_after ?_ (hallAt_touches _ _ _) (by decide)
        assumption
  · refine touches_after ?_ (notePulse_touches _ _) (by decide)
    refine touches_after ?_ (setLevels_touches _ _ _) (by decide)
    exact touches_refl _ _

theorem execIndexPulse_touches : ∀ a0 a1,
    ∃ t, execIndexPulse a0 a1 = .next t ∧ Touches (.cyc :: .pulses :: .regs :: .spindles :: .encoders :: .encSince :: .pairs :: .groups :: .plate :: []) a1 t := by
  intro a0 a1
  unfold execIndexPulse
  refine ⟨_, rfl, ?_⟩
  refine touches_ite ?_ ?_
  · refine touches_after ?_ (indexPulseEff_touches _ _) (by decide)
    exact touches_refl _ _
  · exact touches_refl _ _

theorem freeResync_touches : ∀ a0 a1,
    Touches [.cyc, .regs, .spindles, .pairs, .groups, .plate] a1 (freeResync a0 a1) := by
  intro a0 a1
  unfold freeResync
  refine touches_ite ?_ ?_
  · refine touches_after ?_ (setSpnState_touches _ _ _) (by decide)
    refine touches_after ?_ (resyncTo_touches _ _ _) (by decide)
    exact touches_refl _ _
  · refine touches_after ?_ (resyncTo_touches _ _ _) (by decide)
    refine touches_after ?_ (setVel_touches _ _ _) (by decide)
    refine touches_after ?_ (setSpnState_touches _ _ _) (by decide)
    exact touches_refl _ _

theorem freeRecompute_touches : ∀ a0 a1,
    Touches [.cyc, .regs, .spindles, .pairs, .groups, .plate] a1 (freeRecompute a0 a1) := by
  intro a0 a1
  unfold freeRecompute
  refine touches_after ?_ (freeResync_touches _ _) (by decide)
  refine touches_after ?_ (State.setSpn_touches _ _ _) (by decide)
  exact touches_refl _ _

theorem execFreeSpindleEpoch_touches : ∀ a0 a1,
    ∃ t, execFreeSpindleEpoch a0 a1 = .next t ∧ Touches [.cyc, .regs, .spindles, .pairs, .groups, .plate] a1 t := by
  intro a0 a1
  unfold execFreeSpindleEpoch
  refine ⟨_, rfl, ?_⟩
  refine touches_ite ?_ ?_
  · refine touches_after ?_ (freeResync_touches _ _) (by decide)
    exact touches_refl _ _
  · exact touches_refl _ _

theorem epochWrite_touches : ∀ a0 a1 a2,
    Touches [.cyc, .regs, .spindles, .pairs, .groups, .plate] a2 (epochWrite a0 a1 a2) := by
  intro a0 a1 a2
  unfold epochWrite
  extract_lets +onlyGivenNames x0
  refine touches_cut x0 ?_ (fun h0 => ?_)
  · unfold x0
    refine touches_after ?_ (State.setReg_touches _ _ _) (by decide)
    refine touches_after ?_ (State.setReg_touches _ _ _) (by decide)
    exact touches_refl _ _
  clear_value x0
  refine touches_ite ?_ ?_
  · refine touches_after ?_ (freeRecompute_touches _ _) (by decide)
    assumption
  · assumption

theorem execSpnEpochLo_touches : ∀ a0 a1 a2,
    ∃ t, execSpnEpochLo a0 a1 a2 = .next t ∧ Touches [.cyc, .regs, .spindles, .pairs, .groups, .plate] a2 t := by
  intro a0 a1 a2
  unfold execSpnEpochLo
  refine ⟨_, rfl, ?_⟩
  refine touches_ite ?_ ?_
  · refine touches_after ?_ (epochWrite_touches _ _ _) (by decide)
    exact touches_refl _ _
  · exact touches_refl _ _

theorem periodWrite_touches : ∀ a0 a1 a2,
    Touches [.cyc, .regs, .spindles, .pairs, .groups, .plate] a2 (periodWrite a0 a1 a2) := by
  intro a0 a1 a2
  unfold periodWrite
  extract_lets +onlyGivenNames x0
  refine touches_cut x0 ?_ (fun h0 => ?_)
  · unfold x0
    refine touches_after ?_ (State.setReg_touches _ _ _) (by decide)
    exact touches_refl _ _
  clear_value x0
  refine touches_ite ?_ ?_
  · refine touches_after ?_ (freeRecompute_touches _ _) (by decide)
    assumption
  · assumption

theorem execSpnPeriod_touches : ∀ a0 a1 a2,
    ∃ t, execSpnPeriod a0 a1 a2 = .next t ∧ Touches [.cyc, .regs, .spindles, .pairs, .groups, .plate] a2 t := by
  intro a0 a1 a2
  unfold execSpnPeriod
  refine ⟨_, rfl, ?_⟩
  refine touches_ite ?_ ?_
  · refine touches_after ?_ (periodWrite_touches _ _ _) (by decide)
    exact touches_refl _ _
  · exact touches_refl _ _

theorem ptpStepEff_touches : ∀ a0 a1 a2,
    Touches [.cyc, .regs, .spindles, .ptp, .pairs, .groups, .plate] a2 (ptpStepEff a0 a1 a2) := by
  intro a0 a1 a2
  unfold ptpStepEff
  extract_lets +onlyGivenNames x0
  clear_value x0
  extract_lets +onlyGivenNames x1
  unfold x1
  clear x1
  extract_lets +onlyGivenNames x2
  refine touches_cut x2 ?_ (fun h2 => ?_)
  · unfold x2
    refine touches_after ?_ (touch_ptp _) (by decide)
    exact touches_refl _ _
  clear_value x2
  refine touches_forEach (fun _ _ _ => ?_) ?_
  · refine touches_after ?_ (freeResync_touches _ _) (by decide)
    assumption
  · assumption

theorem execPtpClockStep_touches : ∀ a0 a1 a2,
    ∃ t, execPtpClockStep a0 a1 a2 = .next t ∧ Touches [.cyc, .regs, .spindles, .ptp, .pairs, .groups, .plate] a2 t := by
  intro a0 a1 a2
  unfold execPtpClockStep
  refine ⟨_, rfl, ?_⟩
  refine touches_ite ?_ ?_
  · refine touches_after ?_ (ptpStepEff_touches _ _ _) (by decide)
    exact touches_refl _ _
  · exact touches_refl _ _

theorem macDisabledEff_touches : ∀ a0 a1,
    Touches [.cyc, .regs, .spindles, .pairs, .groups] a1 (macDisabledEff a0 a1) := by
  intro a0 a1
  unfold macDisabledEff
  refine touches_forEach (fun _ _ _ => ?_) ?_
  · refine touches_ite ?_ ?_
    · refine touches_after ?_ (toCoast_touches _ _) (by decide)
      refine touches_after ?_ (setVel_touches _ _ _) (by decide)
      assumption
    · assumption
  · exact touches_refl _ _

theorem execMacClockDisabled_touches : ∀ a0 a1,
    ∃ t, execMacClockDisabled a0 a1 = .next t ∧ Touches [.cyc, .regs, .spindles, .pairs, .groups] a1 t := by
  intro a0 a1
  unfold execMacClockDisabled
  refine ⟨_, rfl, ?_⟩
  refine touches_ite ?_ ?_
  · refine touches_after ?_ (macDisabledEff_touches _ _) (by decide)
    refine touches_after ?_ (State.setBit_touches _ _ _ _) (by decide)
    exact touches_refl _ _
  · exact touches_refl _ _

theorem spoilSpindle_touches : ∀ a0 a1,
    Touches [.freeCtr, .cyc, .pulses, .regs, .spindles, .pairs, .groups] a1 (spoilSpindle a0 a1) := by
  intro a0 a1
  unfold spoilSpindle
  extract_lets +onlyGivenNames x0
  clear_value x0
  extract_lets +onlyGivenNames x1
  refine touches_cut x1 ?_ (fun h1 => ?_)
  · unfold x1
    refine touches_after ?_ (spoilRegs_touches _ _ _) (by decide)
    refine touches_after ?_ (State.setSpn_touches _ _ _) (by decide)
    refine touches_after ?_ (takeState_touches _) (by decide)
    exact touches_refl _ _
  clear_value x1
  extract_lets +onlyGivenNames x2
  refine touches_cut x2 ?_ (fun h2 => ?_)
  · unfold x2
    refine touches_forEach (fun _ _ _ => ?_) ?_
    · extract_lets +onlyGivenNames x3
      clear_value x3
      extract_lets +onlyGivenNames x4
      refine touches_cut x4 ?_ (fun h4 => ?_)
      · unfold x4
        refine touches_ite ?_ ?_
        · refine touches_after ?_ (notePulse_touches _ _) (by decide)
          assumption
        · assumption
      clear_value x4
      refine touches_after ?_ (State.setReg_touches _ _ _) (by decide)
      assumption
    · assumption
  clear_value x2
  extract_lets +onlyGivenNames x5
  clear_value x5
  extract_lets +onlyGivenNames x6
  refine touches_cut x6 ?_ (fun h6 => ?_)
  · unfold x6
    refine touches_ite ?_ ?_
    · refine touches_after ?_ (State.setFld_touches _ _ _ _ _) (by decide)
      assumption
    · assumption
  clear_value x6
  refine touches_ite ?_ ?_
  · assumption
  · refine touches_after ?_ (spindleUnusable_touches _ _) (by decide)
    assumption

theorem startSpindle_touches : ∀ a0 a1,
    Touches [.cyc, .regs, .spindles, .pairs, .groups, .plate] a1 (startSpindle a0 a1) := by
  intro a0 a1
  unfold startSpindle
  extract_lets +onlyGivenNames x0
  clear_value x0
  extract_lets +onlyGivenNames x1
  refine touches_cut x1 ?_ (fun h1 => ?_)
  · unfold x1
    refine touches_after ?_ (clearVel_touches _ _) (by decide)
    refine touches_after ?_ (State.setSpn_touches _ _ _) (by decide)
    exact touches_refl _ _
  clear_value x1
  extract_lets +onlyGivenNames x2
  refine touches_cut x2 ?_ (fun h2 => ?_)
  · unfold x2
    refine touches_after ?_ (setSpnState_touches _ _ _) (by decide)
    assumption
  clear_value x2
  refine touches_ite ?_ ?_
  · extract_lets +onlyGivenNames x3
    clear_value x3
    refine touches_ite ?_ ?_
    · refine touches_after ?_ (lockFromCount_touches _ _) (by decide)
      refine touches_after ?_ (State.setSpn_touches _ _ _) (by decide)
      assumption
    · assumption
  · refine touches_ite ?_ ?_
    · refine touches_after ?_ (freeRecompute_touches _ _) (by decide)
      assumption
    · refine touches_ite ?_ ?_
      · refine touches_after ?_ (resyncTo_touches _ _ _) (by decide)
        refine touches_after ?_ (setVel_touches _ _ _) (by decide)
        refine touches_after ?_ (setSpnState_touches _ _ _) (by decide)
        assumption
      · assumption

theorem settleSpindle_touches : ∀ a0 a1 a2,
    Touches (.freeCtr :: .cyc :: .pulses :: .regs :: .spindles :: .pairs :: .groups :: .plate :: []) a2 (settleSpindle a0 a1 a2) := by
  intro a0 a1 a2
  unfold settleSpindle
  refine touches_ite ?_ ?_
  · refine touches_after ?_ (spoilSpindle_touches _ _) (by decide)
    exact touches_refl _ _
  · refine touches_ite ?_ ?_
    · refine touches_after ?_ (startSpindle_touches _ _) (by decide)
      exact touches_refl _ _
    · exact touches_refl _ _

theorem spnCtrlWrite_touches : ∀ a0 a1 a2,
    Touches (.freeCtr :: .cyc :: .pulses :: .regs :: .spindles :: .pairs :: .groups :: .plate :: []) a2 (spnCtrlWrite a0 a1 a2) := by
  intro a0 a1 a2
  unfold spnCtrlWrite
  extract_lets +onlyGivenNames x0
  clear_value x0
  extract_lets +onlyGivenNames x1
  refine touches_cut x1 ?_ (fun h1 => ?_)
  · unfold x1
    refine touches_after ?_ (State.setReg_touches _ _ _) (by decide)
    exact touches_refl _ _
  clear_value x1
  refine touches_ite ?_ ?_
  · refine touches_after ?_ (setSpnState_touches _ _ _) (by decide)
    assumption
  · refine touches_ite ?_ ?_
    · refine touches_after ?_ (settleSpindle_touches _ _ _) (by decide)
      refine touches_after ?_ (startSpindle_touches _ _) (by decide)
      assumption
    · refine touches_after ?_ (settleSpindle_touches _ _ _) (by decide)
      assumption

theorem execSpindleEnable_touches : ∀ a0 a1 a2,
    ∃ t, execSpindleEnable a0 a1 a2 = .next t ∧ Touches (.freeCtr :: .cyc :: .pulses :: .regs :: .spindles :: .pairs :: .groups :: .plate :: []) a2 t := by
  intro a0 a1 a2
  unfold execSpindleEnable
  refine ⟨_, rfl, ?_⟩
  refine touches_ite ?_ ?_
  · refine touches_after ?_ (spnCtrlWrite_touches _ _ _) (by decide)
    exact touches_refl _ _
  · exact touches_refl _ _

theorem execSpindleDisable_touches : ∀ a0 a1 a2,
    ∃ t, execSpindleDisable a0 a1 a2 = .next t ∧ Touches (.freeCtr :: .cyc :: .pulses :: .regs :: .spindles :: .pairs :: .groups :: .plate :: []) a2 t := by
  intro a0 a1 a2
  unfold execSpindleDisable
  refine ⟨_, rfl, ?_⟩
  refine touches_ite ?_ ?_
  · refine touches_after ?_ (spnCtrlWrite_touches _ _ _) (by decide)
    exact touches_refl _ _
  · exact touches_refl _ _

theorem rebase_touches : ∀ a0 a1,
    Touches [.spindles] a1 (rebase a0 a1) := by
  intro a0 a1
  unfold rebase
  extract_lets +onlyGivenNames x0
  clear_value x0
  refine touches_after ?_ (State.setSpn_touches _ _ _) (by decide)
  exact touches_refl _ _

theorem setPhaseWrite_touches : ∀ a0 a1 a2,
    Touches [.cyc, .regs, .spindles, .plate] a2 (setPhaseWrite a0 a1 a2) := by
  intro a0 a1 a2
  unfold setPhaseWrite
  refine touches_ite ?_ ?_
  · exact touches_refl _ _
  · extract_lets +onlyGivenNames x0
    clear_value x0
    extract_lets +onlyGivenNames x1
    clear_value x1
    extract_lets +onlyGivenNames x2
    clear_value x2
    extract_lets +onlyGivenNames x3
    clear_value x3
    refine touches_after ?_ (rebase_touches _ _) (by decide)
    refine touches_after ?_ (resyncTo_touches _ _ _) (by decide)
    refine touches_after ?_ (State.setSpn_touches _ _ _) (by decide)
    exact touches_refl _ _

theorem execSpnSetPhase_touches : ∀ a0 a1 a2,
    ∃ t, execSpnSetPhase a0 a1 a2 = .next t ∧ Touches [.cyc, .regs, .spindles, .plate] a2 t := by
  intro a0 a1 a2
  unfold execSpnSetPhase
  refine ⟨_, rfl, ?_⟩
  refine touches_ite ?_ ?_
  · refine touches_after ?_ (setPhaseWrite_touches _ _ _) (by decide)
    exact touches_refl _ _
  · exact touches_refl _ _

theorem offsetWrite_touches : ∀ a0 a1 a2,
    Touches [.cyc, .regs, .spindles, .plate] a2 (offsetWrite a0 a1 a2) := by
  intro a0 a1 a2
  unfold offsetWrite
  extract_lets +onlyGivenNames x0
  clear_value x0
  extract_lets +onlyGivenNames x1
  refine touches_cut x1 ?_ (fun h1 => ?_)
  · unfold x1
    refine touches_after ?_ (State.setReg_touches _ _ _) (by decide)
    exact touches_refl _ _
  clear_value x1
  refine touches_ite ?_ ?_
  · assumption
  · extract_lets +onlyGivenNames x2
    clear_value x2
    refine touches_after ?_ (resyncTo_touches _ _ _) (by decide)
    assumption

theorem execSpnOffset_touches : ∀ a0 a1 a2,
    ∃ t, execSpnOffset a0 a1 a2 = .next t ∧ Touches [.cyc, .regs, .spindles, .plate] a2 t := by
  intro a0 a1 a2
  unfold execSpnOffset
  refine ⟨_, rfl, ?_⟩
  refine touches_ite ?_ ?_
  · refine touches_after ?_ (offsetWrite_touches _ _ _) (by decide)
    exact touches_refl _ _
  · exact touches_refl _ _

theorem keepPosition_touches : ∀ a0 a1,
    Touches [.cyc, .regs, .spindles, .plate] a1 (keepPosition a0 a1) := by
  intro a0 a1
  unfold keepPosition
  refine touches_after ?_ (rebase_touches _ _) (by decide)
  refine touches_after ?_ (resyncTo_touches _ _ _) (by decide)
  exact touches_refl _ _

theorem takeSource_touches : ∀ a0 a1,
    Touches [.cyc, .regs, .spindles, .plate] a1 (takeSource a0 a1) := by
  intro a0 a1
  unfold takeSource
  extract_lets +onlyGivenNames x0
  refine touches_cut x0 ?_ (fun h0 => ?_)
  · unfold x0
    refine touches_after ?_ (clearVel_touches _ _) (by decide)
    exact touches_refl _ _
  clear_value x0
  extract_lets +onlyGivenNames x1
  clear_value x1
  extract_lets +onlyGivenNames x2
  clear_value x2
  extract_lets +onlyGivenNames x3
  refine touches_cut x3 ?_ (fun h3 => ?_)
  · unfold x3
    refine touches_after ?_ (keepPosition_touches _ _) (by decide)
    refine touches_after ?_ (State.setSpn_touches _ _ _) (by decide)
    assumption
  clear_value x3
  refine touches_ite ?_ ?_
  · refine touches_after ?_ (setVelValid_touches _ _ _) (by decide)
    assumption
  · assumption

theorem sourceWrite_touches : ∀ a0 a1 a2 a3,
    Touches (.freeCtr :: .cyc :: .pulses :: .regs :: .spindles :: .pairs :: .groups :: .plate :: []) a3 (sourceWrite a0 a1 a2 a3) := by
  intro a0 a1 a2 a3
  unfold sourceWrite
  refine touches_ite ?_ ?_
  · extract_lets +onlyGivenNames x0
    refine touches_cut x0 ?_ (fun h0 => ?_)
    · unfold x0
      refine touches_after ?_ (State.setReg_touches _ _ _) (by decide)
      exact touches_refl _ _
    clear_value x0
    refine touches_ite ?_ ?_
    · assumption
    · refine touches_ite ?_ ?_
      · refine touches_after ?_ (takeSource_touches _ _) (by decide)
        assumption
      · refine touches_ite ?_ ?_
        · refine touches_after ?_ (resyncTo_touches _ _ _) (by decide)
          assumption
        · refine touches_after ?_ (keepPosition_touches _ _) (by decide)
          assumption
  · extract_lets +onlyGivenNames x1
    clear_value x1
    extract_lets +onlyGivenNames x2
    clear_value x2
    extract_lets +onlyGivenNames x3
    refine touches_cut x3 ?_ (fun h3 => ?_)
    · unfold x3
      refine touches_after ?_ (State.setReg_touches _ _ _) (by decide)
      exact touches_refl _ _
    clear_value x3
    extract_lets +onlyGivenNames x4
    clear_value x4
    extract_lets +onlyGivenNames x5
    clear_value x5
    refine touches_ite ?_ ?_
    · refine touches_after ?_ (settleSpindle_touches _ _ _) (by decide)
      refine touches_ite ?_ ?_
      · refine touches_after ?_ (freeRecompute_touches _ _) (by decide)
        assumption
      · refine touches_after ?_ (takeSource_touches _ _) (by decide)
        assumption
    · assumption

theorem execSpindleSourceChange_touches : ∀ a0 a1 a2 a3,
    ∃ t, execSpindleSourceChange a0 a1 a2 a3 = .next t ∧ Touches (.freeCtr :: .cyc :: .pulses :: .regs :: .spindles :: .pairs :: .groups :: .plate :: []) a3 t := by
  intro a0 a1 a2 a3
  unfold execSpindleSourceChange
  refine ⟨_, rfl, ?_⟩
  refine touches_ite ?_ ?_
  · refine touches_after ?_ (sourceWrite_touches _ _ _ _) (by decide)
    exact touches_refl _ _
  · exact touches_refl _ _

theorem timeoutEff_touches : ∀ a0 a1,
    Touches [.cyc, .regs, .spindles, .pairs, .groups] a1 (timeoutEff a0 a1) := by
  intro a0 a1
  unfold timeoutEff
  refine touches_ite ?_ ?_
  · refine touches_ite ?_ ?_
    · refine touches_after ?_ (setSpnState_touches _ _ _) (by decide)
      refine touches_after ?_ (clearVel_touches _ _) (by decide)
      refine touches_after ?_ (stepTo_touches _ _ _) (by decide)
      exact touches_refl _ _
    · refine touches_ite ?_ ?_
      · refine touches_after ?_ (toCoast_touches _ _) (by decide)
        exact touches_refl _ _
      · exact touches_refl _ _
  · exact touches_refl _ _

theorem execSpindleTimeout_touches : ∀ a0 a1,
    ∃ t, execSpindleTimeout a0 a1 = .next t ∧ Touches [.cyc, .regs, .spindles, .pairs, .groups] a1 t := by
  intro a0 a1
  unfold execSpindleTimeout
  refine ⟨_, rfl, ?_⟩
  refine touches_ite ?_ ?_
  · refine touches_after ?_ (timeoutEff_touches _ _) (by decide)
    exact touches_refl _ _
  · exact touches_refl _ _

theorem execSpindleCoastExpiry_touches : ∀ a0 a1,
    ∃ t, execSpindleCoastExpiry a0 a1 = .next t ∧ Touches [.cyc, .regs, .spindles, .pairs, .groups] a1 t := by
  intro a0 a1
  unfold execSpindleCoastExpiry
  refine ⟨_, rfl, ?_⟩
  refine touches_ite ?_ ?_
  · refine touches_after ?_ (setSpnState_touches _ _ _) (by decide)
    exact touches_refl _ _
  · exact touches_refl _ _

theorem partSpindle_touches : ∀ a0 a1,
    Touches [.cyc, .regs, .spindles, .pairs, .groups] a1 (partSpindle a0 a1) := by
  intro a0 a1
  unfold partSpindle
  refine touches_after ?_ (setSpnState_touches _ _ _) (by decide)
  exact touches_refl _ _

theorem observerMove_touches : ∀ a0 a1 a2,
    Touches [.cyc, .regs, .spindles, .plate] a2 (observerMove a0 a1 a2) := by
  intro a0 a1 a2
  unfold observerMove
  extract_lets +onlyGivenNames x0
  clear_value x0
  extract_lets +onlyGivenNames x1
  clear_value x1
  extract_lets +onlyGivenNames x2
  clear_value x2
  refine touches_ite ?_ ?_
  · refine touches_after ?_ (stepTo_touches _ _ _) (by decide)
    exact touches_refl _ _
  · refine touches_ite ?_ ?_
    · exact touches_refl _ _
    · refine touches_after ?_ (stepTo_touches _ _ _) (by decide)
      refine touches_after ?_ (setBackward_touches _ _ _) (by decide)
      exact touches_refl _ _

theorem noteOverspeed_touches : ∀ a0 a1 a2,
    Touches [.cyc, .regs] a2 (noteOverspeed a0 a1 a2) := by
  intro a0 a1 a2
  unfold noteOverspeed
  extract_lets +onlyGivenNames x0
  clear_value x0
  refine touches_ite ?_ ?_
  · refine touches_after ?_ (spnEvent_touches _ _ _) (by decide)
    exact touches_refl _ _
  · exact touches_refl _ _

theorem updateAt_touches : ∀ a0 a1 a2 a3 a4 a5,
    Touches [.cyc, .regs, .spindles, .pairs, .groups, .plate] a5 (updateAt a0 a1 a2 a3 a4 a5) := by
  intro a0 a1 a2 a3 a4 a5
  unfold updateAt
  extract_lets +onlyGivenNames x0
  clear_value x0
  refine touches_ite ?_ ?_
  · refine touches_ite ?_ ?_
    · extract_lets +onlyGivenNames x1
      refine touches_cut x1 ?_ (fun h1 => ?_)
      · unfold x1
        refine touches_after ?_ (setVelValid_touches _ _ _) (by decide)
        refine touches_after ?_ (noteOverspeed_touches _ _ _) (by decide)
        refine touches_after ?_ (setVel_touches _ _ _) (by decide)
        exact touches_refl _ _
      clear_value x1
      extract_lets +onlyGivenNames x2
      clear_value x2
      extract_lets +onlyGivenNames x3
      refine touches_cut x3 ?_ (fun h3 => ?_)
      · unfold x3
        refine touches_after ?_ (State.setSpn_touches _ _ _) (by decide)
        assumption
      clear_value x3
      refine touches_ite ?_ ?_
      · refine touches_after ?_ (stepTo_touches _ _ _) (by decide)
        assumption
      · refine touches_after ?_ (observerMove_touches _ _ _) (by decide)
        assumption
    · refine touches_after ?_ (toCoast_touches _ _) (by decide)
      exact touches_refl _ _
  · refine touches_ite ?_ ?_
    · extract_lets +onlyGivenNames x4
      refine touches_cut x4 ?_ (fun h4 => ?_)
      · unfold x4
        refine touches_after ?_ (lockAt_touches _ _ _) (by decide)
        refine touches_after ?_ (noteOverspeed_touches _ _ _) (by decide)
        refine touches_after ?_ (setVel_touches _ _ _) (by decide)
        exact touches_refl _ _
      clear_value x4
      refine touches_after ?_ (State.setSpn_touches _ _ _) (by decide)
      assumption
    · exact touches_refl _ _

theorem observerUpdateEff_touches : ∀ a0 a1 a2 a3 a4 a5,
    Touches [.cyc, .regs, .spindles, .pairs, .groups, .plate] a5 (observerUpdateEff a0 a1 a2 a3 a4 a5) := by
  intro a0 a1 a2 a3 a4 a5
  unfold observerUpdateEff
  refine touches_forEach (fun _ _ _ => ?_) ?_
  · refine touches_after ?_ (updateAt_touches _ _ _ _ _ _) (by decide)
    assumption
  · exact touches_refl _ _

theorem execObserverUpdate_touches : ∀ a0 a1 a2 a3 a4,
    ∃ t, execObserverUpdate a0 a1 a2 a3 a4 = .next t ∧ Touches [.cyc, .regs, .spindles, .pairs, .groups, .plate] a4 t := by
  intro a0 a1 a2 a3 a4
  unfold execObserverUpdate
  refine ⟨_, rfl, ?_⟩
  refine touches_ite ?_ ?_
  · refine touches_after ?_ (observerUpdateEff_touches _ _ _ _ _ _) (by decide)
    exact touches_refl _ _
  · exact touches_refl _ _

theorem mainsUpdateEff_touches : ∀ a0 a1 a2 a3 a4 a5 a6,
    Touches [.cyc, .regs, .spindles, .pairs, .groups, .plate] a6 (mainsUpdateEff a0 a1 a2 a3 a4 a5 a6) := by
  intro a0 a1 a2 a3 a4 a5 a6
  unfold mainsUpdateEff
  refine touches_forEach (fun _ _ _ => ?_) ?_
  · extract_lets +onlyGivenNames x0
    clear_value x0
    extract_lets +onlyGivenNames x1
    refine touches_cut x1 ?_ (fun h1 => ?_)
    · unfold x1
      refine touches_after ?_ (State.setReg_touches _ _ _) (by decide)
      refine touches_after ?_ (State.setReg_touches _ _ _) (by decide)
      assumption
    clear_value x1
    refine touches_after ?_ (updateAt_touches _ _ _ _ _ _) (by decide)
    assumption
  · exact touches_refl _ _

theorem execMainsUpdate_touches : ∀ a0 a1 a2 a3 a4 a5,
    ∃ t, execMainsUpdate a0 a1 a2 a3 a4 a5 = .next t ∧ Touches [.cyc, .regs, .spindles, .pairs, .groups, .plate] a5 t := by
  intro a0 a1 a2 a3 a4 a5
  unfold execMainsUpdate
  refine ⟨_, rfl, ?_⟩
  refine touches_ite ?_ ?_
  · refine touches_after ?_ (mainsUpdateEff_touches _ _ _ _ _ _ _) (by decide)
    exact touches_refl _ _
  · exact touches_refl _ _

theorem extrapolateTick_touches : ∀ a0 a1,
    Touches [.cyc, .regs, .spindles] a1 (extrapolateTick a0 a1) := by
  intro a0 a1
  unfold extrapolateTick
  extract_lets +onlyGivenNames x0
  clear_value x0
  extract_lets +onlyGivenNames x1
  clear_value x1
  extract_lets +onlyGivenNames x2
  clear_value x2
  extract_lets +onlyGivenNames x3
  clear_value x3
  extract_lets +onlyGivenNames x4
  refine touches_cut x4 ?_ (fun h4 => ?_)
  · unfold x4
    refine touches_after ?_ (stepTo_touches _ _ _) (by decide)
    exact touches_refl _ _
  clear_value x4
  refine touches_ite ?_ ?_
  · refine touches_after ?_ (spnEvent_touches _ _ _) (by decide)
    assumption
  · assumption

theorem spindleTick_touches : ∀ a0 a1,
    Touches (.freeCtr :: .cyc :: .pulses :: .regs :: .spindles :: .pairs :: .groups :: .plate :: []) a1 (spindleTick a0 a1) := by
  intro a0 a1
  unfold spindleTick
  extract_lets +onlyGivenNames x0
  clear_value x0
  extract_lets +onlyGivenNames x1
  refine touches_cut x1 ?_ (fun h1 => ?_)
  · unfold x1
    refine touches_after ?_ (State.setSpn_touches _ _ _) (by decide)
    exact touches_refl _ _
  clear_value x1
  refine touches_ite ?_ ?_
  · refine touches_after ?_ (spoilSpindle_touches _ _) (by decide)
    assumption
  · extract_lets +onlyGivenNames x2
    clear_value x2
    refine touches_ite ?_ ?_
    · refine touches_after ?_ (stepTo_touches _ _ _) (by decide)
      assumption
    · refine touches_ite ?_ ?_
      · refine touches_ite ?_ ?_
        · refine touches_ite ?_ ?_
          · refine touches_after ?_ (extrapolateTick_touches _ _) (by decide)
            assumption
          · assumption
        · refine touches_ite ?_ ?_
          · refine touches_after ?_ (observerMove_touches _ _ _) (by decide)
            assumption
          · refine touches_ite ?_ ?_
            · refine touches_after ?_ (stepTo_touches _ _ _) (by decide)
              assumption
            · refine touches_ite ?_ ?_
              · extract_lets +onlyGivenNames x3
                clear_value x3
                extract_lets +onlyGivenNames x4
                refine touches_cut x4 ?_ (fun h4 => ?_)
                · unfold x4
                  refine touches_after ?_ (State.setSpn_touches _ _ _) (by decide)
                  assumption
                clear_value x4
                refine touches_ite ?_ ?_
                · assumption
                · refine touches_after ?_ (setVel_touches _ _ _) (by decide)
                  assumption
              · refine touches_ite ?_ ?_
                · refine touches_after ?_ (State.setSpn_touches _ _ _) (by decide)
                  assumption
                · assumption
      · assumption

theorem compareFires_touches : ∀ a0 a1 a2 a3,
    Touches [.cyc, .pulses, .regs, .spindles] a3 (compareFires a0 a1 a2 a3) := by
  intro a0 a1 a2 a3
  unfold compareFires
  extract_lets +onlyGivenNames x0
  clear_value x0
  extract_lets +onlyGivenNames x1
  clear_value x1
  extract_lets +onlyGivenNames x2
  refine touches_cut x2 ?_ (fun h2 => ?_)
  · unfold x2
    refine touches_after ?_ (spnEvent_touches _ _ _) (by decide)
    refine touches_after ?_ (State.setReg_touches _ _ _) (by decide)
    exact touches_refl _ _
  clear_value x2
  extract_lets +onlyGivenNames x3
  clear_value x3
  extract_lets +onlyGivenNames x4
  clear_value x4
  split
  · refine touches_after ?_ (notePulse_touches _ _) (by decide)
    refine touches_after ?_ (State.setSpn_touches _ _ _) (by decide)
    assumption
  · refine touches_after ?_ (notePulse_touches _ _) (by decide)
    refine touches_after ?_ (State.setSpn_touches _ _ _) (by decide)
    assumption
  · refine touches_after ?_ (State.setSpn_touches _ _ _) (by decide)
    assumption

theorem cmpCtlWriteSpn_touches : ∀ a0 a1 a2 a3,
    Touches (.freeCtr :: .cyc :: .pulses :: .regs :: .spindles :: .pairs :: .groups :: .plate :: []) a3 (cmpCtlWriteSpn a0 a1 a2 a3) := by
  intro a0 a1 a2 a3
  unfold cmpCtlWriteSpn
  extract_lets +onlyGivenNames x0
  clear_value x0
  extract_lets +onlyGivenNames x1
  clear_value x1
  extract_lets +onlyGivenNames x2
  refine touches_cut x2 ?_ (fun h2 => ?_)
  · unfold x2
    refine touches_after ?_ (State.setReg_touches _ _ _) (by decide)
    exact touches_refl _ _
  clear_value x2
  extract_lets +onlyGivenNames x3
  clear_value x3
  extract_lets +onlyGivenNames x4
  clear_value x4
  extract_lets +onlyGivenNames x5
  clear_value x5
  refine touches_ite ?_ ?_
  · refine touches_after ?_ (settleSpindle_touches _ _ _) (by decide)
    assumption
  · refine touches_ite ?_ ?_
    · refine touches_after ?_ (compareFires_touches _ _ _ _) (by decide)
      assumption
    · assumption

theorem execCompareArm_touches : ∀ a0 a1 a2 a3,
    ∃ t, execCompareArm a0 a1 a2 a3 = .next t ∧ Touches (.freeCtr :: .cyc :: .pulses :: .regs :: .spindles :: .pairs :: .groups :: .plate :: []) a3 t := by
  intro a0 a1 a2 a3
  unfold execCompareArm
  refine ⟨_, rfl, ?_⟩
  refine touches_ite ?_ ?_
  · refine touches_after ?_ (cmpCtlWriteSpn_touches _ _ _ _) (by decide)
    exact touches_refl _ _
  · exact touches_refl _ _

theorem compareFireEff_touches : ∀ a0 a1 a2,
    Touches [.freeCtr, .cyc, .pulses, .regs, .spindles, .pairs, .groups] a2 (compareFireEff a0 a1 a2) := by
  intro a0 a1 a2
  unfold compareFireEff
  extract_lets +onlyGivenNames x0
  clear_value x0
  extract_lets +onlyGivenNames x1
  clear_value x1
  extract_lets +onlyGivenNames x2
  clear_value x2
  extract_lets +onlyGivenNames x3
  clear_value x3
  refine touches_ite ?_ ?_
  · refine touches_after ?_ (spoilSpindle_touches _ _) (by decide)
    exact touches_refl _ _
  · refine touches_ite ?_ ?_
    · refine touches_after ?_ (compareFires_touches _ _ _ _) (by decide)
      exact touches_refl _ _
    · exact touches_refl _ _

theorem execCompareFire_touches : ∀ a0 a1 a2,
    ∃ t, execCompareFire a0 a1 a2 = .next t ∧ Touches [.freeCtr, .cyc, .pulses, .regs, .spindles, .pairs, .groups] a2 t := by
  intro a0 a1 a2
  unfold execCompareFire
  refine ⟨_, rfl, ?_⟩
  refine touches_ite ?_ ?_
  · refine touches_after ?_ (compareFireEff_touches _ _ _) (by decide)
    exact touches_refl _ _
  · exact touches_refl _ _

theorem capture_touches : ∀ a0 a1 a2,
    Touches [.cyc, .regs] a2 (capture a0 a1 a2) := by
  intro a0 a1 a2
  unfold capture
  refine touches_ite ?_ ?_
  · exact touches_refl _ _
  · extract_lets +onlyGivenNames x0
    clear_value x0
    extract_lets +onlyGivenNames x1
    clear_value x1
    extract_lets +onlyGivenNames x2
    refine touches_cut x2 ?_ (fun h2 => ?_)
    · unfold x2
      refine touches_ite ?_ ?_
      · exact touches_refl _ _
      · refine touches_after ?_ (State.setReg_touches _ _ _) (by decide)
        refine touches_after ?_ (State.setReg_touches _ _ _) (by decide)
        exact touches_refl _ _
    clear_value x2
    refine touches_after ?_ (spnEvent_touches _ _ _) (by decide)
    assumption

theorem captureTriggerEff_touches : ∀ a0 a1,
    Touches [.cyc, .regs] a1 (captureTriggerEff a0 a1) := by
  intro a0 a1
  unfold captureTriggerEff
  refine touches_ite ?_ ?_
  · refine touches_forEach (fun _ _ _ => ?_) ?_
    · refine touches_forEach (fun _ _ _ => ?_) ?_
      · refine touches_ite ?_ ?_
        · refine touches_after ?_ (capture_touches _ _ _) (by decide)
          assumption
        · assumption
      · assumption
    · exact touches_refl _ _
  · exact touches_refl _ _

theorem execCaptureTrigger_touches : ∀ a0 a1,
    ∃ t, execCaptureTrigger a0 a1 = .next t ∧ Touches [.cyc, .regs] a1 t := by
  intro a0 a1
  unfold execCaptureTrigger
  refine ⟨_, rfl, ?_⟩
  refine touches_ite ?_ ?_
  · refine touches_after ?_ (captureTriggerEff_touches _ _) (by decide)
    exact touches_refl _ _
  · exact touches_refl _ _

theorem capCtlWrite_touches : ∀ a0 a1 a2,
    Touches (.freeCtr :: .cyc :: .pulses :: .regs :: .spindles :: .pairs :: .groups :: .plate :: []) a2 (capCtlWrite a0 a1 a2) := by
  intro a0 a1 a2
  unfold capCtlWrite
  extract_lets +onlyGivenNames x0
  refine touches_cut x0 ?_ (fun h0 => ?_)
  · unfold x0
    refine touches_after ?_ (settleSpindle_touches _ _ _) (by decide)
    refine touches_after ?_ (State.setReg_touches _ _ _) (by decide)
    exact touches_refl _ _
  clear_value x0
  extract_lets +onlyGivenNames x1
  refine touches_cut x1 ?_ (fun h1 => ?_)
  · unfold x1
    refine touches_ite ?_ ?_
    · refine touches_after ?_ (capture_touches _ _ _) (by decide)
      assumption
    · assumption
  clear_value x1
  refine touches_ite ?_ ?_
  · refine touches_after ?_ (capture_touches _ _ _) (by decide)
    assumption
  · assumption

theorem execSwTrigger_touches : ∀ a0 a1 a2,
    ∃ t, execSwTrigger a0 a1 a2 = .next t ∧ Touches (.freeCtr :: .cyc :: .pulses :: .regs :: .spindles :: .pairs :: .groups :: .plate :: []) a2 t := by
  intro a0 a1 a2
  unfold execSwTrigger
  refine ⟨_, rfl, ?_⟩
  refine touches_ite ?_ ?_
  · refine touches_after ?_ (capCtlWrite_touches _ _ _) (by decide)
    exact touches_refl _ _
  · exact touches_refl _ _

theorem State.setTimer_touches : ∀ a0 a1 a2,
    Touches [.timers] a0 (State.setTimer a0 a1 a2) := by
  intro a0 a1 a2
  unfold State.setTimer
  refine touches_after ?_ (touch_timers _) (by decide)
  exact touches_refl _ _

theorem gtEvent_touches : ∀ a0 a1 a2,
    Touches [.cyc, .regs] a2 (gtEvent a0 a1 a2) := by
  intro a0 a1 a2
  unfold gtEvent
  refine touches_after ?_ (raiseStatus_touches _ _ _ _ _) (by decide)
  exact touches_refl _ _

theorem noteMoved_touches : ∀ a0 a1,
    Touches [.timers] a1 (noteMoved a0 a1) := by
  intro a0 a1
  unfold noteMoved
  refine touches_after ?_ (State.setTimer_touches _ _ _) (by decide)
  exact touches_refl _ _

theorem gtWrap_touches : ∀ a0 a1,
    Touches [.cyc, .regs, .timers] a1 (gtWrap a0 a1) := by
  intro a0 a1
  unfold gtWrap
  extract_lets +onlyGivenNames x0
  clear_value x0
  extract_lets +onlyGivenNames x1
  refine touches_cut x1 ?_ (fun h1 => ?_)
  · unfold x1
    refine touches_after ?_ (noteMoved_touches _ _) (by decide)
    refine touches_after ?_ (State.setReg_touches _ _ _) (by decide)
    exact touches_refl _ _
  clear_value x1
  extract_lets +onlyGivenNames x2
  refine touches_cut x2 ?_ (fun h2 => ?_)
  · unfold x2
    refine touches_ite ?_ ?_
    · refine touches_after ?_ (State.setBit_touches _ _ _ _) (by decide)
      assumption
    · assumption
  clear_value x2
  refine touches_after ?_ (gtEvent_touches _ _ _) (by decide)
  assumption

theorem gtStep_touches : ∀ a0 a1,
    Touches [.cyc, .regs, .timers] a1 (gtStep a0 a1) := by
  intro a0 a1
  unfold gtStep
  refine touches_ite ?_ ?_
  · refine touches_after ?_ (gtWrap_touches _ _) (by decide)
    exact touches_refl _ _
  · refine touches_after ?_ (noteMoved_touches _ _) (by decide)
    refine touches_after ?_ (State.setReg_touches _ _ _) (by decide)
    exact touches_refl _ _

theorem timerWrapEff_touches : ∀ a0 a1,
    Touches [.cyc, .regs, .timers] a1 (timerWrapEff a0 a1) := by
  intro a0 a1
  unfold timerWrapEff
  refine touches_ite ?_ ?_
  · extract_lets +onlyGivenNames x0
    refine touches_cut x0 ?_ (fun h0 => ?_)
    · unfold x0
      refine touches_after ?_ (gtWrap_touches _ _) (by decide)
      exact touches_refl _ _
    clear_value x0
    extract_lets +onlyGivenNames x1
    clear_value x1
    extract_lets +onlyGivenNames x2
    refine touches_cut x2 ?_ (fun h2 => ?_)
    · unfold x2
      refine touches_after ?_ (State.setTimer_touches _ _ _) (by decide)
      assumption
    clear_value x2
    refine touches_ite ?_ ?_
    · refine touches_after ?_ (gtStep_touches _ _) (by decide)
      assumption
    · assumption
  · exact touches_refl _ _

theorem execTimerWrap_touches : ∀ a0 a1,
    ∃ t, execTimerWrap a0 a1 = .next t ∧ Touches [.cyc, .regs, .timers] a1 t := by
  intro a0 a1
  unfold execTimerWrap
  refine ⟨_, rfl, ?_⟩
  refine touches_ite ?_ ?_
  · refine touches_after ?_ (timerWrapEff_touches _ _) (by decide)
    exact touches_refl _ _
  · exact touches_refl _ _

theorem gtFire_touches : ∀ a0 a1 a2,
    Touches [.cyc, .regs] a2 (gtFire a0 a1 a2) := by
  intro a0 a1 a2
  unfold gtFire
  extract_lets +onlyGivenNames x0
  clear_value x0
  refine touches_after ?_ (gtEvent_touches _ _ _) (by decide)
  refine touches_after ?_ (State.setReg_touches _ _ _) (by decide)
  exact touches_refl _ _

theorem timerCompareEff_touches : ∀ a0 a1,
    Touches [.cyc, .regs, .timers] a1 (timerCompareEff a0 a1) := by
  intro a0 a1
  unfold timerCompareEff
  extract_lets +onlyGivenNames x0
  clear_value x0
  extract_lets +onlyGivenNames x1
  clear_value x1
  refine touches_ite ?_ ?_
  · refine touches_ite ?_ ?_
    · refine touches_after ?_ (gtFire_touches _ _ _) (by decide)
      refine touches_after ?_ (State.setTimer_touches _ _ _) (by decide)
      exact touches_refl _ _
    · refine touches_ite ?_ ?_
      · refine touches_after ?_ (gtFire_touches _ _ _) (by decide)
        refine touches_after ?_ (State.setTimer_touches _ _ _) (by decide)
        exact touches_refl _ _
      · exact touches_refl _ _
  · exact touches_refl _ _

theorem execTimerCompare_touches : ∀ a0 a1,
    ∃ t, execTimerCompare a0 a1 = .next t ∧ Touches [.cyc, .regs, .timers] a1 t := by
  intro a0 a1
  unfold execTimerCompare
  refine ⟨_, rfl, ?_⟩
  refine touches_ite ?_ ?_
  · refine touches_after ?_ (timerCompareEff_touches _ _) (by decide)
    exact touches_refl _ _
  · exact touches_refl _ _

theorem gtCountWrite_touches : ∀ a0 a1 a2,
    Touches [.regs, .timers] a2 (gtCountWrite a0 a1 a2) := by
  intro a0 a1 a2
  unfold gtCountWrite
  refine touches_after ?_ (State.setTimer_touches _ _ _) (by decide)
  refine touches_after ?_ (State.setReg_touches _ _ _) (by decide)
  exact touches_refl _ _

theorem execGtCount_touches : ∀ a0 a1 a2,
    ∃ t, execGtCount a0 a1 a2 = .next t ∧ Touches [.regs, .timers] a2 t := by
  intro a0 a1 a2
  unfold execGtCount
  refine ⟨_, rfl, ?_⟩
  refine touches_ite ?_ ?_
  · refine touches_after ?_ (gtCountWrite_touches _ _ _) (by decide)
    exact touches_refl _ _
  · exact touches_refl _ _

theorem gtCtlWrite_touches : ∀ a0 a1 a2,
    Touches [.regs, .timers] a2 (gtCtlWrite a0 a1 a2) := by
  intro a0 a1 a2
  unfold gtCtlWrite
  extract_lets +onlyGivenNames x0
  clear_value x0
  extract_lets +onlyGivenNames x1
  clear_value x1
  extract_lets +onlyGivenNames x2
  refine touches_cut x2 ?_ (fun h2 => ?_)
  · unfold x2
    refine touches_after ?_ (State.setReg_touches _ _ _) (by decide)
    exact touches_refl _ _
  clear_value x2
  refine touches_ite ?_ ?_
  · refine touches_after ?_ (State.setTimer_touches _ _ _) (by decide)
    assumption
  · assumption

theorem timerTick_touches : ∀ a0 a1,
    Touches [.cyc, .regs, .timers] a1 (timerTick a0 a1) := by
  intro a0 a1
  unfold timerTick
  extract_lets +onlyGivenNames x0
  clear_value x0
  extract_lets +onlyGivenNames x1
  clear_value x1
  refine touches_after ?_ (State.setTimer_touches _ _ _) (by decide)
  refine touches_ite ?_ ?_
  · refine touches_after ?_ (gtStep_touches _ _) (by decide)
    exact touches_refl _ _
  · exact touches_refl _ _

end Sys2Proof.Machine
end

