-- ==== Sys2Proof/Laws/TouchPlate.lean ====
section
/-! SUPPORT. Which parts of the state the definitions of Machine/Plate.lean touch: one lemma for each, the proofs written by a
script from their shape. -/

namespace Sys2Proof.Machine

theorem writeBoth_touches : ∀ a0 a1 a2,
    Touches [.mem, .poison] a2 (writeBoth a0 a1 a2) := by
  intro a0 a1 a2
  unfold writeBoth
  refine touches_after ?_ (State.store_touches _ _ _) (by decide)
  refine touches_after ?_ (State.store_touches _ _ _) (by decide)
  exact touches_refl _ _

theorem linkNext_touches : ∀ a0 a1,
    Touches [.plate, .mem, .poison] a1 (linkNext a0 a1) := by
  intro a0 a1
  fun_induction linkNext a0 a1
  · exact touches_refl _ _
  · refine touches_after ?_ (writeBoth_touches _ _ _) (by decide)
    exact touches_refl _ _
  · refine touches_after ?_ ‹_› (fun _ h => h)
    refine touches_after ?_ (writeBoth_touches _ _ _) (by decide)
    refine touches_after ?_ (State.setEntry_touches _ _ _) (by decide)
    exact touches_refl _ _

theorem syncHole_touches : ∀ a0 a1,
    Touches [.plate, .mem, .poison] a1 (syncHole a0 a1) := by
  intro a0 a1
  unfold syncHole
  extract_lets +onlyGivenNames x0
  clear_value x0
  extract_lets +onlyGivenNames x1
  clear_value x1
  refine touches_after ?_ (linkNext_touches _ _) (by decide)
  refine touches_after ?_ (writeBoth_touches _ _ _) (by decide)
  exact touches_refl _ _

theorem writeHole_touches : ∀ a0 a1 a2,
    Touches [.plate, .mem, .poison] a2 (writeHole a0 a1 a2) := by
  intro a0 a1 a2
  unfold writeHole
  refine touches_ite ?_ ?_
  · refine touches_after ?_ (syncHole_touches _ _) (by decide)
    exact touches_refl _ _
  · refine touches_after ?_ (State.setPlate_touches _ _) (by decide)
    exact touches_refl _ _

theorem execPlateStoreWriteDone_touches : ∀ a0 a1,
    ∃ t, execPlateStoreWriteDone a0 a1 = .next t ∧ Touches [.cyc, .regs, .plate, .mem, .poison] a1 t := by
  intro a0 a1
  unfold execPlateStoreWriteDone
  refine ⟨_, rfl, ?_⟩
  refine touches_ite ?_ ?_
  · extract_lets +onlyGivenNames x0
    refine touches_cut x0 ?_ (fun h0 => ?_)
    · unfold x0
      refine touches_after ?_ (syncHole_touches _ _) (by decide)
      exact touches_refl _ _
    clear_value x0
    refine touches_after ?_ (startFetches_touches _) (by decide)
    refine touches_after ?_ (State.setPlate_touches _ _) (by decide)
    assumption
  · exact touches_refl _ _

theorem spoilPartition_touches : ∀ a0 a1,
    Touches [.freeCtr, .regs, .plate] a1 (spoilPartition a0 a1) := by
  intro a0 a1
  unfold spoilPartition
  extract_lets +onlyGivenNames x0
  clear_value x0
  extract_lets +onlyGivenNames x1
  refine touches_cut x1 ?_ (fun h1 => ?_)
  · unfold x1
    refine touches_after ?_ (takeState_touches _) (by decide)
    exact touches_refl _ _
  clear_value x1
  extract_lets +onlyGivenNames x2
  unfold x2
  clear x2
  extract_lets +onlyGivenNames x3
  unfold x3
  clear x3
  extract_lets +onlyGivenNames x4
  clear_value x4
  extract_lets +onlyGivenNames x5
  clear_value x5
  extract_lets +onlyGivenNames x6
  refine touches_cut x6 ?_ (fun h6 => ?_)
  · unfold x6
    refine touches_after ?_ (State.setPlate_touches _ _) (by decide)
    assumption
  clear_value x6
  extract_lets +onlyGivenNames x7
  clear_value x7
  refine touches_after ?_ (State.setReg_touches _ _ _) (by decide)
  refine touches_after ?_ (State.setReg_touches _ _ _) (by decide)
  refine touches_after ?_ (State.setReg_touches _ _ _) (by decide)
  assumption

theorem partUndefined_touches : ∀ a0 a1,
    Touches [.freeCtr, .regs, .plate] a1 (partUndefined a0 a1) := by
  intro a0 a1
  unfold partUndefined
  refine touches_after ?_ (spoilPartition_touches _ _) (by decide)
  refine touches_after ?_ (State.setPlate_touches _ _) (by decide)
  exact touches_refl _ _

theorem partDefined_touches : ∀ a0 a1,
    Touches [.plate] a1 (partDefined a0 a1) := by
  intro a0 a1
  unfold partDefined
  refine touches_after ?_ (State.setPlate_touches _ _) (by decide)
  exact touches_refl _ _

theorem storeTouched_touches : ∀ a0 a1 a2,
    Touches [.freeCtr, .regs, .plate] a2 (storeTouched a0 a1 a2) := by
  intro a0 a1 a2
  unfold storeTouched
  extract_lets +onlyGivenNames x0
  unfold x0
  clear x0
  refine touches_ite ?_ ?_
  · refine touches_forEach (fun _ _ _ => ?_) ?_
    · refine touches_after ?_ (partUndefined_touches _ _) (by decide)
      assumption
    · exact touches_refl _ _
  · exact touches_refl _ _

theorem makeDue_touches : ∀ a0 a1 a2 a3,
    Touches [.plate] a3 (makeDue a0 a1 a2 a3) := by
  intro a0 a1 a2 a3
  unfold makeDue
  extract_lets +onlyGivenNames x0
  clear_value x0
  extract_lets +onlyGivenNames x1
  refine touches_cut x1 ?_ (fun h1 => ?_)
  · unfold x1
    refine touches_after ?_ (State.setEntry_touches _ _ _) (by decide)
    exact touches_refl _ _
  clear_value x1
  refine touches_after ?_ (State.setPlate_touches _ _) (by decide)
  assumption

theorem countLate_touches : ∀ a0 a1 a2 a3,
    Touches [.cyc, .regs] a3 (countLate a0 a1 a2 a3) := by
  intro a0 a1 a2 a3
  unfold countLate
  refine touches_after ?_ (rcUpFld_touches _ _ _ _ _) (by decide)
  exact touches_refl _ _

theorem freeEntry_touches : ∀ a0 a1,
    Touches [.regs, .plate] a1 (freeEntry a0 a1) := by
  intro a0 a1
  unfold freeEntry
  extract_lets +onlyGivenNames x0
  clear_value x0
  refine touches_after ?_ (countWrap_touches _ _ _) (by decide)
  refine touches_after ?_ (State.setEntry_touches _ _ _) (by decide)
  exact touches_refl _ _

theorem unlinkFree_touches : ∀ a0 a1 a2,
    Touches [.regs, .plate, .mem, .poison] a2 (unlinkFree a0 a1 a2) := by
  intro a0 a1 a2
  unfold unlinkFree
  extract_lets +onlyGivenNames x0
  clear_value x0
  extract_lets +onlyGivenNames x1
  refine touches_cut x1 ?_ (fun h1 => ?_)
  · unfold x1
    refine touches_ite ?_ ?_
    · refine touches_after ?_ (State.setEntry_touches _ _ _) (by decide)
      exact touches_refl _ _
    · refine touches_after ?_ (freeEntry_touches _ _) (by decide)
      exact touches_refl _ _
  clear_value x1
  refine touches_after ?_ (writeHole_touches _ _ _) (by decide)
  refine touches_after ?_ (State.setReg_touches _ _ _) (by decide)
  assumption

theorem latePolicyEff_touches : ∀ a0 a1 a2,
    Touches [.cyc, .regs, .plate, .mem, .poison] a2 (latePolicyEff a0 a1 a2).2 := by
  intro a0 a1 a2
  unfold latePolicyEff
  extract_lets +onlyGivenNames x0
  clear_value x0
  split
  · dsimp only
    refine touches_after ?_ (makeDue_touches _ _ _ _) (by decide)
    refine touches_after ?_ (countLate_touches _ _ _ _) (by decide)
    refine touches_after ?_ (partEvent_touches _ _ _) (by decide)
    exact touches_refl _ _
  · dsimp only
    refine touches_after ?_ (countLate_touches _ _ _ _) (by decide)
    refine touches_after ?_ (partEvent_touches _ _ _) (by decide)
    exact touches_refl _ _
  · extract_lets +onlyGivenNames x1
    refine touches_cut x1 ?_ (fun h1 => ?_)
    · unfold x1
      refine touches_after ?_ (countLate_touches _ _ _ _) (by decide)
      refine touches_after ?_ (partEvent_touches _ _ _) (by decide)
      exact touches_refl _ _
    clear_value x1
    refine touches_ite_snd ?_ ?_
    · dsimp only
      assumption
    · dsimp only
      refine touches_after ?_ (unlinkFree_touches _ _ _) (by decide)
      assumption

theorem pickFree_touches : ∀ a0,
    Touches [.freeCtr] a0 (pickFree a0).2 := by
  intro a0
  unfold pickFree
  refine touches_ite_snd ?_ ?_
  · extract_lets +onlyGivenNames x0
    refine touches_cut_snd x0 ?_ (fun h0 => ?_)
    · unfold x0
      refine touches_after ?_ (takeFree_touches _ _) (by decide)
      exact touches_refl _ _
    clear_value x0
    dsimp only
    assumption
  · dsimp only
    exact touches_refl _ _

theorem linkNew_touches : ∀ a0 a1 a2 a3 a4 a5 a6,
    Touches [.freeCtr, .cyc, .regs, .plate, .mem, .poison] a6 (linkNew a0 a1 a2 a3 a4 a5 a6).2 := by
  intro a0 a1 a2 a3 a4 a5 a6
  unfold linkNew
  split
  · dsimp only
    refine touches_of_eq_snd ‹_› ?_
    refine touches_after ?_ (pickFree_touches _) (by decide)
    exact touches_refl _ _
  · extract_lets +onlyGivenNames x0
    clear_value x0
    extract_lets +onlyGivenNames x1
    refine touches_cut x1 ?_ (fun h1 => ?_)
    · unfold x1
      refine touches_after ?_ (State.setEntry_touches _ _ _) (by decide)
      refine touches_of_eq_snd ‹_› ?_
      refine touches_after ?_ (pickFree_touches _) (by decide)
      exact touches_refl _ _
    clear_value x1
    extract_lets +onlyGivenNames x2
    clear_value x2
    extract_lets +onlyGivenNames x3
    refine touches_cut x3 ?_ (fun h3 => ?_)
    · unfold x3
      refine touches_after ?_ (State.setPlate_touches _ _) (by decide)
      assumption
    clear_value x3
    extract_lets +onlyGivenNames x4
    refine touches_cut x4 ?_ (fun h4 => ?_)
    · unfold x4
      refine touches_after ?_ (State.setReg_touches _ _ _) (by decide)
      refine touches_after ?_ (State.setReg_touches _ _ _) (by decide)
      assumption
    clear_value x4
    extract_lets +onlyGivenNames x5
    refine touches_cut x5 ?_ (fun h5 => ?_)
    · unfold x5
      refine touches_ite ?_ ?_
      · refine touches_after ?_ (partEvent_touches _ _ _) (by decide)
        assumption
      · assumption
    clear_value x5
    dsimp only
    refine touches_after ?_ (writeHole_touches _ _ _) (by decide)
    assumption

theorem plateInsertOp_touches : ∀ a0 a1 a2 a3 a4 a5,
    Touches [.freeCtr, .cyc, .regs, .plate, .mem, .poison] a5 (plateInsertOp a0 a1 a2 a3 a4 a5).2 := by
  intro a0 a1 a2 a3 a4 a5
  unfold plateInsertOp
  split
  · dsimp only
    exact touches_refl _ _
  · split
    · dsimp only
      refine touches_of_eq_snd ‹_› ?_
      refine touches_after ?_ (linkNew_touches _ _ _ _ _ _ _) (by decide)
      exact touches_refl _ _
    · extract_lets +onlyGivenNames x0
      clear_value x0
      refine touches_ite_snd ?_ ?_
      · refine touches_after ?_ (takeFree_touches _ _) (by decide)
        refine touches_after ?_ (partUndefined_touches _ _) (by decide)
        refine touches_of_eq_snd ‹_› ?_
        refine touches_after ?_ (linkNew_touches _ _ _ _ _ _ _) (by decide)
        exact touches_refl _ _
      · refine touches_ite_snd ?_ ?_
        · extract_lets +onlyGivenNames x1
          refine touches_cut_snd x1 ?_ (fun h1 => ?_)
          · unfold x1
            refine touches_after ?_ (latePolicyEff_touches _ _ _) (by decide)
            refine touches_of_eq_snd ‹_› ?_
            refine touches_after ?_ (linkNew_touches _ _ _ _ _ _ _) (by decide)
            exact touches_refl _ _
          clear_value x1
          refine touches_ite_snd ?_ ?_
          · dsimp only
            assumption
          · dsimp only
            assumption
        · dsimp only
          refine touches_of_eq_snd ‹_› ?_
          refine touches_after ?_ (linkNew_touches _ _ _ _ _ _ _) (by decide)
          exact touches_refl _ _

theorem plateRemoveOp_touches : ∀ a0 a1,
    Touches [.regs, .plate, .mem, .poison] a1 (plateRemoveOp a0 a1).2 := by
  intro a0 a1
  unfold plateRemoveOp
  split
  · dsimp only
    exact touches_refl _ _
  · extract_lets +onlyGivenNames x0
    clear_value x0
    refine touches_ite_snd ?_ ?_
    · dsimp only
      exact touches_refl _ _
    · refine touches_ite_snd ?_ ?_
      · dsimp only
        exact touches_refl _ _
      · split
        · dsimp only
          exact touches_refl _ _
        · dsimp only
          refine touches_after ?_ (unlinkFree_touches _ _ _) (by decide)
          exact touches_refl _ _

theorem plateAllocOp_touches : ∀ a0,
    Touches [.freeCtr, .regs, .plate] a0 (plateAllocOp a0).2 := by
  intro a0
  unfold plateAllocOp
  refine touches_ite_snd ?_ ?_
  · dsimp only
    exact touches_refl _ _
  · split
    · dsimp only
      refine touches_of_eq_snd ‹_› ?_
      refine touches_after ?_ (pickFree_touches _) (by decide)
      exact touches_refl _ _
    · extract_lets +onlyGivenNames x0
      refine touches_cut x0 ?_ (fun h0 => ?_)
      · unfold x0
        refine touches_after ?_ (State.setEntry_touches _ _ _) (by decide)
        refine touches_of_eq_snd ‹_› ?_
        refine touches_after ?_ (pickFree_touches _) (by decide)
        exact touches_refl _ _
      clear_value x0
      dsimp only
      refine touches_after ?_ (State.setReg_touches _ _ _) (by decide)
      assumption

theorem plateWriteOp_touches : ∀ a0 a1 a2 a3 a4 a5,
    Touches [.plate, .mem, .poison] a5 (plateWriteOp a0 a1 a2 a3 a4 a5).2 := by
  intro a0 a1 a2 a3 a4 a5
  unfold plateWriteOp
  split
  · dsimp only
    exact touches_refl _ _
  · extract_lets +onlyGivenNames x0
    clear_value x0
    refine touches_ite_snd ?_ ?_
    · dsimp only
      exact touches_refl _ _
    · refine touches_ite_snd ?_ ?_
      · extract_lets +onlyGivenNames x1
        clear_value x1
        dsimp only
        refine touches_after ?_ (writeBoth_touches _ _ _) (by decide)
        refine touches_after ?_ (State.setEntry_touches _ _ _) (by decide)
        exact touches_refl _ _
      · refine touches_ite_snd ?_ ?_
        · dsimp only
          exact touches_refl _ _
        · extract_lets +onlyGivenNames x2
          refine touches_cut x2 ?_ (fun h2 => ?_)
          · unfold x2
            refine touches_after ?_ (State.setEntry_touches _ _ _) (by decide)
            exact touches_refl _ _
          clear_value x2
          split
          · dsimp only
            assumption
          · dsimp only
            refine touches_after ?_ (writeHole_touches _ _ _) (by decide)
            assumption

theorem plateReleaseOp_touches : ∀ a0 a1,
    Touches [.regs, .plate] a1 (plateReleaseOp a0 a1).2 := by
  intro a0 a1
  unfold plateReleaseOp
  split
  · dsimp only
    exact touches_refl _ _
  · refine touches_ite_snd ?_ ?_
    · dsimp only
      exact touches_refl _ _
    · refine touches_ite_snd ?_ ?_
      · dsimp only
        refine touches_after ?_ (freeEntry_touches _ _) (by decide)
        exact touches_refl _ _
      · dsimp only
        exact touches_refl _ _

theorem plateFetchOp_touches : ∀ a0 a1 a2,
    Touches [.regs] a2 (plateFetchOp a0 a1 a2).2 := by
  intro a0 a1 a2
  unfold plateFetchOp
  split
  · dsimp only
    exact touches_refl _ _
  · extract_lets +onlyGivenNames x0
    clear_value x0
    refine touches_ite_snd ?_ ?_
    · dsimp only
      exact touches_refl _ _
    · dsimp only
      refine touches_after ?_ (State.setReg_touches _ _ _) (by decide)
      refine touches_after ?_ (State.setReg_touches _ _ _) (by decide)
      refine touches_after ?_ (State.setReg_touches _ _ _) (by decide)
      refine touches_after ?_ (State.setReg_touches _ _ _) (by decide)
      exact touches_refl _ _

theorem plateProbeRead_touches : ∀ a0 a1,
    Touches [] a1 (plateProbeRead a0 a1).2 := by
  intro a0 a1
  unfold plateProbeRead
  dsimp only
  exact touches_refl _ _

theorem plateAdmit_touches : ∀ a0,
    Touches [.freeCtr, .plate] a0 (plateAdmit a0).2 := by
  intro a0
  unfold plateAdmit
  extract_lets +onlyGivenNames x0
  clear_value x0
  extract_lets +onlyGivenNames x1
  clear_value x1
  extract_lets +onlyGivenNames x2
  refine touches_cut x2 ?_ (fun h2 => ?_)
  · unfold x2
    refine touches_after ?_ (State.setPlate_touches _ _) (by decide)
    exact touches_refl _ _
  clear_value x2
  refine touches_ite_snd ?_ ?_
  · dsimp only
    assumption
  · refine touches_ite_snd ?_ ?_
    · dsimp only
      refine touches_after ?_ (takeFree_touches _ _) (by decide)
      assumption
    · dsimp only
      refine touches_after ?_ (takeFree_touches _ _) (by decide)
      exact touches_refl _ _

theorem plateRun_touches {F : List Part} {r : State → Word × State} {s t : State} (hF : ∀ p ∈ [.freeCtr], p ∈ F)
    (hr : ∀ u, Touches F u (r u).2) (h : Touches F s t) :
    Touches F s (plateRun r t).2 := by
  unfold plateRun
  split
  · exact h.trans (hr _)
  · exact touches_after h (takeFree_touches _ _) (fun p hp => hF p ((show ∀ p ∈ _, p ∈ _ by decide) p hp))

theorem plateOp_touches {F : List Part} {r : State → Word × State} {s t : State} (hF : ∀ p ∈ [.freeCtr, .plate], p ∈ F)
    (hr : ∀ u, Touches F u (r u).2) (h : Touches F s t) :
    Touches F s (plateOp r t).2 := by
  unfold plateOp
  have h1 : Touches F s (plateAdmit t).2 := touches_after h (plateAdmit_touches _) (fun p hp => hF p ((show ∀ p ∈ _, p ∈ _ by decide) p hp))
  split
  · exact plateRun_touches (fun p hp => hF p ((show ∀ p ∈ _, p ∈ _ by decide) p hp)) hr h1
  · exact h1

theorem answerOp_touches {F : List Part} {q : Requester} {r : State → Word × State} {s t : State} (hF : ∀ p ∈ [.freeCtr, .resp, .plate], p ∈ F)
    (hr : ∀ u, Touches F u (r u).2) (h : Touches F s t) :
    Touches F s (answerOp q r t) := by
  unfold answerOp
  exact touches_after (plateOp_touches (fun p hp => hF p ((show ∀ p ∈ _, p ∈ _ by decide) p hp)) hr h) (answer_touches _ _ _) (fun p hp => hF p ((show ∀ p ∈ _, p ∈ _ by decide) p hp))

theorem insertStaged_touches : ∀ a0 a1,
    Touches [.freeCtr, .cyc, .regs, .plate, .mem, .poison] a1 (insertStaged a0 a1).2 := by
  intro a0 a1
  unfold insertStaged
  refine touches_after ?_ (plateInsertOp_touches _ _ _ _ _ _) (by decide)
  exact touches_refl _ _

theorem writeStaged_touches : ∀ a0 a1,
    Touches [.plate, .mem, .poison] a1 (writeStaged a0 a1).2 := by
  intro a0 a1
  unfold writeStaged
  refine touches_after ?_ (plateWriteOp_touches _ _ _ _ _ _) (by decide)
  exact touches_refl _ _

theorem execPlateInsert_touches : ∀ a0 a1,
    ∃ t, execPlateInsert a0 a1 = .next t ∧ Touches [.freeCtr, .cyc, .regs, .resp, .plate, .mem, .poison] a1 t := by
  intro a0 a1
  unfold execPlateInsert
  refine ⟨_, rfl, ?_⟩
  refine touches_ite ?_ ?_
  · refine answerOp_touches (by decide) (fun _ => ?_) ?_
    · refine touches_after ?_ (insertStaged_touches _ _) (by decide)
      exact touches_refl _ _
    · exact touches_refl _ _
  · refine touches_after ?_ (answer_touches _ _ _) (by decide)
    exact touches_refl _ _

theorem execPlateRemove_touches : ∀ a0 a1,
    ∃ t, execPlateRemove a0 a1 = .next t ∧ Touches [.freeCtr, .regs, .resp, .plate, .mem, .poison] a1 t := by
  intro a0 a1
  unfold execPlateRemove
  refine ⟨_, rfl, ?_⟩
  refine touches_ite ?_ ?_
  · refine answerOp_touches (by decide) (fun _ => ?_) ?_
    · refine touches_after ?_ (plateRemoveOp_touches _ _) (by decide)
      exact touches_refl _ _
    · exact touches_refl _ _
  · refine touches_after ?_ (answer_touches _ _ _) (by decide)
    exact touches_refl _ _

theorem execPlateAlloc_touches : ∀ a0 a1,
    ∃ t, execPlateAlloc a0 a1 = .next t ∧ Touches [.freeCtr, .regs, .resp, .plate] a1 t := by
  intro a0 a1
  unfold execPlateAlloc
  refine ⟨_, rfl, ?_⟩
  refine touches_ite ?_ ?_
  · refine answerOp_touches (by decide) (fun _ => ?_) ?_
    · refine touches_after ?_ (plateAllocOp_touches _) (by decide)
      exact touches_refl _ _
    · exact touches_refl _ _
  · refine touches_after ?_ (answer_touches _ _ _) (by decide)
    exact touches_refl _ _

theorem execPlateWrite_touches : ∀ a0 a1,
    ∃ t, execPlateWrite a0 a1 = .next t ∧ Touches [.freeCtr, .resp, .plate, .mem, .poison] a1 t := by
  intro a0 a1
  unfold execPlateWrite
  refine ⟨_, rfl, ?_⟩
  refine touches_ite ?_ ?_
  · refine answerOp_touches (by decide) (fun _ => ?_) ?_
    · refine touches_after ?_ (writeStaged_touches _ _) (by decide)
      exact touches_refl _ _
    · exact touches_refl _ _
  · refine touches_after ?_ (answer_touches _ _ _) (by decide)
    exact touches_refl _ _

theorem execPlateRelease_touches : ∀ a0 a1,
    ∃ t, execPlateRelease a0 a1 = .next t ∧ Touches [.freeCtr, .regs, .resp, .plate] a1 t := by
  intro a0 a1
  unfold execPlateRelease
  refine ⟨_, rfl, ?_⟩
  refine touches_ite ?_ ?_
  · refine answerOp_touches (by decide) (fun _ => ?_) ?_
    · refine touches_after ?_ (plateReleaseOp_touches _ _) (by decide)
      exact touches_refl _ _
    · exact touches_refl _ _
  · refine touches_after ?_ (answer_touches _ _ _) (by decide)
    exact touches_refl _ _

theorem execPlateFetch_touches : ∀ a0 a1,
    ∃ t, execPlateFetch a0 a1 = .next t ∧ Touches [.freeCtr, .regs, .resp, .plate] a1 t := by
  intro a0 a1
  unfold execPlateFetch
  refine ⟨_, rfl, ?_⟩
  refine touches_ite ?_ ?_
  · refine answerOp_touches (by decide) (fun _ => ?_) ?_
    · refine touches_after ?_ (plateFetchOp_touches _ _ _) (by decide)
      exact touches_refl _ _
    · exact touches_refl _ _
  · refine touches_after ?_ (answer_touches _ _ _) (by decide)
    exact touches_refl _ _

theorem execPlateProbe_touches : ∀ a0 a1,
    ∃ t, execPlateProbe a0 a1 = .next t ∧ Touches [.freeCtr, .resp, .plate] a1 t := by
  intro a0 a1
  unfold execPlateProbe
  refine ⟨_, rfl, ?_⟩
  refine touches_ite ?_ ?_
  · refine answerOp_touches (by decide) (fun _ => ?_) ?_
    · refine touches_after ?_ (plateProbeRead_touches _ _) (by decide)
      exact touches_refl _ _
    · exact touches_refl _ _
  · refine touches_after ?_ (answer_touches _ _ _) (by decide)
    exact touches_refl _ _

theorem entryDueEff_touches : ∀ a0 a1,
    Touches [.cyc, .regs, .plate] a1 (entryDueEff a0 a1) := by
  intro a0 a1
  unfold entryDueEff
  extract_lets +onlyGivenNames x0
  clear_value x0
  split
  · exact touches_refl _ _
  · extract_lets +onlyGivenNames x1
    clear_value x1
    extract_lets +onlyGivenNames x2
    clear_value x2
    extract_lets +onlyGivenNames x3
    clear_value x3
    extract_lets +onlyGivenNames x4
    clear_value x4
    refine touches_ite ?_ ?_
    · refine touches_ite ?_ ?_
      · refine touches_ite ?_ ?_
        · refine touches_after ?_ (partEvent_touches _ _ _) (by decide)
          refine touches_after ?_ (State.setEntry_touches _ _ _) (by decide)
          exact touches_refl _ _
        · exact touches_refl _ _
      · refine touches_after ?_ (makeDue_touches _ _ _ _) (by decide)
        exact touches_refl _ _
    · exact touches_refl _ _

theorem execEntryDue_touches : ∀ a0 a1,
    ∃ t, execEntryDue a0 a1 = .next t ∧ Touches [.cyc, .regs, .plate] a1 t := by
  intro a0 a1
  unfold execEntryDue
  refine ⟨_, rfl, ?_⟩
  refine touches_ite ?_ ?_
  · refine touches_after ?_ (entryDueEff_touches _ _) (by decide)
    exact touches_refl _ _
  · exact touches_refl _ _

theorem sendAction_touches : ∀ a0 a1,
    Touches [.regs, .plate] a1 (sendAction a0 a1) := by
  intro a0 a1
  unfold sendAction
  extract_lets +onlyGivenNames x0
  clear_value x0
  extract_lets +onlyGivenNames x1
  clear_value x1
  extract_lets +onlyGivenNames x2
  refine touches_cut x2 ?_ (fun h2 => ?_)
  · unfold x2
    refine touches_after ?_ (State.setReg_touches _ _ _) (by decide)
    refine touches_after ?_ (State.setReg_touches _ _ _) (by decide)
    exact touches_refl _ _
  clear_value x2
  extract_lets +onlyGivenNames x3
  clear_value x3
  extract_lets +onlyGivenNames x4
  refine touches_cut x4 ?_ (fun h4 => ?_)
  · unfold x4
    refine touches_after ?_ (State.setPlate_touches _ _) (by decide)
    assumption
  clear_value x4
  refine touches_after ?_ (State.setReg_touches _ _ _) (by decide)
  assumption

theorem fireMember_touches : ∀ a0 a1 a2,
    Touches [.freeCtr, .cyc, .regs, .plate] a2 (fireMember a0 a1 a2) := by
  intro a0 a1 a2
  unfold fireMember
  extract_lets +onlyGivenNames x0
  clear_value x0
  extract_lets +onlyGivenNames x1
  clear_value x1
  extract_lets +onlyGivenNames x2
  clear_value x2
  extract_lets +onlyGivenNames x3
  refine touches_cut x3 ?_ (fun h3 => ?_)
  · unfold x3
    refine touches_after ?_ (State.setPlate_touches _ _) (by decide)
    exact touches_refl _ _
  clear_value x3
  refine touches_ite ?_ ?_
  · refine touches_after ?_ (partUndefined_touches _ _) (by decide)
    refine touches_after ?_ (State.setPlate_touches _ _) (by decide)
    assumption
  · refine touches_ite ?_ ?_
    · refine touches_after ?_ (State.setPlate_touches _ _) (by decide)
      assumption
    · refine touches_ite ?_ ?_
      · extract_lets +onlyGivenNames x4
        refine touches_cut x4 ?_ (fun h4 => ?_)
        · unfold x4
          refine touches_after ?_ (partEvent_touches _ _ _) (by decide)
          refine touches_after ?_ (sendAction_touches _ _) (by decide)
          assumption
        clear_value x4
        refine touches_after ?_ (State.setPlate_touches _ _) (by decide)
        assumption
      · refine touches_ite ?_ ?_
        · refine touches_after ?_ (sendAction_touches _ _) (by decide)
          assumption
        · refine touches_after ?_ (partUndefined_touches _ _) (by decide)
          refine touches_after ?_ (sendAction_touches _ _) (by decide)
          assumption

theorem loadChain_touches : ∀ a0 a1 a2,
    Touches [.plate] a2 (loadChain a0 a1 a2) := by
  intro a0 a1 a2
  unfold loadChain
  refine touches_after ?_ (State.setPlate_touches _ _) (by decide)
  exact touches_refl _ _

theorem noteSlip_touches : ∀ a0 a1 a2,
    Touches [.cyc, .regs] a2 (noteSlip a0 a1 a2) := by
  intro a0 a1 a2
  unfold noteSlip
  extract_lets +onlyGivenNames x0
  refine touches_cut x0 ?_ (fun h0 => ?_)
  · unfold x0
    refine touches_after ?_ (rcMax_touches _ _ _) (by decide)
    exact touches_refl _ _
  clear_value x0
  refine touches_ite ?_ ?_
  · refine touches_after ?_ (plateEvent_touches _ _) (by decide)
    refine touches_after ?_ (partEvent_touches _ _ _) (by decide)
    assumption
  · assumption

theorem dispatchOneShot_touches : ∀ a0 a1 a2,
    Touches [.regs, .plate, .mem, .poison] a2 (dispatchOneShot a0 a1 a2) := by
  intro a0 a1 a2
  unfold dispatchOneShot
  extract_lets +onlyGivenNames x0
  clear_value x0
  refine touches_ite ?_ ?_
  · refine touches_after ?_ (State.setEntry_touches _ _ _) (by decide)
    exact touches_refl _ _
  · extract_lets +onlyGivenNames x1
    refine touches_cut x1 ?_ (fun h1 => ?_)
    · unfold x1
      refine touches_after ?_ (State.setEntry_touches _ _ _) (by decide)
      exact touches_refl _ _
    clear_value x1
    refine touches_after ?_ (writeHole_touches _ _ _) (by decide)
    refine touches_after ?_ (State.setReg_touches _ _ _) (by decide)
    assumption

theorem fireEntry_touches : ∀ a0 a1,
    Touches [.freeCtr, .cyc, .regs, .plate, .mem, .poison] a1 (fireEntry a0 a1) := by
  intro a0 a1
  unfold fireEntry
  extract_lets +onlyGivenNames x0
  clear_value x0
  extract_lets +onlyGivenNames x1
  clear_value x1
  extract_lets +onlyGivenNames x2
  refine touches_cut x2 ?_ (fun h2 => ?_)
  · unfold x2
    refine touches_after ?_ (sendAction_touches _ _) (by decide)
    refine touches_after ?_ (State.setPlate_touches _ _) (by decide)
    exact touches_refl _ _
  clear_value x2
  extract_lets +onlyGivenNames x3
  refine touches_cut x3 ?_ (fun h3 => ?_)
  · unfold x3
    refine touches_after ?_ (noteSlip_touches _ _ _) (by decide)
    assumption
  clear_value x3
  extract_lets +onlyGivenNames x4
  refine touches_cut x4 ?_ (fun h4 => ?_)
  · unfold x4
    refine touches_ite ?_ ?_
    · refine touches_after ?_ (partEvent_touches _ _ _) (by decide)
      assumption
    · assumption
  clear_value x4
  extract_lets +onlyGivenNames x5
  refine touches_cut x5 ?_ (fun h5 => ?_)
  · unfold x5
    refine touches_ite ?_ ?_
    · refine touches_after ?_ (loadChain_touches _ _ _) (by decide)
      assumption
    · assumption
  clear_value x5
  extract_lets +onlyGivenNames x6
  refine touches_cut x6 ?_ (fun h6 => ?_)
  · unfold x6
    refine touches_ite ?_ ?_
    · assumption
    · refine touches_after ?_ (dispatchOneShot_touches _ _ _) (by decide)
      assumption
  clear_value x6
  refine touches_ite ?_ ?_
  · assumption
  · refine touches_after ?_ (partUndefined_touches _ _) (by decide)
    assumption

theorem entryFireEff_touches : ∀ a0,
    Touches [.freeCtr, .cyc, .regs, .plate, .mem, .poison] a0 (entryFireEff a0) := by
  intro a0
  unfold entryFireEff
  refine touches_ite ?_ ?_
  · exact touches_refl _ _
  · refine touches_ite ?_ ?_
    · refine touches_after ?_ (plateEvent_touches _ _) (by decide)
      exact touches_refl _ _
    · extract_lets +onlyGivenNames x0
      clear_value x0
      extract_lets +onlyGivenNames x1
      refine touches_cut x1 ?_ (fun h1 => ?_)
      · unfold x1
        refine touches_after ?_ (State.setPlate_touches _ _) (by decide)
        exact touches_refl _ _
      clear_value x1
      split
      · refine touches_after ?_ (fireMember_touches _ _ _) (by decide)
        assumption
      · split
        · refine touches_after ?_ (fireEntry_touches _ _) (by decide)
          assumption
        · exact touches_refl _ _

theorem execEntryFire_touches : ∀ a0,
    ∃ t, execEntryFire a0 = .next t ∧ Touches [.freeCtr, .cyc, .regs, .plate, .mem, .poison] a0 t := by
  intro a0
  unfold execEntryFire
  refine ⟨_, rfl, ?_⟩
  refine touches_ite ?_ ?_
  · refine touches_after ?_ (entryFireEff_touches _) (by decide)
    exact touches_refl _ _
  · exact touches_refl _ _

theorem retirementEff_touches : ∀ a0,
    Touches [.regs, .plate] a0 (retirementEff a0) := by
  intro a0
  unfold retirementEff
  split
  · exact touches_refl _ _
  · refine touches_ite ?_ ?_
    · exact touches_refl _ _
    · extract_lets +onlyGivenNames x0
      clear_value x0
      extract_lets +onlyGivenNames x1
      refine touches_cut x1 ?_ (fun h1 => ?_)
      · unfold x1
        refine touches_after ?_ (State.setReg_touches _ _ _) (by decide)
        refine touches_after ?_ (State.setPlate_touches _ _) (by decide)
        exact touches_refl _ _
      clear_value x1
      refine touches_ite ?_ ?_
      · refine touches_after ?_ (countWrap_touches _ _ _) (by decide)
        refine touches_after ?_ (State.setEntry_touches _ _ _) (by decide)
        assumption
      · assumption

theorem execRetirement_touches : ∀ a0,
    ∃ t, execRetirement a0 = .next t ∧ Touches [.regs, .plate] a0 t := by
  intro a0
  unfold execRetirement
  refine ⟨_, rfl, ?_⟩
  refine touches_ite ?_ ?_
  · refine touches_after ?_ (retirementEff_touches _) (by decide)
    exact touches_refl _ _
  · exact touches_refl _ _

theorem execNopAction_touches : ∀ a0,
    ∃ t, execNopAction a0 = .next t ∧ Touches [] a0 t := by
  intro a0
  unfold execNopAction
  refine ⟨_, rfl, ?_⟩
  exact touches_refl _ _

theorem execChain_touches : ∀ a0 a1 a2,
    ∃ t, execChain a0 a1 a2 = .next t ∧ Touches [.plate] a2 t := by
  intro a0 a1 a2
  unfold execChain
  refine ⟨_, rfl, ?_⟩
  refine touches_ite ?_ ?_
  · exact touches_refl _ _
  · split
    · refine touches_ite ?_ ?_
      · refine touches_after ?_ (State.setPlate_touches _ _) (by decide)
        exact touches_refl _ _
      · refine touches_after ?_ (loadChain_touches _ _ _) (by decide)
        exact touches_refl _ _
    · refine touches_after ?_ (loadChain_touches _ _ _) (by decide)
      exact touches_refl _ _

theorem execMark_touches : ∀ a0 a1,
    ∃ t, execMark a0 a1 = .next t ∧ Touches [.cyc, .regs] a1 t := by
  intro a0 a1
  unfold execMark
  refine ⟨_, rfl, ?_⟩
  refine touches_ite ?_ ?_
  · refine touches_after ?_ (capture_touches _ _ _) (by decide)
    exact touches_refl _ _
  · exact touches_refl _ _

theorem execHoleFetch_touches : ∀ a0 a1,
    ∃ t, execHoleFetch a0 a1 = .next t ∧ Touches [.cyc, .regs, .plate] a1 t := by
  intro a0 a1
  unfold execHoleFetch
  refine ⟨_, rfl, ?_⟩
  refine touches_ite ?_ ?_
  · refine touches_after ?_ (sweep_touches _ _) (by decide)
    exact touches_refl _ _
  · exact touches_refl _ _

theorem holeFetchDoneEff_touches : ∀ a0 a1,
    Touches [.cyc, .regs, .plate, .mem, .poison] a1 (holeFetchDoneEff a0 a1) := by
  intro a0 a1
  unfold holeFetchDoneEff
  refine touches_ite ?_ ?_
  · extract_lets +onlyGivenNames x0
    clear_value x0
    extract_lets +onlyGivenNames x1
    refine touches_cut x1 ?_ (fun h1 => ?_)
    · unfold x1
      refine touches_after ?_ (State.setPlate_touches _ _) (by decide)
      exact touches_refl _ _
    clear_value x1
    split
    · assumption
    · extract_lets +onlyGivenNames x2
      clear_value x2
      extract_lets +onlyGivenNames x3
      refine touches_cut x3 ?_ (fun h3 => ?_)
      · unfold x3
        refine touches_ite ?_ ?_
        · refine touches_after ?_ (partEvent_touches _ _ _) (by decide)
          assumption
        · assumption
      clear_value x3
      refine touches_after ?_ (startFetches_touches _) (by decide)
      refine touches_forEach (fun _ _ _ => ?_) ?_
      · refine touches_ite ?_ ?_
        · refine touches_after ?_ (latePolicyEff_touches _ _ _) (by decide)
          refine touches_after ?_ (partEvent_touches _ _ _) (by decide)
          assumption
        · assumption
      · assumption
  · exact touches_refl _ _

theorem execHoleFetchDone_touches : ∀ a0 a1,
    ∃ t, execHoleFetchDone a0 a1 = .next t ∧ Touches [.cyc, .regs, .plate, .mem, .poison] a1 t := by
  intro a0 a1
  unfold execHoleFetchDone
  refine ⟨_, rfl, ?_⟩
  refine touches_ite ?_ ?_
  · refine touches_after ?_ (holeFetchDoneEff_touches _ _) (by decide)
    exact touches_refl _ _
  · exact touches_refl _ _

theorem chainRefetch_touches : ∀ a0 a1 a2,
    Touches [.cyc, .regs, .plate, .mem, .poison, .checks] a2 (chainRefetch a0 a1 a2) := by
  intro a0 a1 a2
  unfold chainRefetch
  extract_lets +onlyGivenNames x0
  clear_value x0
  extract_lets +onlyGivenNames x1
  refine touches_cut x1 ?_ (fun h1 => ?_)
  · unfold x1
    refine touches_after ?_ (partEvent_touches _ _ _) (by decide)
    exact touches_refl _ _
  clear_value x1
  split
  · refine touches_after ?_ (countDetect_touches _) (by decide)
    assumption
  · refine touches_after ?_ (countDetect_touches _) (by decide)
    refine touches_after ?_ (writeBoth_touches _ _ _) (by decide)
    assumption
  · extract_lets +onlyGivenNames x2
    clear_value x2
    extract_lets +onlyGivenNames x3
    refine touches_cut x3 ?_ (fun h3 => ?_)
    · unfold x3
      refine touches_after ?_ (State.setPlate_touches _ _) (by decide)
      assumption
    clear_value x3
    refine touches_after ?_ (postCheck_touches _ _ _ _) (by decide)
    refine touches_after ?_ (raiseTs_touches _ _) (by decide)
    refine touches_after ?_ (plateEvent_touches _ _) (by decide)
    assumption

theorem plateRefetchEff_touches : ∀ a0 a1 a2,
    Touches [.cyc, .regs, .plate, .mem, .poison, .checks] a2 (plateRefetchEff a0 a1 a2) := by
  intro a0 a1 a2
  unfold plateRefetchEff
  extract_lets +onlyGivenNames x0
  clear_value x0
  refine touches_ite ?_ ?_
  · refine touches_after ?_ (chainRefetch_touches _ _ _) (by decide)
    exact touches_refl _ _
  · split
    · exact touches_refl _ _
    · extract_lets +onlyGivenNames x1
      refine touches_cut x1 ?_ (fun h1 => ?_)
      · unfold x1
        refine touches_after ?_ (partEvent_touches _ _ _) (by decide)
        exact touches_refl _ _
      clear_value x1
      split
      · refine touches_after ?_ (countDetect_touches _) (by decide)
        assumption
      · refine touches_after ?_ (countDetect_touches _) (by decide)
        refine touches_after ?_ (syncHole_touches _ _) (by decide)
        assumption
      · extract_lets +onlyGivenNames x2
        clear_value x2
        extract_lets +onlyGivenNames x3
        refine touches_cut x3 ?_ (fun h3 => ?_)
        · unfold x3
          refine touches_after ?_ (State.setPlate_touches _ _) (by decide)
          assumption
        clear_value x3
        refine touches_after ?_ (postCheck_touches _ _ _ _) (by decide)
        refine touches_after ?_ (raiseTs_touches _ _) (by decide)
        refine touches_after ?_ (plateEvent_touches _ _) (by decide)
        assumption

theorem execPlateRefetch_touches : ∀ a0 a1 a2,
    ∃ t, execPlateRefetch a0 a1 a2 = .next t ∧ Touches [.cyc, .regs, .plate, .mem, .poison, .checks] a2 t := by
  intro a0 a1 a2
  unfold execPlateRefetch
  refine ⟨_, rfl, ?_⟩
  refine touches_ite ?_ ?_
  · refine touches_after ?_ (plateRefetchEff_touches _ _ _) (by decide)
    exact touches_refl _ _
  · exact touches_refl _ _

theorem plateCtrlWrite_touches : ∀ a0 a1,
    Touches [.regs, .plate] a1 (plateCtrlWrite a0 a1) := by
  intro a0 a1
  unfold plateCtrlWrite
  extract_lets +onlyGivenNames x0
  clear_value x0
  extract_lets +onlyGivenNames x1
  clear_value x1
  extract_lets +onlyGivenNames x2
  refine touches_cut x2 ?_ (fun h2 => ?_)
  · unfold x2
    refine touches_after ?_ (State.setReg_touches _ _ _) (by decide)
    exact touches_refl _ _
  clear_value x2
  refine touches_ite ?_ ?_
  · refine touches_after ?_ (State.setPlate_touches _ _) (by decide)
    refine touches_after ?_ (State.setBit_touches _ _ _ _) (by decide)
    assumption
  · assumption

theorem execPlateInit_touches : ∀ a0 a1,
    ∃ t, execPlateInit a0 a1 = .next t ∧ Touches [.regs, .plate] a1 t := by
  intro a0 a1
  unfold execPlateInit
  refine ⟨_, rfl, ?_⟩
  refine touches_ite ?_ ?_
  · refine touches_after ?_ (plateCtrlWrite_touches _ _) (by decide)
    exact touches_refl _ _
  · exact touches_refl _ _

theorem execStoreLock_touches : ∀ a0 a1,
    ∃ t, execStoreLock a0 a1 = .next t ∧ Touches [.regs, .plate] a1 t := by
  intro a0 a1
  unfold execStoreLock
  refine ⟨_, rfl, ?_⟩
  refine touches_ite ?_ ?_
  · refine touches_after ?_ (plateCtrlWrite_touches _ _) (by decide)
    exact touches_refl _ _
  · exact touches_refl _ _

theorem clearRegion_touches : ∀ a0 a1,
    Touches [.mem] a1 (clearRegion a0 a1) := by
  intro a0 a1
  unfold clearRegion
  refine touches_after ?_ (touch_mem _) (by decide)
  exact touches_refl _ _

theorem plateInitDoneEff_touches : ∀ a0,
    Touches [.regs, .plate, .mem] a0 (plateInitDoneEff a0) := by
  intro a0
  unfold plateInitDoneEff
  refine touches_ite ?_ ?_
  · extract_lets +onlyGivenNames x0
    refine touches_cut x0 ?_ (fun h0 => ?_)
    · unfold x0
      refine touches_after ?_ (clearRegion_touches _ _) (by decide)
      refine touches_after ?_ (clearRegion_touches _ _) (by decide)
      exact touches_refl _ _
    clear_value x0
    extract_lets +onlyGivenNames x1
    refine touches_cut x1 ?_ (fun h1 => ?_)
    · unfold x1
      refine touches_after ?_ (State.setPlate_touches _ _) (by decide)
      assumption
    clear_value x1
    extract_lets +onlyGivenNames x2
    refine touches_cut x2 ?_ (fun h2 => ?_)
    · unfold x2
      refine touches_forEach (fun _ _ _ => ?_) ?_
      · refine touches_after ?_ (State.setReg_touches _ _ _) (by decide)
        assumption
      · refine touches_after ?_ (State.setReg_touches _ _ _) (by decide)
        assumption
    clear_value x2
    refine touches_after ?_ (State.setBit_touches _ _ _ _) (by decide)
    refine touches_after ?_ (State.setReg_touches _ _ _) (by decide)
    assumption
  · exact touches_refl _ _

theorem execPlateInitDone_touches : ∀ a0,
    ∃ t, execPlateInitDone a0 = .next t ∧ Touches [.regs, .plate, .mem] a0 t := by
  intro a0
  unfold execPlateInitDone
  refine ⟨_, rfl, ?_⟩
  refine touches_ite ?_ ?_
  · refine touches_after ?_ (plateInitDoneEff_touches _) (by decide)
    exact touches_refl _ _
  · exact touches_refl _ _

theorem stopPartition_touches : ∀ a0 a1,
    Touches [.regs, .plate] a1 (stopPartition a0 a1) := by
  intro a0 a1
  unfold stopPartition
  extract_lets +onlyGivenNames x0
  clear_value x0
  extract_lets +onlyGivenNames x1
  refine touches_cut x1 ?_ (fun h1 => ?_)
  · unfold x1
    refine touches_forEach (fun _ _ _ => ?_) ?_
    · refine touches_after ?_ (countWrap_touches _ _ _) (by decide)
      refine touches_after ?_ (State.setEntry_touches _ _ _) (by decide)
      assumption
    · exact touches_refl _ _
  clear_value x1
  extract_lets +onlyGivenNames x2
  unfold x2
  clear x2
  refine touches_after ?_ (State.setPlate_touches _ _) (by decide)
  assumption

theorem setPartState_touches : ∀ a0 a1 a2,
    Touches [.regs] a2 (setPartState a0 a1 a2) := by
  intro a0 a1 a2
  unfold setPartState
  refine touches_after ?_ (State.setFld_touches _ _ _ _ _) (by decide)
  exact touches_refl _ _

theorem runPartition_touches : ∀ a0 a1,
    Touches [.cyc, .regs, .plate] a1 (runPartition a0 a1) := by
  intro a0 a1
  unfold runPartition
  refine touches_after ?_ (refetch_touches _ _) (by decide)
  refine touches_after ?_ (setPartState_touches _ _ _) (by decide)
  exact touches_refl _ _

theorem partCtlWrite_touches : ∀ a0 a1 a2,
    Touches [.cyc, .regs, .plate] a2 (partCtlWrite a0 a1 a2) := by
  intro a0 a1 a2
  unfold partCtlWrite
  extract_lets +onlyGivenNames x0
  clear_value x0
  extract_lets +onlyGivenNames x1
  refine touches_cut x1 ?_ (fun h1 => ?_)
  · unfold x1
    refine touches_after ?_ (State.setReg_touches _ _ _) (by decide)
    exact touches_refl _ _
  clear_value x1
  extract_lets +onlyGivenNames x2
  clear_value x2
  refine touches_ite ?_ ?_
  · refine touches_after ?_ (setPartState_touches _ _ _) (by decide)
    refine touches_after ?_ (stopPartition_touches _ _) (by decide)
    assumption
  · refine touches_ite ?_ ?_
    · refine touches_after ?_ (setPartState_touches _ _ _) (by decide)
      refine touches_after ?_ (stopPartition_touches _ _) (by decide)
      assumption
    · refine touches_ite ?_ ?_
      · refine touches_after ?_ (runPartition_touches _ _) (by decide)
        assumption
      · assumption

theorem execPartitionClear_touches : ∀ a0 a1 a2,
    ∃ t, execPartitionClear a0 a1 a2 = .next t ∧ Touches [.cyc, .regs, .plate] a2 t := by
  intro a0 a1 a2
  unfold execPartitionClear
  refine ⟨_, rfl, ?_⟩
  refine touches_ite ?_ ?_
  · refine touches_after ?_ (partCtlWrite_touches _ _ _) (by decide)
    exact touches_refl _ _
  · exact touches_refl _ _

theorem partitionClearDoneEff_touches : ∀ a0 a1,
    Touches [.regs, .plate, .mem, .poison] a1 (partitionClearDoneEff a0 a1) := by
  intro a0 a1
  unfold partitionClearDoneEff
  refine touches_ite ?_ ?_
  · extract_lets +onlyGivenNames x0
    clear_value x0
    extract_lets +onlyGivenNames x1
    refine touches_cut x1 ?_ (fun h1 => ?_)
    · unfold x1
      refine touches_forEach (fun _ _ _ => ?_) ?_
      · refine touches_after ?_ (unlinkFree_touches _ _ _) (by decide)
        assumption
      · exact touches_refl _ _
    clear_value x1
    extract_lets +onlyGivenNames x2
    clear_value x2
    extract_lets +onlyGivenNames x3
    refine touches_cut x3 ?_ (fun h3 => ?_)
    · unfold x3
      refine touches_after ?_ (State.setPlate_touches _ _) (by decide)
      assumption
    clear_value x3
    refine touches_after ?_ (setPartState_touches _ _ _) (by decide)
    refine touches_after ?_ (partDefined_touches _ _) (by decide)
    refine touches_after ?_ (State.setBit_touches _ _ _ _) (by decide)
    refine touches_after ?_ (State.setReg_touches _ _ _) (by decide)
    assumption
  · exact touches_refl _ _

theorem execPartitionClearDone_touches : ∀ a0 a1,
    ∃ t, execPartitionClearDone a0 a1 = .next t ∧ Touches [.regs, .plate, .mem, .poison] a1 t := by
  intro a0 a1
  unfold execPartitionClearDone
  refine ⟨_, rfl, ?_⟩
  refine touches_ite ?_ ?_
  · refine touches_after ?_ (partitionClearDoneEff_touches _ _) (by decide)
    exact touches_refl _ _
  · exact touches_refl _ _

theorem partPartition_touches : ∀ a0 a1,
    Touches [.regs, .plate] a1 (partPartition a0 a1) := by
  intro a0 a1
  unfold partPartition
  refine touches_ite ?_ ?_
  · refine touches_after ?_ (setPartState_touches _ _ _) (by decide)
    refine touches_after ?_ (stopPartition_touches _ _) (by decide)
    refine touches_after ?_ (partDefined_touches _ _) (by decide)
    exact touches_refl _ _
  · exact touches_refl _ _

end Sys2Proof.Machine
end

