-- ==== Sys2Proof/Laws/TouchLoopLaw.lean ====
section
/-! SUPPORT. Which parts of the state the definitions of Machine/LoopLaw.lean touch: one lemma for each, the proofs written by a
script from their shape. -/

namespace Sys2Proof.Machine

theorem State.setCtx_touches : ∀ a0 a1 a2,
    Touches [.loops] a0 (State.setCtx a0 a1 a2) := by
  intro a0 a1 a2
  unfold State.setCtx
  refine touches_after ?_ (touch_loops _) (by decide)
  exact touches_refl _ _

theorem setLoopState_touches : ∀ a0 a1 a2,
    Touches [.regs] a2 (setLoopState a0 a1 a2) := by
  intro a0 a1 a2
  unfold setLoopState
  refine touches_after ?_ (State.setFld_touches _ _ _ _ _) (by decide)
  exact touches_refl _ _

theorem loopEvent_touches : ∀ a0 a1 a2,
    Touches [.cyc, .regs] a2 (loopEvent a0 a1 a2) := by
  intro a0 a1 a2
  unfold loopEvent
  refine touches_after ?_ (raiseStatus_touches _ _ _ _ _) (by decide)
  exact touches_refl _ _

end Sys2Proof.Machine
end

