-- ==== Sys2Proof/Laws/TouchLoops.lean ====
section
/-! SUPPORT. Which parts of the state the definitions of Machine/Loops.lean touch: one lemma for each, the proofs written by a
script from their shape. -/

namespace Sys2Proof.Machine

theorem commitPort_touches : ∀ a0 a1 a2,
    Touches [.cyc, .pulses, .regs, .comparators, .pairs] a2 (commitPort a0 a1 a2) := by
  intro a0 a1 a2
  unfold commitPort
  extract_lets +onlyGivenNames x0
  clear_value x0
  refine touches_ite ?_ ?_
  · refine touches_after ?_ (loopShift_touches _ _ _) (by decide)
    exact touches_refl _ _
  · refine touches_ite ?_ ?_
    · refine touches_after ?_ (State.setPair_touches _ _ _) (by decide)
      exact touches_refl _ _
    · refine touches_after ?_ (loopDuty_touches _ _ _ _) (by decide)
      exact touches_refl _ _

theorem commitDuties_touches : ∀ a0 a1 a2 a3 a4,
    Touches [.cyc, .pulses, .regs, .comparators, .pairs] a4 (commitDuties a0 a1 a2 a3 a4) := by
  intro a0 a1 a2 a3 a4
  unfold commitDuties
  extract_lets +onlyGivenNames x0
  clear_value x0
  extract_lets +onlyGivenNames x1
  refine touches_cut x1 ?_ (fun h1 => ?_)
  · unfold x1
    refine touches_forEach (fun _ _ _ => ?_) ?_
    · refine touches_after ?_ (State.setReg_touches _ _ _) (by decide)
      assumption
    · exact touches_refl _ _
  clear_value x1
  extract_lets +onlyGivenNames x2
  refine touches_cut x2 ?_ (fun h2 => ?_)
  · unfold x2
    refine touches_foldl (fun _ _ _ => ?_) ?_
    · refine touches_after ?_ (commitPort_touches _ _ _) (by decide)
      assumption
    · assumption
  clear_value x2
  refine touches_ite ?_ ?_
  · refine touches_after ?_ (loopEvent_touches _ _ _) (by decide)
    refine touches_after ?_ (rcUp_touches _ _ _ _) (by decide)
    assumption
  · assumption

theorem clearPending_touches : ∀ a0 a1,
    Touches [.regs, .loops] a1 (clearPending a0 a1) := by
  intro a0 a1
  unfold clearPending
  extract_lets +onlyGivenNames x0
  clear_value x0
  extract_lets +onlyGivenNames x1
  refine touches_cut x1 ?_ (fun h1 => ?_)
  · unfold x1
    refine touches_after ?_ (State.setCtx_touches _ _ _) (by decide)
    exact touches_refl _ _
  clear_value x1
  refine touches_forEach (fun _ _ _ => ?_) ?_
  · refine touches_after ?_ (State.setReg_touches _ _ _) (by decide)
    assumption
  · refine touches_after ?_ (State.setBit_touches _ _ _ _) (by decide)
    assumption

theorem tripMapped_touches : ∀ a0 a1,
    Touches [.cyc, .regs, .pairs, .groups] a1 (tripMapped a0 a1) := by
  intro a0 a1
  unfold tripMapped
  refine touches_forEach (fun _ _ _ => ?_) ?_
  · refine touches_after ?_ (softTripGroup_touches _ _) (by decide)
    assumption
  · exact touches_refl _ _

theorem fallback_touches : ∀ a0 a1,
    Touches [.cyc, .pulses, .regs, .comparators, .pairs, .loops] a1 (fallback a0 a1) := by
  intro a0 a1
  unfold fallback
  extract_lets +onlyGivenNames x0
  clear_value x0
  extract_lets +onlyGivenNames x1
  clear_value x1
  extract_lets +onlyGivenNames x2
  clear_value x2
  extract_lets +onlyGivenNames x3
  clear_value x3
  extract_lets +onlyGivenNames x4
  refine touches_cut x4 ?_ (fun h4 => ?_)
  · unfold x4
    refine touches_after ?_ (commitDuties_touches _ _ _ _ _) (by decide)
    exact touches_refl _ _
  clear_value x4
  refine touches_ite ?_ ?_
  · refine touches_after ?_ (State.setCtx_touches _ _ _) (by decide)
    assumption
  · assumption

theorem faultAction_touches : ∀ a0 a1 a2,
    Touches [.cyc, .pulses, .regs, .comparators, .pairs, .groups, .loops] a2 (faultAction a0 a1 a2) := by
  intro a0 a1 a2
  unfold faultAction
  split
  · refine touches_after ?_ (fallback_touches _ _) (by decide)
    exact touches_refl _ _
  · refine touches_ite ?_ ?_
    · exact touches_refl _ _
    · refine touches_after ?_ (loopEvent_touches _ _ _) (by decide)
      refine touches_after ?_ (tripMapped_touches _ _) (by decide)
      exact touches_refl _ _
  · exact touches_refl _ _

theorem countFaults_touches : ∀ a0 a1 a2,
    Touches [.cyc, .regs] a2 (countFaults a0 a1 a2) := by
  intro a0 a1 a2
  unfold countFaults
  extract_lets +onlyGivenNames x0
  clear_value x0
  extract_lets +onlyGivenNames x1
  refine touches_cut x1 ?_ (fun h1 => ?_)
  · unfold x1
    refine touches_ite ?_ ?_
    · refine touches_after ?_ (rcUpFld_touches _ _ _ _ _) (by decide)
      exact touches_refl _ _
    · exact touches_refl _ _
  clear_value x1
  extract_lets +onlyGivenNames x2
  refine touches_cut x2 ?_ (fun h2 => ?_)
  · unfold x2
    refine touches_ite ?_ ?_
    · refine touches_after ?_ (rcUpFld_touches _ _ _ _ _) (by decide)
      assumption
    · assumption
  clear_value x2
  refine touches_ite ?_ ?_
  · refine touches_after ?_ (rcUpFld_touches _ _ _ _ _) (by decide)
    assumption
  · assumption

theorem updateFault_touches : ∀ a0 a1 a2 a3,
    Touches [.cyc, .pulses, .regs, .comparators, .pairs, .groups, .loops] a3 (updateFault a0 a1 a2 a3) := by
  intro a0 a1 a2 a3
  unfold updateFault
  extract_lets +onlyGivenNames x0
  refine touches_cut x0 ?_ (fun h0 => ?_)
  · unfold x0
    refine touches_after ?_ (loopEvent_touches _ _ _) (by decide)
    refine touches_after ?_ (countFaults_touches _ _ _) (by decide)
    refine touches_after ?_ (clearPending_touches _ _) (by decide)
    exact touches_refl _ _
  clear_value x0
  extract_lets +onlyGivenNames x1
  clear_value x1
  extract_lets +onlyGivenNames x2
  clear_value x2
  extract_lets +onlyGivenNames x3
  clear_value x3
  extract_lets +onlyGivenNames x4
  refine touches_cut x4 ?_ (fun h4 => ?_)
  · unfold x4
    refine touches_after ?_ (State.setCtx_touches _ _ _) (by decide)
    assumption
  clear_value x4
  refine touches_ite ?_ ?_
  · extract_lets +onlyGivenNames x5
    refine touches_cut x5 ?_ (fun h5 => ?_)
    · unfold x5
      refine touches_after ?_ (loopEvent_touches _ _ _) (by decide)
      refine touches_after ?_ (tripMapped_touches _ _) (by decide)
      assumption
    clear_value x5
    refine touches_after ?_ (setLoopState_touches _ _ _) (by decide)
    refine touches_after ?_ (State.setCtx_touches _ _ _) (by decide)
    assumption
  · refine touches_after ?_ (faultAction_touches _ _ _) (by decide)
    refine touches_after ?_ (setLoopState_touches _ _ _) (by decide)
    assumption

theorem spoilPort_touches : ∀ a0 a1,
    Touches [.freeCtr, .cyc, .pulses, .regs, .comparators, .pairs] a1 (spoilPort a0 a1) := by
  intro a0 a1
  unfold spoilPort
  extract_lets +onlyGivenNames x0
  refine touches_cut_snd x0 ?_ (fun h0 => ?_)
  · unfold x0
    refine touches_after ?_ (takeFree_touches _ _) (by decide)
    exact touches_refl _ _
  clear_value x0
  refine touches_ite ?_ ?_
  · refine touches_after ?_ (loopShift_touches _ _ _) (by decide)
    assumption
  · refine touches_after ?_ (loopDuty_touches _ _ _ _) (by decide)
    assumption

theorem spoilSent_touches : ∀ a0 a1,
    Touches [.freeCtr, .cyc, .regs, .spindles, .pairs, .groups, .plate] a1 (spoilSent a0 a1) := by
  intro a0 a1
  unfold spoilSent
  extract_lets +onlyGivenNames x0
  refine touches_cut_snd x0 ?_ (fun h0 => ?_)
  · unfold x0
    refine touches_after ?_ (takeFree_touches _ _) (by decide)
    exact touches_refl _ _
  clear_value x0
  extract_lets +onlyGivenNames x1
  refine touches_cut_snd x1 ?_ (fun h1 => ?_)
  · unfold x1
    refine touches_after ?_ (takeFree_touches _ _) (by decide)
    assumption
  clear_value x1
  extract_lets +onlyGivenNames x2
  refine touches_cut_snd x2 ?_ (fun h2 => ?_)
  · unfold x2
    refine touches_after ?_ (takeFree_touches _ _) (by decide)
    assumption
  clear_value x2
  extract_lets +onlyGivenNames x3
  refine touches_cut_snd x3 ?_ (fun h3 => ?_)
  · unfold x3
    refine touches_after ?_ (takeFree_touches _ _) (by decide)
    assumption
  clear_value x3
  extract_lets +onlyGivenNames x4
  refine touches_cut x4 ?_ (fun h4 => ?_)
  · unfold x4
    refine touches_ite ?_ ?_
    · refine touches_after ?_ (tripMapped_touches _ _) (by decide)
      assumption
    · assumption
  clear_value x4
  refine touches_ite ?_ ?_
  · refine touches_after ?_ (observerUpdateEff_touches _ _ _ _ _ _) (by decide)
    assumption
  · assumption

theorem spoilLoop_touches : ∀ a0 a1,
    Touches (.freeCtr :: .cyc :: .pulses :: .regs :: .spindles :: .comparators :: .pairs :: .groups :: .plate :: .loops :: []) a1 (spoilLoop a0 a1) := by
  intro a0 a1
  unfold spoilLoop
  extract_lets +onlyGivenNames x0
  clear_value x0
  extract_lets +onlyGivenNames x1
  refine touches_cut x1 ?_ (fun h1 => ?_)
  · unfold x1
    refine touches_after ?_ (spoilRegs_touches _ _ _) (by decide)
    refine touches_after ?_ (takeState_touches _) (by decide)
    exact touches_refl _ _
  clear_value x1
  extract_lets +onlyGivenNames x2
  refine touches_cut x2 ?_ (fun h2 => ?_)
  · unfold x2
    refine touches_after ?_ (setLoopState_touches _ _ _) (by decide)
    assumption
  clear_value x2
  extract_lets +onlyGivenNames x3
  refine touches_cut x3 ?_ (fun h3 => ?_)
  · unfold x3
    refine touches_forEach (fun _ _ _ => ?_) ?_
    · refine touches_after ?_ (State.setReg_touches _ _ _) (by decide)
      assumption
    · assumption
  clear_value x3
  extract_lets +onlyGivenNames x4
  refine touches_cut x4 ?_ (fun h4 => ?_)
  · unfold x4
    refine touches_after ?_ (State.setBit_touches _ _ _ _) (by decide)
    assumption
  clear_value x4
  extract_lets +onlyGivenNames x5
  refine touches_cut x5 ?_ (fun h5 => ?_)
  · unfold x5
    refine touches_after ?_ (State.setCtx_touches _ _ _) (by decide)
    assumption
  clear_value x5
  refine touches_after ?_ (spoilSent_touches _ _) (by decide)
  refine touches_foldl (fun _ _ _ => ?_) ?_
  · refine touches_after ?_ (spoilPort_touches _ _) (by decide)
    assumption
  · assumption

theorem loopsTick_touches : ∀ a0,
    Touches (.freeCtr :: .cyc :: .pulses :: .regs :: .spindles :: .comparators :: .pairs :: .groups :: .plate :: .loops :: []) a0 (loopsTick a0) := by
  intro a0
  unfold loopsTick
  refine touches_forEach (fun _ _ _ => ?_) ?_
  · refine touches_after ?_ (spoilLoop_touches _ _) (by decide)
    assumption
  · exact touches_refl _ _

theorem onLoop_touches {F : List Part} {k : Nat} {f : State → State} {s t : State} (hF : ∀ p ∈ (.freeCtr :: .cyc :: .pulses :: .regs :: .spindles :: .comparators :: .pairs :: .groups :: .plate :: .loops :: []), p ∈ F)
    (hf : ∀ u, Touches F u (f u)) (h : Touches F s t) :
    Touches F s (onLoop k f t) := by
  unfold onLoop
  split
  · exact h
  · split
    · exact touches_after h (spoilLoop_touches _ _) (fun p hp => hF p ((show ∀ p ∈ _, p ∈ _ by decide) p hp))
    · exact h.trans (hf _)

theorem loopOverrun_touches : ∀ a0 a1,
    Touches [.cyc, .regs] a1 (loopOverrun a0 a1) := by
  intro a0 a1
  unfold loopOverrun
  refine touches_after ?_ (loopEvent_touches _ _ _) (by decide)
  refine touches_after ?_ (rcUpFld_touches _ _ _ _ _) (by decide)
  exact touches_refl _ _

theorem joinMissed_touches : ∀ a0 a1,
    Touches [.loops] a1 (joinMissed a0 a1) := by
  intro a0 a1
  unfold joinMissed
  extract_lets +onlyGivenNames x0
  clear_value x0
  extract_lets +onlyGivenNames x1
  unfold x1
  clear x1
  refine touches_ite ?_ ?_
  · exact touches_refl _ _
  · refine touches_after ?_ (State.setCtx_touches _ _ _) (by decide)
    exact touches_refl _ _

theorem takeSamples_touches : ∀ a0 a1 a2,
    Touches [.loops] a2 (takeSamples a0 a1 a2) := by
  intro a0 a1 a2
  unfold takeSamples
  extract_lets +onlyGivenNames x0
  clear_value x0
  refine touches_after ?_ (State.setCtx_touches _ _ _) (by decide)
  exact touches_refl _ _

theorem latchUpdate_touches : ∀ a0 a1 a2,
    Touches [.freeCtr, .regs, .loops] a2 (latchUpdate a0 a1 a2) := by
  intro a0 a1 a2
  unfold latchUpdate
  extract_lets +onlyGivenNames x0
  refine touches_cut x0 ?_ (fun h0 => ?_)
  · unfold x0
    refine touches_after ?_ (joinMissed_touches _ _) (by decide)
    exact touches_refl _ _
  clear_value x0
  extract_lets +onlyGivenNames x1
  clear_value x1
  extract_lets +onlyGivenNames x2
  clear_value x2
  extract_lets +onlyGivenNames x3
  clear_value x3
  extract_lets +onlyGivenNames x4
  clear_value x4
  extract_lets +onlyGivenNames x5
  unfold x5
  clear x5
  extract_lets +onlyGivenNames x6
  clear_value x6
  extract_lets +onlyGivenNames x7
  clear_value x7
  extract_lets +onlyGivenNames x8
  clear_value x8
  extract_lets +onlyGivenNames x9
  refine touches_cut_snd x9 ?_ (fun h9 => ?_)
  · unfold x9
    refine touches_after ?_ (takeFree_touches _ _) (by decide)
    assumption
  clear_value x9
  extract_lets +onlyGivenNames x10
  refine touches_cut x10 ?_ (fun h10 => ?_)
  · unfold x10
    refine touches_ite ?_ ?_
    · assumption
    · assumption
  clear_value x10
  extract_lets +onlyGivenNames x11
  clear_value x11
  extract_lets +onlyGivenNames x12
  refine touches_cut x12 ?_ (fun h12 => ?_)
  · unfold x12
    refine touches_after ?_ (State.setCtx_touches _ _ _) (by decide)
    assumption
  clear_value x12
  extract_lets +onlyGivenNames x13
  refine touches_cut x13 ?_ (fun h13 => ?_)
  · unfold x13
    refine touches_after ?_ (takeSamples_touches _ _ _) (by decide)
    assumption
  clear_value x13
  refine touches_after ?_ (countWrap_touches _ _ _) (by decide)
  refine touches_after ?_ (State.setBit_touches _ _ _ _) (by decide)
  assumption

theorem postSample_touches : ∀ a0 a1,
    Touches [.cyc, .regs, .loops] a1 (postSample a0 a1) := by
  intro a0 a1
  unfold postSample
  extract_lets +onlyGivenNames x0
  clear_value x0
  extract_lets +onlyGivenNames x1
  clear_value x1
  extract_lets +onlyGivenNames x2
  refine touches_cut x2 ?_ (fun h2 => ?_)
  · unfold x2
    refine touches_after ?_ (State.setCtx_touches _ _ _) (by decide)
    exact touches_refl _ _
  clear_value x2
  refine touches_ite ?_ ?_
  · refine touches_after ?_ (loopOverrun_touches _ _) (by decide)
    assumption
  · assumption

theorem loopStartEff_touches : ∀ a0 a1,
    Touches [.cyc, .regs, .loops] a1 (loopStartEff a0 a1) := by
  intro a0 a1
  unfold loopStartEff
  extract_lets +onlyGivenNames x0
  clear_value x0
  refine touches_ite ?_ ?_
  · exact touches_refl _ _
  · refine touches_ite ?_ ?_
    · refine touches_after ?_ (postSample_touches _ _) (by decide)
      refine touches_after ?_ (takeSamples_touches _ _ _) (by decide)
      exact touches_refl _ _
    · refine touches_ite ?_ ?_
      · refine touches_after ?_ (loopOverrun_touches _ _) (by decide)
        exact touches_refl _ _
      · refine touches_after ?_ (State.setCtx_touches _ _ _) (by decide)
        exact touches_refl _ _

theorem execLoopStartEvent_touches : ∀ a0 a1,
    ∃ t, execLoopStartEvent a0 a1 = .next t ∧ Touches (.freeCtr :: .cyc :: .pulses :: .regs :: .spindles :: .comparators :: .pairs :: .groups :: .plate :: .loops :: []) a1 t := by
  intro a0 a1
  unfold execLoopStartEvent
  refine ⟨_, rfl, ?_⟩
  refine onLoop_touches (by decide) (fun _ => ?_) ?_
  · refine touches_after ?_ (loopStartEff_touches _ _) (by decide)
    exact touches_refl _ _
  · exact touches_refl _ _

theorem enterLane_touches : ∀ a0 a1,
    Touches [.cyc, .regs, .loops] a1 (enterLane a0 a1) := by
  intro a0 a1
  unfold enterLane
  refine touches_ite ?_ ?_
  · refine touches_after ?_ (postSample_touches _ _) (by decide)
    exact touches_refl _ _
  · extract_lets +onlyGivenNames x0
    refine touches_cut x0 ?_ (fun h0 => ?_)
    · unfold x0
      refine touches_ite ?_ ?_
      · exact touches_refl _ _
      · refine touches_after ?_ (rcUp_touches _ _ _ _) (by decide)
        exact touches_refl _ _
    clear_value x0
    extract_lets +onlyGivenNames x1
    clear_value x1
    extract_lets +onlyGivenNames x2
    clear_value x2
    extract_lets +onlyGivenNames x3
    clear_value x3
    extract_lets +onlyGivenNames x4
    refine touches_cut x4 ?_ (fun h4 => ?_)
    · unfold x4
      refine touches_after ?_ (State.setCtx_touches _ _ _) (by decide)
      assumption
    clear_value x4
    refine touches_ite ?_ ?_
    · refine touches_after ?_ (rcUpFld_touches _ _ _ _ _) (by decide)
      assumption
    · assumption

theorem issueWith_touches : ∀ a0 a1 a2,
    Touches (.freeCtr :: .cyc :: .pulses :: .regs :: .comparators :: .pairs :: .groups :: .loops :: []) a2 (issueWith a0 a1 a2) := by
  intro a0 a1 a2
  unfold issueWith
  extract_lets +onlyGivenNames x0
  refine touches_cut x0 ?_ (fun h0 => ?_)
  · unfold x0
    refine touches_after ?_ (latchUpdate_touches _ _ _) (by decide)
    exact touches_refl _ _
  clear_value x0
  extract_lets +onlyGivenNames x1
  clear_value x1
  refine touches_ite ?_ ?_
  · refine touches_after ?_ (updateFault_touches _ _ _ _) (by decide)
    assumption
  · refine touches_ite ?_ ?_
    · refine touches_after ?_ (enterLane_touches _ _) (by decide)
      assumption
    · assumption

theorem loopIssueEff_touches : ∀ a0 a1,
    Touches (.freeCtr :: .cyc :: .pulses :: .regs :: .comparators :: .pairs :: .groups :: .loops :: []) a1 (loopIssueEff a0 a1) := by
  intro a0 a1
  unfold loopIssueEff
  split
  · exact touches_refl _ _
  · refine touches_ite ?_ ?_
    · refine touches_after ?_ (issueWith_touches _ _ _) (by decide)
      exact touches_refl _ _
    · exact touches_refl _ _

theorem execLoopIssue_touches : ∀ a0 a1,
    ∃ t, execLoopIssue a0 a1 = .next t ∧ Touches (.freeCtr :: .cyc :: .pulses :: .regs :: .spindles :: .comparators :: .pairs :: .groups :: .plate :: .loops :: []) a1 t := by
  intro a0 a1
  unfold execLoopIssue
  refine ⟨_, rfl, ?_⟩
  refine onLoop_touches (by decide) (fun _ => ?_) ?_
  · refine touches_after ?_ (loopIssueEff_touches _ _) (by decide)
    exact touches_refl _ _
  · exact touches_refl _ _

theorem predictedRunEff_touches : ∀ a0 a1,
    Touches [.regs, .loops] a1 (predictedRunEff a0 a1) := by
  intro a0 a1
  unfold predictedRunEff
  extract_lets +onlyGivenNames x0
  clear_value x0
  refine touches_ite ?_ ?_
  · extract_lets +onlyGivenNames x1
    clear_value x1
    extract_lets +onlyGivenNames x2
    clear_value x2
    extract_lets +onlyGivenNames x3
    clear_value x3
    extract_lets +onlyGivenNames x4
    refine touches_cut x4 ?_ (fun h4 => ?_)
    · unfold x4
      refine touches_after ?_ (State.setCtx_touches _ _ _) (by decide)
      exact touches_refl _ _
    clear_value x4
    extract_lets +onlyGivenNames x5
    refine touches_cut x5 ?_ (fun h5 => ?_)
    · unfold x5
      refine touches_after ?_ (State.setBit_touches _ _ _ _) (by decide)
      assumption
    clear_value x5
    refine touches_foldl (fun _ _ _ => ?_) ?_
    · refine touches_after ?_ (State.setReg_touches _ _ _) (by decide)
      assumption
    · assumption
  · exact touches_refl _ _

theorem execPredictedRunDone_touches : ∀ a0 a1,
    ∃ t, execPredictedRunDone a0 a1 = .next t ∧ Touches (.freeCtr :: .cyc :: .pulses :: .regs :: .spindles :: .comparators :: .pairs :: .groups :: .plate :: .loops :: []) a1 t := by
  intro a0 a1
  unfold execPredictedRunDone
  refine ⟨_, rfl, ?_⟩
  refine onLoop_touches (by decide) (fun _ => ?_) ?_
  · refine touches_after ?_ (predictedRunEff_touches _ _) (by decide)
    exact touches_refl _ _
  · exact touches_refl _ _

theorem countConfirmWait_touches : ∀ a0 a1,
    Touches [.cyc, .regs, .loops] a1 (countConfirmWait a0 a1) := by
  intro a0 a1
  unfold countConfirmWait
  extract_lets +onlyGivenNames x0
  clear_value x0
  extract_lets +onlyGivenNames x1
  clear_value x1
  extract_lets +onlyGivenNames x2
  clear_value x2
  extract_lets +onlyGivenNames x3
  refine touches_cut x3 ?_ (fun h3 => ?_)
  · unfold x3
    refine touches_after ?_ (State.setCtx_touches _ _ _) (by decide)
    exact touches_refl _ _
  clear_value x3
  refine touches_ite ?_ ?_
  · refine touches_after ?_ (rcUpFld_touches _ _ _ _ _) (by decide)
    assumption
  · assumption

theorem sampleConfirmEff_touches : ∀ a0 a1,
    Touches [.cyc, .pulses, .regs, .comparators, .pairs, .groups, .loops] a1 (sampleConfirmEff a0 a1) := by
  intro a0 a1
  unfold sampleConfirmEff
  extract_lets +onlyGivenNames x0
  clear_value x0
  refine touches_ite ?_ ?_
  · extract_lets +onlyGivenNames x1
    clear_value x1
    extract_lets +onlyGivenNames x2
    refine touches_cut x2 ?_ (fun h2 => ?_)
    · unfold x2
      refine touches_after ?_ (takeSamples_touches _ _ _) (by decide)
      exact touches_refl _ _
    clear_value x2
    refine touches_ite ?_ ?_
    · refine touches_after ?_ (updateFault_touches _ _ _ _) (by decide)
      assumption
    · refine touches_ite ?_ ?_
      · refine touches_after ?_ (postSample_touches _ _) (by decide)
        assumption
      · split
        · extract_lets +onlyGivenNames x3
          refine touches_cut x3 ?_ (fun h3 => ?_)
          · unfold x3
            refine touches_after ?_ (countConfirmWait_touches _ _) (by decide)
            assumption
          clear_value x3
          refine touches_ite ?_ ?_
          · extract_lets +onlyGivenNames x4
            refine touches_cut x4 ?_ (fun h4 => ?_)
            · unfold x4
              refine touches_after ?_ (commitDuties_touches _ _ _ _ _) (by decide)
              refine touches_after ?_ (clearPending_touches _ _) (by decide)
              assumption
            clear_value x4
            extract_lets +onlyGivenNames x5
            clear_value x5
            extract_lets +onlyGivenNames x6
            refine touches_cut x6 ?_ (fun h6 => ?_)
            · unfold x6
              refine touches_after ?_ (State.setCtx_touches _ _ _) (by decide)
              assumption
            clear_value x6
            extract_lets +onlyGivenNames x7
            refine touches_cut x7 ?_ (fun h7 => ?_)
            · unfold x7
              refine touches_after ?_ (loopEvent_touches _ _ _) (by decide)
              assumption
            clear_value x7
            refine touches_after ?_ (rcUp_touches _ _ _ _) (by decide)
            assumption
          · refine touches_after ?_ (enterLane_touches _ _) (by decide)
            refine touches_after ?_ (clearPending_touches _ _) (by decide)
            assumption
        · refine touches_after ?_ (enterLane_touches _ _) (by decide)
          refine touches_after ?_ (clearPending_touches _ _) (by decide)
          assumption
  · exact touches_refl _ _

theorem execSampleConfirm_touches : ∀ a0 a1,
    ∃ t, execSampleConfirm a0 a1 = .next t ∧ Touches (.freeCtr :: .cyc :: .pulses :: .regs :: .spindles :: .comparators :: .pairs :: .groups :: .plate :: .loops :: []) a1 t := by
  intro a0 a1
  unfold execSampleConfirm
  refine ⟨_, rfl, ?_⟩
  refine onLoop_touches (by decide) (fun _ => ?_) ?_
  · refine touches_after ?_ (sampleConfirmEff_touches _ _) (by decide)
    exact touches_refl _ _
  · exact touches_refl _ _

theorem writeState_touches : ∀ a0 a1 a2,
    Touches [.regs] a2 (writeState a0 a1 a2) := by
  intro a0 a1 a2
  unfold writeState
  refine touches_foldl (fun _ _ _ => ?_) ?_
  · refine touches_after ?_ (State.setReg_touches _ _ _) (by decide)
    assumption
  · exact touches_refl _ _

theorem observeEff_touches : ∀ a0 a1 a2,
    Touches (.freeCtr :: .cyc :: .regs :: .spindles :: .pairs :: .groups :: .plate :: .loops :: []) a2 (observeEff a0 a1 a2) := by
  intro a0 a1 a2
  unfold observeEff
  refine touches_ite ?_ ?_
  · exact touches_refl _ _
  · extract_lets +onlyGivenNames x0
    clear_value x0
    extract_lets +onlyGivenNames x1
    refine touches_cut_snd x1 ?_ (fun h1 => ?_)
    · unfold x1
      refine touches_after ?_ (takeFree_touches _ _) (by decide)
      exact touches_refl _ _
    clear_value x1
    extract_lets +onlyGivenNames x2
    refine touches_cut_snd x2 ?_ (fun h2 => ?_)
    · unfold x2
      split
      · dsimp only
        exact touches_refl _ _
      · dsimp only
        assumption
    clear_value x2
    extract_lets +onlyGivenNames x3
    clear_value x3
    extract_lets +onlyGivenNames x4
    clear_value x4
    extract_lets +onlyGivenNames x5
    clear_value x5
    extract_lets +onlyGivenNames x6
    clear_value x6
    extract_lets +onlyGivenNames x7
    clear_value x7
    extract_lets +onlyGivenNames x8
    refine touches_cut x8 ?_ (fun h8 => ?_)
    · unfold x8
      refine touches_after ?_ (writeState_touches _ _ _) (by decide)
      assumption
    clear_value x8
    extract_lets +onlyGivenNames x9
    clear_value x9
    extract_lets +onlyGivenNames x10
    refine touches_cut x10 ?_ (fun h10 => ?_)
    · unfold x10
      refine touches_after ?_ (State.setCtx_touches _ _ _) (by decide)
      refine touches_after ?_ (State.setBit_touches _ _ _ _) (by decide)
      assumption
    clear_value x10
    extract_lets +onlyGivenNames x11
    clear_value x11
    extract_lets +onlyGivenNames x12
    refine touches_cut x12 ?_ (fun h12 => ?_)
    · unfold x12
      refine touches_after ?_ (loopEvent_touches _ _ _) (by decide)
      assumption
    clear_value x12
    refine touches_ite ?_ ?_
    · extract_lets +onlyGivenNames x13
      extract_lets +onlyGivenNames x14
      clear_value x14
      extract_lets +onlyGivenNames x15
      clear_value x15
      extract_lets +onlyGivenNames x16
      refine touches_cut x16 ?_ (fun h16 => ?_)
      · unfold x16
        refine touches_after ?_ (State.setReg_touches _ _ _) (by decide)
        assumption
      clear_value x16
      refine touches_ite ?_ ?_
      · extract_lets +onlyGivenNames x17
        clear_value x17
        extract_lets +onlyGivenNames x18
        clear_value x18
        extract_lets +onlyGivenNames x19
        refine touches_cut x19 ?_ (fun h19 => ?_)
        · unfold x19
          refine touches_after ?_ (State.setReg_touches _ _ _) (by decide)
          refine touches_after ?_ (State.setReg_touches _ _ _) (by decide)
          assumption
        clear_value x19
        refine touches_after ?_ (mainsUpdateEff_touches _ _ _ _ _ _ _) (by decide)
        refine touches_after ?_ (State.setReg_touches _ _ _) (by decide)
        assumption
      · extract_lets +onlyGivenNames x20
        clear_value x20
        refine touches_after ?_ (observerUpdateEff_touches _ _ _ _ _ _) (by decide)
        refine touches_after ?_ (State.setReg_touches _ _ _) (by decide)
        assumption
    · assumption

theorem endUpdate_touches : ∀ a0 a1,
    Touches [.regs, .loops] a1 (endUpdate a0 a1) := by
  intro a0 a1
  unfold endUpdate
  extract_lets +onlyGivenNames x0
  clear_value x0
  extract_lets +onlyGivenNames x1
  refine touches_cut x1 ?_ (fun h1 => ?_)
  · unfold x1
    refine touches_after ?_ (State.setCtx_touches _ _ _) (by decide)
    exact touches_refl _ _
  clear_value x1
  refine touches_ite ?_ ?_
  · refine touches_after ?_ (setLoopState_touches _ _ _) (by decide)
    assumption
  · assumption

theorem recomputeDoneEff_touches : ∀ a0 a1,
    Touches (.freeCtr :: .cyc :: .pulses :: .regs :: .spindles :: .comparators :: .pairs :: .groups :: .plate :: .loops :: []) a1 (recomputeDoneEff a0 a1) := by
  intro a0 a1
  unfold recomputeDoneEff
  refine touches_ite ?_ ?_
  · extract_lets +onlyGivenNames x0
    clear_value x0
    extract_lets +onlyGivenNames x1
    refine touches_cut x1 ?_ (fun h1 => ?_)
    · unfold x1
      refine touches_after ?_ (commitDuties_touches _ _ _ _ _) (by decide)
      exact touches_refl _ _
    clear_value x1
    extract_lets +onlyGivenNames x2
    refine touches_cut x2 ?_ (fun h2 => ?_)
    · unfold x2
      refine touches_after ?_ (observeEff_touches _ _ _) (by decide)
      assumption
    clear_value x2
    extract_lets +onlyGivenNames x3
    refine touches_cut x3 ?_ (fun h3 => ?_)
    · unfold x3
      refine touches_after ?_ (writeState_touches _ _ _) (by decide)
      assumption
    clear_value x3
    extract_lets +onlyGivenNames x4
    clear_value x4
    extract_lets +onlyGivenNames x5
    refine touches_cut x5 ?_ (fun h5 => ?_)
    · unfold x5
      refine touches_ite ?_ ?_
      · refine touches_after ?_ (State.setCtx_touches _ _ _) (by decide)
        assumption
      · assumption
    clear_value x5
    refine touches_after ?_ (endUpdate_touches _ _) (by decide)
    refine touches_after ?_ (loopEvent_touches _ _ _) (by decide)
    assumption
  · exact touches_refl _ _

theorem execRecomputeDone_touches : ∀ a0 a1,
    ∃ t, execRecomputeDone a0 a1 = .next t ∧ Touches (.freeCtr :: .cyc :: .pulses :: .regs :: .spindles :: .comparators :: .pairs :: .groups :: .plate :: .loops :: []) a1 t := by
  intro a0 a1
  unfold execRecomputeDone
  refine ⟨_, rfl, ?_⟩
  refine onLoop_touches (by decide) (fun _ => ?_) ?_
  · refine touches_after ?_ (recomputeDoneEff_touches _ _) (by decide)
    exact touches_refl _ _
  · exact touches_refl _ _

theorem settlePass_touches : ∀ a0 a1 a2,
    Touches (.freeCtr :: .cyc :: .regs :: .spindles :: .pairs :: .groups :: .plate :: .loops :: []) a2 (settlePass a0 a1 a2) := by
  intro a0 a1 a2
  unfold settlePass
  extract_lets +onlyGivenNames x0
  clear_value x0
  extract_lets +onlyGivenNames x1
  refine touches_cut x1 ?_ (fun h1 => ?_)
  · unfold x1
    refine touches_after ?_ (writeState_touches _ _ _) (by decide)
    refine touches_after ?_ (observeEff_touches _ _ _) (by decide)
    exact touches_refl _ _
  clear_value x1
  refine touches_after ?_ (loopEvent_touches _ _ _) (by decide)
  assumption

theorem replay_touches : ∀ a0 a1 a2 a3,
    Touches (.freeCtr :: .cyc :: .regs :: .spindles :: .pairs :: .groups :: .plate :: .loops :: []) a3 (replay a0 a1 a2 a3) := by
  intro a0 a1 a2 a3
  fun_induction replay a0 a1 a2 a3
  · exact touches_refl _ _
  · refine touches_after ?_ ‹_› (fun _ h => h)
    refine touches_after ?_ (settlePass_touches _ _ _) (by decide)
    refine touches_after ?_ (State.setCtx_touches _ _ _) (by decide)
    exact touches_refl _ _

theorem settleDoneEff_touches : ∀ a0 a1,
    Touches (.freeCtr :: .cyc :: .regs :: .spindles :: .pairs :: .groups :: .plate :: .loops :: []) a1 (settleDoneEff a0 a1) := by
  intro a0 a1
  unfold settleDoneEff
  extract_lets +onlyGivenNames x0
  clear_value x0
  split
  · refine touches_after ?_ (endUpdate_touches _ _) (by decide)
    refine touches_after ?_ (settlePass_touches _ _ _) (by decide)
    exact touches_refl _ _
  · extract_lets +onlyGivenNames x1
    clear_value x1
    extract_lets +onlyGivenNames x2
    refine touches_cut x2 ?_ (fun h2 => ?_)
    · unfold x2
      refine touches_after ?_ (replay_touches _ _ _ _) (by decide)
      exact touches_refl _ _
    clear_value x2
    extract_lets +onlyGivenNames x3
    clear_value x3
    extract_lets +onlyGivenNames x4
    refine touches_cut x4 ?_ (fun h4 => ?_)
    · unfold x4
      refine touches_after ?_ (State.setCtx_touches _ _ _) (by decide)
      assumption
    clear_value x4
    refine touches_after ?_ (loopEvent_touches _ _ _) (by decide)
    refine touches_after ?_ (setLoopState_touches _ _ _) (by decide)
    assumption
  · exact touches_refl _ _

theorem execSettleDone_touches : ∀ a0 a1,
    ∃ t, execSettleDone a0 a1 = .next t ∧ Touches (.freeCtr :: .cyc :: .pulses :: .regs :: .spindles :: .comparators :: .pairs :: .groups :: .plate :: .loops :: []) a1 t := by
  intro a0 a1
  unfold execSettleDone
  refine ⟨_, rfl, ?_⟩
  refine onLoop_touches (by decide) (fun _ => ?_) ?_
  · refine touches_after ?_ (settleDoneEff_touches _ _) (by decide)
    exact touches_refl _ _
  · exact touches_refl _ _

theorem sampleTimeoutEff_touches : ∀ a0 a1,
    Touches [.cyc, .pulses, .regs, .comparators, .pairs, .groups, .loops] a1 (sampleTimeoutEff a0 a1) := by
  intro a0 a1
  unfold sampleTimeoutEff
  extract_lets +onlyGivenNames x0
  clear_value x0
  refine touches_ite ?_ ?_
  · refine touches_after ?_ (updateFault_touches _ _ _ _) (by decide)
    exact touches_refl _ _
  · exact touches_refl _ _

theorem execSampleTimeout_touches : ∀ a0 a1,
    ∃ t, execSampleTimeout a0 a1 = .next t ∧ Touches (.freeCtr :: .cyc :: .pulses :: .regs :: .spindles :: .comparators :: .pairs :: .groups :: .plate :: .loops :: []) a1 t := by
  intro a0 a1
  unfold execSampleTimeout
  refine ⟨_, rfl, ?_⟩
  refine onLoop_touches (by decide) (fun _ => ?_) ?_
  · refine touches_after ?_ (sampleTimeoutEff_touches _ _) (by decide)
    exact touches_refl _ _
  · exact touches_refl _ _

theorem stateRebuildEff_touches : ∀ a0 a1,
    Touches [.cyc, .pulses, .regs, .comparators, .pairs, .groups, .loops] a1 (stateRebuildEff a0 a1) := by
  intro a0 a1
  unfold stateRebuildEff
  extract_lets +onlyGivenNames x0
  refine touches_cut x0 ?_ (fun h0 => ?_)
  · unfold x0
    refine touches_after ?_ (countDetect_touches _) (by decide)
    exact touches_refl _ _
  clear_value x0
  refine touches_ite ?_ ?_
  · extract_lets +onlyGivenNames x1
    refine touches_cut x1 ?_ (fun h1 => ?_)
    · unfold x1
      refine touches_after ?_ (updateFault_touches _ _ _ _) (by decide)
      assumption
    clear_value x1
    extract_lets +onlyGivenNames x2
    refine touches_cut x2 ?_ (fun h2 => ?_)
    · unfold x2
      refine touches_forEach (fun _ _ _ => ?_) ?_
      · refine touches_after ?_ (State.setReg_touches _ _ _) (by decide)
        assumption
      · assumption
    clear_value x2
    refine touches_ite ?_ ?_
    · assumption
    · refine touches_after ?_ (setLoopState_touches _ _ _) (by decide)
      refine touches_after ?_ (State.setCtx_touches _ _ _) (by decide)
      assumption
  · assumption

theorem execStateRebuild_touches : ∀ a0 a1,
    ∃ t, execStateRebuild a0 a1 = .next t ∧ Touches (.freeCtr :: .cyc :: .pulses :: .regs :: .spindles :: .comparators :: .pairs :: .groups :: .plate :: .loops :: []) a1 t := by
  intro a0 a1
  unfold execStateRebuild
  refine ⟨_, rfl, ?_⟩
  refine onLoop_touches (by decide) (fun _ => ?_) ?_
  · refine touches_after ?_ (stateRebuildEff_touches _ _) (by decide)
    exact touches_refl _ _
  · exact touches_refl _ _

theorem bankFault_touches : ∀ a0 a1,
    Touches [.cyc, .pulses, .regs, .comparators, .pairs, .groups, .loops] a1 (bankFault a0 a1) := by
  intro a0 a1
  unfold bankFault
  refine touches_ite ?_ ?_
  · refine touches_after ?_ (updateFault_touches _ _ _ _) (by decide)
    exact touches_refl _ _
  · exact touches_refl _ _

theorem bankRequest_touches : ∀ a0 a1 a2,
    Touches [.loops] a2 (bankRequest a0 a1 a2) := by
  intro a0 a1 a2
  unfold bankRequest
  extract_lets +onlyGivenNames x0
  clear_value x0
  extract_lets +onlyGivenNames x1
  clear_value x1
  split
  · refine touches_after ?_ (State.setCtx_touches _ _ _) (by decide)
    exact touches_refl _ _
  · refine touches_after ?_ (State.setCtx_touches _ _ _) (by decide)
    exact touches_refl _ _
  · refine touches_after ?_ (State.setCtx_touches _ _ _) (by decide)
    exact touches_refl _ _
  · refine touches_after ?_ (State.setCtx_touches _ _ _) (by decide)
    exact touches_refl _ _

theorem execLoopBank_touches : ∀ a0 a1 a2,
    ∃ t, execLoopBank a0 a1 a2 = .next t ∧ Touches [.loops] a2 t := by
  intro a0 a1 a2
  unfold execLoopBank
  refine ⟨_, rfl, ?_⟩
  refine touches_ite ?_ ?_
  · refine touches_after ?_ (bankRequest_touches _ _ _) (by decide)
    exact touches_refl _ _
  · exact touches_refl _ _

theorem execCoefswap_touches : ∀ a0 a1 a2,
    ∃ t, execCoefswap a0 a1 a2 = .next t ∧ Touches [.loops] a2 t := by
  intro a0 a1 a2
  unfold execCoefswap
  refine ⟨_, rfl, ?_⟩
  refine touches_ite ?_ ?_
  · refine touches_after ?_ (bankRequest_touches _ _ _) (by decide)
    exact touches_refl _ _
  · exact touches_refl _ _

theorem setOwner_touches : ∀ a0 a1,
    Touches [.pairs] a1 (setOwner a0 a1) := by
  intro a0 a1
  unfold setOwner
  extract_lets +onlyGivenNames x0
  clear_value x0
  refine touches_after ?_ (State.setPair_touches _ _ _) (by decide)
  exact touches_refl _ _

theorem setOwners_touches : ∀ a0,
    Touches [.pairs] a0 (setOwners a0) := by
  intro a0
  unfold setOwners
  refine touches_forEach (fun _ _ _ => ?_) ?_
  · refine touches_after ?_ (setOwner_touches _ _) (by decide)
    refine touches_after ?_ (setOwner_touches _ _) (by decide)
    assumption
  · exact touches_refl _ _

theorem outMapWrite_touches : ∀ a0 a1 a2 a3,
    Touches [.regs, .pairs] a3 (outMapWrite a0 a1 a2 a3) := by
  intro a0 a1 a2 a3
  unfold outMapWrite
  refine touches_foldl (fun _ _ _ => ?_) ?_
  · refine touches_after ?_ (setOwner_touches _ _) (by decide)
    assumption
  · refine touches_after ?_ (State.setReg_touches _ _ _) (by decide)
    exact touches_refl _ _

theorem loopCtlWrite_touches : ∀ a0 a1 a2,
    Touches [.regs, .loops] a2 (loopCtlWrite a0 a1 a2) := by
  intro a0 a1 a2
  unfold loopCtlWrite
  extract_lets +onlyGivenNames x0
  clear_value x0
  extract_lets +onlyGivenNames x1
  clear_value x1
  extract_lets +onlyGivenNames x2
  clear_value x2
  extract_lets +onlyGivenNames x3
  clear_value x3
  extract_lets +onlyGivenNames x4
  refine touches_cut x4 ?_ (fun h4 => ?_)
  · unfold x4
    refine touches_after ?_ (State.setReg_touches _ _ _) (by decide)
    exact touches_refl _ _
  clear_value x4
  extract_lets +onlyGivenNames x5
  clear_value x5
  refine touches_ite ?_ ?_
  · refine touches_ite ?_ ?_
    · refine touches_ite ?_ ?_
      · refine touches_after ?_ (State.setCtx_touches _ _ _) (by decide)
        assumption
      · assumption
    · refine touches_ite ?_ ?_
      · assumption
      · refine touches_after ?_ (setLoopState_touches _ _ _) (by decide)
        refine touches_after ?_ (State.setCtx_touches _ _ _) (by decide)
        assumption
  · extract_lets +onlyGivenNames x6
    refine touches_cut x6 ?_ (fun h6 => ?_)
    · unfold x6
      refine touches_after ?_ (clearPending_touches _ _) (by decide)
      assumption
    clear_value x6
    extract_lets +onlyGivenNames x7
    clear_value x7
    extract_lets +onlyGivenNames x8
    refine touches_cut x8 ?_ (fun h8 => ?_)
    · unfold x8
      refine touches_after ?_ (State.setCtx_touches _ _ _) (by decide)
      assumption
    clear_value x8
    refine touches_ite ?_ ?_
    · assumption
    · refine touches_after ?_ (setLoopState_touches _ _ _) (by decide)
      assumption

theorem execLoopEnable_touches : ∀ a0 a1 a2,
    ∃ t, execLoopEnable a0 a1 a2 = .next t ∧ Touches [.regs, .loops] a2 t := by
  intro a0 a1 a2
  unfold execLoopEnable
  refine ⟨_, rfl, ?_⟩
  refine touches_ite ?_ ?_
  · refine touches_after ?_ (loopCtlWrite_touches _ _ _) (by decide)
    exact touches_refl _ _
  · exact touches_refl _ _

theorem loopConfigWrite_touches : ∀ a0 a1 a2 a3,
    Touches [.regs, .loops] a3 (loopConfigWrite a0 a1 a2 a3) := by
  intro a0 a1 a2 a3
  unfold loopConfigWrite
  extract_lets +onlyGivenNames x0
  refine touches_cut x0 ?_ (fun h0 => ?_)
  · unfold x0
    refine touches_after ?_ (State.setReg_touches _ _ _) (by decide)
    exact touches_refl _ _
  clear_value x0
  refine touches_ite ?_ ?_
  · refine touches_after ?_ (State.setCtx_touches _ _ _) (by decide)
    assumption
  · assumption

theorem loopBankWordWrite_touches : ∀ a0 a1 a2 a3 a4,
    Touches [.regs, .loops] a4 (loopBankWordWrite a0 a1 a2 a3 a4) := by
  intro a0 a1 a2 a3 a4
  unfold loopBankWordWrite
  refine touches_ite ?_ ?_
  · refine touches_after ?_ (State.setCtx_touches _ _ _) (by decide)
    refine touches_after ?_ (State.setReg_touches _ _ _) (by decide)
    exact touches_refl _ _
  · refine touches_after ?_ (State.setReg_touches _ _ _) (by decide)
    exact touches_refl _ _

theorem loopStateWrite_touches : ∀ a0 a1 a2 a3,
    Touches [.regs] a3 (loopStateWrite a0 a1 a2 a3) := by
  intro a0 a1 a2 a3
  unfold loopStateWrite
  refine touches_ite ?_ ?_
  · exact touches_refl _ _
  · refine touches_after ?_ (State.setReg_touches _ _ _) (by decide)
    exact touches_refl _ _

theorem obsCtlWrite_touches : ∀ a0 a1 a2,
    Touches [.regs, .loops] a2 (obsCtlWrite a0 a1 a2) := by
  intro a0 a1 a2
  unfold obsCtlWrite
  extract_lets +onlyGivenNames x0
  clear_value x0
  refine touches_after ?_ (loopConfigWrite_touches _ _ _ _) (by decide)
  exact touches_refl _ _

theorem partLoop_touches : ∀ a0 a1,
    Touches [.cyc, .pulses, .regs, .comparators, .pairs, .groups, .loops] a1 (partLoop a0 a1) := by
  intro a0 a1
  unfold partLoop
  extract_lets +onlyGivenNames x0
  clear_value x0
  extract_lets +onlyGivenNames x1
  refine touches_cut x1 ?_ (fun h1 => ?_)
  · unfold x1
    refine touches_after ?_ (clearPending_touches _ _) (by decide)
    exact touches_refl _ _
  clear_value x1
  extract_lets +onlyGivenNames x2
  refine touches_cut x2 ?_ (fun h2 => ?_)
  · unfold x2
    refine touches_ite ?_ ?_
    · refine touches_after ?_ (faultAction_touches _ _ _) (by decide)
      assumption
    · assumption
  clear_value x2
  refine touches_after ?_ (setLoopState_touches _ _ _) (by decide)
  refine touches_after ?_ (State.setCtx_touches _ _ _) (by decide)
  assumption

theorem takePosted_touches : ∀ a0 a1 a2,
    Touches [.loops] a2 (takePosted a0 a1 a2) := by
  intro a0 a1 a2
  unfold takePosted
  refine touches_after ?_ (State.setCtx_touches _ _ _) (by decide)
  exact touches_refl _ _

theorem lputEff_touches : ∀ a0 a1 a2,
    Touches (.freeCtr :: .cyc :: .pulses :: .regs :: .spindles :: .comparators :: .pairs :: .groups :: .plate :: .loops :: []) a2 (lputEff a0 a1 a2) := by
  intro a0 a1 a2
  unfold lputEff
  extract_lets +onlyGivenNames x0
  clear_value x0
  refine touches_ite ?_ ?_
  · refine touches_after ?_ (spoilLoop_touches _ _) (by decide)
    exact touches_refl _ _
  · refine touches_ite ?_ ?_
    · extract_lets +onlyGivenNames x1
      clear_value x1
      extract_lets +onlyGivenNames x2
      clear_value x2
      extract_lets +onlyGivenNames x3
      refine touches_cut x3 ?_ (fun h3 => ?_)
      · unfold x3
        refine touches_after ?_ (commitDuties_touches _ _ _ _ _) (by decide)
        exact touches_refl _ _
      clear_value x3
      extract_lets +onlyGivenNames x4
      refine touches_cut x4 ?_ (fun h4 => ?_)
      · unfold x4
        refine touches_after ?_ (writeState_touches _ _ _) (by decide)
        assumption
      clear_value x4
      extract_lets +onlyGivenNames x5
      clear_value x5
      refine touches_after ?_ (endUpdate_touches _ _) (by decide)
      refine touches_after ?_ (loopEvent_touches _ _ _) (by decide)
      assumption
    · exact touches_refl _ _

end Sys2Proof.Machine
end

