-- ==== Sys2Proof/Laws/TouchPlacement.lean ====
section
/-! SUPPORT. Which parts of the state the definitions of Machine/Placement.lean touch: one lemma for each, the proofs written by a
script from their shape. -/

namespace Sys2Proof.Machine

theorem plResult_touches : ∀ a0 a1 a2,
    Touches [.regs] a2 (plResult a0 a1 a2).2 := by
  intro a0 a1 a2
  unfold plResult
  dsimp only
  refine touches_after ?_ (State.setReg_touches _ _ _) (by decide)
  exact touches_refl _ _

theorem poolUsed_touches : ∀ a0,
    Touches [.regs] a0 (poolUsed a0) := by
  intro a0
  unfold poolUsed
  refine touches_after ?_ (State.setReg_touches _ _ _) (by decide)
  exact touches_refl _ _

theorem plSubmitOp_touches : ∀ a0 a1,
    Touches [.regs, .place] a1 (plSubmitOp a0 a1).2 := by
  intro a0 a1
  unfold plSubmitOp
  extract_lets +onlyGivenNames x0
  clear_value x0
  extract_lets +onlyGivenNames x1
  clear_value x1
  refine touches_ite_snd ?_ ?_
  · refine touches_after ?_ (plResult_touches _ _ _) (by decide)
    exact touches_refl _ _
  · extract_lets +onlyGivenNames x2
    clear_value x2
    extract_lets +onlyGivenNames x3
    refine touches_cut x3 ?_ (fun h3 => ?_)
    · unfold x3
      refine touches_after ?_ (poolUsed_touches _) (by decide)
      refine touches_after ?_ (touch_place _) (by decide)
      exact touches_refl _ _
    clear_value x3
    refine touches_after ?_ (plResult_touches _ _ _) (by decide)
    assumption

theorem plSubmitStaged_touches : ∀ a0 a1,
    Touches [.regs, .place] a1 (plSubmitStaged a0 a1).2 := by
  intro a0 a1
  unfold plSubmitStaged
  refine touches_after ?_ (plSubmitOp_touches _ _) (by decide)
  exact touches_refl _ _

theorem execPlSubmit_touches : ∀ a0 a1,
    ∃ t, execPlSubmit a0 a1 = .next t ∧ Touches [.regs, .resp, .place] a1 t := by
  intro a0 a1
  unfold execPlSubmit
  refine ⟨_, rfl, ?_⟩
  refine touches_ite ?_ ?_
  · refine touches_answerWith (by decide) ?_
    refine touches_after ?_ (plSubmitStaged_touches _ _) (by decide)
    exact touches_refl _ _
  · exact touches_refl _ _

theorem plDiscard_touches : ∀ a0 a1,
    Touches [.regs, .place] a1 (plDiscard a0 a1) := by
  intro a0 a1
  unfold plDiscard
  refine touches_after ?_ (poolUsed_touches _) (by decide)
  refine touches_after ?_ (touch_place _) (by decide)
  exact touches_refl _ _

theorem execPlDiscard_touches : ∀ a0 a1 a2,
    ∃ t, execPlDiscard a0 a1 a2 = .next t ∧ Touches [.regs, .place] a2 t := by
  intro a0 a1 a2
  unfold execPlDiscard
  refine ⟨_, rfl, ?_⟩
  refine touches_ite ?_ ?_
  · refine touches_after ?_ (plDiscard_touches _ _) (by decide)
    exact touches_refl _ _
  · exact touches_refl _ _

theorem plQueue_touches : ∀ a0 a1,
    Touches [.regs, .place] a1 (plQueue a0 a1).2 := by
  intro a0 a1
  unfold plQueue
  extract_lets +onlyGivenNames x0
  clear_value x0
  extract_lets +onlyGivenNames x1
  refine touches_cut x1 ?_ (fun h1 => ?_)
  · unfold x1
    refine touches_after ?_ (State.setFld_touches _ _ _ _ _) (by decide)
    refine touches_after ?_ (State.setBit_touches _ _ _ _) (by decide)
    exact touches_refl _ _
  clear_value x1
  extract_lets +onlyGivenNames x2
  clear_value x2
  extract_lets +onlyGivenNames x3
  refine touches_cut x3 ?_ (fun h3 => ?_)
  · unfold x3
    refine touches_after ?_ (touch_place _) (by decide)
    assumption
  clear_value x3
  refine touches_after ?_ (plResult_touches _ _ _) (by decide)
  assumption

theorem plCommitOp_touches : ∀ a0 a1,
    Touches [.regs, .place] a1 (plCommitOp a0 a1).2 := by
  intro a0 a1
  unfold plCommitOp
  refine touches_ite_snd ?_ ?_
  · refine touches_after ?_ (plResult_touches _ _ _) (by decide)
    exact touches_refl _ _
  · refine touches_ite_snd ?_ ?_
    · refine touches_after ?_ (plResult_touches _ _ _) (by decide)
      exact touches_refl _ _
    · refine touches_after ?_ (plQueue_touches _ _) (by decide)
      exact touches_refl _ _

theorem plHandleOp_touches : ∀ a0 a1 a2,
    Touches [.regs, .place] a2 (plHandleOp a0 a1 a2).2 := by
  intro a0 a1 a2
  unfold plHandleOp
  refine touches_ite_snd ?_ ?_
  · refine touches_after ?_ (plResult_touches _ _ _) (by decide)
    exact touches_refl _ _
  · refine touches_after ?_ (plQueue_touches _ _) (by decide)
    exact touches_refl _ _

theorem execPlCommit_touches : ∀ a0 a1,
    ∃ t, execPlCommit a0 a1 = .next t ∧ Touches [.regs, .resp, .place] a1 t := by
  intro a0 a1
  unfold execPlCommit
  refine ⟨_, rfl, ?_⟩
  refine touches_ite ?_ ?_
  · refine touches_answerWith (by decide) ?_
    refine touches_after ?_ (plCommitOp_touches _ _) (by decide)
    exact touches_refl _ _
  · exact touches_refl _ _

theorem execPlWithdraw_touches : ∀ a0 a1,
    ∃ t, execPlWithdraw a0 a1 = .next t ∧ Touches [.regs, .resp, .place] a1 t := by
  intro a0 a1
  unfold execPlWithdraw
  refine ⟨_, rfl, ?_⟩
  refine touches_ite ?_ ?_
  · refine touches_answerWith (by decide) ?_
    refine touches_after ?_ (plHandleOp_touches _ _ _) (by decide)
    exact touches_refl _ _
  · exact touches_refl _ _

theorem execPlReplace_touches : ∀ a0 a1,
    ∃ t, execPlReplace a0 a1 = .next t ∧ Touches [.regs, .resp, .place] a1 t := by
  intro a0 a1
  unfold execPlReplace
  refine ⟨_, rfl, ?_⟩
  refine touches_ite ?_ ?_
  · refine touches_answerWith (by decide) ?_
    refine touches_after ?_ (plHandleOp_touches _ _ _) (by decide)
    exact touches_refl _ _
  · exact touches_refl _ _

theorem reservePart_touches : ∀ a0 a1 a2 a3 a4 a5,
    TouchesE [.regs, .plate] a5 (reservePart a0 a1 a2 a3 a4 a5) := by
  intro a0 a1 a2 a3 a4 a5
  unfold reservePart
  extract_lets +onlyGivenNames x0
  clear_value x0
  refine touchesE_ite ?_ ?_
  · exact touchesE_none
  · extract_lets +onlyGivenNames x1
    refine touches_cut_ofE x1 (fun p => p) ?_ (fun h1 => ?_)
    · unfold x1
      refine touches_after ?_ (State.setReg_touches _ _ _) (by decide)
      exact touches_refl _ _
    clear_value x1
    extract_lets +onlyGivenNames x2
    refine touches_cut_ofE x2 (fun p => p) ?_ (fun h2 => ?_)
    · unfold x2
      refine touches_after ?_ (State.setReg_touches _ _ _) (by decide)
      assumption
    clear_value x2
    extract_lets +onlyGivenNames x3
    refine touches_cut_ofE x3 (fun p => p) ?_ (fun h3 => ?_)
    · unfold x3
      refine touches_after ?_ (State.setFld_touches _ _ _ _ _) (by decide)
      refine touches_after ?_ (State.setReg_touches _ _ _) (by decide)
      assumption
    clear_value x3
    extract_lets +onlyGivenNames x4
    clear_value x4
    refine touchesE_some ?_
    refine touches_after ?_ (State.setPlate_touches _ _) (by decide)
    assumption

theorem placeSpindle_touches : ∀ a0 a1,
    TouchesE (.freeCtr :: .cyc :: .pulses :: .regs :: .spindles :: .pairs :: .groups :: .plate :: .place :: []) a1 (placeSpindle a0 a1) := by
  intro a0 a1
  unfold placeSpindle
  extract_lets +onlyGivenNames x0
  unfold x0
  clear x0
  extract_lets +onlyGivenNames x1
  clear_value x1
  extract_lets +onlyGivenNames x2
  clear_value x2
  extract_lets +onlyGivenNames x3
  clear_value x3
  extract_lets +onlyGivenNames x4
  clear_value x4
  refine touchesE_ite ?_ ?_
  · exact touchesE_none
  · extract_lets +onlyGivenNames x5
    clear_value x5
    extract_lets +onlyGivenNames x6
    clear_value x6
    split
    · exact touchesE_none
    · extract_lets +onlyGivenNames x7
      refine touches_cut_ofE x7 (fun p => p) ?_ (fun h7 => ?_)
      · unfold x7
        refine touches_after ?_ (sourceWrite_touches _ _ _ _) (by decide)
        refine touches_ofE ?_ (reservePart_touches _ _ _ _ _ _) ‹_› (by decide)
        exact touches_refl _ _
      clear_value x7
      extract_lets +onlyGivenNames x8
      clear_value x8
      extract_lets +onlyGivenNames x9
      clear_value x9
      extract_lets +onlyGivenNames x10
      refine touches_cut_ofE x10 (fun p => p) ?_ (fun h10 => ?_)
      · unfold x10
        refine touches_ite ?_ ?_
        · refine touches_after ?_ (State.setReg_touches _ _ _) (by decide)
          refine touches_after ?_ (State.setReg_touches _ _ _) (by decide)
          refine touches_after ?_ (sourceWrite_touches _ _ _ _) (by decide)
          assumption
        · assumption
      clear_value x10
      refine touchesE_some ?_
      refine touches_after ?_ (touch_place _) (by decide)
      assumption

theorem placeConsole_touches : ∀ a0 a1,
    TouchesE [.regs, .plate, .place] a1 (placeConsole a0 a1) := by
  intro a0 a1
  unfold placeConsole
  extract_lets +onlyGivenNames x0
  unfold x0
  clear x0
  extract_lets +onlyGivenNames x1
  clear_value x1
  extract_lets +onlyGivenNames x2
  clear_value x2
  split
  · exact touchesE_none
  · extract_lets +onlyGivenNames x3
    clear_value x3
    extract_lets +onlyGivenNames x4
    clear_value x4
    extract_lets +onlyGivenNames x5
    clear_value x5
    extract_lets +onlyGivenNames x6
    clear_value x6
    split
    · exact touchesE_none
    · extract_lets +onlyGivenNames x7
      clear_value x7
      extract_lets +onlyGivenNames x8
      refine touches_cut_ofE x8 (fun p => p) ?_ (fun h8 => ?_)
      · unfold x8
        refine touches_after ?_ (State.setReg_touches _ _ _) (by decide)
        refine touches_after ?_ (State.setFld_touches _ _ _ _ _) (by decide)
        refine touches_after ?_ (State.setBit_touches _ _ _ _) (by decide)
        refine touches_ofE ?_ (reservePart_touches _ _ _ _ _ _) ‹_› (by decide)
        exact touches_refl _ _
      clear_value x8
      extract_lets +onlyGivenNames x9
      refine touches_cut_ofE x9 (fun p => p) ?_ (fun h9 => ?_)
      · unfold x9
        refine touches_after ?_ (State.setReg_touches _ _ _) (by decide)
        assumption
      clear_value x9
      refine touchesE_some ?_
      refine touches_after ?_ (touch_place _) (by decide)
      assumption

theorem placeHoles_touches : ∀ a0 a1,
    TouchesE [.cyc, .regs, .plate] a1 (placeHoles a0 a1) := by
  intro a0 a1
  unfold placeHoles
  split
  · exact touchesE_none
  · extract_lets +onlyGivenNames x0
    clear_value x0
    extract_lets +onlyGivenNames x1
    refine touches_cut_ofE x1 (fun p => p) ?_ (fun h1 => ?_)
    · unfold x1
      refine touches_after ?_ (State.setReg_touches _ _ _) (by decide)
      exact touches_refl _ _
    clear_value x1
    refine touchesE_some ?_
    refine touches_ite ?_ ?_
    · refine touches_after ?_ (runPartition_touches _ _) (by decide)
      assumption
    · assumption

theorem writePlan_touches : ∀ a0 a1 a2,
    Touches [.regs, .adcs] a2 (writePlan a0 a1 a2) := by
  intro a0 a1 a2
  unfold writePlan
  extract_lets +onlyGivenNames x0
  refine touches_cut x0 ?_ (fun h0 => ?_)
  · unfold x0
    refine touches_foldl (fun _ _ _ => ?_) ?_
    · refine touches_after ?_ (routeWrite_touches _ _ _ _) (by decide)
      assumption
    · exact touches_refl _ _
  clear_value x0
  extract_lets +onlyGivenNames x1
  clear_value x1
  extract_lets +onlyGivenNames x2
  refine touches_cut x2 ?_ (fun h2 => ?_)
  · unfold x2
    refine touches_forEach (fun _ _ _ => ?_) ?_
    · extract_lets +onlyGivenNames x3
      clear_value x3
      refine touches_after ?_ (routeWrite_touches _ _ _ _) (by decide)
      assumption
    · assumption
  clear_value x2
  extract_lets +onlyGivenNames x4
  refine touches_cut x4 ?_ (fun h4 => ?_)
  · unfold x4
    split
    · assumption
    · extract_lets +onlyGivenNames x5
      clear_value x5
      refine touches_after ?_ (routeWrite_touches _ _ _ _) (by decide)
      assumption
  clear_value x4
  refine touches_foldl (fun _ _ _ => ?_) ?_
  · refine touches_after ?_ (State.setFld_touches _ _ _ _ _) (by decide)
    assumption
  · assumption

theorem plantTrigger_touches : ∀ a0 a1 a2 a3 a4,
    Touches [.freeCtr, .cyc, .regs, .plate, .mem, .poison] a4 (plantTrigger a0 a1 a2 a3 a4).2 := by
  intro a0 a1 a2 a3 a4
  unfold plantTrigger
  extract_lets +onlyGivenNames x0
  clear_value x0
  extract_lets +onlyGivenNames x1
  clear_value x1
  extract_lets +onlyGivenNames x2
  clear_value x2
  refine touches_ite_snd ?_ ?_
  · dsimp only
    exact touches_refl _ _
  · extract_lets +onlyGivenNames x3
    refine touches_cut_snd x3 ?_ (fun h3 => ?_)
    · unfold x3
      refine touches_after ?_ (linkNew_touches _ _ _ _ _ _ _) (by decide)
      exact touches_refl _ _
    clear_value x3
    split
    · assumption
    · refine touches_ite_snd ?_ ?_
      · dsimp only
        refine touches_after ?_ (latePolicyEff_touches _ _ _) (by decide)
        assumption
      · assumption

theorem triggerTarget_touches : ∀ a0 a1,
    Touches [.freeCtr] a1 (triggerTarget a0 a1).2 := by
  intro a0 a1
  unfold triggerTarget
  split
  · dsimp only
    exact touches_refl _ _
  · extract_lets +onlyGivenNames x0
    refine touches_cut_snd x0 ?_ (fun h0 => ?_)
    · unfold x0
      refine touches_after ?_ (takeFree_touches _ _) (by decide)
      exact touches_refl _ _
    clear_value x0
    dsimp only
    assumption

theorem writeContext_touches : ∀ a0 a1 a2 a3 a4,
    Touches (.freeCtr :: .cyc :: .pulses :: .regs :: .spindles :: .pairs :: .groups :: .plate :: .loops :: []) a4 (writeContext a0 a1 a2 a3 a4) := by
  intro a0 a1 a2 a3 a4
  unfold writeContext
  extract_lets +onlyGivenNames x0
  refine touches_cut x0 ?_ (fun h0 => ?_)
  · unfold x0
    refine touches_after ?_ (loopCtlWrite_touches _ _ _) (by decide)
    exact touches_refl _ _
  clear_value x0
  extract_lets +onlyGivenNames x1
  refine touches_cut x1 ?_ (fun h1 => ?_)
  · unfold x1
    refine touches_forEach (fun _ _ _ => ?_) ?_
    · refine touches_after ?_ (State.setReg_touches _ _ _) (by decide)
      assumption
    · assumption
  clear_value x1
  extract_lets +onlyGivenNames x2
  refine touches_cut x2 ?_ (fun h2 => ?_)
  · unfold x2
    refine touches_forEach (fun _ _ _ => ?_) ?_
    · refine touches_after ?_ (outMapWrite_touches _ _ _ _) (by decide)
      assumption
    · assumption
  clear_value x2
  extract_lets +onlyGivenNames x3
  refine touches_cut x3 ?_ (fun h3 => ?_)
  · unfold x3
    refine touches_after ?_ (State.setReg_touches _ _ _) (by decide)
    assumption
  clear_value x3
  extract_lets +onlyGivenNames x4
  clear_value x4
  extract_lets +onlyGivenNames x5
  clear_value x5
  extract_lets +onlyGivenNames x6
  refine touches_cut x6 ?_ (fun h6 => ?_)
  · unfold x6
    refine touches_after ?_ (State.setReg_touches _ _ _) (by decide)
    assumption
  clear_value x6
  extract_lets +onlyGivenNames x7
  refine touches_cut x7 ?_ (fun h7 => ?_)
  · unfold x7
    refine touches_after ?_ (State.setFld_touches _ _ _ _ _) (by decide)
    assumption
  clear_value x7
  refine touches_ite ?_ ?_
  · extract_lets +onlyGivenNames x8
    clear_value x8
    refine touches_after ?_ (sourceWrite_touches _ _ _ _) (by decide)
    refine touches_after ?_ (State.setBit_touches _ _ _ _) (by decide)
    assumption
  · assumption

theorem placeLoop_touches : ∀ a0 a1 a2,
    TouchesE (.freeCtr :: .cyc :: .pulses :: .regs :: .spindles :: .adcs :: .pairs :: .groups :: .plate :: .loops :: .place :: .mem :: .poison :: []) a2 (placeLoop a0 a1 a2) := by
  intro a0 a1 a2
  unfold placeLoop
  extract_lets +onlyGivenNames x0
  unfold x0
  clear x0
  refine touchesE_ite ?_ ?_
  · exact touchesE_none
  · extract_lets +onlyGivenNames x1
    clear_value x1
    extract_lets +onlyGivenNames x2
    clear_value x2
    extract_lets +onlyGivenNames x3
    clear_value x3
    split
    · exact touchesE_none
    · split
      · exact touchesE_none
      · refine touchesE_ite ?_ ?_
        · exact touchesE_none
        · extract_lets +onlyGivenNames x4
          clear_value x4
          extract_lets +onlyGivenNames x5
          refine touches_cut_ofE x5 (fun p => p.2) ?_ (fun h5 => ?_)
          · unfold x5
            refine touches_after ?_ (triggerTarget_touches _ _) (by decide)
            refine touches_after ?_ (writePlan_touches _ _ _) (by decide)
            exact touches_refl _ _
          clear_value x5
          extract_lets +onlyGivenNames x6
          refine touches_cut_ofE x6 (fun p => p) ?_ (fun h6 => ?_)
          · unfold x6
            refine touches_after ?_ (writeContext_touches _ _ _ _ _) (by decide)
            assumption
          clear_value x6
          extract_lets +onlyGivenNames x7
          clear_value x7
          extract_lets +onlyGivenNames x8
          unfold x8
          clear x8
          refine touchesE_ite ?_ ?_
          · extract_lets +onlyGivenNames x9
            refine touches_cut_ofE x9 (fun p => p.2) ?_ (fun h9 => ?_)
            · unfold x9
              refine touches_after ?_ (plantTrigger_touches _ _ _ _ _) (by decide)
              assumption
            clear_value x9
            split
            · exact touchesE_none
            · refine touchesE_some ?_
              refine touches_after ?_ (touch_place _) (by decide)
              assumption
          · refine touchesE_some ?_
            refine touches_after ?_ (touch_place _) (by decide)
            assumption

theorem resolveLoop_touches : ∀ a0 a1,
    TouchesE [.regs] a1 (resolveLoop a0 a1) := by
  intro a0 a1
  unfold resolveLoop
  extract_lets +onlyGivenNames x0
  clear_value x0
  split
  · refine touchesE_some ?_
    exact touches_refl _ _
  · refine touchesE_ite ?_ ?_
    · exact touchesE_none
    · extract_lets +onlyGivenNames x1
      clear_value x1
      extract_lets +onlyGivenNames x2
      clear_value x2
      extract_lets +onlyGivenNames x3
      refine touches_cutE x3 ?_ (fun h3 => ?_)
      · unfold x3
        refine touches_after ?_ (State.setReg_touches _ _ _) (by decide)
        exact touches_refl _ _
      clear_value x3
      refine touchesE_some ?_
      refine touches_forEach (fun _ _ _ => ?_) ?_
      · refine touches_after ?_ (State.setFld_touches _ _ _ _ _) (by decide)
        assumption
      · assumption

theorem ownerWrite_touches : ∀ a0 a1 a2,
    Touches [.freeCtr, .regs, .sbOld] a2 (ownerWrite a0 a1 a2) := by
  intro a0 a1 a2
  unfold ownerWrite
  refine touches_ite ?_ ?_
  · exact touches_refl _ _
  · extract_lets +onlyGivenNames x0
    clear_value x0
    extract_lets +onlyGivenNames x1
    refine touches_cut_snd x1 ?_ (fun h1 => ?_)
    · unfold x1
      refine touches_after ?_ (takeFree_touches _ _) (by decide)
      exact touches_refl _ _
    clear_value x1
    extract_lets +onlyGivenNames x2
    refine touches_cut x2 ?_ (fun h2 => ?_)
    · unfold x2
      refine touches_ite ?_ ?_
      · refine touches_after ?_ (State.setFld_touches _ _ _ _ _) (by decide)
        refine touches_after ?_ (State.setFld_touches _ _ _ _ _) (by decide)
        assumption
      · refine touches_after ?_ (State.setFld_touches _ _ _ _ _) (by decide)
        refine touches_after ?_ (State.setFld_touches _ _ _ _ _) (by decide)
        exact touches_refl _ _
    clear_value x2
    refine touches_ite ?_ ?_
    · refine touches_after ?_ (touch_sbOld _) (by decide)
      assumption
    · refine touches_after ?_ (touch_sbOld _) (by decide)
      assumption

theorem handBanks_touches : ∀ a0 a1 a2,
    Touches [.freeCtr, .regs, .sbOld] a2 (handBanks a0 a1 a2) := by
  intro a0 a1 a2
  unfold handBanks
  refine touches_forEach (fun _ _ _ => ?_) ?_
  · refine touches_after ?_ (ownerWrite_touches _ _ _) (by decide)
    assumption
  · exact touches_refl _ _

theorem placeData_touches : ∀ a0 a1,
    TouchesE [.freeCtr, .regs, .place, .sbOld] a1 (placeData a0 a1) := by
  intro a0 a1
  unfold placeData
  extract_lets +onlyGivenNames x0
  unfold x0
  clear x0
  extract_lets +onlyGivenNames x1
  clear_value x1
  extract_lets +onlyGivenNames x2
  clear_value x2
  extract_lets +onlyGivenNames x3
  clear_value x3
  extract_lets +onlyGivenNames x4
  clear_value x4
  extract_lets +onlyGivenNames x5
  clear_value x5
  split
  · exact touchesE_none
  · extract_lets +onlyGivenNames x6
    refine touches_cut_ofE x6 (fun p => p) ?_ (fun h6 => ?_)
    · unfold x6
      refine touches_after ?_ (handBanks_touches _ _ _) (by decide)
      exact touches_refl _ _
    clear_value x6
    refine touchesE_some ?_
    refine touches_after ?_ (touch_place _) (by decide)
    assumption

theorem placeEach_touches {F : List Part} {f : PlDecl → State → Except Nat State} {l : List PlDecl} {s t : State}
    (hf : ∀ d u, TouchesE F u (f d u)) (h : Touches F s t) :
    TouchesE F s (placeEach f l t) := by
  induction l generalizing t with
  | nil => exact touchesE_some h
  | cons d ds ih =>
    unfold placeEach
    split
    · exact touchesE_none
    · exact ih (h.trans (hf _ _ _ ‹_›))

theorem placeAll_touches : ∀ a0 a1,
    TouchesE (.freeCtr :: .cyc :: .pulses :: .regs :: .spindles :: .adcs :: .pairs :: .groups :: .plate :: .loops :: .place :: .sbOld :: .mem :: .poison :: []) a1 (placeAll a0 a1) := by
  intro a0 a1
  unfold placeAll
  extract_lets +onlyGivenNames x0
  unfold x0
  clear x0
  extract_lets +onlyGivenNames x1
  clear_value x1
  extract_lets +onlyGivenNames x2
  unfold x2
  clear x2
  extract_lets +onlyGivenNames x3
  clear_value x3
  extract_lets +onlyGivenNames x4
  unfold x4
  clear x4
  extract_lets +onlyGivenNames x5
  clear_value x5
  extract_lets +onlyGivenNames x6
  unfold x6
  clear x6
  split
  · exact touchesE_none
  · split
    · exact touchesE_none
    · split
      · exact touchesE_none
      · split
        · exact touchesE_none
        · refine placeEach_touches (fun _ _ => ?_) ?_
          · refine touchesE_after ?_ (placeData_touches _ _) (by decide)
            exact touches_refl _ _
          · refine placeEach_touches (fun _ _ => ?_) ?_ _ ‹_›
            · refine touchesE_after ?_ (resolveLoop_touches _ _) (by decide)
              exact touches_refl _ _
            · refine placeEach_touches (fun _ _ => ?_) ?_ _ ‹_›
              · refine touchesE_after ?_ (placeLoop_touches _ _ _) (by decide)
                exact touches_refl _ _
              · refine placeEach_touches (fun _ _ => ?_) ?_ _ ‹_›
                · split
                  · refine touchesE_some ?_
                    exact touches_refl _ _
                  · refine touchesE_after ?_ (placeHoles_touches _ _) (by decide)
                    exact touches_refl _ _
                · refine placeEach_touches (fun _ _ => ?_) ?_ _ ‹_›
                  · refine touchesE_ite ?_ ?_
                    · refine touchesE_after ?_ (placeSpindle_touches _ _) (by decide)
                      exact touches_refl _ _
                    · refine touchesE_after ?_ (placeConsole_touches _ _) (by decide)
                      exact touches_refl _ _
                  · exact touches_refl _ _

theorem plFinish_touches : ∀ a0 a1 a2,
    Touches [.cyc, .regs, .place] a2 (plFinish a0 a1 a2) := by
  intro a0 a1 a2
  unfold plFinish
  extract_lets +onlyGivenNames x0
  clear_value x0
  extract_lets +onlyGivenNames x1
  refine touches_cut x1 ?_ (fun h1 => ?_)
  · unfold x1
    refine touches_after ?_ (touch_place _) (by decide)
    exact touches_refl _ _
  clear_value x1
  extract_lets +onlyGivenNames x2
  clear_value x2
  extract_lets +onlyGivenNames x3
  refine touches_cut x3 ?_ (fun h3 => ?_)
  · unfold x3
    refine touches_after ?_ (State.setReg_touches _ _ _) (by decide)
    refine touches_after ?_ (State.setBit_touches _ _ _ _) (by decide)
    refine touches_after ?_ (State.setBit_touches _ _ _ _) (by decide)
    assumption
  clear_value x3
  extract_lets +onlyGivenNames x4
  refine touches_cut x4 ?_ (fun h4 => ?_)
  · unfold x4
    refine touches_ite ?_ ?_
    · refine touches_after ?_ (State.setBit_touches _ _ _ _) (by decide)
      assumption
    · assumption
  clear_value x4
  refine touches_ite ?_ ?_
  · refine touches_after ?_ (ringShared_touches _ _) (by decide)
    assumption
  · assumption

theorem plCommitDone_touches : ∀ a0 a1,
    Touches (.freeCtr :: .cyc :: .pulses :: .regs :: .spindles :: .adcs :: .pairs :: .groups :: .plate :: .loops :: .place :: .sbOld :: .mem :: .poison :: []) a1 (plCommitDone a0 a1) := by
  intro a0 a1
  unfold plCommitDone
  split
  · refine touches_after ?_ (plFinish_touches _ _ _) (by decide)
    exact touches_refl _ _
  · extract_lets +onlyGivenNames x0
    clear_value x0
    extract_lets +onlyGivenNames x1
    refine touches_cut x1 ?_ (fun h1 => ?_)
    · unfold x1
      refine touches_after ?_ (poolUsed_touches _) (by decide)
      refine touches_after ?_ (touch_place _) (by decide)
      refine touches_ofE ?_ (placeAll_touches _ _) ‹_› (by decide)
      exact touches_refl _ _
    clear_value x1
    refine touches_after ?_ (plFinish_touches _ _ _) (by decide)
    assumption

theorem freeAdmitted_touches : ∀ a0 a1,
    Touches (.freeCtr :: .regs :: .adcs :: .plate :: .place :: .sbOld :: .mem :: .poison :: []) a1 (freeAdmitted a0 a1) := by
  intro a0 a1
  unfold freeAdmitted
  extract_lets +onlyGivenNames x0
  clear_value x0
  extract_lets +onlyGivenNames x1
  refine touches_cut x1 ?_ (fun h1 => ?_)
  · unfold x1
    refine touches_after ?_ (touch_place _) (by decide)
    exact touches_refl _ _
  clear_value x1
  split
  · extract_lets +onlyGivenNames x2
    refine touches_cut x2 ?_ (fun h2 => ?_)
    · unfold x2
      split
      · assumption
      · refine touches_after ?_ (routeWrite_touches _ _ _ _) (by decide)
        assumption
    clear_value x2
    split
    · assumption
    · refine touches_ite ?_ ?_
      · refine touches_after ?_ (unlinkFree_touches _ _ _) (by decide)
        assumption
      · assumption
  · refine touches_after ?_ (handBanks_touches _ _ _) (by decide)
    assumption
  · extract_lets +onlyGivenNames x3
    clear_value x3
    extract_lets +onlyGivenNames x4
    refine touches_cut x4 ?_ (fun h4 => ?_)
    · unfold x4
      refine touches_after ?_ (State.setReg_touches _ _ _) (by decide)
      assumption
    clear_value x4
    extract_lets +onlyGivenNames x5
    refine touches_cut x5 ?_ (fun h5 => ?_)
    · unfold x5
      refine touches_ite ?_ ?_
      · refine touches_after ?_ (setPartState_touches _ _ _) (by decide)
        refine touches_after ?_ (stopPartition_touches _ _) (by decide)
        assumption
      · assumption
    clear_value x5
    refine touches_after ?_ (State.setReg_touches _ _ _) (by decide)
    refine touches_after ?_ (State.setReg_touches _ _ _) (by decide)
    refine touches_after ?_ (State.setReg_touches _ _ _) (by decide)
    assumption

theorem plHandleFail_touches : ∀ a0 a1 a2,
    Touches [.cyc, .regs, .place] a2 (plHandleFail a0 a1 a2) := by
  intro a0 a1 a2
  unfold plHandleFail
  refine touches_after ?_ (plFinish_touches _ _ _) (by decide)
  exact touches_refl _ _

theorem plWithdrawDone_touches : ∀ a0 a1,
    Touches (.freeCtr :: .cyc :: .regs :: .adcs :: .plate :: .place :: .sbOld :: .mem :: .poison :: []) a1 (plWithdrawDone a0 a1) := by
  intro a0 a1
  unfold plWithdrawDone
  extract_lets +onlyGivenNames x0
  clear_value x0
  split
  · refine touches_after ?_ (plHandleFail_touches _ _ _) (by decide)
    exact touches_refl _ _
  · refine touches_ite ?_ ?_
    · refine touches_after ?_ (plHandleFail_touches _ _ _) (by decide)
      exact touches_refl _ _
    · refine touches_ite ?_ ?_
      · refine touches_after ?_ (plHandleFail_touches _ _ _) (by decide)
        exact touches_refl _ _
      · extract_lets +onlyGivenNames x1
        refine touches_cut x1 ?_ (fun h1 => ?_)
        · unfold x1
          refine touches_after ?_ (freeAdmitted_touches _ _) (by decide)
          exact touches_refl _ _
        clear_value x1
        refine touches_after ?_ (plFinish_touches _ _ _) (by decide)
        assumption

theorem copyConfig_touches : ∀ a0 a1 a2,
    Touches [.regs] a2 (copyConfig a0 a1 a2) := by
  intro a0 a1 a2
  unfold copyConfig
  refine touches_foldl (fun _ _ _ => ?_) ?_
  · refine touches_after ?_ (State.setReg_touches _ _ _) (by decide)
    assumption
  · exact touches_refl _ _

theorem copyLoopState_touches : ∀ a0 a1 a2,
    Touches [.regs] a2 (copyLoopState a0 a1 a2) := by
  intro a0 a1 a2
  unfold copyLoopState
  extract_lets +onlyGivenNames x0
  unfold x0
  clear x0
  refine touches_foldl (fun _ _ _ => ?_) ?_
  · refine touches_after ?_ (State.setReg_touches _ _ _) (by decide)
    assumption
  · exact touches_refl _ _

theorem clearContext_touches : ∀ a0 a1,
    Touches [.regs, .loops] a1 (clearContext a0 a1) := by
  intro a0 a1
  unfold clearContext
  extract_lets +onlyGivenNames x0
  clear_value x0
  refine touches_after ?_ (State.setCtx_touches _ _ _) (by decide)
  refine touches_forEach (fun _ _ _ => ?_) ?_
  · refine touches_after ?_ (State.setReg_touches _ _ _) (by decide)
    assumption
  · exact touches_refl _ _

theorem retarget_touches : ∀ a0 a1 a2 a3,
    Touches [.regs, .place] a3 (retarget a0 a1 a2 a3) := by
  intro a0 a1 a2 a3
  unfold retarget
  extract_lets +onlyGivenNames x0
  clear_value x0
  extract_lets +onlyGivenNames x1
  clear_value x1
  extract_lets +onlyGivenNames x2
  refine touches_cut x2 ?_ (fun h2 => ?_)
  · unfold x2
    refine touches_after ?_ (touch_place _) (by decide)
    exact touches_refl _ _
  clear_value x2
  refine touches_forEach (fun _ _ _ => ?_) ?_
  · extract_lets +onlyGivenNames x3
    refine touches_cut x3 ?_ (fun h3 => ?_)
    · unfold x3
      refine touches_ite ?_ ?_
      · refine touches_after ?_ (State.setFld_touches _ _ _ _ _) (by decide)
        assumption
      · assumption
    clear_value x3
    refine touches_forEach (fun _ _ _ => ?_) ?_
    · refine touches_ite ?_ ?_
      · refine touches_after ?_ (State.setFld_touches _ _ _ _ _) (by decide)
        assumption
      · assumption
    · assumption
  · assumption

theorem moveObserver_touches : ∀ a0 a1 a2,
    Touches (.freeCtr :: .cyc :: .pulses :: .regs :: .spindles :: .pairs :: .groups :: .plate :: []) a2 (moveObserver a0 a1 a2) := by
  intro a0 a1 a2
  unfold moveObserver
  refine touches_ite ?_ ?_
  · extract_lets +onlyGivenNames x0
    clear_value x0
    refine touches_after ?_ (sourceWrite_touches _ _ _ _) (by decide)
    exact touches_refl _ _
  · exact touches_refl _ _

theorem finishMove_touches : ∀ a0 a1 a2 a3,
    Touches (.freeCtr :: .cyc :: .pulses :: .regs :: .spindles :: .pairs :: .groups :: .plate :: .loops :: .place :: []) a3 (finishMove a0 a1 a2 a3) := by
  intro a0 a1 a2 a3
  unfold finishMove
  extract_lets +onlyGivenNames x0
  refine touches_cut x0 ?_ (fun h0 => ?_)
  · unfold x0
    refine touches_after ?_ (copyLoopState_touches _ _ _) (by decide)
    refine touches_after ?_ (State.setReg_touches _ _ _) (by decide)
    exact touches_refl _ _
  clear_value x0
  extract_lets +onlyGivenNames x1
  refine touches_cut x1 ?_ (fun h1 => ?_)
  · unfold x1
    refine touches_after ?_ (setOwners_touches _) (by decide)
    refine touches_after ?_ (clearContext_touches _ _) (by decide)
    assumption
  clear_value x1
  refine touches_after ?_ (retarget_touches _ _ _ _) (by decide)
  refine touches_after ?_ (moveObserver_touches _ _ _) (by decide)
  assumption

theorem plReplaceDone_touches : ∀ a0 a1,
    Touches (.freeCtr :: .cyc :: .pulses :: .regs :: .spindles :: .pairs :: .groups :: .plate :: .loops :: .place :: []) a1 (plReplaceDone a0 a1) := by
  intro a0 a1
  unfold plReplaceDone
  extract_lets +onlyGivenNames x0
  clear_value x0
  split
  · refine touches_after ?_ (plHandleFail_touches _ _ _) (by decide)
    exact touches_refl _ _
  · refine touches_ite ?_ ?_
    · refine touches_after ?_ (plHandleFail_touches _ _ _) (by decide)
      exact touches_refl _ _
    · refine touches_ite ?_ ?_
      · refine touches_after ?_ (plHandleFail_touches _ _ _) (by decide)
        exact touches_refl _ _
      · refine touches_ite ?_ ?_
        · refine touches_after ?_ (plHandleFail_touches _ _ _) (by decide)
          exact touches_refl _ _
        · split
          · refine touches_after ?_ (plHandleFail_touches _ _ _) (by decide)
            exact touches_refl _ _
          · extract_lets +onlyGivenNames x1
            clear_value x1
            extract_lets +onlyGivenNames x2
            refine touches_cut x2 ?_ (fun h2 => ?_)
            · unfold x2
              refine touches_after ?_ (copyConfig_touches _ _ _) (by decide)
              exact touches_refl _ _
            clear_value x2
            refine touches_ite ?_ ?_
            · refine touches_after ?_ (touch_place _) (by decide)
              assumption
            · extract_lets +onlyGivenNames x3
              clear_value x3
              extract_lets +onlyGivenNames x4
              refine touches_cut x4 ?_ (fun h4 => ?_)
              · unfold x4
                refine touches_after ?_ (touch_place _) (by decide)
                assumption
              clear_value x4
              extract_lets +onlyGivenNames x5
              refine touches_cut x5 ?_ (fun h5 => ?_)
              · unfold x5
                refine touches_after ?_ (finishMove_touches _ _ _ _) (by decide)
                refine touches_after ?_ (State.setCtx_touches _ _ _) (by decide)
                assumption
              clear_value x5
              refine touches_after ?_ (plFinish_touches _ _ _) (by decide)
              assumption

theorem placementDoneEff_touches : ∀ a0,
    Touches (.freeCtr :: .cyc :: .pulses :: .regs :: .spindles :: .adcs :: .pairs :: .groups :: .plate :: .loops :: .place :: .sbOld :: .mem :: .poison :: []) a0 (placementDoneEff a0) := by
  intro a0
  unfold placementDoneEff
  split
  · exact touches_refl _ _
  · refine touches_ite ?_ ?_
    · exact touches_refl _ _
    · split
      · refine touches_after ?_ (plCommitDone_touches _ _) (by decide)
        exact touches_refl _ _
      · refine touches_after ?_ (plWithdrawDone_touches _ _) (by decide)
        exact touches_refl _ _
      · refine touches_after ?_ (plReplaceDone_touches _ _) (by decide)
        exact touches_refl _ _

theorem execPlacementDone_touches : ∀ a0,
    ∃ t, execPlacementDone a0 = .next t ∧ Touches (.freeCtr :: .cyc :: .pulses :: .regs :: .spindles :: .adcs :: .pairs :: .groups :: .plate :: .loops :: .place :: .sbOld :: .mem :: .poison :: []) a0 t := by
  intro a0
  unfold execPlacementDone
  refine ⟨_, rfl, ?_⟩
  refine touches_ite ?_ ?_
  · refine touches_after ?_ (placementDoneEff_touches _) (by decide)
    exact touches_refl _ _
  · exact touches_refl _ _

theorem quietPointEff_touches : ∀ a0,
    Touches [.regs, .loops, .place] a0 (quietPointEff a0) := by
  intro a0
  unfold quietPointEff
  split
  · exact touches_refl _ _
  · extract_lets +onlyGivenNames x0
    clear_value x0
    refine touches_ite ?_ ?_
    · extract_lets +onlyGivenNames x1
      refine touches_cut x1 ?_ (fun h1 => ?_)
      · unfold x1
        refine touches_after ?_ (copyLoopState_touches _ _ _) (by decide)
        exact touches_refl _ _
      clear_value x1
      extract_lets +onlyGivenNames x2
      refine touches_cut x2 ?_ (fun h2 => ?_)
      · unfold x2
        refine touches_after ?_ (State.setCtx_touches _ _ _) (by decide)
        refine touches_after ?_ (State.setCtx_touches _ _ _) (by decide)
        assumption
      clear_value x2
      refine touches_after ?_ (touch_place _) (by decide)
      assumption
    · exact touches_refl _ _

theorem execQuietPoint_touches : ∀ a0,
    ∃ t, execQuietPoint a0 = .next t ∧ Touches [.regs, .loops, .place] a0 t := by
  intro a0
  unfold execQuietPoint
  refine ⟨_, rfl, ?_⟩
  refine touches_ite ?_ ?_
  · refine touches_after ?_ (quietPointEff_touches _) (by decide)
    exact touches_refl _ _
  · exact touches_refl _ _

theorem dropMove_touches : ∀ a0 a1,
    Touches [.cyc, .regs, .pairs, .loops, .place] a1 (dropMove a0 a1) := by
  intro a0 a1
  unfold dropMove
  split
  · refine touches_after ?_ (plHandleFail_touches _ _ _) (by decide)
    extract_lets +onlyGivenNames x0
    refine touches_cut x0 ?_ (fun h0 => ?_)
    · unfold x0
      refine touches_after ?_ (setOwners_touches _) (by decide)
      refine touches_after ?_ (clearContext_touches _ _) (by decide)
      exact touches_refl _ _
    clear_value x0
    refine touches_after ?_ (touch_place _) (by decide)
    assumption
  · exact touches_refl _ _

theorem execQuietTimeout_touches : ∀ a0,
    ∃ t, execQuietTimeout a0 = .next t ∧ Touches [.cyc, .regs, .pairs, .loops, .place] a0 t := by
  intro a0
  unfold execQuietTimeout
  refine ⟨_, rfl, ?_⟩
  split
  · refine touches_ite ?_ ?_
    · refine touches_after ?_ (dropMove_touches _ _) (by decide)
      exact touches_refl _ _
    · exact touches_refl _ _
  · exact touches_refl _ _

theorem endMove_touches : ∀ a0 a1 a2,
    Touches [.place] a2 (endMove a0 a1 a2) := by
  intro a0 a1 a2
  unfold endMove
  extract_lets +onlyGivenNames x0
  clear_value x0
  extract_lets +onlyGivenNames x1
  clear_value x1
  refine touches_after ?_ (touch_place _) (by decide)
  exact touches_refl _ _

theorem issueQueued_touches : ∀ a0 a1,
    Touches (.freeCtr :: .cyc :: .pulses :: .regs :: .comparators :: .pairs :: .groups :: .loops :: []) a1 (issueQueued a0 a1) := by
  intro a0 a1
  unfold issueQueued
  split
  · exact touches_refl _ _
  · refine touches_after ?_ (issueWith_touches _ _ _) (by decide)
    exact touches_refl _ _

theorem switchMove_touches : ∀ a0 a1 a2 a3,
    Touches (.freeCtr :: .cyc :: .pulses :: .regs :: .spindles :: .comparators :: .pairs :: .groups :: .plate :: .loops :: .place :: []) a3 (switchMove a0 a1 a2 a3) := by
  intro a0 a1 a2 a3
  unfold switchMove
  extract_lets +onlyGivenNames x0
  refine touches_cut x0 ?_ (fun h0 => ?_)
  · unfold x0
    refine touches_after ?_ (endMove_touches _ _ _) (by decide)
    exact touches_refl _ _
  clear_value x0
  extract_lets +onlyGivenNames x1
  clear_value x1
  extract_lets +onlyGivenNames x2
  clear_value x2
  extract_lets +onlyGivenNames x3
  refine touches_cut x3 ?_ (fun h3 => ?_)
  · unfold x3
    refine touches_after ?_ (finishMove_touches _ _ _ _) (by decide)
    refine touches_after ?_ (State.setCtx_touches _ _ _) (by decide)
    assumption
  clear_value x3
  refine touches_after ?_ (plFinish_touches _ _ _) (by decide)
  refine touches_after ?_ (issueQueued_touches _ _) (by decide)
  assumption

theorem replaceSwitchEff_touches : ∀ a0,
    Touches (.freeCtr :: .cyc :: .pulses :: .regs :: .spindles :: .comparators :: .pairs :: .groups :: .plate :: .loops :: .place :: []) a0 (replaceSwitchEff a0) := by
  intro a0
  unfold replaceSwitchEff
  split
  · split
    · refine touches_after ?_ (switchMove_touches _ _ _ _) (by decide)
      exact touches_refl _ _
    · exact touches_refl _ _
  · exact touches_refl _ _

theorem execReplaceSwitch_touches : ∀ a0,
    ∃ t, execReplaceSwitch a0 = .next t ∧ Touches (.freeCtr :: .cyc :: .pulses :: .regs :: .spindles :: .comparators :: .pairs :: .groups :: .plate :: .loops :: .place :: []) a0 t := by
  intro a0
  unfold execReplaceSwitch
  refine ⟨_, rfl, ?_⟩
  refine touches_ite ?_ ?_
  · refine touches_after ?_ (replaceSwitchEff_touches _) (by decide)
    exact touches_refl _ _
  · exact touches_refl _ _

theorem abortLoop_touches : ∀ a0 a1,
    Touches (.cyc :: .pulses :: .regs :: .comparators :: .pairs :: .groups :: .loops :: .place :: []) a1 (abortLoop a0 a1) := by
  intro a0 a1
  unfold abortLoop
  split
  · refine touches_ite ?_ ?_
    · refine touches_after ?_ (partLoop_touches _ _) (by decide)
      refine touches_after ?_ (dropMove_touches _ _) (by decide)
      exact touches_refl _ _
    · refine touches_after ?_ (partLoop_touches _ _) (by decide)
      exact touches_refl _ _
  · refine touches_after ?_ (partLoop_touches _ _) (by decide)
    exact touches_refl _ _

theorem plQueryOp_touches : ∀ a0 a1 a2,
    Touches [.regs] a2 (plQueryOp a0 a1 a2).2 := by
  intro a0 a1 a2
  unfold plQueryOp
  split
  · refine touches_after ?_ (plResult_touches _ _ _) (by decide)
    exact touches_refl _ _
  · extract_lets +onlyGivenNames x0
    clear_value x0
    extract_lets +onlyGivenNames x1
    refine touches_cut x1 ?_ (fun h1 => ?_)
    · unfold x1
      refine touches_forEach (fun _ _ _ => ?_) ?_
      · refine touches_after ?_ (State.setReg_touches _ _ _) (by decide)
        assumption
      · exact touches_refl _ _
    clear_value x1
    refine touches_after ?_ (plResult_touches _ _ _) (by decide)
    assumption

theorem execPlQuery_touches : ∀ a0 a1,
    ∃ t, execPlQuery a0 a1 = .next t ∧ Touches [.regs, .resp] a1 t := by
  intro a0 a1
  unfold execPlQuery
  refine ⟨_, rfl, ?_⟩
  refine touches_ite ?_ ?_
  · refine touches_answerWith (by decide) ?_
    refine touches_after ?_ (plQueryOp_touches _ _ _) (by decide)
    exact touches_refl _ _
  · exact touches_refl _ _

end Sys2Proof.Machine
end

