-- ==== Sys2Proof/Laws/TouchCoreBase.lean ====
section
/-! SUPPORT. Which parts of the state the definitions of Machine/CoreBase.lean touch: one lemma for each, the proofs written by a
script from their shape. -/

namespace Sys2Proof.Machine

theorem State.setCore_touches : ∀ a0 a1 a2,
    Touches [.cores] a0 (State.setCore a0 a1 a2) := by
  intro a0 a1 a2
  unfold State.setCore
  refine touches_after ?_ (touch_cores _) (by decide)
  exact touches_refl _ _

theorem setGreg_touches : ∀ a0 a1 a2 a3,
    Touches [.cores] a3 (setGreg a0 a1 a2 a3) := by
  intro a0 a1 a2 a3
  unfold setGreg
  refine touches_ite ?_ ?_
  · exact touches_refl _ _
  · refine touches_after ?_ (State.setCore_touches _ _ _) (by decide)
    exact touches_refl _ _

theorem setCr_touches : ∀ a0 a1 a2 a3,
    Touches [.cores] a3 (setCr a0 a1 a2 a3) := by
  intro a0 a1 a2 a3
  unfold setCr
  refine touches_after ?_ (State.setCore_touches _ _ _) (by decide)
  exact touches_refl _ _

theorem readCr_touches : ∀ a0 a1 a2,
    Touches [.cores] a2 (readCr a0 a1 a2).2 := by
  intro a0 a1 a2
  unfold readCr
  refine touches_ite_snd ?_ ?_
  · dsimp only
    exact touches_refl _ _
  · refine touches_ite_snd ?_ ?_
    · dsimp only
      refine touches_after ?_ (State.setCore_touches _ _ _) (by decide)
      exact touches_refl _ _
    · refine touches_ite_snd ?_ ?_
      · dsimp only
        exact touches_refl _ _
      · dsimp only
        exact touches_refl _ _

theorem spoilCore_touches : ∀ a0 a1,
    Touches [.freeCtr, .cores] a1 (spoilCore a0 a1) := by
  intro a0 a1
  unfold spoilCore
  extract_lets +onlyGivenNames x0
  refine touches_cut x0 ?_ (fun h0 => ?_)
  · unfold x0
    refine touches_forEach (fun _ _ _ => ?_) ?_
    · refine touches_after ?_ (setGreg_touches _ _ _ _) (by decide)
      refine touches_after ?_ (takeFree_touches _ _) (by decide)
      assumption
    · exact touches_refl _ _
  clear_value x0
  extract_lets +onlyGivenNames x1
  refine touches_cut x1 ?_ (fun h1 => ?_)
  · unfold x1
    refine touches_forEach (fun _ _ _ => ?_) ?_
    · refine touches_after ?_ (setCr_touches _ _ _ _) (by decide)
      refine touches_after ?_ (takeFree_touches _ _) (by decide)
      assumption
    · assumption
  clear_value x1
  extract_lets +onlyGivenNames x2
  refine touches_cut_snd x2 ?_ (fun h2 => ?_)
  · unfold x2
    refine touches_after ?_ (takeFree_touches _ _) (by decide)
    assumption
  clear_value x2
  extract_lets +onlyGivenNames x3
  refine touches_cut_snd x3 ?_ (fun h3 => ?_)
  · unfold x3
    refine touches_after ?_ (takeFree_touches _ _) (by decide)
    assumption
  clear_value x3
  extract_lets +onlyGivenNames x4
  refine touches_cut_snd x4 ?_ (fun h4 => ?_)
  · unfold x4
    refine touches_after ?_ (takeFree_touches _ _) (by decide)
    assumption
  clear_value x4
  refine touches_after ?_ (State.setCore_touches _ _ _) (by decide)
  assumption

theorem dropReservations_touches : ∀ a0 a1 a2 a3,
    Touches [.cores] a3 (dropReservations a0 a1 a2 a3) := by
  intro a0 a1 a2 a3
  unfold dropReservations
  refine touches_after ?_ (touch_cores _) (by decide)
  exact touches_refl _ _

theorem requestTouched_touches : ∀ a0 a1 a2 a3,
    Touches [.dict] a3 (requestTouched a0 a1 a2 a3) := by
  intro a0 a1 a2 a3
  unfold requestTouched
  split
  · exact touches_refl _ _
  · refine touches_ite ?_ ?_
    · extract_lets +onlyGivenNames x0
      unfold x0
      clear x0
      refine touches_after ?_ (touch_dict _) (by decide)
      exact touches_refl _ _
    · exact touches_refl _ _

theorem memWrite_touches : ∀ a0 a1 a2 a3,
    Touches [.freeCtr, .regs, .plate, .cores, .dict, .mem, .poison] a3 (memWrite a0 a1 a2 a3) := by
  intro a0 a1 a2 a3
  unfold memWrite
  refine touches_ite ?_ ?_
  · exact touches_refl _ _
  · refine touches_after ?_ (requestTouched_touches _ _ _ _) (by decide)
    refine touches_after ?_ (storeTouched_touches _ _ _) (by decide)
    refine touches_after ?_ (dropReservations_touches _ _ _ _) (by decide)
    refine touches_after ?_ (State.store_touches _ _ _) (by decide)
    exact touches_refl _ _

theorem walkCheck_touches : ∀ a0 a1 a2,
    Touches [.cyc, .regs, .checks] a2 (walkCheck a0 a1 a2) := by
  intro a0 a1 a2
  unfold walkCheck
  split
  · refine touches_after ?_ (postCheck_touches _ _ _ _) (by decide)
    refine touches_after ?_ (countPoisoned_touches _) (by decide)
    exact touches_refl _ _
  · exact touches_refl _ _

theorem tlbInsert_touches : ∀ a0 a1 a2,
    Touches [.freeCtr, .cores] a2 (tlbInsert a0 a1 a2) := by
  intro a0 a1 a2
  unfold tlbInsert
  extract_lets +onlyGivenNames x0
  clear_value x0
  refine touches_ite ?_ ?_
  · refine touches_after ?_ (State.setCore_touches _ _ _) (by decide)
    exact touches_refl _ _
  · extract_lets +onlyGivenNames x1
    refine touches_cut_snd x1 ?_ (fun h1 => ?_)
    · unfold x1
      refine touches_after ?_ (takeFree_touches _ _) (by decide)
      exact touches_refl _ _
    clear_value x1
    refine touches_after ?_ (State.setCore_touches _ _ _) (by decide)
    assumption

theorem translate_touches : ∀ a0 a1 a2 a3,
    Touches [.freeCtr, .cyc, .regs, .cores, .checks] a3 (translate a0 a1 a2 a3).2 := by
  intro a0 a1 a2 a3
  unfold translate
  extract_lets +onlyGivenNames x0
  clear_value x0
  refine touches_ite_snd ?_ ?_
  · dsimp only
    exact touches_refl _ _
  · refine touches_ite_snd ?_ ?_
    · dsimp only
      exact touches_refl _ _
    · extract_lets +onlyGivenNames x1
      clear_value x1
      split
      · split
        · dsimp only
          exact touches_refl _ _
        · dsimp only
          exact touches_refl _ _
      · extract_lets +onlyGivenNames x2
        clear_value x2
        split
        · dsimp only
          refine touches_after ?_ (walkCheck_touches _ _ _) (by decide)
          exact touches_refl _ _
        · split
          · dsimp only
            exact touches_refl _ _
          · dsimp only
            refine touches_after ?_ (tlbInsert_touches _ _ _) (by decide)
            exact touches_refl _ _
      · extract_lets +onlyGivenNames x3
        refine touches_cut_snd x3 ?_ (fun h3 => ?_)
        · unfold x3
          refine touches_after ?_ (takeFree_touches _ _) (by decide)
          refine touches_after ?_ (spoilCore_touches _ _) (by decide)
          exact touches_refl _ _
        clear_value x3
        dsimp only
        assumption

theorem translateParts_touches : ∀ a0 a1 a2 a3,
    Touches [.freeCtr, .cyc, .regs, .cores, .checks] a3 (translateParts a0 a1 a2 a3).2 := by
  intro a0 a1 a2 a3
  fun_induction translateParts a0 a1 a2 a3
  · dsimp only
    exact touches_refl _ _
  · dsimp only
    rename_i r0_0 r0_1
    unfold r0_0
    refine touches_after ?_ ‹_› (fun _ h => h)
    rename_i r1_0
    unfold r1_0
    refine touches_after ?_ (translate_touches _ _ _ _) (by decide)
    exact touches_refl _ _

theorem checkAccess_touches : ∀ a0 a1 a2 a3 a4,
    Touches [.freeCtr, .cyc, .regs, .cores, .checks] a4 (checkAccess a0 a1 a2 a3 a4).2 := by
  intro a0 a1 a2 a3 a4
  unfold checkAccess
  extract_lets +onlyGivenNames x0
  refine touches_cut_snd x0 ?_ (fun h0 => ?_)
  · unfold x0
    refine touches_after ?_ (translateParts_touches _ _ _ _) (by decide)
    exact touches_refl _ _
  clear_value x0
  extract_lets +onlyGivenNames x1
  clear_value x1
  refine touches_ite_snd ?_ ?_
  · dsimp only
    assumption
  · split
    · dsimp only
      assumption
    · split
      · dsimp only
        assumption
      · dsimp only
        assumption

theorem writeBack_touches : ∀ a0 a1 a2,
    Touches [.freeCtr, .regs, .plate, .cores, .dict, .mem, .poison] a2 (writeBack a0 a1 a2) := by
  intro a0 a1 a2
  unfold writeBack
  refine touches_ite ?_ ?_
  · exact touches_refl _ _
  · extract_lets +onlyGivenNames x0
    refine touches_cut x0 ?_ (fun h0 => ?_)
    · unfold x0
      refine touches_after ?_ (memWrite_touches _ _ _ _) (by decide)
      exact touches_refl _ _
    clear_value x0
    refine touches_ite ?_ ?_
    · assumption
    · refine touches_after ?_ (poisonUnit_touches _ _) (by decide)
      assumption

theorem dropLine_touches : ∀ a0 a1 a2,
    Touches [.cores] a2 (dropLine a0 a1 a2) := by
  intro a0 a1 a2
  unfold dropLine
  refine touches_after ?_ (State.setCore_touches _ _ _) (by decide)
  exact touches_refl _ _

theorem putLine_touches : ∀ a0 a1 a2,
    Touches [.cores] a2 (putLine a0 a1 a2) := by
  intro a0 a1 a2
  unfold putLine
  extract_lets +onlyGivenNames x0
  refine touches_cut x0 ?_ (fun h0 => ?_)
  · unfold x0
    refine touches_after ?_ (dropLine_touches _ _ _) (by decide)
    exact touches_refl _ _
  clear_value x0
  refine touches_after ?_ (State.setCore_touches _ _ _) (by decide)
  assumption

theorem l1Fill_touches : ∀ a0 a1 a2,
    Touches [.freeCtr, .regs, .plate, .cores, .dict, .mem, .poison] a2 (l1Fill a0 a1 a2) := by
  intro a0 a1 a2
  unfold l1Fill
  refine touches_ite ?_ ?_
  · exact touches_refl _ _
  · extract_lets +onlyGivenNames x0
    clear_value x0
    extract_lets +onlyGivenNames x1
    refine touches_cut_snd x1 ?_ (fun h1 => ?_)
    · unfold x1
      refine touches_after ?_ (takeFree_touches _ _) (by decide)
      exact touches_refl _ _
    clear_value x1
    extract_lets +onlyGivenNames x2
    refine touches_cut x2 ?_ (fun h2 => ?_)
    · unfold x2
      refine touches_ite ?_ ?_
      · exact touches_refl _ _
      · split
        · refine touches_after ?_ (dropLine_touches _ _ _) (by decide)
          refine touches_after ?_ (writeBack_touches _ _ _) (by decide)
          assumption
        · assumption
    clear_value x2
    refine touches_after ?_ (putLine_touches _ _ _) (by decide)
    assumption

theorem l1Store_touches : ∀ a0 a1 a2 a3,
    Touches (.freeCtr :: .cyc :: .regs :: .plate :: .cores :: .dict :: .mem :: .poison :: .checks :: []) a3 (l1Store a0 a1 a2 a3) := by
  intro a0 a1 a2 a3
  unfold l1Store
  extract_lets +onlyGivenNames x0
  clear_value x0
  extract_lets +onlyGivenNames x1
  refine touches_cut x1 ?_ (fun h1 => ?_)
  · unfold x1
    refine touches_after ?_ (l1Fill_touches _ _ _) (by decide)
    exact touches_refl _ _
  clear_value x1
  split
  · assumption
  · extract_lets +onlyGivenNames x2
    refine touches_cut x2 ?_ (fun h2 => ?_)
    · unfold x2
      refine touches_ite ?_ ?_
      · refine touches_after ?_ (postCheck_touches _ _ _ _) (by decide)
        refine touches_after ?_ (countPoisoned_touches _) (by decide)
        assumption
      · assumption
    clear_value x2
    extract_lets +onlyGivenNames x3
    clear_value x3
    refine touches_after ?_ (putLine_touches _ _ _) (by decide)
    assumption

theorem l1Clean_touches : ∀ a0 a1 a2,
    Touches [.freeCtr, .regs, .plate, .cores, .dict, .mem, .poison] a2 (l1Clean a0 a1 a2) := by
  intro a0 a1 a2
  unfold l1Clean
  split
  · exact touches_refl _ _
  · refine touches_after ?_ (putLine_touches _ _ _) (by decide)
    refine touches_after ?_ (writeBack_touches _ _ _) (by decide)
    exact touches_refl _ _

theorem l1CleanAll_touches : ∀ a0 a1,
    Touches [.freeCtr, .regs, .plate, .cores, .dict, .mem, .poison] a1 (l1CleanAll a0 a1) := by
  intro a0 a1
  unfold l1CleanAll
  refine touches_foldl (fun _ _ _ => ?_) ?_
  · refine touches_after ?_ (l1Clean_touches _ _ _) (by decide)
    assumption
  · exact touches_refl _ _

theorem sbPush_touches : ∀ a0 a1 a2 a3 a4 a5,
    Touches [.cores] a5 (sbPush a0 a1 a2 a3 a4 a5) := by
  intro a0 a1 a2 a3 a4 a5
  unfold sbPush
  extract_lets +onlyGivenNames x0
  clear_value x0
  split
  · refine touches_ite ?_ ?_
    · refine touches_after ?_ (State.setCore_touches _ _ _) (by decide)
      exact touches_refl _ _
    · refine touches_after ?_ (State.setCore_touches _ _ _) (by decide)
      exact touches_refl _ _
  · refine touches_after ?_ (State.setCore_touches _ _ _) (by decide)
    exact touches_refl _ _

end Sys2Proof.Machine
end

