-- ==== Sys2Proof/Laws/TouchAic.lean ====
section
/-! SUPPORT. Which parts of the state the definitions of Machine/Aic.lean touch: one lemma for each, the proofs written by a
script from their shape. -/

namespace Sys2Proof.Machine

theorem State.setAicCore_touches : ∀ a0 a1 a2,
    Touches [.aic] a0 (State.setAicCore a0 a1 a2) := by
  intro a0 a1 a2
  unfold State.setAicCore
  refine touches_after ?_ (touch_aic _) (by decide)
  exact touches_refl _ _

theorem aicTick_touches : ∀ a0,
    Touches [.aic] a0 (aicTick a0) := by
  intro a0
  unfold aicTick
  refine touches_foldl (fun _ _ _ => ?_) ?_
  · extract_lets +onlyGivenNames x0
    clear_value x0
    extract_lets +onlyGivenNames x1
    clear_value x1
    refine touches_ite ?_ ?_
    · assumption
    · refine touches_after ?_ (State.setAicCore_touches _ _ _) (by decide)
      assumption
  · exact touches_refl _ _

theorem freeze_touches : ∀ a0 a1,
    Touches [.regs, .aic] a1 (freeze a0 a1) := by
  intro a0 a1
  unfold freeze
  split
  · refine touches_after ?_ (State.setAicCore_touches _ _ _) (by decide)
    exact touches_refl _ _
  · extract_lets +onlyGivenNames x0
    clear_value x0
    refine touches_after ?_ (State.setReg_touches _ _ _) (by decide)
    refine touches_after ?_ (State.setAicCore_touches _ _ _) (by decide)
    exact touches_refl _ _

theorem doorbellEff_touches : ∀ a0 a1,
    Touches [.cyc, .regs] a1 (doorbellEff a0 a1) := by
  intro a0 a1
  unfold doorbellEff
  refine touches_after ?_ (ringShared_touches _ _) (by decide)
  exact touches_refl _ _

theorem execAicDoorbell_touches : ∀ a0 a1,
    ∃ t, execAicDoorbell a0 a1 = .next t ∧ Touches [.cyc, .regs] a1 t := by
  intro a0 a1
  unfold execAicDoorbell
  refine ⟨_, rfl, ?_⟩
  refine touches_ite ?_ ?_
  · refine touches_after ?_ (doorbellEff_touches _ _) (by decide)
    exact touches_refl _ _
  · exact touches_refl _ _

theorem execAicPdoorbell_touches : ∀ a0 a1,
    ∃ t, execAicPdoorbell a0 a1 = .next t ∧ Touches [.cyc, .regs] a1 t := by
  intro a0 a1
  unfold execAicPdoorbell
  refine ⟨_, rfl, ?_⟩
  refine touches_ite ?_ ?_
  · refine touches_after ?_ (ringPrivate_touches _ _ _) (by decide)
    exact touches_refl _ _
  · exact touches_refl _ _

theorem startHoldoff_touches : ∀ a0 a1,
    Touches [.regs] a1 (startHoldoff a0 a1) := by
  intro a0 a1
  unfold startHoldoff
  refine touches_ite ?_ ?_
  · refine touches_after ?_ (State.setBit_touches _ _ _ _) (by decide)
    exact touches_refl _ _
  · exact touches_refl _ _

theorem claimEff_touches : ∀ a0 a1 a2,
    Touches [.regs, .aic] a2 (claimEff a0 a1 a2) := by
  intro a0 a1 a2
  unfold claimEff
  extract_lets +onlyGivenNames x0
  clear_value x0
  extract_lets +onlyGivenNames x1
  clear_value x1
  extract_lets +onlyGivenNames x2
  clear_value x2
  extract_lets +onlyGivenNames x3
  refine touches_cut x3 ?_ (fun h3 => ?_)
  · unfold x3
    refine touches_after ?_ (State.setBit_touches _ _ _ _) (by decide)
    refine touches_after ?_ (State.setBit_touches _ _ _ _) (by decide)
    exact touches_refl _ _
  clear_value x3
  extract_lets +onlyGivenNames x4
  clear_value x4
  extract_lets +onlyGivenNames x5
  refine touches_cut x5 ?_ (fun h5 => ?_)
  · unfold x5
    refine touches_after ?_ (State.setAicCore_touches _ _ _) (by decide)
    assumption
  clear_value x5
  refine touches_after ?_ (startHoldoff_touches _ _) (by decide)
  assumption

theorem claimOp_touches : ∀ a0 a1 a2,
    Touches [.regs, .aic] a2 (claimOp a0 a1 a2).2 := by
  intro a0 a1 a2
  unfold claimOp
  split
  · refine touches_ite_snd ?_ ?_
    · dsimp only
      refine touches_after ?_ (claimEff_touches _ _ _) (by decide)
      exact touches_refl _ _
    · dsimp only
      exact touches_refl _ _
  · dsimp only
    exact touches_refl _ _

theorem execAicClaim_touches : ∀ a0 a1 a2,
    ∃ t, execAicClaim a0 a1 a2 = .next t ∧ Touches [.regs, .resp, .aic] a2 t := by
  intro a0 a1 a2
  unfold execAicClaim
  refine ⟨_, rfl, ?_⟩
  refine touches_ite ?_ ?_
  · refine touches_answerWith (by decide) ?_
    refine touches_after ?_ (claimOp_touches _ _ _) (by decide)
    exact touches_refl _ _
  · exact touches_refl _ _

theorem freeStack_touches : ∀ a0 a1,
    Touches [.freeCtr] a1 (freeStack a0 a1).2 := by
  intro a0 a1
  fun_induction freeStack a0 a1
  · dsimp only
    exact touches_refl _ _
  · dsimp only
    rename_i r0_0 r0_1
    unfold r0_0
    refine touches_after ?_ ‹_› (fun _ h => h)
    rename_i r1_0
    unfold r1_0
    refine touches_after ?_ (takeFree_touches _ _) (by decide)
    exact touches_refl _ _

theorem eoiUndefined_touches : ∀ a0 a1 a2 a3,
    Touches [.freeCtr, .regs, .aic] a3 (eoiUndefined a0 a1 a2 a3) := by
  intro a0 a1 a2 a3
  unfold eoiUndefined
  extract_lets +onlyGivenNames x0
  refine touches_cut_snd x0 ?_ (fun h0 => ?_)
  · unfold x0
    refine touches_after ?_ (freeStack_touches _ _) (by decide)
    exact touches_refl _ _
  clear_value x0
  extract_lets +onlyGivenNames x1
  refine touches_cut_snd x1 ?_ (fun h1 => ?_)
  · unfold x1
    refine touches_after ?_ (takeFree_touches _ _) (by decide)
    assumption
  clear_value x1
  extract_lets +onlyGivenNames x2
  clear_value x2
  extract_lets +onlyGivenNames x3
  refine touches_cut x3 ?_ (fun h3 => ?_)
  · unfold x3
    refine touches_after ?_ (State.setAicCore_touches _ _ _) (by decide)
    assumption
  clear_value x3
  extract_lets +onlyGivenNames x4
  clear_value x4
  extract_lets +onlyGivenNames x5
  refine touches_cut_snd x5 ?_ (fun h5 => ?_)
  · unfold x5
    refine touches_after ?_ (takeFree_touches _ _) (by decide)
    assumption
  clear_value x5
  refine touches_after ?_ (State.setBit_touches _ _ _ _) (by decide)
  refine touches_after ?_ (State.setBit_touches _ _ _ _) (by decide)
  assumption

theorem eoiEff_touches : ∀ a0 a1 a2,
    Touches [.freeCtr, .regs, .aic] a2 (eoiEff a0 a1 a2) := by
  intro a0 a1 a2
  unfold eoiEff
  extract_lets +onlyGivenNames x0
  clear_value x0
  extract_lets +onlyGivenNames x1
  clear_value x1
  refine touches_ite ?_ ?_
  · exact touches_refl _ _
  · split
    · refine touches_ite ?_ ?_
      · refine touches_after ?_ (State.setBit_touches _ _ _ _) (by decide)
        refine touches_after ?_ (State.setAicCore_touches _ _ _) (by decide)
        exact touches_refl _ _
      · refine touches_after ?_ (eoiUndefined_touches _ _ _ _) (by decide)
        exact touches_refl _ _
    · refine touches_after ?_ (eoiUndefined_touches _ _ _ _) (by decide)
      exact touches_refl _ _

theorem execAicEoi_touches : ∀ a0 a1 a2 a3,
    ∃ t, execAicEoi a0 a1 a2 a3 = .next t ∧ Touches [.freeCtr, .regs, .aic] a3 t := by
  intro a0 a1 a2 a3
  unfold execAicEoi
  refine ⟨_, rfl, ?_⟩
  refine touches_ite ?_ ?_
  · refine touches_after ?_ (eoiEff_touches _ _ _) (by decide)
    exact touches_refl _ _
  · exact touches_refl _ _

theorem srcWrite_touches : ∀ a0 a1 a2,
    Touches [.regs] a2 (srcWrite a0 a1 a2) := by
  intro a0 a1 a2
  unfold srcWrite
  refine touches_after ?_ (State.setReg_touches _ _ _) (by decide)
  exact touches_refl _ _

theorem execGroupHoldoffEnd_touches : ∀ a0 a1,
    ∃ t, execGroupHoldoffEnd a0 a1 = .next t ∧ Touches [.regs] a1 t := by
  intro a0 a1
  unfold execGroupHoldoffEnd
  refine ⟨_, rfl, ?_⟩
  refine touches_ite ?_ ?_
  · refine touches_after ?_ (State.setBit_touches _ _ _ _) (by decide)
    exact touches_refl _ _
  · exact touches_refl _ _

theorem tsClaimOp_touches : ∀ a0,
    Touches [.regs, .tsClaimed] a0 (tsClaimOp a0).2 := by
  intro a0
  unfold tsClaimOp
  split
  · dsimp only
    exact touches_refl _ _
  · dsimp only
    refine touches_after ?_ (touch_tsClaimed _) (by decide)
    refine touches_after ?_ (State.setBit_touches _ _ _ _) (by decide)
    exact touches_refl _ _

theorem execTsClaim_touches : ∀ a0,
    ∃ t, execTsClaim a0 = .next t ∧ Touches [.regs, .resp, .tsClaimed] a0 t := by
  intro a0
  unfold execTsClaim
  refine ⟨_, rfl, ?_⟩
  refine touches_ite ?_ ?_
  · refine touches_answerWith (by decide) ?_
    refine touches_after ?_ (tsClaimOp_touches _) (by decide)
    exact touches_refl _ _
  · exact touches_refl _ _

theorem tsEoiEff_touches : ∀ a0 a1,
    Touches [.freeCtr, .regs, .tsClaimed] a1 (tsEoiEff a0 a1) := by
  intro a0 a1
  unfold tsEoiEff
  refine touches_ite ?_ ?_
  · exact touches_refl _ _
  · refine touches_ite ?_ ?_
    · refine touches_after ?_ (touch_tsClaimed _) (by decide)
      exact touches_refl _ _
    · extract_lets +onlyGivenNames x0
      refine touches_cut_snd x0 ?_ (fun h0 => ?_)
      · unfold x0
        refine touches_after ?_ (takeFree_touches _ _) (by decide)
        exact touches_refl _ _
      clear_value x0
      refine touches_after ?_ (freeReg_touches _ _) (by decide)
      refine touches_after ?_ (freeReg_touches _ _) (by decide)
      extract_lets +onlyGivenNames x1
      refine touches_cut x1 ?_ (fun h1 => ?_)
      · unfold x1
        assumption
      refine touches_after ?_ (touch_tsClaimed _) (by decide)
      assumption

theorem execTsEoi_touches : ∀ a0 a1,
    ∃ t, execTsEoi a0 a1 = .next t ∧ Touches [.freeCtr, .regs, .tsClaimed] a1 t := by
  intro a0 a1
  unfold execTsEoi
  refine ⟨_, rfl, ?_⟩
  refine touches_ite ?_ ?_
  · refine touches_after ?_ (tsEoiEff_touches _ _) (by decide)
    exact touches_refl _ _
  · exact touches_refl _ _

theorem execTsDoorbell_touches : ∀ a0 a1,
    ∃ t, execTsDoorbell a0 a1 = .next t ∧ Touches [.regs] a1 t := by
  intro a0 a1
  unfold execTsDoorbell
  refine ⟨_, rfl, ?_⟩
  refine touches_ite ?_ ?_
  · refine touches_after ?_ (raiseTs_touches _ _) (by decide)
    exact touches_refl _ _
  · exact touches_refl _ _

end Sys2Proof.Machine
end

