-- ==== Sys2Proof/Laws/TouchMem.lean ====
section
/-! SUPPORT. Which parts of the state the definitions of Machine/Mem.lean touch: one lemma for each, the proofs written by a
script from their shape. -/

namespace Sys2Proof.Machine

theorem retWrite_touches : ∀ a0 a1 a2,
    Touches [.regs] a2 (retWrite a0 a1 a2) := by
  intro a0 a1 a2
  unfold retWrite
  extract_lets +onlyGivenNames x0
  refine touches_cut x0 ?_ (fun h0 => ?_)
  · unfold x0
    refine touches_after ?_ (State.setBit_touches _ _ _ _) (by decide)
    exact touches_refl _ _
  clear_value x0
  refine touches_ite ?_ ?_
  · refine touches_after ?_ (State.setBit_touches _ _ _ _) (by decide)
    assumption
  · assumption

theorem sbCtlWrite_touches : ∀ a0 a1 a2 a3,
    Touches [.freeCtr, .regs, .sbOld] a3 (sbCtlWrite a0 a1 a2 a3) := by
  intro a0 a1 a2 a3
  unfold sbCtlWrite
  refine touches_ite ?_ ?_
  · refine touches_after ?_ (retWrite_touches _ _ _) (by decide)
    refine touches_after ?_ (ownerWrite_touches _ _ _) (by decide)
    exact touches_refl _ _
  · exact touches_refl _ _

theorem execSbCtl_touches : ∀ a0 a1 a2 a3,
    ∃ t, execSbCtl a0 a1 a2 a3 = .next t ∧ Touches [.freeCtr, .regs, .sbOld] a3 t := by
  intro a0 a1 a2 a3
  unfold execSbCtl
  refine ⟨_, rfl, ?_⟩
  refine touches_ite ?_ ?_
  · refine touches_after ?_ (sbCtlWrite_touches _ _ _ _) (by decide)
    exact touches_refl _ _
  · exact touches_refl _ _

theorem execBankRetention_touches : ∀ a0 a1 a2 a3,
    ∃ t, execBankRetention a0 a1 a2 a3 = .next t ∧ Touches [.freeCtr, .regs, .sbOld] a3 t := by
  intro a0 a1 a2 a3
  unfold execBankRetention
  refine ⟨_, rfl, ?_⟩
  refine touches_ite ?_ ?_
  · refine touches_after ?_ (sbCtlWrite_touches _ _ _ _) (by decide)
    exact touches_refl _ _
  · exact touches_refl _ _

theorem execBankWake_touches : ∀ a0 a1 a2 a3,
    ∃ t, execBankWake a0 a1 a2 a3 = .next t ∧ Touches [.freeCtr, .regs, .sbOld] a3 t := by
  intro a0 a1 a2 a3
  unfold execBankWake
  refine ⟨_, rfl, ?_⟩
  refine touches_ite ?_ ?_
  · refine touches_after ?_ (sbCtlWrite_touches _ _ _ _) (by decide)
    exact touches_refl _ _
  · exact touches_refl _ _

theorem execOwnerChangeEffect_touches : ∀ a0 a1,
    ∃ t, execOwnerChangeEffect a0 a1 = .next t ∧ Touches [.sbOld] a1 t := by
  intro a0 a1
  unfold execOwnerChangeEffect
  refine ⟨_, rfl, ?_⟩
  refine touches_ite ?_ ?_
  · refine touches_after ?_ (touch_sbOld _) (by decide)
    exact touches_refl _ _
  · exact touches_refl _ _

theorem bankAwakeEff_touches : ∀ a0 a1,
    Touches [.regs] a1 (bankAwakeEff a0 a1) := by
  intro a0 a1
  unfold bankAwakeEff
  refine touches_ite ?_ ?_
  · exact touches_refl _ _
  · refine touches_after ?_ (State.setBit_touches _ _ _ _) (by decide)
    exact touches_refl _ _

theorem execBankAwake_touches : ∀ a0 a1,
    ∃ t, execBankAwake a0 a1 = .next t ∧ Touches [.regs] a1 t := by
  intro a0 a1
  unfold execBankAwake
  refine ⟨_, rfl, ?_⟩
  refine touches_ite ?_ ?_
  · refine touches_after ?_ (bankAwakeEff_touches _ _) (by decide)
    exact touches_refl _ _
  · exact touches_refl _ _

theorem execBusyPinRelease_touches : ∀ a0 a1,
    ∃ t, execBusyPinRelease a0 a1 = .next t ∧ Touches [.busyPins] a1 t := by
  intro a0 a1
  unfold execBusyPinRelease
  refine ⟨_, rfl, ?_⟩
  split
  · refine touches_after ?_ (touch_busyPins _) (by decide)
    exact touches_refl _ _
  · refine touches_after ?_ (touch_busyPins _) (by decide)
    exact touches_refl _ _

theorem iommuFault_touches : ∀ a0 a1 a2 a3 a4,
    Touches [.regs] a4 (iommuFault a0 a1 a2 a3 a4) := by
  intro a0 a1 a2 a3 a4
  unfold iommuFault
  extract_lets +onlyGivenNames x0
  refine touches_cut x0 ?_ (fun h0 => ?_)
  · unfold x0
    refine touches_after ?_ (State.setReg_touches _ _ _) (by decide)
    refine touches_after ?_ (State.setReg_touches _ _ _) (by decide)
    exact touches_refl _ _
  clear_value x0
  refine touches_ite ?_ ?_
  · refine touches_after ?_ (noteDeferred_touches _ _) (by decide)
    assumption
  · assumption

theorem iotlbInsert_touches : ∀ a0 a1 a2,
    Touches [.freeCtr, .iotlb] a2 (iotlbInsert a0 a1 a2) := by
  intro a0 a1 a2
  unfold iotlbInsert
  refine touches_ite ?_ ?_
  · refine touches_after ?_ (touch_iotlb _) (by decide)
    exact touches_refl _ _
  · extract_lets +onlyGivenNames x0
    refine touches_cut_snd x0 ?_ (fun h0 => ?_)
    · unfold x0
      refine touches_after ?_ (takeFree_touches _ _) (by decide)
      exact touches_refl _ _
    clear_value x0
    extract_lets +onlyGivenNames x1
    refine touches_cut x1 ?_ (fun h1 => ?_)
    · unfold x1
      assumption
    refine touches_after ?_ (touch_iotlb _) (by decide)
    assumption

theorem iommuLeaf_touches : ∀ a0 a1 a2 a3 a4 a5,
    Touches [.regs] a5 (iommuLeaf a0 a1 a2 a3 a4 a5).2 := by
  intro a0 a1 a2 a3 a4 a5
  unfold iommuLeaf
  split
  · dsimp only
    refine touches_after ?_ (iommuFault_touches _ _ _ _ _) (by decide)
    exact touches_refl _ _
  · refine touches_ite_snd ?_ ?_
    · dsimp only
      refine touches_after ?_ (iommuFault_touches _ _ _ _ _) (by decide)
      exact touches_refl _ _
    · dsimp only
      exact touches_refl _ _

theorem iommu_touches : ∀ a0 a1 a2 a3,
    Touches [.freeCtr, .cyc, .regs, .iotlb, .checks] a3 (iommu a0 a1 a2 a3).2 := by
  intro a0 a1 a2 a3
  unfold iommu
  extract_lets +onlyGivenNames x0
  clear_value x0
  refine touches_ite_snd ?_ ?_
  · dsimp only
    exact touches_refl _ _
  · refine touches_ite_snd ?_ ?_
    · dsimp only
      exact touches_refl _ _
    · extract_lets +onlyGivenNames x1
      clear_value x1
      split
      · refine touches_after ?_ (iommuLeaf_touches _ _ _ _ _ _) (by decide)
        exact touches_refl _ _
      · extract_lets +onlyGivenNames x2
        clear_value x2
        split
        · refine touches_ite_snd ?_ ?_
          · dsimp only
            refine touches_after ?_ (walkCheck_touches _ _ _) (by decide)
            exact touches_refl _ _
          · dsimp only
            refine touches_after ?_ (iommuFault_touches _ _ _ _ _) (by decide)
            exact touches_refl _ _
        · refine touches_after ?_ (iommuLeaf_touches _ _ _ _ _ _) (by decide)
          refine touches_after ?_ (iotlbInsert_touches _ _ _) (by decide)
          exact touches_refl _ _

theorem masterRead_touches : ∀ a0 a1 a2 a3 a4 a5,
    Touches [.freeCtr, .cyc, .regs, .iotlb, .checks] a5 (masterRead a0 a1 a2 a3 a4 a5).2 := by
  intro a0 a1 a2 a3 a4 a5
  unfold masterRead
  split
  · dsimp only
    refine touches_of_eq_snd ‹_› ?_
    refine touches_after ?_ (iommu_touches _ _ _ _) (by decide)
    exact touches_refl _ _
  · split
    · dsimp only
      refine touches_of_eq_snd ‹_› ?_
      refine touches_after ?_ (iommu_touches _ _ _ _) (by decide)
      exact touches_refl _ _
    · refine touches_ite_snd ?_ ?_
      · dsimp only
        refine touches_of_eq_snd ‹_› ?_
        refine touches_after ?_ (iommu_touches _ _ _ _) (by decide)
        exact touches_refl _ _
      · dsimp only
        refine touches_of_eq_snd ‹_› ?_
        refine touches_after ?_ (iommu_touches _ _ _ _) (by decide)
        exact touches_refl _ _

theorem masterWrite_touches : ∀ a0 a1 a2 a3 a4 a5,
    Touches (.freeCtr :: .cyc :: .regs :: .plate :: .cores :: .dict :: .iotlb :: .mem :: .poison :: .checks :: []) a5 (masterWrite a0 a1 a2 a3 a4 a5).2 := by
  intro a0 a1 a2 a3 a4 a5
  unfold masterWrite
  split
  · dsimp only
    refine touches_of_eq_snd ‹_› ?_
    refine touches_after ?_ (iommu_touches _ _ _ _) (by decide)
    exact touches_refl _ _
  · split
    · dsimp only
      refine touches_of_eq_snd ‹_› ?_
      refine touches_after ?_ (iommu_touches _ _ _ _) (by decide)
      exact touches_refl _ _
    · dsimp only
      refine touches_after ?_ (memWrite_touches _ _ _ _) (by decide)
      refine touches_of_eq_snd ‹_› ?_
      refine touches_after ?_ (iommu_touches _ _ _ _) (by decide)
      exact touches_refl _ _

theorem detectCheck_touches : ∀ a0 a1,
    Touches [.cyc, .regs, .checks] a1 (detectCheck a0 a1) := by
  intro a0 a1
  unfold detectCheck
  split
  · refine touches_after ?_ (postCheck_touches _ _ _ _) (by decide)
    refine touches_after ?_ (countPoisoned_touches _) (by decide)
    exact touches_refl _ _
  · refine touches_after ?_ (postCheck_touches _ _ _ _) (by decide)
    refine touches_after ?_ (countPoisoned_touches _) (by decide)
    exact touches_refl _ _
  · refine touches_after ?_ (postCheck_touches _ _ _ _) (by decide)
    refine touches_after ?_ (countPoisoned_touches _) (by decide)
    exact touches_refl _ _

theorem fetchCheck_touches : ∀ a0 a1 a2,
    Touches [.cyc, .regs, .checks] a2 (fetchCheck a0 a1 a2) := by
  intro a0 a1 a2
  unfold fetchCheck
  refine touches_ite ?_ ?_
  · refine touches_ite ?_ ?_
    · refine touches_after ?_ (countPoisoned_touches _) (by decide)
      refine touches_after ?_ (countDetect_touches _) (by decide)
      exact touches_refl _ _
    · refine touches_after ?_ (detectCheck_touches _ _) (by decide)
      exact touches_refl _ _
  · exact touches_refl _ _

theorem masterReadAll_touches : ∀ a0 a1 a2 a3 a4,
    Touches [.freeCtr, .cyc, .regs, .iotlb, .checks] a4 (masterReadAll a0 a1 a2 a3 a4).2 := by
  intro a0 a1 a2 a3 a4
  fun_induction masterReadAll a0 a1 a2 a3 a4
  · dsimp only
    exact touches_refl _ _
  · dsimp only
    refine touches_of_eq_snd ‹_› ?_
    refine touches_after ?_ (masterRead_touches _ _ _ _ _ _) (by decide)
    exact touches_refl _ _
  · dsimp only
    refine touches_of_eq_snd ‹_› ?_
    refine touches_after ?_ ‹_› (fun _ h => h)
    refine touches_of_eq_snd ‹_› ?_
    refine touches_after ?_ (masterRead_touches _ _ _ _ _ _) (by decide)
    exact touches_refl _ _
  · dsimp only
    refine touches_of_eq_snd ‹_› ?_
    refine touches_after ?_ ‹_› (fun _ h => h)
    refine touches_of_eq_snd ‹_› ?_
    refine touches_after ?_ (masterRead_touches _ _ _ _ _ _) (by decide)
    exact touches_refl _ _

theorem masterReadRun_touches : ∀ a0 a1 a2 a3 a4 a5,
    Touches [.freeCtr, .cyc, .regs, .iotlb, .checks] a5 (masterReadRun a0 a1 a2 a3 a4 a5).2 := by
  intro a0 a1 a2 a3 a4 a5
  unfold masterReadRun
  refine touches_after ?_ (masterReadAll_touches _ _ _ _ _) (by decide)
  exact touches_refl _ _

theorem masterWriteAll_touches : ∀ a0 a1 a2 a3 a4 a5,
    Touches (.freeCtr :: .cyc :: .regs :: .plate :: .cores :: .dict :: .iotlb :: .mem :: .poison :: .checks :: []) a5 (masterWriteAll a0 a1 a2 a3 a4 a5).2 := by
  intro a0 a1 a2 a3 a4 a5
  fun_induction masterWriteAll a0 a1 a2 a3 a4 a5
  · dsimp only
    exact touches_refl _ _
  · dsimp only
    refine touches_of_eq_snd ‹_› ?_
    refine touches_after ?_ (masterWrite_touches _ _ _ _ _ _) (by decide)
    exact touches_refl _ _
  · refine touches_after ?_ ‹_› (fun _ h => h)
    refine touches_of_eq_snd ‹_› ?_
    refine touches_after ?_ (masterWrite_touches _ _ _ _ _ _) (by decide)
    exact touches_refl _ _

theorem masterWriteRun_touches : ∀ a0 a1 a2 a3 a4 a5,
    Touches (.freeCtr :: .cyc :: .regs :: .plate :: .cores :: .dict :: .iotlb :: .mem :: .poison :: .checks :: []) a5 (masterWriteRun a0 a1 a2 a3 a4 a5).2 := by
  intro a0 a1 a2 a3 a4 a5
  unfold masterWriteRun
  refine touches_after ?_ (masterWriteAll_touches _ _ _ _ _ _) (by decide)
  exact touches_refl _ _

theorem iommuInvDoneEff_touches : ∀ a0,
    Touches [.regs, .iotlb] a0 (iommuInvDoneEff a0) := by
  intro a0
  unfold iommuInvDoneEff
  extract_lets +onlyGivenNames x0
  clear_value x0
  refine touches_ite ?_ ?_
  · refine touches_after ?_ (State.setReg_touches _ _ _) (by decide)
    refine touches_after ?_ (touch_iotlb _) (by decide)
    exact touches_refl _ _
  · exact touches_refl _ _

theorem iommuInvWrite_touches : ∀ a0 a1,
    Touches [.regs, .iotlb] a1 (iommuInvWrite a0 a1) := by
  intro a0 a1
  unfold iommuInvWrite
  refine touches_ite ?_ ?_
  · exact touches_refl _ _
  · refine touches_after ?_ (State.setReg_touches _ _ _) (by decide)
    refine touches_after ?_ (iommuInvDoneEff_touches _) (by decide)
    exact touches_refl _ _

theorem execIommuInv_touches : ∀ a0 a1,
    ∃ t, execIommuInv a0 a1 = .next t ∧ Touches [.regs, .iotlb] a1 t := by
  intro a0 a1
  unfold execIommuInv
  refine ⟨_, rfl, ?_⟩
  refine touches_ite ?_ ?_
  · refine touches_after ?_ (iommuInvWrite_touches _ _) (by decide)
    exact touches_refl _ _
  · exact touches_refl _ _

theorem execIommuInvDone_touches : ∀ a0,
    ∃ t, execIommuInvDone a0 = .next t ∧ Touches [.regs, .iotlb] a0 t := by
  intro a0
  unfold execIommuInvDone
  refine ⟨_, rfl, ?_⟩
  refine touches_ite ?_ ?_
  · refine touches_after ?_ (iommuInvDoneEff_touches _) (by decide)
    exact touches_refl _ _
  · exact touches_refl _ _

theorem State.setDmaCh_touches : ∀ a0 a1 a2,
    Touches [.dma] a0 (State.setDmaCh a0 a1 a2) := by
  intro a0 a1 a2
  unfold State.setDmaCh
  refine touches_after ?_ (touch_dma _) (by decide)
  exact touches_refl _ _

theorem setDmaState_touches : ∀ a0 a1 a2,
    Touches [.regs] a2 (setDmaState a0 a1 a2) := by
  intro a0 a1 a2
  unfold setDmaState
  refine touches_after ?_ (State.setFld_touches _ _ _ _ _) (by decide)
  exact touches_refl _ _

theorem setDmaCause_touches : ∀ a0 a1 a2,
    Touches [.regs] a2 (setDmaCause a0 a1 a2) := by
  intro a0 a1 a2
  unfold setDmaCause
  refine touches_after ?_ (State.setFld_touches _ _ _ _ _) (by decide)
  exact touches_refl _ _

theorem dmaEvent_touches : ∀ a0 a1 a2,
    Touches [.cyc, .regs] a2 (dmaEvent a0 a1 a2) := by
  intro a0 a1 a2
  unfold dmaEvent
  refine touches_after ?_ (raiseStatus_touches _ _ _ _ _) (by decide)
  exact touches_refl _ _

theorem dmaUndefined_touches : ∀ a0 a1,
    Touches [.freeCtr, .regs, .dma] a1 (dmaUndefined a0 a1) := by
  intro a0 a1
  unfold dmaUndefined
  extract_lets +onlyGivenNames x0
  refine touches_cut_snd x0 ?_ (fun h0 => ?_)
  · unfold x0
    refine touches_after ?_ (takeFree_touches _ _) (by decide)
    refine touches_after ?_ (State.setDmaCh_touches _ _ _) (by decide)
    exact touches_refl _ _
  clear_value x0
  extract_lets +onlyGivenNames x1
  refine touches_cut x1 ?_ (fun h1 => ?_)
  · unfold x1
    refine touches_after ?_ (State.setReg_touches _ _ _) (by decide)
    assumption
  clear_value x1
  refine touches_after ?_ (freeReg_touches _ _) (by decide)
  refine touches_after ?_ (freeReg_touches _ _) (by decide)
  refine touches_after ?_ (freeReg_touches _ _) (by decide)
  refine touches_after ?_ (freeReg_touches _ _) (by decide)
  refine touches_after ?_ (freeReg_touches _ _) (by decide)
  assumption

theorem dmaProgress_touches : ∀ a0 a1,
    Touches [.regs] a1 (dmaProgress a0 a1) := by
  intro a0 a1
  unfold dmaProgress
  extract_lets +onlyGivenNames x0
  clear_value x0
  extract_lets +onlyGivenNames x1
  clear_value x1
  extract_lets +onlyGivenNames x2
  clear_value x2
  refine touches_after ?_ (State.setReg_touches _ _ _) (by decide)
  refine touches_after ?_ (State.setReg_touches _ _ _) (by decide)
  refine touches_after ?_ (State.setReg_touches _ _ _) (by decide)
  refine touches_after ?_ (State.setReg_touches _ _ _) (by decide)
  refine touches_after ?_ (State.setReg_touches _ _ _) (by decide)
  exact touches_refl _ _

theorem dmaSuspend_touches : ∀ a0 a1 a2 a3,
    Touches [.cyc, .regs] a3 (dmaSuspend a0 a1 a2 a3) := by
  intro a0 a1 a2 a3
  unfold dmaSuspend
  refine touches_after ?_ (dmaEvent_touches _ _ _) (by decide)
  refine touches_after ?_ (setDmaCause_touches _ _ _) (by decide)
  refine touches_after ?_ (setDmaState_touches _ _ _) (by decide)
  refine touches_after ?_ (State.setReg_touches _ _ _) (by decide)
  refine touches_after ?_ (State.setReg_touches _ _ _) (by decide)
  exact touches_refl _ _

theorem dmaStopChannel_touches : ∀ a0 a1,
    Touches [.cyc, .regs, .dma] a1 (dmaStopChannel a0 a1) := by
  intro a0 a1
  unfold dmaStopChannel
  extract_lets +onlyGivenNames x0
  clear_value x0
  refine touches_ite ?_ ?_
  · refine touches_after ?_ (dmaEvent_touches _ _ _) (by decide)
    refine touches_after ?_ (setDmaState_touches _ _ _) (by decide)
    refine touches_after ?_ (State.setDmaCh_touches _ _ _) (by decide)
    exact touches_refl _ _
  · exact touches_refl _ _

theorem engineStop_touches : ∀ a0 a1 a2,
    Touches [.cyc, .regs, .dma] a2 (engineStop a0 a1 a2) := by
  intro a0 a1 a2
  unfold engineStop
  extract_lets +onlyGivenNames x0
  refine touches_cut x0 ?_ (fun h0 => ?_)
  · unfold x0
    refine touches_forEach (fun _ _ _ => ?_) ?_
    · refine touches_after ?_ (dmaStopChannel_touches _ _) (by decide)
      assumption
    · exact touches_refl _ _
  clear_value x0
  extract_lets +onlyGivenNames x1
  refine touches_cut x1 ?_ (fun h1 => ?_)
  · unfold x1
    refine touches_after ?_ (State.setReg_touches _ _ _) (by decide)
    refine touches_after ?_ (State.setReg_touches _ _ _) (by decide)
    refine touches_after ?_ (State.setReg_touches _ _ _) (by decide)
    assumption
  clear_value x1
  refine touches_after ?_ (raiseTs_touches _ _) (by decide)
  refine touches_ite ?_ ?_
  · refine touches_after ?_ (noteDeferred_touches _ _) (by decide)
    assumption
  · assumption

theorem dmaFailed_touches : ∀ a0 a1 a2 a3,
    Touches [.cyc, .regs, .dma, .checks] a3 (dmaFailed a0 a1 a2 a3) := by
  intro a0 a1 a2 a3
  unfold dmaFailed
  split
  · refine touches_after ?_ (dmaSuspend_touches _ _ _ _) (by decide)
    exact touches_refl _ _
  · refine touches_after ?_ (dmaSuspend_touches _ _ _ _) (by decide)
    exact touches_refl _ _
  · refine touches_after ?_ (engineStop_touches _ _ _) (by decide)
    exact touches_refl _ _
  · refine touches_after ?_ (engineStop_touches _ _ _) (by decide)
    refine touches_after ?_ (fetchCheck_touches _ _ _) (by decide)
    exact touches_refl _ _

theorem dmaKick_touches : ∀ a0 a1,
    Touches [.regs, .dma] a1 (dmaKick a0 a1) := by
  intro a0 a1
  unfold dmaKick
  extract_lets +onlyGivenNames x0
  clear_value x0
  refine touches_ite ?_ ?_
  · exact touches_refl _ _
  · refine touches_ite ?_ ?_
    · refine touches_after ?_ (setDmaState_touches _ _ _) (by decide)
      refine touches_after ?_ (State.setDmaCh_touches _ _ _) (by decide)
      exact touches_refl _ _
    · refine touches_ite ?_ ?_
      · refine touches_after ?_ (dmaProgress_touches _ _) (by decide)
        refine touches_after ?_ (setDmaState_touches _ _ _) (by decide)
        exact touches_refl _ _
      · refine touches_after ?_ (State.setFld_touches _ _ _ _ _) (by decide)
        exact touches_refl _ _

theorem execDmaChKick_touches : ∀ a0 a1 a2,
    ∃ t, execDmaChKick a0 a1 a2 = .next t ∧ Touches [.regs, .dma] a2 t := by
  intro a0 a1 a2
  unfold execDmaChKick
  refine ⟨_, rfl, ?_⟩
  refine touches_ite ?_ ?_
  · refine touches_after ?_ (dmaKick_touches _ _) (by decide)
    exact touches_refl _ _
  · exact touches_refl _ _

theorem execDmakick_touches : ∀ a0 a1 a2,
    ∃ t, execDmakick a0 a1 a2 = .next t ∧ Touches [.freeCtr, .regs, .dma] a2 t := by
  intro a0 a1 a2
  unfold execDmakick
  refine ⟨_, rfl, ?_⟩
  refine touches_ite ?_ ?_
  · refine touches_ite ?_ ?_
    · refine touches_after ?_ (dmaKick_touches _ _) (by decide)
      exact touches_refl _ _
    · refine touches_after ?_ (dmaUndefined_touches _ _) (by decide)
      exact touches_refl _ _
  · exact touches_refl _ _

theorem descStart_touches : ∀ a0 a1 a2,
    Touches [.regs, .dma] a2 (descStart a0 a1 a2) := by
  intro a0 a1 a2
  unfold descStart
  extract_lets +onlyGivenNames x0
  refine touches_cut x0 ?_ (fun h0 => ?_)
  · unfold x0
    refine touches_after ?_ (State.setDmaCh_touches _ _ _) (by decide)
    exact touches_refl _ _
  clear_value x0
  refine touches_ite ?_ ?_
  · refine touches_ite ?_ ?_
    · refine touches_after ?_ (setDmaState_touches _ _ _) (by decide)
      assumption
    · refine touches_after ?_ (dmaProgress_touches _ _) (by decide)
      refine touches_after ?_ (setDmaState_touches _ _ _) (by decide)
      refine touches_after ?_ (State.setFld_touches _ _ _ _ _) (by decide)
      assumption
  · refine touches_after ?_ (dmaProgress_touches _ _) (by decide)
    refine touches_after ?_ (setDmaState_touches _ _ _) (by decide)
    assumption

theorem descriptorFetchEff_touches : ∀ a0 a1,
    Touches [.freeCtr, .cyc, .regs, .dma, .iotlb, .checks] a1 (descriptorFetchEff a0 a1) := by
  intro a0 a1
  unfold descriptorFetchEff
  extract_lets +onlyGivenNames x0
  clear_value x0
  refine touches_ite ?_ ?_
  · exact touches_refl _ _
  · split
    · refine touches_after ?_ (dmaFailed_touches _ _ _ _) (by decide)
      refine touches_of_eq_snd ‹_› ?_
      refine touches_after ?_ (masterReadRun_touches _ _ _ _ _ _) (by decide)
      exact touches_refl _ _
    · extract_lets +onlyGivenNames x1
      clear_value x1
      refine touches_ite ?_ ?_
      · refine touches_after ?_ (dmaEvent_touches _ _ _) (by decide)
        refine touches_after ?_ (setDmaState_touches _ _ _) (by decide)
        refine touches_after ?_ (State.setDmaCh_touches _ _ _) (by decide)
        refine touches_of_eq_snd ‹_› ?_
        refine touches_after ?_ (masterReadRun_touches _ _ _ _ _ _) (by decide)
        exact touches_refl _ _
      · refine touches_ite ?_ ?_
        · refine touches_after ?_ (dmaUndefined_touches _ _) (by decide)
          refine touches_of_eq_snd ‹_› ?_
          refine touches_after ?_ (masterReadRun_touches _ _ _ _ _ _) (by decide)
          exact touches_refl _ _
        · refine touches_after ?_ (descStart_touches _ _ _) (by decide)
          refine touches_of_eq_snd ‹_› ?_
          refine touches_after ?_ (masterReadRun_touches _ _ _ _ _ _) (by decide)
          exact touches_refl _ _

theorem execDescriptorFetchDone_touches : ∀ a0 a1,
    ∃ t, execDescriptorFetchDone a0 a1 = .next t ∧ Touches [.freeCtr, .cyc, .regs, .dma, .iotlb, .checks] a1 t := by
  intro a0 a1
  unfold execDescriptorFetchDone
  refine ⟨_, rfl, ?_⟩
  refine touches_ite ?_ ?_
  · refine touches_after ?_ (descriptorFetchEff_touches _ _) (by decide)
    exact touches_refl _ _
  · exact touches_refl _ _

theorem paceEff_touches : ∀ a0 a1,
    Touches [.regs, .dma] a1 (paceEff a0 a1) := by
  intro a0 a1
  unfold paceEff
  extract_lets +onlyGivenNames x0
  clear_value x0
  refine touches_ite ?_ ?_
  · exact touches_refl _ _
  · extract_lets +onlyGivenNames x1
    clear_value x1
    extract_lets +onlyGivenNames x2
    refine touches_cut x2 ?_ (fun h2 => ?_)
    · unfold x2
      refine touches_after ?_ (State.setDmaCh_touches _ _ _) (by decide)
      exact touches_refl _ _
    clear_value x2
    refine touches_ite ?_ ?_
    · refine touches_after ?_ (setDmaState_touches _ _ _) (by decide)
      assumption
    · assumption

theorem execPaceRequest_touches : ∀ a0 a1,
    ∃ t, execPaceRequest a0 a1 = .next t ∧ Touches [.regs, .dma] a1 t := by
  intro a0 a1
  unfold execPaceRequest
  refine ⟨_, rfl, ?_⟩
  refine touches_ite ?_ ?_
  · refine touches_after ?_ (paceEff_touches _ _) (by decide)
    exact touches_refl _ _
  · exact touches_refl _ _

theorem dmaResume_touches : ∀ a0 a1,
    Touches [.regs] a1 (dmaResume a0 a1) := by
  intro a0 a1
  unfold dmaResume
  refine touches_ite ?_ ?_
  · exact touches_refl _ _
  · extract_lets +onlyGivenNames x0
    refine touches_cut x0 ?_ (fun h0 => ?_)
    · unfold x0
      refine touches_after ?_ (setDmaCause_touches _ _ _) (by decide)
      exact touches_refl _ _
    clear_value x0
    refine touches_ite ?_ ?_
    · refine touches_after ?_ (setDmaState_touches _ _ _) (by decide)
      assumption
    · refine touches_after ?_ (setDmaState_touches _ _ _) (by decide)
      assumption

theorem dmaCtlWrite_touches : ∀ a0 a1 a2,
    Touches [.regs, .dma] a2 (dmaCtlWrite a0 a1 a2) := by
  intro a0 a1 a2
  unfold dmaCtlWrite
  extract_lets +onlyGivenNames x0
  clear_value x0
  extract_lets +onlyGivenNames x1
  clear_value x1
  extract_lets +onlyGivenNames x2
  refine touches_cut x2 ?_ (fun h2 => ?_)
  · unfold x2
    refine touches_after ?_ (State.setReg_touches _ _ _) (by decide)
    exact touches_refl _ _
  clear_value x2
  extract_lets +onlyGivenNames x3
  refine touches_cut x3 ?_ (fun h3 => ?_)
  · unfold x3
    refine touches_ite ?_ ?_
    · refine touches_ite ?_ ?_
      · refine touches_after ?_ (State.setDmaCh_touches _ _ _) (by decide)
        assumption
      · refine touches_ite ?_ ?_
        · refine touches_after ?_ (setDmaState_touches _ _ _) (by decide)
          refine touches_after ?_ (State.setDmaCh_touches _ _ _) (by decide)
          assumption
        · assumption
    · assumption
  clear_value x3
  refine touches_ite ?_ ?_
  · refine touches_after ?_ (dmaResume_touches _ _) (by decide)
    assumption
  · assumption

theorem execDmaResume_touches : ∀ a0 a1 a2,
    ∃ t, execDmaResume a0 a1 a2 = .next t ∧ Touches [.regs, .dma] a2 t := by
  intro a0 a1 a2
  unfold execDmaResume
  refine ⟨_, rfl, ?_⟩
  refine touches_ite ?_ ?_
  · refine touches_after ?_ (dmaCtlWrite_touches _ _ _) (by decide)
    exact touches_refl _ _
  · exact touches_refl _ _

theorem execTransactionTimeout_touches : ∀ a0 a1,
    ∃ t, execTransactionTimeout a0 a1 = .next t ∧ Touches [.cyc, .regs, .dma] a1 t := by
  intro a0 a1
  unfold execTransactionTimeout
  refine ⟨_, rfl, ?_⟩
  refine touches_ite ?_ ?_
  · refine touches_after ?_ (engineStop_touches _ _ _) (by decide)
    exact touches_refl _ _
  · exact touches_refl _ _

theorem dmaRestartChannel_touches : ∀ a0 a1,
    Touches [.regs] a1 (dmaRestartChannel a0 a1) := by
  intro a0 a1
  unfold dmaRestartChannel
  refine touches_ite ?_ ?_
  · refine touches_after ?_ (setDmaState_touches _ _ _) (by decide)
    exact touches_refl _ _
  · exact touches_refl _ _

theorem dmaEngWrite_touches : ∀ a0 a1,
    Touches [.regs] a1 (dmaEngWrite a0 a1) := by
  intro a0 a1
  unfold dmaEngWrite
  extract_lets +onlyGivenNames x0
  refine touches_cut x0 ?_ (fun h0 => ?_)
  · unfold x0
    refine touches_after ?_ (State.setReg_touches _ _ _) (by decide)
    exact touches_refl _ _
  clear_value x0
  refine touches_ite ?_ ?_
  · refine touches_forEach (fun _ _ _ => ?_) ?_
    · refine touches_after ?_ (dmaRestartChannel_touches _ _) (by decide)
      assumption
    · refine touches_after ?_ (State.setBit_touches _ _ _ _) (by decide)
      assumption
  · assumption

theorem execDmaRestart_touches : ∀ a0 a1,
    ∃ t, execDmaRestart a0 a1 = .next t ∧ Touches [.regs] a1 t := by
  intro a0 a1
  unfold execDmaRestart
  refine ⟨_, rfl, ?_⟩
  refine touches_ite ?_ ?_
  · refine touches_after ?_ (dmaEngWrite_touches _ _) (by decide)
    exact touches_refl _ _
  · exact touches_refl _ _

theorem partDma_touches : ∀ a0 a1,
    Touches [.cyc, .regs, .dma, .outbound] a1 (partDma a0 a1) := by
  intro a0 a1
  unfold partDma
  extract_lets +onlyGivenNames x0
  refine touches_cut x0 ?_ (fun h0 => ?_)
  · unfold x0
    refine touches_after ?_ (State.setDmaCh_touches _ _ _) (by decide)
    exact touches_refl _ _
  clear_value x0
  extract_lets +onlyGivenNames x1
  refine touches_cut x1 ?_ (fun h1 => ?_)
  · unfold x1
    refine touches_after ?_ (touch_outbound _) (by decide)
    assumption
  clear_value x1
  refine touches_after ?_ (dmaEvent_touches _ _ _) (by decide)
  refine touches_after ?_ (setDmaCause_touches _ _ _) (by decide)
  refine touches_after ?_ (setDmaState_touches _ _ _) (by decide)
  assumption

end Sys2Proof.Machine
end

