-- ==== Sys2Proof/Laws/TouchConsole.lean ====
section
/-! SUPPORT. Which parts of the state the definitions of Machine/Console.lean touch: one lemma for each, the proofs written by a
script from their shape. -/

namespace Sys2Proof.Machine

theorem State.setCon_touches : ∀ a0 a1 a2,
    Touches [.consoles] a0 (State.setCon a0 a1 a2) := by
  intro a0 a1 a2
  unfold State.setCon
  refine touches_after ?_ (touch_consoles _) (by decide)
  exact touches_refl _ _

theorem State.setStream_touches : ∀ a0 a1 a2,
    Touches [.regs, .streams] a0 (State.setStream a0 a1 a2) := by
  intro a0 a1 a2
  unfold State.setStream
  refine touches_after ?_ (State.setReg_touches _ _ _) (by decide)
  refine touches_after ?_ (touch_streams _) (by decide)
  exact touches_refl _ _

theorem setConState_touches : ∀ a0 a1 a2,
    Touches [.regs] a2 (setConState a0 a1 a2) := by
  intro a0 a1 a2
  unfold setConState
  refine touches_after ?_ (State.setFld_touches _ _ _ _ _) (by decide)
  exact touches_refl _ _

theorem conEvent_touches : ∀ a0 a1 a2,
    Touches [.cyc, .regs] a2 (conEvent a0 a1 a2) := by
  intro a0 a1 a2
  unfold conEvent
  refine touches_after ?_ (raiseStatus_touches _ _ _ _ _) (by decide)
  exact touches_refl _ _

theorem conGlobal_touches : ∀ a0 a1,
    Touches [.cyc, .regs] a1 (conGlobal a0 a1) := by
  intro a0 a1
  unfold conGlobal
  refine touches_after ?_ (raiseStatus_touches _ _ _ _ _) (by decide)
  exact touches_refl _ _

theorem spoilConsole_touches : ∀ a0 a1,
    Touches [.consoles] a1 (spoilConsole a0 a1) := by
  intro a0 a1
  unfold spoilConsole
  refine touches_after ?_ (State.setCon_touches _ _ _) (by decide)
  exact touches_refl _ _

theorem rasterStart_touches : ∀ a0 a1 a2 a3 a4 a5,
    Touches [.cyc, .regs, .spindles, .pairs, .groups, .plate] a5 (rasterStart a0 a1 a2 a3 a4 a5) := by
  intro a0 a1 a2 a3 a4 a5
  unfold rasterStart
  extract_lets +onlyGivenNames x0
  clear_value x0
  extract_lets +onlyGivenNames x1
  refine touches_cut x1 ?_ (fun h1 => ?_)
  · unfold x1
    refine touches_after ?_ (State.setSpn_touches _ _ _) (by decide)
    exact touches_refl _ _
  clear_value x1
  refine touches_ite ?_ ?_
  · refine touches_after ?_ (resyncTo_touches _ _ _) (by decide)
    refine touches_after ?_ (setVel_touches _ _ _) (by decide)
    refine touches_after ?_ (setSpnState_touches _ _ _) (by decide)
    assumption
  · assumption

theorem rasterStop_touches : ∀ a0 a1,
    Touches [.cyc, .regs, .spindles, .pairs, .groups] a1 (rasterStop a0 a1) := by
  intro a0 a1
  unfold rasterStop
  extract_lets +onlyGivenNames x0
  clear_value x0
  extract_lets +onlyGivenNames x1
  refine touches_cut x1 ?_ (fun h1 => ?_)
  · unfold x1
    refine touches_after ?_ (State.setSpn_touches _ _ _) (by decide)
    exact touches_refl _ _
  clear_value x1
  refine touches_ite ?_ ?_
  · refine touches_after ?_ (setSpnState_touches _ _ _) (by decide)
    assumption
  · assumption

theorem conStart_touches : ∀ a0 a1,
    Touches [.cyc, .regs, .spindles, .pairs, .groups, .plate, .consoles] a1 (conStart a0 a1) := by
  intro a0 a1
  unfold conStart
  refine touches_after ?_ (rasterStart_touches _ _ _ _ _ _) (by decide)
  refine touches_after ?_ (State.setReg_touches _ _ _) (by decide)
  refine touches_after ?_ (setConState_touches _ _ _) (by decide)
  refine touches_after ?_ (State.setCon_touches _ _ _) (by decide)
  exact touches_refl _ _

theorem conValid_touches : ∀ a0 a1,
    Touches [.consoles] a1 (conValid a0 a1) := by
  intro a0 a1
  unfold conValid
  refine touches_ite ?_ ?_
  · refine touches_after ?_ (State.setCon_touches _ _ _) (by decide)
    exact touches_refl _ _
  · exact touches_refl _ _

theorem conPlainWrite_touches : ∀ a0 a1 a2 a3,
    Touches [.regs, .consoles] a3 (conPlainWrite a0 a1 a2 a3) := by
  intro a0 a1 a2 a3
  unfold conPlainWrite
  refine touches_after ?_ (conValid_touches _ _) (by decide)
  refine touches_after ?_ (State.setReg_touches _ _ _) (by decide)
  exact touches_refl _ _

theorem conScan_touches : ∀ a0 a1,
    Touches [.cyc, .regs, .spindles, .pairs, .groups, .plate, .consoles] a1 (conScan a0 a1) := by
  intro a0 a1
  unfold conScan
  extract_lets +onlyGivenNames x0
  clear_value x0
  extract_lets +onlyGivenNames x1
  refine touches_cut x1 ?_ (fun h1 => ?_)
  · unfold x1
    refine touches_after ?_ (conStart_touches _ _) (by decide)
    refine touches_forEach (fun _ _ _ => ?_) ?_
    · refine touches_after ?_ (spoilConsole_touches _ _) (by decide)
      assumption
    · exact touches_refl _ _
  clear_value x1
  refine touches_ite ?_ ?_
  · assumption
  · refine touches_after ?_ (spoilConsole_touches _ _) (by decide)
    assumption

theorem conCtlWrite_touches : ∀ a0 a1 a2,
    Touches [.cyc, .regs, .spindles, .pairs, .groups, .plate, .consoles] a2 (conCtlWrite a0 a1 a2) := by
  intro a0 a1 a2
  unfold conCtlWrite
  extract_lets +onlyGivenNames x0
  clear_value x0
  extract_lets +onlyGivenNames x1
  clear_value x1
  extract_lets +onlyGivenNames x2
  clear_value x2
  extract_lets +onlyGivenNames x3
  refine touches_cut x3 ?_ (fun h3 => ?_)
  · unfold x3
    refine touches_after ?_ (State.setReg_touches _ _ _) (by decide)
    exact touches_refl _ _
  clear_value x3
  extract_lets +onlyGivenNames x4
  clear_value x4
  extract_lets +onlyGivenNames x5
  refine touches_cut x5 ?_ (fun h5 => ?_)
  · unfold x5
    refine touches_ite ?_ ?_
    · refine touches_after ?_ (spoilConsole_touches _ _) (by decide)
      assumption
    · refine touches_after ?_ (conValid_touches _ _) (by decide)
      assumption
  clear_value x5
  refine touches_ite ?_ ?_
  · refine touches_ite ?_ ?_
    · refine touches_after ?_ (State.setCon_touches _ _ _) (by decide)
      assumption
    · refine touches_after ?_ (setConState_touches _ _ _) (by decide)
      refine touches_ite ?_ ?_
      · refine touches_after ?_ (rasterStop_touches _ _) (by decide)
        assumption
      · assumption
  · refine touches_ite ?_ ?_
    · assumption
    · refine touches_ite ?_ ?_
      · refine touches_ite ?_ ?_
        · assumption
        · refine touches_after ?_ (setConState_touches _ _ _) (by decide)
          refine touches_after ?_ (rasterStop_touches _ _) (by decide)
          assumption
      · refine touches_ite ?_ ?_
        · refine touches_after ?_ (conScan_touches _ _) (by decide)
          assumption
        · refine touches_after ?_ (setConState_touches _ _ _) (by decide)
          refine touches_ite ?_ ?_
          · refine touches_after ?_ (State.setCon_touches _ _ _) (by decide)
            assumption
          · assumption

theorem execConCtl_touches : ∀ a0 a1 a2,
    ∃ t, execConCtl a0 a1 a2 = .next t ∧ Touches [.cyc, .regs, .spindles, .pairs, .groups, .plate, .consoles] a2 t := by
  intro a0 a1 a2
  unfold execConCtl
  refine ⟨_, rfl, ?_⟩
  refine touches_ite ?_ ?_
  · refine touches_after ?_ (conCtlWrite_touches _ _ _) (by decide)
    exact touches_refl _ _
  · exact touches_refl _ _

theorem conTimingWrite_touches : ∀ a0 a1 a2 a3,
    Touches [.regs, .consoles] a3 (conTimingWrite a0 a1 a2 a3) := by
  intro a0 a1 a2 a3
  unfold conTimingWrite
  extract_lets +onlyGivenNames x0
  refine touches_cut x0 ?_ (fun h0 => ?_)
  · unfold x0
    refine touches_after ?_ (State.setReg_touches _ _ _) (by decide)
    exact touches_refl _ _
  clear_value x0
  refine touches_ite ?_ ?_
  · refine touches_after ?_ (spoilConsole_touches _ _) (by decide)
    assumption
  · assumption

theorem renderRequest_touches : ∀ a0 a1,
    Touches [.consoles] a1 (renderRequest a0 a1) := by
  intro a0 a1
  unfold renderRequest
  refine touches_ite ?_ ?_
  · exact touches_refl _ _
  · refine touches_after ?_ (State.setCon_touches _ _ _) (by decide)
    exact touches_refl _ _

theorem execConKick_touches : ∀ a0 a1 a2,
    ∃ t, execConKick a0 a1 a2 = .next t ∧ Touches [.consoles] a2 t := by
  intro a0 a1 a2
  unfold execConKick
  refine ⟨_, rfl, ?_⟩
  refine touches_ite ?_ ?_
  · refine touches_after ?_ (renderRequest_touches _ _) (by decide)
    exact touches_refl _ _
  · exact touches_refl _ _

theorem rasterCommand_touches {F : List Part} {r : Nat} {d m : Word} {f : Nat → State → State} {s t : State} (hF : ∀ p ∈ [.cyc, .regs, .consoles], p ∈ F)
    (hf : ∀ k u, Touches F u (f k u)) (h : Touches F s t) :
    Touches F s (rasterCommand r d m f t) := by
  unfold rasterCommand
  split
  · split
    · exact h.trans (hf _ _)
    · exact touches_after h (spoilConsole_touches _ _) (fun p hp => hF p ((show ∀ p ∈ _, p ∈ _ by decide) p hp))
  · split
    · exact h
    · exact touches_after h (conGlobal_touches _ _) (fun p hp => hF p ((show ∀ p ∈ _, p ∈ _ by decide) p hp))

theorem scrollEff_touches : ∀ a0 a1 a2,
    Touches [.regs] a2 (scrollEff a0 a1 a2) := by
  intro a0 a1 a2
  unfold scrollEff
  refine touches_after ?_ (State.setFld_touches _ _ _ _ _) (by decide)
  exact touches_refl _ _

theorem scrollAddEff_touches : ∀ a0 a1 a2,
    Touches [.regs] a2 (scrollAddEff a0 a1 a2) := by
  intro a0 a1 a2
  unfold scrollAddEff
  extract_lets +onlyGivenNames x0
  clear_value x0
  refine touches_after ?_ (State.setFld_touches _ _ _ _ _) (by decide)
  exact touches_refl _ _

theorem layerEnEff_touches : ∀ a0 a1 a2,
    Touches [.regs] a2 (layerEnEff a0 a1 a2) := by
  intro a0 a1 a2
  unfold layerEnEff
  refine touches_forEach (fun _ _ _ => ?_) ?_
  · refine touches_after ?_ (State.setBit_touches _ _ _ _) (by decide)
    assumption
  · refine touches_after ?_ (State.setBit_touches _ _ _ _) (by decide)
    exact touches_refl _ _

theorem windowEff_touches : ∀ a0 a1 a2,
    Touches [.regs] a2 (windowEff a0 a1 a2) := by
  intro a0 a1 a2
  unfold windowEff
  refine touches_after ?_ (State.setBit_touches _ _ _ _) (by decide)
  refine touches_after ?_ (State.setReg_touches _ _ _) (by decide)
  exact touches_refl _ _

theorem paletteEff_touches : ∀ a0 a1 a2,
    Touches [.regs, .consoles] a2 (paletteEff a0 a1 a2) := by
  intro a0 a1 a2
  unfold paletteEff
  refine touches_ite ?_ ?_
  · refine touches_after ?_ (State.setFld_touches _ _ _ _ _) (by decide)
    exact touches_refl _ _
  · refine touches_ite ?_ ?_
    · refine touches_after ?_ (State.setFld_touches _ _ _ _ _) (by decide)
      exact touches_refl _ _
    · refine touches_after ?_ (spoilConsole_touches _ _) (by decide)
      exact touches_refl _ _

theorem backdropEff_touches : ∀ a0 a1 a2,
    Touches [.regs] a2 (backdropEff a0 a1 a2) := by
  intro a0 a1 a2
  unfold backdropEff
  refine touches_after ?_ (State.setReg_touches _ _ _) (by decide)
  exact touches_refl _ _

theorem execScroll_touches : ∀ a0 a1 a2,
    ∃ t, execScroll a0 a1 a2 = .next t ∧ Touches [.cyc, .regs, .consoles] a2 t := by
  intro a0 a1 a2
  unfold execScroll
  refine ⟨_, rfl, ?_⟩
  refine touches_ite ?_ ?_
  · refine rasterCommand_touches (by decide) (fun _ _ => ?_) ?_
    · refine touches_after ?_ (scrollEff_touches _ _ _) (by decide)
      exact touches_refl _ _
    · exact touches_refl _ _
  · exact touches_refl _ _

theorem execScrollAdd_touches : ∀ a0 a1 a2,
    ∃ t, execScrollAdd a0 a1 a2 = .next t ∧ Touches [.cyc, .regs, .consoles] a2 t := by
  intro a0 a1 a2
  unfold execScrollAdd
  refine ⟨_, rfl, ?_⟩
  refine touches_ite ?_ ?_
  · refine rasterCommand_touches (by decide) (fun _ _ => ?_) ?_
    · refine touches_after ?_ (scrollAddEff_touches _ _ _) (by decide)
      exact touches_refl _ _
    · exact touches_refl _ _
  · exact touches_refl _ _

theorem execLayerEn_touches : ∀ a0 a1 a2,
    ∃ t, execLayerEn a0 a1 a2 = .next t ∧ Touches [.cyc, .regs, .consoles] a2 t := by
  intro a0 a1 a2
  unfold execLayerEn
  refine ⟨_, rfl, ?_⟩
  refine touches_ite ?_ ?_
  · refine rasterCommand_touches (by decide) (fun _ _ => ?_) ?_
    · refine touches_after ?_ (layerEnEff_touches _ _ _) (by decide)
      exact touches_refl _ _
    · exact touches_refl _ _
  · exact touches_refl _ _

theorem execWindow_touches : ∀ a0 a1 a2,
    ∃ t, execWindow a0 a1 a2 = .next t ∧ Touches [.cyc, .regs, .consoles] a2 t := by
  intro a0 a1 a2
  unfold execWindow
  refine ⟨_, rfl, ?_⟩
  refine touches_ite ?_ ?_
  · refine rasterCommand_touches (by decide) (fun _ _ => ?_) ?_
    · refine touches_after ?_ (windowEff_touches _ _ _) (by decide)
      exact touches_refl _ _
    · exact touches_refl _ _
  · exact touches_refl _ _

theorem execPalette_touches : ∀ a0 a1 a2,
    ∃ t, execPalette a0 a1 a2 = .next t ∧ Touches [.cyc, .regs, .consoles] a2 t := by
  intro a0 a1 a2
  unfold execPalette
  refine ⟨_, rfl, ?_⟩
  refine touches_ite ?_ ?_
  · refine rasterCommand_touches (by decide) (fun _ _ => ?_) ?_
    · refine touches_after ?_ (paletteEff_touches _ _ _) (by decide)
      exact touches_refl _ _
    · exact touches_refl _ _
  · exact touches_refl _ _

theorem execBackdrop_touches : ∀ a0 a1 a2,
    ∃ t, execBackdrop a0 a1 a2 = .next t ∧ Touches [.cyc, .regs, .consoles] a2 t := by
  intro a0 a1 a2
  unfold execBackdrop
  refine ⟨_, rfl, ?_⟩
  refine touches_ite ?_ ?_
  · refine rasterCommand_touches (by decide) (fun _ _ => ?_) ?_
    · refine touches_after ?_ (backdropEff_touches _ _ _) (by decide)
      exact touches_refl _ _
    · exact touches_refl _ _
  · exact touches_refl _ _

theorem execRender_touches : ∀ a0 a1 a2,
    ∃ t, execRender a0 a1 a2 = .next t ∧ Touches [.cyc, .regs, .consoles] a2 t := by
  intro a0 a1 a2
  unfold execRender
  refine ⟨_, rfl, ?_⟩
  refine touches_ite ?_ ?_
  · refine rasterCommand_touches (by decide) (fun _ _ => ?_) ?_
    · refine touches_after ?_ (renderRequest_touches _ _) (by decide)
      exact touches_refl _ _
    · exact touches_refl _ _
  · exact touches_refl _ _

theorem rasterAction_touches : ∀ a0 a1 a2,
    Touches [.cyc, .regs, .consoles] a2 (rasterAction a0 a1 a2) := by
  intro a0 a1 a2
  unfold rasterAction
  extract_lets +onlyGivenNames x0
  clear_value x0
  split
  · refine rasterCommand_touches (by decide) (fun _ _ => ?_) ?_
    · refine touches_after ?_ (scrollEff_touches _ _ _) (by decide)
      exact touches_refl _ _
    · exact touches_refl _ _
  · refine rasterCommand_touches (by decide) (fun _ _ => ?_) ?_
    · refine touches_after ?_ (scrollAddEff_touches _ _ _) (by decide)
      exact touches_refl _ _
    · exact touches_refl _ _
  · refine rasterCommand_touches (by decide) (fun _ _ => ?_) ?_
    · refine touches_after ?_ (layerEnEff_touches _ _ _) (by decide)
      exact touches_refl _ _
    · exact touches_refl _ _
  · refine rasterCommand_touches (by decide) (fun _ _ => ?_) ?_
    · refine touches_after ?_ (windowEff_touches _ _ _) (by decide)
      exact touches_refl _ _
    · exact touches_refl _ _
  · refine rasterCommand_touches (by decide) (fun _ _ => ?_) ?_
    · refine touches_after ?_ (paletteEff_touches _ _ _) (by decide)
      exact touches_refl _ _
    · exact touches_refl _ _
  · refine rasterCommand_touches (by decide) (fun _ _ => ?_) ?_
    · refine touches_after ?_ (backdropEff_touches _ _ _) (by decide)
      exact touches_refl _ _
    · exact touches_refl _ _
  · refine rasterCommand_touches (by decide) (fun _ _ => ?_) ?_
    · refine touches_after ?_ (renderRequest_touches _ _) (by decide)
      exact touches_refl _ _
    · exact touches_refl _ _
  · refine rasterCommand_touches (by decide) (fun _ _ => ?_) ?_
    · refine touches_after ?_ (spoilConsole_touches _ _) (by decide)
      exact touches_refl _ _
    · exact touches_refl _ _

theorem execRaster_touches : ∀ a0 a1 a2,
    ∃ t, execRaster a0 a1 a2 = .next t ∧ Touches [.cyc, .regs, .consoles] a2 t := by
  intro a0 a1 a2
  unfold execRaster
  refine ⟨_, rfl, ?_⟩
  refine touches_ite ?_ ?_
  · refine touches_after ?_ (rasterAction_touches _ _ _) (by decide)
    exact touches_refl _ _
  · exact touches_refl _ _

theorem frameLatch_touches : ∀ a0 a1,
    Touches [.cyc, .regs, .consoles] a1 (frameLatch a0 a1) := by
  intro a0 a1
  unfold frameLatch
  extract_lets +onlyGivenNames x0
  clear_value x0
  extract_lets +onlyGivenNames x1
  clear_value x1
  extract_lets +onlyGivenNames x2
  refine touches_cut x2 ?_ (fun h2 => ?_)
  · unfold x2
    refine touches_ite ?_ ?_
    · refine touches_after ?_ (countWrap_touches _ _ _) (by decide)
      exact touches_refl _ _
    · exact touches_refl _ _
  clear_value x2
  extract_lets +onlyGivenNames x3
  clear_value x3
  extract_lets +onlyGivenNames x4
  refine touches_cut x4 ?_ (fun h4 => ?_)
  · unfold x4
    refine touches_after ?_ (State.setCon_touches _ _ _) (by decide)
    assumption
  clear_value x4
  refine touches_after ?_ (conEvent_touches _ _ _) (by decide)
  assumption

theorem lineLatchEff_touches : ∀ a0 a1 a2,
    Touches [.cyc, .regs, .consoles, .conJobs] a2 (lineLatchEff a0 a1 a2) := by
  intro a0 a1 a2
  unfold lineLatchEff
  refine touches_ite ?_ ?_
  · exact touches_refl _ _
  · extract_lets +onlyGivenNames x0
    refine touches_cut x0 ?_ (fun h0 => ?_)
    · unfold x0
      refine touches_ite ?_ ?_
      · refine touches_after ?_ (frameLatch_touches _ _) (by decide)
        exact touches_refl _ _
      · exact touches_refl _ _
    clear_value x0
    extract_lets +onlyGivenNames x1
    clear_value x1
    extract_lets +onlyGivenNames x2
    refine touches_cut x2 ?_ (fun h2 => ?_)
    · unfold x2
      refine touches_ite ?_ ?_
      · refine touches_after ?_ (State.setCon_touches _ _ _) (by decide)
        assumption
      · assumption
    clear_value x2
    extract_lets +onlyGivenNames x3
    clear_value x3
    extract_lets +onlyGivenNames x4
    clear_value x4
    extract_lets +onlyGivenNames x5
    clear_value x5
    refine touches_ite ?_ ?_
    · extract_lets +onlyGivenNames x6
      clear_value x6
      extract_lets +onlyGivenNames x7
      refine touches_cut x7 ?_ (fun h7 => ?_)
      · unfold x7
        refine touches_after ?_ (State.setCon_touches _ _ _) (by decide)
        assumption
      clear_value x7
      refine touches_after ?_ (touch_conJobs _) (by decide)
      assumption
    · assumption

theorem execLineLatch_touches : ∀ a0 a1 a2,
    ∃ t, execLineLatch a0 a1 a2 = .next t ∧ Touches [.cyc, .regs, .consoles, .conJobs] a2 t := by
  intro a0 a1 a2
  unfold execLineLatch
  refine ⟨_, rfl, ?_⟩
  refine touches_ite ?_ ?_
  · refine touches_after ?_ (lineLatchEff_touches _ _ _) (by decide)
    exact touches_refl _ _
  · exact touches_refl _ _

theorem inlayTableEff_touches : ∀ a0 a1,
    Touches [.freeCtr, .cyc, .regs, .consoles, .iotlb, .checks] a1 (inlayTableEff a0 a1) := by
  intro a0 a1
  unfold inlayTableEff
  extract_lets +onlyGivenNames x0
  clear_value x0
  refine touches_ite ?_ ?_
  · exact touches_refl _ _
  · split
    · refine touches_after ?_ (State.setCon_touches _ _ _) (by decide)
      refine touches_of_eq_snd ‹_› ?_
      refine touches_after ?_ (masterReadRun_touches _ _ _ _ _ _) (by decide)
      exact touches_refl _ _
    · refine touches_after ?_ (conEvent_touches _ _ _) (by decide)
      refine touches_after ?_ (State.setCon_touches _ _ _) (by decide)
      refine touches_after ?_ (fetchCheck_touches _ _ _) (by decide)
      refine touches_of_eq_snd ‹_› ?_
      refine touches_after ?_ (masterReadRun_touches _ _ _ _ _ _) (by decide)
      exact touches_refl _ _

theorem execInlayTableArrived_touches : ∀ a0 a1,
    ∃ t, execInlayTableArrived a0 a1 = .next t ∧ Touches [.freeCtr, .cyc, .regs, .consoles, .iotlb, .checks] a1 t := by
  intro a0 a1
  unfold execInlayTableArrived
  refine ⟨_, rfl, ?_⟩
  refine touches_ite ?_ ?_
  · refine touches_after ?_ (inlayTableEff_touches _ _) (by decide)
    exact touches_refl _ _
  · exact touches_refl _ _

theorem State.setPipe_touches : ∀ a0 a1 a2,
    Touches [.pipes] a0 (State.setPipe a0 a1 a2) := by
  intro a0 a1 a2
  unfold State.setPipe
  refine touches_after ?_ (touch_pipes _) (by decide)
  exact touches_refl _ _

theorem renderStartEff_touches : ∀ a0,
    Touches [.conJobs, .pipes] a0 (renderStartEff a0) := by
  intro a0
  unfold renderStartEff
  split
  · extract_lets +onlyGivenNames x0
    refine touches_cut x0 ?_ (fun h0 => ?_)
    · unfold x0
      refine touches_after ?_ (State.setPipe_touches _ _ _) (by decide)
      exact touches_refl _ _
    clear_value x0
    refine touches_after ?_ (touch_conJobs _) (by decide)
    assumption
  · exact touches_refl _ _

theorem execRenderJobStart_touches : ∀ a0,
    ∃ t, execRenderJobStart a0 = .next t ∧ Touches [.conJobs, .pipes] a0 t := by
  intro a0
  unfold execRenderJobStart
  refine ⟨_, rfl, ?_⟩
  refine touches_ite ?_ ?_
  · refine touches_after ?_ (renderStartEff_touches _) (by decide)
    exact touches_refl _ _
  · exact touches_refl _ _

theorem fetchBytes_touches : ∀ a0 a1 a2,
    Touches [.freeCtr, .cyc, .regs, .iotlb, .checks] a2.st (fetchBytes a0 a1 a2).2.st := by
  intro a0 a1 a2
  unfold fetchBytes
  split
  · dsimp only
    refine touches_of_eq_snd ‹_› ?_
    refine touches_after ?_ (masterReadRun_touches _ _ _ _ _ _) (by decide)
    exact touches_refl _ _
  · dsimp only
    refine touches_after ?_ (fetchCheck_touches _ _ _) (by decide)
    refine touches_of_eq_snd ‹_› ?_
    refine touches_after ?_ (masterReadRun_touches _ _ _ _ _ _) (by decide)
    exact touches_refl _ _

theorem glyphPixel_touches : ∀ a0 a1 a2 a3 a4 a5,
    Touches [.freeCtr, .cyc, .regs, .iotlb, .checks] a5.st (glyphPixel a0 a1 a2 a3 a4 a5).2.st := by
  intro a0 a1 a2 a3 a4 a5
  unfold glyphPixel
  extract_lets +onlyGivenNames x0
  clear_value x0
  extract_lets +onlyGivenNames x1
  clear_value x1
  split
  · dsimp only
    exact touches_refl _ _
  · extract_lets +onlyGivenNames x2
    clear_value x2
    extract_lets +onlyGivenNames x3
    refine touches_cut_of x3 (fun p => p.2.st) ?_ (fun h3 => ?_)
    · unfold x3
      refine touches_after ?_ (fetchBytes_touches _ _ _) (by decide)
      exact touches_refl _ _
    clear_value x3
    dsimp only
    assumption

theorem layerPixel_touches : ∀ a0 a1 a2 a3 a4 a5 a6,
    Touches [.freeCtr, .cyc, .regs, .iotlb, .checks] a6.st (layerPixel a0 a1 a2 a3 a4 a5 a6).2.st := by
  intro a0 a1 a2 a3 a4 a5 a6
  unfold layerPixel
  split
  · dsimp only
    exact touches_refl _ _
  · extract_lets +onlyGivenNames x0
    clear_value x0
    extract_lets +onlyGivenNames x1
    clear_value x1
    extract_lets +onlyGivenNames x2
    clear_value x2
    extract_lets +onlyGivenNames x3
    clear_value x3
    extract_lets +onlyGivenNames x4
    clear_value x4
    extract_lets +onlyGivenNames x5
    clear_value x5
    extract_lets +onlyGivenNames x6
    clear_value x6
    extract_lets +onlyGivenNames x7
    refine touches_cut_of x7 (fun p => p.2.st) ?_ (fun h7 => ?_)
    · unfold x7
      refine touches_after ?_ (fetchBytes_touches _ _ _) (by decide)
      exact touches_refl _ _
    clear_value x7
    extract_lets +onlyGivenNames x8
    clear_value x8
    extract_lets +onlyGivenNames x9
    clear_value x9
    extract_lets +onlyGivenNames x10
    clear_value x10
    extract_lets +onlyGivenNames x11
    clear_value x11
    extract_lets +onlyGivenNames x12
    refine touches_cut_of x12 (fun p => p.2.st) ?_ (fun h12 => ?_)
    · unfold x12
      refine touches_after ?_ (glyphPixel_touches _ _ _ _ _ _) (by decide)
      assumption
    clear_value x12
    split
    · dsimp only
      assumption
    · dsimp only
      assumption
    · dsimp only
      assumption

theorem inlayPixel_touches : ∀ a0 a1 a2 a3 a4,
    Touches [.freeCtr, .cyc, .regs, .iotlb, .checks] a4.st (inlayPixel a0 a1 a2 a3 a4).2.st := by
  intro a0 a1 a2 a3 a4
  unfold inlayPixel
  split
  · dsimp only
    exact touches_refl _ _
  · extract_lets +onlyGivenNames x0
    clear_value x0
    extract_lets +onlyGivenNames x1
    clear_value x1
    extract_lets +onlyGivenNames x2
    clear_value x2
    extract_lets +onlyGivenNames x3
    clear_value x3
    extract_lets +onlyGivenNames x4
    clear_value x4
    extract_lets +onlyGivenNames x5
    clear_value x5
    extract_lets +onlyGivenNames x6
    clear_value x6
    extract_lets +onlyGivenNames x7
    refine touches_cut_of x7 (fun p => p.2.st) ?_ (fun h7 => ?_)
    · unfold x7
      refine touches_after ?_ (glyphPixel_touches _ _ _ _ _ _) (by decide)
      exact touches_refl _ _
    clear_value x7
    split
    · dsimp only
      assumption
    · dsimp only
      assumption
    · dsimp only
      assumption

theorem inlaysPixel_touches : ∀ a0 a1 a2 a3 a4,
    Touches [.freeCtr, .cyc, .regs, .iotlb, .checks] a4.st (inlaysPixel a0 a1 a2 a3 a4).2.st := by
  intro a0 a1 a2 a3 a4
  induction a1 generalizing a4 with
  | nil => exact touches_refl _ _
  | cons i r ih =>
    unfold inlaysPixel
    have h := inlayPixel_touches a0 i a2 a3 a4
    split
    · next e => rw [e] at h; exact h
    · next e => rw [e] at h; exact touches_after h (ih _) (fun _ h => h)

theorem layersPixel_touches : ∀ a0 a1 a2 a3 a4,
    Touches [.freeCtr, .cyc, .regs, .iotlb, .checks] a4.st (layersPixel a0 a1 a2 a3 a4).2.st := by
  intro a0 a1 a2 a3 a4
  fun_induction layersPixel a0 a1 a2 a3 a4
  · dsimp only
    exact touches_refl _ _
  · dsimp only
    rename_i r0_0 r0_1
    unfold r0_0
    refine touches_after ?_ ‹_› (fun _ h => h)
    rename_i r1_0
    unfold r1_0
    refine touches_after ?_ (layerPixel_touches _ _ _ _ _ _ _) (by decide)
    exact touches_refl _ _

theorem composePixel_touches : ∀ a0 a1 a2 a3,
    Touches [.freeCtr, .cyc, .regs, .iotlb, .checks] a3.st (composePixel a0 a1 a2 a3).2.st := by
  intro a0 a1 a2 a3
  unfold composePixel
  extract_lets +onlyGivenNames x0
  refine touches_cut_of x0 (fun p => p.2.st) ?_ (fun h0 => ?_)
  · unfold x0
    refine touches_after ?_ (layersPixel_touches _ _ _ _ _) (by decide)
    exact touches_refl _ _
  clear_value x0
  extract_lets +onlyGivenNames x1
  refine touches_cut_of x1 (fun p => p.2.st) ?_ (fun h1 => ?_)
  · unfold x1
    refine touches_after ?_ (inlaysPixel_touches _ _ _ _ _) (by decide)
    assumption
  clear_value x1
  extract_lets +onlyGivenNames x2
  clear_value x2
  extract_lets +onlyGivenNames x3
  clear_value x3
  dsimp only
  assumption

theorem pixColour_touches : ∀ a0 a1 a2 a3,
    Touches [.cyc, .regs, .checks] a3.st (pixColour a0 a1 a2 a3).2.st := by
  intro a0 a1 a2 a3
  unfold pixColour
  split
  · dsimp only
    exact touches_refl _ _
  · dsimp only
    exact touches_refl _ _
  · split
    · dsimp only
      refine touches_after ?_ (countPoisoned_touches _) (by decide)
      refine touches_after ?_ (postCheck_touches _ _ _ _) (by decide)
      exact touches_refl _ _
    · dsimp only
      exact touches_refl _ _

theorem linePixels_touches : ∀ a0 a1 a2 a3 a4 a5,
    Touches [.freeCtr, .cyc, .regs, .iotlb, .checks] a5.st (linePixels a0 a1 a2 a3 a4 a5).2.st := by
  intro a0 a1 a2 a3 a4 a5
  fun_induction linePixels a0 a1 a2 a3 a4 a5
  · dsimp only
    exact touches_refl _ _
  · dsimp only
    rename_i r0_0 r0_1
    unfold r0_0
    refine touches_after ?_ ‹_› (fun _ h => h)
    rename_i r1_0
    unfold r1_0
    refine touches_after ?_ (pixColour_touches _ _ _ _) (by decide)
    rename_i r2_0
    unfold r2_0
    refine touches_after ?_ (composePixel_touches _ _ _ _) (by decide)
    exact touches_refl _ _

theorem overrunLine_touches : ∀ a0 a1 a2,
    Touches [.cyc, .regs, .consoles] a2 (overrunLine a0 a1 a2) := by
  intro a0 a1 a2
  unfold overrunLine
  refine touches_after ?_ (conGlobal_touches _ _) (by decide)
  refine touches_after ?_ (conEvent_touches _ _ _) (by decide)
  refine touches_after ?_ (rcUpFld_touches _ _ _ _ _) (by decide)
  refine touches_after ?_ (State.setCon_touches _ _ _) (by decide)
  exact touches_refl _ _

theorem queueLine_touches : ∀ a0 a1 a2,
    Touches [.cyc, .regs, .consoles, .streams] a2 (queueLine a0 a1 a2) := by
  intro a0 a1 a2
  unfold queueLine
  extract_lets +onlyGivenNames x0
  clear_value x0
  refine touches_ite ?_ ?_
  · refine touches_after ?_ (State.setStream_touches _ _ _) (by decide)
    exact touches_refl _ _
  · refine touches_ite ?_ ?_
    · refine touches_after ?_ (State.setStream_touches _ _ _) (by decide)
      exact touches_refl _ _
    · refine touches_after ?_ (overrunLine_touches _ _ _) (by decide)
      exact touches_refl _ _

theorem leaveSelfRefresh_touches : ∀ a0 a1,
    Touches [.regs] a1 (leaveSelfRefresh a0 a1) := by
  intro a0 a1
  unfold leaveSelfRefresh
  refine touches_ite ?_ ?_
  · refine touches_after ?_ (State.setFld_touches _ _ _ _ _) (by decide)
    exact touches_refl _ _
  · exact touches_refl _ _

theorem liveWrite_touches : ∀ a0 a1 a2 a3 a4,
    Touches (.freeCtr :: .cyc :: .regs :: .plate :: .cores :: .consoles :: .liveLines :: .dict :: .iotlb :: .mem :: .poison :: .checks :: []) a4 (liveWrite a0 a1 a2 a3 a4) := by
  intro a0 a1 a2 a3 a4
  unfold liveWrite
  extract_lets +onlyGivenNames x0
  clear_value x0
  split
  · refine touches_after ?_ (leaveSelfRefresh_touches _ _) (by decide)
    refine touches_after ?_ (touch_liveLines _) (by decide)
    refine touches_of_eq_snd ‹_› ?_
    refine touches_after ?_ (masterWriteRun_touches _ _ _ _ _ _) (by decide)
    exact touches_refl _ _
  · refine touches_after ?_ (State.setCon_touches _ _ _) (by decide)
    refine touches_of_eq_snd ‹_› ?_
    refine touches_after ?_ (masterWriteRun_touches _ _ _ _ _ _) (by decide)
    exact touches_refl _ _

theorem renderLine_touches : ∀ a0 a1,
    Touches [.freeCtr, .cyc, .regs, .iotlb, .checks] a1 (renderLine a0 a1).2.1.st := by
  intro a0 a1
  unfold renderLine
  extract_lets +onlyGivenNames x0
  clear_value x0
  extract_lets +onlyGivenNames x1
  clear_value x1
  extract_lets +onlyGivenNames x2
  clear_value x2
  extract_lets +onlyGivenNames x3
  clear_value x3
  extract_lets +onlyGivenNames x4
  refine touches_cut_of x4 (fun p => p.2.st) ?_ (fun h4 => ?_)
  · unfold x4
    refine touches_after ?_ (linePixels_touches _ _ _ _ _ _) (by decide)
    dsimp only
    exact touches_refl _ _
  clear_value x4
  dsimp only
  assumption

theorem freePixels_touches : ∀ a0 a1,
    Touches [.freeCtr] a1 (freePixels a0 a1).2 := by
  intro a0 a1
  fun_induction freePixels a0 a1
  · dsimp only
    exact touches_refl _ _
  · dsimp only
    rename_i r0_0 r0_1
    unfold r0_0
    refine touches_after ?_ ‹_› (fun _ h => h)
    rename_i r1_0
    unfold r1_0
    refine touches_after ?_ (takeFree_touches _ _) (by decide)
    exact touches_refl _ _

theorem lineFlags_touches : ∀ a0 a1 a2 a3 a4,
    Touches [.cyc, .regs, .consoles] a4 (lineFlags a0 a1 a2 a3 a4) := by
  intro a0 a1 a2 a3 a4
  unfold lineFlags
  extract_lets +onlyGivenNames x0
  clear_value x0
  extract_lets +onlyGivenNames x1
  clear_value x1
  extract_lets +onlyGivenNames x2
  refine touches_cut x2 ?_ (fun h2 => ?_)
  · unfold x2
    refine touches_ite ?_ ?_
    · refine touches_after ?_ (conEvent_touches _ _ _) (by decide)
      refine touches_after ?_ (rcUpFld_touches _ _ _ _ _) (by decide)
      refine touches_after ?_ (State.setCon_touches _ _ _) (by decide)
      exact touches_refl _ _
    · exact touches_refl _ _
  clear_value x2
  extract_lets +onlyGivenNames x3
  refine touches_cut x3 ?_ (fun h3 => ?_)
  · unfold x3
    refine touches_ite ?_ ?_
    · refine touches_after ?_ (conEvent_touches _ _ _) (by decide)
      assumption
    · assumption
  clear_value x3
  extract_lets +onlyGivenNames x4
  refine touches_cut x4 ?_ (fun h4 => ?_)
  · unfold x4
    refine touches_ite ?_ ?_
    · refine touches_after ?_ (conEvent_touches _ _ _) (by decide)
      refine touches_after ?_ (rcUpFld_touches _ _ _ _ _) (by decide)
      assumption
    · assumption
  clear_value x4
  refine touches_ite ?_ ?_
  · refine touches_after ?_ (conGlobal_touches _ _) (by decide)
    refine touches_after ?_ (conEvent_touches _ _ _) (by decide)
    refine touches_after ?_ (rcUpFld_touches _ _ _ _ _) (by decide)
    assumption
  · assumption

theorem finishLine_touches : ∀ a0 a1 a2 a3,
    Touches (.freeCtr :: .cyc :: .regs :: .plate :: .cores :: .consoles :: .streams :: .liveLines :: .dict :: .iotlb :: .mem :: .poison :: .checks :: []) a3 (finishLine a0 a1 a2 a3) := by
  intro a0 a1 a2 a3
  unfold finishLine
  extract_lets +onlyGivenNames x0
  clear_value x0
  extract_lets +onlyGivenNames x1
  clear_value x1
  extract_lets +onlyGivenNames x2
  refine touches_cut x2 ?_ (fun h2 => ?_)
  · unfold x2
    refine touches_foldl (fun _ _ _ => ?_) ?_
    · refine touches_after ?_ (liveWrite_touches _ _ _ _ _) (by decide)
      assumption
    · exact touches_refl _ _
  clear_value x2
  extract_lets +onlyGivenNames x3
  clear_value x3
  refine touches_ite ?_ ?_
  · extract_lets +onlyGivenNames x4
    clear_value x4
    extract_lets +onlyGivenNames x5
    clear_value x5
    refine touches_after ?_ (queueLine_touches _ _ _) (by decide)
    assumption
  · assumption

theorem renderDoneEff_touches : ∀ a0 a1,
    Touches (.freeCtr :: .cyc :: .regs :: .plate :: .cores :: .consoles :: .pipes :: .streams :: .liveLines :: .dict :: .iotlb :: .mem :: .poison :: .checks :: []) a1 (renderDoneEff a0 a1) := by
  intro a0 a1
  unfold renderDoneEff
  split
  · exact touches_refl _ _
  · extract_lets +onlyGivenNames x0
    refine touches_cut x0 ?_ (fun h0 => ?_)
    · unfold x0
      refine touches_after ?_ (State.setPipe_touches _ _ _) (by decide)
      exact touches_refl _ _
    clear_value x0
    refine touches_ite ?_ ?_
    · extract_lets +onlyGivenNames x1
      refine touches_cut_snd x1 ?_ (fun h1 => ?_)
      · unfold x1
        refine touches_after ?_ (freePixels_touches _ _) (by decide)
        assumption
      clear_value x1
      extract_lets +onlyGivenNames x2
      refine touches_cut_snd x2 ?_ (fun h2 => ?_)
      · unfold x2
        refine touches_after ?_ (takeFree_touches _ _) (by decide)
        assumption
      clear_value x2
      refine touches_after ?_ (finishLine_touches _ _ _ _) (by decide)
      refine touches_after ?_ (conEvent_touches _ _ _) (by decide)
      assumption
    · extract_lets +onlyGivenNames x3
      refine touches_cut_of x3 (fun p => p.2.1.st) ?_ (fun h3 => ?_)
      · unfold x3
        refine touches_after ?_ (renderLine_touches _ _) (by decide)
        assumption
      clear_value x3
      extract_lets +onlyGivenNames x4
      refine touches_cut_of x4 (fun p => p.st) ?_ (fun h4 => ?_)
      · unfold x4
        assumption
      refine touches_after ?_ (finishLine_touches _ _ _ _) (by decide)
      refine touches_after ?_ (lineFlags_touches _ _ _ _ _) (by decide)
      assumption

theorem execRenderJobDone_touches : ∀ a0 a1,
    ∃ t, execRenderJobDone a0 a1 = .next t ∧ Touches (.freeCtr :: .cyc :: .regs :: .plate :: .cores :: .consoles :: .pipes :: .streams :: .liveLines :: .dict :: .iotlb :: .mem :: .poison :: .checks :: []) a1 t := by
  intro a0 a1
  unfold execRenderJobDone
  refine ⟨_, rfl, ?_⟩
  refine touches_ite ?_ ?_
  · refine touches_after ?_ (renderDoneEff_touches _ _) (by decide)
    exact touches_refl _ _
  · exact touches_refl _ _

theorem lineEntered_touches : ∀ a0 a1,
    Touches [.consoles] a1 (lineEntered a0 a1) := by
  intro a0 a1
  unfold lineEntered
  refine touches_after ?_ (State.setCon_touches _ _ _) (by decide)
  exact touches_refl _ _

theorem enterWord_touches : ∀ a0 a1,
    Touches [.regs, .consoles, .streams] a1 (enterWord a0 a1) := by
  intro a0 a1
  unfold enterWord
  extract_lets +onlyGivenNames x0
  clear_value x0
  split
  · exact touches_refl _ _
  · split
    · refine touches_after ?_ (State.setStream_touches _ _ _) (by decide)
      exact touches_refl _ _
    · refine touches_after ?_ (lineEntered_touches _ _) (by decide)
      refine touches_after ?_ (State.setStream_touches _ _ _) (by decide)
      exact touches_refl _ _
    · extract_lets +onlyGivenNames x1
      clear_value x1
      refine touches_after ?_ (State.setReg_touches _ _ _) (by decide)
      refine touches_after ?_ (State.setStream_touches _ _ _) (by decide)
      exact touches_refl _ _
    · refine touches_after ?_ (State.setStream_touches _ _ _) (by decide)
      exact touches_refl _ _

theorem enterWords_touches : ∀ a0 a1 a2,
    Touches [.regs, .consoles, .streams] a2 (enterWords a0 a1 a2) := by
  intro a0 a1 a2
  fun_induction enterWords a0 a1 a2
  · exact touches_refl _ _
  · exact touches_refl _ _
  · refine touches_after ?_ (enterWord_touches _ _) (by decide)
    exact touches_refl _ _
  · refine touches_after ?_ ‹_› (fun _ h => h)
    refine touches_after ?_ (enterWord_touches _ _) (by decide)
    exact touches_refl _ _
  · exact touches_refl _ _
  · refine touches_after ?_ ‹_› (fun _ h => h)
    refine touches_after ?_ (enterWord_touches _ _) (by decide)
    exact touches_refl _ _
  · exact touches_refl _ _

theorem execLineEnterQueue_touches : ∀ a0 a1,
    ∃ t, execLineEnterQueue a0 a1 = .next t ∧ Touches [.regs, .consoles, .streams] a1 t := by
  intro a0 a1
  unfold execLineEnterQueue
  refine ⟨_, rfl, ?_⟩
  refine touches_ite ?_ ?_
  · refine touches_after ?_ (enterWords_touches _ _ _) (by decide)
    exact touches_refl _ _
  · exact touches_refl _ _

theorem streamPop_touches : ∀ a0 a1,
    Touches [.regs, .streams] a1 (streamPop a0 a1).2 := by
  intro a0 a1
  unfold streamPop
  extract_lets +onlyGivenNames x0
  clear_value x0
  split
  · dsimp only
    exact touches_refl _ _
  · dsimp only
    refine touches_after ?_ (State.setStream_touches _ _ _) (by decide)
    exact touches_refl _ _

theorem execConSqData_touches : ∀ a0 a1 a2,
    ∃ t, execConSqData a0 a1 a2 = .next t ∧ Touches [.regs, .resp, .streams] a2 t := by
  intro a0 a1 a2
  unfold execConSqData
  refine ⟨_, rfl, ?_⟩
  refine touches_ite ?_ ?_
  · refine touches_answerWith (by decide) ?_
    refine touches_after ?_ (streamPop_touches _ _) (by decide)
    exact touches_refl _ _
  · exact touches_refl _ _

theorem discardLines_touches : ∀ a0 a1,
    Touches [.consoles] a1 (discardLines a0 a1) := by
  intro a0 a1
  unfold discardLines
  refine touches_foldl (fun _ _ _ => ?_) ?_
  · refine touches_after ?_ (State.setCon_touches _ _ _) (by decide)
    assumption
  · exact touches_refl _ _

theorem streamFlush_touches : ∀ a0 a1,
    Touches [.regs, .consoles, .streams] a1 (streamFlush a0 a1) := by
  intro a0 a1
  unfold streamFlush
  extract_lets +onlyGivenNames x0
  clear_value x0
  refine touches_after ?_ (discardLines_touches _ _) (by decide)
  refine touches_after ?_ (State.setStream_touches _ _ _) (by decide)
  exact touches_refl _ _

theorem streamCtlWrite_touches : ∀ a0 a1 a2,
    Touches [.regs, .consoles, .streams] a2 (streamCtlWrite a0 a1 a2) := by
  intro a0 a1 a2
  unfold streamCtlWrite
  extract_lets +onlyGivenNames x0
  refine touches_cut x0 ?_ (fun h0 => ?_)
  · unfold x0
    refine touches_after ?_ (State.setReg_touches _ _ _) (by decide)
    exact touches_refl _ _
  clear_value x0
  extract_lets +onlyGivenNames x1
  refine touches_cut x1 ?_ (fun h1 => ?_)
  · unfold x1
    refine touches_ite ?_ ?_
    · refine touches_after ?_ (State.setReg_touches _ _ _) (by decide)
      assumption
    · assumption
  clear_value x1
  refine touches_ite ?_ ?_
  · refine touches_after ?_ (streamFlush_touches _ _) (by decide)
    assumption
  · assumption

theorem execStreamFlush_touches : ∀ a0 a1 a2,
    ∃ t, execStreamFlush a0 a1 a2 = .next t ∧ Touches [.regs, .consoles, .streams] a2 t := by
  intro a0 a1 a2
  unfold execStreamFlush
  refine ⟨_, rfl, ?_⟩
  refine touches_ite ?_ ?_
  · refine touches_after ?_ (streamCtlWrite_touches _ _ _) (by decide)
    exact touches_refl _ _
  · exact touches_refl _ _

theorem partConsole_touches : ∀ a0 a1,
    Touches (.cyc :: .regs :: .spindles :: .pairs :: .groups :: .consoles :: .conJobs :: .pipes :: .streams :: []) a1 (partConsole a0 a1) := by
  intro a0 a1
  unfold partConsole
  extract_lets +onlyGivenNames x0
  refine touches_cut x0 ?_ (fun h0 => ?_)
  · unfold x0
    refine touches_ite ?_ ?_
    · refine touches_after ?_ (rasterStop_touches _ _) (by decide)
      exact touches_refl _ _
    · exact touches_refl _ _
  clear_value x0
  extract_lets +onlyGivenNames x1
  refine touches_cut x1 ?_ (fun h1 => ?_)
  · unfold x1
    refine touches_after ?_ (touch_conJobs_pipes _) (by decide)
    assumption
  clear_value x1
  extract_lets +onlyGivenNames x2
  refine touches_cut x2 ?_ (fun h2 => ?_)
  · unfold x2
    refine touches_forEach (fun _ _ _ => ?_) ?_
    · refine touches_after ?_ (State.setStream_touches _ _ _) (by decide)
      assumption
    · assumption
  clear_value x2
  refine touches_after ?_ (conEvent_touches _ _ _) (by decide)
  refine touches_after ?_ (setConState_touches _ _ _) (by decide)
  refine touches_after ?_ (State.setCon_touches _ _ _) (by decide)
  assumption

end Sys2Proof.Machine
end

