-- ==== Sys2Proof/Laws/TouchMover.lean ====
section
/-! SUPPORT. Which parts of the state the definitions of Machine/Mover.lean touch: one lemma for each, the proofs written by a
script from their shape. -/

namespace Sys2Proof.Machine

theorem setMvState_touches : ∀ a0 a1,
    Touches [.regs] a1 (setMvState a0 a1) := by
  intro a0 a1
  unfold setMvState
  refine touches_after ?_ (State.setFld_touches _ _ _ _ _) (by decide)
  exact touches_refl _ _

theorem mvEvent_touches : ∀ a0 a1,
    Touches [.cyc, .regs] a1 (mvEvent a0 a1) := by
  intro a0 a1
  unfold mvEvent
  refine touches_after ?_ (raiseStatus_touches _ _ _ _ _) (by decide)
  exact touches_refl _ _

theorem State.setMover_touches : ∀ a0 a1,
    Touches [.regs, .mover] a0 (State.setMover a0 a1) := by
  intro a0 a1
  unfold State.setMover
  refine touches_after ?_ (State.setReg_touches _ _ _) (by decide)
  refine touches_after ?_ (touch_mover _) (by decide)
  exact touches_refl _ _

theorem mvSubmit_touches : ∀ a0 a1,
    Touches [.regs, .mover] a1 (mvSubmit a0 a1).2 := by
  intro a0 a1
  unfold mvSubmit
  refine touches_ite_snd ?_ ?_
  · dsimp only
    exact touches_refl _ _
  · refine touches_ite_snd ?_ ?_
    · dsimp only
      exact touches_refl _ _
    · extract_lets +onlyGivenNames x0
      clear_value x0
      dsimp only
      refine touches_after ?_ (State.setMover_touches _ _) (by decide)
      exact touches_refl _ _

theorem execMvSubmit_touches : ∀ a0 a1,
    ∃ t, execMvSubmit a0 a1 = .next t ∧ Touches [.regs, .resp, .mover] a1 t := by
  intro a0 a1
  unfold execMvSubmit
  refine ⟨_, rfl, ?_⟩
  refine touches_ite ?_ ?_
  · refine touches_answerWith (by decide) ?_
    refine touches_after ?_ (mvSubmit_touches _ _) (by decide)
    exact touches_refl _ _
  · exact touches_refl _ _

theorem mvCheck_touches : ∀ a0 a1 a2,
    Touches [.freeCtr, .cyc, .regs, .iotlb, .checks] a2 (mvCheck a0 a1 a2).2 := by
  intro a0 a1 a2
  unfold mvCheck
  split
  · dsimp only
    refine touches_of_eq_snd ‹_› ?_
    refine touches_after ?_ (iommu_touches _ _ _ _) (by decide)
    exact touches_refl _ _
  · dsimp only
    refine touches_of_eq_snd ‹_› ?_
    refine touches_after ?_ (iommu_touches _ _ _ _) (by decide)
    exact touches_refl _ _

theorem MvJob.checks_touches : ∀ a0 a1 a2 a3,
    Touches [.freeCtr, .cyc, .regs, .iotlb, .checks] a3 (MvJob.checks a0 a1 a2 a3).2 := by
  intro a0 a1 a2 a3
  fun_induction MvJob.checks a0 a1 a2 a3
  · dsimp only
    exact touches_refl _ _
  · dsimp only
    rename_i r0_0 r0_1 r0_2
    unfold r0_0
    refine touches_ite_snd ?_ ?_
    · refine touches_after ?_ (mvCheck_touches _ _ _) (by decide)
      exact touches_refl _ _
    · dsimp only
      exact touches_refl _ _
  · dsimp only
    rename_i r1_0 r1_1 r1_2
    unfold r1_0
    refine touches_ite_snd ?_ ?_
    · refine touches_after ?_ (mvCheck_touches _ _ _) (by decide)
      rename_i r2_0 r2_1
      unfold r2_0
      refine touches_ite_snd ?_ ?_
      · refine touches_after ?_ (mvCheck_touches _ _ _) (by decide)
        exact touches_refl _ _
      · dsimp only
        exact touches_refl _ _
    · dsimp only
      rename_i r3_0 r3_1
      unfold r3_0
      refine touches_ite_snd ?_ ?_
      · refine touches_after ?_ (mvCheck_touches _ _ _) (by decide)
        exact touches_refl _ _
      · dsimp only
        exact touches_refl _ _
  · dsimp only
    rename_i r4_0 r4_1 r4_2
    unfold r4_0
    refine touches_after ?_ (mvCheck_touches _ _ _) (by decide)
    rename_i r5_0 r5_1
    unfold r5_0
    refine touches_ite_snd ?_ ?_
    · refine touches_after ?_ (mvCheck_touches _ _ _) (by decide)
      rename_i r6_0 r6_1
      unfold r6_0
      refine touches_ite_snd ?_ ?_
      · refine touches_after ?_ (mvCheck_touches _ _ _) (by decide)
        exact touches_refl _ _
      · dsimp only
        exact touches_refl _ _
    · dsimp only
      rename_i r7_0 r7_1
      unfold r7_0
      refine touches_ite_snd ?_ ?_
      · refine touches_after ?_ (mvCheck_touches _ _ _) (by decide)
        exact touches_refl _ _
      · dsimp only
        exact touches_refl _ _
  · refine touches_after ?_ ‹_› (fun _ h => h)
    rename_i r8_0 r8_1 r8_2
    unfold r8_0
    refine touches_after ?_ (mvCheck_touches _ _ _) (by decide)
    rename_i r9_0 r9_1
    unfold r9_0
    refine touches_ite_snd ?_ ?_
    · refine touches_after ?_ (mvCheck_touches _ _ _) (by decide)
      rename_i r10_0 r10_1
      unfold r10_0
      refine touches_ite_snd ?_ ?_
      · refine touches_after ?_ (mvCheck_touches _ _ _) (by decide)
        exact touches_refl _ _
      · dsimp only
        exact touches_refl _ _
    · dsimp only
      rename_i r11_0 r11_1
      unfold r11_0
      refine touches_ite_snd ?_ ?_
      · refine touches_after ?_ (mvCheck_touches _ _ _) (by decide)
        exact touches_refl _ _
      · dsimp only
        exact touches_refl _ _

theorem mvRead_touches : ∀ a0 a1 a2 a3,
    Touches [.freeCtr, .cyc, .regs, .iotlb, .checks] a3 (mvRead a0 a1 a2 a3).2 := by
  intro a0 a1 a2 a3
  unfold mvRead
  refine touches_ite_snd ?_ ?_
  · dsimp only
    exact touches_refl _ _
  · split
    · dsimp only
      refine touches_of_eq_snd ‹_› ?_
      refine touches_after ?_ (masterReadRun_touches _ _ _ _ _ _) (by decide)
      exact touches_refl _ _
    · dsimp only
      refine touches_of_eq_snd ‹_› ?_
      refine touches_after ?_ (masterReadRun_touches _ _ _ _ _ _) (by decide)
      exact touches_refl _ _

theorem MvJob.readSegment_touches : ∀ a0 a1 a2 a3,
    Touches [.freeCtr, .cyc, .regs, .iotlb, .checks] a3 (MvJob.readSegment a0 a1 a2 a3).2 := by
  intro a0 a1 a2 a3
  fun_induction MvJob.readSegment a0 a1 a2 a3
  · dsimp only
    exact touches_refl _ _
  · dsimp only
    refine touches_of_eq_snd ‹_› ?_
    refine touches_after ?_ (mvRead_touches _ _ _ _) (by decide)
    exact touches_refl _ _
  · dsimp only
    refine touches_of_eq_snd ‹_› ?_
    refine touches_after ?_ (mvRead_touches _ _ _ _) (by decide)
    refine touches_of_eq_snd ‹_› ?_
    refine touches_after ?_ (mvRead_touches _ _ _ _) (by decide)
    exact touches_refl _ _
  · dsimp only
    refine touches_of_eq_snd ‹_› ?_
    refine touches_after ?_ ‹_› (fun _ h => h)
    refine touches_of_eq_snd ‹_› ?_
    refine touches_after ?_ (mvRead_touches _ _ _ _) (by decide)
    refine touches_of_eq_snd ‹_› ?_
    refine touches_after ?_ (mvRead_touches _ _ _ _) (by decide)
    exact touches_refl _ _
  · dsimp only
    refine touches_of_eq_snd ‹_› ?_
    refine touches_after ?_ ‹_› (fun _ h => h)
    refine touches_of_eq_snd ‹_› ?_
    refine touches_after ?_ (mvRead_touches _ _ _ _) (by decide)
    refine touches_of_eq_snd ‹_› ?_
    refine touches_after ?_ (mvRead_touches _ _ _ _) (by decide)
    exact touches_refl _ _

theorem MvJob.keepPixel_touches : ∀ a0 a1 a2,
    Touches [.freeCtr, .cyc, .regs, .mover, .iotlb, .checks] a2 (MvJob.keepPixel a0 a1 a2) := by
  intro a0 a1 a2
  unfold MvJob.keepPixel
  split
  · refine touches_after ?_ (touch_mover _) (by decide)
    refine touches_of_eq_snd ‹_› ?_
    refine touches_after ?_ (masterReadRun_touches _ _ _ _ _ _) (by decide)
    exact touches_refl _ _
  · refine touches_of_eq_snd ‹_› ?_
    refine touches_after ?_ (masterReadRun_touches _ _ _ _ _ _) (by decide)
    exact touches_refl _ _

theorem MvJob.writeSegment_touches : ∀ a0 a1 a2 a3 a4,
    Touches (.freeCtr :: .cyc :: .regs :: .plate :: .cores :: .mover :: .dict :: .iotlb :: .mem :: .poison :: .checks :: []) a4 (MvJob.writeSegment a0 a1 a2 a3 a4) := by
  intro a0 a1 a2 a3 a4
  unfold MvJob.writeSegment
  refine touches_foldl (fun _ _ _ => ?_) ?_
  · extract_lets +onlyGivenNames x0
    clear_value x0
    refine touches_ite ?_ ?_
    · extract_lets +onlyGivenNames x1
      refine touches_cut_snd x1 ?_ (fun h1 => ?_)
      · unfold x1
        refine touches_after ?_ (takeFree_touches _ _) (by decide)
        assumption
      clear_value x1
      refine touches_after ?_ (masterWriteRun_touches _ _ _ _ _ _) (by decide)
      assumption
    · refine touches_ite ?_ ?_
      · extract_lets +onlyGivenNames x2
        refine touches_cut_snd x2 ?_ (fun h2 => ?_)
        · unfold x2
          refine touches_after ?_ (takeFree_touches _ _) (by decide)
          refine touches_after ?_ (MvJob.keepPixel_touches _ _ _) (by decide)
          assumption
        clear_value x2
        refine touches_after ?_ (masterWriteRun_touches _ _ _ _ _ _) (by decide)
        assumption
      · refine touches_after ?_ (masterWriteRun_touches _ _ _ _ _ _) (by decide)
        assumption
  · exact touches_refl _ _

theorem MvJob.moveRow_touches : ∀ a0 a1 a2 a3,
    Touches (.freeCtr :: .cyc :: .regs :: .plate :: .cores :: .mover :: .dict :: .iotlb :: .mem :: .poison :: .checks :: []) a3 (MvJob.moveRow a0 a1 a2 a3).2 := by
  intro a0 a1 a2 a3
  fun_induction MvJob.moveRow a0 a1 a2 a3
  · dsimp only
    exact touches_refl _ _
  · dsimp only
    refine touches_of_eq_snd ‹_› ?_
    refine touches_after ?_ (MvJob.readSegment_touches _ _ _ _) (by decide)
    exact touches_refl _ _
  · refine touches_after ?_ ‹_› (fun _ h => h)
    refine touches_after ?_ (MvJob.writeSegment_touches _ _ _ _ _) (by decide)
    refine touches_of_eq_snd ‹_› ?_
    refine touches_after ?_ (MvJob.readSegment_touches _ _ _ _) (by decide)
    exact touches_refl _ _

theorem mvFaddr_touches : ∀ a0 a1,
    Touches [.regs] a1 (mvFaddr a0 a1) := by
  intro a0 a1
  unfold mvFaddr
  refine touches_after ?_ (State.setReg_touches _ _ _) (by decide)
  refine touches_after ?_ (State.setReg_touches _ _ _) (by decide)
  exact touches_refl _ _

theorem MvJob.fail_touches : ∀ a0 a1 a2 a3,
    Touches (.freeCtr :: .cyc :: .regs :: .plate :: .cores :: .mover :: .dict :: .iotlb :: .mem :: .poison :: .checks :: []) a3 (MvJob.fail a0 a1 a2 a3) := by
  intro a0 a1 a2 a3
  unfold MvJob.fail
  extract_lets +onlyGivenNames x0
  refine touches_cut x0 ?_ (fun h0 => ?_)
  · unfold x0
    refine touches_after ?_ (MvJob.writeSegment_touches _ _ _ _ _) (by decide)
    exact touches_refl _ _
  clear_value x0
  extract_lets +onlyGivenNames x1
  refine touches_cut x1 ?_ (fun h1 => ?_)
  · unfold x1
    refine touches_after ?_ (fetchCheck_touches _ _ _) (by decide)
    assumption
  clear_value x1
  refine touches_after ?_ (mvEvent_touches _ _) (by decide)
  refine touches_after ?_ (setMvState_touches _ _) (by decide)
  refine touches_after ?_ (mvFaddr_touches _ _) (by decide)
  refine touches_after ?_ (State.setMover_touches _ _) (by decide)
  assumption

theorem MvJob.rowDone_touches : ∀ a0 a1 a2,
    Touches [.cyc, .regs, .mover] a2 (MvJob.rowDone a0 a1 a2) := by
  intro a0 a1 a2
  unfold MvJob.rowDone
  extract_lets +onlyGivenNames x0
  refine touches_cut x0 ?_ (fun h0 => ?_)
  · unfold x0
    refine touches_after ?_ (State.setReg_touches _ _ _) (by decide)
    exact touches_refl _ _
  clear_value x0
  refine touches_ite ?_ ?_
  · extract_lets +onlyGivenNames x1
    clear_value x1
    extract_lets +onlyGivenNames x2
    refine touches_cut x2 ?_ (fun h2 => ?_)
    · unfold x2
      refine touches_after ?_ (setMvState_touches _ _) (by decide)
      refine touches_after ?_ (State.setMover_touches _ _) (by decide)
      assumption
    clear_value x2
    refine touches_ite ?_ ?_
    · refine touches_after ?_ (mvEvent_touches _ _) (by decide)
      assumption
    · assumption
  · assumption

theorem moverRowEff_touches : ∀ a0,
    Touches (.freeCtr :: .cyc :: .regs :: .plate :: .cores :: .mover :: .dict :: .iotlb :: .mem :: .poison :: .checks :: []) a0 (moverRowEff a0) := by
  intro a0
  unfold moverRowEff
  split
  · exact touches_refl _ _
  · refine touches_ite ?_ ?_
    · exact touches_refl _ _
    · extract_lets +onlyGivenNames x0
      clear_value x0
      extract_lets +onlyGivenNames x1
      clear_value x1
      extract_lets +onlyGivenNames x2
      clear_value x2
      split
      · refine touches_after ?_ (MvJob.fail_touches _ _ _ _) (by decide)
        refine touches_of_eq_snd ‹_› ?_
        refine touches_after ?_ (MvJob.checks_touches _ _ _ _) (by decide)
        exact touches_refl _ _
      · refine touches_after ?_ (mvEvent_touches _ _) (by decide)
        refine touches_after ?_ (setMvState_touches _ _) (by decide)
        refine touches_after ?_ (mvFaddr_touches _ _) (by decide)
        refine touches_of_eq_snd ‹_› ?_
        refine touches_after ?_ (MvJob.checks_touches _ _ _ _) (by decide)
        exact touches_refl _ _
      · split
        · refine touches_after ?_ (MvJob.fail_touches _ _ _ _) (by decide)
          refine touches_of_eq_snd ‹_› ?_
          refine touches_after ?_ (MvJob.moveRow_touches _ _ _ _) (by decide)
          refine touches_of_eq_snd ‹_› ?_
          refine touches_after ?_ (MvJob.checks_touches _ _ _ _) (by decide)
          exact touches_refl _ _
        · refine touches_after ?_ (MvJob.rowDone_touches _ _ _) (by decide)
          refine touches_of_eq_snd ‹_› ?_
          refine touches_after ?_ (MvJob.moveRow_touches _ _ _ _) (by decide)
          refine touches_of_eq_snd ‹_› ?_
          refine touches_after ?_ (MvJob.checks_touches _ _ _ _) (by decide)
          exact touches_refl _ _

theorem execMoverRow_touches : ∀ a0,
    ∃ t, execMoverRow a0 = .next t ∧ Touches (.freeCtr :: .cyc :: .regs :: .plate :: .cores :: .mover :: .dict :: .iotlb :: .mem :: .poison :: .checks :: []) a0 t := by
  intro a0
  unfold execMoverRow
  refine ⟨_, rfl, ?_⟩
  refine touches_ite ?_ ?_
  · refine touches_after ?_ (moverRowEff_touches _) (by decide)
    exact touches_refl _ _
  · exact touches_refl _ _

theorem startJob_touches : ∀ a0 a1,
    Touches [.regs, .mover] a1 (startJob a0 a1) := by
  intro a0 a1
  unfold startJob
  refine touches_ite ?_ ?_
  · exact touches_refl _ _
  · split
    · exact touches_refl _ _
    · refine touches_ite ?_ ?_
      · refine touches_after ?_ (setMvState_touches _ _) (by decide)
        refine touches_after ?_ (State.setReg_touches _ _ _) (by decide)
        refine touches_after ?_ (State.setReg_touches _ _ _) (by decide)
        refine touches_after ?_ (State.setMover_touches _ _) (by decide)
        exact touches_refl _ _
      · exact touches_refl _ _

theorem execCopy_touches : ∀ a0,
    ∃ t, execCopy a0 = .next t ∧ Touches [.regs, .mover] a0 t := by
  intro a0
  unfold execCopy
  refine ⟨_, rfl, ?_⟩
  refine touches_ite ?_ ?_
  · refine touches_after ?_ (startJob_touches _ _) (by decide)
    exact touches_refl _ _
  · exact touches_refl _ _

theorem execFill_touches : ∀ a0,
    ∃ t, execFill a0 = .next t ∧ Touches [.regs, .mover] a0 t := by
  intro a0
  unfold execFill
  refine ⟨_, rfl, ?_⟩
  refine touches_ite ?_ ?_
  · refine touches_after ?_ (startJob_touches _ _) (by decide)
    exact touches_refl _ _
  · exact touches_refl _ _

theorem execBlend_touches : ∀ a0,
    ∃ t, execBlend a0 = .next t ∧ Touches [.regs, .mover] a0 t := by
  intro a0
  unfold execBlend
  refine ⟨_, rfl, ?_⟩
  refine touches_ite ?_ ?_
  · refine touches_after ?_ (startJob_touches _ _) (by decide)
    exact touches_refl _ _
  · exact touches_refl _ _

theorem execKeyfill_touches : ∀ a0,
    ∃ t, execKeyfill a0 = .next t ∧ Touches [.regs, .mover] a0 t := by
  intro a0
  unfold execKeyfill
  refine ⟨_, rfl, ?_⟩
  refine touches_ite ?_ ?_
  · refine touches_after ?_ (startJob_touches _ _) (by decide)
    exact touches_refl _ _
  · exact touches_refl _ _

theorem mvSuspend_touches : ∀ a0,
    Touches [.cyc, .regs] a0 (mvSuspend a0) := by
  intro a0
  unfold mvSuspend
  refine touches_ite ?_ ?_
  · refine touches_after ?_ (mvEvent_touches _ _) (by decide)
    refine touches_after ?_ (setMvState_touches _ _) (by decide)
    exact touches_refl _ _
  · exact touches_refl _ _

theorem mvResume_touches : ∀ a0,
    Touches [.regs] a0 (mvResume a0) := by
  intro a0
  unfold mvResume
  refine touches_ite ?_ ?_
  · refine touches_after ?_ (setMvState_touches _ _) (by decide)
    exact touches_refl _ _
  · exact touches_refl _ _

theorem mvRestart_touches : ∀ a0,
    Touches [.regs] a0 (mvRestart a0) := by
  intro a0
  unfold mvRestart
  refine touches_ite ?_ ?_
  · refine touches_after ?_ (setMvState_touches _ _) (by decide)
    exact touches_refl _ _
  · exact touches_refl _ _

theorem mvFlush_touches : ∀ a0,
    Touches [.regs, .mover] a0 (mvFlush a0) := by
  intro a0
  unfold mvFlush
  extract_lets +onlyGivenNames x0
  clear_value x0
  extract_lets +onlyGivenNames x1
  refine touches_cut x1 ?_ (fun h1 => ?_)
  · unfold x1
    refine touches_after ?_ (State.setMover_touches _ _) (by decide)
    exact touches_refl _ _
  clear_value x1
  refine touches_ite ?_ ?_
  · refine touches_after ?_ (setMvState_touches _ _) (by decide)
    assumption
  · assumption

theorem mvCtlWrite_touches : ∀ a0 a1,
    Touches [.cyc, .regs, .mover] a1 (mvCtlWrite a0 a1) := by
  intro a0 a1
  unfold mvCtlWrite
  extract_lets +onlyGivenNames x0
  clear_value x0
  extract_lets +onlyGivenNames x1
  clear_value x1
  extract_lets +onlyGivenNames x2
  refine touches_cut x2 ?_ (fun h2 => ?_)
  · unfold x2
    refine touches_after ?_ (State.setReg_touches _ _ _) (by decide)
    exact touches_refl _ _
  clear_value x2
  extract_lets +onlyGivenNames x3
  clear_value x3
  extract_lets +onlyGivenNames x4
  refine touches_cut x4 ?_ (fun h4 => ?_)
  · unfold x4
    refine touches_ite ?_ ?_
    · refine touches_after ?_ (State.setMover_touches _ _) (by decide)
      assumption
    · assumption
  clear_value x4
  extract_lets +onlyGivenNames x5
  clear_value x5
  extract_lets +onlyGivenNames x6
  refine touches_cut x6 ?_ (fun h6 => ?_)
  · unfold x6
    refine touches_ite ?_ ?_
    · refine touches_ite ?_ ?_
      · refine touches_after ?_ (State.setMover_touches _ _) (by decide)
        assumption
      · refine touches_ite ?_ ?_
        · refine touches_after ?_ (setMvState_touches _ _) (by decide)
          refine touches_after ?_ (State.setMover_touches _ _) (by decide)
          assumption
        · assumption
    · assumption
  clear_value x6
  extract_lets +onlyGivenNames x7
  refine touches_cut x7 ?_ (fun h7 => ?_)
  · unfold x7
    refine touches_ite ?_ ?_
    · refine touches_after ?_ (mvSuspend_touches _) (by decide)
      assumption
    · assumption
  clear_value x7
  extract_lets +onlyGivenNames x8
  refine touches_cut x8 ?_ (fun h8 => ?_)
  · unfold x8
    refine touches_ite ?_ ?_
    · refine touches_after ?_ (mvResume_touches _) (by decide)
      assumption
    · assumption
  clear_value x8
  extract_lets +onlyGivenNames x9
  refine touches_cut x9 ?_ (fun h9 => ?_)
  · unfold x9
    refine touches_ite ?_ ?_
    · refine touches_after ?_ (mvRestart_touches _) (by decide)
      assumption
    · assumption
  clear_value x9
  refine touches_ite ?_ ?_
  · refine touches_after ?_ (mvFlush_touches _) (by decide)
    assumption
  · assumption

theorem execMoverSuspend_touches : ∀ a0 a1,
    ∃ t, execMoverSuspend a0 a1 = .next t ∧ Touches [.cyc, .regs, .mover] a1 t := by
  intro a0 a1
  unfold execMoverSuspend
  refine ⟨_, rfl, ?_⟩
  refine touches_ite ?_ ?_
  · refine touches_after ?_ (mvCtlWrite_touches _ _) (by decide)
    exact touches_refl _ _
  · exact touches_refl _ _

theorem execMoverResume_touches : ∀ a0 a1,
    ∃ t, execMoverResume a0 a1 = .next t ∧ Touches [.cyc, .regs, .mover] a1 t := by
  intro a0 a1
  unfold execMoverResume
  refine ⟨_, rfl, ?_⟩
  refine touches_ite ?_ ?_
  · refine touches_after ?_ (mvCtlWrite_touches _ _) (by decide)
    exact touches_refl _ _
  · exact touches_refl _ _

theorem execMoverRestart_touches : ∀ a0 a1,
    ∃ t, execMoverRestart a0 a1 = .next t ∧ Touches [.cyc, .regs, .mover] a1 t := by
  intro a0 a1
  unfold execMoverRestart
  refine ⟨_, rfl, ?_⟩
  refine touches_ite ?_ ?_
  · refine touches_after ?_ (mvCtlWrite_touches _ _) (by decide)
    exact touches_refl _ _
  · exact touches_refl _ _

theorem execMoverFlush_touches : ∀ a0 a1,
    ∃ t, execMoverFlush a0 a1 = .next t ∧ Touches [.cyc, .regs, .mover] a1 t := by
  intro a0 a1
  unfold execMoverFlush
  refine ⟨_, rfl, ?_⟩
  refine touches_ite ?_ ?_
  · refine touches_after ?_ (mvCtlWrite_touches _ _) (by decide)
    exact touches_refl _ _
  · exact touches_refl _ _

theorem partMover_touches : ∀ a0,
    Touches [.cyc, .regs, .mover] a0 (partMover a0) := by
  intro a0
  unfold partMover
  refine touches_after ?_ (mvEvent_touches _ _) (by decide)
  refine touches_after ?_ (setMvState_touches _ _) (by decide)
  refine touches_after ?_ (State.setMover_touches _ _) (by decide)
  exact touches_refl _ _

end Sys2Proof.Machine
end

