-- ==== Sys2Proof/Laws/TouchDisplay.lean ====
section
/-! SUPPORT. Which parts of the state the definitions of Machine/Display.lean touch: one lemma for each, the proofs written by a
script from their shape. -/

namespace Sys2Proof.Machine

theorem State.setHead_touches : ∀ a0 a1 a2,
    Touches [.heads] a0 (State.setHead a0 a1 a2) := by
  intro a0 a1 a2
  unfold State.setHead
  refine touches_after ?_ (touch_heads _) (by decide)
  exact touches_refl _ _

theorem setHdState_touches : ∀ a0 a1 a2,
    Touches [.regs] a2 (setHdState a0 a1 a2) := by
  intro a0 a1 a2
  unfold setHdState
  refine touches_after ?_ (State.setFld_touches _ _ _ _ _) (by decide)
  exact touches_refl _ _

theorem hdEvent_touches : ∀ a0 a1 a2,
    Touches [.cyc, .regs] a2 (hdEvent a0 a1 a2) := by
  intro a0 a1 a2
  unfold hdEvent
  refine touches_after ?_ (raiseStatus_touches _ _ _ _ _) (by decide)
  exact touches_refl _ _

theorem dpEvent_touches : ∀ a0 a1 a2,
    Touches [.cyc, .regs] a2 (dpEvent a0 a1 a2) := by
  intro a0 a1 a2
  unfold dpEvent
  refine touches_after ?_ (raiseStatus_touches _ _ _ _ _) (by decide)
  exact touches_refl _ _

theorem activate_touches : ∀ a0 a1,
    Touches [.active] a1 (activate a0 a1) := by
  intro a0 a1
  unfold activate
  refine touches_after ?_ (touch_active _) (by decide)
  exact touches_refl _ _

theorem headUndefined_touches : ∀ a0 a1,
    Touches [.freeCtr, .regs] a1 (headUndefined a0 a1) := by
  intro a0 a1
  unfold headUndefined
  extract_lets +onlyGivenNames x0
  refine touches_cut_snd x0 ?_ (fun h0 => ?_)
  · unfold x0
    refine touches_after ?_ (takeFree_touches _ _) (by decide)
    exact touches_refl _ _
  clear_value x0
  extract_lets +onlyGivenNames x1
  refine touches_cut_snd x1 ?_ (fun h1 => ?_)
  · unfold x1
    refine touches_after ?_ (takeFree_touches _ _) (by decide)
    assumption
  clear_value x1
  extract_lets +onlyGivenNames x2
  refine touches_cut_snd x2 ?_ (fun h2 => ?_)
  · unfold x2
    refine touches_after ?_ (takeFree_touches _ _) (by decide)
    assumption
  clear_value x2
  refine touches_after ?_ (State.setReg_touches _ _ _) (by decide)
  refine touches_after ?_ (State.setReg_touches _ _ _) (by decide)
  refine touches_after ?_ (State.setReg_touches _ _ _) (by decide)
  assumption

theorem State.headRefuses_touches : ∀ a0 a1,
    Touches [.freeCtr] a0 (State.headRefuses a0 a1).2 := by
  intro a0 a1
  unfold State.headRefuses
  extract_lets +onlyGivenNames x0
  refine touches_cut_snd x0 ?_ (fun h0 => ?_)
  · unfold x0
    refine touches_after ?_ (takeFree_touches _ _) (by decide)
    exact touches_refl _ _
  clear_value x0
  refine touches_ite_snd ?_ ?_
  · dsimp only
    exact touches_refl _ _
  · refine touches_ite_snd ?_ ?_
    · dsimp only
      exact touches_refl _ _
    · dsimp only
      assumption

theorem headEnable_touches : ∀ a0 a1,
    Touches [.freeCtr, .cyc, .regs, .active, .heads] a1 (headEnable a0 a1) := by
  intro a0 a1
  unfold headEnable
  extract_lets +onlyGivenNames x0
  refine touches_cut x0 ?_ (fun h0 => ?_)
  · unfold x0
    refine touches_after ?_ (State.headRefuses_touches _ _) (by decide)
    exact touches_refl _ _
  clear_value x0
  refine touches_ite ?_ ?_
  · refine touches_after ?_ (dpEvent_touches _ _ _) (by decide)
    refine touches_after ?_ (State.setBit_touches _ _ _ _) (by decide)
    assumption
  · refine touches_after ?_ (State.setHead_touches _ _ _) (by decide)
    refine touches_after ?_ (activate_touches _ _) (by decide)
    refine touches_after ?_ (State.setBit_touches _ _ _ _) (by decide)
    assumption

theorem headDisable_touches : ∀ a0 a1,
    Touches [.cyc, .regs, .spindles, .pairs, .groups, .heads] a1 (headDisable a0 a1) := by
  intro a0 a1
  unfold headDisable
  refine touches_after ?_ (setHdState_touches _ _ _) (by decide)
  refine touches_after ?_ (rasterStop_touches _ _) (by decide)
  refine touches_after ?_ (State.setHead_touches _ _ _) (by decide)
  refine touches_after ?_ (State.setBit_touches _ _ _ _) (by decide)
  exact touches_refl _ _

theorem hdCtlWrite_touches : ∀ a0 a1 a2,
    Touches (.freeCtr :: .cyc :: .regs :: .spindles :: .pairs :: .groups :: .active :: .heads :: []) a2 (hdCtlWrite a0 a1 a2) := by
  intro a0 a1 a2
  unfold hdCtlWrite
  extract_lets +onlyGivenNames x0
  clear_value x0
  extract_lets +onlyGivenNames x1
  refine touches_cut x1 ?_ (fun h1 => ?_)
  · unfold x1
    refine touches_after ?_ (State.setReg_touches _ _ _) (by decide)
    exact touches_refl _ _
  clear_value x1
  refine touches_ite ?_ ?_
  · refine touches_after ?_ (headEnable_touches _ _) (by decide)
    assumption
  · refine touches_ite ?_ ?_
    · refine touches_after ?_ (headDisable_touches _ _) (by decide)
      assumption
    · assumption

theorem execHeadEnable_touches : ∀ a0 a1 a2,
    ∃ t, execHeadEnable a0 a1 a2 = .next t ∧ Touches (.freeCtr :: .cyc :: .regs :: .spindles :: .pairs :: .groups :: .active :: .heads :: []) a2 t := by
  intro a0 a1 a2
  unfold execHeadEnable
  refine ⟨_, rfl, ?_⟩
  refine touches_ite ?_ ?_
  · refine touches_after ?_ (hdCtlWrite_touches _ _ _) (by decide)
    exact touches_refl _ _
  · exact touches_refl _ _

theorem execHeadDisable_touches : ∀ a0 a1 a2,
    ∃ t, execHeadDisable a0 a1 a2 = .next t ∧ Touches (.freeCtr :: .cyc :: .regs :: .spindles :: .pairs :: .groups :: .active :: .heads :: []) a2 t := by
  intro a0 a1 a2
  unfold execHeadDisable
  refine ⟨_, rfl, ?_⟩
  refine touches_ite ?_ ?_
  · refine touches_after ?_ (hdCtlWrite_touches _ _ _) (by decide)
    exact touches_refl _ _
  · exact touches_refl _ _

theorem setVideoPll_touches : ∀ a0 a1 a2,
    Touches [.sys] a2 (setVideoPll a0 a1 a2) := by
  intro a0 a1 a2
  unfold setVideoPll
  refine touches_ite ?_ ?_
  · refine touches_after ?_ (touch_sys _ (by rfl)) (by decide)
    exact touches_refl _ _
  · refine touches_after ?_ (touch_sys _ (by rfl)) (by decide)
    exact touches_refl _ _

theorem divideBuffer_touches : ∀ a0 a1,
    Touches [.heads] a1 (divideBuffer a0 a1) := by
  intro a0 a1
  unfold divideBuffer
  extract_lets +onlyGivenNames x0
  clear_value x0
  extract_lets +onlyGivenNames x1
  clear_value x1
  refine touches_after ?_ (State.setHead_touches _ _ _) (by decide)
  exact touches_refl _ _

theorem videoLockEff_touches : ∀ a0 a1,
    Touches (.freeCtr :: .cyc :: .regs :: .sys :: .spindles :: .pairs :: .groups :: .plate :: .heads :: []) a1 (videoLockEff a0 a1) := by
  intro a0 a1
  unfold videoLockEff
  refine touches_ite ?_ ?_
  · exact touches_refl _ _
  · extract_lets +onlyGivenNames x0
    clear_value x0
    extract_lets +onlyGivenNames x1
    refine touches_cut x1 ?_ (fun h1 => ?_)
    · unfold x1
      refine touches_after ?_ (setVideoPll_touches _ _ _) (by decide)
      refine touches_after ?_ (State.setHead_touches _ _ _) (by decide)
      exact touches_refl _ _
    clear_value x1
    extract_lets +onlyGivenNames x2
    refine touches_cut x2 ?_ (fun h2 => ?_)
    · unfold x2
      refine touches_after ?_ (rasterStart_touches _ _ _ _ _ _) (by decide)
      assumption
    clear_value x2
    extract_lets +onlyGivenNames x3
    refine touches_cut x3 ?_ (fun h3 => ?_)
    · unfold x3
      refine touches_after ?_ (divideBuffer_touches _ _) (by decide)
      refine touches_after ?_ (setHdState_touches _ _ _) (by decide)
      assumption
    clear_value x3
    refine touches_ite ?_ ?_
    · refine touches_after ?_ (headUndefined_touches _ _) (by decide)
      assumption
    · assumption

theorem execVideoPllLock_touches : ∀ a0 a1,
    ∃ t, execVideoPllLock a0 a1 = .next t ∧ Touches (.freeCtr :: .cyc :: .regs :: .sys :: .spindles :: .pairs :: .groups :: .plate :: .heads :: []) a1 t := by
  intro a0 a1
  unfold execVideoPllLock
  refine ⟨_, rfl, ?_⟩
  refine touches_ite ?_ ?_
  · refine touches_after ?_ (videoLockEff_touches _ _) (by decide)
    exact touches_refl _ _
  · exact touches_refl _ _

theorem headPllLost_touches : ∀ a0 a1,
    Touches [.cyc, .regs, .sys, .spindles, .pairs, .groups] a1 (headPllLost a0 a1) := by
  intro a0 a1
  unfold headPllLost
  extract_lets +onlyGivenNames x0
  refine touches_cut x0 ?_ (fun h0 => ?_)
  · unfold x0
    refine touches_after ?_ (setVideoPll_touches _ _ _) (by decide)
    exact touches_refl _ _
  clear_value x0
  extract_lets +onlyGivenNames x1
  clear_value x1
  refine touches_ite ?_ ?_
  · assumption
  · extract_lets +onlyGivenNames x2
    clear_value x2
    extract_lets +onlyGivenNames x3
    refine touches_cut x3 ?_ (fun h3 => ?_)
    · unfold x3
      refine touches_after ?_ (setHdState_touches _ _ _) (by decide)
      refine touches_after ?_ (State.setSpn_touches _ _ _) (by decide)
      assumption
    clear_value x3
    refine touches_ite ?_ ?_
    · refine touches_after ?_ (setSpnState_touches _ _ _) (by decide)
      assumption
    · assumption

theorem commitWrite_touches : ∀ a0 a1 a2,
    Touches [.regs] a2 (commitWrite a0 a1 a2) := by
  intro a0 a1 a2
  unfold commitWrite
  refine touches_ite ?_ ?_
  · refine touches_after ?_ (State.setBit_touches _ _ _ _) (by decide)
    exact touches_refl _ _
  · exact touches_refl _ _

theorem execHdCommit_touches : ∀ a0 a1 a2,
    ∃ t, execHdCommit a0 a1 a2 = .next t ∧ Touches [.regs] a2 t := by
  intro a0 a1 a2
  unfold execHdCommit
  refine ⟨_, rfl, ?_⟩
  refine touches_ite ?_ ?_
  · refine touches_after ?_ (commitWrite_touches _ _ _) (by decide)
    exact touches_refl _ _
  · exact touches_refl _ _

theorem dropLive_touches : ∀ a0 a1,
    Touches [.liveLines] a1 (dropLive a0 a1) := by
  intro a0 a1
  unfold dropLive
  refine touches_after ?_ (touch_liveLines _) (by decide)
  exact touches_refl _ _

theorem psrLatch_touches : ∀ a0 a1 a2 a3,
    Touches [.cyc, .regs, .heads] a3 (psrLatch a0 a1 a2 a3) := by
  intro a0 a1 a2 a3
  unfold psrLatch
  extract_lets +onlyGivenNames x0
  clear_value x0
  extract_lets +onlyGivenNames x1
  clear_value x1
  extract_lets +onlyGivenNames x2
  refine touches_cut x2 ?_ (fun h2 => ?_)
  · unfold x2
    refine touches_after ?_ (State.setHead_touches _ _ _) (by decide)
    exact touches_refl _ _
  clear_value x2
  refine touches_ite ?_ ?_
  · refine touches_ite ?_ ?_
    · refine touches_after ?_ (hdEvent_touches _ _ _) (by decide)
      refine touches_after ?_ (setHdState_touches _ _ _) (by decide)
      refine touches_after ?_ (State.setHead_touches _ _ _) (by decide)
      assumption
    · refine touches_after ?_ (dpEvent_touches _ _ _) (by decide)
      assumption
  · refine touches_ite ?_ ?_
    · refine touches_after ?_ (setHdState_touches _ _ _) (by decide)
      refine touches_after ?_ (State.setHead_touches _ _ _) (by decide)
      assumption
    · assumption

theorem commitLatchEff_touches : ∀ a0 a1,
    Touches [.freeCtr, .cyc, .regs, .liveLines, .active, .heads] a1 (commitLatchEff a0 a1) := by
  intro a0 a1
  unfold commitLatchEff
  refine touches_ite ?_ ?_
  · exact touches_refl _ _
  · extract_lets +onlyGivenNames x0
    clear_value x0
    extract_lets +onlyGivenNames x1
    refine touches_cut x1 ?_ (fun h1 => ?_)
    · unfold x1
      refine touches_ite ?_ ?_
      · refine touches_after ?_ (activate_touches _ _) (by decide)
        refine touches_after ?_ (State.setBit_touches _ _ _ _) (by decide)
        exact touches_refl _ _
      · exact touches_refl _ _
    clear_value x1
    extract_lets +onlyGivenNames x2
    refine touches_cut x2 ?_ (fun h2 => ?_)
    · unfold x2
      refine touches_after ?_ (hdEvent_touches _ _ _) (by decide)
      assumption
    clear_value x2
    extract_lets +onlyGivenNames x3
    clear_value x3
    extract_lets +onlyGivenNames x4
    refine touches_cut x4 ?_ (fun h4 => ?_)
    · unfold x4
      refine touches_after ?_ (psrLatch_touches _ _ _ _) (by decide)
      assumption
    clear_value x4
    extract_lets +onlyGivenNames x5
    refine touches_cut x5 ?_ (fun h5 => ?_)
    · unfold x5
      refine touches_ite ?_ ?_
      · refine touches_after ?_ (dropLive_touches _ _) (by decide)
        assumption
      · assumption
    clear_value x5
    extract_lets +onlyGivenNames x6
    clear_value x6
    extract_lets +onlyGivenNames x7
    refine touches_cut x7 ?_ (fun h7 => ?_)
    · unfold x7
      refine touches_after ?_ (divideBuffer_touches _ _) (by decide)
      refine touches_after ?_ (State.setHead_touches _ _ _) (by decide)
      assumption
    clear_value x7
    refine touches_ite ?_ ?_
    · refine touches_after ?_ (headUndefined_touches _ _) (by decide)
      assumption
    · assumption

theorem execCommitLatch_touches : ∀ a0 a1,
    ∃ t, execCommitLatch a0 a1 = .next t ∧ Touches [.freeCtr, .cyc, .regs, .liveLines, .active, .heads] a1 t := by
  intro a0 a1
  unfold execCommitLatch
  refine ⟨_, rfl, ?_⟩
  refine touches_ite ?_ ?_
  · refine touches_after ?_ (commitLatchEff_touches _ _) (by decide)
    exact touches_refl _ _
  · exact touches_refl _ _

theorem psrExitEff_touches : ∀ a0 a1,
    Touches [.cyc, .regs, .liveLines, .heads] a1 (psrExitEff a0 a1) := by
  intro a0 a1
  unfold psrExitEff
  extract_lets +onlyGivenNames x0
  clear_value x0
  refine touches_ite ?_ ?_
  · exact touches_refl _ _
  · extract_lets +onlyGivenNames x1
    clear_value x1
    extract_lets +onlyGivenNames x2
    refine touches_cut x2 ?_ (fun h2 => ?_)
    · unfold x2
      refine touches_after ?_ (hdEvent_touches _ _ _) (by decide)
      refine touches_after ?_ (setHdState_touches _ _ _) (by decide)
      refine touches_after ?_ (dropLive_touches _ _) (by decide)
      refine touches_after ?_ (State.setHead_touches _ _ _) (by decide)
      exact touches_refl _ _
    clear_value x2
    refine touches_ite ?_ ?_
    · refine touches_ite ?_ ?_
      · refine touches_after ?_ (dpEvent_touches _ _ _) (by decide)
        assumption
      · split
        · extract_lets +onlyGivenNames x3
          clear_value x3
          refine touches_after ?_ (State.setReg_touches _ _ _) (by decide)
          assumption
        · assumption
    · assumption

theorem execPsrExit_touches : ∀ a0 a1,
    ∃ t, execPsrExit a0 a1 = .next t ∧ Touches [.cyc, .regs, .liveLines, .heads] a1 t := by
  intro a0 a1
  unfold execPsrExit
  refine ⟨_, rfl, ?_⟩
  refine touches_ite ?_ ?_
  · refine touches_after ?_ (psrExitEff_touches _ _) (by decide)
    exact touches_refl _ _
  · exact touches_refl _ _

theorem layerRefillEff_touches : ∀ a0 a1 a2,
    Touches [.heads] a2 (layerRefillEff a0 a1 a2) := by
  intro a0 a1 a2
  unfold layerRefillEff
  extract_lets +onlyGivenNames x0
  clear_value x0
  extract_lets +onlyGivenNames x1
  clear_value x1
  refine touches_ite ?_ ?_
  · refine touches_after ?_ (State.setHead_touches _ _ _) (by decide)
    exact touches_refl _ _
  · exact touches_refl _ _

theorem execLayerRefill_touches : ∀ a0 a1 a2,
    ∃ t, execLayerRefill a0 a1 a2 = .next t ∧ Touches [.heads] a2 t := by
  intro a0 a1 a2
  unfold execLayerRefill
  refine ⟨_, rfl, ?_⟩
  refine touches_ite ?_ ?_
  · refine touches_after ?_ (layerRefillEff_touches _ _ _) (by decide)
    exact touches_refl _ _
  · exact touches_refl _ _

theorem fillPixels_touches : ∀ a0 a1 a2 a3 a4 a5,
    Touches [.heads] a5 (fillPixels a0 a1 a2 a3 a4 a5) := by
  intro a0 a1 a2 a3 a4 a5
  unfold fillPixels
  refine touches_after ?_ (State.setHead_touches _ _ _) (by decide)
  exact touches_refl _ _

theorem underrunEff_touches : ∀ a0 a1 a2 a3 a4,
    Touches [.cyc, .regs, .heads] a4 (underrunEff a0 a1 a2 a3 a4) := by
  intro a0 a1 a2 a3 a4
  unfold underrunEff
  refine touches_ite ?_ ?_
  · refine touches_after ?_ (hdEvent_touches _ _ _) (by decide)
    refine touches_after ?_ (rcUp_touches _ _ _ _) (by decide)
    refine touches_after ?_ (fillPixels_touches _ _ _ _ _ _) (by decide)
    exact touches_refl _ _
  · exact touches_refl _ _

theorem execUnderrun_touches : ∀ a0 a1 a2 a3 a4,
    ∃ t, execUnderrun a0 a1 a2 a3 a4 = .next t ∧ Touches [.cyc, .regs, .heads] a4 t := by
  intro a0 a1 a2 a3 a4
  unfold execUnderrun
  refine ⟨_, rfl, ?_⟩
  refine touches_ite ?_ ?_
  · refine touches_after ?_ (underrunEff_touches _ _ _ _ _) (by decide)
    exact touches_refl _ _
  · exact touches_refl _ _

theorem layerFaultEff_touches : ∀ a0 a1 a2 a3 a4 a5 a6,
    Touches [.freeCtr, .cyc, .regs, .heads, .iotlb, .checks] a6 (layerFaultEff a0 a1 a2 a3 a4 a5 a6) := by
  intro a0 a1 a2 a3 a4 a5 a6
  unfold layerFaultEff
  refine touches_ite ?_ ?_
  · refine touches_after ?_ (hdEvent_touches _ _ _) (by decide)
    refine touches_after ?_ (fillPixels_touches _ _ _ _ _ _) (by decide)
    refine touches_after ?_ (iommu_touches _ _ _ _) (by decide)
    exact touches_refl _ _
  · exact touches_refl _ _

theorem execLayerFetchFault_touches : ∀ a0 a1 a2 a3 a4 a5 a6,
    ∃ t, execLayerFetchFault a0 a1 a2 a3 a4 a5 a6 = .next t ∧ Touches [.freeCtr, .cyc, .regs, .heads, .iotlb, .checks] a6 t := by
  intro a0 a1 a2 a3 a4 a5 a6
  unfold execLayerFetchFault
  refine ⟨_, rfl, ?_⟩
  refine touches_ite ?_ ?_
  · refine touches_after ?_ (layerFaultEff_touches _ _ _ _ _ _ _) (by decide)
    exact touches_refl _ _
  · exact touches_refl _ _

theorem freeArgb_touches : ∀ a0,
    Touches [.freeCtr] a0 (freeArgb a0).2 := by
  intro a0
  unfold freeArgb
  extract_lets +onlyGivenNames x0
  refine touches_cut_snd x0 ?_ (fun h0 => ?_)
  · unfold x0
    refine touches_after ?_ (takeFree_touches _ _) (by decide)
    exact touches_refl _ _
  clear_value x0
  dsimp only
  assumption

theorem throughGamma_touches : ∀ a0 a1 a2 a3,
    Touches [.cyc, .regs, .checks] a3 (throughGamma a0 a1 a2 a3).2 := by
  intro a0 a1 a2 a3
  unfold throughGamma
  split
  · dsimp only
    refine touches_after ?_ (countPoisoned_touches _) (by decide)
    refine touches_after ?_ (postCheck_touches _ _ _ _) (by decide)
    exact touches_refl _ _
  · dsimp only
    exact touches_refl _ _

theorem gammaLayer_touches : ∀ a0 a1 a2 a3,
    Touches [.cyc, .regs, .checks] a3 (gammaLayer a0 a1 a2 a3).2 := by
  intro a0 a1 a2 a3
  unfold gammaLayer
  extract_lets +onlyGivenNames x0
  clear_value x0
  extract_lets +onlyGivenNames x1
  clear_value x1
  refine touches_ite_snd ?_ ?_
  · extract_lets +onlyGivenNames x2
    refine touches_cut_snd x2 ?_ (fun h2 => ?_)
    · unfold x2
      refine touches_after ?_ (throughGamma_touches _ _ _ _) (by decide)
      exact touches_refl _ _
    clear_value x2
    dsimp only
    assumption
  · dsimp only
    exact touches_refl _ _

theorem layerFetch_touches : ∀ a0 a1 a2 a3 a4,
    Touches [.freeCtr, .cyc, .regs, .iotlb, .checks] a4 (layerFetch a0 a1 a2 a3 a4).2 := by
  intro a0 a1 a2 a3 a4
  unfold layerFetch
  extract_lets +onlyGivenNames x0
  clear_value x0
  extract_lets +onlyGivenNames x1
  clear_value x1
  extract_lets +onlyGivenNames x2
  clear_value x2
  refine touches_ite_snd ?_ ?_
  · dsimp only
    refine touches_after ?_ (freeArgb_touches _) (by decide)
    exact touches_refl _ _
  · split
    · dsimp only
      refine touches_after ?_ (hdEvent_touches _ _ _) (by decide)
      refine touches_after ?_ (fetchCheck_touches _ _ _) (by decide)
      refine touches_of_eq_snd ‹_› ?_
      refine touches_after ?_ (masterReadRun_touches _ _ _ _ _ _) (by decide)
      exact touches_refl _ _
    · extract_lets +onlyGivenNames x3
      clear_value x3
      split
      · refine touches_ite_snd ?_ ?_
        · dsimp only
          refine touches_after ?_ (countPoisoned_touches _) (by decide)
          refine touches_after ?_ (postCheck_touches _ _ _ _) (by decide)
          refine touches_of_eq_snd ‹_› ?_
          refine touches_after ?_ (masterReadRun_touches _ _ _ _ _ _) (by decide)
          exact touches_refl _ _
        · dsimp only
          refine touches_of_eq_snd ‹_› ?_
          refine touches_after ?_ (masterReadRun_touches _ _ _ _ _ _) (by decide)
          exact touches_refl _ _
      · dsimp only
        refine touches_of_eq_snd ‹_› ?_
        refine touches_after ?_ (masterReadRun_touches _ _ _ _ _ _) (by decide)
        exact touches_refl _ _
      · dsimp only
        refine touches_of_eq_snd ‹_› ?_
        refine touches_after ?_ (masterReadRun_touches _ _ _ _ _ _) (by decide)
        exact touches_refl _ _
      · dsimp only
        refine touches_of_eq_snd ‹_› ?_
        refine touches_after ?_ (masterReadRun_touches _ _ _ _ _ _) (by decide)
        exact touches_refl _ _

theorem layerColour_touches : ∀ a0 a1 a2 a3 a4,
    Touches [.freeCtr, .cyc, .regs, .iotlb, .checks] a4 (layerColour a0 a1 a2 a3 a4).2 := by
  intro a0 a1 a2 a3 a4
  unfold layerColour
  extract_lets +onlyGivenNames x0
  clear_value x0
  extract_lets +onlyGivenNames x1
  clear_value x1
  extract_lets +onlyGivenNames x2
  clear_value x2
  extract_lets +onlyGivenNames x3
  clear_value x3
  refine touches_ite_snd ?_ ?_
  · dsimp only
    exact touches_refl _ _
  · refine touches_ite_snd ?_ ?_
    · dsimp only
      exact touches_refl _ _
    · extract_lets +onlyGivenNames x4
      clear_value x4
      extract_lets +onlyGivenNames x5
      clear_value x5
      extract_lets +onlyGivenNames x6
      clear_value x6
      extract_lets +onlyGivenNames x7
      clear_value x7
      extract_lets +onlyGivenNames x8
      refine touches_cut_snd x8 ?_ (fun h8 => ?_)
      · unfold x8
        refine touches_ite_snd ?_ ?_
        · dsimp only
          refine touches_after ?_ (freeArgb_touches _) (by decide)
          exact touches_refl _ _
        · refine touches_after ?_ (layerFetch_touches _ _ _ _ _) (by decide)
          exact touches_refl _ _
      clear_value x8
      split
      · dsimp only
        assumption
      · refine touches_after ?_ (gammaLayer_touches _ _ _ _) (by decide)
        assumption

theorem composeHead_touches : ∀ a0 a1 a2 a3 a4,
    Touches [.freeCtr, .cyc, .regs, .iotlb, .checks] a4 (composeHead a0 a1 a2 a3 a4).2 := by
  intro a0 a1 a2 a3 a4
  fun_induction composeHead a0 a1 a2 a3 a4
  · dsimp only
    exact touches_refl _ _
  · refine touches_after ?_ ‹_› (fun _ h => h)
    exact touches_refl _ _
  · refine touches_after ?_ ‹_› (fun _ h => h)
    refine touches_of_eq_snd ‹_› ?_
    refine touches_after ?_ (layerColour_touches _ _ _ _ _) (by decide)
    exact touches_refl _ _
  · dsimp only
    refine touches_of_eq_snd ‹_› ?_
    refine touches_after ?_ (layerColour_touches _ _ _ _ _) (by decide)
    exact touches_refl _ _
  · dsimp only
    rename_i r0_0 r0_1
    unfold r0_0
    refine touches_after ?_ ‹_› (fun _ h => h)
    refine touches_of_eq_snd ‹_› ?_
    refine touches_after ?_ (layerColour_touches _ _ _ _ _) (by decide)
    exact touches_refl _ _

theorem linkPixel_touches : ∀ a0 a1 a2 a3,
    Touches [.freeCtr, .cyc, .regs, .iotlb, .checks] a3 (linkPixel a0 a1 a2 a3).2 := by
  intro a0 a1 a2 a3
  unfold linkPixel
  extract_lets +onlyGivenNames x0
  refine touches_cut_snd x0 ?_ (fun h0 => ?_)
  · unfold x0
    refine touches_after ?_ (composeHead_touches _ _ _ _ _) (by decide)
    exact touches_refl _ _
  clear_value x0
  extract_lets +onlyGivenNames x1
  clear_value x1
  extract_lets +onlyGivenNames x2
  refine touches_cut_snd x2 ?_ (fun h2 => ?_)
  · unfold x2
    refine touches_ite_snd ?_ ?_
    · refine touches_after ?_ (throughGamma_touches _ _ _ _) (by decide)
      assumption
    · assumption
  clear_value x2
  extract_lets +onlyGivenNames x3
  clear_value x3
  dsimp only
  assumption

theorem headLine_touches : ∀ a0 a1 a2 a3 a4 a5 a6,
    Touches [.freeCtr, .cyc, .regs, .iotlb, .checks] a6 (headLine a0 a1 a2 a3 a4 a5 a6).2 := by
  intro a0 a1 a2 a3 a4 a5 a6
  fun_induction headLine a0 a1 a2 a3 a4 a5 a6
  · dsimp only
    exact touches_refl _ _
  · dsimp only
    rename_i r0_0 r0_1
    unfold r0_0
    refine touches_after ?_ ‹_› (fun _ h => h)
    rename_i r1_0
    unfold r1_0
    refine touches_ite_snd ?_ ?_
    · refine touches_after ?_ (freeArgb_touches _) (by decide)
      exact touches_refl _ _
    · refine touches_after ?_ (composeHead_touches _ _ _ _ _) (by decide)
      exact touches_refl _ _

theorem writeBackEff_touches : ∀ a0 a1 a2 a3,
    Touches (.freeCtr :: .cyc :: .regs :: .plate :: .cores :: .dict :: .iotlb :: .mem :: .poison :: .checks :: []) a3 (writeBackEff a0 a1 a2 a3) := by
  intro a0 a1 a2 a3
  unfold writeBackEff
  refine touches_ite ?_ ?_
  · exact touches_refl _ _
  · extract_lets +onlyGivenNames x0
    refine touches_cut_snd x0 ?_ (fun h0 => ?_)
    · unfold x0
      refine touches_after ?_ (headLine_touches _ _ _ _ _ _ _) (by decide)
      exact touches_refl _ _
    clear_value x0
    extract_lets +onlyGivenNames x1
    clear_value x1
    extract_lets +onlyGivenNames x2
    refine touches_cut x2 ?_ (fun h2 => ?_)
    · unfold x2
      refine touches_ite ?_ ?_
      · refine touches_after ?_ (hdEvent_touches _ _ _) (by decide)
        assumption
      · split
        · refine touches_of_eq_snd ‹_› ?_
          refine touches_after ?_ (masterWriteRun_touches _ _ _ _ _ _) (by decide)
          assumption
        · refine touches_after ?_ (hdEvent_touches _ _ _) (by decide)
          refine touches_of_eq_snd ‹_› ?_
          refine touches_after ?_ (masterWriteRun_touches _ _ _ _ _ _) (by decide)
          assumption
    clear_value x2
    refine touches_ite ?_ ?_
    · refine touches_after ?_ (hdEvent_touches _ _ _) (by decide)
      assumption
    · assumption

theorem execWriteBackLine_touches : ∀ a0 a1 a2 a3,
    ∃ t, execWriteBackLine a0 a1 a2 a3 = .next t ∧ Touches (.freeCtr :: .cyc :: .regs :: .plate :: .cores :: .dict :: .iotlb :: .mem :: .poison :: .checks :: []) a3 t := by
  intro a0 a1 a2 a3
  unfold execWriteBackLine
  refine ⟨_, rfl, ?_⟩
  refine touches_ite ?_ ?_
  · refine touches_after ?_ (writeBackEff_touches _ _ _ _) (by decide)
    exact touches_refl _ _
  · exact touches_refl _ _

theorem dpCtlWrite_touches : ∀ a0 a1 a2,
    Touches [.regs] a2 (dpCtlWrite a0 a1 a2) := by
  intro a0 a1 a2
  unfold dpCtlWrite
  extract_lets +onlyGivenNames x0
  refine touches_cut x0 ?_ (fun h0 => ?_)
  · unfold x0
    refine touches_after ?_ (State.setReg_touches _ _ _) (by decide)
    exact touches_refl _ _
  clear_value x0
  refine touches_ite ?_ ?_
  · assumption
  · refine touches_after ?_ (State.setBit_touches _ _ _ _) (by decide)
    assumption

theorem trainEff_touches : ∀ a0 a1 a2 a3 a4 a5 a6,
    Touches [.cyc, .regs, .heads] a6 (trainEff a0 a1 a2 a3 a4 a5 a6) := by
  intro a0 a1 a2 a3 a4 a5 a6
  unfold trainEff
  extract_lets +onlyGivenNames x0
  refine touches_cut x0 ?_ (fun h0 => ?_)
  · unfold x0
    refine touches_after ?_ (dpCtlWrite_touches _ _ _) (by decide)
    exact touches_refl _ _
  clear_value x0
  refine touches_ite ?_ ?_
  · assumption
  · refine touches_ite ?_ ?_
    · refine touches_after ?_ (State.setHead_touches _ _ _) (by decide)
      refine touches_after ?_ (State.setBit_touches _ _ _ _) (by decide)
      assumption
    · refine touches_after ?_ (dpEvent_touches _ _ _) (by decide)
      refine touches_after ?_ (State.setBit_touches _ _ _ _) (by decide)
      assumption

theorem execLinkTrain_touches : ∀ a0 a1 a2 a3 a4 a5 a6,
    ∃ t, execLinkTrain a0 a1 a2 a3 a4 a5 a6 = .next t ∧ Touches [.cyc, .regs, .heads] a6 t := by
  intro a0 a1 a2 a3 a4 a5 a6
  unfold execLinkTrain
  refine ⟨_, rfl, ?_⟩
  refine touches_ite ?_ ?_
  · refine touches_after ?_ (trainEff_touches _ _ _ _ _ _ _) (by decide)
    exact touches_refl _ _
  · exact touches_refl _ _

theorem execHpdPlug_touches : ∀ a0 a1,
    ∃ t, execHpdPlug a0 a1 = .next t ∧ Touches [.cyc, .regs] a1 t := by
  intro a0 a1
  unfold execHpdPlug
  refine ⟨_, rfl, ?_⟩
  refine touches_ite ?_ ?_
  · refine touches_after ?_ (dpEvent_touches _ _ _) (by decide)
    refine touches_after ?_ (State.setBit_touches _ _ _ _) (by decide)
    exact touches_refl _ _
  · exact touches_refl _ _

theorem unplugEff_touches : ∀ a0 a1,
    Touches [.cyc, .regs] a1 (unplugEff a0 a1) := by
  intro a0 a1
  unfold unplugEff
  refine touches_after ?_ (dpEvent_touches _ _ _) (by decide)
  refine touches_after ?_ (State.setBit_touches _ _ _ _) (by decide)
  refine touches_after ?_ (State.setBit_touches _ _ _ _) (by decide)
  refine touches_after ?_ (State.setBit_touches _ _ _ _) (by decide)
  exact touches_refl _ _

theorem execHpdUnplug_touches : ∀ a0 a1,
    ∃ t, execHpdUnplug a0 a1 = .next t ∧ Touches [.cyc, .regs] a1 t := by
  intro a0 a1
  unfold execHpdUnplug
  refine ⟨_, rfl, ?_⟩
  refine touches_ite ?_ ?_
  · refine touches_after ?_ (unplugEff_touches _ _) (by decide)
    exact touches_refl _ _
  · exact touches_refl _ _

theorem execIrqHpd_touches : ∀ a0 a1,
    ∃ t, execIrqHpd a0 a1 = .next t ∧ Touches [.cyc, .regs] a1 t := by
  intro a0 a1
  unfold execIrqHpd
  refine ⟨_, rfl, ?_⟩
  refine touches_ite ?_ ?_
  · refine touches_after ?_ (dpEvent_touches _ _ _) (by decide)
    exact touches_refl _ _
  · exact touches_refl _ _

theorem auxStart_touches : ∀ a0 a1 a2,
    Touches [.heads] a2 (auxStart a0 a1 a2) := by
  intro a0 a1 a2
  unfold auxStart
  refine touches_ite ?_ ?_
  · exact touches_refl _ _
  · refine touches_after ?_ (State.setHead_touches _ _ _) (by decide)
    exact touches_refl _ _

theorem execDpAuxCmd_touches : ∀ a0 a1 a2,
    ∃ t, execDpAuxCmd a0 a1 a2 = .next t ∧ Touches [.heads] a2 t := by
  intro a0 a1 a2
  unfold execDpAuxCmd
  refine ⟨_, rfl, ?_⟩
  refine touches_ite ?_ ?_
  · refine touches_after ?_ (auxStart_touches _ _ _) (by decide)
    exact touches_refl _ _
  · exact touches_refl _ _

theorem auxBytes_touches : ∀ a0 a1 a2 a3,
    Touches [.regs] a3 (auxBytes a0 a1 a2 a3) := by
  intro a0 a1 a2 a3
  fun_induction auxBytes a0 a1 a2 a3
  · exact touches_refl _ _
  · refine touches_after ?_ ‹_› (fun _ h => h)
    refine touches_after ?_ (State.setFld_touches _ _ _ _ _) (by decide)
    exact touches_refl _ _

theorem auxEnd_touches : ∀ a0 a1 a2,
    Touches [.cyc, .regs, .heads] a2 (auxEnd a0 a1 a2) := by
  intro a0 a1 a2
  unfold auxEnd
  refine touches_after ?_ (dpEvent_touches _ _ _) (by decide)
  refine touches_after ?_ (State.setHead_touches _ _ _) (by decide)
  exact touches_refl _ _

theorem auxReplyEff_touches : ∀ a0 a1 a2,
    Touches [.cyc, .regs, .heads] a2 (auxReplyEff a0 a1 a2) := by
  intro a0 a1 a2
  unfold auxReplyEff
  split
  · exact touches_refl _ _
  · split
    · extract_lets +onlyGivenNames x0
      clear_value x0
      refine touches_after ?_ (auxEnd_touches _ _ _) (by decide)
      refine touches_ite ?_ ?_
      · refine touches_after ?_ (auxBytes_touches _ _ _ _) (by decide)
        exact touches_refl _ _
      · exact touches_refl _ _
    · refine touches_after ?_ (auxEnd_touches _ _ _) (by decide)
      exact touches_refl _ _
    · refine touches_ite ?_ ?_
      · refine touches_after ?_ (State.setHead_touches _ _ _) (by decide)
        exact touches_refl _ _
      · refine touches_after ?_ (auxEnd_touches _ _ _) (by decide)
        exact touches_refl _ _

theorem execAuxReply_touches : ∀ a0 a1 a2,
    ∃ t, execAuxReply a0 a1 a2 = .next t ∧ Touches [.cyc, .regs, .heads] a2 t := by
  intro a0 a1 a2
  unfold execAuxReply
  refine ⟨_, rfl, ?_⟩
  refine touches_ite ?_ ?_
  · refine touches_after ?_ (auxReplyEff_touches _ _ _) (by decide)
    exact touches_refl _ _
  · exact touches_refl _ _

theorem auxTimeoutEff_touches : ∀ a0 a1,
    Touches [.cyc, .regs, .heads] a1 (auxTimeoutEff a0 a1) := by
  intro a0 a1
  unfold auxTimeoutEff
  refine touches_ite ?_ ?_
  · exact touches_refl _ _
  · refine touches_ite ?_ ?_
    · refine touches_after ?_ (State.setHead_touches _ _ _) (by decide)
      exact touches_refl _ _
    · refine touches_after ?_ (auxEnd_touches _ _ _) (by decide)
      exact touches_refl _ _

theorem execAuxTimeout_touches : ∀ a0 a1,
    ∃ t, execAuxTimeout a0 a1 = .next t ∧ Touches [.cyc, .regs, .heads] a1 t := by
  intro a0 a1
  unfold execAuxTimeout
  refine ⟨_, rfl, ?_⟩
  refine touches_ite ?_ ?_
  · refine touches_after ?_ (auxTimeoutEff_touches _ _) (by decide)
    exact touches_refl _ _
  · exact touches_refl _ _

end Sys2Proof.Machine
end

