-- ==== Sys2Proof/Laws/TouchDram.lean ====
section
/-! SUPPORT. Which parts of the state the definitions of Machine/Dram.lean touch: one lemma for each, the proofs written by a
script from their shape. -/

namespace Sys2Proof.Machine

theorem mcEvent_touches : ∀ a0 a1,
    Touches [.cyc, .regs] a1 (mcEvent a0 a1) := by
  intro a0 a1
  unfold mcEvent
  refine touches_after ?_ (raiseStatus_touches _ _ _ _ _) (by decide)
  exact touches_refl _ _

theorem trainStepEff_touches : ∀ a0 a1,
    Touches [.freeCtr, .cyc, .regs, .sys, .log, .canNode, .trainTries] a1 (trainStepEff a0 a1) := by
  intro a0 a1
  unfold trainStepEff
  refine touches_ite ?_ ?_
  · exact touches_refl _ _
  · split
    · refine touches_after ?_ (touch_trainTries _) (by decide)
      exact touches_refl _ _
    · refine touches_ite ?_ ?_
      · refine touches_after ?_ (touch_trainTries _) (by decide)
        exact touches_refl _ _
      · refine touches_after ?_ (logOpen_touches _ _ _ _ _) (by decide)
        refine touches_after ?_ (mcEvent_touches _ _) (by decide)
        refine touches_after ?_ (State.setBit_touches _ _ _ _) (by decide)
        refine touches_after ?_ (touch_trainTries _) (by decide)
        exact touches_refl _ _
    · refine touches_after ?_ (State.setBit_touches _ _ _ _) (by decide)
      refine touches_after ?_ (State.setReg_touches _ _ _) (by decide)
      refine touches_after ?_ (touch_sys_trainTries _ (by rfl)) (by decide)
      exact touches_refl _ _

theorem execDramTrainStep_touches : ∀ a0 a1,
    ∃ t, execDramTrainStep a0 a1 = .next t ∧ Touches [.freeCtr, .cyc, .regs, .sys, .log, .canNode, .trainTries] a1 t := by
  intro a0 a1
  unfold execDramTrainStep
  refine ⟨_, rfl, ?_⟩
  refine touches_ite ?_ ?_
  · refine touches_after ?_ (trainStepEff_touches _ _) (by decide)
    exact touches_refl _ _
  · exact touches_refl _ _

theorem tempReadEff_touches : ∀ a0 a1,
    Touches [.cyc, .regs, .refreshFast, .dramTemp] a1 (tempReadEff a0 a1) := by
  intro a0 a1
  unfold tempReadEff
  refine touches_ite ?_ ?_
  · exact touches_refl _ _
  · split
    · refine touches_after ?_ (touch_refreshFast_dramTemp _) (by decide)
      exact touches_refl _ _
    · refine touches_after ?_ (mcEvent_touches _ _) (by decide)
      refine touches_after ?_ (touch_refreshFast _) (by decide)
      exact touches_refl _ _

theorem execDramTempRead_touches : ∀ a0 a1,
    ∃ t, execDramTempRead a0 a1 = .next t ∧ Touches [.cyc, .regs, .refreshFast, .dramTemp] a1 t := by
  intro a0 a1
  unfold execDramTempRead
  refine ⟨_, rfl, ?_⟩
  refine touches_ite ?_ ?_
  · refine touches_after ?_ (tempReadEff_touches _ _) (by decide)
    exact touches_refl _ _
  · exact touches_refl _ _

theorem srEntryEff_touches : ∀ a0,
    Touches [.regs] a0 (srEntryEff a0) := by
  intro a0
  unfold srEntryEff
  refine touches_ite ?_ ?_
  · refine touches_after ?_ (State.setBit_touches _ _ _ _) (by decide)
    exact touches_refl _ _
  · exact touches_refl _ _

theorem execSelfRefreshEntry_touches : ∀ a0,
    ∃ t, execSelfRefreshEntry a0 = .next t ∧ Touches [.regs] a0 t := by
  intro a0
  unfold execSelfRefreshEntry
  refine ⟨_, rfl, ?_⟩
  refine touches_ite ?_ ?_
  · refine touches_after ?_ (srEntryEff_touches _) (by decide)
    exact touches_refl _ _
  · exact touches_refl _ _

theorem srExitEff_touches : ∀ a0,
    Touches [.cyc, .regs] a0 (srExitEff a0) := by
  intro a0
  unfold srExitEff
  refine touches_ite ?_ ?_
  · refine touches_after ?_ (mcEvent_touches _ _) (by decide)
    refine touches_after ?_ (State.setBit_touches _ _ _ _) (by decide)
    exact touches_refl _ _
  · exact touches_refl _ _

theorem execSelfRefreshExit_touches : ∀ a0,
    ∃ t, execSelfRefreshExit a0 = .next t ∧ Touches [.cyc, .regs] a0 t := by
  intro a0
  unfold execSelfRefreshExit
  refine ⟨_, rfl, ?_⟩
  refine touches_ite ?_ ?_
  · refine touches_after ?_ (srExitEff_touches _) (by decide)
    exact touches_refl _ _
  · exact touches_refl _ _

end Sys2Proof.Machine
end

