-- ==== Sys2Proof/Laws/TouchAudio.lean ====
section
/-! SUPPORT. Which parts of the state the definitions of Machine/Audio.lean touch: one lemma for each, the proofs written by a
script from their shape. -/

namespace Sys2Proof.Machine

theorem State.setAudio_touches : ∀ a0 a1,
    Touches [.audio] a0 (State.setAudio a0 a1) := by
  intro a0 a1
  unfold State.setAudio
  refine touches_after ?_ (touch_audio _) (by decide)
  exact touches_refl _ _

theorem State.setVoice_touches : ∀ a0 a1 a2,
    Touches [.audio] a0 (State.setVoice a0 a1 a2) := by
  intro a0 a1 a2
  unfold State.setVoice
  refine touches_after ?_ (State.setAudio_touches _ _) (by decide)
  exact touches_refl _ _

theorem State.setRoute_touches : ∀ a0 a1 a2,
    Touches [.audio] a0 (State.setRoute a0 a1 a2) := by
  intro a0 a1 a2
  unfold State.setRoute
  refine touches_after ?_ (State.setAudio_touches _ _) (by decide)
  exact touches_refl _ _

theorem State.setBus_touches : ∀ a0 a1 a2,
    Touches [.audio] a0 (State.setBus a0 a1 a2) := by
  intro a0 a1 a2
  unfold State.setBus
  refine touches_after ?_ (State.setAudio_touches _ _) (by decide)
  exact touches_refl _ _

theorem State.setAudOut_touches : ∀ a0 a1 a2,
    Touches [.audio] a0 (State.setAudOut a0 a1 a2) := by
  intro a0 a1 a2
  unfold State.setAudOut
  refine touches_after ?_ (State.setAudio_touches _ _) (by decide)
  exact touches_refl _ _

theorem audEvent_touches : ∀ a0 a1,
    Touches [.cyc, .regs] a1 (audEvent a0 a1) := by
  intro a0 a1
  unfold audEvent
  refine touches_after ?_ (raiseStatus_touches _ _ _ _ _) (by decide)
  exact touches_refl _ _

theorem tdmEvent_touches : ∀ a0 a1 a2,
    Touches [.cyc, .regs] a2 (tdmEvent a0 a1 a2) := by
  intro a0 a1 a2
  unfold tdmEvent
  extract_lets +onlyGivenNames x0
  refine touches_cut x0 ?_ (fun h0 => ?_)
  · unfold x0
    refine touches_after ?_ (noteSet_touches _ _ _) (by decide)
    refine touches_after ?_ (State.setReg_touches _ _ _) (by decide)
    exact touches_refl _ _
  clear_value x0
  refine touches_ite ?_ ?_
  · refine touches_after ?_ (noteDeferred_touches _ _) (by decide)
    assumption
  · assumption

theorem roundOpen_touches : ∀ a0 a1 a2,
    Touches [.freeCtr] a2 (roundOpen a0 a1 a2).2 := by
  intro a0 a1 a2
  unfold roundOpen
  extract_lets +onlyGivenNames x0
  clear_value x0
  refine touches_ite_snd ?_ ?_
  · dsimp only
    exact touches_refl _ _
  · extract_lets +onlyGivenNames x1
    refine touches_cut_snd x1 ?_ (fun h1 => ?_)
    · unfold x1
      refine touches_after ?_ (takeFree_touches _ _) (by decide)
      exact touches_refl _ _
    clear_value x1
    dsimp only
    assumption

theorem vramSample_touches : ∀ a0 a1,
    Touches [.cyc, .regs, .checks] a1 (vramSample a0 a1).2 := by
  intro a0 a1
  unfold vramSample
  extract_lets +onlyGivenNames x0
  clear_value x0
  refine touches_ite_snd ?_ ?_
  · dsimp only
    refine touches_after ?_ (countPoisoned_touches _) (by decide)
    refine touches_after ?_ (postCheck_touches _ _ _ _) (by decide)
    exact touches_refl _ _
  · dsimp only
    exact touches_refl _ _

theorem keyOn_touches : ∀ a0 a1,
    Touches [.audio] a1 (keyOn a0 a1) := by
  intro a0 a1
  unfold keyOn
  refine touches_after ?_ (State.setVoice_touches _ _ _) (by decide)
  exact touches_refl _ _

theorem keyOff_touches : ∀ a0 a1,
    Touches [.audio] a1 (keyOff a0 a1) := by
  intro a0 a1
  unfold keyOff
  refine touches_ite ?_ ?_
  · exact touches_refl _ _
  · refine touches_after ?_ (State.setVoice_touches _ _ _) (by decide)
    exact touches_refl _ _

theorem vcCtlWrite_touches : ∀ a0 a1 a2,
    Touches [.regs, .audio] a2 (vcCtlWrite a0 a1 a2) := by
  intro a0 a1 a2
  unfold vcCtlWrite
  extract_lets +onlyGivenNames x0
  refine touches_cut x0 ?_ (fun h0 => ?_)
  · unfold x0
    refine touches_after ?_ (State.setReg_touches _ _ _) (by decide)
    exact touches_refl _ _
  clear_value x0
  refine touches_ite ?_ ?_
  · refine touches_after ?_ (keyOn_touches _ _) (by decide)
    assumption
  · refine touches_ite ?_ ?_
    · refine touches_after ?_ (keyOff_touches _ _) (by decide)
      assumption
    · assumption

theorem execKeyOn_touches : ∀ a0 a1 a2,
    ∃ t, execKeyOn a0 a1 a2 = .next t ∧ Touches [.regs, .audio] a2 t := by
  intro a0 a1 a2
  unfold execKeyOn
  refine ⟨_, rfl, ?_⟩
  refine touches_ite ?_ ?_
  · refine touches_after ?_ (vcCtlWrite_touches _ _ _) (by decide)
    exact touches_refl _ _
  · exact touches_refl _ _

theorem execKeyOff_touches : ∀ a0 a1 a2,
    ∃ t, execKeyOff a0 a1 a2 = .next t ∧ Touches [.regs, .audio] a2 t := by
  intro a0 a1 a2
  unfold execKeyOff
  refine ⟨_, rfl, ?_⟩
  refine touches_ite ?_ ?_
  · refine touches_after ?_ (vcCtlWrite_touches _ _ _) (by decide)
    exact touches_refl _ _
  · exact touches_refl _ _

theorem voiceIdle_touches : ∀ a0 a1,
    Touches [.cyc, .regs, .audio] a1 (voiceIdle a0 a1) := by
  intro a0 a1
  unfold voiceIdle
  refine touches_after ?_ (audEvent_touches _ _) (by decide)
  refine touches_after ?_ (State.setVoice_touches _ _ _) (by decide)
  exact touches_refl _ _

theorem envStep_touches : ∀ a0 a1,
    Touches [.cyc, .regs, .audio] a1 (envStep a0 a1) := by
  intro a0 a1
  unfold envStep
  extract_lets +onlyGivenNames x0
  clear_value x0
  extract_lets +onlyGivenNames x1
  clear_value x1
  extract_lets +onlyGivenNames x2
  clear_value x2
  extract_lets +onlyGivenNames x3
  clear_value x3
  extract_lets +onlyGivenNames x4
  clear_value x4
  refine touches_ite ?_ ?_
  · split
    · refine touches_after ?_ (State.setVoice_touches _ _ _) (by decide)
      exact touches_refl _ _
    · refine touches_after ?_ (State.setVoice_touches _ _ _) (by decide)
      exact touches_refl _ _
    · refine touches_after ?_ (voiceIdle_touches _ _) (by decide)
      refine touches_after ?_ (State.setVoice_touches _ _ _) (by decide)
      exact touches_refl _ _
    · exact touches_refl _ _
  · refine touches_after ?_ (State.setVoice_touches _ _ _) (by decide)
    exact touches_refl _ _

theorem voiceSample_touches : ∀ a0 a1,
    Touches [.freeCtr, .cyc, .regs, .audio, .checks] a1 (voiceSample a0 a1) := by
  intro a0 a1
  unfold voiceSample
  extract_lets +onlyGivenNames x0
  clear_value x0
  refine touches_ite ?_ ?_
  · exact touches_refl _ _
  · extract_lets +onlyGivenNames x1
    clear_value x1
    extract_lets +onlyGivenNames x2
    clear_value x2
    extract_lets +onlyGivenNames x3
    clear_value x3
    extract_lets +onlyGivenNames x4
    refine touches_cut_snd x4 ?_ (fun h4 => ?_)
    · unfold x4
      refine touches_after ?_ (vramSample_touches _ _) (by decide)
      exact touches_refl _ _
    clear_value x4
    extract_lets +onlyGivenNames x5
    refine touches_cut_snd x5 ?_ (fun h5 => ?_)
    · unfold x5
      refine touches_ite_snd ?_ ?_
      · assumption
      · refine touches_ite_snd ?_ ?_
        · refine touches_after ?_ (vramSample_touches _ _) (by decide)
          assumption
        · dsimp only
          refine touches_after ?_ (takeFree_touches _ _) (by decide)
          assumption
    clear_value x5
    extract_lets +onlyGivenNames x6
    refine touches_cut_snd x6 ?_ (fun h6 => ?_)
    · unfold x6
      refine touches_after ?_ (roundOpen_touches _ _ _) (by decide)
      assumption
    clear_value x6
    refine touches_after ?_ (State.setVoice_touches _ _ _) (by decide)
    assumption

theorem voiceMove_touches : ∀ a0 a1,
    Touches [.cyc, .regs, .audio] a1 (voiceMove a0 a1) := by
  intro a0 a1
  unfold voiceMove
  extract_lets +onlyGivenNames x0
  clear_value x0
  refine touches_ite ?_ ?_
  · exact touches_refl _ _
  · extract_lets +onlyGivenNames x1
    clear_value x1
    extract_lets +onlyGivenNames x2
    clear_value x2
    refine touches_ite ?_ ?_
    · refine touches_after ?_ (envStep_touches _ _) (by decide)
      refine touches_after ?_ (State.setVoice_touches _ _ _) (by decide)
      exact touches_refl _ _
    · refine touches_ite ?_ ?_
      · extract_lets +onlyGivenNames x3
        clear_value x3
        refine touches_after ?_ (envStep_touches _ _) (by decide)
        refine touches_after ?_ (State.setVoice_touches _ _ _) (by decide)
        exact touches_refl _ _
      · refine touches_after ?_ (voiceIdle_touches _ _) (by decide)
        exact touches_refl _ _

theorem voicesStep_touches : ∀ a0,
    Touches [.freeCtr, .cyc, .regs, .audio, .checks] a0 (voicesStep a0) := by
  intro a0
  unfold voicesStep
  refine touches_forEach (fun _ _ _ => ?_) ?_
  · refine touches_after ?_ (voiceMove_touches _ _) (by decide)
    refine touches_after ?_ (voiceSample_touches _ _) (by decide)
    assumption
  · exact touches_refl _ _

theorem routeApply_touches : ∀ a0 a1 a2,
    Touches [.cyc, .regs, .audio] a2 (routeApply a0 a1 a2).2 := by
  intro a0 a1 a2
  unfold routeApply
  extract_lets +onlyGivenNames x0
  clear_value x0
  extract_lets +onlyGivenNames x1
  clear_value x1
  extract_lets +onlyGivenNames x2
  clear_value x2
  extract_lets +onlyGivenNames x3
  clear_value x3
  extract_lets +onlyGivenNames x4
  clear_value x4
  extract_lets +onlyGivenNames x5
  clear_value x5
  extract_lets +onlyGivenNames x6
  clear_value x6
  extract_lets +onlyGivenNames x7
  clear_value x7
  extract_lets +onlyGivenNames x8
  unfold x8
  clear x8
  refine touches_ite_snd ?_ ?_
  · refine touches_ite_snd ?_ ?_
    · dsimp only
      refine touches_after ?_ (State.setRoute_touches _ _ _) (by decide)
      exact touches_refl _ _
    · refine touches_ite_snd ?_ ?_
      · refine touches_ite_snd ?_ ?_
        · dsimp only
          refine touches_after ?_ (State.setRoute_touches _ _ _) (by decide)
          exact touches_refl _ _
        · dsimp only
          exact touches_refl _ _
      · dsimp only
        exact touches_refl _ _
  · split
    · refine touches_ite_snd ?_ ?_
      · refine touches_ite_snd ?_ ?_
        · dsimp only
          refine touches_after ?_ (State.setRoute_touches _ _ _) (by decide)
          exact touches_refl _ _
        · dsimp only
          exact touches_refl _ _
      · dsimp only
        exact touches_refl _ _
    · refine touches_ite_snd ?_ ?_
      · dsimp only
        refine touches_after ?_ (State.setRoute_touches _ _ _) (by decide)
        exact touches_refl _ _
      · refine touches_ite_snd ?_ ?_
        · dsimp only
          refine touches_after ?_ (State.setRoute_touches _ _ _) (by decide)
          exact touches_refl _ _
        · refine touches_ite_snd ?_ ?_
          · dsimp only
            exact touches_refl _ _
          · refine touches_ite_snd ?_ ?_
            · dsimp only
              exact touches_refl _ _
            · extract_lets +onlyGivenNames x9
              refine touches_cut x9 ?_ (fun h9 => ?_)
              · unfold x9
                refine touches_after ?_ (State.setRoute_touches _ _ _) (by decide)
                exact touches_refl _ _
              clear_value x9
              dsimp only
              refine touches_ite ?_ ?_
              · refine touches_after ?_ (audEvent_touches _ _) (by decide)
                assumption
              · assumption

theorem execAudRtApply_touches : ∀ a0 a1,
    ∃ t, execAudRtApply a0 a1 = .next t ∧ Touches [.cyc, .regs, .resp, .audio] a1 t := by
  intro a0 a1
  unfold execAudRtApply
  refine ⟨_, rfl, ?_⟩
  refine touches_ite ?_ ?_
  · refine touches_answerWith (by decide) ?_
    refine touches_after ?_ (routeApply_touches _ _ _) (by decide)
    exact touches_refl _ _
  · exact touches_refl _ _

theorem rampDoneEff_touches : ∀ a0 a1,
    Touches [.audio] a1 (rampDoneEff a0 a1) := by
  intro a0 a1
  unfold rampDoneEff
  extract_lets +onlyGivenNames x0
  clear_value x0
  extract_lets +onlyGivenNames x1
  clear_value x1
  split
  · refine touches_ite ?_ ?_
    · refine touches_after ?_ (State.setRoute_touches _ _ _) (by decide)
      exact touches_refl _ _
    · refine touches_after ?_ (State.setRoute_touches _ _ _) (by decide)
      exact touches_refl _ _
  · refine touches_after ?_ (State.setRoute_touches _ _ _) (by decide)
    exact touches_refl _ _

theorem execRampDone_touches : ∀ a0 a1,
    ∃ t, execRampDone a0 a1 = .next t ∧ Touches [.audio] a1 t := by
  intro a0 a1
  unfold execRampDone
  refine ⟨_, rfl, ?_⟩
  refine touches_ite ?_ ?_
  · refine touches_after ?_ (rampDoneEff_touches _ _) (by decide)
    exact touches_refl _ _
  · exact touches_refl _ _

theorem bridgeValues_touches : ∀ a0 a1 a2,
    Touches [.freeCtr] a2 (bridgeValues a0 a1 a2).2 := by
  intro a0 a1 a2
  fun_induction bridgeValues a0 a1 a2
  · dsimp only
    exact touches_refl _ _
  · refine touches_after ?_ ‹_› (fun _ h => h)
    exact touches_refl _ _
  · dsimp only
    rename_i r0_0 r0_1
    unfold r0_0
    refine touches_after ?_ ‹_› (fun _ h => h)
    rename_i r1_0
    unfold r1_0
    refine touches_after ?_ (roundOpen_touches _ _ _) (by decide)
    rename_i r2_0 r2_1 r2_2
    unfold r2_0
    refine touches_after ?_ (takeFree_touches _ _) (by decide)
    exact touches_refl _ _

theorem contribution_touches : ∀ a0 a1 a2 a3,
    Touches [.freeCtr] a3 (contribution a0 a1 a2 a3).2 := by
  intro a0 a1 a2 a3
  unfold contribution
  refine touches_ite_snd ?_ ?_
  · extract_lets +onlyGivenNames x0
    refine touches_cut_snd x0 ?_ (fun h0 => ?_)
    · unfold x0
      refine touches_after ?_ (takeFree_touches _ _) (by decide)
      exact touches_refl _ _
    clear_value x0
    dsimp only
    assumption
  · extract_lets +onlyGivenNames x1
    clear_value x1
    refine touches_after ?_ (roundOpen_touches _ _ _) (by decide)
    exact touches_refl _ _

theorem sumOf_touches : ∀ a0 a1 a2 a3,
    Touches [.freeCtr] a3 (sumOf a0 a1 a2 a3).2 := by
  intro a0 a1 a2 a3
  fun_induction sumOf a0 a1 a2 a3
  · dsimp only
    exact touches_refl _ _
  · dsimp only
    rename_i r0_0 r0_1
    unfold r0_0
    refine touches_after ?_ ‹_› (fun _ h => h)
    rename_i r1_0
    unfold r1_0
    refine touches_after ?_ (contribution_touches _ _ _ _) (by decide)
    exact touches_refl _ _

theorem meterStep_touches : ∀ a0 a1 a2 a3 a4 a5,
    Touches [.freeCtr, .regs] a5 (meterStep a0 a1 a2 a3 a4 a5).2 := by
  intro a0 a1 a2 a3 a4 a5
  unfold meterStep
  extract_lets +onlyGivenNames x0
  clear_value x0
  extract_lets +onlyGivenNames x1
  clear_value x1
  extract_lets +onlyGivenNames x2
  clear_value x2
  extract_lets +onlyGivenNames x3
  refine touches_cut x3 ?_ (fun h3 => ?_)
  · unfold x3
    refine touches_ite ?_ ?_
    · refine touches_after ?_ (State.setReg_touches _ _ _) (by decide)
      exact touches_refl _ _
    · exact touches_refl _ _
  clear_value x3
  extract_lets +onlyGivenNames x4
  clear_value x4
  refine touches_ite_snd ?_ ?_
  · dsimp only
    refine touches_after ?_ (freeReg_touches _ _) (by decide)
    assumption
  · extract_lets +onlyGivenNames x5
    clear_value x5
    refine touches_ite_snd ?_ ?_
    · extract_lets +onlyGivenNames x6
      clear_value x6
      extract_lets +onlyGivenNames x7
      clear_value x7
      extract_lets +onlyGivenNames x8
      refine touches_cut_snd x8 ?_ (fun h8 => ?_)
      · unfold x8
        refine touches_after ?_ (takeFree_touches _ _) (by decide)
        assumption
      clear_value x8
      dsimp only
      refine touches_ite ?_ ?_
      · refine touches_after ?_ (State.setReg_touches _ _ _) (by decide)
        assumption
      · refine touches_after ?_ (State.setReg_touches _ _ _) (by decide)
        assumption
    · dsimp only
      assumption

theorem busStep_touches : ∀ a0 a1 a2 a3 a4,
    Touches [.freeCtr, .cyc, .regs, .audio] a4 (busStep a0 a1 a2 a3 a4) := by
  intro a0 a1 a2 a3 a4
  unfold busStep
  refine touches_ite ?_ ?_
  · refine touches_after ?_ (State.setBus_touches _ _ _) (by decide)
    refine touches_after ?_ (takeFree_touches _ _) (by decide)
    exact touches_refl _ _
  · refine touches_ite ?_ ?_
    · exact touches_refl _ _
    · extract_lets +onlyGivenNames x0
      clear_value x0
      extract_lets +onlyGivenNames x1
      refine touches_cut_snd x1 ?_ (fun h1 => ?_)
      · unfold x1
        refine touches_after ?_ (sumOf_touches _ _ _ _) (by decide)
        exact touches_refl _ _
      clear_value x1
      extract_lets +onlyGivenNames x2
      clear_value x2
      extract_lets +onlyGivenNames x3
      refine touches_cut x3 ?_ (fun h3 => ?_)
      · unfold x3
        refine touches_ite ?_ ?_
        · refine touches_after ?_ (audEvent_touches _ _) (by decide)
          assumption
        · assumption
      clear_value x3
      extract_lets +onlyGivenNames x4
      refine touches_cut_snd x4 ?_ (fun h4 => ?_)
      · unfold x4
        refine touches_after ?_ (meterStep_touches _ _ _ _ _ _) (by decide)
        assumption
      clear_value x4
      refine touches_after ?_ (State.setBus_touches _ _ _) (by decide)
      assumption

theorem rampsStep_touches : ∀ a0 a1,
    Touches [.audio] a1 (rampsStep a0 a1) := by
  intro a0 a1
  unfold rampsStep
  extract_lets +onlyGivenNames x0
  unfold x0
  clear x0
  refine touches_after ?_ (State.setAudio_touches _ _) (by decide)
  exact touches_refl _ _

theorem capturePush_touches : ∀ a0 a1 a2,
    Touches [.cyc, .regs, .audio] a2 (capturePush a0 a1 a2) := by
  intro a0 a1 a2
  unfold capturePush
  extract_lets +onlyGivenNames x0
  clear_value x0
  refine touches_ite ?_ ?_
  · refine touches_after ?_ (audEvent_touches _ _) (by decide)
    exact touches_refl _ _
  · refine touches_after ?_ (State.setReg_touches _ _ _) (by decide)
    refine touches_after ?_ (State.setAudio_touches _ _) (by decide)
    exact touches_refl _ _

theorem limited_touches : ∀ a0 a1 a2 a3,
    Touches [.freeCtr] a3 (limited a0 a1 a2 a3).2.2 := by
  intro a0 a1 a2 a3
  unfold limited
  extract_lets +onlyGivenNames x0
  clear_value x0
  extract_lets +onlyGivenNames x1
  clear_value x1
  extract_lets +onlyGivenNames x2
  clear_value x2
  split
  · dsimp only
    exact touches_refl _ _
  · extract_lets +onlyGivenNames x3
    refine touches_cut_snd x3 ?_ (fun h3 => ?_)
    · unfold x3
      refine touches_after ?_ (takeFree_touches _ _) (by decide)
      exact touches_refl _ _
    clear_value x3
    dsimp only
    assumption

theorem outStep_touches : ∀ a0 a1 a2 a3,
    Touches [.freeCtr, .cyc, .regs, .audio] a3 (outStep a0 a1 a2 a3) := by
  intro a0 a1 a2 a3
  unfold outStep
  extract_lets +onlyGivenNames x0
  clear_value x0
  extract_lets +onlyGivenNames x1
  clear_value x1
  refine touches_ite ?_ ?_
  · exact touches_refl _ _
  · extract_lets +onlyGivenNames x2
    clear_value x2
    extract_lets +onlyGivenNames x3
    clear_value x3
    extract_lets +onlyGivenNames x4
    clear_value x4
    extract_lets +onlyGivenNames x5
    refine touches_cut_of x5 (fun p => p.2.2) ?_ (fun h5 => ?_)
    · unfold x5
      split
      · dsimp only
        exact touches_refl _ _
      · split
        · dsimp only
          refine touches_after ?_ (takeFree_touches _ _) (by decide)
          exact touches_refl _ _
        · split
          · refine touches_after ?_ (limited_touches _ _ _ _) (by decide)
            exact touches_refl _ _
          · dsimp only
            exact touches_refl _ _
    clear_value x5
    extract_lets +onlyGivenNames x6
    clear_value x6
    extract_lets +onlyGivenNames x7
    refine touches_cut x7 ?_ (fun h7 => ?_)
    · unfold x7
      refine touches_ite ?_ ?_
      · refine touches_after ?_ (audEvent_touches _ _) (by decide)
        assumption
      · assumption
    clear_value x7
    extract_lets +onlyGivenNames x8
    refine touches_cut_snd x8 ?_ (fun h8 => ?_)
    · unfold x8
      refine touches_after ?_ (meterStep_touches _ _ _ _ _ _) (by decide)
      assumption
    clear_value x8
    extract_lets +onlyGivenNames x9
    refine touches_cut x9 ?_ (fun h9 => ?_)
    · unfold x9
      refine touches_after ?_ (State.setAudOut_touches _ _ _) (by decide)
      assumption
    clear_value x9
    refine touches_ite ?_ ?_
    · refine touches_after ?_ (capturePush_touches _ _ _) (by decide)
      assumption
    · assumption

theorem duckStep_touches : ∀ a0 a1,
    Touches [.audio] a1 (duckStep a0 a1) := by
  intro a0 a1
  unfold duckStep
  extract_lets +onlyGivenNames x0
  clear_value x0
  extract_lets +onlyGivenNames x1
  clear_value x1
  refine touches_after ?_ (State.setAudio_touches _ _) (by decide)
  exact touches_refl _ _

theorem domainStep_touches : ∀ a0 a1,
    Touches [.freeCtr, .cyc, .regs, .audio] a1 (domainStep a0 a1) := by
  intro a0 a1
  unfold domainStep
  extract_lets +onlyGivenNames x0
  refine touches_cut x0 ?_ (fun h0 => ?_)
  · unfold x0
    refine touches_after ?_ (duckStep_touches _ _) (by decide)
    exact touches_refl _ _
  clear_value x0
  extract_lets +onlyGivenNames x1
  refine touches_cut_snd x1 ?_ (fun h1 => ?_)
  · unfold x1
    refine touches_after ?_ (bridgeValues_touches _ _ _) (by decide)
    assumption
  clear_value x1
  extract_lets +onlyGivenNames x2
  refine touches_cut x2 ?_ (fun h2 => ?_)
  · unfold x2
    refine touches_forEach (fun _ _ _ => ?_) ?_
    · refine touches_after ?_ (busStep_touches _ _ _ _ _) (by decide)
      assumption
    · assumption
  clear_value x2
  extract_lets +onlyGivenNames x3
  refine touches_cut x3 ?_ (fun h3 => ?_)
  · unfold x3
    refine touches_forEach (fun _ _ _ => ?_) ?_
    · refine touches_after ?_ (outStep_touches _ _ _ _) (by decide)
      assumption
    · assumption
  clear_value x3
  refine touches_after ?_ (countWrap_touches _ _ _) (by decide)
  refine touches_after ?_ (rampsStep_touches _ _) (by decide)
  assumption

theorem pdmStep_touches : ∀ a0 a1,
    Touches [.audio] a1 (pdmStep a0 a1) := by
  intro a0 a1
  unfold pdmStep
  extract_lets +onlyGivenNames x0
  clear_value x0
  refine touches_after ?_ (State.setAudio_touches _ _) (by decide)
  exact touches_refl _ _

theorem tdmStep_touches : ∀ a0 a1 a2,
    Touches [.freeCtr, .audio] a2 (tdmStep a0 a1 a2) := by
  intro a0 a1 a2
  unfold tdmStep
  refine touches_foldl (fun _ _ _ => ?_) ?_
  · extract_lets +onlyGivenNames x0
    clear_value x0
    refine touches_ite ?_ ?_
    · assumption
    · extract_lets +onlyGivenNames x1
      refine touches_cut_snd x1 ?_ (fun h1 => ?_)
      · unfold x1
        refine touches_ite_snd ?_ ?_
        · dsimp only
          assumption
        · refine touches_ite_snd ?_ ?_
          · dsimp only
            refine touches_after ?_ (takeFree_touches _ _) (by decide)
            assumption
          · dsimp only
            assumption
      clear_value x1
      refine touches_after ?_ (State.setAudio_touches _ _) (by decide)
      assumption
  · exact touches_refl _ _

theorem domainSampleEff_touches : ∀ a0 a1 a2 a3,
    Touches [.freeCtr, .cyc, .regs, .audio, .checks] a3 (domainSampleEff a0 a1 a2 a3) := by
  intro a0 a1 a2 a3
  unfold domainSampleEff
  extract_lets +onlyGivenNames x0
  refine touches_cut x0 ?_ (fun h0 => ?_)
  · unfold x0
    refine touches_after ?_ (tdmStep_touches _ _ _) (by decide)
    refine touches_after ?_ (domainStep_touches _ _) (by decide)
    exact touches_refl _ _
  clear_value x0
  refine touches_ite ?_ ?_
  · refine touches_after ?_ (voicesStep_touches _) (by decide)
    assumption
  · refine touches_after ?_ (pdmStep_touches _ _) (by decide)
    assumption

theorem execDomainSample_touches : ∀ a0 a1 a2 a3,
    ∃ t, execDomainSample a0 a1 a2 a3 = .next t ∧ Touches [.freeCtr, .cyc, .regs, .audio, .checks] a3 t := by
  intro a0 a1 a2 a3
  unfold execDomainSample
  refine ⟨_, rfl, ?_⟩
  refine touches_ite ?_ ?_
  · refine touches_after ?_ (domainSampleEff_touches _ _ _ _) (by decide)
    exact touches_refl _ _
  · exact touches_refl _ _

theorem carrierInput_touches : ∀ a0 a1,
    Touches [.freeCtr, .cyc, .regs, .audio] a0 (carrierInput a0 a1) := by
  intro a0 a1
  unfold carrierInput
  extract_lets +onlyGivenNames x0
  clear_value x0
  refine touches_ite ?_ ?_
  · refine touches_after ?_ (State.setAudio_touches _ _) (by decide)
    exact touches_refl _ _
  · refine touches_ite ?_ ?_
    · refine touches_after ?_ (State.setAudio_touches _ _) (by decide)
      refine touches_after ?_ (takeFree_touches _ _) (by decide)
      exact touches_refl _ _
    · extract_lets +onlyGivenNames x1
      clear_value x1
      extract_lets +onlyGivenNames x2
      clear_value x2
      extract_lets +onlyGivenNames x3
      clear_value x3
      extract_lets +onlyGivenNames x4
      clear_value x4
      extract_lets +onlyGivenNames x5
      refine touches_cut x5 ?_ (fun h5 => ?_)
      · unfold x5
        refine touches_after ?_ (State.setAudio_touches _ _) (by decide)
        exact touches_refl _ _
      clear_value x5
      refine touches_ite ?_ ?_
      · refine touches_after ?_ (audEvent_touches _ _) (by decide)
        assumption
      · assumption

theorem carrierLostEff_touches : ∀ a0,
    Touches [.cyc, .regs, .audio] a0 (carrierLostEff a0) := by
  intro a0
  unfold carrierLostEff
  extract_lets +onlyGivenNames x0
  clear_value x0
  extract_lets +onlyGivenNames x1
  refine touches_cut x1 ?_ (fun h1 => ?_)
  · unfold x1
    refine touches_after ?_ (State.setAudio_touches _ _) (by decide)
    exact touches_refl _ _
  clear_value x1
  extract_lets +onlyGivenNames x2
  refine touches_cut x2 ?_ (fun h2 => ?_)
  · unfold x2
    refine touches_forEach (fun _ _ _ => ?_) ?_
    · refine touches_ite ?_ ?_
      · refine touches_after ?_ (State.setBus_touches _ _ _) (by decide)
        assumption
      · assumption
    · assumption
  clear_value x2
  extract_lets +onlyGivenNames x3
  refine touches_cut x3 ?_ (fun h3 => ?_)
  · unfold x3
    refine touches_forEach (fun _ _ _ => ?_) ?_
    · refine touches_ite ?_ ?_
      · refine touches_after ?_ (State.setAudOut_touches _ _ _) (by decide)
        assumption
      · assumption
    · assumption
  clear_value x3
  refine touches_after ?_ (audEvent_touches _ _) (by decide)
  assumption

theorem carrierSampleEff_touches : ∀ a0,
    Touches [.freeCtr, .cyc, .regs, .audio] a0 (carrierSampleEff a0) := by
  intro a0
  unfold carrierSampleEff
  extract_lets +onlyGivenNames x0
  clear_value x0
  extract_lets +onlyGivenNames x1
  clear_value x1
  extract_lets +onlyGivenNames x2
  refine touches_cut x2 ?_ (fun h2 => ?_)
  · unfold x2
    refine touches_after ?_ (State.setAudio_touches _ _) (by decide)
    exact touches_refl _ _
  clear_value x2
  extract_lets +onlyGivenNames x3
  refine touches_cut x3 ?_ (fun h3 => ?_)
  · unfold x3
    refine touches_ite ?_ ?_
    · assumption
    · refine touches_after ?_ (State.setReg_touches _ _ _) (by decide)
      assumption
  clear_value x3
  refine touches_ite ?_ ?_
  · refine touches_after ?_ (State.setAudio_touches _ _) (by decide)
    assumption
  · refine touches_ite ?_ ?_
    · refine touches_after ?_ (carrierLostEff_touches _) (by decide)
      assumption
    · refine touches_foldl (fun _ _ _ => ?_) ?_
      · refine touches_after ?_ (carrierInput_touches _ _) (by decide)
        assumption
      · refine touches_after ?_ (domainStep_touches _ _) (by decide)
        assumption

theorem execCarrierSample_touches : ∀ a0,
    ∃ t, execCarrierSample a0 = .next t ∧ Touches [.freeCtr, .cyc, .regs, .audio] a0 t := by
  intro a0
  unfold execCarrierSample
  refine ⟨_, rfl, ?_⟩
  refine touches_ite ?_ ?_
  · refine touches_after ?_ (carrierSampleEff_touches _) (by decide)
    exact touches_refl _ _
  · exact touches_refl _ _

theorem execCarrierLost_touches : ∀ a0,
    ∃ t, execCarrierLost a0 = .next t ∧ Touches [.cyc, .regs, .audio] a0 t := by
  intro a0
  unfold execCarrierLost
  refine ⟨_, rfl, ?_⟩
  refine touches_ite ?_ ?_
  · refine touches_after ?_ (carrierLostEff_touches _) (by decide)
    exact touches_refl _ _
  · exact touches_refl _ _

theorem execCarrierRecover_touches : ∀ a0,
    ∃ t, execCarrierRecover a0 = .next t ∧ Touches [.audio] a0 t := by
  intro a0
  unfold execCarrierRecover
  refine ⟨_, rfl, ?_⟩
  refine touches_ite ?_ ?_
  · refine touches_after ?_ (State.setAudio_touches _ _) (by decide)
    exact touches_refl _ _
  · exact touches_refl _ _

theorem execPdmClkLost_touches : ∀ a0 a1,
    ∃ t, execPdmClkLost a0 a1 = .next t ∧ Touches [.cyc, .regs, .audio] a1 t := by
  intro a0 a1
  unfold execPdmClkLost
  refine ⟨_, rfl, ?_⟩
  refine touches_ite ?_ ?_
  · refine touches_after ?_ (audEvent_touches _ _) (by decide)
    refine touches_after ?_ (rcSet_touches _ _ _) (by decide)
    refine touches_after ?_ (State.setAudio_touches _ _) (by decide)
    exact touches_refl _ _
  · exact touches_refl _ _

theorem execPdmClkReturn_touches : ∀ a0 a1,
    ∃ t, execPdmClkReturn a0 a1 = .next t ∧ Touches [.audio] a1 t := by
  intro a0 a1
  unfold execPdmClkReturn
  refine ⟨_, rfl, ?_⟩
  refine touches_ite ?_ ?_
  · refine touches_after ?_ (State.setAudio_touches _ _) (by decide)
    exact touches_refl _ _
  · exact touches_refl _ _

theorem execPdmStuck_touches : ∀ a0 a1,
    ∃ t, execPdmStuck a0 a1 = .next t ∧ Touches [.cyc, .regs] a1 t := by
  intro a0 a1
  unfold execPdmStuck
  refine ⟨_, rfl, ?_⟩
  refine touches_ite ?_ ?_
  · refine touches_after ?_ (audEvent_touches _ _) (by decide)
    refine touches_after ?_ (rcSet_touches _ _ _) (by decide)
    exact touches_refl _ _
  · exact touches_refl _ _

theorem execTdmSyncLost_touches : ∀ a0 a1,
    ∃ t, execTdmSyncLost a0 a1 = .next t ∧ Touches [.cyc, .regs, .audio] a1 t := by
  intro a0 a1
  unfold execTdmSyncLost
  refine ⟨_, rfl, ?_⟩
  refine touches_ite ?_ ?_
  · refine touches_after ?_ (tdmEvent_touches _ _ _) (by decide)
    refine touches_after ?_ (State.setAudio_touches _ _) (by decide)
    exact touches_refl _ _
  · exact touches_refl _ _

theorem execTdmResume_touches : ∀ a0 a1,
    ∃ t, execTdmResume a0 a1 = .next t ∧ Touches [.cyc, .regs, .audio] a1 t := by
  intro a0 a1
  unfold execTdmResume
  refine ⟨_, rfl, ?_⟩
  refine touches_ite ?_ ?_
  · refine touches_after ?_ (tdmEvent_touches _ _ _) (by decide)
    refine touches_after ?_ (State.setAudio_touches _ _) (by decide)
    exact touches_refl _ _
  · exact touches_refl _ _

theorem execTdmSlip_touches : ∀ a0 a1,
    ∃ t, execTdmSlip a0 a1 = .next t ∧ Touches [.cyc, .regs] a1 t := by
  intro a0 a1
  unfold execTdmSlip
  refine ⟨_, rfl, ?_⟩
  refine touches_ite ?_ ?_
  · refine touches_after ?_ (tdmEvent_touches _ _ _) (by decide)
    refine touches_after ?_ (rcUp_touches _ _ _ _) (by decide)
    exact touches_refl _ _
  · exact touches_refl _ _

theorem capturePop_touches : ∀ a0 a1,
    Touches [.regs, .audio] a1 (capturePop a0 a1).2 := by
  intro a0 a1
  unfold capturePop
  split
  · dsimp only
    exact touches_refl _ _
  · dsimp only
    refine touches_after ?_ (State.setReg_touches _ _ _) (by decide)
    refine touches_after ?_ (State.setAudio_touches _ _) (by decide)
    exact touches_refl _ _

theorem execAudCqData_touches : ∀ a0 a1 a2,
    ∃ t, execAudCqData a0 a1 a2 = .next t ∧ Touches [.regs, .resp, .audio] a2 t := by
  intro a0 a1 a2
  unfold execAudCqData
  refine ⟨_, rfl, ?_⟩
  refine touches_ite ?_ ?_
  · refine touches_answerWith (by decide) ?_
    refine touches_after ?_ (capturePop_touches _ _) (by decide)
    exact touches_refl _ _
  · exact touches_refl _ _

theorem peakRead_touches : ∀ a0 a1 a2,
    Touches [.regs, .audio] a2 (peakRead a0 a1 a2).2 := by
  intro a0 a1 a2
  unfold peakRead
  refine touches_ite_snd ?_ ?_
  · dsimp only
    refine touches_after ?_ (State.setAudOut_touches _ _ _) (by decide)
    refine touches_after ?_ (State.setReg_touches _ _ _) (by decide)
    exact touches_refl _ _
  · dsimp only
    refine touches_after ?_ (State.setBus_touches _ _ _) (by decide)
    refine touches_after ?_ (State.setReg_touches _ _ _) (by decide)
    exact touches_refl _ _

theorem execPeakMeterRead_touches : ∀ a0 a1 a2 a3,
    ∃ t, execPeakMeterRead a0 a1 a2 a3 = .next t ∧ Touches [.regs, .resp, .audio] a3 t := by
  intro a0 a1 a2 a3
  unfold execPeakMeterRead
  refine ⟨_, rfl, ?_⟩
  refine touches_ite ?_ ?_
  · refine touches_answerWith (by decide) ?_
    refine touches_after ?_ (peakRead_touches _ _ _) (by decide)
    exact touches_refl _ _
  · exact touches_refl _ _

theorem outCtlWrite_touches : ∀ a0 a1 a2,
    Touches [.regs, .audio] a2 (outCtlWrite a0 a1 a2) := by
  intro a0 a1 a2
  unfold outCtlWrite
  extract_lets +onlyGivenNames x0
  clear_value x0
  extract_lets +onlyGivenNames x1
  clear_value x1
  extract_lets +onlyGivenNames x2
  refine touches_cut x2 ?_ (fun h2 => ?_)
  · unfold x2
    refine touches_after ?_ (State.setReg_touches _ _ _) (by decide)
    exact touches_refl _ _
  clear_value x2
  refine touches_ite ?_ ?_
  · assumption
  · refine touches_ite ?_ ?_
    · refine touches_after ?_ (State.setAudOut_touches _ _ _) (by decide)
      assumption
    · refine touches_ite ?_ ?_
      · refine touches_after ?_ (State.setAudOut_touches _ _ _) (by decide)
        assumption
      · assumption

theorem partRoute_touches : ∀ a0 a1,
    Touches [.cyc, .regs, .audio] a1 (partRoute a0 a1) := by
  intro a0 a1
  unfold partRoute
  refine touches_after ?_ (audEvent_touches _ _) (by decide)
  refine touches_after ?_ (State.setRoute_touches _ _ _) (by decide)
  exact touches_refl _ _

theorem partOutput_touches : ∀ a0 a1,
    Touches [.cyc, .regs, .audio] a1 (partOutput a0 a1) := by
  intro a0 a1
  unfold partOutput
  refine touches_after ?_ (audEvent_touches _ _) (by decide)
  refine touches_after ?_ (State.setAudOut_touches _ _ _) (by decide)
  exact touches_refl _ _

theorem audioPllLost_touches : ∀ a0,
    Touches [.cyc, .regs, .sys] a0 (audioPllLost a0) := by
  intro a0
  unfold audioPllLost
  refine touches_ite ?_ ?_
  · refine touches_after ?_ (audEvent_touches _ _) (by decide)
    refine touches_after ?_ (touch_sys _ (by rfl)) (by decide)
    exact touches_refl _ _
  · refine touches_after ?_ (touch_sys _ (by rfl)) (by decide)
    exact touches_refl _ _

end Sys2Proof.Machine
end

