-- ==== Sys2Proof/Laws/TouchHost.lean ====
section
/-! SUPPORT. Which parts of the state the definitions of Machine/Host.lean touch: one lemma for each, the proofs written by a
script from their shape. -/

namespace Sys2Proof.Machine

theorem State.setHost_touches : ∀ a0 a1 a2,
    Touches [.hosts] a0 (State.setHost a0 a1 a2) := by
  intro a0 a1 a2
  unfold State.setHost
  refine touches_after ?_ (touch_hosts _) (by decide)
  exact touches_refl _ _

theorem sendVector_touches : ∀ a0 a1 a2,
    Touches [.hosts] a2 (sendVector a0 a1 a2) := by
  intro a0 a1 a2
  unfold sendVector
  extract_lets +onlyGivenNames x0
  clear_value x0
  refine touches_ite ?_ ?_
  · exact touches_refl _ _
  · refine touches_ite ?_ ?_
    · refine touches_after ?_ (State.setHost_touches _ _ _) (by decide)
      exact touches_refl _ _
    · refine touches_after ?_ (State.setHost_touches _ _ _) (by decide)
      exact touches_refl _ _

theorem flushVectors_touches : ∀ a0 a1,
    Touches [.hosts] a1 (flushVectors a0 a1) := by
  intro a0 a1
  unfold flushVectors
  refine touches_ite ?_ ?_
  · exact touches_refl _ _
  · refine touches_forEach (fun _ _ _ => ?_) ?_
    · extract_lets +onlyGivenNames x0
      clear_value x0
      refine touches_ite ?_ ?_
      · refine touches_after ?_ (State.setHost_touches _ _ _) (by decide)
        assumption
      · assumption
    · exact touches_refl _ _

theorem alertEdge_touches : ∀ a0 a1 a2,
    Touches [.hosts] a2 (alertEdge a0 a1 a2) := by
  intro a0 a1 a2
  unfold alertEdge
  refine touches_ite ?_ ?_
  · refine touches_after ?_ (sendVector_touches _ _ _) (by decide)
    exact touches_refl _ _
  · exact touches_refl _ _

theorem alertSet_touches : ∀ a0 a1 a2,
    Touches [.cyc, .regs, .hosts] a2 (alertSet a0 a1 a2) := by
  intro a0 a1 a2
  unfold alertSet
  refine touches_after ?_ (alertEdge_touches _ _ _) (by decide)
  refine touches_after ?_ (raiseStatus_touches _ _ _ _ _) (by decide)
  exact touches_refl _ _

theorem alertEnWrite_touches : ∀ a0 a1 a2,
    Touches [.regs, .hosts] a2 (alertEnWrite a0 a1 a2) := by
  intro a0 a1 a2
  unfold alertEnWrite
  refine touches_after ?_ (alertEdge_touches _ _ _) (by decide)
  refine touches_after ?_ (State.setReg_touches _ _ _) (by decide)
  exact touches_refl _ _

theorem inboundError_touches : ∀ a0 a1,
    Touches [.cyc, .regs] a1 (inboundError a0 a1) := by
  intro a0 a1
  unfold inboundError
  refine touches_after ?_ (rcUpFld_touches _ _ _ _ _) (by decide)
  exact touches_refl _ _

theorem outboundError_touches : ∀ a0 a1,
    Touches [.cyc, .regs] a1 (outboundError a0 a1) := by
  intro a0 a1
  unfold outboundError
  refine touches_after ?_ (rcUpFld_touches _ _ _ _ _) (by decide)
  exact touches_refl _ _

theorem hostDoorbell_touches : ∀ a0 a1 a2,
    Touches [.cyc, .regs, .hosts] a2 (hostDoorbell a0 a1 a2) := by
  intro a0 a1 a2
  unfold hostDoorbell
  refine touches_ite ?_ ?_
  · refine touches_after ?_ (outboundError_touches _ _) (by decide)
    exact touches_refl _ _
  · refine touches_after ?_ (sendVector_touches _ _ _) (by decide)
    exact touches_refl _ _

theorem execHpHostDb_touches : ∀ a0 a1 a2,
    ∃ t, execHpHostDb a0 a1 a2 = .next t ∧ Touches [.cyc, .regs, .hosts] a2 t := by
  intro a0 a1 a2
  unfold execHpHostDb
  refine ⟨_, rfl, ?_⟩
  refine touches_ite ?_ ?_
  · refine touches_after ?_ (hostDoorbell_touches _ _ _) (by decide)
    exact touches_refl _ _
  · exact touches_refl _ _

theorem chkAcquireOp_touches : ∀ a0 a1 a2,
    Touches [.regs] a2 (chkAcquireOp a0 a1 a2).2 := by
  intro a0 a1 a2
  unfold chkAcquireOp
  extract_lets +onlyGivenNames x0
  clear_value x0
  extract_lets +onlyGivenNames x1
  clear_value x1
  split
  · dsimp only
    exact touches_refl _ _
  · refine touches_ite_snd ?_ ?_
    · dsimp only
      refine touches_after ?_ (State.setFld_touches _ _ _ _ _) (by decide)
      exact touches_refl _ _
    · refine touches_ite_snd ?_ ?_
      · dsimp only
        exact touches_refl _ _
      · split
        · dsimp only
          refine touches_after ?_ (State.setBit_touches _ _ _ _) (by decide)
          exact touches_refl _ _
        · dsimp only
          exact touches_refl _ _

theorem execChkAcquire_touches : ∀ a0 a1 a2,
    ∃ t, execChkAcquire a0 a1 a2 = .next t ∧ Touches [.regs, .resp] a2 t := by
  intro a0 a1 a2
  unfold execChkAcquire
  refine ⟨_, rfl, ?_⟩
  refine touches_ite ?_ ?_
  · refine touches_foldl (fun _ _ _ => ?_) ?_
    · refine touches_answerWith (by decide) ?_
      refine touches_after ?_ (chkAcquireOp_touches _ _ _) (by decide)
      assumption
    · exact touches_refl _ _
  · exact touches_refl _ _

theorem chuckFree_touches : ∀ a0 a1,
    Touches [.cyc, .regs, .hosts] a1 (chuckFree a0 a1) := by
  intro a0 a1
  unfold chuckFree
  extract_lets +onlyGivenNames x0
  clear_value x0
  extract_lets +onlyGivenNames x1
  refine touches_cut x1 ?_ (fun h1 => ?_)
  · unfold x1
    refine touches_after ?_ (State.setReg_touches _ _ _) (by decide)
    exact touches_refl _ _
  clear_value x1
  extract_lets +onlyGivenNames x2
  refine touches_cut x2 ?_ (fun h2 => ?_)
  · unfold x2
    refine touches_ite ?_ ?_
    · refine touches_after ?_ (alertSet_touches _ _ _) (by decide)
      assumption
    · assumption
  clear_value x2
  extract_lets +onlyGivenNames x3
  refine touches_cut x3 ?_ (fun h3 => ?_)
  · unfold x3
    refine touches_ite ?_ ?_
    · refine touches_after ?_ (alertSet_touches _ _ _) (by decide)
      assumption
    · assumption
  clear_value x3
  refine touches_after ?_ (ringShared_touches _ _) (by decide)
  assumption

theorem chkReleaseOp_touches : ∀ a0 a1 a2 a3,
    Touches [.cyc, .regs, .hosts] a3 (chkReleaseOp a0 a1 a2 a3) := by
  intro a0 a1 a2 a3
  unfold chkReleaseOp
  extract_lets +onlyGivenNames x0
  clear_value x0
  refine touches_ite ?_ ?_
  · exact touches_refl _ _
  · refine touches_ite ?_ ?_
    · refine touches_after ?_ (chuckFree_touches _ _) (by decide)
      exact touches_refl _ _
    · refine touches_ite ?_ ?_
      · exact touches_refl _ _
      · refine touches_after ?_ (rcUpFld_touches _ _ _ _ _) (by decide)
        exact touches_refl _ _

theorem execChkRelease_touches : ∀ a0 a1 a2 a3,
    ∃ t, execChkRelease a0 a1 a2 a3 = .next t ∧ Touches [.cyc, .regs, .hosts] a3 t := by
  intro a0 a1 a2 a3
  unfold execChkRelease
  refine ⟨_, rfl, ?_⟩
  refine touches_ite ?_ ?_
  · refine touches_after ?_ (chkReleaseOp_touches _ _ _ _) (by decide)
    exact touches_refl _ _
  · exact touches_refl _ _

theorem freeCoreChucks_touches : ∀ a0 a1,
    Touches [.cyc, .regs, .hosts] a1 (freeCoreChucks a0 a1) := by
  intro a0 a1
  unfold freeCoreChucks
  refine touches_forEach (fun _ _ _ => ?_) ?_
  · refine touches_after ?_ (chuckFree_touches _ _) (by decide)
    assumption
  · exact touches_refl _ _

theorem freePortChucks_touches : ∀ a0 a1,
    Touches [.cyc, .regs, .hosts] a1 (freePortChucks a0 a1) := by
  intro a0 a1
  unfold freePortChucks
  extract_lets +onlyGivenNames x0
  clear_value x0
  extract_lets +onlyGivenNames x1
  refine touches_cut x1 ?_ (fun h1 => ?_)
  · unfold x1
    refine touches_forEach (fun _ _ _ => ?_) ?_
    · refine touches_after ?_ (rcUpFld_touches _ _ _ _ _) (by decide)
      refine touches_after ?_ (chuckFree_touches _ _) (by decide)
      assumption
    · exact touches_refl _ _
  clear_value x1
  refine touches_ite ?_ ?_
  · assumption
  · refine touches_after ?_ (alertSet_touches _ _ _) (by decide)
    assumption

theorem chkLeaseExpiryEff_touches : ∀ a0 a1,
    Touches [.cyc, .regs, .hosts] a1 (chkLeaseExpiryEff a0 a1) := by
  intro a0 a1
  unfold chkLeaseExpiryEff
  extract_lets +onlyGivenNames x0
  clear_value x0
  refine touches_ite ?_ ?_
  · exact touches_refl _ _
  · refine touches_after ?_ (freePortChucks_touches _ _) (by decide)
    exact touches_refl _ _

theorem execChkLeaseExpiry_touches : ∀ a0 a1,
    ∃ t, execChkLeaseExpiry a0 a1 = .next t ∧ Touches [.cyc, .regs, .hosts] a1 t := by
  intro a0 a1
  unfold execChkLeaseExpiry
  refine ⟨_, rfl, ?_⟩
  refine touches_ite ?_ ?_
  · refine touches_after ?_ (chkLeaseExpiryEff_touches _ _) (by decide)
    exact touches_refl _ _
  · exact touches_refl _ _

theorem outboundFail_touches : ∀ a0 a1,
    Touches [.cyc, .regs, .dma] a1 (outboundFail a0 a1) := by
  intro a0 a1
  unfold outboundFail
  split
  · extract_lets +onlyGivenNames x0
    clear_value x0
    refine touches_ite ?_ ?_
    · exact touches_refl _ _
    · refine touches_after ?_ (dmaSuspend_touches _ _ _ _) (by decide)
      refine touches_after ?_ (State.setDmaCh_touches _ _ _) (by decide)
      exact touches_refl _ _
  · exact touches_refl _ _

theorem outboundEnd_touches : ∀ a0 a1,
    Touches [.cyc, .regs, .dma, .outbound] a1 (outboundEnd a0 a1) := by
  intro a0 a1
  unfold outboundEnd
  extract_lets +onlyGivenNames x0
  clear_value x0
  refine touches_foldl (fun _ _ _ => ?_) ?_
  · refine touches_after ?_ (outboundFail_touches _ _) (by decide)
    assumption
  · refine touches_after ?_ (touch_outbound _) (by decide)
    exact touches_refl _ _

theorem portReset_touches : ∀ a0 a1 a2,
    Touches [.cyc, .regs, .dma, .outbound, .hosts] a2 (portReset a0 a1 a2) := by
  intro a0 a1 a2
  unfold portReset
  extract_lets +onlyGivenNames x0
  refine touches_cut x0 ?_ (fun h0 => ?_)
  · unfold x0
    refine touches_after ?_ (State.setReg_touches _ _ _) (by decide)
    exact touches_refl _ _
  clear_value x0
  extract_lets +onlyGivenNames x1
  clear_value x1
  extract_lets +onlyGivenNames x2
  refine touches_cut x2 ?_ (fun h2 => ?_)
  · unfold x2
    refine touches_after ?_ (State.setHost_touches _ _ _) (by decide)
    assumption
  clear_value x2
  refine touches_after ?_ (alertSet_touches _ _ _) (by decide)
  refine touches_after ?_ (freePortChucks_touches _ _) (by decide)
  refine touches_after ?_ (outboundEnd_touches _ _) (by decide)
  assumption

theorem execPerst_touches : ∀ a0 a1,
    ∃ t, execPerst a0 a1 = .next t ∧ Touches [.cyc, .regs, .dma, .outbound, .hosts] a1 t := by
  intro a0 a1
  unfold execPerst
  refine ⟨_, rfl, ?_⟩
  refine touches_ite ?_ ?_
  · refine touches_after ?_ (portReset_touches _ _ _) (by decide)
    exact touches_refl _ _
  · exact touches_refl _ _

theorem execFunctionLevelReset_touches : ∀ a0 a1,
    ∃ t, execFunctionLevelReset a0 a1 = .next t ∧ Touches [.cyc, .regs, .dma, .outbound, .hosts] a1 t := by
  intro a0 a1
  unfold execFunctionLevelReset
  refine ⟨_, rfl, ?_⟩
  refine touches_ite ?_ ?_
  · refine touches_after ?_ (portReset_touches _ _ _) (by decide)
    exact touches_refl _ _
  · exact touches_refl _ _

theorem execLinkUp_touches : ∀ a0 a1 a2 a3,
    ∃ t, execLinkUp a0 a1 a2 a3 = .next t ∧ Touches [.regs] a3 t := by
  intro a0 a1 a2 a3
  unfold execLinkUp
  refine ⟨_, rfl, ?_⟩
  refine touches_ite ?_ ?_
  · refine touches_after ?_ (State.setReg_touches _ _ _) (by decide)
    exact touches_refl _ _
  · exact touches_refl _ _

theorem configure_touches : ∀ a0 a1 a2,
    Touches [.regs, .hosts] a2 (configure a0 a1 a2) := by
  intro a0 a1 a2
  unfold configure
  split
  · refine touches_after ?_ (State.setBit_touches _ _ _ _) (by decide)
    exact touches_refl _ _
  · extract_lets +onlyGivenNames x0
    clear_value x0
    extract_lets +onlyGivenNames x1
    refine touches_cut x1 ?_ (fun h1 => ?_)
    · unfold x1
      refine touches_after ?_ (State.setHost_touches _ _ _) (by decide)
      refine touches_after ?_ (State.setBit_touches _ _ _ _) (by decide)
      exact touches_refl _ _
    clear_value x1
    refine touches_after ?_ (flushVectors_touches _ _) (by decide)
    assumption
  · refine touches_after ?_ (State.setHost_touches _ _ _) (by decide)
    exact touches_refl _ _

theorem execConfigurationRequest_touches : ∀ a0 a1 a2,
    ∃ t, execConfigurationRequest a0 a1 a2 = .next t ∧ Touches [.regs, .hosts] a2 t := by
  intro a0 a1 a2
  unfold execConfigurationRequest
  refine ⟨_, rfl, ?_⟩
  refine touches_ite ?_ ?_
  · refine touches_after ?_ (configure_touches _ _ _) (by decide)
    refine touches_after ?_ (State.setHost_touches _ _ _) (by decide)
    exact touches_refl _ _
  · exact touches_refl _ _

theorem State.setAbortEngine_touches : ∀ a0 a1 a2,
    Touches [.aborts] a0 (State.setAbortEngine a0 a1 a2) := by
  intro a0 a1 a2
  unfold State.setAbortEngine
  refine touches_after ?_ (touch_aborts _) (by decide)
  exact touches_refl _ _

theorem partFunction_touches : ∀ a0 a1 a2,
    Touches (.cyc :: .pulses :: .regs :: .spindles :: .comparators :: .pairs :: .groups :: .plate :: .loops :: .place :: .dma :: .outbound :: .consoles :: .conJobs :: .pipes :: .streams :: .mover :: .audio :: []) a2 (partFunction a0 a1 a2) := by
  intro a0 a1 a2
  unfold partFunction
  split
  · refine touches_after ?_ (abortLoop_touches _ _) (by decide)
    exact touches_refl _ _
  · refine touches_after ?_ (partGroup_touches _ _) (by decide)
    exact touches_refl _ _
  · refine touches_after ?_ (partSpindle_touches _ _) (by decide)
    exact touches_refl _ _
  · refine touches_after ?_ (partPartition_touches _ _) (by decide)
    exact touches_refl _ _
  · refine touches_after ?_ (partConsole_touches _ _) (by decide)
    exact touches_refl _ _
  · refine touches_after ?_ (partMover_touches _) (by decide)
    exact touches_refl _ _
  · refine touches_after ?_ (partRoute_touches _ _) (by decide)
    exact touches_refl _ _
  · refine touches_after ?_ (partOutput_touches _ _) (by decide)
    exact touches_refl _ _
  · refine touches_after ?_ (partDma_touches _ _) (by decide)
    exact touches_refl _ _

theorem showAbort_touches : ∀ a0 a1,
    Touches [.regs] a1 (showAbort a0 a1) := by
  intro a0 a1
  unfold showAbort
  extract_lets +onlyGivenNames x0
  clear_value x0
  refine touches_ite ?_ ?_
  · exact touches_refl _ _
  · refine touches_after ?_ (State.setReg_touches _ _ _) (by decide)
    exact touches_refl _ _

theorem noteAbort_touches : ∀ a0 a1 a2,
    Touches [.cyc] a2 (noteAbort a0 a1 a2) := by
  intro a0 a1 a2
  unfold noteAbort
  refine touches_ite ?_ ?_
  · exact touches_refl _ _
  · refine touches_after ?_ (noteSet_touches _ _ _) (by decide)
    exact touches_refl _ _

theorem abortComplete_touches : ∀ a0 a1,
    Touches [.cyc, .regs, .hosts, .aborts] a1 (abortComplete a0 a1) := by
  intro a0 a1
  unfold abortComplete
  extract_lets +onlyGivenNames x0
  clear_value x0
  extract_lets +onlyGivenNames x1
  refine touches_cut x1 ?_ (fun h1 => ?_)
  · unfold x1
    refine touches_after ?_ (showAbort_touches _ _) (by decide)
    refine touches_after ?_ (noteAbort_touches _ _ _) (by decide)
    refine touches_after ?_ (State.setAbortEngine_touches _ _ _) (by decide)
    exact touches_refl _ _
  clear_value x1
  extract_lets +onlyGivenNames x2
  refine touches_cut x2 ?_ (fun h2 => ?_)
  · unfold x2
    refine touches_ite ?_ ?_
    · refine touches_after ?_ (alertSet_touches _ _ _) (by decide)
      assumption
    · assumption
  clear_value x2
  extract_lets +onlyGivenNames x3
  refine touches_cut x3 ?_ (fun h3 => ?_)
  · unfold x3
    refine touches_ite ?_ ?_
    · refine touches_after ?_ (ringShared_touches _ _) (by decide)
      assumption
    · assumption
  clear_value x3
  refine touches_after ?_ (ringShared_touches _ _) (by decide)
  assumption

theorem abortRefuse_touches : ∀ a0 a1 a2 a3,
    Touches [.cyc, .regs, .aborts] a3 (abortRefuse a0 a1 a2 a3) := by
  intro a0 a1 a2 a3
  unfold abortRefuse
  extract_lets +onlyGivenNames x0
  clear_value x0
  refine touches_after ?_ (showAbort_touches _ _) (by decide)
  refine touches_after ?_ (noteAbort_touches _ _ _) (by decide)
  refine touches_after ?_ (State.setAbortEngine_touches _ _ _) (by decide)
  exact touches_refl _ _

theorem abortStart_touches : ∀ a0 a1 a2 a3 a4,
    Touches (.cyc :: .pulses :: .regs :: .spindles :: .comparators :: .pairs :: .groups :: .plate :: .loops :: .place :: .dma :: .outbound :: .consoles :: .conJobs :: .pipes :: .streams :: .mover :: .audio :: .hosts :: .aborts :: []) a4 (abortStart a0 a1 a2 a3 a4) := by
  intro a0 a1 a2 a3 a4
  unfold abortStart
  refine touches_ite ?_ ?_
  · refine touches_after ?_ (abortRefuse_touches _ _ _ _) (by decide)
    exact touches_refl _ _
  · extract_lets +onlyGivenNames x0
    clear_value x0
    extract_lets +onlyGivenNames x1
    refine touches_cut x1 ?_ (fun h1 => ?_)
    · unfold x1
      refine touches_after ?_ (showAbort_touches _ _) (by decide)
      refine touches_after ?_ (State.setAbortEngine_touches _ _ _) (by decide)
      exact touches_refl _ _
    clear_value x1
    refine touches_ite ?_ ?_
    · refine touches_after ?_ (abortComplete_touches _ _) (by decide)
      assumption
    · refine touches_after ?_ (partFunction_touches _ _ _) (by decide)
      assumption

theorem abortRequest_touches : ∀ a0 a1 a2 a3 a4,
    Touches (.cyc :: .pulses :: .regs :: .spindles :: .comparators :: .pairs :: .groups :: .plate :: .loops :: .place :: .dma :: .outbound :: .consoles :: .conJobs :: .pipes :: .streams :: .mover :: .audio :: .hosts :: .aborts :: []) a4 (abortRequest a0 a1 a2 a3 a4) := by
  intro a0 a1 a2 a3 a4
  unfold abortRequest
  extract_lets +onlyGivenNames x0
  refine touches_cut x0 ?_ (fun h0 => ?_)
  · unfold x0
    refine touches_after ?_ (abortStart_touches _ _ _ _ _) (by decide)
    exact touches_refl _ _
  clear_value x0
  refine touches_ite ?_ ?_
  · refine touches_after ?_ (raiseTs_touches _ _) (by decide)
    assumption
  · assumption

theorem abortWord_touches : ∀ a0 a1 a2,
    Touches (.cyc :: .pulses :: .regs :: .spindles :: .comparators :: .pairs :: .groups :: .plate :: .loops :: .place :: .dma :: .outbound :: .consoles :: .conJobs :: .pipes :: .streams :: .mover :: .audio :: .hosts :: .aborts :: []) a2 (abortWord a0 a1 a2) := by
  intro a0 a1 a2
  unfold abortWord
  refine touches_after ?_ (abortRequest_touches _ _ _ _ _) (by decide)
  exact touches_refl _ _

theorem abortCmd_touches : ∀ a0 a1 a2 a3 a4,
    Touches (.cyc :: .pulses :: .regs :: .spindles :: .comparators :: .pairs :: .groups :: .plate :: .loops :: .place :: .dma :: .outbound :: .consoles :: .conJobs :: .pipes :: .streams :: .mover :: .audio :: .hosts :: .aborts :: []) a4 (abortCmd a0 a1 a2 a3 a4) := by
  intro a0 a1 a2 a3 a4
  unfold abortCmd
  refine touches_ite ?_ ?_
  · refine touches_after ?_ (abortRequest_touches _ _ _ _ _) (by decide)
    exact touches_refl _ _
  · exact touches_refl _ _

theorem execAbortLoopContext_touches : ∀ a0 a1 a2 a3,
    ∃ t, execAbortLoopContext a0 a1 a2 a3 = .next t ∧ Touches (.cyc :: .pulses :: .regs :: .spindles :: .comparators :: .pairs :: .groups :: .plate :: .loops :: .place :: .dma :: .outbound :: .consoles :: .conJobs :: .pipes :: .streams :: .mover :: .audio :: .hosts :: .aborts :: []) a3 t := by
  intro a0 a1 a2 a3
  unfold execAbortLoopContext
  refine ⟨_, rfl, ?_⟩
  refine touches_after ?_ (abortCmd_touches _ _ _ _ _) (by decide)
  exact touches_refl _ _

theorem execAbortPwmGroup_touches : ∀ a0 a1 a2 a3,
    ∃ t, execAbortPwmGroup a0 a1 a2 a3 = .next t ∧ Touches (.cyc :: .pulses :: .regs :: .spindles :: .comparators :: .pairs :: .groups :: .plate :: .loops :: .place :: .dma :: .outbound :: .consoles :: .conJobs :: .pipes :: .streams :: .mover :: .audio :: .hosts :: .aborts :: []) a3 t := by
  intro a0 a1 a2 a3
  unfold execAbortPwmGroup
  refine ⟨_, rfl, ?_⟩
  refine touches_after ?_ (abortCmd_touches _ _ _ _ _) (by decide)
  exact touches_refl _ _

theorem execAbortSpindle_touches : ∀ a0 a1 a2 a3,
    ∃ t, execAbortSpindle a0 a1 a2 a3 = .next t ∧ Touches (.cyc :: .pulses :: .regs :: .spindles :: .comparators :: .pairs :: .groups :: .plate :: .loops :: .place :: .dma :: .outbound :: .consoles :: .conJobs :: .pipes :: .streams :: .mover :: .audio :: .hosts :: .aborts :: []) a3 t := by
  intro a0 a1 a2 a3
  unfold execAbortSpindle
  refine ⟨_, rfl, ?_⟩
  refine touches_after ?_ (abortCmd_touches _ _ _ _ _) (by decide)
  exact touches_refl _ _

theorem execAbortPlatePartition_touches : ∀ a0 a1 a2 a3,
    ∃ t, execAbortPlatePartition a0 a1 a2 a3 = .next t ∧ Touches (.cyc :: .pulses :: .regs :: .spindles :: .comparators :: .pairs :: .groups :: .plate :: .loops :: .place :: .dma :: .outbound :: .consoles :: .conJobs :: .pipes :: .streams :: .mover :: .audio :: .hosts :: .aborts :: []) a3 t := by
  intro a0 a1 a2 a3
  unfold execAbortPlatePartition
  refine ⟨_, rfl, ?_⟩
  refine touches_after ?_ (abortCmd_touches _ _ _ _ _) (by decide)
  exact touches_refl _ _

theorem execAbortConsoleContext_touches : ∀ a0 a1 a2 a3,
    ∃ t, execAbortConsoleContext a0 a1 a2 a3 = .next t ∧ Touches (.cyc :: .pulses :: .regs :: .spindles :: .comparators :: .pairs :: .groups :: .plate :: .loops :: .place :: .dma :: .outbound :: .consoles :: .conJobs :: .pipes :: .streams :: .mover :: .audio :: .hosts :: .aborts :: []) a3 t := by
  intro a0 a1 a2 a3
  unfold execAbortConsoleContext
  refine ⟨_, rfl, ?_⟩
  refine touches_after ?_ (abortCmd_touches _ _ _ _ _) (by decide)
  exact touches_refl _ _

theorem execAbort2dMover_touches : ∀ a0 a1 a2 a3,
    ∃ t, execAbort2dMover a0 a1 a2 a3 = .next t ∧ Touches (.cyc :: .pulses :: .regs :: .spindles :: .comparators :: .pairs :: .groups :: .plate :: .loops :: .place :: .dma :: .outbound :: .consoles :: .conJobs :: .pipes :: .streams :: .mover :: .audio :: .hosts :: .aborts :: []) a3 t := by
  intro a0 a1 a2 a3
  unfold execAbort2dMover
  refine ⟨_, rfl, ?_⟩
  refine touches_after ?_ (abortCmd_touches _ _ _ _ _) (by decide)
  exact touches_refl _ _

theorem execAbortAudioRoute_touches : ∀ a0 a1 a2 a3,
    ∃ t, execAbortAudioRoute a0 a1 a2 a3 = .next t ∧ Touches (.cyc :: .pulses :: .regs :: .spindles :: .comparators :: .pairs :: .groups :: .plate :: .loops :: .place :: .dma :: .outbound :: .consoles :: .conJobs :: .pipes :: .streams :: .mover :: .audio :: .hosts :: .aborts :: []) a3 t := by
  intro a0 a1 a2 a3
  unfold execAbortAudioRoute
  refine ⟨_, rfl, ?_⟩
  refine touches_after ?_ (abortCmd_touches _ _ _ _ _) (by decide)
  exact touches_refl _ _

theorem execAbortAudioOutput_touches : ∀ a0 a1 a2 a3,
    ∃ t, execAbortAudioOutput a0 a1 a2 a3 = .next t ∧ Touches (.cyc :: .pulses :: .regs :: .spindles :: .comparators :: .pairs :: .groups :: .plate :: .loops :: .place :: .dma :: .outbound :: .consoles :: .conJobs :: .pipes :: .streams :: .mover :: .audio :: .hosts :: .aborts :: []) a3 t := by
  intro a0 a1 a2 a3
  unfold execAbortAudioOutput
  refine ⟨_, rfl, ?_⟩
  refine touches_after ?_ (abortCmd_touches _ _ _ _ _) (by decide)
  exact touches_refl _ _

theorem execAbortDmaChannel_touches : ∀ a0 a1 a2 a3,
    ∃ t, execAbortDmaChannel a0 a1 a2 a3 = .next t ∧ Touches (.cyc :: .pulses :: .regs :: .spindles :: .comparators :: .pairs :: .groups :: .plate :: .loops :: .place :: .dma :: .outbound :: .consoles :: .conJobs :: .pipes :: .streams :: .mover :: .audio :: .hosts :: .aborts :: []) a3 t := by
  intro a0 a1 a2 a3
  unfold execAbortDmaChannel
  refine ⟨_, rfl, ?_⟩
  refine touches_after ?_ (abortCmd_touches _ _ _ _ _) (by decide)
  exact touches_refl _ _

theorem abortDoneEff_touches : ∀ a0 a1,
    Touches [.cyc, .regs, .hosts, .aborts] a1 (abortDoneEff a0 a1) := by
  intro a0 a1
  unfold abortDoneEff
  extract_lets +onlyGivenNames x0
  clear_value x0
  refine touches_ite ?_ ?_
  · refine touches_after ?_ (abortComplete_touches _ _) (by decide)
    exact touches_refl _ _
  · exact touches_refl _ _

theorem execAbortDone_touches : ∀ a0 a1,
    ∃ t, execAbortDone a0 a1 = .next t ∧ Touches [.cyc, .regs, .hosts, .aborts] a1 t := by
  intro a0 a1
  unfold execAbortDone
  refine ⟨_, rfl, ?_⟩
  refine touches_after ?_ (abortDoneEff_touches _ _) (by decide)
  exact touches_refl _ _

theorem abortStatusWrite_touches : ∀ a0 a1 a2,
    Touches [.regs, .aborts] a2 (abortStatusWrite a0 a1 a2) := by
  intro a0 a1 a2
  unfold abortStatusWrite
  extract_lets +onlyGivenNames x0
  clear_value x0
  extract_lets +onlyGivenNames x1
  clear_value x1
  refine touches_after ?_ (showAbort_touches _ _) (by decide)
  refine touches_after ?_ (State.setAbortEngine_touches _ _ _) (by decide)
  exact touches_refl _ _

theorem tsMessage_touches : ∀ a0 a1 a2,
    Touches [.dict] a2 (tsMessage a0 a1 a2) := by
  intro a0 a1 a2
  unfold tsMessage
  refine touches_after ?_ (touch_dict _) (by decide)
  exact touches_refl _ _

theorem hpTsMsg_touches : ∀ a0 a1 a2,
    Touches [.regs, .dict] a2 (hpTsMsg a0 a1 a2) := by
  intro a0 a1 a2
  unfold hpTsMsg
  refine touches_after ?_ (raiseTs_touches _ _) (by decide)
  refine touches_after ?_ (tsMessage_touches _ _ _) (by decide)
  exact touches_refl _ _

theorem execHpTsMsg_touches : ∀ a0 a1 a2,
    ∃ t, execHpTsMsg a0 a1 a2 = .next t ∧ Touches [.regs, .dict] a2 t := by
  intro a0 a1 a2
  unfold execHpTsMsg
  refine ⟨_, rfl, ?_⟩
  refine touches_ite ?_ ?_
  · refine touches_after ?_ (hpTsMsg_touches _ _ _) (by decide)
    exact touches_refl _ _
  · exact touches_refl _ _

theorem tsReply_touches : ∀ a0 a1 a2,
    Touches [.cyc, .regs, .hosts] a2 (tsReply a0 a1 a2) := by
  intro a0 a1 a2
  unfold tsReply
  refine touches_after ?_ (alertSet_touches _ _ _) (by decide)
  refine touches_after ?_ (State.setReg_touches _ _ _) (by decide)
  exact touches_refl _ _

theorem execTsReplyWrite_touches : ∀ a0 a1 a2,
    ∃ t, execTsReplyWrite a0 a1 a2 = .next t ∧ Touches [.cyc, .regs, .hosts] a2 t := by
  intro a0 a1 a2
  unfold execTsReplyWrite
  refine ⟨_, rfl, ?_⟩
  refine touches_ite ?_ ?_
  · refine touches_after ?_ (tsReply_touches _ _ _) (by decide)
    exact touches_refl _ _
  · exact touches_refl _ _

theorem tsmMsg_touches : ∀ a0 a1 a2,
    Touches [.regs, .dict] a2 (tsmMsg a0 a1 a2) := by
  intro a0 a1 a2
  unfold tsmMsg
  refine touches_after ?_ (raiseTs_touches _ _) (by decide)
  refine touches_after ?_ (tsMessage_touches _ _ _) (by decide)
  exact touches_refl _ _

theorem execTsmMsg_touches : ∀ a0 a1 a2,
    ∃ t, execTsmMsg a0 a1 a2 = .next t ∧ Touches [.regs, .dict] a2 t := by
  intro a0 a1 a2
  unfold execTsmMsg
  refine ⟨_, rfl, ?_⟩
  refine touches_ite ?_ ?_
  · refine touches_after ?_ (tsmMsg_touches _ _ _) (by decide)
    exact touches_refl _ _
  · exact touches_refl _ _

theorem tsmReply_touches : ∀ a0 a1 a2,
    Touches [.cyc, .regs] a2 (tsmReply a0 a1 a2) := by
  intro a0 a1 a2
  unfold tsmReply
  refine touches_after ?_ (ringPrivate_touches _ _ _) (by decide)
  refine touches_after ?_ (State.setReg_touches _ _ _) (by decide)
  exact touches_refl _ _

theorem execTsmReply_touches : ∀ a0 a1 a2,
    ∃ t, execTsmReply a0 a1 a2 = .next t ∧ Touches [.cyc, .regs] a2 t := by
  intro a0 a1 a2
  unfold execTsmReply
  refine ⟨_, rfl, ?_⟩
  refine touches_ite ?_ ?_
  · refine touches_after ?_ (tsmReply_touches _ _ _) (by decide)
    exact touches_refl _ _
  · exact touches_refl _ _

theorem dictQueue_touches : ∀ a0 a1,
    Touches [.dict] a1 (dictQueue a0 a1) := by
  intro a0 a1
  unfold dictQueue
  extract_lets +onlyGivenNames x0
  clear_value x0
  extract_lets +onlyGivenNames x1
  unfold x1
  clear x1
  refine touches_after ?_ (touch_dict _) (by decide)
  exact touches_refl _ _

theorem hpDictCmd_touches : ∀ a0 a1 a2,
    Touches [.regs, .dict] a2 (hpDictCmd a0 a1 a2) := by
  intro a0 a1 a2
  unfold hpDictCmd
  refine touches_ite ?_ ?_
  · exact touches_refl _ _
  · extract_lets +onlyGivenNames x0
    clear_value x0
    refine touches_after ?_ (raiseTs_touches _ _) (by decide)
    refine touches_after ?_ (State.setBit_touches _ _ _ _) (by decide)
    refine touches_after ?_ (dictQueue_touches _ _) (by decide)
    exact touches_refl _ _

theorem tsmDictCmd_touches : ∀ a0 a1 a2,
    Touches [.regs, .dict] a2 (tsmDictCmd a0 a1 a2) := by
  intro a0 a1 a2
  unfold tsmDictCmd
  refine touches_ite ?_ ?_
  · exact touches_refl _ _
  · extract_lets +onlyGivenNames x0
    clear_value x0
    refine touches_after ?_ (raiseTs_touches _ _) (by decide)
    refine touches_after ?_ (State.setBit_touches _ _ _ _) (by decide)
    refine touches_after ?_ (dictQueue_touches _ _) (by decide)
    exact touches_refl _ _

theorem execTsmDictCmd_touches : ∀ a0 a1 a2,
    ∃ t, execTsmDictCmd a0 a1 a2 = .next t ∧ Touches [.regs, .dict] a2 t := by
  intro a0 a1 a2
  unfold execTsmDictCmd
  refine ⟨_, rfl, ?_⟩
  refine touches_ite ?_ ?_
  · refine touches_after ?_ (tsmDictCmd_touches _ _ _) (by decide)
    exact touches_refl _ _
  · exact touches_refl _ _

end Sys2Proof.Machine
end

