-- ==== Sys2Proof/Laws/TouchCv.lean ====
section
/-! SUPPORT. Which parts of the state the definitions of Machine/Cv.lean touch: one lemma for each, the proofs written by a
script from their shape. -/

namespace Sys2Proof.Machine

theorem State.setCv_touches : ∀ a0 a1 a2,
    Touches [.cvs] a0 (State.setCv a0 a1 a2) := by
  intro a0 a1 a2
  unfold State.setCv
  refine touches_after ?_ (touch_cvs _) (by decide)
  exact touches_refl _ _

theorem setCvValue_touches : ∀ a0 a1 a2,
    Touches [.regs] a2 (setCvValue a0 a1 a2) := by
  intro a0 a1 a2
  unfold setCvValue
  refine touches_after ?_ (State.setReg_touches _ _ _) (by decide)
  refine touches_after ?_ (State.setReg_touches _ _ _) (by decide)
  exact touches_refl _ _

theorem cvEvent_touches : ∀ a0 a1 a2,
    Touches [.cyc, .regs] a2 (cvEvent a0 a1 a2) := by
  intro a0 a1 a2
  unfold cvEvent
  refine touches_after ?_ (raiseStatus_touches _ _ _ _ _) (by decide)
  exact touches_refl _ _

theorem cvUndefined_touches : ∀ a0 a1,
    Touches [.freeCtr, .regs, .cvs] a1 (cvUndefined a0 a1) := by
  intro a0 a1
  unfold cvUndefined
  extract_lets +onlyGivenNames x0
  refine touches_cut_snd x0 ?_ (fun h0 => ?_)
  · unfold x0
    refine touches_after ?_ (takeFree_touches _ _) (by decide)
    refine touches_after ?_ (freeReg_touches _ _) (by decide)
    refine touches_after ?_ (freeReg_touches _ _) (by decide)
    refine touches_after ?_ (freeReg_touches _ _) (by decide)
    refine touches_after ?_ (freeReg_touches _ _) (by decide)
    exact touches_refl _ _
  clear_value x0
  extract_lets +onlyGivenNames x1
  clear_value x1
  extract_lets +onlyGivenNames x2
  refine touches_cut_snd x2 ?_ (fun h2 => ?_)
  · unfold x2
    refine touches_after ?_ (takeFree_touches _ _) (by decide)
    refine touches_after ?_ (State.setCv_touches _ _ _) (by decide)
    assumption
  clear_value x2
  refine touches_after ?_ (State.setReg_touches _ _ _) (by decide)
  assumption

theorem cvReload_touches : ∀ a0 a1,
    Touches [.regs] a1 (cvReload a0 a1) := by
  intro a0 a1
  unfold cvReload
  refine touches_after ?_ (State.setReg_touches _ _ _) (by decide)
  refine touches_after ?_ (setCvValue_touches _ _ _) (by decide)
  exact touches_refl _ _

theorem cvFeed_touches : ∀ a0 a1 a2,
    Touches [.regs] a2 (cvFeed a0 a1 a2) := by
  intro a0 a1 a2
  unfold cvFeed
  extract_lets +onlyGivenNames x0
  clear_value x0
  extract_lets +onlyGivenNames x1
  clear_value x1
  refine touches_after ?_ (countWrap_touches _ _ _) (by decide)
  refine touches_after ?_ (setCvValue_touches _ _ _) (by decide)
  exact touches_refl _ _

theorem cvInitEntry_touches : ∀ a0 a1 a2,
    Touches [.regs, .cvs] a2 (cvInitEntry a0 a1 a2) := by
  intro a0 a1 a2
  unfold cvInitEntry
  refine touches_ite ?_ ?_
  · refine touches_after ?_ (cvReload_touches _ _) (by decide)
    refine touches_after ?_ (State.setCv_touches _ _ _) (by decide)
    exact touches_refl _ _
  · exact touches_refl _ _

theorem cvAlive_touches : ∀ a0 a1 a2,
    Touches [.freeCtr, .cyc, .regs, .cvs] a2 (cvAlive a0 a1 a2) := by
  intro a0 a1 a2
  unfold cvAlive
  refine touches_ite ?_ ?_
  · exact touches_refl _ _
  · extract_lets +onlyGivenNames x0
    clear_value x0
    refine touches_ite ?_ ?_
    · refine touches_after ?_ (cvUndefined_touches _ _) (by decide)
      exact touches_refl _ _
    · extract_lets +onlyGivenNames x1
      clear_value x1
      extract_lets +onlyGivenNames x2
      clear_value x2
      extract_lets +onlyGivenNames x3
      refine touches_cut x3 ?_ (fun h3 => ?_)
      · unfold x3
        refine touches_after ?_ (State.setCv_touches _ _ _) (by decide)
        exact touches_refl _ _
      clear_value x3
      extract_lets +onlyGivenNames x4
      clear_value x4
      split
      · assumption
      · extract_lets +onlyGivenNames x5
        clear_value x5
        refine touches_ite ?_ ?_
        · refine touches_after ?_ (cvEvent_touches _ _ _) (by decide)
          assumption
        · refine touches_ite ?_ ?_
          · refine touches_after ?_ (cvEvent_touches _ _ _) (by decide)
            refine touches_after ?_ (rcUpFld_touches _ _ _ _ _) (by decide)
            exact touches_refl _ _
          · refine touches_ite ?_ ?_
            · refine touches_after ?_ (cvEvent_touches _ _ _) (by decide)
              refine touches_after ?_ (rcUpFld_touches _ _ _ _ _) (by decide)
              assumption
            · refine touches_after ?_ (cvEvent_touches _ _ _) (by decide)
              refine touches_after ?_ (rcUpFld_touches _ _ _ _ _) (by decide)
              assumption

theorem cvCheck_touches : ∀ a0 a1 a2 a3,
    Touches [.cyc, .regs] a3 (cvCheck a0 a1 a2 a3) := by
  intro a0 a1 a2 a3
  unfold cvCheck
  extract_lets +onlyGivenNames x0
  clear_value x0
  extract_lets +onlyGivenNames x1
  refine touches_cut x1 ?_ (fun h1 => ?_)
  · unfold x1
    refine touches_after ?_ (cvEvent_touches _ _ _) (by decide)
    exact touches_refl _ _
  clear_value x1
  refine touches_ite ?_ ?_
  · refine touches_after ?_ (cvReload_touches _ _) (by decide)
    assumption
  · assumption

theorem cvEntry_touches : ∀ a0 a1 a2 a3 a4,
    Touches [.freeCtr, .cyc, .regs, .cvs] a4 (cvEntry a0 a1 a2 a3 a4) := by
  intro a0 a1 a2 a3 a4
  unfold cvEntry
  refine touches_ite ?_ ?_
  · refine touches_after ?_ (cvUndefined_touches _ _) (by decide)
    exact touches_refl _ _
  · split
    · refine touches_after ?_ (cvFeed_touches _ _ _) (by decide)
      exact touches_refl _ _
    · refine touches_after ?_ (cvFeed_touches _ _ _) (by decide)
      exact touches_refl _ _
    · refine touches_after ?_ (cvFeed_touches _ _ _) (by decide)
      exact touches_refl _ _
    · refine touches_after ?_ (cvInitEntry_touches _ _ _) (by decide)
      exact touches_refl _ _
    · refine touches_after ?_ (cvAlive_touches _ _ _) (by decide)
      exact touches_refl _ _
    · refine touches_after ?_ (cvCheck_touches _ _ _ _) (by decide)
      exact touches_refl _ _

theorem setCvQueue_touches : ∀ a0 a1 a2,
    Touches [.regs, .cvs] a2 (setCvQueue a0 a1 a2) := by
  intro a0 a1 a2
  unfold setCvQueue
  refine touches_after ?_ (State.setReg_touches _ _ _) (by decide)
  refine touches_after ?_ (State.setCv_touches _ _ _) (by decide)
  exact touches_refl _ _

theorem cvConsume_touches : ∀ a0 a1 a2,
    Touches [.freeCtr, .cyc, .regs, .cvs] a2 (cvConsume a0 a1 a2) := by
  intro a0 a1 a2
  unfold cvConsume
  split
  · exact touches_refl _ _
  · refine touches_ite ?_ ?_
    · refine touches_after ?_ (cvEntry_touches _ _ _ _ _) (by decide)
      refine touches_after ?_ (setCvQueue_touches _ _ _) (by decide)
      exact touches_refl _ _
    · exact touches_refl _ _

theorem cvDrain_touches : ∀ a0 a1,
    Touches [.freeCtr, .cyc, .regs, .cvs] a1 (cvDrain a0 a1) := by
  intro a0 a1
  unfold cvDrain
  refine touches_foldl (fun _ _ _ => ?_) ?_
  · refine touches_after ?_ (cvEntry_touches _ _ _ _ _) (by decide)
    assumption
  · refine touches_after ?_ (setCvQueue_touches _ _ _) (by decide)
    exact touches_refl _ _

theorem cvQueueWrite_touches : ∀ a0 a1 a2 a3,
    Touches [.cyc, .regs, .cvs] a3 (cvQueueWrite a0 a1 a2 a3) := by
  intro a0 a1 a2 a3
  unfold cvQueueWrite
  extract_lets +onlyGivenNames x0
  clear_value x0
  refine touches_ite ?_ ?_
  · exact touches_refl _ _
  · refine touches_ite ?_ ?_
    · refine touches_after ?_ (cvEvent_touches _ _ _) (by decide)
      exact touches_refl _ _
    · refine touches_ite ?_ ?_
      · refine touches_after ?_ (setCvQueue_touches _ _ _) (by decide)
        refine touches_after ?_ (State.setCv_touches _ _ _) (by decide)
        exact touches_refl _ _
      · refine touches_after ?_ (setCvQueue_touches _ _ _) (by decide)
        exact touches_refl _ _

theorem execCvQueueWrite_touches : ∀ a0 a1 a2 a3,
    ∃ t, execCvQueueWrite a0 a1 a2 a3 = .next t ∧ Touches [.cyc, .regs, .cvs] a3 t := by
  intro a0 a1 a2 a3
  unfold execCvQueueWrite
  refine ⟨_, rfl, ?_⟩
  refine touches_ite ?_ ?_
  · refine touches_after ?_ (cvQueueWrite_touches _ _ _ _) (by decide)
    exact touches_refl _ _
  · exact touches_refl _ _

theorem execCvData_touches : ∀ a0 a1,
    ∃ t, execCvData a0 a1 = .next t ∧ Touches [.freeCtr, .cyc, .regs, .cvs] a1 t := by
  intro a0 a1
  unfold execCvData
  refine ⟨_, rfl, ?_⟩
  refine touches_ite ?_ ?_
  · refine touches_after ?_ (cvConsume_touches _ _ _) (by decide)
    exact touches_refl _ _
  · exact touches_refl _ _

theorem execCvInit_touches : ∀ a0 a1,
    ∃ t, execCvInit a0 a1 = .next t ∧ Touches [.freeCtr, .cyc, .regs, .cvs] a1 t := by
  intro a0 a1
  unfold execCvInit
  refine ⟨_, rfl, ?_⟩
  refine touches_ite ?_ ?_
  · refine touches_after ?_ (cvConsume_touches _ _ _) (by decide)
    exact touches_refl _ _
  · exact touches_refl _ _

theorem execCvAliveIn_touches : ∀ a0 a1,
    ∃ t, execCvAliveIn a0 a1 = .next t ∧ Touches [.freeCtr, .cyc, .regs, .cvs] a1 t := by
  intro a0 a1
  unfold execCvAliveIn
  refine ⟨_, rfl, ?_⟩
  refine touches_ite ?_ ?_
  · refine touches_after ?_ (cvConsume_touches _ _ _) (by decide)
    exact touches_refl _ _
  · exact touches_refl _ _

theorem execCvCheck_touches : ∀ a0 a1,
    ∃ t, execCvCheck a0 a1 = .next t ∧ Touches [.freeCtr, .cyc, .regs, .cvs] a1 t := by
  intro a0 a1
  unfold execCvCheck
  refine ⟨_, rfl, ?_⟩
  refine touches_ite ?_ ?_
  · refine touches_after ?_ (cvConsume_touches _ _ _) (by decide)
    exact touches_refl _ _
  · exact touches_refl _ _

theorem cvStateLo_touches : ∀ a0 a1 a2,
    Touches [.freeCtr, .regs, .cvs] a2 (cvStateLo a0 a1 a2) := by
  intro a0 a1 a2
  unfold cvStateLo
  extract_lets +onlyGivenNames x0
  clear_value x0
  refine touches_ite ?_ ?_
  · refine touches_after ?_ (cvUndefined_touches _ _) (by decide)
    exact touches_refl _ _
  · refine touches_after ?_ (setCvValue_touches _ _ _) (by decide)
    refine touches_after ?_ (State.setCv_touches _ _ _) (by decide)
    exact touches_refl _ _

theorem execCvStateLo_touches : ∀ a0 a1 a2,
    ∃ t, execCvStateLo a0 a1 a2 = .next t ∧ Touches [.freeCtr, .regs, .cvs] a2 t := by
  intro a0 a1 a2
  unfold execCvStateLo
  refine ⟨_, rfl, ?_⟩
  refine touches_ite ?_ ?_
  · refine touches_after ?_ (cvStateLo_touches _ _ _) (by decide)
    exact touches_refl _ _
  · exact touches_refl _ _

theorem cvConfigWrite_touches : ∀ a0 a1 a2 a3 a4,
    Touches [.freeCtr, .regs, .cvs] a4 (cvConfigWrite a0 a1 a2 a3 a4) := by
  intro a0 a1 a2 a3 a4
  unfold cvConfigWrite
  extract_lets +onlyGivenNames x0
  clear_value x0
  extract_lets +onlyGivenNames x1
  refine touches_cut x1 ?_ (fun h1 => ?_)
  · unfold x1
    refine touches_after ?_ (State.setReg_touches _ _ _) (by decide)
    exact touches_refl _ _
  clear_value x1
  extract_lets +onlyGivenNames x2
  clear_value x2
  extract_lets +onlyGivenNames x3
  refine touches_cut x3 ?_ (fun h3 => ?_)
  · unfold x3
    refine touches_ite ?_ ?_
    · refine touches_after ?_ (State.setCv_touches _ _ _) (by decide)
      assumption
    · assumption
  clear_value x3
  refine touches_ite ?_ ?_
  · assumption
  · refine touches_after ?_ (cvUndefined_touches _ _) (by decide)
    assumption

theorem mcrInfoWrite_touches : ∀ a0 a1 a2,
    Touches [.regs] a2 (mcrInfoWrite a0 a1 a2) := by
  intro a0 a1 a2
  unfold mcrInfoWrite
  refine touches_ite ?_ ?_
  · refine touches_after ?_ (State.setReg_touches _ _ _) (by decide)
    refine touches_after ?_ (State.setReg_touches _ _ _) (by decide)
    refine touches_after ?_ (State.setReg_touches _ _ _) (by decide)
    exact touches_refl _ _
  · exact touches_refl _ _

theorem execMcrInfo_touches : ∀ a0 a1 a2 a3,
    ∃ t, execMcrInfo a0 a1 a2 a3 = .next t ∧ Touches [.regs] a3 t := by
  intro a0 a1 a2 a3
  unfold execMcrInfo
  refine ⟨_, rfl, ?_⟩
  refine touches_ite ?_ ?_
  · refine touches_after ?_ (mcrInfoWrite_touches _ _ _) (by decide)
    exact touches_refl _ _
  · exact touches_refl _ _

theorem mcrRecord_touches : ∀ a0 a1 a2,
    Touches [.regs] a2 (mcrRecord a0 a1 a2) := by
  intro a0 a1 a2
  unfold mcrRecord
  refine touches_after ?_ (State.setReg_touches _ _ _) (by decide)
  refine touches_after ?_ (State.setReg_touches _ _ _) (by decide)
  refine touches_after ?_ (State.setReg_touches _ _ _) (by decide)
  exact touches_refl _ _

theorem scrubMemory_touches : ∀ a0 a1,
    Touches [.cyc, .regs, .poison, .checks] a1 (scrubMemory a0 a1) := by
  intro a0 a1
  unfold scrubMemory
  refine touches_ite ?_ ?_
  · refine touches_after ?_ (countPoisoned_touches _) (by decide)
    exact touches_refl _ _
  · extract_lets +onlyGivenNames x0
    refine touches_cut x0 ?_ (fun h0 => ?_)
    · unfold x0
      refine touches_after ?_ (poisonUnit_touches _ _) (by decide)
      exact touches_refl _ _
    clear_value x0
    split
    · refine touches_after ?_ (postCheck_touches _ _ _ _) (by decide)
      assumption
    · refine touches_after ?_ (postCheck_touches _ _ _ _) (by decide)
      assumption
    · refine touches_after ?_ (postCheck_touches _ _ _ _) (by decide)
      assumption

theorem scrubMedia_touches : ∀ a0 a1,
    Touches [.cyc, .regs, .poison, .checks] a1 (scrubMedia a0 a1) := by
  intro a0 a1
  unfold scrubMedia
  refine touches_ite ?_ ?_
  · refine touches_after ?_ (countPoisoned_touches _) (by decide)
    exact touches_refl _ _
  · extract_lets +onlyGivenNames x0
    clear_value x0
    extract_lets +onlyGivenNames x1
    clear_value x1
    refine touches_after ?_ (postCheck_touches _ _ _ _) (by decide)
    refine touches_after ?_ (poisonUnit_touches _ _) (by decide)
    exact touches_refl _ _

theorem scrubFail_touches : ∀ a0 a1,
    Touches (.cyc :: .pulses :: .regs :: .comparators :: .pairs :: .groups :: .plate :: .loops :: .consoles :: .heads :: .mem :: .poison :: .checks :: []) a1 (scrubFail a0 a1) := by
  intro a0 a1
  unfold scrubFail
  split
  · refine touches_ite ?_ ?_
    · refine touches_after ?_ (scrubMemory_touches _ _) (by decide)
      exact touches_refl _ _
    · exact touches_refl _ _
  · refine touches_after ?_ (countDetect_touches _) (by decide)
    exact touches_refl _ _
  · extract_lets +onlyGivenNames x0
    clear_value x0
    refine touches_ite ?_ ?_
    · refine touches_after ?_ (countPoisoned_touches _) (by decide)
      exact touches_refl _ _
    · refine touches_after ?_ (postCheck_touches _ _ _ _) (by decide)
      refine touches_after ?_ (poisonUnit_touches _ _) (by decide)
      exact touches_refl _ _
  · refine touches_ite ?_ ?_
    · refine touches_after ?_ (plateRefetchEff_touches _ _ _) (by decide)
      exact touches_refl _ _
    · exact touches_refl _ _
  · refine touches_ite ?_ ?_
    · refine touches_after ?_ (stateRebuildEff_touches _ _) (by decide)
      exact touches_refl _ _
    · exact touches_refl _ _
  · refine touches_ite ?_ ?_
    · refine touches_after ?_ (countDetect_touches _) (by decide)
      refine touches_after ?_ (State.setCtx_touches _ _ _) (by decide)
      exact touches_refl _ _
    · exact touches_refl _ _
  · refine touches_ite ?_ ?_
    · refine touches_after ?_ (postCheck_touches _ _ _ _) (by decide)
      refine touches_after ?_ (bankFault_touches _ _) (by decide)
      exact touches_refl _ _
    · exact touches_refl _ _
  · refine touches_ite ?_ ?_
    · refine touches_after ?_ (scrubMedia_touches _ _) (by decide)
      exact touches_refl _ _
    · exact touches_refl _ _
  · refine touches_ite ?_ ?_
    · refine touches_after ?_ (underrunEff_touches _ _ _ _ _) (by decide)
      refine touches_after ?_ (countDetect_touches _) (by decide)
      exact touches_refl _ _
    · exact touches_refl _ _
  · refine touches_ite ?_ ?_
    · refine touches_after ?_ (countDetect_touches _) (by decide)
      refine touches_after ?_ (State.setCon_touches _ _ _) (by decide)
      exact touches_refl _ _
    · exact touches_refl _ _
  · refine touches_ite ?_ ?_
    · refine touches_after ?_ (countDetect_touches _) (by decide)
      exact touches_refl _ _
    · exact touches_refl _ _

theorem scrubEff_touches : ∀ a0 a1 a2,
    Touches (.cyc :: .pulses :: .regs :: .comparators :: .pairs :: .groups :: .plate :: .loops :: .consoles :: .heads :: .mem :: .poison :: .checks :: []) a2 (scrubEff a0 a1 a2) := by
  intro a0 a1 a2
  unfold scrubEff
  extract_lets +onlyGivenNames x0
  clear_value x0
  refine touches_ite ?_ ?_
  · refine touches_after ?_ (scrubFail_touches _ _) (by decide)
    exact touches_refl _ _
  · exact touches_refl _ _

theorem execScrubRead_touches : ∀ a0 a1 a2,
    ∃ t, execScrubRead a0 a1 a2 = .next t ∧ Touches (.cyc :: .pulses :: .regs :: .comparators :: .pairs :: .groups :: .plate :: .loops :: .consoles :: .heads :: .mem :: .poison :: .checks :: []) a2 t := by
  intro a0 a1 a2
  unfold execScrubRead
  refine ⟨_, rfl, ?_⟩
  refine touches_after ?_ (scrubEff_touches _ _ _) (by decide)
  exact touches_refl _ _

end Sys2Proof.Machine
end

