-- ==== Sys2Proof/Laws/TouchPins.lean ====
section
/-! SUPPORT. Which parts of the state the definitions of Machine/Pins.lean touch: one lemma for each, the proofs written by a
script from their shape. -/

namespace Sys2Proof.Machine

theorem setGpioIn_touches : ∀ a0 a1 a2,
    Touches [.regs] a2 (setGpioIn a0 a1 a2) := by
  intro a0 a1 a2
  unfold setGpioIn
  refine touches_after ?_ (State.setBit_touches _ _ _ _) (by decide)
  exact touches_refl _ _

theorem setPinStat_touches : ∀ a0 a1 a2,
    Touches [.cyc, .regs] a2 (setPinStat a0 a1 a2) := by
  intro a0 a1 a2
  unfold setPinStat
  refine touches_ite ?_ ?_
  · extract_lets +onlyGivenNames x0
    clear_value x0
    extract_lets +onlyGivenNames x1
    refine touches_cut x1 ?_ (fun h1 => ?_)
    · unfold x1
      refine touches_after ?_ (noteSet_touches _ _ _) (by decide)
      refine touches_after ?_ (State.setBit_touches _ _ _ _) (by decide)
      exact touches_refl _ _
    clear_value x1
    refine touches_ite ?_ ?_
    · refine touches_after ?_ (noteDeferred_touches _ _) (by decide)
      assumption
    · assumption
  · refine touches_after ?_ (State.setBit_touches _ _ _ _) (by decide)
    exact touches_refl _ _

theorem pinEvent_touches : ∀ a0 a1 a2 a3,
    Touches [.cyc, .regs] a3 (pinEvent a0 a1 a2 a3) := by
  intro a0 a1 a2 a3
  unfold pinEvent
  split
  · refine touches_ite ?_ ?_
    · refine touches_after ?_ (setPinStat_touches _ _ _) (by decide)
      exact touches_refl _ _
    · exact touches_refl _ _
  · refine touches_ite ?_ ?_
    · refine touches_after ?_ (setPinStat_touches _ _ _) (by decide)
      exact touches_refl _ _
    · exact touches_refl _ _
  · refine touches_ite ?_ ?_
    · refine touches_after ?_ (setPinStat_touches _ _ _) (by decide)
      exact touches_refl _ _
    · exact touches_refl _ _
  · refine touches_after ?_ (setPinStat_touches _ _ _) (by decide)
    exact touches_refl _ _
  · refine touches_after ?_ (setPinStat_touches _ _ _) (by decide)
    exact touches_refl _ _
  · exact touches_refl _ _

theorem filterAcceptEff_touches : ∀ a0 a1 a2,
    Touches [.freeCtr, .cyc, .regs] a2 (filterAcceptEff a0 a1 a2) := by
  intro a0 a1 a2
  unfold filterAcceptEff
  refine touches_ite ?_ ?_
  · exact touches_refl _ _
  · extract_lets +onlyGivenNames x0
    clear_value x0
    refine touches_ite ?_ ?_
    · extract_lets +onlyGivenNames x1
      refine touches_cut_snd x1 ?_ (fun h1 => ?_)
      · unfold x1
        refine touches_after ?_ (takeFree_touches _ _) (by decide)
        exact touches_refl _ _
      clear_value x1
      refine touches_after ?_ (setPinStat_touches _ _ _) (by decide)
      refine touches_after ?_ (setGpioIn_touches _ _ _) (by decide)
      assumption
    · refine touches_after ?_ (pinEvent_touches _ _ _ _) (by decide)
      refine touches_after ?_ (setGpioIn_touches _ _ _) (by decide)
      exact touches_refl _ _

theorem execFilterAccept_touches : ∀ a0 a1 a2,
    ∃ t, execFilterAccept a0 a1 a2 = .next t ∧ Touches [.freeCtr, .cyc, .regs] a2 t := by
  intro a0 a1 a2
  unfold execFilterAccept
  refine ⟨_, rfl, ?_⟩
  refine touches_ite ?_ ?_
  · refine touches_after ?_ (filterAcceptEff_touches _ _ _) (by decide)
    exact touches_refl _ _
  · exact touches_refl _ _

theorem conflictBits_touches : ∀ a0,
    Touches [.regs] a0 (conflictBits a0) := by
  intro a0
  unfold conflictBits
  refine touches_forEach (fun _ _ _ => ?_) ?_
  · refine touches_after ?_ (State.setBit_touches _ _ _ _) (by decide)
    assumption
  · exact touches_refl _ _

theorem seedEncoder_touches : ∀ a0 a1 a2,
    Touches [.spindles, .encoders, .encSince] a2 (seedEncoder a0 a1 a2) := by
  intro a0 a1 a2
  unfold seedEncoder
  extract_lets +onlyGivenNames x0
  unfold x0
  clear x0
  refine touches_forEach (fun _ _ _ => ?_) ?_
  · refine touches_after ?_ (State.setSpn_touches _ _ _) (by decide)
    assumption
  · refine touches_after ?_ (setLevels_touches _ _ _) (by decide)
    exact touches_refl _ _

theorem seedInput_touches : ∀ a0 a1 a2,
    Touches (.cyc :: .regs :: .spindles :: .encoders :: .encSince :: .pairs :: .tripPins :: .zonePins :: []) a2 (seedInput a0 a1 a2) := by
  intro a0 a1 a2
  unfold seedInput
  refine touches_ite ?_ ?_
  · exact touches_refl _ _
  · refine touches_ite ?_ ?_
    · refine touches_after ?_ (setGpioIn_touches _ _ _) (by decide)
      exact touches_refl _ _
    · refine touches_ite ?_ ?_
      · refine touches_after ?_ (seedEncoder_touches _ _ _) (by decide)
        exact touches_refl _ _
      · split
        · refine touches_ite ?_ ?_
          · exact touches_refl _ _
          · refine touches_after ?_ (tripPinLevel_touches _ _ _) (by decide)
            exact touches_refl _ _
        · exact touches_refl _ _

theorem pinCfgWrite_touches : ∀ a0 a1 a2 a3,
    Touches (.freeCtr :: .cyc :: .regs :: .spindles :: .encoders :: .encSince :: .pairs :: .tripPins :: .zonePins :: .keepers :: []) a3 (pinCfgWrite a0 a1 a2 a3) := by
  intro a0 a1 a2 a3
  unfold pinCfgWrite
  extract_lets +onlyGivenNames x0
  clear_value x0
  extract_lets +onlyGivenNames x1
  clear_value x1
  extract_lets +onlyGivenNames x2
  clear_value x2
  extract_lets +onlyGivenNames x3
  refine touches_cut_snd x3 ?_ (fun h3 => ?_)
  · unfold x3
    refine touches_after ?_ (takeFree_touches _ _) (by decide)
    exact touches_refl _ _
  clear_value x3
  extract_lets +onlyGivenNames x4
  refine touches_cut x4 ?_ (fun h4 => ?_)
  · unfold x4
    assumption
  extract_lets +onlyGivenNames x5
  refine touches_cut x5 ?_ (fun h5 => ?_)
  · unfold x5
    refine touches_ite ?_ ?_
    · refine touches_ite ?_ ?_
      · refine touches_after ?_ (touch_keepers _) (by decide)
        exact touches_refl _ _
      · refine touches_after ?_ (touch_keepers _) (by decide)
        assumption
    · exact touches_refl _ _
  clear_value x5
  extract_lets +onlyGivenNames x6
  refine touches_cut x6 ?_ (fun h6 => ?_)
  · unfold x6
    refine touches_after ?_ (conflictBits_touches _) (by decide)
    refine touches_after ?_ (State.setReg_touches _ _ _) (by decide)
    assumption
  clear_value x6
  extract_lets +onlyGivenNames x7
  refine touches_cut x7 ?_ (fun h7 => ?_)
  · unfold x7
    refine touches_ite ?_ ?_
    · refine touches_after ?_ (setPinStat_touches _ _ _) (by decide)
      assumption
    · assumption
  clear_value x7
  refine touches_ite ?_ ?_
  · refine touches_after ?_ (seedInput_touches _ _ _) (by decide)
    assumption
  · assumption

theorem execPinCfg_touches : ∀ a0 a1 a2 a3,
    ∃ t, execPinCfg a0 a1 a2 a3 = .next t ∧ Touches (.freeCtr :: .cyc :: .regs :: .spindles :: .encoders :: .encSince :: .pairs :: .tripPins :: .zonePins :: .keepers :: []) a3 t := by
  intro a0 a1 a2 a3
  unfold execPinCfg
  refine ⟨_, rfl, ?_⟩
  refine touches_ite ?_ ?_
  · refine touches_after ?_ (pinCfgWrite_touches _ _ _ _) (by decide)
    exact touches_refl _ _
  · exact touches_refl _ _

theorem execKeeperRelease_touches : ∀ a0 a1,
    ∃ t, execKeeperRelease a0 a1 = .next t ∧ Touches [.keepers] a1 t := by
  intro a0 a1
  unfold execKeeperRelease
  refine ⟨_, rfl, ?_⟩
  refine touches_ite ?_ ?_
  · refine touches_after ?_ (touch_keepers _) (by decide)
    exact touches_refl _ _
  · exact touches_refl _ _

theorem gpioStatWrite_touches : ∀ a0 a1 a2,
    Touches [.cyc, .regs] a2 (gpioStatWrite a0 a1 a2) := by
  intro a0 a1 a2
  unfold gpioStatWrite
  extract_lets +onlyGivenNames x0
  clear_value x0
  refine touches_forEach (fun _ _ _ => ?_) ?_
  · refine touches_ite ?_ ?_
    · refine touches_after ?_ (setPinStat_touches _ _ _) (by decide)
      assumption
    · assumption
  · exact touches_refl _ _

theorem pinsTick_touches : ∀ a0,
    Touches [.cyc, .regs] a0 (pinsTick a0) := by
  intro a0
  unfold pinsTick
  refine touches_forEach (fun _ _ _ => ?_) ?_
  · refine touches_after ?_ (setPinStat_touches _ _ _) (by decide)
    assumption
  · exact touches_refl _ _

theorem setSupply_touches : ∀ a0 a1 a2,
    Touches [.bankSupply] a2 (setSupply a0 a1 a2) := by
  intro a0 a1 a2
  unfold setSupply
  refine touches_after ?_ (touch_bankSupply _) (by decide)
  exact touches_refl _ _

theorem bankLost_touches : ∀ a0 a1,
    Touches [.cyc, .regs, .bankSupply] a1 (bankLost a0 a1) := by
  intro a0 a1
  unfold bankLost
  extract_lets +onlyGivenNames x0
  refine touches_cut x0 ?_ (fun h0 => ?_)
  · unfold x0
    refine touches_after ?_ (setSupply_touches _ _ _) (by decide)
    exact touches_refl _ _
  clear_value x0
  refine touches_ite ?_ ?_
  · refine touches_after ?_ (setEvent_touches _ _ _) (by decide)
    assumption
  · assumption

theorem bankReturn_touches : ∀ a0 a1 a2 a3,
    Touches (.cyc :: .regs :: .spindles :: .encoders :: .encSince :: .pairs :: .tripPins :: .zonePins :: .bankSupply :: []) a3 (bankReturn a0 a1 a2 a3) := by
  intro a0 a1 a2 a3
  unfold bankReturn
  refine touches_forEach (fun _ _ _ => ?_) ?_
  · refine touches_after ?_ (seedInput_touches _ _ _) (by decide)
    assumption
  · refine touches_after ?_ (setSupply_touches _ _ _) (by decide)
    exact touches_refl _ _

end Sys2Proof.Machine
end

