-- ==== Sys2Proof/Laws/TouchReset.lean ====
section
/-! SUPPORT. Which parts of the state the definitions of Machine/Reset.lean touch: one lemma for each, the proofs written by a
script from their shape. -/

namespace Sys2Proof.Machine

theorem loadStraps_touches : ∀ a0,
    Touches [.regs] a0 (loadStraps a0) := by
  intro a0
  unfold loadStraps
  refine touches_forEach (fun _ _ _ => ?_) ?_
  · refine touches_after ?_ (State.setReg_touches _ _ _) (by decide)
    assumption
  · refine touches_forEach (fun _ _ _ => ?_) ?_
    · refine touches_after ?_ (State.setReg_touches _ _ _) (by decide)
      assumption
    · refine touches_after ?_ (State.setReg_touches _ _ _) (by decide)
      exact touches_refl _ _

theorem holdTrip_touches : ∀ a0,
    Touches [.regs] a0 (holdTrip a0) := by
  intro a0
  unfold holdTrip
  refine touches_ite ?_ ?_
  · refine touches_after ?_ (State.setBit_touches _ _ _ _) (by decide)
    exact touches_refl _ _
  · exact touches_refl _ _

theorem coreDomainReset_touches : ∀ a0,
    Touches (.cyc :: .pulses :: .regs :: .sys :: .spindles :: .timers :: .ptp :: .adcs :: .channels :: .comparators :: .demods :: .sectors :: .pairs :: .groups :: .tripPins :: .zonePins :: .plate :: .loops :: .place :: .cores :: .aic :: .dma :: .dmaLast :: .outbound :: .posted :: .consoles :: .conJobs :: .pipes :: .streams :: .liveLines :: .active :: .mover :: .heads :: .audio :: .keepers :: .sec :: .cvs :: .dict :: .cans :: .macs :: .iotlb :: .sbOld :: .trainTries :: .refreshFast :: .dramTemp :: .macQueues :: .mem :: .poison :: .checks :: []) a0 (coreDomainReset a0) := by
  intro a0
  unfold coreDomainReset
  refine touches_after ?_ (holdTrip_touches _) (by decide)
  exact fun p hp => by cases p <;> first | rfl | exact absurd (by decide) hp

theorem nodeRestart_touches : ∀ a0,
    Touches [.canNode] a0 (nodeRestart a0) := by
  intro a0
  unfold nodeRestart
  refine touches_after ?_ (touch_canNode _) (by decide)
  exact touches_refl _ _

theorem deviceReset_touches : ∀ a0,
    Touches (.cyc :: .pulses :: .devTimer :: .regs :: .shadow :: .sys :: .spindles :: .timers :: .ptp :: .adcs :: .channels :: .comparators :: .demods :: .sectors :: .pairs :: .groups :: .tripPins :: .zonePins :: .plate :: .loops :: .place :: .cores :: .aic :: .dma :: .dmaLast :: .outbound :: .posted :: .consoles :: .conJobs :: .pipes :: .streams :: .liveLines :: .active :: .mover :: .heads :: .audio :: .keepers :: .sec :: .cvs :: .hosts :: .dict :: .canNode :: .cans :: .macs :: .aborts :: .iotlb :: .sbOld :: .trainTries :: .refreshFast :: .dramTemp :: .macQueues :: .busyPins :: .tsClaimed :: .mem :: .poison :: .checks :: []) a0 (deviceReset a0) := by
  intro a0
  unfold deviceReset
  extract_lets +onlyGivenNames x0
  refine touches_cut x0 ?_ (fun h0 => ?_)
  · unfold x0
    exact fun p hp => by cases p <;> first | rfl | exact absurd (by decide) hp
  clear_value x0
  refine touches_after ?_ (State.setReg_touches _ _ _) (by decide)
  refine touches_after ?_ (loadStraps_touches _) (by decide)
  refine touches_after ?_ (nodeRestart_touches _) (by decide)
  refine touches_after ?_ (holdTrip_touches _) (by decide)
  assumption

theorem powerOnReset_touches : ∀ a0,
    Touches (.cyc :: .pulses :: .devTimer :: .regs :: .shadow :: .sys :: .log :: .spindles :: .timers :: .ptp :: .adcs :: .channels :: .comparators :: .demods :: .sectors :: .pairs :: .groups :: .tripPins :: .zonePins :: .plate :: .loops :: .place :: .cores :: .aic :: .dma :: .dmaLast :: .outbound :: .posted :: .consoles :: .conJobs :: .pipes :: .streams :: .liveLines :: .active :: .mover :: .heads :: .audio :: .keepers :: .sec :: .cvs :: .hosts :: .dict :: .canNode :: .cans :: .macs :: .aborts :: .iotlb :: .sbOld :: .trainTries :: .refreshFast :: .dramTemp :: .macQueues :: .busyPins :: .tsClaimed :: .mem :: .poison :: .checks :: .unlock :: []) a0 (powerOnReset a0) := by
  intro a0
  unfold powerOnReset
  extract_lets +onlyGivenNames x0
  clear_value x0
  refine touches_after ?_ (holdTrip_touches _) (by decide)
  exact fun p hp => by cases p <;> first | rfl | exact absurd (by decide) hp

theorem execPowerGood_touches : ∀ a0 a1 a2 a3 a4,
    ∃ t, execPowerGood a0 a1 a2 a3 a4 = .next t ∧ Touches (.cyc :: .pulses :: .devTimer :: .regs :: .shadow :: .sys :: .log :: .spindles :: .timers :: .ptp :: .adcs :: .channels :: .comparators :: .demods :: .sectors :: .pairs :: .groups :: .tripPins :: .zonePins :: .plate :: .loops :: .place :: .cores :: .aic :: .dma :: .dmaLast :: .outbound :: .posted :: .consoles :: .conJobs :: .pipes :: .streams :: .liveLines :: .active :: .mover :: .heads :: .audio :: .keepers :: .sec :: .cvs :: .hosts :: .dict :: .canNode :: .cans :: .macs :: .aborts :: .iotlb :: .sbOld :: .trainTries :: .refreshFast :: .dramTemp :: .macQueues :: .busyPins :: .tsClaimed :: .mem :: .poison :: .checks :: .unlock :: []) a4 t := by
  intro a0 a1 a2 a3 a4
  unfold execPowerGood
  refine ⟨_, rfl, ?_⟩
  refine touches_ite ?_ ?_
  · exact touches_refl _ _
  · extract_lets +onlyGivenNames x0
    refine touches_cut x0 ?_ (fun h0 => ?_)
    · unfold x0
      refine touches_after ?_ (nodeRestart_touches _) (by decide)
      refine touches_after ?_ (powerOnReset_touches _) (by decide)
      exact touches_refl _ _
    clear_value x0
    refine touches_after ?_ (loadStraps_touches _) (by decide)
    refine touches_after ?_ (touch_sys _ (by rfl)) (by decide)
    assumption

theorem execSysPwrgdFall_touches : ∀ a0,
    ∃ t, execSysPwrgdFall a0 = .next t ∧ Touches (.cyc :: .pulses :: .devTimer :: .regs :: .shadow :: .sys :: .log :: .spindles :: .timers :: .ptp :: .adcs :: .channels :: .comparators :: .demods :: .sectors :: .pairs :: .groups :: .tripPins :: .zonePins :: .plate :: .loops :: .place :: .cores :: .aic :: .dma :: .dmaLast :: .outbound :: .posted :: .consoles :: .conJobs :: .pipes :: .streams :: .liveLines :: .active :: .mover :: .heads :: .audio :: .keepers :: .sec :: .cvs :: .hosts :: .dict :: .canNode :: .cans :: .macs :: .aborts :: .iotlb :: .sbOld :: .trainTries :: .refreshFast :: .dramTemp :: .macQueues :: .busyPins :: .tsClaimed :: .mem :: .poison :: .checks :: .unlock :: []) a0 t := by
  intro a0
  unfold execSysPwrgdFall
  refine ⟨_, rfl, ?_⟩
  refine touches_after ?_ (powerOnReset_touches _) (by decide)
  exact touches_refl _ _

theorem execDeviceReset_touches : ∀ a0,
    ∃ t, execDeviceReset a0 = .next t ∧ Touches (.cyc :: .pulses :: .devTimer :: .regs :: .shadow :: .sys :: .spindles :: .timers :: .ptp :: .adcs :: .channels :: .comparators :: .demods :: .sectors :: .pairs :: .groups :: .tripPins :: .zonePins :: .plate :: .loops :: .place :: .cores :: .aic :: .dma :: .dmaLast :: .outbound :: .posted :: .consoles :: .conJobs :: .pipes :: .streams :: .liveLines :: .active :: .mover :: .heads :: .audio :: .keepers :: .sec :: .cvs :: .hosts :: .dict :: .canNode :: .cans :: .macs :: .aborts :: .iotlb :: .sbOld :: .trainTries :: .refreshFast :: .dramTemp :: .macQueues :: .busyPins :: .tsClaimed :: .mem :: .poison :: .checks :: []) a0 t := by
  intro a0
  unfold execDeviceReset
  refine ⟨_, rfl, ?_⟩
  refine touches_ite ?_ ?_
  · refine touches_after ?_ (State.setBit_touches _ _ _ _) (by decide)
    refine touches_after ?_ (deviceReset_touches _) (by decide)
    exact touches_refl _ _
  · exact touches_refl _ _

theorem execCoreDomainReset_touches : ∀ a0,
    ∃ t, execCoreDomainReset a0 = .next t ∧ Touches (.cyc :: .pulses :: .regs :: .sys :: .spindles :: .timers :: .ptp :: .adcs :: .channels :: .comparators :: .demods :: .sectors :: .pairs :: .groups :: .tripPins :: .zonePins :: .plate :: .loops :: .place :: .cores :: .aic :: .dma :: .dmaLast :: .outbound :: .posted :: .consoles :: .conJobs :: .pipes :: .streams :: .liveLines :: .active :: .mover :: .heads :: .audio :: .keepers :: .sec :: .cvs :: .dict :: .cans :: .macs :: .iotlb :: .sbOld :: .trainTries :: .refreshFast :: .dramTemp :: .macQueues :: .mem :: .poison :: .checks :: []) a0 t := by
  intro a0
  unfold execCoreDomainReset
  refine ⟨_, rfl, ?_⟩
  refine touches_ite ?_ ?_
  · extract_lets +onlyGivenNames x0
    extract_lets +onlyGivenNames x1
    refine touches_cut x1 ?_ (fun h1 => ?_)
    · unfold x1
      refine touches_after ?_ (coreDomainReset_touches _) (by decide)
      refine touches_after ?_ (touch_sys _ (by rfl)) (by decide)
      exact touches_refl _ _
    clear_value x1
    refine touches_ite ?_ ?_
    · refine touches_after ?_ (State.setBit_touches _ _ _ _) (by decide)
      assumption
    · assumption
  · exact touches_refl _ _

theorem resetCore_touches : ∀ a0 a1 a2,
    Touches [.cores] a2 (resetCore a0 a1 a2) := by
  intro a0 a1 a2
  unfold resetCore
  refine touches_after ?_ (State.setCore_touches _ _ _) (by decide)
  exact touches_refl _ _

theorem coreReset_touches : ∀ a0 a1,
    Touches [.cyc, .regs, .cores, .hosts] a1 (coreReset a0 a1) := by
  intro a0 a1
  unfold coreReset
  refine touches_after ?_ (freeCoreChucks_touches _ _) (by decide)
  refine touches_after ?_ (resetCore_touches _ _ _) (by decide)
  refine touches_after ?_ (State.setBit_touches _ _ _ _) (by decide)
  exact touches_refl _ _

theorem execCoreReset_touches : ∀ a0 a1,
    ∃ t, execCoreReset a0 a1 = .next t ∧ Touches [.cyc, .regs, .cores, .hosts] a1 t := by
  intro a0 a1
  unfold execCoreReset
  refine ⟨_, rfl, ?_⟩
  refine touches_ite ?_ ?_
  · refine touches_after ?_ (coreReset_touches _ _) (by decide)
    exact touches_refl _ _
  · exact touches_refl _ _

theorem coreRelWrite_touches : ∀ a0 a1,
    Touches [.cyc, .regs, .cores, .hosts] a1 (coreRelWrite a0 a1) := by
  intro a0 a1
  unfold coreRelWrite
  extract_lets +onlyGivenNames x0
  clear_value x0
  refine touches_forEach (fun _ _ _ => ?_) ?_
  · refine touches_ite ?_ ?_
    · refine touches_after ?_ (resetCore_touches _ _ _) (by decide)
      refine touches_after ?_ (State.setBit_touches _ _ _ _) (by decide)
      assumption
    · refine touches_ite ?_ ?_
      · refine touches_after ?_ (coreReset_touches _ _) (by decide)
        assumption
      · assumption
  · exact touches_refl _ _

theorem clockLogged_touches : ∀ a0 a1,
    Touches [.freeCtr, .regs, .sys, .log, .canNode] a1 (clockLogged a0 a1) := by
  intro a0 a1
  unfold clockLogged
  extract_lets +onlyGivenNames x0
  extract_lets +onlyGivenNames x1
  refine touches_cut x1 ?_ (fun h1 => ?_)
  · unfold x1
    refine touches_after ?_ (touch_sys _ (by rfl)) (by decide)
    exact touches_refl _ _
  clear_value x1
  refine touches_after ?_ (raiseTs_touches _ _) (by decide)
  refine touches_after ?_ (logOpen_touches _ _ _ _ _) (by decide)
  assumption

theorem clockSeen_touches : ∀ a0 a1,
    Touches [.sys] a1 (clockSeen a0 a1) := by
  intro a0 a1
  unfold clockSeen
  refine touches_after ?_ (touch_sys _ (by rfl)) (by decide)
  exact touches_refl _ _

theorem fclkLostEff_touches : ∀ a0,
    Touches [.freeCtr, .cyc, .regs, .sys, .log, .pairs, .canNode] a0 (fclkLostEff a0) := by
  intro a0
  unfold fclkLostEff
  refine touches_ite ?_ ?_
  · extract_lets +onlyGivenNames x0
    refine touches_cut x0 ?_ (fun h0 => ?_)
    · unfold x0
      refine touches_after ?_ (safeAll_touches _ _) (by decide)
      exact touches_refl _ _
    clear_value x0
    refine touches_after ?_ (clockLogged_touches _ _) (by decide)
    refine touches_after ?_ (touch_sys _ (by rfl)) (by decide)
    assumption
  · exact touches_refl _ _

theorem execFclkLost_touches : ∀ a0,
    ∃ t, execFclkLost a0 = .next t ∧ Touches [.freeCtr, .cyc, .regs, .sys, .log, .pairs, .canNode] a0 t := by
  intro a0
  unfold execFclkLost
  refine ⟨_, rfl, ?_⟩
  refine touches_after ?_ (fclkLostEff_touches _) (by decide)
  exact touches_refl _ _

theorem execReferenceLost_touches : ∀ a0,
    ∃ t, execReferenceLost a0 = .next t ∧ Touches [.freeCtr, .cyc, .regs, .sys, .log, .pairs, .canNode] a0 t := by
  intro a0
  unfold execReferenceLost
  refine ⟨_, rfl, ?_⟩
  refine touches_ite ?_ ?_
  · extract_lets +onlyGivenNames x0
    refine touches_cut x0 ?_ (fun h0 => ?_)
    · unfold x0
      refine touches_after ?_ (fclkLostEff_touches _) (by decide)
      exact touches_refl _ _
    clear_value x0
    refine touches_after ?_ (clockLogged_touches _ _) (by decide)
    refine touches_after ?_ (touch_sys _ (by rfl)) (by decide)
    assumption
  · exact touches_refl _ _

theorem execCrystalLost_touches : ∀ a0,
    ∃ t, execCrystalLost a0 = .next t ∧ Touches [.freeCtr, .regs, .sys, .log, .canNode] a0 t := by
  intro a0
  unfold execCrystalLost
  refine ⟨_, rfl, ?_⟩
  refine touches_ite ?_ ?_
  · refine touches_after ?_ (clockLogged_touches _ _) (by decide)
    refine touches_after ?_ (touch_sys _ (by rfl)) (by decide)
    exact touches_refl _ _
  · exact touches_refl _ _

theorem execCrystalReturn_touches : ∀ a0,
    ∃ t, execCrystalReturn a0 = .next t ∧ Touches [.sys] a0 t := by
  intro a0
  unfold execCrystalReturn
  refine ⟨_, rfl, ?_⟩
  refine touches_ite ?_ ?_
  · refine touches_after ?_ (clockSeen_touches _ _) (by decide)
    refine touches_after ?_ (touch_sys _ (by rfl)) (by decide)
    exact touches_refl _ _
  · exact touches_refl _ _

theorem execTclkLost_touches : ∀ a0,
    ∃ t, execTclkLost a0 = .next t ∧ Touches [.freeCtr, .regs, .sys, .log, .canNode] a0 t := by
  intro a0
  unfold execTclkLost
  refine ⟨_, rfl, ?_⟩
  refine touches_ite ?_ ?_
  · refine touches_after ?_ (clockLogged_touches _ _) (by decide)
    refine touches_after ?_ (touch_sys _ (by rfl)) (by decide)
    exact touches_refl _ _
  · exact touches_refl _ _

theorem execTailstockPllLock_touches : ∀ a0,
    ∃ t, execTailstockPllLock a0 = .next t ∧ Touches [.sys] a0 t := by
  intro a0
  unfold execTailstockPllLock
  refine ⟨_, rfl, ?_⟩
  refine touches_ite ?_ ?_
  · refine touches_after ?_ (clockSeen_touches _ _) (by decide)
    refine touches_after ?_ (touch_sys _ (by rfl)) (by decide)
    exact touches_refl _ _
  · exact touches_refl _ _

theorem unitPllLost_touches : ∀ a0 a1,
    Touches [.cyc, .regs, .sys, .spindles, .pairs, .groups] a1 (unitPllLost a0 a1) := by
  intro a0 a1
  unfold unitPllLost
  split
  · refine touches_after ?_ (audioPllLost_touches _) (by decide)
    exact touches_refl _ _
  · refine touches_ite ?_ ?_
    · refine touches_after ?_ (headPllLost_touches _ _) (by decide)
      exact touches_refl _ _
    · exact touches_refl _ _
  · refine touches_ite ?_ ?_
    · refine touches_after ?_ (headPllLost_touches _ _) (by decide)
      exact touches_refl _ _
    · exact touches_refl _ _
  · refine touches_after ?_ (touch_sys _ (by rfl)) (by decide)
    exact touches_refl _ _

theorem execUnitPllLost_touches : ∀ a0 a1,
    ∃ t, execUnitPllLost a0 a1 = .next t ∧ Touches (.freeCtr :: .cyc :: .regs :: .sys :: .log :: .spindles :: .pairs :: .groups :: .canNode :: []) a1 t := by
  intro a0 a1
  unfold execUnitPllLost
  refine ⟨_, rfl, ?_⟩
  refine touches_ite ?_ ?_
  · refine touches_after ?_ (clockLogged_touches _ _) (by decide)
    refine touches_after ?_ (unitPllLost_touches _ _) (by decide)
    exact touches_refl _ _
  · exact touches_refl _ _

theorem abortsEnd_touches : ∀ a0,
    Touches [.cyc, .regs, .hosts, .aborts] a0 (abortsEnd a0) := by
  intro a0
  unfold abortsEnd
  refine touches_forEach (fun _ _ _ => ?_) ?_
  · refine touches_ite ?_ ?_
    · refine touches_after ?_ (abortComplete_touches _ _) (by decide)
      assumption
    · assumption
  · exact touches_refl _ _

theorem fabricLock_touches : ∀ a0,
    Touches [.cyc, .regs, .sys, .hosts, .aborts] a0 (fabricLock a0) := by
  intro a0
  unfold fabricLock
  extract_lets +onlyGivenNames x0
  refine touches_cut x0 ?_ (fun h0 => ?_)
  · unfold x0
    refine touches_after ?_ (clockSeen_touches _ _) (by decide)
    refine touches_after ?_ (clockSeen_touches _ _) (by decide)
    exact touches_refl _ _
  clear_value x0
  extract_lets +onlyGivenNames x1
  extract_lets +onlyGivenNames x2
  refine touches_cut x2 ?_ (fun h2 => ?_)
  · unfold x2
    refine touches_after ?_ (touch_sys _ (by rfl)) (by decide)
    assumption
  clear_value x2
  extract_lets +onlyGivenNames x3
  refine touches_cut x3 ?_ (fun h3 => ?_)
  · unfold x3
    refine touches_ite ?_ ?_
    · refine touches_after ?_ (setEvent_touches _ _ _) (by decide)
      assumption
    · assumption
  clear_value x3
  refine touches_ite ?_ ?_
  · refine touches_after ?_ (abortsEnd_touches _) (by decide)
    assumption
  · assumption

theorem execFabricPllLock_touches : ∀ a0,
    ∃ t, execFabricPllLock a0 = .next t ∧ Touches [.cyc, .regs, .sys, .hosts, .aborts] a0 t := by
  intro a0
  unfold execFabricPllLock
  refine ⟨_, rfl, ?_⟩
  refine touches_ite ?_ ?_
  · refine touches_after ?_ (fabricLock_touches _) (by decide)
    exact touches_refl _ _
  · exact touches_refl _ _

theorem dropRegs_touches : ∀ a0 a1 a2,
    Touches [.regs] a2 (dropRegs a0 a1 a2) := by
  intro a0 a1 a2
  unfold dropRegs
  refine touches_after ?_ (touch_regs _) (by decide)
  exact touches_refl _ _

theorem dropMem_touches : ∀ a0 a1 a2,
    Touches [.mem, .poison] a2 (dropMem a0 a1 a2) := by
  intro a0 a1 a2
  unfold dropMem
  refine touches_after ?_ (touch_mem_poison _) (by decide)
  exact touches_refl _ _

theorem coreOff_touches : ∀ a0 a1,
    Touches [.cyc, .regs, .sys, .cores, .hosts, .mem, .poison] a1 (coreOff a0 a1) := by
  intro a0 a1
  unfold coreOff
  extract_lets +onlyGivenNames x0
  refine touches_cut x0 ?_ (fun h0 => ?_)
  · unfold x0
    refine touches_after ?_ (dropMem_touches _ _ _) (by decide)
    refine touches_after ?_ (freeCoreChucks_touches _ _) (by decide)
    exact touches_refl _ _
  clear_value x0
  refine touches_after ?_ (touch_sys_cores _ (by rfl)) (by decide)
  assumption

theorem sectorOff_touches : ∀ a0 a1,
    Touches (.cyc :: .regs :: .sys :: .adcs :: .channels :: .comparators :: .demods :: .sectors :: .pairs :: .groups :: .loops :: []) a1 (sectorOff a0 a1) := by
  intro a0 a1
  unfold sectorOff
  extract_lets +onlyGivenNames x0
  clear_value x0
  extract_lets +onlyGivenNames x1
  refine touches_cut x1 ?_ (fun h1 => ?_)
  · unfold x1
    refine touches_after ?_ (dropRegs_touches _ _ _) (by decide)
    exact touches_refl _ _
  clear_value x1
  extract_lets +onlyGivenNames x2
  refine touches_cut x2 ?_ (fun h2 => ?_)
  · unfold x2
    refine touches_after ?_ (dropRegs_touches _ _ _) (by decide)
    assumption
  clear_value x2
  extract_lets +onlyGivenNames x3
  refine touches_cut x3 ?_ (fun h3 => ?_)
  · unfold x3
    refine touches_after ?_ (dropRegs_touches _ _ _) (by decide)
    assumption
  clear_value x3
  extract_lets +onlyGivenNames x4
  refine touches_cut x4 ?_ (fun h4 => ?_)
  · unfold x4
    refine touches_after ?_ (dropRegs_touches _ _ _) (by decide)
    assumption
  clear_value x4
  extract_lets +onlyGivenNames x5
  refine touches_cut x5 ?_ (fun h5 => ?_)
  · unfold x5
    refine touches_after ?_ (dropRegs_touches _ _ _) (by decide)
    assumption
  clear_value x5
  extract_lets +onlyGivenNames x6
  extract_lets +onlyGivenNames x7
  refine touches_cut x7 ?_ (fun h7 => ?_)
  · unfold x7
    refine touches_after ?_ (touch_sys_adcs_channels_comparators_demods_sectors_pairs_groups_loops _ (by rfl)) (by decide)
    assumption
  clear_value x7
  extract_lets +onlyGivenNames x8
  refine touches_cut x8 ?_ (fun h8 => ?_)
  · unfold x8
    refine touches_forEach (fun _ _ _ => ?_) ?_
    · refine touches_after ?_ (State.setReg_touches _ _ _) (by decide)
      assumption
    · refine touches_after ?_ (State.setReg_touches _ _ _) (by decide)
      refine touches_after ?_ (State.setReg_touches _ _ _) (by decide)
      assumption
  clear_value x8
  refine touches_after ?_ (safeAll_touches _ _) (by decide)
  refine touches_after ?_ (setOwners_touches _) (by decide)
  assumption

theorem mediaOff_touches : ∀ a0,
    Touches (.cyc :: .regs :: .sys :: .spindles :: .pairs :: .groups :: .consoles :: .conJobs :: .pipes :: .streams :: .liveLines :: .active :: .mover :: .heads :: .audio :: []) a0 (mediaOff a0) := by
  intro a0
  unfold mediaOff
  extract_lets +onlyGivenNames x0
  refine touches_cut x0 ?_ (fun h0 => ?_)
  · unfold x0
    refine touches_forEach (fun _ _ _ => ?_) ?_
    · refine touches_ite ?_ ?_
      · refine touches_after ?_ (rasterStop_touches _ _) (by decide)
        assumption
      · assumption
    · exact touches_refl _ _
  clear_value x0
  extract_lets +onlyGivenNames x1
  refine touches_cut x1 ?_ (fun h1 => ?_)
  · unfold x1
    refine touches_forEach (fun _ _ _ => ?_) ?_
    · refine touches_ite ?_ ?_
      · assumption
      · refine touches_after ?_ (headPllLost_touches _ _) (by decide)
        assumption
    · assumption
  clear_value x1
  extract_lets +onlyGivenNames x2
  refine touches_cut x2 ?_ (fun h2 => ?_)
  · unfold x2
    refine touches_after ?_ (dropRegs_touches _ _ _) (by decide)
    assumption
  clear_value x2
  refine touches_after ?_ (touch_sys_consoles_conJobs_pipes_streams_liveLines_active_mover_heads_audio _ (by rfl)) (by decide)
  assumption

theorem spoilCoreIsland_touches : ∀ a0 a1,
    Touches [.freeCtr, .cores, .aic, .mem] a1 (spoilCoreIsland a0 a1) := by
  intro a0 a1
  unfold spoilCoreIsland
  extract_lets +onlyGivenNames x0
  clear_value x0
  extract_lets +onlyGivenNames x1
  refine touches_cut x1 ?_ (fun h1 => ?_)
  · unfold x1
    refine touches_after ?_ (takeState_touches _) (by decide)
    exact touches_refl _ _
  clear_value x1
  refine touches_after ?_ (touch_cores_aic_mem _) (by decide)
  assumption

theorem spoilSector_touches : ∀ a0 a1,
    Touches (.freeCtr :: .regs :: .adcs :: .channels :: .comparators :: .demods :: .sectors :: .loops :: []) a1 (spoilSector a0 a1) := by
  intro a0 a1
  unfold spoilSector
  extract_lets +onlyGivenNames x0
  clear_value x0
  extract_lets +onlyGivenNames x1
  refine touches_cut x1 ?_ (fun h1 => ?_)
  · unfold x1
    refine touches_after ?_ (takeState_touches _) (by decide)
    exact touches_refl _ _
  clear_value x1
  refine touches_after ?_ (touch_regs_adcs_channels_comparators_demods_sectors_loops _) (by decide)
  assumption

theorem spoilMedia_touches : ∀ a0,
    Touches (.freeCtr :: .regs :: .consoles :: .conJobs :: .pipes :: .streams :: .liveLines :: .active :: .mover :: .heads :: .audio :: []) a0 (spoilMedia a0) := by
  intro a0
  unfold spoilMedia
  extract_lets u s
  exact touches_after ((takeState_touches a0).mono (by decide)) (touch_regs_consoles_conJobs_pipes_streams_liveLines_active_mover_heads_audio _) (by decide)

theorem islandSwitch_touches : ∀ a0 a1 a2,
    Touches (.freeCtr :: .cyc :: .regs :: .sys :: .spindles :: .adcs :: .channels :: .comparators :: .demods :: .sectors :: .pairs :: .groups :: .loops :: .cores :: .aic :: .consoles :: .conJobs :: .pipes :: .streams :: .liveLines :: .active :: .mover :: .heads :: .audio :: .hosts :: .mem :: .poison :: []) a2 (islandSwitch a0 a1 a2) := by
  intro a0 a1 a2
  unfold islandSwitch
  split
  · refine touches_ite ?_ ?_
    · exact touches_refl _ _
    · refine touches_ite ?_ ?_
      · refine touches_after ?_ (resetCore_touches _ _ _) (by decide)
        refine touches_after ?_ (touch_sys _ (by rfl)) (by decide)
        exact touches_refl _ _
      · refine touches_ite ?_ ?_
        · refine touches_after ?_ (spoilCoreIsland_touches _ _) (by decide)
          refine touches_after ?_ (coreOff_touches _ _) (by decide)
          exact touches_refl _ _
        · refine touches_after ?_ (coreOff_touches _ _) (by decide)
          exact touches_refl _ _
  · refine touches_ite ?_ ?_
    · exact touches_refl _ _
    · refine touches_ite ?_ ?_
      · refine touches_after ?_ (zonesRefresh_touches _ _) (by decide)
        refine touches_after ?_ (touch_sys _ (by rfl)) (by decide)
        exact touches_refl _ _
      · refine touches_ite ?_ ?_
        · refine touches_after ?_ (spoilSector_touches _ _) (by decide)
          refine touches_after ?_ (sectorOff_touches _ _) (by decide)
          exact touches_refl _ _
        · refine touches_after ?_ (sectorOff_touches _ _) (by decide)
          exact touches_refl _ _
  · refine touches_ite ?_ ?_
    · exact touches_refl _ _
    · refine touches_ite ?_ ?_
      · refine touches_after ?_ (touch_sys _ (by rfl)) (by decide)
        exact touches_refl _ _
      · refine touches_ite ?_ ?_
        · refine touches_after ?_ (spoilMedia_touches _) (by decide)
          refine touches_after ?_ (mediaOff_touches _) (by decide)
          exact touches_refl _ _
        · refine touches_after ?_ (mediaOff_touches _) (by decide)
          exact touches_refl _ _

theorem execIslandSwitch_touches : ∀ a0 a1 a2,
    ∃ t, execIslandSwitch a0 a1 a2 = .next t ∧ Touches (.freeCtr :: .cyc :: .regs :: .sys :: .spindles :: .adcs :: .channels :: .comparators :: .demods :: .sectors :: .pairs :: .groups :: .loops :: .cores :: .aic :: .consoles :: .conJobs :: .pipes :: .streams :: .liveLines :: .active :: .mover :: .heads :: .audio :: .hosts :: .mem :: .poison :: []) a2 t := by
  intro a0 a1 a2
  unfold execIslandSwitch
  refine ⟨_, rfl, ?_⟩
  refine touches_ite ?_ ?_
  · refine touches_after ?_ (islandSwitch_touches _ _ _) (by decide)
    exact touches_refl _ _
  · exact touches_refl _ _

theorem keepWrite_touches : ∀ a0 a1 a2,
    Touches [.sys] a2 (keepWrite a0 a1 a2) := by
  intro a0 a1 a2
  unfold keepWrite
  refine touches_after ?_ (touch_sys _ (by rfl)) (by decide)
  exact touches_refl _ _

theorem sclkWriteEff_touches : ∀ a0 a1,
    Touches [.sys] a1 (sclkWriteEff a0 a1) := by
  intro a0 a1
  unfold sclkWriteEff
  split
  · refine touches_after ?_ (touch_sys _ (by rfl)) (by decide)
    exact touches_refl _ _
  · exact touches_refl _ _

theorem execSclkWriteEffect_touches : ∀ a0 a1,
    ∃ t, execSclkWriteEffect a0 a1 = .next t ∧ Touches [.sys] a1 t := by
  intro a0 a1
  unfold execSclkWriteEffect
  refine ⟨_, rfl, ?_⟩
  refine touches_ite ?_ ?_
  · refine touches_after ?_ (sclkWriteEff_touches _ _) (by decide)
    exact touches_refl _ _
  · exact touches_refl _ _

theorem sclkEdge_touches : ∀ a0,
    Touches [.regs, .sys] a0 (sclkEdge a0) := by
  intro a0
  unfold sclkEdge
  extract_lets +onlyGivenNames x0
  clear_value x0
  extract_lets +onlyGivenNames x1
  extract_lets +onlyGivenNames x2
  refine touches_cut x2 ?_ (fun h2 => ?_)
  · unfold x2
    refine touches_after ?_ (touch_sys _ (by rfl)) (by decide)
    exact touches_refl _ _
  clear_value x2
  extract_lets +onlyGivenNames x3
  refine touches_cut x3 ?_ (fun h3 => ?_)
  · unfold x3
    refine touches_after ?_ (State.setReg_touches _ _ _) (by decide)
    refine touches_after ?_ (State.setReg_touches _ _ _) (by decide)
    refine touches_after ?_ (State.setReg_touches _ _ _) (by decide)
    assumption
  clear_value x3
  refine touches_forEach (fun _ _ _ => ?_) ?_
  · refine touches_after ?_ (State.setReg_touches _ _ _) (by decide)
    assumption
  · assumption

theorem snapshotEff_touches : ∀ a0 a1,
    Touches [.regs] a1 (snapshotEff a0 a1) := by
  intro a0 a1
  unfold snapshotEff
  extract_lets +onlyGivenNames x0
  refine touches_cut x0 ?_ (fun h0 => ?_)
  · unfold x0
    refine touches_after ?_ (State.setReg_touches _ _ _) (by decide)
    exact touches_refl _ _
  clear_value x0
  extract_lets +onlyGivenNames x1
  refine touches_cut x1 ?_ (fun h1 => ?_)
  · unfold x1
    refine touches_ite ?_ ?_
    · refine touches_after ?_ (State.setReg_touches _ _ _) (by decide)
      refine touches_after ?_ (State.setReg_touches _ _ _) (by decide)
      assumption
    · assumption
  clear_value x1
  extract_lets +onlyGivenNames x2
  refine touches_cut x2 ?_ (fun h2 => ?_)
  · unfold x2
    refine touches_ite ?_ ?_
    · refine touches_forEach (fun _ _ _ => ?_) ?_
      · refine touches_after ?_ (State.setReg_touches _ _ _) (by decide)
        refine touches_after ?_ (State.setReg_touches _ _ _) (by decide)
        assumption
      · assumption
    · assumption
  clear_value x2
  refine touches_ite ?_ ?_
  · refine touches_forEach (fun _ _ _ => ?_) ?_
    · refine touches_after ?_ (State.setReg_touches _ _ _) (by decide)
      assumption
    · assumption
  · assumption

theorem snapWrite_touches : ∀ a0 a1,
    Touches [.regs] a1 (snapWrite a0 a1) := by
  intro a0 a1
  unfold snapWrite
  refine touches_ite ?_ ?_
  · refine touches_ite ?_ ?_
    · refine touches_after ?_ (snapshotEff_touches _ _) (by decide)
      exact touches_refl _ _
    · refine touches_after ?_ (State.setReg_touches _ _ _) (by decide)
      exact touches_refl _ _
  · refine touches_after ?_ (State.setReg_touches _ _ _) (by decide)
    exact touches_refl _ _

theorem execSnapshotTrigger_touches : ∀ a0 a1,
    ∃ t, execSnapshotTrigger a0 a1 = .next t ∧ Touches [.regs] a1 t := by
  intro a0 a1
  unfold execSnapshotTrigger
  refine ⟨_, rfl, ?_⟩
  refine touches_ite ?_ ?_
  · refine touches_after ?_ (snapWrite_touches _ _) (by decide)
    exact touches_refl _ _
  · exact touches_refl _ _

end Sys2Proof.Machine
end

