-- ==== Sys2Proof/Laws/Memory.lean ====
section
/-! SUPPORT. Every operation over the memory and over the SPI NOR keeps its one form, and what each leaves alone. -/

namespace Sys2Proof.Machine

variable {s : State}

/-- Does the SPI NOR keep its one form: addresses rising, no erased byte listed? -/
abbrev Nor.wf (m : List Host.Cell) : Prop := tabWf (fun _ => (0xFF : Byte)) m = true

/-! ### The one form at reset -/

theorem reset_mem_wf : Memory.wf State.reset.mem := rfl
theorem reset_nor_wf : Nor.wf State.reset.nor := rfl

/-! ### Writes keep the one form -/

theorem setByte_wf (a : Nat) (v : Byte) (h : Memory.wf s.mem) : Memory.wf (s.setByte a v).mem :=
  tabWf_set (d := fun _ => (0 : Byte)) a v h

theorem putBytes_wf (bs : List Byte) {a : Nat} (h : Memory.wf s.mem) : Memory.wf (s.putBytes a bs).mem := by
  induction bs generalizing s a with
  | nil => exact h
  | cons b bs ih => exact ih (setByte_wf a b h)

theorem store_wf (a : Nat) (bs : List Byte) (h : Memory.wf s.mem) : Memory.wf (s.store a bs).mem := putBytes_wf bs h

theorem dropReservations_mem (who : Option Nat) (a n : Nat) : (dropReservations who a n s).mem = s.mem := rfl

/-- What a write notes beside the bytes leaves the memory as it is. -/
theorem partUndefined_mem (n : Nat) : (partUndefined n s).mem = s.mem := partUndefined_touches n s .mem (by decide)
theorem storeTouched_mem (a n : Nat) : (storeTouched a n s).mem = s.mem := storeTouched_touches a n s .mem (by decide)
theorem requestTouched_mem (who : Option Nat) (a n : Nat) : (requestTouched who a n s).mem = s.mem :=
  requestTouched_touches who a n s .mem (by decide)

/-- A write of memory stores its bytes, outside the boot ROM. -/
theorem memWrite_mem (who : Option Nat) (a : Nat) (bs : List Byte) :
    (memWrite who a bs s).mem = if inBootRom a then s.mem else (s.store a bs).mem := by
  unfold memWrite
  split
  · rfl
  · rw [requestTouched_mem, storeTouched_mem, dropReservations_mem]

theorem memWrite_wf (who : Option Nat) (a : Nat) (bs : List Byte) (h : Memory.wf s.mem) :
    Memory.wf (memWrite who a bs s).mem := by
  rw [memWrite_mem]
  split
  · exact h
  · exact store_wf a bs h

theorem writeBoth_wf (off : Nat) (bs : List Byte) (h : Memory.wf s.mem) : Memory.wf (writeBoth off bs s).mem :=
  store_wf _ _ (store_wf _ _ h)

theorem clearRegion_wf (b : Nat) (h : Memory.wf s.mem) : Memory.wf (clearRegion b s).mem := tabWf_filter _ h

theorem dropMem_wf (lo hi : Nat) (h : Memory.wf s.mem) : Memory.wf (dropMem lo hi s).mem := tabWf_filter _ h

theorem poisonUnit_wf (a : Nat) (h : Memory.wf s.mem) : Memory.wf (poisonUnit a s).mem := h

theorem holdTrip_mem : (holdTrip s).mem = s.mem := holdTrip_touches s .mem (by decide)

theorem coreDomainReset_wf (h : Memory.wf s.mem) : Memory.wf (coreDomainReset s).mem := by
  rw [coreDomainReset, holdTrip_mem]
  exact tabWf_filter _ h

theorem deviceReset_wf : Memory.wf (deviceReset s).mem := by
  unfold deviceReset
  rw [State.setReg_mem, loadStraps_touches _ .mem (by decide), nodeRestart_touches _ .mem (by decide), holdTrip_mem]
  rfl

theorem powerOnReset_wf : Memory.wf (powerOnReset s).mem := by
  rw [powerOnReset, holdTrip_mem]
  rfl

/-! ### The NOR -/

theorem setNorByte_wf (a : Nat) (v : Byte) (h : Nor.wf s.nor) : Nor.wf (s.setNorByte a v).nor :=
  tabWf_set (d := fun _ => (0xFF : Byte)) a v h

theorem norProgram_wf (bs : List Byte) {a : Nat} (h : Nor.wf s.nor) : Nor.wf (s.norProgram a bs).nor := by
  induction bs generalizing s a with
  | nil => exact h
  | cons b bs ih => exact ih (setNorByte_wf a _ h)

theorem norErase_wf (a n : Nat) (h : Nor.wf s.nor) : Nor.wf (s.norErase a n).nor := tabWf_filter _ h

/-! ### What a write leaves alone, and what a read answers after it -/

/-- A write of bytes leaves every other byte alone. -/
theorem byte_putBytes_out (bs : List Byte) {a x : Nat} (h : x < a ∨ a + bs.length ≤ x) :
    (s.putBytes a bs).byte x = s.byte x := by
  induction bs generalizing s a with
  | nil => rfl
  | cons b bs ih =>
    simp only [List.length_cons] at h
    rw [State.putBytes, ih (by omega), State.byte_setByte_ne _ (by omega)]

/-- A byte that was written reads as written. -/
theorem byte_putBytes_in (bs : List Byte) {a i : Nat} (h : i < bs.length) :
    (s.putBytes a bs).byte (a + i) = bs[i] := by
  induction bs generalizing s a i with
  | nil => simp at h
  | cons b bs ih =>
    rw [State.putBytes]
    cases i with
    | zero => rw [byte_putBytes_out _ (by omega)]; simp
    | succ i =>
      rw [show a + (i + 1) = a + 1 + i by omega, ih (by simpa using h)]
      simp

theorem byte_store_out (a : Nat) (bs : List Byte) {x : Nat} (h : x < a ∨ a + bs.length ≤ x) :
    (s.store a bs).byte x = s.byte x := byte_putBytes_out bs h

theorem byte_store_in (a : Nat) (bs : List Byte) {i : Nat} (h : i < bs.length) :
    (s.store a bs).byte (a + i) = bs[i] := byte_putBytes_in bs h

theorem byte_memWrite_out (who : Option Nat) (a : Nat) (bs : List Byte) {x : Nat} (h : x < a ∨ a + bs.length ≤ x) :
    (memWrite who a bs s).byte x = s.byte x := by
  rw [State.byte, memWrite_mem]
  split
  · rfl
  · exact byte_putBytes_out bs h

/-- The bytes of an access are as many as it asks for. -/
@[simp] theorem length_bytes (a n : Nat) : (s.bytes a n).length = n := by
  induction n generalizing a with
  | zero => rfl
  | succ n ih => simp [State.bytes, ih]

/-- What was written is read back. -/
theorem bytes_putBytes (bs : List Byte) (a : Nat) : (s.putBytes a bs).bytes a bs.length = bs := by
  induction bs generalizing s a with
  | nil => rfl
  | cons b bs ih =>
    rw [State.putBytes, List.length_cons, State.bytes, ih, byte_putBytes_out _ (by omega), State.byte_setByte_same]

theorem norByte_norProgram_out (bs : List Byte) {a x : Nat} (h : x < a ∨ a + bs.length ≤ x) :
    (s.norProgram a bs).norByte x = s.norByte x := by
  induction bs generalizing s a with
  | nil => rfl
  | cons b bs ih =>
    simp only [List.length_cons] at h
    rw [State.norProgram, ih (by omega), State.norByte_setNorByte_ne _ (by omega)]

end Sys2Proof.Machine
end

