-- ==== Sys2Proof/Laws/Ops.lean ====
section
/-! SUPPORT. What the shared operations of Machine/Ops.lean do to the registers: the register they are for, and every
other register as it was. -/

namespace Sys2Proof.Machine

variable {s t : State}

/-- A state that differs in the registers at most is the old one with the new registers. -/
theorem regs_only (h : Touches [.regs] s t) : t = { s with regs := t.regs } := by
  have f : ∀ p, p ≠ .regs → SameAt s t p := fun p hp => h p (by simpa using hp)
  have e : ∀ p ∈ ([.pending, .freeCtr, .cyc, .pulses, .now, .devTimer, .resp, .shadow, .sys, .log, .spindles, .encoders, .encSince, .timers, .ptp,
    .adcs, .channels, .comparators, .demods, .sectors, .pairs, .groups, .tripPins, .zonePins, .tripAll, .plate, .loops,
    .place, .cores, .aic, .dma, .dmaLast, .outbound, .posted, .consoles, .conJobs, .pipes, .streams, .liveLines,
    .active, .mover, .heads, .audio, .bankSupply, .keepers, .sec, .cvs, .hosts, .dict, .canNode, .cans, .macs,
    .aborts, .iotlb, .sbOld, .trainTries, .refreshFast, .dramTemp, .macQueues, .busyPins, .tsClaimed, .mem, .nor,
    .poison, .checks] : List Part), SameAt s t p := fun p hp => f p (by rintro rfl; revert hp; decide)
  simp only [List.forall_mem_cons, List.not_mem_nil, SameAt, false_imp_iff, implies_true, and_true] at e
  cases s; cases t
  simp only [State.mk.injEq] at e ⊢
  simp only [e, and_self]

/-- The word of a register with its frame: what `raise` operations give back. -/
theorem fld_def (a h l : Nat) : s.fld a h l = fieldOf (s.reg a) h l := rfl
theorem bit_def (a i : Nat) : s.bit a i = bitAt (s.reg a) i := rfl

theorem fld_of_reg {a b : Nat} (e : t.reg a = s.reg b) (h l : Nat) : t.fld a h l = s.fld b h l := by
  rw [fld_def, fld_def, e]
theorem bit_of_reg {a b : Nat} (e : t.reg a = s.reg b) (i : Nat) : t.bit a i = s.bit b i := by
  rw [bit_def, bit_def, e]

/-- The group of an interrupt source is one of 128. -/
theorem fld_group_lt (a : Nat) : s.fld a 14 8 < 128 := fieldOf_lt _ 14 8

/-! ### What the model notes of a cycle (R33) -/

@[simp] theorem reg_noteSet (b : Nat) (v : Word) (a : Nat) : (noteSet b v s).reg a = s.reg a := rfl
@[simp] theorem reg_noteWrote (b a : Nat) : (noteWrote b s).reg a = s.reg a := rfl
@[simp] theorem reg_notePulse (k a : Nat) : (notePulse k s).reg a = s.reg a := rfl
@[simp] theorem reg_setEvent_same (a b : Nat) : (setEvent a b s).reg a = withBit (s.reg a) b true :=
  State.reg_setBit_same _ _ _ _
theorem reg_setEvent_ne {a b c : Nat} (h : c ≠ a) : (setEvent a b s).reg c = s.reg c := State.reg_setBit_ne _ h _ _

/-! ### Deferred-group counting (R271) -/

theorem reg_noteDeferred_ne {src a : Nat} (h : a ≠ Reg.AIC_GRP_STAT (s.fld (Reg.AIC_SRC src) 14 8)) :
    (noteDeferred src s).reg a = s.reg a := by
  unfold noteDeferred countUpFld
  dsimp only
  split
  · exact State.reg_setFld_ne _ h _ _ _
  · rfl

theorem reg_noteDeferredPriv_ne {c p a : Nat} (h : a ≠ Reg.AIC_GRP_STAT (s.fld (Reg.AIC_PRIV c p) 14 8)) :
    (noteDeferredPriv c p s).reg a = s.reg a := by
  unfold noteDeferredPriv countUpFld
  dsimp only
  split
  · exact State.reg_setFld_ne _ h _ _ _
  · rfl

/-- Outside the status words of the groups, counting a deferral changes no register. -/
theorem reg_noteDeferred {src a : Nat} (h : a < Reg.AIC_GRP_STAT 0 ∨ Reg.AIC_GRP_STAT 128 ≤ a) :
    (noteDeferred src s).reg a = s.reg a :=
  reg_noteDeferred_ne fun e => by
    have := fld_group_lt (s := s) (Reg.AIC_SRC src)
    simp only [Reg.AIC_GRP_STAT] at h e
    omega

theorem reg_noteDeferredPriv {c p a : Nat} (h : a < Reg.AIC_GRP_STAT 0 ∨ Reg.AIC_GRP_STAT 128 ≤ a) :
    (noteDeferredPriv c p s).reg a = s.reg a :=
  reg_noteDeferredPriv_ne fun e => by
    have := fld_group_lt (s := s) (Reg.AIC_PRIV c p)
    simp only [Reg.AIC_GRP_STAT] at h e
    omega

/-! ### Status registers with an interrupt line (R263) -/

/-- The status register takes the bits. -/
theorem reg_raiseStatus {st en src : Nat} {bits : Word} (h : st < Reg.AIC_GRP_STAT 0 ∨ Reg.AIC_GRP_STAT 128 ≤ st) :
    (raiseStatus st en src bits s).reg st = s.reg st ||| bits := by
  unfold raiseStatus
  dsimp only
  split
  · rw [reg_noteDeferred h, reg_noteSet, State.reg_setReg_same]
  · rw [reg_noteSet, State.reg_setReg_same]

/-- Every other register stays, but for the deferral count of the source's group. -/
theorem reg_raiseStatus_ne {st en src a : Nat} {bits : Word} (h : a ≠ st) (hs : Reg.AIC_SRC src ≠ st)
    (g : a ≠ Reg.AIC_GRP_STAT (s.fld (Reg.AIC_SRC src) 14 8)) :
    (raiseStatus st en src bits s).reg a = s.reg a := by
  unfold raiseStatus
  dsimp only
  split
  · rw [reg_noteDeferred_ne, reg_noteSet, State.reg_setReg_ne _ h]
    rwa [fld_of_reg ((reg_noteSet _ _ _).trans (State.reg_setReg_ne _ hs _))]
  · rw [reg_noteSet, State.reg_setReg_ne _ h]

theorem reg_raiseStatus_out {st en src a : Nat} {bits : Word} (h : a ≠ st)
    (g : a < Reg.AIC_GRP_STAT 0 ∨ Reg.AIC_GRP_STAT 128 ≤ a) :
    (raiseStatus st en src bits s).reg a = s.reg a := by
  unfold raiseStatus
  dsimp only
  split
  · rw [reg_noteDeferred g, reg_noteSet, State.reg_setReg_ne _ h]
  · rw [reg_noteSet, State.reg_setReg_ne _ h]

/-! ### Tailstock sources (R272) -/

theorem reg_raiseTs (k : Nat) :
    (raiseTs k s).reg (Reg.TS_IRQ_PEND (k / 32)) = withBit (s.reg (Reg.TS_IRQ_PEND (k / 32))) (k % 32) true :=
  State.reg_setBit_same _ _ _ _

theorem reg_raiseTs_ne {k a : Nat} (h : a ≠ Reg.TS_IRQ_PEND (k / 32)) : (raiseTs k s).reg a = s.reg a :=
  State.reg_setBit_ne _ h _ _

/-! ### The event log (R409) -/

/-- A log entry writes no register but TS_IRQ_PEND 0, the source of a filling log. -/
theorem reg_logEvent_ne {cls unit code a : Nat} {p : List Byte} (h : a ≠ Reg.TS_IRQ_PEND 0) :
    (logEvent cls unit code p s).reg a = s.reg a := by
  have e : ∀ (c : Nat) (u : State), (emcy c u).reg a = u.reg a := by
    intro c u
    unfold emcy nodeSend takeFree
    split <;> rfl
  have k : ∀ (c : Nat) (b : Prop) [Decidable b] (u : State), u.reg a = s.reg a →
      (if b then raiseTs 26 (emcy c u) else emcy c u).reg a = s.reg a := by
    intro c b _ u hu
    split
    · rw [reg_raiseTs_ne h, e, hu]
    · rw [e, hu]
  have r : ∀ l : EventLog, ({ s with log := l } : State).reg a = s.reg a := fun _ => rfl
  unfold logEvent
  split
  · rfl
  · extract_lets e0 l s1
    exact k _ _ _ (r _)

theorem reg_logOpen_ne {cls unit ev a : Nat} {p : List Byte} (h : a ≠ Reg.TS_IRQ_PEND 0) :
    (logOpen cls unit ev p s).reg a = s.reg a := reg_logEvent_ne h

/-! ### Counters -/

theorem reg_countUp (a k top : Nat) : (countUp a k top s).reg a = toWord (satNat top ((s.reg a).toNat + k)) :=
  State.reg_setReg_same _ _ _
theorem reg_countUp_ne {a k top b : Nat} (h : b ≠ a) : (countUp a k top s).reg b = s.reg b := State.reg_setReg_ne _ h _
theorem reg_countUpFld_ne {a h l b : Nat} (e : b ≠ a) : (countUpFld a h l s).reg b = s.reg b :=
  State.reg_setFld_ne _ e _ _ _
theorem fld_countUpFld (a : Nat) {h l : Nat} (hh : h < 32) :
    (countUpFld a h l s).fld a h l = satNat (2 ^ (h + 1 - l) - 1) (s.fld a h l + 1) := by
  unfold countUpFld
  rw [fld_def, State.reg_setFld_same, fieldOf_withField_same _ _ hh, Nat.mod_eq_of_lt]
  have : 0 < 2 ^ (h + 1 - l) := Nat.two_pow_pos _
  unfold satNat
  split <;> omega

theorem reg_takeFree (w a : Nat) : (takeFree w s).2.reg a = s.reg a := rfl
theorem reg_freeReg_ne {a b : Nat} (h : b ≠ a) : (freeReg a s).reg b = s.reg b := State.reg_setReg_ne _ h _

/-! ### Operations over lists of keys -/

theorem forEach_nil (f : Nat → State → State) : forEach [] f s = s := rfl
theorem forEach_cons (k : Nat) (ks : List Nat) (f : Nat → State → State) :
    forEach (k :: ks) f s = forEach ks f (f k s) := rfl

/-- What every single operation keeps, the whole list keeps. -/
theorem forEach_keeps {P : State → Prop} {ks : List Nat} {f : Nat → State → State} (h : ∀ k ∈ ks, ∀ u, P u → P (f k u))
    (hs : P s) : P (forEach ks f s) := by
  induction ks generalizing s with
  | nil => exact hs
  | cons k r ih => exact ih (fun k hk => h k (List.mem_cons_of_mem _ hk)) (h k List.mem_cons_self s hs)

/-- A reading that every single operation leaves alone, the whole list leaves alone. -/
theorem forEach_same {α : Type} (π : State → α) {ks : List Nat} {f : Nat → State → State}
    (h : ∀ k ∈ ks, ∀ u, π (f k u) = π u) : π (forEach ks f s) = π s :=
  forEach_keeps (P := fun u => π u = π s) (fun k hk u hu => (h k hk u).trans hu) rfl

end Sys2Proof.Machine
end

