-- ==== Sys2Proof/WellFormed.lean ====
section
/-! DEFINITION. Which commands have operands that the spec allows: alignment and range of a register access, lengths of
requests, register fields of instructions. `exec` gives every command an effect, a well-formed one the effect the spec
describes. -/

namespace Sys2Proof

/-- An offset that suits the access size (R29). -/
def alignedTo (off : Nat) : AccessSize → Bool
  | .byte => true
  | .half => decide (off % 2 = 0)
  | .word => decide (off % 4 = 0)

/-- A request of at most 4,096 bytes and at least one word (R379). -/
def HostReq.wellFormed : HostReq → Bool
  | .read n => decide (1 ≤ n.val)
  | .write ws => decide (1 ≤ ws.length ∧ ws.length ≤ 1024)
  | .partialRead | .partialWrite _ => true

/-- Three register fields that are distinct and not g0 (R227). -/
def threeRegs (a b c : Fin 32) : Bool := decide (a ≠ 0 ∧ b ≠ 0 ∧ c ≠ 0 ∧ a ≠ b ∧ a ≠ c ∧ b ≠ c)

/-- The checks, by command; a command that is not named has no operand that needs one. -/
def Instr.wellFormed (i : Instr) : Bool :=
  match i with
  | .registerWrite _ off size _ => alignedTo off.toNat size
  | .lowWordRead _ off => decide (off.toNat % 4 = 0)
  | .bar0Request _ off req => decide (off.toNat % 4 = 0) && req.wellFormed
  | .bar2Access _ off _ _ => decide (off.toNat % 4 = 0)
  | .imageWrite _ _ _ data _ => decide (data.length ≤ 2048)
  | .horanoDatagram _ _ _ _ _ data => decide (data.length ≤ 1044)
  | .canFrameReceive _ _ _ _ data => decide (data.length ≤ 64)
  | .nmtStart node => decide (node.toNat < 128)
  | .nmtStop node => decide (node.toNat < 128)
  | .nmtPreOperational node => decide (node.toNat < 128)
  | .nmtResetNode node => decide (node.toNat < 128)
  | .nmtResetCommunication node => decide (node.toNat < 128)
  | .xfer _ gd ga gb => threeRegs gd ga gb
  | .crcb _ gd ga gb => threeRegs gd ga gb
  | .sincos _ gd _ => decide (gd.val % 2 = 0)
  | .loop _ level _ stop => decide (level ≠ 3) && decide (stop ≠ 0)
  | .loopi _ level _ stop => decide (level ≠ 3) && decide (stop ≠ 0)
  | _ => true

end Sys2Proof
end

