-- ==== Sys2Proof/Laws/PerInstr.lean ====
section
/-! SUPPORT. A statement of every command as syntax: the accesses that a well-formed command names are aligned to their
size (R29), and what it carries fits in the largest request (R379). -/

namespace Sys2Proof.Laws.FittingOperands

open Sys2Proof

/-- The bytes of an access size. -/
def bytesOf : AccessSize → Nat
  | .byte => 1
  | .half => 2
  | .word => 4

/-- The register offsets that a command's sender names, with the size of the access at each. -/
def offsets : Instr → List (Nat × Nat)
  | .registerWrite _ off size _ => [(off.toNat, bytesOf size)]
  | .lowWordRead _ off => [(off.toNat, 4)]
  | .bar0Request _ off _ => [(off.toNat, 4)]
  | .bar2Access _ off _ _ => [(off.toNat, 4)]
  | _ => []

/-- The bytes that a request carries or asks for. -/
def requestBytes : HostReq → Nat
  | .read n => 4 * n.val
  | .write ws => 4 * ws.length
  | .partialRead | .partialWrite _ => 4

/-- The bytes that a command carries or asks for. -/
def carried : Instr → Nat
  | .bar0Request _ _ req => requestBytes req
  | .imageWrite _ _ _ data _ => data.length
  | .horanoDatagram _ _ _ _ _ data => data.length
  | .canFrameReceive _ _ _ _ data => data.length
  | _ => 0

/-- A well-formed command's accesses are aligned, and what it carries is at most 4,096 bytes. -/
def Statement (i : Instr) : Prop :=
  i.wellFormed = true → (∀ x ∈ offsets i, x.1 % x.2 = 0) ∧ carried i ≤ 4096

/-- A command with no such operand. -/
theorem of_none {i : Instr} (ho : offsets i = []) (hc : carried i = 0) : Statement i := fun _ => by
  rw [ho, hc]; exact ⟨fun _ hx => absurd hx (List.not_mem_nil), Nat.zero_le _⟩

theorem aligned_mod {off : Nat} {size : AccessSize} (h : alignedTo off size = true) : off % bytesOf size = 0 := by
  cases size
  · exact Nat.mod_one off
  · exact of_decide_eq_true h
  · exact of_decide_eq_true h

theorem request_le {r : HostReq} (h : r.wellFormed = true) : requestBytes r ≤ 4096 := by
  cases r with
  | read n => have := n.isLt; simp only [requestBytes]; omega
  | write ws => have := of_decide_eq_true h; simp only [requestBytes]; omega
  | partialRead => simp [requestBytes]
  | partialWrite w => simp [requestBytes]

theorem add (c : Fin 17) (gd : Fin 32) (ga : Fin 32) (gb : Fin 32) : Statement (.add c gd ga gb) := of_none rfl rfl
theorem sub (c : Fin 17) (gd : Fin 32) (ga : Fin 32) (gb : Fin 32) : Statement (.sub c gd ga gb) := of_none rfl rfl
theorem andOp (c : Fin 17) (gd : Fin 32) (ga : Fin 32) (gb : Fin 32) :
    Statement (.andOp c gd ga gb) := of_none rfl rfl
theorem orOp (c : Fin 17) (gd : Fin 32) (ga : Fin 32) (gb : Fin 32) : Statement (.orOp c gd ga gb) := of_none rfl rfl
theorem xor (c : Fin 17) (gd : Fin 32) (ga : Fin 32) (gb : Fin 32) : Statement (.xor c gd ga gb) := of_none rfl rfl
theorem orn (c : Fin 17) (gd : Fin 32) (ga : Fin 32) (gb : Fin 32) : Statement (.orn c gd ga gb) := of_none rfl rfl
theorem lt (c : Fin 17) (gd : Fin 32) (ga : Fin 32) (gb : Fin 32) : Statement (.lt c gd ga gb) := of_none rfl rfl
theorem ltu (c : Fin 17) (gd : Fin 32) (ga : Fin 32) (gb : Fin 32) : Statement (.ltu c gd ga gb) := of_none rfl rfl
theorem eq (c : Fin 17) (gd : Fin 32) (ga : Fin 32) (gb : Fin 32) : Statement (.eq c gd ga gb) := of_none rfl rfl
theorem ne (c : Fin 17) (gd : Fin 32) (ga : Fin 32) (gb : Fin 32) : Statement (.ne c gd ga gb) := of_none rfl rfl
theorem min (c : Fin 17) (gd : Fin 32) (ga : Fin 32) (gb : Fin 32) : Statement (.min c gd ga gb) := of_none rfl rfl
theorem max (c : Fin 17) (gd : Fin 32) (ga : Fin 32) (gb : Fin 32) : Statement (.max c gd ga gb) := of_none rfl rfl
theorem sll (c : Fin 17) (gd : Fin 32) (ga : Fin 32) (gb : Fin 32) : Statement (.sll c gd ga gb) := of_none rfl rfl
theorem srl (c : Fin 17) (gd : Fin 32) (ga : Fin 32) (gb : Fin 32) : Statement (.srl c gd ga gb) := of_none rfl rfl
theorem sra (c : Fin 17) (gd : Fin 32) (ga : Fin 32) (gb : Fin 32) : Statement (.sra c gd ga gb) := of_none rfl rfl
theorem ror (c : Fin 17) (gd : Fin 32) (ga : Fin 32) (gb : Fin 32) : Statement (.ror c gd ga gb) := of_none rfl rfl
theorem slli (c : Fin 17) (gd : Fin 32) (ga : Fin 32) (n : Fin 32) : Statement (.slli c gd ga n) := of_none rfl rfl
theorem srli (c : Fin 17) (gd : Fin 32) (ga : Fin 32) (n : Fin 32) : Statement (.srli c gd ga n) := of_none rfl rfl
theorem srai (c : Fin 17) (gd : Fin 32) (ga : Fin 32) (n : Fin 32) : Statement (.srai c gd ga n) := of_none rfl rfl
theorem rori (c : Fin 17) (gd : Fin 32) (ga : Fin 32) (n : Fin 32) : Statement (.rori c gd ga n) := of_none rfl rfl
theorem mul (c : Fin 17) (gd : Fin 32) (ga : Fin 32) (gb : Fin 32) : Statement (.mul c gd ga gb) := of_none rfl rfl
theorem mulhi (c : Fin 17) (gd : Fin 32) (ga : Fin 32) (gb : Fin 32) :
    Statement (.mulhi c gd ga gb) := of_none rfl rfl
theorem mulhiu (c : Fin 17) (gd : Fin 32) (ga : Fin 32) (gb : Fin 32) :
    Statement (.mulhiu c gd ga gb) := of_none rfl rfl
theorem div (c : Fin 17) (gd : Fin 32) (ga : Fin 32) (gb : Fin 32) : Statement (.div c gd ga gb) := of_none rfl rfl
theorem divu (c : Fin 17) (gd : Fin 32) (ga : Fin 32) (gb : Fin 32) : Statement (.divu c gd ga gb) := of_none rfl rfl
theorem mod (c : Fin 17) (gd : Fin 32) (ga : Fin 32) (gb : Fin 32) : Statement (.mod c gd ga gb) := of_none rfl rfl
theorem modu (c : Fin 17) (gd : Fin 32) (ga : Fin 32) (gb : Fin 32) : Statement (.modu c gd ga gb) := of_none rfl rfl
theorem clz (c : Fin 17) (gd : Fin 32) (ga : Fin 32) : Statement (.clz c gd ga) := of_none rfl rfl
theorem jmpr (c : Fin 17) (ga : Fin 32) : Statement (.jmpr c ga) := of_none rfl rfl
theorem callr (c : Fin 17) (gd : Fin 32) (ga : Fin 32) : Statement (.callr c gd ga) := of_none rfl rfl
theorem llw (c : Fin 17) (gd : Fin 32) (ga : Fin 32) : Statement (.llw c gd ga) := of_none rfl rfl
theorem scw (c : Fin 17) (gd : Fin 32) (ga : Fin 32) (gb : Fin 32) : Statement (.scw c gd ga gb) := of_none rfl rfl
theorem xfer (c : Fin 17) (gd : Fin 32) (ga : Fin 32) (gb : Fin 32) : Statement (.xfer c gd ga gb) := of_none rfl rfl
theorem crcb (c : Fin 17) (gd : Fin 32) (ga : Fin 32) (gb : Fin 32) : Statement (.crcb c gd ga gb) := of_none rfl rfl
theorem fence (c : Fin 17) : Statement (.fence c) := of_none rfl rfl
theorem sync (c : Fin 17) : Statement (.sync c) := of_none rfl rfl
theorem retx (c : Fin 17) : Statement (.retx c) := of_none rfl rfl
theorem trap (c : Fin 17) (code : BitVec 15) : Statement (.trap c code) := of_none rfl rfl
theorem bkpt (c : Fin 17) (code : BitVec 15) : Statement (.bkpt c code) := of_none rfl rfl
theorem wait (c : Fin 17) : Statement (.wait c) := of_none rfl rfl
theorem addi (c : Fin 17) (gd : Fin 32) (ga : Fin 32) (imm : BitVec 16) :
    Statement (.addi c gd ga imm) := of_none rfl rfl
theorem andi (c : Fin 17) (gd : Fin 32) (ga : Fin 32) (imm : BitVec 16) :
    Statement (.andi c gd ga imm) := of_none rfl rfl
theorem ori (c : Fin 17) (gd : Fin 32) (ga : Fin 32) (imm : BitVec 16) :
    Statement (.ori c gd ga imm) := of_none rfl rfl
theorem xori (c : Fin 17) (gd : Fin 32) (ga : Fin 32) (imm : BitVec 16) :
    Statement (.xori c gd ga imm) := of_none rfl rfl
theorem lti (c : Fin 17) (gd : Fin 32) (ga : Fin 32) (imm : BitVec 16) :
    Statement (.lti c gd ga imm) := of_none rfl rfl
theorem ltiu (c : Fin 17) (gd : Fin 32) (ga : Fin 32) (imm : BitVec 16) :
    Statement (.ltiu c gd ga imm) := of_none rfl rfl
theorem eqi (c : Fin 17) (gd : Fin 32) (ga : Fin 32) (imm : BitVec 16) :
    Statement (.eqi c gd ga imm) := of_none rfl rfl
theorem nei (c : Fin 17) (gd : Fin 32) (ga : Fin 32) (imm : BitVec 16) :
    Statement (.nei c gd ga imm) := of_none rfl rfl
theorem lhi (c : Fin 17) (gd : Fin 32) (imm : BitVec 16) : Statement (.lhi c gd imm) := of_none rfl rfl
theorem bfx (c : Fin 17) (gd : Fin 32) (ga : Fin 32) (sgn : Bool) (pos : Fin 32) (len : Fin 32) :
    Statement (.bfx c gd ga sgn pos len) := of_none rfl rfl
theorem bfi (c : Fin 17) (gd : Fin 32) (ga : Fin 32) (pos : Fin 32) (len : Fin 32) :
    Statement (.bfi c gd ga pos len) := of_none rfl rfl
theorem perm (c : Fin 17) (gd : Fin 32) (ga : Fin 32) (sel : BitVec 16) :
    Statement (.perm c gd ga sel) := of_none rfl rfl
theorem loop (c : Fin 17) (level : Fin 4) (ga : Fin 32) (stop : BitVec 16) :
    Statement (.loop c level ga stop) := of_none rfl rfl
theorem loopi (c : Fin 17) (level : Fin 4) (count : BitVec 12) (stop : BitVec 12) :
    Statement (.loopi c level count stop) := of_none rfl rfl
theorem crd (c : Fin 17) (gd : Fin 32) (cr : BitVec 16) : Statement (.crd c gd cr) := of_none rfl rfl
theorem cwr (c : Fin 17) (cr : BitVec 16) (ga : Fin 32) : Statement (.cwr c cr ga) := of_none rfl rfl
theorem ld (c : Fin 17) (gt : Fin 32) (ga : Fin 32) (off : BitVec 12) (size : AccessSize) (sgn : Bool) (upd : Bool) :
    Statement (.ld c gt ga off size sgn upd) := of_none rfl rfl
theorem st (c : Fin 17) (gt : Fin 32) (ga : Fin 32) (off : BitVec 12) (size : AccessSize) (upd : Bool) :
    Statement (.st c gt ga off size upd) := of_none rfl rfl
theorem cacheClean (c : Fin 17) (ga : Fin 32) (off : BitVec 12) : Statement (.cacheClean c ga off) := of_none rfl rfl
theorem cacheInvalidate (c : Fin 17) (ga : Fin 32) (off : BitVec 12) :
    Statement (.cacheInvalidate c ga off) := of_none rfl rfl
theorem cacheCleanInvalidate (c : Fin 17) (ga : Fin 32) (off : BitVec 12) :
    Statement (.cacheCleanInvalidate c ga off) := of_none rfl rfl
theorem cacheInvalidateI (c : Fin 17) (ga : Fin 32) (off : BitVec 12) :
    Statement (.cacheInvalidateI c ga off) := of_none rfl rfl
theorem cachePrefetch (c : Fin 17) (ga : Fin 32) (off : BitVec 12) :
    Statement (.cachePrefetch c ga off) := of_none rfl rfl
theorem bz (c : Fin 17) (ga : Fin 32) (off : BitVec 21) : Statement (.bz c ga off) := of_none rfl rfl
theorem bnz (c : Fin 17) (ga : Fin 32) (off : BitVec 21) : Statement (.bnz c ga off) := of_none rfl rfl
theorem jump (c : Fin 17) (off : BitVec 26) : Statement (.jump c off) := of_none rfl rfl
theorem call (c : Fin 17) (gd : Fin 32) (off : BitVec 21) : Statement (.call c gd off) := of_none rfl rfl
theorem macs (c : Fin 17) (ga : Fin 32) (gb : Fin 32) : Statement (.macs c ga gb) := of_none rfl rfl
theorem macz (c : Fin 17) (ga : Fin 32) (gb : Fin 32) : Statement (.macz c ga gb) := of_none rfl rfl
theorem macr (c : Fin 17) (gd : Fin 32) : Statement (.macr c gd) := of_none rfl rfl
theorem mulq (c : Fin 17) (gd : Fin 32) (ga : Fin 32) (gb : Fin 32) : Statement (.mulq c gd ga gb) := of_none rfl rfl
theorem adds (c : Fin 17) (gd : Fin 32) (ga : Fin 32) (gb : Fin 32) : Statement (.adds c gd ga gb) := of_none rfl rfl
theorem subs (c : Fin 17) (gd : Fin 32) (ga : Fin 32) (gb : Fin 32) : Statement (.subs c gd ga gb) := of_none rfl rfl
theorem sincos (c : Fin 17) (gd : Fin 32) (ga : Fin 32) : Statement (.sincos c gd ga) := of_none rfl rfl
theorem angle (c : Fin 17) (gd : Fin 32) (ga : Fin 32) (gb : Fin 32) :
    Statement (.angle c gd ga gb) := of_none rfl rfl
theorem mag (c : Fin 17) (gd : Fin 32) (ga : Fin 32) (gb : Fin 32) : Statement (.mag c gd ga gb) := of_none rfl rfl
theorem lpoll (c : Fin 17) (gd : Fin 32) (ga : Fin 32) : Statement (.lpoll c gd ga) := of_none rfl rfl
theorem lput (c : Fin 17) (ga : Fin 32) (gb : Fin 32) : Statement (.lput c ga gb) := of_none rfl rfl
theorem pins (c : Fin 17) (gd : Fin 32) (ga : Fin 32) (gb : Fin 32) : Statement (.pins c gd ga gb) := of_none rfl rfl
theorem prem (c : Fin 17) (gd : Fin 32) (ga : Fin 32) : Statement (.prem c gd ga) := of_none rfl rfl
theorem interruptLatch (c : Fin 17) : Statement (.interruptLatch c) := of_none rfl rfl
theorem impreciseBusError (c : Fin 17) : Statement (.impreciseBusError c) := of_none rfl rfl
theorem storeBufferDrain (c : Fin 17) : Statement (.storeBufferDrain c) := of_none rfl rfl
theorem loadDataReturn (c : Fin 17) : Statement (.loadDataReturn c) := of_none rfl rfl
theorem tableWalk (c : Fin 16) (va : Word) (kind : WalkKind) : Statement (.tableWalk c va kind) := of_none rfl rfl
theorem reservedInstruction (c : Fin 17) (w : Word) : Statement (.reservedInstruction c w) := of_none rfl rfl
theorem registerWrite (q : Requester) (off : BitVec 28) (size : AccessSize) (data : Word) :
    Statement (.registerWrite q off size data) := fun h => ⟨by simpa [offsets] using aligned_mod h, Nat.zero_le _⟩
theorem lowWordRead (q : Requester) (off : BitVec 28) :
    Statement (.lowWordRead q off) := fun h => ⟨by simpa [offsets] using of_decide_eq_true h, Nat.zero_le _⟩
theorem snapshotTrigger (values : List Word) : Statement (.snapshotTrigger values) := of_none rfl rfl
theorem sclkWriteEffect (idx : Fin 4) : Statement (.sclkWriteEffect idx) := of_none rfl rfl
theorem powerGood (straps : BitVec 2) (reference : Bool) (crystal : Bool) (vdda : Bool) :
    Statement (.powerGood straps reference crystal vdda) := of_none rfl rfl
theorem sysPwrgdFall : Statement .sysPwrgdFall := of_none rfl rfl
theorem fclkLost : Statement .fclkLost := of_none rfl rfl
theorem referenceLost : Statement .referenceLost := of_none rfl rfl
theorem crystalLost : Statement .crystalLost := of_none rfl rfl
theorem tclkLost : Statement .tclkLost := of_none rfl rfl
theorem unitPllLost (u : UnitPll) : Statement (.unitPllLost u) := of_none rfl rfl
theorem islandSwitch (idx : Island) (on : Bool) : Statement (.islandSwitch idx on) := of_none rfl rfl
theorem spindleEnable (n : Fin 154) (ctrl : Word) : Statement (.spindleEnable n ctrl) := of_none rfl rfl
theorem spindleDisable (n : Fin 154) (ctrl : Word) : Statement (.spindleDisable n ctrl) := of_none rfl rfl
theorem encoderEdge (k : Fin 32) (a : Bool) (b : Bool) : Statement (.encoderEdge k a b) := of_none rfl rfl
theorem hallCodeChange (k : Fin 32) (code : Fin 8) : Statement (.hallCodeChange k code) := of_none rfl rfl
theorem indexPulse (k : Fin 32) : Statement (.indexPulse k) := of_none rfl rfl
theorem spindleTimeout (n : Fin 154) : Statement (.spindleTimeout n) := of_none rfl rfl
theorem spindleCoastExpiry (n : Fin 154) : Statement (.spindleCoastExpiry n) := of_none rfl rfl
theorem observerUpdate (ctx : Fin 384) (phase : StampedPhase) (vel : Word) (converged : Bool) :
    Statement (.observerUpdate ctx phase vel converged) := of_none rfl rfl
theorem mainsUpdate (ctx : Fin 384) (phase : StampedPhase) (freq : Word) (rocof : Word) (locked : Bool) :
    Statement (.mainsUpdate ctx phase freq rocof locked) := of_none rfl rfl
theorem spnSetPhase (n : Fin 154) (value : Word) : Statement (.spnSetPhase n value) := of_none rfl rfl
theorem spnOffset (n : Fin 154) (value : Word) : Statement (.spnOffset n value) := of_none rfl rfl
theorem spindleSourceChange (n : Fin 154) (cpt : Bool) (value : Word) :
    Statement (.spindleSourceChange n cpt value) := of_none rfl rfl
theorem spnEpochLo (n : Fin 154) (value : Word) : Statement (.spnEpochLo n value) := of_none rfl rfl
theorem spnPeriod (n : Fin 154) (value : Word) : Statement (.spnPeriod n value) := of_none rfl rfl
theorem freeSpindleEpoch (n : Fin 154) : Statement (.freeSpindleEpoch n) := of_none rfl rfl
theorem ptpClockStep (mac : Fin 2) (hi : Word) : Statement (.ptpClockStep mac hi) := of_none rfl rfl
theorem macClockDisabled (mac : Fin 2) : Statement (.macClockDisabled mac) := of_none rfl rfl
theorem compareArm (n : Fin 154) (idx : Fin 4) (value : Word) : Statement (.compareArm n idx value) := of_none rfl rfl
theorem compareFire (n : Fin 154) (idx : Fin 4) : Statement (.compareFire n idx) := of_none rfl rfl
theorem captureTrigger (trig : Fin 744) : Statement (.captureTrigger trig) := of_none rfl rfl
theorem swTrigger (n : Fin 154) (value : Word) : Statement (.swTrigger n value) := of_none rfl rfl
theorem timerWrap (t : Fin 64) : Statement (.timerWrap t) := of_none rfl rfl
theorem timerCompare (t : Fin 64) : Statement (.timerCompare t) := of_none rfl rfl
theorem gtCount (t : Fin 64) (value : Word) : Statement (.gtCount t value) := of_none rfl rfl
theorem plateInsert (q : Requester) : Statement (.plateInsert q) := of_none rfl rfl
theorem plateRemove (q : Requester) : Statement (.plateRemove q) := of_none rfl rfl
theorem plateAlloc (q : Requester) : Statement (.plateAlloc q) := of_none rfl rfl
theorem plateWrite (q : Requester) : Statement (.plateWrite q) := of_none rfl rfl
theorem plateRelease (q : Requester) : Statement (.plateRelease q) := of_none rfl rfl
theorem plateFetch (q : Requester) : Statement (.plateFetch q) := of_none rfl rfl
theorem plateProbe (q : Requester) : Statement (.plateProbe q) := of_none rfl rfl
theorem plateStoreWriteDone (hole : Fin 1048576) : Statement (.plateStoreWriteDone hole) := of_none rfl rfl
theorem entryDue (idx : Fin 2097152) : Statement (.entryDue idx) := of_none rfl rfl
theorem entryFire : Statement .entryFire := of_none rfl rfl
theorem nopAction : Statement .nopAction := of_none rfl rfl
theorem mwrite (part : Fin 154) (target : Word) (data : Word) :
    Statement (.mwrite part target data) := of_none rfl rfl
theorem radd (part : Fin 154) (target : Word) (data : Word) : Statement (.radd part target data) := of_none rfl rfl
theorem adctrig (target : Word) (data : Word) : Statement (.adctrig target data) := of_none rfl rfl
theorem dmakick (target : Word) (data : Word) : Statement (.dmakick target data) := of_none rfl rfl
theorem doorbell (target : Word) : Statement (.doorbell target) := of_none rfl rfl
theorem coefswap (target : Word) (data : Word) : Statement (.coefswap target data) := of_none rfl rfl
theorem dutystep (target : Word) (data : Word) : Statement (.dutystep target data) := of_none rfl rfl
theorem raster (target : Word) (data : Word) : Statement (.raster target data) := of_none rfl rfl
theorem chain (part : Fin 154) (data : Word) : Statement (.chain part data) := of_none rfl rfl
theorem mark (target : Word) : Statement (.mark target) := of_none rfl rfl
theorem holeFetch (n : Fin 154) : Statement (.holeFetch n) := of_none rfl rfl
theorem holeFetchDone (hole : Fin 1048576) : Statement (.holeFetchDone hole) := of_none rfl rfl
theorem plateRefetch (idx : Fin 2097152) (which : PlateFault) : Statement (.plateRefetch idx which) := of_none rfl rfl
theorem retirement : Statement .retirement := of_none rfl rfl
theorem plateInit (value : Word) : Statement (.plateInit value) := of_none rfl rfl
theorem plateInitDone : Statement .plateInitDone := of_none rfl rfl
theorem storeLock (value : Word) : Statement (.storeLock value) := of_none rfl rfl
theorem partitionClear (n : Fin 154) (value : Word) : Statement (.partitionClear n value) := of_none rfl rfl
theorem partitionClearDone (n : Fin 154) : Statement (.partitionClearDone n) := of_none rfl rfl
theorem adcSwtrig (adc : Fin 24) (value : Word) : Statement (.adcSwtrig adc value) := of_none rfl rfl
theorem adcHold (adc : Fin 24) (code : BitVec 14) : Statement (.adcHold adc code) := of_none rfl rfl
theorem sampleWrite (adc : Fin 24) : Statement (.sampleWrite adc) := of_none rfl rfl
theorem channelStale (ch : Fin 384) : Statement (.channelStale ch) := of_none rfl rfl
theorem afeQueue (q : Requester) (sector : Fin 6) : Statement (.afeQueue q sector) := of_none rfl rfl
theorem routeChange (adc : Fin 24) (which : RouteWrite) (value : Word) :
    Statement (.routeChange adc which value) := of_none rfl rfl
theorem comparatorActive (input : ComparatorInput) : Statement (.comparatorActive input) := of_none rfl rfl
theorem comparatorInactive (input : ComparatorInput) : Statement (.comparatorInactive input) := of_none rfl rfl
theorem zoneInputAssert (k : Fin 72) : Statement (.zoneInputAssert k) := of_none rfl rfl
theorem blankingWindowClose (k : Fin 72) : Statement (.blankingWindowClose k) := of_none rfl rfl
theorem sdDecimation (j : Fin 48) (bits : List Bool) : Statement (.sdDecimation j bits) := of_none rfl rfl
theorem sdSync (j : Fin 48) (value : Word) : Statement (.sdSync j value) := of_none rfl rfl
theorem sdClkLost (j : Fin 48) : Statement (.sdClkLost j) := of_none rfl rfl
theorem sdClkReturn (j : Fin 48) : Statement (.sdClkReturn j) := of_none rfl rfl
theorem sdOverrange (j : Fin 48) : Statement (.sdOverrange j) := of_none rfl rfl
theorem calStep (sector : Fin 6) : Statement (.calStep sector) := of_none rfl rfl
theorem calDone (sector : Fin 6) (pass : Bool) : Statement (.calDone sector pass) := of_none rfl rfl
theorem calSwap (sector : Fin 6) : Statement (.calSwap sector) := of_none rfl rfl
theorem calSkip (sector : Fin 6) : Statement (.calSkip sector) := of_none rfl rfl
theorem rotate (sector : Fin 6) (value : Word) : Statement (.rotate sector value) := of_none rfl rfl
theorem calReq (sector : Fin 6) (value : Word) : Statement (.calReq sector value) := of_none rfl rfl
theorem loopStartEvent (ctx : Fin 384) : Statement (.loopStartEvent ctx) := of_none rfl rfl
theorem loopIssue (ctx : Fin 384) : Statement (.loopIssue ctx) := of_none rfl rfl
theorem predictedRunDone (ctx : Fin 384) : Statement (.predictedRunDone ctx) := of_none rfl rfl
theorem sampleConfirm (ctx : Fin 384) : Statement (.sampleConfirm ctx) := of_none rfl rfl
theorem recomputeDone (ctx : Fin 384) : Statement (.recomputeDone ctx) := of_none rfl rfl
theorem settleDone (ctx : Fin 384) : Statement (.settleDone ctx) := of_none rfl rfl
theorem sampleTimeout (ctx : Fin 384) : Statement (.sampleTimeout ctx) := of_none rfl rfl
theorem loopBank (ctx : Fin 384) (value : Word) : Statement (.loopBank ctx value) := of_none rfl rfl
theorem loopEnable (ctx : Fin 384) (value : Word) : Statement (.loopEnable ctx value) := of_none rfl rfl
theorem stateRebuild (ctx : Fin 384) : Statement (.stateRebuild ctx) := of_none rfl rfl
theorem carrierPeriod (g : Fin 24) (point : CarrierPoint) : Statement (.carrierPeriod g point) := of_none rfl rfl
theorem pwmEdge (pair : Fin 96) (side : PwmSide) (kind : PwmEdgeKind) :
    Statement (.pwmEdge pair side kind) := of_none rfl rfl
theorem syncRestart (event : RestartEvent) : Statement (.syncRestart event) := of_none rfl rfl
theorem valleyDetect (g : Fin 24) : Statement (.valleyDetect g) := of_none rfl rfl
theorem valleyWindowEnd (g : Fin 24) : Statement (.valleyWindowEnd g) := of_none rfl rfl
theorem pwmCmpa (pair : Fin 96) (side : PwmSide) (value : Word) :
    Statement (.pwmCmpa pair side value) := of_none rfl rfl
theorem zoneAssert (z : Fin 48) : Statement (.zoneAssert z) := of_none rfl rfl
theorem zoneRelease (pair : Fin 96) : Statement (.zoneRelease pair) := of_none rfl rfl
theorem tripInPin (pin : TripPath) (asserted : Bool) :
    Statement (.tripInPin pin asserted) := of_none rfl rfl
theorem tzForce (z : Fin 48) (value : Word) : Statement (.tzForce z value) := of_none rfl rfl
theorem latchedClear (z : Fin 48) (value : Word) : Statement (.latchedClear z value) := of_none rfl rfl
theorem tripAllN (asserted : Bool) : Statement (.tripAllN asserted) := of_none rfl rfl
theorem gtripAssert : Statement .gtripAssert := of_none rfl rfl
theorem gtripClear : Statement .gtripClear := of_none rfl rfl
theorem pwmArmReq (g : Fin 24) (value : Word) : Statement (.pwmArmReq g value) := of_none rfl rfl
theorem arm (g : Fin 24) : Statement (.arm g) := of_none rfl rfl
theorem safeLock (g : Fin 24) : Statement (.safeLock g) := of_none rfl rfl
theorem disarm (g : Fin 24) (value : Word) : Statement (.disarm g value) := of_none rfl rfl
theorem plSubmit (q : Requester) : Statement (.plSubmit q) := of_none rfl rfl
theorem plCommit (q : Requester) : Statement (.plCommit q) := of_none rfl rfl
theorem plDiscard (q : Requester) (value : Word) : Statement (.plDiscard q value) := of_none rfl rfl
theorem plWithdraw (q : Requester) : Statement (.plWithdraw q) := of_none rfl rfl
theorem plReplace (q : Requester) : Statement (.plReplace q) := of_none rfl rfl
theorem plQuery (q : Requester) : Statement (.plQuery q) := of_none rfl rfl
theorem placementDone : Statement .placementDone := of_none rfl rfl
theorem quietPoint : Statement .quietPoint := of_none rfl rfl
theorem quietTimeout : Statement .quietTimeout := of_none rfl rfl
theorem replaceSwitch : Statement .replaceSwitch := of_none rfl rfl
theorem aicDoorbell (value : Word) : Statement (.aicDoorbell value) := of_none rfl rfl
theorem aicPdoorbell (value : Word) : Statement (.aicPdoorbell value) := of_none rfl rfl
theorem aicClaim (q : Requester) (c : Fin 16) : Statement (.aicClaim q c) := of_none rfl rfl
theorem aicEoi (q : Requester) (c : Fin 16) (value : Word) : Statement (.aicEoi q c value) := of_none rfl rfl
theorem groupHoldoffEnd (g : Fin 128) : Statement (.groupHoldoffEnd g) := of_none rfl rfl
theorem tsClaim : Statement .tsClaim := of_none rfl rfl
theorem tsEoi (value : Word) : Statement (.tsEoi value) := of_none rfl rfl
theorem tsDoorbell (value : Word) : Statement (.tsDoorbell value) := of_none rfl rfl
theorem sbCtl (q : Requester) (b : Fin 32) (value : Word) : Statement (.sbCtl q b value) := of_none rfl rfl
theorem ownerChangeEffect (b : Fin 32) : Statement (.ownerChangeEffect b) := of_none rfl rfl
theorem bankRetention (q : Requester) (b : Fin 32) (value : Word) :
    Statement (.bankRetention q b value) := of_none rfl rfl
theorem bankWake (q : Requester) (b : Fin 32) (value : Word) : Statement (.bankWake q b value) := of_none rfl rfl
theorem bankAwake (b : Fin 32) : Statement (.bankAwake b) := of_none rfl rfl
theorem busyPinRelease (port : Port) : Statement (.busyPinRelease port) := of_none rfl rfl
theorem dramTrainStep (r : TrainStep) : Statement (.dramTrainStep r) := of_none rfl rfl
theorem dramTempRead (code : Option (BitVec 3)) : Statement (.dramTempRead code) := of_none rfl rfl
theorem selfRefreshEntry : Statement .selfRefreshEntry := of_none rfl rfl
theorem selfRefreshExit : Statement .selfRefreshExit := of_none rfl rfl
theorem iommuInv (value : Word) : Statement (.iommuInv value) := of_none rfl rfl
theorem iommuInvDone : Statement .iommuInvDone := of_none rfl rfl
theorem dmaChKick (c : Fin 64) (value : Word) : Statement (.dmaChKick c value) := of_none rfl rfl
theorem descriptorFetchDone (c : Fin 64) : Statement (.descriptorFetchDone c) := of_none rfl rfl
theorem dmaBurst : Statement .dmaBurst := of_none rfl rfl
theorem paceRequest (c : Fin 64) : Statement (.paceRequest c) := of_none rfl rfl
theorem descriptorComplete (c : Fin 64) : Statement (.descriptorComplete c) := of_none rfl rfl
theorem dmaResume (c : Fin 64) (value : Word) : Statement (.dmaResume c value) := of_none rfl rfl
theorem transactionTimeout (addr : BitVec 40) : Statement (.transactionTimeout addr) := of_none rfl rfl
theorem dmaRestart (value : Word) : Statement (.dmaRestart value) := of_none rfl rfl
theorem conCtl (k : Fin 512) (value : Word) : Statement (.conCtl k value) := of_none rfl rfl
theorem lineLatch (k : Fin 512) (line : BitVec 16) : Statement (.lineLatch k line) := of_none rfl rfl
theorem renderJobStart : Statement .renderJobStart := of_none rfl rfl
theorem renderJobDone (pipe : Fin 16) : Statement (.renderJobDone pipe) := of_none rfl rfl
theorem lineEnterQueue (queue : Fin 16) : Statement (.lineEnterQueue queue) := of_none rfl rfl
theorem inlayTableArrived (k : Fin 512) : Statement (.inlayTableArrived k) := of_none rfl rfl
theorem conKick (k : Fin 512) (value : Word) : Statement (.conKick k value) := of_none rfl rfl
theorem scroll (r : Fin 64) (data : Word) : Statement (.scroll r data) := of_none rfl rfl
theorem scrollAdd (r : Fin 64) (data : Word) : Statement (.scrollAdd r data) := of_none rfl rfl
theorem layerEn (r : Fin 64) (data : Word) : Statement (.layerEn r data) := of_none rfl rfl
theorem window (r : Fin 64) (data : Word) : Statement (.window r data) := of_none rfl rfl
theorem palette (r : Fin 64) (data : Word) : Statement (.palette r data) := of_none rfl rfl
theorem backdrop (r : Fin 64) (data : Word) : Statement (.backdrop r data) := of_none rfl rfl
theorem render (r : Fin 64) (data : Word) : Statement (.render r data) := of_none rfl rfl
theorem conSqData (q : Requester) (queue : Fin 16) : Statement (.conSqData q queue) := of_none rfl rfl
theorem streamFlush (queue : Fin 16) (value : Word) : Statement (.streamFlush queue value) := of_none rfl rfl
theorem headEnable (h : Fin 2) (value : Word) : Statement (.headEnable h value) := of_none rfl rfl
theorem headDisable (h : Fin 2) (value : Word) : Statement (.headDisable h value) := of_none rfl rfl
theorem videoPllLock (h : Fin 2) : Statement (.videoPllLock h) := of_none rfl rfl
theorem hdCommit (h : Fin 2) (value : Word) : Statement (.hdCommit h value) := of_none rfl rfl
theorem commitLatch (h : Fin 2) : Statement (.commitLatch h) := of_none rfl rfl
theorem layerRefill (h : Fin 2) (l : Fin 8) : Statement (.layerRefill h l) := of_none rfl rfl
theorem underrun (h : Fin 2) (l : Fin 8) (line : BitVec 13) (x : BitVec 13) :
    Statement (.underrun h l line x) := of_none rfl rfl
theorem layerFetchFault (h : Fin 2) (l : Fin 8) (line : BitVec 13) (x : BitVec 13) (n : BitVec 13) (addr : Word) :
    Statement (.layerFetchFault h l line x n addr) := of_none rfl rfl
theorem writeBackLine (h : Fin 2) (line : BitVec 12) (late : Bool) :
    Statement (.writeBackLine h line late) := of_none rfl rfl
theorem psrExit (h : Fin 2) : Statement (.psrExit h) := of_none rfl rfl
theorem linkTrain (h : Fin 2) (value : Word) (ok : Bool) (psr : Bool) (su : Bool) (gran : BitVec 8) :
    Statement (.linkTrain h value ok psr su gran) := of_none rfl rfl
theorem hpdPlug (h : Fin 2) : Statement (.hpdPlug h) := of_none rfl rfl
theorem hpdUnplug (h : Fin 2) : Statement (.hpdUnplug h) := of_none rfl rfl
theorem irqHpd (h : Fin 2) : Statement (.irqHpd h) := of_none rfl rfl
theorem dpAuxCmd (h : Fin 2) (value : Word) : Statement (.dpAuxCmd h value) := of_none rfl rfl
theorem auxReply (h : Fin 2) (r : AuxReply) : Statement (.auxReply h r) := of_none rfl rfl
theorem auxTimeout (h : Fin 2) : Statement (.auxTimeout h) := of_none rfl rfl
theorem mvSubmit (q : Requester) : Statement (.mvSubmit q) := of_none rfl rfl
theorem copy : Statement .copy := of_none rfl rfl
theorem fill : Statement .fill := of_none rfl rfl
theorem blend : Statement .blend := of_none rfl rfl
theorem keyfill : Statement .keyfill := of_none rfl rfl
theorem moverRow : Statement .moverRow := of_none rfl rfl
theorem moverSuspend (value : Word) : Statement (.moverSuspend value) := of_none rfl rfl
theorem moverResume (value : Word) : Statement (.moverResume value) := of_none rfl rfl
theorem moverRestart (value : Word) : Statement (.moverRestart value) := of_none rfl rfl
theorem moverFlush (value : Word) : Statement (.moverFlush value) := of_none rfl rfl
theorem domainSample (d : Fin 2) (pdm : List (BitVec 24)) (tdm : List Word) :
    Statement (.domainSample d pdm tdm) := of_none rfl rfl
theorem carrierSample : Statement .carrierSample := of_none rfl rfl
theorem carrierLost : Statement .carrierLost := of_none rfl rfl
theorem carrierRecover : Statement .carrierRecover := of_none rfl rfl
theorem keyOn (v : Fin 32) (value : Word) : Statement (.keyOn v value) := of_none rfl rfl
theorem keyOff (v : Fin 32) (value : Word) : Statement (.keyOff v value) := of_none rfl rfl
theorem pdmClkLost (g : Fin 4) : Statement (.pdmClkLost g) := of_none rfl rfl
theorem pdmStuck (m : Fin 16) : Statement (.pdmStuck m) := of_none rfl rfl
theorem tdmSyncLost (p : Fin 4) : Statement (.tdmSyncLost p) := of_none rfl rfl
theorem tdmResume (p : Fin 4) : Statement (.tdmResume p) := of_none rfl rfl
theorem tdmSlip (p : Fin 4) : Statement (.tdmSlip p) := of_none rfl rfl
theorem audRtApply (q : Requester) : Statement (.audRtApply q) := of_none rfl rfl
theorem rampDone (r : Fin 128) : Statement (.rampDone r) := of_none rfl rfl
theorem audCqData (q : Requester) (queue : Fin 8) : Statement (.audCqData q queue) := of_none rfl rfl
theorem peakMeterRead (q : Requester) (out : Bool) (n : Fin 16) :
    Statement (.peakMeterRead q out n) := of_none rfl rfl
theorem perst (port : Port) : Statement (.perst port) := of_none rfl rfl
theorem functionLevelReset (port : Port) : Statement (.functionLevelReset port) := of_none rfl rfl
theorem linkUp (port : Port) (width : Fin 3) (rate : Fin 5) : Statement (.linkUp port width rate) := of_none rfl rfl
theorem bar0Request (port : Port) (off : BitVec 28) (req : HostReq) :
    Statement (.bar0Request port off req) := fun h => by
  have h := (Bool.and_eq_true _ _).mp h
  exact ⟨by simpa [offsets] using of_decide_eq_true h.1, request_le h.2⟩
theorem registerTimeout (port : Port) : Statement (.registerTimeout port) := of_none rfl rfl
theorem bar2Access (port : Port) (off : BitVec 16) (acc : MailAccess) (other : Option MailOther) :
    Statement (.bar2Access port off acc other) := fun h => ⟨by simpa [offsets] using of_decide_eq_true h, Nat.zero_le _⟩
theorem hpHostDb (port : Port) (value : Word) : Statement (.hpHostDb port value) := of_none rfl rfl
theorem chkAcquire (n : Fin 256) (qs : List Requester) : Statement (.chkAcquire n qs) := of_none rfl rfl
theorem chkRelease (q : Requester) (n : Fin 256) (value : Word) : Statement (.chkRelease q n value) := of_none rfl rfl
theorem chkLeaseExpiry (port : Port) : Statement (.chkLeaseExpiry port) := of_none rfl rfl
theorem abortLoopContext (e : Fin 3) (ring : Bool) (number : BitVec 16) :
    Statement (.abortLoopContext e ring number) := of_none rfl rfl
theorem abortPwmGroup (e : Fin 3) (ring : Bool) (number : BitVec 16) :
    Statement (.abortPwmGroup e ring number) := of_none rfl rfl
theorem abortSpindle (e : Fin 3) (ring : Bool) (number : BitVec 16) :
    Statement (.abortSpindle e ring number) := of_none rfl rfl
theorem abortPlatePartition (e : Fin 3) (ring : Bool) (number : BitVec 16) :
    Statement (.abortPlatePartition e ring number) := of_none rfl rfl
theorem abortConsoleContext (e : Fin 3) (ring : Bool) (number : BitVec 16) :
    Statement (.abortConsoleContext e ring number) := of_none rfl rfl
theorem abort2dMover (e : Fin 3) (ring : Bool) (number : BitVec 16) :
    Statement (.abort2dMover e ring number) := of_none rfl rfl
theorem abortAudioRoute (e : Fin 3) (ring : Bool) (number : BitVec 16) :
    Statement (.abortAudioRoute e ring number) := of_none rfl rfl
theorem abortAudioOutput (e : Fin 3) (ring : Bool) (number : BitVec 16) :
    Statement (.abortAudioOutput e ring number) := of_none rfl rfl
theorem abortDmaChannel (e : Fin 3) (ring : Bool) (number : BitVec 16) :
    Statement (.abortDmaChannel e ring number) := of_none rfl rfl
theorem abortDone (e : Fin 3) : Statement (.abortDone e) := of_none rfl rfl
theorem dictRead : Statement .dictRead := of_none rfl rfl
theorem dictWrite : Statement .dictWrite := of_none rfl rfl
theorem dictDescribe : Statement .dictDescribe := of_none rfl rfl
theorem dictDone : Statement .dictDone := of_none rfl rfl
theorem transferAbandon (index : BitVec 16) (sub : BitVec 8) :
    Statement (.transferAbandon index sub) := of_none rfl rfl
theorem storeSave (who : Fin 21) (value : Word) : Statement (.storeSave who value) := of_none rfl rfl
theorem restoreLoad (who : Fin 21) (value : Word) : Statement (.restoreLoad who value) := of_none rfl rfl
theorem armRequestObject (who : Fin 21) (g : Fin 24) (value : Byte) :
    Statement (.armRequestObject who g value) := of_none rfl rfl
theorem hpTsMsg (port : Port) (value : Word) : Statement (.hpTsMsg port value) := of_none rfl rfl
theorem tsReplyWrite (port : Port) (value : Word) : Statement (.tsReplyWrite port value) := of_none rfl rfl
theorem nmtStart (node : BitVec 8) : Statement (.nmtStart node) := of_none rfl rfl
theorem nmtStop (node : BitVec 8) : Statement (.nmtStop node) := of_none rfl rfl
theorem nmtPreOperational (node : BitVec 8) : Statement (.nmtPreOperational node) := of_none rfl rfl
theorem nmtResetNode (node : BitVec 8) : Statement (.nmtResetNode node) := of_none rfl rfl
theorem nmtResetCommunication (node : BitVec 8) : Statement (.nmtResetCommunication node) := of_none rfl rfl
theorem heartbeat : Statement .heartbeat := of_none rfl rfl
theorem usdoRequest (write : Bool) (index : BitVec 16) (sub : BitVec 8) (off : Word) (len : BitVec 16) (data : List Byte) (last : Bool) :
    Statement (.usdoRequest write index sub off len data last) := of_none rfl rfl
theorem tpdo (n : Fin 4) : Statement (.tpdo n) := of_none rfl rfl
theorem canFrameReceive (c : Fin 4) (fault : Option Bool) (ext : Bool) (id : BitVec 29) (data : List Byte) :
    Statement (.canFrameReceive c fault ext id data) := fun h => ⟨by simp [offsets], Nat.le_trans (of_decide_eq_true h) (by decide)⟩
theorem canTxDone (c : Fin 4) (t : Fin 16) : Statement (.canTxDone c t) := of_none rfl rfl
theorem busStuck (c : Fin 4) : Statement (.busStuck c) := of_none rfl rfl
theorem busOff (c : Fin 4) : Statement (.busOff c) := of_none rfl rfl
theorem busOffRecover (c : Fin 4) : Statement (.busOffRecover c) := of_none rfl rfl
theorem horanoDatagram (m : Fin 2) (src : Word) (port : BitVec 16) (dst : Word) (broken : Bool) (data : List Byte) :
    Statement (.horanoDatagram m src port dst broken data) := fun h => ⟨by simp [offsets], Nat.le_trans (of_decide_eq_true h) (by decide)⟩
theorem ethFrameReceive (m : Fin 2) (data : List Byte) (fcs : Bool) (event : Bool) :
    Statement (.ethFrameReceive m data fcs event) := of_none rfl rfl
theorem sgmiiSyncLost (m : Fin 2) : Statement (.sgmiiSyncLost m) := of_none rfl rfl
theorem tsmDictCmd (c : Fin 16) (value : Word) : Statement (.tsmDictCmd c value) := of_none rfl rfl
theorem tsmMsg (c : Fin 16) (value : Word) : Statement (.tsmMsg c value) := of_none rfl rfl
theorem tsmReply (c : Fin 16) (value : Word) : Statement (.tsmReply c value) := of_none rfl rfl
theorem sensorSample (k : Fin 56) (value : BitVec 16) : Statement (.sensorSample k value) := of_none rfl rfl
theorem sensorInvalid (k : Fin 56) : Statement (.sensorInvalid k) := of_none rfl rfl
theorem journalWrite : Statement .journalWrite := of_none rfl rfl
theorem norProgramDone (r : NorResult) : Statement (.norProgramDone r) := of_none rfl rfl
theorem otpProg (value : Word) : Statement (.otpProg value) := of_none rfl rfl
theorem otpProgDone (ok : Bool) : Statement (.otpProgDone ok) := of_none rfl rfl
theorem bootRom : Statement .bootRom := of_none rfl rfl
theorem imageWrite (who : Fin 21) (core : Bool) (off : BitVec 26) (data : List Byte) (fails : Bool) :
    Statement (.imageWrite who core off data fails) := fun h => ⟨by simp [offsets], Nat.le_trans (of_decide_eq_true h) (by decide)⟩
theorem imageVerify (who : Fin 21) (value : Byte) : Statement (.imageVerify who value) := of_none rfl rfl
theorem imageActivate (who : Fin 21) (value : Byte) : Statement (.imageActivate who value) := of_none rfl rfl
theorem imageConfirm (who : Fin 21) (value : Byte) : Statement (.imageConfirm who value) := of_none rfl rfl
theorem attestationNonce (who : Fin 21) (nonce : BitVec 512) :
    Statement (.attestationNonce who nonce) := of_none rfl rfl
theorem quote (who : Fin 21) (off : BitVec 12) (len : BitVec 12) : Statement (.quote who off len) := of_none rfl rfl
theorem debugChallenge (who : Fin 21) : Statement (.debugChallenge who) := of_none rfl rfl
theorem debugResponse (who : Fin 21) (resp : BitVec 1056) : Statement (.debugResponse who resp) := of_none rfl rfl
theorem debugLock (who : Fin 21) (value : Byte) : Statement (.debugLock who value) := of_none rfl rfl
theorem debugLevel (who : Fin 21) (value : Byte) : Statement (.debugLevel who value) := of_none rfl rfl
theorem challengeExpiry : Statement .challengeExpiry := of_none rfl rfl
theorem tamper (cause : TamperCause) : Statement (.tamper cause) := of_none rfl rfl
theorem meshCheck (intact : Bool) : Statement (.meshCheck intact) := of_none rfl rfl
theorem trngHealthFail : Statement .trngHealthFail := of_none rfl rfl
theorem trngRecover : Statement .trngRecover := of_none rfl rfl
theorem telemetryRefresh : Statement .telemetryRefresh := of_none rfl rfl
theorem machineCheck : Statement .machineCheck := of_none rfl rfl
theorem mcrInfo (q : Requester) (c : Fin 16) (value : Word) : Statement (.mcrInfo q c value) := of_none rfl rfl
theorem scrubRead (u : ScrubUnit) (fails : Bool) : Statement (.scrubRead u fails) := of_none rfl rfl
theorem cvQueueWrite (u : Fin 8) (r : CvReg) (value : Word) : Statement (.cvQueueWrite u r value) := of_none rfl rfl
theorem cvData (u : Fin 8) : Statement (.cvData u) := of_none rfl rfl
theorem cvInit (u : Fin 8) : Statement (.cvInit u) := of_none rfl rfl
theorem cvAliveIn (u : Fin 8) : Statement (.cvAliveIn u) := of_none rfl rfl
theorem cvCheck (u : Fin 8) : Statement (.cvCheck u) := of_none rfl rfl
theorem cvStateLo (u : Fin 8) (value : Word) : Statement (.cvStateLo u value) := of_none rfl rfl
theorem pinCfg (n : Fin 160) (value : Word) (level : Bool) : Statement (.pinCfg n value level) := of_none rfl rfl
theorem keeperRelease (n : Fin 160) : Statement (.keeperRelease n) := of_none rfl rfl
theorem filterAccept (n : Fin 160) (level : Bool) : Statement (.filterAccept n level) := of_none rfl rfl
theorem bankSupplyLost (u : Supply) : Statement (.bankSupplyLost u) := of_none rfl rfl
theorem bankSupplyReturn (u : Supply) (high : Bool) (levels : BitVec 16) :
    Statement (.bankSupplyReturn u high levels) := of_none rfl rfl
theorem coreRelease (c : Fin 16) : Statement (.coreRelease c) := of_none rfl rfl
theorem resetRequest (who : Fin 21) (value : Word) : Statement (.resetRequest who value) := of_none rfl rfl
theorem deviceReset : Statement .deviceReset := of_none rfl rfl
theorem coreDomainReset : Statement .coreDomainReset := of_none rfl rfl
theorem coreReset (c : Fin 16) : Statement (.coreReset c) := of_none rfl rfl
theorem fabricPllLock : Statement .fabricPllLock := of_none rfl rfl
theorem tailstockPllLock : Statement .tailstockPllLock := of_none rfl rfl
theorem crystalReturn : Statement .crystalReturn := of_none rfl rfl
theorem comparatorHoldEnd (k : Fin 72) : Statement (.comparatorHoldEnd k) := of_none rfl rfl
theorem pdmClkReturn (g : Fin 4) : Statement (.pdmClkReturn g) := of_none rfl rfl
theorem sgmiiSyncGained (m : Fin 2) : Statement (.sgmiiSyncGained m) := of_none rfl rfl
theorem busRecessiveReturn (c : Fin 4) : Statement (.busRecessiveReturn c) := of_none rfl rfl
theorem outboundCompletion (port : Port) (tag : Fin 64) (result : CplResult) :
    Statement (.outboundCompletion port tag result) := of_none rfl rfl
theorem completionTimeout (port : Port) (tag : Fin 64) : Statement (.completionTimeout port tag) := of_none rfl rfl
theorem configurationRequest (port : Port) (c : ConfigWrite) :
    Statement (.configurationRequest port c) := of_none rfl rfl

end Sys2Proof.Laws.FittingOperands
end

