-- ==== Sys2Proof/Laws/TouchSec.lean ====
section
/-! SUPPORT. Which parts of the state the definitions of Machine/Sec.lean touch: one lemma for each, the proofs written by a
script from their shape. -/

namespace Sys2Proof.Machine

theorem lossEntry_touches : ∀ a0,
    Touches [.freeCtr, .regs, .log, .canNode] a0 (lossEntry a0) := by
  intro a0
  unfold lossEntry
  refine touches_ite ?_ ?_
  · refine touches_after ?_ (logEvent_touches _ _ _ _ _) (by decide)
    refine touches_after ?_ (touch_log _) (by decide)
    exact touches_refl _ _
  · exact touches_refl _ _

theorem journalWriteEff_touches : ∀ a0,
    Touches [.log] a0 (journalWriteEff a0) := by
  intro a0
  unfold journalWriteEff
  refine touches_ite ?_ ?_
  · exact touches_refl _ _
  · refine touches_after ?_ (touch_log _) (by decide)
    exact touches_refl _ _

theorem execJournalWrite_touches : ∀ a0,
    ∃ t, execJournalWrite a0 = .next t ∧ Touches [.log] a0 t := by
  intro a0
  unfold execJournalWrite
  refine ⟨_, rfl, ?_⟩
  refine touches_ite ?_ ?_
  · refine touches_after ?_ (journalWriteEff_touches _) (by decide)
    exact touches_refl _ _
  · exact touches_refl _ _

theorem norProgramDoneEff_touches : ∀ a0 a1,
    Touches [.freeCtr, .regs, .log, .sec, .canNode] a1 (norProgramDoneEff a0 a1) := by
  intro a0 a1
  unfold norProgramDoneEff
  split
  · refine touches_after ?_ (raiseTs_touches _ _) (by decide)
    refine touches_after ?_ (touch_log_sec _ (by rfl) (by rfl)) (by decide)
    exact touches_refl _ _
  · split
    · refine touches_after ?_ (lossEntry_touches _) (by decide)
      refine touches_after ?_ (touch_log _) (by decide)
      exact touches_refl _ _
    · exact touches_refl _ _
  · split
    · extract_lets +onlyGivenNames x0
      clear_value x0
      extract_lets +onlyGivenNames x1
      clear_value x1
      refine touches_after ?_ (logOpen_touches _ _ _ _ _) (by decide)
      refine touches_after ?_ (touch_log _) (by decide)
      exact touches_refl _ _
    · exact touches_refl _ _

theorem execNorProgramDone_touches : ∀ a0 a1,
    ∃ t, execNorProgramDone a0 a1 = .next t ∧ Touches [.freeCtr, .regs, .log, .sec, .canNode] a1 t := by
  intro a0 a1
  unfold execNorProgramDone
  refine ⟨_, rfl, ?_⟩
  refine touches_ite ?_ ?_
  · refine touches_after ?_ (norProgramDoneEff_touches _ _) (by decide)
    exact touches_refl _ _
  · exact touches_refl _ _

theorem journalFlush_touches : ∀ a0 a1,
    Touches [.log] a1 (journalFlush a0 a1) := by
  intro a0 a1
  fun_induction journalFlush a0 a1
  · exact touches_refl _ _
  · exact touches_refl _ _
  · refine touches_after ?_ ‹_› (fun _ h => h)
    refine touches_after ?_ (touch_log _) (by decide)
    exact touches_refl _ _

theorem logSecurity_touches : ∀ a0 a1 a2 a3,
    Touches [.freeCtr, .regs, .log, .canNode] a3 (logSecurity a0 a1 a2 a3) := by
  intro a0 a1 a2 a3
  unfold logSecurity
  refine touches_after ?_ (lossEntry_touches _) (by decide)
  refine touches_after ?_ (journalFlush_touches _ _) (by decide)
  refine touches_after ?_ (logOpen_touches _ _ _ _ _) (by decide)
  exact touches_refl _ _

theorem setOtp_touches : ∀ a0 a1 a2,
    Touches [.sec, .otp] a2 (setOtp a0 a1 a2) := by
  intro a0 a1 a2
  unfold setOtp
  refine touches_after ?_ (touch_sec_otp _ (by rfl)) (by decide)
  exact touches_refl _ _

theorem blowBit_touches : ∀ a0 a1 a2,
    Touches [.sec, .otp] a2 (blowBit a0 a1 a2) := by
  intro a0 a1 a2
  unfold blowBit
  refine touches_after ?_ (setOtp_touches _ _ _) (by decide)
  exact touches_refl _ _

theorem raiseCounter_touches : ∀ a0 a1,
    Touches [.sec, .otp] a1 (raiseCounter a0 a1) := by
  intro a0 a1
  unfold raiseCounter
  refine touches_forEach (fun _ _ _ => ?_) ?_
  · refine touches_after ?_ (blowBit_touches _ _ _) (by decide)
    assumption
  · exact touches_refl _ _

theorem otpProg_touches : ∀ a0 a1,
    Touches [.regs, .sec] a1 (otpProg a0 a1) := by
  intro a0 a1
  unfold otpProg
  refine touches_ite ?_ ?_
  · refine touches_after ?_ (State.setBit_touches _ _ _ _) (by decide)
    refine touches_after ?_ (touch_sec _ (by rfl) (by rfl)) (by decide)
    exact touches_refl _ _
  · exact touches_refl _ _

theorem execOtpProg_touches : ∀ a0 a1,
    ∃ t, execOtpProg a0 a1 = .next t ∧ Touches [.regs, .sec] a1 t := by
  intro a0 a1
  unfold execOtpProg
  refine ⟨_, rfl, ?_⟩
  refine touches_ite ?_ ?_
  · refine touches_after ?_ (otpProg_touches _ _) (by decide)
    exact touches_refl _ _
  · exact touches_refl _ _

theorem otpProgDone_touches : ∀ a0 a1,
    Touches [.freeCtr, .regs, .sec, .otp] a1 (otpProgDone a0 a1) := by
  intro a0 a1
  unfold otpProgDone
  split
  · exact touches_refl _ _
  · extract_lets +onlyGivenNames x0
    extract_lets +onlyGivenNames x1
    refine touches_cut x1 ?_ (fun h1 => ?_)
    · unfold x1
      refine touches_after ?_ (State.setReg_touches _ _ _) (by decide)
      refine touches_after ?_ (touch_sec _ (by rfl) (by rfl)) (by decide)
      exact touches_refl _ _
    clear_value x1
    refine touches_ite ?_ ?_
    · refine touches_after ?_ (blowBit_touches _ _ _) (by decide)
      assumption
    · extract_lets +onlyGivenNames x2
      refine touches_cut_snd x2 ?_ (fun h2 => ?_)
      · unfold x2
        refine touches_after ?_ (takeFree_touches _ _) (by decide)
        assumption
      clear_value x2
      refine touches_ite ?_ ?_
      · refine touches_after ?_ (blowBit_touches _ _ _) (by decide)
        assumption
      · assumption

theorem execOtpProgDone_touches : ∀ a0 a1,
    ∃ t, execOtpProgDone a0 a1 = .next t ∧ Touches [.freeCtr, .regs, .sec, .otp] a1 t := by
  intro a0 a1
  unfold execOtpProgDone
  refine ⟨_, rfl, ?_⟩
  refine touches_ite ?_ ?_
  · refine touches_after ?_ (otpProgDone_touches _ _) (by decide)
    exact touches_refl _ _
  · exact touches_refl _ _

theorem setBootRec_touches : ∀ a0 a1,
    Touches [.sec] a1 (setBootRec a0 a1) := by
  intro a0 a1
  unfold setBootRec
  extract_lets +onlyGivenNames x0
  clear_value x0
  extract_lets +onlyGivenNames x1
  clear_value x1
  refine touches_ite ?_ ?_
  · refine touches_after ?_ (touch_sec _ (by rfl) (by rfl)) (by decide)
    exact touches_refl _ _
  · refine touches_after ?_ (touch_sec _ (by rfl) (by rfl)) (by decide)
    exact touches_refl _ _

theorem enterRecovery_touches : ∀ a0 a1,
    Touches [.freeCtr, .regs, .sys, .log, .sec, .canNode] a1 (enterRecovery a0 a1) := by
  intro a0 a1
  unfold enterRecovery
  refine touches_after ?_ (logOpen_touches _ _ _ _ _) (by decide)
  refine touches_after ?_ (touch_sys_sec _ (by rfl) (by rfl) (by rfl)) (by decide)
  exact touches_refl _ _

theorem revertTrial_touches : ∀ a0,
    Touches [.freeCtr, .regs, .log, .sec, .canNode] a0 (revertTrial a0) := by
  intro a0
  unfold revertTrial
  extract_lets +onlyGivenNames x0
  clear_value x0
  refine touches_ite ?_ ?_
  · refine touches_after ?_ (logOpen_touches _ _ _ _ _) (by decide)
    refine touches_after ?_ (setBootRec_touches _ _) (by decide)
    exact touches_refl _ _
  · exact touches_refl _ _

theorem countAttempt_touches : ∀ a0,
    Touches [.sec] a0 (countAttempt a0) := by
  intro a0
  unfold countAttempt
  extract_lets +onlyGivenNames x0
  clear_value x0
  refine touches_ite ?_ ?_
  · exact touches_refl _ _
  · refine touches_after ?_ (setBootRec_touches _ _) (by decide)
    exact touches_refl _ _

theorem startImage_touches : ∀ a0 a1,
    Touches (.freeCtr :: .regs :: .sys :: .log :: .cores :: .sec :: .canNode :: .mem :: .poison :: []) a1 (startImage a0 a1) := by
  intro a0 a1
  unfold startImage
  extract_lets +onlyGivenNames x0
  refine touches_cut x0 ?_ (fun h0 => ?_)
  · unfold x0
    refine touches_after ?_ (countAttempt_touches _) (by decide)
    refine touches_after ?_ (State.store_touches _ _ _) (by decide)
    exact touches_refl _ _
  clear_value x0
  extract_lets +onlyGivenNames x1
  extract_lets +onlyGivenNames x2
  extract_lets +onlyGivenNames x3
  refine touches_cut x3 ?_ (fun h3 => ?_)
  · unfold x3
    refine touches_after ?_ (logOpen_touches _ _ _ _ _) (by decide)
    refine touches_after ?_ (touch_sys_sec _ (by rfl) (by rfl) (by rfl)) (by decide)
    assumption
  clear_value x3
  refine touches_after ?_ (resetCore_touches _ _ _) (by decide)
  assumption

theorem tamperLogged_touches : ∀ a0,
    Touches [.freeCtr, .regs, .log, .canNode] a0 (tamperLogged a0) := by
  intro a0
  unfold tamperLogged
  refine touches_ite ?_ ?_
  · exact touches_refl _ _
  · refine touches_after ?_ (State.setReg_touches _ _ _) (by decide)
    refine touches_after ?_ (logSecurity_touches _ _ _ _) (by decide)
    exact touches_refl _ _

theorem startFrom_touches : ∀ a0 a1,
    Touches (.freeCtr :: .regs :: .sys :: .log :: .cores :: .sec :: .canNode :: .mem :: .poison :: []) a1 (startFrom a0 a1) := by
  intro a0 a1
  unfold startFrom
  split
  · refine touches_after ?_ (startImage_touches _ _) (by decide)
    exact touches_refl _ _
  · refine touches_after ?_ (enterRecovery_touches _ _) (by decide)
    exact touches_refl _ _

theorem bootRomEff_touches : ∀ a0,
    Touches (.freeCtr :: .regs :: .sys :: .log :: .cores :: .sec :: .canNode :: .mem :: .poison :: .otp :: []) a0 (bootRomEff a0) := by
  intro a0
  unfold bootRomEff
  extract_lets +onlyGivenNames x0
  clear_value x0
  extract_lets +onlyGivenNames x1
  extract_lets +onlyGivenNames x2
  refine touches_cut x2 ?_ (fun h2 => ?_)
  · unfold x2
    refine touches_after ?_ (tamperLogged_touches _) (by decide)
    refine touches_after ?_ (touch_log_sec _ (by rfl) (by rfl)) (by decide)
    exact touches_refl _ _
  clear_value x2
  refine touches_ite ?_ ?_
  · refine touches_after ?_ (enterRecovery_touches _ _) (by decide)
    assumption
  · refine touches_ite ?_ ?_
    · refine touches_after ?_ (enterRecovery_touches _ _) (by decide)
      assumption
    · refine touches_ite ?_ ?_
      · refine touches_after ?_ (enterRecovery_touches _ _) (by decide)
        assumption
      · extract_lets +onlyGivenNames x3
        refine touches_cut x3 ?_ (fun h3 => ?_)
        · unfold x3
          refine touches_after ?_ (revertTrial_touches _) (by decide)
          assumption
        clear_value x3
        extract_lets +onlyGivenNames x4
        refine touches_cut x4 ?_ (fun h4 => ?_)
        · unfold x4
          refine touches_ite ?_ ?_
          · refine touches_after ?_ (raiseCounter_touches _ _) (by decide)
            assumption
          · assumption
        clear_value x4
        refine touches_after ?_ (startFrom_touches _ _) (by decide)
        assumption

theorem execBootRom_touches : ∀ a0,
    ∃ t, execBootRom a0 = .next t ∧ Touches (.freeCtr :: .regs :: .sys :: .log :: .cores :: .sec :: .canNode :: .mem :: .poison :: .otp :: []) a0 t := by
  intro a0
  unfold execBootRom
  refine ⟨_, rfl, ?_⟩
  refine touches_ite ?_ ?_
  · refine touches_after ?_ (bootRomEff_touches _) (by decide)
    exact touches_refl _ _
  · exact touches_refl _ _

theorem copyImage_touches : ∀ a0 a1 a2,
    Touches [.freeCtr, .regs, .plate, .cores, .dict, .mem, .poison] a2 (copyImage a0 a1 a2) := by
  intro a0 a1 a2
  unfold copyImage
  refine touches_after ?_ (memWrite_touches _ _ _ _) (by decide)
  exact touches_refl _ _

theorem noteCoreImage_touches : ∀ a0 a1,
    Touches [.sec] a1 (noteCoreImage a0 a1) := by
  intro a0 a1
  unfold noteCoreImage
  refine touches_after ?_ (touch_sec _ (by rfl) (by rfl)) (by decide)
  exact touches_refl _ _

theorem releaseFrom_touches : ∀ a0 a1 a2,
    Touches (.freeCtr :: .regs :: .log :: .plate :: .cores :: .sec :: .dict :: .canNode :: .mem :: .poison :: []) a2 (releaseFrom a0 a1 a2) := by
  intro a0 a1 a2
  unfold releaseFrom
  split
  · refine touches_after ?_ (logOpen_touches _ _ _ _ _) (by decide)
    exact touches_refl _ _
  · extract_lets +onlyGivenNames x0
    clear_value x0
    refine touches_ite ?_ ?_
    · refine touches_after ?_ (logEvent_touches _ _ _ _ _) (by decide)
      exact touches_refl _ _
    · extract_lets +onlyGivenNames x1
      refine touches_cut x1 ?_ (fun h1 => ?_)
      · unfold x1
        refine touches_after ?_ (noteCoreImage_touches _ _) (by decide)
        refine touches_after ?_ (copyImage_touches _ _ _) (by decide)
        exact touches_refl _ _
      clear_value x1
      refine touches_after ?_ (resetCore_touches _ _ _) (by decide)
      refine touches_after ?_ (State.setBit_touches _ _ _ _) (by decide)
      refine touches_after ?_ (State.setReg_touches _ _ _) (by decide)
      assumption

theorem coreReleaseEff_touches : ∀ a0 a1,
    Touches (.freeCtr :: .regs :: .log :: .plate :: .cores :: .sec :: .dict :: .canNode :: .mem :: .poison :: []) a1 (coreReleaseEff a0 a1) := by
  intro a0 a1
  unfold coreReleaseEff
  refine touches_after ?_ (releaseFrom_touches _ _ _) (by decide)
  exact touches_refl _ _

theorem execCoreRelease_touches : ∀ a0 a1,
    ∃ t, execCoreRelease a0 a1 = .next t ∧ Touches (.freeCtr :: .regs :: .log :: .plate :: .cores :: .sec :: .dict :: .canNode :: .mem :: .poison :: []) a1 t := by
  intro a0 a1
  unfold execCoreRelease
  refine ⟨_, rfl, ?_⟩
  refine touches_ite ?_ ?_
  · refine touches_after ?_ (coreReleaseEff_touches _ _) (by decide)
    exact touches_refl _ _
  · exact touches_refl _ _

theorem State.setSensor_touches : ∀ a0 a1 a2,
    Touches [.sec] a0 (State.setSensor a0 a1 a2) := by
  intro a0 a1 a2
  unfold State.setSensor
  refine touches_after ?_ (touch_sec _ (by rfl) (by rfl)) (by decide)
  exact touches_refl _ _

theorem showSensor_touches : ∀ a0 a1,
    Touches [.regs] a1 (showSensor a0 a1) := by
  intro a0 a1
  unfold showSensor
  refine touches_after ?_ (State.setFld_touches _ _ _ _ _) (by decide)
  exact touches_refl _ _

theorem releaseHolds_touches : ∀ a0,
    Touches [.sys] a0 (releaseHolds a0) := by
  intro a0
  unfold releaseHolds
  extract_lets +onlyGivenNames x0
  clear_value x0
  extract_lets +onlyGivenNames x1
  clear_value x1
  extract_lets +onlyGivenNames x2
  clear_value x2
  refine touches_after ?_ (touch_sys _ (by rfl)) (by decide)
  exact touches_refl _ _

theorem holdCoreDomain_touches : ∀ a0 a1 a2,
    Touches (.freeCtr :: .cyc :: .pulses :: .regs :: .sys :: .log :: .spindles :: .timers :: .ptp :: .adcs :: .channels :: .comparators :: .demods :: .sectors :: .pairs :: .groups :: .tripPins :: .zonePins :: .plate :: .loops :: .place :: .cores :: .aic :: .dma :: .dmaLast :: .outbound :: .posted :: .consoles :: .conJobs :: .pipes :: .streams :: .liveLines :: .active :: .mover :: .heads :: .audio :: .keepers :: .sec :: .cvs :: .dict :: .canNode :: .cans :: .macs :: .iotlb :: .sbOld :: .trainTries :: .refreshFast :: .dramTemp :: .macQueues :: .mem :: .poison :: .checks :: []) a2 (holdCoreDomain a0 a1 a2) := by
  intro a0 a1 a2
  unfold holdCoreDomain
  extract_lets +onlyGivenNames x0
  refine touches_cut x0 ?_ (fun h0 => ?_)
  · unfold x0
    refine touches_after ?_ (coreDomainReset_touches _) (by decide)
    exact touches_refl _ _
  clear_value x0
  refine touches_after ?_ (assertGlobalTrip_touches _ _) (by decide)
  refine touches_after ?_ (State.setBit_touches _ _ _ _) (by decide)
  refine touches_after ?_ (touch_sys _ (by rfl)) (by decide)
  assumption

theorem alarmAction_touches : ∀ a0 a1,
    Touches (.freeCtr :: .cyc :: .pulses :: .regs :: .sys :: .log :: .spindles :: .timers :: .ptp :: .adcs :: .channels :: .comparators :: .demods :: .sectors :: .pairs :: .groups :: .tripPins :: .zonePins :: .plate :: .loops :: .place :: .cores :: .aic :: .dma :: .dmaLast :: .outbound :: .posted :: .consoles :: .conJobs :: .pipes :: .streams :: .liveLines :: .active :: .mover :: .heads :: .audio :: .keepers :: .sec :: .cvs :: .dict :: .canNode :: .cans :: .macs :: .iotlb :: .sbOld :: .trainTries :: .refreshFast :: .dramTemp :: .macQueues :: .mem :: .poison :: .checks :: []) a1 (alarmAction a0 a1) := by
  intro a0 a1
  unfold alarmAction
  split
  · exact touches_refl _ _
  · refine touches_after ?_ (assertGlobalTrip_touches _ _) (by decide)
    exact touches_refl _ _
  · extract_lets +onlyGivenNames x0
    clear_value x0
    extract_lets +onlyGivenNames x1
    refine touches_cut x1 ?_ (fun h1 => ?_)
    · unfold x1
      refine touches_after ?_ (State.setSensor_touches _ _ _) (by decide)
      exact touches_refl _ _
    clear_value x1
    refine touches_ite ?_ ?_
    · refine touches_after ?_ (assertGlobalTrip_touches _ _) (by decide)
      assumption
    · refine touches_after ?_ (holdCoreDomain_touches _ _ _) (by decide)
      assumption
  · extract_lets +onlyGivenNames x2
    refine touches_cut_snd x2 ?_ (fun h2 => ?_)
    · unfold x2
      refine touches_after ?_ (takeState_touches _) (by decide)
      exact touches_refl _ _
    clear_value x2
    extract_lets +onlyGivenNames x3
    refine touches_cut_snd x3 ?_ (fun h3 => ?_)
    · unfold x3
      refine touches_after ?_ (takeFree_touches _ _) (by decide)
      refine touches_after ?_ (freeReg_touches _ _) (by decide)
      refine touches_after ?_ (State.setSensor_touches _ _ _) (by decide)
      assumption
    clear_value x3
    refine touches_after ?_ (State.setFld_touches _ _ _ _ _) (by decide)
    assumption

theorem sensorEvent_touches : ∀ a0 a1,
    Touches [.freeCtr, .regs, .log, .canNode] a1 (sensorEvent a0 a1) := by
  intro a0 a1
  unfold sensorEvent
  refine touches_after ?_ (logOpen_touches _ _ _ _ _) (by decide)
  exact touches_refl _ _

theorem sensorRaise_touches : ∀ a0 a1,
    Touches [.regs] a1 (sensorRaise a0 a1) := by
  intro a0 a1
  unfold sensorRaise
  refine touches_after ?_ (raiseTs_touches _ _) (by decide)
  exact touches_refl _ _

theorem latchEvents_touches : ∀ a0 a1 a2 a3 a4,
    Touches [.freeCtr, .regs, .log, .canNode] a4 (latchEvents a0 a1 a2 a3 a4) := by
  intro a0 a1 a2 a3 a4
  unfold latchEvents
  refine touches_ite ?_ ?_
  · refine touches_after ?_ (sensorRaise_touches _ _) (by decide)
    refine touches_after ?_ (sensorEvent_touches _ _) (by decide)
    exact touches_refl _ _
  · refine touches_ite ?_ ?_
    · refine touches_after ?_ (sensorEvent_touches _ _) (by decide)
      exact touches_refl _ _
    · exact touches_refl _ _

theorem thermalCheck_touches : ∀ a0 a1,
    Touches (.freeCtr :: .cyc :: .pulses :: .regs :: .sys :: .log :: .spindles :: .timers :: .ptp :: .adcs :: .channels :: .comparators :: .demods :: .sectors :: .pairs :: .groups :: .tripPins :: .zonePins :: .plate :: .loops :: .place :: .cores :: .aic :: .dma :: .dmaLast :: .outbound :: .posted :: .consoles :: .conJobs :: .pipes :: .streams :: .liveLines :: .active :: .mover :: .heads :: .audio :: .keepers :: .sec :: .cvs :: .dict :: .canNode :: .cans :: .macs :: .iotlb :: .sbOld :: .trainTries :: .refreshFast :: .dramTemp :: .macQueues :: .mem :: .poison :: .checks :: []) a1 (thermalCheck a0 a1) := by
  intro a0 a1
  unfold thermalCheck
  refine touches_ite ?_ ?_
  · refine touches_after ?_ (logOpen_touches _ _ _ _ _) (by decide)
    refine touches_after ?_ (holdCoreDomain_touches _ _ _) (by decide)
    exact touches_refl _ _
  · exact touches_refl _ _

theorem sensorSampleEff_touches : ∀ a0 a1 a2,
    Touches (.freeCtr :: .cyc :: .pulses :: .regs :: .sys :: .log :: .spindles :: .timers :: .ptp :: .adcs :: .channels :: .comparators :: .demods :: .sectors :: .pairs :: .groups :: .tripPins :: .zonePins :: .plate :: .loops :: .place :: .cores :: .aic :: .dma :: .dmaLast :: .outbound :: .posted :: .consoles :: .conJobs :: .pipes :: .streams :: .liveLines :: .active :: .mover :: .heads :: .audio :: .keepers :: .sec :: .cvs :: .dict :: .canNode :: .cans :: .macs :: .iotlb :: .sbOld :: .trainTries :: .refreshFast :: .dramTemp :: .macQueues :: .mem :: .poison :: .checks :: []) a2 (sensorSampleEff a0 a1 a2) := by
  intro a0 a1 a2
  unfold sensorSampleEff
  extract_lets +onlyGivenNames x0
  clear_value x0
  refine touches_ite ?_ ?_
  · refine touches_after ?_ (releaseHolds_touches _) (by decide)
    refine touches_after ?_ (thermalCheck_touches _ _) (by decide)
    refine touches_after ?_ (State.setSensor_touches _ _ _) (by decide)
    exact touches_refl _ _
  · extract_lets +onlyGivenNames x1
    clear_value x1
    extract_lets +onlyGivenNames x2
    clear_value x2
    extract_lets +onlyGivenNames x3
    clear_value x3
    extract_lets +onlyGivenNames x4
    clear_value x4
    extract_lets +onlyGivenNames x5
    clear_value x5
    extract_lets +onlyGivenNames x6
    clear_value x6
    extract_lets +onlyGivenNames x7
    refine touches_cut x7 ?_ (fun h7 => ?_)
    · unfold x7
      refine touches_after ?_ (showSensor_touches _ _) (by decide)
      refine touches_after ?_ (State.setSensor_touches _ _ _) (by decide)
      refine touches_after ?_ (State.setReg_touches _ _ _) (by decide)
      exact touches_refl _ _
    clear_value x7
    extract_lets +onlyGivenNames x8
    refine touches_cut x8 ?_ (fun h8 => ?_)
    · unfold x8
      refine touches_after ?_ (latchEvents_touches _ _ _ _ _) (by decide)
      refine touches_after ?_ (latchEvents_touches _ _ _ _ _) (by decide)
      assumption
    clear_value x8
    extract_lets +onlyGivenNames x9
    refine touches_cut x9 ?_ (fun h9 => ?_)
    · unfold x9
      refine touches_ite ?_ ?_
      · refine touches_after ?_ (alarmAction_touches _ _) (by decide)
        assumption
      · assumption
    clear_value x9
    refine touches_after ?_ (releaseHolds_touches _) (by decide)
    refine touches_after ?_ (thermalCheck_touches _ _) (by decide)
    assumption

theorem execSensorSample_touches : ∀ a0 a1 a2,
    ∃ t, execSensorSample a0 a1 a2 = .next t ∧ Touches (.freeCtr :: .cyc :: .pulses :: .regs :: .sys :: .log :: .spindles :: .timers :: .ptp :: .adcs :: .channels :: .comparators :: .demods :: .sectors :: .pairs :: .groups :: .tripPins :: .zonePins :: .plate :: .loops :: .place :: .cores :: .aic :: .dma :: .dmaLast :: .outbound :: .posted :: .consoles :: .conJobs :: .pipes :: .streams :: .liveLines :: .active :: .mover :: .heads :: .audio :: .keepers :: .sec :: .cvs :: .dict :: .canNode :: .cans :: .macs :: .iotlb :: .sbOld :: .trainTries :: .refreshFast :: .dramTemp :: .macQueues :: .mem :: .poison :: .checks :: []) a2 t := by
  intro a0 a1 a2
  unfold execSensorSample
  refine ⟨_, rfl, ?_⟩
  refine touches_ite ?_ ?_
  · refine touches_after ?_ (sensorSampleEff_touches _ _ _) (by decide)
    exact touches_refl _ _
  · exact touches_refl _ _

theorem sensorInvalidEff_touches : ∀ a0 a1,
    Touches [.freeCtr, .regs, .sys, .log, .sec, .canNode] a1 (sensorInvalidEff a0 a1) := by
  intro a0 a1
  unfold sensorInvalidEff
  extract_lets +onlyGivenNames x0
  refine touches_cut x0 ?_ (fun h0 => ?_)
  · unfold x0
    refine touches_after ?_ (showSensor_touches _ _) (by decide)
    refine touches_after ?_ (State.setSensor_touches _ _ _) (by decide)
    refine touches_after ?_ (State.setBit_touches _ _ _ _) (by decide)
    exact touches_refl _ _
  clear_value x0
  refine touches_after ?_ (releaseHolds_touches _) (by decide)
  refine touches_after ?_ (logOpen_touches _ _ _ _ _) (by decide)
  assumption

theorem execSensorInvalid_touches : ∀ a0 a1,
    ∃ t, execSensorInvalid a0 a1 = .next t ∧ Touches [.freeCtr, .regs, .sys, .log, .sec, .canNode] a1 t := by
  intro a0 a1
  unfold execSensorInvalid
  refine ⟨_, rfl, ?_⟩
  refine touches_ite ?_ ?_
  · refine touches_after ?_ (sensorInvalidEff_touches _ _) (by decide)
    exact touches_refl _ _
  · exact touches_refl _ _

theorem tamperEff_touches : ∀ a0 a1,
    Touches (.cyc :: .pulses :: .devTimer :: .regs :: .shadow :: .sys :: .spindles :: .timers :: .ptp :: .adcs :: .channels :: .comparators :: .demods :: .sectors :: .pairs :: .groups :: .tripPins :: .zonePins :: .plate :: .loops :: .place :: .cores :: .aic :: .dma :: .dmaLast :: .outbound :: .posted :: .consoles :: .conJobs :: .pipes :: .streams :: .liveLines :: .active :: .mover :: .heads :: .audio :: .keepers :: .sec :: .cvs :: .hosts :: .dict :: .canNode :: .cans :: .macs :: .aborts :: .iotlb :: .sbOld :: .trainTries :: .refreshFast :: .dramTemp :: .macQueues :: .busyPins :: .tsClaimed :: .mem :: .poison :: .checks :: .unlock :: []) a1 (tamperEff a0 a1) := by
  intro a0 a1
  unfold tamperEff
  extract_lets +onlyGivenNames x0
  clear_value x0
  extract_lets +onlyGivenNames x1
  refine touches_cut x1 ?_ (fun h1 => ?_)
  · unfold x1
    refine touches_after ?_ (deviceReset_touches _) (by decide)
    exact touches_refl _ _
  clear_value x1
  extract_lets +onlyGivenNames x2
  extract_lets +onlyGivenNames x3
  refine touches_cut x3 ?_ (fun h3 => ?_)
  · unfold x3
    refine touches_after ?_ (touch_sec_unlock _ (by rfl)) (by decide)
    assumption
  clear_value x3
  refine touches_after ?_ (raiseTs_touches _ _) (by decide)
  refine touches_after ?_ (State.setBit_touches _ _ _ _) (by decide)
  refine touches_after ?_ (State.setReg_touches _ _ _) (by decide)
  assumption

theorem execTamper_touches : ∀ a0 a1,
    ∃ t, execTamper a0 a1 = .next t ∧ Touches (.cyc :: .pulses :: .devTimer :: .regs :: .shadow :: .sys :: .spindles :: .timers :: .ptp :: .adcs :: .channels :: .comparators :: .demods :: .sectors :: .pairs :: .groups :: .tripPins :: .zonePins :: .plate :: .loops :: .place :: .cores :: .aic :: .dma :: .dmaLast :: .outbound :: .posted :: .consoles :: .conJobs :: .pipes :: .streams :: .liveLines :: .active :: .mover :: .heads :: .audio :: .keepers :: .sec :: .cvs :: .hosts :: .dict :: .canNode :: .cans :: .macs :: .aborts :: .iotlb :: .sbOld :: .trainTries :: .refreshFast :: .dramTemp :: .macQueues :: .busyPins :: .tsClaimed :: .mem :: .poison :: .checks :: .unlock :: []) a1 t := by
  intro a0 a1
  unfold execTamper
  refine ⟨_, rfl, ?_⟩
  refine touches_ite ?_ ?_
  · refine touches_after ?_ (tamperEff_touches _ _) (by decide)
    exact touches_refl _ _
  · exact touches_refl _ _

theorem execMeshCheck_touches : ∀ a0 a1,
    ∃ t, execMeshCheck a0 a1 = .next t ∧ Touches (.cyc :: .pulses :: .devTimer :: .regs :: .shadow :: .sys :: .spindles :: .timers :: .ptp :: .adcs :: .channels :: .comparators :: .demods :: .sectors :: .pairs :: .groups :: .tripPins :: .zonePins :: .plate :: .loops :: .place :: .cores :: .aic :: .dma :: .dmaLast :: .outbound :: .posted :: .consoles :: .conJobs :: .pipes :: .streams :: .liveLines :: .active :: .mover :: .heads :: .audio :: .keepers :: .sec :: .cvs :: .hosts :: .dict :: .canNode :: .cans :: .macs :: .aborts :: .iotlb :: .sbOld :: .trainTries :: .refreshFast :: .dramTemp :: .macQueues :: .busyPins :: .tsClaimed :: .mem :: .poison :: .checks :: .unlock :: []) a1 t := by
  intro a0 a1
  unfold execMeshCheck
  refine ⟨_, rfl, ?_⟩
  refine touches_ite ?_ ?_
  · refine touches_ite ?_ ?_
    · exact touches_refl _ _
    · refine touches_after ?_ (tamperEff_touches _ _) (by decide)
      exact touches_refl _ _
  · exact touches_refl _ _

theorem execTrngHealthFail_touches : ∀ a0,
    ∃ t, execTrngHealthFail a0 = .next t ∧ Touches [.freeCtr, .regs, .log, .sec, .canNode] a0 t := by
  intro a0
  unfold execTrngHealthFail
  refine ⟨_, rfl, ?_⟩
  refine touches_ite ?_ ?_
  · refine touches_after ?_ (logOpen_touches _ _ _ _ _) (by decide)
    refine touches_after ?_ (touch_sec _ (by rfl) (by rfl)) (by decide)
    exact touches_refl _ _
  · exact touches_refl _ _

theorem execTrngRecover_touches : ∀ a0,
    ∃ t, execTrngRecover a0 = .next t ∧ Touches [.sec] a0 t := by
  intro a0
  unfold execTrngRecover
  refine ⟨_, rfl, ?_⟩
  refine touches_ite ?_ ?_
  · refine touches_after ?_ (touch_sec _ (by rfl) (by rfl)) (by decide)
    exact touches_refl _ _
  · exact touches_refl _ _

theorem trngBytes_touches : ∀ a0 a1,
    Touches [.freeCtr] a1 (trngBytes a0 a1).2 := by
  intro a0 a1
  unfold trngBytes
  dsimp only
  refine touches_after ?_ (takeFree_touches _ _) (by decide)
  exact touches_refl _ _

theorem execChallengeExpiry_touches : ∀ a0,
    ∃ t, execChallengeExpiry a0 = .next t ∧ Touches [.sec] a0 t := by
  intro a0
  unfold execChallengeExpiry
  refine ⟨_, rfl, ?_⟩
  refine touches_ite ?_ ?_
  · refine touches_after ?_ (touch_sec _ (by rfl) (by rfl)) (by decide)
    exact touches_refl _ _
  · exact touches_refl _ _

theorem telemetryEff_touches : ∀ a0,
    Touches (.freeCtr :: .regs :: .plate :: .cores :: .sec :: .dict :: .mem :: .poison :: []) a0 (telemetryEff a0) := by
  intro a0
  unfold telemetryEff
  extract_lets +onlyGivenNames x0
  clear_value x0
  extract_lets +onlyGivenNames x1
  refine touches_cut x1 ?_ (fun h1 => ?_)
  · unfold x1
    refine touches_forEach (fun _ _ _ => ?_) ?_
    · refine touches_after ?_ (touch_sec _ (by rfl) (by rfl)) (by decide)
      assumption
    · exact touches_refl _ _
  clear_value x1
  extract_lets +onlyGivenNames x2
  extract_lets +onlyGivenNames x3
  refine touches_cut x3 ?_ (fun h3 => ?_)
  · unfold x3
    refine touches_after ?_ (touch_sec _ (by rfl) (by rfl)) (by decide)
    assumption
  clear_value x3
  extract_lets +onlyGivenNames x4
  refine touches_cut_snd x4 ?_ (fun h4 => ?_)
  · unfold x4
    refine touches_after ?_ (takeFree_touches _ _) (by decide)
    assumption
  clear_value x4
  refine touches_after ?_ (memWrite_touches _ _ _ _) (by decide)
  assumption

theorem execTelemetryRefresh_touches : ∀ a0,
    ∃ t, execTelemetryRefresh a0 = .next t ∧ Touches (.freeCtr :: .regs :: .plate :: .cores :: .sec :: .dict :: .mem :: .poison :: []) a0 t := by
  intro a0
  unfold execTelemetryRefresh
  refine ⟨_, rfl, ?_⟩
  refine touches_ite ?_ ?_
  · refine touches_after ?_ (telemetryEff_touches _) (by decide)
    exact touches_refl _ _
  · exact touches_refl _ _

end Sys2Proof.Machine
end

