-- ==== Sys2Proof/Laws/TouchBus.lean ====
section
/-! SUPPORT. Which parts of the state the definitions of Machine/Bus.lean touch: one lemma for each, the proofs written by a
script from their shape. -/

namespace Sys2Proof.Machine

theorem canPop_touches : ∀ a0 a1,
    Touches [.cans] a1 (canPop a0 a1).2 := by
  intro a0 a1
  unfold canPop
  extract_lets +onlyGivenNames x0
  clear_value x0
  split
  · dsimp only
    refine touches_after ?_ (touch_cans _) (by decide)
    exact touches_refl _ _
  · dsimp only
    refine touches_after ?_ (touch_cans _) (by decide)
    exact touches_refl _ _
  · dsimp only
    exact touches_refl _ _

theorem acquireRead_touches : ∀ a0 a1 a2,
    Touches (.freeCtr :: .cyc :: .regs :: .sectors :: .plate :: .place :: .aic :: .streams :: .mover :: .audio :: .cans :: .tsClaimed :: .mem :: .poison :: []) a2 (acquireRead a0 a1 a2).2 := by
  intro a0 a1 a2
  unfold acquireRead
  extract_lets +onlyGivenNames x0
  clear_value x0
  split
  · split
    · refine plateOp_touches (by decide) (fun _ => ?_) ?_
      · refine touches_after ?_ (insertStaged_touches _ _) (by decide)
        exact touches_refl _ _
      · exact touches_refl _ _
    · refine plateOp_touches (by decide) (fun _ => ?_) ?_
      · refine touches_after ?_ (plateRemoveOp_touches _ _) (by decide)
        exact touches_refl _ _
      · exact touches_refl _ _
    · refine plateOp_touches (by decide) (fun _ => ?_) ?_
      · refine touches_after ?_ (plateAllocOp_touches _) (by decide)
        exact touches_refl _ _
      · exact touches_refl _ _
    · refine plateOp_touches (by decide) (fun _ => ?_) ?_
      · refine touches_after ?_ (writeStaged_touches _ _) (by decide)
        exact touches_refl _ _
      · exact touches_refl _ _
    · refine plateOp_touches (by decide) (fun _ => ?_) ?_
      · refine touches_after ?_ (plateReleaseOp_touches _ _) (by decide)
        exact touches_refl _ _
      · exact touches_refl _ _
    · refine plateOp_touches (by decide) (fun _ => ?_) ?_
      · refine touches_after ?_ (plateFetchOp_touches _ _ _) (by decide)
        exact touches_refl _ _
      · exact touches_refl _ _
    · refine plateOp_touches (by decide) (fun _ => ?_) ?_
      · refine touches_after ?_ (plateProbeRead_touches _ _) (by decide)
        exact touches_refl _ _
      · exact touches_refl _ _
  · refine touches_after ?_ (afePop_touches _ _) (by decide)
    exact touches_refl _ _
  · split
    · refine touches_after ?_ (plSubmitStaged_touches _ _) (by decide)
      exact touches_refl _ _
    · refine touches_after ?_ (plCommitOp_touches _ _) (by decide)
      exact touches_refl _ _
    · refine touches_after ?_ (plHandleOp_touches _ _ _) (by decide)
      exact touches_refl _ _
    · refine touches_after ?_ (plHandleOp_touches _ _ _) (by decide)
      exact touches_refl _ _
    · refine touches_after ?_ (plQueryOp_touches _ _ _) (by decide)
      exact touches_refl _ _
  · refine touches_after ?_ (claimOp_touches _ _ _) (by decide)
    exact touches_refl _ _
  · refine touches_after ?_ (streamPop_touches _ _) (by decide)
    exact touches_refl _ _
  · refine touches_after ?_ (mvSubmit_touches _ _) (by decide)
    exact touches_refl _ _
  · refine touches_ite_snd ?_ ?_
    · refine touches_after ?_ (routeApply_touches _ _ _) (by decide)
      exact touches_refl _ _
    · refine touches_after ?_ (capturePop_touches _ _) (by decide)
      exact touches_refl _ _
  · refine touches_after ?_ (chkAcquireOp_touches _ _ _) (by decide)
    exact touches_refl _ _
  · refine touches_after ?_ (tsClaimOp_touches _) (by decide)
    exact touches_refl _ _
  · refine touches_after ?_ (canPop_touches _ _) (by decide)
    exact touches_refl _ _

theorem clearRead_touches : ∀ a0 a1,
    Touches [.cyc, .regs, .audio] a1 (clearRead a0 a1).2 := by
  intro a0 a1
  unfold clearRead
  extract_lets +onlyGivenNames x0
  clear_value x0
  refine touches_ite_snd ?_ ?_
  · refine touches_after ?_ (peakRead_touches _ _ _) (by decide)
    exact touches_refl _ _
  · refine touches_ite_snd ?_ ?_
    · refine touches_after ?_ (peakRead_touches _ _ _) (by decide)
      exact touches_refl _ _
    · refine touches_after ?_ (rcRead_touches _ _) (by decide)
      exact touches_refl _ _

theorem readDrain_touches : ∀ a0 a1,
    Touches [.freeCtr, .cyc, .regs, .cvs] a1 (readDrain a0 a1) := by
  intro a0 a1
  unfold readDrain
  refine touches_ite ?_ ?_
  · refine touches_after ?_ (cvDrain_touches _ _) (by decide)
    exact touches_refl _ _
  · exact touches_refl _ _

theorem plainRead_touches : ∀ a0 a1 a2,
    Touches [.freeCtr, .regs] a2 (plainRead a0 a1 a2).2 := by
  intro a0 a1 a2
  unfold plainRead
  refine touches_ite_snd ?_ ?_
  · dsimp only
    refine touches_after ?_ (takeFree_touches _ _) (by decide)
    exact touches_refl _ _
  · refine touches_ite_snd ?_ ?_
    · dsimp only
      refine touches_after ?_ (State.setFld_touches _ _ _ _ _) (by decide)
      exact touches_refl _ _
    · split
      · dsimp only
        exact touches_refl _ _
      · dsimp only
        exact touches_refl _ _

theorem busRead_touches : ∀ a0 a1 a2,
    Touches (.freeCtr :: .cyc :: .regs :: .shadow :: .sectors :: .plate :: .place :: .aic :: .streams :: .mover :: .audio :: .cvs :: .cans :: .tsClaimed :: .mem :: .poison :: []) a2 (busRead a0 a1 a2).2 := by
  intro a0 a1 a2
  unfold busRead
  split
  · dsimp only
    exact touches_refl _ _
  · split
    · dsimp only
      exact touches_refl _ _
    · refine touches_ite_snd ?_ ?_
      · dsimp only
        exact touches_refl _ _
      · extract_lets +onlyGivenNames x0
        refine touches_cut x0 ?_ (fun h0 => ?_)
        · unfold x0
          refine touches_after ?_ (readDrain_touches _ _) (by decide)
          exact touches_refl _ _
        clear_value x0
        split
        · split
          · dsimp only
            refine touches_after ?_ (touch_shadow _) (by decide)
            assumption
          · dsimp only
            exact touches_refl _ _
          · refine touches_after ?_ (plainRead_touches _ _ _) (by decide)
            assumption
        · split
          · dsimp only
            refine touches_after ?_ (touch_shadow _) (by decide)
            assumption
          · dsimp only
            exact touches_refl _ _
          · refine touches_after ?_ (plainRead_touches _ _ _) (by decide)
            assumption
        · dsimp only
          exact touches_refl _ _
        · refine touches_after ?_ (clearRead_touches _ _) (by decide)
          assumption
        · refine touches_after ?_ (acquireRead_touches _ _ _) (by decide)
          assumption
        · dsimp only
          assumption
        · extract_lets +onlyGivenNames x1
          clear_value x1
          dsimp only
          refine touches_after ?_ (touch_shadow _) (by decide)
          assumption
        · dsimp only
          exact touches_refl _ _

theorem spnWrite_touches : ∀ a0 a1 a2 a3,
    TouchesO (.freeCtr :: .cyc :: .pulses :: .regs :: .spindles :: .pairs :: .groups :: .plate :: []) a3 (spnWrite a0 a1 a2 a3) := by
  intro a0 a1 a2 a3
  unfold spnWrite
  split
  · refine touchesO_some ?_
    refine touches_after ?_ (spnCtrlWrite_touches _ _ _) (by decide)
    exact touches_refl _ _
  · refine touchesO_some ?_
    refine touches_after ?_ (sourceWrite_touches _ _ _ _) (by decide)
    exact touches_refl _ _
  · refine touchesO_some ?_
    refine touches_after ?_ (sourceWrite_touches _ _ _ _) (by decide)
    exact touches_refl _ _
  · refine touchesO_some ?_
    refine touches_after ?_ (offsetWrite_touches _ _ _) (by decide)
    exact touches_refl _ _
  · refine touchesO_some ?_
    refine touches_after ?_ (setPhaseWrite_touches _ _ _) (by decide)
    exact touches_refl _ _
  · refine touchesO_some ?_
    refine touches_ite ?_ ?_
    · exact touches_refl _ _
    · refine touches_after ?_ (State.setReg_touches _ _ _) (by decide)
      exact touches_refl _ _
  · refine touchesO_some ?_
    refine touches_after ?_ (cmpCtlWriteSpn_touches _ _ _ _) (by decide)
    exact touches_refl _ _
  · refine touchesO_some ?_
    refine touches_after ?_ (cmpCtlWriteSpn_touches _ _ _ _) (by decide)
    exact touches_refl _ _
  · refine touchesO_some ?_
    refine touches_after ?_ (cmpCtlWriteSpn_touches _ _ _ _) (by decide)
    exact touches_refl _ _
  · refine touchesO_some ?_
    refine touches_after ?_ (cmpCtlWriteSpn_touches _ _ _ _) (by decide)
    exact touches_refl _ _
  · refine touchesO_some ?_
    refine touches_after ?_ (capCtlWrite_touches _ _ _) (by decide)
    exact touches_refl _ _
  · refine touchesO_some ?_
    refine touches_ite ?_ ?_
    · refine touches_after ?_ (periodWrite_touches _ _ _) (by decide)
      exact touches_refl _ _
    · exact touches_refl _ _
  · refine touchesO_some ?_
    refine touches_ite ?_ ?_
    · refine touches_after ?_ (epochWrite_touches _ _ _) (by decide)
      exact touches_refl _ _
    · exact touches_refl _ _
  · refine touchesO_some ?_
    refine touches_ite ?_ ?_
    · refine touches_after ?_ (State.setSpn_touches _ _ _) (by decide)
      exact touches_refl _ _
    · refine touches_ite ?_ ?_
      · refine touches_after ?_ (State.setReg_touches _ _ _) (by decide)
        exact touches_refl _ _
      · exact touches_refl _ _
  · exact touchesO_none

theorem plateWrite_touches : ∀ a0 a1 a2,
    TouchesO [.cyc, .regs, .plate] a2 (plateWrite a0 a1 a2) := by
  intro a0 a1 a2
  unfold plateWrite
  refine touchesO_ite ?_ ?_
  · refine touchesO_some ?_
    refine touches_after ?_ (plateCtrlWrite_touches _ _) (by decide)
    exact touches_refl _ _
  · refine touchesO_ite ?_ ?_
    · refine touchesO_ite ?_ ?_
      · refine touchesO_some ?_
        exact touches_refl _ _
      · exact touchesO_none
    · refine touchesO_ite ?_ ?_
      · refine touchesO_some ?_
        refine touches_after ?_ (partCtlWrite_touches _ _ _) (by decide)
        exact touches_refl _ _
      · exact touchesO_none

theorem afeWrite_touches : ∀ a0 a1 a2 a3 a4,
    TouchesO (.cyc :: .pulses :: .regs :: .adcs :: .comparators :: .demods :: .sectors :: .pairs :: []) a4 (afeWrite a0 a1 a2 a3 a4) := by
  intro a0 a1 a2 a3 a4
  unfold afeWrite
  refine touchesO_ite ?_ ?_
  · extract_lets +onlyGivenNames x0
    clear_value x0
    extract_lets +onlyGivenNames x1
    clear_value x1
    refine touchesO_ite ?_ ?_
    · refine touchesO_some ?_
      refine touches_after ?_ (routeWrite_touches _ _ _ _) (by decide)
      exact touches_refl _ _
    · refine touchesO_ite ?_ ?_
      · refine touchesO_some ?_
        refine touches_after ?_ (adcTrigger_touches _ _ _) (by decide)
        exact touches_refl _ _
      · refine touchesO_ite ?_ ?_
        · refine touchesO_some ?_
          refine touches_after ?_ (routeWrite_touches _ _ _ _) (by decide)
          exact touches_refl _ _
        · exact touchesO_none
  · refine touchesO_ite ?_ ?_
    · refine touchesO_ite ?_ ?_
      · refine touchesO_some ?_
        refine touches_after ?_ (chCtlWrite_touches _ _ _ _) (by decide)
        exact touches_refl _ _
      · exact touchesO_none
    · refine touchesO_ite ?_ ?_
      · refine touchesO_ite ?_ ?_
        · refine touchesO_some ?_
          refine touches_after ?_ (cmpCtlWrite_touches _ _ _) (by decide)
          exact touches_refl _ _
        · refine touchesO_ite ?_ ?_
          · refine touchesO_some ?_
            refine touches_after ?_ (cmpRampWrite_touches _ _ _) (by decide)
            exact touches_refl _ _
          · exact touchesO_none
      · refine touchesO_ite ?_ ?_
        · extract_lets +onlyGivenNames x2
          clear_value x2
          refine touchesO_ite ?_ ?_
          · refine touchesO_some ?_
            refine touches_after ?_ (sdCtlWrite_touches _ _ _) (by decide)
            exact touches_refl _ _
          · refine touchesO_ite ?_ ?_
            · refine touchesO_some ?_
              refine touches_ite ?_ ?_
              · refine touches_after ?_ (State.setDemod_touches _ _ _) (by decide)
                exact touches_refl _ _
              · exact touches_refl _ _
            · exact touchesO_none
        · refine touchesO_ite ?_ ?_
          · refine touchesO_some ?_
            refine touches_after ?_ (calCtlWrite_touches _ _ _) (by decide)
            exact touches_refl _ _
          · exact touchesO_none

theorem loopWrite_touches : ∀ a0 a1 a2 a3 a4,
    TouchesO [.regs, .pairs, .loops] a4 (loopWrite a0 a1 a2 a3 a4) := by
  intro a0 a1 a2 a3 a4
  unfold loopWrite
  extract_lets +onlyGivenNames x0
  clear_value x0
  refine touchesO_ite ?_ ?_
  · refine touchesO_some ?_
    refine touches_after ?_ (loopCtlWrite_touches _ _ _) (by decide)
    exact touches_refl _ _
  · refine touchesO_ite ?_ ?_
    · refine touchesO_some ?_
      refine touches_after ?_ (loopConfigWrite_touches _ _ _ _) (by decide)
      exact touches_refl _ _
    · refine touchesO_ite ?_ ?_
      · refine touchesO_some ?_
        refine touches_after ?_ (bankRequest_touches _ _ _) (by decide)
        exact touches_refl _ _
      · refine touchesO_ite ?_ ?_
        · refine touchesO_some ?_
          refine touches_after ?_ (loopConfigWrite_touches _ _ _ _) (by decide)
          exact touches_refl _ _
        · refine touchesO_ite ?_ ?_
          · extract_lets +onlyGivenNames x1
            refine touches_cut_ofO x1 (fun p => p) ?_ (fun h1 => ?_)
            · unfold x1
              refine touches_after ?_ (outMapWrite_touches _ _ _ _) (by decide)
              exact touches_refl _ _
            clear_value x1
            refine touchesO_some ?_
            refine touches_ite ?_ ?_
            · refine touches_after ?_ (State.setCtx_touches _ _ _) (by decide)
              assumption
            · assumption
          · refine touchesO_ite ?_ ?_
            · refine touchesO_some ?_
              refine touches_after ?_ (obsCtlWrite_touches _ _ _) (by decide)
              exact touches_refl _ _
            · refine touchesO_ite ?_ ?_
              · refine touchesO_some ?_
                refine touches_after ?_ (loopConfigWrite_touches _ _ _ _) (by decide)
                exact touches_refl _ _
              · refine touchesO_ite ?_ ?_
                · refine touchesO_some ?_
                  refine touches_after ?_ (loopStateWrite_touches _ _ _ _) (by decide)
                  exact touches_refl _ _
                · refine touchesO_ite ?_ ?_
                  · extract_lets +onlyGivenNames x2
                    clear_value x2
                    extract_lets +onlyGivenNames x3
                    refine touches_cut_ofO x3 (fun p => p) ?_ (fun h3 => ?_)
                    · unfold x3
                      refine touches_after ?_ (loopBankWordWrite_touches _ _ _ _ _) (by decide)
                      exact touches_refl _ _
                    clear_value x3
                    refine touchesO_some ?_
                    split
                    · refine touches_after ?_ (loopBankWordWrite_touches _ _ _ _ _) (by decide)
                      assumption
                    · assumption
                  · exact touchesO_none

theorem groupWrite_touches : ∀ a0 a1 a2 a3,
    TouchesO [.cyc, .pulses, .regs, .comparators, .pairs, .groups] a3 (groupWrite a0 a1 a2 a3) := by
  intro a0 a1 a2 a3
  unfold groupWrite
  refine touchesO_ite ?_ ?_
  · refine touchesO_some ?_
    refine touches_after ?_ (grpCtlWrite_touches _ _ _) (by decide)
    exact touches_refl _ _
  · refine touchesO_ite ?_ ?_
    · extract_lets +onlyGivenNames x0
      refine touches_cut_ofO x0 (fun p => p) ?_ (fun h0 => ?_)
      · unfold x0
        refine touches_after ?_ (State.setReg_touches _ _ _) (by decide)
        exact touches_refl _ _
      clear_value x0
      refine touchesO_some ?_
      refine touches_ite ?_ ?_
      · refine touches_after ?_ (tripGroup_touches _ _) (by decide)
        assumption
      · assumption
    · refine touchesO_ite ?_ ?_
      · refine touchesO_ite ?_ ?_
        · refine touchesO_some ?_
          exact touches_refl _ _
        · exact touchesO_none
      · refine touchesO_ite ?_ ?_
        · extract_lets +onlyGivenNames x1
          clear_value x1
          extract_lets +onlyGivenNames x2
          refine touches_cut_ofO x2 (fun p => p) ?_ (fun h2 => ?_)
          · unfold x2
            refine touches_ite ?_ ?_
            · refine touches_ite ?_ ?_
              · refine touches_after ?_ (State.setGroup_touches _ _ _) (by decide)
                exact touches_refl _ _
              · refine touches_after ?_ (armEff_touches _ _) (by decide)
                exact touches_refl _ _
            · exact touches_refl _ _
          clear_value x2
          refine touchesO_some ?_
          refine touches_ite ?_ ?_
          · refine touches_after ?_ (State.setGroup_touches _ _ _) (by decide)
            assumption
          · assumption
        · refine touchesO_ite ?_ ?_
          · refine touchesO_some ?_
            refine touches_ite ?_ ?_
            · refine touches_after ?_ (armRequest_touches _ _) (by decide)
              exact touches_refl _ _
            · exact touches_refl _ _
          · refine touchesO_ite ?_ ?_
            · extract_lets +onlyGivenNames x3
              clear_value x3
              split
              · refine touchesO_some ?_
                refine touches_after ?_ (cmpWrite_touches _ _ _ _) (by decide)
                exact touches_refl _ _
              · refine touchesO_some ?_
                refine touches_after ?_ (cmpWrite_touches _ _ _ _) (by decide)
                exact touches_refl _ _
              · refine touchesO_some ?_
                refine touches_after ?_ (shiftWrite_touches _ _ _) (by decide)
                exact touches_refl _ _
              · exact touchesO_none
            · exact touchesO_none

theorem tripWrite_touches : ∀ a0 a1 a2,
    TouchesO [.freeCtr, .cyc, .regs, .log, .pairs, .canNode] a2 (tripWrite a0 a1 a2) := by
  intro a0 a1 a2
  unfold tripWrite
  refine touchesO_ite ?_ ?_
  · extract_lets +onlyGivenNames x0
    refine touches_cut_ofO x0 (fun p => p) ?_ (fun h0 => ?_)
    · unfold x0
      refine touches_ite ?_ ?_
      · refine touches_after ?_ (gtripClearEff_touches _) (by decide)
        exact touches_refl _ _
      · exact touches_refl _ _
    clear_value x0
    refine touchesO_some ?_
    refine touches_ite ?_ ?_
    · refine touches_after ?_ (gtripAssertEff_touches _) (by decide)
      assumption
    · assumption
  · extract_lets +onlyGivenNames x1
    clear_value x1
    split
    · refine touchesO_some ?_
      refine touches_after ?_ (zoneRefresh_touches _ _ _) (by decide)
      refine touches_after ?_ (State.setReg_touches _ _ _) (by decide)
      exact touches_refl _ _
    · refine touchesO_some ?_
      refine touches_after ?_ (tzStatusWrite_touches _ _ _) (by decide)
      exact touches_refl _ _
    · refine touchesO_some ?_
      refine touches_ite ?_ ?_
      · refine touches_after ?_ (zoneForce_touches _ _) (by decide)
        exact touches_refl _ _
      · exact touches_refl _ _

theorem aicWrite_touches : ∀ a0 a1 a2 a3,
    TouchesO [.freeCtr, .cyc, .regs, .aic] a3 (aicWrite a0 a1 a2 a3) := by
  intro a0 a1 a2 a3
  unfold aicWrite
  refine touchesO_ite ?_ ?_
  · refine touchesO_some ?_
    refine touches_after ?_ (srcWrite_touches _ _ _) (by decide)
    exact touches_refl _ _
  · refine touchesO_ite ?_ ?_
    · extract_lets +onlyGivenNames x0
      clear_value x0
      refine touchesO_ite ?_ ?_
      · refine touchesO_some ?_
        refine touches_after ?_ (srcWrite_touches _ _ _) (by decide)
        exact touches_refl _ _
      · refine touchesO_ite ?_ ?_
        · refine touchesO_some ?_
          split
          · refine touches_ite ?_ ?_
            · refine touches_after ?_ (eoiEff_touches _ _ _) (by decide)
              exact touches_refl _ _
            · exact touches_refl _ _
          · exact touches_refl _ _
        · exact touchesO_none
    · refine touchesO_ite ?_ ?_
      · refine touchesO_some ?_
        refine touches_after ?_ (doorbellEff_touches _ _) (by decide)
        exact touches_refl _ _
      · refine touchesO_ite ?_ ?_
        · refine touchesO_some ?_
          refine touches_after ?_ (ringPrivate_touches _ _ _) (by decide)
          exact touches_refl _ _
        · exact touchesO_none

theorem dmaWrite_touches : ∀ a0 a1 a2,
    TouchesO [.regs, .dma, .iotlb] a2 (dmaWrite a0 a1 a2) := by
  intro a0 a1 a2
  unfold dmaWrite
  refine touchesO_ite ?_ ?_
  · extract_lets +onlyGivenNames x0
    clear_value x0
    split
    · refine touchesO_some ?_
      refine touches_after ?_ (dmaCtlWrite_touches _ _ _) (by decide)
      exact touches_refl _ _
    · refine touchesO_some ?_
      refine touches_ite ?_ ?_
      · refine touches_after ?_ (dmaKick_touches _ _) (by decide)
        exact touches_refl _ _
      · exact touches_refl _ _
    · refine touchesO_ite ?_ ?_
      · refine touchesO_some ?_
        exact touches_refl _ _
      · exact touchesO_none
    · refine touchesO_ite ?_ ?_
      · refine touchesO_some ?_
        exact touches_refl _ _
      · exact touchesO_none
    · exact touchesO_none
  · refine touchesO_ite ?_ ?_
    · refine touchesO_some ?_
      refine touches_after ?_ (dmaEngWrite_touches _ _) (by decide)
      exact touches_refl _ _
    · refine touchesO_ite ?_ ?_
      · refine touchesO_some ?_
        refine touches_after ?_ (iommuInvWrite_touches _ _) (by decide)
        exact touches_refl _ _
      · exact touchesO_none

theorem consoleWrite_touches : ∀ a0 a1 a2 a3,
    TouchesO (.cyc :: .regs :: .spindles :: .pairs :: .groups :: .plate :: .consoles :: .streams :: []) a3 (consoleWrite a0 a1 a2 a3) := by
  intro a0 a1 a2 a3
  unfold consoleWrite
  refine touchesO_ite ?_ ?_
  · extract_lets +onlyGivenNames x0
    clear_value x0
    split
    · refine touchesO_some ?_
      refine touches_after ?_ (conCtlWrite_touches _ _ _) (by decide)
      exact touches_refl _ _
    · refine touchesO_some ?_
      refine touches_after ?_ (conTimingWrite_touches _ _ _ _) (by decide)
      exact touches_refl _ _
    · refine touchesO_some ?_
      refine touches_after ?_ (conTimingWrite_touches _ _ _ _) (by decide)
      exact touches_refl _ _
    · refine touchesO_some ?_
      refine touches_ite ?_ ?_
      · refine touches_after ?_ (renderRequest_touches _ _) (by decide)
        exact touches_refl _ _
      · exact touches_refl _ _
    · refine touchesO_some ?_
      refine touches_after ?_ (conPlainWrite_touches _ _ _ _) (by decide)
      exact touches_refl _ _
    · refine touchesO_some ?_
      refine touches_after ?_ (conPlainWrite_touches _ _ _ _) (by decide)
      exact touches_refl _ _
    · refine touchesO_some ?_
      refine touches_after ?_ (conPlainWrite_touches _ _ _ _) (by decide)
      exact touches_refl _ _
    · refine touchesO_some ?_
      refine touches_after ?_ (conPlainWrite_touches _ _ _ _) (by decide)
      exact touches_refl _ _
    · refine touchesO_some ?_
      refine touches_after ?_ (conPlainWrite_touches _ _ _ _) (by decide)
      exact touches_refl _ _
    · refine touchesO_some ?_
      refine touches_after ?_ (conPlainWrite_touches _ _ _ _) (by decide)
      exact touches_refl _ _
    · refine touchesO_ite ?_ ?_
      · refine touchesO_some ?_
        refine touches_after ?_ (conPlainWrite_touches _ _ _ _) (by decide)
        exact touches_refl _ _
      · exact touchesO_none
  · refine touchesO_ite ?_ ?_
    · refine touchesO_some ?_
      refine touches_after ?_ (streamCtlWrite_touches _ _ _) (by decide)
      exact touches_refl _ _
    · exact touchesO_none

theorem composerWrite_touches : ∀ a0 a1 a2,
    TouchesO (.freeCtr :: .cyc :: .regs :: .spindles :: .pairs :: .groups :: .active :: .heads :: []) a2 (composerWrite a0 a1 a2) := by
  intro a0 a1 a2
  unfold composerWrite
  refine touchesO_ite ?_ ?_
  · extract_lets +onlyGivenNames x0
    clear_value x0
    split
    · refine touchesO_some ?_
      refine touches_after ?_ (hdCtlWrite_touches _ _ _) (by decide)
      exact touches_refl _ _
    · refine touchesO_some ?_
      refine touches_after ?_ (commitWrite_touches _ _ _) (by decide)
      exact touches_refl _ _
    · refine touchesO_some ?_
      refine touches_after ?_ (dpCtlWrite_touches _ _ _) (by decide)
      exact touches_refl _ _
    · refine touchesO_some ?_
      refine touches_after ?_ (auxStart_touches _ _ _) (by decide)
      exact touches_refl _ _
    · exact touchesO_none
  · exact touchesO_none

theorem audioWrite_touches : ∀ a0 a1 a2,
    TouchesO [.regs, .audio] a2 (audioWrite a0 a1 a2) := by
  intro a0 a1 a2
  unfold audioWrite
  refine touchesO_ite ?_ ?_
  · refine touchesO_some ?_
    refine touches_after ?_ (vcCtlWrite_touches _ _ _) (by decide)
    exact touches_refl _ _
  · refine touchesO_ite ?_ ?_
    · refine touchesO_some ?_
      refine touches_after ?_ (outCtlWrite_touches _ _ _) (by decide)
      exact touches_refl _ _
    · exact touchesO_none

theorem hostWrite_touches : ∀ a0 a1 a2 a3,
    TouchesO (.cyc :: .pulses :: .regs :: .spindles :: .comparators :: .pairs :: .groups :: .plate :: .loops :: .place :: .dma :: .outbound :: .consoles :: .conJobs :: .pipes :: .streams :: .mover :: .audio :: .hosts :: .dict :: .aborts :: []) a3 (hostWrite a0 a1 a2 a3) := by
  intro a0 a1 a2 a3
  unfold hostWrite
  refine touchesO_ite ?_ ?_
  · extract_lets +onlyGivenNames x0
    clear_value x0
    split
    · refine touchesO_some ?_
      refine touches_after ?_ (alertEnWrite_touches _ _ _) (by decide)
      exact touches_refl _ _
    · refine touchesO_some ?_
      refine touches_after ?_ (hostDoorbell_touches _ _ _) (by decide)
      exact touches_refl _ _
    · refine touchesO_some ?_
      refine touches_after ?_ (abortWord_touches _ _ _) (by decide)
      exact touches_refl _ _
    · refine touchesO_some ?_
      refine touches_after ?_ (abortStatusWrite_touches _ _ _) (by decide)
      exact touches_refl _ _
    · refine touchesO_some ?_
      refine touches_after ?_ (hpDictCmd_touches _ _ _) (by decide)
      exact touches_refl _ _
    · refine touchesO_some ?_
      refine touches_after ?_ (hpTsMsg_touches _ _ _) (by decide)
      exact touches_refl _ _
    · refine touchesO_some ?_
      refine touches_after ?_ (tsReply_touches _ _ _) (by decide)
      exact touches_refl _ _
    · exact touchesO_none
  · refine touchesO_ite ?_ ?_
    · refine touchesO_some ?_
      split
      · refine touches_after ?_ (chkReleaseOp_touches _ _ _ _) (by decide)
        exact touches_refl _ _
      · exact touches_refl _ _
    · exact touchesO_none

theorem checkWrite_touches : ∀ a0 a1 a2 a3,
    TouchesO [.freeCtr, .cyc, .regs, .cvs] a3 (checkWrite a0 a1 a2 a3) := by
  intro a0 a1 a2 a3
  unfold checkWrite
  refine touchesO_ite ?_ ?_
  · extract_lets +onlyGivenNames x0
    clear_value x0
    split
    · refine touchesO_some ?_
      refine touches_after ?_ (cvConfigWrite_touches _ _ _ _ _) (by decide)
      exact touches_refl _ _
    · refine touchesO_some ?_
      refine touches_after ?_ (cvConfigWrite_touches _ _ _ _ _) (by decide)
      exact touches_refl _ _
    · refine touchesO_some ?_
      refine touches_after ?_ (cvConfigWrite_touches _ _ _ _ _) (by decide)
      exact touches_refl _ _
    · refine touchesO_some ?_
      refine touches_after ?_ (cvConfigWrite_touches _ _ _ _ _) (by decide)
      exact touches_refl _ _
    · refine touchesO_some ?_
      refine touches_after ?_ (cvConfigWrite_touches _ _ _ _ _) (by decide)
      exact touches_refl _ _
    · refine touchesO_some ?_
      refine touches_after ?_ (cvStateLo_touches _ _ _) (by decide)
      exact touches_refl _ _
    · refine touchesO_some ?_
      refine touches_after ?_ (State.setCv_touches _ _ _) (by decide)
      exact touches_refl _ _
    · refine touchesO_some ?_
      refine touches_after ?_ (cvQueueWrite_touches _ _ _ _) (by decide)
      exact touches_refl _ _
    · refine touchesO_some ?_
      refine touches_after ?_ (cvQueueWrite_touches _ _ _ _) (by decide)
      exact touches_refl _ _
    · refine touchesO_some ?_
      refine touches_after ?_ (cvQueueWrite_touches _ _ _ _) (by decide)
      exact touches_refl _ _
    · refine touchesO_some ?_
      refine touches_after ?_ (cvQueueWrite_touches _ _ _ _) (by decide)
      exact touches_refl _ _
    · refine touchesO_some ?_
      refine touches_after ?_ (cvQueueWrite_touches _ _ _ _) (by decide)
      exact touches_refl _ _
    · refine touchesO_some ?_
      refine touches_after ?_ (cvQueueWrite_touches _ _ _ _) (by decide)
      exact touches_refl _ _
    · refine touchesO_some ?_
      refine touches_after ?_ (State.setCv_touches _ _ _) (by decide)
      exact touches_refl _ _
    · exact touchesO_none
  · refine touchesO_ite ?_ ?_
    · refine touchesO_ite ?_ ?_
      · refine touchesO_some ?_
        refine touches_after ?_ (mcrInfoWrite_touches _ _ _) (by decide)
        exact touches_refl _ _
      · exact touchesO_none
    · exact touchesO_none

theorem pinWrite_touches : ∀ a0 a1 a2,
    TouchesO (.freeCtr :: .cyc :: .regs :: .spindles :: .encoders :: .encSince :: .pairs :: .tripPins :: .zonePins :: .keepers :: []) a2 (pinWrite a0 a1 a2) := by
  intro a0 a1 a2
  unfold pinWrite
  refine touchesO_ite ?_ ?_
  · refine touchesO_some ?_
    refine touches_after ?_ (pinCfgWrite_touches _ _ _ _) (by decide)
    refine touches_after ?_ (takeFree_touches _ _) (by decide)
    exact touches_refl _ _
  · refine touchesO_ite ?_ ?_
    · extract_lets +onlyGivenNames x0
      clear_value x0
      split
      · refine touchesO_some ?_
        refine touches_after ?_ (State.setReg_touches _ _ _) (by decide)
        exact touches_refl _ _
      · refine touchesO_some ?_
        refine touches_after ?_ (State.setReg_touches _ _ _) (by decide)
        exact touches_refl _ _
      · refine touchesO_some ?_
        refine touches_after ?_ (gpioStatWrite_touches _ _ _) (by decide)
        exact touches_refl _ _
      · exact touchesO_none
    · exact touchesO_none

theorem tailstockWrite_touches : ∀ a0 a1 a2 a3,
    TouchesO [.freeCtr, .cyc, .regs, .sec, .dict, .tsClaimed] a3 (tailstockWrite a0 a1 a2 a3) := by
  intro a0 a1 a2 a3
  unfold tailstockWrite
  refine touchesO_ite ?_ ?_
  · extract_lets +onlyGivenNames x0
    clear_value x0
    split
    · refine touchesO_some ?_
      refine touches_after ?_ (tsmDictCmd_touches _ _ _) (by decide)
      exact touches_refl _ _
    · refine touchesO_some ?_
      refine touches_after ?_ (tsmMsg_touches _ _ _) (by decide)
      exact touches_refl _ _
    · refine touchesO_some ?_
      refine touches_ite ?_ ?_
      · refine touches_after ?_ (tsmReply_touches _ _ _) (by decide)
        exact touches_refl _ _
      · exact touches_refl _ _
    · exact touchesO_none
  · split
    · refine touchesO_some ?_
      refine touches_after ?_ (tsEoiEff_touches _ _) (by decide)
      exact touches_refl _ _
    · refine touchesO_some ?_
      refine touches_ite ?_ ?_
      · refine touches_after ?_ (raiseTs_touches _ _) (by decide)
        exact touches_refl _ _
      · exact touches_refl _ _
    · refine touchesO_some ?_
      refine touches_after ?_ (otpProg_touches _ _) (by decide)
      exact touches_refl _ _
    · exact touchesO_none

theorem fieldWrite_touches : ∀ a0 a1 a2 a3,
    TouchesO [.cyc, .regs, .spindles, .ptp, .pairs, .groups, .plate] a3 (fieldWrite a0 a1 a2 a3) := by
  intro a0 a1 a2 a3
  unfold fieldWrite
  refine touchesO_ite ?_ ?_
  · refine touchesO_ite ?_ ?_
    · exact touchesO_none
    · refine touchesO_some ?_
      exact touches_refl _ _
  · refine touchesO_ite ?_ ?_
    · extract_lets +onlyGivenNames x0
      clear_value x0
      split
      · extract_lets +onlyGivenNames x1
        refine touches_cut_ofO x1 (fun p => p) ?_ (fun h1 => ?_)
        · unfold x1
          refine touches_after ?_ (State.setReg_touches _ _ _) (by decide)
          exact touches_refl _ _
        clear_value x1
        refine touchesO_some ?_
        refine touches_ite ?_ ?_
        · refine touches_after ?_ (macDisabledEff_touches _ _) (by decide)
          assumption
        · assumption
      · refine touchesO_some ?_
        refine touches_after ?_ (State.setReg_touches _ _ _) (by decide)
        exact touches_refl _ _
      · refine touchesO_some ?_
        refine touches_after ?_ (ptpStepEff_touches _ _ _) (by decide)
        exact touches_refl _ _
      · exact touchesO_none
    · exact touchesO_none

theorem actWrite_touches : ∀ a0 a1 a2 a3 a4,
    TouchesO (.freeCtr :: .cyc :: .pulses :: .regs :: .sys :: .log :: .spindles :: .encoders :: .encSince :: .timers :: .ptp :: .adcs :: .comparators :: .demods :: .sectors :: .pairs :: .groups :: .tripPins :: .zonePins :: .plate :: .loops :: .place :: .cores :: .aic :: .dma :: .outbound :: .consoles :: .conJobs :: .pipes :: .streams :: .active :: .mover :: .heads :: .audio :: .keepers :: .sec :: .cvs :: .hosts :: .dict :: .canNode :: .aborts :: .iotlb :: .sbOld :: .tsClaimed :: []) a4 (actWrite a0 a1 a2 a3 a4) := by
  intro a0 a1 a2 a3 a4
  unfold actWrite
  extract_lets +onlyGivenNames x0
  clear_value x0
  split
  · refine touchesO_ite ?_ ?_
    · refine touchesO_some ?_
      refine touches_after ?_ (coreRelWrite_touches _ _) (by decide)
      exact touches_refl _ _
    · refine touchesO_ite ?_ ?_
      · refine touchesO_some ?_
        refine touches_after ?_ (snapWrite_touches _ _) (by decide)
        exact touches_refl _ _
      · refine touchesO_ite ?_ ?_
        · refine touchesO_some ?_
          refine touches_after ?_ (keepWrite_touches _ _ _) (by decide)
          exact touches_refl _ _
        · exact touchesO_none
  · refine touchesO_after ?_ (spnWrite_touches _ _ _ _) (by decide)
    exact touches_refl _ _
  · refine touchesO_after ?_ (plateWrite_touches _ _ _) (by decide)
    exact touches_refl _ _
  · refine touchesO_after ?_ (afeWrite_touches _ _ _ _ _) (by decide)
    exact touches_refl _ _
  · refine touchesO_ite ?_ ?_
    · refine touchesO_after ?_ (loopWrite_touches _ _ _ _ _) (by decide)
      exact touches_refl _ _
    · exact touchesO_none
  · refine touchesO_ite ?_ ?_
    · refine touchesO_after ?_ (groupWrite_touches _ _ _ _) (by decide)
      exact touches_refl _ _
    · refine touchesO_after ?_ (tripWrite_touches _ _ _) (by decide)
      exact touches_refl _ _
  · refine touchesO_ite ?_ ?_
    · refine touchesO_some ?_
      split
      · refine touches_ite ?_ ?_
        · refine touches_after ?_ (plDiscard_touches _ _) (by decide)
          exact touches_refl _ _
        · exact touches_refl _ _
      · exact touches_refl _ _
    · exact touchesO_none
  · refine touchesO_after ?_ (aicWrite_touches _ _ _ _) (by decide)
    exact touches_refl _ _
  · refine touchesO_after ?_ (dmaWrite_touches _ _ _) (by decide)
    exact touches_refl _ _
  · refine touchesO_after ?_ (consoleWrite_touches _ _ _ _) (by decide)
    exact touches_refl _ _
  · refine touchesO_after ?_ (composerWrite_touches _ _ _) (by decide)
    exact touches_refl _ _
  · refine touchesO_ite ?_ ?_
    · refine touchesO_some ?_
      refine touches_after ?_ (mvCtlWrite_touches _ _) (by decide)
      exact touches_refl _ _
    · exact touchesO_none
  · refine touchesO_after ?_ (audioWrite_touches _ _ _) (by decide)
    exact touches_refl _ _
  · refine touchesO_after ?_ (hostWrite_touches _ _ _ _) (by decide)
    exact touches_refl _ _
  · refine touchesO_after ?_ (checkWrite_touches _ _ _ _) (by decide)
    exact touches_refl _ _
  · refine touchesO_after ?_ (pinWrite_touches _ _ _) (by decide)
    exact touches_refl _ _
  · refine touchesO_ite ?_ ?_
    · refine touchesO_some ?_
      exact touches_refl _ _
    · refine touchesO_ite ?_ ?_
      · refine touchesO_some ?_
        split
        · refine touches_after ?_ (sbCtlWrite_touches _ _ _ _) (by decide)
          exact touches_refl _ _
        · exact touches_refl _ _
      · exact touchesO_none
  · refine touchesO_ite ?_ ?_
    · split
      · refine touchesO_some ?_
        refine touches_after ?_ (gtCountWrite_touches _ _ _) (by decide)
        exact touches_refl _ _
      · refine touchesO_some ?_
        refine touches_after ?_ (gtCtlWrite_touches _ _ _) (by decide)
        exact touches_refl _ _
      · exact touchesO_none
    · exact touchesO_none
  · refine touchesO_after ?_ (tailstockWrite_touches _ _ _ _) (by decide)
    exact touches_refl _ _
  · refine touchesO_after ?_ (fieldWrite_touches _ _ _ _) (by decide)
    exact touches_refl _ _
  · exact touchesO_none

theorem noteEnable_touches : ∀ a0 a1 a2,
    Touches [.regs] a2 (noteEnable a0 a1 a2) := by
  intro a0 a1 a2
  unfold noteEnable
  split
  · refine touches_ite ?_ ?_
    · refine touches_after ?_ (noteDeferred_touches _ _) (by decide)
      exact touches_refl _ _
    · exact touches_refl _ _
  · exact touches_refl _ _

theorem busWrite_touches : ∀ a0 a1 a2 a3,
    Touches (.freeCtr :: .cyc :: .pulses :: .regs :: .sys :: .log :: .spindles :: .encoders :: .encSince :: .timers :: .ptp :: .adcs :: .comparators :: .demods :: .sectors :: .pairs :: .groups :: .tripPins :: .zonePins :: .plate :: .loops :: .place :: .cores :: .aic :: .dma :: .outbound :: .consoles :: .conJobs :: .pipes :: .streams :: .active :: .mover :: .heads :: .audio :: .keepers :: .sec :: .cvs :: .hosts :: .dict :: .canNode :: .aborts :: .iotlb :: .sbOld :: .tsClaimed :: []) a3 (busWrite a0 a1 a2 a3) := by
  intro a0 a1 a2 a3
  unfold busWrite
  split
  · exact touches_refl _ _
  · split
    · exact touches_refl _ _
    · refine touches_ite ?_ ?_
      · exact touches_refl _ _
      · split
        · refine touches_after ?_ (noteEnable_touches _ _ _) (by decide)
          refine touches_ofO ?_ (actWrite_touches _ _ _ _ _) ‹_› (by decide)
          exact touches_refl _ _
        · split
          · refine touches_after ?_ (noteEnable_touches _ _ _) (by decide)
            refine touches_after ?_ (State.setReg_touches _ _ _) (by decide)
            exact touches_refl _ _
          · exact touches_refl _ _

theorem homeSet_touches : ∀ a0 a1 a2,
    Touches [.devTimer, .regs, .sys, .spindles, .ptp, .cvs] a2 (homeSet a0 a1 a2) := by
  intro a0 a1 a2
  unfold homeSet
  extract_lets +onlyGivenNames x0
  clear_value x0
  refine touches_ite ?_ ?_
  · refine touches_after ?_ (touch_devTimer _) (by decide)
    exact touches_refl _ _
  · refine touches_ite ?_ ?_
    · refine touches_after ?_ (touch_devTimer _) (by decide)
      exact touches_refl _ _
    · split
      · refine touches_ite ?_ ?_
        · refine touches_after ?_ (touch_sys _ (by rfl)) (by decide)
          exact touches_refl _ _
        · exact touches_refl _ _
      · extract_lets +onlyGivenNames x1
        clear_value x1
        split
        · refine touches_after ?_ (State.setSpn_touches _ _ _) (by decide)
          exact touches_refl _ _
        · refine touches_after ?_ (State.setSpn_touches _ _ _) (by decide)
          exact touches_refl _ _
        · refine touches_after ?_ (State.setSpn_touches _ _ _) (by decide)
          exact touches_refl _ _
        · exact touches_refl _ _
      · extract_lets +onlyGivenNames x2
        clear_value x2
        refine touches_ite ?_ ?_
        · refine touches_after ?_ (State.setCv_touches _ _ _) (by decide)
          exact touches_refl _ _
        · refine touches_ite ?_ ?_
          · refine touches_after ?_ (State.setCv_touches _ _ _) (by decide)
            exact touches_refl _ _
          · exact touches_refl _ _
      · refine touches_ite ?_ ?_
        · refine touches_after ?_ (State.setReg_touches _ _ _) (by decide)
          exact touches_refl _ _
        · exact touches_refl _ _
      · extract_lets +onlyGivenNames x3
        clear_value x3
        refine touches_ite ?_ ?_
        · refine touches_after ?_ (touch_ptp _) (by decide)
          exact touches_refl _ _
        · exact touches_refl _ _
      · exact touches_refl _ _

theorem busNarrow_touches : ∀ a0 a1 a2,
    Touches [.freeCtr, .devTimer, .regs, .sys, .spindles, .ptp, .cvs] a2 (busNarrow a0 a1 a2) := by
  intro a0 a1 a2
  unfold busNarrow
  extract_lets +onlyGivenNames x0
  clear_value x0
  split
  · exact touches_refl _ _
  · split
    · exact touches_refl _ _
    · refine touches_ite ?_ ?_
      · exact touches_refl _ _
      · split
        · refine touches_after ?_ (homeSet_touches _ _ _) (by decide)
          refine touches_after ?_ (takeFree_touches _ _) (by decide)
          refine touches_after ?_ (freeReg_touches _ _) (by decide)
          exact touches_refl _ _
        · exact touches_refl _ _

theorem execRegisterWrite_touches : ∀ a0 a1 a2 a3 a4,
    ∃ t, execRegisterWrite a0 a1 a2 a3 a4 = .next t ∧ Touches (.freeCtr :: .cyc :: .pulses :: .devTimer :: .regs :: .sys :: .log :: .spindles :: .encoders :: .encSince :: .timers :: .ptp :: .adcs :: .comparators :: .demods :: .sectors :: .pairs :: .groups :: .tripPins :: .zonePins :: .plate :: .loops :: .place :: .cores :: .aic :: .dma :: .outbound :: .consoles :: .conJobs :: .pipes :: .streams :: .active :: .mover :: .heads :: .audio :: .keepers :: .sec :: .cvs :: .hosts :: .dict :: .canNode :: .aborts :: .iotlb :: .sbOld :: .tsClaimed :: []) a4 t := by
  intro a0 a1 a2 a3 a4
  unfold execRegisterWrite
  refine ⟨_, rfl, ?_⟩
  refine touches_ite ?_ ?_
  · exact touches_refl _ _
  · split
    · refine touches_after ?_ (busWrite_touches _ _ _ _) (by decide)
      exact touches_refl _ _
    · refine touches_after ?_ (busNarrow_touches _ _ _) (by decide)
      exact touches_refl _ _

theorem execLowWordRead_touches : ∀ a0 a1 a2,
    ∃ t, execLowWordRead a0 a1 a2 = .next t ∧ Touches (.freeCtr :: .cyc :: .regs :: .resp :: .shadow :: .sectors :: .plate :: .place :: .aic :: .streams :: .mover :: .audio :: .cvs :: .cans :: .tsClaimed :: .mem :: .poison :: []) a2 t := by
  intro a0 a1 a2
  unfold execLowWordRead
  refine ⟨_, rfl, ?_⟩
  refine touches_ite ?_ ?_
  · refine touches_answerWith (by decide) ?_
    refine touches_after ?_ (busRead_touches _ _ _) (by decide)
    exact touches_refl _ _
  · exact touches_refl _ _

theorem mwriteEff_touches : ∀ a0 a1 a2 a3,
    Touches (.freeCtr :: .cyc :: .pulses :: .regs :: .sys :: .log :: .spindles :: .encoders :: .encSince :: .timers :: .ptp :: .adcs :: .comparators :: .demods :: .sectors :: .pairs :: .groups :: .tripPins :: .zonePins :: .plate :: .loops :: .place :: .cores :: .aic :: .dma :: .outbound :: .consoles :: .conJobs :: .pipes :: .streams :: .active :: .mover :: .heads :: .audio :: .keepers :: .sec :: .cvs :: .hosts :: .dict :: .canNode :: .aborts :: .iotlb :: .sbOld :: .tsClaimed :: []) a3 (mwriteEff a0 a1 a2 a3) := by
  intro a0 a1 a2 a3
  unfold mwriteEff
  extract_lets +onlyGivenNames x0
  clear_value x0
  refine touches_ite ?_ ?_
  · refine touches_after ?_ (partUndefined_touches _ _) (by decide)
    exact touches_refl _ _
  · refine touches_ite ?_ ?_
    · exact touches_refl _ _
    · refine touches_after ?_ (busWrite_touches _ _ _ _) (by decide)
      exact touches_refl _ _

theorem execMwrite_touches : ∀ a0 a1 a2 a3,
    ∃ t, execMwrite a0 a1 a2 a3 = .next t ∧ Touches (.freeCtr :: .cyc :: .pulses :: .regs :: .sys :: .log :: .spindles :: .encoders :: .encSince :: .timers :: .ptp :: .adcs :: .comparators :: .demods :: .sectors :: .pairs :: .groups :: .tripPins :: .zonePins :: .plate :: .loops :: .place :: .cores :: .aic :: .dma :: .outbound :: .consoles :: .conJobs :: .pipes :: .streams :: .active :: .mover :: .heads :: .audio :: .keepers :: .sec :: .cvs :: .hosts :: .dict :: .canNode :: .aborts :: .iotlb :: .sbOld :: .tsClaimed :: []) a3 t := by
  intro a0 a1 a2 a3
  unfold execMwrite
  refine ⟨_, rfl, ?_⟩
  refine touches_ite ?_ ?_
  · refine touches_after ?_ (mwriteEff_touches _ _ _ _) (by decide)
    exact touches_refl _ _
  · exact touches_refl _ _

theorem raddEff_touches : ∀ a0 a1 a2 a3,
    Touches (.freeCtr :: .cyc :: .pulses :: .regs :: .sys :: .log :: .spindles :: .encoders :: .encSince :: .timers :: .ptp :: .adcs :: .comparators :: .demods :: .sectors :: .pairs :: .groups :: .tripPins :: .zonePins :: .plate :: .loops :: .place :: .cores :: .aic :: .dma :: .outbound :: .consoles :: .conJobs :: .pipes :: .streams :: .active :: .mover :: .heads :: .audio :: .keepers :: .sec :: .cvs :: .hosts :: .dict :: .canNode :: .aborts :: .iotlb :: .sbOld :: .tsClaimed :: []) a3 (raddEff a0 a1 a2 a3) := by
  intro a0 a1 a2 a3
  unfold raddEff
  extract_lets +onlyGivenNames x0
  clear_value x0
  refine touches_ite ?_ ?_
  · refine touches_after ?_ (partUndefined_touches _ _) (by decide)
    exact touches_refl _ _
  · refine touches_ite ?_ ?_
    · exact touches_refl _ _
    · refine touches_after ?_ (busWrite_touches _ _ _ _) (by decide)
      exact touches_refl _ _

theorem execRadd_touches : ∀ a0 a1 a2 a3,
    ∃ t, execRadd a0 a1 a2 a3 = .next t ∧ Touches (.freeCtr :: .cyc :: .pulses :: .regs :: .sys :: .log :: .spindles :: .encoders :: .encSince :: .timers :: .ptp :: .adcs :: .comparators :: .demods :: .sectors :: .pairs :: .groups :: .tripPins :: .zonePins :: .plate :: .loops :: .place :: .cores :: .aic :: .dma :: .outbound :: .consoles :: .conJobs :: .pipes :: .streams :: .active :: .mover :: .heads :: .audio :: .keepers :: .sec :: .cvs :: .hosts :: .dict :: .canNode :: .aborts :: .iotlb :: .sbOld :: .tsClaimed :: []) a3 t := by
  intro a0 a1 a2 a3
  unfold execRadd
  refine ⟨_, rfl, ?_⟩
  refine touches_ite ?_ ?_
  · refine touches_after ?_ (raddEff_touches _ _ _ _) (by decide)
    exact touches_refl _ _
  · exact touches_refl _ _

theorem execDoorbell_touches : ∀ a0 a1,
    ∃ t, execDoorbell a0 a1 = .next t ∧ Touches [.cyc, .regs] a1 t := by
  intro a0 a1
  unfold execDoorbell
  refine ⟨_, rfl, ?_⟩
  refine touches_ite ?_ ?_
  · refine touches_after ?_ (doorbellEff_touches _ _) (by decide)
    exact touches_refl _ _
  · exact touches_refl _ _

end Sys2Proof.Machine
end

