-- ==== Sys2Proof/Laws/TouchDmaMove.lean ====
section
/-! SUPPORT. Which parts of the state the definitions of Machine/DmaMove.lean touch: one lemma for each, the proofs written by a
script from their shape. -/

namespace Sys2Proof.Machine

theorem dmaReadLocal_touches : ∀ a0 a1 a2,
    Touches [.freeCtr, .cyc, .regs, .iotlb, .checks] a2 (dmaReadLocal a0 a1 a2).2 := by
  intro a0 a1 a2
  fun_induction dmaReadLocal a0 a1 a2
  · dsimp only
    exact touches_refl _ _
  · dsimp only
    refine touches_of_eq_snd ‹_› ?_
    refine touches_after ?_ (masterRead_touches _ _ _ _ _ _) (by decide)
    exact touches_refl _ _
  · dsimp only
    rename_i r0_0 r0_1
    unfold r0_0
    refine touches_after ?_ ‹_› (fun _ h => h)
    refine touches_of_eq_snd ‹_› ?_
    refine touches_after ?_ (masterRead_touches _ _ _ _ _ _) (by decide)
    exact touches_refl _ _

theorem dmaWriteLocal_touches : ∀ a0 a1 a2 a3,
    Touches (.freeCtr :: .cyc :: .regs :: .plate :: .cores :: .dict :: .iotlb :: .mem :: .poison :: .checks :: []) a3 (dmaWriteLocal a0 a1 a2 a3).2 := by
  intro a0 a1 a2 a3
  fun_induction dmaWriteLocal a0 a1 a2 a3
  · dsimp only
    exact touches_refl _ _
  · dsimp only
    refine touches_of_eq_snd ‹_› ?_
    refine touches_after ?_ (masterWrite_touches _ _ _ _ _ _) (by decide)
    exact touches_refl _ _
  · dsimp only
    rename_i r0_0 r0_1
    unfold r0_0
    refine touches_after ?_ ‹_› (fun _ h => h)
    refine touches_of_eq_snd ‹_› ?_
    refine touches_after ?_ (masterWrite_touches _ _ _ _ _ _) (by decide)
    exact touches_refl _ _

theorem dmaReadReg_touches : ∀ a0 a1 a2,
    Touches (.freeCtr :: .cyc :: .regs :: .shadow :: .sectors :: .plate :: .place :: .aic :: .streams :: .mover :: .audio :: .cvs :: .cans :: .tsClaimed :: .mem :: .poison :: []) a2 (dmaReadReg a0 a1 a2).2 := by
  intro a0 a1 a2
  induction a1 generalizing a0 a2 with
  | zero => exact touches_refl _ _
  | succ n ih =>
    unfold dmaReadReg
    exact touches_after (busRead_touches _ _ _) (ih _ _) (fun _ h => h)

theorem dmaWriteReg_touches : ∀ a0 a1 a2,
    Touches (.freeCtr :: .cyc :: .pulses :: .regs :: .sys :: .log :: .spindles :: .encoders :: .encSince :: .timers :: .ptp :: .adcs :: .comparators :: .demods :: .sectors :: .pairs :: .groups :: .tripPins :: .zonePins :: .plate :: .loops :: .place :: .cores :: .aic :: .dma :: .outbound :: .consoles :: .conJobs :: .pipes :: .streams :: .active :: .mover :: .heads :: .audio :: .keepers :: .sec :: .cvs :: .hosts :: .dict :: .canNode :: .aborts :: .iotlb :: .sbOld :: .tsClaimed :: []) a2 (dmaWriteReg a0 a1 a2) := by
  intro a0 a1 a2
  unfold dmaWriteReg
  refine touches_foldl (fun _ _ _ => ?_) ?_
  · refine touches_after ?_ (busWrite_touches _ _ _ _) (by decide)
    assumption
  · exact touches_refl _ _

theorem dmaReadSide_touches : ∀ a0 a1 a2,
    Touches (.freeCtr :: .cyc :: .regs :: .shadow :: .sectors :: .plate :: .place :: .aic :: .dma :: .outbound :: .streams :: .mover :: .audio :: .cvs :: .cans :: .iotlb :: .tsClaimed :: .mem :: .poison :: .checks :: []) a2 (dmaReadSide a0 a1 a2).2 := by
  intro a0 a1 a2
  unfold dmaReadSide
  extract_lets +onlyGivenNames x0
  clear_value x0
  extract_lets +onlyGivenNames x1
  clear_value x1
  split
  · extract_lets +onlyGivenNames x2
    refine touches_cut_snd x2 ?_ (fun h2 => ?_)
    · unfold x2
      refine touches_after ?_ (dmaReadLocal_touches _ _ _) (by decide)
      exact touches_refl _ _
    clear_value x2
    dsimp only
    refine touches_after ?_ (State.setDmaCh_touches _ _ _) (by decide)
    assumption
  · refine touches_ite_snd ?_ ?_
    · extract_lets +onlyGivenNames x3
      refine touches_cut_snd x3 ?_ (fun h3 => ?_)
      · unfold x3
        refine touches_after ?_ (dmaReadReg_touches _ _ _) (by decide)
        exact touches_refl _ _
      clear_value x3
      dsimp only
      refine touches_after ?_ (State.setDmaCh_touches _ _ _) (by decide)
      assumption
    · dsimp only
      exact touches_refl _ _
  · extract_lets +onlyGivenNames x4
    clear_value x4
    refine touches_ite_snd ?_ ?_
    · dsimp only
      exact touches_refl _ _
    · split
      · dsimp only
        refine touches_after ?_ (touch_outbound _) (by decide)
        refine touches_after ?_ (State.setDmaCh_touches _ _ _) (by decide)
        exact touches_refl _ _
      · dsimp only
        exact touches_refl _ _

theorem dmaWriteSide_touches : ∀ a0 a1 a2,
    Touches (.freeCtr :: .cyc :: .pulses :: .regs :: .sys :: .log :: .spindles :: .encoders :: .encSince :: .timers :: .ptp :: .adcs :: .comparators :: .demods :: .sectors :: .pairs :: .groups :: .tripPins :: .zonePins :: .plate :: .loops :: .place :: .cores :: .aic :: .dma :: .outbound :: .posted :: .consoles :: .conJobs :: .pipes :: .streams :: .active :: .mover :: .heads :: .audio :: .keepers :: .sec :: .cvs :: .hosts :: .dict :: .canNode :: .aborts :: .iotlb :: .sbOld :: .tsClaimed :: .mem :: .poison :: .checks :: []) a2 (dmaWriteSide a0 a1 a2).2 := by
  intro a0 a1 a2
  unfold dmaWriteSide
  extract_lets +onlyGivenNames x0
  clear_value x0
  extract_lets +onlyGivenNames x1
  clear_value x1
  extract_lets +onlyGivenNames x2
  clear_value x2
  split
  · refine touches_after ?_ (dmaWriteLocal_touches _ _ _ _) (by decide)
    exact touches_refl _ _
  · refine touches_ite_snd ?_ ?_
    · dsimp only
      refine touches_after ?_ (dmaWriteReg_touches _ _ _) (by decide)
      exact touches_refl _ _
    · dsimp only
      exact touches_refl _ _
  · extract_lets +onlyGivenNames x3
    clear_value x3
    refine touches_ite_snd ?_ ?_
    · dsimp only
      refine touches_after ?_ (touch_posted _) (by decide)
      exact touches_refl _ _
    · dsimp only
      exact touches_refl _ _

theorem dmaMoved_touches : ∀ a0 a1 a2,
    Touches [.regs, .dma] a2 (dmaMoved a0 a1 a2) := by
  intro a0 a1 a2
  unfold dmaMoved
  extract_lets +onlyGivenNames x0
  clear_value x0
  refine touches_after ?_ (dmaProgress_touches _ _) (by decide)
  refine touches_after ?_ (State.setDmaCh_touches _ _ _) (by decide)
  exact touches_refl _ _

theorem dmaStopped'_touches : ∀ a0 a1 a2,
    Touches [.cyc, .regs, .dma, .checks] a2 (dmaStopped' a0 a1 a2) := by
  intro a0 a1 a2
  unfold dmaStopped'
  split
  · exact touches_refl _ _
  · refine touches_after ?_ (dmaFailed_touches _ _ _ _) (by decide)
    exact touches_refl _ _
  · refine touches_after ?_ (dmaSuspend_touches _ _ _ _) (by decide)
    exact touches_refl _ _

theorem burstEff_touches : ∀ a0 a1,
    Touches (.freeCtr :: .cyc :: .pulses :: .regs :: .shadow :: .sys :: .log :: .spindles :: .encoders :: .encSince :: .timers :: .ptp :: .adcs :: .comparators :: .demods :: .sectors :: .pairs :: .groups :: .tripPins :: .zonePins :: .plate :: .loops :: .place :: .cores :: .aic :: .dma :: .outbound :: .posted :: .consoles :: .conJobs :: .pipes :: .streams :: .active :: .mover :: .heads :: .audio :: .keepers :: .sec :: .cvs :: .hosts :: .dict :: .canNode :: .cans :: .aborts :: .iotlb :: .sbOld :: .tsClaimed :: .mem :: .poison :: .checks :: []) a1 (burstEff a0 a1) := by
  intro a0 a1
  unfold burstEff
  extract_lets +onlyGivenNames x0
  clear_value x0
  extract_lets +onlyGivenNames x1
  refine touches_cut_snd x1 ?_ (fun h1 => ?_)
  · unfold x1
    refine touches_ite_snd ?_ ?_
    · refine touches_after ?_ (dmaReadSide_touches _ _ _) (by decide)
      exact touches_refl _ _
    · dsimp only
      exact touches_refl _ _
  clear_value x1
  extract_lets +onlyGivenNames x2
  refine touches_cut_snd x2 ?_ (fun h2 => ?_)
  · unfold x2
    refine touches_after ?_ (dmaWriteSide_touches _ _ _) (by decide)
    assumption
  clear_value x2
  extract_lets +onlyGivenNames x3
  refine touches_cut x3 ?_ (fun h3 => ?_)
  · unfold x3
    refine touches_after ?_ (dmaMoved_touches _ _ _) (by decide)
    assumption
  clear_value x3
  extract_lets +onlyGivenNames x4
  refine touches_cut x4 ?_ (fun h4 => ?_)
  · unfold x4
    refine touches_after ?_ (dmaStopped'_touches _ _ _) (by decide)
    assumption
  clear_value x4
  refine touches_ite ?_ ?_
  · refine touches_after ?_ (paceEff_touches _ _) (by decide)
    assumption
  · assumption

theorem dmaBurstEff_touches : ∀ a0,
    Touches (.freeCtr :: .cyc :: .pulses :: .regs :: .shadow :: .sys :: .log :: .spindles :: .encoders :: .encSince :: .timers :: .ptp :: .adcs :: .comparators :: .demods :: .sectors :: .pairs :: .groups :: .tripPins :: .zonePins :: .plate :: .loops :: .place :: .cores :: .aic :: .dma :: .dmaLast :: .outbound :: .posted :: .consoles :: .conJobs :: .pipes :: .streams :: .active :: .mover :: .heads :: .audio :: .keepers :: .sec :: .cvs :: .hosts :: .dict :: .canNode :: .cans :: .aborts :: .iotlb :: .sbOld :: .tsClaimed :: .mem :: .poison :: .checks :: []) a0 (dmaBurstEff a0) := by
  intro a0
  unfold dmaBurstEff
  split
  · extract_lets +onlyGivenNames x0
    refine touches_cut x0 ?_ (fun h0 => ?_)
    · unfold x0
      refine touches_after ?_ (touch_dmaLast _) (by decide)
      exact touches_refl _ _
    clear_value x0
    refine touches_ite ?_ ?_
    · refine touches_after ?_ (dmaUndefined_touches _ _) (by decide)
      assumption
    · refine touches_after ?_ (burstEff_touches _ _) (by decide)
      assumption
  · exact touches_refl _ _

theorem execDmaBurst_touches : ∀ a0,
    ∃ t, execDmaBurst a0 = .next t ∧ Touches (.freeCtr :: .cyc :: .pulses :: .regs :: .shadow :: .sys :: .log :: .spindles :: .encoders :: .encSince :: .timers :: .ptp :: .adcs :: .comparators :: .demods :: .sectors :: .pairs :: .groups :: .tripPins :: .zonePins :: .plate :: .loops :: .place :: .cores :: .aic :: .dma :: .dmaLast :: .outbound :: .posted :: .consoles :: .conJobs :: .pipes :: .streams :: .active :: .mover :: .heads :: .audio :: .keepers :: .sec :: .cvs :: .hosts :: .dict :: .canNode :: .cans :: .aborts :: .iotlb :: .sbOld :: .tsClaimed :: .mem :: .poison :: .checks :: []) a0 t := by
  intro a0
  unfold execDmaBurst
  refine ⟨_, rfl, ?_⟩
  refine touches_ite ?_ ?_
  · refine touches_after ?_ (dmaBurstEff_touches _) (by decide)
    exact touches_refl _ _
  · exact touches_refl _ _

theorem descriptorEnd_touches : ∀ a0 a1 a2,
    Touches [.cyc, .regs, .dma] a2 (descriptorEnd a0 a1 a2) := by
  intro a0 a1 a2
  unfold descriptorEnd
  extract_lets +onlyGivenNames x0
  refine touches_cut x0 ?_ (fun h0 => ?_)
  · unfold x0
    refine touches_after ?_ (State.setReg_touches _ _ _) (by decide)
    refine touches_after ?_ (State.setReg_touches _ _ _) (by decide)
    exact touches_refl _ _
  clear_value x0
  extract_lets +onlyGivenNames x1
  refine touches_cut x1 ?_ (fun h1 => ?_)
  · unfold x1
    refine touches_ite ?_ ?_
    · refine touches_after ?_ (dmaEvent_touches _ _ _) (by decide)
      assumption
    · assumption
  clear_value x1
  refine touches_ite ?_ ?_
  · refine touches_after ?_ (dmaEvent_touches _ _ _) (by decide)
    refine touches_after ?_ (setDmaState_touches _ _ _) (by decide)
    refine touches_after ?_ (State.setDmaCh_touches _ _ _) (by decide)
    assumption
  · refine touches_after ?_ (setDmaState_touches _ _ _) (by decide)
    refine touches_after ?_ (State.setDmaCh_touches _ _ _) (by decide)
    assumption

theorem descriptorCompleteEff_touches : ∀ a0 a1,
    Touches (.freeCtr :: .cyc :: .regs :: .plate :: .cores :: .dma :: .dict :: .iotlb :: .mem :: .poison :: .checks :: []) a1 (descriptorCompleteEff a0 a1) := by
  intro a0 a1
  unfold descriptorCompleteEff
  extract_lets +onlyGivenNames x0
  clear_value x0
  extract_lets +onlyGivenNames x1
  clear_value x1
  refine touches_ite ?_ ?_
  · refine touches_ite ?_ ?_
    · refine touches_after ?_ (descriptorEnd_touches _ _ _) (by decide)
      exact touches_refl _ _
    · split
      · refine touches_after ?_ (dmaFailed_touches _ _ _ _) (by decide)
        refine touches_of_eq_snd ‹_› ?_
        refine touches_after ?_ (masterWriteRun_touches _ _ _ _ _ _) (by decide)
        exact touches_refl _ _
      · refine touches_after ?_ (descriptorEnd_touches _ _ _) (by decide)
        refine touches_of_eq_snd ‹_› ?_
        refine touches_after ?_ (masterWriteRun_touches _ _ _ _ _ _) (by decide)
        exact touches_refl _ _
  · exact touches_refl _ _

theorem execDescriptorComplete_touches : ∀ a0 a1,
    ∃ t, execDescriptorComplete a0 a1 = .next t ∧ Touches (.freeCtr :: .cyc :: .regs :: .plate :: .cores :: .dma :: .dict :: .iotlb :: .mem :: .poison :: .checks :: []) a1 t := by
  intro a0 a1
  unfold execDescriptorComplete
  refine ⟨_, rfl, ?_⟩
  refine touches_ite ?_ ?_
  · refine touches_after ?_ (descriptorCompleteEff_touches _ _) (by decide)
    exact touches_refl _ _
  · exact touches_refl _ _

theorem outboundDoneEff_touches : ∀ a0 a1 a2 a3,
    Touches [.cyc, .regs, .dma, .outbound] a3 (outboundDoneEff a0 a1 a2 a3) := by
  intro a0 a1 a2 a3
  unfold outboundDoneEff
  split
  · exact touches_refl _ _
  · extract_lets +onlyGivenNames x0
    refine touches_cut x0 ?_ (fun h0 => ?_)
    · unfold x0
      refine touches_after ?_ (touch_outbound _) (by decide)
      exact touches_refl _ _
    clear_value x0
    split
    · assumption
    · refine touches_ite ?_ ?_
      · refine touches_after ?_ (State.setDmaCh_touches _ _ _) (by decide)
        assumption
      · refine touches_after ?_ (outboundFail_touches _ _) (by decide)
        refine touches_after ?_ (outboundError_touches _ _) (by decide)
        assumption
    · refine touches_after ?_ (outboundFail_touches _ _) (by decide)
      refine touches_after ?_ (outboundError_touches _ _) (by decide)
      assumption

theorem execOutboundCompletion_touches : ∀ a0 a1 a2 a3,
    ∃ t, execOutboundCompletion a0 a1 a2 a3 = .next t ∧ Touches [.cyc, .regs, .dma, .outbound] a3 t := by
  intro a0 a1 a2 a3
  unfold execOutboundCompletion
  refine ⟨_, rfl, ?_⟩
  refine touches_ite ?_ ?_
  · refine touches_after ?_ (outboundDoneEff_touches _ _ _ _) (by decide)
    exact touches_refl _ _
  · exact touches_refl _ _

theorem execCompletionTimeout_touches : ∀ a0 a1 a2,
    ∃ t, execCompletionTimeout a0 a1 a2 = .next t ∧ Touches [.cyc, .regs, .dma, .outbound] a2 t := by
  intro a0 a1 a2
  unfold execCompletionTimeout
  refine ⟨_, rfl, ?_⟩
  refine touches_ite ?_ ?_
  · refine touches_after ?_ (outboundDoneEff_touches _ _ _ _) (by decide)
    exact touches_refl _ _
  · exact touches_refl _ _

end Sys2Proof.Machine
end

