-- ==== Sys2Proof/Laws/TouchHostBus.lean ====
section
/-! SUPPORT. Which parts of the state the definitions of Machine/HostBus.lean touch: one lemma for each, the proofs written by a
script from their shape. -/

namespace Sys2Proof.Machine

theorem inbound_touches : ∀ a0 a1,
    Touches [.hosts] a1 (inbound a0 a1) := by
  intro a0 a1
  unfold inbound
  refine touches_after ?_ (State.setHost_touches _ _ _) (by decide)
  exact touches_refl _ _

theorem complete_touches : ∀ a0 a1 a2 a3,
    Touches [.hosts] a3 (complete a0 a1 a2 a3) := by
  intro a0 a1 a2 a3
  unfold complete
  refine touches_after ?_ (State.setHost_touches _ _ _) (by decide)
  exact touches_refl _ _

theorem busReadRun_touches : ∀ a0 a1 a2 a3,
    Touches (.freeCtr :: .cyc :: .regs :: .shadow :: .sectors :: .plate :: .place :: .aic :: .streams :: .mover :: .audio :: .cvs :: .cans :: .tsClaimed :: .mem :: .poison :: []) a3 (busReadRun a0 a1 a2 a3).2 := by
  intro a0 a1 a2 a3
  fun_induction busReadRun a0 a1 a2 a3
  · dsimp only
    exact touches_refl _ _
  · dsimp only
    rename_i r0_0 r0_1
    unfold r0_0
    refine touches_after ?_ ‹_› (fun _ h => h)
    rename_i r1_0
    unfold r1_0
    refine touches_after ?_ (busRead_touches _ _ _) (by decide)
    exact touches_refl _ _

theorem busWriteRun_touches : ∀ a0 a1 a2 a3,
    Touches (.freeCtr :: .cyc :: .pulses :: .regs :: .sys :: .log :: .spindles :: .encoders :: .encSince :: .timers :: .ptp :: .adcs :: .comparators :: .demods :: .sectors :: .pairs :: .groups :: .tripPins :: .zonePins :: .plate :: .loops :: .place :: .cores :: .aic :: .dma :: .outbound :: .consoles :: .conJobs :: .pipes :: .streams :: .active :: .mover :: .heads :: .audio :: .keepers :: .sec :: .cvs :: .hosts :: .dict :: .canNode :: .aborts :: .iotlb :: .sbOld :: .tsClaimed :: []) a3 (busWriteRun a0 a1 a2 a3) := by
  intro a0 a1 a2 a3
  fun_induction busWriteRun a0 a1 a2 a3
  · exact touches_refl _ _
  · refine touches_after ?_ ‹_› (fun _ h => h)
    refine touches_after ?_ (busWrite_touches _ _ _ _) (by decide)
    exact touches_refl _ _

theorem bar0Eff_touches : ∀ a0 a1 a2 a3,
    Touches (.freeCtr :: .cyc :: .pulses :: .devTimer :: .regs :: .shadow :: .sys :: .log :: .spindles :: .encoders :: .encSince :: .timers :: .ptp :: .adcs :: .comparators :: .demods :: .sectors :: .pairs :: .groups :: .tripPins :: .zonePins :: .plate :: .loops :: .place :: .cores :: .aic :: .dma :: .outbound :: .consoles :: .conJobs :: .pipes :: .streams :: .active :: .mover :: .heads :: .audio :: .keepers :: .sec :: .cvs :: .hosts :: .dict :: .canNode :: .cans :: .aborts :: .iotlb :: .sbOld :: .tsClaimed :: .mem :: .poison :: []) a3 (bar0Eff a0 a1 a2 a3) := by
  intro a0 a1 a2 a3
  unfold bar0Eff
  extract_lets +onlyGivenNames x0
  clear_value x0
  split
  · refine touches_ite ?_ ?_
    · refine touches_after ?_ (complete_touches _ _ _ _) (by decide)
      exact touches_refl _ _
    · extract_lets +onlyGivenNames x1
      refine touches_cut_snd x1 ?_ (fun h1 => ?_)
      · unfold x1
        refine touches_after ?_ (busReadRun_touches _ _ _ _) (by decide)
        exact touches_refl _ _
      clear_value x1
      refine touches_after ?_ (complete_touches _ _ _ _) (by decide)
      assumption
  · refine touches_ite ?_ ?_
    · refine touches_after ?_ (inboundError_touches _ _) (by decide)
      exact touches_refl _ _
    · refine touches_after ?_ (busWriteRun_touches _ _ _ _) (by decide)
      exact touches_refl _ _
  · refine touches_ite ?_ ?_
    · refine touches_after ?_ (complete_touches _ _ _ _) (by decide)
      exact touches_refl _ _
    · extract_lets +onlyGivenNames x2
      refine touches_cut x2 ?_ (fun h2 => ?_)
      · unfold x2
        refine touches_after ?_ (busNarrow_touches _ _ _) (by decide)
        exact touches_refl _ _
      clear_value x2
      refine touches_after ?_ (complete_touches _ _ _ _) (by decide)
      refine touches_after ?_ (takeFree_touches _ _) (by decide)
      assumption
  · refine touches_ite ?_ ?_
    · refine touches_after ?_ (inboundError_touches _ _) (by decide)
      exact touches_refl _ _
    · refine touches_after ?_ (busNarrow_touches _ _ _) (by decide)
      exact touches_refl _ _

theorem execBar0Request_touches : ∀ a0 a1 a2 a3,
    ∃ t, execBar0Request a0 a1 a2 a3 = .next t ∧ Touches (.freeCtr :: .cyc :: .pulses :: .devTimer :: .regs :: .shadow :: .sys :: .log :: .spindles :: .encoders :: .encSince :: .timers :: .ptp :: .adcs :: .comparators :: .demods :: .sectors :: .pairs :: .groups :: .tripPins :: .zonePins :: .plate :: .loops :: .place :: .cores :: .aic :: .dma :: .outbound :: .consoles :: .conJobs :: .pipes :: .streams :: .active :: .mover :: .heads :: .audio :: .keepers :: .sec :: .cvs :: .hosts :: .dict :: .canNode :: .cans :: .aborts :: .iotlb :: .sbOld :: .tsClaimed :: .mem :: .poison :: []) a3 t := by
  intro a0 a1 a2 a3
  unfold execBar0Request
  refine ⟨_, rfl, ?_⟩
  refine touches_ite ?_ ?_
  · refine touches_after ?_ (bar0Eff_touches _ _ _ _) (by decide)
    refine touches_after ?_ (inbound_touches _ _) (by decide)
    exact touches_refl _ _
  · exact touches_refl _ _

theorem execRegisterTimeout_touches : ∀ a0 a1,
    ∃ t, execRegisterTimeout a0 a1 = .next t ∧ Touches [.cyc, .regs, .hosts] a1 t := by
  intro a0 a1
  unfold execRegisterTimeout
  refine ⟨_, rfl, ?_⟩
  refine touches_ite ?_ ?_
  · refine touches_after ?_ (complete_touches _ _ _ _) (by decide)
    refine touches_after ?_ (inboundError_touches _ _) (by decide)
    refine touches_after ?_ (inbound_touches _ _) (by decide)
    exact touches_refl _ _
  · exact touches_refl _ _

theorem maskedStore_touches : ∀ a0 a1 a2 a3,
    Touches [.freeCtr, .regs, .plate, .cores, .dict, .mem, .poison] a3 (maskedStore a0 a1 a2 a3) := by
  intro a0 a1 a2 a3
  unfold maskedStore
  refine touches_ite ?_ ?_
  · refine touches_after ?_ (memWrite_touches _ _ _ _) (by decide)
    exact touches_refl _ _
  · refine touches_forEach (fun _ _ _ => ?_) ?_
    · refine touches_ite ?_ ?_
      · refine touches_after ?_ (memWrite_touches _ _ _ _) (by decide)
        assumption
      · assumption
    · exact touches_refl _ _

theorem mailRefused_touches : ∀ a0 a1 a2,
    Touches [.freeCtr, .hosts] a2 (mailRefused a0 a1 a2) := by
  intro a0 a1 a2
  unfold mailRefused
  split
  · refine touches_after ?_ (complete_touches _ _ _ _) (by decide)
    refine touches_after ?_ (takeFree_touches _ _) (by decide)
    exact touches_refl _ _
  · exact touches_refl _ _

theorem mailAccess_touches : ∀ a0 a1 a2 a3,
    Touches (.freeCtr :: .cyc :: .regs :: .plate :: .cores :: .hosts :: .dict :: .mem :: .poison :: .checks :: []) a3 (mailAccess a0 a1 a2 a3) := by
  intro a0 a1 a2 a3
  unfold mailAccess
  refine touches_ite ?_ ?_
  · refine touches_after ?_ (mailRefused_touches _ _ _) (by decide)
    exact touches_refl _ _
  · split
    · refine touches_ite ?_ ?_
      · extract_lets +onlyGivenNames x0
        refine touches_cut x0 ?_ (fun h0 => ?_)
        · unfold x0
          refine touches_after ?_ (detectCheck_touches _ _) (by decide)
          exact touches_refl _ _
        clear_value x0
        refine touches_after ?_ (complete_touches _ _ _ _) (by decide)
        refine touches_after ?_ (takeFree_touches _ _) (by decide)
        assumption
      · refine touches_after ?_ (complete_touches _ _ _ _) (by decide)
        exact touches_refl _ _
    · refine touches_after ?_ (maskedStore_touches _ _ _ _) (by decide)
      exact touches_refl _ _

theorem mailSpoiled_touches : ∀ a0 a1,
    Touches [.freeCtr, .hosts] a1 (mailSpoiled a0 a1) := by
  intro a0 a1
  unfold mailSpoiled
  refine touches_after ?_ (complete_touches _ _ _ _) (by decide)
  refine touches_after ?_ (takeFree_touches _ _) (by decide)
  exact touches_refl _ _

theorem mailCollision_touches : ∀ a0 a1 a2,
    Touches [.cyc, .regs, .hosts, .busyPins] a2 (mailCollision a0 a1 a2) := by
  intro a0 a1 a2
  unfold mailCollision
  extract_lets +onlyGivenNames x0
  refine touches_cut x0 ?_ (fun h0 => ?_)
  · unfold x0
    refine touches_after ?_ (State.setFld_touches _ _ _ _ _) (by decide)
    refine touches_after ?_ (setEvent_touches _ _ _) (by decide)
    exact touches_refl _ _
  clear_value x0
  extract_lets +onlyGivenNames x1
  refine touches_cut x1 ?_ (fun h1 => ?_)
  · unfold x1
    refine touches_ite ?_ ?_
    · refine touches_ite ?_ ?_
      · refine touches_after ?_ (noteDeferred_touches _ _) (by decide)
        assumption
      · assumption
    · exact touches_refl _ _
  clear_value x1
  refine touches_after ?_ (alertSet_touches _ _ _) (by decide)
  refine touches_after ?_ (touch_busyPins _) (by decide)
  assumption

theorem mailPair_touches : ∀ a0 a1 a2 a3 a4,
    Touches (.freeCtr :: .cyc :: .regs :: .plate :: .cores :: .hosts :: .dict :: .busyPins :: .mem :: .poison :: .checks :: []) a4 (mailPair a0 a1 a2 a3 a4) := by
  intro a0 a1 a2 a3 a4
  unfold mailPair
  extract_lets +onlyGivenNames x0
  clear_value x0
  refine touches_ite ?_ ?_
  · refine touches_after ?_ (mailRefused_touches _ _ _) (by decide)
    refine touches_after ?_ (mailRefused_touches _ _ _) (by decide)
    exact touches_refl _ _
  · refine touches_ite ?_ ?_
    · refine touches_ite ?_ ?_
      · refine touches_after ?_ (mailAccess_touches _ _ _ _) (by decide)
        refine touches_after ?_ (mailAccess_touches _ _ _ _) (by decide)
        exact touches_refl _ _
      · refine touches_after ?_ (mailAccess_touches _ _ _ _) (by decide)
        refine touches_after ?_ (mailAccess_touches _ _ _ _) (by decide)
        exact touches_refl _ _
    · refine touches_ite ?_ ?_
      · refine touches_after ?_ (mailCollision_touches _ _ _) (by decide)
        refine touches_after ?_ (mailSpoiled_touches _ _) (by decide)
        refine touches_after ?_ (mailAccess_touches _ _ _ _) (by decide)
        exact touches_refl _ _
      · refine touches_after ?_ (mailCollision_touches _ _ _) (by decide)
        refine touches_after ?_ (mailSpoiled_touches _ _) (by decide)
        refine touches_after ?_ (mailAccess_touches _ _ _ _) (by decide)
        exact touches_refl _ _

theorem enabledWord_touches : ∀ a0 a1 a2,
    Touches [.freeCtr] a2 (enabledWord a0 a1 a2).2 := by
  intro a0 a1 a2
  unfold enabledWord
  refine touches_ite_snd ?_ ?_
  · dsimp only
    exact touches_refl _ _
  · refine touches_after ?_ (takeFree_touches _ _) (by decide)
    exact touches_refl _ _

theorem bar2High_touches : ∀ a0 a1 a2 a3,
    Touches (.freeCtr :: .cyc :: .pulses :: .regs :: .sys :: .log :: .spindles :: .encoders :: .encSince :: .timers :: .ptp :: .adcs :: .comparators :: .demods :: .sectors :: .pairs :: .groups :: .tripPins :: .zonePins :: .plate :: .loops :: .place :: .cores :: .aic :: .dma :: .outbound :: .consoles :: .conJobs :: .pipes :: .streams :: .active :: .mover :: .heads :: .audio :: .keepers :: .sec :: .cvs :: .hosts :: .dict :: .canNode :: .aborts :: .iotlb :: .sbOld :: .tsClaimed :: []) a3 (bar2High a0 a1 a2 a3) := by
  intro a0 a1 a2 a3
  unfold bar2High
  extract_lets +onlyGivenNames x0
  clear_value x0
  split
  · refine touches_ite ?_ ?_
    · refine touches_after ?_ (complete_touches _ _ _ _) (by decide)
      exact touches_refl _ _
    · refine touches_ite ?_ ?_
      · extract_lets +onlyGivenNames x1
        refine touches_cut_snd x1 ?_ (fun h1 => ?_)
        · unfold x1
          refine touches_after ?_ (chkAcquireOp_touches _ _ _) (by decide)
          exact touches_refl _ _
        clear_value x1
        refine touches_after ?_ (complete_touches _ _ _ _) (by decide)
        assumption
      · refine touches_ite ?_ ?_
        · refine touches_after ?_ (complete_touches _ _ _ _) (by decide)
          exact touches_refl _ _
        · refine touches_ite ?_ ?_
          · refine touches_after ?_ (complete_touches _ _ _ _) (by decide)
            exact touches_refl _ _
          · refine touches_after ?_ (complete_touches _ _ _ _) (by decide)
            exact touches_refl _ _
  · extract_lets +onlyGivenNames x2
    refine touches_cut_snd x2 ?_ (fun h2 => ?_)
    · unfold x2
      refine touches_after ?_ (enabledWord_touches _ _ _) (by decide)
      exact touches_refl _ _
    clear_value x2
    refine touches_ite ?_ ?_
    · refine touches_after ?_ (busWrite_touches _ _ _ _) (by decide)
      assumption
    · refine touches_ite ?_ ?_
      · refine touches_after ?_ (busWrite_touches _ _ _ _) (by decide)
        assumption
      · refine touches_ite ?_ ?_
        · refine touches_after ?_ (busWrite_touches _ _ _ _) (by decide)
          assumption
        · refine touches_ite ?_ ?_
          · refine touches_after ?_ (busWrite_touches _ _ _ _) (by decide)
            assumption
          · refine touches_ite ?_ ?_
            · refine touches_after ?_ (chkReleaseOp_touches _ _ _ _) (by decide)
              assumption
            · refine touches_ite ?_ ?_
              · extract_lets +onlyGivenNames x3
                clear_value x3
                extract_lets +onlyGivenNames x4
                clear_value x4
                refine touches_after ?_ (flushVectors_touches _ _) (by decide)
                refine touches_after ?_ (State.setHost_touches _ _ _) (by decide)
                exact touches_refl _ _
              · exact touches_refl _ _

theorem bar2Eff_touches : ∀ a0 a1 a2 a3 a4,
    Touches (.freeCtr :: .cyc :: .pulses :: .regs :: .sys :: .log :: .spindles :: .encoders :: .encSince :: .timers :: .ptp :: .adcs :: .comparators :: .demods :: .sectors :: .pairs :: .groups :: .tripPins :: .zonePins :: .plate :: .loops :: .place :: .cores :: .aic :: .dma :: .outbound :: .consoles :: .conJobs :: .pipes :: .streams :: .active :: .mover :: .heads :: .audio :: .keepers :: .sec :: .cvs :: .hosts :: .dict :: .canNode :: .aborts :: .iotlb :: .sbOld :: .busyPins :: .tsClaimed :: .mem :: .poison :: .checks :: []) a4 (bar2Eff a0 a1 a2 a3 a4) := by
  intro a0 a1 a2 a3 a4
  unfold bar2Eff
  extract_lets +onlyGivenNames x0
  unfold x0
  clear x0
  split
  · refine touches_ite ?_ ?_
    · refine touches_ite ?_ ?_
      · refine touches_after ?_ (mailAccess_touches _ _ _ _) (by decide)
        exact touches_refl _ _
      · refine touches_after ?_ (bar2High_touches _ _ _ _) (by decide)
        exact touches_refl _ _
    · extract_lets +onlyGivenNames x1
      refine touches_cut x1 ?_ (fun h1 => ?_)
      · unfold x1
        refine touches_after ?_ (inbound_touches _ _) (by decide)
        exact touches_refl _ _
      clear_value x1
      refine touches_ite ?_ ?_
      · refine touches_after ?_ (mailPair_touches _ _ _ _ _) (by decide)
        assumption
      · refine touches_ite ?_ ?_
        · refine touches_ite ?_ ?_
          · refine touches_after ?_ (mailAccess_touches _ _ _ _) (by decide)
            refine touches_ite ?_ ?_
            · refine touches_after ?_ (mailAccess_touches _ _ _ _) (by decide)
              assumption
            · refine touches_after ?_ (bar2High_touches _ _ _ _) (by decide)
              assumption
          · refine touches_after ?_ (bar2High_touches _ _ _ _) (by decide)
            refine touches_ite ?_ ?_
            · refine touches_after ?_ (mailAccess_touches _ _ _ _) (by decide)
              assumption
            · refine touches_after ?_ (bar2High_touches _ _ _ _) (by decide)
              assumption
        · refine touches_ite ?_ ?_
          · refine touches_after ?_ (mailAccess_touches _ _ _ _) (by decide)
            refine touches_ite ?_ ?_
            · refine touches_after ?_ (mailAccess_touches _ _ _ _) (by decide)
              assumption
            · refine touches_after ?_ (bar2High_touches _ _ _ _) (by decide)
              assumption
          · refine touches_after ?_ (bar2High_touches _ _ _ _) (by decide)
            refine touches_ite ?_ ?_
            · refine touches_after ?_ (mailAccess_touches _ _ _ _) (by decide)
              assumption
            · refine touches_after ?_ (bar2High_touches _ _ _ _) (by decide)
              assumption
  · refine touches_ite ?_ ?_
    · refine touches_after ?_ (mailAccess_touches _ _ _ _) (by decide)
      exact touches_refl _ _
    · refine touches_after ?_ (bar2High_touches _ _ _ _) (by decide)
      exact touches_refl _ _

theorem execBar2Access_touches : ∀ a0 a1 a2 a3 a4,
    ∃ t, execBar2Access a0 a1 a2 a3 a4 = .next t ∧ Touches (.freeCtr :: .cyc :: .pulses :: .regs :: .sys :: .log :: .spindles :: .encoders :: .encSince :: .timers :: .ptp :: .adcs :: .comparators :: .demods :: .sectors :: .pairs :: .groups :: .tripPins :: .zonePins :: .plate :: .loops :: .place :: .cores :: .aic :: .dma :: .outbound :: .consoles :: .conJobs :: .pipes :: .streams :: .active :: .mover :: .heads :: .audio :: .keepers :: .sec :: .cvs :: .hosts :: .dict :: .canNode :: .aborts :: .iotlb :: .sbOld :: .busyPins :: .tsClaimed :: .mem :: .poison :: .checks :: []) a4 t := by
  intro a0 a1 a2 a3 a4
  unfold execBar2Access
  refine ⟨_, rfl, ?_⟩
  refine touches_ite ?_ ?_
  · refine touches_after ?_ (bar2Eff_touches _ _ _ _ _) (by decide)
    refine touches_after ?_ (inbound_touches _ _) (by decide)
    exact touches_refl _ _
  · exact touches_refl _ _

end Sys2Proof.Machine
end

