-- ==== Sys2Proof/Laws/TouchDict.lean ====
section
/-! SUPPORT. Which parts of the state the definitions of Machine/Dict.lean touch: one lemma for each, the proofs written by a
script from their shape. -/

namespace Sys2Proof.Machine

theorem refuseDict_touches : ∀ a0 a1,
    Touches [] a1 (refuseDict a0 a1).2 := by
  intro a0 a1
  unfold refuseDict
  dsimp only
  exact touches_refl _ _

theorem freeBytes_touches : ∀ a0 a1,
    Touches [.freeCtr] a1 (freeBytes a0 a1).2 := by
  intro a0 a1
  unfold freeBytes
  dsimp only
  refine touches_after ?_ (takeFree_touches _ _) (by decide)
  exact touches_refl _ _

theorem updateValue_touches : ∀ a0 a1,
    Touches [.freeCtr] a1 (updateValue a0 a1).2 := by
  intro a0 a1
  unfold updateValue
  split
  · dsimp only
    exact touches_refl _ _
  · dsimp only
    exact touches_refl _ _
  · dsimp only
    exact touches_refl _ _
  · dsimp only
    exact touches_refl _ _
  · dsimp only
    exact touches_refl _ _
  · split
    · dsimp only
      exact touches_refl _ _
    · refine touches_after ?_ (freeBytes_touches _ _) (by decide)
      exact touches_refl _ _
  · split
    · dsimp only
      exact touches_refl _ _
    · refine touches_after ?_ (freeBytes_touches _ _) (by decide)
      exact touches_refl _ _

theorem objValue_touches : ∀ a0 a1 a2 a3 a4,
    Touches (.freeCtr :: .cyc :: .regs :: .shadow :: .sectors :: .plate :: .place :: .aic :: .streams :: .mover :: .audio :: .cvs :: .cans :: .tsClaimed :: .mem :: .poison :: []) a4 (objValue a0 a1 a2 a3 a4).2 := by
  intro a0 a1 a2 a3 a4
  unfold objValue
  extract_lets +onlyGivenNames x0
  unfold x0
  clear x0
  split
  · dsimp only
    exact touches_refl _ _
  · dsimp only
    exact touches_refl _ _
  · extract_lets +onlyGivenNames x1
    clear_value x1
    dsimp only
    exact touches_refl _ _
  · refine touches_ite_snd ?_ ?_
    · dsimp only
      exact touches_refl _ _
    · dsimp only
      exact touches_refl _ _
  · refine touches_ite_snd ?_ ?_
    · dsimp only
      exact touches_refl _ _
    · dsimp only
      exact touches_refl _ _
  · dsimp only
    exact touches_refl _ _
  · refine touches_ite_snd ?_ ?_
    · dsimp only
      exact touches_refl _ _
    · extract_lets +onlyGivenNames x2
      refine touches_cut x2 ?_ (fun h2 => ?_)
      · unfold x2
        refine touches_after ?_ (plQueryOp_touches _ _ _) (by decide)
        exact touches_refl _ _
      clear_value x2
      dsimp only
      assumption
  · split
    · dsimp only
      exact touches_refl _ _
    · dsimp only
      exact touches_refl _ _
    · dsimp only
      exact touches_refl _ _
    · dsimp only
      exact touches_refl _ _
    · dsimp only
      exact touches_refl _ _
    · refine touches_after ?_ (freeBytes_touches _ _) (by decide)
      exact touches_refl _ _
    · dsimp only
      exact touches_refl _ _
  · dsimp only
    exact touches_refl _ _
  · dsimp only
    exact touches_refl _ _
  · refine touches_after ?_ (updateValue_touches _ _) (by decide)
    exact touches_refl _ _
  · refine touches_ite_snd ?_ ?_
    · dsimp only
      exact touches_refl _ _
    · refine touches_after ?_ (freeBytes_touches _ _) (by decide)
      exact touches_refl _ _
  · refine touches_after ?_ (freeBytes_touches _ _) (by decide)
    exact touches_refl _ _
  · refine touches_after ?_ (freeBytes_touches _ _) (by decide)
    exact touches_refl _ _
  · dsimp only
    exact touches_refl _ _
  · refine touches_ite_snd ?_ ?_
    · dsimp only
      exact touches_refl _ _
    · refine touches_ite_snd ?_ ?_
      · refine touches_after ?_ (freeBytes_touches _ _) (by decide)
        exact touches_refl _ _
      · dsimp only
        exact touches_refl _ _
  · extract_lets +onlyGivenNames x3
    refine touches_cut_snd x3 ?_ (fun h3 => ?_)
    · unfold x3
      refine touches_after ?_ (busRead_touches _ _ _) (by decide)
      exact touches_refl _ _
    clear_value x3
    dsimp only
    assumption
  · extract_lets +onlyGivenNames x4
    refine touches_cut_snd x4 ?_ (fun h4 => ?_)
    · unfold x4
      refine touches_after ?_ (busRead_touches _ _ _) (by decide)
      exact touches_refl _ _
    clear_value x4
    dsimp only
    assumption
  · dsimp only
    exact touches_refl _ _

theorem buildQuote_touches : ∀ a0 a1,
    Touches [.freeCtr, .sec] a1 (buildQuote a0 a1) := by
  intro a0 a1
  unfold buildQuote
  extract_lets +onlyGivenNames x0
  refine touches_cut_snd x0 ?_ (fun h0 => ?_)
  · unfold x0
    refine touches_after ?_ (takeFree_touches _ _) (by decide)
    exact touches_refl _ _
  clear_value x0
  extract_lets +onlyGivenNames x1
  refine touches_cut_snd x1 ?_ (fun h1 => ?_)
  · unfold x1
    split
    · dsimp only
      assumption
    · dsimp only
      refine touches_after ?_ (takeFree_touches _ _) (by decide)
      assumption
  clear_value x1
  extract_lets +onlyGivenNames x2
  clear_value x2
  extract_lets +onlyGivenNames x3
  clear_value x3
  extract_lets +onlyGivenNames x4
  refine touches_cut x4 ?_ (fun h4 => ?_)
  · unfold x4
    assumption
  refine touches_after ?_ (touch_sec _ (by rfl) (by rfl)) (by decide)
  assumption

theorem quoteRead_touches : ∀ a0 a1 a2 a3,
    Touches [.freeCtr, .sec] a3 (quoteRead a0 a1 a2 a3).2 := by
  intro a0 a1 a2 a3
  unfold quoteRead
  extract_lets +onlyGivenNames x0
  clear_value x0
  refine touches_ite_snd ?_ ?_
  · refine touches_after ?_ (refuseDict_touches _ _) (by decide)
    exact touches_refl _ _
  · extract_lets +onlyGivenNames x1
    refine touches_cut x1 ?_ (fun h1 => ?_)
    · unfold x1
      refine touches_ite ?_ ?_
      · refine touches_after ?_ (buildQuote_touches _ _) (by decide)
        exact touches_refl _ _
      · exact touches_refl _ _
    clear_value x1
    dsimp only
    assumption

theorem issueChallenge_touches : ∀ a0,
    Touches [.freeCtr, .sec] a0 (issueChallenge a0) := by
  intro a0
  unfold issueChallenge
  extract_lets +onlyGivenNames x0
  refine touches_cut_snd x0 ?_ (fun h0 => ?_)
  · unfold x0
    refine touches_after ?_ (trngBytes_touches _ _) (by decide)
    exact touches_refl _ _
  clear_value x0
  extract_lets +onlyGivenNames x1
  clear_value x1
  extract_lets +onlyGivenNames x2
  clear_value x2
  extract_lets +onlyGivenNames x3
  refine touches_cut x3 ?_ (fun h3 => ?_)
  · unfold x3
    assumption
  refine touches_after ?_ (touch_sec _ (by rfl) (by rfl)) (by decide)
  assumption

theorem challengeRead_touches : ∀ a0 a1 a2,
    Touches [.freeCtr, .sec] a2 (challengeRead a0 a1 a2).2 := by
  intro a0 a1 a2
  unfold challengeRead
  refine touches_ite_snd ?_ ?_
  · refine touches_after ?_ (refuseDict_touches _ _) (by decide)
    exact touches_refl _ _
  · extract_lets +onlyGivenNames x0
    refine touches_cut x0 ?_ (fun h0 => ?_)
    · unfold x0
      refine touches_ite ?_ ?_
      · refine touches_after ?_ (issueChallenge_touches _) (by decide)
        exact touches_refl _ _
      · exact touches_refl _ _
    clear_value x0
    dsimp only
    assumption

theorem debugResponse_touches : ∀ a0 a1,
    Touches [.freeCtr, .regs, .log, .sec, .canNode, .unlock] a1 (debugResponse a0 a1).2 := by
  intro a0 a1
  unfold debugResponse
  extract_lets +onlyGivenNames x0
  extract_lets +onlyGivenNames x1
  refine touches_cut x1 ?_ (fun h1 => ?_)
  · unfold x1
    refine touches_after ?_ (touch_sec _ (by rfl) (by rfl)) (by decide)
    exact touches_refl _ _
  clear_value x1
  split
  · dsimp only
    refine touches_after ?_ (logSecurity_touches _ _ _ _) (by decide)
    assumption
  · refine touches_ite_snd ?_ ?_
    · dsimp only
      refine touches_after ?_ (logSecurity_touches _ _ _ _) (by decide)
      refine touches_after ?_ (touch_sec_unlock _ (by rfl)) (by decide)
      assumption
    · dsimp only
      refine touches_after ?_ (logSecurity_touches _ _ _ _) (by decide)
      assumption

theorem eraseReached_touches : ∀ a0 a1 a2 a3,
    Touches [.sec, .nor] a3 (eraseReached a0 a1 a2 a3) := by
  intro a0 a1 a2 a3
  unfold eraseReached
  refine touches_forEach (fun _ _ _ => ?_) ?_
  · extract_lets +onlyGivenNames x0
    refine touches_cut x0 ?_ (fun h0 => ?_)
    · unfold x0
      refine touches_after ?_ (State.norErase_touches _ _ _) (by decide)
      assumption
    clear_value x0
    refine touches_after ?_ (touch_sec _ (by rfl) (by rfl)) (by decide)
    assumption
  · exact touches_refl _ _

theorem endTransfer_touches : ∀ a0 a1 a2,
    Touches [.dict] a2 (endTransfer a0 a1 a2) := by
  intro a0 a1 a2
  unfold endTransfer
  refine touches_after ?_ (touch_dict _) (by decide)
  exact touches_refl _ _

theorem keepTransfer_touches : ∀ a0 a1 a2 a3 a4,
    Touches [.dict] a4 (keepTransfer a0 a1 a2 a3 a4) := by
  intro a0 a1 a2 a3 a4
  unfold keepTransfer
  extract_lets +onlyGivenNames x0
  refine touches_cut x0 ?_ (fun h0 => ?_)
  · unfold x0
    refine touches_after ?_ (endTransfer_touches _ _ _) (by decide)
    exact touches_refl _ _
  clear_value x0
  refine touches_after ?_ (touch_dict _) (by decide)
  assumption

theorem imageWrite_touches : ∀ a0 a1 a2 a3 a4 a5 a6,
    Touches [.sec, .dict, .nor] a6 (imageWrite a0 a1 a2 a3 a4 a5 a6).2 := by
  intro a0 a1 a2 a3 a4 a5 a6
  unfold imageWrite
  extract_lets +onlyGivenNames x0
  clear_value x0
  refine touches_ite_snd ?_ ?_
  · refine touches_after ?_ (refuseDict_touches _ _) (by decide)
    exact touches_refl _ _
  · refine touches_ite_snd ?_ ?_
    · refine touches_after ?_ (refuseDict_touches _ _) (by decide)
      exact touches_refl _ _
    · extract_lets +onlyGivenNames x1
      extract_lets +onlyGivenNames x2
      refine touches_cut x2 ?_ (fun h2 => ?_)
      · unfold x2
        refine touches_ite ?_ ?_
        · exact touches_refl _ _
        · refine touches_after ?_ (touch_sec _ (by rfl) (by rfl)) (by decide)
          exact touches_refl _ _
      clear_value x2
      extract_lets +onlyGivenNames x3
      extract_lets +onlyGivenNames x4
      refine touches_cut x4 ?_ (fun h4 => ?_)
      · unfold x4
        refine touches_after ?_ (touch_sec _ (by rfl) (by rfl)) (by decide)
        assumption
      clear_value x4
      extract_lets +onlyGivenNames x5
      refine touches_cut x5 ?_ (fun h5 => ?_)
      · unfold x5
        refine touches_after ?_ (State.norProgram_touches _ _ _) (by decide)
        refine touches_after ?_ (eraseReached_touches _ _ _ _) (by decide)
        assumption
      clear_value x5
      refine touches_ite_snd ?_ ?_
      · refine touches_after ?_ (refuseDict_touches _ _) (by decide)
        refine touches_after ?_ (endTransfer_touches _ _ _) (by decide)
        assumption
      · extract_lets +onlyGivenNames x6
        refine touches_cut x6 ?_ (fun h6 => ?_)
        · unfold x6
          refine touches_ite ?_ ?_
          · refine touches_after ?_ (endTransfer_touches _ _ _) (by decide)
            assumption
          · refine touches_after ?_ (keepTransfer_touches _ _ _ _ _) (by decide)
            assumption
        clear_value x6
        dsimp only
        assumption

theorem imageVerify_touches : ∀ a0 a1,
    Touches [.sec] a1 (imageVerify a0 a1).2 := by
  intro a0 a1
  unfold imageVerify
  extract_lets +onlyGivenNames x0
  clear_value x0
  extract_lets +onlyGivenNames x1
  clear_value x1
  dsimp only
  refine touches_after ?_ (touch_sec _ (by rfl) (by rfl)) (by decide)
  exact touches_refl _ _

theorem imageActivate_touches : ∀ a0 a1,
    Touches [.sec] a1 (imageActivate a0 a1).2 := by
  intro a0 a1
  unfold imageActivate
  refine touches_ite_snd ?_ ?_
  · dsimp only
    refine touches_after ?_ (setBootRec_touches _ _) (by decide)
    exact touches_refl _ _
  · dsimp only
    exact touches_refl _ _

theorem blowRevocations_touches : ∀ a0 a1,
    Touches [.sec, .otp] a1 (blowRevocations a0 a1) := by
  intro a0 a1
  unfold blowRevocations
  refine touches_forEach (fun _ _ _ => ?_) ?_
  · refine touches_ite ?_ ?_
    · refine touches_after ?_ (blowBit_touches _ _ _) (by decide)
      assumption
    · assumption
  · exact touches_refl _ _

theorem imageConfirm_touches : ∀ a0,
    Touches [.sec, .otp] a0 (imageConfirm a0).2 := by
  intro a0
  unfold imageConfirm
  extract_lets +onlyGivenNames x0
  clear_value x0
  refine touches_ite_snd ?_ ?_
  · dsimp only
    exact touches_refl _ _
  · extract_lets +onlyGivenNames x1
    clear_value x1
    extract_lets +onlyGivenNames x2
    clear_value x2
    extract_lets +onlyGivenNames x3
    clear_value x3
    dsimp only
    refine touches_after ?_ (blowRevocations_touches _ _) (by decide)
    refine touches_after ?_ (raiseCounter_touches _ _) (by decide)
    refine touches_after ?_ (setBootRec_touches _ _) (by decide)
    exact touches_refl _ _

theorem resetRequest_touches : ∀ a0 a1,
    Touches [.sys] a1 (resetRequest a0 a1).2 := by
  intro a0 a1
  unfold resetRequest
  refine touches_ite_snd ?_ ?_
  · dsimp only
    exact touches_refl _ _
  · refine touches_ite_snd ?_ ?_
    · dsimp only
      exact touches_refl _ _
    · extract_lets +onlyGivenNames x0
      clear_value x0
      dsimp only
      refine touches_after ?_ (touch_sys _ (by rfl)) (by decide)
      exact touches_refl _ _

theorem storeSave_touches : ∀ a0 a1,
    Touches [.dict] a1 (storeSave a0 a1).2 := by
  intro a0 a1
  unfold storeSave
  refine touches_ite_snd ?_ ?_
  · dsimp only
    exact touches_refl _ _
  · dsimp only
    refine touches_after ?_ (touch_dict _) (by decide)
    exact touches_refl _ _

theorem restoreLoad_touches : ∀ a0 a1,
    Touches [.dict] a1 (restoreLoad a0 a1).2 := by
  intro a0 a1
  unfold restoreLoad
  refine touches_ite_snd ?_ ?_
  · dsimp only
    exact touches_refl _ _
  · dsimp only
    refine touches_after ?_ (touch_dict _) (by decide)
    exact touches_refl _ _

theorem armObject_touches : ∀ a0 a1 a2,
    Touches [.regs, .groups] a2 (armObject a0 a1 a2).2 := by
  intro a0 a1 a2
  unfold armObject
  refine touches_ite_snd ?_ ?_
  · dsimp only
    refine touches_after ?_ (armRequest_touches _ _) (by decide)
    exact touches_refl _ _
  · dsimp only
    exact touches_refl _ _

theorem placeObject_touches : ∀ a0 a1 a2 a3 a4,
    Touches [.regs, .place] a4 (placeObject a0 a1 a2 a3 a4).2 := by
  intro a0 a1 a2 a3 a4
  unfold placeObject
  extract_lets +onlyGivenNames x0
  clear_value x0
  refine touches_ite_snd ?_ ?_
  · dsimp only
    exact touches_refl _ _
  · refine touches_ite_snd ?_ ?_
    · dsimp only
      refine touches_after ?_ (State.setReg_touches _ _ _) (by decide)
      exact touches_refl _ _
    · refine touches_ite_snd ?_ ?_
      · dsimp only
        refine touches_after ?_ (plSubmitOp_touches _ _) (by decide)
        exact touches_refl _ _
      · refine touches_ite_snd ?_ ?_
        · dsimp only
          refine touches_after ?_ (plCommitOp_touches _ _) (by decide)
          exact touches_refl _ _
        · dsimp only
          exact touches_refl _ _

theorem setOwn_touches : ∀ a0 a1 a2 a3 a4,
    Touches [.dict] a4 (setOwn a0 a1 a2 a3 a4).2 := by
  intro a0 a1 a2 a3 a4
  unfold setOwn
  refine touches_ite_snd ?_ ?_
  · dsimp only
    exact touches_refl _ _
  · extract_lets +onlyGivenNames x0
    clear_value x0
    dsimp only
    refine touches_after ?_ (touch_dict _) (by decide)
    exact touches_refl _ _

theorem objApply_touches : ∀ a0 a1 a2 a3 a4 a5,
    Touches (.freeCtr :: .cyc :: .pulses :: .regs :: .sys :: .log :: .spindles :: .encoders :: .encSince :: .timers :: .ptp :: .adcs :: .comparators :: .demods :: .sectors :: .pairs :: .groups :: .tripPins :: .zonePins :: .plate :: .loops :: .place :: .cores :: .aic :: .dma :: .outbound :: .consoles :: .conJobs :: .pipes :: .streams :: .active :: .mover :: .heads :: .audio :: .keepers :: .sec :: .cvs :: .hosts :: .dict :: .canNode :: .aborts :: .iotlb :: .sbOld :: .tsClaimed :: .otp :: .unlock :: []) a5 (objApply a0 a1 a2 a3 a4 a5).2 := by
  intro a0 a1 a2 a3 a4 a5
  unfold objApply
  extract_lets +onlyGivenNames x0
  clear_value x0
  split
  · refine touches_after ?_ (storeSave_touches _ _) (by decide)
    exact touches_refl _ _
  · refine touches_after ?_ (restoreLoad_touches _ _) (by decide)
    exact touches_refl _ _
  · refine touches_ite_snd ?_ ?_
    · dsimp only
      exact touches_refl _ _
    · dsimp only
      refine touches_after ?_ (abortWord_touches _ _ _) (by decide)
      exact touches_refl _ _
  · refine touches_after ?_ (resetRequest_touches _ _) (by decide)
    exact touches_refl _ _
  · refine touches_after ?_ (armObject_touches _ _ _) (by decide)
    exact touches_refl _ _
  · refine touches_after ?_ (placeObject_touches _ _ _ _ _) (by decide)
    exact touches_refl _ _
  · refine touches_after ?_ (placeObject_touches _ _ _ _ _) (by decide)
    exact touches_refl _ _
  · refine touches_ite_snd ?_ ?_
    · refine touches_after ?_ (imageVerify_touches _ _) (by decide)
      exact touches_refl _ _
    · dsimp only
      exact touches_refl _ _
  · refine touches_ite_snd ?_ ?_
    · refine touches_after ?_ (imageActivate_touches _ _) (by decide)
      exact touches_refl _ _
    · dsimp only
      exact touches_refl _ _
  · refine touches_ite_snd ?_ ?_
    · refine touches_after ?_ (imageConfirm_touches _) (by decide)
      exact touches_refl _ _
    · dsimp only
      exact touches_refl _ _
  · dsimp only
    refine touches_after ?_ (touch_sec _ (by rfl) (by rfl)) (by decide)
    exact touches_refl _ _
  · split
    · refine touches_after ?_ (debugResponse_touches _ _) (by decide)
      exact touches_refl _ _
    · refine touches_ite_snd ?_ ?_
      · dsimp only
        refine touches_after ?_ (touch_sec_unlock _ (by rfl)) (by decide)
        exact touches_refl _ _
      · dsimp only
        exact touches_refl _ _
    · refine touches_ite_snd ?_ ?_
      · dsimp only
        refine touches_after ?_ (touch_sec _ (by rfl) (by rfl)) (by decide)
        exact touches_refl _ _
      · dsimp only
        exact touches_refl _ _
  · dsimp only
    refine touches_after ?_ (busWrite_touches _ _ _ _) (by decide)
    exact touches_refl _ _
  · refine touches_after ?_ (setOwn_touches _ _ _ _ _) (by decide)
    exact touches_refl _ _

theorem dictReadOp_touches : ∀ a0 a1 a2 a3 a4 a5,
    Touches (.freeCtr :: .cyc :: .regs :: .shadow :: .sectors :: .plate :: .place :: .aic :: .streams :: .mover :: .audio :: .sec :: .cvs :: .cans :: .tsClaimed :: .mem :: .poison :: []) a5 (dictReadOp a0 a1 a2 a3 a4 a5).2 := by
  intro a0 a1 a2 a3 a4 a5
  unfold dictReadOp
  split
  · refine touches_after ?_ (refuseDict_touches _ _) (by decide)
    exact touches_refl _ _
  · split
    · refine touches_ite_snd ?_ ?_
      · dsimp only
        exact touches_refl _ _
      · extract_lets +onlyGivenNames x0
        clear_value x0
        dsimp only
        exact touches_refl _ _
    · extract_lets +onlyGivenNames x1
      clear_value x1
      refine touches_ite_snd ?_ ?_
      · dsimp only
        exact touches_refl _ _
      · extract_lets +onlyGivenNames x2
        clear_value x2
        dsimp only
        exact touches_refl _ _
    · refine touches_after ?_ (quoteRead_touches _ _ _ _) (by decide)
      exact touches_refl _ _
    · dsimp only
      exact touches_refl _ _
    · refine touches_after ?_ (challengeRead_touches _ _ _) (by decide)
      exact touches_refl _ _
    · dsimp only
      refine touches_after ?_ (objValue_touches _ _ _ _ _) (by decide)
      exact touches_refl _ _

theorem spliceData_touches : ∀ a0 a1 a2 a3,
    Touches [.freeCtr] a3 (spliceData a0 a1 a2 a3).2 := by
  intro a0 a1 a2 a3
  unfold spliceData
  refine touches_ite_snd ?_ ?_
  · extract_lets +onlyGivenNames x0
    refine touches_cut_snd x0 ?_ (fun h0 => ?_)
    · unfold x0
      refine touches_after ?_ (freeBytes_touches _ _) (by decide)
      exact touches_refl _ _
    clear_value x0
    dsimp only
    assumption
  · dsimp only
    exact touches_refl _ _

theorem dictApply_touches : ∀ a0 a1 a2 a3 a4 a5 a6,
    Touches (.freeCtr :: .cyc :: .pulses :: .regs :: .sys :: .log :: .spindles :: .encoders :: .encSince :: .timers :: .ptp :: .adcs :: .comparators :: .demods :: .sectors :: .pairs :: .groups :: .tripPins :: .zonePins :: .plate :: .loops :: .place :: .cores :: .aic :: .dma :: .outbound :: .consoles :: .conJobs :: .pipes :: .streams :: .active :: .mover :: .heads :: .audio :: .keepers :: .sec :: .cvs :: .hosts :: .dict :: .canNode :: .aborts :: .iotlb :: .sbOld :: .tsClaimed :: .otp :: .unlock :: []) a6 (dictApply a0 a1 a2 a3 a4 a5 a6).2 := by
  intro a0 a1 a2 a3 a4 a5 a6
  unfold dictApply
  extract_lets +onlyGivenNames x0
  refine touches_cut_snd x0 ?_ (fun h0 => ?_)
  · unfold x0
    refine touches_after ?_ (objApply_touches _ _ _ _ _ _) (by decide)
    refine touches_after ?_ (endTransfer_touches _ _ _) (by decide)
    exact touches_refl _ _
  clear_value x0
  refine touches_ite_snd ?_ ?_
  · dsimp only
    assumption
  · refine touches_after ?_ (refuseDict_touches _ _) (by decide)
    assumption

theorem dictWriteOp_touches : ∀ a0 a1 a2 a3 a4 a5 a6 a7,
    Touches (.freeCtr :: .cyc :: .pulses :: .regs :: .sys :: .log :: .spindles :: .encoders :: .encSince :: .timers :: .ptp :: .adcs :: .comparators :: .demods :: .sectors :: .pairs :: .groups :: .tripPins :: .zonePins :: .plate :: .loops :: .place :: .cores :: .aic :: .dma :: .outbound :: .consoles :: .conJobs :: .pipes :: .streams :: .active :: .mover :: .heads :: .audio :: .keepers :: .sec :: .cvs :: .hosts :: .dict :: .canNode :: .aborts :: .iotlb :: .sbOld :: .tsClaimed :: .nor :: .otp :: .unlock :: []) a7 (dictWriteOp a0 a1 a2 a3 a4 a5 a6 a7).2 := by
  intro a0 a1 a2 a3 a4 a5 a6 a7
  unfold dictWriteOp
  split
  · refine touches_after ?_ (refuseDict_touches _ _) (by decide)
    exact touches_refl _ _
  · extract_lets +onlyGivenNames x0
    clear_value x0
    extract_lets +onlyGivenNames x1
    clear_value x1
    refine touches_ite_snd ?_ ?_
    · refine touches_after ?_ (refuseDict_touches _ _) (by decide)
      exact touches_refl _ _
    · refine touches_ite_snd ?_ ?_
      · refine touches_ite_snd ?_ ?_
        · refine touches_after ?_ (refuseDict_touches _ _) (by decide)
          exact touches_refl _ _
        · refine touches_ite_snd ?_ ?_
          · refine touches_after ?_ (refuseDict_touches _ _) (by decide)
            exact touches_refl _ _
          · refine touches_after ?_ (dictApply_touches _ _ _ _ _ _ _) (by decide)
            exact touches_refl _ _
      · refine touches_ite_snd ?_ ?_
        · refine touches_after ?_ (refuseDict_touches _ _) (by decide)
          exact touches_refl _ _
        · refine touches_ite_snd ?_ ?_
          · refine touches_after ?_ (imageWrite_touches _ _ _ _ _ _ _) (by decide)
            exact touches_refl _ _
          · extract_lets +onlyGivenNames x2
            clear_value x2
            extract_lets +onlyGivenNames x3
            refine touches_cut_snd x3 ?_ (fun h3 => ?_)
            · unfold x3
              refine touches_after ?_ (spliceData_touches _ _ _ _) (by decide)
              exact touches_refl _ _
            clear_value x3
            refine touches_ite_snd ?_ ?_
            · refine touches_after ?_ (dictApply_touches _ _ _ _ _ _ _) (by decide)
              assumption
            · refine touches_ite_snd ?_ ?_
              · refine touches_after ?_ (refuseDict_touches _ _) (by decide)
                refine touches_after ?_ (endTransfer_touches _ _ _) (by decide)
                assumption
              · dsimp only
                refine touches_after ?_ (keepTransfer_touches _ _ _ _ _) (by decide)
                assumption

theorem dictDescribeOp_touches : ∀ a0 a1 a2 a3,
    Touches [] a3 (dictDescribeOp a0 a1 a2 a3).2 := by
  intro a0 a1 a2 a3
  unfold dictDescribeOp
  split
  · refine touches_after ?_ (refuseDict_touches _ _) (by decide)
    exact touches_refl _ _
  · dsimp only
    exact touches_refl _ _

theorem carried_touches : ∀ a0 a1,
    Touches [.freeCtr, .cyc, .regs] a1 (carried a0 a1).2 := by
  intro a0 a1
  unfold carried
  refine touches_ite_snd ?_ ?_
  · dsimp only
    exact touches_refl _ _
  · refine touches_ite_snd ?_ ?_
    · refine touches_after ?_ (freeBytes_touches _ _) (by decide)
      refine touches_after ?_ (countPoisoned_touches _) (by decide)
      exact touches_refl _ _
    · refine touches_ite_snd ?_ ?_
      · refine touches_after ?_ (freeBytes_touches _ _) (by decide)
        exact touches_refl _ _
      · dsimp only
        exact touches_refl _ _

theorem dictPerform_touches : ∀ a0 a1,
    Touches (.freeCtr :: .cyc :: .pulses :: .regs :: .shadow :: .sys :: .log :: .spindles :: .encoders :: .encSince :: .timers :: .ptp :: .adcs :: .comparators :: .demods :: .sectors :: .pairs :: .groups :: .tripPins :: .zonePins :: .plate :: .loops :: .place :: .cores :: .aic :: .dma :: .outbound :: .consoles :: .conJobs :: .pipes :: .streams :: .active :: .mover :: .heads :: .audio :: .keepers :: .sec :: .cvs :: .hosts :: .dict :: .canNode :: .cans :: .aborts :: .iotlb :: .sbOld :: .tsClaimed :: .mem :: .nor :: .poison :: .otp :: .unlock :: []) a1 (dictPerform a0 a1).2 := by
  intro a0 a1
  unfold dictPerform
  refine touches_ite_snd ?_ ?_
  · extract_lets +onlyGivenNames x0
    refine touches_cut_snd x0 ?_ (fun h0 => ?_)
    · unfold x0
      refine touches_after ?_ (takeFree_touches _ _) (by decide)
      exact touches_refl _ _
    clear_value x0
    dsimp only
    assumption
  · refine touches_ite_snd ?_ ?_
    · refine touches_after ?_ (dictReadOp_touches _ _ _ _ _ _) (by decide)
      exact touches_refl _ _
    · refine touches_ite_snd ?_ ?_
      · extract_lets +onlyGivenNames x1
        refine touches_cut_snd x1 ?_ (fun h1 => ?_)
        · unfold x1
          refine touches_after ?_ (carried_touches _ _) (by decide)
          exact touches_refl _ _
        clear_value x1
        refine touches_after ?_ (dictWriteOp_touches _ _ _ _ _ _ _ _) (by decide)
        assumption
      · refine touches_after ?_ (dictDescribeOp_touches _ _ _ _) (by decide)
        exact touches_refl _ _

theorem horanoAnswer_touches : ∀ a0 a1 a2,
    Touches [.macs] a2 (horanoAnswer a0 a1 a2) := by
  intro a0 a1 a2
  unfold horanoAnswer
  extract_lets +onlyGivenNames x0
  clear_value x0
  extract_lets +onlyGivenNames x1
  clear_value x1
  extract_lets +onlyGivenNames x2
  clear_value x2
  extract_lets +onlyGivenNames x3
  clear_value x3
  extract_lets +onlyGivenNames x4
  clear_value x4
  refine touches_after ?_ (touch_macs _) (by decide)
  exact touches_refl _ _

theorem dictDeliver_touches : ∀ a0 a1 a2,
    Touches (.freeCtr :: .regs :: .plate :: .cores :: .dict :: .canNode :: .macs :: .mem :: .poison :: []) a2 (dictDeliver a0 a1 a2) := by
  intro a0 a1 a2
  unfold dictDeliver
  refine touches_ite ?_ ?_
  · extract_lets +onlyGivenNames x0
    refine touches_cut_snd x0 ?_ (fun h0 => ?_)
    · unfold x0
      refine touches_ite_snd ?_ ?_
      · refine touches_after ?_ (freeBytes_touches _ _) (by decide)
        exact touches_refl _ _
      · dsimp only
        exact touches_refl _ _
    clear_value x0
    extract_lets +onlyGivenNames x1
    refine touches_cut x1 ?_ (fun h1 => ?_)
    · unfold x1
      refine touches_ite ?_ ?_
      · exact touches_refl _ _
      · refine touches_after ?_ (memWrite_touches _ _ _ _) (by decide)
        assumption
    clear_value x1
    refine touches_after ?_ (touch_dict _) (by decide)
    assumption
  · refine touches_ite ?_ ?_
    · refine touches_after ?_ (nodeSend_touches _ _ _) (by decide)
      exact touches_refl _ _
    · refine touches_after ?_ (horanoAnswer_touches _ _ _) (by decide)
      exact touches_refl _ _

theorem dictServe_touches : ∀ a0 a1,
    Touches (.freeCtr :: .cyc :: .pulses :: .regs :: .shadow :: .sys :: .log :: .spindles :: .encoders :: .encSince :: .timers :: .ptp :: .adcs :: .comparators :: .demods :: .sectors :: .pairs :: .groups :: .tripPins :: .zonePins :: .plate :: .loops :: .place :: .cores :: .aic :: .dma :: .outbound :: .consoles :: .conJobs :: .pipes :: .streams :: .active :: .mover :: .heads :: .audio :: .keepers :: .sec :: .cvs :: .hosts :: .dict :: .canNode :: .cans :: .macs :: .aborts :: .iotlb :: .sbOld :: .tsClaimed :: .mem :: .nor :: .poison :: .otp :: .unlock :: []) a1 (dictServe a0 a1) := by
  intro a0 a1
  unfold dictServe
  split
  · exact touches_refl _ _
  · refine touches_ite ?_ ?_
    · extract_lets +onlyGivenNames x0
      clear_value x0
      extract_lets +onlyGivenNames x1
      refine touches_cut_snd x1 ?_ (fun h1 => ?_)
      · unfold x1
        refine touches_after ?_ (dictPerform_touches _ _) (by decide)
        refine touches_after ?_ (touch_dict _) (by decide)
        exact touches_refl _ _
      clear_value x1
      refine touches_after ?_ (dictDeliver_touches _ _ _) (by decide)
      assumption
    · exact touches_refl _ _

theorem execDictRead_touches : ∀ a0,
    ∃ t, execDictRead a0 = .next t ∧ Touches (.freeCtr :: .cyc :: .pulses :: .regs :: .shadow :: .sys :: .log :: .spindles :: .encoders :: .encSince :: .timers :: .ptp :: .adcs :: .comparators :: .demods :: .sectors :: .pairs :: .groups :: .tripPins :: .zonePins :: .plate :: .loops :: .place :: .cores :: .aic :: .dma :: .outbound :: .consoles :: .conJobs :: .pipes :: .streams :: .active :: .mover :: .heads :: .audio :: .keepers :: .sec :: .cvs :: .hosts :: .dict :: .canNode :: .cans :: .macs :: .aborts :: .iotlb :: .sbOld :: .tsClaimed :: .mem :: .nor :: .poison :: .otp :: .unlock :: []) a0 t := by
  intro a0
  unfold execDictRead
  refine ⟨_, rfl, ?_⟩
  refine touches_after ?_ (dictServe_touches _ _) (by decide)
  exact touches_refl _ _

theorem execDictWrite_touches : ∀ a0,
    ∃ t, execDictWrite a0 = .next t ∧ Touches (.freeCtr :: .cyc :: .pulses :: .regs :: .shadow :: .sys :: .log :: .spindles :: .encoders :: .encSince :: .timers :: .ptp :: .adcs :: .comparators :: .demods :: .sectors :: .pairs :: .groups :: .tripPins :: .zonePins :: .plate :: .loops :: .place :: .cores :: .aic :: .dma :: .outbound :: .consoles :: .conJobs :: .pipes :: .streams :: .active :: .mover :: .heads :: .audio :: .keepers :: .sec :: .cvs :: .hosts :: .dict :: .canNode :: .cans :: .macs :: .aborts :: .iotlb :: .sbOld :: .tsClaimed :: .mem :: .nor :: .poison :: .otp :: .unlock :: []) a0 t := by
  intro a0
  unfold execDictWrite
  refine ⟨_, rfl, ?_⟩
  refine touches_after ?_ (dictServe_touches _ _) (by decide)
  exact touches_refl _ _

theorem execDictDescribe_touches : ∀ a0,
    ∃ t, execDictDescribe a0 = .next t ∧ Touches (.freeCtr :: .cyc :: .pulses :: .regs :: .shadow :: .sys :: .log :: .spindles :: .encoders :: .encSince :: .timers :: .ptp :: .adcs :: .comparators :: .demods :: .sectors :: .pairs :: .groups :: .tripPins :: .zonePins :: .plate :: .loops :: .place :: .cores :: .aic :: .dma :: .outbound :: .consoles :: .conJobs :: .pipes :: .streams :: .active :: .mover :: .heads :: .audio :: .keepers :: .sec :: .cvs :: .hosts :: .dict :: .canNode :: .cans :: .macs :: .aborts :: .iotlb :: .sbOld :: .tsClaimed :: .mem :: .nor :: .poison :: .otp :: .unlock :: []) a0 t := by
  intro a0
  unfold execDictDescribe
  refine ⟨_, rfl, ?_⟩
  refine touches_after ?_ (dictServe_touches _ _) (by decide)
  exact touches_refl _ _

theorem shownReply_touches : ∀ a0 a1 a2,
    Touches [.freeCtr] a2 (shownReply a0 a1 a2).2 := by
  intro a0 a1 a2
  unfold shownReply
  refine touches_ite_snd ?_ ?_
  · extract_lets +onlyGivenNames x0
    refine touches_cut_snd x0 ?_ (fun h0 => ?_)
    · unfold x0
      refine touches_after ?_ (takeFree_touches _ _) (by decide)
      exact touches_refl _ _
    clear_value x0
    dsimp only
    assumption
  · dsimp only
    exact touches_refl _ _

theorem dictDoneEff_touches : ∀ a0,
    Touches [.freeCtr, .cyc, .regs, .hosts, .dict] a0 (dictDoneEff a0) := by
  intro a0
  unfold dictDoneEff
  split
  · exact touches_refl _ _
  · extract_lets +onlyGivenNames x0
    clear_value x0
    extract_lets +onlyGivenNames x1
    refine touches_cut x1 ?_ (fun h1 => ?_)
    · unfold x1
      refine touches_after ?_ (shownReply_touches _ _ _) (by decide)
      exact touches_refl _ _
    clear_value x1
    extract_lets +onlyGivenNames x2
    clear_value x2
    extract_lets +onlyGivenNames x3
    refine touches_cut x3 ?_ (fun h3 => ?_)
    · unfold x3
      refine touches_after ?_ (touch_dict _) (by decide)
      assumption
    clear_value x3
    refine touches_ite ?_ ?_
    · extract_lets +onlyGivenNames x4
      clear_value x4
      extract_lets +onlyGivenNames x5
      refine touches_cut x5 ?_ (fun h5 => ?_)
      · unfold x5
        refine touches_after ?_ (setEvent_touches _ _ _) (by decide)
        refine touches_after ?_ (State.setBit_touches _ _ _ _) (by decide)
        assumption
      clear_value x5
      extract_lets +onlyGivenNames x6
      refine touches_cut x6 ?_ (fun h6 => ?_)
      · unfold x6
        refine touches_after ?_ (State.setReg_touches _ _ _) (by decide)
        refine touches_after ?_ (State.setReg_touches _ _ _) (by decide)
        refine touches_after ?_ (State.setReg_touches _ _ _) (by decide)
        assumption
      clear_value x6
      refine touches_after ?_ (alertSet_touches _ _ _) (by decide)
      assumption
    · extract_lets +onlyGivenNames x7
      clear_value x7
      extract_lets +onlyGivenNames x8
      refine touches_cut x8 ?_ (fun h8 => ?_)
      · unfold x8
        refine touches_after ?_ (setEvent_touches _ _ _) (by decide)
        refine touches_after ?_ (State.setBit_touches _ _ _ _) (by decide)
        assumption
      clear_value x8
      extract_lets +onlyGivenNames x9
      refine touches_cut x9 ?_ (fun h9 => ?_)
      · unfold x9
        refine touches_after ?_ (State.setReg_touches _ _ _) (by decide)
        refine touches_after ?_ (State.setReg_touches _ _ _) (by decide)
        refine touches_after ?_ (State.setReg_touches _ _ _) (by decide)
        assumption
      clear_value x9
      refine touches_after ?_ (ringPrivate_touches _ _ _) (by decide)
      assumption

theorem execDictDone_touches : ∀ a0,
    ∃ t, execDictDone a0 = .next t ∧ Touches [.freeCtr, .cyc, .regs, .hosts, .dict] a0 t := by
  intro a0
  unfold execDictDone
  refine ⟨_, rfl, ?_⟩
  refine touches_ite ?_ ?_
  · refine touches_after ?_ (dictDoneEff_touches _) (by decide)
    exact touches_refl _ _
  · exact touches_refl _ _

theorem tellAbandoned_touches : ∀ a0 a1,
    Touches [.regs, .canNode] a1 (tellAbandoned a0 a1) := by
  intro a0 a1
  unfold tellAbandoned
  refine touches_ite ?_ ?_
  · refine touches_after ?_ (State.setReg_touches _ _ _) (by decide)
    exact touches_refl _ _
  · refine touches_ite ?_ ?_
    · refine touches_after ?_ (nodeSend_touches _ _ _) (by decide)
      exact touches_refl _ _
    · refine touches_ite ?_ ?_
      · exact touches_refl _ _
      · refine touches_after ?_ (State.setReg_touches _ _ _) (by decide)
        exact touches_refl _ _

theorem transferAbandonEff_touches : ∀ a0 a1 a2,
    Touches [.regs, .dict, .canNode] a2 (transferAbandonEff a0 a1 a2) := by
  intro a0 a1 a2
  unfold transferAbandonEff
  split
  · exact touches_refl _ _
  · refine touches_after ?_ (tellAbandoned_touches _ _) (by decide)
    refine touches_after ?_ (endTransfer_touches _ _ _) (by decide)
    exact touches_refl _ _

theorem execTransferAbandon_touches : ∀ a0 a1 a2,
    ∃ t, execTransferAbandon a0 a1 a2 = .next t ∧ Touches [.regs, .dict, .canNode] a2 t := by
  intro a0 a1 a2
  unfold execTransferAbandon
  refine ⟨_, rfl, ?_⟩
  refine touches_ite ?_ ?_
  · refine touches_after ?_ (transferAbandonEff_touches _ _ _) (by decide)
    exact touches_refl _ _
  · exact touches_refl _ _

theorem reply_touches {F : List Part} {s : State} {w : Nat} {r : DictReply × State} (hF : ∀ p ∈ [.dict], p ∈ F) (h : Touches F s r.2) :
    Touches F s (reply w r) := by
  unfold reply
  exact touches_after h (touch_dict _) hF

theorem directWrite_touches : ∀ a0 a1 a2 a3 a4 a5 a6,
    Touches (.freeCtr :: .cyc :: .pulses :: .regs :: .sys :: .log :: .spindles :: .encoders :: .encSince :: .timers :: .ptp :: .adcs :: .comparators :: .demods :: .sectors :: .pairs :: .groups :: .tripPins :: .zonePins :: .plate :: .loops :: .place :: .cores :: .aic :: .dma :: .outbound :: .consoles :: .conJobs :: .pipes :: .streams :: .active :: .mover :: .heads :: .audio :: .keepers :: .sec :: .cvs :: .hosts :: .dict :: .canNode :: .aborts :: .iotlb :: .sbOld :: .tsClaimed :: .nor :: .otp :: .unlock :: []) a6 (directWrite a0 a1 a2 a3 a4 a5 a6) := by
  intro a0 a1 a2 a3 a4 a5 a6
  unfold directWrite
  refine touches_ite ?_ ?_
  · refine reply_touches (by decide) ?_
    refine touches_after ?_ (dictWriteOp_touches _ _ _ _ _ _ _ _) (by decide)
    exact touches_refl _ _
  · exact touches_refl _ _

theorem directRead_touches : ∀ a0 a1 a2 a3 a4 a5,
    Touches (.freeCtr :: .cyc :: .regs :: .shadow :: .sectors :: .plate :: .place :: .aic :: .streams :: .mover :: .audio :: .sec :: .cvs :: .dict :: .cans :: .tsClaimed :: .mem :: .poison :: []) a5 (directRead a0 a1 a2 a3 a4 a5) := by
  intro a0 a1 a2 a3 a4 a5
  unfold directRead
  refine touches_ite ?_ ?_
  · refine reply_touches (by decide) ?_
    refine touches_after ?_ (dictReadOp_touches _ _ _ _ _ _) (by decide)
    exact touches_refl _ _
  · exact touches_refl _ _

theorem execStoreSave_touches : ∀ a0 a1 a2,
    ∃ t, execStoreSave a0 a1 a2 = .next t ∧ Touches (.freeCtr :: .cyc :: .pulses :: .regs :: .sys :: .log :: .spindles :: .encoders :: .encSince :: .timers :: .ptp :: .adcs :: .comparators :: .demods :: .sectors :: .pairs :: .groups :: .tripPins :: .zonePins :: .plate :: .loops :: .place :: .cores :: .aic :: .dma :: .outbound :: .consoles :: .conJobs :: .pipes :: .streams :: .active :: .mover :: .heads :: .audio :: .keepers :: .sec :: .cvs :: .hosts :: .dict :: .canNode :: .aborts :: .iotlb :: .sbOld :: .tsClaimed :: .nor :: .otp :: .unlock :: []) a2 t := by
  intro a0 a1 a2
  unfold execStoreSave
  refine ⟨_, rfl, ?_⟩
  refine touches_after ?_ (directWrite_touches _ _ _ _ _ _ _) (by decide)
  exact touches_refl _ _

theorem execRestoreLoad_touches : ∀ a0 a1 a2,
    ∃ t, execRestoreLoad a0 a1 a2 = .next t ∧ Touches (.freeCtr :: .cyc :: .pulses :: .regs :: .sys :: .log :: .spindles :: .encoders :: .encSince :: .timers :: .ptp :: .adcs :: .comparators :: .demods :: .sectors :: .pairs :: .groups :: .tripPins :: .zonePins :: .plate :: .loops :: .place :: .cores :: .aic :: .dma :: .outbound :: .consoles :: .conJobs :: .pipes :: .streams :: .active :: .mover :: .heads :: .audio :: .keepers :: .sec :: .cvs :: .hosts :: .dict :: .canNode :: .aborts :: .iotlb :: .sbOld :: .tsClaimed :: .nor :: .otp :: .unlock :: []) a2 t := by
  intro a0 a1 a2
  unfold execRestoreLoad
  refine ⟨_, rfl, ?_⟩
  refine touches_after ?_ (directWrite_touches _ _ _ _ _ _ _) (by decide)
  exact touches_refl _ _

theorem execArmRequestObject_touches : ∀ a0 a1 a2 a3,
    ∃ t, execArmRequestObject a0 a1 a2 a3 = .next t ∧ Touches (.freeCtr :: .cyc :: .pulses :: .regs :: .sys :: .log :: .spindles :: .encoders :: .encSince :: .timers :: .ptp :: .adcs :: .comparators :: .demods :: .sectors :: .pairs :: .groups :: .tripPins :: .zonePins :: .plate :: .loops :: .place :: .cores :: .aic :: .dma :: .outbound :: .consoles :: .conJobs :: .pipes :: .streams :: .active :: .mover :: .heads :: .audio :: .keepers :: .sec :: .cvs :: .hosts :: .dict :: .canNode :: .aborts :: .iotlb :: .sbOld :: .tsClaimed :: .nor :: .otp :: .unlock :: []) a3 t := by
  intro a0 a1 a2 a3
  unfold execArmRequestObject
  refine ⟨_, rfl, ?_⟩
  refine touches_after ?_ (directWrite_touches _ _ _ _ _ _ _) (by decide)
  exact touches_refl _ _

theorem execImageWrite_touches : ∀ a0 a1 a2 a3 a4 a5,
    ∃ t, execImageWrite a0 a1 a2 a3 a4 a5 = .next t ∧ Touches (.freeCtr :: .cyc :: .pulses :: .regs :: .sys :: .log :: .spindles :: .encoders :: .encSince :: .timers :: .ptp :: .adcs :: .comparators :: .demods :: .sectors :: .pairs :: .groups :: .tripPins :: .zonePins :: .plate :: .loops :: .place :: .cores :: .aic :: .dma :: .outbound :: .consoles :: .conJobs :: .pipes :: .streams :: .active :: .mover :: .heads :: .audio :: .keepers :: .sec :: .cvs :: .hosts :: .dict :: .canNode :: .aborts :: .iotlb :: .sbOld :: .tsClaimed :: .nor :: .otp :: .unlock :: []) a5 t := by
  intro a0 a1 a2 a3 a4 a5
  unfold execImageWrite
  refine ⟨_, rfl, ?_⟩
  refine touches_ite ?_ ?_
  · refine reply_touches (by decide) ?_
    refine touches_after ?_ (dictWriteOp_touches _ _ _ _ _ _ _ _) (by decide)
    exact touches_refl _ _
  · exact touches_refl _ _

theorem execImageVerify_touches : ∀ a0 a1 a2,
    ∃ t, execImageVerify a0 a1 a2 = .next t ∧ Touches (.freeCtr :: .cyc :: .pulses :: .regs :: .sys :: .log :: .spindles :: .encoders :: .encSince :: .timers :: .ptp :: .adcs :: .comparators :: .demods :: .sectors :: .pairs :: .groups :: .tripPins :: .zonePins :: .plate :: .loops :: .place :: .cores :: .aic :: .dma :: .outbound :: .consoles :: .conJobs :: .pipes :: .streams :: .active :: .mover :: .heads :: .audio :: .keepers :: .sec :: .cvs :: .hosts :: .dict :: .canNode :: .aborts :: .iotlb :: .sbOld :: .tsClaimed :: .nor :: .otp :: .unlock :: []) a2 t := by
  intro a0 a1 a2
  unfold execImageVerify
  refine ⟨_, rfl, ?_⟩
  refine touches_after ?_ (directWrite_touches _ _ _ _ _ _ _) (by decide)
  exact touches_refl _ _

theorem execImageActivate_touches : ∀ a0 a1 a2,
    ∃ t, execImageActivate a0 a1 a2 = .next t ∧ Touches (.freeCtr :: .cyc :: .pulses :: .regs :: .sys :: .log :: .spindles :: .encoders :: .encSince :: .timers :: .ptp :: .adcs :: .comparators :: .demods :: .sectors :: .pairs :: .groups :: .tripPins :: .zonePins :: .plate :: .loops :: .place :: .cores :: .aic :: .dma :: .outbound :: .consoles :: .conJobs :: .pipes :: .streams :: .active :: .mover :: .heads :: .audio :: .keepers :: .sec :: .cvs :: .hosts :: .dict :: .canNode :: .aborts :: .iotlb :: .sbOld :: .tsClaimed :: .nor :: .otp :: .unlock :: []) a2 t := by
  intro a0 a1 a2
  unfold execImageActivate
  refine ⟨_, rfl, ?_⟩
  refine touches_after ?_ (directWrite_touches _ _ _ _ _ _ _) (by decide)
  exact touches_refl _ _

theorem execImageConfirm_touches : ∀ a0 a1 a2,
    ∃ t, execImageConfirm a0 a1 a2 = .next t ∧ Touches (.freeCtr :: .cyc :: .pulses :: .regs :: .sys :: .log :: .spindles :: .encoders :: .encSince :: .timers :: .ptp :: .adcs :: .comparators :: .demods :: .sectors :: .pairs :: .groups :: .tripPins :: .zonePins :: .plate :: .loops :: .place :: .cores :: .aic :: .dma :: .outbound :: .consoles :: .conJobs :: .pipes :: .streams :: .active :: .mover :: .heads :: .audio :: .keepers :: .sec :: .cvs :: .hosts :: .dict :: .canNode :: .aborts :: .iotlb :: .sbOld :: .tsClaimed :: .nor :: .otp :: .unlock :: []) a2 t := by
  intro a0 a1 a2
  unfold execImageConfirm
  refine ⟨_, rfl, ?_⟩
  refine touches_after ?_ (directWrite_touches _ _ _ _ _ _ _) (by decide)
  exact touches_refl _ _

theorem execAttestationNonce_touches : ∀ a0 a1 a2,
    ∃ t, execAttestationNonce a0 a1 a2 = .next t ∧ Touches (.freeCtr :: .cyc :: .pulses :: .regs :: .sys :: .log :: .spindles :: .encoders :: .encSince :: .timers :: .ptp :: .adcs :: .comparators :: .demods :: .sectors :: .pairs :: .groups :: .tripPins :: .zonePins :: .plate :: .loops :: .place :: .cores :: .aic :: .dma :: .outbound :: .consoles :: .conJobs :: .pipes :: .streams :: .active :: .mover :: .heads :: .audio :: .keepers :: .sec :: .cvs :: .hosts :: .dict :: .canNode :: .aborts :: .iotlb :: .sbOld :: .tsClaimed :: .nor :: .otp :: .unlock :: []) a2 t := by
  intro a0 a1 a2
  unfold execAttestationNonce
  refine ⟨_, rfl, ?_⟩
  refine touches_after ?_ (directWrite_touches _ _ _ _ _ _ _) (by decide)
  exact touches_refl _ _

theorem execQuote_touches : ∀ a0 a1 a2 a3,
    ∃ t, execQuote a0 a1 a2 a3 = .next t ∧ Touches (.freeCtr :: .cyc :: .regs :: .shadow :: .sectors :: .plate :: .place :: .aic :: .streams :: .mover :: .audio :: .sec :: .cvs :: .dict :: .cans :: .tsClaimed :: .mem :: .poison :: []) a3 t := by
  intro a0 a1 a2 a3
  unfold execQuote
  refine ⟨_, rfl, ?_⟩
  refine touches_after ?_ (directRead_touches _ _ _ _ _ _) (by decide)
  exact touches_refl _ _

theorem execDebugChallenge_touches : ∀ a0 a1,
    ∃ t, execDebugChallenge a0 a1 = .next t ∧ Touches (.freeCtr :: .cyc :: .regs :: .shadow :: .sectors :: .plate :: .place :: .aic :: .streams :: .mover :: .audio :: .sec :: .cvs :: .dict :: .cans :: .tsClaimed :: .mem :: .poison :: []) a1 t := by
  intro a0 a1
  unfold execDebugChallenge
  refine ⟨_, rfl, ?_⟩
  refine touches_after ?_ (directRead_touches _ _ _ _ _ _) (by decide)
  exact touches_refl _ _

theorem execDebugResponse_touches : ∀ a0 a1 a2,
    ∃ t, execDebugResponse a0 a1 a2 = .next t ∧ Touches (.freeCtr :: .cyc :: .pulses :: .regs :: .sys :: .log :: .spindles :: .encoders :: .encSince :: .timers :: .ptp :: .adcs :: .comparators :: .demods :: .sectors :: .pairs :: .groups :: .tripPins :: .zonePins :: .plate :: .loops :: .place :: .cores :: .aic :: .dma :: .outbound :: .consoles :: .conJobs :: .pipes :: .streams :: .active :: .mover :: .heads :: .audio :: .keepers :: .sec :: .cvs :: .hosts :: .dict :: .canNode :: .aborts :: .iotlb :: .sbOld :: .tsClaimed :: .nor :: .otp :: .unlock :: []) a2 t := by
  intro a0 a1 a2
  unfold execDebugResponse
  refine ⟨_, rfl, ?_⟩
  refine touches_after ?_ (directWrite_touches _ _ _ _ _ _ _) (by decide)
  exact touches_refl _ _

theorem execDebugLock_touches : ∀ a0 a1 a2,
    ∃ t, execDebugLock a0 a1 a2 = .next t ∧ Touches (.freeCtr :: .cyc :: .pulses :: .regs :: .sys :: .log :: .spindles :: .encoders :: .encSince :: .timers :: .ptp :: .adcs :: .comparators :: .demods :: .sectors :: .pairs :: .groups :: .tripPins :: .zonePins :: .plate :: .loops :: .place :: .cores :: .aic :: .dma :: .outbound :: .consoles :: .conJobs :: .pipes :: .streams :: .active :: .mover :: .heads :: .audio :: .keepers :: .sec :: .cvs :: .hosts :: .dict :: .canNode :: .aborts :: .iotlb :: .sbOld :: .tsClaimed :: .nor :: .otp :: .unlock :: []) a2 t := by
  intro a0 a1 a2
  unfold execDebugLock
  refine ⟨_, rfl, ?_⟩
  refine touches_after ?_ (directWrite_touches _ _ _ _ _ _ _) (by decide)
  exact touches_refl _ _

theorem execDebugLevel_touches : ∀ a0 a1 a2,
    ∃ t, execDebugLevel a0 a1 a2 = .next t ∧ Touches (.freeCtr :: .cyc :: .pulses :: .regs :: .sys :: .log :: .spindles :: .encoders :: .encSince :: .timers :: .ptp :: .adcs :: .comparators :: .demods :: .sectors :: .pairs :: .groups :: .tripPins :: .zonePins :: .plate :: .loops :: .place :: .cores :: .aic :: .dma :: .outbound :: .consoles :: .conJobs :: .pipes :: .streams :: .active :: .mover :: .heads :: .audio :: .keepers :: .sec :: .cvs :: .hosts :: .dict :: .canNode :: .aborts :: .iotlb :: .sbOld :: .tsClaimed :: .nor :: .otp :: .unlock :: []) a2 t := by
  intro a0 a1 a2
  unfold execDebugLevel
  refine ⟨_, rfl, ?_⟩
  refine touches_after ?_ (directWrite_touches _ _ _ _ _ _ _) (by decide)
  exact touches_refl _ _

theorem execResetRequest_touches : ∀ a0 a1 a2,
    ∃ t, execResetRequest a0 a1 a2 = .next t ∧ Touches (.freeCtr :: .cyc :: .pulses :: .regs :: .sys :: .log :: .spindles :: .encoders :: .encSince :: .timers :: .ptp :: .adcs :: .comparators :: .demods :: .sectors :: .pairs :: .groups :: .tripPins :: .zonePins :: .plate :: .loops :: .place :: .cores :: .aic :: .dma :: .outbound :: .consoles :: .conJobs :: .pipes :: .streams :: .active :: .mover :: .heads :: .audio :: .keepers :: .sec :: .cvs :: .hosts :: .dict :: .canNode :: .aborts :: .iotlb :: .sbOld :: .tsClaimed :: .nor :: .otp :: .unlock :: []) a2 t := by
  intro a0 a1 a2
  unfold execResetRequest
  refine ⟨_, rfl, ?_⟩
  refine touches_after ?_ (directWrite_touches _ _ _ _ _ _ _) (by decide)
  exact touches_refl _ _

end Sys2Proof.Machine
end

