-- ==== Sys2Proof/Laws/TouchField.lean ====
section
/-! SUPPORT. Which parts of the state the definitions of Machine/Field.lean touch: one lemma for each, the proofs written by a
script from their shape. -/

namespace Sys2Proof.Machine

theorem nmtTo_touches : ∀ a0 a1,
    Touches [.canNode] a1 (nmtTo a0 a1) := by
  intro a0 a1
  unfold nmtTo
  refine touches_after ?_ (touch_canNode _) (by decide)
  exact touches_refl _ _

theorem execNmtStart_touches : ∀ a0 a1,
    ∃ t, execNmtStart a0 a1 = .next t ∧ Touches [.canNode] a1 t := by
  intro a0 a1
  unfold execNmtStart
  refine ⟨_, rfl, ?_⟩
  refine touches_ite ?_ ?_
  · refine touches_after ?_ (nmtTo_touches _ _) (by decide)
    exact touches_refl _ _
  · exact touches_refl _ _

theorem execNmtStop_touches : ∀ a0 a1,
    ∃ t, execNmtStop a0 a1 = .next t ∧ Touches [.canNode] a1 t := by
  intro a0 a1
  unfold execNmtStop
  refine ⟨_, rfl, ?_⟩
  refine touches_ite ?_ ?_
  · refine touches_after ?_ (nmtTo_touches _ _) (by decide)
    exact touches_refl _ _
  · exact touches_refl _ _

theorem execNmtPreOperational_touches : ∀ a0 a1,
    ∃ t, execNmtPreOperational a0 a1 = .next t ∧ Touches [.canNode] a1 t := by
  intro a0 a1
  unfold execNmtPreOperational
  refine ⟨_, rfl, ?_⟩
  refine touches_ite ?_ ?_
  · refine touches_after ?_ (nmtTo_touches _ _) (by decide)
    exact touches_refl _ _
  · exact touches_refl _ _

theorem nodeBoot_touches : ∀ a0,
    Touches [.canNode] a0 (nodeBoot a0) := by
  intro a0
  unfold nodeBoot
  refine touches_after ?_ (nodeSend_touches _ _ _) (by decide)
  refine touches_after ?_ (nodeRestart_touches _) (by decide)
  exact touches_refl _ _

theorem execNmtResetNode_touches : ∀ a0 a1,
    ∃ t, execNmtResetNode a0 a1 = .next t ∧ Touches [.dict, .canNode] a1 t := by
  intro a0 a1
  unfold execNmtResetNode
  refine ⟨_, rfl, ?_⟩
  refine touches_ite ?_ ?_
  · refine touches_after ?_ (nodeBoot_touches _) (by decide)
    refine touches_after ?_ (touch_dict _) (by decide)
    exact touches_refl _ _
  · exact touches_refl _ _

theorem execNmtResetCommunication_touches : ∀ a0 a1,
    ∃ t, execNmtResetCommunication a0 a1 = .next t ∧ Touches [.canNode] a1 t := by
  intro a0 a1
  unfold execNmtResetCommunication
  refine ⟨_, rfl, ?_⟩
  refine touches_ite ?_ ?_
  · refine touches_after ?_ (nodeBoot_touches _) (by decide)
    exact touches_refl _ _
  · exact touches_refl _ _

theorem execHeartbeat_touches : ∀ a0,
    ∃ t, execHeartbeat a0 = .next t ∧ Touches [.canNode] a0 t := by
  intro a0
  unfold execHeartbeat
  refine ⟨_, rfl, ?_⟩
  refine touches_ite ?_ ?_
  · refine touches_after ?_ (nodeSend_touches _ _ _) (by decide)
    exact touches_refl _ _
  · exact touches_refl _ _

theorem tpdoEff_touches : ∀ a0 a1,
    Touches [.freeCtr, .canNode] a1 (tpdoEff a0 a1) := by
  intro a0 a1
  unfold tpdoEff
  extract_lets +onlyGivenNames x0
  refine touches_cut_snd x0 ?_ (fun h0 => ?_)
  · unfold x0
    refine touches_after ?_ (freeBytes_touches _ _) (by decide)
    exact touches_refl _ _
  clear_value x0
  refine touches_after ?_ (nodeSend_touches _ _ _) (by decide)
  extract_lets +onlyGivenNames x1
  refine touches_cut x1 ?_ (fun h1 => ?_)
  · unfold x1
    assumption
  refine touches_after ?_ (touch_canNode _) (by decide)
  assumption

theorem execTpdo_touches : ∀ a0 a1,
    ∃ t, execTpdo a0 a1 = .next t ∧ Touches [.freeCtr, .canNode] a1 t := by
  intro a0 a1
  unfold execTpdo
  refine ⟨_, rfl, ?_⟩
  refine touches_ite ?_ ?_
  · refine touches_after ?_ (tpdoEff_touches _ _) (by decide)
    exact touches_refl _ _
  · exact touches_refl _ _

theorem usdoEff_touches : ∀ a0 a1,
    Touches [.dict, .canNode] a1 (usdoEff a0 a1) := by
  intro a0 a1
  unfold usdoEff
  refine touches_ite ?_ ?_
  · refine touches_after ?_ (nodeSend_touches _ _ _) (by decide)
    exact touches_refl _ _
  · refine touches_after ?_ (dictQueue_touches _ _) (by decide)
    exact touches_refl _ _

theorem execUsdoRequest_touches : ∀ a0 a1 a2 a3 a4 a5 a6 a7,
    ∃ t, execUsdoRequest a0 a1 a2 a3 a4 a5 a6 a7 = .next t ∧ Touches [.dict, .canNode] a7 t := by
  intro a0 a1 a2 a3 a4 a5 a6 a7
  unfold execUsdoRequest
  refine ⟨_, rfl, ?_⟩
  refine touches_ite ?_ ?_
  · refine touches_after ?_ (usdoEff_touches _ _) (by decide)
    exact touches_refl _ _
  · exact touches_refl _ _

theorem canEvent_touches : ∀ a0 a1 a2,
    Touches [.cyc, .regs] a2 (canEvent a0 a1 a2) := by
  intro a0 a1 a2
  unfold canEvent
  extract_lets +onlyGivenNames x0
  refine touches_cut x0 ?_ (fun h0 => ?_)
  · unfold x0
    refine touches_after ?_ (raiseStatus_touches _ _ _ _ _) (by decide)
    exact touches_refl _ _
  clear_value x0
  refine touches_ite ?_ ?_
  · refine touches_after ?_ (raiseTs_touches _ _) (by decide)
    assumption
  · assumption

theorem canBusOff_touches : ∀ a0 a1,
    Touches [.cyc, .regs] a1 (canBusOff a0 a1) := by
  intro a0 a1
  unfold canBusOff
  refine touches_after ?_ (canEvent_touches _ _ _) (by decide)
  refine touches_after ?_ (State.setFld_touches _ _ _ _ _) (by decide)
  exact touches_refl _ _

theorem canCounters_touches : ∀ a0 a1 a2 a3,
    Touches [.regs] a3 (canCounters a0 a1 a2 a3) := by
  intro a0 a1 a2 a3
  unfold canCounters
  extract_lets +onlyGivenNames x0
  refine touches_cut x0 ?_ (fun h0 => ?_)
  · unfold x0
    refine touches_after ?_ (State.setReg_touches _ _ _) (by decide)
    exact touches_refl _ _
  clear_value x0
  refine touches_ite ?_ ?_
  · assumption
  · refine touches_after ?_ (State.setFld_touches _ _ _ _ _) (by decide)
    assumption

theorem canGood_touches : ∀ a0 a1,
    Touches [.freeCtr, .regs] a1 (canGood a0 a1) := by
  intro a0 a1
  unfold canGood
  refine touches_ite ?_ ?_
  · extract_lets +onlyGivenNames x0
    refine touches_cut_snd x0 ?_ (fun h0 => ?_)
    · unfold x0
      refine touches_after ?_ (takeFree_touches _ _) (by decide)
      exact touches_refl _ _
    clear_value x0
    refine touches_after ?_ (canCounters_touches _ _ _ _) (by decide)
    assumption
  · refine touches_after ?_ (canCounters_touches _ _ _ _) (by decide)
    exact touches_refl _ _

theorem canWords_touches : ∀ a0 a1,
    Touches [.freeCtr] a1 (canWords a0 a1).2 := by
  intro a0 a1
  unfold canWords
  extract_lets +onlyGivenNames x0
  refine touches_cut_snd x0 ?_ (fun h0 => ?_)
  · unfold x0
    refine touches_after ?_ (takeFree_touches _ _) (by decide)
    exact touches_refl _ _
  clear_value x0
  dsimp only
  assumption

theorem setCan_touches : ∀ a0 a1 a2,
    Touches [.cans] a2 (setCan a0 a1 a2) := by
  intro a0 a1 a2
  unfold setCan
  refine touches_after ?_ (touch_cans _) (by decide)
  exact touches_refl _ _

theorem canFrame_touches : ∀ a0 a1 a2 a3 a4,
    Touches [.freeCtr, .cyc, .regs, .cans] a4 (canFrame a0 a1 a2 a3 a4) := by
  intro a0 a1 a2 a3 a4
  unfold canFrame
  extract_lets +onlyGivenNames x0
  refine touches_cut x0 ?_ (fun h0 => ?_)
  · unfold x0
    refine touches_after ?_ (canGood_touches _ _) (by decide)
    exact touches_refl _ _
  clear_value x0
  refine touches_ite ?_ ?_
  · refine touches_after ?_ (rcUpFld_touches _ _ _ _ _) (by decide)
    assumption
  · refine touches_ite ?_ ?_
    · refine touches_after ?_ (canEvent_touches _ _ _) (by decide)
      assumption
    · refine touches_ite ?_ ?_
      · refine touches_after ?_ (canEvent_touches _ _ _) (by decide)
        assumption
      · extract_lets +onlyGivenNames x1
        refine touches_cut_snd x1 ?_ (fun h1 => ?_)
        · unfold x1
          refine touches_after ?_ (canWords_touches _ _) (by decide)
          assumption
        clear_value x1
        refine touches_after ?_ (canEvent_touches _ _ _) (by decide)
        refine touches_after ?_ (setCan_touches _ _ _) (by decide)
        assumption

theorem canBad_touches : ∀ a0 a1 a2,
    Touches [.cyc, .regs] a2 (canBad a0 a1 a2) := by
  intro a0 a1 a2
  unfold canBad
  refine touches_ite ?_ ?_
  · extract_lets +onlyGivenNames x0
    refine touches_cut x0 ?_ (fun h0 => ?_)
    · unfold x0
      refine touches_after ?_ (canCounters_touches _ _ _ _) (by decide)
      exact touches_refl _ _
    clear_value x0
    refine touches_ite ?_ ?_
    · refine touches_after ?_ (canBusOff_touches _ _) (by decide)
      assumption
    · assumption
  · refine touches_after ?_ (canCounters_touches _ _ _ _) (by decide)
    exact touches_refl _ _

theorem execCanFrameReceive_touches : ∀ a0 a1 a2 a3 a4 a5,
    ∃ t, execCanFrameReceive a0 a1 a2 a3 a4 a5 = .next t ∧ Touches [.freeCtr, .cyc, .regs, .cans] a5 t := by
  intro a0 a1 a2 a3 a4 a5
  unfold execCanFrameReceive
  refine ⟨_, rfl, ?_⟩
  refine touches_ite ?_ ?_
  · split
    · refine touches_after ?_ (canBad_touches _ _ _) (by decide)
      exact touches_refl _ _
    · refine touches_after ?_ (canFrame_touches _ _ _ _ _) (by decide)
      exact touches_refl _ _
  · exact touches_refl _ _

theorem execCanTxDone_touches : ∀ a0 a1 a2,
    ∃ t, execCanTxDone a0 a1 a2 = .next t ∧ Touches [.cyc, .regs] a2 t := by
  intro a0 a1 a2
  unfold execCanTxDone
  refine ⟨_, rfl, ?_⟩
  refine touches_ite ?_ ?_
  · refine touches_after ?_ (canEvent_touches _ _ _) (by decide)
    refine touches_after ?_ (canCounters_touches _ _ _ _) (by decide)
    exact touches_refl _ _
  · exact touches_refl _ _

theorem execBusStuck_touches : ∀ a0 a1,
    ∃ t, execBusStuck a0 a1 = .next t ∧ Touches [.cyc, .regs, .cans] a1 t := by
  intro a0 a1
  unfold execBusStuck
  refine ⟨_, rfl, ?_⟩
  refine touches_ite ?_ ?_
  · refine touches_after ?_ (canEvent_touches _ _ _) (by decide)
    refine touches_after ?_ (setCan_touches _ _ _) (by decide)
    exact touches_refl _ _
  · exact touches_refl _ _

theorem execBusRecessiveReturn_touches : ∀ a0 a1,
    ∃ t, execBusRecessiveReturn a0 a1 = .next t ∧ Touches [.cans] a1 t := by
  intro a0 a1
  unfold execBusRecessiveReturn
  refine ⟨_, rfl, ?_⟩
  refine touches_ite ?_ ?_
  · refine touches_after ?_ (setCan_touches _ _ _) (by decide)
    exact touches_refl _ _
  · exact touches_refl _ _

theorem execBusOff_touches : ∀ a0 a1,
    ∃ t, execBusOff a0 a1 = .next t ∧ Touches [.cyc, .regs] a1 t := by
  intro a0 a1
  unfold execBusOff
  refine ⟨_, rfl, ?_⟩
  refine touches_ite ?_ ?_
  · refine touches_after ?_ (canBusOff_touches _ _) (by decide)
    exact touches_refl _ _
  · exact touches_refl _ _

theorem execBusOffRecover_touches : ∀ a0 a1,
    ∃ t, execBusOffRecover a0 a1 = .next t ∧ Touches [.regs] a1 t := by
  intro a0 a1
  unfold execBusOffRecover
  refine ⟨_, rfl, ?_⟩
  refine touches_ite ?_ ?_
  · refine touches_after ?_ (State.setReg_touches _ _ _) (by decide)
    refine touches_after ?_ (State.setFld_touches _ _ _ _ _) (by decide)
    exact touches_refl _ _
  · exact touches_refl _ _

theorem ethEvent_touches : ∀ a0 a1 a2,
    Touches [.cyc, .regs] a2 (ethEvent a0 a1 a2) := by
  intro a0 a1 a2
  unfold ethEvent
  extract_lets +onlyGivenNames x0
  refine touches_cut x0 ?_ (fun h0 => ?_)
  · unfold x0
    refine touches_after ?_ (noteSet_touches _ _ _) (by decide)
    refine touches_after ?_ (State.setReg_touches _ _ _) (by decide)
    exact touches_refl _ _
  clear_value x0
  refine touches_ite ?_ ?_
  · refine touches_after ?_ (raiseTs_touches _ _) (by decide)
    refine touches_after ?_ (noteDeferred_touches _ _) (by decide)
    assumption
  · assumption

theorem ethFrame_touches : ∀ a0 a1 a2 a3 a4,
    Touches [.cyc, .regs, .macQueues] a4 (ethFrame a0 a1 a2 a3 a4) := by
  intro a0 a1 a2 a3 a4
  unfold ethFrame
  refine touches_ite ?_ ?_
  · refine touches_after ?_ (rcUpFld_touches _ _ _ _ _) (by decide)
    exact touches_refl _ _
  · refine touches_ite ?_ ?_
    · refine touches_after ?_ (rcUpFld_touches _ _ _ _ _) (by decide)
      exact touches_refl _ _
    · extract_lets +onlyGivenNames x0
      refine touches_cut x0 ?_ (fun h0 => ?_)
      · unfold x0
        refine touches_after ?_ (touch_macQueues _) (by decide)
        exact touches_refl _ _
      clear_value x0
      refine touches_ite ?_ ?_
      · refine touches_after ?_ (ethEvent_touches _ _ _) (by decide)
        refine touches_after ?_ (State.setReg_touches _ _ _) (by decide)
        assumption
      · assumption

theorem execEthFrameReceive_touches : ∀ a0 a1 a2 a3 a4,
    ∃ t, execEthFrameReceive a0 a1 a2 a3 a4 = .next t ∧ Touches [.cyc, .regs, .macQueues] a4 t := by
  intro a0 a1 a2 a3 a4
  unfold execEthFrameReceive
  refine ⟨_, rfl, ?_⟩
  refine touches_ite ?_ ?_
  · refine touches_after ?_ (ethFrame_touches _ _ _ _ _) (by decide)
    exact touches_refl _ _
  · exact touches_refl _ _

theorem linkTo_touches : ∀ a0 a1 a2,
    Touches [.cyc, .regs] a2 (linkTo a0 a1 a2) := by
  intro a0 a1 a2
  unfold linkTo
  refine touches_ite ?_ ?_
  · exact touches_refl _ _
  · refine touches_after ?_ (ethEvent_touches _ _ _) (by decide)
    refine touches_after ?_ (State.setBit_touches _ _ _ _) (by decide)
    exact touches_refl _ _

theorem execSgmiiSyncLost_touches : ∀ a0 a1,
    ∃ t, execSgmiiSyncLost a0 a1 = .next t ∧ Touches [.cyc, .regs] a1 t := by
  intro a0 a1
  unfold execSgmiiSyncLost
  refine ⟨_, rfl, ?_⟩
  refine touches_ite ?_ ?_
  · refine touches_after ?_ (linkTo_touches _ _ _) (by decide)
    exact touches_refl _ _
  · exact touches_refl _ _

theorem execSgmiiSyncGained_touches : ∀ a0 a1,
    ∃ t, execSgmiiSyncGained a0 a1 = .next t ∧ Touches [.cyc, .regs] a1 t := by
  intro a0 a1
  unfold execSgmiiSyncGained
  refine ⟨_, rfl, ?_⟩
  refine touches_ite ?_ ?_
  · refine touches_after ?_ (linkTo_touches _ _ _) (by decide)
    exact touches_refl _ _
  · exact touches_refl _ _

theorem setMac_touches : ∀ a0 a1 a2,
    Touches [.macs] a2 (setMac a0 a1 a2) := by
  intro a0 a1 a2
  unfold setMac
  refine touches_after ?_ (touch_macs _) (by decide)
  exact touches_refl _ _

theorem countRequest_touches : ∀ a0 a1,
    Touches [.macs] a1 (countRequest a0 a1) := by
  intro a0 a1
  unfold countRequest
  extract_lets +onlyGivenNames x0
  clear_value x0
  extract_lets +onlyGivenNames x1
  clear_value x1
  refine touches_after ?_ (setMac_touches _ _ _) (by decide)
  exact touches_refl _ _

theorem horanoEff_touches : ∀ a0 a1 a2,
    Touches [.cyc, .regs, .dict, .macs] a2 (horanoEff a0 a1 a2) := by
  intro a0 a1 a2
  unfold horanoEff
  refine touches_ite ?_ ?_
  · refine touches_after ?_ (rcUpFld_touches _ _ _ _ _) (by decide)
    exact touches_refl _ _
  · extract_lets +onlyGivenNames x0
    refine touches_cut x0 ?_ (fun h0 => ?_)
    · unfold x0
      refine touches_after ?_ (countRequest_touches _ _) (by decide)
      exact touches_refl _ _
    clear_value x0
    refine touches_ite ?_ ?_
    · refine touches_after ?_ (rcUpFld_touches _ _ _ _ _) (by decide)
      assumption
    · refine touches_ite ?_ ?_
      · assumption
      · split
        · refine touches_after ?_ (setMac_touches _ _ _) (by decide)
          assumption
        · refine touches_ite ?_ ?_
          · assumption
          · refine touches_after ?_ (dictQueue_touches _ _) (by decide)
            assumption

theorem execHoranoDatagram_touches : ∀ a0 a1 a2 a3 a4 a5 a6,
    ∃ t, execHoranoDatagram a0 a1 a2 a3 a4 a5 a6 = .next t ∧ Touches [.cyc, .regs, .dict, .macs] a6 t := by
  intro a0 a1 a2 a3 a4 a5 a6
  unfold execHoranoDatagram
  refine ⟨_, rfl, ?_⟩
  refine touches_ite ?_ ?_
  · refine touches_after ?_ (horanoEff_touches _ _ _) (by decide)
    exact touches_refl _ _
  · exact touches_refl _ _

end Sys2Proof.Machine
end

