-- ==== Sys2Proof/Laws/TouchPipe.lean ====
section
/-! SUPPORT. Which parts of the state the definitions of Machine/Pipe.lean touch: one lemma for each, the proofs written by a
script from their shape. -/

namespace Sys2Proof.Machine

theorem lateBusError_touches : ∀ a0 a1 a2,
    Touches [.cores] a2 (lateBusError a0 a1 a2) := by
  intro a0 a1 a2
  unfold lateBusError
  refine touches_after ?_ (State.setCore_touches _ _ _) (by decide)
  exact touches_refl _ _

theorem deviceStore_touches : ∀ a0 a1 a2 a3,
    Touches (.freeCtr :: .cyc :: .pulses :: .devTimer :: .regs :: .sys :: .log :: .spindles :: .encoders :: .encSince :: .timers :: .ptp :: .adcs :: .comparators :: .demods :: .sectors :: .pairs :: .groups :: .tripPins :: .zonePins :: .plate :: .loops :: .place :: .cores :: .aic :: .dma :: .outbound :: .consoles :: .conJobs :: .pipes :: .streams :: .active :: .mover :: .heads :: .audio :: .keepers :: .sec :: .cvs :: .hosts :: .dict :: .canNode :: .aborts :: .iotlb :: .sbOld :: .tsClaimed :: []) a3 (deviceStore a0 a1 a2 a3) := by
  intro a0 a1 a2 a3
  unfold deviceStore
  refine touches_ite ?_ ?_
  · refine touches_after ?_ (busWrite_touches _ _ _ _) (by decide)
    exact touches_refl _ _
  · refine touches_after ?_ (busNarrow_touches _ _ _) (by decide)
    exact touches_refl _ _

theorem performStore_touches : ∀ a0 a1 a2,
    Touches (.freeCtr :: .cyc :: .pulses :: .devTimer :: .regs :: .sys :: .log :: .spindles :: .encoders :: .encSince :: .timers :: .ptp :: .adcs :: .comparators :: .demods :: .sectors :: .pairs :: .groups :: .tripPins :: .zonePins :: .plate :: .loops :: .place :: .cores :: .aic :: .dma :: .outbound :: .consoles :: .conJobs :: .pipes :: .streams :: .active :: .mover :: .heads :: .audio :: .keepers :: .sec :: .cvs :: .hosts :: .dict :: .canNode :: .aborts :: .iotlb :: .sbOld :: .tsClaimed :: .mem :: .poison :: .checks :: []) a2 (performStore a0 a1 a2) := by
  intro a0 a1 a2
  unfold performStore
  split
  · exact touches_refl _ _
  · extract_lets +onlyGivenNames x0
    clear_value x0
    extract_lets +onlyGivenNames x1
    clear_value x1
    refine touches_ite ?_ ?_
    · refine touches_after ?_ (deviceStore_touches _ _ _ _) (by decide)
      exact touches_refl _ _
    · refine touches_ite ?_ ?_
      · refine touches_after ?_ (lateBusError_touches _ _ _) (by decide)
        exact touches_refl _ _
      · refine touches_ite ?_ ?_
        · refine touches_after ?_ (l1Store_touches _ _ _ _) (by decide)
          exact touches_refl _ _
        · refine touches_ite ?_ ?_
          · refine touches_after ?_ (lateBusError_touches _ _ _) (by decide)
            exact touches_refl _ _
          · refine touches_after ?_ (memWrite_touches _ _ _ _) (by decide)
            exact touches_refl _ _

theorem drainOne_touches : ∀ a0 a1,
    Touches (.freeCtr :: .cyc :: .pulses :: .devTimer :: .regs :: .sys :: .log :: .spindles :: .encoders :: .encSince :: .timers :: .ptp :: .adcs :: .comparators :: .demods :: .sectors :: .pairs :: .groups :: .tripPins :: .zonePins :: .plate :: .loops :: .place :: .cores :: .aic :: .dma :: .outbound :: .consoles :: .conJobs :: .pipes :: .streams :: .active :: .mover :: .heads :: .audio :: .keepers :: .sec :: .cvs :: .hosts :: .dict :: .canNode :: .aborts :: .iotlb :: .sbOld :: .tsClaimed :: .mem :: .poison :: .checks :: []) a1 (drainOne a0 a1) := by
  intro a0 a1
  unfold drainOne
  split
  · exact touches_refl _ _
  · refine touches_after ?_ (performStore_touches _ _ _) (by decide)
    refine touches_after ?_ (State.setCore_touches _ _ _) (by decide)
    exact touches_refl _ _

theorem drain_touches : ∀ a0 a1 a2,
    Touches (.freeCtr :: .cyc :: .pulses :: .devTimer :: .regs :: .sys :: .log :: .spindles :: .encoders :: .encSince :: .timers :: .ptp :: .adcs :: .comparators :: .demods :: .sectors :: .pairs :: .groups :: .tripPins :: .zonePins :: .plate :: .loops :: .place :: .cores :: .aic :: .dma :: .outbound :: .consoles :: .conJobs :: .pipes :: .streams :: .active :: .mover :: .heads :: .audio :: .keepers :: .sec :: .cvs :: .hosts :: .dict :: .canNode :: .aborts :: .iotlb :: .sbOld :: .tsClaimed :: .mem :: .poison :: .checks :: []) a2 (drain a0 a1 a2) := by
  intro a0 a1 a2
  fun_induction drain a0 a1 a2
  · exact touches_refl _ _
  · refine touches_after ?_ ‹_› (fun _ h => h)
    refine touches_after ?_ (drainOne_touches _ _) (by decide)
    exact touches_refl _ _

theorem drainAll_touches : ∀ a0 a1,
    Touches (.freeCtr :: .cyc :: .pulses :: .devTimer :: .regs :: .sys :: .log :: .spindles :: .encoders :: .encSince :: .timers :: .ptp :: .adcs :: .comparators :: .demods :: .sectors :: .pairs :: .groups :: .tripPins :: .zonePins :: .plate :: .loops :: .place :: .cores :: .aic :: .dma :: .outbound :: .consoles :: .conJobs :: .pipes :: .streams :: .active :: .mover :: .heads :: .audio :: .keepers :: .sec :: .cvs :: .hosts :: .dict :: .canNode :: .aborts :: .iotlb :: .sbOld :: .tsClaimed :: .mem :: .poison :: .checks :: []) a1 (drainAll a0 a1) := by
  intro a0 a1
  unfold drainAll
  refine touches_after ?_ (drain_touches _ _ _) (by decide)
  exact touches_refl _ _

theorem makeRoom_touches : ∀ a0 a1 a2,
    Touches (.freeCtr :: .cyc :: .pulses :: .devTimer :: .regs :: .sys :: .log :: .spindles :: .encoders :: .encSince :: .timers :: .ptp :: .adcs :: .comparators :: .demods :: .sectors :: .pairs :: .groups :: .tripPins :: .zonePins :: .plate :: .loops :: .place :: .cores :: .aic :: .dma :: .outbound :: .consoles :: .conJobs :: .pipes :: .streams :: .active :: .mover :: .heads :: .audio :: .keepers :: .sec :: .cvs :: .hosts :: .dict :: .canNode :: .aborts :: .iotlb :: .sbOld :: .tsClaimed :: .mem :: .poison :: .checks :: []) a2 (makeRoom a0 a1 a2) := by
  intro a0 a1 a2
  unfold makeRoom
  refine touches_after ?_ (drain_touches _ _ _) (by decide)
  exact touches_refl _ _

theorem drainOverlap_touches : ∀ a0 a1 a2 a3,
    Touches (.freeCtr :: .cyc :: .pulses :: .devTimer :: .regs :: .sys :: .log :: .spindles :: .encoders :: .encSince :: .timers :: .ptp :: .adcs :: .comparators :: .demods :: .sectors :: .pairs :: .groups :: .tripPins :: .zonePins :: .plate :: .loops :: .place :: .cores :: .aic :: .dma :: .outbound :: .consoles :: .conJobs :: .pipes :: .streams :: .active :: .mover :: .heads :: .audio :: .keepers :: .sec :: .cvs :: .hosts :: .dict :: .canNode :: .aborts :: .iotlb :: .sbOld :: .tsClaimed :: .mem :: .poison :: .checks :: []) a3 (drainOverlap a0 a1 a2 a3) := by
  intro a0 a1 a2 a3
  unfold drainOverlap
  split
  · exact touches_refl _ _
  · refine touches_after ?_ (drain_touches _ _ _) (by decide)
    exact touches_refl _ _

theorem pushParts_touches : ∀ a0 a1 a2 a3,
    Touches [.cores] a3 (pushParts a0 a1 a2 a3) := by
  intro a0 a1 a2 a3
  fun_induction pushParts a0 a1 a2 a3
  · exact touches_refl _ _
  · refine touches_after ?_ ‹_› (fun _ h => h)
    refine touches_after ?_ (sbPush_touches _ _ _ _ _ _) (by decide)
    exact touches_refl _ _

theorem storeParts_touches : ∀ a0 a1 a2 a3,
    Touches (.freeCtr :: .cyc :: .pulses :: .devTimer :: .regs :: .sys :: .log :: .spindles :: .encoders :: .encSince :: .timers :: .ptp :: .adcs :: .comparators :: .demods :: .sectors :: .pairs :: .groups :: .tripPins :: .zonePins :: .plate :: .loops :: .place :: .cores :: .aic :: .dma :: .outbound :: .consoles :: .conJobs :: .pipes :: .streams :: .active :: .mover :: .heads :: .audio :: .keepers :: .sec :: .cvs :: .hosts :: .dict :: .canNode :: .aborts :: .iotlb :: .sbOld :: .tsClaimed :: .mem :: .poison :: .checks :: []) a3 (storeParts a0 a1 a2 a3) := by
  intro a0 a1 a2 a3
  unfold storeParts
  extract_lets +onlyGivenNames x0
  clear_value x0
  refine touches_after ?_ (pushParts_touches _ _ _ _) (by decide)
  refine touches_ite ?_ ?_
  · exact touches_refl _ _
  · refine touches_after ?_ (makeRoom_touches _ _ _) (by decide)
    exact touches_refl _ _

theorem readDevice_touches : ∀ a0 a1 a2 a3,
    Touches (.freeCtr :: .cyc :: .devTimer :: .regs :: .shadow :: .sys :: .spindles :: .ptp :: .sectors :: .plate :: .place :: .aic :: .streams :: .mover :: .audio :: .cvs :: .cans :: .tsClaimed :: .mem :: .poison :: []) a3 (readDevice a0 a1 a2 a3).2 := by
  intro a0 a1 a2 a3
  unfold readDevice
  have e : ∀ (n : Nat) (x : Word × State), (foundWord n x).2 = x.2 := fun _ _ => rfl
  rw [e]
  refine touches_ite_snd ?_ ?_
  · exact touches_after (touches_refl _ _) (busRead_touches _ _ _) (by decide)
  · exact touches_after (touches_after (touches_refl _ _) (busNarrow_touches _ _ _) (by decide)) (takeFree_touches _ _) (by decide)

theorem readPart_touches : ∀ a0 a1 a2 a3 a4,
    Touches (.freeCtr :: .cyc :: .devTimer :: .regs :: .shadow :: .sys :: .spindles :: .ptp :: .sectors :: .plate :: .place :: .cores :: .aic :: .streams :: .mover :: .audio :: .cvs :: .dict :: .cans :: .tsClaimed :: .mem :: .poison :: []) a4 (readPart a0 a1 a2 a3 a4).2 := by
  intro a0 a1 a2 a3 a4
  unfold readPart
  refine touches_ite_snd ?_ ?_
  · refine touches_after ?_ (readDevice_touches _ _ _ _) (by decide)
    exact touches_refl _ _
  · split
    · dsimp only
      exact touches_refl _ _
    · split
      · dsimp only
        refine touches_after ?_ (countPoisoned_touches _) (by decide)
        exact touches_refl _ _
      · extract_lets +onlyGivenNames x0
        refine touches_cut x0 ?_ (fun h0 => ?_)
        · unfold x0
          refine touches_ite ?_ ?_
          · refine touches_after ?_ (l1Fill_touches _ _ _) (by decide)
            exact touches_refl _ _
          · exact touches_refl _ _
        clear_value x0
        dsimp only
        assumption

theorem readParts_touches : ∀ a0 a1 a2,
    Touches (.freeCtr :: .cyc :: .devTimer :: .regs :: .shadow :: .sys :: .spindles :: .ptp :: .sectors :: .plate :: .place :: .cores :: .aic :: .streams :: .mover :: .audio :: .cvs :: .dict :: .cans :: .tsClaimed :: .mem :: .poison :: []) a2 (readParts a0 a1 a2).2 := by
  intro a0 a1 a2
  fun_induction readParts a0 a1 a2
  · dsimp only
    exact touches_refl _ _
  · dsimp only
    rename_i r0_0 r0_1 r0_2 r0_3 r0_4
    unfold r0_0
    refine touches_after ?_ (readPart_touches _ _ _ _ _) (by decide)
    exact touches_refl _ _
  · dsimp only
    rename_i r1_0 r1_1 r1_2 r1_3
    unfold r1_0
    refine touches_after ?_ ‹_› (fun _ h => h)
    rename_i r2_0 r2_1 r2_2
    unfold r2_0
    refine touches_after ?_ (readPart_touches _ _ _ _ _) (by decide)
    exact touches_refl _ _
  · dsimp only
    rename_i r3_0 r3_1 r3_2 r3_3 r3_4 r3_5
    unfold r3_0
    refine touches_after ?_ ‹_› (fun _ h => h)
    rename_i r4_0 r4_1 r4_2
    unfold r4_0
    refine touches_after ?_ (readPart_touches _ _ _ _ _) (by decide)
    exact touches_refl _ _

theorem logCheck_touches : ∀ a0 a1 a2,
    Touches [.freeCtr, .regs, .log, .canNode] a2 (logCheck a0 a1 a2) := by
  intro a0 a1 a2
  unfold logCheck
  refine touches_after ?_ (logOpen_touches _ _ _ _ _) (by decide)
  exact touches_refl _ _

theorem commitLoad_touches : ∀ a0 a1,
    Touches [.cores] a1 (commitLoad a0 a1) := by
  intro a0 a1
  unfold commitLoad
  extract_lets +onlyGivenNames x0
  clear_value x0
  split
  · exact touches_refl _ _
  · refine touches_ite ?_ ?_
    · refine touches_after ?_ (State.setCore_touches _ _ _) (by decide)
      exact touches_refl _ _
    · refine touches_after ?_ (State.setCore_touches _ _ _) (by decide)
      exact touches_refl _ _

theorem retire_touches : ∀ a0 a1 a2,
    Touches [.cores] a2 (retire a0 a1 a2) := by
  intro a0 a1 a2
  unfold retire
  extract_lets +onlyGivenNames x0
  refine touches_cut x0 ?_ (fun h0 => ?_)
  · unfold x0
    refine touches_after ?_ (commitLoad_touches _ _) (by decide)
    exact touches_refl _ _
  clear_value x0
  refine touches_after ?_ (State.setCore_touches _ _ _) (by decide)
  assumption

theorem tlbInvalidate_touches : ∀ a0 a1 a2,
    Touches [.cores] a2 (tlbInvalidate a0 a1 a2) := by
  intro a0 a1 a2
  unfold tlbInvalidate
  extract_lets +onlyGivenNames x0
  clear_value x0
  extract_lets +onlyGivenNames x1
  unfold x1
  clear x1
  refine touches_after ?_ (State.setCore_touches _ _ _) (by decide)
  exact touches_refl _ _

theorem applyCwr_touches : ∀ a0 a1 a2,
    Touches [.cores] a1 (applyCwr a0 a1 a2) := by
  intro a0 a1 a2
  unfold applyCwr
  refine touches_ite ?_ ?_
  · refine touches_after ?_ (tlbInvalidate_touches _ _ _) (by decide)
    exact touches_refl _ _
  · refine touches_after ?_ (setCr_touches _ _ _ _) (by decide)
    exact touches_refl _ _

theorem tickShadow_touches : ∀ a0 a1,
    Touches [.cores] a1 (tickShadow a0 a1) := by
  intro a0 a1
  unfold tickShadow
  extract_lets +onlyGivenNames x0
  clear_value x0
  refine touches_foldl (fun _ _ _ => ?_) ?_
  · refine touches_after ?_ (applyCwr_touches _ _ _) (by decide)
    assumption
  · refine touches_after ?_ (State.setCore_touches _ _ _) (by decide)
    exact touches_refl _ _

theorem completeShadow_touches : ∀ a0 a1,
    Touches [.cores] a1 (completeShadow a0 a1) := by
  intro a0 a1
  unfold completeShadow
  refine touches_foldl (fun _ _ _ => ?_) ?_
  · refine touches_after ?_ (applyCwr_touches _ _ _) (by decide)
    assumption
  · refine touches_after ?_ (State.setCore_touches _ _ _) (by decide)
    exact touches_refl _ _

theorem loopStep_touches : ∀ a0 a1 a2 a3,
    Touches [.cores] a3 (loopStep a0 a1 a2 a3).2 := by
  intro a0 a1 a2 a3
  fun_induction loopStep a0 a1 a2 a3
  · dsimp only
    exact touches_refl _ _
  · dsimp only
    refine touches_after ?_ (setCr_touches _ _ _ _) (by decide)
    exact touches_refl _ _
  · refine touches_after ?_ ‹_› (fun _ h => h)
    refine touches_after ?_ (setCr_touches _ _ _ _) (by decide)
    exact touches_refl _ _
  · refine touches_after ?_ ‹_› (fun _ h => h)
    exact touches_refl _ _

theorem setPc_touches : ∀ a0 a1 a2 a3 a4,
    Touches [.cores] a4 (setPc a0 a1 a2 a3 a4) := by
  intro a0 a1 a2 a3 a4
  unfold setPc
  refine touches_after ?_ (State.setCore_touches _ _ _) (by decide)
  exact touches_refl _ _

theorem advance_touches : ∀ a0 a1,
    Touches [.cores] a1 (advance a0 a1) := by
  intro a0 a1
  unfold advance
  extract_lets +onlyGivenNames x0
  clear_value x0
  extract_lets +onlyGivenNames x1
  refine touches_cut_snd x1 ?_ (fun h1 => ?_)
  · unfold x1
    refine touches_ite_snd ?_ ?_
    · refine touches_after ?_ (loopStep_touches _ _ _ _) (by decide)
      exact touches_refl _ _
    · dsimp only
      exact touches_refl _ _
  clear_value x1
  split
  · refine touches_after ?_ (setPc_touches _ _ _ _ _) (by decide)
    assumption
  · refine touches_after ?_ (setPc_touches _ _ _ _ _) (by decide)
    assumption

theorem branchTo_touches : ∀ a0 a1 a2,
    Touches [.cores] a2 (branchTo a0 a1 a2) := by
  intro a0 a1 a2
  unfold branchTo
  extract_lets +onlyGivenNames x0
  clear_value x0
  refine touches_after ?_ (setPc_touches _ _ _ _ _) (by decide)
  exact touches_refl _ _

theorem haltCore_touches : ∀ a0 a1,
    Touches [.cyc, .regs, .cores, .hosts] a1 (haltCore a0 a1) := by
  intro a0 a1
  unfold haltCore
  extract_lets +onlyGivenNames x0
  clear_value x0
  extract_lets +onlyGivenNames x1
  refine touches_cut x1 ?_ (fun h1 => ?_)
  · unfold x1
    refine touches_after ?_ (State.setCore_touches _ _ _) (by decide)
    exact touches_refl _ _
  clear_value x1
  refine touches_ite ?_ ?_
  · refine touches_after ?_ (freeCoreChucks_touches _ _) (by decide)
    refine touches_after ?_ (raiseTs_touches _ _) (by decide)
    assumption
  · assumption

theorem frameParts_touches : ∀ a0 a1 a2 a3,
    Touches [.freeCtr, .cyc, .regs, .cores, .checks] a3 (frameParts a0 a1 a2 a3).2 := by
  intro a0 a1 a2 a3
  fun_induction frameParts a0 a1 a2 a3
  · dsimp only
    exact touches_refl _ _
  · dsimp only
    rename_i r0_0 r0_1 r0_2
    unfold r0_0
    refine touches_after ?_ (checkAccess_touches _ _ _ _ _) (by decide)
    exact touches_refl _ _
  · dsimp only
    rename_i r1_0 r1_1 r1_2 r1_3
    unfold r1_0
    refine touches_after ?_ (checkAccess_touches _ _ _ _ _) (by decide)
    exact touches_refl _ _
  · dsimp only
    rename_i r2_0 r2_1 r2_2 r2_3
    unfold r2_0
    refine touches_after ?_ ‹_› (fun _ h => h)
    rename_i r3_0 r3_1 r3_2 r3_3
    unfold r3_0
    refine touches_after ?_ (checkAccess_touches _ _ _ _ _) (by decide)
    exact touches_refl _ _
  · dsimp only
    rename_i r4_0 r4_1 r4_2
    unfold r4_0
    refine touches_after ?_ ‹_› (fun _ h => h)
    rename_i r5_0 r5_1 r5_2 r5_3
    unfold r5_0
    refine touches_after ?_ (checkAccess_touches _ _ _ _ _) (by decide)
    exact touches_refl _ _

theorem pushFrame_touches : ∀ a0 a1 a2 a3,
    TouchesO (.freeCtr :: .cyc :: .pulses :: .devTimer :: .regs :: .sys :: .log :: .spindles :: .encoders :: .encSince :: .timers :: .ptp :: .adcs :: .comparators :: .demods :: .sectors :: .pairs :: .groups :: .tripPins :: .zonePins :: .plate :: .loops :: .place :: .cores :: .aic :: .dma :: .outbound :: .consoles :: .conJobs :: .pipes :: .streams :: .active :: .mover :: .heads :: .audio :: .keepers :: .sec :: .cvs :: .hosts :: .dict :: .canNode :: .aborts :: .iotlb :: .sbOld :: .tsClaimed :: .mem :: .poison :: .checks :: []) a3 (pushFrame a0 a1 a2 a3) := by
  intro a0 a1 a2 a3
  unfold pushFrame
  extract_lets +onlyGivenNames x0
  refine touches_cut_ofO x0 (fun p => p.2) ?_ (fun h0 => ?_)
  · unfold x0
    refine touches_after ?_ (frameParts_touches _ _ _ _) (by decide)
    exact touches_refl _ _
  clear_value x0
  split
  · exact touchesO_none
  · refine touchesO_some ?_
    refine touches_foldl_snd (fun _ _ _ => ?_) ?_
    · dsimp only
      refine touches_after ?_ (storeParts_touches _ _ _ _) (by decide)
      assumption
    · dsimp only
      assumption

theorem chooseStack_touches : ∀ a0 a1 a2 a3,
    Touches (.freeCtr :: .cyc :: .pulses :: .devTimer :: .regs :: .sys :: .log :: .spindles :: .encoders :: .encSince :: .timers :: .ptp :: .adcs :: .comparators :: .demods :: .sectors :: .pairs :: .groups :: .tripPins :: .zonePins :: .plate :: .loops :: .place :: .cores :: .aic :: .dma :: .outbound :: .consoles :: .conJobs :: .pipes :: .streams :: .active :: .mover :: .heads :: .audio :: .keepers :: .sec :: .cvs :: .hosts :: .dict :: .canNode :: .aborts :: .iotlb :: .sbOld :: .tsClaimed :: .mem :: .poison :: .checks :: []) a3 (chooseStack a0 a1 a2 a3).2 := by
  intro a0 a1 a2 a3
  unfold chooseStack
  extract_lets e em low fits
  have key : ∀ (o : Option State) (k : Option (Word × Bool) × State), TouchesO (.freeCtr :: .cyc :: .pulses :: .devTimer :: .regs :: .sys :: .log :: .spindles :: .encoders :: .encSince :: .timers :: .ptp :: .adcs :: .comparators :: .demods :: .sectors :: .pairs :: .groups :: .tripPins :: .zonePins :: .plate :: .loops :: .place :: .cores :: .aic :: .dma :: .outbound :: .consoles :: .conJobs :: .pipes :: .streams :: .active :: .mover :: .heads :: .audio :: .keepers :: .sec :: .cvs :: .hosts :: .dict :: .canNode :: .aborts :: .iotlb :: .sbOld :: .tsClaimed :: .mem :: .poison :: .checks :: []) a3 o →
      Touches (.freeCtr :: .cyc :: .pulses :: .devTimer :: .regs :: .sys :: .log :: .spindles :: .encoders :: .encSince :: .timers :: .ptp :: .adcs :: .comparators :: .demods :: .sectors :: .pairs :: .groups :: .tripPins :: .zonePins :: .plate :: .loops :: .place :: .cores :: .aic :: .dma :: .outbound :: .consoles :: .conJobs :: .pipes :: .streams :: .active :: .mover :: .heads :: .audio :: .keepers :: .sec :: .cvs :: .hosts :: .dict :: .canNode :: .aborts :: .iotlb :: .sbOld :: .tsClaimed :: .mem :: .poison :: .checks :: []) a3 k.2 → ∀ w : Word × Bool, Touches (.freeCtr :: .cyc :: .pulses :: .devTimer :: .regs :: .sys :: .log :: .spindles :: .encoders :: .encSince :: .timers :: .ptp :: .adcs :: .comparators :: .demods :: .sectors :: .pairs :: .groups :: .tripPins :: .zonePins :: .plate :: .loops :: .place :: .cores :: .aic :: .dma :: .outbound :: .consoles :: .conJobs :: .pipes :: .streams :: .active :: .mover :: .heads :: .audio :: .keepers :: .sec :: .cvs :: .hosts :: .dict :: .canNode :: .aborts :: .iotlb :: .sbOld :: .tsClaimed :: .mem :: .poison :: .checks :: []) a3 (match o with
        | some t => (some w, t)
        | none => k).2 := by
    intro o k h hk w
    split
    · exact h _ rfl
    · exact hk
  split
  · split
    · exact key _ _ (pushFrame_touches _ _ _ _) (touches_refl _ _) _
    · exact touches_refl _ _
  · refine key _ _ ?_ ?_ _
    · split
      · exact pushFrame_touches _ _ _ _
      · intro t h; cases h
    · split
      · exact key _ _ (pushFrame_touches _ _ _ _) (touches_refl _ _) _
      · exact touches_refl _ _

theorem enterExc_touches : ∀ a0 a1 a2,
    Touches (.freeCtr :: .cyc :: .pulses :: .devTimer :: .regs :: .sys :: .log :: .spindles :: .encoders :: .encSince :: .timers :: .ptp :: .adcs :: .comparators :: .demods :: .sectors :: .pairs :: .groups :: .tripPins :: .zonePins :: .plate :: .loops :: .place :: .cores :: .aic :: .dma :: .outbound :: .consoles :: .conJobs :: .pipes :: .streams :: .active :: .mover :: .heads :: .audio :: .keepers :: .sec :: .cvs :: .hosts :: .dict :: .canNode :: .aborts :: .iotlb :: .sbOld :: .tsClaimed :: .mem :: .poison :: .checks :: []) a2 (enterExc a0 a1 a2) := by
  intro a0 a1 a2
  unfold enterExc
  extract_lets +onlyGivenNames x0
  clear_value x0
  extract_lets +onlyGivenNames x1
  clear_value x1
  extract_lets +onlyGivenNames x2
  clear_value x2
  extract_lets +onlyGivenNames x3
  refine touches_cut x3 ?_ (fun h3 => ?_)
  · unfold x3
    refine touches_after ?_ (completeShadow_touches _ _) (by decide)
    refine touches_after ?_ (retire_touches _ _ _) (by decide)
    refine touches_after ?_ (commitLoad_touches _ _) (by decide)
    exact touches_refl _ _
  clear_value x3
  extract_lets +onlyGivenNames x4
  clear_value x4
  extract_lets +onlyGivenNames x5
  clear_value x5
  extract_lets +onlyGivenNames x6
  clear_value x6
  extract_lets +onlyGivenNames x7
  refine touches_cut x7 ?_ (fun h7 => ?_)
  · unfold x7
    refine touches_after ?_ (setCr_touches _ _ _ _) (by decide)
    assumption
  clear_value x7
  extract_lets +onlyGivenNames x8
  refine touches_cut_snd x8 ?_ (fun h8 => ?_)
  · unfold x8
    refine touches_after ?_ (chooseStack_touches _ _ _ _) (by decide)
    assumption
  clear_value x8
  split
  · refine touches_after ?_ (haltCore_touches _ _) (by decide)
    assumption
  · extract_lets +onlyGivenNames x9
    clear_value x9
    extract_lets +onlyGivenNames x10
    clear_value x10
    extract_lets +onlyGivenNames x11
    refine touches_cut x11 ?_ (fun h11 => ?_)
    · unfold x11
      refine touches_after ?_ (setCr_touches _ _ _ _) (by decide)
      refine touches_after ?_ (setCr_touches _ _ _ _) (by decide)
      refine touches_after ?_ (setCr_touches _ _ _ _) (by decide)
      refine touches_after ?_ (setCr_touches _ _ _ _) (by decide)
      refine touches_after ?_ (setCr_touches _ _ _ _) (by decide)
      assumption
    clear_value x11
    extract_lets +onlyGivenNames x12
    clear_value x12
    extract_lets +onlyGivenNames x13
    refine touches_cut x13 ?_ (fun h13 => ?_)
    · unfold x13
      refine touches_after ?_ (retire_touches _ _ _) (by decide)
      refine touches_after ?_ (setGreg_touches _ _ _ _) (by decide)
      assumption
    clear_value x13
    refine touches_after ?_ (setPc_touches _ _ _ _ _) (by decide)
    refine touches_after ?_ (State.setCore_touches _ _ _) (by decide)
    assumption

theorem settle_touches {F : List Part} {c : Nat} {r : Res} {s : State} (hF : ∀ p ∈ (.freeCtr :: .cyc :: .pulses :: .devTimer :: .regs :: .sys :: .log :: .spindles :: .encoders :: .encSince :: .timers :: .ptp :: .adcs :: .comparators :: .demods :: .sectors :: .pairs :: .groups :: .tripPins :: .zonePins :: .plate :: .loops :: .place :: .cores :: .aic :: .dma :: .outbound :: .consoles :: .conJobs :: .pipes :: .streams :: .active :: .mover :: .heads :: .audio :: .keepers :: .sec :: .cvs :: .hosts :: .dict :: .canNode :: .aborts :: .iotlb :: .sbOld :: .tsClaimed :: .mem :: .poison :: .checks :: []), p ∈ F) (h : TouchesR F s r) :
    Touches F s (settle c r) := by
  have m (G : List Part) (hG : ∀ p ∈ G, p ∈ (.freeCtr :: .cyc :: .pulses :: .devTimer :: .regs :: .sys :: .log :: .spindles :: .encoders :: .encSince :: .timers :: .ptp :: .adcs :: .comparators :: .demods :: .sectors :: .pairs :: .groups :: .tripPins :: .zonePins :: .plate :: .loops :: .place :: .cores :: .aic :: .dma :: .outbound :: .consoles :: .conJobs :: .pipes :: .streams :: .active :: .mover :: .heads :: .audio :: .keepers :: .sec :: .cvs :: .hosts :: .dict :: .canNode :: .aborts :: .iotlb :: .sbOld :: .tsClaimed :: .mem :: .poison :: .checks :: [])) : ∀ p ∈ G, p ∈ F := fun p hp => hF p (hG p hp)
  unfold settle
  cases r with
  | next u => exact touches_after (touches_after (touches_after h (retire_touches _ _ _) (m _ (by decide))) (advance_touches _ _) (m _ (by decide))) (tickShadow_touches _ _) (m _ (by decide))
  | loaded d v u => exact touches_after (touches_after (touches_after h (retire_touches _ _ _) (m _ (by decide))) (advance_touches _ _) (m _ (by decide))) (tickShadow_touches _ _) (m _ (by decide))
  | branch x u => exact touches_after (touches_after (touches_after h (retire_touches _ _ _) (m _ (by decide))) (branchTo_touches _ _ _) (m _ (by decide))) (tickShadow_touches _ _) (m _ (by decide))
  | goto x u => exact touches_after (touches_after (touches_after h (retire_touches _ _ _) (m _ (by decide))) (setPc_touches _ _ _ _ _) (m _ (by decide))) (tickShadow_touches _ _) (m _ (by decide))
  | raise e u => exact touches_after h (enterExc_touches _ _ _) (m _ (by decide))
  | stay u => exact h
  | resume a b d u => exact touches_after (touches_after (touches_after h (retire_touches _ _ _) (m _ (by decide))) (setPc_touches _ _ _ _ _) (m _ (by decide))) (tickShadow_touches _ _) (m _ (by decide))
  | lost u => exact touches_after h (spoilCore_touches _ _) (m _ (by decide))

theorem issue_touches {F : List Part} {c : Nat} {k : Shape} {b : State → Res} {s t : State} (hF : ∀ p ∈ (.freeCtr :: .cyc :: .pulses :: .devTimer :: .regs :: .sys :: .log :: .spindles :: .encoders :: .encSince :: .timers :: .ptp :: .adcs :: .comparators :: .demods :: .sectors :: .pairs :: .groups :: .tripPins :: .zonePins :: .plate :: .loops :: .place :: .cores :: .aic :: .dma :: .outbound :: .consoles :: .conJobs :: .pipes :: .streams :: .active :: .mover :: .heads :: .audio :: .keepers :: .sec :: .cvs :: .hosts :: .dict :: .canNode :: .aborts :: .iotlb :: .sbOld :: .tsClaimed :: .mem :: .poison :: .checks :: []), p ∈ F)
    (hb : ∀ u, TouchesR F u (b u)) (h : Touches F s t) :
    Touches F s (issue c k b t) := by
  unfold issue
  split
  · exact h
  · extract_lets xs x0 x1
    have h0 : Touches F s x0 := touches_after h (State.setCore_touches _ _ _) (fun p hp => hF p ((show ∀ p ∈ _, p ∈ _ by decide) p hp))
    have h1 : Touches F s x1.2 := touches_after h0 (checkAccess_touches _ _ _ _ _) (fun p hp => hF p ((show ∀ p ∈ _, p ∈ _ by decide) p hp))
    split
    · exact touches_after h1 (enterExc_touches _ _ _) (fun p hp => hF p ((show ∀ p ∈ _, p ∈ _ by decide) p hp))
    · split
      · exact touches_after h1 (spoilCore_touches _ _) (fun p hp => hF p ((show ∀ p ∈ _, p ∈ _ by decide) p hp))
      · exact settle_touches (fun p hp => hF p ((show ∀ p ∈ _, p ∈ _ by decide) p hp)) (touchesR_trans h1 (hb _))

theorem privileged_touches {F : List Part} {c : Nat} {b : State → Res} {s t : State} (hb : ∀ u, TouchesR F u (b u)) (h : Touches F s t) :
    TouchesR F s (privileged c b t) := by
  unfold privileged
  split
  · exact touchesR_trans h (hb _)
  · exact h

theorem reserved_touches : ∀ a0,
    TouchesR [] a0 (reserved a0) := by
  intro a0
  unfold reserved
  show Touches _ _ _
  dsimp only [Res.st]
  exact touches_refl _ _

theorem updateBase_touches : ∀ a0 a1 a2,
    Touches [.cores] a2 (updateBase a0 a1 a2) := by
  intro a0 a1 a2
  unfold updateBase
  split
  · refine touches_after ?_ (setGreg_touches _ _ _ _) (by decide)
    exact touches_refl _ _
  · exact touches_refl _ _

theorem loadEnd_touches : ∀ a0 a1 a2,
    TouchesR (.freeCtr :: .cyc :: .devTimer :: .regs :: .shadow :: .sys :: .log :: .spindles :: .ptp :: .sectors :: .plate :: .place :: .cores :: .aic :: .streams :: .mover :: .audio :: .cvs :: .dict :: .canNode :: .cans :: .tsClaimed :: .mem :: .poison :: .checks :: []) a2 (loadEnd a0 a1 a2) := by
  intro a0 a1 a2
  unfold loadEnd
  refine touchesR_ite ?_ ?_
  · show Touches _ _ _
    dsimp only [Res.st]
    exact touches_refl _ _
  · extract_lets +onlyGivenNames x0
    refine touches_cut_ofR x0 (fun p => p.2) ?_ (fun h0 => ?_)
    · unfold x0
      refine touches_after ?_ (readParts_touches _ _ _) (by decide)
      exact touches_refl _ _
    clear_value x0
    extract_lets +onlyGivenNames x1
    unfold x1
    clear x1
    split
    · extract_lets +onlyGivenNames x2
      refine touches_cut_ofR x2 (fun p => p) ?_ (fun h2 => ?_)
      · unfold x2
        refine touches_after ?_ (updateBase_touches _ _ _) (by decide)
        assumption
      clear_value x2
      show Touches _ _ _
      dsimp only [Res.st]
      refine touches_ite ?_ ?_
      · refine touches_after ?_ (State.setCore_touches _ _ _) (by decide)
        assumption
      · assumption
    · extract_lets +onlyGivenNames x3
      refine touches_cut_ofR x3 (fun p => p) ?_ (fun h3 => ?_)
      · unfold x3
        refine touches_after ?_ (logCheck_touches _ _ _) (by decide)
        assumption
      clear_value x3
      extract_lets +onlyGivenNames x4
      refine touches_cut_ofR x4 (fun p => p.2) ?_ (fun h4 => ?_)
      · unfold x4
        refine touches_after ?_ (takeFree_touches _ _) (by decide)
        assumption
      clear_value x4
      refine touchesR_ite ?_ ?_
      · refine touchesR_ite ?_ ?_
        · show Touches _ _ _
          dsimp only [Res.st]
          refine touches_after ?_ (mcrRecord_touches _ _ _) (by decide)
          assumption
        · extract_lets +onlyGivenNames x5
          refine touches_cut_ofR x5 (fun p => p) ?_ (fun h5 => ?_)
          · unfold x5
            refine touches_after ?_ (updateBase_touches _ _ _) (by decide)
            refine touches_after ?_ (logCheck_touches _ _ _) (by decide)
            refine touches_after ?_ (countUpFld_touches _ _ _ _) (by decide)
            assumption
          clear_value x5
          show Touches _ _ _
          dsimp only [Res.st]
          refine touches_ite ?_ ?_
          · refine touches_after ?_ (State.setCore_touches _ _ _) (by decide)
            assumption
          · assumption
      · extract_lets +onlyGivenNames x6
        refine touches_cut_ofR x6 (fun p => p) ?_ (fun h6 => ?_)
        · unfold x6
          refine touches_after ?_ (updateBase_touches _ _ _) (by decide)
          refine touches_after ?_ (postCheck_touches _ _ _ _) (by decide)
          assumption
        clear_value x6
        show Touches _ _ _
        dsimp only [Res.st]
        refine touches_ite ?_ ?_
        · refine touches_after ?_ (State.setCore_touches _ _ _) (by decide)
          assumption
        · assumption

theorem loadStart_touches : ∀ a0 a1 a2,
    TouchesR (.freeCtr :: .cyc :: .pulses :: .devTimer :: .regs :: .shadow :: .sys :: .log :: .spindles :: .encoders :: .encSince :: .timers :: .ptp :: .adcs :: .comparators :: .demods :: .sectors :: .pairs :: .groups :: .tripPins :: .zonePins :: .plate :: .loops :: .place :: .cores :: .aic :: .dma :: .outbound :: .consoles :: .conJobs :: .pipes :: .streams :: .active :: .mover :: .heads :: .audio :: .keepers :: .sec :: .cvs :: .hosts :: .dict :: .canNode :: .cans :: .aborts :: .iotlb :: .sbOld :: .tsClaimed :: .mem :: .poison :: .checks :: []) a2 (loadStart a0 a1 a2) := by
  intro a0 a1 a2
  unfold loadStart
  extract_lets +onlyGivenNames x0
  clear_value x0
  extract_lets +onlyGivenNames x1
  clear_value x1
  extract_lets +onlyGivenNames x2
  refine touches_cut_ofR x2 (fun p => p) ?_ (fun h2 => ?_)
  · unfold x2
    refine touches_ite ?_ ?_
    · refine touches_after ?_ (drainAll_touches _ _) (by decide)
      exact touches_refl _ _
    · refine touches_after ?_ (drain_touches _ _ _) (by decide)
      exact touches_refl _ _
  clear_value x2
  refine touchesR_ite ?_ ?_
  · refine touchesR_after ?_ (loadEnd_touches _ _ _) (by decide)
    assumption
  · show Touches _ _ _
    dsimp only [Res.st]
    refine touches_after ?_ (State.setCore_touches _ _ _) (by decide)
    assumption

theorem loadReturn_touches : ∀ a0 a1,
    Touches (.freeCtr :: .cyc :: .pulses :: .devTimer :: .regs :: .shadow :: .sys :: .log :: .spindles :: .encoders :: .encSince :: .timers :: .ptp :: .adcs :: .comparators :: .demods :: .sectors :: .pairs :: .groups :: .tripPins :: .zonePins :: .plate :: .loops :: .place :: .cores :: .aic :: .dma :: .outbound :: .consoles :: .conJobs :: .pipes :: .streams :: .active :: .mover :: .heads :: .audio :: .keepers :: .sec :: .cvs :: .hosts :: .dict :: .canNode :: .cans :: .aborts :: .iotlb :: .sbOld :: .tsClaimed :: .mem :: .poison :: .checks :: []) a1 (loadReturn a0 a1) := by
  intro a0 a1
  unfold loadReturn
  split
  · exact touches_refl _ _
  · refine settle_touches (by decide) ?_
    refine touchesR_after ?_ (loadEnd_touches _ _ _) (by decide)
    refine touches_after ?_ (State.setCore_touches _ _ _) (by decide)
    exact touches_refl _ _

theorem interruptEff_touches : ∀ a0 a1,
    Touches (.freeCtr :: .cyc :: .pulses :: .devTimer :: .regs :: .sys :: .log :: .spindles :: .encoders :: .encSince :: .timers :: .ptp :: .adcs :: .comparators :: .demods :: .sectors :: .pairs :: .groups :: .tripPins :: .zonePins :: .plate :: .loops :: .place :: .cores :: .aic :: .dma :: .outbound :: .consoles :: .conJobs :: .pipes :: .streams :: .active :: .mover :: .heads :: .audio :: .keepers :: .sec :: .cvs :: .hosts :: .dict :: .canNode :: .aborts :: .iotlb :: .sbOld :: .tsClaimed :: .mem :: .poison :: .checks :: []) a1 (interruptEff a0 a1) := by
  intro a0 a1
  unfold interruptEff
  refine touches_ite ?_ ?_
  · refine touches_after ?_ (enterExc_touches _ _ _) (by decide)
    refine touches_after ?_ (freeze_touches _ _) (by decide)
    exact touches_refl _ _
  · exact touches_refl _ _

theorem execInterruptLatch_touches : ∀ a0 a1,
    ∃ t, execInterruptLatch a0 a1 = .next t ∧ Touches (.freeCtr :: .cyc :: .pulses :: .devTimer :: .regs :: .sys :: .log :: .spindles :: .encoders :: .encSince :: .timers :: .ptp :: .adcs :: .comparators :: .demods :: .sectors :: .pairs :: .groups :: .tripPins :: .zonePins :: .plate :: .loops :: .place :: .cores :: .aic :: .dma :: .outbound :: .consoles :: .conJobs :: .pipes :: .streams :: .active :: .mover :: .heads :: .audio :: .keepers :: .sec :: .cvs :: .hosts :: .dict :: .canNode :: .aborts :: .iotlb :: .sbOld :: .tsClaimed :: .mem :: .poison :: .checks :: []) a1 t := by
  intro a0 a1
  unfold execInterruptLatch
  refine ⟨_, rfl, ?_⟩
  refine touches_ite ?_ ?_
  · refine touches_after ?_ (interruptEff_touches _ _) (by decide)
    exact touches_refl _ _
  · refine touches_ite ?_ ?_
    · refine touches_after ?_ (enterExc_touches _ _ _) (by decide)
      exact touches_refl _ _
    · exact touches_refl _ _

theorem lateErrorEff_touches : ∀ a0 a1,
    Touches (.freeCtr :: .cyc :: .pulses :: .devTimer :: .regs :: .sys :: .log :: .spindles :: .encoders :: .encSince :: .timers :: .ptp :: .adcs :: .comparators :: .demods :: .sectors :: .pairs :: .groups :: .tripPins :: .zonePins :: .plate :: .loops :: .place :: .cores :: .aic :: .dma :: .outbound :: .consoles :: .conJobs :: .pipes :: .streams :: .active :: .mover :: .heads :: .audio :: .keepers :: .sec :: .cvs :: .hosts :: .dict :: .canNode :: .aborts :: .iotlb :: .sbOld :: .tsClaimed :: .mem :: .poison :: .checks :: []) a1 (lateErrorEff a0 a1) := by
  intro a0 a1
  unfold lateErrorEff
  split
  · exact touches_refl _ _
  · refine touches_ite ?_ ?_
    · refine touches_after ?_ (enterExc_touches _ _ _) (by decide)
      refine touches_after ?_ (State.setCore_touches _ _ _) (by decide)
      exact touches_refl _ _
    · exact touches_refl _ _

theorem execImpreciseBusError_touches : ∀ a0 a1,
    ∃ t, execImpreciseBusError a0 a1 = .next t ∧ Touches (.freeCtr :: .cyc :: .pulses :: .devTimer :: .regs :: .sys :: .log :: .spindles :: .encoders :: .encSince :: .timers :: .ptp :: .adcs :: .comparators :: .demods :: .sectors :: .pairs :: .groups :: .tripPins :: .zonePins :: .plate :: .loops :: .place :: .cores :: .aic :: .dma :: .outbound :: .consoles :: .conJobs :: .pipes :: .streams :: .active :: .mover :: .heads :: .audio :: .keepers :: .sec :: .cvs :: .hosts :: .dict :: .canNode :: .aborts :: .iotlb :: .sbOld :: .tsClaimed :: .mem :: .poison :: .checks :: []) a1 t := by
  intro a0 a1
  unfold execImpreciseBusError
  refine ⟨_, rfl, ?_⟩
  refine touches_after ?_ (lateErrorEff_touches _ _) (by decide)
  exact touches_refl _ _

theorem execStoreBufferDrain_touches : ∀ a0 a1,
    ∃ t, execStoreBufferDrain a0 a1 = .next t ∧ Touches (.freeCtr :: .cyc :: .pulses :: .devTimer :: .regs :: .sys :: .log :: .spindles :: .encoders :: .encSince :: .timers :: .ptp :: .adcs :: .comparators :: .demods :: .sectors :: .pairs :: .groups :: .tripPins :: .zonePins :: .plate :: .loops :: .place :: .cores :: .aic :: .dma :: .outbound :: .consoles :: .conJobs :: .pipes :: .streams :: .active :: .mover :: .heads :: .audio :: .keepers :: .sec :: .cvs :: .hosts :: .dict :: .canNode :: .aborts :: .iotlb :: .sbOld :: .tsClaimed :: .mem :: .poison :: .checks :: []) a1 t := by
  intro a0 a1
  unfold execStoreBufferDrain
  refine ⟨_, rfl, ?_⟩
  refine touches_ite ?_ ?_
  · refine touches_after ?_ (drainOne_touches _ _) (by decide)
    exact touches_refl _ _
  · exact touches_refl _ _

theorem execLoadDataReturn_touches : ∀ a0 a1,
    ∃ t, execLoadDataReturn a0 a1 = .next t ∧ Touches (.freeCtr :: .cyc :: .pulses :: .devTimer :: .regs :: .shadow :: .sys :: .log :: .spindles :: .encoders :: .encSince :: .timers :: .ptp :: .adcs :: .comparators :: .demods :: .sectors :: .pairs :: .groups :: .tripPins :: .zonePins :: .plate :: .loops :: .place :: .cores :: .aic :: .dma :: .outbound :: .consoles :: .conJobs :: .pipes :: .streams :: .active :: .mover :: .heads :: .audio :: .keepers :: .sec :: .cvs :: .hosts :: .dict :: .canNode :: .cans :: .aborts :: .iotlb :: .sbOld :: .tsClaimed :: .mem :: .poison :: .checks :: []) a1 t := by
  intro a0 a1
  unfold execLoadDataReturn
  refine ⟨_, rfl, ?_⟩
  refine touches_ite ?_ ?_
  · refine touches_after ?_ (loadReturn_touches _ _) (by decide)
    exact touches_refl _ _
  · exact touches_refl _ _

theorem tableWalkEff_touches : ∀ a0 a1 a2 a3,
    Touches (.freeCtr :: .cyc :: .pulses :: .devTimer :: .regs :: .sys :: .log :: .spindles :: .encoders :: .encSince :: .timers :: .ptp :: .adcs :: .comparators :: .demods :: .sectors :: .pairs :: .groups :: .tripPins :: .zonePins :: .plate :: .loops :: .place :: .cores :: .aic :: .dma :: .outbound :: .consoles :: .conJobs :: .pipes :: .streams :: .active :: .mover :: .heads :: .audio :: .keepers :: .sec :: .cvs :: .hosts :: .dict :: .canNode :: .aborts :: .iotlb :: .sbOld :: .tsClaimed :: .mem :: .poison :: .checks :: []) a3 (tableWalkEff a0 a1 a2 a3) := by
  intro a0 a1 a2 a3
  unfold tableWalkEff
  refine touches_ite ?_ ?_
  · extract_lets +onlyGivenNames x0
    refine touches_cut_snd x0 ?_ (fun h0 => ?_)
    · unfold x0
      refine touches_after ?_ (translate_touches _ _ _ _) (by decide)
      exact touches_refl _ _
    clear_value x0
    split
    · refine touches_after ?_ (enterExc_touches _ _ _) (by decide)
      assumption
    · assumption
  · exact touches_refl _ _

theorem execTableWalk_touches : ∀ a0 a1 a2 a3,
    ∃ t, execTableWalk a0 a1 a2 a3 = .next t ∧ Touches (.freeCtr :: .cyc :: .pulses :: .devTimer :: .regs :: .sys :: .log :: .spindles :: .encoders :: .encSince :: .timers :: .ptp :: .adcs :: .comparators :: .demods :: .sectors :: .pairs :: .groups :: .tripPins :: .zonePins :: .plate :: .loops :: .place :: .cores :: .aic :: .dma :: .outbound :: .consoles :: .conJobs :: .pipes :: .streams :: .active :: .mover :: .heads :: .audio :: .keepers :: .sec :: .cvs :: .hosts :: .dict :: .canNode :: .aborts :: .iotlb :: .sbOld :: .tsClaimed :: .mem :: .poison :: .checks :: []) a3 t := by
  intro a0 a1 a2 a3
  unfold execTableWalk
  refine ⟨_, rfl, ?_⟩
  refine touches_ite ?_ ?_
  · refine touches_after ?_ (tableWalkEff_touches _ _ _ _) (by decide)
    exact touches_refl _ _
  · exact touches_refl _ _

theorem deliverCheck_touches : ∀ a0 a1,
    Touches (.freeCtr :: .cyc :: .pulses :: .devTimer :: .regs :: .sys :: .log :: .spindles :: .encoders :: .encSince :: .timers :: .ptp :: .adcs :: .comparators :: .demods :: .sectors :: .pairs :: .groups :: .tripPins :: .zonePins :: .plate :: .loops :: .place :: .cores :: .aic :: .dma :: .outbound :: .consoles :: .conJobs :: .pipes :: .streams :: .active :: .mover :: .heads :: .audio :: .keepers :: .sec :: .cvs :: .hosts :: .dict :: .canNode :: .aborts :: .iotlb :: .sbOld :: .tsClaimed :: .mem :: .poison :: .checks :: []) a1 (deliverCheck a0 a1) := by
  intro a0 a1
  unfold deliverCheck
  extract_lets +onlyGivenNames x0
  refine touches_cut x0 ?_ (fun h0 => ?_)
  · unfold x0
    refine touches_after ?_ (logCheck_touches _ _ _) (by decide)
    exact touches_refl _ _
  clear_value x0
  split
  · refine touches_ite ?_ ?_
    · refine touches_ite ?_ ?_
      · refine touches_after ?_ (enterExc_touches _ _ _) (by decide)
        refine touches_after ?_ (mcrRecord_touches _ _ _) (by decide)
        assumption
      · refine touches_after ?_ (countUpFld_touches _ _ _ _) (by decide)
        assumption
    · refine touches_after ?_ (raiseTs_touches _ _) (by decide)
      assumption
  · refine touches_after ?_ (raiseTs_touches _ _) (by decide)
    assumption

theorem machineCheckEff_touches : ∀ a0,
    Touches (.freeCtr :: .cyc :: .pulses :: .devTimer :: .regs :: .sys :: .log :: .spindles :: .encoders :: .encSince :: .timers :: .ptp :: .adcs :: .comparators :: .demods :: .sectors :: .pairs :: .groups :: .tripPins :: .zonePins :: .plate :: .loops :: .place :: .cores :: .aic :: .dma :: .outbound :: .consoles :: .conJobs :: .pipes :: .streams :: .active :: .mover :: .heads :: .audio :: .keepers :: .sec :: .cvs :: .hosts :: .dict :: .canNode :: .aborts :: .iotlb :: .sbOld :: .tsClaimed :: .mem :: .poison :: .checks :: []) a0 (machineCheckEff a0) := by
  intro a0
  unfold machineCheckEff
  split
  · exact touches_refl _ _
  · extract_lets +onlyGivenNames x0
    clear_value x0
    refine touches_ite ?_ ?_
    · exact touches_refl _ _
    · refine touches_after ?_ (deliverCheck_touches _ _) (by decide)
      refine touches_after ?_ (touch_checks _) (by decide)
      exact touches_refl _ _

theorem execMachineCheck_touches : ∀ a0,
    ∃ t, execMachineCheck a0 = .next t ∧ Touches (.freeCtr :: .cyc :: .pulses :: .devTimer :: .regs :: .sys :: .log :: .spindles :: .encoders :: .encSince :: .timers :: .ptp :: .adcs :: .comparators :: .demods :: .sectors :: .pairs :: .groups :: .tripPins :: .zonePins :: .plate :: .loops :: .place :: .cores :: .aic :: .dma :: .outbound :: .consoles :: .conJobs :: .pipes :: .streams :: .active :: .mover :: .heads :: .audio :: .keepers :: .sec :: .cvs :: .hosts :: .dict :: .canNode :: .aborts :: .iotlb :: .sbOld :: .tsClaimed :: .mem :: .poison :: .checks :: []) a0 t := by
  intro a0
  unfold execMachineCheck
  refine ⟨_, rfl, ?_⟩
  refine touches_ite ?_ ?_
  · refine touches_after ?_ (machineCheckEff_touches _) (by decide)
    exact touches_refl _ _
  · exact touches_refl _ _

end Sys2Proof.Machine
end

