-- ==== Sys2Proof/Laws/TouchIsa.lean ====
section
/-! SUPPORT. Which parts of the state the definitions of Machine/Isa.lean touch: one lemma for each, the proofs written by a
script from their shape. -/

namespace Sys2Proof.Machine

theorem alu_touches : ∀ a0 a1 a2 a3 a4 a5,
    Touches (.freeCtr :: .cyc :: .pulses :: .devTimer :: .regs :: .sys :: .log :: .spindles :: .encoders :: .encSince :: .timers :: .ptp :: .adcs :: .comparators :: .demods :: .sectors :: .pairs :: .groups :: .tripPins :: .zonePins :: .plate :: .loops :: .place :: .cores :: .aic :: .dma :: .outbound :: .consoles :: .conJobs :: .pipes :: .streams :: .active :: .mover :: .heads :: .audio :: .keepers :: .sec :: .cvs :: .hosts :: .dict :: .canNode :: .aborts :: .iotlb :: .sbOld :: .tsClaimed :: .mem :: .poison :: .checks :: []) a5 (alu a0 a1 a2 a3 a4 a5) := by
  intro a0 a1 a2 a3 a4 a5
  unfold alu
  refine issue_touches (by decide) (fun _ => ?_) ?_
  · show Touches _ _ _
    dsimp only [Res.st]
    refine touches_after ?_ (setGreg_touches _ _ _ _) (by decide)
    exact touches_refl _ _
  · exact touches_refl _ _

theorem aluImm_touches : ∀ a0 a1 a2 a3 a4,
    Touches (.freeCtr :: .cyc :: .pulses :: .devTimer :: .regs :: .sys :: .log :: .spindles :: .encoders :: .encSince :: .timers :: .ptp :: .adcs :: .comparators :: .demods :: .sectors :: .pairs :: .groups :: .tripPins :: .zonePins :: .plate :: .loops :: .place :: .cores :: .aic :: .dma :: .outbound :: .consoles :: .conJobs :: .pipes :: .streams :: .active :: .mover :: .heads :: .audio :: .keepers :: .sec :: .cvs :: .hosts :: .dict :: .canNode :: .aborts :: .iotlb :: .sbOld :: .tsClaimed :: .mem :: .poison :: .checks :: []) a4 (aluImm a0 a1 a2 a3 a4) := by
  intro a0 a1 a2 a3 a4
  unfold aluImm
  refine issue_touches (by decide) (fun _ => ?_) ?_
  · show Touches _ _ _
    dsimp only [Res.st]
    refine touches_after ?_ (setGreg_touches _ _ _ _) (by decide)
    exact touches_refl _ _
  · exact touches_refl _ _

theorem execAdd_touches : ∀ a0 a1 a2 a3 a4,
    ∃ t, execAdd a0 a1 a2 a3 a4 = .next t ∧ Touches (.freeCtr :: .cyc :: .pulses :: .devTimer :: .regs :: .sys :: .log :: .spindles :: .encoders :: .encSince :: .timers :: .ptp :: .adcs :: .comparators :: .demods :: .sectors :: .pairs :: .groups :: .tripPins :: .zonePins :: .plate :: .loops :: .place :: .cores :: .aic :: .dma :: .outbound :: .consoles :: .conJobs :: .pipes :: .streams :: .active :: .mover :: .heads :: .audio :: .keepers :: .sec :: .cvs :: .hosts :: .dict :: .canNode :: .aborts :: .iotlb :: .sbOld :: .tsClaimed :: .mem :: .poison :: .checks :: []) a4 t := by
  intro a0 a1 a2 a3 a4
  unfold execAdd
  refine ⟨_, rfl, ?_⟩
  refine touches_after ?_ (alu_touches _ _ _ _ _ _) (by decide)
  exact touches_refl _ _

theorem execSub_touches : ∀ a0 a1 a2 a3 a4,
    ∃ t, execSub a0 a1 a2 a3 a4 = .next t ∧ Touches (.freeCtr :: .cyc :: .pulses :: .devTimer :: .regs :: .sys :: .log :: .spindles :: .encoders :: .encSince :: .timers :: .ptp :: .adcs :: .comparators :: .demods :: .sectors :: .pairs :: .groups :: .tripPins :: .zonePins :: .plate :: .loops :: .place :: .cores :: .aic :: .dma :: .outbound :: .consoles :: .conJobs :: .pipes :: .streams :: .active :: .mover :: .heads :: .audio :: .keepers :: .sec :: .cvs :: .hosts :: .dict :: .canNode :: .aborts :: .iotlb :: .sbOld :: .tsClaimed :: .mem :: .poison :: .checks :: []) a4 t := by
  intro a0 a1 a2 a3 a4
  unfold execSub
  refine ⟨_, rfl, ?_⟩
  refine touches_after ?_ (alu_touches _ _ _ _ _ _) (by decide)
  exact touches_refl _ _

theorem execAndOp_touches : ∀ a0 a1 a2 a3 a4,
    ∃ t, execAndOp a0 a1 a2 a3 a4 = .next t ∧ Touches (.freeCtr :: .cyc :: .pulses :: .devTimer :: .regs :: .sys :: .log :: .spindles :: .encoders :: .encSince :: .timers :: .ptp :: .adcs :: .comparators :: .demods :: .sectors :: .pairs :: .groups :: .tripPins :: .zonePins :: .plate :: .loops :: .place :: .cores :: .aic :: .dma :: .outbound :: .consoles :: .conJobs :: .pipes :: .streams :: .active :: .mover :: .heads :: .audio :: .keepers :: .sec :: .cvs :: .hosts :: .dict :: .canNode :: .aborts :: .iotlb :: .sbOld :: .tsClaimed :: .mem :: .poison :: .checks :: []) a4 t := by
  intro a0 a1 a2 a3 a4
  unfold execAndOp
  refine ⟨_, rfl, ?_⟩
  refine touches_after ?_ (alu_touches _ _ _ _ _ _) (by decide)
  exact touches_refl _ _

theorem execOrOp_touches : ∀ a0 a1 a2 a3 a4,
    ∃ t, execOrOp a0 a1 a2 a3 a4 = .next t ∧ Touches (.freeCtr :: .cyc :: .pulses :: .devTimer :: .regs :: .sys :: .log :: .spindles :: .encoders :: .encSince :: .timers :: .ptp :: .adcs :: .comparators :: .demods :: .sectors :: .pairs :: .groups :: .tripPins :: .zonePins :: .plate :: .loops :: .place :: .cores :: .aic :: .dma :: .outbound :: .consoles :: .conJobs :: .pipes :: .streams :: .active :: .mover :: .heads :: .audio :: .keepers :: .sec :: .cvs :: .hosts :: .dict :: .canNode :: .aborts :: .iotlb :: .sbOld :: .tsClaimed :: .mem :: .poison :: .checks :: []) a4 t := by
  intro a0 a1 a2 a3 a4
  unfold execOrOp
  refine ⟨_, rfl, ?_⟩
  refine touches_after ?_ (alu_touches _ _ _ _ _ _) (by decide)
  exact touches_refl _ _

theorem execXor_touches : ∀ a0 a1 a2 a3 a4,
    ∃ t, execXor a0 a1 a2 a3 a4 = .next t ∧ Touches (.freeCtr :: .cyc :: .pulses :: .devTimer :: .regs :: .sys :: .log :: .spindles :: .encoders :: .encSince :: .timers :: .ptp :: .adcs :: .comparators :: .demods :: .sectors :: .pairs :: .groups :: .tripPins :: .zonePins :: .plate :: .loops :: .place :: .cores :: .aic :: .dma :: .outbound :: .consoles :: .conJobs :: .pipes :: .streams :: .active :: .mover :: .heads :: .audio :: .keepers :: .sec :: .cvs :: .hosts :: .dict :: .canNode :: .aborts :: .iotlb :: .sbOld :: .tsClaimed :: .mem :: .poison :: .checks :: []) a4 t := by
  intro a0 a1 a2 a3 a4
  unfold execXor
  refine ⟨_, rfl, ?_⟩
  refine touches_after ?_ (alu_touches _ _ _ _ _ _) (by decide)
  exact touches_refl _ _

theorem execOrn_touches : ∀ a0 a1 a2 a3 a4,
    ∃ t, execOrn a0 a1 a2 a3 a4 = .next t ∧ Touches (.freeCtr :: .cyc :: .pulses :: .devTimer :: .regs :: .sys :: .log :: .spindles :: .encoders :: .encSince :: .timers :: .ptp :: .adcs :: .comparators :: .demods :: .sectors :: .pairs :: .groups :: .tripPins :: .zonePins :: .plate :: .loops :: .place :: .cores :: .aic :: .dma :: .outbound :: .consoles :: .conJobs :: .pipes :: .streams :: .active :: .mover :: .heads :: .audio :: .keepers :: .sec :: .cvs :: .hosts :: .dict :: .canNode :: .aborts :: .iotlb :: .sbOld :: .tsClaimed :: .mem :: .poison :: .checks :: []) a4 t := by
  intro a0 a1 a2 a3 a4
  unfold execOrn
  refine ⟨_, rfl, ?_⟩
  refine touches_after ?_ (alu_touches _ _ _ _ _ _) (by decide)
  exact touches_refl _ _

theorem execLt_touches : ∀ a0 a1 a2 a3 a4,
    ∃ t, execLt a0 a1 a2 a3 a4 = .next t ∧ Touches (.freeCtr :: .cyc :: .pulses :: .devTimer :: .regs :: .sys :: .log :: .spindles :: .encoders :: .encSince :: .timers :: .ptp :: .adcs :: .comparators :: .demods :: .sectors :: .pairs :: .groups :: .tripPins :: .zonePins :: .plate :: .loops :: .place :: .cores :: .aic :: .dma :: .outbound :: .consoles :: .conJobs :: .pipes :: .streams :: .active :: .mover :: .heads :: .audio :: .keepers :: .sec :: .cvs :: .hosts :: .dict :: .canNode :: .aborts :: .iotlb :: .sbOld :: .tsClaimed :: .mem :: .poison :: .checks :: []) a4 t := by
  intro a0 a1 a2 a3 a4
  unfold execLt
  refine ⟨_, rfl, ?_⟩
  refine touches_after ?_ (alu_touches _ _ _ _ _ _) (by decide)
  exact touches_refl _ _

theorem execLtu_touches : ∀ a0 a1 a2 a3 a4,
    ∃ t, execLtu a0 a1 a2 a3 a4 = .next t ∧ Touches (.freeCtr :: .cyc :: .pulses :: .devTimer :: .regs :: .sys :: .log :: .spindles :: .encoders :: .encSince :: .timers :: .ptp :: .adcs :: .comparators :: .demods :: .sectors :: .pairs :: .groups :: .tripPins :: .zonePins :: .plate :: .loops :: .place :: .cores :: .aic :: .dma :: .outbound :: .consoles :: .conJobs :: .pipes :: .streams :: .active :: .mover :: .heads :: .audio :: .keepers :: .sec :: .cvs :: .hosts :: .dict :: .canNode :: .aborts :: .iotlb :: .sbOld :: .tsClaimed :: .mem :: .poison :: .checks :: []) a4 t := by
  intro a0 a1 a2 a3 a4
  unfold execLtu
  refine ⟨_, rfl, ?_⟩
  refine touches_after ?_ (alu_touches _ _ _ _ _ _) (by decide)
  exact touches_refl _ _

theorem execEq_touches : ∀ a0 a1 a2 a3 a4,
    ∃ t, execEq a0 a1 a2 a3 a4 = .next t ∧ Touches (.freeCtr :: .cyc :: .pulses :: .devTimer :: .regs :: .sys :: .log :: .spindles :: .encoders :: .encSince :: .timers :: .ptp :: .adcs :: .comparators :: .demods :: .sectors :: .pairs :: .groups :: .tripPins :: .zonePins :: .plate :: .loops :: .place :: .cores :: .aic :: .dma :: .outbound :: .consoles :: .conJobs :: .pipes :: .streams :: .active :: .mover :: .heads :: .audio :: .keepers :: .sec :: .cvs :: .hosts :: .dict :: .canNode :: .aborts :: .iotlb :: .sbOld :: .tsClaimed :: .mem :: .poison :: .checks :: []) a4 t := by
  intro a0 a1 a2 a3 a4
  unfold execEq
  refine ⟨_, rfl, ?_⟩
  refine touches_after ?_ (alu_touches _ _ _ _ _ _) (by decide)
  exact touches_refl _ _

theorem execNe_touches : ∀ a0 a1 a2 a3 a4,
    ∃ t, execNe a0 a1 a2 a3 a4 = .next t ∧ Touches (.freeCtr :: .cyc :: .pulses :: .devTimer :: .regs :: .sys :: .log :: .spindles :: .encoders :: .encSince :: .timers :: .ptp :: .adcs :: .comparators :: .demods :: .sectors :: .pairs :: .groups :: .tripPins :: .zonePins :: .plate :: .loops :: .place :: .cores :: .aic :: .dma :: .outbound :: .consoles :: .conJobs :: .pipes :: .streams :: .active :: .mover :: .heads :: .audio :: .keepers :: .sec :: .cvs :: .hosts :: .dict :: .canNode :: .aborts :: .iotlb :: .sbOld :: .tsClaimed :: .mem :: .poison :: .checks :: []) a4 t := by
  intro a0 a1 a2 a3 a4
  unfold execNe
  refine ⟨_, rfl, ?_⟩
  refine touches_after ?_ (alu_touches _ _ _ _ _ _) (by decide)
  exact touches_refl _ _

theorem execMin_touches : ∀ a0 a1 a2 a3 a4,
    ∃ t, execMin a0 a1 a2 a3 a4 = .next t ∧ Touches (.freeCtr :: .cyc :: .pulses :: .devTimer :: .regs :: .sys :: .log :: .spindles :: .encoders :: .encSince :: .timers :: .ptp :: .adcs :: .comparators :: .demods :: .sectors :: .pairs :: .groups :: .tripPins :: .zonePins :: .plate :: .loops :: .place :: .cores :: .aic :: .dma :: .outbound :: .consoles :: .conJobs :: .pipes :: .streams :: .active :: .mover :: .heads :: .audio :: .keepers :: .sec :: .cvs :: .hosts :: .dict :: .canNode :: .aborts :: .iotlb :: .sbOld :: .tsClaimed :: .mem :: .poison :: .checks :: []) a4 t := by
  intro a0 a1 a2 a3 a4
  unfold execMin
  refine ⟨_, rfl, ?_⟩
  refine touches_after ?_ (alu_touches _ _ _ _ _ _) (by decide)
  exact touches_refl _ _

theorem execMax_touches : ∀ a0 a1 a2 a3 a4,
    ∃ t, execMax a0 a1 a2 a3 a4 = .next t ∧ Touches (.freeCtr :: .cyc :: .pulses :: .devTimer :: .regs :: .sys :: .log :: .spindles :: .encoders :: .encSince :: .timers :: .ptp :: .adcs :: .comparators :: .demods :: .sectors :: .pairs :: .groups :: .tripPins :: .zonePins :: .plate :: .loops :: .place :: .cores :: .aic :: .dma :: .outbound :: .consoles :: .conJobs :: .pipes :: .streams :: .active :: .mover :: .heads :: .audio :: .keepers :: .sec :: .cvs :: .hosts :: .dict :: .canNode :: .aborts :: .iotlb :: .sbOld :: .tsClaimed :: .mem :: .poison :: .checks :: []) a4 t := by
  intro a0 a1 a2 a3 a4
  unfold execMax
  refine ⟨_, rfl, ?_⟩
  refine touches_after ?_ (alu_touches _ _ _ _ _ _) (by decide)
  exact touches_refl _ _

theorem execSll_touches : ∀ a0 a1 a2 a3 a4,
    ∃ t, execSll a0 a1 a2 a3 a4 = .next t ∧ Touches (.freeCtr :: .cyc :: .pulses :: .devTimer :: .regs :: .sys :: .log :: .spindles :: .encoders :: .encSince :: .timers :: .ptp :: .adcs :: .comparators :: .demods :: .sectors :: .pairs :: .groups :: .tripPins :: .zonePins :: .plate :: .loops :: .place :: .cores :: .aic :: .dma :: .outbound :: .consoles :: .conJobs :: .pipes :: .streams :: .active :: .mover :: .heads :: .audio :: .keepers :: .sec :: .cvs :: .hosts :: .dict :: .canNode :: .aborts :: .iotlb :: .sbOld :: .tsClaimed :: .mem :: .poison :: .checks :: []) a4 t := by
  intro a0 a1 a2 a3 a4
  unfold execSll
  refine ⟨_, rfl, ?_⟩
  refine touches_after ?_ (alu_touches _ _ _ _ _ _) (by decide)
  exact touches_refl _ _

theorem execSrl_touches : ∀ a0 a1 a2 a3 a4,
    ∃ t, execSrl a0 a1 a2 a3 a4 = .next t ∧ Touches (.freeCtr :: .cyc :: .pulses :: .devTimer :: .regs :: .sys :: .log :: .spindles :: .encoders :: .encSince :: .timers :: .ptp :: .adcs :: .comparators :: .demods :: .sectors :: .pairs :: .groups :: .tripPins :: .zonePins :: .plate :: .loops :: .place :: .cores :: .aic :: .dma :: .outbound :: .consoles :: .conJobs :: .pipes :: .streams :: .active :: .mover :: .heads :: .audio :: .keepers :: .sec :: .cvs :: .hosts :: .dict :: .canNode :: .aborts :: .iotlb :: .sbOld :: .tsClaimed :: .mem :: .poison :: .checks :: []) a4 t := by
  intro a0 a1 a2 a3 a4
  unfold execSrl
  refine ⟨_, rfl, ?_⟩
  refine touches_after ?_ (alu_touches _ _ _ _ _ _) (by decide)
  exact touches_refl _ _

theorem execSra_touches : ∀ a0 a1 a2 a3 a4,
    ∃ t, execSra a0 a1 a2 a3 a4 = .next t ∧ Touches (.freeCtr :: .cyc :: .pulses :: .devTimer :: .regs :: .sys :: .log :: .spindles :: .encoders :: .encSince :: .timers :: .ptp :: .adcs :: .comparators :: .demods :: .sectors :: .pairs :: .groups :: .tripPins :: .zonePins :: .plate :: .loops :: .place :: .cores :: .aic :: .dma :: .outbound :: .consoles :: .conJobs :: .pipes :: .streams :: .active :: .mover :: .heads :: .audio :: .keepers :: .sec :: .cvs :: .hosts :: .dict :: .canNode :: .aborts :: .iotlb :: .sbOld :: .tsClaimed :: .mem :: .poison :: .checks :: []) a4 t := by
  intro a0 a1 a2 a3 a4
  unfold execSra
  refine ⟨_, rfl, ?_⟩
  refine touches_after ?_ (alu_touches _ _ _ _ _ _) (by decide)
  exact touches_refl _ _

theorem execRor_touches : ∀ a0 a1 a2 a3 a4,
    ∃ t, execRor a0 a1 a2 a3 a4 = .next t ∧ Touches (.freeCtr :: .cyc :: .pulses :: .devTimer :: .regs :: .sys :: .log :: .spindles :: .encoders :: .encSince :: .timers :: .ptp :: .adcs :: .comparators :: .demods :: .sectors :: .pairs :: .groups :: .tripPins :: .zonePins :: .plate :: .loops :: .place :: .cores :: .aic :: .dma :: .outbound :: .consoles :: .conJobs :: .pipes :: .streams :: .active :: .mover :: .heads :: .audio :: .keepers :: .sec :: .cvs :: .hosts :: .dict :: .canNode :: .aborts :: .iotlb :: .sbOld :: .tsClaimed :: .mem :: .poison :: .checks :: []) a4 t := by
  intro a0 a1 a2 a3 a4
  unfold execRor
  refine ⟨_, rfl, ?_⟩
  refine touches_after ?_ (alu_touches _ _ _ _ _ _) (by decide)
  exact touches_refl _ _

theorem execSlli_touches : ∀ a0 a1 a2 a3 a4,
    ∃ t, execSlli a0 a1 a2 a3 a4 = .next t ∧ Touches (.freeCtr :: .cyc :: .pulses :: .devTimer :: .regs :: .sys :: .log :: .spindles :: .encoders :: .encSince :: .timers :: .ptp :: .adcs :: .comparators :: .demods :: .sectors :: .pairs :: .groups :: .tripPins :: .zonePins :: .plate :: .loops :: .place :: .cores :: .aic :: .dma :: .outbound :: .consoles :: .conJobs :: .pipes :: .streams :: .active :: .mover :: .heads :: .audio :: .keepers :: .sec :: .cvs :: .hosts :: .dict :: .canNode :: .aborts :: .iotlb :: .sbOld :: .tsClaimed :: .mem :: .poison :: .checks :: []) a4 t := by
  intro a0 a1 a2 a3 a4
  unfold execSlli
  refine ⟨_, rfl, ?_⟩
  refine touches_after ?_ (aluImm_touches _ _ _ _ _) (by decide)
  exact touches_refl _ _

theorem execSrli_touches : ∀ a0 a1 a2 a3 a4,
    ∃ t, execSrli a0 a1 a2 a3 a4 = .next t ∧ Touches (.freeCtr :: .cyc :: .pulses :: .devTimer :: .regs :: .sys :: .log :: .spindles :: .encoders :: .encSince :: .timers :: .ptp :: .adcs :: .comparators :: .demods :: .sectors :: .pairs :: .groups :: .tripPins :: .zonePins :: .plate :: .loops :: .place :: .cores :: .aic :: .dma :: .outbound :: .consoles :: .conJobs :: .pipes :: .streams :: .active :: .mover :: .heads :: .audio :: .keepers :: .sec :: .cvs :: .hosts :: .dict :: .canNode :: .aborts :: .iotlb :: .sbOld :: .tsClaimed :: .mem :: .poison :: .checks :: []) a4 t := by
  intro a0 a1 a2 a3 a4
  unfold execSrli
  refine ⟨_, rfl, ?_⟩
  refine touches_after ?_ (aluImm_touches _ _ _ _ _) (by decide)
  exact touches_refl _ _

theorem execSrai_touches : ∀ a0 a1 a2 a3 a4,
    ∃ t, execSrai a0 a1 a2 a3 a4 = .next t ∧ Touches (.freeCtr :: .cyc :: .pulses :: .devTimer :: .regs :: .sys :: .log :: .spindles :: .encoders :: .encSince :: .timers :: .ptp :: .adcs :: .comparators :: .demods :: .sectors :: .pairs :: .groups :: .tripPins :: .zonePins :: .plate :: .loops :: .place :: .cores :: .aic :: .dma :: .outbound :: .consoles :: .conJobs :: .pipes :: .streams :: .active :: .mover :: .heads :: .audio :: .keepers :: .sec :: .cvs :: .hosts :: .dict :: .canNode :: .aborts :: .iotlb :: .sbOld :: .tsClaimed :: .mem :: .poison :: .checks :: []) a4 t := by
  intro a0 a1 a2 a3 a4
  unfold execSrai
  refine ⟨_, rfl, ?_⟩
  refine touches_after ?_ (aluImm_touches _ _ _ _ _) (by decide)
  exact touches_refl _ _

theorem execRori_touches : ∀ a0 a1 a2 a3 a4,
    ∃ t, execRori a0 a1 a2 a3 a4 = .next t ∧ Touches (.freeCtr :: .cyc :: .pulses :: .devTimer :: .regs :: .sys :: .log :: .spindles :: .encoders :: .encSince :: .timers :: .ptp :: .adcs :: .comparators :: .demods :: .sectors :: .pairs :: .groups :: .tripPins :: .zonePins :: .plate :: .loops :: .place :: .cores :: .aic :: .dma :: .outbound :: .consoles :: .conJobs :: .pipes :: .streams :: .active :: .mover :: .heads :: .audio :: .keepers :: .sec :: .cvs :: .hosts :: .dict :: .canNode :: .aborts :: .iotlb :: .sbOld :: .tsClaimed :: .mem :: .poison :: .checks :: []) a4 t := by
  intro a0 a1 a2 a3 a4
  unfold execRori
  refine ⟨_, rfl, ?_⟩
  refine touches_after ?_ (aluImm_touches _ _ _ _ _) (by decide)
  exact touches_refl _ _

theorem execMul_touches : ∀ a0 a1 a2 a3 a4,
    ∃ t, execMul a0 a1 a2 a3 a4 = .next t ∧ Touches (.freeCtr :: .cyc :: .pulses :: .devTimer :: .regs :: .sys :: .log :: .spindles :: .encoders :: .encSince :: .timers :: .ptp :: .adcs :: .comparators :: .demods :: .sectors :: .pairs :: .groups :: .tripPins :: .zonePins :: .plate :: .loops :: .place :: .cores :: .aic :: .dma :: .outbound :: .consoles :: .conJobs :: .pipes :: .streams :: .active :: .mover :: .heads :: .audio :: .keepers :: .sec :: .cvs :: .hosts :: .dict :: .canNode :: .aborts :: .iotlb :: .sbOld :: .tsClaimed :: .mem :: .poison :: .checks :: []) a4 t := by
  intro a0 a1 a2 a3 a4
  unfold execMul
  refine ⟨_, rfl, ?_⟩
  refine touches_after ?_ (alu_touches _ _ _ _ _ _) (by decide)
  exact touches_refl _ _

theorem execMulhi_touches : ∀ a0 a1 a2 a3 a4,
    ∃ t, execMulhi a0 a1 a2 a3 a4 = .next t ∧ Touches (.freeCtr :: .cyc :: .pulses :: .devTimer :: .regs :: .sys :: .log :: .spindles :: .encoders :: .encSince :: .timers :: .ptp :: .adcs :: .comparators :: .demods :: .sectors :: .pairs :: .groups :: .tripPins :: .zonePins :: .plate :: .loops :: .place :: .cores :: .aic :: .dma :: .outbound :: .consoles :: .conJobs :: .pipes :: .streams :: .active :: .mover :: .heads :: .audio :: .keepers :: .sec :: .cvs :: .hosts :: .dict :: .canNode :: .aborts :: .iotlb :: .sbOld :: .tsClaimed :: .mem :: .poison :: .checks :: []) a4 t := by
  intro a0 a1 a2 a3 a4
  unfold execMulhi
  refine ⟨_, rfl, ?_⟩
  refine touches_after ?_ (alu_touches _ _ _ _ _ _) (by decide)
  exact touches_refl _ _

theorem execMulhiu_touches : ∀ a0 a1 a2 a3 a4,
    ∃ t, execMulhiu a0 a1 a2 a3 a4 = .next t ∧ Touches (.freeCtr :: .cyc :: .pulses :: .devTimer :: .regs :: .sys :: .log :: .spindles :: .encoders :: .encSince :: .timers :: .ptp :: .adcs :: .comparators :: .demods :: .sectors :: .pairs :: .groups :: .tripPins :: .zonePins :: .plate :: .loops :: .place :: .cores :: .aic :: .dma :: .outbound :: .consoles :: .conJobs :: .pipes :: .streams :: .active :: .mover :: .heads :: .audio :: .keepers :: .sec :: .cvs :: .hosts :: .dict :: .canNode :: .aborts :: .iotlb :: .sbOld :: .tsClaimed :: .mem :: .poison :: .checks :: []) a4 t := by
  intro a0 a1 a2 a3 a4
  unfold execMulhiu
  refine ⟨_, rfl, ?_⟩
  refine touches_after ?_ (alu_touches _ _ _ _ _ _) (by decide)
  exact touches_refl _ _

theorem execDiv_touches : ∀ a0 a1 a2 a3 a4,
    ∃ t, execDiv a0 a1 a2 a3 a4 = .next t ∧ Touches (.freeCtr :: .cyc :: .pulses :: .devTimer :: .regs :: .sys :: .log :: .spindles :: .encoders :: .encSince :: .timers :: .ptp :: .adcs :: .comparators :: .demods :: .sectors :: .pairs :: .groups :: .tripPins :: .zonePins :: .plate :: .loops :: .place :: .cores :: .aic :: .dma :: .outbound :: .consoles :: .conJobs :: .pipes :: .streams :: .active :: .mover :: .heads :: .audio :: .keepers :: .sec :: .cvs :: .hosts :: .dict :: .canNode :: .aborts :: .iotlb :: .sbOld :: .tsClaimed :: .mem :: .poison :: .checks :: []) a4 t := by
  intro a0 a1 a2 a3 a4
  unfold execDiv
  refine ⟨_, rfl, ?_⟩
  refine touches_after ?_ (alu_touches _ _ _ _ _ _) (by decide)
  exact touches_refl _ _

theorem execDivu_touches : ∀ a0 a1 a2 a3 a4,
    ∃ t, execDivu a0 a1 a2 a3 a4 = .next t ∧ Touches (.freeCtr :: .cyc :: .pulses :: .devTimer :: .regs :: .sys :: .log :: .spindles :: .encoders :: .encSince :: .timers :: .ptp :: .adcs :: .comparators :: .demods :: .sectors :: .pairs :: .groups :: .tripPins :: .zonePins :: .plate :: .loops :: .place :: .cores :: .aic :: .dma :: .outbound :: .consoles :: .conJobs :: .pipes :: .streams :: .active :: .mover :: .heads :: .audio :: .keepers :: .sec :: .cvs :: .hosts :: .dict :: .canNode :: .aborts :: .iotlb :: .sbOld :: .tsClaimed :: .mem :: .poison :: .checks :: []) a4 t := by
  intro a0 a1 a2 a3 a4
  unfold execDivu
  refine ⟨_, rfl, ?_⟩
  refine touches_after ?_ (alu_touches _ _ _ _ _ _) (by decide)
  exact touches_refl _ _

theorem execMod_touches : ∀ a0 a1 a2 a3 a4,
    ∃ t, execMod a0 a1 a2 a3 a4 = .next t ∧ Touches (.freeCtr :: .cyc :: .pulses :: .devTimer :: .regs :: .sys :: .log :: .spindles :: .encoders :: .encSince :: .timers :: .ptp :: .adcs :: .comparators :: .demods :: .sectors :: .pairs :: .groups :: .tripPins :: .zonePins :: .plate :: .loops :: .place :: .cores :: .aic :: .dma :: .outbound :: .consoles :: .conJobs :: .pipes :: .streams :: .active :: .mover :: .heads :: .audio :: .keepers :: .sec :: .cvs :: .hosts :: .dict :: .canNode :: .aborts :: .iotlb :: .sbOld :: .tsClaimed :: .mem :: .poison :: .checks :: []) a4 t := by
  intro a0 a1 a2 a3 a4
  unfold execMod
  refine ⟨_, rfl, ?_⟩
  refine touches_after ?_ (alu_touches _ _ _ _ _ _) (by decide)
  exact touches_refl _ _

theorem execModu_touches : ∀ a0 a1 a2 a3 a4,
    ∃ t, execModu a0 a1 a2 a3 a4 = .next t ∧ Touches (.freeCtr :: .cyc :: .pulses :: .devTimer :: .regs :: .sys :: .log :: .spindles :: .encoders :: .encSince :: .timers :: .ptp :: .adcs :: .comparators :: .demods :: .sectors :: .pairs :: .groups :: .tripPins :: .zonePins :: .plate :: .loops :: .place :: .cores :: .aic :: .dma :: .outbound :: .consoles :: .conJobs :: .pipes :: .streams :: .active :: .mover :: .heads :: .audio :: .keepers :: .sec :: .cvs :: .hosts :: .dict :: .canNode :: .aborts :: .iotlb :: .sbOld :: .tsClaimed :: .mem :: .poison :: .checks :: []) a4 t := by
  intro a0 a1 a2 a3 a4
  unfold execModu
  refine ⟨_, rfl, ?_⟩
  refine touches_after ?_ (alu_touches _ _ _ _ _ _) (by decide)
  exact touches_refl _ _

theorem execClz_touches : ∀ a0 a1 a2 a3,
    ∃ t, execClz a0 a1 a2 a3 = .next t ∧ Touches (.freeCtr :: .cyc :: .pulses :: .devTimer :: .regs :: .sys :: .log :: .spindles :: .encoders :: .encSince :: .timers :: .ptp :: .adcs :: .comparators :: .demods :: .sectors :: .pairs :: .groups :: .tripPins :: .zonePins :: .plate :: .loops :: .place :: .cores :: .aic :: .dma :: .outbound :: .consoles :: .conJobs :: .pipes :: .streams :: .active :: .mover :: .heads :: .audio :: .keepers :: .sec :: .cvs :: .hosts :: .dict :: .canNode :: .aborts :: .iotlb :: .sbOld :: .tsClaimed :: .mem :: .poison :: .checks :: []) a3 t := by
  intro a0 a1 a2 a3
  unfold execClz
  refine ⟨_, rfl, ?_⟩
  refine touches_after ?_ (aluImm_touches _ _ _ _ _) (by decide)
  exact touches_refl _ _

theorem execAddi_touches : ∀ a0 a1 a2 a3 a4,
    ∃ t, execAddi a0 a1 a2 a3 a4 = .next t ∧ Touches (.freeCtr :: .cyc :: .pulses :: .devTimer :: .regs :: .sys :: .log :: .spindles :: .encoders :: .encSince :: .timers :: .ptp :: .adcs :: .comparators :: .demods :: .sectors :: .pairs :: .groups :: .tripPins :: .zonePins :: .plate :: .loops :: .place :: .cores :: .aic :: .dma :: .outbound :: .consoles :: .conJobs :: .pipes :: .streams :: .active :: .mover :: .heads :: .audio :: .keepers :: .sec :: .cvs :: .hosts :: .dict :: .canNode :: .aborts :: .iotlb :: .sbOld :: .tsClaimed :: .mem :: .poison :: .checks :: []) a4 t := by
  intro a0 a1 a2 a3 a4
  unfold execAddi
  refine ⟨_, rfl, ?_⟩
  refine touches_after ?_ (aluImm_touches _ _ _ _ _) (by decide)
  exact touches_refl _ _

theorem execAndi_touches : ∀ a0 a1 a2 a3 a4,
    ∃ t, execAndi a0 a1 a2 a3 a4 = .next t ∧ Touches (.freeCtr :: .cyc :: .pulses :: .devTimer :: .regs :: .sys :: .log :: .spindles :: .encoders :: .encSince :: .timers :: .ptp :: .adcs :: .comparators :: .demods :: .sectors :: .pairs :: .groups :: .tripPins :: .zonePins :: .plate :: .loops :: .place :: .cores :: .aic :: .dma :: .outbound :: .consoles :: .conJobs :: .pipes :: .streams :: .active :: .mover :: .heads :: .audio :: .keepers :: .sec :: .cvs :: .hosts :: .dict :: .canNode :: .aborts :: .iotlb :: .sbOld :: .tsClaimed :: .mem :: .poison :: .checks :: []) a4 t := by
  intro a0 a1 a2 a3 a4
  unfold execAndi
  refine ⟨_, rfl, ?_⟩
  refine touches_after ?_ (aluImm_touches _ _ _ _ _) (by decide)
  exact touches_refl _ _

theorem execOri_touches : ∀ a0 a1 a2 a3 a4,
    ∃ t, execOri a0 a1 a2 a3 a4 = .next t ∧ Touches (.freeCtr :: .cyc :: .pulses :: .devTimer :: .regs :: .sys :: .log :: .spindles :: .encoders :: .encSince :: .timers :: .ptp :: .adcs :: .comparators :: .demods :: .sectors :: .pairs :: .groups :: .tripPins :: .zonePins :: .plate :: .loops :: .place :: .cores :: .aic :: .dma :: .outbound :: .consoles :: .conJobs :: .pipes :: .streams :: .active :: .mover :: .heads :: .audio :: .keepers :: .sec :: .cvs :: .hosts :: .dict :: .canNode :: .aborts :: .iotlb :: .sbOld :: .tsClaimed :: .mem :: .poison :: .checks :: []) a4 t := by
  intro a0 a1 a2 a3 a4
  unfold execOri
  refine ⟨_, rfl, ?_⟩
  refine touches_after ?_ (aluImm_touches _ _ _ _ _) (by decide)
  exact touches_refl _ _

theorem execXori_touches : ∀ a0 a1 a2 a3 a4,
    ∃ t, execXori a0 a1 a2 a3 a4 = .next t ∧ Touches (.freeCtr :: .cyc :: .pulses :: .devTimer :: .regs :: .sys :: .log :: .spindles :: .encoders :: .encSince :: .timers :: .ptp :: .adcs :: .comparators :: .demods :: .sectors :: .pairs :: .groups :: .tripPins :: .zonePins :: .plate :: .loops :: .place :: .cores :: .aic :: .dma :: .outbound :: .consoles :: .conJobs :: .pipes :: .streams :: .active :: .mover :: .heads :: .audio :: .keepers :: .sec :: .cvs :: .hosts :: .dict :: .canNode :: .aborts :: .iotlb :: .sbOld :: .tsClaimed :: .mem :: .poison :: .checks :: []) a4 t := by
  intro a0 a1 a2 a3 a4
  unfold execXori
  refine ⟨_, rfl, ?_⟩
  refine touches_after ?_ (aluImm_touches _ _ _ _ _) (by decide)
  exact touches_refl _ _

theorem execLti_touches : ∀ a0 a1 a2 a3 a4,
    ∃ t, execLti a0 a1 a2 a3 a4 = .next t ∧ Touches (.freeCtr :: .cyc :: .pulses :: .devTimer :: .regs :: .sys :: .log :: .spindles :: .encoders :: .encSince :: .timers :: .ptp :: .adcs :: .comparators :: .demods :: .sectors :: .pairs :: .groups :: .tripPins :: .zonePins :: .plate :: .loops :: .place :: .cores :: .aic :: .dma :: .outbound :: .consoles :: .conJobs :: .pipes :: .streams :: .active :: .mover :: .heads :: .audio :: .keepers :: .sec :: .cvs :: .hosts :: .dict :: .canNode :: .aborts :: .iotlb :: .sbOld :: .tsClaimed :: .mem :: .poison :: .checks :: []) a4 t := by
  intro a0 a1 a2 a3 a4
  unfold execLti
  refine ⟨_, rfl, ?_⟩
  refine touches_after ?_ (aluImm_touches _ _ _ _ _) (by decide)
  exact touches_refl _ _

theorem execLtiu_touches : ∀ a0 a1 a2 a3 a4,
    ∃ t, execLtiu a0 a1 a2 a3 a4 = .next t ∧ Touches (.freeCtr :: .cyc :: .pulses :: .devTimer :: .regs :: .sys :: .log :: .spindles :: .encoders :: .encSince :: .timers :: .ptp :: .adcs :: .comparators :: .demods :: .sectors :: .pairs :: .groups :: .tripPins :: .zonePins :: .plate :: .loops :: .place :: .cores :: .aic :: .dma :: .outbound :: .consoles :: .conJobs :: .pipes :: .streams :: .active :: .mover :: .heads :: .audio :: .keepers :: .sec :: .cvs :: .hosts :: .dict :: .canNode :: .aborts :: .iotlb :: .sbOld :: .tsClaimed :: .mem :: .poison :: .checks :: []) a4 t := by
  intro a0 a1 a2 a3 a4
  unfold execLtiu
  refine ⟨_, rfl, ?_⟩
  refine touches_after ?_ (aluImm_touches _ _ _ _ _) (by decide)
  exact touches_refl _ _

theorem execEqi_touches : ∀ a0 a1 a2 a3 a4,
    ∃ t, execEqi a0 a1 a2 a3 a4 = .next t ∧ Touches (.freeCtr :: .cyc :: .pulses :: .devTimer :: .regs :: .sys :: .log :: .spindles :: .encoders :: .encSince :: .timers :: .ptp :: .adcs :: .comparators :: .demods :: .sectors :: .pairs :: .groups :: .tripPins :: .zonePins :: .plate :: .loops :: .place :: .cores :: .aic :: .dma :: .outbound :: .consoles :: .conJobs :: .pipes :: .streams :: .active :: .mover :: .heads :: .audio :: .keepers :: .sec :: .cvs :: .hosts :: .dict :: .canNode :: .aborts :: .iotlb :: .sbOld :: .tsClaimed :: .mem :: .poison :: .checks :: []) a4 t := by
  intro a0 a1 a2 a3 a4
  unfold execEqi
  refine ⟨_, rfl, ?_⟩
  refine touches_after ?_ (aluImm_touches _ _ _ _ _) (by decide)
  exact touches_refl _ _

theorem execNei_touches : ∀ a0 a1 a2 a3 a4,
    ∃ t, execNei a0 a1 a2 a3 a4 = .next t ∧ Touches (.freeCtr :: .cyc :: .pulses :: .devTimer :: .regs :: .sys :: .log :: .spindles :: .encoders :: .encSince :: .timers :: .ptp :: .adcs :: .comparators :: .demods :: .sectors :: .pairs :: .groups :: .tripPins :: .zonePins :: .plate :: .loops :: .place :: .cores :: .aic :: .dma :: .outbound :: .consoles :: .conJobs :: .pipes :: .streams :: .active :: .mover :: .heads :: .audio :: .keepers :: .sec :: .cvs :: .hosts :: .dict :: .canNode :: .aborts :: .iotlb :: .sbOld :: .tsClaimed :: .mem :: .poison :: .checks :: []) a4 t := by
  intro a0 a1 a2 a3 a4
  unfold execNei
  refine ⟨_, rfl, ?_⟩
  refine touches_after ?_ (aluImm_touches _ _ _ _ _) (by decide)
  exact touches_refl _ _

theorem execLhi_touches : ∀ a0 a1 a2 a3,
    ∃ t, execLhi a0 a1 a2 a3 = .next t ∧ Touches (.freeCtr :: .cyc :: .pulses :: .devTimer :: .regs :: .sys :: .log :: .spindles :: .encoders :: .encSince :: .timers :: .ptp :: .adcs :: .comparators :: .demods :: .sectors :: .pairs :: .groups :: .tripPins :: .zonePins :: .plate :: .loops :: .place :: .cores :: .aic :: .dma :: .outbound :: .consoles :: .conJobs :: .pipes :: .streams :: .active :: .mover :: .heads :: .audio :: .keepers :: .sec :: .cvs :: .hosts :: .dict :: .canNode :: .aborts :: .iotlb :: .sbOld :: .tsClaimed :: .mem :: .poison :: .checks :: []) a3 t := by
  intro a0 a1 a2 a3
  unfold execLhi
  refine ⟨_, rfl, ?_⟩
  refine touches_after ?_ (aluImm_touches _ _ _ _ _) (by decide)
  exact touches_refl _ _

theorem execBfx_touches : ∀ a0 a1 a2 a3 a4 a5 a6,
    ∃ t, execBfx a0 a1 a2 a3 a4 a5 a6 = .next t ∧ Touches (.freeCtr :: .cyc :: .pulses :: .devTimer :: .regs :: .sys :: .log :: .spindles :: .encoders :: .encSince :: .timers :: .ptp :: .adcs :: .comparators :: .demods :: .sectors :: .pairs :: .groups :: .tripPins :: .zonePins :: .plate :: .loops :: .place :: .cores :: .aic :: .dma :: .outbound :: .consoles :: .conJobs :: .pipes :: .streams :: .active :: .mover :: .heads :: .audio :: .keepers :: .sec :: .cvs :: .hosts :: .dict :: .canNode :: .aborts :: .iotlb :: .sbOld :: .tsClaimed :: .mem :: .poison :: .checks :: []) a6 t := by
  intro a0 a1 a2 a3 a4 a5 a6
  unfold execBfx
  refine ⟨_, rfl, ?_⟩
  refine touches_after ?_ (aluImm_touches _ _ _ _ _) (by decide)
  exact touches_refl _ _

theorem execBfi_touches : ∀ a0 a1 a2 a3 a4 a5,
    ∃ t, execBfi a0 a1 a2 a3 a4 a5 = .next t ∧ Touches (.freeCtr :: .cyc :: .pulses :: .devTimer :: .regs :: .sys :: .log :: .spindles :: .encoders :: .encSince :: .timers :: .ptp :: .adcs :: .comparators :: .demods :: .sectors :: .pairs :: .groups :: .tripPins :: .zonePins :: .plate :: .loops :: .place :: .cores :: .aic :: .dma :: .outbound :: .consoles :: .conJobs :: .pipes :: .streams :: .active :: .mover :: .heads :: .audio :: .keepers :: .sec :: .cvs :: .hosts :: .dict :: .canNode :: .aborts :: .iotlb :: .sbOld :: .tsClaimed :: .mem :: .poison :: .checks :: []) a5 t := by
  intro a0 a1 a2 a3 a4 a5
  unfold execBfi
  refine ⟨_, rfl, ?_⟩
  refine touches_after ?_ (alu_touches _ _ _ _ _ _) (by decide)
  exact touches_refl _ _

theorem execPerm_touches : ∀ a0 a1 a2 a3 a4,
    ∃ t, execPerm a0 a1 a2 a3 a4 = .next t ∧ Touches (.freeCtr :: .cyc :: .pulses :: .devTimer :: .regs :: .sys :: .log :: .spindles :: .encoders :: .encSince :: .timers :: .ptp :: .adcs :: .comparators :: .demods :: .sectors :: .pairs :: .groups :: .tripPins :: .zonePins :: .plate :: .loops :: .place :: .cores :: .aic :: .dma :: .outbound :: .consoles :: .conJobs :: .pipes :: .streams :: .active :: .mover :: .heads :: .audio :: .keepers :: .sec :: .cvs :: .hosts :: .dict :: .canNode :: .aborts :: .iotlb :: .sbOld :: .tsClaimed :: .mem :: .poison :: .checks :: []) a4 t := by
  intro a0 a1 a2 a3 a4
  unfold execPerm
  refine ⟨_, rfl, ?_⟩
  refine touches_after ?_ (alu_touches _ _ _ _ _ _) (by decide)
  exact touches_refl _ _

theorem branchIf_touches : ∀ a0 a1 a2 a3 a4,
    Touches (.freeCtr :: .cyc :: .pulses :: .devTimer :: .regs :: .sys :: .log :: .spindles :: .encoders :: .encSince :: .timers :: .ptp :: .adcs :: .comparators :: .demods :: .sectors :: .pairs :: .groups :: .tripPins :: .zonePins :: .plate :: .loops :: .place :: .cores :: .aic :: .dma :: .outbound :: .consoles :: .conJobs :: .pipes :: .streams :: .active :: .mover :: .heads :: .audio :: .keepers :: .sec :: .cvs :: .hosts :: .dict :: .canNode :: .aborts :: .iotlb :: .sbOld :: .tsClaimed :: .mem :: .poison :: .checks :: []) a4 (branchIf a0 a1 a2 a3 a4) := by
  intro a0 a1 a2 a3 a4
  unfold branchIf
  refine issue_touches (by decide) (fun _ => ?_) ?_
  · show Touches _ _ _
    dsimp only [Res.st]
    exact touches_refl _ _
  · exact touches_refl _ _

theorem execBz_touches : ∀ a0 a1 a2 a3,
    ∃ t, execBz a0 a1 a2 a3 = .next t ∧ Touches (.freeCtr :: .cyc :: .pulses :: .devTimer :: .regs :: .sys :: .log :: .spindles :: .encoders :: .encSince :: .timers :: .ptp :: .adcs :: .comparators :: .demods :: .sectors :: .pairs :: .groups :: .tripPins :: .zonePins :: .plate :: .loops :: .place :: .cores :: .aic :: .dma :: .outbound :: .consoles :: .conJobs :: .pipes :: .streams :: .active :: .mover :: .heads :: .audio :: .keepers :: .sec :: .cvs :: .hosts :: .dict :: .canNode :: .aborts :: .iotlb :: .sbOld :: .tsClaimed :: .mem :: .poison :: .checks :: []) a3 t := by
  intro a0 a1 a2 a3
  unfold execBz
  refine ⟨_, rfl, ?_⟩
  refine touches_after ?_ (branchIf_touches _ _ _ _ _) (by decide)
  exact touches_refl _ _

theorem execBnz_touches : ∀ a0 a1 a2 a3,
    ∃ t, execBnz a0 a1 a2 a3 = .next t ∧ Touches (.freeCtr :: .cyc :: .pulses :: .devTimer :: .regs :: .sys :: .log :: .spindles :: .encoders :: .encSince :: .timers :: .ptp :: .adcs :: .comparators :: .demods :: .sectors :: .pairs :: .groups :: .tripPins :: .zonePins :: .plate :: .loops :: .place :: .cores :: .aic :: .dma :: .outbound :: .consoles :: .conJobs :: .pipes :: .streams :: .active :: .mover :: .heads :: .audio :: .keepers :: .sec :: .cvs :: .hosts :: .dict :: .canNode :: .aborts :: .iotlb :: .sbOld :: .tsClaimed :: .mem :: .poison :: .checks :: []) a3 t := by
  intro a0 a1 a2 a3
  unfold execBnz
  refine ⟨_, rfl, ?_⟩
  refine touches_after ?_ (branchIf_touches _ _ _ _ _) (by decide)
  exact touches_refl _ _

theorem execJump_touches : ∀ a0 a1 a2,
    ∃ t, execJump a0 a1 a2 = .next t ∧ Touches (.freeCtr :: .cyc :: .pulses :: .devTimer :: .regs :: .sys :: .log :: .spindles :: .encoders :: .encSince :: .timers :: .ptp :: .adcs :: .comparators :: .demods :: .sectors :: .pairs :: .groups :: .tripPins :: .zonePins :: .plate :: .loops :: .place :: .cores :: .aic :: .dma :: .outbound :: .consoles :: .conJobs :: .pipes :: .streams :: .active :: .mover :: .heads :: .audio :: .keepers :: .sec :: .cvs :: .hosts :: .dict :: .canNode :: .aborts :: .iotlb :: .sbOld :: .tsClaimed :: .mem :: .poison :: .checks :: []) a2 t := by
  intro a0 a1 a2
  unfold execJump
  refine ⟨_, rfl, ?_⟩
  refine issue_touches (by decide) (fun _ => ?_) ?_
  · show Touches _ _ _
    dsimp only [Res.st]
    exact touches_refl _ _
  · exact touches_refl _ _

theorem execCall_touches : ∀ a0 a1 a2 a3,
    ∃ t, execCall a0 a1 a2 a3 = .next t ∧ Touches (.freeCtr :: .cyc :: .pulses :: .devTimer :: .regs :: .sys :: .log :: .spindles :: .encoders :: .encSince :: .timers :: .ptp :: .adcs :: .comparators :: .demods :: .sectors :: .pairs :: .groups :: .tripPins :: .zonePins :: .plate :: .loops :: .place :: .cores :: .aic :: .dma :: .outbound :: .consoles :: .conJobs :: .pipes :: .streams :: .active :: .mover :: .heads :: .audio :: .keepers :: .sec :: .cvs :: .hosts :: .dict :: .canNode :: .aborts :: .iotlb :: .sbOld :: .tsClaimed :: .mem :: .poison :: .checks :: []) a3 t := by
  intro a0 a1 a2 a3
  unfold execCall
  refine ⟨_, rfl, ?_⟩
  refine issue_touches (by decide) (fun _ => ?_) ?_
  · show Touches _ _ _
    dsimp only [Res.st]
    refine touches_after ?_ (setGreg_touches _ _ _ _) (by decide)
    exact touches_refl _ _
  · exact touches_refl _ _

theorem execJmpr_touches : ∀ a0 a1 a2,
    ∃ t, execJmpr a0 a1 a2 = .next t ∧ Touches (.freeCtr :: .cyc :: .pulses :: .devTimer :: .regs :: .sys :: .log :: .spindles :: .encoders :: .encSince :: .timers :: .ptp :: .adcs :: .comparators :: .demods :: .sectors :: .pairs :: .groups :: .tripPins :: .zonePins :: .plate :: .loops :: .place :: .cores :: .aic :: .dma :: .outbound :: .consoles :: .conJobs :: .pipes :: .streams :: .active :: .mover :: .heads :: .audio :: .keepers :: .sec :: .cvs :: .hosts :: .dict :: .canNode :: .aborts :: .iotlb :: .sbOld :: .tsClaimed :: .mem :: .poison :: .checks :: []) a2 t := by
  intro a0 a1 a2
  unfold execJmpr
  refine ⟨_, rfl, ?_⟩
  refine issue_touches (by decide) (fun _ => ?_) ?_
  · show Touches _ _ _
    dsimp only [Res.st]
    exact touches_refl _ _
  · exact touches_refl _ _

theorem execCallr_touches : ∀ a0 a1 a2 a3,
    ∃ t, execCallr a0 a1 a2 a3 = .next t ∧ Touches (.freeCtr :: .cyc :: .pulses :: .devTimer :: .regs :: .sys :: .log :: .spindles :: .encoders :: .encSince :: .timers :: .ptp :: .adcs :: .comparators :: .demods :: .sectors :: .pairs :: .groups :: .tripPins :: .zonePins :: .plate :: .loops :: .place :: .cores :: .aic :: .dma :: .outbound :: .consoles :: .conJobs :: .pipes :: .streams :: .active :: .mover :: .heads :: .audio :: .keepers :: .sec :: .cvs :: .hosts :: .dict :: .canNode :: .aborts :: .iotlb :: .sbOld :: .tsClaimed :: .mem :: .poison :: .checks :: []) a3 t := by
  intro a0 a1 a2 a3
  unfold execCallr
  refine ⟨_, rfl, ?_⟩
  refine issue_touches (by decide) (fun _ => ?_) ?_
  · show Touches _ _ _
    dsimp only [Res.st]
    refine touches_after ?_ (setGreg_touches _ _ _ _) (by decide)
    exact touches_refl _ _
  · exact touches_refl _ _

theorem loopSetUp_touches : ∀ a0 a1 a2 a3 a4,
    TouchesR [.cores] a4 (loopSetUp a0 a1 a2 a3 a4) := by
  intro a0 a1 a2 a3 a4
  unfold loopSetUp
  extract_lets +onlyGivenNames x0
  clear_value x0
  extract_lets +onlyGivenNames x1
  clear_value x1
  refine touchesR_ite ?_ ?_
  · refine touchesR_after ?_ (reserved_touches _) (by decide)
    exact touches_refl _ _
  · refine touchesR_ite ?_ ?_
    · show Touches _ _ _
      dsimp only [Res.st]
      exact touches_refl _ _
    · extract_lets +onlyGivenNames x2
      refine touches_cut_ofR x2 (fun p => p) ?_ (fun h2 => ?_)
      · unfold x2
        refine touches_after ?_ (setCr_touches _ _ _ _) (by decide)
        refine touches_after ?_ (setCr_touches _ _ _ _) (by decide)
        refine touches_after ?_ (setCr_touches _ _ _ _) (by decide)
        exact touches_refl _ _
      clear_value x2
      refine touchesR_ite ?_ ?_
      · show Touches _ _ _
        dsimp only [Res.st]
        assumption
      · show Touches _ _ _
        dsimp only [Res.st]
        assumption

theorem execLoop_touches : ∀ a0 a1 a2 a3 a4,
    ∃ t, execLoop a0 a1 a2 a3 a4 = .next t ∧ Touches (.freeCtr :: .cyc :: .pulses :: .devTimer :: .regs :: .sys :: .log :: .spindles :: .encoders :: .encSince :: .timers :: .ptp :: .adcs :: .comparators :: .demods :: .sectors :: .pairs :: .groups :: .tripPins :: .zonePins :: .plate :: .loops :: .place :: .cores :: .aic :: .dma :: .outbound :: .consoles :: .conJobs :: .pipes :: .streams :: .active :: .mover :: .heads :: .audio :: .keepers :: .sec :: .cvs :: .hosts :: .dict :: .canNode :: .aborts :: .iotlb :: .sbOld :: .tsClaimed :: .mem :: .poison :: .checks :: []) a4 t := by
  intro a0 a1 a2 a3 a4
  unfold execLoop
  refine ⟨_, rfl, ?_⟩
  refine issue_touches (by decide) (fun _ => ?_) ?_
  · refine touchesR_after ?_ (loopSetUp_touches _ _ _ _ _) (by decide)
    exact touches_refl _ _
  · exact touches_refl _ _

theorem execLoopi_touches : ∀ a0 a1 a2 a3 a4,
    ∃ t, execLoopi a0 a1 a2 a3 a4 = .next t ∧ Touches (.freeCtr :: .cyc :: .pulses :: .devTimer :: .regs :: .sys :: .log :: .spindles :: .encoders :: .encSince :: .timers :: .ptp :: .adcs :: .comparators :: .demods :: .sectors :: .pairs :: .groups :: .tripPins :: .zonePins :: .plate :: .loops :: .place :: .cores :: .aic :: .dma :: .outbound :: .consoles :: .conJobs :: .pipes :: .streams :: .active :: .mover :: .heads :: .audio :: .keepers :: .sec :: .cvs :: .hosts :: .dict :: .canNode :: .aborts :: .iotlb :: .sbOld :: .tsClaimed :: .mem :: .poison :: .checks :: []) a4 t := by
  intro a0 a1 a2 a3 a4
  unfold execLoopi
  refine ⟨_, rfl, ?_⟩
  refine issue_touches (by decide) (fun _ => ?_) ?_
  · refine touchesR_after ?_ (loopSetUp_touches _ _ _ _ _) (by decide)
    exact touches_refl _ _
  · exact touches_refl _ _

theorem withCr_touches {F : List Part} {c n : Nat} {b : State → Res} {s t : State} (hb : ∀ u, TouchesR F u (b u)) (h : Touches F s t) :
    TouchesR F s (withCr c n b t) := by
  unfold withCr
  split
  · exact h
  · split
    · exact h
    · exact touchesR_trans h (hb _)

theorem execCrd_touches : ∀ a0 a1 a2 a3,
    ∃ t, execCrd a0 a1 a2 a3 = .next t ∧ Touches (.freeCtr :: .cyc :: .pulses :: .devTimer :: .regs :: .sys :: .log :: .spindles :: .encoders :: .encSince :: .timers :: .ptp :: .adcs :: .comparators :: .demods :: .sectors :: .pairs :: .groups :: .tripPins :: .zonePins :: .plate :: .loops :: .place :: .cores :: .aic :: .dma :: .outbound :: .consoles :: .conJobs :: .pipes :: .streams :: .active :: .mover :: .heads :: .audio :: .keepers :: .sec :: .cvs :: .hosts :: .dict :: .canNode :: .aborts :: .iotlb :: .sbOld :: .tsClaimed :: .mem :: .poison :: .checks :: []) a3 t := by
  intro a0 a1 a2 a3
  unfold execCrd
  refine ⟨_, rfl, ?_⟩
  refine issue_touches (by decide) (fun _ => ?_) ?_
  · refine withCr_touches (fun _ => ?_) ?_
    · show Touches _ _ _
      dsimp only [Res.st]
      refine touches_after ?_ (setGreg_touches _ _ _ _) (by decide)
      refine touches_after ?_ (readCr_touches _ _ _) (by decide)
      exact touches_refl _ _
    · exact touches_refl _ _
  · exact touches_refl _ _

theorem cwrBody_touches : ∀ a0 a1 a2 a3,
    TouchesR [.cores] a3 (cwrBody a0 a1 a2 a3) := by
  intro a0 a1 a2 a3
  unfold cwrBody
  show Touches _ _ _
  dsimp only [Res.st]
  refine touches_after ?_ (State.setCore_touches _ _ _) (by decide)
  exact touches_refl _ _

theorem execCwr_touches : ∀ a0 a1 a2 a3,
    ∃ t, execCwr a0 a1 a2 a3 = .next t ∧ Touches (.freeCtr :: .cyc :: .pulses :: .devTimer :: .regs :: .sys :: .log :: .spindles :: .encoders :: .encSince :: .timers :: .ptp :: .adcs :: .comparators :: .demods :: .sectors :: .pairs :: .groups :: .tripPins :: .zonePins :: .plate :: .loops :: .place :: .cores :: .aic :: .dma :: .outbound :: .consoles :: .conJobs :: .pipes :: .streams :: .active :: .mover :: .heads :: .audio :: .keepers :: .sec :: .cvs :: .hosts :: .dict :: .canNode :: .aborts :: .iotlb :: .sbOld :: .tsClaimed :: .mem :: .poison :: .checks :: []) a3 t := by
  intro a0 a1 a2 a3
  unfold execCwr
  refine ⟨_, rfl, ?_⟩
  refine issue_touches (by decide) (fun _ => ?_) ?_
  · refine withCr_touches (fun _ => ?_) ?_
    · refine touchesR_after ?_ (cwrBody_touches _ _ _ _) (by decide)
      exact touches_refl _ _
    · exact touches_refl _ _
  · exact touches_refl _ _

theorem execTrap_touches : ∀ a0 a1 a2,
    ∃ t, execTrap a0 a1 a2 = .next t ∧ Touches (.freeCtr :: .cyc :: .pulses :: .devTimer :: .regs :: .sys :: .log :: .spindles :: .encoders :: .encSince :: .timers :: .ptp :: .adcs :: .comparators :: .demods :: .sectors :: .pairs :: .groups :: .tripPins :: .zonePins :: .plate :: .loops :: .place :: .cores :: .aic :: .dma :: .outbound :: .consoles :: .conJobs :: .pipes :: .streams :: .active :: .mover :: .heads :: .audio :: .keepers :: .sec :: .cvs :: .hosts :: .dict :: .canNode :: .aborts :: .iotlb :: .sbOld :: .tsClaimed :: .mem :: .poison :: .checks :: []) a2 t := by
  intro a0 a1 a2
  unfold execTrap
  refine ⟨_, rfl, ?_⟩
  refine issue_touches (by decide) (fun _ => ?_) ?_
  · show Touches _ _ _
    dsimp only [Res.st]
    exact touches_refl _ _
  · exact touches_refl _ _

theorem execBkpt_touches : ∀ a0 a1 a2,
    ∃ t, execBkpt a0 a1 a2 = .next t ∧ Touches (.freeCtr :: .cyc :: .pulses :: .devTimer :: .regs :: .sys :: .log :: .spindles :: .encoders :: .encSince :: .timers :: .ptp :: .adcs :: .comparators :: .demods :: .sectors :: .pairs :: .groups :: .tripPins :: .zonePins :: .plate :: .loops :: .place :: .cores :: .aic :: .dma :: .outbound :: .consoles :: .conJobs :: .pipes :: .streams :: .active :: .mover :: .heads :: .audio :: .keepers :: .sec :: .cvs :: .hosts :: .dict :: .canNode :: .aborts :: .iotlb :: .sbOld :: .tsClaimed :: .mem :: .poison :: .checks :: []) a2 t := by
  intro a0 a1 a2
  unfold execBkpt
  refine ⟨_, rfl, ?_⟩
  refine issue_touches (by decide) (fun _ => ?_) ?_
  · show Touches _ _ _
    dsimp only [Res.st]
    exact touches_refl _ _
  · exact touches_refl _ _

theorem waitBody_touches : ∀ a0 a1,
    TouchesR [.cores] a1 (waitBody a0 a1) := by
  intro a0 a1
  unfold waitBody
  show Touches _ _ _
  dsimp only [Res.st]
  refine touches_after ?_ (State.setCore_touches _ _ _) (by decide)
  exact touches_refl _ _

theorem execWait_touches : ∀ a0 a1,
    ∃ t, execWait a0 a1 = .next t ∧ Touches (.freeCtr :: .cyc :: .pulses :: .devTimer :: .regs :: .sys :: .log :: .spindles :: .encoders :: .encSince :: .timers :: .ptp :: .adcs :: .comparators :: .demods :: .sectors :: .pairs :: .groups :: .tripPins :: .zonePins :: .plate :: .loops :: .place :: .cores :: .aic :: .dma :: .outbound :: .consoles :: .conJobs :: .pipes :: .streams :: .active :: .mover :: .heads :: .audio :: .keepers :: .sec :: .cvs :: .hosts :: .dict :: .canNode :: .aborts :: .iotlb :: .sbOld :: .tsClaimed :: .mem :: .poison :: .checks :: []) a1 t := by
  intro a0 a1
  unfold execWait
  refine ⟨_, rfl, ?_⟩
  refine issue_touches (by decide) (fun _ => ?_) ?_
  · refine privileged_touches (fun _ => ?_) ?_
    · refine touchesR_after ?_ (waitBody_touches _ _) (by decide)
      exact touches_refl _ _
    · exact touches_refl _ _
  · exact touches_refl _ _

theorem frameLoads_touches : ∀ a0 a1 a2 a3,
    Touches [.freeCtr, .cyc, .regs, .cores, .checks] a3 (frameLoads a0 a1 a2 a3).2 := by
  intro a0 a1 a2 a3
  fun_induction frameLoads a0 a1 a2 a3
  · dsimp only
    exact touches_refl _ _
  · dsimp only
    rename_i r0_0 r0_1 r0_2
    unfold r0_0
    refine touches_after ?_ (checkAccess_touches _ _ _ _ _) (by decide)
    exact touches_refl _ _
  · dsimp only
    rename_i r1_0 r1_1 r1_2 r1_3
    unfold r1_0
    refine touches_after ?_ ‹_› (fun _ h => h)
    rename_i r2_0 r2_1 r2_2
    unfold r2_0
    refine touches_after ?_ (checkAccess_touches _ _ _ _ _) (by decide)
    exact touches_refl _ _
  · dsimp only
    rename_i r3_0 r3_1 r3_2 r3_3
    unfold r3_0
    refine touches_after ?_ ‹_› (fun _ h => h)
    rename_i r4_0 r4_1 r4_2
    unfold r4_0
    refine touches_after ?_ (checkAccess_touches _ _ _ _ _) (by decide)
    exact touches_refl _ _

theorem retxWith_touches : ∀ a0 a1 a2,
    TouchesR [.cores] a2 (retxWith a0 a1 a2) := by
  intro a0 a1 a2
  unfold retxWith
  extract_lets +onlyGivenNames x0
  clear_value x0
  extract_lets +onlyGivenNames x1
  clear_value x1
  extract_lets +onlyGivenNames x2
  clear_value x2
  extract_lets +onlyGivenNames x3
  refine touches_cut_ofR x3 (fun p => p) ?_ (fun h3 => ?_)
  · unfold x3
    refine touches_after ?_ (setCr_touches _ _ _ _) (by decide)
    exact touches_refl _ _
  clear_value x3
  extract_lets +onlyGivenNames x4
  refine touches_cut_ofR x4 (fun p => p) ?_ (fun h4 => ?_)
  · unfold x4
    refine touches_after ?_ (setCr_touches _ _ _ _) (by decide)
    refine touches_after ?_ (setCr_touches _ _ _ _) (by decide)
    refine touches_after ?_ (setCr_touches _ _ _ _) (by decide)
    refine touches_after ?_ (setCr_touches _ _ _ _) (by decide)
    refine touches_after ?_ (setCr_touches _ _ _ _) (by decide)
    assumption
  clear_value x4
  show Touches _ _ _
  dsimp only [Res.st]
  refine touches_after ?_ (setGreg_touches _ _ _ _) (by decide)
  assumption

theorem retxBody_touches : ∀ a0 a1,
    TouchesR (.freeCtr :: .cyc :: .pulses :: .devTimer :: .regs :: .shadow :: .sys :: .log :: .spindles :: .encoders :: .encSince :: .timers :: .ptp :: .adcs :: .comparators :: .demods :: .sectors :: .pairs :: .groups :: .tripPins :: .zonePins :: .plate :: .loops :: .place :: .cores :: .aic :: .dma :: .outbound :: .consoles :: .conJobs :: .pipes :: .streams :: .active :: .mover :: .heads :: .audio :: .keepers :: .sec :: .cvs :: .hosts :: .dict :: .canNode :: .cans :: .aborts :: .iotlb :: .sbOld :: .tsClaimed :: .mem :: .poison :: .checks :: []) a1 (retxBody a0 a1) := by
  intro a0 a1
  unfold retxBody
  extract_lets +onlyGivenNames x0
  refine touches_cut_ofR x0 (fun p => p.2) ?_ (fun h0 => ?_)
  · unfold x0
    refine touches_after ?_ (frameLoads_touches _ _ _ _) (by decide)
    exact touches_refl _ _
  clear_value x0
  split
  · show Touches _ _ _
    dsimp only [Res.st]
    assumption
  · extract_lets +onlyGivenNames x1
    refine touches_cut_ofR x1 (fun p => p) ?_ (fun h1 => ?_)
    · unfold x1
      refine touches_foldl (fun _ _ _ => ?_) ?_
      · refine touches_after ?_ (drainOverlap_touches _ _ _ _) (by decide)
        assumption
      · assumption
    clear_value x1
    extract_lets +onlyGivenNames x2
    refine touches_cut_ofR x2 (fun p => p.2) ?_ (fun h2 => ?_)
    · unfold x2
      refine touches_after ?_ (readParts_touches _ _ _) (by decide)
      assumption
    clear_value x2
    split
    · refine touchesR_after ?_ (retxWith_touches _ _ _) (by decide)
      assumption
    · extract_lets +onlyGivenNames x3
      refine touches_cut_ofR x3 (fun p => p.2) ?_ (fun h3 => ?_)
      · unfold x3
        refine touches_after ?_ (takeFree_touches _ _) (by decide)
        assumption
      clear_value x3
      refine touchesR_ite ?_ ?_
      · refine touchesR_ite ?_ ?_
        · show Touches _ _ _
          dsimp only [Res.st]
          refine touches_after ?_ (mcrRecord_touches _ _ _) (by decide)
          refine touches_after ?_ (logCheck_touches _ _ _) (by decide)
          assumption
        · refine touchesR_after ?_ (retxWith_touches _ _ _) (by decide)
          refine touches_after ?_ (logCheck_touches _ _ _) (by decide)
          refine touches_after ?_ (countUpFld_touches _ _ _ _) (by decide)
          assumption
      · refine touchesR_after ?_ (retxWith_touches _ _ _) (by decide)
        refine touches_after ?_ (postCheck_touches _ _ _ _) (by decide)
        assumption

theorem execRetx_touches : ∀ a0 a1,
    ∃ t, execRetx a0 a1 = .next t ∧ Touches (.freeCtr :: .cyc :: .pulses :: .devTimer :: .regs :: .shadow :: .sys :: .log :: .spindles :: .encoders :: .encSince :: .timers :: .ptp :: .adcs :: .comparators :: .demods :: .sectors :: .pairs :: .groups :: .tripPins :: .zonePins :: .plate :: .loops :: .place :: .cores :: .aic :: .dma :: .outbound :: .consoles :: .conJobs :: .pipes :: .streams :: .active :: .mover :: .heads :: .audio :: .keepers :: .sec :: .cvs :: .hosts :: .dict :: .canNode :: .cans :: .aborts :: .iotlb :: .sbOld :: .tsClaimed :: .mem :: .poison :: .checks :: []) a1 t := by
  intro a0 a1
  unfold execRetx
  refine ⟨_, rfl, ?_⟩
  refine issue_touches (by decide) (fun _ => ?_) ?_
  · refine privileged_touches (fun _ => ?_) ?_
    · refine touchesR_after ?_ (retxBody_touches _ _) (by decide)
      exact touches_refl _ _
    · exact touches_refl _ _
  · exact touches_refl _ _

theorem execReservedInstruction_touches : ∀ a0 a1 a2,
    ∃ t, execReservedInstruction a0 a1 a2 = .next t ∧ Touches (.freeCtr :: .cyc :: .pulses :: .devTimer :: .regs :: .sys :: .log :: .spindles :: .encoders :: .encSince :: .timers :: .ptp :: .adcs :: .comparators :: .demods :: .sectors :: .pairs :: .groups :: .tripPins :: .zonePins :: .plate :: .loops :: .place :: .cores :: .aic :: .dma :: .outbound :: .consoles :: .conJobs :: .pipes :: .streams :: .active :: .mover :: .heads :: .audio :: .keepers :: .sec :: .cvs :: .hosts :: .dict :: .canNode :: .aborts :: .iotlb :: .sbOld :: .tsClaimed :: .mem :: .poison :: .checks :: []) a2 t := by
  intro a0 a1 a2
  unfold execReservedInstruction
  refine ⟨_, rfl, ?_⟩
  split
  · refine issue_touches (by decide) (fun _ => ?_) ?_
    · show Touches _ _ _
      dsimp only [Res.st]
      exact touches_refl _ _
    · exact touches_refl _ _
  · exact touches_refl _ _

end Sys2Proof.Machine
end

