-- ==== Sys2Proof/Laws/TouchIsaMem.lean ====
section
/-! SUPPORT. Which parts of the state the definitions of Machine/IsaMem.lean touch: one lemma for each, the proofs written by a
script from their shape. -/

namespace Sys2Proof.Machine

theorem ldBody_touches : ∀ a0 a1 a2 a3 a4 a5 a6 a7,
    TouchesR (.freeCtr :: .cyc :: .pulses :: .devTimer :: .regs :: .shadow :: .sys :: .log :: .spindles :: .encoders :: .encSince :: .timers :: .ptp :: .adcs :: .comparators :: .demods :: .sectors :: .pairs :: .groups :: .tripPins :: .zonePins :: .plate :: .loops :: .place :: .cores :: .aic :: .dma :: .outbound :: .consoles :: .conJobs :: .pipes :: .streams :: .active :: .mover :: .heads :: .audio :: .keepers :: .sec :: .cvs :: .hosts :: .dict :: .canNode :: .cans :: .aborts :: .iotlb :: .sbOld :: .tsClaimed :: .mem :: .poison :: .checks :: []) a7 (ldBody a0 a1 a2 a3 a4 a5 a6 a7) := by
  intro a0 a1 a2 a3 a4 a5 a6 a7
  unfold ldBody
  extract_lets +onlyGivenNames x0
  clear_value x0
  extract_lets +onlyGivenNames x1
  clear_value x1
  extract_lets +onlyGivenNames x2
  refine touches_cut_ofR x2 (fun p => p.2) ?_ (fun h2 => ?_)
  · unfold x2
    refine touches_after ?_ (checkAccess_touches _ _ _ _ _) (by decide)
    exact touches_refl _ _
  clear_value x2
  split
  · show Touches _ _ _
    dsimp only [Res.st]
    assumption
  · refine touchesR_after ?_ (loadStart_touches _ _ _) (by decide)
    assumption

theorem execLd_touches : ∀ a0 a1 a2 a3 a4 a5 a6 a7,
    ∃ t, execLd a0 a1 a2 a3 a4 a5 a6 a7 = .next t ∧ Touches (.freeCtr :: .cyc :: .pulses :: .devTimer :: .regs :: .shadow :: .sys :: .log :: .spindles :: .encoders :: .encSince :: .timers :: .ptp :: .adcs :: .comparators :: .demods :: .sectors :: .pairs :: .groups :: .tripPins :: .zonePins :: .plate :: .loops :: .place :: .cores :: .aic :: .dma :: .outbound :: .consoles :: .conJobs :: .pipes :: .streams :: .active :: .mover :: .heads :: .audio :: .keepers :: .sec :: .cvs :: .hosts :: .dict :: .canNode :: .cans :: .aborts :: .iotlb :: .sbOld :: .tsClaimed :: .mem :: .poison :: .checks :: []) a7 t := by
  intro a0 a1 a2 a3 a4 a5 a6 a7
  unfold execLd
  refine ⟨_, rfl, ?_⟩
  refine issue_touches (by decide) (fun _ => ?_) ?_
  · refine touchesR_after ?_ (ldBody_touches _ _ _ _ _ _ _ _) (by decide)
    exact touches_refl _ _
  · exact touches_refl _ _

theorem stBody_touches : ∀ a0 a1 a2 a3 a4 a5 a6,
    TouchesR (.freeCtr :: .cyc :: .pulses :: .devTimer :: .regs :: .sys :: .log :: .spindles :: .encoders :: .encSince :: .timers :: .ptp :: .adcs :: .comparators :: .demods :: .sectors :: .pairs :: .groups :: .tripPins :: .zonePins :: .plate :: .loops :: .place :: .cores :: .aic :: .dma :: .outbound :: .consoles :: .conJobs :: .pipes :: .streams :: .active :: .mover :: .heads :: .audio :: .keepers :: .sec :: .cvs :: .hosts :: .dict :: .canNode :: .aborts :: .iotlb :: .sbOld :: .tsClaimed :: .mem :: .poison :: .checks :: []) a6 (stBody a0 a1 a2 a3 a4 a5 a6) := by
  intro a0 a1 a2 a3 a4 a5 a6
  unfold stBody
  extract_lets +onlyGivenNames x0
  clear_value x0
  extract_lets +onlyGivenNames x1
  clear_value x1
  extract_lets +onlyGivenNames x2
  refine touches_cut_ofR x2 (fun p => p.2) ?_ (fun h2 => ?_)
  · unfold x2
    refine touches_after ?_ (checkAccess_touches _ _ _ _ _) (by decide)
    exact touches_refl _ _
  clear_value x2
  split
  · show Touches _ _ _
    dsimp only [Res.st]
    assumption
  · extract_lets +onlyGivenNames x3
    refine touches_cut_ofR x3 (fun p => p) ?_ (fun h3 => ?_)
    · unfold x3
      refine touches_after ?_ (storeParts_touches _ _ _ _) (by decide)
      assumption
    clear_value x3
    show Touches _ _ _
    dsimp only [Res.st]
    refine touches_ite ?_ ?_
    · refine touches_after ?_ (setGreg_touches _ _ _ _) (by decide)
      assumption
    · assumption

theorem execSt_touches : ∀ a0 a1 a2 a3 a4 a5 a6,
    ∃ t, execSt a0 a1 a2 a3 a4 a5 a6 = .next t ∧ Touches (.freeCtr :: .cyc :: .pulses :: .devTimer :: .regs :: .sys :: .log :: .spindles :: .encoders :: .encSince :: .timers :: .ptp :: .adcs :: .comparators :: .demods :: .sectors :: .pairs :: .groups :: .tripPins :: .zonePins :: .plate :: .loops :: .place :: .cores :: .aic :: .dma :: .outbound :: .consoles :: .conJobs :: .pipes :: .streams :: .active :: .mover :: .heads :: .audio :: .keepers :: .sec :: .cvs :: .hosts :: .dict :: .canNode :: .aborts :: .iotlb :: .sbOld :: .tsClaimed :: .mem :: .poison :: .checks :: []) a6 t := by
  intro a0 a1 a2 a3 a4 a5 a6
  unfold execSt
  refine ⟨_, rfl, ?_⟩
  refine issue_touches (by decide) (fun _ => ?_) ?_
  · refine touchesR_after ?_ (stBody_touches _ _ _ _ _ _ _) (by decide)
    exact touches_refl _ _
  · exact touches_refl _ _

theorem reservedCheck_touches : ∀ a0 a1 a2 a3,
    Touches [.freeCtr, .cyc, .regs, .cores, .checks] a3 (reservedCheck a0 a1 a2 a3).2 := by
  intro a0 a1 a2 a3
  unfold reservedCheck
  refine touches_ite_snd ?_ ?_
  · dsimp only
    exact touches_refl _ _
  · extract_lets +onlyGivenNames x0
    refine touches_cut_snd x0 ?_ (fun h0 => ?_)
    · unfold x0
      refine touches_after ?_ (checkAccess_touches _ _ _ _ _) (by decide)
      exact touches_refl _ _
    clear_value x0
    split
    · dsimp only
      assumption
    · split
      · refine touches_ite_snd ?_ ?_
        · dsimp only
          assumption
        · dsimp only
          assumption
      · dsimp only
        assumption

theorem llwBody_touches : ∀ a0 a1 a2 a3,
    TouchesR (.freeCtr :: .cyc :: .pulses :: .devTimer :: .regs :: .shadow :: .sys :: .log :: .spindles :: .encoders :: .encSince :: .timers :: .ptp :: .adcs :: .comparators :: .demods :: .sectors :: .pairs :: .groups :: .tripPins :: .zonePins :: .plate :: .loops :: .place :: .cores :: .aic :: .dma :: .outbound :: .consoles :: .conJobs :: .pipes :: .streams :: .active :: .mover :: .heads :: .audio :: .keepers :: .sec :: .cvs :: .hosts :: .dict :: .canNode :: .cans :: .aborts :: .iotlb :: .sbOld :: .tsClaimed :: .mem :: .poison :: .checks :: []) a3 (llwBody a0 a1 a2 a3) := by
  intro a0 a1 a2 a3
  unfold llwBody
  extract_lets +onlyGivenNames x0
  clear_value x0
  extract_lets +onlyGivenNames x1
  refine touches_cut_ofR x1 (fun p => p.2) ?_ (fun h1 => ?_)
  · unfold x1
    refine touches_after ?_ (reservedCheck_touches _ _ _ _) (by decide)
    exact touches_refl _ _
  clear_value x1
  split
  · show Touches _ _ _
    dsimp only [Res.st]
    assumption
  · extract_lets +onlyGivenNames x2
    clear_value x2
    extract_lets +onlyGivenNames x3
    refine touches_cut_ofR x3 (fun p => p) ?_ (fun h3 => ?_)
    · unfold x3
      refine touches_after ?_ (drainOverlap_touches _ _ _ _) (by decide)
      refine touches_after ?_ (State.setCore_touches _ _ _) (by decide)
      assumption
    clear_value x3
    refine touchesR_after ?_ (loadStart_touches _ _ _) (by decide)
    assumption

theorem execLlw_touches : ∀ a0 a1 a2 a3,
    ∃ t, execLlw a0 a1 a2 a3 = .next t ∧ Touches (.freeCtr :: .cyc :: .pulses :: .devTimer :: .regs :: .shadow :: .sys :: .log :: .spindles :: .encoders :: .encSince :: .timers :: .ptp :: .adcs :: .comparators :: .demods :: .sectors :: .pairs :: .groups :: .tripPins :: .zonePins :: .plate :: .loops :: .place :: .cores :: .aic :: .dma :: .outbound :: .consoles :: .conJobs :: .pipes :: .streams :: .active :: .mover :: .heads :: .audio :: .keepers :: .sec :: .cvs :: .hosts :: .dict :: .canNode :: .cans :: .aborts :: .iotlb :: .sbOld :: .tsClaimed :: .mem :: .poison :: .checks :: []) a3 t := by
  intro a0 a1 a2 a3
  unfold execLlw
  refine ⟨_, rfl, ?_⟩
  refine issue_touches (by decide) (fun _ => ?_) ?_
  · refine touchesR_after ?_ (llwBody_touches _ _ _ _) (by decide)
    exact touches_refl _ _
  · exact touches_refl _ _

theorem scwBody_touches : ∀ a0 a1 a2 a3 a4,
    TouchesR (.freeCtr :: .cyc :: .pulses :: .devTimer :: .regs :: .sys :: .log :: .spindles :: .encoders :: .encSince :: .timers :: .ptp :: .adcs :: .comparators :: .demods :: .sectors :: .pairs :: .groups :: .tripPins :: .zonePins :: .plate :: .loops :: .place :: .cores :: .aic :: .dma :: .outbound :: .consoles :: .conJobs :: .pipes :: .streams :: .active :: .mover :: .heads :: .audio :: .keepers :: .sec :: .cvs :: .hosts :: .dict :: .canNode :: .aborts :: .iotlb :: .sbOld :: .tsClaimed :: .mem :: .poison :: .checks :: []) a4 (scwBody a0 a1 a2 a3 a4) := by
  intro a0 a1 a2 a3 a4
  unfold scwBody
  extract_lets +onlyGivenNames x0
  clear_value x0
  extract_lets +onlyGivenNames x1
  refine touches_cut_ofR x1 (fun p => p.2) ?_ (fun h1 => ?_)
  · unfold x1
    refine touches_after ?_ (reservedCheck_touches _ _ _ _) (by decide)
    exact touches_refl _ _
  clear_value x1
  split
  · show Touches _ _ _
    dsimp only [Res.st]
    assumption
  · extract_lets +onlyGivenNames x2
    refine touches_cut_ofR x2 (fun p => p) ?_ (fun h2 => ?_)
    · unfold x2
      refine touches_after ?_ (drainOverlap_touches _ _ _ _) (by decide)
      assumption
    clear_value x2
    extract_lets +onlyGivenNames x3
    clear_value x3
    extract_lets +onlyGivenNames x4
    clear_value x4
    extract_lets +onlyGivenNames x5
    refine touches_cut_ofR x5 (fun p => p) ?_ (fun h5 => ?_)
    · unfold x5
      refine touches_after ?_ (State.setCore_touches _ _ _) (by decide)
      assumption
    clear_value x5
    show Touches _ _ _
    dsimp only [Res.st]
    refine touches_ite ?_ ?_
    · refine touches_after ?_ (setGreg_touches _ _ _ _) (by decide)
      refine touches_after ?_ (memWrite_touches _ _ _ _) (by decide)
      assumption
    · refine touches_after ?_ (setGreg_touches _ _ _ _) (by decide)
      assumption

theorem execScw_touches : ∀ a0 a1 a2 a3 a4,
    ∃ t, execScw a0 a1 a2 a3 a4 = .next t ∧ Touches (.freeCtr :: .cyc :: .pulses :: .devTimer :: .regs :: .sys :: .log :: .spindles :: .encoders :: .encSince :: .timers :: .ptp :: .adcs :: .comparators :: .demods :: .sectors :: .pairs :: .groups :: .tripPins :: .zonePins :: .plate :: .loops :: .place :: .cores :: .aic :: .dma :: .outbound :: .consoles :: .conJobs :: .pipes :: .streams :: .active :: .mover :: .heads :: .audio :: .keepers :: .sec :: .cvs :: .hosts :: .dict :: .canNode :: .aborts :: .iotlb :: .sbOld :: .tsClaimed :: .mem :: .poison :: .checks :: []) a4 t := by
  intro a0 a1 a2 a3 a4
  unfold execScw
  refine ⟨_, rfl, ?_⟩
  refine issue_touches (by decide) (fun _ => ?_) ?_
  · refine touchesR_after ?_ (scwBody_touches _ _ _ _ _) (by decide)
    exact touches_refl _ _
  · exact touches_refl _ _

theorem cacheOp_touches {F : List Part} {c ga : Nat} {off : BitVec 12} {f : Nat → State → State} {s t : State} (hF : ∀ p ∈ (.freeCtr :: .cyc :: .pulses :: .devTimer :: .regs :: .sys :: .log :: .spindles :: .encoders :: .encSince :: .timers :: .ptp :: .adcs :: .comparators :: .demods :: .sectors :: .pairs :: .groups :: .tripPins :: .zonePins :: .plate :: .loops :: .place :: .cores :: .aic :: .dma :: .outbound :: .consoles :: .conJobs :: .pipes :: .streams :: .active :: .mover :: .heads :: .audio :: .keepers :: .sec :: .cvs :: .hosts :: .dict :: .canNode :: .aborts :: .iotlb :: .sbOld :: .tsClaimed :: .mem :: .poison :: .checks :: []), p ∈ F)
    (hf : ∀ k u, Touches F u (f k u)) (h : Touches F s t) :
    TouchesR F s (cacheOp c ga off f t) := by
  unfold cacheOp
  extract_lets x0 x1
  have h1 : Touches F s x1.2 := touches_after h (checkAccess_touches _ _ _ _ _) (fun p hp => hF p ((show ∀ p ∈ _, p ∈ _ by decide) p hp))
  split
  · exact h1
  · split
    · exact Touches.trans (touches_after h1 (drainOverlap_touches _ _ _ _) (fun p hp => hF p ((show ∀ p ∈ _, p ∈ _ by decide) p hp))) (hf _ _)
    · exact h1

theorem execCacheClean_touches : ∀ a0 a1 a2 a3,
    ∃ t, execCacheClean a0 a1 a2 a3 = .next t ∧ Touches (.freeCtr :: .cyc :: .pulses :: .devTimer :: .regs :: .sys :: .log :: .spindles :: .encoders :: .encSince :: .timers :: .ptp :: .adcs :: .comparators :: .demods :: .sectors :: .pairs :: .groups :: .tripPins :: .zonePins :: .plate :: .loops :: .place :: .cores :: .aic :: .dma :: .outbound :: .consoles :: .conJobs :: .pipes :: .streams :: .active :: .mover :: .heads :: .audio :: .keepers :: .sec :: .cvs :: .hosts :: .dict :: .canNode :: .aborts :: .iotlb :: .sbOld :: .tsClaimed :: .mem :: .poison :: .checks :: []) a3 t := by
  intro a0 a1 a2 a3
  unfold execCacheClean
  refine ⟨_, rfl, ?_⟩
  refine issue_touches (by decide) (fun _ => ?_) ?_
  · refine cacheOp_touches (by decide) (fun _ _ => ?_) ?_
    · refine touches_after ?_ (l1Clean_touches _ _ _) (by decide)
      exact touches_refl _ _
    · exact touches_refl _ _
  · exact touches_refl _ _

theorem execCacheInvalidate_touches : ∀ a0 a1 a2 a3,
    ∃ t, execCacheInvalidate a0 a1 a2 a3 = .next t ∧ Touches (.freeCtr :: .cyc :: .pulses :: .devTimer :: .regs :: .sys :: .log :: .spindles :: .encoders :: .encSince :: .timers :: .ptp :: .adcs :: .comparators :: .demods :: .sectors :: .pairs :: .groups :: .tripPins :: .zonePins :: .plate :: .loops :: .place :: .cores :: .aic :: .dma :: .outbound :: .consoles :: .conJobs :: .pipes :: .streams :: .active :: .mover :: .heads :: .audio :: .keepers :: .sec :: .cvs :: .hosts :: .dict :: .canNode :: .aborts :: .iotlb :: .sbOld :: .tsClaimed :: .mem :: .poison :: .checks :: []) a3 t := by
  intro a0 a1 a2 a3
  unfold execCacheInvalidate
  refine ⟨_, rfl, ?_⟩
  refine issue_touches (by decide) (fun _ => ?_) ?_
  · refine privileged_touches (fun _ => ?_) ?_
    · refine cacheOp_touches (by decide) (fun _ _ => ?_) ?_
      · refine touches_after ?_ (dropLine_touches _ _ _) (by decide)
        exact touches_refl _ _
      · exact touches_refl _ _
    · exact touches_refl _ _
  · exact touches_refl _ _

theorem execCacheCleanInvalidate_touches : ∀ a0 a1 a2 a3,
    ∃ t, execCacheCleanInvalidate a0 a1 a2 a3 = .next t ∧ Touches (.freeCtr :: .cyc :: .pulses :: .devTimer :: .regs :: .sys :: .log :: .spindles :: .encoders :: .encSince :: .timers :: .ptp :: .adcs :: .comparators :: .demods :: .sectors :: .pairs :: .groups :: .tripPins :: .zonePins :: .plate :: .loops :: .place :: .cores :: .aic :: .dma :: .outbound :: .consoles :: .conJobs :: .pipes :: .streams :: .active :: .mover :: .heads :: .audio :: .keepers :: .sec :: .cvs :: .hosts :: .dict :: .canNode :: .aborts :: .iotlb :: .sbOld :: .tsClaimed :: .mem :: .poison :: .checks :: []) a3 t := by
  intro a0 a1 a2 a3
  unfold execCacheCleanInvalidate
  refine ⟨_, rfl, ?_⟩
  refine issue_touches (by decide) (fun _ => ?_) ?_
  · refine cacheOp_touches (by decide) (fun _ _ => ?_) ?_
    · refine touches_after ?_ (dropLine_touches _ _ _) (by decide)
      refine touches_after ?_ (l1Clean_touches _ _ _) (by decide)
      exact touches_refl _ _
    · exact touches_refl _ _
  · exact touches_refl _ _

theorem dropInstrLine_touches : ∀ a0 a1 a2,
    Touches [.cores] a2 (dropInstrLine a0 a1 a2) := by
  intro a0 a1 a2
  unfold dropInstrLine
  refine touches_after ?_ (State.setCore_touches _ _ _) (by decide)
  exact touches_refl _ _

theorem execCacheInvalidateI_touches : ∀ a0 a1 a2 a3,
    ∃ t, execCacheInvalidateI a0 a1 a2 a3 = .next t ∧ Touches (.freeCtr :: .cyc :: .pulses :: .devTimer :: .regs :: .sys :: .log :: .spindles :: .encoders :: .encSince :: .timers :: .ptp :: .adcs :: .comparators :: .demods :: .sectors :: .pairs :: .groups :: .tripPins :: .zonePins :: .plate :: .loops :: .place :: .cores :: .aic :: .dma :: .outbound :: .consoles :: .conJobs :: .pipes :: .streams :: .active :: .mover :: .heads :: .audio :: .keepers :: .sec :: .cvs :: .hosts :: .dict :: .canNode :: .aborts :: .iotlb :: .sbOld :: .tsClaimed :: .mem :: .poison :: .checks :: []) a3 t := by
  intro a0 a1 a2 a3
  unfold execCacheInvalidateI
  refine ⟨_, rfl, ?_⟩
  refine issue_touches (by decide) (fun _ => ?_) ?_
  · refine cacheOp_touches (by decide) (fun _ _ => ?_) ?_
    · refine touches_after ?_ (dropInstrLine_touches _ _ _) (by decide)
      exact touches_refl _ _
    · exact touches_refl _ _
  · exact touches_refl _ _

theorem prefetchBody_touches : ∀ a0 a1 a2 a3,
    TouchesR (.freeCtr :: .cyc :: .regs :: .plate :: .cores :: .dict :: .mem :: .poison :: .checks :: []) a3 (prefetchBody a0 a1 a2 a3) := by
  intro a0 a1 a2 a3
  unfold prefetchBody
  extract_lets +onlyGivenNames x0
  refine touches_cut_ofR x0 (fun p => p.2) ?_ (fun h0 => ?_)
  · unfold x0
    refine touches_after ?_ (checkAccess_touches _ _ _ _ _) (by decide)
    exact touches_refl _ _
  clear_value x0
  split
  · show Touches _ _ _
    dsimp only [Res.st]
    refine touches_ite ?_ ?_
    · refine touches_after ?_ (l1Fill_touches _ _ _) (by decide)
      assumption
    · assumption
  · show Touches _ _ _
    dsimp only [Res.st]
    assumption
  · show Touches _ _ _
    dsimp only [Res.st]
    assumption

theorem execCachePrefetch_touches : ∀ a0 a1 a2 a3,
    ∃ t, execCachePrefetch a0 a1 a2 a3 = .next t ∧ Touches (.freeCtr :: .cyc :: .pulses :: .devTimer :: .regs :: .sys :: .log :: .spindles :: .encoders :: .encSince :: .timers :: .ptp :: .adcs :: .comparators :: .demods :: .sectors :: .pairs :: .groups :: .tripPins :: .zonePins :: .plate :: .loops :: .place :: .cores :: .aic :: .dma :: .outbound :: .consoles :: .conJobs :: .pipes :: .streams :: .active :: .mover :: .heads :: .audio :: .keepers :: .sec :: .cvs :: .hosts :: .dict :: .canNode :: .aborts :: .iotlb :: .sbOld :: .tsClaimed :: .mem :: .poison :: .checks :: []) a3 t := by
  intro a0 a1 a2 a3
  unfold execCachePrefetch
  refine ⟨_, rfl, ?_⟩
  refine issue_touches (by decide) (fun _ => ?_) ?_
  · refine touchesR_after ?_ (prefetchBody_touches _ _ _ _) (by decide)
    exact touches_refl _ _
  · exact touches_refl _ _

theorem execFence_touches : ∀ a0 a1,
    ∃ t, execFence a0 a1 = .next t ∧ Touches (.freeCtr :: .cyc :: .pulses :: .devTimer :: .regs :: .sys :: .log :: .spindles :: .encoders :: .encSince :: .timers :: .ptp :: .adcs :: .comparators :: .demods :: .sectors :: .pairs :: .groups :: .tripPins :: .zonePins :: .plate :: .loops :: .place :: .cores :: .aic :: .dma :: .outbound :: .consoles :: .conJobs :: .pipes :: .streams :: .active :: .mover :: .heads :: .audio :: .keepers :: .sec :: .cvs :: .hosts :: .dict :: .canNode :: .aborts :: .iotlb :: .sbOld :: .tsClaimed :: .mem :: .poison :: .checks :: []) a1 t := by
  intro a0 a1
  unfold execFence
  refine ⟨_, rfl, ?_⟩
  refine issue_touches (by decide) (fun _ => ?_) ?_
  · show Touches _ _ _
    dsimp only [Res.st]
    refine touches_after ?_ (drainAll_touches _ _) (by decide)
    exact touches_refl _ _
  · exact touches_refl _ _

theorem execSync_touches : ∀ a0 a1,
    ∃ t, execSync a0 a1 = .next t ∧ Touches (.freeCtr :: .cyc :: .pulses :: .devTimer :: .regs :: .sys :: .log :: .spindles :: .encoders :: .encSince :: .timers :: .ptp :: .adcs :: .comparators :: .demods :: .sectors :: .pairs :: .groups :: .tripPins :: .zonePins :: .plate :: .loops :: .place :: .cores :: .aic :: .dma :: .outbound :: .consoles :: .conJobs :: .pipes :: .streams :: .active :: .mover :: .heads :: .audio :: .keepers :: .sec :: .cvs :: .hosts :: .dict :: .canNode :: .aborts :: .iotlb :: .sbOld :: .tsClaimed :: .mem :: .poison :: .checks :: []) a1 t := by
  intro a0 a1
  unfold execSync
  refine ⟨_, rfl, ?_⟩
  refine issue_touches (by decide) (fun _ => ?_) ?_
  · show Touches _ _ _
    dsimp only [Res.st]
    refine touches_after ?_ (l1CleanAll_touches _ _) (by decide)
    refine touches_after ?_ (drainAll_touches _ _) (by decide)
    exact touches_refl _ _
  · exact touches_refl _ _

theorem unitTranslate_touches : ∀ a0 a1 a2 a3 a4,
    Touches [.freeCtr, .cyc, .regs, .cores, .checks] a4 (unitTranslate a0 a1 a2 a3 a4).2 := by
  intro a0 a1 a2 a3 a4
  unfold unitTranslate
  extract_lets +onlyGivenNames x0
  refine touches_cut_snd x0 ?_ (fun h0 => ?_)
  · unfold x0
    refine touches_after ?_ (translateParts_touches _ _ _ _) (by decide)
    exact touches_refl _ _
  clear_value x0
  split
  · dsimp only
    assumption
  · dsimp only
    assumption

theorem readUnit_touches : ∀ a0 a1 a2,
    Touches (.freeCtr :: .cyc :: .pulses :: .devTimer :: .regs :: .shadow :: .sys :: .log :: .spindles :: .encoders :: .encSince :: .timers :: .ptp :: .adcs :: .comparators :: .demods :: .sectors :: .pairs :: .groups :: .tripPins :: .zonePins :: .plate :: .loops :: .place :: .cores :: .aic :: .dma :: .outbound :: .consoles :: .conJobs :: .pipes :: .streams :: .active :: .mover :: .heads :: .audio :: .keepers :: .sec :: .cvs :: .hosts :: .dict :: .canNode :: .cans :: .aborts :: .iotlb :: .sbOld :: .tsClaimed :: .mem :: .poison :: .checks :: []) a2 (readUnit a0 a1 a2).2 := by
  intro a0 a1 a2
  unfold readUnit
  refine touches_after ?_ (readParts_touches _ _ _) (by decide)
  refine touches_foldl (fun _ _ _ => ?_) ?_
  · refine touches_after ?_ (drainOverlap_touches _ _ _ _) (by decide)
    assumption
  · exact touches_refl _ _

theorem unitFails_touches {F : List Part} {c d a n : Nat} {o : Option Nat} {g : List Byte → State → Res} {s t : State} (hF : ∀ p ∈ [.freeCtr, .regs, .log, .canNode, .checks], p ∈ F)
    (hg : ∀ l u, TouchesR F u (g l u)) (h : Touches F s t) :
    TouchesR F s (unitFails c o d a n g t) := by
  have m (G : List Part) (hG : ∀ p ∈ G, p ∈ [.freeCtr, .regs, .log, .canNode, .checks]) : ∀ p ∈ G, p ∈ F := fun p hp => hF p (hG p hp)
  unfold unitFails
  extract_lets x0
  have h0 : Touches F s x0.2 := touches_after h (takeFree_touches _ _) (m _ (by decide))
  split
  · split
    · exact touches_after (touches_after h (logCheck_touches _ _ _) (m _ (by decide))) (mcrRecord_touches _ _ _) (m _ (by decide))
    · exact touchesR_trans (touches_after (touches_after h0 (countUpFld_touches _ _ _ _) (m _ (by decide))) (logCheck_touches _ _ _) (m _ (by decide))) (hg _ _)
  · exact touchesR_trans (touches_after h0 (postCheck_touches _ _ _ _) (m _ (by decide))) (hg _ _)

theorem unitEnd_touches : ∀ a0 a1,
    TouchesR [] a1 (unitEnd a0 a1) := by
  intro a0 a1
  unfold unitEnd
  refine touchesR_ite ?_ ?_
  · show Touches _ _ _
    dsimp only [Res.st]
    exact touches_refl _ _
  · show Touches _ _ _
    dsimp only [Res.st]
    exact touches_refl _ _

theorem xferBody_touches : ∀ a0 a1 a2 a3 a4,
    TouchesR (.freeCtr :: .cyc :: .pulses :: .devTimer :: .regs :: .shadow :: .sys :: .log :: .spindles :: .encoders :: .encSince :: .timers :: .ptp :: .adcs :: .comparators :: .demods :: .sectors :: .pairs :: .groups :: .tripPins :: .zonePins :: .plate :: .loops :: .place :: .cores :: .aic :: .dma :: .outbound :: .consoles :: .conJobs :: .pipes :: .streams :: .active :: .mover :: .heads :: .audio :: .keepers :: .sec :: .cvs :: .hosts :: .dict :: .canNode :: .cans :: .aborts :: .iotlb :: .sbOld :: .tsClaimed :: .mem :: .poison :: .checks :: []) a4 (xferBody a0 a1 a2 a3 a4) := by
  intro a0 a1 a2 a3 a4
  unfold xferBody
  extract_lets +onlyGivenNames x0
  clear_value x0
  extract_lets +onlyGivenNames x1
  clear_value x1
  extract_lets +onlyGivenNames x2
  clear_value x2
  extract_lets +onlyGivenNames x3
  clear_value x3
  refine touchesR_ite ?_ ?_
  · refine touchesR_after ?_ (reserved_touches _) (by decide)
    exact touches_refl _ _
  · refine touchesR_ite ?_ ?_
    · show Touches _ _ _
      dsimp only [Res.st]
      exact touches_refl _ _
    · extract_lets +onlyGivenNames x4
      refine touches_cut_ofR x4 (fun p => p.2) ?_ (fun h4 => ?_)
      · unfold x4
        refine touches_after ?_ (unitTranslate_touches _ _ _ _ _) (by decide)
        exact touches_refl _ _
      clear_value x4
      split
      · show Touches _ _ _
        dsimp only [Res.st]
        assumption
      · extract_lets +onlyGivenNames x5
        refine touches_cut_ofR x5 (fun p => p.2) ?_ (fun h5 => ?_)
        · unfold x5
          refine touches_after ?_ (unitTranslate_touches _ _ _ _ _) (by decide)
          assumption
        clear_value x5
        split
        · show Touches _ _ _
          dsimp only [Res.st]
          assumption
        · split
          · show Touches _ _ _
            dsimp only [Res.st]
            assumption
          · split
            · show Touches _ _ _
              dsimp only [Res.st]
              assumption
            · extract_lets +onlyGivenNames x6
              clear_value x6
              extract_lets +onlyGivenNames x7
              clear_value x7
              extract_lets +onlyGivenNames x8
              unfold x8
              clear x8
              extract_lets +onlyGivenNames x9
              refine touches_cut_ofR x9 (fun p => p.2) ?_ (fun h9 => ?_)
              · unfold x9
                refine touches_after ?_ (readUnit_touches _ _ _) (by decide)
                assumption
              clear_value x9
              split
              · extract_lets +onlyGivenNames x10
                clear_value x10
                extract_lets +onlyGivenNames x11
                refine touches_cut_ofR x11 (fun p => p) ?_ (fun h11 => ?_)
                · unfold x11
                  refine touches_after ?_ (storeParts_touches _ _ _ _) (by decide)
                  assumption
                clear_value x11
                refine touchesR_after ?_ (unitEnd_touches _ _) (by decide)
                refine touches_after ?_ (setGreg_touches _ _ _ _) (by decide)
                refine touches_after ?_ (setGreg_touches _ _ _ _) (by decide)
                refine touches_after ?_ (setGreg_touches _ _ _ _) (by decide)
                assumption
              · refine unitFails_touches (by decide) (fun _ _ => ?_) ?_
                · extract_lets +onlyGivenNames x12
                  clear_value x12
                  extract_lets +onlyGivenNames x13
                  refine touches_cut_ofR x13 (fun p => p) ?_ (fun h13 => ?_)
                  · unfold x13
                    refine touches_after ?_ (storeParts_touches _ _ _ _) (by decide)
                    exact touches_refl _ _
                  clear_value x13
                  refine touchesR_after ?_ (unitEnd_touches _ _) (by decide)
                  refine touches_after ?_ (setGreg_touches _ _ _ _) (by decide)
                  refine touches_after ?_ (setGreg_touches _ _ _ _) (by decide)
                  refine touches_after ?_ (setGreg_touches _ _ _ _) (by decide)
                  assumption
                · assumption

theorem execXfer_touches : ∀ a0 a1 a2 a3 a4,
    ∃ t, execXfer a0 a1 a2 a3 a4 = .next t ∧ Touches (.freeCtr :: .cyc :: .pulses :: .devTimer :: .regs :: .shadow :: .sys :: .log :: .spindles :: .encoders :: .encSince :: .timers :: .ptp :: .adcs :: .comparators :: .demods :: .sectors :: .pairs :: .groups :: .tripPins :: .zonePins :: .plate :: .loops :: .place :: .cores :: .aic :: .dma :: .outbound :: .consoles :: .conJobs :: .pipes :: .streams :: .active :: .mover :: .heads :: .audio :: .keepers :: .sec :: .cvs :: .hosts :: .dict :: .canNode :: .cans :: .aborts :: .iotlb :: .sbOld :: .tsClaimed :: .mem :: .poison :: .checks :: []) a4 t := by
  intro a0 a1 a2 a3 a4
  unfold execXfer
  refine ⟨_, rfl, ?_⟩
  refine issue_touches (by decide) (fun _ => ?_) ?_
  · refine touchesR_after ?_ (xferBody_touches _ _ _ _ _) (by decide)
    exact touches_refl _ _
  · exact touches_refl _ _

theorem crcbValue_touches : ∀ a0 a1 a2 a3,
    Touches [.freeCtr] a3 (crcbValue a0 a1 a2 a3).2 := by
  intro a0 a1 a2 a3
  unfold crcbValue
  extract_lets +onlyGivenNames x0
  clear_value x0
  extract_lets +onlyGivenNames x1
  clear_value x1
  refine touches_ite_snd ?_ ?_
  · refine touches_after ?_ (takeFree_touches _ _) (by decide)
    exact touches_refl _ _
  · extract_lets +onlyGivenNames x2
    clear_value x2
    dsimp only
    exact touches_refl _ _

theorem crcbBody_touches : ∀ a0 a1 a2 a3 a4,
    TouchesR (.freeCtr :: .cyc :: .pulses :: .devTimer :: .regs :: .shadow :: .sys :: .log :: .spindles :: .encoders :: .encSince :: .timers :: .ptp :: .adcs :: .comparators :: .demods :: .sectors :: .pairs :: .groups :: .tripPins :: .zonePins :: .plate :: .loops :: .place :: .cores :: .aic :: .dma :: .outbound :: .consoles :: .conJobs :: .pipes :: .streams :: .active :: .mover :: .heads :: .audio :: .keepers :: .sec :: .cvs :: .hosts :: .dict :: .canNode :: .cans :: .aborts :: .iotlb :: .sbOld :: .tsClaimed :: .mem :: .poison :: .checks :: []) a4 (crcbBody a0 a1 a2 a3 a4) := by
  intro a0 a1 a2 a3 a4
  unfold crcbBody
  extract_lets +onlyGivenNames x0
  clear_value x0
  extract_lets +onlyGivenNames x1
  clear_value x1
  extract_lets +onlyGivenNames x2
  clear_value x2
  refine touchesR_ite ?_ ?_
  · refine touchesR_after ?_ (reserved_touches _) (by decide)
    exact touches_refl _ _
  · refine touchesR_ite ?_ ?_
    · show Touches _ _ _
      dsimp only [Res.st]
      exact touches_refl _ _
    · extract_lets +onlyGivenNames x3
      refine touches_cut_ofR x3 (fun p => p.2) ?_ (fun h3 => ?_)
      · unfold x3
        refine touches_after ?_ (unitTranslate_touches _ _ _ _ _) (by decide)
        exact touches_refl _ _
      clear_value x3
      split
      · show Touches _ _ _
        dsimp only [Res.st]
        assumption
      · split
        · show Touches _ _ _
          dsimp only [Res.st]
          assumption
        · extract_lets +onlyGivenNames x4
          unfold x4
          clear x4
          extract_lets +onlyGivenNames x5
          refine touches_cut_ofR x5 (fun p => p.2) ?_ (fun h5 => ?_)
          · unfold x5
            refine touches_after ?_ (readUnit_touches _ _ _) (by decide)
            assumption
          clear_value x5
          split
          · extract_lets +onlyGivenNames x6
            refine touches_cut_ofR x6 (fun p => p.2) ?_ (fun h6 => ?_)
            · unfold x6
              refine touches_after ?_ (crcbValue_touches _ _ _ _) (by decide)
              assumption
            clear_value x6
            refine touchesR_after ?_ (unitEnd_touches _ _) (by decide)
            refine touches_after ?_ (setGreg_touches _ _ _ _) (by decide)
            refine touches_after ?_ (setGreg_touches _ _ _ _) (by decide)
            refine touches_after ?_ (setGreg_touches _ _ _ _) (by decide)
            assumption
          · refine unitFails_touches (by decide) (fun _ _ => ?_) ?_
            · extract_lets +onlyGivenNames x7
              refine touches_cut_ofR x7 (fun p => p.2) ?_ (fun h7 => ?_)
              · unfold x7
                refine touches_after ?_ (crcbValue_touches _ _ _ _) (by decide)
                exact touches_refl _ _
              clear_value x7
              refine touchesR_after ?_ (unitEnd_touches _ _) (by decide)
              refine touches_after ?_ (setGreg_touches _ _ _ _) (by decide)
              refine touches_after ?_ (setGreg_touches _ _ _ _) (by decide)
              refine touches_after ?_ (setGreg_touches _ _ _ _) (by decide)
              assumption
            · assumption

theorem execCrcb_touches : ∀ a0 a1 a2 a3 a4,
    ∃ t, execCrcb a0 a1 a2 a3 a4 = .next t ∧ Touches (.freeCtr :: .cyc :: .pulses :: .devTimer :: .regs :: .shadow :: .sys :: .log :: .spindles :: .encoders :: .encSince :: .timers :: .ptp :: .adcs :: .comparators :: .demods :: .sectors :: .pairs :: .groups :: .tripPins :: .zonePins :: .plate :: .loops :: .place :: .cores :: .aic :: .dma :: .outbound :: .consoles :: .conJobs :: .pipes :: .streams :: .active :: .mover :: .heads :: .audio :: .keepers :: .sec :: .cvs :: .hosts :: .dict :: .canNode :: .cans :: .aborts :: .iotlb :: .sbOld :: .tsClaimed :: .mem :: .poison :: .checks :: []) a4 t := by
  intro a0 a1 a2 a3 a4
  unfold execCrcb
  refine ⟨_, rfl, ?_⟩
  refine issue_touches (by decide) (fun _ => ?_) ?_
  · refine touchesR_after ?_ (crcbBody_touches _ _ _ _ _) (by decide)
    exact touches_refl _ _
  · exact touches_refl _ _

theorem cop_touches {F : List Part} {c : Nat} {o : Bool} {b : State → Res} {s t : State} (hb : ∀ u, TouchesR F u (b u)) (h : Touches F s t) :
    TouchesR F s (cop c o b t) := by
  unfold cop
  split
  · exact h
  · split
    · exact h
    · exact touchesR_trans h (hb _)

theorem setAcc_touches : ∀ a0 a1 a2,
    Touches [.cores] a2 (setAcc a0 a1 a2) := by
  intro a0 a1 a2
  unfold setAcc
  extract_lets +onlyGivenNames x0
  clear_value x0
  refine touches_after ?_ (setCr_touches _ _ _ _) (by decide)
  refine touches_after ?_ (setCr_touches _ _ _ _) (by decide)
  exact touches_refl _ _

theorem noteSat_touches : ∀ a0 a1 a2,
    Touches [.cores] a2 (noteSat a0 a1 a2) := by
  intro a0 a1 a2
  unfold noteSat
  refine touches_ite ?_ ?_
  · refine touches_after ?_ (setCr_touches _ _ _ _) (by decide)
    exact touches_refl _ _
  · exact touches_refl _ _

theorem satResult_touches : ∀ a0 a1 a2 a3,
    Touches [.cores] a3 (satResult a0 a1 a2 a3) := by
  intro a0 a1 a2 a3
  unfold satResult
  refine touches_after ?_ (noteSat_touches _ _ _) (by decide)
  refine touches_after ?_ (setGreg_touches _ _ _ _) (by decide)
  exact touches_refl _ _

theorem execMacs_touches : ∀ a0 a1 a2 a3,
    ∃ t, execMacs a0 a1 a2 a3 = .next t ∧ Touches (.freeCtr :: .cyc :: .pulses :: .devTimer :: .regs :: .sys :: .log :: .spindles :: .encoders :: .encSince :: .timers :: .ptp :: .adcs :: .comparators :: .demods :: .sectors :: .pairs :: .groups :: .tripPins :: .zonePins :: .plate :: .loops :: .place :: .cores :: .aic :: .dma :: .outbound :: .consoles :: .conJobs :: .pipes :: .streams :: .active :: .mover :: .heads :: .audio :: .keepers :: .sec :: .cvs :: .hosts :: .dict :: .canNode :: .aborts :: .iotlb :: .sbOld :: .tsClaimed :: .mem :: .poison :: .checks :: []) a3 t := by
  intro a0 a1 a2 a3
  unfold execMacs
  refine ⟨_, rfl, ?_⟩
  refine issue_touches (by decide) (fun _ => ?_) ?_
  · refine cop_touches (fun _ => ?_) ?_
    · extract_lets +onlyGivenNames x0
      clear_value x0
      extract_lets +onlyGivenNames x1
      clear_value x1
      show Touches _ _ _
      dsimp only [Res.st]
      refine touches_after ?_ (noteSat_touches _ _ _) (by decide)
      refine touches_after ?_ (setAcc_touches _ _ _) (by decide)
      exact touches_refl _ _
    · exact touches_refl _ _
  · exact touches_refl _ _

theorem execMacz_touches : ∀ a0 a1 a2 a3,
    ∃ t, execMacz a0 a1 a2 a3 = .next t ∧ Touches (.freeCtr :: .cyc :: .pulses :: .devTimer :: .regs :: .sys :: .log :: .spindles :: .encoders :: .encSince :: .timers :: .ptp :: .adcs :: .comparators :: .demods :: .sectors :: .pairs :: .groups :: .tripPins :: .zonePins :: .plate :: .loops :: .place :: .cores :: .aic :: .dma :: .outbound :: .consoles :: .conJobs :: .pipes :: .streams :: .active :: .mover :: .heads :: .audio :: .keepers :: .sec :: .cvs :: .hosts :: .dict :: .canNode :: .aborts :: .iotlb :: .sbOld :: .tsClaimed :: .mem :: .poison :: .checks :: []) a3 t := by
  intro a0 a1 a2 a3
  unfold execMacz
  refine ⟨_, rfl, ?_⟩
  refine issue_touches (by decide) (fun _ => ?_) ?_
  · refine cop_touches (fun _ => ?_) ?_
    · show Touches _ _ _
      dsimp only [Res.st]
      refine touches_after ?_ (setAcc_touches _ _ _) (by decide)
      exact touches_refl _ _
    · exact touches_refl _ _
  · exact touches_refl _ _

theorem execMacr_touches : ∀ a0 a1 a2,
    ∃ t, execMacr a0 a1 a2 = .next t ∧ Touches (.freeCtr :: .cyc :: .pulses :: .devTimer :: .regs :: .sys :: .log :: .spindles :: .encoders :: .encSince :: .timers :: .ptp :: .adcs :: .comparators :: .demods :: .sectors :: .pairs :: .groups :: .tripPins :: .zonePins :: .plate :: .loops :: .place :: .cores :: .aic :: .dma :: .outbound :: .consoles :: .conJobs :: .pipes :: .streams :: .active :: .mover :: .heads :: .audio :: .keepers :: .sec :: .cvs :: .hosts :: .dict :: .canNode :: .aborts :: .iotlb :: .sbOld :: .tsClaimed :: .mem :: .poison :: .checks :: []) a2 t := by
  intro a0 a1 a2
  unfold execMacr
  refine ⟨_, rfl, ?_⟩
  refine issue_touches (by decide) (fun _ => ?_) ?_
  · refine cop_touches (fun _ => ?_) ?_
    · show Touches _ _ _
      dsimp only [Res.st]
      refine touches_after ?_ (satResult_touches _ _ _ _) (by decide)
      exact touches_refl _ _
    · exact touches_refl _ _
  · exact touches_refl _ _

theorem execMulq_touches : ∀ a0 a1 a2 a3 a4,
    ∃ t, execMulq a0 a1 a2 a3 a4 = .next t ∧ Touches (.freeCtr :: .cyc :: .pulses :: .devTimer :: .regs :: .sys :: .log :: .spindles :: .encoders :: .encSince :: .timers :: .ptp :: .adcs :: .comparators :: .demods :: .sectors :: .pairs :: .groups :: .tripPins :: .zonePins :: .plate :: .loops :: .place :: .cores :: .aic :: .dma :: .outbound :: .consoles :: .conJobs :: .pipes :: .streams :: .active :: .mover :: .heads :: .audio :: .keepers :: .sec :: .cvs :: .hosts :: .dict :: .canNode :: .aborts :: .iotlb :: .sbOld :: .tsClaimed :: .mem :: .poison :: .checks :: []) a4 t := by
  intro a0 a1 a2 a3 a4
  unfold execMulq
  refine ⟨_, rfl, ?_⟩
  refine issue_touches (by decide) (fun _ => ?_) ?_
  · refine cop_touches (fun _ => ?_) ?_
    · show Touches _ _ _
      dsimp only [Res.st]
      refine touches_after ?_ (satResult_touches _ _ _ _) (by decide)
      exact touches_refl _ _
    · exact touches_refl _ _
  · exact touches_refl _ _

theorem execAdds_touches : ∀ a0 a1 a2 a3 a4,
    ∃ t, execAdds a0 a1 a2 a3 a4 = .next t ∧ Touches (.freeCtr :: .cyc :: .pulses :: .devTimer :: .regs :: .sys :: .log :: .spindles :: .encoders :: .encSince :: .timers :: .ptp :: .adcs :: .comparators :: .demods :: .sectors :: .pairs :: .groups :: .tripPins :: .zonePins :: .plate :: .loops :: .place :: .cores :: .aic :: .dma :: .outbound :: .consoles :: .conJobs :: .pipes :: .streams :: .active :: .mover :: .heads :: .audio :: .keepers :: .sec :: .cvs :: .hosts :: .dict :: .canNode :: .aborts :: .iotlb :: .sbOld :: .tsClaimed :: .mem :: .poison :: .checks :: []) a4 t := by
  intro a0 a1 a2 a3 a4
  unfold execAdds
  refine ⟨_, rfl, ?_⟩
  refine issue_touches (by decide) (fun _ => ?_) ?_
  · refine cop_touches (fun _ => ?_) ?_
    · show Touches _ _ _
      dsimp only [Res.st]
      refine touches_after ?_ (satResult_touches _ _ _ _) (by decide)
      exact touches_refl _ _
    · exact touches_refl _ _
  · exact touches_refl _ _

theorem execSubs_touches : ∀ a0 a1 a2 a3 a4,
    ∃ t, execSubs a0 a1 a2 a3 a4 = .next t ∧ Touches (.freeCtr :: .cyc :: .pulses :: .devTimer :: .regs :: .sys :: .log :: .spindles :: .encoders :: .encSince :: .timers :: .ptp :: .adcs :: .comparators :: .demods :: .sectors :: .pairs :: .groups :: .tripPins :: .zonePins :: .plate :: .loops :: .place :: .cores :: .aic :: .dma :: .outbound :: .consoles :: .conJobs :: .pipes :: .streams :: .active :: .mover :: .heads :: .audio :: .keepers :: .sec :: .cvs :: .hosts :: .dict :: .canNode :: .aborts :: .iotlb :: .sbOld :: .tsClaimed :: .mem :: .poison :: .checks :: []) a4 t := by
  intro a0 a1 a2 a3 a4
  unfold execSubs
  refine ⟨_, rfl, ?_⟩
  refine issue_touches (by decide) (fun _ => ?_) ?_
  · refine cop_touches (fun _ => ?_) ?_
    · show Touches _ _ _
      dsimp only [Res.st]
      refine touches_after ?_ (satResult_touches _ _ _ _) (by decide)
      exact touches_refl _ _
    · exact touches_refl _ _
  · exact touches_refl _ _

theorem nearValue_touches : ∀ a0 a1 a2,
    Touches [.freeCtr] a2 (nearValue a0 a1 a2).2 := by
  intro a0 a1 a2
  unfold nearValue
  extract_lets +onlyGivenNames x0
  clear_value x0
  dsimp only
  refine touches_after ?_ (takeFree_touches _ _) (by decide)
  exact touches_refl _ _

theorem nearSin_touches : ∀ a0 a1,
    Touches [.freeCtr] a1 (nearSin a0 a1).2 := by
  intro a0 a1
  unfold nearSin
  extract_lets +onlyGivenNames x0
  refine touches_cut_snd x0 ?_ (fun h0 => ?_)
  · unfold x0
    refine touches_after ?_ (nearValue_touches _ _ _) (by decide)
    exact touches_refl _ _
  clear_value x0
  dsimp only
  assumption

theorem sincosBody_touches : ∀ a0 a1 a2 a3,
    TouchesR [.freeCtr, .cores] a3 (sincosBody a0 a1 a2 a3) := by
  intro a0 a1 a2 a3
  unfold sincosBody
  extract_lets +onlyGivenNames x0
  clear_value x0
  refine touchesR_ite ?_ ?_
  · refine touchesR_after ?_ (reserved_touches _) (by decide)
    exact touches_refl _ _
  · extract_lets +onlyGivenNames x1
    refine touches_cut_ofR x1 (fun p => p.2) ?_ (fun h1 => ?_)
    · unfold x1
      refine touches_after ?_ (nearSin_touches _ _) (by decide)
      exact touches_refl _ _
    clear_value x1
    extract_lets +onlyGivenNames x2
    refine touches_cut_ofR x2 (fun p => p.2) ?_ (fun h2 => ?_)
    · unfold x2
      refine touches_after ?_ (nearSin_touches _ _) (by decide)
      assumption
    clear_value x2
    show Touches _ _ _
    dsimp only [Res.st]
    refine touches_after ?_ (setGreg_touches _ _ _ _) (by decide)
    refine touches_after ?_ (setGreg_touches _ _ _ _) (by decide)
    assumption

theorem execSincos_touches : ∀ a0 a1 a2 a3,
    ∃ t, execSincos a0 a1 a2 a3 = .next t ∧ Touches (.freeCtr :: .cyc :: .pulses :: .devTimer :: .regs :: .sys :: .log :: .spindles :: .encoders :: .encSince :: .timers :: .ptp :: .adcs :: .comparators :: .demods :: .sectors :: .pairs :: .groups :: .tripPins :: .zonePins :: .plate :: .loops :: .place :: .cores :: .aic :: .dma :: .outbound :: .consoles :: .conJobs :: .pipes :: .streams :: .active :: .mover :: .heads :: .audio :: .keepers :: .sec :: .cvs :: .hosts :: .dict :: .canNode :: .aborts :: .iotlb :: .sbOld :: .tsClaimed :: .mem :: .poison :: .checks :: []) a3 t := by
  intro a0 a1 a2 a3
  unfold execSincos
  refine ⟨_, rfl, ?_⟩
  refine issue_touches (by decide) (fun _ => ?_) ?_
  · refine cop_touches (fun _ => ?_) ?_
    · refine touchesR_after ?_ (sincosBody_touches _ _ _ _) (by decide)
      exact touches_refl _ _
    · exact touches_refl _ _
  · exact touches_refl _ _

theorem angleBody_touches : ∀ a0 a1 a2 a3 a4,
    TouchesR [.freeCtr, .cores] a4 (angleBody a0 a1 a2 a3 a4) := by
  intro a0 a1 a2 a3 a4
  unfold angleBody
  extract_lets +onlyGivenNames x0
  clear_value x0
  extract_lets +onlyGivenNames x1
  clear_value x1
  refine touchesR_ite ?_ ?_
  · show Touches _ _ _
    dsimp only [Res.st]
    refine touches_after ?_ (setGreg_touches _ _ _ _) (by decide)
    exact touches_refl _ _
  · extract_lets +onlyGivenNames x2
    refine touches_cut_ofR x2 (fun p => p.2) ?_ (fun h2 => ?_)
    · unfold x2
      refine touches_after ?_ (takeFree_touches _ _) (by decide)
      exact touches_refl _ _
    clear_value x2
    extract_lets +onlyGivenNames x3
    clear_value x3
    show Touches _ _ _
    dsimp only [Res.st]
    refine touches_after ?_ (setGreg_touches _ _ _ _) (by decide)
    assumption

theorem execAngle_touches : ∀ a0 a1 a2 a3 a4,
    ∃ t, execAngle a0 a1 a2 a3 a4 = .next t ∧ Touches (.freeCtr :: .cyc :: .pulses :: .devTimer :: .regs :: .sys :: .log :: .spindles :: .encoders :: .encSince :: .timers :: .ptp :: .adcs :: .comparators :: .demods :: .sectors :: .pairs :: .groups :: .tripPins :: .zonePins :: .plate :: .loops :: .place :: .cores :: .aic :: .dma :: .outbound :: .consoles :: .conJobs :: .pipes :: .streams :: .active :: .mover :: .heads :: .audio :: .keepers :: .sec :: .cvs :: .hosts :: .dict :: .canNode :: .aborts :: .iotlb :: .sbOld :: .tsClaimed :: .mem :: .poison :: .checks :: []) a4 t := by
  intro a0 a1 a2 a3 a4
  unfold execAngle
  refine ⟨_, rfl, ?_⟩
  refine issue_touches (by decide) (fun _ => ?_) ?_
  · refine cop_touches (fun _ => ?_) ?_
    · refine touchesR_after ?_ (angleBody_touches _ _ _ _ _) (by decide)
      exact touches_refl _ _
    · exact touches_refl _ _
  · exact touches_refl _ _

theorem magBody_touches : ∀ a0 a1 a2 a3 a4,
    TouchesR [.freeCtr, .cores] a4 (magBody a0 a1 a2 a3 a4) := by
  intro a0 a1 a2 a3 a4
  unfold magBody
  extract_lets +onlyGivenNames x0
  clear_value x0
  extract_lets +onlyGivenNames x1
  clear_value x1
  extract_lets +onlyGivenNames x2
  clear_value x2
  extract_lets +onlyGivenNames x3
  clear_value x3
  extract_lets +onlyGivenNames x4
  refine touches_cut_ofR x4 (fun p => p.2) ?_ (fun h4 => ?_)
  · unfold x4
    refine touches_after ?_ (nearValue_touches _ _ _) (by decide)
    exact touches_refl _ _
  clear_value x4
  show Touches _ _ _
  dsimp only [Res.st]
  refine touches_after ?_ (setGreg_touches _ _ _ _) (by decide)
  assumption

theorem execMag_touches : ∀ a0 a1 a2 a3 a4,
    ∃ t, execMag a0 a1 a2 a3 a4 = .next t ∧ Touches (.freeCtr :: .cyc :: .pulses :: .devTimer :: .regs :: .sys :: .log :: .spindles :: .encoders :: .encSince :: .timers :: .ptp :: .adcs :: .comparators :: .demods :: .sectors :: .pairs :: .groups :: .tripPins :: .zonePins :: .plate :: .loops :: .place :: .cores :: .aic :: .dma :: .outbound :: .consoles :: .conJobs :: .pipes :: .streams :: .active :: .mover :: .heads :: .audio :: .keepers :: .sec :: .cvs :: .hosts :: .dict :: .canNode :: .aborts :: .iotlb :: .sbOld :: .tsClaimed :: .mem :: .poison :: .checks :: []) a4 t := by
  intro a0 a1 a2 a3 a4
  unfold execMag
  refine ⟨_, rfl, ?_⟩
  refine issue_touches (by decide) (fun _ => ?_) ?_
  · refine cop_touches (fun _ => ?_) ?_
    · refine touchesR_after ?_ (magBody_touches _ _ _ _ _) (by decide)
      exact touches_refl _ _
    · exact touches_refl _ _
  · exact touches_refl _ _

theorem strayLoop_touches : ∀ a0 a1 a2 a3,
    Touches (.freeCtr :: .cyc :: .pulses :: .regs :: .spindles :: .comparators :: .pairs :: .groups :: .plate :: .loops :: .cores :: []) a3 (strayLoop a0 a1 a2 a3) := by
  intro a0 a1 a2 a3
  unfold strayLoop
  extract_lets +onlyGivenNames x0
  clear_value x0
  extract_lets +onlyGivenNames x1
  refine touches_cut x1 ?_ (fun h1 => ?_)
  · unfold x1
    refine touches_ite ?_ ?_
    · refine touches_after ?_ (State.setCtx_touches _ _ _) (by decide)
      exact touches_refl _ _
    · exact touches_refl _ _
  clear_value x1
  extract_lets +onlyGivenNames x2
  refine touches_cut x2 ?_ (fun h2 => ?_)
  · unfold x2
    refine touches_ite ?_ ?_
    · refine touches_after ?_ (spoilLoop_touches _ _) (by decide)
      assumption
    · assumption
  clear_value x2
  refine touches_after ?_ (setGreg_touches _ _ _ _) (by decide)
  refine touches_after ?_ (takeFree_touches _ _) (by decide)
  assumption

theorem lpollBody_touches : ∀ a0 a1 a2 a3,
    TouchesR (.freeCtr :: .cyc :: .pulses :: .regs :: .spindles :: .comparators :: .pairs :: .groups :: .plate :: .loops :: .cores :: []) a3 (lpollBody a0 a1 a2 a3) := by
  intro a0 a1 a2 a3
  unfold lpollBody
  extract_lets +onlyGivenNames x0
  clear_value x0
  refine touchesR_ite ?_ ?_
  · show Touches _ _ _
    dsimp only [Res.st]
    refine touches_after ?_ (strayLoop_touches _ _ _ _) (by decide)
    exact touches_refl _ _
  · split
    · show Touches _ _ _
      dsimp only [Res.st]
      refine touches_after ?_ (setGreg_touches _ _ _ _) (by decide)
      refine touches_after ?_ (takePosted_touches _ _ _) (by decide)
      exact touches_refl _ _
    · show Touches _ _ _
      dsimp only [Res.st]
      exact touches_refl _ _

theorem execLpoll_touches : ∀ a0 a1 a2 a3,
    ∃ t, execLpoll a0 a1 a2 a3 = .next t ∧ Touches (.freeCtr :: .cyc :: .pulses :: .devTimer :: .regs :: .sys :: .log :: .spindles :: .encoders :: .encSince :: .timers :: .ptp :: .adcs :: .comparators :: .demods :: .sectors :: .pairs :: .groups :: .tripPins :: .zonePins :: .plate :: .loops :: .place :: .cores :: .aic :: .dma :: .outbound :: .consoles :: .conJobs :: .pipes :: .streams :: .active :: .mover :: .heads :: .audio :: .keepers :: .sec :: .cvs :: .hosts :: .dict :: .canNode :: .aborts :: .iotlb :: .sbOld :: .tsClaimed :: .mem :: .poison :: .checks :: []) a3 t := by
  intro a0 a1 a2 a3
  unfold execLpoll
  refine ⟨_, rfl, ?_⟩
  refine issue_touches (by decide) (fun _ => ?_) ?_
  · refine cop_touches (fun _ => ?_) ?_
    · refine touchesR_after ?_ (lpollBody_touches _ _ _ _) (by decide)
      exact touches_refl _ _
    · exact touches_refl _ _
  · exact touches_refl _ _

theorem lputBody_touches : ∀ a0 a1 a2 a3,
    TouchesR (.freeCtr :: .cyc :: .pulses :: .regs :: .spindles :: .comparators :: .pairs :: .groups :: .plate :: .loops :: .cores :: []) a3 (lputBody a0 a1 a2 a3) := by
  intro a0 a1 a2 a3
  unfold lputBody
  extract_lets +onlyGivenNames x0
  clear_value x0
  refine touchesR_ite ?_ ?_
  · show Touches _ _ _
    dsimp only [Res.st]
    refine touches_after ?_ (strayLoop_touches _ _ _ _) (by decide)
    exact touches_refl _ _
  · show Touches _ _ _
    dsimp only [Res.st]
    refine touches_after ?_ (lputEff_touches _ _ _) (by decide)
    exact touches_refl _ _

theorem execLput_touches : ∀ a0 a1 a2 a3,
    ∃ t, execLput a0 a1 a2 a3 = .next t ∧ Touches (.freeCtr :: .cyc :: .pulses :: .devTimer :: .regs :: .sys :: .log :: .spindles :: .encoders :: .encSince :: .timers :: .ptp :: .adcs :: .comparators :: .demods :: .sectors :: .pairs :: .groups :: .tripPins :: .zonePins :: .plate :: .loops :: .place :: .cores :: .aic :: .dma :: .outbound :: .consoles :: .conJobs :: .pipes :: .streams :: .active :: .mover :: .heads :: .audio :: .keepers :: .sec :: .cvs :: .hosts :: .dict :: .canNode :: .aborts :: .iotlb :: .sbOld :: .tsClaimed :: .mem :: .poison :: .checks :: []) a3 t := by
  intro a0 a1 a2 a3
  unfold execLput
  refine ⟨_, rfl, ?_⟩
  refine issue_touches (by decide) (fun _ => ?_) ?_
  · refine cop_touches (fun _ => ?_) ?_
    · refine touchesR_after ?_ (lputBody_touches _ _ _ _) (by decide)
      exact touches_refl _ _
    · exact touches_refl _ _
  · exact touches_refl _ _

theorem cp2_touches {F : List Part} {c gd : Nat} {r : State → Word × State} {s t : State} (hF : ∀ p ∈ [.freeCtr, .plate, .cores], p ∈ F)
    (hr : ∀ u, Touches F u (r u).2) (h : Touches F s t) :
    TouchesR F s (cp2 c gd r t) := by
  unfold cp2
  have h1 : Touches F s (plateAdmit t).2 := touches_after h (plateAdmit_touches _) (fun p hp => hF p ((show ∀ p ∈ _, p ∈ _ by decide) p hp))
  split
  · exact touches_after (plateRun_touches (fun p hp => hF p ((show ∀ p ∈ _, p ∈ _ by decide) p hp)) hr h1) (setGreg_touches _ _ _ _) (fun p hp => hF p ((show ∀ p ∈ _, p ∈ _ by decide) p hp))
  · exact h1

theorem pinsBody_touches : ∀ a0 a1 a2 a3 a4,
    TouchesR (.freeCtr :: .cyc :: .pulses :: .devTimer :: .regs :: .shadow :: .sys :: .log :: .spindles :: .encoders :: .encSince :: .timers :: .ptp :: .adcs :: .comparators :: .demods :: .sectors :: .pairs :: .groups :: .tripPins :: .zonePins :: .plate :: .loops :: .place :: .cores :: .aic :: .dma :: .outbound :: .consoles :: .conJobs :: .pipes :: .streams :: .active :: .mover :: .heads :: .audio :: .keepers :: .sec :: .cvs :: .hosts :: .dict :: .canNode :: .cans :: .aborts :: .iotlb :: .sbOld :: .tsClaimed :: .mem :: .poison :: .checks :: []) a4 (pinsBody a0 a1 a2 a3 a4) := by
  intro a0 a1 a2 a3 a4
  unfold pinsBody
  extract_lets +onlyGivenNames x0
  clear_value x0
  refine touchesR_ite ?_ ?_
  · show Touches _ _ _
    dsimp only [Res.st]
    exact touches_refl _ _
  · extract_lets +onlyGivenNames x1
    refine touches_cut_ofR x1 (fun p => p.2) ?_ (fun h1 => ?_)
    · unfold x1
      refine touches_after ?_ (translate_touches _ _ _ _) (by decide)
      exact touches_refl _ _
    clear_value x1
    split
    · show Touches _ _ _
      dsimp only [Res.st]
      assumption
    · refine touchesR_ite ?_ ?_
      · show Touches _ _ _
        dsimp only [Res.st]
        assumption
      · extract_lets +onlyGivenNames x2
        clear_value x2
        extract_lets +onlyGivenNames x3
        unfold x3
        clear x3
        extract_lets +onlyGivenNames x4
        refine touches_cut_ofR x4 (fun p => p.2) ?_ (fun h4 => ?_)
        · unfold x4
          refine touches_after ?_ (readUnit_touches _ _ _) (by decide)
          assumption
        clear_value x4
        split
        · refine cp2_touches (by decide) (fun _ => ?_) ?_
          · refine touches_after ?_ (plateInsertOp_touches _ _ _ _ _ _) (by decide)
            exact touches_refl _ _
          · assumption
        · refine unitFails_touches (by decide) (fun _ _ => ?_) ?_
          · refine cp2_touches (by decide) (fun _ => ?_) ?_
            · refine touches_after ?_ (plateInsertOp_touches _ _ _ _ _ _) (by decide)
              exact touches_refl _ _
            · exact touches_refl _ _
          · assumption

theorem execPins_touches : ∀ a0 a1 a2 a3 a4,
    ∃ t, execPins a0 a1 a2 a3 a4 = .next t ∧ Touches (.freeCtr :: .cyc :: .pulses :: .devTimer :: .regs :: .shadow :: .sys :: .log :: .spindles :: .encoders :: .encSince :: .timers :: .ptp :: .adcs :: .comparators :: .demods :: .sectors :: .pairs :: .groups :: .tripPins :: .zonePins :: .plate :: .loops :: .place :: .cores :: .aic :: .dma :: .outbound :: .consoles :: .conJobs :: .pipes :: .streams :: .active :: .mover :: .heads :: .audio :: .keepers :: .sec :: .cvs :: .hosts :: .dict :: .canNode :: .cans :: .aborts :: .iotlb :: .sbOld :: .tsClaimed :: .mem :: .poison :: .checks :: []) a4 t := by
  intro a0 a1 a2 a3 a4
  unfold execPins
  refine ⟨_, rfl, ?_⟩
  refine issue_touches (by decide) (fun _ => ?_) ?_
  · refine cop_touches (fun _ => ?_) ?_
    · refine touchesR_after ?_ (pinsBody_touches _ _ _ _ _) (by decide)
      exact touches_refl _ _
    · exact touches_refl _ _
  · exact touches_refl _ _

theorem premBody_touches : ∀ a0 a1 a2 a3,
    TouchesR [.freeCtr, .regs, .plate, .cores, .mem, .poison] a3 (premBody a0 a1 a2 a3) := by
  intro a0 a1 a2 a3
  unfold premBody
  refine cp2_touches (by decide) (fun _ => ?_) ?_
  · refine touches_after ?_ (plateRemoveOp_touches _ _) (by decide)
    exact touches_refl _ _
  · exact touches_refl _ _

theorem execPrem_touches : ∀ a0 a1 a2 a3,
    ∃ t, execPrem a0 a1 a2 a3 = .next t ∧ Touches (.freeCtr :: .cyc :: .pulses :: .devTimer :: .regs :: .sys :: .log :: .spindles :: .encoders :: .encSince :: .timers :: .ptp :: .adcs :: .comparators :: .demods :: .sectors :: .pairs :: .groups :: .tripPins :: .zonePins :: .plate :: .loops :: .place :: .cores :: .aic :: .dma :: .outbound :: .consoles :: .conJobs :: .pipes :: .streams :: .active :: .mover :: .heads :: .audio :: .keepers :: .sec :: .cvs :: .hosts :: .dict :: .canNode :: .aborts :: .iotlb :: .sbOld :: .tsClaimed :: .mem :: .poison :: .checks :: []) a3 t := by
  intro a0 a1 a2 a3
  unfold execPrem
  refine ⟨_, rfl, ?_⟩
  refine issue_touches (by decide) (fun _ => ?_) ?_
  · refine cop_touches (fun _ => ?_) ?_
    · refine touchesR_after ?_ (premBody_touches _ _ _ _) (by decide)
      exact touches_refl _ _
    · exact touches_refl _ _
  · exact touches_refl _ _

end Sys2Proof.Machine
end

