-- ==== Sys2Proof/Laws/TouchClock.lean ====
section
/-! SUPPORT. Which parts of the state the definitions of Machine/Clock.lean touch: one lemma for each, the proofs written by a
script from their shape. -/

namespace Sys2Proof.Machine

theorem ptpTick_touches : ∀ a0 a1,
    Touches [.ptp] a1 (ptpTick a0 a1) := by
  intro a0 a1
  unfold ptpTick
  extract_lets +onlyGivenNames x0
  clear_value x0
  extract_lets +onlyGivenNames x1
  clear_value x1
  extract_lets +onlyGivenNames x2
  clear_value x2
  refine touches_after ?_ (touch_ptp _) (by decide)
  exact touches_refl _ _

theorem fclkTick_touches : ∀ a0,
    Touches (.freeCtr :: .cyc :: .pulses :: .devTimer :: .regs :: .spindles :: .timers :: .ptp :: .comparators :: .pairs :: .groups :: .plate :: .loops :: .aic :: []) a0 (fclkTick a0) := by
  intro a0
  unfold fclkTick
  extract_lets +onlyGivenNames x0
  refine touches_cut x0 ?_ (fun h0 => ?_)
  · unfold x0
    refine touches_after ?_ (touch_devTimer _) (by decide)
    exact touches_refl _ _
  clear_value x0
  extract_lets +onlyGivenNames x1
  refine touches_cut x1 ?_ (fun h1 => ?_)
  · unfold x1
    refine touches_forEach (fun _ _ _ => ?_) ?_
    · refine touches_after ?_ (spoilPartition_touches _ _) (by decide)
      assumption
    · refine touches_forEach (fun _ _ _ => ?_) ?_
      · refine touches_after ?_ (timerTick_touches _ _) (by decide)
        assumption
      · assumption
  clear_value x1
  extract_lets +onlyGivenNames x2
  refine touches_cut x2 ?_ (fun h2 => ?_)
  · unfold x2
    refine touches_after ?_ (loopsTick_touches _) (by decide)
    refine touches_forEach (fun _ _ _ => ?_) ?_
    · refine touches_after ?_ (spindleTick_touches _ _) (by decide)
      assumption
    · refine touches_forEach (fun _ _ _ => ?_) ?_
      · refine touches_after ?_ (ptpTick_touches _ _) (by decide)
        assumption
      · assumption
  clear_value x2
  refine touches_after ?_ (aicTick_touches _) (by decide)
  refine touches_after ?_ (pinsTick_touches _) (by decide)
  refine touches_after ?_ (dacRampTick_touches _) (by decide)
  refine touches_forEach (fun _ _ _ => ?_) ?_
  · refine touches_after ?_ (carrierTick_touches _ _) (by decide)
    assumption
  · assumption

theorem sclkTick_touches : ∀ a0,
    Touches [.regs, .sys] a0 (sclkTick a0) := by
  intro a0
  unfold sclkTick
  refine touches_ite ?_ ?_
  · exact touches_refl _ _
  · extract_lets +onlyGivenNames x0
    clear_value x0
    refine touches_ite ?_ ?_
    · refine touches_after ?_ (touch_sys _ (by rfl)) (by decide)
      exact touches_refl _ _
    · refine touches_after ?_ (sclkEdge_touches _) (by decide)
      refine touches_after ?_ (touch_sys _ (by rfl)) (by decide)
      exact touches_refl _ _

theorem tick_touches : ∀ a0,
    Touches (.freeCtr :: .cyc :: .pulses :: .now :: .devTimer :: .regs :: .sys :: .spindles :: .timers :: .ptp :: .comparators :: .pairs :: .groups :: .plate :: .loops :: .aic :: []) a0 (tick a0) := by
  intro a0
  unfold tick
  extract_lets +onlyGivenNames x0
  refine touches_cut x0 ?_ (fun h0 => ?_)
  · unfold x0
    refine touches_after ?_ (touch_cyc_now _) (by decide)
    exact touches_refl _ _
  clear_value x0
  refine touches_after ?_ (sclkTick_touches _) (by decide)
  refine touches_ite ?_ ?_
  · refine touches_after ?_ (fclkTick_touches _) (by decide)
    assumption
  · assumption

end Sys2Proof.Machine
end

