-- ==== Sys2Proof/Laws/TouchSupplies.lean ====
section
/-! SUPPORT. Which parts of the state the definitions of Machine/Supplies.lean touch: one lemma for each, the proofs written by a
script from their shape. -/

namespace Sys2Proof.Machine

theorem vddaLost_touches : ∀ a0,
    Touches (.freeCtr :: .cyc :: .regs :: .sys :: .log :: .spindles :: .pairs :: .groups :: .dma :: .outbound :: .hosts :: .canNode :: []) a0 (vddaLost a0) := by
  intro a0
  unfold vddaLost
  extract_lets +onlyGivenNames x0
  extract_lets +onlyGivenNames x1
  refine touches_cut x1 ?_ (fun h1 => ?_)
  · unfold x1
    refine touches_forEach (fun _ _ _ => ?_) ?_
    · refine touches_ite ?_ ?_
      · refine touches_after ?_ (portReset_touches _ _ _) (by decide)
        assumption
      · assumption
    · refine touches_after ?_ (touch_sys _ (by rfl)) (by decide)
      exact touches_refl _ _
  clear_value x1
  extract_lets +onlyGivenNames x2
  refine touches_cut x2 ?_ (fun h2 => ?_)
  · unfold x2
    refine touches_ite ?_ ?_
    · refine touches_forEach (fun _ _ _ => ?_) ?_
      · refine touches_ite ?_ ?_
        · refine touches_after ?_ (linkTo_touches _ _ _) (by decide)
          assumption
        · assumption
      · refine touches_after ?_ (unitPllLost_touches _ _) (by decide)
        refine touches_after ?_ (unitPllLost_touches _ _) (by decide)
        refine touches_after ?_ (unitPllLost_touches _ _) (by decide)
        refine touches_after ?_ (unitPllLost_touches _ _) (by decide)
        assumption
    · assumption
  clear_value x2
  refine touches_after ?_ (fclkLostEff_touches _) (by decide)
  assumption

theorem supplyLost_touches : ∀ a0 a1,
    Touches (.freeCtr :: .cyc :: .pulses :: .regs :: .sys :: .log :: .spindles :: .timers :: .ptp :: .adcs :: .channels :: .comparators :: .demods :: .sectors :: .pairs :: .groups :: .tripPins :: .zonePins :: .plate :: .loops :: .place :: .cores :: .aic :: .dma :: .dmaLast :: .outbound :: .posted :: .consoles :: .conJobs :: .pipes :: .streams :: .liveLines :: .active :: .mover :: .heads :: .audio :: .bankSupply :: .keepers :: .sec :: .cvs :: .hosts :: .dict :: .canNode :: .cans :: .macs :: .iotlb :: .sbOld :: .trainTries :: .refreshFast :: .dramTemp :: .macQueues :: .mem :: .poison :: .checks :: []) a1 (supplyLost a0 a1) := by
  intro a0 a1
  unfold supplyLost
  split
  · refine touches_after ?_ (bankLost_touches _ _) (by decide)
    exact touches_refl _ _
  · refine touches_after ?_ (touch_sys _ (by rfl)) (by decide)
    exact touches_refl _ _
  · refine touches_after ?_ (vddaLost_touches _) (by decide)
    exact touches_refl _ _
  · refine touches_after ?_ (coreDomainReset_touches _) (by decide)
    refine touches_after ?_ (touch_sys _ (by rfl)) (by decide)
    exact touches_refl _ _
  · refine touches_after ?_ (touch_sys _ (by rfl)) (by decide)
    exact touches_refl _ _

theorem supplyReturn_touches : ∀ a0 a1 a2 a3,
    Touches (.cyc :: .regs :: .sys :: .spindles :: .encoders :: .encSince :: .pairs :: .tripPins :: .zonePins :: .bankSupply :: []) a3 (supplyReturn a0 a1 a2 a3) := by
  intro a0 a1 a2 a3
  unfold supplyReturn
  extract_lets +onlyGivenNames x0
  clear_value x0
  split
  · refine touches_ite ?_ ?_
    · refine touches_after ?_ (bankReturn_touches _ _ _ _) (by decide)
      exact touches_refl _ _
    · refine touches_after ?_ (setSupply_touches _ _ _) (by decide)
      exact touches_refl _ _
  · refine touches_after ?_ (touch_sys _ (by rfl)) (by decide)
    exact touches_refl _ _
  · refine touches_after ?_ (touch_sys _ (by rfl)) (by decide)
    exact touches_refl _ _
  · refine touches_after ?_ (touch_sys _ (by rfl)) (by decide)
    exact touches_refl _ _
  · refine touches_after ?_ (touch_sys _ (by rfl)) (by decide)
    exact touches_refl _ _

theorem execBankSupplyLost_touches : ∀ a0 a1,
    ∃ t, execBankSupplyLost a0 a1 = .next t ∧ Touches (.freeCtr :: .cyc :: .pulses :: .regs :: .sys :: .log :: .spindles :: .timers :: .ptp :: .adcs :: .channels :: .comparators :: .demods :: .sectors :: .pairs :: .groups :: .tripPins :: .zonePins :: .plate :: .loops :: .place :: .cores :: .aic :: .dma :: .dmaLast :: .outbound :: .posted :: .consoles :: .conJobs :: .pipes :: .streams :: .liveLines :: .active :: .mover :: .heads :: .audio :: .bankSupply :: .keepers :: .sec :: .cvs :: .hosts :: .dict :: .canNode :: .cans :: .macs :: .iotlb :: .sbOld :: .trainTries :: .refreshFast :: .dramTemp :: .macQueues :: .mem :: .poison :: .checks :: []) a1 t := by
  intro a0 a1
  unfold execBankSupplyLost
  refine ⟨_, rfl, ?_⟩
  refine touches_ite ?_ ?_
  · refine touches_after ?_ (supplyLost_touches _ _) (by decide)
    exact touches_refl _ _
  · exact touches_refl _ _

theorem execBankSupplyReturn_touches : ∀ a0 a1 a2 a3,
    ∃ t, execBankSupplyReturn a0 a1 a2 a3 = .next t ∧ Touches (.cyc :: .regs :: .sys :: .spindles :: .encoders :: .encSince :: .pairs :: .tripPins :: .zonePins :: .bankSupply :: []) a3 t := by
  intro a0 a1 a2 a3
  unfold execBankSupplyReturn
  refine ⟨_, rfl, ?_⟩
  refine touches_ite ?_ ?_
  · refine touches_after ?_ (supplyReturn_touches _ _ _ _) (by decide)
    exact touches_refl _ _
  · exact touches_refl _ _

end Sys2Proof.Machine
end

