-- ==== Sys2Proof/Laws/Trip.lean ====
section
/-! SUPPORT. What refreshing a trip zone does: its level follows its inputs, and beside the zone only deferral counts, the
status of armed groups and their pairs may change (R169, R171). -/

namespace Sys2Proof.Machine

variable {s : State}

/-- A register outside the interrupt groups' status words and the groups' status words of the PWM block. -/
abbrev farFromTrips (a : Nat) : Prop :=
  (a < Reg.AIC_GRP_STAT 0 ∨ Reg.AIC_GRP_STAT 128 ≤ a) ∧ ∀ g < 24, a ≠ Reg.PWM_GRP_STATUS g

theorem reg_pwmEvent {g a : Nat} {bits : Word} (hg : g < 24) (h : farFromTrips a) : (pwmEvent g bits s).reg a = s.reg a :=
  reg_raiseStatus_out (h.2 g hg) h.1

theorem reg_setPair (k : Nat) (p : PwmPair) (a : Nat) : (s.setPair k p).reg a = s.reg a := rfl
theorem reg_setGroup (k : Nat) (p : PwmGroup) (a : Nat) : (s.setGroup k p).reg a = s.reg a := rfl

theorem reg_tripGroup {g a : Nat} (hg : g < 24) (h : farFromTrips a) : (tripGroup g s).reg a = s.reg a := by
  unfold tripGroup
  split
  · rw [reg_pwmEvent hg h]
    exact forEach_same (fun u => u.reg a) fun k _ u => rfl
  · rfl

/-- Trips of the groups of a zone's sector. -/
theorem reg_tripGroups {z a : Nat} (hz : z < 48) (h : farFromTrips a) (b : Nat → State → Bool) (u : State) :
    (forEach ((List.range 4).map (4 * (z / 8) + ·)) (fun g s => if b g s then tripGroup g s else s) u).reg a =
      u.reg a := by
  refine forEach_same (fun u => u.reg a) fun g hg u => ?_
  obtain ⟨i, hi, rfl⟩ := List.mem_map.1 hg
  rw [List.mem_range] at hi
  split
  · exact reg_tripGroup (by omega) h
  · rfl

/-- The zone's assertion, one condition at a time: the status word `w` is written, the source may become pending. -/
theorem reg_noteUnless {src a : Nat} (h : farFromTrips a) (b : Prop) [Decidable b] (u : State) :
    (if b then u else noteDeferred src u).reg a = u.reg a := by
  split
  · rfl
  · exact reg_noteDeferred h.1

/-- A zone's refresh changes its own status word, and registers that no trip input reads. -/
theorem reg_zoneRefresh {f : Bool} {z a : Nat} (hz : z < 48) (h : farFromTrips a) (n : a ≠ Reg.TZ_STATUS z) :
    (zoneRefresh f z s).reg a = s.reg a := by
  unfold zoneRefresh
  extract_lets a0 now old latch w s1 s2 gs
  have e2 : s2.reg a = s1.reg a := reg_noteUnless h _ s1
  have e1 : s1.reg a = s.reg a := State.reg_setReg_ne _ n _
  clear_value s2 s1
  split
  · exact (reg_tripGroups hz h (fun g s => s.groupSelects g z || s.globalTrip) s2).trans (e2.trans e1)
  · exact State.reg_setBit_ne _ n _ _

theorem farFromTrips_TZ_STATUS {z : Nat} (h : z < 48) : farFromTrips (Reg.TZ_STATUS z) :=
  ⟨by simp only [Reg.TZ_STATUS, Reg.AIC_GRP_STAT]; omega, fun g hg => by
    simp only [Reg.TZ_STATUS, Reg.PWM_GRP_STATUS]; omega⟩

/-- The zone's level is the OR of its inputs, a forced assertion among them (R169, R184). -/
theorem bit_zoneRefresh {f : Bool} {z : Nat} (h : z < 48) :
    (zoneRefresh f z s).bit (Reg.TZ_STATUS z) 31 = (s.zoneInput z || (f && s.zoneEnabled z)) := by
  have far := farFromTrips_TZ_STATUS h
  unfold zoneRefresh
  extract_lets a0 now old latch w s1 s2 gs
  have e2 : s2.reg (Reg.TZ_STATUS z) = s1.reg (Reg.TZ_STATUS z) := reg_noteUnless far _ s1
  have e1 : s1.reg (Reg.TZ_STATUS z) = if latch then withBit w 30 true else w := State.reg_setReg_same _ _ _
  have ew : bitAt (if latch then withBit w 30 true else w) 31 = true := by
    have : bitAt w 31 = true := bitAt_withBit_same _ (by decide) _
    split
    · rw [bitAt_withBit_ne _ (by decide), this]
    · exact this
  have en : now = (s.zoneInput z || (f && s.zoneEnabled z)) := rfl
  clear_value s2 s1 now
  rw [← en]
  split
  · next hn =>
    rw [bit_def, reg_tripGroups h far (fun g s => s.groupSelects g z || s.globalTrip) s2, e2, e1, ew, hn]
  · next hn =>
    rw [bit_def, State.reg_setBit_same, bitAt_withBit_same _ (by decide)]
    simpa using hn

/-! ### What the zones' inputs read -/

/-- Two states in which every trip input reads the same. -/
structure SameInputs (s t : State) : Prop where
  comparators : t.comparators = s.comparators
  pins : t.tripPins = s.tripPins
  filtered : t.zonePins = s.zonePins
  wire : t.tripAll = s.tripAll
  ctl : ∀ z < 48, t.reg (Reg.TZ_CTL z) = s.reg (Reg.TZ_CTL z)
  cmp : ∀ k < 6, ∀ i < 12, t.reg (Reg.CMP_CTL k i) = s.reg (Reg.CMP_CTL k i)
  gtrip : t.reg Reg.PWM_GTRIP = s.reg Reg.PWM_GTRIP

theorem SameInputs.refl : SameInputs s s := ⟨rfl, rfl, rfl, rfl, fun _ _ => rfl, fun _ _ _ _ => rfl, rfl⟩

theorem SameInputs.trans {t u : State} (h : SameInputs s t) (k : SameInputs t u) : SameInputs s u :=
  ⟨k.1.trans h.1, k.2.trans h.2, k.3.trans h.3, k.4.trans h.4, fun z hz => (k.5 z hz).trans (h.5 z hz),
    fun a ha i hi => (k.6 a ha i hi).trans (h.6 a ha i hi), k.7.trans h.7⟩

theorem zoneInput_same {t : State} (h : SameInputs s t) {z : Nat} (hz : z < 48) : t.zoneInput z = s.zoneInput z := by
  have e1 : t.zoneEnabled z = s.zoneEnabled z := bit_of_reg (h.ctl z hz) _
  have e2 : t.zonePin z = s.zonePin z := by
    unfold State.zonePin State.pinAt
    rw [fld_of_reg (h.ctl z hz), fld_of_reg (h.ctl z hz), h.pins, h.filtered]
  have e3 : t.globalTrip = s.globalTrip := by
    unfold State.globalTrip
    rw [bit_of_reg h.gtrip, bit_of_reg h.gtrip, h.wire]
  have e4 : t.zoneComparator z = s.zoneComparator z := by
    unfold State.zoneComparator State.comparator
    rw [h.comparators]
    have : ∀ i ∈ List.range 12, t.bit (Reg.CMP_CTL (z / 8) i) (8 + z % 8) = s.bit (Reg.CMP_CTL (z / 8) i) (8 + z % 8) :=
      fun i hi => bit_of_reg (h.cmp (z / 8) (by omega) i (List.mem_range.1 hi)) _
    rw [Bool.eq_iff_iff, List.any_eq_true, List.any_eq_true]
    constructor
    · rintro ⟨i, hi, e⟩
      exact ⟨i, hi, by rw [this i hi] at e; exact e⟩
    · rintro ⟨i, hi, e⟩
      exact ⟨i, hi, by rw [this i hi]; exact e⟩
  unfold State.zoneInput
  rw [e1, e2, e3, e4]

theorem sameInputs_zoneRefresh {f : Bool} {z : Nat} (hz : z < 48) : SameInputs s (zoneRefresh f z s) := by
  have t := zoneRefresh_touches f z s
  have far : ∀ a, a < 0x500000 ∧ 0x300000 ≤ a ∨ 0x518000 ≤ a ∧ a < 0x600000 → farFromTrips a := fun a h =>
    ⟨by simp only [Reg.AIC_GRP_STAT]; omega, fun g hg => by simp only [Reg.PWM_GRP_STATUS]; omega⟩
  refine ⟨t .comparators (by decide), t .tripPins (by decide), t .zonePins (by decide), t .tripAll (by decide),
    fun y hy => ?_, fun k hk i hi => ?_, ?_⟩
  · refine reg_zoneRefresh hz (far _ ?_) ?_ <;> simp only [Reg.TZ_CTL, Reg.TZ_STATUS] <;> omega
  · refine reg_zoneRefresh hz (far _ ?_) ?_ <;> simp only [Reg.CMP_CTL, Reg.TZ_STATUS] <;> omega
  · refine reg_zoneRefresh hz (far _ ?_) ?_ <;> simp only [Reg.PWM_GTRIP, Reg.TZ_STATUS] <;> omega

theorem sameInputs_refreshes {zs : List Nat} (h : ∀ z ∈ zs, z < 48) : SameInputs s (forEach zs (zoneRefresh false) s) :=
  forEach_keeps (P := SameInputs s) (fun z hz _ k => k.trans (sameInputs_zoneRefresh (h z hz))) SameInputs.refl

theorem reg_refreshes {zs : List Nat} (h : ∀ z ∈ zs, z < 48) {a : Nat} (far : farFromTrips a)
    (n : ∀ z ∈ zs, a ≠ Reg.TZ_STATUS z) : (forEach zs (zoneRefresh false) s).reg a = s.reg a :=
  forEach_same (fun u => u.reg a) fun z hz _ => reg_zoneRefresh (h z hz) far (n z hz)

/-- After a refresh of several zones each of them shows the OR of its inputs. -/
theorem bit_refreshes {zs : List Nat} (h : ∀ z ∈ zs, z < 48) {z : Nat} (m : z ∈ zs) :
    (forEach zs (zoneRefresh false) s).bit (Reg.TZ_STATUS z) 31 = s.zoneInput z := by
  induction zs generalizing s with
  | nil => simp at m
  | cons y r ih =>
    have hy : y < 48 := h y List.mem_cons_self
    have hr : ∀ z ∈ r, z < 48 := fun z hz => h z (List.mem_cons_of_mem _ hz)
    rw [forEach_cons]
    by_cases e : z ∈ r
    · rw [ih hr e, zoneInput_same (sameInputs_zoneRefresh hy) (hr z e)]
    · obtain rfl : z = y := by simpa [e] using m
      rw [bit_def, reg_refreshes hr (farFromTrips_TZ_STATUS hy) (fun y hy' c => e (by
        simp only [Reg.TZ_STATUS] at c
        rwa [show z = y by omega])), ← bit_def, bit_zoneRefresh hy]
      simp

/-- The eight zones of a sector, refreshed: each shows the OR of its inputs. -/
theorem bit_zonesRefresh {z : Nat} (h : z < 48) : (zonesRefresh (z / 8) s).bit (Reg.TZ_STATUS z) 31 = s.zoneInput z :=
  bit_refreshes (fun y hy => by obtain ⟨i, hi, rfl⟩ := List.mem_map.1 hy; rw [List.mem_range] at hi; omega)
    (List.mem_map.2 ⟨z % 8, List.mem_range.2 (by omega), by omega⟩)

theorem reg_zonesRefresh {k a : Nat} (hk : k < 6) (far : farFromTrips a)
    (n : ∀ i < 8, a ≠ Reg.TZ_STATUS (8 * k + i)) : (zonesRefresh k s).reg a = s.reg a :=
  reg_refreshes (fun y hy => by obtain ⟨i, hi, rfl⟩ := List.mem_map.1 hy; rw [List.mem_range] at hi; omega) far
    (fun y hy => by obtain ⟨i, hi, rfl⟩ := List.mem_map.1 hy; exact n i (List.mem_range.1 hi))

theorem sameInputs_zonesRefresh {k : Nat} (hk : k < 6) : SameInputs s (zonesRefresh k s) :=
  sameInputs_refreshes fun y hy => by obtain ⟨i, hi, rfl⟩ := List.mem_map.1 hy; rw [List.mem_range] at hi; omega

/-- Every zone of the sectors that are present and powered, refreshed. -/
theorem sectors_lt {k : Nat} (h : k ∈ (List.range (sectorCount s.sys.variant)).filter fun k => s.sys.sectorIslands.getLsbD k) :
    k < 6 := by
  have h1 := List.mem_range.1 (List.mem_filter.1 h).1
  have h2 : sectorCount s.sys.variant ≤ 6 := by cases s.sys.variant <;> decide
  omega

theorem sameInputs_sectors {ks : List Nat} (h : ∀ k ∈ ks, k < 6) : SameInputs s (forEach ks zonesRefresh s) :=
  forEach_keeps (P := SameInputs s) (fun k hk _ e => e.trans (sameInputs_zonesRefresh (h k hk))) SameInputs.refl

theorem bit_sectors {ks : List Nat} (h : ∀ k ∈ ks, k < 6) {z : Nat} (m : z / 8 ∈ ks) :
    (forEach ks zonesRefresh s).bit (Reg.TZ_STATUS z) 31 = s.zoneInput z := by
  induction ks generalizing s with
  | nil => simp at m
  | cons k r ih =>
    have hk : k < 6 := h k List.mem_cons_self
    have hr : ∀ x ∈ r, x < 6 := fun x hx => h x (List.mem_cons_of_mem _ hx)
    have hz : z < 48 := by have := h _ m; omega
    rw [forEach_cons]
    by_cases e : z / 8 ∈ r
    · rw [ih hr e, zoneInput_same (sameInputs_zonesRefresh hk) hz]
    · obtain rfl : z / 8 = k := by simpa [e] using m
      have n : ∀ x ∈ r, ∀ i < 8, Reg.TZ_STATUS z ≠ Reg.TZ_STATUS (8 * x + i) := fun x hx i hi c => e (by
        simp only [Reg.TZ_STATUS] at c
        rwa [show z / 8 = x by omega])
      rw [bit_def, forEach_same (fun u => u.reg (Reg.TZ_STATUS z)) fun x hx u =>
        reg_zonesRefresh (hr x hx) (farFromTrips_TZ_STATUS hz) (n x hx), ← bit_def, bit_zonesRefresh hz]

theorem bit_allZonesRefresh {z : Nat} (h : z / 8 < sectorCount s.sys.variant)
    (on : s.sys.sectorIslands.getLsbD (z / 8) = true) :
    (allZonesRefresh s).bit (Reg.TZ_STATUS z) 31 = s.zoneInput z :=
  bit_sectors (fun _ hk => sectors_lt hk) (List.mem_filter.2 ⟨List.mem_range.2 h, on⟩)

theorem reg_allZonesRefresh {a : Nat} (far : farFromTrips a) (n : ∀ z < 48, a ≠ Reg.TZ_STATUS z) :
    (allZonesRefresh s).reg a = s.reg a :=
  forEach_same (fun u => u.reg a) fun k hk _ => reg_zonesRefresh (sectors_lt hk) far fun i hi => n _ (by
    have := sectors_lt hk
    omega)

end Sys2Proof.Machine
end

