-- ==== Sys2Proof/Tests/Slice0.lean ====
section
/-! SUPPORT. Tests: the checks of WellFormed, single steps with results that the spec prints, and for each statement with
hypotheses a state and operands that meet them, claim by claim. -/

namespace Sys2Proof.Tests

open Sys2Proof Sys2Proof.Machine

/-! ### Small states -/

/-- A VL8860 whose tailstock firmware runs, with FCLK locked and every island on; core 0 is released at the start of its
TCM, as supervisor, with its stack at the top of it. -/
def live : State :=
  { (((State.reset.setReg Reg.GCTL_CORE_REL 1).setReg Reg.MC_STATUS 0x80000000).setReg Reg.MC_SIZE 4) with
    sys := { powerGood := true, phase := .firmware, fclk := true, audioPll := true, videoPll0 := true, videoPll1 := true
             dramPll := true, coreIslands := 0xFFFF, sectorIslands := 0x3F, mediaIsland := true, ddr := true, pwmBanks := 0x3F }
    cores := [(0, { g := [(30, 0x10040000)], cr := [(crSTATUS, 1)], pc := 0x10000000, npc := 0x10000004 })] }

theorem live_runs (k : Shape) : Claim.canRun live 0 k := ⟨by decide, ⟨⟨_, rfl⟩, by unfold Claim.twofold; decide, by decide⟩, by cases k <;> decide⟩
theorem live_frame : Claim.frameRoom live 0 0x40000 := by unfold Claim.frameRoom; decide

/-- Pins 0 to n - 1 carry function 1, their bank supplied. -/
def pinned (n : Nat) : State :=
  forEach (List.range n) (fun i s => s.setFld (Reg.PIN_CFG i) 31 29 1) { live with bankSupply := 2 }

/-- Partition 3 runs on hole 0, streamed, with entry 0 linked there and due. -/
def plated : State :=
  { ((((live.setBit Reg.PLATE_CTRL 31 true).setReg (Reg.PLATE_PART_MAP 3) 0x80000000).setFld
      (Reg.PLATE_PART_STATUS 3) 31 30 1).setBit (Reg.PLATE_PART_RES 3) 31 true) with
    plate := { entries := [(0, { kind := .linked, order := 1 })]
               due := [{ idx := 0, part := 3, cycle := 0, path := 0, order := 0 }] } }

/-- Loop context 0 is enabled and runs. -/
def looping : State :=
  (((live.setBit (Reg.LOOP_CTL 0) 31 true).setFld (Reg.LOOP_STATUS 0) 31 29 1).setBit (Reg.LOOP_START 0) 31 true)

/-- A software loop in context 0 whose inputs are posted. -/
def looping4 : State :=
  (looping.setReg (Reg.LOOP_CTL 0) 0xC0000000).setCtx 0 { stage := .posted }

/-- The carrier of PWM group 0 runs with the shortest period. -/
def carried : State := (live.setReg (Reg.PWM_GRP_CTL 0) 0x80000000).setReg (Reg.PWM_PER 0) 2048

/-- A loop declared in DRAM tolerance class 3, one page. -/
def dramDecl : PlDecl := { req := 3, w := [0x80000000, 1, 0, 0x80000003] }

/-- The placement unit at an operation on loop 0, which is admitted. -/
def moving (op : Nat) (m : Option PlMove) : State :=
  { live with place :=
      { ops := [{ req := reqIdx .tailstock, op := op, handle := 0x20000 }], move := m
        admitted := [{ kind := 2, key := 0, owner := 0, w := [] }] } }

/-- Core 0 at its loop-back instruction, and with a CWR in its shadow. -/
def looped : State := live.setCore 0 { live.core 0 with cr := [(crSTATUS, 9)] }
def shadowed : State := live.setCore 0 { live.core 0 with shadow := [⟨4, crESTK, 0⟩] }
theorem looped_runs : Claim.canRun looped 0 .plain := ⟨by decide, ⟨⟨_, rfl⟩, by unfold Claim.twofold; decide, by decide⟩, by decide⟩
theorem shadowed_runs : Claim.canRun shadowed 0 .plain := ⟨by decide, ⟨⟨_, rfl⟩, by unfold Claim.twofold; decide, by decide⟩, by decide⟩

/-- Core 0 with g1 at its TCM, g2 at the device region and g3 where nothing stands; and with a store of the first word
of its TCM, or of its fourth byte, in the store buffer. -/
def pointing : State := live.setCore 0 { live.core 0 with g := [(1, 0x10000000), (2, 0x80000000), (3, 0x0FFF0000)] }
def buffered : State := pointing.setCore 0
  { pointing.core 0 with sb := [{ cells := cellsFrom 0x20000000 [1, 2, 3, 4], mtype := .uncached, va := 0x10000000 }] }
def buffered1 : State := pointing.setCore 0
  { pointing.core 0 with sb := [{ cells := cellsFrom 0x20000003 [7], mtype := .uncached, va := 0x10000003 }] }
theorem pointing_runs : Claim.canRun pointing 0 .plain := ⟨by decide, ⟨⟨_, rfl⟩, by unfold Claim.twofold; decide, by decide⟩, by decide⟩
theorem buffered_runs : Claim.canRun buffered 0 .plain := ⟨by decide, ⟨⟨_, rfl⟩, by unfold Claim.twofold; decide, by decide⟩, by decide⟩
theorem buffered1_runs : Claim.canRun buffered1 0 .plain := ⟨by decide, ⟨⟨_, rfl⟩, by unfold Claim.twofold; decide, by decide⟩, by decide⟩
theorem looping4_runs : Claim.canRun looping4 0 .plain := ⟨by decide, ⟨⟨_, rfl⟩, by unfold Claim.twofold; decide, by decide⟩, by decide⟩

/-- DMA channel 0 in its descriptor, from core 0's TCM to core 1's; and paced, from a peripheral word. -/
def bursting (w0 w1 src : Word) : State :=
  ((((live.setBit Reg.DMA_ENG_CTL 31 true).setBit (Reg.DMA_CH_CTL 0) 31 true).setFld (Reg.DMA_CH_STATUS 0) 31 29 1).setBit
    (Reg.IOMMU_ST_CTL 0) 31 true).setDmaCh 0 { desc := [w0, w1, src, 0, 0x20100000, 0] }
def fromPeripheral : State :=
  (bursting 4 0xC0100000 0x80000000).setFld (Reg.DMA_CH_PACE 0) 22 16 1

/-- Pipe 0 has latched a line of context 0, whose raster is legal. -/
def job : ConJob :=
  { ctx := 0, raster := 0, line := 0, latch := 0, deadline := 10, frame := 0, forced := false, marked := false
    regs := List.replicate 18 0, table := [] }
def jobbed : State :=
  { (((((live.setBit Reg.CON_GLB_CTL 31 true).setReg (Reg.CON_SIZE 0) 0x00010008).setReg (Reg.CON_FRAME 0) 25000000).setReg
      (Reg.CON_TOTAL 0) 0x00020018)) with pipes := [(0, some job)] }

/-- The mover at the only row of a FILL of one pixel in core 0's TCM; the audio engine on; both links up with bank 31 as
the mailbox's; a dictionary request of port A; a command at the front of a check unit's queue. -/
def oneByte : List Word := [0x10000000, 0x20000000]
def rowing : State :=
  { (((live.setBit Reg.MV_CTL 31 true).setFld Reg.MV_STATUS 31 29 1).setBit (Reg.IOMMU_ST_CTL 81) 31 true) with
    mover := { job := some (0, oneByte) } }
def sounding : State := ((live.setBit Reg.AUD_CTL 31 true).setBit (Reg.AUD_BUS_CTL 0) 31 true)
def linked : State :=
  ((live.setBit (Reg.HP_LINK 0) 31 true).setBit (Reg.HP_LINK 1) 31 true).setReg (Reg.SB_CTL 31) 0x40000000
def asking (cmd : Word) : State :=
  { linked with dict := { queue := [{ who := 0, cmd := cmd, off := 0, len := 4, buf := 0 }] } }
def checking (k : Nat) : State := { live.setFld (Reg.CV_CTL 0) 6 0 3 with cvs := [(0, { queue := [(k, 0, 0)] })] }

/-! ### Every check of WellFormed refuses an ill-formed command -/

theorem test_word_off_alignment : (Instr.registerWrite .tailstock 2 .word 0).wellFormed = false := by decide
theorem test_half_off_alignment : (Instr.registerWrite .tailstock 1 .half 0).wellFormed = false := by decide
theorem test_byte_anywhere : (Instr.registerWrite .tailstock 3 .byte 0).wellFormed = true := by decide
theorem test_low_word_off_alignment : (Instr.lowWordRead .tailstock 6).wellFormed = false := by decide
theorem test_bar0_off_alignment : (Instr.bar0Request .a 1 (.read 1)).wellFormed = false := by decide
theorem test_bar0_of_nothing : (Instr.bar0Request .a 0 (.read 0)).wellFormed = false := by decide
theorem test_bar0_empty_write : (Instr.bar0Request .a 0 (.write [])).wellFormed = false := by decide
theorem test_bar2_off_alignment : (Instr.bar2Access .a 2 .read none).wellFormed = false := by decide
theorem test_image_too_long : (Instr.imageWrite 0 false 0 (List.replicate 2049 0) false).wellFormed = false := by decide +kernel
theorem test_datagram_too_long :
    (Instr.horanoDatagram 0 0 0 0 false (List.replicate 1045 0)).wellFormed = false := by decide +kernel
theorem test_frame_too_long : (Instr.canFrameReceive 0 none false 0 (List.replicate 65 0)).wellFormed = false := by decide
theorem test_node_out_of_range :
    (Instr.nmtStart 128).wellFormed = false ∧ (Instr.nmtStop 128).wellFormed = false ∧
    (Instr.nmtPreOperational 128).wellFormed = false ∧ (Instr.nmtResetNode 128).wellFormed = false ∧
    (Instr.nmtResetCommunication 128).wellFormed = false := by decide
theorem test_registers_alike :
    (Instr.xfer 0 1 1 2).wellFormed = false ∧ (Instr.crcb 0 0 1 2).wellFormed = false := by decide
theorem test_odd_pair : (Instr.sincos 0 3 1).wellFormed = false := by decide
theorem test_no_such_level :
    (Instr.loop 0 3 1 4).wellFormed = false ∧ (Instr.loopi 0 3 1 4).wellFormed = false := by decide
theorem test_empty_loop :
    (Instr.loop 0 0 1 0).wellFormed = false ∧ (Instr.loopi 0 0 1 0).wellFormed = false := by decide

/-! ### One step each, with results that the spec prints or that are worked out by hand -/

/-- The state after a command. -/
def after (c : Instr) (s : State) : State :=
  match exec c s with
  | .next t => t
  | _ => s

/-- `live` with general registers of core 0. -/
def with2 (a b : Word) : State := live.setCore 0 { live.core 0 with g := [(1, 0xAABBCCDD), (2, a), (3, b)] }

theorem test_add_wraps : (after (.add 0 1 2 3) (with2 0xFFFFFFFF 2)).greg 0 1 = 1 := by decide
theorem test_g0_discards : (after (.add 0 0 2 3) (with2 0xFFFFFFFF 2)).greg 0 0 = 0 := by decide
theorem test_lt_is_signed : (after (.lt 0 1 2 3) (with2 0xFFFFFFFF 0)).greg 0 1 = 1 := by decide
theorem test_clz_of_zero : (after (.clz 0 1 2) (with2 0 0)).greg 0 1 = 32 := by decide
/-- The examples below R223: a byte reversal, a low half-word, and two halves joined. -/
theorem test_perm_reverses : (after (.perm 0 1 2 0x0123) (with2 0x11223344 0)).greg 0 1 = 0x44332211 := by decide
theorem test_perm_half : (after (.perm 0 1 2 0x8810) (with2 0x11223344 0)).greg 0 1 = 0x00003344 := by decide
theorem test_perm_joins : (after (.perm 0 1 2 0x5410) (with2 0x11223344 0)).greg 0 1 = 0xCCDD3344 := by decide
/-- The worked example below R229: 0xCBF43926 before the final inversion. -/
def checked : State :=
  (live.setCore 0 { live.core 0 with
    g := [(5, 0xFFFFFFFF), (6, 0x10000000), (7, 9)], cr := [(crSTATUS, 1), (crCRCCFG, 0x120), (crCRCPOLY, 0x04C11DB7)] }).putBytes
    0x20000000 [0x31, 0x32, 0x33, 0x34, 0x35, 0x36, 0x37, 0x38, 0x39]
theorem test_crcb_example : ~~~((after (.crcb 0 5 6 7) checked).greg 0 5) = 0xCBF43926 := by decide +kernel
theorem test_crcb_advances :
    (after (.crcb 0 5 6 7) checked).greg 0 6 = 0x10000009 ∧ (after (.crcb 0 5 6 7) checked).greg 0 7 = 0 := by decide +kernel
/-- The example below R451: 0x00400040 to GPIO_OUT_M of bank 4 sets GPIO_70 and nothing else. -/
theorem test_masked_write :
    (after (.registerWrite .tailstock 0xF00484 .word 0x00400040) (live.setReg (Reg.GPIO_OUT 4) 0x8001)).reg (Reg.GPIO_OUT 4) =
      0x8041 := by decide +kernel
/-- The example of R22: core 5's TCM, and its own view of it. -/
theorem test_core_view : live.region (some 5) 0x10000000 = (.tcm 5, 0x20500000) := by decide
theorem test_first_in_first_out :
    (match step { live with pending := [.clz 0 1 2, .wait 0] } with
     | .next t => t.pending
     | _ => []) = [.wait 0] := by decide
theorem test_chuck_goes_to_first : (after (.chkAcquire 0 [.portB, .portA]) live).answered .portA = 0x80000001 := by decide
theorem test_encoder_counts_up :
    ((after (.encoderEdge 0 true false) (((pinned 2).setReg (Reg.SPN_CTRL 0) 0x80000000).setFld (Reg.SPN_STATUS 0) 31 29 2)).spn
      0).count = 1 := by decide +kernel
theorem test_no_row_has_bits : decodeTableWord 32 0 = none := rfl
theorem test_chuck_of_its_owner :
    (after (.chkAcquire 0 [.portA]) (after (.chkAcquire 0 [.portA]) live)).answered .portA = 0xC0000001 := by decide
theorem test_chuck_of_another :
    (after (.chkAcquire 0 [.portB]) (after (.chkAcquire 0 [.portA]) live)).answered .portB = 1 := by decide
theorem test_word_pins : wordCommand 0 0x000629FC = .pins 0 7 5 6 := by decide
theorem test_word_bfx : wordCommand 0 0x00073A4A = .bfx 0 9 7 false 0 7 := by decide
theorem test_word_reserved : wordCommand 3 0x00000030 = .reservedInstruction 3 0x30 := by decide

/-! ### What meets the hypotheses of each statement -/

theorem witness_StepRunsTheFront :
    ∃ (c : Instr) (r : List Instr) (s : State), s.pending = c :: r :=
  ⟨.wait 0, [], { live with pending := [.wait 0] }, rfl⟩

theorem witness_EmptyQueueIsOneCycle :
    ∃ (s : State), s.pending = [] :=
  ⟨live, by decide⟩

theorem witness_MemoryKeepsItsForm :
    ∃ (s : State) (t : State), Memory.wf s.mem ∧ tabWf (fun _ => (0xFF : Byte)) s.nor = true ∧ step s = .next t :=
  ⟨live, _, ⟨rfl, rfl, rfl⟩⟩

theorem witness_PlateKeepsItsForm :
    ∃ (s : State) (t : State), Claim.plateInv s ∧ step s = Host.Outcome.next t :=
  ⟨live, _, ⟨by unfold Claim.plateInv; decide, rfl⟩⟩

theorem witness_PromisesOfEveryCommand :
    ∃ (c : Instr) (s : State) (t : State), exec c s = Host.Outcome.next t :=
  ⟨.wait 0, live, _, rfl⟩

theorem witness_ChuckTies :
    ∃ (n : Fin 256) (qs : List Requester) (q : Requester) (k : Nat) (s : State), s.sys.powerGood = true ∧
      qs.Nodup ∧ q ∈ qs ∧ Claim.ownerCode q = some k ∧ (∀ r ∈ qs, r ≠ q → Claim.servedBefore n.val q r) ∧
      s.fld (Reg.CHK_OWNER n.val) 5 0 = 0 :=
  ⟨0, [.portA, .core 3, .tailstock], .tailstock, 3, live, by unfold Claim.servedBefore; decide⟩

theorem witness_ChuckResultWord :
    ∃ (s : State), s.sys.powerGood = true :=
  ⟨live, by decide⟩

theorem witness_LeadingZeros :
    ∃ (c : Fin 17) (s : State), Claim.canRun s c.val Shape.plain :=
  ⟨0, live, live_runs _⟩

theorem witness_SpindleEvents :
    (∃ (n : Fin 154) (s : State), s.spnPresent n.val = true ∧ s.aborting 2 n.val = false) ∧
    (∃ (n : Fin 154) (v : Word) (s : State), s.spnPresent n.val = true ∧ s.aborting 2 n.val = false ∧
      Claim.legal s n.val (withBit v 31 true) ∧ s.spnState n.val = 0 ∧ s.isHall n.val = true ∧
      (hallPlace (s.levels (s.spnSel n.val))).isSome = true) ∧
    (∃ (k : Fin 32) (s : State), s.fclkOn = true ∧ s.inputLive (3 * k.val) 1 = true ∧
      s.inputLive (3 * k.val + 1) 1 = true ∧ s.levels k.val < 8) ∧
    (∃ (k : Fin 32) (code : Fin 8) (s : State), s.fclkOn = true ∧ s.inputLive (3 * k.val) 1 = true ∧
      s.inputLive (3 * k.val + 1) 1 = true ∧ s.inputLive (3 * k.val + 2) 1 = true ∧ s.levels k.val ≠ code.val) ∧
    (∃ (k : Fin 32) (s : State), s.fclkOn = true ∧ s.inputLive (3 * k.val + 2) 1 = true) ∧
    (∃ (n : Fin 154) (s : State), s.spnPresent n.val = true) :=
  ⟨⟨0, live, by decide⟩,
    ⟨0, 0x10000, { live.setFld (Reg.SPN_SRC 0) 28 26 1 with encoders := [(0, 5)] }, by unfold Claim.legal; decide⟩,
    ⟨0, pinned 2, by decide⟩,
    ⟨0, 5, pinned 3, by decide⟩,
    ⟨0, pinned 3, by decide⟩,
    ⟨0, live, by decide⟩⟩

theorem witness_SpindleSources :
    (∃ (s : State), s.fclkOn = true) ∧
    (∃ (n : Fin 154) (s : State), s.spnPresent n.val = true) ∧
    (∃ (n : Fin 154) (v : Word) (s : State), s.spnPresent n.val = true ∧ (s.spnEnabled n.val = false ∨
      s.spnState n.val = 0 ∨ s.spnState n.val = 6 ∨
      fieldOf (s.reg (Reg.SPN_SRC n.val)) 28 26 = fieldOf ((s.reg (Reg.SPN_SRC n.val) &&& ~~~if n.val < 64 then
      469762559 else if n.val < 72 then 511 else if n.val < 138 then 0 else 469762048) ||| v &&& if n.val < 64 then
      469762559 else if n.val < 72 then 511 else if n.val < 138 then 0 else 469762048) 28 26 ∧
      s.counts n.val = false)) ∧
    (∃ (n : Fin 154) (s : State), s.fclkOn = true ∧ isFree n.val = true) ∧
    (∃ (n : Fin 154) (s : State), s.spnPresent n.val = true ∧ isFree n.val = true) :=
  ⟨⟨live, by decide⟩,
    ⟨0, live, by decide⟩,
    ⟨0, 0, live, by decide⟩,
    ⟨138, live, by decide⟩,
    ⟨138, live, by decide⟩⟩

theorem witness_ComparesAndTimers :
    (∃ (n : Fin 154) (s : State), s.spnPresent n.val = true ∧ Claim.legal s n.val (s.reg (Reg.SPN_CTRL n.val))) ∧
    (∃ (n : Fin 154) (i : Fin 4) (v : Word) (s : State), s.spnPresent n.val = true ∧
      Claim.legal s n.val (s.reg (Reg.SPN_CTRL n.val)) ∧
      Claim.legal (s.setReg (Reg.SPN_CMP_CTL n.val i.val) (v &&& 4211081216 ||| s.reg (Reg.SPN_CMP_CTL n.val i.val)
      &&& 67108864)) n.val (s.reg (Reg.SPN_CTRL n.val))) ∧
    (∃ (s : State), s.fclkOn = true) ∧
    (∃ (n : Fin 154) (v : Word) (s : State), s.spnPresent n.val = true ∧
      Claim.legal s n.val (s.reg (Reg.SPN_CTRL n.val)) ∧
      Claim.legal (s.setReg (Reg.SPN_CAP_CTL n.val) (v &&& 268374015)) n.val (s.reg (Reg.SPN_CTRL n.val))) :=
  ⟨⟨0, live, by unfold Claim.legal; decide⟩,
    ⟨0, 0, 0, live, by unfold Claim.legal; decide⟩,
    ⟨live, by decide⟩,
    ⟨0, 0, live, by unfold Claim.legal; decide⟩⟩

theorem witness_PlateOperations :
    (∃ (q : Requester) (s : State) (n : Nat), Claim.plateServes s ∧ s.partOf (s.stagedHole q) = some n ∧
      s.fld (Reg.PLATE_PART_STATUS n) 31 30 = 1 ∧ Claim.whole s (s.stagedHole q) ∧
      Claim.holeCount s (s.stagedHole q) < 2047 ∧ (s.bit (Reg.PLATE_PART_RES n) 31 = true ∨
      s.fld (Reg.PLATE_PART_COUNT n) 21 0 < s.fld (Reg.PLATE_PART_NEAR n) 18 0) ∧ Claim.someFree s ∧
      ({ w0 := s.staged q 0, w1 := s.staged q 1, w2 := s.staged q 2, w3 := s.staged q 3 &&& 4292870144,
              hole := s.stagedHole q } : PlateEntry).dir ≠ 3 ∧
      ({ w0 := s.staged q 0, w1 := s.staged q 1, w2 := s.staged q 2, w3 := s.staged q 3 &&& 4292870144,
              hole := s.stagedHole q } : PlateEntry).latePolicy ≠ 3 ∧ (s.holeNear n (s.stagedHole q) = false ∨
      s.isLate n
      ({ w0 := s.staged q 0, w1 := s.staged q 1, w2 := s.staged q 2, w3 := s.staged q 3 &&& 4292870144,
              hole := s.stagedHole q } : PlateEntry) = false)) ∧
    (∃ (s : State), Claim.admits s) ∧
    (∃ (q : Requester) (s : State) (c : Instr), s.plateOn = true ∧
      64 ≤ (List.filter (fun t => decide (s.now < t + 12)) s.plate.ops).length ∧
      c ∈ [Instr.plateInsert q, Instr.plateRemove q, Instr.plateAlloc q, Instr.plateWrite q,
      Instr.plateRelease q, Instr.plateFetch q, Instr.plateProbe q]) ∧
    (∃ (s : State), s.dramOn = true ∧ Claim.plateInv s) :=
  ⟨⟨.tailstock, plated, 3,
      by unfold Claim.whole Claim.plateServes Claim.plateInv Claim.admits Claim.someFree; decide⟩,
    ⟨live, by unfold Claim.admits; decide⟩,
    ⟨.tailstock, { live with plate := { ops := List.replicate 64 0 } }, .plateInsert .tailstock, by decide⟩,
    ⟨live, by unfold Claim.plateInv; decide⟩⟩

theorem witness_PlateEvents :
    (∃ (i : Fin 2097152) (s : State) (n : Nat), s.dramOn = true ∧ s.partOf (s.entry i.val).hole = some n) ∧
    (∃ (s : State) (d : DueEntry), Claim.mayFire s ∧ s.plate.chain = none ∧ s.plate.due ≠ [] ∧ Claim.plateInv s ∧
      d ∈ s.plate.due ∧ (∀ x ∈ s.plate.due, x ≠ d → s.firesBefore d x = true) ∧
      (∀ x ∈ s.plate.due, x.part < 154) ∧ actionListed (s.entry d.idx) = true ∧
      ((s.entry d.idx).kind = EntryKind.linked ∨ (s.entry d.idx).kind = EntryKind.leaving)) ∧
    (∃ (s : State), s.plateOn = true) ∧
    (∃ (s : State), s.dramOn = true) ∧
    (∃ (part : Fin 154) (target : Word) (data : Word) (s : State) (c : Instr), s.dramOn = true ∧
      (BitVec.toNat (target &&& 268435452) / 1048576 = 2 ∨ BitVec.toNat (target &&& 268435452) / 1048576 = 18) ∧
      c ∈ [Instr.mwrite part target data, Instr.radd part target data]) :=
  ⟨⟨0, plated, 3, by decide⟩,
    ⟨plated, { idx := 0, part := 3, cycle := 0, path := 0, order := 0 },
      by unfold Claim.plateInv Claim.mayFire; decide⟩,
    ⟨live, by decide⟩,
    ⟨live, by decide⟩,
    ⟨0, 0x200000, 0, live, .mwrite 0 0x200000 0, by decide⟩⟩

theorem witness_PlateHoles :
    (∃ (n : Fin 154) (s : State), s.dispatchOn = true ∧ s.bit (Reg.PLATE_PART_RES n.val) 31 = true ∧
      s.fld (Reg.PLATE_PART_STATUS n.val) 31 30 = 1) ∧
    (∃ (n : Fin 154) (s : State), (s.bit (Reg.PLATE_PART_RES n.val) 31 = false ∨
      s.fld (Reg.PLATE_PART_STATUS n.val) 31 30 ≠ 1 ∨ s.bit Reg.PLATE_CTRL 31 = false)) ∧
    (∃ (s : State), s.dispatchOn = true) ∧
    (∃ (s : State), s.dramOn = true ∧ Claim.plateInv s) ∧
    (∃ (s : State), s.plateOn = true) ∧
    (∃ (s : State), s.dramOn = true) ∧
    (∃ (n : Fin 154) (s : State), s.plateOn = true ∧ s.aborting 3 n.val = false) :=
  ⟨⟨3, plated, by decide⟩,
    ⟨0, live, by decide⟩,
    ⟨plated, by decide⟩,
    ⟨plated, by unfold Claim.plateInv; decide⟩,
    ⟨live, by decide⟩,
    ⟨live, by decide⟩,
    ⟨0, live, by decide⟩⟩

theorem witness_Conversions :
    (∃ (target : Word), fieldOf target 4 0 < 24) ∧
    (∃ (n : Fin 24) (s : State), s.sectorOn (n.val / 4) = true ∧ (s.adc n.val).running = true ∧
      (s.adc n.val).held < 2 ^ fieldOf (s.adc n.val).word 30 29) ∧
    (∃ (n : Fin 24) (s : State), s.sectorOn (n.val / 4) = true ∧ (s.adc n.val).running = true ∧
      (s.adc n.val).held = 2 ^ fieldOf (s.adc n.val).word 30 29) ∧
    (∃ (ch : Fin 384) (s : State), s.sectorOn (ch.val / 64) = true) ∧
    (∃ (k : Fin 6) (s : State), s.sectorOn k.val = true) ∧
    (∃ (n : Fin 24) (s : State), s.sectorOn (n.val / 4) = true) :=
  ⟨⟨0, by decide⟩,
    ⟨0, live.setAdc 0 { running := true, word := 0x40000000, held := 3 }, by decide⟩,
    ⟨0, live.setAdc 0 { running := true, word := 0x40000000, held := 4 }, by decide⟩,
    ⟨0, live, by decide⟩,
    ⟨0, live, by decide⟩,
    ⟨0, live, by decide⟩⟩

theorem witness_ComparatorsAndDemodulators :
    (∃ (k : Fin 72) (s : State), s.sectorOn (k.val / 12) = true) ∧
    (∃ (j : Fin 48) (s : State), s.sectorOn (j.val / 8) = true ∧
      bitAt (s.reg (Reg.SD_CTL (j.val / 8) (j.val % 8))) 31 = true ∧
      (bitAt (s.reg (Reg.SD_CTL (j.val / 8) (j.val % 8))) 30 = true ∨ s.inputLive (2 * j.val + 1) 3 = true) ∧
      (s.demod j.val).clkLost = false ∧ 16 ≤ fieldOf (s.reg (Reg.SD_CTL (j.val / 8) (j.val % 8))) 28 20 ∧
      fieldOf (s.reg (Reg.SD_CTL (j.val / 8) (j.val % 8))) 28 20 ≤ 256 ∧
      fieldOf (s.reg (Reg.SD_CTL (j.val / 8) (j.val % 8))) 19 15 ≤ 24 ∧
      (bitAt (s.reg (Reg.SD_CTL (j.val / 8) (j.val % 8))) 30 = true → 60 ≤ s.fld (Reg.SD_CLK (j.val / 8) (j.val %
      8)) 8 0) ∧ ((s.demod j.val).used = none ∨
      (s.demod j.val).used = some (s.reg (Reg.SD_CTL (j.val / 8) (j.val % 8))))) ∧
    (∃ (j : Fin 48) (s : State), s.sectorOn (j.val / 8) = true) ∧
    (∃ (j : Fin 48) (s : State), s.sectorOn (j.val / 8) = true ∧
      s.bit (Reg.SD_CTL (j.val / 8) (j.val % 8)) 31 = true) ∧
    (∃ (k : Fin 6) (s : State), s.sectorOn k.val = true) ∧
    (∃ (k : Fin 6) (s : State), s.sectorOn k.val = true ∧ (s.sector k.val).foreground = none ∧
      s.fld (Reg.AFE_CAL_STATUS k.val) 31 30 = 1) ∧
    (∃ (k : Fin 6) (s : State) (c : Nat) (n : Nat), s.sectorOn k.val = true ∧
      (s.sector k.val).foreground = some c ∧ s.adcOfConv k.val c = some n ∧ (s.adc n).running = false ∧
      s.fld (Reg.AFE_CAL_STATUS k.val) 31 30 = 1) ∧
    (∃ (k : Fin 6) (s : State) (a : Nat), s.sectorOn k.val = true ∧ s.fld (Reg.AFE_CAL_STATUS k.val) 31 30 = 2 ∧
      a < 3 ∧ (∀ i < 4, (s.adc (4 * k.val + i)).conv < 4) ∧
      (∀ b < 3, b ≠ a → (s.sector k.val).calAge.getD (s.adc (4 * k.val + a)).conv 0 < (s.sector k.val).calAge.getD
      (s.adc (4 * k.val + b)).conv 0 ∨ (s.sector k.val).calAge.getD (s.adc (4 * k.val + a)).conv 0 = (s.sector
      k.val).calAge.getD (s.adc (4 * k.val + b)).conv 0 ∧
      (s.adc (4 * k.val + a)).conv < (s.adc (4 * k.val + b)).conv)) ∧
    (∃ (k : Fin 6) (s : State), s.sectorOn k.val = true ∧ s.fld (Reg.AFE_CAL_STATUS k.val) 31 30 = 2) :=
  ⟨⟨0, live, by decide⟩,
    ⟨0, live.setReg (Reg.SD_CTL 0 0) 0xC1000000, by decide⟩,
    ⟨0, live, by decide⟩,
    ⟨0, live.setBit (Reg.SD_CTL 0 0) 31 true, by decide⟩,
    ⟨0, live, by decide⟩,
    ⟨0, live.setFld (Reg.AFE_CAL_STATUS 0) 31 30 1, by decide⟩,
    ⟨0,
      ((live.setFld (Reg.AFE_CAL_STATUS 0) 31 30 1).setSector 0 { foreground := some 1 }).setAdc 1 { conv := 1 }, 1, 1, by decide⟩,
    ⟨0, ((live.setFld (Reg.AFE_CAL_STATUS 0) 31 30 2).setAdc 1 { conv := 1 }).setAdc 2 { conv := 2 }, 0, by decide⟩,
    ⟨0, live.setFld (Reg.AFE_CAL_STATUS 0) 31 30 2, by decide⟩⟩

theorem witness_LoopUpdates :
    (∃ (k : Fin 384) (s : State) (c : Instr), s.loopOn k.val = true ∧ s.loopMisused k.val = true ∧
      c ∈ [Instr.loopStartEvent k, Instr.loopIssue k, Instr.predictedRunDone k, Instr.sampleConfirm k,
      Instr.recomputeDone k, Instr.settleDone k, Instr.sampleTimeout k, Instr.stateRebuild k]) ∧
    (∃ (k : Fin 384) (s : State), Claim.loopServes s k.val) ∧
    (∃ (k : Fin 384) (s : State) (st : Word × Nat), Claim.loopServes s k.val ∧ Claim.ready s k.val st ∧
      Claim.mayIssue s k.val st ∧ s.issueFault k.val ≠ 0) ∧
    (∃ (k : Fin 384) (s : State) (us : List Word) (ds : List (Nat × Nat)), Claim.loopServes s k.val ∧
      (s.ctx k.val).stage = LoopStage.waiting ∧ s.awaitedInputs k.val ≠ [] ∧ s.arrived k.val = true ∧
      (∀ i ∈ s.awaitedInputs k.val, s.inFault k.val i = 0) ∧ (s.ctx k.val).predicted = true ∧
      (s.ctx k.val).pend = some (us, ds) ∧ us.length ≤ 4 ∧ (∀ d ∈ ds, d.1 / 4 < 96) ∧ s.loopType k.val ≠ 4 ∧
      s.loopPredictor k.val ≠ 0) ∧
    (∃ (k : Fin 384) (s : State), Claim.loopServes s k.val ∧ s.bit (Reg.LOOP_CTL k.val) 31 = true ∧
      (s.fld (Reg.LOOP_STATUS k.val) 31 29 = 1 ∨ s.fld (Reg.LOOP_STATUS k.val) 31 29 = 2)) ∧
    (∃ (k : Fin 384) (s : State), s.loopOn k.val = true ∧ s.aborting 0 k.val = false) :=
  ⟨⟨0, (looping.setCtx 0 { spoiled := true }), .loopIssue 0, by decide⟩,
    ⟨0, live, by unfold Claim.loopServes; decide⟩,
    ⟨0, (looping.setReg (Reg.LOOP_ANGLE 0) 0x81000000).setCtx 0 { queued := [(0, 0)] }, (0, 0),
      by unfold Claim.loopServes Claim.mayIssue Claim.ready; decide⟩,
    ⟨0,
      (((looping.setFld (Reg.LOOP_CTL 0) 27 26 1).setReg (Reg.LOOP_IN 0 0) 0x80000000).setReg (Reg.CH_VALUE 0 0) 0x80000000).setCtx 0 { stage := .waiting, predicted := true, pend := some ([1], [(95, 0)]) }, [1], [(95, 0)], by unfold Claim.loopServes; decide⟩,
    ⟨0, ((live.setFld (Reg.LOOP_CTL 0) 31 31 1).setFld (Reg.LOOP_STATUS 0) 31 29 1),
      by unfold Claim.loopServes; decide⟩,
    ⟨0, live, by decide⟩⟩

theorem witness_Carriers :
    (∃ (g : Fin 24) (s : State), s.carrierRuns g.val = true) ∧
    (∃ (g : Fin 24) (s : State), Claim.carrierServes s g.val ∧ s.carrierMode g.val < 2 ∧
      s.fld (Reg.PWM_SYNC g.val) 31 30 = 3) ∧
    (∃ (g : Fin 24) (s : State), Claim.carrierServes s g.val ∧ s.carrierMode g.val = 2 ∧
      fieldOf (s.grpCtl g.val) 15 0 ≠ 0) ∧
    (∃ (g : Fin 24) (s : State), Claim.carrierServes s g.val) ∧
    (∃ (k : Fin 96) (x : PwmSide) (s : State), Claim.edgesFlow s k.val ∧
      ((s.pair k.val).side x).opening = Slot.owed ∧ s.activeCompare k.val x ≠ 0) ∧
    (∃ (k : Fin 96) (x : PwmSide) (s : State), Claim.edgesFlow s k.val ∧
      ((s.pair k.val).side x).closing = Slot.owed ∧ s.activeCompare k.val x < s.per32 (k.val / 4)) ∧
    (∃ (k : Fin 96) (s : State), Claim.carrierServes s (k.val / 4) ∧ (s.pair k.val).late = none) ∧
    (∃ (k : Fin 96) (s : State), Claim.carrierServes s (k.val / 4)) ∧
    (∃ (k : Fin 96) (s : State), s.sectorOn (k.val / 16) = true) ∧
    (∃ (k : Fin 96) (v : Word) (s : State), s.carrierRuns (k.val / 4) = true ∧ Claim.quietZones s (k.val / 16) ∧
      s.fld (Reg.PWM_PAIR_CTL (k.val / 4) (k.val % 4)) 29 28 = 3 ∧ s.loopOwns k.val PwmSide.a = false ∧
      s.centred (k.val / 4) = false ∧ s.indep k.val = true ∧ s.modulating k.val = true ∧
      (s.pair k.val).a.closing = Slot.owed ∧ fieldOf v 23 0 < s.per32 (k.val / 4) ∧
      (fieldOf v 23 0).cast < s.pairPos k.val + 64 ∧ ((s.activeCompare k.val PwmSide.a).cast < s.pairPos k.val ∨
      s.pairPos k.val + 64 ≤ (s.activeCompare k.val PwmSide.a).cast)) ∧
    (∃ (target : Word) (s : State), fieldOf target 6 0 < 96 ∧ s.sectorOn (fieldOf target 6 0 / 16) = true ∧
      s.groupMisused (fieldOf target 6 0 / 4) = false) :=
  ⟨⟨0, carried, by decide⟩,
    ⟨0, carried.setFld (Reg.PWM_SYNC 0) 31 30 3, by unfold Claim.carrierServes; decide⟩,
    ⟨0, carried.setReg (Reg.PWM_GRP_CTL 0) 0xC0000001, by unfold Claim.carrierServes; decide⟩,
    ⟨0, carried, by unfold Claim.carrierServes; decide⟩,
    ⟨0, .a, carried.setReg (Reg.PWM_CMPA_ACT 0 0) 1,
      by unfold Claim.edgesFlow Claim.carrierServes Claim.quietZones; decide⟩,
    ⟨0, .a, carried, by unfold Claim.edgesFlow Claim.carrierServes Claim.quietZones; decide⟩,
    ⟨0, carried, by unfold Claim.carrierServes; decide⟩,
    ⟨0, carried, by unfold Claim.carrierServes; decide⟩,
    ⟨0, live, by decide⟩,
    ⟨0, 63, (carried.setReg (Reg.PWM_PAIR_CTL 0 0) 0xB0000000).setReg (Reg.PWM_CMPA_ACT 0 0) 1000,
      by unfold Claim.quietZones; decide⟩,
    ⟨0, live, by decide⟩⟩

theorem witness_TripsAndArming :
    (∃ (z : Fin 48) (s : State), s.sectorOn (z.val / 8) = true) ∧
    (∃ (k : Fin 96) (s : State), s.sectorOn (k.val / 16) = true) ∧
    (∃ (g : Fin 24) (s : State), s.sectorOn (g.val / 4) = true) ∧
    (∃ (g : Fin 24) (s : State), s.fclkOn = true ∧ s.sensorAlarm = false ∧ s.pwmState g.val = 0) ∧
    (∃ (g : Fin 24) (s : State), s.sectorOn (g.val / 4) = true ∧ s.pwmState g.val ≠ 3 ∧ s.aborting 1 g.val = false) :=
  ⟨⟨0, live, by decide⟩,
    ⟨0, live, by decide⟩,
    ⟨0, live, by decide⟩,
    ⟨0, live, by decide⟩,
    ⟨0, live, by decide⟩⟩

theorem witness_PlacementAdmission :
    (∃ (s : State), s.fclkOn = true) ∧
    (∃ (q : Requester) (o : PlOp) (rest : List PlOp) (s : State), s.fclkOn = true ∧ s.place.ops = o :: rest ∧
      s.place.move = none ∧ o.req = reqIdx q ∧ o.op = 1) ∧
    (∃ (q : Requester) (d : PlDecl) (rest : List PlOp) (s : State), s.fclkOn = true ∧
      s.place.ops = { req := reqIdx q, op := 1, decls := [d] } :: rest ∧ s.place.move = none ∧ d.kind = 4 ∧
      bitAt (d.word 3) 31 = true ∧ fieldOf (d.word 3) 2 0 = 3 ∧ 0 < fieldOf (d.word 1) 23 0 * 4096) ∧
    (∃ (q : Requester) (o : PlOp) (rest : List PlOp) (s : State), s.fclkOn = true ∧ s.place.ops = o :: rest ∧
      s.place.move = none ∧ o.req = reqIdx q ∧ o.op = 2) ∧
    (∃ (s : State), (s.place.ops = [] ∨ s.place.move ≠ none)) ∧
    (∃ (q : Requester) (o : PlOp) (rest : List PlOp) (a : Admitted) (s : State), s.fclkOn = true ∧
      s.place.ops = o :: rest ∧ s.place.move = none ∧ o.req = reqIdx q ∧ o.op = 3 ∧ Claim.plNames s o.handle a ∧
      (q = Requester.tailstock ∨ (if q = Requester.portB then 1 else reqIdx q) = a.owner)) ∧
    (∃ (s : State) (m : PlMove), s.fclkOn = true ∧ s.place.move = some m ∧ m.old ≠ m.new ∧ m.old < 384 ∧
      m.new < 384) ∧
    (∃ (s : State) (m : PlMove) (q : Requester) (o : PlOp) (rest : List PlOp), s.fclkOn = true ∧
      s.place.move = some m ∧ s.place.ops = o :: rest ∧ o.req = reqIdx q ∧ m.old ≠ m.new ∧ m.old < 384 ∧
      m.new < 384) ∧
    (∃ (s : State) (m : PlMove) (q : Requester) (o : PlOp) (rest : List PlOp) (a : Admitted), s.fclkOn = true ∧
      s.place.move = some m ∧ s.place.ops = o :: rest ∧ o.req = reqIdx q ∧ m.old ≠ m.new ∧ m.old < 384 ∧
      m.new < 384 ∧ (List.find? (fun x => decide (x.kind = 2 ∧ x.key = m.key)) s.place.admitted = some a)) :=
  ⟨⟨live, by decide⟩,
    ⟨.tailstock, _, _, { live with place := { ops := [{ req := reqIdx .tailstock, op := 1 }] } },
      ⟨rfl, rfl, rfl, rfl, rfl⟩⟩,
    ⟨.tailstock, dramDecl, [],
      { live with place := { ops := [{ req := reqIdx .tailstock, op := 1, decls := [dramDecl] }] } }, by decide⟩,
    ⟨.tailstock, _, _, { live with place := { ops := [{ req := reqIdx .tailstock, op := 2 }] } },
      ⟨rfl, rfl, rfl, rfl, rfl⟩⟩,
    ⟨live, by decide⟩,
    ⟨.tailstock, _, _, _, moving 3 none, ⟨rfl, rfl, rfl, rfl, rfl, rfl, .inl rfl⟩⟩,
    ⟨moving 1 (some { key := 0, old := 0, new := 383 }), { key := 0, old := 0, new := 383 }, by decide⟩,
    ⟨moving 1 (some { key := 0, old := 0, new := 383 }), { key := 0, old := 0, new := 383 }, .tailstock, _, _,
      ⟨rfl, rfl, rfl, rfl, by decide, by decide, by decide⟩⟩,
    ⟨moving 1 (some { key := 0, old := 0, new := 383 }), { key := 0, old := 0, new := 383 }, .tailstock, _, _, _,
      ⟨rfl, rfl, rfl, rfl, by decide, by decide, by decide, rfl⟩⟩⟩

theorem witness_CoreMemoryCompletes :
    ∃ (c : Fin 17) (ga : Fin 32) (o : Nat) (s : State), Claim.canRun s c.val Shape.plain ∧
      s.translating c.val = false ∧ (s.core c.val).sb = [] ∧ s.poison = [] ∧
      BitVec.toNat (s.greg c.val ga.val) = 268435456 + o ∧ o % 16 = 0 ∧ o + 16 ≤ Claim.localSize c.val ∧
      Claim.quiet s c.val :=
  ⟨0, 1, 0, pointing,
    ⟨pointing_runs, by decide, rfl, rfl, by decide, by decide, by decide, by unfold Claim.quiet; decide⟩⟩

theorem witness_PlateAndSamplingComplete :
    (∃ (s : State), Claim.plateServes s) ∧
    (∃ (s : State), (∀ m < 6, s.sectorOn m = true)) :=
  ⟨⟨live, by unfold Claim.plateServes Claim.plateInv Claim.admits; decide⟩,
    ⟨live, by decide⟩⟩

theorem witness_LoopsAndPwmComplete :
    (∃ (k : Fin 384) (s : State), Claim.loopServes s k.val) ∧
    (∃ (s : State), (∀ k < 6, s.sectorOn k = true)) :=
  ⟨⟨0, live, by unfold Claim.loopServes; decide⟩,
    ⟨live, by decide⟩⟩

theorem witness_PlacementAndDeliveryComplete :
    (∃ (s : State), s.fclkOn = true) ∧
    (∃ (s : State), s.fclkOn = true ∧ s.sys.powerGood = true) :=
  ⟨⟨live, by decide⟩,
    ⟨live, by decide⟩⟩

theorem witness_MemoryAndConsoleComplete :
    (∃ (s : State), s.fclkOn = true ∧ s.sys.powerGood = true) ∧
    (∃ (s : State), s.mediaOn = true) :=
  ⟨⟨live, by decide⟩,
    ⟨live, by decide⟩⟩

theorem witness_MediaCompletes :
    (∃ (s : State), s.composerOn = true) ∧
    (∃ (s : State), s.mediaOn = true) ∧
    (∃ (s : State), s.mediaOn = true ∧ Claim.audioRuns s) :=
  ⟨⟨live, by decide⟩,
    ⟨live, by decide⟩,
    ⟨sounding, ⟨by decide, by unfold Claim.audioRuns; decide⟩⟩⟩

theorem witness_HostAndDictionaryComplete :
    ∃ (s : State), s.sys.powerGood = true :=
  ⟨live, by decide⟩

theorem witness_ControlDomainCompletes :
    (∃ (s : State), s.sys.powerGood = true) ∧
    (∃ (s : State), s.fclkOn = true ∧ s.sys.powerGood = true) :=
  ⟨⟨live, by decide⟩,
    ⟨live, by decide⟩⟩

theorem witness_CoreArithmetic :
    (∃ (i : Instr) (c : Fin 17) (d : Fin 32) (f : (Fin 32 → Word) → Word) (s : State), Claim.aluRule i = some (c,
      d, f) ∧ Claim.canRun s c.val Shape.plain) ∧
    (∃ (i : Instr) (c : Fin 17) (d : Fin 32) (f : (Fin 32 → Word) → Word) (s : State), Claim.aluRule i = some (c,
      d, f) ∧ Claim.canRun s c.val Shape.plain ∧ s.loopBack c.val = true ∧ (s.core c.val).shadow = []) ∧
    (∃ (i : Instr) (c : Fin 17) (d : Fin 32) (f : (Fin 32 → Word) → Word) (s : State) (p : CwrPending),
      Claim.aluRule i = some (c, d, f) ∧ Claim.canRun s c.val Shape.plain ∧ s.atLend c.val = false ∧
      (s.core c.val).shadow = [p] ∧ (¬(p.cr = crASID ∧ bitAt p.value 31 = true))) ∧
    (∃ (c : Fin 17) (s : State), Claim.canRun s c.val Shape.branch) ∧
    (∃ (c : Fin 17) (level : Fin 4) (s : State), Claim.canRun s c.val Shape.loop ∧ level.val < 3 ∧
      (s.core c.val).shadow = []) ∧
    (∃ (i : Instr) (c : Fin 17) (k : Shape), Claim.isaRule i = some (c, k)) ∧
    (∃ (c : Fin 17) (s : State), s.translating c.val = false ∧ BitVec.toNat (s.core c.val).pc % 8 ≤ 4) ∧
    (∃ (c : Fin 17) (s : State), Claim.canRun s c.val Shape.plain ∧ c.val < 16 ∧ Claim.quiet s c.val) :=
  ⟨⟨.add 0 1 2 3, 0, 1, _, live, ⟨rfl, live_runs _⟩⟩,
    ⟨.add 0 1 2 3, 0, 1, _, looped, ⟨rfl, looped_runs, by decide, by decide⟩⟩,
    ⟨.add 0 1 2 3, 0, 1, _, shadowed, ⟨4, crESTK, 0⟩, ⟨rfl, shadowed_runs, by decide, by decide, by decide⟩⟩,
    ⟨0, live, live_runs _⟩,
    ⟨0, 2, live, ⟨live_runs _, by decide⟩⟩,
    ⟨.add 0 1 2 3, 0, _, rfl⟩,
    ⟨0, live, by decide⟩,
    ⟨0, live, ⟨live_runs _, by decide, by unfold Claim.quiet; decide⟩⟩⟩

theorem witness_CoreExceptions :
    (∃ (c : Fin 17) (off : Nat) (s : State), Claim.canRun s c.val Shape.plain ∧ Claim.frameRoom s c.val off) ∧
    (∃ (c : Fin 17) (n : BitVec 16) (s : State), Claim.canRun s c.val Shape.plain ∧
      crListed c.val n.toNat = true ∧ (crSupervisor n.toNat = true → s.supervisor c.val = true)) ∧
    (∃ (c : Fin 17) (n : BitVec 16) (s : State), Claim.canRun s c.val Shape.plain ∧ Claim.quiet s c.val ∧
      crListed c.val n.toNat = true ∧ (crSupervisor n.toNat = true → s.supervisor c.val = true)) ∧
    (∃ (c : Fin 17) (s : State), Claim.canRun s c.val Shape.wait ∧ s.supervisor c.val = true ∧ Claim.quiet s c.val) ∧
    (∃ (c : Fin 17) (off : Nat) (s : State), Claim.canRun s c.val Shape.ret ∧ s.supervisor c.val = true ∧
      s.translating c.val = false ∧ (s.core c.val).shadow = [] ∧ (s.core c.val).sb = [] ∧
      BitVec.toNat (s.greg c.val 30) = 268435456 + off ∧ off % 8 = 0 ∧ off + 24 ≤ Claim.localSize c.val ∧
      s.readsPoison (Claim.localKey c.val off) 8 = false ∧
      s.readsPoison (Claim.localKey c.val (off + 8)) 8 = false ∧
      s.readsPoison (Claim.localKey c.val (off + 16)) 8 = false) ∧
    (∃ (c : Fin 17) (s : State), Claim.canRun s c.val Shape.plain ∧ s.translating c.val = false ∧
      (s.core c.val).shadow = [] ∧ (s.core c.val).sb.length ≤ 4) :=
  ⟨⟨0, 0x40000, live, ⟨live_runs _, live_frame⟩⟩,
    ⟨0, 0, live, ⟨live_runs _, by decide⟩⟩,
    ⟨0, 0, live, ⟨live_runs _, by unfold Claim.quiet; decide, by decide⟩⟩,
    ⟨0, live, ⟨live_runs _, by decide, by unfold Claim.quiet; decide⟩⟩,
    ⟨0, 0x100, live.setCore 0 { live.core 0 with g := [(30, 0x10000100)] },
      ⟨⟨by decide, ⟨⟨_, rfl⟩, by unfold Claim.twofold; decide, by decide⟩, by decide⟩, by decide⟩⟩,
    ⟨0, live, ⟨live_runs _, by decide⟩⟩⟩

theorem witness_CoreLoads :
    (∃ (c : Fin 17) (va : Word) (n : Nat) (acc : Access) (s : State), s.translating c.val = false ∧ 0 < n ∧
      BitVec.toNat va % 8 + n ≤ 8 ∧ acc ≠ Access.fetch) ∧
    (∃ (c : Fin 17) (k : Nat) (s : State), Claim.canRun s c.val Shape.plain ∧ Claim.frameRoom s c.val k) ∧
    (∃ (c : Fin 17) (ga : Fin 32) (off : BitVec 12) (size : AccessSize) (upd : Bool) (o : Nat) (s : State),
      Claim.canRun s c.val Shape.plain ∧ s.translating c.val = false ∧
      BitVec.toNat (Claim.vaOf s c.val ga.val off upd) = 268435456 + o ∧
      o + Claim.sizeOf size ≤ Claim.localSize c.val ∧
      s.readsPoison (Claim.localKey c.val o) (Claim.sizeOf size) = false ∧
      (∀ e ∈ (s.core c.val).sb, e.overlaps (Claim.localKey c.val o) (Claim.sizeOf size) = false)) ∧
    (∃ (c : Fin 17) (ga : Fin 32) (off : BitVec 12) (size : AccessSize) (upd : Bool) (va : Word) (a : Nat) (ty :
      MemType) (older : List StoreEntry) (newer : List StoreEntry) (e : StoreEntry) (s : State) (s' : State),
      Claim.canRun s c.val Shape.plain ∧ ¬Claim.twofold (Claim.fetched s c.val).2 c.val (Claim.vaOf s c.val ga.val
      off upd) ∧ checkAccess c.val (Claim.vaOf s c.val ga.val off upd) (Claim.sizeOf size) Access.load
      (Claim.fetched s c.val).2 = (Except.ok [(va, a, Claim.sizeOf size, ty)], s') ∧ inDevice a = false ∧
      s'.partLost c.val a = false ∧ (s.core c.val).sb = older ++ e :: newer ∧
      (∀ x ∈ newer, x.overlaps a (Claim.sizeOf size) = false) ∧ (∀ i < Claim.sizeOf size, e.holds (a + i) = true)) ∧
    (∃ (c : Fin 17) (ga : Fin 32) (off : BitVec 12) (size : AccessSize) (upd : Bool) (o : Nat) (b : Nat) (e :
      StoreEntry) (bs : List Byte) (s : State), Claim.canRun s c.val Shape.plain ∧ s.translating c.val = false ∧
      BitVec.toNat (Claim.vaOf s c.val ga.val off upd) = 268435456 + o ∧ o % 8 + Claim.sizeOf size ≤ 8 ∧
      o + Claim.sizeOf size ≤ Claim.localSize c.val ∧ (s.core c.val).sb = [e] ∧
      e.cells = cellsFrom (Claim.localKey c.val b) bs ∧ e.mtype = MemType.uncached ∧ bs ≠ [] ∧
      b + bs.length ≤ Claim.localSize c.val ∧ e.overlaps (Claim.localKey c.val o) (Claim.sizeOf size) = true ∧
      e.covers (Claim.localKey c.val o) (Claim.sizeOf size) = false ∧ s.poison = [] ∧
      Claim.mayWrite s (Claim.localKey c.val b) bs.length) ∧
    (∃ (c : Fin 17) (ga : Fin 32) (off : BitVec 12) (size : AccessSize) (upd : Bool) (va : Word) (a : Nat) (ty :
      MemType) (s : State) (s' : State), Claim.canRun s c.val Shape.plain ∧ (s.core c.val).sb = [] ∧
      checkAccess c.val (Claim.vaOf s c.val ga.val off upd) (Claim.sizeOf size) Access.load (Claim.fetched s
      c.val).2 = (Except.ok [(va, a, Claim.sizeOf size, ty)], s') ∧ (inDevice a = true ∨ ty = MemType.cached ∧
      s'.l1Line c.val a = none ∨ ty ≠ MemType.cached ∧ (a < 536870912 ∨ 553648128 ≤ a) ∧ a < tsBase)) :=
  ⟨⟨0, 0, 8, .load, live, by decide⟩,
    ⟨0, 0x40000, live, ⟨live_runs _, live_frame⟩⟩,
    ⟨0, 1, 0, .word, false, 0, pointing, ⟨pointing_runs, by decide⟩⟩,
    ⟨0, 1, 0, .word, false, _, _, _, [], [], _, buffered, _,
      ⟨buffered_runs, by unfold Claim.twofold; decide, rfl, by decide, by decide, rfl, by decide, by decide⟩⟩,
    ⟨0, 1, 0, .word, false, 0, 3, _, [7], buffered1,
      ⟨buffered1_runs, by decide, by decide, by decide, by decide, rfl, by decide, by decide, by decide, by decide,
        by decide, by decide, by decide, by unfold Claim.mayWrite; decide⟩⟩,
    ⟨0, 2, 0, .word, false, _, _, _, pointing, _, ⟨pointing_runs, rfl, rfl, by decide⟩⟩⟩

theorem witness_CoreStores :
    (∃ (c : Fin 17) (ga : Fin 32) (off : BitVec 12) (size : AccessSize) (upd : Bool) (va : Word) (a : Nat) (ty :
      MemType) (s : State) (s' : State), Claim.canRun s c.val Shape.plain ∧
      ¬Claim.twofold (Claim.fetched s c.val).2 c.val (Claim.vaOf s c.val ga.val off upd) ∧
      checkAccess c.val (Claim.vaOf s c.val ga.val off upd) (Claim.sizeOf size) Access.store (Claim.fetched s
      c.val).2 = (Except.ok [(va, a, Claim.sizeOf size, ty)], s')) ∧
    (∃ (c : Fin 17) (ga : Fin 32) (s : State), Claim.canRun s c.val Shape.plain ∧ s.translating c.val = false ∧
      (s.core c.val).sb = [] ∧ BitVec.toNat (s.greg c.val ga.val) % 4 = 0) ∧
    (∃ (c : Fin 17) (ga : Fin 32) (o : Nat) (s : State), Claim.canRun s c.val Shape.plain ∧
      s.translating c.val = false ∧ (∀ e ∈ (s.core c.val).sb, e.overlaps (Claim.localKey c.val o) 4 = false) ∧
      BitVec.toNat (s.greg c.val ga.val) = 268435456 + o ∧ o % 4 = 0 ∧ o + 4 ≤ Claim.localSize c.val) ∧
    (∃ (c : Fin 17) (k : Nat) (s : State), Claim.canRun s c.val Shape.plain ∧ Claim.frameRoom s c.val k) ∧
    (∃ (c : Fin 17) (s : State), Claim.canRun s c.val Shape.plain ∧
      (∀ e ∈ (s.core c.val).sb, ∀ x ∈ e.cells, inDevice x.1 = false)) ∧
    (∃ (c : Fin 17) (gd : Fin 32) (ga : Fin 32) (gb : Fin 32) (s : State), Claim.canRun s c.val Shape.plain ∧
      distinct3 gd.val ga.val gb.val = true) :=
  ⟨⟨0, 1, 0, .word, false, _, _, _, pointing, _, ⟨pointing_runs, by unfold Claim.twofold; decide, rfl⟩⟩,
    ⟨0, 1, pointing, ⟨pointing_runs, by decide⟩⟩,
    ⟨0, 1, 0, pointing, ⟨pointing_runs, by decide⟩⟩,
    ⟨0, 0x40000, live, ⟨live_runs _, live_frame⟩⟩,
    ⟨0, live, ⟨live_runs _, by decide⟩⟩,
    ⟨0, 1, 2, 3, live, ⟨live_runs _, by decide⟩⟩⟩

theorem witness_CoreCachesAndTranslation :
    (∃ (c : Fin 17) (ga : Fin 32) (off : BitVec 12) (va : Word) (a : Nat) (ty : MemType) (s : State) (s' : State),
      Claim.canRun s c.val Shape.plain ∧ (s.core c.val).sb = [] ∧
      ¬Claim.twofold (Claim.fetched s c.val).2 c.val (Claim.baseAfter s c.val ga.val off) ∧
      checkAccess c.val (Claim.baseAfter s c.val ga.val off) 1 Access.load (Claim.fetched s c.val).2 = (Except.ok
      [(va, a, 1, ty)], s')) ∧
    (∃ (c : Fin 17) (ga : Fin 32) (off : BitVec 12) (e : Exc) (s : State) (s' : State),
      Claim.canRun s c.val Shape.plain ∧ checkAccess c.val (Claim.baseAfter s c.val ga.val off) 1 Access.load
      (Claim.fetched s c.val).2 = (Except.error e, s')) ∧
    (∃ (c : Fin 16) (s : State), s.coreReady c.val = true) ∧
    (∃ (c : Fin 16) (s : State), s.translating c.val = true) ∧
    (∃ (s : State), s.translating tsCore = true) :=
  ⟨⟨0, 1, 0, _, _, _, pointing, _, ⟨pointing_runs, rfl, by unfold Claim.twofold; decide, rfl⟩⟩,
    ⟨0, 3, 0, _, pointing, _, ⟨pointing_runs, rfl⟩⟩,
    ⟨0, live, by decide⟩,
    ⟨0, live.setCore 0 { live.core 0 with cr := [(crSTATUS, 5)] }, by decide⟩,
    ⟨live.setCore tsCore { cr := [(crSTATUS, 5)] }, by decide⟩⟩

theorem witness_CoreCoprocessors :
    (∃ (c : Fin 17) (ga : Fin 32) (s : State), Claim.canRun s c.val Shape.plain ∧ Claim.mayCop s c.val ∧
      BitVec.toNat (s.greg c.val ga.val) < 384 ∧ s.loopOn (BitVec.toNat (s.greg c.val ga.val)) = true ∧
      s.loopEnabled (BitVec.toNat (s.greg c.val ga.val)) = true ∧
      s.loopType (BitVec.toNat (s.greg c.val ga.val)) = 4) ∧
    (∃ (c : Fin 17) (ga : Fin 32) (s : State), Claim.canRun s c.val Shape.plain ∧ Claim.mayCop s c.val ∧
      BitVec.toNat (s.greg c.val ga.val) < 384 ∧ s.loopOn (BitVec.toNat (s.greg c.val ga.val)) = true ∧
      s.loopEnabled (BitVec.toNat (s.greg c.val ga.val)) = true ∧
      s.loopType (BitVec.toNat (s.greg c.val ga.val)) = 4 ∧
      (s.ctx (BitVec.toNat (s.greg c.val ga.val))).stage = LoopStage.posted ∧
      s.loopMisused (BitVec.toNat (s.greg c.val ga.val)) = false ∧
      s.fld (Reg.LOOP_CTL (BitVec.toNat (s.greg c.val ga.val))) 23 22 = 0 ∧
      s.fld (Reg.LOOP_CTL (BitVec.toNat (s.greg c.val ga.val))) 13 12 = 0 ∧
      fpIsZero (s.coef (BitVec.toNat (s.greg c.val ga.val)) (s.ctx (BitVec.toNat (s.greg c.val ga.val))).bank 20) =
      true) ∧
    (∃ (c : Fin 17) (s : State), Claim.canRun s c.val Shape.plain ∧ Claim.mayCop s c.val) ∧
    (∃ (c : Fin 17) (k : Nat) (s : State), Claim.canRun s c.val Shape.plain ∧ Claim.frameRoom s c.val k) :=
  ⟨⟨0, 0, looping4, ⟨looping4_runs, by unfold Claim.mayCop; decide, by decide⟩⟩,
    ⟨0, 0, looping4, ⟨looping4_runs, by unfold Claim.mayCop; decide, by decide⟩⟩,
    ⟨0, live, ⟨live_runs _, by unfold Claim.mayCop; decide⟩⟩,
    ⟨0, 0x40000, live, ⟨live_runs _, live_frame⟩⟩⟩

theorem witness_Interrupts :
    (∃ (s : State), s.fclkOn = true) ∧
    (∃ (s : State), s.sys.powerGood = true) :=
  ⟨⟨live, by decide⟩,
    ⟨live, by decide⟩⟩

theorem witness_ScratchBanks :
    (∃ (s : State), s.fclkOn = true) ∧
    (∃ (s : State), s.fclkOn = true ∧ s.bit Reg.MC_STATUS 31 = false) ∧
    (∃ (c : Fin 64) (s : State), (s.fld (Reg.DMA_CH_STATUS c.val) 31 29 = 1 ∨
      s.fld (Reg.DMA_CH_STATUS c.val) 31 29 = 3) ∧ s.reg (Reg.DMA_CH_LAT_TOL c.val) ≠ 0) :=
  ⟨⟨live, by decide⟩,
    ⟨live.setBit Reg.MC_STATUS 31 false, by decide⟩,
    ⟨0, (live.setFld (Reg.DMA_CH_STATUS 0) 31 29 3).setReg (Reg.DMA_CH_LAT_TOL 0) 1, by decide⟩⟩

theorem witness_DmaChannels :
    (∃ (s : State), s.fclkOn = true) ∧
    (∃ (c : Nat) (s : State), s.fclkOn ∧ s.bit Reg.DMA_ENG_CTL 31 = true ∧ s.bit Reg.DMA_ENG_STATUS 31 = false ∧
      s.dmaWinner = some c ∧ fieldOf ((s.dmaCh c).desc.getD 1 0) 31 26 = 0 ∧
      bitAt ((s.dmaCh c).desc.getD 1 0) 20 = false ∧ (s.dmaCh c).buf = [] ∧
      (s.dmaCh c).desc.getD 2 0 = 0x20000000 ∧ (s.dmaCh c).desc.getD 4 0 = 0x20100000 ∧
      Claim.plainLocal s c 0x20000000 16 ∧ Claim.plainLocal s c 0x20100000 16) ∧
    (∃ (c : Nat) (v : Word) (s : State) (r : State), s.fclkOn ∧ s.bit Reg.DMA_ENG_CTL 31 = true ∧
      s.bit Reg.DMA_ENG_STATUS 31 = false ∧ s.dmaWinner = some c ∧
      fieldOf ((s.dmaCh c).desc.getD 1 0) 31 26 = 48 ∧ bitAt ((s.dmaCh c).desc.getD 1 0) 20 = true ∧
      s.fld (Reg.DMA_CH_PACE c) 22 16 = 1 ∧ (s.dmaCh c).buf = [] ∧
      (s.dmaCh c).desc = [4, 0xC0100000, 0x80000000, 0, 0x20100000, 0] ∧
      busRead .dma 0 { s with dmaLast := c } = (v, r) ∧ r.dmaCh c = s.dmaCh c ∧
      (∀ a, r.reg (Reg.IOMMU_ST_CTL a) = s.reg (Reg.IOMMU_ST_CTL a)) ∧ Claim.plainLocal r c 0x20100000 4) ∧
    (∃ (s : State), s.fclkOn = true ∧ s.bit Reg.DMA_ENG_CTL 31 = true ∧ s.bit Reg.DMA_ENG_STATUS 31 = false) ∧
    (∃ (c : Fin 64) (s : State), s.fclkOn = true ∧ s.aborting 8 c.val = false) ∧
    (∃ (s : State), s.sys.powerGood = true) :=
  ⟨⟨live, by decide⟩,
    ⟨0, bursting 16 0 0x20000000,
      ⟨by decide, by decide, by decide, by decide, by decide, by decide, by decide, by decide, by decide,
        by unfold Claim.plainLocal; decide, by unfold Claim.plainLocal; decide⟩⟩,
    ⟨0, _, fromPeripheral, _,
      ⟨by decide, by decide, by decide, by decide, by decide, by decide, by decide, by decide, by decide, rfl,
        by decide, fun _ => rfl, by unfold Claim.plainLocal; decide⟩⟩,
    ⟨live, by decide⟩,
    ⟨0, live, by decide⟩,
    ⟨live, by decide⟩⟩

theorem witness_ConsoleContexts :
    (∃ (k : Fin 512) (s : State), s.mediaOn = true ∧ s.aborting 4 k.val = false) ∧
    (∃ (s : State), s.mediaOn = true) ∧
    (∃ (r : Fin 64) (target : Word) (d : Word) (cmd : Nat) (i : Instr) (s : State), s.mediaOn = true ∧
      ((cmd, i) ∈ [(1, Instr.scroll r d), (2, Instr.scrollAdd r d), (3, Instr.layerEn r d), (4,
      Instr.window r d), (5, Instr.palette r d), (6, Instr.backdrop r d), (7, Instr.render r d)] ∨
      i = Instr.raster target d ∧ cmd = fieldOf target 15 8 ∧ r.val = fieldOf target 5 0)) ∧
    (∃ (k : Fin 512) (s : State), s.mediaOn = true ∧ s.fld (Reg.CON_STATUS k.val) 31 30 = 2) ∧
    (∃ (s : State), s.mediaOn = true ∧ s.bit Reg.CON_GLB_CTL 31 = true) :=
  ⟨⟨0, live, by decide⟩,
    ⟨live, by decide⟩,
    ⟨0, 0, 0, 1, .scroll 0 0, live, by decide⟩,
    ⟨0, live.setFld (Reg.CON_STATUS 0) 31 30 2, by decide⟩,
    ⟨live.setBit Reg.CON_GLB_CTL 31 true, by decide⟩⟩

theorem witness_ConsoleRendering :
    (∃ (s : State), s.mediaOn = true ∧ s.bit Reg.CON_GLB_CTL 31 = true) ∧
    (∃ (p : Fin 16) (j : ConJob) (s : State), Claim.jobReady s p.val j ∧ s.now ≤ j.deadline ∧
      (∀ l < 4, bitAt (j.regs.getD (4 * l) 0) 31 = false) ∧ bitAt (j.regs.getD 17 0) 31 = false) ∧
    (∃ (ctl : Word) (map : Word) (scroll : Word) (x : Nat) (y : Nat) (s : State), ctl.getLsbD 31 = true ∧
      ctl.getLsbD 30 = false ∧ fieldOf ctl 29 28 ≠ 3 ∧ (x + scroll.toNat % 65536) % 8 = 0 ∧
      y + scroll.toNat / 65536 = 0 ∧ map.toNat % 8 = 0 ∧ Claim.plainLocal s 64 map.toNat 8) ∧
    (∃ (q : Fin 16) (s : State), s.mediaOn = true ∧ s.bit (Reg.CON_SQ_CTL q.val) 31 = true) :=
  ⟨⟨live.setBit Reg.CON_GLB_CTL 31 true, by decide⟩,
    ⟨0, job, jobbed, ⟨by unfold Claim.jobReady; decide, by decide⟩⟩,
    ⟨0x80000000, 0x20000000, 0, 0, 0, live.setBit (Reg.IOMMU_ST_CTL 64) 31 true, by unfold Claim.plainLocal; decide⟩,
    ⟨0, live.setBit (Reg.CON_SQ_CTL 0) 31 true, by decide⟩⟩

theorem witness_DisplayHeads :
    ∃ (s : State), s.composerOn = true :=
  ⟨live, by decide⟩

theorem witness_DisplayLayers :
    (∃ (s : State), s.composerOn = true) ∧
    (∃ (alpha : Nat) (src : Argb) (dst : Argb), alpha ≤ 1023 ∧ src.a ≤ 1023 ∧ src.r ≤ 1023 ∧ src.g ≤ 1023 ∧
      src.b ≤ 1023 ∧ dst.r ≤ 1023 ∧ dst.g ≤ 1023 ∧ dst.b ≤ 1023) ∧
    (∃ (c : Nat), c < 256) :=
  ⟨⟨live, by decide⟩,
    ⟨1023, ⟨1023, 1023, 0, 0⟩, ⟨0, 0, 0, 1023⟩, by decide⟩,
    ⟨0, by decide⟩⟩

theorem witness_Mover :
    (∃ (s : State), s.mediaOn = true) ∧
    (∃ (op : Nat) (i : Instr) (s : State), Claim.startOf op i ∧ s.mediaOn = true ∧ s.bit Reg.MV_CTL 31 = true) ∧
    (∃ (s : State) (n : Nat) (w : List Word), s.mediaOn = true ∧ s.bit Reg.MV_CTL 31 = true ∧
      s.fld Reg.MV_STATUS 31 29 = 1 ∧ s.mover.job = some (n, w) ∧
      BitVec.toNat (s.reg Reg.MV_ROWS) < Claim.high w ∧ Claim.soundJob w ∧
      Claim.rowLocal s w (Claim.rowOf w (BitVec.toNat (s.reg Reg.MV_ROWS))) ∧
      Claim.mayWrite s (Claim.dstPixel w (Claim.rowOf w (BitVec.toNat (s.reg Reg.MV_ROWS))) 0) (Claim.wide w *
      Claim.pixelBytes w)) ∧
    (∃ (s : State), s.mediaOn = true ∧ s.bit Reg.MV_CTL 31 = true) ∧
    (∃ (v : Word) (s : State), s.mediaOn = true ∧ s.aborting 5 0 = false ∧ (s.bit Reg.MV_CTL 31 = true ∧
      bitAt v 31 = true) ∧ s.fld Reg.MV_STATUS 31 29 ≠ 4) ∧
    (∃ (s : State), s.mediaOn = true ∧ s.aborting 5 0 = false) :=
  ⟨⟨live, by decide⟩,
    ⟨0, .copy, live.setBit Reg.MV_CTL 31 true, by unfold Claim.startOf; decide⟩,
    ⟨rowing, 0, oneByte,
      ⟨by decide, by decide, by decide, rfl, by decide, by unfold Claim.soundJob Claim.hasSource; decide,
        by unfold Claim.rowLocal Claim.plainLocal Claim.hasSource; decide, by unfold Claim.mayWrite; decide⟩⟩,
    ⟨rowing, by decide⟩,
    ⟨0x80000000, rowing, by decide⟩,
    ⟨live, by decide⟩⟩

theorem witness_AudioMixing :
    (∃ (d : Fin 2) (s : State) (b : Nat), Claim.audioRuns s ∧ b < 16 ∧ s.bit (Reg.AUD_BUS_CTL b) 31 = true ∧
      s.fld (Reg.AUD_BUS_CTL b) 30 29 = d.val) ∧
    (∃ (o : Nat) (s : State), Claim.audioRuns s ∧ o < 16) ∧
    (∃ (pdm : List (BitVec 24)) (tdm : List Word) (s : State), Claim.audioRuns s ∧ pdm.length = 16 ∧
      tdm.length = 64) ∧
    (∃ (v : Nat) (s : State), Claim.audioRuns s ∧ v < 32) ∧
    (∃ (v : Nat) (s : State), Claim.audioRuns s ∧ v < 32 ∧
      (s.voice v).place + BitVec.toNat (s.reg (Reg.VC_INC v)) < (if s.fld (Reg.VC_LEN v) 15 0 = 0 then 65536 else
      s.fld (Reg.VC_LEN v) 15 0) * 2 ^ 24 ∧ (s.voice v).len ≤ (s.voice v).done + 1) ∧
    (∃ (s : State), s.mediaOn = true) :=
  ⟨⟨0, sounding, 0, by unfold Claim.audioRuns; decide⟩,
    ⟨0, sounding, by unfold Claim.audioRuns; decide⟩,
    ⟨List.replicate 16 0, List.replicate 64 0, sounding, by unfold Claim.audioRuns; decide⟩,
    ⟨0, sounding, by unfold Claim.audioRuns; decide⟩,
    ⟨0, sounding, by unfold Claim.audioRuns; decide⟩,
    ⟨live, by decide⟩⟩

theorem witness_AudioDomains :
    (∃ (s : State), Claim.audioRuns s) ∧
    (∃ (s : State), s.mediaOn = true) :=
  ⟨⟨sounding, by unfold Claim.audioRuns; decide⟩,
    ⟨live, by decide⟩⟩

theorem witness_ChucksAndPorts :
    ∃ (s : State), s.sys.powerGood = true :=
  ⟨live, by decide⟩

theorem witness_AbortsAndWindows :
    (∃ (e : Fin 3) (ring : Bool) (n : BitVec 16) (k : Nat) (i : Instr), Claim.abortCommand e ring n k i) ∧
    (∃ (port : Port) (off : BitVec 16) (s : State), Claim.linked s (portIdx port) ∧ off.toNat / 4 * 4 < 61440 ∧
      Claim.mailPlain s) ∧
    (∃ (port : Port) (off : BitVec 16) (s : State), Claim.linked s (portIdx port) ∧
      Claim.linked s (1 - portIdx port) ∧ off.toNat / 4 * 4 < 61440 ∧ Claim.mailPlain s) ∧
    (∃ (port : Port) (s : State), Claim.linked s (portIdx port)) :=
  ⟨⟨0, false, 0, 0, .abortLoopContext 0 false 0, by unfold Claim.abortCommand; decide⟩,
    ⟨.a, 0, linked, by unfold Claim.linked Claim.mailPlain; decide⟩,
    ⟨.a, 0, linked, by unfold Claim.linked Claim.mailPlain; decide⟩,
    ⟨.a, linked, by unfold Claim.linked; decide⟩⟩

theorem witness_DictionaryObjects :
    (∃ (who : Fin 21) (i : Instr) (index : Nat) (sub : Nat), Claim.writesObject who i index sub) ∧
    (∃ (who : Fin 21) (s : State), Claim.served s who.val ∧ who.val < 3) ∧
    (∃ (who : Fin 21) (s : State), Claim.served s who.val ∧ who.val < 3 ∧ Claim.untouchedObject s 7937 1) ∧
    (∃ (who : Fin 21) (g : Fin 24) (s : State), Claim.served s who.val ∧ who.val < 3 ∧
      g.val < 4 * sectorCount s.sys.variant ∧ Claim.untouchedObject s 16400 (g.val + 1)) ∧
    (∃ (slot : Nat), slot < 4) ∧
    (∃ (who : Fin 21) (s : State), Claim.served s who.val ∧ who.val < 3 ∧ s.bootRec.tsSlot < 2 ∧
      s.bootRec.coreSlot < 2) :=
  ⟨⟨0, .storeSave 0 0, 0x1010, 1, .inl ⟨0, by decide⟩⟩,
    ⟨0, live, by unfold Claim.served; decide⟩,
    ⟨0, live, by unfold Claim.served Claim.untouchedObject; decide⟩,
    ⟨0, 0, live, by unfold Claim.served Claim.untouchedObject; decide⟩,
    ⟨0, by decide⟩,
    ⟨0, live, by unfold Claim.served; decide⟩⟩

theorem witness_DictionaryRequests :
    (∃ (who : Fin 21) (s : State), Claim.served s who.val) ∧
    (∃ (s : State) (c : List Byte) (resp : List Byte), (∀ x y,
      ecdsaValid x y (ofBeBytes (resp.take 66)) (ofBeBytes (resp.drop 66)) (ofBeBytes (sha512 c)) = true → sha512
      (beBytes 66 x ++ beBytes 66 y) ≠ s.keyHash 3)) ∧
    (∃ (s : State) (r : DictReq) (rest : List DictReq), Claim.nextRequest s 2 r rest ∧ s.poison = []) ∧
    (∃ (s : State) (r : DictReq) (rest : List DictReq), Claim.nextRequest s 3 r rest ∧ s.bankAwake 31 = true ∧
      Claim.mayWrite s (bank31 + r.buf) (min r.len 16)) ∧
    (∃ (s : State), s.sys.powerGood = true) :=
  ⟨⟨0, live, by unfold Claim.served; decide⟩,
    ⟨live, [], [], fun x y h => by simp [ecdsaValid, ofBeBytes, ofLeBytes] at h⟩,
    ⟨asking 0x80000000, _, _, ⟨⟨rfl, by decide, by unfold Claim.served; decide, by decide⟩, rfl⟩⟩,
    ⟨asking 0xC0000000, _, _,
      ⟨⟨rfl, by decide, by unfold Claim.served; decide, by decide⟩, by decide, by unfold Claim.mayWrite; decide⟩⟩,
    ⟨live, by decide⟩⟩

theorem witness_CanNode :
    (∃ (c : Fin 4) (s : State), Claim.canHears s c.val) ∧
    (∃ (m : Fin 2) (s : State), s.fclkOn = true ∧ s.bit (Reg.ETH_CTL m.val) 31 = true) ∧
    (∃ (s : State) (r : DictReq) (rest : List DictReq) (m : Fin 2), s.dict.queue = r :: rest ∧
      r.who = 3 + m.val ∧ Claim.served s r.who ∧ fieldOf r.cmd 31 30 = 1 ∧ fieldOf r.cmd 23 8 = 4120 ∧
      fieldOf r.cmd 7 0 = 2 ∧ r.off = 0 ∧ 4 ≤ r.len ∧ r.seq < 65536) :=
  ⟨⟨0, live.setBit (Reg.CAN_CTL 0) 31 true, by unfold Claim.canHears; decide⟩,
    ⟨0, live.setBit (Reg.ETH_CTL 0) 31 true, by decide⟩,
    ⟨{ live with dict := { queue := [{ who := 3, cmd := 0x40101802, off := 0, len := 4, buf := 0 }] } }, _, _, 0,
      ⟨rfl, by decide, by unfold Claim.served; decide, by decide⟩⟩⟩

theorem witness_SensorsAndLog :
    ∃ (s : State), s.sys.powerGood = true :=
  ⟨live, by decide⟩

theorem witness_Boot :
    ∃ (k : Fin 4) (cause : TamperCause), (k.val, cause) ∈ [(0, TamperCause.mesh), (1, TamperCause.supply), (2,
      TamperCause.clock), (3, TamperCause.otpParity)] :=
  ⟨0, .mesh, by decide⟩

theorem witness_CheckValueUnits :
    (∃ (r : CvReg) (k : Nat), (k, r) ∈ [(0, CvReg.data8), (1, CvReg.data16), (2, CvReg.data32), (3, CvReg.init),
      (4, CvReg.aliveIn), (5, CvReg.check)]) ∧
    (∃ (u : Fin 8) (i : Instr) (ks : List Nat), (i, ks) ∈ [(Instr.cvData u, [0, 1, 2]), (Instr.cvInit u, [3]),
      (Instr.cvAliveIn u, [4]), (Instr.cvCheck u, [5])]) ∧
    (∃ (u : Fin 8) (k : Nat) (lo : Word) (hi : Word) (r : List (Nat × Word × Word)) (s : State),
      Claim.cvFront s u.val [0, 1, 2] k lo hi r ∧ Claim.cvSound s u.val) ∧
    (∃ (u : Fin 8) (lo : Word) (hi : Word) (r : List (Nat × Word × Word)) (s : State),
      Claim.cvFront s u.val [3] 3 lo hi r ∧ Claim.cvSound s u.val) ∧
    (∃ (u : Fin 8) (lo : Word) (hi : Word) (r : List (Nat × Word × Word)) (s : State),
      Claim.cvFront s u.val [4] 4 lo hi r ∧ Claim.cvSound s u.val) ∧
    (∃ (u : Fin 8) (lo : Word) (hi : Word) (r : List (Nat × Word × Word)) (s : State),
      Claim.cvFront s u.val [5] 5 lo hi r ∧ Claim.cvSound s u.val) :=
  ⟨⟨.data8, 0, by decide⟩,
    ⟨0, .cvData 0, [0, 1, 2], by decide⟩,
    ⟨0, 0, 0, 0, [], checking 0, ⟨by unfold Claim.cvFront; decide, by unfold Claim.cvSound; decide⟩⟩,
    ⟨0, 0, 0, [], checking 3, ⟨by unfold Claim.cvFront; decide, by unfold Claim.cvSound; decide⟩⟩,
    ⟨0, 0, 0, [], checking 4, ⟨by unfold Claim.cvFront; decide, by unfold Claim.cvSound; decide⟩⟩,
    ⟨0, 0, 0, [], checking 5, ⟨by unfold Claim.cvFront; decide, by unfold Claim.cvSound; decide⟩⟩⟩

theorem witness_Pins :
    ∃ (s : State), s.sys.powerGood = true :=
  ⟨live, by decide⟩

theorem witness_RegisterAccess :
    (∃ (q : Requester) (s : State), Claim.allowed s q) ∧
    (∃ (s : State), s.sys.powerGood = true) :=
  ⟨⟨.tailstock, live, by unfold Claim.allowed; decide⟩,
    ⟨live, by decide⟩⟩

end Sys2Proof.Tests
end

section
/-! How an instruction that writes one register runs (R204, R211, R217): its fetch changes only the TLB of the core, its
loaded predecessor arrives, and its own value stands in its destination. -/

namespace Sys2Proof.Machine

open Sys2Proof.Claim

variable {s t u : State} {c : Nat}

/-! ### The fetch -/

/-- Core `c` is in `t` as in `s`, but for its TLB and whether it waits. -/
def FetchKept (c : Nat) (s t : State) : Prop :=
  { t.core c with tlb := [], waiting := false } = { s.core c with tlb := [], waiting := false }

theorem FetchKept.refl (c : Nat) (s : State) : FetchKept c s s := rfl

theorem FetchKept.trans (h : FetchKept c s t) (k : FetchKept c t u) : FetchKept c s u := Eq.trans k h

theorem FetchKept.of_core_eq (h : t.core c = s.core c) : FetchKept c s t := by rw [FetchKept, h]

/-- A reader of a core that looks at neither its TLB nor whether it waits answers the same. -/
theorem FetchKept.map {α : Type} (h : FetchKept c s t) (f : Core → α) :
    f { t.core c with tlb := [], waiting := false } = f { s.core c with tlb := [], waiting := false } := congrArg f h

theorem FetchKept.greg (h : FetchKept c s t) (r : Nat) : t.greg c r = s.greg c r :=
  h.map fun x => if r = 0 then 0 else tabGet 0 r x.g

theorem FetchKept.cr (h : FetchKept c s t) (n : Nat) : t.cr c n = s.cr c n := h.map fun x => tabGet (crReset n) n x.cr

theorem FetchKept.load (h : FetchKept c s t) : (t.core c).load = (s.core c).load := h.map Core.load

theorem FetchKept.wrote (h : FetchKept c s t) : (t.core c).wrote = (s.core c).wrote := h.map Core.wrote

theorem FetchKept.pc (h : FetchKept c s t) : (t.core c).pc = (s.core c).pc := h.map Core.pc

theorem FetchKept.slot (h : FetchKept c s t) : (t.core c).slot = (s.core c).slot := h.map Core.slot

theorem FetchKept.atLend (h : FetchKept c s t) : t.atLend c = s.atLend c := by
  simp only [State.atLend, State.loopBack, h.cr, h.pc]

theorem FetchKept.misplaced (h : FetchKept c s t) (k : Shape) : t.misplaced c k = s.misplaced c k := by
  simp only [State.misplaced, h.slot, h.atLend]

theorem FetchKept.settled (h : FetchKept c s t) (r : Nat) : settled t c r = settled s c r := by
  simp only [Claim.settled, h.load, h.wrote, h.greg]

theorem setCore_fetchKept (tlb : List TlbEntry) (w : Bool) (s u : State) :
    FetchKept c s (u.setCore c { s.core c with tlb := tlb, waiting := w }) := by
  rw [FetchKept, State.core_setCore_same]

theorem core_walkCheck (base va : Nat) (s : State) : (walkCheck base va s).core c = s.core c := by
  have h : (walkCheck base va s).cores = s.cores := walkCheck_touches base va s .cores (by decide)
  rw [State.core, h, State.core]

theorem tlbInsert_fetchKept (c : Nat) (e : TlbEntry) (s : State) : FetchKept c s (tlbInsert c e s) := by
  unfold tlbInsert
  dsimp only
  split <;> exact setCore_fetchKept ..

theorem translate_of_not_translating (h : s.translating c = false) (va : Word) (acc : Access) :
    (translate c va acc s).2 = s := by
  simp [translate, h]

/-- A translation that meets at most one TLB entry changes nothing of its core but the TLB (R259). -/
theorem translate_fetchKept {va : Word} (h : ¬ twofold s c va) (acc : Access) :
    FetchKept c s (translate c va acc s).2 := by
  unfold translate
  split
  · exact .refl c s
  · next ht =>
    split
    · exact .refl c s
    · dsimp only
      split
      · split <;> exact .refl c s
      · split
        · exact .of_core_eq (core_walkCheck _ _ s)
        · split
          · exact .refl c s
          · exact tlbInsert_fetchKept c _ s
      · next hone hnone =>
        refine absurd ⟨by simpa using ht, ?_⟩ h
        match hm : (s.core c).tlb.filter (tlbMatches (s.asid c) va.toNat) with
        | [] => exact absurd hm hnone
        | [e] => exact absurd hm (hone e)
        | _ :: _ :: _ => simp

theorem translateParts_of_not_translating (h : s.translating c = false) (acc : Access) (ps : List (Word × Nat)) :
    (translateParts c acc ps s).2 = s := by
  induction ps with
  | nil => rfl
  | cons p ps ih => simp only [translateParts, translate_of_not_translating h, ih]

theorem checkAccess_state (c : Nat) (va : Word) (n : Nat) (acc : Access) (s : State) :
    (checkAccess c va n acc s).2 = (translateParts c acc (splitParts va n) s).2 := by
  unfold checkAccess
  dsimp only
  split
  · rfl
  · split
    · rfl
    · split <;> rfl

theorem splitParts_of_aligned {va : Word} (h : va.toNat % 4 = 0) : splitParts va 4 = [(va, 4)] :=
  if_pos (by omega)

/-- The fetch at core `c`'s pc leaves the core as it was, but for its TLB; the core no longer waits (R211, R259). -/
theorem fetched_fetchKept (h : fetches s c) : FetchKept c s (fetched s c).2 := by
  obtain ⟨-, hone, halign⟩ := h
  let s0 := s.setCore c { s.core c with waiting := false }
  have core0 : s0.core c = { s.core c with waiting := false } := State.core_setCore_same ..
  have kept0 : FetchKept c s s0 := setCore_fetchKept ..
  have trans0 : s0.translating c = s.translating c := congrArg (bitAt · 2) (kept0.cr crSTATUS)
  have one0 : ¬ twofold s0 c (s.core c).pc := by
    simpa only [twofold, trans0, State.asid, kept0.cr, core0] using hone
  refine kept0.trans ?_
  show FetchKept c s0 (checkAccess c (s.core c).pc 4 .fetch s0).2
  rw [checkAccess_state]
  by_cases ht : s.translating c = true
  · rw [splitParts_of_aligned (halign ht)]
    exact translate_fetchKept one0 .fetch
  · rw [translateParts_of_not_translating (by simpa [trans0] using ht)]
    exact .refl c s0

/-- Where a core can run, an instruction has its own effect on the state that its fetch leaves (R211, R215, R226). -/
theorem issue_of_canRun {k : Shape} (h : canRun s c k) (body : State → Res) :
    issue c k body s = settle c (body (fetched s c).2) := by
  obtain ⟨hready, hfetch, hplace⟩ := h
  obtain ⟨ps, hok⟩ := hfetch.1
  have hplaced := ((fetched_fetchKept hfetch).misplaced k).trans hplace
  have core0 : (s.setCore c { s.core c with waiting := false }).core c = { s.core c with waiting := false } :=
    State.core_setCore_same ..
  unfold fetched at hok hplaced ⊢
  unfold issue
  simp only [hready, core0, hok, hplaced, Bool.not_true, Bool.false_eq_true, if_false]

/-! ### What follows an instruction leaves its registers alone -/

/-- Core `c` holds in `t` the general registers, and the loaded value on its way, that it holds in `s`. -/
def GregsKept (c : Nat) (s t : State) : Prop := (t.core c).g = (s.core c).g ∧ (t.core c).load = (s.core c).load

theorem GregsKept.refl (c : Nat) (s : State) : GregsKept c s s := ⟨rfl, rfl⟩

theorem GregsKept.trans (h : GregsKept c s t) (k : GregsKept c t u) : GregsKept c s u :=
  ⟨k.1.trans h.1, k.2.trans h.2⟩

theorem GregsKept.greg (h : GregsKept c s t) (r : Nat) : t.greg c r = s.greg c r := by
  rw [State.greg, h.1, State.greg]

theorem GregsKept.load (h : GregsKept c s t) : (t.core c).load = (s.core c).load := h.2

/-- An update of the core that writes neither. -/
theorem setCore_gregsKept {x : Core} (hg : x.g = (s.core c).g) (hl : x.load = (s.core c).load) :
    GregsKept c s (s.setCore c x) := by
  rw [GregsKept, State.core_setCore_same]
  exact ⟨hg, hl⟩

theorem setCr_gregsKept (c n : Nat) (v : Word) (s : State) : GregsKept c s (setCr c n v s) := setCore_gregsKept rfl rfl

theorem setPc_gregsKept (c : Nat) (pc npc : Word) (slot : Bool) (s : State) : GregsKept c s (setPc c pc npc slot s) :=
  setCore_gregsKept rfl rfl

theorem applyCwr_gregsKept (c : Nat) (s : State) (p : CwrPending) : GregsKept c s (applyCwr c s p) := by
  unfold applyCwr
  split
  · exact setCore_gregsKept rfl rfl
  · exact setCr_gregsKept ..

theorem foldl_applyCwr_gregsKept (c : Nat) (ps : List CwrPending) (s : State) :
    GregsKept c s (ps.foldl (applyCwr c) s) := by
  induction ps generalizing s with
  | nil => exact .refl c s
  | cons p ps ih => exact (applyCwr_gregsKept c s p).trans (ih _)

theorem tickShadow_gregsKept (c : Nat) (s : State) : GregsKept c s (tickShadow c s) := by
  unfold tickShadow
  refine GregsKept.trans ?_ (foldl_applyCwr_gregsKept ..)
  exact setCore_gregsKept rfl rfl

theorem loopStep_gregsKept (c : Nat) (a : Word) (ls : List Nat) (s : State) :
    GregsKept c s (loopStep c a ls s).2 := by
  induction ls generalizing s with
  | nil => exact .refl c s
  | cons l ls ih =>
    unfold loopStep
    split
    · split
      · exact setCr_gregsKept ..
      · exact (setCr_gregsKept ..).trans (ih _)
    · exact ih s

theorem advance_gregsKept (c : Nat) (s : State) : GregsKept c s (advance c s) := by
  have hloop : GregsKept c s (if s.loopBack c then loopStep c (s.core c).pc [2, 1, 0] s else (none, s)).2 := by
    split
    · exact loopStep_gregsKept ..
    · exact .refl c s
  unfold advance
  dsimp only
  split <;> exact hloop.trans (setPc_gregsKept ..)

theorem settle_next_gregsKept (c : Nat) (s : State) : GregsKept c (retire c none s) (settle c (.next s)) :=
  (advance_gregsKept ..).trans (tickShadow_gregsKept ..)

/-! ### The registers after an instruction -/

theorem greg_setCore (c r : Nat) (x : Core) (s : State) :
    (s.setCore c x).greg c r = if r = 0 then 0 else tabGet 0 r x.g := by
  rw [State.greg, State.core_setCore_same]

theorem greg_setGreg (c gd r : Nat) (v : Word) (s : State) :
    (setGreg c gd v s).greg c r = if r = gd ∧ gd ≠ 0 then v else s.greg c r := by
  unfold setGreg
  by_cases h0 : gd = 0
  · simp [h0]
  · rw [if_neg h0, greg_setCore]
    by_cases hr : r = gd
    · simp [hr, h0]
    · simp [hr, State.greg]

theorem load_setGreg (c gd : Nat) (v : Word) (s : State) : ((setGreg c gd v s).core c).load = (s.core c).load := by
  unfold setGreg
  split
  · rfl
  · rw [State.core_setCore_same]

theorem mem_wrote_setGreg (c gd d : Nat) (v : Word) (s : State) :
    d ∈ ((setGreg c gd v s).core c).wrote ↔ (d = gd ∧ gd ≠ 0) ∨ d ∈ (s.core c).wrote := by
  unfold setGreg
  by_cases h0 : gd = 0
  · simp [h0]
  · rw [if_neg h0, State.core_setCore_same]
    simp [h0]

/-- An own write of the instruction wins over the loaded value that arrives with it (R217). -/
theorem settled_setGreg (c gd r : Nat) (v : Word) (s : State) :
    settled (setGreg c gd v s) c r = if r = gd ∧ gd ≠ 0 then v else settled s c r := by
  unfold settled
  rw [load_setGreg]
  cases (s.core c).load with
  | none => exact greg_setGreg ..
  | some p =>
    obtain ⟨d, w⟩ := p
    simp only [mem_wrote_setGreg, greg_setGreg]
    by_cases hgd : r = gd ∧ gd ≠ 0
    · obtain ⟨rfl, h0⟩ := hgd
      simp +contextual [h0]
    · by_cases hrd : r = d
      · subst hrd
        simp only [hgd, false_or, if_false]
      · simp only [hrd, hgd, false_and, if_false]

/-- When an instruction retires, every register has its settled value (R217). -/
theorem greg_commitLoad (c r : Nat) (s : State) : (commitLoad c s).greg c r = settled s c r := by
  cases hload : (s.core c).load with
  | none => simp only [commitLoad, settled, hload]
  | some p =>
    obtain ⟨d, w⟩ := p
    simp only [commitLoad, settled, hload]
    split
    · next h =>
      have hno : ¬ (r = d ∧ r ≠ 0 ∧ d ∉ (s.core c).wrote) := by
        rintro ⟨rfl, h0, hw⟩
        exact h.elim h0 fun hc => hw (List.contains_iff_mem.1 hc)
      rw [greg_setCore, if_neg hno, State.greg]
    · next h =>
      obtain ⟨hd, hw⟩ : d ≠ 0 ∧ d ∉ (s.core c).wrote := by simpa using h
      rw [greg_setCore]
      by_cases hr : r = d
      · simp [hr, hd, hw]
      · simp [hr, State.greg]

theorem greg_retire (c r : Nat) (new : Option (Nat × Word)) (s : State) :
    (retire c new s).greg c r = settled s c r := by
  rw [← greg_commitLoad]
  exact greg_setCore ..

theorem load_retire (c : Nat) (new : Option (Nat × Word)) (s : State) :
    ((retire c new s).core c).load = new := by
  unfold retire
  rw [State.core_setCore_same]

/-- An instruction that completes with `v` written to `gd` gains it over the state that its fetch left. -/
theorem settle_setGreg_gains (h : FetchKept c s t) (gd : Nat) (v : Word) :
    gains s (settle c (.next (setGreg c gd v t))) c gd v := by
  have hkept := settle_next_gregsKept c (setGreg c gd v t)
  refine ⟨fun r => ?_, hkept.load.trans (load_retire ..)⟩
  rw [hkept.greg, greg_retire, settled_setGreg, h.settled]

/-- An operation on one register gains its value, computed from the register as it was before the instruction (R211). -/
theorem aluImm_gains (h : canRun s c .plain) (gd ga : Nat) (f : Word → Word) :
    gains s (aluImm c gd ga f s) c gd (f (s.greg c ga)) := by
  obtain ⟨-, hfetch, -⟩ := id h
  have hkept := fetched_fetchKept hfetch
  unfold aluImm
  rw [issue_of_canRun h, hkept.greg]
  exact settle_setGreg_gains hkept gd _

end Sys2Proof.Machine
end

section
/-! CLZ (R222). -/

namespace Sys2Proof.Machine

open Sys2Proof.Claim

theorem exec_clz (c : Fin 17) (gd ga : Fin 32) (s : State) :
    exec (.clz c gd ga) s = .next (aluImm c gd ga clzWord s) := rfl

/-- A word that has a bit set has a highest one, `i` places below the top. -/
theorem exists_highest_bit {a : Word} (h : a ≠ 0) :
    ∃ i < 32, (List.range 32).find? (fun i => bitAt a (31 - i)) = some i := by
  cases hfind : (List.range 32).find? (fun i => bitAt a (31 - i)) with
  | some i => exact ⟨i, List.mem_range.1 (List.mem_of_find?_eq_some hfind), rfl⟩
  | none =>
    refine absurd (BitVec.eq_of_getLsbD_eq fun j hj => ?_) h
    have hclear := List.find?_eq_none.1 hfind (31 - j) (List.mem_range.2 (by omega))
    rw [show 31 - (31 - j) = j by omega, bitAt_def] at hclear
    simpa using hclear

/-- A word shifted down by the place of its highest set bit is 1. -/
theorem ushiftRight_highest_bit {a : Word} {i : Nat}
    (h : (List.range 32).find? (fun i => bitAt a (31 - i)) = some i) : a >>> (31 - i) = 1 := by
  obtain ⟨hset, hi, hclear⟩ := List.find?_range_eq_some.1 h
  rw [List.mem_range] at hi
  refine BitVec.eq_of_getLsbD_eq fun j hj => ?_
  rw [BitVec.getLsbD_ushiftRight]
  by_cases hj0 : j = 0
  · subst hj0
    exact hset
  · have hone : (1 : Word).getLsbD j = false := by simp [BitVec.getLsbD_one, hj0]
    rw [hone]
    by_cases hle : j ≤ i
    · have habove := hclear (i - j) (by omega)
      rw [show 31 - (i - j) = 31 - i + j by omega] at habove
      simpa [bitAt_def] using habove
    · exact BitVec.getLsbD_of_ge a _ (by omega)

theorem clzWord_zero : clzWord 0 = 32 := by decide

theorem clzWord_top_bit : clzWord 0x80000000 = 0 := by decide

theorem clzWord_of_ne_zero {a : Word} (h : a ≠ 0) : (clzWord a).toNat ≤ 31 ∧ a >>> (31 - (clzWord a).toNat) = 1 := by
  obtain ⟨i, hi, hfind⟩ := exists_highest_bit h
  have hval : (clzWord a).toNat = i := by
    rw [clzWord, hfind, Option.getD_some, BitVec.toNat_ofNat]
    omega
  rw [hval]
  exact ⟨by omega, ushiftRight_highest_bit hfind⟩

/-- Settles O11: CLZ gains `clzWord` of its operand, which is the number of zero bits above the highest set bit. -/
theorem leadingZeros : Obligations.LeadingZeros := by
  unfold Obligations.LeadingZeros Claim.leadingZeros Does
  intro c d a s hrun
  refine ⟨_, exec_clz c d a s, clzWord (s.greg c a), aluImm_gains hrun d a clzWord, ?_, clzWord_of_ne_zero, ?_⟩
  · intro h
    rw [h, clzWord_zero]
  · intro h
    rw [h, clzWord_top_bit]

end Sys2Proof.Machine
end

section
/-! Reads answered (R32): one requester's answer leaves the registers and every other requester's answer alone. -/

namespace Sys2Proof.Machine

theorem reqIdx_injective : Function.Injective reqIdx := by
  intro q r h
  cases q <;> cases r <;> simp only [reqIdx, Requester.core.injEq, reduceCtorEq] at h ⊢ <;> omega

@[simp] theorem reg_answer (q : Requester) (v : Word) (s : State) (a : Nat) : (answer q v s).reg a = s.reg a := rfl

@[simp] theorem fld_answer (q : Requester) (v : Word) (s : State) (a h l : Nat) :
    (answer q v s).fld a h l = s.fld a h l := rfl

@[simp] theorem bit_answer (q : Requester) (v : Word) (s : State) (a i : Nat) : (answer q v s).bit a i = s.bit a i := rfl

@[simp] theorem answered_answer_same (q : Requester) (v : Word) (s : State) : (answer q v s).answered q = v :=
  tabGet_set_same ..

theorem answered_answer_ne {q r : Requester} (h : r ≠ q) (v : Word) (s : State) :
    (answer q v s).answered r = s.answered r :=
  tabGet_set_ne _ _ (reqIdx_injective.ne h) _ _

end Sys2Proof.Machine
end

section
/-! The acquisition of a chuck (R383, R401): what one requester's read answers and leaves, by who holds the chuck. -/

namespace Sys2Proof.Machine

open Sys2Proof.Claim

variable {n k : Nat} {q r : Requester} {s t : State}

/-! ### Codes of requesters (R401) -/

theorem ownerCode_eq_chuckCode (q : Requester) : ownerCode q = chuckCode q := by cases q <;> rfl

/-- Every code fits the owner field, and none is the 0 of a free chuck. -/
theorem chuckCode_bounds (h : chuckCode q = some k) : 0 < k ∧ k < 2 ^ 6 := by
  cases q <;> simp only [chuckCode, Option.some.injEq, reduceCtorEq] at h <;> omega

theorem chuckCode_inj (hq : chuckCode q = some k) (hr : chuckCode r = some k) : r = q := by
  cases q <;> cases r <;>
    simp only [chuckCode, Option.some.injEq, Requester.core.injEq, reduceCtorEq] at hq hr ⊢ <;> omega

/-- Only a requester that can hold a chuck waits for one. -/
theorem waiterBit_of_not_holder (h : chuckCode q = none) : waiterBit q = none := by
  cases q with
  | portA | portB => cases h
  | _ => rfl

theorem waiterBit_eq_16 : waiterBit q = some 16 ↔ q = .portA := by cases q <;> simp [waiterBit]

theorem waiterBit_eq_17 : waiterBit q = some 17 ↔ q = .portB := by cases q <;> simp [waiterBit]

/-- The waiter bits lie above the owner field. -/
theorem waiterBit_bounds {b : Nat} (h : waiterBit q = some b) : 5 < b ∧ b < 32 := by
  cases q <;> simp only [waiterBit, Option.some.injEq, reduceCtorEq] at h <;> omega

/-! ### Waiters -/

/-- The state in which a reading port is recorded as a waiter for chuck `n`. -/
def recordWaiter (q : Requester) (n : Nat) (s : State) : State :=
  match waiterBit q with
  | some b => s.setBit (Reg.CHK_OWNER n) b true
  | none => s

theorem recordWaiter_of_port {b : Nat} (h : waiterBit q = some b) :
    recordWaiter q n s = s.setBit (Reg.CHK_OWNER n) b true := by rw [recordWaiter, h]

theorem recordWaiter_of_not_port (h : waiterBit q = none) : recordWaiter q n s = s := by rw [recordWaiter, h]

@[simp] theorem answered_recordWaiter (q r : Requester) (n : Nat) (s : State) :
    (recordWaiter q n s).answered r = s.answered r := by
  unfold recordWaiter
  split <;> rfl

theorem recordWaiter_keeps (q : Requester) (n : Nat) (s : State) : Keeps s (recordWaiter q n s) [Reg.CHK_OWNER n] := by
  intro a ha
  unfold recordWaiter
  split
  · exact State.reg_setBit_ne s (List.ne_of_not_mem_cons ha) ..
  · rfl

@[simp] theorem owner_recordWaiter (q : Requester) (n : Nat) (s : State) :
    (recordWaiter q n s).fld (Reg.CHK_OWNER n) 5 0 = s.fld (Reg.CHK_OWNER n) 5 0 := by
  unfold recordWaiter
  split
  · next hb =>
    rw [fld_def, State.reg_setBit_same, fieldOf_withBit_out _ _ (.inl (waiterBit_bounds hb).1), fld_def]
  · rfl

theorem bit_recordWaiter (q : Requester) (n : Nat) (s : State) (b : Nat) :
    (recordWaiter q n s).bit (Reg.CHK_OWNER n) b =
      (s.bit (Reg.CHK_OWNER n) b || decide (waiterBit q = some b)) := by
  cases hq : waiterBit q with
  | none => simp [recordWaiter_of_not_port hq]
  | some b' =>
    rw [recordWaiter_of_port hq, bit_def, State.reg_setBit_same]
    by_cases hb : b = b'
    · subst hb
      simp [bitAt_withBit_same _ (waiterBit_bounds hq).2]
    · simp [bitAt_withBit_ne _ hb, Ne.symm hb, bit_def]

/-! ### One acquisition -/

/-- A read of CHK[n] by `q`, answered. -/
def acquire (n : Nat) (s : State) (q : Requester) : State := answerWith q (chkAcquireOp q n s)

theorem acquire_of_not_holder (h : chuckCode q = none) : acquire n s q = answer q 0 s := by
  simp only [acquire, chkAcquireOp, h, answerWith]

theorem acquire_free (h : chuckCode q = some k) (hfree : s.fld (Reg.CHK_OWNER n) 5 0 = 0) :
    acquire n s q = answer q (toWord (2 ^ 31 + k)) (s.setFld (Reg.CHK_OWNER n) 5 0 k) := by
  simp only [acquire, chkAcquireOp, h, hfree, if_true, answerWith]

theorem acquire_own (h : chuckCode q = some k) (hown : s.fld (Reg.CHK_OWNER n) 5 0 = k) :
    acquire n s q = answer q (toWord (2 ^ 31 + 2 ^ 30 + k)) s := by
  have hk : k ≠ 0 := Nat.ne_of_gt (chuckCode_bounds h).1
  simp only [acquire, chkAcquireOp, h, hown, hk, if_true, if_false, answerWith]

/-- Another's chuck: the read tells its owner, and a port becomes a waiter. -/
theorem acquire_held (h : chuckCode q = some k) (hheld : s.fld (Reg.CHK_OWNER n) 5 0 ≠ 0)
    (hother : s.fld (Reg.CHK_OWNER n) 5 0 ≠ k) :
    acquire n s q = answer q (toWord (s.fld (Reg.CHK_OWNER n) 5 0)) (recordWaiter q n s) := by
  simp only [acquire, chkAcquireOp, h, hheld, hother, if_false, recordWaiter]
  cases waiterBit q <;> rfl

/-- What a requester that holds no chuck, or not this one, reads of a chuck held under code `k`. -/
def toldWord (k : Nat) (q : Requester) : Word := if chuckCode q = none then 0 else toWord k

theorem acquire_of_other (hk : k ≠ 0) (howner : s.fld (Reg.CHK_OWNER n) 5 0 = k) (hq : chuckCode q ≠ some k) :
    acquire n s q = answer q (toldWord k q) (recordWaiter q n s) := by
  cases h : chuckCode q with
  | none =>
    rw [acquire_of_not_holder h, toldWord, if_pos h, recordWaiter_of_not_port (waiterBit_of_not_holder h)]
  | some k' =>
    have hne : k ≠ k' := fun e => hq (e ▸ h)
    rw [acquire_held h (howner ▸ hk) (howner ▸ hne), howner, toldWord, if_neg (by simp [h])]

/-! ### The owner field of a chuck that is taken -/

theorem owner_take (hk : k < 2 ^ 6) :
    (s.setFld (Reg.CHK_OWNER n) 5 0 k).fld (Reg.CHK_OWNER n) 5 0 = k := by
  rw [fld_def, State.reg_setFld_same, fieldOf_withField_same _ _ (by decide)]
  exact Nat.mod_eq_of_lt hk

theorem upper_take : (s.setFld (Reg.CHK_OWNER n) 5 0 k).fld (Reg.CHK_OWNER n) 31 6 = s.fld (Reg.CHK_OWNER n) 31 6 := by
  rw [fld_def, State.reg_setFld_same, fieldOf_withField_out _ _ (.inr (by decide)), fld_def]

theorem take_keeps : Keeps s (s.setFld (Reg.CHK_OWNER n) 5 0 k) [Reg.CHK_OWNER n] :=
  fun _ ha => State.reg_setFld_ne s (List.ne_of_not_mem_cons ha) ..

/-! ### The command -/

theorem exec_chkAcquire (hpow : s.sys.powerGood = true) (n : Fin 256) (qs : List Requester) :
    exec (.chkAcquire n qs) s = .next ((chuckOrder n qs).foldl (acquire n) s) := by
  show execChkAcquire n qs s = _
  rw [execChkAcquire, if_pos hpow]
  rfl

theorem exec_chkAcquire_one (hpow : s.sys.powerGood = true) (n : Fin 256) (q : Requester) :
    exec (.chkAcquire n [q]) s = .next (acquire n s q) := exec_chkAcquire hpow n [q]

theorem chkAcquire_touches {n : Fin 256} {qs : List Requester} (h : exec (.chkAcquire n qs) s = .next t) :
    Touches [.regs, .resp] s t := by
  obtain ⟨u, hu, htouch⟩ := execChkAcquire_touches n qs s
  cases h.symm.trans hu
  exact htouch

/-- Settles O10: each clause is the acquisition's case by who holds the chuck. -/
theorem chuckResultWord : Obligations.ChuckResultWord := by
  unfold Obligations.ChuckResultWord Claim.chuckAcquire
  intro n q s hpow
  simp only [ownerCode_eq_chuckCode]
  have hexec := exec_chkAcquire_one hpow n q
  have htouch := chkAcquire_touches hexec
  refine ⟨fun hq => ?_, fun k hq => ⟨fun hfree => ?_, fun hown => ?_, fun hheld hother => ?_⟩⟩
  · rw [hexec, acquire_of_not_holder hq]
  · rw [acquire_free hq hfree] at hexec htouch
    refine ⟨_, hexec, answered_answer_same .., ?_, ?_, take_keeps, htouch⟩
    · rw [fld_answer, owner_take (chuckCode_bounds hq).2]
    · rw [fld_answer, upper_take]
  · rw [hexec, acquire_own hq hown]
  · rw [acquire_held hq hheld hother] at hexec htouch
    refine ⟨_, hexec, answered_answer_same .., ?_, ?_, ?_, recordWaiter_keeps q n s, htouch⟩
    · rw [fld_answer, owner_recordWaiter]
    · rw [bit_answer, bit_recordWaiter]
      simp only [waiterBit_eq_16]
    · rw [bit_answer, bit_recordWaiter]
      simp only [waiterBit_eq_17]

end Sys2Proof.Machine
end

section
/-! Acquisitions of one chuck in one cycle (R384): the first in the order takes it, and every other finds it held. -/

namespace Sys2Proof.Machine

open Sys2Proof.Claim

variable {n k : Nat} {q r : Requester} {s t : State}

/-! ### The order in which they are served -/

theorem sortBy_ins_perm {α : Type} (f : α → List Nat) (x : α) (l : List α) : (sortBy.ins f x l).Perm (x :: l) := by
  induction l with
  | nil => exact .refl _
  | cons y ys ih =>
    unfold sortBy.ins
    split
    · exact (ih.cons y).trans (.swap x y ys)
    · exact .refl _

theorem sortBy_perm {α : Type} (f : α → List Nat) (l : List α) : (sortBy f l).Perm l := by
  induction l with
  | nil => exact .refl _
  | cons x xs ih => exact (sortBy_ins_perm f x _).trans (ih.cons x)

theorem chuckOrder_cons (n : Nat) (q : Requester) (qs : List Requester) :
    chuckOrder n (q :: qs) = sortBy.ins (fun q => [chuckRank n q]) q (chuckOrder n qs) := rfl

/-- A requester goes before the first one served so far unless that one ranks before it. -/
theorem ins_chuckRank_cons (n : Nat) (q r : Requester) (rs : List Requester) :
    sortBy.ins (fun q => [chuckRank n q]) q (r :: rs) =
      if chuckRank n r < chuckRank n q then r :: sortBy.ins (fun q => [chuckRank n q]) q rs else q :: r :: rs := by
  simp only [sortBy.ins, leastBy.lexLt, Bool.and_false, Bool.or_false, decide_eq_true_eq]

/-- A requester that ranks before every other is served first. -/
theorem chuckOrder_head {qs : List Requester} (hnd : qs.Nodup) (hq : q ∈ qs)
    (hfirst : ∀ r ∈ qs, r ≠ q → chuckRank n q < chuckRank n r) : (chuckOrder n qs).head? = some q := by
  induction qs with
  | nil => cases hq
  | cons x xs ih =>
    obtain ⟨hx, hxs⟩ := List.nodup_cons.1 hnd
    rw [chuckOrder_cons]
    by_cases hqx : q = x
    · subst hqx
      cases horder : chuckOrder n xs with
      | nil => rfl
      | cons y ys =>
        have hy : y ∈ xs := (sortBy_perm _ xs).mem_iff.1 (horder ▸ List.mem_cons_self)
        have hlt := hfirst y (List.mem_cons_of_mem _ hy) fun e => hx (e ▸ hy)
        rw [ins_chuckRank_cons, if_neg (Nat.lt_asymm hlt), List.head?_cons]
    · have hhead := ih hxs ((List.mem_cons.1 hq).resolve_left hqx) fun r hr => hfirst r (List.mem_cons_of_mem _ hr)
      obtain ⟨rs, hrs⟩ := List.head?_eq_some_iff.1 hhead
      rw [hrs, ins_chuckRank_cons, if_pos (hfirst x List.mem_cons_self (Ne.symm hqx)), List.head?_cons]

/-- The first in the order is served first, and then the others. -/
theorem chuckOrder_of_first {qs : List Requester} (hnd : qs.Nodup) (hq : q ∈ qs)
    (hfirst : ∀ r ∈ qs, r ≠ q → chuckRank n q < chuckRank n r) :
    ∃ rs, chuckOrder n qs = q :: rs ∧ ∀ r, r ∈ rs ↔ r ≠ q ∧ r ∈ qs := by
  obtain ⟨rs, hrs⟩ := List.head?_eq_some_iff.1 (chuckOrder_head hnd hq hfirst)
  have hperm : (q :: rs).Perm qs := hrs ▸ sortBy_perm _ qs
  obtain ⟨-, herase⟩ := List.cons_perm_iff_perm_erase.1 hperm
  exact ⟨rs, hrs, fun r => herase.mem_iff.trans hnd.mem_erase_iff⟩

/-- The port that is served before the other for chuck `n` (R384). -/
def firstPort (n : Nat) : Requester := if n % 2 = 0 then .portA else .portB

/-- The other port. -/
def secondPort (n : Nat) : Requester := if n % 2 = 0 then .portB else .portA

theorem chuckRank_firstPort (n : Nat) : chuckRank n (firstPort n) = 1 := by
  unfold firstPort
  split <;> simp [chuckRank, *]

theorem chuckRank_secondPort (n : Nat) : chuckRank n (secondPort n) = 2 := by
  unfold secondPort
  split <;> simp [chuckRank, *]

theorem port_cases (n : Nat) :
    firstPort n = .portA ∧ secondPort n = .portB ∨ firstPort n = .portB ∧ secondPort n = .portA := by
  unfold firstPort secondPort
  split <;> simp

/-- The three places before the cores belong to one requester each. -/
theorem chuckRank_cases (n : Nat) (r : Requester) :
    r = .tailstock ∨ r = firstPort n ∨ r = secondPort n ∨ 2 < chuckRank n r := by
  cases r with
  | tailstock => exact .inl rfl
  | portA => obtain ⟨h, -⟩ | ⟨-, h⟩ := port_cases n <;> simp [h]
  | portB => obtain ⟨-, h⟩ | ⟨h, -⟩ := port_cases n <;> simp [h]
  | core c => exact .inr (.inr (.inr (Nat.lt_of_lt_of_le (by decide) (Nat.le_add_right 3 c.val))))
  | dma | debug => exact .inr (.inr (.inr (by simp [chuckRank])))

theorem core_chuckRank_lt_of_not_holder {c : Fin 16} (h : chuckCode r = none) :
    chuckRank n (.core c) < chuckRank n r := by
  cases r <;> simp only [chuckCode, reduceCtorEq] at h <;> simp only [chuckRank] <;> omega

/-- The ranks spell the order of R384. -/
theorem chuckRank_lt_of_servedBefore (h : servedBefore n q r) : chuckRank n q < chuckRank n r := by
  have h1 := chuckRank_firstPort n
  have h2 := chuckRank_secondPort n
  have hrank := chuckRank_cases n r
  obtain ⟨rfl, ht⟩ | ⟨(rfl : q = firstPort n), ht, (hp : r ≠ firstPort n)⟩ |
    ⟨(rfl : q = secondPort n), ht, (hp : r ≠ firstPort n), (hp' : r ≠ secondPort n)⟩ |
    ⟨c, d, rfl, rfl, hcd⟩ | ⟨c, rfl, hr⟩ := h
  · have h0 : chuckRank n .tailstock = 0 := rfl
    obtain rfl | rfl | hrank := hrank.resolve_left ht <;> omega
  · obtain rfl | hrank := (hrank.resolve_left ht).resolve_left hp <;> omega
  · have hrank := ((hrank.resolve_left ht).resolve_left hp).resolve_left hp'
    omega
  · exact Nat.add_lt_add_left hcd 3
  · exact core_chuckRank_lt_of_not_holder (ownerCode_eq_chuckCode r ▸ hr)

/-! ### The others -/

/-- Others' acquisitions of a chuck held under code `k` tell each of `rs` its owner, record the ports among them as
waiters, and change nothing else. -/
structure OthersServed (n k : Nat) (rs : List Requester) (s t : State) : Prop where
  owner : t.fld (Reg.CHK_OWNER n) 5 0 = k
  told : ∀ r ∈ rs, t.answered r = toldWord k r
  answered : ∀ r, r ∉ rs → t.answered r = s.answered r
  waiting : ∀ r ∈ rs, ∀ b, waiterBit r = some b → t.bit (Reg.CHK_OWNER n) b = true
  keeps : Keeps s t [Reg.CHK_OWNER n]

theorem foldl_acquire_othersServed (hk : k ≠ 0) (howner : s.fld (Reg.CHK_OWNER n) 5 0 = k) (rs : List Requester)
    (hrs : ∀ r ∈ rs, chuckCode r ≠ some k) : OthersServed n k rs s (rs.foldl (acquire n) s) := by
  induction rs using List.reverseRecOn with
  | nil => exact ⟨howner, by simp, fun _ _ => rfl, by simp, fun _ _ => rfl⟩
  | append_singleton rs q ih =>
    simp only [List.forall_mem_append, List.forall_mem_singleton] at hrs
    obtain ⟨hrs, hq⟩ := hrs
    have h := ih hrs
    rw [List.foldl_append, List.foldl_cons, List.foldl_nil, acquire_of_other hk h.owner hq]
    refine ⟨?_, fun r hr => ?_, fun r hr => ?_, fun r hr b hb => ?_, fun a ha => ?_⟩
    · rw [fld_answer, owner_recordWaiter, h.owner]
    · by_cases hrq : r = q
      · rw [hrq, answered_answer_same]
      · rw [answered_answer_ne hrq, answered_recordWaiter, h.told r (by simpa [hrq] using hr)]
    · obtain ⟨hr, hrq⟩ : r ∉ rs ∧ r ≠ q := by simpa using hr
      rw [answered_answer_ne hrq, answered_recordWaiter, h.answered r hr]
    · rw [bit_answer, bit_recordWaiter]
      by_cases hrq : r = q
      · rw [← hrq, decide_eq_true hb, Bool.or_true]
      · rw [h.waiting r (by simpa [hrq] using hr) b hb, Bool.true_or]
    · rw [reg_answer, recordWaiter_keeps q n _ a ha, h.keeps a ha]

/-- Settles O9: the first requester takes the free chuck, and the others are served against a chuck that it holds. -/
theorem chuckTies : Obligations.ChuckTies := by
  unfold Obligations.ChuckTies Claim.chuckTie
  intro n qs q k s hpow hnd hq hcode hfirst hfree
  simp only [ownerCode_eq_chuckCode] at hcode ⊢
  obtain ⟨hk0, hk⟩ := chuckCode_bounds hcode
  obtain ⟨rs, horder, hmem⟩ :=
    chuckOrder_of_first hnd hq fun r hr hne => chuckRank_lt_of_servedBefore (hfirst r hr hne)
  have hothers : ∀ r ∈ rs, chuckCode r ≠ some k := fun r hr he => ((hmem r).1 hr).1 (chuckCode_inj hcode he)
  have hexec := exec_chkAcquire hpow n qs
  rw [horder, List.foldl_cons, acquire_free hcode hfree] at hexec
  have htaken : (answer q (toWord (2 ^ 31 + k)) (s.setFld (Reg.CHK_OWNER n) 5 0 k)).fld (Reg.CHK_OWNER n) 5 0 = k := by
    rw [fld_answer, owner_take hk]
  have h := foldl_acquire_othersServed (Nat.ne_of_gt hk0) htaken rs hothers
  refine ⟨_, hexec, h.owner, ?_, fun r hr hne hholds => ?_, fun hr hne => ?_, fun hr hne => ?_, fun a ha => ?_,
    chkAcquire_touches hexec⟩
  · rw [h.answered q fun hr => ((hmem q).1 hr).1 rfl, answered_answer_same]
  · rw [h.told r ((hmem r).2 ⟨hne, hr⟩), toldWord, if_neg hholds]
  · exact h.waiting .portA ((hmem _).2 ⟨hne.symm, hr⟩) 16 rfl
  · exact h.waiting .portB ((hmem _).2 ⟨hne.symm, hr⟩) 17 rfl
  · rw [h.keeps a ha, reg_answer, take_keeps a ha]

end Sys2Proof.Machine
end
